-- ==== Sys2Proof/Word.lean ====
section
/-! DEFINITION. The word types of the AKN5016 (R7): bytes, 32-bit parameter words, 64-bit memory words. -/
namespace Sys2Proof

/-- A byte of a packet, a stream or a memory. -/
abbrev Byte := BitVec 8

/-- A parameter or result word (R7: each word is 32 bits). -/
abbrev Word := BitVec 32

/-- A counter of a status section: 32 bits, saturating at 0xFFFF_FFFF (R340 and the counter rules of the
chapters). -/
abbrev Counter := BitVec 32

/-- A frame number: a 32-bit count that wraps modulo 2^32 (R12). -/
abbrev FrameId := BitVec 32

/-- A pixel value of type u20 (R10). -/
abbrev Px := BitVec 20

end Sys2Proof
end

