-- ==== Sys2Proof/Syntax.lean ====
section
/-! DEFINITION. The commands of the AKN5016 block: one constructor per row of spec/opcode_table.json, with the operands
that reach the device from outside (instants, packets, levels, analogue results). -/
namespace Sys2Proof

/-- When something happens. `tclk`: TCLK cycles (10 ns nominal) since VDDAON rose, the grid on which exposure events,
timers and the watchdog count (R55). `real`: real time since then in 1/16 ns, which ring time, t_guard and stated
bounds in microseconds count (R55: ring time and t_guard do not scale with TRIM_ROOT). -/
structure Instant where
  tclk : Nat
  real : Nat
deriving DecidableEq, Repr

/-- A trunk port: 0 EAST, 1 WEST in PORT fields (R283). -/
inductive Port where
  | east
  | west
deriving DecidableEq, Repr

/-- A two-wire port. -/
inductive TwPort where
  | a
  | b
deriving DecidableEq, Repr

/-- The path a command packet arrives on (R320): the trunk port with the slot's SRC and DEST, or a two-wire mailbox. -/
inductive CmdPath where
  | trunk (port : Port) (src dest : BitVec 7)
  | twoWire (p : TwPort)
deriving DecidableEq, Repr

/-- An active tile, an OB tile (R26). -/
abbrev TileIx := Fin 12288

/-- The tile a block converter belongs to. -/
inductive ConvTile where
  | active (t : TileIx)
  | ob (o : Fin 225)
deriving DecidableEq, Repr

/-- The four PLLs (R350). -/
inductive Pll where
  | root
  | out
  | west
  | east
deriving DecidableEq, Repr

/-- A phase error of a PLL as a row brings it: its PLL, and its size in ps. -/
structure PhaseError where
  pll : Pll
  ps : Nat
deriving DecidableEq, Repr

/-- The two reference clocks. -/
inductive RefClk where
  | ref0
  | ref1
deriving DecidableEq, Repr

/-- The eight reset domains of R13. -/
inductive Domain where
  | alwaysOn
  | clock
  | bureau
  | memory
  | converter
  | pipeline
  | bobbin
  | trunk
deriving DecidableEq, Repr

/-- What a fuse word holds: an option (R397) or an analog trim (R45). Which word holds which, the spec does not say. -/
inductive FuseField where
  | wdtStart
  | resetOrder
  | twaAddr
  | twbAddr
  | twaLevel
  | twbLevel
  | trunkRate
  | autoload
  | rampSlope (generator : Fin 825)
  | rampOffset (generator : Fin 825)
  | comparator
  | gainThreshold
deriving DecidableEq, Repr

/-- What the end of option loading finds: the BOOT straps and TESTEN as sampled, VDDIO in mV, and what the words hold that failed
three reads. -/
structure OptionLoad where
  boot : BitVec 2
  vddio : Nat
  testen : Bool
  failed : List FuseField
deriving DecidableEq, Repr

/-- A supply has fallen: at an instant, and whether an on-die rail monitor found it, else PGOOD fell (R387, R484). -/
structure SupplyFall where
  instant : Instant
  rail : Bool
deriving DecidableEq, Repr

/-- What an access to a memory word finds in its SECDED code (R94). -/
inductive EccFind where
  | clean
  | single
  | double
deriving DecidableEq, Repr

/-- An error that a 64-bit word of the memory wafer or of the descriptor files holds at an access (R94): the word, which is
address / 8, or 0x2000_0000 plus the word of the descriptor files (offset / 8 of their diagnostic space), or at a PEEK 0x2010_0000
plus the word of the pillow memories, and whether it is uncorrectable. -/
structure EccHit where
  word : Nat
  double : Bool
deriving DecidableEq, Repr

/-- An instant at which a row reads memory, and the errors that the words it reads hold. -/
structure MemRead where
  t : Instant
  ecc : List EccHit
deriving DecidableEq, Repr

/-- The opening of a lane's eye at an error contour of 10⁻⁹ (R272): vertical in 2 mV, horizontal in 1/128 UI. -/
structure EyeOpening where
  height : Nat
  width : Nat
deriving DecidableEq, Repr

/-- A 66-bit block as it came over a receive lane (R262): the sync header, and the payload as the lane carried it, scrambled. -/
structure RxBlock where
  lane : Fin 4
  sync : BitVec 2
  bits : BitVec 64
deriving DecidableEq, Repr

/-- How an eMRAM page write ended (R409). -/
inductive PageResult where
  | good
  | verifyFailed
deriving DecidableEq, Repr

/-- A START or STOP on a two-wire bus: whether it comes before the ninth clock of a byte, and for how many ns the new level of SDA
lasts with SCL high (R427, R440). -/
structure BusEdge where
  midByte : Bool
  lasts : Nat
deriving DecidableEq, Repr

/-- The level that a TRG pin takes, and at how many successive TCLK samples it shows (R445). -/
structure PinLevel where
  level : Bool
  samples : Nat
deriving DecidableEq, Repr

/-- An edge of TCK: its direction, and whether TRST_N is high at it (R495). -/
structure TckEdge where
  rising : Bool
  trstHigh : Bool
deriving DecidableEq, Repr

/-- The outcome of a controller transfer on a two-wire bus (R442). -/
inductive TwResult where
  | done
  | addressNack
  | dataNack
  | arbitrationLost
  | sclTimeout
  | busStuck
deriving DecidableEq, Repr

/-- A MGMT or TIME slot as it is processed (R296, R298): SRC, DEST, RING, HOPS and the payload words W0 onward. -/
structure MgmtSlot where
  src : BitVec 7
  dest : BitVec 7
  ringB : Bool
  hops : BitVec 8
  words : List Word
deriving DecidableEq, Repr

/-- What the parity checks of a bobbin's own memories find as it issues an instruction (R223, R257). -/
inductive ParityFind where
  | clean
  | imem
  | mem
deriving DecidableEq, Repr

/-- The bobbin that issues an instruction, with what its memories' parity checks find. -/
structure BobbinIssue where
  ix : Fin 128
  parity : ParityFind
deriving DecidableEq, Repr

/-- A slot as it stands on a hop (R293): its header block and 32 payload blocks as 64 words. -/
structure RawSlot where
  hdr : BitVec 64
  payload : List Word
deriving DecidableEq, Repr

/-- What RATIO_CAL measures of one block (R47): its converter, the samples of each gain, the sums of v - 128 over its HCG
and its LCG samples, and whether no sample was saturated or rejected. -/
structure RatioMeasure where
  conv : Nat
  count : Nat
  sumH : Int
  sumL : Int
  clean : Bool
deriving DecidableEq, Repr

/-- The commands of the block. Every row of spec/opcode_table.json is one constructor, in the table's order. -/
inductive Instr where
  | commandArrival (t : Instant) (path : CmdPath) (bytes : List Byte)
  | cmdPacketTimeout (t : Instant) (src : BitVec 7)
  | profileExecute (t : Instant)
  | identify (t : Instant)
  | negotiate (t : Instant)
  | getStatus (t : Instant)
  | getEvents (t : Instant)
  | reset (t : Instant)
  | trunkResetPacket (t : Instant) (src dest : BitVec 7) (bytes : List Byte)
  | softResetAssert (t : Instant)
  | captureStop (t : Instant)
  | captureConfig (t : Instant)
  | captureStart (t : Instant)
  | setFrameParams (t : Instant)
  | loadTileMap (t : Instant)
  | setTrigger (t : Instant)
  | historyFreeze (t : Instant)
  | historyRead (t : Instant)
  | pipeConfig (t : Instant)
  | setPipeParams (t : Instant)
  | loadCalTable (t : Instant)
  | setInputs (t : Instant)
  | statsConfig (t : Instant)
  | statsRead (t : Instant)
  | streamConfig (t : Instant)
  | streamEnable (t : Instant)
  | streamDisable (t : Instant)
  | setStreamParams (t : Instant)
  | kernelLoad (t : Instant)
  | bobbinAlloc (t : Instant)
  | kernelStart (t : Instant)
  | kernelStop (t : Instant)
  | kernelStatus (t : Instant)
  | trunkConfig (t : Instant)
  | trunkStatus (t : Instant)
  | ringMap (t : Instant)
  | portAssign (t : Instant)
  | timeSync (t : Instant)
  | laneDiag (t : Instant)
  | nvmRead (t : Instant)
  | nvmWrite (t : Instant)
  | fwUpdateBegin (t : Instant)
  | fwUpdateData (t : Instant)
  | fwUpdateCommit (t : Instant)
  | dumpRead (t : Instant)
  | dumpClear (t : Instant)
  | twConfig (t : Instant)
  | twTransfer (t : Instant)
  | timerConfig (t : Instant)
  | timerGo (t : Instant)
  | timerRead (t : Instant)
  | mcvConfig (t : Instant)
  | mcvRead (t : Instant)
  | mcvCalibrate (t : Instant)
  | setClocks (t : Instant)
  | trimRoot (t : Instant)
  | clockStatus (t : Instant)
  | setPowerState (t : Instant)
  | setPowerBudget (t : Instant)
  | thermalConfig (t : Instant)
  | getTemperatures (t : Instant)
  | watchdogConfig (t : Instant)
  | peek (m : MemRead)
  | poke (t : Instant)
  | selftest (t : Instant)
  | selftestComplete (t : Instant) (fails : List Nat) (measures : List RatioMeasure)
  | injectPattern (t : Instant)
  | abort (t : Instant) (p : TwPort)
  | append (t : Instant) (p : TwPort)
  | submit (t : Instant) (p : TwPort)
  | replyNext (t : Instant) (p : TwPort)
  | twWindowWrite (t : Instant) (p : TwPort) (bytes : List Byte)
  | wdtKeyWrite (t : Instant) (key : Byte)
  | subExposureStart (t : Instant) (rung : Fin 8)
  | earlyTransfer (t : Instant) (tile : TileIx)
  | frameBoundary (t : Instant)
  | subFrameBoundary (t : Instant) (driverFaults : List ConvTile)
  | subFrameTick (t : Instant)
  | exposureOutputAssert (t : Instant)
  | exposureOutputRelease (t : Instant)
  | conversionSlot (t : Instant) (tile : ConvTile) (block slot : Fin 64) (charge : Nat) (hcg : Int) (lcg : Int) (rampFault : Bool)
  | sampleArrival (t : Instant) (tile : ConvTile) (block : Fin 64) (flip : BitVec 20)
  | readoutEnd (t : Instant)
  | trgEdge (t : Instant) (pin : Fin 8) (level : PinLevel)
  | ringTimeGridPoint (t : Instant)
  | ringTimeFreeze (t : Instant)
  | flickerPeriodUpdate (t : Instant)
  | aeResult (t : Instant) (frame : FrameId)
  | motionSubframeStart (t : Instant) (ecc : List EccHit)
  | tileAccumulationStart (t : Instant) (tile : TileIx) (pixels : Nat) (ecc : List EccHit) (parityBad : List Nat)
  | vectorDeadline (t : Instant) (valid : Nat)
  | accumulationWindowEnd (t : Instant)
  | basteDecision (t : Instant)
  | haloAckTimeout (t : Instant) (chestA chestB : Fin 768)
  | scrubAccess (t : Instant) (addr : Nat) (found : EccFind)
  | selfRefreshEntry (t : Instant)
  | frontBandSelect (t : Instant) (ecc : List EccHit)
  | frontBeginVersion (t : Instant)
  | frontEndVersion (t : Instant)
  | ingressHeader (t : Instant) (node : BitVec 7) (port : BitVec 9) (pkt : List Word)
  | ingressLine (t : Instant) (node : BitVec 7) (port : BitVec 9) (pkt : List Word)
  | ingressSidecar (t : Instant) (node : BitVec 7) (port : BitVec 9) (pkt : List Word)
  | ingressTrailer (t : Instant) (node : BitVec 7) (port : BitVec 9) (pkt : List Word)
  | ingressDeadline (t : Instant) (ctx : Fin 2)
  | ingressRetract (t : Instant) (node : BitVec 7) (port : BitVec 9) (pkt : List Word)
  | channelVersionArrival (t : Instant) (stream : Fin 8)
  | backEndVersion (t : Instant)
  | ltmGridPublish (t : Instant)
  | raw20BeginFrame (t : Instant) (stream : Fin 8)
  | streamFrameArrival (t : Instant) (stream : Fin 9)
  | streamTrailerWrite (t : Instant) (stream : Fin 9)
  | streamPacketDrain (m : MemRead) (stream : Fin 9)
  | streamFrameSent (t : Instant) (stream : Fin 9)
  | vop (b : BobbinIssue) (vd va vb : BitVec 5) (p : BitVec 3) (ty : BitVec 2) (op : BitVec 6)
  | vops (b : BobbinIssue) (vd va : BitVec 5) (sb : BitVec 4) (p : BitVec 3) (ty : BitVec 2) (op : BitVec 6)
  | vimm (b : BobbinIssue) (vd : BitVec 5) (imm : BitVec 20)
  | sop (b : BobbinIssue) (sd sa sb : BitVec 4) (op : BitVec 4)
  | saddi (b : BobbinIssue) (sd sa : BitVec 4) (imm : BitVec 16)
  | slui (b : BobbinIssue) (sd : BitVec 4) (imm : BitVec 16)
  | sori (b : BobbinIssue) (sd sa : BitVec 4) (imm : BitVec 16)
  | bcc (b : BobbinIssue) (cond : BitVec 5) (sa sb : BitVec 4) (off : BitVec 11)
  | jmp (b : BobbinIssue) (kind : BitVec 4) (sd sa : BitVec 4) (target : BitVec 12)
  | loop (b : BobbinIssue) (sa : BitVec 4) (len : BitVec 11)
  | nop (b : BobbinIssue)
  | halt (b : BobbinIssue)
  | publish (b : BobbinIssue) (t : Instant)
  | fence (b : BobbinIssue)
  | cycles (b : BobbinIssue) (sd : BitVec 4) (count : Word)
  | vmul (b : BobbinIssue) (ad : BitVec 2) (va vb : BitVec 5) (p : BitVec 3) (asg bsg : Bool) (op : BitVec 6)
  | vmuls (b : BobbinIssue) (ad : BitVec 2) (va : BitVec 5) (sb : BitVec 4) (p : BitVec 3) (asg bsg : Bool) (op : BitVec 6)
  | arnd (b : BobbinIssue) (vd : BitVec 5) (aa : BitVec 2) (clear round s20 : Bool) (shift : BitVec 5)
  | aset (b : BobbinIssue) (ad : BitVec 2) (va : BitVec 5) (zero signed : Bool) (shift : BitVec 5)
  | vcmp (b : BobbinIssue) (pd : BitVec 3) (va vb : BitVec 5) (p : BitVec 3) (ty : BitVec 2) (cond : BitVec 3)
  | vcmps (b : BobbinIssue) (pd : BitVec 3) (va : BitVec 5) (sb : BitVec 4) (p : BitVec 3) (ty : BitVec 2) (cond : BitVec 3)
  | vsel (b : BobbinIssue) (vd va vb : BitVec 5) (pn : BitVec 3)
  | plog (b : BobbinIssue) (pd pa pb : BitVec 3) (op : BitVec 3)
  | pxfer (b : BobbinIssue) (toPred : Bool) (sr : BitVec 4) (p : BitVec 3)
  | vshift (b : BobbinIssue) (vd va vb : BitVec 5) (k : BitVec 5)
  | vshuf (b : BobbinIssue) (vd va vb : BitVec 5) (op : BitVec 5) (lane : BitVec 4)
  | vred (b : BobbinIssue) (rd ra : BitVec 5) (lane : BitVec 5) (p : BitVec 3) (ty : BitVec 2) (op : BitVec 6)
  | vld (b : BobbinIssue) (vd : BitVec 5) (sa : BitVec 4) (off : BitVec 11)
  | vst (b : BobbinIssue) (vs : BitVec 5) (sa : BitVec 4) (off : BitVec 11)
  | vlda (b : BobbinIssue) (vd : BitVec 5) (ag : BitVec 2)
  | vsta (b : BobbinIssue) (vs : BitVec 5) (ag : BitVec 2) (p : BitVec 3)
  | agset (b : BobbinIssue) (ag : BitVec 2) (sa sb : BitVec 4) (half : Bool)
  | sld (b : BobbinIssue) (sd sa : BitVec 4) (off : BitVec 11)
  | sst (b : BobbinIssue) (ss sa : BitVec 4) (off : BitVec 11)
  | xfer (b : BobbinIssue) (sl sr sc : BitVec 4) (tag : BitVec 3) (scalar outward : Bool) (space : BitVec 2)
  | xferComplete (b : Fin 128) (tag : BitVec 3) (ecc : List EccHit)
  | xwait (b : BobbinIssue) (sd : BitVec 4) (tag : BitVec 3)
  | spop (b : BobbinIssue) (vd : BitVec 5) (queue : Fin 2)
  | spush (b : BobbinIssue) (vs : BitVec 5)
  | queueWaitRelease (b : Fin 128)
  | smeta (b : BobbinIssue) (sd : BitVec 4) (queue : Fin 2) (field : BitVec 3)
  | bar (b : BobbinIssue) (n : Fin 4)
  | barrierRelease (b : Fin 128)
  | sem (b : BobbinIssue) (wait : Bool) (n : Fin 4)
  | semWaitRelease (b : Fin 128)
  | atom (b : BobbinIssue) (sd sa sb : BitVec 4) (op : BitVec 2)
  | kernelHangTimeout (t : Instant) (kid : Byte) (b : Fin 128)
  | grantPeriod (t : Instant)
  | signalDetect (t : Instant) (p : Port) (lane : Fin 4) (present : Bool)
  | bringupStageComplete (t : Instant) (p : Port) (lanes : BitVec 4) (eyes : List EyeOpening)
  | bringupStageTimeout (t : Instant) (p : Port)
  | bringupBackoffEnd (t : Instant) (p : Port)
  | rateSwitchIdleEnd (t : Instant) (p : Port)
  | filler (t : Instant) (p : Port) (drift : Int)
  | laneMark (t : Instant) (p : Port) (lane : Fin 4) (block : BitVec 64)
  | caps (t : Instant) (p : Port) (block : BitVec 64)
  | width (t : Instant) (p : Port) (block : BitVec 64)
  | ack (t : Instant) (p : Port) (block : BitVec 64)
  | nak (t : Instant) (p : Port) (block : BitVec 64)
  | doze (t : Instant) (p : Port) (block : BitVec 64)
  | hopSlotReceive (t : Instant) (p : Port) (rx : List RxBlock) (before : List (BitVec 58)) (dealt : Fin 4)
  | slotPositionSend (t : Instant) (p : Port)
  | replayTimeout (t : Instant) (p : Port)
  | laneLoss (t : Instant) (p : Port) (lane : Fin 4)
  | shedTimeout (t : Instant) (p : Port)
  | fomMeasure (t : Instant) (p : Port) (eyes : List EyeOpening)
  | widthRestore (t : Instant) (p : Port)
  | dozeEntry (t : Instant) (p : Port)
  | dozeWake (t : Instant) (p : Port)
  | wakeLockTimeout (t : Instant) (p : Port) (locked : BitVec 4)
  | discover (t : Instant) (p : Port) (slot : MgmtSlot)
  | probe (t : Instant) (p : Port) (slot : MgmtSlot) (backoff : Nat)
  | claimed (t : Instant) (p : Port) (slot : MgmtSlot) (backoff : Nat)
  | joinBackoffEnd (t : Instant)
  | joinRetry (t : Instant)
  | assign (t : Instant) (p : Port) (slot : MgmtSlot)
  | topology (t : Instant) (p : Port) (slot : MgmtSlot)
  | rotor (t : Instant) (p : Port) (slot : MgmtSlot)
  | wrap (t : Instant) (p : Port) (slot : MgmtSlot)
  | claim (t : Instant) (p : Port) (slot : MgmtSlot)
  | portHeld (t : Instant) (p : Port) (slot : MgmtSlot)
  | claimTimeout (t : Instant)
  | delayReq (t : Instant) (p : Port) (slot : MgmtSlot)
  | delayResp (t : Instant) (p : Port) (slot : MgmtSlot)
  | hopDelayMeasure (t : Instant) (p : Port)
  | time (t : Instant) (p : Port) (slot : MgmtSlot)
  | timeRingATimeout (t : Instant)
  | timeHoldover (t : Instant)
  | ownerLost (t : Instant)
  | selfRotation (t : Instant)
  | eventSend (t : Instant)
  | referenceLoss (t : Instant) (r : RefClk)
  | pllLockLoss (t : Instant) (e : PhaseError)
  | clockMonitorWindow (t : Instant) (ref0 ref1 : Nat) (outputs : List Nat)
  | lockAttemptStart (t : Instant) (p : Pll)
  | lockAttemptTimeout (t : Instant) (p : Pll)
  | pllLockDeclared (t : Instant) (e : PhaseError) (band : BitVec 3)
  | trimStep (t : Instant)
  | refclk0Measure (t : Instant) (khz : BitVec 16)
  | sensorSample (t : Instant) (readings : List (BitVec 16))
  | hardTrip (t : Instant)
  | stowWake (t : Instant) (source : Option Port)
  | powerOn (t : Instant)
  | resetN (t : Instant)
  | brownOut (x : SupplyFall)
  | optionLoadingEnd (t : Instant) (o : OptionLoad)
  | domainRelease (t : Instant) (d : Domain)
  | legacyGapEnd (t : Instant) (d : Domain)
  | bootLoaderStart (t : Instant)
  | serviceDue (t : Instant)
  | watchdogExpiry (t : Instant)
  | hardTimerExpiry (t : Instant)
  | fatalError (t : Instant) (cause : Byte) (pc : Word)
  | dumpComplete (t : Instant)
  | pageWriteComplete (t : Instant) (result : PageResult)
  | twStart (t : Instant) (p : TwPort) (address : Byte) (edge : BusEdge)
  | twStop (t : Instant) (p : TwPort) (edge : BusEdge)
  | twSclTimeout (t : Instant) (p : TwPort)
  | ibrIssue (t : Instant) (p : TwPort)
  | ibrRepeat (t : Instant) (p : TwPort)
  | ibrRecognised (t : Instant) (p : TwPort) (answers : List (Option Byte))
  | twTransferRetry (t : Instant) (p : TwPort)
  | busRecovery (t : Instant) (p : TwPort) (pulses : Nat) (freed : Bool)
  | rtMirrorUpdate (t : Instant)
  | timerTick (t : Instant) (ch : Fin 8)
  | timerSync (t : Instant) (ch : Fin 8)
  | timerCapture (t : Instant) (ch : Fin 8)
  | mcvSlotStart (t : Instant)
  | mcvConversionComplete (t : Instant) (b : Bool) (raw : Int) (overRange : Bool)
  | refSettled (t : Instant)
  | eyeScanComplete (t : Instant) (p : Port) (openings : List Byte)
  | pgoodRise (t : Instant)
  | resetNRelease (t : Instant)
  | vddaonLoss (t : Instant)
  | twWindowRead (t : Instant) (p : TwPort) (count : Nat)
  | twTransferEnd (t : Instant) (p : TwPort) (result : TwResult) (data : List Byte)
  | tckEdge (t : Instant) (edge : TckEdge) (tms tdi : Bool)
  | trstNLow (t : Instant)
deriving DecidableEq, Repr

end Sys2Proof
end

