-- ==== Sys2Proof/Decode.lean ====
section
/-! DEFINITION. The command a table word spells. The block has no instruction words: no row of spec/opcode_table.json gives
bits, so no word spells a command (log entry 1). Command packets (R323) and bobbin instruction words (R226) are decoded
where they are used. -/
namespace Sys2Proof

/-- The command spelt by a word of the opcode table's bits: none, since no row of the table gives bits. -/
def decodeTableWord (_nbits _w : Nat) : Option Instr := none

end Sys2Proof
end

