-- ==== Sys2Proof/Config.lean ====
section
/-! DEFINITION. What an implementation fixes and the free values (log entry 4): constants without a body, of which no
proof can see the value. -/
namespace Sys2Proof

/-- Output of the vendor noise-reduction kernel for a version (R248): kernel version, spatial and temporal strength, the
corrected mantissas of the version in row order with the tile exponents, the mantissas and exponents of the previous-tile
copy where it takes part, and the pixel's position in row order. -/
opaque Config.vendorNr (kernelVersion spatial temporal : Nat) (pixels : List Int) (exps : List Nat)
    (prev : Option (List Int × List Nat)) (pixel : Nat) : BitVec 20

/-- Node of the grid the vendor local tone-mapping kernel computes from the tile records of a statistics set (R166). -/
opaque Config.ltmNode (kernelVersion : Nat) (records : List Byte) (node : Nat) : BitVec 16

/-- The version of vendor kernel `kernel` (0 motion, 1 noise reduction, 2 local tone mapping, 3 auto-exposure) in a firmware
version, as KERNEL_STATUS reports it (R248, R255). -/
opaque Config.vendorVersion (kernel : Nat) (firmware : Word) : Word

/-- The instruction of the test port that a code selects, numbered BYPASS, IDCODE, SAMPLE/PRELOAD, EXTEST, CLAMP, HIGHZ: the
spec gives no codes (R495); the code of ones is BYPASS by IEEE 1149.1 and does not come here. -/
opaque Config.tapInstr (code : BitVec 4) : Fin 6

/-- The one of the 16 common-memory controllers that serves a 64-bit word of common memory, by the word's offset / 8: the spec
gives no interleave (log entry 35). -/
opaque Config.commonController (word : Nat) : Fin 16

/-- The word that names a requester in the post-mortem dump's record of a command: node 0, another node with its address, TWA,
TWB (R419 gives no code; log entry 76). -/
opaque Config.requesterCode (kind : Fin 4) (addr : BitVec 7) : Word

/-- A word of the fault record in a dump: the record's number, the cause, the program counter and the word's place (R419 names
the record's content and gives no layout; log entry 88). -/
opaque Config.faultRecord (record cause : Nat) (pc : Word) (word : Nat) : Word

/-- Mid-scale of a ramp slope trim: the spec gives no width (R45, R390; log entry 82). -/
opaque Config.midSlope : Word

/-- Mid-scale of a ramp offset trim. -/
opaque Config.midOffset : Word

/-- Mid-scale of the global comparator offset. -/
opaque Config.midComparator : Word

/-- Mid-scale of the gain threshold's trim. -/
opaque Config.midGain : Word

/-- The offset of a timer channel's count in the REGISTER space of PEEK: the spec gives none (R346, R456; log entry 77). -/
opaque Config.timerCountOffset (channel : Fin 8) : Nat

/-- The factory OFFSET of entry k = 24v + c of the monitor converter's coefficients, measured on each part (R474). -/
opaque Config.factoryOffset (k : Nat) : Word

/-- The factory GAIN of that entry. -/
opaque Config.factoryGain (k : Nat) : Word

/-- A value the spec leaves open where the machine goes on; the argument is the state's counter of free values taken. -/
opaque Config.freeWord (k : Nat) : Word

end Sys2Proof
end

