-- ==== Sys2Proof/Machine/Data.lean ====
section
/-! DEFINITION. The data operations every chapter uses: fields of words, words built from fields, byte order (R7),
saturating counters, frame-number order (R12), sparse maps in canonical form, CRC-32 and CRC-8 style checks. -/
namespace Sys2Proof.Machine

/-! ### Fields of words -/

/-- The field of `n` bits whose lowest bit is `lo`: the manual's [lo + n - 1 : lo]. -/
def fld {m : Nat} (w : BitVec m) (lo n : Nat) : BitVec n := w.extractLsb' lo n

/-- The same field as a natural number. -/
def fldN {m : Nat} (w : BitVec m) (lo n : Nat) : Nat := (fld w lo n).toNat

/-- Bit `i` of a word. -/
def bitAt {m : Nat} (w : BitVec m) (i : Nat) : Bool := w.getLsbD i

/-- A one-bit field as a number. -/
def b2n (b : Bool) : Nat := if b then 1 else 0

/-- The word whose fields are given as (value, lowest bit); the fields of a layout do not overlap. -/
def mkWord (fs : List (Nat × Nat)) : Word :=
  BitVec.ofNat 32 (fs.foldl (fun a f => a + f.1 * 2 ^ f.2) 0)

/-- A number as a word, modulo 2^32. -/
def wordOf (n : Nat) : Word := BitVec.ofNat 32 n

/-- An integer as a word in two's complement. -/
def wordOfInt (i : Int) : Word := BitVec.ofInt 32 i

/-- Word `i` of a parameter list; a word not sent reads as 0 (callers that need R327 test the length). -/
def paramAt (ws : List Word) (i : Nat) : Word := ws.getD i 0

/-- The low word of a 64-bit value (R338: low word first). -/
def lo32 (v : BitVec 64) : Word := fld v 0 32

/-- The high word of a 64-bit value. -/
def hi32 (v : BitVec 64) : Word := fld v 32 32

/-- A 64-bit value from its low and high words. -/
def join64 (lo hi : Word) : BitVec 64 := hi ++ lo

/-! ### Byte order (R7: little-endian) -/

/-- The bytes of a word, lowest first. -/
def wordBytes (w : Word) : List Byte := [fld w 0 8, fld w 8 8, fld w 16 8, fld w 24 8]

/-- The bytes of a list of words. -/
def wordsBytes (ws : List Word) : List Byte := ws.flatMap wordBytes

/-- The word whose bytes are given lowest first; missing bytes count as 0. -/
def bytesWord (bs : List Byte) : Word :=
  mkWord [((bs.getD 0 0).toNat, 0), ((bs.getD 1 0).toNat, 8), ((bs.getD 2 0).toNat, 16), ((bs.getD 3 0).toNat, 24)]

/-- `n` words read from a byte list. -/
def takeWords : Nat → List Byte → List Word
  | 0, _ => []
  | n + 1, bs => bytesWord bs :: takeWords n (bs.drop 4)

/-- A byte list as words, a last part-word padded with zeros. -/
def bytesWords (bs : List Byte) : List Word := takeWords ((bs.length + 3) / 4) bs

/-- A number from bytes, lowest first. -/
def bytesNat : List Byte → Nat
  | [] => 0
  | b :: bs => b.toNat + 256 * bytesNat bs

/-- The `n` lowest bytes of a number, lowest first. -/
def natBytes : Nat → Nat → List Byte
  | 0, _ => []
  | n + 1, v => BitVec.ofNat 8 v :: natBytes n (v / 256)

/-! ### Counters -/

/-- A counter raised by `n`, saturating at its largest value. -/
def satAdd {m : Nat} (c : BitVec m) (n : Nat) : BitVec m :=
  BitVec.ofNat m (min (c.toNat + n) (2 ^ m - 1))

/-- A counter raised by one, saturating. -/
def satInc {m : Nat} (c : BitVec m) : BitVec m := satAdd c 1

/-- A number clamped to what `m` unsigned bits hold. -/
def clampU (m : Nat) (n : Nat) : BitVec m := BitVec.ofNat m (min n (2 ^ m - 1))

/-- An integer clamped to a range. -/
def clampI (lo hi v : Int) : Int := max lo (min hi v)

/-- An integer clamped to `m` unsigned bits. -/
def clampUI (m : Nat) (v : Int) : BitVec m := BitVec.ofNat m (clampI 0 (2 ^ m - 1) v).toNat

/-- An integer clamped to `m` bits of two's complement. -/
def clampS (m : Nat) (v : Int) : BitVec m := BitVec.ofInt m (clampI (-(2 ^ (m - 1))) (2 ^ (m - 1) - 1) v)

/-- floor(a / 2^n + 1/2): an arithmetic shift right that rounds halves up. -/
def rshRound (v : Int) (n : Nat) : Int := if n = 0 then v else (v + 2 ^ (n - 1)) / 2 ^ n

/-! ### Frame numbers (R12) -/

/-- Frame `a` is later than frame `b`: (a - b) mod 2^32 lies in 1 to 2^31 - 1. -/
def FrameId.later (a b : FrameId) : Bool :=
  let d := (a - b).toNat
  decide (1 ≤ d ∧ d ≤ 2 ^ 31 - 1)

/-- Frame `a` is `b` or later. -/
def FrameId.atLeast (a b : FrameId) : Bool := a == b || FrameId.later a b

/-! ### Sparse maps: keys strictly rising, no entry equal to the default -/

/-- The value at a key; an unlisted key has the default. -/
def smGet {α : Type} (d : α) : List (Nat × α) → Nat → α
  | [], _ => d
  | (k, v) :: m, key => if key = k then v else if key < k then d else smGet d m key

/-- The map with the key at a value; a value equal to the default leaves the key unlisted. -/
def smSet {α : Type} [DecidableEq α] (d : α) : List (Nat × α) → Nat → α → List (Nat × α)
  | [], key, x => if x = d then [] else [(key, x)]
  | (k, v) :: m, key, x =>
    if key < k then (if x = d then (k, v) :: m else (key, x) :: (k, v) :: m)
    else if key = k then (if x = d then m else (k, x) :: m)
    else (k, v) :: smSet d m key x

/-- Canonical form: keys strictly rising and above `lo`, and no entry equal to the default. -/
def smWfFrom {α : Type} [DecidableEq α] (d : α) : Nat → List (Nat × α) → Bool
  | _, [] => true
  | lo, (k, v) :: m => decide (lo ≤ k) && decide (v ≠ d) && smWfFrom d (k + 1) m

/-- Canonical form of a sparse map. -/
def smWf {α : Type} [DecidableEq α] (d : α) (m : List (Nat × α)) : Bool := smWfFrom d 0 m

/-- The entries of consecutive values, those equal to the default left out. -/
def smEntries {α : Type} [DecidableEq α] (d : α) : Nat → List α → List (Nat × α)
  | _, [] => []
  | key, x :: xs => if x = d then smEntries d (key + 1) xs else (key, x) :: smEntries d (key + 1) xs

/-- Write values at consecutive keys. -/
def smSetMany {α : Type} [DecidableEq α] (d : α) (m : List (Nat × α)) (key : Nat) (xs : List α) : List (Nat × α) :=
  m.filter (fun e => decide (e.1 < key)) ++ smEntries d key xs ++ m.filter (fun e => decide (key + xs.length ≤ e.1))

/-- The values at `n` consecutive keys, read in one pass. -/
def smTake {α : Type} (d : α) : List (Nat × α) → Nat → Nat → List α
  | _, _, 0 => []
  | [], key, n + 1 => d :: smTake d [] (key + 1) n
  | (k, v) :: m, key, n + 1 =>
    if k = key then v :: smTake d m (key + 1) n else d :: smTake d ((k, v) :: m) (key + 1) n

/-- The values at `n` consecutive keys. -/
def smGetMany {α : Type} (d : α) (m : List (Nat × α)) (key n : Nat) : List α :=
  smTake d (m.dropWhile (fun e => decide (e.1 < key))) key n

/-- The map with a function applied to the value of a key. -/
def smUpd {α : Type} [DecidableEq α] (d : α) (m : List (Nat × α)) (key : Nat) (f : α → α) : List (Nat × α) :=
  smSet d m key (f (smGet d m key))

/-- Drop every key in [lo, lo + n): those keys return to the default. -/
def smClear {α : Type} (m : List (Nat × α)) (lo n : Nat) : List (Nat × α) :=
  m.filter (fun e => e.1 < lo || lo + n ≤ e.1)

/-- Two maps with rising keys merged, the second winning; `fuel` bounds the entries. -/
def smMerge {α : Type} : Nat → List (Nat × α) → List (Nat × α) → List (Nat × α)
  | 0, _, _ => []
  | _ + 1, [], b => b
  | _ + 1, a, [] => a
  | n + 1, x :: a, y :: b =>
    if x.1 < y.1 then x :: smMerge n a (y :: b)
    else if x.1 = y.1 then y :: smMerge n a b
    else y :: smMerge n (x :: a) b

/-! ### Sets of numbers: strictly rising lists -/

/-- Insert a number into a strictly rising list. -/
def insNat : List Nat → Nat → List Nat
  | [], x => [x]
  | y :: ys, x => if x < y then x :: y :: ys else if x = y then y :: ys else y :: insNat ys x

/-- Remove a number from a list. -/
def remNat (l : List Nat) (x : Nat) : List Nat := l.filter (· ≠ x)

/-! ### Memory of bytes -/

/-- A memory: (address, byte) pairs in canonical form; an unlisted address reads 0 (log entries 2 and 3). -/
abbrev Mem := List (Nat × Byte)

/-- The form every memory keeps. -/
abbrev Mem.wf (m : Mem) : Prop := smWf (0 : Byte) m = true

/-- Read one byte. -/
def memGet (m : Mem) (a : Nat) : Byte := smGet 0 m a

/-- Write one byte. -/
def memSet (m : Mem) (a : Nat) (b : Byte) : Mem := smSet 0 m a b

/-- Read `n` bytes from an address upward. -/
def memBytes (m : Mem) (a n : Nat) : List Byte := smGetMany 0 m a n

/-- Write bytes from an address upward. -/
def memSetBytes (m : Mem) (a : Nat) (bs : List Byte) : Mem := smSetMany 0 m a bs

/-- Read a little-endian number of `n` bytes. -/
def memNat (m : Mem) (a n : Nat) : Nat := bytesNat (memBytes m a n)

/-- Write a little-endian number of `n` bytes. -/
def memSetNat (m : Mem) (a n v : Nat) : Mem := memSetBytes m a (natBytes n v)

/-- Read a 32-bit word. -/
def memWord (m : Mem) (a : Nat) : Word := BitVec.ofNat 32 (memNat m a 4)

/-- Write a 32-bit word. -/
def memSetWord (m : Mem) (a : Nat) (w : Word) : Mem := memSetBytes m a (wordBytes w)

/-- Read `n` 32-bit words. -/
def memWords (m : Mem) (a n : Nat) : List Word := takeWords n (memBytes m a (4 * n))

/-- Write 32-bit words. -/
def memSetWords (m : Mem) (a : Nat) (ws : List Word) : Mem := memSetBytes m a (wordsBytes ws)

/-! ### CRC-32 (R323: that of IEEE 802.3, over the bytes in order) -/

/-- One bit of the reflected CRC-32. -/
def crc32Bit (c : Word) : Word := if c.getLsbD 0 then (c >>> 1) ^^^ 0xEDB88320 else c >>> 1

/-- One byte of the reflected CRC-32. -/
def crc32Byte (c : Word) (b : Byte) : Word :=
  Nat.repeat crc32Bit 8 (c ^^^ b.zeroExtend 32)

/-- The CRC-32 of a byte list. -/
def crc32 (bs : List Byte) : Word := (bs.foldl crc32Byte 0xFFFFFFFF) ^^^ 0xFFFFFFFF

/-- Words followed by the CRC-32 of their bytes: the form of a packet, a reply and an event packet (R323, R342). -/
def withCrc (ws : List Word) : List Word := ws ++ [crc32 (wordsBytes ws)]

/-! ### Lists as registers files -/

/-- A list with element `i` replaced; unchanged where there is none. -/
def setAt {α : Type} (l : List α) (i : Nat) (x : α) : List α := l.set i x

/-- A list with a function applied at element `i`. -/
def updAt {α : Type} (l : List α) (i : Nat) (f : α → α) : List α := l.modify i f

/-- The numbers lo, lo + 1, … of which there are `n`. -/
def rangeFrom (lo n : Nat) : List Nat := (List.range n).map (lo + ·)

end Sys2Proof.Machine
end

