-- ==== Sys2Proof/Machine/Parts/Capture.lean ====
section
/-! DEFINITION. State of the readout, exposure and accumulation chapters (R25–R124). -/
namespace Sys2Proof.Machine

/-! ### Settings -/

/-- Readout section of CAPTURE_CONFIG, W0–W2 (R44). -/
structure ReadoutCfg where
  ratioTrimEn : Bool := true
  gainMode : BitVec 2 := 0
  winMask : Bool := false
  bin : Bool := false
  tSlot : BitVec 10 := 92
  ty1 : BitVec 7 := 95
  ty0 : BitVec 7 := 0
  tx1 : BitVec 7 := 127
  tx0 : BitVec 7 := 0
  blockFaultLimit : Byte := 16
deriving DecidableEq, Repr

/-- Exposure section of CAPTURE_CONFIG, W3–W5 (R67). -/
structure ExposureCfg where
  flkM : BitVec 4 := 1
  mainsTrg : BitVec 3 := 0
  flkSrc : BitVec 2 := 0
  flkBal : Bool := false
  brkLen : BitVec 2 := 0
  expSrc : Bool := false
  centre : Bool := false
  nLog2 : BitVec 3 := 4
  mode : BitVec 3 := 0
  brkRung : BitVec 12 := 0
  aeHeadroom : Byte := 230
  aeTarget : BitVec 16 := 4000
deriving DecidableEq, Repr

/-- Accumulation section of CAPTURE_CONFIG, W6 (R114). -/
structure AccumCfg where
  histH : BitVec 5 := 4
  ghostConf : BitVec 3 := 2
  basteK : BitVec 5 := 1
  baste : Bool := false
  maa : BitVec 2 := 0
deriving DecidableEq, Repr

/-- The whole of CAPTURE_CONFIG (R44, R67, R114). -/
structure CaptureCfg where
  readout : ReadoutCfg := {}
  exposure : ExposureCfg := {}
  accum : AccumCfg := {}
deriving DecidableEq, Repr

/-- The class F exposure values (R68). `exps` holds E_1 to E_7, e_k in bits [4k - 1 : 4k - 4]. `map` is the exposure
map, 1,152 words, an unlisted word being 0 (R60). -/
structure FrameParams where
  tSub : Word := 104167
  d0 : Word := 100000
  exps : BitVec 28 := 0x8654321
  globalRung : BitVec 3 := 0
  map : List (Nat × Word) := []
deriving DecidableEq, Repr

/-- The class F exposure values one command writes; a value not written is none (R68, R71). -/
structure FrameUpd where
  tSub : Option Word := none
  d0 : Option Word := none
  exps : Option (BitVec 28) := none
  globalRung : Option (BitVec 3) := none
  map : Option (List (Nat × Word)) := none
deriving DecidableEq, Repr

/-- The class F pipeline values (R152, R171, R173). Crop origins are held per stream. -/
structure PipeParams where
  dpcThrRel : BitVec 16 := 64
  dpcThrAbs : BitVec 16 := 640
  nrTemporal : Byte := 96
  nrSpatial : Byte := 64
  medThr : BitVec 16 := 1280
  blkTrim : BitVec 16 := 0
  wbR : BitVec 20 := 0x10000
  wbG : BitVec 20 := 0x10000
  wbB : BitVec 20 := 0x10000
  matrix : List (BitVec 20) := [0x10000, 0, 0, 0, 0x10000, 0, 0, 0, 0x10000]
  ltmStrength : BitVec 9 := 128
  cropY0 : List (BitVec 14) := List.replicate 8 0
  cropX0 : List (BitVec 14) := List.replicate 8 0
deriving DecidableEq, Repr

/-- The class F pipeline values one command writes: the groups that VALID selects, whole (R152), and one stream's crop
origin set by STREAM_CONFIG. -/
structure PipeUpd where
  dpc : Option (BitVec 16 × BitVec 16) := none
  nr : Option (Byte × Byte) := none
  med : Option (BitVec 16) := none
  blkTrim : Option (BitVec 16) := none
  wb : Option (BitVec 20 × BitVec 20 × BitVec 20) := none
  matrix : Option (List (BitVec 20)) := none
  ltm : Option (BitVec 9) := none
  crops : List (Nat × BitVec 14 × BitVec 14) := []
deriving DecidableEq, Repr

/-- Who sent a command (R320). -/
inductive Requester where
  | owner
  | node (a : BitVec 7)
  | twa
  | twb
deriving DecidableEq, Repr

/-- One accepted set of class F values that waits for its frame (R69–R71). `target`: the TARGET_FRAME of a targeted set;
`eff`: the frame it now waits for; `req` is none for the auto-exposure kernel (R73). -/
structure PendingSet (α : Type) where
  req : Option Requester
  tag : BitVec 16
  target : Option FrameId
  eff : FrameId
  repliedAt : Instant
  upd : α
deriving DecidableEq, Repr

/-- SET_TRIGGER (R77). -/
structure TriggerCfg where
  burst : Byte := 1
  early : Bool := false
  edgeFalling : Bool := false
  pin : BitVec 3 := 0
  mode : BitVec 2 := 0
  delay : Word := 0
  rtStart : BitVec 64 := 0
  rtPeriod : Word := 0
  xoPol : Bool := false
  xoRung : BitVec 3 := 0
  xoEn : Bool := false
  xoPin : BitVec 3 := 0
  xoTail : BitVec 16 := 0
  xoLead : BitVec 16 := 0
deriving DecidableEq, Repr

/-! ### Frames -/

/-- A frame that has begun: its boundary, and the values and settings it was captured with (R69, R72, R334). `gFirst`
is the running count of its sub-frame 0. `stamp` is the ring time of its boundary in ns (R204). -/
structure FrameRec where
  id : FrameId
  fb : Nat
  stamp : BitVec 64
  gFirst : Nat
  params : FrameParams
  pipe : PipeParams
  cfg : CaptureCfg
  mask : List (Nat × Word)
deriving DecidableEq, Repr

/-- Whether capture runs (R340 CAPTURE). -/
inductive CapturePhase where
  | stopped
  | running
  | stopping
deriving DecidableEq, Repr

/-- Why capture stops: the cause codes of CAPTURE_STOPPED (R345). -/
inductive StopCause where
  | command
  | rootLost
  | thermalHold
  | reset
deriving DecidableEq, Repr

/-- State of the exposure chapter (R55–R88). `cur` is the last frame begun in the capture that runs or ran last; `begun`: some
frame has begun since reset. `starts`: the frames begun since reset with their boundaries, latest first (R81). `edgeQueue`: trigger
edges whose frames come after the one next to start, each with the boundary it placed, or none where it is deferred (R78). -/
structure ExposureState where
  cfg : CaptureCfg := {}
  trig : TriggerCfg := {}
  inForce : FrameParams := {}
  mapStaging : List (Nat × Word) := []
  pendingSets : List (PendingSet FrameUpd) := []
  phase : CapturePhase := .stopped
  immediate : Bool := false
  stopCause : StopCause := .command
  firstId : FrameId := 0
  nextId : FrameId := 1
  frameId : FrameId := 0
  lastFrame : FrameId := 0
  abandoned : List FrameId := []
  lastReleased : FrameId := 0
  cur : Option FrameRec := none
  begun : Bool := false
  starts : List (FrameId × Nat) := []
  nextJ : Nat := 0
  g : Nat := 0
  nextFb : Option Nat := none
  nextFbNom : Nat := 0
  lastSb : Option Nat := none
  burstLeft : Nat := 0
  edgeDeferred : Bool := false
  edgeQueue : List (Option Nat) := []
  armedFrom : Nat := 0
  gridIx : Nat := 0
  rtMissedRaised : Bool := false
  openRungs : BitVec 8 := 0
  earlyHeld : List Nat := []
  frameTick : Option Nat := none
  subTick : Option Nat := none
  xoActive : Bool := false
  xoUntil : Nat := 0
  mainsEdges : List Nat := []
  tFlk16 : Nat := 16000000
  mainsValid : Bool := false
  mainsLost : Bool := false
  deriving DecidableEq, Repr

/-- Exposure counters (R88). -/
structure ExposureCounters where
  framesStarted : Counter := 0
  fbStretched : Counter := 0
  trgDropped : Counter := 0
  trgDeferred : Counter := 0
  rtMissed : Counter := 0
  aeDeferred : Counter := 0
  paramsLate : Counter := 0
  freezeIgnored : Counter := 0
deriving DecidableEq, Repr

/-! ### Readout -/

/-- A sample word on a bond (R34). `conv` = 64 × tile + block, an OB tile o counting as tile 12,288 + o. -/
structure BondWord where
  conv : Nat
  slot : Nat
  word : BitVec 20
deriving DecidableEq, Repr

/-- A readout in progress (R37): the frame it reads, which may have ended at the boundary of the next frame. -/
structure ReadoutRun where
  frame : FrameRec
  j : Nat
  g : Nat
  sb : Nat
deriving DecidableEq, Repr

/-- A readout test in the background (R49). -/
structure TestRun where
  code : Byte
  store : Bool
  started : Instant
  storing : Bool
deriving DecidableEq, Repr

/-- State of the readout chapter (R25–R54). Masks and trims are sparse: an unlisted enable word is all ones (R41), an
unlisted trim is 0 (R46). -/
structure ReadoutState where
  enableMask : List (Nat × Word) := []
  enableStaging : List (Nat × Word) := []
  trims : List (Nat × BitVec 6) := []
  gainThreshold : Nat := 2784000
  lastTest : Byte := 0
  passed : Word := 0
  failed : Word := 0
  firstFail : Word := 0
  test : Option TestRun := none
  run : Option ReadoutRun := none
  nextSlot : List (Nat × Nat) := []
  bonds : List BondWord := []
  bondErrs : List (Nat × Nat) := []
  faultyBlocks : List Nat := []
  rampFaults : List Nat := []
  driverFaults : List Nat := []
  raisedBlocks : List Nat := []
  raisedGens : List Nat := []
  raisedTiles : List Nat := []
  bondParityErr : Counter := 0
  blockFaults : Counter := 0
  rampFaultSf : Counter := 0
  tileDriverFaults : Counter := 0
  gainMisselect : Counter := 0
  subframesRead : Counter := 0
deriving DecidableEq, Repr

/-! ### Accumulation -/

/-- A motion vector with its confidence (R109). -/
structure MotionVec where
  vx : Int := 0
  vy : Int := 0
  conf : Nat := 7
deriving DecidableEq, Repr

/-- What a chest keeps for one tile of the frame under accumulation, to form its descriptor (R106). -/
structure TileAcc where
  neff : Nat := 0
  conf : Nat := 7
  mvx : Int := 0
  mvy : Int := 0
  stale : Bool := false
  ghost : Bool := false
  sat : Bool := false
deriving DecidableEq, Repr

/-- One sub-frame between its boundary and the end of its accumulation window (R99). `records` holds the vector records
the kernel wrote, by tile; `vecs` the vectors the chests used. -/
structure SubJob where
  g : Nat
  frame : FrameId
  j : Nat
  sb : Nat
  readDone : Bool := false
  kernelBegun : Bool := false
  records : List (Nat × BitVec 16) := []
  badCounted : Bool := false
  deadlinePassed : Bool := false
  validUpTo : Nat := 0
  tilesDone : List Nat := []
  haloDown : List (Nat × Nat) := []
deriving DecidableEq, Repr

/-- Four samples of one binned pixel as they come in (R40). -/
structure BinAcc where
  count : Nat := 0
  sum : Nat := 0
  satf : Bool := false
  gsel : Bool := false
  bad : Bool := false
deriving DecidableEq, Repr

/-- A sum of samples and their number. -/
structure SumCount where
  sum : Int := 0
  count : Nat := 0
deriving DecidableEq, Repr

/-- The OB collector's sums over the sub-frames of a frame (R138): by active column, by active row and over every used
OB sample. -/
structure ObSums where
  cols : List (Nat × SumCount) := []
  rows : List (Nat × SumCount) := []
  all : SumCount := {}
deriving DecidableEq, Repr

/-- The OB vectors of one LOCAL version, in 1/256 DN (R138), kept with the frame for the sidecars (R209). -/
structure ObVec where
  cols : List (Nat × Int) := []
  rows : List (Nat × Int) := []
  all : Int := 0
deriving DecidableEq, Repr

/-- The temperatures a dark term uses (R139): the corner readings PX_TL, PX_TR, PX_BL, PX_BR and the centre, in 1/768 °C
(exact means of up to four readings) after replacement of invalid ones, or one mean for every tile in 1/16 °C. -/
inductive TempSource where
  | pixel (tl tr bl br c : Int)
  | uniform (t : Int)
deriving DecidableEq, Repr

/-- What the black record of a version rests on, judged at its release (R209). -/
structure BlackInfo where
  ob : ObVec := {}
  obLost : Bool := false
  guardOrder : Bool := false
  darkEn : Bool := true
  obEn : Bool := true
  temps : Option TempSource := none
  tempsValid : Bool := false
  pixelValid : Bool := false
  dark : Option (List Word) := none
deriving DecidableEq, Repr

/-- One entry of the flicker series: running count, mean in rung-0 DN and sub-frame period (R186, R191). -/
structure FlickerEntry where
  g : Nat
  mu : Int
  tSub : Nat
deriving DecidableEq, Repr

/-- A basis thumb sub-frame with its exponent table, which the motion kernel keeps in one of the three places of its spill
allocation (R246). -/
structure ThumbCopy where
  g : Nat
  place : Nat
deriving DecidableEq, Repr

/-- The basted version of a frame (R118, R120, R121). -/
structure BasteVersion where
  frame : FrameRec
  ob : ObSums
  black : BlackInfo := {}
  voids : List (Nat × BitVec 64) := []
  formed : Bool := false
  released : Bool := false
  begun : Bool := false
  read : Bool := false
deriving DecidableEq, Repr

/-- A frame that has begun its first readout and has not been released (R99). `temps` and `bTemps`: the temperatures taken
before SB of its last sub-frame, and of sub-frame k - 1. `readCount`: sub-frames whose readout has ended. `tiles`: what
forms the descriptors; `slot`: the history slot that the chests write its finished tiles into (R15, R21); `finDesc`: the
finished descriptors by tile, until the release; `voids`: the block-void bitmaps by tile (R147); `gone`: where pixels finish
as their samples arrive, those that finish without a value, by 4096 × tile + pixel. -/
structure AccumFrame where
  frame : FrameRec
  ob : ObSums := {}
  temps : Option TempSource := none
  bTemps : Option TempSource := none
  readCount : Nat := 0
  basteDecided : Bool := false
  tiles : List (Nat × TileAcc) := []
  slot : Option Nat := none
  finDesc : List (Nat × Word) := []
  voids : List (Nat × BitVec 64) := []
  gone : List Nat := []
deriving DecidableEq, Repr

/-- State of the accumulation chapter (R89–R124) apart from memory and the history ring. `finishing`: by chest, the words of
the tile last collected in its finishing buffer (R93); `withdrawn`: abandoned frames, whose basted versions reach no stream
any more (R122). -/
structure AccumState where
  frames : List AccumFrame := []
  jobs : List SubJob := []
  excluded : List Nat := []
  bins : List (Nat × BinAcc) := []
  muSum : Int := 0
  muCount : Nat := 0
  flicker : List FlickerEntry := []
  prevC : List (Nat × MotionVec) := []
  prevD : List (Nat × MotionVec) := []
  thumbHeld : List Nat := []
  basisZero : Option ThumbCopy := none
  basisRef : Option ThumbCopy := none
  finishing : List (Nat × List Word) := []
  withdrawn : List FrameId := []
  baste : Option BasteVersion := none
  basteCarried : List Nat := []
  haloRaised : Bool := false
  ueRaised : List Nat := []
  selfRefresh : Bool := false
  scrubAddr : Nat := 0
deriving DecidableEq, Repr

/-- Accumulation counters (R124). -/
structure AccumCounters where
  accOverrun : Counter := 0
  frontSkipped : Counter := 0
  vecStale : Counter := 0
  vecBad : Counter := 0
  ghostDrops : Counter := 0
  haloLost : Counter := 0
  basteSkipped : Counter := 0
  retractsSent : Counter := 0
  eccCe : Counter := 0
  memUeDrawer : Counter := 0
  memUePipe : Counter := 0
  memUeCommon : Counter := 0
  scrubPasses : Counter := 0
deriving DecidableEq, Repr

/-! ### The history ring -/

/-- One frame in a history slot (R21, R115). `frontRead`: the front has read it to its end; `frontReading`: the front is
reading it now; `rawReaders`: the RAW20 channels reading it now. -/
structure HistFrame where
  frame : FrameRec
  ob : ObSums
  black : BlackInfo
  voids : List (Nat × BitVec 64) := []
  flicker : List FlickerEntry
  order : Nat
  released : Nat
  frozen : Bool := false
  frontRead : Bool := false
  frontReading : Bool := false
  rawReaders : List Nat := []
  neverRead : Bool := false
deriving DecidableEq, Repr

/-- A freeze that waits for its instant (armed), or that has fired and waits for its last frame (R81, R82). `tf`: t_f in
TCLK cycles; `last`: frame f + POST once f is known. -/
structure FreezeWait where
  source : BitVec 2
  pin : BitVec 3
  falling : Bool
  k : Nat
  post : Nat
  rt : BitVec 64
  fired : Bool := false
  tf : Nat := 0
  last : Option FrameId := none
deriving DecidableEq, Repr

/-- State of the history ring: 20 slots, the freeze, and the order in which frames were placed (R81, R82, R115–R117). -/
structure HistoryState where
  slots : List (Option HistFrame) := List.replicate 20 none
  placed : Nat := 0
  freezeWait : Option FreezeWait := none
  freezeActive : Option FreezeWait := none
  frozenSet : Option (Nat × FrameId × FrameId) := none
  releaseWait : Bool := false
deriving DecidableEq, Repr

end Sys2Proof.Machine
end

