-- ==== Sys2Proof/Machine/Parts/Bureau.lean ====
section
/-! DEFINITION. State of the Bureau chapter (R320–R348) and the device's output side. -/
namespace Sys2Proof.Machine

/-- A command packet in a requester's queue: its bytes as received, the slot's DEST (127 for a two-wire packet, R323), and
the instant its last byte arrived. `mute`: its port was aborted, so that its reply is discarded (R432). -/
structure Packet where
  req : Requester
  via : Option Port := none
  dest : BitVec 7
  bytes : List Byte
  arrived : Instant
  mute : Bool := false
deriving DecidableEq, Repr

/-- A reply kept for R331. `crc`: the CRC-32 the command packet has with RETRY cleared, none where its own CRC failed (log entry
7). -/
structure StoredReply where
  req : Requester
  tag : BitVec 16
  crc : Option Word
  words : List Word
deriving DecidableEq, Repr

/-- An event record without its CRC (R341). -/
structure EventRecord where
  seq : Word
  code : BitVec 16
  arg0 : BitVec 16
  arg1 : Word
  arg2 : Word
  stamp : BitVec 64
deriving DecidableEq, Repr

/-- An event waiting to be logged while the memory wafer cannot be written (R357). -/
structure HeldEvent where
  code : BitVec 16
  arg0 : BitVec 16
  arg1 : Word
  arg2 : Word
  stamp : BitVec 64
deriving DecidableEq, Repr

/-- Work answered PENDING whose completing event has not been raised (R331). -/
inductive WorkKind where
  | selftest
  | nvm
  | fwUpdate
  | mcvCal
  | laneDiag (p : Port)
  | calStore
  | portAssign
  | powerState
  | rootLock
deriving DecidableEq, Repr

/-- A trunk packet whose slots are still coming in (R325). -/
structure Assembling where
  port : Port
  src : BitVec 7
  dest : BitVec 7
  bytes : List Byte
  last : Instant
deriving DecidableEq, Repr

/-- INJECT_PATTERN (R348). -/
structure PatternCfg where
  pattern : BitVec 3 := 0
  enable : Bool := false
  level : BitVec 20 := 0x10100
deriving DecidableEq, Repr

/-- State of the Bureau (R320–R348). `queue` holds every requester's packets in order of arrival (R320). `executing`: a
command taken whose reply is not generated yet. `ready`: the firmware takes commands (R392). `recent`: the last 256 commands
as the post-mortem dump records them, 16 words each (R419). -/
structure BureauState where
  ready : Bool := true
  queue : List Packet := []
  assembling : List Assembling := []
  executing : Option Packet := none
  unfinished : List (Requester × WorkKind) := []
  stored : List StoredReply := []
  verOwner : Byte := 1
  verTwa : Byte := 1
  verTwb : Byte := 1
  upSince : Instant := ⟨0, 0⟩
  cmdsExecuted : Counter := 0
  cmdsRefused : Counter := 0
  cmdsDuplicate : Counter := 0
  cmdsDiscarded : Counter := 0
  queuePeak : BitVec 16 := 0
  cmdFaults : BitVec 16 := 0
  pattern : PatternCfg := {}
  recent : List (List Word) := []
deriving DecidableEq, Repr

/-- The event log, which survives every reset but power-on and brown-out (R342). `toSend`: EVSEQ of the next record to
send to node 0; `rose`: two-wire ports (bit 0 TWA) that owe an in-band request since EVENT_COUNT rose from 0 (R437). -/
structure EventLog where
  log : List EventRecord := []
  nextSeq : Word := 1
  acked : Word := 0
  lost : Counter := 0
  lostSince : Word := 0
  toSend : Word := 1
  rose : BitVec 2 := 0
  held : List HeldEvent := []
deriving DecidableEq, Repr

/-- One command reply on its path (R322). -/
structure ReplyOut where
  req : Requester
  words : List Word
deriving DecidableEq, Repr

/-- One stream packet as it left the coder (R203): the stream (8 is STATS), its type code and its words. -/
structure PacketOut where
  stream : Nat
  words : List Word
deriving DecidableEq, Repr

/-- One slot other than EMPTY sent on a hop: its port, the slot as sent, and its trailer (R293, R294). -/
structure HopOut where
  port : Port
  slot : RawSlot
  trailer : BitVec 64
deriving DecidableEq, Repr

/-- One link control block sent on a port, a LANE_MARK with the lane that carries it (R263, R264). -/
structure CtlOut where
  port : Port
  lane : Option Nat
  block : BitVec 64
deriving DecidableEq, Repr

/-- One 66-bit block as a transmit lane sends it: its sync header, 1 for data and 2 for control, and its scrambled payload
(R262). -/
structure LaneBlock where
  port : Port
  lane : Nat
  sync : BitVec 2
  bits : BitVec 64
deriving DecidableEq, Repr

/-- What a controller-role port puts on its bus: START, an address byte with its direction, a byte written, bytes read, STOP
(R442). -/
inductive BusItem where
  | start
  | addr (a : BitVec 7) (read : Bool)
  | write (b : Byte)
  | read (n : Nat)
  | stop
deriving DecidableEq, Repr

/-- What has left the device, oldest first: an observer's record, which nothing inside the device reads. -/
structure Outputs where
  replies : List ReplyOut := []
  events : List (List Word) := []
  packets : List PacketOut := []
  hop : List HopOut := []
  ctl : List CtlOut := []
  wire : List LaneBlock := []
  twReads : List (TwPort × List Byte) := []
  twBus : List (TwPort × List BusItem) := []
deriving DecidableEq, Repr

end Sys2Proof.Machine
end

