-- ==== Sys2Proof/Machine/Parts/Engines.lean ====
section
/-! DEFINITION. State of the bobbin chapter (R223–R259). -/
namespace Sys2Proof.Machine

/-- One 2-D address generator (R224, R232): its four fields, the current address, the start of its row and the steps
taken in the row. -/
structure AddrGen where
  base : Word := 0
  strideX : Word := 0
  countX : Word := 0
  strideY : Word := 0
  cur : Word := 0
  row : Word := 0
  steps : Nat := 0
deriving DecidableEq, Repr

/-- One level of the hardware loop (R236): first and last instruction of the body and the runs left. -/
structure LoopLevel where
  start : Nat
  last : Nat
  left : Nat
deriving DecidableEq, Repr

/-- What a bobbin waits for. -/
inductive BobbinWait where
  | queueIn (q : Nat) (vd : Nat)
  | queueOut (vs : Nat)
  | barrier (n : Nat)
  | semaphore (n : Nat)
  | tag (tag : Nat) (sd : Nat)
  | fence
deriving DecidableEq, Repr

/-- One element of a stream queue: a vector and its eight metadata fields (R234, R240). -/
structure QueueElem where
  vec : List Px
  fields : List Word
deriving DecidableEq, Repr

/-- A transfer in flight (R233). -/
structure Transfer where
  tag : Nat
  localAddr : Nat
  remote : Nat
  count : Nat
  scalar : Bool
  outward : Bool
  space : Nat
deriving DecidableEq, Repr

/-- A span a hang is counted over: when it began, and the ungranted time since, in 1/16 ns (R256, R257). -/
structure HangSpan where
  since : Nat := 0
  ungranted : Nat := 0
deriving DecidableEq, Repr

/-- One bobbin (R223, R224, R232–R236). Memories are sparse: an unlisted word is 0. `waitSpan`: the BAR or SEM WAIT it is in;
`idleSpan`: in an in-line slot, input queued and no pop or push. -/
structure Bobbin where
  v : List (List Px) := []
  a : List (List Int) := []
  s : List Word := []
  p : List (BitVec 16) := []
  ag : List AddrGen := []
  pc : Nat := 0
  loops : List LoopLevel := []
  accSat : Bool := false
  running : Bool := false
  halted : Bool := false
  wait : Option BobbinWait := none
  imem : List (Nat × Word) := []
  vmem : List (Nat × List Px) := []
  smem : List (Nat × Word) := []
  in0 : List QueueElem := []
  in1 : List QueueElem := []
  outq : List QueueElem := []
  meta0 : List Word := []
  meta1 : List Word := []
  owed : List QueueElem := []
  transfers : List Transfer := []
  tagUe : List Nat := []
  kid : Nat := 0
  rank : Nat := 0
  waitSpan : HangSpan := {}
  idleSpan : HangSpan := {}
deriving DecidableEq, Repr

/-- The state of a kernel (R254). -/
inductive KernelPhase where
  | empty
  | loaded
  | stopped
  | running
  | faulted
deriving DecidableEq, Repr

/-- One user kernel (R252–R257): its image, allocation, fault record and result snapshot. -/
structure Kernel where
  phase : KernelPhase := .empty
  reserved : Nat := 0
  image : List (Nat × Word) := []
  committed : Bool := false
  bobbins : List Nat := []
  region : Nat := 0
  spillBase : Nat := 0
  spill : Nat := 0
  channel : Nat := 0
  fault : Byte := 0
  faultBobbin : Byte := 0
  faultPc : BitVec 12 := 0
  final : Bool := false
  versions : Counter := 0
  tapAbandoned : Counter := 0
  stallUs : Word := 0
  resultSeq : Word := 0
  result : List Word := []
  lastResult : Option Nat := none
  restarts : Nat := 0
deriving DecidableEq, Repr

/-- State of the bobbins, pillows and kernels (R223–R259): 128 bobbins, 8 pillow memories of 1 MiB, 16 semaphores a
pillow, kernels 0–15 and the four vendor kernels 0x80–0x83. `vendorFw`: the firmware version whose vendor images are
loaded. -/
structure EngineState where
  bobbins : List Bobbin := List.replicate 128 {}
  pillows : List (List (Nat × Byte)) := List.replicate 8 []
  sems : List (Nat × BitVec 16) := []
  user : List Kernel := List.replicate 16 {}
  vendor : List Kernel := List.replicate 4 {}
  vendorFw : Option Word := none
deriving DecidableEq, Repr

end Sys2Proof.Machine
end

