-- ==== Sys2Proof/Machine/Parts/Net.lean ====
section
/-! DEFINITION. State of the trunk ports and the ring (R260–R319). -/
namespace Sys2Proof.Machine

/-- TRUNK_CONFIG of one port (R283). -/
structure TrunkCfg where
  laneOff : BitVec 4 := 0
  dozeEn : Bool := false
  fastRetrain : Bool := true
  restoreEn : Bool := true
  minWidth : BitVec 2 := 0
  clocking : Bool := false
  rateMax : BitVec 2 := 2
  enable : Bool := true
  fomMin : Byte := 24
  dozeIdle : BitVec 16 := 20
  txPost : BitVec 5 := 4
  txPre : BitVec 3 := 1
  txSwing : BitVec 4 := 8
deriving DecidableEq, Repr

/-- Where a port stands (R268, R285): the states of TRUNK_STATUS, the electrical idle of a rate switch (R269) and the
wait after a failed attempt (R273). -/
inductive TrunkPhase where
  | disabled
  | detect
  | cdr
  | block
  | polarity
  | deskew
  | adapt
  | caps
  | rateIdle
  | backoff
  | up
  | stowed
  | diag
deriving DecidableEq, Repr

/-- One lane (R262, R270–R272, R279, R280, R286): signal detect, recovery or block lock, equaliser, figure of merit, what its
LANE_MARK blocks said, the EPOCH among it, and when the last came, since when its FOM has been low or good, whether it is lost in service, when its
latest invalid sync headers came, and the stage of its retraining in the background, 0 with none. Of the transmitter: the last 58
scrambled bits, the latest in bit 57. -/
structure LaneState where
  detect : Bool := false
  ctle : BitVec 4 := 0
  dfe : List (BitVec 6) := List.replicate 5 0
  fom : Byte := 0
  hdrErr : BitVec 16 := 0
  txLane : BitVec 2 := 0
  inverted : Bool := false
  marks : Nat := 0
  markSeq : Byte := 0
  markAt : Nat := 0
  markWidth : BitVec 2 := 0
  markEpoch : BitVec 4 := 0
  lowSince : Option Nat := none
  goodSince : Option Nat := none
  lost : Bool := false
  locked : Bool := false
  badAt : List Nat := []
  train : Nat := 0
  prbsFrom : Option Nat := none
  scram : BitVec 58 := 0
deriving DecidableEq, Repr

/-- A slot that waits to be sent (R277, R299): whether it must end in the stomp form, when its header arrived and the
receive hop delay then (R313), in 1/16 ns. -/
structure WaitSlot where
  slot : RawSlot
  stomp : Bool := false
  arrived : Option Nat := none
  delay : Nat := 0
deriving DecidableEq, Repr

/-- A slot in the replay buffer (R275–R278, R282): how often it has been sent, and what a slot not sent yet takes with it. -/
structure ReplaySlot where
  seq : BitVec 12
  slot : RawSlot
  stomp : Bool
  sends : Nat
  arrived : Option Nat := none
  delay : Nat := 0
deriving DecidableEq, Repr

/-- What a port remembers of its hop for a fast retrain (R274). -/
structure HopRecord where
  idTag : BitVec 16
  rate : BitVec 2
  lanes : List LaneState
deriving DecidableEq, Repr

/-- A width the receiver has asked for (R279, R280): the lanes in good order, the width, since when, and the EPOCH last seen as it
asked. -/
structure WidthAsk where
  good : BitVec 4
  width : BitVec 2
  since : Nat
  widen : Bool
  epoch : BitVec 4
deriving DecidableEq, Repr

/-- What waits for a reply to leave before the port goes down (R333). -/
inductive PortAct where
  | disable
  | retrain
  | diag (test : BitVec 4) (lanes : BitVec 4)
deriving DecidableEq, Repr

/-- One trunk port (R260–R287). `cfg` is in force, `nextCfg` waits for the next bring-up; `pllCommon` is the reference
the port PLL was last set for; `leftOut`: rates left out of RATES; `dealt`: the number of the next port block
modulo the lanes; `sinceMark`: port blocks since the last LANE_MARK group; `slipped`: blocks of the slot that comes were
discarded; `quietTill`: until when the transmitter of a hop declared down is off; `announced`: training has begun to show on the
lanes; `dozeDue`: the next control gap carries DOZE; `prbs`, `loopNear`, `loopFar`: the lanes under an out-of-service test. -/
structure TrunkPort where
  cfg : TrunkCfg := {}
  nextCfg : Option TrunkCfg := none
  phase : TrunkPhase := .disabled
  rate : BitVec 2 := 0
  pllCommon : Bool := false
  fast : Bool := false
  high : Bool := false
  attemptAt : Nat := 0
  stageAt : Nat := 0
  backoffTo : Nat := 0
  quietTill : Nat := 0
  announced : Bool := false
  widthRx : BitVec 2 := 0
  widthTx : BitVec 2 := 0
  lanesRx : BitVec 4 := 0
  lanesTx : BitVec 4 := 0
  txDoze : Bool := false
  dozeDue : Bool := false
  rxDoze : Bool := false
  rxWakeAt : Option Nat := none
  txWakeAt : Option Nat := none
  partnerAddr : BitVec 7 := 0x7F
  partnerTag : BitVec 16 := 0
  partnerEtp : Byte := 0
  failStage : BitVec 4 := 0
  failReason : BitVec 4 := 0
  lanes : List LaneState := List.replicate 4 {}
  leftOut : BitVec 3 := 0
  ready : Bool := false
  capsSeen : Nat := 0
  partnerCaps : Option (BitVec 64) := none
  record : Option HopRecord := none
  txSeq : BitVec 12 := 0
  replay : List ReplaySlot := []
  resend : List ReplaySlot := []
  rxSeq : BitVec 12 := 0
  nakSent : Bool := false
  ackOwed : Bool := false
  nakOwed : Bool := false
  ackAt : Nat := 0
  elastic : Int := 8
  slipped : Bool := false
  dealt : Nat := 0
  sinceMark : Nat := 0
  markSeq : Byte := 0
  epochTx : BitVec 4 := 0
  epochRx : BitVec 4 := 0
  ask : Option WidthAsk := none
  lastWiden : Option Nat := none
  positions : Nat := 0
  ownP1 : Option Nat := none
  transit : List WaitSlot := []
  idleSince : Option Nat := none
  act : Option PortAct := none
  eye : Option (BitVec 4) := none
  eyes : List (Byte × Byte) := List.replicate 4 (0, 0)
  delayAt : Nat := 0
  prbs : BitVec 4 := 0
  loopNear : BitVec 4 := 0
  loopFar : BitVec 4 := 0
  bringups : Counter := 0
  linkDowns : Counter := 0
  sheds : Counter := 0
  restores : Counter := 0
  replayed : Counter := 0
  naksSent : Counter := 0
  stomped : Counter := 0
  hdrErrs : Counter := 0
  ebSlip : BitVec 16 := 0
  dozeWakes : BitVec 16 := 0
deriving DecidableEq, Repr

/-- PORT_ASSIGN of one stream (R303). -/
structure PortAssign where
  port : BitVec 9
  dest : BitVec 7
  dir : Bool
  basted : Bool
  rsv : BitVec 20
  peak : BitVec 20
  suspended : Bool := false
deriving DecidableEq, Repr

/-- A stream packet whose slots are still coming in for the ingress contexts: its sender, its stream port and its words. -/
structure StreamRx where
  src : BitVec 7
  port : BitVec 9
  words : List Word
deriving DecidableEq, Repr

/-- The ring-time lock states (R312). -/
inductive TimeLock where
  | unlocked
  | locked
  | holdover
deriving DecidableEq, Repr

/-- Ring time (R312–R316): the count in 1/16 ns at `asOf`, a real instant in 1/16 ns, and what the count has still to slew
from then on; `gain` over `span`: what the count gained on the local clock between the last two results of LOCKED, its last
disciplined rate; `drift`: what it drifts by in HOLDOVER, in 1/16 ns per ms; `lastAny`: when the last TIME slot arrived. -/
structure RingTime where
  count : Nat := 0
  asOf : Nat := 0
  lock : TimeLock := .unlocked
  good : Nat := 0
  slew : Int := 0
  useB : Bool := false
  offset : Word := 0
  delayWest : Word := 0
  delayEast : Word := 0
  timeSlots : Counter := 0
  lastRingA : Option Nat := none
  lastAny : Option Nat := none
  gain : Int := 0
  span : Nat := 0
  drift : Int := 0
deriving DecidableEq, Repr

/-- Where the node stands with its address (R290, R291). -/
inductive AddrPhase where
  | none
  | tentative
  | confirmed
deriving DecidableEq, Repr

/-- State of the ring chapter (R287–R319). `backoff`: the node waits after a collision; `joinAt`: until when, or when it last
sent JOIN; `hopsA`, `hopsB`: the HOPS of the DISCOVER of generation `discGen` on RING_A and on RING_B; `ownerFrom`: since when no ROTOR has arrived; `txRest`: by stream, the slots of the packet in transmission that
are not inserted yet; `rxRest`: packets coming in; `ownQueue`: the other own slots that wait. -/
structure RingState where
  addrPhase : AddrPhase := .none
  addr : BitVec 7 := 0x7F
  lastAddr : BitVec 7 := 0
  probing : Bool := false
  probeClaimed : Bool := false
  collided : Bool := false
  joinAt : Option Nat := none
  backoff : Bool := false
  topoSeen : Bool := false
  sawUnwrap : Bool := false
  ownerFrom : Option Nat := none
  selfAt : Nat := 0
  gen : BitVec 16 := 0
  nodes : Byte := 0
  features : Byte := 0
  cRing : BitVec 20 := 0
  wrappedWest : BitVec 7 := 0
  wrappedEast : BitVec 7 := 0
  tRotNs : Word := 0
  position : Byte := 0
  discGen : BitVec 16 := 0
  hopsA : Option Byte := none
  hopsB : Option Byte := none
  rotSeqA : Option Word := none
  rotSeqB : Option Word := none
  q3A : BitVec 16 := 0
  q3B : BitVec 16 := 0
  usedP3A : Nat := 0
  usedP3B : Nat := 0
  usedP2A : List (Nat × Nat) := []
  usedP2B : List (Nat × Nat) := []
  isString : Bool := false
  unwrapped : Bool := false
  ownerLost : Bool := false
  lastRotor : Option Nat := none
  ports : List (Option PortAssign) := List.replicate 9 none
  claim : Option (Nat × PortAssign × Nat) := none
  wrapEast : Bool := false
  wrapWest : Bool := false
  hadHopEast : Bool := false
  hadHopWest : Bool := false
  orphans : Counter := 0
  wraps : Counter := 0
  collisions : Counter := 0
  ownQueue : List WaitSlot := []
  txRest : List (Nat × List RawSlot) := []
  rxRest : List StreamRx := []
  time : RingTime := {}
deriving DecidableEq, Repr

end Sys2Proof.Machine
end

