-- ==== Sys2Proof/Machine/Parts/Pipe.lean ====
section
/-! DEFINITION. State of the pipeline front, the pipeline back, the Sampler and the output streams (R125–R222). -/
namespace Sys2Proof.Machine

/-! ### Front -/

/-- One input context (R126). -/
structure InputCtx where
  enable : Bool
  prio : Bool
  kind : BitVec 2
  srcPort : BitVec 9 := 0
  srcNode : BitVec 7 := 0
  height : BitVec 14 := 0
  width : BitVec 14 := 0
  deadline : Word := 50000
  pedF : BitVec 16 := 0
  fshift : BitVec 4 := 0
  cfa : BitVec 3 := 0
  fmt : BitVec 4 := 0
deriving DecidableEq, Repr

/-- The marks of a frame (R204). -/
structure Marks where
  basted : Bool := false
  corrupt : Bool := false
  late : Bool := false
  dropped : Bool := false
  incomplete : Bool := false
deriving DecidableEq, Repr

/-- The state of an ingress frame (R129). -/
inductive IngressPhase where
  | free
  | filling
  | waiting
  | reading
deriving DecidableEq, Repr

/-- What a frame header of a source port says about a frame (R204). -/
structure SrcHeader where
  id : FrameId := 0
  stamp : BitVec 64 := 0
  variantMl : Bool := false
  bin : Bool := false
  srcNode : BitVec 7 := 0
deriving DecidableEq, Repr

/-- One of the two ingress frames of common memory (R129). `lines` holds the lines received as mantissas; `desc`,
`voids` and `black` the sidecar entries by tile. -/
structure IngressFrame where
  phase : IngressPhase := .free
  ctx : Nat := 0
  hdr : SrcHeader := {}
  marks : Marks := {}
  filet : Bool := false
  ended : Bool := false
  since : Instant := ⟨0, 0⟩
  order : Nat := 0
  lines : List (Nat × List Px) := []
  blackLines : List Nat := []
  desc : List (Nat × Word) := []
  voids : List (Nat × BitVec 64) := []
  black : List (Nat × BitVec 16) := []
deriving DecidableEq, Repr

/-- Front and back section of PIPE_CONFIG (R151, R170). -/
structure PipeCfg where
  guardForce : Bool := false
  nrMode : BitVec 3 := 2
  shadeEn : Bool := true
  dpcDynEn : Bool := true
  dpcStaticEn : Bool := true
  blockFillEn : Bool := true
  darkEn : Bool := true
  obEn : Bool := true
  ccmEn : Bool := true
  ltmEn : Bool := true
deriving DecidableEq, Repr

/-- Where the front reads a version from. -/
inductive VersionSrc where
  | history (slot : Nat)
  | baste
  | ingress (k : Nat)
deriving DecidableEq, Repr

/-- A local tone-mapping grid (R165, R249). -/
structure LtmGrid where
  frame : FrameId
  nodes : List (BitVec 16)
deriving DecidableEq, Repr

/-- INJECT_PATTERN as a version takes it (R348). -/
structure PatternUse where
  pattern : Nat
  level : Nat
deriving DecidableEq, Repr

/-- A version or a channel's frame passing through an in-line kernel (R239, R241): the kernel, its apron, the vectors each
rank has received and pushed, and the vectors pushed, by rank and count. `cut`: the kernel faulted or stopped, and what it
has not pushed passes unchanged (R257). -/
structure InlineRun where
  kid : Nat
  apron : Nat
  recv : List Nat
  pushed : List Nat
  out : List (Nat × List Px) := []
  cut : Bool := false
deriving DecidableEq, Repr

/-- A version being copied to a FRONT_TAP kernel (R239, R242); `gone`: it receives nothing more of the version. -/
structure TapRun where
  kid : Nat
  apron : Nat
  recv : List Nat
  gone : Bool := false
deriving DecidableEq, Repr

/-- The tables a version is corrected under, fixed when the front begins it (R156, R169). -/
structure VersionTables where
  defect : List Word := []
  shading : Option (List Word) := none
  dark : Option (List Word) := none
  tone : Option (List Word) := none
  gamma : Option (List Word) := none
deriving DecidableEq, Repr

/-- A version the front is correcting: its source, the order, values and tables fixed when the front began it (R136), the
bands taken so far, the channels it has reached, the uncorrectable words met (R97), and the kernels that filter or copy it. `nrFaultRow`: the first
row that a vendor noise-reduction kernel's fault left unfiltered (R257). -/
structure FrontVersion where
  ctx : Nat
  kind : BitVec 2
  src : VersionSrc
  id : FrameId
  basted : Bool
  hdr : SrcHeader
  width : Nat
  height : Nat
  guardOrder : Bool
  values : PipeParams
  peer : FrameParams := {}
  cfg : PipeCfg
  tables : VersionTables := {}
  black : BlackInfo := {}
  pattern : Option PatternUse := none
  grid : Option LtmGrid := none
  prevCopyOk : Bool := false
  bandsDone : Nat := 0
  reached : List Nat := []
  badWords : List Nat := []
  marks : Marks := {}
  wbLo : Word := 64
  wbHi : Word := 30000
  statsEvery : Byte := 1
  statsEn : Bool := false
  nr : Option InlineRun := none
  nrFaultRow : Option Nat := none
  taps : List TapRun := []
deriving DecidableEq, Repr

/-- Counters of one context (R158). -/
structure CtxCounters where
  frames : Counter := 0
  dropped : Counter := 0
  crcErr : Counter := 0
  lateLines : Counter := 0
  basted : Counter := 0
  format : Counter := 0
deriving DecidableEq, Repr

/-- State of the pipeline front (R125–R158). `versions`: at most one of each context, in the order begun; `nrOwners`: by
rank, the contexts of the lines an NR user kernel has received and not pushed, oldest first; `stopSeen`: the pipeline has
been stopped since it last began a version (R151). -/
structure FrontState where
  ctx0 : InputCtx := { enable := true, prio := true, kind := 1 }
  ctx1 : InputCtx := { enable := false, prio := false, kind := 0 }
  ingress : List IngressFrame := [{}, {}]
  ingressCount : Nat := 0
  fmtErrRaised : List Nat := []
  cfg : PipeCfg := {}
  params : PipeParams := {}
  pendingSets : List (PendingSet PipeUpd) := []
  versions : List FrontVersion := []
  nrOwners : List (List Nat) := []
  stopSeen : Bool := true
  disableAtEnd : List Nat := []
  orderGuard : Bool := true
  obLast : ObVec := {}
  obLostRaised : Bool := false
  lastTemps : Option TempSource := none
  darkDegraded : Bool := false
  prevCopy : Option (FrameId × Nat × List (Nat × Nat)) := none
  tnrCounted : Option (FrameId × BitVec 64) := none
  cnt0 : CtxCounters := {}
  cnt1 : CtxCounters := {}
  dpcDynCorrected : Counter := 0
  blockFills : Counter := 0
  tnrRestarts : Counter := 0
  obHeld : Counter := 0
deriving DecidableEq, Repr

/-- A record being staged by LOAD_CAL_TABLE (R156): its words by index. -/
structure CalStaging where
  table : Nat
  dest : Nat
  words : List (Nat × Word) := []
deriving DecidableEq, Repr

/-- A committed table that waits for a version boundary (R156, R169). -/
structure CalPending where
  table : Nat
  dest : Nat
  body : List Word
deriving DecidableEq, Repr

/-- The calibration tables in force (R153–R156, R169); a body of none is a table never written, whose default applies. -/
structure CalState where
  read : Bool := false
  validDefect : Bool := false
  validShading : Bool := false
  validDark : Bool := false
  defect : List Word := []
  shading : Option (List Word) := none
  dark : Option (List Word) := none
  tone : Option (List Word) := none
  gamma : Option (List Word) := none
  ingress0 : Option (List Word) := none
  ingress1 : Option (List Word) := none
  ratioNext : Option (List Word) := none
  staging : Option CalStaging := none
  frontPending : List CalPending := []
  backPending : List CalPending := []
deriving DecidableEq, Repr

/-! ### Back -/

/-- STREAM_CONFIG of one stream: channel section (R172) and coding section (R196), without the crop origin, which is a
class F value (R173). -/
structure StreamCfg where
  cropH : BitVec 14 := 6144
  cropW : BitVec 14 := 8192
  outH : BitVec 14 := 1536
  outW : BitVec 14 := 2048
  every : Byte := 1
  record : Bool := false
  basteEn : Bool := false
  insetEn : Bool := false
  insetSrc : BitVec 3 := 0
  format : BitVec 4 := 4
  depth : BitVec 2 := 0
  tap : BitVec 2 := 0
  source : Bool := false
  insetY : BitVec 14 := 0
  insetX : BitVec 14 := 0
  insetTimeout : Byte := 100
  dropPolicy : BitVec 2 := 0
  filetEmax : BitVec 6 := 0
  filetE : BitVec 6 := 0
  filet : BitVec 2 := 0
  lineBudget : BitVec 16 := 4096
  bufMib : Byte := 32
deriving DecidableEq, Repr

/-- A complete inset frame (R181): each pixel holds three 20-bit channels in 64 bits. -/
structure InsetFrame where
  id : FrameId
  completed : Instant
  marks : Marks
  pixels : List (BitVec 64)
deriving DecidableEq, Repr

/-- Live coding values of one stream as the next frame header takes them (R198). -/
structure CodingVals where
  filetE : BitVec 6
  filetEmax : BitVec 6
  lineBudget : BitVec 16
  dropPolicy : BitVec 2
deriving DecidableEq, Repr

/-- A frame a channel is delivering (R176, R181, R203): the lines handed to the stream so far, the inset chosen when it
began, and once the version has ended the marks its trailer will carry. -/
structure ChannelRun where
  ctx : Nat
  id : FrameId
  basted : Bool
  hdr : SrcHeader
  marks : Marks
  cropY : Nat
  cropX : Nat
  inset : Option InsetFrame
  insetBlack : Bool
  offered : Bool := false
  accepted : Bool := false
  ended : Option Marks := none
  linesOut : Nat := 0
  kernel : Option InlineRun := none
deriving DecidableEq, Repr

/-- A frame a RAW20 channel is reading (R180): its history slot, the lines handed over, and the marks so far. -/
structure RawRun where
  slot : Nat
  id : FrameId
  hist : Bool
  offered : Bool := false
  linesOut : Nat := 0
  marks : Marks := {}
  cropY : Nat
  cropX : Nat
deriving DecidableEq, Repr

/-- A frame whose slot was rewritten before a RAW20 channel had begun it, in order of release (R180). -/
structure RawLost where
  order : Nat
  frame : FrameRec
deriving DecidableEq, Repr

/-- One output channel (R176–R181). `rawLost`: frames that a RAW20 channel has lost and not yet passed in order (R180, R211);
`leftover`: lines that its kernel holds of frames whose stream was disabled; what is pushed
of them is discarded (R258). -/
structure ChannelState where
  lastTaken : Option FrameId := none
  decision : Option (FrameId × Bool) := none
  misfitRaised : Bool := false
  insetLostRaised : Bool := false
  run : Option ChannelRun := none
  raw : Option RawRun := none
  rawSeen : Nat := 0
  rawLost : List RawLost := []
  histQueue : List FrameId := []
  inset : Option InsetFrame := none
  leftover : List InlineRun := []
deriving DecidableEq, Repr

/-- A statistics set in the Sampler output area (R193): the frame it is of, its age, and whether the STATS stream has still
to send it. -/
structure SetSlot where
  frame : FrameRec
  order : Nat
  unsent : Bool
deriving DecidableEq, Repr

/-- State of the pipeline back and the Sampler apart from memory (R159–R195). `drained`: versions the front has ended and
the back has not. `sets`: the 20 slots of the Sampler output
area. -/
structure BackState where
  channels : List ChannelState := List.replicate 8 {}
  cfgs : List StreamCfg := List.replicate 8 {}
  drained : Nat := 0
  grid : Option LtmGrid := none
  gridPillowHalf : Bool := false
  statsEvery : Byte := 1
  statsEn : Bool := false
  wbLo : Word := 64
  wbHi : Word := 30000
  sets : List (Option SetSlot) := List.replicate 20 none
  setCount : Nat := 0
  statsLast : Option FrameId := none
  cropMisfit : Counter := 0
  insetTimeouts : Counter := 0
  ltmStale : Counter := 0
  bypassDropped : Counter := 0
  statsSets : Counter := 0
  statsLost : Counter := 0
deriving DecidableEq, Repr

/-! ### Streams -/

/-- What an entry of a stream buffer is. -/
inductive EntryKind where
  | frame
  | droppedForm
  | retract
deriving DecidableEq, Repr

/-- A frame or marker in a stream buffer (R216–R218). `waiting`: packets not yet drained, each without its PSEQ and CRC,
which it gets as it leaves; `peaks` the largest error bounds of the LINE packets among them; `sent…` what has left; `missed`
the count its header's MISSED was written from; `begun`: its first packet has left the port; `closed`: its trailer is
written. -/
structure StreamEntry where
  kind : EntryKind
  id : FrameId
  basted : Bool
  hist : Bool := false
  reserved : Nat
  written : Nat := 0
  lines : Nat := 0
  payload : Nat := 0
  ePeak : Nat := 0
  marks : Marks := {}
  coding : CodingVals := ⟨0, 0, 4096, 0⟩
  begun : Bool := false
  closed : Bool := false
  sentBytes : Nat := 0
  sentLines : Nat := 0
  sentPayload : Nat := 0
  sentPeak : Nat := 0
  missed : Nat := 0
  peaks : List Nat := []
  waiting : List (List Word) := []
deriving DecidableEq, Repr

/-- One stream (R196–R222). -/
structure StreamState where
  enabled : Bool := false
  stopping : Bool := false
  pseq : BitVec 16 := 0
  missed : Nat := 0
  live : Option CodingVals := none
  entries : List StreamEntry := []
  bastedOut : Option FrameId := none
  decim : Nat := 0
  decimPhase : Nat := 0
  decimDecision : Option (FrameId × Bool) := none
  framesSent : Counter := 0
  dropped : Counter := 0
  lastFrameBytes : Counter := 0
  filetOver : Counter := 0
  markersLost : Counter := 0
  bufPeak : BitVec 16 := 0
  peakSent : Bool := false
deriving DecidableEq, Repr

end Sys2Proof.Machine
end

