-- ==== Sys2Proof/Machine/Parts/Sys.lean ====
section
/-! DEFINITION. State of clocks, power, reset, eMRAM, two-wire ports, timers, monitor converter and test port
(R349–R500). -/
namespace Sys2Proof.Machine

/-! ### Clocks (R349–R365) -/

/-- State of a PLL (R356–R358). -/
inductive PllPhase where
  | off
  | acquire
  | locked
  | coast
deriving DecidableEq, Repr

/-- One PLL: its state, band, held word, the start of its lock attempt, the lock window and the lock cycles that the attempt took
(R351, R362), and the word of a trunk PLL in units of 2^-24 with the declared reference in kHz that it was computed from (R350). -/
structure PllState where
  phase : PllPhase := .off
  band : BitVec 3 := 0
  held : Bool := false
  attemptStart : Option Nat := none
  lockWin : BitVec 4 := 3
  nLock : BitVec 13 := 256
  word : Nat := 0
  refKhz : Nat := 25000
deriving DecidableEq, Repr

/-- One clock output of SET_CLOCKS (R362). -/
structure ClkOut where
  div : BitVec 12 := 100
  swing : BitVec 4 := 4
  format : BitVec 2 := 0
  oe : Bool := false
deriving DecidableEq, Repr

/-- SET_CLOCKS (R362). -/
structure ClockCfg where
  rootManual : Bool := false
  lockWin : BitVec 4 := 3
  nLock : BitVec 13 := 256
  ref1Khz : BitVec 16 := 25000
  ref0Khz : BitVec 16 := 25000
  rootInt : BitVec 7 := 48
  rootFrac : BitVec 24 := 0
  outInt : BitVec 7 := 30
  outFrac : BitVec 24 := 0
  outRef : Bool := false
  outEn : Bool := false
  clk0 : ClkOut := {}
  clk1 : ClkOut := {}
deriving DecidableEq, Repr

/-- State of the clock chapter (R349–R365). `delta` is the trim applied, in parts per billion; `measured`: REFCLK0 has been
measured since the clock domain was released; `baseChange`: SET_CLOCKS relocks the root, since `relockAt` with its reply to come;
`ref0Since`, `ref1Since`: since when a reference has been present and within 1 %; `switchAt`: the last switch of the tree's source that
a loss, a lock, a change of base or a reset made (R393). -/
structure ClockState where
  cfg : ClockCfg := {}
  trimTarget : Word := 0
  trimStepPpm : BitVec 10 := 1000
  delta : Int := 0
  root : PllState := {}
  out : PllState := {}
  west : PllState := {}
  east : PllState := {}
  ref0Ok : Bool := false
  ref1Ok : Bool := false
  ref0Since : Option Nat := none
  ref1Since : Option Nat := none
  ref0Nonstd : Bool := false
  limp : Bool := true
  switchAt : Nat := 0
  ref0MeasHz : Word := 0
  measured : Bool := false
  baseChange : Bool := false
  relockAt : Option Nat := none
  limpSince : Option Nat := none
  limpUs : Counter := 0
  everLocked : Bool := false
  rootLostPending : Bool := false
  rootLosses : Counter := 0
  ref0Losses : Counter := 0
  ref1Losses : Counter := 0
  pllLosses : Counter := 0
  bandSearches : Counter := 0
deriving DecidableEq, Repr

/-! ### Power and temperature (R366–R386) -/

/-- The power states (R380). -/
inductive PowerPhase where
  | active
  | idle
  | doze
  | stow
deriving DecidableEq, Repr

/-- SET_POWER_BUDGET (R370), mW. -/
structure BudgetCfg where
  ceiling : BitVec 16 := 18000
  vddcv : BitVec 16 := 9600
  vddc : BitVec 16 := 8250
  vddl : BitVec 16 := 1350
  vddm : BitVec 16 := 3850
  vddpix : BitVec 16 := 660
  vdda : BitVec 16 := 720
deriving DecidableEq, Repr

/-- One temperature sensor (R371, R372): the reading in 1/16 °C, validity, and what the validity check remembers. -/
structure Sensor where
  reading : BitVec 16 := 0x8000
  valid : Bool := false
  goodRun : Nat := 99
  prev : BitVec 16 := 0x8000
deriving DecidableEq, Repr

/-- THERMAL_CONFIG (R378). -/
structure ThermalCfg where
  hyst : BitVec 4 := 5
  shutdown : Byte := 115
  throttle : Byte := 100
  warn : Byte := 95
  mask : BitVec 16 := 0
deriving DecidableEq, Repr

/-- State of the power chapter (R366–R386). -/
structure PowerState where
  phase : PowerPhase := .idle
  budget : BudgetCfg := {}
  granted : List Bool := List.replicate 8 true
  limitRaised : List Nat := []
  sensors : List Sensor := List.replicate 16 {}
  tJ : BitVec 16 := 0x8000
  tJPeak : BitVec 16 := 0x8000
  hold : Bool := false
  step : Nat := 0
  stepAt : Nat := 0
  warned : Bool := false
  thermal : ThermalCfg := {}
  wakePorts : BitVec 2 := 0
  wakeTw : BitVec 2 := 0
  stowPending : Bool := false
  wakeSeen : Bool := false
  faultN : Bool := false
  admitRefused : Counter := 0
  powerLimits : Counter := 0
  throttleMs : Counter := 0
  holds : Counter := 0
  dozes : Counter := 0
  stows : Counter := 0
deriving DecidableEq, Repr

/-! ### Reset (R387–R407) -/

/-- The causes of a reset: RESET_CAUSE (R340, R387). -/
inductive ResetCause where
  | powerOn
  | resetN
  | brownOut
  | watchdog
  | soft
  | thermal
  | trunk
  | fatal
deriving DecidableEq, Repr

/-- Where a reset sequence stands (R377, R388, R390, R394): waiting for PGOOD and RESET_N, loading options, releasing
domains, booting until the first command is taken; off after a hard trip, held
by TESTEN (R493), or without VDDAON. -/
inductive ResetPhase where
  | done
  | holding
  | loading
  | releasing
  | tripped
  | testing
  | dead
deriving DecidableEq, Repr

/-- The fuses: the option fuses (R397), the identity, the firmware key hash and the rollback count (R416), and the analog trims: ramp
slope and offset of the 825 generators, an unlisted one 0, the global comparator offset and the gain threshold's trim (R45). -/
structure Fuses where
  wdtStart : Bool := false
  resetOrder : Bool := false
  twaAddr : BitVec 7 := 0
  twbAddr : BitVec 7 := 0
  twaLevel : BitVec 2 := 0
  twbLevel : BitVec 2 := 0
  trunkRate : BitVec 2 := 0
  autoload : BitVec 3 := 0
  variantMl : Bool := false
  es : Bool := false
  stepping : Byte := 0
  deviceId : BitVec 64 := 0
  keyHash : BitVec 256 := 0
  rollback : BitVec 6 := 0
  rampSlope : List (Nat × Word) := []
  rampOffset : List (Nat × Word) := []
  comparator : Word := 0
  gainTrim : Word := 0
deriving DecidableEq, Repr

/-- WATCHDOG_CONFIG (R404). -/
structure WatchdogCfg where
  hardMs : BitVec 2 := 3
  window : BitVec 2 := 0
  period : BitVec 5 := 30
deriving DecidableEq, Repr

/-- State of the reset chapter and the watchdog (R387–R407). `blown`: the fuses as programmed, `fuses`: as loaded. `waiting`:
a warm reset that waits for an eMRAM page write (R412). `gap`: since when a legacy gap is stretched, `gapUnits`: its counts up to `gapAt`, in
1/16,000,000 of a count, `firstStretch` the first
domain stretched. `wdCount` is C at `wdAt`; `wdNext`: values that apply from the next valid service; `wdSeen`: a
WATCHDOG_CONFIG has been accepted since the Bureau domain left reset. -/
structure ResetState where
  cause : ResetCause := .powerOn
  phase : ResetPhase := .done
  asserted : List Domain := []
  keepTrunk : Bool := false
  waiting : Option (ResetCause × Bool) := none
  softPending : Option (Bool × Instant) := none
  fuses : Fuses := {}
  blown : Fuses := {}
  boot : BitVec 2 := 0
  straps : BitVec 2 := 0
  recovery : Bool := false
  loadAttempts : Nat := 0
  loadReported : BitVec 4 := 0
  legacyStretch : Bool := false
  fuseFault : Bool := false
  profileSkipped : Bool := false
  profileDue : Bool := false
  revertedBank : Option Bool := none
  lastWdtFail : BitVec 2 := 0
  stretchUs : Word := 0
  gap : Option Nat := none
  gapUnits : Nat := 0
  gapAt : Nat := 0
  firstStretch : Option Nat := none
  wdtServices : Counter := 0
  wdtFailures : Counter := 0
  resetRt : BitVec 64 := 0
  executed : BitVec 16 := 0
  refusedCmds : BitVec 16 := 0
  lastFatal : Option Nat := none
  quickFatal : Bool := false
  resetNLow : Bool := false
  pgood : Bool := true
  wdArm : Bool := false
  wdCfg : WatchdogCfg := {}
  wdNext : Option WatchdogCfg := none
  wdCount : Nat := 0
  wdAt : Instant := ⟨0, 0⟩
  wdKey : Bool := false
  wdFailed : Bool := false
  wdDue : Bool := false
  wdHard : Option Nat := none
  wdSeen : Bool := false
deriving DecidableEq, Repr

/-! ### eMRAM (R408–R423) -/

/-- What an eMRAM transaction is for: NVM_WRITE with its TAG, a table of LOAD_CAL_TABLE, the trims of RATIO_CAL, the
coefficients of MCV_CALIBRATE, the bank state of FW_UPDATE_BEGIN (with IMAGE_LENGTH) and FW_UPDATE_COMMIT, CLEARED_SEQ, the
completion of a transaction that a reset cut short, or a record of the boot loader: TRIAL RUNNING, the trial bank REJECTED, the
other bank active (R417). -/
inductive NvmOrigin where
  | nvmWrite (tag : BitVec 16)
  | calTable
  | selftest
  | mcvCal (arg0 arg2 : Nat)
  | fwBegin (len : Nat)
  | fwVerified
  | fwConfirm
  | dumpClear (seq : Word)
  | recovered
  | bootTrial
  | bootReject
  | bootSwitch
deriving DecidableEq, Repr

/-- A running transaction (R411): the pages of its range, each with its new content, and which of its 2P + 2 page writes
comes next: P staging pages, the commit record, P pages in place, the completion record. -/
structure NvmTxn where
  origin : NvmOrigin
  first : Nat
  pages : List (List Byte)
  next : Nat := 0
  retried : Bool := false
deriving DecidableEq, Repr

/-- Pages that FW_UPDATE_DATA has still to write straight into a bank (R418). -/
structure NvmDirect where
  pages : List (Nat × List Byte)
  words : Nat
  retried : Bool := false
deriving DecidableEq, Repr

/-- The states of a firmware bank (R416). -/
inductive BankState where
  | empty
  | incomplete
  | valid
  | rejected
deriving DecidableEq, Repr

/-- What writes a page: FW_UPDATE_DATA, the transaction, the boot loader's record, or the digest of a dump (R409). -/
inductive NvmWriter where
  | direct
  | txn
  | boot
  | digest
deriving DecidableEq, Repr

/-- A dump being written (R403, R419): the reset that follows, CAUSE and CAUSE_DETAIL, the program counter, and the ring time
of the fault; then, the dump standing in its region, the digest's slot, how many of its 64 page writes have ended, whether the
next is a retry, and whether one has failed. -/
structure DumpRun where
  reset : ResetCause
  cause : Nat
  detail : Nat
  pc : Word
  stamp : BitVec 64
  written : Bool := false
  slot : Nat := 0
  next : Nat := 0
  retried : Bool := false
  bad : Bool := false
deriving DecidableEq, Repr

/-- State of the eMRAM, firmware and dump chapter (R408–R423). `cells`: the bytes by address, page × 1,024 + byte; `wear`:
writes by page; `boot`: the boot loader's record; `inFlight`: whose page write is in progress; `stageNext`,
`recordNext`: rotation of the journal's pages; `redirects`: pages served from staging; `trial`: 0 NONE, 1 PENDING,
2 RUNNING, of the bank that is not active; `digests`: DUMP_SEQ of each complete slot. -/
structure NvmState where
  cells : List (Nat × Byte) := []
  wear : List (Nat × Nat) := []
  wearRaised : List Nat := []
  txnSeq : Word := 0
  txn : Option NvmTxn := none
  direct : Option NvmDirect := none
  boot : Option NvmTxn := none
  inFlight : Option NvmWriter := none
  stageNext : Nat := 0
  recordNext : Nat := 0
  lastTxn : BitVec 3 := 0
  redirects : List Nat := []
  staging : Option (Nat × List (Nat × Word)) := none
  bankA : BankState := .valid
  bankB : BankState := .empty
  activeB : Bool := false
  trial : BitVec 2 := 0
  updateLength : Option Nat := none
  updateGot : Nat := 0
  fwMajor : Byte := 0
  fwMinor : Byte := 0
  fwBuild : BitVec 16 := 0
  dumpValid : Bool := false
  digests : List (Option Word) := List.replicate 8 none
  clearedSeq : Word := 0
  dumping : Option DumpRun := none
  pageWrites : Counter := 0
  verifyRetries : Counter := 0
deriving DecidableEq, Repr

/-! ### Two-wire ports (R424–R444) -/

/-- One candidate of TW_CONFIG (R441). -/
structure TwCandidate where
  valid : Bool := false
  addr : BitVec 7 := 0
  reg : Byte := 0
  mask : Byte := 0
deriving DecidableEq, Repr

/-- TW_CONFIG of one port (R441). -/
structure TwCfg where
  taddr : BitVec 7 := 0
  level : BitVec 2 := 0
  filter : BitVec 6 := 5
  ibrEn : Bool := false
  mode : BitVec 2 := 1
  role : Bool := false
  ibrRepeat : Byte := 10
  sclTimeout : Byte := 25
  sclKhz : BitVec 16 := 400
  cands : List TwCandidate := List.replicate 8 {}
deriving DecidableEq, Repr

/-- A transaction in progress on a two-wire bus as a target sees it. -/
structure TwTransaction where
  addressed : Bool
  read : Bool
  first : Bool
deriving DecidableEq, Repr

/-- A controller transfer (R426, R442, R443): its target and lengths, how often arbitration was lost, whether it waits to
be tried again, and whether the bus was free for it to start. -/
structure TwTransfer where
  addr : BitVec 7
  split : Bool
  write : List Byte
  readLen : Nat
  losses : Nat := 0
  waits : Bool := false
  started : Bool := false
deriving DecidableEq, Repr

/-- One two-wire port (R424–R444). `acc`: the packet being accumulated; `replyRest`: reply bytes behind the segment in
MB_OUT; `ibrPending`: a reply has become ready and its in-band request has not been issued; `ibrLast`: the last request; `poll`:
a request recognised during a transfer, whose poll follows it, with what the candidates will answer (R438). -/
structure TwPortState where
  cfg : TwCfg := {}
  pointer : Byte := 0
  mbCount : Byte := 0
  mbIn : List Byte := List.replicate 128 0
  mbOut : List Byte := List.replicate 96 0
  replyReady : Bool := false
  replyMore : Bool := false
  held : Bool := false
  inOpen : Bool := false
  mbErr : BitVec 3 := 0
  replyLen : Byte := 0
  acc : List Byte := []
  replyRest : List Byte := []
  rtMirror : BitVec 64 := 0
  bus : Option TwTransaction := none
  transfer : Option TwTransfer := none
  poll : Option (List (Option Byte)) := none
  ibrPending : Bool := false
  ibrLast : Option Nat := none
  busIdleSince : Nat := 0
  stuckRaised : Bool := false
  matchCount : Counter := 0
  aborted : Counter := 0
  arbLost : BitVec 16 := 0
  busRecoveries : BitVec 16 := 0
  ibrSent : BitVec 16 := 0
  ibrUnclaimed : BitVec 16 := 0
  mbErrors : Counter := 0
deriving DecidableEq, Repr

/-! ### Timers and trigger pins (R445–R457) -/

/-- TIMER_CONFIG of one channel (R454). -/
structure TimerCfg where
  src : BitVec 3 := 0
  mode : Bool := false
  wmode : BitVec 2 := 0
  sync : BitVec 2 := 0
  capEdge : BitVec 2 := 0
  capPin : BitVec 3 := 0
  capSrc : BitVec 2 := 0
  srcPin : BitVec 3 := 0
  srcEdge : Bool := false
  outEn : Bool := false
  outPin : BitVec 3 := 0
  idle : Bool := false
  actW : BitVec 2 := 0
  act1 : BitVec 2 := 0
  act0 : BitVec 2 := 0
deriving DecidableEq, Repr

/-- One timer channel (R447–R457). `usMark`: the multiple of 1,000 ns of ring time that its last microsecond tick passed. -/
structure TimerChan where
  cfg : TimerCfg := {}
  prescale : Word := 0x00010000
  period : Word := 1000
  cmp0 : Word := 0
  cmp1 : Word := 0
  periodPre : Word := 1000
  cmp0Pre : Word := 0
  cmp1Pre : Word := 0
  phaseAcc : Nat := 0
  usMark : Nat := 0
  count : Word := 0
  running : Bool := false
  out : Bool := false
  captures : List Word := []
  periodOverrun : Bool := false
  capOvf : Bool := false
  overruns : BitVec 16 := 0
  capLost : BitVec 16 := 0
deriving DecidableEq, Repr

/-- What acts on a channel beside its ticks: a capture event, a SYNC, a load of TIMER_GO (the mask LOAD and its three values), its
STOP, CLEAR and START at the microsecond `us`, and TIMER_READ with or without POP. -/
inductive TimerAct where
  | capture
  | sync
  | load (mask : BitVec 3) (cmp0 cmp1 period : Word)
  | go (us : Nat) (stop clear start : Bool)
  | read (pop : Bool)
deriving DecidableEq, Repr

/-- What acted on a channel at the TCLK edge `edge`, in order, and the channel as it stood before: a tick of that edge comes first
(R450, R452, R458). -/
structure TimerEdge where
  edge : Nat
  base : TimerChan
  acts : List TimerAct
deriving DecidableEq, Repr

/-- The trigger pins and the eight channels (R445–R457). `levelAt`: the dates of the pins' last qualified edges. -/
structure TimerState where
  filt : List (BitVec 4) := List.replicate 8 10
  level : List Bool := List.replicate 8 false
  levelAt : List Nat := List.replicate 8 0
  chans : List TimerChan := List.replicate 8 {}
  edges : List (Option TimerEdge) := List.replicate 8 none
deriving DecidableEq, Repr

/-! ### Monitor converter (R458–R476) -/

/-- One sequencer entry (R463). -/
structure McvEntry where
  shared : Bool := false
  channel : BitVec 5 := 12
  dest : BitVec 4 := 0
  destB : BitVec 4 := 0
  delay : BitVec 4 := 0
  repeats : Byte := 1
deriving DecidableEq, Repr

/-- A conversion: its channel, accumulator and entry, whether both converters convert together, the coefficients and the
state of the reference as its slot began, the slot's number, and whether it belongs to a calibration. -/
structure McvConversion where
  channel : Nat
  dest : Nat
  entry : Nat
  shared : Bool
  offset : Word
  gain : Word
  unsettled : Bool
  slot : Nat
  cal : Bool
deriving DecidableEq, Repr

/-- One monitor converter (R459–R468). `entry`: the entry in progress; `nextEntry`, `nextSlot`: what its next slot is;
`cur`: the conversion of the slot in progress; `due`: a conversion whose slot has ended and whose result is to come;
`recovery`: the next conversion is discarded; `ovr`: the sticky flag. -/
structure McvConv where
  run : Bool := false
  tableLen : BitVec 5 := 1
  entries : List McvEntry := List.replicate 16 {}
  entry : Nat := 0
  nextEntry : Nat := 0
  nextSlot : Nat := 0
  cur : Option McvConversion := none
  due : Option McvConversion := none
  recovery : Bool := false
  ovr : Bool := false
deriving DecidableEq, Repr

/-- One accumulator with its min-max tracker (R467). -/
structure McvAcc where
  sum : BitVec 64 := 0
  count : Word := 0
  least : Word := 0x7FFFFFFF
  greatest : Word := 0x80000000
  ovr : Bool := false
  unsettled : Bool := false
  full : Bool := false
deriving DecidableEq, Repr

/-- A running system calibration (R473): its slots begun, and for each converter the conversions taken and their sum. -/
structure McvCalRun where
  mask : BitVec 2
  channel : Nat
  full : Bool
  store : Bool
  vfs : Word
  slots : Nat := 0
  takenA : Nat := 0
  sumA : Int := 0
  takenB : Nat := 0
  sumB : Int := 0
  ovr : Bool := false
deriving DecidableEq, Repr

/-- A result of MCV-B that entered accumulator `dest` in a slot, and the accumulator before it: MCV-A's result of that slot is added
first (R467). -/
structure McvAdded where
  slot : Nat
  dest : Nat
  base : McvAcc
  y : Int
  ov : Bool
  unsettled : Bool
deriving DecidableEq, Repr

/-- State of the monitor converter (R459–R476). `tMean`: the last valid mean of the mains periods; `tInt`: the integration
period, both in TCLK cycles; `slotAt`, `nextAt`: starts of the slot in progress and of the next, in TCLK cycles; `slotNo`
counts slots; `joined`: MCV-B takes the SHARED entry in progress; `pairA`, `pairB`: the last result of a SHARED conversion
with its slot; `x0`: held ZERO means by 24v + c; `calStore`: arguments of MCV_CAL_DONE of a store that waits for the
journal. -/
structure McvState where
  afterB : Option McvAdded := none
  refEn : Bool := false
  intSrc : BitVec 2 := 0
  intMult : BitVec 4 := 1
  plausThr : BitVec 24 := 0
  a : McvConv := {}
  b : McvConv := {}
  tMean : Nat := 2000000
  tInt : Nat := 2000000
  mainsHeld : Bool := false
  slotAt : Nat := 0
  nextAt : Nat := 0
  slotNo : Nat := 0
  joined : Bool := false
  accs : List McvAcc := List.replicate 16 {}
  refAt : Nat := 0
  refSettled : Bool := false
  offsets : List (Nat × Word) := []
  gains : List (Nat × Word) := []
  cal : Option McvCalRun := none
  calStore : Option (Nat × Nat) := none
  x0 : List (Nat × Int) := []
  lastPlaus : Option Nat := none
  pairA : Option (Nat × Int) := none
  pairB : Option (Nat × Int) := none
  convA : Counter := 0
  convB : Counter := 0
  ovrConv : Counter := 0
  plausFails : Counter := 0
  discarded : Counter := 0
deriving DecidableEq, Repr

/-! ### Test port (R495) -/

/-- The sixteen controller states of IEEE 1149.1. -/
inductive TapPhase where
  | testLogicReset
  | runTestIdle
  | selectDr
  | captureDr
  | shiftDr
  | exit1Dr
  | pauseDr
  | exit2Dr
  | updateDr
  | selectIr
  | captureIr
  | shiftIr
  | exit1Ir
  | pauseIr
  | exit2Ir
  | updateIr
deriving DecidableEq, Repr

/-- The instructions of the test port (R495). -/
inductive TapInstr where
  | bypass
  | idcode
  | sample
  | extest
  | clamp
  | highz
deriving DecidableEq, Repr

/-- The TAP controller and its registers (R495): the active instruction, the shift registers with the bit nearest TDO first,
the 47 output latches of the chain in the order of its cells from TDO, and what TDO drives. TRST_N low holds it in
Test-Logic-Reset, from power-on until an edge of TCK finds TRST_N high (R480). -/
structure TapState where
  trstLow : Bool := true
  phase : TapPhase := .testLogicReset
  ir : TapInstr := .idcode
  irShift : BitVec 4 := 0
  dr : List Bool := []
  latches : List Bool := List.replicate 47 false
  tdo : Option Bool := none
deriving DecidableEq, Repr

/-- Levels outside the device: VDDIO above 2.40 V (R485) and TESTEN (R493) as option loading last sampled them, and RESET_N and PGOOD
as they stand at their pins; what the device takes RESET_N and PGOOD for is `ResetState.resetNLow` and `ResetState.pgood`, which the
pins leave alone while they serve the boundary chain (R495). -/
structure PinState where
  level33 : Bool := false
  testen : Bool := false
  resetNLow : Bool := false
  pgood : Bool := true
deriving DecidableEq, Repr

end Sys2Proof.Machine
end

