-- ==== Sys2Proof/Machine/Shipped.lean ====
section
/-! DEFINITION. The eMRAM of a part as it ships: the calibration slots that the factory writes (R155, R413, R474; log entry 3). -/
namespace Sys2Proof.Machine

/-- The header of a calibration record, without its CRC (R153). -/
def calHead (ml : Bool) (dev : BitVec 64) (id bytes : Nat) : List Word :=
  [mkWord [(1, 16), (id, 0)], wordOf bytes, wordOf (b2n ml), 0, lo32 dev, hi32 dev, 0]

/-- A calibration record: its header, CRC and body (R153). -/
def calRecordOf (ml : Bool) (dev : BitVec 64) (id : Nat) (body : List Word) : List Word :=
  let head := calHead ml dev id (4 * body.length)
  head ++ [crc32 (wordsBytes (head ++ body))] ++ body

/-- A factory gain, within the range that the CONTENT check asks for. -/
def factoryGain (k : Nat) : Word :=
  let g := Config.factoryGain k
  if 0x20000000 ≤ g.toNat && g.toNat ≤ 0x80000000 then g else 0x40000000

/-- The MCV_COEF body of a part: factory coefficients for channels 12 to 23 but the reserved channel 15, OFFSET 0 and GAIN 2^30 for
the others (R474). -/
def shippedCoef : List Word :=
  (List.range 48).flatMap fun k =>
    if 12 ≤ k % 24 && k % 24 ≠ 15 then [Config.factoryOffset k, factoryGain k] else [0, 0x40000000]

/-- The eMRAM of a part as it ships, of a device with DEVICE_ID 0 and VARIANT CL: a DEFECT_MAP without entries; a DARK_MODEL of TD 50
and I40 0 throughout; a RATIO record with every trim 0, whose bytes of zero are not listed; and MCV_COEF. The constants are the CRCs
of the DARK_MODEL and RATIO records so defined. -/
def shippedCells : List (Nat × Byte) :=
  let slot (page : Nat) : Nat := (4352 + page) * 1024
  memSetWords (memSetWords (memSetWords (memSetWords []
      (slot 0) (calRecordOf false 0 1 []))
      (slot 355) (calHead false 0 3 49156 ++ [0x9DDF94B8] ++ List.replicate 12289 0x00320000))
      (slot 404) (calHead false 0 4 600624 ++ [0x10435AB7]))
      (slot 991) (calRecordOf false 0 5 shippedCoef)

end Sys2Proof.Machine
end

