-- ==== Sys2Proof/Machine/State.lean ====
section
/-! DEFINITION. The state of the AKN5016, its faults and refusals, and the state after reset. -/
namespace Sys2Proof.Machine

/-- The machine has no fault: error conditions are reply statuses (R329), events (R345), marks (R24), counters and
resets (R387), all of them next states. The one constructor stands for a stop that no meaning raises. -/
inductive Fault where
  /-- Raised by no meaning. Safe. -/
  | none
deriving DecidableEq, Repr

/-- Why a command has no meaning here. -/
inductive Refusal where
  /-- Raised by an arm of exec whose command is not modelled. Safe: the machine stops instead of guessing. -/
  | notModelled (mnemonic : String)
deriving DecidableEq, Repr

/-- The state of the device. `pending` is the queue of commands that wait, first in, first out. `now` is the latest
instant any command carried. `dram` is the memory wafer: drawers from 0, common memory from 0xC000_0000 (R90, R17);
`dramBad` and `dramSoft` list the 64-bit words that hold an uncorrectable and a single-bit error, numbered as in `EccHit`
(R94); `desc` holds the descriptor files (R93, offsets / 4 of R346). `free` counts the free values taken. -/
structure State where
  pending : List Instr
  now : Instant
  free : Nat
  exposure : ExposureState
  expCnt : ExposureCounters
  readout : ReadoutState
  accum : AccumState
  accCnt : AccumCounters
  history : HistoryState
  dram : List (Nat × Byte)
  dramBad : List Nat
  dramSoft : List Nat
  desc : List (Nat × Word)
  front : FrontState
  cal : CalState
  back : BackState
  streams : List StreamState
  engines : EngineState
  bureau : BureauState
  events : EventLog
  ring : RingState
  west : TrunkPort
  east : TrunkPort
  clock : ClockState
  power : PowerState
  rst : ResetState
  nvm : NvmState
  twa : TwPortState
  twb : TwPortState
  timers : TimerState
  mcv : McvState
  tap : TapState
  pins : PinState
  out : Outputs
deriving DecidableEq, Repr

/-- The machine right after a power-on reset, every domain released and the Bureau taking commands. -/
def State.reset : State where
  pending := []
  now := ⟨0, 0⟩
  free := 0
  exposure := {}
  expCnt := {}
  readout := {}
  accum := { selfRefresh := true }
  accCnt := {}
  history := {}
  dram := []
  dramBad := []
  dramSoft := []
  desc := []
  front := {}
  cal := {}
  back := {}
  streams := List.replicate 9 {}
  engines := { vendorFw := some 0 }
  bureau := {}
  events := {}
  ring := {}
  west := {}
  east := {}
  clock := {}
  power := {}
  rst := {}
  nvm := { cells := shippedCells }
  twa := { mbErr := 3 }
  twb := { cfg := { role := true }, mbErr := 3 }
  timers := {}
  mcv := {}
  tap := {}
  pins := {}
  out := {}

end Sys2Proof.Machine
end

