-- ==== Sys2Proof/Machine/Ops.lean ====
section
/-! DEFINITION. The named operations every chapter shares: time, ring time, events (R341–R345), free values, DRAM with its
uncorrectable words (R94), partitions of common memory (R17), and the answer every meaning gives. -/
namespace Sys2Proof.Machine

/-- The answer of a meaning: a next state. -/
abbrev Result := Host.Outcome State Fault Refusal

/-! ### Time -/

/-- The later of two instants, component by component. -/
def laterInstant (a b : Instant) : Instant := ⟨max a.tclk b.tclk, max a.real b.real⟩

/-- The state once a command dated `t` has arrived: `now` never runs backwards (log entry 5). -/
def setNow (t : Instant) (s : State) : State := { s with now := laterInstant s.now t }

/-- Real nanoseconds since VDDAON rose. -/
def nowNs (s : State) : Nat := s.now.real / 16

/-- TCLK cycles that a real duration of `ns` takes at the trim in force, rounded up (R55: T_sub and the rungs scale by
1/(1 + δ), t_guard does not). -/
def cyclesOfNs (s : State) (ns : Nat) : Nat :=
  let rate : Nat := (1000000000 + s.clock.delta).toNat
  (ns * rate + 9999999999) / 10000000000

/-- t_guard = 200 µs (R11) in TCLK cycles. -/
def guardCycles (s : State) : Nat := cyclesOfNs s 200000

/-- The device's own ring-time count in 1/16 ns (R312), whatever its lock state: what it has still to slew enters at
200 ppm; in HOLDOVER it runs at its last disciplined rate and drifts (R315). -/
def ringCount (s : State) : Nat :=
  let dt := s.now.real - s.ring.time.asOf
  (((s.ring.time.count + dt : Nat) : Int) + clampI (-((dt / 5000 : Nat) : Int)) ((dt / 5000 : Nat) : Int) s.ring.time.slew +
    (if s.ring.time.lock = .holdover then s.ring.time.gain * dt / s.ring.time.span else 0) +
    s.ring.time.drift * dt / 16000000).toNat

/-- The device's own ring time in ns. -/
def ringNs (s : State) : Nat := ringCount s / 16

/-- The ring time in ns as the 64-bit stamp of events and frames. -/
def ringStamp (s : State) : BitVec 64 := BitVec.ofNat 64 (ringNs s)

/-! ### Events (R341–R345) -/

/-- Records logged and not acknowledged. -/
def unackedCount (e : EventLog) : Nat := (e.nextSeq - 1 - e.acked).toNat

/-- The log with one record added at its end; the log holds the 256 newest records (R341). -/
def addRecord (e : EventLog) (h : HeldEvent) : EventLog :=
  let r : EventRecord := ⟨e.nextSeq, h.code, h.arg0, h.arg1, h.arg2, h.stamp⟩
  let log := e.log ++ [r]
  { e with log := log.drop (log.length - 256), nextSeq := e.nextSeq + 1, rose := if unackedCount e = 0 then 3 else e.rose }

/-- Log an event: not while 255 records are unacknowledged, and preceded by EVENTS_LOST after a loss (R343). -/
def logHeld (e : EventLog) (h : HeldEvent) : EventLog :=
  if unackedCount e ≥ 255 then { e with lost := satInc e.lost, lostSince := satInc e.lostSince }
  else if e.lostSince ≠ 0 then
    let e1 := { addRecord e ⟨0x0002, 0, e.lostSince, 0, h.stamp⟩ with lostSince := 0 }
    if unackedCount e1 ≥ 255 then { e1 with lost := satInc e1.lost, lostSince := 1 } else addRecord e1 h
  else addRecord e h

/-- REFCLK0 in kHz: REF0_KHZ, and before the measurement of R360 what the clock monitor last counted (log entry 213). -/
def ref0Rate (s : State) : Nat :=
  let m := s.clock.ref0MeasHz.toNat / 1000
  if s.clock.measured || m = 0 then s.clock.cfg.ref0Khz.toNat else m

/-- Before the first root lock of a start-up the tree moves to REFCLK0, the ROOT PLL bypassed, once REFCLK0 has been present for
20 µs: the instant of that move (R360, R393). -/
def ref0From (s : State) : Option Nat :=
  if s.clock.limp && !s.clock.everLocked && s.clock.ref0Ok && decide (0 < ref0Rate s) then s.clock.ref0Since.map (· + 320000)
  else none

/-- Every domain runs on REFCLK0 (R360). -/
def onRef0 (s : State) : Bool := (ref0From s).any fun f => decide (f ≤ s.now.real)

/-- The clock tree runs on the limp clock. It has no source of its own before REFCLK0 has been looked for (log entry 213). -/
def treeLimp (s : State) : Bool := s.clock.limp && !onRef0 s && (s.clock.everLocked || s.clock.root.phase != .off)

/-- Whether the log cannot be written: it lies in common memory, whose clock DRCLK stands still on the limp clock and which is in
self-refresh from 1 µs after that (R349, R357); in Doze and Stow events are logged in retained SRAM at once (R384). -/
def logBlocked (s : State) : Bool :=
  (s.accum.selfRefresh || (s.clock.limp && !onRef0 s)) && s.power.phase != .doze && s.power.phase != .stow

/-- Raise an event: its record takes the ring time of this instant; records raised while the memory wafer is in
self-refresh are held and logged when it leaves it (R357). -/
def raise (code a0 a1 a2 : Nat) (s : State) : State :=
  let h : HeldEvent := ⟨BitVec.ofNat 16 code, BitVec.ofNat 16 a0, wordOf a1, wordOf a2, ringStamp s⟩
  if logBlocked s then { s with events := { s.events with held := s.events.held ++ [h] } }
  else { s with events := logHeld s.events h }

/-- Log the events that were held (R357). -/
def releaseHeld (s : State) : State :=
  { s with events := { (s.events.held.foldl logHeld s.events) with held := [] } }

/-- ALERT_N is asserted: some record logged is later than EV_ACKED (R342). -/
def alertAsserted (s : State) : Bool := decide (s.events.nextSeq - 1 ≠ s.events.acked)

/-! ### Free values -/

/-- The next free value: a value the spec leaves open, and the state with the counter advanced (log entry 4). -/
def takeFree (s : State) : Word × State := (Config.freeWord s.free, { s with free := s.free + 1 })

/-! ### The memory wafer (R17, R90, R94) -/

/-- The lowest address of common memory: 12,288 drawers of 256 KiB lie below it. -/
def commonBase : Nat := 0xC0000000

/-- The lowest address of a tile's drawer. -/
def drawerBase (t : Nat) : Nat := t * 0x40000

/-- One mebibyte. -/
def mib : Nat := 0x100000

/-- The partitions of common memory, in the order of R17 (log entry 12). -/
inductive Partition where
  | streams
  | ingress
  | thumb
  | spill
  | kernels
  | sampler
  | bureauArea
  | dump
  | freePool
deriving DecidableEq, Repr

/-- Offset of a partition in common memory. -/
def partOffset : Partition → Nat
  | .streams => 0
  | .ingress => 256 * mib
  | .thumb => 512 * mib
  | .spill => 576 * mib
  | .kernels => 832 * mib
  | .sampler => 848 * mib
  | .bureauArea => 852 * mib
  | .dump => 868 * mib
  | .freePool => 884 * mib

/-- Address of a partition in the memory wafer. -/
def partBase (p : Partition) : Nat := commonBase + partOffset p

/-- The partition a common-memory offset lies in. -/
def partOf (off : Nat) : Partition :=
  if off < partOffset .ingress then .streams
  else if off < partOffset .thumb then .ingress
  else if off < partOffset .spill then .thumb
  else if off < partOffset .kernels then .spill
  else if off < partOffset .sampler then .kernels
  else if off < partOffset .bureauArea then .sampler
  else if off < partOffset .dump then .bureauArea
  else if off < partOffset .freePool then .dump
  else .freePool

/-- Write bytes to the memory wafer: a write replaces the SECDED code, so the words it touches hold no error (R94). -/
def dramWrite (s : State) (a : Nat) (bs : List Byte) : State :=
  if bs.isEmpty then s else
    { s with dram := memSetBytes s.dram a bs,
             dramBad := s.dramBad.filter (fun w => w < a / 8 || (a + bs.length - 1) / 8 < w)
             dramSoft := s.dramSoft.filter (fun w => w < a / 8 || (a + bs.length - 1) / 8 < w) }

/-- Write 32-bit words to the memory wafer. -/
def dramWriteWords (s : State) (a : Nat) (ws : List Word) : State := dramWrite s a (wordsBytes ws)

/-- Some word that bytes a to a + n - 1 touch holds an uncorrectable error. -/
def dramHasBad (s : State) (a n : Nat) : Bool :=
  s.dramBad.any (fun w => decide (a / 8 ≤ w) && decide (w ≤ (a + n - 1) / 8))

/-- The first word of the descriptor files in the numbering of words that can hold an error (R94). -/
def descWord0 : Nat := 0x20000000

/-- The bits of a 64-bit word that a double-bit error turns over, from a free value: two data bits, or one data bit and a
check bit. -/
def errorBits (f : Word) : Nat :=
  let i := f.toNat % 64
  let j := f.toNat / 64 % 65
  if j = 64 ∨ j = i then 2 ^ i else 2 ^ i + 2 ^ j

/-- A word's stored bits turned over: a word of the memory wafer, or two descriptors. -/
def turnBits (w bits : Nat) (s : State) : State :=
  if w < descWord0 then { s with dram := memSetNat s.dram (8 * w) 8 (memNat s.dram (8 * w) 8 ^^^ bits) }
  else
    let k := 2 * (w - descWord0)
    { s with desc := smUpd 0 (smUpd 0 s.desc k (· ^^^ wordOf bits)) (k + 1) (· ^^^ wordOf (bits / 2 ^ 32)) }

/-- A word of a stream buffer, an ingress frame or the free pool: what lies there is kept in the streams' entries and in the
ingress frames, and an error in it is handled as it is found (log entry 164). -/
def passingWord (w : Nat) : Bool :=
  decide (commonBase ≤ 8 * w) && decide (w < descWord0) &&
  (partOf (8 * w - commonBase) == .streams || partOf (8 * w - commonBase) == .ingress || partOf (8 * w - commonBase) == .freePool)

/-- A word holds an uncorrectable error from now on: which of its bits are wrong is free (R94, R97). -/
def markDouble (w : Nat) (s : State) : State :=
  if s.dramBad.contains w || passingWord w then s
  else
    let (f, s) := takeFree s
    let s := turnBits w (errorBits f) s
    { s with dramBad := insNat s.dramBad w, dramSoft := remNat s.dramSoft w }

/-- The errors that words hold at an access; a word already uncorrectable stays so (R94). -/
def markEcc (hits : List EccHit) (s : State) : State :=
  hits.foldl (fun s h =>
    if h.double then markDouble h.word s
    else if s.dramBad.contains h.word then s
    else { s with dramSoft := insNat s.dramSoft h.word }) s

/-- The uncorrectable words that an access of words lo to hi meets. -/
def badBetween (ecc : List EccHit) (lo hi : Nat) (s : State) : List Nat :=
  let here (w : Nat) : Bool := decide (lo ≤ w) && decide (w ≤ hi)
  (s.dramBad.filter here ++ ((ecc.filter (·.double)).map (·.word)).filter fun w => here w && passingWord w).eraseDups

/-- Words lo to hi are read: every single-bit error among them is corrected, written back and counted (R94). -/
def correctWords (lo hi : Nat) (s : State) : State :=
  let here (w : Nat) : Bool := decide (lo ≤ w) && decide (w ≤ hi)
  { s with
    dramSoft := s.dramSoft.filter (fun w => !here w)
    accCnt := { s.accCnt with eccCe := satAdd s.accCnt.eccCe (s.dramSoft.filter here).length } }

/-- Bytes a to a + n - 1 of the memory wafer are read. -/
def correctRead (a n : Nat) (s : State) : State := if n = 0 then s else correctWords (a / 8) ((a + n - 1) / 8) s

/-- Entry i of the descriptor files is read. -/
def correctEntry (i : Nat) (s : State) : State := correctWords (descWord0 + i / 2) (descWord0 + i / 2) s

/-- Write one descriptor: entry 22 t + k of the descriptor files (R93, R346). -/
def setDesc (i : Nat) (d : Word) (s : State) : State :=
  { s with
    desc := smSet 0 s.desc i d
    dramBad := remNat s.dramBad (descWord0 + i / 2)
    dramSoft := remNat s.dramSoft (descWord0 + i / 2) }


/-- Bits [20m + 19 : 20m] of the 320-bit group that starts at `base` (R90: 16 pixels in five 64-bit words). -/
def px20At (m : Mem) (plane p : Nat) : Nat :=
  let base := plane + 40 * (p / 16)
  memNat m base 40 / 2 ^ (20 * (p % 16)) % 2 ^ 20

/-- The bytes of a list of 20-bit values packed as R90 packs them, the last group padded with zeros. -/
def pack20 (vs : List Nat) : List Byte :=
  let groups := (vs.length + 15) / 16
  (List.range groups).flatMap fun g =>
    let grp := (vs.drop (16 * g)).take 16
    natBytes 40 (grp.foldr (fun v a => v % 2 ^ 20 + 2 ^ 20 * a) 0)

/-- The 16 values of a 320-bit group. -/
def unpackGroup : Nat → Nat → List Nat
  | 0, _ => []
  | n + 1, v => v % 2 ^ 20 :: unpackGroup n (v / 2 ^ 20)

/-- The values of `n` packed groups. -/
def unpack20 : Nat → List Byte → List Nat
  | 0, _ => []
  | n + 1, bs => unpackGroup 16 (bytesNat (bs.take 40)) ++ unpack20 n (bs.drop 40)

/-- The 4,096 values of a 20-bit plane. -/
def plane20 (m : Mem) (base : Nat) : Array Nat := (unpack20 256 (memBytes m base 10240)).toArray

/-- The 64-bit word of the memory wafer in which bit 0 of pixel p of a 20-bit plane lies, and that of its last bit. -/
def px20Words (plane p : Nat) : Nat × Nat :=
  let base := plane + 40 * (p / 16)
  let lo := 20 * (p % 16)
  ((base + lo / 64 * 8) / 8, (base + (lo + 19) / 64 * 8) / 8)

/-- A pixel of a 20-bit plane touches an uncorrectable word. -/
def px20Bad (bad : List Nat) (plane p : Nat) : Bool :=
  let w := px20Words plane p
  bad.contains w.1 || bad.contains w.2

/-- Write one pixel of a 20-bit plane. -/
def setPx20 (s : State) (plane p v : Nat) : State :=
  let base := plane + 40 * (p / 16)
  let old := memNat s.dram base 40
  let sh := 2 ^ (20 * (p % 16))
  let cur := old / sh % 2 ^ 20
  dramWrite s base (natBytes 40 (old - cur * sh + (v % 2 ^ 20) * sh))

/-- The trims that a RATIO body holds, an unlisted converter's being 0 (R154). -/
def ratioTrims (body : List Word) : List (Nat × BitVec 6) :=
  let bit (i : Nat) : Nat := b2n (bitAt (body.getD (i / 32) 0) (i % 32))
  ((List.range 800832).filterMap fun i =>
    let v := (List.range 6).foldl (fun a b => a + bit (6 * i + b) * 2 ^ b) 0
    if v = 0 then none else some (i, BitVec.ofNat 6 v))

/-- The chained pins serve the test port and not their functions (R495; log entry 98). -/
def pinsChained (s : State) : Bool := s.tap.ir == .extest || s.tap.ir == .clamp || s.tap.ir == .highz

/-! ### What runs (R13, R96, R357) -/

/-- A block of a reset domain whose clock comes from the root runs: the root outputs are not gated, and the domain is
released (R13, R357). -/
def blockRuns (d : Domain) (s : State) : Bool := !s.clock.limp && !s.rst.asserted.contains d

/-- The pipeline runs, and the memory wafer serves it. -/
def pipeRuns (s : State) : Bool := blockRuns .pipeline s && blockRuns .memory s && !s.accum.selfRefresh

/-- The guard order is in use now (R137). -/
def guardNow (s : State) : Bool :=
  !(s.cal.read && s.cal.validDefect && s.cal.validShading && s.cal.validDark) || s.bureau.pattern.enable ||
  s.front.cfg.guardForce

/-! ### Ports and requesters -/

/-- The trunk port's state. -/
def getPort (s : State) : Port → TrunkPort
  | .west => s.west
  | .east => s.east

/-- The state with a trunk port changed. -/
def updPort (s : State) (p : Port) (f : TrunkPort → TrunkPort) : State :=
  match p with
  | .west => { s with west := f s.west }
  | .east => { s with east := f s.east }

/-- A two-wire port's state. -/
def getTw (s : State) : TwPort → TwPortState
  | .a => s.twa
  | .b => s.twb

/-- The state with a two-wire port changed. -/
def updTw (s : State) (p : TwPort) (f : TwPortState → TwPortState) : State :=
  match p with
  | .a => { s with twa := f s.twa }
  | .b => { s with twb := f s.twb }

/-- The number of a trunk port in PORT fields and events: 0 EAST, 1 WEST (R283). -/
def portNo : Port → Nat
  | .east => 0
  | .west => 1

/-! ### Work answered PENDING (R331) -/

/-- Work of a requester goes on after its PENDING reply. -/
def startWork (req : Requester) (k : WorkKind) (s : State) : State :=
  { s with bureau := { s.bureau with unfinished := s.bureau.unfinished ++ [(req, k)] } }

/-- Work has completed. -/
def endWork (k : WorkKind) (s : State) : State :=
  { s with bureau := { s.bureau with unfinished := s.bureau.unfinished.filter fun u => u.2 != k } }

/-! ### Status codes (R329) -/

/-- The status of a reply. -/
inductive Status where
  | ok
  | pending
  | badOpcode
  | badLength
  | badParam
  | badCrc
  | versionUnsupported
  | wrongState
  | busy
  | late
  | lateRefused
  | notPermitted
  | budgetExceeded
  | bandwidthRefused
  | nvmError
  | signatureFail
  | internalFault
deriving DecidableEq, Repr

/-- The code of a status. -/
def statusCode : Status → Nat
  | .ok => 0x0000
  | .pending => 0x0001
  | .badOpcode => 0x0010
  | .badLength => 0x0011
  | .badParam => 0x0012
  | .badCrc => 0x0013
  | .versionUnsupported => 0x0014
  | .wrongState => 0x0020
  | .busy => 0x0021
  | .late => 0x0022
  | .lateRefused => 0x0022
  | .notPermitted => 0x0030
  | .budgetExceeded => 0x0031
  | .bandwidthRefused => 0x0032
  | .nvmError => 0x0040
  | .signatureFail => 0x0041
  | .internalFault => 0x00F0

/-- DONE: 1 for OK, PENDING and a LATE that took effect (R329). -/
def statusDone : Status → Bool
  | .ok => true
  | .pending => true
  | .late => true
  | _ => false

/-- A command as the Bureau executes it: who sent it, the trunk port it came by, its header fields and its parameter
words. -/
structure Cmd where
  req : Requester
  via : Option Port := none
  tag : BitVec 16
  ver : Nat
  opcode : Nat
  sel : Nat
  words : List Word
deriving DecidableEq, Repr

/-- What executing a command gives: the state after it, and its reply; or, with `held`, no reply yet (R156, R200, R304,
R442: replies that wait for something). A refused command changes nothing (R329) unless `keeps` is set (a failed COMMIT of
KERNEL_LOAD, R252). `ver`: the CMDVER of the reply where it is not the command's (R337). -/
structure CmdResult where
  state : State
  status : Status
  detail : Nat := 0xFF
  results : List Word := []
  held : Bool := false
  keeps : Bool := false
  ver : Option Nat := none

/-- A command that took effect. -/
def cmdOk (s : State) (results : List Word := []) : CmdResult := { state := s, status := .ok, results := results }

/-- A command that is refused: nothing changes (R329). -/
def cmdRefuse (s : State) (st : Status) (detail : Nat := 0xFF) : CmdResult :=
  { state := s, status := st, detail := detail }

/-- A command refused with BAD_PARAM; DETAIL names the first offending parameter word (R324). -/
def cmdBad (s : State) (word : Nat := 0xFF) : CmdResult := cmdRefuse s .badParam (min word 0xFE)

/-- A command refused with BAD_PARAM where no single word offends. -/
def cmdBadAny (s : State) : CmdResult := cmdRefuse s .badParam 0xFF

/-- A command accepted with PENDING. -/
def cmdPending (s : State) (results : List Word := []) : CmdResult :=
  { state := s, status := .pending, results := results }

/-- A command whose reply waits. -/
def cmdHeld (s : State) : CmdResult := { state := s, status := .ok, held := true }

/-- Bits of `w` outside `mask` are reserved and must be 0 (R8). -/
def reservedOk (w : Word) (mask : Nat) : Bool := w.toNat % 2 ^ 32 &&& (0xFFFFFFFF - mask) == 0

/-- The first parameter word with a non-zero reserved bit; `masks` gives each word's defined bits. -/
def firstReserved (ws : List Word) (masks : List Nat) : Option Nat :=
  (List.range (min ws.length masks.length)).find? fun i => !(reservedOk (ws.getD i 0) (masks.getD i 0))

/-- A command whose reserved bits are judged with the rest of its parameters: a reserved bit that is not 0 is BAD_PARAM, and DETAIL
names the first offending word, be it for a reserved bit or for a value that the rest refuses (R324). -/
def judged (ws : List Word) (masks : List Nat) (s : State) (rest : CmdResult) : CmdResult :=
  match firstReserved ws masks with
  | none => rest
  | some i => cmdBad s (if rest.status == .badParam then min i rest.detail else i)

/-- Parameter words overlaid on the words of the values in force: with CMDVER 1, trailing words not sent keep the value
in force (R327). -/
def overlay (sent inForce : List Word) : List Word := sent ++ inForce.drop sent.length

end Sys2Proof.Machine
end

