-- ==== Sys2Proof/Machine/Grid.lean ====
section
/-! DEFINITION. What a capture configuration and the class F exposure values say about a frame: rungs, durations, readout
time, the tile window, the accumulation schedule (R26–R31, R37–R45, R55–R60, R64, R83, R89, R99, R100). -/
namespace Sys2Proof.Machine

/-! ### Configuration -/

/-- MODE SINGLE (R64). -/
def isSingle (c : CaptureCfg) : Bool := c.exposure.mode == 3
/-- MODE ZONED (R64). -/
def isZoned (c : CaptureCfg) : Bool := c.exposure.mode == 1
/-- MODE BRACKETED (R64). -/
def isBracketed (c : CaptureCfg) : Bool := c.exposure.mode == 2
/-- MODE ACCUMULATED (R64). -/
def isAccumulated (c : CaptureCfg) : Bool := c.exposure.mode == 0

/-- N, the sub-frames of a frame (R67). -/
def subFrames (c : CaptureCfg) : Nat := 2 ^ c.exposure.nLog2.toNat

/-- Samples pass through the raw slots: MAA GLOBAL or TILE, and BRACKETED, never in SINGLE mode (R15, R90). -/
def usesRawSlots (c : CaptureCfg) : Bool := !isSingle c && (c.accum.maa != 0 || isBracketed c)

/-- Motion vectors are in use (R66, R107). -/
def usesMotion (c : CaptureCfg) : Bool := !isSingle c && c.accum.maa != 0

/-- Basted versions are configured; SINGLE mode ignores BASTE (R66, R114). -/
def bastes (c : CaptureCfg) : Bool := c.accum.baste && !isSingle c

/-- The pre-reference plane is in use (R91). -/
def usesPreRef (c : CaptureCfg) : Bool :=
  !isSingle c && !c.accum.baste && c.accum.maa != 0 && decide (2 ≤ subFrames c)

/-- The reference sub-frame j_ref (R108). -/
def refSub (c : CaptureCfg) : Nat := if c.accum.baste then 0 else subFrames c / 2

/-- Pattern length P of BRACKETED mode (R67). -/
def brkLen (c : CaptureCfg) : Nat := c.exposure.brkLen.toNat + 2

/-- Pattern entry i of BRACKETED mode. -/
def brkRung (c : CaptureCfg) (i : Nat) : Nat := fldN c.exposure.brkRung (3 * i) 3

/-- The distinct rungs of the pattern, longest first: rank r is element r (R103). -/
def brkRanks (c : CaptureCfg) : List Nat :=
  (List.range 8).filter fun k => (List.range (brkLen c)).any fun i => brkRung c i == k

/-- Charge binning: AKN5016-ML with BIN = 1 (R39). -/
def chargeBin (ml : Bool) (c : CaptureCfg) : Bool := ml && c.readout.bin
/-- Colour binning in the chests: AKN5016-CL with BIN = 1 (R40). -/
def colourBin (ml : Bool) (c : CaptureCfg) : Bool := !ml && c.readout.bin

/-- Slots of one readout: 64, or 16 under charge binning (R37). -/
def readSlots (ml : Bool) (c : CaptureCfg) : Nat := if chargeBin ml c then 16 else 64

/-- t_slot in TCLK cycles; T_SLOT counts 0.1 µs (R44). -/
def slotCycles (c : CaptureCfg) : Nat := 10 * c.readout.tSlot.toNat

/-- T_ro in TCLK cycles: slots × t_slot + 36.2 µs (R37). -/
def tRo (ml : Bool) (c : CaptureCfg) : Nat := readSlots ml c * slotCycles c + 3620

/-- When slot `s` of a tile group begins, after SB: 18.0 µs + 1.2 µs × g + s × t_slot (R37). -/
def slotStart (c : CaptureCfg) (g s : Nat) : Nat := 1800 + 120 * g + s * slotCycles c

/-- Pixels along the side of a tile: 64, or 32 binned. -/
def tileSide (c : CaptureCfg) : Nat := if c.readout.bin then 32 else 64

/-! ### Rungs (R58) -/

/-- Exponent e_k; e_0 is 0. -/
def rungExp (p : FrameParams) (k : Nat) : Nat := if k = 0 then 0 else fldN p.exps (4 * (k - 1)) 4

/-- D_k = D_0 × 2^(-e), to the nearest 10 ns, halves up. -/
def durAt (d0 e : Nat) : Nat := if e = 0 then d0 else (d0 + 2 ^ (e - 1)) / 2 ^ e

/-- D_k of rung k in 10 ns units. -/
def rungDur (p : FrameParams) (k : Nat) : Nat := durAt p.d0.toNat (rungExp p k)

/-- The exponents lie in 0–12 and do not decrease (R58). -/
def expsOk (p : FrameParams) : Bool :=
  (List.range 7).all fun i => decide (rungExp p i ≤ rungExp p (i + 1)) && decide (rungExp p (i + 1) ≤ 12)

/-- Rung number of tile t in the exposure map (R60: bits 3t to 3t + 2). -/
def mapRung (m : List (Nat × Word)) (t : Nat) : Nat :=
  let bit (i : Nat) : Nat := b2n (bitAt (smGet 0 m (i / 32)) (i % 32))
  bit (3 * t) + 2 * bit (3 * t + 1) + 4 * bit (3 * t + 2)

/-- The exposure map with tile t at a rung. -/
def setMapRung (m : List (Nat × Word)) (t r : Nat) : List (Nat × Word) :=
  let setBit (m : List (Nat × Word)) (i : Nat) (b : Bool) : List (Nat × Word) :=
    let w := smGet 0 m (i / 32)
    let k : Word := BitVec.ofNat 32 (2 ^ (i % 32))
    smSet 0 m (i / 32) (if b then w ||| k else w &&& ~~~ k)
  setBit (setBit (setBit m (3 * t) (r % 2 == 1)) (3 * t + 1) (r / 2 % 2 == 1)) (3 * t + 2) (r / 4 % 2 == 1)

/-- Rung of tile t in sub-frame j of a frame (R64). -/
def frameRung (f : FrameRec) (t j : Nat) : Nat :=
  if isZoned f.cfg then mapRung f.params.map t
  else if isBracketed f.cfg then brkRung f.cfg (j % brkLen f.cfg)
  else f.params.globalRung.toNat

/-- Rung of tile t for a whole frame: in BRACKETED mode the longest rung of the pattern, rank 0 (log entry 20). -/
def tileRung (f : FrameRec) (t : Nat) : Nat :=
  if isBracketed f.cfg then (brkRanks f.cfg).headD 0 else frameRung f t 0

/-- Exponent of the rung of tile t in sub-frame j. -/
def frameExp (f : FrameRec) (t j : Nat) : Nat := rungExp f.params (frameRung f t j)

/-! ### Flicker (R83, R84) -/

/-- T_flk of a source in sixteenths of 10 ns: 10 ms, 8,333.33 µs, or the measured value. -/
def flickerOf (src : Nat) (measured16 : Nat) : Nat :=
  if src = 0 then 16000000 else if src = 1 then 833333 * 16 else measured16

/-- T_sub under BALANCED scheduling: FLK_M × T_flk / N, rounded to 10 ns. -/
def balancedTSub (c : CaptureCfg) (flk16 : Nat) : Nat :=
  (2 * c.exposure.flkM.toNat * flk16 + 16 * subFrames c) / (32 * subFrames c)

/-- The shortest T_sub the flicker source allows: MEASURED at 65 Hz mains (R83). -/
def shortestBalanced (c : CaptureCfg) : Nat :=
  if c.exposure.flkSrc == 2 then
    (2 * c.exposure.flkM.toNat * 100000000 + 130 * subFrames c) / (260 * subFrames c)
  else balancedTSub c (flickerOf c.exposure.flkSrc.toNat 0)

/-- The longest T_sub under BALANCED scheduling: MEASURED takes 11,111.11 µs (R77). -/
def longestBalanced (c : CaptureCfg) : Nat :=
  balancedTSub c (flickerOf c.exposure.flkSrc.toNat (1111111 * 16))

/-- The T_sub a set of values is validated with: its own, or the shortest of the source under BALANCED (R83). -/
def checkTSub (c : CaptureCfg) (p : FrameParams) : Nat :=
  if c.exposure.flkBal then shortestBalanced c else p.tSub.toNat

/-- The values satisfy R56 and R58: T_ro ≤ T_sub ≤ 1 s, 2 µs ≤ D_k for every rung, D_0 ≤ T_sub - 4 µs, exponents
ordered. -/
def paramsValid (ml : Bool) (c : CaptureCfg) (p : FrameParams) : Bool :=
  let ts := checkTSub c p
  decide (tRo ml c ≤ ts) && decide (ts ≤ 100000000) && expsOk p &&
  (List.range 8).all (fun k => decide (200 ≤ rungDur p k)) && decide (p.d0.toNat + 400 ≤ ts)

/-! ### The tile window (R41) -/

/-- Bit of tile t in the enable mask; an unlisted word is all ones. -/
def maskBit (m : List (Nat × Word)) (t : Nat) : Bool := bitAt (smGet 0xFFFFFFFF m (t / 32)) (t % 32)

/-- Tile column and row of tile t (R26). -/
def tileX (t : Nat) : Nat := t % 128
/-- Tile row of tile t. -/
def tileY (t : Nat) : Nat := t / 128

/-- Tile t is enabled: inside the rectangle and, with WIN_MASK, set in the mask (R41). -/
def tileEnabled (c : CaptureCfg) (mask : List (Nat × Word)) (t : Nat) : Bool :=
  let r := c.readout
  decide (r.tx0.toNat ≤ tileX t) && decide (tileX t ≤ r.tx1.toNat) && decide (r.ty0.toNat ≤ tileY t) &&
  decide (tileY t ≤ r.ty1.toNat) && (!r.winMask || maskBit mask t)

/-- The enabled tiles in index order. -/
def enabledTiles (c : CaptureCfg) (mask : List (Nat × Word)) : List Nat :=
  (List.range 12288).filter (tileEnabled c mask)

/-- Tile t of a frame is enabled. -/
def frameTile (f : FrameRec) (t : Nat) : Bool := tileEnabled f.cfg f.mask t

/-- Width of a LOCAL frame in pixels: the enabled rectangle (R127). -/
def localWidth (c : CaptureCfg) : Nat := (c.readout.tx1.toNat + 1 - c.readout.tx0.toNat) * tileSide c
/-- Height of a LOCAL frame in lines. -/
def localHeight (c : CaptureCfg) : Nat := (c.readout.ty1.toNat + 1 - c.readout.ty0.toNat) * tileSide c

/-- Index of the chest that serves tile t (R89). -/
def chestOf (t : Nat) : Nat := 32 * (tileY t / 4) + tileX t / 4

/-- The chest or controller that holds a byte address, as MEM_UE names it: which controller serves a word of common memory
is the implementation's (log entry 35). -/
def holderOf (a : Nat) : Nat :=
  if a < commonBase then chestOf (a / 0x40000) else (Config.commonController ((a - commonBase) / 8)).val

/-! ### Converters and generators (R27, R37, R45) -/

/-- Number of a tile in converter indices: active tiles first, OB tile o as 12,288 + o. -/
def convTileNo : ConvTile → Nat
  | .active t => t.val
  | .ob o => 12288 + o.val

/-- Index of a converter: 64 × tile + block (R154: OB converters follow the active ones). -/
def convIndex (t : ConvTile) (b : Nat) : Nat := 64 * convTileNo t + b

/-- Physical tile column (R26): active column + 1; OB tile o ≤ 128 lies in column o, the others in column 0. -/
def physColumn : ConvTile → Nat
  | .active t => tileX t.val + 1
  | .ob o => if o.val ≤ 128 then o.val else 0

/-- Tile group g = c mod 8 (R37). -/
def tileGroup (t : ConvTile) : Nat := physColumn t % 8

/-- Ramp generator of a tile (R45). -/
def generatorOf : ConvTile → Nat
  | .active t => chestOf t.val
  | .ob o => if o.val ≤ 128 then 768 + o.val / 4 else 801 + (o.val - 129) / 4

/-- Pixel of the tile a slot of a block reads (R27, R39): column and row within the tile. -/
def slotPixel (binned : Bool) (block slot : Nat) : Nat × Nat :=
  if binned then (4 * (block % 8) + slot % 4, 4 * (block / 8) + slot / 4)
  else (8 * (block % 8) + slot % 8, 8 * (block / 8) + slot / 8)

/-! ### The frame's instants (R55) -/

/-- T_sub of a frame in TCLK cycles. -/
def frameTSub (f : FrameRec) : Nat := f.params.tSub.toNat

/-- SB(n, j) = FB(n) + D_0 + j × T_sub. -/
def sbAt (f : FrameRec) (j : Nat) : Nat := f.fb + f.params.d0.toNat + j * frameTSub f

/-- Where the sub-exposure of rung k in sub-frame j begins and ends (R59). -/
def exposureSpan (f : FrameRec) (k j : Nat) : Nat × Nat :=
  let sb := sbAt f j
  let dk := rungDur f.params k
  let d0 := f.params.d0.toNat
  if f.cfg.exposure.centre then (sb - (d0 + dk) / 2, sb - (d0 - dk) / 2) else (sb - dk, sb)

/-! ### The accumulation schedule (R15, R99, R100) -/

/-- B of R15 times N: bits per accumulated sample × N. -/
def trafficBits (c : CaptureCfg) : Nat :=
  let n := subFrames c
  if isSingle c then 20 * n
  else (if usesRawSlots c then 40 * n else 0) + 64 * (n - 1) + 20

/-- The largest number of samples one chest writes per sub-frame (R100). -/
def busiestChest (f : FrameRec) : Nat :=
  let per := tileSide f.cfg * tileSide f.cfg
  let counts := (List.range 768).map fun c =>
    ((List.range 16).filter fun i =>
      let tx := 4 * (c % 32) + i % 4
      let ty := 4 * (c / 32) + i / 4
      frameTile f (128 * ty + tx)).length
  per * counts.foldl max 0

/-- T_acc = s_c × B / 12 Gbit/s, rounded up to 10 ns: 120 bits per 10 ns (R100). -/
def tAcc (f : FrameRec) : Nat :=
  let n := subFrames f.cfg
  (busiestChest f * trafficBits f.cfg + 120 * n - 1) / (120 * n)

end Sys2Proof.Machine
end

