-- ==== Sys2Proof/Machine/Account.lean ====
section
/-! DEFINITION. The power account: requests, admission, grants (R244, R256, R366–R369). -/
namespace Sys2Proof.Machine

/-! ### Kernel images (R250) -/

/-- Word i of a kernel's image. -/
def imgWord (k : Kernel) (i : Nat) : Word := smGet 0 k.image i
/-- SLOT: 0 FREE, 1 NR, 2 CHANNEL, 3 FRONT_TAP, 4 STATS_TAP. -/
def imgSlot (k : Kernel) : Nat := fldN (imgWord k 2) 24 8
/-- MIN_BOBBINS. -/
def imgMinBobbins (k : Kernel) : Nat := fldN (imgWord k 2) 8 8
/-- MAX_BOBBINS. -/
def imgMaxBobbins (k : Kernel) : Nat := fldN (imgWord k 2) 0 8
/-- PILLOW_KIB. -/
def imgPillowKib (k : Kernel) : Nat := fldN (imgWord k 3) 16 16
/-- SPILL_MIB. -/
def imgSpillMib (k : Kernel) : Nat := fldN (imgWord k 3) 0 16
/-- POWER_MW. -/
def imgPower (k : Kernel) : Nat := fldN (imgWord k 4) 16 16
/-- APRON. -/
def imgApron (k : Kernel) : Nat := fldN (imgWord k 4) 8 8
/-- ENTRY. -/
def imgEntry (k : Kernel) : Nat := fldN (imgWord k 5) 16 16
/-- TIMEOUT_MS. -/
def imgTimeoutMs (k : Kernel) : Nat := fldN (imgWord k 5) 0 16
/-- RESULT_OFFSET. -/
def imgResult (k : Kernel) : Word := imgWord k 6
/-- IMAGE_TAG. -/
def imgTag (k : Kernel) : Word := imgWord k 7

/-- The pillows a kernel's bobbins lie in. -/
def kernelPillows (k : Kernel) : List Nat := (k.bobbins.map (· / 16)).eraseDups

/-- A kernel holds whole pillows. -/
def wholePillows (k : Kernel) : Bool :=
  (kernelPillows k).all fun p => (k.bobbins.filter (· / 16 == p)).length == 16

/-! ### Vendor kernels (R244, R257) -/

/-- Vendor kernel v (0 motion, 1 noise reduction, 2 local tone mapping, 3 auto-exposure) is left FAULTED. -/
def vendorFaulted (s : State) (v : Nat) : Bool := (s.engines.vendor.getD v {}).phase == .faulted

/-- The version of vendor kernel v that is loaded (R248, R255). -/
def vendorVersion (s : State) (v : Nat) : Word :=
  match s.engines.vendorFw with
  | some fw => Config.vendorVersion v fw
  | none => 0

/-- A vendor kernel runs again. -/
def vendorRun (count : Nat) (k : Kernel) : Kernel := { k with phase := .running, restarts := count, final := false }

/-- At a frame boundary a faulted vendor kernel is restarted, at most three times in a capture (R257). -/
def vendorRestart (s : State) : State :=
  { s with engines := { s.engines with vendor := s.engines.vendor.map fun k =>
      if k.phase == .faulted && k.restarts < 3 then vendorRun (k.restarts + 1) k else k } }

/-- At CAPTURE_START every vendor kernel runs again, its restarts counted from 0 (R257). -/
def vendorFresh (s : State) : State :=
  { s with engines := { s.engines with vendor := s.engines.vendor.map fun k =>
      if k.phase == .faulted then vendorRun 0 k else { k with restarts := 0 } } }


/-- A vendor kernel holds pillow p under a configuration. -/
def vendorHolds (c : CaptureCfg) (pc : PipeCfg) (p : Nat) : Bool :=
  if p ≤ 1 then usesRawSlots c
  else if p = 2 then pc.nrMode == 1 || pc.nrMode == 2
  else if p = 3 then pc.nrMode == 2
  else if p = 4 then pc.ltmEn || c.exposure.expSrc
  else false

/-- The vendor kernel on pillow p: 0 motion, 1 noise reduction, 2 local tone mapping and auto-exposure. -/
def vendorOf (p : Nat) : Nat := if p ≤ 1 then 0 else if p ≤ 3 then 1 else 2

/-! ### Stopped pipeline (R151) -/

/-- Capture counts as stopped (R75). -/
def captureStopped (s : State) : Bool := s.exposure.phase == .stopped

/-- The input context with a number. -/
def inputCtx (s : State) (i : Nat) : InputCtx := if i = 0 then s.front.ctx0 else s.front.ctx1

/-- The pipeline counts as stopped: capture stopped, no context enabled, the front between versions (R151). -/
def pipelineStopped (s : State) : Bool :=
  captureStopped s && !s.front.ctx0.enable && !s.front.ctx1.enable && s.front.versions.isEmpty

/-! ### Loads (R367) -/

/-- f_sub uses the T_sub in force, or the shortest the source allows under BALANCED. -/
def accountTSub (c : CaptureCfg) (p : FrameParams) : Nat :=
  if c.exposure.flkBal then shortestBalanced c else p.tSub.toNat

/-- ceil of a non-negative rational. -/
def ceilNat (q : Rat) : Nat := q.ceil.toNat

/-- Frames per second of a context. -/
def ctxRate (s : State) (i : Nat) (tSub : Nat) : Rat :=
  if (inputCtx s i).kind == 1 then 100000000 / ((subFrames s.exposure.cfg * tSub : Nat) : Rat) else 60

/-- Pixels of a context's frame. -/
def ctxPixels (s : State) (i : Nat) : Nat :=
  let x := inputCtx s i
  if x.kind == 1 then localWidth s.exposure.cfg * localHeight s.exposure.cfg
  else if x.kind == 0 then 0 else x.width.toNat * x.height.toNat

/-- Front load: P_in × frame rate over the enabled contexts, basted versions counted. -/
def frontLoad (s : State) (tSub : Nat) : Rat :=
  let one (i : Nat) : Rat :=
    if (inputCtx s i).enable then
      (ctxPixels s i : Rat) * ctxRate s i tSub *
        (if (inputCtx s i).kind == 1 && bastes s.exposure.cfg then 2 else 1)
    else 0
  one 0 + one 1

/-- The configuration of stream OSs. -/
def streamCfg (s : State) (i : Nat) : StreamCfg := s.back.cfgs.getD i {}

/-- The state of stream i; 8 is STATS. -/
def stream (s : State) (i : Nat) : StreamState := s.streams.getD i {}

/-- The stream is enabled: STATS by STATS_STREAM_EN. -/
def streamOn (s : State) (i : Nat) : Bool := if i = 8 then s.back.statsEn else (stream s i).enabled

/-- Channel i runs: its stream is enabled, or it is the inset source of an enabled stream (R181). -/
def channelRuns (s : State) (i : Nat) : Bool :=
  (stream s i).enabled || (List.range 8).any fun j =>
    (stream s j).enabled && (streamCfg s j).insetEn && (streamCfg s j).insetSrc.toNat == i

/-- Back output in pixels per second (R367). -/
def backOutput (s : State) (tSub : Nat) : Rat :=
  (List.range 8).foldl (fun a i =>
    let c := streamCfg s i
    if channelRuns s i && c.format != 0 then
      a + (c.outW.toNat * c.outH.toNat : Nat) * ctxRate s (b2n c.source) tSub / (max 1 c.every.toNat : Nat)
    else a) 0

/-! ### Requests in mW (R367) -/

/-- The accounted rails, in the order DETAIL numbers them from 1 (R368). -/
inductive Rail where
  | vddc
  | vddcv
  | vddm
  | vdda
  | vddpix
  | vddl
deriving DecidableEq, Repr

/-- What the account is formed for: whether capture runs, whether the pipeline runs, the capture and pipeline settings,
the class F exposure values, and a kernel that a command would start. -/
structure AccountCase where
  capture : Bool
  pipeline : Bool
  cfg : CaptureCfg
  pipe : PipeCfg
  params : FrameParams
  starting : Option Nat := none

/-- The case of the state as it stands. -/
def caseNow (s : State) : AccountCase where
  capture := !captureStopped s
  pipeline := !pipelineStopped s
  cfg := s.exposure.cfg
  pipe := s.front.cfg
  params := s.exposure.inForce

/-- Requests of the converter array on VDDCV. -/
def convMw (s : State) (c : AccountCase) : Nat :=
  if !c.capture then 0 else
    let tiles := (enabledTiles c.cfg s.readout.enableMask).length
    let convs := if tiles = 0 then 0 else 64 * (tiles + 225)
    let ts := accountTSub c.cfg c.params
    (1074 * convs * readSlots s.rst.fuses.variantMl c.cfg + 100 * ts - 1) / (100 * ts)

/-- Requests of the chests on VDDM. -/
def chestMw (s : State) (c : AccountCase) : Nat :=
  (if s.power.phase == .doze || s.power.phase == .stow then 0 else 350) +
  (if !c.capture then 0 else
    let tiles := (enabledTiles c.cfg s.readout.enableMask).length
    ceilNat ((2750 * 62500 * tiles : Nat) / ((accountTSub c.cfg c.params * 12288 : Nat) : Rat)))

/-- Request of pillow p's vendor kernel. -/
def vendorMw (s : State) (c : AccountCase) (p : Nat) : Nat :=
  if !vendorHolds c.cfg c.pipe p then 0
  else
    let ts := accountTSub c.cfg c.params
    if p ≤ 1 then
      if c.capture then ceilNat (575 * min 1 ((62500 : Rat) / (ts : Rat))) else 0
    else if c.pipeline then ceilNat (575 * min 1 (frontLoad s ts / 3200000000)) else 0

/-- Request of the user kernels on pillow p that run, and of one being started. -/
def userMw (s : State) (c : AccountCase) (p : Nat) : Nat :=
  (List.range 16).foldl (fun a i =>
    let k := s.engines.user.getD i {}
    if (k.phase == .running || c.starting == some i) && (kernelPillows k).contains p then
      a + (if wholePillows k then imgPower k
           else (imgPower k * (k.bobbins.filter (· / 16 == p)).length + 15) / 16)
    else a) 0

/-- Request of pillow p. -/
def pillowMw (s : State) (c : AccountCase) (p : Nat) : Nat := vendorMw s c p + userMw s c p

/-- The four-lane power of a port at a rate, mW (R261): rate codes 0, 1, 2 are 10.3125, 12.5 and 25.78125 Gbaud. -/
def rateMw (r : BitVec 2) : Nat := if r == 0 then 380 else if r == 1 then 420 else 600

/-- Lanes of a width code (R285): 0 one, 1 two, 2 four. -/
def lanesOf (w : BitVec 2) : Nat := if w == 0 then 1 else if w == 1 then 2 else 4

/-- Request of a trunk port on VDDL. -/
def trunkMw (p : TrunkPort) : Nat :=
  if p.phase == .disabled || p.phase == .stowed then 0
  else if p.phase == .up then
    (rateMw p.rate * (lanesOf p.widthRx * (if p.rxDoze then 35 else 100) +
      lanesOf p.widthTx * (if p.txDoze then 35 else 100)) + 799) / 800
  else rateMw p.cfg.rateMax

/-- Request of the pipeline on VDDC. -/
def pipelineMw (s : State) (c : AccountCase) : Nat :=
  if !c.pipeline then 0
  else ceilNat (620 + 4 * backOutput s (accountTSub c.cfg c.params) / 10000000)

/-- The standing share on VDDC: 400 mW outside Doze and Stow, as R367 says; the 0.3 W of R18's typical column is not used (log
entry 180). -/
def standingMw (s : State) : Nat := if s.power.phase == .doze || s.power.phase == .stow then 0 else 400

/-- The sum on a rail, counting the pillows that `granted` allows. -/
def railMw (s : State) (c : AccountCase) (granted : Nat → Bool) : Rail → Nat
  | .vddc => standingMw s + pipelineMw s c +
      (List.range 8).foldl (fun a p => if granted p then a + pillowMw s c p else a) 0
  | .vddcv => convMw s c
  | .vddm => chestMw s c
  | .vdda => if c.capture then 500 else 0
  | .vddpix => if c.capture then 500 else 0
  | .vddl => trunkMw s.west + trunkMw s.east

/-- The rails in DETAIL order. -/
def rails : List Rail := [.vddc, .vddcv, .vddm, .vdda, .vddpix, .vddl]

/-- The account: the sum over the rails. -/
def accountMw (s : State) (c : AccountCase) (granted : Nat → Bool) : Nat :=
  rails.foldl (fun a r => a + railMw s c granted r) 0

/-- The ceiling of a rail (R370). -/
def railCeiling (b : BudgetCfg) : Rail → Nat
  | .vddc => b.vddc.toNat
  | .vddcv => b.vddcv.toNat
  | .vddm => b.vddm.toNat
  | .vdda => b.vdda.toNat
  | .vddpix => b.vddpix.toNat
  | .vddl => b.vddl.toNat

/-! ### Admission (R368) -/

/-- The ceiling a case would exceed, every kernel counted at its full request: 0 CEILING, then the rails from 1; none if
it is admitted. -/
def admission (s : State) (c : AccountCase) : Option Nat :=
  let all : Nat → Bool := fun _ => true
  if accountMw s c all > s.power.budget.ceiling.toNat then some 0
  else ((List.range 6).find? fun i =>
      railMw s c all (rails.getD i .vddc) > railCeiling s.power.budget (rails.getD i .vddc)).map (· + 1)

/-- The reply of a command the arbiter refuses; ADMIT_REFUSED counts it when the reply is generated. -/
def cmdBudget (s : State) (ceiling : Nat) : CmdResult := cmdRefuse s .budgetExceeded ceiling

/-! ### Grants (R256, R369) -/

/-- Pillow p has a user kernel that runs. -/
def userPillow (s : State) (p : Nat) : Bool :=
  (List.range 16).any fun i =>
    let k := s.engines.user.getD i {}
    k.phase == .running && (kernelPillows k).contains p

/-- Thermal hold withholds pillow p, since it holds a user kernel (R376). -/
def heldOff (s : State) (p : Nat) : Bool := s.power.hold && userPillow s p

/-- The pillows that run under the arbiter's grants: granted, and not withheld by thermal hold (R369, R376, R385). -/
def runsUnder (s : State) (g : List Bool) (p : Nat) : Bool := g.getD p true && !heldOff s p

/-- A pillow is granted. -/
def grantedAt (s : State) (p : Nat) : Bool := runsUnder s s.power.granted p

/-- The account stays within every ceiling; `spare` is the margin asked for on CEILING and VDDC. -/
def fits (s : State) (c : AccountCase) (granted : Nat → Bool) (spare : Nat) : Bool :=
  decide (accountMw s c granted + spare ≤ s.power.budget.ceiling.toNat) &&
  rails.all fun r => decide (railMw s c granted r + (if r == .vddc then spare else 0) ≤ railCeiling s.power.budget r)

/-- The largest excess over a ceiling. -/
def excessMw (s : State) (c : AccountCase) (granted : Nat → Bool) : Nat :=
  rails.foldl (fun a r => max a (railMw s c granted r - railCeiling s.power.budget r))
    (accountMw s c granted - s.power.budget.ceiling.toNat)

/-- The order in which grants are withheld: user pillows in descending number, then vendor pillows in descending number
(R256; the order among vendor pillows is log entry 31). -/
def withholdOrder (s : State) : List Nat :=
  let ps := (List.range 8).reverse
  ps.filter (userPillow s) ++ ps.filter (fun p => !userPillow s p)

/-- Withhold grants until the account fits. -/
def withhold (s : State) (c : AccountCase) : List Nat → List Bool → List Bool
  | [], g => g
  | p :: ps, g =>
    if fits s c (runsUnder s g) 0 then g
    else if runsUnder s g p && pillowMw s c p > 0 then withhold s c ps (g.set p false)
    else withhold s c ps g

/-- Restore grants in the reverse order, each only where its request fits with 100 mW to spare; the first that does not fit
ends it. -/
def restore (s : State) (c : AccountCase) : List Nat → List Bool → List Bool
  | [], g => g
  | p :: ps, g =>
    if g.getD p true then restore s c ps g
    else if fits s c (fun q => decide (q = p) || runsUnder s g q) 100 then restore s c ps (g.set p true)
    else g

/-- Raise POWER_LIMIT once per ARG0 value and episode. -/
def powerLimit (a0 a1 : Nat) (s : State) : State :=
  if s.power.limitRaised.contains a0 then s
  else raise 0x0808 a0 a1 0
    { s with power := { s.power with limitRaised := insNat s.power.limitRaised a0,
                                     powerLimits := satInc s.power.powerLimits } }

/-- The arbiter at a change of the account and at each grant period (R369). -/
def arbitrate (s : State) : State :=
  let c := caseNow s
  let g0 := s.power.granted
  let before := excessMw s c (runsUnder s g0)
  let g1 := withhold s c (withholdOrder s) g0
  let g2 := if g1 = g0 then restore s c (withholdOrder s).reverse g0 else g1
  let s1 := { s with power := { s.power with granted := g2 } }
  let s2 := if g1 ≠ g0 then powerLimit 0 before s1 else s1
  let rest := excessMw s2 c (runsUnder s g2)
  let none := (List.range 8).all fun p => !(runsUnder s g2 p && pillowMw s c p > 0)
  let s3 := if rest > 0 && none then powerLimit 1 rest s2 else s2
  if g2.all id then { s3 with power := { s3.power with limitRaised := if rest > 0 then s3.power.limitRaised else [] } }
  else s3

end Sys2Proof.Machine
end

