-- ==== Sys2Proof/Machine/ClassF.lean ====
section
/-! DEFINITION. Class F values: pending sets, effective frames, merging, latching and settling (R68–R72, R76, R79, R152,
R173, R330). -/
namespace Sys2Proof.Machine

/-- Exposure values with a set written over them, field by field (R71). -/
def applyFrameUpd (p : FrameParams) (u : FrameUpd) : FrameParams where
  tSub := u.tSub.getD p.tSub
  d0 := u.d0.getD p.d0
  exps := u.exps.getD p.exps
  globalRung := u.globalRung.getD p.globalRung
  map := u.map.getD p.map

/-- Crop origins with some streams' origins written. -/
def setCrops (l : List (BitVec 14)) (cs : List (Nat × BitVec 14)) : List (BitVec 14) :=
  cs.foldl (fun l c => l.set c.1 c.2) l

/-- Pipeline values with a set written over them (R152). -/
def applyPipeUpd (p : PipeParams) (u : PipeUpd) : PipeParams where
  dpcThrRel := (u.dpc.map (·.1)).getD p.dpcThrRel
  dpcThrAbs := (u.dpc.map (·.2)).getD p.dpcThrAbs
  nrTemporal := (u.nr.map (·.1)).getD p.nrTemporal
  nrSpatial := (u.nr.map (·.2)).getD p.nrSpatial
  medThr := u.med.getD p.medThr
  blkTrim := u.blkTrim.getD p.blkTrim
  wbR := (u.wb.map (·.1)).getD p.wbR
  wbG := (u.wb.map (·.2.1)).getD p.wbG
  wbB := (u.wb.map (·.2.2)).getD p.wbB
  matrix := u.matrix.getD p.matrix
  ltmStrength := u.ltm.getD p.ltmStrength
  cropY0 := setCrops p.cropY0 (u.crops.map fun c => (c.1, c.2.1))
  cropX0 := setCrops p.cropX0 (u.crops.map fun c => (c.1, c.2.2))

/-- How far frame `a` lies after frame `base`, modulo 2^32 (R12). -/
def ahead (base a : FrameId) : Nat := (a - base).toNat

/-- Insert a set behind every set whose frame is not later. -/
def insertSet {α : Type} (base : FrameId) : List (PendingSet α) → PendingSet α → List (PendingSet α)
  | [], x => [x]
  | y :: ys, x =>
    if ahead base x.eff < ahead base y.eff then x :: y :: ys else y :: insertSet base ys x

/-- The sets in frame order, and in reply order within a frame (R71). -/
def sortSets {α : Type} (base : FrameId) (l : List (PendingSet α)) : List (PendingSet α) :=
  l.foldl (insertSet base) []

/-- The distinct effective frames of a family's pending sets (R70). -/
def pendingFrames {α : Type} (l : List (PendingSet α)) : List FrameId := (l.map (·.eff)).eraseDups

/-- Later sets merged on top in turn keep the values valid. -/
def laterValid {α β : Type} (apply : β → α → β) (valid : β → Bool) : β → List (PendingSet α) → Bool
  | _, [] => true
  | v, x :: xs => let v' := apply v x.upd; valid v' && laterValid apply valid v' xs

/-- R71: with `new` pending, the values of its effective frame are valid, and stay valid as every later set is merged
on. -/
def mergedValid {α β : Type} (apply : β → α → β) (valid : β → Bool) (force : β) (base : FrameId)
    (sets : List (PendingSet α)) (new : PendingSet α) : Bool :=
  let all := sortSets base (sets ++ [new])
  let upTo := all.filter fun x => decide (ahead base x.eff ≤ ahead base new.eff)
  let later := all.filter fun x => decide (ahead base new.eff < ahead base x.eff)
  let v := upTo.foldl (fun a x => apply a x.upd) force
  valid v && laterValid apply valid v later

/-! ### The next frame boundary -/

/-- Ring time in ns of grid point i, none where RT_PERIOD = 0 leaves one point only (R80). -/
def gridPoint (t : TriggerCfg) (i : Nat) : Option Nat :=
  if i = 0 then some t.rtStart.toNat
  else if t.rtPeriod = 0 then none else some (t.rtStart.toNat + i * t.rtPeriod.toNat)

/-- The next frame not yet begun; once capture is stopping or stopped, the frame after the last one started (R69). -/
def nextFrame (s : State) : FrameId :=
  if s.exposure.phase == .running then s.exposure.nextId else s.exposure.frameId + 1

/-- The set is taken at the boundary `fb` of frame n; in pin mode one replied to less than t_guard before FB is not
(R79). -/
def takenAt {α : Type} (pin : Bool) (guard fb : Nat) (n : FrameId) (x : PendingSet α) : Bool :=
  !FrameId.later x.eff n && (!pin || decide (x.repliedAt.tclk + guard ≤ fb))

/-- The class F values of a frame n not yet begun, were its boundary at `fb`: the values in force with every pending set that
this boundary takes, in frame order (R71, R79). -/
def paramsAt (s : State) (n : FrameId) (fb : Nat) : FrameParams :=
  ((sortSets s.exposure.frameId s.exposure.pendingSets).filter
    (takenAt (s.exposure.trig.mode == 1) (guardCycles s) fb n)).foldl (fun a x => applyFrameUpd a x.upd) s.exposure.inForce

/-- The same with T_sub as the frame takes it: set by the device under BALANCED scheduling (R83). -/
def frameParamsFor (s : State) (p : FrameParams) : FrameParams :=
  if s.exposure.cfg.exposure.flkBal then
    { p with tSub := wordOf (balancedTSub s.exposure.cfg (flickerOf s.exposure.cfg.exposure.flkSrc.toNat s.exposure.tFlk16)) }
  else p

/-- SB of the last sub-frame of the last frame begun in this capture. -/
def lastBoundary (s : State) : Option Nat :=
  if s.exposure.phase == .stopped then none else s.exposure.cur.map fun f => sbAt f (subFrames f.cfg - 1)

/-- The bound of R57 on the boundary after SB at `sb`: readout of that sub-frame has ended when the rung-0 sub-exposure, of
`d0` cycles, ends. -/
def stretchBound (s : State) (sb d0 : Nat) : Nat := sb + tRo s.rst.fuses.variantMl s.exposure.cfg - d0

/-- The earliest admissible boundary of R78 after SB at `sb`, for a frame with `d0`. -/
def admissibleBound (s : State) (sb d0 : Nat) : Nat := sb + max 400 (tRo s.rst.fuses.variantMl s.exposure.cfg - d0)

/-- The earliest boundary of frame n from `lo` on that keeps a bound on its own D_0. D_0(n) depends on the boundary where sets
wait for it in pin mode (R79): it changes t_guard after each reply. -/
def leastBoundary (s : State) (n : FrameId) (lo : Nat) (bound : Nat → Nat) : Nat :=
  let at_ (fb : Nat) : Nat := bound (paramsAt s n fb).d0.toNat
  let steps := (s.exposure.pendingSets.map fun x => x.repliedAt.tclk + guardCycles s).filter fun x => decide (lo < x)
  let cands := ((lo :: steps).map fun x => max x (at_ x)).filter fun x => decide (at_ x ≤ x)
  cands.foldl min (cands.headD (max lo (at_ lo)))

/-- The earliest admissible boundary of frame n after every frame begun (R78). -/
def earliestBoundary (s : State) : Nat :=
  match lastBoundary s with
  | some sb => leastBoundary s s.exposure.nextId 0 (admissibleBound s sb)
  | none => 0

/-- The TCLK edge nearest the device's own ring time `g` in ns (R80), at the trim in force: the count differs from `g` by so
many cycles, of 160/16 ns at no trim. -/
def cycleOfRing (s : State) (g : Nat) : Nat :=
  let diff : Int := 16 * (g : Int) - (ringCount s : Int)
  let rate : Int := 1000000000 + s.clock.delta
  ((s.now.tclk : Int) + (2 * diff * rate + 160000000000) / 320000000000).toNat

/-- The first grid point from `g` on that does not fall before the earliest admissible boundary `e`: those before it start no
frame (R80). -/
def firstAdmissible (s : State) (e g : Nat) : Option Nat :=
  let period := s.exposure.trig.rtPeriod.toNat
  if e ≤ cycleOfRing s g then some g
  else if period = 0 then none
  else
    let short := (e - cycleOfRing s g) * 10000000000 / (1000000000 + s.clock.delta).toNat
    let i := g + short / period * period
    some (if e ≤ cycleOfRing s i then i else if e ≤ cycleOfRing s (i + period) then i + period else i + 2 * period)

/-- The boundary of the next frame as the t_guard judgement takes it (R69): FB_nom in free-run, in ring-time mode the next
grid point that starts a frame; pin mode makes no judgement before FB (R79). -/
def nextBoundary (s : State) : Option Nat :=
  if s.exposure.phase != .running || s.exposure.trig.mode == 1 then none
  else if s.exposure.nextFb.isSome then some s.exposure.nextFbNom
  else if s.exposure.trig.mode == 2 then
    (gridPoint s.exposure.trig s.exposure.gridIx).bind fun g =>
      (firstAdmissible s (earliestBoundary s) g).map (cycleOfRing s)
  else none

/-- A reply generated now comes at least t_guard before a boundary (R69). -/
def inTime (s : State) (fb : Nat) : Bool := decide (s.now.tclk + guardCycles s ≤ fb)

/-- A reply generated now comes in time for the frame `k` places after frame n, whose boundary is at `fb`. In free-run each
boundary follows R57 from the values its frame takes, the target's own taken nominally (R69); in ring-time mode it is the first
admissible grid point (R80). `k` frames need not be run through once one of them is in time. -/
def laterInTime (s : State) : Nat → FrameId → Nat → Bool
  | 0, _, fb => inTime s fb
  | k + 1, n, fb =>
    inTime s fb ||
      (let p := frameParamsFor s (paramsAt s n fb)
       let sb := fb + p.d0.toNat + (subFrames s.exposure.cfg - 1) * p.tSub.toNat
       let nom := fb + subFrames s.exposure.cfg * p.tSub.toNat
       let d0 := (paramsAt s (n + 1) nom).d0.toNat
       if s.exposure.trig.mode == 2 then
         match (gridPoint s.exposure.trig s.exposure.gridIx).bind (firstAdmissible s (admissibleBound s sb d0)) with
         | some g => laterInTime s k (n + 1) (cycleOfRing s g)
         | none => true
       else inTime s nom || (decide (k ≠ 0) && laterInTime s k (n + 1) (max nom (stretchBound s sb d0))))

/-- FB(n) of the next frame as it stands for the frames that follow it: stretched under R57 in free-run. -/
def nextStretched (s : State) (fb : Nat) : Nat :=
  match lastBoundary s with
  | some sb =>
    if s.exposure.trig.mode == 2 then fb
    else max fb (stretchBound s sb (paramsAt s s.exposure.nextId fb).d0.toNat)
  | none => fb

/-- Where a class F command goes: its effective frame, whether it is LATE, and the EFFECTIVE_FRAME its reply shows; none
for a target more than 65,536 frames ahead of the next frame not yet begun (R69, R70; log entry 194). -/
def classFPlace (s : State) (target : Option FrameId) : Option (FrameId × Bool × FrameId) :=
  let n := nextFrame s
  let ontime : Bool := match nextBoundary s with
    | some fb => inTime s fb
    | none => true
  let first : FrameId := if ontime then n else n + 1
  match target with
  | none => some (first, !ontime, first)
  | some t =>
    if t = n then some (first, !ontime, first)
    else if FrameId.later t n then
      if ahead n t > 65536 then none
      else if s.exposure.phase != .running then some (t, false, n)
      else
        let ok : Bool := match nextBoundary s with
          | some fb => laterInTime s (ahead n t) n (nextStretched s fb)
          | none => true
        if ok then some (t, false, t) else some (t + 1, true, t + 1)
    else some (first, true, first)

/-- How a class F command is taken (R68: BAD_PARAM, BUSY, then LATE under STRICT). -/
inductive Submission (α : Type) where
  | refused (st : Status)
  | accepted (set : PendingSet α) (late : Bool) (shown : FrameId)

/-- Judge one class F command of a family. -/
def submitSet {α β : Type} (apply : β → α → β) (valid : β → Bool) (force : β) (sets : List (PendingSet α))
    (s : State) (c : Cmd) (strict : Bool) (target : Option FrameId) (upd : α) : Submission α :=
  match classFPlace s target with
  | none => .refused .badParam
  | some (eff, late, shown) =>
    let new : PendingSet α := ⟨some c.req, c.tag, target, eff, s.now, upd⟩
    if !mergedValid apply valid force (nextFrame s - 1) sets new then .refused .badParam
    else if !(pendingFrames sets).contains eff && decide (4 ≤ (pendingFrames sets).length) then .refused .busy
    else if late && strict then .refused .lateRefused
    else .accepted new late shown

/-- Validity of exposure values under the capture configuration in force. -/
def frameValid (s : State) (p : FrameParams) : Bool := paramsValid s.rst.fuses.variantMl s.exposure.cfg p

/-! ### Latching (R71, R79) -/

/-- A pending set due at frame n that is not taken moves to the following frame (R79). -/
def movedAt {α : Type} (pin : Bool) (guard fb : Nat) (n : FrameId) (x : PendingSet α) : Bool :=
  !FrameId.later x.eff n && !takenAt pin guard fb n x

/-- Split the pending sets at the boundary of frame n: those it takes, those it moves to the following frame, and all that
wait from then on, each in reply order (R71). -/
def splitDue {α : Type} (pin : Bool) (guard fb : Nat) (n : FrameId) (l : List (PendingSet α)) :
    List (PendingSet α) × List (PendingSet α) × List (PendingSet α) :=
  let move (x : PendingSet α) : PendingSet α := if movedAt pin guard fb n x then { x with eff := n + 1 } else x
  (l.filter (takenAt pin guard fb n), (l.filter (movedAt pin guard fb n)).map move,
    (l.filter fun x => !takenAt pin guard fb n x).map move)

/-- PARAMS_DEFERRED for a command's sets that took another frame (R76, R79). -/
def deferEvents {α : Type} (discarded : Nat) (l : List (PendingSet α)) (s : State) : State :=
  (l.filter fun x => x.req.isSome).foldl (fun s x => raise 0x0107 x.tag.toNat x.eff.toNat discarded s) s

/-- Of the auto-exposure results for one frame only the one from the latest statistics stays (R73). -/
def newestAe (l : List (PendingSet FrameUpd)) : List (PendingSet FrameUpd) :=
  l.filter fun x => x.req.isSome || !(l.any fun y => y.req.isNone && y.eff == x.eff &&
    (y.target.any fun b => x.target.any fun a => FrameId.later b a))

/-- Auto-exposure results that take a frame later than n + 2 are counted (R73). -/
def countAe (moved : List (PendingSet FrameUpd)) (s : State) : State :=
  { s with expCnt := { s.expCnt with
    aeDeferred := satAdd s.expCnt.aeDeferred (moved.filter fun x => x.req.isNone).length } }

/-- Latch the class F values of both families at FB(n). -/
def latchClassF (pin : Bool) (fb : Nat) (n : FrameId) (s : State) : State :=
  let g := guardCycles s
  let (due, moved, wait) := splitDue pin g fb n s.exposure.pendingSets
  let (due2, moved2, wait2) := splitDue pin g fb n s.front.pendingSets
  let s1 := { s with
    exposure := { s.exposure with
      inForce := due.foldl (fun a x => applyFrameUpd a x.upd) s.exposure.inForce
      pendingSets := newestAe wait }
    front := { s.front with
      params := due2.foldl (fun a x => applyPipeUpd a x.upd) s.front.params
      pendingSets := wait2 } }
  deferEvents 0 moved2 (deferEvents 0 moved (countAe moved s1))

/-! ### Settling at CAPTURE_START (R76) -/

/-- Where a pending set goes when a capture starts with frame `first`: its frame and whether it was moved. -/
def settlePlace {α : Type} (first : FrameId) (x : PendingSet α) : PendingSet α × Bool :=
  match x.target with
  | none => ({ x with eff := first }, false)
  | some t =>
    if t = first then ({ x with eff := first }, false)
    else if FrameId.later t first && decide (ahead first t ≤ 65536) then ({ x with eff := t }, false)
    else ({ x with eff := first }, true)

/-- Merge the placed sets in frame order; a set that makes its frame's values invalid is discarded whole. Answers the
sets kept and those discarded. -/
def settleMerge {α β : Type} (apply : β → α → β) (valid : β → Bool) :
    β → List (PendingSet α) → List (PendingSet α) × List (PendingSet α)
  | _, [] => ([], [])
  | v, x :: xs =>
    if valid (apply v x.upd) then
      let (k, d) := settleMerge apply valid (apply v x.upd) xs
      (x :: k, d)
    else
      let (k, d) := settleMerge apply valid v xs
      (k, x :: d)

/-- Settle one family: the sets that apply to the first frame in reply order, then those of later frames. Answers the sets
kept, those moved to the first frame, and those discarded. -/
def settleFamily {α β : Type} (apply : β → α → β) (valid : β → Bool) (force : β) (first : FrameId)
    (l : List (PendingSet α)) : List (PendingSet α) × List (PendingSet α) × List (PendingSet α) :=
  let placed := l.map (settlePlace first)
  let (k, d) := settleMerge apply valid force (sortSets first (placed.map (·.1)))
  (k, (placed.filter (·.2)).map (·.1), d)

/-- Settle the pending sets of both families for the capture that starts with frame `first`, those of the auto-exposure kernel
alike (R76; log entry 196). -/
def settleClassF (first : FrameId) (s : State) : State :=
  let (k, m, d) := settleFamily applyFrameUpd (frameValid s) s.exposure.inForce first s.exposure.pendingSets
  let (k2, m2, d2) := settleFamily applyPipeUpd (fun _ => true) s.front.params first s.front.pendingSets
  let s1 := { s with exposure := { s.exposure with pendingSets := k }, front := { s.front with pendingSets := k2 } }
  deferEvents 1 d2 (deferEvents 0 m2 (deferEvents 1 d (deferEvents 0 m s1)))

end Sys2Proof.Machine
end

