-- ==== Sys2Proof/Machine/Filet.lean ====
section
/-! DEFINITION. Filet coding (R212–R215) and the CRC-16 of stream packets (R202). -/
namespace Sys2Proof.Machine

/-! ### CRC-16 (R202) -/

/-- One bit of the CRC-16 with polynomial 0x1021. -/
def crc16Bit (c : BitVec 16) : BitVec 16 := if c.getLsbD 15 then (c <<< 1) ^^^ 0x1021 else c <<< 1

/-- One byte of the CRC-16, most significant bit first. -/
def crc16Byte (c : BitVec 16) (b : Byte) : BitVec 16 := Nat.repeat crc16Bit 8 (c ^^^ (b.zeroExtend 16 <<< 8))

/-- The CRC-16 of a byte list: initial value 0xFFFF, no reflection, no final XOR. -/
def crc16 (bs : List Byte) : BitVec 16 := bs.foldl crc16Byte 0xFFFF

/-! ### Bits -/

/-- The `n` lowest bits of a number, most significant first. -/
def putBits (v : Nat) : Nat → List Bool
  | 0 => []
  | n + 1 => v.testBit n :: putBits v n

/-- The number whose bits are given most significant first. -/
def bitsNat (bs : List Bool) : Nat := bs.foldl (fun a b => 2 * a + b2n b) 0

/-- Bits as bytes from bit 7 of the first byte, `n` bytes, padded with zeros. -/
def bitsBytes : Nat → List Bool → List Byte
  | 0, _ => []
  | n + 1, bs =>
    let b := bs.take 8
    BitVec.ofNat 8 (bitsNat b * 2 ^ (8 - b.length)) :: bitsBytes n (bs.drop 8)

/-- Bytes as bits from bit 7 of the first byte. -/
def bytesBits (bs : List Byte) : List Bool := bs.flatMap fun b => putBits b.toNat 8

/-- Bytes of a bit string padded to a 32-bit boundary. -/
def padBytes (bs : List Bool) : List Byte := bitsBytes (4 * ((bs.length + 31) / 32)) bs

/-! ### Encoder (R212) -/

/-- Quantised residual of r with bound e. -/
def quantise (r : Int) (e : Nat) : Int :=
  if r ≥ 0 then (r + e) / (2 * e + 1) else -((-r + e) / (2 * e + 1))

/-- The mapped residuals of a block and the predictor after it. -/
def residuals (b e : Nat) : Nat → List Nat → List Nat × Nat
  | p, [] => ([], p)
  | p, x :: xs =>
    let q := quantise ((x : Int) - p) e
    let y := (clampI 0 (2 ^ b - 1) (p + q * (2 * e + 1))).toNat
    let u : Nat := if q ≥ 0 then (2 * q).toNat else (-2 * q - 1).toNat
    let (us, p') := residuals b e y xs
    (u :: us, p')

/-- Bits of one Rice code. -/
def riceLen (b k u : Nat) : Nat := if u / 2 ^ k < 24 then u / 2 ^ k + 1 + k else 24 + b + 1

/-- Bits of a block coded with parameter k, header included. -/
def blockCost (b k : Nat) (us : List Nat) : Nat := us.foldl (fun a u => a + riceLen b k u) 11

/-- The least costly parameter from k up to b, the lowest on a tie. -/
def bestK (b : Nat) (us : List Nat) : Nat :=
  (List.range (b + 1)).foldl (fun best k => if blockCost b k us < blockCost b best us then k else best) 0

/-- One Rice code, or its escape. -/
def rice (b k u : Nat) : List Bool :=
  if u / 2 ^ k < 24 then List.replicate (u / 2 ^ k) true ++ [false] ++ putBits (u % 2 ^ k) k
  else List.replicate 24 true ++ putBits u (b + 1)

/-- A block's bits, and the predictor after it. -/
def codeBlock (b e pred : Nat) (xs : List Nat) : List Bool × Nat :=
  let (us, p) := residuals b e pred xs
  let k := bestK b us
  if 11 + xs.length * b < blockCost b k us then
    (putBits 0 6 ++ putBits 31 5 ++ xs.flatMap (fun x => putBits x b), xs.getLastD pred)
  else (putBits e 6 ++ putBits k 5 ++ us.flatMap (rice b k), p)

/-- A sequence cut into blocks of 32 samples. -/
def blocks32 (xs : List Nat) : List (List Nat) :=
  (List.range ((xs.length + 31) / 32)).map fun i => (xs.drop (32 * i)).take 32

/-- How Filet coding chooses a block's bound (R213). -/
structure FiletMode where
  capped : Bool
  e : Nat
  emax : Nat
  budgetBits : Nat
deriving DecidableEq, Repr

/-- The bound of one block in CAPPED mode: the least from E whose block fits what the line's budget leaves. -/
def cappedE (b : Nat) (m : FiletMode) (used remaining pred : Nat) (xs : List Nat) : Nat :=
  let allow := if m.budgetBits > used then (m.budgetBits - used) * xs.length / remaining else 0
  ((rangeFrom m.e (m.emax + 1 - m.e)).find? fun e => decide ((codeBlock b e pred xs).1.length ≤ allow)).getD m.emax

/-- What coding a line gives: its bits and the largest bound a block states. -/
structure FiletLine where
  bits : List Bool
  ePeak : Nat

/-- Code the blocks of one sequence; the predictor carries from block to block. -/
def codeBlocks (b : Nat) (m : FiletMode) : Nat → Nat → FiletLine → List (List Nat) → FiletLine
  | _, _, acc, [] => acc
  | remaining, pred, acc, xs :: rest =>
    let e := if m.capped then cappedE b m acc.bits.length remaining pred xs else m.e
    let (bits, pred') := codeBlock b e pred xs
    let verbatim := bitsNat ((bits.drop 6).take 5) == 31
    codeBlocks b m (remaining - xs.length) pred' ⟨acc.bits ++ bits, if verbatim then acc.ePeak else max acc.ePeak e⟩ rest

/-- Code a line's sequences in order. -/
def codeSeqs (b : Nat) (m : FiletMode) : Nat → FiletLine → List (List Nat) → FiletLine
  | _, acc, [] => acc
  | remaining, acc, xs :: rest =>
    codeSeqs b m (remaining - xs.length) (codeBlocks b m remaining (2 ^ (b - 1)) acc (blocks32 xs)) rest

/-- The coded line: every sequence's blocks, each sequence's predictor starting at 2^(b-1) (R212). -/
def codeLine (b : Nat) (m : FiletMode) (seqs : List (List Nat)) : FiletLine :=
  codeSeqs b m (seqs.foldl (fun a xs => a + xs.length) 0) ⟨[], 0⟩ seqs

/-! ### Decoder (R214, R215) -/

/-- Ones before the first zero, at most 24, and the rest; the zero is read unless 24 ones came. -/
def unary : Nat → List Bool → Option (Nat × List Bool)
  | 0, bs => some (0, bs)
  | _ + 1, [] => none
  | n + 1, b :: bs => if b then (unary n bs).map fun r => (r.1 + 1, r.2) else some (0, bs)

/-- Read `n` bits. -/
def getBits (n : Nat) (bs : List Bool) : Option (Nat × List Bool) :=
  if bs.length < n then none else some (bitsNat (bs.take n), bs.drop n)

/-- Decode the residuals of a block of `n` samples. -/
def decodeResiduals (b e k : Nat) : Nat → Nat → List Bool → Option (List Nat × Nat × List Bool)
  | 0, p, bs => some ([], p, bs)
  | n + 1, p, bs => do
    let (m, bs) ← unary 24 bs
    let (u, bs) ← if m < 24 then (getBits k bs).map (fun r => (m * 2 ^ k + r.1, r.2)) else getBits (b + 1) bs
    let q : Int := if u % 2 = 1 then -(((u + 1) / 2 : Nat) : Int) else ((u / 2 : Nat) : Int)
    let y := (clampI 0 (2 ^ b - 1) (p + q * (2 * e + 1))).toNat
    let (ys, p', bs) ← decodeResiduals b e k n y bs
    some (y :: ys, p', bs)

/-- Decode a verbatim block. -/
def decodeVerbatim (b : Nat) : Nat → Nat → List Bool → Option (List Nat × Nat × List Bool)
  | 0, p, bs => some ([], p, bs)
  | n + 1, _, bs => do
    let (y, bs) ← getBits b bs
    let (ys, p', bs) ← decodeVerbatim b n y bs
    some (y :: ys, p', bs)

/-- Decode one block of `n` samples. -/
def decodeBlock (b n p : Nat) (bs : List Bool) : Option (List Nat × Nat × List Bool) := do
  let (e, bs) ← getBits 6 bs
  let (k, bs) ← getBits 5 bs
  if k = 31 then decodeVerbatim b n p bs
  else if k > b then none
  else decodeResiduals b e k n p bs

/-- Decode the blocks of one sequence of `len` samples; `fuel` bounds the blocks. -/
def decodeSeq (b : Nat) : Nat → Nat → Nat → List Bool → Option (List Nat × List Bool)
  | 0, _, _, bs => some ([], bs)
  | fuel + 1, len, p, bs =>
    if len = 0 then some ([], bs)
    else do
      let n := min 32 len
      let (ys, p', bs) ← decodeBlock b n p bs
      let (zs, bs) ← decodeSeq b fuel (len - n) p' bs
      some (ys ++ zs, bs)

/-- Decode sequences of the given lengths; the bits left over come last. -/
def decodeSeqs (b : Nat) : List Nat → List Bool → Option (List (List Nat) × List Bool)
  | [], bs => some ([], bs)
  | len :: rest, bs => do
    let (ys, bs) ← decodeSeq b (len / 32 + 1) len (2 ^ (b - 1)) bs
    let (zs, bs) ← decodeSeqs b rest bs
    some (ys :: zs, bs)

/-- Decode a coded line payload; none where it fails its check (R215): a bad parameter, a read past the payload, padding
that is not zero, or bits other than padding left over. -/
def decodeLine (b : Nat) (lens : List Nat) (payload : List Byte) : Option (List (List Nat)) := do
  let (seqs, rest) ← decodeSeqs b lens (bytesBits payload)
  if rest.length < 32 && rest.all (! ·) then some seqs else none

end Sys2Proof.Machine
end

