-- ==== Sys2Proof/Machine/Streams.lean ====
section
/-! DEFINITION. Stream packets, stream buffers, drop policies, DROPPED forms and RETRACT markers (R196–R222). -/
namespace Sys2Proof.Machine

/-! ### Formats (R172, R207) -/

/-- FORMAT RAW20. -/
def isRaw20 (c : StreamCfg) : Bool := c.format == 0

/-- Sample width b (R207): 20 for RAW20 and RGB, else DEPTH. -/
def sampleBits (c : StreamCfg) : Nat :=
  if c.format == 0 || c.format == 1 then 20
  else if c.depth == 0 then 10 else if c.depth == 1 then 12 else 20

/-- Lengths of the component sequences of line y (R207). -/
def seqLens (ml : Bool) (c : StreamCfg) (y : Nat) : List Nat :=
  let w := c.outW.toNat
  if c.format == 0 then (if ml then [w] else [(w + 1) / 2, w / 2])
  else if c.format == 1 || c.format == 2 then [w, w, w]
  else if c.format == 3 then [w, w / 2, w / 2]
  else if c.format == 4 then (if y % 2 = 0 then [w, w / 2, w / 2] else [w])
  else [w]

/-- Largest payload of line y in bits (R216). -/
def lineBits (ml : Bool) (c : StreamCfg) (y : Nat) : Nat :=
  let b := sampleBits c
  (seqLens ml c y).foldl (fun a n => a + (if c.filet == 0 then n * b else 11 * ((n + 31) / 32) + n * b)) 0

/-- Side of a tile in a frame, binned or not. -/
def sideOf (bin : Bool) : Nat := if bin then 32 else 64

/-- The frame bound S_max in bytes (R216). -/
def sMax (ml bin : Bool) (c : StreamCfg) : Nat :=
  let lines := (List.range c.outH.toNat).foldl (fun a y => a + 20 + 4 * ((lineBits ml c y + 31) / 32)) 0
  let t := sideOf bin
  let bands := (c.outH.toNat + t - 1) / t
  let side := if isRaw20 c then bands * (20 + 16 * ((c.outW.toNat + t - 1) / t)) else 0
  72 + lines + side

/-- Bytes of frame space in a stream's buffer: BUF_MIB less the 64 KiB marker area. -/
def frameSpace (c : StreamCfg) : Nat := c.bufMib.toNat * mib - 65536

/-- Mebibytes of the free pool that the streams' buffers and insets take (R17, R181, R197). -/
def poolUsed (cfgs : List StreamCfg) : Nat :=
  let buffers := cfgs.foldl (fun a c => a + c.bufMib.toNat) 0 * mib
  let insets := (List.range 8).foldl (fun a i =>
    if cfgs.any (fun c => c.insetEn && c.insetSrc.toNat == i) then
      a + 2 * ((cfgs.getD i {}).outW.toNat * (cfgs.getD i {}).outH.toNat * 8)
    else a) 0
  buffers + insets

/-- The free pool covers a set of configurations: 8 × 32 MiB of buffers and 140 MiB of pool in all (R17). -/
def poolCovers (cfgs : List StreamCfg) : Bool := decide (poolUsed cfgs ≤ (256 + 140) * mib)

/-! ### Access -/

/-- The state with stream i changed. -/
def updStream (s : State) (i : Nat) (f : StreamState → StreamState) : State :=
  { s with streams := s.streams.modify i f }

/-- The state with stream i's configuration changed. -/
def updStreamCfg (s : State) (i : Nat) (f : StreamCfg → StreamCfg) : State :=
  { s with back := { s.back with cfgs := s.back.cfgs.modify i f } }

/-- The channel with number i. -/
def channel (s : State) (i : Nat) : ChannelState := s.back.channels.getD i {}

/-- The state with channel i changed. -/
def updChannel (s : State) (i : Nat) (f : ChannelState → ChannelState) : State :=
  { s with back := { s.back with channels := s.back.channels.modify i f } }

/-- The stream port assigned to stream i, 8 being STATS (R303). -/
def assignOf (s : State) (i : Nat) : Option PortAssign := (s.ring.ports.getD i none)

/-- Feature bits of the ring (R298): bit 0 DUAL_RING, 1 FILET, 2 BASTE, 3 TIME_V2, 4 LANE_SHED. -/
def hasFeature (s : State) (bit : Nat) : Bool := bitAt s.ring.features bit

/-! ### Packets (R201–R205) -/

/-- A packet without PSEQ, STREAM_PORT and CRC, which it gets as it leaves: TYPE, LEN and the words from W2 on. -/
def packet (type : Nat) (body : List Word) : List Word :=
  mkWord [(type, 28), (body.length + 3, 0)] :: body

/-- The packet as it leaves the port: the two-word prefix and the CRC word (R201). -/
def finishPacket (p : List Word) (pseq : BitVec 16) (port : BitVec 9) : List Word :=
  let ws := p.headD 0 :: mkWord [(pseq.toNat, 16), (port.toNat, 0)] :: p.tail
  ws ++ [(crc16 (wordsBytes ws)).zeroExtend 32]

/-- Bytes of a packet as it leaves. -/
def packetBytes (p : List Word) : Nat := 4 * (p.length + 2)

/-- Marks at the bit positions of the header (R204). -/
def marksNat (m : Marks) : Nat :=
  b2n m.basted * 2 ^ 15 + b2n m.corrupt * 2 ^ 14 + b2n m.late * 2 ^ 13 + b2n m.dropped * 2 ^ 12 + b2n m.incomplete * 2 ^ 11

/-- The OR of two sets of marks. -/
def marksOr (a b : Marks) : Marks :=
  ⟨a.basted || b.basted, a.corrupt || b.corrupt, a.late || b.late, a.dropped || b.dropped, a.incomplete || b.incomplete⟩

/-- What a HEADER says of a frame beside the stream's configuration (R204). -/
structure FrameInfo where
  id : FrameId
  hdr : SrcHeader
  marks : Marks
  hist : Bool
  cropY : Nat
  cropX : Nat
deriving DecidableEq, Repr

/-- The HEADER packet (R204). -/
def headerPacket (c : StreamCfg) (f : FrameInfo) (sidecar : Bool) (missed : Nat) : List Word :=
  packet 1 [f.id,
    mkWord [(min missed 255, 24), (2, 16), (marksNat f.marks, 0), (b2n f.hist, 10), (b2n sidecar, 9), (b2n c.insetEn, 8),
      (c.format.toNat, 4), (c.depth.toNat, 2), (c.filet.toNat, 0)],
    mkWord [(c.outH.toNat, 16), (c.outW.toNat, 0)],
    lo32 f.hdr.stamp, hi32 f.hdr.stamp,
    mkWord [(b2n f.hdr.variantMl, 24), (b2n f.hdr.bin, 23), (f.hdr.srcNode.toNat, 16), (c.filetEmax.toNat, 8), (c.filetE.toNat, 0)],
    mkWord [(f.cropY, 16), (f.cropX, 0)]]

/-- The TRAILER packet (R205). -/
def trailerPacket (id : FrameId) (m : Marks) (lines payload ePeak : Nat) : List Word :=
  packet 4 [id, mkWord [(marksNat m, 0)], wordOf lines, wordOf payload, mkWord [(ePeak, 0)]]

/-- The RETRACT packet (R210). -/
def retractPacket (id : FrameId) (reason : Nat) : List Word := packet 5 [id, mkWord [(reason, 0)]]

/-- The LINE packet (R207). -/
def linePacket (id : FrameId) (y : Nat) (basted : Bool) (payload : List Byte) : List Word :=
  packet 2 (id :: mkWord [(y, 16), (b2n basted, 15)] :: bytesWords payload)

/-! ### Buffers (R216–R218) -/

/-- Bytes reserved in frame space. -/
def frameBytes (t : StreamState) : Nat :=
  t.entries.foldl (fun a e => if e.kind == .frame then a + e.reserved else a) 0

/-- Bytes of markers waiting. -/
def markerBytes (t : StreamState) : Nat :=
  t.entries.foldl (fun a e => if e.kind == .frame then a else a + e.reserved) 0

/-- The coding values of a stream. -/
def codingOf (c : StreamCfg) : CodingVals := ⟨c.filetE, c.filetEmax, c.lineBudget, c.dropPolicy⟩

/-- Live coding values take effect at the next frame header the stream writes (R198). -/
def takeLive (i : Nat) (s : State) : State :=
  match (stream s i).live with
  | none => s
  | some v =>
    updStream (updStreamCfg s i fun c => { c with filetE := v.filetE, filetEmax := v.filetEmax,
                                                  lineBudget := v.lineBudget, dropPolicy := v.dropPolicy })
      i fun t => { t with live := none }

/-- The highest buffer occupancy since STREAM_ENABLE, in 64 KiB units (R222; log entry 203). -/
def notePeak (i : Nat) (s : State) : State :=
  updStream s i fun t => { t with bufPeak := clampU 16 (max t.bufPeak.toNat ((frameBytes t + 65535) / 65536)) }

/-- RETRACT for frame `id`, written to the marker area, which always has room for one (R218). -/
def retractEntry (id : FrameId) (reason : Nat) : StreamEntry :=
  { kind := .retract, id := id, basted := false, reserved := 20, closed := true, waiting := [retractPacket id reason] }

/-- Count a RETRACT sent (R122). -/
def countRetract (s : State) : State :=
  { s with accCnt := { s.accCnt with retractsSent := satInc s.accCnt.retractsSent } }

/-- Send RETRACT `id` on stream i if its basted frame's header has left the port and it is not superseded (R210). -/
def sendRetract (i : Nat) (id : FrameId) (reason : Nat) (s : State) : State :=
  if (stream s i).bastedOut == some id then
    countRetract (updStream s i fun t =>
      { t with entries := t.entries ++ [retractEntry id reason], bastedOut := none })
  else s

/-- A header turned into that of a DROPPED form: DROPPED and no other mark, no sidecar, and MISSED (R211). -/
def droppedHeader (h : List Word) (missed : Nat) : List Word :=
  let w := h.getD 2 0
  h.set 2 (mkWord [(min missed 255, 24), (fldN w 16 8, 16), (1, 12), (b2n (bitAt w 10), 10), (b2n (bitAt w 8), 8), (fldN w 0 8, 0)])

/-- The DROPPED form of a frame, in the marker area. -/
def droppedEntry (id : FrameId) (hist : Bool) (header : List Word) (missed : Nat) : StreamEntry :=
  { kind := .droppedForm, id := id, basted := false, hist := hist, reserved := 72, closed := true,
    waiting := [droppedHeader header missed, trailerPacket id { dropped := true } 0 0 0] }

/-- The marker area has no room for a DROPPED form: the room of one RETRACT is kept (R218). -/
def markersFull (t : StreamState) : Bool := decide (65536 - 20 < markerBytes t + 72)

/-- The entry that stands for a finished frame a stream takes and does not carry: RETRACT where its basted version left
the port, else the DROPPED form with the header that `header` gives, or nothing but a count in MISSED where the marker area is
full (R211, R218). `back`: the count that goes back from an unsent header of the frame. -/
def dropMarker (i : Nat) (id : FrameId) (hist : Bool) (header : State → List Word × State) (back reason : Nat) (s : State) :
    Option StreamEntry × State :=
  let t := stream s i
  if t.bastedOut == some id then
    (some (retractEntry id reason), countRetract (updStream s i fun t => { t with bastedOut := none, missed := t.missed + back }))
  else if markersFull t then
    (none, updStream s i fun t => { t with markersLost := satInc t.markersLost, missed := t.missed + back + 1 })
  else
    let (h, s) := header s
    (some (droppedEntry id hist h ((stream s i).missed + back)), updStream s i fun t => { t with missed := 0 })

/-- The header that stream i writes now for frame `f`: live values take effect (R198). -/
def freshHeader (i : Nat) (f : FrameInfo) (s : State) : List Word × State :=
  let s := takeLive i s
  (headerPacket (streamCfg s i) f false 0, s)

/-- A basted version that waits and has not begun. -/
def waitingBasted (e : StreamEntry) : Bool := e.kind == .frame && e.basted && !e.begun
/-- A finished frame that waits and has not begun. -/
def waitingFinished (e : StreamEntry) : Bool := e.kind == .frame && !e.basted && !e.begun

/-- Entries of stream i are removed before their headers have left; what those headers' MISSED told goes back to the count
(R218). -/
def discardEntries (i : Nat) (gone : StreamEntry → Bool) (s : State) : State :=
  updStream s i fun t =>
    { t with entries := t.entries.filter fun e => !gone e
             missed := (t.entries.filter gone).foldl (fun a e => a + e.missed) t.missed }

/-- Basted frame `id`, waiting unsent in stream i, is removed (R120). -/
def removeBasted (i : Nat) (id : FrameId) (s : State) : State :=
  discardEntries i (fun e => waitingBasted e && e.id == id) s

/-- RETRACT for frame `id` on every stream that carried its basted version; a basted frame still waiting in a buffer is
removed unsent (R120, R122; log entry 33). -/
def retractFrame (id : FrameId) (reason : Nat) (s : State) : State :=
  (List.range 8).foldl (fun s i => sendRetract i id reason (removeBasted i id s)) s

/-- Whether DECIMATE keeps frame `id`, and the stream with its phase advanced: the first frame taken after the level last
changed is kept, and every 2^d-th after it; both versions of a frame share the decision (R217). -/
def decimate (i : Nat) (id : FrameId) (s : State) : Bool × State :=
  let t := stream s i
  match t.decimDecision with
  | some (f, keep) => if f = id then (keep, s) else go t
  | none => go t
where
  /-- A fresh decision. -/
  go (t : StreamState) : Bool × State :=
    let keep := t.decimPhase % 2 ^ t.decim == 0
    (keep, updStream s i fun t => { t with decimPhase := t.decimPhase + 1, decimDecision := some (id, keep) })

/-- Frame `id` is one the stream takes: DECIMATE counts it, whether it arrives whole or DROPPED (R176, R217). -/
def countTaken (i : Nat) (id : FrameId) (s : State) : State :=
  if (streamCfg s i).dropPolicy == 2 then (decimate i id s).2 else s

/-- Put the marker of a dropped finished frame at the end of the stream's order; a basted version of it that waits is
removed first (R120). -/
def putDropped (i : Nat) (f : FrameInfo) (reason : Nat) (s : State) : State :=
  match dropMarker i f.id f.hist (freshHeader i f) 0 reason (removeBasted i f.id (countTaken i f.id s)) with
  | (some e, s) => updStream s i fun t => { t with entries := t.entries ++ [e] }
  | (none, s) => s

/-- Count a frame dropped by a policy (R217). -/
def countDropped (i : Nat) (s : State) : State := updStream s i fun t => { t with dropped := satInc t.dropped }

/-- Remove the first entry that satisfies a condition. -/
def removeFirst (p : StreamEntry → Bool) : List StreamEntry → Option (StreamEntry × List StreamEntry × List StreamEntry)
  | [] => none
  | e :: es =>
    if p e then some (e, [], es)
    else (removeFirst p es).map fun r => (r.1, e :: r.2.1, r.2.2)

/-- A frame of size `need` fits into stream i's frame space. -/
def frameFits (s : State) (i need : Nat) : Bool := decide (frameBytes (stream s i) + need ≤ frameSpace (streamCfg s i))

/-- Discard waiting basted versions, oldest first, until the frame fits. -/
def discardBasted (i need : Nat) : Nat → State → State
  | 0, s => s
  | n + 1, s =>
    if frameFits s i need then s
    else match removeFirst waitingBasted (stream s i).entries with
      | none => s
      | some (e, a, b) =>
        discardBasted i need n (updStream s i fun t => { t with entries := a ++ b, missed := t.missed + e.missed })

/-- Discard waiting finished frames, oldest first, until the frame fits; each leaves its marker in its place (R217
DROP_OLDEST). -/
def discardFinished (i need : Nat) : Nat → State → State
  | 0, s => s
  | n + 1, s =>
    if frameFits s i need then s
    else match removeFirst waitingFinished (stream s i).entries with
      | none => s
      | some (e, a, b) =>
        let (m, s1) := dropMarker i e.id e.hist (fun s => (e.waiting.headD [], s)) e.missed 4
          (updStream s i fun t => { t with entries := a ++ b })
        let s2 := updStream s1 i fun t => { t with entries := a ++ m.toList ++ b }
        discardFinished i need n (countDropped i s2)

/-- Write the header of a frame that fits: reserve S_max and open its entry (R203, R216). -/
def openEntry (i : Nat) (f : FrameInfo) (need : Nat) (s : State) : State :=
  let s := takeLive i s
  let c := streamCfg s i
  let t := stream s i
  let h := headerPacket c f (isRaw20 c) t.missed
  let e : StreamEntry := {
    kind := .frame, id := f.id, basted := f.marks.basted, hist := f.hist, reserved := need,
    written := packetBytes h, marks := f.marks, coding := codingOf c, missed := t.missed, waiting := [h] }
  notePeak i (updStream s i fun t => { t with entries := t.entries ++ [e], missed := 0 })

/-- The level that DECIMATE raises when a frame does not fit: by one, up to 3; a level that changes starts its count anew
(R217). -/
def raiseLevel (t : StreamState) : StreamState :=
  if 3 ≤ t.decim then t else { t with decim := t.decim + 1, decimPhase := 0 }

/-- A frame arrives at stream i's buffer: it is opened, or the stream acts by the policy in force, which a live value not yet
taken by a header does not change (R120, R198, R217). Answers whether the frame is carried. -/
def arriveFrame (i : Nat) (f : FrameInfo) (s : State) : Bool × State :=
  let c := streamCfg s i
  let need := sMax f.hdr.variantMl f.hdr.bin c
  let s := if f.marks.basted then s else removeBasted i f.id s
  let policy := c.dropPolicy
  let drop (s : State) : Bool × State :=
    if f.marks.basted then (false, s) else (false, countDropped i (putDropped i f 4 s))
  let n := (stream s i).entries.length
  if f.marks.basted then
    let (keep, s) := if policy == 2 then decimate i f.id s else (true, s)
    if keep && frameFits s i need then (true, openEntry i f need s) else (false, s)
  else if policy == 2 then
    let (keep, s) := decimate i f.id s
    if !keep then drop s
    else
      let s := discardBasted i need n s
      if frameFits s i need then (true, openEntry i f need s)
      else drop (updStream s i raiseLevel)
  else
    let s := discardBasted i need n s
    let s := if policy == 0 then discardFinished i need n s else s
    if frameFits s i need then (true, openEntry i f need s) else drop s

/-- Change the open entry of frame `id` and version in stream i. -/
def updEntry (i : Nat) (id : FrameId) (basted : Bool) (f : StreamEntry → StreamEntry) (s : State) : State :=
  updStream s i fun t => { t with entries := t.entries.map fun e =>
    if e.kind == .frame && e.id == id && e.basted == basted && !e.closed then f e else e }

/-- Add a packet to an open frame. -/
def addPacket (i : Nat) (id : FrameId) (basted : Bool) (p : List Word) (s : State) : State :=
  updEntry i id basted (fun e => { e with waiting := e.waiting ++ [p], written := e.written + packetBytes p }) s

/-- Add a LINE packet with its payload's figures. -/
def addLine (i : Nat) (id : FrameId) (basted : Bool) (y : Nat) (payload : List Byte) (ePeak : Nat) (overBudget : Bool)
    (s : State) : State :=
  let s := addPacket i id basted (linePacket id y basted payload) s
  let s := updEntry i id basted (fun e => { e with lines := e.lines + 1, payload := e.payload + payload.length,
                                                   ePeak := max e.ePeak ePeak, peaks := e.peaks ++ [ePeak] }) s
  if overBudget then updStream s i fun t => { t with filetOver := satInc t.filetOver } else s

/-- Write the trailer: the reservation shrinks to the bytes written (R216). -/
def closeEntry (i : Nat) (id : FrameId) (basted : Bool) (m : Marks) (s : State) : State :=
  updEntry i id basted (fun e =>
    let p := trailerPacket id (marksOr e.marks m) e.lines e.payload e.ePeak
    let w := e.written + packetBytes p
    { e with waiting := e.waiting ++ [p], written := w, reserved := w, marks := marksOr e.marks m, closed := true }) s

/-- Stream i has frame `id` open. -/
def entryOpen (s : State) (i : Nat) (id : FrameId) (basted : Bool) : Bool :=
  (stream s i).entries.any fun e => e.kind == .frame && e.id == id && e.basted == basted && !e.closed

/-! ### Leaving the port (R217, R219) -/

/-- A frame has finished leaving the port: it is counted and, under DECIMATE, the level falls where the buffer is less
than one quarter full (R217, R222). -/
def frameLeft (i : Nat) (e : StreamEntry) (s : State) : State :=
  if e.kind != .frame then s else
    updStream s i fun t =>
      let low := decide (4 * frameBytes t < frameSpace (streamCfg s i))
      { t with framesSent := satInc t.framesSent, lastFrameBytes := wordOf e.sentBytes,
               decim := if low then t.decim - 1 else t.decim,
               decimPhase := if low && t.decim > 0 then 0 else t.decimPhase }

/-- Remove the entry at the head of the stream once its last packet has left. -/
def retireHead (i : Nat) (s : State) : State :=
  match (stream s i).entries with
  | e :: es =>
    if e.closed && e.waiting.isEmpty then frameLeft i e (updStream s i fun t => { t with entries := es }) else s
  | [] => s

/-- The first entry that still has packets waiting, when nothing before it is unfinished. -/
def headWaiting (s : State) (i : Nat) : Option (StreamEntry × List Word × List (List Word)) :=
  match (stream s i).entries with
  | e :: _ =>
    match e.waiting with
    | p :: ps => some (e, p, ps)
    | [] => none
  | [] => none

/-- The packet at the head of stream i leaves: it takes the next PSEQ, and its header marks the frame begun (R201, R216).
Answers the packet as sent. The frame is counted when it is retired. -/
def leavePacket (i : Nat) (s : State) : Option (List Word × State) :=
  match headWaiting s i with
  | none => none
  | some (e, p, ps) =>
    let port : BitVec 9 := ((assignOf s i).map (·.port)).getD 0
    let w := finishPacket p (stream s i).pseq port
    let isHeader := fldN (p.headD 0) 28 4 == 1
    let isLine := fldN (p.headD 0) 28 4 == 2
    let e1 := { e with
      waiting := ps, begun := true, sentBytes := e.sentBytes + 4 * w.length
      sentLines := if isLine then e.sentLines + 1 else e.sentLines
      sentPayload := if isLine then e.sentPayload + 4 * (p.length - 3) else e.sentPayload
      sentPeak := if isLine then max e.sentPeak (e.peaks.headD 0) else e.sentPeak
      peaks := if isLine then e.peaks.tail else e.peaks }
    let s1 := updStream s i fun t => { t with
      pseq := t.pseq + 1
      entries := e1 :: t.entries.tail
      bastedOut := if isHeader && e.kind == .frame then (if e.basted then some e.id else
        if t.bastedOut == some e.id then none else t.bastedOut) else t.bastedOut }
    let s2 := { s1 with out := { s1.out with packets := s1.out.packets ++ [⟨i, w⟩] } }
    some (w, s2)

/-! ### Stopping a stream (R200) -/

/-- The frame in transmission ends at this packet boundary with a trailer marked INCOMPLETE, over what has been sent; `found`:
the marks found since its header was written (R200, R205, R206). -/
def cutEntry (found : Marks) (e : StreamEntry) : StreamEntry :=
  if e.kind != .frame then e
  else if e.closed && e.waiting.isEmpty then e
  else
    let m := { marksOr e.marks found with incomplete := true }
    { e with waiting := [trailerPacket e.id m e.sentLines e.sentPayload e.sentPeak], peaks := [], marks := m, closed := true }

/-- Channel i forms the inset of an enabled stream (R181). -/
def insetUsers (s : State) (i : Nat) : Bool :=
  (List.range 8).any fun h =>
    (stream s h).enabled && (streamCfg s h).insetEn && (streamCfg s h).insetSrc.toNat == i

/-- A processed channel that runs: its stream is enabled, or an enabled stream shows it as an inset. -/
def channelUp (s : State) (i : Nat) : Bool :=
  !isRaw20 (streamCfg s i) && ((stream s i).enabled || insetUsers s i)

/-- A channel that no longer runs decides anew when it runs again (R176). -/
def forgetTaken (i : Nat) (s : State) : State :=
  if channelUp s i then s else updChannel s i fun c => { c with lastTaken := none, decision := none }

/-- Stop stream i: the frame in transmission completes, or with `cut` ends INCOMPLETE; frames that wait are discarded
unsent; RETRACT follows for a basted frame carried and not superseded; its HISTORY_READ queue empties; enabled again, it carries no basted
version already decided on (R117, R118, R200). `found`: marks of a frame found since its header. -/
def stopStream (i : Nat) (cut : Bool) (reason : Nat) (found : FrameId → Bool → Marks) (s : State) : State :=
  let s := { s with accum := { s.accum with basteCarried := s.accum.basteCarried.filter (· != i) } }
  let s1 := updStream s i fun t => { t with
    enabled := false
    stopping := true
    entries := (t.entries.filter fun e => e.begun || e.kind == .retract).map fun e =>
      if cut && e.begun then cutEntry (found e.id e.basted) e else e }
  let s2 := match (stream s1 i).bastedOut with
    | some id => sendRetract i id reason s1
    | none => s1
  let s3 := if (streamCfg s i).insetEn then forgetTaken (streamCfg s i).insetSrc.toNat s2 else s2
  forgetTaken i (updChannel s3 i fun c => { c with
    histQueue := [], rawLost := [], run := if cut then none else c.run, raw := if cut then none else c.raw })

/-- Start stream i: its packet sequence begins at 0 and it takes its first frame under R176 (R199). -/
def startStream (i : Nat) (s : State) : State :=
  let s1 := updStream s i fun t => { t with
    enabled := true, stopping := false, pseq := 0, missed := 0, bufPeak := 0, decim := 0, decimPhase := 0,
    decimDecision := none, bastedOut := none }
  updChannel s1 i fun c => { c with
    lastTaken := none, decision := none, misfitRaised := false, insetLostRaised := false, rawSeen := s.history.placed
    rawLost := [] }

end Sys2Proof.Machine
end

