-- ==== Sys2Proof/Machine/History.lean ====
section
/-! DEFINITION. Channel decisions (R176), the history ring (R21, R115–R117), freezes (R81, R82) and the temperatures of a
version (R139). -/
namespace Sys2Proof.Machine

/-! ### Temperatures (R139, R372) -/

/-- A 16-bit sensor reading as an integer, 1/16 °C. -/
def sensorValue (x : Sensor) : Int := x.reading.toInt

/-- The valid readings among sensors lo to lo + n - 1. -/
def validReadings (s : State) (lo n : Nat) : List Int :=
  (((s.power.sensors.drop lo).take n).filter (·.valid)).map sensorValue

/-- Sum of a list of integers. -/
def sumInt (l : List Int) : Int := l.foldl (· + ·) 0

/-- The temperatures that valid readings give now; none with neither a pixel-wafer nor a logic-wafer sensor valid. -/
def tempSource (s : State) : Option TempSource :=
  let corner (i : Nat) : Sensor := s.power.sensors.getD i {}
  let valid := validReadings s 0 4
  let c := s.power.sensors.getD 4 {}
  if valid.isEmpty && !c.valid then
    let lg := validReadings s 5 8
    if lg.isEmpty then none
    else some (.uniform ((2 * sumInt lg + lg.length) / (2 * lg.length)))
  else
    let rep : Int := if valid.isEmpty then 48 * sensorValue c else 48 * sumInt valid / valid.length
    let v (i : Nat) : Int := if (corner i).valid then 48 * sensorValue (corner i) else rep
    let centre : Int := if c.valid then 48 * sensorValue c else (v 0 + v 1 + v 2 + v 3) / 4
    some (.pixel (v 0) (v 1) (v 2) (v 3) centre)

/-- Some pixel-wafer sensor is valid. -/
def pixelSensorValid (s : State) : Bool := !(validReadings s 0 5).isEmpty

/-! ### Channel decisions (R176) -/

/-- The LOCAL context, if there is one. -/
def localCtx (s : State) : Option Nat :=
  if s.front.ctx0.kind == 1 then some 0 else if s.front.ctx1.kind == 1 then some 1 else none

/-- Stream i takes its frames from context k. -/
def fromCtx (s : State) (i k : Nat) : Bool := b2n (streamCfg s i).source == k

/-- Whether channel i takes frame `id`: decided once per FRAME_ID (R176). -/
def decideTake (i : Nat) (id : FrameId) (s : State) : Bool × State :=
  let c := channel s i
  let fresh : Bool := match c.lastTaken with
    | none => true
    | some l => decide ((streamCfg s i).every.toNat ≤ (id - l).toNat)
  match c.decision with
  | some (d, keep) =>
    if d = id then (keep, s)
    else (fresh, updChannel s i fun c => { c with
      decision := some (id, fresh), lastTaken := if fresh then some id else c.lastTaken })
  | none =>
    (fresh, updChannel s i fun c => { c with
      decision := some (id, fresh), lastTaken := if fresh then some id else c.lastTaken })

/-- Stream i carries basted versions: BASTE_EN without RECORD, basting not suspended (R118, R176). -/
def carriesBasted (s : State) (i : Nat) : Bool :=
  (stream s i).enabled && (streamCfg s i).basteEn && !(streamCfg s i).record &&
  !(((assignOf s i).map (·.suspended)).getD false)

/-- What a header says about a frame of this device (R204). -/
def ownHeader (s : State) (f : FrameRec) : SrcHeader where
  id := f.id
  stamp := f.stamp
  variantMl := s.rst.fuses.variantMl
  bin := f.cfg.readout.bin
  srcNode := s.ring.addr

/-- The header information of a frame of this device on stream i. -/
def ownInfo (s : State) (i : Nat) (f : FrameRec) (m : Marks) (hist : Bool) : FrameInfo where
  id := f.id
  hdr := ownHeader s f
  marks := m
  hist := hist
  cropY := (f.pipe.cropY0.getD i 0).toNat
  cropX := (f.pipe.cropX0.getD i 0).toNat

/-- Basted version `id` is still on its way through the front or a channel. -/
def bastedRuns (s : State) (id : FrameId) : Bool :=
  s.front.versions.any (fun v => v.basted && v.id == id) ||
  s.back.channels.any fun c => c.run.any fun r => r.basted && r.id == id

/-- Frame `id` will not follow its basted version: where that is still on its way it enters no stream any more (R120, R122;
log entry 161). -/
def withdraw (id : FrameId) (s : State) : State :=
  { s with accum := { s.accum with withdrawn := (s.accum.withdrawn.filter (· != id) ++ [id]).filter (bastedRuns s) } }

/-- The front will never read finished frame `id`: nothing supersedes its basted version, which RETRACT withdraws where its
header has left (R120, R122; log entry 207). -/
def neverFollows (id : FrameId) (s : State) : State := retractFrame id 3 (withdraw id s)

/-- A frame that channel i takes arrives DROPPED: it counts as taken, and an enabled stream sends its DROPPED form or RETRACT
(R176, R211). -/
def dropOn (i : Nat) (f : FrameInfo) (reason : Nat) (s : State) : State :=
  let (take, s) := decideTake i f.id s
  if take && (stream s i).enabled then putDropped i f reason s else s

/-- The front skips finished frame f: every processed channel of the LOCAL context that takes it has it arrive DROPPED (R21,
R122). -/
def skipOnStreams (f : FrameRec) (s : State) : State :=
  (List.range 8).foldl (fun s i =>
    if channelUp s i && localCtx s == some (b2n (streamCfg s i).source) then dropOn i (ownInfo s i f {} false) 3 s
    else s) (withdraw f.id s)

/-- Count a RAW20 frame dropped (R180). -/
def countBypass (s : State) : State := { s with back := { s.back with bypassDropped := satInc s.back.bypassDropped } }

/-! ### Placing finished frames (R21, R115) -/

/-- The frame in history slot k. -/
def histSlot (s : State) (k : Nat) : Option HistFrame := s.history.slots.getD k none

/-- The state with history slot k set. -/
def setHistSlot (s : State) (k : Nat) (h : Option HistFrame) : State :=
  { s with history := { s.history with slots := s.history.slots.set k h } }

/-- The state with the frame in slot k changed. -/
def updHist (s : State) (k : Nat) (f : HistFrame → HistFrame) : State := setHistSlot s k ((histSlot s k).map f)

/-- Slots with the frames they hold. -/
def heldSlots (s : State) : List (Nat × HistFrame) :=
  (List.range 20).filterMap fun k => (histSlot s k).map fun h => (k, h)

/-- Frames in rolling use. -/
def rolling (s : State) : List (Nat × HistFrame) := (heldSlots s).filter fun x => !x.2.frozen

/-- A reader is reading the frame at this moment (R21). -/
def pinned (h : HistFrame) : Bool := h.frontReading || !h.rawReaders.isEmpty

/-- The element placed first. -/
def oldest (l : List (Nat × HistFrame)) : Option (Nat × HistFrame) :=
  l.foldl (fun a x => match a with
    | none => some x
    | some y => if x.2.order < y.2.order then some x else some y) none

/-- The frame released next after those RAW20 channel i has passed. -/
def nextRaw (s : State) (i : Nat) : Option (Nat × HistFrame) :=
  oldest ((heldSlots s).filter fun x => decide ((channel s i).rawSeen < x.2.order))

/-- RAW20 channel i passes the frames it has lost, each in its place in the order of release and not while it begins another:
one it takes leaves as DROPPED (R176, R180, R211). `fuel` bounds them. -/
def passLost (i : Nat) : Nat → State → State
  | 0, s => s
  | n + 1, s =>
    match (channel s i).rawLost with
    | [] => s
    | l :: ls =>
      if ((nextRaw s i).any fun x => decide (x.2.order < l.order)) || ((channel s i).raw.any fun r => !r.offered) then s
      else
        let (take, s) := decideTake i l.frame.id s
        let s := updChannel s i fun c => { c with rawSeen := l.order, rawLost := ls }
        passLost i n (if take then countBypass (putDropped i (ownInfo s i l.frame {} false) 3 s) else s)

/-- Insert a lost frame in order of release. -/
def insertLost (x : RawLost) : List RawLost → List RawLost
  | [] => [x]
  | y :: ys => if x.order < y.order then x :: y :: ys else y :: insertLost x ys

/-- A slot goes before RAW20 channels have begun its frame: each of them has lost it (R180). -/
def rawMissed (h : HistFrame) (s : State) : State :=
  (List.range 8).foldl (fun s i =>
    if (stream s i).enabled && isRaw20 (streamCfg s i) && decide ((channel s i).rawSeen < h.order) then
      let s := updChannel s i fun c => { c with rawLost := insertLost ⟨h.order, h.frame⟩ c.rawLost }
      passLost i (channel s i).rawLost.length s
    else s) s

/-- RAW20 channels end the frame h they are reading because its slot is overwritten: TRAILER marked INCOMPLETE beside the
marks found so far, or the DROPPED form where the frame's header is not written yet (R180, R206). -/
def rawCut (slot : Nat) (h : HistFrame) (s : State) : State :=
  (List.range 8).foldl (fun s i =>
    match (channel s i).raw with
    | some r =>
      if r.slot = slot then
        let s := updChannel s i fun c => { c with raw := none }
        passLost i 20 (countBypass (if r.offered then closeEntry i r.id false { r.marks with incomplete := true } s
          else putDropped i (ownInfo s i h.frame {} r.hist) 3 s))
      else s
    | none => s) s

/-- Free slot k: a frame that the front has never begun is skipped, and RAW20 channels that have not begun it send DROPPED
(R21, R180). -/
def freeSlot (k : Nat) (h : HistFrame) (s : State) : State :=
  let s := setHistSlot s k none
  let s := if h.frontRead || h.frontReading || h.neverRead then s
    else skipOnStreams h.frame { s with accCnt := { s.accCnt with frontSkipped := satInc s.accCnt.frontSkipped } }
  rawMissed h s

/-- Bring the rolling frames down to `keep`, oldest unpinned first; `fuel` bounds the slots. -/
def bringDown (keep : Nat) : Nat → State → State
  | 0, s => s
  | n + 1, s =>
    if (rolling s).length ≤ keep then s
    else match oldest ((rolling s).filter fun x => !pinned x.2) with
      | none => s
      | some (k, h) => bringDown keep n (freeSlot k h s)

/-- Slots that may hold a frame, slot 0 last; not slot 0 while the pre-reference plane borrows it (R91, log entry 32). -/
def usableSlots (c : CaptureCfg) : List Nat := rangeFrom 1 19 ++ (if usesPreRef c then [] else [0])

/-- The chests are writing a frame's finished tiles into slot k. -/
def beingWritten (s : State) (k : Nat) : Bool := s.accum.frames.any fun a => a.slot == some k

/-- The slot a finished frame goes into, freed if need be (R21). -/
def chooseSlot (c : CaptureCfg) (s : State) : Option Nat × State :=
  let s := bringDown (c.accum.histH.toNat - 1) 20 s
  match (usableSlots c).find? fun k => (histSlot s k).isNone && !beingWritten s k with
  | some k => (some k, s)
  | none =>
    match oldest ((rolling s).filter fun x => !x.2.frontReading && !x.2.rawReaders.isEmpty) with
    | some (k, h) => (some k, freeSlot k { h with rawReaders := [] } (rawCut k h s))
    | none => (none, s)

/-- The start of history slot k in a tile's drawer (R90). -/
def histBase (t k : Nat) : Nat := drawerBase t + 0xE000 + 0x2800 * k

/-- The 20-bit plane of a tile as stored, from its pixel values: pixel p = 64 py + px (R90). A binned tile occupies the
first 32 pixels of the first 32 rows. -/
def planeBytes (side : Nat) (v : Nat → Nat) : List Byte :=
  if side = 64 then pack20 ((List.range 4096).map v)
  else (List.range 32).flatMap fun y => pack20 ((List.range 64).map fun x => if x < 32 then v (64 * y + x) else 0)

/-- Set entry `k` of every tile's descriptor file from a map by tile, an unlisted tile's to `dflt` (R93, R106). -/
def writeDescs (k : Nat) (dflt : Word) (byTile : List (Nat × Word)) (s : State) : State :=
  let old := s.desc.filter fun e => e.1 % 22 != k || decide (22 * 12288 ≤ e.1)
  let new := if dflt = 0 then byTile.map fun e => (22 * e.1 + k, e.2)
    else (List.range 12288).filterMap fun t =>
      let w := smGet dflt byTile t
      if w = 0 then none else some (22 * t + k, w)
  let kept (w : Nat) : Bool := decide (w < descWord0) || (w - descWord0) % 11 != k / 2
  { s with
    desc := smMerge (old.length + new.length + 1) old new
    dramBad := s.dramBad.filter kept
    dramSoft := s.dramSoft.filter kept }

/-! ### Freezes (R81, R82, R117) -/

/-- The frame lies in the range of `k` frames that ends with `last`. -/
def inRange (last : FrameId) (k : Nat) (id : FrameId) : Bool := decide ((last - id).toNat < k)

/-- Take the frozen set of the `k` frames up to `last`, those that are finished and held (R81); an empty set is not kept
(R82). -/
def takeFreeze (last : FrameId) (k : Nat) (s : State) : State :=
  let s := { s with history := { s.history with freezeActive := none } }
  let set := (heldSlots s).filter fun x => inRange last k x.2.frame.id
  let ids := set.map fun x => x.2.frame.id
  let first := ids.foldl (fun a i => if (last - a).toNat < (last - i).toNat then i else a) last
  let newest := ids.foldl (fun a i => if (last - i).toNat < (last - a).toNat then i else a) first
  if ids.isEmpty then raise 0x010A 0 (last - BitVec.ofNat 32 k + 1).toNat last.toNat s
  else
    let s := set.foldl (fun s x => updHist s x.1 fun h => { h with frozen := true }) s
    raise 0x010A ids.length first.toNat newest.toNat
      { s with history := { s.history with frozenSet := some (ids.length, first, newest) } }

/-- Frame `last` is finished already, or will never be: it is not later than the last frame released, or capture counts as
stopped and it began; a freeze that fires then does not wait for a frame still being accumulated (R82; log entry 195). -/
def freezeDue (s : State) (last : FrameId) : Bool :=
  (heldSlots s).any (fun x => x.2.frame.id == last) ||
  (s.exposure.begun && FrameId.atLeast s.exposure.lastReleased last) ||
  (captureStopped s && s.exposure.begun && FrameId.atLeast s.exposure.frameId last)

/-- A frame boundary that is placed, or that a grid point places, may come at or before `tf`. -/
def boundaryBy (tf : Nat) (s : State) : Bool :=
  s.exposure.phase == .running && (s.exposure.edgeDeferred || (s.exposure.nextFb.any fun fb => decide (fb ≤ tf)) ||
    (s.exposure.trig.mode == 2 && ((gridPoint s.exposure.trig s.exposure.gridIx).any fun g => decide (cycleOfRing s g ≤ tf))))

/-- Frame f of a freeze at t_f (TCLK): the last frame started at or before it, else the frame before the first one that began
after it; none before any frame has begun (R81, R82). -/
def freezeFrame (s : State) (tf : Nat) : Option FrameId :=
  match s.exposure.starts.find? fun x => decide (x.2 ≤ tf) with
  | some x => some x.1
  | none => s.exposure.starts.getLast?.map fun x => x.1 - 1

/-- A freeze fires at t_f (TCLK). Before any frame has begun, frame f is known at the first boundary after t_f. A set whose last
frame is finished is taken at once, unless a boundary may still come by t_f; so is that of NOW with capture stopped (R81, R82). -/
def fireFreeze (w : FreezeWait) (tf : Nat) (s : State) : State :=
  if s.history.frozenSet.isSome || s.history.freezeActive.isSome then
    { s with expCnt := { s.expCnt with freezeIgnored := satInc s.expCnt.freezeIgnored } }
  else if w.source == 0 && captureStopped s then takeFreeze (s.exposure.frameId + BitVec.ofNat 32 w.post) w.k s
  else match freezeFrame s tf with
    | some f =>
      let l := f + BitVec.ofNat 32 w.post
      if freezeDue s l && !boundaryBy tf s then takeFreeze l w.k s
      else { s with history := { s.history with freezeActive := some { w with fired := true, tf := tf, last := some l } } }
    | none => { s with history := { s.history with freezeActive := some { w with fired := true, tf := tf, last := none } } }

/-- A frame begins at `fb`: a freeze whose t_f is not before it takes it as frame f; a freeze without a frame takes f as
the frame before it (R82). -/
def freezeAtBoundary (id : FrameId) (fb : Nat) (s : State) : State :=
  match s.history.freezeActive with
  | none => s
  | some w =>
    if fb ≤ w.tf then
      { s with history := { s.history with freezeActive := some { w with last := some (id + BitVec.ofNat 32 w.post) } } }
    else match w.last with
      | some l => if freezeDue s l then takeFreeze l w.k s else s
      | none =>
        let last := id - 1 + BitVec.ofNat 32 w.post
        if w.post = 0 then takeFreeze last w.k s
        else { s with history := { s.history with freezeActive := some { w with last := some last } } }

/-- A frame is finished: the freeze that waits for it takes its set. -/
def freezeAtRelease (id : FrameId) (s : State) : State :=
  match s.history.freezeActive with
  | some w => if w.last == some id then takeFreeze id w.k s else s
  | none => s

/-- Capture counts as stopped: a fired freeze takes its set (R82). -/
def freezeAtStop (s : State) : State :=
  match s.history.freezeActive with
  | some w => match w.last with
    | some l => takeFreeze l w.k s
    | none => s
  | none => s

/-- Frames queued by HISTORY_READ have not all left their streams. -/
def historyReadPending (s : State) : Bool :=
  (List.range 8).any fun i =>
    !(channel s i).histQueue.isEmpty || (((channel s i).raw.map (·.hist)).getD false) ||
    (stream s i).entries.any (·.hist)

/-- A release of the frozen set takes effect once the last queued frame has left (R117). -/
def tryRelease (s : State) : State :=
  if s.history.releaseWait && !historyReadPending s then
    match s.history.frozenSet with
    | none => { s with history := { s.history with releaseWait := false } }
    | some (n, a, b) =>
      let s := { s with history := { s.history with
        slots := s.history.slots.map fun x => x.map fun h => { h with frozen := false }
        frozenSet := none
        releaseWait := false } }
      raise 0x010B n a.toNat b.toNat s
  else s

/-! ### HISTORY_FREEZE and HISTORY_READ (R81, R82, R116) -/

/-- A timer channel drives TRG pin `p` (R446). -/
def drivenByTimer (s : State) (p : Nat) : Bool :=
  s.timers.chans.any fun c => c.cfg.outEn && c.cfg.outPin.toNat == p

/-- HISTORY_FREEZE. -/
def historyFreezeBody (c : Cmd) (s : State) : CmdResult :=
  let w0 := paramAt c.words 0
  let source := fldN w0 0 2
  let pin := fldN w0 2 3
  let k := if c.words.isEmpty then 1 else fldN w0 8 4
  let post := fldN w0 16 5
  let h := s.exposure.cfg.accum.histH.toNat
  judged c.words [0x1F0FFF - 0xC0, 0xFFFFFFFF, 0xFFFFFFFF] s <|
    if source = 3 then
      if s.history.frozenSet.isSome then
        cmdOk (tryRelease { s with history := { s.history with releaseWait := true } })
      else cmdOk s
    else if k = 0 || 10 < k || h < k || (if usesPreRef s.exposure.cfg then 19 else 20) < h + k || k ≤ post then cmdBad s 0
    else if source = 1 && drivenByTimer s pin then cmdBad s 0
    else if source = 0 && captureStopped s && (heldSlots s).isEmpty then cmdRefuse s .wrongState
    else if s.history.frozenSet.isSome || s.history.freezeActive.isSome then cmdRefuse s .busy
    else
      let w : FreezeWait := {
        source := fld w0 0 2, pin := fld w0 2 3, falling := bitAt w0 5, k := k, post := post,
        rt := join64 (paramAt c.words 1) (paramAt c.words 2) }
      if source = 0 then cmdOk (fireFreeze w s.now.tclk s)
      else cmdOk { s with history := { s.history with freezeWait := some w } }

/-- HISTORY_READ. Refusals in the default order of R326; a range belongs to no set while none is frozen (R116; log entry
206). -/
def historyReadBody (c : Cmd) (s : State) : CmdResult :=
  let i := fldN (paramAt c.words 0) 0 3
  let first := paramAt c.words 1
  let count := if c.words.length < 3 then 1 else fldN (paramAt c.words 2) 0 4
  judged c.words [7, 0xFFFFFFFF, 15] s <|
    let ids := (List.range count).filterMap fun d =>
      let id := first + BitVec.ofNat 32 d
      if (heldSlots s).any fun x => x.2.frozen && x.2.frame.id == id then some id else none
    if count = 0 || 10 < count then cmdBad s 2
    else if s.history.frozenSet.isNone then cmdRefuse s .wrongState
    else if ids.isEmpty then cmdBad s 1
    else if !((stream s i).enabled && isRaw20 (streamCfg s i)) then cmdRefuse s .wrongState
    else if historyReadPending s then cmdRefuse s .busy
    else cmdOk (updChannel s i fun c => { c with histQueue := ids }) [wordOf ids.length, ids.headD 0]

/-- The named ring time of a RING_TIME freeze is reached (R81). -/
def execRingTimeFreeze (t : Instant) (s : State) : Result :=
  let s := setNow t s
  match s.history.freezeWait with
  | some w =>
    if w.source == 2 && decide (w.rt.toNat ≤ ringNs s) then
      .next (fireFreeze w (cycleOfRing s w.rt.toNat) { s with history := { s.history with freezeWait := none } })
    else .next s
  | none => .next s

/-- A qualified edge on pin `p`, dated `e`: the freeze that waits for it fires at the edge + 120 ns (R81, R445). -/
def pinFreeze (p : Nat) (falling : Bool) (e : Nat) (s : State) : State :=
  match s.history.freezeWait with
  | some w =>
    if w.source == 1 && w.pin.toNat == p && w.falling == falling then
      fireFreeze w (e + 12) { s with history := { s.history with freezeWait := none } }
    else s
  | none => s

end Sys2Proof.Machine
end

