-- ==== Sys2Proof/Machine/TileFloat.lean ====
section
/-! DEFINITION. Accumulator words, the update rules and the tile-float version of a tile (R92, R101–R106). -/
namespace Sys2Proof.Machine

/-- The stages of an accumulator word (R92). -/
inductive AccKind where
  | counting
  | void
  | clip
deriving DecidableEq, Repr

/-- An accumulator word taken apart: rank of the held rung, samples used, sum. -/
structure AccWord where
  rank : Nat := 0
  kind : AccKind := .counting
  ucount : Nat := 0
  sum : Int := 0
deriving DecidableEq, Repr

/-- Read an accumulator word; `br`: BRACKETED layout (R92). -/
def accDecode (br : Bool) (w : Word) : AccWord :=
  let u := if br then fldN w 25 5 else fldN w 25 6
  let top := if br then 30 else 62
  { rank := if br then fldN w 30 2 else 0
    kind := if u = top then .void else if u = top + 1 then .clip else .counting
    ucount := u
    sum := (fld w 0 25).toInt }

/-- The word of an accumulator value. -/
def accEncode (br : Bool) (a : AccWord) : Word :=
  let top := if br then 30 else 62
  let u := match a.kind with
    | .void => top
    | .clip => top + 1
    | .counting => a.ucount
  mkWord [((BitVec.ofInt 25 a.sum).toNat, 0), (u, 25), (if br then a.rank else 0, 30)]

/-- One used sample in ACCUMULATED and ZONED modes (R102). -/
def accZoned (a : AccWord) (x : Int) (sat : Bool) : AccWord :=
  match a.kind with
  | .counting => if sat then { a with kind := .clip } else { a with sum := a.sum + x, ucount := a.ucount + 1 }
  | _ => a

/-- One used sample of rank `r` in BRACKETED mode; `exps` holds the exponents by rank (R103). -/
def accBracketed (exps : List Nat) (a : AccWord) (x : Int) (sat : Bool) (r : Nat) : AccWord :=
  let rLast := exps.length - 1
  let h := a.rank
  match a.kind with
  | .counting =>
    if r < h then a
    else if r = h then
      if !sat then { a with sum := a.sum + x, ucount := a.ucount + 1 }
      else if h = rLast then { a with kind := .clip }
      else { a with rank := h + 1, sum := 0, ucount := 0 }
    else if !sat && decide (0 < a.ucount) && decide (x * 2 ^ (exps.getD r 0 - exps.getD h 0) ≤ 32632) then a
    else if !sat then { a with rank := r, sum := x, ucount := 1 }
    else if r = rLast then { a with kind := .clip }
    else { a with rank := r + 1, sum := 0, ucount := 0 }
  | _ => a

/-- How a frame accumulates: BRACKETED with its rank exponents, or not. -/
structure AccMode where
  bracketed : Bool
  exps : List Nat
deriving DecidableEq, Repr

/-- The accumulation mode of a frame. -/
def accModeOf (f : FrameRec) : AccMode where
  bracketed := isBracketed f.cfg
  exps := (brkRanks f.cfg).map fun k => rungExp f.params k

/-- Rank of the rung of sub-frame j (R103). -/
def rankAt (f : FrameRec) (j : Nat) : Nat := (brkRanks f.cfg).findIdx fun k => k == frameRung f 0 j

/-- One used sample by the frame's mode. -/
def accUpdate (m : AccMode) (a : AccWord) (x : Int) (sat : Bool) (r : Nat) : AccWord :=
  if m.bracketed then accBracketed m.exps a x sat r else accZoned a x sat

/-- x of a sample word: VALUE - 128 (R101). -/
def sampleX (w : Nat) : Int := (w % 32768 : Nat) - 128

/-- SATF of a sample word (R34). -/
def sampleSat (w : Nat) : Bool := w.testBit 16

/-! ### The version of a tile (R104) -/

/-- What a pixel counts as when a version is formed. -/
inductive PixKind where
  | normal
  | clip
  | void
  | empty
deriving DecidableEq, Repr

/-- A pixel with RANK > 0 and UCOUNT = 0 counts as CLIP, one with RANK = 0 and UCOUNT = 0 as empty (R103). -/
def pixKind (a : AccWord) : PixKind :=
  match a.kind with
  | .void => .void
  | .clip => .clip
  | .counting => if a.ucount = 0 then (if a.rank = 0 then .empty else .clip) else .normal

/-- q(p, E) of R104 for sum a, count u, held exponent e. -/
def quotient (a : Int) (u e top : Nat) : Int :=
  if top ≤ e then (64 * a * 2 ^ (e - top) + u) / (2 * u)
  else (64 * a + u * 2 ^ (top - e)) / (u * 2 ^ (top - e + 1))

/-- The exponent a pixel holds: that of its rung's rank, or the tile's. -/
def heldExp (m : AccMode) (e0 : Nat) (a : AccWord) : Nat := if m.bracketed then m.exps.getD a.rank 0 else e0

/-- The tile exponent search of R104, from E upward. -/
def raiseExp (m : AccMode) (e0 : Nat) (normals : List AccWord) : Nat → Nat → Nat
  | 0, top => top
  | n + 1, top =>
    if normals.any fun a => decide (0xFFFFE < quotient a.sum a.ucount (heldExp m e0 a) top + 256) then
      raiseExp m e0 normals n (top + 1)
    else top

/-- A formed tile: its exponent, the ranks that count for RUNG and its mantissas. -/
structure FormedTile where
  exp : Nat
  shortest : Nat
  mantissas : List Nat
  voids : BitVec 64
deriving DecidableEq, Repr

/-- The mantissa of one pixel at tile exponent E. -/
def mantissa (m : AccMode) (e0 top : Nat) (a : AccWord) : Nat :=
  match pixKind a with
  | .normal => (clampI 0 0xFFFFE (quotient a.sum a.ucount (heldExp m e0 a) top + 256)).toNat
  | .clip => 0xFFFFF
  | _ => 256

/-- The block-void bitmap from what each pixel of a tile in storage order counts for (R147). -/
def voidBitmap (side : Nat) (gone : Nat → Bool) : BitVec 64 :=
  let n := side / 8
  let bits := (List.range 64).filter fun b =>
    (List.range (n * n)).all fun i => gone (side * (n * (b / 8) + i / n) + n * (b % 8) + i % n)
  BitVec.ofNat 64 (bits.foldl (fun a b => a + 2 ^ b) 0)

/-- Form the version of a tile from its accumulator words; `e0` is the exponent of the tile's rung, in BRACKETED mode that
of rank 0 (R104). -/
def formTile (m : AccMode) (side e0 : Nat) (words : List AccWord) : FormedTile :=
  let counting := words.filter fun a => pixKind a == .normal || pixKind a == .empty
  let eLo := if m.bracketed then
      counting.foldl (fun e a => min e (heldExp m e0 a)) (if counting.isEmpty then e0 else 12)
    else e0
  let normals := words.filter fun a => pixKind a == .normal
  let top := raiseExp m e0 normals (12 - eLo) eLo
  let gone := (words.map fun a => pixKind a == .void || pixKind a == .empty).toArray
  { voids := voidBitmap side fun i => gone.getD i false
    exp := top
    shortest := counting.foldl (fun r a => max r a.rank) 0
    mantissas := words.map (mantissa m e0 top) }

/-- The tile descriptor (R106). -/
def tileDescriptor (basted : Bool) (ta : TileAcc) (conf : Nat) (rung e : Nat) : Word :=
  mkWord [(e, 0), (rung, 4), (ta.neff, 7), (b2n ta.sat, 13), (b2n ta.ghost, 14), (b2n ta.stale, 15),
    ((BitVec.ofInt 6 ta.mvx).toNat, 16), ((BitVec.ofInt 6 ta.mvy).toNat, 22), (conf, 28), (b2n basted, 31)]

end Sys2Proof.Machine
end

