-- ==== Sys2Proof/Machine/Accum.lean ====
section
/-! DEFINITION. Accumulation in the drawers: sample use, motion vectors, the pass of a tile, basted and finished versions and
their release (R89–R123). -/
namespace Sys2Proof.Machine

/-! ### Addresses (R90) -/

/-- Raw slot `slot` of tile t. -/
def rawBase (t slot : Nat) : Nat := drawerBase t + 0x4000 + 0x2800 * slot
/-- The accumulator plane of tile t. -/
def accBase (t : Nat) : Nat := drawerBase t
/-- The auxiliary area of tile t: pre-reference plane or basted copy (R91). -/
def auxBase (t : Nat) : Nat := drawerBase t + 0xB800

/-- Key of a sample excluded at arrival: raw slot, tile, pixel. -/
def exclKey (slot t p : Nat) : Nat := (slot * 12288 + t) * 4096 + p

/-- The pixels of a tile in storage order: p = 64 py + px. -/
def tilePixels (side : Nat) : List Nat := (List.range side).flatMap fun y => (List.range side).map fun x => 64 * y + x

/-! ### Frames and jobs -/

/-- The frame in accumulation with a FRAME_ID. -/
def accFrameOf (s : State) (id : FrameId) : Option AccumFrame := s.accum.frames.find? fun a => a.frame.id == id

/-- The state with the frame `id` in accumulation changed. -/
def updAccFrame (id : FrameId) (f : AccumFrame → AccumFrame) (s : State) : State :=
  { s with accum := { s.accum with frames := s.accum.frames.map fun a => if a.frame.id == id then f a else a } }

/-- The state with job g changed. -/
def updJob (g : Nat) (f : SubJob → SubJob) (s : State) : State :=
  { s with accum := { s.accum with jobs := s.accum.jobs.map fun x => if x.g = g then f x else x } }

/-- Exponent of the rung of tile t in a frame; in BRACKETED mode that of rank 0. -/
def tileExp (f : FrameRec) (t : Nat) : Nat := rungExp f.params (tileRung f t)

/-- The rung by which tiles count as equal or different in sub-frame j (R110). -/
def sameRung (f : FrameRec) (t t' j : Nat) : Bool := frameRung f t j == frameRung f t' j

/-- Count an uncorrectable word and report it once per region and chest (R97); the regions are the rows of its table from
1. -/
def reportUe (region chest : Nat) (s : State) : State :=
  if s.accum.ueRaised.contains (4096 * region + chest) then s
  else raise 0x010C region chest 0
    { s with accum := { s.accum with ueRaised := insNat s.accum.ueRaised (4096 * region + chest) } }

/-- Uncorrectable words of a drawer found by a chest. -/
def countDrawerUe (region chest n : Nat) (s : State) : State :=
  if n = 0 then s
  else reportUe region chest { s with accCnt := { s.accCnt with memUeDrawer := satAdd s.accCnt.memUeDrawer n } }

/-- An uncorrectable word of common memory in a region that goes on (R97). -/
def countCommonUe (region ctl n : Nat) (s : State) : State :=
  if n = 0 then s
  else reportUe region ctl { s with accCnt := { s.accCnt with memUeCommon := satAdd s.accCnt.memUeCommon n } }

/-- Uncorrectable words of history slots and basted copies (R97). -/
def countPipeUe (chest n : Nat) (s : State) : State :=
  if n = 0 then s
  else reportUe 3 chest { s with accCnt := { s.accCnt with memUePipe := satAdd s.accCnt.memUePipe n } }

/-! ### Samples (R101, R105) -/

/-- A sample word as the drawer keeps it: its parity bit cleared (R90). -/
def storedWord (w : Nat) : Nat := w % 2 ^ 17

/-- Sums of the flicker series (R191): used samples without SATF, in rung-0 DN. -/
def addMu (e w : Nat) (s : State) : State :=
  if sampleSat w then s
  else { s with accum := { s.accum with muSum := s.accum.muSum + sampleX w * 2 ^ e, muCount := s.accum.muCount + 1 } }

/-- The history slot that frame f's finished tiles go into is chosen as its first finished word is written (R15, R21; log
entry 160). -/
def reserveSlot (f : FrameRec) (s : State) : State :=
  match accFrameOf s f.id with
  | some a =>
    if a.slot.isSome then s
    else
      let (k, s) := chooseSlot f.cfg s
      updAccFrame f.id (fun a => { a with slot := k }) s
  | none => s

/-- The slot of frame f. -/
def slotOfFrame (s : State) (f : FrameRec) : Option Nat := (accFrameOf s f.id).bind (·.slot)

/-- Pixel p of tile t finishes as its last sample arrives: its 20-bit word goes straight to the history slot (R15); `gone`:
it finishes without a value (R147). -/
def finishPixel (f : FrameRec) (t p v : Nat) (gone : Bool) (s : State) : State :=
  match slotOfFrame s f with
  | none => s
  | some k =>
    let s := if gone then updAccFrame f.id (fun a => { a with gone := insNat a.gone (4096 * t + p) }) s else s
    setPx20 s (histBase t k) p v

/-- A sample with SATF reached the accumulation of tile t (R106). -/
def markSat (f : FrameRec) (t : Nat) (s : State) : State :=
  updAccFrame f.id (fun a => { a with tiles := smUpd {} a.tiles t fun x => { x with sat := true } }) s

/-- With MAA OFF a sample updates its accumulator word as it arrives. Sub-frame 0 initialises the word without reading it,
the last sub-frame finishes the pixel and writes no word back (R15, R92, R104); an uncorrectable word makes both its pixels
VOID (R97). -/
def accumulateArrived (f : FrameRec) (j t p w : Nat) (ok : Bool) (s : State) : State :=
  let a := accBase t + 4 * p
  let last := j + 1 = subFrames f.cfg
  if j ≠ 0 && !ok && !last then s
  else
    let s := if j = 0 then s else correctRead a 4 s
    let bad := j ≠ 0 && dramHasBad s a 4
    let old : AccWord := if j = 0 then {} else if bad then { kind := .void } else accDecode false (memWord s.dram a)
    let new := if ok then accZoned old (sampleX w) (sampleSat w) else old
    let s := if bad then
        let v := accEncode false { kind := .void }
        dramWriteWords (countDrawerUe 2 (chestOf t) 1 s) (a / 8 * 8) [v, v]
      else s
    if last then
      let e := tileExp f t
      finishPixel f t p (mantissa ⟨false, []⟩ e e new) (pixKind new == .void || pixKind new == .empty) s
    else if bad then s
    else dramWriteWords s a [accEncode false new]

/-- A sample of pixel p of active tile t of the running readout: `ok` unless the chest rejected it (R35, R50). It goes to
the history slot (SINGLE), to the raw slot, or into the accumulator (R15). -/
def useSample (f : FrameRec) (g j t p w : Nat) (ok : Bool) (s : State) : State :=
  let e := rungExp f.params (frameRung f t j)
  let s := if ok then addMu e w s else s
  if usesRawSlots f.cfg then
    let k := exclKey (g % 2) t p
    if ok then
      setPx20 { s with accum := { s.accum with excluded := remNat s.accum.excluded k } } (rawBase t (g % 2)) p (storedWord w)
    else { s with accum := { s.accum with excluded := insNat s.accum.excluded k } }
  else
    let s := if ok && sampleSat w then markSat f t s else s
    if isSingle f.cfg then finishPixel f t p (if ok then storedWord w else 128) (!ok) s
    else accumulateArrived f j t p w ok s

/-! ### Motion vectors (R108–R113) -/

/-- The vector a record holds. -/
def recordVec (r : BitVec 16) : MotionVec where
  vx := (fld r 0 6).toInt
  vy := (fld r 6 6).toInt
  conf := fldN r 12 3

/-- A VALID record is malformed: -32, or an odd component on the AKN5016-CL (R109). -/
def recordBad (ml : Bool) (r : BitVec 16) : Bool :=
  let v := recordVec r
  v.vx == -32 || v.vy == -32 || (!ml && (v.vx % 2 != 0 || v.vy % 2 != 0))

/-- Index of tile t among the enabled tiles. -/
def enabledIndex (f : FrameRec) (t : Nat) : Nat := (enabledTiles f.cfg f.mask).findIdx fun x => x == t

/-- The record that applies to tile t: its own, or that of tile 0 in GLOBAL mode (R109). -/
def recordTile (f : FrameRec) (t : Nat) : Nat := if f.cfg.accum.maa == 1 then 0 else t

/-- The record of tile t was VALID in time: before the deadline, what the kernel has written; after it, the first
`validUpTo` records in tile index order. -/
def recordInTime (f : FrameRec) (x : SubJob) (t : Nat) : Bool :=
  !x.deadlinePassed || (if f.cfg.accum.maa == 1 then decide (0 < x.validUpTo) else decide (enabledIndex f t < x.validUpTo))

/-- The vector a chest uses for a tile, whether it was replaced (R112), and whether its record was malformed (R109). -/
structure UsedVec where
  vec : MotionVec
  replaced : Bool
  bad : Bool
deriving DecidableEq, Repr

/-- The vector used before sub-frame `x.j` in the same basis, from the earlier jobs or from what the last finished job
left (R112). -/
def usedVec (s : State) (f : FrameRec) (t : Nat) : Nat → SubJob → UsedVec
  | 0, _ => ⟨{}, true, false⟩
  | fuel + 1, x =>
    let ml := s.rst.fuses.variantMl
    let jr := refSub f.cfg
    if x.j = 0 then ⟨{}, false, false⟩
    else
      let r := smGet 0 x.records (recordTile f t)
      let valid := bitAt r 15 && recordInTime f x t
      if valid && !recordBad ml r then ⟨recordVec r, false, false⟩
      else
        let prev : MotionVec :=
          if x.j = 1 || x.j = jr + 1 then {}
          else match s.accum.jobs.find? fun y => y.g + 1 == x.g with
            | some y => (usedVec s f t fuel y).vec
            | none => smGet {} (if x.j ≤ jr then s.accum.prevC else s.accum.prevD) (recordTile f t)
        ⟨prev, true, valid⟩

/-! ### Gathering (R110) -/

/-- Pixel coordinates in the frame of pixel p of tile t. -/
def pixelAt (side t p : Nat) : Int × Int := ((side * tileX t + p % 64 : Nat), (side * tileY t + p / 64 : Nat))

/-- The enabled tile and pixel at frame coordinates. -/
def tileAt (f : FrameRec) (x y : Int) : Option (Nat × Nat) :=
  let side := tileSide f.cfg
  if x < 0 || y < 0 || (128 * side : Nat) ≤ x || (96 * side : Nat) ≤ y then none
  else
    let x := x.toNat
    let y := y.toNat
    let t := 128 * (y / side) + x / side
    if frameTile f t then some (t, 64 * (y % side) + x % side) else none

/-- A halo link between two chests is down. -/
def linkDown (x : SubJob) (a b : Nat) : Bool := a != b && (x.haloDown.contains (a, b) || x.haloDown.contains (b, a))

/-- What gathering one pixel gives: the sample word if it is used, a loss on a halo link, and a bad word touched with the
tile it lies in. -/
structure Gathered where
  word : Option Nat := none
  lost : Bool := false
  bad : List (Nat × Nat) := []
deriving DecidableEq, Repr

/-- The uncorrectable words a pixel of a 20-bit plane touches. -/
def badTouched (s : State) (t base p : Nat) : List (Nat × Nat) :=
  let w := px20Words base p
  (if s.dramBad.contains w.1 then [(w.1, t)] else []) ++
  (if w.2 ≠ w.1 && s.dramBad.contains w.2 then [(w.2, t)] else [])

/-- Planes of raw samples read for a pass, by tile. -/
abbrev Planes := List (Nat × Array Nat)

/-- The value of pixel p in the plane read for tile t. -/
def planeAt (ps : Planes) (t p : Nat) : Nat :=
  match ps.find? fun x => x.1 == t with
  | some x => x.2.getD p 0
  | none => 0

/-- The tiles a pass of tile t may read: itself and its eight neighbours. -/
def nearTiles (f : FrameRec) (t : Nat) (own : Bool) : List Nat :=
  if own then [t]
  else (List.range 12288).filter fun u => frameTile f u &&
    decide (tileX u ≤ tileX t + 1) && decide (tileX t ≤ tileX u + 1) &&
    decide (tileY u ≤ tileY t + 1) && decide (tileY t ≤ tileY u + 1)

/-- Gather the sample of job x for pixel p of tile t displaced by v. -/
def gather (s : State) (f : FrameRec) (x : SubJob) (ps : Planes) (t p : Nat) (v : MotionVec) : Gathered :=
  let side := tileSide f.cfg
  let (px, py) := pixelAt side t p
  match tileAt f (px + v.vx) (py + v.vy) with
  | none => {}
  | some (t', p') =>
    if !sameRung f t t' x.j then {}
    else if linkDown x (chestOf t) (chestOf t') then { lost := true }
    else
      let bad := badTouched s t' (rawBase t' (x.g % 2)) p'
      if !bad.isEmpty then { bad := bad }
      else if s.accum.excluded.contains (exclKey (x.g % 2) t' p') then {}
      else { word := some (planeAt ps t' p') }

/-! ### Words before the pass -/

/-- An accumulator or pre-reference word as read: VOID where the 64-bit word it lies in is uncorrectable (R97). -/
def readAcc (s : State) (m : AccMode) (words : Array Word) (base p : Nat) : AccWord :=
  if s.dramBad.contains ((base + 4 * p) / 8) then { kind := .void } else accDecode m.bracketed (words.getD p 0)

/-- The 4,096 words of a 32-bit plane. -/
def plane32 (m : Mem) (base : Nat) : Array Word := (memWords m base 4096).toArray

/-- The pre-reference word taken over to pixel p of tile t in the reference pass: that at p - c_ref (R111); VOID where a
halo link is down or its word failed parity (R98). -/
def rebase (s : State) (f : FrameRec) (m : AccMode) (x : SubJob) (pres : List (Nat × Array Word)) (t p : Nat)
    (c : MotionVec) (parity : Bool) : AccWord × Bool :=
  let (px, py) := pixelAt (tileSide f.cfg) t p
  match tileAt f (px - c.vx) (py - c.vy) with
  | none => ({}, false)
  | some (t', p') =>
    if !sameRung f t t' x.j then ({}, false)
    else if parity || linkDown x (chestOf t) (chestOf t') then ({ kind := .void }, true)
    else
      let ws := match pres.find? fun y => y.1 == t' with
        | some y => y.2
        | none => #[]
      (readAcc s m ws (auxBase t') p', false)

/-! ### The decision about a basted version (R118, R121) -/

/-- The streams that would carry a basted version now. -/
def basteStreams (s : State) : List Nat := (List.range 8).filter fun i => carriesBasted s i

/-- Whether frame n gets a basted version, decided once: a stream would carry it, and the front has finished reading the
basted version before it. -/
def chooseBaste (a : AccumFrame) (s : State) : State :=
  let s := updAccFrame a.frame.id (fun a => { a with basteDecided := true }) s
  let streams := basteStreams s
  let busy := match s.accum.baste with
    | some b => !b.read
    | none => false
  if streams.isEmpty then s
  else if busy then { s with accCnt := { s.accCnt with basteSkipped := satInc s.accCnt.basteSkipped } }
  else { s with accum := { s.accum with baste := some { frame := a.frame, ob := a.ob }, basteCarried := streams } }

/-- The pass of sub-frame k - 1 comes after the decision instant: a decision still to take is taken first. -/
def basteBefore (f : FrameRec) (x : SubJob) (s : State) : State :=
  match accFrameOf s f.id with
  | some a => if bastes f.cfg && x.j + 1 = f.cfg.accum.basteK.toNat && !a.basteDecided then chooseBaste a s else s
  | none => s

/-! ### The pass of a tile (R99, R102–R104, R110–R113, R118) -/

/-- What the passes of a tile add up to for its descriptor. -/
def nextTileAcc (jr : Nat) (x : SubJob) (u : UsedVec) (dropped counted sat : Bool) (ta : TileAcc) : TileAcc where
  neff := if counted then ta.neff + 1 else ta.neff
  conf := if counted && x.j ≠ 0 then min ta.conf u.vec.conf else ta.conf
  mvx := if jr < x.j then u.vec.vx else 0
  mvy := if jr < x.j then u.vec.vy else 0
  stale := ta.stale || u.replaced
  ghost := ta.ghost || dropped
  sat := ta.sat || sat

/-- CONF of a descriptor: 0 with MAA OFF (R106). -/
def descConf (f : FrameRec) (ta : TileAcc) : Nat := if usesMotion f.cfg then ta.conf else 0

/-- The version of a tile from its words: mantissas by pixel and its descriptor; a tile with nothing accumulated has all
pixels at M = 256 (R104, R106). -/
def formVersion (f : FrameRec) (t : Nat) (basted : Bool) (ta : TileAcc) (words : List AccWord) : FormedTile × Word :=
  let m := accModeOf f
  let ft := formTile m (tileSide f.cfg) (if m.bracketed then m.exps.getD 0 0 else tileExp f t) words
  let rung := if m.bracketed then (brkRanks f.cfg).getD ft.shortest 0 else tileRung f t
  (ft, tileDescriptor basted ta (descConf f ta) rung ft.exp)

/-- Whether frame f has a basted version that is being formed. -/
def formsBasted (s : State) (f : FrameRec) : Bool :=
  match s.accum.baste with
  | some b => b.frame.id == f.id && !b.formed
  | none => false

/-- Write a tile's basted copy and its descriptor (R118). -/
def putBasted (f : FrameRec) (t : Nat) (ft : FormedTile) (d : Word) (s : State) : State :=
  let ps := tilePixels (tileSide f.cfg)
  let m := (ps.zip ft.mantissas).foldl (fun m x => smSet 0 m x.1 x.2) []
  let plane := smGetMany 0 m 0 4096
  let s := dramWrite s (auxBase t) (planeBytes (tileSide f.cfg) fun p => plane.getD p 0)
  let withVoids (b : BasteVersion) : BasteVersion := { b with voids := smSet 0 b.voids t ft.voids }
  let s := { s with accum := { s.accum with baste := s.accum.baste.map withVoids } }
  setDesc (22 * t + 20) d s

/-- Write a tile's finished mantissas into the frame's history slot and keep its descriptor until the release (R15). -/
def putFinished (f : FrameRec) (t : Nat) (ft : FormedTile) (d : Word) (s : State) : State :=
  let s := reserveSlot f s
  let m := ((tilePixels (tileSide f.cfg)).zip ft.mantissas).foldl (fun m x => smSet 0 m x.1 x.2) []
  let plane := smGetMany 0 m 0 4096
  let s := match slotOfFrame s f with
    | some k => dramWrite s (histBase t k) (planeBytes (tileSide f.cfg) fun p => plane.getD p 0)
    | none => s
  updAccFrame f.id (fun a => { a with
    voids := smSet 0 a.voids t ft.voids
    finDesc := smSet 0 a.finDesc t d }) s

/-- In BRACKETED mode the chest collects a tile's final words in its finishing buffer before it chooses E (R93, R104). -/
def collectTile (f : FrameRec) (t : Nat) (words : List AccWord) (s : State) : State :=
  if isBracketed f.cfg then
    { s with accum := { s.accum with
      finishing := smSet [] s.accum.finishing (chestOf t) (words.map (accEncode true)) } }
  else s

/-- A tile's 32-bit plane with new values at its pixels. -/
def planeWith (old : Array Word) (ps : List Nat) (vals : List Word) : List Word :=
  ((ps.zip vals).foldl (fun (a : Array Word) x => a.setIfInBounds x.1 x.2) old).toList

/-- The chest accumulates tile t of job x, as far as the first `pixels` pixels of its storage order; `parityBad` lists
destination pixels whose halo word failed parity. -/
def tilePass (f : FrameRec) (x : SubJob) (t pixels : Nat) (parityBad : List Nat) (s : State) : State :=
  let s := basteBefore f x s
  let side := tileSide f.cfg
  let ps := tilePixels side
  let m := accModeOf f
  let jr := refSub f.cfg
  let pre := usesPreRef f.cfg
  let u := usedVec s f t 64 x
  let dropped := decide (u.vec.conf < f.cfg.accum.ghostConf.toNat) && x.j ≠ 0 && x.j ≠ jr
  let own := x.j = 0 || x.j = jr
  let v : MotionVec := if own then {} else u.vec
  let planes : Planes := (nearTiles f t own).map fun y => (y, plane20 s.dram (rawBase y (x.g % 2)))
  let base := if pre && x.j < jr then auxBase t else accBase t
  let s := (nearTiles f t own).foldl (fun s y => correctRead (rawBase y (x.g % 2)) 10240 s) s
  let s := if x.j = 0 then s else correctRead (if pre && x.j = jr then auxBase t else base) 16384 s
  let oldPlane := plane32 s.dram base
  let rebasing := pre && x.j = jr
  let pres := if rebasing then (nearTiles f t false).map fun y => (y, plane32 s.dram (auxBase y)) else []
  let step := (ps.zipIdx).map fun (p, i) =>
    let (old, lostAcc) : AccWord × Bool :=
      if x.j = 0 then ({}, false)
      else if rebasing then rebase s f m x pres t p u.vec (parityBad.contains p)
      else (readAcc s m oldPlane base p, false)
    let gth : Gathered := if dropped || pixels ≤ i then {} else gather s f x planes t p v
    let lostPar := !rebasing && parityBad.contains p && gth.word.isSome
    match gth.word with
    | some w =>
      if lostPar then (old, gth, lostAcc, true, false)
      else (accUpdate m old (sampleX w) (sampleSat w) (rankAt f x.j), gth, lostAcc, false, sampleSat w)
    | none => (old, gth, lostAcc, gth.lost, false)
  let words := step.map (·.1)
  let lost := (step.filter fun y => y.2.2.1).length + (step.filter fun y => y.2.2.2.1).length
  let sat := step.any fun y => y.2.2.2.2
  let badRaw := (step.flatMap fun y => y.2.1.bad).eraseDups
  let readBase := if rebasing then auxBase t else base
  let badAcc := if x.j = 0 then [] else (ps.map fun p => (readBase + 4 * p) / 8).eraseDups.filter s.dramBad.contains
  let done := decide (ps.length ≤ pixels)
  let counted := !dropped && done
  let ta0 := match accFrameOf s f.id with
    | some a => smGet {} a.tiles t
    | none => {}
  let ta := nextTileAcc jr x u dropped counted sat ta0
  let s := updAccFrame f.id (fun a => { a with tiles := smSet {} a.tiles t ta }) s
  let c := s.accCnt
  let s := { s with accCnt := { c with
    accOverrun := if !dropped && !done then satInc c.accOverrun else c.accOverrun
    vecStale := if u.replaced then satInc c.vecStale else c.vecStale
    vecBad := if u.bad && (f.cfg.accum.maa != 1 || !x.badCounted) then satInc c.vecBad else c.vecBad
    ghostDrops := if dropped then satInc c.ghostDrops else c.ghostDrops
    haloLost := satAdd c.haloLost lost } }
  let s := badRaw.foldl (fun s b => countDrawerUe 1 (chestOf b.2) 1 s) s
  let s := countDrawerUe 2 (chestOf t) badAcc.length s
  let s := updJob x.g (fun y => { y with badCounted := y.badCounted || u.bad, tilesDone := insNat y.tilesDone t }) s
  let s := if x.j + 1 = f.cfg.accum.basteK.toNat && formsBasted s f then
      let r := formVersion f t true ta words
      putBasted f t r.1 r.2 (collectTile f t words s)
    else s
  let s := setDesc (22 * t + 21) (formVersion f t false ta words).2 s
  if x.j + 1 = subFrames f.cfg then
    let r := formVersion f t false ta words
    putFinished f t r.1 r.2 (collectTile f t words s)
  else
    dramWriteWords s base (planeWith oldPlane ps (words.map (accEncode m.bracketed)))

/-! ### Release (R99, R115, R121) -/

/-- The mean of a sum of OB samples in 1/256 DN, rounded half up (R138). -/
def mean256 (c : SumCount) : Int := (512 * c.sum + c.count) / (2 * c.count)

/-- OB vector entries that differ from o_all. -/
def obEntries (all : Int) (l : List (Nat × SumCount)) : List (Nat × Int) :=
  (l.map fun e => (e.1, mean256 e.2)).filter fun e => e.2 ≠ all

/-- The entries of colour-binned columns or rows: the mean of the two source entries, rounded half up (R138). -/
def obBinned (all : Int) (n : Nat) (src : List (Nat × Int)) : List (Nat × Int) :=
  (List.range n).filterMap fun i =>
    let a := 4 * (i / 2) + i % 2
    let v := (smGet all src a + smGet all src (a + 2) + 1) / 2
    if v = all then none else some (i, v)

/-- The OB vectors of a version; none where no OB sample was used (R138). -/
def obVectors (ml : Bool) (c : CaptureCfg) (b : ObSums) : Option ObVec :=
  if b.all.count = 0 then none
  else
    let all := mean256 b.all
    let cols := obEntries all b.cols
    let rows := obEntries all b.rows
    if colourBin ml c then some { cols := obBinned all 4096 cols, rows := obBinned all 3072 rows, all := all }
    else some { cols := cols, rows := rows, all := all }

/-- What the black record of a version rests on, judged at its release (R209). -/
def blackAtRelease (s : State) (f : FrameRec) (b : ObSums) (temps : Option TempSource) : BlackInfo where
  ob := (obVectors s.rst.fuses.variantMl f.cfg b).getD s.front.obLast
  obLost := b.all.count == 0
  guardOrder := guardNow s
  darkEn := s.front.cfg.darkEn
  obEn := s.front.cfg.obEn || guardNow s
  temps := temps.or s.front.lastTemps
  tempsValid := temps.isSome
  dark := s.cal.dark
  pixelValid := match temps with
    | some (.pixel ..) => true
    | _ => false

/-- The LOCAL context is enabled. -/
def localEnabled (s : State) : Bool :=
  match localCtx s with
  | some k => (inputCtx s k).enable
  | none => false

/-- The descriptor of a SINGLE-mode tile (R105). -/
def singleDesc (f : FrameRec) (t : Nat) (ta : TileAcc) : Word :=
  tileDescriptor false { neff := 1, sat := ta.sat } 0 f.params.globalRung.toNat (tileExp f t)

/-- The block-void bitmaps of a frame whose pixels finish as their samples arrive: blocks without any value (R35, R147). -/
def arrivedVoids (a : AccumFrame) : List (Nat × BitVec 64) :=
  let side := tileSide a.frame.cfg
  ((a.gone.map (· / 4096)).eraseDups.mergeSort (· ≤ ·)).filterMap fun t =>
    let v := voidBitmap side fun i => a.gone.contains (4096 * t + 64 * (i / side) + i % side)
    if v = 0 then none else some (t, v)

/-- Finished frame `a` is released: it is placed in the history ring, its basted version, if the front has not begun it,
is skipped, a basted version that it will not follow is withdrawn, and a freeze that waits for it takes its set (R21, R81, R99, R121). -/
def releaseFinished (a : AccumFrame) (s : State) : State :=
  let f := a.frame
  let s := reserveSlot f s
  let slot := slotOfFrame s f
  let s := { s with accum := { s.accum with frames := s.accum.frames.filter fun x => x.frame.id != f.id } }
  let s := match slot with
    | none => s
    | some k =>
      let s := writeDescs k 0 a.finDesc s
      let h : HistFrame := {
        frame := f, ob := a.ob, black := blackAtRelease s f a.ob a.temps
        voids := if usesRawSlots f.cfg then a.voids else arrivedVoids a
        flicker := (s.accum.flicker.filter fun e => decide (e.g < f.gFirst + subFrames f.cfg))
        order := s.history.placed + 1, released := s.now.tclk, neverRead := !localEnabled s }
      let s := setHistSlot s k (some h)
      { s with history := { s.history with placed := s.history.placed + 1 } }
  let s := match s.accum.baste with
    | some b =>
      if b.frame.id == f.id && !b.begun then
        { s with accum := { s.accum with baste := none },
                 accCnt := { s.accCnt with basteSkipped := satInc s.accCnt.basteSkipped } }
      else s
    | none => s
  let s := if localEnabled s then s else neverFollows f.id s
  freezeAtRelease f.id { s with exposure := { s.exposure with lastReleased := f.id } }

/-- The basted version of frame f is released; disabled tiles' descriptors are 0 apart from BASTED (R99, R106). -/
def releaseBasted (f : FrameRec) (s : State) : State :=
  match s.accum.baste with
  | some b =>
    if b.frame.id == f.id && !b.released then
      let byTile := (enabledTiles f.cfg f.mask).map fun t => (t, smGet 0 s.desc (22 * t + 20))
      let bTemps := (accFrameOf s f.id).bind (·.bTemps)
      let b := { b with formed := true, released := true, black := blackAtRelease s f b.ob bTemps }
      let s := writeDescs 20 0x80000000 byTile s
      { s with accum := { s.accum with baste := if localEnabled s then some b else none } }
    else s
  | none => s

/-- A frame is abandoned: its sub-frames are discarded and it is never released (R123). -/
def abandonFrame (id : FrameId) (s : State) : State :=
  withdraw id { s with accum := { s.accum with
    frames := s.accum.frames.filter fun a => a.frame.id != id
    jobs := s.accum.jobs.filter fun x => x.frame != id
    baste := s.accum.baste.filter fun b => b.frame.id != id || b.begun } }

/-! ### The accumulation window (R99, R100) -/

/-- SB*(g + i): the actual boundary if it has come earlier, else SB(g) + i × T_sub (R99). -/
def sbStar (s : State) (f : FrameRec) (x : SubJob) (i : Nat) : Nat :=
  let nominal := x.sb + i * frameTSub f
  match s.accum.jobs.find? fun y => y.g == x.g + i with
  | some y => min y.sb nominal
  | none => nominal

/-- A_end(g) = SB*(g + 2) + 18.0 µs. -/
def windowEnd (s : State) (f : FrameRec) (x : SubJob) : Nat := sbStar s f x 2 + 1800

/-- VD(g) = A_end(g) - T_acc. -/
def vectorDeadline (s : State) (f : FrameRec) (x : SubJob) : Nat := windowEnd s f x - tAcc f

/-- The job under accumulation: the oldest one. -/
def frontJob (s : State) : Option (SubJob × FrameRec) :=
  match s.accum.jobs with
  | x :: _ => (accFrameOf s x.frame).map fun a => (x, a.frame)
  | [] => none

/-- The job whose tile t is next: the chest of t finishes a sub-frame before it begins the next (R99). -/
def nextJobFor (s : State) (t : Nat) : Option (SubJob × FrameRec) :=
  match s.accum.jobs.find? fun x => !x.tilesDone.contains t with
  | some x =>
    match accFrameOf s x.frame with
    | some a =>
      let before := s.accum.jobs.filter fun y => decide (y.g < x.g)
      let chestDone := before.all fun y => (List.range 12288).all fun u =>
        chestOf u != chestOf t || !frameTile a.frame u || y.tilesDone.contains u
      if chestDone then some (x, a.frame) else none
    | none => none
  | none => none

/-- A chest begins accumulating tile t: its readout has ended, and its vector is VALID or the deadline has passed. -/
def execTileAccumulationStart (t : Instant) (tile : TileIx) (pixels : Nat) (ecc : List EccHit) (parityBad : List Nat)
    (s : State) : Result :=
  let s := setNow t s
  match nextJobFor s tile.val with
  | some (x, f) =>
    let ready := x.j = 0 || x.deadlinePassed || bitAt (smGet 0 x.records (recordTile f tile.val)) 15
    if x.readDone && frameTile f tile.val && ready then
      .next (tilePass f x tile.val pixels parityBad (markEcc ecc s))
    else .next s
  | none => .next s

/-- VD(g) passes; `valid` records were VALID in time, in tile index order (R100, R112). -/
def execVectorDeadline (t : Instant) (valid : Nat) (s : State) : Result :=
  let s := setNow t s
  match s.accum.jobs.find? fun x => !x.deadlinePassed with
  | some x =>
    match accFrameOf s x.frame with
    | some a =>
      if vectorDeadline s a.frame x ≤ t.tclk && x.readDone then
        .next (updJob x.g (fun y => { y with deadlinePassed := true, validUpTo := valid }) s)
      else .next s
    | none => .next s
  | none => .next s

/-- The vectors used for a job, as the next job of its basis needs them. -/
def keepVectors (f : FrameRec) (x : SubJob) (s : State) : State :=
  let tiles := if f.cfg.accum.maa == 1 then [0] else enabledTiles f.cfg f.mask
  let used := tiles.filterMap fun t =>
    let v := (usedVec s f t 64 x).vec
    if v = {} then none else some (t, v)
  if x.j ≤ refSub f.cfg then { s with accum := { s.accum with prevC := used, prevD := [] } }
  else { s with accum := { s.accum with prevD := used } }

/-- Clear the vector table of sub-frame g in pillow 0 (R247). -/
def clearVectorTable (g : Nat) (s : State) : State :=
  { s with engines := { s.engines with
    pillows := s.engines.pillows.modify 0 fun m => smClear m (if g % 2 = 0 then 0 else 0x6000) 24576 } }

/-- A_end(g): the unaccumulated remainder is discarded, and a version whose last sub-frame is g is released (R20, R99). -/
def endWindow (x : SubJob) (f : FrameRec) (s : State) : State :=
  let x := { x with deadlinePassed := true, validUpTo := if x.deadlinePassed then x.validUpTo else 0 }
  let s := updJob x.g (fun _ => x) s
  let undone := (enabledTiles f.cfg f.mask).filter fun t => !x.tilesDone.contains t
  let s := undone.foldl (fun s t => tilePass f x t 0 [] s) s
  let s := clearVectorTable x.g (keepVectors f x s)
  let s := { s with accum := { s.accum with jobs := s.accum.jobs.filter fun y => y.g != x.g } }
  let s := if x.j + 1 = f.cfg.accum.basteK.toNat then releaseBasted f s else s
  if x.j + 1 = subFrames f.cfg then
    match accFrameOf s f.id with
    | some a => releaseFinished a s
    | none => s
  else s

/-- A_end(g) is reached. -/
def execAccumulationWindowEnd (t : Instant) (s : State) : Result :=
  let s := setNow t s
  match frontJob s with
  | some (x, f) => if windowEnd s f x ≤ t.tclk && x.readDone then .next (endWindow x f s) else .next s
  | none => .next s

/-- A halo transfer is not acknowledged: its link is down for the rest of the sub-frame; the first one since
CAPTURE_START raises HALO_FAULT (R98). -/
def execHaloAckTimeout (t : Instant) (chestA chestB : Fin 768) (s : State) : Result :=
  let s := setNow t s
  match s.accum.jobs with
  | [] => .next s
  | _ =>
    let s := { s with accum := { s.accum with
      jobs := s.accum.jobs.map fun x => { x with haloDown := x.haloDown ++ [(chestA.val, chestB.val)] } } }
    .next (if s.accum.haloRaised then s
      else raise 0x010D 0 chestA.val chestB.val { s with accum := { s.accum with haloRaised := true } })

/-! ### Basted versions (R118, R121) -/

/-- At the end of readout of sub-frame k - 1 the device decides whether frame n gets a basted version. With MAA OFF the
chests form it at once from the accumulator, and it is released (R99, R118). -/
def decideBaste (a : AccumFrame) (s : State) : State :=
  let f := a.frame
  let s := chooseBaste a s
  if usesRawSlots f.cfg || !formsBasted s f then s
  else
    releaseBasted f ((enabledTiles f.cfg f.mask).foldl (fun s t =>
      let s := correctRead (accBase t) 16384 s
      let ws := plane32 s.dram (accBase t)
      let ps := tilePixels (tileSide f.cfg)
      let words := ps.map (readAcc s (accModeOf f) ws (accBase t))
      let bad := (ps.map fun p => (accBase t + 4 * p) / 8).eraseDups.filter s.dramBad.contains
      let r := formVersion f t true (smGet {} a.tiles t) words
      putBasted f t r.1 r.2 (countDrawerUe 2 (chestOf t) bad.length s)) s)

/-- The decision instant of frame n (R118). -/
def execBasteDecision (t : Instant) (s : State) : Result :=
  let s := setNow t s
  match s.accum.frames.find? fun a =>
      bastes a.frame.cfg && !a.basteDecided && decide (a.frame.cfg.accum.basteK.toNat ≤ a.readCount) with
  | some a =>
    if sbAt a.frame (a.frame.cfg.accum.basteK.toNat - 1) + tRo s.rst.fuses.variantMl a.frame.cfg ≤ t.tclk then
      .next (decideBaste a s)
    else .next s
  | none => .next s

end Sys2Proof.Machine
end

