-- ==== Sys2Proof/Machine/BobbinCode.lean ====
section
/-! DEFINITION. The encoding of bobbin instructions: words from fields, and which words are legal (R226, R227–R236). -/
namespace Sys2Proof.Machine

/-- An instruction word from its fields: OP, RD, RA, RB and FN (R226). -/
def encWord (op rd ra rb fn : Nat) : Word := mkWord [(op, 26), (rd, 21), (ra, 16), (rb, 11), (fn, 0)]

/-- An instruction word with a 16-bit immediate in [15:0]. -/
def encImm (op rd ra imm : Nat) : Word := mkWord [(op, 26), (rd, 21), (ra, 16), (imm, 0)]

/-- The fields of a word as a legality check reads them. -/
structure Fields where
  rd : Nat
  ra : Nat
  rb : Nat
  fn : Nat

/-- Fields of a word. -/
def fieldsOf (w : Word) : Fields := ⟨fldN w 21 5, fldN w 16 5, fldN w 11 5, fldN w 0 11⟩

/-- Bits [lo + n - 1 : lo] of FN. -/
def Fields.bits (f : Fields) (lo n : Nat) : Nat := f.fn / 2 ^ lo % 2 ^ n

/-- A field that names S. -/
def isS (r : Nat) : Bool := decide (r ≤ 15)
/-- A field that names P. -/
def isP (r : Nat) : Bool := decide (r ≤ 7)
/-- A field that names A or an address generator. -/
def isA (r : Nat) : Bool := decide (r ≤ 3)

/-- SYS: functions 0 to 4; only CYCLES has a destination (R236). -/
def legalSys (f : Fields) : Bool :=
  decide (f.fn ≤ 4) && f.ra == 0 && f.rb == 0 && (if f.fn = 4 then isS f.rd else f.rd == 0)

/-- VOP and VOPS: type 0 to 2, op 0 to 0x12; MOV, NEG and ABS use no RB; NEG and ABS need a signed type (R228). -/
def legalVop (scalar : Bool) (f : Fields) : Bool :=
  let ty := f.bits 6 2
  let op := f.bits 0 6
  ty != 3 && decide (op ≤ 0x12) && (if 0x10 ≤ op then f.rb == 0 else !scalar || isS f.rb) &&
  (decide (op ≤ 0x10) || ty != 0)

/-- SOP: op 0 to 13; POPC uses no Sb (R236). -/
def legalSop (f : Fields) : Bool :=
  isS f.rd && isS f.ra && decide (f.fn ≤ 13) && (if f.fn = 13 then f.rb == 0 else isS f.rb)

/-- JMP: the jump and the call have a target, the call a destination, the return a source (R236). -/
def legalJmp (w : Word) : Bool :=
  let k := fldN w 12 4
  let f := fieldsOf w
  if k = 0 then f.rd == 0 && f.ra == 0
  else if k = 1 then isS f.rd && f.ra == 0
  else if k = 2 then f.rd == 0 && isS f.ra && fldN w 0 12 == 0
  else false

/-- ASET: with zero = 1 it has neither operand nor shift (R229). -/
def legalAset (f : Fields) : Bool :=
  isA f.rd && f.rb == 0 && f.bits 7 4 == 0 && (f.bits 6 1 == 0 || (f.ra == 0 && f.bits 0 6 == 0))

/-- VRED: SUM, MIN, MAX, EXT and INS; INS has neither predicate nor type (R231). -/
def legalVred (f : Fields) : Bool :=
  let op := f.bits 0 6
  f.bits 6 2 != 3 && decide (op ≤ 4) && (if op = 4 then isS f.ra else isS f.rd) &&
  (if op ≤ 2 then f.rb == 0 else decide (f.rb ≤ 15)) && (op != 4 || f.bits 6 5 == 0)

/-- VSHUF: ops 0 to 5; REV and BCAST use no Vb, only BCAST a lane (R231). -/
def legalVshuf (f : Fields) : Bool :=
  let op := f.bits 6 5
  decide (op ≤ 5) && f.bits 4 2 == 0 && (op = 5 || f.bits 0 4 == 0) && (!(op == 0 || op == 5) || f.rb == 0)

/-- PLOG: ops 0 to 5; NOT and MOV use no Pb (R230). -/
def legalPlog (f : Fields) : Bool :=
  isP f.rd && isP f.ra && decide (f.fn ≤ 5) && (if 4 ≤ f.fn then f.rb == 0 else isP f.rb)

/-- A word lies within the encodings of R227–R236. -/
def legalWord (w : Word) : Bool :=
  let f := fieldsOf w
  match fldN w 26 6 with
  | 0x00 => legalSys f
  | 0x01 => legalVop false f
  | 0x02 => legalVop true f
  | 0x03 => !bitAt w 20
  | 0x08 => legalSop f
  | 0x09 => isS f.rd && isS f.ra
  | 0x0A => isS f.rd && f.ra == 0
  | 0x0B => isS f.rd && isS f.ra
  | 0x0C => decide (f.rd ≤ 5) && isS f.ra && isS f.rb
  | 0x0D => legalJmp w
  | 0x0E => f.rd == 0 && isS f.ra && f.rb == 0
  | 0x10 => isA f.rd && decide (f.bits 0 6 ≤ 2)
  | 0x11 => isA f.rd && isS f.rb && decide (f.bits 0 6 ≤ 2)
  | 0x12 => isA f.ra && f.rb == 0 && f.bits 8 3 == 0
  | 0x13 => legalAset f
  | 0x18 => isP f.rd && f.bits 6 2 != 3 && f.bits 3 3 == 0 && decide (f.bits 0 3 ≤ 5)
  | 0x19 => isP f.rd && isS f.rb && f.bits 6 2 != 3 && f.bits 3 3 == 0 && decide (f.bits 0 3 ≤ 5)
  | 0x1A => f.bits 0 8 == 0
  | 0x1B => legalPlog f
  | 0x1C => f.rb == 0 && decide (f.fn ≤ 1) && (if f.fn = 0 then isS f.rd && isP f.ra else isP f.rd && isS f.ra)
  | 0x20 => decide (f.fn ≤ 16)
  | 0x21 => legalVshuf f
  | 0x22 => legalVred f
  | 0x28 => isS f.ra && f.rb == 0
  | 0x29 => isS f.ra && f.rb == 0
  | 0x2A => isA f.ra && f.rb == 0 && f.fn == 0
  | 0x2B => isA f.ra && f.rb == 0 && f.bits 0 8 == 0
  | 0x2C => isA f.rd && isS f.ra && isS f.rb && decide (f.fn ≤ 1)
  | 0x2D => isS f.rd && isS f.ra && f.rb == 0
  | 0x2E => isS f.rd && isS f.ra && f.rb == 0
  | 0x30 => isS f.rd && isS f.ra && isS f.rb && f.bits 7 4 == 0
  | 0x31 => isS f.rd && f.ra == 0 && f.rb == 0 && f.bits 3 8 == 0
  | 0x38 => f.ra == 0 && f.rb == 0 && decide (f.fn ≤ 1)
  | 0x39 => f.ra == 0 && f.rb == 0 && f.fn == 0
  | 0x3A => isS f.rd && f.ra == 0 && f.rb == 0 && f.bits 1 3 == 0 && f.bits 7 4 == 0
  | 0x3C => f.rd == 0 && f.ra == 0 && f.rb == 0 && decide (f.fn ≤ 3)
  | 0x3D => f.rd == 0 && f.ra == 0 && f.rb == 0 && f.bits 2 2 == 0 && f.bits 5 6 == 0
  | 0x3E => isS f.rd && isS f.ra && isS f.rb && decide (f.fn ≤ 3)
  | _ => false

/-! ### Words of the bobbin commands, and the command of a word (R226–R236) -/

/-- FN of the predicated, typed classes: [10:8] P, [7:6] type, the rest op. -/
def typedFn (p : BitVec 3) (ty : BitVec 2) (op : Nat) : Nat := 256 * p.toNat + 64 * ty.toNat + op

/-- FN of VMUL and VMULS. -/
def mulFn (p : BitVec 3) (asg bsg : Bool) (op : BitVec 6) : Nat :=
  256 * p.toNat + 128 * b2n asg + 64 * b2n bsg + op.toNat

/-- The word of a bobbin instruction, with the bobbin that issues it; none for the other commands. -/
def bobbinWord (i : Instr) : Option (BobbinIssue × Word) :=
  match i with
  | .nop b => some (b, encWord 0x00 0 0 0 0)
  | .halt b => some (b, encWord 0x00 0 0 0 1)
  | .publish b _ => some (b, encWord 0x00 0 0 0 2)
  | .fence b => some (b, encWord 0x00 0 0 0 3)
  | .cycles b sd _ => some (b, encWord 0x00 sd.toNat 0 0 4)
  | .vop b vd va vb p ty op => some (b, encWord 0x01 vd.toNat va.toNat vb.toNat (typedFn p ty op.toNat))
  | .vops b vd va sb p ty op => some (b, encWord 0x02 vd.toNat va.toNat sb.toNat (typedFn p ty op.toNat))
  | .vimm b vd imm => some (b, encImm 0x03 vd.toNat 0 imm.toNat)
  | .sop b sd sa sb op => some (b, encWord 0x08 sd.toNat sa.toNat sb.toNat op.toNat)
  | .saddi b sd sa imm => some (b, encImm 0x09 sd.toNat sa.toNat imm.toNat)
  | .slui b sd imm => some (b, encImm 0x0A sd.toNat 0 imm.toNat)
  | .sori b sd sa imm => some (b, encImm 0x0B sd.toNat sa.toNat imm.toNat)
  | .bcc b cond sa sb off => some (b, encWord 0x0C cond.toNat sa.toNat sb.toNat off.toNat)
  | .jmp b kind sd sa target => some (b, encImm 0x0D sd.toNat sa.toNat (4096 * kind.toNat + target.toNat))
  | .loop b sa len => some (b, encWord 0x0E 0 sa.toNat 0 len.toNat)
  | .vmul b ad va vb p asg bsg op => some (b, encWord 0x10 ad.toNat va.toNat vb.toNat (mulFn p asg bsg op))
  | .vmuls b ad va sb p asg bsg op => some (b, encWord 0x11 ad.toNat va.toNat sb.toNat (mulFn p asg bsg op))
  | .arnd b vd aa clear round s20 shift =>
    some (b, encWord 0x12 vd.toNat aa.toNat 0 (128 * b2n clear + 64 * b2n round + 32 * b2n s20 + shift.toNat))
  | .aset b ad va zero signed shift =>
    some (b, encWord 0x13 ad.toNat va.toNat 0 (64 * b2n zero + 32 * b2n signed + shift.toNat))
  | .vcmp b pd va vb p ty cond => some (b, encWord 0x18 pd.toNat va.toNat vb.toNat (typedFn p ty cond.toNat))
  | .vcmps b pd va sb p ty cond => some (b, encWord 0x19 pd.toNat va.toNat sb.toNat (typedFn p ty cond.toNat))
  | .vsel b vd va vb pn => some (b, encWord 0x1A vd.toNat va.toNat vb.toNat (256 * pn.toNat))
  | .plog b pd pa pb op => some (b, encWord 0x1B pd.toNat pa.toNat pb.toNat op.toNat)
  | .pxfer b toPred sr p =>
    some (b, if toPred then encWord 0x1C p.toNat sr.toNat 0 1 else encWord 0x1C sr.toNat p.toNat 0 0)
  | .vshift b vd va vb k => some (b, encWord 0x20 vd.toNat va.toNat vb.toNat k.toNat)
  | .vshuf b vd va vb op lane => some (b, encWord 0x21 vd.toNat va.toNat vb.toNat (64 * op.toNat + lane.toNat))
  | .vred b rd ra lane p ty op => some (b, encWord 0x22 rd.toNat ra.toNat lane.toNat (typedFn p ty op.toNat))
  | .vld b vd sa off => some (b, encWord 0x28 vd.toNat sa.toNat 0 off.toNat)
  | .vst b vs sa off => some (b, encWord 0x29 vs.toNat sa.toNat 0 off.toNat)
  | .vlda b vd ag => some (b, encWord 0x2A vd.toNat ag.toNat 0 0)
  | .vsta b vs ag p => some (b, encWord 0x2B vs.toNat ag.toNat 0 (256 * p.toNat))
  | .agset b ag sa sb half => some (b, encWord 0x2C ag.toNat sa.toNat sb.toNat (b2n half))
  | .sld b sd sa off => some (b, encWord 0x2D sd.toNat sa.toNat 0 off.toNat)
  | .sst b ss sa off => some (b, encWord 0x2E ss.toNat sa.toNat 0 off.toNat)
  | .xfer b sl sr sc tag scalar outward space =>
    some (b, encWord 0x30 sl.toNat sr.toNat sc.toNat (16 * tag.toNat + 8 * b2n scalar + 4 * b2n outward + space.toNat))
  | .xwait b sd tag => some (b, encWord 0x31 sd.toNat 0 0 tag.toNat)
  | .spop b vd queue => some (b, encWord 0x38 vd.toNat 0 0 queue.val)
  | .spush b vs => some (b, encWord 0x39 vs.toNat 0 0 0)
  | .smeta b sd queue field => some (b, encWord 0x3A sd.toNat 0 0 (16 * field.toNat + queue.val))
  | .bar b n => some (b, encWord 0x3C 0 0 0 n.val)
  | .sem b wait n => some (b, encWord 0x3D 0 0 0 (16 * b2n wait + n.val))
  | .atom b sd sa sb op => some (b, encWord 0x3E sd.toNat sa.toNat sb.toNat op.toNat)
  | _ => none

/-- A number below 2 as a queue. -/
def queueOf (w : Word) : Fin 2 := if bitAt w 0 then 1 else 0
/-- The low two bits of a word as a barrier or semaphore. -/
def syncOf (w : Word) : Fin 4 := (fld w 0 2).toFin

/-- The SYS instruction of a word's function. -/
def decodeSys (b : BobbinIssue) (t : Instant) (count w : Word) : Instr :=
  match fldN w 0 11 with
  | 0 => .nop b
  | 1 => .halt b
  | 2 => .publish b t
  | 3 => .fence b
  | _ => .cycles b (fld w 21 4) count

/-- The instruction a legal word stands for, issued by `b`; PUBLISH takes its instant `t` and CYCLES the BBCLK count from
outside the word. -/
def decodeBobbin (b : BobbinIssue) (t : Instant) (count w : Word) : Option Instr :=
  if !legalWord w then none
  else match fldN w 26 6 with
  | 0x00 => some (decodeSys b t count w)
  | 0x01 => some (.vop b (fld w 21 5) (fld w 16 5) (fld w 11 5) (fld w 8 3) (fld w 6 2) (fld w 0 6))
  | 0x02 => some (.vops b (fld w 21 5) (fld w 16 5) (fld w 11 4) (fld w 8 3) (fld w 6 2) (fld w 0 6))
  | 0x03 => some (.vimm b (fld w 21 5) (fld w 0 20))
  | 0x08 => some (.sop b (fld w 21 4) (fld w 16 4) (fld w 11 4) (fld w 0 4))
  | 0x09 => some (.saddi b (fld w 21 4) (fld w 16 4) (fld w 0 16))
  | 0x0A => some (.slui b (fld w 21 4) (fld w 0 16))
  | 0x0B => some (.sori b (fld w 21 4) (fld w 16 4) (fld w 0 16))
  | 0x0C => some (.bcc b (fld w 21 5) (fld w 16 4) (fld w 11 4) (fld w 0 11))
  | 0x0D => some (.jmp b (fld w 12 4) (fld w 21 4) (fld w 16 4) (fld w 0 12))
  | 0x0E => some (.loop b (fld w 16 4) (fld w 0 11))
  | 0x10 => some (.vmul b (fld w 21 2) (fld w 16 5) (fld w 11 5) (fld w 8 3) (bitAt w 7) (bitAt w 6) (fld w 0 6))
  | 0x11 => some (.vmuls b (fld w 21 2) (fld w 16 5) (fld w 11 4) (fld w 8 3) (bitAt w 7) (bitAt w 6) (fld w 0 6))
  | 0x12 => some (.arnd b (fld w 21 5) (fld w 16 2) (bitAt w 7) (bitAt w 6) (bitAt w 5) (fld w 0 5))
  | 0x13 => some (.aset b (fld w 21 2) (fld w 16 5) (bitAt w 6) (bitAt w 5) (fld w 0 5))
  | 0x18 => some (.vcmp b (fld w 21 3) (fld w 16 5) (fld w 11 5) (fld w 8 3) (fld w 6 2) (fld w 0 3))
  | 0x19 => some (.vcmps b (fld w 21 3) (fld w 16 5) (fld w 11 4) (fld w 8 3) (fld w 6 2) (fld w 0 3))
  | 0x1A => some (.vsel b (fld w 21 5) (fld w 16 5) (fld w 11 5) (fld w 8 3))
  | 0x1B => some (.plog b (fld w 21 3) (fld w 16 3) (fld w 11 3) (fld w 0 3))
  | 0x1C => some (if bitAt w 0 then .pxfer b true (fld w 16 4) (fld w 21 3) else .pxfer b false (fld w 21 4) (fld w 16 3))
  | 0x20 => some (.vshift b (fld w 21 5) (fld w 16 5) (fld w 11 5) (fld w 0 5))
  | 0x21 => some (.vshuf b (fld w 21 5) (fld w 16 5) (fld w 11 5) (fld w 6 5) (fld w 0 4))
  | 0x22 => some (.vred b (fld w 21 5) (fld w 16 5) (fld w 11 5) (fld w 8 3) (fld w 6 2) (fld w 0 6))
  | 0x28 => some (.vld b (fld w 21 5) (fld w 16 4) (fld w 0 11))
  | 0x29 => some (.vst b (fld w 21 5) (fld w 16 4) (fld w 0 11))
  | 0x2A => some (.vlda b (fld w 21 5) (fld w 16 2))
  | 0x2B => some (.vsta b (fld w 21 5) (fld w 16 2) (fld w 8 3))
  | 0x2C => some (.agset b (fld w 21 2) (fld w 16 4) (fld w 11 4) (bitAt w 0))
  | 0x2D => some (.sld b (fld w 21 4) (fld w 16 4) (fld w 0 11))
  | 0x2E => some (.sst b (fld w 21 4) (fld w 16 4) (fld w 0 11))
  | 0x30 => some (.xfer b (fld w 21 4) (fld w 16 4) (fld w 11 4) (fld w 4 3) (bitAt w 3) (bitAt w 2) (fld w 0 2))
  | 0x31 => some (.xwait b (fld w 21 4) (fld w 0 3))
  | 0x38 => some (.spop b (fld w 21 5) (queueOf w))
  | 0x39 => some (.spush b (fld w 21 5))
  | 0x3A => some (.smeta b (fld w 21 4) (queueOf w) (fld w 4 3))
  | 0x3C => some (.bar b (syncOf w))
  | 0x3D => some (.sem b (bitAt w 4) (syncOf w))
  | 0x3E => some (.atom b (fld w 21 4) (fld w 16 4) (fld w 11 4) (fld w 0 2))
  | _ => none

end Sys2Proof.Machine
end

