-- ==== Sys2Proof/Machine/Image.lean ====
section
/-! DEFINITION. Images as the pipeline stages see them: pixels in row order, reflection at the edges, neighbourhoods, medians,
bilinear grids (R144, R148). -/
namespace Sys2Proof.Machine

/-- An image of integers in row order. -/
structure Img where
  w : Nat
  h : Nat
  px : Array Int
deriving DecidableEq, Repr

/-- The image whose pixel (x, y) is `f x y`. -/
def Img.make (w h : Nat) (f : Nat → Nat → Int) : Img where
  w := w
  h := h
  px := ((List.range h).flatMap fun y => (List.range w).map fun x => f x y).toArray

/-- Pixel (x, y). -/
def Img.get (i : Img) (x y : Nat) : Int := i.px.getD (y * i.w + x) 0

/-- A coordinate reflected about the edge pixels of 0 … n - 1: -a becomes a, n - 1 + a becomes n - 1 - a (R144). -/
def reflect (n : Nat) (v : Int) : Nat :=
  let m : Int := if v < 0 then -v else v
  let m := if (n : Int) - 1 < m then 2 * ((n : Int) - 1) - m else m
  (clampI 0 ((n : Int) - 1) m).toNat

/-- Pixel (x, y) with coordinates beyond the image reflected. -/
def Img.at (i : Img) (x y : Int) : Int := i.get (reflect i.w x) (reflect i.h y)

/-- The eight neighbour offsets at step s (R144). -/
def neighbours (s : Int) : List (Int × Int) :=
  [(-s, -s), (0, -s), (s, -s), (-s, 0), (s, 0), (-s, s), (0, s), (s, s)]

/-- Reflected coordinates of the eight neighbours of a pixel. -/
def neighbourAt (w h : Nat) (s : Int) (x y : Nat) : List (Nat × Nat) :=
  (neighbours s).map fun d => (reflect w (x + d.1), reflect h (y + d.2))

/-- Insert into an ascending list. -/
def insInt (x : Int) : List Int → List Int
  | [] => [x]
  | y :: ys => if x ≤ y then x :: y :: ys else y :: insInt x ys

/-- Ascending order. -/
def sortInt (l : List Int) : List Int := l.foldl (fun a x => insInt x a) []

/-- The median of R145: for an even count the floor of the mean of the two middle values. -/
def medianInt (l : List Int) : Int :=
  let s := sortInt l
  let m := s.length
  if m % 2 = 1 then s.getD (m / 2) 0 else (s.getD (m / 2 - 1) 0 + s.getD (m / 2) 0) / 2

/-- The ceil(m / 2)-th smallest value (R150). -/
def lowMedianInt (l : List Int) : Int := (sortInt l).getD ((l.length + 1) / 2 - 1) 0

/-- CLIP as a corrected mantissa (R135). -/
def clipC : Int := 0x7FFFF

/-- A corrected mantissa clamped to the range of R135. -/
def clampC (v : Int) : Int := clampI (-0x80000) 0x7FFFE v

/-- A value written back at exponent e (R144). -/
def writeBack (v : Int) (e : Nat) : Int := clampC (rshRound v e)

/-- The bilinear rule of R148 on a grid of 129 columns: nodes `gsp` pixels apart, half added before the division. -/
def bilinear (gsp x y : Nat) (node : Nat → Int) : Int :=
  let i := x / gsp
  let j := y / gsp
  let fx : Int := (x % gsp : Nat)
  let fy : Int := (y % gsp : Nat)
  let g : Int := gsp
  let at_ (a b : Nat) : Int := node (129 * (j + b) + (i + a))
  ((g - fx) * (g - fy) * at_ 0 0 + fx * (g - fy) * at_ 1 0 + (g - fx) * fy * at_ 0 1 + fx * fy * at_ 1 1 + g * g / 2) / (g * g)

/-- The tile grid of an image: side of a tile, columns, rows. -/
structure TileGrid where
  side : Nat
  tw : Nat
  th : Nat
deriving DecidableEq, Repr

/-- The tile grid that covers w × h pixels. -/
def gridOf (side w h : Nat) : TileGrid := ⟨side, (w + side - 1) / side, (h + side - 1) / side⟩

/-- Index in the grid of the tile of pixel (x, y). -/
def TileGrid.tileOf (g : TileGrid) (x y : Nat) : Nat := g.tw * (y / g.side) + x / g.side

/-- Pixels of tile k of the grid inside a w × h image. -/
def TileGrid.pixels (g : TileGrid) (w h k : Nat) : List (Nat × Nat) :=
  let x0 := g.side * (k % g.tw)
  let y0 := g.side * (k / g.tw)
  (List.range (min g.side (h - y0))).flatMap fun dy =>
    (List.range (min g.side (w - x0))).map fun dx => (x0 + dx, y0 + dy)

end Sys2Proof.Machine
end

