-- ==== Sys2Proof/Machine/Queues.lean ====
section
/-! DEFINITION. Bobbins, kernels and stream queues as the pipeline and the bobbins share them (R223, R234, R238–R242). -/
namespace Sys2Proof.Machine

/-- Bobbin b. -/
def bobbin (s : State) (b : Nat) : Bobbin := s.engines.bobbins.getD b {}

/-- The state with bobbin b changed. -/
def updBobbin (b : Nat) (f : Bobbin → Bobbin) (s : State) : State :=
  { s with engines := { s.engines with bobbins := s.engines.bobbins.modify b f } }

/-- User kernel KID 0–15, or vendor kernel KID 0x80–0x83. -/
def kernel (s : State) (kid : Nat) : Kernel :=
  if kid < 16 then s.engines.user.getD kid {} else s.engines.vendor.getD (kid - 0x80) {}

/-- The state with a kernel changed. -/
def updKernel (kid : Nat) (f : Kernel → Kernel) (s : State) : State :=
  if kid < 16 then { s with engines := { s.engines with user := s.engines.user.modify kid f } }
  else { s with engines := { s.engines with vendor := s.engines.vendor.modify (kid - 0x80) f } }

/-- A kernel is RUNNING (R254). -/
def kernelRuns (s : State) (kid : Nat) : Bool := (kernel s kid).phase == .running

/-- User kernels of a slot that run. -/
def slotKernels (s : State) (slot : Nat) : List Nat :=
  (List.range 16).filter fun k => kernelRuns s k && imgSlot (kernel s k) == slot

/-- The user kernel in the NR slot, if it runs. -/
def nrKernel (s : State) : Option Nat := (slotKernels s 1).head?

/-- The user kernel on channel i, if one runs. -/
def channelKernel (s : State) (i : Nat) : Option Nat := (slotKernels s 2).find? fun k => (kernel s k).channel == i

/-- Room in an input queue of 32 elements (R234). -/
def queueRoom (q : List QueueElem) : Nat := 32 - q.length

/-- An in-line run at its start: nothing received, nothing pushed. -/
def newInline (s : State) (kid : Nat) : InlineRun :=
  let n := (kernel s kid).bobbins.length
  { kid := kid, apron := imgApron (kernel s kid), recv := List.replicate n 0, pushed := List.replicate n 0 }

/-- Key of a pushed vector: its rank and its count. -/
def pushKey (rank n : Nat) : Nat := 128 * n + rank

/-- A push of rank r's next vector. -/
def takePush (r : InlineRun) (rank : Nat) (v : List Px) : InlineRun :=
  let n := r.pushed.getD rank 0
  { r with pushed := r.pushed.set rank (n + 1), out := smSet [] r.out (pushKey rank n) v }

/-- The side word of an element (R240). -/
def sideWord (ec : Nat) (first lastOf basted bandTop fed1 abandoned : Bool) (component : Nat) : Word :=
  mkWord [(ec, 0), (b2n first, 4), (b2n lastOf, 5), (b2n basted, 6), (b2n bandTop, 7), (b2n fed1, 8), (b2n abandoned, 9),
    (component, 10)]

/-- Put an element into an input queue of bobbin b; input that comes to empty queues begins an idle span (R257). -/
def feedElem (b : Nat) (q1 : Bool) (e : QueueElem) (s : State) : State :=
  updBobbin b (fun x =>
    let x := if x.in0.isEmpty && x.in1.isEmpty then { x with idleSpan := ⟨s.now.real, 0⟩ } else x
    if q1 then { x with in1 := x.in1 ++ [e] } else { x with in0 := x.in0 ++ [e] }) s

/-- Put a version-end element into input queue 0 of bobbin b, or keep it, behind those kept already, until there is room
(R242). -/
def feedEnd (b : Nat) (e : QueueElem) (s : State) : State :=
  if (bobbin s b).in0.length < 32 && (bobbin s b).owed.isEmpty then feedElem b false e s
  else updBobbin b (fun x => { x with owed := x.owed ++ [e] }) s

/-- Sixteen lanes as 20-bit vectors of signed mantissas. -/
def lanes (f : Nat → Int) : List Px := (List.range 16).map fun i => BitVec.ofInt 20 (f i)

/-- What a kernel has not pushed passes unchanged from now on (R257). -/
def cutRun (kid : Nat) (r : InlineRun) : InlineRun := if r.kid = kid then { r with cut := true } else r

/-- Cut a channel's run. -/
def cutChannel (kid : Nat) (c : ChannelState) : ChannelState :=
  let f (r : ChannelRun) : ChannelRun := { r with kernel := r.kernel.map (cutRun kid) }
  { c with run := c.run.map f, leftover := c.leftover.filter fun r => r.kid != kid }

/-- The kernel leaves its slot: in-line runs pass the rest unchanged, taps end. -/
def leaveSlot (kid : Nat) (s : State) : State :=
  { s with
    front := { s.front with versions := s.front.versions.map fun v =>
      { v with nr := v.nr.map (cutRun kid), taps := v.taps.filter fun t => t.kid != kid } }
    back := { s.back with channels := s.back.channels.map (cutChannel kid) } }

/-- A bobbin stops: its wait ends; its transfers in flight complete (R254, R258). -/
def stoppedBobbin (b : Bobbin) : Bobbin := { b with running := false, wait := none, in0 := [], in1 := [], outq := [], owed := [] }

/-- Every bobbin of a kernel stops and the kernel takes a phase. -/
def endKernel (kid : Nat) (ph : KernelPhase) (s : State) : State :=
  let s := (kernel s kid).bobbins.foldl (fun s b => updBobbin b stoppedBobbin s) (leaveSlot kid s)
  arbitrate (updKernel kid (fun k => { k with phase := ph }) s)

/-- The user kernel that holds the NR slot, running or not. -/
def nrHolder (s : State) : Option Nat :=
  (List.range 16).find? fun k => imgSlot (kernel s k) == 1 && !(kernel s k).bobbins.isEmpty

/-- Once the pipeline counts as stopped, the NR user kernel stops, and kernels that wait for the pipeline's first version
run again then (R151, R254, R257). -/
def noteStop (s : State) : State :=
  if pipelineStopped s then
    let s := { s with front := { s.front with stopSeen := true } }
    match nrKernel s with
    | some k => endKernel k .stopped s
    | none => s
  else s

/-- The vendor holdings of a configuration need a pillow in which a user kernel holds bobbins (R245). -/
def pillowConflict (s : State) (c : CaptureCfg) (p : PipeCfg) : Bool :=
  (List.range 5).any fun q =>
    vendorHolds c p q && (List.range 16).any fun k => (kernelPillows (kernel s k)).contains q

/-- Time of a bobbin that passes ungranted, in 1/16 ns. -/
def passUngranted (d : Nat) (x : Bobbin) : Bobbin :=
  { x with waitSpan := { x.waitSpan with ungranted := x.waitSpan.ungranted + d }
           idleSpan := { x.idleSpan with ungranted := x.idleSpan.ungranted + d } }

/-- Time that no bobbin was granted for (R257, R258). -/
def passAll (d : Nat) (s : State) : State :=
  { s with engines := { s.engines with bobbins := s.engines.bobbins.map (passUngranted d) } }

end Sys2Proof.Machine
end

