-- ==== Sys2Proof/Machine/Ingress.lean ====
section
/-! DEFINITION. The input contexts and the ingress frames (R125–R134). -/
namespace Sys2Proof.Machine

/-! ### SET_INPUTS (R126, R127) -/

/-- A context fed from the ring: PEER or FOREIGN. -/
def isIngress (x : InputCtx) : Bool := x.kind == 2 || x.kind == 3

/-- The parameter words that configure a context (R126). -/
def inputWords (i : Nat) (x : InputCtx) : List Word :=
  [mkWord [(b2n x.enable, 15), (b2n x.prio, 14), (x.kind.toNat, 12), (i, 0)],
   mkWord [(x.srcPort.toNat, 16), (x.srcNode.toNat, 0)],
   mkWord [(x.height.toNat, 16), (x.width.toNat, 0)],
   x.deadline,
   mkWord [(x.pedF.toNat, 16), (x.fshift.toNat, 8), (x.cfa.toNat, 4), (x.fmt.toNat, 0)]]

/-- The context that parameter words ask for. -/
def inputOf (ws : List Word) : InputCtx where
  enable := bitAt (paramAt ws 0) 15
  prio := bitAt (paramAt ws 0) 14
  kind := fld (paramAt ws 0) 12 2
  srcPort := fld (paramAt ws 1) 16 9
  srcNode := fld (paramAt ws 1) 0 7
  height := fld (paramAt ws 2) 16 14
  width := fld (paramAt ws 2) 0 14
  deadline := paramAt ws 3
  pedF := fld (paramAt ws 4) 16 16
  fshift := fld (paramAt ws 4) 8 4
  cfa := fld (paramAt ws 4) 4 3
  fmt := fld (paramAt ws 4) 0 4

/-- Sample width of a FOREIGN format: 8, 10, 12, 14, 16 bits. -/
def foreignBits (x : InputCtx) : Nat := 8 + 2 * x.fmt.toNat

/-- The first parameter word that breaks R126 or R127. -/
def inputBad (ml : Bool) (other : InputCtx) (x : InputCtx) : Option Nat :=
  let w := x.width.toNat
  let h := x.height.toNat
  let b := foreignBits x
  if x.kind == 1 && other.kind == 1 then some 0
  else if !isIngress x then none
  else if x.srcNode == 0 || x.srcNode == 127 then some 1
  else if w % 2 != 0 || h % 2 != 0 || 8192 < w || 6144 < h then some 2
  else if x.kind == 2 && (w % 32 != 0 || h % 32 != 0) then some 2
  else if x.deadline.toNat < 100 || 1000000 < x.deadline.toNat then some 3
  else if x.kind == 3 && (4 < x.fmt.toNat || 1 < x.cfa.toNat || 12 < x.fshift.toNat) then some 4
  else if x.kind == 3 && (if ml then x.cfa == 1 else x.cfa == 0) then some 4
  else if x.kind == 3 && decide ((2 ^ b - 2 - x.pedF.toNat : Int) * 2 ^ x.fshift.toNat + 256 > 0xFFFFE) then some 4
  else none

/-- The state with context i set. -/
def setCtx (i : Nat) (x : InputCtx) (s : State) : State :=
  if i = 0 then { s with front := { s.front with ctx0 := x } } else { s with front := { s.front with ctx1 := x } }

/-- The counters of context i (R158). -/
def ctxCnt (s : State) (i : Nat) : CtxCounters := if i = 0 then s.front.cnt0 else s.front.cnt1

/-- The state with the counters of context i changed. -/
def updCtxCnt (i : Nat) (f : CtxCounters → CtxCounters) (s : State) : State :=
  if i = 0 then { s with front := { s.front with cnt0 := f s.front.cnt0 } }
  else { s with front := { s.front with cnt1 := f s.front.cnt1 } }

/-- Ingress frame k. -/
def ingressAt (s : State) (k : Nat) : IngressFrame := s.front.ingress.getD k {}

/-- The state with ingress frame k changed. -/
def updIngress (k : Nat) (f : IngressFrame → IngressFrame) (s : State) : State :=
  { s with front := { s.front with ingress := s.front.ingress.modify k f } }

/-- Word `o` of ingress frame k is read with an uncorrectable error: the data are used as read, with bits turned over, and the
frame is CORRUPT. The word's pixels are those it holds where the lines lie in order, 20 bits a pixel (R97, R129; log entry
188). -/
def spoilIngress (k o : Nat) (s : State) : State :=
  let (f, s) := takeFree s
  let w := (inputCtx s (ingressAt s k).ctx).width.toNat
  let turned (p : Nat) : Px := BitVec.ofNat 20
    (if 20 * p + 20 ≤ 64 * o || 64 * o + 64 ≤ 20 * p then 0
     else if 64 * o ≤ 20 * p then errorBits f / 2 ^ (20 * p - 64 * o) else errorBits f * 2 ^ (64 * o - 20 * p))
  updIngress k (fun g =>
    if g.phase == .free then g
    else { g with
      marks := { g.marks with corrupt := true }
      lines := g.lines.map fun l =>
        if 20 * w * (l.1 + 1) ≤ 64 * o || 64 * o + 64 ≤ 20 * w * l.1 then l
        else (l.1, l.2.zipIdx.map fun v => v.1 ^^^ turned (w * l.1 + v.2)) }) s

/-- Clearing ENABLE of a non-LOCAL context takes effect: frames of the context that the front is not reading are
discarded; one partly received counts under INGRESS_DROPPED (R127, log entry 40). -/
def dropIngress (i : Nat) (s : State) : State :=
  [0, 1].foldl (fun s k =>
    let g := ingressAt s k
    if g.ctx = i && (g.phase == .filling || g.phase == .waiting) then
      let s := if g.ended then s else updCtxCnt i (fun c => { c with dropped := satInc c.dropped }) s
      updIngress k (fun _ => {}) s
    else s) s

/-- A frame the front has not begun will not be read. -/
def markUnread (h : HistFrame) : HistFrame := if h.frontRead || h.frontReading then h else { h with neverRead := true }

/-- Clearing ENABLE of the LOCAL context: versions released and not begun are never read (R122, R127). -/
def dropLocal (s : State) : State :=
  let lost := (heldSlots s).filter fun x => !x.2.frontRead && !x.2.frontReading && !x.2.neverRead
  let s := lost.foldl (fun s x => neverFollows x.2.frame.id s) s
  let s := { s with history := { s.history with slots := s.history.slots.map (Option.map markUnread) } }
  match s.accum.baste with
  | some b => if b.released && !b.begun then { s with accum := { s.accum with baste := none } } else s
  | none => s

/-- Clearing ENABLE of context i: at once, or for a non-LOCAL context at the end of the frame it is delivering (R127). -/
def clearEnable (i : Nat) (kind : BitVec 2) (s : State) : State :=
  if kind == 1 then dropLocal s
  else if s.front.versions.any (fun v => v.ctx == i) then
    { s with front := { s.front with disableAtEnd := insNat s.front.disableAtEnd i } }
  else dropIngress i s

/-- SET_INPUTS. -/
def setInputsBody (c : Cmd) (s : State) : CmdResult :=
  let i := fldN (paramAt c.words 0) 0 1
  let old := inputCtx s i
  let new := inputOf (overlay c.words (inputWords i old))
  let other := inputCtx s (1 - i)
  judged c.words [0xF001, 0x1FF007F, 0x3FFF3FFF, 0xFFFFFFFF, 0xFFFF0F7F] s <|
    match inputBad s.rst.fuses.variantMl other new with
    | some w => cmdBad s w
    | none =>
      let clears := { old with enable := false } == new
      let prioOnly := { old with prio := new.prio } == new
      if old.enable && !clears && !prioOnly then cmdRefuse s .wrongState
      else
        let s := setCtx i new s
        let s := if new.prio then setCtx (1 - i) { other with prio := false } s else s
        let s := { s with front := { s.front with fmtErrRaised := remNat s.front.fmtErrRaised i } }
        let s := if old.enable && !new.enable then clearEnable i old.kind s
          else if new.enable then { s with front := { s.front with disableAtEnd := remNat s.front.disableAtEnd i } } else s
        cmdOk (arbitrate (noteStop s))

/-! ### DROPPED frames of a context (R129, R132) -/

/-- What a DROPPED form says of an ingress frame on stream i: the crop origin in force (R173). -/
def ingressInfo (s : State) (i : Nat) (h : SrcHeader) : FrameInfo where
  id := h.id
  hdr := h
  marks := {}
  hist := false
  cropY := (s.front.params.cropY0.getD i 0).toNat
  cropX := (s.front.params.cropX0.getD i 0).toNat

/-- Frame `h.id` arrives DROPPED at every channel whose source is context k (R129, R176). -/
def dropOnStreams (k : Nat) (h : SrcHeader) (s : State) : State :=
  (List.range 8).foldl (fun s i =>
    if ((stream s i).enabled || insetUsers s i) && fromCtx s i k then dropOn i (ingressInfo s i h) 4 s else s) s

/-! ### Packets at ingress (R129–R133) -/

/-- The packet's last word holds the CRC-16 of every preceding byte, and LEN is its length (R201, R202). -/
def packetOk (pkt : List Word) : Bool :=
  pkt.length ≥ 3 && fldN (pkt.headD 0) 0 24 == pkt.length &&
  pkt.getLastD 0 == (crc16 (wordsBytes pkt.dropLast)).zeroExtend 32

/-- The contexts whose source a packet comes from. -/
def ctxsOf (s : State) (node : BitVec 7) (port : BitVec 9) : List Nat :=
  [0, 1].filter fun i =>
    let x := inputCtx s i
    isIngress x && (x.enable || s.front.disableAtEnd.contains i) && x.srcNode == node && x.srcPort == port

/-- The ingress frame that context i is receiving. -/
def openIngress (s : State) (i : Nat) : Option Nat :=
  [0, 1].find? fun k =>
    let g := ingressAt s k
    g.phase != .free && !g.ended && g.ctx == i

/-- Lines of the frame not yet received. -/
def missingLines (h : Nat) (g : IngressFrame) : Nat :=
  h - (g.lines.length + g.blackLines.length)

/-- End ingress frame k: missing lines read as black and are counted, and the frame is marked (R131). A frame with every
line received takes no mark from its end (log entry 41). -/
def endIngress (k : Nat) (late : Bool) (sent : Marks) (s : State) : State :=
  let g := ingressAt s k
  let n := missingLines (inputCtx s g.ctx).height.toNat g
  let m : Marks := if n = 0 then {} else if late then { late := true } else { incomplete := true }
  let s := updCtxCnt g.ctx (fun c => { c with lateLines := satAdd c.lateLines n }) s
  updIngress k (fun g => { g with
    ended := true
    phase := if g.phase == .filling then .waiting else g.phase
    marks := marksOr g.marks (marksOr sent m) }) s

/-- The marks a HEADER or TRAILER word states. -/
def marksOf (w : Word) : Marks := ⟨bitAt w 15, bitAt w 14, bitAt w 13, bitAt w 12, bitAt w 11⟩

/-- What a HEADER packet says of its frame (R204). -/
def headerOf (pkt : List Word) : SrcHeader where
  id := pkt.getD 2 0
  stamp := join64 (pkt.getD 5 0) (pkt.getD 6 0)
  variantMl := bitAt (pkt.getD 7 0) 24
  bin := bitAt (pkt.getD 7 0) 23
  srcNode := fld (pkt.getD 7 0) 16 7

/-- The header differs from the declared context (R132): size, format version, variant, or a PEER frame that is not RAW20
or does not cut into whole tiles (R127). -/
def headerMismatch (ml : Bool) (x : InputCtx) (pkt : List Word) : Bool :=
  let h := headerOf pkt
  let side := if h.bin then 32 else 64
  fldN (pkt.getD 4 0) 16 14 != x.height.toNat || fldN (pkt.getD 4 0) 0 14 != x.width.toNat ||
  fldN (pkt.getD 3 0) 16 8 != 2 || h.variantMl != ml ||
  (x.kind == 2 && (fldN (pkt.getD 3 0) 4 4 != 0 || x.width.toNat % side != 0 || x.height.toNat % side != 0))

/-- The ingress frames that serve context i: both for the only non-LOCAL context, else its own (R129). -/
def servingFrames (s : State) (i : Nat) : List Nat :=
  let other := inputCtx s (1 - i)
  if isIngress other && other.enable then [i] else [0, 1]

/-- The oldest frame of context i that waits for the front. -/
def oldestWaiting (s : State) (i : Nat) : Option Nat :=
  let ks := [0, 1].filter fun k => (ingressAt s k).phase == .waiting && (ingressAt s k).ctx == i
  ks.foldl (fun a k => match a with
    | none => some k
    | some j => if (ingressAt s k).order < (ingressAt s j).order then some k else some j) none

/-- Take ingress frame k for the arriving frame. -/
def takeIngress (k i : Nat) (pkt : List Word) (s : State) : State :=
  let s := updIngress k (fun _ => {
    phase := .filling, ctx := i, hdr := headerOf pkt, marks := { marksOf (pkt.getD 3 0) with basted := false }
    filet := fldN (pkt.getD 3 0) 0 2 != 0, since := s.now, order := s.front.ingressCount }) s
  updCtxCnt i (fun c => { c with frames := satInc c.frames })
    { s with front := { s.front with ingressCount := s.front.ingressCount + 1 } }

/-- Count a dropped frame of context i and send its DROPPED forms (R129). -/
def dropFrame (i : Nat) (h : SrcHeader) (s : State) : State :=
  dropOnStreams i h (updCtxCnt i (fun c => { c with dropped := satInc c.dropped }) s)

/-- A frame header arrives for context i (R129, R131, R132). -/
def headerArrives (i : Nat) (pkt : List Word) (s : State) : State :=
  let s := match openIngress s i with
    | some k => endIngress k false {} s
    | none => s
  let h := headerOf pkt
  let m := marksOf (pkt.getD 3 0)
  if m.basted then updCtxCnt i (fun c => { c with basted := satInc c.basted }) s
  else if headerMismatch s.rst.fuses.variantMl (inputCtx s i) pkt then
    let s := updCtxCnt i (fun c => { c with format := satInc c.format }) s
    if s.front.fmtErrRaised.contains i then s
    else raise 0x0203 i 0 0 { s with front := { s.front with fmtErrRaised := insNat s.front.fmtErrRaised i } }
  else if m.dropped then dropOnStreams i h s
  else match (servingFrames s i).find? fun k => (ingressAt s k).phase == .free with
    | some k => takeIngress k i pkt s
    | none =>
      match oldestWaiting s i with
      | some k => takeIngress k i pkt (dropFrame i (ingressAt s k).hdr s)
      | none => dropFrame i h s

/-- An ingress HEADER packet arrives; one that fails its CRC-16 is not recognised (log entry 42). -/
def execIngressHeader (t : Instant) (node : BitVec 7) (port : BitVec 9) (pkt : List Word) (s : State) : Result :=
  let s := setNow t s
  .next (if pipeRuns s && packetOk pkt && fldN (pkt.headD 0) 28 4 == 1 then
    (ctxsOf s node port).foldl (fun s i => headerArrives i pkt s) s else s)

/-- The values of an uncoded payload: sample i in bits [b·i + b - 1 : b·i] (R134, R207). -/
def unpackBits (b : Nat) : Nat → Nat → List Nat
  | 0, _ => []
  | n + 1, v => v % 2 ^ b :: unpackBits b n (v / 2 ^ b)

/-- Even-x samples and odd-x samples woven into a line. -/
def weave : List Nat → List Nat → List Nat
  | [], ys => ys
  | x :: xs, ys => x :: (match ys with
    | [] => xs
    | y :: ys => y :: weave xs ys)

/-- The mantissas of a PEER line; none where its payload fails its check (R215) or is too short. -/
def peerLine (ml filet : Bool) (w : Nat) (payload : List Byte) : Option (List Px) :=
  if filet then
    let lens := if ml then [w] else [(w + 1) / 2, w / 2]
    (decodeLine 20 lens payload).map fun seqs => (weave (seqs.getD 0 []) (seqs.getD 1 [])).map (BitVec.ofNat 20)
  else if payload.length * 8 < 20 * w then none
  else some ((unpackBits 20 w (bytesNat payload)).map (BitVec.ofNat 20))

/-- Tile-float mantissa of a FOREIGN sample (R134). -/
def foreignMantissa (x : InputCtx) (v : Nat) : Px :=
  if v + 1 = 2 ^ foreignBits x then 0xFFFFF
  else clampUI 20 (clampI 0 0xFFFFE (((v : Int) - x.pedF.toNat) * 2 ^ x.fshift.toNat + 256))

/-- The mantissas of a FOREIGN line. -/
def foreignLine (x : InputCtx) (payload : List Byte) : Option (List Px) :=
  let b := foreignBits x
  if payload.length * 8 < b * x.width.toNat then none
  else some ((unpackBits b x.width.toNat (bytesNat payload)).map (foreignMantissa x))

/-- The mantissas a LINE packet carries for context i; none where it fails its check. -/
def lineValues (s : State) (i : Nat) (g : IngressFrame) (pkt : List Word) : Option (List Px) :=
  let x := inputCtx s i
  let payload := wordsBytes ((pkt.drop 4).dropLast)
  if !packetOk pkt then none
  else if x.kind == 2 then peerLine g.hdr.variantMl g.filet x.width.toNat payload
  else foreignLine x payload

/-- A line packet arrives for context i: it is stored, or one that fails its check is counted, marks the frame CORRUPT, and
leaves black in the line it names (R130; log entry 163). A packet of another frame than the one being received came after its
frame ended, and is discarded (R131). -/
def lineArrives (i : Nat) (pkt : List Word) (s : State) : State :=
  match openIngress s i with
  | none => s
  | some k =>
    let g := ingressAt s k
    let y := fldN (pkt.getD 3 0) 16 14
    let seen := g.lines.any (fun l => l.1 == y) || g.blackLines.contains y
    let placed := decide (y < (inputCtx s i).height.toNat) && !seen
    if packetOk pkt && pkt.getD 2 0 != g.hdr.id then s
    else match lineValues s i g pkt with
      | some vs => if placed then updIngress k (fun g => { g with lines := (y, vs) :: g.lines }) s else s
      | none =>
        updCtxCnt i (fun c => { c with crcErr := satInc c.crcErr })
          (updIngress k (fun g => { g with
            blackLines := if placed then insNat g.blackLines y else g.blackLines
            marks := { g.marks with corrupt := true } }) s)

/-- An ingress LINE packet arrives. -/
def execIngressLine (t : Instant) (node : BitVec 7) (port : BitVec 9) (pkt : List Word) (s : State) : Result :=
  let s := setNow t s
  .next (if pipeRuns s && fldN (pkt.headD 0) 28 4 == 2 then (ctxsOf s node port).foldl (fun s i => lineArrives i pkt s) s else s)

/-- The four-word entries of a sidecar. -/
def sidecarEntries : Nat → List Word → List (Word × BitVec 64 × BitVec 16)
  | 0, _ => []
  | n + 1, ws => (ws.getD 0 0, join64 (ws.getD 1 0) (ws.getD 2 0), fld (ws.getD 3 0) 0 16) :: sidecarEntries n (ws.drop 4)

/-- A sidecar packet arrives for context i. One that fails leaves its descriptors 0, and the frame is CORRUPT (R130). -/
def sidecarArrives (i : Nat) (pkt : List Word) (s : State) : State :=
  match openIngress s i with
  | none => s
  | some k =>
    let g := ingressAt s k
    let x := inputCtx s i
    let side := sideOf g.hdr.bin
    let n := x.width.toNat / side
    let band := fldN (pkt.getD 3 0) 16 7
    if x.kind != 2 || (packetOk pkt && pkt.getD 2 0 != g.hdr.id) then s
    else if !packetOk pkt || fldN (pkt.getD 3 0) 0 8 != n || pkt.length != 5 + 4 * n then
      updIngress k (fun g => { g with marks := { g.marks with corrupt := true } }) s
    else
      let es := sidecarEntries n (pkt.drop 4)
      updIngress k (fun g => { g with
        desc := smSetMany 0 g.desc (128 * band) (es.map (·.1))
        voids := smSetMany 0 g.voids (128 * band) (es.map (·.2.1))
        black := smSetMany 0 g.black (128 * band) (es.map (·.2.2)) }) s

/-- An ingress SIDECAR packet arrives. -/
def execIngressSidecar (t : Instant) (node : BitVec 7) (port : BitVec 9) (pkt : List Word) (s : State) : Result :=
  let s := setNow t s
  .next (if pipeRuns s && fldN (pkt.headD 0) 28 4 == 3 then (ctxsOf s node port).foldl (fun s i => sidecarArrives i pkt s) s else s)

/-- An ingress TRAILER ends its frame; the sender's marks are kept (R131, R133). -/
def execIngressTrailer (t : Instant) (node : BitVec 7) (port : BitVec 9) (pkt : List Word) (s : State) : Result :=
  let s := setNow t s
  .next (if pipeRuns s && packetOk pkt && fldN (pkt.headD 0) 28 4 == 4 then
    (ctxsOf s node port).foldl (fun s i =>
      match openIngress s i with
      | some k =>
        if (ingressAt s k).hdr.id == pkt.getD 2 0 then endIngress k false (marksOf (pkt.getD 3 0)) s else s
      | none => s) s
    else s)

/-- DEADLINE passes after the header of context ctx's frame (R131). -/
def execIngressDeadline (t : Instant) (ctx : Fin 2) (s : State) : Result :=
  let s := setNow t s
  match openIngress s ctx.val with
  | some k =>
    if pipeRuns s && decide ((ingressAt s k).since.tclk + 100 * (inputCtx s ctx.val).deadline.toNat ≤ t.tclk) then .next (endIngress k true {} s)
    else .next s
  | none => .next s

/-- A RETRACT on a source port is ignored (R132). -/
def execIngressRetract (t : Instant) (_node : BitVec 7) (_port : BitVec 9) (_pkt : List Word) (s : State) : Result :=
  .next (setNow t s)

end Sys2Proof.Machine
end

