-- ==== Sys2Proof/Machine/FrontRead.lean ====
section
/-! DEFINITION. What the front reads of a version: tile-float mantissas, descriptors, block-void bitmaps and black records
(R97, R105, R106, R130, R134, R147, R348). -/
namespace Sys2Proof.Machine

/-- A version as the front reads it. `ox`, `oy`: the tile of the active array its first tile is; `black`: the sender's
black records by tile (PEER). -/
structure RawVersion where
  w : Nat
  h : Nat
  grid : TileGrid
  ox : Nat
  oy : Nat
  mant : Array Nat
  desc : Array Word
  voids : Array (BitVec 64)
  black : Array Int

/-- E of a descriptor (R106). -/
def descExp (d : Word) : Nat := fldN d 0 4
/-- RUNG of a descriptor. -/
def descRung (d : Word) : Nat := fldN d 4 3
/-- NEFF of a descriptor. -/
def descNeff (d : Word) : Nat := fldN d 7 6

/-- Mantissa at pixel (x, y). -/
def RawVersion.m (r : RawVersion) (x y : Nat) : Nat := r.mant.getD (y * r.w + x) 256
/-- Descriptor of the tile of pixel (x, y). -/
def RawVersion.d (r : RawVersion) (x y : Nat) : Word := r.desc.getD (r.grid.tileOf x y) 0

/-- Pixel (x, y) lies in a void block (R147). -/
def RawVersion.void (r : RawVersion) (x y : Nat) : Bool :=
  let n := r.grid.side / 8
  bitAt (r.voids.getD (r.grid.tileOf x y) 0) (8 * (y % r.grid.side / n) + x % r.grid.side / n)

/-- The mantissa of a SINGLE-mode word (R134): VALUE - 128 scaled, at the tile exponent. -/
def singleMantissa (w : Nat) : Nat :=
  if sampleSat w then 0xFFFFF else (clampI 0 0xFFFFE (32 * sampleX w + 256)).toNat

/-- The mantissa of pixel p of a 20-bit plane: M = 256 where the pixel touches an uncorrectable word (R97) or its tile has
NEFF = 0 (R106). -/
def planeMantissa (bad : List Nat) (single : Bool) (d : Word) (base : Nat) (plane : Array Nat) (p : Nat) : Nat :=
  if descNeff d = 0 || px20Bad bad base p then 256
  else if single then singleMantissa (plane.getD p 0) else plane.getD p 256

/-- Active tile k of the rectangle of a configuration. -/
def rectTile (c : CaptureCfg) (tw k : Nat) : Nat :=
  128 * (c.readout.ty0.toNat + k / tw) + c.readout.tx0.toNat + k % tw

/-- A version of frame f in the drawers: `entry` of the descriptor file, planes at `base` of a tile. -/
def drawerVersion (s : State) (f : FrameRec) (entry : Nat) (base : Nat → Nat) (voids : List (Nat × BitVec 64)) : RawVersion :=
  let side := tileSide f.cfg
  let w := localWidth f.cfg
  let h := localHeight f.cfg
  let g := gridOf side w h
  let tiles := (List.range (g.tw * g.th)).map (rectTile f.cfg g.tw)
  let desc := (tiles.map fun t => if frameTile f t then smGet 0 s.desc (22 * t + entry) else 0).toArray
  let bad := s.dramBad
  let planes := (tiles.zipIdx.map fun (t, k) =>
    let b := base t
    let pl := plane20 s.dram b
    let d := desc.getD k 0
    ((List.range (side * side)).map fun i =>
      planeMantissa bad (isSingle f.cfg) d b pl (64 * (i / side) + i % side)).toArray).toArray
  { w := w, h := h, grid := g, ox := f.cfg.readout.tx0.toNat, oy := f.cfg.readout.ty0.toNat
    mant := (Img.make w h fun x y =>
      ((planes.getD (g.tileOf x y) #[]).getD (side * (y % side) + x % side) 256 : Nat)).px.map Int.toNat
    desc := desc
    voids := (tiles.map fun t => if frameTile f t then smGet 0 voids t else 0).toArray
    black := #[] }

/-- An ingress frame of a PEER or FOREIGN context; a FOREIGN tile has E = 0, RUNG = 0, NEFF = 1 and SAT where a pixel is
clipped (R134). -/
def ingressVersion (g : IngressFrame) (foreign : Bool) (w h : Nat) : RawVersion :=
  let side := if foreign then 64 else sideOf g.hdr.bin
  let grid := gridOf side w h
  let rows : Array (Array Px) := ((List.range h).map fun y =>
    match g.lines.find? fun l => l.1 == y with
    | some l => l.2.toArray
    | none => #[]).toArray
  let raw := (Img.make w h fun x y => (((rows.getD y #[]).getD x 256).toNat : Nat)).px.map Int.toNat
  let n := grid.tw * grid.th
  let desc : Array Word := ((List.range n).map fun k =>
    if foreign then
      let sat := (grid.pixels w h k).any fun p => raw.getD (p.2 * w + p.1) 256 == 0xFFFFF
      mkWord [(1, 7), (b2n sat, 13)]
    else smGet 0 g.desc (128 * (k / grid.tw) + k % grid.tw)).toArray
  { w := w, h := h, grid := grid, ox := 0, oy := 0
    mant := (Img.make w h fun x y =>
      if descNeff (desc.getD (grid.tileOf x y) 0) = 0 then 256 else (raw.getD (y * w + x) 256 : Nat)).px.map Int.toNat
    desc := desc
    voids := ((List.range n).map fun k =>
      if foreign then 0 else smGet 0 g.voids (128 * (k / grid.tw) + k % grid.tw)).toArray
    black := ((List.range n).map fun k => (smGet 0 g.black (128 * (k / grid.tw) + k % grid.tw)).toInt).toArray }

/-- Mantissa of a test pattern (R348). -/
def patternMantissa (p : PatternUse) (w h side x y : Nat) : Nat :=
  let l := p.level
  if p.pattern = 1 then 256 + x * (l - 256) / (w - 1)
  else if p.pattern = 2 then 256 + y * (l - 256) / (h - 1)
  else if p.pattern = 3 then (if (x / side + y / side) % 2 = 0 then l else 256)
  else if p.pattern = 4 then (if x % side = 17 && y % side = 29 then 0xFFFFE else l)
  else l

/-- The pattern in place of a version's content (R348): descriptors E = 0, RUNG = 0, NEFF = N. -/
def patternVersion (p : PatternUse) (n : Nat) (r : RawVersion) : RawVersion :=
  { r with
    mant := (Img.make r.w r.h fun x y => (patternMantissa p r.w r.h r.grid.side x y : Nat)).px.map Int.toNat
    desc := r.desc.map fun _ => mkWord [(n, 7)]
    voids := r.voids.map fun _ => 0 }

/-- The frame record of a LOCAL version the front is correcting. -/
def versionFrame (s : State) (v : FrontVersion) : Option FrameRec :=
  match v.src with
  | .history k => (histSlot s k).map (·.frame)
  | .baste => s.accum.baste.map (·.frame)
  | .ingress _ => none

/-- The version the front is correcting as it is read now; an ingress frame's lines not yet received read as black. -/
def readVersion (s : State) (v : FrontVersion) : RawVersion :=
  match v.src with
  | .ingress k => ingressVersion (ingressAt s k) (v.kind == 3) v.width v.height
  | .history k =>
    match histSlot s k with
    | some hf =>
      let r := drawerVersion s hf.frame k (fun t => histBase t k) hf.voids
      match v.pattern with
      | some p => patternVersion p (subFrames hf.frame.cfg) r
      | none => r
    | none => ⟨0, 0, gridOf 64 0 0, 0, 0, #[], #[], #[], #[]⟩
  | .baste =>
    match s.accum.baste with
    | some b =>
      let r := drawerVersion s b.frame 20 auxBase b.voids
      match v.pattern with
      | some p => patternVersion p (subFrames b.frame.cfg) r
      | none => r
    | none => ⟨0, 0, gridOf 64 0 0, 0, 0, #[], #[], #[], #[]⟩

end Sys2Proof.Machine
end

