-- ==== Sys2Proof/Machine/Front.lean ====
section
/-! DEFINITION. The corrections of the pipeline front: black level, defects, block fill, lens shading, median (R135–R150). -/
namespace Sys2Proof.Machine

/-! ### Dark model (R139, R140) -/

/-- lut[i] = round(65,536 × 2^(i / 256)): the largest r with (2r - 1)^256 ≤ 2^(4352 + i), found bit by bit. -/
def darkLut (i : Nat) : Nat :=
  (List.range 18).reverse.foldl (fun r b =>
    let c := r + 2 ^ b
    if (2 * c - 1) ^ 256 ≤ 2 ^ (4352 + i) then c else r) 0

/-- The dark term in Q8.8 DN for I40, TD, a temperature in 1/16 °C and a duration in 10 ns units (R140). -/
def darkTerm (i40 td : Nat) (t16 : Int) (d : Nat) : Int :=
  let f : Int := 160 * (t16 - 640) / td
  let l : Int := darkLut (f % 256).toNat
  let o : Int := f / 256
  let p : Int := if 0 ≤ o then l * 2 ^ o.toNat else l / 2 ^ (-o).toNat
  (2 * (i40 * p * d) + 4915200000000) / 9830400000000

/-- T_t of tile (tx, ty) in 1/16 °C (R139). -/
def tileTemp (src : TempSource) (tx ty : Nat) : Int :=
  match src with
  | .uniform t => t
  | .pixel tl tr bl br c =>
    let u : Int := 2 * tx + 1
    let v : Int := 2 * ty + 1
    let bil := (256 - u) * (192 - v) * tl + u * (192 - v) * tr + (256 - u) * v * bl + u * v * br
    let far : Int := max (3 * (u - 128).natAbs : Nat) (4 * (v - 96).natAbs : Nat)
    let num := bil + 32 * (384 - far) * (4 * c - (tl + tr + bl + br))
    (2 * num + 2359296) / 4718592

/-- T_OB in 1/16 °C: the mean of three corners (R139). -/
def obTemp : TempSource → Int
  | .uniform t => t
  | .pixel tl tr bl _ _ => (2 * (tl + tr + bl) + 144) / 288

/-- Dark term of entry `ix` of the dark model; 0 with no table or no temperature. -/
def darkOf (table : Option (Array Word)) (ix : Nat) (t16 : Option Int) (d : Nat) : Int :=
  match table, t16 with
  | some ws, some t => let w := ws.getD ix 0; darkTerm (fldN w 0 16) (fldN w 16 8) t d
  | _, _ => 0

/-! ### Black level (R138, R141–R143) -/

/-- What black level needs to know of a version. -/
structure BlackCtx where
  frame : Option FrameRec
  ob : ObVec
  obOn : Bool
  darkOn : Bool
  temps : Option TempSource
  table : Option (Array Word)
  blkTrim : Int

/-- The rung of a BRACKETED pixel, inferred from its value (R142): the smallest rank whose ceiling covers it. -/
def inferRung (f : FrameRec) (m te : Nat) : Nat :=
  let ranks := brkRanks f.cfg
  let v : Int := ((m : Int) - 256) * 2 ^ te
  (ranks.find? fun k => decide (v ≤ 32 * 32632 * 2 ^ rungExp f.params k)).getD (ranks.getLastD 0)

/-- The corrected mantissa of R141. -/
def blackPixel (m te e : Nat) (bk : Int) : Int :=
  if m = 0xFFFFF then clipC
  else
    let blk : Int := 32 * 2 ^ e * bk
    let b : Int := ((m : Int) - 256) * 2 ^ te * 256 - blk
    clampC ((b + 2 ^ (te + 8)) / 2 ^ (te + 9))

/-- Black term of a LOCAL pixel at active (or binned active) column x and row y of tile t, at a rung (R141). -/
def blackTerm (b : BlackCtx) (f : FrameRec) (cols rows : Array Int) (dOb : Int) (dark : Nat → Int) (x y k : Nat) : Int :=
  (if b.obOn then cols.getD x b.ob.all + rows.getD y b.ob.all - b.ob.all else 0) +
  (if b.darkOn then dark (rungDur f.params k) - dOb else 0) + b.blkTrim

/-- A corrected version: mantissas in row order and tile exponents (R135). -/
structure Corrected where
  img : Img
  grid : TileGrid
  exps : Array Nat
  part : Array Bool
deriving DecidableEq, Repr

/-- Exponent at pixel (x, y). -/
def Corrected.e (c : Corrected) (x y : Nat) : Nat := c.exps.getD (c.grid.tileOf x y) 0
/-- Scene value at pixel (x, y), in units of R104. -/
def Corrected.v (c : Corrected) (x y : Nat) : Int := c.img.get x y * 2 ^ c.e x y
/-- Pixel (x, y) is clipped. -/
def Corrected.clip (c : Corrected) (x y : Nat) : Bool := c.img.get x y == clipC
/-- The tile of pixel (x, y) takes part as a neighbour: NEFF is not 0 (R144). -/
def Corrected.takes (c : Corrected) (x y : Nat) : Bool := c.part.getD (c.grid.tileOf x y) false

/-- Columns or rows of an OB vector as an array of n entries. -/
def obArray (l : List (Nat × Int)) (all : Int) (n : Nat) : Array Int := (smGetMany all l 0 n).toArray

/-- Black level (R138–R143). -/
def blackLevel (b : BlackCtx) (peerExps : Nat → Nat) (r : RawVersion) : Corrected :=
  let side := r.grid.side
  let cols := obArray b.ob.cols b.ob.all (128 * side)
  let rows := obArray b.ob.rows b.ob.all (96 * side)
  let tOb := b.temps.map obTemp
  let part := r.desc.map fun d => decide (descNeff d ≠ 0)
  let darkBy : Array (Array Int) := match b.frame with
    | some f => ((List.range (r.grid.tw * r.grid.th)).map fun k =>
        let tx := r.ox + k % r.grid.tw
        let ty := r.oy + k / r.grid.tw
        let t16 := b.temps.map fun x => tileTemp x tx ty
        ((List.range 8).map fun g => darkOf b.table (128 * ty + tx) t16 (rungDur f.params g)).toArray).toArray
    | none => #[]
  let dOb : Int := match b.frame with
    | some f => darkOf b.table 12288 tOb f.params.d0.toNat
    | none => 0
  let px (x y : Nat) : Int :=
    let d := r.d x y
    let m := r.m x y
    let te := descExp d
    match b.frame with
    | some f =>
      let k := if isBracketed f.cfg then inferRung f m te else descRung d
      let dt := (darkBy.getD (r.grid.tileOf x y) #[]).getD k 0
      let ax := r.ox * side + x
      let ay := r.oy * side + y
      blackPixel m te (rungExp f.params k) (blackTerm b f cols rows dOb (fun _ => dt) ax ay k)
    | none =>
      if r.black.isEmpty then blackPixel m te 0 b.blkTrim
      else blackPixel m te (peerExps (descRung d)) (r.black.getD (r.grid.tileOf x y) 0 + b.blkTrim)
  { img := Img.make r.w r.h px, grid := r.grid, exps := r.desc.map fun d => descExp d + 1, part := part }

/-! ### Defects (R144–R147) -/

/-- Mask of the listed pixels of a version: the defect map's active pixels in its rectangle; a binned pixel is listed when
one of its four source pixels is (R40, R145). -/
def listedMask (ml binned : Bool) (body : List Word) (r : RawVersion) : Array Bool :=
  let mark (a : Array Bool) (w : Word) : Array Bool :=
    let x := fldN w 0 13
    let y := fldN w 13 13
    let bx := if !binned then x else if ml then x / 2 else 2 * (x / 4) + x % 2
    let by_ := if !binned then y else if ml then y / 2 else 2 * (y / 4) + y % 2
    let x0 := r.ox * r.grid.side
    let y0 := r.oy * r.grid.side
    if x0 ≤ bx && bx < x0 + r.w && y0 ≤ by_ && by_ < y0 + r.h then a.setIfInBounds ((by_ - y0) * r.w + (bx - x0)) true else a
  body.foldl mark (Array.replicate (r.w * r.h) false)

/-- Replace every listed pixel by the median of its neighbours that are neither listed nor CLIP (R145). -/
def staticMap (step : Nat) (listed : Array Bool) (c : Corrected) : Corrected :=
  let lst (x y : Nat) : Bool := listed.getD (y * c.img.w + x) false
  { c with img := Img.make c.img.w c.img.h fun x y =>
      if !lst x y then c.img.get x y
      else
        let ns := (neighbourAt c.img.w c.img.h step x y).filter fun n => c.takes n.1 n.2 && !lst n.1 n.2 && !c.clip n.1 n.2
        if ns.isEmpty then c.img.get x y
        else writeBack (medianInt (ns.map fun n => c.v n.1 n.2)) (c.e x y) }

/-- Whether R146 finds value v defective among the remaining neighbour values. -/
def isDefective (thrRel thrAbs : Nat) (v : Int) (vals : List Int) : Bool :=
  let s := sortInt vals
  let lo := s.headD 0
  let hi := s.getLastD 0
  decide (thrAbs + thrRel * max hi 0 / 256 < v - hi) || decide (thrAbs + thrRel * max lo 0 / 256 < lo - v)

/-- Dynamic detection (R146): the corrected version, and the pixels replaced. -/
def dynamicMap (step : Nat) (p : PipeParams) (listed : Array Bool) (voids : Nat → Nat → Bool) (c : Corrected) :
    Corrected × List (Nat × Nat) :=
  let lst (x y : Nat) : Bool := listed.getD (y * c.img.w + x) false
  let fix (x y : Nat) : Option Int :=
    if c.clip x y || lst x y then none
    else
      let ns := (neighbourAt c.img.w c.img.h step x y).filter fun n => c.takes n.1 n.2 && !lst n.1 n.2 && !voids n.1 n.2
      if ns.any (fun n => c.clip n.1 n.2) || ns.length < 4 then none
      else
        let vals := ns.map fun n => c.v n.1 n.2
        if isDefective p.dpcThrRel.toNat p.dpcThrAbs.toNat (c.v x y) vals then
          some (writeBack (medianInt vals) (c.e x y))
        else none
  let fixes : Array (Option Int) :=
    ((List.range c.img.h).flatMap fun y => (List.range c.img.w).map fun x => fix x y).toArray
  ({ c with img := Img.make c.img.w c.img.h fun x y => (fixes.getD (y * c.img.w + x) none).getD (c.img.get x y) },
   (List.range c.img.h).flatMap fun y => ((List.range c.img.w).filter fun x =>
     (fixes.getD (y * c.img.w + x) none).isSome).map fun x => (x, y))

/-- Offsets at which R147 looks for the nearest pixel of the same colour in one direction. -/
def fillSteps (step : Nat) : List Int := (List.range (16 / step)).map fun i => ((step * (i + 1) : Nat) : Int)

/-- The nearest usable value from (x, y) in direction (dx, dy), outside the block (R147). -/
def fillFrom (step : Nat) (listed : Array Bool) (voids : Nat → Nat → Bool) (inBlock : Nat → Nat → Bool) (c : Corrected)
    (x y : Nat) (dx dy : Int) : Option Int :=
  ((fillSteps step).filterMap fun k =>
    let ax := (x : Int) + k * dx
    let ay := (y : Int) + k * dy
    if ax < 0 || ay < 0 || (c.img.w : Int) ≤ ax || (c.img.h : Int) ≤ ay then none
    else
      let nx := ax.toNat
      let ny := ay.toNat
      if inBlock nx ny || listed.getD (ny * c.img.w + nx) false || voids nx ny || c.clip nx ny then none
      else some (c.v nx ny)).head?

/-- Block fill (R147): each pixel of a void block takes the floor of the mean of up to four values. -/
def blockFill (step : Nat) (listed : Array Bool) (voids : Nat → Nat → Bool) (c : Corrected) : Corrected :=
  let n := c.grid.side / 8
  let fill (x y : Nat) : Int :=
    let inBlock (nx ny : Nat) : Bool := nx / n == x / n && ny / n == y / n
    let vals := [(-1, 0), (1, 0), (0, -1), (0, 1)].filterMap fun (d : Int × Int) =>
      fillFrom step listed voids inBlock c x y d.1 d.2
    if vals.isEmpty then 0 else writeBack (vals.foldl (· + ·) 0 / vals.length) (c.e x y)
  { c with img := Img.make c.img.w c.img.h fun x y => if voids x y then fill x y else c.img.get x y }

/-! ### Lens shading (R148) -/

/-- The gain table that applies: words of gains, two a word, spacing of its nodes, and where its origin lies. -/
structure ShadeTable where
  words : Array Word
  gsp : Nat
  x0 : Nat
  y0 : Nat

/-- Gain of channel ch at node index n. -/
def gainAt (t : ShadeTable) (ch n : Nat) : Nat :=
  let i := 12513 * ch + n
  fldN (t.words.getD (i / 2) 0) (16 * (i % 2)) 16

/-- The channel of a pixel: R, Gr, Gb, B by CFA position, or one channel. -/
def shadeChannel (ml : Bool) (x y : Nat) : Nat := if ml then 0 else 2 * (y % 2) + x % 2

/-- One shaded mantissa with the tile exponent raised by d. -/
def shadePixel (c g : Int) (d : Nat) : Int := if c = clipC then clipC else (c * g + 2 ^ (13 + d)) / 2 ^ (14 + d)

/-- A corrected mantissa lies in the range of R135, which the CLIP code is outside. -/
def inRangeC (c : Int) : Bool := decide (-0x80000 ≤ c) && decide (c ≤ 0x7FFFE)

/-- Lens shading (R148). -/
def shade (ml : Bool) (t : ShadeTable) (c : Corrected) : Corrected :=
  let gains := Img.make c.img.w c.img.h fun x y =>
    bilinear t.gsp (t.x0 + x) (t.y0 + y) fun n => (gainAt t (shadeChannel ml (t.x0 + x) (t.y0 + y)) n : Nat)
  let ds : Array Nat := ((List.range (c.grid.tw * c.grid.th)).map fun k =>
    let ps := c.grid.pixels c.img.w c.img.h k
    ((List.range 3).find? fun d => ps.all fun p =>
      let m := c.img.get p.1 p.2
      m == clipC || inRangeC (shadePixel m (gains.get p.1 p.2) d)).getD 2).toArray
  { c with
    img := Img.make c.img.w c.img.h fun x y =>
      shadePixel (c.img.get x y) (gains.get x y) (ds.getD (c.grid.tileOf x y) 0)
    exps := (List.range c.exps.size).map (fun k => c.exps.getD k 0 + ds.getD k 0) |>.toArray }

/-! ### Median (R150) -/

/-- The median step of the normal order, on corrected values. -/
def medianStep (step thr : Nat) (c : Corrected) : Corrected :=
  { c with img := Img.make c.img.w c.img.h fun x y =>
      let ns := neighbourAt c.img.w c.img.h step x y
      if c.clip x y || ns.any (fun n => c.clip n.1 n.2) then c.img.get x y
      else
        let vals := c.v x y :: (ns.filter fun n => c.takes n.1 n.2).map fun n => c.v n.1 n.2
        let med := lowMedianInt vals
        if (thr : Int) < (c.v x y - med).natAbs then writeBack med (c.e x y) else c.img.get x y }

/-- The median step of the guard order, on the input tile-float: scene value (M - 256) × 2^E. -/
def medianGuard (step thr : Nat) (r : RawVersion) : RawVersion :=
  let sv (x y : Nat) : Int := ((r.m x y : Int) - 256) * 2 ^ descExp (r.d x y)
  let clip (x y : Nat) : Bool := r.m x y == 0xFFFFF
  { r with mant := (Img.make r.w r.h fun x y =>
      let ns := neighbourAt r.w r.h step x y
      if clip x y || ns.any (fun n => clip n.1 n.2) then (r.m x y : Nat)
      else
        let vals := sv x y :: (ns.filter fun n => decide (descNeff (r.d n.1 n.2) ≠ 0)).map fun n => sv n.1 n.2
        let med := lowMedianInt vals
        if (thr : Int) < (sv x y - med).natAbs then
          clampI 0 0xFFFFE (rshRound med (descExp (r.d x y)) + 256)
        else (r.m x y : Nat)).px.map Int.toNat }

/-! ### The order of the steps (R136) -/

/-- Everything the corrections of a version depend on. -/
structure FrontCtx where
  ml : Bool
  guardOrder : Bool
  binned : Bool
  values : PipeParams
  cfg : PipeCfg
  black : BlackCtx
  peerExps : Nat → Nat
  defect : List Word
  shading : Option ShadeTable

/-- What the front makes of a version before noise reduction: the corrected version, the pixels that dynamic detection
replaced, and the void blocks' membership. -/
structure FrontOut where
  out : Corrected
  fixed : List (Nat × Nat)

/-- The steps before noise reduction, in the version's order (R136). In guard order the median comes first and the static
map is left out; OB black and dynamic detection then run whatever their enables say. The static map applies to LOCAL versions
only (log entry 198). -/
def frontSteps (x : FrontCtx) (r : RawVersion) : FrontOut :=
  let step := if x.ml then 1 else 2
  let thr := x.values.medThr.toNat
  let r1 := if x.guardOrder then medianGuard step thr r else r
  let c0 := blackLevel x.black x.peerExps r1
  let listed : Array Bool := if x.guardOrder || !x.cfg.dpcStaticEn || x.black.frame.isNone then #[]
    else listedMask x.ml x.binned x.defect r
  let c1 := if listed.isEmpty then c0 else staticMap step listed c0
  let (c2, fixed) := if x.guardOrder || x.cfg.dpcDynEn then dynamicMap step x.values listed r.void c1 else (c1, [])
  let c3 := if x.cfg.blockFillEn then blockFill step listed r.void c2 else c2
  let c4 := match x.shading with
    | some t => if x.cfg.shadeEn then shade x.ml t c3 else c3
    | none => c3
  ⟨c4, fixed⟩

end Sys2Proof.Machine
end

