-- ==== Sys2Proof/Machine/Temporal.lean ====
section
/-! DEFINITION. The noise-reduction step and the previous-tile copy (R149, R239, R241, R248, R257). -/
namespace Sys2Proof.Machine

/-- The previous-tile copy of tile t (R90). -/
def copyBase (t : Nat) : Nat := drawerBase t + 0x9000

/-- The effective NR_MODE of a version: none in guard order; SPATIOTEMPORAL acts as SPATIAL outside LOCAL (R136, R149). -/
def nrModeOf (v : FrontVersion) : Nat :=
  if v.guardOrder then 0
  else if v.cfg.nrMode == 2 && v.kind != 1 then 1 else v.cfg.nrMode.toNat

/-- The signed value of a 20-bit word. -/
def signed20 (v : Nat) : Int := (BitVec.ofNat 20 v).toInt

/-- The copy as an image over a LOCAL version's rectangle, with its tile exponents. -/
def copyImage (s : State) (f : FrameRec) (g : TileGrid) (w h : Nat) : Img × List Nat :=
  let planes := ((List.range (g.tw * g.th)).map fun k => plane20 s.dram (copyBase (rectTile f.cfg g.tw k))).toArray
  let exps := match s.front.prevCopy with
    | some (_, _, c) => (List.range (g.tw * g.th)).map fun k => smGet 0 c (rectTile f.cfg g.tw k)
    | none => []
  (Img.make w h fun x y =>
    signed20 ((planes.getD (g.tileOf x y) #[]).getD (64 * (y % g.side) + x % g.side) 0), exps)

/-- The copy port writes the tiles of a finished LOCAL version as they leave the front (R149). -/
def writeCopy (f : FrameRec) (c : Corrected) (s : State) : State :=
  let n := c.grid.tw * c.grid.th
  let s := (List.range n).foldl (fun s k =>
    let x0 := c.grid.side * (k % c.grid.tw)
    let y0 := c.grid.side * (k / c.grid.tw)
    dramWrite s (copyBase (rectTile f.cfg c.grid.tw k)) (planeBytes c.grid.side fun p =>
      (BitVec.ofInt 20 (c.img.get (x0 + p % 64) (y0 + p / 64))).toNat)) s
  let exps := (List.range n).foldl (fun m k => smSet 0 m (rectTile f.cfg c.grid.tw k) (c.exps.getD k 0)) []
  { s with front := { s.front with prevCopy := some (f.id, f.fb, exps) } }

/-! ### Strips (R239) -/

/-- How a version is dealt out to B bobbins: tile columns of a strip, vectors of apron on one side. -/
structure StripPlan where
  grid : TileGrid
  h : Nat
  cols : Nat
  apron : Nat

/-- The plan for a version dealt to `b` bobbins with an apron of `apron` pixels. -/
def stripPlan (b apron : Nat) (g : TileGrid) (h : Nat) : StripPlan :=
  ⟨g, h, (g.tw + max 1 b - 1) / max 1 b, apron / 16⟩

/-- The plan of a run in the NR slot. -/
def inlinePlan (r : InlineRun) (g : TileGrid) (h : Nat) : StripPlan := stripPlan r.recv.length r.apron g h

/-- The plan of a FRONT_TAP run. -/
def tapPlan (r : TapRun) (g : TileGrid) (h : Nat) : StripPlan := stripPlan r.recv.length r.apron g h

/-- First pixel column of rank r's strip. -/
def StripPlan.x0 (p : StripPlan) (r : Nat) : Nat := r * p.cols * p.grid.side
/-- The strip's own vectors in a line; 0 beyond the last strip. -/
def StripPlan.own (p : StripPlan) (r : Nat) : Nat :=
  (min ((r + 1) * p.cols) p.grid.tw - r * p.cols) * p.grid.side / 16
/-- Vectors received per line, aprons included. -/
def StripPlan.per (p : StripPlan) (r : Nat) : Nat := if p.own r = 0 then 0 else p.own r + 2 * p.apron

/-- Whole lines that rank r has received. -/
def StripPlan.lines (p : StripPlan) (r n : Nat) : Nat := if p.per r = 0 then p.h else n / p.per r
/-- Whole lines that rank r has pushed. -/
def StripPlan.pushedLines (p : StripPlan) (r n : Nat) : Nat := if p.own r = 0 then p.h else n / p.own r

/-- The rank whose strip holds pixel column x. -/
def StripPlan.rankOf (p : StripPlan) (x : Nat) : Nat := x / (p.cols * p.grid.side)

/-- Element n of rank r's sequence for a version: the vector at its place in the line, reflected beyond the frame's edge. -/
def stripElem (p : StripPlan) (v : FrontVersion) (c : Corrected) (fed1 : Bool) (r n : Nat) : QueueElem :=
  let per := p.per r
  let y := n / per
  let k := n % per
  let x : Int := (p.x0 r : Int) + 16 * ((k : Int) - p.apron)
  let ec := c.exps.getD (c.grid.tileOf (reflect c.img.w x) y) 0
  let last := decide (n + 1 = per * p.h)
  { vec := lanes fun i => c.img.get (reflect c.img.w (x + i)) y
    fields := [sideWord ec (k == 0) last v.basted (y % p.grid.side == 0) fed1 false 0, v.id, wordOf y, wordOfInt x,
      wordOf v.width, wordOf v.height, v.values.nrSpatial.zeroExtend 32, v.values.nrTemporal.zeroExtend 32] }

/-- The element of the previous-tile copy at the same place. -/
def stripElem1 (p : StripPlan) (copy : Img) (e : QueueElem) (r n : Nat) : QueueElem :=
  let x : Int := (p.x0 r : Int) + 16 * (((n % p.per r : Nat) : Int) - p.apron)
  { e with vec := lanes fun i => copy.get (reflect copy.w (x + i)) (n / p.per r) }

/-- The version-end element of an abandoned tap (R242). -/
def endElem (v : FrontVersion) : QueueElem :=
  { vec := List.replicate 16 0
    fields := [sideWord 0 false true v.basted false false true 0, v.id, 0, 0, wordOf v.width, wordOf v.height,
      v.values.nrSpatial.zeroExtend 32, v.values.nrTemporal.zeroExtend 32] }

/-! ### The step (R149) -/

/-- Rows the noise-reduction step has passed, out of `ready` rows before it: a user kernel passes what it has pushed, while
it runs. -/
def nrRows (v : FrontVersion) (g : TileGrid) (ready : Nat) : Nat :=
  match v.nr with
  | some r =>
    if r.cut then ready
    else
      let p := inlinePlan r g v.height
      (List.range r.recv.length).foldl (fun a k => min a (p.pushedLines k (r.pushed.getD k 0))) ready
  | none => ready

/-- Output of a user kernel at (x, y): the pushed vector if its line was pushed whole, else the input (R241, R257). -/
def userPixel (r : InlineRun) (p : StripPlan) (c : Corrected) (x y : Nat) : Int :=
  let rank := p.rankOf x
  let own := p.own rank
  if y < p.pushedLines rank (r.pushed.getD rank 0) then
    let v := smGet [] r.out (pushKey rank (y * own + (x - p.x0 rank) / 16))
    (v.getD ((x - p.x0 rank) % 16) 0).toInt
  else c.img.get x y

/-- Output of the vendor kernel at a pixel: unspecified, but a CLIP pixel stays CLIP (R225, R248). -/
def vendorPixel (s : State) (v : FrontVersion) (temporal : Bool) (copy : Img × List Nat) (c : Corrected) (x y : Nat) : Int :=
  if c.clip x y then clipC
  else
    (Config.vendorNr (vendorVersion s 1).toNat v.values.nrSpatial.toNat (if temporal then v.values.nrTemporal.toNat else 0)
      c.img.px.toList c.exps.toList (if temporal then some (copy.1.px.toList, copy.2) else none) (y * c.img.w + x)).toInt

/-- The noise-reduction step of a version (R136, R149). -/
def nrStep (s : State) (v : FrontVersion) (c : Corrected) : Corrected :=
  let mode := nrModeOf v
  let step := if s.rst.fuses.variantMl then 1 else 2
  if mode = 3 then medianStep step v.values.medThr.toNat c
  else if mode = 1 || mode = 2 then
    let temporal := mode = 2 && v.prevCopyOk
    let copy := match versionFrame s v with
      | some f => copyImage s f c.grid c.img.w c.img.h
      | none => (⟨0, 0, #[]⟩, [])
    let cut := v.nrFaultRow.getD c.img.h
    { c with img := Img.make c.img.w c.img.h fun x y =>
        if y < cut then vendorPixel s v temporal copy c x y else c.img.get x y }
  else match v.nr with
    | some r =>
      let p := inlinePlan r c.grid v.height
      { c with img := Img.make c.img.w c.img.h (userPixel r p c) }
    | none => c

end Sys2Proof.Machine
end

