-- ==== Sys2Proof/Machine/KernelOps.lean ====
section
/-! DEFINITION. Starting, stopping and faulting a kernel (R224, R241, R250, R254, R257, R258). -/
namespace Sys2Proof.Machine

/-- Byte i of a kernel's image. -/
def imgByte (k : Kernel) (i : Nat) : Byte := fld (imgWord k (i / 4)) (8 * (i % 4)) 8

/-- Section n of an image (CODE, VMEM, SMEM, PMEM): its bytes. -/
def imgSection (k : Kernel) (n : Nat) : List Byte :=
  (List.range (imgWord k (9 + 2 * n)).toNat).map fun i => imgByte k ((imgWord k (8 + 2 * n)).toNat + i)

/-- A remote vector's 40 bytes as sixteen lanes (R233). -/
def bytesVec (bs : List Byte) : List Px := (unpackGroup 16 (bytesNat (bs.take 40))).map (BitVec.ofNat 20)

/-- The vectors a byte list holds, 40 bytes each. -/
def bytesVecs : Nat → List Byte → List (List Px)
  | 0, _ => []
  | n + 1, bs => bytesVec bs :: bytesVecs n (bs.drop 40)

/-- The vector of sixteen zeros. -/
def zeroVec : List Px := List.replicate 16 0

/-- A bobbin as KERNEL_START leaves it: sections loaded, registers 0 but for P0, S14 and S15, running at ENTRY (R224, R254).
Memory beyond the sections keeps what it held (log entry 50). -/
def startedBobbin (k : Kernel) (kid rank : Nat) (b : Bobbin) : Bobbin :=
  let code := bytesWords (imgSection k 0)
  let vm := imgSection k 1
  let sm := bytesWords (imgSection k 2)
  { imem := smSetMany 0 b.imem 0 code
    vmem := smSetMany zeroVec b.vmem 0 (bytesVecs (vm.length / 40) vm)
    smem := smSetMany 0 b.smem 0 sm
    v := List.replicate 32 zeroVec
    a := List.replicate 4 (List.replicate 16 0)
    s := List.replicate 14 0 ++ [wordOf k.bobbins.length, wordOf rank]
    p := 0xFFFF :: List.replicate 7 0
    ag := List.replicate 4 {}
    pc := imgEntry k
    running := true
    kid := kid
    rank := rank }

/-- A kernel's own semaphores in a pillow: keys of the semaphore map. -/
def semKey (pillow kid n : Nat) : Nat := 64 * pillow + 4 * kid + n

/-- KERNEL_START's effect: every bobbin is loaded and begins, PMEM is loaded in each pillow, the counts restart, and the
kernel's semaphores hold 0 (R250, R254; log entry 51). -/
def runKernel (kid ch : Nat) (s : State) : State :=
  let k := kernel s kid
  let s := k.bobbins.zipIdx.foldl (fun s b => updBobbin b.1 (startedBobbin k kid b.2) s) s
  let pm := imgSection k 3
  let s := (kernelPillows k).foldl (fun s p =>
    { s with engines := { s.engines with
        pillows := s.engines.pillows.modify p fun m => memSetBytes m k.region pm
        sems := (List.range 4).foldl (fun m n => smSet 0 m (semKey p kid n) 0) s.engines.sems } }) s
  arbitrate (updKernel kid (fun k => { k with
    phase := .running, channel := ch, fault := 0, faultBobbin := 0, faultPc := 0, final := false, versions := 0
    tapAbandoned := 0, stallUs := 0, resultSeq := 0, result := [], lastResult := none }) s)

/-- Rows that left the front's steps before noise reduction, out of a version's height: a whole band less than was taken,
until all are. -/
def rowsBefore (side th height bands : Nat) : Nat := if th ≤ bands then height else (bands - 1) * side

/-- Side of the tiles of a version: 64, or 32 in a binned frame. -/
def versionSide (v : FrontVersion) : Nat := if v.kind == 3 then 64 else sideOf v.hdr.bin

/-- Tile rows of a version. -/
def versionBands (v : FrontVersion) : Nat := (v.height + versionSide v - 1) / versionSide v

/-- Rows of a version ready for the noise-reduction step. -/
def readyRows (v : FrontVersion) : Nat := rowsBefore (versionSide v) (versionBands v) v.height v.bandsDone

/-- A noise-reduction fault: held and later lines pass unfiltered (R257). -/
def vendorNrFault (s : State) : State :=
  { s with front := { s.front with versions := s.front.versions.map fun v =>
      { v with nrFaultRow := v.nrFaultRow.or (some (readyRows v)) } } }

/-- A fault of a kernel: it is FAULTED, KERNEL_FAULT is raised, and its slot behaves as R257 says. A vendor kernel that has
used its three restarts carries FINAL. -/
def faultKernel (kid code b pc : Nat) (s : State) : State :=
  let k := kernel s kid
  let fin := decide (0x80 ≤ kid) && decide (3 ≤ k.restarts)
  let s := if kid < 16 then endKernel kid .faulted s
    else
      let s := updKernel kid (fun k => { k with phase := .faulted, final := fin }) s
      if kid = 0x81 then vendorNrFault s else s
  let s := updKernel kid (fun k => { k with
    fault := BitVec.ofNat 8 code, faultBobbin := BitVec.ofNat 8 b, faultPc := BitVec.ofNat 12 pc }) s
  raise 0x0402 (kid + 256 * code) (b + 256 * b2n fin) pc s

/-- A version or set of a kernel's slot has completed. -/
def countVersion (kid : Nat) (s : State) : State := updKernel kid (fun k => { k with versions := satInc k.versions }) s

end Sys2Proof.Machine
end

