-- ==== Sys2Proof/Machine/Cal.lean ====
section
/-! DEFINITION. Calibration records: their checks, their defaults, and putting them in force (R46, R153–R156, R169, R413, R474). -/
namespace Sys2Proof.Machine

/-- Words of the body of a table; none for DEFECT_MAP, whose length follows ENTRY_COUNT (R154, R169, R474). -/
def calBodyWords (ml : Bool) (id : Nat) : Option Nat :=
  if id = 2 then some (if ml then 6257 else 25026)
  else if id = 3 then some 12289
  else if id = 4 then some 150156
  else if id = 5 then some 96
  else if id = 6 || id = 7 then some 1024
  else none

/-- LENGTH of a table's body in bytes: the one-channel SHADING body is not a whole number of words (R154). -/
def calBodyBytes (ml : Bool) (id count : Nat) : Nat :=
  if id = 1 then 4 * count else if id = 2 && ml then 25026 else 4 * (calBodyWords ml id).getD 0

/-- The largest record of a table in bytes, header included (R156, R413; log entry 201). -/
def calLargest (ml : Bool) (id : Nat) : Nat :=
  if id = 1 then 262176
  else if id = 2 then (if ml then 25058 else 100136)
  else 32 + calBodyBytes ml id 0

/-- First page of a table's slot in CAL (R413). -/
def calSlotPage (id : Nat) : Nat :=
  if id = 1 then 0 else if id = 2 then 257 else if id = 3 then 355 else if id = 4 then 404
  else if id = 5 then 991 else if id = 6 then 995 else 1000

/-- A table's slot has never been written (R155). -/
def neverWritten (w0 : Word) : Bool := w0 == 0 || w0 == 0xFFFFFFFF

/-- The entries of a defect map are strictly ascending by y, then x, in range, with reserved bits 0. -/
def defectOk : Option Nat → List Word → Bool
  | _, [] => true
  | prev, w :: ws =>
    let key := fldN w 13 13 * 8192 + fldN w 0 13
    fldN w 26 6 == 0 && decide (fldN w 13 13 < 6144) &&
    (match prev with
      | some p => decide (p < key)
      | none => true) && defectOk (some key) ws

/-- The CONTENT check of R155. -/
def calContent (ml : Bool) (id : Nat) (body : List Word) : Bool :=
  if id = 1 then decide (body.length ≤ 65536) && defectOk none body
  else if id = 2 then
    let n := if ml then 12513 else 50052
    let a := body.toArray
    (List.range n).all fun i => decide (0x2000 ≤ fldN (a.getD (i / 2) 0) (16 * (i % 2)) 16)
  else if id = 3 then body.all fun w => fldN w 24 8 == 0 && decide (50 ≤ fldN w 16 8)
  else if id = 5 then
    let a := body.toArray
    (List.range 48).all fun e =>
      let g := (a.getD (2 * e + 1) 0).toNat
      decide (0x20000000 ≤ g) && decide (g ≤ 0x80000000)
  else if id = 6 || id = 7 then body.all fun w => fldN w 20 12 == 0
  else true

/-- The first check of R155 that record `ws` for slot `id` fails; 0 if it is valid. A DEFECT_MAP whose ENTRY_COUNT is above
65,536 fails CONTENT if not before; its CRC is taken over the 65,536 words that a slot holds (log entry 44). -/
def calReason (ml : Bool) (dev : BitVec 64) (id : Nat) (ws : Nat → Word) : Nat :=
  let w0 := ws 0
  let count := (ws 3).toNat
  if fldN w0 16 16 != 1 || fldN w0 8 8 != 0 || fldN w0 0 8 != id || fldN (ws 2) 1 31 != 0 || bitAt (ws 2) 0 != ml ||
     ws 6 != 0 || (id != 1 && count != 0) || (ws 1).toNat != calBodyBytes ml id count then 1
  else
    let bytes := min (calBodyBytes ml id count) (if id = 1 then 262144 else calBodyBytes ml id count)
    let body := (List.range ((bytes + 3) / 4)).map fun i => ws (8 + i)
    let head := (List.range 7).map ws
    if crc32 (wordsBytes head ++ (wordsBytes body).take bytes) != ws 7 then 2
    else if ws 4 != lo32 dev || ws 5 != hi32 dev then 3
    else if (id = 1 && 65536 < count) || !calContent ml id body then 4
    else 0

/-- The body of a record. -/
def calBody (ml : Bool) (id : Nat) (ws : Nat → Word) : List Word :=
  (List.range ((calBodyBytes ml id (ws 3).toNat + 3) / 4)).map fun i => ws (8 + i)

/-! ### Default curves (R169) -/

/-- Default TC[i] = round(1,048,575 × min(1, V_i / 2^20)). -/
def defaultTone (i : Nat) : Nat :=
  let v32 := min (2 ^ (i / 32) * (32 + i % 32)) 33554432
  (2 * 1048575 * v32 + 33554432) / 67108864

/-- Default G[i]: the BT.709 opto-electronic transfer function; the power is compared exactly, raised to its twentieth. -/
def defaultGamma (i : Nat) : Nat :=
  if 1000 * i < 18 * 1024 then (2 * 1048575 * 9 * i + 2048) / 4096
  else
    (List.range 20).reverse.foldl (fun r b =>
      let c := r + 2 ^ b
      if ((2 * c - 1) * 1000 + 2 * 1048575 * 99) ^ 20 * 1024 ^ 9 ≤ (2 * 1048575 * 1099) ^ 20 * i ^ 9 then c else r) 0

/-- The tone curve in force, entry i. -/
def toneAt (t : Option (Array Word)) (i : Nat) : Nat :=
  match t with
  | some a => (a.getD i 0).toNat
  | none => defaultTone i

/-! ### Putting a table in force -/

/-- The coefficients an MCV_COEF body sets: OFFSET and GAIN of entry e = 24v + c (R474). -/
def mcvEntries (body : List Word) (k : Nat) : List (Nat × Word) :=
  (List.range 48).filterMap fun e =>
    let w := body.getD (2 * e + k) 0
    let d : Word := if k = 0 then 0 else 0x40000000
    if w = d then none else some (e, w)

/-- A valid record's body takes effect (R156, R169, R474). -/
def calInForce (id dest : Nat) (body : List Word) (s : State) : State :=
  if id = 1 then { s with cal := { s.cal with defect := body, validDefect := true } }
  else if id = 2 && dest = 0 then { s with cal := { s.cal with shading := some body, validShading := true } }
  else if id = 2 && dest = 1 then { s with cal := { s.cal with ingress0 := some body } }
  else if id = 2 then { s with cal := { s.cal with ingress1 := some body } }
  else if id = 3 then { s with cal := { s.cal with dark := some body, validDark := true } }
  else if id = 4 then { s with cal := { s.cal with ratioNext := some body } }
  else if id = 5 then { s with mcv := { s.mcv with offsets := mcvEntries body 0, gains := mcvEntries body 1 } }
  else if id = 6 then { s with cal := { s.cal with tone := some body } }
  else { s with cal := { s.cal with gamma := some body } }

/-- Tables waiting for the front's version boundary take effect (R156). -/
def frontTables (s : State) : State :=
  let s1 := s.cal.frontPending.foldl (fun s p => calInForce p.table p.dest p.body s) s
  { s1 with cal := { s1.cal with frontPending := [] } }

/-- Tables waiting for the back's version boundary take effect (R169). -/
def backTables (s : State) : State :=
  let s1 := s.cal.backPending.foldl (fun s p => calInForce p.table p.dest p.body s) s
  { s1 with cal := { s1.cal with backPending := [] } }

/-! ### The stored tables (R155, R413) -/

/-- Address in eMRAM of a word of table `id`'s slot; CAL begins at page 4,352. -/
def calWordAt (cells : List (Nat × Byte)) (id i : Nat) : Word := memWord cells ((4352 + calSlotPage id) * 1024 + 4 * i)

/-- Check one stored table: a slot never written counts as valid with its default, a failed one raises CAL_INVALID and is
not used (R155). -/
def loadStored (id : Nat) (s : State) : State :=
  let ml := s.rst.fuses.variantMl
  let ws := calWordAt s.nvm.cells id
  let valid (b : Bool) (s : State) : State :=
    if id = 1 then { s with cal := { s.cal with validDefect := b } }
    else if id = 2 then { s with cal := { s.cal with validShading := b } }
    else if id = 3 then { s with cal := { s.cal with validDark := b } }
    else s
  if neverWritten (ws 0) then valid true s
  else
    let r := calReason ml s.rst.fuses.deviceId id ws
    if r = 0 then
      if id = 4 then { s with readout := { s.readout with trims := ratioTrims (calBody ml id ws) } }
      else calInForce id 0 (calBody ml id ws) s
    else raise 0x0201 (id + 256 * r) 0 0 (valid false s)

/-- The Bureau reads and checks the seven stored tables (R155). -/
def loadStoredTables (s : State) : State :=
  let s := (rangeFrom 1 7).foldl (fun s id => loadStored id s) s
  { s with cal := { s.cal with read := true } }

end Sys2Proof.Machine
end

