-- ==== Sys2Proof/Machine/Trig.lean ====
section
/-! DEFINITION. Sines in fixed point, and the tables that the manual states by formula: the polyphase coefficients (R178) and
the spectrum's COS and SIN (R191). -/
namespace Sys2Proof.Machine

/-- One in fixed point: 2^96. -/
def fxOne : Int := 2 ^ 96

/-- π in fixed point. -/
def fxPi : Int := 248902613312231085230521944622

/-- Product in fixed point, rounded to nearest. -/
def fxMul (a b : Int) : Int := (a * b + fxOne / 2) / fxOne

/-- Quotient in fixed point, rounded to nearest; b is positive. -/
def fxDiv (a b : Int) : Int := (2 * a * fxOne + b) / (2 * b)

/-- Terms of the sine series from term k: t is the current term, y2 the square of the angle. -/
def sinTerms (y2 : Int) : Nat → Int → Int → Int
  | 0, _, _ => 0
  | n + 1, k, t => t + sinTerms y2 n (k + 2) (-(fxMul t y2) / ((k + 1) * (k + 2)))

/-- sin(π n / d) in fixed point, for d > 0. -/
def sinPi (n d : Int) : Int :=
  let r := n % (2 * d)
  let (neg, a) := if d ≤ r then (true, r - d) else (false, r)
  let a := if d < 2 * a then d - a else a
  let y := (fxPi * a + d / 2) / d
  let v := sinTerms (fxMul y y) 24 1 y
  if neg then -v else v

/-- cos(π n / d) in fixed point. -/
def cosPi (n d : Int) : Int := sinPi (2 * n + d) (2 * d)

/-- An integer quotient rounded to nearest, halves away from zero; b is positive. -/
def divAway (a b : Int) : Int := if 0 ≤ a then (2 * a + b) / (2 * b) else -((-2 * a + b) / (2 * b))

/-- sinc(n / d) in fixed point: sin(πz) / (πz), 1 at 0. -/
def sincFx (n d : Int) : Int :=
  if n = 0 then fxOne
  else
    let z := (fxPi * n.natAbs + d / 2) / d
    let v := sinPi n.natAbs d
    fxDiv v z

/-- The raw weight of tap t: x_t = t - 3 - ph / 32; sinc(x / B) × sinc(x / 4) with B = (9 + 2β) / 8 (R178). -/
def rawWeight (bank ph t : Nat) : Int :=
  let x : Int := 32 * ((t : Int) - 3) - ph
  if 128 ≤ x.natAbs then 0
  else fxMul (sincFx (8 * x) (32 * (9 + 2 * bank))) (sincFx x 128)

/-- Index of the value of largest magnitude, the lowest on a tie. -/
def largestIx (l : List Int) : Nat :=
  ((l.zipIdx).foldl (fun (b : Int × Nat) x => if b.1.natAbs < x.1.natAbs then x else b) (0, 0)).2

/-- The eight coefficients of a bank and phase, whose sum is 1,024 (R178). -/
def coefRow (bank ph : Nat) : List Int :=
  let r := (List.range 8).map (rawWeight bank ph)
  let total := r.foldl (· + ·) 0
  let c := r.map fun x => divAway (1024 * x) total
  c.modify (largestIx c) (· + (1024 - c.foldl (· + ·) 0))

/-- The four banks of 32 phases. -/
def coefTable : Array (Array (Array Int)) :=
  ((List.range 4).map fun b => ((List.range 32).map fun p => (coefRow b p).toArray).toArray).toArray

/-- COS[k] = round(32,767 cos(2πk / 256)) (R191). -/
def cosTab (k : Nat) : Int := divAway (32767 * cosPi k 128) fxOne

/-- SIN[k] = round(32,767 sin(2πk / 256)) (R191). -/
def sinTab (k : Nat) : Int := divAway (32767 * sinPi k 128) fxOne

end Sys2Proof.Machine
end

