-- ==== Sys2Proof/Machine/Colour.lean ====
section
/-! DEFINITION. The shared stages of the pipeline back: demosaic, white balance, colour matrix, tone mapping, gamma
(R159–R169). -/
namespace Sys2Proof.Machine

/-- One pixel of three channels: scene values, and which of them are CLIP. -/
structure Rgb where
  r : Int
  g : Int
  b : Int
  cr : Bool := false
  cg : Bool := false
  cb : Bool := false
deriving DecidableEq, Repr

/-- A version in three channels with its tile exponents. -/
structure RgbImg where
  w : Nat
  h : Nat
  grid : TileGrid
  exps : Array Nat
  px : Array Rgb

/-- Pixel (x, y). -/
def RgbImg.get (i : RgbImg) (x y : Nat) : Rgb := i.px.getD (y * i.w + x) ⟨0, 0, 0, false, false, false⟩

/-- An RGB image from a function. -/
def mapRgb (w h : Nat) (grid : TileGrid) (exps : Array Nat) (f : Nat → Nat → Rgb) : RgbImg :=
  { w := w, h := h, grid := grid, exps := exps
    px := ((List.range h).flatMap fun y => (List.range w).map fun x => f x y).toArray }

/-- A scene value written back at exponent e + d lies in the range of R135. -/
def fitsC (v : Int) (e : Nat) : Bool := let c := rshRound v e; decide (-0x80000 ≤ c) && decide (c ≤ 0x7FFFE)

/-- The non-CLIP values of a pixel all fit at exponent e. -/
def rgbFits (p : Rgb) (e : Nat) : Bool := (p.cr || fitsC p.r e) && (p.cg || fitsC p.g e) && (p.cb || fitsC p.b e)

/-- A tile's three channels are written back under one exponent (R160). -/
def renorm (i : RgbImg) : RgbImg :=
  let exps : Array Nat := ((List.range (i.grid.tw * i.grid.th)).map fun k =>
    let e := i.exps.getD k 0
    let ps := i.grid.pixels i.w i.h k
    e + ((List.range (16 - e)).find? fun d => ps.all fun p => rgbFits (i.get p.1 p.2) (e + d)).getD (15 - e)).toArray
  mapRgb i.w i.h i.grid exps fun x y =>
    let e := exps.getD (i.grid.tileOf x y) 0
    let p := i.get x y
    { p with r := writeBack p.r e * 2 ^ e, g := writeBack p.g e * 2 ^ e, b := writeBack p.b e * 2 ^ e }

/-! ### Demosaic (R161, R162) -/

/-- The value a pixel has in the back's arithmetic: CLIP counts as (2^19 - 2) × 2^E_c (R160). -/
def sceneV (c : Corrected) (x y : Nat) : Int := if c.clip x y then 0x7FFFE * 2 ^ c.e x y else c.v x y

/-- Green at a red or blue site (R161). -/
def greenAt (v : Int → Int → Int) (x y : Int) : Int :=
  let c := v x y
  let dh : Int := (v (x - 1) y - v (x + 1) y).natAbs + (2 * c - v (x - 2) y - v (x + 2) y).natAbs
  let dv : Int := (v x (y - 1) - v x (y + 1)).natAbs + (2 * c - v x (y - 2) - v x (y + 2)).natAbs
  let gh := (2 * v (x - 1) y + 2 * v (x + 1) y + 2 * c - v (x - 2) y - v (x + 2) y + 2) / 4
  let gv := (2 * v x (y - 1) + 2 * v x (y + 1) + 2 * c - v x (y - 2) - v x (y + 2) + 2) / 4
  if 4 * dh < 3 * dv then gh
  else if 4 * dv < 3 * dh then gv
  else if dh + dv = 0 then (gh + gv + 1) / 2
  else (2 * (gh * dv + gv * dh) + dh + dv) / (2 * (dh + dv))

/-- The demosaic of an AKN5016-CL version (R161, R162). -/
def demosaic (c : Corrected) : RgbImg :=
  let w := c.img.w
  let h := c.img.h
  let vs := Img.make w h (sceneV c)
  let isClip (x y : Int) : Bool := c.clip (reflect w x) (reflect h y)
  let gf := Img.make w h fun x y => if x % 2 = y % 2 then greenAt vs.at x y else vs.get x y
  let diff := Img.make w h fun x y => vs.get x y - gf.get x y
  let px (x y : Nat) : Rgb :=
    let xi : Int := x
    let yi : Int := y
    let v := vs.get x y
    let hsum := (diff.at (xi - 1) yi + diff.at (xi + 1) yi + 1) / 2
    let vsum := (diff.at xi (yi - 1) + diff.at xi (yi + 1) + 1) / 2
    let dsum := (diff.at (xi - 1) (yi - 1) + diff.at (xi + 1) (yi - 1) + diff.at (xi - 1) (yi + 1) +
      diff.at (xi + 1) (yi + 1) + 2) / 4
    let hc := isClip (xi - 1) yi || isClip (xi + 1) yi
    let vc := isClip xi (yi - 1) || isClip xi (yi + 1)
    let dc := isClip (xi - 1) (yi - 1) || isClip (xi + 1) (yi - 1) || isClip (xi - 1) (yi + 1) || isClip (xi + 1) (yi + 1)
    let own := c.clip x y
    if x % 2 = 1 && y % 2 = 0 then ⟨v + hsum, v, v + vsum, own || hc, own, own || vc⟩
    else if x % 2 = 0 && y % 2 = 1 then ⟨v + vsum, v, v + hsum, own || vc, own, own || hc⟩
    else if x % 2 = 0 then ⟨v, gf.get x y, gf.get x y + dsum, own, own || hc || vc, own || dc⟩
    else ⟨gf.get x y + dsum, gf.get x y, v, own || dc, own || hc || vc, own⟩
  renorm (mapRgb w h c.grid c.exps px)

/-- The single channel of an AKN5016-ML version, in all three places (R159). -/
def monoRgb (c : Corrected) : RgbImg :=
  mapRgb c.img.w c.img.h c.grid c.exps fun x y =>
    let v := sceneV c x y
    let k := c.clip x y
    ⟨v, v, v, k, k, k⟩

/-! ### White balance and matrix (R163) -/

/-- A product with a Q4.16 gain, rounded. -/
def gain16 (v : Int) (g : Int) : Int := (v * g + 32768) / 65536

/-- One pixel through white balance and the matrix; any CLIP channel makes the pixel CLIP (R163). -/
def balancePixel (p : PipeParams) (matrix : Bool) (ml : Bool) (x : Rgb) : Rgb :=
  let r := gain16 x.r (if ml then p.wbG.toNat else p.wbR.toNat)
  let g := gain16 x.g p.wbG.toNat
  let b := gain16 x.b (if ml then p.wbG.toNat else p.wbB.toNat)
  let m (i j : Nat) : Int := (p.matrix.getD (3 * i + j) 0).toInt
  let o (i : Nat) : Int := (m i 0 * r + m i 1 * g + m i 2 * b + 32768) / 65536
  let k := x.cr || x.cg || x.cb
  if matrix then ⟨o 0, o 1, o 2, k, k, k⟩ else ⟨r, g, b, k, k, k⟩

/-- White balance, matrix and the second renormalisation (R160, R163). -/
def balance (p : PipeParams) (ccm ml : Bool) (i : RgbImg) : RgbImg :=
  renorm (mapRgb i.w i.h i.grid i.exps fun x y => balancePixel p (ccm && !ml) ml (i.get x y))

/-! ### Tone mapping (R164–R167) -/

/-- The luminance weights of R164 and R179. -/
def luma (r g b : Int) : Int := (13933 * r + 46871 * g + 4732 * b + 32768) / 65536

/-- Largest curve position. -/
def p16Max : Int := 0x03FFFFFF

/-- The curve position of a luminance (R164). -/
def curvePos (ys : Int) : Int :=
  if ys ≤ 1 then 0
  else
    let k := ys.toNat.log2
    clampI 0 p16Max (2 ^ 21 * k + (ys - 2 ^ k) * 2 ^ 21 / 2 ^ k)

/-- Local offset at a pixel (R165). -/
def gridOffset (grid : Option LtmGrid) (gsp x y : Nat) : Int :=
  match grid with
  | none => 0
  | some g =>
    let a := g.nodes.toArray
    bilinear gsp x y fun n => (a.getD n 0).toInt

/-- The tone-mapped luminance at a curve position (R167). -/
def toneValue (tc : Option (Array Word)) (p16 : Int) : Int :=
  let i := (p16 / 65536).toNat
  let f := p16 % 65536
  let a : Int := toneAt tc i
  let b : Int := toneAt tc (min (i + 1) 1023)
  a + ((b - a) * f + 32768) / 65536

/-- One channel scaled by the luminance ratio (R167). -/
def toneChannel (t ys c : Int) : Nat := (clampI 0 0xFFFFF ((2 * t * c + ys) / (2 * ys))).toNat

/-- A display-referred pixel: three u20 values. -/
structure Disp where
  r : Nat
  g : Nat
  b : Nat
deriving DecidableEq, Repr

/-- A display-referred image. -/
structure DispImg where
  w : Nat
  h : Nat
  px : Array Disp

/-- Pixel (x, y). -/
def DispImg.get (i : DispImg) (x y : Nat) : Disp := i.px.getD (y * i.w + x) ⟨0, 0, 0⟩

/-- A display image from a function. -/
def DispImg.make (w h : Nat) (f : Nat → Nat → Disp) : DispImg :=
  ⟨w, h, ((List.range h).flatMap fun y => (List.range w).map fun x => f x y).toArray⟩

/-- Tone mapping of one pixel whose local offset times LTM_STRENGTH is `off` (R164–R167). -/
def tonePixel (tc : Option (Array Word)) (off : Int) (p : Rgb) : Disp :=
  if p.cr then ⟨0xFFFFF, 0xFFFFF, 0xFFFFF⟩
  else
    let ys := luma p.r p.g p.b
    if ys ≤ 0 then ⟨0, 0, 0⟩
    else
      let t := toneValue tc (clampI 0 p16Max (curvePos ys + off))
      ⟨toneChannel t ys p.r, toneChannel t ys p.g, toneChannel t ys p.b⟩

/-- Gamma of one value (R168). -/
def gammaValue (g : Option (Array Word)) (v : Nat) : Nat :=
  let at_ (i : Nat) : Int :=
    if 1024 ≤ i then 0xFFFFF
    else match g with
      | some a => ((a.getD i 0).toNat : Int)
      | none => (defaultGamma i : Int)
  let i := v / 1024
  let f : Int := (v % 1024 : Nat)
  (at_ i + ((at_ (i + 1) - at_ i) * f + 512) / 1024).toNat

/-- What the back depends on beside the front's output (R159). -/
structure BackCtx where
  ml : Bool
  values : PipeParams
  ccm : Bool
  grid : Option LtmGrid
  gsp : Nat
  tone : Option (Array Word)
  gamma : Option (Array Word)

/-- The version after tone mapping (R159). -/
def tonedImage (b : BackCtx) (c : Corrected) : DispImg :=
  let i := balance b.values b.ccm b.ml (if b.ml then monoRgb c else demosaic c)
  let strength : Int := b.values.ltmStrength.toNat
  DispImg.make i.w i.h fun x y => tonePixel b.tone (gridOffset b.grid b.gsp x y * strength) (i.get x y)

/-- The version after gamma. -/
def gammaImage (b : BackCtx) (i : DispImg) : DispImg :=
  DispImg.make i.w i.h fun x y =>
    let p := i.get x y
    ⟨gammaValue b.gamma p.r, gammaValue b.gamma p.g, gammaValue b.gamma p.b⟩

end Sys2Proof.Machine
end

