-- ==== Sys2Proof/Machine/Scaler.lean ====
section
/-! DEFINITION. Output channels: scaling, insets, format conversion, line payloads (R177–R182, R207, R213). -/
namespace Sys2Proof.Machine

/-! ### Scaling (R177) -/

/-- floor(log2(w / ow)), at most 4. -/
def boxLog (w ow : Nat) : Nat := min 4 (Nat.log2 (w / ow))

/-- The box stage: means of 2^p values, rounded half up. -/
def boxStage (p : Nat) (xs : Array Int) : Array Int :=
  if p = 0 then xs
  else ((List.range (xs.size / 2 ^ p)).map fun i =>
    ((List.range (2 ^ p)).foldl (fun a k => a + xs.getD (i * 2 ^ p + k) 0) 0 + 2 ^ p / 2) / 2 ^ p).toArray

/-- One axis (R177): the box stage, then the polyphase stage unless the ratio is a power of two. -/
def scaleAxis (ow : Nat) (xs : Array Int) : Array Int :=
  let p := boxLog xs.size ow
  let b := boxStage p xs
  let wp := b.size
  if wp = ow then b
  else
    let bank := 4 * (wp - ow) / ow
    ((List.range ow).map fun o =>
      let num := (2 * o + 1) * wp - ow
      let i0 := num / (2 * ow)
      let ph := (32 * (num - i0 * (2 * ow)) + ow) / (2 * ow)
      let (i0, ph) := if ph = 32 then (i0 + 1, 0) else (i0, ph)
      let row := (coefTable.getD bank #[]).getD ph #[]
      let acc : Int := (List.range 8).foldl (fun a t =>
        a + row.getD t 0 * b.getD (reflect wp ((i0 : Int) - 3 + t)) 0) 0
      clampI 0 0xFFFFF ((acc + 512) / 1024)).toArray

/-- A plane scaled to ow × oh: rows first, then columns. -/
def scalePlane (ow oh : Nat) (i : Img) : Img :=
  let rows : Array (Array Int) := ((List.range i.h).map fun y =>
    scaleAxis ow (((List.range i.w).map fun x => i.get x y).toArray)).toArray
  let cols : Array (Array Int) := ((List.range ow).map fun x =>
    scaleAxis oh (((List.range i.h).map fun y => (rows.getD y #[]).getD x 0).toArray)).toArray
  Img.make ow oh fun x y => (cols.getD x #[]).getD y 0

/-- A channel's crop of the display image, scaled to its output size; each of the three channels separately (R177). -/
def channelImage (c : StreamCfg) (cropX cropY : Nat) (d : DispImg) : DispImg :=
  let w := c.cropW.toNat
  let h := c.cropH.toNat
  let ow := c.outW.toNat
  let oh := c.outH.toNat
  let plane (f : Disp → Nat) : Img := scalePlane ow oh (Img.make w h fun x y => (f (d.get (cropX + x) (cropY + y)) : Nat))
  let r := plane (·.r)
  let g := plane (·.g)
  let b := plane (·.b)
  DispImg.make ow oh fun x y => ⟨(r.get x y).toNat, (g.get x y).toNat, (b.get x y).toNat⟩

/-- Source rows, counted in the version's frame, that must be final before output line y can be formed: the taps reach at
most seven box rows beyond the line's place. -/
def rowsNeeded (c : StreamCfg) (cropY y : Nat) : Nat :=
  let h := c.cropH.toNat
  cropY + min h ((y + 2) * h / c.outH.toNat + 16 * 2 ^ boxLog h c.outH.toNat)

/-! ### Insets (R181) -/

/-- A pixel of an inset buffer: three 20-bit channels in 64 bits, R lowest. -/
def packInset (p : Disp) : BitVec 64 := BitVec.ofNat 64 (p.r + p.g * 2 ^ 20 + p.b * 2 ^ 40)

/-- The pixel an inset buffer word holds. -/
def unpackInset (w : BitVec 64) : Disp := ⟨fldN w 0 20, fldN w 20 20, fldN w 40 20⟩

/-- Size of the rectangle of a channel's inset: the output size of its source. -/
def insetSize (s : State) (c : StreamCfg) : Nat × Nat :=
  let i := streamCfg s c.insetSrc.toNat
  (i.outW.toNat, i.outH.toNat)

/-- The inset a run has fixed, composited over an image (R181; log entry 202). -/
def composite (s : State) (c : StreamCfg) (r : ChannelRun) (d : DispImg) : DispImg :=
  if !c.insetEn then d
  else
    let (iw, ih) := insetSize s c
    let x0 := c.insetX.toNat
    let y0 := c.insetY.toNat
    let px : Array (BitVec 64) := match r.inset with
      | some f => f.pixels.toArray
      | none => #[]
    DispImg.make d.w d.h fun x y =>
      if x0 ≤ x && x < x0 + iw && y0 ≤ y && y < y0 + ih then unpackInset (px.getD ((y - y0) * iw + (x - x0)) 0)
      else d.get x y

/-! ### Format conversion (R179) -/

/-- Luminance, and the two colour differences at 20 bits. -/
def yOf (p : Disp) : Nat := (luma p.r p.g p.b).toNat
/-- Cb at 20 bits. -/
def cbOf (p : Disp) : Nat :=
  (clampI 0 0xFFFFF ((-7509 * (p.r : Int) - 25259 * p.g + 32768 * p.b + 32768) / 65536 + 524288)).toNat
/-- Cr at 20 bits. -/
def crOf (p : Disp) : Nat :=
  (clampI 0 0xFFFFF ((32768 * (p.r : Int) - 29763 * p.g - 3005 * p.b + 32768) / 65536 + 524288)).toNat

/-- The depth step. -/
def toDepth (b v : Nat) : Nat := if b = 20 then v else min ((v + 2 ^ (19 - b)) / 2 ^ (20 - b)) (2 ^ b - 1)

/-- The component sequences of output line y (R207), before any coding. -/
def lineSeqs (c : StreamCfg) (d : DispImg) (y : Nat) : List (List Nat) :=
  let b := sampleBits c
  let xs := List.range d.w
  let half := List.range (d.w / 2)
  let dep (l : List Nat) : List Nat := l.map (toDepth b)
  let row (f : Disp → Nat) : List Nat := xs.map fun x => f (d.get x y)
  let pair (f : Disp → Nat) : List Nat := half.map fun x => (f (d.get (2 * x) y) + f (d.get (2 * x + 1) y) + 1) / 2
  let quad (f : Disp → Nat) : List Nat := half.map fun x =>
    (f (d.get (2 * x) y) + f (d.get (2 * x + 1) y) + f (d.get (2 * x) (y + 1)) + f (d.get (2 * x + 1) (y + 1)) + 2) / 4
  if c.format == 1 then [row (·.r), row (·.g), row (·.b)]
  else if c.format == 2 then [dep (row yOf), dep (row cbOf), dep (row crOf)]
  else if c.format == 3 then [dep (row yOf), dep (pair cbOf), dep (pair crOf)]
  else if c.format == 4 then (if y % 2 = 0 then [dep (row yOf), dep (quad cbOf), dep (quad crOf)] else [dep (row yOf)])
  else [dep (row yOf)]

/-- Components in the order of an uncoded payload: pixel by pixel in natural x order (R207). -/
def interleave (c : StreamCfg) (seqs : List (List Nat)) : List Nat :=
  let a (k : Nat) : Array Nat := (seqs.getD k []).toArray
  let s0 := a 0
  let s1 := a 1
  let s2 := a 2
  let n := s0.size
  if c.format == 0 then
    if seqs.length = 1 then s0.toList
    else (List.range (n + s1.size)).map fun x => if x % 2 = 0 then s0.getD (x / 2) 0 else s1.getD (x / 2) 0
  else if c.format == 1 || c.format == 2 then
    (List.range n).flatMap fun x => [s0.getD x 0, s1.getD x 0, s2.getD x 0]
  else if seqs.length = 1 then s0.toList
  else (List.range n).flatMap fun x =>
    if x % 2 = 0 then [s0.getD x 0, s1.getD (x / 2) 0, s2.getD (x / 2) 0] else [s0.getD x 0]

/-- Components packed least significant bit first, padded to a 32-bit boundary (R207). -/
def packLsb (b : Nat) (vs : List Nat) : List Byte :=
  natBytes (4 * ((vs.length * b + 31) / 32)) (vs.foldr (fun v a => v % 2 ^ b + 2 ^ b * a) 0)

/-- The most samples a line of the format has. -/
def mostSamples (ml : Bool) (c : StreamCfg) : Nat := (seqLens ml c 0).foldl (· + ·) 0

/-- The payload of a line, its largest stated bound, and whether it exceeds its budget (R207, R212, R213). -/
structure LinePayload where
  bytes : List Byte
  ePeak : Nat
  tooLong : Bool

/-- Code one line's sequences with the coding values in force for its frame. -/
def linePayload (ml : Bool) (c : StreamCfg) (v : CodingVals) (seqs : List (List Nat)) : LinePayload :=
  let b := sampleBits c
  if c.filet == 0 then ⟨packLsb b (interleave c seqs), 0, false⟩
  else
    let n := seqs.foldl (fun a x => a + x.length) 0
    let budget := 8 * v.lineBudget.toNat * n / mostSamples ml c
    let m : FiletMode := ⟨c.filet == 2, v.filetE.toNat, v.filetEmax.toNat, budget⟩
    let l := codeLine b m seqs
    ⟨padBytes l.bits, l.ePeak, m.capped && decide (budget < l.bits.length)⟩

/-- The coding values of the entry of a frame in a stream's buffer. -/
def entryCoding (s : State) (i : Nat) (id : FrameId) (basted : Bool) : CodingVals :=
  match (stream s i).entries.find? fun e => e.kind == .frame && e.id == id && e.basted == basted && !e.closed with
  | some e => e.coding
  | none => codingOf (streamCfg s i)

/-- Write one line of a frame into stream i's buffer. -/
def putLine (i : Nat) (id : FrameId) (basted ml : Bool) (y : Nat) (seqs : List (List Nat)) (s : State) : State :=
  let l := linePayload ml (streamCfg s i) (entryCoding s i id basted) seqs
  addLine i id basted y l.bytes l.ePeak l.tooLong s

end Sys2Proof.Machine
end

