-- ==== Sys2Proof/Machine/Channels.lean ====
section
/-! DEFINITION. A version on the output channels: arrival, crop check, insets, the in-line CHANNEL kernel, lines into the
streams, the end of a frame (R159, R173–R182, R203, R239–R241). -/
namespace Sys2Proof.Machine

/-! ### The versions in the front -/

/-- The version of context i that the front is correcting. -/
def versionOf (s : State) (i : Nat) : Option FrontVersion := s.front.versions.find? fun v => v.ctx == i

/-- The state with the version of context i changed. -/
def updVersion (i : Nat) (f : FrontVersion → FrontVersion) (s : State) : State :=
  { s with front := { s.front with versions := s.front.versions.map fun v => if v.ctx == i then f v else v } }

/-- The marks a version carries: its own, and those of the ingress frame it is read from (R133, R204). -/
def versionMarks (s : State) (v : FrontVersion) : Marks :=
  let m : Marks := { v.marks with basted := v.basted }
  match v.src with
  | .ingress k => marksOr m (ingressAt s k).marks
  | _ => m

/-- What the header of a version says on stream i (R173, R204). -/
def versionInfo (v : FrontVersion) (i : Nat) (m : Marks) : FrameInfo where
  id := v.id
  hdr := v.hdr
  marks := m
  hist := false
  cropY := (v.values.cropY0.getD i 0).toNat
  cropX := (v.values.cropX0.getD i 0).toNat

/-! ### Front and back images of a version -/

/-- A grid of shading gains over a version (R148): the device's table for LOCAL, the context's ingress table otherwise. -/
def versionShading (s : State) (v : FrontVersion) : Option ShadeTable :=
  v.tables.shading.map fun ws =>
    match versionFrame s v with
    | some f =>
      let side := tileSide f.cfg
      { words := ws.toArray, gsp := side, x0 := f.cfg.readout.tx0.toNat * side, y0 := f.cfg.readout.ty0.toNat * side }
    | none => { words := ws.toArray, gsp := 64, x0 := 0, y0 := 0 }

/-- What the corrections of a version depend on. -/
def frontCtxOf (s : State) (v : FrontVersion) : FrontCtx where
  ml := s.rst.fuses.variantMl
  guardOrder := v.guardOrder
  binned := v.hdr.bin
  values := v.values
  cfg := v.cfg
  black := {
    frame := versionFrame s v, ob := v.black.ob, obOn := v.guardOrder || v.cfg.obEn
    darkOn := !v.guardOrder && v.cfg.darkEn, temps := v.black.temps, table := v.tables.dark.map List.toArray
    blkTrim := v.values.blkTrim.toInt }
  peerExps := rungExp v.peer
  defect := v.tables.defect
  shading := versionShading s v

/-- A version before noise reduction. -/
def beforeNr (s : State) (v : FrontVersion) : FrontOut := frontSteps (frontCtxOf s v) (readVersion s v)

/-- A version as it leaves the front. -/
def frontImage (s : State) (v : FrontVersion) : Corrected := nrStep s v (beforeNr s v).out

/-- What the shared stages of the back depend on for a version. -/
def backCtxOf (s : State) (v : FrontVersion) : BackCtx where
  ml := s.rst.fuses.variantMl
  values := v.values
  ccm := v.cfg.ccmEn
  grid := v.grid
  gsp := versionSide v
  tone := v.tables.tone.map List.toArray
  gamma := v.tables.gamma.map List.toArray

/-- Rows of a version that have left the front. -/
def frontRows (v : FrontVersion) : Nat := nrRows v (gridOf (versionSide v) v.width v.height) (readyRows v)

/-- Rows of a version final at the back: a band less than the front has passed, until the last. -/
def backRows (v : FrontVersion) : Nat :=
  let r := frontRows v
  if v.height ≤ r then v.height else r - versionSide v

/-! ### Arrival (R175, R176, R181) -/

/-- The channel takes this version of a frame it takes: every finished one, and a basted one where its stream was among
those of the frame's decision instant and its finished version can still follow (R118, R120, R176). -/
def carriesVersion (s : State) (i : Nat) (v : FrontVersion) : Bool :=
  !v.basted || (carriesBasted s i && s.accum.basteCarried.contains i && !s.accum.withdrawn.contains v.id)

/-- The version's frame contains channel i's crop (R175). -/
def cropFits (s : State) (i : Nat) (v : FrontVersion) : Bool :=
  let c := streamCfg s i
  let f := versionInfo v i {}
  decide (f.cropX + c.cropW.toNat ≤ v.width) && decide (f.cropY + c.cropH.toNat ≤ v.height)

/-- A version that does not contain the crop: the finished frame leaves as DROPPED and is counted; the event is raised once
per STREAM_ENABLE (R175). -/
def cropMisfit (i : Nat) (v : FrontVersion) (s : State) : State :=
  if v.basted then s
  else
    let s := { s with back := { s.back with cropMisfit := satInc s.back.cropMisfit } }
    let s := if (stream s i).enabled then putDropped i (versionInfo v i {}) 4 s else s
    if (channel s i).misfitRaised then s
    else raise 0x0206 i v.id.toNat 0 (updChannel s i fun c => { c with misfitRaised := true })

/-- The inset a host version fixes as its channel begins it: the latest complete one, unless INSET_TIMEOUT has passed. -/
def fixInset (s : State) (c : StreamCfg) : Option InsetFrame :=
  (channel s c.insetSrc.toNat).inset.filter fun f =>
    decide (s.now.tclk ≤ f.completed.tclk + 100000 * c.insetTimeout.toNat)

/-- A black inset: INSET_TIMEOUTS, and INSET_LOST once per STREAM_ENABLE (R181). -/
def insetBlack (i : Nat) (s : State) : State :=
  let s := { s with back := { s.back with insetTimeouts := satInc s.back.insetTimeouts } }
  if (channel s i).insetLostRaised then s
  else raise 0x0207 i 0 0 (updChannel s i fun c => { c with insetLostRaised := true })

/-- Channel i begins a version it takes. -/
def beginRun (i : Nat) (v : FrontVersion) (s : State) : State :=
  let c := streamCfg s i
  let ins := if c.insetEn then fixInset s c else none
  let black := c.insetEn && ins.isNone
  let damaged : Bool := match ins with
    | some f => f.marks.corrupt || f.marks.late || f.marks.incomplete
    | none => false
  let m := versionMarks s v
  let f := versionInfo v i { m with corrupt := m.corrupt || damaged }
  let r : ChannelRun := {
    ctx := v.ctx, id := v.id, basted := v.basted, hdr := v.hdr, marks := f.marks, cropY := f.cropY, cropX := f.cropX
    inset := ins, insetBlack := black, kernel := (channelKernel s i).map (newInline s) }
  let s := updChannel s i fun c => { c with run := some r }
  if black then insetBlack i s else s

/-- The trailer of a frame whose version has ended is written (R205, R216). -/
def writeTrailer (i : Nat) (s : State) : State :=
  match (channel s i).run with
  | none => s
  | some r =>
    match r.ended with
    | none => s
    | some m => updChannel (closeEntry i r.id r.basted m s) i fun c => { c with run := none }

/-- The version of context k reaches channel i, which decides whether to take the frame and checks the crop (R175, R176). -/
def channelArrival (i k : Nat) (s : State) : State :=
  match versionOf s k with
  | none => s
  | some v =>
    if v.reached.contains i then s
    else
      let s := writeTrailer i (updVersion k (fun v => { v with reached := insNat v.reached i }) s)
      if !channelUp s i || !fromCtx s i k || !carriesVersion s i v then s
      else
        let (take, s) := decideTake i v.id s
        if !take then s
        else if !cropFits s i v then cropMisfit i v s
        else beginRun i v s

/-- The frame a channel has begun arrives at its stream's buffer; its header carries every mark known by then (R204, R216,
R217). -/
def offerRun (i : Nat) (s : State) : State :=
  match (channel s i).run with
  | none => s
  | some r =>
    if r.offered then s
    else
      let found : Marks := match versionOf s r.ctx with
        | some v => if v.id == r.id && v.basted == r.basted then versionMarks s v else {}
        | none => {}
      let f : FrameInfo := {
        id := r.id, hdr := r.hdr, marks := marksOr r.marks found, hist := false, cropY := r.cropY, cropX := r.cropX }
      let goes := (stream s i).enabled && !(r.basted && s.accum.withdrawn.contains r.id)
      let (ok, s) := if goes then arriveFrame i f s else (false, s)
      updChannel s i fun c => { c with run := c.run.map fun r => { r with offered := true, accepted := ok } }

/-! ### Lines -/

/-- Output of channel i for a version, insets composited (R159, R177, R181). -/
def channelOutput (s : State) (i : Nat) (v : FrontVersion) (r : ChannelRun) : DispImg :=
  let c := streamCfg s i
  let t := tonedImage (backCtxOf s v) (frontImage s v)
  let d := if c.tap == 1 then t else gammaImage (backCtxOf s v) t
  composite s c r (channelImage c r.cropX r.cropY d)

/-- Output lines of a channel that its source rows allow. -/
def linesReady (c : StreamCfg) (cropY rows : Nat) : Nat :=
  let need (y : Nat) : Nat := rowsNeeded c cropY (if c.format == 4 then 2 * (y / 2) + 1 else y)
  ((List.range c.outH.toNat).takeWhile fun y => decide (need y ≤ rows)).length

/-- Vectors of one output line: three component runs (R239). -/
def chanPer (c : StreamCfg) : Nat := 3 * ((c.outW.toNat + 15) / 16)

/-- Element n of rank r's sequence of `b` ranks: line y mod b, components in the order R, G, B (R239, R240; the side word's
bits 3:0 and 7 are 0, log entry 52). -/
def chanElem (c : StreamCfg) (v : FrontVersion) (d : DispImg) (b r n : Nat) : QueueElem :=
  let per := chanPer c
  let y := r + b * (n / per)
  let k := n % per
  let run := per / 3
  let x := 16 * (k % run)
  let comp := k / run
  let val (j : Nat) : Int :=
    if d.w ≤ x + j then 0
    else
      let p := d.get (x + j) y
      if comp = 0 then p.r else if comp = 1 then p.g else p.b
  { vec := lanes val
    fields := [sideWord 0 (k == 0) (decide (d.h ≤ y + b) && k + 1 == per) v.basted false false false comp, v.id, wordOf y,
      wordOf x, wordOf v.width, wordOf v.height, v.values.nrSpatial.zeroExtend 32, v.values.nrTemporal.zeroExtend 32] }

/-- Every vector of the lines ready has been delivered to a channel's kernel. -/
def channelFed (c : StreamCfg) (r : InlineRun) (ready : Nat) : Bool :=
  let b := r.recv.length
  r.cut || (List.range b).all fun k => decide ((ready + b - 1 - k) / b * chanPer c ≤ r.recv.getD k 0)

/-- Some CHANNEL kernel has not taken what is ready of a version (R22, R238). -/
def channelLags (s : State) (v : FrontVersion) : Bool :=
  (List.range 8).any fun i =>
    match (channel s i).run with
    | none => false
    | some r =>
      r.ctx == v.ctx && r.id == v.id && r.basted == v.basted && r.ended.isNone && r.offered &&
      match r.kernel with
      | none => false
      | some k => !channelFed (streamCfg s i) k (linesReady (streamCfg s i) r.cropY (backRows v))

/-- Deliver to one bobbin while its next line is ready, its queue has room and fewer than 16 lines wait to be pushed (R241);
`fuel` is the queue's length. -/
def feedChannelRank (i : Nat) (c : StreamCfg) (v : FrontVersion) (d : DispImg) (bob b rank ready : Nat) : Nat → State → State
  | 0, s => s
  | fuel + 1, s =>
    match ((channel s i).run).bind (·.kernel) with
    | none => s
    | some r =>
      let n := r.recv.getD rank 0
      let per := chanPer c
      let y := rank + b * (n / per)
      if r.cut || !decide (y < ready) || (bobbin s bob).in0.length ≥ 32 || n / per ≥ r.pushed.getD rank 0 / per + 16 then s
      else
        let s := feedElem bob false (chanElem c v d b rank n) s
        let r' : InlineRun := { r with recv := r.recv.set rank (n + 1) }
        feedChannelRank i c v d bob b rank ready fuel
          (updChannel s i fun x => { x with run := x.run.map fun q => { q with kernel := some r' } })

/-- Deliver channel lines to the bobbins of its kernel. -/
def feedChannel (i : Nat) (v : FrontVersion) (d : DispImg) (r : InlineRun) (ready : Nat) (s : State) : State :=
  (kernel s r.kid).bobbins.zipIdx.foldl
    (fun s b => feedChannelRank i (streamCfg s i) v d b.1 r.recv.length b.2 ready 32 s) s

/-- Lines that have left the channel's kernel, out of `ready`. -/
def kernelLines (c : StreamCfg) (r : InlineRun) (ready : Nat) : Nat :=
  if r.cut then ready
  else
    let per := chanPer c
    let b := r.recv.length
    ((List.range ready).takeWhile fun y => decide ((y / b + 1) * per ≤ r.pushed.getD (y % b) 0)).length

/-- Output of a CHANNEL kernel at (x, y): the pushed value where its line was pushed whole, else the input (R241, R257). -/
def kernelDisp (c : StreamCfg) (r : InlineRun) (d : DispImg) (x y : Nat) : Disp :=
  let per := chanPer c
  let run := per / 3
  let b := r.recv.length
  let rank := y % b
  if (y / b + 1) * per ≤ r.pushed.getD rank 0 then
    let at_ (comp : Nat) : Nat :=
      ((smGet [] r.out (pushKey rank ((y / b) * per + comp * run + x / 16))).getD (x % 16) 0).toNat
    ⟨at_ 0, at_ 1, at_ 2⟩
  else d.get x y

/-- The channel's image after its kernel, if it has one. -/
def afterKernel (c : StreamCfg) (r : ChannelRun) (d : DispImg) : DispImg :=
  match r.kernel with
  | some k => DispImg.make d.w d.h (kernelDisp c k d)
  | none => d

/-- Hand the lines from `lo` up to `hi` to the stream. -/
def putLines (i : Nat) (r : ChannelRun) (d : DispImg) (lo hi : Nat) (s : State) : State :=
  let s := if r.accepted then
      (rangeFrom lo (hi - lo)).foldl (fun s y =>
        putLine i r.id r.basted s.rst.fuses.variantMl y (lineSeqs (streamCfg s i) d y) s) s
    else s
  updChannel s i fun c => { c with run := c.run.map fun r => { r with linesOut := hi } }

/-- Channel i hands over what the back has ready of a version: to its kernel, and from there to its stream. -/
def advanceChannel (v : FrontVersion) (i : Nat) (s : State) : State :=
  match (channel s i).run with
  | none => s
  | some r =>
    if r.ctx != v.ctx || r.id != v.id || r.basted != v.basted || !r.offered then s
    else
      let c := streamCfg s i
      let ready := linesReady c r.cropY (backRows v)
      if ready ≤ r.linesOut then s
      else
        let d := channelOutput s i v r
        let s := match r.kernel with
          | some k => if k.cut then s else feedChannel i v d k ready s
          | none => s
        match (channel s i).run with
        | none => s
        | some r =>
          let hi := match r.kernel with
            | some k => kernelLines c k ready
            | none => ready
          if hi ≤ r.linesOut then s else putLines i r (afterKernel c r d) r.linesOut hi s

/-- Every channel that takes the version goes on. -/
def advanceChannels (v : FrontVersion) (s : State) : State := (List.range 8).foldl (fun s i => advanceChannel v i s) s

/-- Every line of the channels that take a version has been handed over. -/
def channelsDone (s : State) (v : FrontVersion) : Bool :=
  (List.range 8).all fun i =>
    match (channel s i).run with
    | none => true
    | some r => r.ctx != v.ctx || r.ended.isSome || decide ((streamCfg s i).outH.toNat ≤ r.linesOut)

/-! ### The end of a channel's frame -/

/-- A finished version's output goes into the inset buffers of the channels that show it (R181). -/
def storeInset (i : Nat) (v : FrontVersion) (r : ChannelRun) (m : Marks) (s : State) : State :=
  if v.basted || !insetUsers s i then s
  else
    let d := afterKernel (streamCfg s i) r (channelOutput s i v r)
    let f : InsetFrame := { id := v.id, completed := s.now, marks := m, pixels := (d.px.map packInset).toList }
    updChannel s i fun c => { c with inset := some f }

/-- A channel's frame ends: the inset is complete, and the trailer to write carries every mark; its
kernel has completed a version unless a fault cut it off (R24, R181, R182, R205, R255). -/
def endRun (v : FrontVersion) (i : Nat) (s : State) : State :=
  match (channel s i).run with
  | none => s
  | some r =>
    if r.ctx != v.ctx || r.ended.isSome then s
    else
      let m := marksOr r.marks (versionMarks s v)
      let s := storeInset i v r m s
      let s := match r.kernel with
        | some k => if k.cut then s else countVersion k.kid s
        | none => s
      let f (r : ChannelRun) : ChannelRun := { r with ended := some m }
      updChannel s i fun c => { c with run := if r.accepted then c.run.map f else none }

/-! ### Rows -/

/-- The contexts whose versions the front is correcting. -/
def versionCtxs (s : State) : List Nat := s.front.versions.map (·.ctx)

/-- A version reaches output channel `stream`. -/
def execChannelVersionArrival (t : Instant) (strm : Fin 8) (s : State) : Result :=
  let s := setNow t s
  .next (if pipeRuns s then (versionCtxs s).foldl (fun s k => channelArrival strm.val k s) s else s)

end Sys2Proof.Machine
end

