-- ==== Sys2Proof/Machine/Sampler.lean ====
section
/-! DEFINITION. The Sampler: statistics sets, their area, the STATS stream's choice, local tone-mapping grids, automatic
exposure (R73, R166, R185–R193, R242, R249). -/
namespace Sys2Proof.Machine

/-! ### Parts of a set (R186–R191) -/

/-- A word whose two halves are signed 16-bit values. -/
def pairWord (hi lo : Int) : Word := mkWord [((BitVec.ofInt 16 lo).toNat, 0), ((BitVec.ofInt 16 hi).toNat, 16)]

/-- Whether a value written at exponent S lies in the signed 16-bit range. -/
def fits16 (v : Int) (e : Nat) : Bool := let m := rshRound v e; decide (-32768 ≤ m) && decide (m ≤ 32767)

/-- Mean of a list, floor((sum + n / 2) / n); none of an empty list. -/
def meanInt (l : List Int) : Option Int :=
  if l.isEmpty then none else some ((sumInt l + l.length / 2) / l.length)

/-- Scene values of the pixels of a list that are not CLIP. -/
def openValues (c : Corrected) (ps : List (Nat × Nat)) : List Int :=
  (ps.filter fun p => !c.clip p.1 p.2).map fun p => c.v p.1 p.2

/-- The pixels of one CFA subset. -/
def subsetOf (k : Nat) (ps : List (Nat × Nat)) : List (Nat × Nat) := ps.filter fun p => p.1 % 2 == k % 2 && p.2 % 2 == k / 2

/-- The tile record of tile k of a version (R187). -/
def tileRecord (c : Corrected) (k : Nat) : List Word :=
  let ps := c.grid.pixels c.img.w c.img.h k
  let means := (List.range 4).map fun q => meanInt (openValues c (subsetOf q ps))
  let all := sortInt (openValues c ps)
  let least := all.head?
  let most := all.getLast?
  let vals := (means ++ [least, most]).filterMap id
  let e := ((List.range 32).find? fun e => vals.all fun v => fits16 v e).getD 31
  let m (o : Option Int) : Int := match o with
    | some v => rshRound v e
    | none => 0x7FFF
  let mean (q : Nat) : Int := m (means.getD q none)
  [pairWord (mean 1) (mean 0), pairWord (mean 3) (mean 2), pairWord (m most) (m least),
    mkWord [(1, 24), (e, 16), (ps.length - all.length, 0)]]

/-- The tile records of a version, by tile of the active array. -/
def tileRecords (f : FrameRec) (c : Corrected) : List Word :=
  let byTile : Array (List Word) := (List.range (c.grid.tw * c.grid.th)).foldl (fun a k =>
    let t := rectTile f.cfg c.grid.tw k
    if frameTile f t && c.part.getD k false then a.setIfInBounds t (tileRecord c k) else a)
    (Array.replicate 12288 [0, 0, 0, 0])
  byTile.toList.flatten

/-- The luminance of a 2 × 2 quad. -/
def quadL (c : Corrected) (x y : Nat) : Int :=
  (c.v x y + c.v (x + 1) y + c.v x (y + 1) + c.v (x + 1) (y + 1) + 2) / 4

/-- A pixel of a quad is CLIP. -/
def quadClip (c : Corrected) (x y : Nat) : Bool :=
  c.clip x y || c.clip (x + 1) y || c.clip x (y + 1) || c.clip (x + 1) (y + 1)

/-- Origins of the aligned quads of a rectangle of pixels. -/
def quadsIn (x0 x1 y0 y1 : Nat) : List (Nat × Nat) :=
  (rangeFrom (y0 / 2) ((y1 - y0) / 2)).flatMap fun y => (rangeFrom (x0 / 2) ((x1 - x0) / 2)).map fun x => (2 * x, 2 * y)

/-- Pixels of a rectangle. -/
def pixelsIn (x0 x1 y0 y1 : Nat) : List (Nat × Nat) :=
  (rangeFrom y0 (y1 - y0)).flatMap fun y => (rangeFrom x0 (x1 - x0)).map fun x => (x, y)

/-- The histogram bin of a luminance (R188). -/
def histBin (l : Int) : Nat := min (curvePos l / 262144).toNat 255

/-- The histogram: 256 counts (R188). -/
def histogram (ml : Bool) (c : Corrected) : List Word :=
  let bins := if ml then
      (pixelsIn 0 c.img.w 0 c.img.h).map fun p => if c.clip p.1 p.2 then 255 else histBin (c.v p.1 p.2)
    else (quadsIn 0 c.img.w 0 c.img.h).map fun p => if quadClip c p.1 p.2 then 255 else histBin (quadL c p.1 p.2)
  ((bins.foldl (fun (a : Array Nat) b => a.modify b (· + 1)) (Array.replicate 256 0)).toList).map wordOf

/-- Low and high word of a signed 64-bit sum. -/
def words64 (v : Int) : List Word := [lo32 (BitVec.ofInt 64 v), hi32 (BitVec.ofInt 64 v)]

/-- Pixel bounds of zone z: x0, x1, y0, y1 (R189). -/
def zoneBox (c : Corrected) (z : Nat) : Nat × Nat × Nat × Nat :=
  let g := c.grid
  let zx := z % 8
  let zy := z / 8
  (zx * g.tw / 8 * g.side, min c.img.w ((zx + 1) * g.tw / 8 * g.side),
   zy * g.th / 6 * g.side, min c.img.h ((zy + 1) * g.th / 6 * g.side))

/-- The white-balance record of a zone (R189). -/
def wbZone (ml : Bool) (lo hi : Word) (c : Corrected) (z : Nat) : List Word :=
  let (x0, x1, y0, y1) := zoneBox c z
  let qs := if ml then [] else (quadsIn x0 x1 y0 y1).filter fun p =>
    let l := quadL c p.1 p.2
    !quadClip c p.1 p.2 && decide (32 * (lo.toNat : Int) ≤ l) && decide (l ≤ 32 * (hi.toNat : Int))
  let sum (f : Nat × Nat → Int) : List Word := words64 (sumInt (qs.map f))
  sum (fun p => c.v p.1 p.2) ++ sum (fun p => c.v (p.1 + 1) p.2 + c.v p.1 (p.2 + 1)) ++
    sum (fun p => c.v (p.1 + 1) (p.2 + 1)) ++ [wordOf qs.length, 0]

/-- The focus record of a zone (R189); neighbours beyond the frame reflect (R144). -/
def focusZone (ml : Bool) (c : Corrected) (z : Nat) : List Word :=
  let (x0, x1, y0, y1) := zoneBox c z
  let st : Int := if ml then 1 else 2
  let at_ (p : Nat × Nat) (dx dy : Int) : Nat × Nat :=
    (reflect c.img.w ((p.1 : Int) + dx), reflect c.img.h ((p.2 : Int) + dy))
  let around (p : Nat × Nat) : List (Nat × Nat) := [p, at_ p (-st) 0, at_ p st 0, at_ p 0 (-st), at_ p 0 st]
  let ps := (pixelsIn x0 x1 y0 y1).filter fun p =>
    (ml || (p.1 % 2 == 1 && p.2 % 2 == 0)) && (around p).all fun q => !c.clip q.1 q.2
  let v (p : Nat × Nat) : Int := c.v p.1 p.2
  let second (p a b : Nat × Nat) : Int := ((2 * v p - v a - v b).natAbs : Nat)
  words64 (sumInt (ps.map fun p => second p (at_ p (-st) 0) (at_ p st 0))) ++
    words64 (sumInt (ps.map fun p => second p (at_ p 0 (-st)) (at_ p 0 st))) ++
    words64 (sumInt (ps.map v)) ++ [wordOf ps.length, 0]

/-- The motion summary over descriptors with NEFF above 0 (R190); with no such tile the word of the least and greatest is open
(`free`, log entry 156). -/
def motionSummary (descs : List Word) (free : Word) : List Word :=
  let ds := descs.filter fun d => descNeff d != 0
  let mvx := ds.map fun d => (fld d 16 6).toInt
  let mvy := ds.map fun d => (fld d 22 6).toInt
  let ends (l : List Int) : Int × Int := ((sortInt l).headD 0, (sortInt l).getLastD 0)
  let byte (v : Int) : Nat := (BitVec.ofInt 8 v).toNat
  let n (bit : Nat) : Nat := (ds.filter fun d => bitAt d bit).length
  let conf (k : Nat) : Nat := (ds.filter fun d => fldN d 28 3 == k).length
  [wordOfInt (sumInt mvx), wordOfInt (sumInt mvy),
    if ds.isEmpty then free
    else mkWord [(byte (ends mvx).1, 0), (byte (ends mvx).2, 8), (byte (ends mvy).1, 16), (byte (ends mvy).2, 24)],
    mkWord [(n 15, 0), (n 14, 16)], mkWord [(n 13, 0), (ds.length, 16)],
    wordOf ((ds.map descNeff).foldl (· + ·) 0)] ++
  (List.range 4).map (fun k => mkWord [(conf (2 * k), 0), (conf (2 * k + 1), 16)]) ++ List.replicate 6 0

/-- The 256 most recent entries of a flicker series, oldest first, with zeros before (R191). -/
def flickerSeries (l : List FlickerEntry) : List Int :=
  let m := (l.drop (l.length - 256)).map (·.mu)
  List.replicate (256 - m.length) 0 ++ m

/-- The flicker spectrum (R191). -/
def flickerSpectrum (l : List FlickerEntry) : List Word :=
  let n := min 256 l.length
  let mu := flickerSeries l
  let mean := sumInt mu / 256
  let mag (m : Nat) : Word :=
    if n < 256 then 0
    else
      let dot (tab : Nat → Int) : Int := sumInt (mu.zipIdx.map fun x => (x.1 - mean) * tab (x.2 * m % 256))
      let re := dot cosTab
      let im := dot sinTab
      clampU 32 (Nat.sqrt ((re * re + im * im).toNat / 2 ^ 30))
  wordOf n :: (rangeFrom 1 127).map mag

/-- T_SUB_MEAN: the mean of the 255 periods between the entries of the series, each the period of the earlier one; while it
holds fewer than 256 entries the mean is open (log entry 53). -/
def tSubMean (l : List FlickerEntry) (free : Word) : Word :=
  if l.length < 256 then free
  else wordOf ((((l.drop (l.length - 256)).take 255).map (·.tSub)).foldl (· + ·) 0 / 255)

/-- The header of a set (R186). -/
def setHeader (ml corrupt guardOrder : Bool) (f : FrameRec) (fl : List FlickerEntry) (free : Word) : List Word :=
  [mkWord [(1, 16), (b2n ml, 0)], f.id, lo32 f.stamp, hi32 f.stamp, mkWord [(b2n guardOrder, 1), (b2n corrupt, 0)],
    mkWord [(f.cfg.readout.tx0.toNat, 0), (f.cfg.readout.tx1.toNat, 8), (f.cfg.readout.ty0.toNat, 16),
      (f.cfg.readout.ty1.toNat, 24)],
    mkWord [(b2n f.cfg.readout.bin, 8), (f.cfg.exposure.nLog2.toNat, 4), (f.cfg.exposure.mode.toNat, 0)],
    tSubMean fl free] ++ List.replicate 8 0

/-- A statistics set: 50,593 words (R186); `free` is T_SUB_MEAN where it is open, `free2` the motion summary's W2. -/
def statsSet (ml corrupt : Bool) (v : FrontVersion) (f : FrameRec) (fl : List FlickerEntry) (descs : List Word)
    (c : Corrected) (free free2 : Word) : List Word :=
  let body := setHeader ml corrupt v.guardOrder f fl free ++ tileRecords f c ++ histogram ml c ++
    (List.range 48).flatMap (wbZone ml v.wbLo v.wbHi c) ++ (List.range 48).flatMap (focusZone ml c) ++
    motionSummary descs free2 ++ (flickerSeries fl).map wordOfInt ++ flickerSpectrum fl
  withCrc body

/-! ### The output area (R193) -/

/-- Address of slot k of the Sampler output area (R240). -/
def setBase (k : Nat) : Nat := partBase .sampler + 0x32000 * k

/-- The slot that holds a frame's set. -/
def setSlotOf (s : State) (id : FrameId) : Option Nat :=
  (List.range 20).find? fun k => ((s.back.sets.getD k none).map (·.frame.id)) == some id

/-- The slot a new set goes into: an empty one, or the oldest. -/
def nextSetSlot (s : State) : Nat :=
  match (List.range 20).find? fun k => (s.back.sets.getD k none).isNone with
  | some k => k
  | none =>
    (List.range 20).foldl (fun a k =>
      if ((s.back.sets.getD k none).map (·.order)).getD 0 < ((s.back.sets.getD a none).map (·.order)).getD 0 then k else a) 0

/-- Whether the STATS stream sends the set of frame `id`, chosen as R176 chooses (R192). -/
def statsTake (v : FrontVersion) (s : State) : Bool × State :=
  let fresh : Bool := match s.back.statsLast with
    | none => true
    | some l => decide (v.statsEvery.toNat ≤ (v.id - l).toNat)
  if v.statsEn && fresh then (true, { s with back := { s.back with statsLast := some v.id } }) else (false, s)

/-- A set goes to each STATS_TAP kernel: an element into every bobbin's queue, or discarded and counted (R240, R242). -/
def tapSet (v : FrontVersion) (k : Nat) (s : State) : State :=
  let e : QueueElem := { vec := zeroVec, fields := [sideWord 0 true true false false false false 0, v.id, wordOf k, 0,
    wordOf v.width, wordOf v.height, v.values.nrSpatial.zeroExtend 32, v.values.nrTemporal.zeroExtend 32] }
  (slotKernels s 4).foldl (fun s kid =>
    let s := (kernel s kid).bobbins.foldl (fun s b =>
      if (bobbin s b).in0.length < 32 then feedElem b false e s
      else updKernel kid (fun k => { k with tapAbandoned := satInc k.tapAbandoned }) s) s
    countVersion kid s) s

/-- The Sampler completes the set of a finished LOCAL version as the front ends it (R185). -/
def sampleVersion (v : FrontVersion) (f : FrameRec) (fl : List FlickerEntry) (c : Corrected) (s : State) : State :=
  let (free, s) := takeFree s
  let (free2, s) := takeFree s
  let ws := statsSet s.rst.fuses.variantMl (versionMarks s v).corrupt v f fl (readVersion s v).desc.toList c free free2
  let k := nextSetSlot s
  let lost := ((s.back.sets.getD k none).map (·.unsent)).getD false
  let (send, s) := statsTake v s
  let s := dramWriteWords s (setBase k) ws
  let x : SetSlot := { frame := f, order := s.back.setCount, unsent := send }
  let s := { s with back := { s.back with
    sets := s.back.sets.set k (some x), setCount := s.back.setCount + 1, statsSets := satInc s.back.statsSets
    statsLost := if lost then satInc s.back.statsLost else s.back.statsLost } }
  tapSet v k s

/-! ### Commands (R192, R193) -/

/-- The words of STATS_CONFIG in force. -/
def statsWords (b : BackState) : List Word := [mkWord [(b.statsEvery.toNat, 8), (b2n b.statsEn, 0)], b.wbLo, b.wbHi]

/-- STATS_CONFIG. -/
def statsConfigBody (c : Cmd) (s : State) : CmdResult :=
  let ws := overlay c.words (statsWords s.back)
  let w0 := paramAt ws 0
  judged c.words [0xFF01, 0xFFFFFFFF, 0xFFFFFFFF] s <|
    if fldN w0 8 8 = 0 then cmdBad s 0
    else if (paramAt ws 2).toNat < (paramAt ws 1).toNat then cmdBad s 2
    else
      let last := if bitAt w0 0 && !s.back.statsEn then none else s.back.statsLast
      cmdOk { s with back := { s.back with
        statsEvery := fld w0 8 8, statsEn := bitAt w0 0, wbLo := paramAt ws 1, wbHi := paramAt ws 2, statsLast := last } }

/-- Uncorrectable words that a read of memory touches. -/
def badWordsIn (s : State) (a n : Nat) : List Nat :=
  if n = 0 then [] else s.dramBad.filter fun w => decide (a / 8 ≤ w) && decide (w ≤ (a + n - 1) / 8)

/-- STATS_READ; `limit` is the number of result words the requester's path carries: with the echo one word more than that is
cut (R325). -/
def statsReadBody (limit : Nat) (c : Cmd) (s : State) : CmdResult :=
  let id := paramAt c.words 0
  let off := fldN (paramAt c.words 1) 0 16
  let count := if c.words.length < 3 then 1 else fldN (paramAt c.words 2) 0 16
  judged c.words [0xFFFFFFFF, 0xFFFF, 0xFFFF] s <|
    if 50592 < off then cmdBad s 1
    else if limit < count || 50593 < off + count then cmdBad s 2
    else if s.front.versions.any fun v => v.id == id && v.kind == 1 && !v.basted then cmdRefuse s .busy
    else match setSlotOf s id with
      | none => cmdBad s 0
      | some k =>
        let a := setBase k + 4 * off
        let n := (badWordsIn s a (4 * count)).length
        cmdOk (correctRead a (4 * count) (countCommonUe 6 (holderOf a) n s)) (id :: memWords s.dram a count)

/-! ### The local tone-mapping kernel (R166, R249) -/

/-- The newest set held. -/
def newestSet (s : State) : Option (Nat × SetSlot) :=
  (List.range 20).foldl (fun (a : Option (Nat × SetSlot)) k =>
    match s.back.sets.getD k none, a with
    | some x, some y => if y.2.order < x.order then some (k, x) else a
    | some x, none => some (k, x)
    | none, _ => a) none

/-- The 129 × 97 nodes the kernel forms from the tile records of a set. -/
def ltmNodes (s : State) (k : Nat) : List (BitVec 16) :=
  let records := memBytes s.dram (setBase k + 0x40) 196608
  (List.range 12513).map (Config.ltmNode (vendorVersion s 2).toNat records)

/-- A kernel reads the tile records of set k: their single-bit errors are corrected, their uncorrectable words counted (R94,
R97). -/
def readRecords (k : Nat) (s : State) : State :=
  let a := setBase k + 0x40
  correctRead a 196608 (countCommonUe 6 (holderOf a) (badWordsIn s a 196608).length s)

/-- The kernel publishes the grid of the newest set, if it is held, runs, and has not published it yet. -/
def publishGrid (s : State) : State :=
  match newestSet s with
  | none => s
  | some (k, x) =>
    let done := (s.back.grid.map (·.frame)) == some x.frame.id
    if !s.front.cfg.ltmEn || vendorFaulted s 2 || !grantedAt s 4 || done || FrameId.later s.exposure.firstId x.frame.id then s
    else
      let nodes := ltmNodes s k
      let base := if s.back.gridPillowHalf then 0x6200 else 0
      let put (m : Mem) : Mem := memSetBytes m base (nodes.flatMap fun n => natBytes 2 n.toNat)
      let s := readRecords k s
      countVersion 0x82 { s with
        engines := { s.engines with pillows := s.engines.pillows.modify 4 put }
        back := { s.back with grid := some ⟨x.frame.id, nodes⟩, gridPillowHalf := !s.back.gridPillowHalf } }

/-- The local tone-mapping kernel publishes a grid; with the root outputs gated it stands still (R13). -/
def execLtmGridPublish (t : Instant) (s : State) : Result :=
  let s := setNow t s
  .next (if blockRuns .bobbin s && pipeRuns s then publishGrid s else s)

/-! ### Automatic exposure (R73) -/

/-- A stored mantissa and exponent of a tile record as a scene value; none for 0x7FFF. -/
def recordValue (w : Word) (hi : Bool) (e : Nat) : Option Int :=
  let m := fld w (if hi then 16 else 0) 16
  if m == 0x7FFF then none else some (m.toInt * 2 ^ e)

/-- One tile's record in set k, by words. -/
def setRecord (s : State) (k t : Nat) : List Word := memWords s.dram (setBase k + 0x40 + 16 * t) 4

/-- The means that form a tile's mean: green on the colour variant, all four subsets on the other, as twice or four times
the mean; none where a subset has no value. -/
def tileMean4 (ml : Bool) (r : List Word) : Option Int :=
  let e := fldN (r.getD 3 0) 16 5
  let m (q : Nat) : Option Int := recordValue (r.getD (q / 2) 0) (q % 2 == 1) e
  if ml then do
    let a ← m 0
    let b ← m 1
    let c ← m 2
    let d ← m 3
    pure (a + b + c + d)
  else do
    let a ← m 1
    let b ← m 2
    pure (2 * (a + b))

/-- 4 × the mean's sum over the enabled tiles and their number; none where the spec states no mean: a tile without a value
in a subset, or no tile read (log entry 54). -/
def aeMean (s : State) (k : Nat) (f : FrameRec) : Option (Int × Nat) :=
  let rs := ((enabledTiles f.cfg f.mask).map (setRecord s k)).filter fun r => bitAt (r.getD 3 0) 24
  let ms := rs.map (tileMean4 s.rst.fuses.variantMl)
  if rs.isEmpty || ms.any Option.isNone then none else some (sumInt (ms.filterMap id), rs.length)

/-- D_0 of one step of the pseudocode of R73, before its last clamp; `free` stands for the mean where none is stated. -/
def aeDuration (target d0 e : Nat) (m : Option (Int × Nat)) (free : Nat) : Nat :=
  match m with
  | some (sum, n) =>
    let den : Nat := 128 * n * 2 ^ e
    let num := max sum.toNat den
    let q : Rat := min 2 (max (1 / 2) ((target * den : Nat) / (num : Nat) : Rat))
    ((2 * (d0 : Rat) * q + 1) / 2).floor.toNat
  | none => min (2 * d0) (max ((d0 + 1) / 2) free)

/-- The rung of one tile in one step of the pseudocode of R73; `free` stands for the peak's rung where the tile has no peak. -/
def aeRung (f : FrameRec) (r : List Word) (old free : Nat) : Nat :=
  let e := fldN (r.getD 3 0) 16 5
  let sat := fldN (r.getD 3 0) 0 13
  let base := match recordValue (r.getD 2 0) true e with
    | some v =>
      ((List.range 8).find? fun k =>
        decide (256 * v ≤ 32 * 32632 * (f.cfg.exposure.aeHeadroom.toNat : Int) * 2 ^ rungExp f.params k)).getD 7
    | none => free % 8
  max (if sat > 0 then max base (min (old + 1) 7) else base) (old - 1)

/-- The values that frame `id` would have: those in force with every pending set up to it merged. -/
def valuesFor (s : State) (id : FrameId) : FrameParams :=
  let all := sortSets s.exposure.frameId s.exposure.pendingSets
  (all.filter fun x => decide (ahead s.exposure.frameId x.eff ≤ ahead s.exposure.frameId id)).foldl
    (fun a x => applyFrameUpd a x.upd) s.exposure.inForce

/-- What the kernel sets from frame f's set in slot k, for frame `id`. -/
def aeUpdate (k : Nat) (f : FrameRec) (id : FrameId) (s : State) : FrameUpd × State :=
  if isZoned f.cfg then
    let (free, s) := takeFree s
    let m := (enabledTiles f.cfg f.mask).foldl (fun m t =>
      let r := setRecord s k t
      if bitAt (r.getD 3 0) 24 then
        setMapRung m t (aeRung f r (mapRung f.params.map t) (free.toNat / 8 ^ (t % 10)))
      else m) f.params.map
    ({ map := some m }, s)
  else
    let mean := aeMean s k f
    let (free, s) := if mean.isNone then takeFree s else (0, s)
    let p := valuesFor s id
    let d := aeDuration f.cfg.exposure.aeTarget.toNat f.params.d0.toNat (rungExp f.params f.params.globalRung.toNat) mean free.toNat
    let hi := checkTSub s.exposure.cfg p - 400
    ({ d0 := some (wordOf (min hi (max (200 * 2 ^ rungExp p 7) d))) }, s)

/-- The auto-exposure kernel runs (R73, R257, R348). -/
def aeRuns (s : State) : Bool :=
  s.exposure.cfg.exposure.expSrc && !vendorFaulted s 3 && grantedAt s 4 && !s.bureau.pattern.enable &&
  s.exposure.phase == .running

/-- The result from frame n's statistics goes to frame n + 2 as a targeted set, or to the next frame that can take it; an
earlier result for the same frame is replaced (R73). -/
def aeResult (id : FrameId) (s : State) : State :=
  match setSlotOf s id with
  | none => s
  | some k =>
    match s.back.sets.getD k none with
    | none => s
    | some x =>
      match classFPlace s (some (id + 2)) with
      | none => s
      | some (eff, late, _) =>
        let (u, s) := aeUpdate k x.frame eff (countVersion 0x83 (readRecords k s))
        let mine := s.exposure.pendingSets.filter fun y => y.req.isNone && y.eff == eff
        let others := s.exposure.pendingSets.filter fun y => !(y.req.isNone && y.eff == eff)
        let new : PendingSet FrameUpd := ⟨none, 0, some (id + 2), eff, s.now, u⟩
        let s := if late then { s with expCnt := { s.expCnt with aeDeferred := satInc s.expCnt.aeDeferred } } else s
        if !(mine.any fun y => y.target.any fun t => FrameId.later t (id + 2)) &&
            mergedValid applyFrameUpd (frameValid s) s.exposure.inForce (nextFrame s - 1) others new then
          { s with exposure := { s.exposure with pendingSets := others ++ [new] } }
        else s

/-- The auto-exposure kernel's result from the statistics of a frame. -/
def execAeResult (t : Instant) (frame : FrameId) (s : State) : Result :=
  let s := setNow t s
  .next (if aeRuns s then aeResult frame s else s)

end Sys2Proof.Machine
end

