-- ==== Sys2Proof/Machine/Flow.lean ====
section
/-! DEFINITION. The course of versions through the front: arbitration by bands, beginning and ending a version, feeding
kernels, handing lines on (R125–R129, R136–R139, R149, R156, R238–R242). -/
namespace Sys2Proof.Machine

/-! ### What is ready (R120, R128) -/

/-- The contexts in the order the front tries them: priority first. -/
def ctxOrder (s : State) : List Nat := if s.front.ctx1.prio then [1, 0] else [0, 1]

/-- The LOCAL version released first among those the front has not begun (R120). -/
def localCandidate (s : State) : Option VersionSrc :=
  match oldest ((heldSlots s).filter fun x => !x.2.frontRead && !x.2.frontReading && !x.2.neverRead) with
  | some x => some (.history x.1)
  | none =>
    match s.accum.baste with
    | some b => if b.released && !b.begun then some .baste else none
    | none => none

/-- Lines lo to hi - 1 of an ingress frame are all in it, or it has ended (R128). -/
def linesIn (g : IngressFrame) (lo hi : Nat) : Bool :=
  g.ended || (rangeFrom lo (hi - lo)).all fun y => g.blackLines.contains y || g.lines.any fun l => l.1 == y

/-- Side of the tiles of an ingress frame of a context. -/
def ingressSide (x : InputCtx) (g : IngressFrame) : Nat := if x.kind == 3 then 64 else sideOf g.hdr.bin

/-- The oldest ingress frame of context i that the front has not begun. -/
def oldestUnbegun (s : State) (i : Nat) : Option Nat :=
  let ks := [0, 1].filter fun k =>
    let g := ingressAt s k
    (g.phase == .waiting || g.phase == .filling) && g.ctx == i
  ks.foldl (fun a k => match a with
    | none => some k
    | some j => if (ingressAt s k).order < (ingressAt s j).order then some k else some j) none

/-- The version context i would begin now: its first band is ready (R128). -/
def candidate (s : State) (i : Nat) : Option VersionSrc :=
  let x := inputCtx s i
  if !x.enable then none
  else if x.kind == 1 then localCandidate s
  else if isIngress x then
    (oldestUnbegun s i).bind fun k =>
      if linesIn (ingressAt s k) 0 (min (ingressSide x (ingressAt s k)) x.height.toNat) then some (.ingress k) else none
  else none

/-- The next band of context i is ready. -/
def bandReady (s : State) (i : Nat) : Bool :=
  match versionOf s i with
  | some v =>
    decide (v.bandsDone < versionBands v) &&
    (match v.src with
      | .ingress k =>
        linesIn (ingressAt s k) (v.bandsDone * versionSide v) (min v.height ((v.bandsDone + 1) * versionSide v))
      | _ => true)
  | none => (candidate s i).isSome

/-- The front can work: its domain and the memory wafer run, and the vendor noise-reduction kernel's pillows are granted
(R22, R256). -/
def frontCan (s : State) : Bool :=
  pipeRuns s &&
  [2, 3].all fun p => !vendorHolds s.exposure.cfg s.front.cfg p || grantedAt s p

/-! ### Beginning a version (R136–R139, R149) -/

/-- The tables a version of a context is corrected under. -/
def tablesFor (s : State) (i : Nat) : VersionTables :=
  let kind := (inputCtx s i).kind
  { defect := s.cal.defect, dark := s.cal.dark, tone := s.cal.tone, gamma := s.cal.gamma
    shading := if kind == 1 then s.cal.shading else if i = 0 then s.cal.ingress0 else s.cal.ingress1 }

/-- A change of order raises PIPE_ORDER with the first version corrected in it (R137). -/
def noteOrder (id : FrameId) (guardOrder : Bool) (s : State) : State :=
  if s.front.orderGuard == guardOrder then s
  else raise 0x0202 (b2n guardOrder) id.toNat 0 { s with front := { s.front with orderGuard := guardOrder } }

/-- The OB vectors of a LOCAL version, or those of the version before it, counted and reported (R138). -/
def takeOb (f : FrameRec) (b : ObSums) (s : State) : ObVec × State :=
  match obVectors s.rst.fuses.variantMl f.cfg b with
  | some o => (o, { s with front := { s.front with obLast := o } })
  | none =>
    let s := { s with front := { s.front with obHeld := satInc s.front.obHeld } }
    (s.front.obLast,
      if s.front.obLostRaised then s
      else raise 0x0204 0 f.id.toNat 0 { s with front := { s.front with obLostRaised := true } })

/-- The temperatures of a LOCAL version, or those last formed; DARK_DEGRADED once until a version has a valid pixel-wafer
sensor again (R139). -/
def takeTemps (b : BlackInfo) (s : State) : Option TempSource × State :=
  let t := if b.tempsValid then b.temps else s.front.lastTemps
  let s := { s with front := { s.front with lastTemps := t } }
  if b.pixelValid then (t, { s with front := { s.front with darkDegraded := false } })
  else if s.front.darkDegraded then (t, s)
  else (t, raise 0x0205 0 0 0 { s with front := { s.front with darkDegraded := true } })

/-- A frame boundary belongs to the latest capture, whose first lies 1.00 ms after its CAPTURE_START (R74). -/
def ofCapture (s : State) (fb : Nat) : Bool := decide (s.exposure.armedFrom < fb + 50000)

/-- The previous-tile copy holds frame n - 1, of the same capture, for frame n (R149). -/
def copyFits (s : State) (f : FrameRec) : Bool :=
  s.front.prevCopy.any fun c => c.1 == f.id - 1 && ofCapture s c.2.1 == ofCapture s f.fb

/-- A frame filtered without frame n - 1 under SPATIOTEMPORAL counts once in TNR_RESTARTS, whichever of its versions comes
first: both carry its stamp (R149). -/
def countRestart (v : FrontVersion) (s : State) : State :=
  if nrModeOf v = 2 && !v.prevCopyOk && s.front.tnrCounted != some (v.id, v.hdr.stamp) then
    { s with front := { s.front with
      tnrRestarts := satInc s.front.tnrRestarts, tnrCounted := some (v.id, v.hdr.stamp) } }
  else s

/-- The local grid a LOCAL version uses; an old one counts (R166). -/
def takeGrid (id : FrameId) (s : State) : Option LtmGrid × State :=
  match s.back.grid with
  | some g =>
    if s.front.cfg.ltmEn && FrameId.later id g.frame then
      (some g, if 2 < ahead g.frame id then { s with back := { s.back with ltmStale := satInc s.back.ltmStale } } else s)
    else (none, s)
  | none => (none, s)

/-- The pipeline begins its first version after having been stopped: the NR user kernel starts, and faulted noise-reduction
and tone-mapping kernels run again (R254, R257). -/
def firstVersion (s : State) : State :=
  if !s.front.stopSeen then s
  else
    let again (k : Kernel) : Kernel := if k.phase == .faulted then vendorRun k.restarts k else k
    let s := { s with
      front := { s.front with stopSeen := false }
      engines := { s.engines with vendor := (s.engines.vendor.modify 1 again).modify 2 again } }
    if s.front.cfg.nrMode == 4 then
      match nrHolder s with
      | some k => if (kernel s k).phase == .running then s else runKernel k 0 s
      | none => s
    else s

/-- What a LOCAL version rests on: its frame, OB sums and the record of its release. -/
def localSource (s : State) (src : VersionSrc) : Option (FrameRec × ObSums × BlackInfo) :=
  match src with
  | .history k => (histSlot s k).map fun h => (h.frame, h.ob, h.black)
  | .baste => s.accum.baste.map fun b => (b.frame, b.ob, b.black)
  | .ingress _ => none

/-- The source is being read. -/
def markReading (src : VersionSrc) (s : State) : State :=
  match src with
  | .history k => updHist s k fun h => { h with frontReading := true }
  | .baste =>
    let f (b : BasteVersion) : BasteVersion := { b with begun := true }
    { s with accum := { s.accum with baste := s.accum.baste.map f } }
  | .ingress k => updIngress k (fun g => { g with phase := .reading }) s

/-- The kernel and tap connections a version begins with (R238, R254). -/
def connect (v : FrontVersion) (s : State) : FrontVersion :=
  let nr := if nrModeOf v = 4 then (nrKernel s).map (newInline s) else none
  let taps := if v.kind == 1 && !v.basted then
      (slotKernels s 3).map fun k =>
        { kid := k, apron := imgApron (kernel s k), recv := List.replicate (kernel s k).bobbins.length 0 : TapRun }
    else []
  let bad := (nrModeOf v = 1 || nrModeOf v = 2) && vendorFaulted s 1
  { v with nr := nr, taps := taps, nrFaultRow := if bad then some 0 else none }

/-- The back ends every version the front has ended: its tables take effect (R169). -/
def backEnd (s : State) : State :=
  if s.back.drained = 0 then s else backTables { s with back := { s.back with drained := s.back.drained - 1 } }

/-- The front passes an element that tap t has no room for: the kernel receives one version-end element for each bobbin and
nothing more of the version, and TAP_ABANDONED increments (R242). -/
def abandonTap (v : FrontVersion) (t : TapRun) (s : State) : State :=
  let s := (kernel s t.kid).bobbins.foldl (fun s b => feedEnd b (endElem v) s) s
  let off (x : TapRun) : TapRun := if x.kid = t.kid then { x with gone := true } else x
  updVersion v.ctx (fun v => { v with taps := v.taps.map off })
    (updKernel t.kid (fun k => { k with tapAbandoned := satInc k.tapAbandoned }) s)

/-- A version begins: a tap whose kernel has a full queue has no room for it (R242). -/
def startTaps (i : Nat) (s : State) : State :=
  match versionOf s i with
  | none => s
  | some v =>
    (v.taps.filter fun t => (kernel s t.kid).bobbins.any fun b =>
      decide (32 ≤ (bobbin s b).in0.length) || !(bobbin s b).owed.isEmpty).foldl (fun s t => abandonTap v t s) s

/-- The front begins a LOCAL version. -/
def beginLocal (i : Nat) (src : VersionSrc) (f : FrameRec) (ob : ObSums) (b : BlackInfo) (s : State) : State :=
  let order := guardNow s
  let (o, s) := takeOb f ob s
  let (t, s) := takeTemps b s
  let (g, s) := takeGrid f.id s
  let p := s.bureau.pattern
  let v : FrontVersion := {
    ctx := i, kind := 1, src := src, id := f.id, basted := src == .baste, hdr := ownHeader s f
    width := localWidth f.cfg, height := localHeight f.cfg, guardOrder := order, values := f.pipe, cfg := s.front.cfg
    peer := s.exposure.inForce, tables := tablesFor s i, black := { b with ob := o, temps := t }
    pattern := if p.enable then some ⟨p.pattern.toNat, p.level.toNat⟩ else none, grid := g
    prevCopyOk := copyFits s f, wbLo := s.back.wbLo, wbHi := s.back.wbHi
    statsEvery := s.back.statsEvery, statsEn := s.back.statsEn }
  let v := connect v s
  let s := countRestart v (noteOrder f.id order s)
  startTaps i (markReading src { s with front := { s.front with versions := s.front.versions ++ [v] } })

/-- The front begins the version of an ingress frame; its values are those in force (R136, R152, R173), and a PEER tile's
RUNG takes this device's exponents in force (log entry 199). -/
def beginIngress (i k : Nat) (s : State) : State :=
  let x := inputCtx s i
  let g := ingressAt s k
  let order := guardNow s
  let v : FrontVersion := {
    ctx := i, kind := x.kind, src := .ingress k, id := g.hdr.id, basted := false, hdr := g.hdr
    width := x.width.toNat, height := x.height.toNat, guardOrder := order, values := s.front.params, cfg := s.front.cfg
    peer := s.exposure.inForce, tables := tablesFor s i }
  let v := connect v s
  let s := noteOrder g.hdr.id order s
  markReading (.ingress k) { s with front := { s.front with versions := s.front.versions ++ [v] } }

/-- Context i begins its next version. -/
def beginVersion (i : Nat) (s : State) : State :=
  match candidate s i with
  | none => s
  | some src =>
    let s := firstVersion (backEnd s)
    match src with
    | .ingress k => beginIngress i k s
    | _ =>
      match localSource s src with
      | some (f, ob, b) => beginLocal i src f ob b s
      | none => s

/-! ### Kernels in line and taps (R239–R242) -/

/-- Lines that rank r of an NR kernel has received and not wholly pushed. -/
def nrHeld (s : State) (r : Nat) : List Nat := s.front.nrOwners.getD r []

/-- The state with those lines changed. -/
def setNrHeld (r : Nat) (l : List Nat) (s : State) : State :=
  let rows := s.front.nrOwners ++ List.replicate (r + 1 - s.front.nrOwners.length) []
  { s with front := { s.front with nrOwners := rows.set r l } }

/-- Deliver vectors of version i to one bobbin of the NR kernel, 32 at most (R239–R241). -/
def feedNrRank (i : Nat) (v : FrontVersion) (c : Corrected) (copy : Option Img) (p : StripPlan) (bob rank ready : Nat) :
    Nat → State → State
  | 0, s => s
  | fuel + 1, s =>
    match (versionOf s i).bind (·.nr) with
    | none => s
    | some r =>
      let n := r.recv.getD rank 0
      let per := p.per rank
      let first := n % per = 0
      let q := bobbin s bob
      if per = 0 || !decide (n < per * ready) || q.in0.length ≥ 32 || (copy.isSome && q.in1.length ≥ 32) ||
          (first && (nrHeld s rank).length ≥ 16) then s
      else
        let e := stripElem p v c copy.isSome rank n
        let s := feedElem bob false e s
        let s := match copy with
          | some m => feedElem bob true (stripElem1 p m e rank n) s
          | none => s
        let s := if first then setNrHeld rank (nrHeld s rank ++ [i]) s else s
        let r' : InlineRun := { r with recv := r.recv.set rank (n + 1) }
        feedNrRank i v c copy p bob rank ready fuel (updVersion i (fun v => { v with nr := some r' }) s)

/-- Every vector of version i ready for the NR kernel has been delivered. -/
def nrFed (v : FrontVersion) : Bool :=
  match v.nr with
  | none => true
  | some r =>
    let p := inlinePlan r (gridOf (versionSide v) v.width v.height) v.height
    r.cut || (List.range r.recv.length).all fun k => decide (p.per k * readyRows v ≤ r.recv.getD k 0)

/-- Deliver what is ready of version i to the NR kernel. -/
def feedNr (i : Nat) (s : State) : State :=
  match versionOf s i with
  | none => s
  | some v =>
    match v.nr with
    | none => s
    | some r =>
      if nrFed v then s
      else
        let c := (beforeNr s v).out
        let copy := if v.prevCopyOk && v.kind == 1 then
            (versionFrame s v).map fun f => (copyImage s f c.grid c.img.w c.img.h).1
          else none
        let p := inlinePlan r c.grid v.height
        (kernel s r.kid).bobbins.zipIdx.foldl (fun s b => feedNrRank i v c copy p b.1 b.2 (readyRows v) 32 s) s

/-- Deliver vectors of version i to one bobbin of a tap kernel while there is room (R242). -/
def feedTapRank (i : Nat) (v : FrontVersion) (c : Corrected) (p : StripPlan) (kid bob rank rows : Nat) : Nat → State → State
  | 0, s => s
  | fuel + 1, s =>
    match ((versionOf s i).map (·.taps)).bind fun l => l.find? fun t => t.kid == kid with
    | none => s
    | some t =>
      let n := t.recv.getD rank 0
      if t.gone || !decide (n < p.per rank * rows) || (bobbin s bob).in0.length ≥ 32 then s
      else
        let s := feedElem bob false (stripElem p v c false rank n) s
        let bump (x : TapRun) : TapRun := if x.kid = kid then { x with recv := x.recv.set rank (n + 1) } else x
        feedTapRank i v c p kid bob rank rows fuel (updVersion i (fun v => { v with taps := v.taps.map bump }) s)

/-- A tap has received everything that has left the front, or has been left behind. -/
def tapFed (v : FrontVersion) (t : TapRun) : Bool :=
  let p := tapPlan t (gridOf (versionSide v) v.width v.height) v.height
  t.gone || (List.range t.recv.length).all fun k => decide (p.per k * frontRows v ≤ t.recv.getD k 0)

/-- Deliver what has left the front to the tap kernels. -/
def feedTaps (i : Nat) (s : State) : State :=
  match versionOf s i with
  | none => s
  | some v =>
    if v.taps.all (tapFed v) then s
    else
      let c := frontImage s v
      v.taps.foldl (fun s t =>
        let p := tapPlan t c.grid v.height
        (kernel s t.kid).bobbins.zipIdx.foldl (fun s b => feedTapRank i v c p t.kid b.1 b.2 (frontRows v) 32 s) s) s

/-- The front goes on past what it has given out: a tap of context i that has not had room for it is left behind (R242; log
entry 165). -/
def passTaps (i : Nat) (s : State) : State :=
  match versionOf s i with
  | none => s
  | some v => (v.taps.filter fun t => !tapFed v t).foldl (fun s t => abandonTap v t s) s

/-- The end of a version at a tap: a version received whole counts (R242, R255). -/
def endTap (v : FrontVersion) (t : TapRun) (s : State) : State :=
  if t.gone then s else if tapFed v t then countVersion t.kid s else abandonTap v t s

/-- Vectors of the lines that a rank has received of a run. -/
def receivedVecs (per rank : Nat) (r : InlineRun) : Nat := (r.recv.getD rank 0 + per - 1) / per * per

/-- A rank has received lines of a channel's run that it has not pushed whole. -/
def holdsLine (per rank : Nat) (r : InlineRun) : Bool := decide (r.pushed.getD rank 0 < receivedVecs per rank r)

/-- A push of a line of a dropped frame is discarded; a run with nothing left to push goes. -/
def pushLeftover (per rank : Nat) : List InlineRun → List InlineRun
  | [] => []
  | r :: rs =>
    if !holdsLine per rank r then r :: pushLeftover per rank rs
    else
      let r' : InlineRun := { r with pushed := r.pushed.set rank (r.pushed.getD rank 0 + 1) }
      if (List.range r.recv.length).any fun k => holdsLine per k r' then r' :: rs else rs

/-- The vector at the head of bobbin b's output queue is paired with a received line (R241): the state after it, or none
where no received line waits. -/
def drainOne (b : Nat) (s : State) : Option State :=
  let q := bobbin s b
  match q.outq with
  | [] => none
  | e :: rest =>
    let k := kernel s q.kid
    let s' := updBobbin b (fun x => { x with outq := rest }) s
    if imgSlot k = 1 then
      match nrHeld s q.rank with
      | [] => none
      | i :: owners =>
        (versionOf s i).bind fun v => v.nr.map fun r =>
          let own := (inlinePlan r (gridOf (versionSide v) v.width v.height) v.height).own q.rank
          let r' := takePush r q.rank e.vec
          let s' := updVersion i (fun v => { v with nr := some r' }) s'
          if r'.pushed.getD q.rank 0 % own = 0 then setNrHeld q.rank owners s' else s'
    else if imgSlot k = 2 then
      let per := chanPer (streamCfg s k.channel)
      if (channel s k.channel).leftover.any (holdsLine per q.rank) then
        some (updChannel s' k.channel fun c => { c with leftover := pushLeftover per q.rank c.leftover })
      else
        (channel s k.channel).run.bind fun run => run.kernel.bind fun r =>
          if holdsLine per q.rank r then
            let r' := takePush r q.rank e.vec
            let put (x : ChannelRun) : ChannelRun := { x with kernel := some r' }
            some (updChannel s' k.channel fun c => { c with run := c.run.map put })
          else none
    else none

/-- Pair what bobbin b has pushed, up to its queue of 32. -/
def drainOut (b : Nat) : Nat → State → State
  | 0, s => s
  | n + 1, s =>
    match drainOne b s with
    | some s' => drainOut b n s'
    | none => s

/-- The bobbins of the kernels in line. -/
def inlineBobbins (s : State) : List Nat :=
  (slotKernels s 1 ++ slotKernels s 2).flatMap fun k => (kernel s k).bobbins

/-- The pipeline moves on as far as kernels and bands allow. -/
def pump (s : State) : State :=
  if s.front.versions.isEmpty then s
  else
    let s := (inlineBobbins s).foldl (fun s b => drainOut b 32 s) s
    let s := (versionCtxs s).foldl (fun s i => feedTaps i (feedNr i s)) s
    (versionCtxs s).foldl (fun s i => match versionOf s i with
      | some v => advanceChannels v s
      | none => s) s

/-! ### Bands (R97, R128) -/

/-- Words of a tile's 20-bit plane of a version: the first 32 pixels of the first 32 lines in a binned tile. -/
def planeWord (base side w : Nat) : Bool :=
  let o := 8 * w - base
  decide (base ≤ 8 * w) && decide (8 * w < base + 10240) && (side == 64 || (o / 160 < 32 && o % 160 < 80))

/-- Uncorrectable words of tile row b of a LOCAL version, each with its tile. -/
def bandBad (s : State) (v : FrontVersion) (f : FrameRec) (b : Nat) : List (Nat × Nat) :=
  let g := gridOf (versionSide v) v.width v.height
  (List.range g.tw).flatMap fun x =>
    let t := rectTile f.cfg g.tw (b * g.tw + x)
    let base := match v.src with
      | .history k => histBase t k
      | _ => auxBase t
    let d := descWord0 + (22 * t + (match v.src with
      | .history k => k
      | _ => 20)) / 2
    if frameTile f t then ((s.dramBad.filter fun w => w == d || planeWord base (versionSide v) w).map fun w => (w, t)) else []

/-- The words of a band's tiles are read: single-bit errors in them are corrected (R94). -/
def correctBand (v : FrontVersion) (f : FrameRec) (b : Nat) (s : State) : State :=
  let g := gridOf (versionSide v) v.width v.height
  (List.range g.tw).foldl (fun s x =>
    let t := rectTile f.cfg g.tw (b * g.tw + x)
    if !frameTile f t then s
    else match v.src with
      | .history k => correctEntry (22 * t + k) (correctRead (histBase t k) 10240 s)
      | _ => correctEntry (22 * t + 20) (correctRead (auxBase t) 10240 s)) s

/-- Count what reading a band found: the version is CORRUPT (R97). -/
def countBand (i : Nat) (v : FrontVersion) (ue : List Nat) (s : State) : State :=
  match versionFrame s v with
  | some f =>
    let s := correctBand v f v.bandsDone s
    let bad := (bandBad s v f v.bandsDone).filter fun w => !v.badWords.contains w.1
    let s := bad.foldl (fun s w => countPipeUe (chestOf w.2) 1 s) s
    updVersion i (fun v => { v with
      badWords := bad.foldl (fun l w => insNat l w.1) v.badWords
      marks := { v.marks with corrupt := v.marks.corrupt || !bad.isEmpty } }) s
  | none =>
    let bad := ue.eraseDups.filter fun w => passingWord w && partOf (8 * w - commonBase) == .ingress
    let s := bad.foldl (fun s w =>
      let o := 8 * w - partBase .ingress
      spoilIngress (o / (128 * mib)) (o % (128 * mib) / 8) (countCommonUe 5 (holderOf (8 * w)) 1 s)) s
    updVersion i (fun v => { v with marks := { v.marks with corrupt := v.marks.corrupt || !bad.isEmpty } }) s

/-- The version of context i has reached every channel, and every frame taken is offered to its stream. -/
def reachChannels (i : Nat) (s : State) : State :=
  (List.range 8).foldl (fun s k => offerRun k (channelArrival k i s)) s

/-- The front takes the next band of context i. -/
def takeBand (i : Nat) (ecc : List EccHit) (s : State) : State :=
  let s := if (versionOf s i).isNone then beginVersion i s else s
  match versionOf s i with
  | none => s
  | some v =>
    if versionBands v ≤ v.bandsDone then s
    else
      let s := passTaps i s
      let s := countBand i v ((ecc.filter (·.double)).map (·.word)) (markEcc ecc s)
      pump (updVersion i (fun v => { v with bandsDone := v.bandsDone + 1 }) (reachChannels i s))

/-- The front waits for a kernel in line, in the NR slot or on a channel, that has not taken what is ready (R22, R238). -/
def frontStalled (s : State) : Bool := s.front.versions.any fun v => !nrFed v || channelLags s v

/-- At a band boundary the front takes the next ready band by priority, or waits (R128). -/
def bandSelect (ecc : List EccHit) (s : State) : State :=
  if !frontCan s || frontStalled s then s
  else match (ctxOrder s).find? (bandReady s) with
    | some i => takeBand i ecc s
    | none => s

/-- The front begins the next version by priority, where a context is between versions. -/
def beginNext (s : State) : State :=
  if !frontCan s then s
  else match (ctxOrder s).find? fun i => (versionOf s i).isNone && (candidate s i).isSome with
    | some i => beginVersion i s
    | none => s

/-! ### Ending a version (R149, R156, R185) -/

/-- The front has nothing left to do for a version: its bands, its kernels and its channels are done, and an ingress frame
has ended (log entry 55). -/
def versionDone (s : State) (v : FrontVersion) : Bool :=
  decide (versionBands v ≤ v.bandsDone) && decide (v.height ≤ frontRows v) && channelsDone s v &&
  (match v.src with
    | .ingress k => (ingressAt s k).ended
    | _ => true)

/-- The source has been read. -/
def markRead (src : VersionSrc) (s : State) : State :=
  match src with
  | .history k => updHist s k fun h => { h with frontReading := false, frontRead := true }
  | .baste =>
    let f (b : BasteVersion) : BasteVersion := { b with read := true }
    { s with accum := { s.accum with baste := s.accum.baste.map f } }
  | .ingress k => updIngress k (fun _ => {}) s

/-- Void blocks of a version that block fill filled. -/
def fillCount (v : FrontVersion) (r : RawVersion) : Nat :=
  if !v.cfg.blockFillEn then 0
  else r.voids.toList.foldl (fun a w => a + ((List.range 64).filter fun b => bitAt w b).length) 0

/-- Counters of a version's corrections (R158). -/
def countFixes (v : FrontVersion) (s : State) : State :=
  let n := (beforeNr s v).fixed.length
  let k := fillCount v (readVersion s v)
  { s with front := { s.front with
      dpcDynCorrected := satAdd s.front.dpcDynCorrected n, blockFills := satAdd s.front.blockFills k } }

/-- The Sampler and the previous-tile copy take a finished LOCAL version as it leaves the front. -/
def keepVersion (v : FrontVersion) (c : Corrected) (s : State) : State :=
  if v.basted then s
  else match v.src with
    | .history k =>
      match histSlot s k with
      | some h => sampleVersion v h.frame h.flicker c (writeCopy h.frame c s)
      | none => s
    | _ => s

/-- The NR kernel has completed a version: not one that a fault cut off (R255, R257). -/
def countNr (v : FrontVersion) (s : State) : State :=
  match v.nr with
  | some r => if r.cut then s else countVersion r.kid s
  | none => if (nrModeOf v = 1 || nrModeOf v = 2) && v.nrFaultRow.isNone then countVersion 0x81 s else s

/-- Inputs switched off during the version leave now (R127). -/
def dropDisabled (i : Nat) (s : State) : State :=
  if s.front.disableAtEnd.contains i then
    dropIngress i { s with front := { s.front with disableAtEnd := remNat s.front.disableAtEnd i } }
  else s

/-- The front ends a version. -/
def endVersion (v : FrontVersion) (s : State) : State :=
  let c := frontImage s v
  let s := countNr v (countFixes v s)
  let s := v.taps.foldl (fun s t => endTap v t s) s
  let s := (List.range 8).foldl (fun s i => endRun v i s) s
  let s := keepVersion v c s
  let s := markRead v.src s
  let s := { s with
    front := { s.front with versions := s.front.versions.filter fun x => x.ctx != v.ctx }
    back := { s.back with drained := s.back.drained + 1 } }
  arbitrate (noteStop (frontTables (dropDisabled v.ctx s)))

/-- The first version, in the order begun, that the front can end. -/
def endNext (s : State) : State :=
  let s := pump ((versionCtxs s).foldl (fun s i => match versionOf s i with
    | some v => if versionBands v ≤ v.bandsDone then reachChannels i s else s
    | none => s) s)
  match s.front.versions.find? (versionDone s) with
  | some v => endVersion v s
  | none => s

end Sys2Proof.Machine
end

