-- ==== Sys2Proof/Machine/Operands.lean ====
section
/-! DEFINITION. Operand forms of the bobbin instructions: registers, lanes by type, memories, address generators
(R224, R225, R228, R232). -/
namespace Sys2Proof.Machine

/-! ### Registers (R224) -/

/-- Vector register r. -/
def vReg (x : Bobbin) (r : Nat) : List Px := x.v.getD r zeroVec
/-- Lane i of a vector. -/
def lane (v : List Px) (i : Nat) : Px := v.getD i 0
/-- Accumulator a. -/
def aReg (x : Bobbin) (a : Nat) : List Int := x.a.getD a (List.replicate 16 0)
/-- Scalar register r. -/
def sReg (x : Bobbin) (r : Nat) : Word := x.s.getD r 0
/-- Predicate register p; P0 reads as 0xFFFF at all times. -/
def pReg (x : Bobbin) (p : Nat) : BitVec 16 := if p = 0 then 0xFFFF else x.p.getD p 0
/-- Address generator n. -/
def agReg (x : Bobbin) (n : Nat) : AddrGen := x.ag.getD n {}

/-- Write a vector register. -/
def setV (r : Nat) (v : List Px) (x : Bobbin) : Bobbin := { x with v := x.v.set r v }
/-- Write an accumulator. -/
def setA (a : Nat) (v : List Int) (x : Bobbin) : Bobbin := { x with a := x.a.set a v }
/-- Write a scalar register. -/
def setS (r : Nat) (w : Word) (x : Bobbin) : Bobbin := { x with s := x.s.set r w }
/-- Write a predicate register; writes to P0 are ignored. -/
def setP (p : Nat) (m : BitVec 16) (x : Bobbin) : Bobbin := if p = 0 then x else { x with p := x.p.set p m }
/-- Write an address generator. -/
def setAg (n : Nat) (g : AddrGen) (x : Bobbin) : Bobbin := { x with ag := x.ag.set n g }

/-! ### Lanes by type (R225, R228) -/

/-- A vector from its lanes. -/
def vec (f : Nat → Px) : List Px := (List.range 16).map f

/-- A lane as a number: type 0 is u20, 1 and 2 are signed. -/
def laneVal (ty : Nat) (p : Px) : Int := if ty = 0 then (p.toNat : Int) else p.toInt

/-- Least value of a type. -/
def typeMin (ty : Nat) : Int := if ty = 0 then 0 else -0x80000
/-- Greatest value of a type. -/
def typeMax (ty : Nat) : Int := if ty = 0 then 0xFFFFF else 0x7FFFF

/-- A number saturated to a type's range. -/
def satLane (ty : Nat) (v : Int) : Px := BitVec.ofInt 20 (clampI (typeMin ty) (typeMax ty) v)

/-- A scalar broadcast to every lane: its low 20 bits. -/
def broadcast (w : Word) : List Px := List.replicate 16 (fld w 0 20)

/-- Lanes of `new` where the predicate's bit is 1, of `old` elsewhere. -/
def byMask (m : BitVec 16) (new : Nat → Px) (old : List Px) : List Px :=
  vec fun i => if bitAt m i then new i else lane old i

/-- Lane i of the 32-lane concatenation of two vectors (R231). -/
def catLane (a b : List Px) (i : Nat) : Px := if i < 16 then lane a i else lane b (i - 16)

/-! ### Memories (R223, R232) -/

/-- A scalar plus a signed 11-bit offset. -/
def addrOf (base : Word) (off : BitVec 11) : Nat := (base + off.signExtend 32).toNat

/-- A vector of vector memory. -/
def vmGet (x : Bobbin) (a : Nat) : List Px := smGet zeroVec x.vmem a
/-- Write a vector of vector memory. -/
def vmSet (a : Nat) (v : List Px) (x : Bobbin) : Bobbin := { x with vmem := smSet zeroVec x.vmem a v }
/-- A word of scalar memory. -/
def smemGet (x : Bobbin) (a : Nat) : Word := smGet 0 x.smem a
/-- Write a word of scalar memory. -/
def smemSet (a : Nat) (w : Word) (x : Bobbin) : Bobbin := { x with smem := smSet 0 x.smem a w }

/-- One step of an address generator: by STRIDE_X, and after every COUNT_X steps to the start of the row plus STRIDE_Y
(R232). -/
def stepAg (g : AddrGen) : AddrGen :=
  if wordOf (g.steps + 1) = g.countX then
    { g with row := g.row + g.strideY, cur := g.row + g.strideY, steps := 0 }
  else { g with cur := g.cur + g.strideX, steps := g.steps + 1 }

/-- AGSET with FN[0] = 0: BASE and STRIDE_Y; the generator stands at BASE (log entry 58). -/
def agBase (base strideY : Word) (g : AddrGen) : AddrGen :=
  { g with base := base, strideY := strideY, cur := base, row := base, steps := 0 }

/-- AGSET with FN[0] = 1: STRIDE_X and COUNT_X; the count restarts (log entry 58). -/
def agStride (strideX countX : Word) (g : AddrGen) : AddrGen := { g with strideX := strideX, countX := countX, steps := 0 }

/-! ### Windows (R233) -/

/-- A remote window: its base, its size, and where it lies. -/
structure Window where
  base : Nat
  size : Nat
  common : Bool
  writable : Bool
deriving DecidableEq, Repr

/-- The window of a space for a user kernel; none for the vendor window. -/
def windowOf (k : Kernel) (space : Nat) : Option Window :=
  if space = 0 then some ⟨k.region, imgPillowKib k * 1024, false, true⟩
  else if space = 1 then some ⟨k.spillBase, k.spill * mib, true, true⟩
  else if space = 2 then some ⟨partBase .sampler, 4 * mib, true, false⟩
  else none

/-- Bytes an item occupies remotely. -/
def itemSize (scalar : Bool) : Nat := if scalar then 4 else 40

end Sys2Proof.Machine
end

