-- ==== Sys2Proof/Machine/Flags.lean ====
section
/-! DEFINITION. The flags of a bobbin: comparisons into predicates and branches, and the sticky accumulator flag
(R229, R230, R236). -/
namespace Sys2Proof.Machine

/-- A comparison of R230: 0 EQ, 1 NE, 2 LT, 3 LE, 4 GT, 5 GE. -/
def cmpHolds (c : Nat) (a b : Int) : Bool :=
  if c = 0 then decide (a = b) else if c = 1 then decide (a ≠ b) else if c = 2 then decide (a < b)
  else if c = 3 then decide (a ≤ b) else if c = 4 then decide (b < a) else decide (b ≤ a)

/-- The mask of the lanes in which a condition holds, among those a predicate allows. -/
def maskOf (m : BitVec 16) (f : Nat → Bool) : BitVec 16 :=
  BitVec.ofNat 16 ((List.range 16).foldl (fun a i => a + b2n (bitAt m i && f i) * 2 ^ i) 0)

/-- A branch condition of R236: 0 EQ, 1 NE, 2 LT, 3 GE, 4 LTU, 5 GEU. -/
def branchHolds (c : Nat) (a b : Word) : Bool :=
  if c = 0 then a == b else if c = 1 then a != b else if c = 2 then decide (a.toInt < b.toInt)
  else if c = 3 then decide (b.toInt ≤ a.toInt) else if c = 4 then decide (a.toNat < b.toNat)
  else decide (b.toNat ≤ a.toNat)

/-- Largest magnitude an accumulator holds: 2^43 - 1. -/
def accMax : Int := 0x7FFFFFFFFFF

/-- An accumulator value saturated. -/
def accClamp (v : Int) : Int := clampI (-accMax) accMax v

/-- Accumulator values saturate, and any that would pass the limit sets the sticky flag (R229). -/
def putAcc (a : Nat) (vs : List Int) (x : Bobbin) : Bobbin :=
  let sat := vs.any fun v => decide (accClamp v ≠ v)
  { setA a (vs.map accClamp) x with accSat := x.accSat || sat }

/-- An operand of a product: signed or unsigned. -/
def mulVal (signed : Bool) (p : Px) : Int := if signed then p.toInt else (p.toNat : Int)

/-- One multiply-accumulate step: 0 MUL, 1 MAC, 2 MSU. -/
def macVal (op : Nat) (acc prod : Int) : Int := if op = 0 then prod else if op = 1 then acc + prod else acc - prod

end Sys2Proof.Machine
end

