-- ==== Sys2Proof/Machine/BobbinRun.lean ====
section
/-! DEFINITION. How a bobbin issues an instruction: grants, parity, program counter and loops, faults, transfers, queues,
barriers and semaphores (R223, R232–R236, R241, R255–R258). -/
namespace Sys2Proof.Machine

/-! ### Program counter and loops (R236) -/

/-- The next program counter after the instruction at `last` of straight-line code: a loop whose body ends there runs
again, or ends and the loop around it is looked at. -/
def afterInstr (last : Nat) : List LoopLevel → List LoopLevel × Nat
  | [] => ([], (last + 1) % 4096)
  | l :: ls =>
    if l.last = last then (if 1 < l.left then ({ l with left := l.left - 1 } :: ls, l.start) else afterInstr last ls)
    else (l :: ls, (last + 1) % 4096)

/-- The bobbin after the instruction at `last`. -/
def goOn (last : Nat) (x : Bobbin) : Bobbin :=
  let (ls, pc) := afterInstr last x.loops
  { x with loops := ls, pc := pc, wait := none }

/-- The bobbin after the instruction at its PC. -/
def nextPc (x : Bobbin) : Bobbin := goOn x.pc x

/-- A taken branch or jump leaves the body of the innermost loop. -/
def leavesLoop (x : Bobbin) (target : Nat) : Bool :=
  match x.loops with
  | [] => false
  | l :: _ => decide (target < l.start) || decide (l.last < target)

/-! ### Transfers (R233) -/

/-- Bytes of a remote space from an offset of its window. -/
def remoteBytes (s : State) (b : Nat) (w : Window) (a n : Nat) : List Byte :=
  if w.common then memBytes s.dram (w.base + a) n else memBytes (s.engines.pillows.getD (b / 16) []) (w.base + a) n

/-- Write bytes to a remote space. -/
def remoteWrite (b : Nat) (w : Window) (a : Nat) (bs : List Byte) (s : State) : State :=
  if w.common then dramWrite s (w.base + a) bs
  else { s with engines := { s.engines with
    pillows := s.engines.pillows.modify (b / 16) fun m => memSetBytes m (w.base + a) bs } }

/-- A transfer's items put into the bobbin's own memory. -/
def takeItems (t : Transfer) (bs : List Byte) (x : Bobbin) : Bobbin :=
  if t.scalar then { x with smem := smSetMany 0 x.smem t.localAddr (takeWords t.count bs) }
  else { x with vmem := smSetMany zeroVec x.vmem t.localAddr (bytesVecs t.count bs) }

/-- A transfer's items as remote bytes. -/
def giveItems (t : Transfer) (x : Bobbin) : List Byte :=
  if t.scalar then wordsBytes (smGetMany 0 x.smem t.localAddr t.count)
  else (smGetMany zeroVec x.vmem t.localAddr t.count).flatMap fun v => pack20 (v.map BitVec.toNat)

/-- Uncorrectable words of common memory that a transfer read (R94, R97). -/
def transferBad (s : State) (w : Window) (t : Transfer) : List Nat :=
  let a := w.base + t.remote
  let n := t.count * itemSize t.scalar
  if w.common && decide (0 < n) then s.dramBad.filter fun k => decide (a / 8 ≤ k) && decide (k ≤ (a + n - 1) / 8) else []

/-- A transfer of bobbin b completes: its data move, and words found uncorrectable give status 1 (R233; log entry 204). `ecc`:
the errors that the words read hold, in common memory or in the pillow. -/
def moveData (b : Nat) (t : Transfer) (ecc : List EccHit) (s : State) : State :=
  match windowOf (kernel s (bobbin s b).kid) t.space with
  | none => s
  | some w =>
    let n := t.count * itemSize t.scalar
    if t.outward then remoteWrite b w t.remote (giveItems t (bobbin s b)) s
    else
      let s := if w.common then correctRead (w.base + t.remote) n (markEcc ecc s) else s
      let bad := transferBad s w t
      let found := if w.common then !bad.isEmpty else ecc.any (·.double)
      let s := updBobbin b (fun x =>
        let x := takeItems t (remoteBytes s b w t.remote n) x
        if found then { x with tagUe := insNat x.tagUe t.tag } else x) s
      bad.foldl (fun s k => countCommonUe (if t.space = 1 then 7 else 6) (holderOf (8 * k)) 1 s) s

/-- Every transfer of a bobbin completes (R254, R258). -/
def finishTransfers (b : Nat) (s : State) : State :=
  (bobbin s b).transfers.foldl (fun s t => moveData b t [] s) (updBobbin b (fun x => { x with transfers := [] }) s)

/-- Every transfer of a kernel's bobbins completes. -/
def finishKernel (kid : Nat) (s : State) : State := (kernel s kid).bobbins.foldl (fun s b => finishTransfers b s) s

/-- A bobbin faults: the kernel's transfers in flight complete, then it is FAULTED (R257, R258). -/
def bobbinFault (b code : Nat) (s : State) : State :=
  let x := bobbin s b
  pump (faultKernel x.kid code b x.pc (finishKernel x.kid s))

/-! ### Issue (R223, R227, R256, R257) -/

/-- What of an instruction the parity checks of the bobbin's own memories, or the code of a pillow word, can stop. -/
inductive MemUse where
  | no
  | own
  | pillow
deriving DecidableEq, Repr

/-- Bobbin b issues the word w: it runs and waits for nothing, its pillow is granted, its domain is released, and the word
stands at its PC. -/
def issues (s : State) (b : Nat) (w : Word) : Bool :=
  let x := bobbin s b
  x.running && x.wait == none && grantedAt s (b / 16) && !s.clock.limp && !s.rst.asserted.contains .bobbin &&
  smGet 0 x.imem x.pc == w && legalWord w

/-- The fault code of what an instruction's parity and code checks find (R257). -/
def parityFault (p : ParityFind) (use : MemUse) : Option Nat :=
  match p, use with
  | .imem, _ => some 1
  | .mem, .own => some 2
  | .mem, .pillow => some 6
  | _, _ => none

/-- A bobbin of a vendor kernel, which runs code the spec does not give, has a fault: the PC is open, and so is which of the two
kernels of pillow 4 the bobbin runs (R257; log entry 67). -/
def vendorFault (b code : Nat) (s : State) : State :=
  let p := b / 16
  let (w, s) := takeFree s
  let v := if vendorOf p = 2 && s.exposure.cfg.exposure.expSrc && (!s.front.cfg.ltmEn || bitAt w 12) then 3 else vendorOf p
  if !vendorHolds s.exposure.cfg s.front.cfg p || !grantedAt s p || !blockRuns .bobbin s || vendorFaulted s v then s
  else faultKernel (0x80 + v) code b (fldN w 0 12) s

/-- A bobbin issues an instruction, or its fetch or its memory read has a parity error (R257). -/
def issueWith (i : BobbinIssue) (w : Word) (use : MemUse) (f : Nat → State → State) (s : State) : Result :=
  let b := i.ix.val
  .next (match parityFault i.parity use with
    | some code =>
      if vendorHolds s.exposure.cfg s.front.cfg (b / 16) then vendorFault b code s
      else if issues s b w then bobbinFault b code s else s
    | none => if issues s b w then f b s else s)

/-- An instruction that changes only its own bobbin's registers. -/
def issueOwn (i : BobbinIssue) (w : Word) (f : Bobbin → Bobbin) (s : State) : Result :=
  issueWith i w .no (fun b s => updBobbin b (fun x => nextPc (f x)) s) s

/-- An instruction on the bobbin's own memories: a fault code, or the bobbin it leaves. -/
def issueMem (i : BobbinIssue) (w : Word) (use : MemUse) (f : Bobbin → Option Bobbin) (code : Nat) (s : State) : Result :=
  issueWith i w use (fun b s => match f (bobbin s b) with
    | some x => updBobbin b (fun _ => nextPc x) s
    | none => bobbinFault b code s) s

/-- A taken branch or jump of any kind; out of a loop body it is fault LOOP (R236; log entry 205). -/
def jumpTo (b target : Nat) (f : Bobbin → Bobbin) (s : State) : State :=
  if leavesLoop (bobbin s b) target then bobbinFault b 9 s
  else updBobbin b (fun x => { f x with pc := target }) s

/-- Bobbin b waits. -/
def waitFor (b : Nat) (w : BobbinWait) (s : State) : State :=
  updBobbin b (fun x => { x with wait := some w, waitSpan := ⟨s.now.real, 0⟩ }) s

/-- A pop or a push ends bobbin b's idle span. -/
def notIdle (s : State) (x : Bobbin) : Bobbin := { x with idleSpan := ⟨s.now.real, 0⟩ }

/-! ### Stream queues (R234, R240–R242) -/

/-- The version whose metadata a pop latched has lines that the bobbin has received and not pushed (R241). -/
def linesHeld (s : State) (x : Bobbin) (m : List Word) : Bool :=
  let k := kernel s x.kid
  if imgSlot k = 1 then
    s.front.versions.any fun v => v.id == m.getD 1 0 && v.basted == bitAt (m.getD 0 0) 6 && (nrHeld s x.rank).contains v.ctx
  else if imgSlot k = 2 then
    match (channel s k.channel).run with
    | some run => run.id == m.getD 1 0 && run.basted == bitAt (m.getD 0 0) 6 && run.kernel.any fun r =>
        decide (r.pushed.getD x.rank 0 < r.recv.getD x.rank 0)
    | none => false
  else false

/-- Two elements belong to different versions. -/
def otherVersion (a b : List Word) : Bool := a.getD 1 0 != b.getD 1 0 || bitAt (a.getD 0 0) 6 != bitAt (b.getD 0 0) 6

/-- A pop of the next version, after the end element of a version that has lines unpushed: whichever queue either comes from
(R241). -/
def endUnpushed (s : State) (q : Nat) (x : Bobbin) : Bool :=
  let e := ((if q = 0 then x.in0 else x.in1).headD ⟨zeroVec, []⟩).fields
  [(0, x.meta0), (1, x.meta1)].any fun m =>
    bitAt (m.2.getD 0 0) 5 && (m.1 == q || otherVersion m.2 e) && linesHeld s x m.2

/-- A pop after the end element of an abandoned version: what was held of that version is no longer awaited (R242, R258). -/
def dropLeftover (b : Nat) (s : State) : State :=
  let x := bobbin s b
  let k := kernel s x.kid
  let w := x.meta0.getD 0 0
  if imgSlot k != 2 || !bitAt w 5 || !bitAt w 9 then s
  else
    let per := chanPer (streamCfg s k.channel)
    let clear (r : InlineRun) : InlineRun := { r with pushed := r.pushed.set x.rank (receivedVecs per x.rank r) }
    let left (l : List InlineRun) : List InlineRun :=
      (l.map clear).filter fun r => (List.range r.recv.length).any fun j => holdsLine per j r
    updChannel s k.channel fun c => { c with leftover := left c.leftover }

/-- Pop an element: the vector and its metadata; a version-end element that waited for room follows (R242). -/
def popInto (q vd : Nat) (x : Bobbin) : Bobbin :=
  let e := (if q = 0 then x.in0 else x.in1).headD ⟨zeroVec, []⟩
  let x := setV vd e.vec x
  if q = 0 then { x with in0 := x.in0.drop 1 ++ x.owed.take 1, owed := x.owed.drop 1, meta0 := e.fields }
  else { x with in1 := x.in1.drop 1, meta1 := e.fields }

/-- SPOP with an element in the queue. -/
def popNow (b q vd : Nat) (s : State) : State :=
  if endUnpushed s q (bobbin s b) then bobbinFault b 7 s
  else
    let s := if q = 0 then dropLeftover b s else s
    pump (updBobbin b (fun x => notIdle s (nextPc (popInto q vd x))) s)

/-- Lines of a version of height h that rank r of n takes by turns. -/
def turnLines (h n r : Nat) : Nat := (h + n - 1 - r) / n

/-- Vectors a rank may push over the versions in flight (R241). -/
def pushLimit (s : State) (k : Kernel) (kid rank : Nat) : Nat :=
  if imgSlot k = 1 then
    s.front.versions.foldl (fun a v => match v.nr with
      | some r => if r.kid = kid then a + (inlinePlan r (gridOf (versionSide v) v.width v.height) v.height).own rank * v.height else a
      | none => a) 0
  else
    let per := chanPer (streamCfg s k.channel)
    (channel s k.channel).leftover.foldl (fun a r => a + receivedVecs per rank r)
      (match (channel s k.channel).run.bind (·.kernel) with
        | some r => per * turnLines (streamCfg s k.channel).outH.toNat r.recv.length rank
        | none => 0)

/-- Vectors a rank has pushed of the versions in flight. -/
def pushedCount (s : State) (k : Kernel) (kid rank : Nat) : Nat :=
  if imgSlot k = 1 then
    s.front.versions.foldl (fun a v => match v.nr with
      | some r => if r.kid = kid then a + r.pushed.getD rank 0 else a
      | none => a) 0
  else
    (channel s k.channel).leftover.foldl (fun a r => a + r.pushed.getD rank 0)
      (match (channel s k.channel).run.bind (·.kernel) with
        | some r => r.pushed.getD rank 0
        | none => 0)

/-- A push that R241 makes a fault: in a tap or FREE kernel, or beyond the versions' line counts. -/
def pushFaults (s : State) (b : Nat) : Bool :=
  let x := bobbin s b
  let k := kernel s x.kid
  (imgSlot k != 1 && imgSlot k != 2) ||
  decide (pushLimit s k x.kid x.rank ≤ pushedCount s k x.kid x.rank + x.outq.length)

/-- SPUSH: a fault, a wait while the queue is full, or the vector appended. -/
def pushNow (b vs : Nat) (s : State) : State :=
  if pushFaults s b then bobbinFault b 7 s
  else if 32 ≤ (bobbin s b).outq.length then waitFor b (.queueOut vs) s
  else pump (updBobbin b (fun x => notIdle s (nextPc { x with outq := x.outq ++ [⟨vReg x vs, []⟩] })) s)

/-! ### Pillow sync (R235) -/

/-- The kernel's bobbins in the pillow of bobbin b. -/
def pillowMates (s : State) (b : Nat) : List Nat := (kernel s (bobbin s b).kid).bobbins.filter fun c => c / 16 == b / 16

/-- Every one of them has reached BAR n. -/
def allReached (s : State) (b n : Nat) : Bool := (pillowMates s b).all fun c => (bobbin s c).wait == some (.barrier n)

/-- Semaphore n of bobbin b's kernel in its pillow. -/
def semOf (s : State) (b n : Nat) : BitVec 16 := smGet 0 s.engines.sems (semKey (b / 16) (bobbin s b).kid n)

/-- The state with that semaphore at a count. -/
def setSem (b n : Nat) (v : BitVec 16) (s : State) : State :=
  { s with engines := { s.engines with sems := smSet 0 s.engines.sems (semKey (b / 16) (bobbin s b).kid n) v } }

/-- POST adds 1; past 2^16 - 1 the count is open (log entry 59). -/
def postSem (b n : Nat) (s : State) : State :=
  let v := semOf s b n
  if v == 0xFFFF then
    let (w, s) := takeFree s
    setSem b n (fld w 0 16) s
  else setSem b n (v + 1) s

/-- WAIT with a count that is not 0. -/
def takeSem (b n : Nat) (s : State) : State := updBobbin b nextPc (setSem b n (semOf s b n - 1) s)

/-- The new word of ATOM. Whether MIN and MAX are signed is not stated: where it matters the choice is free (log entry
60). -/
def atomWord (op : Nat) (signed : Bool) (old x : Word) : Word :=
  let less : Bool := if signed then decide (old.toInt < x.toInt) else decide (old.toNat < x.toNat)
  if op = 0 then old + x else if op = 1 then x else if op = 2 then (if less then old else x)
  else (if less then x else old)

/-- ATOM on the word at a byte address of the kernel's pillow region. -/
def atomNow (b sd sa sb op : Nat) (s : State) : State :=
  let x := bobbin s b
  let k := kernel s x.kid
  let a := (sReg x sa).toNat
  if a % 4 ≠ 0 || decide (imgPillowKib k * 1024 < a + 4) then bobbinFault b 5 s
  else
    let old := memWord (s.engines.pillows.getD (b / 16) []) (k.region + a)
    let v := sReg x sb
    let (w, s) := if 2 ≤ op && bitAt old 31 != bitAt v 31 then takeFree s else (0, s)
    let s := { s with engines := { s.engines with
      pillows := s.engines.pillows.modify (b / 16) fun m => memSetWord m (k.region + a) (atomWord op (bitAt w 0) old v) } }
    updBobbin b (fun x => nextPc (setS sd old x)) s

/-! ### PUBLISH and HALT (R236, R254, R255) -/

/-- The snapshot is taken; KERNEL_RESULT at most once per millisecond and kernel. -/
def publishNow (b : Nat) (s : State) : State :=
  let kid := (bobbin s b).kid
  let k := kernel s kid
  if imgResult k == 0xFFFFFFFF then s
  else
    let block := memWords (s.engines.pillows.getD (b / 16) []) (k.region + (imgResult k).toNat) 64
    let due := match k.lastResult with
      | none => true
      | some t => decide (t + 16000000 ≤ s.now.real)
    let s := updKernel kid (fun k => { k with
      result := block, resultSeq := k.resultSeq + 1, lastResult := if due then some s.now.real else k.lastResult }) s
    if due then raise 0x0401 kid (k.resultSeq + 1).toNat 0 s else s

/-- HALT ends the bobbin's run; in line it is a fault, and a FREE kernel whose bobbins have all halted is STOPPED. -/
def haltNow (b : Nat) (s : State) : State :=
  let kid := (bobbin s b).kid
  let slot := imgSlot (kernel s kid)
  if slot = 1 || slot = 2 then bobbinFault b 8 s
  else
    let s := updBobbin b (fun x => { x with running := false, halted := true }) s
    if slot = 0 && (kernel s kid).bobbins.all (fun c => (bobbin s c).halted) then
      endKernel kid .stopped (finishKernel kid s)
    else s

/-! ### XFER, XWAIT, FENCE (R233, R236) -/

/-- Transfers of a tag in flight. -/
def tagBusy (x : Bobbin) (tag : Nat) : Bool := x.transfers.any fun t => t.tag == tag

/-- Outward transfers in flight. -/
def outwardBusy (x : Bobbin) : Bool := x.transfers.any fun t => t.outward

/-- XWAIT's result once no transfer of the tag is in flight. -/
def takeStatus (tag sd : Nat) (x : Bobbin) : Bobbin :=
  nextPc { setS sd (wordOf (b2n (x.tagUe.contains tag))) x with tagUe := remNat x.tagUe tag }

/-- A bobbin that waits for transfers goes on when they have completed. -/
def resumeXfer (x : Bobbin) : Bobbin :=
  match x.wait with
  | some (.tag tag sd) => if tagBusy x tag then x else takeStatus tag sd x
  | some .fence => if outwardBusy x then x else nextPc x
  | _ => x

/-- XFER: its fault, or the transfer begun. -/
def xferNow (b : Nat) (t : Transfer) (s : State) : State :=
  let bad :=
    match windowOf (kernel s (bobbin s b).kid) t.space with
    | none => true
    | some w => decide (w.size < t.remote + t.count * itemSize t.scalar) || (t.outward && !w.writable) ||
        t.remote % (if t.scalar then 4 else 8) ≠ 0
  if bad then bobbinFault b 5 s
  else if 2048 < t.localAddr + t.count then bobbinFault b (if t.scalar then 4 else 3) s
  else updBobbin b (fun x => nextPc { x with transfers := x.transfers ++ [t] }) s

/-- The oldest transfer of a tag, and the others. -/
def takeTransfer (tag : Nat) : List Transfer → Option (Transfer × List Transfer)
  | [] => none
  | t :: ts => if t.tag = tag then some (t, ts) else (takeTransfer tag ts).map fun r => (r.1, t :: r.2)

end Sys2Proof.Machine
end

