-- ==== Sys2Proof/Machine/Bobbin.lean ====
section
/-! DEFINITION. The bobbin instructions and the ends of their waits (R226–R236, R240, R241, R255). -/
namespace Sys2Proof.Machine

/-! ### Vector ALU (R228) -/

/-- A vector ALU operation on one lane. -/
def vopLane (ty op : Nat) (a b : Px) : Px :=
  let x := laneVal ty a
  let y := laneVal ty b
  let n := b.toNat % 32
  match op with
  | 0x00 => a + b
  | 0x01 => a - b
  | 0x02 => satLane ty (x + y)
  | 0x03 => satLane ty (x - y)
  | 0x04 => if x ≤ y then a else b
  | 0x05 => if x ≤ y then b else a
  | 0x06 => satLane ty (max (x - y) (y - x))
  | 0x07 => BitVec.ofInt 20 ((x + y + 1) / 2)
  | 0x08 => a &&& b
  | 0x09 => a ||| b
  | 0x0A => a ^^^ b
  | 0x0B => a &&& ~~~ b
  | 0x0C => if 20 ≤ n then 0 else a <<< n
  | 0x0D => if 20 ≤ n then 0 else satLane ty (x * 2 ^ n)
  | 0x0E => if 20 ≤ n then (if x < 0 then BitVec.ofInt 20 (-1) else 0) else BitVec.ofInt 20 (x / 2 ^ n)
  | 0x0F => if 20 ≤ n then (if x < 0 then BitVec.ofInt 20 (-1) else 0) else BitVec.ofInt 20 (rshRound x n)
  | 0x10 => a
  | 0x11 => satLane ty (-x)
  | _ => satLane ty (max x (-x))

/-- A vector ALU result under a predicate. -/
def vopTo (vd : Nat) (va vb : List Px) (p ty op : Nat) (x : Bobbin) : Bobbin :=
  setV vd (byMask (pReg x p) (fun i => vopLane ty op (lane va i) (lane vb i)) (vReg x vd)) x

/-- VOP. -/
def execVop (b : BobbinIssue) (vd va vb : BitVec 5) (p : BitVec 3) (ty : BitVec 2) (op : BitVec 6) (s : State) : Result :=
  issueOwn b (encWord 0x01 vd.toNat va.toNat vb.toNat (typedFn p ty op.toNat))
    (fun x => vopTo vd.toNat (vReg x va.toNat) (vReg x vb.toNat) p.toNat ty.toNat op.toNat x) s

/-- VOPS: Sb[19:0] broadcast. -/
def execVops (b : BobbinIssue) (vd va : BitVec 5) (sb : BitVec 4) (p : BitVec 3) (ty : BitVec 2) (op : BitVec 6) (s : State) :
    Result :=
  issueOwn b (encWord 0x02 vd.toNat va.toNat sb.toNat (typedFn p ty op.toNat))
    (fun x => vopTo vd.toNat (vReg x va.toNat) (broadcast (sReg x sb.toNat)) p.toNat ty.toNat op.toNat x) s

/-- VIMM. -/
def execVimm (b : BobbinIssue) (vd : BitVec 5) (imm : BitVec 20) (s : State) : Result :=
  issueOwn b (encImm 0x03 vd.toNat 0 imm.toNat) (setV vd.toNat (List.replicate 16 imm)) s

/-! ### Scalars, branches, loops (R236) -/

/-- A scalar operation; POPC counts the ones of a. -/
def sopWord (op : Nat) (a b : Word) : Word :=
  match op with
  | 0 => a + b
  | 1 => a - b
  | 2 => a &&& b
  | 3 => a ||| b
  | 4 => a ^^^ b
  | 5 => a <<< b.toNat
  | 6 => a >>> b.toNat
  | 7 => a.sshiftRight b.toNat
  | 8 => a * b
  | 9 => if a.toInt ≤ b.toInt then a else b
  | 10 => if a.toInt ≤ b.toInt then b else a
  | 11 => wordOf (b2n (decide (a.toInt < b.toInt)))
  | 12 => wordOf (b2n (decide (a.toNat < b.toNat)))
  | _ => wordOf ((List.range 32).filter fun i => bitAt a i).length

/-- A shift by the full width or more: the spec states no result (log entry 61). -/
def openShift (op : Nat) (b : Word) : Bool := decide (5 ≤ op) && decide (op ≤ 7) && decide (32 ≤ b.toNat)

/-- SOP. -/
def execSop (b : BobbinIssue) (sd sa sb : BitVec 4) (op : BitVec 4) (s : State) : Result :=
  issueWith b (encWord 0x08 sd.toNat sa.toNat sb.toNat op.toNat) .no (fun n s =>
    let x := bobbin s n
    let a := sReg x sa.toNat
    let c := sReg x sb.toNat
    let (w, s) := if openShift op.toNat c then takeFree s else (sopWord op.toNat a c, s)
    updBobbin n (fun x => nextPc (setS sd.toNat w x)) s) s

/-- SADDI. -/
def execSaddi (b : BobbinIssue) (sd sa : BitVec 4) (imm : BitVec 16) (s : State) : Result :=
  issueOwn b (encImm 0x09 sd.toNat sa.toNat imm.toNat)
    (fun x => setS sd.toNat (sReg x sa.toNat + imm.signExtend 32) x) s

/-- SLUI. -/
def execSlui (b : BobbinIssue) (sd : BitVec 4) (imm : BitVec 16) (s : State) : Result :=
  issueOwn b (encImm 0x0A sd.toNat 0 imm.toNat) (setS sd.toNat (imm.zeroExtend 32 <<< 16)) s

/-- SORI. -/
def execSori (b : BobbinIssue) (sd sa : BitVec 4) (imm : BitVec 16) (s : State) : Result :=
  issueOwn b (encImm 0x0B sd.toNat sa.toNat imm.toNat)
    (fun x => setS sd.toNat (sReg x sa.toNat ||| imm.zeroExtend 32) x) s

/-- The target of a branch: the next instruction's address plus the offset. -/
def branchTarget (pc : Nat) (off : BitVec 11) : Nat := (BitVec.ofNat 12 (pc + 1) + off.signExtend 12).toNat

/-- BCC. -/
def execBcc (b : BobbinIssue) (cond : BitVec 5) (sa sb : BitVec 4) (off : BitVec 11) (s : State) : Result :=
  issueWith b (encWord 0x0C cond.toNat sa.toNat sb.toNat off.toNat) .no (fun n s =>
    let x := bobbin s n
    if branchHolds cond.toNat (sReg x sa.toNat) (sReg x sb.toNat) then jumpTo n (branchTarget x.pc off) id s
    else updBobbin n nextPc s) s

/-- JMP: jump, call, return; a return takes the low 12 bits of Sa (log entry 62). -/
def execJmp (b : BobbinIssue) (kind : BitVec 4) (sd sa : BitVec 4) (target : BitVec 12) (s : State) : Result :=
  issueWith b (encImm 0x0D sd.toNat sa.toNat (4096 * kind.toNat + target.toNat)) .no (fun n s =>
    let x := bobbin s n
    if kind = 2 then jumpTo n (fldN (sReg x sa.toNat) 0 12) id s
    else if kind = 1 then jumpTo n target.toNat (setS sd.toNat (wordOf ((x.pc + 1) % 4096))) s
    else jumpTo n target.toNat id s) s

/-- LOOP: Sa runs of the next L instructions; a third level is fault LOOP. -/
def execLoop (b : BobbinIssue) (sa : BitVec 4) (len : BitVec 11) (s : State) : Result :=
  issueWith b (encWord 0x0E 0 sa.toNat 0 len.toNat) .no (fun n s =>
    let x := bobbin s n
    let count := (sReg x sa.toNat).toNat
    if count = 0 || len = 0 then updBobbin n (fun x => goOn (x.pc + len.toNat) x) s
    else if 2 ≤ x.loops.length then bobbinFault n 9 s
    else updBobbin n (fun x => { x with
      loops := ⟨x.pc + 1, x.pc + len.toNat, count⟩ :: x.loops, pc := (x.pc + 1) % 4096 }) s) s

/-- NOP. -/
def execNop (b : BobbinIssue) (s : State) : Result := issueOwn b (encWord 0 0 0 0 0) id s

/-- HALT. -/
def execHalt (b : BobbinIssue) (s : State) : Result := issueWith b (encWord 0 0 0 0 1) .no haltNow s

/-- PUBLISH. -/
def execPublish (b : BobbinIssue) (t : Instant) (s : State) : Result :=
  issueWith b (encWord 0 0 0 0 2) .no (fun n s => updBobbin n nextPc (publishNow n s)) (setNow t s)

/-- FENCE. -/
def execFence (b : BobbinIssue) (s : State) : Result :=
  issueWith b (encWord 0 0 0 0 3) .no (fun n s =>
    if outwardBusy (bobbin s n) then waitFor n .fence s else updBobbin n nextPc s) s

/-- CYCLES: `count` is the BBCLK count of this instant. -/
def execCycles (b : BobbinIssue) (sd : BitVec 4) (count : Word) (s : State) : Result :=
  issueOwn b (encWord 0 sd.toNat 0 0 4) (setS sd.toNat count) s

/-! ### Multiply-accumulate (R229) -/

/-- A multiply-accumulate under a predicate. -/
def macTo (ad : Nat) (va vb : List Px) (p : Nat) (asg bsg : Bool) (op : Nat) (x : Bobbin) : Bobbin :=
  let old := aReg x ad
  putAcc ad ((List.range 16).map fun i =>
    if bitAt (pReg x p) i then macVal op (old.getD i 0) (mulVal asg (lane va i) * mulVal bsg (lane vb i))
    else old.getD i 0) x

/-- VMUL. -/
def execVmul (b : BobbinIssue) (ad : BitVec 2) (va vb : BitVec 5) (p : BitVec 3) (asg bsg : Bool) (op : BitVec 6) (s : State) :
    Result :=
  issueOwn b (encWord 0x10 ad.toNat va.toNat vb.toNat (mulFn p asg bsg op))
    (fun x => macTo ad.toNat (vReg x va.toNat) (vReg x vb.toNat) p.toNat asg bsg op.toNat x) s

/-- VMULS. -/
def execVmuls (b : BobbinIssue) (ad : BitVec 2) (va : BitVec 5) (sb : BitVec 4) (p : BitVec 3) (asg bsg : Bool) (op : BitVec 6)
    (s : State) : Result :=
  issueOwn b (encWord 0x11 ad.toNat va.toNat sb.toNat (mulFn p asg bsg op))
    (fun x => macTo ad.toNat (vReg x va.toNat) (broadcast (sReg x sb.toNat)) p.toNat asg bsg op.toNat x) s

/-- A lane of ARND. -/
def arndLane (round s20 : Bool) (shift : Nat) (v : Int) : Px :=
  satLane (if s20 then 1 else 0) (if round then rshRound v shift else v / 2 ^ shift)

/-- ARND. -/
def execArnd (b : BobbinIssue) (vd : BitVec 5) (aa : BitVec 2) (clear round s20 : Bool) (shift : BitVec 5) (s : State) :
    Result :=
  issueOwn b (encWord 0x12 vd.toNat aa.toNat 0 (128 * b2n clear + 64 * b2n round + 32 * b2n s20 + shift.toNat))
    (fun x =>
      let y := setV vd.toNat (vec fun i => arndLane round s20 shift.toNat ((aReg x aa.toNat).getD i 0)) x
      if clear then setA aa.toNat (List.replicate 16 0) y else y) s

/-- ASET; a shifted value beyond the accumulator saturates as R229 says of every accumulator value. -/
def execAset (b : BobbinIssue) (ad : BitVec 2) (va : BitVec 5) (zero signed : Bool) (shift : BitVec 5) (s : State) : Result :=
  issueOwn b (encWord 0x13 ad.toNat va.toNat 0 (64 * b2n zero + 32 * b2n signed + shift.toNat))
    (fun x => putAcc ad.toNat ((List.range 16).map fun i =>
      if zero then 0 else mulVal signed (lane (vReg x va.toNat) i) * 2 ^ shift.toNat) x) s

/-! ### Compare and select (R230) -/

/-- A comparison into a predicate. -/
def cmpTo (pd : Nat) (va vb : List Px) (p ty cond : Nat) (x : Bobbin) : Bobbin :=
  setP pd (maskOf (pReg x p) fun i => cmpHolds cond (laneVal ty (lane va i)) (laneVal ty (lane vb i))) x

/-- VCMP. -/
def execVcmp (b : BobbinIssue) (pd : BitVec 3) (va vb : BitVec 5) (p : BitVec 3) (ty : BitVec 2) (cond : BitVec 3) (s : State) :
    Result :=
  issueOwn b (encWord 0x18 pd.toNat va.toNat vb.toNat (typedFn p ty cond.toNat))
    (fun x => cmpTo pd.toNat (vReg x va.toNat) (vReg x vb.toNat) p.toNat ty.toNat cond.toNat x) s

/-- VCMPS. -/
def execVcmps (b : BobbinIssue) (pd : BitVec 3) (va : BitVec 5) (sb : BitVec 4) (p : BitVec 3) (ty : BitVec 2) (cond : BitVec 3)
    (s : State) : Result :=
  issueOwn b (encWord 0x19 pd.toNat va.toNat sb.toNat (typedFn p ty cond.toNat))
    (fun x => cmpTo pd.toNat (vReg x va.toNat) (broadcast (sReg x sb.toNat)) p.toNat ty.toNat cond.toNat x) s

/-- VSEL. -/
def execVsel (b : BobbinIssue) (vd va vb : BitVec 5) (pn : BitVec 3) (s : State) : Result :=
  issueOwn b (encWord 0x1A vd.toNat va.toNat vb.toNat (256 * pn.toNat))
    (fun x => setV vd.toNat (byMask (pReg x pn.toNat) (lane (vReg x va.toNat)) (vReg x vb.toNat)) x) s

/-- A predicate operation. -/
def plogMask (op : Nat) (a b : BitVec 16) : BitVec 16 :=
  if op = 0 then a &&& b else if op = 1 then a ||| b else if op = 2 then a ^^^ b else if op = 3 then a &&& ~~~ b
  else if op = 4 then ~~~ a else a

/-- PLOG. -/
def execPlog (b : BobbinIssue) (pd pa pb : BitVec 3) (op : BitVec 3) (s : State) : Result :=
  issueOwn b (encWord 0x1B pd.toNat pa.toNat pb.toNat op.toNat)
    (fun x => setP pd.toNat (plogMask op.toNat (pReg x pa.toNat) (pReg x pb.toNat)) x) s

/-- PXFER: predicate to scalar, or scalar to predicate. -/
def execPxfer (b : BobbinIssue) (toPred : Bool) (sr : BitVec 4) (p : BitVec 3) (s : State) : Result :=
  if toPred then
    issueOwn b (encWord 0x1C p.toNat sr.toNat 0 1) (fun x => setP p.toNat (fld (sReg x sr.toNat) 0 16) x) s
  else issueOwn b (encWord 0x1C sr.toNat p.toNat 0 0) (fun x => setS sr.toNat ((pReg x p.toNat).zeroExtend 32) x) s

/-! ### Neighbour permute (R231) -/

/-- VSHIFT. -/
def execVshift (b : BobbinIssue) (vd va vb : BitVec 5) (k : BitVec 5) (s : State) : Result :=
  issueOwn b (encWord 0x20 vd.toNat va.toNat vb.toNat k.toNat)
    (fun x => setV vd.toNat (vec fun i => catLane (vReg x va.toNat) (vReg x vb.toNat) (i + k.toNat)) x) s

/-- A lane of VSHUF. -/
def shufLane (op ln : Nat) (a b : List Px) (i : Nat) : Px :=
  if op = 0 then lane a (15 - i)
  else if op = 1 then catLane a b (2 * i)
  else if op = 2 then catLane a b (2 * i + 1)
  else if op = 3 then lane (if i % 2 = 0 then a else b) (i / 2)
  else if op = 4 then lane (if i % 2 = 0 then a else b) (8 + i / 2)
  else lane a ln

/-- VSHUF. -/
def execVshuf (b : BobbinIssue) (vd va vb : BitVec 5) (op : BitVec 5) (ln : BitVec 4) (s : State) : Result :=
  issueOwn b (encWord 0x21 vd.toNat va.toNat vb.toNat (64 * op.toNat + ln.toNat))
    (fun x => setV vd.toNat (vec (shufLane op.toNat ln.toNat (vReg x va.toNat) (vReg x vb.toNat))) x) s

/-- The lanes that take part in a reduction. -/
def redLanes (m : BitVec 16) (ty : Nat) (v : List Px) : List Int :=
  ((List.range 16).filter fun i => bitAt m i).map fun i => laneVal ty (lane v i)

/-- The scalar VRED writes. -/
def redWord (op ty ln : Nat) (m : BitVec 16) (v : List Px) : Word :=
  if op = 0 then wordOfInt ((redLanes m ty v).foldl (· + ·) 0)
  else if op = 1 then wordOfInt ((redLanes m ty v).foldl min (typeMax ty))
  else if op = 2 then wordOfInt ((redLanes m ty v).foldl max (typeMin ty))
  else wordOfInt (laneVal ty (lane v ln))

/-- VRED; EXT is extended by type (log entry 56). -/
def execVred (b : BobbinIssue) (rd ra : BitVec 5) (ln : BitVec 5) (p : BitVec 3) (ty : BitVec 2) (op : BitVec 6) (s : State) :
    Result :=
  issueOwn b (encWord 0x22 rd.toNat ra.toNat ln.toNat (typedFn p ty op.toNat))
    (fun x =>
      if op = 4 then setV rd.toNat ((vReg x rd.toNat).set ln.toNat (fld (sReg x ra.toNat) 0 20)) x
      else setS rd.toNat (redWord op.toNat ty.toNat ln.toNat (pReg x p.toNat) (vReg x ra.toNat)) x) s

/-! ### Load and store (R232) -/

/-- VLD. -/
def execVld (b : BobbinIssue) (vd : BitVec 5) (sa : BitVec 4) (off : BitVec 11) (s : State) : Result :=
  issueMem b (encWord 0x28 vd.toNat sa.toNat 0 off.toNat) .own (fun x =>
    let a := addrOf (sReg x sa.toNat) off
    if a < 2048 then some (setV vd.toNat (vmGet x a) x) else none) 3 s

/-- VST. -/
def execVst (b : BobbinIssue) (vs : BitVec 5) (sa : BitVec 4) (off : BitVec 11) (s : State) : Result :=
  issueMem b (encWord 0x29 vs.toNat sa.toNat 0 off.toNat) .no (fun x =>
    let a := addrOf (sReg x sa.toNat) off
    if a < 2048 then some (vmSet a (vReg x vs.toNat) x) else none) 3 s

/-- VLDA: the current address, then a step. -/
def execVlda (b : BobbinIssue) (vd : BitVec 5) (ag : BitVec 2) (s : State) : Result :=
  issueMem b (encWord 0x2A vd.toNat ag.toNat 0 0) .own (fun x =>
    let g := agReg x ag.toNat
    if g.cur.toNat < 2048 then some (setAg ag.toNat (stepAg g) (setV vd.toNat (vmGet x g.cur.toNat) x)) else none) 3 s

/-- VSTA: only the lanes in P. -/
def execVsta (b : BobbinIssue) (vs : BitVec 5) (ag : BitVec 2) (p : BitVec 3) (s : State) : Result :=
  issueMem b (encWord 0x2B vs.toNat ag.toNat 0 (256 * p.toNat)) .no (fun x =>
    let g := agReg x ag.toNat
    let a := g.cur.toNat
    if a < 2048 then
      some (setAg ag.toNat (stepAg g) (vmSet a (byMask (pReg x p.toNat) (lane (vReg x vs.toNat)) (vmGet x a)) x))
    else none) 3 s

/-- AGSET. -/
def execAgset (b : BobbinIssue) (ag : BitVec 2) (sa sb : BitVec 4) (half : Bool) (s : State) : Result :=
  issueOwn b (encWord 0x2C ag.toNat sa.toNat sb.toNat (b2n half)) (fun x =>
    let g := agReg x ag.toNat
    setAg ag.toNat (if half then agStride (sReg x sa.toNat) (sReg x sb.toNat) g
      else agBase (sReg x sa.toNat) (sReg x sb.toNat) g) x) s

/-- SLD. -/
def execSld (b : BobbinIssue) (sd sa : BitVec 4) (off : BitVec 11) (s : State) : Result :=
  issueMem b (encWord 0x2D sd.toNat sa.toNat 0 off.toNat) .own (fun x =>
    let a := addrOf (sReg x sa.toNat) off
    if a < 2048 then some (setS sd.toNat (smemGet x a) x) else none) 4 s

/-- SST. -/
def execSst (b : BobbinIssue) (ss sa : BitVec 4) (off : BitVec 11) (s : State) : Result :=
  issueMem b (encWord 0x2E ss.toNat sa.toNat 0 off.toNat) .no (fun x =>
    let a := addrOf (sReg x sa.toNat) off
    if a < 2048 then some (smemSet a (sReg x ss.toNat) x) else none) 4 s

/-! ### Transfers (R233) -/

/-- XFER. -/
def execXfer (b : BobbinIssue) (sl sr sc : BitVec 4) (tag : BitVec 3) (scalar outward : Bool) (space : BitVec 2) (s : State) :
    Result :=
  issueWith b (encWord 0x30 sl.toNat sr.toNat sc.toNat (16 * tag.toNat + 8 * b2n scalar + 4 * b2n outward + space.toNat))
    (if outward then .own else .no) (fun n s =>
      let x := bobbin s n
      let t : Transfer := {
        tag := tag.toNat, localAddr := (sReg x sl.toNat).toNat, remote := (sReg x sr.toNat).toNat
        count := (sReg x sc.toNat).toNat, scalar := scalar, outward := outward, space := space.toNat }
      xferNow n t s) s

/-- XFER_COMPLETE: the oldest transfer of a tag completes; `ecc`: the errors its words hold. -/
def execXferComplete (b : Fin 128) (tag : BitVec 3) (ecc : List EccHit) (s : State) : Result :=
  .next (if !blockRuns .bobbin s then s else match takeTransfer tag.toNat (bobbin s b.val).transfers with
    | none => s
    | some (t, rest) =>
      updBobbin b.val resumeXfer (moveData b.val t ecc (updBobbin b.val (fun x => { x with transfers := rest }) s)))

/-- XWAIT. -/
def execXwait (b : BobbinIssue) (sd : BitVec 4) (tag : BitVec 3) (s : State) : Result :=
  issueWith b (encWord 0x31 sd.toNat 0 0 tag.toNat) .no (fun n s =>
    if tagBusy (bobbin s n) tag.toNat then waitFor n (.tag tag.toNat sd.toNat) s
    else updBobbin n (takeStatus tag.toNat sd.toNat) s) s

/-! ### Stream queues (R234, R240, R241) -/

/-- SPOP. -/
def execSpop (b : BobbinIssue) (vd : BitVec 5) (queue : Fin 2) (s : State) : Result :=
  issueWith b (encWord 0x38 vd.toNat 0 0 queue.val) .no (fun n s =>
    let x := bobbin s n
    if (if queue.val = 0 then x.in0 else x.in1).isEmpty then waitFor n (.queueIn queue.val vd.toNat) s
    else popNow n queue.val vd.toNat s) s

/-- SPUSH. -/
def execSpush (b : BobbinIssue) (vs : BitVec 5) (s : State) : Result :=
  issueWith b (encWord 0x39 vs.toNat 0 0 0) .no (fun n s => pushNow n vs.toNat s) s

/-- QUEUE_WAIT_RELEASE: the queue a bobbin waits for has an element or room. -/
def execQueueWaitRelease (b : Fin 128) (s : State) : Result :=
  let x := bobbin s b.val
  .next (if !grantedAt s (b.val / 16) || !blockRuns .bobbin s then s else match x.wait with
    | some (.queueIn q vd) => if (if q = 0 then x.in0 else x.in1).isEmpty then s else popNow b.val q vd s
    | some (.queueOut vs) =>
      if 32 ≤ x.outq.length then s else pushNow b.val vs (updBobbin b.val (fun x => { x with wait := none }) s)
    | _ => s)

/-- SMETA. -/
def execSmeta (b : BobbinIssue) (sd : BitVec 4) (queue : Fin 2) (field : BitVec 3) (s : State) : Result :=
  issueOwn b (encWord 0x3A sd.toNat 0 0 (16 * field.toNat + queue.val))
    (fun x => setS sd.toNat ((if queue.val = 0 then x.meta0 else x.meta1).getD field.toNat 0) x) s

/-! ### Pillow sync (R235) -/

/-- BAR: the bobbin has reached the barrier. -/
def execBar (b : BobbinIssue) (n : Fin 4) (s : State) : Result :=
  issueWith b (encWord 0x3C 0 0 0 n.val) .no (fun c s => waitFor c (.barrier n.val) s) s

/-- BARRIER_RELEASE: every bobbin of the kernel in the pillow has reached it, and all proceed. -/
def execBarrierRelease (b : Fin 128) (s : State) : Result :=
  .next (if !grantedAt s (b.val / 16) || !blockRuns .bobbin s then s else match (bobbin s b.val).wait with
    | some (.barrier n) =>
      if allReached s b.val n then (pillowMates s b.val).foldl (fun s c => updBobbin c nextPc s) s else s
    | _ => s)

/-- SEM: POST, or WAIT. -/
def execSem (b : BobbinIssue) (wait : Bool) (n : Fin 4) (s : State) : Result :=
  issueWith b (encWord 0x3D 0 0 0 (16 * b2n wait + n.val)) .pillow (fun c s =>
    if !wait then updBobbin c nextPc (postSem c n.val s)
    else if semOf s c n.val = 0 then waitFor c (.semaphore n.val) s
    else takeSem c n.val s) s

/-- SEM_WAIT_RELEASE: the count a bobbin waits for is not 0. -/
def execSemWaitRelease (b : Fin 128) (s : State) : Result :=
  .next (if !grantedAt s (b.val / 16) || !blockRuns .bobbin s then s else match (bobbin s b.val).wait with
    | some (.semaphore n) => if semOf s b.val n = 0 then s else takeSem b.val n s
    | _ => s)

/-- ATOM. -/
def execAtom (b : BobbinIssue) (sd sa sb : BitVec 4) (op : BitVec 2) (s : State) : Result :=
  issueWith b (encWord 0x3E sd.toNat sa.toNat sb.toNat op.toNat) .pillow
    (fun n s => atomNow n sd.toNat sa.toNat sb.toNat op.toNat s) s

end Sys2Proof.Machine
end

