-- ==== Sys2Proof/Machine/ClockOps.lean ====
section
/-! DEFINITION. The four PLLs as the clock and trunk chapters share them (R350–R352, R356, R358). -/
namespace Sys2Proof.Machine

/-- A PLL. -/
def pllOf (s : State) : Pll → PllState
  | .root => s.clock.root
  | .out => s.clock.out
  | .west => s.clock.west
  | .east => s.clock.east

/-- The state with a PLL changed. -/
def updPll (p : Pll) (f : PllState → PllState) (s : State) : State :=
  match p with
  | .root => { s with clock := { s.clock with root := f s.clock.root } }
  | .out => { s with clock := { s.clock with out := f s.clock.out } }
  | .west => { s with clock := { s.clock with west := f s.clock.west } }
  | .east => { s with clock := { s.clock with east := f s.clock.east } }

/-- The PLL of a trunk port. -/
def portPll : Port → Pll
  | .west => .west
  | .east => .east

/-- The port a PLL clocks. -/
def pllPort : Pll → Option Port
  | .west => some .west
  | .east => some .east
  | _ => none

/-- A reference clock is present and within 1 % of its declared frequency. -/
def refOk (s : State) : RefClk → Bool
  | .ref0 => s.clock.ref0Ok
  | .ref1 => s.clock.ref1Ok

/-- The reference of a PLL (R350). -/
def pllRef (s : State) : Pll → RefClk
  | .root => .ref0
  | .out => if s.clock.cfg.outRef then .ref1 else .ref0
  | .west => if s.west.cfg.clocking then .ref1 else .ref0
  | .east => if s.east.cfg.clocking then .ref1 else .ref0

/-- The declared frequency of a reference in kHz. -/
def refKhz (s : State) : RefClk → Nat
  | .ref0 => s.clock.cfg.ref0Khz.toNat
  | .ref1 => s.clock.cfg.ref1Khz.toNat

/-- Since when a reference has been present and within 1 %. -/
def refSince (s : State) : RefClk → Option Nat
  | .ref0 => s.clock.ref0Since
  | .ref1 => s.clock.ref1Since

/-- VCO of a trunk PLL in kHz at a rate (R350): its lane clock once at 25.78125 Gbaud, twice below. -/
def laneVco (rate : BitVec 2) : Nat := if rate == 0 then 10312500 else if rate == 1 then 12500000 else 12890625

/-- The word of a trunk PLL, prescaler 8, computed from the declared reference and the rate, to the nearest 2^-24 (R350). -/
def trunkWord (khz : Nat) (rate : BitVec 2) : Nat := if khz = 0 then 0 else (laneVco rate * 2 ^ 24 + 4 * khz) / (8 * khz)

/-- The word that a trunk port's PLL needs. -/
def portWord (s : State) (p : Port) : Nat := trunkWord (refKhz s (pllRef s (portPll p))) (getPort s p).rate

/-! ### The modulator (R350) -/

/-- The MASH 1-1-1: three accumulators of 24 bits, and the carries of the last two cycles that its output needs. -/
structure Mash where
  a1 : Nat := 0
  a2 : Nat := 0
  a3 : Nat := 0
  c2 : Int := 0
  c3 : Int := 0
  d3 : Int := 0
deriving DecidableEq, Repr

/-- One reference cycle of the modulator: what it adds to INT, and its accumulators after it. -/
def mashStep (frac : BitVec 24) (m : Mash) : Int × Mash :=
  let x1 := m.a1 + frac.toNat
  let x2 := m.a2 + x1 % 2 ^ 24
  let x3 := m.a3 + x2 % 2 ^ 24
  let c1 : Int := (x1 / 2 ^ 24 : Nat)
  let c2 : Int := (x2 / 2 ^ 24 : Nat)
  let c3 : Int := (x3 / 2 ^ 24 : Nat)
  (c1 + (c2 - m.c2) + (c3 - 2 * m.c3 + m.d3),
   { a1 := x1 % 2 ^ 24, a2 := x2 % 2 ^ 24, a3 := x3 % 2 ^ 24, c2 := c2, c3 := c3, d3 := m.c3 })

/-- The modulator's output in reference cycle n of a lock attempt, from zeroed accumulators: a fixed function of FRAC. -/
def mashOut (frac : BitVec 24) : Nat → Mash → Int
  | 0, m => (mashStep frac m).1
  | n + 1, m => mashOut frac n (mashStep frac m).2

/-- A PLL begins a lock attempt, with the lock window and the lock cycles in force; EAST and WEST search their bands (R352, R358,
R362). -/
def startLock (p : Pll) (s : State) : State :=
  let c := s.clock.cfg
  let s := updPll p (fun x => { x with phase := .acquire, attemptStart := some s.now.real, lockWin := c.lockWin, nLock := c.nLock }) s
  if (pllPort p).isSome then { s with clock := { s.clock with bandSearches := satInc s.clock.bandSearches } } else s

/-- Real nanoseconds have passed since a real instant in 1/16 ns. -/
def passed (s : State) (since ns : Nat) : Bool := decide (since + 16 * ns ≤ s.now.real)

/-- A PLL's reference has been present and within 1 % of its declared frequency for 20 µs (R358). -/
def refQualified (s : State) (p : Pll) : Bool :=
  refOk s (pllRef s p) && (refSince s (pllRef s p)).any fun a => passed s a 20000

/-- A PLL with a new word starts a lock attempt at once where it ran with its reference present, else once the reference is
qualified (R358). -/
def relock (p : Pll) (s : State) : State :=
  let ran := (pllOf s p).phase == .locked || (pllOf s p).phase == .acquire
  if refQualified s p || (ran && refOk s (pllRef s p)) then startLock p s else updPll p (fun x => { x with phase := .coast }) s

/-! ### The watchdog's count (R402, R405) -/

/-- BCLK cycles between two instants: 400 MHz on the root, 100 MHz on the limp clock, REFCLK0 before the first root lock of a
start-up from the move to it on. -/
def bclkCycles (s : State) (a b : Instant) : Nat :=
  if !s.clock.limp then 4 * (b.tclk - a.tclk)
  else match ref0From s with
    | some f =>
      let x := max a.real (min f b.real)
      (x - a.real) / 160 + (b.real - x) * ref0Rate s / 16000000
    | none => b.tclk - a.tclk

/-- C now. -/
def wdC (s : State) : Nat :=
  if s.rst.wdFailed then s.rst.wdCount else s.rst.wdCount + bclkCycles s s.rst.wdAt s.now

/-- How much of a legacy gap has been counted, in 1/16,000,000 of a count: a count is a REFCLK0 cycle, and four limp-clock cycles
while REFCLK0 is lost (R395). -/
def gapSoFar (s : State) : Nat :=
  s.rst.gapUnits + (s.now.real - s.rst.gapAt) * (if s.clock.ref0Ok then ref0Rate s else 25000)

/-- C and the count of a legacy gap are brought up to date before the rates they count change. -/
def wdSync (s : State) : State :=
  { s with rst := { s.rst with wdCount := wdC s, wdAt := s.now, gapUnits := gapSoFar s, gapAt := s.now.real } }

/-! ### Stable clocks (R393) -/

/-- The last switch of the tree's source. -/
def lastSwitch (s : State) : Nat :=
  match ref0From s with
  | some f => if f ≤ s.now.real then max s.clock.switchAt f else s.clock.switchAt
  | none => s.clock.switchAt

/-- The divider of a domain's clock from the 4.8 GHz root (R349; log entry 213). -/
def domainDiv : Domain → Nat
  | .memory => 4
  | .converter => 3
  | .pipeline => 6
  | .bobbin => 5
  | _ => 12

/-- A domain's clock is stable: it has run for 64 of its own cycles since the last switch; the always-on domain runs on the limp
clock without a switch. -/
def clockStable (s : State) (d : Domain) : Bool :=
  let since := s.now.real - lastSwitch s
  d == .alwaysOn ||
    (if !s.clock.limp then decide (64 * 10 * domainDiv d ≤ 3 * since)
     else if onRef0 s then decide (64 * 16000000 ≤ since * ref0Rate s)
     else decide (64 * 160 ≤ since))

end Sys2Proof.Machine
end

