-- ==== Sys2Proof/Machine/RingOps.lean ====
section
/-! DEFINITION. Slots, the node's own slots, turns and wraps (R289–R301, R306–R310, R322). -/
namespace Sys2Proof.Machine

/-! ### The slot (R293–R295) -/

/-- The 64-bit word whose fields are given as (value, lowest bit). -/
def mkWord64 (fs : List (Nat × Nat)) : BitVec 64 := BitVec.ofNat 64 (fs.foldl (fun a f => a + f.1 * 2 ^ f.2) 0)

/-- A 64-bit word with a field of n bits from lo replaced. -/
def setFld64 (w : BitVec 64) (lo n v : Nat) : BitVec 64 :=
  let old := fldN w lo n
  BitVec.ofNat 64 (w.toNat - old * 2 ^ lo + v % 2 ^ n * 2 ^ lo)

/-- TYPE of a slot. -/
def slotType (x : RawSlot) : Nat := fldN x.hdr 8 4
/-- PRIO of a slot. -/
def slotPrio (x : RawSlot) : Nat := fldN x.hdr 12 2
/-- DEST of a slot. -/
def slotDest (x : RawSlot) : BitVec 7 := fld x.hdr 14 7
/-- SRC of a slot. -/
def slotSrc (x : RawSlot) : BitVec 7 := fld x.hdr 21 7
/-- HSEQ of a slot. -/
def slotSeq (x : RawSlot) : BitVec 12 := fld x.hdr 28 12
/-- SOP of a slot. -/
def slotSop (x : RawSlot) : Bool := bitAt x.hdr 40
/-- RING of a slot: RING_B. -/
def slotRingB (x : RawSlot) : Bool := bitAt x.hdr 50
/-- WRAPPED of a slot. -/
def slotWrapped (x : RawSlot) : Bool := bitAt x.hdr 51
/-- HOPS of a slot. -/
def slotHops (x : RawSlot) : Nat := fldN x.hdr 52 8
/-- MGMT_OP of a MGMT slot. -/
def slotOp (x : RawSlot) : Nat := fldN (x.payload.getD 0 0) 0 8

/-- The 64 payload words of a list of words. -/
def padPayload (ws : List Word) : List Word := (ws ++ List.replicate 64 0).take 64

/-- The slot CRC-32: header bits [63:8] as seven bytes, lowest first, then the 256 payload bytes (R294). -/
def slotCrc (x : RawSlot) : Word :=
  crc32 (((wordBytes (lo32 x.hdr) ++ wordBytes (hi32 x.hdr)).drop 1) ++ wordsBytes (padPayload x.payload))

/-- How a received slot's trailer checks. -/
inductive SlotCheck where
  | good
  | stomp
  | bad
deriving DecidableEq, Repr

/-- The check of a slot against its trailer (R275, R294). -/
def checkSlot (x : RawSlot) (trailer : BitVec 64) (headersOk : Bool) : SlotCheck :=
  let crc := slotCrc x
  if !headersOk || fldN x.hdr 0 8 ≠ 0xD2 then .bad
  else if fldN trailer 0 8 = 0xE1 && hi32 trailer == crc then .good
  else if fldN trailer 0 8 = 0xE2 && hi32 trailer == ~~~ crc then .stomp
  else .bad

/-- An EMPTY slot of a sender. -/
def emptySlot (src : BitVec 7) (ringB : Bool) : RawSlot :=
  { hdr := mkWord64 [(0xD2, 0), (src.toNat, 21), (b2n ringB, 50)], payload := List.replicate 64 0 }

/-- The outgoing ring of a port: EAST sends RING_A (R288). -/
def portRingB : Port → Bool
  | .east => false
  | .west => true

/-- The other port. -/
def otherPort : Port → Port
  | .east => .west
  | .west => .east

/-! ### Own slots (R295, R299, R322) -/

/-- The address the node puts into SRC: 0x7F before confirmation. -/
def ownSrc (s : State) : BitVec 7 := if s.ring.addrPhase == .confirmed then s.ring.addr else 0x7F

/-- The ring's feature set has DUAL_RING. -/
def dualRing (s : State) : Bool := hasFeature s 0

/-- A slot of this node. -/
def ownSlot (s : State) (type prio : Nat) (dest : BitVec 7) (sop : Bool) (port : BitVec 9) (ringB : Bool) (ws : List Word) :
    RawSlot where
  hdr := mkWord64 [(0xD2, 0), (type, 8), (prio, 12), (dest.toNat, 14), ((ownSrc s).toNat, 21), (b2n sop, 40),
    (port.toNat, 41), (b2n ringB, 50)]
  payload := padPayload ws

/-- A slot joins the node's own slots that wait. -/
def queueSlot (x : RawSlot) (s : State) : State :=
  { s with ring := { s.ring with ownQueue := s.ring.ownQueue ++ [{ slot := x }] } }

/-- A MGMT slot of this node. -/
def sendMgmt (op : Nat) (dest : BitVec 7) (ringB : Bool) (ws : List Word) (s : State) : State :=
  queueSlot (ownSlot s 6 0 dest false 0 ringB (wordOf op :: ws)) s

/-- Cut a word list into slot payloads. -/
def chunks64 : Nat → List Word → List (List Word)
  | 0, _ => []
  | n + 1, ws => if ws.isEmpty then [] else ws.take 64 :: chunks64 n (ws.drop 64)

/-- The slots of a packet: SOP on the first, the last padded with zeros (R201, R325). -/
def packetSlots (s : State) (type prio : Nat) (dest : BitVec 7) (port : BitVec 9) (ringB : Bool) (ws : List Word) :
    List RawSlot :=
  (chunks64 (ws.length / 64 + 1) ws).zipIdx.map fun c => ownSlot s type prio dest (c.2 == 0) port ringB c.1

/-- A packet's slots join those that wait. -/
def queuePacket (type prio : Nat) (dest : BitVec 7) (port : BitVec 9) (ringB : Bool) (ws : List Word) (s : State) : State :=
  (packetSlots s type prio dest port ringB ws).foldl (fun s x => queueSlot x s) s

/-- RING_B has fewer hops to node 0. A slot to node 0 goes back the way its DISCOVER came, wraps and turns included, so the HOPS of
the DISCOVER on the other ring count them; where only one ring's is known, the other way has the rest of a closed ring's hops, and is
cut by the wraps that the last TOPOLOGY lists (log entry 210). -/
def nearerB (s : State) : Bool :=
  let r := s.ring
  let wrapped := r.wrappedEast != 0x7F || r.wrappedWest != 0x7F
  match r.hopsA, r.hopsB with
  | some a, some b => decide (a.toNat < b.toNat)
  | some a, none => wrapped || decide (a.toNat < r.nodes.toNat - a.toNat)
  | none, some b => !wrapped && decide (r.nodes.toNat - b.toNat < b.toNat)
  | none, none => false

/-- The ring with fewer hops to node 0, RING_A on a tie and without DUAL_RING; to another node, whose place on the ring
TOPOLOGY does not give, RING_A (R322; log entry 70). -/
def ringTo (s : State) (dest : BitVec 7) : Bool := dualRing s && dest == 0 && nearerB s

/-! ### Turns and wraps (R289, R308, R310) -/

/-- The port has wrapped its hop. -/
def wrapsAt (s : State) : Port → Bool
  | .east => s.ring.wrapEast
  | .west => s.ring.wrapWest

/-- The port has had a hop since the trunk domain left reset. -/
def hadHop (s : State) : Port → Bool
  | .east => s.ring.hadHopEast
  | .west => s.ring.hadHopWest

/-- Slots that would leave the port are turned: a wrap, or a port that never had a hop. -/
def turnsAt (s : State) (p : Port) : Bool := wrapsAt s p || !hadHop s p

/-- The state with a wrap set. -/
def setWrap (p : Port) (v : Bool) (s : State) : State :=
  match p with
  | .east => { s with ring := { s.ring with wrapEast := v } }
  | .west => { s with ring := { s.ring with wrapWest := v } }

/-- A turned slot: RING flipped, WRAPPED set. -/
def turned (x : RawSlot) : RawSlot := { x with hdr := setFld64 (setFld64 x.hdr 50 1 (b2n !(slotRingB x))) 51 1 1 }

/-- Hop-local MGMT, never turned (R296). -/
def hopLocal (x : RawSlot) : Bool := slotType x == 6 && (slotOp x == 0x0C || slotOp x == 0x0D)

/-- An own slot as it stands now: its SRC is the address held, and without DUAL_RING it is inserted on RING_A (R291, R307). -/
def ownAsNow (s : State) (x : RawSlot) : RawSlot :=
  let x := { x with hdr := setFld64 x.hdr 21 7 (ownSrc s).toNat }
  if hopLocal x || dualRing s then x else { x with hdr := setFld64 x.hdr 50 1 0 }

/-- The port an own slot leaves by, and the slot as it leaves; none where both ports turn. -/
def routeOwn (s : State) (x : RawSlot) : Option (Port × RawSlot) :=
  let x := ownAsNow s x
  let p : Port := if slotRingB x then .west else .east
  if hopLocal x || !turnsAt s p then some (p, x)
  else if turnsAt s (otherPort p) then none
  else some (otherPort p, turned x)

/-- An own slot waits for a port: one of the queue, or the next slot of a stream's packet. -/
def ownWaits (s : State) (p : Port) : Bool :=
  let mine (x : RawSlot) : Bool := (routeOwn s x).any fun r => r.1 == p
  (s.ring.ownQueue.any fun w => mine w.slot) ||
  (s.ring.addrPhase == .confirmed && s.ring.txRest.any fun r => (r.2.head?.any mine))

/-- WRAP, broadcast by a wrap node. -/
def sendWrap (p : Port) (wrapped : Bool) (s : State) : State :=
  sendMgmt 0x09 127 false [mkWord [(b2n wrapped, 9), (portNo p, 8), ((ownSrc s).toNat, 0)]] s

/-- A node with DUAL_RING wraps a hop that went down: WRAP is broadcast and RING_WRAP raised (R308). -/
def wrapPort (p : Port) (s : State) : State :=
  if dualRing s && !wrapsAt s p then
    let s := setWrap p true s
    raise 0x050A (portNo p) 0 0 (sendWrap p true { s with ring := { s.ring with wraps := satInc s.ring.wraps, unwrapped := false } })
  else s

/-! ### A hop has come UP (R290, R291, R310, R314) -/

/-- ID_TAG: the low 16 bits of the device identity (R263). -/
def idTag (s : State) : BitVec 16 := fld s.rst.fuses.deviceId 0 16

/-- Identity words of a MGMT slot. -/
def idWords (s : State) : List Word := [lo32 s.rst.fuses.deviceId, hi32 s.rst.fuses.deviceId]

/-- The tentative address: the address last held, which the always-on domain keeps from one power-on to the next; with none held
since the power-on, 1 + (ID_TAG mod 64) (R290). -/
def tentativeAddr (s : State) : BitVec 7 :=
  if s.ring.lastAddr == 0 then BitVec.ofNat 7 (1 + (idTag s).toNat % 64) else s.ring.lastAddr

/-- PROBE with the tentative address. -/
def sendProbe (s : State) : State :=
  let a := if s.ring.addrPhase == .none then tentativeAddr s else s.ring.addr
  let s := { s with ring := { s.ring with
    addrPhase := .tentative, addr := a, lastAddr := a, probing := true, probeClaimed := false } }
  sendMgmt 0x03 127 false (idWords s ++ [wordOf a.toNat]) s

/-- JOIN: proposing the tentative address, or with none after a collision. -/
def sendJoin (s : State) : State :=
  let a : BitVec 7 := if s.ring.addrPhase == .tentative then s.ring.addr else 0x7F
  let s := { s with ring := { s.ring with joinAt := some s.now.real, backoff := false } }
  sendMgmt 0x05 0 false (idWords s ++ [wordOf a.toNat]) s

/-- A collision: the node holds no address and asks node 0 after a random wait of 0–1,023 µs (R291). -/
def collide (wait : Nat) (s : State) : State :=
  if s.ring.collided then s
  else
    let a := s.ring.addr
    raise 0x0508 a.toNat 0 0 { s with ring := { s.ring with
      addrPhase := .none, addr := 0x7F, probing := false, collided := true, backoff := true
      joinAt := some (s.now.real + 16000 * min wait 1023), collisions := satInc s.ring.collisions } }

/-- DELAY_REQ to the neighbour of a port. -/
def sendDelayReq (p : Port) (s : State) : State :=
  let t1 : BitVec 64 := BitVec.ofNat 64 (ringCount s)
  let s := updPort s p fun x => { x with delayAt := s.now.real }
  sendMgmt 0x0C 127 (portRingB p) [lo32 t1, hi32 t1] s

/-- What the ring does when the hop of a port has come UP. -/
def ringHopUp (p : Port) (s : State) : State :=
  let s := match p with
    | .east => { s with ring := { s.ring with hadHopEast := true } }
    | .west => { s with ring := { s.ring with hadHopWest := true } }
  let s := { s with ring := { s.ring with ownerFrom := some (s.ring.ownerFrom.getD s.now.real) } }
  let s := if wrapsAt s p then sendWrap p false s else s
  let s := sendDelayReq p s
  if s.ring.addrPhase == .confirmed || s.ring.collided then s else sendProbe s

end Sys2Proof.Machine
end

