-- ==== Sys2Proof/Machine/TwOps.lean ====
section
/-! DEFINITION. The reply side of the two-wire mailboxes (R432–R434). -/
namespace Sys2Proof.Machine

/-- The requester that a two-wire port stands for. -/
def twReq : TwPort → Requester
  | .a => .twa
  | .b => .twb

/-- Bytes filled up with zeros to a length. -/
def fillBytes (n : Nat) (bs : List Byte) : List Byte := (bs ++ List.replicate n 0).take n

/-- A segment of a reply is loaded into MB_OUT. -/
def loadSegment (bs : List Byte) (x : TwPortState) : TwPortState :=
  { x with mbOut := fillBytes 96 (bs.take 96), replyLen := BitVec.ofNat 8 (min 96 bs.length), replyReady := true,
           replyMore := decide (96 < bs.length), replyRest := bs.drop 96 }

/-- A generated reply is placed in the port's mailbox. -/
def mailReply (p : TwPort) (bs : List Byte) (s : State) : State :=
  updTw s p fun x => { loadSegment bs x with held := false, ibrPending := x.cfg.ibrEn && !x.cfg.role }

/-- The port is free: its command has completed and sends no reply. -/
def mailFree (p : TwPort) (s : State) : State := updTw s p fun x => { x with held := false }

/-- MB_ERR takes a code other than RESET. -/
def setMbErr (code : BitVec 3) (x : TwPortState) : TwPortState := { x with mbErr := code, mbErrors := satInc x.mbErrors }

/-- The port holds its command: from SUBMIT until the last reply segment has been released. -/
def twHolds (x : TwPortState) : Bool := x.held || x.replyReady

end Sys2Proof.Machine
end

