-- ==== Sys2Proof/Machine/Bureau.lean ====
section
/-! DEFINITION. The Bureau: queues, packet checks, replies, retries, and the frame every command runs in (R320–R337). -/
namespace Sys2Proof.Machine

/-! ### The opcode table (R327, R328, R336) -/

/-- The widest set of requesters of a command. -/
inductive OpLevel where
  | any
  | read
  | full
deriving DecidableEq, Repr

/-- A row of the opcode table: code, requesters, B, Since, and the parameter words of the layout. -/
structure OpRow where
  code : Nat
  level : OpLevel
  bcast : Bool
  since : Nat
  least : Nat
  most : Nat
deriving DecidableEq, Repr

/-- The opcode table, first half. -/
def opRows1 : List OpRow := [
  ⟨0x0001, .any, true, 1, 0, 0⟩, ⟨0x0002, .read, false, 1, 1, 1⟩, ⟨0x0003, .any, false, 1, 1, 1⟩,
  ⟨0x0004, .read, false, 1, 2, 2⟩, ⟨0x0005, .full, false, 1, 1, 1⟩, ⟨0x0101, .full, true, 1, 1, 1⟩,
  ⟨0x0102, .full, false, 1, 7, 7⟩, ⟨0x0103, .full, true, 1, 2, 2⟩, ⟨0x0104, .full, true, 1, 6, 6⟩,
  ⟨0x0105, .full, false, 1, 3, 1155⟩, ⟨0x0106, .full, false, 1, 7, 7⟩, ⟨0x0107, .full, true, 2, 3, 3⟩,
  ⟨0x0108, .full, false, 2, 3, 3⟩, ⟨0x0201, .full, false, 1, 2, 2⟩, ⟨0x0202, .full, false, 1, 26, 26⟩,
  ⟨0x0203, .full, false, 1, 2, 1276⟩, ⟨0x0204, .full, false, 1, 5, 5⟩, ⟨0x0205, .full, false, 1, 3, 3⟩,
  ⟨0x0206, .read, false, 1, 3, 3⟩, ⟨0x0301, .full, false, 1, 9, 9⟩, ⟨0x0302, .full, true, 1, 1, 1⟩,
  ⟨0x0303, .full, true, 1, 1, 1⟩, ⟨0x0304, .full, false, 1, 3, 3⟩, ⟨0x0401, .full, false, 2, 2, 1276⟩,
  ⟨0x0402, .full, false, 2, 1, 1⟩, ⟨0x0403, .full, false, 2, 1, 1⟩, ⟨0x0404, .read, false, 2, 1, 1⟩,
  ⟨0x0405, .full, false, 2, 1, 1⟩]

/-- The opcode table, second half. -/
def opRows2 : List OpRow := [
  ⟨0x0501, .read, false, 1, 1, 1⟩, ⟨0x0502, .full, false, 1, 3, 3⟩, ⟨0x0503, .read, false, 1, 1, 1⟩,
  ⟨0x0504, .full, false, 1, 3, 3⟩, ⟨0x0505, .read, false, 1, 1, 1⟩, ⟨0x0506, .full, false, 2, 2, 2⟩,
  ⟨0x0601, .read, false, 1, 3, 3⟩, ⟨0x0602, .full, false, 1, 2, 1276⟩, ⟨0x0603, .full, false, 1, 1, 1⟩,
  ⟨0x0604, .full, false, 1, 1, 1276⟩, ⟨0x0605, .full, false, 1, 1, 1⟩, ⟨0x0606, .read, false, 1, 3, 3⟩,
  ⟨0x0607, .full, false, 1, 1, 1⟩, ⟨0x0701, .full, false, 1, 10, 10⟩, ⟨0x0702, .full, false, 1, 2, 1276⟩,
  ⟨0x0703, .full, false, 1, 7, 7⟩, ⟨0x0704, .full, false, 1, 4, 4⟩, ⟨0x0705, .read, false, 1, 1, 1⟩,
  ⟨0x0706, .full, false, 2, 18, 18⟩, ⟨0x0707, .read, false, 2, 1, 1⟩, ⟨0x0708, .full, false, 2, 2, 2⟩,
  ⟨0x0801, .full, false, 1, 7, 7⟩, ⟨0x0802, .full, false, 2, 2, 2⟩, ⟨0x0803, .read, false, 1, 1, 1⟩,
  ⟨0x0804, .full, false, 1, 1, 1⟩, ⟨0x0805, .full, false, 2, 4, 4⟩, ⟨0x0806, .full, false, 1, 2, 2⟩,
  ⟨0x0807, .read, false, 1, 1, 1⟩, ⟨0x0808, .full, false, 1, 1, 1⟩, ⟨0x0F01, .read, false, 1, 3, 3⟩,
  ⟨0x0F02, .full, false, 1, 2, 1276⟩, ⟨0x0F03, .full, false, 1, 1, 1⟩, ⟨0x0F04, .full, false, 2, 2, 2⟩]

/-- The row of an opcode. -/
def opRow (code : Nat) : Option OpRow := (opRows1 ++ opRows2).find? fun r => r.code == code

/-! ### Packets (R323, R325) -/

/-- Word i of a packet. -/
def pktWord (p : Packet) (i : Nat) : Word := bytesWord ((p.bytes.drop (4 * i)).take 4)
/-- OPCODE. -/
def pktOp (p : Packet) : Nat := fldN (pktWord p 0) 0 16
/-- CMDVER. -/
def pktVer (p : Packet) : Nat := fldN (pktWord p 0) 24 8
/-- BARRIER. -/
def pktBarrier (p : Packet) : Bool := bitAt (pktWord p 0) 18
/-- RETRY. -/
def pktRetry (p : Packet) : Bool := bitAt (pktWord p 0) 17
/-- NO_REPLY. -/
def pktNoReply (p : Packet) : Bool := bitAt (pktWord p 0) 16
/-- LENGTH. -/
def pktLen (p : Packet) : Nat := fldN (pktWord p 1) 16 16
/-- TAG. -/
def pktTag (p : Packet) : BitVec 16 := fld (pktWord p 1) 0 16

/-- The command a packet carries. -/
def cmdOf (p : Packet) : Cmd where
  req := p.req
  via := p.via
  tag := pktTag p
  ver := pktVer p
  opcode := pktOp p
  sel := fldN (pktWord p 2) 8 4
  words := takeWords (pktLen p) (p.bytes.drop 12)

/-- The packet's CRC-32 is that of every byte before it; a packet with fewer bytes than LENGTH says fails. -/
def crcOk (p : Packet) : Bool :=
  let n := 4 * (pktLen p + 3)
  decide (n + 4 ≤ p.bytes.length) && crc32 (p.bytes.take n) == bytesWord ((p.bytes.drop n).take 4)

/-- The CRC-32 the packet has with RETRY cleared, by which a retry is told from a new command (log entry 7). -/
def retryKey (p : Packet) : Word :=
  crc32 (wordBytes (pktWord p 0 &&& 0xFFFDFFFF) ++ (p.bytes.take (4 * (pktLen p + 3))).drop 4)

/-- The largest packet of a path in bytes: trunk 5,120, two-wire 144. -/
def pathBytes (via : Option Port) : Nat := if via.isSome then 5120 else 144
/-- The result words a path carries. -/
def pathWords (via : Option Port) : Nat := if via.isSome then 1276 else 32

/-! ### Requesters (R320, R336, R337) -/

/-- The four requesters. -/
def reqClass : Requester → Nat
  | .owner => 0
  | .node _ => 1
  | .twa => 2
  | .twb => 3

/-- Commands a requester's queue holds. -/
def queueSize (r : Requester) : Nat := if reqClass r = 0 then 16 else if reqClass r = 1 then 4 else 1

/-- The session version of a requester; other nodes have none and may use 1 or 2. -/
def sessionVer (s : State) : Requester → Nat
  | .owner => s.bureau.verOwner.toNat
  | .node _ => 2
  | .twa => s.bureau.verTwa.toNat
  | .twb => s.bureau.verTwb.toNat

/-- What a two-wire level admits: 0 FULL, 1 READ, else NONE. -/
def levelAdmits (l : BitVec 2) (r : OpRow) : Bool := if l == 0 then true else if l == 1 then r.level != .full else false

/-- A requester may send a command. -/
def permitted (s : State) (req : Requester) (r : OpRow) : Bool :=
  match req with
  | .owner => true
  | .node _ => r.code == 1 || r.code == 3
  | .twa => levelAdmits s.twa.cfg.level r
  | .twb => levelAdmits s.twb.cfg.level r

/-- LENGTH that a layout allows. -/
def lengthOk (ver : Nat) (r : OpRow) (n : Nat) : Bool :=
  if ver = 1 then decide (n ≤ r.most) else decide (r.least ≤ n) && decide (n ≤ r.most)

/-- DETAIL of a LENGTH that the layout does not allow: the first word beyond the layout, or the first one missing (R324; log entry
178). -/
def lengthDetail (r : OpRow) (n : Nat) : Nat := min 0xFE (if r.most < n then r.most else n)

/-- The checks of a packet before the command's own, in order (R326). -/
def headerCheck (s : State) (p : Packet) : Option (Status × Nat) :=
  let ver := pktVer p
  let op := pktOp p
  if pathBytes p.via < p.bytes.length || pathBytes p.via < 4 * (pktLen p + 4) then some (.badLength, 0xFF)
  else if !crcOk p then some (.badCrc, 0xFF)
  else if !(if op = 2 then decide (1 ≤ ver) else decide (1 ≤ ver) && decide (ver ≤ sessionVer s p.req)) then
    some (.versionUnsupported, 0xFF)
  else match opRow op with
    | none => some (.badOpcode, 0xFF)
    | some r =>
      if op ≠ 2 ∧ ver < r.since then some (.badOpcode, 0xFF)
      else if !permitted s p.req r then some (.notPermitted, 3)
      else if p.via.isSome && p.dest == 127 && !(r.bcast && p.req == .owner) then some (.notPermitted, 2)
      else if fldN (pktWord p 0) 19 5 ≠ 0 || fldN (pktWord p 2) 12 20 ≠ 0 || bitAt (pktWord p 2) 7 ||
          fldN (pktWord p 2) 8 4 > (if op = 0x0301 then 7 else 0) || fld (pktWord p 2) 0 7 != p.dest then
        some (.badParam, 0xFF)
      else if !lengthOk ver r (pktLen p) then some (.badLength, lengthDetail r (pktLen p))
      else none

/-- The commands the boot loader accepts in RECOVERY (R398). -/
def recoveryAccepts (op : Nat) : Bool := [0x0001, 0x0002, 0x0003, 0x0004, 0x0005, 0x0601, 0x0603, 0x0604, 0x0605, 0x0606].contains op

/-! ### Replies (R322, R324, R329, R331) -/

/-- The words of a reply, its CRC left out. -/
def replyWords (p : Packet) (dup : Bool) (r : CmdResult) : List Word :=
  let lim := pathWords p.via
  let res := r.results.take lim
  [mkWord [(r.ver.getD (pktVer p), 24), (b2n dup, 18), (b2n (lim < r.results.length), 17), (b2n (statusDone r.status), 16),
     (pktOp p, 0)],
   mkWord [(res.length, 16), ((pktTag p).toNat, 0)],
   mkWord [(r.detail, 24), (statusCode r.status, 0)]] ++ res

/-- The address a trunk reply goes to. -/
def replyDest : Requester → BitVec 7
  | .node a => a
  | _ => 0

/-- A reply takes the path of its command. -/
def deliver (p : Packet) (ws : List Word) (s : State) : State :=
  let ws := withCrc ws
  let s := { s with out := { s.out with replies := s.out.replies ++ [⟨p.req, ws⟩] } }
  match p.via, p.req with
  | none, .twa => if p.mute then s else mailReply .a (wordsBytes ws) s
  | none, .twb => if p.mute then s else mailReply .b (wordsBytes ws) s
  | _, _ => queuePacket 3 1 (replyDest p.req) 0 (ringTo s (replyDest p.req)) ws s

/-- No reply follows: the port of a two-wire command is free. -/
def unanswered (p : Packet) (s : State) : State :=
  match p.via, p.req with
  | none, .twa => if p.mute then s else mailFree .a s
  | none, .twb => if p.mute then s else mailFree .b s
  | _, _ => s

/-- A reply is kept with the last 64 of its requester. -/
def storeReply (p : Packet) (ws : List Word) (s : State) : State :=
  let mine := s.bureau.stored.filter fun x => reqClass x.req == reqClass p.req
  let rest := s.bureau.stored.filter fun x => reqClass x.req != reqClass p.req
  let keep := mine.drop (mine.length - 63)
  { s with bureau := { s.bureau with stored := rest ++ keep ++ [⟨p.req, pktTag p, if crcOk p then some (retryKey p) else none, ws⟩] } }

/-- The counters of a reply (R340, R386, R88). -/
def countReply (st : Status) (s : State) : State :=
  let s := if statusDone st then { s with bureau := { s.bureau with cmdsExecuted := satInc s.bureau.cmdsExecuted } }
    else { s with bureau := { s.bureau with cmdsRefused := satInc s.bureau.cmdsRefused } }
  match st with
  | .budgetExceeded => { s with power := { s.power with admitRefused := satInc s.power.admitRefused } }
  | .late => { s with expCnt := { s.expCnt with paramsLate := satInc s.expCnt.paramsLate } }
  | .lateRefused => { s with expCnt := { s.expCnt with paramsLate := satInc s.expCnt.paramsLate } }
  | _ => s

/-- A requester as the dump records it, a code the layout does not give (log entry 76). -/
def reqCode : Requester → Word
  | .owner => Config.requesterCode 0 0
  | .node a => Config.requesterCode 1 a
  | .twa => Config.requesterCode 2 0
  | .twb => Config.requesterCode 3 0

/-- The dump's record of a command: requester, H0–H2, the first eight parameter words, reply H0 and H2, ring time of
arrival (R419). -/
def noteCommand (p : Packet) (ws : List Word) (s : State) : State :=
  let par := (takeWords (min 8 (pktLen p)) (p.bytes.drop 12) ++ List.replicate 8 0).take 8
  let at0 := ringCount { s with now := p.arrived } / 16
  let r := [reqCode p.req, pktWord p 0, pktWord p 1, pktWord p 2] ++ par ++
    [ws.getD 0 0, ws.getD 2 0, wordOf at0, wordOf (at0 / 2 ^ 32)]
  { s with bureau := { s.bureau with recent := s.bureau.recent.drop (s.bureau.recent.length - 255) ++ [r] } }

/-- A reply is generated: counted, stored and sent, unless NO_REPLY suppresses it. -/
def answer (p : Packet) (r : CmdResult) (s : State) : State :=
  let ws := replyWords p false r
  let s := noteCommand p ws (storeReply p ws (countReply r.status s))
  if pktNoReply p && statusDone r.status then unanswered p s else deliver p ws s

/-- A refusal of a packet. -/
def answerRefusal (p : Packet) (st : Status) (detail : Nat) (s : State) : State :=
  answer p { state := s, status := st, detail := detail } s

/-- A stored reply is sent again with DUPLICATE = 1; NO_REPLY suppresses it as it did the first. -/
def resendReply (p : Packet) (x : StoredReply) (s : State) : State :=
  let h := x.words.getD 0 0
  if pktNoReply p && bitAt h 16 then unanswered p s
  else
    let s := { s with bureau := { s.bureau with cmdsDuplicate := satInc s.bureau.cmdsDuplicate } }
    deliver p ((h ||| 0x40000) :: x.words.tail) s

/-- The stored reply a retry repeats. -/
def storedFor (s : State) (p : Packet) : Option StoredReply :=
  if pktRetry p then s.bureau.stored.find? fun x => x.req == p.req && x.tag == pktTag p && x.crc == some (retryKey p) else none

/-! ### Taking commands (R320, R331) -/

/-- The Bureau takes commands: its firmware runs and its domain is not in reset. -/
def bureauRuns (s : State) : Bool :=
  s.bureau.ready && !s.rst.asserted.contains .bureau && s.power.phase != .stow && s.bureau.executing.isNone

/-- A packet's requester has earlier work that has not completed. -/
def barrierHolds (s : State) (p : Packet) : Bool :=
  pktBarrier p && s.bureau.unfinished.any fun u => reqClass u.1 == reqClass p.req

/-- The first packet that no BARRIER holds, with the packets before it and behind it; `held` lists the queues in which a
command is held. -/
def nextPacket (s : State) (held : List Nat) : List Packet → Option (List Packet × Packet × List Packet)
  | [] => none
  | p :: ps =>
    if held.contains (reqClass p.req) then (nextPacket s held ps).map fun r => (p :: r.1, r.2)
    else if barrierHolds s p then (nextPacket s (reqClass p.req :: held) ps).map fun r => (p :: r.1, r.2)
    else some ([], p, ps)

/-- The packet the Bureau takes next, and the queue without it. -/
def takeable (s : State) : Option (Packet × List Packet) :=
  if bureauRuns s then (nextPacket s [] s.bureau.queue).map fun r => (r.2.1, r.1 ++ r.2.2) else none

/-- An intact retry of a stored reply is not executed; any other packet meets its refusal, if there is one. -/
def retryOr (p : Packet) (s : State) (kept : Option StoredReply) (refusal : Option (Status × Nat)) : Option State :=
  match kept with
  | some x => some (resendReply p x s)
  | none => refusal.map fun r => answerRefusal p r.1 r.2 s

/-- What a packet is answered before its command is looked at: a retry's stored reply, or a refusal. A packet whose CRC
fails is no retry. -/
def preAnswer (p : Packet) (s : State) : Option State :=
  match headerCheck s p with
  | some (st, d) => if !crcOk p then some (answerRefusal p st d s) else retryOr p s (storedFor s p) (some (st, d))
  | none =>
    retryOr p s (storedFor s p) (if s.rst.recovery && !recoveryAccepts (pktOp p) then some (.wrongState, 0xFF) else none)

/-- Packets at the front that are refused, or repeat an answered command, are dealt with (log entry 74). -/
def settle : Nat → State → State
  | 0, s => s
  | n + 1, s =>
    match takeable s with
    | none => s
    | some (p, rest) =>
      match preAnswer p { s with bureau := { s.bureau with queue := rest } } with
      | none => s
      | some s => settle n s

/-- Settle the whole queue. -/
def settleAll (s : State) : State := settle (s.bureau.queue.length + 1) s

/-- The state after a command and its reply: a refused command changed nothing (R320, R329). -/
def finishCmd (p : Packet) (r : CmdResult) (before : State) : State :=
  settleAll (answer p r (if statusDone r.status || r.keeps then r.state else before))

/-- The Bureau's own state is consistent: session versions it has given, queues and stored replies within their sizes, and no more
unacknowledged events than the log holds (R320, R331, R337, R343; log entry 179). -/
def bureauSound (s : State) : Bool :=
  let b := s.bureau
  [b.verOwner, b.verTwa, b.verTwb].all (fun v => v == 1 || v == 2) && decide (unackedCount s.events ≤ 256) &&
  (List.range 4).all fun k =>
    decide ((b.queue.filter fun q => reqClass q.req == k && !q.mute).length ≤ 16) &&
    decide ((b.stored.filter fun x => reqClass x.req == k).length ≤ 64)

/-- The Bureau has found its own state inconsistent: INTERNAL_FAULT, and CMD_FAULT with OPCODE and TAG (R329, R340, R345). -/
def faultCmd (p : Packet) (s : State) : State :=
  let s := { s with bureau := { s.bureau with cmdFaults := satInc s.bureau.cmdFaults } }
  answerRefusal p .internalFault 0xFF (raise 0x0003 (pktOp p) (pktTag p).toNat 0 s)

/-- Execute a packet's command. -/
def executePacket (p : Packet) (body : Cmd → State → CmdResult) (s : State) : State :=
  let r := body (cmdOf p) s
  if !bureauSound s then settleAll (faultCmd p s)
  else if r.held then { r.state with bureau := { r.state.bureau with executing := some p } } else finishCmd p r s

/-- A command that arrives in Doze wakes the device to Idle: the memory wafer leaves self-refresh. -/
def wakeDoze (s : State) : State :=
  if s.power.phase == .doze then
    let wake := { s.accum with selfRefresh := s.accum.selfRefresh && s.clock.limp }
    arbitrate { s with power := { s.power with phase := .idle }, accum := wake }
  else s

/-- A command row: the oldest command the Bureau can take is executed where it is the row's (log entry 75). -/
def runCmd (t : Instant) (op : Nat) (body : Cmd → State → CmdResult) (s : State) : Result :=
  let s := settleAll (setNow t s)
  match takeable s with
  | some (p, rest) =>
    if pktOp p = op then .next (executePacket p body (wakeDoze { s with bureau := { s.bureau with queue := rest } })) else .next s
  | none => .next s

/-- The reply of a held command: the command with opcode `op` that is executing is answered. -/
def finishHeld (op : Nat) (f : Cmd → State → CmdResult) (s : State) : State :=
  match s.bureau.executing with
  | none => s
  | some p =>
    if pktOp p = op then
      let s := { s with bureau := { s.bureau with executing := none } }
      let r := f (cmdOf p) s
      settleAll (answer p r r.state)
    else s

/-- The command with opcode `op` executes and waits for its reply. -/
def heldCmd (s : State) (op : Nat) : Option Cmd :=
  match s.bureau.executing with
  | some p => if pktOp p = op then some (cmdOf p) else none
  | none => none

/-! ### Arrival (R320, R325, R331, R382) -/

/-- A retry of a command that is still queued or executing. -/
def stillOpen (s : State) (p : Packet) : Bool :=
  pktRetry p && (s.bureau.executing.toList ++ s.bureau.queue).any fun q =>
    q.req == p.req && pktTag q == pktTag p && crcOk q && retryKey q == retryKey p

/-- Packets of a requester's queue; one that ABORT has muted leaves its place free (R432). -/
def queued (s : State) (r : Requester) : Nat :=
  (s.bureau.queue.filter fun q => reqClass q.req == reqClass r && !q.mute).length

/-- QUEUE_PEAK follows the depth of node 0's queue. -/
def notePeakQueue (s : State) : State :=
  { s with bureau := { s.bureau with queuePeak := clampU 16 (max s.bureau.queuePeak.toNat (queued s .owner)) } }

/-- A cycle of BCLK in 1/16 ns: 2.5 ns, 10 ns on the limp clock, one of REFCLK0 where the domains run on it (R355, R357, R360). -/
def bclkLen (s : State) : Nat :=
  if !s.clock.limp then 40 else if onRef0 s then 16000000 / ref0Rate s else 160

/-- The place of a packet: behind those that arrived no later, and in the order trunk, TWA, TWB within one BCLK cycle of `len`
(R320, R334). -/
def placePacket (len : Nat) (p : Packet) : List Packet → List Packet
  | [] => [p]
  | q :: qs =>
    if q.arrived.real / len == p.arrived.real / len && decide (max 1 (reqClass p.req) < max 1 (reqClass q.req)) then p :: q :: qs
    else q :: placePacket len p qs

/-- A packet arrives at the Bureau. -/
def arrivePacket (p : Packet) (s : State) : State :=
  if s.rst.asserted.contains .bureau then
    (if p.via.isSome then { s with bureau := { s.bureau with cmdsDiscarded := satInc s.bureau.cmdsDiscarded } } else s)
  else
    let s := wakeDoze s
    if crcOk p && stillOpen s p then unanswered p s
    else if s.nvm.dumping.isSome && queueSize p.req ≤ queued s p.req then
      { s with bureau := { s.bureau with cmdsDiscarded := satInc s.bureau.cmdsDiscarded } }
    else if queueSize p.req ≤ queued s p.req then answerRefusal p .busy 1 s
    else settleAll (notePeakQueue { s with bureau := { s.bureau with queue := placePacket (bclkLen s) p s.bureau.queue } })

/-- The packet that bytes on a path make, and none for a trunk packet that is not for this node (R290, R335). -/
def packetOn (path : CmdPath) (bytes : List Byte) (s : State) : Option Packet :=
  match path with
  | .trunk port src dest =>
    if s.ring.addrPhase == .confirmed && (dest == s.ring.addr || dest == 127) then
      some { req := if src == 0 then .owner else .node src, via := some port, dest := dest, bytes := bytes, arrived := s.now }
    else none
  | .twoWire .a => some { req := .twa, dest := 127, bytes := bytes, arrived := s.now }
  | .twoWire .b => some { req := .twb, dest := 127, bytes := bytes, arrived := s.now }

/-- COMMAND_ARRIVAL. -/
def execCommandArrival (t : Instant) (path : CmdPath) (bytes : List Byte) (s : State) : Result :=
  let s := setNow t s
  .next (match packetOn path bytes s with
    | some p => arrivePacket p s
    | none => s)

/-- CMD_PACKET_TIMEOUT: 100 µs without a slot discard a packet that is still coming in. -/
def execCmdPacketTimeout (t : Instant) (src : BitVec 7) (s : State) : Result :=
  let s := setNow t s
  let late (a : Assembling) : Bool := a.src == src && decide (a.last.real + 1600000 ≤ s.now.real)
  let n := (s.bureau.assembling.filter late).length
  .next { s with bureau := { s.bureau with
    assembling := s.bureau.assembling.filter fun a => !late a
    cmdsDiscarded := satAdd s.bureau.cmdsDiscarded n } }

end Sys2Proof.Machine
end

