-- ==== Sys2Proof/Machine/Digest.lean ====
section
/-! DEFINITION. SHA-256 (FIPS 180-4) and the verification of ECDSA signatures on the curve P-256 (FIPS 186), which R416
names. -/
namespace Sys2Proof.Machine

/-! ### SHA-256 -/

/-- The exclusive or of a word's rotations right by the amounts given. -/
def mixRot (amounts : List Nat) (x : Word) : Word := amounts.foldl (fun acc n => acc ^^^ x.rotateRight n) 0

/-- The largest number of at most `n` bits, above `lo`, whose `k`-th power is at most `v`. -/
def rootFrom (k v : Nat) : Nat → Nat → Nat
  | 0, lo => lo
  | n + 1, lo => rootFrom k v n (if (lo + 2 ^ n) ^ k ≤ v then lo + 2 ^ n else lo)

/-- The first 32 bits of the fraction of a number's `k`-th root. -/
def rootFraction (k p : Nat) : Word := BitVec.ofNat 32 (rootFrom k (p * 2 ^ (32 * k)) 38 0)

/-- The primes below 312, 64 of them. -/
def smallPrimes : List Nat := (rangeFrom 2 310).filter fun p => (rangeFrom 2 16).all fun d => p ≤ d || p % d ≠ 0

/-- The round constants: of the cube roots of the first 64 primes. -/
def shaK : List Word := smallPrimes.map (rootFraction 3)

/-- The initial hash value: of the square roots of the first eight primes. -/
def shaH0 : List Word := (smallPrimes.take 8).map (rootFraction 2)

/-- A word whose bytes are given highest first. -/
def beWord (bs : List Byte) : Word := bytesWord bs.reverse

/-- A number whose bytes are given highest first. -/
def beNat (bs : List Byte) : Nat := bytesNat bs.reverse

/-- The sixteen words of a block. -/
def blockWords (bs : List Byte) : List Word := (List.range 16).map fun i => beWord ((bs.drop (4 * i)).take 4)

/-- The next word of the message schedule; the schedule so far is held latest first. -/
def nextW (l : List Word) : Word :=
  let back (n : Nat) : Word := l.getD (n - 1) 0
  let small (amounts : List Nat) (shift n : Nat) : Word := mixRot amounts (back n) ^^^ (back n >>> shift)
  back 16 + back 7 + small [7, 18] 3 15 + small [17, 19] 10 2

/-- The message schedule of 64 words. -/
def schedule (b : List Word) : List Word := (Nat.repeat (fun l => nextW l :: l) 48 b.reverse).reverse

/-- One round on the eight working words v: a and e are new, the others move down one place. -/
def shaRound (v : List Word) (kw : Word × Word) : List Word :=
  let at' (i : Nat) : Word := v.getD i 0
  let choose : Word := at' 6 ^^^ (at' 4 &&& (at' 5 ^^^ at' 6))
  let majority : Word := (at' 0 &&& (at' 1 ||| at' 2)) ||| (at' 1 &&& at' 2)
  let sum : Word := kw.1 + kw.2 + choose + mixRot [6, 11, 25] (at' 4) + at' 7
  let lead : Word := sum + (majority + mixRot [2, 13, 22] (at' 0))
  lead :: ((v.take 7).set 3 (at' 3 + sum))

/-- One block. -/
def shaBlock (h : List Word) (block : List Byte) : List Word :=
  let v := (shaK.zip (schedule (blockWords block))).foldl shaRound h
  (h.zip v).map fun x => x.1 + x.2

/-- The blocks of a padded message. -/
def shaBlocks : Nat → List Word → List Byte → List Word
  | 0, h, _ => h
  | n + 1, h, bs => shaBlocks n (shaBlock h (bs.take 64)) (bs.drop 64)

/-- SHA-256 of a byte string, as a number. -/
def sha256 (bs : List Byte) : Nat :=
  let n := bs.length
  let zeros := (119 - n % 64) % 64
  let padded := bs ++ [0x80] ++ List.replicate zeros 0 ++ (natBytes 8 (8 * n)).reverse
  (shaBlocks (padded.length / 64) shaH0 padded).foldl (fun a w => a * 2 ^ 32 + w.toNat) 0

/-! ### ECDSA on P-256 -/

/-- The field prime. -/
def p256P : Nat := 0xFFFFFFFF00000001000000000000000000000000FFFFFFFFFFFFFFFFFFFFFFFF
/-- The order of the base point. -/
def p256N : Nat := 0xFFFFFFFF00000000FFFFFFFFFFFFFFFFBCE6FAADA7179E84F3B9CAC2FC632551
/-- The coefficient b. -/
def p256B : Nat := 0x5AC635D8AA3A93E7B3EBBD55769886BC651D06B0CC53B0F63BCE3C3E27D2604B
/-- The base point. -/
def p256G : Nat × Nat :=
  (0x6B17D1F2E12C4247F8BCE6E563A440F277037D812DEB33A0F4A13945D898C296,
   0x4FE342E2FE1A7F9B8EE7EB4A7C0F9E162BCE33576B315ECECBB6406837BF51F5)

/-- a ^ e mod m, over the lowest `n` bits of e. -/
def powMod (m : Nat) : Nat → Nat → Nat → Nat
  | 0, _, _ => 1
  | n + 1, a, e =>
    let h := powMod m n (a * a % m) (e / 2)
    if e % 2 = 1 then a * h % m else h

/-- The inverse modulo a prime. -/
def invMod (m a : Nat) : Nat := powMod m 256 (a % m) (m - 2)

/-- The third point on the line of slope `l` through two points, mirrored. -/
def chord (l x1 y1 x2 : Nat) : Nat × Nat :=
  let x3 := (l * l + 2 * p256P - x1 - x2) % p256P
  (x3, (l * (x1 + p256P - x3) + p256P - y1) % p256P)

/-- The sum of two points; none is the point at infinity. -/
def pointAdd : Option (Nat × Nat) → Option (Nat × Nat) → Option (Nat × Nat)
  | none, q => q
  | p, none => p
  | some (x1, y1), some (x2, y2) =>
    if x1 = x2 then
      if (y1 + y2) % p256P = 0 then none
      else some (chord ((3 * x1 * x1 + p256P - 3) * invMod p256P (2 * y1) % p256P) x1 y1 x1)
    else some (chord ((y2 + p256P - y1) * invMod p256P (x2 + p256P - x1) % p256P) x1 y1 x2)

/-- A multiple of a point, over the lowest `n` bits of k. -/
def pointMul : Nat → Nat → Option (Nat × Nat) → Option (Nat × Nat)
  | 0, _, _ => none
  | n + 1, k, q =>
    let r := pointMul n (k / 2) (pointAdd q q)
    if k % 2 = 1 then pointAdd q r else r

/-- A point of the curve. -/
def onCurve (x y : Nat) : Bool :=
  decide (x < p256P) && decide (y < p256P) && (y * y) % p256P == (x * x * x + (p256P - 3) * x + p256B) % p256P

/-- ECDSA: the signature (r, s) of the hash z verifies under the key (x, y). -/
def ecdsaOk (z x y r s : Nat) : Bool :=
  if r = 0 || p256N ≤ r || s = 0 || p256N ≤ s || !onCurve x y then false
  else
    let w := invMod p256N s
    match pointAdd (pointMul 256 (z * w % p256N) (some p256G)) (pointMul 256 (r * w % p256N) (some (x, y))) with
    | none => false
    | some (px, _) => px % p256N == r

end Sys2Proof.Machine
end

