-- ==== Sys2Proof/Machine/Status.lean ====
section
/-! DEFINITION. GET_STATUS and its fourteen sections (R52, R88, R124, R158, R195, R222, R339, R340, R364, R386, R407, R423,
R444, R457, R476). -/
namespace Sys2Proof.Machine

/-! ### Firmware banks (R408, R416) -/

/-- The state of a bank; `b`: bank B. -/
def bankState (s : State) (b : Bool) : BankState := if b then s.nvm.bankB else s.nvm.bankA

/-- The state with a bank's state changed. -/
def setBank (b : Bool) (x : BankState) (s : State) : State :=
  if b then { s with nvm := { s.nvm with bankB := x } } else { s with nvm := { s.nvm with bankA := x } }

/-- First page of a bank. -/
def bankPage (b : Bool) : Nat := if b then 2304 else 256

/-- Word i of a bank's image. -/
def bankWord (s : State) (b : Bool) (i : Nat) : Word := memWord s.nvm.cells (bankPage b * 1024 + 4 * i)

/-! ### Sections -/

/-- RESET_CAUSE code (R387). -/
def causeCode : ResetCause → Nat
  | .powerOn => 1
  | .resetN => 2
  | .brownOut => 3
  | .watchdog => 4
  | .soft => 5
  | .thermal => 6
  | .trunk => 7
  | .fatal => 8

/-- POWER_STATE: 0 Active, 1 Idle, 2 Doze; Active exactly while capture runs (R380). -/
def powerCode (s : State) : Nat :=
  match s.power.phase with
  | .doze => 2
  | .stow => 2
  | _ => if captureStopped s then 1 else 0

/-- CAPTURE: 0 stopped, 1 running, 2 stopping. -/
def captureCode (s : State) : Nat :=
  match s.exposure.phase with
  | .stopped => 0
  | .running => 1
  | .stopping => 2

/-- Milliseconds since the Bureau domain left reset. -/
def uptimeMs (s : State) : Nat := (s.now.real - s.bureau.upSince.real) / 16000000

/-- SYSTEM (R340). -/
def secSystem (s : State) : List Word :=
  let b := s.bureau
  [mkWord [(powerCode s, 24), (captureCode s, 20), (causeCode s.rst.cause, 12), (b2n (treeLimp s), 2),
     (b2n (alertAsserted s), 1), (b2n s.nvm.activeB, 0)],
   clampU 32 (uptimeMs s), b.cmdsExecuted, b.cmdsRefused, b.cmdsDuplicate, b.cmdsDiscarded,
   mkWord [(b.queuePeak.toNat, 16), (b.cmdFaults.toNat, 0)],
   s.events.nextSeq, s.events.acked, s.events.lost,
   mkWord [(b.verTwb.toNat, 16), (b.verTwa.toNat, 8), (b.verOwner.toNat, 0)], 0]

/-- READOUT (R52). -/
def secReadout (s : State) : List Word :=
  let r := s.readout
  [r.bondParityErr, r.blockFaults, r.rampFaultSf, r.tileDriverFaults, r.gainMisselect, r.subframesRead]

/-- EXPOSURE (R88). -/
def secExposure (s : State) : List Word :=
  let e := s.expCnt
  [e.framesStarted, e.fbStretched, e.trgDropped, e.trgDeferred, e.rtMissed, e.aeDeferred, e.paramsLate, e.freezeIgnored]

/-- ACCUMULATION (R124). -/
def secAccum (s : State) : List Word :=
  let a := s.accCnt
  [a.accOverrun, a.frontSkipped, a.vecStale, a.vecBad, a.ghostDrops, a.haloLost, a.basteSkipped, a.retractsSent, a.eccCe,
   a.memUeDrawer, a.memUePipe, a.memUeCommon, a.scrubPasses]

/-- The six counters of a context. -/
def ctxWords (c : CtxCounters) : List Word := [c.frames, c.dropped, c.crcErr, c.lateLines, c.basted, c.format]

/-- FRONT (R158). -/
def secFront (s : State) : List Word :=
  let f := s.front
  ctxWords f.cnt0 ++ ctxWords f.cnt1 ++
  [mkWord [(b2n s.cal.validDark, 7), (b2n s.cal.validShading, 6), (b2n s.cal.validDefect, 5), (b2n (guardNow s), 0)],
   f.dpcDynCorrected, f.blockFills, f.tnrRestarts, f.obHeld]

/-- BACK (R195). -/
def secBack (s : State) : List Word :=
  let b := s.back
  [b.cropMisfit, b.insetTimeouts, b.ltmStale, b.bypassDropped, b.statsSets, b.statsLost]

/-- STREAMS (R222). -/
def secStreams (s : State) : List Word :=
  (List.range 8).flatMap fun i =>
    let t := stream s i
    [t.framesSent, t.dropped, t.lastFrameBytes, t.filetOver, t.markersLost,
     mkWord [(t.bufPeak.toNat, 16), (t.decim, 8), (b2n t.enabled, 0)]]

/-- Microseconds the device has been on the limp clock since it last left the root, after the first root lock. -/
def limpNow (s : State) : Nat :=
  match s.clock.limpSince with
  | some a => if s.clock.everLocked then (s.now.real - a) / 16000 else 0
  | none => 0

/-- CLOCKS (R364). -/
def secClocks (s : State) : List Word :=
  let c := s.clock
  [c.rootLosses, c.ref0Losses, c.ref1Losses, c.pllLosses, satAdd c.limpUs (limpNow s), c.bandSearches]

/-- POWER (R386). -/
def secPower (s : State) : List Word :=
  let p := s.power
  let withheld := (List.range 8).foldl (fun a i => a + b2n (!grantedAt s i) * 2 ^ i) 0
  [mkWord [(min 65535 (accountMw s (caseNow s) (grantedAt s)), 16), (p.budget.ceiling.toNat, 0)],
   mkWord [(withheld, 8), (b2n p.hold, 3), (b2n p.warned, 2), (p.step, 0)],
   p.admitRefused, p.powerLimits, p.throttleMs, p.holds, p.dozes, p.stows]

/-- The fuse address of a two-wire port (R397). -/
def fuseAddr (s : State) : TwPort → BitVec 7
  | .a => 0x36 ^^^ s.rst.fuses.twaAddr
  | .b => 0x37 ^^^ s.rst.fuses.twbAddr

/-- RESET (R407). -/
def secReset (s : State) : List Word :=
  let r := s.rst
  let f := r.fuses
  [mkWord [(causeCode r.cause, 28), (r.loadReported.toNat, 24), (r.boot.toNat, 22), (b2n f.resetOrder, 21),
     (b2n r.legacyStretch, 20), (b2n r.fuseFault, 19), (b2n r.profileSkipped, 18), (r.lastWdtFail.toNat, 16)],
   mkWord [(b2n f.wdtStart, 26), (b2n f.resetOrder, 25), (f.autoload.toNat, 22), (f.trunkRate.toNat, 20),
     (f.twbLevel.toNat, 18), (f.twaLevel.toNat, 16), ((fuseAddr s .b).toNat, 7), ((fuseAddr s .a).toNat, 0)],
   r.stretchUs, r.wdtServices, r.wdtFailures, lo32 r.resetRt, hi32 r.resetRt,
   mkWord [(r.executed.toNat, 16), (r.refusedCmds.toNat, 0)]]

/-- The code of a bank's state. -/
def bankCode : BankState → Nat
  | .empty => 0
  | .incomplete => 1
  | .valid => 2
  | .rejected => 3

/-- The page whose wear is highest, and its units of 2^20 writes. -/
def wearMax (wear : List (Nat × Nat)) : Nat × Nat :=
  wear.foldl (fun a w => if a.1 < w.2 / 2 ^ 20 then (w.2 / 2 ^ 20, w.1) else a) (0, 0)

/-- Bits s of the digest slots that are complete. -/
def digestMask (d : List (Option Word)) : Nat :=
  (List.range 8).foldl (fun a i => a + b2n (d.getD i none).isSome * 2 ^ i) 0

/-- The highest DUMP_SEQ in a digest slot. -/
def dumpSeqLast (d : List (Option Word)) : Nat := d.foldl (fun a x => max a ((x.map (·.toNat)).getD 0)) 0

/-- NVM (R423). -/
def secNvm (s : State) : List Word :=
  let n := s.nvm
  let w := wearMax n.wear
  [mkWord [(n.lastTxn.toNat, 28), (n.trial.toNat, 26), (bankCode n.bankB, 24), (bankCode n.bankA, 22), (b2n n.activeB, 21),
     (b2n n.updateLength.isSome, 20), (b2n !n.redirects.isEmpty, 19), (b2n n.txn.isSome, 18), (s.rst.fuses.rollback.toNat, 0)],
   n.txnSeq, n.pageWrites, n.verifyRetries, mkWord [(w.1, 16), (w.2, 0)], wordOf (dumpSeqLast n.digests), n.clearedSeq,
   mkWord [(b2n n.dumpValid, 8), (digestMask n.digests, 0)]]

/-- The six words of a two-wire port. -/
def twStatus (x : TwPortState) : List Word :=
  [mkWord [(x.cfg.level.toNat, 6), (x.cfg.mode.toNat, 4), (b2n x.stuckRaised, 3), (b2n x.held, 2), (b2n x.cfg.role, 0)],
   x.matchCount, x.aborted, mkWord [(x.arbLost.toNat, 16), (x.busRecoveries.toNat, 0)],
   mkWord [(x.ibrSent.toNat, 16), (x.ibrUnclaimed.toNat, 0)], x.mbErrors]

/-- TWO_WIRE (R444). -/
def secTwoWire (s : State) : List Word := twStatus s.twa ++ twStatus s.twb

/-- TIMERS (R457). -/
def secTimers (s : State) : List Word :=
  s.timers.chans.map fun c => mkWord [(c.overruns.toNat, 16), (c.capLost.toNat, 0)]

/-- MCV (R476). -/
def secMcv (s : State) : List Word :=
  let m := s.mcv
  [mkWord [(m.a.entry, 28), (m.b.entry, 24), (b2n m.a.run, 23), (b2n m.b.run, 22), (b2n m.refSettled, 21),
     (b2n m.mainsHeld, 20), (m.tInt / 100, 0)],
   m.convA, m.convB, m.ovrConv, m.plausFails, m.discarded]

/-- The sections in order of their codes. -/
def sections : List (State → List Word) :=
  [secSystem, secReadout, secExposure, secAccum, secFront, secBack, secStreams, secClocks, secPower, secReset, secNvm,
   secTwoWire, secTimers, secMcv]

/-- The words of a section. -/
def sectionWords (s : State) (code : Nat) : Option (List Word) := (sections[code]?).map fun f => f s

/-- GET_STATUS (R339). -/
def getStatusBody (c : Cmd) (s : State) : CmdResult :=
  let w := paramAt c.words 0
  match sectionWords s (fldN w 0 8) with
  | none => cmdBad s 0
  | some ws =>
    let first := fldN w 16 16
    let count := fldN w 8 8
    if ws.length ≤ first then cmdBad s 0
    else
      let rest := ws.drop first
      cmdOk s (mkWord [(ws.length, 16), (fldN w 0 8, 0)] :: (if count = 0 then rest else rest.take count))

/-- GET_STATUS. -/
def execGetStatus (t : Instant) (s : State) : Result := runCmd t 0x0003 getStatusBody s

end Sys2Proof.Machine
end

