-- ==== Sys2Proof/Machine/Diag.lean ====
section
/-! DEFINITION. IDENTIFY, NEGOTIATE, events, the diagnostic space and INJECT_PATTERN (R337, R338, R342–R348). -/
namespace Sys2Proof.Machine

/-! ### IDENTIFY and NEGOTIATE (R337, R338) -/

/-- FW version: IDENTIFY W3. -/
def fwVersion (s : State) : Word := mkWord [(s.nvm.fwMajor.toNat, 24), (s.nvm.fwMinor.toNat, 16), (s.nvm.fwBuild.toNat, 0)]

/-- IDENTIFY. -/
def identifyBody (_c : Cmd) (s : State) : CmdResult :=
  let f := s.rst.fuses
  cmdOk s [mkWord [(0x5016, 16), (b2n f.es, 9), (b2n f.variantMl, 8), (f.stepping.toNat, 0)], lo32 f.deviceId, hi32 f.deviceId,
    fwVersion s, mkWord [(2, 8), (2, 4), (0, 0)],
    mkWord [(b2n s.nvm.activeB, 8), (b2n (s.ring.addrPhase == .confirmed), 7), (s.ring.addr.toNat, 0)]]

/-- The session version of a requester changes. -/
def setSession (r : Requester) (v : Byte) (s : State) : State :=
  match r with
  | .owner => { s with bureau := { s.bureau with verOwner := v } }
  | .node _ => s
  | .twa => { s with bureau := { s.bureau with verTwa := v } }
  | .twb => { s with bureau := { s.bureau with verTwb := v } }

/-- NEGOTIATE: HOST_MIN and HOST_MAX are 1 where they are not sent. -/
def negotiateBody (c : Cmd) (s : State) : CmdResult :=
  let w := c.words.getD 0 0x101
  let v := min (fldN w 0 8) 2
  judged c.words [0xFFFF] s <|
    if v < fldN w 8 8 || v = 0 then cmdRefuse s .versionUnsupported
    else { cmdOk (setSession c.req (BitVec.ofNat 8 v) s) [mkWord [(1, 16), (2, 8), (v, 0)]] with ver := some v }

/-- IDENTIFY. -/
def execIdentify (t : Instant) (s : State) : Result := runCmd t 0x0001 identifyBody s
/-- NEGOTIATE. -/
def execNegotiate (t : Instant) (s : State) : Result := runCmd t 0x0002 negotiateBody s

/-! ### GET_EVENTS (R344) -/

/-- The six words of a record. -/
def recordWords (r : EventRecord) : List Word :=
  [r.seq, mkWord [(r.code.toNat, 16), (r.arg0.toNat, 0)], r.arg1, r.arg2, lo32 r.stamp, hi32 r.stamp]

/-- Records logged and not acknowledged, oldest first. -/
def unacked (e : EventLog) : List EventRecord := e.log.drop (e.log.length - unackedCount e)

/-- GET_EVENTS. -/
def getEventsBody (c : Cmd) (s : State) : CmdResult :=
  let ack := paramAt c.words 0
  let w := paramAt c.words 1
  let e := s.events
  judged c.words [0xFFFFFFFF, 0x1FF] s <|
    let most := if c.via.isSome then 212 else 5
    if bitAt w 8 && decide ((e.nextSeq - 1 - e.acked).toNat < (ack - e.acked).toNat) then cmdBad s 0
    else if most < fldN w 0 8 then cmdBad s 1
    else
      let e := if bitAt w 8 then { e with acked := ack } else e
      cmdOk { s with events := e } ([e.nextSeq - 1, e.acked] ++ ((unacked e).take (fldN w 0 8)).flatMap recordWords)

/-- GET_EVENTS. -/
def execGetEvents (t : Instant) (s : State) : Result := runCmd t 0x0004 getEventsBody s

/-- Records that wait to be sent to node 0: those in the log from the next to send on. -/
def toSendRecords (e : EventLog) : List EventRecord := e.log.drop (e.log.length - (e.nextSeq - e.toSend).toNat)

/-- The EVSEQ that follows the last of the records sent. -/
def sentUpTo (rs : List EventRecord) (e : EventLog) : Word := ((rs.getLast?.map (·.seq + 1)).getD e.toSend)

/-- EVENT_SEND: up to ten records leave in one EVENT packet, while the address is confirmed, OWNER_LOST does not hold and the
Bureau is awake (R342, R384). -/
def execEventSend (t : Instant) (s : State) : Result :=
  let s := setNow t s
  let rs := (toSendRecords s.events).take 10
  if s.ring.addrPhase == .confirmed && !s.ring.ownerLost && !s.rst.asserted.contains .bureau && s.bureau.ready &&
      s.power.phase != .doze && s.power.phase != .stow && !rs.isEmpty then
    let ws := withCrc (mkWord [(2, 24), (rs.length, 16)] :: rs.flatMap recordWords)
    let s := { s with events := { s.events with toSend := sentUpTo rs s.events }
                      out := { s.out with events := s.out.events ++ [ws] } }
    .next (queuePacket 4 1 0 0 (ringTo s 0) ws s)
  else .next s

/-! ### Uncorrectable words by region (R97) -/

/-- The row of R97's table that an address lies in, from 1; 0 for the previous-tile copy, which the table does not list. -/
def ueRegion (s : State) (a : Nat) : Nat :=
  if a < commonBase then
    let o := a % 0x40000
    if o < 0x4000 then 2
    else if o < 0x9000 then 1
    else if o < 0xB800 then 0
    else if usesPreRef s.exposure.cfg && o < 0xF800 then 2
    else 3
  else match partOf (a - commonBase) with
    | .streams => 5
    | .ingress => 5
    | .thumb => 4
    | .spill => 7
    | .kernels => 8
    | .sampler => 6
    | .bureauArea => 8
    | .dump => 8
    | .freePool => 5

/-- A frame that waits in a stream buffer is marked CORRUPT: in its trailer, if it is written and has not left (R97, R206). -/
def corruptEntry (e : StreamEntry) : StreamEntry :=
  let mark (p : List Word) : List Word := if fldN (p.headD 0) 28 4 == 4 then p.set 2 (p.getD 2 0 ||| 0x4000) else p
  if e.kind != .frame then e else { e with marks := { e.marks with corrupt := true }, waiting := e.waiting.map mark }

/-- Which frame of stream i a bad word of its buffer lies in, if any, is free. -/
def corruptStream (i : Nat) (s : State) : State :=
  let (f, s) := takeFree s
  let n := (stream s i).entries.length
  updStream s i fun t => { t with entries := t.entries.modify (f.toNat % (n + 1)) corruptEntry }

/-- A bad word of an ingress frame or of a stream buffer marks the frame it lies in CORRUPT; which stream's buffer a word of
the free pool belongs to is free (R97; log entry 164). -/
def corruptAt (a : Nat) (s : State) : State :=
  let off := a - commonBase
  match partOf off with
  | .ingress =>
    let o := off - partOffset .ingress
    spoilIngress (o / (128 * mib)) (o % (128 * mib) / 8) s
  | .streams => corruptStream (off / (32 * mib)) s
  | .freePool =>
    let (f, s) := takeFree s
    corruptStream (f.toNat % 8) s
  | _ => s

/-- Count an uncorrectable word found at an address for its region (R97). -/
def countUe (a : Nat) (s : State) : State :=
  let r := ueRegion s a
  let h := holderOf a
  if r = 1 || r = 2 then countDrawerUe r h 1 s
  else if r = 3 then countPipeUe h 1 s
  else if r = 5 then corruptAt a (countCommonUe r h 1 s)
  else if 4 ≤ r && r ≤ 7 then countCommonUe r h 1 s
  else s

/-- Count an uncorrectable word by its number; one of a descriptor file counts with the version it describes, or with the
frame under accumulation (log entry 164). -/
def countUeWord (w : Nat) (s : State) : State :=
  if w < descWord0 then countUe (8 * w) s
  else
    let e := 2 * (w - descWord0)
    let h := chestOf (e / 22)
    if e % 22 = 20 then countDrawerUe 2 h 1 s else countPipeUe h 1 s

/-! ### The diagnostic space (R346, R347) -/

/-- The timer channel whose count stands at an offset of the REGISTER space, where the spec documents the counts alone (R456; log
entry 77). -/
def countAt (off : Nat) : Option (Fin 8) := (List.finRange 8).find? fun c => Config.timerCountOffset c == off

/-- Size of a space in bytes; REGISTER has no size of its own. -/
def spaceSize (space : Nat) : Nat :=
  if space = 0 then 12288 * 0x40000
  else if space = 1 then 0x40000000
  else if space = 2 then 22 * 12288 * 4
  else if space = 3 then 8 * 0x100000
  else 2 ^ 32

/-- A range that a space holds: in REGISTER, documented words only. -/
def inSpace (space off n : Nat) : Bool :=
  decide (off % 4 = 0) && decide (off + 4 * n ≤ spaceSize space) &&
  (space != 4 || (List.range n).all fun i => (countAt (off + 4 * i)).isSome)

/-- Words of the REGISTER space: the counts of timer channels. -/
def registerWords (s : State) (off n : Nat) : List Word :=
  (List.range n).map fun i => ((countAt (off + 4 * i)).map fun c => (s.timers.chans.getD c.val {}).count).getD 0

/-- The first word of the pillow memories in the numbering of words that can hold an error. -/
def pillowWord0 : Nat := 0x20100000

/-- Words of one pillow memory and the next. -/
def pillowWords (s : State) (off n : Nat) : List Word :=
  (List.range n).map fun i => memWord (s.engines.pillows.getD ((off + 4 * i) / 0x100000) []) ((off + 4 * i) % 0x100000)

/-- Read words lo to hi for PEEK: what they hold is corrected or counted, and the reply tells of an uncorrectable word
(R347). -/
def peekRead (ecc : List EccHit) (lo hi : Nat) (data : State → List Word) (s : State) : CmdResult :=
  let s := correctWords lo hi (markEcc (ecc.filter fun h => decide (lo ≤ h.word) && decide (h.word ≤ hi)) s)
  let bad := badBetween ecc lo hi s
  let r := cmdOk (bad.foldl (fun s w => countUeWord w s) s) (data s)
  if bad.isEmpty then r else { r with detail := 1 }

/-- A pillow word that holds an uncorrectable error: which of its bits are wrong is free. -/
def turnPillow (w : Nat) (s : State) : State :=
  let (f, s) := takeFree s
  let a := 8 * (w - pillowWord0)
  let turn (m : List (Nat × Byte)) : List (Nat × Byte) :=
    memSetNat m (a % 0x100000) 8 (memNat m (a % 0x100000) 8 ^^^ errorBits f)
  { s with engines := { s.engines with pillows := s.engines.pillows.modify (a / 0x100000) turn } }

/-- PEEK of pillow words: they are read as they stand, and the reply tells of an uncorrectable one (R347). -/
def peekPillow (ecc : List EccHit) (off n : Nat) (s : State) : CmdResult :=
  let lo := pillowWord0 + off / 8
  let hi := pillowWord0 + (off + 4 * n - 1) / 8
  let bad := (((ecc.filter (·.double)).map (·.word)).filter fun w => decide (lo ≤ w) && decide (w ≤ hi)).eraseDups
  let s := bad.foldl (fun s w => turnPillow w s) s
  let r := cmdOk s (pillowWords s off n)
  if bad.isEmpty then r else { r with detail := 1 }

/-- PEEK; `ecc`: the errors that the words read hold. -/
def peekBody (ecc : List EccHit) (c : Cmd) (s : State) : CmdResult :=
  let space := fldN (paramAt c.words 0) 0 4
  let off := (paramAt c.words 1).toNat
  let n := fldN (c.words.getD 2 1) 0 16
  judged c.words [0xF, 0xFFFFFFFF, 0xFFFF] s <|
    if 4 < space then cmdBad s 0
    else if off % 4 ≠ 0 || spaceSize space ≤ off then cmdBad s 1
    else if n = 0 || pathWords c.via < n then cmdBad s 2
    else if !inSpace space off n then cmdBad s 1
    else if space ≤ 1 then
      let a := if space = 0 then off else commonBase + off
      peekRead ecc (a / 8) ((a + 4 * n - 1) / 8) (fun s => memWords s.dram a n) s
    else if space = 2 then
      peekRead ecc (descWord0 + off / 8) (descWord0 + (off / 4 + n - 1) / 2) (fun s => smGetMany 0 s.desc (off / 4) n) s
    else if space = 3 then peekPillow ecc off n s
    else cmdOk s (registerWords s off n)

/-- A drawer word that only the chest writes: an accumulator word, or one of the pre-reference plane while it is in use
(R91, R92). -/
def chestWord (s : State) (a : Nat) : Bool :=
  let o := a % 0x40000
  decide (o < 0x4000) || (usesPreRef s.exposure.cfg && decide (0xB800 ≤ o) && decide (o < 0xF800))

/-- Bits of the 32-bit word at an offset of a plane of sample words that are reserved: [19:18] of each (R34, R90). -/
def sampleReserved (off : Nat) : Nat :=
  (List.range 32).foldl (fun a i => if 18 ≤ (off % 40 * 8 + i) % 20 then a + 2 ^ i else a) 0

/-- Bits of a drawer word that POKE leaves as they are: RO words, and reserved bits of sample words (R8, R9, R346). -/
def drawerKept (s : State) (a : Nat) : Nat :=
  let o := a % 0x40000
  if chestWord s a then 0xFFFFFFFF
  else if 0x4000 ≤ o && o < 0x9000 then sampleReserved ((o - 0x4000) % 0x2800)
  else if o < 0xE000 then 0
  else match histSlot s ((o - 0xE000) / 0x2800) with
    | some h => if isSingle h.frame.cfg then sampleReserved ((o - 0xE000) % 0x2800) else 0
    | none => 0

/-- Bits of a common-memory word that POKE leaves as they are: the RO header and tile records of a statistics set, and its
reserved words (R8, R9, R186, R187, R189, R190). -/
def commonKept (s : State) (off : Nat) : Nat :=
  let o := off - partOffset .sampler
  let r := o % 0x32000
  if partOf off != .sampler || (s.back.sets.getD (o / 0x32000) none).isNone then 0
  else if r < 0x30040 || (0x30440 ≤ r && r < 0x31040 && 28 ≤ (r - 0x30440) % 32) || (0x31068 ≤ r && r < 0x31080) then 0xFFFFFFFF
  else 0

/-- Write words, the kept bits of each left as they are. -/
def pokeWords (kept : State → Nat → Nat) : Nat → List Word → State → State
  | _, [], s => s
  | a, w :: ws, s =>
    let k := wordOf (kept s a)
    pokeWords kept (a + 4) ws
      (if k == 0xFFFFFFFF then s else dramWriteWords s a [(memWord s.dram a &&& k) ||| (w &&& ~~~k)])

/-- A common-memory range touches a region that POKE may not write. -/
def guarded (off n : Nat) : Bool :=
  (List.range n).any fun i =>
    let p := partOf (off + 4 * i)
    p == .kernels || p == .bureauArea || p == .dump

/-- A pillow range lies in the region of a user kernel that does not run. -/
def inUserRegion (s : State) (off n : Nat) : Bool :=
  let p := off / 0x100000
  let o := off % 0x100000
  (List.range 16).any fun i =>
    let k := kernel s i
    k.phase != .running && (kernelPillows k).contains p &&
      decide (k.region ≤ o) && decide (o + 4 * n ≤ k.region + imgPillowKib k * 1024)

/-- POKE; the counts, the words of REGISTER, are read-only. -/
def pokeBody (c : Cmd) (s : State) : CmdResult :=
  let space := fldN (paramAt c.words 0) 0 4
  let off := (paramAt c.words 1).toNat
  let data := c.words.drop 2
  judged c.words [0xF, 0xFFFFFFFF] s <|
    if 4 < space then cmdBad s 0
    else if !inSpace space off data.length then cmdBad s 1
    else if space = 0 then
      (if captureStopped s then cmdOk (pokeWords drawerKept off data s) else cmdRefuse s .wrongState)
    else if space = 1 then
      (if guarded off data.length then cmdRefuse s .notPermitted else cmdOk (pokeWords (fun s a => commonKept s (a - commonBase)) (commonBase + off) data s))
    else if space = 2 then cmdRefuse s .notPermitted
    else if space = 4 then cmdOk s
    else if inUserRegion s off data.length then
      let m (x : List (Nat × Byte)) : List (Nat × Byte) := memSetWords x (off % 0x100000) data
      cmdOk { s with engines := { s.engines with pillows := s.engines.pillows.modify (off / 0x100000) m } }
    else cmdRefuse s .notPermitted

/-- PEEK. -/
def execPeek (m : MemRead) (s : State) : Result := runCmd m.t 0x0F01 (peekBody m.ecc) s
/-- POKE. -/
def execPoke (t : Instant) (s : State) : Result := runCmd t 0x0F02 pokeBody s

/-! ### INJECT_PATTERN (R348, R398) -/

/-- INJECT_PATTERN; with the BRINGUP strap it is refused until the next reset. -/
def injectPatternBody (c : Cmd) (s : State) : CmdResult :=
  let p := s.bureau.pattern
  let ws := overlay c.words [mkWord [(p.pattern.toNat, 1), (b2n p.enable, 0)], mkWord [(p.level.toNat, 0)]]
  let new : PatternCfg := { pattern := fld (paramAt ws 0) 1 3, enable := bitAt (paramAt ws 0) 0, level := fld (paramAt ws 1) 0 20 }
  judged c.words [0xF, 0xFFFFF] s <|
    if 4 < new.pattern.toNat then cmdBad s 0
    else if new.level.toNat < 256 || 0xFFFFE < new.level.toNat then cmdBad s 1
    else if s.rst.boot == 2 then cmdRefuse s .wrongState
    else cmdOk { s with bureau := { s.bureau with pattern := new } }

/-- INJECT_PATTERN. -/
def execInjectPattern (t : Instant) (s : State) : Result := runCmd t 0x0F04 injectPatternBody s

end Sys2Proof.Machine
end

