-- ==== Sys2Proof/Machine/Raw20.lean ====
section
/-! DEFINITION. RAW20 channels: reading frames of the history ring into their streams, with the descriptor sidecar; the
arrival of frames at streams and their trailers (R116, R180, R203, R208, R209, R216). -/
namespace Sys2Proof.Machine

/-! ### Beginning a frame (R116, R176, R180) -/

/-- The slot that holds a frame of the frozen set. -/
def frozenSlot (s : State) (id : FrameId) : Option (Nat × HistFrame) :=
  (heldSlots s).find? fun x => x.2.frozen && x.2.frame.id == id

/-- The frame's rectangle contains the channel's crop (R175). -/
def rawFits (c : StreamCfg) (f : FrameRec) (i : Nat) : Bool :=
  decide ((f.pipe.cropX0.getD i 0).toNat + c.cropW.toNat ≤ localWidth f.cfg) &&
  decide ((f.pipe.cropY0.getD i 0).toNat + c.cropH.toNat ≤ localHeight f.cfg)

/-- A frame that does not contain the crop leaves as DROPPED (R175). -/
def rawMisfit (i : Nat) (f : FrameRec) (hist : Bool) (s : State) : State :=
  let s := { s with back := { s.back with cropMisfit := satInc s.back.cropMisfit } }
  let s := putDropped i (ownInfo s i f {} hist) 4 s
  if (channel s i).misfitRaised then s
  else raise 0x0206 i f.id.toNat 0 (updChannel s i fun c => { c with misfitRaised := true })

/-- Channel i reads the frame in slot k, which stays pinned until it ends (R21). -/
def readRaw (i k : Nat) (h : HistFrame) (hist : Bool) (s : State) : State :=
  if !rawFits (streamCfg s i) h.frame i then rawMisfit i h.frame hist s
  else
    let r : RawRun := {
      slot := k, id := h.frame.id, hist := hist, cropY := (h.frame.pipe.cropY0.getD i 0).toNat
      cropX := (h.frame.pipe.cropX0.getD i 0).toNat }
    updChannel (updHist s k fun h => { h with rawReaders := insNat h.rawReaders i }) i fun c => { c with raw := some r }

/-- Channel i passes over frames it does not take, and begins the first it takes; `fuel` is the number of slots. -/
def takeRaw (i : Nat) : Nat → State → State
  | 0, s => s
  | n + 1, s =>
    match nextRaw s i with
    | none => s
    | some (k, h) =>
      let (take, s) := decideTake i h.frame.id s
      let s := updChannel s i fun c => { c with rawSeen := h.order }
      if take then readRaw i k h false s else takeRaw i n (passLost i 20 s)

/-- A RAW20 channel begins its next frame: one queued by HISTORY_READ, else the next released one it takes. -/
def beginRaw (i : Nat) (s : State) : State :=
  if !(stream s i).enabled || !isRaw20 (streamCfg s i) || (channel s i).raw.isSome || !pipeRuns s then s
  else match (channel s i).histQueue with
    | id :: rest =>
      let s := updChannel s i fun c => { c with histQueue := rest }
      match frozenSlot s id with
      | some (k, h) => readRaw i k h true s
      | none => s
    | [] => takeRaw i 20 (passLost i 20 s)

/-- A RAW20 channel begins reading a released frame. -/
def execRaw20BeginFrame (t : Instant) (strm : Fin 8) (s : State) : Result := .next (beginRaw strm.val (setNow t s))

/-! ### Arrival at the stream -/

/-- The reading of a frame ends. -/
def endRaw (i : Nat) (s : State) : State :=
  match (channel s i).raw with
  | none => s
  | some r =>
    passLost i 20 (updChannel (updHist s r.slot fun h => { h with rawReaders := remNat h.rawReaders i }) i
      fun c => { c with raw := none })

/-- The frame a RAW20 channel has begun arrives at its stream's buffer (R216, R217). -/
def offerRaw (i : Nat) (s : State) : State :=
  match (channel s i).raw with
  | none => s
  | some r =>
    if r.offered then s
    else match histSlot s r.slot with
      | none => endRaw i s
      | some h =>
        let (ok, s) := arriveFrame i (ownInfo s i h.frame {} r.hist) s
        if !ok then endRaw i s
        else
          let f (r : RawRun) : RawRun := { r with offered := true }
          passLost i 20 (updChannel s i fun c => { c with raw := c.raw.map f })

/-- A frame arrives at a stream buffer. -/
def execStreamFrameArrival (t : Instant) (strm : Fin 9) (s : State) : Result :=
  let s := setNow t s
  .next (if 8 ≤ strm.val || !pipeRuns s then s else offerRaw strm.val (offerRun strm.val s))

/-! ### Sidecar and lines (R207–R209) -/

/-- The black record of active tile t of a frame, at its rung (R209). -/
def blackRecord (h : HistFrame) (t rung : Nat) : BitVec 16 :=
  let b := h.black
  let side := tileSide h.frame.cfg
  let sum (l : List (Nat × Int)) (k : Nat) : Int := sumInt (smGetMany b.ob.all l (side * k) side)
  let ob : Int := if !b.obEn then 0
    else (2 * (sum b.ob.cols (tileX t) + sum b.ob.rows (tileY t)) + side) / (2 * side) - b.ob.all
  let table := b.dark.map List.toArray
  let p := h.frame.params
  let dark : Int := if b.guardOrder || !b.darkEn then 0
    else darkOf table t (b.temps.map fun x => tileTemp x (tileX t) (tileY t)) (rungDur p rung) -
      darkOf table 12288 (b.temps.map obTemp) p.d0.toNat
  clampS 16 (ob + dark)

/-- The SIDECAR packet of a tile row of the crop (R208). -/
def sidecarPacket (s : State) (h : HistFrame) (k : Nat) (id : FrameId) (band ty tx n : Nat) : List Word :=
  let entry (j : Nat) : List Word :=
    let t := 128 * ty + tx + j
    let d := if frameTile h.frame t then smGet 0 s.desc (22 * t + k) else 0
    let v := if frameTile h.frame t then smGet 0 h.voids t else 0
    [d, lo32 v, hi32 v, (blackRecord h t (descRung d)).zeroExtend 32]
  packet 3 (id :: mkWord [(n, 0), (band, 16)] :: (List.range n).flatMap entry)

/-- The sequences of line y of a frame's crop (R207). -/
def rawSeqs (ml : Bool) (r : RawVersion) (w x0 y : Nat) : List (List Nat) :=
  let row := (List.range w).map fun x => r.m (x0 + x) y
  if ml then [row]
  else
    let pick (k : Nat) : List Nat := (row.zipIdx.filter fun p => p.2 % 2 == k).map (·.1)
    [pick 0, pick 1]

/-- Uncorrectable words that reading tiles of a slot meets, each with its tile (R97). -/
def slotBad (s : State) (h : HistFrame) (k : Nat) (tiles : List Nat) : List (Nat × Nat) :=
  tiles.flatMap fun t =>
    if frameTile h.frame t then
      (s.dramBad.filter fun w => w == descWord0 + (22 * t + k) / 2 || planeWord (histBase t k) (tileSide h.frame.cfg) w).map
        fun w => (w, t)
    else []

/-- The next band of the frame a RAW20 channel reads enters its stream's buffer. -/
def rawBand (i : Nat) (s : State) : State :=
  match (channel s i).raw with
  | none => s
  | some r =>
    match histSlot s r.slot with
    | none => s
    | some h =>
      let c := streamCfg s i
      let side := tileSide h.frame.cfg
      if !r.offered || c.outH.toNat ≤ r.linesOut then s
      else
        let ty := h.frame.cfg.readout.ty0.toNat + (r.cropY + r.linesOut) / side
        let tx := h.frame.cfg.readout.tx0.toNat + r.cropX / side
        let n := c.outW.toNat / side
        let s := (rangeFrom (128 * ty + tx) n).foldl (fun s t =>
          correctEntry (22 * t + r.slot) (correctRead (histBase t r.slot) 10240 s)) s
        let bad := slotBad s h r.slot (rangeFrom (128 * ty + tx) n)
        let s := bad.foldl (fun s w => countPipeUe (chestOf w.2) 1 s) s
        let s := addPacket i r.id false (sidecarPacket s h r.slot r.id (r.linesOut / side) ty tx n) s
        let img := drawerVersion s h.frame r.slot (fun t => histBase t r.slot) h.voids
        let ml := s.rst.fuses.variantMl
        let hi := min c.outH.toNat (r.linesOut + side)
        let s := (rangeFrom r.linesOut (hi - r.linesOut)).foldl (fun s y =>
          putLine i r.id false ml y (rawSeqs ml img c.outW.toNat r.cropX (r.cropY + y)) s) s
        let f (r : RawRun) : RawRun := { r with
          linesOut := hi
          marks := { r.marks with corrupt := r.marks.corrupt || !bad.isEmpty } }
        updChannel s i fun c => { c with raw := c.raw.map f }

/-- All bands of the frame that remain. -/
def rawBands (i : Nat) : Nat → State → State
  | 0, s => s
  | n + 1, s =>
    match (channel s i).raw with
    | some r => if r.offered && decide (r.linesOut < (streamCfg s i).outH.toNat) then rawBands i n (rawBand i s) else s
    | none => s

/-- A RAW20 frame read to its end gets its trailer. -/
def closeRaw (i : Nat) (s : State) : State :=
  match (channel s i).raw with
  | some r =>
    if r.offered && decide ((streamCfg s i).outH.toNat ≤ r.linesOut) then endRaw i (closeEntry i r.id false r.marks s) else s
  | none => s

/-- A stream writes a frame's trailer and shrinks its reservation (R216). -/
def execStreamTrailerWrite (t : Instant) (strm : Fin 9) (s : State) : Result :=
  let s := setNow t s
  .next (if 8 ≤ strm.val || !pipeRuns s then s else closeRaw strm.val (rawBands strm.val 192 (writeTrailer strm.val s)))

/-- What stream i still has to write before its head runs out of packets. -/
def refill (i : Nat) (s : State) : State :=
  match (stream s i).entries with
  | e :: _ => if e.waiting.isEmpty && !e.closed then closeRaw i (rawBand i (writeTrailer i s)) else s
  | [] => s

end Sys2Proof.Machine
end

