-- ==== Sys2Proof/Machine/PipeCmds.lean ====
section
/-! DEFINITION. PIPE_CONFIG, SET_PIPE_PARAMS, STREAM_CONFIG, STREAM_ENABLE, STREAM_DISABLE and SET_STREAM_PARAMS
(R151, R152, R170–R175, R196–R200). -/
namespace Sys2Proof.Machine

/-! ### PIPE_CONFIG (R151, R170, R245) -/

/-- The words of PIPE_CONFIG in force. -/
def pipeWords (p : PipeCfg) : List Word :=
  [mkWord [(b2n p.guardForce, 11), (p.nrMode.toNat, 8), (b2n p.shadeEn, 7), (b2n p.dpcDynEn, 6), (b2n p.dpcStaticEn, 5),
    (b2n p.blockFillEn, 4), (b2n p.darkEn, 3), (b2n p.obEn, 2)],
   mkWord [(b2n p.ccmEn, 1), (b2n p.ltmEn, 0)]]

/-- The configuration that parameter words ask for. -/
def pipeOf (ws : List Word) : PipeCfg :=
  let w := paramAt ws 0
  { guardForce := bitAt w 11, nrMode := fld w 8 3, shadeEn := bitAt w 7, dpcDynEn := bitAt w 6, dpcStaticEn := bitAt w 5
    blockFillEn := bitAt w 4, darkEn := bitAt w 3, obEn := bitAt w 2
    ccmEn := bitAt (paramAt ws 1) 1, ltmEn := bitAt (paramAt ws 1) 0 }

/-- A user kernel loaded for noise reduction (R151). -/
def nrLoaded (s : State) : Option Nat :=
  (List.range 16).find? fun k => (kernel s k).phase != .empty && imgSlot (kernel s k) == 1

/-- PIPE_CONFIG; thermal hold refuses NR_MODE USER (R376). -/
def pipeConfigBody (c : Cmd) (s : State) : CmdResult :=
  let p := pipeOf (overlay c.words (pipeWords s.front.cfg))
  judged c.words [0xFFC, 3] s <|
    if 4 < p.nrMode.toNat || (p.nrMode == 4 && (nrLoaded s).isNone) then cmdBad s 0
    else if !pipelineStopped s || (p.nrMode == 4 && s.power.hold) then cmdRefuse s .wrongState
    else if pillowConflict s s.exposure.cfg p then cmdRefuse s .busy
    else
      let refused := if p.nrMode == 4 then
          admission s { caseNow s with pipe := p, starting := (nrHolder s).or (nrLoaded s) }
        else none
      match refused with
      | some n => cmdBudget s n
      | none => cmdOk (arbitrate { s with front := { s.front with cfg := p } })

/-! ### SET_PIPE_PARAMS (R152, R171, R173) -/

/-- The words of SET_PIPE_PARAMS in force. -/
def pipeParamWords (p : PipeParams) : List Word :=
  [0, 0, mkWord [(p.dpcThrRel.toNat, 16), (p.dpcThrAbs.toNat, 0)],
   mkWord [(p.nrTemporal.toNat, 24), (p.nrSpatial.toNat, 16), (p.medThr.toNat, 0)], mkWord [(p.blkTrim.toNat, 0)],
   p.wbR.zeroExtend 32, p.wbG.zeroExtend 32, p.wbB.zeroExtend 32] ++
  (List.range 9).map (fun i => (p.matrix.getD i 0).zeroExtend 32) ++ [p.ltmStrength.zeroExtend 32] ++
  (List.range 8).map fun i => mkWord [((p.cropY0.getD i 0).toNat, 16), ((p.cropX0.getD i 0).toNat, 0)]

/-- The values that parameter words write: the groups that VALID selects. -/
def pipeUpdOf (ws : List Word) : PipeUpd :=
  let w (i : Nat) : Word := paramAt ws i
  let v (b : Nat) : Bool := bitAt (w 0) b
  { dpc := if v 0 then some (fld (w 2) 16 16, fld (w 2) 0 16) else none
    nr := if v 1 then some (fld (w 3) 24 8, fld (w 3) 16 8) else none
    med := if v 2 then some (fld (w 3) 0 16) else none
    blkTrim := if v 3 then some (fld (w 4) 0 16) else none
    wb := if v 4 then some (fld (w 5) 0 20, fld (w 6) 0 20, fld (w 7) 0 20) else none
    matrix := if v 5 then some ((List.range 9).map fun i => fld (w (8 + i)) 0 20) else none
    ltm := if v 6 then some (fld (w 17) 0 9) else none
    crops := (List.range 8).filterMap fun i =>
      if v (7 + i) then some (i, fld (w (18 + i)) 16 14, fld (w (18 + i)) 0 14) else none }

/-- Size of the frame in force for a context; none for OFF (R171). -/
def frameInForce (s : State) (ctx : Nat) : Option (Nat × Nat) :=
  let x := inputCtx s ctx
  if x.kind == 0 then none
  else if x.kind == 1 then some (localWidth s.exposure.cfg, localHeight s.exposure.cfg)
  else some (x.width.toNat, x.height.toNat)

/-- A crop origin keeps the alignment rules of R174 for its channel. -/
def originAligned (s : State) (c : StreamCfg) (y x : Nat) : Bool :=
  let side := tileSide s.exposure.cfg
  (s.rst.fuses.variantMl || (x % 2 == 0 && y % 2 == 0)) && (!isRaw20 c || (x % side == 0 && y % side == 0))

/-- A crop origin that the command writes is refused (R171). -/
def originBad (s : State) (o : Nat × BitVec 14 × BitVec 14) : Bool :=
  let c := streamCfg s o.1
  let y := o.2.1.toNat
  let x := o.2.2.toNat
  !originAligned s c y x ||
  (match frameInForce s (b2n c.source) with
    | none => false
    | some (w, h) => w < x + c.cropW.toNat || h < y + c.cropH.toNat)

/-- The first word of SET_PIPE_PARAMS out of range. -/
def pipeParamsBad (s : State) (ws : List Word) (u : PipeUpd) : Option Nat :=
  let gainBad (i : Nat) : Bool := let g := fldN (paramAt ws i) 0 20; g < 0x4000 || 0x7FFFF < g
  match if u.wb.isSome then [5, 6, 7].find? gainBad else none with
  | some i => some i
  | none =>
    if u.ltm.any fun v => 256 < v.toNat then some 17
    else (u.crops.find? (originBad s)).map fun o => 18 + o.1

/-- Defined bits of the words of SET_PIPE_PARAMS. -/
def pipeParamMasks : List Nat :=
  [0x37FFF, 0xFFFFFFFF, 0xFFFFFFFF, 0xFFFFFFFF, 0xFFFF] ++ List.replicate 12 0xFFFFF ++ [0x1FF] ++ List.replicate 8 0x3FFF3FFF

/-- SET_PIPE_PARAMS. While capture is stopped an untargeted set is in force at once. -/
def setPipeParamsBody (c : Cmd) (s : State) : CmdResult :=
  let ws := overlay c.words (pipeParamWords s.front.params)
  let w0 := paramAt ws 0
  let u := pipeUpdOf ws
  let target := if bitAt w0 16 then some (paramAt ws 1) else none
  judged c.words pipeParamMasks s <|
    match pipeParamsBad s ws u with
    | some i => cmdBad s i
    | none =>
      if captureStopped s && target.isNone then
        cmdOk { s with front := { s.front with params := applyPipeUpd s.front.params u } } [nextFrame s]
      else
        match submitSet applyPipeUpd (fun _ => true) s.front.params s.front.pendingSets s c (bitAt w0 17) target u with
        | .refused .badParam => cmdBad s 1
        | .refused st => cmdRefuse s st
        | .accepted x late shown =>
          { state := { s with front := { s.front with pendingSets := s.front.pendingSets ++ [x] } }
            status := if late then .late else .ok
            results := [shown] }

/-! ### STREAM_CONFIG (R172–R174, R196, R197) -/

/-- The words of STREAM_CONFIG in force for stream i. -/
def streamWords (s : State) (i : Nat) : List Word :=
  let c := streamCfg s i
  let p := s.front.params
  [mkWord [(c.cropH.toNat, 16), (c.cropW.toNat, 0)], mkWord [(c.outH.toNat, 16), (c.outW.toNat, 0)],
   mkWord [(c.every.toNat, 24), (b2n c.record, 20), (b2n c.basteEn, 19), (b2n c.insetEn, 18), (c.insetSrc.toNat, 15),
     (c.format.toNat, 8), (c.depth.toNat, 6), (c.tap.toNat, 4), (b2n c.source, 0)],
   mkWord [((p.cropY0.getD i 0).toNat, 16), ((p.cropX0.getD i 0).toNat, 0)],
   mkWord [(c.insetY.toNat, 16), (c.insetX.toNat, 0)], mkWord [(c.insetTimeout.toNat, 0)],
   mkWord [(c.dropPolicy.toNat, 24), (c.filetEmax.toNat, 16), (c.filetE.toNat, 8), (c.filet.toNat, 0)],
   mkWord [(c.lineBudget.toNat, 0)], mkWord [(c.bufMib.toNat, 0)]]

/-- The configuration that parameter words ask for. -/
def streamOf (ws : List Word) : StreamCfg :=
  let w (i : Nat) : Word := paramAt ws i
  { cropH := fld (w 0) 16 14, cropW := fld (w 0) 0 14, outH := fld (w 1) 16 14, outW := fld (w 1) 0 14
    every := fld (w 2) 24 8, record := bitAt (w 2) 20, basteEn := bitAt (w 2) 19, insetEn := bitAt (w 2) 18
    insetSrc := fld (w 2) 15 3, format := fld (w 2) 8 4, depth := fld (w 2) 6 2, tap := fld (w 2) 4 2
    source := bitAt (w 2) 0, insetY := fld (w 4) 16 14, insetX := fld (w 4) 0 14, insetTimeout := fld (w 5) 0 8
    dropPolicy := fld (w 6) 24 2, filetEmax := fld (w 6) 16 6, filetE := fld (w 6) 8 6, filet := fld (w 6) 0 2
    lineBudget := fld (w 7) 0 16, bufMib := fld (w 8) 0 8 }

/-- Defined bits of the words of STREAM_CONFIG. -/
def streamMasks : List Nat :=
  [0x3FFF3FFF, 0x3FFF3FFF, 0xFF1F8FF1, 0x3FFF3FFF, 0x3FFF3FFF, 0xFF, 0x033F3F03, 0xFFFF, 0xFF]

/-- One axis of a scaling ratio is refused (R174): crop / out outside 1 to 16, or not a multiple of 2^p. -/
def ratioBad (crop out : Nat) : Bool :=
  out = 0 || crop < out || 16 * out < crop || crop % 2 ^ boxLog crop out != 0

/-- An inset is refused (R174). -/
def insetBad (s : State) (i : Nat) (c : StreamCfg) : Bool :=
  let n := c.insetSrc.toNat
  let d := streamCfg s n
  let odd := c.format == 3 || c.format == 4
  n = i || d.source == c.source || isRaw20 d || d.insetEn ||
  c.outW.toNat < c.insetX.toNat + d.outW.toNat || c.outH.toNat < c.insetY.toNat + d.outH.toNat ||
  (odd && [c.insetX, c.insetY, d.outW, d.outH].any fun v => v.toNat % 2 = 1)

/-- RAW20 in a form that R174 refuses. -/
def raw20Bad (s : State) (c : StreamCfg) (y x : Nat) : Bool :=
  let side := tileSide s.exposure.cfg
  (inputCtx s (b2n c.source)).kind != 1 || c.outW != c.cropW || c.outH != c.cropH ||
  [y, x, c.cropW.toNat, c.cropH.toNat].any (fun v => v % side != 0) || c.insetEn || c.basteEn

/-- The coding values of a stream break R197. -/
def codingBad (c : StreamCfg) : Bool :=
  (c.filet == 2 && decide (c.filetEmax.toNat < c.filetE.toNat)) ||
  (isRaw20 c && (c.filet == 2 || (c.filet == 1 && c.filetE != 0)))

/-- The first word of STREAM_CONFIG that R172, R174, R196 or R197 refuses. -/
def streamBad (s : State) (i : Nat) (c : StreamCfg) (y x : Nat) : Option Nat :=
  let cl := !s.rst.fuses.variantMl
  if cl && (c.cropW.toNat % 2 = 1 || c.cropH.toNat % 2 = 1) then some 0
  else if c.outW.toNat < 16 || c.outH.toNat < 16 || ratioBad c.cropW.toNat c.outW.toNat || ratioBad c.cropH.toNat c.outH.toNat
    then some 1
  else if (c.format == 3 || c.format == 4) && c.outW.toNat % 2 = 1 then some 1
  else if c.format == 4 && c.outH.toNat % 2 = 1 then some 1
  else if c.every == 0 || 5 < c.format.toNat || c.depth == 3 || 1 < c.tap.toNat then some 2
  else if (c.format == 0 || c.format == 1) && c.depth != 2 then some 2
  else if isRaw20 c && raw20Bad s c y x then some 2
  else if c.insetEn && insetBad s i c then some 2
  else if cl && (x % 2 = 1 || y % 2 = 1) then some 3
  else if c.insetTimeout == 0 then some 5
  else if c.dropPolicy == 3 || c.filet == 3 || codingBad c then some 6
  else if c.lineBudget.toNat < 64 then some 7
  else if c.bufMib.toNat < 4 || 172 < c.bufMib.toNat then some 8
  else if !poolCovers (s.back.cfgs.set i c) then some 8
  else if frameSpace c < sMax s.rst.fuses.variantMl s.exposure.cfg.readout.bin c then some 8
  else none

/-- Pending crop origins of a channel are discarded (R173). -/
def dropCrops (i : Nat) (x : PendingSet PipeUpd) : PendingSet PipeUpd :=
  let u : PipeUpd := { x.upd with crops := x.upd.crops.filter fun c => c.1 != i }
  { x with upd := u }

/-- STREAM_CONFIG of stream SEL. -/
def streamConfigBody (c : Cmd) (s : State) : CmdResult :=
  let i := c.sel
  let ws := overlay c.words (streamWords s i)
  let n := streamOf ws
  let y := fld (paramAt ws 3) 16 14
  let x := fld (paramAt ws 3) 0 14
  judged c.words streamMasks s <|
    match streamBad s i n y.toNat x.toNat with
    | some k => cmdBad s k
    | none =>
      if (stream s i).enabled || (stream s i).stopping then cmdRefuse s .wrongState
      else
        let s := updStream (updStreamCfg s i fun _ => n) i fun t => { t with live := none }
        let p : PipeParams := { s.front.params with
          cropY0 := s.front.params.cropY0.set i y
          cropX0 := s.front.params.cropX0.set i x }
        cmdOk (arbitrate { s with front := { s.front with
          params := p, pendingSets := s.front.pendingSets.map (dropCrops i) } })

/-! ### STREAM_ENABLE and STREAM_DISABLE (R199, R200) -/

/-- The streams a mask names. -/
def namedStreams (w : Word) : List Nat := (List.range 8).filter fun i => bitAt w i

/-- A stream needs a feature the ring lacks: its bit (R199, R298). -/
def featureLack (s : State) (i : Nat) : Option Nat :=
  let c := streamCfg s i
  if c.filet != 0 && !hasFeature s 1 then some 1
  else if c.basteEn && !hasFeature s 2 then some 2
  else none

/-- STREAM_ENABLE. -/
def streamEnableBody (c : Cmd) (s : State) : CmdResult :=
  let named := namedStreams (paramAt c.words 0)
  judged c.words [0xFF] s <|
    if named.any fun i => (assignOf s i).isNone then cmdRefuse s .wrongState
    else if named.any fun i => (featureLack s i).isSome then cmdRefuse s .notPermitted
    else if named.any fun i => (streamCfg s i).basteEn && !(((assignOf s i).map (·.basted)).getD false) then
      cmdRefuse s .bandwidthRefused
    else cmdOk (arbitrate (named.foldl (fun s i => if (stream s i).enabled then s else startStream i s) s))

/-- A CHANNEL kernel that holds lines of a frame its stream drops receives a version-end element in each bobbin (R258). -/
def endChannelKernel (r : ChannelRun) (s : State) : State :=
  match r.kernel with
  | none => s
  | some k =>
    let e : QueueElem := { vec := zeroVec, fields := [sideWord 0 false true r.basted false false true 0, r.id, 0, 0, 0, 0, 0, 0] }
    if k.cut then s else (kernel s k.kid).bobbins.foldl (fun s b => feedEnd b e s) s

/-- What a channel's kernel holds of a frame that is dropped: lines received and not pushed (R258). -/
def heldLines (r : ChannelRun) : List InlineRun := (r.kernel.filter fun k => !k.cut).toList

/-- A frame the channel was forming for a stream that stops, and whose header has not left, is given up. An inset goes on, but no
basted version: it has no stream left that may carry it (R119). -/
def dropRuns (i : Nat) (s : State) : State :=
  let s := match (channel s i).raw with
    | some r => if entryOpen s i r.id false then s else endRaw i s
    | none => s
  match (channel s i).run with
  | none => s
  | some r =>
    if entryOpen s i r.id r.basted then s
    else if insetUsers s i && !r.basted then
      let f (r : ChannelRun) : ChannelRun := { r with offered := true, accepted := false }
      updChannel s i fun c => { c with run := c.run.map f }
    else updChannel (endChannelKernel r s) i fun c => { c with run := none, leftover := c.leftover ++ heldLines r }

/-- The marks of a frame on stream i found since its header was written (R206). -/
def foundMarks (s : State) (i : Nat) (id : FrameId) (basted : Bool) : Marks :=
  let run : Marks := match (channel s i).run with
    | some r =>
      if r.id != id || r.basted != basted then {}
      else match r.ended, versionOf s r.ctx with
        | some m, _ => m
        | none, some v => versionMarks s v
        | none, none => {}
    | none => {}
  match (channel s i).raw with
  | some r => if r.id == id && !basted then marksOr run r.marks else run
  | none => run

/-- A stopping stream has sent its last packet. -/
def streamEmpty (s : State) (i : Nat) : Bool := (stream s i).entries.isEmpty

/-- A stopping stream with nothing left to send has stopped (R200). -/
def doneStopping (i : Nat) (s : State) : State :=
  if (stream s i).stopping && streamEmpty s i then updStream s i fun t => { t with stopping := false } else s

/-- Stop stream i as R200 says, with all that hangs on it. -/
def haltStream (i : Nat) (cut : Bool) (reason : Nat) (s : State) : State :=
  let run := (channel s i).run
  let raw := (channel s i).raw
  let s := stopStream i cut reason (foundMarks s i) s
  let s := updChannel s i fun c => { c with run := run, raw := raw }
  doneStopping i (arbitrate (tryRelease (dropRuns i s)))

/-- STREAM_DISABLE; the reply is sent when the last packet of every stream named has left the port, those that stop already
among them (R200). -/
def streamDisableBody (c : Cmd) (s : State) : CmdResult :=
  let w := paramAt c.words 0
  let named := (namedStreams w).filter fun i => (stream s i).enabled
  judged c.words [0x1FF] s <|
    let s := arbitrate (named.foldl (fun s i => haltStream i (bitAt w 8) 6 s) s)
    if (namedStreams w).any fun i => (stream s i).stopping then cmdHeld s else cmdOk s

/-! ### SET_STREAM_PARAMS (R198) -/

/-- SET_STREAM_PARAMS. -/
def setStreamParamsBody (c : Cmd) (s : State) : CmdResult :=
  let w0 := paramAt c.words 0
  let i := fldN w0 0 3
  let v0 := bitAt w0 8
  let v1 := bitAt w0 9
  let v2 := bitAt w0 10
  let old := ((stream s i).live).getD (codingOf (streamCfg s i))
  let inForce : List Word := [0, mkWord [(old.filetEmax.toNat, 8), (old.filetE.toNat, 0)],
    mkWord [(old.dropPolicy.toNat, 16), (old.lineBudget.toNat, 0)]]
  let ws := overlay c.words inForce
  let new : CodingVals := {
    filetE := if v0 then fld (paramAt ws 1) 0 6 else old.filetE
    filetEmax := if v1 then fld (paramAt ws 1) 8 6 else old.filetEmax
    lineBudget := if v1 then fld (paramAt ws 2) 0 16 else old.lineBudget
    dropPolicy := if v2 then fld (paramAt ws 2) 16 2 else old.dropPolicy }
  let cfg := streamCfg s i
  let merged : StreamCfg := { cfg with filetE := new.filetE, filetEmax := new.filetEmax }
  judged c.words [0x707, 0x3F3F, 0x3FFFF] s <|
    if (cfg.filet == 0 && (v0 || v1)) || codingBad merged then cmdBad s 1
    else if new.dropPolicy == 3 || new.lineBudget.toNat < 64 then cmdBad s 2
    else cmdOk (updStream s i fun t => { t with live := some new })

end Sys2Proof.Machine
end

