-- ==== Sys2Proof/Machine/Blocks.lean ====
section
/-! DEFINITION. The port block stream: slots and link control blocks as 66-bit blocks, dealt to the active lanes and scrambled
on each (R262–R264, R293, R294). -/
namespace Sys2Proof.Machine

/-! ### Blocks (R262, R263, R293, R294) -/

/-- One port block: a control or a data block, and its 64-bit payload. -/
structure PortBlock where
  ctl : Bool
  bits : BitVec 64
deriving DecidableEq, Repr

/-- The trailer of a slot: its CRC-32 computed afresh, complemented in the stomp form. -/
def slotTrailer (x : RawSlot) (stomp : Bool) : BitVec 64 :=
  if stomp then mkWord64 [(0xE2, 0), ((~~~ slotCrc x).toNat, 32)] else mkWord64 [(0xE1, 0), ((slotCrc x).toNat, 32)]

/-- The 34 port blocks of a slot: header, 32 data blocks of payload bytes 8i to 8i + 7, trailer. -/
def slotBlocks (x : RawSlot) (trailer : BitVec 64) : List PortBlock :=
  let data (i : Nat) : PortBlock := ⟨false, join64 (x.payload.getD (2 * i) 0) (x.payload.getD (2 * i + 1) 0)⟩
  ⟨true, x.hdr⟩ :: ((List.range 32).map data ++ [⟨true, trailer⟩])

/-- A FILLER block. -/
def fillerBlock : BitVec 64 := 0x1E
/-- A DOZE block. -/
def dozeBlock : BitVec 64 := 0x99

/-- An ACK block, or a NAK. -/
def ackBlock (seq : BitVec 12) (nak : Bool) : BitVec 64 := mkWord64 [(0x87, 0), (b2n nak, 8), (seq.toNat, 9)]

/-- A WIDTH block. -/
def widthBlock (width : BitVec 2) (good epoch : BitVec 4) : BitVec 64 :=
  mkWord64 [(0x66, 0), (width.toNat, 8), (good.toNat, 10), (epoch.toNat, 14)]

/-- A LANE_MARK block. -/
def markBlock (lane : Nat) (width : BitVec 2) (epoch : BitVec 4) (seq : Byte) : BitVec 64 :=
  mkWord64 [(0x4B, 0), (lane, 8), (width.toNat, 10), (epoch.toNat, 12), (seq.toNat, 16), (0x5A3C96C3A5, 24)]

/-! ### Lanes (R262) -/

/-- The lanes of a mask, ascending. -/
def maskLanes (m : BitVec 4) : List Nat := (List.range 4).filter fun l => bitAt m l

/-- The mask of a list of lanes. -/
def lanesMask (ls : List Nat) : BitVec 4 := BitVec.ofNat 4 (ls.foldl (fun a l => a + 2 ^ l) 0)

/-- Lane l of a port. -/
def laneAt (x : TrunkPort) (l : Nat) : LaneState := x.lanes.getD l {}

/-- A port with a lane changed. -/
def updLane (l : Nat) (f : LaneState → LaneState) (x : TrunkPort) : TrunkPort := { x with lanes := x.lanes.modify l f }

/-- The Clause 49 scrambler, 1 + x^39 + x^58, over a block: `h` holds the last 58 bits sent, the latest in bit 57. The answer
is the scrambled block, its lowest bit sent first, and the bits that follow `h`. -/
def scramble (h : BitVec 58) (d : BitVec 64) : BitVec 64 × BitVec 58 :=
  let x := h.toNat
  let first := (d.toNat ^^^ (x / 2 ^ 19) ^^^ x) % 2 ^ 39
  let y := x + first * 2 ^ 58
  let o := (d.toNat ^^^ (y / 2 ^ 19) ^^^ y) % 2 ^ 64
  (BitVec.ofNat 64 o, BitVec.ofNat 58 (o / 2 ^ 6))

/-- The descrambler of a receive lane. -/
def descramble (h : BitVec 58) (o : BitVec 64) : BitVec 64 × BitVec 58 :=
  let y := h.toNat + o.toNat * 2 ^ 58
  (BitVec.ofNat 64 (o.toNat ^^^ (y / 2 ^ 19) ^^^ y), BitVec.ofNat 58 (o.toNat / 2 ^ 6))

/-! ### The receiver (R262, R270, R271) -/

/-- A block as the receiver restores it: its lane, its sync header and its payload. -/
structure InBlock where
  lane : Nat
  sync : BitVec 2
  bits : BitVec 64
deriving DecidableEq, Repr

/-- A sync header is valid: 01 or 10. -/
def syncOk (b : InBlock) : Bool := b.sync == 1 || b.sync == 2

/-- The blocks of one receive lane in order, its polarity true and its payloads descrambled; `h` holds the 58 bits before them. -/
def laneIn (inv : Bool) : BitVec 58 → List RxBlock → List InBlock
  | _, [] => []
  | h, b :: bs =>
    let v : BitVec 64 := if inv then ~~~ b.bits else b.bits
    let r := descramble h v
    ⟨b.lane.val, if inv then ~~~ b.sync else b.sync, r.1⟩ :: laneIn inv r.2 bs

/-- The blocks of receive lane l of a port. -/
def rxLane (x : TrunkPort) (rx : List RxBlock) (before : List (BitVec 58)) (l : Nat) : List InBlock :=
  let inv := (laneAt x l).inverted
  let h := before.getD l 0
  laneIn inv (if inv then ~~~ h else h) (rx.filter fun b => b.lane.val == l)

/-- Receive lanes in the order of the transmit lanes that their LANE_MARK blocks name: any mapping of the partner's lanes is
corrected (R271). -/
def byTxLane (x : TrunkPort) (ls : List Nat) : List Nat :=
  (List.range 4).flatMap fun t => ls.filter fun l => (laneAt x l).txLane.toNat == t

/-- The 34 port blocks of a slot in port order, its first block on the lane at position `dealt`: block i is the next one of the lane
at position (dealt + i) mod W. A block that did not come reads as one with an invalid sync header. -/
def rxOrder (x : TrunkPort) (rx : List RxBlock) (before : List (BitVec 58)) (dealt : Nat) : List InBlock :=
  let lanes := byTxLane x (maskLanes x.lanesRx)
  let got := lanes.map (rxLane x rx before)
  (List.range 34).map fun i =>
    let k := (dealt + i) % lanes.length
    (got.getD k []).getD (i / lanes.length) ⟨lanes.getD k 0, 0, 0⟩

/-- A slot as the receiver restores it: the slot, its trailer, whether every sync header is the one its block needs, whether that of
the header is, and the lanes of the invalid ones. -/
structure RxSlot where
  slot : RawSlot
  trailer : BitVec 64
  whole : Bool
  headed : Bool
  bad : List Nat
deriving DecidableEq, Repr

/-- The slot that 34 lane blocks carry: header, 32 data blocks, trailer (R293). -/
def rxSlot (x : TrunkPort) (rx : List RxBlock) (before : List (BitVec 58)) (dealt : Nat) : RxSlot :=
  let bs := rxOrder x rx before dealt
  let at0 (i : Nat) : InBlock := bs.getD i ⟨0, 0, 0⟩
  let want (i : Nat) : BitVec 2 := if i == 0 || i == 33 then 2 else 1
  { slot := { hdr := (at0 0).bits
              payload := (List.range 32).flatMap fun i => [lo32 (at0 (i + 1)).bits, hi32 (at0 (i + 1)).bits] }
    trailer := (at0 33).bits
    whole := (List.range 34).all fun i => (at0 i).sync == want i
    headed := (at0 0).sync == 2
    bad := (bs.filter fun b => !syncOk b).map (·.lane) }

/-! ### The transmitter (R262) -/

/-- A lane sends a block: its own sync header, its payload scrambled. -/
def laneSend (p : Port) (l : Nat) (b : PortBlock) (x : TrunkPort) : LaneBlock × TrunkPort :=
  let r := scramble (laneAt x l).scram b.bits
  (⟨p, l, if b.ctl then 2 else 1, r.1⟩, updLane l (fun y => { y with scram := r.2 }) x)

/-- Port block i goes to the active lane at position i mod W. -/
def dealBlocks (p : Port) (lanes : List Nat) : List PortBlock → TrunkPort → List LaneBlock × TrunkPort
  | [], x => ([], x)
  | b :: bs, x =>
    let r := laneSend p (lanes.getD x.dealt 0) b x
    let q := dealBlocks p lanes bs { r.2 with dealt := (x.dealt + 1) % lanes.length, sinceMark := x.sinceMark + 1 }
    (r.1 :: q.1, q.2)

/-- Port blocks leave over the active lanes. -/
def sendBlocks (p : Port) (bs : List PortBlock) (s : State) : State :=
  let x := getPort s p
  let r := dealBlocks p (maskLanes x.lanesTx) bs x
  let s := updPort s p fun _ => r.2
  { s with out := { s.out with wire := s.out.wire ++ r.1 } }

/-- Link control blocks leave between slots. -/
def sendCtl (p : Port) (bs : List (BitVec 64)) (s : State) : State :=
  let s := sendBlocks p (bs.map (⟨true, ·⟩)) s
  { s with out := { s.out with ctl := s.out.ctl ++ bs.map (⟨p, none, ·⟩) } }

/-- A LANE_MARK group: one block on each lane of a mask, all with one MARK_SEQ. -/
def sendMarks (p : Port) (on : BitVec 4) (s : State) : State :=
  let x := getPort s p
  let mark (l : Nat) : BitVec 64 := markBlock l x.widthTx x.epochTx x.markSeq
  let r := (maskLanes on).foldl (fun (a : List LaneBlock × TrunkPort) l =>
    let q := laneSend p l ⟨true, mark l⟩ a.2
    (a.1 ++ [q.1], q.2)) ([], x)
  let s := updPort s p fun _ => { r.2 with markSeq := x.markSeq + 1, sinceMark := 0 }
  { s with out := { s.out with
    wire := s.out.wire ++ r.1, ctl := s.out.ctl ++ (maskLanes on).map fun l => ⟨p, some l, mark l⟩ } }

/-- A slot leaves whole. -/
def sendWire (p : Port) (x : RawSlot) (stomp : Bool) (s : State) : State :=
  let t := slotTrailer x stomp
  let s := sendBlocks p (slotBlocks x t) s
  if slotType x == 0 then s else { s with out := { s.out with hop := s.out.hop ++ [⟨p, x, t⟩] } }

/-! ### What a transmitter sends (R263, R268, R278–R282, R286) -/

/-- The lowest figure of merit of the receive lanes in use. -/
def lowestFom (x : TrunkPort) : Byte :=
  match maskLanes x.lanesRx with
  | [] => 0
  | l :: ls => BitVec.ofNat 8 (ls.foldl (fun a k => min a (laneAt x k).fom.toNat) (laneAt x l).fom.toNat)

/-- Rates a port offers: up to RATE_MAX, without those left out. -/
def ownRates (x : TrunkPort) : Nat :=
  (List.range 3).foldl (fun a r => a + b2n (decide (r ≤ x.cfg.rateMax.toNat) && !bitAt x.leftOut r) * 2 ^ r) 0

/-- The feature bits of the AKN5016: all five (R306). -/
def ownFeatures : Nat := 0x1F

/-- The CAPS block a port sends (R263, R290, R306; log entry 171). -/
def ownCaps (s : State) (p : Port) : BitVec 64 :=
  let x := getPort s p
  mkWord64 [(0x55, 0), (2, 8), (0, 12), (ownRates x, 16), (b2n x.cfg.clocking, 20), (b2n x.ready, 21), (1, 22),
    ((lowestFom x).toNat, 24), ((ownSrc s).toNat, 32), (ownFeatures, 40), ((idTag s).toNat, 48)]

/-- Lanes that LANE_OFF leaves to the transmitter. -/
def sendLanes (x : TrunkPort) : List Nat := (List.range 4).filter fun l => !bitAt x.cfg.laneOff l

/-- What a transmit lane carries. -/
inductive LaneDrive where
  | off
  | idle
  | training
  | stream
  | prbs
  | looped
deriving DecidableEq, Repr

/-- The transmitter of a port can run: its PLL is locked, so that its outputs are not gated (R356), and it is not off for a hop that
was declared down (R278). -/
def mayDrive (s : State) (p : Port) : Bool :=
  (pllOf s (portPll p)).phase == .locked && decide ((getPort s p).quietTill ≤ s.now.real)

/-- What transmit lane l of a port carries: training blocks in a bring-up, on the unused lanes of a hop that is UP and in a wake,
the port stream on its active lanes, the tests of DIAG, electrical idle in doze and in the idle of a rate switch. -/
def laneDrive (s : State) (p : Port) (l : Nat) : LaneDrive :=
  let x := getPort s p
  if bitAt x.cfg.laneOff l || !mayDrive s p then .off
  else match x.phase with
    | .disabled => .off
    | .stowed => .off
    | .backoff => .off
    | .rateIdle => .idle
    | .diag => if bitAt x.loopFar l then .looped else if bitAt x.prbs l then .prbs else .off
    | .up =>
      if x.txDoze then .idle
      else if !bitAt x.lanesTx l then .training
      else match x.txWakeAt with
        | some a => if s.now.real < a + 16 * 2000 then .training else .stream
        | none => .stream
    | _ => .training

/-- A training transmitter shows what it has to say: a LANE_MARK group on every lane that trains and a CAPS block, each the first
of those that repeat every 256 blocks (log entry 171). -/
def announce (p : Port) (s : State) : State :=
  sendCtl p [ownCaps s p] (sendMarks p (lanesMask ((List.range 4).filter fun l => laneDrive s p l == .training)) s)

/-- The port is in stages 1 to 7, outside the idle of a rate switch. -/
def inTraining : TrunkPhase → Bool
  | .detect => true
  | .cdr => true
  | .block => true
  | .polarity => true
  | .deskew => true
  | .adapt => true
  | .caps => true
  | _ => false

/-- A port in training whose transmitter can run begins to show it, where it has not. -/
def driveDue (p : Port) (s : State) : State :=
  if inTraining (getPort s p).phase && !(getPort s p).announced && mayDrive s p then
    announce p (updPort s p fun x => { x with announced := true })
  else s

/-- A block takes the place of a gap's last FILLER, or follows the ACK of a gap that has none. -/
def inFiller (bs : List (BitVec 64)) (b : BitVec 64) : List (BitVec 64) :=
  if bs.getLast? == some fillerBlock then bs.dropLast ++ [b] else bs ++ [b]

/-- The blocks of the control gap that follows slot position n, with what is owed (R264, R276, R279): ACK, NAK or FILLER, then
WIDTH or a FILLER, which COMMON clocking places in every 16th gap only. WIDTH and DOZE take the place of the gap's FILLER, the last
one where it has two (log entry 172). -/
def gapBlocks (x : TrunkPort) (n : Nat) (good : BitVec 4) : List (BitVec 64) :=
  let first := if x.nakOwed then ackBlock x.rxSeq true else if x.ackOwed then ackBlock (x.rxSeq - 1) false else fillerBlock
  let bs := if !x.cfg.clocking || n / 30 % 16 == 0 then [first, fillerBlock] else [first]
  match x.ask with
  | some a => inFiller bs (widthBlock a.width good x.epochRx)
  | none => if x.dozeDue then inFiller bs dozeBlock else bs

end Sys2Proof.Machine
end

