-- ==== Sys2Proof/Machine/TrunkOps.lean ====
section
/-! DEFINITION. A trunk port's bring-up, its hop going UP and down, widths and replay (R262–R282, R287). -/
namespace Sys2Proof.Machine

/-- The trunk domain runs. -/
def trunkLive (s : State) : Bool := !s.rst.asserted.contains .trunk && s.power.phase != .stow

/-! ### Lanes and widths (R262, R272, R279) -/

/-- The widest width that n lanes allow, as a width code; n is at least 1. -/
def widest (n : Nat) : BitVec 2 := if 4 ≤ n then 2 else if 2 ≤ n then 1 else 0

/-- The first lanes of a list that make up a width. -/
def widthLanes (w : BitVec 2) (ls : List Nat) : BitVec 4 := lanesMask (ls.take (lanesOf w))

/-- Lanes with a signal that LANE_OFF does not exclude. -/
def usableLanes (x : TrunkPort) : List Nat :=
  (List.range 4).filter fun l => (laneAt x l).detect && !bitAt x.cfg.laneOff l

/-- The partner's transmit lanes that receive lanes hold (R263). -/
def txMask (x : TrunkPort) (ls : List Nat) : BitVec 4 := lanesMask ((ls.map fun l => (laneAt x l).txLane.toNat).eraseDups)

/-! ### Attempts (R268–R274) -/

/-- A lane at the beginning of an attempt: polarity and marks are judged anew. -/
def freshLane (l : LaneState) : LaneState :=
  { l with marks := 0, inverted := false, lost := false, locked := false, lowSince := none, goodSince := none, badAt := [], train := 0 }

/-- A lane whose starting point is the hop record's: polarity, CTLE setting and DFE taps (R274). -/
def recordedLane (r l : LaneState) : LaneState := { l with inverted := r.inverted, ctle := r.ctle, dfe := r.dfe }

/-- A port in training: a fresh attempt at a rate; slots in flight are lost, the transmitter states the width it will send
(R273). -/
def freshAttempt (now : Nat) (fast : Bool) (rate : BitVec 2) (x : TrunkPort) : TrunkPort :=
  let tx := widest (sendLanes x).length
  { x with
    phase := .detect, fast := fast, high := false, rate := rate, attemptAt := now, stageAt := now, announced := false
    ready := false, capsSeen := 0, partnerCaps := none
    lanes := x.lanes.map freshLane
    widthTx := tx, lanesTx := widthLanes tx (sendLanes x), dealt := 0, sinceMark := 0, slipped := false
    txDoze := false, dozeDue := false, rxDoze := false, rxWakeAt := none, txWakeAt := none, epochTx := 0, epochRx := 0
    txSeq := 0, rxSeq := 0, replay := [], resend := [], nakSent := false, ackOwed := false, nakOwed := false, ask := none }

/-- The attempt begins from the hop record (R274). -/
def fromRecord (r : Option HopRecord) (x : TrunkPort) : TrunkPort :=
  match r with
  | some r => { x with lanes := x.lanes.zipIdx.map fun l => recordedLane (r.lanes.getD l.2 {}) l.1 }
  | none => x

/-- The port PLL is set for the port's rate and reference; a new rate, a new reference or a lost lock is a new lock attempt
(R261). -/
def setPortRate (p : Port) (s : State) : State :=
  let x := getPort s p
  let w := portWord s p
  if (pllOf s (portPll p)).phase == .locked && (pllOf s (portPll p)).word == w && x.pllCommon == x.cfg.clocking then s
  else relock (portPll p) (updPll (portPll p) (fun y => { y with word := w, refKhz := refKhz s (pllRef s (portPll p)) })
    (updPort s p fun x => { x with pllCommon := x.cfg.clocking }))

/-- A bring-up begins under the settings that waited for it: from the hop record with FAST_RETRAIN, else at 10.3125 Gbaud. What the
port draws may change with them (R269, R274, R283, R369). -/
def startAttempt (p : Port) (tryFast : Bool) (s : State) : State :=
  let s := updPort s p fun x => { x with cfg := x.nextCfg.getD x.cfg, nextCfg := none }
  let x := getPort s p
  arbitrate (if !x.cfg.enable then updPort s p fun x => { x with phase := .disabled }
    else
      let rec0 := if tryFast && x.cfg.fastRetrain then x.record else none
      driveDue p (setPortRate p (updPort s p fun x =>
        fromRecord rec0 (freshAttempt s.now.real rec0.isSome ((rec0.map (·.rate)).getD 0) x))))

/-- A released, enabled port that has not begun its bring-up begins it (log entry 71); one whose transmitter can run shows its
training. -/
def wakePort (p : Port) (s : State) : State :=
  if (getPort s p).phase == .disabled && (getPort s p).cfg.enable then startAttempt p true s else driveDue p s

/-- The number of a stage. -/
def stageNo : TrunkPhase → Nat
  | .detect => 1
  | .cdr => 2
  | .block => 3
  | .polarity => 4
  | .deskew => 5
  | .adapt => 6
  | .caps => 7
  | .rateIdle => 7
  | .up => 8
  | _ => 0

/-- An attempt ends: a fast retrain falls back to a full bring-up, a second pass leaves the rate out and begins again, any
other attempt raises BRINGUP_FAIL and backs off for 1 ms and a random 0–1 ms in steps of 10 µs (R269, R273, R274, R287). -/
def failAttempt (p : Port) (reason : Nat) (s : State) : State :=
  let x := getPort s p
  let stage := stageNo x.phase
  if x.fast then startAttempt p false s
  else if x.high then
    let s := updPort s p fun x => { x with leftOut := x.leftOut ||| BitVec.ofNat 3 (2 ^ x.rate.toNat) }
    startAttempt p false (raise 0x0504 (portNo p) x.rate.toNat 0 s)
  else
    let (w, s) := takeFree s
    let wait := 16 * (1000000 + 10000 * (w.toNat % 101))
    let s := updPort s p fun x => { x with
      phase := .backoff, stageAt := s.now.real, backoffTo := s.now.real + wait, failStage := BitVec.ofNat 4 stage, failReason := BitVec.ofNat 4 reason }
    raise 0x0503 (portNo p) (16 * stage + reason) 0 s

/-- The next stage begins. -/
def enterStage (ph : TrunkPhase) (now : Nat) (x : TrunkPort) : TrunkPort := { x with phase := ph, stageAt := now }

/-! ### UP and down (R278, R287) -/

/-- Lanes that a hop which goes UP leaves unused are retrained in the background from stage 2 on (R280). -/
def retrainRest (x : TrunkPort) : List LaneState :=
  let one (l : LaneState × Nat) : LaneState :=
    if bitAt x.lanesRx l.2 then l.1 else { l.1 with train := 2, marks := 0, goodSince := none }
  x.lanes.zipIdx.map one

/-- The hop goes UP: its record is kept, and LINK_UP is raised. -/
def goUp (p : Port) (s : State) : State :=
  let s := updPort s p fun x => { x with
    phase := .up, lanes := retrainRest x, bringups := satInc x.bringups, leftOut := 0, fast := false, high := false
    record := some ⟨x.partnerTag, x.rate, x.lanes⟩
    positions := 0, ackAt := 0, ownP1 := none, epochTx := 0, epochRx := 0, idleSince := none, elastic := 8, dealt := 0 }
  let x := getPort s p
  arbitrate (ringHopUp p (raise 0x0501 (portNo p) (x.rate.toNat + 4 * x.widthRx.toNat) 0 s))

/-- Slots of a transit buffer (R299). -/
def transitSize : Nat := 8

/-- Slots that wait to leave by a port that wraps are turned into the other direction as its transit buffer has room for them; the
rest wait where they are. -/
def turnTransit (p : Port) (s : State) : State :=
  if wrapsAt s p then
    let ws := (getPort s p).transit
    let n := transitSize - (getPort s (otherPort p)).transit.length
    let move (w : WaitSlot) : WaitSlot := { w with slot := turned w.slot }
    let s := updPort s p fun x => { x with transit := ws.drop n }
    updPort s (otherPort p) fun y => { y with transit := y.transit ++ (ws.take n).map move }
  else s

/-- Slots that waited to leave a port whose hop is down: turned at a wrap, where a second turn removes them (R296), else lost. -/
def moveTransit (p : Port) (s : State) : State :=
  if wrapsAt s p then
    let again := (getPort s p).transit.filter fun w => slotWrapped w.slot
    let s := { s with ring := { s.ring with orphans := satAdd s.ring.orphans again.length } }
    turnTransit p (updPort s p fun x => { x with transit := x.transit.filter fun w => !slotWrapped w.slot })
  else updPort s p fun x => { x with transit := [] }

/-- How long the transmitter of a hop declared down stays off, in ns: as long as its partner may take to declare it down (R278; log
entry 209). -/
def quietNs : Nat := 2000

/-- A hop that was UP is declared down: LINK_DOWN, the transmitter is off, slots in the replay buffer are lost, the node wraps. -/
def loseHop (p : Port) (s : State) : State :=
  if (getPort s p).phase != .up then s
  else
    let s := updPort s p fun x => { x with
      linkDowns := satInc x.linkDowns, replay := [], resend := [], quietTill := s.now.real + 16 * quietNs }
    moveTransit p (wrapPort p (raise 0x0502 (portNo p) 0 0 s))

/-- The hop is declared down, and a new bring-up begins. -/
def hopDown (p : Port) (s : State) : State :=
  if (getPort s p).phase != .up then s else startAttempt p true (loseHop p s)

/-- Stage 7 has what it needs: UP, or eight more CAPS and the idle of a rate switch, or a failure (R267, R269, R272, R273). -/
def resolveCaps (p : Port) (caps : BitVec 64) (s : State) : State :=
  let x := getPort s p
  let major := fldN caps 8 4
  let theirs := fldN caps 16 3
  let ok (r : Nat) : Bool := bitAt (BitVec.ofNat 3 (ownRates x)) r && bitAt (BitVec.ofNat 3 theirs) r
  let best := ((List.range 3).filter ok).foldl max 0
  if major ≠ 1 ∧ major ≠ 2 then failAttempt p 5 s
  else if bitAt caps 20 != x.cfg.clocking then failAttempt p 4 s
  else if major = 1 && x.widthRx != 2 then failAttempt p 2 s
  else if x.fast then
    (if ((x.record.map (·.idTag)) == some (fld caps 48 16)) then goUp p s else failAttempt p 1 s)
  else if x.high || best ≤ x.rate.toNat then goUp p s
  else updPort (sendCtl p (List.replicate 8 (ownCaps s p)) s) p fun x =>
    { enterStage .rateIdle s.now.real x with rate := BitVec.ofNat 2 best }

/-! ### Widths in service (R279, R280) -/

/-- WIDTH_CHANGE with both widths. -/
def raiseWidth (p : Port) (s : State) : State :=
  let x := getPort s p
  raise 0x0506 (portNo p) (x.widthRx.toNat + 4 * x.widthTx.toNat) 0 s

/-- Lanes in good order: those in use, and the others with a signal that are neither lost nor in training. -/
def goodLanes (x : TrunkPort) : List Nat :=
  (List.range 4).filter fun l => !(laneAt x l).lost && (bitAt x.lanesRx l ||
    (!bitAt x.cfg.laneOff l && (laneAt x l).detect && (laneAt x l).train = 0 && (laneAt x l).lowSince.isNone))

/-- A receive lane in service is lost: the port sheds, or declares the hop down. The absent signal of a dozing direction is no
loss (R279, R281). -/
def loseLane (p : Port) (l : Nat) (s : State) : State :=
  let x := getPort s p
  if x.phase != .up || x.rxDoze || !(bitAt x.lanesRx l) || (laneAt x l).lost then s
  else
    let s := raise 0x0505 (portNo p) l 0
      (updPort s p (updLane l fun y => { y with lost := true, goodSince := none, badAt := [], train := 2 }))
    let good := byTxLane x ((goodLanes x).filter (· ≠ l))
    if hasFeature s 4 && !good.isEmpty && x.cfg.minWidth.toNat ≤ (widest good.length).toNat then
      updPort s p fun x => { x with ask := some {
        good := lanesMask good, width := widest good.length, widen := false, epoch := x.epochRx
        since := ((x.ask.filter fun a => !a.widen).map (·.since)).getD s.now.real } }
    else hopDown p s

/-- A width that changes from `old` to `new` counts as narrowed or widened (R285). -/
def countWidth (old new : BitVec 2) (x : TrunkPort) : TrunkPort :=
  { x with
    sheds := if new.toNat < old.toNat then satInc x.sheds else x.sheds
    restores := if old.toNat < new.toNat then satInc x.restores else x.restores }

/-- The lanes that a width asked for leaves in use: the lowest-numbered transmit lanes in good order. -/
def askLanes (x : TrunkPort) (a : WidthAsk) : BitVec 4 := widthLanes a.width (byTxLane x (maskLanes a.good))

/-- The group that answers a request has come whole: a new EPOCH with the width asked for on every lane that the request leaves in
use (R279). -/
def groupCame (x : TrunkPort) (a : WidthAsk) (epoch : BitVec 4) : Bool :=
  epoch != a.epoch && (maskLanes (askLanes x a)).all fun l =>
    (laneAt x l).markEpoch == epoch && (laneAt x l).markWidth == a.width

/-- An EPOCH has come on a lane: it is seen, and where the group that answers the request is whole, its width is in force; a group
that answers an earlier request leaves the request standing (R279, R287). -/
def takeWidth (p : Port) (epoch : BitVec 4) (s : State) : State :=
  let s := updPort s p fun x => { x with epochRx := epoch }
  let x := getPort s p
  match x.ask with
  | none => s
  | some a =>
    let w := a.width
    if !groupCame x a epoch then s
    else
      let fresh (i : Nat) (l : LaneState) : LaneState := if bitAt a.good i then { l with lost := false, lowSince := none } else l
      let s := updPort s p fun x => countWidth x.widthRx w { x with
        widthRx := w, lanesRx := askLanes x a, ask := none
        lanes := x.lanes.zipIdx.map fun l => fresh l.2 l.1
        lastWiden := if x.widthRx.toNat < w.toNat then some s.now.real else x.lastWiden }
      arbitrate (if w == x.widthRx then s else raiseWidth p s)

/-! ### Replay (R275–R278) -/

/-- Slots of the replay buffer. -/
def replaySize : Nat := 481

/-- HSEQ a is SEQ b or lies before it, within a window of 2,048. -/
def seqUpTo (a b : BitVec 12) : Bool := decide ((b - a).toNat < 2048)

/-- Slots up to SEQ are acknowledged. -/
def releaseSlots (seq : BitVec 12) (x : TrunkPort) : TrunkPort :=
  let keep (r : ReplaySlot) : Bool := !seqUpTo r.seq seq
  let rest := x.replay.filter keep
  { x with replay := rest, resend := x.resend.filter keep
           ackAt := if rest.length < x.replay.length then x.positions else x.ackAt }

/-- The sender resends from a slot onward, or has sent the oldest four times and declares the hop down. -/
def resendFrom (p : Port) (keep : ReplaySlot → Bool) (s : State) : State :=
  let x := getPort s p
  match x.replay with
  | [] => s
  | r :: _ =>
    if 4 ≤ r.sends then hopDown p s
    else updPort s p fun x => { x with resend := x.replay.filter keep, ackAt := x.positions }

/-- A slot that comes for a direction in its wake waits in the replay buffer: it is numbered, and sent for the first time once the
wake is over (R282). -/
def parkSlot (w : WaitSlot) (x : TrunkPort) : TrunkPort :=
  let y : RawSlot := { w.slot with hdr := setFld64 (setFld64 w.slot.hdr 28 12 x.txSeq.toNat) 52 8 (slotHops w.slot + 1) }
  let r : ReplaySlot := { seq := x.txSeq, slot := y, stomp := w.stomp, sends := 0, arrived := w.arrived, delay := w.delay }
  { x with txSeq := x.txSeq + 1, replay := x.replay ++ [r], resend := x.resend ++ [r]
           ackAt := if x.replay.isEmpty then x.positions else x.ackAt }

/-- What the receiver does with a slot. -/
inductive SlotTake where
  | content
  | stomped
  | discard
deriving DecidableEq, Repr

/-- The receiver takes a slot: accepted in order, acknowledged again, or discarded with one NAK (R275, R276). -/
def takeSlot (p : Port) (c : SlotCheck) (seq : BitVec 12) (s : State) : SlotTake × State :=
  let x := getPort s p
  let accept := updPort s p fun x => { x with rxSeq := x.rxSeq + 1, nakSent := false, nakOwed := false, ackOwed := true }
  let nak := updPort s p fun x => { x with nakSent := true, nakOwed := x.nakOwed || !x.nakSent }
  if c == .bad then (.discard, nak)
  else if seq == x.rxSeq then (if c == .stomp then .stomped else .content, accept)
  else if seqUpTo seq (x.rxSeq - 1) then (.discard, updPort s p fun x => { x with ackOwed := true })
  else (.discard, nak)

/-! ### Port actions that follow a reply (R283, R286, R333) -/

/-- The lanes under each out-of-service test, once a test begins on some of them: 3 PRBS_START, 6 LOOP_NEAR, 7 LOOP_FAR; one loop
takes the place of the other (log entry 73). -/
def beginTest (test lanes : BitVec 4) (x : TrunkPort) : TrunkPort :=
  if test == 3 then { x with prbs := x.prbs ||| lanes }
  else if test == 6 then { x with loopNear := x.loopNear ||| lanes, loopFar := x.loopFar &&& ~~~ lanes }
  else { x with loopFar := x.loopFar ||| lanes, loopNear := x.loopNear &&& ~~~ lanes }

/-- n bits of the PRBS31 pattern, x^31 + x^28 + 1, from the 31 bits before them, the latest in bit 0 (R286). -/
def prbs31 : Nat → BitVec 31 → List Bool
  | 0, _ => []
  | n + 1, h =>
    let b := bitAt h 30 != bitAt h 27
    b :: prbs31 n (BitVec.ofNat 31 (2 * h.toNat + b2n b))

/-- The first 66 bits of the pattern leave on a lane; what the pattern starts from is free, but not all zero, which the pattern never
holds (log entry 73). -/
def sendPrbs (p : Port) (l : Nat) (s : State) : State :=
  let (w, s) := takeFree s
  let bs := prbs31 66 (BitVec.ofNat 31 (w.toNat % (2 ^ 31 - 1) + 1))
  let b : LaneBlock := ⟨p, l, BitVec.ofNat 2 (bitsNat (bs.take 2).reverse), BitVec.ofNat 64 (bitsNat (bs.drop 2).reverse)⟩
  { s with out := { s.out with wire := s.out.wire ++ [b] } }

/-- The pattern begins on the lanes that show it to the outside: the PLL is locked, LANE_OFF does not exclude the lane, and neither
loop takes it. -/
def startPrbs (p : Port) (lanes : BitVec 4) (s : State) : State :=
  (maskLanes lanes).foldl (fun s l => if laneDrive s p l == .prbs then sendPrbs p l s else s) s

/-- The port enters DIAG: its hop is down for the ring, and the lanes under test carry the test at once. -/
def enterDiag (p : Port) (test lanes : BitVec 4) (s : State) : State :=
  let from0 (l : LaneState × Nat) : LaneState :=
    if test == 3 && bitAt lanes l.2 then { l.1 with prbsFrom := some s.now.real } else l.1
  let s := arbitrate (updPort (loseHop p s) p fun x =>
    let x := if x.phase == .diag then x else { x with prbs := 0, loopNear := 0, loopFar := 0 }
    beginTest test lanes { x with phase := .diag, quietTill := 0, lanes := x.lanes.zipIdx.map from0 })
  if test == 3 then startPrbs p lanes s else s

/-- ENABLE = 0, RETRAIN = 1 or an out-of-service test takes effect. -/
def doAct (p : Port) (a : PortAct) (s : State) : State :=
  let s := updPort s p fun x => { x with act := none }
  match a with
  | .disable => arbitrate (updPort (loseHop p s) p fun x => { x with
      phase := .disabled, cfg := x.nextCfg.getD x.cfg, nextCfg := none })
  | .retrain => startAttempt p true (loseHop p s)
  | .diag t l => enterDiag p t l s

/-- Actions whose replies have left take effect. -/
def doActs (s : State) : State :=
  if s.ring.ownQueue.any fun w => slotType w.slot == 3 then s
  else
    let one (p : Port) (s : State) : State := match (getPort s p).act with
      | some a => doAct p a s
      | none => s
    one .west (one .east s)

end Sys2Proof.Machine
end

