-- ==== Sys2Proof/Machine/Stow.lean ====
section
/-! DEFINITION. Entering Stow and waking from it (R380, R381, R383, R436, R475). -/
namespace Sys2Proof.Machine

/-- A port in Stow: its transmitter is off, its settings and its hop record are kept. -/
def stowPort (x : TrunkPort) : TrunkPort :=
  { cfg := x.cfg, nextCfg := x.nextCfg, phase := .stowed, record := x.record, leftOut := x.leftOut
    bringups := x.bringups, linkDowns := x.linkDowns, sheds := x.sheds, restores := x.restores, replayed := x.replayed
    naksSent := x.naksSent, stomped := x.stomped, hdrErrs := x.hdrErrs, ebSlip := x.ebSlip, dozeWakes := x.dozeWakes }

/-- The ring's state in Stow: the address is the last one held, and ring time runs unlocked (log entry 89). -/
def stowRing (r : RingState) : RingState :=
  { r with
    addrPhase := .none, addr := 0x7F, probing := false, collided := false, backoff := false, joinAt := none, ownerFrom := none
    wrapEast := false, wrapWest := false, hadHopEast := false, hadHopWest := false, ownQueue := [], txRest := [], rxRest := [], claim := none
    time := { r.time with lock := .unlocked, good := 0, slew := 0, drift := 0 } }

/-- A timer in Stow: stopped, its count lost, its configuration kept. -/
def stowTimer (x : TimerChan) : TimerChan :=
  { x with count := 0, phaseAcc := 0, running := false, out := x.cfg.idle, captures := [] }

/-- The converters in Stow: accumulators, trackers and held x0 values are lost. -/
def stowMcv (m : McvState) : McvState :=
  let conv (x : McvConv) : McvConv :=
    { x with entry := 0, nextEntry := 0, nextSlot := 0, cur := none, due := none, recovery := false }
  { m with a := conv m.a, b := conv m.b, accs := List.replicate 16 {}, x0 := [], cal := none, refSettled := false, joined := false
           pairA := none, pairB := none, afterB := none }

/-- A two-wire port in Stow; an in-band request still owed is issued after the wake (R437). -/
def stowTw (x : TwPortState) : TwPortState := { x with bus := none, pointer := 0 }

/-- The PLLs are off and the tree runs on the limp clock; δ restarts from 0 at the wake. -/
def stowClock (now : Nat) (c : ClockState) : ClockState :=
  { c with
    root := {}, out := {}, west := {}, east := {}, delta := 0, limp := true, rootLostPending := false, baseChange := false
    limpSince := some (c.limpSince.getD now) }

/-- The device enters Stow. -/
def enterStow (s : State) : State :=
  { s with
    power := { s.power with phase := .stow, stowPending := false, wakeSeen := false, stows := satInc s.power.stows }
    accum := { s.accum with selfRefresh := true }
    west := stowPort s.west, east := stowPort s.east, ring := stowRing s.ring
    clock := stowClock s.now.real s.clock
    engines := { s.engines with pillows := List.replicate 8 [], bobbins := List.replicate 128 {} }
    timers := { s.timers with chans := s.timers.chans.map stowTimer, edges := List.replicate 8 none }
    mcv := stowMcv s.mcv
    front := { s.front with prevCopy := none }
    twa := stowTw s.twa, twb := stowTw s.twb }

/-- The wake from Stow to Idle: the PLLs lock again, the ports bring their hops up, the reference settles afresh, and the vendor
kernel images are those of the active bank. -/
def wakeStow (s : State) : State :=
  if s.power.phase != .stow then s
  else
    let s := { s with
      power := { s.power with phase := .idle, wakePorts := 0, wakeTw := 0 }
      engines := { s.engines with vendorFw := some (bankWord s s.nvm.activeB 2) }
      mcv := { s.mcv with refAt := s.now.real, mainsHeld := false, nextAt := s.now.tclk }
      west := { s.west with phase := .disabled }, east := { s.east with phase := .disabled } }
    let s := relock .root s
    let s := if s.clock.cfg.outEn then relock .out s else s
    arbitrate (settleAll (wakePort .west (wakePort .east s)))

/-- Stow that was accepted is entered once the reply has left its port and no controller transfer runs (R333, R443); a wake
source within the reply wakes the device at once (R385). -/
def settleStow (s : State) : State :=
  if s.power.stowPending && !(s.ring.ownQueue.any fun w => slotType w.slot == 3) && s.twa.transfer.isNone &&
      s.twb.transfer.isNone then
    (if s.power.wakeSeen then wakeStow (enterStow s) else enterStow s)
  else s

/-- A wake source acts: it wakes the device from Stow, and before Stow is entered it is remembered (R383, R385). -/
def wakeSource (s : State) : State :=
  if s.rst.asserted.contains .bureau then s
  else if s.power.stowPending then { s with power := { s.power with wakeSeen := true } }
  else wakeStow s

/-- STOW_WAKE: signal detect on a port of WAKE_PORTS, or an address match on a port of WAKE_TW. -/
def execStowWake (t : Instant) (source : Option Port) (s : State) : Result :=
  let s := setNow t s
  let named := match source with
    | some p => bitAt s.power.wakePorts (portNo p)
    | none => s.power.wakeTw != 0
  .next (if named then wakeSource s else s)

end Sys2Proof.Machine
end

