-- ==== Sys2Proof/Machine/Trunk.lean ====
section
/-! DEFINITION. The events of a trunk port: bring-up, control blocks, lanes, doze (R262–R282). -/
namespace Sys2Proof.Machine

/-- An event of a port: nothing happens while the trunk domain is in reset. -/
def portEvent (t : Instant) (f : State → State) (s : State) : Result :=
  let s := setNow t s
  .next (if trunkLive s then f s else s)

/-! ### Bring-up (R268–R274) -/

/-- The signal of a lane has gone in service: a lane in use is lost, an unused one is trained again from the start (R279,
R280). -/
def signalGone (p : Port) (l : Nat) (s : State) : State :=
  let x := getPort s p
  if x.rxDoze then s
  else if bitAt x.lanesRx l then loseLane p l s
  else updPort s p (updLane l fun y => { y with train := 2, goodSince := none })

/-- SIGNAL_DETECT: on a dozing direction the signal's return begins its wake (R282); in training, too few lanes end the
attempt; in service the lane is lost. In Stow the signal of a port in WAKE_PORTS wakes the device (R383). -/
def execSignalDetect (t : Instant) (p : Port) (lane : Fin 4) (present : Bool) (s : State) : Result :=
  let s := setNow t s
  let s := if present && bitAt s.power.wakePorts (portNo p) then wakeSource s else s
  portEvent t (fun s =>
    let s := wakePort p (updPort s p (updLane lane.val fun l => { l with detect := present }))
    let x := getPort s p
    if present && x.rxDoze then
      arbitrate (updPort s p fun x => { x with rxDoze := false, rxWakeAt := some s.now.real, dozeWakes := satInc x.dozeWakes })
    else if !present && 2 ≤ stageNo x.phase && stageNo x.phase ≤ 7 && x.phase != .rateIdle &&
        (usableLanes x).length < lanesOf x.cfg.minWidth then failAttempt p 3 s
    else if !present && x.phase == .up then signalGone p lane.val s
    else s) s

/-- The lanes named by a mask cover those with a signal. -/
def covers (m : BitVec 4) (x : TrunkPort) : Bool := (usableLanes x).all fun l => bitAt m l

/-- Stage 5: lane identities that clash, lanes that state different widths or are more than the WIDTH they state accounts for, or a
skew beyond 31 lane blocks (R271; log entry 208). -/
def deskewFault (x : TrunkPort) : Option Nat :=
  let ls := (usableLanes x).map (laneAt x)
  let block100 : Nat := if x.rate == 0 then 10240 else if x.rate == 1 then 8448 else 4096
  let latest := ls.foldl (fun a l => max a l.markAt) 0
  let earliest := ls.foldl (fun a l => min a l.markAt) latest
  if !(ls.map (·.txLane)).Nodup || ls.any (fun l => l.markWidth == 3 || decide (l.markWidth.toNat < (widest ls.length).toNat)) ||
      !(ls.all fun l => ls.all fun k => l.markWidth == k.markWidth) then some 6
  else if 31 * block100 < 100 * (latest - earliest) then some 7
  else none

/-- The figure of merit of an eye: the smaller of its vertical opening in 2 mV and twice its horizontal opening in 1/128 UI, each
capped at 255 (R272). -/
def fomOf (e : EyeOpening) : Byte := BitVec.ofNat 8 (min (min e.height 255) (min (2 * e.width) 255))

/-- DFE taps that adaptation or tracking has found, which are free (log entry 72). -/
def foundDfe (d : Word) (i : Nat) : List (BitVec 6) := (List.range 5).map fun k => fld (d + wordOf i) (6 * k) 6

/-- Stage 6: the figures have settled; lanes at or above FOM_MIN are used. The equaliser settings are what adaptation found
(log entry 72). -/
def adaptDone (p : Port) (eyes : List EyeOpening) (s : State) : State :=
  let (w, s) := takeFree s
  let (d, s) := takeFree s
  let set (i : Nat) (l : LaneState) : LaneState := { l with
    fom := fomOf (eyes.getD i ⟨0, 0⟩), ctle := fld w (4 * i) 4, dfe := foundDfe d i }
  let s := updPort s p fun x => { x with lanes := x.lanes.zipIdx.map fun l => set l.2 l.1 }
  let x := getPort s p
  let good := (usableLanes x).filter fun l => x.cfg.fomMin.toNat ≤ (laneAt x l).fom.toNat
  let sent := ((usableLanes x).head?.map fun l => (laneAt x l).markWidth).getD 2
  let width := if (widest good.length).toNat ≤ sent.toNat then widest good.length else sent
  if good.isEmpty || width.toNat < x.cfg.minWidth.toNat then failAttempt p 2 s
  else if x.fast && !decide (s.now.real ≤ x.attemptAt + 48000000) then failAttempt p 1 s
  else
    let t := updPort s p fun x => { enterStage .caps s.now.real x with
    ready := true, widthRx := width, lanesRx := widthLanes width (byTxLane x good) }
    if mayDrive t p then announce p t else t

/-- An unused lane of a hop that is UP passes its next stage in the background: 2 to 5, then 6 with its figure of merit
(R280). -/
def trainLane (now : Nat) (min : Nat) (e : EyeOpening) (l : LaneState) : LaneState :=
  if l.train = 0 || !l.detect || (l.train = 4 && l.marks < 2) then l
  else if l.train < 6 then { l with train := l.train + 1, marks := if l.train = 3 then 0 else l.marks }
  else
    let f := fomOf e
    { l with train := 0, lost := false, fom := f, lowSince := none, goodSince := if min ≤ f.toNat then some now else none }

/-- Lanes of a hop that is UP that have passed a stage of their retraining. -/
def trainUnused (p : Port) (lanes : BitVec 4) (eyes : List EyeOpening) (s : State) : State :=
  updPort s p fun x =>
    let one (l : LaneState × Nat) : LaneState :=
      if bitAt lanes l.2 && !bitAt x.lanesRx l.2 && !bitAt x.cfg.laneOff l.2 then
        trainLane s.now.real x.cfg.fomMin.toNat (eyes.getD l.2 ⟨0, 0⟩) l.1
      else l.1
    { x with lanes := x.lanes.zipIdx.map one }

/-- BRINGUP_STAGE_COMPLETE: the stage the port is in completes, where what the table asks holds. `lanes`: the lanes with
clock recovery or block lock (stages 2, 3), or in service the unused lanes that pass a stage; `eyes`: the openings of each lane's
eye (stage 6). -/
def execBringupStageComplete (t : Instant) (p : Port) (lanes : BitVec 4) (eyes : List EyeOpening) (s : State) : Result :=
  portEvent t (fun s =>
    let s := wakePort p s
    let recovery := (getPort s p).phase == .cdr || (getPort s p).phase == .block
    let lock (l : LaneState × Nat) : LaneState := { l.1 with locked := bitAt lanes l.2 }
    let s := if recovery then updPort s p fun x => { x with lanes := x.lanes.zipIdx.map lock } else s
    let x := getPort s p
    let next (ph : TrunkPhase) (s : State) : State := updPort s p (enterStage ph s.now.real)
    match x.phase with
    | .detect =>
      if (usableLanes x).length < lanesOf x.cfg.minWidth then s
      else next .cdr (updPort s p fun x => { x with attemptAt := s.now.real })
    | .cdr => if (pllOf s (portPll p)).phase == .locked && covers lanes x then next .block s else s
    | .block => if covers lanes x then next .polarity s else s
    | .polarity => if (usableLanes x).all fun l => 2 ≤ (laneAt x l).marks then next .deskew s else s
    | .deskew =>
      let seqs := (usableLanes x).map fun l => (laneAt x l).markSeq
      if !seqs.all fun q => q == seqs.headD 0 then s
      else match deskewFault x with
        | some r => failAttempt p r s
        | none => next .adapt s
    | .adapt => if passed s x.stageAt 256000 then adaptDone p eyes s else s
    | .up => trainUnused p lanes eyes s
    | .caps =>
      match x.partnerCaps with
      | some c => if 3 ≤ x.capsSeen && x.ready then resolveCaps p c s else s
      | none => s
    | _ => s) s

/-- The timeout of a stage in ns. -/
def stageLimit (x : TrunkPort) : Option Nat :=
  match x.phase with
  | .cdr => some 2000000
  | .block => some 100000
  | .polarity => some 100000
  | .deskew => some 100000
  | .adapt => some (if x.fast then 1000000 else 5000000)
  | .caps => some 1000000
  | _ => none

/-- The reason of a stage that has exceeded its timeout: WIDTH_LOW where fewer lanes than MIN_WIDTH have recovered their clock or
have block lock, else TIMEOUT (R273; log entry 173). -/
def timeoutReason (s : State) (p : Port) : Nat :=
  let x := getPort s p
  let few := decide (((usableLanes x).filter fun l => (laneAt x l).locked).length < lanesOf x.cfg.minWidth)
  if few && (x.phase == .block || (x.phase == .cdr && (pllOf s (portPll p)).phase == .locked)) then 3 else 1

/-- BRINGUP_STAGE_TIMEOUT. -/
def execBringupStageTimeout (t : Instant) (p : Port) (s : State) : Result :=
  portEvent t (fun s => match stageLimit (getPort s p) with
    | some ns => if passed s (getPort s p).stageAt ns then failAttempt p (timeoutReason s p) s else s
    | none => s) s

/-- BRINGUP_BACKOFF_END: the wait drawn at the failure is over. -/
def execBringupBackoffEnd (t : Instant) (p : Port) (s : State) : Result :=
  portEvent t (fun s =>
    if (getPort s p).phase == .backoff && decide ((getPort s p).backoffTo ≤ s.now.real) then startAttempt p true s else s) s

/-- RATE_SWITCH_IDLE_END: 10 µs of idle, then the second pass at the higher rate, with training blocks again. -/
def execRateSwitchIdleEnd (t : Instant) (p : Port) (s : State) : Result :=
  portEvent t (fun s =>
    let x := getPort s p
    if x.phase == .rateIdle && passed s x.stageAt 10000 then
      driveDue p (setPortRate p (updPort s p fun x => { freshAttempt s.now.real false x.rate x with high := true }))
    else s) s

/-- A block that came over lane `l`, or over the port, leaves again by the loop of LOOP_FAR: the lane of the same number, or every
lane where the test loops the whole port (R286). -/
def echoCtl (p : Port) (l : Option Nat) (b : BitVec 64) (s : State) : State :=
  let x := getPort s p
  let on := match l with
    | some k => bitAt x.loopFar k
    | none => (sendLanes x).all fun k => bitAt x.loopFar k
  if x.phase == .diag && on then { s with out := { s.out with ctl := s.out.ctl ++ [⟨p, l, b⟩] } } else s

/-- FILLER, in the gap it comes in: the fill of the elastic buffer has drifted; past 12 the FILLER is deleted, below 4 one is
added; on a slip the blocks concerned are discarded, so that the slot they belong to is bad, and the buffer starts again in the
middle (R266; log entry 72). -/
def execFiller (t : Instant) (p : Port) (drift : Int) (s : State) : Result :=
  portEvent t (fun s => if stageNo (getPort s p).phase < 4 then s else updPort s p fun x =>
    let n := x.elastic + drift
    if n < 0 || 16 < n then { x with ebSlip := satInc x.ebSlip, elastic := 8, slipped := x.phase == .up }
    else if 12 < n then { x with elastic := n - 1 }
    else if n < 4 then { x with elastic := n + 1 }
    else { x with elastic := n }) s

/-- A LANE_MARK block, as sent or complemented. -/
def readMark (b : BitVec 64) : Option (Bool × BitVec 64) :=
  if fldN b 0 8 = 0x4B && fldN b 24 40 = 0x5A3C96C3A5 then some (false, b)
  else if fldN (~~~ b) 0 8 = 0x4B && fldN (~~~ b) 24 40 = 0x5A3C96C3A5 then some (true, ~~~ b)
  else none

/-- LANE_MARK: polarity, identity and arrival of a lane in training; in service a new EPOCH ends a width change (R262,
R270, R271, R279). -/
def execLaneMark (t : Instant) (p : Port) (lane : Fin 4) (block : BitVec 64) (s : State) : Result :=
  portEvent t (fun s => let s := echoCtl p (some lane.val) block s; match readMark block with
    | none => s
    | some (inv, b) =>
      let x := getPort s p
      if x.phase == .up then
        let used := bitAt x.lanesRx lane.val
        takeWidth p (fld b 12 4) (updPort s p (updLane lane.val fun l => { l with
          marks := if used then l.marks else l.marks + 1
          inverted := if used then l.inverted else inv
          txLane := if used then l.txLane else fld b 8 2
          markWidth := fld b 10 2, markEpoch := fld b 12 4, markSeq := fld b 16 8, markAt := s.now.real }))
      else if 4 ≤ stageNo x.phase && stageNo x.phase ≤ 7 then
        updPort s p (updLane lane.val fun l => { l with
          marks := l.marks + 1, inverted := inv, txLane := fld b 8 2, markWidth := fld b 10 2, markEpoch := fld b 12 4, markSeq := fld b 16 8
          markAt := s.now.real })
      else s) s

/-- CAPS: the partner's capabilities; at stage 7 three identical blocks with RX_READY (R263, R268). Another CLOCKING ends the
bring-up, as does another major version at stage 7 (R267, R273). -/
def execCaps (t : Instant) (p : Port) (block : BitVec 64) (s : State) : Result :=
  portEvent t (fun s =>
    let s := echoCtl p none block s
    let x := getPort s p
    if fldN block 0 8 ≠ 0x55 || stageNo x.phase < 4 || 7 < stageNo x.phase then s
    else
      let s := updPort s p fun x => { x with
        partnerCaps := some block
        capsSeen := if !bitAt block 21 then 0 else if x.partnerCaps == some block then x.capsSeen + 1 else 1
        partnerAddr := fld block 32 7, partnerTag := fld block 48 16, partnerEtp := BitVec.ofNat 8 (16 * fldN block 8 4 + fldN block 12 4) }
      if bitAt block 20 != x.cfg.clocking then failAttempt p 4 s
      else if x.phase == .caps && fldN block 8 4 ≠ 1 && fldN block 8 4 ≠ 2 then failAttempt p 5 s
      else s) s

/-! ### Control blocks in service (R276, R278, R279, R281) -/

/-- WIDTH: the partner's receiver asks our transmitter to change: a LANE_MARK group with the new WIDTH and the next EPOCH leaves on
the lowest-numbered good lanes, and every unacknowledged slot is sent again. -/
def execWidth (t : Instant) (p : Port) (block : BitVec 64) (s : State) : Result :=
  portEvent t (fun s =>
    let s := echoCtl p none block s
    let x := getPort s p
    let w : BitVec 2 := fld block 8 2
    let lanes := widthLanes w (maskLanes (fld block 10 4))
    if fldN block 0 8 ≠ 0x66 || w == 3 then s
    else if x.phase == .caps || x.phase == .adapt then updPort s p fun x => { x with widthTx := w, lanesTx := lanes }
    else if x.phase != .up || (w == x.widthTx && lanes == x.lanesTx) then s
    else
      let s := updPort s p fun x => countWidth x.widthTx w { x with
        widthTx := w, lanesTx := lanes, epochTx := x.epochTx + 1, resend := x.replay, dealt := 0 }
      let s := sendMarks p lanes s
      arbitrate (if w == x.widthTx then s else raiseWidth p s)) s

/-- ACK: slots up to SEQ leave the replay buffer. -/
def execAck (t : Instant) (p : Port) (block : BitVec 64) (s : State) : Result :=
  portEvent t (fun s =>
    let s := echoCtl p none block s
    if fldN block 0 8 = 0x87 && !bitAt block 8 && (getPort s p).phase == .up then updPort s p (releaseSlots (fld block 9 12))
    else s) s

/-- NAK: the sender resends from SEQ onward. -/
def execNak (t : Instant) (p : Port) (block : BitVec 64) (s : State) : Result :=
  portEvent t (fun s =>
    let s := echoCtl p none block s
    if fldN block 0 8 = 0x87 && bitAt block 8 && (getPort s p).phase == .up then
      resendFrom p (fun r => decide ((r.seq - fld block 9 12).toNat < 2048)) s
    else s) s

/-- DOZE: the absent signal of this direction is EMPTY slots from now on. -/
def execDoze (t : Instant) (p : Port) (block : BitVec 64) (s : State) : Result :=
  portEvent t (fun s =>
    let s := echoCtl p none block s
    if fldN block 0 8 = 0x99 && (getPort s p).phase == .up then arbitrate (updPort s p fun x => { x with rxDoze := true })
    else s) s

/-- REPLAY_TIMEOUT: no ACK has advanced within 120 slot times. -/
def execReplayTimeout (t : Instant) (p : Port) (s : State) : Result :=
  portEvent t (fun s =>
    let x := getPort s p
    if x.phase == .up && x.ackAt + 120 ≤ x.positions then resendFrom p (fun _ => true) s else s) s

/-! ### Lanes in service (R272, R279, R280) -/

/-- LANE_LOSS. -/
def execLaneLoss (t : Instant) (p : Port) (lane : Fin 4) (s : State) : Result := portEvent t (loseLane p lane.val) s

/-- SHED_TIMEOUT: a shed not complete 5 µs after its cause. -/
def execShedTimeout (t : Instant) (p : Port) (s : State) : Result :=
  portEvent t (fun s => match (getPort s p).ask with
    | some a => if !a.widen && passed s a.since 5000 then hopDown p s else s
    | none => s) s

/-- A figure measured in service, and since when it has been low or good; the CTLE setting stays, the DFE goes on tracking. A lane
in retraining has none yet. -/
def takeFom (now : Nat) (min : Nat) (f : Byte) (dfe : List (BitVec 6)) (l : LaneState) : LaneState :=
  if l.train ≠ 0 then l
  else
    let l := { l with fom := f, dfe := dfe }
    if f.toNat < min then { l with lowSince := some (l.lowSince.getD now), goodSince := none }
    else { l with lowSince := none, goodSince := some (l.goodSince.getD now) }

/-- Lanes in use whose figure has been below FOM_MIN for 10 ms are lost. -/
def loseLowLanes (p : Port) (s : State) : State :=
  (List.range 4).foldl (fun s l => match (laneAt (getPort s p) l).lowSince with
    | some n => if passed s n 10000000 then loseLane p l s else s
    | none => s) s

/-- FOM_MEASURE: a lane in use below FOM_MIN for 10 ms is lost. -/
def execFomMeasure (t : Instant) (p : Port) (eyes : List EyeOpening) (s : State) : Result :=
  portEvent t (fun s =>
    if (getPort s p).phase != .up || (getPort s p).rxDoze then s
    else
      let (d, s) := takeFree s
      loseLowLanes p (updPort s p fun x => { x with
        lanes := x.lanes.zipIdx.map fun l =>
          takeFom s.now.real x.cfg.fomMin.toNat (fomOf (eyes.getD l.2 ⟨0, 0⟩)) (foundDfe d l.2) l.1 })) s

/-- WIDTH_RESTORE: retrained lanes have held their figure for 100 ms, and a wider width is asked for, at most once per
second. -/
def execWidthRestore (t : Instant) (p : Port) (s : State) : Result :=
  portEvent t (fun s =>
    let x := getPort s p
    let held (l : Nat) : Bool := bitAt x.lanesRx l || ((laneAt x l).train = 0 && match (laneAt x l).goodSince with
      | some n => passed s n 100000000
      | none => false)
    let good := byTxLane x ((usableLanes x).filter held)
    let due := match x.lastWiden with
      | some n => passed s n 1000000000
      | none => true
    if x.phase == .up && x.cfg.restoreEn && hasFeature s 4 && x.ask.isNone && due && !good.isEmpty &&
        x.widthRx.toNat < (widest good.length).toNat then
      updPort s p fun x => { x with ask := some {
        good := lanesMask good, width := widest good.length, since := s.now.real, widen := true, epoch := x.epochRx } }
    else s) s

/-! ### Doze (R281, R282) -/

/-- DOZE_ENTRY: after DOZE_IDLE of EMPTY slots, with nothing unacknowledged and no ACK or WIDTH owed, the next control gap carries a
DOZE block, a LANE_MARK group follows, and the lanes go idle. -/
def execDozeEntry (t : Instant) (p : Port) (s : State) : Result :=
  portEvent t (fun s =>
    let x := getPort s p
    let idle := match x.idleSince with
      | some n => passed s n (1000 * x.cfg.dozeIdle.toNat)
      | none => false
    let agrees := match x.partnerCaps with
      | some c => bitAt c 22
      | none => false
    if x.phase == .up && !x.txDoze && x.cfg.dozeEn && agrees && idle && x.replay.isEmpty && !x.ackOwed && !x.nakOwed &&
        x.ask.isNone then
      updPort s p fun x => { x with dozeDue := true }
    else s) s

/-- DOZE_WAKE: a dozing direction with something to send trains for 1.5 µs; a LANE_MARK group and its first slot follow, the slot
2.0 µs after the wake began; the slots that wait are numbered into the replay buffer (R282). -/
def execDozeWake (t : Instant) (p : Port) (s : State) : Result :=
  portEvent t (fun s =>
    let x := getPort s p
    if x.phase == .up && x.txDoze && (!x.transit.isEmpty || ownWaits s p || x.ackOwed || x.nakOwed || x.ask.isSome) then
      let s := updPort s p fun x => { x with
        txDoze := false, idleSince := none, txWakeAt := some s.now.real, dozeWakes := satInc x.dozeWakes }
      let ws := (getPort s p).transit
      let s := updPort s p fun x => { ws.foldl (fun x w => parkSlot w x) x with transit := [] }
      arbitrate s
    else s) s

/-- WAKE_LOCK_TIMEOUT: lanes not locked 10 µs after the signal returned are lost. -/
def execWakeLockTimeout (t : Instant) (p : Port) (locked : BitVec 4) (s : State) : Result :=
  portEvent t (fun s => match (getPort s p).rxWakeAt with
    | some n =>
      if passed s n 10000 then
        let s := updPort s p fun x => { x with rxWakeAt := none }
        (maskLanes (getPort s p).lanesRx).foldl (fun s l => if bitAt locked l then s else loseLane p l s) s
      else s
    | none => s) s

end Sys2Proof.Machine
end

