-- ==== Sys2Proof/Machine/Ring.lean ====
section
/-! DEFINITION. The ring: addresses, topology, rotations, stream ports and ring time (R289–R316, R318). -/
namespace Sys2Proof.Machine

/-- An event of a hop that is UP. -/
def hopEvent (t : Instant) (p : Port) (f : State → State) (s : State) : Result :=
  let s := setNow t s
  .next (if trunkLive s && (getPort s p).phase == .up then f s else s)

/-- An event of the ring logic. -/
def ringEvent (t : Instant) (f : State → State) (s : State) : Result :=
  let s := setNow t s
  .next (if trunkLive s then f s else s)

/-- Word i of a MGMT or TIME slot. -/
def mgmtWord (m : MgmtSlot) (i : Nat) : Word := m.words.getD i 0

/-- The identity a MGMT slot carries. -/
def mgmtId (m : MgmtSlot) : BitVec 64 := join64 (mgmtWord m 1) (mgmtWord m 2)

/-! ### Enumeration (R290–R292) -/

/-- A port as REPORT shows it. -/
def reportPort (x : TrunkPort) : Nat :=
  b2n (x.phase == .up) + 2 * x.rate.toNat + 8 * x.widthTx.toNat + 32 * x.widthRx.toNat + 128 * b2n x.cfg.clocking

/-- The HOPS of a DISCOVER are the way to node 0 on the other ring; a new generation begins with neither known. -/
def noteHops (m : MgmtSlot) (s : State) : State :=
  let g : BitVec 16 := fld (mgmtWord m 1) 0 16
  let r := s.ring
  let r := if g == r.discGen then r else { r with discGen := g, hopsA := none, hopsB := none }
  { s with ring := if m.ringB then { r with hopsB := some m.hops } else { r with hopsA := some m.hops, position := m.hops } }

/-- DISCOVER: the node answers REPORT; HOPS on RING_A is its position. -/
def execDiscover (t : Instant) (p : Port) (slot : MgmtSlot) (s : State) : Result :=
  hopEvent t p (fun s =>
    let s := noteHops slot s
    let ws := idWords s ++ [
      mkWord [(ownFeatures, 24), (slot.hops.toNat, 16), (2, 12), (0, 8), (b2n (s.ring.addrPhase == .confirmed), 0)],
      mkWord [(reportPort s.west, 8), (reportPort s.east, 0)], s.ring.time.delayEast, s.ring.time.delayWest]
    sendMgmt 0x02 0 (ringTo s 0) ws s) s

/-- The PROBE has returned with no CLAIMED: JOIN proposes the address. -/
def probeReturned (s : State) : State :=
  if s.ring.probing && !s.ring.probeClaimed then sendJoin { s with ring := { s.ring with probing := false } } else s

/-- PROBE: own, returned, or another node's; `backoff` is the random wait in µs that a collision begins. -/
def execProbe (t : Instant) (p : Port) (slot : MgmtSlot) (backoff : Nat) (s : State) : Result :=
  hopEvent t p (fun s =>
    if mgmtId slot == s.rst.fuses.deviceId then probeReturned s
    else if s.ring.addrPhase != .none && s.ring.addr == fld (mgmtWord slot 3) 0 7 then
      let s := sendMgmt 0x04 127 false [mgmtWord slot 1, mgmtWord slot 2, wordOf s.ring.addr.toNat] s
      if s.ring.addrPhase == .tentative then collide backoff s else s
    else s) s

/-- CLAIMED: a node holds the address probed. -/
def execClaimed (t : Instant) (p : Port) (slot : MgmtSlot) (backoff : Nat) (s : State) : Result :=
  hopEvent t p (fun s =>
    if mgmtId slot == s.rst.fuses.deviceId && s.ring.addrPhase == .tentative && s.ring.addr == fld (mgmtWord slot 3) 0 7 then
      collide backoff { s with ring := { s.ring with probeClaimed := true } }
    else s) s

/-- JOIN_BACKOFF_END. -/
def execJoinBackoffEnd (t : Instant) (s : State) : Result :=
  ringEvent t (fun s =>
    if s.ring.backoff && decide (s.ring.joinAt.getD 0 ≤ s.now.real) then sendJoin s else s) s

/-- JOIN_RETRY: every 10 ms without an ASSIGN. -/
def execJoinRetry (t : Instant) (s : State) : Result :=
  ringEvent t (fun s =>
    match s.ring.joinAt with
    | some a => if !s.ring.backoff && s.ring.addrPhase != .confirmed && passed s a 10000000 then sendJoin s else s
    | none => s) s

/-- ASSIGN: the node whose identity matches holds the address as confirmed. -/
def execAssign (t : Instant) (p : Port) (slot : MgmtSlot) (s : State) : Result :=
  hopEvent t p (fun s =>
    if mgmtId slot == s.rst.fuses.deviceId then
      let a : BitVec 7 := fld (mgmtWord slot 3) 0 7
      { s with ring := { s.ring with addrPhase := .confirmed, addr := a, lastAddr := a, probing := false, collided := false,
                                     backoff := false, joinAt := none } }
    else s) s

/-! ### TOPOLOGY (R292, R305, R307, R310) -/

/-- Stream i uses feature bit f: Filet coding 1, basting 2. -/
def usesFeature (s : State) (i f : Nat) : Bool :=
  (stream s i).enabled && (if f = 1 then (streamCfg s i).filet != 0 else (streamCfg s i).basteEn)

/-- A feature is lost: every stream that uses it stops, and STREAM_FEATURE_LOST names it. -/
def loseFeature (f : Nat) (s : State) : State :=
  (List.range 8).foldl (fun s i =>
    if usesFeature s i f then raise 0x0301 i f 0 (haltStream i true 7 s) else s) s

/-- 60 % of the ring capacity, rounded down. -/
def bastedShare (c : BitVec 20) : Nat := c.toNat * 3 / 5

/-- Basting of stream i is suspended or resumed as the capacity moves (R305). -/
def noteSuspend (s : State) (i : Nat) : State :=
  match assignOf s i with
  | none => s
  | some a =>
    let low := a.basted && decide (bastedShare s.ring.cRing < a.peak.toNat)
    let set (v : Bool) (s : State) : State :=
      { s with ring := { s.ring with ports := s.ring.ports.set i (some { a with suspended := v }) } }
    if low && !a.suspended then raise 0x050D i 0 0 (set true s)
    else if !low && a.suspended then raise 0x050E i 0 0 (set false s)
    else s

/-- A wrap ends: RING_UNWRAP. -/
def unwrapPort (p : Port) (s : State) : State :=
  if wrapsAt s p && (getPort s p).phase == .up then raise 0x050B (portNo p) 0 0 (setWrap p false s) else s

/-- TOPOLOGY is applied as it is received. -/
def applyTopology (w1 w2 w3 w4 : Word) (s : State) : State :=
  let gen : BitVec 16 := fld w1 0 16
  let new : BitVec 8 := fld w1 24 8
  let old := s.ring.features
  let east : BitVec 7 := fld w4 0 7
  let west : BitVec 7 := fld w4 8 7
  let r := s.ring
  let listed (e w : BitVec 7) : Nat := b2n (e != 0x7F) + b2n (w != 0x7F)
  let before := if r.topoSeen then listed r.wrappedEast r.wrappedWest else 0
  let saw := r.sawUnwrap || decide (listed east west < before)
  let fresh := !r.topoSeen || r.gen != gen
  let mine := ownSrc s
  let ends := [Port.east, .west].any fun p => wrapsAt s p && (getPort s p).phase == .up
  let free := mine == 0x7F || (mine != east && mine != west)
  let none0 := east == 0x7F && west == 0x7F
  let cleared := (ends && free) || (none0 && (r.unwrapped || 0 < before))
  let s := { s with ring := { r with
    gen := gen, nodes := fld w1 16 8, features := new, cRing := fld w2 0 20, tRotNs := w3, wrappedEast := east
    wrappedWest := west, topoSeen := true, sawUnwrap := saw, unwrapped := cleared
    isString := east != 0x7F && west != 0x7F && !saw } }
  let s := if fresh then raise 0x050C gen.toNat (new.toNat + 256 * fldN w1 16 8) 0 s else s
  let s := if free then unwrapPort .west (unwrapPort .east s) else s
  let s := if bitAt old 1 && !bitAt new 1 then loseFeature 1 s else s
  let s := if bitAt old 2 && !bitAt new 2 then loseFeature 2 s else s
  (List.range 8).foldl noteSuspend s

/-- TOPOLOGY. -/
def execTopology (t : Instant) (p : Port) (slot : MgmtSlot) (s : State) : Result :=
  hopEvent t p (applyTopology (mgmtWord slot 1) (mgmtWord slot 2) (mgmtWord slot 3) (mgmtWord slot 4)) s

/-! ### Rotations (R301, R311) -/

/-- A new rotation on a direction: its counts begin again. -/
def newRotation (ringB : Bool) (s : State) : State :=
  { s with ring := { s.ring with
    usedP2A := if ringB then s.ring.usedP2A else []
    usedP2B := if ringB then [] else s.ring.usedP2B
    usedP3A := if ringB then s.ring.usedP3A else 0
    usedP3B := if ringB then 0 else s.ring.usedP3B } }

/-- ROTOR. -/
def execRotor (t : Instant) (p : Port) (slot : MgmtSlot) (s : State) : Result :=
  hopEvent t p (fun s =>
    let seq := mgmtWord slot 1
    let last := if slot.ringB then s.ring.rotSeqB else s.ring.rotSeqA
    let fresh := last != some seq
    let q : BitVec 16 := fld (mgmtWord slot 2) 0 16
    let s := { s with ring := { s.ring with
      rotSeqA := if slot.ringB then s.ring.rotSeqA else some seq
      rotSeqB := if slot.ringB then some seq else s.ring.rotSeqB
      q3A := if slot.ringB then s.ring.q3A else q
      q3B := if slot.ringB then q else s.ring.q3B
      tRotNs := mgmtWord slot 3, lastRotor := some s.now.real, ownerFrom := some s.now.real, ownerLost := false } }
    if fresh then newRotation slot.ringB s else s) s

/-- OWNER_LOST: no ROTOR for 1 ms. -/
def execOwnerLost (t : Instant) (s : State) : Result :=
  ringEvent t (fun s =>
    match s.ring.ownerFrom with
    | some a =>
      if !s.ring.ownerLost && passed s a 1000000 then
        raise 0x050F 0 0 0 (newRotation true (newRotation false { s with ring := { s.ring with
          ownerLost := true, selfAt := s.now.real } }))
      else s
    | none => s) s

/-- SELF_ROTATION: every 20 µs while the owner is lost. -/
def execSelfRotation (t : Instant) (s : State) : Result :=
  ringEvent t (fun s =>
    if s.ring.ownerLost && passed s s.ring.selfAt 20000 then
      newRotation true (newRotation false { s with ring := { s.ring with selfAt := s.now.real } })
    else s) s

/-- WRAP of another node: turned slots belong on the ring again. -/
def execWrap (t : Instant) (p : Port) (slot : MgmtSlot) (s : State) : Result :=
  hopEvent t p (fun s =>
    if bitAt (mgmtWord slot 1) 9 then { s with ring := { s.ring with unwrapped := false } } else s) s

/-! ### Stream ports (R303, R304) -/

/-- An assignment that asks for nothing. -/
def noAssign : PortAssign := { port := 0, dest := 0, dir := false, basted := false, rsv := 0, peak := 0 }

/-- The words of PORT_ASSIGN in force for a stream. -/
def assignWords (a : PortAssign) : List Word :=
  [mkWord [(b2n a.basted, 22), (b2n a.dir, 21), (a.dest.toNat, 9), (a.port.toNat, 0)], wordOf a.rsv.toNat, wordOf a.peak.toNat]

/-- The assignment that words ask for. -/
def assignOfWords (ws : List Word) : PortAssign :=
  let w := paramAt ws 0
  { port := fld w 0 9, dest := fld w 9 7, dir := bitAt w 21, basted := bitAt w 22, rsv := fld (paramAt ws 1) 0 20
    peak := fld (paramAt ws 2) 0 20 }

/-- Reservations of the device's other streams in a direction. -/
def reservedIn (s : State) (stream : Nat) (dir : Bool) : Nat :=
  (List.range 9).foldl (fun a i => match assignOf s i with
    | some x => if i ≠ stream ∧ x.dir = dir then a + x.rsv.toNat else a
    | none => a) 0

/-- Another stream of the device holds a stream port. -/
def portTaken (s : State) (stream : Nat) (port : BitVec 9) : Bool :=
  (List.range 9).any fun i => decide (i ≠ stream) && (assignOf s i).any fun x => x.port == port

/-- Set or withdraw the assignment of a stream. -/
def setAssign (i : Nat) (a : Option PortAssign) (s : State) : State :=
  { s with ring := { s.ring with ports := s.ring.ports.set i a, txRest := s.ring.txRest.filter fun x => x.1 != i } }

/-- PORT_ASSIGN: admitted, it broadcasts CLAIM and waits for its return. -/
def portAssignBody (c : Cmd) (s : State) : CmdResult :=
  let w0 := paramAt c.words 0
  let i := fldN w0 16 4
  let a := assignOfWords (overlay c.words (assignWords ((assignOf s i).getD noAssign)))
  judged c.words [0xEFFFFF, 0xFFFFF, 0xFFFFF] s <|
    if 8 < i then cmdBad s 0
    else if bitAt w0 23 then
      (if streamOn s i then cmdRefuse s .wrongState else cmdOk (setAssign i none s) [wordOf s.ring.cRing.toNat])
    else if (s.ring.addrPhase != .none && a.dest == s.ring.addr) || portTaken s i a.port then cmdBad s 0
    else if a.dir && !dualRing s then cmdRefuse s .notPermitted
    else if streamOn s i then cmdRefuse s .wrongState
    else if s.ring.cRing.toNat < reservedIn s i a.dir + a.rsv.toNat || s.ring.cRing.toNat < a.peak.toNat ||
        (a.basted && bastedShare s.ring.cRing < a.peak.toNat) then cmdRefuse s .bandwidthRefused
    else
      let s := { s with ring := { s.ring with claim := some (i, a, s.now.real) } }
      cmdHeld (sendMgmt 0x0A 127 false [wordOf a.port.toNat] s)

/-- PORT_ASSIGN. -/
def execPortAssign (t : Instant) (s : State) : Result := runCmd t 0x0504 portAssignBody s

/-- The claim ends with BUSY; a collision is counted and raised. -/
def loseClaim (collision : Bool) (port : BitVec 9) (s : State) : State :=
  let s := { s with ring := { s.ring with claim := none } }
  let s := if collision then
      raise 0x0509 port.toNat 0 0 { s with ring := { s.ring with collisions := satInc s.ring.collisions } }
    else s
  finishHeld 0x0504 (fun _ s => cmdRefuse s .busy) s

/-- The CLAIM has returned: the assignment takes effect and the reply follows. -/
def winClaim (i : Nat) (a : PortAssign) (s : State) : State :=
  finishHeld 0x0504 (fun _ s => cmdOk s [wordOf s.ring.cRing.toNat])
    (setAssign i (some a) { s with ring := { s.ring with claim := none } })

/-- CLAIM: own, returned within 100 µs; or another node's for a port this device holds or claims. -/
def execClaim (t : Instant) (p : Port) (slot : MgmtSlot) (s : State) : Result :=
  hopEvent t p (fun s =>
    let port : BitVec 9 := fld (mgmtWord slot 1) 0 9
    if s.ring.addrPhase != .confirmed then s
    else if slot.src == s.ring.addr then
      match s.ring.claim with
      | some (i, a, since) =>
        if a.port != port then s else if s.now.real ≤ since + 1600000 then winClaim i a s else loseClaim false port s
      | none => s
    else if (List.range 9).any fun i => (assignOf s i).any fun x => x.port == port then
      sendMgmt 0x0B slot.src (ringTo s slot.src) [wordOf port.toNat] s
    else
      match s.ring.claim with
      | some (_, a, _) => if a.port == port && slot.src.toNat < s.ring.addr.toNat then loseClaim true port s else s
      | none => s) s

/-- PORT_HELD. -/
def execPortHeld (t : Instant) (p : Port) (slot : MgmtSlot) (s : State) : Result :=
  hopEvent t p (fun s =>
    match s.ring.claim with
    | some (_, a, _) =>
      if slot.dest == s.ring.addr && a.port == fld (mgmtWord slot 1) 0 9 then loseClaim true a.port s else s
    | none => s) s

/-- CLAIM_TIMEOUT. -/
def execClaimTimeout (t : Instant) (s : State) : Result :=
  ringEvent t (fun s =>
    match s.ring.claim with
    | some (_, a, since) => if passed s since 100000 then loseClaim false a.port s else s
    | none => s) s

/-! ### Ring time (R313–R316) -/

/-- The receive hop delay of a port, in 1/16 ns. -/
def portDelay (s : State) : Port → Word
  | .west => s.ring.time.delayWest
  | .east => s.ring.time.delayEast

/-- DELAY_REQ: the neighbour is answered with the time its request arrived; t3 is set as the answer leaves. -/
def execDelayReq (t : Instant) (p : Port) (slot : MgmtSlot) (s : State) : Result :=
  hopEvent t p (fun s =>
    let t2 : BitVec 64 := BitVec.ofNat 64 (ringCount s)
    sendMgmt 0x0D 127 (portRingB p) [mgmtWord slot 1, mgmtWord slot 2, lo32 t2, hi32 t2, lo32 t2, hi32 t2] s) s

/-- DELAY_RESP: the receive hop delay is ((t4 - t1) - (t3 - t2)) / 2. -/
def execDelayResp (t : Instant) (p : Port) (slot : MgmtSlot) (s : State) : Result :=
  hopEvent t p (fun s =>
    let q (i : Nat) : Int := (join64 (mgmtWord slot i) (mgmtWord slot (i + 1))).toNat
    let d := (((ringCount s : Int) - q 1) - (q 5 - q 3)) / 2
    let w := wordOf d.toNat
    { s with ring := { s.ring with time :=
      (match p with
       | .west => { s.ring.time with delayWest := w }
       | .east => { s.ring.time with delayEast := w }) } }) s

/-- HOP_DELAY_MEASURE: every second with TIME_V2. -/
def execHopDelayMeasure (t : Instant) (p : Port) (s : State) : Result :=
  hopEvent t p (fun s =>
    if hasFeature s 3 && passed s (getPort s p).delayAt 1000000000 then sendDelayReq p s else s) s

/-- The state with ring time changed. -/
def updTime (f : RingTime → RingTime) (s : State) : State := { s with ring := { s.ring with time := f s.ring.time } }

/-- The count steps to a value; after a step back, microsecond ticks go on with the next multiple it passes (R315, R447). -/
def stepTo (v : Nat) (s : State) : State :=
  let back (x : TimerChan) : TimerChan := { x with usMark := min x.usMark (v / 16000) }
  updTime (fun x => { x with count := v, asOf := s.now.real, slew := 0, drift := 0, gain := 0, span := 0 })
    { s with timers := { s.timers with chans := s.timers.chans.map back } }

/-- The count runs on from where it stands and slews by `off`. What it gained on the local clock since the last result of LOCKED is
its disciplined rate from now on. -/
def slewBy (off : Int) (s : State) : State :=
  let c := ringCount s
  let x := s.ring.time
  let dt := s.now.real - x.asOf
  let locked := x.lock == .locked
  updTime (fun x => { x with
    count := c, asOf := s.now.real, slew := off, drift := 0
    gain := if locked then (c : Int) - x.count - dt else x.gain, span := if locked then dt else x.span }) s

/-- A TIME result disciplines the count (R315). -/
def takeTime (result : Int) (s : State) : State :=
  let off := result - (ringCount s : Int)
  let far := decide (16000 < off.natAbs)
  let near := decide (off.natAbs ≤ 400)
  let s := updTime (fun x => { x with offset := wordOfInt off, timeSlots := satInc x.timeSlots }) s
  let unlock (s : State) : State := updTime (fun x => { x with lock := .unlocked, good := 0 }) (stepTo result.toNat s)
  match s.ring.time.lock with
  | .unlocked =>
    let good := if near then s.ring.time.good + 1 else 0
    let s := updTime (fun x => { x with good := good }) (stepTo result.toNat s)
    if 8 ≤ good then raise 0x0510 0 0 0 (updTime (fun x => { x with lock := .locked, good := 0 }) s) else s
  | .locked => if far then unlock s else slewBy off s
  | .holdover =>
    if far then unlock s
    else raise 0x0510 0 0 0 (updTime (fun x => { x with lock := .locked }) (slewBy off s))

/-- TIME: RING_A slots are used, RING_B slots while none arrives on RING_A. -/
def execTime (t : Instant) (p : Port) (slot : MgmtSlot) (s : State) : Result :=
  hopEvent t p (fun s =>
    let s := updTime (fun x => { x with lastAny := some s.now.real }) s
    let s := if slot.ringB then s else updTime (fun x => { x with lastRingA := some s.now.real, useB := false }) s
    if slot.ringB && !s.ring.time.useB then s
    else
      let origin := (join64 (mgmtWord slot 0) (mgmtWord slot 1)).toNat
      let corr := (join64 (mgmtWord slot 2) (mgmtWord slot 3)).toInt
      takeTime (16 * (origin : Int) + corr + ((portDelay s p).toNat : Int)) s) s

/-- TIME_RING_A_TIMEOUT: none on RING_A for 1 ms. -/
def execTimeRingATimeout (t : Instant) (s : State) : Result :=
  ringEvent t (fun s =>
    if passed s (s.ring.time.lastRingA.getD 0) 1000000 then updTime (fun x => { x with useB := true }) s else s) s

/-- The count runs on at its last disciplined rate and drifts from there by at most 2 ns per ms, a drift that is free within that bound. -/
def holdOver (s : State) : State :=
  let (w, s) := takeFree s
  let c := ringCount s
  updTime (fun x => { x with count := c, asOf := s.now.real, slew := 0, lock := .holdover, good := 0
                             drift := ((w.toNat % 65 : Nat) : Int) - 32 }) s

/-- TIME_HOLDOVER: no TIME slot has arrived for 2 ms; before the first one the state stays UNLOCKED (log entry 176). -/
def execTimeHoldover (t : Instant) (s : State) : Result :=
  ringEvent t (fun s =>
    match s.ring.time.lastAny with
    | some a =>
      if s.ring.time.lock != .holdover && passed s a 2000000 then raise 0x0511 0 0 0 (holdOver s) else s
    | none => s) s

/-- LOCK of TIME_SYNC. -/
def lockCode : TimeLock → Nat
  | .unlocked => 0
  | .locked => 1
  | .holdover => 2

/-- TIME_SYNC. -/
def timeSyncBody (c : Cmd) (s : State) : CmdResult :=
  let x := s.ring.time
  judged c.words [0] s <| cmdOk s [lo32 (ringStamp s), hi32 (ringStamp s), mkWord [(b2n (hasFeature s 3), 2), (lockCode x.lock, 0)],
      x.offset, x.delayWest, x.delayEast, x.timeSlots]

/-- TIME_SYNC. -/
def execTimeSync (t : Instant) (s : State) : Result := runCmd t 0x0505 timeSyncBody s

/-! ### RING_MAP (R318) -/

/-- RING_MAP. -/
def ringMapBody (c : Cmd) (s : State) : CmdResult :=
  let r := s.ring
  let present := match r.lastRotor with
    | some a => !passed s a 1000000
    | none => false
  judged c.words [0] s <| cmdOk s [
      mkWord [(r.gen.toNat, 16), (r.nodes.toNat, 8), (b2n (r.addrPhase == .confirmed), 7), (r.addr.toNat, 0)],
      mkWord [(r.features.toNat, 24), (r.position.toNat, 16), (b2n present, 3), (b2n r.isString, 2), (b2n r.wrapWest, 1),
        (b2n r.wrapEast, 0)],
      wordOf r.cRing.toNat, r.tRotNs, r.orphans, r.wraps, r.collisions]

/-- RING_MAP. -/
def execRingMap (t : Instant) (s : State) : Result := runCmd t 0x0503 ringMapBody s

end Sys2Proof.Machine
end

