-- ==== Sys2Proof/Machine/Drain.lean ====
section
/-! DEFINITION. Stream packets leave: reservation and quota, the STATS stream, frames sent, STREAM_DISABLE (R200, R219, R221,
R301). -/
namespace Sys2Proof.Machine

/-! ### Allowances of a rotation (R301) -/

/-- The direction a stream inserts on: RING_B only with DUAL_RING (R307). -/
def streamRingB (s : State) (a : PortAssign) : Bool := a.dir && dualRing s

/-- P2 slots stream i may still insert in this rotation of its direction. -/
def leftP2 (s : State) (i : Nat) (a : PortAssign) : Nat :=
  let most := (a.rsv.toNat * s.ring.tRotNs.toNat + 999999) / 1000000
  most - smGet 0 (if streamRingB s a then s.ring.usedP2B else s.ring.usedP2A) i

/-- P3 slots left in this rotation of a direction. -/
def leftP3 (s : State) (ringB : Bool) : Nat :=
  if ringB then s.ring.q3B.toNat - s.ring.usedP3B else s.ring.q3A.toNat - s.ring.usedP3A

/-- Count an inserted slot of stream i at P2 or P3. -/
def countInserted (i : Nat) (p3 ringB : Bool) (s : State) : State :=
  let r := s.ring
  { s with ring :=
    (match p3, ringB with
     | false, false => { r with usedP2A := smUpd 0 r.usedP2A i (· + 1) }
     | false, true => { r with usedP2B := smUpd 0 r.usedP2B i (· + 1) }
     | true, false => { r with usedP3A := r.usedP3A + 1 }
     | true, true => { r with usedP3B := r.usedP3B + 1 }) }

/-! ### Packets in transmission -/

/-- The slots of stream i's packet that are not inserted yet. -/
def restOf (s : State) (i : Nat) : List RawSlot := ((s.ring.txRest.find? fun x => x.1 == i).map (·.2)).getD []

/-- Set them. -/
def setRest (i : Nat) (xs : List RawSlot) (s : State) : State :=
  let others := s.ring.txRest.filter fun x => x.1 != i
  { s with ring := { s.ring with txRest := if xs.isEmpty then others else others ++ [(i, xs)] } }

/-- The oldest set the STATS stream has still to send. -/
def oldestUnsent (s : State) : Option (Nat × SetSlot) :=
  (List.range 20).foldl (fun (a : Option (Nat × SetSlot)) k =>
    match s.back.sets.getD k none, a with
    | some x, some y => if x.unsent && x.order < y.2.order then some (k, x) else a
    | some x, none => if x.unsent then some (k, x) else none
    | none, _ => a) none

/-- A STATS packet leaves the Sampler output area: type 6, FRAME_ID, then the set as read. -/
def leaveStats (port : BitVec 9) (s : State) : Option (List Word × State) :=
  match oldestUnsent s with
  | none => none
  | some (k, x) =>
    let ws := memWords s.dram (setBase k) 50593
    let w := finishPacket (packet 6 (x.frame.id :: ws)) (stream s 8).pseq port
    let s := correctRead (setBase k) 202372
      (countCommonUe 6 (holderOf (setBase k)) (badWordsIn s (setBase k) 202372).length s)
    let s := updStream s 8 fun t => { t with pseq := t.pseq + 1 }
    some (w, { s with
      back := { s.back with sets := s.back.sets.set k (some { x with unsent := false }) }
      out := { s.out with packets := s.out.packets ++ [⟨8, w⟩] } })

/-- A frame that has left makes way for the next one. -/
def makeWay (i : Nat) (s : State) : State := if 1 < (stream s i).entries.length then tryRelease (retireHead i s) else s

/-- Turn over bits of a word of the packet at the head of stream i: a bad word of the buffer leaves as read, in a word past
the packet's own header that is free (R97). -/
def spoilHead (i : Nat) (s : State) : State :=
  let (f, s) := takeFree s
  let (g, s) := takeFree s
  let turn (p : List Word) : List Word := p.modify (3 + f.toNat % (p.length - 3)) (· ^^^ wordOf (errorBits g % 2 ^ 32))
  updStream s i fun t => { t with entries := t.entries.modify 0 fun e => match e.waiting with
    | p :: ps => corruptEntry { e with waiting := (if 3 < p.length then turn p else p) :: ps }
    | [] => e }

/-- The errors of the buffer words that the packet at the head of stream i lies in, as it is read to leave (R94, R97). -/
def readBuffer (i : Nat) (ecc : List EccHit) (s : State) : State :=
  let ecc := ecc.filter fun h => passingWord h.word
  let bad := ecc.filter (·.double)
  let s := bad.foldl (fun s h => spoilHead i (countCommonUe 5 (holderOf (8 * h.word)) 1 s)) s
  { s with accCnt := { s.accCnt with eccCe := satAdd s.accCnt.eccCe (ecc.length - bad.length) } }

/-- The next packet of a stream begins to leave; `ecc`: the errors that its words hold. -/
def beginPacket (i : Nat) (a : PortAssign) (ecc : List EccHit) (s : State) : State :=
  let s := if i < 8 then readBuffer i ecc (makeWay i s) else markEcc ecc s
  match (if i < 8 then leavePacket i s else leaveStats a.port s) with
  | none => s
  | some (w, s) => setRest i (packetSlots s 1 3 a.dest a.port (streamRingB s a) w) s

/-- A slot with its priority. -/
def withPrio (x : RawSlot) (prio : Nat) : RawSlot := { x with hdr := setFld64 x.hdr 12 2 prio }

/-- On the limp clock no frame is sent: the Bureau sends the RETRACTs of a stream, the first of them now (R122, R357; log entry
162). -/
def retractFirst (i : Nat) (s : State) : State :=
  match removeFirst (fun e => e.kind == .retract && !e.waiting.isEmpty) (stream s i).entries with
  | some (e, a, b) => updStream s i fun t => { t with entries := e :: (a ++ b) }
  | none => s

/-- Stream i may begin a packet now: on the limp clock a RETRACT only. -/
def mayBegin (s : State) (i : Nat) : Bool :=
  !s.clock.limp || (stream s i).entries.any fun e => e.kind == .retract && !e.waiting.isEmpty

/-- STREAM_PACKET_DRAIN: the packet at the head of a stream begins to leave, once the packet before it is inserted whole: its slots
are ready, and slot positions insert them at P2 within the reservation of the rotation and at P3 within the quota (R219, R299,
R301; log entry 78). -/
def execStreamPacketDrain (m : MemRead) (stream : Fin 9) (s : State) : Result :=
  let s := setNow m.t s
  let i := stream.val
  .next (match assignOf s i with
    | none => s
    | some a =>
      if !trunkLive s || s.ring.addrPhase != .confirmed || !(restOf s i).isEmpty || !mayBegin s i then s
      else beginPacket i a m.ecc (if s.clock.limp then retractFirst i s else s))

/-- Every slot of stream i has left the port. -/
def slotsGone (s : State) (i : Nat) : Bool := (restOf s i).isEmpty

/-- STREAM_DISABLE is answered when the last packet of its streams has left (R200). -/
def settleDisable (s : State) : State :=
  match heldCmd s 0x0303 with
  | none => s
  | some c =>
    if (namedStreams (paramAt c.words 0)).any fun i => (stream s i).stopping then s
    else finishHeld 0x0303 (fun _ s => cmdOk s) s

/-- STREAM_FRAME_SENT: the frame at the head of a stream has left the port (R217). -/
def execStreamFrameSent (t : Instant) (stream : Fin 9) (s : State) : Result :=
  let s := setNow t s
  let i := stream.val
  if slotsGone s i then
    .next (settleDisable (doneStopping i (tryRelease (retireHead i s))))
  else .next s

/-- STREAM_DISABLE. -/
def execStreamDisable (t : Instant) (s : State) : Result := runCmd t 0x0303 streamDisableBody s

end Sys2Proof.Machine
end

