-- ==== Sys2Proof/Machine/Exposure.lean ====
section
/-! DEFINITION. Exposure: frame boundaries, triggers, ticks, the exposure output, starting and stopping capture, and the
capture commands (R41–R45, R55–R88, R114, R334). -/
namespace Sys2Proof.Machine

/-! ### Stopping (R75, R122, R123) -/

/-- The RETRACT reason of a stop cause (R210). -/
def retractReason : StopCause → Nat
  | .rootLost => 2
  | .reset => 5
  | _ => 1

/-- The code of a stop cause in CAPTURE_STOPPED (R345). -/
def stopCode : StopCause → Nat
  | .command => 0
  | .rootLost => 1
  | .thermalHold => 2
  | .reset => 3

/-- Capture counts as stopped: CAPTURE_STOPPED, the RETRACT of an abandoned frame, a fired freeze's set, and the device is
Idle (R75, R82, R122, R380). -/
def countStopped (s : State) : State :=
  let s := raise 0x0101 (stopCode s.exposure.stopCause) s.exposure.frameId.toNat 0
    { s with
      exposure := { s.exposure with
        phase := .stopped, nextFb := none, burstLeft := 0, edgeDeferred := false, edgeQueue := []
        openRungs := 0, earlyHeld := [] }
      power := { s.power with phase := .idle } }
  let s := s.exposure.abandoned.foldl (fun s id => retractFrame id (retractReason s.exposure.stopCause) s) s
  arbitrate (noteStop (freezeAtStop { s with exposure := { s.exposure with abandoned := [] } }))

/-- The frame in progress: it has begun and its last sub-frame boundary is still to come. -/
def frameInProgress (s : State) : Option FrameRec :=
  match s.exposure.cur with
  | some f =>
    if s.exposure.phase == .stopped then none
    else if s.exposure.nextJ < subFrames f.cfg then some f else none
  | none => none

/-- Capture has nothing left to read (R75). -/
def readsDone (s : State) : Bool :=
  s.readout.run.isNone && (s.exposure.immediate || (frameInProgress s).isNone)

/-- Count capture as stopped if it is stopping and the last readout has ended. -/
def settleStop (s : State) : State := if s.exposure.phase == .stopping && readsDone s then countStopped s else s

/-- The frames with a sub-frame not yet read, oldest first: the one a readout still reads, and the frame in progress (R75). -/
def unreadFrames (s : State) : List FrameId :=
  let cur := ((frameInProgress s).map (·.id)).toList
  match s.readout.run with
  | some r => if cur.contains r.frame.id then cur else r.frame.id :: cur
  | none => cur

/-- LAST_FRAME of a stop that abandons the frame in progress: the last frame whose sub-frames were all read before the stop
(R75, R123; log entry 155). -/
def lastWhole (s : State) : FrameId :=
  match unreadFrames s with
  | id :: _ => id - 1
  | [] => if s.exposure.cur.isNone then s.exposure.firstId - 1 else s.exposure.frameId

/-- The cause of a stop that comes now: the first of a capture that stops already (R385; log entry 181). -/
def firstCause (cause : StopCause) (s : State) : StopCause :=
  if s.exposure.phase == .stopping then s.exposure.stopCause else cause

/-- Stop at once: no further SB, a sub-exposure in progress ends, and every frame not read whole is abandoned; a readout in
progress completes (R75, R86, R123). `last` is the LAST_FRAME of the stop. -/
def stopImmediate (cause : StopCause) (last : FrameId) (s : State) : State :=
  let cut := unreadFrames s
  let s := { s with exposure := { s.exposure with
    phase := .stopping, immediate := true, stopCause := firstCause cause s, lastFrame := last, nextFb := none, burstLeft := 0
    edgeDeferred := false, edgeQueue := [], openRungs := 0, earlyHeld := [], abandoned := cut
    xoUntil := min s.exposure.xoUntil (s.now.tclk + s.exposure.trig.xoTail.toNat) } }
  settleStop (cut.foldl (fun s id => abandonFrame id s) s)

/-- A stop the device forces (R75): thermal hold. -/
def forceStop (cause : StopCause) (s : State) : State :=
  if s.exposure.phase == .stopped || s.exposure.immediate then s
  else stopImmediate cause (lastWhole s) s

/-- Capture ends with the gating of its clocks or with a reset: words not yet sent are lost and every frame not released
is abandoned (R50, R123). -/
def haltCapture (cause : StopCause) (s : State) : State :=
  let last := s.exposure.lastReleased
  let running := s.exposure.phase != .stopped
  let pend := s.accum.frames.map fun a => a.frame.id
  let s := { s with readout := { s.readout with run := none, bonds := [] } }
  let s := if running && !s.exposure.immediate then stopImmediate cause last s
    else if running then settleStop s else s
  pend.foldl (fun s id => retractFrame id (retractReason cause) (abandonFrame id s)) s

/-! ### Boundaries (R57, R78, R80) -/

/-- The instant of the next frame boundary as it stands: a deferred edge starts its frame at the earliest admissible
boundary, any other boundary is stretched under R57. -/
def dueBoundary (s : State) : Option Nat :=
  match s.exposure.nextFb with
  | some fb => some (match lastBoundary s with
    | some sb => leastBoundary s s.exposure.nextId fb (stretchBound s sb)
    | none => fb)
  | none => if s.exposure.edgeDeferred then some (earliestBoundary s) else none

/-- The boundary of the next frame as far as it is known: in ring-time mode a grid point still to come (R80). -/
def comingBoundary (s : State) : Option Nat :=
  match dueBoundary s with
  | some fb => some fb
  | none => nextBoundary s

/-- All sub-frames of the current frame have had their boundary. -/
def frameFull (s : State) : Bool :=
  match s.exposure.cur with
  | some f => decide (subFrames f.cfg ≤ s.exposure.nextJ)
  | none => true

/-- The oldest edge that waits gets its turn once no frame is placed and no burst runs (R78). -/
def nextEdge (s : State) : State :=
  if s.exposure.nextFb.isSome || s.exposure.edgeDeferred || s.exposure.burstLeft ≠ 0 then s
  else match s.exposure.edgeQueue with
    | [] => s
    | some fb :: q => { s with exposure := { s.exposure with nextFb := some fb, nextFbNom := fb, edgeQueue := q } }
    | none :: q => { s with exposure := { s.exposure with edgeDeferred := true, edgeQueue := q } }

/-- FB(n) at `fb`: FRAME_ID advances, the class F values latch, the frame tick fires (R55, R57, R69, R71, R85). A frame without
a placed boundary is the deferred edge's (R78). -/
def beginFrame (fb : Nat) (s : State) : State :=
  let n := s.exposure.nextId
  let nominal := s.exposure.nextFb.getD fb
  let pin := s.exposure.trig.mode == 1
  let fresh := pin && s.exposure.burstLeft = 0
  let s := latchClassF pin fb n s
  let f : FrameRec := {
    id := n, fb := fb, stamp := ringStamp s, gFirst := s.exposure.g
    params := frameParamsFor s s.exposure.inForce, pipe := s.front.params, cfg := s.exposure.cfg
    mask := s.readout.enableMask }
  let nom := fb + subFrames f.cfg * frameTSub f
  let t := s.exposure.trig
  let left := if pin then (if fresh then t.burst.toNat - 1 else s.exposure.burstLeft - 1) else 0
  let again := t.mode == 0 || decide (0 < left)
  let s := { s with
    accum := { s.accum with withdrawn := s.accum.withdrawn.filter (· != n) }
    exposure := { s.exposure with
      frameId := n, nextId := n + 1, cur := some f, begun := true, starts := (n, fb) :: s.exposure.starts, nextJ := 0, frameTick := some fb, subTick := some fb
      nextFb := if again then some nom else none, nextFbNom := nom, burstLeft := left
      edgeDeferred := s.exposure.edgeDeferred && s.exposure.nextFb.isSome }
    expCnt := { s.expCnt with
      framesStarted := satInc s.expCnt.framesStarted
      fbStretched := if nominal < fb then satInc s.expCnt.fbStretched else s.expCnt.fbStretched } }
  arbitrate (freezeAtBoundary n fb (vendorRestart (nextEdge s)))

/-- FB(n) occurs. -/
def execFrameBoundary (t : Instant) (s : State) : Result :=
  let s := setNow t s
  match dueBoundary s with
  | some fb =>
    if s.exposure.phase == .running && fb ≤ t.tclk && frameFull s then .next (beginFrame fb s) else .next s
  | none => .next s

/-- The sub-frame tick at SB(n, j) - D_0 (R85). -/
def execSubFrameTick (t : Instant) (s : State) : Result :=
  let s := setNow t s
  match s.exposure.cur with
  | some f =>
    let tick := f.fb + s.exposure.nextJ * frameTSub f
    if s.exposure.phase != .stopped && !s.exposure.immediate && s.exposure.nextJ < subFrames f.cfg && tick ≤ t.tclk then
      .next { s with exposure := { s.exposure with subTick := some tick } }
    else .next s
  | none => .next s

/-! ### Sub-exposures and the exposure output (R59, R86) -/

/-- The sub-exposure span of a rung in the sub-frame whose boundary is next. -/
def nextSpan (s : State) (k : Nat) : Option (Nat × Nat) :=
  match s.exposure.cur with
  | some f =>
    if s.exposure.phase != .stopped && !s.exposure.immediate && s.exposure.nextJ < subFrames f.cfg then
      some (exposureSpan f k s.exposure.nextJ)
    else none
  | none => none

/-- A rung's sub-exposure begins. -/
def execSubExposureStart (t : Instant) (rung : Fin 8) (s : State) : Result :=
  let s := setNow t s
  match nextSpan s rung.val with
  | some (a, b) =>
    if a ≤ t.tclk && t.tclk < b then
      .next { s with exposure := { s.exposure with
        openRungs := s.exposure.openRungs ||| BitVec.ofNat 8 (2 ^ rung.val) } }
    else .next s
  | none => .next s

/-- In CENTRE alignment a tile on a shorter rung ends its sub-exposure itself and holds its photodiodes in reset until
SB (R59). -/
def execEarlyTransfer (t : Instant) (tile : TileIx) (s : State) : Result :=
  let s := setNow t s
  match s.exposure.cur with
  | some f =>
    let k := frameRung f tile.val s.exposure.nextJ
    match nextSpan s k with
    | some (_, b) =>
      if f.cfg.exposure.centre && frameTile f tile.val && rungDur f.params k < f.params.d0.toNat && b ≤ t.tclk then
        .next { s with exposure := { s.exposure with earlyHeld := insNat s.exposure.earlyHeld tile.val } }
      else .next s
    | none => .next s
  | none => .next s

/-- The asserted interval of the exposure output for sub-frame j of a frame. -/
def xoInterval (s : State) (f : FrameRec) (j : Nat) : Nat × Nat :=
  let sp := exposureSpan f s.exposure.trig.xoRung.toNat j
  (sp.1 - s.exposure.trig.xoLead.toNat, sp.2 + s.exposure.trig.xoTail.toNat)

/-- The frame that follows, as it would begin: the lead of its first sub-exposure may fall before its boundary. -/
def comingFrame (s : State) : Option FrameRec :=
  (comingBoundary s).map fun fb =>
    { id := s.exposure.nextId, fb := fb, stamp := 0, gFirst := 0
      params := frameParamsFor s (paramsAt s s.exposure.nextId fb), pipe := s.front.params, cfg := s.exposure.cfg
      mask := s.readout.enableMask }

/-- The asserted intervals of the exposure output that are known: those of the frame in progress, and the first of the frame
that follows. A stop with IMMEDIATE = 1 leaves those of the sub-frames that have had their boundary. -/
def xoIntervals (s : State) : List (Nat × Nat) :=
  if s.exposure.phase == .stopped then []
  else
    (match s.exposure.cur with
      | some f => (List.range (if s.exposure.immediate then s.exposure.nextJ else subFrames f.cfg)).map (xoInterval s f)
      | none => []) ++
    (if s.exposure.phase == .running then ((comingFrame s).map fun g => xoInterval s g 0).toList else [])

/-- The end of the latest asserted interval that holds at `t`. -/
def xoEnd (s : State) (t : Nat) : Option Nat :=
  ((xoIntervals s).filter fun x => decide (x.1 ≤ t) && decide (t < x.2)).foldl
    (fun m x => some (max x.2 (m.getD 0))) none

/-- XO_PIN is asserted XO_LEAD before a sub-exposure of XO_RUNG begins. -/
def execExposureOutputAssert (t : Instant) (s : State) : Result :=
  let s := setNow t s
  match xoEnd s t.tclk with
  | some b =>
    if s.exposure.trig.xoEn then
      .next { s with exposure := { s.exposure with xoActive := true, xoUntil := b } }
    else .next s
  | none => .next s

/-- XO_PIN is released XO_TAIL after the sub-exposure ends, unless another interval overlaps: the pin then stays asserted to
the end of that (R86). -/
def execExposureOutputRelease (t : Instant) (s : State) : Result :=
  let s := setNow t s
  if s.exposure.xoActive && s.exposure.xoUntil ≤ t.tclk then
    match xoEnd s t.tclk with
    | some b => .next { s with exposure := { s.exposure with xoUntil := b } }
    | none => .next { s with exposure := { s.exposure with xoActive := false } }
  else .next s

/-! ### Triggers (R78–R80, R84) -/

/-- An edge is deferred at this moment (R78: at most one). -/
def holdsDeferred (s : State) : Bool := s.exposure.edgeDeferred || s.exposure.edgeQueue.contains none

/-- An edge's frame takes its place behind the frames already placed. -/
def queueEdge (x : Option Nat) (s : State) : State :=
  nextEdge { s with exposure := { s.exposure with edgeQueue := s.exposure.edgeQueue ++ [x] } }

/-- An early edge: DROP or DEFER (R78). -/
def earlyEdge (s : State) : State :=
  let s := raise 0x0105 s.exposure.trig.pin.toNat s.exposure.frameId.toNat 0 s
  if s.exposure.trig.early && !holdsDeferred s then
    queueEdge none { s with expCnt := { s.expCnt with trgDeferred := satInc s.expCnt.trgDeferred } }
  else { s with expCnt := { s.expCnt with trgDropped := satInc s.expCnt.trgDropped } }

/-- `k` frames from frame n at `fb` on, each after the first at the boundary of R57: the frame that follows them, and SB of the
last sub-frame of the last of them. -/
def runFrames (s : State) : Nat → FrameId → Nat → FrameId × Nat
  | 0, n, fb => (n, fb)
  | k + 1, n, fb =>
    let p := frameParamsFor s (paramsAt s n fb)
    let sb := fb + p.d0.toNat + (subFrames s.exposure.cfg - 1) * p.tSub.toNat
    if k = 0 then (n + 1, sb)
    else runFrames s k (n + 1)
      (leastBoundary s (n + 1) (fb + subFrames s.exposure.cfg * p.tSub.toNat) (stretchBound s sb))

/-- The earliest admissible boundary, of its frame, after the burst that begins with frame n at the floor or at the boundary
its edge placed. -/
def floorAfter (s : State) (x : FrameId × Nat) (placed : Option Nat) : FrameId × Nat :=
  let (n, sb) := runFrames s s.exposure.trig.burst.toNat x.1 (max x.2 (placed.getD 0))
  (n, leastBoundary s n 0 (admissibleBound s sb))

/-- The earliest admissible boundary after every frame that has begun or is placed (R78; log entry 159). -/
def edgeFloor (s : State) : Nat :=
  let first : List (Option Nat) := match s.exposure.nextFb with
    | some fb => [some fb]
    | none => if s.exposure.edgeDeferred then [none] else []
  ((first ++ s.exposure.edgeQueue).foldl (floorAfter s) (s.exposure.nextId, earliestBoundary s)).2

/-- A qualified edge on pin p dated `e`: in PIN mode it places FB at the edge + 120 ns + TRG_DELAY (R78). -/
def pinTrigger (p : Nat) (falling : Bool) (e : Nat) (s : State) : State :=
  let t := s.exposure.trig
  if s.exposure.phase == .running && t.mode == 1 && t.pin.toNat == p && t.edgeFalling == falling &&
      decide (s.exposure.armedFrom ≤ e) then
    let fb := e + 12 + t.delay.toNat
    if s.exposure.burstLeft ≠ 0 || fb < edgeFloor s then earlyEdge s else queueEdge (some fb) s
  else s

/-- A zero-cross edge on MAINS_TRG (R84): the rising edges of the last 200 ms are kept. -/
def mainsEdge (p : Nat) (falling : Bool) (e : Nat) (s : State) : State :=
  let c := s.exposure.cfg.exposure
  if c.flkSrc == 2 && c.mainsTrg.toNat == p && !falling then
    { s with exposure := { s.exposure with
      mainsEdges := (s.exposure.mainsEdges ++ [e]).filter fun x => decide (e ≤ x + 25000000) } }
  else s

/-- Complete mains periods that end within the last 200 ms and lie in 15.38–22.22 ms, oldest first. -/
def mainsPeriods (now : Nat) (edges : List Nat) : List Nat :=
  ((edges.zip edges.tail).filter fun x => decide (now ≤ x.2 + 20000000)).filterMap fun x =>
    let d := x.2 - x.1
    if 1538000 ≤ d ∧ d ≤ 2222000 then some d else none

/-- T_flk for the next frame (R84): half the mean of the last eight valid periods. -/
def execFlickerPeriodUpdate (t : Instant) (s : State) : Result :=
  let s := setNow t s
  let due := match comingBoundary s with
    | some fb => decide (fb ≤ t.tclk + guardCycles s)
    | none => false
  if s.exposure.cfg.exposure.flkSrc == 2 && s.exposure.phase == .running && due then
    let ps := mainsPeriods s.now.tclk s.exposure.mainsEdges
    if ps.length < 8 then
      .next (if s.exposure.mainsLost then s
        else raise 0x0108 0 ((s.exposure.tFlk16 + 8) / 16) 0
          { s with exposure := { s.exposure with mainsLost := true } })
    else
      let sum := (ps.drop (ps.length - 8)).foldl (· + ·) 0
      let restored := s.exposure.mainsLost
      let s := { s with exposure := { s.exposure with tFlk16 := sum, mainsValid := true, mainsLost := false } }
      .next (if restored then raise 0x0109 0 ((sum + 8) / 16) 0 s else s)
  else .next s

/-- A ring-time grid point is reached: FB lies at the TCLK edge nearest it (R80). -/
def execRingTimeGridPoint (t : Instant) (s : State) : Result :=
  let s := setNow t s
  match gridPoint s.exposure.trig s.exposure.gridIx with
  | some g =>
    let fb := cycleOfRing s g
    if s.exposure.phase == .running && s.exposure.trig.mode == 2 && fb ≤ t.tclk then
      let s := { s with exposure := { s.exposure with gridIx := s.exposure.gridIx + 1 } }
      if fb < earliestBoundary s || !frameFull s || s.exposure.nextFb.isSome then
        let s := { s with expCnt := { s.expCnt with rtMissed := satInc s.expCnt.rtMissed } }
        .next (if s.exposure.rtMissedRaised then s
          else raise 0x0106 0 g (g / 2 ^ 32) { s with exposure := { s.exposure with rtMissedRaised := true } })
      else .next { s with exposure := { s.exposure with nextFb := some fb, nextFbNom := fb } }
    else .next s
  | none => .next s

/-! ### CAPTURE_CONFIG (R44, R67, R114) -/

/-- The words of a capture configuration. -/
def captureWords (c : CaptureCfg) : List Word :=
  let r := c.readout
  let e := c.exposure
  let a := c.accum
  [ mkWord [(b2n r.ratioTrimEn, 15), (r.gainMode.toNat, 12), (b2n r.winMask, 11), (b2n r.bin, 10), (r.tSlot.toNat, 0)],
    mkWord [(r.ty1.toNat, 24), (r.ty0.toNat, 16), (r.tx1.toNat, 8), (r.tx0.toNat, 0)],
    mkWord [(r.blockFaultLimit.toNat, 0)],
    mkWord [(e.flkM.toNat, 22), (e.mainsTrg.toNat, 19), (e.flkSrc.toNat, 17), (b2n e.flkBal, 16), (e.brkLen.toNat, 10),
      (b2n e.expSrc, 8), (b2n e.centre, 7), (e.nLog2.toNat, 4), (e.mode.toNat, 0)],
    mkWord [(e.brkRung.toNat, 0)],
    mkWord [(e.aeHeadroom.toNat, 16), (e.aeTarget.toNat, 0)],
    mkWord [(a.histH.toNat, 16), (a.ghostConf.toNat, 12), (a.basteK.toNat, 4), (b2n a.baste, 2), (a.maa.toNat, 0)] ]

/-- The capture configuration that seven words spell. -/
def captureOf (ws : List Word) : CaptureCfg :=
  let w (i : Nat) : Word := paramAt ws i
  { readout := {
      ratioTrimEn := bitAt (w 0) 15, gainMode := fld (w 0) 12 2, winMask := bitAt (w 0) 11, bin := bitAt (w 0) 10
      tSlot := fld (w 0) 0 10, ty1 := fld (w 1) 24 7, ty0 := fld (w 1) 16 7, tx1 := fld (w 1) 8 7, tx0 := fld (w 1) 0 7
      blockFaultLimit := fld (w 2) 0 8 }
    exposure := {
      flkM := fld (w 3) 22 4, mainsTrg := fld (w 3) 19 3, flkSrc := fld (w 3) 17 2, flkBal := bitAt (w 3) 16
      brkLen := fld (w 3) 10 2, expSrc := bitAt (w 3) 8, centre := bitAt (w 3) 7, nLog2 := fld (w 3) 4 3
      mode := fld (w 3) 0 3, brkRung := fld (w 4) 0 12, aeHeadroom := fld (w 5) 16 8, aeTarget := fld (w 5) 0 16 }
    accum := {
      histH := fld (w 6) 16 5, ghostConf := fld (w 6) 12 3, basteK := fld (w 6) 4 5, baste := bitAt (w 6) 2
      maa := fld (w 6) 0 2 } }

/-- Defined bits of CAPTURE_CONFIG's words. -/
def captureMasks : List Nat := [0xBFFF, 0x7F7F7F7F, 0xFF, 0x03FF0DF7, 0xFFF, 0x00FFFFFF, 0x001F71F7]

/-- The first word of a capture configuration with a value out of range, or that breaks R64, R91, R103 or R114. -/
def captureBad (c : CaptureCfg) : Option Nat :=
  let r := c.readout
  let e := c.exposure
  let a := c.accum
  let n := subFrames c
  if r.gainMode == 3 || r.tSlot.toNat < 92 || 400 < r.tSlot.toNat then some 0
  else if 95 < r.ty1.toNat || r.ty1.toNat < r.ty0.toNat || r.tx1.toNat < r.tx0.toNat then some 1
  else if r.blockFaultLimit == 0 || 64 < r.blockFaultLimit.toNat then some 2
  else if e.flkM == 0 || e.flkSrc == 3 || e.brkLen == 3 || 5 < e.nLog2.toNat || 3 < e.mode.toNat then some 3
  else if (isSingle c && e.nLog2 != 0) || (isBracketed c && (e.expSrc || n < brkLen c)) then some 3
  else if isBracketed c && (brkRanks c).length < 2 then some 4
  else if a.histH.toNat < 2 || (if usesPreRef c then 19 else 20) < a.histH.toNat || a.maa == 3 then some 6
  else if isBracketed c && a.maa == 0 then some 6
  else if a.baste && !isSingle c && (n = 1 || a.basteK == 0 || n ≤ a.basteK.toNat) then some 6
  else none

/-- The longest T_frame in ns that the configuration and the values in force or pending allow (R77). -/
def longestFrameNs (s : State) (c : CaptureCfg) : Nat :=
  let ts := if c.exposure.flkBal then longestBalanced c
    else (s.exposure.pendingSets.filterMap fun x => x.upd.tSub.map (·.toNat)).foldl max s.exposure.inForce.tSub.toNat
  10 * subFrames c * ts

/-- RT_PERIOD is long enough under a configuration (R77). -/
def periodOk (s : State) (c : CaptureCfg) (period : Word) : Bool :=
  period == 0 || decide (longestFrameNs s c ≤ period.toNat)

/-- A test of the readout chapter runs (R49). -/
def testRunning (s : State) : Bool := s.readout.test.isSome

/-- A monitor converter that runs integrates over the measured mains period (R471). -/
def mcvNeedsMains (s : State) : Bool := (s.mcv.a.run || s.mcv.b.run) && s.mcv.intSrc == 2

/-- The first word with which the words commanded, taken one after another over those in force, break a rule: the first offending
word of a combination (R324; log entry 178). -/
def firstBreak (bad : List Word → Bool) (old new : List Word) : Nat :=
  ((List.range new.length).find? fun k => bad (new.take (k + 1) ++ old.drop (k + 1))).getD 0xFF

/-- CAPTURE_CONFIG. -/
def captureConfigBody (c : Cmd) (s : State) : CmdResult :=
  let ws := overlay c.words (captureWords s.exposure.cfg)
  let new := captureOf ws
  let kept := match s.history.frozenSet with
    | some (n, _, _) => n
    | none => 0
  judged c.words captureMasks s <|
    match captureBad new with
    | some i => cmdBad s i
    | none =>
      let breaks (bad : CaptureCfg → Bool) : CmdResult :=
        cmdBad s (firstBreak (fun ws => bad (captureOf ws)) (captureWords s.exposure.cfg) ws)
      let unfit (c : CaptureCfg) : Bool := !paramsValid s.rst.fuses.variantMl c s.exposure.inForce
      let short (c : CaptureCfg) : Bool := s.exposure.trig.mode == 2 && !periodOk s c s.exposure.trig.rtPeriod
      if unfit new then breaks unfit
      else if short new then breaks short
      else if !captureStopped s || s.clock.limp then cmdRefuse s .wrongState
      else if testRunning s then cmdRefuse s .busy
      else if kept ≠ 0 && new.accum.histH != s.exposure.cfg.accum.histH then cmdRefuse s .busy
      else if kept ≠ 0 && usesPreRef new && 19 < new.accum.histH.toNat + kept then cmdRefuse s .busy
      else if pillowConflict s new s.front.cfg then cmdRefuse s .busy
      else if new.exposure.flkSrc == 2 && s.exposure.cfg.exposure.flkSrc != 2 &&
          (s.timers.chans.getD 7 {}).running then cmdRefuse s .busy
      else if new.exposure.flkSrc != 2 && mcvNeedsMains s then cmdRefuse s .busy
      else
        let measured := new.exposure.flkSrc == 2 && s.exposure.cfg.exposure.flkSrc != 2
        cmdOk (arbitrate { s with exposure := { s.exposure with
          cfg := new, mainsEdges := if measured then [] else s.exposure.mainsEdges } })

/-! ### SET_TRIGGER (R77, R446) -/

/-- The words of the trigger settings. -/
def triggerWords (t : TriggerCfg) : List Word :=
  [ mkWord [(t.burst.toNat, 8), (b2n t.early, 6), (b2n t.edgeFalling, 5), (t.pin.toNat, 2), (t.mode.toNat, 0)],
    t.delay, lo32 t.rtStart, hi32 t.rtStart, t.rtPeriod,
    mkWord [(b2n t.xoPol, 7), (t.xoRung.toNat, 4), (b2n t.xoEn, 3), (t.xoPin.toNat, 0)],
    mkWord [(t.xoTail.toNat, 16), (t.xoLead.toNat, 0)] ]

/-- The trigger settings that seven words spell. -/
def triggerOf (ws : List Word) : TriggerCfg :=
  let w (i : Nat) : Word := paramAt ws i
  { burst := fld (w 0) 8 8, early := bitAt (w 0) 6, edgeFalling := bitAt (w 0) 5, pin := fld (w 0) 2 3
    mode := fld (w 0) 0 2, delay := w 1, rtStart := join64 (w 2) (w 3), rtPeriod := w 4, xoPol := bitAt (w 5) 7
    xoRung := fld (w 5) 4 3, xoEn := bitAt (w 5) 3, xoPin := fld (w 5) 0 3, xoTail := fld (w 6) 16 16
    xoLead := fld (w 6) 0 16 }

/-- SET_TRIGGER. -/
def setTriggerBody (c : Cmd) (s : State) : CmdResult :=
  let t := triggerOf (overlay c.words (triggerWords s.exposure.trig))
  judged c.words [0xFF7F, 0xFFFFFFFF, 0xFFFFFFFF, 0xFFFFFFFF, 0xFFFFFFFF, 0xFF, 0xFFFFFFFF] s <|
    if t.mode == 3 || t.burst == 0 then cmdBad s 0
    else if 100000000 < t.delay.toNat then cmdBad s 1
    else if t.mode == 1 && (t.xoPin == t.pin || drivenByTimer s t.pin.toNat) then cmdBad s 0
    else if s.exposure.cfg.exposure.flkSrc == 2 && t.xoPin == s.exposure.cfg.exposure.mainsTrg then cmdBad s 5
    else if t.xoEn && drivenByTimer s t.xoPin.toNat then cmdBad s 5
    else if !periodOk s s.exposure.cfg t.rtPeriod then cmdBad s 4
    else if !captureStopped s then cmdRefuse s .wrongState
    else cmdOk { s with exposure := { s.exposure with trig := t } }

/-! ### SET_FRAME_PARAMS and LOAD_TILE_MAP (R61, R62, R68–R71) -/

/-- The words of the class F exposure values in SET_FRAME_PARAMS, from W2. -/
def frameParamWords (p : FrameParams) : List Word :=
  [p.tSub, p.d0, p.exps.zeroExtend 32, p.globalRung.zeroExtend 32]

/-- The update a SET_FRAME_PARAMS asks for. -/
def frameUpdOf (ws : List Word) : FrameUpd :=
  let w0 := paramAt ws 0
  { tSub := if bitAt w0 0 then some (paramAt ws 2) else none
    d0 := if bitAt w0 1 then some (paramAt ws 3) else none
    exps := if bitAt w0 2 then some (fld (paramAt ws 4) 0 28) else none
    globalRung := if bitAt w0 3 then some (fld (paramAt ws 5) 0 3) else none }

/-- The auto-exposure kernel owns D_0 (R73). -/
def aeOwnsD0 (s : State) : Bool := s.exposure.cfg.exposure.expSrc && !isZoned s.exposure.cfg

/-- A class F exposure set that passed its checks waits for its frame. -/
def acceptFrameSet (x : PendingSet FrameUpd) (late : Bool) (shown : FrameId) (s : State) : CmdResult :=
  { state := { s with exposure := { s.exposure with pendingSets := s.exposure.pendingSets ++ [x] } }
    status := if late then .late else .ok
    results := [shown] }

/-- The ceiling that a shorter T_sub during capture would exceed (R368). -/
def paramsAdmission (s : State) (u : FrameUpd) : Option Nat :=
  let p := applyFrameUpd s.exposure.inForce u
  if !captureStopped s && p.tSub.toNat < s.exposure.inForce.tSub.toNat then admission s { caseNow s with params := p }
  else none

/-- How a SET_FRAME_PARAMS with these words is judged. -/
def judgeFrameSet (c : Cmd) (ws : List Word) (s : State) : Submission FrameUpd :=
  let w0 := paramAt c.words 0
  let target := if bitAt w0 16 then some (paramAt c.words 1) else none
  submitSet applyFrameUpd (frameValid s) s.exposure.inForce s.exposure.pendingSets s c (bitAt w0 17) target (frameUpdOf ws)

/-- The first offending word of a SET_FRAME_PARAMS that is BAD_PARAM: the target, or the first value that breaks the set with
those before it (R324). -/
def frameOffender (c : Cmd) (ws : List Word) (s : State) : Nat :=
  let upTo (k : Nat) : List Word := setAt ws 0 (paramAt ws 0 &&& wordOf (0xFFFFFFF0 + (2 ^ k - 1)))
  let bad (k : Nat) : Bool := match judgeFrameSet c (upTo k) s with
    | .refused .badParam => true
    | _ => false
  match (List.range 5).find? bad with
  | some k => k + 1
  | none => 0xFF

/-- SET_FRAME_PARAMS. -/
def setFrameParamsBody (c : Cmd) (s : State) : CmdResult :=
  let ws := overlay c.words ([0, 0] ++ frameParamWords s.exposure.inForce)
  let u := frameUpdOf ws
  let sub := judgeFrameSet c ws s
  if (u.tSub.isSome && s.exposure.cfg.exposure.flkBal) || ((u.d0.isSome || u.globalRung.isSome) && aeOwnsD0 s) then
    cmdRefuse s .wrongState
  else judged c.words [0x3000F, 0xFFFFFFFF, 0xFFFFFFFF, 0xFFFFFFFF, 0x0FFFFFFF, 7] s <|
      match sub with
      | .refused .badParam => cmdBad s (frameOffender c ws s)
      | .refused .busy => cmdRefuse s .busy
      | .refused st =>
        if testRunning s then cmdRefuse s .busy
        else match paramsAdmission s u with
          | some n => cmdBudget s n
          | none => cmdRefuse s st
      | .accepted x late shown =>
        if testRunning s then cmdRefuse s .busy
        else match paramsAdmission s u with
          | some n => cmdBudget s n
          | none => acceptFrameSet x late shown s

/-- LOAD_TILE_MAP. -/
def loadTileMapBody (c : Cmd) (s : State) : CmdResult :=
  let w0 := paramAt c.words 0
  let off := fldN (paramAt c.words 1) 0 11
  let data := c.words.drop 3
  let enable := fldN w0 0 4 = 1
  let commit := bitAt w0 19
  let size := if enable then 384 else 1152
  judged (c.words.take 3) [0xE000F, 0x7FF, 0xFFFFFFFF] s <|
    if 1 < fldN w0 0 4 then cmdBad s 0
    else if size < off + data.length then cmdBad s 1
    else if enable then
      if !captureStopped s then cmdRefuse s .wrongState
      else if testRunning s then cmdRefuse s .busy
      else
        let st := smSetMany 0xFFFFFFFF s.readout.enableStaging off data
        cmdOk { s with readout := { s.readout with
          enableStaging := st, enableMask := if commit then st else s.readout.enableMask } } [0]
    else
      let st := smSetMany 0 s.exposure.mapStaging off data
      let s1 := { s with exposure := { s.exposure with mapStaging := st } }
      if !commit then (if testRunning s then cmdRefuse s .busy else cmdOk s1 [0])
      else
        let target := if bitAt w0 17 then some (paramAt c.words 2) else none
        match submitSet applyFrameUpd (frameValid s) s.exposure.inForce s.exposure.pendingSets s c (bitAt w0 18) target
            { map := some st } with
        | .refused .badParam => cmdBad s 2
        | r =>
          if s.exposure.cfg.exposure.expSrc then cmdRefuse s .wrongState
          else if testRunning s then cmdRefuse s .busy
          else match r with
            | .refused x => cmdRefuse s x
            | .accepted x late shown => acceptFrameSet x late shown s1

/-! ### CAPTURE_START and CAPTURE_STOP (R74–R76, R334) -/

/-- The first grid point at least 1.00 ms ahead (R74, R80). -/
def firstGrid (s : State) : Option Nat :=
  let t := s.exposure.trig
  let from_ := ringNs s + 1000000
  if from_ ≤ t.rtStart.toNat then some 0
  else if t.rtPeriod = 0 then none
  else some ((from_ - t.rtStart.toNat + t.rtPeriod.toNat - 1) / t.rtPeriod.toNat)

/-- A committed RATIO table takes effect (R156). -/
def takeRatio (s : State) : State :=
  match s.cal.ratioNext with
  | some b => { s with readout := { s.readout with trims := ratioTrims b }, cal := { s.cal with ratioNext := none } }
  | none => s

/-- A frame in slot 0, a frozen one too, gives way to the pre-reference plane (R91; log entry 197). -/
def clearBorrowed (s : State) : State :=
  match histSlot s 0 with
  | some h => if usesPreRef s.exposure.cfg && !pinned h then freeSlot 0 h s else s
  | none => s

/-- Capture starts: counters and once-per-capture marks restart, the pending class F sets settle, and the first boundary is
placed (R74, R76, R88, R124). -/
def startCapture (first : FrameId) (s : State) : State :=
  let t := s.exposure.trig
  let s := clearBorrowed (takeRatio s)
  let s := { s with
    expCnt := {}
    accCnt := { eccCe := s.accCnt.eccCe, memUeDrawer := s.accCnt.memUeDrawer, memUePipe := s.accCnt.memUePipe,
                memUeCommon := s.accCnt.memUeCommon, scrubPasses := s.accCnt.scrubPasses }
    exposure := { s.exposure with
      phase := .running, immediate := false, stopCause := .command, firstId := first, nextId := first
      lastReleased := first - 1, abandoned := [], cur := none, nextJ := 0, g := 0, lastSb := none
      burstLeft := 0, edgeDeferred := false, edgeQueue := [], openRungs := 0, earlyHeld := [], rtMissedRaised := false
      nextFb := if t.mode == 0 then some (s.now.tclk + 100000) else none
      nextFbNom := s.now.tclk + 100000
      armedFrom := s.now.tclk + 100000
      gridIx := (firstGrid s).getD 0 }
    readout := { s.readout with raisedBlocks := [], raisedGens := [], raisedTiles := [] }
    accum := { s.accum with
      flicker := [], haloRaised := false, ueRaised := [], prevC := [], prevD := [], excluded := [], jobs := [] }
    front := { s.front with obLostRaised := false }
    back := { s.back with grid := none }
    power := { s.power with phase := .active } }
  arbitrate (vendorFresh (settleClassF first s))

/-- CAPTURE_START. -/
def captureStartBody (c : Cmd) (s : State) : CmdResult :=
  let first := if bitAt (paramAt c.words 0) 0 then paramAt c.words 1 else s.exposure.frameId + 1
  judged c.words [1, 0xFFFFFFFF] s <|
    if (enabledTiles s.exposure.cfg s.readout.enableMask).isEmpty then cmdBadAny s
    else if s.exposure.trig.mode == 2 && ((firstGrid s).isNone ||
        !periodOk s s.exposure.cfg s.exposure.trig.rtPeriod) then cmdBadAny s
    else if s.power.phase != .idle || !captureStopped s || s.clock.limp || s.power.hold then cmdRefuse s .wrongState
    else if testRunning s then cmdRefuse s .busy
    else if !s.accum.frames.isEmpty then cmdRefuse s .busy 0x02
    else match admission s { caseNow s with capture := true, pipeline := true } with
      | some n => cmdBudget s n
      | none => cmdOk (startCapture first s) [first]

/-- CAPTURE_STOP. -/
def captureStopBody (c : Cmd) (s : State) : CmdResult :=
  judged c.words [1] s <|
    if s.exposure.phase != .running then cmdOk s [s.exposure.lastFrame]
    else if bitAt (paramAt c.words 0) 0 then
      cmdOk (stopImmediate .command (lastWhole s) s) [lastWhole s]
    else
      let last := if s.exposure.cur.isNone then s.exposure.firstId - 1 else s.exposure.frameId
      cmdOk (settleStop { s with exposure := { s.exposure with
        phase := .stopping, immediate := false, stopCause := .command, lastFrame := last, nextFb := none
        burstLeft := 0, edgeDeferred := false, edgeQueue := [] } }) [last]

end Sys2Proof.Machine
end

