-- ==== Sys2Proof/Machine/Clock.lean ====
section
/-! DEFINITION. Clock generation: references, PLLs, the limp clock, trimming and the clock outputs (R349–R365). -/
namespace Sys2Proof.Machine

/-! ### Loss of the root (R356, R357, R359) -/

/-- The entry that carries a channel's frame has begun to leave the port. -/
def begunOnStream (s : State) (i : Nat) (id : FrameId) (basted : Bool) : Bool :=
  (stream s i).entries.any fun e => e.kind == .frame && e.id == id && e.basted == basted && e.begun

/-- The front reads the version of a run. -/
def runInFront (s : State) (r : ChannelRun) : Bool :=
  s.front.versions.any fun v => v.id == r.id && v.basted == r.basted && decide (v.ctx = r.ctx)

/-- A channel's frame when the root is lost: output of a version that is read again is discarded where the frame's header has
left, and formed anew elsewhere. Answers whether the channel forms it anew. -/
def cutChannelRun (i : Nat) (s : State) : Bool × State :=
  match (channel s i).run with
  | none => (false, s)
  | some r =>
    let off (r : ChannelRun) : ChannelRun := { r with offered := true, accepted := false }
    if begunOnStream s i r.id r.basted then (false, updChannel s i fun c => { c with run := c.run.map off })
    else if runInFront s r then
      let s := discardEntries i (fun e => e.kind == .frame && e.id == r.id && e.basted == r.basted && !e.closed) s
      (true, updChannel (endChannelKernel r s) i fun c => { c with run := none })
    else (false, s)

/-- A RAW20 channel's frame when the root is lost: never completed where its header has left, else read again. -/
def cutRawRun (i : Nat) (s : State) : State :=
  match (channel s i).raw with
  | none => s
  | some r =>
    if begunOnStream s i r.id false then endRaw i s
    else
      let s := discardEntries i (fun e => e.kind == .frame && e.id == r.id && !e.basted && !e.closed) s
      updChannel s i fun c => { c with raw := some { r with offered := false, linesOut := 0, marks := {} } }

/-- A frame whose header has left is never completed; a RETRACT that has begun is still due (R122, R357). -/
def cutStream (i : Nat) (s : State) : State :=
  doneStopping i (updStream s i fun t => { t with entries := t.entries.filter fun e => !e.begun || e.kind == .retract })

/-- The slots of stream i that wait are those of a RETRACT. -/
def retractWaits (s : State) (i : Nat) : Bool := ((stream s i).entries.head?.any fun e => e.kind == .retract && e.begun)

/-- Pipeline and streams stop: the versions being read are read again from their start (R357). -/
def stopPipeline (s : State) : State :=
  let (again, s) := (List.range 8).foldl (fun (a : List Nat × State) i =>
    let (x, s) := cutChannelRun i a.2
    (if x then a.1 ++ [i] else a.1, s)) (([] : List Nat), s)
  let s := (List.range 8).foldl (fun s i => cutStream i (cutRawRun i s)) s
  let restart (v : FrontVersion) : FrontVersion := connect { v with
    bandsDone := 0, badWords := [], marks := {}, reached := v.reached.filter fun i => !again.contains i } s
  settleDisable { s with
    front := { s.front with versions := s.front.versions.map restart }
    ring := { s.ring with
      txRest := s.ring.txRest.filter fun x => retractWaits s x.1
      ownQueue := s.ring.ownQueue.filter fun w => slotType w.slot != 1 } }

/-- The root outputs are gated: BCLK and TCLK run on the limp clock, every other core clock stops. -/
def gateRoot (s : State) : State :=
  if s.clock.limp then s
  else
    let s := wdSync s
    let s := { s with clock := { s.clock with limp := true, limpSince := some s.now.real, switchAt := s.now.real } }
    arbitrate (stopPipeline (haltCapture .rootLost s))

/-- The ROOT PLL loses lock: 0 reference lost, 1 lock lost, 2 frequency error. -/
def loseRoot (arg : Nat) (s : State) : State :=
  let s := gateRoot s
  if s.clock.rootLostPending then s
  else raise 0x0801 arg 0 0 { s with clock := { s.clock with rootLostPending := true, rootLosses := satInc s.clock.rootLosses } }

/-! ### PLLs (R351, R356, R358, R359) -/

/-- The number of a PLL in PLL_LOST. -/
def pllNo : Pll → Nat
  | .root => 0
  | .out => 1
  | .east => 2
  | .west => 3

/-- A PLL loses lock and coasts: 0 its reference is lost, 1 its phase error, 2 its frequency. In a lock attempt only the loss of
the reference ends it. -/
def losePll (p : Pll) (arg : Nat) (s : State) : State :=
  let ph := (pllOf s p).phase
  if ph == .acquire then
    (if arg = 0 then updPll p (fun x => { x with phase := .coast, attemptStart := none }) s else s)
  else if ph != .locked then s
  else
    let s := updPll p (fun x => { x with phase := .coast, held := true }) s
    match pllPort p with
    | some port =>
      let s := raise 0x0803 (pllNo p) 0 0 { s with clock := { s.clock with pllLosses := satInc s.clock.pllLosses } }
      let x := getPort s port
      if x.phase == .up then hopDown port s
      else if stageNo x.phase ≠ 0 then startAttempt port true s
      else s
    | none =>
      if p == .root then
        let s := loseRoot arg s
        if arg = 0 then s else startLock .root s
      else raise 0x0803 (pllNo p) 0 0 { s with clock := { s.clock with pllLosses := satInc s.clock.pllLosses } }

/-- The PLLs. -/
def plls : List Pll := [.root, .out, .east, .west]

/-- The state with a reference's verdict changed: present since a real instant, or lost. A tree that ran on a lost REFCLK0 moves to
the limp clock. -/
def setRef (r : RefClk) (since : Option Nat) (s : State) : State :=
  let s := wdSync s
  match r with
  | .ref0 => { s with clock := { s.clock with
      ref0Ok := since.isSome, ref0Since := since, switchAt := if onRef0 s && since.isNone then s.now.real else s.clock.switchAt } }
  | .ref1 => { s with clock := { s.clock with ref1Ok := since.isSome, ref1Since := since } }

/-- REFCLK1 is in use: by OUT, or by a port in COMMON clocking. -/
def ref1InUse (s : State) : Bool :=
  (s.clock.cfg.outEn && s.clock.cfg.outRef) || (s.west.phase != .disabled && s.west.cfg.clocking) ||
  (s.east.phase != .disabled && s.east.cfg.clocking)

/-- A reference is declared lost: its PLLs lose lock, each raising its own event once. -/
def loseRef (r : RefClk) (s : State) : State :=
  if !refOk s r then s
  else
    let s := setRef r none s
    let c := s.clock
    let s := { s with clock := { c with
      ref0Losses := if r == .ref0 then satInc c.ref0Losses else c.ref0Losses
      ref1Losses := if r == .ref1 && ref1InUse s then satInc c.ref1Losses else c.ref1Losses } }
    plls.foldl (fun s p => if pllRef s p == r then losePll p 0 s else s) s

/-- REFERENCE_LOSS: no rising edge for 500 ns. -/
def execReferenceLoss (t : Instant) (r : RefClk) (s : State) : Result := .next (loseRef r (setNow t s))

/-- The lock window of a PLL in ps (R351). -/
def lockWindow (x : PllState) : Nat := 50 * (x.lockWin.toNat + 1)

/-- PLL_LOCK_LOSS: the phase error has lain outside the window for eight reference cycles; `e` is the smallest of them. -/
def execPllLockLoss (t : Instant) (e : PhaseError) (s : State) : Result :=
  let s := setNow t s
  .next (if lockWindow (pllOf s e.pll) < e.ps then losePll e.pll 1 s else s)

/-! ### Words and frequencies (R349, R350, R360) -/

/-- A word INT + FRAC / 2^24 in units of 2^-24. -/
def wordOf24 (i : BitVec 7) (f : BitVec 24) : Nat := i.toNat * 2 ^ 24 + f.toNat

/-- The ROOT word the device computes for 4.8 GHz from a reference in kHz, to the nearest. -/
def rootWord (khz : Nat) : Nat := if khz = 0 then 0 else (1200000 * 2 ^ 24 + khz / 2) / khz

/-- The base ROOT word of a configuration. -/
def baseWord (c : ClockCfg) : Nat := if c.rootManual then wordOf24 c.rootInt c.rootFrac else rootWord c.ref0Khz.toNat

/-- The configuration with the computed ROOT word in its fields. -/
def computedRoot (c : ClockCfg) : ClockCfg :=
  if c.rootManual then c
  else
    let w := rootWord c.ref0Khz.toNat
    { c with rootInt := BitVec.ofNat 7 (w / 2 ^ 24), rootFrac := BitVec.ofNat 24 w }

/-- The frequency in kHz of 4 × reference × word. -/
def vcoKhz (khz w : Nat) : Nat := 4 * khz * w / 2 ^ 24

/-- The frequency in kHz of its VCO that a PLL's word sets. -/
def pllKhz (s : State) (p : Pll) : Nat :=
  let c := s.clock.cfg
  let lane (p : Pll) : Nat := 8 * (pllOf s p).refKhz * (pllOf s p).word / 2 ^ 24
  match p with
  | .root => ((vcoKhz c.ref0Khz.toNat (baseWord c) : Int) * (1000000000 + s.clock.delta) / 1000000000).toNat
  | .out => vcoKhz (if c.outRef then c.ref1Khz.toNat else c.ref0Khz.toNat) (wordOf24 c.outInt c.outFrac)
  | .west => lane .west
  | .east => lane .east

/-- A measurement lies within 1 % of a frequency. -/
def within1 (meas want : Nat) : Bool := decide (100 * (meas - want) ≤ want) && decide (100 * (want - meas) ≤ want)

/-- A reference in a monitor window: lost, or good from the window's start. REFCLK0 has no declared frequency before its
measurement, and is good while it runs (R351, R360; log entry 213). -/
def judgeRef (r : RefClk) (count khz : Nat) (s : State) : State :=
  let good := if r == .ref0 && !s.clock.measured then count != 0 else within1 (100 * count) khz
  if !good then loseRef r s
  else if refOk s r then s
  else setRef r (some (s.now.real - 160000)) s

/-- SET_CLOCKS has waited 1 ms since its command for the root: its reply is PENDING, and ROOT_LOCKED reports the return (R362). -/
def settleRelock (s : State) : State :=
  match heldCmd s 0x0801, s.clock.relockAt with
  | some c, some a =>
    if passed s a 1000000 then
      finishHeld 0x0801 (fun _ s => cmdPending s)
        (startWork c.req .rootLock { s with clock := { s.clock with relockAt := none } })
    else s
  | _, _ => s

/-- CLOCK_MONITOR_WINDOW: edges of REFCLK0 and REFCLK1 in 10 µs, and the frequency in kHz of each running PLL in the order
ROOT, OUT, EAST, WEST, 0 where it does not run. -/
def execClockMonitorWindow (t : Instant) (ref0 ref1 : Nat) (outputs : List Nat) (s : State) : Result :=
  let s := setNow t s
  let s := if s.clock.ref0MeasHz == wordOf (100000 * ref0) then s else
    { wdSync s with clock := { s.clock with ref0MeasHz := wordOf (100000 * ref0) } }
  let s := judgeRef .ref0 ref0 s.clock.cfg.ref0Khz.toNat s
  let s := judgeRef .ref1 ref1 s.clock.cfg.ref1Khz.toNat s
  let s := plls.zipIdx.foldl (fun s p =>
    if (pllOf s p.1).phase == .locked && !within1 (outputs.getD p.2 0) (pllKhz s p.1) then losePll p.1 2 s else s) s
  .next (settleRelock (if logBlocked s then s else releaseHeld s))

/-- LOCK_ATTEMPT_START. -/
def execLockAttemptStart (t : Instant) (p : Pll) (s : State) : Result :=
  let s := setNow t s
  .next (if (pllOf s p).phase == .coast && refQualified s p then startLock p s else s)

/-- LOCK_ATTEMPT_TIMEOUT: the attempt restarts from the centre of the tuning range. -/
def execLockAttemptTimeout (t : Instant) (p : Pll) (s : State) : Result :=
  let s := setNow t s
  let over2 := match (pllOf s p).attemptStart with
    | some a => passed s a 2000000
    | none => false
  .next (if (pllOf s p).phase == .acquire && over2 then
      startLock p (updPll p (fun x => { x with held := false }) s) else s)

/-- The tree returns to the root: memory leaves self-refresh, events held are logged, ROOT_LOCKED reports a return after a
loss or a change of base (R358, R359). -/
def rootBack (s : State) : State :=
  let s := wdSync s
  let c := s.clock
  let us := match c.limpSince with
    | some a => (s.now.real - a) / 16000
    | none => 0
  let back := c.rootLostPending || c.baseChange
  let s := { s with
    clock := { c with
      limp := false, limpSince := none, switchAt := s.now.real, everLocked := true, rootLostPending := false, baseChange := false, relockAt := none
      limpUs := if c.everLocked then satAdd c.limpUs us else c.limpUs }
    accum := { s.accum with selfRefresh := s.accum.selfRefresh && (s.power.phase == .doze || s.power.phase == .stow) } }
  let s := passAll (match c.limpSince with
    | some a => s.now.real - a
    | none => 0) (releaseHeld s)
  let s := if back then raise 0x0802 0 us 0 s else s
  let s := endWork .rootLock s
  arbitrate (finishHeld 0x0801 (fun _ s => cmdOk s) s)

/-- N_LOCK reference cycles have passed in a lock attempt. -/
def lockCycles (s : State) (p : Pll) : Bool :=
  match (pllOf s p).attemptStart with
  | some a => decide (16000000 * (pllOf s p).nLock.toNat ≤ (s.now.real - a) * refKhz s (pllRef s p))
  | none => false

/-- PLL_LOCK_DECLARED: N_LOCK cycles with a phase error of at most `e`, which lies within the window (R351). -/
def execPllLockDeclared (t : Instant) (e : PhaseError) (band : BitVec 3) (s : State) : Result :=
  let s := setNow t s
  let p := e.pll
  if (pllOf s p).phase == .acquire && refOk s (pllRef s p) && lockCycles s p && decide (e.ps ≤ lockWindow (pllOf s p)) then
    let b : BitVec 3 := if (pllPort p).isSome then band else 0
    let s := updPll p (fun x => { x with phase := .locked, band := b, held := false, attemptStart := none }) s
    .next (if p == .root then rootBack s else match pllPort p with
      | some port => if trunkLive s then driveDue port s else s
      | none => s)
  else .next s

/-- The standard frequencies in kHz. -/
def standardKhz : List Nat := [19200, 24000, 25000, 26000, 27000, 38400, 40000, 48000, 50000, 52000]

/-- REFCLK0_MEASURE: `khz` is the measurement; 0 where there is no REFCLK0 (R360). -/
def execRefclk0Measure (t : Instant) (khz : BitVec 16) (s : State) : Result :=
  let s := setNow t s
  if s.clock.measured || s.rst.asserted.contains .clock then .next s
  else if khz == 0 then .next (updPll .root (fun x => { x with phase := .coast }) s)
  else
    let s := wdSync s
    let std := standardKhz.find? fun f => decide (200 * (khz.toNat - f) ≤ f) && decide (200 * (f - khz.toNat) ≤ f)
    let s := { s with clock := { s.clock with
      measured := true, ref0Nonstd := std.isNone, ref0Ok := true
      ref0Since := some (s.clock.ref0Since.getD (s.now.real - 16000000))
      cfg := computedRoot { s.clock.cfg with ref0Khz := BitVec.ofNat 16 (std.getD khz.toNat) } } }
    .next (startLock .root (if logBlocked s then s else releaseHeld s))

/-! ### Trimming (R354) -/

/-- δ in 10⁻⁹ of a target, rounded to the word's resolution. -/
def roundDelta (c : ClockCfg) (d : Int) : Int :=
  let w := (baseWord c : Int)
  let n := (w * (1000000000 + d) + 500000000) / 1000000000
  if w = 0 then 0 else ((n - w) * 2000000000 + w) / (2 * w)

/-- TRIM_STEP: one step toward the target while the ROOT PLL is locked. -/
def execTrimStep (t : Instant) (s : State) : Result :=
  let s := setNow t s
  let c := s.clock
  if c.root.phase == .locked && !s.rst.asserted.contains .clock then
    let most : Int := 1000 * min c.trimStepPpm.toNat 1000
    let d := c.trimTarget.toInt - c.delta
    let next := if d.natAbs ≤ most.toNat then roundDelta c.cfg c.trimTarget.toInt
      else c.delta + clampI (-most) most d
    .next { s with clock := { c with delta := next } }
  else .next s

/-- TRIM_ROOT. -/
def trimRootBody (c : Cmd) (s : State) : CmdResult :=
  let ws := overlay c.words [s.clock.trimTarget, wordOf s.clock.trimStepPpm.toNat]
  let target := (paramAt ws 0).toInt
  let step : BitVec 10 := fld (paramAt ws 1) 0 10
  judged c.words [0xFFFFFFFF, 0x3FF] s <|
    if 20000000 < target.natAbs then cmdBad s 0
    else if step == 0 || 1000 < step.toNat then cmdBad s 1
    else if s.clock.root.phase != .locked then cmdRefuse s .wrongState
    else cmdOk { s with clock := { s.clock with trimTarget := paramAt ws 0, trimStepPpm := step } } [wordOfInt s.clock.delta]

/-- TRIM_ROOT. -/
def execTrimRoot (t : Instant) (s : State) : Result := runCmd t 0x0802 trimRootBody s

/-! ### SET_CLOCKS and CLOCK_STATUS (R361–R363) -/

/-- The word of a clock output. -/
def clkWord (o : ClkOut) : Word := mkWord [(o.div.toNat, 20), (o.swing.toNat, 12), (o.format.toNat, 8), (b2n o.oe, 0)]

/-- The words of SET_CLOCKS in force. -/
def clockWords (c : ClockCfg) : List Word :=
  [mkWord [(b2n c.rootManual, 24), (c.lockWin.toNat, 20), (c.nLock.toNat, 0)],
   mkWord [(c.ref1Khz.toNat, 16), (c.ref0Khz.toNat, 0)], mkWord [(c.rootInt.toNat, 24), (c.rootFrac.toNat, 0)],
   mkWord [(c.outInt.toNat, 24), (c.outFrac.toNat, 0)], mkWord [(b2n c.outRef, 1), (b2n c.outEn, 0)],
   clkWord c.clk0, clkWord c.clk1]

/-- A clock output from its word. -/
def clkOf (w : Word) : ClkOut := { div := fld w 20 12, swing := fld w 12 4, format := fld w 8 2, oe := bitAt w 0 }

/-- The configuration that words ask for. -/
def clocksOf (ws : List Word) : ClockCfg :=
  let w := paramAt ws 0
  { rootManual := bitAt w 24, lockWin := fld w 20 4, nLock := fld w 0 13, ref1Khz := fld (paramAt ws 1) 16 16
    ref0Khz := fld (paramAt ws 1) 0 16, rootInt := fld (paramAt ws 2) 24 7, rootFrac := fld (paramAt ws 2) 0 24
    outInt := fld (paramAt ws 3) 24 7, outFrac := fld (paramAt ws 3) 0 24, outRef := bitAt (paramAt ws 4) 1
    outEn := bitAt (paramAt ws 4) 0, clk0 := clkOf (paramAt ws 5), clk1 := clkOf (paramAt ws 6) }

/-- A reference frequency in range. -/
def refInRange (k : BitVec 16) : Bool := decide (19200 ≤ k.toNat) && decide (k.toNat ≤ 52000)

/-- A base or VCO in kHz lies in a range given in kHz; the word is in units of 2^-24. -/
def vcoIn (khz w lo hi : Nat) : Bool := decide (lo * 2 ^ 24 ≤ 4 * khz * w) && decide (4 * khz * w ≤ hi * 2 ^ 24)

/-- An output in its ranges. -/
def clkBad (s : State) (c : ClockCfg) (o : ClkOut) : Bool :=
  let ref := if c.outRef then c.ref1Khz.toNat else c.ref0Khz.toNat
  let vco := 4 * ref * wordOf24 c.outInt c.outFrac
  let top := if o.format.toNat ≤ 1 then 300000 else 200000
  o.div.toNat < 8 || 3600 < o.div.toNat || (if o.format == 0 then 8 else 5) < o.swing.toNat ||
  vco < 1000 * o.div.toNat * 2 ^ 24 || top * o.div.toNat * 2 ^ 24 < vco || (o.oe && !c.outEn) ||
  (o.format == 3 && !s.pins.level33)

/-- The first word of SET_CLOCKS with a field outside its range. -/
def clocksBad (s : State) (c : ClockCfg) : Option Nat :=
  let ref := if c.outRef then c.ref1Khz.toNat else c.ref0Khz.toNat
  if c.nLock.toNat < 16 || 4096 < c.nLock.toNat then some 0
  else if !refInRange c.ref0Khz || !refInRange c.ref1Khz then some 1
  else if c.rootInt.toNat < 8 || 123 < c.rootInt.toNat || !vcoIn c.ref0Khz.toNat (baseWord c) 4776000 4824000 then some 2
  else if c.outInt.toNat < 8 || 123 < c.outInt.toNat || !vcoIn ref (wordOf24 c.outInt c.outFrac) 2400000 3600000 then some 3
  else if clkBad s c c.clk0 then some 5
  else if clkBad s c c.clk1 then some 6
  else none

/-- The ROOT fields of two configurations differ. -/
def rootDiffers (a b : ClockCfg) : Bool :=
  a.rootManual != b.rootManual || a.rootInt != b.rootInt || a.rootFrac != b.rootFrac || a.ref0Khz != b.ref0Khz

/-- The OUT fields of two configurations differ. -/
def outDiffers (a b : ClockCfg) : Bool :=
  a.outInt != b.outInt || a.outFrac != b.outFrac || a.outRef != b.outRef || a.outEn != b.outEn

/-- An output's fixed fields change while it is enabled. -/
def clkClash (a b : ClkOut) : Bool := a.oe && (a.div != b.div || a.format != b.format || a.swing != b.swing)

/-- The OUT PLL follows its fields. -/
def applyOut (old new : ClockCfg) (s : State) : State :=
  if !new.outEn then updPll .out (fun x => { x with phase := .off, held := false }) s
  else if outDiffers old new then relock .out s
  else s

/-- A user kernel runs. -/
def userRuns (s : State) : Bool := s.engines.user.any fun k => k.phase == .running

/-- The root relocks at a new base: its outputs are gated, and the trim returns to its reset values (R354, R356). -/
def changeBase (s : State) : State :=
  let s := { s with clock := { s.clock with baseChange := true, relockAt := some s.now.real } }
  let s := gateRoot s
  relock .root { s with clock := { s.clock with trimTarget := 0, trimStepPpm := 1000, delta := 0 } }

/-- SET_CLOCKS. -/
def setClocksBody (c : Cmd) (s : State) : CmdResult :=
  let old := s.clock.cfg
  let sent := clocksOf (overlay c.words (clockWords old))
  let new := computedRoot sent
  judged c.words [0x1F01FFF, 0xFFFFFFFF, 0x7FFFFFFF, 0x7FFFFFFF, 3, 0xFFF0F301, 0xFFF0F301] s <| match clocksBad s sent with
    | some i => cmdBad s i
    | none =>
      if (rootDiffers old sent && (!captureStopped s || !pipelineStopped s || userRuns s)) ||
          (outDiffers old sent && (old.clk0.oe || old.clk1.oe)) || clkClash old.clk0 sent.clk0 || clkClash old.clk1 sent.clk1 then
        cmdRefuse s .wrongState
      else
        let nonstd := s.clock.ref0Nonstd && c.words.length < 2
        let s := applyOut old new { s with clock := { s.clock with cfg := new, ref0Nonstd := nonstd } }
        if rootDiffers old new && s.clock.root.phase != .off then cmdHeld (changeBase s) else cmdOk s

/-- SET_CLOCKS. -/
def execSetClocks (t : Instant) (s : State) : Result := runCmd t 0x0801 setClocksBody s

/-! ### What the clock outputs show (R356, R361) -/

/-- What a pin shows. -/
inductive PinDrive where
  | low
  | high
  | highZ
  | clock
  | chain
deriving DecidableEq, Repr

/-- What drives a chained output while the chain has it: its latches, or nothing under HIGHZ (R495). -/
def chainDrive (s : State) : Option PinDrive :=
  if s.tap.ir == .highz then some .highZ else if pinsChained s then some .chain else none

/-- FAULT_N and ALERT_N, open drain (R480). -/
def openDrain (s : State) (low : Bool) : PinDrive := (chainDrive s).getD (if low then .low else .highZ)

/-- FAULT_N. -/
def faultPin (s : State) : PinDrive := openDrain s s.power.faultN

/-- ALERT_N. -/
def alertPin (s : State) : PinDrive := openDrain s (alertAsserted s)

/-- Output `one` (CLKO1, else CLKO0) runs: the OUT PLL runs and is locked, and the output is enabled. -/
def clkRuns (s : State) (one : Bool) : Bool :=
  let c := s.clock.cfg
  c.outEn && s.clock.out.phase == .locked && (if one then c.clk1 else c.clk0).oe

/-- The P and N pins of an output: its clock, or the low state of a disabled or gated output; in the LVCMOS formats N is
high-impedance. -/
def clkPins (s : State) (one : Bool) : PinDrive × PinDrive :=
  let c := s.clock.cfg
  let diff := (if one then c.clk1 else c.clk0).format.toNat ≤ 1
  match chainDrive s with
  | some d => (d, d)
  | none => if clkRuns s one then (.clock, if diff then .clock else .highZ) else (.low, if diff then .high else .highZ)

/-- The frequency of a running output in kHz. -/
def clkKhz (s : State) (one : Bool) : Nat :=
  pllKhz s .out / (if one then s.clock.cfg.clk1 else s.clock.cfg.clk0).div.toNat

/-- The code of a PLL's state. -/
def pllCode : PllPhase → Nat
  | .off => 0
  | .acquire => 1
  | .locked => 2
  | .coast => 3

/-- CLOCK_STATUS; the peak phase error is the analogue circuit's, 0 while the ROOT PLL has not run since the reset (log entry
79). -/
def clockStatusBody (c : Cmd) (s : State) : CmdResult :=
  let k := s.clock
  judged c.words [0] s <|
    let (e, s) := if k.root.phase == .off && !k.everLocked then (0, s) else takeFree s
    cmdOk s [
      mkWord [(pllCode k.root.phase, 28), (pllCode k.out.phase, 24), (pllCode k.east.phase, 20), (pllCode k.west.phase, 16),
        (k.east.band.toNat, 11), (k.west.band.toNat, 8), (b2n k.ref0Nonstd, 3), (b2n k.ref1Ok, 2), (b2n k.ref0Ok, 1),
        (b2n (k.limp && !onRef0 s), 0)],
      wordOfInt k.delta, k.trimTarget, k.ref0MeasHz, wordOf (fldN e 0 16)]

/-- CLOCK_STATUS. -/
def execClockStatus (t : Instant) (s : State) : Result := runCmd t 0x0803 clockStatusBody s

end Sys2Proof.Machine
end

