-- ==== Sys2Proof/Machine/RingSend.lean ====
section
/-! DEFINITION. Slot positions: what a transmitter sends, and with which hop fields (R264, R275, R278, R296, R299, R300,
R313, R314). -/
namespace Sys2Proof.Machine

/-- The first element that meets a condition, and the list without it. -/
def pickFirst {α : Type} (f : α → Bool) : List α → Option (α × List α)
  | [] => none
  | x :: xs => if f x then some (x, xs) else (pickFirst f xs).map fun r => (r.1, x :: r.2)

/-- Every 16th position since the hop came UP has RSV set (R299). -/
def rsvDue (x : TrunkPort) : Bool := (x.positions + 1) % 16 == 0

/-- Words i and i + 1 of a payload replaced by a 64-bit value. -/
def setPair (ws : List Word) (i : Nat) (v : BitVec 64) : List Word := setAt (setAt ws i (lo32 v)) (i + 1) (hi32 v)

/-- The payload as it leaves: CORRECTION of a TIME slot grows by the hop delay and the residence (R313), t1 of DELAY_REQ and
t3 of DELAY_RESP are the instant of departure (R314). -/
def leavingPayload (s : State) (w : WaitSlot) : List Word :=
  let ws := w.slot.payload
  let at0 : BitVec 64 := BitVec.ofNat 64 (ringCount s)
  match slotType w.slot, w.arrived with
  | 5, some a =>
    setPair ws 2 (join64 (ws.getD 2 0) (ws.getD 3 0) + BitVec.ofNat 64 (w.delay + (s.now.real - a)))
  | 6, none => if slotOp w.slot == 0x0C then setPair ws 1 at0 else if slotOp w.slot == 0x0D then setPair ws 5 at0 else ws
  | _, _ => ws

/-- The hop fields of a slot that leaves: RSV and HSEQ; HOPS grows by one (R293). -/
def hopFields (rsv : Bool) (seq : BitVec 12) (x : RawSlot) : RawSlot :=
  { x with hdr := setFld64 (setFld64 (setFld64 x.hdr 60 1 (b2n rsv)) 28 12 seq.toNat) 52 8 (slotHops x + 1) }

/-- A new slot is sent: it is numbered and kept for replay (R275). -/
def sendSlot (p : Port) (w : WaitSlot) (s : State) : State :=
  let x := getPort s p
  let y : RawSlot := hopFields (rsvDue x) x.txSeq { w.slot with payload := leavingPayload s w }
  let keep : ReplaySlot := { seq := x.txSeq, slot := y, stomp := w.stomp, sends := 1 }
  let idle := if slotType y == 0 then some (x.idleSince.getD s.now.real) else none
  let s := updPort s p fun x => { x with
    txSeq := x.txSeq + 1, replay := x.replay ++ [keep], idleSince := idle
    ackAt := if x.replay.isEmpty then x.positions else x.ackAt }
  sendWire p y w.stomp s

/-- The oldest slot to resend is sent again (R278); one that waited out a wake leaves for the first time (R282). -/
def resendSlot (p : Port) (r : ReplaySlot) (rest : List ReplaySlot) (s : State) : State :=
  let x := getPort s p
  let first := r.sends == 0
  let ws := if first then leavingPayload s { slot := r.slot, arrived := r.arrived, delay := r.delay } else r.slot.payload
  let y : RawSlot := { r.slot with hdr := setFld64 r.slot.hdr 60 1 (b2n (rsvDue x)), payload := ws }
  let bump (q : ReplaySlot) : ReplaySlot := if q.seq == r.seq then { q with slot := y, sends := q.sends + 1 } else q
  sendWire p y r.stomp (updPort s p fun x => { x with
    resend := rest, replay := x.replay.map bump, idleSince := none
    replayed := if first then x.replayed else satInc x.replayed })

/-- The own slots of P0 and P1 that wait, each with the port it would leave by; without a confirmed address only MGMT slots are
sent (R290). -/
def ownChoices (s : State) : List (Nat × WaitSlot × Port × RawSlot) :=
  s.ring.ownQueue.zipIdx.filterMap fun q =>
    if slotType q.1.slot ≠ 6 && s.ring.addrPhase != .confirmed then none
    else (routeOwn s q.1.slot).map fun r => (q.2, q.1, r.1, r.2)

/-- An own slot of P0 or P1 may leave at this position: P1 once in 2,048 positions (R300). -/
def ownAdmits (x : TrunkPort) (prio : Nat) : Bool :=
  prio = 0 || match x.ownP1 with
    | some n => decide (n + 2048 ≤ x.positions)
    | none => true

/-- What of the node's own leaves at a position. -/
inductive OwnPick where
  | queued (index : Nat) (wait : WaitSlot) (slot : RawSlot)
  | stream (i : Nat) (p3 ringB : Bool) (slot : RawSlot)
deriving DecidableEq, Repr

/-- The next slot of stream i's packet, where it leaves by port p at P2 or P3 within its allowance (R301). -/
def streamPick (s : State) (p : Port) (p3 : Bool) (i : Nat) : Option OwnPick :=
  match assignOf s i, restOf s i with
  | some a, x :: _ =>
    let ringB := streamRingB s a
    if (if p3 then leftP3 s ringB else leftP2 s i a) = 0 || s.ring.addrPhase != .confirmed then none
    else match routeOwn s (withPrio x (if p3 then 3 else 2)) with
      | some (q, y) => if q == p then some (.stream i p3 ringB y) else none
      | none => none
  | _, _ => none

/-- The own slot that leaves by port p: the oldest of P0, then of P1; then, where RSV is not set, P2 within the reservations, the
stream served longest ago first, and P3 in stream order (R299, R301; log entry 78). -/
def ownNext (s : State) (p : Port) : Option OwnPick :=
  let x := getPort s p
  let cs := (ownChoices s).filter fun c => c.2.2.1 == p
  let low := (List.range 2).findSome? fun k =>
    if ownAdmits x k then (cs.find? fun c => slotPrio c.2.2.2 == k).map fun c => OwnPick.queued c.1 c.2.1 c.2.2.2 else none
  match low with
  | some w => some w
  | none =>
    if rsvDue x then none
    else match (s.ring.txRest.map (·.1)).findSome? (streamPick s p false) with
      | some w => some w
      | none => (List.range 9).findSome? (streamPick s p true)

/-- An own slot is inserted: it leaves its queue and counts. -/
def sendOwn (p : Port) (w : OwnPick) (s : State) : State :=
  match w with
  | .queued i w y =>
    let s := { s with ring := { s.ring with ownQueue := s.ring.ownQueue.eraseIdx i } }
    let s := if slotPrio y == 1 then updPort s p fun x => { x with ownP1 := some x.positions } else s
    sendSlot p { w with slot := y } s
  | .stream i p3 ringB y =>
    sendSlot p { slot := y } (countInserted i p3 ringB (setRest i ((restOf s i).drop 1) s))

/-- The RING_B direction of a closed ring without DUAL_RING carries control blocks only (R289; log entry 174). -/
def controlOnly (s : State) (p : Port) : Bool :=
  portRingB p && s.ring.topoSeen && !dualRing s && !s.ring.isString && !turnsAt s .east && !turnsAt s .west

/-- A new slot is chosen and sent: transit, own, EMPTY (R299). A full replay buffer takes the hop down (R278). -/
def sendNew (p : Port) (s : State) : State :=
  let x := getPort s p
  if replaySize ≤ x.replay.length then hopDown p s
  else match pickFirst (fun w : WaitSlot => !rsvDue x || slotPrio w.slot ≤ 1) x.transit with
    | some (w, rest) => sendSlot p w (turnTransit (otherPort p) (updPort s p fun x => { x with transit := rest }))
    | none => match ownNext s p with
      | some w => sendOwn p w s
      | none =>
        if controlOnly s p then sendCtl p (List.replicate 34 fillerBlock) (updPort s p fun x =>
          { x with idleSince := some (x.idleSince.getD s.now.real) })
        else sendSlot p { slot := emptySlot (ownSrc s) (portRingB p) } s

/-- The transmitter of a port is awake: not dozing, and 2.0 µs after a wake began (R282). -/
def txAwake (s : State) (x : TrunkPort) : Bool :=
  !x.txDoze && match x.txWakeAt with
    | some a => passed s a 2000
    | none => true

/-- A direction that was to doze still has only EMPTY slots to send, and owes no WIDTH block (R281; log entry 172). -/
def stillIdle (s : State) (p : Port) : Bool :=
  let x := getPort s p
  x.cfg.dozeEn && x.idleSince.isSome && x.ask.isNone && x.transit.isEmpty && x.resend.isEmpty && !ownWaits s p

/-- The DOZE block has left: a LANE_MARK group follows, and the lanes go idle. -/
def goDoze (p : Port) (s : State) : State :=
  arbitrate (updPort (sendMarks p (getPort s p).lanesTx s) p fun x => { x with txDoze := true, dozeDue := false })

/-- The control gap that follows slot position n: what is owed leaves in it (R264, R276, R279, R281). -/
def sendGap (p : Port) (n : Nat) (s : State) : State :=
  let s := updPort s p fun x => { x with dozeDue := x.dozeDue && stillIdle s p }
  let x := getPort s p
  let good := match x.ask with
    | some a => txMask x (maskLanes a.good)
    | none => 0
  let s := sendCtl p (gapBlocks x n good) s
  let s := updPort s p fun x =>
    if x.nakOwed then { x with nakOwed := false, naksSent := satInc x.naksSent } else { x with ackOwed := false }
  if x.dozeDue then goDoze p s else s

/-- Between slots: a control gap after every 30 slots, and a LANE_MARK group once 16,384 lane blocks have gone. -/
def betweenSlots (p : Port) (s : State) : State :=
  let n := (getPort s p).positions
  let s := if n % 30 == 0 then sendGap p n s else s
  let x := getPort s p
  if 16384 * lanesOf x.widthTx ≤ x.sinceMark then sendMarks p x.lanesTx s else s

/-- A slot position ends: it counts, and what stands between it and the next leaves. -/
def endPosition (p : Port) (s : State) : State :=
  let s := updPort s p fun x => { x with positions := x.positions + 1 }
  if (getPort s p).phase == .up then betweenSlots p s else s

/-- The wake of a direction ends with a LANE_MARK group, which precedes its first slot (R282). -/
def endWake (p : Port) (s : State) : State :=
  if (getPort s p).txWakeAt.isSome then
    updPort (sendMarks p (getPort s p).lanesTx s) p fun x => { x with txWakeAt := none }
  else s

/-- SLOT_POSITION_SEND: a slot leaves, and what stands between it and the next. -/
def execSlotPositionSend (t : Instant) (p : Port) (s : State) : Result :=
  let s := setNow t s
  let x := getPort s p
  if trunkLive s && x.phase == .up && txAwake s x then
    let s := endWake p s
    let s := match x.resend with
      | r :: rest => resendSlot p r rest s
      | [] => sendNew p s
    .next (settleStow (doActs (endPosition p s)))
  else .next s

end Sys2Proof.Machine
end

