-- ==== Sys2Proof/Machine/ResetOps.lean ====
section
/-! DEFINITION. Asserting a reset: kinds, ranking, what survives, the RETRACT markers before it, and the watchdog's count
(R13, R122, R123, R387–R393, R400–R405, R434). -/
namespace Sys2Proof.Machine

/-! ### Kinds (R387, R388) -/

/-- The rank of a reset kind, the highest being POWER_ON. -/
def causeRank : ResetCause → Nat
  | .powerOn => 8
  | .brownOut => 7
  | .thermal => 6
  | .resetN => 5
  | .watchdog => 4
  | .fatal => 3
  | .trunk => 2
  | .soft => 1

/-- The higher-ranked of two kinds. -/
def higherCause (a b : ResetCause) : ResetCause := if causeRank a < causeRank b then b else a

/-- A warm reset: DRAM and the event log are kept. -/
def warm (k : ResetCause) : Bool := k != .powerOn && k != .brownOut

/-- The domains a kind resets. -/
def resetDomains (k : ResetCause) (keep : Bool) : List Domain :=
  (if k == .powerOn then [.alwaysOn] else []) ++ [.clock, .bureau, .memory, .converter, .pipeline, .bobbin] ++
  (if keep then [] else [.trunk])

/-- A reset sequence runs: a reset has been asserted and the first command has not been taken. -/
def inReset (s : State) : Bool := s.rst.phase != .done

/-! ### RETRACT before a SOFT or TRUNK reset (R122, R389) -/

/-- The slots of a packet leave at once where their port's hop is up (log entry 80). -/
def slotsLeave (xs : List RawSlot) (s : State) : State :=
  xs.foldl (fun s x => match routeOwn s x with
    | some (p, y) => if (getPort s p).phase == .up then sendSlot p { slot := y } s else s
    | none => s) s

/-- RETRACT with REASON RESET leaves stream i, where its basted frame left the port and is not superseded. -/
def retractNow (i : Nat) (s : State) : State :=
  match (stream s i).bastedOut, assignOf s i with
  | some id, some a =>
    let w := finishPacket (retractPacket id 5) (stream s i).pseq a.port
    let ringB := streamRingB s a
    let prio := if 0 < leftP2 s i a then 2 else 3
    let s := updStream s i fun t => { t with pseq := t.pseq + 1, bastedOut := none }
    let s := countRetract { s with out := { s.out with packets := s.out.packets ++ [⟨i, w⟩] } }
    slotsLeave (packetSlots s 1 prio a.dest a.port ringB w) s
  | _, _ => s

/-- The RETRACT markers of every stream. -/
def retractAll (s : State) : State :=
  if trunkLive s && s.ring.addrPhase == .confirmed then (List.range 8).foldl (fun s i => retractNow i s) s else s

/-! ### What a reset leaves (R400) -/

/-- RATE_MAX that the TRUNK_DEFAULT_RATE fuse selects (R397). -/
def fuseRate (s : State) : BitVec 2 := if s.rst.fuses.trunkRate == 0 then 2 else if s.rst.fuses.trunkRate == 1 then 1 else 0

/-- A trunk port after its reset. -/
def freshPort (s : State) : TrunkPort := { cfg := { rateMax := fuseRate s } }

/-- The trunk domain is reset: hops, hop records, ring time and ring settings are lost, the last ring address is kept in the
always-on domain (R290). -/
def resetTrunk (s : State) : State :=
  { s with
    west := freshPort s, east := freshPort s
    ring := { lastAddr := s.ring.lastAddr, time := { asOf := s.now.real } }
    clock := { s.clock with west := {}, east := {} } }

/-- What a kept trunk domain loses: port assignments and the slots of streams return with the other settings. -/
def keepTrunk (s : State) : State :=
  { s with
    ring := { s.ring with
      ports := List.replicate 9 none, claim := none, txRest := [], rxRest := []
      ownQueue := s.ring.ownQueue.filter fun w => slotType w.slot != 1 }
    west := { s.west with act := none }, east := { s.east with act := none } }

/-- The clock domain is reset; with the trunk domain kept, the port PLLs and their references run on. -/
def resetClock (keep : Bool) (s : State) : State :=
  let c := s.clock
  let fresh : ClockState := { limpSince := some s.now.real, switchAt := s.now.real }
  let refs (x : ClockState) : ClockState :=
    { x with ref0Ok := c.ref0Ok, ref1Ok := c.ref1Ok, ref0Since := c.ref0Since, ref1Since := c.ref1Since }
  { s with clock := if keep then { refs fresh with west := c.west, east := c.east } else fresh }

/-- The window's power-on values of a two-wire port: its level is the fuse's, MB_ERR reads RESET, the ring-time mirror stays
(R428, R434, R441). -/
def freshTw (p : TwPort) (s : State) : TwPortState :=
  { cfg := { level := if p == .a then s.rst.fuses.twaLevel else s.rst.fuses.twbLevel, role := p == .b }
    mbErr := 3, rtMirror := (getTw s p).rtMirror }

/-- The fuses' values of both two-wire ports. -/
def resetTw (s : State) : State := { s with twa := freshTw .a s, twb := freshTw .b s }

/-- The digest slot the firmware writes next: an incomplete one first, else the one with the lowest DUMP_SEQ (R420). -/
def digestSlot (d : List (Option Word)) : Nat :=
  match d.findIdx? (·.isNone) with
  | some i => i
  | none => d.zipIdx.foldl (fun b x => if ((x.1.map (·.toNat)).getD 0) < (((d.getD b none).map (·.toNat)).getD 0) then x.2 else b) 0

/-- Free words, in the order they are taken. -/
def freeWords (n : Nat) (s : State) : List Word × State :=
  ((List.range n).map fun i => Config.freeWord (s.free + i), { s with free := s.free + n })

/-- Bytes of a dump behind its header's 16 words. -/
def dumpRest : Nat := 0x1000000 - 64

/-- A dump that a reset cuts short before it stands keeps its header; how much behind it was overwritten is open (R419; log entry
214). -/
def cutDump (s : State) : State :=
  match s.nvm.dumping with
  | none => s
  | some d =>
    let s := { s with nvm := { s.nvm with dumping := none } }
    if d.written then s
    else
      let f := takeFree s
      if bitAt f.1 0 then
        let g := freeWords (dumpRest / 4) f.2
        let s := dramWriteWords g.2 (partBase .dump + 64) g.1
        { s with nvm := { s.nvm with dumpValid := false } }
      else f.2

/-- The Bureau domain is reset: queues, stored replies and session versions, staging, an open update, the peripherals' and
the power settings; the event log survives (R331, R337, R342, R400). -/
def resetBureau (s : State) : State :=
  let p := s.power
  resetTw { s with
    bureau := { ready := false, upSince := s.now }
    timers := {}
    mcv := {}
    power := { sensors := p.sensors, tJ := p.tJ, thermal := p.thermal }
    nvm := { s.nvm with staging := none, direct := none, updateLength := none, updateGot := 0, pageWrites := 0, verifyRetries := 0 }
    rst := { s.rst with
      softPending := none, wdArm := false, wdCfg := {}, wdNext := none, wdCount := 0, wdAt := s.now, wdKey := false
      wdFailed := false, wdDue := false, wdHard := none, wdSeen := false } }

/-- The frozen set's slots (R401). -/
def keptSlots (h : HistoryState) : List (Option HistFrame) :=
  h.slots.map fun x => match x with
    | some f => if f.frozen then some { f with rawReaders := [], frontReading := false, frontRead := true, neverRead := false } else none
    | none => none

/-- The memory domain is reset: only a frozen set stays in the history ring; the wafer waits in self-refresh until the root
locks. A POWER_ON or BROWN_OUT initialises it to 0. -/
def resetMemory (k : ResetCause) (s : State) : State :=
  if warm k then
    { s with
      accum := { selfRefresh := true }, accCnt := {}
      history := { slots := keptSlots s.history, placed := s.history.placed, frozenSet := s.history.frozenSet } }
  else
    { s with
      accum := { selfRefresh := true }, accCnt := {}, history := {}, dram := [], dramBad := [], dramSoft := [], desc := []
      nvm := { s.nvm with dumpValid := false } }

/-- Capture, pipeline, streams and bobbins are reset. -/
def resetImage (s : State) : State :=
  { s with
    exposure := {}, expCnt := {}, front := {}, back := {}, cal := {}, engines := {}
    readout := { gainThreshold := s.readout.gainThreshold }
    streams := List.replicate 9 {} }

/-- Page-write counts after a loss of power resume from the units recorded in the wear table (R410). -/
def recordedWear (w : List (Nat × Nat)) : List (Nat × Nat) :=
  w.filterMap fun x => if x.2 < 2 ^ 20 then none else some (x.1, x.2 / 2 ^ 20 * 2 ^ 20)

/-- What POWER_ON and BROWN_OUT lose beside: the event log, and counts of page writes below a unit. -/
def losePower (s : State) : State :=
  { s with events := {}, nvm := { s.nvm with wear := recordedWear s.nvm.wear } }

/-- The always-on domain is reset: ring address, THERMAL_CONFIG, the sensors and the RESET section. -/
def resetAlwaysOn (s : State) : State :=
  let r := s.rst
  { s with
    ring := { s.ring with lastAddr := 0 }
    twa := { s.twa with rtMirror := 0 }
    twb := { s.twb with rtMirror := 0 }
    power := { s.power with sensors := List.replicate 16 {}, tJ := 0x8000, thermal := {} }
    rst := { fuses := r.fuses, blown := r.blown, straps := r.straps, resetNLow := r.resetNLow, pgood := r.pgood
             loadAttempts := r.loadAttempts, phase := r.phase, asserted := r.asserted } }

/-! ### The newest journal record (R411, R417, R418) -/

/-- What the newest record carries changes when the commit record of a transaction is written (R411, R417, R418, R422). -/
def commitEffect (o : NvmOrigin) (s : State) : State :=
  let s := { s with nvm := { s.nvm with txnSeq := s.nvm.txnSeq + 1 } }
  match o with
  | .fwBegin _ => setBank (!s.nvm.activeB) .incomplete { s with nvm := { s.nvm with trial := 0 } }
  | .fwVerified => setBank (!s.nvm.activeB) .valid { s with nvm := { s.nvm with trial := 1 } }
  | .fwConfirm => { s with nvm := { s.nvm with activeB := !s.nvm.activeB, trial := 0 } }
  | .dumpClear q => { s with nvm := { s.nvm with clearedSeq := q } }
  | .bootTrial => { s with nvm := { s.nvm with trial := 2 } }
  | .bootReject => setBank (!s.nvm.activeB) .rejected { s with nvm := { s.nvm with trial := 0 } }
  | .bootSwitch => { s with nvm := { s.nvm with activeB := !s.nvm.activeB } }
  | _ => s

/-- What LAST_TXN reads after a transaction that ended: 1 completed, 3 completed at recovery, 4 failed (R412, R423). -/
def txnCode (o : NvmOrigin) (good : Bool) : BitVec 3 := if !good then 4 else if o == .recovered then 3 else 1

/-! ### A torn page (R409, R412) -/

/-- A page whose write was cut off or failed holds neither its old content nor its new one. -/
def spoilPage (pg : Nat) (s : State) : State :=
  let f := freeWords 256 s
  { f.2 with nvm := { f.2.nvm with cells := memSetBytes f.2.nvm.cells (pg * 1024) (wordsBytes f.1) } }

/-- The running transaction, or the boot loader's record. -/
def txnOf (boot : Bool) (s : State) : Option NvmTxn := if boot then s.nvm.boot else s.nvm.txn

/-- The state with the running transaction, or the boot loader's record, changed. -/
def putTxn (boot : Bool) (x : Option NvmTxn) (s : State) : State :=
  if boot then { s with nvm := { s.nvm with boot := x } } else { s with nvm := { s.nvm with txn := x } }

/-- A step of a transaction that stands, though nobody is told and no write follows it now: a commit record takes effect, a
completion record ends the transaction. -/
def stepStands (boot : Bool) (x : NvmTxn) (s : State) : State :=
  if x.next = 2 * x.pages.length + 1 then putTxn boot none { s with nvm := { s.nvm with lastTxn := txnCode x.origin true } }
  else putTxn boot (some { x with next := x.next + 1, retried := false }) (if x.next = x.pages.length then commitEffect x.origin s else s)

/-- The next page write of a transaction is a record. -/
def atRecord (x : NvmTxn) : Bool := x.next = x.pages.length || x.next = 2 * x.pages.length + 1

/-- The first page of a digest slot (R408, R420). -/
def digestFirst (slot : Nat) : Nat := 5888 + 64 * slot

/-- The page of its slot that the n-th page write of a digest goes to: pages 1 to 63, then page 0 (R420). -/
def digestPage (n : Nat) : Nat := if n < 63 then n + 1 else 0

/-- A loss of supply or a trip cuts the page write in progress: a page of a firmware bank or of a digest holds neither content; a
record of the journal may be whole or not. -/
def tearPage (s : State) : State :=
  let idle : State := { s with nvm := { s.nvm with inFlight := none } }
  let record (boot : Bool) : State :=
    let f := takeFree idle
    match txnOf boot s with
    | some x => if bitAt f.1 0 && atRecord x then stepStands boot x f.2 else f.2
    | none => f.2
  match s.nvm.inFlight with
  | none => s
  | some .direct =>
    match s.nvm.direct.bind (·.pages.head?) with
    | some (pg, _) => spoilPage pg idle
    | none => idle
  | some .digest =>
    match s.nvm.dumping with
    | some d =>
      let s := spoilPage (digestFirst d.slot + digestPage d.next) idle
      { s with nvm := { s.nvm with digests := s.nvm.digests.set d.slot none } }
    | none => idle
  | some .txn => record false
  | some .boot => record true

/-! ### Assertion (R388, R390, R391) -/

/-- The sequence that stands and a new reset combined: the higher rank, and KEEP_TRUNK only where both kept it. -/
def combined (k : ResetCause) (keep : Bool) (s : State) : ResetCause × Bool :=
  if s.rst.phase == .done then (k, keep)
  else (higherCause s.rst.cause k, keep && s.rst.keepTrunk)

/-- From power-on the TAP is held in reset with TDO high-impedance, and its pins serve their functions again (R480). -/
def resetTap (s : State) : State :=
  { s with tap := {}, rst := { s.rst with resetNLow := s.pins.resetNLow, pgood := s.pins.pgood } }

/-- The state of every domain after a reset of kind k. -/
def loseState (k : ResetCause) (keep : Bool) (s : State) : State :=
  let s := if s.rst.phase == .done && warm k then haltCapture .reset s else s
  let s := cutDump (if warm k && k != .thermal then { s with nvm := { s.nvm with inFlight := none } } else tearPage s)
  let s := if keep then keepTrunk s else resetTrunk s
  let s := resetImage (resetMemory k (resetBureau (resetClock keep s)))
  let s := if warm k then s else losePower s
  if k == .powerOn then resetAlwaysOn (resetTap s) else s

/-- Where the sequence goes on: loading starts once PGOOD is high and RESET_N is not low. -/
def afterAssert (s : State) : ResetPhase := if s.rst.resetNLow || !s.rst.pgood then .holding else .loading

/-- A reset is asserted. -/
def assertReset (k0 : ResetCause) (keep0 : Bool) (s : State) : State :=
  let k : ResetCause := (combined k0 keep0 s).1
  let keep : Bool := (combined k0 keep0 s).2
  let rt := ringStamp s
  let attempts := if s.rst.phase == .loading then min 15 (s.rst.loadAttempts + 1) else s.rst.loadAttempts
  let fatal (k : ResetCause) : Bool := k == .watchdog || k == .fatal
  let quick := if fatal k0 then
      fatal k && match s.rst.lastFatal with
        | some a => decide (s.now.real < a + 60 * 16000000000)
        | none => false
    else fatal k && s.rst.quickFatal
  let cold := k == .powerOn
  let s := loseState k keep s
  let r := s.rst
  let s := { s with rst := { r with
    cause := k, keepTrunk := keep, waiting := none, asserted := resetDomains k keep, loadAttempts := attempts
    resetRt := if cold then 0 else rt, recovery := false, profileDue := false, quickFatal := quick, gap := none
    firstStretch := none, revertedBank := none
    lastFatal := if fatal k0 then some s.now.real else r.lastFatal } }
  let off := r.phase == .tripped && k0 != .thermal
  { s with power := { s.power with faultN := s.power.faultN || off }, rst := { s.rst with phase := if off then .tripped else afterAssert s } }

/-- A reset is requested: a warm reset waits for the eMRAM page write in progress (R412). While the device is off after a
trip it stays off (R377). -/
def requestReset (k : ResetCause) (keep : Bool) (s : State) : State :=
  if s.rst.phase == .dead && k != .powerOn then s
  else if warm k && k != .thermal && s.nvm.inFlight.isSome then
    let w := match s.rst.waiting with
      | some (k1, keep1) => (higherCause k1 k, keep1 && keep)
      | none => (k, keep)
    { s with rst := { s.rst with waiting := some w } }
  else match s.rst.waiting with
    | some (k1, keep1) => assertReset (higherCause k1 k) (keep1 && keep) s
    | none => assertReset k keep s

/-- The reset controller has begun to assert: no watchdog failure, trap or SOFT request has any effect (R388). -/
def asserting (s : State) : Bool := s.rst.phase != .done || s.rst.waiting.isSome

end Sys2Proof.Machine
end

