-- ==== Sys2Proof/Machine/Reset.lean ====
section
/-! DEFINITION. The reset sequence, the RESET command and the watchdog (R387–R406, R484–R486). -/
namespace Sys2Proof.Machine

/-! ### The RESET command (R389, R333) -/

/-- RESET at the Bureau: SOFT is executed; TRUNK is the trunk logic's and refused here. -/
def resetBody (c : Cmd) (s : State) : CmdResult :=
  let w := paramAt c.words 0
  judged c.words [0x103] s <|
    if 2 ≤ fldN w 0 2 then cmdBad s 0
    else if fldN w 0 2 = 1 then cmdRefuse s .notPermitted
    else cmdOk { s with
      rst := { s.rst with softPending := some (bitAt w 8, s.now) }
      bureau := { s.bureau with ready := false } }

/-- RESET. -/
def execReset (t : Instant) (s : State) : Result := runCmd t 0x0005 resetBody s

/-- SOFT_RESET_ASSERT: the RETRACT markers leave and the reset is asserted, once the reply has left its port or 200 µs have
passed. -/
def execSoftResetAssert (t : Instant) (s : State) : Result :=
  let s := setNow t s
  match s.rst.softPending with
  | none => .next s
  | some (keep, since) =>
    let waits := s.ring.ownQueue.any fun w => slotType w.slot == 3
    if asserting s || (waits && !passed s since.real 200000) then .next s
    else .next (requestReset .soft keep (retractAll s))

/-- A COMMAND packet that the trunk logic takes as a TRUNK reset: exactly the checks R389 lists, which name neither SEL nor
TARGET. -/
def trunkResetOk (s : State) (src dest : BitVec 7) (bytes : List Byte) : Bool :=
  let p : Packet := { req := .owner, via := some .east, dest := dest, bytes := bytes, arrived := s.now }
  s.ring.addrPhase == .confirmed && src == 0 && dest == s.ring.addr && bytes.length == 20 &&
  fldN (pktWord p 0) 0 16 == 5 && fldN (pktWord p 0) 19 5 == 0 && pktLen p == 1 &&
  (pktWord p 2 &&& 0xFFFFF080) == 0 &&
  (pktWord p 3 &&& 0xFFFFFEFF) == 1 && crcOk p

/-- The trunk logic resets the device. -/
def trunkReset (bytes : List Byte) (s : State) : State :=
  requestReset .trunk (bitAt (bytesWord (bytes.drop 12)) 8) (if inReset s then s else retractAll s)

/-- TRUNK_RESET_PACKET. -/
def execTrunkResetPacket (t : Instant) (src dest : BitVec 7) (bytes : List Byte) (s : State) : Result :=
  let s := setNow t s
  .next (if trunkLive s && trunkResetOk s src dest bytes then trunkReset bytes s else s)

/-! ### Supplies and pins (R387, R390, R486) -/

/-- POWER_ON: VDDAON has risen; PGOOD is still low. -/
def execPowerOn (t : Instant) (s : State) : Result :=
  let s := setNow t s
  .next (requestReset .powerOn false { s with
    pins := { s.pins with pgood := false }
    rst := { s.rst with pgood := false } })

/-- Option loading begins where the reset waited for it. -/
def beginLoading (s : State) : State :=
  if s.rst.phase == .holding && s.rst.pgood && !s.rst.resetNLow then { s with rst := { s.rst with phase := .loading } } else s

/-- The device sees RESET_N at a level: low resets it. -/
def seeResetN (low : Bool) (s : State) : State :=
  let s := { s with rst := { s.rst with resetNLow := low } }
  if low then requestReset .resetN false s else beginLoading s

/-- The device sees PGOOD at a level: low is a brown-out. -/
def seePgood (high : Bool) (s : State) : State :=
  let s := { s with rst := { s.rst with pgood := high } }
  if high then beginLoading s else requestReset .brownOut false s

/-- RESET_N changes at its pin; the device sees it unless the pin serves the boundary chain (R495). -/
def pinResetN (low : Bool) (s : State) : State :=
  let s := { s with pins := { s.pins with resetNLow := low } }
  if pinsChained s then s else seeResetN low s

/-- PGOOD changes at its pin; the device sees it unless the pin serves the boundary chain (R495). -/
def pinPgood (high : Bool) (s : State) : State :=
  let s := { s with pins := { s.pins with pgood := high } }
  if pinsChained s then s else seePgood high s

/-- The chained pins return to their functions: the device sees what changed meanwhile (R495; log entry 98). -/
def pinsBack (s : State) : State :=
  let s := if s.pins.pgood == s.rst.pgood then s else seePgood s.pins.pgood s
  if s.pins.resetNLow == s.rst.resetNLow then s else seeResetN s.pins.resetNLow s

/-- RESET_N: low for 1 µs. -/
def execResetN (t : Instant) (s : State) : Result := .next (pinResetN true (setNow t s))

/-- BROWN_OUT: PGOOD has fallen, or a rail has (log entry 81); the rail monitors are armed from the end of option loading on
(R484). -/
def execBrownOut (x : SupplyFall) (s : State) : Result :=
  let s := setNow x.instant s
  if x.rail && (s.rst.phase == .holding || s.rst.phase == .loading) then .next s
  else if x.rail then .next (seePgood false { s with pins := { s.pins with pgood := false } })
  else .next (pinPgood false s)

/-- PGOOD_RISE. -/
def execPgoodRise (t : Instant) (s : State) : Result := .next (pinPgood true (setNow t s))

/-- RESET_N_RELEASE. -/
def execResetNRelease (t : Instant) (s : State) : Result := .next (pinResetN false (setNow t s))

/-- VDDAON_LOSS: everything stops until VDDAON rises again. -/
def execVddaonLoss (t : Instant) (s : State) : Result :=
  let s := loseState .powerOn false (setNow t s)
  .next { s with rst := { s.rst with phase := .dead, asserted := resetDomains .powerOn false, waiting := none } }

/-! ### Option loading and release (R390–R397) -/

/-- A field of a fuse word that failed three reads: an option takes 0, a trim takes mid-scale (log entry 82). -/
def failField (f : Fuses) : FuseField → Fuses
  | .wdtStart => { f with wdtStart := false }
  | .resetOrder => { f with resetOrder := false }
  | .twaAddr => { f with twaAddr := 0 }
  | .twbAddr => { f with twbAddr := 0 }
  | .twaLevel => { f with twaLevel := 0 }
  | .twbLevel => { f with twbLevel := 0 }
  | .trunkRate => { f with trunkRate := 0 }
  | .autoload => { f with autoload := 0 }
  | .rampSlope g => { f with rampSlope := smSet 0 f.rampSlope g.val Config.midSlope }
  | .rampOffset g => { f with rampOffset := smSet 0 f.rampOffset g.val Config.midOffset }
  | .comparator => { f with comparator := Config.midComparator }
  | .gainThreshold => { f with gainTrim := Config.midGain }

/-- The gain threshold that its trim gives: 2,784 e⁻ as trimmed at test, a free value at mid-scale (R31, R45; log entry 82). -/
def loadThreshold (failed : List FuseField) (s : State) : State :=
  if failed.contains .gainThreshold then
    let f := takeFree s
    { f.2 with readout := { f.2.readout with gainThreshold := f.1.toNat } }
  else { s with readout := { s.readout with gainThreshold := 2784000 } }

/-- The straps and TESTEN as option loading samples them: free where their pins serve the boundary chain (R495; log entry 98). -/
def sampleStraps (o : OptionLoad) (s : State) : OptionLoad × State :=
  if pinsChained s then
    let w := takeFree s
    ({ o with boot := fld w.1 0 2, testen := bitAt w.1 2 }, w.2)
  else (o, s)

/-- OPTION_LOADING_END: the straps are sampled, VDDIO is at its 3.3 V level above 2.40 V (R485), and the always-on functions are
released; with TESTEN high every other domain stays in reset and FAULT_N is low (R493). -/
def execOptionLoadingEnd (t : Instant) (o : OptionLoad) (s : State) : Result :=
  let s := setNow t s
  if s.rst.phase == .loading then
    let sampled := sampleStraps o s
    let o := sampled.1
    let s := sampled.2
    let s := loadThreshold o.failed (if o.testen then resetTrunk s else s)
    let r := s.rst
    .next { s with
      pins := { s.pins with level33 := decide (2400 < o.vddio), testen := o.testen }
      power := { s.power with faultN := s.power.faultN || o.testen }
      rst := { r with
        phase := if o.testen then .testing else .releasing, fuses := o.failed.foldl failField r.blown
        fuseFault := r.fuseFault || !o.failed.isEmpty, straps := o.boot, boot := o.boot
        loadReported := BitVec.ofNat 4 r.loadAttempts, loadAttempts := 0
        legacyStretch := false, stretchUs := 0, gap := none, firstStretch := none, gapUnits := 0, gapAt := s.now.real
        asserted := if o.testen then resetDomains .soft false else r.asserted.erase .alwaysOn } }
  else .next s

/-- The release orders (R394, R395). -/
def releaseOrder (s : State) : List Domain :=
  if s.rst.fuses.resetOrder then [.alwaysOn, .clock, .trunk, .bureau, .memory, .converter, .pipeline, .bobbin]
  else [.alwaysOn, .clock, .bureau, .memory, .converter, .pipeline, .bobbin, .trunk]

/-- The domain released next. -/
def nextDomain (s : State) : Option Domain := (releaseOrder s).find? fun d => s.rst.asserted.contains d

/-- The number of a domain (R396). -/
def domainNo : Domain → Nat
  | .alwaysOn => 0
  | .clock => 1
  | .bureau => 2
  | .memory => 3
  | .converter => 4
  | .pipeline => 5
  | .bobbin => 6
  | .trunk => 7

/-- A domain is released: the Bureau's peripherals and the trunk ports take their fuses' values, and the watchdog is armed
where the fuse starts it. -/
def releaseDomain (d : Domain) (s : State) : State :=
  let s := { s with rst := { s.rst with asserted := s.rst.asserted.erase d, gap := none, gapUnits := 0, gapAt := s.now.real } }
  match d with
  | .bureau => resetTw { s with
      bureau := { s.bureau with upSince := s.now }
      rst := { s.rst with wdArm := s.rst.fuses.wdtStart, wdCount := 0, wdAt := s.now } }
  | .trunk => { s with west := freshPort s, east := freshPort s }
  | .bobbin => { s with engines := { s.engines with vendorFw := some (bankWord s s.nvm.activeB 2) } }
  | _ => s

/-- DOMAIN_RELEASE: the domain's clock is stable (R393). In legacy order this ends a stretched gap. -/
def execDomainRelease (t : Instant) (d : Domain) (s : State) : Result :=
  let s := setNow t s
  if s.rst.phase == .releasing && nextDomain s == some d && clockStable s d then
    if s.rst.fuses.resetOrder then
      match s.rst.gap with
      | some a => .next (releaseDomain d { s with rst := { s.rst with stretchUs := satAdd s.rst.stretchUs ((s.now.real - a) / 16000) } })
      | none => .next s
    else .next (releaseDomain d s)
  else .next s

/-- The legacy gap before the next release has been counted (R395). -/
def gapCounted (s : State) : Bool := decide (2048 * 16000000 ≤ gapSoFar s)

/-- LEGACY_GAP_END: domain `d` is released, or its gap is stretched. -/
def execLegacyGapEnd (t : Instant) (d : Domain) (s : State) : Result :=
  let s := setNow t s
  if s.rst.phase == .releasing && nextDomain s == some d && s.rst.fuses.resetOrder && s.rst.gap.isNone && gapCounted s then
    if clockStable s d then .next (releaseDomain d s)
    else .next { s with rst := { s.rst with
      gap := some s.now.real, legacyStretch := true, firstStretch := some (s.rst.firstStretch.getD (domainNo d)) } }
  else .next s

/-! ### The watchdog (R402–R406) -/

/-- P. -/
def wdPeriod (c : WatchdogCfg) : Nat := 2 ^ c.period.toNat
/-- W_open. -/
def wdOpen (c : WatchdogCfg) : Nat :=
  if c.window == 0 then 0 else if c.window == 1 then wdPeriod c / 2 else if c.window == 2 then wdPeriod c * 3 / 4
  else wdPeriod c * 7 / 8
/-- The count of the service-due event. -/
def wdDueAt (c : WatchdogCfg) : Nat := if c.window == 0 then wdPeriod c / 2 else wdOpen c
/-- The hard timer in ns. -/
def hardNs (c : WatchdogCfg) : Nat := 1000000 * 2 ^ c.hardMs.toNat

/-- The watchdog counts. -/
def wdRuns (s : State) : Bool :=
  s.rst.wdArm && !s.rst.wdFailed && !s.rst.asserted.contains .bureau && s.rst.waiting.isNone && s.power.phase != .stow

/-- A trap: the firmware stops answering and writes the dump; a further fault makes it request the reset at once (R419). -/
def trap (d : DumpRun) (s : State) : State :=
  match s.nvm.dumping with
  | some old => requestReset old.reset false s
  | none => { s with
      nvm := { s.nvm with dumping := some d }
      bureau := { s.bureau with ready := false, executing := none } }

/-- A watchdog failure: 1 EXPIRY, 2 EARLY, 3 KEY. Where the firmware stood is free (log entry 88). -/
def wdFail (code : Nat) (s : State) : State :=
  let s := wdSync s
  let r := s.rst
  let s := { s with rst := { r with
    wdFailed := true, wdHard := some s.now.real, lastWdtFail := BitVec.ofNat 2 code, wdtFailures := satInc r.wdtFailures } }
  let f := takeFree s
  trap { reset := .watchdog, cause := 1, detail := code, pc := f.1, stamp := ringStamp s } f.2

/-- A valid service: C restarts at 0, and values that waited for it apply. -/
def wdService (s : State) : State :=
  let r := s.rst
  { s with rst := { r with
    wdCount := 0, wdAt := s.now, wdKey := false, wdDue := false, wdtServices := satInc r.wdtServices
    wdCfg := r.wdNext.getD r.wdCfg, wdNext := none } }

/-- WDT_KEY_WRITE. -/
def execWdtKeyWrite (t : Instant) (key : Byte) (s : State) : Result :=
  let s := setNow t s
  if !wdRuns s then .next s
  else if wdPeriod s.rst.wdCfg ≤ wdC s then .next (wdFail 1 s)
  else if key == 0x5A then .next { s with rst := { s.rst with wdKey := true } }
  else if key == 0xA5 && s.rst.wdKey then .next (if wdC s < wdOpen s.rst.wdCfg then wdFail 2 s else wdService s)
  else .next (wdFail 3 s)

/-- SERVICE_DUE: C has reached W_open, or P/2 with no window. -/
def execServiceDue (t : Instant) (s : State) : Result :=
  let s := setNow t s
  .next (if wdRuns s && wdDueAt s.rst.wdCfg ≤ wdC s then { s with rst := { s.rst with wdDue := true } } else s)

/-- WATCHDOG_EXPIRY: C has reached P. -/
def execWatchdogExpiry (t : Instant) (s : State) : Result :=
  let s := setNow t s
  .next (if wdRuns s && wdPeriod s.rst.wdCfg ≤ wdC s then wdFail 1 s else s)

/-- HARD_TIMER_EXPIRY. -/
def execHardTimerExpiry (t : Instant) (s : State) : Result :=
  let s := setNow t s
  match s.rst.wdHard with
  | some a =>
    if passed s a (hardNs s.rst.wdCfg) && s.rst.waiting.isNone then .next (requestReset .watchdog false s) else .next s
  | none => .next s

/-- FATAL_ERROR: a Bureau exception, whose CAUSE_DETAIL is open (log entry 88), or with cause 3 an uncorrectable error of the
eighth region of R97. -/
def execFatalError (t : Instant) (cause : Byte) (pc : Word) (s : State) : Result :=
  let s := setNow t s
  if s.rst.asserted.contains .bureau || s.rst.waiting.isSome || s.power.phase == .stow then .next s
  else if cause == 3 then .next (trap { reset := .fatal, cause := 3, detail := 8, pc := pc, stamp := ringStamp s } s)
  else
    let f := takeFree s
    .next (trap { reset := .fatal, cause := 2, detail := fldN f.1 0 8, pc := pc, stamp := ringStamp s } f.2)

/-- W0 of WATCHDOG_CONFIG. -/
def wdWord (arm : Bool) (c : WatchdogCfg) : Word :=
  mkWord [(b2n arm, 12), (c.hardMs.toNat, 10), (c.window.toNat, 8), (c.period.toNat, 0)]

/-- WATCHDOG_CONFIG. -/
def watchdogConfigBody (c : Cmd) (s : State) : CmdResult :=
  let r := s.rst
  let w := paramAt (overlay c.words [wdWord r.wdArm r.wdCfg]) 0
  let arm := bitAt w 12
  let v : WatchdogCfg := { hardMs := fld w 10 2, window := fld w 8 2, period := fld w 0 5 }
  judged c.words [0x1F1F] s <|
    if v.period.toNat < 14 || 30 < v.period.toNat then cmdBad s 0
    else if r.fuses.wdtStart then
      if !arm then cmdRefuse s .notPermitted
      else if r.wdSeen then cmdRefuse s .wrongState
      else cmdOk { s with rst := { r with wdSeen := true, wdNext := some v } } [wdWord r.wdArm r.wdCfg]
    else if r.wdArm && v ≠ r.wdCfg then cmdRefuse s .wrongState
    else
      let r1 : ResetState := { r with wdArm := arm, wdCfg := v }
      let r2 := if arm && !r.wdArm then
          { r1 with wdCount := 0, wdAt := s.now, wdKey := false, wdDue := false, wdFailed := false } else r1
      cmdOk { s with rst := r2 } [wdWord arm v]

/-- WATCHDOG_CONFIG. -/
def execWatchdogConfig (t : Instant) (s : State) : Result := runCmd t 0x0808 watchdogConfigBody s

end Sys2Proof.Machine
end

