-- ==== Sys2Proof/Machine/Nvm.lean ====
section
/-! DEFINITION. eMRAM: partitions, page writes, the journal's transactions, NVM_READ and NVM_WRITE (R376, R408–R415). -/
namespace Sys2Proof.Machine

/-! ### Partitions and pages (R408, R409) -/

/-- First page of a partition. -/
def partFirst (p : Nat) : Nat :=
  if p = 0 then 0 else if p = 1 then 256 else if p = 2 then 2304 else if p = 3 then 4352 else if p = 4 then 5376
  else if p = 5 then 5888 else 6400

/-- Addressable bytes of a partition: USER without the journal's pages. -/
def partBytes (p : Nat) : Nat :=
  1024 * (if p = 0 then 256 else if p = 1 then 2048 else if p = 2 then 2048 else if p = 3 then 1024 else if p = 4 then 512
    else if p = 5 then 512 else 1152)

/-- The partition a page lies in. -/
def pagePart (g : Nat) : Nat :=
  if g < 256 then 0 else if g < 2304 then 1 else if g < 4352 then 2 else if g < 5376 then 3 else if g < 5888 then 4
  else if g < 6400 then 5 else 6

/-- The journal's first page: 608 staging pages, then 16 pages of records (log entry 83). -/
def journalPage : Nat := 7552

/-- NVM_WEAR: ARG0 the partition, ARG1 the page, ARG2 0 for a count or 1 for a failed write. -/
def raiseWear (page a2 : Nat) (s : State) : State := raise 0x0604 (pagePart page) page a2 s

/-- One write of a page is counted; its count reaching 88 units raises NVM_WEAR once (R410). -/
def countPage (page : Nat) (s : State) : State :=
  let n := smGet 0 s.nvm.wear page + 1
  let s := { s with nvm := { s.nvm with wear := smSet 0 s.nvm.wear page n, pageWrites := satInc s.nvm.pageWrites } }
  if n = 88 * 2 ^ 20 && !s.nvm.wearRaised.contains page then
    raiseWear page 0 { s with nvm := { s.nvm with wearRaised := insNat s.nvm.wearRaised page } }
  else s

/-- A page takes its content. -/
def setPage (page : Nat) (bs : List Byte) (s : State) : State :=
  { s with nvm := { s.nvm with cells := memSetBytes s.nvm.cells (page * 1024) bs } }

/-- The content of a page. -/
def pageBytes (s : State) (page : Nat) : List Byte := memBytes s.nvm.cells (page * 1024) 1024

/-- A page write outside the journal has ended: the page holds its content, or after a mismatch neither (R409). -/
def writePage (page : Nat) (bs : List Byte) (good : Bool) (s : State) : State :=
  countPage page (if good then setPage page bs s else spoilPage page s)

/-! ### Writes in progress (R376, R409) -/

/-- eMRAM writes go on: not in thermal hold, and with the Bureau domain running. -/
def writesGo (s : State) : Bool := !s.power.hold && !s.rst.asserted.contains .bureau && s.rst.waiting.isNone

/-- Whose page write begins next: after a trap only the digest's (R419), else the boot loader's record, FW_UPDATE_DATA's pages
and the transaction's, in this order (log entries 84 and 214). -/
def nextWriter (s : State) : Option NvmWriter :=
  match s.nvm.dumping with
  | some d => if d.written && d.next < 64 then some .digest else none
  | none =>
    if s.nvm.boot.isSome then some .boot else if s.nvm.direct.isSome then some .direct
    else if s.nvm.txn.isSome then some .txn else none

/-- The next page write begins. -/
def kickWrites (s : State) : State :=
  if s.nvm.inFlight.isSome || !writesGo s then s else { s with nvm := { s.nvm with inFlight := nextWriter s } }

/-- The journal takes no further transaction: a page is served from staging for good (R412). -/
def journalDead (s : State) : Bool := !s.nvm.redirects.isEmpty

/-- A transaction begins on pages from `first` on. -/
def startTxn (o : NvmOrigin) (first : Nat) (pages : List (List Byte)) (s : State) : State :=
  kickWrites { s with nvm := { s.nvm with txn := some { origin := o, first := first, pages := pages } } }

/-- What a command that needs the journal is refused with. -/
def journalRefusal (s : State) : Option Status :=
  if s.nvm.txn.isSome then some .busy else if journalDead s then some .nvmError else none

/-! ### Firmware banks (R416–R418) -/

/-- SEC_VERSION of a bank's image. -/
def secVersion (s : State) (b : Bool) : Nat := fldN (bankWord s b 3) 0 8

/-- The first step of R416 that a bank's image fails: 1 the key, 2 the signature, 4 the rollback count; 0 if it verifies. A
header that is not an image's, SEC_VERSION above the 32 levels of the fuse included, fails the signature (log entry 85). -/
def verifyBank (s : State) (b : Bool) : Nat :=
  let base := bankPage b * 1024
  let len := (bankWord s b 1).toNat
  let key := memBytes s.nvm.cells (base + 32) 64
  if sha256 key ≠ s.rst.fuses.keyHash.toNat then 1
  else if bankWord s b 0 != 0xF0A50001 || len < 4096 || 2097152 < len || len % 4 ≠ 0 || 32 < secVersion s b then 2
  else
    let body := memBytes s.nvm.cells base (len - 64)
    let sig := memBytes s.nvm.cells (base + len - 64) 64
    if !ecdsaOk (sha256 body) (beNat (key.take 32)) (beNat (key.drop 32)) (beNat (sig.take 32)) (beNat (sig.drop 32)) then 2
    else if secVersion s b < s.rst.fuses.rollback.toNat then 4
    else 0

/-- FW_UPDATE_DONE. -/
def fwDone (code : Nat) (b : Bool) (s : State) : State := raise 0x0602 code (b2n b) 0 s

/-! ### Committing a calibration record (R156, R169) -/

/-- Word i of the staged record. -/
def stagedWord (x : CalStaging) (i : Nat) : Word := smGet 0 x.words i

/-- The front or the back still has to put a table in force. -/
def calWaits (s : State) : Bool := !s.cal.frontPending.isEmpty || !s.cal.backPending.isEmpty

/-- A valid record is put in force, at once or at the next version boundary. -/
def placeTable (x : CalStaging) (s : State) : State :=
  let body := calBody s.rst.fuses.variantMl x.table (stagedWord x)
  let p : CalPending := ⟨x.table, x.dest, body⟩
  let idle := s.front.versions.isEmpty
  if x.table ≤ 3 then
    if idle then calInForce x.table x.dest body s
    else { s with cal := { s.cal with frontPending := s.cal.frontPending ++ [p] } }
  else if 6 ≤ x.table then
    if idle && s.back.drained = 0 then calInForce x.table x.dest body s
    else { s with cal := { s.cal with backPending := s.cal.backPending ++ [p] } }
  else calInForce x.table x.dest body s

/-- The LOCAL frame that the front corrects next (R156): a version that waits, else the oldest frame to come. -/
def nextLocal (s : State) : FrameId :=
  let id (src : VersionSrc) : Option FrameId := (localSource s src).map fun x => x.1.id
  match (localCandidate s).bind id with
  | some i => i
  | none => match s.accum.frames with
    | a :: _ => a.frame.id
    | [] => nextFrame s

/-- LOAD_CAL_TABLE's reply with FIRST_FRAME: 0 with capture stopped, and while it runs open for RATIO and MCV_COEF, which
correct no frame by themselves (log entries 86, 200). -/
def calLoaded (s : State) : CmdResult :=
  if captureStopped s then cmdOk s [0]
  else if (s.cal.staging.map fun x => x.table == 4 || x.table == 5) == some true then
    let f := takeFree s
    cmdOk f.2 [f.1]
  else cmdOk s [nextLocal s]

/-- LOAD_CAL_TABLE is answered once its table is in force. -/
def settleCal (s : State) : State :=
  let storing := match s.nvm.txn with
    | some x => x.origin == .calTable
    | none => false
  if (heldCmd s 0x0203).isNone || calWaits s || storing then s
  else finishHeld 0x0203 (fun _ s => calLoaded s) s

/-! ### A transaction ends (R411, R412, R415) -/

/-- SELFTEST_DONE. -/
def selftestDone (code result : Nat) (s : State) : State :=
  let r := s.readout
  let s := { s with readout := { r with test := none, lastTest := BitVec.ofNat 8 code } }
  endWork .selftest (raise 0x010E (code + 256 * result) r.passed.toNat r.failed.toNat s)

/-- The trims stored as the body of a RATIO record (R154). -/
def ratioBody (trims : List (Nat × BitVec 6)) : List Word :=
  let bits (l : List (Nat × BitVec 6)) : Nat := l.foldl (fun a x => a + x.2.toNat * 2 ^ (6 * (x.1 % 16))) 0
  (rangeFrom 0 50052).flatMap fun g =>
    let v := bits ((rangeFrom (16 * g) 16).filterMap fun c => let t := smGet 0 trims c; if t == 0 then none else some (c, t))
    takeWords 3 (natBytes 12 v)

/-- A calibration record of this device: its header, CRC and body (R153). -/
def calRecord (s : State) (id : Nat) (body : List Word) : List Word :=
  calRecordOf s.rst.fuses.variantMl s.rst.fuses.deviceId id body

/-- Pages with bytes written over their old content from a byte address on. -/
def mergedPages (s : State) (addr : Nat) (bs : List Byte) : Nat × List (List Byte) :=
  let first := addr / 1024
  let last := (addr + bs.length - 1) / 1024
  let m := memSetBytes s.nvm.cells addr bs
  (first, (rangeFrom first (last - first + 1)).map fun g => memBytes m (g * 1024) 1024)

/-- A record is written to its slot in CAL through the journal. -/
def storeRecord (o : NvmOrigin) (id : Nat) (ws : List Word) (s : State) : State :=
  let g := mergedPages s ((partFirst 3 + calSlotPage id) * 1024) (wordsBytes ws)
  startTxn o g.1 g.2 s

/-- The body of an MCV_COEF record with the coefficients in force (R474). -/
def mcvBody (s : State) : List Word :=
  (List.range 48).flatMap fun e => [smGet 0 s.mcv.offsets e, smGet 0x40000000 s.mcv.gains e]

/-- The coefficients of a FULL calibration are stored once the journal is free (R473). -/
def startCoefStore (s : State) : State :=
  match s.mcv.calStore with
  | some (a0, a2) =>
    if s.nvm.txn.isSome then s
    else
      let s := { s with mcv := { s.mcv with calStore := none } }
      if journalDead s then endWork .mcvCal (raise 0x0706 a0 4 a2 s)
      else storeRecord (.mcvCal a0 a2) 5 (calRecord s 5 (mcvBody s)) s
  | none => s

/-- A store that waits for the journal begins: the trims of RATIO_CAL. -/
def startTrimStore (s : State) : State :=
  match s.readout.test with
  | some x =>
    if x.storing && s.nvm.txn.isNone then
      if journalDead s then selftestDone x.code.toNat 1 s
      else storeRecord .selftest 4 (calRecord s 4 (ratioBody s.readout.trims)) s
    else s
  | none => s

/-- Stores that wait for the journal begin, one at a time. -/
def startStore (s : State) : State := startCoefStore (startTrimStore s)

/-- What follows a transaction, by what it was for. -/
def afterTxn (o : NvmOrigin) (good : Bool) (s : State) : State :=
  let refuse (op : Nat) (s : State) : State := finishHeld op (fun _ s => cmdRefuse s .nvmError) s
  match o with
  | .nvmWrite tag => endWork .nvm (raise 0x0601 tag.toNat (if good then 0 else 0x40) 0 s)
  | .calTable =>
    if good then
      match s.cal.staging with
      | some x => settleCal (placeTable x s)
      | none => settleCal s
    else refuse 0x0203 s
  | .selftest => match s.readout.test with
    | some x => selftestDone x.code.toNat (if good then 0 else 1) s
    | none => s
  | .mcvCal a0 a2 => endWork .mcvCal (raise 0x0706 a0 (if good then 0 else 4) a2 s)
  | .fwBegin n =>
    if good then finishHeld 0x0603 (fun _ s => cmdOk s [wordOf (b2n !s.nvm.activeB)])
      { s with nvm := { s.nvm with updateLength := some n, updateGot := 0 } }
    else refuse 0x0603 s
  | .fwVerified =>
    if good then
      let s := fwDone 0 (!s.nvm.activeB) { s with nvm := { s.nvm with updateLength := none } }
      finishHeld 0x0605 (fun _ s => cmdOk s) s
    else refuse 0x0605 s
  | .fwConfirm => if good then finishHeld 0x0605 (fun _ s => cmdOk s) (fwDone 4 s.nvm.activeB s) else refuse 0x0605 s
  | .dumpClear _ => if good then finishHeld 0x0607 (fun _ s => cmdOk s) s else refuse 0x0607 s
  | _ => s

/-- A transaction ends. -/
def endTxn (x : NvmTxn) (good : Bool) (s : State) : State :=
  startStore (afterTxn x.origin good { s with nvm := { s.nvm with txn := none, lastTxn := txnCode x.origin good } })

/-! ### Page writes of a transaction (R409–R412) -/

/-- The page that the next write of a transaction goes to. -/
def txnPage (s : State) (x : NvmTxn) : Nat :=
  let p := x.pages.length
  if x.next < p then journalPage + s.nvm.stageNext % 608
  else if atRecord x then journalPage + 608 + s.nvm.recordNext % 16
  else x.first + (x.next - p - 1)

/-- The next page write of a transaction is one of its pages in place. -/
def atHome (x : NvmTxn) : Bool := x.pages.length < x.next && x.next ≤ 2 * x.pages.length

/-- A page write of a transaction has ended: it is counted, and a page in place reads as its new content, from staging until the
transaction ends or where it fails for good. -/
def pageEnded (x : NvmTxn) (s : State) : State :=
  let s := countPage (txnPage s x) s
  if atHome x then setPage (txnPage s x) (x.pages.getD (x.next - x.pages.length - 1) []) s else s

/-- The journal's pages rotate past one that has been written. -/
def rotate (x : NvmTxn) (s : State) : State :=
  let n := s.nvm
  if x.next < x.pages.length then { s with nvm := { n with stageNext := (n.stageNext + 1) % 608 } }
  else if atRecord x then { s with nvm := { n with recordNext := (n.recordNext + 1) % 16 } }
  else s

/-- A page in place that failed twice is served from staging for good. -/
def redirect (page : Nat) (s : State) : State := { s with nvm := { s.nvm with redirects := insNat s.nvm.redirects page } }

/-- What the end of a page write leaves a transaction to do: go on to its next step, write the page once more, or end. A second
mismatch ends it in its first step and at its commit record, redirects a page in place, and is passed over at the completion
record (R409, R411, R412; log entry 87). -/
inductive TxnNext where
  | step
  | retry
  | fail
deriving DecidableEq, Repr

/-- What follows a page write of a transaction; NVM_WEAR reports a second mismatch. -/
def judgePage (x : NvmTxn) (good : Bool) (s : State) : TxnNext × State :=
  let g := txnPage s x
  let s := pageEnded x s
  if good then (.step, s)
  else if !x.retried then (.retry, s)
  else
    let s := raiseWear g 1 s
    if x.next ≤ x.pages.length then (.fail, s) else (.step, if atHome x then redirect g s else s)

/-- A retry begins. -/
def noteRetry (s : State) : State := { s with nvm := { s.nvm with verifyRetries := satInc s.nvm.verifyRetries } }

/-- A page write of the transaction has ended. -/
def txnWritten (x : NvmTxn) (good : Bool) (s : State) : State :=
  match judgePage x good s with
  | (.retry, s) => noteRetry (putTxn false (some { x with retried := true }) s)
  | (.fail, s) => endTxn x false s
  | (.step, s) =>
    let s := rotate x s
    if x.next = 2 * x.pages.length + 1 then endTxn x true s
    else
      let s := if x.next = x.pages.length then commitEffect x.origin s else s
      putTxn false (some { x with next := x.next + 1, retried := false }) s

/-! ### FW_UPDATE_DATA and the digest (R418, R420) -/

/-- FW_UPDATE_DATA is answered. -/
def directDone (good : Bool) (words : Nat) (s : State) : State :=
  let s := { s with nvm := { s.nvm with direct := none } }
  if good then finishHeld 0x0604 (fun _ s => cmdOk s) { s with nvm := { s.nvm with updateGot := s.nvm.updateGot + 4 * words } }
  else finishHeld 0x0604 (fun _ s => cmdRefuse s .nvmError) { s with nvm := { s.nvm with updateLength := none, updateGot := 0 } }

/-- A page write of FW_UPDATE_DATA has ended; a second mismatch ends the update (R418). -/
def directWritten (d : NvmDirect) (good : Bool) (s : State) : State :=
  match d.pages with
  | [] => directDone true d.words s
  | (g, bs) :: rest =>
    let s := writePage g bs good s
    if good then
      if rest.isEmpty then directDone true d.words s
      else { s with nvm := { s.nvm with direct := some { d with pages := rest, retried := false } } }
    else if !d.retried then noteRetry { s with nvm := { s.nvm with direct := some { d with retried := true } } }
    else directDone false d.words (raiseWear g 1 s)

/-- The content of a digest's page: the dump's, with CRC_DUMP 0 (R419). -/
def digestBytes (s : State) (page : Nat) : List Byte :=
  let bs := memBytes s.dram (partBase .dump + 1024 * page) 1024
  if page = 0 then bs.take 28 ++ List.replicate 4 0 ++ bs.drop 32 else bs

/-- The digest page in progress is written: a slot whose page changes is incomplete until its header page carries its DUMP_SEQ
(R420). -/
def putDigest (d : DumpRun) (good : Bool) (s : State) : State :=
  let i := digestPage d.next
  let g := digestFirst d.slot + i
  let old := pageBytes s g
  let s := writePage g (digestBytes s i) good s
  let mark : Option Word :=
    if i = 0 then (if good && !d.bad then some (memWord s.dram (partBase .dump + 4)) else none)
    else if pageBytes s g = old then s.nvm.digests.getD d.slot none else none
  { s with nvm := { s.nvm with digests := s.nvm.digests.set d.slot mark } }

/-- A page write of the digest has ended; one that fails twice leaves the slot incomplete and the next page follows. -/
def digestWritten (d : DumpRun) (good : Bool) (s : State) : State :=
  let s := putDigest d good s
  let put (d : DumpRun) (s : State) : State := { s with nvm := { s.nvm with dumping := some d } }
  if good then put { d with next := d.next + 1, retried := false } s
  else if !d.retried then noteRetry (put { d with retried := true } s)
  else put { d with next := d.next + 1, retried := false, bad := true } (raiseWear (digestFirst d.slot + digestPage d.next) 1 s)

/-! ### The last page before a reset (R403, R409, R412) -/

/-- The page of a transaction that was in progress at a trap or a reset has ended: no retry begins and nobody is told, and a step
that passed counts. -/
def lastOfTxn (boot : Bool) (x : NvmTxn) (good : Bool) (s : State) : State :=
  match judgePage x good s with
  | (.retry, s) => s
  | (.fail, s) => putTxn boot none { s with nvm := { s.nvm with lastTxn := 4 } }
  | (.step, s) => stepStands boot x (rotate x s)

/-- A page write that a reset or the dump waits for has ended. -/
def lastPage (good : Bool) (s : State) : State :=
  match s.nvm.inFlight with
  | none => s
  | some .txn => match s.nvm.txn with
    | some x => lastOfTxn false x good s
    | none => s
  | some .boot => match s.nvm.boot with
    | some x => lastOfTxn true x good s
    | none => s
  | some .direct => match s.nvm.direct with
    | some { pages := (g, bs) :: _, retried := again, .. } =>
      let s := writePage g bs good s
      if !good && again then raiseWear g 1 s else s
    | _ => s
  | some .digest => match s.nvm.dumping with
    | some d =>
      let s := putDigest d good s
      if !good && d.retried then raiseWear (digestFirst d.slot + digestPage d.next) 1 s else s
    | none => s

/-! ### NVM_READ and NVM_WRITE (R415) -/

/-- NVM_READ. -/
def nvmReadBody (c : Cmd) (s : State) : CmdResult :=
  let w0 := paramAt c.words 0
  let part := fldN w0 0 4
  let off := (paramAt c.words 1).toNat
  let n := (c.words.getD 2 1).toNat
  judged c.words [0xF, 0xFFFFFFFF, 0xFFFF] s <|
    if 6 < part then cmdBad s 0
    else if off % 4 ≠ 0 then cmdBad s 1
    else if n = 0 || pathWords c.via < n then cmdBad s 2
    else if partBytes part < off + 4 * n then cmdBad s 1
    else cmdOk s (memWords s.nvm.cells (partFirst part * 1024 + off) n)

/-- NVM_READ. -/
def execNvmRead (t : Instant) (s : State) : Result := runCmd t 0x0601 nvmReadBody s

/-- The staging copy with data written, for a partition. -/
def stageWords (s : State) (part word : Nat) (data : List Word) : List (Nat × Word) :=
  let old := match s.nvm.staging with
    | some (p, m) => if p = part then m else []
    | none => []
  let new := data.zipIdx.map fun d => (word + d.2, d.1)
  smMerge (old.length + new.length + 1) old new

/-- The first page and the number of pages that a staging copy spans in its partition. -/
def stageSpan (m : List (Nat × Word)) : Nat × Nat :=
  match m.head?, m.getLast? with
  | some a, some b => (a.1 / 256, b.1 / 256 - a.1 / 256 + 1)
  | _, _ => (0, 0)

/-- The pages of a staging copy merged with the old content. -/
def stagePages (s : State) (part : Nat) (m : List (Nat × Word)) : Nat × List (List Byte) :=
  let first := partFirst part + (stageSpan m).1
  let cells := m.foldl (fun cs x => memSetWord cs (partFirst part * 1024 + 4 * x.1) x.2) s.nvm.cells
  (first, (rangeFrom first (stageSpan m).2).map fun g => memBytes cells (g * 1024) 1024)

/-- NVM_WRITE. -/
def nvmWriteBody (c : Cmd) (s : State) : CmdResult :=
  let w0 := paramAt c.words 0
  let part := fldN w0 0 4
  let commit := bitAt w0 19
  let discard := bitAt w0 18
  let off := (paramAt c.words 1).toNat
  let data := c.words.drop 2
  judged (c.words.take 2) [0xC000F, 0xFFFFFFFF] s <|
    let m := stageWords s part (off / 4) data
    if (discard && commit) || (commit && m.isEmpty) then cmdBad s 0
    else if off % 4 ≠ 0 || partBytes part < off + 4 * data.length || (!discard && 608 < (stageSpan m).2) then cmdBad s 1
    else if discard && !data.isEmpty then cmdBad s 2
    else if part ≠ 4 && part ≠ 6 then cmdRefuse s .notPermitted
    else if s.power.hold then cmdRefuse s .busy
    else if discard then cmdOk { s with nvm := { s.nvm with staging := none } }
    else if !commit then cmdOk { s with nvm := { s.nvm with staging := some (part, m) } }
    else
      match journalRefusal s with
        | some st => cmdRefuse s st
        | none =>
          let g := stagePages s part m
          let s := { s with nvm := { s.nvm with staging := none } }
          cmdPending (startWork c.req .nvm (startTxn (.nvmWrite c.tag) g.1 g.2 s))

/-- NVM_WRITE. -/
def execNvmWrite (t : Instant) (s : State) : Result := runCmd t 0x0602 nvmWriteBody s

end Sys2Proof.Machine
end

