-- ==== Sys2Proof/Machine/CalLoad.lean ====
section
/-! DEFINITION. LOAD_CAL_TABLE and the version boundaries at which tables take effect (R128, R156, R169). -/
namespace Sys2Proof.Machine

/-- The staging copy that a command for a table and a destination writes to; another's is discarded. -/
def stagingFor (s : State) (id dest : Nat) : CalStaging :=
  match s.cal.staging with
  | some x => if x.table = id && x.dest = dest then x else { table := id, dest := dest }
  | none => { table := id, dest := dest }

/-- Words added to a staging copy from word i. -/
def addStaged (x : CalStaging) (i : Nat) (ws : List Word) : CalStaging := { x with words := smSetMany 0 x.words i ws }

/-- The largest record of a table in bytes, rounded up to whole words. -/
def stagingBytes (ml : Bool) (id : Nat) : Nat := (calLargest ml id + 3) / 4 * 4

/-- COMMIT of the staged record (R155, R156): a STORE goes through the journal first; the reply waits until the table is in
force. -/
def commitTable (store : Bool) (x : CalStaging) (before s : State) : CmdResult :=
  let ml := s.rst.fuses.variantMl
  let r := calReason ml s.rst.fuses.deviceId x.table (stagedWord x)
  if r = 2 then cmdRefuse before .badCrc
  else if r ≠ 0 then cmdBadAny before
  else if (s.nvm.txn.map (·.origin)) == some .calTable then cmdRefuse before .busy
  else if store then
    match journalRefusal s with
    | some st => cmdRefuse before st
    | none =>
      let n := 8 + (calBodyBytes ml x.table (stagedWord x 3).toNat + 3) / 4
      cmdHeld (storeRecord .calTable x.table ((List.range n).map (stagedWord x)) s)
  else
    let s := placeTable x s
    if calWaits s then cmdHeld s else calLoaded s

/-- LOAD_CAL_TABLE. -/
def loadCalBody (c : Cmd) (s : State) : CmdResult :=
  let w := paramAt c.words 0
  let id := fldN w 0 8
  let dest := fldN w 16 2
  let commit := bitAt w 19
  let store := bitAt w 18
  let off := (paramAt c.words 1).toNat
  let data := c.words.drop 2
  judged c.words [0x000F00FF, 0xFFFFFFFF] s <|
    if id = 0 || 7 < id || dest = 3 || (dest ≠ 0 && (id ≠ 2 || store)) then cmdBad s 0
    else if off % 4 ≠ 0 || stagingBytes s.rst.fuses.variantMl id < off + 4 * data.length then cmdBad s 1
    else
      let x := addStaged (stagingFor s id dest) (off / 4) data
      let s1 := { s with cal := { s.cal with staging := some x } }
      if commit then commitTable store x s s1 else cmdOk s1 [0]

/-- LOAD_CAL_TABLE. -/
def execLoadCalTable (t : Instant) (s : State) : Result := runCmd t 0x0203 loadCalBody s

/-- FRONT_BAND_SELECT. -/
def execFrontBandSelect (t : Instant) (ecc : List EccHit) (s : State) : Result := .next (settleCal (bandSelect ecc (setNow t s)))

/-- FRONT_BEGIN_VERSION. -/
def execFrontBeginVersion (t : Instant) (s : State) : Result := .next (settleCal (beginNext (setNow t s)))

/-- FRONT_END_VERSION. -/
def execFrontEndVersion (t : Instant) (s : State) : Result := .next (settleCal (endNext (setNow t s)))

/-- BACK_END_VERSION; without its clocks the back ends none (R13). -/
def execBackEndVersion (t : Instant) (s : State) : Result :=
  let s := setNow t s
  .next (if pipeRuns s then settleCal (backEnd s) else s)

end Sys2Proof.Machine
end

