-- ==== Sys2Proof/Machine/Firmware.lean ====
section
/-! DEFINITION. Firmware update, the boot loader, the end of a start-up, and the post-mortem dump (R392, R398–R401, R412, R414,
R416–R422). -/
namespace Sys2Proof.Machine

/-! ### FW_UPDATE (R418) -/

/-- FW_UPDATE_BEGIN. -/
def fwBeginBody (c : Cmd) (s : State) : CmdResult :=
  let len := (paramAt c.words 0).toNat
  if len < 4096 || 2097152 < len || len % 4 ≠ 0 then cmdBad s 0
  else if s.nvm.trial == 2 then cmdRefuse s .wrongState
  else match journalRefusal s with
    | some st => cmdRefuse s st
    | none => cmdHeld (startTxn (.fwBegin len) 0 [] s)

/-- FW_UPDATE_BEGIN. -/
def execFwUpdateBegin (t : Instant) (s : State) : Result := runCmd t 0x0603 fwBeginBody s

/-- FW_UPDATE_DATA: the pages that the words touch are written straight into the bank. -/
def fwDataBody (c : Cmd) (s : State) : CmdResult :=
  let off := (paramAt c.words 0).toNat
  let data := c.words.drop 1
  match s.nvm.updateLength with
  | none => cmdRefuse s .wrongState
  | some len =>
    if off ≠ s.nvm.updateGot then cmdBad s 0
    else if len < off + 4 * data.length then cmdBad s 1
    else if s.power.hold then cmdRefuse s .busy
    else if data.isEmpty then cmdOk s
    else
      let g := mergedPages s (bankPage (!s.nvm.activeB) * 1024 + off) (wordsBytes data)
      let pages := g.2.zipIdx.map fun x => (g.1 + x.2, x.1)
      cmdHeld (kickWrites { s with nvm := { s.nvm with direct := some { pages := pages, words := data.length } } })

/-- FW_UPDATE_DATA. -/
def execFwUpdateData (t : Instant) (s : State) : Result := runCmd t 0x0604 fwDataBody s

/-- ACTIVATE: the bank is verified; only a good image makes it VALID and the trial PENDING. -/
def activate (s : State) : CmdResult :=
  let b := !s.nvm.activeB
  let fail (st : Status) (detail code : Nat) : CmdResult := { cmdRefuse (fwDone code b s) st detail with keeps := true }
  if s.nvm.updateLength.isNone then cmdRefuse s .wrongState
  else match journalRefusal s with
    | some st => cmdRefuse s st
    | none => match verifyBank s b with
      | 1 => fail .signatureFail 1 1
      | 2 => fail .signatureFail 2 1
      | 4 => fail .notPermitted 4 2
      | _ => cmdHeld (startTxn .fwVerified 0 [] s)

/-- The rollback thermometer is blown up to a level of at most 32 (R416). -/
def blowRollback (n : Nat) (s : State) : State :=
  let up (f : Fuses) : Fuses := { f with rollback := BitVec.ofNat 6 (min 32 (max f.rollback.toNat n)) }
  { s with rst := { s.rst with fuses := up s.rst.fuses, blown := up s.rst.blown } }

/-- FW_UPDATE_COMMIT. -/
def fwCommitBody (c : Cmd) (s : State) : CmdResult :=
  let mode := fldN (paramAt c.words 0) 0 2
  judged c.words [3] s <|
    if mode = 0 then activate s
    else if mode = 1 then
      if s.nvm.trial ≠ 2 then cmdRefuse s .wrongState
      else match journalRefusal s with
        | some st => cmdRefuse s st
        | none => cmdHeld (startTxn .fwConfirm 0 [] (blowRollback (secVersion s (!s.nvm.activeB)) s))
    else if mode = 2 then cmdOk { s with nvm := { s.nvm with updateLength := none, updateGot := 0 } }
    else cmdBad s 0

/-- FW_UPDATE_COMMIT. -/
def execFwUpdateCommit (t : Instant) (s : State) : Result := runCmd t 0x0605 fwCommitBody s

/-! ### The dump (R419–R422) -/

/-- Words followed by free ones up to a length. -/
def withFree (n : Nat) (ws : List Word) (s : State) : List Word × State :=
  let (f, s) := freeWords (n - ws.length) s
  (ws ++ f, s)

/-- Words filled up with zeros to a length. -/
def withZeros (n : Nat) (ws : List Word) : List Word := (ws ++ List.replicate n 0).take n

/-- Header words of a dump without the CRCs. -/
def dumpHead (d : DumpRun) (seq : Nat) (s : State) : List Word :=
  [0xD0C50001, wordOf seq, mkWord [(d.cause, 24), (d.detail, 16), (b2n s.nvm.activeB, 0)], lo32 d.stamp, hi32 d.stamp, fwVersion s]

/-- The first 64 KiB of a dump behind its 16 header words: what the layout does not fix is free (log entry 88). -/
def dumpBody (d : DumpRun) (s : State) : List Word × State :=
  let (h, s) := freeWords 1008 s
  let fault := (List.range 1024).map (Config.faultRecord s.free d.cause d.pc)
  let cmds := withZeros 4096 s.bureau.recent.flatten
  let evs := withZeros 2048 (s.events.log.flatMap recordWords)
  let secs := (sections.flatMap fun g => g s)
  let (st, s) := withFree 8192 secs { s with free := s.free + 1 }
  (h ++ fault ++ cmds ++ evs ++ st, s)

/-- Address of the dump region. -/
def dumpBase : Nat := partBase .dump

/-- Words of a dump from 0x01_0000 to 0x2F_FFFF: frame counters, block registers, trunk state and the Bureau's SRAM (log entry
88). -/
def snapshotWords : Nat := (0x300000 - 0x10000) / 4

/-- Bytes of the Bureau working area that a dump holds. -/
def workBytes : Nat := 13 * mib

/-- A range of the memory wafer is copied; bytes that nothing has written stay such (R419). -/
def copyRange (src dst n : Nat) (m : List (Nat × Byte)) : List (Nat × Byte) :=
  (m.filter fun c => c.1 < dst) ++
  ((m.filter fun c => src ≤ c.1 && c.1 < src + n).map fun c => (c.1 - src + dst, c.2)) ++
  (m.filter fun c => dst + n ≤ c.1)

/-- The first 13 MiB of the working area are copied to the end of the dump; its words hold no error (R94). -/
def copyWork (s : State) : State :=
  let lo := (dumpBase + 0x300000) / 8
  let keep (w : Nat) : Bool := w < lo || lo + workBytes / 8 ≤ w
  { s with
    dram := copyRange (partBase .bureauArea) (dumpBase + 0x300000) workBytes s.dram
    dramBad := s.dramBad.filter keep, dramSoft := s.dramSoft.filter keep }

/-- The 16 MiB of the dump are written to its region, the header last; the digest's slot is chosen (R419, R420). -/
def writeDump (d : DumpRun) (s : State) : State :=
  let seq := dumpSeqLast s.nvm.digests + 1
  let (body, s) := dumpBody d s
  let (snap, s) := freeWords snapshotWords s
  let s := copyWork (dramWriteWords s (dumpBase + 64) (body ++ snap))
  let crcDig := crc32 (memBytes s.dram (dumpBase + 64) (0x10000 - 64))
  let crcAll := crc32 (memBytes s.dram (dumpBase + 0x10000) 0xFF0000)
  let s := dramWriteWords s dumpBase (dumpHead d seq s ++ [crcDig, crcAll] ++ List.replicate 8 0)
  { s with nvm := { s.nvm with
      dumpValid := true, dumping := some { d with written := true, slot := digestSlot s.nvm.digests } } }

/-- DUMP_COMPLETE: the dump stands in its region and its digest begins, or the digest is complete and the reset is requested. The
dump needs the memory's clock (log entry 214). -/
def execDumpComplete (t : Instant) (s : State) : Result :=
  let s := setNow t s
  .next (match s.nvm.dumping with
    | some d =>
      if s.rst.waiting.isSome then s
      else if !d.written then (if logBlocked s then s else kickWrites (writeDump d s))
      else if d.next < 64 then s
      else requestReset d.reset false s
    | none => s)

/-- Word of a digest slot. -/
def digestWord (s : State) (slot i : Nat) : Word := memWord s.nvm.cells ((partFirst 5 + 64 * slot) * 1024 + 4 * i)

/-- DUMP_READ. -/
def dumpReadBody (c : Cmd) (s : State) : CmdResult :=
  let w0 := paramAt c.words 0
  let dig := bitAt w0 0
  let slot := fldN w0 4 3
  let off := (paramAt c.words 1).toNat
  let n := (c.words.getD 2 1).toNat
  judged c.words [0x71, 0xFFFFFFFF, 0xFFFF] s <|
    if off % 4 ≠ 0 then cmdBad s 1
    else if n = 0 || pathWords c.via < n then cmdBad s 2
    else if (if dig then 65536 else 16777216) < off + 4 * n then cmdBad s 1
    else if dig then
      if digestWord s slot 0 != 0xD0C50001 then cmdRefuse s .wrongState
      else cmdOk s (digestWord s slot 1 :: memWords s.nvm.cells ((partFirst 5 + 64 * slot) * 1024 + off) n)
    else if !s.nvm.dumpValid then cmdRefuse s .wrongState
    else cmdOk s (memWord s.dram (dumpBase + 4) :: memWords s.dram (dumpBase + off) n)

/-- DUMP_READ. -/
def execDumpRead (t : Instant) (s : State) : Result := runCmd t 0x0606 dumpReadBody s

/-- DUMP_CLEAR. -/
def dumpClearBody (c : Cmd) (s : State) : CmdResult :=
  let w := paramAt c.words 0
  judged c.words [3] s <|
    if s.nvm.txn.isSome then cmdRefuse s .busy
    else if bitAt w 1 && journalDead s then cmdRefuse s .nvmError
    else
      let s := if bitAt w 0 then
          let z := dramWrite s dumpBase (List.replicate 4096 0)
          { z with nvm := { z.nvm with dumpValid := false } }
        else s
      if bitAt w 1 then cmdHeld (startTxn (.dumpClear (wordOf (dumpSeqLast s.nvm.digests))) 0 [] s) else cmdOk s

/-- DUMP_CLEAR. -/
def execDumpClear (t : Instant) (s : State) : Result := runCmd t 0x0607 dumpClearBody s

/-! ### Profiles (R399, R414) -/

/-- The bytes of profile p. -/
def profileBytes (s : State) (p : Nat) : List Byte := memBytes s.nvm.cells (partFirst 4 * 1024 + (p - 1) * 65536) 65536

/-- The packets of a profile: back to back, each as long as its LENGTH says; none where they do not fit. -/
def splitPackets : Nat → List Byte → Option (List (List Byte))
  | 0, bs => if bs.isEmpty then some [] else none
  | n + 1, bs =>
    let len := 4 * (fldN (bytesWord ((bs.drop 4).take 4)) 16 16 + 4)
    if bs.length < len then none else (splitPackets n (bs.drop len)).map fun r => bs.take len :: r

/-- The packets of profile p where it passes its check. -/
def profilePackets (s : State) (p : Nat) : Option (List (List Byte)) :=
  let bs := profileBytes s p
  let len := (bytesWord ((bs.drop 4).take 4)).toNat
  let count := fldN (bytesWord ((bs.drop 8).take 4)) 0 16
  if bytesWord (bs.take 4) != 0x50F10001 || len < 16 || 65536 < len || len % 4 ≠ 0 then none
  else if crc32 (bs.take (len - 4)) != bytesWord ((bs.drop (len - 4)).take 4) then none
  else splitPackets count ((bs.take (len - 4)).drop 12)

/-! ### The end of a start-up (R392, R396, R401, R417, R421) -/

/-- DUMP_PRESENT: the dump region's dump, or else a digest not cleared. -/
def dumpPresent (s : State) : State :=
  if s.nvm.dumpValid then
    raise 0x0603 0 (memWord s.dram (dumpBase + 4)).toNat (fldN (memWord s.dram (dumpBase + 8)) 24 8) s
  else
    let q := dumpSeqLast s.nvm.digests
    if s.nvm.clearedSeq.toNat < q then
      match s.nvm.digests.findIdx? fun x => x == some (wordOf q) with
      | some slot => raise 0x0603 1 q (fldN (digestWord s slot 2) 24 8) s
      | none => s
    else s

/-- The frozen set is reported again. -/
def reportFrozen (s : State) : State :=
  match s.history.frozenSet with
  | some (n, a, b) => raise 0x010A n a.toNat b.toNat s
  | none => s

/-- LEGACY_STRETCH. -/
def reportStretch (s : State) : State :=
  match s.rst.firstStretch with
  | some d => raise 0x0809 d s.rst.stretchUs.toNat 0 s
  | none => s

/-- An update reverted, or a trial booted, by this start-up. -/
def reportUpdate (s : State) : State :=
  match s.rst.revertedBank with
  | some b => fwDone 5 b s
  | none => if s.nvm.trial == 2 && !s.rst.recovery then fwDone 3 (!s.nvm.activeB) s else s

/-- The firmware takes commands: RESTARTED, and what follows it. -/
def firmwareReady (s : State) : State :=
  let s := raise 0x0001 (causeCode s.rst.cause) s.rst.loadReported.toNat 0 s
  let s := dumpPresent (reportUpdate (reportFrozen (reportStretch s)))
  settleAll { s with
    bureau := { s.bureau with ready := true }
    rst := { s.rst with phase := .done, profileDue := false, firstStretch := none, revertedBank := none } }

/-! ### The boot loader (R398, R412, R417) -/

/-- A record of the boot loader that a reset cut short: without its commit record it is discarded, else it is completed like a
transaction of zero pages (R412). -/
def recoverBoot (s : State) : State :=
  match s.nvm.boot with
  | none => s
  | some x =>
    let s := putTxn true none s
    if x.next = 0 then { s with nvm := { s.nvm with lastTxn := 2 } }
    else if s.nvm.txn.isSome then s
    else putTxn false (some { x with retried := false }) s

/-- Journal recovery: a transaction without its commit record is discarded, one without its completion record is completed,
its range being read from staging meanwhile (R412). -/
def recoverJournal (s : State) : State :=
  let s := recoverBoot s
  match s.nvm.txn with
  | none => s
  | some x =>
    let p := x.pages.length
    if x.next ≤ p then { s with nvm := { s.nvm with txn := none, lastTxn := 2 } }
    else
      let s := x.pages.zipIdx.foldl (fun s g => setPage (x.first + g.2) g.1 s) s
      { s with nvm := { s.nvm with txn := some { x with origin := .recovered, next := p + 1, retried := false } } }

/-- The firmware of a bank starts, with the vendor kernel images of its body (R392, R416; log entry 182). -/
def startBank (b : Bool) (s : State) : State :=
  let w := bankWord s b 2
  { s with
    engines := { s.engines with vendorFw := some w }
    nvm := { s.nvm with fwMajor := fld w 24 8, fwMinor := fld w 16 8, fwBuild := fld w 0 16 } }

/-- BRINGUP: RAMP_H at LEVEL 0xF_FFFE from the first version (R398). -/
def bringUpPattern (s : State) : State :=
  if s.rst.boot == 2 then { s with bureau := { s.bureau with pattern := { pattern := 1, enable := true, level := 0xFFFFE } } } else s

/-- The profile to execute, or PROFILE_SKIPPED (R399). -/
def planProfile (s : State) : State :=
  let p := s.rst.fuses.autoload.toNat
  let run := p ≠ 0 && s.rst.boot == 0 && !s.rst.recovery && !s.rst.quickFatal && (profilePackets s p).isSome
  { s with rst := { s.rst with profileDue := run, profileSkipped := p ≠ 0 && !run, executed := 0, refusedCmds := 0 } }

/-- In RECOVERY both two-wire ports are in target role at their fuse addresses (R398). -/
def targetRoles (s : State) : State :=
  { s with
    twa := { s.twa with cfg := { s.twa.cfg with role := false, taddr := 0 } }
    twb := { s.twb with cfg := { s.twb.cfg with role := false, taddr := 0 } } }

/-- The boot loader enters RECOVERY and waits for firmware. -/
def enterRecovery (s : State) : State :=
  firmwareReady (planProfile (targetRoles { s with rst := { s.rst with recovery := true } }))

/-- The boot loader starts a bank. -/
def bootBank (b : Bool) (s : State) : State :=
  let s := planProfile (bringUpPattern (loadStoredTables (startBank b s)))
  if s.rst.profileDue then s else firmwareReady s

/-- A record of the boot loader is written, and `f` follows it; where the journal takes no transaction `f` follows at once
(R412, R417; log entry 214). -/
def withRecord (o : NvmOrigin) (f : State → State) (s : State) : State :=
  if journalDead s then f s
  else { s with nvm := { s.nvm with boot := some { origin := o, first := 0, pages := [] } } }

/-- After the record that makes a bank active: it is booted. `made`: the record was written. -/
def afterSwitch (made : Bool) (s : State) : State := bootBank (if made then s.nvm.activeB else !s.nvm.activeB) s

/-- The active bank, else the other, else RECOVERY (R417). -/
def tryActive (s : State) : State :=
  let a := s.nvm.activeB
  let o := bankState s (!a)
  if verifyBank s a = 0 then bootBank a s
  else if o != .incomplete && o != .empty && verifyBank s (!a) = 0 then withRecord .bootSwitch (afterSwitch false) s
  else enterRecovery s

/-- After the record that rejects the trial bank. -/
def afterReject (s : State) : State := tryActive { s with rst := { s.rst with revertedBank := some (!s.nvm.activeB) } }

/-- A bank found on trial is rejected: a reset came before CONFIRM. -/
def tryReject (s : State) : State := if s.nvm.trial == 2 then withRecord .bootReject afterReject s else tryActive s

/-- After the record that starts a trial: the trial bank runs if it verifies. -/
def afterTrial (s : State) : State :=
  if verifyBank s (!s.nvm.activeB) = 0 then bootBank (!s.nvm.activeB) s else tryReject s

/-- The boot loader's choice of a bank begins. -/
def chooseBank (s : State) : State := if s.nvm.trial == 1 then withRecord .bootTrial afterTrial s else tryReject s

/-- A record of the boot loader has been written, or has failed, and the boot loader goes on. -/
def bootGoesOn (o : NvmOrigin) (good : Bool) (s : State) : State :=
  match o with
  | .bootTrial => afterTrial s
  | .bootReject => afterReject s
  | .bootSwitch => afterSwitch good s
  | _ => s

/-- A page write of the boot loader's record has ended. -/
def bootWritten (x : NvmTxn) (good : Bool) (s : State) : State :=
  match judgePage x good s with
  | (.retry, s) => noteRetry (putTxn true (some { x with retried := true }) s)
  | (.fail, s) => bootGoesOn x.origin false (putTxn true none { s with nvm := { s.nvm with lastTxn := 4 } })
  | (.step, s) =>
    let s := stepStands true x (rotate x s)
    if s.nvm.boot.isSome then s else bootGoesOn x.origin true s

/-- BOOT_LOADER_START: every domain is released; the journal is recovered and a bank is chosen, or RECOVERY waits for firmware. -/
def execBootLoaderStart (t : Instant) (s : State) : Result :=
  let s := setNow t s
  if s.rst.phase != .releasing || !s.rst.asserted.isEmpty || s.bureau.ready || s.rst.profileDue || s.nvm.dumping.isSome ||
      s.rst.waiting.isSome || s.nvm.inFlight == some .boot then .next s
  else
    let s := recoverJournal s
    .next (kickWrites (if s.rst.boot == 1 || s.rst.boot == 3 then enterRecovery s else chooseBank s))

/-- PAGE_WRITE_COMPLETE: the page write in progress has been read back. -/
def execPageWriteComplete (t : Instant) (result : PageResult) (s : State) : Result :=
  let s := setNow t s
  let good := result == .good
  match s.nvm.inFlight with
  | none => .next s
  | some w =>
    let idle (s : State) : State := { s with nvm := { s.nvm with inFlight := none } }
    match s.rst.waiting with
    | some (k, keep) => .next (assertReset k keep (idle (lastPage good s)))
    | none =>
      .next (kickWrites (match w, s.nvm.dumping, s.nvm.direct, s.nvm.txn, s.nvm.boot with
        | .digest, some d, _, _, _ => digestWritten d good (idle s)
        | _, some _, _, _, _ => idle (lastPage good s)
        | .direct, none, some d, _, _ => directWritten d good (idle s)
        | .txn, none, _, some x, _ => txnWritten x good (idle s)
        | .boot, none, _, _, some x => bootWritten x good (idle s)
        | _, _, _, _, _ => idle s))

end Sys2Proof.Machine
end

