-- ==== Sys2Proof/Machine/Kernels.lean ====
section
/-! DEFINITION. Kernel images and the kernel commands, the hang timeout and the grant period (R244, R245, R250–R257,
R369). -/
namespace Sys2Proof.Machine

/-! ### Images (R250, R251) -/

/-- Byte offset and byte length of the four sections. -/
def imgSections (k : Kernel) : List (Nat × Nat) :=
  (List.range 4).map fun n => ((imgWord k (8 + 2 * n)).toNat, (imgWord k (9 + 2 * n)).toNat)

/-- Two byte ranges share a byte. -/
def overlaps (a b : Nat × Nat) : Bool :=
  decide (0 < a.2) && decide (0 < b.2) && decide (a.1 < b.1 + b.2) && decide (b.1 < a.1 + a.2)

/-- LENGTH of an image. -/
def imgLength (k : Kernel) : Nat := (imgWord k 1).toNat

/-- Check 1: the header's fields lie in their ranges, the sections within LENGTH - 4 without overlap and within their
limits, and the result block within the region. -/
def headerOk (k : Kernel) : Bool :=
  let secs := imgSections k
  let len (n : Nat) : Nat := (secs.getD n (0, 0)).2
  imgWord k 0 == 0xD1A50001 && decide (68 ≤ imgLength k) && decide (imgLength k ≤ 1155140) &&
  decide (imgSlot k ≤ 4) && fldN (imgWord k 2) 16 8 == 0 && decide (1 ≤ imgMinBobbins k) &&
  decide (imgMinBobbins k ≤ imgMaxBobbins k) && decide (imgMaxBobbins k ≤ 128) &&
  decide (imgPillowKib k ≤ 1024) && decide (imgSpillMib k ≤ 256) && decide (1 ≤ imgPower k) && decide (imgPower k ≤ 575) &&
  (imgApron k == 0 || imgApron k == 16 || imgApron k == 32) && fldN (imgWord k 4) 0 8 == 0 &&
  decide (imgEntry k ≤ 4095) && decide (1 ≤ imgTimeoutMs k) && decide (imgTimeoutMs k ≤ 1000) &&
  secs.all (fun x => decide (x.1 + x.2 + 4 ≤ imgLength k)) &&
  (List.range 4).all (fun i => (List.range i).all fun j => !overlaps (secs.getD i (0, 0)) (secs.getD j (0, 0))) &&
  decide (len 0 ≤ 16384) && len 0 % 4 == 0 && decide (len 1 ≤ 81920) && len 1 % 40 == 0 &&
  decide (len 2 ≤ 8192) && len 2 % 4 == 0 && decide (len 3 ≤ imgPillowKib k * 1024) &&
  (imgResult k == 0xFFFFFFFF ||
    ((imgResult k).toNat % 4 == 0 && decide ((imgResult k).toNat + 256 ≤ imgPillowKib k * 1024)))

/-- The bytes of an image. -/
def imgBytes (k : Kernel) (n : Nat) : List Byte := (wordsBytes (smGetMany 0 k.image 0 ((n + 3) / 4))).take n

/-- Check 2: the CRC-32 over every preceding byte. -/
def imageCrcOk (k : Kernel) : Bool :=
  let bs := imgBytes k (imgLength k)
  bytesWord (bs.drop (imgLength k - 4)) == crc32 (bs.take (imgLength k - 4))

/-- Check 3: the index of the first illegal instruction. -/
def firstIllegal (k : Kernel) : Option Nat :=
  (bytesWords (imgSection k 0)).zipIdx.findSome? fun w => if legalWord w.1 then none else some w.2

/-! ### KERNEL_LOAD (R252) -/

/-- Image space that kernels other than KID have reserved. -/
def reservedOther (s : State) (kid : Nat) : Nat :=
  (List.range 16).foldl (fun a k => if k = kid then a else a + (kernel s k).reserved) 0

/-- The kernel holds the NR slot under NR_MODE USER. -/
def holdsNr (s : State) (kid : Nat) : Bool := s.front.cfg.nrMode == 4 && nrHolder s == some kid

/-- A kernel to which the first words of an image come: EMPTY, LENGTH bytes reserved, nothing allocated (log entry 63). -/
def openImage (len : Nat) (_ : Kernel) : Kernel := { reserved := len }

/-- Where the image of a user kernel lies in the kernel-image partition: behind the vendor images' 3 MiB and the images of the
KIDs before it (R252; log entry 166). -/
def imageBase (s : State) (kid : Nat) : Nat :=
  (List.range kid).foldl (fun a k => a + ((kernel s k).reserved + 7) / 8 * 8) (partBase .kernels + 3 * mib)

/-- Write the words that an image has into its place in the partition; a word not loaded yet is 0 there. -/
def storeImage (kid : Nat) (s : State) : State :=
  let k := kernel s kid
  k.image.foldl (fun s w => dramWriteWords s (imageBase s kid + 4 * w.1) [w.2])
    { s with dram := smClear s.dram (imageBase s kid) k.reserved }

/-- Every image in its place, as LENGTH of one changes where the others lie. -/
def storeImages (s : State) : State := (List.range 16).foldl (fun s k => storeImage k s) s

/-- COMMIT: the first check that fails, which leaves the KID EMPTY and the other images each in its place, or LOADED. -/
def commitImage (kid : Nat) (s : State) : CmdResult :=
  let k := kernel s kid
  let fail (st : Status) (bad : Word) : CmdResult :=
    { state := storeImages (updKernel kid (fun _ => {}) s), status := st, results := [bad], keeps := true }
  if !headerOk k then fail .badParam 0xFFFFFFFF
  else if !imageCrcOk k then fail .badCrc 0xFFFFFFFF
  else match firstIllegal k with
    | some i => fail .badParam (wordOf i)
    | none => cmdOk (updKernel kid (fun k => { k with phase := .loaded, committed := true }) s) [0xFFFFFFFF]

/-- The words of a KERNEL_LOAD reach the image and its place in common memory, and COMMIT validates it. -/
def imageWritten (kid off : Nat) (data : List Word) (commit : Bool) (s : State) : CmdResult :=
  let s := updKernel kid (fun k => { k with image := smSetMany 0 k.image (off / 4) data }) s
  let s := dramWriteWords s (imageBase s kid + off) data
  if commit then commitImage kid s else cmdOk s [0xFFFFFFFF]

/-- KERNEL_LOAD. -/
def kernelLoadBody (c : Cmd) (s : State) : CmdResult :=
  let w := paramAt c.words 0
  let kid := fldN w 0 8
  let off := (paramAt c.words 1).toNat
  let data := c.words.drop 2
  let k := kernel s kid
  let first := off == 0
  let len := if first then (data.getD 1 0).toNat else k.reserved
  if !reservedOk w 0x800FF || 15 < kid then cmdBad s 0
  else if off % 4 ≠ 0 || (!first && (k.reserved = 0 || k.committed)) then cmdBad s 1
  else if first && data.length < 2 then cmdBadAny s
  else if len < off + 4 * data.length || (first && 13 * mib < reservedOther s kid + len) then
    cmdBad s (if first then 3 else 1)
  else if k.phase == .running || holdsNr s kid then cmdRefuse s .wrongState
  else imageWritten kid off data (bitAt w 19) (if first then storeImages (updKernel kid (openImage len) s) else s)

/-! ### BOBBIN_ALLOC (R245, R253) -/

/-- Kernels other than KID with bobbins in pillow p. -/
def pillowKernels (s : State) (kid p : Nat) : List Nat :=
  (List.range 16).filter fun k => k != kid && (kernelPillows (kernel s k)).contains p

/-- A kernel's region of n bytes from `base` is free in pillow p. -/
def regionFree (s : State) (kid n base p : Nat) : Bool :=
  decide (base + n ≤ mib) &&
  (pillowKernels s kid p).all fun k => !overlaps (base, n) ((kernel s k).region, imgPillowKib (kernel s k) * 1024)

/-- The lowest offset, a multiple of 1 KiB, at which a region fits in every named pillow (log entry 64). -/
def placeRegion (s : State) (kid kib : Nat) (ps : List Nat) : Option Nat :=
  ((List.range 1025).find? fun i => ps.all (regionFree s kid (kib * 1024) (i * 1024))).map (· * 1024)

/-- MiB of the bobbin spill space open to user kernels: the motion kernel takes 24 while it is held (R246). -/
def spillMib (s : State) : Nat := if vendorHolds s.exposure.cfg s.front.cfg 0 then 232 else 256

/-- The lowest MiB at which a spill allocation of n MiB fits, the motion kernel's lying at the top (log entry 64). -/
def placeSpill (s : State) (kid n : Nat) : Option Nat :=
  (List.range 257).find? fun i => decide (i + n ≤ spillMib s) && (List.range 16).all fun k =>
    k == kid || !overlaps (i * mib, n * mib) ((kernel s k).spillBase - partBase .spill, (kernel s k).spill * mib)

/-- The bobbins that BOBBIN_ALLOC names. -/
def namedBobbins (w : Word) : List Nat :=
  if fld w 24 8 ≠ 0 then ((List.range 8).filter fun p => bitAt w (24 + p)).flatMap fun p => rangeFrom (16 * p) 16
  else rangeFrom (16 * fldN w 8 3 + fldN w 12 4) (fldN w 16 5)

/-- A named bobbin is held by another kernel, or a pillow hosts four kernels already. -/
def allocBusy (s : State) (kid : Nat) (bs : List Nat) : Bool :=
  let ps := (bs.map (· / 16)).eraseDups
  ps.any (fun p => vendorHolds s.exposure.cfg s.front.cfg p || decide (4 ≤ (pillowKernels s kid p).length)) ||
  bs.any fun b => (List.range 16).any fun k => k != kid && (kernel s k).bobbins.contains b

/-- A kernel without its bobbins, region and spill. -/
def freed (k : Kernel) : Kernel := { k with bobbins := [], region := 0, spillBase := 0, spill := 0 }

/-- BOBBIN_ALLOC. -/
def bobbinAllocBody (c : Cmd) (s : State) : CmdResult :=
  let w := paramAt c.words 0
  let kid := fldN w 0 8
  let k := kernel s kid
  let bs := namedBobbins w
  let free := bitAt w 23
  let place := (placeRegion s kid (imgPillowKib k) ((bs.map (· / 16)).eraseDups)).bind fun r =>
    (placeSpill s kid (imgSpillMib k)).map fun m => (r, m)
  if !reservedOk w 0xFF9FF7FF || 15 < kid then cmdBad s 0
  else if !free && ((fld w 24 8 == 0) == (fld w 16 5 == 0) || 16 < fldN w 12 4 + fldN w 16 5) then cmdBad s 0
  else if !free && k.phase != .empty && (bs.length < imgMinBobbins k || imgMaxBobbins k < bs.length || place.isNone) then
    cmdBad s 0
  else if k.phase == .empty || k.phase == .running then cmdRefuse s .wrongState
  else if free then cmdOk (updKernel kid freed s)
  else if allocBusy s kid bs then cmdRefuse s .busy
  else
    let (r, m) := place.getD (0, 0)
    cmdOk (updKernel kid (fun k => { k with
      bobbins := bs, region := r, spillBase := partBase .spill + m * mib, spill := imgSpillMib k }) s)

/-! ### KERNEL_START, KERNEL_STOP, KERNEL_STATUS (R254, R255) -/

/-- A kernel that may start does so if the arbiter admits it (R256). -/
def startAnswer (s : State) (kid ch : Nat) : CmdResult :=
  match admission s { caseNow s with starting := some kid } with
  | some n => cmdBudget s n
  | none => cmdOk (runKernel kid ch s)

/-- KERNEL_START. -/
def kernelStartBody (c : Cmd) (s : State) : CmdResult :=
  let w := paramAt c.words 0
  let kid := fldN w 0 8
  let ch := fldN w 8 3
  let k := kernel s kid
  if !reservedOk w 0x7FF || 15 < kid then cmdBad s 0
  else if k.bobbins.isEmpty || k.phase == .empty || k.phase == .running || imgSlot k == 1 ||
      (imgSlot k == 2 && (stream s ch).enabled) || s.power.hold then cmdRefuse s .wrongState
  else if imgSlot k == 2 && (channelKernel s ch).isSome then cmdRefuse s .busy
  else startAnswer s kid ch

/-- KERNEL_STOP: a kernel that does not run is no state that admits it (log entry 65). -/
def kernelStopBody (c : Cmd) (s : State) : CmdResult :=
  let w := paramAt c.words 0
  let kid := fldN w 0 8
  let k := kernel s kid
  if !reservedOk w 0xFF || 15 < kid then cmdBad s 0
  else if k.phase != .running || imgSlot k == 1 || (imgSlot k == 2 && (stream s k.channel).enabled) then
    cmdRefuse s .wrongState
  else cmdOk (pump (endKernel kid .stopped (finishKernel kid s)))

/-- The pillows a vendor kernel is given (R244). -/
def vendorPillows (v : Nat) : List Nat := if v = 0 then [0, 1] else if v = 1 then [2, 3] else [4]

/-- A vendor kernel holds a pillow. -/
def vendorHeld (s : State) (v : Nat) : Bool := (vendorPillows v).any (vendorHolds s.exposure.cfg s.front.cfg)

/-- The STATE field; a vendor kernel that holds its pillows runs, another is LOADED (log entry 66). -/
def kernelStateCode (s : State) (kid : Nat) : Nat :=
  match (kernel s kid).phase with
  | .faulted => 4
  | .running => if kid < 16 || vendorHeld s (kid - 0x80) then 3 else 1
  | .stopped => 2
  | .loaded => 1
  | .empty => if kid < 16 || s.engines.vendorFw.isNone then 0 else if vendorHeld s (kid - 0x80) then 3 else 1

/-- KERNEL_STATUS. -/
def kernelStatusBody (c : Cmd) (s : State) : CmdResult :=
  let w := paramAt c.words 0
  let kid := fldN w 0 8
  let k := kernel s kid
  let sat := (k.bobbins.filter fun b => (bobbin s b).accSat).length
  if !reservedOk w 0xFF || (15 < kid && (kid < 0x80 || 0x83 < kid)) then cmdBad s 0
  else
    cmdOk s ([mkWord [(k.fault.toNat, 16), (k.faultBobbin.toNat, 8), (kernelStateCode s kid, 0)],
      mkWord [(min 15 sat, 12), (k.faultPc.toNat, 0)], k.versions, k.tapAbandoned, k.stallUs,
      if kid < 16 then imgTag k else vendorVersion s (kid - 0x80), k.resultSeq] ++
      (List.range 64).map fun i => k.result.getD i 0)

/-! ### Hang and grants (R256, R257, R369) -/

/-- Granted time of a span, in 1/16 ns. -/
def grantedIn (s : State) (h : HangSpan) : Nat := s.now.real - h.since - h.ungranted

/-- Bobbin b of a kernel hangs: granted time beyond TIMEOUT_MS in a BAR or SEM WAIT, or in an in-line slot with input queued
and no pop or push (R257). -/
def hangs (s : State) (kid b : Nat) : Bool :=
  let x := bobbin s b
  let k := kernel s kid
  let long (h : HangSpan) : Bool := decide (imgTimeoutMs k * 16000000 < grantedIn s h)
  x.running && k.bobbins.contains b &&
  ((match x.wait with
    | some (.barrier _) => long x.waitSpan
    | some (.semaphore _) => long x.waitSpan
    | _ => false) ||
   ((imgSlot k == 1 || imgSlot k == 2) && (!x.in0.isEmpty || !x.in1.isEmpty) && long x.idleSpan))

/-- KERNEL_HANG_TIMEOUT: granted time beyond TIMEOUT_MS. What a vendor image's is, and its PC, are open (log entry 67). -/
def execKernelHangTimeout (t : Instant) (kid : Byte) (b : Fin 128) (s : State) : Result :=
  let s := setNow t s
  let n := kid.toNat
  .next (if n < 16 then
      (if kernelRuns s n && blockRuns .bobbin s && hangs s n b.val then bobbinFault b.val 10 s else s)
    else if 0x80 ≤ n && n ≤ 0x83 && (vendorPillows (n - 0x80)).contains (b.val / 16) && vendorHeld s (n - 0x80) &&
        blockRuns .bobbin s && !vendorFaulted s (n - 0x80) then
      (let (w, s) := takeFree s
       faultKernel n 10 b.val (fldN w 0 12) s)
    else s)

/-- STALL_US of a kernel over a period of 10 µs. -/
def stallPeriod (stalled : Bool) (k : Kernel) : Kernel := if stalled then { k with stallUs := k.stallUs + 10 } else k

/-- GRANT_PERIOD: the ungranted time of the period that ends is counted, and the arbiter grants anew. -/
def execGrantPeriod (t : Instant) (s : State) : Result :=
  let s := setNow t s
  let user := s.engines.user.map fun k =>
    stallPeriod (k.phase == .running && (kernelPillows k).any fun p => !grantedAt s p) k
  let vendor := s.engines.vendor.zipIdx.map fun k =>
    stallPeriod ((vendorPillows k.2).any fun p => vendorHolds s.exposure.cfg s.front.cfg p && !grantedAt s p) k.1
  let bobbins := s.engines.bobbins.zipIdx.map fun x => if grantedAt s (x.2 / 16) then x.1 else passUngranted 160000 x.1
  .next (arbitrate { s with engines := { s.engines with user := user, vendor := vendor, bobbins := bobbins } })

end Sys2Proof.Machine
end

