-- ==== Sys2Proof/Machine/Mcv.lean ====
section
/-! DEFINITION. The monitor converter (R459–R476). -/
namespace Sys2Proof.Machine

/-- The state with the converters changed. -/
def updMcv (f : McvState → McvState) (s : State) : State := { s with mcv := f s.mcv }

/-- Converter MCV-A or, with `b`, MCV-B. -/
def conv (m : McvState) (b : Bool) : McvConv := if b then m.b else m.a

/-- The converters with one of them changed. -/
def updConv (b : Bool) (f : McvConv → McvConv) (m : McvState) : McvState := if b then { m with b := f m.b } else { m with a := f m.a }

/-- The converters work. -/
def mcvLives (s : State) : Bool := !s.rst.asserted.contains .bureau && s.power.phase != .stow

/-! ### Integration (R461) -/

/-- T_base in TCLK cycles. -/
def baseCycles (m : McvState) : Nat := if m.intSrc == 0 then 2000000 else if m.intSrc == 1 then 1666667 else m.tMean

/-- T_int as the settings have it. -/
def setInt (m : McvState) : McvState := { m with tInt := m.intMult.toNat * baseCycles m }

/-- T_int of the slot that begins: under MEASURED, the mean of the last eight valid mains periods, or the last valid one. -/
def slotInt (s : State) : State :=
  let ps := mainsPeriods s.now.tclk s.exposure.mainsEdges
  let sum := (ps.drop (ps.length - 8)).foldl (· + ·) 0
  updMcv (fun m =>
    if m.intSrc != 2 then setInt { m with mainsHeld := false }
    else if ps.length < 8 then setInt { m with mainsHeld := true }
    else setInt { m with mainsHeld := false, tMean := (2 * sum + 8) / 16 }) s

/-! ### The sequencer (R463, R464) -/

/-- The entry number after a slot of an entry, and the slot's number in it. -/
def nextPlace (x : McvConv) (e k : Nat) : Nat × Nat :=
  let y := x.entries.getD e {}
  if k + 1 < y.delay.toNat + y.repeats.toNat then (e, k + 1) else ((e + 1) % x.tableLen.toNat, 0)

/-- A conversion that begins now on a channel. -/
def newConversion (m : McvState) (b : Bool) (channel dest entry : Nat) (shared cal : Bool) : McvConversion :=
  let k := 24 * b2n b + channel
  { channel := channel, dest := dest, entry := entry, shared := shared, offset := smGet 0 m.offsets k
    gain := smGet 0x40000000 m.gains k, unsettled := !m.refSettled, slot := m.slotNo, cal := cal }

/-- A converter begins the next slot of its own table; `shared`: MCV-B converts along. -/
def ownSlotOf (b shared : Bool) (m : McvState) : McvState :=
  let x := conv m b
  let e := x.nextEntry
  let y := x.entries.getD e {}
  let c := if x.nextSlot < y.delay.toNat then none
    else some (newConversion m b y.channel.toNat y.dest.toNat e shared false)
  updConv b (fun x => { x with
    entry := e, cur := c, nextEntry := (nextPlace x e x.nextSlot).1, nextSlot := (nextPlace x e x.nextSlot).2 }) m

/-- MCV-B takes MCV-A's SHARED slot and holds its own place. -/
def sharedSlot (c : Option McvConversion) (m : McvState) : McvState :=
  let f (y : McvConversion) : McvConversion :=
    newConversion m true y.channel ((m.a.entries.getD y.entry {}).destB.toNat) y.entry true false
  updConv true (fun x => { x with cur := c.map f }) m

/-- The converters named by a calibration begin a slot: one idle slot, then eight conversions (R473). -/
def calSlot (m : McvState) : McvState :=
  match m.cal with
  | none => m
  | some r =>
    let one (b : Bool) (m : McvState) : McvState :=
      if bitAt r.mask (b2n b) && 1 ≤ r.slots && r.slots ≤ 8 then
        updConv b (fun x => { x with cur := some (newConversion m b r.channel 0 0 false true) }) m
      else m
    let m := one true (one false m)
    { m with cal := some { r with slots := r.slots + 1 } }

/-- A slot begins on the grid: MCV-A first; MCV-B joins a SHARED entry that MCV-A begins while it runs. -/
def beginSlot (m : McvState) : McvState :=
  let pass (x : McvConv) : McvConv := { x with due := x.cur.or x.due, cur := none }
  let m := { m with a := pass m.a, b := pass m.b, slotNo := m.slotNo + 1, slotAt := m.nextAt, nextAt := m.nextAt + m.tInt }
  let y := m.a.entries.getD m.a.nextEntry {}
  let begins := m.a.run && m.a.nextSlot = 0
  let m := if begins then { m with joined := y.shared && m.b.run } else m
  let along := m.a.run && y.shared && m.joined && m.b.run
  let m := if m.a.run then ownSlotOf false along m else m
  let m := if !m.b.run then m else if along then sharedSlot m.a.cur m else ownSlotOf true false m
  calSlot m

/-- The grid exists. -/
def gridRuns (m : McvState) : Bool := m.a.run || m.b.run || m.cal.isSome

/-- MCV_SLOT_START. -/
def execMcvSlotStart (t : Instant) (s : State) : Result :=
  let s := setNow t s
  if mcvLives s && gridRuns s.mcv && s.mcv.nextAt ≤ s.now.tclk then .next (updMcv beginSlot (slotInt s)) else .next s

/-! ### Results (R460, R465–R468) -/

/-- The raw range of a channel. -/
def rawRange (c : Nat) : Int × Int :=
  if 8 ≤ c && c ≤ 11 then (-2550000, 2550000) else if 16 ≤ c then (-100000, 5100000) else (-50000, 2550000)

/-- What a conversion of an input reads, and whether it is over-range: an input beyond the raw range is taken at the nearer limit
(R460; log entry 217). -/
def clipRaw (g : Int × Int) (raw : Int) (beyond : Bool) : Int × Bool :=
  if raw < g.1 then (g.1, true)
  else if g.2 < raw then (g.2, true)
  else if beyond then (if 2 * raw < g.1 + g.2 then g.1 else g.2, true)
  else (raw, false)

/-- y = floor(((x - OFFSET) × GAIN + 2^29) / 2^30). -/
def calibrated (c : McvConversion) (x : Int) : Int := ((x - c.offset.toInt) * (c.gain.toNat : Int) + 2 ^ 29) / 2 ^ 30

/-- A result enters an accumulator, or sets FULL where COUNT is at its largest. -/
def addResult (y : Int) (ov unsettled : Bool) (a : McvAcc) : McvAcc :=
  if a.count == 0xFFFFFFFF then { a with full := true }
  else { a with
    sum := a.sum + BitVec.ofInt 64 y, count := a.count + 1
    least := if y < a.least.toInt then wordOfInt y else a.least
    greatest := if a.greatest.toInt < y then wordOfInt y else a.greatest
    ovr := a.ovr || ov, unsettled := a.unsettled || unsettled }

/-- The results of a pair of SHARED conversions are compared; MCV_PLAUSIBILITY comes at most once per second (R465). -/
def comparePair (channel : Nat) (s : State) : State :=
  match s.mcv.pairA, s.mcv.pairB with
  | some (i, ya), some (k, yb) =>
    if i ≠ k || s.mcv.plausThr == 0 || (ya - yb).natAbs ≤ s.mcv.plausThr.toNat then s
    else
      let s := updMcv (fun m => { m with plausFails := satInc m.plausFails }) s
      let quiet := match s.mcv.lastPlaus with
        | some a => decide (s.now.real < a + 16000000000)
        | none => false
      if quiet then s
      else raise 0x0704 channel (wordOfInt ya).toNat (wordOfInt yb).toNat
        (updMcv (fun m => { m with lastPlaus := some s.now.real }) s)
  | _, _ => s

/-- A result of a SHARED conversion takes its place in the pair. -/
def notePair (b : Bool) (c : McvConversion) (y : Int) (s : State) : State :=
  if !c.shared then s
  else comparePair c.channel (updMcv (fun m =>
    if b then { m with pairB := some (c.slot, y) } else { m with pairA := some (c.slot, y) }) s)

/-- An over-range conversion: counted, sticky, raised once until MCV_READ clears the flag, and the next one is discarded. -/
def noteOver (b : Bool) (c : McvConversion) (s : State) : State :=
  let first := !(conv s.mcv b).ovr
  let s := updMcv (fun m => updConv b (fun x => { x with ovr := true, recovery := true }) { m with ovrConv := satInc m.ovrConv }) s
  if first then raise 0x0705 (b2n b) c.channel c.entry s else s

/-- A result of the table enters its accumulator. Of two results for one accumulator in the same slot, MCV-A's counts first whichever
is complete first. -/
def enterResult (b : Bool) (c : McvConversion) (y : Int) (ov : Bool) (m : McvState) : McvState :=
  let one := addResult y ov c.unsettled
  let set (a : McvAcc) : List McvAcc := m.accs.set c.dest a
  let old := m.accs.getD c.dest {}
  if b then
    { m with
      accs := set (one old)
      afterB := some { slot := c.slot, dest := c.dest, base := old, y := y, ov := ov, unsettled := c.unsettled } }
  else match m.afterB with
    | some r =>
      if r.slot = c.slot && r.dest = c.dest then { m with accs := set (addResult r.y r.ov r.unsettled (one r.base)), afterB := none }
      else { m with accs := set (one old) }
    | none => { m with accs := set (one old) }

/-- A result of the table. -/
def takeResult (b : Bool) (c : McvConversion) (x : Int) (ov : Bool) (s : State) : State :=
  if (conv s.mcv b).recovery then
    updMcv (fun m => updConv b (fun x => { x with recovery := false }) { m with discarded := satInc m.discarded }) s
  else
    let y := calibrated c x
    let s := updMcv (enterResult b c y ov) s
    if ov then noteOver b c s else notePair b c y s

/-! ### System calibration (R473) -/

/-- The mean of eight conversions, rounded half up. -/
def mean8 (sum : Int) : Int := (2 * sum + 8) / 16

/-- The converters of a mask with their means. -/
def calMeans (r : McvCalRun) : List (Nat × Int) :=
  (if bitAt r.mask 0 then [(0, mean8 r.sumA)] else []) ++ (if bitAt r.mask 1 then [(1, mean8 r.sumB)] else [])

/-- GAIN = round(2^30 × V_FS_UV / (x̄ - x0)), where it lies in its range. -/
def calGain (vfs : Nat) (d : Int) : Option Word :=
  if d ≤ 0 then none
  else
    let g := (2 ^ 31 * (vfs : Int) + d) / (2 * d)
    if 0x20000000 ≤ g && g ≤ 0x80000000 then some (wordOfInt g) else none

/-- The coefficients that FULL gives, by 24v + c; none where one is out of range. -/
def fullCoefs (m : McvState) (r : McvCalRun) : Option (List (Nat × Word × Word)) :=
  (calMeans r).mapM fun x =>
    let k := 24 * x.1 + r.channel
    let x0 := smGet 0 m.x0 k
    (calGain r.vfs.toNat (x.2 - x0)).map fun g => (k, wordOfInt x0, g)

/-- The keys of the ZERO means held, which a FULL uses. -/
def dropX0 (ks : List Nat) (m : List (Nat × Int)) : List (Nat × Int) := m.filter fun x => !ks.contains x.1

/-- MCV_CAL_DONE. -/
def calDone (a0 code a2 : Nat) (s : State) : State := endWork .mcvCal (raise 0x0706 a0 code a2 s)

/-- A calibration has its conversions: ZERO holds the means, FULL sets the coefficients and stores them where asked. -/
def endCal (r : McvCalRun) (s : State) : State :=
  let a0 := r.channel + 2 ^ 8 * r.mask.toNat + 2 ^ 10 * b2n r.full
  let a2 := (wordOfInt (((calMeans r).head?.map (·.2)).getD 0)).toNat
  let s := updMcv (fun m => { m with cal := none }) s
  if r.ovr then calDone a0 1 a2 s
  else if !r.full then
    calDone a0 0 a2 (updMcv (fun m => { m with
      x0 := (calMeans r).foldl (fun l x =>
        smMerge (l.length + 2) (dropX0 [24 * x.1 + r.channel] l) [(24 * x.1 + r.channel, x.2)]) m.x0 }) s)
  else match fullCoefs s.mcv r with
    | none => calDone a0 2 a2 s
    | some cs =>
      let s := updMcv (fun m => { m with
        x0 := dropX0 (cs.map (·.1)) m.x0
        offsets := cs.foldl (fun l c => smSet 0 l c.1 c.2.1) m.offsets
        gains := cs.foldl (fun l c => smSet 0x40000000 l c.1 c.2.2) m.gains }) s
      if r.store then startStore (updMcv (fun m => { m with calStore := some (a0, a2) }) s) else calDone a0 0 a2 s

/-- A conversion of the calibration in progress. -/
def takeCal (b : Bool) (x : Int) (ov : Bool) (s : State) : State :=
  match s.mcv.cal with
  | none => s
  | some r =>
    let r := { r with ovr := r.ovr || ov }
    let r := if b then { r with takenB := r.takenB + 1, sumB := r.sumB + x } else { r with takenA := r.takenA + 1, sumA := r.sumA + x }
    let s := updMcv (fun m => { m with cal := some r }) s
    if (!bitAt r.mask 0 || 8 ≤ r.takenA) && (!bitAt r.mask 1 || 8 ≤ r.takenB) then endCal r s else s

/-- The conversion whose result is complete: of the slot that has ended. -/
def dueConversion (s : State) (b : Bool) : Option McvConversion :=
  let x := conv s.mcv b
  match x.due with
  | some c => some c
  | none => if s.mcv.slotAt + s.mcv.tInt ≤ s.now.tclk then x.cur else none

/-- The conversion is over. -/
def clearDue (b : Bool) (s : State) : State :=
  updMcv (fun m => updConv b (fun x => if x.due.isSome then { x with due := none } else { x with cur := none })
    (if b then { m with convB := satInc m.convB } else { m with convA := satInc m.convA })) s

/-- MCV_CONVERSION_COMPLETE: `raw` is the input as converted, and `overRange` says that it lies beyond the channel's range. -/
def execMcvConversionComplete (t : Instant) (b : Bool) (raw : Int) (overRange : Bool) (s : State) : Result :=
  let s := setNow t s
  match dueConversion s b with
  | none => .next s
  | some c =>
    if !mcvLives s then .next s
    else
      let x := clipRaw (rawRange c.channel) raw overRange
      let s := clearDue b s
      .next (if c.cal then takeCal b x.1 x.2 s else takeResult b c x.1 x.2 s)

/-- REF_SETTLED: 10 ms after the buffer was switched on. -/
def execRefSettled (t : Instant) (s : State) : Result :=
  let s := setNow t s
  .next (if mcvLives s && s.mcv.refEn && decide (s.mcv.refAt + 160000000 ≤ s.now.real) then
    updMcv (fun m => { m with refSettled := true }) s else s)

/-! ### MCV_CONFIG (R470, R471) -/

/-- An entry from its word. -/
def mcvEntryOf (w : Word) : McvEntry :=
  { shared := bitAt w 31, channel := fld w 26 5, dest := fld w 22 4, destB := fld w 18 4, delay := fld w 14 4, repeats := fld w 0 8 }

/-- An entry that may not stand in a converter's table. -/
def mcvEntryBad (b : Bool) (e : McvEntry) : Bool :=
  e.channel == 15 || 24 ≤ e.channel.toNat || e.repeats == 0 || (e.shared && b) || (!e.shared && e.destB != 0)

/-- A converter is being calibrated. -/
def calibrating (m : McvState) (b : Bool) : Bool :=
  match m.cal with
  | some r => bitAt r.mask (b2n b)
  | none => false

/-- RUN takes its new value: a converter that starts begins at entry 0 in the next slot; the first begins the grid. -/
def setRun (b run : Bool) (now : Nat) (m : McvState) : McvState :=
  let x := conv m b
  if run && !x.run then
    let m := if gridRuns m then m else { m with nextAt := now }
    updConv b (fun x => { x with run := true, entry := 0, nextEntry := 0, nextSlot := 0, cur := none }) m
  else if !run && x.run then
    updConv b (fun x => { x with run := false, cur := none }) { m with joined := m.joined && !b }
  else m

/-- REF_EN takes its new value. -/
def mcvRef (on : Bool) (now : Nat) (m : McvState) : McvState :=
  if on && !m.refEn then { m with refEn := true, refAt := now, refSettled := false }
  else if !on then { m with refEn := false, refSettled := false }
  else m

/-- MCV_CONFIG. -/
def mcvConfigBody (c : Cmd) (s : State) : CmdResult :=
  let w := paramAt c.words 0
  let b := bitAt w 0
  let m := s.mcv
  let x := conv m b
  let run := bitAt w 14
  let ref := bitAt w 15
  let len : BitVec 5 := fld w 8 5
  let src : BitVec 2 := fld w 2 2
  let mult : BitVec 4 := fld w 4 4
  let thr : BitVec 24 := fld (paramAt c.words 1) 0 24
  let es := (List.range 16).map fun i => mcvEntryOf (paramAt c.words (2 + i))
  let table := es != x.entries || len != x.tableLen
  let common := src != m.intSrc || mult != m.intMult || thr != m.plausThr || (m.refEn && !ref)
  judged c.words ([0xDFFD, 0xFFFFFF] ++ List.replicate 16 0xFFFFC0FF) s <|
    if len == 0 || 16 < len.toNat || mult == 0 || 8 < mult.toNat || src == 3 || (run && !ref) ||
        (src == 2 && s.exposure.cfg.exposure.flkSrc != 2) then cmdBad s 0
    else match es.findIdx? (mcvEntryBad b) with
      | some i => cmdBad s (2 + i)
      | none =>
        if (table && x.run) || (common && (m.a.run || m.b.run)) then cmdRefuse s .wrongState
        else if calibrating m b then cmdRefuse s .busy
        else
          let m := updConv b (fun x => { x with entries := es, tableLen := len }) m
          let m := { m with intSrc := src, intMult := mult, plausThr := thr }
          let m := if common then setInt m else m
          cmdOk { s with mcv := setRun b run s.now.tclk (mcvRef ref s.now.real m) }

/-- MCV_CONFIG. -/
def execMcvConfig (t : Instant) (s : State) : Result := runCmd t 0x0706 mcvConfigBody s

/-! ### MCV_READ (R472) -/

/-- A value in the form ALIGN sets. -/
def alignedVal (left : Bool) (v : Int) : Word := wordOfInt (if left then 256 * v else v)

/-- The six words of an accumulator. -/
def accWords (left : Bool) (a : McvAcc) : List Word :=
  let n : Int := a.count.toNat
  let sum : Int := if left then 256 * a.sum.toInt else a.sum.toInt
  if a.count == 0 then [0x80000000, 0x7FFFFFFF, 0x80000000, lo32 a.sum, hi32 a.sum, 0]
  else [wordOfInt ((sum + n / 2) / n), alignedVal left a.least.toInt, alignedVal left a.greatest.toInt, lo32 a.sum, hi32 a.sum, a.count]

/-- Bit k of a mask says what holds of accumulator k. -/
def accMask (m : McvState) (f : McvAcc → Bool) : Nat :=
  (List.range 16).foldl (fun a k => a + b2n (f (m.accs.getD k {})) * 2 ^ k) 0

/-- MCV_READ: the accumulators that the path carries are returned and, with CLEAR, cleared. -/
def mcvReadBody (c : Cmd) (s : State) : CmdResult :=
  let w := paramAt c.words 0
  let m := s.mcv
  let ks := (List.range 16).filter fun k => bitAt w (16 + k)
  judged c.words [0xFFFF0003] s <|
    let back := ks.take ((pathWords c.via - 2) / 6)
    let accs := if bitAt w 0 then back.foldl (fun l k => l.set k {}) m.accs else m.accs
    let kept := if bitAt w 0 then m.afterB.filter fun r => !back.contains r.dest else m.afterB
    let m1 := { m with accs := accs, afterB := kept, a := { m.a with ovr := false }, b := { m.b with ovr := false } }
    cmdOk { s with mcv := m1 }
      ([mkWord [(accMask m (·.ovr), 16), (accMask m (·.unsettled), 0)],
        mkWord [(accMask m (·.full), 16), (b2n m.refSettled, 3), (b2n m.mainsHeld, 2), (b2n m.b.ovr, 1), (b2n m.a.ovr, 0)]] ++
       ks.flatMap fun k => accWords (bitAt w 1) (m.accs.getD k {}))

/-- MCV_READ. -/
def execMcvRead (t : Instant) (s : State) : Result := runCmd t 0x0707 mcvReadBody s

/-! ### MCV_CALIBRATE -/

/-- A converter named by a mask holds no ZERO mean of a channel. -/
def lacksX0 (m : McvState) (mask : BitVec 2) (ch : Nat) : Bool :=
  [0, 1].any fun v => bitAt mask v && !(m.x0.any fun x => x.1 == 24 * v + ch)

/-- MCV_CALIBRATE. -/
def mcvCalibrateBody (c : Cmd) (s : State) : CmdResult :=
  let w := paramAt c.words 0
  let v := paramAt c.words 1
  let mask : BitVec 2 := fld w 0 2
  let ch := fldN w 8 5
  let full := fldN w 16 2 = 1
  let m := s.mcv
  judged c.words [0xB1F03] s <|
    if 11 < ch || mask == 0 || 2 ≤ fldN w 16 2 then cmdBad s 0
    else if full && (v.toNat < 250000 || 2500000 < v.toNat) then cmdBad s 1
    else if (bitAt mask 0 && m.a.run) || (bitAt mask 1 && m.b.run) || !m.refEn || (full && lacksX0 m mask ch) then
      cmdRefuse s .wrongState
    else if !m.refSettled || m.cal.isSome || m.calStore.isSome || s.nvm.txn.isSome then cmdRefuse s .busy
    else
      let r : McvCalRun := { mask := mask, channel := ch, full := full, store := full && bitAt w 19, vfs := v }
      let m := if gridRuns m then m else { m with nextAt := s.now.tclk }
      cmdPending (startWork c.req .mcvCal { s with mcv := { m with cal := some r } })

/-- MCV_CALIBRATE. -/
def execMcvCalibrate (t : Instant) (s : State) : Result := runCmd t 0x0708 mcvCalibrateBody s

end Sys2Proof.Machine
end

