-- ==== Sys2Proof/Machine/Power.lean ====
section
/-! DEFINITION. Temperature, throttling, thermal hold, the power budget and the power states (R366–R386). -/
namespace Sys2Proof.Machine

/-! ### Sensors (R371–R373) -/

/-- A reading lies outside −55 °C to +150 °C, or more than 10 K from the one before. -/
def badReading (x : Sensor) (r : BitVec 16) : Bool :=
  r.toInt < -880 || 2400 < r.toInt || (x.prev != 0x8000 && decide (160 < (r.toInt - x.prev.toInt).natAbs))

/-- One sample of a sensor. -/
def sampleSensor (x : Sensor) (r : BitVec 16) : Sensor :=
  if badReading x r then { reading := 0x8000, valid := false, goodRun := 0, prev := r }
  else
    let n := min 100 (x.goodRun + 1)
    let ok := x.valid || decide (100 ≤ n)
    { reading := if ok then r else 0x8000, valid := ok, goodRun := n, prev := r }

/-- The contributing sensor with the highest reading: valid, and not excluded by SENSOR_MASK. -/
def hottest (s : State) : Option Nat :=
  (List.range 16).foldl (fun (a : Option Nat) i =>
    let x := s.power.sensors.getD i {}
    if !x.valid || bitAt s.power.thermal.mask i then a
    else match a with
      | none => some i
      | some j => if (s.power.sensors.getD j {}).reading.toInt < x.reading.toInt then some i else a) none

/-- T_j of this sample, and the highest since GET_TEMPERATURES. -/
def takeTj (s : State) : State :=
  let tj : BitVec 16 := match hottest s with
    | some i => (s.power.sensors.getD i {}).reading
    | none => 0x8000
  let peak := if s.power.tJPeak.toInt < tj.toInt then tj else s.power.tJPeak
  { s with power := { s.power with tJ := tj, tJPeak := peak } }

/-! ### The thermal controller (R374–R377) -/

/-- The state with a new throttle step. -/
def setThrottle (n : Nat) (s : State) : State :=
  if s.power.step = n then s
  else raise 0x0805 n 0 0 { s with power := { s.power with step := n, stepAt := s.now.real } }

/-- THERMAL_WARN, armed again at WARN − HYST. -/
def checkWarn (i : Nat) (s : State) : State :=
  let p := s.power
  let tj := p.tJ.toInt
  let warn : Int := 16 * p.thermal.warn.toNat
  if warn ≤ tj && !p.warned then raise 0x0804 i tj.toNat 0 { s with power := { p with warned := true } }
  else if tj ≤ warn - 16 * p.thermal.hyst.toNat then { s with power := { p with warned := false } }
  else s

/-- The step follows T_j: up at once from 0 and then every 100 ms, down after 1 s; not in hold. -/
def checkThrottle (s : State) : State :=
  let p := s.power
  let tj := p.tJ.toInt
  let thr : Int := 16 * p.thermal.throttle.toNat
  if p.hold then s
  else if thr ≤ tj && p.step < 3 && (p.step = 0 || passed s p.stepAt 100000000) then setThrottle (p.step + 1) s
  else if tj ≤ thr - 16 * p.thermal.hyst.toNat && 0 < p.step && passed s p.stepAt 1000000000 then
    let s := setThrottle (p.step - 1) s
    if p.step = 1 then raise 0x0807 0 0 0 s else s
  else s

/-- Thermal hold: 0 temperature, 1 no contributing sensor. -/
def enterHold (why : Nat) (s : State) : State :=
  let s := setThrottle 3 { s with power := { s.power with hold := true, faultN := true, holds := satInc s.power.holds } }
  arbitrate (raise 0x0806 why 0 0 (forceStop .thermalHold s))

/-- The hold ends: FAULT_N and the user grants are released, and eMRAM writes go on. -/
def leaveHold (s : State) : State :=
  kickWrites (arbitrate (raise 0x0807 1 0 0 { s with power := { s.power with hold := false, faultN := false } }))

/-- Hold is entered at SHUTDOWN or without a sensor, and left at SHUTDOWN − HYST. -/
def checkHold (s : State) : State :=
  let p := s.power
  let tj := p.tJ.toInt
  let top : Int := 16 * p.thermal.shutdown.toNat
  match hottest s with
  | none => if p.hold then s else enterHold 1 s
  | some _ =>
    if p.hold then (if tj ≤ top - 16 * p.thermal.hyst.toNat then leaveHold s else s)
    else if top ≤ tj then enterHold 0 s
    else s

/-- THROTTLE_MS: a sample at step 1 or above. -/
def countThrottle (s : State) : State :=
  if s.power.step = 0 then s else { s with power := { s.power with throttleMs := satInc s.power.throttleMs } }

/-- The controller acts on a sample. -/
def thermalControl (s : State) : State :=
  let s := match hottest s with
    | some i => checkWarn i s
    | none => s
  let hot := 16 * (s.power.thermal.shutdown.toNat : Int) ≤ s.power.tJ.toInt
  let s := if hot || (hottest s).isNone then s else checkThrottle s
  countThrottle (checkHold s)

/-- SENSOR_SAMPLE, every 1 ms in every state with VDDAON. Off after a trip, the device starts again once it has cooled. -/
def execSensorSample (t : Instant) (readings : List (BitVec 16)) (s : State) : Result :=
  let s := setNow t s
  if s.rst.asserted.contains .alwaysOn then .next s
  else
    let one (x : Sensor × Nat) : Sensor := sampleSensor x.1 (readings.getD x.2 0x8000)
    let s := takeTj { s with power := { s.power with sensors := s.power.sensors.zipIdx.map one } }
    if s.rst.phase == .tripped then
      let low : Int := 16 * ((s.power.thermal.shutdown.toNat : Int) - s.power.thermal.hyst.toNat)
      .next (if (hottest s).isSome && s.power.tJ.toInt ≤ low then assertReset .thermal false s else s)
    else if s.rst.asserted.contains .bureau then .next s
    else .next (thermalControl s)

/-- HARD_TRIP: every domain but the always-on one is switched off, DRAM is held in self-refresh, FAULT_N is driven low. -/
def execHardTrip (t : Instant) (s : State) : Result :=
  let s := setNow t s
  if s.rst.phase == .dead then .next s
  else
    let k := higherCause .thermal (if s.rst.phase == .done then .thermal else s.rst.cause)
    let s := loseState k false s
    .next { s with
      power := { s.power with faultN := true }
      rst := { s.rst with phase := .tripped, cause := k, keepTrunk := false, waiting := none, asserted := resetDomains .thermal false } }

/-! ### Commands (R370, R378, R379, R381) -/

/-- The words of SET_POWER_BUDGET. -/
def budgetWords (b : BudgetCfg) : List Word :=
  [wordOf b.ceiling.toNat, mkWord [(b.vddcv.toNat, 16), (b.vddc.toNat, 0)], mkWord [(b.vddl.toNat, 16), (b.vddm.toNat, 0)],
   mkWord [(b.vddpix.toNat, 16), (b.vdda.toNat, 0)]]

/-- The budget that words ask for. -/
def budgetOf (ws : List Word) : BudgetCfg :=
  let h (i : Nat) : BitVec 16 := fld (paramAt ws i) 16 16
  let l (i : Nat) : BitVec 16 := fld (paramAt ws i) 0 16
  { ceiling := l 0, vddcv := h 1, vddc := l 1, vddl := h 2, vddm := l 2, vddpix := h 3, vdda := l 3 }

/-- The first word of SET_POWER_BUDGET with a value outside its range. -/
def budgetBad (b : BudgetCfg) : Option Nat :=
  if b.ceiling.toNat < 2000 || 22000 < b.ceiling.toNat then some 0
  else if 9600 < b.vddcv.toNat || 8250 < b.vddc.toNat then some 1
  else if 1350 < b.vddl.toNat || 3850 < b.vddm.toNat then some 2
  else if 660 < b.vddpix.toNat || 720 < b.vdda.toNat then some 3
  else none

/-- Some pillow that draws power holds a grant. -/
def someGrant (s : State) : Bool := (List.range 8).any fun p => grantedAt s p && 0 < pillowMw s (caseNow s) p

/-- SET_POWER_BUDGET. -/
def setPowerBudgetBody (c : Cmd) (s : State) : CmdResult :=
  let b := budgetOf (overlay c.words (budgetWords s.power.budget))
  judged c.words [0xFFFF, 0xFFFFFFFF, 0xFFFFFFFF, 0xFFFFFFFF] s <| match budgetBad b with
    | some i => cmdBad s i
    | none =>
      let s := arbitrate { s with power := { s.power with budget := b } }
      let short := if someGrant s then 0 else excessMw s (caseNow s) (grantedAt s)
      cmdOk s [mkWord [(min 65535 short, 16), (min 65535 (accountMw s (caseNow s) (grantedAt s)), 0)]]

/-- SET_POWER_BUDGET. -/
def execSetPowerBudget (t : Instant) (s : State) : Result := runCmd t 0x0805 setPowerBudgetBody s

/-- THERMAL_CONFIG. -/
def thermalConfigBody (c : Cmd) (s : State) : CmdResult :=
  let o := s.power.thermal
  let ws := overlay c.words
    [mkWord [(o.hyst.toNat, 24), (o.shutdown.toNat, 16), (o.throttle.toNat, 8), (o.warn.toNat, 0)], wordOf o.mask.toNat]
  let w := paramAt ws 0
  let n : ThermalCfg := { hyst := fld w 24 4, shutdown := fld w 16 8, throttle := fld w 8 8, warn := fld w 0 8, mask := fld (paramAt ws 1) 0 16 }
  let out (x : Byte) (lo hi : Nat) : Bool := x.toNat < lo || hi < x.toNat
  judged c.words [0x0FFFFFFF, 0xFFFF] s <|
    if n.hyst.toNat < 2 || 10 < n.hyst.toNat || out n.shutdown 80 120 || out n.throttle 70 115 || out n.warn 60 110 ||
        n.throttle.toNat < n.warn.toNat || n.shutdown.toNat ≤ n.throttle.toNat then cmdBad s 0
    else if n.mask == 0xFFFF then cmdBad s 1
    else cmdOk { s with power := { s.power with thermal := n } }

/-- THERMAL_CONFIG. -/
def execThermalConfig (t : Instant) (s : State) : Result := runCmd t 0x0806 thermalConfigBody s

/-- GET_TEMPERATURES: T_J_PEAK is read-clear. -/
def getTemperaturesBody (c : Cmd) (s : State) : CmdResult :=
  let p := s.power
  let r (i : Nat) : Nat := (p.sensors.getD i {}).reading.toNat
  let valid := (List.range 16).foldl (fun a i => a + b2n (p.sensors.getD i {}).valid * 2 ^ i) 0
  judged c.words [0] s <|
    cmdOk { s with power := { p with tJPeak := 0x8000 } }
      (((List.range 8).map fun i => mkWord [(r (2 * i + 1), 16), (r (2 * i), 0)]) ++
       [mkWord [(p.tJ.toNat, 16), (valid, 0)],
        mkWord [(p.tJPeak.toNat, 16), (b2n (s.rst.cause == .thermal), 3), (b2n p.hold, 2), (p.step, 0)]])

/-- GET_TEMPERATURES. -/
def execGetTemperatures (t : Instant) (s : State) : Result := runCmd t 0x0807 getTemperaturesBody s

/-- What must be stopped for Doze and Stow is not (R49, R381). -/
def cannotRest (s : State) : Bool :=
  !pipelineStopped s || (List.range 9).any (fun i => streamOn s i) || userRuns s || s.nvm.updateLength.isSome ||
  s.readout.test.isSome

/-- SET_POWER_STATE. -/
def setPowerStateBody (c : Cmd) (s : State) : CmdResult :=
  let w := paramAt c.words 0
  let st := fldN w 0 2
  let ports : BitVec 2 := fld w 8 2
  let tw : BitVec 2 := fld w 10 2
  let notTarget := (bitAt tw 0 && s.twa.cfg.role) || (bitAt tw 1 && s.twb.cfg.role)
  judged c.words [0xF03] s <|
    if st = 0 || (st = 3 && (notTarget || (ports == 0 && tw == 0))) then cmdBad s 0
    else if st = 1 then (if captureStopped s then cmdOk s else cmdRefuse s .wrongState)
    else if st = 3 && s.rst.fuses.wdtStart then cmdRefuse s .notPermitted
    else if cannotRest s || (st = 3 && s.rst.wdArm) then cmdRefuse s .wrongState
    else if st = 2 then
      cmdOk (arbitrate { s with
        power := { s.power with phase := .doze, dozes := satInc s.power.dozes }, accum := { s.accum with selfRefresh := true } })
    else cmdOk { s with power := { s.power with stowPending := true, wakeSeen := false, wakePorts := ports, wakeTw := tw } }

/-- SET_POWER_STATE; with the reply in a mailbox, or suppressed, Stow is entered at once. -/
def execSetPowerState (t : Instant) (s : State) : Result :=
  match runCmd t 0x0804 setPowerStateBody s with
  | .next s => .next (settleStow s)
  | r => r

end Sys2Proof.Machine
end

