-- ==== Sys2Proof/Machine/SelfTest.lean ====
section
/-! DEFINITION. The background tests of the readout (R47–R49) and the scrubber (R95, R97). -/
namespace Sys2Proof.Machine

/-- SELFTEST (R47–R49). -/
def selftestBody (c : Cmd) (s : State) : CmdResult :=
  let w := paramAt c.words 0
  let code := fldN w 0 8
  let store := bitAt w 8
  let r := s.readout
  judged c.words [0x1FF] s <|
    if code = 0 then
      if r.test.isSome then cmdRefuse s .busy
      else cmdOk s [wordOf r.lastTest.toNat, r.passed, r.failed, r.firstFail]
    else if code < 0x20 || 0x22 < code then cmdBad s 0
    else if code = 0x21 && !captureStopped s then cmdRefuse s .wrongState
    else if r.test.isSome then cmdRefuse s .busy
    else if code = 0x21 && store && s.nvm.txn.isSome then cmdRefuse s .busy
    else
      let x : TestRun := ⟨BitVec.ofNat 8 code, code = 0x21 && store, s.now, false⟩
      cmdPending (startWork c.req .selftest { s with readout := { r with test := some x } })

/-- SELFTEST. -/
def execSelftest (t : Instant) (s : State) : Result := runCmd t 0x0F03 selftestBody s

/-- The results of a test: its counts and the first failing index. -/
def noteTest (passed failed : Nat) (first : Option Nat) (s : State) : State :=
  { s with readout := { s.readout with
      passed := wordOf passed, failed := wordOf failed, firstFail := wordOf (first.getD 0xFFFFFFFF) } }

/-- RAMP_CHECK and BOND_WALK: `fails` lists the generators out of tolerance, or the blocks with bond errors. -/
def noteWalk (total : Nat) (fails : List Nat) (s : State) : State :=
  let bad := fails.foldl (fun l x => if x < total then insNat l x else l) []
  noteTest (total - bad.length) bad.length bad.head? s

/-- The trim a block's measurement gives, or none where it does not qualify: m_H lies in 2,000–3,467 and
T = round(1000 × (r/8 − 1 + T_old/1000)), halves up, lies in −32..31; with m_L the mean of (v − 128)/8, r/8 = m_H / (8 m_L). -/
def newTrim (old : Int) (m : RatioMeasure) : Option Int :=
  let q (x : Int) : Bool := decide ((2000 * m.count : Nat) ≤ x) && decide (x ≤ (3467 * m.count : Nat))
  if !m.clean || m.count = 0 || !q m.sumH || m.sumL ≤ 0 then none
  else
    let t := (2000 * m.sumH + (2 * old - 1999) * m.sumL) / (2 * m.sumL)
    if -32 ≤ t && t ≤ 31 then some t else none

/-- The blocks that RATIO_CAL measures: those of the enabled active tiles. -/
def ratioBlocks (s : State) : Nat := 64 * (enabledTiles s.exposure.cfg s.readout.enableMask).length

/-- A converter belongs to an enabled tile. -/
def measured (s : State) (conv : Nat) : Bool := decide (conv < 786432) && tileEnabled s.exposure.cfg s.readout.enableMask (conv / 64)

/-- RATIO_CAL: every qualifying block takes its trim; a block without one keeps the old and counts as failed. -/
def noteRatio (ms : List RatioMeasure) (s : State) : State :=
  let ms := ms.filter fun m => measured s m.conv
  let got := ms.filterMap fun m => (newTrim (smGet 0 s.readout.trims m.conv).toInt m).map fun t => (m.conv, t)
  let trims := got.foldl (fun m x => smSet 0 m x.1 (BitVec.ofInt 6 x.2)) s.readout.trims
  let ok := (got.map (·.1)).foldl insNat []
  let first := (enabledTiles s.exposure.cfg s.readout.enableMask).findSome? fun t =>
    (rangeFrom (64 * t) 64).find? fun c => !ok.contains c
  noteTest ok.length (ratioBlocks s - ok.length) first { s with readout := { s.readout with trims := trims } }

/-- SELFTEST_COMPLETE: the test in the background ends. -/
def execSelftestComplete (t : Instant) (fails : List Nat) (measures : List RatioMeasure) (s : State) : Result :=
  let s := setNow t s
  match s.readout.test with
  | none => .next s
  | some x =>
    if x.storing || s.rst.asserted.contains .converter then .next s
    else if x.code == 0x20 then .next (selftestDone 0x20 0 (noteWalk 825 fails s))
    else if x.code == 0x22 then .next (selftestDone 0x22 0 (noteWalk 800832 fails s))
    else
      let s := noteRatio measures s
      if x.store then .next (startStore { s with readout := { s.readout with test := some { x with storing := true } } })
      else .next (selftestDone 0x21 0 s)

/-! ### SCRUB_ACCESS (R94, R95, R97) -/

/-- The accumulators of both pixels of a word become VOID (R97). -/
def voidAccs (a : Nat) (s : State) : State :=
  let w := accEncode (isBracketed s.exposure.cfg) { kind := .void }
  dramWriteWords s a [w, w]

/-- An uncorrectable word is handled as though the front or the chest had read it; a fatal region ends in a dump and a
reset, and where the firmware stood is free (log entry 88). -/
def scrubUe (a : Nat) (s : State) : State :=
  let r := ueRegion s a
  let s := countUe a (markDouble (a / 8) s)
  if r = 2 then voidAccs a s
  else if r = 8 && !s.rst.asserted.contains .bureau && s.rst.waiting.isNone then
    let f := takeFree s
    trap { reset := .fatal, cause := 3, detail := 8, pc := f.1, stamp := ringStamp s } f.2
  else s

/-- SCRUB_ACCESS: the word at `addr` is read, a single-bit error corrected and written back. Words come in rising order and
a pass ends with the last; a further access of another word leaves the pass where it is (log entry 90). -/
def execScrubAccess (t : Instant) (addr : Nat) (found : EccFind) (s : State) : Result :=
  let s := setNow t s
  if s.accum.selfRefresh || !blockRuns .memory s || addr % 8 ≠ 0 || 0x100000000 ≤ addr then .next s
  else
    let s := if addr ≠ s.accum.scrubAddr then s
      else if addr + 8 = 0x100000000 then
        { s with accum := { s.accum with scrubAddr := 0 }
                 accCnt := { s.accCnt with scrubPasses := satInc s.accCnt.scrubPasses } }
      else { s with accum := { s.accum with scrubAddr := addr + 8 } }
    if found == .double || s.dramBad.contains (addr / 8) then .next (scrubUe addr s)
    else if found == .single then .next (correctRead addr 8 (markEcc [⟨addr / 8, false⟩] s))
    else .next (correctRead addr 8 s)

end Sys2Proof.Machine
end

