-- ==== Sys2Proof/Machine/Timers.lean ====
section
/-! DEFINITION. Trigger pins and timer channels (R445–R458). -/
namespace Sys2Proof.Machine

/-! ### Channels (R447–R453) -/

/-- The device holds TMR7 for the mains measurement (R453). -/
def mainsHoldsTmr7 (s : State) : Bool := s.exposure.cfg.exposure.flkSrc == 2

/-- Channel c is held for the mains measurement. -/
def chanHeld (s : State) (c : Nat) : Bool := c = 7 && mainsHoldsTmr7 s

/-- Channel c with registers x, as it works: outside Stow TMR7 runs in FREE mode on TCLK and captures rising edges of MAINS_TRG
while the device holds it. -/
def chanAs (s : State) (c : Nat) (x : TimerChan) : TimerChan :=
  if chanHeld s c then
    { x with
      running := s.power.phase != .stow
      cfg := { capSrc := 1, capPin := s.exposure.cfg.exposure.mainsTrg, outEn := x.cfg.outEn, outPin := x.cfg.outPin,
               idle := x.cfg.idle } }
  else x

/-- Channel c as it works. -/
def chan (s : State) (c : Nat) : TimerChan := chanAs s c (s.timers.chans.getD c {})

/-- The state with a channel's registers changed. -/
def updChan (c : Nat) (f : TimerChan → TimerChan) (s : State) : State :=
  { s with timers := { s.timers with chans := s.timers.chans.modify c f } }

/-- An action on the pin: none, set, clear, toggle. -/
def pinAct (a : BitVec 2) (out : Bool) : Bool := if a == 1 then true else if a == 2 then false else if a == 3 then !out else out

/-- Preloads copied at a wrap or SYNC (R449). -/
def copyPreloads (m : BitVec 2) (x : TimerChan) : TimerChan :=
  if m == 0 then { x with cmp0 := x.cmp0Pre, cmp1 := x.cmp1Pre, period := x.periodPre }
  else if m == 1 then { x with period := x.periodPre }
  else x

/-- The preload of a compare copied just after its match under CHAINED. -/
def copyChained (m : BitVec 2) (m0 m1 : Bool) (x : TimerChan) : TimerChan :=
  if m == 1 then
    { x with cmp0 := if m0 then x.cmp0Pre else x.cmp0, cmp1 := if m1 then x.cmp1Pre else x.cmp1 }
  else x

/-- What one tick does under a configuration: the new registers, and whether a PERIOD at or below the count forced the wrap.
Matches and actions come before the preloads are copied. -/
def tickChan (g : TimerCfg) (x : TimerChan) : TimerChan × Bool :=
  let overrun : Bool := g.mode && decide (x.period.toNat ≤ x.count.toNat)
  let wrap : Bool := overrun || (if g.mode then x.count + 1 == x.period else x.count + 1 == 0)
  let c : Word := if wrap then 0 else x.count + 1
  let m0 := c == x.cmp0 && (!g.mode || x.cmp0.toNat < x.period.toNat)
  let m1 := c == x.cmp1 && (!g.mode || x.cmp1.toNat < x.period.toNat)
  let o := if wrap then pinAct g.actW x.out else x.out
  let o := if m0 then pinAct g.act0 o else o
  let o := if m1 then pinAct g.act1 o else o
  let y := copyChained g.wmode m0 m1 { x with count := c, out := o }
  let y := if wrap then copyPreloads g.wmode y else y
  (if overrun then { y with periodOverrun := true, overruns := satInc y.overruns } else y, overrun)

/-- One event of the source of a channel with prescaler `pre`: the fractional prescaler passes it on as a tick or not (R447). -/
def sourceChan (g : TimerCfg) (pre : Nat) (x : TimerChan) : TimerChan × Bool :=
  let a := x.phaseAcc + 65536
  if a < pre then ({ x with phaseAcc := a }, false) else tickChan g { x with phaseAcc := a - pre }

/-- A SYNC: the count is 0 and the preloads are copied; nothing matches. -/
def syncChan (g : TimerCfg) (x : TimerChan) : TimerChan := copyPreloads g.wmode { x with count := 0 }

/-- A capture: the count joins the queue, or finds the queue of four full and is discarded; SYNC = 3 then sets the count to 0. -/
def captureChan (g : TimerCfg) (x : TimerChan) : TimerChan :=
  let y := if x.captures.length < 4 then { x with captures := x.captures ++ [x.count] }
    else { x with capOvf := true, capLost := satInc x.capLost }
  if g.sync == 3 then syncChan g y else y

/-- A load under the channel's WMODE (R449, R450): the preloads, and with IMMEDIATE the values in force. -/
def loadChan (ld : BitVec 3) (c0 c1 pd : Word) (x : TimerChan) : TimerChan :=
  let imm := x.cfg.wmode == 2
  let x := if bitAt ld 0 then { x with cmp0Pre := c0, cmp0 := if imm then c0 else x.cmp0 } else x
  let x := if bitAt ld 1 then { x with cmp1Pre := c1, cmp1 := if imm then c1 else x.cmp1 } else x
  if bitAt ld 2 then { x with periodPre := pd, period := if imm then pd else x.period } else x

/-- What STOP, CLEAR and START do to a channel, in this order; a channel that begins to run counts microseconds from `us` on. -/
def goChan (us : Nat) (stop clear start : Bool) (x : TimerChan) : TimerChan :=
  let x := if stop then { x with running := false, out := x.cfg.idle } else x
  let x := if clear then { x with count := 0, phaseAcc := 0 } else x
  if start && !x.running then { x with running := true, usMark := us } else x

/-- TIMER_READ of a channel: its flags clear, and POP removes the entries. -/
def readChan (pop : Bool) (x : TimerChan) : TimerChan :=
  { x with periodOverrun := false, capOvf := false, captures := if pop then [] else x.captures }

/-- What an act does to a channel that works under `g`. -/
def actChan (g : TimerCfg) : TimerAct → TimerChan → TimerChan
  | .capture => captureChan g
  | .sync => syncChan g
  | .load m c0 c1 pd => loadChan m c0 c1 pd
  | .go us stop clear start => goChan us stop clear start
  | .read pop => readChan pop

/-- The channel before what acted on it at this TCLK edge, and those acts. -/
def edgeBase (s : State) (c : Nat) : TimerChan × List TimerAct :=
  match s.timers.edges.getD c none with
  | some e => if e.edge = s.now.tclk then (e.base, e.acts) else (s.timers.chans.getD c {}, [])
  | none => (s.timers.chans.getD c {}, [])

/-- The state with a channel's registers, and its base and acts of this TCLK edge. -/
def setChan (c : Nat) (x base : TimerChan) (acts : List TimerAct) (s : State) : State :=
  { s with timers := { s.timers with
    chans := s.timers.chans.set c x
    edges := s.timers.edges.set c (some { edge := s.now.tclk, base := base, acts := acts }) } }

/-- Something acts on a channel at this TCLK edge. -/
def actOn (c : Nat) (a : TimerAct) (s : State) : State :=
  let b := edgeBase s c
  setChan c (actChan (chan s c).cfg a (s.timers.chans.getD c {})) b.1 (b.2 ++ [a]) s

/-- A channel gets `r` at a tick: what already acted on it at this edge acts again after it, and an overrun is reported. -/
def tickTo (c : Nat) (r : TimerChan × Bool) (s : State) : State :=
  let s' := setChan c ((edgeBase s c).2.foldl (fun x a => actChan (chan s c).cfg a x) r.1) r.1 (edgeBase s c).2 s
  if r.2 then raise 0x0703 c 0 0 s' else s'

/-- The multiple of 1,000 ns that the ring-time count has passed. -/
def ringUs (s : State) : Nat := ringNs s / 1000

/-- The source of a channel gives an event: REFCLK0 while it is good, the exposure ticks while capture runs, the microsecond tick
once the ring-time count has passed a further multiple of 1,000 ns (R447, R458). The edges of SRC_PIN come with TRG_EDGE (log entry
94). -/
def sourceLives (s : State) (x : TimerChan) : Bool :=
  let src := x.cfg.src
  if src == 1 then s.clock.ref0Ok
  else if src == 3 || src == 4 then !captureStopped s
  else if src == 6 then decide (x.usMark < ringUs s)
  else src != 5

/-- An event of the source of a channel with registers x before anything else of this TCLK edge. -/
def sourceEvent (c : Nat) (x : TimerChan) (s : State) : State :=
  let pre := if chanHeld s c then 65536 else x.prescale.toNat
  tickTo c (sourceChan (chan s c).cfg pre { x with usMark := ringUs s }) s

/-- TIMER_TICK: an event of the channel's source (log entry 94). It comes before what else acts on the channel at its TCLK edge, in
whichever order the rows come. -/
def execTimerTick (t : Instant) (ch : Fin 8) (s : State) : Result :=
  let s := setNow t s
  let x := (edgeBase s ch.val).1
  let y := chanAs s ch.val x
  .next (if y.running && s.power.phase != .stow && sourceLives s y then sourceEvent ch.val x s else s)

/-- TIMER_SYNC: a sub-frame or frame tick sets a running channel's count to 0; the ticks stop while capture is stopped (R447). -/
def execTimerSync (t : Instant) (ch : Fin 8) (s : State) : Result :=
  let s := setNow t s
  let x := chan s ch.val
  .next (if x.running && (x.cfg.sync == 1 || x.cfg.sync == 2) && !captureStopped s then actOn ch.val .sync s else s)

/-- TIMER_CAPTURE: a frame or sub-frame tick that a running channel captures; edges of CAP_PIN come with TRG_EDGE (log entry
94). -/
def execTimerCapture (t : Instant) (ch : Fin 8) (s : State) : Result :=
  let s := setNow t s
  let x := chan s ch.val
  .next (if x.running && 2 ≤ x.cfg.capSrc.toNat && !captureStopped s then actOn ch.val .capture s else s)

/-! ### TRG inputs (R445) -/

/-- A channel captures an edge of a pin. -/
def capturesEdge (x : TimerChan) (p : Nat) (falling : Bool) : Bool :=
  x.running && x.cfg.capSrc == 1 && x.cfg.capPin.toNat == p &&
  (x.cfg.capEdge == 2 || x.cfg.capEdge == (if falling then 1 else 0))

/-- A channel counts an edge of a pin: SRC 5 (R447). -/
def countsEdge (x : TimerChan) (p : Nat) (falling : Bool) : Bool :=
  x.running && x.cfg.src == 5 && x.cfg.srcPin.toNat == p && x.cfg.srcEdge == falling

/-- A level that `n` samples from `e` on show is qualified: it is new, it holds for TRG_FILT samples, and the level before it has held
as long. -/
def edgeQualified (s : State) (p e : Nat) (x : PinLevel) : Bool :=
  let f := (s.timers.filt.getD p 10).toNat
  let at0 := s.timers.levelAt.getD p 0
  s.timers.level.getD p false != x.level && decide (f ≤ x.samples) && (at0 = 0 || decide (at0 + f ≤ e))

/-- What the channels make of a qualified edge: those that count it tick, and those that capture it then record the count. -/
def edgeOnChans (p : Nat) (falling : Bool) (s : State) : State :=
  let s := (List.range 8).foldl (fun s c => if countsEdge (chan s c) p falling then sourceEvent c (edgeBase s c).1 s else s) s
  (List.range 8).foldl (fun s c => if capturesEdge (chan s c) p falling then actOn c .capture s else s) s

/-- TRG_EDGE: a level that a pin takes; the edge, once qualified, is dated at its first sample. Channels count or capture it; the pin
trigger, a freeze and the mains measurement act on it. In Stow, TCLK stands and nothing is sampled. -/
def execTrgEdge (t : Instant) (pin : Fin 8) (level : PinLevel) (s : State) : Result :=
  let s := setNow t s
  let p := pin.val
  let e := s.now.tclk
  let falling := !level.level
  if pinsChained s || s.power.phase == .stow || !edgeQualified s p e level then .next s
  else
    let s := { s with timers := { s.timers with
      level := s.timers.level.set p level.level, levelAt := s.timers.levelAt.set p e } }
    .next (mainsEdge p falling e (pinFreeze p falling e (pinTrigger p falling e (edgeOnChans p falling s))))

/-! ### TIMER_CONFIG (R446, R454) -/

/-- The words of a channel's settings in force, W0 to W5. -/
def timerWords (x : TimerChan) : List Word :=
  let g := x.cfg
  [mkWord [(g.src.toNat, 8), (b2n g.mode, 7), (g.wmode.toNat, 5), (g.sync.toNat, 3)],
   mkWord [(g.capEdge.toNat, 20), (g.capPin.toNat, 17), (g.capSrc.toNat, 15), (g.srcPin.toNat, 12), (b2n g.srcEdge, 11),
     (b2n g.outEn, 10), (g.outPin.toNat, 7), (b2n g.idle, 6), (g.actW.toNat, 4), (g.act1.toNat, 2), (g.act0.toNat, 0)],
   x.prescale, x.period, x.cmp0, x.cmp1]

/-- The word of the eight filters. -/
def filtWord (f : List (BitVec 4)) : Word := mkWord ((List.range 8).map fun p => ((f.getD p 10).toNat, 4 * p))

/-- The settings that W0 and W1 ask for. -/
def timerCfgOf (a b : Word) : TimerCfg where
  src := fld a 8 3
  mode := bitAt a 7
  wmode := fld a 5 2
  sync := fld a 3 2
  capEdge := fld b 20 2
  capPin := fld b 17 3
  capSrc := fld b 15 2
  srcPin := fld b 12 3
  srcEdge := bitAt b 11
  outEn := bitAt b 10
  outPin := fld b 7 3
  idle := bitAt b 6
  actW := fld b 4 2
  act1 := fld b 2 2
  act0 := fld b 0 2

/-- A pin that another owner drives, or that is an input of the exposure (R446). -/
def pinTaken (s : State) (c : Nat) (p : BitVec 3) : Bool :=
  let g := s.exposure.trig
  let freeze := match s.history.freezeWait with
    | some w => w.source == 1 && w.pin == p
    | none => false
  ((List.range 8).any fun d => d != c && (chan s d).cfg.outEn && (chan s d).cfg.outPin == p) ||
  (g.xoEn && g.xoPin == p) || (g.mode == 1 && g.pin == p) || (mainsHoldsTmr7 s && s.exposure.cfg.exposure.mainsTrg == p) || freeze

/-- The filters that a word gives; none where one lies outside 1 to 10. -/
def filtOf (w : Word) : Option (List (BitVec 4)) :=
  let f : List (BitVec 4) := (List.range 8).map fun p => fld w (4 * p) 4
  if f.all fun x => 1 ≤ x.toNat && x.toNat ≤ 10 then some f else none

/-- TIMER_CONFIG. W6 counts only with FILT_WR (log entry 96). -/
def timerConfigBody (c : Cmd) (s : State) : CmdResult :=
  let n := fldN (paramAt c.words 0) 0 3
  let x := s.timers.chans.getD n {}
  let ws := overlay c.words (timerWords x ++ [filtWord s.timers.filt])
  let w (i : Nat) : Word := paramAt ws i
  let g := timerCfgOf (w 0) (w 1)
  let wr := bitAt (w 0) 11
  judged c.words [0xFFF, 0x3FFFFF] s <|
    if g.src == 7 || g.wmode == 3 then cmdBad s 0
    else if g.capEdge == 3 || (g.outEn && pinTaken s n g.outPin) then cmdBad s 1
    else if (w 2).toNat < 0x10000 then cmdBad s 2
    else if g.mode && (w 3).toNat < 2 then cmdBad s 3
    else if wr && (filtOf (w 6)).isNone then cmdBad s 6
    else if chanHeld s n then cmdRefuse s .busy
    else if (chan s n).running then cmdRefuse s .wrongState
    else if wr && (!captureStopped s || (List.range 8).any fun d => (chan s d).running) then cmdRefuse s .wrongState
    else
      let s := updChan n (fun x => { x with
        cfg := g, prescale := w 2, period := w 3, cmp0 := w 4, cmp1 := w 5, periodPre := w 3, cmp0Pre := w 4, cmp1Pre := w 5
        phaseAcc := 0, count := 0, captures := [], out := g.idle }) s
      let s := { s with timers := { s.timers with edges := s.timers.edges.set n none } }
      cmdOk (if wr then { s with timers := { s.timers with filt := (filtOf (w 6)).getD s.timers.filt } } else s)

/-- TIMER_CONFIG. -/
def execTimerConfig (t : Instant) (s : State) : Result := runCmd t 0x0703 timerConfigBody s

/-! ### TIMER_GO (R455) -/

/-- TIMER_GO: its acts come at the TCLK edge of the reply, after a tick of that edge (R450, R455). -/
def timerGoBody (c : Cmd) (s : State) : CmdResult :=
  let w := paramAt c.words 0
  let ld : BitVec 3 := fld w 27 3
  let ch := fldN w 24 3
  let pd := paramAt c.words 3
  let named := fldN w 0 8 ||| fldN w 8 8 ||| fldN w 16 8
  judged c.words [0x3FFFFFFF] s <|
    if fldN w 0 8 &&& fldN w 8 8 ≠ 0 then cmdBad s 0
    else if bitAt ld 2 && (chan s ch).cfg.mode && pd.toNat < 2 then cmdBad s 3
    else if mainsHoldsTmr7 s && (128 ≤ named || (ld != 0 && ch = 7)) then cmdRefuse s .busy
    else
      let s := actOn ch (.load ld (paramAt c.words 1) (paramAt c.words 2) pd) s
      let s := (List.range 8).foldl (fun s i => actOn i (.go (ringUs s) (bitAt w (8 + i)) (bitAt w (16 + i)) (bitAt w i)) s) s
      cmdOk s [lo32 (ringStamp s), hi32 (ringStamp s)]

/-- TIMER_GO. -/
def execTimerGo (t : Instant) (s : State) : Result := runCmd t 0x0704 timerGoBody s

/-! ### TIMER_READ (R456) -/

/-- The level that PIN shows. -/
def chanPin (s : State) (x : TimerChan) : Bool := if x.cfg.outEn then x.out else s.timers.level.getD x.cfg.capPin.toNat false

/-- The six words of a channel. -/
def chanWords (s : State) (c : Nat) : List Word :=
  let x := chan s c
  [x.count, mkWord [(b2n x.running, 7), (b2n (chanPin s x), 6), (b2n x.periodOverrun, 5), (b2n x.capOvf, 4), (x.captures.length, 0)]]
    ++ (List.range 4).map fun i => x.captures.getD i 0

/-- TIMER_READ: the channels that the path carries are returned, popped, and their flags cleared. -/
def timerReadBody (c : Cmd) (s : State) : CmdResult :=
  let w := paramAt c.words 0
  let chs := (List.range 8).filter fun i => bitAt w i
  judged c.words [0xFFFF] s <|
    if mainsHoldsTmr7 s && bitAt w 15 && bitAt w 7 then cmdRefuse s .busy
    else
      let back := chs.take ((pathWords c.via - 2) / 6)
      let s1 := back.foldl (fun s i => actOn i (.read (bitAt w (8 + i))) s) s
      cmdOk s1 ([lo32 (ringStamp s), hi32 (ringStamp s)] ++ chs.flatMap (chanWords s))

/-- TIMER_READ. -/
def execTimerRead (t : Instant) (s : State) : Result := runCmd t 0x0705 timerReadBody s

end Sys2Proof.Machine
end

