-- ==== Sys2Proof/Machine/TrunkCmds.lean ====
section
/-! DEFINITION. TRUNK_CONFIG, TRUNK_STATUS and LANE_DIAG (R283–R286). -/
namespace Sys2Proof.Machine

/-! ### TRUNK_CONFIG (R283, R284) -/

/-- The words of TRUNK_CONFIG as commanded for a port. -/
def trunkWords (p : Port) (c : TrunkCfg) : List Word :=
  [mkWord [(c.laneOff.toNat, 16), (b2n c.dozeEn, 13), (b2n c.fastRetrain, 12), (b2n c.restoreEn, 11), (c.minWidth.toNat, 8),
    (b2n c.clocking, 6), (c.rateMax.toNat, 4), (b2n c.enable, 1), (portNo p, 0)],
   mkWord [(c.fomMin.toNat, 16), (c.dozeIdle.toNat, 0)],
   mkWord [(c.txPost.toNat, 8), (c.txPre.toNat, 5), (c.txSwing.toNat, 0)]]

/-- The configuration that parameter words ask for. -/
def trunkOf (ws : List Word) : TrunkCfg :=
  let w := paramAt ws 0
  let v := paramAt ws 1
  let u := paramAt ws 2
  { laneOff := fld w 16 4, dozeEn := bitAt w 13, fastRetrain := bitAt w 12, restoreEn := bitAt w 11, minWidth := fld w 8 2
    clocking := bitAt w 6, rateMax := fld w 4 2, enable := bitAt w 1, fomMin := fld v 16 8, dozeIdle := fld v 0 16
    txPost := fld u 8 5, txPre := fld u 5 3, txSwing := fld u 0 4 }

/-- The port a PORT field names. -/
def portOf (b : Bool) : Port := if b then .west else .east

/-- A value of TRUNK_CONFIG outside its range: the word that holds it. -/
def trunkBad (c : TrunkCfg) : Option Nat :=
  if c.minWidth == 3 || c.rateMax == 3 || 4 - (maskLanes c.laneOff).length < lanesOf c.minWidth then some 0
  else if c.fomMin == 0 || c.dozeIdle == 0 || 1000 < c.dozeIdle.toNat then some 1
  else if 15 < c.txPost.toNat || 12 < c.txSwing.toNat then some 2
  else none

/-- A command that came by port p would take p out of service while the other port is not UP (R284). -/
def cutsOff (c : Cmd) (p : Port) (s : State) : Bool := c.via == some p && (getPort s (otherPort p)).phase != .up

/-- A port action takes effect at once for a two-wire requester, whose reply is in the mailbox, and after the reply has
left for a trunk requester (R333). -/
def planAct (c : Cmd) (p : Port) (a : PortAct) (s : State) : State :=
  if c.via.isSome then updPort s p fun x => { x with act := some a } else doAct p a s

/-- TRUNK_CONFIG. -/
def trunkConfigBody (c : Cmd) (s : State) : CmdResult :=
  let w0 := paramAt c.words 0
  let p := portOf (bitAt w0 0)
  let x := getPort s p
  let old := x.nextCfg.getD x.cfg
  let new := trunkOf (overlay c.words (trunkWords p old))
  let retrain := bitAt w0 14
  judged c.words [0xFFB73, 0xFFFFFF, 0x1FEF] s <| match trunkBad new with
    | some i => cmdBad s i
    | none =>
      if cutsOff c p s && !bitAt w0 15 && (!new.enable || retrain) then cmdRefuse s .notPermitted
      else
        let s := updPort s p fun x => { x with
          cfg := { x.cfg with dozeEn := new.dozeEn, dozeIdle := new.dozeIdle }, nextCfg := some new }
        let s := if !new.enable then (if x.phase == .disabled then doAct p .disable s else planAct c p .disable s)
          else if retrain then planAct c p .retrain s
          else if x.phase == .disabled then startAttempt p true s
          else s
        cmdOk s

/-! ### TRUNK_STATUS (R285) -/

/-- STATE of a port. -/
def trunkState (x : TrunkPort) : Nat :=
  match x.phase with
  | .disabled => 0
  | .backoff => 1
  | .stowed => 9
  | .diag => 10
  | ph => stageNo ph

/-- TRUNK_STATUS. -/
def trunkStatusBody (c : Cmd) (s : State) : CmdResult :=
  let w := paramAt c.words 0
  let x := getPort s (portOf (bitAt w 0))
  let inv := (List.range 4).foldl (fun a l => a + b2n (laneAt x l).inverted * 2 ^ l) 0
  judged c.words [1] s <| cmdOk s [
      mkWord [(trunkState x, 28), (x.rate.toNat, 26), (x.widthRx.toNat, 24), (x.widthTx.toNat, 22), (b2n x.cfg.clocking, 21),
        (b2n x.txDoze, 20), (b2n x.rxDoze, 19), (x.lanesRx.toNat, 15), (inv, 11), (x.partnerAddr.toNat, 0)],
      mkWord ((List.range 4).map fun l => ((laneAt x l).fom.toNat, 8 * l)),
      mkWord [(x.partnerTag.toNat, 16), (x.partnerEtp.toNat, 8), (x.failStage.toNat, 4), (x.failReason.toNat, 0)],
      x.bringups, x.linkDowns, x.sheds, x.restores, x.replayed, x.naksSent, x.stomped, x.hdrErrs,
      mkWord [(x.ebSlip.toNat, 16), (x.dozeWakes.toNat, 0)]]

/-! ### LANE_DIAG (R286) -/

/-- The two READ words of a lane. -/
def laneRead (l : LaneState) : List Word :=
  [mkWord [(l.fom.toNat, 24), (l.ctle.toNat, 20), (l.hdrErr.toNat, 0)],
   mkWord (l.dfe.zipIdx.map fun t => (t.1.toNat, 6 * t.2))]

/-- READ clears the header errors of the lanes it names. -/
def clearHdrErr (m : BitVec 4) (x : TrunkPort) : TrunkPort :=
  let f (l : LaneState × Nat) : LaneState := if bitAt m l.2 then { l.1 with hdrErr := 0 } else l.1
  { x with lanes := x.lanes.zipIdx.map f }

/-- Bits checked on a lane since PRBS_START or the last PRBS_READ of it, in units of 2^20, at the port's rate. -/
def prbsBits (s : State) (x : TrunkPort) (l : Nat) : Nat :=
  let r : Nat := if x.rate == 0 then 330 else if x.rate == 1 then 400 else 825
  (s.now.real - (laneAt x l).prbsFrom.getD s.now.real) * r / 512 / 2 ^ 20

/-- PRBS_READ of one lane: the errors are what the channel made, none on a lane that is looped on the die (log entry 73); a lane that
no PRBS test runs on has checked nothing. -/
def prbsLane (p : Port) (l : Nat) (s : State) : List Word × State :=
  let x := getPort s p
  if !bitAt x.prbs l then ([0, 0], s)
  else
    let (e, s1) := if bitAt x.loopNear l then (0, s) else takeFree s
    ([e, wordOf (prbsBits s x l)], updPort s1 p (updLane l fun y => { y with prbsFrom := some s.now.real }))

/-- PRBS_READ. -/
def prbsRead (p : Port) (lanes : List Nat) (s : State) : CmdResult :=
  let (ws, s) := lanes.foldl (fun (a : List Word × State) l =>
    let (w, s) := prbsLane p l a.2
    (a.1 ++ w, s)) ([], s)
  cmdOk s ws

/-- LANE_DIAG. -/
def laneDiagBody (c : Cmd) (s : State) : CmdResult :=
  let w := paramAt c.words 0
  let p := portOf (bitAt w 0)
  let x := getPort s p
  let m : BitVec 4 := fld w 16 4
  let lanes := maskLanes m
  let test := fldN w 8 4
  judged c.words [0xF0F01, 0xFF] s <|
    if 8 < test then cmdBad s 0
    else if test = 1 && fld (paramAt c.words 1) 0 8 == 0 then cmdBad s 1
    else if test = 0 then
      cmdOk (updPort s p (clearHdrErr m)) (lanes.flatMap fun l => laneRead (laneAt x l))
    else if test = 1 then
      (if x.eye.isSome then cmdRefuse s .busy
       else cmdPending (startWork c.req (.laneDiag p) (updPort s p fun x => { x with eye := some m })))
    else if test = 2 then
      (if x.eye.isSome then cmdRefuse s .busy
       else cmdOk s (lanes.map fun l =>
         mkWord [((x.eyes.getD l (0, 0)).1.toNat, 24), ((x.eyes.getD l (0, 0)).2.toNat, 16)]))
    else if test = 4 then (if x.phase == .diag && x.prbs != 0 then prbsRead p lanes s else cmdRefuse s .wrongState)
    else if test = 5 || test = 8 then
      (if x.phase == .diag then cmdOk (startAttempt p true s) else cmdRefuse s .wrongState)
    else if cutsOff c p s then cmdRefuse s .notPermitted
    else cmdOk (planAct c p (.diag (BitVec.ofNat 4 test) m) s)

/-- EYE_SCAN_COMPLETE: `openings` gives height and width of each lane tested, ascending. -/
def execEyeScanComplete (t : Instant) (p : Port) (openings : List Byte) (s : State) : Result :=
  let s := setNow t s
  .next (match (getPort s p).eye with
    | none => s
    | some m =>
      let ls := maskLanes m
      let s := updPort s p fun x => { x with
        eye := none
        eyes := ls.zipIdx.foldl (fun e l => e.set l.1 (openings.getD (2 * l.2) 0, openings.getD (2 * l.2 + 1) 0)) x.eyes }
      raise 0x0507 (portNo p) 0 0 (endWork (.laneDiag p) s))

end Sys2Proof.Machine
end

