-- ==== Sys2Proof/Machine/TwoWire.lean ====
section
/-! DEFINITION. The two-wire ports: the target window and mailbox, in-band requests, TW_CONFIG and controller transfers
(R424–R444). -/
namespace Sys2Proof.Machine

/-- An event on a two-wire bus; the port is awake and its Bureau domain out of reset. -/
def twEvent (t : Instant) (f : State → State) (s : State) : Result :=
  let s := setNow t s
  .next (if pinsChained s || s.rst.asserted.contains .bureau || s.power.phase == .stow then s else f s)

/-! ### The window (R428–R430) -/

/-- The target address in force. -/
def twAddr (s : State) (p : TwPort) : BitVec 7 :=
  let a := (getTw s p).cfg.taddr
  if a == 0 then fuseAddr s p else a

/-- Addresses that the I²C-bus specification reserves. -/
def reservedAddr (a : BitVec 7) : Bool := a.toNat < 8 || 0x78 ≤ a.toNat

/-- A byte of the window. -/
def windowByte (s : State) (p : TwPort) (a : Nat) : Byte :=
  let x := getTw s p
  let b (fs : List (Nat × Nat)) : Byte := fld (mkWord fs) 0 8
  if a = 0 then 0x16
  else if a = 1 then 0x50
  else if a = 2 then s.rst.fuses.stepping
  else if a = 3 then b [(b2n s.rst.recovery, 2), (b2n s.rst.fuses.es, 1), (b2n s.rst.fuses.variantMl, 0)]
  else if a = 4 then b [(powerCode s, 6), (b2n s.bureau.ready, 5), (b2n s.power.hold, 4), (b2n !(captureStopped s), 3),
    (b2n (treeLimp s), 2), (b2n (alertAsserted s), 0)]
  else if a = 5 then clampU 8 (unackedCount s.events)
  else if a = 8 then x.mbCount
  else if a = 0x0A then b [(b2n x.replyReady, 7), (b2n x.replyMore, 6), (b2n x.held, 5), (b2n x.inOpen, 4), (x.mbErr.toNat, 0)]
  else if a = 0x0B then x.replyLen
  else if a < 0x10 then 0
  else if a < 0x90 then x.mbIn.getD (a - 0x10) 0
  else if a < 0xF0 then x.mbOut.getD (a - 0x90) 0
  else if a < 0xF8 then fld x.rtMirror (8 * (a - 0xF0)) 8
  else 0

/-- Bytes are read from the pointer on: it moves on after each and wraps, and reading 0x0A clears MB_ERR (R428, R429). -/
def readWindow (p : TwPort) : Nat → State → List Byte × State
  | 0, s => ([], s)
  | n + 1, s =>
    let a := (getTw s p).pointer.toNat
    let (bs, u) := readWindow p n (updTw s p fun x => { x with pointer := x.pointer + 1, mbErr := if a = 0x0A then 0 else x.mbErr })
    (windowByte s p a :: bs, u)

/-! ### The mailbox (R431–R433) -/

/-- ABORT: open segments and any unread reply go; a command already submitted executes without a reply. -/
def mailAbort (p : TwPort) (s : State) : State :=
  let mute (q : Packet) : Packet := if q.req == twReq p then { q with mute := true } else q
  let s := { s with bureau := { s.bureau with
    queue := s.bureau.queue.map mute, executing := s.bureau.executing.map mute } }
  updTw s p fun x => { x with
    acc := [], inOpen := false, held := false, replyReady := false, replyMore := false, replyLen := 0, replyRest := []
    ibrPending := false }

/-- REPLY_NEXT: the next segment, or the port is free. -/
def mailNext (p : TwPort) (s : State) : State :=
  updTw s p fun x =>
    if !x.replyReady then x
    else if x.replyRest.isEmpty then { x with replyReady := false, replyMore := false, replyLen := 0, ibrPending := false }
    else loadSegment x.replyRest x

/-- APPEND or SUBMIT: the segment is taken where the port is free and MB_COUNT is right. A packet keeps what shows that it
is too long. -/
def mailSegment (p : TwPort) (submit : Bool) (s : State) : State :=
  let x := getTw s p
  let n := x.mbCount.toNat
  if twHolds x then updTw s p (setMbErr 2)
  else if n < 4 || 128 < n || n % 4 ≠ 0 then updTw s p fun x => setMbErr 1 { x with acc := [], inOpen := false }
  else
    let bs := (x.acc ++ x.mbIn.take n).take 148
    let s := updTw s p fun x => { x with
      acc := if submit then [] else bs, inOpen := !submit, held := submit, mbIn := List.replicate 128 0 }
    if submit then arrivePacket { req := twReq p, dest := 127, bytes := bs, arrived := s.now } s else s

/-- The control byte 0x09: ABORT first, REPLY_NEXT next, and SUBMIT before APPEND. -/
def mailControl (p : TwPort) (b : Byte) (s : State) : State :=
  let s := if bitAt b 7 then mailAbort p s else s
  let s := if bitAt b 6 then mailNext p s else s
  if bitAt b 0 then mailSegment p true s else if bitAt b 1 then mailSegment p false s else s

/-- One byte is written at the pointer, which moves on. -/
def writeByte (p : TwPort) (b : Byte) (s : State) : State :=
  let a := (getTw s p).pointer.toNat
  let s := updTw s p fun x => { x with pointer := x.pointer + 1 }
  if a = 8 then updTw s p fun x => { x with mbCount := b }
  else if a = 9 then mailControl p b s
  else if 0x10 ≤ a && a < 0x90 then
    updTw s p fun x => if twHolds x then setMbErr 2 x else { x with mbIn := x.mbIn.set (a - 0x10) b }
  else s

/-- ABORT. -/
def execAbort (t : Instant) (p : TwPort) (s : State) : Result := twEvent t (mailAbort p) s

/-- APPEND. -/
def execAppend (t : Instant) (p : TwPort) (s : State) : Result := twEvent t (mailSegment p false) s

/-- SUBMIT. -/
def execSubmit (t : Instant) (p : TwPort) (s : State) : Result := twEvent t (mailSegment p true) s

/-- REPLY_NEXT. -/
def execReplyNext (t : Instant) (p : TwPort) (s : State) : Result := twEvent t (mailNext p) s

/-! ### Transactions on the bus (R429, R434, R436, R440) -/

/-- The port number of events: 0 TWA, 1 TWB. -/
def twNo : TwPort → Nat
  | .a => 0
  | .b => 1

/-- The glitch filter of a port in ns: FILTER steps of 10 ns, and 50 ns in Stow (R427). -/
def twFilter (s : State) (p : TwPort) : Nat := if s.power.phase == .stow then 50 else 10 * (getTw s p).cfg.filter.toNat

/-- The port sees a level that lasts so many ns: the filter suppresses shorter pulses. -/
def twPasses (s : State) (p : TwPort) (ns : Nat) : Bool := decide (twFilter s p ≤ ns)

/-- When the port sees what happens at its pins now. -/
def twSeen (s : State) (p : TwPort) : Nat := s.now.real + 16 * twFilter s p

/-- The bus is idle from now on; a stuck episode is over. -/
def busIdle (now : Nat) (x : TwPortState) : TwPortState := { x with bus := none, busIdleSince := now, stuckRaised := false }

/-- The port recognises its target address and is awake, or wakes the device from Stow. -/
def twAnswers (s : State) (p : TwPort) : Bool :=
  !pinsChained s && !s.rst.asserted.contains .bureau && !reservedAddr (twAddr s p) && (s.power.phase != .stow || bitAt s.power.wakeTw (twNo p))

/-- An addressed transaction begins: it is counted, and in Stow it wakes the device with the pointer at 0 (R436); before Stow is
entered the wake source is remembered (R385). -/
def addressed (p : TwPort) (read : Bool) (s : State) : State :=
  let s := if s.power.phase == .stow then updTw (wakeStow s) p fun x => { x with pointer := 0 }
    else if bitAt s.power.wakeTw (twNo p) then wakeSource s
    else s
  updTw s p fun x => { x with matchCount := satInc x.matchCount, bus := some ⟨true, read, true⟩ }

/-- A transaction with this port that is cut in the middle of a byte is aborted. -/
def cutByte (p : TwPort) (midByte : Bool) (s : State) : State :=
  updTw s p fun x => match x.bus with
    | some b => if b.addressed && midByte then { x with aborted := satInc x.aborted } else x
    | none => x

/-- Another controller's transaction holds the bus: a transfer that has not begun on it waits (R443). -/
def holdTransfer (p : TwPort) (s : State) : State :=
  updTw s p fun x => { x with transfer := x.transfer.map fun y => { y with started := false } }

/-- TW_START: a START or repeated START with an address byte. -/
def execTwStart (t : Instant) (p : TwPort) (address : Byte) (edge : BusEdge) (s : State) : Result :=
  let s := setNow t s
  if pinsChained s || !twPasses s p edge.lasts then .next s
  else
    let s := holdTransfer p (cutByte p edge.midByte s)
    let hit : Bool := twAnswers s p && fld address 1 7 == twAddr s p
    .next (if hit then addressed p (bitAt address 0) s
      else updTw s p fun x => { x with bus := some ⟨false, bitAt address 0, true⟩ })

/-- TW_STOP. -/
def execTwStop (t : Instant) (p : TwPort) (edge : BusEdge) (s : State) : Result :=
  let s := setNow t s
  if pinsChained s || !twPasses s p edge.lasts then .next s
  else
    let s := cutByte p edge.midByte s
    .next (updTw s p (busIdle (twSeen s p)))

/-- TW_SCL_TIMEOUT: SCL has stayed low for 25 ms within a transaction with this port, which leaves the transaction; the bus is not
idle while another device holds SCL. -/
def execTwSclTimeout (t : Instant) (p : TwPort) (s : State) : Result :=
  let s := setNow t s
  .next (if pinsChained s then s else updTw s p fun x => match x.bus with
    | some b => if b.addressed then { x with bus := some ⟨false, false, false⟩, aborted := satInc x.aborted } else x
    | none => x)

/-- An addressed transaction of a direction is open; without one, the row is a whole transaction of its own (log entry 92). -/
def inTransaction (x : TwPortState) (read : Bool) : Bool :=
  match x.bus with
  | some b => b.addressed && b.read == read
  | none => false

/-- The state with a transaction open, and whether the row began it. -/
def openBus (p : TwPort) (read : Bool) (s : State) : State := if inTransaction (getTw s p) read then s else addressed p read s

/-- TW_WINDOW_WRITE: the first byte of a transaction sets the pointer. -/
def execTwWindowWrite (t : Instant) (p : TwPort) (bytes : List Byte) (s : State) : Result :=
  let s := setNow t s
  if !twAnswers s p then .next s
  else
    let whole := !inTransaction (getTw s p) false
    let s := openBus p false s
    let first := match (getTw s p).bus with
      | some b => b.first
      | none => true
    let s := match bytes with
      | [] => s
      | b :: rest =>
        let s := updTw s p fun x => { x with bus := some ⟨true, false, false⟩ }
        if first then rest.foldl (fun s b => writeByte p b s) (updTw s p fun x => { x with pointer := b })
        else bytes.foldl (fun s b => writeByte p b s) s
    .next (if whole then updTw s p (busIdle (twSeen s p)) else s)

/-- TW_WINDOW_READ: bytes from the pointer. -/
def execTwWindowRead (t : Instant) (p : TwPort) (count : Nat) (s : State) : Result :=
  let s := setNow t s
  if !twAnswers s p then .next s
  else
    let whole := !inTransaction (getTw s p) true
    let s := openBus p true s
    let (bs, s) := readWindow p count s
    let s := { s with out := { s.out with twReads := s.out.twReads ++ [(p, bs)] } }
    .next (if whole then updTw s p (busIdle (twSeen s p)) else s)

/-- RT_MIRROR_UPDATE: both mirrors take the ring-time count. -/
def execRtMirrorUpdate (t : Instant) (s : State) : Result :=
  let s := setNow t s
  .next (if s.rst.asserted.contains .bureau || s.power.phase == .stow then s
    else { s with twa := { s.twa with rtMirror := ringStamp s }, twb := { s.twb with rtMirror := ringStamp s } })

/-! ### In-band requests (R437, R438) -/

/-- SCL and SDA have both been high for 50 µs. -/
def busQuiet (s : State) (x : TwPortState) : Bool := x.bus.isNone && decide (x.busIdleSince + 800000 ≤ s.now.real)

/-- The port may issue requests. -/
def ibrAllowed (x : TwPortState) : Bool := x.cfg.ibrEn && !x.cfg.role

/-- A cause has arisen since the last request. -/
def ibrOwed (s : State) (p : TwPort) : Bool :=
  let x := getTw s p
  (x.ibrPending && x.replyReady) || (bitAt s.events.rose (twNo p) && decide (0 < unackedCount s.events))

/-- The port's bit of the ports that owe a request for events is cleared. -/
def clearRose (p : TwPort) (s : State) : State :=
  { s with events := { s.events with rose := s.events.rose &&& (if p == .a then 2 else 1) } }

/-- A request has been issued and completed. -/
def ibrSend (p : TwPort) (s : State) : State :=
  updTw (clearRose p s) p fun x => { x with
    ibrSent := satInc x.ibrSent, ibrLast := some s.now.real, ibrPending := false, busIdleSince := s.now.real }

/-- IBR_ISSUE. -/
def execIbrIssue (t : Instant) (p : TwPort) (s : State) : Result :=
  twEvent t (fun s =>
    let x := getTw s p
    if ibrAllowed x && ibrOwed s p && busQuiet s x then ibrSend p s else s) s

/-- IBR_REPEAT: the cause persists IBR_REPEAT ms after the last request. -/
def execIbrRepeat (t : Instant) (p : TwPort) (s : State) : Result :=
  twEvent t (fun s =>
    let x := getTw s p
    let cause := x.replyReady || decide (0 < unackedCount s.events)
    match x.ibrLast with
    | some a =>
      if ibrAllowed x && cause && !ibrOwed s p && busQuiet s x && decide (a + 16000000 * x.cfg.ibrRepeat.toNat ≤ s.now.real) then
        ibrSend p s
      else s
    | none => s) s

/-- The candidates that ask: their index, address and the byte read. -/
def asking (x : TwPortState) (answers : List (Option Byte)) : List (Nat × BitVec 7 × Byte) :=
  x.cfg.cands.zipIdx.filterMap fun c =>
    match answers.getD c.2 none with
    | some b => if c.1.valid && b &&& c.1.mask != 0 then some (c.2, c.1.addr, b) else none
    | none => none

/-- What a port puts on its bus is recorded. -/
def putBus (p : TwPort) (xs : List BusItem) (s : State) : State := { s with out := { s.out with twBus := s.out.twBus ++ [(p, xs)] } }

/-- What the poll of one candidate puts on the bus: REG is written to ADDR, and one byte read back; an address that is not
acknowledged ends it. -/
def pollItems (c : TwCandidate) (answers : Bool) : List BusItem :=
  if answers then [.start, .addr c.addr false, .write c.reg, .start, .addr c.addr true, .read 1, .stop]
  else [.start, .addr c.addr false, .stop]

/-- The poll of the valid candidates in index order; `answers` gives the byte each returns, none where it does not acknowledge. -/
def runPoll (p : TwPort) (answers : List (Option Byte)) (s : State) : State :=
  let x := getTw s p
  let s := (x.cfg.cands.zipIdx.filter fun c => c.1.valid).foldl
    (fun s c => putBus p (pollItems c.1 (answers.getD c.2 none).isSome) s) s
  let hits := asking x answers
  if hits.isEmpty then updTw s p fun x => { x with ibrUnclaimed := satInc x.ibrUnclaimed }
  else hits.foldl (fun s h => raise 0x0702 (twNo p) (h.1 + 2 ^ 8 * h.2.1.toNat + 2 ^ 16 * h.2.2.toNat) 0 s) s

/-- The port's transfer is in progress on the bus. -/
def transferring (x : TwPortState) : Bool := x.transfer.any fun y => y.started && !y.waits

/-- IBR_RECOGNISED: the candidates are polled, after a transfer in progress. -/
def execIbrRecognised (t : Instant) (p : TwPort) (answers : List (Option Byte)) (s : State) : Result :=
  twEvent t (fun s =>
    let x := getTw s p
    if !x.cfg.role || x.bus.isSome then s
    else if transferring x then updTw s p fun x => { x with poll := some answers }
    else runPoll p answers s) s

/-- The poll that waited for the end of a transfer. -/
def latePoll (p : TwPort) (s : State) : State :=
  match (getTw s p).poll with
  | some a => runPoll p a (updTw s p fun x => { x with poll := none })
  | none => s

/-! ### TW_CONFIG (R441) -/

/-- A candidate's word. -/
def candWord (c : TwCandidate) : Word :=
  mkWord [(b2n c.valid, 31), (c.addr.toNat, 24), (c.reg.toNat, 16), (c.mask.toNat, 8)]

/-- The words of the settings in force. -/
def twWords (c : TwCfg) : List Word :=
  [mkWord [(c.taddr.toNat, 17), (c.level.toNat, 14), (c.filter.toNat, 8), (b2n c.ibrEn, 7), (c.mode.toNat, 4), (b2n c.role, 1)],
   mkWord [(c.ibrRepeat.toNat, 24), (c.sclTimeout.toNat, 16), (c.sclKhz.toNat, 0)]] ++ c.cands.map candWord

/-- A candidate from its word. -/
def candOf (w : Word) : TwCandidate := ⟨bitAt w 31, fld w 24 7, fld w 16 8, fld w 8 8⟩

/-- The settings that words ask for. -/
def twCfgOf (ws : List Word) : TwCfg :=
  let w := paramAt ws 0
  let v := paramAt ws 1
  { taddr := fld w 17 7, level := fld w 14 2, filter := fld w 8 6, ibrEn := bitAt w 7, mode := fld w 4 2, role := bitAt w 1
    ibrRepeat := fld v 24 8, sclTimeout := fld v 16 8, sclKhz := fld v 0 16
    cands := (List.range 8).map fun i => candOf (paramAt ws (2 + i)) }

/-- The highest SCL frequency of a mode in kHz. -/
def modeKhz (m : BitVec 2) : Nat := if m == 0 then 100 else if m == 1 then 400 else 1000

/-- The word with a value outside its range. -/
def twCfgBad (c : TwCfg) : Option Nat :=
  if c.mode == 3 || (c.taddr != 0 && reservedAddr c.taddr) || (40 < c.filter.toNat && c.mode == 2) then some 0
  else if c.ibrRepeat == 0 || c.sclTimeout == 0 || c.sclKhz.toNat < 10 || modeKhz c.mode < c.sclKhz.toNat then some 1
  else (c.cands.findIdx? fun x => x.valid && reservedAddr x.addr).map (2 + ·)

/-- A level is less restrictive than another: 2 and 3 both mean NONE. -/
def freerLevel (a b : BitVec 2) : Bool := min a.toNat 2 < min b.toNat 2

/-- TW_CONFIG. The command itself does not count as one that its own port holds (log entry 93). A request that is owed stays so while
the port goes on issuing requests (R437). -/
def twConfigBody (c : Cmd) (s : State) : CmdResult :=
  let p : TwPort := if bitAt (paramAt c.words 0) 0 then .b else .a
  let x := getTw s p
  let own : Bool := c.req == twReq p
  let new := twCfgOf (overlay c.words (twWords x.cfg))
  let fuse := if p == .a then s.rst.fuses.twaLevel else s.rst.fuses.twbLevel
  judged c.words ([0x00FEFFB3, 0xFFFFFFFF] ++ List.replicate 8 0xFFFFFF00) s <| match twCfgBad new with
    | some i => cmdBad s i
    | none =>
      if freerLevel new.level fuse || (own && (new.role != x.cfg.role || new.taddr != x.cfg.taddr || new.mode != x.cfg.mode)) then
        cmdRefuse s .notPermitted
      else if x.transfer.isSome || x.poll.isSome || x.inOpen || (twHolds x && !own) then cmdRefuse s .wrongState
      else
        let asks (c : TwCfg) : Bool := c.ibrEn && !c.role
        let keep := asks x.cfg && asks new
        cmdOk (updTw (if keep then s else clearRose p s) p fun x => { x with cfg := new, ibrPending := x.ibrPending && keep })

/-- TW_CONFIG. -/
def execTwConfig (t : Instant) (s : State) : Result := runCmd t 0x0701 twConfigBody s

/-! ### TW_TRANSFER (R426, R439, R442) -/

/-- TW_TRANSFER: its reply waits for the end of the transfer. -/
def twTransferBody (c : Cmd) (s : State) : CmdResult :=
  let w := paramAt c.words 0
  let v := paramAt c.words 1
  let p : TwPort := if bitAt w 24 then .b else .a
  let rd := fldN v 16 9
  let wr := fldN v 0 9
  let data := c.words.drop 2
  judged c.words [0x037F0000, 0x01FF01FF] s <|
    if fld w 16 7 == twAddr s p then cmdBad s 0
    else if 256 < rd || 256 < wr then cmdBad s 1
    else if data.length ≠ (wr + 3) / 4 then cmdBad s 2
    else if !(getTw s p).cfg.role then cmdRefuse s .wrongState
    else cmdHeld (updTw s p fun x => { x with transfer := some {
      addr := fld w 16 7, split := bitAt w 25, write := (wordsBytes data).take wr, readLen := rd, started := x.bus.isNone } })

/-- TW_TRANSFER. -/
def execTwTransfer (t : Instant) (s : State) : Result := runCmd t 0x0702 twTransferBody s

/-- What a transfer puts on the bus (R442). -/
def transferItems (x : TwTransfer) : List BusItem :=
  let wr := if x.write.isEmpty && x.readLen ≠ 0 then [] else [.start, .addr x.addr false] ++ x.write.map .write
  let rd := if x.readLen = 0 then [] else
    (if x.split && !wr.isEmpty then [.stop] else []) ++ [.start, .addr x.addr true, .read x.readLen]
  wr ++ rd ++ [.stop]

/-- What a transfer with a result has put on the bus: all of it, or up to the byte that was not acknowledged, `n` bytes having been
acknowledged before it. What went before a lost arbitration or a stuck bus is not recorded (log entry 215). -/
def drivenItems (x : TwTransfer) (r : TwResult) (n : Nat) : List BusItem :=
  let all := transferItems x
  match r with
  | .done => all
  | .addressNack => (if n = 0 then all.take 2 else all.takeWhile fun i => i != .read x.readLen) ++ [.stop]
  | .dataNack => all.take (3 + n) ++ [.stop]
  | _ => []

/-- RESULT of the reply. -/
def twResultCode : TwResult → Nat
  | .done => 0
  | .addressNack => 1
  | .dataNack => 2
  | .arbitrationLost => 3
  | .busStuck => 4
  | .sclTimeout => 5

/-- BUS_STUCK, once per stuck episode. -/
def raiseStuck (p : TwPort) (scl : Bool) (s : State) : State :=
  if (getTw s p).stuckRaised then s
  else raise 0x0701 (twNo p) (b2n scl) 0 (updTw s p fun x => { x with stuckRaised := true })

/-- The transfer has ended: the reply is generated. A Stow that waited for it is entered. -/
def endTransfer (p : TwPort) (r : TwResult) (data : List Byte) (s : State) : State :=
  let x := (getTw s p).transfer
  let s := updTw s p fun x => { x with transfer := none }
  let items := (x.map fun x => drivenItems x r data.length).getD []
  let s := if items.isEmpty then s else putBus p items s
  let n := (x.map (·.readLen)).getD 0
  let got := data.take n
  let count := match r with
    | .done => got.length
    | .dataNack => data.length % 512
    | _ => 0
  let body := if r == .done then bytesWords got else []
  settleStow (latePoll p (finishHeld 0x0702 (fun _ s => cmdOk s (mkWord [(twResultCode r, 16), (count, 0)] :: body)) s))

/-- Arbitration is lost: counted; the winner holds the bus up to its STOP. A transfer that has been tried again three times ends, any
other waits. -/
def loseArbitration (p : TwPort) (x : TwTransfer) (s : State) : State :=
  let s := updTw s p fun y => { y with arbLost := satInc y.arbLost, bus := some (y.bus.getD ⟨false, false, true⟩) }
  if 3 ≤ x.losses then endTransfer p .arbitrationLost [] s
  else updTw s p fun y => { y with transfer := some { x with losses := x.losses + 1, waits := true } }

/-- TW_TRANSFER_END. `data`: with DONE the bytes read, with a NACK the bytes that were acknowledged before it. While another
controller's transaction holds the bus, and for 50 µs after its STOP, the transfer has not started (R443). -/
def execTwTransferEnd (t : Instant) (p : TwPort) (result : TwResult) (data : List Byte) (s : State) : Result :=
  twEvent t (fun s =>
    match (getTw s p).transfer with
    | none => s
    | some x =>
      if x.waits then s
      else match result with
        | .arbitrationLost => loseArbitration p x s
        | .sclTimeout => endTransfer p result [] (raiseStuck p true s)
        | .busStuck => endTransfer p result [] (raiseStuck p false s)
        | _ =>
          let y := getTw s p
          if y.bus.isSome || !(x.started || busQuiet s y) then s else endTransfer p result data (updTw s p (busIdle (twSeen s p)))) s

/-- TW_TRANSFER_RETRY: after the next STOP and 50 µs of bus idle. -/
def execTwTransferRetry (t : Instant) (p : TwPort) (s : State) : Result :=
  twEvent t (fun s =>
    match (getTw s p).transfer with
    | some x =>
      if x.waits && busQuiet s (getTw s p) then updTw s p fun y => { y with transfer := some { x with waits := false, started := true } } else s
    | none => s) s

/-- BUS_RECOVERY: SCL has been clocked `pulses` times; SDA reads high again, or the bus is stuck and the transfer ends. With
no pulse sent and SDA still low, it is SCL that is stuck. -/
def execBusRecovery (t : Instant) (p : TwPort) (pulses : Nat) (freed : Bool) (s : State) : Result :=
  twEvent t (fun s =>
    if !(getTw s p).cfg.role then s
    else
      let scl := pulses = 0 && !freed
      let s := if scl then s else updTw s p fun x => { x with busRecoveries := satInc x.busRecoveries }
      if freed then updTw s p (busIdle (twSeen s p))
      else
        let s := raiseStuck p scl s
        if (getTw s p).transfer.isSome then endTransfer p .busStuck [] s else s) s

end Sys2Proof.Machine
end

