-- ==== Sys2Proof/Machine/Commands.lean ====
section
/-! DEFINITION. The command rows of the chapters before the Bureau's, and PROFILE_EXECUTE (R399, R414). -/
namespace Sys2Proof.Machine

/-- STATS_READ with the limit of the path. -/
def statsReadCmd (c : Cmd) (s : State) : CmdResult := statsReadBody (pathWords c.via) c s

/-- CAPTURE_STOP. -/
def execCaptureStop (t : Instant) (s : State) : Result := runCmd t 0x0101 captureStopBody s
/-- CAPTURE_CONFIG. -/
def execCaptureConfig (t : Instant) (s : State) : Result := runCmd t 0x0102 captureConfigBody s
/-- CAPTURE_START. -/
def execCaptureStart (t : Instant) (s : State) : Result := runCmd t 0x0103 captureStartBody s
/-- SET_FRAME_PARAMS. -/
def execSetFrameParams (t : Instant) (s : State) : Result := runCmd t 0x0104 setFrameParamsBody s
/-- LOAD_TILE_MAP. -/
def execLoadTileMap (t : Instant) (s : State) : Result := runCmd t 0x0105 loadTileMapBody s
/-- SET_TRIGGER. -/
def execSetTrigger (t : Instant) (s : State) : Result := runCmd t 0x0106 setTriggerBody s
/-- HISTORY_FREEZE. -/
def execHistoryFreeze (t : Instant) (s : State) : Result := runCmd t 0x0107 historyFreezeBody s
/-- HISTORY_READ. -/
def execHistoryRead (t : Instant) (s : State) : Result := runCmd t 0x0108 historyReadBody s
/-- PIPE_CONFIG. -/
def execPipeConfig (t : Instant) (s : State) : Result := runCmd t 0x0201 pipeConfigBody s
/-- SET_PIPE_PARAMS. -/
def execSetPipeParams (t : Instant) (s : State) : Result := runCmd t 0x0202 setPipeParamsBody s
/-- SET_INPUTS. -/
def execSetInputs (t : Instant) (s : State) : Result := runCmd t 0x0204 setInputsBody s
/-- STATS_CONFIG. -/
def execStatsConfig (t : Instant) (s : State) : Result := runCmd t 0x0205 statsConfigBody s
/-- STATS_READ. -/
def execStatsRead (t : Instant) (s : State) : Result := runCmd t 0x0206 statsReadCmd s
/-- STREAM_CONFIG. -/
def execStreamConfig (t : Instant) (s : State) : Result := runCmd t 0x0301 streamConfigBody s
/-- STREAM_ENABLE. -/
def execStreamEnable (t : Instant) (s : State) : Result := runCmd t 0x0302 streamEnableBody s
/-- SET_STREAM_PARAMS. -/
def execSetStreamParams (t : Instant) (s : State) : Result := runCmd t 0x0304 setStreamParamsBody s
/-- KERNEL_LOAD. -/
def execKernelLoad (t : Instant) (s : State) : Result := runCmd t 0x0401 kernelLoadBody s
/-- BOBBIN_ALLOC. -/
def execBobbinAlloc (t : Instant) (s : State) : Result := runCmd t 0x0405 bobbinAllocBody s
/-- KERNEL_START. -/
def execKernelStart (t : Instant) (s : State) : Result := runCmd t 0x0402 kernelStartBody s
/-- KERNEL_STOP. -/
def execKernelStop (t : Instant) (s : State) : Result := runCmd t 0x0403 kernelStopBody s
/-- KERNEL_STATUS. -/
def execKernelStatus (t : Instant) (s : State) : Result := runCmd t 0x0404 kernelStatusBody s
/-- TRUNK_CONFIG. -/
def execTrunkConfig (t : Instant) (s : State) : Result := runCmd t 0x0502 trunkConfigBody s
/-- TRUNK_STATUS. -/
def execTrunkStatus (t : Instant) (s : State) : Result := runCmd t 0x0501 trunkStatusBody s
/-- LANE_DIAG. -/
def execLaneDiag (t : Instant) (s : State) : Result := runCmd t 0x0506 laneDiagBody s

/-! ### PROFILE_EXECUTE -/

/-- Commands that a profile may not hold: RESET, NVM_WRITE, FW_UPDATE_BEGIN, FW_UPDATE_DATA, FW_UPDATE_COMMIT, DUMP_CLEAR,
SET_POWER_STATE (R414). -/
def profileForbids (op : Nat) : Bool := [0x0005, 0x0602, 0x0603, 0x0604, 0x0605, 0x0607, 0x0804].contains op

/-- The meaning of a command of a profile by its code. -/
def bodyOf (op : Nat) : Option (Cmd → State → CmdResult) :=
  match op with
  | 0x0001 => some identifyBody
  | 0x0002 => some negotiateBody
  | 0x0003 => some getStatusBody
  | 0x0004 => some getEventsBody
  | 0x0101 => some captureStopBody
  | 0x0102 => some captureConfigBody
  | 0x0103 => some captureStartBody
  | 0x0104 => some setFrameParamsBody
  | 0x0105 => some loadTileMapBody
  | 0x0106 => some setTriggerBody
  | 0x0107 => some historyFreezeBody
  | 0x0108 => some historyReadBody
  | 0x0201 => some pipeConfigBody
  | 0x0202 => some setPipeParamsBody
  | 0x0203 => some loadCalBody
  | 0x0204 => some setInputsBody
  | 0x0205 => some statsConfigBody
  | 0x0206 => some statsReadCmd
  | 0x0301 => some streamConfigBody
  | 0x0302 => some streamEnableBody
  | 0x0303 => some streamDisableBody
  | 0x0304 => some setStreamParamsBody
  | 0x0401 => some kernelLoadBody
  | 0x0402 => some kernelStartBody
  | 0x0403 => some kernelStopBody
  | 0x0404 => some kernelStatusBody
  | 0x0405 => some bobbinAllocBody
  | 0x0501 => some trunkStatusBody
  | 0x0502 => some trunkConfigBody
  | 0x0503 => some ringMapBody
  | 0x0504 => some portAssignBody
  | 0x0505 => some timeSyncBody
  | 0x0506 => some laneDiagBody
  | 0x0601 => some nvmReadBody
  | 0x0606 => some dumpReadBody
  | 0x0701 => some twConfigBody
  | 0x0702 => some twTransferBody
  | 0x0703 => some timerConfigBody
  | 0x0704 => some timerGoBody
  | 0x0705 => some timerReadBody
  | 0x0706 => some mcvConfigBody
  | 0x0707 => some mcvReadBody
  | 0x0708 => some mcvCalibrateBody
  | 0x0801 => some setClocksBody
  | 0x0802 => some trimRootBody
  | 0x0803 => some clockStatusBody
  | 0x0805 => some setPowerBudgetBody
  | 0x0806 => some thermalConfigBody
  | 0x0807 => some getTemperaturesBody
  | 0x0808 => some watchdogConfigBody
  | 0x0F01 => some (peekBody [])
  | 0x0F02 => some pokeBody
  | 0x0F03 => some selftestBody
  | 0x0F04 => some injectPatternBody
  | _ => none

/-- A command packet of a profile as node 0 would have sent it. -/
def profilePacket (bs : List Byte) (s : State) : Packet :=
  { req := .owner, via := some .east, dest := 127, bytes := bs, arrived := s.now }

/-- A command of a profile passes the checks of its packet at CMDVER 2. -/
def profileOk (p : Packet) : Bool :=
  crcOk p && pktVer p == 2 && fldN (pktWord p 2) 0 7 == 127 && !profileForbids (pktOp p) && fldN (pktWord p 0) 19 5 == 0 && fldN (pktWord p 2) 12 20 == 0 && !bitAt (pktWord p 2) 7 &&
  decide (fldN (pktWord p 2) 8 4 ≤ (if pktOp p = 0x0301 then 7 else 0)) &&
  match opRow (pktOp p) with
  | some r => lengthOk 2 r (pktLen p)
  | none => false

/-- One command of a profile: a refused one changes nothing and the next follows; one whose reply would wait goes on by
itself (log entry 100). -/
def profileCommand (s : State) (bs : List Byte) : State :=
  let p := profilePacket bs s
  let bad (s : State) : State := { s with rst := { s.rst with refusedCmds := satInc s.rst.refusedCmds } }
  let good (s : State) : State := { s with rst := { s.rst with executed := satInc s.rst.executed } }
  match bodyOf (pktOp p) with
  | none => bad s
  | some f =>
    if !profileOk p then bad s
    else
      let r := f { cmdOf p with ver := 2 } s
      if r.held || statusDone r.status then good r.state else bad (if r.keeps then r.state else s)

/-- PROFILE_EXECUTE: the planned profile runs, and the Bureau takes commands. -/
def execProfileExecute (t : Instant) (s : State) : Result :=
  let s := setNow t s
  if !s.rst.profileDue || s.rst.asserted.contains .bureau || s.rst.waiting.isSome || s.nvm.dumping.isSome then .next s
  else
    let s := ((profilePackets s s.rst.fuses.autoload.toNat).getD []).foldl profileCommand s
    .next (firmwareReady s)

end Sys2Proof.Machine
end

