-- ==== Sys2Proof/Machine/Readout.lean ====
section
/-! DEFINITION. Readout: sub-frame boundaries, conversions, the bonds, sample arrival, binning, faults, the OB collector, the
end of readout (R25–R54), and scrubbing and self-refresh (R94–R97). -/
namespace Sys2Proof.Machine

/-! ### SB (R37, R50) -/

/-- A tile's number in TILE_DRIVER_FAULT. -/
def raiseDriver (n : Nat) (s : State) : State :=
  let s := { s with readout := { s.readout with tileDriverFaults := satInc s.readout.tileDriverFaults } }
  if s.readout.raisedTiles.contains n then s
  else raise 0x0104 0 n 0 { s with readout := { s.readout with raisedTiles := insNat s.readout.raisedTiles n } }

/-- A tile takes part in readout: an enabled active tile, or an OB tile while any active tile is enabled (R30, R42). -/
def readsTile (f : FrameRec) : ConvTile → Bool
  | .active t => frameTile f t.val
  | .ob _ => true

/-- SB(n, j): the global transfer, and readout of sub-frame j begins. -/
def beginSubFrame (f : FrameRec) (driver : List Nat) (s : State) : State :=
  let j := s.exposure.nextJ
  let g := s.exposure.g
  let sb := sbAt f j
  let s := { s with
    exposure := { s.exposure with nextJ := j + 1, g := g + 1, lastSb := some sb, openRungs := 0, earlyHeld := [] }
    readout := { s.readout with
      run := some ⟨f, j, g, sb⟩, nextSlot := [], bonds := [], bondErrs := [], rampFaults := []
      driverFaults := driver, faultyBlocks := if j = 0 then [] else s.readout.faultyBlocks }
    accum := { s.accum with
      bins := [], muSum := 0, muCount := 0
      excluded := s.accum.excluded.filter fun k => k / (4096 * 12288) != g % 2
      jobs := (s.accum.jobs.map fun x => { x with haloDown := [] }) ++
        (if usesRawSlots f.cfg then [{ g := g, frame := f.id, j := j, sb := sb }] else [])
      frames := if j = 0 then s.accum.frames ++ [{ frame := f }] else s.accum.frames } }
  let s := if j + 1 = subFrames f.cfg then updAccFrame f.id (fun a => { a with temps := tempSource s }) s else s
  let s := if j + 1 = f.cfg.accum.basteK.toNat then updAccFrame f.id (fun a => { a with bTemps := tempSource s }) s else s
  let s := if j + 1 = subFrames f.cfg && !usesRawSlots f.cfg then reserveSlot f s else s
  driver.foldl (fun s n => raiseDriver n s) s

/-- SB(n, j) occurs; `driverFaults`: tiles whose transfer or reset driver current is missing or out of limit. -/
def execSubFrameBoundary (t : Instant) (driverFaults : List ConvTile) (s : State) : Result :=
  let s := setNow t s
  match s.exposure.cur with
  | some f =>
    if s.exposure.phase != .stopped && !s.exposure.immediate && s.exposure.nextJ < subFrames f.cfg &&
        s.readout.run.isNone && sbAt f s.exposure.nextJ ≤ t.tclk then
      .next (beginSubFrame f ((driverFaults.filter (readsTile f)).map convTileNo) s)
    else .next s
  | none => .next s

/-! ### Conversion (R31–R34, R36, R46, R50) -/

/-- The parity bit that makes bits [17:0] hold an even number of ones (R34). -/
def parityOf (w : Nat) : Bool := (List.range 17).foldl (fun p i => xor p (w.testBit i)) false

/-- A word the chest accepts: even parity and bits [19:18] zero (R35). -/
def wordOk (w : BitVec 20) : Bool :=
  !((List.range 18).foldl (fun p i => xor p (bitAt w i)) false) && fldN w 18 2 = 0

/-- The ratio trim in force for a converter (R46). -/
def trimOf (s : State) (f : FrameRec) (conv : Nat) : Int :=
  if f.cfg.readout.ratioTrimEn then (smGet 0 s.readout.trims conv).toInt else 0

/-- The LCG code: 16 codes of pedestal plus the charge's codes scaled by the trim; `lcg` in thousandths of a code. -/
def lcgCode (lcg trim : Int) : Nat := (clampI 0 4095 (16 + (lcg * (1000 + trim) + 500000) / 1000000)).toNat

/-- What a conversion gives: VALUE, GSEL, SATF, and whether it was a gain misselect (R31–R33). -/
structure Converted where
  value : Nat
  gsel : Bool
  satf : Bool
  misselect : Bool
deriving DecidableEq, Repr

/-- One conversion. `charge` in thousandths of an electron against the gain threshold, `hcg` the HCG code before its limits. -/
def convert (s : State) (f : FrameRec) (conv charge : Nat) (hcg lcg : Int) : Converted :=
  let mode := f.cfg.readout.gainMode
  let low := mode == 2 || (mode == 0 && decide (s.readout.gainThreshold < charge))
  if low then
    let c := lcgCode lcg (trimOf s f conv)
    ⟨8 * c, true, c == 4095, false⟩
  else
    let c := (clampI 0 4095 hcg).toNat
    ⟨c, false, c == 4095, mode == 0 && c == 4095⟩

/-- The sample word of R34; `bad` inverts its parity (R50). -/
def sampleWord (c : Converted) (bad : Bool) : BitVec 20 :=
  let w := c.value + b2n c.gsel * 2 ^ 15 + b2n c.satf * 2 ^ 16
  BitVec.ofNat 20 (w + b2n (xor (parityOf w) bad) * 2 ^ 17)

/-- Slots a tile's converters run: OB tiles of the AKN5016-CL are always read in 64 (R30). -/
def slotsOf (ml : Bool) (f : FrameRec) : Nat := readSlots ml f.cfg

/-- A converter slot runs its phases and sends one word over the bond. -/
def execConversionSlot (t : Instant) (tile : ConvTile) (block slot : Fin 64) (charge : Nat) (hcg : Int) (lcg : Int)
    (rampFault : Bool) (s : State) : Result :=
  let s := setNow t s
  match s.readout.run with
  | some r =>
    let f := r.frame
    let conv := convIndex tile block.val
    let ml := s.rst.fuses.variantMl
    let starts := r.sb + slotStart f.cfg (tileGroup tile) slot.val
    if readsTile f tile && slot.val < slotsOf ml f && smGet 0 s.readout.nextSlot conv = slot.val && starts ≤ t.tclk then
      let gen := generatorOf tile
      let s := if rampFault && !s.readout.rampFaults.contains gen then
          let s := { s with readout := { s.readout with
            rampFaults := insNat s.readout.rampFaults gen, rampFaultSf := satInc s.readout.rampFaultSf } }
          if s.readout.raisedGens.contains gen then s
          else raise 0x0103 0 gen 0 { s with readout := { s.readout with raisedGens := insNat s.readout.raisedGens gen } }
        else s
      let bad := s.readout.rampFaults.contains gen || s.readout.driverFaults.contains (convTileNo tile)
      let c := convert s f conv charge hcg lcg
      .next { s with readout := { s.readout with
        nextSlot := smSet 0 s.readout.nextSlot conv (slot.val + 1)
        bonds := s.readout.bonds ++ [⟨conv, slot.val, sampleWord c bad⟩]
        gainMisselect := if c.misselect then satInc s.readout.gainMisselect else s.readout.gainMisselect } }
    else .next s
  | none => .next s

/-! ### Arrival (R35, R40, R50, R51) -/

/-- An OB sample is used by the collector (R30). -/
def obUsed (binned : Bool) (o px py : Nat) : Bool :=
  let lim := if binned then 24 else 48
  o == 0 || (if o ≤ 128 then decide (py < lim) else decide (px < lim))

/-- Add a sample to a sum. -/
def addSum (x : Int) (c : SumCount) : SumCount := ⟨c.sum + x, c.count + 1⟩

/-- The OB collector takes one used sample (R138). -/
def addOb (binned : Bool) (o px py : Nat) (x : Int) (b : ObSums) : ObSums :=
  let side := if binned then 32 else 64
  { cols := if 1 ≤ o && o ≤ 128 then smUpd {} b.cols (side * (o - 1) + px) (addSum x) else b.cols
    rows := if 129 ≤ o then smUpd {} b.rows (side * (o - 129) + py) (addSum x) else b.rows
    all := addSum x b.all }

/-- Colour binning at ingress (R40): the binned pixel a sample belongs to. -/
def binPixel (px py : Nat) : Nat := 64 * (2 * (py / 4) + py % 2) + 2 * (px / 4) + px % 2

/-- Add one of the four samples of a binned pixel. -/
def addBin (w : Nat) (ok : Bool) (b : BinAcc) : BinAcc where
  count := b.count + 1
  sum := b.sum + w % 32768
  satf := b.satf || sampleSat w
  gsel := b.gsel || w.testBit 15
  bad := b.bad || !ok

/-- The binned sample word, its parity bit cleared as the drawer keeps it. -/
def binWord (b : BinAcc) : Nat := (b.sum + 2) / 4 + b2n b.gsel * 2 ^ 15 + b2n b.satf * 2 ^ 16

/-- An active tile's sample word, accepted or rejected, goes on to its pixel. -/
def takeSample (f : FrameRec) (r : ReadoutRun) (t block slot w : Nat) (ok : Bool) (s : State) : State :=
  let ml := s.rst.fuses.variantMl
  let (px, py) := slotPixel (chargeBin ml f.cfg) block slot
  if colourBin ml f.cfg then
    let k := 4096 * t + binPixel px py
    let b := addBin w ok (smGet {} s.accum.bins k)
    if b.count < 4 then { s with accum := { s.accum with bins := smSet {} s.accum.bins k b } }
    else
      useSample f r.g r.j t (binPixel px py) (binWord b) (!b.bad)
        { s with accum := { s.accum with bins := smSet {} s.accum.bins k {} } }
  else useSample f r.g r.j t (64 * py + px) w ok s

/-- A bond error of a converter: counted, and at BLOCK_FAULT_LIMIT the block is faulty for the rest of the frame (R50). -/
def bondError (f : FrameRec) (tileNo block conv : Nat) (s : State) : State :=
  let n := smGet 0 s.readout.bondErrs conv + 1
  let s := { s with readout := { s.readout with
    bondParityErr := satInc s.readout.bondParityErr, bondErrs := smSet 0 s.readout.bondErrs conv n } }
  if n < f.cfg.readout.blockFaultLimit.toNat || s.readout.faultyBlocks.contains conv then s
  else
    let s := { s with readout := { s.readout with
      faultyBlocks := insNat s.readout.faultyBlocks conv, blockFaults := satInc s.readout.blockFaults } }
    if s.readout.raisedBlocks.contains conv then s
    else raise 0x0102 block tileNo 0 { s with readout := { s.readout with raisedBlocks := insNat s.readout.raisedBlocks conv } }

/-- Take the oldest word of a converter off its bond. -/
def popBond (conv : Nat) : List BondWord → Option (BondWord × List BondWord)
  | [] => none
  | b :: bs => if b.conv = conv then some (b, bs) else (popBond conv bs).map fun r => (r.1, b :: r.2)

/-- A chest, or the OB collector, takes a sample word; `flip`: bits that the bond turned over. -/
def execSampleArrival (t : Instant) (tile : ConvTile) (block : Fin 64) (flip : BitVec 20) (s : State) : Result :=
  let s := setNow t s
  let conv := convIndex tile block.val
  match s.readout.run, popBond conv s.readout.bonds with
  | some r, some (b, rest) =>
    let f := r.frame
    let s := { s with readout := { s.readout with bonds := rest } }
    let w := b.word ^^^ flip
    let forced := !wordOk b.word
    let s := if wordOk w || forced then s else bondError f (convTileNo tile) block.val conv s
    let ok := wordOk w && !s.readout.faultyBlocks.contains conv
    if (accFrameOf s f.id).isNone then .next s
    else match tile with
      | .active tl => .next (takeSample f r tl.val block.val b.slot w.toNat ok s)
      | .ob o =>
        let binned := chargeBin s.rst.fuses.variantMl f.cfg
        let (bx, by_) := slotPixel binned block.val b.slot
        if ok && obUsed binned o.val bx by_ then
          .next (updAccFrame f.id (fun a => { a with ob := addOb binned o.val bx by_ (sampleX w.toNat) a.ob }) s)
        else .next s
  | _, _ => .next s

/-! ### The end of readout (R37, R75, R99, R107) -/

/-- Where a thumb sub-frame lies in the thumb buffer (log entry 34). -/
def thumbBase (g : Nat) : Nat := partBase .thumb + (g % 8) * 8 * mib

/-- Offset of the exponent table after a thumb sub-frame. -/
def thumbExps : Nat := 7864320

/-- Thumb sample (u, v) of a tile from its raw plane: excluded samples count as x = 0 (R107). -/
def thumbSample (binned : Bool) (x : Nat → Int) (u v : Nat) : Nat :=
  let st := if binned then 2 else 4
  let sum := (List.range st).foldl (fun a dy => (List.range st).foldl (fun a dx =>
    a + x (64 * (st * v + dy) + st * u + dx)) a) 0
  let half : Int := if binned then 2 else 8
  let den : Int := if binned then 4 else 16
  (max 0 ((sum + half) / den)).toNat

/-- The chests write the thumb sub-frame of g and its exponent table: an excluded sample counts as x = 0, one that touches an
uncorrectable word of the raw slot too (R97, R107). -/
def writeThumb (f : FrameRec) (g j : Nat) (s : State) : State :=
  let base := thumbBase g
  let binned := f.cfg.readout.bin
  let kept (w : Nat) : Bool := decide (8 * w < base) || decide (base + 8 * mib ≤ 8 * w)
  let s := { s with
    dram := smClear s.dram base (8 * mib), dramBad := s.dramBad.filter kept, dramSoft := s.dramSoft.filter kept }
  (enabledTiles f.cfg f.mask).foldl (fun s t =>
    let plane := plane20 s.dram (rawBase t (g % 2))
    let bad := s.dramBad
    let x (p : Nat) : Int :=
      if s.accum.excluded.contains (exclKey (g % 2) t p) || px20Bad bad (rawBase t (g % 2)) p then 0
      else sampleX (plane.getD p 0)
    let s := (List.range 16).foldl (fun s v =>
      dramWrite s (base + 40 * (128 * (16 * tileY t + v) + tileX t))
        (pack20 ((List.range 16).map fun u => thumbSample binned x u v))) s
    let a := base + thumbExps + t / 2
    let old := (memGet s.dram a).toNat
    let e := rungExp f.params (frameRung f t j)
    dramWrite s a [BitVec.ofNat 8 (if t % 2 = 0 then old / 16 * 16 + e else old % 16 + 16 * e)]) s

/-- The flicker entry of sub-frame g; with no sample the spec states no mean, and a free value stands for it (log entry
4). -/
def addFlicker (f : FrameRec) (g : Nat) (s : State) : State :=
  let (mu, s) : Int × State :=
    if s.accum.muCount = 0 then
      let r := takeFree s
      (r.1.toInt, r.2)
    else (s.accum.muSum / s.accum.muCount, s)
  let l := s.accum.flicker ++ [⟨g, mu, frameTSub f⟩]
  { s with accum := { s.accum with flicker := l.drop (l.length - 512) } }

/-- Samples used on arrival: every enabled tile has accumulated the sub-frame, and its descriptor follows; after the last
sub-frame it is the finished version's (R15, R99, R106). -/
def countArrived (f : FrameRec) (last : Bool) (s : State) : State :=
  let s := updAccFrame f.id (fun a => { a with
    tiles := (enabledTiles f.cfg f.mask).foldl (fun m t => smUpd {} m t fun x => { x with neff := x.neff + 1 }) a.tiles }) s
  match accFrameOf s f.id with
  | none => s
  | some a =>
    let desc (t : Nat) : Word :=
      let ta := smGet {} a.tiles t
      if isSingle f.cfg then singleDesc f t ta else tileDescriptor false ta 0 (tileRung f t) (tileExp f t)
    let ds := (enabledTiles f.cfg f.mask).map fun t => (t, desc t)
    let s := writeDescs 21 0 ds s
    if last then updAccFrame f.id (fun a => { a with finDesc := ds.filter fun d => d.2 ≠ 0 }) s else s

/-- The readout of sub-frame j ends. -/
def endReadout (r : ReadoutRun) (s : State) : State :=
  let f := r.frame
  let last := r.j + 1 = subFrames f.cfg
  let s := { s with readout := { s.readout with run := none, subframesRead := satInc s.readout.subframesRead } }
  let s := match accFrameOf s f.id with
    | none => s
    | some _ =>
      let s := updAccFrame f.id (fun a => { a with readCount := a.readCount + 1 }) (addFlicker f r.g s)
      if usesRawSlots f.cfg then
        updJob r.g (fun x => { x with readDone := true }) (if usesMotion f.cfg then writeThumb f r.g r.j s else s)
      else countArrived f last s
  let s := match accFrameOf s f.id with
    | some a => if last && !usesRawSlots f.cfg then releaseFinished a s else s
    | none => s
  settleStop s

/-- The last words of a sub-frame are received and checked. -/
def execReadoutEnd (t : Instant) (s : State) : Result :=
  let s := setNow t s
  match s.readout.run with
  | some r =>
    if r.sb + tRo s.rst.fuses.variantMl r.frame.cfg ≤ t.tclk then .next (endReadout r s) else .next s
  | none => .next s

/-! ### Self-refresh (R96) -/

/-- DRCLK has been gated for 1 µs (R96): the memory wafer enters self-refresh on its own, while the root is lost. -/
def execSelfRefreshEntry (t : Instant) (s : State) : Result :=
  let s := setNow t s
  if s.clock.limp && (s.clock.rootLostPending || s.clock.baseChange) then .next { s with accum := { s.accum with selfRefresh := true } }
  else .next s

end Sys2Proof.Machine
end

