-- ==== Sys2Proof/Machine/Motion.lean ====
section
/-! DEFINITION. The motion kernel: block matching over thumb sub-frames and the vector table (R107–R109, R246, R247). -/
namespace Sys2Proof.Machine

/-! ### Thumb windows -/

/-- A sum of absolute differences; none is the infinity of R246. -/
abbrev Sad := Option Nat

/-- The values 80 × 80 around a tile's 16 × 16 block: rows -32 to 47, each five tiles wide. A search reaches from -20 to 35. -/
def thumbWindow (m : Mem) (base tx ty : Nat) : Array Nat :=
  ((List.range 80).flatMap fun r =>
    (List.range 5).flatMap fun c =>
      if tx + c < 2 || 128 + 2 ≤ tx + c || 16 * ty + r < 32 || 1536 + 32 ≤ 16 * ty + r then List.replicate 16 0
      else unpackGroup 16 (memNat m (base + 40 * (128 * (16 * ty + r - 32) + (tx + c - 2))) 40)).toArray

/-- The value at (u, v) of a window, counted from the tile's block. -/
def winAt (w : Array Nat) (u v : Int) : Nat := w.getD ((v + 32).toNat * 80 + (u + 32).toNat) 0

/-- Exponent of a tile in the table of a thumb sub-frame. -/
def thumbExp (m : Mem) (base t : Nat) : Nat :=
  let b := (memGet m (base + thumbExps + t / 2)).toNat
  if t % 2 = 0 then b % 16 else b / 16

/-- Which of the 25 tiles around t take part for it: enabled, with its exponent. -/
def partTiles (f : FrameRec) (m : Mem) (base t : Nat) : List Bool :=
  let e := thumbExp m base t
  (List.range 25).map fun i =>
    let x : Int := (tileX t : Int) + (i % 5 : Nat) - 2
    let y : Int := (tileY t : Int) + (i / 5 : Nat) - 2
    if x < 0 || 128 ≤ x || y < 0 || 96 ≤ y then false
    else
      let u := 128 * y.toNat + x.toNat
      frameTile f u && thumbExp m base u == e

/-- Position (u, v) takes part. -/
def takesPart (ps : List Bool) (u v : Int) : Bool :=
  if u < -32 || 48 ≤ u || v < -32 || 48 ≤ v then false
  else ps.getD (5 * ((v + 32) / 16).toNat + ((u + 32) / 16).toNat) false

/-! ### Matching (R246) -/

/-- v / st rounded half away from zero. -/
def roundDiv (v : Int) (st : Nat) : Int :=
  if 0 ≤ v then (2 * v + st) / (2 * st) else -((-2 * v + st) / (2 * st))

/-- The sum of absolute differences at displacement (dx, dy). -/
def sadAt (ps : List Bool) (wj wb : Array Nat) (dx dy : Int) : Sad :=
  let pos := (List.range 256).filter fun i => takesPart ps ((i % 16 : Nat) + dx) ((i / 16 : Nat) + dy)
  if pos.length < 128 then none
  else
    let sum := pos.foldl (fun a i =>
      let u : Int := (i % 16 : Nat)
      let v : Int := (i / 16 : Nat)
      a + ((winAt wj (u + dx) (v + dy) : Int) - winAt wb u v).natAbs) 0
    some (256 * sum / pos.length)

/-- One searched displacement with its sum. -/
structure Match where
  dx : Int
  dy : Int
  sad : Sad
deriving DecidableEq, Repr

/-- `a` is a better match than `b` around centre (cx, cy): lower sum, then nearer, then least dy, then least dx. -/
def betterMatch (cx cy : Int) (a b : Match) : Bool :=
  let d (m : Match) : Nat := (m.dx - cx).natAbs + (m.dy - cy).natAbs
  let tie := decide (d a < d b) || (d a == d b && (decide (a.dy < b.dy) || (a.dy == b.dy && decide (a.dx < b.dx))))
  match a.sad, b.sad with
  | some x, some y => decide (x < y) || (x == y && tie)
  | some _, none => true
  | none, some _ => false
  | none, none => tie

/-- The sum at a displacement, infinite where it was not searched. -/
def sadIn (ms : List Match) (dx dy : Int) : Sad :=
  match ms.find? fun m => m.dx == dx && m.dy == dy with
  | some m => m.sad
  | none => none

/-- The refinement of one axis. -/
def fineStep (st : Nat) (l m r : Sad) : Int :=
  match l, m, r with
  | some l, some m, some r =>
    let den : Int := (l : Int) - 2 * m + r
    if den ≤ 0 then 0
    else
      let num : Int := ((st / 2 : Nat) : Int) * ((l : Int) - r)
      let q := if 0 ≤ num then (2 * num + den) / (2 * den) else -((-2 * num + den) / (2 * den))
      clampI (-((st / 2 : Nat) : Int)) ((st / 2 : Nat) : Int) q
  | _, _, _ => 0

/-- v - v % 2 with the remainder of division toward zero. -/
def toEven (v : Int) : Int := if 0 ≤ v then v - v % 2 else -((-v) - (-v) % 2)

/-- The vector of a tile against its basis, from the search centre `prev`. -/
def matchTile (ml : Bool) (st : Nat) (ps : List Bool) (wj wb : Array Nat) (prev : MotionVec) : MotionVec :=
  let cx := roundDiv prev.vx st
  let cy := roundDiv prev.vy st
  let ms : List Match := (List.range 81).map fun i =>
    let dx := cx - 4 + ((i % 9 : Nat) : Int)
    let dy := cy - 4 + ((i / 9 : Nat) : Int)
    ⟨dx, dy, sadAt ps wj wb dx dy⟩
  let best := ms.foldl (fun b m => if betterMatch cx cy m b then m else b) (ms.headD ⟨cx, cy, none⟩)
  let fx := fineStep st (sadIn ms (best.dx - 1) best.dy) best.sad (sadIn ms (best.dx + 1) best.dy)
  let fy := fineStep st (sadIn ms best.dx (best.dy - 1)) best.sad (sadIn ms best.dx (best.dy + 1))
  let vx := clampI (-31) 31 (st * best.dx + fx)
  let vy := clampI (-31) 31 (st * best.dy + fy)
  let far := (ms.filter fun m => 2 ≤ max (m.dx - best.dx).natAbs (m.dy - best.dy).natAbs).filterMap (·.sad)
  let conf : Nat := match best.sad, far with
    | some s1, x :: xs =>
      let s2 := xs.foldl min x
      min 7 (8 * (s2 - s1) / (s2 + 1))
    | _, _ => 0
  if ml then ⟨vx, vy, conf⟩ else ⟨toEven vx, toEven vy, conf⟩

/-- The record of a vector (R109). -/
def vecRecord (v : MotionVec) : BitVec 16 :=
  BitVec.ofNat 16 (2 ^ 15 + v.conf * 2 ^ 12 + (BitVec.ofInt 6 v.vy).toNat * 2 ^ 6 + (BitVec.ofInt 6 v.vx).toNat)

/-- Insert into a list in rising order. -/
def insertInt (x : Int) : List Int → List Int
  | [] => [x]
  | y :: ys => if x ≤ y then x :: y :: ys else y :: insertInt x ys

/-- The lower median of a list. -/
def lowerMedian (l : List Int) : Int := (l.foldl (fun a x => insertInt x a) []).getD ((l.length - 1) / 2) 0

/-- The record of tile 0 in GLOBAL mode; none where fewer than 8 tiles qualify. -/
def globalRecord (vs : List MotionVec) : Option (BitVec 16) :=
  let good := vs.filter fun v => 3 ≤ v.conf
  if good.length < 8 then none
  else some (vecRecord ⟨lowerMedian (good.map (·.vx)), lowerMedian (good.map (·.vy)),
    (lowerMedian (good.map fun v => (v.conf : Int))).toNat⟩)

/-! ### The motion kernel (R246, R247) -/

/-- Where copy `place` of a basis lies: the motion kernel's 24 MiB are the top of the spill space (R246; log entry 64). -/
def basisBase (place : Nat) : Nat := partBase .spill + (232 + 8 * place) * mib

/-- Common memory with the 8 MiB at `src` copied to `dst`. -/
def basisCells (m : Mem) (src dst : Nat) : Mem :=
  let n := 8 * mib
  (m.filter fun e => decide (e.1 < dst)) ++
  ((m.filter fun e => decide (src ≤ e.1) && decide (e.1 < src + n)).map fun e => (e.1 - src + dst, e.2)) ++
  (m.filter fun e => decide (dst + n ≤ e.1))

/-- The kernel copies the thumb sub-frame of g, with its exponent table, into a place that holds no basis in use. -/
def copyThumb (g : Nat) (s : State) : ThumbCopy × State :=
  let used := (s.accum.basisZero.toList ++ s.accum.basisRef.toList).map (·.place)
  let k := ([0, 1, 2].find? fun k => !used.contains k).getD 0
  let dst := basisBase k
  let keep (w : Nat) : Bool := decide (8 * w < dst) || decide (dst + 8 * mib ≤ 8 * w)
  (⟨g, k⟩, { s with
    dram := basisCells s.dram (thumbBase g) dst
    dramBad := s.dramBad.filter keep
    dramSoft := s.dramSoft.filter keep })

/-- A tile's thumb block, or its exponent, touches an uncorrectable word of the thumb buffer: the tile is affected (R97). -/
def thumbBad (s : State) (g t : Nat) : Bool :=
  dramHasBad s (thumbBase g + thumbExps + t / 2) 1 ||
  (List.range 16).any fun v => dramHasBad s (thumbBase g + 40 * (128 * (16 * tileY t + v) + tileX t)) 40

/-- The vectors of sub-frame x against its basis copy, by enabled tile. -/
def motionVectors (s : State) (f : FrameRec) (x : SubJob) (basis : ThumbCopy) : List (Nat × MotionVec) :=
  let st := if f.cfg.readout.bin then 2 else 4
  let base := thumbBase x.g
  let jr := refSub f.cfg
  (enabledTiles f.cfg f.mask).filterMap fun t =>
    if thumbBad s x.g t then none
    else
      let prev : MotionVec := if x.j = 1 || x.j = jr + 1 then {} else
        match s.accum.jobs.find? fun y => y.g + 1 == x.g with
        | some y => (usedVec s f t 64 y).vec
        | none => smGet {} (if x.j ≤ jr then s.accum.prevC else s.accum.prevD) (recordTile f t)
      let wj := thumbWindow s.dram base (tileX t) (tileY t)
      let wb := thumbWindow s.dram (basisBase basis.place) (tileX t) (tileY t)
      some (t, matchTile s.rst.fuses.variantMl st (partTiles f s.dram base t) wj wb prev)

/-- The records of a sub-frame as the kernel writes them. -/
def motionRecords (f : FrameRec) (vs : List (Nat × MotionVec)) : List (Nat × BitVec 16) :=
  if f.cfg.accum.maa == 1 then
    match globalRecord (vs.map (·.2)) with
    | some r => [(0, r)]
    | none => []
  else vs.map fun v => (v.1, vecRecord v.2)

/-- Write the vector table of sub-frame g into pillow 0 (R247). -/
def writeVectorTable (g : Nat) (rs : List (Nat × BitVec 16)) (s : State) : State :=
  let base := if g % 2 = 0 then 0 else 0x6000
  let put (m : Mem) : Mem := rs.foldl (fun m r => memSetNat m (base + 2 * r.1) 2 r.2.toNat) m
  { s with engines := { s.engines with pillows := s.engines.pillows.modify 0 put } }

/-- The motion kernel runs: it is not faulted, and its two pillows hold grants (R244, R256, R257). -/
def motionKernelUp (s : State) : Bool :=
  (s.engines.vendor.getD 0 {}).phase != .faulted && grantedAt s 0 && grantedAt s 1 && blockRuns .bobbin s

/-- The kernel works on sub-frame x: it copies a basis, or matches every tile and writes the records. -/
def motionSubframe (f : FrameRec) (x : SubJob) (s : State) : State :=
  let jr := refSub f.cfg
  let bad := s.dramBad.filter fun w => decide (thumbBase x.g ≤ 8 * w) && decide (8 * w < thumbBase x.g + 8 * mib)
  let s := correctRead (thumbBase x.g) (8 * mib) (bad.foldl (fun s w => countCommonUe 4 (holderOf (8 * w)) 1 s) s)
  let basis := if x.j ≤ jr then s.accum.basisZero else s.accum.basisRef
  let rs := match basis with
    | some b => if x.j = 0 then [] else motionRecords f (motionVectors s f x b)
    | none => []
  let s := if x.j = 0 || x.j = jr then
      let (c, s) := copyThumb x.g s
      { s with accum := { s.accum with
        basisZero := if x.j = 0 then some c else s.accum.basisZero
        basisRef := if x.j = jr then some c else s.accum.basisRef } }
    else s
  let s := if x.j + 1 = subFrames f.cfg then countVersion 0x80 s else s
  updJob x.g (fun y => { y with kernelBegun := true, records := rs.foldl (fun m r => smSet 0 m r.1 r.2) [] })
    (writeVectorTable x.g rs s)

/-- The motion kernel begins sub-frame g when its thumb sub-frame is complete; `ecc`: the errors that words of the thumb
buffer hold. -/
def execMotionSubframeStart (t : Instant) (ecc : List EccHit) (s : State) : Result :=
  let s := setNow t s
  match s.accum.jobs.find? fun x => x.readDone && !x.kernelBegun with
  | some x =>
    match accFrameOf s x.frame with
    | some a =>
      if usesMotion a.frame.cfg && motionKernelUp s then .next (motionSubframe a.frame x (markEcc ecc s)) else .next s
    | none => .next s
  | none => .next s

end Sys2Proof.Machine
end

