-- ==== Sys2Proof/Machine/RingHop.lean ====
section
/-! DEFINITION. HOP_SLOT_RECEIVE: a slot is checked, sequenced, then removed, processed or forwarded (R275–R277, R296, R297,
R310, R325). -/
namespace Sys2Proof.Machine

/-- The state a meaning answers. -/
def nextOf (r : Result) (s : State) : State :=
  match r with
  | .next s => s
  | _ => s

/-- A MGMT or TIME slot as its processing takes it. -/
def mgmtOf (x : RawSlot) : MgmtSlot where
  src := slotSrc x
  dest := slotDest x
  ringB := slotRingB x
  hops := fld x.hdr 52 8
  words := x.payload

/-- A MGMT slot is processed; a collision begins a random wait, which is free. -/
def takeMgmt (p : Port) (x : RawSlot) (s : State) : State :=
  let m := mgmtOf x
  let w := takeFree s
  let wait := w.1.toNat % 1024
  let op := slotOp x
  if op = 0x01 then nextOf (execDiscover s.now p m s) s
  else if op = 0x03 then nextOf (execProbe s.now p m wait w.2) s
  else if op = 0x04 then nextOf (execClaimed s.now p m wait w.2) s
  else if op = 0x06 then nextOf (execAssign s.now p m s) s
  else if op = 0x07 then nextOf (execTopology s.now p m s) s
  else if op = 0x08 then nextOf (execRotor s.now p m s) s
  else if op = 0x09 then nextOf (execWrap s.now p m s) s
  else if op = 0x0A then nextOf (execClaim s.now p m s) s
  else if op = 0x0B then nextOf (execPortHeld s.now p m s) s
  else if op = 0x0C then nextOf (execDelayReq s.now p m s) s
  else if op = 0x0D then nextOf (execDelayResp s.now p m s) s
  else s

/-! ### Packets out of slots (R201, R325) -/

/-- A command packet whose slots have come in: the trunk logic takes a TRUNK reset, the Bureau any other. -/
def packetIn (a : Assembling) (s : State) : State :=
  if trunkResetOk s a.src a.dest a.bytes then trunkReset a.bytes s
  else arrivePacket { req := if a.src == 0 then .owner else .node a.src, via := some a.port, dest := a.dest
                      bytes := a.bytes, arrived := s.now } s

/-- Bytes of a packet on the trunk: LENGTH + 4 words, at most 5,120 bytes. -/
def commandBytes (bs : List Byte) : Nat := min 5120 (4 * (fldN (bytesWord (bs.drop 4)) 16 16 + 4))

/-- A packet that is complete is passed on; any other waits for its next slot. -/
def assemble (a : Assembling) (s : State) : State :=
  let n := commandBytes a.bytes
  if n ≤ a.bytes.length then packetIn { a with bytes := a.bytes.take n } s
  else { s with bureau := { s.bureau with assembling := s.bureau.assembling ++ [a] } }

/-- A COMMAND slot for this node: SOP begins a packet and discards an unfinished one of the same SRC. -/
def takeCommand (p : Port) (x : RawSlot) (s : State) : State :=
  let mine (a : Assembling) : Bool := a.src == slotSrc x
  let old := s.bureau.assembling.find? mine
  let rest := s.bureau.assembling.filter fun a => !mine a
  let bs := wordsBytes (padPayload x.payload)
  if slotSop x then
    let n := b2n old.isSome
    let s := { s with bureau := { s.bureau with assembling := rest, cmdsDiscarded := satAdd s.bureau.cmdsDiscarded n } }
    assemble ⟨p, slotSrc x, slotDest x, bs, s.now⟩ s
  else match old with
    | some a => assemble { a with bytes := a.bytes ++ bs, last := s.now } { s with bureau := { s.bureau with assembling := rest } }
    | none => s

/-- A stream packet for the ingress contexts is complete: it is taken as its type says. -/
def takeStreamPacket (node : BitVec 7) (port : BitVec 9) (pkt : List Word) (s : State) : State :=
  let type := fldN (pkt.headD 0) 28 4
  if type = 1 then nextOf (execIngressHeader s.now node port pkt s) s
  else if type = 2 then nextOf (execIngressLine s.now node port pkt s) s
  else if type = 3 then nextOf (execIngressSidecar s.now node port pkt s) s
  else if type = 4 then nextOf (execIngressTrailer s.now node port pkt s) s
  else if type = 5 then nextOf (execIngressRetract s.now node port pkt s) s
  else s

/-- A STREAM slot of a source that an enabled context names is taken or copied (R296, R297). -/
def takeStream (x : RawSlot) (s : State) : State :=
  let node := slotSrc x
  let port : BitVec 9 := fld x.hdr 41 9
  let mine (a : StreamRx) : Bool := a.src == node && a.port == port
  let old := s.ring.rxRest.find? mine
  let rest := s.ring.rxRest.filter fun a => !mine a
  if (ctxsOf s node port).isEmpty then s
  else
    let ws := if slotSop x then some (padPayload x.payload) else old.map fun a => a.words ++ padPayload x.payload
    match ws with
    | none => s
    | some ws =>
      let n := fldN (ws.headD 0) 0 24
      let s := { s with ring := { s.ring with rxRest := rest } }
      if n ≤ ws.length then takeStreamPacket node port (ws.take n) s
      else { s with ring := { s.ring with rxRest := rest ++ [⟨node, port, ws⟩] } }

/-! ### Removal and forwarding (R296) -/

/-- A slot is removed as none of the node's own. -/
def orphan (s : State) : State := { s with ring := { s.ring with orphans := satInc s.ring.orphans } }

/-- A slot addressed to this node. -/
def takeOwn (p : Port) (x : RawSlot) (s : State) : State :=
  if slotType x = 1 then takeStream x s
  else if slotType x = 2 then takeCommand p x s
  else if slotType x = 6 && slotOp x == 0x0B then takeMgmt p x s
  else orphan s

/-- A broadcast that this node sent: by SRC, or by the identity in a PROBE sent before confirmation. -/
def ownBroadcast (s : State) (x : RawSlot) : Bool :=
  slotDest x == 127 &&
  ((s.ring.addrPhase == .confirmed && slotSrc x == s.ring.addr) ||
   (slotSrc x == 0x7F && slotType x == 6 && slotOp x == 0x03 && mgmtId (mgmtOf x) == s.rst.fuses.deviceId))

/-- The way of R296 that applies to a slot. -/
inductive SlotWay where
  | hopLocal
  | own
  | returned
  | orphaned
  | forward
deriving DecidableEq, Repr

/-- The port a forwarded slot leaves by, before any turn. -/
def ringOut (x : RawSlot) : Port := if slotRingB x then .west else .east

/-- The first applicable way. A node that has applied a TOPOLOGY that unwraps the ring removes turned slots (R310). -/
def slotWay (s : State) (x : RawSlot) : SlotWay :=
  if hopLocal x then .hopLocal
  else if s.ring.addrPhase == .confirmed && slotDest x == s.ring.addr then .own
  else if ownBroadcast s x then .returned
  else if 144 ≤ slotHops x || (slotWrapped x && (turnsAt s (ringOut x) || s.ring.unwrapped)) then .orphaned
  else .forward

/-- The port a forwarded slot leaves by: the other one where it is turned. -/
def forwardPort (s : State) (x : RawSlot) : Port :=
  if turnsAt s (ringOut x) then otherPort (ringOut x) else ringOut x

/-- A direction is in its wake: what comes for it waits in the replay buffer (R282). -/
def waking (s : State) (y : TrunkPort) : Bool :=
  y.phase == .up && !y.txDoze && match y.txWakeAt with
    | some a => !passed s a 2000
    | none => false

/-- A slot joins the transit buffer of the port it leaves by, or its replay buffer in a wake. Where that port's hop is down and no wrap
turns it, the slot goes no further (R289). -/
def forwardSlot (p : Port) (stomp : Bool) (x : RawSlot) (s : State) : State :=
  let out := forwardPort s x
  let w : WaitSlot := { slot := if turnsAt s (ringOut x) then turned x else x, stomp := stomp, arrived := some s.now.real
                        delay := (portDelay s p).toNat }
  if (getPort s out).phase != .up then s
  else updPort s out fun y =>
    let y := { y with stomped := if stomp then satInc y.stomped else y.stomped }
    if waking s y then parkSlot w y else { y with transit := y.transit ++ [w] }

/-- The transit buffer of the direction a slot goes on by holds 8 slots: with no room, or with slots before it that still wait to be
turned, the slot is not accepted (R299; log entry 175). -/
def noRoom (s : State) (x : RawSlot) : Bool :=
  let y := getPort s (forwardPort s x)
  let behind := turnsAt s (ringOut x) && !(getPort s (ringOut x)).transit.isEmpty
  slotType x ≠ 0 && slotWay s x == .forward && y.phase == .up && !waking s y && (behind || decide (transitSize ≤ y.transit.length))

/-- The content of a slot that was accepted; without a confirmed address only broadcast MGMT and TIME slots are consumed (R290). -/
def takeContent (p : Port) (x : RawSlot) (s : State) : State :=
  if slotType x = 0 then s
  else match slotWay s x with
    | .hopLocal => takeMgmt p x s
    | .own => takeOwn p x s
    | .returned => if slotType x = 6 && (slotOp x == 0x03 || slotOp x == 0x0A) then takeMgmt p x s else s
    | .orphaned => orphan s
    | .forward =>
      let s := forwardSlot p false x s
      let confirmed := s.ring.addrPhase == .confirmed
      if slotType x = 1 then (if confirmed then takeStream x s else s)
      else if slotDest x != 127 then s
      else if slotType x = 2 then (if confirmed then takeCommand p x s else s)
      else if slotType x = 5 then nextOf (execTime s.now p (mgmtOf x) s) s
      else if slotType x = 6 then takeMgmt p x s
      else s

/-- A slot whose forwarding had begun when its trailer failed leaves in the stomp form (R277). -/
def stompForward (p : Port) (x : RawSlot) (s : State) : State :=
  if slotType x ≠ 0 && slotWay s x == .forward then forwardSlot p true x s else s

/-- Blocks with a bad sync header are counted, in all and by lane, with the instants of the last 16. -/
def countHeaders (p : Port) (bad : List Nat) (s : State) : State :=
  updPort s p fun x =>
    let x := { x with hdrErrs := satAdd x.hdrErrs bad.length }
    bad.foldl (fun x l => updLane l (fun y =>
      { y with hdrErr := satInc y.hdrErr, badAt := (s.now.real :: y.badAt).take 16 }) x) x

/-- A lane is lost with 16 invalid sync headers within 125 µs, which takes in 16 of any 64 consecutive ones (R279). -/
def headerLoss (s : State) (x : TrunkPort) (l : Nat) : Bool :=
  match (laneAt x l).badAt[15]? with
  | some a => decide (s.now.real ≤ a + 16 * 125000)
  | none => false

/-- Lanes whose sync headers have failed too often are lost. -/
def loseBadLanes (p : Port) (s : State) : State :=
  (List.range 4).foldl (fun s l => if headerLoss s (getPort s p) l then loseLane p l s else s) s

/-- A slot as the receiver has restored it is checked, sequenced and taken (R275–R277; log entry 175). -/
def takeRx (p : Port) (r : RxSlot) (s : State) : State :=
  let s := countHeaders p r.bad s
  let whole := r.whole && !(getPort s p).slipped
  let s := updPort s p fun x => { x with slipped := false }
  let full := noRoom s r.slot
  let c := if full then .bad else checkSlot r.slot r.trailer whole
  let begun := !full && r.headed && fldN r.slot.hdr 0 8 == 0xD2 && slotSeq r.slot == (getPort s p).rxSeq
  loseBadLanes p (match takeSlot p c (slotSeq r.slot) s with
    | (.content, s) => takeContent p r.slot s
    | (.stomped, s) => stompForward p r.slot s
    | (.discard, s) => if begun then stompForward p r.slot s else s)

/-- Blocks that came over the lanes of LOOP_FAR leave again on the transmit lanes of the same number (R286). -/
def echoBlocks (p : Port) (rx : List RxBlock) (s : State) : State :=
  let back := (rx.filter fun b => laneDrive s p b.lane.val == .looped).map fun b => ⟨p, b.lane.val, b.sync, b.bits⟩
  { s with out := { s.out with wire := s.out.wire ++ back } }

/-- HOP_SLOT_RECEIVE: 34 port blocks as they came over the lanes, each lane's in its order with the skew taken out; `before` holds the
58 bits before the first of each lane, `dealt` the position of the lane that carries the first block (R262). The content is
processed here; a command row for the content stands for a slot that comes without this one (log entry 91). -/
def execHopSlotReceive (t : Instant) (p : Port) (rx : List RxBlock) (before : List (BitVec 58)) (dealt : Fin 4) (s : State) :
    Result :=
  let s := setNow t s
  .next (if !trunkLive s then s
    else match (getPort s p).phase with
      | .up => takeRx p (rxSlot (getPort s p) rx before dealt.val) s
      | .diag => echoBlocks p rx s
      | _ => s)

end Sys2Proof.Machine
end

