-- ==== Sys2Proof/Machine/Tap.lean ====
section
/-! DEFINITION. The test access port (R495). -/
namespace Sys2Proof.Machine

/-- The controller's next state at a rising TCK edge (IEEE 1149.1). -/
def tapNext (p : TapPhase) (tms : Bool) : TapPhase :=
  match p with
  | .testLogicReset => if tms then .testLogicReset else .runTestIdle
  | .runTestIdle => if tms then .selectDr else .runTestIdle
  | .selectDr => if tms then .selectIr else .captureDr
  | .captureDr => if tms then .exit1Dr else .shiftDr
  | .shiftDr => if tms then .exit1Dr else .shiftDr
  | .exit1Dr => if tms then .updateDr else .pauseDr
  | .pauseDr => if tms then .exit2Dr else .pauseDr
  | .exit2Dr => if tms then .updateDr else .shiftDr
  | .updateDr => if tms then .selectDr else .runTestIdle
  | .selectIr => if tms then .testLogicReset else .captureIr
  | .captureIr => if tms then .exit1Ir else .shiftIr
  | .shiftIr => if tms then .exit1Ir else .shiftIr
  | .exit1Ir => if tms then .updateIr else .pauseIr
  | .pauseIr => if tms then .exit2Ir else .pauseIr
  | .exit2Ir => if tms then .updateIr else .shiftIr
  | .updateIr => if tms then .selectDr else .runTestIdle

/-- The instruction that a code selects: the code of ones is BYPASS, the others are the implementation's (log entry 99). -/
def tapDecode (code : BitVec 4) : TapInstr :=
  if code == 15 then .bypass
  else match (Config.tapInstr code).val with
    | 0 => .bypass
    | 1 => .idcode
    | 2 => .sample
    | 3 => .extest
    | 4 => .clamp
    | _ => .highz

/-- IDCODE. -/
def idcode (s : State) : Word :=
  mkWord [(fldN s.rst.fuses.stepping 0 4, 28), (0x5016, 12), (0x2A7, 1), (1, 0)]

/-- The bits of a word, lowest first. -/
def wordBits (n : Nat) (w : Word) : List Bool := (List.range n).map fun i => bitAt w i

/-- What the chain captures, from TDI: RESET_N, PGOOD, two cells each of FAULT_N and ALERT_N, BOOT0, BOOT1, TESTEN, and
the 38 cells of the two-wire, TRG and clock pins. What the cells of pins with more than one hold, and the levels of pins
that State does not know (the straps and TESTEN as they stand now among them), are free (log entry 99). -/
def chainBits (s : State) (w v : Word) : List Bool :=
  [!s.pins.resetNLow, s.pins.pgood] ++ wordBits 4 v ++ wordBits 3 (v >>> 10) ++ wordBits 32 w ++ wordBits 6 (v >>> 4)

/-- The boundary chain is selected. -/
def chainSelected (i : TapInstr) : Bool := i == .sample || i == .extest

/-- Capture-DR. -/
def captureDr (s : State) : State :=
  if chainSelected s.tap.ir then
    let w := takeFree s
    let v := takeFree w.2
    { v.2 with tap := { v.2.tap with dr := (chainBits s w.1 v.1).reverse } }
  else if s.tap.ir == .idcode then { s with tap := { s.tap with dr := wordBits 32 (idcode s) } }
  else { s with tap := { s.tap with dr := [false] } }

/-- Capture-IR: the two lowest bits are 01, the others free (IEEE 1149.1). -/
def captureIr (s : State) : State :=
  let w := takeFree s
  { w.2 with tap := { w.2.tap with irShift := fld w.1 0 2 ++ (1 : BitVec 2) } }

/-- The state with another active instruction; the chained pins return to their functions where it leaves the chain. -/
def setIr (i : TapInstr) (s : State) : State :=
  let s' := { s with tap := { s.tap with ir := i } }
  if pinsChained s && !pinsChained s' then pinsBack s' else s'

/-- The state with the controller in Test-Logic-Reset. -/
def tapReset (s : State) : State := setIr .idcode { s with tap := { s.tap with phase := .testLogicReset, tdo := none } }

/-- A rising TCK edge: what the state does, and the next state. -/
def tapRise (tms tdi : Bool) (s : State) : State :=
  let s := match s.tap.phase with
    | .captureDr => captureDr s
    | .captureIr => captureIr s
    | .shiftDr => { s with tap := { s.tap with dr := s.tap.dr.drop 1 ++ [tdi] } }
    | .shiftIr => { s with tap := { s.tap with irShift := (s.tap.irShift >>> 1) ||| (if tdi then 8 else 0) } }
    | _ => s
  let n := tapNext s.tap.phase tms
  if n == .testLogicReset then tapReset s else { s with tap := { s.tap with phase := n } }

/-- A falling TCK edge: TDO drives in the shift states only, and the update states take effect. -/
def tapFall (s : State) : State :=
  let x := s.tap
  match x.phase with
  | .shiftDr => { s with tap := { x with tdo := x.dr.head? } }
  | .shiftIr => { s with tap := { x with tdo := some (bitAt x.irShift 0) } }
  | .updateDr => { s with tap := { x with tdo := none, latches := if chainSelected x.ir then x.dr else x.latches } }
  | .updateIr => setIr (tapDecode x.irShift) { s with tap := { x with tdo := none } }
  | _ => { s with tap := { x with tdo := none } }

/-- The level of TRST_N as the TAP sees it: low holds the controller in Test-Logic-Reset. -/
def seeTrst (low : Bool) (s : State) : State :=
  let s := { s with tap := { s.tap with trstLow := low } }
  if low then tapReset s else s

/-- TCK_EDGE: without VDDAON everything stands, and TRST_N low holds the TAP (log entry 216). -/
def execTckEdge (t : Instant) (edge : TckEdge) (tms tdi : Bool) (s : State) : Result :=
  let s := setNow t s
  if s.rst.phase == .dead then .next s
  else
    let s := seeTrst (!edge.trstHigh) s
    .next (if s.tap.trstLow then s else if edge.rising then tapRise tms tdi s else tapFall s)

/-- TRST_N_LOW. -/
def execTrstNLow (t : Instant) (s : State) : Result := .next (seeTrst true (setNow t s))

/-- What drives TRG pin p: the channel that has it, else the exposure output while XO_EN has it there, else nothing (R446); the
boundary chain while it has the pins. -/
def trgPin (s : State) (p : Nat) : PinDrive :=
  let lvl (b : Bool) : PinDrive := if b then .high else .low
  let g := s.exposure.trig
  let function := match s.timers.chans.find? fun x => x.cfg.outEn && x.cfg.outPin.toNat == p with
    | some x => lvl x.out
    | none => if g.xoEn && g.xoPin.toNat == p then lvl (s.exposure.xoActive != g.xoPol) else .highZ
  (chainDrive s).getD function

end Sys2Proof.Machine
end

