-- ==== Sys2Proof/Machine/Dispatch.lean ====
section
/-! DEFINITION. One arm per command of the block: a direct call of its meaning. -/
namespace Sys2Proof.Machine

/-- The effect of a command on everything but the queue. -/
def exec (i : Instr) (s : State) : Host.Outcome State Fault Refusal :=
  match i with
  | .commandArrival t path bytes => Sys2Proof.Machine.execCommandArrival t path bytes s
  | .cmdPacketTimeout t src => Sys2Proof.Machine.execCmdPacketTimeout t src s
  | .profileExecute t => Sys2Proof.Machine.execProfileExecute t s
  | .identify t => Sys2Proof.Machine.execIdentify t s
  | .negotiate t => Sys2Proof.Machine.execNegotiate t s
  | .getStatus t => Sys2Proof.Machine.execGetStatus t s
  | .getEvents t => Sys2Proof.Machine.execGetEvents t s
  | .reset t => Sys2Proof.Machine.execReset t s
  | .trunkResetPacket t src dest bytes => Sys2Proof.Machine.execTrunkResetPacket t src dest bytes s
  | .softResetAssert t => Sys2Proof.Machine.execSoftResetAssert t s
  | .captureStop t => Sys2Proof.Machine.execCaptureStop t s
  | .captureConfig t => Sys2Proof.Machine.execCaptureConfig t s
  | .captureStart t => Sys2Proof.Machine.execCaptureStart t s
  | .setFrameParams t => Sys2Proof.Machine.execSetFrameParams t s
  | .loadTileMap t => Sys2Proof.Machine.execLoadTileMap t s
  | .setTrigger t => Sys2Proof.Machine.execSetTrigger t s
  | .historyFreeze t => Sys2Proof.Machine.execHistoryFreeze t s
  | .historyRead t => Sys2Proof.Machine.execHistoryRead t s
  | .pipeConfig t => Sys2Proof.Machine.execPipeConfig t s
  | .setPipeParams t => Sys2Proof.Machine.execSetPipeParams t s
  | .loadCalTable t => Sys2Proof.Machine.execLoadCalTable t s
  | .setInputs t => Sys2Proof.Machine.execSetInputs t s
  | .statsConfig t => Sys2Proof.Machine.execStatsConfig t s
  | .statsRead t => Sys2Proof.Machine.execStatsRead t s
  | .streamConfig t => Sys2Proof.Machine.execStreamConfig t s
  | .streamEnable t => Sys2Proof.Machine.execStreamEnable t s
  | .streamDisable t => Sys2Proof.Machine.execStreamDisable t s
  | .setStreamParams t => Sys2Proof.Machine.execSetStreamParams t s
  | .kernelLoad t => Sys2Proof.Machine.execKernelLoad t s
  | .bobbinAlloc t => Sys2Proof.Machine.execBobbinAlloc t s
  | .kernelStart t => Sys2Proof.Machine.execKernelStart t s
  | .kernelStop t => Sys2Proof.Machine.execKernelStop t s
  | .kernelStatus t => Sys2Proof.Machine.execKernelStatus t s
  | .trunkConfig t => Sys2Proof.Machine.execTrunkConfig t s
  | .trunkStatus t => Sys2Proof.Machine.execTrunkStatus t s
  | .ringMap t => Sys2Proof.Machine.execRingMap t s
  | .portAssign t => Sys2Proof.Machine.execPortAssign t s
  | .timeSync t => Sys2Proof.Machine.execTimeSync t s
  | .laneDiag t => Sys2Proof.Machine.execLaneDiag t s
  | .nvmRead t => Sys2Proof.Machine.execNvmRead t s
  | .nvmWrite t => Sys2Proof.Machine.execNvmWrite t s
  | .fwUpdateBegin t => Sys2Proof.Machine.execFwUpdateBegin t s
  | .fwUpdateData t => Sys2Proof.Machine.execFwUpdateData t s
  | .fwUpdateCommit t => Sys2Proof.Machine.execFwUpdateCommit t s
  | .dumpRead t => Sys2Proof.Machine.execDumpRead t s
  | .dumpClear t => Sys2Proof.Machine.execDumpClear t s
  | .twConfig t => Sys2Proof.Machine.execTwConfig t s
  | .twTransfer t => Sys2Proof.Machine.execTwTransfer t s
  | .timerConfig t => Sys2Proof.Machine.execTimerConfig t s
  | .timerGo t => Sys2Proof.Machine.execTimerGo t s
  | .timerRead t => Sys2Proof.Machine.execTimerRead t s
  | .mcvConfig t => Sys2Proof.Machine.execMcvConfig t s
  | .mcvRead t => Sys2Proof.Machine.execMcvRead t s
  | .mcvCalibrate t => Sys2Proof.Machine.execMcvCalibrate t s
  | .setClocks t => Sys2Proof.Machine.execSetClocks t s
  | .trimRoot t => Sys2Proof.Machine.execTrimRoot t s
  | .clockStatus t => Sys2Proof.Machine.execClockStatus t s
  | .setPowerState t => Sys2Proof.Machine.execSetPowerState t s
  | .setPowerBudget t => Sys2Proof.Machine.execSetPowerBudget t s
  | .thermalConfig t => Sys2Proof.Machine.execThermalConfig t s
  | .getTemperatures t => Sys2Proof.Machine.execGetTemperatures t s
  | .watchdogConfig t => Sys2Proof.Machine.execWatchdogConfig t s
  | .peek m => Sys2Proof.Machine.execPeek m s
  | .poke t => Sys2Proof.Machine.execPoke t s
  | .selftest t => Sys2Proof.Machine.execSelftest t s
  | .selftestComplete t fails measures => Sys2Proof.Machine.execSelftestComplete t fails measures s
  | .injectPattern t => Sys2Proof.Machine.execInjectPattern t s
  | .abort t p => Sys2Proof.Machine.execAbort t p s
  | .append t p => Sys2Proof.Machine.execAppend t p s
  | .submit t p => Sys2Proof.Machine.execSubmit t p s
  | .replyNext t p => Sys2Proof.Machine.execReplyNext t p s
  | .twWindowWrite t p bytes => Sys2Proof.Machine.execTwWindowWrite t p bytes s
  | .wdtKeyWrite t key => Sys2Proof.Machine.execWdtKeyWrite t key s
  | .subExposureStart t rung => Sys2Proof.Machine.execSubExposureStart t rung s
  | .earlyTransfer t tile => Sys2Proof.Machine.execEarlyTransfer t tile s
  | .frameBoundary t => Sys2Proof.Machine.execFrameBoundary t s
  | .subFrameBoundary t driverFaults => Sys2Proof.Machine.execSubFrameBoundary t driverFaults s
  | .subFrameTick t => Sys2Proof.Machine.execSubFrameTick t s
  | .exposureOutputAssert t => Sys2Proof.Machine.execExposureOutputAssert t s
  | .exposureOutputRelease t => Sys2Proof.Machine.execExposureOutputRelease t s
  | .conversionSlot t tile block slot charge hcg lcg rampFault => Sys2Proof.Machine.execConversionSlot t tile block slot charge hcg lcg rampFault s
  | .sampleArrival t tile block flip => Sys2Proof.Machine.execSampleArrival t tile block flip s
  | .readoutEnd t => Sys2Proof.Machine.execReadoutEnd t s
  | .trgEdge t pin level => Sys2Proof.Machine.execTrgEdge t pin level s
  | .ringTimeGridPoint t => Sys2Proof.Machine.execRingTimeGridPoint t s
  | .ringTimeFreeze t => Sys2Proof.Machine.execRingTimeFreeze t s
  | .flickerPeriodUpdate t => Sys2Proof.Machine.execFlickerPeriodUpdate t s
  | .aeResult t frame => Sys2Proof.Machine.execAeResult t frame s
  | .motionSubframeStart t ecc => Sys2Proof.Machine.execMotionSubframeStart t ecc s
  | .tileAccumulationStart t tile pixels ecc parityBad => Sys2Proof.Machine.execTileAccumulationStart t tile pixels ecc parityBad s
  | .vectorDeadline t valid => Sys2Proof.Machine.execVectorDeadline t valid s
  | .accumulationWindowEnd t => Sys2Proof.Machine.execAccumulationWindowEnd t s
  | .basteDecision t => Sys2Proof.Machine.execBasteDecision t s
  | .haloAckTimeout t chestA chestB => Sys2Proof.Machine.execHaloAckTimeout t chestA chestB s
  | .scrubAccess t addr found => Sys2Proof.Machine.execScrubAccess t addr found s
  | .selfRefreshEntry t => Sys2Proof.Machine.execSelfRefreshEntry t s
  | .frontBandSelect t ecc => Sys2Proof.Machine.execFrontBandSelect t ecc s
  | .frontBeginVersion t => Sys2Proof.Machine.execFrontBeginVersion t s
  | .frontEndVersion t => Sys2Proof.Machine.execFrontEndVersion t s
  | .ingressHeader t node port pkt => Sys2Proof.Machine.execIngressHeader t node port pkt s
  | .ingressLine t node port pkt => Sys2Proof.Machine.execIngressLine t node port pkt s
  | .ingressSidecar t node port pkt => Sys2Proof.Machine.execIngressSidecar t node port pkt s
  | .ingressTrailer t node port pkt => Sys2Proof.Machine.execIngressTrailer t node port pkt s
  | .ingressDeadline t ctx => Sys2Proof.Machine.execIngressDeadline t ctx s
  | .ingressRetract t node port pkt => Sys2Proof.Machine.execIngressRetract t node port pkt s
  | .channelVersionArrival t stream => Sys2Proof.Machine.execChannelVersionArrival t stream s
  | .backEndVersion t => Sys2Proof.Machine.execBackEndVersion t s
  | .ltmGridPublish t => Sys2Proof.Machine.execLtmGridPublish t s
  | .raw20BeginFrame t stream => Sys2Proof.Machine.execRaw20BeginFrame t stream s
  | .streamFrameArrival t stream => Sys2Proof.Machine.execStreamFrameArrival t stream s
  | .streamTrailerWrite t stream => Sys2Proof.Machine.execStreamTrailerWrite t stream s
  | .streamPacketDrain m stream => Sys2Proof.Machine.execStreamPacketDrain m stream s
  | .streamFrameSent t stream => Sys2Proof.Machine.execStreamFrameSent t stream s
  | .vop b vd va vb p ty op => Sys2Proof.Machine.execVop b vd va vb p ty op s
  | .vops b vd va sb p ty op => Sys2Proof.Machine.execVops b vd va sb p ty op s
  | .vimm b vd imm => Sys2Proof.Machine.execVimm b vd imm s
  | .sop b sd sa sb op => Sys2Proof.Machine.execSop b sd sa sb op s
  | .saddi b sd sa imm => Sys2Proof.Machine.execSaddi b sd sa imm s
  | .slui b sd imm => Sys2Proof.Machine.execSlui b sd imm s
  | .sori b sd sa imm => Sys2Proof.Machine.execSori b sd sa imm s
  | .bcc b cond sa sb off => Sys2Proof.Machine.execBcc b cond sa sb off s
  | .jmp b kind sd sa target => Sys2Proof.Machine.execJmp b kind sd sa target s
  | .loop b sa len => Sys2Proof.Machine.execLoop b sa len s
  | .nop b => Sys2Proof.Machine.execNop b s
  | .halt b => Sys2Proof.Machine.execHalt b s
  | .publish b t => Sys2Proof.Machine.execPublish b t s
  | .fence b => Sys2Proof.Machine.execFence b s
  | .cycles b sd count => Sys2Proof.Machine.execCycles b sd count s
  | .vmul b ad va vb p asg bsg op => Sys2Proof.Machine.execVmul b ad va vb p asg bsg op s
  | .vmuls b ad va sb p asg bsg op => Sys2Proof.Machine.execVmuls b ad va sb p asg bsg op s
  | .arnd b vd aa clear round s20 shift => Sys2Proof.Machine.execArnd b vd aa clear round s20 shift s
  | .aset b ad va zero signed shift => Sys2Proof.Machine.execAset b ad va zero signed shift s
  | .vcmp b pd va vb p ty cond => Sys2Proof.Machine.execVcmp b pd va vb p ty cond s
  | .vcmps b pd va sb p ty cond => Sys2Proof.Machine.execVcmps b pd va sb p ty cond s
  | .vsel b vd va vb pn => Sys2Proof.Machine.execVsel b vd va vb pn s
  | .plog b pd pa pb op => Sys2Proof.Machine.execPlog b pd pa pb op s
  | .pxfer b toPred sr p => Sys2Proof.Machine.execPxfer b toPred sr p s
  | .vshift b vd va vb k => Sys2Proof.Machine.execVshift b vd va vb k s
  | .vshuf b vd va vb op lane => Sys2Proof.Machine.execVshuf b vd va vb op lane s
  | .vred b rd ra lane p ty op => Sys2Proof.Machine.execVred b rd ra lane p ty op s
  | .vld b vd sa off => Sys2Proof.Machine.execVld b vd sa off s
  | .vst b vs sa off => Sys2Proof.Machine.execVst b vs sa off s
  | .vlda b vd ag => Sys2Proof.Machine.execVlda b vd ag s
  | .vsta b vs ag p => Sys2Proof.Machine.execVsta b vs ag p s
  | .agset b ag sa sb half => Sys2Proof.Machine.execAgset b ag sa sb half s
  | .sld b sd sa off => Sys2Proof.Machine.execSld b sd sa off s
  | .sst b ss sa off => Sys2Proof.Machine.execSst b ss sa off s
  | .xfer b sl sr sc tag scalar outward space => Sys2Proof.Machine.execXfer b sl sr sc tag scalar outward space s
  | .xferComplete b tag ecc => Sys2Proof.Machine.execXferComplete b tag ecc s
  | .xwait b sd tag => Sys2Proof.Machine.execXwait b sd tag s
  | .spop b vd queue => Sys2Proof.Machine.execSpop b vd queue s
  | .spush b vs => Sys2Proof.Machine.execSpush b vs s
  | .queueWaitRelease b => Sys2Proof.Machine.execQueueWaitRelease b s
  | .smeta b sd queue field => Sys2Proof.Machine.execSmeta b sd queue field s
  | .bar b n => Sys2Proof.Machine.execBar b n s
  | .barrierRelease b => Sys2Proof.Machine.execBarrierRelease b s
  | .sem b wait n => Sys2Proof.Machine.execSem b wait n s
  | .semWaitRelease b => Sys2Proof.Machine.execSemWaitRelease b s
  | .atom b sd sa sb op => Sys2Proof.Machine.execAtom b sd sa sb op s
  | .kernelHangTimeout t kid b => Sys2Proof.Machine.execKernelHangTimeout t kid b s
  | .grantPeriod t => Sys2Proof.Machine.execGrantPeriod t s
  | .signalDetect t p lane present => Sys2Proof.Machine.execSignalDetect t p lane present s
  | .bringupStageComplete t p lanes eyes => Sys2Proof.Machine.execBringupStageComplete t p lanes eyes s
  | .bringupStageTimeout t p => Sys2Proof.Machine.execBringupStageTimeout t p s
  | .bringupBackoffEnd t p => Sys2Proof.Machine.execBringupBackoffEnd t p s
  | .rateSwitchIdleEnd t p => Sys2Proof.Machine.execRateSwitchIdleEnd t p s
  | .filler t p drift => Sys2Proof.Machine.execFiller t p drift s
  | .laneMark t p lane block => Sys2Proof.Machine.execLaneMark t p lane block s
  | .caps t p block => Sys2Proof.Machine.execCaps t p block s
  | .width t p block => Sys2Proof.Machine.execWidth t p block s
  | .ack t p block => Sys2Proof.Machine.execAck t p block s
  | .nak t p block => Sys2Proof.Machine.execNak t p block s
  | .doze t p block => Sys2Proof.Machine.execDoze t p block s
  | .hopSlotReceive t p rx before dealt => Sys2Proof.Machine.execHopSlotReceive t p rx before dealt s
  | .slotPositionSend t p => Sys2Proof.Machine.execSlotPositionSend t p s
  | .replayTimeout t p => Sys2Proof.Machine.execReplayTimeout t p s
  | .laneLoss t p lane => Sys2Proof.Machine.execLaneLoss t p lane s
  | .shedTimeout t p => Sys2Proof.Machine.execShedTimeout t p s
  | .fomMeasure t p eyes => Sys2Proof.Machine.execFomMeasure t p eyes s
  | .widthRestore t p => Sys2Proof.Machine.execWidthRestore t p s
  | .dozeEntry t p => Sys2Proof.Machine.execDozeEntry t p s
  | .dozeWake t p => Sys2Proof.Machine.execDozeWake t p s
  | .wakeLockTimeout t p locked => Sys2Proof.Machine.execWakeLockTimeout t p locked s
  | .discover t p slot => Sys2Proof.Machine.execDiscover t p slot s
  | .probe t p slot backoff => Sys2Proof.Machine.execProbe t p slot backoff s
  | .claimed t p slot backoff => Sys2Proof.Machine.execClaimed t p slot backoff s
  | .joinBackoffEnd t => Sys2Proof.Machine.execJoinBackoffEnd t s
  | .joinRetry t => Sys2Proof.Machine.execJoinRetry t s
  | .assign t p slot => Sys2Proof.Machine.execAssign t p slot s
  | .topology t p slot => Sys2Proof.Machine.execTopology t p slot s
  | .rotor t p slot => Sys2Proof.Machine.execRotor t p slot s
  | .wrap t p slot => Sys2Proof.Machine.execWrap t p slot s
  | .claim t p slot => Sys2Proof.Machine.execClaim t p slot s
  | .portHeld t p slot => Sys2Proof.Machine.execPortHeld t p slot s
  | .claimTimeout t => Sys2Proof.Machine.execClaimTimeout t s
  | .delayReq t p slot => Sys2Proof.Machine.execDelayReq t p slot s
  | .delayResp t p slot => Sys2Proof.Machine.execDelayResp t p slot s
  | .hopDelayMeasure t p => Sys2Proof.Machine.execHopDelayMeasure t p s
  | .time t p slot => Sys2Proof.Machine.execTime t p slot s
  | .timeRingATimeout t => Sys2Proof.Machine.execTimeRingATimeout t s
  | .timeHoldover t => Sys2Proof.Machine.execTimeHoldover t s
  | .ownerLost t => Sys2Proof.Machine.execOwnerLost t s
  | .selfRotation t => Sys2Proof.Machine.execSelfRotation t s
  | .eventSend t => Sys2Proof.Machine.execEventSend t s
  | .referenceLoss t r => Sys2Proof.Machine.execReferenceLoss t r s
  | .pllLockLoss t e => Sys2Proof.Machine.execPllLockLoss t e s
  | .clockMonitorWindow t ref0 ref1 outputs => Sys2Proof.Machine.execClockMonitorWindow t ref0 ref1 outputs s
  | .lockAttemptStart t p => Sys2Proof.Machine.execLockAttemptStart t p s
  | .lockAttemptTimeout t p => Sys2Proof.Machine.execLockAttemptTimeout t p s
  | .pllLockDeclared t e band => Sys2Proof.Machine.execPllLockDeclared t e band s
  | .trimStep t => Sys2Proof.Machine.execTrimStep t s
  | .refclk0Measure t khz => Sys2Proof.Machine.execRefclk0Measure t khz s
  | .sensorSample t readings => Sys2Proof.Machine.execSensorSample t readings s
  | .hardTrip t => Sys2Proof.Machine.execHardTrip t s
  | .stowWake t source => Sys2Proof.Machine.execStowWake t source s
  | .powerOn t => Sys2Proof.Machine.execPowerOn t s
  | .resetN t => Sys2Proof.Machine.execResetN t s
  | .brownOut x => Sys2Proof.Machine.execBrownOut x s
  | .optionLoadingEnd t o => Sys2Proof.Machine.execOptionLoadingEnd t o s
  | .domainRelease t d => Sys2Proof.Machine.execDomainRelease t d s
  | .legacyGapEnd t d => Sys2Proof.Machine.execLegacyGapEnd t d s
  | .bootLoaderStart t => Sys2Proof.Machine.execBootLoaderStart t s
  | .serviceDue t => Sys2Proof.Machine.execServiceDue t s
  | .watchdogExpiry t => Sys2Proof.Machine.execWatchdogExpiry t s
  | .hardTimerExpiry t => Sys2Proof.Machine.execHardTimerExpiry t s
  | .fatalError t cause pc => Sys2Proof.Machine.execFatalError t cause pc s
  | .dumpComplete t => Sys2Proof.Machine.execDumpComplete t s
  | .pageWriteComplete t result => Sys2Proof.Machine.execPageWriteComplete t result s
  | .twStart t p address edge => Sys2Proof.Machine.execTwStart t p address edge s
  | .twStop t p edge => Sys2Proof.Machine.execTwStop t p edge s
  | .twSclTimeout t p => Sys2Proof.Machine.execTwSclTimeout t p s
  | .ibrIssue t p => Sys2Proof.Machine.execIbrIssue t p s
  | .ibrRepeat t p => Sys2Proof.Machine.execIbrRepeat t p s
  | .ibrRecognised t p answers => Sys2Proof.Machine.execIbrRecognised t p answers s
  | .twTransferRetry t p => Sys2Proof.Machine.execTwTransferRetry t p s
  | .busRecovery t p pulses freed => Sys2Proof.Machine.execBusRecovery t p pulses freed s
  | .rtMirrorUpdate t => Sys2Proof.Machine.execRtMirrorUpdate t s
  | .timerTick t ch => Sys2Proof.Machine.execTimerTick t ch s
  | .timerSync t ch => Sys2Proof.Machine.execTimerSync t ch s
  | .timerCapture t ch => Sys2Proof.Machine.execTimerCapture t ch s
  | .mcvSlotStart t => Sys2Proof.Machine.execMcvSlotStart t s
  | .mcvConversionComplete t b raw overRange => Sys2Proof.Machine.execMcvConversionComplete t b raw overRange s
  | .refSettled t => Sys2Proof.Machine.execRefSettled t s
  | .eyeScanComplete t p openings => Sys2Proof.Machine.execEyeScanComplete t p openings s
  | .pgoodRise t => Sys2Proof.Machine.execPgoodRise t s
  | .resetNRelease t => Sys2Proof.Machine.execResetNRelease t s
  | .vddaonLoss t => Sys2Proof.Machine.execVddaonLoss t s
  | .twWindowRead t p count => Sys2Proof.Machine.execTwWindowRead t p count s
  | .twTransferEnd t p result data => Sys2Proof.Machine.execTwTransferEnd t p result data s
  | .tckEdge t edge tms tdi => Sys2Proof.Machine.execTckEdge t edge tms tdi s
  | .trstNLow t => Sys2Proof.Machine.execTrstNLow t s

end Sys2Proof.Machine
end

