-- ==== Sys2Proof/WellFormed.lean ====
section
/-! DEFINITION. Which command terms are well formed: the bounds the spec sets on what reaches the device, and bobbin
instructions whose word lies within the encodings (R226–R236). -/
namespace Sys2Proof

/-- Strictly rising numbers below a bound. -/
def risingBelow (bound : Nat) : List Nat → Bool
  | [] => true
  | [x] => decide (x < bound)
  | x :: y :: l => decide (x < y) && risingBelow bound (y :: l)

/-- Errors of distinct 64-bit words: 2^29 words of the memory wafer and 135,168 of the descriptor files (R93, R94). -/
def errorSet (l : List EccHit) : Bool := risingBelow 0x20021000 (l.map (·.word))

/-- A management or time slot holds at most the 64 words of its payload (R293). -/
def MgmtSlot.wellFormed (m : MgmtSlot) : Bool := decide (m.words.length ≤ 64)

/-- The command is well formed. -/
def Instr.wellFormed (i : Instr) : Bool :=
  match Machine.bobbinWord i with
  | some (_, w) => Machine.legalWord w
  | none =>
    match i with
    | .selftestComplete _ fails measures => risingBelow 800832 fails && measures.all fun m => decide (m.conv < 800832)
    | .motionSubframeStart _ ecc => errorSet ecc
    | .tileAccumulationStart _ _ pixels ecc parityBad => decide (pixels ≤ 4096) && errorSet ecc && risingBelow 4096 parityBad
    | .vectorDeadline _ valid => decide (valid ≤ 12288)
    | .frontBandSelect _ ecc => errorSet ecc
    | .xferComplete _ _ ecc => errorSet ecc
    | .peek m => errorSet m.ecc
    | .streamPacketDrain m _ => errorSet m.ecc
    | .scrubAccess _ addr _ => decide (addr < 0x100000000) && addr % 8 == 0
    | .kernelHangTimeout _ kid _ => decide (kid.toNat < 16) || (decide (0x80 ≤ kid.toNat) && decide (kid.toNat ≤ 0x83))
    | .bringupStageComplete _ _ _ eyes => eyes.length == 4
    | .fomMeasure _ _ eyes => eyes.length == 4
    | .hopSlotReceive _ _ rx before _ => decide (rx.length ≤ 34) && before.length == 4
    | .discover _ _ m => m.wellFormed
    | .probe _ _ m backoff => m.wellFormed && decide (backoff ≤ 1023)
    | .claimed _ _ m backoff => m.wellFormed && decide (backoff ≤ 1023)
    | .assign _ _ m => m.wellFormed
    | .topology _ _ m => m.wellFormed
    | .rotor _ _ m => m.wellFormed
    | .wrap _ _ m => m.wellFormed
    | .claim _ _ m => m.wellFormed
    | .portHeld _ _ m => m.wellFormed
    | .delayReq _ _ m => m.wellFormed
    | .delayResp _ _ m => m.wellFormed
    | .time _ _ m => m.wellFormed
    | .clockMonitorWindow _ _ _ outputs => outputs.length == 4
    | .sensorSample _ readings => readings.length == 16
    | .ibrRecognised _ _ answers => decide (answers.length ≤ 8)
    | .busRecovery _ _ pulses _ => decide (pulses ≤ 9)
    | .eyeScanComplete _ _ openings => decide (openings.length ≤ 8)
    | _ => true

end Sys2Proof
end

