-- ==== Sys2Proof/Safety.lean ====
section
/-! DEFINITION. The terms in which claims speak of the block: a step that goes on, a command row that the Bureau executes
now, an instruction a bobbin issues now, and what stands unchanged. -/
namespace Sys2Proof.Machine

/-- A step that goes on. -/
def safeStep (s : State) : Prop := ∃ s', step s = .next s'

/-! ### Command rows (R320) -/

/-- The packet that the row of opcode `op` takes at `t`, and the state its command finds: refusals and repeats before it
are dealt with, it has left its queue, and Doze has ended. None where the Bureau takes another packet or none. -/
def taking (t : Instant) (op : Nat) (s : State) : Option (Packet × State) :=
  let s := settleAll (setNow t s)
  match takeable s with
  | some (p, rest) => if pktOp p = op then some (p, wakeDoze { s with bureau := { s.bureau with queue := rest } }) else none
  | none => none

/-- The packet that the row takes, where the Bureau's own state is consistent: its command executes (R329; an inconsistent Bureau
answers INTERNAL_FAULT, log entry 179). -/
def taken (t : Instant) (op : Nat) (s : State) : Option (Packet × State) := (taking t op s).filter fun r => bureauSound r.2

/-- Parameter word i of a packet's command. -/
def par (p : Packet) (i : Nat) : Word := paramAt (cmdOf p).words i

/-- The state in which packet p's command executes and its reply waits (R320). -/
def nowHeld (p : Packet) (s : State) : State := { s with bureau := { s.bureau with executing := some p } }

/-- The two-wire ports take events: the Bureau domain runs, the device is not in Stow, no chain drives their pins. -/
def twLive (s : State) : Bool := !pinsChained s && !s.rst.asserted.contains .bureau && s.power.phase != .stow

/-! ### Bobbins (R223–R236) -/

/-- The bobbin that issues command i now, with its number: it runs, waits for nothing and has its grant, the instruction
stands at its PC, and the parity checks find nothing. -/
def issuing (i : Instr) (s : State) : Option (Nat × Bobbin) :=
  match bobbinWord i with
  | some (b, w) => if b.parity == .clean && issues s b.ix.val w then some (b.ix.val, bobbin s b.ix.val) else none
  | none => none

/-- The state with bobbin n alone changed. -/
def putBobbin (n : Nat) (x : Bobbin) (s : State) : State :=
  { s with engines := { s.engines with bobbins := s.engines.bobbins.set n x } }

/-- The state with the memory of pillow n alone changed. -/
def putPillow (n : Nat) (f : Mem → Mem) (s : State) : State :=
  { s with engines := { s.engines with pillows := s.engines.pillows.modify n f } }

end Sys2Proof.Machine
end

