-- ==== Sys2Proof/Certificates/Slice0/Obligations.lean ====
section
/-! DEFINITION. The statements for the provers. -/
open Sys2Proof Sys2Proof.Machine

/-! ### Bobbin engines (R223–R258) -/

/-- R226–R236: the words of the bobbin instructions and the legal words correspond. A legal word decodes to the one instruction
whose word it is, with every operand at every value, and every instruction with a legal word is decoded back. The model's
choices in it: log entry 152. -/
def Obligations.BobbinWordsAndInstructionsCorrespond : Prop :=
  (∀ (b : BobbinIssue) (t : Instant) (count w : Word) (i : Instr),
    decodeBobbin b t count w = some i → bobbinWord i = some (b, w) ∧ i.wellFormed = true) ∧
  (∀ (i : Instr) (b : BobbinIssue) (w : Word),
    bobbinWord i = some (b, w) → i.wellFormed = true → ∃ t count, decodeBobbin b t count w = some i) ∧
  (∀ (b : BobbinIssue) (t : Instant) (count w : Word), legalWord w = true → (decodeBobbin b t count w).isSome = true)

/-- R228: VOP changes only the lanes of P and gives each its vector ALU result, listed here lane by lane for u20 (type 0) and
for the signed types 1 and 2; type 3, an undefined op, NEG or ABS of u20, and a second operand of MOV, NEG or ABS are not
well formed. The model's choices in it: log entry 57. -/
def Obligations.VectorAluLaneResults : Prop :=
  (∀ (ty : Nat) (a b : Px), (vopLane ty 0x00 a b).toNat = (a.toNat + b.toNat) % 2 ^ 20 ∧
    ((vopLane ty 0x01 a b).toNat + b.toNat) % 2 ^ 20 = a.toNat) ∧
  (∀ (a b : Px), (vopLane 0 0x02 a b).toNat = min (a.toNat + b.toNat) 0xFFFFF ∧
    (vopLane 0 0x03 a b).toNat = a.toNat - b.toNat ∧
    (vopLane 0 0x04 a b).toNat = min a.toNat b.toNat ∧ (vopLane 0 0x05 a b).toNat = max a.toNat b.toNat ∧
    (vopLane 0 0x06 a b).toNat = (a.toNat - b.toNat) + (b.toNat - a.toNat) ∧
    (vopLane 0 0x07 a b).toNat = (a.toNat + b.toNat + 1) / 2) ∧
  (∀ (ty : Nat) (a b : Px), ty = 1 ∨ ty = 2 →
    (vopLane ty 0x02 a b).toInt = max (-0x80000) (min 0x7FFFF (a.toInt + b.toInt)) ∧
    (vopLane ty 0x03 a b).toInt = max (-0x80000) (min 0x7FFFF (a.toInt - b.toInt)) ∧
    (vopLane ty 0x04 a b).toInt = min a.toInt b.toInt ∧ (vopLane ty 0x05 a b).toInt = max a.toInt b.toInt ∧
    (vopLane ty 0x06 a b).toInt = min 0x7FFFF (max (a.toInt - b.toInt) (b.toInt - a.toInt)) ∧
    (vopLane ty 0x07 a b).toInt = (a.toInt + b.toInt + 1) / 2 ∧
    (vopLane ty 0x11 a b).toInt = min 0x7FFFF (-a.toInt) ∧
    (vopLane ty 0x12 a b).toInt = min 0x7FFFF (max a.toInt (-a.toInt))) ∧
  (∀ (ty : Nat) (a b : Px), vopLane ty 0x08 a b = a &&& b ∧ vopLane ty 0x09 a b = a ||| b ∧
    vopLane ty 0x0A a b = a ^^^ b ∧ vopLane ty 0x0B a b = a &&& ~~~ b ∧ vopLane ty 0x10 a b = a) ∧
  (∀ (ty : Nat) (a b : Px), b.toNat % 32 < 20 →
    (vopLane ty 0x0C a b).toNat = a.toNat * 2 ^ (b.toNat % 32) % 2 ^ 20) ∧
  (∀ (ty : Nat) (a b : Px), 20 ≤ b.toNat % 32 → vopLane ty 0x0C a b = 0 ∧ vopLane ty 0x0D a b = 0 ∧
    vopLane 0 0x0E a b = 0 ∧ vopLane 0 0x0F a b = 0) ∧
  (∀ (ty : Nat) (a b : Px), ty = 1 ∨ ty = 2 → 20 ≤ b.toNat % 32 →
    (vopLane ty 0x0E a b).toInt = (if a.toInt < 0 then -1 else 0) ∧
    (vopLane ty 0x0F a b).toInt = (if a.toInt < 0 then -1 else 0)) ∧
  (∀ (a b : Px), b.toNat % 32 < 20 →
    (vopLane 0 0x0D a b).toNat = min (a.toNat * 2 ^ (b.toNat % 32)) 0xFFFFF ∧
    (vopLane 0 0x0E a b).toNat = a.toNat / 2 ^ (b.toNat % 32)) ∧
  (∀ (ty : Nat) (a b : Px), ty = 1 ∨ ty = 2 → b.toNat % 32 < 20 →
    (vopLane ty 0x0D a b).toInt = max (-0x80000) (min 0x7FFFF (a.toInt * 2 ^ (b.toNat % 32))) ∧
    (vopLane ty 0x0E a b).toInt = a.toInt / 2 ^ (b.toNat % 32)) ∧
  (∀ (a b : Px), 1 ≤ b.toNat % 32 → b.toNat % 32 < 20 →
    (vopLane 0 0x0F a b).toNat = (a.toNat + 2 ^ (b.toNat % 32 - 1)) / 2 ^ (b.toNat % 32)) ∧
  (∀ (ty : Nat) (a b : Px), ty = 1 ∨ ty = 2 → 1 ≤ b.toNat % 32 → b.toNat % 32 < 20 →
    (vopLane ty 0x0F a b).toInt = (a.toInt + 2 ^ (b.toNat % 32 - 1)) / 2 ^ (b.toNat % 32)) ∧
  (∀ (ty : Nat) (a b : Px), ty ≤ 2 → b.toNat % 32 = 0 → vopLane ty 0x0F a b = a) ∧
  (∀ b vd va vb p ty op s n x, issuing (.vop b vd va vb p ty op) s = some (n, x) → ∃ v,
    exec (.vop b vd va vb p ty op) s = .next (putBobbin n (nextPc { x with v := x.v.set vd.toNat v }) s) ∧ ∀ i < 16,
      lane v i = (if bitAt (pReg x p.toNat) i then
        vopLane ty.toNat op.toNat (lane (vReg x va.toNat) i) (lane (vReg x vb.toNat) i) else lane (vReg x vd.toNat) i)) ∧
  (∀ (vd va vb : BitVec 5) (p : BitVec 3) (ty : BitVec 2) (op : BitVec 6) b,
    (Instr.vop b vd va vb p ty op).wellFormed = true ↔
      ty ≠ 3 ∧ op.toNat ≤ 0x12 ∧ (0x10 ≤ op.toNat → vb = 0) ∧ (0x11 ≤ op.toNat → ty ≠ 0))

/-- R228, R230, R231: instructions that write one vector register of their bobbin and step its PC; lanes outside P keep their
old value. The model's choices in it: log entry 57. -/
def Obligations.VectorInstructionsWriteTheirRegister : Prop :=
  (∀ b vd va vb p ty op s n x, issuing (.vop b vd va vb p ty op) s = some (n, x) →
    exec (.vop b vd va vb p ty op) s = .next (putBobbin n (nextPc { x with v := x.v.set vd.toNat (vec fun i =>
      if bitAt (pReg x p.toNat) i then vopLane ty.toNat op.toNat (lane (vReg x va.toNat) i) (lane (vReg x vb.toNat) i)
      else lane (vReg x vd.toNat) i) }) s)) ∧
  (∀ b vd va sb p ty op s n x, issuing (.vops b vd va sb p ty op) s = some (n, x) →
    exec (.vops b vd va sb p ty op) s = .next (putBobbin n (nextPc { x with v := x.v.set vd.toNat (vec fun i =>
      if bitAt (pReg x p.toNat) i then vopLane ty.toNat op.toNat (lane (vReg x va.toNat) i)
        (lane (List.replicate 16 (fld (sReg x sb.toNat) 0 20)) i)
      else lane (vReg x vd.toNat) i) }) s)) ∧
  (∀ b vd imm s n x, issuing (.vimm b vd imm) s = some (n, x) →
    exec (.vimm b vd imm) s = .next (putBobbin n (nextPc { x with v := x.v.set vd.toNat (List.replicate 16 imm) }) s)) ∧
  (∀ b vd va vb pn s n x, issuing (.vsel b vd va vb pn) s = some (n, x) →
    exec (.vsel b vd va vb pn) s = .next (putBobbin n (nextPc { x with v := x.v.set vd.toNat (vec fun i =>
      if bitAt (pReg x pn.toNat) i then lane (vReg x va.toNat) i else lane (vReg x vb.toNat) i) }) s)) ∧
  (∀ b vd va vb k s n x, issuing (.vshift b vd va vb k) s = some (n, x) →
    exec (.vshift b vd va vb k) s = .next (putBobbin n (nextPc { x with v := x.v.set vd.toNat (vec fun i =>
      if i + k.toNat < 16 then lane (vReg x va.toNat) (i + k.toNat) else lane (vReg x vb.toNat) (i + k.toNat - 16)) }) s)) ∧
  (∀ b vd va vb op ln s n x, issuing (.vshuf b vd va vb op ln) s = some (n, x) →
    exec (.vshuf b vd va vb op ln) s = .next (putBobbin n (nextPc { x with
      v := x.v.set vd.toNat (vec (shufLane op.toNat ln.toNat (vReg x va.toNat) (vReg x vb.toNat))) }) s)) ∧
  (∀ (ln : Nat) (a b : List Px) (i : Nat), i < 16 → shufLane 0 ln a b i = lane a (15 - i) ∧ shufLane 5 ln a b i = lane a ln) ∧
  (∀ (ln : Nat) (a b : List Px) (i : Nat), i < 8 →
    shufLane 1 ln a b i = lane a (2 * i) ∧ shufLane 1 ln a b (i + 8) = lane b (2 * i) ∧
    shufLane 2 ln a b i = lane a (2 * i + 1) ∧ shufLane 2 ln a b (i + 8) = lane b (2 * i + 1) ∧
    shufLane 3 ln a b (2 * i) = lane a i ∧ shufLane 3 ln a b (2 * i + 1) = lane b i ∧
    shufLane 4 ln a b (2 * i) = lane a (8 + i) ∧ shufLane 4 ln a b (2 * i + 1) = lane b (8 + i))

/-- R231: VRED writes Sd from the lanes of Va in P, and INS one lane of Vd from Sa; with no lane in P, SUM gives 0 and MIN
and MAX the type's largest and smallest values. The extension of EXT is by type (log entry 56, the model's choice). -/
def Obligations.VectorReductionsWriteTheirResult : Prop :=
  (∀ b rd ra ln p ty op s n x, issuing (.vred b rd ra ln p ty op) s = some (n, x) → op ≠ 4 →
    exec (.vred b rd ra ln p ty op) s = .next (putBobbin n (nextPc { x with
      s := x.s.set rd.toNat (redWord op.toNat ty.toNat ln.toNat (pReg x p.toNat) (vReg x ra.toNat)) }) s)) ∧
  (∀ b rd ra ln p ty s n x, issuing (.vred b rd ra ln p ty 4) s = some (n, x) →
    exec (.vred b rd ra ln p ty 4) s = .next (putBobbin n (nextPc { x with
      v := x.v.set rd.toNat ((vReg x rd.toNat).set ln.toNat (fld (sReg x ra.toNat) 0 20)) }) s)) ∧
  (∀ (ty ln : Nat) (v : List Px), redWord 0 ty ln 0 v = 0 ∧ redWord 1 ty ln 0 v = wordOfInt (typeMax ty) ∧
    redWord 2 ty ln 0 v = wordOfInt (typeMin ty)) ∧
  (∀ (ty ln : Nat) (m : BitVec 16) (v : List Px), redWord 3 ty ln m v = wordOfInt (laneVal ty (lane v ln))) ∧
  (∀ (ln : Nat) (v : List Px),
    (redWord 0 0 ln 0xFFFF v).toNat = ((List.range 16).map fun i => (lane v i).toNat).sum ∧
    (redWord 0 1 ln 0xFFFF v).toInt = ((List.range 16).map fun i => (lane v i).toInt).sum) ∧
  (∀ (ty ln : Nat) (m : BitVec 16) (v : List Px),
    redWord 0 ty ln m v = wordOfInt (((List.range 16).map fun i => if bitAt m i then laneVal ty (lane v i) else 0).sum)) ∧
  (∀ (ty ln : Nat) (m : BitVec 16) (v : List Px), m ≠ 0 →
    (∃ i < 16, bitAt m i = true ∧ redWord 1 ty ln m v = wordOfInt (laneVal ty (lane v i)) ∧
      ∀ j < 16, bitAt m j = true → laneVal ty (lane v i) ≤ laneVal ty (lane v j)) ∧
    (∃ i < 16, bitAt m i = true ∧ redWord 2 ty ln m v = wordOfInt (laneVal ty (lane v i)) ∧
      ∀ j < 16, bitAt m j = true → laneVal ty (lane v j) ≤ laneVal ty (lane v i)))

/-- R236, R230, R240: instructions that write one scalar register of their bobbin and step its PC. A SOP shift by 32 or more
writes a free value (log entry 61, the model's choice). -/
def Obligations.ScalarInstructionsWriteTheirRegister : Prop :=
  (∀ b sd sa sb op s n x, issuing (.sop b sd sa sb op) s = some (n, x) → openShift op.toNat (sReg x sb.toNat) = false →
    exec (.sop b sd sa sb op) s = .next (putBobbin n (nextPc { x with
      s := x.s.set sd.toNat (sopWord op.toNat (sReg x sa.toNat) (sReg x sb.toNat)) }) s)) ∧
  (∀ b sd sa sb op s n x, issuing (.sop b sd sa sb op) s = some (n, x) → openShift op.toNat (sReg x sb.toNat) = true →
    exec (.sop b sd sa sb op) s = .next (putBobbin n (nextPc { x with
      s := x.s.set sd.toNat (Config.freeWord s.free) }) { s with free := s.free + 1 })) ∧
  (∀ b sd sa imm s n x, issuing (.saddi b sd sa imm) s = some (n, x) →
    exec (.saddi b sd sa imm) s = .next (putBobbin n (nextPc { x with
      s := x.s.set sd.toNat (sReg x sa.toNat + imm.signExtend 32) }) s)) ∧
  (∀ b sd imm s n x, issuing (.slui b sd imm) s = some (n, x) →
    exec (.slui b sd imm) s = .next (putBobbin n (nextPc { x with s := x.s.set sd.toNat (imm ++ (0 : BitVec 16)) }) s)) ∧
  (∀ b sd sa imm s n x, issuing (.sori b sd sa imm) s = some (n, x) →
    exec (.sori b sd sa imm) s = .next (putBobbin n (nextPc { x with
      s := x.s.set sd.toNat (sReg x sa.toNat ||| imm.zeroExtend 32) }) s)) ∧
  (∀ b sr p s n x, issuing (.pxfer b false sr p) s = some (n, x) →
    exec (.pxfer b false sr p) s = .next (putBobbin n (nextPc { x with
      s := x.s.set sr.toNat ((pReg x p.toNat).zeroExtend 32) }) s)) ∧
  (∀ b sd queue field s n x, issuing (.smeta b sd queue field) s = some (n, x) →
    exec (.smeta b sd queue field) s = .next (putBobbin n (nextPc { x with
      s := x.s.set sd.toNat ((if queue = 0 then x.meta0 else x.meta1).getD field.toNat 0) }) s)) ∧
  (∀ b sd count s n x, issuing (.cycles b sd count) s = some (n, x) →
    exec (.cycles b sd count) s = .next (putBobbin n (nextPc { x with s := x.s.set sd.toNat count }) s)) ∧
  (∀ a c : Word, (sopWord 0 a c).toNat = (a.toNat + c.toNat) % 2 ^ 32 ∧ sopWord 1 a c + c = a ∧ sopWord 2 a c = a &&& c ∧
    sopWord 3 a c = a ||| c ∧ sopWord 4 a c = a ^^^ c ∧ (sopWord 8 a c).toNat = a.toNat * c.toNat % 2 ^ 32 ∧
    (sopWord 9 a c).toInt = min a.toInt c.toInt ∧ (sopWord 10 a c).toInt = max a.toInt c.toInt ∧
    sopWord 11 a c = (if a.toInt < c.toInt then 1 else 0) ∧ sopWord 12 a c = (if a.toNat < c.toNat then 1 else 0)) ∧
  (∀ a c : Word, c.toNat < 32 → (sopWord 5 a c).toNat = a.toNat * 2 ^ c.toNat % 2 ^ 32 ∧
    (sopWord 6 a c).toNat = a.toNat / 2 ^ c.toNat ∧ (sopWord 7 a c).toInt = a.toInt / 2 ^ c.toNat) ∧
  (∀ a c : Word, (sopWord 13 a c).toNat = ((List.range 32).map fun i => a.toNat / 2 ^ i % 2).sum)

/-- R230, R224: VCMP, PLOG, VSEL and PXFER: what each writes, the comparisons by type, and the predicate operations; a write
to P0 is ignored, and P0 reads as 0xFFFF. -/
def Obligations.PredicateInstructionsWriteTheirMask : Prop :=
  (∀ b pd va vb p ty cond s n x, issuing (.vcmp b pd va vb p ty cond) s = some (n, x) →
    exec (.vcmp b pd va vb p ty cond) s = .next (putBobbin n (nextPc (setP pd.toNat (maskOf (pReg x p.toNat) fun i =>
      cmpHolds cond.toNat (laneVal ty.toNat (lane (vReg x va.toNat) i)) (laneVal ty.toNat (lane (vReg x vb.toNat) i))) x)) s)) ∧
  (∀ b pd va sb p ty cond s n x, issuing (.vcmps b pd va sb p ty cond) s = some (n, x) →
    exec (.vcmps b pd va sb p ty cond) s = .next (putBobbin n (nextPc (setP pd.toNat (maskOf (pReg x p.toNat) fun i =>
      cmpHolds cond.toNat (laneVal ty.toNat (lane (vReg x va.toNat) i))
        (laneVal ty.toNat (lane (List.replicate 16 (fld (sReg x sb.toNat) 0 20)) i))) x)) s)) ∧
  (∀ b pd pa pb op s n x, issuing (.plog b pd pa pb op) s = some (n, x) →
    exec (.plog b pd pa pb op) s = .next (putBobbin n (nextPc (setP pd.toNat
      (plogMask op.toNat (pReg x pa.toNat) (pReg x pb.toNat)) x)) s)) ∧
  (∀ b sr p s n x, issuing (.pxfer b true sr p) s = some (n, x) →
    exec (.pxfer b true sr p) s = .next (putBobbin n (nextPc (setP p.toNat (fld (sReg x sr.toNat) 0 16) x)) s)) ∧
  (∀ (m : BitVec 16) (x : Bobbin), setP 0 m x = x ∧ pReg x 0 = 0xFFFF) ∧
  (∀ (p : Nat) (m : BitVec 16) (x : Bobbin), p ≠ 0 → p < x.p.length →
    pReg (setP p m x) p = m ∧ (setP p m x) = { x with p := x.p.set p m } ∧
    ∀ q, q ≠ p → pReg (setP p m x) q = pReg x q) ∧
  (∀ (m : BitVec 16) (f : Nat → Bool) (i : Nat), i < 16 → bitAt (maskOf m f) i = (bitAt m i && f i)) ∧
  (∀ a b : BitVec 16, plogMask 0 a b = a &&& b ∧ plogMask 1 a b = a ||| b ∧ plogMask 2 a b = a ^^^ b ∧
    plogMask 3 a b = a &&& ~~~ b ∧ plogMask 4 a b = ~~~ a ∧ plogMask 5 a b = a) ∧
  (∀ a b : Int, (cmpHolds 0 a b ↔ a = b) ∧ (cmpHolds 1 a b ↔ a ≠ b) ∧ (cmpHolds 2 a b ↔ a < b) ∧ (cmpHolds 3 a b ↔ a ≤ b) ∧
    (cmpHolds 4 a b ↔ b < a) ∧ (cmpHolds 5 a b ↔ b ≤ a)) ∧
  (∀ (ty : Nat) (q : Px), laneVal ty q = if ty = 0 then (q.toNat : Int) else q.toInt) ∧
  (∀ b vd va vb pn s n x, issuing (.vsel b vd va vb pn) s = some (n, x) →
    exec (.vsel b vd va vb pn) s = .next (putBobbin n (nextPc { x with v := x.v.set vd.toNat (vec fun i =>
      if bitAt (pReg x pn.toNat) i then lane (vReg x va.toNat) i else lane (vReg x vb.toNat) i) }) s)) ∧
  (∀ b sr p s n x, issuing (.pxfer b false sr p) s = some (n, x) →
    exec (.pxfer b false sr p) s = .next (putBobbin n (nextPc { x with
      s := x.s.set sr.toNat ((pReg x p.toNat).zeroExtend 32) }) s))

/-- R229: VMUL and VMULS multiply and accumulate, ASET loads and ARND rounds; an accumulator that would pass ±(2^43 - 1)
saturates there and sets the sticky flag, and lanes outside P keep their accumulator. -/
def Obligations.AccumulatorInstructionsSaturate : Prop :=
  (∀ b ad va vb p asg bsg op s n x, issuing (.vmul b ad va vb p asg bsg op) s = some (n, x) →
    exec (.vmul b ad va vb p asg bsg op) s = .next (putBobbin n (nextPc (putAcc ad.toNat ((List.range 16).map fun i =>
      if bitAt (pReg x p.toNat) i then macVal op.toNat ((aReg x ad.toNat).getD i 0)
        (mulVal asg (lane (vReg x va.toNat) i) * mulVal bsg (lane (vReg x vb.toNat) i))
      else (aReg x ad.toNat).getD i 0) x)) s)) ∧
  (∀ b ad va sb p asg bsg op s n x, issuing (.vmuls b ad va sb p asg bsg op) s = some (n, x) →
    exec (.vmuls b ad va sb p asg bsg op) s = .next (putBobbin n (nextPc (putAcc ad.toNat ((List.range 16).map fun i =>
      if bitAt (pReg x p.toNat) i then macVal op.toNat ((aReg x ad.toNat).getD i 0)
        (mulVal asg (lane (vReg x va.toNat) i) * mulVal bsg (lane (List.replicate 16 (fld (sReg x sb.toNat) 0 20)) i))
      else (aReg x ad.toNat).getD i 0) x)) s)) ∧
  (∀ b ad va zero signed shift s n x, issuing (.aset b ad va zero signed shift) s = some (n, x) →
    exec (.aset b ad va zero signed shift) s = .next (putBobbin n (nextPc (putAcc ad.toNat ((List.range 16).map fun i =>
      if zero then 0 else mulVal signed (lane (vReg x va.toNat) i) * 2 ^ shift.toNat) x)) s)) ∧
  (∀ b vd aa clear round s20 shift s n x, issuing (.arnd b vd aa clear round s20 shift) s = some (n, x) →
    exec (.arnd b vd aa clear round s20 shift) s = .next (putBobbin n (nextPc { x with
      v := x.v.set vd.toNat (vec fun i => arndLane round s20 shift.toNat ((aReg x aa.toNat).getD i 0))
      a := if clear then x.a.set aa.toNat (List.replicate 16 0) else x.a }) s)) ∧
  (∀ (a : Nat) (vs : List Int) (x : Bobbin), putAcc a vs x = { x with
    a := x.a.set a (vs.map fun v => max (-(2 ^ 43 - 1)) (min (2 ^ 43 - 1) v))
    accSat := x.accSat || vs.any fun v => decide (v < -(2 ^ 43 - 1)) || decide (2 ^ 43 - 1 < v) }) ∧
  (∀ acc prod : Int, macVal 0 acc prod = prod ∧ macVal 1 acc prod = acc + prod ∧ macVal 2 acc prod = acc - prod) ∧
  (∀ (shift : Nat) (v : Int), (arndLane false true shift v).toInt = max (-0x80000) (min 0x7FFFF (v / 2 ^ shift)) ∧
    ((arndLane false false shift v).toNat : Int) = max 0 (min 0xFFFFF (v / 2 ^ shift))) ∧
  (∀ (shift : Nat) (v : Int), 1 ≤ shift →
    (arndLane true true shift v).toInt = max (-0x80000) (min 0x7FFFF ((v + 2 ^ (shift - 1)) / 2 ^ shift)) ∧
    ((arndLane true false shift v).toNat : Int) = max 0 (min 0xFFFFF ((v + 2 ^ (shift - 1)) / 2 ^ shift))) ∧
  (∀ (s20 : Bool) (v : Int), arndLane true s20 0 v = arndLane false s20 0 v) ∧
  (∀ q : Px, mulVal true q = q.toInt ∧ mulVal false q = (q.toNat : Int))

/-- R236: NOP, BCC, JMP and LOOP move the PC and the loop levels alone; a branch out of a loop body and a third level are
fault LOOP. A return takes the low 12 bits of Sa (log entry 62, the model's choice). -/
def Obligations.ControlFlowMovesTheProgramCounter : Prop :=
  (∀ b s n x, issuing (.nop b) s = some (n, x) → exec (.nop b) s = .next (putBobbin n (nextPc x) s)) ∧
  (∀ b cond sa sb off s n x, issuing (.bcc b cond sa sb off) s = some (n, x) →
    branchHolds cond.toNat (sReg x sa.toNat) (sReg x sb.toNat) = false →
    exec (.bcc b cond sa sb off) s = .next (putBobbin n (nextPc x) s)) ∧
  (∀ b cond sa sb off s n x, issuing (.bcc b cond sa sb off) s = some (n, x) →
    branchHolds cond.toNat (sReg x sa.toNat) (sReg x sb.toNat) = true → leavesLoop x (branchTarget x.pc off) = false →
    exec (.bcc b cond sa sb off) s = .next (putBobbin n { x with pc := branchTarget x.pc off } s)) ∧
  (∀ b cond sa sb off s n x, issuing (.bcc b cond sa sb off) s = some (n, x) →
    branchHolds cond.toNat (sReg x sa.toNat) (sReg x sb.toNat) = true → leavesLoop x (branchTarget x.pc off) = true →
    exec (.bcc b cond sa sb off) s = .next (bobbinFault n 9 s)) ∧
  (∀ b sd sa target s n x, issuing (.jmp b 0 sd sa target) s = some (n, x) → leavesLoop x target.toNat = false →
    exec (.jmp b 0 sd sa target) s = .next (putBobbin n { x with pc := target.toNat } s)) ∧
  (∀ b sd sa target s n x, issuing (.jmp b 1 sd sa target) s = some (n, x) → leavesLoop x target.toNat = false →
    exec (.jmp b 1 sd sa target) s = .next (putBobbin n { x with
      s := x.s.set sd.toNat (wordOf ((x.pc + 1) % 4096)), pc := target.toNat } s)) ∧
  (∀ b sd sa target s n x, issuing (.jmp b 2 sd sa target) s = some (n, x) →
    leavesLoop x (fldN (sReg x sa.toNat) 0 12) = false →
    exec (.jmp b 2 sd sa target) s = .next (putBobbin n { x with pc := fldN (sReg x sa.toNat) 0 12 } s)) ∧
  (∀ b sa len s n x, issuing (.loop b sa len) s = some (n, x) → sReg x sa.toNat = 0 →
    exec (.loop b sa len) s = .next (putBobbin n (goOn (x.pc + len.toNat) x) s)) ∧
  (∀ b sa len s n x, issuing (.loop b sa len) s = some (n, x) → sReg x sa.toNat ≠ 0 → len ≠ 0 → x.loops.length < 2 →
    exec (.loop b sa len) s = .next (putBobbin n { x with
      loops := ⟨x.pc + 1, x.pc + len.toNat, (sReg x sa.toNat).toNat⟩ :: x.loops, pc := (x.pc + 1) % 4096 } s)) ∧
  (∀ b sa len s n x, issuing (.loop b sa len) s = some (n, x) → sReg x sa.toNat ≠ 0 → len ≠ 0 → 2 ≤ x.loops.length →
    exec (.loop b sa len) s = .next (bobbinFault n 9 s)) ∧
  (∀ x : Bobbin, x.loops = [] → nextPc x = { x with pc := (x.pc + 1) % 4096, wait := none }) ∧
  (∀ (x : Bobbin) (l : LoopLevel) (ls : List LoopLevel), x.loops = l :: ls → l.last ≠ x.pc →
    nextPc x = { x with pc := (x.pc + 1) % 4096, wait := none }) ∧
  (∀ (x : Bobbin) (l : LoopLevel) (ls : List LoopLevel), x.loops = l :: ls → l.last = x.pc → 1 < l.left →
    nextPc x = { x with pc := l.start, loops := { l with left := l.left - 1 } :: ls, wait := none }) ∧
  (∀ (x : Bobbin) (l : LoopLevel), x.loops = [l] → l.last = x.pc → l.left ≤ 1 →
    nextPc x = { x with pc := (x.pc + 1) % 4096, loops := [], wait := none }) ∧
  (∀ a c : Word, branchHolds 0 a c = decide (a = c) ∧ branchHolds 1 a c = decide (a ≠ c) ∧
    branchHolds 2 a c = decide (a.toInt < c.toInt) ∧ branchHolds 3 a c = decide (c.toInt ≤ a.toInt) ∧
    branchHolds 4 a c = decide (a.toNat < c.toNat) ∧ branchHolds 5 a c = decide (c.toNat ≤ a.toNat))

/-- R232: loads and stores within the memory's range change one register or one word of their own bobbin's memory, and
nothing else; an address generator is stepped after its use, by STRIDE_X, and after every COUNT_X steps to the start of its row plus
STRIDE_Y; AGSET writes one generator, which stands at BASE with its count restarted (log entry 58, the model's choice). -/
def Obligations.LoadsAndStoresStayInTheirBobbin : Prop :=
  (∀ b vd sa off s n x, issuing (.vld b vd sa off) s = some (n, x) → addrOf (sReg x sa.toNat) off < 2048 →
    exec (.vld b vd sa off) s = .next (putBobbin n (nextPc { x with
      v := x.v.set vd.toNat (smGet zeroVec x.vmem (addrOf (sReg x sa.toNat) off)) }) s)) ∧
  (∀ b vs sa off s n x, issuing (.vst b vs sa off) s = some (n, x) → addrOf (sReg x sa.toNat) off < 2048 →
    exec (.vst b vs sa off) s = .next (putBobbin n (nextPc { x with
      vmem := smSet zeroVec x.vmem (addrOf (sReg x sa.toNat) off) (vReg x vs.toNat) }) s)) ∧
  (∀ b vd ag s n x, issuing (.vlda b vd ag) s = some (n, x) → (agReg x ag.toNat).cur.toNat < 2048 →
    exec (.vlda b vd ag) s = .next (putBobbin n (nextPc { x with
      v := x.v.set vd.toNat (smGet zeroVec x.vmem (agReg x ag.toNat).cur.toNat)
      ag := x.ag.set ag.toNat (stepAg (agReg x ag.toNat)) }) s)) ∧
  (∀ b vs ag p s n x, issuing (.vsta b vs ag p) s = some (n, x) → (agReg x ag.toNat).cur.toNat < 2048 →
    exec (.vsta b vs ag p) s = .next (putBobbin n (nextPc { x with
      vmem := smSet zeroVec x.vmem (agReg x ag.toNat).cur.toNat (vec fun i =>
        if bitAt (pReg x p.toNat) i then lane (vReg x vs.toNat) i
        else lane (smGet zeroVec x.vmem (agReg x ag.toNat).cur.toNat) i)
      ag := x.ag.set ag.toNat (stepAg (agReg x ag.toNat)) }) s)) ∧
  (∀ b ag sa sb s n x, issuing (.agset b ag sa sb false) s = some (n, x) →
    exec (.agset b ag sa sb false) s = .next (putBobbin n (nextPc { x with ag := x.ag.set ag.toNat { agReg x ag.toNat with
      base := sReg x sa.toNat, strideY := sReg x sb.toNat, cur := sReg x sa.toNat, row := sReg x sa.toNat, steps := 0 } }) s)) ∧
  (∀ b ag sa sb s n x, issuing (.agset b ag sa sb true) s = some (n, x) →
    exec (.agset b ag sa sb true) s = .next (putBobbin n (nextPc { x with ag := x.ag.set ag.toNat { agReg x ag.toNat with
      strideX := sReg x sa.toNat, countX := sReg x sb.toNat, steps := 0 } }) s)) ∧
  (∀ b sd sa off s n x, issuing (.sld b sd sa off) s = some (n, x) → addrOf (sReg x sa.toNat) off < 2048 →
    exec (.sld b sd sa off) s = .next (putBobbin n (nextPc { x with
      s := x.s.set sd.toNat (smGet 0 x.smem (addrOf (sReg x sa.toNat) off)) }) s)) ∧
  (∀ b ss sa off s n x, issuing (.sst b ss sa off) s = some (n, x) → addrOf (sReg x sa.toNat) off < 2048 →
    exec (.sst b ss sa off) s = .next (putBobbin n (nextPc { x with
      smem := smSet 0 x.smem (addrOf (sReg x sa.toNat) off) (sReg x ss.toNat) }) s)) ∧
  (∀ g : AddrGen, g.steps + 1 < g.countX.toNat → stepAg g = { g with cur := g.cur + g.strideX, steps := g.steps + 1 }) ∧
  (∀ g : AddrGen, g.steps + 1 = g.countX.toNat →
    stepAg g = { g with row := g.row + g.strideY, cur := g.row + g.strideY, steps := 0 }) ∧
  (∀ (g : AddrGen) (k : Nat), g.steps = 0 → g.cur = g.row → k < g.countX.toNat →
    (Nat.repeat stepAg k g).cur = g.row + wordOf k * g.strideX ∧ (Nat.repeat stepAg k g).row = g.row) ∧
  (∀ g : AddrGen, g.steps = 0 → g.countX ≠ 0 →
    Nat.repeat stepAg g.countX.toNat g = { g with row := g.row + g.strideY, cur := g.row + g.strideY, steps := 0 }) ∧
  (∀ (m : List (Nat × Word)) (a c : Nat) (w : Word), smWf 0 m = true →
    smGet 0 (smSet 0 m a w) c = if c = a then w else smGet 0 m c) ∧
  (∀ (m : List (Nat × List Px)) (a c : Nat) (v : List Px), smWf zeroVec m = true →
    smGet zeroVec (smSet zeroVec m a v) c = if c = a then v else smGet zeroVec m c)

/-- R232, R257: a load or store outside the memory's range is fault VMEM_RANGE (3) or SMEM_RANGE (4); a parity error of the
instruction memory, of a memory read or of a pillow is fault 1, 2 or 6. The model's choices in it: log entry 152. -/
def Obligations.BobbinMemoryErrorsFault : Prop :=
  (∀ (b : BobbinIssue) (w : Word) (use : MemUse) (f : Nat → State → State) (code : Nat) (s : State),
    parityFault b.parity use = some code → vendorHolds s.exposure.cfg s.front.cfg (b.ix.val / 16) = false →
    issues s b.ix.val w = true → issueWith b w use f s = .next (bobbinFault b.ix.val code s)) ∧
  (∀ use : MemUse, parityFault .clean use = none ∧ parityFault .imem use = some 1) ∧
  parityFault .mem .own = some 2 ∧ parityFault .mem .pillow = some 6 ∧ parityFault .mem .no = none ∧
  (∀ (b : BobbinIssue) vd sa off s w, bobbinWord (.vld b vd sa off) = some (b, w) → issues s b.ix.val w = true → b.parity = .mem →
    vendorHolds s.exposure.cfg s.front.cfg (b.ix.val / 16) = false →
    exec (.vld b vd sa off) s = .next (bobbinFault b.ix.val 2 s)) ∧
  (∀ b vd sa off s n x, issuing (.vld b vd sa off) s = some (n, x) → 2048 ≤ addrOf (sReg x sa.toNat) off →
    exec (.vld b vd sa off) s = .next (bobbinFault n 3 s)) ∧
  (∀ b vs sa off s n x, issuing (.vst b vs sa off) s = some (n, x) → 2048 ≤ addrOf (sReg x sa.toNat) off →
    exec (.vst b vs sa off) s = .next (bobbinFault n 3 s)) ∧
  (∀ b vd ag s n x, issuing (.vlda b vd ag) s = some (n, x) → 2048 ≤ (agReg x ag.toNat).cur.toNat →
    exec (.vlda b vd ag) s = .next (bobbinFault n 3 s)) ∧
  (∀ b vs ag p s n x, issuing (.vsta b vs ag p) s = some (n, x) → 2048 ≤ (agReg x ag.toNat).cur.toNat →
    exec (.vsta b vs ag p) s = .next (bobbinFault n 3 s)) ∧
  (∀ b sd sa off s n x, issuing (.sld b sd sa off) s = some (n, x) → 2048 ≤ addrOf (sReg x sa.toNat) off →
    exec (.sld b sd sa off) s = .next (bobbinFault n 4 s)) ∧
  (∀ b ss sa off s n x, issuing (.sst b ss sa off) s = some (n, x) → 2048 ≤ addrOf (sReg x sa.toNat) off →
    exec (.sst b ss sa off) s = .next (bobbinFault n 4 s)) ∧
  (∀ (n code : Nat) (s : State), (bobbin s n).kid < 16 → (bobbin s n).kid < s.engines.user.length → s.front.versions = [] →
    (kernel (bobbinFault n code s) (bobbin s n).kid).phase = .faulted ∧
    (kernel (bobbinFault n code s) (bobbin s n).kid).fault = BitVec.ofNat 8 code ∧
    (kernel (bobbinFault n code s) (bobbin s n).kid).faultBobbin = BitVec.ofNat 8 n)

/-- R233, R236: XFER begins a transfer or faults: with XFER_RANGE outside its window, outward to a window read only, misaligned,
or to the vendor window, else outside its own memory. XFER_COMPLETE moves its data, inward or outward, in the pillow's memory or in
common memory; the data are as they stand then (log entry 204, the model's choice). XWAIT and FENCE wait or go on. -/
def Obligations.TransfersBeginWaitAndComplete : Prop :=
  (∀ b sl sr sc tag scalar outward space s n x w, issuing (.xfer b sl sr sc tag scalar outward space) s = some (n, x) →
    windowOf (kernel s x.kid) space.toNat = some w →
    (sReg x sr.toNat).toNat + (sReg x sc.toNat).toNat * (if scalar then 4 else 40) ≤ w.size →
    (outward = true → w.writable = true) → (sReg x sr.toNat).toNat % (if scalar then 4 else 8) = 0 →
    (sReg x sl.toNat).toNat + (sReg x sc.toNat).toNat ≤ 2048 →
    exec (.xfer b sl sr sc tag scalar outward space) s = .next (putBobbin n (nextPc { x with
      transfers := x.transfers ++ [⟨tag.toNat, (sReg x sl.toNat).toNat, (sReg x sr.toNat).toNat, (sReg x sc.toNat).toNat,
        scalar, outward, space.toNat⟩] }) s)) ∧
  (∀ b sl sr sc tag scalar outward s n x, issuing (.xfer b sl sr sc tag scalar outward 3) s = some (n, x) →
    exec (.xfer b sl sr sc tag scalar outward 3) s = .next (bobbinFault n 5 s)) ∧
  (∀ b sl sr sc tag scalar outward space s n x w, issuing (.xfer b sl sr sc tag scalar outward space) s = some (n, x) →
    windowOf (kernel s x.kid) space.toNat = some w →
    w.size < (sReg x sr.toNat).toNat + (sReg x sc.toNat).toNat * (if scalar then 4 else 40) ∨
      (outward = true ∧ w.writable = false) ∨ (sReg x sr.toNat).toNat % (if scalar then 4 else 8) ≠ 0 →
    exec (.xfer b sl sr sc tag scalar outward space) s = .next (bobbinFault n 5 s)) ∧
  (∀ b sl sr sc tag scalar outward space s n x w, issuing (.xfer b sl sr sc tag scalar outward space) s = some (n, x) →
    windowOf (kernel s x.kid) space.toNat = some w →
    (sReg x sr.toNat).toNat + (sReg x sc.toNat).toNat * (if scalar then 4 else 40) ≤ w.size →
    (outward = true → w.writable = true) → (sReg x sr.toNat).toNat % (if scalar then 4 else 8) = 0 →
    2048 < (sReg x sl.toNat).toNat + (sReg x sc.toNat).toNat →
    exec (.xfer b sl sr sc tag scalar outward space) s = .next (bobbinFault n (if scalar then 4 else 3) s)) ∧
  (∀ k : Kernel, windowOf k 3 = none ∧ windowOf k 0 = some ⟨k.region, imgPillowKib k * 1024, false, true⟩ ∧
    windowOf k 1 = some ⟨k.spillBase, k.spill * 1048576, true, true⟩ ∧
    (windowOf k 2).any (fun w => !w.writable && w.common) = true) ∧
  (∀ (b : Fin 128) (tag : BitVec 3) ecc s tr rest, blockRuns .bobbin s = true →
    takeTransfer tag.toNat (bobbin s b.val).transfers = some (tr, rest) →
    exec (.xferComplete b tag ecc) s = .next (updBobbin b.val resumeXfer (moveData b.val tr ecc
      (updBobbin b.val (fun x => { x with transfers := rest }) s)))) ∧
  (∀ b sd tag s n x, issuing (.xwait b sd tag) s = some (n, x) → (x.transfers.any fun u => u.tag == tag.toNat) = false →
    exec (.xwait b sd tag) s = .next (putBobbin n (nextPc { x with
      s := x.s.set sd.toNat (if x.tagUe.contains tag.toNat then 1 else 0)
      tagUe := x.tagUe.filter fun u => u ≠ tag.toNat }) s)) ∧
  (∀ b sd tag s n x, issuing (.xwait b sd tag) s = some (n, x) → (x.transfers.any fun u => u.tag == tag.toNat) = true →
    exec (.xwait b sd tag) s = .next (putBobbin n { x with wait := some (.tag tag.toNat sd.toNat), waitSpan := ⟨s.now.real, 0⟩ } s)) ∧
  (∀ b s n x, issuing (.fence b) s = some (n, x) → (x.transfers.any fun u => u.outward) = false →
    exec (.fence b) s = .next (putBobbin n (nextPc x) s)) ∧
  (∀ b s n x, issuing (.fence b) s = some (n, x) → (x.transfers.any fun u => u.outward) = true →
    exec (.fence b) s = .next (putBobbin n { x with wait := some .fence, waitSpan := ⟨s.now.real, 0⟩ } s)) ∧
  (∀ (n : Nat) (tr : Transfer) (ecc : List EccHit) (s : State) (w : Window), windowOf (kernel s (bobbin s n).kid) tr.space = some w →
    tr.outward = true → w.common = false →
    moveData n tr ecc s = putPillow (n / 16) (fun m => memSetBytes m (w.base + tr.remote) (giveItems tr (bobbin s n))) s) ∧
  (∀ (n : Nat) (tr : Transfer) (ecc : List EccHit) (s : State) (w : Window), windowOf (kernel s (bobbin s n).kid) tr.space = some w →
    tr.outward = true → w.common = true →
    moveData n tr ecc s = dramWrite s (w.base + tr.remote) (giveItems tr (bobbin s n))) ∧
  (∀ (n : Nat) (tr : Transfer) (ecc : List EccHit) (s : State) (w : Window) (bs : List Byte),
    windowOf (kernel s (bobbin s n).kid) tr.space = some w → tr.outward = false → w.common = false →
    bs = memBytes (s.engines.pillows.getD (n / 16) []) (w.base + tr.remote) (tr.count * itemSize tr.scalar) →
    moveData n tr ecc s = updBobbin n (fun x => { takeItems tr bs x with
      tagUe := if ecc.any (·.double) then insNat x.tagUe tr.tag else x.tagUe }) s) ∧
  (∀ (n : Nat) (tr : Transfer) (s : State) (w : Window) (bs : List Byte),
    windowOf (kernel s (bobbin s n).kid) tr.space = some w → tr.outward = false → w.common = true → transferBad s w tr = [] →
    bs = memBytes s.dram (w.base + tr.remote) (tr.count * itemSize tr.scalar) →
    moveData n tr [] s = updBobbin n (takeItems tr bs) (correctRead (w.base + tr.remote) (tr.count * itemSize tr.scalar) s)) ∧
  (∀ (n k : Nat) (tr : Transfer) (s : State) (w : Window) (bs : List Byte), n < s.engines.bobbins.length →
    windowOf (kernel s (bobbin s n).kid) tr.space = some w → tr.outward = false → w.common = true → transferBad s w tr = [k] →
    bs = memBytes s.dram (w.base + tr.remote) (tr.count * itemSize tr.scalar) →
    (bobbin (moveData n tr [] s) n) = { takeItems tr bs (bobbin s n) with tagUe := insNat (bobbin s n).tagUe tr.tag } ∧
    (moveData n tr [] s).accCnt.memUeCommon = satAdd s.accCnt.memUeCommon 1) ∧
  (∀ (tr : Transfer) (bs : List Byte) (x : Bobbin),
    (tr.scalar = true → takeItems tr bs x = { x with smem := smSetMany 0 x.smem tr.localAddr (takeWords tr.count bs) }) ∧
    (tr.scalar = false → takeItems tr bs x = { x with vmem := smSetMany zeroVec x.vmem tr.localAddr (bytesVecs tr.count bs) }))

/-- R234, R241, R236, R255: the stream queues, HALT and PUBLISH. With no version in the pipeline front, a pop takes the
front element of its queue and latches its metadata, and a push to a kernel that has no output is fault PUSH_COUNT. -/
def Obligations.StreamQueuesAndEndsOfRuns : Prop :=
  (∀ b vd (queue : Fin 2) s n x, issuing (.spop b vd queue) s = some (n, x) → (if queue = 0 then x.in0 else x.in1) = [] →
    exec (.spop b vd queue) s = .next (putBobbin n { x with wait := some (.queueIn queue.val vd.toNat), waitSpan := ⟨s.now.real, 0⟩ } s)) ∧
  (∀ b vd s n x e es, issuing (.spop b vd 1) s = some (n, x) → x.in1 = e :: es → s.front.versions = [] →
    endUnpushed s 1 x = false →
    exec (.spop b vd 1) s = .next (putBobbin n (nextPc { x with
      v := x.v.set vd.toNat e.vec, in1 := es, meta1 := e.fields, idleSpan := ⟨s.now.real, 0⟩ }) s)) ∧
  (∀ b vd s n x e es, issuing (.spop b vd 0) s = some (n, x) → x.in0 = e :: es → s.front.versions = [] → x.owed = [] →
    endUnpushed s 0 x = false → bitAt (x.meta0.getD 0 0) 9 = false →
    exec (.spop b vd 0) s = .next (putBobbin n (nextPc { x with
      v := x.v.set vd.toNat e.vec, in0 := es, meta0 := e.fields, idleSpan := ⟨s.now.real, 0⟩ }) s)) ∧
  (∀ b vd (queue : Fin 2) s n x e es, issuing (.spop b vd queue) s = some (n, x) →
    (if queue = 0 then x.in0 else x.in1) = e :: es → endUnpushed s queue.val x = true →
    exec (.spop b vd queue) s = .next (bobbinFault n 7 s)) ∧
  (∀ b vs s n x, issuing (.spush b vs) s = some (n, x) → pushFaults s n = true →
    exec (.spush b vs) s = .next (bobbinFault n 7 s)) ∧
  (∀ b vs s n x, issuing (.spush b vs) s = some (n, x) → pushFaults s n = false → 32 ≤ x.outq.length →
    exec (.spush b vs) s = .next (putBobbin n { x with wait := some (.queueOut vs.toNat), waitSpan := ⟨s.now.real, 0⟩ } s)) ∧
  (∀ b vs s n x, issuing (.spush b vs) s = some (n, x) → pushFaults s n = false → x.outq.length < 32 →
    exec (.spush b vs) s = .next (pump (putBobbin n (nextPc { x with
      outq := x.outq ++ [⟨vReg x vs.toNat, []⟩], idleSpan := ⟨s.now.real, 0⟩ }) s))) ∧
  (∀ (b : Fin 128) s vd e es, grantedAt s (b.val / 16) = true → blockRuns .bobbin s = true →
    (bobbin s b.val).wait = some (.queueIn 1 vd) →
    (bobbin s b.val).in1 = e :: es → s.front.versions = [] → endUnpushed s 1 (bobbin s b.val) = false →
    exec (.queueWaitRelease b) s = .next (putBobbin b.val (nextPc { bobbin s b.val with
      v := (bobbin s b.val).v.set vd e.vec, in1 := es, meta1 := e.fields, idleSpan := ⟨s.now.real, 0⟩ }) s)) ∧
  (∀ b s n x, issuing (.halt b) s = some (n, x) → imgSlot (kernel s x.kid) = 1 ∨ imgSlot (kernel s x.kid) = 2 →
    exec (.halt b) s = .next (bobbinFault n 8 s)) ∧
  (∀ b s n x, issuing (.halt b) s = some (n, x) → imgSlot (kernel s x.kid) = 3 ∨ imgSlot (kernel s x.kid) = 4 →
    exec (.halt b) s = .next (putBobbin n { x with running := false, halted := true } s)) ∧
  (∀ b s n x c, issuing (.halt b) s = some (n, x) → imgSlot (kernel s x.kid) = 0 → c ∈ (kernel s x.kid).bobbins → c ≠ n →
    (bobbin s c).halted = false →
    exec (.halt b) s = .next (putBobbin n { x with running := false, halted := true } s)) ∧
  (∀ b s n x u, issuing (.halt b) s = some (n, x) → imgSlot (kernel s x.kid) = 0 →
    (∀ c ∈ (kernel s x.kid).bobbins, c ≠ n → (bobbin s c).halted = true) →
    u = putBobbin n { x with running := false, halted := true } s →
    exec (.halt b) s = .next (endKernel x.kid .stopped (finishKernel x.kid u)) ∧
    (x.kid < 16 → x.kid < s.engines.user.length → (kernel (endKernel x.kid .stopped (finishKernel x.kid u)) x.kid).phase = .stopped)) ∧
  (∀ b t s n x, issuing (.publish b t) s = some (n, x) → imgResult (kernel s x.kid) = 0xFFFFFFFF →
    exec (.publish b t) s = .next (putBobbin n (nextPc x) (setNow t s))) ∧
  (∀ b t s n x, issuing (.publish b t) s = some (n, x) → imgResult (kernel s x.kid) ≠ 0xFFFFFFFF →
    (kernel s x.kid).lastResult = none → x.kid < s.engines.user.length → x.kid < 16 → ∃ u, exec (.publish b t) s = .next u ∧
      (kernel u x.kid).resultSeq = (kernel s x.kid).resultSeq + 1 ∧
      (kernel u x.kid).result = memWords (s.engines.pillows.getD (n / 16) [])
        ((kernel s x.kid).region + (imgResult (kernel s x.kid)).toNat) 64 ∧
      (kernel u x.kid).lastResult = some (setNow t s).now.real ∧ bobbin u n = nextPc x)

/-- R235: BAR, SEM and ATOM. A barrier releases every bobbin of the kernel in the pillow when all have reached it; a
semaphore counts posts and makes waits wait at 0; ATOM updates one aligned word of the kernel's pillow region and returns
the old word, and faults outside the region. Where the signed and the unsigned order of two words differ, the result of ATOM MIN and
MAX is one of the two, by a free bit (log entry 60); a POST past 2^16 - 1 leaves a free count (log entry 59): the model's choices. -/
def Obligations.PillowSynchronisation : Prop :=
  (∀ b (k : Fin 4) s n x, issuing (.bar b k) s = some (n, x) →
    exec (.bar b k) s = .next (putBobbin n { x with wait := some (.barrier k.val), waitSpan := ⟨s.now.real, 0⟩ } s)) ∧
  (∀ (b : Fin 128) (k : Nat) s, grantedAt s (b.val / 16) = true → blockRuns .bobbin s = true →
    (bobbin s b.val).wait = some (.barrier k) →
    (∀ c ∈ (kernel s (bobbin s b.val).kid).bobbins, c / 16 = b.val / 16 → (bobbin s c).wait = some (.barrier k)) →
    exec (.barrierRelease b) s = .next (((kernel s (bobbin s b.val).kid).bobbins.filter fun c => c / 16 == b.val / 16).foldl
      (fun s c => putBobbin c (nextPc (bobbin s c)) s) s)) ∧
  (∀ (b : Fin 128) (k c : Nat) s, grantedAt s (b.val / 16) = true → blockRuns .bobbin s = true →
    (bobbin s b.val).wait = some (.barrier k) →
    c ∈ (kernel s (bobbin s b.val).kid).bobbins → c / 16 = b.val / 16 → (bobbin s c).wait ≠ some (.barrier k) →
    exec (.barrierRelease b) s = .next s) ∧
  (∀ b (k : Fin 4) s n x, issuing (.sem b false k) s = some (n, x) → semOf s n k.val ≠ 0xFFFF →
    exec (.sem b false k) s = .next (putBobbin n (nextPc x) (setSem n k.val (semOf s n k.val + 1) s))) ∧
  (∀ b (k : Fin 4) s n x, issuing (.sem b true k) s = some (n, x) → semOf s n k.val ≠ 0 →
    exec (.sem b true k) s = .next (putBobbin n (nextPc x) (setSem n k.val (semOf s n k.val - 1) s))) ∧
  (∀ b (k : Fin 4) s n x, issuing (.sem b true k) s = some (n, x) → semOf s n k.val = 0 →
    exec (.sem b true k) s = .next (putBobbin n { x with wait := some (.semaphore k.val), waitSpan := ⟨s.now.real, 0⟩ } s)) ∧
  (∀ (b : Fin 128) (k : Nat) s, grantedAt s (b.val / 16) = true → blockRuns .bobbin s = true →
    (bobbin s b.val).wait = some (.semaphore k) →
    semOf s b.val k ≠ 0 → exec (.semWaitRelease b) s =
      .next (putBobbin b.val (nextPc (bobbin s b.val)) (setSem b.val k (semOf s b.val k - 1) s))) ∧
  (∀ b sd sa sb op s n x, issuing (.atom b sd sa sb op) s = some (n, x) →
    (sReg x sa.toNat).toNat % 4 ≠ 0 ∨ imgPillowKib (kernel s x.kid) * 1024 < (sReg x sa.toNat).toNat + 4 →
    exec (.atom b sd sa sb op) s = .next (bobbinFault n 5 s)) ∧
  (∀ b sd sa sb (op : BitVec 2) s n x, issuing (.atom b sd sa sb op) s = some (n, x) → op.toNat < 2 →
    (sReg x sa.toNat).toNat % 4 = 0 → (sReg x sa.toNat).toNat + 4 ≤ imgPillowKib (kernel s x.kid) * 1024 →
    exec (.atom b sd sa sb op) s =
      .next (putBobbin n (nextPc { x with s := x.s.set sd.toNat (memWord (s.engines.pillows.getD (n / 16) [])
          ((kernel s x.kid).region + (sReg x sa.toNat).toNat)) })
        (putPillow (n / 16) (fun m => memSetWord m ((kernel s x.kid).region + (sReg x sa.toNat).toNat)
          (if op = 0 then memWord (s.engines.pillows.getD (n / 16) [])
              ((kernel s x.kid).region + (sReg x sa.toNat).toNat) + sReg x sb.toNat
            else sReg x sb.toNat)) s))) ∧
  (∀ b sd sa sb (op : BitVec 2) s n x old, issuing (.atom b sd sa sb op) s = some (n, x) → 2 ≤ op.toNat →
    (sReg x sa.toNat).toNat % 4 = 0 → (sReg x sa.toNat).toNat + 4 ≤ imgPillowKib (kernel s x.kid) * 1024 →
    old = memWord (s.engines.pillows.getD (n / 16) []) ((kernel s x.kid).region + (sReg x sa.toNat).toNat) →
    ∃ w, exec (.atom b sd sa sb op) s = .next (putBobbin n (nextPc { x with s := x.s.set sd.toNat old })
        (putPillow (n / 16) (fun m => memSetWord m ((kernel s x.kid).region + (sReg x sa.toNat).toNat) w)
          { s with free := if bitAt old 31 = bitAt (sReg x sb.toNat) 31 then s.free else s.free + 1 })) ∧
      (w = old ∨ w = sReg x sb.toNat) ∧
      (bitAt old 31 = bitAt (sReg x sb.toNat) 31 → op = 2 → w.toNat = min old.toNat (sReg x sb.toNat).toNat ∧
        w.toInt = min old.toInt (sReg x sb.toNat).toInt) ∧
      (bitAt old 31 = bitAt (sReg x sb.toNat) 31 → op = 3 → w.toNat = max old.toNat (sReg x sb.toNat).toNat ∧
        w.toInt = max old.toInt (sReg x sb.toNat).toInt)) ∧
  (∀ b (k : Fin 4) s n x, issuing (.sem b false k) s = some (n, x) → semOf s n k.val = 0xFFFF →
    exec (.sem b false k) s = .next (putBobbin n (nextPc x)
      (setSem n k.val (fld (Config.freeWord s.free) 0 16) { s with free := s.free + 1 })))
/-! ### The Bureau (R320–R348) -/

/-- One step takes the command at the front of the queue and runs it with the queue's rest; an empty queue idles (the idle
step is the model's choice, log entry 1). -/
def Obligations.StepRunsTheFrontCommand : Prop :=
  (∀ (c : Instr) (rest : List Instr) (s : State), s.pending = c :: rest → step s = exec c { s with pending := rest }) ∧
  (∀ s : State, s.pending = [] → step s = .next s)

/-- No command stops the block: every step from every state answers a next state. -/
def Obligations.EveryStepGoesOn : Prop := ∀ s : State, safeStep s

/-- A command changes everything but the queue of waiting commands: after a step the queue is what it was without its
front. -/
def Obligations.StepConsumesOnlyTheFrontCommand : Prop :=
  ∀ s t : State, step s = .next t → t.pending = s.pending.tail

/-- R90, R17, R224, R408: the memory wafer, the pillow memories, the bobbins' vector and scalar memories and the eMRAM are kept in
their canonical form (keys rising, no value listed that an unlisted one reads as) by every step, whatever the command. -/
def Obligations.MemoryWaferStaysCanonical : Prop :=
  (∀ s t : State, Mem.wf s.dram → step s = .next t → Mem.wf t.dram) ∧
  (∀ s t : State, (∀ m ∈ s.engines.pillows, Mem.wf m) → step s = .next t → ∀ m ∈ t.engines.pillows, Mem.wf m) ∧
  (∀ s t : State, (∀ x ∈ s.engines.bobbins, smWf zeroVec x.vmem = true ∧ smWf 0 x.smem = true) → step s = .next t →
    ∀ x ∈ t.engines.bobbins, smWf zeroVec x.vmem = true ∧ smWf 0 x.smem = true) ∧
  (∀ s t : State, Mem.wf s.nvm.cells → step s = .next t → Mem.wf t.nvm.cells)

/-- The memory wafer, the pillow memories, the bobbins' memories and the eMRAM are canonical after reset, and the queue of waiting
commands is empty. -/
def Obligations.ResetMemoryIsCanonical : Prop :=
  Mem.wf State.reset.dram ∧ (∀ m ∈ State.reset.engines.pillows, Mem.wf m) ∧ State.reset.pending = [] ∧
  (∀ x ∈ State.reset.engines.bobbins, smWf zeroVec x.vmem = true ∧ smWf 0 x.smem = true) ∧ Mem.wf State.reset.nvm.cells

/-- R90: a write to the memory wafer stores exactly its bytes, from its address upward, keeps the canonical form, and
clears the error marks of the words it touches (R94). -/
def Obligations.MemoryWritesStoreTheirBytes : Prop :=
  (∀ (s : State) (a c : Nat) (bs : List Byte), Mem.wf s.dram →
    memGet (dramWrite s a bs).dram c = if a ≤ c ∧ c < a + bs.length then bs.getD (c - a) 0 else memGet s.dram c) ∧
  (∀ (s : State) (a : Nat) (bs : List Byte), Mem.wf s.dram → Mem.wf (dramWrite s a bs).dram) ∧
  (∀ (s : State) (a w : Nat) (bs : List Byte), bs ≠ [] →
    (w ∈ (dramWrite s a bs).dramBad ↔ w ∈ s.dramBad ∧ ¬(a / 8 ≤ w ∧ w ≤ (a + bs.length - 1) / 8))) ∧
  (∀ (s : State) (a w : Nat) (bs : List Byte), bs ≠ [] →
    (w ∈ (dramWrite s a bs).dramSoft ↔ w ∈ s.dramSoft ∧ ¬(a / 8 ≤ w ∧ w ≤ (a + bs.length - 1) / 8))) ∧
  (∀ (s : State) (a : Nat) (bs : List Byte),
    { dramWrite s a bs with dram := s.dram, dramBad := s.dramBad, dramSoft := s.dramSoft } = s) ∧
  (∀ (m : Mem) (a : Nat) (w : Word), Mem.wf m → memWord (memSetWord m a w) a = w)

/-- R320, R331, R334: a packet that arrives is queued behind those that arrived before it, and within one cycle of
BCLK trunk,
TWA and TWB in that order; a requester's full queue answers BUSY with DETAIL 1, an intact retry of a command still
queued
or executing is dropped, a packet for another node is not for the Bureau, and while the Bureau is in reset a trunk
packet
is discarded and counted. The model's choices in it: log entries 24, 28, 74, 75 and 193. -/
def Obligations.CommandArrivalQueuesThePacket : Prop :=
  (∀ t path bytes s p, packetOn path bytes (setNow t s) = some p → s.rst.asserted.contains .bureau = false →
    s.power.phase ≠ .doze → (crcOk p && stillOpen (setNow t s) p) = false →
    queued (setNow t s) p.req < queueSize p.req →
    exec (.commandArrival t path bytes) s = .next (settleAll (notePeakQueue { setNow t s with
      bureau := { s.bureau with queue := placePacket (bclkLen (setNow t s)) p s.bureau.queue } }))) ∧
  (∀ t path bytes s p, packetOn path bytes (setNow t s) = some p → s.rst.asserted.contains .bureau = false →
    s.power.phase ≠ .doze → (crcOk p && stillOpen (setNow t s) p) = true →
    exec (.commandArrival t path bytes) s = .next (unanswered p (setNow t s))) ∧
  (∀ (n : Nat) (p : Packet) (q : List Packet), (placePacket n p q).filter (fun x => x != p) = q.filter (fun x => x != p) ∧
    (placePacket n p q).length = q.length + 1 ∧ p ∈ placePacket n p q) ∧
  (∀ (n : Nat) (p : Packet) (q : List Packet), (∀ x ∈ q, x.arrived.real / n ≠ p.arrived.real / n ∨
    max 1 (reqClass x.req) ≤ max 1 (reqClass p.req)) → placePacket n p q = q ++ [p]) ∧
  (∀ t path bytes s p, packetOn path bytes (setNow t s) = some p → s.rst.asserted.contains .bureau = false →
    s.power.phase ≠ .doze → (crcOk p && stillOpen (setNow t s) p) = false →
    queueSize p.req ≤ queued (setNow t s) p.req →
    exec (.commandArrival t path bytes) s = .next (answerRefusal p .busy 1 (setNow t s))) ∧
  (∀ t path bytes s, packetOn path bytes (setNow t s) = none → exec (.commandArrival t path bytes) s = .next (setNow t s)) ∧
  (∀ t port src dest bytes s, s.rst.asserted.contains .bureau = true → s.ring.addrPhase = .confirmed → dest = s.ring.addr →
    exec (.commandArrival t (.trunk port src dest) bytes) s = .next { setNow t s with
      bureau := { s.bureau with cmdsDiscarded := satInc s.bureau.cmdsDiscarded } }) ∧
  (∀ t (src : BitVec 7) s, exec (.cmdPacketTimeout t src) s = .next { setNow t s with bureau := { s.bureau with
    assembling := s.bureau.assembling.filter fun a => !(a.src == src && decide (a.last.real + 1600000 ≤ (setNow t s).now.real))
    cmdsDiscarded := satAdd s.bureau.cmdsDiscarded (s.bureau.assembling.filter fun a =>
      a.src == src && decide (a.last.real + 1600000 ≤ (setNow t s).now.real)).length } }) ∧
  (∀ r : Requester, queueSize r = match r with
    | .owner => 16
    | .node _ => 4
    | .twa => 1
    | .twb => 1)

/-- R324, R329, R331: what a reply is. It names its command, its status and DETAIL, and DONE for OK, PENDING and a LATE that
took effect; a refused command leaves the state its command found; the reply is stored with its requester's last 64. A row
whose Bureau finds its own state inconsistent answers INTERNAL_FAULT without executing the command, counts CMD_FAULTS and
raises CMD_FAULT with OPCODE and TAG (R340, R345; what counts as inconsistent is the model's choice, log entry 179). The
model's choices in it: log entries 7, 21, 22, 24, 27 and 30. -/
def Obligations.RepliesNameTheirCommandAndStatus : Prop :=
  (∀ (t : Instant) (op : Nat) (body : Cmd → State → CmdResult) (s s1 : State) (p : Packet), taking t op s = some (p, s1) →
    bureauSound s1 = false → runCmd t op body s = .next (settleAll (faultCmd p s1))) ∧
  (∀ (t : Instant) (s s1 : State) (p : Packet), taking t 0x0001 s = some (p, s1) → bureauSound s1 = false →
    exec (.identify t) s = .next (settleAll (faultCmd p s1))) ∧
  (∀ (p : Packet) (s : State), logBlocked s = false → ∃ u, faultCmd p s = answerRefusal p .internalFault 0xFF u ∧
    u.bureau = { s.bureau with cmdFaults := satInc s.bureau.cmdFaults } ∧
    u.events = logHeld s.events ⟨0x0003, BitVec.ofNat 16 (pktOp p), wordOf (pktTag p).toNat, 0, ringStamp s⟩ ∧
    u.dram = s.dram ∧ u.exposure = s.exposure ∧ u.engines = s.engines ∧ u.streams = s.streams) ∧
  (∀ (p : Packet) (s : State), logBlocked s = true → (faultCmd p s).events.log = s.events.log) ∧
  (∀ (p : Packet) (dup : Bool) (r : CmdResult), r.results.length ≤ pathWords p.via → r.detail < 256 →
    ∃ h0 h1 h2, replyWords p dup r = [h0, h1, h2] ++ r.results ∧ fldN h0 0 16 = pktOp p ∧
      bitAt h0 16 = statusDone r.status ∧ bitAt h0 17 = false ∧ bitAt h0 18 = dup ∧
      fldN h0 24 8 = (r.ver.getD (pktVer p)) % 256 ∧
      fldN h1 0 16 = (pktTag p).toNat ∧ fldN h1 16 16 = r.results.length ∧
      fldN h2 24 8 = r.detail ∧ fldN h2 0 16 = statusCode r.status) ∧
  (∀ st : Status, statusDone st = true ↔ st = .ok ∨ st = .pending ∨ st = .late) ∧
  (∀ (p : Packet) (r : CmdResult) (s1 : State), statusDone r.status = false → r.keeps = false →
    finishCmd p r s1 = settleAll (answer p r s1)) ∧
  (∀ (p : Packet) (ws : List Word) (s : State),
    ((storeReply p ws s).bureau.stored.filter fun x => reqClass x.req == reqClass p.req).length ≤ 64 ∧
    (∃ x ∈ (storeReply p ws s).bureau.stored, x.req = p.req ∧ x.tag = pktTag p ∧ x.words = ws) ∧
    (storeReply p ws s).bureau.stored.filter (fun x => reqClass x.req != reqClass p.req) =
      s.bureau.stored.filter (fun x => reqClass x.req != reqClass p.req))

/-- R323: a packet's CRC-32 is the last word of what `withCrc` builds, and the check of a packet accepts it. -/
def Obligations.PacketsCarryTheirCrc : Prop :=
  (∀ (p : Packet) (ws : List Word), 3 ≤ ws.length → (ws.getD 1 0).toNat / 65536 + 3 = ws.length →
    p.bytes = wordsBytes (withCrc ws) → crcOk p = true ∧ pktOp p = (ws.getD 0 0).toNat % 65536 ∧
      (cmdOf p).words = ws.drop 3) ∧
  crc32 [0x31, 0x32, 0x33, 0x34, 0x35, 0x36, 0x37, 0x38, 0x39] = 0xCBF43926

/-- R337, R338, R339, R344: IDENTIFY, NEGOTIATE, GET_STATUS and GET_EVENTS answer at once. Session version: the lesser of
HOST_MAX and 2, refused below HOST_MIN. The model's choices in it: log entry 23. -/
def Obligations.QueriesAnswerFromTheState : Prop :=
  (∀ t s p s1, taken t 0x0001 s = some (p, s1) → exec (.identify t) s = .next (finishCmd p (cmdOk s1
    [mkWord [(0x5016, 16), (b2n s1.rst.fuses.es, 9), (b2n s1.rst.fuses.variantMl, 8), (s1.rst.fuses.stepping.toNat, 0)],
      fld s1.rst.fuses.deviceId 0 32, fld s1.rst.fuses.deviceId 32 32,
      mkWord [(s1.nvm.fwMajor.toNat, 24), (s1.nvm.fwMinor.toNat, 16), (s1.nvm.fwBuild.toNat, 0)],
      mkWord [(2, 8), (2, 4), (0, 0)],
      mkWord [(b2n s1.nvm.activeB, 8), (b2n (s1.ring.addrPhase == .confirmed), 7), (s1.ring.addr.toNat, 0)]]) s1)) ∧
  (∀ t s p s1 w, taken t 0x0002 s = some (p, s1) → (cmdOf p).words = [w] → fldN w 16 16 = 0 →
    fldN w 8 8 ≤ min (fldN w 0 8) 2 → 1 ≤ fldN w 0 8 →
    exec (.negotiate t) s = .next (finishCmd p { cmdOk (setSession p.req (BitVec.ofNat 8 (min (fldN w 0 8) 2)) s1)
      [mkWord [(1, 16), (2, 8), (min (fldN w 0 8) 2, 0)]] with ver := some (min (fldN w 0 8) 2) } s1)) ∧
  (∀ t s p s1 w, taken t 0x0002 s = some (p, s1) → (cmdOf p).words = [w] → fldN w 16 16 = 0 →
    min (fldN w 0 8) 2 < fldN w 8 8 ∨ fldN w 0 8 = 0 →
    exec (.negotiate t) s = .next (finishCmd p (cmdRefuse s1 .versionUnsupported) s1)) ∧
  (∀ t s p s1 ws, taken t 0x0003 s = some (p, s1) → sectionWords s1 (fldN (par p 0) 0 8) = some ws →
    fldN (par p 0) 16 16 < ws.length → fldN (par p 0) 8 8 = 0 →
    exec (.getStatus t) s = .next (finishCmd p (cmdOk s1
      (mkWord [(ws.length, 16), (fldN (par p 0) 0 8, 0)] :: ws.drop (fldN (par p 0) 16 16))) s1)) ∧
  (∀ t s p s1, taken t 0x0003 s = some (p, s1) → 14 ≤ fldN (par p 0) 0 8 →
    exec (.getStatus t) s = .next (finishCmd p (cmdBad s1 0) s1)) ∧
  (∀ t s p s1, taken t 0x0004 s = some (p, s1) → firstReserved (cmdOf p).words [0xFFFFFFFF, 0x1FF] = none →
    bitAt (par p 1) 8 = true → (par p 0 - s1.events.acked).toNat ≤ (s1.events.nextSeq - 1 - s1.events.acked).toNat →
    fldN (par p 1) 0 8 ≤ (if p.via.isSome then 212 else 5) →
    exec (.getEvents t) s = .next (finishCmd p (cmdOk { s1 with events := { s1.events with acked := par p 0 } }
      ([s1.events.nextSeq - 1, par p 0] ++ ((unacked { s1.events with acked := par p 0 }).take
        (fldN (par p 1) 0 8)).flatMap recordWords)) s1)) ∧
  (∀ t s p s1, taken t 0x0004 s = some (p, s1) → firstReserved (cmdOf p).words [0xFFFFFFFF, 0x1FF] = none →
    bitAt (par p 1) 8 = false → fldN (par p 1) 0 8 ≤ (if p.via.isSome then 212 else 5) →
    exec (.getEvents t) s = .next (finishCmd p (cmdOk s1 ([s1.events.nextSeq - 1, s1.events.acked] ++
      ((unacked s1.events).take (fldN (par p 1) 0 8)).flatMap recordWords)) s1)) ∧
  (∀ t s p s1, taken t 0x0004 s = some (p, s1) → firstReserved (cmdOf p).words [0xFFFFFFFF, 0x1FF] = none →
    bitAt (par p 1) 8 = true → (s1.events.nextSeq - 1 - s1.events.acked).toNat < (par p 0 - s1.events.acked).toNat →
    exec (.getEvents t) s = .next (finishCmd p (cmdBad s1 0) s1)) ∧
  (∀ t s p s1, taken t 0x0004 s = some (p, s1) → firstReserved (cmdOf p).words [0xFFFFFFFF, 0x1FF] = none →
    bitAt (par p 1) 8 = false → (if p.via.isSome then 212 else 5) < fldN (par p 1) 0 8 →
    exec (.getEvents t) s = .next (finishCmd p (cmdBad s1 1) s1)) ∧
  (∀ s : State, sectionWords s 0 = some (secSystem s) ∧ sectionWords s 9 = some (secReset s) ∧
    sectionWords s 13 = some (secMcv s) ∧ sectionWords s 14 = none)

/-- R341–R343, R357: an event record takes the next EVSEQ; while 255 records are unacknowledged an event is counted lost, and the
next record logged is EVENTS_LOST; while the memory wafer refreshes itself an event waits. EVENT_SEND sends up to ten records to
node 0 in one packet and goes on behind the last of them. Where EVENTS_LOST takes the last room of the 255, the event it precedes
counts as lost (log entry 22, the model's choice). -/
def Obligations.EventLogNumbersAndLosesRecords : Prop :=
  (∀ (e : EventLog) (h : HeldEvent), unackedCount e < 255 → e.lostSince = 0 →
    (logHeld e h).nextSeq = e.nextSeq + 1 ∧
    (logHeld e h).log.getLast? = some ⟨e.nextSeq, h.code, h.arg0, h.arg1, h.arg2, h.stamp⟩ ∧
    (logHeld e h).acked = e.acked ∧ (logHeld e h).lost = e.lost) ∧
  (∀ (e : EventLog) (h : HeldEvent), 255 ≤ unackedCount e →
    logHeld e h = { e with lost := satInc e.lost, lostSince := satInc e.lostSince }) ∧
  (∀ (e : EventLog) (h : HeldEvent), e.log.length ≤ 256 → (logHeld e h).log.length ≤ 256) ∧
  (∀ t s, (toSendRecords s.events).take 10 ≠ [] → s.ring.addrPhase = .confirmed → s.ring.ownerLost = false →
    s.rst.asserted.contains .bureau = false → s.bureau.ready = true → s.power.phase ≠ .doze → s.power.phase ≠ .stow →
    ∃ u, exec (.eventSend t) s = .next u ∧
      ((toSendRecords s.events).take 10).getLast?.map (fun r => r.seq + 1) = some u.events.toSend ∧
      u.out.events = s.out.events ++ [withCrc (mkWord [(2, 24), (((toSendRecords s.events).take 10).length, 16)] ::
        ((toSendRecords s.events).take 10).flatMap recordWords)] ∧ u.events.log = s.events.log ∧
      u.dram = s.dram ∧ u.exposure = s.exposure ∧ u.engines = s.engines ∧ u.bureau = s.bureau) ∧
  (∀ (c a0 a1 a2 : Nat) (s : State), logBlocked s = true → (raise c a0 a1 a2 s).events.log = s.events.log ∧
    (raise c a0 a1 a2 s).events.held = s.events.held ++ [HeldEvent.mk (BitVec.ofNat 16 c) (BitVec.ofNat 16 a0) (wordOf a1) (wordOf a2)
      (ringStamp s)]) ∧
  (∀ (c a0 a1 a2 : Nat) (s : State), logBlocked s = false → raise c a0 a1 a2 s = { s with
    events := logHeld s.events (HeldEvent.mk (BitVec.ofNat 16 c) (BitVec.ofNat 16 a0) (wordOf a1) (wordOf a2) (ringStamp s)) }) ∧
  (∀ (e : EventLog) (h : HeldEvent), unackedCount e < 254 → e.lostSince ≠ 0 →
    (logHeld e h).log.drop ((logHeld e h).log.length - 2) = [⟨e.nextSeq, 0x0002, 0, e.lostSince, 0, h.stamp⟩,
      ⟨e.nextSeq + 1, h.code, h.arg0, h.arg1, h.arg2, h.stamp⟩] ∧
    (logHeld e h).lostSince = 0 ∧ (logHeld e h).lost = e.lost ∧ (logHeld e h).nextSeq = e.nextSeq + 2) ∧
  (∀ (e : EventLog) (h : HeldEvent), unackedCount e = 254 → e.lostSince ≠ 0 →
    (logHeld e h).log.getLast? = some ⟨e.nextSeq, 0x0002, 0, e.lostSince, 0, h.stamp⟩ ∧
    (logHeld e h).lostSince = 1 ∧ (logHeld e h).lost = satInc e.lost ∧ (logHeld e h).nextSeq = e.nextSeq + 1)

/-- R346–R348, R8, R9: PEEK reads words of a space, correcting and counting what they hold, with DETAIL 1 where one of them is
uncorrectable; POKE writes common memory outside the guarded regions but for its read-only and reserved bits, and nothing
else; and INJECT_PATTERN replaces the pattern. The model's choices in it: log entries 12, 130 and 212. -/
def Obligations.DiagnosticCommandsReachTheirSpace : Prop :=
  (∀ t ecc s p s1, taken t 0x0F01 s = some (p, s1) → firstReserved (cmdOf p).words [0xF, 0xFFFFFFFF, 0xFFFF] = none →
    fldN (par p 0) 0 4 = 1 → (cmdOf p).words.length = 3 → 1 ≤ fldN (par p 2) 0 16 → fldN (par p 2) 0 16 ≤ pathWords p.via →
    (par p 1).toNat % 4 = 0 → (par p 1).toNat + 4 * fldN (par p 2) 0 16 ≤ 0x40000000 →
    exec (.peek ⟨t, ecc⟩) s = .next (finishCmd p (peekRead ecc ((0xC0000000 + (par p 1).toNat) / 8)
      ((0xC0000000 + (par p 1).toNat + 4 * fldN (par p 2) 0 16 - 1) / 8)
      (fun u => memWords u.dram (0xC0000000 + (par p 1).toNat) (fldN (par p 2) 0 16)) s1) s1)) ∧
  (∀ (ecc : List EccHit) (lo hi : Nat) (data : State → List Word) (s : State),
    (∀ w ∈ s.dramBad ++ s.dramSoft ++ ecc.map (·.word), w < lo ∨ hi < w) →
    peekRead ecc lo hi data s = cmdOk s (data s)) ∧
  (∀ (ecc : List EccHit) (lo hi : Nat) (data : State → List Word) (s : State), (peekRead ecc lo hi data s).status = .ok ∧
    ((∃ w, w ∈ s.dramBad ∧ lo ≤ w ∧ w ≤ hi) → (peekRead ecc lo hi data s).detail = 1)) ∧
  (∀ ecc off n s, (peekPillow ecc off n s).status = .ok ∧
    ((peekPillow ecc off n s).detail = 1 ↔ ∃ h ∈ ecc, h.double = true ∧ 0x20100000 + off / 8 ≤ h.word ∧
      h.word ≤ 0x20100000 + (off + 4 * n - 1) / 8) ∧
    ((∀ h ∈ ecc, h.double = false) → peekPillow ecc off n s = cmdOk s (pillowWords s off n))) ∧
  (∀ t s p s1, taken t 0x0F04 s = some (p, s1) → (cmdOf p).words.length = 2 → 5 ≤ fldN (par p 0) 1 3 →
    exec (.injectPattern t) s = .next (finishCmd p (cmdBad s1 0) s1)) ∧
  (∀ t s p s1, taken t 0x0F02 s = some (p, s1) → firstReserved (cmdOf p).words [0xF, 0xFFFFFFFF] = none →
    fldN (par p 0) 0 4 = 1 → (par p 1).toNat % 4 = 0 → (par p 1).toNat + 4 * ((cmdOf p).words.drop 2).length ≤ 0x40000000 →
    guarded (par p 1).toNat ((cmdOf p).words.drop 2).length = false →
    exec (.poke t) s = .next (finishCmd p (cmdOk
      (pokeWords (fun u a => commonKept u (a - 0xC0000000)) (0xC0000000 + (par p 1).toNat) ((cmdOf p).words.drop 2) s1)) s1)) ∧
  (∀ (kept : State → Nat → Nat) (a : Nat) (w : Word) (ws : List Word) (s : State), kept s a = 0 →
    pokeWords kept a (w :: ws) s = pokeWords kept (a + 4) ws (dramWriteWords s a [w])) ∧
  (∀ (kept : State → Nat → Nat) (a : Nat) (w : Word) (ws : List Word) (s : State), kept s a = 0xFFFFFFFF →
    pokeWords kept a (w :: ws) s = pokeWords kept (a + 4) ws s) ∧
  (∀ (s : State) (off : Nat), partOf off ≠ .sampler → commonKept s off = 0) ∧
  (∀ t s p s1, taken t 0x0F02 s = some (p, s1) → firstReserved (cmdOf p).words [0xF, 0xFFFFFFFF] = none →
    fldN (par p 0) 0 4 = 2 → (par p 1).toNat % 4 = 0 → (par p 1).toNat + 4 * ((cmdOf p).words.drop 2).length ≤ 22 * 12288 * 4 →
    exec (.poke t) s = .next (finishCmd p (cmdRefuse s1 .notPermitted) s1)) ∧
  (∀ t s p s1 w0 w1, taken t 0x0F04 s = some (p, s1) → (cmdOf p).words = [w0, w1] →
    firstReserved [w0, w1] [0xF, 0xFFFFF] = none → fldN w0 1 3 ≤ 4 → 256 ≤ fldN w1 0 20 → fldN w1 0 20 ≤ 0xFFFFE →
    s1.rst.boot ≠ 2 →
    exec (.injectPattern t) s = .next (finishCmd p (cmdOk { s1 with bureau := { s1.bureau with
      pattern := { pattern := fld w0 1 3, enable := bitAt w0 0, level := fld w1 0 20 } } }) s1)) ∧
  (∀ t s p s1 w0 w1, taken t 0x0F04 s = some (p, s1) → (cmdOf p).words = [w0, w1] →
    firstReserved [w0, w1] [0xF, 0xFFFFF] = none → fldN w0 1 3 ≤ 4 → 256 ≤ fldN w1 0 20 → fldN w1 0 20 ≤ 0xFFFFE →
    s1.rst.boot = 2 → exec (.injectPattern t) s = .next (finishCmd p (cmdRefuse s1 .wrongState) s1))

/-! ### Exposure and capture (R41–R88) -/

/-- R44, R77, R74, R75: CAPTURE_CONFIG and SET_TRIGGER replace the settings in force, words not sent keeping theirs;
CAPTURE_START starts a capture with its first FRAME_ID; CAPTURE_STOP of a device that does not run answers the last frame
and changes nothing, a gentle stop lets the frame in progress finish, and IMMEDIATE = 1 abandons it; CAPTURE_CONFIG and
SET_TRIGGER are refused while capture runs. The model's choices in it: log entries 36, 143, 155, 181, 184 and 197. -/
def Obligations.CaptureCommandsReplaceTheSettings : Prop :=
  (∀ t s p s1 c, taken t 0x0102 s = some (p, s1) → c = captureOf (overlay (cmdOf p).words (captureWords s1.exposure.cfg)) →
    firstReserved (cmdOf p).words captureMasks = none → captureBad c = none →
    paramsValid s1.rst.fuses.variantMl c s1.exposure.inForce = true →
    (s1.exposure.trig.mode = 2 → periodOk s1 c s1.exposure.trig.rtPeriod = true) →
    s1.exposure.phase = .stopped → s1.clock.limp = false → s1.readout.test = none →
    (∀ x ∈ s1.history.frozenSet, x.1 = 0 ∨ (c.accum.histH = s1.exposure.cfg.accum.histH ∧
      (usesPreRef c = true → c.accum.histH.toNat + x.1 ≤ 19))) →
    pillowConflict s1 c s1.front.cfg = false →
    (c.exposure.flkSrc = 2 → s1.exposure.cfg.exposure.flkSrc ≠ 2 → (s1.timers.chans.getD 7 {}).running = false) →
    (c.exposure.flkSrc ≠ 2 → mcvNeedsMains s1 = false) →
    exec (.captureConfig t) s = .next (finishCmd p (cmdOk (arbitrate { s1 with exposure := { s1.exposure with
      cfg := c
      mainsEdges := if c.exposure.flkSrc = 2 ∧ s1.exposure.cfg.exposure.flkSrc ≠ 2 then [] else s1.exposure.mainsEdges } })) s1)) ∧
  (∀ t s p s1 c, taken t 0x0102 s = some (p, s1) → c = captureOf (overlay (cmdOf p).words (captureWords s1.exposure.cfg)) →
    firstReserved (cmdOf p).words captureMasks = none → captureBad c = none →
    paramsValid s1.rst.fuses.variantMl c s1.exposure.inForce = true →
    (s1.exposure.trig.mode = 2 → periodOk s1 c s1.exposure.trig.rtPeriod = true) → s1.exposure.phase ≠ .stopped →
    exec (.captureConfig t) s = .next (finishCmd p (cmdRefuse s1 .wrongState) s1)) ∧
  (∀ t s p s1 x, taken t 0x0106 s = some (p, s1) → x = triggerOf (overlay (cmdOf p).words (triggerWords s1.exposure.trig)) →
    firstReserved (cmdOf p).words [0xFF7F, 0xFFFFFFFF, 0xFFFFFFFF, 0xFFFFFFFF, 0xFFFFFFFF, 0xFF, 0xFFFFFFFF] = none →
    x.mode ≠ 3 → x.burst ≠ 0 → x.delay.toNat ≤ 100000000 →
    (x.mode = 1 → x.xoPin ≠ x.pin ∧ drivenByTimer s1 x.pin.toNat = false) →
    (s1.exposure.cfg.exposure.flkSrc = 2 → x.xoPin ≠ s1.exposure.cfg.exposure.mainsTrg) →
    (x.xoEn = true → drivenByTimer s1 x.xoPin.toNat = false) → periodOk s1 s1.exposure.cfg x.rtPeriod = true →
    exec (.setTrigger t) s = .next (finishCmd p (if s1.exposure.phase = .stopped then
      cmdOk { s1 with exposure := { s1.exposure with trig := x } } else cmdRefuse s1 .wrongState) s1)) ∧
  (∀ t s p s1, taken t 0x0101 s = some (p, s1) → firstReserved (cmdOf p).words [1] = none → s1.exposure.phase ≠ .running →
    exec (.captureStop t) s = .next (finishCmd p (cmdOk s1 [s1.exposure.lastFrame]) s1)) ∧
  (∀ t s p s1, taken t 0x0101 s = some (p, s1) → firstReserved (cmdOf p).words [1] = none → bitAt (par p 0) 0 = false →
    s1.exposure.phase = .running → s1.exposure.cur.isSome = true →
    exec (.captureStop t) s = .next (finishCmd p (cmdOk (settleStop { s1 with exposure := { s1.exposure with
      phase := .stopping, immediate := false, stopCause := .command, lastFrame := s1.exposure.frameId, nextFb := none
      burstLeft := 0, edgeDeferred := false, edgeQueue := [] } }) [s1.exposure.frameId]) s1)) ∧
  (∀ t s p s1, taken t 0x0101 s = some (p, s1) → firstReserved (cmdOf p).words [1] = none → bitAt (par p 0) 0 = true →
    s1.exposure.phase = .running →
    exec (.captureStop t) s = .next (finishCmd p (cmdOk (stopImmediate .command (lastWhole s1) s1) [lastWhole s1]) s1)) ∧
  (∀ (s : State) f r, s.exposure.cur = some f → s.readout.run = some r → r.frame = f → subFrames f.cfg ≤ s.exposure.nextJ →
    lastWhole s = f.id - 1) ∧
  (∀ (s : State) f, s.exposure.cur = some f → s.readout.run = none → subFrames f.cfg ≤ s.exposure.nextJ →
    lastWhole s = s.exposure.frameId) ∧
  (∀ (cause : StopCause) (last : FrameId) (s : State) f r ids, s.exposure.cur = some f → s.exposure.phase = .running →
    s.exposure.nextJ < subFrames f.cfg → s.readout.run = some r →
    ids = (if r.frame.id = f.id then [f.id] else [r.frame.id, f.id]) → lastWhole s = ids.headD 0 - 1 ∧
    (stopImmediate cause last s).exposure.phase = .stopping ∧ (stopImmediate cause last s).exposure.abandoned = ids ∧
    (stopImmediate cause last s).exposure.lastFrame = last ∧ (stopImmediate cause last s).exposure.stopCause = cause ∧
    (stopImmediate cause last s).exposure.nextFb = none ∧ (stopImmediate cause last s).accum.frames =
      s.accum.frames.filter (fun a => !ids.contains a.frame.id)) ∧
  (∀ t s p s1 first, taken t 0x0103 s = some (p, s1) → firstReserved (cmdOf p).words [1, 0xFFFFFFFF] = none →
    first = (if bitAt (par p 0) 0 then par p 1 else s1.exposure.frameId + 1) →
    (enabledTiles s1.exposure.cfg s1.readout.enableMask).isEmpty = false →
    (s1.exposure.trig.mode = 2 → (firstGrid s1).isSome = true ∧ periodOk s1 s1.exposure.cfg s1.exposure.trig.rtPeriod = true) →
    s1.power.phase = .idle → s1.exposure.phase = .stopped → s1.clock.limp = false →
    s1.power.hold = false → s1.readout.test = none → s1.accum.frames = [] →
    admission s1 { caseNow s1 with capture := true, pipeline := true } = none →
    exec (.captureStart t) s = .next (finishCmd p (cmdOk (startCapture first s1) [first]) s1))

/-- R74, R76: a started capture counts from its first frame: the counters of the exposure and accumulation sections restart
(those of memory errors stay), no frame has begun, and in free-run the first boundary is 1.00 ms ahead. The model's choices
in it: log entries 36, 143, 184 and 197. -/
def Obligations.StartOfCaptureRestartsItsCounts : Prop :=
  ∀ (first : FrameId) (s : State), (startCapture first s).exposure.phase = .running ∧
    (startCapture first s).exposure.nextId = first ∧ (startCapture first s).expCnt.framesStarted = 0 ∧
    (startCapture first s).accCnt.eccCe = s.accCnt.eccCe ∧ (startCapture first s).accCnt.vecStale = 0 ∧
    (startCapture first s).exposure.nextFb = (if s.exposure.trig.mode = 0 then some (s.now.tclk + 100000) else none) ∧
    (startCapture first s).power.phase = .active ∧ (startCapture first s).exposure.cfg = s.exposure.cfg ∧
    (startCapture first s).exposure.trig = s.exposure.trig ∧ (startCapture first s).now = s.now

/-- R61, R68–R71, R41: SET_FRAME_PARAMS leaves the values in force and adds one set that waits for its frame, LATE ones
included, and a STRICT set that comes late is refused; LOAD_TILE_MAP stages words and with COMMIT puts the enable mask in
force. The model's choices in it: log entry 167. -/
def Obligations.FrameSetsWaitForTheirFrame : Prop :=
  (∀ t s p s1 u x late shown, taken t 0x0104 s = some (p, s1) →
    u = frameUpdOf (overlay (cmdOf p).words ([0, 0] ++ frameParamWords s1.exposure.inForce)) →
    firstReserved (cmdOf p).words [0x3000F, 0xFFFFFFFF, 0xFFFFFFFF, 0xFFFFFFFF, 0x0FFFFFFF, 7] = none →
    (u.tSub.isSome = true → s1.exposure.cfg.exposure.flkBal = false) →
    (u.d0.isSome = true ∨ u.globalRung.isSome = true → aeOwnsD0 s1 = false) → s1.readout.test = none →
    paramsAdmission s1 u = none →
    submitSet applyFrameUpd (frameValid s1) s1.exposure.inForce s1.exposure.pendingSets s1 (cmdOf p) (bitAt (par p 0) 17)
      (if bitAt (par p 0) 16 then some (par p 1) else none) u = .accepted x late shown →
    exec (.setFrameParams t) s = .next (finishCmd p { state := { s1 with exposure := { s1.exposure with
        pendingSets := s1.exposure.pendingSets ++ [x] } }, status := if late then .late else .ok, results := [shown] } s1)) ∧
  (∀ t s p s1 u st, taken t 0x0104 s = some (p, s1) →
    u = frameUpdOf (overlay (cmdOf p).words ([0, 0] ++ frameParamWords s1.exposure.inForce)) →
    firstReserved (cmdOf p).words [0x3000F, 0xFFFFFFFF, 0xFFFFFFFF, 0xFFFFFFFF, 0x0FFFFFFF, 7] = none →
    (u.tSub.isSome = true → s1.exposure.cfg.exposure.flkBal = false) →
    (u.d0.isSome = true ∨ u.globalRung.isSome = true → aeOwnsD0 s1 = false) → s1.readout.test = none →
    paramsAdmission s1 u = none →
    submitSet applyFrameUpd (frameValid s1) s1.exposure.inForce s1.exposure.pendingSets s1 (cmdOf p) (bitAt (par p 0) 17)
      (if bitAt (par p 0) 16 then some (par p 1) else none) u = .refused st → st ≠ .badParam →
    exec (.setFrameParams t) s = .next (finishCmd p (cmdRefuse s1 st) s1)) ∧
  (∀ t s p s1 u, taken t 0x0104 s = some (p, s1) →
    u = frameUpdOf (overlay (cmdOf p).words ([0, 0] ++ frameParamWords s1.exposure.inForce)) →
    (u.tSub.isSome = true ∧ s1.exposure.cfg.exposure.flkBal = true) ∨
      ((u.d0.isSome = true ∨ u.globalRung.isSome = true) ∧ aeOwnsD0 s1 = true) →
    exec (.setFrameParams t) s = .next (finishCmd p (cmdRefuse s1 .wrongState) s1)) ∧
  (∀ t s p s1, taken t 0x0105 s = some (p, s1) → firstReserved ((cmdOf p).words.take 3) [0xE000F, 0x7FF, 0xFFFFFFFF] = none →
    fldN (par p 0) 0 4 = 1 → fldN (par p 1) 0 11 + ((cmdOf p).words.drop 3).length ≤ 384 → s1.exposure.phase = .stopped →
    s1.readout.test = none →
    exec (.loadTileMap t) s = .next (finishCmd p (cmdOk { s1 with readout := { s1.readout with
      enableStaging := smSetMany 0xFFFFFFFF s1.readout.enableStaging (fldN (par p 1) 0 11) ((cmdOf p).words.drop 3)
      enableMask := if bitAt (par p 0) 19 then
          smSetMany 0xFFFFFFFF s1.readout.enableStaging (fldN (par p 1) 0 11) ((cmdOf p).words.drop 3)
        else s1.readout.enableMask } } [0]) s1)) ∧
  (∀ t s p s1, taken t 0x0105 s = some (p, s1) → firstReserved ((cmdOf p).words.take 3) [0xE000F, 0x7FF, 0xFFFFFFFF] = none →
    fldN (par p 0) 0 4 = 0 → bitAt (par p 0) 19 = false → fldN (par p 1) 0 11 + ((cmdOf p).words.drop 3).length ≤ 1152 →
    s1.readout.test = none →
    exec (.loadTileMap t) s = .next (finishCmd p (cmdOk { s1 with exposure := { s1.exposure with
      mapStaging := smSetMany 0 s1.exposure.mapStaging (fldN (par p 1) 0 11) ((cmdOf p).words.drop 3) } } [0]) s1)) ∧
  (∀ t s p s1 x late shown, taken t 0x0105 s = some (p, s1) →
    firstReserved ((cmdOf p).words.take 3) [0xE000F, 0x7FF, 0xFFFFFFFF] = none → fldN (par p 0) 0 4 = 0 → bitAt (par p 0) 19 = true →
    fldN (par p 1) 0 11 + ((cmdOf p).words.drop 3).length ≤ 1152 → s1.exposure.cfg.exposure.expSrc = false →
    s1.readout.test = none →
    submitSet applyFrameUpd (frameValid s1) s1.exposure.inForce s1.exposure.pendingSets s1 (cmdOf p) (bitAt (par p 0) 18)
      (if bitAt (par p 0) 17 then some (par p 2) else none)
      { map := some (smSetMany 0 s1.exposure.mapStaging (fldN (par p 1) 0 11) ((cmdOf p).words.drop 3)) } = .accepted x late shown →
    exec (.loadTileMap t) s = .next (finishCmd p { state := { s1 with exposure := { s1.exposure with
        mapStaging := smSetMany 0 s1.exposure.mapStaging (fldN (par p 1) 0 11) ((cmdOf p).words.drop 3)
        pendingSets := s1.exposure.pendingSets ++ [x] } }, status := if late then .late else .ok, results := [shown] } s1)) ∧
  (∀ (p : FrameParams) (u : FrameUpd), applyFrameUpd p u = ⟨u.tSub.getD p.tSub, u.d0.getD p.d0, u.exps.getD p.exps,
    u.globalRung.getD p.globalRung, u.map.getD p.map⟩)

/-- R81, R82, R116, R117: HISTORY_FREEZE waits for its pin or ring time, fires at once for NOW and ends the freeze
for RELEASE;
HISTORY_READ queues the frozen frames of its range on a RAW20 stream; a freeze that fires while a set is held is ignored
and counted. The model's choices in it: log entries 38, 39, 157, 185, 195 and 206. -/
def Obligations.HistoryCommandsFreezeAndReadFrames : Prop :=
  (∀ t s p s1 w, taken t 0x0107 s = some (p, s1) → (cmdOf p).words ≠ [] →
    firstReserved (cmdOf p).words [0x1F0F3F, 0xFFFFFFFF, 0xFFFFFFFF] = none → fldN (par p 0) 0 2 ≠ 3 →
    1 ≤ fldN (par p 0) 8 4 → fldN (par p 0) 8 4 ≤ 10 → fldN (par p 0) 8 4 ≤ s1.exposure.cfg.accum.histH.toNat →
    s1.exposure.cfg.accum.histH.toNat + fldN (par p 0) 8 4 ≤ (if usesPreRef s1.exposure.cfg then 19 else 20) →
    fldN (par p 0) 16 5 < fldN (par p 0) 8 4 →
    (fldN (par p 0) 0 2 = 1 → drivenByTimer s1 (fldN (par p 0) 2 3) = false) →
    (fldN (par p 0) 0 2 = 0 → s1.exposure.phase = .stopped → heldSlots s1 ≠ []) →
    s1.history.frozenSet = none → s1.history.freezeActive = none →
    w = { source := fld (par p 0) 0 2, pin := fld (par p 0) 2 3, falling := bitAt (par p 0) 5, k := fldN (par p 0) 8 4
          post := fldN (par p 0) 16 5, rt := join64 (par p 1) (par p 2) } →
    exec (.historyFreeze t) s = .next (finishCmd p (cmdOk (if fldN (par p 0) 0 2 = 0 then fireFreeze w s1.now.tclk s1
      else { s1 with history := { s1.history with freezeWait := some w } })) s1)) ∧
  (∀ t s p s1, taken t 0x0107 s = some (p, s1) → (cmdOf p).words ≠ [] →
    firstReserved (cmdOf p).words [0x1F0F3F, 0xFFFFFFFF, 0xFFFFFFFF] = none → fldN (par p 0) 0 2 = 2 →
    1 ≤ fldN (par p 0) 8 4 → fldN (par p 0) 8 4 ≤ 10 → fldN (par p 0) 8 4 ≤ s1.exposure.cfg.accum.histH.toNat →
    s1.exposure.cfg.accum.histH.toNat + fldN (par p 0) 8 4 ≤ (if usesPreRef s1.exposure.cfg then 19 else 20) →
    fldN (par p 0) 16 5 < fldN (par p 0) 8 4 → s1.history.frozenSet.isSome = true →
    exec (.historyFreeze t) s = .next (finishCmd p (cmdRefuse s1 .busy) s1)) ∧
  (∀ t s p s1, taken t 0x0107 s = some (p, s1) →
    firstReserved (cmdOf p).words [0x1F0F3F, 0xFFFFFFFF, 0xFFFFFFFF] = none → fldN (par p 0) 0 2 = 3 →
    s1.history.frozenSet = none → exec (.historyFreeze t) s = .next (finishCmd p (cmdOk s1) s1)) ∧
  (∀ t s p s1, taken t 0x0107 s = some (p, s1) →
    firstReserved (cmdOf p).words [0x1F0F3F, 0xFFFFFFFF, 0xFFFFFFFF] = none → fldN (par p 0) 0 2 = 3 →
    s1.history.frozenSet.isSome = true → exec (.historyFreeze t) s = .next (finishCmd p (cmdOk
      (tryRelease { s1 with history := { s1.history with releaseWait := true } })) s1)) ∧
  (∀ s a, s.history.releaseWait = true → s.history.frozenSet = some a → historyReadPending s = false →
    (tryRelease s).history.frozenSet = none ∧ (tryRelease s).history.releaseWait = false ∧
    (∀ x ∈ (tryRelease s).history.slots, ∀ h, x = some h → h.frozen = false)) ∧
  (∀ s, historyReadPending s = true → tryRelease s = s) ∧
  (∀ t s p s1 ids, taken t 0x0108 s = some (p, s1) → (cmdOf p).words.length = 3 →
    firstReserved (cmdOf p).words [7, 0xFFFFFFFF, 15] = none → 1 ≤ fldN (par p 2) 0 4 → fldN (par p 2) 0 4 ≤ 10 →
    s1.history.frozenSet.isSome = true → (stream s1 (fldN (par p 0) 0 3)).enabled = true →
    isRaw20 (streamCfg s1 (fldN (par p 0) 0 3)) = true → historyReadPending s1 = false →
    ids = (((List.range (fldN (par p 2) 0 4)).map fun d => par p 1 + BitVec.ofNat 32 d).filter fun id =>
      (heldSlots s1).any fun x => x.2.frozen && x.2.frame.id == id) → ids ≠ [] →
    exec (.historyRead t) s = .next (finishCmd p (cmdOk (updChannel s1 (fldN (par p 0) 0 3)
      fun c => { c with histQueue := ids }) [wordOf ids.length, ids.headD 0]) s1)) ∧
  (∀ (w : FreezeWait) (tf : Nat) (s : State), s.history.frozenSet.isSome = true ∨ s.history.freezeActive.isSome = true →
    fireFreeze w tf s = { s with expCnt := { s.expCnt with freezeIgnored := satInc s.expCnt.freezeIgnored } }) ∧
  (∀ t s w, s.history.freezeWait = some w → w.source = 2 → w.rt.toNat ≤ ringNs (setNow t s) →
    exec (.ringTimeFreeze t) s = .next (fireFreeze w (cycleOfRing (setNow t s) w.rt.toNat)
      { setNow t s with history := { s.history with freezeWait := none } })) ∧
  (∀ t s w, s.history.freezeWait = some w → w.source ≠ 2 ∨ ringNs (setNow t s) < w.rt.toNat →
    exec (.ringTimeFreeze t) s = .next (setNow t s))

/-- R57, R69, R71: at a frame boundary that is due FRAME_ID advances, the sub-frames restart, and the boundary is not before
readout of the frame before it allows; without a due boundary nothing happens. -/
def Obligations.FrameBoundaryBeginsTheNextFrame : Prop :=
  (∀ t s fb, dueBoundary (setNow t s) = some fb → s.exposure.phase = .running → fb ≤ t.tclk → frameFull (setNow t s) = true →
    exec (.frameBoundary t) s = .next (beginFrame fb (setNow t s))) ∧
  (∀ t s, dueBoundary (setNow t s) = none → exec (.frameBoundary t) s = .next (setNow t s)) ∧
  (∀ t s fb, dueBoundary (setNow t s) = some fb → t.tclk < fb → exec (.frameBoundary t) s = .next (setNow t s)) ∧
  (∀ (fb : Nat) (s : State),
    (beginFrame fb s).exposure.frameId = s.exposure.nextId ∧ (beginFrame fb s).exposure.nextId = s.exposure.nextId + 1 ∧
    (beginFrame fb s).exposure.nextJ = 0 ∧ (beginFrame fb s).exposure.frameTick = some fb ∧
    (beginFrame fb s).expCnt.framesStarted = satInc s.expCnt.framesStarted ∧
    ((beginFrame fb s).exposure.cur.map fun f => (f.id, f.fb, f.cfg, f.mask)) =
      some (s.exposure.nextId, fb, s.exposure.cfg, s.readout.enableMask)) ∧
  (∀ (s : State) (fb nom : Nat), s.exposure.nextFb = some nom → dueBoundary s = some fb →
    nom ≤ fb ∧ ∀ sb, lastBoundary s = some sb → stretchBound s sb (paramsAt s s.exposure.nextId fb).d0.toNat ≤ fb)

/-- R37, R55, R85, R59, R86: sub-frame boundaries and ticks, sub-exposures and the exposure output each change their own part
of the exposure state. The model's choices in it: log entry 168. -/
def Obligations.SubFrameEventsFollowTheSchedule : Prop :=
  (∀ t s f (faults : List ConvTile), s.exposure.cur = some f → s.exposure.phase ≠ .stopped → s.exposure.immediate = false →
    s.exposure.nextJ < subFrames f.cfg → s.readout.run = none →
    sbAt f s.exposure.nextJ ≤ t.tclk → ∃ u, exec (.subFrameBoundary t faults) s = .next u ∧
      u.exposure.nextJ = s.exposure.nextJ + 1 ∧ u.exposure.g = s.exposure.g + 1 ∧
      u.exposure.lastSb = some (f.fb + f.params.d0.toNat + s.exposure.nextJ * f.params.tSub.toNat) ∧
      u.readout.run = some ⟨f, s.exposure.nextJ, s.exposure.g,
        f.fb + f.params.d0.toNat + s.exposure.nextJ * f.params.tSub.toNat⟩ ∧
      u.readout.bonds = [] ∧ u.exposure.cur = some f ∧ u.front = s.front ∧ u.back = s.back ∧ u.streams = s.streams) ∧
  (∀ t s f, s.exposure.cur = some f → s.exposure.phase ≠ .stopped → s.exposure.immediate = false →
    s.exposure.nextJ < subFrames f.cfg → f.fb + s.exposure.nextJ * f.params.tSub.toNat ≤ t.tclk →
    exec (.subFrameTick t) s = .next { setNow t s with exposure := { s.exposure with
      subTick := some (f.fb + s.exposure.nextJ * f.params.tSub.toNat) } }) ∧
  (∀ t (rung : Fin 8) s f, s.exposure.cur = some f → s.exposure.phase ≠ .stopped → s.exposure.immediate = false →
    s.exposure.nextJ < subFrames f.cfg → (exposureSpan f rung.val s.exposure.nextJ).1 ≤ t.tclk →
    t.tclk < (exposureSpan f rung.val s.exposure.nextJ).2 →
    exec (.subExposureStart t rung) s = .next { setNow t s with exposure := { s.exposure with
      openRungs := s.exposure.openRungs ||| BitVec.ofNat 8 (2 ^ rung.val) } }) ∧
  (∀ t (tile : TileIx) s f, s.exposure.cur = some f → s.exposure.phase ≠ .stopped → s.exposure.immediate = false →
    s.exposure.nextJ < subFrames f.cfg → f.cfg.exposure.centre = true → frameTile f tile.val = true →
    rungDur f.params (frameRung f tile.val s.exposure.nextJ) < f.params.d0.toNat →
    (exposureSpan f (frameRung f tile.val s.exposure.nextJ) s.exposure.nextJ).2 ≤ t.tclk →
    exec (.earlyTransfer t tile) s = .next { setNow t s with exposure := { s.exposure with
      earlyHeld := insNat s.exposure.earlyHeld tile.val } }) ∧
  (∀ t s b, xoEnd (setNow t s) t.tclk = some b → s.exposure.trig.xoEn = true →
    exec (.exposureOutputAssert t) s = .next { setNow t s with exposure := { s.exposure with xoActive := true, xoUntil := b } }) ∧
  (∀ t s, s.exposure.xoUntil ≤ t.tclk → xoEnd (setNow t s) t.tclk = none → s.exposure.xoActive = true →
    exec (.exposureOutputRelease t) s = .next { setNow t s with exposure := { s.exposure with xoActive := false } }) ∧
  (∀ t s b, s.exposure.xoUntil ≤ t.tclk → xoEnd (setNow t s) t.tclk = some b → s.exposure.xoActive = true →
    exec (.exposureOutputRelease t) s = .next { setNow t s with exposure := { s.exposure with xoUntil := b } }) ∧
  (∀ (s : State) f j t, s.exposure.cur = some f → s.exposure.phase = .running → s.exposure.immediate = false →
    j < subFrames f.cfg → (xoInterval s f j).1 ≤ t → t < (xoInterval s f j).2 →
    ∃ b, xoEnd s t = some b ∧ (xoInterval s f j).2 ≤ b) ∧
  (∀ (f : FrameRec) (k j : Nat), f.cfg.exposure.centre = false → exposureSpan f k j =
    (f.fb + f.params.d0.toNat + j * f.params.tSub.toNat - rungDur f.params k, f.fb + f.params.d0.toNat + j * f.params.tSub.toNat))

/-- R31–R36, R46, R40, R35: a conversion sends one word of even parity over its bond, rising slot by slot; LCG codes scale by 8
and set GSEL, saturation sets SATF; the word that arrives is taken off the bond. The model's choices in it: log entries 9
and 146. -/
def Obligations.ConversionsSendOneWordEach : Prop :=
  (∀ t (tile : ConvTile) (block slot : Fin 64) charge hcg lcg s r f, s.readout.run = some r → r.frame = f →
    readsTile f tile = true → slot.val < readSlots s.rst.fuses.variantMl f.cfg →
    smGet 0 s.readout.nextSlot (convIndex tile block.val) = slot.val →
    r.sb + slotStart f.cfg (tileGroup tile) slot.val ≤ t.tclk → s.readout.rampFaults = [] → s.readout.driverFaults = [] →
    exec (.conversionSlot t tile block slot charge hcg lcg false) s = .next { setNow t s with readout := { s.readout with
      nextSlot := smSet 0 s.readout.nextSlot (convIndex tile block.val) (slot.val + 1)
      bonds := s.readout.bonds ++ [⟨convIndex tile block.val, slot.val,
        sampleWord (convert s f (convIndex tile block.val) charge hcg lcg) false⟩]
      gainMisselect := if (convert s f (convIndex tile block.val) charge hcg lcg).misselect then
        satInc s.readout.gainMisselect else s.readout.gainMisselect } }) ∧
  (∀ (s : State) (f : FrameRec) (conv charge : Nat) (hcg lcg : Int), f.cfg.readout.gainMode = 1 →
    (convert s f conv charge hcg lcg).gsel = false ∧ (convert s f conv charge hcg lcg).value ≤ 4095 ∧
    ((convert s f conv charge hcg lcg).satf = true ↔ 4095 ≤ hcg)) ∧
  (∀ (s : State) (f : FrameRec) (conv charge : Nat) (hcg lcg : Int), f.cfg.readout.gainMode = 2 →
    (convert s f conv charge hcg lcg).gsel = true ∧ (convert s f conv charge hcg lcg).value % 8 = 0 ∧
    (convert s f conv charge hcg lcg).value ≤ 32760 ∧ (convert s f conv charge hcg lcg).misselect = false) ∧
  (∀ c : Converted, c.value < 32768 → wordOk (sampleWord c false) = true ∧ wordOk (sampleWord c true) = false ∧
    (sampleWord c false).toNat % 32768 = c.value ∧ bitAt (sampleWord c false) 15 = c.gsel ∧
    bitAt (sampleWord c false) 16 = c.satf) ∧
  (∀ t (tile : ConvTile) (block : Fin 64) flip s r f w rest, s.readout.run = some r → r.frame = f →
    popBond (convIndex tile block.val) s.readout.bonds = some (w, rest) → wordOk (w.word ^^^ flip) = true →
    accFrameOf s f.id = none →
    exec (.sampleArrival t tile block flip) s = .next { setNow t s with readout := { s.readout with bonds := rest } }) ∧
  (∀ t (tile : TileIx) (block : Fin 64) s r f w rest, s.readout.run = some r → r.frame = f →
    popBond (convIndex (.active tile) block.val) s.readout.bonds = some (w, rest) → wordOk w.word = true →
    (accFrameOf s f.id).isSome = true → s.readout.faultyBlocks = [] →
    exec (.sampleArrival t (.active tile) block 0) s = .next (takeSample f r tile.val block.val w.slot w.word.toNat true
      { setNow t s with readout := { s.readout with bonds := rest } })) ∧
  (∀ t s r f, s.readout.run = some r → r.frame = f → t.tclk < r.sb + tRo s.rst.fuses.variantMl f.cfg →
    exec (.readoutEnd t) s = .next (setNow t s)) ∧
  (∀ t s r f, s.readout.run = some r → r.frame = f → r.sb + tRo s.rst.fuses.variantMl f.cfg ≤ t.tclk →
    accFrameOf s f.id = none → s.exposure.phase = .running →
    exec (.readoutEnd t) s = .next { setNow t s with readout := { s.readout with
      run := none, subframesRead := satInc s.readout.subframesRead } })

/-- R78, R80, R84, R73: trigger edges, grid points, the flicker period and the auto-exposure result. The model's
choices in it: log entries 36, 37, 54, 157 and 159. -/
def Obligations.TriggersPlaceTheNextBoundary : Prop :=
  (∀ (p e : Nat) (falling : Bool) s, s.exposure.phase = .running → s.exposure.trig.mode = 1 → s.exposure.trig.pin.toNat = p →
    s.exposure.trig.edgeFalling = falling → s.exposure.armedFrom ≤ e → s.exposure.nextFb = none → s.exposure.burstLeft = 0 →
    s.exposure.edgeDeferred = false → s.exposure.edgeQueue = [] →
    earliestBoundary s ≤ e + 12 + s.exposure.trig.delay.toNat →
    pinTrigger p falling e s = { s with exposure := { s.exposure with
      nextFb := some (e + 12 + s.exposure.trig.delay.toNat), nextFbNom := e + 12 + s.exposure.trig.delay.toNat } }) ∧
  (∀ (p e : Nat) (falling : Bool) s, s.exposure.phase = .running → s.exposure.trig.mode = 1 → s.exposure.trig.pin.toNat = p →
    s.exposure.trig.edgeFalling = falling → s.exposure.armedFrom ≤ e →
    s.exposure.burstLeft ≠ 0 ∨ e + 12 + s.exposure.trig.delay.toNat < earliestBoundary s →
    pinTrigger p falling e s = earlyEdge s) ∧
  (∀ s, s.exposure.trig.early = false ∨ s.exposure.edgeDeferred = true →
    (earlyEdge s).expCnt = { s.expCnt with trgDropped := satInc s.expCnt.trgDropped } ∧ (earlyEdge s).exposure = s.exposure ∧
    (earlyEdge s).dram = s.dram ∧ (earlyEdge s).streams = s.streams) ∧
  (∀ s, s.exposure.trig.early = true → s.exposure.edgeDeferred = false → s.exposure.edgeQueue = [] →
    (earlyEdge s).expCnt = { s.expCnt with trgDeferred := satInc s.expCnt.trgDeferred } ∧
    (earlyEdge s).exposure = (if s.exposure.nextFb.isSome ∨ s.exposure.burstLeft ≠ 0 then
      { s.exposure with edgeQueue := [none] } else { s.exposure with edgeDeferred := true })) ∧
  (∀ t s g fb, gridPoint s.exposure.trig s.exposure.gridIx = some g → s.exposure.phase = .running → s.exposure.trig.mode = 2 →
    fb = cycleOfRing (setNow t s) g → fb ≤ t.tclk → earliestBoundary (setNow t s) ≤ fb → frameFull (setNow t s) = true →
    s.exposure.nextFb = none →
    exec (.ringTimeGridPoint t) s = .next { setNow t s with exposure := { s.exposure with
      gridIx := s.exposure.gridIx + 1, nextFb := some fb, nextFbNom := fb } }) ∧
  (∀ t s g, gridPoint s.exposure.trig s.exposure.gridIx = some g → s.exposure.phase = .running → s.exposure.trig.mode = 2 →
    cycleOfRing (setNow t s) g ≤ t.tclk → s.exposure.rtMissedRaised = true →
    s.exposure.nextFb.isSome = true ∨ cycleOfRing (setNow t s) g < earliestBoundary (setNow t s) →
    exec (.ringTimeGridPoint t) s = .next { setNow t s with
      exposure := { s.exposure with gridIx := s.exposure.gridIx + 1 }
      expCnt := { s.expCnt with rtMissed := satInc s.expCnt.rtMissed } }) ∧
  (∀ t s fb, s.exposure.cfg.exposure.flkSrc = 2 → s.exposure.phase = .running → comingBoundary (setNow t s) = some fb →
    fb ≤ t.tclk + guardCycles (setNow t s) → s.exposure.mainsLost = false →
    8 ≤ (mainsPeriods (setNow t s).now.tclk s.exposure.mainsEdges).length →
    exec (.flickerPeriodUpdate t) s = .next { setNow t s with exposure := { s.exposure with
      tFlk16 := ((mainsPeriods (setNow t s).now.tclk s.exposure.mainsEdges).drop
        ((mainsPeriods (setNow t s).now.tclk s.exposure.mainsEdges).length - 8)).foldl (· + ·) 0
      mainsValid := true, mainsLost := false } }) ∧
  (∀ t s, s.exposure.cfg.exposure.flkSrc ≠ 2 → exec (.flickerPeriodUpdate t) s = .next (setNow t s)) ∧
  (∀ t (frame : FrameId) s, aeRuns (setNow t s) = true →
    exec (.aeResult t frame) s = .next (aeResult frame (setNow t s))) ∧
  (∀ t (frame : FrameId) s, aeRuns (setNow t s) = false → exec (.aeResult t frame) s = .next (setNow t s)) ∧
  (∀ (frame : FrameId) (s : State), (aeResult frame s).exposure.inForce = s.exposure.inForce ∧
    (aeResult frame s).exposure.cfg = s.exposure.cfg ∧ (aeResult frame s).dram = s.dram ∧
    (aeResult frame s).engines = s.engines)
/-! ### Accumulation, the front and the back (R89–R222) -/

/-- R90, R94, R99, R100: a chest accumulates a tile whose readout has ended and whose vector is VALID or late, and stores only
in that tile's drawer; an accumulation outside BRACKETED adds the value, or clips (R102), within the range of a full
window; VD(g) fixes which records were in time; A_end(g) ends the window of the oldest sub-frame. The model's choices in
it: log entry 164. -/
def Obligations.AccumulationWindowsCloseAndRelease : Prop :=
  (∀ t tile pixels ecc bad s x f, nextJobFor (setNow t s) tile.val = some (x, f) → x.readDone = true →
    frameTile f tile.val = true →
    (x.j = 0 ∨ x.deadlinePassed = true ∨ bitAt (smGet 0 x.records (recordTile f tile.val)) 15 = true) →
    exec (.tileAccumulationStart t tile pixels ecc bad) s =
      .next (tilePass f x tile.val pixels bad (markEcc ecc (setNow t s)))) ∧
  (∀ t tile pixels ecc bad s x f, nextJobFor (setNow t s) tile.val = some (x, f) →
    (x.readDone = false ∨ frameTile f tile.val = false ∨ (x.j ≠ 0 ∧ x.deadlinePassed = false ∧
      bitAt (smGet 0 x.records (recordTile f tile.val)) 15 = false)) →
    exec (.tileAccumulationStart t tile pixels ecc bad) s = .next (setNow t s)) ∧
  (∀ (x : SubJob) f t pixels bad s, x.j + 1 < subFrames f.cfg → { tilePass f x t pixels bad s with
    accum := s.accum, accCnt := s.accCnt, dram := s.dram, dramBad := s.dramBad, dramSoft := s.dramSoft, desc := s.desc
    events := s.events } = s) ∧
  (∀ f x t pixels bad s, { tilePass f x t pixels bad s with
    accum := s.accum, accCnt := s.accCnt, dram := s.dram, dramBad := s.dramBad, dramSoft := s.dramSoft, desc := s.desc
    events := s.events, history := s.history, streams := s.streams, back := s.back } = s) ∧
  (∀ f x t pixels bad s a, Mem.wf s.dram → (a < drawerBase t ∨ drawerBase (t + 1) ≤ a) →
    memGet (tilePass f x t pixels bad s).dram a = memGet s.dram a) ∧
  (∀ t valid s x a, s.accum.jobs.find? (fun x => !x.deadlinePassed) = some x → accFrameOf s x.frame = some a →
    vectorDeadline s a.frame x ≤ t.tclk → x.readDone = true →
    exec (.vectorDeadline t valid) s = .next { setNow t s with accum := { s.accum with
      jobs := s.accum.jobs.map fun y => if y.g = x.g then { y with deadlinePassed := true, validUpTo := valid } else y } }) ∧
  (∀ t s x xs a, s.accum.jobs = x :: xs → accFrameOf s x.frame = some a → windowEnd s a.frame x ≤ t.tclk →
    x.readDone = true → exec (.accumulationWindowEnd t) s = .next (endWindow x a.frame (setNow t s))) ∧
  (∀ s x a, accFrameOf s x.frame = some a → (endWindow x a.frame s).accum.jobs = s.accum.jobs.filter (fun y => y.g != x.g) ∧
    (x.j + 1 = subFrames a.frame.cfg → (endWindow x a.frame s).exposure.lastReleased = a.frame.id ∧
      (endWindow x a.frame s).accum.frames.any (fun y => y.frame.id == a.frame.id) = false)) ∧
  (∀ t s x xs a, s.accum.jobs = x :: xs → accFrameOf s x.frame = some a → t.tclk < windowEnd s a.frame x →
    exec (.accumulationWindowEnd t) s = .next (setNow t s)) ∧
  (∀ (m : AccMode) (a : AccWord) (x : Int) (sat : Bool) (r : Nat), m.bracketed = false → accUpdate m a x sat r =
    (match a.kind with
      | .counting => if sat then { a with kind := .clip } else { a with sum := a.sum + x, ucount := a.ucount + 1 }
      | .void => a
      | .clip => a)) ∧
  (∀ xs : List (Int × Bool), xs.length ≤ 32 → (∀ y ∈ xs, -128 ≤ y.1 ∧ y.1 ≤ 32632) →
    -4096 ≤ (xs.foldl (fun a y => accZoned a y.1 y.2) ({} : AccWord)).sum ∧ (xs.foldl (fun a y => accZoned a y.1 y.2) ({} : AccWord)).sum ≤ 1044224)

/-- R246, R247, R118, R98: the motion kernel writes the vector table of its sub-frame, in its half of pillow 0 and nowhere else
in the pillows, and copies a basis into the top of the spill space and nowhere else in memory (where it lies is the model's
choice, log entry 64); the baste decision is made once; a halo link that fails is down for the sub-frames in progress, and
the first raises HALO_FAULT. The model's choices in it: log entries 46, 158 and 164. -/
def Obligations.MotionBasteAndHaloEvents : Prop :=
  (∀ t ecc s x a, s.accum.jobs.find? (fun x => x.readDone && !x.kernelBegun) = some x → accFrameOf s x.frame = some a →
    usesMotion a.frame.cfg = true → motionKernelUp s = true →
    exec (.motionSubframeStart t ecc) s = .next (motionSubframe a.frame x (markEcc ecc (setNow t s)))) ∧
  (∀ t ecc s, motionKernelUp s = false → exec (.motionSubframeStart t ecc) s = .next (setNow t s)) ∧
  (∀ f x s a, Mem.wf s.dram → a < basisBase 0 ∨ basisBase 3 ≤ a → memGet (motionSubframe f x s).dram a = memGet s.dram a) ∧
  (∀ f x s, { motionSubframe f x s with accum := s.accum, accCnt := s.accCnt, engines := s.engines, events := s.events
                                        dram := s.dram, dramBad := s.dramBad, dramSoft := s.dramSoft } = s ∧
    (motionSubframe f x s).engines.bobbins = s.engines.bobbins ∧
    ∀ p, p ≠ 0 → (motionSubframe f x s).engines.pillows[p]? = s.engines.pillows[p]?) ∧
  (∀ g (rs : List (Nat × BitVec 16)) s i r, rs = [(i, r)] → i < 12288 → s.engines.pillows ≠ [] →
    Mem.wf (s.engines.pillows.getD 0 []) →
    memNat ((writeVectorTable g rs s).engines.pillows.getD 0 []) ((if g % 2 = 0 then 0 else 0x6000) + 2 * i) 2 = r.toNat) ∧
  (∀ t s a, s.accum.frames.find? (fun a =>
      bastes a.frame.cfg && !a.basteDecided && decide (a.frame.cfg.accum.basteK.toNat ≤ a.readCount)) = some a →
    sbAt a.frame (a.frame.cfg.accum.basteK.toNat - 1) + tRo s.rst.fuses.variantMl a.frame.cfg ≤ t.tclk →
    exec (.basteDecision t) s = .next (decideBaste a (setNow t s))) ∧
  (∀ a s, basteStreams s = [] → formsBasted s a.frame = false → decideBaste a s =
    updAccFrame a.frame.id (fun a => { a with basteDecided := true }) s) ∧
  (∀ t (a b : Fin 768) s, s.accum.jobs ≠ [] → s.accum.haloRaised = true →
    exec (.haloAckTimeout t a b) s = .next { setNow t s with accum := { s.accum with
      jobs := s.accum.jobs.map fun x => { x with haloDown := x.haloDown ++ [(a.val, b.val)] } } }) ∧
  (∀ t (a b : Fin 768) s, s.accum.jobs ≠ [] → s.accum.haloRaised = false →
    exec (.haloAckTimeout t a b) s = .next (raise 0x010D 0 a.val b.val { setNow t s with accum := { s.accum with
      jobs := s.accum.jobs.map fun x => { x with haloDown := x.haloDown ++ [(a.val, b.val)] }, haloRaised := true } }))

/-- R47–R49, R94–R97: a self-test starts in the background and is refused while one runs; its end records its counts and raises
SELFTEST_DONE; a scrub access corrects a single-bit error and moves on; gated memory enters self-refresh. The model's
choices in it: log entries 90 and 104. -/
def Obligations.BackgroundTestsAndScrubbing : Prop :=
  (∀ t s p s1, taken t 0x0F03 s = some (p, s1) → firstReserved (cmdOf p).words [0x1FF] = none → fldN (par p 0) 0 8 = 0 →
    s1.readout.test = none →
    exec (.selftest t) s = .next (finishCmd p (cmdOk s1
      [wordOf s1.readout.lastTest.toNat, s1.readout.passed, s1.readout.failed, s1.readout.firstFail]) s1)) ∧
  (∀ t s p s1, taken t 0x0F03 s = some (p, s1) → firstReserved (cmdOf p).words [0x1FF] = none →
    fldN (par p 0) 0 8 = 0x20 → s1.readout.test = none →
    exec (.selftest t) s = .next (finishCmd p (cmdPending (startWork (cmdOf p).req .selftest { s1 with
      readout := { s1.readout with test := some ⟨0x20, false, s1.now, false⟩ } })) s1)) ∧
  (∀ t s p s1, taken t 0x0F03 s = some (p, s1) → firstReserved (cmdOf p).words [0x1FF] = none →
    fldN (par p 0) 0 8 = 0x20 → s1.readout.test ≠ none →
    exec (.selftest t) s = .next (finishCmd p (cmdRefuse s1 .busy) s1)) ∧
  (∀ t ms s, s.readout.test = none → exec (.selftestComplete t [] ms) s = .next (setNow t s)) ∧
  (∀ t fails ms s x, s.readout.test = some x → x.storing = false → s.rst.asserted.contains .converter = false →
    x.code = 0x20 → exec (.selftestComplete t fails ms) s = .next (selftestDone 0x20 0 (noteWalk 825 fails (setNow t s)))) ∧
  (∀ code r (s : State), ∃ u, selftestDone code r s = endWork .selftest u ∧ u.readout.test = none ∧
    u.readout.lastTest = BitVec.ofNat 8 code ∧ u.readout.passed = s.readout.passed ∧ u.readout.failed = s.readout.failed ∧
    u.readout.trims = s.readout.trims) ∧
  (∀ (old : Int) (m : RatioMeasure) (v : Int), newTrim old m = some v → m.clean = true ∧ -32 ≤ v ∧ v ≤ 31 ∧ 0 < m.sumL ∧
    2 * m.sumL * v ≤ 2000 * m.sumH + (2 * old - 1999) * m.sumL ∧
    2000 * m.sumH + (2 * old - 1999) * m.sumL < 2 * m.sumL * (v + 1)) ∧
  (∀ t s, s.accum.selfRefresh = false → blockRuns .memory s = true → s.accum.scrubAddr % 8 = 0 →
    s.accum.scrubAddr + 8 < 0x100000000 → s.dramBad.contains (s.accum.scrubAddr / 8) = false →
    s.dramSoft.contains (s.accum.scrubAddr / 8) = false →
    exec (.scrubAccess t s.accum.scrubAddr .single) s = .next { setNow t s with
      accum := { s.accum with scrubAddr := s.accum.scrubAddr + 8 }
      accCnt := { s.accCnt with eccCe := satInc s.accCnt.eccCe } }) ∧
  (∀ t addr f s, s.accum.selfRefresh = true ∨ blockRuns .memory s = false → exec (.scrubAccess t addr f) s = .next (setNow t s)) ∧
  (∀ t s, s.clock.limp = true → s.clock.rootLostPending = true ∨ s.clock.baseChange = true →
    exec (.selfRefreshEntry t) s = .next { setNow t s with accum := { s.accum with selfRefresh := true } })

/-- R128, R149, R156, R165, R169: LOAD_CAL_TABLE fills the staging copy and refuses what is out of range; a record that fails
its checks is refused and changes nothing; the front takes bands, begins and ends versions only where it can, and the
tables that wait for a version boundary come into force there. The model's choices in it: log entries 44 and 187. -/
def Obligations.CalTablesAndVersionBoundaries : Prop :=
  (∀ t s p s1, taken t 0x0203 s = some (p, s1) → firstReserved (cmdOf p).words [0x000F00FF, 0xFFFFFFFF] = none →
    1 ≤ fldN (par p 0) 0 8 → fldN (par p 0) 0 8 ≤ 7 → fldN (par p 0) 16 2 = 0 → bitAt (par p 0) 19 = false →
    (par p 1).toNat % 4 = 0 →
    (par p 1).toNat + 4 * ((cmdOf p).words.drop 2).length ≤ stagingBytes s1.rst.fuses.variantMl (fldN (par p 0) 0 8) →
    exec (.loadCalTable t) s = .next (finishCmd p (cmdOk { s1 with cal := { s1.cal with
      staging := some (addStaged (stagingFor s1 (fldN (par p 0) 0 8) 0) ((par p 1).toNat / 4) ((cmdOf p).words.drop 2)) } }
      [0]) s1)) ∧
  (∀ x i (ws : List Word), addStaged x i ws = { x with words := smSetMany 0 x.words i ws }) ∧
  (∀ t s p s1, taken t 0x0203 s = some (p, s1) → firstReserved (cmdOf p).words [0x000F00FF, 0xFFFFFFFF] = none →
    (fldN (par p 0) 0 8 = 0 ∨ 7 < fldN (par p 0) 0 8 ∨ fldN (par p 0) 16 2 = 3) →
    exec (.loadCalTable t) s = .next (finishCmd p (cmdBad s1 0) s1)) ∧
  (∀ store x (b s : State), calReason s.rst.fuses.variantMl s.rst.fuses.deviceId x.table (stagedWord x) = 2 →
    commitTable store x b s = cmdRefuse b .badCrc) ∧
  (∀ store x (b s : State), calReason s.rst.fuses.variantMl s.rst.fuses.deviceId x.table (stagedWord x) ≠ 0 →
    calReason s.rst.fuses.variantMl s.rst.fuses.deviceId x.table (stagedWord x) ≠ 2 →
    commitTable store x b s = cmdBadAny b) ∧
  (∀ s : State, (frontTables s).cal.frontPending = [] ∧ (frontTables s).cal.backPending = s.cal.backPending ∧
    (frontTables s).front = s.front ∧ (backTables s).cal.backPending = [] ∧
    (backTables s).cal.frontPending = s.cal.frontPending ∧ (backTables s).back = s.back) ∧
  (∀ body s, (calInForce 6 0 body s).cal.tone = some body ∧ (calInForce 7 0 body s).cal.gamma = some body ∧
    (calInForce 3 0 body s).cal.dark = some body ∧ (calInForce 1 0 body s).cal.defect = body ∧
    (calInForce 2 0 body s).cal.shading = some body ∧ (calInForce 4 0 body s).cal.ratioNext = some body) ∧
  (∀ t ecc s, exec (.frontBandSelect t ecc) s = .next (settleCal (bandSelect ecc (setNow t s)))) ∧
  (∀ ecc s i, frontCan s = true → frontStalled s = false → (ctxOrder s).find? (bandReady s) = some i →
    bandSelect ecc s = takeBand i ecc s) ∧
  (∀ ecc s, frontStalled s = true → bandSelect ecc s = s) ∧
  (∀ t ecc s, frontCan (setNow t s) = false → exec (.frontBandSelect t ecc) s = .next (settleCal (setNow t s)) ∧
    exec (.frontBeginVersion t) s = .next (settleCal (setNow t s))) ∧
  (∀ t s i, frontCan (setNow t s) = true → (ctxOrder (setNow t s)).find? (fun i =>
      (versionOf (setNow t s) i).isNone && (candidate (setNow t s) i).isSome) = some i →
    exec (.frontBeginVersion t) s = .next (settleCal (beginVersion i (setNow t s)))) ∧
  (∀ t s, exec (.frontEndVersion t) s = .next (settleCal (endNext (setNow t s)))) ∧
  (∀ s : State, s.front.versions = [] → endNext s = s) ∧
  (∀ t s, pipeRuns s = false → exec (.backEndVersion t) s = .next (setNow t s)) ∧
  (∀ t s, pipeRuns s = true → s.back.drained = 0 → exec (.backEndVersion t) s = .next (settleCal (setNow t s))) ∧
  (∀ t s, pipeRuns s = true → s.back.drained ≠ 0 → exec (.backEndVersion t) s = .next (settleCal (backTables { setNow t s with
    back := { s.back with drained := s.back.drained - 1 } }))) ∧
  (∀ s : State, calWaits s = true → settleCal s = s) ∧
  (∀ t strm s, exec (.channelVersionArrival t strm) s = .next (if pipeRuns s = true then
    (versionCtxs s).foldl (fun s k => channelArrival strm.val k s) (setNow t s) else setNow t s))
/-- R129–R134: ingress packets act on the contexts that take them: a header takes a free frame or displaces the oldest one that
waits, a wrong one is counted and raises INGRESS_FORMAT once, a line enters once and a bad one reads as black, a sidecar
sets its band, a trailer and a deadline end the frame, and a RETRACT changes nothing. The model's choices in it: log
entries 41, 42, 163, 188 and 189. -/
def Obligations.IngressFramesFillFromPackets : Prop :=
  (∀ t node port pkt s i, pipeRuns s = true → packetOk pkt = true → fldN (pkt.headD 0) 28 4 = 1 → ctxsOf s node port = [i] →
    exec (.ingressHeader t node port pkt) s = .next (headerArrives i pkt (setNow t s))) ∧
  (∀ t node port pkt s, packetOk pkt = false ∨ pipeRuns s = false → exec (.ingressHeader t node port pkt) s = .next (setNow t s) ∧
    exec (.ingressTrailer t node port pkt) s = .next (setNow t s)) ∧
  (∀ t node port pkt s, pipeRuns s = false → exec (.ingressLine t node port pkt) s = .next (setNow t s) ∧
    exec (.ingressSidecar t node port pkt) s = .next (setNow t s)) ∧
  (∀ i pkt s k, openIngress s i = none → (marksOf (pkt.getD 3 0)).basted = false →
    headerMismatch s.rst.fuses.variantMl (inputCtx s i) pkt = false → (marksOf (pkt.getD 3 0)).dropped = false →
    (servingFrames s i).find? (fun k => (ingressAt s k).phase == .free) = some k →
    headerArrives i pkt s = takeIngress k i pkt s) ∧
  (∀ i pkt s k, openIngress s i = none → (marksOf (pkt.getD 3 0)).basted = false →
    headerMismatch s.rst.fuses.variantMl (inputCtx s i) pkt = false → (marksOf (pkt.getD 3 0)).dropped = false →
    (servingFrames s i).find? (fun k => (ingressAt s k).phase == .free) = none → oldestWaiting s i = some k →
    headerArrives i pkt s = takeIngress k i pkt (dropFrame i (ingressAt s k).hdr s)) ∧
  (∀ i pkt s, openIngress s i = none → (marksOf (pkt.getD 3 0)).basted = false → i < 2 →
    headerMismatch s.rst.fuses.variantMl (inputCtx s i) pkt = true →
    ctxCnt (headerArrives i pkt s) i = { ctxCnt s i with format := satInc (ctxCnt s i).format } ∧
    (headerArrives i pkt s).front.ingress = s.front.ingress ∧
    (s.front.fmtErrRaised.contains i = true → (headerArrives i pkt s).events = s.events)) ∧
  (∀ i k pkt (s : State), k < s.front.ingress.length → i < 2 →
    (ingressAt (takeIngress k i pkt s) k).phase = .filling ∧ (ingressAt (takeIngress k i pkt s) k).ctx = i ∧
    (ingressAt (takeIngress k i pkt s) k).hdr = headerOf pkt ∧ (ingressAt (takeIngress k i pkt s) k).lines = [] ∧
    (ctxCnt (takeIngress k i pkt s) i).frames = satInc (ctxCnt s i).frames ∧
    { takeIngress k i pkt s with front := s.front } = s) ∧
  (∀ t node port pkt s i, pipeRuns s = true → fldN (pkt.headD 0) 28 4 = 2 → ctxsOf s node port = [i] →
    exec (.ingressLine t node port pkt) s = .next (lineArrives i pkt (setNow t s))) ∧
  (∀ i pkt s k vs, openIngress s i = some k → packetOk pkt = true → pkt.getD 2 0 = (ingressAt s k).hdr.id →
    fldN (pkt.getD 3 0) 16 14 < (inputCtx s i).height.toNat →
    (ingressAt s k).lines.any (fun l => l.1 == fldN (pkt.getD 3 0) 16 14) = false →
    (ingressAt s k).blackLines.contains (fldN (pkt.getD 3 0) 16 14) = false →
    lineValues s i (ingressAt s k) pkt = some vs →
    lineArrives i pkt s = updIngress k (fun g => { g with lines := (fldN (pkt.getD 3 0) 16 14, vs) :: g.lines }) s) ∧
  (∀ i pkt s k, openIngress s i = some k → packetOk pkt = false → i < 2 → k < s.front.ingress.length →
    ctxCnt (lineArrives i pkt s) i = { ctxCnt s i with crcErr := satInc (ctxCnt s i).crcErr } ∧
    (ingressAt (lineArrives i pkt s) k).marks.corrupt = true ∧ (ingressAt (lineArrives i pkt s) k).lines = (ingressAt s k).lines ∧
    (fldN (pkt.getD 3 0) 16 14 < (inputCtx s i).height.toNat →
      (ingressAt s k).lines.any (fun l => l.1 == fldN (pkt.getD 3 0) 16 14) = false →
      (ingressAt s k).blackLines.contains (fldN (pkt.getD 3 0) 16 14) = false →
      fldN (pkt.getD 3 0) 16 14 ∈ (ingressAt (lineArrives i pkt s) k).blackLines) ∧
    ((inputCtx s i).height.toNat ≤ fldN (pkt.getD 3 0) 16 14 ∨
      (ingressAt s k).lines.any (fun l => l.1 == fldN (pkt.getD 3 0) 16 14) = true →
      (ingressAt (lineArrives i pkt s) k).blackLines = (ingressAt s k).blackLines)) ∧
  (∀ i pkt s k vs, openIngress s i = some k → packetOk pkt = true →
    (ingressAt s k).blackLines.contains (fldN (pkt.getD 3 0) 16 14) = true → lineValues s i (ingressAt s k) pkt = some vs →
    lineArrives i pkt s = s) ∧
  (∀ (x : InputCtx) (v : Nat), x.fmt.toNat ≤ 4 → x.fshift.toNat ≤ 12 →
    foreignMantissa x v = if v = 2 ^ foreignBits x - 1 then 0xFFFFF
      else BitVec.ofInt 20 (clampI 0 0xFFFFE (((v : Int) - x.pedF.toNat) * 2 ^ x.fshift.toNat + 256))) ∧
  (∀ t node port pkt s i, pipeRuns s = true → fldN (pkt.headD 0) 28 4 = 3 → ctxsOf s node port = [i] →
    exec (.ingressSidecar t node port pkt) s = .next (sidecarArrives i pkt (setNow t s))) ∧
  (∀ i pkt s, openIngress s i = none → sidecarArrives i pkt s = s ∧ lineArrives i pkt s = s) ∧
  (∀ t node port pkt s i k, pipeRuns s = true → packetOk pkt = true → fldN (pkt.headD 0) 28 4 = 4 → ctxsOf s node port = [i] →
    openIngress s i = some k → (ingressAt s k).hdr.id = pkt.getD 2 0 →
    exec (.ingressTrailer t node port pkt) s = .next (endIngress k false (marksOf (pkt.getD 3 0)) (setNow t s))) ∧
  (∀ t (i : Fin 2) s k, pipeRuns s = true → openIngress s i.val = some k →
    (ingressAt s k).since.tclk + 100 * (inputCtx s i.val).deadline.toNat ≤ t.tclk →
    exec (.ingressDeadline t i) s = .next (endIngress k true {} (setNow t s))) ∧
  (∀ t (i : Fin 2) s, openIngress s i.val = none → exec (.ingressDeadline t i) s = .next (setNow t s)) ∧
  (∀ k late sent (s : State), k < s.front.ingress.length → (ingressAt (endIngress k late sent s) k).ended = true ∧
    (ingressAt (endIngress k late sent s) k).lines = (ingressAt s k).lines ∧
    (missingLines (inputCtx s (ingressAt s k).ctx).height.toNat (ingressAt s k) ≠ 0 →
      (if late then (ingressAt (endIngress k late sent s) k).marks.late
       else (ingressAt (endIngress k late sent s) k).marks.incomplete) = true)) ∧
  (∀ t node port pkt s, exec (.ingressRetract t node port pkt) s = .next (setNow t s))

/-- R126, R127, R151, R152, R171, R192, R193: the configuration commands of the front and the back put their values in force,
and are refused while the pipeline runs or where a value is out of range. The model's choices in it: log entry 35. -/
def Obligations.PipelineCommandsPutValuesInForce : Prop :=
  (∀ t s p s1 c, taken t 0x0201 s = some (p, s1) → firstReserved (cmdOf p).words [0xFFC, 3] = none →
    c = pipeOf (overlay (cmdOf p).words (pipeWords s1.front.cfg)) → c.nrMode.toNat ≤ 4 →
    (c.nrMode = 4 → (nrLoaded s1).isSome = true ∧ s1.power.hold = false ∧
      admission s1 { caseNow s1 with pipe := c, starting := (nrHolder s1).or (nrLoaded s1) } = none) →
    pipelineStopped s1 = true → pillowConflict s1 s1.exposure.cfg c = false →
    exec (.pipeConfig t) s = .next (finishCmd p (cmdOk (arbitrate { s1 with front := { s1.front with cfg := c } })) s1)) ∧
  (∀ t s p s1 c, taken t 0x0201 s = some (p, s1) → firstReserved (cmdOf p).words [0xFFC, 3] = none →
    c = pipeOf (overlay (cmdOf p).words (pipeWords s1.front.cfg)) → c.nrMode.toNat ≤ 4 →
    (c.nrMode = 4 → (nrLoaded s1).isSome = true) → pipelineStopped s1 = false ∨ (c.nrMode = 4 ∧ s1.power.hold = true) →
    exec (.pipeConfig t) s = .next (finishCmd p (cmdRefuse s1 .wrongState) s1)) ∧
  (∀ t s p s1, taken t 0x0201 s = some (p, s1) → firstReserved (cmdOf p).words [0xFFC, 3] = none →
    4 < (pipeOf (overlay (cmdOf p).words (pipeWords s1.front.cfg))).nrMode.toNat →
    exec (.pipeConfig t) s = .next (finishCmd p (cmdBad s1 0) s1)) ∧
  (∀ t s p s1, taken t 0x0202 s = some (p, s1) → firstReserved (cmdOf p).words pipeParamMasks = none →
    pipeParamsBad s1 (overlay (cmdOf p).words (pipeParamWords s1.front.params))
      (pipeUpdOf (overlay (cmdOf p).words (pipeParamWords s1.front.params))) = none →
    captureStopped s1 = true → bitAt (paramAt (overlay (cmdOf p).words (pipeParamWords s1.front.params)) 0) 16 = false →
    exec (.setPipeParams t) s = .next (finishCmd p (cmdOk { s1 with front := { s1.front with
      params := applyPipeUpd s1.front.params (pipeUpdOf (overlay (cmdOf p).words (pipeParamWords s1.front.params))) } }
      [nextFrame s1]) s1)) ∧
  (∀ t s p s1 ws u x late shown, taken t 0x0202 s = some (p, s1) → firstReserved (cmdOf p).words pipeParamMasks = none →
    ws = overlay (cmdOf p).words (pipeParamWords s1.front.params) → u = pipeUpdOf ws → pipeParamsBad s1 ws u = none →
    captureStopped s1 = false ∨ bitAt (paramAt ws 0) 16 = true →
    submitSet applyPipeUpd (fun _ => true) s1.front.params s1.front.pendingSets s1 (cmdOf p) (bitAt (paramAt ws 0) 17)
      (if bitAt (paramAt ws 0) 16 then some (paramAt ws 1) else none) u = .accepted x late shown →
    exec (.setPipeParams t) s = .next (finishCmd p { state := { s1 with front := { s1.front with
        pendingSets := s1.front.pendingSets ++ [x] } }, status := if late then .late else .ok, results := [shown] } s1)) ∧
  (∀ t s p s1 ws w, taken t 0x0202 s = some (p, s1) → firstReserved (cmdOf p).words pipeParamMasks = none →
    ws = overlay (cmdOf p).words (pipeParamWords s1.front.params) → pipeParamsBad s1 ws (pipeUpdOf ws) = some w →
    exec (.setPipeParams t) s = .next (finishCmd p (cmdBad s1 w) s1)) ∧
  (∀ (p : PipeParams) g, (applyPipeUpd p { ltm := some g }).ltmStrength = g ∧ applyPipeUpd p {} = p) ∧
  (∀ t s p s1 i new u, taken t 0x0204 s = some (p, s1) → i = fldN (par p 0) 0 1 →
    firstReserved (cmdOf p).words [0xF001, 0x1FF007F, 0x3FFF3FFF, 0xFFFFFFFF, 0xFFFF0F7F] = none →
    new = inputOf (overlay (cmdOf p).words (inputWords i (inputCtx s1 i))) →
    inputBad s1.rst.fuses.variantMl (inputCtx s1 (1 - i)) new = none →
    (inputCtx s1 i).enable = false ∨ new = { inputCtx s1 i with prio := new.prio } → new.enable = true →
    u = (if new.prio then setCtx (1 - i) { inputCtx s1 (1 - i) with prio := false } (setCtx i new s1) else setCtx i new s1) →
    exec (.setInputs t) s = .next (finishCmd p (cmdOk (arbitrate (noteStop { u with front := { u.front with
      fmtErrRaised := remNat s1.front.fmtErrRaised i
      disableAtEnd := remNat s1.front.disableAtEnd i } }))) s1)) ∧
  (∀ t s p s1 i new u, taken t 0x0204 s = some (p, s1) → i = fldN (par p 0) 0 1 →
    firstReserved (cmdOf p).words [0xF001, 0x1FF007F, 0x3FFF3FFF, 0xFFFFFFFF, 0xFFFF0F7F] = none →
    new = inputOf (overlay (cmdOf p).words (inputWords i (inputCtx s1 i))) →
    inputBad s1.rst.fuses.variantMl (inputCtx s1 (1 - i)) new = none →
    (inputCtx s1 i).enable = false ∨ new = { inputCtx s1 i with enable := false } → new.enable = false →
    u = (if new.prio then setCtx (1 - i) { inputCtx s1 (1 - i) with prio := false } (setCtx i new s1) else setCtx i new s1) →
    exec (.setInputs t) s = .next (finishCmd p (cmdOk (arbitrate (noteStop
      (if (inputCtx s1 i).enable then
        clearEnable i (inputCtx s1 i).kind { u with front := { u.front with fmtErrRaised := remNat s1.front.fmtErrRaised i } }
       else { u with front := { u.front with fmtErrRaised := remNat s1.front.fmtErrRaised i } })))) s1)) ∧
  (∀ t s p s1 i new, taken t 0x0204 s = some (p, s1) → i = fldN (par p 0) 0 1 →
    firstReserved (cmdOf p).words [0xF001, 0x1FF007F, 0x3FFF3FFF, 0xFFFFFFFF, 0xFFFF0F7F] = none →
    new = inputOf (overlay (cmdOf p).words (inputWords i (inputCtx s1 i))) →
    inputBad s1.rst.fuses.variantMl (inputCtx s1 (1 - i)) new = none → (inputCtx s1 i).enable = true →
    new ≠ { inputCtx s1 i with enable := false } → new ≠ { inputCtx s1 i with prio := new.prio } →
    exec (.setInputs t) s = .next (finishCmd p (cmdRefuse s1 .wrongState) s1)) ∧
  (∀ t s p s1 i w new, taken t 0x0204 s = some (p, s1) → i = fldN (par p 0) 0 1 →
    firstReserved (cmdOf p).words [0xF001, 0x1FF007F, 0x3FFF3FFF, 0xFFFFFFFF, 0xFFFF0F7F] = none →
    new = inputOf (overlay (cmdOf p).words (inputWords i (inputCtx s1 i))) →
    inputBad s1.rst.fuses.variantMl (inputCtx s1 (1 - i)) new = some w →
    exec (.setInputs t) s = .next (finishCmd p (cmdBad s1 w) s1)) ∧
  (∀ t s p s1 ws, taken t 0x0205 s = some (p, s1) → ws = overlay (cmdOf p).words (statsWords s1.back) →
    firstReserved (cmdOf p).words [0xFF01, 0xFFFFFFFF, 0xFFFFFFFF] = none → fldN (paramAt ws 0) 8 8 ≠ 0 →
    (paramAt ws 1).toNat ≤ (paramAt ws 2).toNat →
    exec (.statsConfig t) s = .next (finishCmd p (cmdOk { s1 with back := { s1.back with
      statsEvery := fld (paramAt ws 0) 8 8
      statsEn := bitAt (paramAt ws 0) 0
      wbLo := paramAt ws 1
      wbHi := paramAt ws 2
      statsLast := if bitAt (paramAt ws 0) 0 = true ∧ s1.back.statsEn = false then none else s1.back.statsLast } }) s1)) ∧
  (∀ t s p s1 k, taken t 0x0206 s = some (p, s1) → (cmdOf p).words.length = 3 →
    firstReserved (cmdOf p).words [0xFFFFFFFF, 0xFFFF, 0xFFFF] = none →
    s1.front.versions.any (fun v => v.id == par p 0 && v.kind == 1 && !v.basted) = false → fldN (par p 1) 0 16 ≤ 50592 →
    fldN (par p 2) 0 16 ≤ pathWords (cmdOf p).via → fldN (par p 1) 0 16 + fldN (par p 2) 0 16 ≤ 50593 →
    setSlotOf s1 (par p 0) = some k →
    exec (.statsRead t) s = .next (finishCmd p (cmdOk (correctRead (setBase k + 4 * fldN (par p 1) 0 16) (4 * fldN (par p 2) 0 16)
      (countCommonUe 6 (holderOf (setBase k + 4 * fldN (par p 1) 0 16))
        (badWordsIn s1 (setBase k + 4 * fldN (par p 1) 0 16) (4 * fldN (par p 2) 0 16)).length s1))
      (par p 0 :: memWords s1.dram (setBase k + 4 * fldN (par p 1) 0 16) (fldN (par p 2) 0 16))) s1)) ∧
  (∀ t s p s1, taken t 0x0206 s = some (p, s1) → (cmdOf p).words.length = 3 →
    firstReserved (cmdOf p).words [0xFFFFFFFF, 0xFFFF, 0xFFFF] = none →
    s1.front.versions.any (fun v => v.id == par p 0 && v.kind == 1 && !v.basted) = true → fldN (par p 1) 0 16 ≤ 50592 →
    fldN (par p 2) 0 16 ≤ pathWords (cmdOf p).via → fldN (par p 1) 0 16 + fldN (par p 2) 0 16 ≤ 50593 →
    exec (.statsRead t) s = .next (finishCmd p (cmdRefuse s1 .busy) s1)) ∧
  (∀ t s, newestSet s = none ∨ pipeRuns s = false ∨ blockRuns .bobbin s = false →
    exec (.ltmGridPublish t) s = .next (setNow t s)) ∧
  (∀ t s k x, newestSet s = some (k, x) → pipeRuns s = true → blockRuns .bobbin s = true → s.front.cfg.ltmEn = true → vendorFaulted s 2 = false → grantedAt s 4 = true →
    s.back.grid.map (·.frame) ≠ some x.frame.id → FrameId.later s.exposure.firstId x.frame.id = false →
    ∃ u, exec (.ltmGridPublish t) s = .next u ∧ u.back.grid = some ⟨x.frame.id, ltmNodes s k⟩ ∧
      u.back.gridPillowHalf = !s.back.gridPillowHalf ∧ (∀ p, p ≠ 4 → u.engines.pillows[p]? = s.engines.pillows[p]?) ∧
      { u with back := s.back, engines := s.engines, accCnt := s.accCnt, dramSoft := s.dramSoft, accum := s.accum
               events := s.events } = setNow t s)

/-- R172–R174, R198–R200: STREAM_CONFIG of a disabled stream puts its values and crop origin in force, STREAM_ENABLE starts
streams whose ports are assigned and refuses the others, STREAM_DISABLE waits for the last packet, and SET_STREAM_PARAMS
sets live values; each is refused where a value is out of range. -/
def Obligations.StreamCommandsConfigureStartAndStop : Prop :=
  (∀ t s p s1 i ws, taken t 0x0301 s = some (p, s1) → i = (cmdOf p).sel → ws = overlay (cmdOf p).words (streamWords s1 i) →
    firstReserved (cmdOf p).words streamMasks = none →
    streamBad s1 i (streamOf ws) (fldN (paramAt ws 3) 16 14) (fldN (paramAt ws 3) 0 14) = none →
    (stream s1 i).enabled = false → (stream s1 i).stopping = false → ∃ u, exec (.streamConfig t) s = .next (finishCmd p (cmdOk (arbitrate u)) s1) ∧
      (i < s1.back.cfgs.length → streamCfg u i = streamOf ws) ∧
      (∀ j, j ≠ i → streamCfg u j = streamCfg s1 j ∧ stream u j = stream s1 j) ∧
      u.front.params.cropY0 = s1.front.params.cropY0.set i (fld (paramAt ws 3) 16 14) ∧
      u.front.params.cropX0 = s1.front.params.cropX0.set i (fld (paramAt ws 3) 0 14) ∧
      { u with back := s1.back, streams := s1.streams, front := s1.front } = s1) ∧
  (∀ t s p s1 i ws, taken t 0x0301 s = some (p, s1) → i = (cmdOf p).sel → ws = overlay (cmdOf p).words (streamWords s1 i) →
    firstReserved (cmdOf p).words streamMasks = none →
    streamBad s1 i (streamOf ws) (fldN (paramAt ws 3) 16 14) (fldN (paramAt ws 3) 0 14) = none →
    (stream s1 i).enabled = true ∨ (stream s1 i).stopping = true → exec (.streamConfig t) s = .next (finishCmd p (cmdRefuse s1 .wrongState) s1)) ∧
  (∀ t s p s1 i k ws, taken t 0x0301 s = some (p, s1) → i = (cmdOf p).sel →
    ws = overlay (cmdOf p).words (streamWords s1 i) → firstReserved (cmdOf p).words streamMasks = none →
    streamBad s1 i (streamOf ws) (fldN (paramAt ws 3) 16 14) (fldN (paramAt ws 3) 0 14) = some k →
    exec (.streamConfig t) s = .next (finishCmd p (cmdBad s1 k) s1)) ∧
  (∀ t s p s1 named, taken t 0x0302 s = some (p, s1) → firstReserved (cmdOf p).words [0xFF] = none →
    named = namedStreams (par p 0) → (∀ i ∈ named, (assignOf s1 i).isSome = true ∧ featureLack s1 i = none ∧
      ((streamCfg s1 i).basteEn = true → ∀ a ∈ assignOf s1 i, a.basted = true)) →
    exec (.streamEnable t) s = .next (finishCmd p (cmdOk (arbitrate
      (named.foldl (fun u i => if (stream u i).enabled then u else startStream i u) s1))) s1)) ∧
  (∀ t s p s1 i, taken t 0x0302 s = some (p, s1) → firstReserved (cmdOf p).words [0xFF] = none →
    (∀ i ∈ namedStreams (par p 0), (assignOf s1 i).isSome = true) → i ∈ namedStreams (par p 0) → (featureLack s1 i).isSome = true →
    exec (.streamEnable t) s = .next (finishCmd p (cmdRefuse s1 .notPermitted) s1)) ∧
  (∀ t s p s1 i a, taken t 0x0302 s = some (p, s1) → firstReserved (cmdOf p).words [0xFF] = none →
    (∀ i ∈ namedStreams (par p 0), (assignOf s1 i).isSome = true ∧ featureLack s1 i = none) → i ∈ namedStreams (par p 0) →
    (streamCfg s1 i).basteEn = true → assignOf s1 i = some a → a.basted = false →
    exec (.streamEnable t) s = .next (finishCmd p (cmdRefuse s1 .bandwidthRefused) s1)) ∧
  (∀ t s p s1 i, taken t 0x0302 s = some (p, s1) → firstReserved (cmdOf p).words [0xFF] = none →
    i ∈ namedStreams (par p 0) → assignOf s1 i = none →
    exec (.streamEnable t) s = .next (finishCmd p (cmdRefuse s1 .wrongState) s1)) ∧
  (∀ i (s : State), i < s.streams.length → (stream (startStream i s) i).enabled = true ∧
    (stream (startStream i s) i).pseq = 0 ∧ (stream (startStream i s) i).entries = (stream s i).entries ∧
    ∀ j, j ≠ i → stream (startStream i s) j = stream s j) ∧
  (∀ t s p s1 named u v, taken t 0x0303 s = some (p, s1) → firstReserved (cmdOf p).words [0x1FF] = none →
    named = (namedStreams (par p 0)).filter (fun i => (stream s1 i).enabled) →
    u = arbitrate (named.foldl (fun u i => haltStream i (bitAt (par p 0) 8) 6 u) s1) →
    v = named.foldl (fun u i => if streamEmpty u i then updStream u i fun x => { x with stopping := false } else u) u →
    exec (.streamDisable t) s = .next (if named.any (fun i => (stream v i).stopping) then nowHeld p v
      else finishCmd p (cmdOk v) s1)) ∧
  (∀ i cut found (s : State), i < s.streams.length → (stream s i).bastedOut = none →
    (stream (stopStream i cut 6 found s) i).enabled = false ∧ (stream (stopStream i cut 6 found s) i).stopping = true ∧
    (cut = false → (stream (stopStream i cut 6 found s) i).entries =
      (stream s i).entries.filter fun e => e.begun || e.kind == .retract) ∧
    ∀ j, j ≠ i → stream (stopStream i cut 6 found s) j = stream s j) ∧
  (∀ (found : Marks) (e : StreamEntry), e.kind = .frame → e.closed = false → (cutEntry found e).closed = true ∧
    (cutEntry found e).marks.incomplete = true ∧ (cutEntry found e).marks.corrupt = (e.marks.corrupt || found.corrupt) ∧
    (cutEntry found e).waiting = [trailerPacket e.id (cutEntry found e).marks e.sentLines e.sentPayload e.sentPeak]) ∧
  (∀ t s p s1 i, taken t 0x0304 s = some (p, s1) → (cmdOf p).words.length = 3 →
    firstReserved (cmdOf p).words [0x707, 0x3F3F, 0x3FFFF] = none → i = fldN (par p 0) 0 3 → fldN (par p 0) 8 3 = 7 →
    (streamCfg s1 i).filet ≠ 0 → fld (par p 2) 16 2 ≠ 3 → 64 ≤ fldN (par p 2) 0 16 →
    codingBad { streamCfg s1 i with filetE := fld (par p 1) 0 6, filetEmax := fld (par p 1) 8 6 } = false →
    exec (.setStreamParams t) s = .next (finishCmd p (cmdOk (updStream s1 i fun t => { t with
      live := some ⟨fld (par p 1) 0 6, fld (par p 1) 8 6, fld (par p 2) 0 16, fld (par p 2) 16 2⟩ })) s1)) ∧
  (∀ t s p s1 i, taken t 0x0304 s = some (p, s1) → firstReserved (cmdOf p).words [0x707, 0x3F3F, 0x3FFFF] = none →
    i = fldN (par p 0) 0 3 → bitAt (par p 0) 8 = true → (streamCfg s1 i).filet = 0 →
    exec (.setStreamParams t) s = .next (finishCmd p (cmdBad s1 1) s1))

/-- R116, R117, R216–R221, R301: the events of the output streams: a RAW20 channel begins a released frame, a formed frame
arrives at its buffer, its trailer closes it, its packets are inserted within the reservation and the quota, and a sent
frame leaves its buffer. The model's choices in it: log entries 49, 78, 131, 161 and 162. -/
def Obligations.StreamEventsCarryFramesOut : Prop :=
  (∀ t (i : Fin 8) s, (channel s i.val).raw.isSome = true → exec (.raw20BeginFrame t i) s = .next (setNow t s)) ∧
  (∀ t (i : Fin 8) s id rest k h, (stream s i.val).enabled = true → isRaw20 (streamCfg s i.val) = true →
    (channel s i.val).raw = none → pipeRuns s = true → (channel s i.val).histQueue = id :: rest → frozenSlot s id = some (k, h) →
    exec (.raw20BeginFrame t i) s = .next (readRaw i.val k h true (updChannel (setNow t s) i.val
      fun c => { c with histQueue := rest }))) ∧
  (∀ t (i : Fin 9) s, i.val < 8 → (channel s i.val).run = none → (channel s i.val).raw = none →
    exec (.streamFrameArrival t i) s = .next (setNow t s)) ∧
  (∀ t (i : Fin 9) s, i.val < 8 → pipeRuns s = true →
    exec (.streamFrameArrival t i) s = .next (offerRaw i.val (offerRun i.val (setNow t s)))) ∧
  (∀ t (i : Fin 9) s, i.val = 8 ∨ pipeRuns s = false → exec (.streamFrameArrival t i) s = .next (setNow t s) ∧
    exec (.streamTrailerWrite t i) s = .next (setNow t s)) ∧
  (∀ i (f : FrameInfo) (s : State), f.marks.basted = false →
    (streamCfg s i).dropPolicy ≠ 2 → i < s.streams.length → (stream s i).entries = [] →
    frameFits s i (sMax f.hdr.variantMl f.hdr.bin (streamCfg s i)) = true → (arriveFrame i f s).1 = true) ∧
  (∀ t (i : Fin 9) s r m, i.val < 8 → pipeRuns s = true → (channel s i.val).run = some r → r.ended = some m → (channel s i.val).raw = none →
    exec (.streamTrailerWrite t i) s = .next (updChannel (closeEntry i.val r.id r.basted m (setNow t s)) i.val
      fun c => { c with run := none })) ∧
  (∀ t (i : Fin 9) s, i.val < 8 → (channel s i.val).run = none → (channel s i.val).raw = none →
    exec (.streamTrailerWrite t i) s = .next (setNow t s)) ∧
  (∀ t (i : Fin 9) ecc s, assignOf s i.val = none ∨ restOf s i.val ≠ [] ∨ (s.clock.limp = true ∧
      (stream s i.val).entries.any (fun e => e.kind == .retract && !e.waiting.isEmpty) = false) →
    exec (.streamPacketDrain ⟨t, ecc⟩ i) s = .next (setNow t s)) ∧
  (∀ t (i : Fin 9) ecc s a, assignOf s i.val = some a → trunkLive s = true → s.clock.limp = false →
    s.ring.addrPhase = .confirmed → restOf s i.val = [] →
    exec (.streamPacketDrain ⟨t, ecc⟩ i) s = .next (beginPacket i.val a ecc (setNow t s))) ∧
  (∀ i a s e p ps w, i < 8 → (stream s i).entries = [e] → e.waiting = p :: ps → i < s.streams.length →
    w = finishPacket p (stream s i).pseq (((assignOf s i).map (·.port)).getD 0) →
    ∃ u, beginPacket i a [] s = setRest i (packetSlots u 1 3 a.dest a.port (streamRingB u a) w) u ∧
      (stream u i).pseq = (stream s i).pseq + 1 ∧ u.out.packets = s.out.packets ++ [⟨i, w⟩] ∧
      (stream u i).entries.map (·.waiting) = [ps] ∧ (stream u i).entries.map (·.begun) = [true] ∧ u.ring = s.ring) ∧
  (∀ (i : Nat) (ringB : Bool) (s : State), (countInserted i true ringB s).ring =
      (if ringB then { s.ring with usedP3B := s.ring.usedP3B + 1 } else { s.ring with usedP3A := s.ring.usedP3A + 1 })) ∧
  (∀ (a : PortAssign) (i : Nat) (s : State), leftP2 s i a = (a.rsv.toNat * s.ring.tRotNs.toNat + 999999) / 1000000 -
    smGet 0 (if a.dir = true ∧ dualRing s = true then s.ring.usedP2B else s.ring.usedP2A) i) ∧
  (∀ t (i : Fin 9) s, slotsGone s i.val = false → exec (.streamFrameSent t i) s = .next (setNow t s)) ∧
  (∀ t (i : Fin 9) s, slotsGone s i.val = true → (stream s i.val).entries = [] → (stream s i.val).stopping = false →
    s.history.releaseWait = false → exec (.streamFrameSent t i) s = .next (settleDisable (setNow t s))) ∧
  (∀ t (i : Fin 9) s e es, slotsGone s i.val = true → (stream s i.val).entries = e :: es → e.closed = true →
    e.waiting = [] → ∃ u, exec (.streamFrameSent t i) s = .next (settleDisable u) ∧
      (i.val < s.streams.length → (stream u i.val).entries = es) ∧ u.now = (setNow t s).now) ∧
  (∀ s : State, heldCmd s 0x0303 = none → settleDisable s = s)
/-! ### Kernels (R244–R258, R369) -/

/-- R250–R257, R369: the kernel commands: a load opens an image and a COMMIT checks its header, then its CRC, then its
instructions; bobbins are allocated and freed while a kernel does not run; a start loads its bobbins and sets it
running; a
stop stops it; STATUS reads it; a hang faults it; a grant period counts what was withheld. The model's choices in it:
log entries 12, 31, 50, 51, 63, 64, 65, 66, 67, 68, 109, 166 and 182. -/
def Obligations.KernelCommandsLoadAndRunKernels : Prop :=
  (∀ t s p s1 kid len u, taken t 0x0401 s = some (p, s1) → kid = fldN (par p 0) 0 8 → reservedOk (par p 0) 0x800FF = true →
    kid ≤ 15 → par p 1 = 0 → 2 ≤ ((cmdOf p).words.drop 2).length → len = (par p 3).toNat →
    4 * ((cmdOf p).words.drop 2).length ≤ len → reservedOther s1 kid + len ≤ 13 * mib →
    (kernel s1 kid).phase ≠ .running → holdsNr s1 kid = false → u = storeImages (updKernel kid (openImage len) s1) →
    exec (.kernelLoad t) s = .next (finishCmd p (imageWritten kid 0 ((cmdOf p).words.drop 2) (bitAt (par p 0) 19) u) s1)) ∧
  (∀ t s p s1 kid off, taken t 0x0401 s = some (p, s1) → kid = fldN (par p 0) 0 8 → reservedOk (par p 0) 0x800FF = true →
    kid ≤ 15 → off = (par p 1).toNat → off ≠ 0 → off % 4 = 0 → (kernel s1 kid).reserved ≠ 0 →
    (kernel s1 kid).committed = false → off + 4 * ((cmdOf p).words.drop 2).length ≤ (kernel s1 kid).reserved →
    (kernel s1 kid).phase ≠ .running → holdsNr s1 kid = false →
    exec (.kernelLoad t) s = .next (finishCmd p (imageWritten kid off ((cmdOf p).words.drop 2) (bitAt (par p 0) 19) s1) s1)) ∧
  (∀ kid off data s, ∃ u, imageWritten kid off data false s = cmdOk u [0xFFFFFFFF] ∧
    imageWritten kid off data true s = commitImage kid u ∧ u.engines = (updKernel kid (fun k => { k with
      image := smSetMany 0 k.image (off / 4) data }) s).engines ∧
    u.dram = (dramWriteWords s (imageBase s kid + off) data).dram) ∧
  (∀ t s p s1 kid off, taken t 0x0401 s = some (p, s1) → kid = fldN (par p 0) 0 8 → reservedOk (par p 0) 0x800FF = true →
    kid ≤ 15 → off = (par p 1).toNat → off ≠ 0 → off % 4 = 0 → (kernel s1 kid).reserved ≠ 0 →
    (kernel s1 kid).committed = false →
    ((kernel s1 kid).reserved < off + 4 * ((cmdOf p).words.drop 2).length →
      exec (.kernelLoad t) s = .next (finishCmd p (cmdBad s1 1) s1)) ∧
    (off + 4 * ((cmdOf p).words.drop 2).length ≤ (kernel s1 kid).reserved →
      (kernel s1 kid).phase = .running ∨ holdsNr s1 kid = true →
      exec (.kernelLoad t) s = .next (finishCmd p (cmdRefuse s1 .wrongState) s1))) ∧
  (∀ t s p s1, taken t 0x0401 s = some (p, s1) → 15 < fldN (par p 0) 0 8 →
    exec (.kernelLoad t) s = .next (finishCmd p (cmdBad s1 0) s1)) ∧
  (∀ kid s, headerOk (kernel s kid) = true → imageCrcOk (kernel s kid) = true → firstIllegal (kernel s kid) = none →
    commitImage kid s = cmdOk (updKernel kid (fun k => { k with phase := .loaded, committed := true }) s) [0xFFFFFFFF]) ∧
  (∀ kid s, headerOk (kernel s kid) = true → imageCrcOk (kernel s kid) = false →
    (commitImage kid s).status = .badCrc ∧ (commitImage kid s).state = storeImages (updKernel kid (fun _ => {}) s) ∧
    (commitImage kid s).results = [0xFFFFFFFF]) ∧
  (∀ kid s i, headerOk (kernel s kid) = true → imageCrcOk (kernel s kid) = true → firstIllegal (kernel s kid) = some i →
    (commitImage kid s).status = .badParam ∧ (commitImage kid s).results = [wordOf i] ∧
    ((bytesWords (imgSection (kernel s kid) 0))[i]?.map legalWord) = some false ∧
    ∀ j < i, ((bytesWords (imgSection (kernel s kid) 0))[j]?.map legalWord) = some true) ∧
  (∀ t s p s1 kid r m, taken t 0x0405 s = some (p, s1) → kid = fldN (par p 0) 0 8 →
    reservedOk (par p 0) 0xFF9FF7FF = true → kid ≤ 15 → bitAt (par p 0) 23 = false → fld (par p 0) 24 8 = 0 →
    fldN (par p 0) 16 5 ≠ 0 → fldN (par p 0) 12 4 + fldN (par p 0) 16 5 ≤ 16 → (kernel s1 kid).phase ≠ .empty →
    (kernel s1 kid).phase ≠ .running → imgMinBobbins (kernel s1 kid) ≤ (namedBobbins (par p 0)).length →
    (namedBobbins (par p 0)).length ≤ imgMaxBobbins (kernel s1 kid) →
    placeRegion s1 kid (imgPillowKib (kernel s1 kid)) ((namedBobbins (par p 0)).map (· / 16)).eraseDups = some r →
    placeSpill s1 kid (imgSpillMib (kernel s1 kid)) = some m → allocBusy s1 kid (namedBobbins (par p 0)) = false →
    exec (.bobbinAlloc t) s = .next (finishCmd p (cmdOk (updKernel kid (fun k => { k with
      bobbins := namedBobbins (par p 0)
      region := r
      spillBase := partBase .spill + m * mib
      spill := imgSpillMib (kernel s1 kid) }) s1)) s1)) ∧
  (∀ t s p s1 kid, taken t 0x0405 s = some (p, s1) → kid = fldN (par p 0) 0 8 →
    reservedOk (par p 0) 0xFF9FF7FF = true → kid ≤ 15 → bitAt (par p 0) 23 = true → (kernel s1 kid).phase ≠ .empty →
    (kernel s1 kid).phase ≠ .running →
    exec (.bobbinAlloc t) s = .next (finishCmd p (cmdOk (updKernel kid freed s1)) s1)) ∧
  (∀ t s p s1 kid, taken t 0x0405 s = some (p, s1) → kid = fldN (par p 0) 0 8 →
    reservedOk (par p 0) 0xFF9FF7FF = true → kid ≤ 15 → bitAt (par p 0) 23 = true →
    (kernel s1 kid).phase = .empty ∨ (kernel s1 kid).phase = .running →
    exec (.bobbinAlloc t) s = .next (finishCmd p (cmdRefuse s1 .wrongState) s1)) ∧
  (∀ t s p s1 kid ch, taken t 0x0402 s = some (p, s1) → kid = fldN (par p 0) 0 8 → ch = fldN (par p 0) 8 3 →
    reservedOk (par p 0) 0x7FF = true → kid ≤ 15 → (kernel s1 kid).bobbins ≠ [] → (kernel s1 kid).phase ≠ .empty →
    (kernel s1 kid).phase ≠ .running → imgSlot (kernel s1 kid) ≠ 1 →
    (imgSlot (kernel s1 kid) = 2 → (stream s1 ch).enabled = false) → s1.power.hold = false →
    (imgSlot (kernel s1 kid) = 2 → channelKernel s1 ch = none →
      exec (.kernelStart t) s = .next (finishCmd p (startAnswer s1 kid ch) s1)) ∧
    (imgSlot (kernel s1 kid) ≠ 2 → exec (.kernelStart t) s = .next (finishCmd p (startAnswer s1 kid ch) s1)) ∧
    (imgSlot (kernel s1 kid) = 2 → channelKernel s1 ch ≠ none →
      exec (.kernelStart t) s = .next (finishCmd p (cmdRefuse s1 .busy) s1))) ∧
  (∀ s kid ch, (admission s { caseNow s with starting := some kid } = none →
      startAnswer s kid ch = cmdOk (runKernel kid ch s)) ∧
    (∀ n, admission s { caseNow s with starting := some kid } = some n →
      startAnswer s kid ch = cmdRefuse s .budgetExceeded n)) ∧
  (∀ t s p s1 kid ch, taken t 0x0402 s = some (p, s1) → kid = fldN (par p 0) 0 8 → ch = fldN (par p 0) 8 3 →
    reservedOk (par p 0) 0x7FF = true → kid ≤ 15 →
    (kernel s1 kid).bobbins = [] ∨ (kernel s1 kid).phase = .running ∨ imgSlot (kernel s1 kid) = 1 ∨
      (imgSlot (kernel s1 kid) = 2 ∧ (stream s1 ch).enabled = true) ∨ s1.power.hold = true →
    exec (.kernelStart t) s = .next (finishCmd p (cmdRefuse s1 .wrongState) s1)) ∧
  (∀ k kid rank (b : Bobbin), (startedBobbin k kid rank b).running = true ∧
    (startedBobbin k kid rank b).pc = imgEntry k ∧ (startedBobbin k kid rank b).kid = kid ∧
    (startedBobbin k kid rank b).s.length = 16 ∧ (startedBobbin k kid rank b).s.getD 14 0 = wordOf k.bobbins.length ∧
    (startedBobbin k kid rank b).s.getD 15 0 = wordOf rank ∧ (startedBobbin k kid rank b).p.getD 0 0 = 0xFFFF ∧
    ∀ r < 32, (startedBobbin k kid rank b).v.getD r [] = zeroVec) ∧
  (∀ kid ch (s : State), kid < 16 → s.engines.user.length = 16 → (kernel (runKernel kid ch s) kid).phase = .running ∧
    (kernel (runKernel kid ch s) kid).bobbins = (kernel s kid).bobbins ∧
    { runKernel kid ch s with engines := s.engines, power := s.power, events := s.events } = s) ∧
  (∀ t s p s1 kid, taken t 0x0403 s = some (p, s1) → kid = fldN (par p 0) 0 8 → reservedOk (par p 0) 0xFF = true →
    kid ≤ 15 → (kernel s1 kid).phase = .running → imgSlot (kernel s1 kid) ≠ 1 →
    (imgSlot (kernel s1 kid) = 2 → (stream s1 (kernel s1 kid).channel).enabled = false) →
    exec (.kernelStop t) s = .next (finishCmd p (cmdOk (pump (endKernel kid .stopped (finishKernel kid s1)))) s1)) ∧
  (∀ t s p s1 kid, taken t 0x0403 s = some (p, s1) → kid = fldN (par p 0) 0 8 → reservedOk (par p 0) 0xFF = true →
    kid ≤ 15 → (kernel s1 kid).phase ≠ .running ∨ imgSlot (kernel s1 kid) = 1 ∨
      (imgSlot (kernel s1 kid) = 2 ∧ (stream s1 (kernel s1 kid).channel).enabled = true) →
    exec (.kernelStop t) s = .next (finishCmd p (cmdRefuse s1 .wrongState) s1)) ∧
  (∀ t s p s1 kid, taken t 0x0404 s = some (p, s1) → kid = fldN (par p 0) 0 8 → reservedOk (par p 0) 0xFF = true →
    kid ≤ 15 ∨ (0x80 ≤ kid ∧ kid ≤ 0x83) →
    ∃ ws, exec (.kernelStatus t) s = .next (finishCmd p (cmdOk s1 ws) s1) ∧ ws.length = 71 ∧
      fldN (ws.getD 0 0) 0 8 = kernelStateCode s1 kid ∧ fld (ws.getD 0 0) 16 8 = (kernel s1 kid).fault ∧
      fld (ws.getD 0 0) 8 8 = (kernel s1 kid).faultBobbin ∧ fld (ws.getD 1 0) 0 12 = (kernel s1 kid).faultPc ∧
      fldN (ws.getD 1 0) 12 4 = min 15 ((kernel s1 kid).bobbins.filter fun b => (bobbin s1 b).accSat).length ∧
      ws.getD 2 0 = (kernel s1 kid).versions ∧ ws.getD 3 0 = (kernel s1 kid).tapAbandoned ∧
      ws.getD 4 0 = (kernel s1 kid).stallUs ∧ ws.getD 6 0 = (kernel s1 kid).resultSeq ∧
      ws.getD 5 0 = (if kid < 16 then imgTag (kernel s1 kid) else vendorVersion s1 (kid - 0x80)) ∧
      ∀ i < 64, ws.getD (7 + i) 0 = (kernel s1 kid).result.getD i 0) ∧
  (∀ kid s, kid < 16 → (kernelStateCode s kid = 0 ↔ (kernel s kid).phase = .empty) ∧
    (kernelStateCode s kid = 1 ↔ (kernel s kid).phase = .loaded) ∧
    (kernelStateCode s kid = 2 ↔ (kernel s kid).phase = .stopped) ∧
    (kernelStateCode s kid = 3 ↔ (kernel s kid).phase = .running) ∧
    (kernelStateCode s kid = 4 ↔ (kernel s kid).phase = .faulted)) ∧
  (∀ t (kid : Byte) (b : Fin 128) s, kid.toNat < 16 → kernelRuns s kid.toNat = true → blockRuns .bobbin s = true →
    hangs (setNow t s) kid.toNat b.val = true →
    exec (.kernelHangTimeout t kid b) s = .next (bobbinFault b.val 10 (setNow t s))) ∧
  (∀ t (kid : Byte) (b : Fin 128) s, kid.toNat < 16 → hangs (setNow t s) kid.toNat b.val = false →
    exec (.kernelHangTimeout t kid b) s = .next (setNow t s)) ∧
  (∀ kid b s, hangs s kid b = true ↔ (bobbin s b).running = true ∧ b ∈ (kernel s kid).bobbins ∧
    ((((∃ x, (bobbin s b).wait = some (.barrier x)) ∨ ∃ x, (bobbin s b).wait = some (.semaphore x)) ∧
        imgTimeoutMs (kernel s kid) * 16000000 < grantedIn s (bobbin s b).waitSpan) ∨
      ((imgSlot (kernel s kid) = 1 ∨ imgSlot (kernel s kid) = 2) ∧ ((bobbin s b).in0 ≠ [] ∨ (bobbin s b).in1 ≠ []) ∧
        imgTimeoutMs (kernel s kid) * 16000000 < grantedIn s (bobbin s b).idleSpan))) ∧
  (∀ t (kid : Byte) (b : Fin 128) s v, kid.toNat = 0x80 + v → v ≤ 3 → b.val / 16 ∈ vendorPillows v → vendorHeld s v = true →
    vendorFaulted s v = false → blockRuns .bobbin s = true →
    ∃ pc < 4096, exec (.kernelHangTimeout t kid b) s =
      .next (faultKernel kid.toNat 10 b.val pc { setNow t s with free := s.free + 1 })) ∧
  (∀ t s, ∃ u, exec (.grantPeriod t) s = .next (arbitrate u) ∧ { u with engines := s.engines } = setNow t s ∧
    { u.engines with user := s.engines.user, vendor := s.engines.vendor, bobbins := s.engines.bobbins } = s.engines ∧
    (∀ b, u.engines.bobbins[b]? = s.engines.bobbins[b]?.map fun x =>
      if grantedAt s (b / 16) = true then x else passUngranted 160000 x) ∧
    (∀ v, u.engines.vendor[v]? = s.engines.vendor[v]?.map fun k =>
      if ∃ p ∈ vendorPillows v, vendorHolds s.exposure.cfg s.front.cfg p = true ∧ grantedAt s p = false
        then { k with stallUs := k.stallUs + 10 } else k) ∧
    u.engines.user = s.engines.user.map fun k =>
      if k.phase = .running ∧ ∃ p ∈ kernelPillows k, grantedAt s p = false then { k with stallUs := k.stallUs + 10 } else k) ∧
  (∀ s v p, s.power.granted.length = 8 → v < 8 → p < 8 → userPillow s v = false → s.power.granted.getD v true = true →
    (arbitrate s).power.granted.getD v true = false → userPillow s p = true → 0 < pillowMw s (caseNow s) p →
    runsUnder s (arbitrate s).power.granted p = false) ∧
  (∀ s : State, { arbitrate s with power := s.power, events := s.events } = s)
/-! ### The trunk (R260–R287) -/

/-- R283–R286: TRUNK_CONFIG keeps its values for the port and acts on it, at once for a two-wire requester and after the reply
for a trunk one; TRUNK_STATUS reads the port; LANE_DIAG reads lanes, starts a scan in the background, takes a port out of
service and reads its tests; a scan that ends keeps the openings of its lanes. The model's choices in it: log entries 73
and 209. -/
def Obligations.TrunkCommandsConfigureAndReadPorts : Prop :=
  (∀ t s p s1 pt new u, taken t 0x0502 s = some (p, s1) →
    firstReserved (cmdOf p).words [0xFFB73, 0xFFFFFF, 0x1FEF] = none → pt = portOf (bitAt (par p 0) 0) →
    new = trunkOf (overlay (cmdOf p).words (trunkWords pt ((getPort s1 pt).nextCfg.getD (getPort s1 pt).cfg))) →
    trunkBad new = none → u = updPort s1 pt (fun x => { x with
      cfg := { x.cfg with dozeEn := new.dozeEn, dozeIdle := new.dozeIdle }
      nextCfg := some new }) →
    (new.enable = true → bitAt (par p 0) 14 = false → (getPort s1 pt).phase ≠ .disabled →
      exec (.trunkConfig t) s = .next (finishCmd p (cmdOk u) s1)) ∧
    (new.enable = true → bitAt (par p 0) 14 = false → (getPort s1 pt).phase = .disabled →
      exec (.trunkConfig t) s = .next (finishCmd p (cmdOk (startAttempt pt true u)) s1)) ∧
    (cutsOff (cmdOf p) pt s1 = false ∨ bitAt (par p 0) 15 = true → new.enable = true → bitAt (par p 0) 14 = true →
      exec (.trunkConfig t) s = .next (finishCmd p (cmdOk (planAct (cmdOf p) pt .retrain u)) s1)) ∧
    (cutsOff (cmdOf p) pt s1 = false ∨ bitAt (par p 0) 15 = true → new.enable = false → (getPort s1 pt).phase ≠ .disabled →
      exec (.trunkConfig t) s = .next (finishCmd p (cmdOk (planAct (cmdOf p) pt .disable u)) s1)) ∧
    (cutsOff (cmdOf p) pt s1 = true → bitAt (par p 0) 15 = false → (new.enable = false ∨ bitAt (par p 0) 14 = true) →
      exec (.trunkConfig t) s = .next (finishCmd p (cmdRefuse s1 .notPermitted) s1))) ∧
  (∀ t s p s1 pt i, taken t 0x0502 s = some (p, s1) → firstReserved (cmdOf p).words [0xFFB73, 0xFFFFFF, 0x1FEF] = none →
    pt = portOf (bitAt (par p 0) 0) →
    trunkBad (trunkOf (overlay (cmdOf p).words (trunkWords pt ((getPort s1 pt).nextCfg.getD (getPort s1 pt).cfg)))) = some i →
    exec (.trunkConfig t) s = .next (finishCmd p (cmdBad s1 i) s1)) ∧
  (∀ c pt a s, (c.via = none → planAct c pt a s = doAct pt a s) ∧
    (c.via ≠ none → planAct c pt a s = updPort s pt fun x => { x with act := some a })) ∧
  (∀ pt s, (getPort (doAct pt .disable s) pt).phase = .disabled ∧
    (getPort (doAct pt .retrain s) pt).phase =
      if ((getPort s pt).nextCfg.getD (getPort s pt).cfg).enable then .detect else .disabled) ∧
  (∀ pt fast s, ((getPort s pt).nextCfg.getD (getPort s pt).cfg).enable = true → ∃ x, getPort (startAttempt pt fast s) pt = x ∧
    x.phase = .detect ∧ x.cfg = (getPort s pt).nextCfg.getD (getPort s pt).cfg ∧ x.nextCfg = none ∧ x.txSeq = 0 ∧
    x.rxSeq = 0 ∧ x.replay = [] ∧ x.attemptAt = s.now.real ∧ x.ready = false ∧
    x.rate = (if fast && x.cfg.fastRetrain then ((getPort s pt).record.map (·.rate)).getD 0 else 0)) ∧
  (∀ t s p s1 x, taken t 0x0501 s = some (p, s1) → firstReserved (cmdOf p).words [1] = none →
    x = getPort s1 (portOf (bitAt (par p 0) 0)) → ∃ ws, exec (.trunkStatus t) s = .next (finishCmd p (cmdOk s1 ws) s1) ∧
      ws.length = 12 ∧ fldN (ws.getD 0 0) 28 4 = trunkState x ∧ fld (ws.getD 0 0) 26 2 = x.rate ∧
      fld (ws.getD 0 0) 24 2 = x.widthRx ∧ fld (ws.getD 0 0) 22 2 = x.widthTx ∧ bitAt (ws.getD 0 0) 21 = x.cfg.clocking ∧
      bitAt (ws.getD 0 0) 20 = x.txDoze ∧ bitAt (ws.getD 0 0) 19 = x.rxDoze ∧ fld (ws.getD 0 0) 15 4 = x.lanesRx ∧
      (∀ l < 4, bitAt (ws.getD 0 0) (11 + l) = (laneAt x l).inverted) ∧ fld (ws.getD 0 0) 0 7 = x.partnerAddr ∧
      (∀ l < 4, fld (ws.getD 1 0) (8 * l) 8 = (laneAt x l).fom) ∧
      fld (ws.getD 2 0) 16 16 = x.partnerTag ∧ fld (ws.getD 2 0) 8 8 = x.partnerEtp ∧ fld (ws.getD 2 0) 4 4 = x.failStage ∧
      fld (ws.getD 2 0) 0 4 = x.failReason ∧ ws.getD 3 0 = x.bringups ∧ ws.getD 4 0 = x.linkDowns ∧ ws.getD 5 0 = x.sheds ∧
      ws.getD 6 0 = x.restores ∧ ws.getD 7 0 = x.replayed ∧ ws.getD 8 0 = x.naksSent ∧ ws.getD 9 0 = x.stomped ∧
      ws.getD 10 0 = x.hdrErrs ∧ fld (ws.getD 11 0) 16 16 = x.ebSlip ∧ fld (ws.getD 11 0) 0 16 = x.dozeWakes) ∧
  (∀ t s p s1 pt m test, taken t 0x0506 s = some (p, s1) → firstReserved (cmdOf p).words [0xF0F01, 0xFF] = none →
    pt = portOf (bitAt (par p 0) 0) → m = fld (par p 0) 16 4 → test = fldN (par p 0) 8 4 →
    (test = 0 → exec (.laneDiag t) s = .next (finishCmd p (cmdOk (updPort s1 pt (clearHdrErr m))
      ((maskLanes m).flatMap fun l => laneRead (laneAt (getPort s1 pt) l))) s1)) ∧
    (test = 1 → fld (par p 1) 0 8 ≠ 0 → (getPort s1 pt).eye = none →
      exec (.laneDiag t) s = .next (finishCmd p (cmdPending (startWork (cmdOf p).req (.laneDiag pt)
        (updPort s1 pt fun x => { x with eye := some m }))) s1)) ∧
    (test = 1 → fld (par p 1) 0 8 = 0 → exec (.laneDiag t) s = .next (finishCmd p (cmdBad s1 1) s1)) ∧
    (test = 2 → (getPort s1 pt).eye = none → exec (.laneDiag t) s = .next (finishCmd p (cmdOk s1 ((maskLanes m).map fun l =>
      mkWord [(((getPort s1 pt).eyes.getD l (0, 0)).1.toNat, 24), (((getPort s1 pt).eyes.getD l (0, 0)).2.toNat, 16)])) s1)) ∧
    ((test = 1 ∧ fld (par p 1) 0 8 ≠ 0) ∨ test = 2 → (getPort s1 pt).eye ≠ none →
      exec (.laneDiag t) s = .next (finishCmd p (cmdRefuse s1 .busy) s1)) ∧
    (test = 3 ∨ test = 6 ∨ test = 7 → cutsOff (cmdOf p) pt s1 = false → exec (.laneDiag t) s =
      .next (finishCmd p (cmdOk (planAct (cmdOf p) pt (.diag (BitVec.ofNat 4 test) m) s1)) s1)) ∧
    (test = 3 ∨ test = 6 ∨ test = 7 → cutsOff (cmdOf p) pt s1 = true →
      exec (.laneDiag t) s = .next (finishCmd p (cmdRefuse s1 .notPermitted) s1)) ∧
    (test = 4 → (getPort s1 pt).phase = .diag → (getPort s1 pt).prbs ≠ 0 →
      exec (.laneDiag t) s = .next (finishCmd p (prbsRead pt (maskLanes m) s1) s1)) ∧
    (test = 5 ∨ test = 8 → (getPort s1 pt).phase = .diag →
      exec (.laneDiag t) s = .next (finishCmd p (cmdOk (startAttempt pt true s1)) s1)) ∧
    (test = 4 ∨ test = 5 ∨ test = 8 → (getPort s1 pt).phase ≠ .diag →
      exec (.laneDiag t) s = .next (finishCmd p (cmdRefuse s1 .wrongState) s1)) ∧
    (8 < test → exec (.laneDiag t) s = .next (finishCmd p (cmdBad s1 0) s1))) ∧
  (∀ m (x : TrunkPort) l, (laneAt (clearHdrErr m x) l).fom = (laneAt x l).fom ∧
    (laneAt (clearHdrErr m x) l).hdrErr = if bitAt m l then 0 else (laneAt x l).hdrErr) ∧
  (∀ pt test m s, (getPort (enterDiag pt test m s) pt).phase = .diag ∧ ((getPort s pt).phase ≠ .diag →
    (test = 3 → (getPort (enterDiag pt test m s) pt).prbs = m ∧ (getPort (enterDiag pt test m s) pt).loopFar = 0) ∧
    (test = 7 → (getPort (enterDiag pt test m s) pt).loopFar = m ∧ (getPort (enterDiag pt test m s) pt).prbs = 0))) ∧
  (∀ pt (l : Fin 4) s, bitAt (getPort s pt).prbs l.val = true → (getPort s pt).lanes.length = 4 →
    ∃ w u, prbsRead pt [l.val] s = cmdOk u [w, wordOf (prbsBits s (getPort s pt) l.val)] ∧
    (bitAt (getPort s pt).loopNear l.val = true → w = 0) ∧
    (laneAt (getPort u pt) l.val).prbsFrom = some s.now.real ∧
    ∀ k, k ≠ l.val → laneAt (getPort u pt) k = laneAt (getPort s pt) k) ∧
  (∀ t pt b s, (getPort s pt).eye = none → exec (.eyeScanComplete t pt b) s = .next (setNow t s)) ∧
  (∀ t pt b s m, (getPort s pt).eye = some m → (getPort s pt).eyes.length = 4 → ∃ e,
    exec (.eyeScanComplete t pt b) s = .next (raise 0x0507 (portNo pt) 0 0 (endWork (.laneDiag pt)
      (updPort (setNow t s) pt fun x => { x with
        eye := none
        eyes := e }))) ∧
    ∀ l < 4, e.getD l (0, 0) = if bitAt m l then
      (b.getD (2 * (maskLanes m).idxOf l) 0, b.getD (2 * (maskLanes m).idxOf l + 1) 0) else (getPort s pt).eyes.getD l (0, 0))

/-- R262, R263, R266–R274: bring-up goes from stage to stage as each stage's condition holds, a stage's timeout or a fault ends
the attempt, backoff lasts 1 ms and a random 0–1 ms, the idle of a rate switch 10 µs; markers and capabilities are noted in
training; the lane scrambler is undone by its descrambler; nothing happens while the trunk domain is in reset. The model's
choices in it: log entries 71, 72, 171, 173, 208 and 209. -/
def Obligations.TrunkBringUpGoesByStages : Prop :=
  (∀ t pt lane present s, trunkLive s = false → (present = false ∨ bitAt s.power.wakePorts (portNo pt) = false) →
    exec (.signalDetect t pt lane present) s = .next (setNow t s) ∧
    exec (.bringupStageTimeout t pt) s = .next (setNow t s) ∧ exec (.laneLoss t pt lane) s = .next (setNow t s) ∧
    exec (.dozeEntry t pt) s = .next (setNow t s) ∧ exec (.replayTimeout t pt) s = .next (setNow t s)) ∧
  (∀ t pt (lane : Fin 4) s, trunkLive s = true → (getPort s pt).phase = .detect → (getPort s pt).rxDoze = false →
    bitAt s.power.wakePorts (portNo pt) = false → exec (.signalDetect t pt lane true) s = .next (driveDue pt
      (updPort (setNow t s) pt (updLane lane.val fun l => { l with detect := true })))) ∧
  (∀ t pt (lane : Fin 4) s u, trunkLive s = true →
    u = driveDue pt (updPort (setNow t s) pt (updLane lane.val fun l => { l with detect := false })) →
    ((getPort s pt).phase = .block → (usableLanes (getPort u pt)).length < lanesOf (getPort s pt).cfg.minWidth →
      exec (.signalDetect t pt lane false) s = .next (failAttempt pt 3 u)) ∧
    ((getPort s pt).phase = .up → exec (.signalDetect t pt lane false) s = .next (signalGone pt lane.val u))) ∧
  (∀ t pt lanes eyes s, trunkLive s = true → (getPort s pt).phase = .detect →
    lanesOf (getPort s pt).cfg.minWidth ≤ (usableLanes (getPort s pt)).length →
    ∃ u, exec (.bringupStageComplete t pt lanes eyes) s = .next u ∧ (getPort u pt).phase = .cdr ∧
      (getPort u pt).attemptAt = (setNow t s).now.real ∧ (getPort u pt).stageAt = (setNow t s).now.real ∧
      (getPort u pt).lanes = (getPort (driveDue pt (setNow t s)) pt).lanes ∧
      getPort u (otherPort pt) = getPort s (otherPort pt) ∧
      { u with west := s.west, east := s.east } = { driveDue pt (setNow t s) with west := s.west, east := s.east }) ∧
  (∀ t pt lanes eyes s u, trunkLive s = true → u = updPort (driveDue pt (setNow t s)) pt (fun x =>
      { x with lanes := x.lanes.zipIdx.map fun l => { l.1 with locked := bitAt lanes l.2 } }) →
    ((getPort s pt).phase = .cdr → (pllOf s (portPll pt)).phase = .locked → covers lanes (getPort s pt) = true →
      exec (.bringupStageComplete t pt lanes eyes) s = .next (updPort u pt (enterStage .block u.now.real))) ∧
    ((getPort s pt).phase = .cdr → ((pllOf s (portPll pt)).phase ≠ .locked ∨ covers lanes (getPort s pt) = false) →
      exec (.bringupStageComplete t pt lanes eyes) s = .next u) ∧
    ((getPort s pt).phase = .block → exec (.bringupStageComplete t pt lanes eyes) s =
      .next (if covers lanes (getPort s pt) then updPort u pt (enterStage .polarity u.now.real) else u))) ∧
  (∀ t pt lanes eyes s, trunkLive s = true → (getPort s pt).phase = .polarity →
    (∀ l ∈ usableLanes (getPort s pt), 2 ≤ (laneAt (getPort s pt) l).marks) →
    exec (.bringupStageComplete t pt lanes eyes) s =
      .next (updPort (driveDue pt (setNow t s)) pt (enterStage .deskew (setNow t s).now.real))) ∧
  (∀ t pt lanes eyes s q, trunkLive s = true → (getPort s pt).phase = .deskew →
    (∀ l ∈ usableLanes (getPort s pt), (laneAt (getPort s pt) l).markSeq = q) →
    (deskewFault (getPort s pt) = none → exec (.bringupStageComplete t pt lanes eyes) s =
      .next (updPort (driveDue pt (setNow t s)) pt (enterStage .adapt (setNow t s).now.real))) ∧
    (∀ r, deskewFault (getPort s pt) = some r →
      exec (.bringupStageComplete t pt lanes eyes) s = .next (failAttempt pt r (driveDue pt (setNow t s))))) ∧
  (∀ t pt lanes eyes s, trunkLive s = true → (getPort s pt).phase = .adapt →
    passed (setNow t s) (getPort s pt).stageAt 256000 = true →
    exec (.bringupStageComplete t pt lanes eyes) s = .next (adaptDone pt eyes (driveDue pt (setNow t s)))) ∧
  (∀ pt eyes s, (getPort s pt).phase = .adapt → (∀ l ∈ usableLanes (getPort s pt),
      (fomOf (eyes.getD l ⟨0, 0⟩)).toNat < (getPort s pt).cfg.fomMin.toNat) → (getPort s pt).lanes.length = 4 →
    ∃ u, adaptDone pt eyes s = failAttempt pt 2 u ∧ ∀ l < 4, (laneAt (getPort u pt) l).fom = fomOf (eyes.getD l ⟨0, 0⟩)) ∧
  (∀ h w, (fomOf ⟨h, w⟩).toNat = min (min h 255) (min (2 * w) 255)) ∧
  (∀ t pt lanes eyes s c, trunkLive s = true → (getPort s pt).phase = .caps → (getPort s pt).partnerCaps = some c →
    3 ≤ (getPort s pt).capsSeen → (getPort s pt).ready = true →
    exec (.bringupStageComplete t pt lanes eyes) s = .next (resolveCaps pt c (driveDue pt (setNow t s)))) ∧
  (∀ pt c s, (fldN c 8 4 ≠ 1 → fldN c 8 4 ≠ 2 → resolveCaps pt c s = failAttempt pt 5 s) ∧
    (fldN c 8 4 = 1 ∨ fldN c 8 4 = 2 → bitAt c 20 ≠ (getPort s pt).cfg.clocking → resolveCaps pt c s = failAttempt pt 4 s) ∧
    (bitAt c 20 = (getPort s pt).cfg.clocking → fldN c 8 4 = 1 → (getPort s pt).widthRx ≠ 2 →
      resolveCaps pt c s = failAttempt pt 2 s)) ∧
  (∀ pt c s, fldN c 8 4 = 2 → bitAt c 20 = (getPort s pt).cfg.clocking →
    ((getPort s pt).fast = true → (getPort s pt).record.map (·.idTag) = some (fld c 48 16) → resolveCaps pt c s = goUp pt s) ∧
    ((getPort s pt).fast = true → (getPort s pt).record.map (·.idTag) ≠ some (fld c 48 16) →
      resolveCaps pt c s = failAttempt pt 1 s) ∧
    ((getPort s pt).fast = false → (getPort s pt).high = true → resolveCaps pt c s = goUp pt s) ∧
    ((getPort s pt).fast = false → (getPort s pt).high = false → (getPort s pt).rate = 0 → (getPort s pt).cfg.rateMax = 2 →
      (getPort s pt).leftOut = 0 → bitAt c 18 = true →
      (getPort (resolveCaps pt c s) pt).phase = .rateIdle ∧ (getPort (resolveCaps pt c s) pt).rate = 2 ∧
      (resolveCaps pt c s).out.ctl = s.out.ctl ++ List.replicate 8 ⟨pt, none, ownCaps s pt⟩)) ∧
  (∀ pt s l, (getPort (goUp pt s) pt).phase = .up ∧ (getPort (goUp pt s) pt).positions = 0 ∧
    (getPort (goUp pt s) pt).leftOut = 0 ∧ (getPort (goUp pt s) pt).bringups = satInc (getPort s pt).bringups ∧
    (getPort (goUp pt s) pt).record = some ⟨(getPort s pt).partnerTag, (getPort s pt).rate, (getPort s pt).lanes⟩ ∧
    ((getPort s pt).lanes.length = 4 → l < 4 → bitAt (getPort s pt).lanesRx l = false →
      (laneAt (getPort (goUp pt s) pt) l).train = 2)) ∧
  (∀ s pt l, (pllOf s (portPll pt)).phase ≠ .locked ∨ s.now.real < (getPort s pt).quietTill → laneDrive s pt l = .off) ∧
  (∀ pt s l, (getPort s pt).phase = .up → laneDrive (hopDown pt s) pt l = .off) ∧
  (∀ pt s, inTraining (getPort s pt).phase = true → (getPort s pt).announced = false → mayDrive s pt = true →
    driveDue pt s = announce pt (updPort s pt fun x => { x with announced := true })) ∧
  (∀ pt s, (getPort s pt).announced = true ∨ mayDrive s pt = false → driveDue pt s = s) ∧
  (∀ n h i, i + 31 < n → (prbs31 n h).getD (i + 31) false =
    ((prbs31 n h).getD i false != (prbs31 n h).getD (i + 3) false)) ∧
  (∀ t pt s ns, trunkLive s = true → stageLimit (getPort s pt) = some ns →
    exec (.bringupStageTimeout t pt) s = .next (if passed (setNow t s) (getPort s pt).stageAt ns
      then failAttempt pt (timeoutReason (setNow t s) pt) (setNow t s) else setNow t s)) ∧
  (∀ pt s, ((getPort s pt).phase = .caps → timeoutReason s pt = 1) ∧ ((getPort s pt).phase = .block →
    ((usableLanes (getPort s pt)).filter fun l => (laneAt (getPort s pt) l).locked).length <
      lanesOf (getPort s pt).cfg.minWidth → timeoutReason s pt = 3)) ∧
  (∀ pt r s, (getPort s pt).fast = false → (getPort s pt).high = false → ∃ k ≤ 100,
    failAttempt pt r s = raise 0x0503 (portNo pt) (16 * stageNo (getPort s pt).phase + r) 0
      (updPort { s with free := s.free + 1 } pt fun x => { x with
        phase := .backoff
        stageAt := s.now.real
        backoffTo := s.now.real + 16 * (1000000 + 10000 * k)
        failStage := BitVec.ofNat 4 (stageNo (getPort s pt).phase)
        failReason := BitVec.ofNat 4 r })) ∧
  (∀ pt r s, (getPort s pt).fast = true → failAttempt pt r s = startAttempt pt false s) ∧
  (∀ pt r s, (getPort s pt).fast = false → (getPort s pt).high = true →
    failAttempt pt r s = startAttempt pt false (raise 0x0504 (portNo pt) (getPort s pt).rate.toNat 0
      (updPort s pt fun x => { x with leftOut := x.leftOut ||| BitVec.ofNat 3 (2 ^ x.rate.toNat) }))) ∧
  (∀ t pt s, trunkLive s = true → (getPort s pt).phase = .backoff → exec (.bringupBackoffEnd t pt) s =
    .next (if (getPort s pt).backoffTo ≤ (setNow t s).now.real then startAttempt pt true (setNow t s) else setNow t s)) ∧
  (∀ t pt s, trunkLive s = true → (getPort s pt).phase = .rateIdle →
    passed (setNow t s) (getPort s pt).stageAt 10000 = true → exec (.rateSwitchIdleEnd t pt) s =
      .next (driveDue pt (setPortRate pt (updPort (setNow t s) pt fun x =>
        { freshAttempt (setNow t s).now.real false x.rate x with high := true })))) ∧
  (∀ t pt s, (getPort s pt).phase = .rateIdle → passed (setNow t s) (getPort s pt).stageAt 10000 = false →
    exec (.rateSwitchIdleEnd t pt) s = .next (setNow t s)) ∧
  (∀ t pt (d : Int) s, trunkLive s = true → 4 ≤ stageNo (getPort s pt).phase → ∃ u, exec (.filler t pt d) s = .next u ∧
    ((getPort s pt).elastic + d < 0 ∨ 16 < (getPort s pt).elastic + d → (getPort u pt).elastic = 8 ∧
      (getPort u pt).ebSlip = satInc (getPort s pt).ebSlip ∧
      ((getPort u pt).slipped = true ↔ (getPort s pt).phase = .up)) ∧
    (4 ≤ (getPort s pt).elastic + d → (getPort s pt).elastic + d ≤ 12 →
      (getPort u pt).elastic = (getPort s pt).elastic + d ∧ (getPort u pt).ebSlip = (getPort s pt).ebSlip) ∧
    (12 < (getPort s pt).elastic + d → (getPort s pt).elastic + d ≤ 16 →
      (getPort u pt).elastic = (getPort s pt).elastic + d - 1) ∧
    (0 ≤ (getPort s pt).elastic + d → (getPort s pt).elastic + d < 4 →
      (getPort u pt).elastic = (getPort s pt).elastic + d + 1) ∧
    { u with west := s.west, east := s.east } = setNow t s) ∧
  (∀ t pt (lane : Fin 4) b inv m s, trunkLive s = true → readMark b = some (inv, m) → 4 ≤ stageNo (getPort s pt).phase →
    stageNo (getPort s pt).phase ≤ 7 →
    exec (.laneMark t pt lane b) s = .next (updPort (setNow t s) pt (updLane lane.val fun l => { l with
      marks := l.marks + 1
      inverted := inv
      txLane := fld m 8 2
      markWidth := fld m 10 2
      markEpoch := fld m 12 4
      markSeq := fld m 16 8
      markAt := (setNow t s).now.real }))) ∧
  (∀ t pt (lane : Fin 4) b inv m s, trunkLive s = true → readMark b = some (inv, m) → (getPort s pt).phase = .up →
    bitAt (getPort s pt).lanesRx lane.val = true →
    exec (.laneMark t pt lane b) s = .next (takeWidth pt (fld m 12 4) (updPort (setNow t s) pt
      (updLane lane.val fun l => { l with
        markWidth := fld m 10 2
        markEpoch := fld m 12 4
        markSeq := fld m 16 8
        markAt := (setNow t s).now.real })))) ∧
  (∀ b : BitVec 64, fldN b 0 8 = 0x4B → fldN b 24 40 = 0x5A3C96C3A5 → readMark b = some (false, b) ∧
    readMark (~~~ b) = some (true, b)) ∧
  (∀ l < 4, ∀ w e q, ∃ m, markBlock l w e q = m ∧ readMark m = some (false, m) ∧ fldN m 8 2 = l ∧ fld m 10 2 = w ∧
    fld m 12 4 = e ∧ fld m 16 8 = q) ∧
  (∀ t pt lane b s, trunkLive s = true → (getPort s pt).phase ≠ .diag → readMark b = none →
    exec (.laneMark t pt lane b) s = .next (setNow t s)) ∧
  (∀ t pt b s, trunkLive s = true → fldN b 0 8 = 0x55 → (getPort s pt).phase = .caps →
    bitAt b 20 = (getPort s pt).cfg.clocking → fldN b 8 4 = 1 ∨ fldN b 8 4 = 2 → ∃ u,
    exec (.caps t pt b) s = .next u ∧ (getPort u pt).partnerCaps = some b ∧ (getPort u pt).partnerTag = fld b 48 16 ∧
    (getPort u pt).partnerAddr = fld b 32 7 ∧
    (bitAt b 21 = true → (getPort u pt).capsSeen =
      if (getPort s pt).partnerCaps = some b then (getPort s pt).capsSeen + 1 else 1) ∧
    (bitAt b 21 = false → (getPort u pt).capsSeen = 0)) ∧
  (∀ t pt b s, trunkLive s = true → fldN b 0 8 = 0x55 → 4 ≤ stageNo (getPort s pt).phase →
    stageNo (getPort s pt).phase ≤ 7 → bitAt b 20 ≠ (getPort s pt).cfg.clocking → ∃ u,
    exec (.caps t pt b) s = .next (failAttempt pt 4 u)) ∧
  (∀ t pt b s, trunkLive s = true → fldN b 0 8 ≠ 0x55 → (getPort s pt).phase ≠ .diag →
    exec (.caps t pt b) s = .next (setNow t s)) ∧
  (∀ t pt (lane : Fin 4) b s, trunkLive s = true → (getPort s pt).phase = .diag →
    bitAt (getPort s pt).loopFar lane.val = true → exec (.laneMark t pt lane b) s =
      .next { setNow t s with out := { s.out with ctl := s.out.ctl ++ [⟨pt, some lane.val, b⟩] } }) ∧
  (∀ h d, descramble h (scramble h d).1 = (d, (scramble h d).2))

/-- R264, R275–R282: in service, a slot in order is accepted and owes an ACK, a bad one owes one NAK, an ACK frees replayed
slots, a NAK and the replay timeout send again, the fifth time takes the hop down; what is owed leaves in the control gap;
a sent slot carries a fresh CRC; lanes are shed and restored by WIDTH; doze begins and ends as its rules say. The model's
choices in it: log entries 72, 78, 91, 131, 132, 171, 172, 174, 175 and 209. -/
def Obligations.TrunkServiceKeepsSlotsInOrder : Prop :=
  (∀ pt seq s, seq = (getPort s pt).rxSeq → ∃ u, takeSlot pt .good seq s = (.content, u) ∧
    takeSlot pt .stomp seq s = (.stomped, u) ∧
    (getPort u pt).rxSeq = (getPort s pt).rxSeq + 1 ∧ (getPort u pt).ackOwed = true ∧ (getPort u pt).nakSent = false ∧
    (getPort u pt).nakOwed = false ∧ getPort u (otherPort pt) = getPort s (otherPort pt) ∧
    { u with west := s.west, east := s.east } = s) ∧
  (∀ pt seq s, (getPort s pt).nakSent = false → ∃ u, takeSlot pt .bad seq s = (.discard, u) ∧
    (getPort u pt).rxSeq = (getPort s pt).rxSeq ∧ (getPort u pt).nakSent = true ∧ (getPort u pt).nakOwed = true ∧
    (getPort u pt).ackOwed = (getPort s pt).ackOwed) ∧
  (∀ pt seq s, (getPort s pt).nakSent = true → takeSlot pt .bad seq s = (.discard, s)) ∧
  (∀ pt seq s, seqUpTo seq ((getPort s pt).rxSeq - 1) = true → takeSlot pt .good seq s =
    (.discard, updPort s pt fun x => { x with ackOwed := true })) ∧
  (∀ t pt rx before d s, trunkLive s = true → (getPort s pt).phase = .up → exec (.hopSlotReceive t pt rx before d) s =
    .next (takeRx pt (rxSlot (getPort s pt) rx before d.val) (setNow t s))) ∧
  (∀ t pt rx before d s, trunkLive s = true → (getPort s pt).phase = .diag → ∃ u,
    exec (.hopSlotReceive t pt rx before d) s = .next u ∧ u.out.wire = s.out.wire ++
      ((rx.filter fun b => laneDrive (setNow t s) pt b.lane.val == .looped).map fun b => ⟨pt, b.lane.val, b.sync, b.bits⟩) ∧
    { u with out := s.out } = setNow t s) ∧
  (∀ p (x y : TrunkPort) m slot tr, m ≠ 0 → slot.payload.length = 64 → x.dealt < (maskLanes m).length →
    x.lanes.length = 4 → y.lanesRx = m →
    (∀ l < 4, (laneAt y l).txLane.toNat = l ∧ (laneAt y l).inverted = false) →
    rxSlot y ((dealBlocks p (maskLanes m) (slotBlocks slot tr) x).1.map fun b => ⟨Fin.ofNat 4 b.lane, b.sync, b.bits⟩)
      ((List.range 4).map fun l => (laneAt x l).scram) x.dealt = ⟨slot, tr, true, true, []⟩) ∧
  (∀ h (bs : List RxBlock), laneIn true h (bs.map fun b => ⟨b.lane, ~~~ b.sync, ~~~ b.bits⟩) = laneIn false h bs) ∧
  (∀ pt r s u, (getPort s pt).slipped = false → r.bad = [] → r.whole = true →
    checkSlot r.slot r.trailer true = .good → slotSeq r.slot = (getPort s pt).rxSeq → noRoom s r.slot = false →
    u = updPort s pt (fun x => { x with
      rxSeq := x.rxSeq + 1
      nakSent := false
      nakOwed := false
      ackOwed := true }) →
    takeRx pt r s = loseBadLanes pt (takeContent pt r.slot u)) ∧
  (∀ pt r s u, (getPort s pt).slipped = false → r.bad = [] → r.headed = true → fldN r.slot.hdr 0 8 = 0xD2 →
    checkSlot r.slot r.trailer r.whole = .bad → slotSeq r.slot = (getPort s pt).rxSeq → noRoom s r.slot = false →
    (takeSlot pt .bad (slotSeq r.slot) s).2 = u → takeRx pt r s = loseBadLanes pt (stompForward pt r.slot u)) ∧
  (∀ pt r s, (getPort s pt).slipped = false → (getPort s pt).nakSent = true → r.bad = [] →
    checkSlot r.slot r.trailer r.whole = .bad → slotSeq r.slot ≠ (getPort s pt).rxSeq →
    takeRx pt r s = loseBadLanes pt s) ∧
  (∀ pt s, (∀ l < 4, headerLoss s (getPort s pt) l = false) → loseBadLanes pt s = s) ∧
  (∀ pt slot s, slotType slot = 0 → takeContent pt slot s = s) ∧
  (∀ t pt b s, trunkLive s = true → fldN b 0 8 = 0x87 → bitAt b 8 = false → (getPort s pt).phase = .up →
    exec (.ack t pt b) s = .next (updPort (setNow t s) pt (releaseSlots (fld b 9 12)))) ∧
  (∀ seq (x : TrunkPort) r, r ∈ (releaseSlots seq x).replay ↔ r ∈ x.replay ∧ 2048 ≤ (seq - r.seq).toNat) ∧
  (∀ t pt b s, trunkLive s = true → fldN b 0 8 = 0x87 → bitAt b 8 = true → (getPort s pt).phase = .up →
    exec (.nak t pt b) s = .next (resendFrom pt (fun r => decide ((r.seq - fld b 9 12).toNat < 2048)) (setNow t s))) ∧
  (∀ t pt b s, (getPort s pt).phase ≠ .up → (getPort s pt).phase ≠ .diag → exec (.ack t pt b) s = .next (setNow t s) ∧
    exec (.nak t pt b) s = .next (setNow t s) ∧ exec (.doze t pt b) s = .next (setNow t s)) ∧
  (∀ pt keep s r rs, (getPort s pt).replay = r :: rs → r.sends < 4 → ∃ u, resendFrom pt keep s = u ∧
    (getPort u pt).resend = (r :: rs).filter keep ∧ (getPort u pt).replay = r :: rs ∧
    { u with west := s.west, east := s.east } = s) ∧
  (∀ pt keep s r rs, (getPort s pt).replay = r :: rs → 4 ≤ r.sends → resendFrom pt keep s = hopDown pt s) ∧
  (∀ t pt s, trunkLive s = true → (getPort s pt).phase = .up → (getPort s pt).ackAt + 120 ≤ (getPort s pt).positions →
    exec (.replayTimeout t pt) s = .next (resendFrom pt (fun _ => true) (setNow t s))) ∧
  (∀ t pt s u, trunkLive s = true → (getPort s pt).phase = .up → txAwake (setNow t s) (getPort s pt) = true →
    u = endWake pt (setNow t s) →
    (∀ r rest, (getPort s pt).resend = r :: rest → exec (.slotPositionSend t pt) s =
      .next (settleStow (doActs (endPosition pt (resendSlot pt r rest u))))) ∧
    ((getPort s pt).resend = [] → exec (.slotPositionSend t pt) s =
      .next (settleStow (doActs (endPosition pt (sendNew pt u)))))) ∧
  (∀ t pt s, (getPort s pt).phase ≠ .up → exec (.slotPositionSend t pt) s = .next (setNow t s)) ∧
  (∀ pt s, ((getPort s pt).txWakeAt = none → endWake pt s = s) ∧ ((getPort s pt).txWakeAt ≠ none →
    endWake pt s = updPort (sendMarks pt (getPort s pt).lanesTx s) pt fun x => { x with txWakeAt := none })) ∧
  (∀ pt w s, ∃ y, y = hopFields (rsvDue (getPort s pt)) (getPort s pt).txSeq { w.slot with payload := leavingPayload s w } ∧
    (getPort (sendSlot pt w s) pt).txSeq = (getPort s pt).txSeq + 1 ∧
    (getPort (sendSlot pt w s) pt).replay = (getPort s pt).replay ++
      [{ seq := (getPort s pt).txSeq, slot := y, stomp := w.stomp, sends := 1 }] ∧
    (slotType y ≠ 0 → (sendSlot pt w s).out.hop = s.out.hop ++ [⟨pt, y, slotTrailer y w.stomp⟩])) ∧
  (∀ x, fldN x.hdr 0 8 = 0xD2 → checkSlot x (slotTrailer x false) true = .good ∧
    checkSlot x (slotTrailer x true) true = .stomp) ∧
  (∀ pt s, replaySize ≤ (getPort s pt).replay.length → sendNew pt s = hopDown pt s) ∧
  (∀ pt s w rest, (getPort s pt).replay.length < replaySize → (getPort s pt).transit = w :: rest →
    (rsvDue (getPort s pt) = false ∨ slotPrio w.slot ≤ 1) →
    sendNew pt s = sendSlot pt w (turnTransit (otherPort pt) (updPort s pt fun x => { x with transit := rest }))) ∧
  (∀ pt s, (wrapsAt s pt = false → turnTransit pt s = s) ∧
    ((getPort s (otherPort pt)).transit.length ≤ 8 → (getPort (turnTransit pt s) (otherPort pt)).transit.length ≤ 8) ∧
    (wrapsAt s pt = true → (getPort s (otherPort pt)).transit = [] → (getPort s pt).transit.length ≤ 8 →
      (getPort (turnTransit pt s) pt).transit = [] ∧ (getPort (turnTransit pt s) (otherPort pt)).transit =
        (getPort s pt).transit.map fun w => { w with slot := turned w.slot })) ∧
  (∀ pt stomp x s, (getPort s (forwardPort s x)).phase ≠ .up → forwardSlot pt stomp x s = s ∧ noRoom s x = false) ∧
  (∀ pt s, (getPort s pt).replay.length < replaySize → (getPort s pt).transit = [] → ownNext s pt = none →
    controlOnly s pt = false → sendNew pt s = sendSlot pt { slot := emptySlot (ownSrc s) (portRingB pt) } s) ∧
  (∀ pt s, (getPort s pt).phase = .up → ((getPort s pt).positions + 1) % 30 ≠ 0 →
    (getPort s pt).sinceMark < 16384 →
    endPosition pt s = updPort s pt fun x => { x with positions := x.positions + 1 }) ∧
  (∀ pt n s, (getPort (sendGap pt n s) pt).nakOwed = false ∧ ((getPort s pt).nakOwed = true →
      (getPort (sendGap pt n s) pt).naksSent = satInc (getPort s pt).naksSent ∧
      (getPort (sendGap pt n s) pt).ackOwed = (getPort s pt).ackOwed) ∧
    ((getPort s pt).nakOwed = false → (getPort (sendGap pt n s) pt).naksSent = (getPort s pt).naksSent ∧
      (getPort (sendGap pt n s) pt).ackOwed = false)) ∧
  (∀ (x : TrunkPort) n good, (x.nakOwed = true → (gapBlocks x n good).head? = some (ackBlock x.rxSeq true)) ∧
    (x.nakOwed = false → x.ackOwed = true → (gapBlocks x n good).head? = some (ackBlock (x.rxSeq - 1) false)) ∧
    (x.nakOwed = false → x.ackOwed = false → x.ask = none → x.dozeDue = false →
      (gapBlocks x n good).head? = some fillerBlock) ∧
    (∀ a, x.ask = some a → gapBlocks x n good =
      inFiller (gapBlocks { x with ask := none, dozeDue := false } n good) (widthBlock a.width good x.epochRx)) ∧
    (x.ask = none → x.dozeDue = true →
      gapBlocks x n good = inFiller (gapBlocks { x with dozeDue := false } n good) dozeBlock) ∧
    (x.ask = none → x.dozeDue = false →
      ((gapBlocks x n good).length = 2 ↔ x.cfg.clocking = false ∨ n / 30 % 16 = 0))) ∧
  (∀ bs b, inFiller (bs ++ [fillerBlock]) b = bs ++ [b] ∧ (bs.getLast? ≠ some fillerBlock → inFiller bs b = bs ++ [b])) ∧
  (∀ pt n s, (getPort s pt).dozeDue = true → (stillIdle s pt = true → (getPort (sendGap pt n s) pt).txDoze = true) ∧
    (stillIdle s pt = false → (getPort (sendGap pt n s) pt).txDoze = (getPort s pt).txDoze) ∧
    (getPort (sendGap pt n s) pt).dozeDue = false) ∧
  (∀ q nak, fldN (ackBlock q nak) 0 8 = 0x87 ∧ bitAt (ackBlock q nak) 8 = nak ∧ fld (ackBlock q nak) 9 12 = q) ∧
  (∀ t pt b s, trunkLive s = true → fldN b 0 8 = 0x66 → (getPort s pt).phase = .caps ∨ (getPort s pt).phase = .adapt →
    fld b 8 2 ≠ 3 → exec (.width t pt b) s = .next (updPort (setNow t s) pt fun x => { x with
      widthTx := fld b 8 2
      lanesTx := widthLanes (fld b 8 2) (maskLanes (fld b 10 4)) })) ∧
  (∀ t pt b s w lanes, trunkLive s = true → fldN b 0 8 = 0x66 → (getPort s pt).phase = .up → w = fld b 8 2 → w ≠ 3 →
    lanes = widthLanes w (maskLanes (fld b 10 4)) →
    (w = (getPort s pt).widthTx → lanes = (getPort s pt).lanesTx → exec (.width t pt b) s = .next (setNow t s)) ∧
    (w ≠ (getPort s pt).widthTx → ∃ u, exec (.width t pt b) s = .next u ∧ (getPort u pt).widthTx = w ∧
      (getPort u pt).lanesTx = lanes ∧ (getPort u pt).epochTx = (getPort s pt).epochTx + 1 ∧
      (getPort u pt).resend = (getPort s pt).replay ∧ u.out.ctl = s.out.ctl ++ (maskLanes lanes).map fun l =>
        ⟨pt, some l, markBlock l w ((getPort s pt).epochTx + 1) (getPort s pt).markSeq⟩)) ∧
  (∀ t pt (lane : Fin 4) s, trunkLive s = true → exec (.laneLoss t pt lane) s = .next (loseLane pt lane.val (setNow t s))) ∧
  (∀ pt l s, ((getPort s pt).phase ≠ .up ∨ (getPort s pt).rxDoze = true ∨ bitAt (getPort s pt).lanesRx l = false) →
    loseLane pt l s = s) ∧
  (∀ pt l s, (getPort s pt).phase = .up → (getPort s pt).rxDoze = false → bitAt (getPort s pt).lanesRx l = true →
    (laneAt (getPort s pt) l).lost = false → hasFeature s 4 = false → ∃ u, loseLane pt l s = hopDown pt u ∧
    u = raise 0x0505 (portNo pt) l 0 (updPort s pt (updLane l fun y =>
      { y with lost := true, goodSince := none, badAt := [], train := 2 }))) ∧
  (∀ pt l s, (getPort s pt).phase = .up → (getPort s pt).rxDoze = false → bitAt (getPort s pt).lanesRx l = true →
    (laneAt (getPort s pt) l).lost = false → (getPort (loseLane pt l s) pt).phase = .up → ∃ a,
    (getPort (loseLane pt l s) pt).ask = some a ∧ a.widen = false ∧ a.epoch = (getPort s pt).epochRx ∧
      ((∀ b ∈ (getPort s pt).ask, b.widen = true) → a.since = s.now.real) ∧
      (∀ b ∈ (getPort s pt).ask, b.widen = false → a.since = b.since)) ∧
  (∀ pt e s, (∀ a ∈ (getPort s pt).ask, groupCame (getPort s pt) a e = false) →
    takeWidth pt e s = updPort s pt fun x => { x with epochRx := e }) ∧
  (∀ (x : TrunkPort) a e, groupCame x a e = true ↔ e ≠ a.epoch ∧ ∀ l ∈ maskLanes (askLanes x a),
    (laneAt x l).markEpoch = e ∧ (laneAt x l).markWidth = a.width) ∧
  (∀ pt e w s a, (getPort s pt).ask = some a → w = a.width → groupCame (getPort s pt) a e = true →
    ∃ u, takeWidth pt e s = u ∧ (getPort u pt).widthRx = w ∧ (getPort u pt).lanesRx = askLanes (getPort s pt) a ∧
      (getPort u pt).epochRx = e ∧ (getPort u pt).ask = none ∧
      (w.toNat < (getPort s pt).widthRx.toNat → (getPort u pt).sheds = satInc (getPort s pt).sheds) ∧
      (w = (getPort s pt).widthRx → (getPort u pt).sheds = (getPort s pt).sheds ∧ ∃ v, u = arbitrate v ∧ v.events = s.events)) ∧
  (∀ t pt s a, trunkLive s = true → (getPort s pt).ask = some a → a.widen = false → exec (.shedTimeout t pt) s =
    .next (if passed (setNow t s) a.since 5000 then hopDown pt (setNow t s) else setNow t s)) ∧
  (∀ t pt eyes s, trunkLive s = true → (getPort s pt).phase ≠ .up ∨ (getPort s pt).rxDoze = true →
    exec (.fomMeasure t pt eyes) s = .next (setNow t s)) ∧
  (∀ t pt eyes s, trunkLive s = true → (getPort s pt).phase = .up → (getPort s pt).rxDoze = false →
    ∃ d : Nat → List (BitVec 6),
    exec (.fomMeasure t pt eyes) s = .next (loseLowLanes pt (updPort { setNow t s with free := s.free + 1 } pt fun x =>
      { x with lanes := x.lanes.zipIdx.map fun l =>
        takeFom (setNow t s).now.real x.cfg.fomMin.toNat (fomOf (eyes.getD l.2 ⟨0, 0⟩)) (d l.2) l.1 }))) ∧
  (∀ pt s, (∀ l < 4, ∀ n ∈ (laneAt (getPort s pt) l).lowSince, passed s n 10000000 = false) →
    loseLowLanes pt s = s) ∧
  (∀ pt s n, (laneAt (getPort s pt) 3).lowSince = some n → passed s n 10000000 = true →
    (∀ l < 3, (laneAt (getPort s pt) l).lowSince = none) → loseLowLanes pt s = loseLane pt 3 s) ∧
  (∀ now min f d l, l.train = 0 → (f.toNat < min → takeFom now min f d l =
      { l with fom := f, dfe := d, lowSince := some (l.lowSince.getD now), goodSince := none }) ∧
    (min ≤ f.toNat → takeFom now min f d l =
      { l with fom := f, dfe := d, lowSince := none, goodSince := some (l.goodSince.getD now) })) ∧
  (∀ t pt s good, trunkLive s = true → (getPort s pt).phase = .up → (getPort s pt).cfg.restoreEn = true →
    hasFeature s 4 = true → (getPort s pt).ask = none →
    (∀ n ∈ (getPort s pt).lastWiden, passed (setNow t s) n 1000000000 = true) →
    good = byTxLane (getPort s pt) ((usableLanes (getPort s pt)).filter fun l => bitAt (getPort s pt).lanesRx l ||
      (decide ((laneAt (getPort s pt) l).train = 0) &&
        (laneAt (getPort s pt) l).goodSince.any fun n => passed (setNow t s) n 100000000)) → good ≠ [] →
    (getPort s pt).widthRx.toNat < (widest good.length).toNat → exec (.widthRestore t pt) s =
      .next (updPort (setNow t s) pt fun x => { x with
        ask := some ⟨lanesMask good, widest good.length, (setNow t s).now.real, true, x.epochRx⟩ })) ∧
  (∀ t pt b s, trunkLive s = true → fldN b 0 8 = 0x99 → (getPort s pt).phase = .up →
    exec (.doze t pt b) s = .next (arbitrate (updPort (setNow t s) pt fun x => { x with rxDoze := true }))) ∧
  (∀ t pt s n c, trunkLive s = true → (getPort s pt).phase = .up → (getPort s pt).txDoze = false →
    (getPort s pt).cfg.dozeEn = true → (getPort s pt).partnerCaps = some c → bitAt c 22 = true →
    (getPort s pt).idleSince = some n → passed (setNow t s) n (1000 * (getPort s pt).cfg.dozeIdle.toNat) = true →
    (getPort s pt).replay = [] → (getPort s pt).ackOwed = false → (getPort s pt).nakOwed = false →
    (getPort s pt).ask = none → exec (.dozeEntry t pt) s = .next (updPort (setNow t s) pt fun x =>
      { x with dozeDue := true })) ∧
  (∀ t pt s, trunkLive s = true → (getPort s pt).phase = .up → (getPort s pt).txDoze = true →
    (getPort s pt).ackOwed = true ∨ (getPort s pt).nakOwed = true ∨ (getPort s pt).transit ≠ [] ∨ ownWaits (setNow t s) pt = true →
    ∃ u, exec (.dozeWake t pt) s = .next (arbitrate u) ∧
      (getPort u pt).txDoze = false ∧ (getPort u pt).idleSince = none ∧
      (getPort u pt).txWakeAt = some (setNow t s).now.real ∧ (getPort u pt).dozeWakes = satInc (getPort s pt).dozeWakes ∧
      (getPort u pt).transit = [] ∧
      (getPort u pt).replay.length = (getPort s pt).replay.length + (getPort s pt).transit.length ∧
      (getPort u pt).txSeq = (getPort s pt).txSeq + BitVec.ofNat 12 (getPort s pt).transit.length) ∧
  (∀ t pt m s, trunkLive s = true → (getPort s pt).rxWakeAt = none →
    exec (.wakeLockTimeout t pt m) s = .next (setNow t s)) ∧
  (∀ t pt s n, trunkLive s = true → (getPort s pt).rxWakeAt = some n → passed (setNow t s) n 10000 = true →
    exec (.wakeLockTimeout t pt 15) s = .next (updPort (setNow t s) pt fun x => { x with rxWakeAt := none }))

/-! ### The ring (R288–R319) -/

/-- R290–R292, R303, R318: a node answers DISCOVER with REPORT, probes and keeps an address no other node claims,
joins at the
owner, and holds the ASSIGNed address as confirmed; RING_MAP reads the ring's state; PORT_ASSIGN withdraws, refuses, or
claims a port and waits. The model's choices in it: log entries 70, 110, 113, 133 and 210. -/
def Obligations.RingAddressesAndPortCommands : Prop :=
  (∀ t s p s1, taken t 0x0503 s = some (p, s1) → firstReserved (cmdOf p).words [0] = none → ∃ ws,
    exec (.ringMap t) s = .next (finishCmd p (cmdOk s1 ws) s1) ∧ ws.length = 7 ∧
    fld (ws.getD 0 0) 0 7 = s1.ring.addr ∧ bitAt (ws.getD 0 0) 7 = (s1.ring.addrPhase == .confirmed) ∧
    fld (ws.getD 0 0) 8 8 = s1.ring.nodes ∧ fld (ws.getD 0 0) 16 16 = s1.ring.gen ∧
    fld (ws.getD 1 0) 16 8 = s1.ring.position ∧ fld (ws.getD 1 0) 24 8 = s1.ring.features ∧
    bitAt (ws.getD 1 0) 0 = s1.ring.wrapEast ∧ bitAt (ws.getD 1 0) 1 = s1.ring.wrapWest ∧
    bitAt (ws.getD 1 0) 2 = s1.ring.isString ∧ (s1.ring.lastRotor = none → bitAt (ws.getD 1 0) 3 = false) ∧
    (∀ a, s1.ring.lastRotor = some a → bitAt (ws.getD 1 0) 3 = !passed s1 a 1000000) ∧
    ws.getD 2 0 = wordOf s1.ring.cRing.toNat ∧ ws.getD 3 0 = s1.ring.tRotNs ∧ ws.getD 4 0 = s1.ring.orphans ∧
    ws.getD 5 0 = s1.ring.wraps ∧ ws.getD 6 0 = s1.ring.collisions) ∧
  (∀ t pt m s, trunkLive s = true → (getPort s pt).phase = .up → ∃ u,
    exec (.discover t pt m) s = .next u ∧ u.ring.position = (if m.ringB then s.ring.position else m.hops) ∧
    (m.ringB = true → u.ring.hopsB = some m.hops) ∧ (m.ringB = false → u.ring.hopsA = some m.hops) ∧
    u.ring.ownQueue.length = s.ring.ownQueue.length + 1 ∧
    (u.ring.ownQueue.getLast?.map fun w => (slotOp w.slot, slotDest w.slot, w.slot.payload.getD 1 0)) =
      some (0x02, 0, lo32 s.rst.fuses.deviceId) ∧
    { u with ring := s.ring } = setNow t s) ∧
  (∀ s d, (ringTo s d = true → dualRing s = true ∧ d = 0) ∧ (dualRing s = true → ∀ a b, s.ring.hopsA = some a →
    s.ring.hopsB = some b → (ringTo s 0 = true ↔ a.toNat < b.toNat))) ∧
  (∀ t pt m b s, (getPort s pt).phase ≠ .up → exec (.discover t pt m) s = .next (setNow t s) ∧
    exec (.probe t pt m b) s = .next (setNow t s) ∧ exec (.assign t pt m) s = .next (setNow t s) ∧
    exec (.rotor t pt m) s = .next (setNow t s) ∧ exec (.time t pt m) s = .next (setNow t s)) ∧
  (∀ t pt m b s, trunkLive s = true → (getPort s pt).phase = .up → mgmtId m = s.rst.fuses.deviceId →
    s.ring.probing = true → s.ring.probeClaimed = false → exec (.probe t pt m b) s =
      .next (sendJoin { setNow t s with ring := { s.ring with probing := false } })) ∧
  (∀ t pt m b s, trunkLive s = true → (getPort s pt).phase = .up → mgmtId m = s.rst.fuses.deviceId →
    (s.ring.probing = false ∨ s.ring.probeClaimed = true) → exec (.probe t pt m b) s = .next (setNow t s)) ∧
  (∀ t pt m b s, trunkLive s = true → (getPort s pt).phase = .up → mgmtId m ≠ s.rst.fuses.deviceId →
    s.ring.addrPhase = .tentative → s.ring.addr = fld (mgmtWord m 3) 0 7 → exec (.probe t pt m b) s =
      .next (collide b (sendMgmt 0x04 127 false [mgmtWord m 1, mgmtWord m 2, wordOf s.ring.addr.toNat] (setNow t s)))) ∧
  (∀ t pt m b s, trunkLive s = true → (getPort s pt).phase = .up → mgmtId m ≠ s.rst.fuses.deviceId →
    (s.ring.addrPhase = .none ∨ s.ring.addr ≠ fld (mgmtWord m 3) 0 7) → exec (.probe t pt m b) s = .next (setNow t s)) ∧
  (∀ t pt m b s, trunkLive s = true → (getPort s pt).phase = .up → mgmtId m ≠ s.rst.fuses.deviceId →
    s.ring.addrPhase = .confirmed → s.ring.addr = fld (mgmtWord m 3) 0 7 → exec (.probe t pt m b) s =
      .next (sendMgmt 0x04 127 false [mgmtWord m 1, mgmtWord m 2, wordOf s.ring.addr.toNat] (setNow t s))) ∧
  (∀ t pt m b s, trunkLive s = true → (getPort s pt).phase = .up → mgmtId m = s.rst.fuses.deviceId →
    s.ring.addrPhase = .tentative → s.ring.addr = fld (mgmtWord m 3) 0 7 → s.ring.collided = false → ∃ u,
    exec (.claimed t pt m b) s = .next u ∧ u.ring.addrPhase = .none ∧ u.ring.addr = 0x7F ∧ u.ring.backoff = true ∧
    u.ring.joinAt = some ((setNow t s).now.real + 16000 * min b 1023) ∧ { u with ring := s.ring, events := s.events } = setNow t s) ∧
  (∀ t s, trunkLive s = true → s.ring.backoff = true → s.ring.joinAt.getD 0 ≤ (setNow t s).now.real →
    exec (.joinBackoffEnd t) s = .next (sendJoin (setNow t s))) ∧
  (∀ t s a, trunkLive s = true → s.ring.joinAt = some a → s.ring.backoff = false → s.ring.addrPhase ≠ .confirmed →
    passed (setNow t s) a 10000000 = true → exec (.joinRetry t) s = .next (sendJoin (setNow t s))) ∧
  (∀ t s, s.ring.joinAt = none → exec (.joinRetry t) s = .next (setNow t s)) ∧
  (∀ s, (sendJoin s).ring.joinAt = some s.now.real ∧ (sendJoin s).ring.backoff = false ∧
    (sendJoin s).ring.ownQueue.length = s.ring.ownQueue.length + 1) ∧
  (∀ t pt m s, trunkLive s = true → (getPort s pt).phase = .up → mgmtId m = s.rst.fuses.deviceId → ∃ u,
    exec (.assign t pt m) s = .next u ∧ u.ring.addrPhase = .confirmed ∧ u.ring.addr = fld (mgmtWord m 3) 0 7 ∧
    u.ring.joinAt = none ∧ { u with ring := s.ring } = setNow t s) ∧
  (∀ t pt m s, trunkLive s = true → (getPort s pt).phase = .up → mgmtId m ≠ s.rst.fuses.deviceId →
    exec (.assign t pt m) s = .next (setNow t s)) ∧
  (∀ t s p s1 i, taken t 0x0504 s = some (p, s1) → firstReserved (cmdOf p).words [0xEFFFFF, 0xFFFFF, 0xFFFFF] = none →
    i = fldN (par p 0) 16 4 → i ≤ 8 → bitAt (par p 0) 23 = true → streamOn s1 i = false →
    exec (.portAssign t) s = .next (finishCmd p (cmdOk (setAssign i none s1) [wordOf s1.ring.cRing.toNat]) s1)) ∧
  (∀ t s p s1 i a, taken t 0x0504 s = some (p, s1) → firstReserved (cmdOf p).words [0xEFFFFF, 0xFFFFF, 0xFFFFF] = none →
    i = fldN (par p 0) 16 4 → i ≤ 8 → bitAt (par p 0) 23 = false →
    a = assignOfWords (overlay (cmdOf p).words (assignWords ((assignOf s1 i).getD noAssign))) →
    (s1.ring.addrPhase = .none ∨ a.dest ≠ s1.ring.addr) → portTaken s1 i a.port = false →
    (a.dir = true → dualRing s1 = true) → streamOn s1 i = false →
    reservedIn s1 i a.dir + a.rsv.toNat ≤ s1.ring.cRing.toNat → a.peak.toNat ≤ s1.ring.cRing.toNat →
    (a.basted = true → a.peak.toNat ≤ s1.ring.cRing.toNat * 3 / 5) →
    exec (.portAssign t) s = .next (nowHeld p (sendMgmt 0x0A 127 false [wordOf a.port.toNat]
      { s1 with ring := { s1.ring with claim := some (i, a, s1.now.real) } }))) ∧
  (∀ t s p s1 i a, taken t 0x0504 s = some (p, s1) → firstReserved (cmdOf p).words [0xEFFFFF, 0xFFFFF, 0xFFFFF] = none →
    i = fldN (par p 0) 16 4 → i ≤ 8 → bitAt (par p 0) 23 = false →
    a = assignOfWords (overlay (cmdOf p).words (assignWords ((assignOf s1 i).getD noAssign))) →
    ((s1.ring.addrPhase ≠ .none ∧ a.dest = s1.ring.addr) ∨ portTaken s1 i a.port = true →
      exec (.portAssign t) s = .next (finishCmd p (cmdBad s1 0) s1)) ∧
    ((s1.ring.addrPhase = .none ∨ a.dest ≠ s1.ring.addr) → portTaken s1 i a.port = false →
      (a.dir = true → dualRing s1 = false →
        exec (.portAssign t) s = .next (finishCmd p (cmdRefuse s1 .notPermitted) s1)) ∧
      ((a.dir = true → dualRing s1 = true) → streamOn s1 i = true →
        exec (.portAssign t) s = .next (finishCmd p (cmdRefuse s1 .wrongState) s1)) ∧
      ((a.dir = true → dualRing s1 = true) → streamOn s1 i = false →
        (s1.ring.cRing.toNat < reservedIn s1 i a.dir + a.rsv.toNat ∨ s1.ring.cRing.toNat < a.peak.toNat ∨
          (a.basted = true ∧ s1.ring.cRing.toNat * 3 / 5 < a.peak.toNat)) →
        exec (.portAssign t) s = .next (finishCmd p (cmdRefuse s1 .bandwidthRefused) s1)))) ∧
  (∀ t s p s1 i, taken t 0x0504 s = some (p, s1) → firstReserved (cmdOf p).words [0xEFFFFF, 0xFFFFF, 0xFFFFF] = none →
    i = fldN (par p 0) 16 4 → (8 < i → exec (.portAssign t) s = .next (finishCmd p (cmdBad s1 0) s1)) ∧
    (i ≤ 8 → bitAt (par p 0) 23 = true → streamOn s1 i = true →
      exec (.portAssign t) s = .next (finishCmd p (cmdRefuse s1 .wrongState) s1)))

/-- R301–R311: TOPOLOGY, ROTOR and WRAP bring the ring's state; a lost owner is noticed after 1 ms and rotations go on by
themselves; a CLAIM that returns in time wins the port, one of another node for a held port is answered PORT_HELD, and
PORT_HELD, a lower claimant and a timeout lose it. The model's choices in it: log entries 27, 70, 110, 127, 176 and 210. -/
def Obligations.RingTopologyRotationsAndClaims : Prop :=
  (∀ t pt m s, trunkLive s = true → (getPort s pt).phase = .up → exec (.topology t pt m) s =
    .next (applyTopology (mgmtWord m 1) (mgmtWord m 2) (mgmtWord m 3) (mgmtWord m 4) (setNow t s))) ∧
  (∀ w1 w2 w3 w4 s, s.ring.features = 0 → s.ring.ports = List.replicate 9 none → s.ring.wrapEast = false →
    s.ring.wrapWest = false → (applyTopology w1 w2 w3 w4 s).ring.gen = fld w1 0 16 ∧
    (applyTopology w1 w2 w3 w4 s).ring.nodes = fld w1 16 8 ∧ (applyTopology w1 w2 w3 w4 s).ring.features = fld w1 24 8 ∧
    (applyTopology w1 w2 w3 w4 s).ring.cRing = fld w2 0 20 ∧ (applyTopology w1 w2 w3 w4 s).ring.tRotNs = w3 ∧
    (applyTopology w1 w2 w3 w4 s).ring.topoSeen = true ∧
    { applyTopology w1 w2 w3 w4 s with ring := s.ring, events := s.events } = s) ∧
  (∀ t pt m s, trunkLive s = true → (getPort s pt).phase = .up → m.ringB = false → ∃ u, exec (.rotor t pt m) s = .next u ∧
    u.ring.rotSeqA = some (mgmtWord m 1) ∧ u.ring.q3A = fld (mgmtWord m 2) 0 16 ∧ u.ring.tRotNs = mgmtWord m 3 ∧
    u.ring.ownerLost = false ∧ u.ring.lastRotor = some (setNow t s).now.real ∧ u.ring.q3B = s.ring.q3B ∧
    (s.ring.rotSeqA ≠ some (mgmtWord m 1) → u.ring.usedP3A = 0 ∧ u.ring.usedP2A = []) ∧
    (s.ring.rotSeqA = some (mgmtWord m 1) → u.ring.usedP3A = s.ring.usedP3A ∧ u.ring.usedP2A = s.ring.usedP2A) ∧
    u.ring.usedP3B = s.ring.usedP3B ∧ u.ring.usedP2B = s.ring.usedP2B ∧ { u with ring := s.ring } = setNow t s) ∧
  (∀ t pt m s, trunkLive s = true → (getPort s pt).phase = .up → m.ringB = true → ∃ u, exec (.rotor t pt m) s = .next u ∧
    u.ring.rotSeqB = some (mgmtWord m 1) ∧ u.ring.q3B = fld (mgmtWord m 2) 0 16 ∧ u.ring.tRotNs = mgmtWord m 3 ∧
    u.ring.ownerLost = false ∧ u.ring.lastRotor = some (setNow t s).now.real ∧ u.ring.q3A = s.ring.q3A ∧
    (s.ring.rotSeqB ≠ some (mgmtWord m 1) → u.ring.usedP3B = 0 ∧ u.ring.usedP2B = []) ∧
    u.ring.usedP3A = s.ring.usedP3A ∧ u.ring.usedP2A = s.ring.usedP2A ∧ { u with ring := s.ring } = setNow t s) ∧
  (∀ t s a, trunkLive s = true → s.ring.ownerFrom = some a → s.ring.ownerLost = false →
    passed (setNow t s) a 1000000 = true → ∃ u, exec (.ownerLost t) s = .next u ∧ u.ring.ownerLost = true ∧
    u.ring.selfAt = (setNow t s).now.real ∧ u.ring.usedP3A = 0 ∧ u.ring.usedP3B = 0 ∧ u.ring.usedP2A = [] ∧
    u.ring.usedP2B = [] ∧ { u with ring := s.ring, events := s.events } = setNow t s) ∧
  (∀ t s a, s.ring.ownerFrom = some a → passed (setNow t s) a 1000000 = false → exec (.ownerLost t) s = .next (setNow t s)) ∧
  (∀ t s, trunkLive s = true → s.ring.ownerLost = true → passed (setNow t s) s.ring.selfAt 20000 = true → ∃ u,
    exec (.selfRotation t) s = .next u ∧ u.ring.selfAt = (setNow t s).now.real ∧ u.ring.usedP3A = 0 ∧
    u.ring.usedP3B = 0 ∧ u.ring.usedP2A = [] ∧ u.ring.usedP2B = [] ∧ { u with ring := s.ring } = setNow t s) ∧
  (∀ t s, s.ring.ownerLost = false → exec (.selfRotation t) s = .next (setNow t s)) ∧
  (∀ pt s, wrapsAt s pt = true → (getPort s pt).phase = .up → unwrapPort pt s =
    raise 0x050B (portNo pt) 0 0 (setWrap pt false s)) ∧
  (∀ pt s, (wrapsAt s pt = false ∨ (getPort s pt).phase ≠ .up) → unwrapPort pt s = s) ∧
  (∀ w1 w2 w3 w4 s, s.ring.features = 0 → s.ring.ports = List.replicate 9 none → s.ring.wrapEast = true →
    s.ring.wrapWest = false → s.east.phase = .up → ownSrc s ≠ fld w4 0 7 → ownSrc s ≠ fld w4 8 7 →
    (applyTopology w1 w2 w3 w4 s).ring.wrapEast = false ∧ (applyTopology w1 w2 w3 w4 s).ring.unwrapped = true) ∧
  (∀ w1 w2 w3 w4 s, s.ring.features = 0 → s.ring.ports = List.replicate 9 none → s.ring.wrapEast = true →
    s.ring.wrapWest = false → ownSrc s ≠ 0x7F → ownSrc s = fld w4 0 7 →
    (applyTopology w1 w2 w3 w4 s).ring.wrapEast = true) ∧
  (∀ i s a, assignOf s i = some a → a.basted = true → a.suspended = false → bastedShare s.ring.cRing < a.peak.toNat →
    noteSuspend s i = raise 0x050D i 0 0
      { s with ring := { s.ring with ports := s.ring.ports.set i (some { a with suspended := true }) } }) ∧
  (∀ i s a, assignOf s i = some a → a.basted = true → a.suspended = true → a.peak.toNat ≤ bastedShare s.ring.cRing →
    noteSuspend s i = raise 0x050E i 0 0
      { s with ring := { s.ring with ports := s.ring.ports.set i (some { a with suspended := false }) } }) ∧
  (∀ t pt m s, trunkLive s = true → (getPort s pt).phase = .up → bitAt (mgmtWord m 1) 9 = true →
    exec (.wrap t pt m) s = .next { setNow t s with ring := { s.ring with unwrapped := false } }) ∧
  (∀ t pt m s, bitAt (mgmtWord m 1) 9 = false → exec (.wrap t pt m) s = .next (setNow t s)) ∧
  (∀ t pt m s i a since, trunkLive s = true → (getPort s pt).phase = .up → s.ring.addrPhase = .confirmed →
    m.src = s.ring.addr → s.ring.claim = some (i, a, since) → a.port = fld (mgmtWord m 1) 0 9 →
    (setNow t s).now.real ≤ since + 1600000 → exec (.claim t pt m) s = .next (winClaim i a (setNow t s))) ∧
  (∀ t pt m s, trunkLive s = true → (getPort s pt).phase = .up → s.ring.addrPhase = .confirmed → m.src ≠ s.ring.addr →
    (List.range 9).any (fun i => (assignOf s i).any fun x => x.port == fld (mgmtWord m 1) 0 9) = true →
    exec (.claim t pt m) s = .next (sendMgmt 0x0B m.src (ringTo s m.src) [wordOf (fldN (mgmtWord m 1) 0 9)] (setNow t s))) ∧
  (∀ t pt m s i a since, trunkLive s = true → (getPort s pt).phase = .up → s.ring.addrPhase = .confirmed →
    m.src = s.ring.addr → s.ring.claim = some (i, a, since) → a.port = fld (mgmtWord m 1) 0 9 →
    since + 1600000 < (setNow t s).now.real → exec (.claim t pt m) s = .next (loseClaim false a.port (setNow t s))) ∧
  (∀ t pt m s i a since, trunkLive s = true → (getPort s pt).phase = .up → s.ring.addrPhase = .confirmed →
    m.src ≠ s.ring.addr → (List.range 9).any (fun i => (assignOf s i).any fun x => x.port == fld (mgmtWord m 1) 0 9) = false →
    s.ring.claim = some (i, a, since) → a.port = fld (mgmtWord m 1) 0 9 → exec (.claim t pt m) s =
      .next (if m.src.toNat < s.ring.addr.toNat then loseClaim true a.port (setNow t s) else setNow t s)) ∧
  (∀ i a s, heldCmd s 0x0504 = none → winClaim i a s =
    { s with ring := { s.ring with claim := none, ports := s.ring.ports.set i (some a), txRest := s.ring.txRest.filter fun x => x.1 != i } }) ∧
  (∀ t pt m s i a since, trunkLive s = true → (getPort s pt).phase = .up → s.ring.claim = some (i, a, since) →
    m.dest = s.ring.addr → a.port = fld (mgmtWord m 1) 0 9 →
    exec (.portHeld t pt m) s = .next (loseClaim true a.port (setNow t s))) ∧
  (∀ t pt m s, s.ring.claim = none → exec (.portHeld t pt m) s = .next (setNow t s)) ∧
  (∀ t s i a since, trunkLive s = true → s.ring.claim = some (i, a, since) → passed (setNow t s) since 100000 = true →
    exec (.claimTimeout t) s = .next (loseClaim false a.port (setNow t s))) ∧
  (∀ s p port, s.bureau.executing = some p → pktOp p = 0x0504 → ∃ u, loseClaim false port s =
    settleAll (answer p (cmdRefuse u .busy) u) ∧ u.ring.claim = none ∧ u.bureau.executing = none ∧
    u.ring.ports = s.ring.ports ∧ u.events = s.events)

/-- R312–R316: DELAY_REQ is answered with its arrival, DELAY_RESP gives the receive hop delay, a TIME slot disciplines the
count as its lock state says, RING_B is used where RING_A is silent for 1 ms, a silence of 2 ms is holdover, and TIME_SYNC
reads it. The model's choices in it: log entries 131, 176 and 211. -/
def Obligations.RingTimeFollowsTheOwner : Prop :=
  (∀ t s p s1, taken t 0x0505 s = some (p, s1) → firstReserved (cmdOf p).words [0] = none →
    exec (.timeSync t) s = .next (finishCmd p (cmdOk s1 [lo32 (ringStamp s1), hi32 (ringStamp s1),
      mkWord [(b2n (hasFeature s1 3), 2), (lockCode s1.ring.time.lock, 0)], s1.ring.time.offset, s1.ring.time.delayWest,
      s1.ring.time.delayEast, s1.ring.time.timeSlots]) s1)) ∧
  (∀ t pt m s, trunkLive s = true → (getPort s pt).phase = .up → exec (.delayReq t pt m) s =
    .next (sendMgmt 0x0D 127 (portRingB pt) [mgmtWord m 1, mgmtWord m 2,
      lo32 (BitVec.ofNat 64 (ringCount (setNow t s))), hi32 (BitVec.ofNat 64 (ringCount (setNow t s))),
      lo32 (BitVec.ofNat 64 (ringCount (setNow t s))), hi32 (BitVec.ofNat 64 (ringCount (setNow t s)))] (setNow t s))) ∧
  (∀ t m s (d : Nat) t1 t2 t3, trunkLive s = true → s.east.phase = .up → join64 (mgmtWord m 1) (mgmtWord m 2) = t1 →
    join64 (mgmtWord m 3) (mgmtWord m 4) = t2 → join64 (mgmtWord m 5) (mgmtWord m 6) = t3 →
    ((ringCount (setNow t s) : Int) - t1.toNat) - ((t3.toNat : Int) - t2.toNat) = 2 * d → d < 2 ^ 32 →
    ∃ u, exec (.delayResp t .east m) s = .next u ∧ u.ring.time.delayEast.toNat = d ∧
      u.ring.time.delayWest = s.ring.time.delayWest ∧ { u with ring := s.ring } = setNow t s) ∧
  (∀ t pt s, trunkLive s = true → (getPort s pt).phase = .up → hasFeature s 3 = true →
    passed (setNow t s) (getPort s pt).delayAt 1000000000 = true →
    exec (.hopDelayMeasure t pt) s = .next (sendDelayReq pt (setNow t s))) ∧
  (∀ t pt s, hasFeature s 3 = false → exec (.hopDelayMeasure t pt) s = .next (setNow t s)) ∧
  (∀ t pt m s, trunkLive s = true → (getPort s pt).phase = .up → m.ringB = true → s.ring.time.useB = false →
    exec (.time t pt m) s = .next (updTime (fun x => { x with lastAny := some (setNow t s).now.real }) (setNow t s))) ∧
  (∀ t pt m s, trunkLive s = true → (getPort s pt).phase = .up → m.ringB = false → exec (.time t pt m) s =
    .next (takeTime (16 * ((join64 (mgmtWord m 0) (mgmtWord m 1)).toNat : Int) +
      (join64 (mgmtWord m 2) (mgmtWord m 3)).toInt + ((portDelay s pt).toNat : Int))
      (updTime (fun x => { x with
        lastAny := some (setNow t s).now.real
        lastRingA := some (setNow t s).now.real
        useB := false }) (setNow t s)))) ∧
  (∀ t pt m s, trunkLive s = true → (getPort s pt).phase = .up → m.ringB = true → s.ring.time.useB = true →
    exec (.time t pt m) s = .next (takeTime (16 * ((join64 (mgmtWord m 0) (mgmtWord m 1)).toNat : Int) +
      (join64 (mgmtWord m 2) (mgmtWord m 3)).toInt + ((portDelay s pt).toNat : Int))
      (updTime (fun x => { x with lastAny := some (setNow t s).now.real }) (setNow t s)))) ∧
  (∀ (r : Int) s, s.ring.time.lock = .unlocked → 0 ≤ r → s.ring.time.good = 7 → (r - (ringCount s : Int)).natAbs ≤ 400 →
    ∃ u, takeTime r s = raise 0x0510 0 0 0 u ∧ u.ring.time.lock = .locked ∧ u.ring.time.count = r.toNat ∧
      u.ring.time.asOf = s.now.real ∧ u.ring.time.slew = 0) ∧
  (∀ (r : Int) s, s.ring.time.lock = .unlocked → 400 < (r - (ringCount s : Int)).natAbs →
    (takeTime r s).ring.time.lock = .unlocked ∧ (takeTime r s).ring.time.good = 0 ∧
    (takeTime r s).ring.time.count = r.toNat) ∧
  (∀ (r : Int) s, s.ring.time.lock = .holdover → ∃ u, (16000 < (r - (ringCount s : Int)).natAbs → takeTime r s = u ∧
      u.ring.time.lock = .unlocked ∧ u.ring.time.count = r.toNat) ∧
    ((r - (ringCount s : Int)).natAbs ≤ 16000 → takeTime r s = raise 0x0510 0 0 0 u ∧ u.ring.time.lock = .locked ∧
      u.ring.time.slew = r - (ringCount s : Int) ∧ u.ring.time.count = ringCount s)) ∧
  (∀ (r : Int) s, (takeTime r s).ring.time.timeSlots = satInc s.ring.time.timeSlots ∧
    (takeTime r s).ring.time.offset = wordOfInt (r - (ringCount s : Int))) ∧
  (∀ (r : Int) s, s.ring.time.lock = .locked → (r - (ringCount s : Int)).natAbs ≤ 16000 →
    (takeTime r s).ring.time.lock = .locked ∧ (takeTime r s).ring.time.slew = r - (ringCount s : Int) ∧
    (takeTime r s).ring.time.count = ringCount s ∧ (takeTime r s).events = s.events) ∧
  (∀ (r : Int) s, s.ring.time.lock = .locked → 16000 < (r - (ringCount s : Int)).natAbs →
    (takeTime r s).ring.time.lock = .unlocked ∧ (takeTime r s).ring.time.count = r.toNat) ∧
  (∀ (r : Int) (s : State), { takeTime r s with ring := s.ring, events := s.events, timers := s.timers } = s ∧
    (takeTime r s).timers.chans.map (fun c => { c with usMark := 0 }) = s.timers.chans.map fun c => { c with usMark := 0 }) ∧
  (∀ t s, trunkLive s = true → passed (setNow t s) (s.ring.time.lastRingA.getD 0) 1000000 = true →
    exec (.timeRingATimeout t) s = .next (updTime (fun x => { x with useB := true }) (setNow t s))) ∧
  (∀ t s, trunkLive s = true → passed (setNow t s) (s.ring.time.lastRingA.getD 0) 1000000 = false →
    exec (.timeRingATimeout t) s = .next (setNow t s)) ∧
  (∀ t s a, trunkLive s = true → s.ring.time.lastAny = some a → s.ring.time.lock ≠ .holdover →
    exec (.timeHoldover t) s = .next (if passed (setNow t s) a 2000000
      then raise 0x0511 0 0 0 (holdOver (setNow t s)) else setNow t s)) ∧
  (∀ t s, (s.ring.time.lastAny = none ∨ s.ring.time.lock = .holdover) → exec (.timeHoldover t) s = .next (setNow t s)) ∧
  (∀ (r : Int) s, s.ring.time.lock = .locked → (r - (ringCount s : Int)).natAbs ≤ 16000 →
    (takeTime r s).ring.time.span = s.now.real - s.ring.time.asOf ∧
    (takeTime r s).ring.time.gain = (ringCount s : Int) - s.ring.time.count - (s.now.real - s.ring.time.asOf : Nat)) ∧
  (∀ s n, s.ring.time.lock = .holdover → s.ring.time.slew = 0 → s.ring.time.drift = 0 → 0 ≤ s.ring.time.gain →
    s.now.real = s.ring.time.asOf + n * s.ring.time.span → 0 < s.ring.time.span → (ringCount s : Int) =
      (s.ring.time.count + n * s.ring.time.span : Nat) + (n : Int) * s.ring.time.gain) ∧
  (∀ s, (holdOver s).ring.time.gain = s.ring.time.gain ∧ (holdOver s).ring.time.span = s.ring.time.span) ∧
  (∀ s, (holdOver s).ring.time.lock = .holdover ∧ (holdOver s).ring.time.slew = 0 ∧
    (holdOver s).ring.time.count = ringCount s ∧ (holdOver s).ring.time.asOf = s.now.real ∧
    -32 ≤ (holdOver s).ring.time.drift ∧ (holdOver s).ring.time.drift ≤ 32 ∧
    { holdOver s with ring := s.ring, free := s.free } = s)
/-! ### Clocks, power and reset (R349–R406) -/

/-- R349–R365: SET_CLOCKS and TRIM_ROOT put values in force and refuse others, CLOCK_STATUS reads the clock tree; a lost
reference or lock makes its PLLs coast and raises PLL_LOST or ROOT_LOST, a lock attempt begins, restarts and ends, and the
tree returns to the root; a trim step moves δ toward its target. The model's choices in it: log entries 98, 111, 128, 129,
171, 193 and 213. -/
def Obligations.ClockCommandsAndPllEvents : Prop :=
  (∀ t s p s1 sent new, taken t 0x0801 s = some (p, s1) →
    firstReserved (cmdOf p).words [0x1F01FFF, 0xFFFFFFFF, 0x7FFFFFFF, 0x7FFFFFFF, 3, 0xFFF0F301, 0xFFF0F301] = none →
    sent = clocksOf (overlay (cmdOf p).words (clockWords s1.clock.cfg)) → new = computedRoot sent →
    (∀ i, clocksBad s1 sent = some i → exec (.setClocks t) s = .next (finishCmd p (cmdBad s1 i) s1)) ∧
    (clocksBad s1 sent = none → (rootDiffers s1.clock.cfg sent = true ∧
        (captureStopped s1 = false ∨ pipelineStopped s1 = false ∨ userRuns s1 = true)) ∨
      (outDiffers s1.clock.cfg sent = true ∧ (s1.clock.cfg.clk0.oe = true ∨ s1.clock.cfg.clk1.oe = true)) ∨
      clkClash s1.clock.cfg.clk0 sent.clk0 = true ∨ clkClash s1.clock.cfg.clk1 sent.clk1 = true →
      exec (.setClocks t) s = .next (finishCmd p (cmdRefuse s1 .wrongState) s1)) ∧
    (clocksBad s1 sent = none →
      (rootDiffers s1.clock.cfg sent = true → captureStopped s1 = true ∧ pipelineStopped s1 = true ∧ userRuns s1 = false) →
      (outDiffers s1.clock.cfg sent = true → s1.clock.cfg.clk0.oe = false ∧ s1.clock.cfg.clk1.oe = false) →
      clkClash s1.clock.cfg.clk0 sent.clk0 = false → clkClash s1.clock.cfg.clk1 sent.clk1 = false →
      (rootDiffers s1.clock.cfg new = false ∨ s1.clock.root.phase = .off → exec (.setClocks t) s = .next (finishCmd p
        (cmdOk (applyOut s1.clock.cfg new { s1 with clock := { s1.clock with cfg := new } })) s1)) ∧
      (rootDiffers s1.clock.cfg new = true → s1.clock.root.phase ≠ .off → exec (.setClocks t) s = .next (nowHeld p
        (changeBase (applyOut s1.clock.cfg new { s1 with clock := { s1.clock with cfg := new } })))))) ∧
  (∀ old new s, (new.outEn = false → (applyOut old new s).clock.out.phase = .off) ∧
    (new.outEn = true → outDiffers old new = false → applyOut old new s = s) ∧
    (new.outEn = true → outDiffers old new = true → refQualified s .out = true → applyOut old new s = startLock .out s)) ∧
  (∀ s c a, heldCmd s 0x0801 = some c → s.clock.relockAt = some a → (passed s a 1000000 = false → settleRelock s = s) ∧
    (passed s a 1000000 = true → (settleRelock s).clock.relockAt = none ∧ (settleRelock s).bureau.executing = none)) ∧
  (∀ s, (changeBase s).clock.limp = true ∧ (changeBase s).clock.relockAt = some s.now.real ∧ (changeBase s).clock.delta = 0 ∧ (changeBase s).clock.trimTarget = 0 ∧ (changeBase s).clock.trimStepPpm = 1000) ∧
  (∀ t s p s1 ws, taken t 0x0802 s = some (p, s1) → firstReserved (cmdOf p).words [0xFFFFFFFF, 0x3FF] = none →
    ws = overlay (cmdOf p).words [s1.clock.trimTarget, wordOf s1.clock.trimStepPpm.toNat] →
    (20000000 < (paramAt ws 0).toInt.natAbs → exec (.trimRoot t) s = .next (finishCmd p (cmdBad s1 0) s1)) ∧
    ((paramAt ws 0).toInt.natAbs ≤ 20000000 → (fldN (paramAt ws 1) 0 10 = 0 ∨ 1000 < fldN (paramAt ws 1) 0 10) →
      exec (.trimRoot t) s = .next (finishCmd p (cmdBad s1 1) s1)) ∧
    ((paramAt ws 0).toInt.natAbs ≤ 20000000 → 1 ≤ fldN (paramAt ws 1) 0 10 → fldN (paramAt ws 1) 0 10 ≤ 1000 →
      (s1.clock.root.phase ≠ .locked → exec (.trimRoot t) s = .next (finishCmd p (cmdRefuse s1 .wrongState) s1)) ∧
      (s1.clock.root.phase = .locked → exec (.trimRoot t) s = .next (finishCmd p (cmdOk { s1 with clock := { s1.clock with
        trimTarget := paramAt ws 0
        trimStepPpm := fld (paramAt ws 1) 0 10 } } [wordOfInt s1.clock.delta]) s1)))) ∧
  (∀ t s p s1, taken t 0x0803 s = some (p, s1) → firstReserved (cmdOf p).words [0] = none → ∃ ws u,
    exec (.clockStatus t) s = .next (finishCmd p (cmdOk u ws) s1) ∧ ws.length = 5 ∧
    bitAt (ws.getD 0 0) 0 = (s1.clock.limp && !onRef0 s1) ∧ bitAt (ws.getD 0 0) 1 = s1.clock.ref0Ok ∧
    bitAt (ws.getD 0 0) 2 = s1.clock.ref1Ok ∧ bitAt (ws.getD 0 0) 3 = s1.clock.ref0Nonstd ∧
    fld (ws.getD 0 0) 8 3 = s1.clock.west.band ∧ fld (ws.getD 0 0) 11 3 = s1.clock.east.band ∧
    fldN (ws.getD 0 0) 28 4 = pllCode s1.clock.root.phase ∧ fldN (ws.getD 0 0) 24 4 = pllCode s1.clock.out.phase ∧
    fldN (ws.getD 0 0) 20 4 = pllCode s1.clock.east.phase ∧ fldN (ws.getD 0 0) 16 4 = pllCode s1.clock.west.phase ∧
    ws.getD 1 0 = wordOfInt s1.clock.delta ∧ ws.getD 2 0 = s1.clock.trimTarget ∧ ws.getD 3 0 = s1.clock.ref0MeasHz ∧
    fldN (ws.getD 4 0) 16 16 = 0 ∧
    (s1.clock.root.phase = .off → s1.clock.everLocked = false → ws.getD 4 0 = 0 ∧ u = s1) ∧
    (s1.clock.root.phase ≠ .off ∨ s1.clock.everLocked = true → u = { s1 with free := s1.free + 1 })) ∧
  (∀ t r s, refOk s r = false → exec (.referenceLoss t r) s = .next (setNow t s)) ∧
  (∀ t r s, exec (.referenceLoss t r) s = .next (loseRef r (setNow t s))) ∧
  (∀ t s ps, s.clock.out.phase = .locked → lockWindow s.clock.out < ps → exec (.pllLockLoss t ⟨.out, ps⟩) s =
    .next (raise 0x0803 1 0 0 { setNow t s with clock := { s.clock with
      out := { s.clock.out with phase := .coast, held := true }
      pllLosses := satInc s.clock.pllLosses } })) ∧
  (∀ t s ps, s.clock.root.phase = .locked → lockWindow s.clock.root < ps → ∃ u,
    exec (.pllLockLoss t ⟨.root, ps⟩) s = .next (startLock .root (loseRoot 1 u)) ∧
    u = updPll .root (fun x => { x with phase := .coast, held := true }) (setNow t s)) ∧
  (∀ t pt s ps, (pllOf s (portPll pt)).phase = .locked → lockWindow (pllOf s (portPll pt)) < ps →
    (getPort s pt).phase = .up → ∃ u, exec (.pllLockLoss t ⟨portPll pt, ps⟩) s = .next (hopDown pt u) ∧
      (pllOf u (portPll pt)).phase = .coast ∧ (getPort u pt).phase = .up) ∧
  (∀ t p s ps, ps ≤ lockWindow (pllOf s p) → exec (.pllLockLoss t ⟨p, ps⟩) s = .next (setNow t s)) ∧
  (∀ t p s ps, (pllOf s p).phase ≠ .locked → exec (.pllLockLoss t ⟨p, ps⟩) s = .next (setNow t s)) ∧
  (∀ s, (pllOf s .out).phase = .acquire → losePll .out 0 s =
    updPll .out (fun x => { x with phase := .coast, attemptStart := none }) s) ∧
  (∀ s, s.clock.limp = false → (gateRoot s).clock.limp = true ∧ (gateRoot s).clock.limpSince = some s.now.real ∧
    (gateRoot s).clock.switchAt = s.now.real) ∧
  (∀ s x, s.clock.limp = false → x ∈ (gateRoot s).ring.txRest → x ∈ s.ring.txRest) ∧
  (∀ s, s.clock.limp = true → gateRoot s = s) ∧
  (∀ arg s, s.clock.limp = true → s.clock.rootLostPending = false → loseRoot arg s = raise 0x0801 arg 0 0 { s with
    clock := { s.clock with rootLostPending := true, rootLosses := satInc s.clock.rootLosses } }) ∧
  (∀ t r0 r1 outs s, s.clock.measured = true → s.clock.ref0Ok = true → s.clock.ref1Ok = true → within1 (100 * r0) s.clock.cfg.ref0Khz.toNat = true →
    within1 (100 * r1) s.clock.cfg.ref1Khz.toNat = true →
    (plls.zipIdx.all fun p => (pllOf s p.1).phase != .locked || within1 (outs.getD p.2 0) (pllKhz s p.1)) = true →
    ∃ u, exec (.clockMonitorWindow t r0 r1 outs) s = .next (settleRelock u) ∧
      u.clock = { s.clock with ref0MeasHz := wordOf (100000 * r0) } ∧ u.now = (setNow t s).now ∧ u.exposure = s.exposure ∧
      u.streams = s.streams ∧ u.ring = s.ring ∧ u.rst.phase = s.rst.phase ∧
      (logBlocked { setNow t s with clock := { s.clock with ref0MeasHz := wordOf (100000 * r0) } } = false → u.events.held = [])) ∧
  (∀ count khz s, s.clock.measured = false → count ≠ 0 → s.clock.ref0Ok = true → judgeRef .ref0 count khz s = s) ∧
  (∀ r count khz s, (s.clock.measured = true ∨ r = .ref1) → within1 (100 * count) khz = false →
    judgeRef r count khz s = loseRef r s) ∧
  (∀ s f, ref0From s = some f → (onRef0 s = true ↔ f ≤ s.now.real)) ∧
  (∀ s a, s.clock.limp = true → s.clock.everLocked = false → s.clock.ref0Ok = true → 0 < ref0Rate s →
    s.clock.ref0Since = some a → ref0From s = some (a + 320000)) ∧
  (∀ s, (s.clock.limp = false ∨ s.clock.everLocked = true ∨ s.clock.ref0Ok = false) → ref0From s = none) ∧
  (∀ p s, refQualified s p = true → relock p s = startLock p s) ∧
  (∀ p s, (pllOf s p).phase = .locked → refOk s (pllRef s p) = true → relock p s = startLock p s) ∧
  (∀ p s, (pllOf s p).phase = .coast → refQualified s p = false → relock p s = updPll p (fun x => { x with phase := .coast }) s) ∧
  (∀ p s a, refOk s (pllRef s p) = true → refSince s (pllRef s p) = some a → refQualified s p = passed s a 20000) ∧
  (∀ t p s a, (pllOf s p).phase = .coast → refOk s (pllRef s p) = true → refSince s (pllRef s p) = some a →
    exec (.lockAttemptStart t p) s = .next (if passed (setNow t s) a 20000 then startLock p (setNow t s) else setNow t s)) ∧
  (∀ t p s, ((pllOf s p).phase ≠ .coast ∨ refOk s (pllRef s p) = false ∨ refSince s (pllRef s p) = none) →
    exec (.lockAttemptStart t p) s = .next (setNow t s)) ∧
  (∀ p s, (pllOf (startLock p s) p).phase = .acquire ∧ (pllOf (startLock p s) p).attemptStart = some s.now.real ∧
    (pllOf (startLock p s) p).lockWin = s.clock.cfg.lockWin ∧ (pllOf (startLock p s) p).nLock = s.clock.cfg.nLock ∧
    (startLock p s).clock.bandSearches = if p = .east ∨ p = .west then satInc s.clock.bandSearches else s.clock.bandSearches) ∧
  (∀ t p s a, (pllOf s p).phase = .acquire → (pllOf s p).attemptStart = some a → passed (setNow t s) a 2000000 = true →
    exec (.lockAttemptTimeout t p) s = .next (startLock p (updPll p (fun x => { x with held := false }) (setNow t s)))) ∧
  (∀ t p b ps s, (pllOf s p).phase = .acquire → refOk s (pllRef s p) = true → lockCycles (setNow t s) p = true →
    ps ≤ lockWindow (pllOf s p) → ∃ u, u = updPll p (fun x => { x with
      phase := .locked
      band := if (pllPort p).isSome then b else 0
      held := false
      attemptStart := none }) (setNow t s) ∧
    exec (.pllLockDeclared t ⟨p, ps⟩ b) s = .next (if p = .root then rootBack u else match pllPort p with
      | some port => if trunkLive u then driveDue port u else u
      | none => u)) ∧
  (∀ t p b ps s, ((pllOf s p).phase ≠ .acquire ∨ lockCycles (setNow t s) p = false ∨ lockWindow (pllOf s p) < ps) →
    exec (.pllLockDeclared t ⟨p, ps⟩ b) s = .next (setNow t s)) ∧
  (∀ s p a, (pllOf s p).attemptStart = some a → (lockCycles s p = true ↔
    16000000 * (pllOf s p).nLock.toNat ≤ (s.now.real - a) * refKhz s (pllRef s p))) ∧
  (∀ s, heldCmd s 0x0801 = none → (rootBack s).clock.limp = false ∧ (rootBack s).clock.switchAt = s.now.real ∧ (rootBack s).clock.rootLostPending = false ∧
    (rootBack s).clock.everLocked = true ∧ (rootBack s).clock.limpSince = none ∧ (rootBack s).clock.relockAt = none ∧
    (rootBack s).clock.cfg = s.clock.cfg) ∧
  (∀ khz rate, 0 < khz → 8 * khz * trunkWord khz rate ≤ laneVco rate * 2 ^ 24 + 4 * khz ∧
    laneVco rate * 2 ^ 24 ≤ 8 * khz * trunkWord khz rate + 4 * khz) ∧
  (∀ frac m, m.a1 < 2 ^ 24 → m.a2 < 2 ^ 24 → m.a3 < 2 ^ 24 → (m.c2 = 0 ∨ m.c2 = 1) → (m.c3 = 0 ∨ m.c3 = 1) →
    (m.d3 = 0 ∨ m.d3 = 1) → ∃ y n, mashStep frac m = (y, n) ∧ -3 ≤ y ∧ y ≤ 4 ∧ n.a1 < 2 ^ 24 ∧ n.a2 < 2 ^ 24 ∧
    n.a3 < 2 ^ 24 ∧ n.d3 = m.c3) ∧
  (∀ s one, pinsChained s = false → (clkRuns s one = false → (clkPins s one).1 = .low) ∧ (clkRuns s one = true → (clkPins s one).1 = .clock) ∧
    (2 ≤ (if one then s.clock.cfg.clk1 else s.clock.cfg.clk0).format.toNat → (clkPins s one).2 = .highZ)) ∧
  (∀ t s, s.clock.root.phase = .locked → s.rst.asserted.contains .clock = false →
    1000 * min s.clock.trimStepPpm.toNat 1000 < (s.clock.trimTarget.toInt - s.clock.delta).natAbs →
    exec (.trimStep t) s = .next { setNow t s with clock := { s.clock with
      delta := s.clock.delta + (if s.clock.delta < s.clock.trimTarget.toInt then 1000 else -1000) * (min s.clock.trimStepPpm.toNat 1000 : Nat) } }) ∧
  (∀ t s, s.clock.root.phase = .locked → s.rst.asserted.contains .clock = false →
    (s.clock.trimTarget.toInt - s.clock.delta).natAbs ≤ 1000 * min s.clock.trimStepPpm.toNat 1000 →
    exec (.trimStep t) s = .next { setNow t s with clock := { s.clock with
      delta := roundDelta s.clock.cfg s.clock.trimTarget.toInt } }) ∧
  (∀ t s, s.clock.root.phase ≠ .locked → exec (.trimStep t) s = .next (setNow t s)) ∧
  (∀ t khz s, s.clock.measured = true → exec (.refclk0Measure t khz) s = .next (setNow t s)) ∧
  (∀ t s, s.clock.measured = false → s.rst.asserted.contains .clock = false → ∃ u, exec (.refclk0Measure t 24100) s = .next u ∧
    u.clock.cfg.ref0Khz = 24000 ∧ u.clock.measured = true ∧ u.clock.ref0Ok = true ∧ u.clock.ref0Nonstd = false ∧
    u.clock.root.phase = .acquire) ∧
  (∀ t s, s.clock.measured = false → s.rst.asserted.contains .clock = false → ∃ u, exec (.refclk0Measure t 30000) s = .next u ∧
    u.clock.cfg.ref0Khz = 30000 ∧ u.clock.ref0Nonstd = true ∧ u.clock.root.phase = .acquire) ∧
  (∀ t s, s.clock.measured = false → s.rst.asserted.contains .clock = false → exec (.refclk0Measure t 0) s =
    .next (updPll .root (fun x => { x with phase := .coast }) (setNow t s)))

/-- R366–R386: the power commands put values in force and read temperatures; a sample of the sensors runs the thermal
controller: a bad reading is invalid, the throttle steps up at THROTTLE and down below its hysteresis, SHUTDOWN and the
lack of a sensor enter the hold; a hard trip switches the domains off; Stow is left by a named source only. The
model's choices in it: log entries 26, 71, 114, 121, 122 and 123. -/
def Obligations.PowerCommandsAndThermalControl : Prop :=
  (∀ t s p s1, taken t 0x0804 s = some (p, s1) → firstReserved (cmdOf p).words [0xF03] = none → fldN (par p 0) 0 2 = 1 →
    captureStopped s1 = true → exec (.setPowerState t) s = .next (settleStow (finishCmd p (cmdOk s1) s1))) ∧
  (∀ t s p s1, taken t 0x0804 s = some (p, s1) → firstReserved (cmdOf p).words [0xF03] = none → fldN (par p 0) 0 2 = 2 →
    cannotRest s1 = false → exec (.setPowerState t) s = .next (settleStow (finishCmd p (cmdOk (arbitrate { s1 with
      power := { s1.power with phase := .doze, dozes := satInc s1.power.dozes }
      accum := { s1.accum with selfRefresh := true } })) s1))) ∧
  (∀ t s p s1, taken t 0x0804 s = some (p, s1) → firstReserved (cmdOf p).words [0xF03] = none → fldN (par p 0) 0 2 = 3 →
    fldN (par p 0) 8 4 ≠ 0 → (bitAt (par p 0) 10 = true → s1.twa.cfg.role = false) →
    (bitAt (par p 0) 11 = true → s1.twb.cfg.role = false) → s1.rst.fuses.wdtStart = false → s1.rst.wdArm = false →
    cannotRest s1 = false → exec (.setPowerState t) s = .next (settleStow (finishCmd p (cmdOk { s1 with power := { s1.power with
      stowPending := true
      wakeSeen := false
      wakePorts := fld (par p 0) 8 2
      wakeTw := fld (par p 0) 10 2 } }) s1))) ∧
  (∀ t s p s1, taken t 0x0804 s = some (p, s1) → firstReserved (cmdOf p).words [0xF03] = none → fldN (par p 0) 0 2 = 3 →
    ((fldN (par p 0) 8 4 = 0 ∨ (bitAt (par p 0) 10 = true ∧ s1.twa.cfg.role = true) ∨
        (bitAt (par p 0) 11 = true ∧ s1.twb.cfg.role = true)) →
      exec (.setPowerState t) s = .next (settleStow (finishCmd p (cmdBad s1 0) s1))) ∧
    (fldN (par p 0) 8 2 ≠ 0 → fldN (par p 0) 10 2 = 0 → s1.rst.fuses.wdtStart = true →
      exec (.setPowerState t) s = .next (settleStow (finishCmd p (cmdRefuse s1 .notPermitted) s1))) ∧
    (fldN (par p 0) 8 2 ≠ 0 → fldN (par p 0) 10 2 = 0 → s1.rst.fuses.wdtStart = false →
      (cannotRest s1 = true ∨ s1.rst.wdArm = true) →
      exec (.setPowerState t) s = .next (settleStow (finishCmd p (cmdRefuse s1 .wrongState) s1)))) ∧
  (∀ t s p s1, taken t 0x0804 s = some (p, s1) → firstReserved (cmdOf p).words [0xF03] = none →
    (fldN (par p 0) 0 2 = 1 ∧ captureStopped s1 = false) ∨ (fldN (par p 0) 0 2 = 2 ∧ cannotRest s1 = true) →
    exec (.setPowerState t) s = .next (settleStow (finishCmd p (cmdRefuse s1 .wrongState) s1))) ∧
  (∀ s, s.power.stowPending = true → s.ring.ownQueue.any (fun w => slotType w.slot == 3) = false →
    s.twa.transfer = none → s.twb.transfer = none →
    settleStow s = if s.power.wakeSeen then wakeStow (enterStow s) else enterStow s) ∧
  (∀ s, (s.power.stowPending = false ∨ s.ring.ownQueue.any (fun w => slotType w.slot == 3) = true ∨
    s.twa.transfer ≠ none ∨ s.twb.transfer ≠ none) → settleStow s = s) ∧
  (∀ t s p s1, taken t 0x0804 s = some (p, s1) → firstReserved (cmdOf p).words [0xF03] = none → fldN (par p 0) 0 2 = 0 →
    exec (.setPowerState t) s = .next (settleStow (finishCmd p (cmdBad s1 0) s1))) ∧
  (∀ s, (enterStow s).power.phase = .stow ∧ (enterStow s).power.stows = satInc s.power.stows ∧
    (enterStow s).accum.selfRefresh = true ∧ (enterStow s).clock.limp = true ∧ (enterStow s).dram = s.dram ∧
    (enterStow s).nvm = s.nvm ∧ (enterStow s).events = s.events ∧ (enterStow s).history = s.history ∧
    (enterStow s).west.phase = .stowed ∧ (enterStow s).west.cfg = s.west.cfg ∧ (enterStow s).power.wakePorts = s.power.wakePorts) ∧
  (∀ t s p s1 b, taken t 0x0805 s = some (p, s1) →
    firstReserved (cmdOf p).words [0xFFFF, 0xFFFFFFFF, 0xFFFFFFFF, 0xFFFFFFFF] = none →
    b = budgetOf (overlay (cmdOf p).words (budgetWords s1.power.budget)) → budgetBad b = none → ∃ w,
    exec (.setPowerBudget t) s = .next (finishCmd p (cmdOk (arbitrate { s1 with power := { s1.power with budget := b } }) [w]) s1) ∧
    ∀ u, u = arbitrate { s1 with power := { s1.power with budget := b } } →
      fldN w 0 16 = min 65535 (accountMw u (caseNow u) (grantedAt u)) ∧
      fldN w 16 16 = if someGrant u then 0 else min 65535 (excessMw u (caseNow u) (grantedAt u))) ∧
  (∀ t s p s1 b i, taken t 0x0805 s = some (p, s1) →
    firstReserved (cmdOf p).words [0xFFFF, 0xFFFFFFFF, 0xFFFFFFFF, 0xFFFFFFFF] = none →
    b = budgetOf (overlay (cmdOf p).words (budgetWords s1.power.budget)) → budgetBad b = some i →
    exec (.setPowerBudget t) s = .next (finishCmd p (cmdBad s1 i) s1)) ∧
  (∀ t s p s1 ws w, taken t 0x0806 s = some (p, s1) → firstReserved (cmdOf p).words [0x0FFFFFFF, 0xFFFF] = none →
    ws = overlay (cmdOf p).words [mkWord [(s1.power.thermal.hyst.toNat, 24), (s1.power.thermal.shutdown.toNat, 16),
      (s1.power.thermal.throttle.toNat, 8), (s1.power.thermal.warn.toNat, 0)], wordOf s1.power.thermal.mask.toNat] →
    w = paramAt ws 0 → fld (paramAt ws 1) 0 16 ≠ 0xFFFF →
    (2 ≤ fldN w 24 4 → fldN w 24 4 ≤ 10 → 80 ≤ fldN w 16 8 → fldN w 16 8 ≤ 120 → 70 ≤ fldN w 8 8 → fldN w 8 8 ≤ 115 →
      60 ≤ fldN w 0 8 → fldN w 0 8 ≤ 110 → fldN w 0 8 ≤ fldN w 8 8 → fldN w 8 8 < fldN w 16 8 →
      exec (.thermalConfig t) s = .next (finishCmd p (cmdOk { s1 with power := { s1.power with thermal :=
        { hyst := fld w 24 4, shutdown := fld w 16 8, throttle := fld w 8 8, warn := fld w 0 8, mask := fld (paramAt ws 1) 0 16 } } }) s1)) ∧
    ((fldN w 24 4 < 2 ∨ 10 < fldN w 24 4 ∨ fldN w 16 8 < 80 ∨ 120 < fldN w 16 8 ∨ fldN w 8 8 < 70 ∨ 115 < fldN w 8 8 ∨
        fldN w 0 8 < 60 ∨ 110 < fldN w 0 8 ∨ fldN w 8 8 < fldN w 0 8 ∨ fldN w 16 8 ≤ fldN w 8 8) →
      exec (.thermalConfig t) s = .next (finishCmd p (cmdBad s1 0) s1))) ∧
  (∀ t s p s1, taken t 0x0807 s = some (p, s1) → firstReserved (cmdOf p).words [0] = none → ∃ ws,
    exec (.getTemperatures t) s = .next (finishCmd p (cmdOk { s1 with power := { s1.power with tJPeak := 0x8000 } } ws) s1) ∧
    ws.length = 10 ∧ fld (ws.getD 8 0) 16 16 = s1.power.tJ ∧ fld (ws.getD 9 0) 16 16 = s1.power.tJPeak ∧
    (∀ i < 8, fld (ws.getD i 0) 0 16 = (s1.power.sensors.getD (2 * i) {}).reading ∧
      fld (ws.getD i 0) 16 16 = (s1.power.sensors.getD (2 * i + 1) {}).reading) ∧
    (∀ i < 16, bitAt (ws.getD 8 0) i = (s1.power.sensors.getD i {}).valid) ∧ bitAt (ws.getD 9 0) 2 = s1.power.hold ∧
    bitAt (ws.getD 9 0) 3 = (s1.rst.cause == .thermal) ∧ (s1.power.step ≤ 3 → fldN (ws.getD 9 0) 0 2 = s1.power.step)) ∧
  (∀ t rs s, s.rst.asserted.contains .alwaysOn = false → s.rst.asserted.contains .bureau = false → s.rst.phase ≠ .tripped →
    exec (.sensorSample t rs) s = .next (thermalControl (takeTj { setNow t s with power := { s.power with
      sensors := s.power.sensors.zipIdx.map fun x => sampleSensor x.1 (rs.getD x.2 0x8000) } }))) ∧
  (∀ t rs s u, s.rst.asserted.contains .alwaysOn = false → s.rst.phase = .tripped → u = takeTj { setNow t s with power :=
      { s.power with sensors := s.power.sensors.zipIdx.map fun x => sampleSensor x.1 (rs.getD x.2 0x8000) } } →
    exec (.sensorSample t rs) s = .next (if (hottest u).isSome && decide (u.power.tJ.toInt ≤
      16 * ((u.power.thermal.shutdown.toNat : Int) - u.power.thermal.hyst.toNat)) then assertReset .thermal false u else u)) ∧
  (∀ t rs s, s.rst.asserted.contains .alwaysOn = true → exec (.sensorSample t rs) s = .next (setNow t s)) ∧
  (∀ x (r : BitVec 16), (r.toInt < -880 ∨ 2400 < r.toInt) → (sampleSensor x r).valid = false ∧
    (sampleSensor x r).reading = 0x8000 ∧ (sampleSensor x r).goodRun = 0) ∧
  (∀ x (r : BitVec 16), badReading x r = false → x.valid = true → (sampleSensor x r).valid = true ∧
    (sampleSensor x r).reading = r) ∧
  (∀ s, s.power.hold = false → s.power.step = 0 → 16 * (s.power.thermal.throttle.toNat : Int) ≤ s.power.tJ.toInt →
    checkThrottle s = raise 0x0805 1 0 0 { s with power := { s.power with step := 1, stepAt := s.now.real } }) ∧
  (∀ s n, s.power.hold = false → s.power.step = n + 1 → n + 1 ≤ 3 →
    s.power.tJ.toInt ≤ 16 * (s.power.thermal.throttle.toNat : Int) - 16 * s.power.thermal.hyst.toNat →
    s.power.tJ.toInt < 16 * (s.power.thermal.throttle.toNat : Int) →
    (passed s s.power.stepAt 1000000000 = false → checkThrottle s = s) ∧
    (passed s s.power.stepAt 1000000000 = true → (checkThrottle s).power.step = n ∧
      (checkThrottle s).power.stepAt = s.now.real)) ∧
  (∀ s n, s.power.hold = false → s.power.step = n + 1 → n + 1 < 3 →
    16 * (s.power.thermal.throttle.toNat : Int) ≤ s.power.tJ.toInt → passed s s.power.stepAt 100000000 = true →
    checkThrottle s = raise 0x0805 (n + 2) 0 0 { s with power := { s.power with step := n + 2, stepAt := s.now.real } }) ∧
  (∀ s i, s.power.warned = false → 16 * (s.power.thermal.warn.toNat : Int) ≤ s.power.tJ.toInt →
    checkWarn i s = raise 0x0804 i s.power.tJ.toInt.toNat 0 { s with power := { s.power with warned := true } }) ∧
  (∀ why s, (enterHold why s).power.hold = true ∧ (enterHold why s).power.faultN = true ∧ (enterHold why s).power.step = 3 ∧
    (enterHold why s).power.holds = satInc s.power.holds) ∧
  (∀ s, (leaveHold s).power.hold = false ∧ (leaveHold s).power.faultN = false) ∧
  (∀ s, s.power.hold = true → checkThrottle s = s) ∧
  (∀ s i, hottest s = some i → s.power.hold = false → 16 * (s.power.thermal.shutdown.toNat : Int) ≤ s.power.tJ.toInt →
    checkHold s = enterHold 0 s) ∧
  (∀ s, hottest s = none → s.power.hold = false → checkHold s = enterHold 1 s) ∧
  (∀ s i, hottest s = some i → s.power.hold = true →
    s.power.tJ.toInt ≤ 16 * (s.power.thermal.shutdown.toNat : Int) - 16 * s.power.thermal.hyst.toNat →
    checkHold s = leaveHold s) ∧
  (∀ t s, s.rst.phase = .dead → exec (.hardTrip t) s = .next (setNow t s)) ∧
  (∀ t s, s.rst.phase ≠ .dead → ∃ u, exec (.hardTrip t) s = .next u ∧ u.rst.phase = .tripped ∧ u.rst.cause =
      higherCause .thermal (if s.rst.phase = .done then .thermal else s.rst.cause) ∧ u.rst.waiting = none ∧
    u.power.faultN = true ∧ u.rst.asserted = resetDomains .thermal false ∧ u.accum.selfRefresh = true ∧ u.exposure = {}) ∧
  (∀ t pt s, bitAt s.power.wakePorts (portNo pt) = false → exec (.stowWake t (some pt)) s = .next (setNow t s)) ∧
  (∀ t pt s, bitAt s.power.wakePorts (portNo pt) = true →
    s.rst.asserted.contains .bureau = false → s.power.stowPending = false → exec (.stowWake t (some pt)) s = .next (wakeStow (setNow t s))) ∧
  (∀ t s, exec (.stowWake t none) s = .next (if s.power.wakeTw = 0 then setNow t s else wakeSource (setNow t s))) ∧
  (∀ s, s.rst.asserted.contains .bureau = false → s.power.stowPending = true →
    wakeSource s = { s with power := { s.power with wakeSeen := true } }) ∧
  (∀ s, s.power.phase = .stow → (wakeStow s).power.phase = .idle ∧ (wakeStow s).power.wakePorts = 0 ∧
    (wakeStow s).power.wakeTw = 0 ∧ (wakeStow s).dram = s.dram) ∧
  (∀ s, s.power.phase ≠ .stow → wakeStow s = s)

/-- R387–R392, R400–R406, R419: RESET, the trunk's packet, the watchdog and a fatal error lead to a reset; a warm
reset waits
for a page write; an asserted reset records its cause and leaves its domains in reset; the watchdog is configured,
serviced
and fails as its rules say. The model's choices in it: log entries 21, 26, 28, 80, 88 and 120. -/
def Obligations.ResetsAndTheWatchdog : Prop :=
  (∀ t s p s1, taken t 0x0005 s = some (p, s1) → firstReserved (cmdOf p).words [0x103] = none → fldN (par p 0) 0 2 = 0 →
    exec (.reset t) s = .next (finishCmd p (cmdOk { s1 with
      rst := { s1.rst with softPending := some (bitAt (par p 0) 8, s1.now) }
      bureau := { s1.bureau with ready := false } }) s1)) ∧
  (∀ t s p s1, taken t 0x0005 s = some (p, s1) → firstReserved (cmdOf p).words [0x103] = none → fldN (par p 0) 0 2 = 1 →
    exec (.reset t) s = .next (finishCmd p (cmdRefuse s1 .notPermitted) s1)) ∧
  (∀ t s, s.rst.softPending = none → exec (.softResetAssert t) s = .next (setNow t s)) ∧
  (∀ t s keep since, s.rst.softPending = some (keep, since) → asserting s = false →
    s.ring.ownQueue.any (fun w => slotType w.slot == 3) = false →
    exec (.softResetAssert t) s = .next (requestReset .soft keep (retractAll (setNow t s)))) ∧
  (∀ t src dest bs s, trunkLive s = true → trunkResetOk (setNow t s) src dest bs = true → inReset s = false →
    exec (.trunkResetPacket t src dest bs) s =
      .next (requestReset .trunk (bitAt (bytesWord (bs.drop 12)) 8) (retractAll (setNow t s)))) ∧
  (∀ s src dest bs, trunkResetOk s src dest bs = true → s.ring.addrPhase = .confirmed ∧ src = 0 ∧ dest = s.ring.addr ∧
    bs.length = 20 ∧ fldN (bytesWord bs) 0 16 = 5 ∧ fldN (bytesWord (bs.drop 12)) 0 2 = 1) ∧
  (∀ t src dest bs s, src ≠ 0 → exec (.trunkResetPacket t src dest bs) s = .next (setNow t s)) ∧
  (∀ k keep s, k ≠ .powerOn → k ≠ .brownOut → k ≠ .thermal → s.nvm.inFlight.isSome = true → s.rst.phase ≠ .dead →
    s.rst.waiting = none → requestReset k keep s = { s with rst := { s.rst with waiting := some (k, keep) } }) ∧
  (∀ k keep s, s.nvm.inFlight = none → s.rst.phase = .done → s.rst.waiting = none →
    requestReset k keep s = assertReset k keep s) ∧
  (∀ s, s.rst.phase = .done → (assertReset .watchdog false s).rst.quickFatal =
    (s.rst.lastFatal.any fun a => decide (s.now.real < a + 60 * 16000000000))) ∧
  (∀ s, s.rst.phase ≠ .done → s.rst.cause = .watchdog → (assertReset .trunk false s).rst.quickFatal = s.rst.quickFatal ∧
    (assertReset .trunk false s).rst.lastFatal = s.rst.lastFatal ∧ (assertReset .trunk false s).rst.cause = .watchdog) ∧
  (∀ k s, s.rst.phase = .tripped → k ≠ .thermal → (assertReset k false s).rst.phase = .tripped ∧
    (assertReset k false s).power.faultN = true) ∧
  (∀ p s, s.nvm.dumping ≠ none → s.rst.asserted.contains .bureau = false → s.power.phase = .idle →
    (crcOk p && stillOpen s p) = false → queueSize p.req ≤ queued s p.req →
    arrivePacket p s = { s with bureau := { s.bureau with cmdsDiscarded := satInc s.bureau.cmdsDiscarded } }) ∧
  (∀ k keep s, s.rst.phase = .done → (assertReset k keep s).rst.cause = k ∧
    (assertReset k keep s).rst.asserted = resetDomains k keep ∧ (assertReset k keep s).rst.keepTrunk = keep ∧ (assertReset k keep s).rst.waiting = none ∧
    (k ≠ .powerOn → (assertReset k keep s).rst.phase = (if s.rst.resetNLow || !s.rst.pgood then .holding else .loading)) ∧
    (k = .powerOn → (assertReset k keep s).rst.phase = (if s.pins.resetNLow || !s.pins.pgood then .holding else .loading)) ∧
    (assertReset k keep s).exposure = {} ∧ (assertReset k keep s).engines = {} ∧ (assertReset k keep s).bureau.ready = false ∧
    (assertReset k keep s).accum.selfRefresh = true ∧
    (k = .powerOn ∨ k = .brownOut → (assertReset k keep s).dram = [] ∧ (assertReset k keep s).events = {})) ∧
  (∀ t s p s1 w v, taken t 0x0808 s = some (p, s1) → firstReserved (cmdOf p).words [0x1F1F] = none →
    w = paramAt (overlay (cmdOf p).words [wdWord s1.rst.wdArm s1.rst.wdCfg]) 0 →
    v = { hardMs := fld w 10 2, window := fld w 8 2, period := fld w 0 5 } →
    ((fldN w 0 5 < 14 ∨ 30 < fldN w 0 5) → exec (.watchdogConfig t) s = .next (finishCmd p (cmdBad s1 0) s1)) ∧
    (14 ≤ fldN w 0 5 → fldN w 0 5 ≤ 30 →
      (s1.rst.fuses.wdtStart = false → s1.rst.wdArm = false → bitAt w 12 = true →
        exec (.watchdogConfig t) s = .next (finishCmd p (cmdOk { s1 with rst := { s1.rst with
          wdArm := true
          wdCfg := v
          wdCount := 0
          wdAt := s1.now
          wdKey := false
          wdDue := false
          wdFailed := false } } [wdWord true v]) s1)) ∧
      (s1.rst.fuses.wdtStart = false → bitAt w 12 = false → (s1.rst.wdArm = true → v = s1.rst.wdCfg) →
        exec (.watchdogConfig t) s = .next (finishCmd p (cmdOk { s1 with rst := { s1.rst with
          wdArm := false
          wdCfg := v } } [wdWord false v]) s1)) ∧
      (s1.rst.fuses.wdtStart = false → s1.rst.wdArm = true → v ≠ s1.rst.wdCfg →
        exec (.watchdogConfig t) s = .next (finishCmd p (cmdRefuse s1 .wrongState) s1)) ∧
      (s1.rst.fuses.wdtStart = true → bitAt w 12 = false →
        exec (.watchdogConfig t) s = .next (finishCmd p (cmdRefuse s1 .notPermitted) s1)) ∧
      (s1.rst.fuses.wdtStart = true → bitAt w 12 = true → s1.rst.wdSeen = true →
        exec (.watchdogConfig t) s = .next (finishCmd p (cmdRefuse s1 .wrongState) s1)) ∧
      (s1.rst.fuses.wdtStart = true → bitAt w 12 = true → s1.rst.wdSeen = false →
        exec (.watchdogConfig t) s = .next (finishCmd p (cmdOk { s1 with rst := { s1.rst with
          wdSeen := true
          wdNext := some v } } [wdWord s1.rst.wdArm s1.rst.wdCfg]) s1)))) ∧
  (∀ t k s, wdRuns s = false → exec (.wdtKeyWrite t k) s = .next (setNow t s)) ∧
  (∀ t s, wdRuns s = true → wdC (setNow t s) < wdPeriod s.rst.wdCfg → exec (.wdtKeyWrite t 0x5A) s =
    .next { setNow t s with rst := { s.rst with wdKey := true } }) ∧
  (∀ t s, wdRuns s = true → wdC (setNow t s) < wdPeriod s.rst.wdCfg → s.rst.wdKey = true →
    wdOpen s.rst.wdCfg ≤ wdC (setNow t s) → exec (.wdtKeyWrite t 0xA5) s = .next { setNow t s with rst := { s.rst with
      wdCount := 0
      wdAt := (setNow t s).now
      wdKey := false
      wdDue := false
      wdtServices := satInc s.rst.wdtServices
      wdCfg := s.rst.wdNext.getD s.rst.wdCfg
      wdNext := none } }) ∧
  (∀ t s, wdRuns s = true → wdC (setNow t s) < wdPeriod s.rst.wdCfg → s.rst.wdKey = true →
    wdC (setNow t s) < wdOpen s.rst.wdCfg → exec (.wdtKeyWrite t 0xA5) s = .next (wdFail 2 (setNow t s))) ∧
  (∀ t k s, wdRuns s = true → wdC (setNow t s) < wdPeriod s.rst.wdCfg → k ≠ 0x5A → k ≠ 0xA5 →
    exec (.wdtKeyWrite t k) s = .next (wdFail 3 (setNow t s))) ∧
  (∀ code (s : State), s.nvm.dumping = none → (wdFail code s).rst.wdFailed = true ∧
    (wdFail code s).rst.lastWdtFail = BitVec.ofNat 2 code ∧ (wdFail code s).rst.wdHard = some s.now.real ∧
    (wdFail code s).bureau.ready = false ∧ ((wdFail code s).nvm.dumping.map fun d => (d.reset, d.cause, d.detail)) =
      some (.watchdog, 1, code)) ∧
  (∀ t s, wdRuns s = true → wdDueAt s.rst.wdCfg ≤ wdC (setNow t s) → exec (.serviceDue t) s =
    .next { setNow t s with rst := { s.rst with wdDue := true } }) ∧
  (∀ t k s, wdRuns s = true → wdPeriod s.rst.wdCfg ≤ wdC (setNow t s) →
    exec (.wdtKeyWrite t k) s = .next (wdFail 1 (setNow t s))) ∧
  (∀ t s, wdRuns s = true → wdC (setNow t s) < wdPeriod s.rst.wdCfg → s.rst.wdKey = false →
    exec (.wdtKeyWrite t 0xA5) s = .next (wdFail 3 (setNow t s))) ∧
  (∀ t s, wdC (setNow t s) < wdDueAt s.rst.wdCfg → exec (.serviceDue t) s = .next (setNow t s)) ∧
  (∀ t s, wdRuns s = true → wdPeriod s.rst.wdCfg ≤ wdC (setNow t s) → exec (.watchdogExpiry t) s = .next (wdFail 1 (setNow t s))) ∧
  (∀ t s, wdC (setNow t s) < wdPeriod s.rst.wdCfg → exec (.watchdogExpiry t) s = .next (setNow t s)) ∧
  (∀ t s a, s.rst.wdHard = some a → passed (setNow t s) a (hardNs s.rst.wdCfg) = true → s.rst.waiting = none →
    exec (.hardTimerExpiry t) s = .next (requestReset .watchdog false (setNow t s))) ∧
  (∀ t s, s.rst.wdHard = none → exec (.hardTimerExpiry t) s = .next (setNow t s)) ∧
  (∀ t c pc s, (s.rst.asserted.contains .bureau = true ∨ s.rst.waiting ≠ none ∨ s.power.phase = .stow) →
    exec (.fatalError t c pc) s = .next (setNow t s)) ∧
  (∀ t pc s d, s.rst.asserted.contains .bureau = false → s.rst.waiting = none → s.power.phase ≠ .stow →
    s.nvm.dumping = some d → exec (.fatalError t 3 pc) s = .next (requestReset d.reset false (setNow t s))) ∧
  (∀ t c pc s, s.rst.asserted.contains .bureau = false → s.rst.waiting = none → s.power.phase ≠ .stow →
    s.nvm.dumping = none → c ≠ 3 → ∃ u detail, exec (.fatalError t c pc) s = .next u ∧
      u = { setNow t s with
        free := s.free + 1
        nvm := { s.nvm with dumping := some { reset := .fatal, cause := 2, detail := detail, pc := pc, stamp := ringStamp (setNow t s) } }
        bureau := { s.bureau with ready := false, executing := none } }) ∧
  (∀ t pc s, s.rst.asserted.contains .bureau = false → s.rst.waiting = none → s.power.phase ≠ .stow →
    s.nvm.dumping = none → exec (.fatalError t 3 pc) s = .next { setNow t s with
      nvm := { s.nvm with dumping := some { reset := .fatal, cause := 3, detail := 8, pc := pc, stamp := ringStamp (setNow t s) } }
      bureau := { s.bureau with ready := false, executing := none } })

/-- R390–R399, R486: supplies and RESET_N hold the sequence, option loading ends in release or in test, domains are
released in
their order, the boot loader starts firmware or recovery, and a profile runs before the Bureau takes commands. The
model's choices in it: log entries 11, 81, 82, 84, 85, 98, 100, 115, 116, 150, 182, 193, 213 and 214. -/
def Obligations.PowerUpSequenceReleasesTheDomains : Prop :=
  (∀ t s, exec (.powerOn t) s = .next (requestReset .powerOn false { setNow t s with
    pins := { s.pins with pgood := false }
    rst := { s.rst with pgood := false } })) ∧
  (∀ t s, pinsChained s = false → exec (.resetN t) s = .next (requestReset .resetN false { setNow t s with
    pins := { s.pins with resetNLow := true }
    rst := { s.rst with resetNLow := true } })) ∧
  (∀ t r s, (r = false → pinsChained s = false) → (r = true → s.rst.phase ≠ .holding ∧ s.rst.phase ≠ .loading) →
    exec (.brownOut ⟨t, r⟩) s = .next (requestReset .brownOut false { setNow t s with
      pins := { s.pins with pgood := false }
      rst := { s.rst with pgood := false } })) ∧
  (∀ t s, pinsChained s = true →
    exec (.resetN t) s = .next { setNow t s with pins := { s.pins with resetNLow := true } } ∧
    exec (.resetNRelease t) s = .next { setNow t s with pins := { s.pins with resetNLow := false } } ∧
    exec (.pgoodRise t) s = .next { setNow t s with pins := { s.pins with pgood := true } } ∧
    exec (.brownOut ⟨t, false⟩) s = .next { setNow t s with pins := { s.pins with pgood := false } }) ∧
  (∀ t s, s.rst.phase = .holding ∨ s.rst.phase = .loading → exec (.brownOut ⟨t, true⟩) s = .next (setNow t s)) ∧
  (∀ t s, pinsChained s = false → s.rst.phase = .holding → s.rst.resetNLow = false → exec (.pgoodRise t) s =
    .next { setNow t s with
      pins := { s.pins with pgood := true }
      rst := { s.rst with pgood := true, phase := .loading } }) ∧
  (∀ t s, pinsChained s = false → s.rst.phase = .holding → s.rst.resetNLow = true → exec (.pgoodRise t) s =
    .next { setNow t s with
      pins := { s.pins with pgood := true }
      rst := { s.rst with pgood := true } }) ∧
  (∀ t s, pinsChained s = false → s.rst.phase = .holding → s.rst.pgood = true → exec (.resetNRelease t) s =
    .next { setNow t s with
      pins := { s.pins with resetNLow := false }
      rst := { s.rst with resetNLow := false, phase := .loading } }) ∧
  (∀ t s, ∃ u, exec (.vddaonLoss t) s = .next u ∧ u.rst.phase = .dead ∧ u.rst.asserted = resetDomains .powerOn false ∧
    u.dram = [] ∧ u.events = {} ∧ u.rst.waiting = none) ∧
  (∀ t b v te failed s, s.rst.phase ≠ .loading → exec (.optionLoadingEnd t ⟨b, v, te, failed⟩) s = .next (setNow t s)) ∧
  (∀ t b v te failed s, pinsChained s = false → s.rst.phase = .loading → ∃ u, exec (.optionLoadingEnd t ⟨b, v, te, failed⟩) s = .next u ∧
    u.rst.phase = (if te then .testing else .releasing) ∧ u.rst.fuses = failed.foldl failField s.rst.blown ∧ u.rst.boot = b ∧
    u.rst.straps = b ∧ u.rst.fuseFault = (s.rst.fuseFault || !failed.isEmpty) ∧
    u.rst.asserted = (if te then resetDomains .soft false else s.rst.asserted.erase .alwaysOn) ∧ u.pins.level33 = decide (2400 < v) ∧ u.pins.testen = te ∧
    u.power.faultN = (s.power.faultN || te) ∧ u.rst.loadAttempts = 0 ∧
    (failed.contains .gainThreshold = false → u.readout.gainThreshold = 2784000 ∧ u.free = s.free) ∧
    (te = false → { u with rst := s.rst, pins := s.pins, power := s.power, readout := s.readout, free := s.free } = setNow t s) ∧
    (te = true → u.west = freshPort s ∧ u.east = freshPort s)) ∧
  (∀ (s : State), s.rst.blown.wdtStart = true → (failField s.rst.blown .twaAddr).wdtStart = true ∧
    (failField s.rst.blown .twaAddr).twaAddr = 0 ∧ (failField s.rst.blown .wdtStart).wdtStart = false ∧
    (failField s.rst.blown .comparator).comparator = Config.midComparator) ∧
  (∀ t d s, s.rst.phase = .releasing → s.rst.fuses.resetOrder = false → nextDomain s = some d → clockStable (setNow t s) d = true →
    exec (.domainRelease t d) s = .next (releaseDomain d (setNow t s))) ∧
  (∀ t d s, nextDomain s ≠ some d ∨ clockStable (setNow t s) d = false → exec (.domainRelease t d) s = .next (setNow t s)) ∧
  (∀ d s, (releaseDomain d s).rst.asserted = s.rst.asserted.erase d ∧ (releaseDomain d s).rst.gapUnits = 0 ∧
    (releaseDomain d s).rst.gapAt = s.now.real) ∧
  (∀ (s : State) d e, s.rst.fuses.resetOrder = false → nextDomain s = some d → s.rst.asserted.contains e = true →
    releaseOrder s = [.alwaysOn, .clock, .bureau, .memory, .converter, .pipeline, .bobbin, .trunk] ∧
    (releaseOrder s).idxOf d ≤ (releaseOrder s).idxOf e) ∧
  (∀ t d s a, s.rst.phase = .releasing → s.rst.fuses.resetOrder = true → nextDomain s = some d → s.rst.gap = some a →
    clockStable (setNow t s) d = true →
    exec (.domainRelease t d) s = .next (releaseDomain d { setNow t s with rst := { s.rst with
      stretchUs := satAdd s.rst.stretchUs (((setNow t s).now.real - a) / 16000) } })) ∧
  (∀ s, (releaseDomain .bobbin s).engines.vendorFw = some (bankWord s s.nvm.activeB 2) ∧
    (releaseDomain .trunk s).west = freshPort s ∧ (releaseDomain .trunk s).east = freshPort s ∧
    (releaseDomain .bureau s).rst.wdArm = s.rst.fuses.wdtStart) ∧
  (∀ t s d, nextDomain s = some d → s.rst.phase = .releasing → s.rst.fuses.resetOrder = true → s.rst.gap = none →
    2048 * 16000000 ≤ gapSoFar (setNow t s) →
    (clockStable (setNow t s) d = true → exec (.legacyGapEnd t d) s = .next (releaseDomain d (setNow t s))) ∧
    (clockStable (setNow t s) d = false → ∃ u, exec (.legacyGapEnd t d) s = .next u ∧
      u.rst.gap = some (setNow t s).now.real ∧ u.rst.legacyStretch = true ∧ u.rst.asserted = s.rst.asserted)) ∧
  (∀ t d s, gapSoFar (setNow t s) < 2048 * 16000000 → exec (.legacyGapEnd t d) s = .next (setNow t s)) ∧
  (∀ s, gapSoFar s = s.rst.gapUnits + (s.now.real - s.rst.gapAt) * (if s.clock.ref0Ok then ref0Rate s else 25000)) ∧
  (∀ (s : State) d, s.clock.limp = true → onRef0 s = false → d ≠ .alwaysOn →
    (clockStable s d = true ↔ 10240 ≤ s.now.real - lastSwitch s)) ∧
  (∀ (s : State) d, s.clock.limp = true → onRef0 s = true → d ≠ .alwaysOn →
    (clockStable s d = true ↔ 64 * 16000000 ≤ (s.now.real - lastSwitch s) * ref0Rate s)) ∧
  (∀ t d s, s.rst.phase ≠ .releasing → exec (.legacyGapEnd t d) s = .next (setNow t s) ∧
    exec (.bootLoaderStart t) s = .next (setNow t s)) ∧
  (∀ t s, s.rst.phase = .releasing → s.rst.asserted = [] → s.bureau.ready = false → s.rst.profileDue = false →
    s.nvm.dumping = none → s.rst.waiting = none → s.nvm.inFlight ≠ some .boot → exec (.bootLoaderStart t) s =
      .next (kickWrites (if s.rst.boot = 1 ∨ s.rst.boot = 3 then enterRecovery (recoverJournal (setNow t s))
        else chooseBank (recoverJournal (setNow t s))))) ∧
  (∀ s, ∃ u, enterRecovery s = firmwareReady (planProfile u) ∧ u.rst.recovery = true ∧ u.twa.cfg.role = false ∧
    u.twb.cfg.role = false ∧ u.twa.cfg.taddr = 0 ∧ u.twb.cfg.taddr = 0 ∧ u.nvm = s.nvm) ∧
  (∀ s, s.nvm.trial = 0 → chooseBank s = tryActive s) ∧
  (∀ s, s.nvm.trial = 1 → s.nvm.redirects = [] → chooseBank s =
    { s with nvm := { s.nvm with boot := some { origin := .bootTrial, first := 0, pages := [] } } }) ∧
  (∀ s, s.nvm.trial = 2 → s.nvm.redirects = [] → chooseBank s =
    { s with nvm := { s.nvm with boot := some { origin := .bootReject, first := 0, pages := [] } } }) ∧
  (∀ s, s.nvm.trial = 2 → s.nvm.redirects = [] → bootGoesOn .bootTrial true s =
    if verifyBank s (!s.nvm.activeB) = 0 then bootBank (!s.nvm.activeB) s
    else { s with nvm := { s.nvm with boot := some { origin := .bootReject, first := 0, pages := [] } } }) ∧
  (∀ s g, bootGoesOn .bootReject g s =
    tryActive { s with rst := { s.rst with revertedBank := some (!s.nvm.activeB) } }) ∧
  (∀ s, s.nvm.redirects = [] → tryActive s =
    if verifyBank s s.nvm.activeB = 0 then bootBank s.nvm.activeB s
    else if bankState s (!s.nvm.activeB) ≠ .incomplete ∧ bankState s (!s.nvm.activeB) ≠ .empty ∧
        verifyBank s (!s.nvm.activeB) = 0 then
      { s with nvm := { s.nvm with boot := some { origin := .bootSwitch, first := 0, pages := [] } } }
    else enterRecovery s) ∧
  (∀ s, bootGoesOn .bootSwitch true s = bootBank s.nvm.activeB s) ∧
  (∀ (s : State), (commitEffect .bootTrial s).nvm.trial = 2 ∧ (commitEffect .bootReject s).nvm.trial = 0 ∧
    bankState (commitEffect .bootReject s) (!s.nvm.activeB) = .rejected ∧
    (commitEffect .bootSwitch s).nvm.activeB = !s.nvm.activeB ∧
    (commitEffect .bootTrial s).nvm.txnSeq = s.nvm.txnSeq + 1) ∧
  (∀ x s, x.pages = [] → x.next = 0 → (bootWritten x true s).nvm.boot = some { x with next := 1, retried := false }) ∧
  (∀ x s, x.pages = [] → x.next = 1 → ∃ u, bootWritten x true s = bootGoesOn x.origin true u ∧ u.nvm.boot = none ∧
    u.nvm.lastTxn = txnCode x.origin true) ∧
  (∀ s, ∃ u, firmwareReady s = settleAll u ∧ u.bureau.ready = true ∧ u.rst.phase = .done ∧ u.rst.profileDue = false) ∧
  (∀ t s, s.rst.profileDue = false → exec (.profileExecute t) s = .next (setNow t s)) ∧
  (∀ t s, s.rst.profileDue = true → s.rst.asserted.contains .bureau = false → s.rst.waiting = none → s.nvm.dumping = none →
    profilePackets (setNow t s) s.rst.fuses.autoload.toNat = some [] →
    exec (.profileExecute t) s = .next (firmwareReady (setNow t s))) ∧
  (∀ s bs, bodyOf (pktOp (profilePacket bs s)) = none → profileCommand s bs =
    { s with rst := { s.rst with refusedCmds := satInc s.rst.refusedCmds } })
/-! ### eMRAM, firmware update and dumps (R408–R422) -/

/-- R408–R415, R420–R422: NVM_READ reads a partition, NVM_WRITE stages words and commits them through the journal,
one page
write after another; a page that fails is retried once; a dump is read, cleared and written before its reset. The
model's choices in it: log entries 83, 84, 87, 88, 118, 125, 142 and 214. -/
def Obligations.NvmCommandsAndPageWrites : Prop :=
  (∀ t s p s1 n, taken t 0x0601 s = some (p, s1) →
    firstReserved (cmdOf p).words [0xF, 0xFFFFFFFF, 0xFFFF] = none → fldN (par p 0) 0 4 ≤ 6 → (par p 1).toNat % 4 = 0 →
    n = ((cmdOf p).words.getD 2 1).toNat → n ≠ 0 → n ≤ pathWords (cmdOf p).via →
    (par p 1).toNat + 4 * n ≤ partBytes (fldN (par p 0) 0 4) →
    exec (.nvmRead t) s = .next (finishCmd p (cmdOk s1
      (memWords s1.nvm.cells (partFirst (fldN (par p 0) 0 4) * 1024 + (par p 1).toNat) n)) s1)) ∧
  (∀ t s p s1, taken t 0x0601 s = some (p, s1) → firstReserved (cmdOf p).words [0xF, 0xFFFFFFFF, 0xFFFF] = none →
    6 < fldN (par p 0) 0 4 → exec (.nvmRead t) s = .next (finishCmd p (cmdBad s1 0) s1)) ∧
  (∀ t s p s1 n, taken t 0x0601 s = some (p, s1) → firstReserved (cmdOf p).words [0xF, 0xFFFFFFFF, 0xFFFF] = none →
    fldN (par p 0) 0 4 ≤ 6 → n = ((cmdOf p).words.getD 2 1).toNat →
    ((par p 1).toNat % 4 ≠ 0 → exec (.nvmRead t) s = .next (finishCmd p (cmdBad s1 1) s1)) ∧
    ((par p 1).toNat % 4 = 0 → (n = 0 ∨ pathWords (cmdOf p).via < n) →
      exec (.nvmRead t) s = .next (finishCmd p (cmdBad s1 2) s1)) ∧
    ((par p 1).toNat % 4 = 0 → n ≠ 0 → n ≤ pathWords (cmdOf p).via →
      partBytes (fldN (par p 0) 0 4) < (par p 1).toNat + 4 * n →
      exec (.nvmRead t) s = .next (finishCmd p (cmdBad s1 1) s1))) ∧
  (∀ t s p s1 part m, taken t 0x0602 s = some (p, s1) →
    firstReserved ((cmdOf p).words.take 2) [0xC000F, 0xFFFFFFFF] = none → part = fldN (par p 0) 0 4 →
    (par p 1).toNat % 4 = 0 → bitAt (par p 0) 18 = false →
    (par p 1).toNat + 4 * ((cmdOf p).words.drop 2).length ≤ partBytes part →
    m = stageWords s1 part ((par p 1).toNat / 4) ((cmdOf p).words.drop 2) → (stageSpan m).2 ≤ 608 →
    (bitAt (par p 0) 19 = true → m = [] → exec (.nvmWrite t) s = .next (finishCmd p (cmdBad s1 0) s1)) ∧
    ((bitAt (par p 0) 19 = true → m ≠ []) →
      (part ≠ 4 → part ≠ 6 → exec (.nvmWrite t) s = .next (finishCmd p (cmdRefuse s1 .notPermitted) s1)) ∧
      (part = 4 ∨ part = 6 → s1.power.hold = true →
        exec (.nvmWrite t) s = .next (finishCmd p (cmdRefuse s1 .busy) s1)) ∧
      (part = 4 ∨ part = 6 → s1.power.hold = false → bitAt (par p 0) 19 = false →
        exec (.nvmWrite t) s = .next (finishCmd p (cmdOk { s1 with nvm := { s1.nvm with staging := some (part, m) } }) s1)) ∧
      (part = 4 ∨ part = 6 → s1.power.hold = false → bitAt (par p 0) 19 = true → ∀ st, journalRefusal s1 = some st →
        exec (.nvmWrite t) s = .next (finishCmd p (cmdRefuse s1 st) s1)) ∧
      (part = 4 ∨ part = 6 → s1.power.hold = false → bitAt (par p 0) 19 = true → journalRefusal s1 = none →
        exec (.nvmWrite t) s = .next (finishCmd p (cmdPending (startWork (cmdOf p).req .nvm (startTxn
          (.nvmWrite (cmdOf p).tag) (stagePages s1 part m).1 (stagePages s1 part m).2
          { s1 with nvm := { s1.nvm with staging := none } }))) s1)))) ∧
  (∀ t s p s1, taken t 0x0602 s = some (p, s1) → firstReserved ((cmdOf p).words.take 2) [0xC000F, 0xFFFFFFFF] = none →
    bitAt (par p 0) 18 = true →
    (bitAt (par p 0) 19 = true → exec (.nvmWrite t) s = .next (finishCmd p (cmdBad s1 0) s1)) ∧
    (bitAt (par p 0) 19 = false → (par p 1).toNat % 4 = 0 → (par p 1).toNat ≤ partBytes (fldN (par p 0) 0 4) →
      (cmdOf p).words.drop 2 = [] → (fldN (par p 0) 0 4 = 4 ∨ fldN (par p 0) 0 4 = 6) → s1.power.hold = false →
      exec (.nvmWrite t) s = .next (finishCmd p (cmdOk { s1 with nvm := { s1.nvm with staging := none } }) s1))) ∧
  (∀ s part word (data : List Word) k, s.nvm.staging = none → word ≤ k → k < word + data.length →
    smGet 0 (stageWords s part word data) k = data.getD (k - word) 0) ∧
  (∀ s, (journalRefusal s = some .busy ↔ s.nvm.txn ≠ none) ∧
    (journalRefusal s = some .nvmError ↔ s.nvm.txn = none ∧ s.nvm.redirects ≠ [])) ∧
  (∀ t r s, s.nvm.inFlight = none → exec (.pageWriteComplete t r) s = .next (setNow t s)) ∧
  (∀ t s x, s.nvm.inFlight = some .txn → s.rst.waiting = none → s.nvm.dumping = none → s.nvm.txn = some x → exec (.pageWriteComplete t .good) s =
    .next (kickWrites (txnWritten x true { setNow t s with nvm := { s.nvm with inFlight := none } }))) ∧
  (∀ t s d, s.nvm.inFlight = some .direct → s.rst.waiting = none → s.nvm.dumping = none → s.nvm.direct = some d →
    exec (.pageWriteComplete t .good) s =
      .next (kickWrites (directWritten d true { setNow t s with nvm := { s.nvm with inFlight := none } }))) ∧
  (∀ t s x, s.nvm.inFlight = some .boot → s.rst.waiting = none → s.nvm.dumping = none → s.nvm.boot = some x →
    exec (.pageWriteComplete t .good) s =
      .next (kickWrites (bootWritten x true { setNow t s with nvm := { s.nvm with inFlight := none } }))) ∧
  (∀ t s d, s.nvm.inFlight = some .digest → s.rst.waiting = none → s.nvm.dumping = some d →
    exec (.pageWriteComplete t .good) s =
      .next (kickWrites (digestWritten d true { setNow t s with nvm := { s.nvm with inFlight := none } }))) ∧
  (∀ t r s k keep dir, s.nvm.inFlight = some dir → s.rst.waiting = some (k, keep) →
    ∃ u, exec (.pageWriteComplete t r) s = .next (assertReset k keep u) ∧ u.rst = s.rst ∧ u.dram = s.dram ∧
      u.nvm.inFlight = none) ∧
  (∀ x s, x.next = 2 * x.pages.length + 1 → (lastOfTxn false x true s).nvm.txn = none ∧
    (lastOfTxn false x true s).nvm.lastTxn = (if x.origin = .recovered then 3 else 1)) ∧
  (∀ x s, x.retried = true → x.next ≤ x.pages.length → (lastOfTxn false x false s).nvm.txn = none ∧
    (lastOfTxn false x false s).nvm.lastTxn = 4) ∧
  (∀ x s, x.retried = false → (lastOfTxn false x false s).nvm.txn = s.nvm.txn ∧
    (lastOfTxn false x false s).nvm.verifyRetries = s.nvm.verifyRetries) ∧
  (∀ x s, x.retried = true → x.next ≤ x.pages.length → ∃ u, txnWritten x false s = endTxn x false u ∧
    u.nvm.cells = s.nvm.cells) ∧
  (∀ x s, x.next = x.pages.length → (txnWritten x true s).nvm.txnSeq = s.nvm.txnSeq + 1 ∧
    (txnWritten x true s).nvm.txn = some { x with next := x.next + 1, retried := false }) ∧
  (∀ x s i, i < x.pages.length → x.next = x.pages.length + 1 + i → Mem.wf s.nvm.cells →
    (∀ pg ∈ x.pages, pg.length = 1024) → pageBytes (txnWritten x true s) (x.first + i) = x.pages.getD i []) ∧
  (∀ x s, x.next = 2 * x.pages.length + 1 → x.pages ≠ [] → ∃ u, txnWritten x true s = endTxn x true u) ∧
  (∀ d s g bs rest, d.pages = (g, bs) :: rest → d.retried = true → ∃ u, directWritten d false s = directDone false d.words u ∧
    u.nvm.cells = (writePage g bs false s).nvm.cells) ∧
  (∀ d s g bs rest, d.pages = (g, bs) :: rest → d.retried = false → ∃ u, directWritten d false s = u ∧
    u.nvm.direct = some { d with retried := true } ∧ u.nvm.cells = (writePage g bs false s).nvm.cells) ∧
  (∀ x s, x.retried = false → ∃ u, txnWritten x false s = u ∧ u.nvm.txn = some { x with retried := true } ∧
    u.nvm.verifyRetries = satInc s.nvm.verifyRetries) ∧
  (∀ x s, x.next < x.pages.length → (txnWritten x true s).nvm.txn = some { x with next := x.next + 1, retried := false } ∧
    (txnWritten x true s).nvm.cells = s.nvm.cells) ∧
  (∀ pg bs (s : State) i, Mem.wf s.nvm.cells → bs.length = 1024 → i < 1024 →
    memGet (writePage pg bs true s).nvm.cells (pg * 1024 + i) = bs.getD i 0) ∧
  (∀ pg bs g (s : State) a, Mem.wf s.nvm.cells → bs.length = 1024 → (a < pg * 1024 ∨ pg * 1024 + 1024 ≤ a) →
    memGet (writePage pg bs g s).nvm.cells a = memGet s.nvm.cells a) ∧
  (∀ t s p s1 n slot, taken t 0x0606 s = some (p, s1) →
    firstReserved (cmdOf p).words [0x71, 0xFFFFFFFF, 0xFFFF] = none → bitAt (par p 0) 0 = true →
    slot = fldN (par p 0) 4 3 → (par p 1).toNat % 4 = 0 → n = ((cmdOf p).words.getD 2 1).toNat → n ≠ 0 →
    n ≤ pathWords (cmdOf p).via → (par p 1).toNat + 4 * n ≤ 65536 → digestWord s1 slot 0 = 0xD0C50001 →
    exec (.dumpRead t) s = .next (finishCmd p (cmdOk s1 (digestWord s1 slot 1 ::
      memWords s1.nvm.cells ((partFirst 5 + 64 * slot) * 1024 + (par p 1).toNat) n)) s1)) ∧
  (∀ t s p s1 n, taken t 0x0606 s = some (p, s1) → firstReserved (cmdOf p).words [0x71, 0xFFFFFFFF, 0xFFFF] = none →
    bitAt (par p 0) 0 = false → (par p 1).toNat % 4 = 0 → n = ((cmdOf p).words.getD 2 1).toNat → n ≠ 0 →
    n ≤ pathWords (cmdOf p).via → (par p 1).toNat + 4 * n ≤ 16777216 →
    (s1.nvm.dumpValid = true → exec (.dumpRead t) s = .next (finishCmd p (cmdOk s1
      (memWord s1.dram (dumpBase + 4) :: memWords s1.dram (dumpBase + (par p 1).toNat) n)) s1)) ∧
    (s1.nvm.dumpValid = false → exec (.dumpRead t) s = .next (finishCmd p (cmdRefuse s1 .wrongState) s1))) ∧
  (∀ t s p s1, taken t 0x0606 s = some (p, s1) → firstReserved (cmdOf p).words [0x71, 0xFFFFFFFF, 0xFFFF] = none →
    (par p 1).toNat % 4 ≠ 0 → exec (.dumpRead t) s = .next (finishCmd p (cmdBad s1 1) s1)) ∧
  (∀ t s p s1, taken t 0x0607 s = some (p, s1) → firstReserved (cmdOf p).words [3] = none → s1.nvm.txn = none →
    (fldN (par p 0) 0 2 = 0 → exec (.dumpClear t) s = .next (finishCmd p (cmdOk s1) s1)) ∧
    (fldN (par p 0) 0 2 = 2 → s1.nvm.redirects = [] → exec (.dumpClear t) s =
      .next (nowHeld p (startTxn (.dumpClear (wordOf (dumpSeqLast s1.nvm.digests))) 0 [] s1))) ∧
    (bitAt (par p 0) 1 = true → s1.nvm.redirects ≠ [] →
      exec (.dumpClear t) s = .next (finishCmd p (cmdRefuse s1 .nvmError) s1))) ∧
  (∀ t s p s1, taken t 0x0607 s = some (p, s1) → firstReserved (cmdOf p).words [3] = none → s1.nvm.txn = none →
    fldN (par p 0) 0 2 = 1 → ∃ u, exec (.dumpClear t) s = .next (finishCmd p (cmdOk u) s1) ∧ u.nvm.dumpValid = false ∧
      u.dram = (dramWrite s1 dumpBase (List.replicate 4096 0)).dram ∧
      { u with nvm := s1.nvm, dram := s1.dram, dramBad := s1.dramBad, dramSoft := s1.dramSoft } = s1) ∧
  (∀ t s p s1, taken t 0x0607 s = some (p, s1) → firstReserved (cmdOf p).words [3] = none → s1.nvm.txn.isSome = true →
    exec (.dumpClear t) s = .next (finishCmd p (cmdRefuse s1 .busy) s1)) ∧
  (∀ t s, s.nvm.dumping = none → exec (.dumpComplete t) s = .next (setNow t s)) ∧
  (∀ t s d, s.nvm.dumping = some d → s.rst.waiting = none → d.written = false → logBlocked (setNow t s) = false →
    exec (.dumpComplete t) s = .next (kickWrites (writeDump d (setNow t s)))) ∧
  (∀ t s d, s.nvm.dumping = some d → (s.rst.waiting ≠ none ∨ (d.written = true ∧ d.next < 64)) →
    exec (.dumpComplete t) s = .next (setNow t s)) ∧
  (∀ t s d, s.nvm.dumping = some d → s.rst.waiting = none → d.written = true → 64 ≤ d.next →
    exec (.dumpComplete t) s = .next (requestReset d.reset false (setNow t s))) ∧
  (∀ d s, (writeDump d s).nvm.dumpValid = true ∧ (writeDump d s).rst = s.rst ∧
    (writeDump d s).nvm.dumping = some { d with written := true, slot := digestSlot s.nvm.digests }) ∧
  (∀ d s, d.next < 64 → (digestWritten d true s).nvm.dumping = some { d with next := d.next + 1, retried := false } ∧
    (digestWritten d true s).dram = s.dram) ∧
  (∀ d s, d.retried = false → (digestWritten d false s).nvm.dumping = some { d with retried := true } ∧
    (digestWritten d false s).nvm.verifyRetries = satInc s.nvm.verifyRetries) ∧
  (∀ d s, d.retried = true → ∃ u, digestWritten d false s = { raiseWear (digestFirst d.slot + digestPage d.next) 1 u with
    nvm := { (raiseWear (digestFirst d.slot + digestPage d.next) 1 u).nvm with
      dumping := some { d with next := d.next + 1, retried := false, bad := true } } }) ∧
  (∀ d s, d.next = 63 → d.bad = false → d.slot < s.nvm.digests.length →
    (digestWritten d true s).nvm.digests.getD d.slot none = some (memWord s.dram (dumpBase + 4))) ∧
  (∀ d s, d.next = 63 → d.bad = true → (digestWritten d true s).nvm.digests.getD d.slot none = none) ∧
  (∀ (s : State) d, s.nvm.dumping = some d → (nextWriter s = some .digest ↔ d.written = true ∧ d.next < 64)) ∧
  (digestPage 0 = 1 ∧ digestPage 62 = 63 ∧ digestPage 63 = 0)

/-- R416–R418: FW_UPDATE_BEGIN opens an update through the journal, DATA goes in order into the bank that is not active,
ACTIVATE verifies the image before its record, CONFIRM keeps a trial, ABORT leaves the update. The model's choices in
it: log entries 83, 84, 85, 119, 142 and 177. -/
def Obligations.FirmwareUpdateGoesThroughItsSteps : Prop :=
  (∀ t s p s1, taken t 0x0603 s = some (p, s1) → 4096 ≤ (par p 0).toNat → (par p 0).toNat ≤ 2097152 →
    (par p 0).toNat % 4 = 0 → s1.nvm.trial ≠ 2 → s1.nvm.txn = none → s1.nvm.redirects = [] →
    exec (.fwUpdateBegin t) s = .next (nowHeld p (startTxn (.fwBegin (par p 0).toNat) 0 [] s1))) ∧
  (∀ t s p s1, taken t 0x0603 s = some (p, s1) →
    ((par p 0).toNat < 4096 ∨ 2097152 < (par p 0).toNat ∨ (par p 0).toNat % 4 ≠ 0) →
    exec (.fwUpdateBegin t) s = .next (finishCmd p (cmdBad s1 0) s1)) ∧
  (∀ t s p s1, taken t 0x0603 s = some (p, s1) → 4096 ≤ (par p 0).toNat → (par p 0).toNat ≤ 2097152 →
    (par p 0).toNat % 4 = 0 →
    (s1.nvm.trial = 2 → exec (.fwUpdateBegin t) s = .next (finishCmd p (cmdRefuse s1 .wrongState) s1)) ∧
    (∀ st, s1.nvm.trial ≠ 2 → journalRefusal s1 = some st →
      exec (.fwUpdateBegin t) s = .next (finishCmd p (cmdRefuse s1 st) s1))) ∧
  (∀ o first pages s, s.nvm.inFlight = none → writesGo s = true → s.nvm.direct = none → s.nvm.boot = none →
    s.nvm.dumping = none →
    startTxn o first pages s = { s with nvm := { s.nvm with txn := some { origin := o, first := first, pages := pages }, inFlight := some .txn } }) ∧
  (∀ t s p s1 len g, taken t 0x0604 s = some (p, s1) → s1.nvm.updateLength = some len →
    (par p 0).toNat = s1.nvm.updateGot → (par p 0).toNat + 4 * ((cmdOf p).words.drop 1).length ≤ len →
    s1.power.hold = false → (cmdOf p).words.drop 1 ≠ [] →
    g = mergedPages s1 (bankPage (!s1.nvm.activeB) * 1024 + (par p 0).toNat) (wordsBytes ((cmdOf p).words.drop 1)) →
    exec (.fwUpdateData t) s = .next (nowHeld p (kickWrites { s1 with nvm := { s1.nvm with direct := some {
      pages := g.2.zipIdx.map fun x => (g.1 + x.2, x.1)
      words := ((cmdOf p).words.drop 1).length } } }))) ∧
  (∀ t s p s1, taken t 0x0604 s = some (p, s1) → s1.nvm.updateLength = none →
    exec (.fwUpdateData t) s = .next (finishCmd p (cmdRefuse s1 .wrongState) s1)) ∧
  (∀ t s p s1 len, taken t 0x0604 s = some (p, s1) → s1.nvm.updateLength = some len →
    ((par p 0).toNat ≠ s1.nvm.updateGot → exec (.fwUpdateData t) s = .next (finishCmd p (cmdBad s1 0) s1)) ∧
    ((par p 0).toNat = s1.nvm.updateGot → len < (par p 0).toNat + 4 * ((cmdOf p).words.drop 1).length →
      exec (.fwUpdateData t) s = .next (finishCmd p (cmdBad s1 1) s1)) ∧
    ((par p 0).toNat = s1.nvm.updateGot → (par p 0).toNat + 4 * ((cmdOf p).words.drop 1).length ≤ len →
      s1.power.hold = true → exec (.fwUpdateData t) s = .next (finishCmd p (cmdRefuse s1 .busy) s1))) ∧
  (∀ good n s, s.bureau.executing = none → (directDone good n s).nvm.direct = none ∧
    (directDone good n s).nvm.updateGot = (if good then s.nvm.updateGot + 4 * n else 0) ∧
    (directDone good n s).nvm.updateLength = (if good then s.nvm.updateLength else none)) ∧
  (∀ t s p s1, taken t 0x0605 s = some (p, s1) → firstReserved (cmdOf p).words [3] = none → fldN (par p 0) 0 2 = 2 →
    exec (.fwUpdateCommit t) s = .next (finishCmd p (cmdOk { s1 with nvm := { s1.nvm with
      updateLength := none
      updateGot := 0 } }) s1)) ∧
  (∀ t s p s1, taken t 0x0605 s = some (p, s1) → firstReserved (cmdOf p).words [3] = none →
    (fldN (par p 0) 0 2 = 3 → exec (.fwUpdateCommit t) s = .next (finishCmd p (cmdBad s1 0) s1)) ∧
    ((fldN (par p 0) 0 2 = 1 ∧ s1.nvm.trial ≠ 2) ∨ (fldN (par p 0) 0 2 = 0 ∧ s1.nvm.updateLength = none) →
      exec (.fwUpdateCommit t) s = .next (finishCmd p (cmdRefuse s1 .wrongState) s1)) ∧
    (∀ st, ((fldN (par p 0) 0 2 = 1 ∧ s1.nvm.trial = 2) ∨ (fldN (par p 0) 0 2 = 0 ∧ s1.nvm.updateLength ≠ none)) →
      journalRefusal s1 = some st → exec (.fwUpdateCommit t) s = .next (finishCmd p (cmdRefuse s1 st) s1))) ∧
  (∀ t s p s1, taken t 0x0605 s = some (p, s1) → firstReserved (cmdOf p).words [3] = none → fldN (par p 0) 0 2 = 1 →
    s1.nvm.trial = 2 → s1.nvm.txn = none → s1.nvm.redirects = [] → exec (.fwUpdateCommit t) s =
      .next (nowHeld p (startTxn .fwConfirm 0 [] (blowRollback (secVersion s1 (!s1.nvm.activeB)) s1)))) ∧
  (∀ t s p s1, taken t 0x0605 s = some (p, s1) → firstReserved (cmdOf p).words [3] = none → fldN (par p 0) 0 2 = 0 →
    s1.nvm.updateLength.isSome = true → s1.nvm.txn = none → s1.nvm.redirects = [] →
    exec (.fwUpdateCommit t) s = .next (if verifyBank s1 (!s1.nvm.activeB) = 0 then nowHeld p (startTxn .fwVerified 0 [] s1)
      else finishCmd p (activate s1) s1)) ∧
  (∀ s, s.nvm.updateLength.isSome = true → s.nvm.txn = none → s.nvm.redirects = [] → verifyBank s (!s.nvm.activeB) ≠ 0 →
    (activate s).status = (if verifyBank s (!s.nvm.activeB) = 4 then .notPermitted else .signatureFail) ∧
    (activate s).state = fwDone (if verifyBank s (!s.nvm.activeB) = 4 then 2 else 1) (!s.nvm.activeB) s) ∧
  (∀ n s, (commitEffect (.fwBegin n) s).nvm.trial = 0 ∧ (commitEffect .fwVerified s).nvm.trial = 1 ∧
    (commitEffect .fwConfirm s).nvm.trial = 0 ∧ (commitEffect .fwConfirm s).nvm.activeB = !s.nvm.activeB ∧
    bankState (commitEffect .fwVerified s) (!s.nvm.activeB) = .valid ∧
    bankState (commitEffect (.fwBegin n) s) (!s.nvm.activeB) = .incomplete ∧
    bankState (commitEffect .fwVerified s) s.nvm.activeB = bankState s s.nvm.activeB) ∧
  (∀ n (s : State), n ≤ 32 → s.rst.fuses.rollback.toNat ≤ 32 → (blowRollback n s).rst.fuses.rollback.toNat =
    max s.rst.fuses.rollback.toNat n) ∧
  (∀ n (s : State), (blowRollback n s).rst.fuses.rollback.toNat ≤ 32) ∧
  (∀ (s : State) b, 32 < secVersion s b → verifyBank s b ≠ 0)
/-! ### The two-wire ports (R424–R444) -/

/-- R431–R433, R441, R442: the mailbox takes segments while its port is free, SUBMIT passes the packet to the Bureau,
ABORT and
REPLY_NEXT free the port; TW_CONFIG puts settings in force and refuses those out of range or freer than the fuse;
TW_TRANSFER of a controller port begins and waits. The model's choices in it: log entries 21, 26, 92, 93, 140 and
215. -/
def Obligations.TwoWireCommandsAndMailbox : Prop :=
  (∀ t s p s1 x new pt, taken t 0x0701 s = some (p, s1) → pt = (if bitAt (par p 0) 0 then TwPort.b else TwPort.a) →
    x = getTw s1 pt → new = twCfgOf (overlay (cmdOf p).words (twWords x.cfg)) →
    firstReserved (cmdOf p).words ([0x00FEFFB3, 0xFFFFFFFF] ++ List.replicate 8 0xFFFFFF00) = none → twCfgBad new = none →
    freerLevel new.level (if pt = .a then s1.rst.fuses.twaLevel else s1.rst.fuses.twbLevel) = false →
    ((cmdOf p).req = twReq pt → new.role = x.cfg.role ∧ new.taddr = x.cfg.taddr ∧ new.mode = x.cfg.mode) →
    x.transfer = none → x.poll = none → x.inOpen = false → (twHolds x = false ∨ (cmdOf p).req = twReq pt) →
    (x.cfg.ibrEn = true → x.cfg.role = false → new.ibrEn = true → new.role = false →
      exec (.twConfig t) s = .next (finishCmd p (cmdOk (updTw s1 pt fun x => { x with cfg := new })) s1)) ∧
    ((x.cfg.ibrEn = false ∨ x.cfg.role = true ∨ new.ibrEn = false ∨ new.role = true) →
      exec (.twConfig t) s = .next (finishCmd p (cmdOk (updTw (clearRose pt s1) pt fun x => { x with
        cfg := new
        ibrPending := false })) s1))) ∧
  (∀ t s p s1 x new pt, taken t 0x0701 s = some (p, s1) → pt = (if bitAt (par p 0) 0 then TwPort.b else TwPort.a) →
    x = getTw s1 pt → new = twCfgOf (overlay (cmdOf p).words (twWords x.cfg)) →
    firstReserved (cmdOf p).words ([0x00FEFFB3, 0xFFFFFFFF] ++ List.replicate 8 0xFFFFFF00) = none → twCfgBad new = none →
    (freerLevel new.level (if pt = .a then s1.rst.fuses.twaLevel else s1.rst.fuses.twbLevel) = true ∨
      ((cmdOf p).req = twReq pt ∧ (new.role ≠ x.cfg.role ∨ new.taddr ≠ x.cfg.taddr ∨ new.mode ≠ x.cfg.mode))) →
    exec (.twConfig t) s = .next (finishCmd p (cmdRefuse s1 .notPermitted) s1)) ∧
  (∀ t s p s1 x new pt, taken t 0x0701 s = some (p, s1) → pt = (if bitAt (par p 0) 0 then TwPort.b else TwPort.a) →
    x = getTw s1 pt → new = twCfgOf (overlay (cmdOf p).words (twWords x.cfg)) →
    firstReserved (cmdOf p).words ([0x00FEFFB3, 0xFFFFFFFF] ++ List.replicate 8 0xFFFFFF00) = none →
    (∀ i, twCfgBad new = some i → exec (.twConfig t) s = .next (finishCmd p (cmdBad s1 i) s1)) ∧
    (twCfgBad new = none →
      freerLevel new.level (if pt = .a then s1.rst.fuses.twaLevel else s1.rst.fuses.twbLevel) = false →
      (cmdOf p).req ≠ twReq pt → (x.transfer ≠ none ∨ x.poll ≠ none ∨ x.inOpen = true ∨ twHolds x = true) →
      exec (.twConfig t) s = .next (finishCmd p (cmdRefuse s1 .wrongState) s1))) ∧
  (∀ t s p s1 pt, taken t 0x0702 s = some (p, s1) → pt = (if bitAt (par p 0) 24 then TwPort.b else TwPort.a) →
    firstReserved (cmdOf p).words [0x037F0000, 0x01FF01FF] = none → fld (par p 0) 16 7 ≠ twAddr s1 pt →
    fldN (par p 1) 16 9 ≤ 256 → fldN (par p 1) 0 9 ≤ 256 →
    ((cmdOf p).words.drop 2).length = (fldN (par p 1) 0 9 + 3) / 4 → (getTw s1 pt).cfg.role = true →
    exec (.twTransfer t) s = .next (nowHeld p (updTw s1 pt fun x => { x with transfer := some {
      addr := fld (par p 0) 16 7
      split := bitAt (par p 0) 25
      write := (wordsBytes ((cmdOf p).words.drop 2)).take (fldN (par p 1) 0 9)
      readLen := fldN (par p 1) 16 9
      started := x.bus.isNone } }))) ∧
  (∀ t s p s1 pt, taken t 0x0702 s = some (p, s1) → pt = (if bitAt (par p 0) 24 then TwPort.b else TwPort.a) →
    firstReserved (cmdOf p).words [0x037F0000, 0x01FF01FF] = none → fld (par p 0) 16 7 ≠ twAddr s1 pt →
    fldN (par p 1) 16 9 ≤ 256 → fldN (par p 1) 0 9 ≤ 256 →
    ((cmdOf p).words.drop 2).length = (fldN (par p 1) 0 9 + 3) / 4 → (getTw s1 pt).cfg.role = false →
    exec (.twTransfer t) s = .next (finishCmd p (cmdRefuse s1 .wrongState) s1)) ∧
  (∀ t s p s1 pt, taken t 0x0702 s = some (p, s1) → pt = (if bitAt (par p 0) 24 then TwPort.b else TwPort.a) →
    firstReserved (cmdOf p).words [0x037F0000, 0x01FF01FF] = none →
    (fld (par p 0) 16 7 = twAddr s1 pt → exec (.twTransfer t) s = .next (finishCmd p (cmdBad s1 0) s1)) ∧
    (fld (par p 0) 16 7 ≠ twAddr s1 pt → (256 < fldN (par p 1) 16 9 ∨ 256 < fldN (par p 1) 0 9) →
      exec (.twTransfer t) s = .next (finishCmd p (cmdBad s1 1) s1)) ∧
    (fld (par p 0) 16 7 ≠ twAddr s1 pt → fldN (par p 1) 16 9 ≤ 256 → fldN (par p 1) 0 9 ≤ 256 →
      ((cmdOf p).words.drop 2).length ≠ (fldN (par p 1) 0 9 + 3) / 4 →
      exec (.twTransfer t) s = .next (finishCmd p (cmdBad s1 2) s1))) ∧
  (∀ t pt s, twLive s = false → exec (.abort t pt) s = .next (setNow t s) ∧ exec (.append t pt) s = .next (setNow t s) ∧
    exec (.submit t pt) s = .next (setNow t s) ∧ exec (.replyNext t pt) s = .next (setNow t s)) ∧
  (∀ t pt s, twLive s = true → ∃ u, exec (.abort t pt) s = .next u ∧ (getTw u pt).acc = [] ∧ (getTw u pt).inOpen = false ∧
    (getTw u pt).held = false ∧ (getTw u pt).replyReady = false ∧ (getTw u pt).replyLen = 0 ∧
    (getTw u pt).mbIn = (getTw s pt).mbIn ∧ (getTw u pt).cfg = (getTw s pt).cfg ∧
    { u with bureau := s.bureau, twa := s.twa, twb := s.twb } = setNow t s ∧
    ∀ q ∈ u.bureau.queue, q.req = twReq pt → q.mute = true) ∧
  (∀ t pt s n, twLive s = true → twHolds (getTw s pt) = false → n = (getTw s pt).mbCount.toNat → 4 ≤ n → n ≤ 128 → n % 4 = 0 →
    exec (.append t pt) s = .next (updTw (setNow t s) pt fun x => { x with
      acc := (x.acc ++ x.mbIn.take n).take 148
      inOpen := true
      held := false
      mbIn := List.replicate 128 0 })) ∧
  (∀ t pt s n, twLive s = true → twHolds (getTw s pt) = false → n = (getTw s pt).mbCount.toNat → 4 ≤ n → n ≤ 128 → n % 4 = 0 →
    exec (.submit t pt) s = .next (arrivePacket { req := twReq pt, dest := 127, bytes := ((getTw s pt).acc ++ (getTw s pt).mbIn.take n).take 148, arrived := (setNow t s).now }
      (updTw (setNow t s) pt fun x => { x with
        acc := []
        inOpen := false
        held := true
        mbIn := List.replicate 128 0 }))) ∧
  (∀ t pt s, twLive s = true → twHolds (getTw s pt) = true → exec (.submit t pt) s =
    .next (updTw (setNow t s) pt (setMbErr 2)) ∧ exec (.append t pt) s = .next (updTw (setNow t s) pt (setMbErr 2))) ∧
  (∀ t pt s, twLive s = true → twHolds (getTw s pt) = false → ((getTw s pt).mbCount.toNat % 4 ≠ 0 ∨
      (getTw s pt).mbCount.toNat < 4 ∨ 128 < (getTw s pt).mbCount.toNat) → ∃ u,
    u = updTw (setNow t s) pt (fun x => setMbErr 1 { x with acc := [], inOpen := false }) ∧
    exec (.submit t pt) s = .next u ∧ exec (.append t pt) s = .next u) ∧
  (∀ t pt s, twLive s = true → (getTw s pt).replyReady = false → exec (.replyNext t pt) s = .next (setNow t s)) ∧
  (∀ t pt s, twLive s = true → (getTw s pt).replyReady = true → (getTw s pt).replyRest = [] → exec (.replyNext t pt) s =
    .next (updTw (setNow t s) pt fun x => { x with
      replyReady := false
      replyMore := false
      replyLen := 0
      ibrPending := false })) ∧
  (∀ t pt s, twLive s = true → (getTw s pt).replyReady = true → (getTw s pt).replyRest ≠ [] → exec (.replyNext t pt) s =
    .next (updTw (setNow t s) pt (loadSegment (getTw s pt).replyRest))) ∧
  (∀ (bs : List Byte) x, 96 < bs.length → (loadSegment bs x).mbOut = bs.take 96 ∧ (loadSegment bs x).replyLen.toNat = 96 ∧
    (loadSegment bs x).replyMore = true ∧ (loadSegment bs x).replyRest = bs.drop 96) ∧
  (∀ (bs : List Byte) x, bs.length ≤ 96 → (loadSegment bs x).mbOut.take bs.length = bs ∧
    (loadSegment bs x).replyLen.toNat = bs.length ∧ (loadSegment bs x).replyMore = false ∧ (loadSegment bs x).replyRest = [])

/-- R427–R430, R434–R444: a bus transaction with a port's address is counted and moves the window's pointer, a stray one is not
answered; the window reads as its register map says; in-band requests, controller transfers and bus recovery end as their
rules say. The model's choices in it: log entries 27, 29, 92, 93, 98, 139, 140, 213 and 215. -/
def Obligations.TwoWireBusEventsAndTransfers : Prop :=
  (∀ t pt (a : Byte) n s, twPasses s pt n = true → twAnswers s pt = true → fld a 1 7 = twAddr s pt →
    s.power.phase ≠ .stow → (getTw s pt).bus = none → (getTw s pt).transfer = none → bitAt s.power.wakeTw (twNo pt) = false →
    exec (.twStart t pt a ⟨false, n⟩) s = .next (updTw (setNow t s) pt fun x => { x with
      matchCount := satInc x.matchCount
      bus := some ⟨true, bitAt a 0, true⟩ })) ∧
  (∀ t pt (a : Byte) n s, pinsChained s = false → twPasses s pt n = true → fld a 1 7 ≠ twAddr s pt → (getTw s pt).bus = none →
    exec (.twStart t pt a ⟨false, n⟩) s = .next (updTw (setNow t s) pt fun x => { x with
      bus := some ⟨false, bitAt a 0, true⟩
      transfer := x.transfer.map fun y => { y with started := false } })) ∧
  (∀ t pt (a : Byte) n s, twPasses s pt n = true → twAnswers s pt = true → fld a 1 7 = twAddr s pt → s.power.phase = .stow →
    (getTw s pt).bus = none → ∃ u,
    exec (.twStart t pt a ⟨false, n⟩) s = .next u ∧ u.power.phase = .idle ∧ (getTw u pt).pointer = 0 ∧
    (getTw u pt).matchCount = satInc (getTw s pt).matchCount ∧ (getTw u pt).bus = some ⟨true, bitAt a 0, true⟩) ∧
  (∀ t pt (a : Byte) n s b, pinsChained s = false → twPasses s pt n = true → (getTw s pt).bus = some b → b.addressed = true →
    (getTw s pt).transfer = none → twAnswers s pt = false →
    exec (.twStart t pt a ⟨true, n⟩) s = .next (updTw (setNow t s) pt fun x => { x with
      aborted := satInc x.aborted
      bus := some ⟨false, bitAt a 0, true⟩ })) ∧
  (∀ t pt n s b, pinsChained s = false → twPasses s pt n = true → (getTw s pt).bus = some b → b.addressed = true →
    exec (.twStop t pt ⟨true, n⟩) s = .next (updTw (setNow t s) pt fun x =>
      busIdle (twSeen (setNow t s) pt) { x with aborted := satInc x.aborted })) ∧
  (∀ t pt n s, pinsChained s = false → twPasses s pt n = true → ∃ u, exec (.twStop t pt ⟨false, n⟩) s = .next u ∧
    (getTw u pt).bus = none ∧ (getTw u pt).busIdleSince = twSeen (setNow t s) pt ∧
    (getTw u pt).aborted = (getTw s pt).aborted ∧ { u with twa := s.twa, twb := s.twb } = setNow t s) ∧
  (∀ t pt a e s, twPasses s pt e.lasts = false ∨ pinsChained s = true → exec (.twStart t pt a e) s = .next (setNow t s) ∧
    exec (.twStop t pt e) s = .next (setNow t s)) ∧
  (∀ pt s, twFilter s pt = (if s.power.phase = .stow then 50 else 10 * (getTw s pt).cfg.filter.toNat) ∧
    twSeen s pt = s.now.real + 16 * twFilter s pt ∧ (∀ n, twPasses s pt n = true ↔ twFilter s pt ≤ n)) ∧
  (∀ t pt s b, pinsChained s = false → (getTw s pt).bus = some b → b.addressed = true → exec (.twSclTimeout t pt) s =
    .next (updTw (setNow t s) pt fun x => { x with bus := some ⟨false, false, false⟩, aborted := satInc x.aborted })) ∧
  (∀ t pt bs s, twAnswers s pt = false → exec (.twWindowWrite t pt bs) s = .next (setNow t s)) ∧
  (∀ t pt (a b : Byte) s, twAnswers s pt = true → (getTw s pt).bus = some ⟨true, false, true⟩ → 0x10 ≤ a.toNat →
    a.toNat < 0x90 → twHolds (getTw s pt) = false → exec (.twWindowWrite t pt [a, b]) s =
      .next (updTw (setNow t s) pt fun x => { x with
        bus := some ⟨true, false, false⟩
        pointer := a + 1
        mbIn := x.mbIn.set (a.toNat - 0x10) b })) ∧
  (∀ t pt (a b : Byte) s, twAnswers s pt = true → (getTw s pt).bus = some ⟨true, false, true⟩ → 0x10 ≤ a.toNat →
    a.toNat < 0x90 → twHolds (getTw s pt) = true → exec (.twWindowWrite t pt [a, b]) s =
      .next (updTw (setNow t s) pt fun x => setMbErr 2 { x with bus := some ⟨true, false, false⟩, pointer := a + 1 })) ∧
  (∀ t pt (a b : Byte) s, twAnswers s pt = true → (getTw s pt).bus = some ⟨true, false, true⟩ →
    (a.toNat < 8 ∨ (9 < a.toNat ∧ a.toNat < 0x10) ∨ 0x90 ≤ a.toNat) → exec (.twWindowWrite t pt [a, b]) s =
      .next (updTw (setNow t s) pt fun x => { x with bus := some ⟨true, false, false⟩, pointer := a + 1 })) ∧
  (∀ t pt (b : Byte) s, twAnswers s pt = true → (getTw s pt).bus = some ⟨true, false, true⟩ →
    exec (.twWindowWrite t pt [9, b]) s = .next (mailControl pt b (updTw (setNow t s) pt fun x =>
      { x with bus := some ⟨true, false, false⟩, pointer := 10 }))) ∧
  (∀ pt (b : Byte) s, (b = 0x80 → mailControl pt b s = mailAbort pt s) ∧ (b = 0x40 → mailControl pt b s = mailNext pt s) ∧
    (b = 1 → mailControl pt b s = mailSegment pt true s) ∧ (b = 2 → mailControl pt b s = mailSegment pt false s)) ∧
  (∀ t pt (b : Byte) s, twAnswers s pt = true → (getTw s pt).bus = some ⟨true, false, true⟩ →
    exec (.twWindowWrite t pt [8, b]) s = .next (updTw (setNow t s) pt fun x => { x with
      bus := some ⟨true, false, false⟩
      pointer := 9
      mbCount := b })) ∧
  (∀ t pt s, twAnswers s pt = true → (getTw s pt).bus = some ⟨true, true, true⟩ → (getTw s pt).pointer = 0 →
    exec (.twWindowRead t pt 2) s = .next (updTw { setNow t s with out := { s.out with
      twReads := s.out.twReads ++ [(pt, [0x16, 0x50])] } } pt fun x => { x with pointer := 2 })) ∧
  (∀ t pt s, twAnswers s pt = true → (getTw s pt).bus = some ⟨true, true, true⟩ → (getTw s pt).pointer = 0x0A → ∃ u,
    exec (.twWindowRead t pt 1) s = .next u ∧ (getTw u pt).mbErr = 0 ∧ (getTw u pt).pointer = 0x0B ∧
    u.out.twReads = s.out.twReads ++ [(pt, [windowByte s pt 0x0A])] ∧
    fld (windowByte s pt 0x0A) 0 3 = (getTw s pt).mbErr ∧ bitAt (windowByte s pt 0x0A) 7 = (getTw s pt).replyReady ∧
    bitAt (windowByte s pt 0x0A) 6 = (getTw s pt).replyMore ∧ bitAt (windowByte s pt 0x0A) 5 = (getTw s pt).held ∧
    bitAt (windowByte s pt 0x0A) 4 = (getTw s pt).inOpen) ∧
  (∀ pt n s, (readWindow pt n s).1.length = n ∧ (getTw (readWindow pt n s).2 pt).pointer =
    (getTw s pt).pointer + BitVec.ofNat 8 n) ∧
  (∀ t pt n s, twAnswers s pt = false → exec (.twWindowRead t pt n) s = .next (setNow t s)) ∧
  (∀ s pt, windowByte s pt 0 = 0x16 ∧ windowByte s pt 1 = 0x50 ∧ windowByte s pt 2 = s.rst.fuses.stepping ∧
    windowByte s pt 8 = (getTw s pt).mbCount ∧ windowByte s pt 0x0B = (getTw s pt).replyLen ∧
    bitAt (windowByte s pt 3) 2 = s.rst.recovery ∧ bitAt (windowByte s pt 3) 1 = s.rst.fuses.es ∧
    bitAt (windowByte s pt 3) 0 = s.rst.fuses.variantMl ∧ fldN (windowByte s pt 4) 6 2 = powerCode s ∧
    bitAt (windowByte s pt 4) 4 = s.power.hold ∧ bitAt (windowByte s pt 4) 3 = !(captureStopped s) ∧
    bitAt (windowByte s pt 4) 0 = alertAsserted s ∧ windowByte s pt 5 = clampU 8 (unackedCount s.events) ∧
    (∀ i < 8, windowByte s pt (0xF0 + i) = fld (getTw s pt).rtMirror (8 * i) 8) ∧
    bitAt (windowByte s pt 4) 5 = s.bureau.ready ∧ bitAt (windowByte s pt 4) 2 = treeLimp s ∧
    (∀ i < 128, windowByte s pt (0x10 + i) = (getTw s pt).mbIn.getD i 0) ∧
    (∀ i < 96, windowByte s pt (0x90 + i) = (getTw s pt).mbOut.getD i 0)) ∧
  (∀ t s, s.rst.asserted.contains .bureau = false → s.power.phase ≠ .stow → exec (.rtMirrorUpdate t) s = .next { setNow t s with
    twa := { s.twa with rtMirror := ringStamp (setNow t s) }
    twb := { s.twb with rtMirror := ringStamp (setNow t s) } }) ∧
  (∀ t pt s, twLive s = true → ibrAllowed (getTw s pt) = true → ibrOwed s pt = true →
    busQuiet (setNow t s) (getTw s pt) = true → exec (.ibrIssue t pt) s = .next (ibrSend pt (setNow t s))) ∧
  (∀ t pt s, (getTw s pt).cfg.ibrEn = false → exec (.ibrIssue t pt) s = .next (setNow t s) ∧
    exec (.ibrRepeat t pt) s = .next (setNow t s)) ∧
  (∀ t pt s a, twLive s = true → ibrAllowed (getTw s pt) = true → ibrOwed s pt = false → (getTw s pt).replyReady = true →
    (getTw s pt).ibrLast = some a → busQuiet (setNow t s) (getTw s pt) = true →
    a + 16000000 * (getTw s pt).cfg.ibrRepeat.toNat ≤ (setNow t s).now.real →
    exec (.ibrRepeat t pt) s = .next (ibrSend pt (setNow t s))) ∧
  (∀ pt s, (getTw (ibrSend pt s) pt).ibrSent = satInc (getTw s pt).ibrSent ∧
    (getTw (ibrSend pt s) pt).ibrLast = some s.now.real ∧ (getTw (ibrSend pt s) pt).ibrPending = false ∧
    bitAt (ibrSend pt s).events.rose (twNo pt) = false ∧ (ibrSend pt s).events.log = s.events.log) ∧
  (∀ t pt ans s, twLive s = true → (getTw s pt).cfg.role = true → (getTw s pt).bus = none →
    (transferring (getTw s pt) = false → exec (.ibrRecognised t pt ans) s = .next (runPoll pt ans (setNow t s))) ∧
    (transferring (getTw s pt) = true → exec (.ibrRecognised t pt ans) s =
      .next (updTw (setNow t s) pt fun x => { x with poll := some ans }))) ∧
  (∀ pt ans s, asking (getTw s pt) ans = [] → ∃ u, runPoll pt ans s =
    updTw u pt (fun x => { x with ibrUnclaimed := satInc x.ibrUnclaimed }) ∧ { u with out := s.out } = s) ∧
  (∀ pt ans s i a b, asking (getTw s pt) ans = [(i, a, b)] → ∃ u, runPoll pt ans s =
    raise 0x0702 (twNo pt) (i + 2 ^ 8 * a.toNat + 2 ^ 16 * b.toNat) 0 u ∧ { u with out := s.out } = s) ∧
  (∀ pt ans s c, (getTw s pt).cfg.cands = [c] → c.valid = true → (runPoll pt ans s).out.twBus = s.out.twBus ++ [(pt,
    if (ans.getD 0 none).isSome then [.start, .addr c.addr false, .write c.reg, .start, .addr c.addr true, .read 1, .stop]
    else [.start, .addr c.addr false, .stop])]) ∧
  (∀ x, transferItems x = (if x.write = [] ∧ x.readLen ≠ 0 then [] else [.start, .addr x.addr false] ++ x.write.map .write) ++
    (if x.readLen = 0 then [] else (if x.split = true ∧ x.write ≠ [] then [.stop] else []) ++
      [.start, .addr x.addr true, .read x.readLen]) ++ [.stop]) ∧
  (∀ x n, drivenItems x .done n = transferItems x ∧ drivenItems x .addressNack 0 = (transferItems x).take 2 ++ [.stop] ∧
    drivenItems x .dataNack n = (transferItems x).take (3 + n) ++ [.stop]) ∧
  (∀ t pt s x, twLive s = true → (getTw s pt).transfer = some x → x.waits = true →
    busQuiet (setNow t s) (getTw s pt) = true → exec (.twTransferRetry t pt) s =
      .next (updTw (setNow t s) pt fun y => { y with transfer := some { x with waits := false, started := true } })) ∧
  (∀ t pt s x bs, twLive s = true → (getTw s pt).transfer = some x → x.waits = false →
    (getTw s pt).bus = none → (x.started = true ∨ busQuiet (setNow t s) (getTw s pt) = true) →
    exec (.twTransferEnd t pt .done bs) s =
    .next (endTransfer pt .done bs (updTw (setNow t s) pt (busIdle (twSeen (setNow t s) pt))))) ∧
  (∀ t pt bs s x, (getTw s pt).transfer = some x → x.waits = false → x.started = false →
    busQuiet (setNow t s) (getTw s pt) = false → exec (.twTransferEnd t pt .done bs) s = .next (setNow t s)) ∧
  (∀ t pt r bs s x b, twLive s = true → (getTw s pt).transfer = some x → x.waits = false → (getTw s pt).bus = some b →
    (r = .done ∨ r = .addressNack ∨ r = .dataNack) → exec (.twTransferEnd t pt r bs) s = .next (setNow t s)) ∧
  (∀ t pt s x, twLive s = true → (getTw s pt).transfer = some x → x.waits = false →
    exec (.twTransferEnd t pt .sclTimeout []) s = .next (endTransfer pt .sclTimeout [] (raiseStuck pt true (setNow t s)))) ∧
  (∀ t pt s x, twLive s = true → (getTw s pt).transfer = some x → x.waits = false → 3 ≤ x.losses →
    exec (.twTransferEnd t pt .arbitrationLost []) s = .next (endTransfer pt .arbitrationLost []
      (updTw (setNow t s) pt fun y => { y with
        arbLost := satInc y.arbLost
        bus := some (y.bus.getD ⟨false, false, true⟩) }))) ∧
  (∀ t pt r bs s, (∀ x ∈ (getTw s pt).transfer, x.waits = true) →
    exec (.twTransferEnd t pt r bs) s = .next (setNow t s)) ∧
  (∀ t pt s x, twLive s = true → (getTw s pt).transfer = some x → x.waits = false → x.losses < 3 →
    exec (.twTransferEnd t pt .arbitrationLost []) s = .next (updTw (setNow t s) pt fun y => { y with
      arbLost := satInc y.arbLost
      bus := some (y.bus.getD ⟨false, false, true⟩)
      transfer := some { x with losses := x.losses + 1, waits := true } })) ∧
  (∀ pt bs s x p, (getTw s pt).transfer = some x → (getTw s pt).poll = none → s.bureau.executing = some p →
    pktOp p = 0x0702 → ∃ u,
    endTransfer pt .done bs s = settleStow (settleAll (answer p (cmdOk u
      (mkWord [(0, 16), ((bs.take x.readLen).length, 0)] :: bytesWords (bs.take x.readLen))) u)) ∧
    (getTw u pt).transfer = none ∧ u.bureau.executing = none ∧
    u.out.twBus = s.out.twBus ++ [(pt, transferItems x)]) ∧
  (∀ t pt n s, twLive s = true → (getTw s pt).cfg.role = true → exec (.busRecovery t pt n true) s =
    .next (updTw (setNow t s) pt fun x => busIdle (twSeen (setNow t s) pt) { x with busRecoveries := satInc x.busRecoveries })) ∧
  (∀ t pt n s, twLive s = true → (getTw s pt).cfg.role = true → n ≠ 0 → (getTw s pt).transfer = none →
    (getTw s pt).stuckRaised = false → exec (.busRecovery t pt n false) s = .next (raise 0x0701 (twNo pt) 0 0
      (updTw (setNow t s) pt fun x => { x with busRecoveries := satInc x.busRecoveries, stuckRaised := true }))) ∧
  (∀ t pt n f s, (getTw s pt).cfg.role = false → exec (.busRecovery t pt n f) s = .next (setNow t s))
/-! ### Timers, the monitor converter, the test access port, and the values after reset (R445–R476, R495) -/

/-- R445–R456: TIMER_CONFIG, TIMER_GO and TIMER_READ act on the eight channels; a source event passes the prescaler
and ticks
the channel; SYNC and capture events act on running channels; a qualified edge of a TRG pin is dated and captured. The
model's choices in it: log entries 94, 95, 96, 98, 134, 135, 136, 137 and 190. -/
def Obligations.TimerCommandsTicksAndEdges : Prop :=
  (∀ t s p s1 n w, taken t 0x0703 s = some (p, s1) → firstReserved (cmdOf p).words [0xFFF, 0x3FFFFF] = none →
    n = fldN (par p 0) 0 3 → w = (overlay (cmdOf p).words (timerWords (s1.timers.chans.getD n {}) ++ [filtWord s1.timers.filt])) →
    fldN (paramAt w 0) 8 3 ≠ 7 → fldN (paramAt w 0) 5 2 ≠ 3 → fldN (paramAt w 1) 20 2 ≠ 3 →
    (bitAt (paramAt w 1) 10 = true → pinTaken s1 n (fld (paramAt w 1) 7 3) = false) →
    0x10000 ≤ (paramAt w 2).toNat → (bitAt (paramAt w 0) 7 = true → 2 ≤ (paramAt w 3).toNat) → bitAt (paramAt w 0) 11 = false →
    chanHeld s1 n = false → (chan s1 n).running = false →
    ∃ u, exec (.timerConfig t) s = .next (finishCmd p (cmdOk u) s1) ∧
      u.timers.chans = s1.timers.chans.modify n (fun x => { x with
        cfg := timerCfgOf (paramAt w 0) (paramAt w 1)
        prescale := paramAt w 2
        period := paramAt w 3
        cmp0 := paramAt w 4
        cmp1 := paramAt w 5
        periodPre := paramAt w 3
        cmp0Pre := paramAt w 4
        cmp1Pre := paramAt w 5
        phaseAcc := 0
        count := 0
        captures := []
        out := bitAt (paramAt w 1) 6 }) ∧
      u.timers.edges = s1.timers.edges.set n none ∧ u.timers.filt = s1.timers.filt ∧ { u with timers := s1.timers } = s1) ∧
  (∀ (x : TimerChan) f ws, ws.length ≤ 3 → (overlay ws (timerWords x ++ [filtWord f])).drop 3 = [x.period, x.cmp0, x.cmp1, filtWord f]) ∧
  (∀ t s p s1 n w, taken t 0x0703 s = some (p, s1) → firstReserved (cmdOf p).words [0xFFF, 0x3FFFFF] = none →
    n = fldN (par p 0) 0 3 → w = (overlay (cmdOf p).words (timerWords (s1.timers.chans.getD n {}) ++ [filtWord s1.timers.filt])) →
    fldN (paramAt w 0) 8 3 ≠ 7 → fldN (paramAt w 0) 5 2 ≠ 3 → fldN (paramAt w 1) 20 2 ≠ 3 →
    (bitAt (paramAt w 1) 10 = true → pinTaken s1 n (fld (paramAt w 1) 7 3) = false) →
    0x10000 ≤ (paramAt w 2).toNat → (bitAt (paramAt w 0) 7 = true → 2 ≤ (paramAt w 3).toNat) → bitAt (paramAt w 0) 11 = false →
    chanHeld s1 n = false → (chan s1 n).running = true →
    exec (.timerConfig t) s = .next (finishCmd p (cmdRefuse s1 .wrongState) s1)) ∧
  (∀ t s p s1 n w, taken t 0x0703 s = some (p, s1) → firstReserved (cmdOf p).words [0xFFF, 0x3FFFFF] = none →
    n = fldN (par p 0) 0 3 → w = (overlay (cmdOf p).words (timerWords (s1.timers.chans.getD n {}) ++ [filtWord s1.timers.filt])) →
    (fldN (paramAt w 0) 8 3 = 7 ∨ fldN (paramAt w 0) 5 2 = 3 →
      exec (.timerConfig t) s = .next (finishCmd p (cmdBad s1 0) s1)) ∧
    (fldN (paramAt w 0) 8 3 ≠ 7 → fldN (paramAt w 0) 5 2 ≠ 3 → (fldN (paramAt w 1) 20 2 = 3 ∨
        (bitAt (paramAt w 1) 10 = true ∧ pinTaken s1 n (fld (paramAt w 1) 7 3) = true)) →
      exec (.timerConfig t) s = .next (finishCmd p (cmdBad s1 1) s1)) ∧
    (fldN (paramAt w 0) 8 3 ≠ 7 → fldN (paramAt w 0) 5 2 ≠ 3 → fldN (paramAt w 1) 20 2 ≠ 3 → bitAt (paramAt w 1) 10 = false →
      ((paramAt w 2).toNat < 0x10000 → exec (.timerConfig t) s = .next (finishCmd p (cmdBad s1 2) s1)) ∧
      (0x10000 ≤ (paramAt w 2).toNat → bitAt (paramAt w 0) 7 = true → (paramAt w 3).toNat < 2 →
        exec (.timerConfig t) s = .next (finishCmd p (cmdBad s1 3) s1)) ∧
      (0x10000 ≤ (paramAt w 2).toNat → (bitAt (paramAt w 0) 7 = true → 2 ≤ (paramAt w 3).toNat) →
        bitAt (paramAt w 0) 11 = false → chanHeld s1 n = true →
        exec (.timerConfig t) s = .next (finishCmd p (cmdRefuse s1 .busy) s1)))) ∧
  (∀ t s p s1 n w f, taken t 0x0703 s = some (p, s1) → firstReserved (cmdOf p).words [0xFFF, 0x3FFFFF] = none →
    n = fldN (par p 0) 0 3 → w = (overlay (cmdOf p).words (timerWords (s1.timers.chans.getD n {}) ++ [filtWord s1.timers.filt])) →
    fldN (paramAt w 0) 8 3 ≠ 7 → fldN (paramAt w 0) 5 2 ≠ 3 → fldN (paramAt w 1) 20 2 ≠ 3 → bitAt (paramAt w 1) 10 = false →
    0x10000 ≤ (paramAt w 2).toNat → (bitAt (paramAt w 0) 7 = true → 2 ≤ (paramAt w 3).toNat) → bitAt (paramAt w 0) 11 = true →
    filtOf (paramAt w 6) = some f → chanHeld s1 n = false → captureStopped s1 = true →
    ((List.range 8).any fun d => (chan s1 d).running) = false → ∃ u,
    exec (.timerConfig t) s = .next (finishCmd p (cmdOk u) s1) ∧ u.timers.filt = f ∧
    (∀ d, d ≠ n → u.timers.chans[d]? = s1.timers.chans[d]?)) ∧
  (∀ t s p s1 ld, taken t 0x0704 s = some (p, s1) → firstReserved (cmdOf p).words [0x3FFFFFFF] = none →
    fldN (par p 0) 0 8 &&& fldN (par p 0) 8 8 = 0 → ld = fld (par p 0) 27 3 →
    (mainsHoldsTmr7 s1 = true → fldN (par p 0) 0 8 ||| fldN (par p 0) 8 8 ||| fldN (par p 0) 16 8 < 128 ∧
      (ld = 0 ∨ fldN (par p 0) 24 3 ≠ 7)) →
    (bitAt ld 2 && (chan s1 (fldN (par p 0) 24 3)).cfg.mode && decide ((par p 3).toNat < 2)) = false →
    ∃ u, exec (.timerGo t) s = .next (finishCmd p (cmdOk u [lo32 (ringStamp u), hi32 (ringStamp u)]) s1) ∧
      (∀ c < 8, s1.timers.chans.length = 8 → u.timers.chans.getD c {} =
        goChan (ringUs s1) (bitAt (par p 0) (8 + c)) (bitAt (par p 0) (16 + c)) (bitAt (par p 0) c)
          (if c = fldN (par p 0) 24 3 then loadChan ld (par p 1) (par p 2) (par p 3) (s1.timers.chans.getD c {})
           else s1.timers.chans.getD c {})) ∧
      { u with timers := s1.timers } = s1) ∧
  (∀ t s p s1, taken t 0x0704 s = some (p, s1) → firstReserved (cmdOf p).words [0x3FFFFFFF] = none →
    fldN (par p 0) 0 8 &&& fldN (par p 0) 8 8 ≠ 0 → exec (.timerGo t) s = .next (finishCmd p (cmdBad s1 0) s1)) ∧
  (∀ t s p s1, taken t 0x0704 s = some (p, s1) → firstReserved (cmdOf p).words [0x3FFFFFFF] = none →
    fldN (par p 0) 0 8 &&& fldN (par p 0) 8 8 = 0 →
    (bitAt (par p 0) 29 = true → (chan s1 (fldN (par p 0) 24 3)).cfg.mode = true → (par p 3).toNat < 2 →
      exec (.timerGo t) s = .next (finishCmd p (cmdBad s1 3) s1)) ∧
    (bitAt (par p 0) 29 = false → mainsHoldsTmr7 s1 = true → bitAt (par p 0) 7 = true →
      exec (.timerGo t) s = .next (finishCmd p (cmdRefuse s1 .busy) s1))) ∧
  (∀ us start clear stop x y, y = goChan us stop clear start x → y.running = (start || (x.running && !stop)) ∧
    y.count = (if clear then 0 else x.count) ∧ y.out = (if stop then x.cfg.idle else x.out) ∧ y.captures = x.captures ∧
    (start = true → x.running = false → y.usMark = us)) ∧
  (∀ t s p s1, taken t 0x0705 s = some (p, s1) → firstReserved (cmdOf p).words [0xFFFF] = none →
    (mainsHoldsTmr7 s1 = true → bitAt (par p 0) 15 = false ∨ bitAt (par p 0) 7 = false) →
    ∃ u, exec (.timerRead t) s = .next (finishCmd p (cmdOk u ([lo32 (ringStamp s1), hi32 (ringStamp s1)] ++
        ((List.range 8).filter fun i => bitAt (par p 0) i).flatMap (chanWords s1))) s1) ∧
      (∀ c : Nat, bitAt (par p 0) c = false → u.timers.chans[c]? = s1.timers.chans[c]?) ∧
      (50 ≤ pathWords (cmdOf p).via → ∀ c < 8, bitAt (par p 0) c = true → u.timers.chans[c]? = s1.timers.chans[c]?.map fun x =>
        { x with
          periodOverrun := false
          capOvf := false
          captures := if bitAt (par p 0) (8 + c) then [] else x.captures }) ∧ { u with timers := s1.timers } = s1) ∧
  (∀ t s p s1, taken t 0x0705 s = some (p, s1) → firstReserved (cmdOf p).words [0xFFFF] = none → mainsHoldsTmr7 s1 = true →
    bitAt (par p 0) 15 = true → bitAt (par p 0) 7 = true →
    exec (.timerRead t) s = .next (finishCmd p (cmdRefuse s1 .busy) s1)) ∧
  (∀ t ch s, (chan s ch.val).running = false →
    exec (.timerSync t ch) s = .next (setNow t s) ∧ exec (.timerCapture t ch) s = .next (setNow t s)) ∧
  (∀ t ch s x, x = (edgeBase (setNow t s) ch.val).1 →
    ((chanAs s ch.val x).running = false ∨ s.power.phase = .stow ∨ sourceLives (setNow t s) (chanAs s ch.val x) = false →
      exec (.timerTick t ch) s = .next (setNow t s)) ∧
    ((chanAs s ch.val x).running = true → s.power.phase ≠ .stow → sourceLives (setNow t s) (chanAs s ch.val x) = true →
      exec (.timerTick t ch) s = .next (sourceEvent ch.val x (setNow t s)))) ∧
  (∀ c s, c < s.timers.chans.length → s.timers.edges.length = s.timers.chans.length →
    (∀ a, (actOn c a s).timers.chans.getD c {} = actChan (chan s c).cfg a (s.timers.chans.getD c {}) ∧
      edgeBase (actOn c a s) c = ((edgeBase s c).1, (edgeBase s c).2 ++ [a])) ∧
    (∀ x, (sourceEvent c x s).timers.chans.getD c {} = (edgeBase s c).2.foldl (fun y a => actChan (chan s c).cfg a y)
      (sourceChan (chan s c).cfg (if chanHeld s c then 65536 else x.prescale.toNat) { x with usMark := ringUs s }).1)) ∧
  (∀ c d a x s, c ≠ d → (actOn c a s).timers.chans[d]? = s.timers.chans[d]? ∧
    (sourceEvent c x s).timers.chans[d]? = s.timers.chans[d]?) ∧
  (∀ g pre x, (x.phaseAcc + 65536 < pre → sourceChan g pre x = ({ x with phaseAcc := x.phaseAcc + 65536 }, false)) ∧
    (pre ≤ x.phaseAcc + 65536 → sourceChan g pre x = tickChan g { x with phaseAcc := x.phaseAcc + 65536 - pre })) ∧
  (∀ s (x : TimerChan), (x.cfg.src = 1 → sourceLives s x = s.clock.ref0Ok) ∧
    (x.cfg.src = 3 ∨ x.cfg.src = 4 → sourceLives s x = !(captureStopped s)) ∧
    (x.cfg.src = 6 → (sourceLives s x = true ↔ x.usMark < ringNs s / 1000)) ∧
    (x.cfg.src = 0 ∨ x.cfg.src = 2 → sourceLives s x = true) ∧ (x.cfg.src = 5 → sourceLives s x = false)) ∧
  (∀ g x, g.mode = true → x.count.toNat + 1 < x.period.toNat → (tickChan g x).1.count = x.count + 1 ∧ (tickChan g x).2 = false) ∧
  (∀ g x, g.mode = true → x.count.toNat + 1 = x.period.toNat → (tickChan g x).1.count = 0 ∧ (tickChan g x).2 = false) ∧
  (∀ g x, g.mode = true → x.period.toNat ≤ x.count.toNat → (tickChan g x).1.count = 0 ∧ (tickChan g x).2 = true ∧
    (tickChan g x).1.periodOverrun = true ∧ (tickChan g x).1.overruns = satInc x.overruns) ∧
  (∀ g x, g.mode = false → (tickChan g x).1.count = x.count + 1 ∧ (tickChan g x).2 = false) ∧
  (∀ t ch s, (chan s ch.val).running = true → (chan s ch.val).cfg.sync = 1 ∨ (chan s ch.val).cfg.sync = 2 →
    captureStopped s = false → exec (.timerSync t ch) s = .next (actOn ch.val .sync (setNow t s))) ∧
  (∀ t ch s, (chan s ch.val).running = true → (chan s ch.val).cfg.capSrc = 2 ∨ (chan s ch.val).cfg.capSrc = 3 →
    captureStopped s = false → exec (.timerCapture t ch) s = .next (actOn ch.val .capture (setNow t s))) ∧
  (∀ g (x : TimerChan), actChan g .sync x = copyPreloads g.wmode { x with count := 0 } ∧
    (g.sync ≠ 3 → x.captures.length < 4 → actChan g .capture x = { x with captures := x.captures ++ [x.count] }) ∧
    (g.sync ≠ 3 → 4 ≤ x.captures.length → actChan g .capture x = { x with capOvf := true, capLost := satInc x.capLost }) ∧
    (g.sync = 3 → x.captures.length < 4 →
      actChan g .capture x = copyPreloads g.wmode { x with captures := x.captures ++ [x.count], count := 0 })) ∧
  (∀ t (pin : Fin 8) level s, pinsChained s = true ∨ s.power.phase = .stow ∨
    edgeQualified s pin.val (setNow t s).now.tclk level = false → exec (.trgEdge t pin level) s = .next (setNow t s)) ∧
  (∀ s p e (x : PinLevel), x.samples < (s.timers.filt.getD p 10).toNat ∨ s.timers.level.getD p false = x.level →
    edgeQualified s p e x = false) ∧
  (∀ t (pin : Fin 8) level s, pinsChained s = false → s.power.phase ≠ .stow →
    edgeQualified s pin.val (setNow t s).now.tclk level = true → ∃ u, exec (.trgEdge t pin level) s = .next u ∧
    u.timers.level = s.timers.level.set pin.val level.level ∧
    u.timers.levelAt = s.timers.levelAt.set pin.val (setNow t s).now.tclk ∧ u.timers.filt = s.timers.filt ∧
    (∀ c < 8, capturesEdge (chan s c) pin.val (!level.level) = false → countsEdge (chan s c) pin.val (!level.level) = false →
      u.timers.chans[c]? = s.timers.chans[c]?) ∧
    (∀ c < 8, s.timers.chans.length = 8 → capturesEdge (chan s c) pin.val (!level.level) = false →
      countsEdge (chan s c) pin.val (!level.level) = true → u.timers.chans.getD c {} = (sourceEvent c
        (edgeBase (setNow t s) c).1 (setNow t s)).timers.chans.getD c {}) ∧
    (∀ c < 8, s.timers.chans.length = 8 → capturesEdge (chan s c) pin.val (!level.level) = true →
      countsEdge (chan s c) pin.val (!level.level) = false → u.timers.chans.getD c {} =
        captureChan (chan s c).cfg (s.timers.chans.getD c {})) ∧
    u.dram = s.dram ∧ u.mcv = s.mcv ∧ u.nvm = s.nvm ∧ u.bureau = s.bureau)

/-- R459–R473: MCV_CONFIG, MCV_READ and MCV_CALIBRATE act on the converters; a slot begins on the grid; a
conversion's result
is calibrated with the coefficients of its entry (R466), or discarded after an over-range one, and enters its
accumulator;
the reference settles after 10 ms. The model's choices in it: log entries 97, 138 and 217. -/
def Obligations.MonitorConverterCommandsAndResults : Prop :=
  (∀ t s p s1 es b, taken t 0x0706 s = some (p, s1) →
    firstReserved (cmdOf p).words ([0xDFFD, 0xFFFFFF] ++ List.replicate 16 0xFFFFC0FF) = none → b = bitAt (par p 0) 0 →
    es = (List.range 16).map (fun i => mcvEntryOf (par p (2 + i))) → es.findIdx? (mcvEntryBad b) = none →
    1 ≤ fldN (par p 0) 8 5 → fldN (par p 0) 8 5 ≤ 16 → 1 ≤ fldN (par p 0) 4 4 → fldN (par p 0) 4 4 ≤ 8 →
    fldN (par p 0) 2 2 ≠ 3 → (fldN (par p 0) 2 2 = 2 → s1.exposure.cfg.exposure.flkSrc = 2) →
    (bitAt (par p 0) 14 = true → bitAt (par p 0) 15 = true) → s1.mcv.a.run = false → s1.mcv.b.run = false →
    calibrating s1.mcv b = false →
    ∃ m, exec (.mcvConfig t) s = .next (finishCmd p (cmdOk { s1 with mcv := m }) s1) ∧
      (conv m b).entries = es ∧ (conv m b).tableLen = fld (par p 0) 8 5 ∧ (conv m b).run = bitAt (par p 0) 14 ∧
      m.intSrc = fld (par p 0) 2 2 ∧ m.intMult = fld (par p 0) 4 4 ∧ m.plausThr = fld (par p 1) 0 24 ∧ m.refEn = bitAt (par p 0) 15 ∧
      m.accs = s1.mcv.accs ∧ m.offsets = s1.mcv.offsets ∧ m.gains = s1.mcv.gains ∧
      conv m (!b) = conv s1.mcv (!b)) ∧
  (∀ t s p s1, taken t 0x0706 s = some (p, s1) →
    firstReserved (cmdOf p).words ([0xDFFD, 0xFFFFFF] ++ List.replicate 16 0xFFFFC0FF) = none → bitAt (par p 0) 14 = true →
    bitAt (par p 0) 15 = false → exec (.mcvConfig t) s = .next (finishCmd p (cmdBad s1 0) s1)) ∧
  (∀ t s p s1 es b, taken t 0x0706 s = some (p, s1) →
    firstReserved (cmdOf p).words ([0xDFFD, 0xFFFFFF] ++ List.replicate 16 0xFFFFC0FF) = none → b = bitAt (par p 0) 0 →
    es = (List.range 16).map (fun i => mcvEntryOf (par p (2 + i))) →
    1 ≤ fldN (par p 0) 8 5 → fldN (par p 0) 8 5 ≤ 16 → 1 ≤ fldN (par p 0) 4 4 → fldN (par p 0) 4 4 ≤ 8 →
    fldN (par p 0) 2 2 ≤ 1 → bitAt (par p 0) 15 = true →
    (∀ i, es.findIdx? (mcvEntryBad b) = some i → exec (.mcvConfig t) s = .next (finishCmd p (cmdBad s1 (2 + i)) s1)) ∧
    (es.findIdx? (mcvEntryBad b) = none → es ≠ (conv s1.mcv b).entries → (conv s1.mcv b).run = true →
      exec (.mcvConfig t) s = .next (finishCmd p (cmdRefuse s1 .wrongState) s1)) ∧
    (es.findIdx? (mcvEntryBad b) = none → s1.mcv.a.run = false → s1.mcv.b.run = false → calibrating s1.mcv b = true →
      exec (.mcvConfig t) s = .next (finishCmd p (cmdRefuse s1 .busy) s1))) ∧
  (∀ t s p s1, taken t 0x0707 s = some (p, s1) → firstReserved (cmdOf p).words [0xFFFF0003] = none → ∃ m ws,
    exec (.mcvRead t) s = .next (finishCmd p (cmdOk { s1 with mcv := m } ws) s1) ∧
    ws.drop 2 = ((List.range 16).filter fun k => bitAt (par p 0) (16 + k)).flatMap
      (fun k => accWords (bitAt (par p 0) 1) (s1.mcv.accs.getD k {})) ∧
    bitAt (ws.getD 1 0) 0 = s1.mcv.a.ovr ∧ bitAt (ws.getD 1 0) 1 = s1.mcv.b.ovr ∧ bitAt (ws.getD 1 0) 3 = s1.mcv.refSettled ∧
    m.a = { s1.mcv.a with ovr := false } ∧ m.b = { s1.mcv.b with ovr := false } ∧
    bitAt (ws.getD 1 0) 2 = s1.mcv.mainsHeld ∧
    (∀ k < 16, bitAt (ws.getD 0 0) k = (s1.mcv.accs.getD k {}).unsettled ∧
      bitAt (ws.getD 0 0) (16 + k) = (s1.mcv.accs.getD k {}).ovr ∧
      bitAt (ws.getD 1 0) (16 + k) = (s1.mcv.accs.getD k {}).full) ∧
    (bitAt (par p 0) 0 = false → m.accs = s1.mcv.accs) ∧
    (bitAt (par p 0) 0 = true → 98 ≤ pathWords (cmdOf p).via → s1.mcv.accs.length = 16 → ∀ k < 16,
      m.accs.getD k {} = if bitAt (par p 0) (16 + k) then {} else s1.mcv.accs.getD k {}) ∧
    { m with accs := s1.mcv.accs, a := s1.mcv.a, b := s1.mcv.b, afterB := s1.mcv.afterB } = s1.mcv) ∧
  (∀ t s p s1 ch, taken t 0x0708 s = some (p, s1) → firstReserved (cmdOf p).words [0xB1F03] = none → ch = fldN (par p 0) 8 5 →
    ch ≤ 11 → fldN (par p 0) 0 2 ≠ 0 → fldN (par p 0) 16 2 = 0 → s1.mcv.a.run = false → s1.mcv.b.run = false →
    s1.mcv.refEn = true → s1.mcv.refSettled = true → s1.mcv.cal = none → s1.mcv.calStore = none → s1.nvm.txn = none →
    exec (.mcvCalibrate t) s = .next (finishCmd p (cmdPending (startWork (cmdOf p).req .mcvCal { s1 with mcv := { s1.mcv with
      cal := some { mask := fld (par p 0) 0 2, channel := ch, full := false, store := false, vfs := par p 1 }
      nextAt := s1.now.tclk } })) s1)) ∧
  (∀ t s p s1 ch mask, taken t 0x0708 s = some (p, s1) → firstReserved (cmdOf p).words [0xB1F03] = none →
    ch = fldN (par p 0) 8 5 → mask = fld (par p 0) 0 2 →
    (11 < ch ∨ mask = 0 ∨ 2 ≤ fldN (par p 0) 16 2 → exec (.mcvCalibrate t) s = .next (finishCmd p (cmdBad s1 0) s1)) ∧
    (ch ≤ 11 → mask ≠ 0 → fldN (par p 0) 16 2 = 1 →
      ((par p 1).toNat < 250000 ∨ 2500000 < (par p 1).toNat →
        exec (.mcvCalibrate t) s = .next (finishCmd p (cmdBad s1 1) s1)) ∧
      (250000 ≤ (par p 1).toNat → (par p 1).toNat ≤ 2500000 → lacksX0 s1.mcv mask ch = true →
        exec (.mcvCalibrate t) s = .next (finishCmd p (cmdRefuse s1 .wrongState) s1)) ∧
      (250000 ≤ (par p 1).toNat → (par p 1).toNat ≤ 2500000 → lacksX0 s1.mcv mask ch = false → gridRuns s1.mcv = false →
        s1.mcv.refEn = true → s1.mcv.refSettled = true → s1.mcv.calStore = none → s1.nvm.txn = none →
        exec (.mcvCalibrate t) s = .next (finishCmd p (cmdPending (startWork (cmdOf p).req .mcvCal { s1 with mcv :=
          { s1.mcv with
            cal := some { mask := mask, channel := ch, full := true, store := bitAt (par p 0) 19, vfs := par p 1 }
            nextAt := s1.now.tclk } })) s1))) ∧
    (ch ≤ 11 → mask ≠ 0 → fldN (par p 0) 16 2 = 0 → s1.mcv.a.run = false → s1.mcv.b.run = false → s1.mcv.refEn = true →
      (s1.mcv.refSettled = false ∨ s1.mcv.cal ≠ none ∨ s1.mcv.calStore ≠ none ∨ s1.nvm.txn ≠ none) →
      exec (.mcvCalibrate t) s = .next (finishCmd p (cmdRefuse s1 .busy) s1))) ∧
  (∀ t s p s1, taken t 0x0708 s = some (p, s1) → firstReserved (cmdOf p).words [0xB1F03] = none →
    fldN (par p 0) 8 5 ≤ 11 → fldN (par p 0) 0 2 ≠ 0 → fldN (par p 0) 16 2 = 0 → s1.mcv.refEn = false →
    exec (.mcvCalibrate t) s = .next (finishCmd p (cmdRefuse s1 .wrongState) s1)) ∧
  (∀ t s, mcvLives s = true → gridRuns s.mcv = true → s.mcv.nextAt ≤ (setNow t s).now.tclk → s.mcv.intSrc ≠ 2 → ∃ m,
    exec (.mcvSlotStart t) s = .next { setNow t s with mcv := m } ∧ m.slotNo = s.mcv.slotNo + 1 ∧ m.slotAt = s.mcv.nextAt ∧
    m.tInt = s.mcv.intMult.toNat * (if s.mcv.intSrc = 0 then 2000000 else if s.mcv.intSrc = 1 then 1666667 else s.mcv.tMean) ∧
    m.nextAt = s.mcv.nextAt + m.tInt ∧ m.accs = s.mcv.accs ∧ m.offsets = s.mcv.offsets ∧ m.gains = s.mcv.gains) ∧
  (∀ t s, gridRuns s.mcv = false → exec (.mcvSlotStart t) s = .next (setNow t s)) ∧
  (∀ t b raw o s, dueConversion (setNow t s) b = none → exec (.mcvConversionComplete t b raw o) s = .next (setNow t s)) ∧
  (∀ t b raw s c, mcvLives s = true → dueConversion (setNow t s) b = some c → c.cal = false → c.shared = false →
    (conv s.mcv b).recovery = false → (rawRange c.channel).1 ≤ raw → raw ≤ (rawRange c.channel).2 →
    exec (.mcvConversionComplete t b raw false) s = .next (updMcv (enterResult b c (calibrated c raw) false)
      (clearDue b (setNow t s)))) ∧
  (∀ t b raw s c g, mcvLives s = true → dueConversion (setNow t s) b = some c → c.cal = false →
    (conv s.mcv b).recovery = false → g = rawRange c.channel → raw < g.1 ∨ g.2 < raw →
    exec (.mcvConversionComplete t b raw true) s = .next (noteOver b c (updMcv
      (enterResult b c (calibrated c (if raw < g.1 then g.1 else g.2)) true) (clearDue b (setNow t s))))) ∧
  (∀ g raw o, g.1 ≤ g.2 → ((clipRaw g raw o).2 = true → (clipRaw g raw o).1 = g.1 ∨ (clipRaw g raw o).1 = g.2) ∧
    ((clipRaw g raw o).2 = false → (clipRaw g raw o).1 = raw ∧ g.1 ≤ raw ∧ raw ≤ g.2)) ∧
  (∀ b (c : McvConversion) y ov (m : McvState), (m.afterB.all fun r => r.slot != c.slot || r.dest != c.dest) = true →
    (enterResult b c y ov m).accs = m.accs.set c.dest (addResult y ov c.unsettled (m.accs.getD c.dest {}))) ∧
  (∀ (c d : McvConversion) y z ov pv (m : McvState), c.dest < m.accs.length → d.dest = c.dest → d.slot = c.slot → m.afterB = none →
    (enterResult false c y ov (enterResult true d z pv m)).accs.getD c.dest {} =
      addResult z pv d.unsettled (addResult y ov c.unsettled (m.accs.getD c.dest {})) ∧
    (enterResult true d z pv (enterResult false c y ov m)).accs.getD c.dest {} =
      addResult z pv d.unsettled (addResult y ov c.unsettled (m.accs.getD c.dest {}))) ∧
  (∀ t b raw s c, mcvLives s = true → dueConversion (setNow t s) b = some c → c.cal = false → (conv s.mcv b).recovery = true →
    exec (.mcvConversionComplete t b raw false) s = .next (updMcv (fun m => updConv b (fun x => { x with recovery := false })
      { m with discarded := satInc m.discarded }) (clearDue b (setNow t s)))) ∧
  (∀ b c (s : State), (noteOver b c s).mcv.ovrConv = satInc s.mcv.ovrConv ∧ (conv (noteOver b c s).mcv b).ovr = true ∧
    (conv (noteOver b c s).mcv b).recovery = true ∧
    ((conv s.mcv b).ovr = true → (noteOver b c s).events = s.events)) ∧
  (∀ y ov un (a : McvAcc), a.count ≠ 0xFFFFFFFF → -0x80000000 ≤ y → y < 0x80000000 →
    (addResult y ov un a).count = a.count + 1 ∧ (addResult y ov un a).sum = a.sum + BitVec.ofInt 64 y ∧
    (addResult y ov un a).least.toInt = min y a.least.toInt ∧ (addResult y ov un a).greatest.toInt = max y a.greatest.toInt ∧
    (addResult y ov un a).ovr = (a.ovr || ov) ∧ (addResult y ov un a).unsettled = (a.unsettled || un) ∧
    (addResult y ov un a).full = a.full) ∧
  (∀ y ov un (a : McvAcc), a.count = 0xFFFFFFFF → addResult y ov un a = { a with full := true }) ∧
  (∀ t s, mcvLives s = true → s.mcv.refEn = true → s.mcv.refAt + 160000000 ≤ (setNow t s).now.real →
    exec (.refSettled t) s = .next { setNow t s with mcv := { s.mcv with refSettled := true } }) ∧
  (∀ t s, s.mcv.refEn = false → exec (.refSettled t) s = .next (setNow t s)) ∧
  (∀ (m : McvState) b channel dest entry shared cal,
    (newConversion m b channel dest entry shared cal).offset = smGet 0 m.offsets (24 * b2n b + channel) ∧
    (newConversion m b channel dest entry shared cal).gain = smGet 0x40000000 m.gains (24 * b2n b + channel)) ∧
  (∀ (c : McvConversion) (x : Int),
    calibrated c x = ((x - c.offset.toInt) * (c.gain.toNat : Int) + 2 ^ 29) / 2 ^ 30) ∧
  (∀ (m : McvState) b channel dest entry shared cal (x : Int), m.offsets = [] → m.gains = [] →
    calibrated (newConversion m b channel dest entry shared cal) x = x)

/-- R495: the test access port steps its controller at rising TCK edges, shifts from TDI and drives TDO at falling edges; five
rising edges with TMS high, or TRST_N, take it to Test-Logic-Reset with IDCODE selected. The model's choices in it: log
entries 98, 192 and 216. -/
def Obligations.TestAccessPortFollowsItsController : Prop :=
  (∀ t rising tms tdi s x, s.rst.phase ≠ .dead → x = { setNow t s with tap := { s.tap with trstLow := false } } →
    exec (.tckEdge t ⟨rising, true⟩ tms tdi) s = .next (if rising then tapRise tms tdi x else tapFall x)) ∧
  (∀ t rising tms tdi s, s.rst.phase ≠ .dead → exec (.tckEdge t ⟨rising, false⟩ tms tdi) s = exec (.trstNLow t) s) ∧
  (∀ t e tms tdi s, s.rst.phase = .dead → exec (.tckEdge t e tms tdi) s = .next (setNow t s)) ∧
  (∀ t s, pinsChained s = false → exec (.trstNLow t) s = .next { setNow t s with
    tap := { s.tap with trstLow := true, phase := .testLogicReset, ir := .idcode, tdo := none } }) ∧
  (∀ t s, s.pins.resetNLow = s.rst.resetNLow → s.pins.pgood = s.rst.pgood → exec (.trstNLow t) s = .next { setNow t s with
    tap := { s.tap with trstLow := true, phase := .testLogicReset, ir := .idcode, tdo := none } }) ∧
  (∀ t s x, pinsChained s = true → s.pins.resetNLow = true → s.rst.resetNLow = false → s.pins.pgood = s.rst.pgood →
    x = { setNow t s with
      tap := { s.tap with trstLow := true, phase := .testLogicReset, ir := .idcode, tdo := none }
      rst := { s.rst with resetNLow := true } } →
    exec (.trstNLow t) s = .next (requestReset .resetN false x)) ∧
  (∀ s one, pinsChained s = true → clkPins s one = (faultPin s, alertPin s) ∧ alertPin s = faultPin s ∧
    (∀ p, trgPin s p = faultPin s) ∧ (s.tap.ir = .highz → faultPin s = .highZ) ∧ (s.tap.ir ≠ .highz → faultPin s = .chain)) ∧
  (∀ s, pinsChained s = false → faultPin s = (if s.power.faultN then .low else .highZ) ∧
    alertPin s = (if alertAsserted s then .low else .highZ)) ∧
  (∀ keep s, (loseState .powerOn keep s).tap = {}) ∧
  (∀ tms tdi s, (tapRise tms tdi s).tap.phase = tapNext s.tap.phase tms) ∧
  (∀ p, tapNext (tapNext (tapNext (tapNext (tapNext p true) true) true) true) true = .testLogicReset) ∧
  (∀ tms tdi s, tapNext s.tap.phase tms = .testLogicReset →
    (tapRise tms tdi s).tap.ir = .idcode ∧ (tapRise tms tdi s).tap.phase = .testLogicReset) ∧
  (∀ tms tdi s, s.tap.phase = .captureDr → s.tap.ir = .idcode → (tapRise tms tdi s).tap.dr = wordBits 32 (idcode s)) ∧
  (∀ tms tdi s, s.tap.phase = .captureDr → s.tap.ir = .bypass → (tapRise tms tdi s).tap.dr = [false]) ∧
  (∀ tms tdi s, s.tap.phase = .captureDr → chainSelected s.tap.ir = true → (tapRise tms tdi s).tap.dr.length = 47) ∧
  (∀ tms tdi s, s.tap.phase = .shiftDr → (tapRise tms tdi s).tap.dr = s.tap.dr.drop 1 ++ [tdi] ∧
    (tapRise tms tdi s).tap.ir = s.tap.ir) ∧
  (∀ s, s.tap.phase = .shiftDr → (tapFall s).tap.tdo = s.tap.dr.head?) ∧
  (∀ s, s.tap.phase ≠ .shiftDr → s.tap.phase ≠ .shiftIr → (tapFall s).tap.tdo = none) ∧
  (∀ s, s.tap.phase = .updateDr → chainSelected s.tap.ir = true → (tapFall s).tap.latches = s.tap.dr) ∧
  (∀ s, s.tap.phase = .updateIr → s.tap.irShift = 15 → (tapFall s).tap.ir = .bypass) ∧
  (∀ s, s.tap.phase ≠ .updateIr → (tapFall s).tap.ir = s.tap.ir) ∧
  (∀ s, (tapFall s).tap.phase = s.tap.phase) ∧
  (∀ tms tdi s u, u = tapRise tms tdi s ∨ u = tapFall s →
    pinsChained s = false ∨ (s.pins.resetNLow = s.rst.resetNLow ∧ s.pins.pgood = s.rst.pgood) →
    { u with tap := s.tap, free := s.free } = s)

/-- What a power-on reset leaves, as the rules give it: the queue of commands and memory empty, every bobbin stopped, the event
log empty, both trunk ports disabled, the clocks on limp, every timer channel stopped with its pin an input, both monitor
converters stopped, and the test access port in Test-Logic-Reset with IDCODE selected. The model's choices in it: log
entries 3 and 183. -/
def Obligations.ResetLeavesTheDocumentedState : Prop :=
  State.reset.pending = [] ∧ State.reset.dram = [] ∧ State.reset.dramBad = [] ∧
  (State.reset.engines.bobbins.all fun b => !b.running) = true ∧ State.reset.engines.bobbins.length = 128 ∧
  State.reset.events.log = [] ∧ State.reset.west.phase = .disabled ∧ State.reset.east.phase = .disabled ∧
  State.reset.clock.limp = true ∧ State.reset.clock.root.phase = .off ∧ State.reset.clock.delta = 0 ∧
  (State.reset.timers.chans.all fun x => !x.running && !x.cfg.outEn && x.prescale == 0x10000 && x.count == 0) = true ∧
  State.reset.timers.chans.length = 8 ∧ State.reset.mcv.a.run = false ∧ State.reset.mcv.b.run = false ∧
  (State.reset.mcv.accs.all fun a => a.count == 0 && a.sum == 0) = true ∧ State.reset.mcv.accs.length = 16 ∧
  captureStopped State.reset = true ∧ (State.reset.streams.all fun x => !x.enabled) = true ∧ State.reset.streams.length = 9 ∧
  State.reset.bureau.executing = none ∧ State.reset.bureau.queue = [] ∧ State.reset.nvm.txn = none ∧
  State.reset.tap.phase = .testLogicReset ∧ State.reset.tap.ir = .idcode ∧ State.reset.tap.trstLow = true ∧
  Mem.wf State.reset.nvm.cells ∧ State.reset.nvm.txn = none ∧
  (∀ id, id = 1 ∨ id = 3 ∨ id = 4 ∨ id = 5 → calWordAt State.reset.nvm.cells id 0 = mkWord [(1, 16), (id, 0)]) ∧
  (∀ id, id = 2 ∨ id = 6 ∨ id = 7 → neverWritten (calWordAt State.reset.nvm.cells id 0) = true) ∧
  (∀ k < 48, k % 24 < 12 ∨ k % 24 = 15 → calWordAt State.reset.nvm.cells 5 (8 + 2 * k) = 0 ∧
    calWordAt State.reset.nvm.cells 5 (9 + 2 * k) = 0x40000000) ∧
  (∀ k < 48, 12 ≤ k % 24 → k % 24 ≠ 15 → calWordAt State.reset.nvm.cells 5 (8 + 2 * k) = Config.factoryOffset k ∧
    calWordAt State.reset.nvm.cells 5 (9 + 2 * k) = factoryGain k)
end

