-- ==== Sys2Proof/Laws/State.lean ====
section
/-! SUPPORT. What each update of the state leaves as it was, field by field, and the value of the field it writes. -/
set_option Elab.async false
namespace Sys2Proof.Machine

/-! ### setNow -/

@[simp] theorem setNow_pending (t : Instant) (s : State) : (setNow t s).pending = s.pending := rfl
@[simp] theorem setNow_free (t : Instant) (s : State) : (setNow t s).free = s.free := rfl
@[simp] theorem setNow_exposure (t : Instant) (s : State) : (setNow t s).exposure = s.exposure := rfl
@[simp] theorem setNow_expCnt (t : Instant) (s : State) : (setNow t s).expCnt = s.expCnt := rfl
@[simp] theorem setNow_readout (t : Instant) (s : State) : (setNow t s).readout = s.readout := rfl
@[simp] theorem setNow_accum (t : Instant) (s : State) : (setNow t s).accum = s.accum := rfl
@[simp] theorem setNow_accCnt (t : Instant) (s : State) : (setNow t s).accCnt = s.accCnt := rfl
@[simp] theorem setNow_history (t : Instant) (s : State) : (setNow t s).history = s.history := rfl
@[simp] theorem setNow_dram (t : Instant) (s : State) : (setNow t s).dram = s.dram := rfl
@[simp] theorem setNow_dramBad (t : Instant) (s : State) : (setNow t s).dramBad = s.dramBad := rfl
@[simp] theorem setNow_dramSoft (t : Instant) (s : State) : (setNow t s).dramSoft = s.dramSoft := rfl
@[simp] theorem setNow_desc (t : Instant) (s : State) : (setNow t s).desc = s.desc := rfl
@[simp] theorem setNow_front (t : Instant) (s : State) : (setNow t s).front = s.front := rfl
@[simp] theorem setNow_cal (t : Instant) (s : State) : (setNow t s).cal = s.cal := rfl
@[simp] theorem setNow_back (t : Instant) (s : State) : (setNow t s).back = s.back := rfl
@[simp] theorem setNow_streams (t : Instant) (s : State) : (setNow t s).streams = s.streams := rfl
@[simp] theorem setNow_engines (t : Instant) (s : State) : (setNow t s).engines = s.engines := rfl
@[simp] theorem setNow_bureau (t : Instant) (s : State) : (setNow t s).bureau = s.bureau := rfl
@[simp] theorem setNow_events (t : Instant) (s : State) : (setNow t s).events = s.events := rfl
@[simp] theorem setNow_ring (t : Instant) (s : State) : (setNow t s).ring = s.ring := rfl
@[simp] theorem setNow_west (t : Instant) (s : State) : (setNow t s).west = s.west := rfl
@[simp] theorem setNow_east (t : Instant) (s : State) : (setNow t s).east = s.east := rfl
@[simp] theorem setNow_clock (t : Instant) (s : State) : (setNow t s).clock = s.clock := rfl
@[simp] theorem setNow_power (t : Instant) (s : State) : (setNow t s).power = s.power := rfl
@[simp] theorem setNow_rst (t : Instant) (s : State) : (setNow t s).rst = s.rst := rfl
@[simp] theorem setNow_nvm (t : Instant) (s : State) : (setNow t s).nvm = s.nvm := rfl
@[simp] theorem setNow_twa (t : Instant) (s : State) : (setNow t s).twa = s.twa := rfl
@[simp] theorem setNow_twb (t : Instant) (s : State) : (setNow t s).twb = s.twb := rfl
@[simp] theorem setNow_timers (t : Instant) (s : State) : (setNow t s).timers = s.timers := rfl
@[simp] theorem setNow_mcv (t : Instant) (s : State) : (setNow t s).mcv = s.mcv := rfl
@[simp] theorem setNow_tap (t : Instant) (s : State) : (setNow t s).tap = s.tap := rfl
@[simp] theorem setNow_pins (t : Instant) (s : State) : (setNow t s).pins = s.pins := rfl
@[simp] theorem setNow_out (t : Instant) (s : State) : (setNow t s).out = s.out := rfl

/-! ### nowHeld -/

@[simp] theorem nowHeld_pending (p : Packet) (s : State) : (nowHeld p s).pending = s.pending := rfl
@[simp] theorem nowHeld_now (p : Packet) (s : State) : (nowHeld p s).now = s.now := rfl
@[simp] theorem nowHeld_free (p : Packet) (s : State) : (nowHeld p s).free = s.free := rfl
@[simp] theorem nowHeld_exposure (p : Packet) (s : State) : (nowHeld p s).exposure = s.exposure := rfl
@[simp] theorem nowHeld_expCnt (p : Packet) (s : State) : (nowHeld p s).expCnt = s.expCnt := rfl
@[simp] theorem nowHeld_readout (p : Packet) (s : State) : (nowHeld p s).readout = s.readout := rfl
@[simp] theorem nowHeld_accum (p : Packet) (s : State) : (nowHeld p s).accum = s.accum := rfl
@[simp] theorem nowHeld_accCnt (p : Packet) (s : State) : (nowHeld p s).accCnt = s.accCnt := rfl
@[simp] theorem nowHeld_history (p : Packet) (s : State) : (nowHeld p s).history = s.history := rfl
@[simp] theorem nowHeld_dram (p : Packet) (s : State) : (nowHeld p s).dram = s.dram := rfl
@[simp] theorem nowHeld_dramBad (p : Packet) (s : State) : (nowHeld p s).dramBad = s.dramBad := rfl
@[simp] theorem nowHeld_dramSoft (p : Packet) (s : State) : (nowHeld p s).dramSoft = s.dramSoft := rfl
@[simp] theorem nowHeld_desc (p : Packet) (s : State) : (nowHeld p s).desc = s.desc := rfl
@[simp] theorem nowHeld_front (p : Packet) (s : State) : (nowHeld p s).front = s.front := rfl
@[simp] theorem nowHeld_cal (p : Packet) (s : State) : (nowHeld p s).cal = s.cal := rfl
@[simp] theorem nowHeld_back (p : Packet) (s : State) : (nowHeld p s).back = s.back := rfl
@[simp] theorem nowHeld_streams (p : Packet) (s : State) : (nowHeld p s).streams = s.streams := rfl
@[simp] theorem nowHeld_engines (p : Packet) (s : State) : (nowHeld p s).engines = s.engines := rfl
@[simp] theorem nowHeld_events (p : Packet) (s : State) : (nowHeld p s).events = s.events := rfl
@[simp] theorem nowHeld_ring (p : Packet) (s : State) : (nowHeld p s).ring = s.ring := rfl
@[simp] theorem nowHeld_west (p : Packet) (s : State) : (nowHeld p s).west = s.west := rfl
@[simp] theorem nowHeld_east (p : Packet) (s : State) : (nowHeld p s).east = s.east := rfl
@[simp] theorem nowHeld_clock (p : Packet) (s : State) : (nowHeld p s).clock = s.clock := rfl
@[simp] theorem nowHeld_power (p : Packet) (s : State) : (nowHeld p s).power = s.power := rfl
@[simp] theorem nowHeld_rst (p : Packet) (s : State) : (nowHeld p s).rst = s.rst := rfl
@[simp] theorem nowHeld_nvm (p : Packet) (s : State) : (nowHeld p s).nvm = s.nvm := rfl
@[simp] theorem nowHeld_twa (p : Packet) (s : State) : (nowHeld p s).twa = s.twa := rfl
@[simp] theorem nowHeld_twb (p : Packet) (s : State) : (nowHeld p s).twb = s.twb := rfl
@[simp] theorem nowHeld_timers (p : Packet) (s : State) : (nowHeld p s).timers = s.timers := rfl
@[simp] theorem nowHeld_mcv (p : Packet) (s : State) : (nowHeld p s).mcv = s.mcv := rfl
@[simp] theorem nowHeld_tap (p : Packet) (s : State) : (nowHeld p s).tap = s.tap := rfl
@[simp] theorem nowHeld_pins (p : Packet) (s : State) : (nowHeld p s).pins = s.pins := rfl
@[simp] theorem nowHeld_out (p : Packet) (s : State) : (nowHeld p s).out = s.out := rfl

/-! ### putBobbin -/

@[simp] theorem putBobbin_pending (n : Nat) (x : Bobbin) (s : State) : (putBobbin n x s).pending = s.pending := rfl
@[simp] theorem putBobbin_now (n : Nat) (x : Bobbin) (s : State) : (putBobbin n x s).now = s.now := rfl
@[simp] theorem putBobbin_free (n : Nat) (x : Bobbin) (s : State) : (putBobbin n x s).free = s.free := rfl
@[simp] theorem putBobbin_exposure (n : Nat) (x : Bobbin) (s : State) : (putBobbin n x s).exposure = s.exposure := rfl
@[simp] theorem putBobbin_expCnt (n : Nat) (x : Bobbin) (s : State) : (putBobbin n x s).expCnt = s.expCnt := rfl
@[simp] theorem putBobbin_readout (n : Nat) (x : Bobbin) (s : State) : (putBobbin n x s).readout = s.readout := rfl
@[simp] theorem putBobbin_accum (n : Nat) (x : Bobbin) (s : State) : (putBobbin n x s).accum = s.accum := rfl
@[simp] theorem putBobbin_accCnt (n : Nat) (x : Bobbin) (s : State) : (putBobbin n x s).accCnt = s.accCnt := rfl
@[simp] theorem putBobbin_history (n : Nat) (x : Bobbin) (s : State) : (putBobbin n x s).history = s.history := rfl
@[simp] theorem putBobbin_dram (n : Nat) (x : Bobbin) (s : State) : (putBobbin n x s).dram = s.dram := rfl
@[simp] theorem putBobbin_dramBad (n : Nat) (x : Bobbin) (s : State) : (putBobbin n x s).dramBad = s.dramBad := rfl
@[simp] theorem putBobbin_dramSoft (n : Nat) (x : Bobbin) (s : State) : (putBobbin n x s).dramSoft = s.dramSoft := rfl
@[simp] theorem putBobbin_desc (n : Nat) (x : Bobbin) (s : State) : (putBobbin n x s).desc = s.desc := rfl
@[simp] theorem putBobbin_front (n : Nat) (x : Bobbin) (s : State) : (putBobbin n x s).front = s.front := rfl
@[simp] theorem putBobbin_cal (n : Nat) (x : Bobbin) (s : State) : (putBobbin n x s).cal = s.cal := rfl
@[simp] theorem putBobbin_back (n : Nat) (x : Bobbin) (s : State) : (putBobbin n x s).back = s.back := rfl
@[simp] theorem putBobbin_streams (n : Nat) (x : Bobbin) (s : State) : (putBobbin n x s).streams = s.streams := rfl
@[simp] theorem putBobbin_bureau (n : Nat) (x : Bobbin) (s : State) : (putBobbin n x s).bureau = s.bureau := rfl
@[simp] theorem putBobbin_events (n : Nat) (x : Bobbin) (s : State) : (putBobbin n x s).events = s.events := rfl
@[simp] theorem putBobbin_ring (n : Nat) (x : Bobbin) (s : State) : (putBobbin n x s).ring = s.ring := rfl
@[simp] theorem putBobbin_west (n : Nat) (x : Bobbin) (s : State) : (putBobbin n x s).west = s.west := rfl
@[simp] theorem putBobbin_east (n : Nat) (x : Bobbin) (s : State) : (putBobbin n x s).east = s.east := rfl
@[simp] theorem putBobbin_clock (n : Nat) (x : Bobbin) (s : State) : (putBobbin n x s).clock = s.clock := rfl
@[simp] theorem putBobbin_power (n : Nat) (x : Bobbin) (s : State) : (putBobbin n x s).power = s.power := rfl
@[simp] theorem putBobbin_rst (n : Nat) (x : Bobbin) (s : State) : (putBobbin n x s).rst = s.rst := rfl
@[simp] theorem putBobbin_nvm (n : Nat) (x : Bobbin) (s : State) : (putBobbin n x s).nvm = s.nvm := rfl
@[simp] theorem putBobbin_twa (n : Nat) (x : Bobbin) (s : State) : (putBobbin n x s).twa = s.twa := rfl
@[simp] theorem putBobbin_twb (n : Nat) (x : Bobbin) (s : State) : (putBobbin n x s).twb = s.twb := rfl
@[simp] theorem putBobbin_timers (n : Nat) (x : Bobbin) (s : State) : (putBobbin n x s).timers = s.timers := rfl
@[simp] theorem putBobbin_mcv (n : Nat) (x : Bobbin) (s : State) : (putBobbin n x s).mcv = s.mcv := rfl
@[simp] theorem putBobbin_tap (n : Nat) (x : Bobbin) (s : State) : (putBobbin n x s).tap = s.tap := rfl
@[simp] theorem putBobbin_pins (n : Nat) (x : Bobbin) (s : State) : (putBobbin n x s).pins = s.pins := rfl
@[simp] theorem putBobbin_out (n : Nat) (x : Bobbin) (s : State) : (putBobbin n x s).out = s.out := rfl

/-! ### putPillow -/

@[simp] theorem putPillow_pending (n : Nat) (f : Mem → Mem) (s : State) : (putPillow n f s).pending = s.pending := rfl
@[simp] theorem putPillow_now (n : Nat) (f : Mem → Mem) (s : State) : (putPillow n f s).now = s.now := rfl
@[simp] theorem putPillow_free (n : Nat) (f : Mem → Mem) (s : State) : (putPillow n f s).free = s.free := rfl
@[simp] theorem putPillow_exposure (n : Nat) (f : Mem → Mem) (s : State) : (putPillow n f s).exposure = s.exposure := rfl
@[simp] theorem putPillow_expCnt (n : Nat) (f : Mem → Mem) (s : State) : (putPillow n f s).expCnt = s.expCnt := rfl
@[simp] theorem putPillow_readout (n : Nat) (f : Mem → Mem) (s : State) : (putPillow n f s).readout = s.readout := rfl
@[simp] theorem putPillow_accum (n : Nat) (f : Mem → Mem) (s : State) : (putPillow n f s).accum = s.accum := rfl
@[simp] theorem putPillow_accCnt (n : Nat) (f : Mem → Mem) (s : State) : (putPillow n f s).accCnt = s.accCnt := rfl
@[simp] theorem putPillow_history (n : Nat) (f : Mem → Mem) (s : State) : (putPillow n f s).history = s.history := rfl
@[simp] theorem putPillow_dram (n : Nat) (f : Mem → Mem) (s : State) : (putPillow n f s).dram = s.dram := rfl
@[simp] theorem putPillow_dramBad (n : Nat) (f : Mem → Mem) (s : State) : (putPillow n f s).dramBad = s.dramBad := rfl
@[simp] theorem putPillow_dramSoft (n : Nat) (f : Mem → Mem) (s : State) : (putPillow n f s).dramSoft = s.dramSoft := rfl
@[simp] theorem putPillow_desc (n : Nat) (f : Mem → Mem) (s : State) : (putPillow n f s).desc = s.desc := rfl
@[simp] theorem putPillow_front (n : Nat) (f : Mem → Mem) (s : State) : (putPillow n f s).front = s.front := rfl
@[simp] theorem putPillow_cal (n : Nat) (f : Mem → Mem) (s : State) : (putPillow n f s).cal = s.cal := rfl
@[simp] theorem putPillow_back (n : Nat) (f : Mem → Mem) (s : State) : (putPillow n f s).back = s.back := rfl
@[simp] theorem putPillow_streams (n : Nat) (f : Mem → Mem) (s : State) : (putPillow n f s).streams = s.streams := rfl
@[simp] theorem putPillow_bureau (n : Nat) (f : Mem → Mem) (s : State) : (putPillow n f s).bureau = s.bureau := rfl
@[simp] theorem putPillow_events (n : Nat) (f : Mem → Mem) (s : State) : (putPillow n f s).events = s.events := rfl
@[simp] theorem putPillow_ring (n : Nat) (f : Mem → Mem) (s : State) : (putPillow n f s).ring = s.ring := rfl
@[simp] theorem putPillow_west (n : Nat) (f : Mem → Mem) (s : State) : (putPillow n f s).west = s.west := rfl
@[simp] theorem putPillow_east (n : Nat) (f : Mem → Mem) (s : State) : (putPillow n f s).east = s.east := rfl
@[simp] theorem putPillow_clock (n : Nat) (f : Mem → Mem) (s : State) : (putPillow n f s).clock = s.clock := rfl
@[simp] theorem putPillow_power (n : Nat) (f : Mem → Mem) (s : State) : (putPillow n f s).power = s.power := rfl
@[simp] theorem putPillow_rst (n : Nat) (f : Mem → Mem) (s : State) : (putPillow n f s).rst = s.rst := rfl
@[simp] theorem putPillow_nvm (n : Nat) (f : Mem → Mem) (s : State) : (putPillow n f s).nvm = s.nvm := rfl
@[simp] theorem putPillow_twa (n : Nat) (f : Mem → Mem) (s : State) : (putPillow n f s).twa = s.twa := rfl
@[simp] theorem putPillow_twb (n : Nat) (f : Mem → Mem) (s : State) : (putPillow n f s).twb = s.twb := rfl
@[simp] theorem putPillow_timers (n : Nat) (f : Mem → Mem) (s : State) : (putPillow n f s).timers = s.timers := rfl
@[simp] theorem putPillow_mcv (n : Nat) (f : Mem → Mem) (s : State) : (putPillow n f s).mcv = s.mcv := rfl
@[simp] theorem putPillow_tap (n : Nat) (f : Mem → Mem) (s : State) : (putPillow n f s).tap = s.tap := rfl
@[simp] theorem putPillow_pins (n : Nat) (f : Mem → Mem) (s : State) : (putPillow n f s).pins = s.pins := rfl
@[simp] theorem putPillow_out (n : Nat) (f : Mem → Mem) (s : State) : (putPillow n f s).out = s.out := rfl

/-! ### updBobbin -/

@[simp] theorem updBobbin_pending (n : Nat) (f : Bobbin → Bobbin) (s : State) : (updBobbin n f s).pending = s.pending := rfl
@[simp] theorem updBobbin_now (n : Nat) (f : Bobbin → Bobbin) (s : State) : (updBobbin n f s).now = s.now := rfl
@[simp] theorem updBobbin_free (n : Nat) (f : Bobbin → Bobbin) (s : State) : (updBobbin n f s).free = s.free := rfl
@[simp] theorem updBobbin_exposure (n : Nat) (f : Bobbin → Bobbin) (s : State) : (updBobbin n f s).exposure = s.exposure := rfl
@[simp] theorem updBobbin_expCnt (n : Nat) (f : Bobbin → Bobbin) (s : State) : (updBobbin n f s).expCnt = s.expCnt := rfl
@[simp] theorem updBobbin_readout (n : Nat) (f : Bobbin → Bobbin) (s : State) : (updBobbin n f s).readout = s.readout := rfl
@[simp] theorem updBobbin_accum (n : Nat) (f : Bobbin → Bobbin) (s : State) : (updBobbin n f s).accum = s.accum := rfl
@[simp] theorem updBobbin_accCnt (n : Nat) (f : Bobbin → Bobbin) (s : State) : (updBobbin n f s).accCnt = s.accCnt := rfl
@[simp] theorem updBobbin_history (n : Nat) (f : Bobbin → Bobbin) (s : State) : (updBobbin n f s).history = s.history := rfl
@[simp] theorem updBobbin_dram (n : Nat) (f : Bobbin → Bobbin) (s : State) : (updBobbin n f s).dram = s.dram := rfl
@[simp] theorem updBobbin_dramBad (n : Nat) (f : Bobbin → Bobbin) (s : State) : (updBobbin n f s).dramBad = s.dramBad := rfl
@[simp] theorem updBobbin_dramSoft (n : Nat) (f : Bobbin → Bobbin) (s : State) : (updBobbin n f s).dramSoft = s.dramSoft := rfl
@[simp] theorem updBobbin_desc (n : Nat) (f : Bobbin → Bobbin) (s : State) : (updBobbin n f s).desc = s.desc := rfl
@[simp] theorem updBobbin_front (n : Nat) (f : Bobbin → Bobbin) (s : State) : (updBobbin n f s).front = s.front := rfl
@[simp] theorem updBobbin_cal (n : Nat) (f : Bobbin → Bobbin) (s : State) : (updBobbin n f s).cal = s.cal := rfl
@[simp] theorem updBobbin_back (n : Nat) (f : Bobbin → Bobbin) (s : State) : (updBobbin n f s).back = s.back := rfl
@[simp] theorem updBobbin_streams (n : Nat) (f : Bobbin → Bobbin) (s : State) : (updBobbin n f s).streams = s.streams := rfl
@[simp] theorem updBobbin_bureau (n : Nat) (f : Bobbin → Bobbin) (s : State) : (updBobbin n f s).bureau = s.bureau := rfl
@[simp] theorem updBobbin_events (n : Nat) (f : Bobbin → Bobbin) (s : State) : (updBobbin n f s).events = s.events := rfl
@[simp] theorem updBobbin_ring (n : Nat) (f : Bobbin → Bobbin) (s : State) : (updBobbin n f s).ring = s.ring := rfl
@[simp] theorem updBobbin_west (n : Nat) (f : Bobbin → Bobbin) (s : State) : (updBobbin n f s).west = s.west := rfl
@[simp] theorem updBobbin_east (n : Nat) (f : Bobbin → Bobbin) (s : State) : (updBobbin n f s).east = s.east := rfl
@[simp] theorem updBobbin_clock (n : Nat) (f : Bobbin → Bobbin) (s : State) : (updBobbin n f s).clock = s.clock := rfl
@[simp] theorem updBobbin_power (n : Nat) (f : Bobbin → Bobbin) (s : State) : (updBobbin n f s).power = s.power := rfl
@[simp] theorem updBobbin_rst (n : Nat) (f : Bobbin → Bobbin) (s : State) : (updBobbin n f s).rst = s.rst := rfl
@[simp] theorem updBobbin_nvm (n : Nat) (f : Bobbin → Bobbin) (s : State) : (updBobbin n f s).nvm = s.nvm := rfl
@[simp] theorem updBobbin_twa (n : Nat) (f : Bobbin → Bobbin) (s : State) : (updBobbin n f s).twa = s.twa := rfl
@[simp] theorem updBobbin_twb (n : Nat) (f : Bobbin → Bobbin) (s : State) : (updBobbin n f s).twb = s.twb := rfl
@[simp] theorem updBobbin_timers (n : Nat) (f : Bobbin → Bobbin) (s : State) : (updBobbin n f s).timers = s.timers := rfl
@[simp] theorem updBobbin_mcv (n : Nat) (f : Bobbin → Bobbin) (s : State) : (updBobbin n f s).mcv = s.mcv := rfl
@[simp] theorem updBobbin_tap (n : Nat) (f : Bobbin → Bobbin) (s : State) : (updBobbin n f s).tap = s.tap := rfl
@[simp] theorem updBobbin_pins (n : Nat) (f : Bobbin → Bobbin) (s : State) : (updBobbin n f s).pins = s.pins := rfl
@[simp] theorem updBobbin_out (n : Nat) (f : Bobbin → Bobbin) (s : State) : (updBobbin n f s).out = s.out := rfl

/-! ### updKernel -/

@[simp] theorem updKernel_pending (k : Nat) (f : Kernel → Kernel) (s : State) : (updKernel k f s).pending = s.pending := by unfold updKernel; split <;> rfl
@[simp] theorem updKernel_now (k : Nat) (f : Kernel → Kernel) (s : State) : (updKernel k f s).now = s.now := by unfold updKernel; split <;> rfl
@[simp] theorem updKernel_free (k : Nat) (f : Kernel → Kernel) (s : State) : (updKernel k f s).free = s.free := by unfold updKernel; split <;> rfl
@[simp] theorem updKernel_exposure (k : Nat) (f : Kernel → Kernel) (s : State) : (updKernel k f s).exposure = s.exposure := by unfold updKernel; split <;> rfl
@[simp] theorem updKernel_expCnt (k : Nat) (f : Kernel → Kernel) (s : State) : (updKernel k f s).expCnt = s.expCnt := by unfold updKernel; split <;> rfl
@[simp] theorem updKernel_readout (k : Nat) (f : Kernel → Kernel) (s : State) : (updKernel k f s).readout = s.readout := by unfold updKernel; split <;> rfl
@[simp] theorem updKernel_accum (k : Nat) (f : Kernel → Kernel) (s : State) : (updKernel k f s).accum = s.accum := by unfold updKernel; split <;> rfl
@[simp] theorem updKernel_accCnt (k : Nat) (f : Kernel → Kernel) (s : State) : (updKernel k f s).accCnt = s.accCnt := by unfold updKernel; split <;> rfl
@[simp] theorem updKernel_history (k : Nat) (f : Kernel → Kernel) (s : State) : (updKernel k f s).history = s.history := by unfold updKernel; split <;> rfl
@[simp] theorem updKernel_dram (k : Nat) (f : Kernel → Kernel) (s : State) : (updKernel k f s).dram = s.dram := by unfold updKernel; split <;> rfl
@[simp] theorem updKernel_dramBad (k : Nat) (f : Kernel → Kernel) (s : State) : (updKernel k f s).dramBad = s.dramBad := by unfold updKernel; split <;> rfl
@[simp] theorem updKernel_dramSoft (k : Nat) (f : Kernel → Kernel) (s : State) : (updKernel k f s).dramSoft = s.dramSoft := by unfold updKernel; split <;> rfl
@[simp] theorem updKernel_desc (k : Nat) (f : Kernel → Kernel) (s : State) : (updKernel k f s).desc = s.desc := by unfold updKernel; split <;> rfl
@[simp] theorem updKernel_front (k : Nat) (f : Kernel → Kernel) (s : State) : (updKernel k f s).front = s.front := by unfold updKernel; split <;> rfl
@[simp] theorem updKernel_cal (k : Nat) (f : Kernel → Kernel) (s : State) : (updKernel k f s).cal = s.cal := by unfold updKernel; split <;> rfl
@[simp] theorem updKernel_back (k : Nat) (f : Kernel → Kernel) (s : State) : (updKernel k f s).back = s.back := by unfold updKernel; split <;> rfl
@[simp] theorem updKernel_streams (k : Nat) (f : Kernel → Kernel) (s : State) : (updKernel k f s).streams = s.streams := by unfold updKernel; split <;> rfl
@[simp] theorem updKernel_bureau (k : Nat) (f : Kernel → Kernel) (s : State) : (updKernel k f s).bureau = s.bureau := by unfold updKernel; split <;> rfl
@[simp] theorem updKernel_events (k : Nat) (f : Kernel → Kernel) (s : State) : (updKernel k f s).events = s.events := by unfold updKernel; split <;> rfl
@[simp] theorem updKernel_ring (k : Nat) (f : Kernel → Kernel) (s : State) : (updKernel k f s).ring = s.ring := by unfold updKernel; split <;> rfl
@[simp] theorem updKernel_west (k : Nat) (f : Kernel → Kernel) (s : State) : (updKernel k f s).west = s.west := by unfold updKernel; split <;> rfl
@[simp] theorem updKernel_east (k : Nat) (f : Kernel → Kernel) (s : State) : (updKernel k f s).east = s.east := by unfold updKernel; split <;> rfl
@[simp] theorem updKernel_clock (k : Nat) (f : Kernel → Kernel) (s : State) : (updKernel k f s).clock = s.clock := by unfold updKernel; split <;> rfl
@[simp] theorem updKernel_power (k : Nat) (f : Kernel → Kernel) (s : State) : (updKernel k f s).power = s.power := by unfold updKernel; split <;> rfl
@[simp] theorem updKernel_rst (k : Nat) (f : Kernel → Kernel) (s : State) : (updKernel k f s).rst = s.rst := by unfold updKernel; split <;> rfl
@[simp] theorem updKernel_nvm (k : Nat) (f : Kernel → Kernel) (s : State) : (updKernel k f s).nvm = s.nvm := by unfold updKernel; split <;> rfl
@[simp] theorem updKernel_twa (k : Nat) (f : Kernel → Kernel) (s : State) : (updKernel k f s).twa = s.twa := by unfold updKernel; split <;> rfl
@[simp] theorem updKernel_twb (k : Nat) (f : Kernel → Kernel) (s : State) : (updKernel k f s).twb = s.twb := by unfold updKernel; split <;> rfl
@[simp] theorem updKernel_timers (k : Nat) (f : Kernel → Kernel) (s : State) : (updKernel k f s).timers = s.timers := by unfold updKernel; split <;> rfl
@[simp] theorem updKernel_mcv (k : Nat) (f : Kernel → Kernel) (s : State) : (updKernel k f s).mcv = s.mcv := by unfold updKernel; split <;> rfl
@[simp] theorem updKernel_tap (k : Nat) (f : Kernel → Kernel) (s : State) : (updKernel k f s).tap = s.tap := by unfold updKernel; split <;> rfl
@[simp] theorem updKernel_pins (k : Nat) (f : Kernel → Kernel) (s : State) : (updKernel k f s).pins = s.pins := by unfold updKernel; split <;> rfl
@[simp] theorem updKernel_out (k : Nat) (f : Kernel → Kernel) (s : State) : (updKernel k f s).out = s.out := by unfold updKernel; split <;> rfl

/-! ### updPort -/

@[simp] theorem updPort_pending (p : Port) (f : TrunkPort → TrunkPort) (s : State) : (updPort s p f).pending = s.pending := by cases p <;> rfl
@[simp] theorem updPort_now (p : Port) (f : TrunkPort → TrunkPort) (s : State) : (updPort s p f).now = s.now := by cases p <;> rfl
@[simp] theorem updPort_free (p : Port) (f : TrunkPort → TrunkPort) (s : State) : (updPort s p f).free = s.free := by cases p <;> rfl
@[simp] theorem updPort_exposure (p : Port) (f : TrunkPort → TrunkPort) (s : State) : (updPort s p f).exposure = s.exposure := by cases p <;> rfl
@[simp] theorem updPort_expCnt (p : Port) (f : TrunkPort → TrunkPort) (s : State) : (updPort s p f).expCnt = s.expCnt := by cases p <;> rfl
@[simp] theorem updPort_readout (p : Port) (f : TrunkPort → TrunkPort) (s : State) : (updPort s p f).readout = s.readout := by cases p <;> rfl
@[simp] theorem updPort_accum (p : Port) (f : TrunkPort → TrunkPort) (s : State) : (updPort s p f).accum = s.accum := by cases p <;> rfl
@[simp] theorem updPort_accCnt (p : Port) (f : TrunkPort → TrunkPort) (s : State) : (updPort s p f).accCnt = s.accCnt := by cases p <;> rfl
@[simp] theorem updPort_history (p : Port) (f : TrunkPort → TrunkPort) (s : State) : (updPort s p f).history = s.history := by cases p <;> rfl
@[simp] theorem updPort_dram (p : Port) (f : TrunkPort → TrunkPort) (s : State) : (updPort s p f).dram = s.dram := by cases p <;> rfl
@[simp] theorem updPort_dramBad (p : Port) (f : TrunkPort → TrunkPort) (s : State) : (updPort s p f).dramBad = s.dramBad := by cases p <;> rfl
@[simp] theorem updPort_dramSoft (p : Port) (f : TrunkPort → TrunkPort) (s : State) : (updPort s p f).dramSoft = s.dramSoft := by cases p <;> rfl
@[simp] theorem updPort_desc (p : Port) (f : TrunkPort → TrunkPort) (s : State) : (updPort s p f).desc = s.desc := by cases p <;> rfl
@[simp] theorem updPort_front (p : Port) (f : TrunkPort → TrunkPort) (s : State) : (updPort s p f).front = s.front := by cases p <;> rfl
@[simp] theorem updPort_cal (p : Port) (f : TrunkPort → TrunkPort) (s : State) : (updPort s p f).cal = s.cal := by cases p <;> rfl
@[simp] theorem updPort_back (p : Port) (f : TrunkPort → TrunkPort) (s : State) : (updPort s p f).back = s.back := by cases p <;> rfl
@[simp] theorem updPort_streams (p : Port) (f : TrunkPort → TrunkPort) (s : State) : (updPort s p f).streams = s.streams := by cases p <;> rfl
@[simp] theorem updPort_engines (p : Port) (f : TrunkPort → TrunkPort) (s : State) : (updPort s p f).engines = s.engines := by cases p <;> rfl
@[simp] theorem updPort_bureau (p : Port) (f : TrunkPort → TrunkPort) (s : State) : (updPort s p f).bureau = s.bureau := by cases p <;> rfl
@[simp] theorem updPort_events (p : Port) (f : TrunkPort → TrunkPort) (s : State) : (updPort s p f).events = s.events := by cases p <;> rfl
@[simp] theorem updPort_ring (p : Port) (f : TrunkPort → TrunkPort) (s : State) : (updPort s p f).ring = s.ring := by cases p <;> rfl
@[simp] theorem updPort_clock (p : Port) (f : TrunkPort → TrunkPort) (s : State) : (updPort s p f).clock = s.clock := by cases p <;> rfl
@[simp] theorem updPort_power (p : Port) (f : TrunkPort → TrunkPort) (s : State) : (updPort s p f).power = s.power := by cases p <;> rfl
@[simp] theorem updPort_rst (p : Port) (f : TrunkPort → TrunkPort) (s : State) : (updPort s p f).rst = s.rst := by cases p <;> rfl
@[simp] theorem updPort_nvm (p : Port) (f : TrunkPort → TrunkPort) (s : State) : (updPort s p f).nvm = s.nvm := by cases p <;> rfl
@[simp] theorem updPort_twa (p : Port) (f : TrunkPort → TrunkPort) (s : State) : (updPort s p f).twa = s.twa := by cases p <;> rfl
@[simp] theorem updPort_twb (p : Port) (f : TrunkPort → TrunkPort) (s : State) : (updPort s p f).twb = s.twb := by cases p <;> rfl
@[simp] theorem updPort_timers (p : Port) (f : TrunkPort → TrunkPort) (s : State) : (updPort s p f).timers = s.timers := by cases p <;> rfl
@[simp] theorem updPort_mcv (p : Port) (f : TrunkPort → TrunkPort) (s : State) : (updPort s p f).mcv = s.mcv := by cases p <;> rfl
@[simp] theorem updPort_tap (p : Port) (f : TrunkPort → TrunkPort) (s : State) : (updPort s p f).tap = s.tap := by cases p <;> rfl
@[simp] theorem updPort_pins (p : Port) (f : TrunkPort → TrunkPort) (s : State) : (updPort s p f).pins = s.pins := by cases p <;> rfl
@[simp] theorem updPort_out (p : Port) (f : TrunkPort → TrunkPort) (s : State) : (updPort s p f).out = s.out := by cases p <;> rfl

/-! ### updTw -/

@[simp] theorem updTw_pending (p : TwPort) (f : TwPortState → TwPortState) (s : State) : (updTw s p f).pending = s.pending := by cases p <;> rfl
@[simp] theorem updTw_now (p : TwPort) (f : TwPortState → TwPortState) (s : State) : (updTw s p f).now = s.now := by cases p <;> rfl
@[simp] theorem updTw_free (p : TwPort) (f : TwPortState → TwPortState) (s : State) : (updTw s p f).free = s.free := by cases p <;> rfl
@[simp] theorem updTw_exposure (p : TwPort) (f : TwPortState → TwPortState) (s : State) : (updTw s p f).exposure = s.exposure := by cases p <;> rfl
@[simp] theorem updTw_expCnt (p : TwPort) (f : TwPortState → TwPortState) (s : State) : (updTw s p f).expCnt = s.expCnt := by cases p <;> rfl
@[simp] theorem updTw_readout (p : TwPort) (f : TwPortState → TwPortState) (s : State) : (updTw s p f).readout = s.readout := by cases p <;> rfl
@[simp] theorem updTw_accum (p : TwPort) (f : TwPortState → TwPortState) (s : State) : (updTw s p f).accum = s.accum := by cases p <;> rfl
@[simp] theorem updTw_accCnt (p : TwPort) (f : TwPortState → TwPortState) (s : State) : (updTw s p f).accCnt = s.accCnt := by cases p <;> rfl
@[simp] theorem updTw_history (p : TwPort) (f : TwPortState → TwPortState) (s : State) : (updTw s p f).history = s.history := by cases p <;> rfl
@[simp] theorem updTw_dram (p : TwPort) (f : TwPortState → TwPortState) (s : State) : (updTw s p f).dram = s.dram := by cases p <;> rfl
@[simp] theorem updTw_dramBad (p : TwPort) (f : TwPortState → TwPortState) (s : State) : (updTw s p f).dramBad = s.dramBad := by cases p <;> rfl
@[simp] theorem updTw_dramSoft (p : TwPort) (f : TwPortState → TwPortState) (s : State) : (updTw s p f).dramSoft = s.dramSoft := by cases p <;> rfl
@[simp] theorem updTw_desc (p : TwPort) (f : TwPortState → TwPortState) (s : State) : (updTw s p f).desc = s.desc := by cases p <;> rfl
@[simp] theorem updTw_front (p : TwPort) (f : TwPortState → TwPortState) (s : State) : (updTw s p f).front = s.front := by cases p <;> rfl
@[simp] theorem updTw_cal (p : TwPort) (f : TwPortState → TwPortState) (s : State) : (updTw s p f).cal = s.cal := by cases p <;> rfl
@[simp] theorem updTw_back (p : TwPort) (f : TwPortState → TwPortState) (s : State) : (updTw s p f).back = s.back := by cases p <;> rfl
@[simp] theorem updTw_streams (p : TwPort) (f : TwPortState → TwPortState) (s : State) : (updTw s p f).streams = s.streams := by cases p <;> rfl
@[simp] theorem updTw_engines (p : TwPort) (f : TwPortState → TwPortState) (s : State) : (updTw s p f).engines = s.engines := by cases p <;> rfl
@[simp] theorem updTw_bureau (p : TwPort) (f : TwPortState → TwPortState) (s : State) : (updTw s p f).bureau = s.bureau := by cases p <;> rfl
@[simp] theorem updTw_events (p : TwPort) (f : TwPortState → TwPortState) (s : State) : (updTw s p f).events = s.events := by cases p <;> rfl
@[simp] theorem updTw_ring (p : TwPort) (f : TwPortState → TwPortState) (s : State) : (updTw s p f).ring = s.ring := by cases p <;> rfl
@[simp] theorem updTw_west (p : TwPort) (f : TwPortState → TwPortState) (s : State) : (updTw s p f).west = s.west := by cases p <;> rfl
@[simp] theorem updTw_east (p : TwPort) (f : TwPortState → TwPortState) (s : State) : (updTw s p f).east = s.east := by cases p <;> rfl
@[simp] theorem updTw_clock (p : TwPort) (f : TwPortState → TwPortState) (s : State) : (updTw s p f).clock = s.clock := by cases p <;> rfl
@[simp] theorem updTw_power (p : TwPort) (f : TwPortState → TwPortState) (s : State) : (updTw s p f).power = s.power := by cases p <;> rfl
@[simp] theorem updTw_rst (p : TwPort) (f : TwPortState → TwPortState) (s : State) : (updTw s p f).rst = s.rst := by cases p <;> rfl
@[simp] theorem updTw_nvm (p : TwPort) (f : TwPortState → TwPortState) (s : State) : (updTw s p f).nvm = s.nvm := by cases p <;> rfl
@[simp] theorem updTw_timers (p : TwPort) (f : TwPortState → TwPortState) (s : State) : (updTw s p f).timers = s.timers := by cases p <;> rfl
@[simp] theorem updTw_mcv (p : TwPort) (f : TwPortState → TwPortState) (s : State) : (updTw s p f).mcv = s.mcv := by cases p <;> rfl
@[simp] theorem updTw_tap (p : TwPort) (f : TwPortState → TwPortState) (s : State) : (updTw s p f).tap = s.tap := by cases p <;> rfl
@[simp] theorem updTw_pins (p : TwPort) (f : TwPortState → TwPortState) (s : State) : (updTw s p f).pins = s.pins := by cases p <;> rfl
@[simp] theorem updTw_out (p : TwPort) (f : TwPortState → TwPortState) (s : State) : (updTw s p f).out = s.out := by cases p <;> rfl

/-! ### updPll -/

@[simp] theorem updPll_pending (p : Pll) (f : PllState → PllState) (s : State) : (updPll p f s).pending = s.pending := by cases p <;> rfl
@[simp] theorem updPll_now (p : Pll) (f : PllState → PllState) (s : State) : (updPll p f s).now = s.now := by cases p <;> rfl
@[simp] theorem updPll_free (p : Pll) (f : PllState → PllState) (s : State) : (updPll p f s).free = s.free := by cases p <;> rfl
@[simp] theorem updPll_exposure (p : Pll) (f : PllState → PllState) (s : State) : (updPll p f s).exposure = s.exposure := by cases p <;> rfl
@[simp] theorem updPll_expCnt (p : Pll) (f : PllState → PllState) (s : State) : (updPll p f s).expCnt = s.expCnt := by cases p <;> rfl
@[simp] theorem updPll_readout (p : Pll) (f : PllState → PllState) (s : State) : (updPll p f s).readout = s.readout := by cases p <;> rfl
@[simp] theorem updPll_accum (p : Pll) (f : PllState → PllState) (s : State) : (updPll p f s).accum = s.accum := by cases p <;> rfl
@[simp] theorem updPll_accCnt (p : Pll) (f : PllState → PllState) (s : State) : (updPll p f s).accCnt = s.accCnt := by cases p <;> rfl
@[simp] theorem updPll_history (p : Pll) (f : PllState → PllState) (s : State) : (updPll p f s).history = s.history := by cases p <;> rfl
@[simp] theorem updPll_dram (p : Pll) (f : PllState → PllState) (s : State) : (updPll p f s).dram = s.dram := by cases p <;> rfl
@[simp] theorem updPll_dramBad (p : Pll) (f : PllState → PllState) (s : State) : (updPll p f s).dramBad = s.dramBad := by cases p <;> rfl
@[simp] theorem updPll_dramSoft (p : Pll) (f : PllState → PllState) (s : State) : (updPll p f s).dramSoft = s.dramSoft := by cases p <;> rfl
@[simp] theorem updPll_desc (p : Pll) (f : PllState → PllState) (s : State) : (updPll p f s).desc = s.desc := by cases p <;> rfl
@[simp] theorem updPll_front (p : Pll) (f : PllState → PllState) (s : State) : (updPll p f s).front = s.front := by cases p <;> rfl
@[simp] theorem updPll_cal (p : Pll) (f : PllState → PllState) (s : State) : (updPll p f s).cal = s.cal := by cases p <;> rfl
@[simp] theorem updPll_back (p : Pll) (f : PllState → PllState) (s : State) : (updPll p f s).back = s.back := by cases p <;> rfl
@[simp] theorem updPll_streams (p : Pll) (f : PllState → PllState) (s : State) : (updPll p f s).streams = s.streams := by cases p <;> rfl
@[simp] theorem updPll_engines (p : Pll) (f : PllState → PllState) (s : State) : (updPll p f s).engines = s.engines := by cases p <;> rfl
@[simp] theorem updPll_bureau (p : Pll) (f : PllState → PllState) (s : State) : (updPll p f s).bureau = s.bureau := by cases p <;> rfl
@[simp] theorem updPll_events (p : Pll) (f : PllState → PllState) (s : State) : (updPll p f s).events = s.events := by cases p <;> rfl
@[simp] theorem updPll_ring (p : Pll) (f : PllState → PllState) (s : State) : (updPll p f s).ring = s.ring := by cases p <;> rfl
@[simp] theorem updPll_west (p : Pll) (f : PllState → PllState) (s : State) : (updPll p f s).west = s.west := by cases p <;> rfl
@[simp] theorem updPll_east (p : Pll) (f : PllState → PllState) (s : State) : (updPll p f s).east = s.east := by cases p <;> rfl
@[simp] theorem updPll_power (p : Pll) (f : PllState → PllState) (s : State) : (updPll p f s).power = s.power := by cases p <;> rfl
@[simp] theorem updPll_rst (p : Pll) (f : PllState → PllState) (s : State) : (updPll p f s).rst = s.rst := by cases p <;> rfl
@[simp] theorem updPll_nvm (p : Pll) (f : PllState → PllState) (s : State) : (updPll p f s).nvm = s.nvm := by cases p <;> rfl
@[simp] theorem updPll_twa (p : Pll) (f : PllState → PllState) (s : State) : (updPll p f s).twa = s.twa := by cases p <;> rfl
@[simp] theorem updPll_twb (p : Pll) (f : PllState → PllState) (s : State) : (updPll p f s).twb = s.twb := by cases p <;> rfl
@[simp] theorem updPll_timers (p : Pll) (f : PllState → PllState) (s : State) : (updPll p f s).timers = s.timers := by cases p <;> rfl
@[simp] theorem updPll_mcv (p : Pll) (f : PllState → PllState) (s : State) : (updPll p f s).mcv = s.mcv := by cases p <;> rfl
@[simp] theorem updPll_tap (p : Pll) (f : PllState → PllState) (s : State) : (updPll p f s).tap = s.tap := by cases p <;> rfl
@[simp] theorem updPll_pins (p : Pll) (f : PllState → PllState) (s : State) : (updPll p f s).pins = s.pins := by cases p <;> rfl
@[simp] theorem updPll_out (p : Pll) (f : PllState → PllState) (s : State) : (updPll p f s).out = s.out := by cases p <;> rfl

/-! ### updTime -/

@[simp] theorem updTime_pending (f : RingTime → RingTime) (s : State) : (updTime f s).pending = s.pending := rfl
@[simp] theorem updTime_now (f : RingTime → RingTime) (s : State) : (updTime f s).now = s.now := rfl
@[simp] theorem updTime_free (f : RingTime → RingTime) (s : State) : (updTime f s).free = s.free := rfl
@[simp] theorem updTime_exposure (f : RingTime → RingTime) (s : State) : (updTime f s).exposure = s.exposure := rfl
@[simp] theorem updTime_expCnt (f : RingTime → RingTime) (s : State) : (updTime f s).expCnt = s.expCnt := rfl
@[simp] theorem updTime_readout (f : RingTime → RingTime) (s : State) : (updTime f s).readout = s.readout := rfl
@[simp] theorem updTime_accum (f : RingTime → RingTime) (s : State) : (updTime f s).accum = s.accum := rfl
@[simp] theorem updTime_accCnt (f : RingTime → RingTime) (s : State) : (updTime f s).accCnt = s.accCnt := rfl
@[simp] theorem updTime_history (f : RingTime → RingTime) (s : State) : (updTime f s).history = s.history := rfl
@[simp] theorem updTime_dram (f : RingTime → RingTime) (s : State) : (updTime f s).dram = s.dram := rfl
@[simp] theorem updTime_dramBad (f : RingTime → RingTime) (s : State) : (updTime f s).dramBad = s.dramBad := rfl
@[simp] theorem updTime_dramSoft (f : RingTime → RingTime) (s : State) : (updTime f s).dramSoft = s.dramSoft := rfl
@[simp] theorem updTime_desc (f : RingTime → RingTime) (s : State) : (updTime f s).desc = s.desc := rfl
@[simp] theorem updTime_front (f : RingTime → RingTime) (s : State) : (updTime f s).front = s.front := rfl
@[simp] theorem updTime_cal (f : RingTime → RingTime) (s : State) : (updTime f s).cal = s.cal := rfl
@[simp] theorem updTime_back (f : RingTime → RingTime) (s : State) : (updTime f s).back = s.back := rfl
@[simp] theorem updTime_streams (f : RingTime → RingTime) (s : State) : (updTime f s).streams = s.streams := rfl
@[simp] theorem updTime_engines (f : RingTime → RingTime) (s : State) : (updTime f s).engines = s.engines := rfl
@[simp] theorem updTime_bureau (f : RingTime → RingTime) (s : State) : (updTime f s).bureau = s.bureau := rfl
@[simp] theorem updTime_events (f : RingTime → RingTime) (s : State) : (updTime f s).events = s.events := rfl
@[simp] theorem updTime_west (f : RingTime → RingTime) (s : State) : (updTime f s).west = s.west := rfl
@[simp] theorem updTime_east (f : RingTime → RingTime) (s : State) : (updTime f s).east = s.east := rfl
@[simp] theorem updTime_clock (f : RingTime → RingTime) (s : State) : (updTime f s).clock = s.clock := rfl
@[simp] theorem updTime_power (f : RingTime → RingTime) (s : State) : (updTime f s).power = s.power := rfl
@[simp] theorem updTime_rst (f : RingTime → RingTime) (s : State) : (updTime f s).rst = s.rst := rfl
@[simp] theorem updTime_nvm (f : RingTime → RingTime) (s : State) : (updTime f s).nvm = s.nvm := rfl
@[simp] theorem updTime_twa (f : RingTime → RingTime) (s : State) : (updTime f s).twa = s.twa := rfl
@[simp] theorem updTime_twb (f : RingTime → RingTime) (s : State) : (updTime f s).twb = s.twb := rfl
@[simp] theorem updTime_timers (f : RingTime → RingTime) (s : State) : (updTime f s).timers = s.timers := rfl
@[simp] theorem updTime_mcv (f : RingTime → RingTime) (s : State) : (updTime f s).mcv = s.mcv := rfl
@[simp] theorem updTime_tap (f : RingTime → RingTime) (s : State) : (updTime f s).tap = s.tap := rfl
@[simp] theorem updTime_pins (f : RingTime → RingTime) (s : State) : (updTime f s).pins = s.pins := rfl
@[simp] theorem updTime_out (f : RingTime → RingTime) (s : State) : (updTime f s).out = s.out := rfl

/-! ### updStream -/

@[simp] theorem updStream_pending (i : Nat) (f : StreamState → StreamState) (s : State) : (updStream s i f).pending = s.pending := rfl
@[simp] theorem updStream_now (i : Nat) (f : StreamState → StreamState) (s : State) : (updStream s i f).now = s.now := rfl
@[simp] theorem updStream_free (i : Nat) (f : StreamState → StreamState) (s : State) : (updStream s i f).free = s.free := rfl
@[simp] theorem updStream_exposure (i : Nat) (f : StreamState → StreamState) (s : State) : (updStream s i f).exposure = s.exposure := rfl
@[simp] theorem updStream_expCnt (i : Nat) (f : StreamState → StreamState) (s : State) : (updStream s i f).expCnt = s.expCnt := rfl
@[simp] theorem updStream_readout (i : Nat) (f : StreamState → StreamState) (s : State) : (updStream s i f).readout = s.readout := rfl
@[simp] theorem updStream_accum (i : Nat) (f : StreamState → StreamState) (s : State) : (updStream s i f).accum = s.accum := rfl
@[simp] theorem updStream_accCnt (i : Nat) (f : StreamState → StreamState) (s : State) : (updStream s i f).accCnt = s.accCnt := rfl
@[simp] theorem updStream_history (i : Nat) (f : StreamState → StreamState) (s : State) : (updStream s i f).history = s.history := rfl
@[simp] theorem updStream_dram (i : Nat) (f : StreamState → StreamState) (s : State) : (updStream s i f).dram = s.dram := rfl
@[simp] theorem updStream_dramBad (i : Nat) (f : StreamState → StreamState) (s : State) : (updStream s i f).dramBad = s.dramBad := rfl
@[simp] theorem updStream_dramSoft (i : Nat) (f : StreamState → StreamState) (s : State) : (updStream s i f).dramSoft = s.dramSoft := rfl
@[simp] theorem updStream_desc (i : Nat) (f : StreamState → StreamState) (s : State) : (updStream s i f).desc = s.desc := rfl
@[simp] theorem updStream_front (i : Nat) (f : StreamState → StreamState) (s : State) : (updStream s i f).front = s.front := rfl
@[simp] theorem updStream_cal (i : Nat) (f : StreamState → StreamState) (s : State) : (updStream s i f).cal = s.cal := rfl
@[simp] theorem updStream_back (i : Nat) (f : StreamState → StreamState) (s : State) : (updStream s i f).back = s.back := rfl
@[simp] theorem updStream_engines (i : Nat) (f : StreamState → StreamState) (s : State) : (updStream s i f).engines = s.engines := rfl
@[simp] theorem updStream_bureau (i : Nat) (f : StreamState → StreamState) (s : State) : (updStream s i f).bureau = s.bureau := rfl
@[simp] theorem updStream_events (i : Nat) (f : StreamState → StreamState) (s : State) : (updStream s i f).events = s.events := rfl
@[simp] theorem updStream_ring (i : Nat) (f : StreamState → StreamState) (s : State) : (updStream s i f).ring = s.ring := rfl
@[simp] theorem updStream_west (i : Nat) (f : StreamState → StreamState) (s : State) : (updStream s i f).west = s.west := rfl
@[simp] theorem updStream_east (i : Nat) (f : StreamState → StreamState) (s : State) : (updStream s i f).east = s.east := rfl
@[simp] theorem updStream_clock (i : Nat) (f : StreamState → StreamState) (s : State) : (updStream s i f).clock = s.clock := rfl
@[simp] theorem updStream_power (i : Nat) (f : StreamState → StreamState) (s : State) : (updStream s i f).power = s.power := rfl
@[simp] theorem updStream_rst (i : Nat) (f : StreamState → StreamState) (s : State) : (updStream s i f).rst = s.rst := rfl
@[simp] theorem updStream_nvm (i : Nat) (f : StreamState → StreamState) (s : State) : (updStream s i f).nvm = s.nvm := rfl
@[simp] theorem updStream_twa (i : Nat) (f : StreamState → StreamState) (s : State) : (updStream s i f).twa = s.twa := rfl
@[simp] theorem updStream_twb (i : Nat) (f : StreamState → StreamState) (s : State) : (updStream s i f).twb = s.twb := rfl
@[simp] theorem updStream_timers (i : Nat) (f : StreamState → StreamState) (s : State) : (updStream s i f).timers = s.timers := rfl
@[simp] theorem updStream_mcv (i : Nat) (f : StreamState → StreamState) (s : State) : (updStream s i f).mcv = s.mcv := rfl
@[simp] theorem updStream_tap (i : Nat) (f : StreamState → StreamState) (s : State) : (updStream s i f).tap = s.tap := rfl
@[simp] theorem updStream_pins (i : Nat) (f : StreamState → StreamState) (s : State) : (updStream s i f).pins = s.pins := rfl
@[simp] theorem updStream_out (i : Nat) (f : StreamState → StreamState) (s : State) : (updStream s i f).out = s.out := rfl

/-! ### updStreamCfg -/

@[simp] theorem updStreamCfg_pending (i : Nat) (f : StreamCfg → StreamCfg) (s : State) : (updStreamCfg s i f).pending = s.pending := rfl
@[simp] theorem updStreamCfg_now (i : Nat) (f : StreamCfg → StreamCfg) (s : State) : (updStreamCfg s i f).now = s.now := rfl
@[simp] theorem updStreamCfg_free (i : Nat) (f : StreamCfg → StreamCfg) (s : State) : (updStreamCfg s i f).free = s.free := rfl
@[simp] theorem updStreamCfg_exposure (i : Nat) (f : StreamCfg → StreamCfg) (s : State) : (updStreamCfg s i f).exposure = s.exposure := rfl
@[simp] theorem updStreamCfg_expCnt (i : Nat) (f : StreamCfg → StreamCfg) (s : State) : (updStreamCfg s i f).expCnt = s.expCnt := rfl
@[simp] theorem updStreamCfg_readout (i : Nat) (f : StreamCfg → StreamCfg) (s : State) : (updStreamCfg s i f).readout = s.readout := rfl
@[simp] theorem updStreamCfg_accum (i : Nat) (f : StreamCfg → StreamCfg) (s : State) : (updStreamCfg s i f).accum = s.accum := rfl
@[simp] theorem updStreamCfg_accCnt (i : Nat) (f : StreamCfg → StreamCfg) (s : State) : (updStreamCfg s i f).accCnt = s.accCnt := rfl
@[simp] theorem updStreamCfg_history (i : Nat) (f : StreamCfg → StreamCfg) (s : State) : (updStreamCfg s i f).history = s.history := rfl
@[simp] theorem updStreamCfg_dram (i : Nat) (f : StreamCfg → StreamCfg) (s : State) : (updStreamCfg s i f).dram = s.dram := rfl
@[simp] theorem updStreamCfg_dramBad (i : Nat) (f : StreamCfg → StreamCfg) (s : State) : (updStreamCfg s i f).dramBad = s.dramBad := rfl
@[simp] theorem updStreamCfg_dramSoft (i : Nat) (f : StreamCfg → StreamCfg) (s : State) : (updStreamCfg s i f).dramSoft = s.dramSoft := rfl
@[simp] theorem updStreamCfg_desc (i : Nat) (f : StreamCfg → StreamCfg) (s : State) : (updStreamCfg s i f).desc = s.desc := rfl
@[simp] theorem updStreamCfg_front (i : Nat) (f : StreamCfg → StreamCfg) (s : State) : (updStreamCfg s i f).front = s.front := rfl
@[simp] theorem updStreamCfg_cal (i : Nat) (f : StreamCfg → StreamCfg) (s : State) : (updStreamCfg s i f).cal = s.cal := rfl
@[simp] theorem updStreamCfg_streams (i : Nat) (f : StreamCfg → StreamCfg) (s : State) : (updStreamCfg s i f).streams = s.streams := rfl
@[simp] theorem updStreamCfg_engines (i : Nat) (f : StreamCfg → StreamCfg) (s : State) : (updStreamCfg s i f).engines = s.engines := rfl
@[simp] theorem updStreamCfg_bureau (i : Nat) (f : StreamCfg → StreamCfg) (s : State) : (updStreamCfg s i f).bureau = s.bureau := rfl
@[simp] theorem updStreamCfg_events (i : Nat) (f : StreamCfg → StreamCfg) (s : State) : (updStreamCfg s i f).events = s.events := rfl
@[simp] theorem updStreamCfg_ring (i : Nat) (f : StreamCfg → StreamCfg) (s : State) : (updStreamCfg s i f).ring = s.ring := rfl
@[simp] theorem updStreamCfg_west (i : Nat) (f : StreamCfg → StreamCfg) (s : State) : (updStreamCfg s i f).west = s.west := rfl
@[simp] theorem updStreamCfg_east (i : Nat) (f : StreamCfg → StreamCfg) (s : State) : (updStreamCfg s i f).east = s.east := rfl
@[simp] theorem updStreamCfg_clock (i : Nat) (f : StreamCfg → StreamCfg) (s : State) : (updStreamCfg s i f).clock = s.clock := rfl
@[simp] theorem updStreamCfg_power (i : Nat) (f : StreamCfg → StreamCfg) (s : State) : (updStreamCfg s i f).power = s.power := rfl
@[simp] theorem updStreamCfg_rst (i : Nat) (f : StreamCfg → StreamCfg) (s : State) : (updStreamCfg s i f).rst = s.rst := rfl
@[simp] theorem updStreamCfg_nvm (i : Nat) (f : StreamCfg → StreamCfg) (s : State) : (updStreamCfg s i f).nvm = s.nvm := rfl
@[simp] theorem updStreamCfg_twa (i : Nat) (f : StreamCfg → StreamCfg) (s : State) : (updStreamCfg s i f).twa = s.twa := rfl
@[simp] theorem updStreamCfg_twb (i : Nat) (f : StreamCfg → StreamCfg) (s : State) : (updStreamCfg s i f).twb = s.twb := rfl
@[simp] theorem updStreamCfg_timers (i : Nat) (f : StreamCfg → StreamCfg) (s : State) : (updStreamCfg s i f).timers = s.timers := rfl
@[simp] theorem updStreamCfg_mcv (i : Nat) (f : StreamCfg → StreamCfg) (s : State) : (updStreamCfg s i f).mcv = s.mcv := rfl
@[simp] theorem updStreamCfg_tap (i : Nat) (f : StreamCfg → StreamCfg) (s : State) : (updStreamCfg s i f).tap = s.tap := rfl
@[simp] theorem updStreamCfg_pins (i : Nat) (f : StreamCfg → StreamCfg) (s : State) : (updStreamCfg s i f).pins = s.pins := rfl
@[simp] theorem updStreamCfg_out (i : Nat) (f : StreamCfg → StreamCfg) (s : State) : (updStreamCfg s i f).out = s.out := rfl

/-! ### updChannel -/

@[simp] theorem updChannel_pending (i : Nat) (f : ChannelState → ChannelState) (s : State) : (updChannel s i f).pending = s.pending := rfl
@[simp] theorem updChannel_now (i : Nat) (f : ChannelState → ChannelState) (s : State) : (updChannel s i f).now = s.now := rfl
@[simp] theorem updChannel_free (i : Nat) (f : ChannelState → ChannelState) (s : State) : (updChannel s i f).free = s.free := rfl
@[simp] theorem updChannel_exposure (i : Nat) (f : ChannelState → ChannelState) (s : State) : (updChannel s i f).exposure = s.exposure := rfl
@[simp] theorem updChannel_expCnt (i : Nat) (f : ChannelState → ChannelState) (s : State) : (updChannel s i f).expCnt = s.expCnt := rfl
@[simp] theorem updChannel_readout (i : Nat) (f : ChannelState → ChannelState) (s : State) : (updChannel s i f).readout = s.readout := rfl
@[simp] theorem updChannel_accum (i : Nat) (f : ChannelState → ChannelState) (s : State) : (updChannel s i f).accum = s.accum := rfl
@[simp] theorem updChannel_accCnt (i : Nat) (f : ChannelState → ChannelState) (s : State) : (updChannel s i f).accCnt = s.accCnt := rfl
@[simp] theorem updChannel_history (i : Nat) (f : ChannelState → ChannelState) (s : State) : (updChannel s i f).history = s.history := rfl
@[simp] theorem updChannel_dram (i : Nat) (f : ChannelState → ChannelState) (s : State) : (updChannel s i f).dram = s.dram := rfl
@[simp] theorem updChannel_dramBad (i : Nat) (f : ChannelState → ChannelState) (s : State) : (updChannel s i f).dramBad = s.dramBad := rfl
@[simp] theorem updChannel_dramSoft (i : Nat) (f : ChannelState → ChannelState) (s : State) : (updChannel s i f).dramSoft = s.dramSoft := rfl
@[simp] theorem updChannel_desc (i : Nat) (f : ChannelState → ChannelState) (s : State) : (updChannel s i f).desc = s.desc := rfl
@[simp] theorem updChannel_front (i : Nat) (f : ChannelState → ChannelState) (s : State) : (updChannel s i f).front = s.front := rfl
@[simp] theorem updChannel_cal (i : Nat) (f : ChannelState → ChannelState) (s : State) : (updChannel s i f).cal = s.cal := rfl
@[simp] theorem updChannel_streams (i : Nat) (f : ChannelState → ChannelState) (s : State) : (updChannel s i f).streams = s.streams := rfl
@[simp] theorem updChannel_engines (i : Nat) (f : ChannelState → ChannelState) (s : State) : (updChannel s i f).engines = s.engines := rfl
@[simp] theorem updChannel_bureau (i : Nat) (f : ChannelState → ChannelState) (s : State) : (updChannel s i f).bureau = s.bureau := rfl
@[simp] theorem updChannel_events (i : Nat) (f : ChannelState → ChannelState) (s : State) : (updChannel s i f).events = s.events := rfl
@[simp] theorem updChannel_ring (i : Nat) (f : ChannelState → ChannelState) (s : State) : (updChannel s i f).ring = s.ring := rfl
@[simp] theorem updChannel_west (i : Nat) (f : ChannelState → ChannelState) (s : State) : (updChannel s i f).west = s.west := rfl
@[simp] theorem updChannel_east (i : Nat) (f : ChannelState → ChannelState) (s : State) : (updChannel s i f).east = s.east := rfl
@[simp] theorem updChannel_clock (i : Nat) (f : ChannelState → ChannelState) (s : State) : (updChannel s i f).clock = s.clock := rfl
@[simp] theorem updChannel_power (i : Nat) (f : ChannelState → ChannelState) (s : State) : (updChannel s i f).power = s.power := rfl
@[simp] theorem updChannel_rst (i : Nat) (f : ChannelState → ChannelState) (s : State) : (updChannel s i f).rst = s.rst := rfl
@[simp] theorem updChannel_nvm (i : Nat) (f : ChannelState → ChannelState) (s : State) : (updChannel s i f).nvm = s.nvm := rfl
@[simp] theorem updChannel_twa (i : Nat) (f : ChannelState → ChannelState) (s : State) : (updChannel s i f).twa = s.twa := rfl
@[simp] theorem updChannel_twb (i : Nat) (f : ChannelState → ChannelState) (s : State) : (updChannel s i f).twb = s.twb := rfl
@[simp] theorem updChannel_timers (i : Nat) (f : ChannelState → ChannelState) (s : State) : (updChannel s i f).timers = s.timers := rfl
@[simp] theorem updChannel_mcv (i : Nat) (f : ChannelState → ChannelState) (s : State) : (updChannel s i f).mcv = s.mcv := rfl
@[simp] theorem updChannel_tap (i : Nat) (f : ChannelState → ChannelState) (s : State) : (updChannel s i f).tap = s.tap := rfl
@[simp] theorem updChannel_pins (i : Nat) (f : ChannelState → ChannelState) (s : State) : (updChannel s i f).pins = s.pins := rfl
@[simp] theorem updChannel_out (i : Nat) (f : ChannelState → ChannelState) (s : State) : (updChannel s i f).out = s.out := rfl

/-! ### updChan -/

@[simp] theorem updChan_pending (c : Nat) (f : TimerChan → TimerChan) (s : State) : (updChan c f s).pending = s.pending := rfl
@[simp] theorem updChan_now (c : Nat) (f : TimerChan → TimerChan) (s : State) : (updChan c f s).now = s.now := rfl
@[simp] theorem updChan_free (c : Nat) (f : TimerChan → TimerChan) (s : State) : (updChan c f s).free = s.free := rfl
@[simp] theorem updChan_exposure (c : Nat) (f : TimerChan → TimerChan) (s : State) : (updChan c f s).exposure = s.exposure := rfl
@[simp] theorem updChan_expCnt (c : Nat) (f : TimerChan → TimerChan) (s : State) : (updChan c f s).expCnt = s.expCnt := rfl
@[simp] theorem updChan_readout (c : Nat) (f : TimerChan → TimerChan) (s : State) : (updChan c f s).readout = s.readout := rfl
@[simp] theorem updChan_accum (c : Nat) (f : TimerChan → TimerChan) (s : State) : (updChan c f s).accum = s.accum := rfl
@[simp] theorem updChan_accCnt (c : Nat) (f : TimerChan → TimerChan) (s : State) : (updChan c f s).accCnt = s.accCnt := rfl
@[simp] theorem updChan_history (c : Nat) (f : TimerChan → TimerChan) (s : State) : (updChan c f s).history = s.history := rfl
@[simp] theorem updChan_dram (c : Nat) (f : TimerChan → TimerChan) (s : State) : (updChan c f s).dram = s.dram := rfl
@[simp] theorem updChan_dramBad (c : Nat) (f : TimerChan → TimerChan) (s : State) : (updChan c f s).dramBad = s.dramBad := rfl
@[simp] theorem updChan_dramSoft (c : Nat) (f : TimerChan → TimerChan) (s : State) : (updChan c f s).dramSoft = s.dramSoft := rfl
@[simp] theorem updChan_desc (c : Nat) (f : TimerChan → TimerChan) (s : State) : (updChan c f s).desc = s.desc := rfl
@[simp] theorem updChan_front (c : Nat) (f : TimerChan → TimerChan) (s : State) : (updChan c f s).front = s.front := rfl
@[simp] theorem updChan_cal (c : Nat) (f : TimerChan → TimerChan) (s : State) : (updChan c f s).cal = s.cal := rfl
@[simp] theorem updChan_back (c : Nat) (f : TimerChan → TimerChan) (s : State) : (updChan c f s).back = s.back := rfl
@[simp] theorem updChan_streams (c : Nat) (f : TimerChan → TimerChan) (s : State) : (updChan c f s).streams = s.streams := rfl
@[simp] theorem updChan_engines (c : Nat) (f : TimerChan → TimerChan) (s : State) : (updChan c f s).engines = s.engines := rfl
@[simp] theorem updChan_bureau (c : Nat) (f : TimerChan → TimerChan) (s : State) : (updChan c f s).bureau = s.bureau := rfl
@[simp] theorem updChan_events (c : Nat) (f : TimerChan → TimerChan) (s : State) : (updChan c f s).events = s.events := rfl
@[simp] theorem updChan_ring (c : Nat) (f : TimerChan → TimerChan) (s : State) : (updChan c f s).ring = s.ring := rfl
@[simp] theorem updChan_west (c : Nat) (f : TimerChan → TimerChan) (s : State) : (updChan c f s).west = s.west := rfl
@[simp] theorem updChan_east (c : Nat) (f : TimerChan → TimerChan) (s : State) : (updChan c f s).east = s.east := rfl
@[simp] theorem updChan_clock (c : Nat) (f : TimerChan → TimerChan) (s : State) : (updChan c f s).clock = s.clock := rfl
@[simp] theorem updChan_power (c : Nat) (f : TimerChan → TimerChan) (s : State) : (updChan c f s).power = s.power := rfl
@[simp] theorem updChan_rst (c : Nat) (f : TimerChan → TimerChan) (s : State) : (updChan c f s).rst = s.rst := rfl
@[simp] theorem updChan_nvm (c : Nat) (f : TimerChan → TimerChan) (s : State) : (updChan c f s).nvm = s.nvm := rfl
@[simp] theorem updChan_twa (c : Nat) (f : TimerChan → TimerChan) (s : State) : (updChan c f s).twa = s.twa := rfl
@[simp] theorem updChan_twb (c : Nat) (f : TimerChan → TimerChan) (s : State) : (updChan c f s).twb = s.twb := rfl
@[simp] theorem updChan_mcv (c : Nat) (f : TimerChan → TimerChan) (s : State) : (updChan c f s).mcv = s.mcv := rfl
@[simp] theorem updChan_tap (c : Nat) (f : TimerChan → TimerChan) (s : State) : (updChan c f s).tap = s.tap := rfl
@[simp] theorem updChan_pins (c : Nat) (f : TimerChan → TimerChan) (s : State) : (updChan c f s).pins = s.pins := rfl
@[simp] theorem updChan_out (c : Nat) (f : TimerChan → TimerChan) (s : State) : (updChan c f s).out = s.out := rfl

/-! `setChan` changes the timers only. -/
@[simp] theorem setChan_pending (c : Nat) (x base : TimerChan) (acts : List TimerAct) (s : State) : (setChan c x base acts s).pending = s.pending := rfl
@[simp] theorem setChan_now (c : Nat) (x base : TimerChan) (acts : List TimerAct) (s : State) : (setChan c x base acts s).now = s.now := rfl
@[simp] theorem setChan_free (c : Nat) (x base : TimerChan) (acts : List TimerAct) (s : State) : (setChan c x base acts s).free = s.free := rfl
@[simp] theorem setChan_exposure (c : Nat) (x base : TimerChan) (acts : List TimerAct) (s : State) : (setChan c x base acts s).exposure = s.exposure := rfl
@[simp] theorem setChan_expCnt (c : Nat) (x base : TimerChan) (acts : List TimerAct) (s : State) : (setChan c x base acts s).expCnt = s.expCnt := rfl
@[simp] theorem setChan_readout (c : Nat) (x base : TimerChan) (acts : List TimerAct) (s : State) : (setChan c x base acts s).readout = s.readout := rfl
@[simp] theorem setChan_accum (c : Nat) (x base : TimerChan) (acts : List TimerAct) (s : State) : (setChan c x base acts s).accum = s.accum := rfl
@[simp] theorem setChan_accCnt (c : Nat) (x base : TimerChan) (acts : List TimerAct) (s : State) : (setChan c x base acts s).accCnt = s.accCnt := rfl
@[simp] theorem setChan_history (c : Nat) (x base : TimerChan) (acts : List TimerAct) (s : State) : (setChan c x base acts s).history = s.history := rfl
@[simp] theorem setChan_dram (c : Nat) (x base : TimerChan) (acts : List TimerAct) (s : State) : (setChan c x base acts s).dram = s.dram := rfl
@[simp] theorem setChan_dramBad (c : Nat) (x base : TimerChan) (acts : List TimerAct) (s : State) : (setChan c x base acts s).dramBad = s.dramBad := rfl
@[simp] theorem setChan_dramSoft (c : Nat) (x base : TimerChan) (acts : List TimerAct) (s : State) : (setChan c x base acts s).dramSoft = s.dramSoft := rfl
@[simp] theorem setChan_desc (c : Nat) (x base : TimerChan) (acts : List TimerAct) (s : State) : (setChan c x base acts s).desc = s.desc := rfl
@[simp] theorem setChan_front (c : Nat) (x base : TimerChan) (acts : List TimerAct) (s : State) : (setChan c x base acts s).front = s.front := rfl
@[simp] theorem setChan_cal (c : Nat) (x base : TimerChan) (acts : List TimerAct) (s : State) : (setChan c x base acts s).cal = s.cal := rfl
@[simp] theorem setChan_back (c : Nat) (x base : TimerChan) (acts : List TimerAct) (s : State) : (setChan c x base acts s).back = s.back := rfl
@[simp] theorem setChan_streams (c : Nat) (x base : TimerChan) (acts : List TimerAct) (s : State) : (setChan c x base acts s).streams = s.streams := rfl
@[simp] theorem setChan_engines (c : Nat) (x base : TimerChan) (acts : List TimerAct) (s : State) : (setChan c x base acts s).engines = s.engines := rfl
@[simp] theorem setChan_bureau (c : Nat) (x base : TimerChan) (acts : List TimerAct) (s : State) : (setChan c x base acts s).bureau = s.bureau := rfl
@[simp] theorem setChan_events (c : Nat) (x base : TimerChan) (acts : List TimerAct) (s : State) : (setChan c x base acts s).events = s.events := rfl
@[simp] theorem setChan_ring (c : Nat) (x base : TimerChan) (acts : List TimerAct) (s : State) : (setChan c x base acts s).ring = s.ring := rfl
@[simp] theorem setChan_west (c : Nat) (x base : TimerChan) (acts : List TimerAct) (s : State) : (setChan c x base acts s).west = s.west := rfl
@[simp] theorem setChan_east (c : Nat) (x base : TimerChan) (acts : List TimerAct) (s : State) : (setChan c x base acts s).east = s.east := rfl
@[simp] theorem setChan_clock (c : Nat) (x base : TimerChan) (acts : List TimerAct) (s : State) : (setChan c x base acts s).clock = s.clock := rfl
@[simp] theorem setChan_power (c : Nat) (x base : TimerChan) (acts : List TimerAct) (s : State) : (setChan c x base acts s).power = s.power := rfl
@[simp] theorem setChan_rst (c : Nat) (x base : TimerChan) (acts : List TimerAct) (s : State) : (setChan c x base acts s).rst = s.rst := rfl
@[simp] theorem setChan_nvm (c : Nat) (x base : TimerChan) (acts : List TimerAct) (s : State) : (setChan c x base acts s).nvm = s.nvm := rfl
@[simp] theorem setChan_twa (c : Nat) (x base : TimerChan) (acts : List TimerAct) (s : State) : (setChan c x base acts s).twa = s.twa := rfl
@[simp] theorem setChan_twb (c : Nat) (x base : TimerChan) (acts : List TimerAct) (s : State) : (setChan c x base acts s).twb = s.twb := rfl
@[simp] theorem setChan_mcv (c : Nat) (x base : TimerChan) (acts : List TimerAct) (s : State) : (setChan c x base acts s).mcv = s.mcv := rfl
@[simp] theorem setChan_tap (c : Nat) (x base : TimerChan) (acts : List TimerAct) (s : State) : (setChan c x base acts s).tap = s.tap := rfl
@[simp] theorem setChan_pins (c : Nat) (x base : TimerChan) (acts : List TimerAct) (s : State) : (setChan c x base acts s).pins = s.pins := rfl
@[simp] theorem setChan_out (c : Nat) (x base : TimerChan) (acts : List TimerAct) (s : State) : (setChan c x base acts s).out = s.out := rfl

/-! ### updMcv -/

@[simp] theorem updMcv_pending (f : McvState → McvState) (s : State) : (updMcv f s).pending = s.pending := rfl
@[simp] theorem updMcv_now (f : McvState → McvState) (s : State) : (updMcv f s).now = s.now := rfl
@[simp] theorem updMcv_free (f : McvState → McvState) (s : State) : (updMcv f s).free = s.free := rfl
@[simp] theorem updMcv_exposure (f : McvState → McvState) (s : State) : (updMcv f s).exposure = s.exposure := rfl
@[simp] theorem updMcv_expCnt (f : McvState → McvState) (s : State) : (updMcv f s).expCnt = s.expCnt := rfl
@[simp] theorem updMcv_readout (f : McvState → McvState) (s : State) : (updMcv f s).readout = s.readout := rfl
@[simp] theorem updMcv_accum (f : McvState → McvState) (s : State) : (updMcv f s).accum = s.accum := rfl
@[simp] theorem updMcv_accCnt (f : McvState → McvState) (s : State) : (updMcv f s).accCnt = s.accCnt := rfl
@[simp] theorem updMcv_history (f : McvState → McvState) (s : State) : (updMcv f s).history = s.history := rfl
@[simp] theorem updMcv_dram (f : McvState → McvState) (s : State) : (updMcv f s).dram = s.dram := rfl
@[simp] theorem updMcv_dramBad (f : McvState → McvState) (s : State) : (updMcv f s).dramBad = s.dramBad := rfl
@[simp] theorem updMcv_dramSoft (f : McvState → McvState) (s : State) : (updMcv f s).dramSoft = s.dramSoft := rfl
@[simp] theorem updMcv_desc (f : McvState → McvState) (s : State) : (updMcv f s).desc = s.desc := rfl
@[simp] theorem updMcv_front (f : McvState → McvState) (s : State) : (updMcv f s).front = s.front := rfl
@[simp] theorem updMcv_cal (f : McvState → McvState) (s : State) : (updMcv f s).cal = s.cal := rfl
@[simp] theorem updMcv_back (f : McvState → McvState) (s : State) : (updMcv f s).back = s.back := rfl
@[simp] theorem updMcv_streams (f : McvState → McvState) (s : State) : (updMcv f s).streams = s.streams := rfl
@[simp] theorem updMcv_engines (f : McvState → McvState) (s : State) : (updMcv f s).engines = s.engines := rfl
@[simp] theorem updMcv_bureau (f : McvState → McvState) (s : State) : (updMcv f s).bureau = s.bureau := rfl
@[simp] theorem updMcv_events (f : McvState → McvState) (s : State) : (updMcv f s).events = s.events := rfl
@[simp] theorem updMcv_ring (f : McvState → McvState) (s : State) : (updMcv f s).ring = s.ring := rfl
@[simp] theorem updMcv_west (f : McvState → McvState) (s : State) : (updMcv f s).west = s.west := rfl
@[simp] theorem updMcv_east (f : McvState → McvState) (s : State) : (updMcv f s).east = s.east := rfl
@[simp] theorem updMcv_clock (f : McvState → McvState) (s : State) : (updMcv f s).clock = s.clock := rfl
@[simp] theorem updMcv_power (f : McvState → McvState) (s : State) : (updMcv f s).power = s.power := rfl
@[simp] theorem updMcv_rst (f : McvState → McvState) (s : State) : (updMcv f s).rst = s.rst := rfl
@[simp] theorem updMcv_nvm (f : McvState → McvState) (s : State) : (updMcv f s).nvm = s.nvm := rfl
@[simp] theorem updMcv_twa (f : McvState → McvState) (s : State) : (updMcv f s).twa = s.twa := rfl
@[simp] theorem updMcv_twb (f : McvState → McvState) (s : State) : (updMcv f s).twb = s.twb := rfl
@[simp] theorem updMcv_timers (f : McvState → McvState) (s : State) : (updMcv f s).timers = s.timers := rfl
@[simp] theorem updMcv_tap (f : McvState → McvState) (s : State) : (updMcv f s).tap = s.tap := rfl
@[simp] theorem updMcv_pins (f : McvState → McvState) (s : State) : (updMcv f s).pins = s.pins := rfl
@[simp] theorem updMcv_out (f : McvState → McvState) (s : State) : (updMcv f s).out = s.out := rfl

/-! ### raise -/

@[simp] theorem raise_pending (c a0 a1 a2 : Nat) (s : State) : (raise c a0 a1 a2 s).pending = s.pending := by unfold raise; split <;> rfl
@[simp] theorem raise_now (c a0 a1 a2 : Nat) (s : State) : (raise c a0 a1 a2 s).now = s.now := by unfold raise; split <;> rfl
@[simp] theorem raise_free (c a0 a1 a2 : Nat) (s : State) : (raise c a0 a1 a2 s).free = s.free := by unfold raise; split <;> rfl
@[simp] theorem raise_exposure (c a0 a1 a2 : Nat) (s : State) : (raise c a0 a1 a2 s).exposure = s.exposure := by unfold raise; split <;> rfl
@[simp] theorem raise_expCnt (c a0 a1 a2 : Nat) (s : State) : (raise c a0 a1 a2 s).expCnt = s.expCnt := by unfold raise; split <;> rfl
@[simp] theorem raise_readout (c a0 a1 a2 : Nat) (s : State) : (raise c a0 a1 a2 s).readout = s.readout := by unfold raise; split <;> rfl
@[simp] theorem raise_accum (c a0 a1 a2 : Nat) (s : State) : (raise c a0 a1 a2 s).accum = s.accum := by unfold raise; split <;> rfl
@[simp] theorem raise_accCnt (c a0 a1 a2 : Nat) (s : State) : (raise c a0 a1 a2 s).accCnt = s.accCnt := by unfold raise; split <;> rfl
@[simp] theorem raise_history (c a0 a1 a2 : Nat) (s : State) : (raise c a0 a1 a2 s).history = s.history := by unfold raise; split <;> rfl
@[simp] theorem raise_dram (c a0 a1 a2 : Nat) (s : State) : (raise c a0 a1 a2 s).dram = s.dram := by unfold raise; split <;> rfl
@[simp] theorem raise_dramBad (c a0 a1 a2 : Nat) (s : State) : (raise c a0 a1 a2 s).dramBad = s.dramBad := by unfold raise; split <;> rfl
@[simp] theorem raise_dramSoft (c a0 a1 a2 : Nat) (s : State) : (raise c a0 a1 a2 s).dramSoft = s.dramSoft := by unfold raise; split <;> rfl
@[simp] theorem raise_desc (c a0 a1 a2 : Nat) (s : State) : (raise c a0 a1 a2 s).desc = s.desc := by unfold raise; split <;> rfl
@[simp] theorem raise_front (c a0 a1 a2 : Nat) (s : State) : (raise c a0 a1 a2 s).front = s.front := by unfold raise; split <;> rfl
@[simp] theorem raise_cal (c a0 a1 a2 : Nat) (s : State) : (raise c a0 a1 a2 s).cal = s.cal := by unfold raise; split <;> rfl
@[simp] theorem raise_back (c a0 a1 a2 : Nat) (s : State) : (raise c a0 a1 a2 s).back = s.back := by unfold raise; split <;> rfl
@[simp] theorem raise_streams (c a0 a1 a2 : Nat) (s : State) : (raise c a0 a1 a2 s).streams = s.streams := by unfold raise; split <;> rfl
@[simp] theorem raise_engines (c a0 a1 a2 : Nat) (s : State) : (raise c a0 a1 a2 s).engines = s.engines := by unfold raise; split <;> rfl
@[simp] theorem raise_bureau (c a0 a1 a2 : Nat) (s : State) : (raise c a0 a1 a2 s).bureau = s.bureau := by unfold raise; split <;> rfl
@[simp] theorem raise_ring (c a0 a1 a2 : Nat) (s : State) : (raise c a0 a1 a2 s).ring = s.ring := by unfold raise; split <;> rfl
@[simp] theorem raise_west (c a0 a1 a2 : Nat) (s : State) : (raise c a0 a1 a2 s).west = s.west := by unfold raise; split <;> rfl
@[simp] theorem raise_east (c a0 a1 a2 : Nat) (s : State) : (raise c a0 a1 a2 s).east = s.east := by unfold raise; split <;> rfl
@[simp] theorem raise_clock (c a0 a1 a2 : Nat) (s : State) : (raise c a0 a1 a2 s).clock = s.clock := by unfold raise; split <;> rfl
@[simp] theorem raise_power (c a0 a1 a2 : Nat) (s : State) : (raise c a0 a1 a2 s).power = s.power := by unfold raise; split <;> rfl
@[simp] theorem raise_rst (c a0 a1 a2 : Nat) (s : State) : (raise c a0 a1 a2 s).rst = s.rst := by unfold raise; split <;> rfl
@[simp] theorem raise_nvm (c a0 a1 a2 : Nat) (s : State) : (raise c a0 a1 a2 s).nvm = s.nvm := by unfold raise; split <;> rfl
@[simp] theorem raise_twa (c a0 a1 a2 : Nat) (s : State) : (raise c a0 a1 a2 s).twa = s.twa := by unfold raise; split <;> rfl
@[simp] theorem raise_twb (c a0 a1 a2 : Nat) (s : State) : (raise c a0 a1 a2 s).twb = s.twb := by unfold raise; split <;> rfl
@[simp] theorem raise_timers (c a0 a1 a2 : Nat) (s : State) : (raise c a0 a1 a2 s).timers = s.timers := by unfold raise; split <;> rfl
@[simp] theorem raise_mcv (c a0 a1 a2 : Nat) (s : State) : (raise c a0 a1 a2 s).mcv = s.mcv := by unfold raise; split <;> rfl
@[simp] theorem raise_tap (c a0 a1 a2 : Nat) (s : State) : (raise c a0 a1 a2 s).tap = s.tap := by unfold raise; split <;> rfl
@[simp] theorem raise_pins (c a0 a1 a2 : Nat) (s : State) : (raise c a0 a1 a2 s).pins = s.pins := by unfold raise; split <;> rfl
@[simp] theorem raise_out (c a0 a1 a2 : Nat) (s : State) : (raise c a0 a1 a2 s).out = s.out := by unfold raise; split <;> rfl

/-! ### dramWrite -/

@[simp] theorem dramWrite_pending (s : State) (a : Nat) (bs : List Byte) : (dramWrite s a bs).pending = s.pending := by unfold dramWrite; split <;> rfl
@[simp] theorem dramWrite_now (s : State) (a : Nat) (bs : List Byte) : (dramWrite s a bs).now = s.now := by unfold dramWrite; split <;> rfl
@[simp] theorem dramWrite_free (s : State) (a : Nat) (bs : List Byte) : (dramWrite s a bs).free = s.free := by unfold dramWrite; split <;> rfl
@[simp] theorem dramWrite_exposure (s : State) (a : Nat) (bs : List Byte) : (dramWrite s a bs).exposure = s.exposure := by unfold dramWrite; split <;> rfl
@[simp] theorem dramWrite_expCnt (s : State) (a : Nat) (bs : List Byte) : (dramWrite s a bs).expCnt = s.expCnt := by unfold dramWrite; split <;> rfl
@[simp] theorem dramWrite_readout (s : State) (a : Nat) (bs : List Byte) : (dramWrite s a bs).readout = s.readout := by unfold dramWrite; split <;> rfl
@[simp] theorem dramWrite_accum (s : State) (a : Nat) (bs : List Byte) : (dramWrite s a bs).accum = s.accum := by unfold dramWrite; split <;> rfl
@[simp] theorem dramWrite_accCnt (s : State) (a : Nat) (bs : List Byte) : (dramWrite s a bs).accCnt = s.accCnt := by unfold dramWrite; split <;> rfl
@[simp] theorem dramWrite_history (s : State) (a : Nat) (bs : List Byte) : (dramWrite s a bs).history = s.history := by unfold dramWrite; split <;> rfl
@[simp] theorem dramWrite_desc (s : State) (a : Nat) (bs : List Byte) : (dramWrite s a bs).desc = s.desc := by unfold dramWrite; split <;> rfl
@[simp] theorem dramWrite_front (s : State) (a : Nat) (bs : List Byte) : (dramWrite s a bs).front = s.front := by unfold dramWrite; split <;> rfl
@[simp] theorem dramWrite_cal (s : State) (a : Nat) (bs : List Byte) : (dramWrite s a bs).cal = s.cal := by unfold dramWrite; split <;> rfl
@[simp] theorem dramWrite_back (s : State) (a : Nat) (bs : List Byte) : (dramWrite s a bs).back = s.back := by unfold dramWrite; split <;> rfl
@[simp] theorem dramWrite_streams (s : State) (a : Nat) (bs : List Byte) : (dramWrite s a bs).streams = s.streams := by unfold dramWrite; split <;> rfl
@[simp] theorem dramWrite_engines (s : State) (a : Nat) (bs : List Byte) : (dramWrite s a bs).engines = s.engines := by unfold dramWrite; split <;> rfl
@[simp] theorem dramWrite_bureau (s : State) (a : Nat) (bs : List Byte) : (dramWrite s a bs).bureau = s.bureau := by unfold dramWrite; split <;> rfl
@[simp] theorem dramWrite_events (s : State) (a : Nat) (bs : List Byte) : (dramWrite s a bs).events = s.events := by unfold dramWrite; split <;> rfl
@[simp] theorem dramWrite_ring (s : State) (a : Nat) (bs : List Byte) : (dramWrite s a bs).ring = s.ring := by unfold dramWrite; split <;> rfl
@[simp] theorem dramWrite_west (s : State) (a : Nat) (bs : List Byte) : (dramWrite s a bs).west = s.west := by unfold dramWrite; split <;> rfl
@[simp] theorem dramWrite_east (s : State) (a : Nat) (bs : List Byte) : (dramWrite s a bs).east = s.east := by unfold dramWrite; split <;> rfl
@[simp] theorem dramWrite_clock (s : State) (a : Nat) (bs : List Byte) : (dramWrite s a bs).clock = s.clock := by unfold dramWrite; split <;> rfl
@[simp] theorem dramWrite_power (s : State) (a : Nat) (bs : List Byte) : (dramWrite s a bs).power = s.power := by unfold dramWrite; split <;> rfl
@[simp] theorem dramWrite_rst (s : State) (a : Nat) (bs : List Byte) : (dramWrite s a bs).rst = s.rst := by unfold dramWrite; split <;> rfl
@[simp] theorem dramWrite_nvm (s : State) (a : Nat) (bs : List Byte) : (dramWrite s a bs).nvm = s.nvm := by unfold dramWrite; split <;> rfl
@[simp] theorem dramWrite_twa (s : State) (a : Nat) (bs : List Byte) : (dramWrite s a bs).twa = s.twa := by unfold dramWrite; split <;> rfl
@[simp] theorem dramWrite_twb (s : State) (a : Nat) (bs : List Byte) : (dramWrite s a bs).twb = s.twb := by unfold dramWrite; split <;> rfl
@[simp] theorem dramWrite_timers (s : State) (a : Nat) (bs : List Byte) : (dramWrite s a bs).timers = s.timers := by unfold dramWrite; split <;> rfl
@[simp] theorem dramWrite_mcv (s : State) (a : Nat) (bs : List Byte) : (dramWrite s a bs).mcv = s.mcv := by unfold dramWrite; split <;> rfl
@[simp] theorem dramWrite_tap (s : State) (a : Nat) (bs : List Byte) : (dramWrite s a bs).tap = s.tap := by unfold dramWrite; split <;> rfl
@[simp] theorem dramWrite_pins (s : State) (a : Nat) (bs : List Byte) : (dramWrite s a bs).pins = s.pins := by unfold dramWrite; split <;> rfl
@[simp] theorem dramWrite_out (s : State) (a : Nat) (bs : List Byte) : (dramWrite s a bs).out = s.out := by unfold dramWrite; split <;> rfl

/-! ### The fields that are written -/

@[simp] theorem setNow_now (t : Instant) (s : State) : (setNow t s).now = laterInstant s.now t := rfl
@[simp] theorem nowHeld_executing (p : Packet) (s : State) : (nowHeld p s).bureau.executing = some p := rfl
@[simp] theorem nowHeld_queue (p : Packet) (s : State) : (nowHeld p s).bureau.queue = s.bureau.queue := rfl
@[simp] theorem getPort_updPort (p : Port) (f : TrunkPort → TrunkPort) (s : State) : getPort (updPort s p f) p = f (getPort s p) := by
  cases p <;> rfl
@[simp] theorem getPort_setNow (p : Port) (t : Instant) (s : State) : getPort (setNow t s) p = getPort s p := by cases p <;> rfl
@[simp] theorem getPort_raise (p : Port) (c a0 a1 a2 : Nat) (s : State) : getPort (raise c a0 a1 a2 s) p = getPort s p := by
  cases p <;> simp [getPort]
@[simp] theorem getTw_updTw (p : TwPort) (f : TwPortState → TwPortState) (s : State) : getTw (updTw s p f) p = f (getTw s p) := by
  cases p <;> rfl
@[simp] theorem getTw_setNow (p : TwPort) (t : Instant) (s : State) : getTw (setNow t s) p = getTw s p := by cases p <;> rfl
@[simp] theorem pllOf_updPll (p : Pll) (f : PllState → PllState) (s : State) : pllOf (updPll p f s) p = f (pllOf s p) := by
  cases p <;> rfl
@[simp] theorem pllOf_setNow (p : Pll) (t : Instant) (s : State) : pllOf (setNow t s) p = pllOf s p := by cases p <;> rfl
@[simp] theorem updMcv_mcv (f : McvState → McvState) (s : State) : (updMcv f s).mcv = f s.mcv := rfl
@[simp] theorem updTime_time (f : RingTime → RingTime) (s : State) : (updTime f s).ring.time = f s.ring.time := rfl
@[simp] theorem updBobbin_bobbins (n : Nat) (f : Bobbin → Bobbin) (s : State) :
    (updBobbin n f s).engines.bobbins = s.engines.bobbins.modify n f := rfl
@[simp] theorem putBobbin_bobbins (n : Nat) (x : Bobbin) (s : State) :
    (putBobbin n x s).engines.bobbins = s.engines.bobbins.set n x := rfl

/-- An instant that is not later changes nothing. -/
theorem setNow_of_now (t : Instant) (s : State) (h : laterInstant s.now t = s.now) : setNow t s = s := by
  simp [setNow, h]

end Sys2Proof.Machine
end

