-- ==== Sys2Proof/Laws/Commands.lean ====
section
/-! SUPPORT. What a step, a command row and a bobbin instruction can do, said once over every meaning. -/
set_option Elab.async false
namespace Sys2Proof.Machine

/-! ### Steps -/

/-- On an empty queue the block idles. -/
theorem step_of_empty {s : State} (h : s.pending = []) : step s = .next s := by simp [step, h]

/-- With a command in front, a step is that command with the rest of the queue. -/
theorem step_of_cons {s : State} {c : Instr} {rest : List Instr} (h : s.pending = c :: rest) :
    step s = exec c { s with pending := rest } := by simp [step, h]

/-! ### Command rows (R320) -/

/-- A row whose packet the Bureau takes runs it. -/
theorem runCmd_of_taking {t : Instant} {op : Nat} {body : Cmd → State → CmdResult} {s s1 : State} {p : Packet}
    (h : taking t op s = some (p, s1)) : runCmd t op body s = .next (executePacket p body s1) := by
  simp only [taking] at h
  simp only [runCmd]
  split at h
  · rename_i q rest hq
    split at h
    · rename_i hop
      obtain ⟨rfl, rfl⟩ := Prod.mk.inj (Option.some.inj h)
      simp [hq, hop]
    · cases h
  · cases h

/-- A row whose packet the Bureau does not take only settles what is refused or repeated. -/
theorem runCmd_of_not_taking {t : Instant} {op : Nat} {body : Cmd → State → CmdResult} {s : State} (h : taking t op s = none) :
    runCmd t op body s = .next (settleAll (setNow t s)) := by
  simp only [taking] at h
  simp only [runCmd]
  split at h
  · rename_i q rest hq
    split at h
    · cases h
    · rename_i hop; simp [hq, hop]
  · rename_i hq; simp [hq]

/-- What `taken` adds to `taking`: the Bureau is consistent. -/
theorem taken_eq_some_iff {t : Instant} {op : Nat} {s s1 : State} {p : Packet} :
    taken t op s = some (p, s1) ↔ taking t op s = some (p, s1) ∧ bureauSound s1 = true := by
  simp [taken, Option.filter_eq_some_iff]

/-- A row whose packet a consistent Bureau takes executes it: it is finished, or it waits for its reply. -/
theorem runCmd_of_taken {t : Instant} {op : Nat} {body : Cmd → State → CmdResult} {s s1 : State} {p : Packet}
    (h : taken t op s = some (p, s1)) : runCmd t op body s = .next (
      if (body (cmdOf p) s1).held then nowHeld p (body (cmdOf p) s1).state else finishCmd p (body (cmdOf p) s1) s1) := by
  obtain ⟨h, hs⟩ := taken_eq_some_iff.1 h
  simp [runCmd_of_taking h, executePacket, hs, nowHeld]

/-- A row whose packet an inconsistent Bureau takes answers INTERNAL_FAULT. -/
theorem runCmd_of_unsound {t : Instant} {op : Nat} {body : Cmd → State → CmdResult} {s s1 : State} {p : Packet}
    (h : taking t op s = some (p, s1)) (hs : bureauSound s1 = false) :
    runCmd t op body s = .next (settleAll (faultCmd p s1)) := by simp [runCmd_of_taking h, executePacket, hs]

/-- Every answer of a command row: the packet is run, or nothing is taken. -/
theorem runCmd_next_cases {t : Instant} {op : Nat} {body : Cmd → State → CmdResult} {s u : State}
    (h : runCmd t op body s = .next u) :
    (∃ p s1, taking t op s = some (p, s1) ∧ u = executePacket p body s1) ∨
    (taking t op s = none ∧ u = settleAll (setNow t s)) := by
  cases hc : taking t op s with
  | none => rw [runCmd_of_not_taking hc] at h; exact .inr ⟨rfl, by cases h; rfl⟩
  | some q =>
    obtain ⟨p, s1⟩ := q
    rw [runCmd_of_taking hc] at h
    exact .inl ⟨p, s1, rfl, by cases h; rfl⟩

/-- The opcode of a packet that is taken is its row's. -/
theorem pktOp_of_taking {t : Instant} {op : Nat} {s s1 : State} {p : Packet} (h : taking t op s = some (p, s1)) : pktOp p = op := by
  simp only [taking] at h
  split at h
  · split at h
    · rename_i hop; obtain ⟨rfl, -⟩ := Prod.mk.inj (Option.some.inj h); exact hop
    · cases h
  · cases h

/-! ### Bobbin instructions (R223, R257) -/

/-- An instruction that its bobbin does not issue has no effect. -/
theorem issueWith_of_not_issued {i : BobbinIssue} {w : Word} {use : MemUse} {f : Nat → State → State} {s : State}
    (h : issues s i.ix.val w = false) (hp : parityFault i.parity use = none) : issueWith i w use f s = .next s := by
  simp [issueWith, h, hp]

/-- An instruction issued with clean memories has its own effect. -/
theorem issueWith_of_clean {i : BobbinIssue} {w : Word} {use : MemUse} {f : Nat → State → State} {s : State}
    (h : issues s i.ix.val w = true) (hp : i.parity = .clean) : issueWith i w use f s = .next (f i.ix.val s) := by
  cases use <;> simp [issueWith, parityFault, h, hp]

/-- A parity error of a user kernel's bobbin is its fault before anything is read. -/
theorem issueWith_of_parity {i : BobbinIssue} {w : Word} {use : MemUse} {f : Nat → State → State} {code : Nat} {s : State}
    (h : issues s i.ix.val w = true) (hp : parityFault i.parity use = some code)
    (hv : vendorHolds s.exposure.cfg s.front.cfg (i.ix.val / 16) = false) :
    issueWith i w use f s = .next (bobbinFault i.ix.val code s) := by simp [issueWith, h, hp, hv]

/-- A parity error of a vendor kernel's bobbin is that kernel's fault. -/
theorem issueWith_of_vendor_parity {i : BobbinIssue} {w : Word} {use : MemUse} {f : Nat → State → State} {code : Nat} {s : State}
    (hp : parityFault i.parity use = some code) (hv : vendorHolds s.exposure.cfg s.front.cfg (i.ix.val / 16) = true) :
    issueWith i w use f s = .next (vendorFault i.ix.val code s) := by simp [issueWith, hp, hv]

/-- A bobbin instruction always goes on. -/
theorem issueWith_goes_on (i : BobbinIssue) (w : Word) (use : MemUse) (f : Nat → State → State) (s : State) :
    ∃ u, issueWith i w use f s = .next u := ⟨_, rfl⟩

/-- The bobbin that issues a command, its word and what that says of the state. -/
theorem issues_of_issuing {i : Instr} {s : State} {n : Nat} {x : Bobbin} (h : issuing i s = some (n, x)) :
    ∃ b w, bobbinWord i = some (b, w) ∧ b.parity = .clean ∧ issues s b.ix.val w = true ∧ n = b.ix.val ∧ x = bobbin s n := by
  simp only [issuing] at h
  split at h
  · rename_i b w hw
    split at h
    · rename_i hc
      simp only [Bool.and_eq_true, beq_iff_eq] at hc
      obtain ⟨rfl, rfl⟩ := Prod.mk.inj (Option.some.inj h)
      exact ⟨b, w, hw, hc.1, hc.2, rfl, rfl⟩
    · cases h
  · cases h

/-! ### Replies (R320, R331) -/

/-- A state without what answering a packet writes: the Bureau's own state, the ring's queue, the mailboxes, the counters
of refusals and late sets, and the observer's record. -/
def noReplies (s : State) : State :=
  { s with bureau := {}, ring := {}, twa := {}, twb := {}, out := {}, power := {}, expCnt := {} }

/-- Nothing differs but what answering a packet writes. -/
def sameButReplies (s u : State) : Prop := noReplies u = noReplies s

theorem sameButReplies_refl (s : State) : sameButReplies s s := rfl

theorem sameButReplies_trans {a b c : State} (h : sameButReplies a b) (h' : sameButReplies b c) : sameButReplies a c := h'.trans h

theorem sameButReplies_queuePacket (ty pr : Nat) (d : BitVec 7) (po : BitVec 9) (b : Bool) (ws : List Word) (s : State) :
    sameButReplies s (queuePacket ty pr d po b ws s) := by
  simp only [queuePacket]
  generalize packetSlots s ty pr d po b ws = l
  induction l generalizing s with
  | nil => rfl
  | cons x l ih => exact sameButReplies_trans (b := queueSlot x s) rfl (ih _)

theorem sameButReplies_updTw (p : TwPort) (f : TwPortState → TwPortState) (s : State) : sameButReplies s (updTw s p f) := by
  cases p <;> rfl

theorem sameButReplies_deliver (p : Packet) (ws : List Word) (s : State) : sameButReplies s (deliver p ws s) := by
  have h : sameButReplies s { s with out := { s.out with replies := s.out.replies ++ [⟨p.req, withCrc ws⟩] } } := rfl
  simp only [deliver]
  split
  · split
    · exact h
    · exact sameButReplies_trans h (sameButReplies_updTw _ _ _)
  · split
    · exact h
    · exact sameButReplies_trans h (sameButReplies_updTw _ _ _)
  · exact sameButReplies_trans h (sameButReplies_queuePacket _ _ _ _ _ _ _)

theorem sameButReplies_unanswered (p : Packet) (s : State) : sameButReplies s (unanswered p s) := by
  simp only [unanswered]
  split
  · split
    · exact sameButReplies_refl s
    · exact sameButReplies_updTw _ _ _
  · split
    · exact sameButReplies_refl s
    · exact sameButReplies_updTw _ _ _
  · exact sameButReplies_refl s

theorem sameButReplies_countReply (st : Status) (s : State) : sameButReplies s (countReply st s) := by
  simp only [countReply]
  split <;> split <;> rfl

theorem sameButReplies_answer (p : Packet) (r : CmdResult) (s : State) : sameButReplies s (answer p r s) := by
  have h : sameButReplies s (noteCommand p (replyWords p false r) (storeReply p (replyWords p false r) (countReply r.status s))) :=
    sameButReplies_trans (sameButReplies_countReply r.status s) rfl
  simp only [answer]
  split
  · exact sameButReplies_trans h (sameButReplies_unanswered _ _)
  · exact sameButReplies_trans h (sameButReplies_deliver _ _ _)

theorem sameButReplies_resendReply (p : Packet) (x : StoredReply) (s : State) : sameButReplies s (resendReply p x s) := by
  simp only [resendReply]
  split
  · exact sameButReplies_unanswered _ _
  · exact sameButReplies_trans (b := { s with bureau := { s.bureau with cmdsDuplicate := satInc s.bureau.cmdsDuplicate } }) rfl
      (sameButReplies_deliver _ _ _)

theorem sameButReplies_answerRefusal (p : Packet) (st : Status) (d : Nat) (s : State) :
    sameButReplies s (answerRefusal p st d s) := by
  unfold answerRefusal
  exact sameButReplies_answer _ _ _

theorem sameButReplies_retryOr {p : Packet} {s u : State} {q : Option StoredReply} {r : Option (Status × Nat)}
    (h : retryOr p s q r = some u) : sameButReplies s u := by
  cases q with
  | some x => exact Option.some.inj h ▸ sameButReplies_resendReply p x s
  | none =>
    cases r with
    | none => exact absurd h (fun h => by cases h)
    | some v => exact Option.some.inj h ▸ sameButReplies_answerRefusal p v.1 v.2 s

theorem sameButReplies_preAnswer {p : Packet} {s u : State} (h : preAnswer p s = some u) : sameButReplies s u := by
  unfold preAnswer at h
  split at h
  · split at h
    · exact Option.some.inj h ▸ sameButReplies_answerRefusal _ _ _ _
    · exact sameButReplies_retryOr h
  · exact sameButReplies_retryOr h

theorem sameButReplies_settle (n : Nat) (s : State) : sameButReplies s (settle n s) := by
  induction n generalizing s with
  | zero => rfl
  | succ n ih =>
    simp only [settle]
    split
    · rfl
    · rename_i p rest hq
      split
      · rfl
      · rename_i u hu
        exact sameButReplies_trans (sameButReplies_trans (b := { s with bureau := { s.bureau with queue := rest } }) rfl
          (sameButReplies_preAnswer hu)) (ih u)

/-- Refusals and repeats at the front of the queue change only what answering writes. -/
theorem sameButReplies_settleAll (s : State) : sameButReplies s (settleAll s) := sameButReplies_settle _ s

/-- A command that is done leaves its own effect, but for what answering writes. -/
theorem sameButReplies_finishCmd_done {p : Packet} {r : CmdResult} {s : State} (h : statusDone r.status = true) :
    sameButReplies r.state (finishCmd p r s) := by
  simp only [finishCmd, h, Bool.true_or, if_true]
  exact sameButReplies_trans (sameButReplies_answer _ _ _) (sameButReplies_settleAll _)

/-- A command that is refused changes nothing but what answering writes (R320, R329). -/
theorem sameButReplies_finishCmd_refused {p : Packet} {r : CmdResult} {s : State} (h : statusDone r.status = false)
    (hk : r.keeps = false) : sameButReplies s (finishCmd p r s) := by
  simp only [finishCmd, h, hk, Bool.or_false, Bool.false_eq_true, if_false]
  exact sameButReplies_trans (sameButReplies_answer _ _ _) (sameButReplies_settleAll _)

/-! What answering does not write stands. -/

theorem sameButReplies_pending {s u : State} (h : sameButReplies s u) : u.pending = s.pending := by
  have e : noReplies u = noReplies s := h
  exact (congrArg State.pending e :)
theorem sameButReplies_now {s u : State} (h : sameButReplies s u) : u.now = s.now := by
  have e : noReplies u = noReplies s := h
  exact (congrArg State.now e :)
theorem sameButReplies_free {s u : State} (h : sameButReplies s u) : u.free = s.free := by
  have e : noReplies u = noReplies s := h
  exact (congrArg State.free e :)
theorem sameButReplies_exposure {s u : State} (h : sameButReplies s u) : u.exposure = s.exposure := by
  have e : noReplies u = noReplies s := h
  exact (congrArg State.exposure e :)
theorem sameButReplies_readout {s u : State} (h : sameButReplies s u) : u.readout = s.readout := by
  have e : noReplies u = noReplies s := h
  exact (congrArg State.readout e :)
theorem sameButReplies_accum {s u : State} (h : sameButReplies s u) : u.accum = s.accum := by
  have e : noReplies u = noReplies s := h
  exact (congrArg State.accum e :)
theorem sameButReplies_accCnt {s u : State} (h : sameButReplies s u) : u.accCnt = s.accCnt := by
  have e : noReplies u = noReplies s := h
  exact (congrArg State.accCnt e :)
theorem sameButReplies_history {s u : State} (h : sameButReplies s u) : u.history = s.history := by
  have e : noReplies u = noReplies s := h
  exact (congrArg State.history e :)
theorem sameButReplies_dram {s u : State} (h : sameButReplies s u) : u.dram = s.dram := by
  have e : noReplies u = noReplies s := h
  exact (congrArg State.dram e :)
theorem sameButReplies_dramBad {s u : State} (h : sameButReplies s u) : u.dramBad = s.dramBad := by
  have e : noReplies u = noReplies s := h
  exact (congrArg State.dramBad e :)
theorem sameButReplies_dramSoft {s u : State} (h : sameButReplies s u) : u.dramSoft = s.dramSoft := by
  have e : noReplies u = noReplies s := h
  exact (congrArg State.dramSoft e :)
theorem sameButReplies_desc {s u : State} (h : sameButReplies s u) : u.desc = s.desc := by
  have e : noReplies u = noReplies s := h
  exact (congrArg State.desc e :)
theorem sameButReplies_front {s u : State} (h : sameButReplies s u) : u.front = s.front := by
  have e : noReplies u = noReplies s := h
  exact (congrArg State.front e :)
theorem sameButReplies_cal {s u : State} (h : sameButReplies s u) : u.cal = s.cal := by
  have e : noReplies u = noReplies s := h
  exact (congrArg State.cal e :)
theorem sameButReplies_back {s u : State} (h : sameButReplies s u) : u.back = s.back := by
  have e : noReplies u = noReplies s := h
  exact (congrArg State.back e :)
theorem sameButReplies_streams {s u : State} (h : sameButReplies s u) : u.streams = s.streams := by
  have e : noReplies u = noReplies s := h
  exact (congrArg State.streams e :)
theorem sameButReplies_engines {s u : State} (h : sameButReplies s u) : u.engines = s.engines := by
  have e : noReplies u = noReplies s := h
  exact (congrArg State.engines e :)
theorem sameButReplies_events {s u : State} (h : sameButReplies s u) : u.events = s.events := by
  have e : noReplies u = noReplies s := h
  exact (congrArg State.events e :)
theorem sameButReplies_west {s u : State} (h : sameButReplies s u) : u.west = s.west := by
  have e : noReplies u = noReplies s := h
  exact (congrArg State.west e :)
theorem sameButReplies_east {s u : State} (h : sameButReplies s u) : u.east = s.east := by
  have e : noReplies u = noReplies s := h
  exact (congrArg State.east e :)
theorem sameButReplies_clock {s u : State} (h : sameButReplies s u) : u.clock = s.clock := by
  have e : noReplies u = noReplies s := h
  exact (congrArg State.clock e :)
theorem sameButReplies_rst {s u : State} (h : sameButReplies s u) : u.rst = s.rst := by
  have e : noReplies u = noReplies s := h
  exact (congrArg State.rst e :)
theorem sameButReplies_nvm {s u : State} (h : sameButReplies s u) : u.nvm = s.nvm := by
  have e : noReplies u = noReplies s := h
  exact (congrArg State.nvm e :)
theorem sameButReplies_timers {s u : State} (h : sameButReplies s u) : u.timers = s.timers := by
  have e : noReplies u = noReplies s := h
  exact (congrArg State.timers e :)
theorem sameButReplies_mcv {s u : State} (h : sameButReplies s u) : u.mcv = s.mcv := by
  have e : noReplies u = noReplies s := h
  exact (congrArg State.mcv e :)
theorem sameButReplies_tap {s u : State} (h : sameButReplies s u) : u.tap = s.tap := by
  have e : noReplies u = noReplies s := h
  exact (congrArg State.tap e :)
theorem sameButReplies_pins {s u : State} (h : sameButReplies s u) : u.pins = s.pins := by
  have e : noReplies u = noReplies s := h
  exact (congrArg State.pins e :)

end Sys2Proof.Machine
end

