-- ==== Sys2Proof/Laws/Memory.lean ====
section
/-! SUPPORT. Sparse maps and the memories built on them: every write keeps the canonical form, and a read gives what was
written at its key and what stood at every other. -/
set_option Elab.async false
namespace Sys2Proof.Machine

variable {α : Type} [DecidableEq α] {d : α}

/-! ### Canonical form -/

theorem smWfFrom_mono {lo lo' : Nat} {m : List (Nat × α)} (h : smWfFrom d lo m = true) (hl : lo' ≤ lo) :
    smWfFrom d lo' m = true := by
  cases m with
  | nil => rfl
  | cons e m =>
    obtain ⟨k, v⟩ := e
    simp only [smWfFrom, Bool.and_eq_true, decide_eq_true_eq] at h ⊢
    exact ⟨⟨by omega, h.1.2⟩, h.2⟩

theorem smWfFrom_smSet {m : List (Nat × α)} {lo key : Nat} {x : α} (h : smWfFrom d lo m = true) (hk : lo ≤ key) :
    smWfFrom d lo (smSet d m key x) = true := by
  induction m generalizing lo with
  | nil =>
    by_cases hx : x = d <;> simp [smSet, hx, smWfFrom, hk]
  | cons e m ih =>
    obtain ⟨k, v⟩ := e
    simp only [smWfFrom, Bool.and_eq_true, decide_eq_true_eq] at h
    obtain ⟨⟨hlo, hv⟩, hm⟩ := h
    simp only [smSet]
    split
    · split
      · simp [smWfFrom, hlo, hv, hm]
      · rename_i h1 h2
        simp only [smWfFrom, Bool.and_eq_true, decide_eq_true_eq]
        exact ⟨⟨hk, h2⟩, ⟨by omega, hv⟩, hm⟩
    · split
      · split
        · exact smWfFrom_mono hm (by omega)
        · rename_i h1 h2 h3
          simp [smWfFrom, hlo, h3, hm]
      · simp only [smWfFrom, Bool.and_eq_true, decide_eq_true_eq]
        exact ⟨⟨hlo, hv⟩, ih hm (by omega)⟩

/-- A write keeps the canonical form. -/
theorem smWf_smSet {m : List (Nat × α)} (key : Nat) (x : α) (h : smWf d m = true) : smWf d (smSet d m key x) = true :=
  smWfFrom_smSet h (Nat.zero_le _)

theorem smWfFrom_filter {m : List (Nat × α)} {lo : Nat} (p : Nat × α → Bool) (h : smWfFrom d lo m = true) :
    smWfFrom d lo (m.filter p) = true := by
  induction m generalizing lo with
  | nil => rfl
  | cons e m ih =>
    obtain ⟨k, v⟩ := e
    simp only [smWfFrom, Bool.and_eq_true, decide_eq_true_eq] at h
    obtain ⟨⟨hlo, hv⟩, hm⟩ := h
    rw [List.filter_cons]
    split
    · simp [smWfFrom, hlo, hv, ih hm]
    · exact smWfFrom_mono (ih hm) (by omega)

/-- Keys that return to the default leave the canonical form. -/
theorem smWf_smClear {m : List (Nat × α)} (lo n : Nat) (h : smWf d m = true) : smWf d (smClear m lo n) = true :=
  smWfFrom_filter _ h

theorem smWfFrom_append {a b : List (Nat × α)} {lo mid : Nat} (ha : smWfFrom d lo a = true)
    (hk : ∀ e ∈ a, e.1 < mid) (hb : smWfFrom d mid b = true) (hm : lo ≤ mid) : smWfFrom d lo (a ++ b) = true := by
  induction a generalizing lo with
  | nil => exact smWfFrom_mono hb hm
  | cons e a ih =>
    obtain ⟨k, v⟩ := e
    simp only [smWfFrom, Bool.and_eq_true, decide_eq_true_eq] at ha
    simp only [List.cons_append, smWfFrom, Bool.and_eq_true, decide_eq_true_eq]
    exact ⟨ha.1, ih ha.2 (fun e he => hk e (List.mem_cons_of_mem _ he)) (hk (k, v) List.mem_cons_self)⟩

theorem smEntries_keys {key : Nat} {xs : List α} : ∀ e ∈ smEntries d key xs, key ≤ e.1 ∧ e.1 < key + xs.length := by
  induction xs generalizing key with
  | nil => simp [smEntries]
  | cons x xs ih =>
    intro e he
    simp only [smEntries] at he
    split at he
    · have := ih e he; simp only [List.length_cons]; omega
    · rcases List.mem_cons.1 he with rfl | he
      · simp
      · have := ih e he; simp only [List.length_cons]; omega

theorem smWfFrom_smEntries {key : Nat} {xs : List α} : smWfFrom d key (smEntries d key xs) = true := by
  induction xs generalizing key with
  | nil => rfl
  | cons x xs ih =>
    simp only [smEntries]
    split
    · exact smWfFrom_mono ih (by omega)
    · rename_i h; simp [smWfFrom, h, ih]

theorem smWfFrom_high {m : List (Nat × α)} {lo b : Nat} (h : smWfFrom d lo m = true) :
    smWfFrom d b (m.filter fun e => decide (b ≤ e.1)) = true := by
  induction m generalizing lo with
  | nil => rfl
  | cons e m ih =>
    obtain ⟨k, v⟩ := e
    simp only [smWfFrom, Bool.and_eq_true, decide_eq_true_eq] at h
    rw [List.filter_cons]
    split
    · rename_i hb
      simp only [decide_eq_true_eq] at hb
      simp only [smWfFrom, Bool.and_eq_true, decide_eq_true_eq]
      exact ⟨⟨hb, h.1.2⟩, smWfFrom_filter _ h.2⟩
    · exact ih h.2

/-- A write of consecutive values keeps the canonical form. -/
theorem smWf_smSetMany {m : List (Nat × α)} (key : Nat) (xs : List α) (h : smWf d m = true) :
    smWf d (smSetMany d m key xs) = true := by
  unfold smWf smSetMany
  refine smWfFrom_append (mid := key + xs.length) (smWfFrom_append (mid := key) (smWfFrom_filter _ h) ?_ smWfFrom_smEntries
    (Nat.zero_le _)) ?_ (smWfFrom_high h) (Nat.zero_le _)
  · intro e he
    simpa using (List.mem_filter.1 he).2
  · intro e he
    rcases List.mem_append.1 he with he | he
    · have := (List.mem_filter.1 he).2
      simp only [decide_eq_true_eq] at this
      omega
    · exact (smEntries_keys e he).2

/-! ### Reads -/

theorem smGet_below {m : List (Nat × α)} {lo c : Nat} (h : smWfFrom d lo m = true) (hc : c < lo) : smGet d m c = d := by
  cases m with
  | nil => rfl
  | cons e m =>
    obtain ⟨k, v⟩ := e
    simp only [smWfFrom, Bool.and_eq_true, decide_eq_true_eq] at h
    simp only [smGet]
    rw [if_neg (by omega), if_pos (by omega)]

/-- A read after a write of one key. -/
theorem smGet_smSet {m : List (Nat × α)} {lo : Nat} (key c : Nat) (x : α) (h : smWfFrom d lo m = true) :
    smGet d (smSet d m key x) c = if c = key then x else smGet d m c := by
  induction m generalizing lo with
  | nil =>
    simp only [smSet]
    split
    · split <;> simp_all [smGet]
    · simp only [smGet]
      split <;> simp_all
  | cons e m ih =>
    obtain ⟨k, v⟩ := e
    simp only [smWfFrom, Bool.and_eq_true, decide_eq_true_eq] at h
    obtain ⟨⟨hlo, hv⟩, hm⟩ := h
    by_cases h1 : key < k
    · simp only [smSet, if_pos h1]
      split
      · rename_i hx
        split
        · rename_i hc
          rw [hx]; simp only [smGet]; rw [if_neg (by omega), if_pos (by omega)]
        · rfl
      · by_cases hc : c = key
        · simp [smGet, hc]
        · simp only [smGet, if_neg hc]
          split
          · rename_i hck; rw [if_neg (by omega), if_pos (by omega)]
          · rfl
    · by_cases h2 : key = k
      · simp only [smSet, if_neg h1, if_pos h2]
        by_cases hc : c = key
        · rw [if_pos hc]
          split
          · rename_i hx; rw [hx]; exact smGet_below hm (by omega)
          · simp [smGet, hc, h2]
        · rw [if_neg hc]
          split
          · simp only [smGet]
            rw [if_neg (by omega)]
            split
            · exact smGet_below hm (by omega)
            · rfl
          · simp [smGet, show ¬ c = k by omega]
      · simp only [smSet, if_neg h1, if_neg h2, smGet]
        by_cases hc : c = k
        · rw [if_pos hc, if_pos hc, if_neg (by omega)]
        · rw [if_neg hc, if_neg hc]
          split
          · rw [if_neg (by omega)]
          · exact ih hm

theorem smGet_append {a b : List (Nat × α)} {lo mid c : Nat} (ha : smWfFrom d lo a = true) (hk : ∀ e ∈ a, e.1 < mid)
    (hb : smWfFrom d mid b = true) : smGet d (a ++ b) c = if c < mid then smGet d a c else smGet d b c := by
  induction a generalizing lo with
  | nil =>
    simp only [List.nil_append]
    split
    · rename_i h; rw [smGet_below hb h]; rfl
    · rfl
  | cons e a ih =>
    obtain ⟨k, v⟩ := e
    simp only [smWfFrom, Bool.and_eq_true, decide_eq_true_eq] at ha
    have hkm : k < mid := hk (k, v) List.mem_cons_self
    simp only [List.cons_append, smGet]
    by_cases h1 : c = k
    · rw [if_pos h1, if_pos (by omega), if_pos h1]
    · rw [if_neg h1]
      by_cases h2 : c < k
      · rw [if_pos h2, if_pos (by omega), if_neg h1, if_pos h2]
      · rw [if_neg h2, ih ha.2 (fun e he => hk e (List.mem_cons_of_mem _ he)), if_neg h1, if_neg h2]

theorem smGet_smEntries {key c : Nat} {xs : List α} :
    smGet d (smEntries d key xs) c = if key ≤ c then xs.getD (c - key) d else d := by
  induction xs generalizing key with
  | nil => simp [smEntries, smGet]
  | cons x xs ih =>
    have hget : ∀ n, 0 < n → (x :: xs).getD n d = xs.getD (n - 1) d := by
      intro n hn; cases n with
      | zero => omega
      | succ n => simp
    simp only [smEntries]
    split
    · rename_i hx
      rw [ih]
      by_cases h1 : key ≤ c
      · rw [if_pos h1]
        by_cases h2 : c = key
        · rw [if_neg (by omega)]; simp [h2, hx]
        · rw [if_pos (by omega), hget _ (by omega)]
          congr 1
      · rw [if_neg h1, if_neg (by omega)]
    · simp only [smGet]
      by_cases h2 : c = key
      · simp [h2]
      · rw [if_neg h2]
        by_cases h1 : c < key
        · rw [if_pos h1, if_neg (by omega)]
        · rw [if_neg h1, if_pos (by omega), ih, if_pos (by omega), hget _ (by omega)]
          congr 1

theorem smGet_filter_low {m : List (Nat × α)} {lo b c : Nat} (h : smWfFrom d lo m = true) (hc : c < b) :
    smGet d (m.filter fun e => decide (e.1 < b)) c = smGet d m c := by
  induction m generalizing lo with
  | nil => rfl
  | cons e m ih =>
    obtain ⟨k, v⟩ := e
    simp only [smWfFrom, Bool.and_eq_true, decide_eq_true_eq] at h
    rw [List.filter_cons]
    split
    · simp only [smGet, ih h.2]
    · rename_i hk
      simp only [decide_eq_true_eq] at hk
      simp only [smGet]
      rw [if_neg (by omega), if_pos (by omega), ih h.2]
      exact smGet_below h.2 (by omega)

theorem smGet_filter_high {m : List (Nat × α)} {lo b c : Nat} (h : smWfFrom d lo m = true) (hc : b ≤ c) :
    smGet d (m.filter fun e => decide (b ≤ e.1)) c = smGet d m c := by
  induction m generalizing lo with
  | nil => rfl
  | cons e m ih =>
    obtain ⟨k, v⟩ := e
    simp only [smWfFrom, Bool.and_eq_true, decide_eq_true_eq] at h
    rw [List.filter_cons]
    split
    · simp only [smGet, ih h.2]
    · rename_i hk
      simp only [decide_eq_true_eq] at hk
      simp only [smGet]
      rw [if_neg (by omega), if_neg (by omega), ih h.2]

/-- A read after a write of consecutive values. -/
theorem smGet_smSetMany {m : List (Nat × α)} (key c : Nat) (xs : List α) (h : smWf d m = true) :
    smGet d (smSetMany d m key xs) c = if key ≤ c ∧ c < key + xs.length then xs.getD (c - key) d else smGet d m c := by
  have low : ∀ e ∈ m.filter (fun e => decide (e.1 < key)), e.1 < key := by
    intro e he; simpa using (List.mem_filter.1 he).2
  have wlow : smWfFrom d 0 (m.filter fun e => decide (e.1 < key)) = true := smWfFrom_filter _ h
  have both : ∀ e ∈ m.filter (fun e => decide (e.1 < key)) ++ smEntries d key xs, e.1 < key + xs.length := by
    intro e he
    rcases List.mem_append.1 he with he | he
    · have := low e he; omega
    · exact (smEntries_keys e he).2
  unfold smSetMany
  rw [smGet_append (smWfFrom_append wlow low smWfFrom_smEntries (Nat.zero_le _)) both (smWfFrom_high h),
    smGet_append wlow low smWfFrom_smEntries]
  by_cases h1 : c < key
  · rw [if_pos (by omega), if_pos h1, if_neg (by omega), smGet_filter_low h h1]
  · by_cases h2 : c < key + xs.length
    · rw [if_pos h2, if_neg h1, if_pos ⟨by omega, h2⟩, smGet_smEntries, if_pos (by omega)]
    · rw [if_neg h2, if_neg (by omega), smGet_filter_high h (by omega)]

/-! ### Memories of bytes -/

theorem memSet_wf {m : Mem} (a : Nat) (b : Byte) (h : Mem.wf m) : Mem.wf (memSet m a b) := smWf_smSet a b h
theorem memSetBytes_wf {m : Mem} (a : Nat) (bs : List Byte) (h : Mem.wf m) : Mem.wf (memSetBytes m a bs) := smWf_smSetMany a bs h
theorem memSetNat_wf {m : Mem} (a n v : Nat) (h : Mem.wf m) : Mem.wf (memSetNat m a n v) := memSetBytes_wf a _ h
theorem memSetWord_wf {m : Mem} (a : Nat) (w : Word) (h : Mem.wf m) : Mem.wf (memSetWord m a w) := memSetBytes_wf a _ h
theorem memSetWords_wf {m : Mem} (a : Nat) (ws : List Word) (h : Mem.wf m) : Mem.wf (memSetWords m a ws) := memSetBytes_wf a _ h

theorem memGet_memSet {m : Mem} (a c : Nat) (b : Byte) (h : Mem.wf m) :
    memGet (memSet m a b) c = if c = a then b else memGet m c := smGet_smSet a c b h

theorem memGet_memSetBytes {m : Mem} (a c : Nat) (bs : List Byte) (h : Mem.wf m) :
    memGet (memSetBytes m a bs) c = if a ≤ c ∧ c < a + bs.length then bs.getD (c - a) 0 else memGet m c :=
  smGet_smSetMany a c bs h

/-- Memory with nothing listed is canonical. -/
theorem memory_nothing_listed_wf : Mem.wf [] := rfl

end Sys2Proof.Machine
end

