-- ==== Sys2Proof/Laws/Reads.lean ====
section
/-! SUPPORT. What errors met at a read, and blocks that leave a port, change: one equation for each operation. -/
namespace Sys2Proof.Machine

/-- Correction of the words read changes the list of single-bit errors and the counters alone (R94). -/
theorem correctRead_eq (a n : Nat) (s : State) :
    ∃ soft cnt, correctRead a n s = { s with dramSoft := soft, accCnt := cnt } := by
  unfold correctRead
  split
  · exact ⟨s.dramSoft, s.accCnt, rfl⟩
  · exact ⟨_, _, rfl⟩

/-- Turned bits lie in the memory wafer or in a descriptor file. -/
theorem turnBits_eq (w bits : Nat) (s : State) : ∃ dram desc, turnBits w bits s = { s with dram := dram, desc := desc } := by
  unfold turnBits
  split
  · exact ⟨_, s.desc, rfl⟩
  · exact ⟨s.dram, _, rfl⟩

/-- An uncorrectable word: its content, the lists of errors and the count of free values (R94, R97). -/
theorem markDouble_eq (w : Nat) (s : State) : ∃ free dram desc bad soft,
    markDouble w s = { s with free := free, dram := dram, desc := desc, dramBad := bad, dramSoft := soft } := by
  unfold markDouble
  split
  · exact ⟨s.free, s.dram, s.desc, s.dramBad, s.dramSoft, rfl⟩
  · obtain ⟨_, _, h⟩ := turnBits_eq w (errorBits (takeFree s).1) (takeFree s).2
    simp only [h]
    exact ⟨_, _, _, _, _, rfl⟩

/-- The errors a row brings: the words they turn, the lists of errors and the count of free values (R94). -/
theorem markEcc_eq (hits : List EccHit) (s : State) : ∃ free dram desc bad soft,
    markEcc hits s = { s with free := free, dram := dram, desc := desc, dramBad := bad, dramSoft := soft } := by
  unfold markEcc
  induction hits generalizing s with
  | nil => exact ⟨s.free, s.dram, s.desc, s.dramBad, s.dramSoft, rfl⟩
  | cons h hs ih =>
    rw [List.foldl_cons]
    split
    · obtain ⟨_, _, _, _, _, e⟩ := ih (markDouble h.word s)
      obtain ⟨_, _, _, _, _, g⟩ := markDouble_eq h.word s
      exact ⟨_, _, _, _, _, e.trans (by rw [g])⟩
    · split
      · exact ih s
      · obtain ⟨_, _, _, _, _, e⟩ := ih { s with dramSoft := insNat s.dramSoft h.word }
        exact ⟨_, _, _, _, _, e⟩

/-- Port blocks leave: their port and the record of what left change, nothing else (R262). -/
theorem sendBlocks_eq (p : Port) (bs : List PortBlock) (s : State) :
    ∃ x o, sendBlocks p bs s = { updPort s p (fun _ => x) with out := o } := ⟨_, _, rfl⟩

/-- Link control blocks leave: their port and the record of what left change, nothing else (R263, R264). -/
theorem sendCtl_eq (p : Port) (bs : List (BitVec 64)) (s : State) :
    ∃ x o, sendCtl p bs s = { updPort s p (fun _ => x) with out := o } := by
  obtain ⟨x, o, h⟩ := sendBlocks_eq p (bs.map (⟨true, ·⟩)) s
  simp only [sendCtl, h]
  exact ⟨x, _, rfl⟩

/-- A LANE_MARK group leaves: its port and the record of what left change, nothing else (R263). -/
theorem sendMarks_eq (p : Port) (on : BitVec 4) (s : State) :
    ∃ x o, sendMarks p on s = { updPort s p (fun _ => x) with out := o } := ⟨_, _, rfl⟩

/-- A slot leaves: its port and the record of what left change, nothing else (R293, R294). -/
theorem sendWire_eq (p : Port) (x : RawSlot) (stomp : Bool) (s : State) :
    ∃ y o, sendWire p x stomp s = { updPort s p (fun _ => y) with out := o } := by
  obtain ⟨y, o, h⟩ := sendBlocks_eq p (slotBlocks x (slotTrailer x stomp)) s
  simp only [sendWire, h]
  split
  · exact ⟨y, _, rfl⟩
  · exact ⟨y, _, rfl⟩

end Sys2Proof.Machine
end

