-- ==== Sys2Proof/Tests/Slice0.lean ====
section
/-! SUPPORT. Tests: terms that are not well formed, words and results written out from the spec, and for every obligation
with hypotheses a theorem `witness_<Name>` that gives, clause by clause, a concrete state and operands which meet them. -/
open Sys2Proof Sys2Proof.Machine
set_option Elab.async false
set_option maxRecDepth 10000
set_option linter.unusedVariables false
namespace Sys2Proof.Tests

/-! ### Small states -/

/-- The state after reset with nothing in eMRAM. -/
def base : State := { State.reset with nvm := {} }

/-- Instant 0. -/
def t0 : Instant := ⟨0, 0⟩

/-- A packet of node 0 that came over EAST: header words, parameter words, CRC. -/
def packetFor (op : Nat) (ws : List Word) (ver sel : Nat) : Packet :=
  { req := .owner, via := some .east, dest := 0, arrived := ⟨0, 0⟩
    bytes := wordsBytes (withCrc ([mkWord [(ver, 24), (op, 0)], mkWord [(ws.length, 16), (7, 0)], mkWord [(sel, 8)]] ++ ws)) }

/-- A state whose queue holds one command. -/
def cmdIn (op : Nat) (ws : List Word) (s : State := base) (ver : Nat := 1) (sel : Nat := 0) : State :=
  { s with bureau := { s.bureau with queue := [packetFor op ws ver sel] } }

/-- A bobbin with its registers, all 0 but P0. -/
def bob0 : Bobbin :=
  { v := List.replicate 32 (List.replicate 16 0), a := List.replicate 4 (List.replicate 16 0), s := List.replicate 16 0
    p := 0xFFFF :: List.replicate 7 0, ag := List.replicate 4 {}, running := true }

/-- Bobbin 0 with the check of its memories clean. -/
def bi : BobbinIssue := ⟨0, .clean⟩

/-- A state whose bobbin 0 issues an instruction at its PC. -/
def bobFor (i : Instr) (x : Bobbin := bob0) (s : State := base) : State :=
  let w := ((bobbinWord i).map (·.2)).getD 0
  { s with clock := { s.clock with limp := false }
           engines := { s.engines with bobbins := s.engines.bobbins.set 0 { x with imem := smSet 0 [] x.pc w } } }

/-- A state whose kernel 0 is as given. -/
def kern (k : Kernel) (s : State := base) : State := { s with engines := { s.engines with user := s.engines.user.set 0 k } }

/-- The state after reset with the root locked and node 0 at CMDVER 2. -/
def up : State := { base with clock.limp := false, accum.selfRefresh := false, bureau.verOwner := 2, bureau.verTwa := 2 }

/-- A frame that begins at 0. -/
def fr (c : CaptureCfg := {}) (p : FrameParams := {}) : FrameRec :=
  { id := 1, fb := 0, stamp := 0, gFirst := 0, params := p, pipe := {}, cfg := c, mask := [] }

/-- Capture runs, and sub-frame j of a frame comes next. -/
def capt (f : FrameRec) (j : Nat) (s : State := up) : State :=
  { s with exposure.cur := some f, exposure.phase := .running, exposure.nextJ := j, exposure.frameId := f.id
           exposure.nextId := f.id + 1, expCnt.framesStarted := 1 }

/-- Sub-frame 0 of a frame is read. -/
def reading (f : FrameRec) (s : State := up) : State :=
  { capt f 1 s with readout.run := some ⟨f, 0, 0, 100000⟩ }

/-- A frame in a history slot. -/
def held (f : FrameRec) : HistFrame :=
  { frame := f, ob := {}, black := {}, flicker := [], order := 0, released := 0, frozen := true }

/-- An accumulation in progress: the frame, and one sub-frame whose readout has ended. -/
def accing (f : FrameRec) (s : State := up) : State :=
  { capt f 1 s with accum.frames := [{ frame := f, readCount := 1 }]
                    accum.jobs := [{ g := 0, frame := f.id, j := 0, sb := 100000, readDone := true }] }

/-- A stream packet of a type, with its CRC. -/
def streamPacket (ty : Nat) (ws : List Word) : List Word :=
  let l := mkWord [(ty, 28), (ws.length + 2, 0)] :: ws
  l ++ [(crc16 (wordsBytes l)).zeroExtend 32]

/-- Context 1 takes a FOREIGN source. -/
def ing (x : IngressFrame := {}) (s : State := up) : State :=
  { s with front.ctx1 := { enable := true, prio := false, kind := 3, srcNode := 5, srcPort := 9, height := 2, width := 16 }
           front.ingress := [x, {}] }

/-- A kernel image of the smallest header and some instructions. -/
def image (code : List Word) (crc : Bool := true) : List (Nat × Word) :=
  let ws : List Word := [0xD1A50001, wordOf (68 + 4 * code.length), 0x0101, 0, 0x00010000, 1, 0xFFFFFFFF, 0,
    64, wordOf (4 * code.length), 0, 0, 0, 0, 0, 0] ++ code
  smEntries 0 0 (if crc then withCrc ws else ws)

/-- Stream 0 runs on port 1. -/
def str (x : StreamState := { enabled := true }) (s : State := up) : State :=
  { s with streams := s.streams.set 0 x, ring.ports := s.ring.ports.set 0 (some { port := 1, dest := 0, dir := false, basted := false, rsv := 0, peak := 1000 }) }

/-- Channel i as given. -/
def chanOf (i : Nat) (c : ChannelState) (s : State := up) : State := updChannel s i fun _ => c

/-- A channel's frame. -/
def run0 : ChannelRun :=
  { ctx := 0, id := 1, basted := false, hdr := {}, marks := {}, cropY := 0, cropX := 0, inset := none, insetBlack := false }

/-- A packet from TWA. -/
def twPacket (op : Nat) (ws : List Word) (ver : Nat) : Packet :=
  { req := .twa, dest := 127, arrived := ⟨0, 0⟩
    bytes := wordsBytes (withCrc ([mkWord [(ver, 24), (op, 0)], mkWord [(ws.length, 16), (7, 0)], 127] ++ ws)) }

/-- A state whose queue holds one command from TWA. -/
def cmdTw (op : Nat) (ws : List Word) (s : State := up) (ver : Nat := 1) : State :=
  { s with bureau := { s.bureau with queue := [twPacket op ws ver] } }

/-- Port EAST as given. -/
def east (x : TrunkPort) (s : State := up) : State := { s with east := x }

/-- A replayed slot. -/
def rep0 : ReplaySlot := { seq := 0, slot := emptySlot 0 false, stomp := false, sends := 1 }

/-! ### Terms that are not well formed -/

theorem test_wf_selftest_fail_index : (Instr.selftestComplete t0 [800832] []).wellFormed = false := by decide
theorem test_wf_selftest_fail_order : (Instr.selftestComplete t0 [5, 5] []).wellFormed = false := by decide
theorem test_wf_selftest_measure : (Instr.selftestComplete t0 [] [⟨800832, 1, 0, 0, true⟩]).wellFormed = false := by decide
theorem test_wf_motion_words : (Instr.motionSubframeStart t0 [⟨0x20021000, true⟩]).wellFormed = false := by decide
theorem test_wf_tile_pixels : (Instr.tileAccumulationStart t0 0 4097 [] []).wellFormed = false := by decide
theorem test_wf_tile_words : (Instr.tileAccumulationStart t0 0 0 [⟨4, true⟩, ⟨3, true⟩] []).wellFormed = false := by decide
theorem test_wf_tile_parity : (Instr.tileAccumulationStart t0 0 0 [] [4096]).wellFormed = false := by decide
theorem test_wf_vector_deadline : (Instr.vectorDeadline t0 12289).wellFormed = false := by decide
theorem test_wf_band_words : (Instr.frontBandSelect t0 [⟨7, false⟩, ⟨7, true⟩]).wellFormed = false := by decide
theorem test_wf_xfer_words : (Instr.xferComplete 0 0 [⟨0x20021000, false⟩]).wellFormed = false := by decide
theorem test_wf_peek_words : (Instr.peek ⟨t0, [⟨3, false⟩, ⟨2, false⟩]⟩).wellFormed = false := by decide
theorem test_wf_drain_words : (Instr.streamPacketDrain ⟨t0, [⟨0x20021000, false⟩]⟩ 8).wellFormed = false := by decide
theorem test_wf_scrub_range : (Instr.scrubAccess t0 0x100000000 .clean).wellFormed = false := by decide
theorem test_wf_scrub_align : (Instr.scrubAccess t0 4 .clean).wellFormed = false := by decide
theorem test_wf_hang_kernel : (Instr.kernelHangTimeout t0 0x84 0).wellFormed = false := by decide
theorem test_wf_bringup_fom : (Instr.bringupStageComplete t0 .east 0 [⟨1, 2⟩]).wellFormed = false := by decide
theorem test_wf_fom_measure : (Instr.fomMeasure t0 .east []).wellFormed = false := by decide
theorem test_wf_slot_blocks :
    (Instr.hopSlotReceive t0 .east (List.replicate 35 ⟨0, 1, 0⟩) (List.replicate 4 0) 0).wellFormed = false := by decide
theorem test_wf_slot_lanes : (Instr.hopSlotReceive t0 .east [] [0, 0, 0] 0).wellFormed = false := by decide
/-- A management slot with one word too many. -/
def longMgmt : MgmtSlot := ⟨0, 0, false, 0, List.replicate 65 0⟩
theorem test_wf_mgmt :
    ([.discover t0 .east longMgmt, .probe t0 .east longMgmt 0, .claimed t0 .east longMgmt 0, .assign t0 .east longMgmt,
      .topology t0 .east longMgmt, .rotor t0 .east longMgmt, .wrap t0 .east longMgmt, .claim t0 .east longMgmt,
      .portHeld t0 .east longMgmt, .delayReq t0 .east longMgmt, .delayResp t0 .east longMgmt,
      .time t0 .east longMgmt].all fun i => !Instr.wellFormed i) = true := by decide
theorem test_wf_backoff :
    ([.probe t0 .east ⟨0, 0, false, 0, []⟩ 1024, .claimed t0 .east ⟨0, 0, false, 0, []⟩ 1024].all
      fun i => !Instr.wellFormed i) = true := by decide
theorem test_wf_clock_monitor : (Instr.clockMonitorWindow t0 0 0 [1, 2, 3]).wellFormed = false := by decide
theorem test_wf_sensors : (Instr.sensorSample t0 []).wellFormed = false := by decide
theorem test_wf_ibr_answers : (Instr.ibrRecognised t0 .a (List.replicate 9 none)).wellFormed = false := by decide
theorem test_wf_bus_recovery : (Instr.busRecovery t0 .a 10 true).wellFormed = false := by decide
theorem test_wf_eye_scan : (Instr.eyeScanComplete t0 .east (List.replicate 9 0)).wellFormed = false := by decide
/-- Bobbin instructions whose fields lie outside the encodings: type 3, an op beyond the table, an unused field. -/
theorem test_wf_bobbin :
    ([.vop bi 0 0 0 0 3 0, .vop bi 0 0 0 0 1 0x13, .vop bi 0 0 1 0 1 0x10, .vops bi 0 0 0 0 0 0x11, .sop bi 0 0 0 14,
      .bcc bi 6 0 0 0, .jmp bi 3 0 0 0, .jmp bi 0 1 0 0, .vmul bi 0 0 0 0 false false 3, .vcmp bi 0 0 0 0 0 6,
      .plog bi 0 0 0 6, .plog bi 0 0 1 4, .vshift bi 0 0 0 17, .vshuf bi 0 0 0 6 0, .vred bi 0 0 0 0 0 5,
      .vred bi 16 0 0 0 0 0].all fun i => !Instr.wellFormed i) = true := by decide
theorem test_wf_accepts :
    ([.vop bi 3 1 2 2 1 2, .nop bi, .identify t0, .busRecovery t0 .a 9 true, .vectorDeadline t0 12288].all
      Instr.wellFormed) = true := by decide

/-! ### Words and results that the spec writes out -/

/-- VOP V3, V1, V2 with ADDS, type s20 under P2: OP 0x01, RD 3, RA 1, RB 2, FN 0x242 (R227, R228). -/
theorem test_word_vop : decodeBobbin bi t0 0 0b000001_00011_00001_00010_01001000010 = some (.vop bi 3 1 2 2 1 2) := by decide
/-- VCMPS P1, V4, S3 with GT and s20: OP 0x19, RD 1, RA 4, RB 3, FN 0x044 (R227, R230). -/
theorem test_word_vcmps : decodeBobbin bi t0 0 0b011001_00001_00100_00011_00001000100 = some (.vcmps bi 1 4 3 0 1 4) := by decide
/-- OP 0x07 is no instruction (R227). -/
theorem test_word_reserved : decodeBobbin bi t0 0 0b000111_00000_00000_00000_00000000000 = none := by decide
/-- A tile's descriptor (worked example of R106). -/
theorem test_descriptor :
    tileDescriptor false { neff := 14, conf := 3, mvx := -3, mvy := 5, stale := true, ghost := true, sat := true } 3 4 4 =
      0x317DE744 := by decide
/-- Sums of 14 and of 13 samples at exponent 4 (worked example of R104). -/
theorem test_quotients : quotient 28010 14 4 4 = 64023 ∧ quotient 26013 13 4 4 = 64032 := by decide
/-- Dark terms at 75 °C (worked example of R140). -/
theorem test_dark_terms : darkTerm 768 70 1200 20000000 = 6554 ∧ darkTerm 896 70 1200 20000000 = 7646 := by decide +kernel
/-- One pixel's black level and shading (worked examples of R141 and R148). -/
theorem test_black_and_shading : blackPixel 32256 0 0 8208 = 15487 ∧ shadePixel 15487 20445 0 = 19326 := by decide
/-- A block of ratio 8.2 that has never been trimmed (worked example of R47). -/
theorem test_ratio_trim : newTrim 0 ⟨0, 1000, 2800000, 2731707, true⟩ = some 25 := by decide
/-- A Filet block: its bits, header first, and the last reconstructed sample (worked example of R214). -/
theorem test_filet_block :
    codeBlock 10 2 512 [515, 518, 530, 529, 540, 600, 598, 601] =
      (putBits 0b00001000010 11 ++ putBits 0b010 3 ++ putBits 0b000 3 ++ putBits 0b1010 4 ++ putBits 0b001 3 ++
        putBits 0b1010 4 ++ putBits 0b111111000 9 ++ putBits 0b001 3 ++ putBits 0b010 3, 602) := by decide
/-- A raw result calibrated, and a mean aligned left (worked examples of R466 and R472). -/
theorem test_mcv_result : calibrated ⟨0, 0, 0, false, 1240, 1072454878, false, 0, false⟩ 1001300 = 998861 := by decide
theorem test_mcv_mean : (accWords true { sum := 2996584, count := 3 }).getD 0 0 = 0x0F3DCD55 := by decide
/-- The check value of the CRC-32 of IEEE 802.3, over the digits 1 to 9 (R153). -/
theorem test_crc32 : crc32 [0x31, 0x32, 0x33, 0x34, 0x35, 0x36, 0x37, 0x38, 0x39] = 0xCBF43926 := by decide +kernel

/-- The digest of the message "abc" (the example of FIPS 180-4; R416). -/
theorem test_sha256 :
    sha256 [0x61, 0x62, 0x63] = 0xBA7816BF8F01CFEA414140DE5DAE2223B00361A396177A9CB410FF61F20015AD := by decide +kernel

/-! ### Steps -/

/-- NEGOTIATE from node 0 puts its version in force. -/
theorem test_step_negotiate :
    (match step { cmdIn 2 [2] with pending := [.negotiate t0, .identify t0] } with
      | .next u => u.bureau.verOwner == 2 && u.pending == [.identify t0] && u.bureau.cmdsExecuted == 1
      | _ => false) = true := by decide +kernel
/-- VOP ADDS on lanes of s20 saturates and leaves lanes outside the predicate. -/
theorem test_step_vop :
    (let i := Instr.vop bi 3 1 2 2 1 2
     let x := { bob0 with v := (bob0.v.set 1 (List.replicate 16 0x7FFFF)).set 2 (List.replicate 16 1), p := bob0.p.set 2 1 }
     match step { bobFor i x with pending := [i] } with
      | .next u => (vReg (u.engines.bobbins.getD 0 {}) 3).take 2 == [0x7FFFF, 0] && (u.engines.bobbins.getD 0 {}).pc == 1
      | _ => false) = true := by decide +kernel

/-! ### What the obligations assume is met -/

/-- What BobbinWordsAndInstructionsCorrespond assumes is met, clause by clause. -/
theorem witness_BobbinWordsAndInstructionsCorrespond :
    (let b : BobbinIssue := bi; let t : Instant := t0; let count : Word := 0; let w : Word := 0x04611242; let i : Instr := (decodeBobbin bi t0 0 0x04611242).getD (.nop bi); decide ((decodeBobbin b t count w = some i)) : Bool) = true ∧
    (let i : Instr := .vop bi 3 1 2 1 1 2; let b : BobbinIssue := bi; let w : Word := encWord 1 3 1 2 (typedFn 1 1 2); decide ((bobbinWord i = some (b, w)) ∧ (i.wellFormed = true)) : Bool) = true ∧
    (let b : BobbinIssue := bi; let t : Instant := t0; let count : Word := 0; let w : Word := 0x64241844; decide ((legalWord w = true)) : Bool) = true := by
  and_intros <;> decide +kernel

/-- What VectorAluLaneResults assumes is met, clause by clause. -/
theorem witness_VectorAluLaneResults :
    (let ty : ℕ := 2; let a : Px := 0x7FFFF; let b : Px := 1; decide ((ty = 1 ∨ ty = 2)) : Bool) = true ∧
    (let ty : ℕ := 0; let a : Px := 1; let b : Px := 19; decide ((b.toNat % 32 < 20)) : Bool) = true ∧
    (let ty : ℕ := 1; let a : Px := 0xFFFFF; let b : Px := 20; decide ((20 ≤ b.toNat % 32)) : Bool) = true ∧
    (let ty : ℕ := 1; let a : Px := 0x80000; let b : Px := 31; decide ((ty = 1 ∨ ty = 2) ∧ (20 ≤ b.toNat % 32)) : Bool) = true ∧
    (let a : Px := 0xFFFFF; let b : Px := 19; decide ((b.toNat % 32 < 20)) : Bool) = true ∧
    (let ty : ℕ := 2; let a : Px := 0x80000; let b : Px := 19; decide ((ty = 1 ∨ ty = 2) ∧ (b.toNat % 32 < 20)) : Bool) = true ∧
    (let a : Px := 0xFFFFF; let b : Px := 1; decide ((1 ≤ b.toNat % 32) ∧ (b.toNat % 32 < 20)) : Bool) = true ∧
    (let ty : ℕ := 1; let a : Px := 0x80000; let b : Px := 19; decide ((ty = 1 ∨ ty = 2) ∧ (1 ≤ b.toNat % 32) ∧ (b.toNat % 32 < 20)) : Bool) = true ∧
    (let ty : ℕ := 2; let a : Px := 5; let b : Px := 32; decide ((ty ≤ 2) ∧ (b.toNat % 32 = 0)) : Bool) = true ∧
    (let b : BobbinIssue := bi; let vd : BitVec 5 := 31; let va : BitVec 5 := 30; let vb : BitVec 5 := 29; let p : BitVec 3 := 7; let ty : BitVec 2 := 2; let op : BitVec 6 := 2; let s : State := bobFor (.vop b vd va vb p ty op); (match issuing (.vop b vd va vb p ty op) s with | some (n, x) => true | _ => false) : Bool) = true := by
  and_intros <;> decide +kernel

/-- What VectorInstructionsWriteTheirRegister assumes is met, clause by clause. -/
theorem witness_VectorInstructionsWriteTheirRegister :
    (let b : BobbinIssue := bi; let vd : BitVec 5 := 31; let va : BitVec 5 := 30; let vb : BitVec 5 := 29; let p : BitVec 3 := 7; let ty : BitVec 2 := 2; let op : BitVec 6 := 2; let s : State := bobFor (.vop b vd va vb p ty op); (match issuing (.vop b vd va vb p ty op) s with | some (n, x) => true | _ => false) : Bool) = true ∧
    (let b : BobbinIssue := bi; let vd : BitVec 5 := 31; let va : BitVec 5 := 30; let sb : BitVec 4 := 15; let p : BitVec 3 := 0; let ty : BitVec 2 := 0; let op : BitVec 6 := 0; let s : State := bobFor (.vops b vd va sb p ty op); (match issuing (.vops b vd va sb p ty op) s with | some (n, x) => true | _ => false) : Bool) = true ∧
    (let b : BobbinIssue := bi; let vd : BitVec 5 := 31; let imm : BitVec 20 := 5; let s : State := bobFor (.vimm b vd imm); (match issuing (.vimm b vd imm) s with | some (n, x) => true | _ => false) : Bool) = true ∧
    (let b : BobbinIssue := bi; let vd : BitVec 5 := 1; let va : BitVec 5 := 2; let vb : BitVec 5 := 3; let pn : BitVec 3 := 7; let s : State := bobFor (.vsel b vd va vb pn); (match issuing (.vsel b vd va vb pn) s with | some (n, x) => true | _ => false) : Bool) = true ∧
    (let b : BobbinIssue := bi; let vd : BitVec 5 := 1; let va : BitVec 5 := 2; let vb : BitVec 5 := 3; let k : BitVec 5 := 15; let s : State := bobFor (.vshift b vd va vb k); (match issuing (.vshift b vd va vb k) s with | some (n, x) => true | _ => false) : Bool) = true ∧
    (let b : BobbinIssue := bi; let vd : BitVec 5 := 1; let va : BitVec 5 := 2; let vb : BitVec 5 := 0; let op : BitVec 5 := 0; let ln : BitVec 4 := 0; let s : State := bobFor (.vshuf b vd va vb op ln); (match issuing (.vshuf b vd va vb op ln) s with | some (n, x) => true | _ => false) : Bool) = true ∧
    (let ln : ℕ := 15; let a : List Px := (List.range 16).map (BitVec.ofNat 20); let b : List Px := []; let i : ℕ := 15; decide ((i < 16)) : Bool) = true ∧
    (let ln : ℕ := 0; let a : List Px := []; let b : List Px := []; let i : ℕ := 7; decide ((i < 8)) : Bool) = true := by
  and_intros <;> decide +kernel

/-- What VectorReductionsWriteTheirResult assumes is met, clause by clause. -/
theorem witness_VectorReductionsWriteTheirResult :
    (let b : BobbinIssue := bi; let rd : BitVec 5 := 1; let ra : BitVec 5 := 2; let ln : BitVec 5 := 15; let p : BitVec 3 := 7; let ty : BitVec 2 := 1; let op : BitVec 6 := 3; let s : State := bobFor (.vred b rd ra ln p ty op); (match issuing (.vred b rd ra ln p ty op) s with | some (n, x) => decide ((op ≠ 4)) | _ => false) : Bool) = true ∧
    (let b : BobbinIssue := bi; let rd : BitVec 5 := 1; let ra : BitVec 5 := 2; let ln : BitVec 5 := 15; let p : BitVec 3 := 0; let ty : BitVec 2 := 0; let s : State := bobFor (.vred b rd ra ln p ty 4); (match issuing (.vred b rd ra ln p ty 4) s with | some (n, x) => true | _ => false) : Bool) = true ∧
    (let ty : ℕ := 1; let ln : ℕ := 0; let m : BitVec 16 := 0x8001; let v : List Px := (List.range 16).map fun i => BitVec.ofNat 20 (0x80000 + i); decide ((m ≠ 0)) : Bool) = true := by
  and_intros <;> decide +kernel

/-- What ScalarInstructionsWriteTheirRegister assumes is met, clause by clause. -/
theorem witness_ScalarInstructionsWriteTheirRegister :
    (let b : BobbinIssue := bi; let sd : BitVec 4 := 1; let sa : BitVec 4 := 2; let sb : BitVec 4 := 3; let op : BitVec 4 := 10; let s : State := bobFor (.sop b sd sa sb op); (match issuing (.sop b sd sa sb op) s with | some (n, x) => decide ((openShift op.toNat (sReg x sb.toNat) = false)) | _ => false) : Bool) = true ∧
    (let b : BobbinIssue := bi; let sd : BitVec 4 := 1; let sa : BitVec 4 := 2; let sb : BitVec 4 := 3; let op : BitVec 4 := 5; let s : State := bobFor (.sop b sd sa sb op) { bob0 with s := List.replicate 16 32 }; (match issuing (.sop b sd sa sb op) s with | some (n, x) => decide ((openShift op.toNat (sReg x sb.toNat) = true)) | _ => false) : Bool) = true ∧
    (let b : BobbinIssue := bi; let sd : BitVec 4 := 1; let sa : BitVec 4 := 2; let imm : BitVec 16 := 0xFFFF; let s : State := bobFor (.saddi b sd sa imm); (match issuing (.saddi b sd sa imm) s with | some (n, x) => true | _ => false) : Bool) = true ∧
    (let b : BobbinIssue := bi; let sd : BitVec 4 := 15; let imm : BitVec 16 := 0xFFFF; let s : State := bobFor (.slui b sd imm); (match issuing (.slui b sd imm) s with | some (n, x) => true | _ => false) : Bool) = true ∧
    (let b : BobbinIssue := bi; let sd : BitVec 4 := 1; let sa : BitVec 4 := 2; let imm : BitVec 16 := 0xFFFF; let s : State := bobFor (.sori b sd sa imm); (match issuing (.sori b sd sa imm) s with | some (n, x) => true | _ => false) : Bool) = true ∧
    (let b : BobbinIssue := bi; let sr : BitVec 4 := 15; let p : BitVec 3 := 7; let s : State := bobFor (.pxfer b false sr p); (match issuing (.pxfer b false sr p) s with | some (n, x) => true | _ => false) : Bool) = true ∧
    (let b : BobbinIssue := bi; let sd : BitVec 4 := 1; let queue : Fin 2 := 1; let field : BitVec 3 := 7; let s : State := bobFor (.smeta b sd queue field); (match issuing (.smeta b sd queue field) s with | some (n, x) => true | _ => false) : Bool) = true ∧
    (let b : BobbinIssue := bi; let sd : BitVec 4 := 1; let count : Word := 9; let s : State := bobFor (.cycles b sd count); (match issuing (.cycles b sd count) s with | some (n, x) => true | _ => false) : Bool) = true ∧
    (let a : Word := 0xFFFFFFFF; let c : Word := 31; decide ((c.toNat < 32)) : Bool) = true := by
  and_intros <;> decide +kernel

/-- What PredicateInstructionsWriteTheirMask assumes is met, clause by clause. -/
theorem witness_PredicateInstructionsWriteTheirMask :
    (let b : BobbinIssue := bi; let pd : BitVec 3 := 7; let va : BitVec 5 := 1; let vb : BitVec 5 := 2; let p : BitVec 3 := 7; let ty : BitVec 2 := 2; let cond : BitVec 3 := 5; let s : State := bobFor (.vcmp b pd va vb p ty cond); (match issuing (.vcmp b pd va vb p ty cond) s with | some (n, x) => true | _ => false) : Bool) = true ∧
    (let b : BobbinIssue := bi; let pd : BitVec 3 := 1; let va : BitVec 5 := 1; let sb : BitVec 4 := 2; let p : BitVec 3 := 0; let ty : BitVec 2 := 0; let cond : BitVec 3 := 0; let s : State := bobFor (.vcmps b pd va sb p ty cond); (match issuing (.vcmps b pd va sb p ty cond) s with | some (n, x) => true | _ => false) : Bool) = true ∧
    (let b : BobbinIssue := bi; let pd : BitVec 3 := 7; let pa : BitVec 3 := 1; let pb : BitVec 3 := 0; let op : BitVec 3 := 5; let s : State := bobFor (.plog b pd pa pb op); (match issuing (.plog b pd pa pb op) s with | some (n, x) => true | _ => false) : Bool) = true ∧
    (let b : BobbinIssue := bi; let sr : BitVec 4 := 15; let p : BitVec 3 := 7; let s : State := bobFor (.pxfer b true sr p); (match issuing (.pxfer b true sr p) s with | some (n, x) => true | _ => false) : Bool) = true ∧
    (let p : ℕ := 7; let m : BitVec 16 := 5; let x : Bobbin := bob0; decide ((p ≠ 0) ∧ (p < x.p.length)) : Bool) = true ∧
    (let p : ℕ := 7; let m : BitVec 16 := 5; let x : Bobbin := bob0; let q := 3; decide ((p ≠ 0) ∧ (p < x.p.length) ∧ (q ≠ p)) : Bool) = true ∧
    (let m : BitVec 16 := 0xFFFF; let f : ℕ → Bool := fun _ => true; let i : ℕ := 15; decide ((i < 16)) : Bool) = true ∧
    (let b : BobbinIssue := bi; let vd : BitVec 5 := 1; let va : BitVec 5 := 2; let vb : BitVec 5 := 3; let pn : BitVec 3 := 7; let s : State := bobFor (.vsel b vd va vb pn); (match issuing (.vsel b vd va vb pn) s with | some (n, x) => true | _ => false) : Bool) = true ∧
    (let b : BobbinIssue := bi; let sr : BitVec 4 := 15; let p : BitVec 3 := 7; let s : State := bobFor (.pxfer b false sr p); (match issuing (.pxfer b false sr p) s with | some (n, x) => true | _ => false) : Bool) = true := by
  and_intros <;> decide +kernel

/-- What AccumulatorInstructionsSaturate assumes is met, clause by clause. -/
theorem witness_AccumulatorInstructionsSaturate :
    (let b : BobbinIssue := bi; let ad : BitVec 2 := 3; let va : BitVec 5 := 1; let vb : BitVec 5 := 2; let p : BitVec 3 := 7; let asg : Bool := true; let bsg : Bool := false; let op : BitVec 6 := 2; let s : State := bobFor (.vmul b ad va vb p asg bsg op); (match issuing (.vmul b ad va vb p asg bsg op) s with | some (n, x) => true | _ => false) : Bool) = true ∧
    (let b : BobbinIssue := bi; let ad : BitVec 2 := 3; let va : BitVec 5 := 1; let sb : BitVec 4 := 2; let p : BitVec 3 := 7; let asg : Bool := true; let bsg : Bool := false; let op : BitVec 6 := 0; let s : State := bobFor (.vmuls b ad va sb p asg bsg op); (match issuing (.vmuls b ad va sb p asg bsg op) s with | some (n, x) => true | _ => false) : Bool) = true ∧
    (let b : BobbinIssue := bi; let ad : BitVec 2 := 3; let va : BitVec 5 := 1; let zero : Bool := false; let signed : Bool := true; let shift : BitVec 5 := 23; let s : State := bobFor (.aset b ad va zero signed shift); (match issuing (.aset b ad va zero signed shift) s with | some (n, x) => true | _ => false) : Bool) = true ∧
    (let b : BobbinIssue := bi; let vd : BitVec 5 := 31; let aa : BitVec 2 := 3; let clear : Bool := true; let round : Bool := true; let s20 : Bool := true; let shift : BitVec 5 := 31; let s : State := bobFor (.arnd b vd aa clear round s20 shift); (match issuing (.arnd b vd aa clear round s20 shift) s with | some (n, x) => true | _ => false) : Bool) = true ∧
    (let shift : ℕ := 31; let v : ℤ := -5; decide ((1 ≤ shift)) : Bool) = true := by
  and_intros <;> decide +kernel

/-- What ControlFlowMovesTheProgramCounter assumes is met, clause by clause. -/
theorem witness_ControlFlowMovesTheProgramCounter :
    (let b : BobbinIssue := bi; let s : State := bobFor (.nop b); (match issuing (.nop b) s with | some (n, x) => true | _ => false) : Bool) = true ∧
    (let b : BobbinIssue := bi; let cond : BitVec 5 := 1; let sa : BitVec 4 := 1; let sb : BitVec 4 := 2; let off : BitVec 11 := 3; let s : State := bobFor (.bcc b cond sa sb off); (match issuing (.bcc b cond sa sb off) s with | some (n, x) => decide ((branchHolds cond.toNat (sReg x sa.toNat) (sReg x sb.toNat) = false)) | _ => false) : Bool) = true ∧
    (let b : BobbinIssue := bi; let cond : BitVec 5 := 0; let sa : BitVec 4 := 1; let sb : BitVec 4 := 2; let off : BitVec 11 := 0x7FF; let s : State := bobFor (.bcc b cond sa sb off); (match issuing (.bcc b cond sa sb off) s with | some (n, x) => decide ((branchHolds cond.toNat (sReg x sa.toNat) (sReg x sb.toNat) = true) ∧ (leavesLoop x (branchTarget x.pc off) = false)) | _ => false) : Bool) = true ∧
    (let b : BobbinIssue := bi; let cond : BitVec 5 := 0; let sa : BitVec 4 := 1; let sb : BitVec 4 := 2; let off : BitVec 11 := 8; let s : State := bobFor (.bcc b cond sa sb off) { bob0 with loops := [⟨0, 1, 2⟩] }; (match issuing (.bcc b cond sa sb off) s with | some (n, x) => decide ((branchHolds cond.toNat (sReg x sa.toNat) (sReg x sb.toNat) = true) ∧ (leavesLoop x (branchTarget x.pc off) = true)) | _ => false) : Bool) = true ∧
    (let b : BobbinIssue := bi; let sd : BitVec 4 := 0; let sa : BitVec 4 := 0; let target : BitVec 12 := 0xFFF; let s : State := bobFor (.jmp b 0 sd sa target); (match issuing (.jmp b 0 sd sa target) s with | some (n, x) => decide ((leavesLoop x target.toNat = false)) | _ => false) : Bool) = true ∧
    (let b : BobbinIssue := bi; let sd : BitVec 4 := 1; let sa : BitVec 4 := 0; let target : BitVec 12 := 0xFFF; let s : State := bobFor (.jmp b 1 sd sa target); (match issuing (.jmp b 1 sd sa target) s with | some (n, x) => decide ((leavesLoop x target.toNat = false)) | _ => false) : Bool) = true ∧
    (let b : BobbinIssue := bi; let sd : BitVec 4 := 0; let sa : BitVec 4 := 1; let target : BitVec 12 := 0; let s : State := bobFor (.jmp b 2 sd sa target); (match issuing (.jmp b 2 sd sa target) s with | some (n, x) => decide ((leavesLoop x (fldN (sReg x sa.toNat) 0 12) = false)) | _ => false) : Bool) = true ∧
    (let b : BobbinIssue := bi; let sa : BitVec 4 := 1; let len : BitVec 11 := 3; let s : State := bobFor (.loop b sa len); (match issuing (.loop b sa len) s with | some (n, x) => decide ((sReg x sa.toNat = 0)) | _ => false) : Bool) = true ∧
    (let b : BobbinIssue := bi; let sa : BitVec 4 := 1; let len : BitVec 11 := 1; let s : State := bobFor (.loop b sa len) { bob0 with s := List.replicate 16 1 }; (match issuing (.loop b sa len) s with | some (n, x) => decide ((sReg x sa.toNat ≠ 0) ∧ (len ≠ 0) ∧ (x.loops.length < 2)) | _ => false) : Bool) = true ∧
    (let b : BobbinIssue := bi; let sa : BitVec 4 := 1; let len : BitVec 11 := 1; let s : State := bobFor (.loop b sa len) { bob0 with s := List.replicate 16 1, loops := [⟨0, 3, 2⟩, ⟨0, 9, 2⟩] }; (match issuing (.loop b sa len) s with | some (n, x) => decide ((sReg x sa.toNat ≠ 0) ∧ (len ≠ 0) ∧ (2 ≤ x.loops.length)) | _ => false) : Bool) = true ∧
    (let x : Bobbin := bob0; decide ((x.loops = [])) : Bool) = true ∧
    (let x : Bobbin := { bob0 with loops := [⟨0, 3, 2⟩] }; let l : LoopLevel := ⟨0, 3, 2⟩; let ls : List LoopLevel := []; decide ((x.loops = l :: ls) ∧ (l.last ≠ x.pc)) : Bool) = true ∧
    (let x : Bobbin := { bob0 with loops := [⟨0, 0, 2⟩] }; let l : LoopLevel := ⟨0, 0, 2⟩; let ls : List LoopLevel := []; decide ((x.loops = l :: ls) ∧ (l.last = x.pc) ∧ (1 < l.left)) : Bool) = true ∧
    (let x : Bobbin := { bob0 with loops := [⟨0, 0, 1⟩] }; let l : LoopLevel := ⟨0, 0, 1⟩; decide ((x.loops = [l]) ∧ (l.last = x.pc) ∧ (l.left ≤ 1)) : Bool) = true := by
  and_intros <;> decide +kernel

/-- What LoadsAndStoresStayInTheirBobbin assumes is met, clause by clause. -/
theorem witness_LoadsAndStoresStayInTheirBobbin :
    (let b : BobbinIssue := bi; let vd : BitVec 5 := 31; let sa : BitVec 4 := 1; let off : BitVec 11 := 0; let s : State := bobFor (.vld b vd sa off) { bob0 with s := List.replicate 16 2047 }; (match issuing (.vld b vd sa off) s with | some (n, x) => decide ((addrOf (sReg x sa.toNat) off < 2048)) | _ => false) : Bool) = true ∧
    (let b : BobbinIssue := bi; let vs : BitVec 5 := 31; let sa : BitVec 4 := 1; let off : BitVec 11 := 0; let s : State := bobFor (.vst b vs sa off) { bob0 with s := List.replicate 16 2047 }; (match issuing (.vst b vs sa off) s with | some (n, x) => decide ((addrOf (sReg x sa.toNat) off < 2048)) | _ => false) : Bool) = true ∧
    (let b : BobbinIssue := bi; let vd : BitVec 5 := 31; let ag : BitVec 2 := 3; let s : State := bobFor (.vlda b vd ag) { bob0 with ag := List.replicate 4 { cur := 2047 } }; (match issuing (.vlda b vd ag) s with | some (n, x) => decide (((agReg x ag.toNat).cur.toNat < 2048)) | _ => false) : Bool) = true ∧
    (let b : BobbinIssue := bi; let vs : BitVec 5 := 31; let ag : BitVec 2 := 3; let p : BitVec 3 := 7; let s : State := bobFor (.vsta b vs ag p) { bob0 with ag := List.replicate 4 { cur := 2047 } }; (match issuing (.vsta b vs ag p) s with | some (n, x) => decide (((agReg x ag.toNat).cur.toNat < 2048)) | _ => false) : Bool) = true ∧
    (let b : BobbinIssue := bi; let ag : BitVec 2 := 3; let sa : BitVec 4 := 1; let sb : BitVec 4 := 2; let s : State := bobFor (.agset b ag sa sb false); (match issuing (.agset b ag sa sb false) s with | some (n, x) => true | _ => false) : Bool) = true ∧
    (let b : BobbinIssue := bi; let ag : BitVec 2 := 3; let sa : BitVec 4 := 1; let sb : BitVec 4 := 2; let s : State := bobFor (.agset b ag sa sb true); (match issuing (.agset b ag sa sb true) s with | some (n, x) => true | _ => false) : Bool) = true ∧
    (let b : BobbinIssue := bi; let sd : BitVec 4 := 1; let sa : BitVec 4 := 1; let off : BitVec 11 := 0; let s : State := bobFor (.sld b sd sa off) { bob0 with s := List.replicate 16 2047 }; (match issuing (.sld b sd sa off) s with | some (n, x) => decide ((addrOf (sReg x sa.toNat) off < 2048)) | _ => false) : Bool) = true ∧
    (let b : BobbinIssue := bi; let ss : BitVec 4 := 15; let sa : BitVec 4 := 1; let off : BitVec 11 := 0; let s : State := bobFor (.sst b ss sa off) { bob0 with s := List.replicate 16 2047 }; (match issuing (.sst b ss sa off) s with | some (n, x) => decide ((addrOf (sReg x sa.toNat) off < 2048)) | _ => false) : Bool) = true ∧
    (let g : AddrGen := { cur := 5, row := 3, strideX := 2, strideY := 100, countX := 3, steps := 1 }; decide ((g.steps + 1 < g.countX.toNat)) : Bool) = true ∧
    (let g : AddrGen := { cur := 7, row := 3, strideX := 2, strideY := 100, countX := 3, steps := 2 }; decide ((g.steps + 1 = g.countX.toNat)) : Bool) = true ∧
    (let g : AddrGen := { cur := 3, row := 3, strideX := 2, strideY := 100, countX := 3 }; let k : ℕ := 2; decide ((g.steps = 0) ∧ (g.cur = g.row) ∧ (k < g.countX.toNat)) : Bool) = true ∧
    (let g : AddrGen := { cur := 3, row := 3, strideX := 2, strideY := 100, countX := 3 }; decide ((g.steps = 0) ∧ (g.countX ≠ 0)) : Bool) = true ∧
    (let m : List (ℕ × Word) := [(3, 5)]; let a : ℕ := 4; let c : ℕ := 3; let w : Word := 0; decide ((smWf 0 m = true)) : Bool) = true ∧
    (let m : List (ℕ × List Px) := []; let a : ℕ := 4; let c : ℕ := 4; let v : List Px := [1]; decide ((smWf zeroVec m = true)) : Bool) = true := by
  and_intros <;> decide +kernel

/-- What BobbinMemoryErrorsFault assumes is met, clause by clause. -/
theorem witness_BobbinMemoryErrorsFault :
    (let b : BobbinIssue := ⟨0, .mem⟩; let w : Word := 0; let use : MemUse := .own; let f : ℕ → State → State := fun _ s => s; let code : ℕ := 2; let s : State := bobFor (.nop bi); decide ((parityFault b.parity use = some code) ∧ (vendorHolds s.exposure.cfg s.front.cfg (b.ix.val / 16) = false) ∧ (issues s b.ix.val w = true)) : Bool) = true ∧
    (let b : BobbinIssue := ⟨0, .mem⟩; let vd : BitVec 5 := 31; let sa : BitVec 4 := 1; let off : BitVec 11 := 0; let s : State := bobFor (.vld bi 31 1 0); (match bobbinWord (.vld b vd sa off) with | some (b, w) => decide ((issues s b.ix.val w = true) ∧ (b.parity = .mem) ∧ (vendorHolds s.exposure.cfg s.front.cfg (b.ix.val / 16) = false)) | _ => false) : Bool) = true ∧
    (let b : BobbinIssue := bi; let vd : BitVec 5 := 31; let sa : BitVec 4 := 1; let off : BitVec 11 := 0; let s : State := bobFor (.vld b vd sa off) { bob0 with s := List.replicate 16 2048 }; (match issuing (.vld b vd sa off) s with | some (n, x) => decide ((2048 ≤ addrOf (sReg x sa.toNat) off)) | _ => false) : Bool) = true ∧
    (let b : BobbinIssue := bi; let vs : BitVec 5 := 31; let sa : BitVec 4 := 1; let off : BitVec 11 := 0; let s : State := bobFor (.vst b vs sa off) { bob0 with s := List.replicate 16 2048 }; (match issuing (.vst b vs sa off) s with | some (n, x) => decide ((2048 ≤ addrOf (sReg x sa.toNat) off)) | _ => false) : Bool) = true ∧
    (let b : BobbinIssue := bi; let vd : BitVec 5 := 31; let ag : BitVec 2 := 3; let s : State := bobFor (.vlda b vd ag) { bob0 with ag := List.replicate 4 { cur := 2048 } }; (match issuing (.vlda b vd ag) s with | some (n, x) => decide ((2048 ≤ (agReg x ag.toNat).cur.toNat)) | _ => false) : Bool) = true ∧
    (let b : BobbinIssue := bi; let vs : BitVec 5 := 31; let ag : BitVec 2 := 3; let p : BitVec 3 := 7; let s : State := bobFor (.vsta b vs ag p) { bob0 with ag := List.replicate 4 { cur := 2048 } }; (match issuing (.vsta b vs ag p) s with | some (n, x) => decide ((2048 ≤ (agReg x ag.toNat).cur.toNat)) | _ => false) : Bool) = true ∧
    (let b : BobbinIssue := bi; let sd : BitVec 4 := 1; let sa : BitVec 4 := 1; let off : BitVec 11 := 0; let s : State := bobFor (.sld b sd sa off) { bob0 with s := List.replicate 16 2048 }; (match issuing (.sld b sd sa off) s with | some (n, x) => decide ((2048 ≤ addrOf (sReg x sa.toNat) off)) | _ => false) : Bool) = true ∧
    (let b : BobbinIssue := bi; let ss : BitVec 4 := 15; let sa : BitVec 4 := 1; let off : BitVec 11 := 0; let s : State := bobFor (.sst b ss sa off) { bob0 with s := List.replicate 16 2048 }; (match issuing (.sst b ss sa off) s with | some (n, x) => decide ((2048 ≤ addrOf (sReg x sa.toNat) off)) | _ => false) : Bool) = true ∧
    (let n : ℕ := 0; let code : ℕ := 3; let s : State := base; decide (((bobbin s n).kid < 16) ∧ ((bobbin s n).kid < s.engines.user.length) ∧ (s.front.versions = [])) : Bool) = true := by
  and_intros <;> decide +kernel

/-- What TransfersBeginWaitAndComplete assumes is met, clause by clause. -/
theorem witness_TransfersBeginWaitAndComplete :
    (let b : BobbinIssue := bi; let sl : BitVec 4 := 1; let sr : BitVec 4 := 2; let sc : BitVec 4 := 3; let tag : BitVec 3 := 7; let scalar : Bool := false; let outward : Bool := true; let space : BitVec 2 := 0; let s : State := bobFor (.xfer b sl sr sc tag scalar outward space); (match issuing (.xfer b sl sr sc tag scalar outward space) s with | some (n, x) => (match windowOf (kernel s x.kid) space.toNat with | some w => decide (((sReg x sr.toNat).toNat + (sReg x sc.toNat).toNat * (if scalar then 4 else 40) ≤ w.size) ∧ (outward = true → w.writable = true) ∧ ((sReg x sr.toNat).toNat % (if scalar then 4 else 8) = 0) ∧ ((sReg x sl.toNat).toNat + (sReg x sc.toNat).toNat ≤ 2048)) | _ => false) | _ => false) : Bool) = true ∧
    (let b : BobbinIssue := bi; let sl : BitVec 4 := 1; let sr : BitVec 4 := 2; let sc : BitVec 4 := 3; let tag : BitVec 3 := 7; let scalar : Bool := false; let outward : Bool := true; let s : State := bobFor (.xfer b sl sr sc tag scalar outward 3); (match issuing (.xfer b sl sr sc tag scalar outward 3) s with | some (n, x) => true | _ => false) : Bool) = true ∧
    (let b : BobbinIssue := bi; let sl : BitVec 4 := 1; let sr : BitVec 4 := 2; let sc : BitVec 4 := 3; let tag : BitVec 3 := 7; let scalar : Bool := true; let outward : Bool := true; let space : BitVec 2 := 0; let s : State := bobFor (.xfer b sl sr sc tag scalar outward space) { bob0 with s := List.replicate 16 2 } (kern { image := [(3, 0x00010000)] }); (match issuing (.xfer b sl sr sc tag scalar outward space) s with | some (n, x) => (match windowOf (kernel s x.kid) space.toNat with | some w => decide ((w.size < (sReg x sr.toNat).toNat + (sReg x sc.toNat).toNat * (if scalar then 4 else 40) ∨ (outward = true ∧ w.writable = false) ∨ (sReg x sr.toNat).toNat % (if scalar then 4 else 8) ≠ 0)) | _ => false) | _ => false) : Bool) = true ∧
    (let b : BobbinIssue := bi; let sl : BitVec 4 := 1; let sr : BitVec 4 := 2; let sc : BitVec 4 := 3; let tag : BitVec 3 := 7; let scalar : Bool := true; let outward : Bool := true; let space : BitVec 2 := 0; let s : State := bobFor (.xfer b sl sr sc tag scalar outward space) { bob0 with s := [0, 2048, 4, 1] ++ List.replicate 12 0 } (kern { image := [(3, 0x00010000)] }); (match issuing (.xfer b sl sr sc tag scalar outward space) s with | some (n, x) => (match windowOf (kernel s x.kid) space.toNat with | some w => decide (((sReg x sr.toNat).toNat + (sReg x sc.toNat).toNat * (if scalar then 4 else 40) ≤ w.size) ∧ (outward = true → w.writable = true) ∧ ((sReg x sr.toNat).toNat % (if scalar then 4 else 8) = 0) ∧ (2048 < (sReg x sl.toNat).toNat + (sReg x sc.toNat).toNat)) | _ => false) | _ => false) : Bool) = true ∧
    (let b : Fin 128 := 0; let tag : BitVec 3 := 7; let ecc : List EccHit := []; let s : State := bobFor (.nop bi) { bob0 with transfers := [⟨7, 0, 0, 1, true, false, 0⟩] }; (if (blockRuns .bobbin s = true) then (match takeTransfer tag.toNat (bobbin s b.val).transfers with | some (tr, rest) => true | _ => false) else false) : Bool) = true ∧
    (let b : BobbinIssue := bi; let sd : BitVec 4 := 1; let tag : BitVec 3 := 7; let s : State := bobFor (.xwait b sd tag); (match issuing (.xwait b sd tag) s with | some (n, x) => decide (((x.transfers.any fun u => u.tag == tag.toNat) = false)) | _ => false) : Bool) = true ∧
    (let b : BobbinIssue := bi; let sd : BitVec 4 := 1; let tag : BitVec 3 := 7; let s : State := bobFor (.xwait b sd tag) { bob0 with transfers := [⟨7, 0, 0, 1, true, false, 0⟩] }; (match issuing (.xwait b sd tag) s with | some (n, x) => decide (((x.transfers.any fun u => u.tag == tag.toNat) = true)) | _ => false) : Bool) = true ∧
    (let b : BobbinIssue := bi; let s : State := bobFor (.fence b); (match issuing (.fence b) s with | some (n, x) => decide (((x.transfers.any fun u => u.outward) = false)) | _ => false) : Bool) = true ∧
    (let b : BobbinIssue := bi; let s : State := bobFor (.fence b) { bob0 with transfers := [⟨7, 0, 0, 1, true, true, 0⟩] }; (match issuing (.fence b) s with | some (n, x) => decide (((x.transfers.any fun u => u.outward) = true)) | _ => false) : Bool) = true ∧
    (let n : ℕ := 0; let tr : Transfer := ⟨7, 0, 0, 1, true, true, 0⟩; let ecc : List EccHit := []; let s : State := bobFor (.nop bi); (match windowOf (kernel s (bobbin s n).kid) tr.space with | some w => decide ((tr.outward = true) ∧ (w.common = false)) | _ => false) : Bool) = true ∧
    (let n : ℕ := 0; let tr : Transfer := ⟨7, 0, 0, 1, true, true, 1⟩; let ecc : List EccHit := []; let s : State := bobFor (.nop bi) bob0 (kern { spill := 1, spillBase := 0xC1000000 }); (match windowOf (kernel s (bobbin s n).kid) tr.space with | some w => decide ((tr.outward = true) ∧ (w.common = true)) | _ => false) : Bool) = true ∧
    (let n : ℕ := 0; let tr : Transfer := ⟨7, 0, 0, 1, true, false, 0⟩; let ecc : List EccHit := [⟨0x20100000, true⟩]; let s : State := bobFor (.nop bi); (match windowOf (kernel s (bobbin s n).kid) tr.space with | some w => (if (tr.outward = false) ∧ (w.common = false) then (let bs : List Byte := memBytes (s.engines.pillows.getD (n / 16) []) (w.base + tr.remote) (tr.count * itemSize tr.scalar); true) else false) | _ => false) : Bool) = true ∧
    (let n : ℕ := 0; let tr : Transfer := ⟨7, 0, 0, 1, true, false, 1⟩; let s : State := bobFor (.nop bi) bob0 (kern { spill := 1, spillBase := 0xC1000000 }); (match windowOf (kernel s (bobbin s n).kid) tr.space with | some w => (if (tr.outward = false) ∧ (w.common = true) ∧ (transferBad s w tr = []) then (let bs : List Byte := memBytes s.dram (w.base + tr.remote) (tr.count * itemSize tr.scalar); true) else false) | _ => false) : Bool) = true ∧
    (let n : ℕ := 0; let k : ℕ := 0x18200000; let tr : Transfer := ⟨7, 0, 0, 1, true, false, 1⟩; let s : State := { bobFor (.nop bi) bob0 (kern { spill := 1, spillBase := 0xC1000000 }) with dramBad := [0x18200000] }; (if (n < s.engines.bobbins.length) then (match windowOf (kernel s (bobbin s n).kid) tr.space with | some w => (if (tr.outward = false) ∧ (w.common = true) ∧ (transferBad s w tr = [k]) then (let bs : List Byte := memBytes s.dram (w.base + tr.remote) (tr.count * itemSize tr.scalar); true) else false) | _ => false) else false) : Bool) = true ∧
    (let tr : Transfer := ⟨7, 0, 0, 1, true, false, 0⟩; let bs : List Byte := [1, 2, 3, 4]; let x : Bobbin := {}; decide ((tr.scalar = true)) : Bool) = true ∧
    (let tr : Transfer := ⟨7, 0, 0, 1, false, false, 0⟩; let bs : List Byte := List.replicate 40 1; let x : Bobbin := {}; decide ((tr.scalar = false)) : Bool) = true := by
  and_intros <;> decide +kernel

/-- What StreamQueuesAndEndsOfRuns assumes is met, clause by clause. -/
theorem witness_StreamQueuesAndEndsOfRuns :
    (let b : BobbinIssue := bi; let vd : BitVec 5 := 31; let queue : Fin 2 := 1; let s : State := bobFor (.spop b vd queue); (match issuing (.spop b vd queue) s with | some (n, x) => decide (((if queue = 0 then x.in0 else x.in1) = [])) | _ => false) : Bool) = true ∧
    (let b : BobbinIssue := bi; let vd : BitVec 5 := 31; let s : State := bobFor (.spop b vd 1) { bob0 with in1 := [⟨List.replicate 16 1, []⟩] }; (match issuing (.spop b vd 1) s with | some (n, x) => (match x.in1 with | e :: es => decide ((s.front.versions = []) ∧ (endUnpushed s 1 x = false)) | _ => false) | _ => false) : Bool) = true ∧
    (let b : BobbinIssue := bi; let vd : BitVec 5 := 31; let s : State := bobFor (.spop b vd 0) { bob0 with in0 := [⟨List.replicate 16 1, []⟩] }; (match issuing (.spop b vd 0) s with | some (n, x) => (match x.in0 with | e :: es => decide ((s.front.versions = []) ∧ (x.owed = []) ∧ (endUnpushed s 0 x = false) ∧ (bitAt (x.meta0.getD 0 0) 9 = false)) | _ => false) | _ => false) : Bool) = true ∧
    (let b : BobbinIssue := bi; let vd : BitVec 5 := 31; let queue : Fin 2 := 1; let s : State := bobFor (.spop b vd queue) { bob0 with in1 := [⟨List.replicate 16 1, []⟩], meta1 := [0x20] } ({ kern { image := [(2, 0x02000000)] } with back := { State.reset.back with channels := State.reset.back.channels.set 0 { State.reset.back.channels.getD 0 {} with run := some { ctx := 0, id := 0, basted := false, hdr := {}, marks := {}, cropY := 0, cropX := 0, inset := none, insetBlack := false, kernel := some { kid := 0, apron := 0, recv := [2], pushed := [0] } } }, cfgs := State.reset.back.cfgs.set 0 { State.reset.back.cfgs.getD 0 {} with outW := 64, outH := 64 } } }); (match issuing (.spop b vd queue) s with | some (n, x) => (match (if queue = 0 then x.in0 else x.in1) with | e :: es => decide ((endUnpushed s queue.val x = true)) | _ => false) | _ => false) : Bool) = true ∧
    (let b : BobbinIssue := bi; let vs : BitVec 5 := 1; let s : State := bobFor (.spush b vs); (match issuing (.spush b vs) s with | some (n, x) => decide ((pushFaults s n = true)) | _ => false) : Bool) = true ∧
    (let b : BobbinIssue := bi; let vs : BitVec 5 := 1; let s : State := bobFor (.spush b vs) { bob0 with outq := List.replicate 32 ⟨[], []⟩ } ({ kern { image := [(2, 0x02000000)] } with back := { State.reset.back with channels := State.reset.back.channels.set 0 { State.reset.back.channels.getD 0 {} with run := some { ctx := 0, id := 0, basted := false, hdr := {}, marks := {}, cropY := 0, cropX := 0, inset := none, insetBlack := false, kernel := some { kid := 0, apron := 0, recv := [0], pushed := [0] } } }, cfgs := State.reset.back.cfgs.set 0 { State.reset.back.cfgs.getD 0 {} with outW := 64, outH := 64 } } }); (match issuing (.spush b vs) s with | some (n, x) => decide ((pushFaults s n = false) ∧ (32 ≤ x.outq.length)) | _ => false) : Bool) = true ∧
    (let b : BobbinIssue := bi; let vs : BitVec 5 := 1; let s : State := bobFor (.spush b vs) bob0 ({ kern { image := [(2, 0x02000000)] } with back := { State.reset.back with channels := State.reset.back.channels.set 0 { State.reset.back.channels.getD 0 {} with run := some { ctx := 0, id := 0, basted := false, hdr := {}, marks := {}, cropY := 0, cropX := 0, inset := none, insetBlack := false, kernel := some { kid := 0, apron := 0, recv := [0], pushed := [0] } } }, cfgs := State.reset.back.cfgs.set 0 { State.reset.back.cfgs.getD 0 {} with outW := 64, outH := 64 } } }); (match issuing (.spush b vs) s with | some (n, x) => decide ((pushFaults s n = false) ∧ (x.outq.length < 32)) | _ => false) : Bool) = true ∧
    (let b : Fin 128 := 0; let s : State := bobFor (.nop bi) { bob0 with wait := some (.queueIn 1 31), in1 := [⟨[], []⟩] }; let vd : ℕ := 31; (if (grantedAt s (b.val / 16) = true) ∧ (blockRuns .bobbin s = true) ∧ ((bobbin s b.val).wait = some (.queueIn 1 vd)) then (match (bobbin s b.val).in1 with | e :: es => decide ((s.front.versions = []) ∧ (endUnpushed s 1 (bobbin s b.val) = false)) | _ => false) else false) : Bool) = true ∧
    (let b : BobbinIssue := bi; let s : State := bobFor (.halt b) bob0 (kern { image := [(2, 0x01000000)] }); (match issuing (.halt b) s with | some (n, x) => decide ((imgSlot (kernel s x.kid) = 1 ∨ imgSlot (kernel s x.kid) = 2)) | _ => false) : Bool) = true ∧
    (let b : BobbinIssue := bi; let s : State := bobFor (.halt b) bob0 (kern { image := [(2, 0x03000000)] }); (match issuing (.halt b) s with | some (n, x) => decide ((imgSlot (kernel s x.kid) = 3 ∨ imgSlot (kernel s x.kid) = 4)) | _ => false) : Bool) = true ∧
    (let b : BobbinIssue := bi; let s : State := bobFor (.halt b) bob0 (kern { bobbins := [0, 1] }); let c : ℕ := 1; (match issuing (.halt b) s with | some (n, x) => decide ((imgSlot (kernel s x.kid) = 0) ∧ (c ∈ (kernel s x.kid).bobbins) ∧ (c ≠ n) ∧ ((bobbin s c).halted = false)) | _ => false) : Bool) = true ∧
    (let b : BobbinIssue := bi; let s : State := bobFor (.halt b) bob0 (kern { bobbins := [0] }); (match issuing (.halt b) s with | some (n, x) => (if (imgSlot (kernel s x.kid) = 0) ∧ (∀ c ∈ (kernel s x.kid).bobbins, c ≠ n → (bobbin s c).halted = true) then (let u : State := putBobbin n { x with running := false, halted := true } s; true) else false) | _ => false) : Bool) = true ∧
    (let b : BobbinIssue := bi; let s : State := bobFor (.halt b) bob0 (kern { bobbins := [0] }); (match issuing (.halt b) s with | some (n, x) => (if (imgSlot (kernel s x.kid) = 0) ∧ (∀ c ∈ (kernel s x.kid).bobbins, c ≠ n → (bobbin s c).halted = true) then (let u : State := putBobbin n { x with running := false, halted := true } s; decide ((x.kid < 16) ∧ (x.kid < s.engines.user.length))) else false) | _ => false) : Bool) = true ∧
    (let b : BobbinIssue := bi; let t : Instant := t0; let s : State := bobFor (.publish b t) bob0 (kern { image := [(6, 0xFFFFFFFF)] }); (match issuing (.publish b t) s with | some (n, x) => decide ((imgResult (kernel s x.kid) = 0xFFFFFFFF)) | _ => false) : Bool) = true ∧
    (let b : BobbinIssue := bi; let t : Instant := t0; let s : State := bobFor (.publish b t); (match issuing (.publish b t) s with | some (n, x) => decide ((imgResult (kernel s x.kid) ≠ 0xFFFFFFFF) ∧ ((kernel s x.kid).lastResult = none) ∧ (x.kid < s.engines.user.length) ∧ (x.kid < 16)) | _ => false) : Bool) = true := by
  and_intros <;> decide +kernel

/-- What PillowSynchronisation assumes is met, clause by clause. -/
theorem witness_PillowSynchronisation :
    (let b : BobbinIssue := bi; let k : Fin 4 := 3; let s : State := bobFor (.bar b k); (match issuing (.bar b k) s with | some (n, x) => true | _ => false) : Bool) = true ∧
    (let b : Fin 128 := 0; let k : ℕ := 3; let s : State := kern { bobbins := [0] } (bobFor (.nop bi) { bob0 with wait := some (.barrier 3) }); decide ((grantedAt s (b.val / 16) = true) ∧ (blockRuns .bobbin s = true) ∧ ((bobbin s b.val).wait = some (.barrier k)) ∧ (∀ c ∈ (kernel s (bobbin s b.val).kid).bobbins, c / 16 = b.val / 16 → (bobbin s c).wait = some (.barrier k))) : Bool) = true ∧
    (let b : Fin 128 := 0; let k : ℕ := 3; let c : ℕ := 1; let s : State := kern { bobbins := [0, 1] } (bobFor (.nop bi) { bob0 with wait := some (.barrier 3) }); decide ((grantedAt s (b.val / 16) = true) ∧ (blockRuns .bobbin s = true) ∧ ((bobbin s b.val).wait = some (.barrier k)) ∧ (c ∈ (kernel s (bobbin s b.val).kid).bobbins) ∧ (c / 16 = b.val / 16) ∧ ((bobbin s c).wait ≠ some (.barrier k))) : Bool) = true ∧
    (let b : BobbinIssue := bi; let k : Fin 4 := 3; let s : State := bobFor (.sem b false k); (match issuing (.sem b false k) s with | some (n, x) => decide ((semOf s n k.val ≠ 0xFFFF)) | _ => false) : Bool) = true ∧
    (let b : BobbinIssue := bi; let k : Fin 4 := 3; let s : State := bobFor (.sem b true k) bob0 (setSem 0 3 0xFFFF base); (match issuing (.sem b true k) s with | some (n, x) => decide ((semOf s n k.val ≠ 0)) | _ => false) : Bool) = true ∧
    (let b : BobbinIssue := bi; let k : Fin 4 := 3; let s : State := bobFor (.sem b true k); (match issuing (.sem b true k) s with | some (n, x) => decide ((semOf s n k.val = 0)) | _ => false) : Bool) = true ∧
    (let b : Fin 128 := 0; let k : ℕ := 3; let s : State := setSem 0 3 1 (bobFor (.nop bi) { bob0 with wait := some (.semaphore 3) }); decide ((grantedAt s (b.val / 16) = true) ∧ (blockRuns .bobbin s = true) ∧ ((bobbin s b.val).wait = some (.semaphore k)) ∧ (semOf s b.val k ≠ 0)) : Bool) = true ∧
    (let b : BobbinIssue := bi; let sd : BitVec 4 := 1; let sa : BitVec 4 := 2; let sb : BitVec 4 := 3; let op : BitVec 2 := 2; let s : State := bobFor (.atom b sd sa sb op) { bob0 with s := List.replicate 16 2 }; (match issuing (.atom b sd sa sb op) s with | some (n, x) => decide (((sReg x sa.toNat).toNat % 4 ≠ 0 ∨ imgPillowKib (kernel s x.kid) * 1024 < (sReg x sa.toNat).toNat + 4)) | _ => false) : Bool) = true ∧
    (let b : BobbinIssue := bi; let sd : BitVec 4 := 1; let sa : BitVec 4 := 2; let sb : BitVec 4 := 3; let op : BitVec 2 := 1; let s : State := bobFor (.atom b sd sa sb op) bob0 (kern { image := [(3, 0x00010000)] }); (match issuing (.atom b sd sa sb op) s with | some (n, x) => decide ((op.toNat < 2) ∧ ((sReg x sa.toNat).toNat % 4 = 0) ∧ ((sReg x sa.toNat).toNat + 4 ≤ imgPillowKib (kernel s x.kid) * 1024)) | _ => false) : Bool) = true ∧
    (let b : BobbinIssue := bi; let sd : BitVec 4 := 1; let sa : BitVec 4 := 2; let sb : BitVec 4 := 3; let op : BitVec 2 := 2; let s : State := bobFor (.atom b sd sa sb op) bob0 (kern { image := [(3, 0x00010000)] }); (match issuing (.atom b sd sa sb op) s with | some (n, x) => (if (2 ≤ op.toNat) ∧ ((sReg x sa.toNat).toNat % 4 = 0) ∧ ((sReg x sa.toNat).toNat + 4 ≤ imgPillowKib (kernel s x.kid) * 1024) then (let old : Word := memWord (s.engines.pillows.getD (n / 16) []) ((kernel s x.kid).region + (sReg x sa.toNat).toNat); true) else false) | _ => false) : Bool) = true ∧
    (let b : BobbinIssue := bi; let k : Fin 4 := 3; let s : State := setSem 0 3 0xFFFF (bobFor (.sem b false k)); (match issuing (.sem b false k) s with | some (n, x) => decide ((semOf s n k.val = 0xFFFF)) | _ => false) : Bool) = true := by
  and_intros <;> decide +kernel

/-- What StepRunsTheFrontCommand assumes is met, clause by clause. -/
theorem witness_StepRunsTheFrontCommand :
    (let c : Instr := .refSettled t0; let rest : List Instr := [.refSettled t0]; let s : State := { base with pending := [.refSettled t0, .refSettled t0] }; decide ((s.pending = c :: rest)) : Bool) = true ∧
    (let s : State := base; decide ((s.pending = [])) : Bool) = true := by
  and_intros <;> decide +kernel

/-- What StepConsumesOnlyTheFrontCommand assumes is met, clause by clause. -/
theorem witness_StepConsumesOnlyTheFrontCommand :
    (let s : State := { base with pending := [.refSettled t0] }; (match step s with | .next t => true | _ => false) : Bool) = true := by decide +kernel

/-- What MemoryWaferStaysCanonical assumes is met, clause by clause. -/
theorem witness_MemoryWaferStaysCanonical :
    (let s : State := { base with pending := [.refSettled t0], dram := [(3, 5)] }; (if (Mem.wf s.dram) then (match step s with | .next t => true | _ => false) else false) : Bool) = true ∧
    (let s : State := { base with pending := [.refSettled t0] }; let m : List (ℕ × Byte) := []; (if (∀ m ∈ s.engines.pillows, Mem.wf m) then (match step s with | .next t => decide ((m ∈ t.engines.pillows)) | _ => false) else false) : Bool) = true ∧
    (let s : State := { base with pending := [.refSettled t0] }; let x : Bobbin := {}; (if (∀ x ∈ s.engines.bobbins, smWf zeroVec x.vmem = true ∧ smWf 0 x.smem = true) then (match step s with | .next t => decide ((x ∈ t.engines.bobbins)) | _ => false) else false) : Bool) = true ∧
    (let s : State := { base with pending := [.refSettled t0], nvm.cells := [(5, 6)] }; (if (Mem.wf s.nvm.cells) then (match step s with | .next t => true | _ => false) else false) : Bool) = true := by
  and_intros <;> decide +kernel

/-- What MemoryWritesStoreTheirBytes assumes is met, clause by clause. -/
theorem witness_MemoryWritesStoreTheirBytes :
    (let s : State := base; let a : ℕ := 3; let c : ℕ := 3; let bs : List Byte := [0, 7]; decide ((Mem.wf s.dram)) : Bool) = true ∧
    (let s : State := base; let a : ℕ := 3; let bs : List Byte := [0, 7]; decide ((Mem.wf s.dram)) : Bool) = true ∧
    (let s : State := { base with dramBad := [1] }; let a : ℕ := 7; let w : ℕ := 1; let bs : List Byte := [1, 2]; decide ((bs ≠ [])) : Bool) = true ∧
    (let s : State := { base with dramSoft := [1] }; let a : ℕ := 7; let w : ℕ := 1; let bs : List Byte := [1, 2]; decide ((bs ≠ [])) : Bool) = true ∧
    (let m : Mem := [(3, 5)]; let a : ℕ := 0; let w : Word := 9; decide ((Mem.wf m)) : Bool) = true := by
  and_intros <;> decide +kernel

/-- What CommandArrivalQueuesThePacket assumes is met, clause by clause. -/
theorem witness_CommandArrivalQueuesThePacket :
    (let t : Instant := t0; let path : CmdPath := .twoWire .a; let bytes : List Byte := []; let s : State := base; (match packetOn path bytes (setNow t s) with | some p => decide ((s.rst.asserted.contains .bureau = false) ∧ (s.power.phase ≠ .doze) ∧ ((crcOk p && stillOpen (setNow t s) p) = false) ∧ (queued (setNow t s) p.req < queueSize p.req)) | _ => false) : Bool) = true ∧
    (let t : Instant := t0; let path : CmdPath := .trunk .east 0 5; let bytes : List Byte := (packetFor 0x20001 [] 1 0).bytes; let s : State := { up with ring.addrPhase := .confirmed, ring.addr := 5, bureau.queue := [(packetFor 1 [] 1 0)] }; (match packetOn path bytes (setNow t s) with | some p => decide ((s.rst.asserted.contains .bureau = false) ∧ (s.power.phase ≠ .doze) ∧ ((crcOk p && stillOpen (setNow t s) p) = true)) | _ => false) : Bool) = true ∧
    (let n : ℕ := 2500; let p : Packet := (packetFor 1 [] 1 0); let q : List Packet := [(packetFor 1 [] 1 0)]; decide ((∀ x ∈ q, x.arrived.real / n ≠ p.arrived.real / n ∨ max 1 (reqClass x.req) ≤ max 1 (reqClass p.req))) : Bool) = true ∧
    (let t : Instant := t0; let path : CmdPath := .twoWire .a; let bytes : List Byte := []; let s : State := { base with bureau.queue := [{ req := .twa, dest := 127, bytes := [], arrived := ⟨0, 0⟩ }] }; (match packetOn path bytes (setNow t s) with | some p => decide ((s.rst.asserted.contains .bureau = false) ∧ (s.power.phase ≠ .doze) ∧ ((crcOk p && stillOpen (setNow t s) p) = false) ∧ (queueSize p.req ≤ queued (setNow t s) p.req)) | _ => false) : Bool) = true ∧
    (let t : Instant := t0; let path : CmdPath := .trunk .east 0 5; let bytes : List Byte := []; let s : State := base; decide ((packetOn path bytes (setNow t s) = none)) : Bool) = true ∧
    (let t : Instant := t0; let port : Port := .east; let src : BitVec 7 := 0; let bytes : List Byte := []; let s : State := { base with rst.asserted := [.bureau], ring.addrPhase := .confirmed }; (if (s.rst.asserted.contains .bureau = true) ∧ (s.ring.addrPhase = .confirmed) then (let dest : BitVec 7 := s.ring.addr; true) else false) : Bool) = true := by
  and_intros <;> decide +kernel

/-- What RepliesNameTheirCommandAndStatus assumes is met, clause by clause. -/
theorem witness_RepliesNameTheirCommandAndStatus :
    (let t : Instant := t0; let op : ℕ := 1; let body : Cmd → State → CmdResult := fun _ s => cmdOk s; let s : State := { cmdIn 1 [] with bureau.verTwb := 0 }; (match taking t op s with | some (p, s1) => decide ((bureauSound s1 = false)) | _ => false) : Bool) = true ∧
    (let t : Instant := t0; let s : State := { cmdIn 1 [] with bureau.verTwb := 0 }; (match taking t 0x0001 s with | some (p, s1) => decide ((bureauSound s1 = false)) | _ => false) : Bool) = true ∧
    (let p : Packet := (packetFor 1 [] 1 0); let s : State := up; decide ((logBlocked s = false)) : Bool) = true ∧
    (let p : Packet := (packetFor 1 [] 1 0); let s : State := { up with accum.selfRefresh := true }; decide ((logBlocked s = true)) : Bool) = true ∧
    (let p : Packet := packetFor 1 [] 1 0; let dup : Bool := true; let r : CmdResult := cmdOk base [1, 2]; decide ((r.results.length ≤ pathWords p.via) ∧ (r.detail < 256)) : Bool) = true ∧
    (let p : Packet := packetFor 1 [] 1 0; let r : CmdResult := cmdRefuse base .busy; let s1 : State := base; decide ((statusDone r.status = false) ∧ (r.keeps = false)) : Bool) = true := by
  and_intros <;> decide +kernel

/-- What PacketsCarryTheirCrc assumes is met, clause by clause. -/
theorem witness_PacketsCarryTheirCrc :
    (let p : Packet := { packetFor 1 [] 1 0 with bytes := wordsBytes (withCrc [0x01000001, 0x00010007, 0, 5]) }; let ws : List Word := [0x01000001, 0x00010007, 0, 5]; decide ((3 ≤ ws.length) ∧ ((ws.getD 1 0).toNat / 65536 + 3 = ws.length) ∧ (p.bytes = wordsBytes (withCrc ws))) : Bool) = true := by decide +kernel

/-- What QueriesAnswerFromTheState assumes is met, clause by clause. -/
theorem witness_QueriesAnswerFromTheState :
    (let t : Instant := t0; let s : State := cmdIn 1 []; (match taken t 0x0001 s with | some (p, s1) => true | _ => false) : Bool) = true ∧
    (let t : Instant := t0; let s : State := cmdIn 2 [0x00000102]; (match taken t 0x0002 s with | some (p, s1) => (match (cmdOf p).words with | [w] => decide ((fldN w 16 16 = 0) ∧ (fldN w 8 8 ≤ min (fldN w 0 8) 2) ∧ (1 ≤ fldN w 0 8)) | _ => false) | _ => false) : Bool) = true ∧
    (let t : Instant := t0; let s : State := cmdIn 2 [0x00000303]; (match taken t 0x0002 s with | some (p, s1) => (match (cmdOf p).words with | [w] => decide ((fldN w 16 16 = 0) ∧ (min (fldN w 0 8) 2 < fldN w 8 8 ∨ fldN w 0 8 = 0)) | _ => false) | _ => false) : Bool) = true ∧
    (let t : Instant := t0; let s : State := cmdIn 3 [0]; (match taken t 0x0003 s with | some (p, s1) => (match sectionWords s1 (fldN (par p 0) 0 8) with | some ws => decide ((fldN (par p 0) 16 16 < ws.length) ∧ (fldN (par p 0) 8 8 = 0)) | _ => false) | _ => false) : Bool) = true ∧
    (let t : Instant := t0; let s : State := cmdIn 3 [14]; (match taken t 0x0003 s with | some (p, s1) => decide ((14 ≤ fldN (par p 0) 0 8)) | _ => false) : Bool) = true ∧
    (let t : Instant := t0; let s : State := cmdIn 4 [0, 0x105]; (match taken t 0x0004 s with | some (p, s1) => decide ((firstReserved (cmdOf p).words [0xFFFFFFFF, 0x1FF] = none) ∧ (bitAt (par p 1) 8 = true) ∧ ((par p 0 - s1.events.acked).toNat ≤ (s1.events.nextSeq - 1 - s1.events.acked).toNat) ∧ (fldN (par p 1) 0 8 ≤ (if p.via.isSome then 212 else 5))) | _ => false) : Bool) = true ∧
    (let t : Instant := t0; let s : State := cmdIn 4 [0, 212]; (match taken t 0x0004 s with | some (p, s1) => decide ((firstReserved (cmdOf p).words [0xFFFFFFFF, 0x1FF] = none) ∧ (bitAt (par p 1) 8 = false) ∧ (fldN (par p 1) 0 8 ≤ (if p.via.isSome then 212 else 5))) | _ => false) : Bool) = true ∧
    (let t : Instant := t0; let s : State := cmdIn 4 [9, 0x100]; (match taken t 0x0004 s with | some (p, s1) => decide ((firstReserved (cmdOf p).words [0xFFFFFFFF, 0x1FF] = none) ∧ (bitAt (par p 1) 8 = true) ∧ ((s1.events.nextSeq - 1 - s1.events.acked).toNat < (par p 0 - s1.events.acked).toNat)) | _ => false) : Bool) = true ∧
    (let t : Instant := t0; let s : State := cmdIn 4 [0, 213]; (match taken t 0x0004 s with | some (p, s1) => decide ((firstReserved (cmdOf p).words [0xFFFFFFFF, 0x1FF] = none) ∧ (bitAt (par p 1) 8 = false) ∧ ((if p.via.isSome then 212 else 5) < fldN (par p 1) 0 8)) | _ => false) : Bool) = true := by
  and_intros <;> decide +kernel

/-- What EventLogNumbersAndLosesRecords assumes is met, clause by clause. -/
theorem witness_EventLogNumbersAndLosesRecords :
    (let e : EventLog := {}; let h : HeldEvent := ⟨1, 0, 0, 0, 0⟩; decide ((unackedCount e < 255) ∧ (e.lostSince = 0)) : Bool) = true ∧
    (let e : EventLog := { nextSeq := 256 }; let h : HeldEvent := ⟨1, 0, 0, 0, 0⟩; decide ((255 ≤ unackedCount e)) : Bool) = true ∧
    (let e : EventLog := {}; let h : HeldEvent := ⟨1, 0, 0, 0, 0⟩; decide ((e.log.length ≤ 256)) : Bool) = true ∧
    (let t : Instant := t0; let s : State := raise 1 0 0 0 ({ up with ring.addrPhase := .confirmed }); decide (((toSendRecords s.events).take 10 ≠ []) ∧ (s.ring.addrPhase = .confirmed) ∧ (s.ring.ownerLost = false) ∧ (s.rst.asserted.contains .bureau = false) ∧ (s.bureau.ready = true) ∧ (s.power.phase ≠ .doze) ∧ (s.power.phase ≠ .stow)) : Bool) = true ∧
    (let c : ℕ := 0x0510; let a0 : ℕ := 5; let a1 : ℕ := 6; let a2 : ℕ := 7; let s : State := { up with accum.selfRefresh := true }; decide ((logBlocked s = true)) : Bool) = true ∧
    (let c : ℕ := 0x0510; let a0 : ℕ := 5; let a1 : ℕ := 6; let a2 : ℕ := 7; let s : State := up; decide ((logBlocked s = false)) : Bool) = true ∧
    (let e : EventLog := { nextSeq := 5, lostSince := 3 }; let h : HeldEvent := ⟨1, 2, 3, 4, 5⟩; decide ((unackedCount e < 254) ∧ (e.lostSince ≠ 0)) : Bool) = true ∧
    (let e : EventLog := { nextSeq := 255, lostSince := 3, lost := 3 }; let h : HeldEvent := ⟨1, 2, 3, 4, 5⟩; decide ((unackedCount e = 254) ∧ (e.lostSince ≠ 0)) : Bool) = true := by
  and_intros <;> decide +kernel

/-- What DiagnosticCommandsReachTheirSpace assumes is met, clause by clause. -/
theorem witness_DiagnosticCommandsReachTheirSpace :
    (let t : Instant := t0; let ecc : List EccHit := []; let s : State := cmdIn 0x0F01 [1, 0, 1]; (match taken t 0x0F01 s with | some (p, s1) => decide ((firstReserved (cmdOf p).words [0xF, 0xFFFFFFFF, 0xFFFF] = none) ∧ (fldN (par p 0) 0 4 = 1) ∧ ((cmdOf p).words.length = 3) ∧ (1 ≤ fldN (par p 2) 0 16) ∧ (fldN (par p 2) 0 16 ≤ pathWords p.via) ∧ ((par p 1).toNat % 4 = 0) ∧ ((par p 1).toNat + 4 * fldN (par p 2) 0 16 ≤ 0x40000000)) | _ => false) : Bool) = true ∧
    (let ecc : List EccHit := [⟨3, true⟩]; let lo : ℕ := 4; let hi : ℕ := 9; let data : State → List Word := fun _ => []; let s : State := { up with dramBad := [10], dramSoft := [2] }; decide ((∀ w ∈ s.dramBad ++ s.dramSoft ++ ecc.map (·.word), w < lo ∨ hi < w)) : Bool) = true ∧
    (let ecc : List EccHit := []; let lo : ℕ := 4; let hi : ℕ := 9; let data : State → List Word := fun _ => []; let s : State := { up with dramBad := [9] }; decide ((∃ w, w ∈ s.dramBad ∧ lo ≤ w ∧ w ≤ hi)) : Bool) = true ∧
    (let t : Instant := t0; let s : State := cmdIn 0x0F04 [10, 0] up 2; (match taken t 0x0F04 s with | some (p, s1) => decide (((cmdOf p).words.length = 2) ∧ (5 ≤ fldN (par p 0) 1 3)) | _ => false) : Bool) = true ∧
    (let t : Instant := t0; let s : State := cmdIn 0x0F02 [1, 0, 5]; (match taken t 0x0F02 s with | some (p, s1) => decide ((firstReserved (cmdOf p).words [0xF, 0xFFFFFFFF] = none) ∧ (fldN (par p 0) 0 4 = 1) ∧ ((par p 1).toNat % 4 = 0) ∧ ((par p 1).toNat + 4 * ((cmdOf p).words.drop 2).length ≤ 0x40000000) ∧ (guarded (par p 1).toNat ((cmdOf p).words.drop 2).length = false)) | _ => false) : Bool) = true ∧
    (let kept : State → ℕ → ℕ := fun _ _ => 0; let a : ℕ := 8; let w : Word := 1; let ws : List Word := [2]; let s : State := up; decide ((kept s a = 0)) : Bool) = true ∧
    (let kept : State → ℕ → ℕ := fun _ _ => 0xFFFFFFFF; let a : ℕ := 8; let w : Word := 1; let ws : List Word := [2]; let s : State := up; decide ((kept s a = 0xFFFFFFFF)) : Bool) = true ∧
    (let s : State := up; let off : ℕ := 0x10000000; decide ((partOf off ≠ .sampler)) : Bool) = true ∧
    (let t : Instant := t0; let s : State := cmdIn 0x0F02 [2, 0, 5]; (match taken t 0x0F02 s with | some (p, s1) => decide ((firstReserved (cmdOf p).words [0xF, 0xFFFFFFFF] = none) ∧ (fldN (par p 0) 0 4 = 2) ∧ ((par p 1).toNat % 4 = 0) ∧ ((par p 1).toNat + 4 * ((cmdOf p).words.drop 2).length ≤ 22 * 12288 * 4)) | _ => false) : Bool) = true ∧
    (let t : Instant := t0; let s : State := cmdIn 0x0F04 [1, 256] up 2; (match taken t 0x0F04 s with | some (p, s1) => (match (cmdOf p).words with | [w0, w1] => decide ((firstReserved [w0, w1] [0xF, 0xFFFFF] = none) ∧ (fldN w0 1 3 ≤ 4) ∧ (256 ≤ fldN w1 0 20) ∧ (fldN w1 0 20 ≤ 0xFFFFE) ∧ (s1.rst.boot ≠ 2)) | _ => false) | _ => false) : Bool) = true ∧
    (let t : Instant := t0; let s : State := cmdIn 0x0F04 [1, 0xFFFFE] ({ up with rst.boot := 2 }) 2; (match taken t 0x0F04 s with | some (p, s1) => (match (cmdOf p).words with | [w0, w1] => decide ((firstReserved [w0, w1] [0xF, 0xFFFFF] = none) ∧ (fldN w0 1 3 ≤ 4) ∧ (256 ≤ fldN w1 0 20) ∧ (fldN w1 0 20 ≤ 0xFFFFE) ∧ (s1.rst.boot = 2)) | _ => false) | _ => false) : Bool) = true := by
  and_intros <;> decide +kernel

/-- What CaptureCommandsReplaceTheSettings assumes is met, clause by clause. -/
theorem witness_CaptureCommandsReplaceTheSettings :
    (let t : Instant := t0; let s : State := cmdIn 0x0102 (captureWords {}) up; let c : CaptureCfg := captureOf (captureWords {}); (match taken t 0x0102 s with | some (p, s1) => decide ((c = captureOf (overlay (cmdOf p).words (captureWords s1.exposure.cfg))) ∧ (firstReserved (cmdOf p).words captureMasks = none) ∧ (captureBad c = none) ∧ (paramsValid s1.rst.fuses.variantMl c s1.exposure.inForce = true) ∧ (s1.exposure.trig.mode = 2 → periodOk s1 c s1.exposure.trig.rtPeriod = true) ∧ (s1.exposure.phase = .stopped) ∧ (s1.clock.limp = false) ∧ (s1.readout.test = none) ∧ (∀ x ∈ s1.history.frozenSet, x.1 = 0 ∨ (c.accum.histH = s1.exposure.cfg.accum.histH ∧ (usesPreRef c = true → c.accum.histH.toNat + x.1 ≤ 19))) ∧ (pillowConflict s1 c s1.front.cfg = false) ∧ (c.exposure.flkSrc = 2 → s1.exposure.cfg.exposure.flkSrc ≠ 2 → (s1.timers.chans.getD 7 {}).running = false) ∧ (c.exposure.flkSrc ≠ 2 → mcvNeedsMains s1 = false)) | _ => false) : Bool) = true ∧
    (let t : Instant := t0; let s : State := cmdIn 0x0102 (captureWords {}) (capt (fr) 0); (match taken t 0x0102 s with | some (p, s1) => (let c : CaptureCfg := captureOf (overlay (cmdOf p).words (captureWords s1.exposure.cfg)); decide ((firstReserved (cmdOf p).words captureMasks = none) ∧ (captureBad c = none) ∧ (paramsValid s1.rst.fuses.variantMl c s1.exposure.inForce = true) ∧ (s1.exposure.trig.mode = 2 → periodOk s1 c s1.exposure.trig.rtPeriod = true) ∧ (s1.exposure.phase ≠ .stopped))) | _ => false) : Bool) = true ∧
    (let t : Instant := t0; let s : State := cmdIn 0x0106 (triggerWords {}) up; let x : TriggerCfg := triggerOf (triggerWords {}); (match taken t 0x0106 s with | some (p, s1) => decide ((x = triggerOf (overlay (cmdOf p).words (triggerWords s1.exposure.trig))) ∧ (firstReserved (cmdOf p).words [0xFF7F, 0xFFFFFFFF, 0xFFFFFFFF, 0xFFFFFFFF, 0xFFFFFFFF, 0xFF, 0xFFFFFFFF] = none) ∧ (x.mode ≠ 3) ∧ (x.burst ≠ 0) ∧ (x.delay.toNat ≤ 100000000) ∧ (x.mode = 1 → x.xoPin ≠ x.pin ∧ drivenByTimer s1 x.pin.toNat = false) ∧ (s1.exposure.cfg.exposure.flkSrc = 2 → x.xoPin ≠ s1.exposure.cfg.exposure.mainsTrg) ∧ (x.xoEn = true → drivenByTimer s1 x.xoPin.toNat = false) ∧ (periodOk s1 s1.exposure.cfg x.rtPeriod = true)) | _ => false) : Bool) = true ∧
    (let t : Instant := t0; let s : State := cmdIn 0x0101 [0] up; (match taken t 0x0101 s with | some (p, s1) => decide ((firstReserved (cmdOf p).words [1] = none) ∧ (s1.exposure.phase ≠ .running)) | _ => false) : Bool) = true ∧
    (let t : Instant := t0; let s : State := cmdIn 0x0101 [0] (capt (fr) 0); (match taken t 0x0101 s with | some (p, s1) => decide ((firstReserved (cmdOf p).words [1] = none) ∧ (bitAt (par p 0) 0 = false) ∧ (s1.exposure.phase = .running) ∧ (s1.exposure.cur.isSome = true)) | _ => false) : Bool) = true ∧
    (let t : Instant := t0; let s : State := cmdIn 0x0101 [1] (capt (fr) 0); (match taken t 0x0101 s with | some (p, s1) => decide ((firstReserved (cmdOf p).words [1] = none) ∧ (bitAt (par p 0) 0 = true) ∧ (s1.exposure.phase = .running)) | _ => false) : Bool) = true ∧
    (let s : State := { capt (fr) 16 with readout.run := some ⟨fr, 15, 15, 1600000⟩ }; let f : FrameRec := fr; let r : ReadoutRun := ⟨fr, 15, 15, 1600000⟩; decide ((s.exposure.cur = some f) ∧ (s.readout.run = some r) ∧ (r.frame = f) ∧ (subFrames f.cfg ≤ s.exposure.nextJ)) : Bool) = true ∧
    (let s : State := capt (fr) 16; let f : FrameRec := fr; decide ((s.exposure.cur = some f) ∧ (s.readout.run = none) ∧ (subFrames f.cfg ≤ s.exposure.nextJ)) : Bool) = true ∧
    (let cause : StopCause := .command; let last : FrameId := 7; let s : State := reading (fr); let f : FrameRec := fr; (if (s.exposure.cur = some f) ∧ (s.exposure.phase = .running) ∧ (s.exposure.nextJ < subFrames f.cfg) then (match s.readout.run with | some r => (let ids : List FrameId := (if r.frame.id = f.id then [f.id] else [r.frame.id, f.id]); true) | _ => false) else false) : Bool) = true ∧
    (let t : Instant := t0; let s : State := cmdIn 0x0103 [1, 7] ({ up with power.phase := .idle }); (match taken t 0x0103 s with | some (p, s1) => (if (firstReserved (cmdOf p).words [1, 0xFFFFFFFF] = none) then (let first : Word := (if bitAt (par p 0) 0 then par p 1 else s1.exposure.frameId + 1); decide (((enabledTiles s1.exposure.cfg s1.readout.enableMask).isEmpty = false) ∧ (s1.exposure.trig.mode = 2 → (firstGrid s1).isSome = true ∧ periodOk s1 s1.exposure.cfg s1.exposure.trig.rtPeriod = true) ∧ (s1.power.phase = .idle) ∧ (s1.exposure.phase = .stopped) ∧ (s1.clock.limp = false) ∧ (s1.power.hold = false) ∧ (s1.readout.test = none) ∧ (s1.accum.frames = []) ∧ (admission s1 { caseNow s1 with capture := true, pipeline := true } = none))) else false) | _ => false) : Bool) = true := by
  and_intros <;> decide +kernel

/-- What FrameSetsWaitForTheirFrame assumes is met, clause by clause. -/
theorem witness_FrameSetsWaitForTheirFrame :
    (let t : Instant := t0; let s : State := cmdIn 0x0104 [0, 0, 0, 0, 0, 0] (capt (fr) 0); (match taken t 0x0104 s with | some (p, s1) => (let u : FrameUpd := frameUpdOf (overlay (cmdOf p).words ([0, 0] ++ frameParamWords s1.exposure.inForce)); (if (firstReserved (cmdOf p).words [0x3000F, 0xFFFFFFFF, 0xFFFFFFFF, 0xFFFFFFFF, 0x0FFFFFFF, 7] = none) ∧ (u.tSub.isSome = true → s1.exposure.cfg.exposure.flkBal = false) ∧ (u.d0.isSome = true ∨ u.globalRung.isSome = true → aeOwnsD0 s1 = false) ∧ (s1.readout.test = none) ∧ (paramsAdmission s1 u = none) then (match submitSet applyFrameUpd (frameValid s1) s1.exposure.inForce s1.exposure.pendingSets s1 (cmdOf p) (bitAt (par p 0) 17) (if bitAt (par p 0) 16 then some (par p 1) else none) u with | .accepted x late shown => true | _ => false) else false)) | _ => false) : Bool) = true ∧
    (let t : Instant := t0; let s : State := cmdIn 0x0104 [0x30000, 1, 0, 0, 0, 0] (capt (fr) 0); (match taken t 0x0104 s with | some (p, s1) => (let u : FrameUpd := frameUpdOf (overlay (cmdOf p).words ([0, 0] ++ frameParamWords s1.exposure.inForce)); (if (firstReserved (cmdOf p).words [0x3000F, 0xFFFFFFFF, 0xFFFFFFFF, 0xFFFFFFFF, 0x0FFFFFFF, 7] = none) ∧ (u.tSub.isSome = true → s1.exposure.cfg.exposure.flkBal = false) ∧ (u.d0.isSome = true ∨ u.globalRung.isSome = true → aeOwnsD0 s1 = false) ∧ (s1.readout.test = none) ∧ (paramsAdmission s1 u = none) then (match submitSet applyFrameUpd (frameValid s1) s1.exposure.inForce s1.exposure.pendingSets s1 (cmdOf p) (bitAt (par p 0) 17) (if bitAt (par p 0) 16 then some (par p 1) else none) u with | .refused st => decide ((st ≠ .badParam)) | _ => false) else false)) | _ => false) : Bool) = true ∧
    (let t : Instant := t0; let s : State := cmdIn 0x0104 [2, 0, 0, 5, 0, 0] (capt (fr) 0 { up with exposure.cfg.exposure.expSrc := true }); (match taken t 0x0104 s with | some (p, s1) => (let u : FrameUpd := frameUpdOf (overlay (cmdOf p).words ([0, 0] ++ frameParamWords s1.exposure.inForce)); decide (((u.tSub.isSome = true ∧ s1.exposure.cfg.exposure.flkBal = true) ∨ ((u.d0.isSome = true ∨ u.globalRung.isSome = true) ∧ aeOwnsD0 s1 = true)))) | _ => false) : Bool) = true ∧
    (let t : Instant := t0; let s : State := cmdIn 0x0105 [1, 383, 0, 0xFFFFFFFE] up; (match taken t 0x0105 s with | some (p, s1) => decide ((firstReserved ((cmdOf p).words.take 3) [0xE000F, 0x7FF, 0xFFFFFFFF] = none) ∧ (fldN (par p 0) 0 4 = 1) ∧ (fldN (par p 1) 0 11 + ((cmdOf p).words.drop 3).length ≤ 384) ∧ (s1.exposure.phase = .stopped) ∧ (s1.readout.test = none)) | _ => false) : Bool) = true ∧
    (let t : Instant := t0; let s : State := cmdIn 0x0105 [0, 1151, 0, 5] up; (match taken t 0x0105 s with | some (p, s1) => decide ((firstReserved ((cmdOf p).words.take 3) [0xE000F, 0x7FF, 0xFFFFFFFF] = none) ∧ (fldN (par p 0) 0 4 = 0) ∧ (bitAt (par p 0) 19 = false) ∧ (fldN (par p 1) 0 11 + ((cmdOf p).words.drop 3).length ≤ 1152) ∧ (s1.readout.test = none)) | _ => false) : Bool) = true ∧
    (let t : Instant := t0; let s : State := cmdIn 0x0105 [0x80000, 1151, 0, 5] up; (match taken t 0x0105 s with | some (p, s1) => (if (firstReserved ((cmdOf p).words.take 3) [0xE000F, 0x7FF, 0xFFFFFFFF] = none) ∧ (fldN (par p 0) 0 4 = 0) ∧ (bitAt (par p 0) 19 = true) ∧ (fldN (par p 1) 0 11 + ((cmdOf p).words.drop 3).length ≤ 1152) ∧ (s1.exposure.cfg.exposure.expSrc = false) ∧ (s1.readout.test = none) then (match submitSet applyFrameUpd (frameValid s1) s1.exposure.inForce s1.exposure.pendingSets s1 (cmdOf p) (bitAt (par p 0) 18) (if bitAt (par p 0) 17 then some (par p 2) else none) { map := some (smSetMany 0 s1.exposure.mapStaging (fldN (par p 1) 0 11) ((cmdOf p).words.drop 3)) } with | .accepted x late shown => true | _ => false) else false) | _ => false) : Bool) = true := by
  and_intros <;> decide +kernel

/-- What HistoryCommandsFreezeAndReadFrames assumes is met, clause by clause. -/
theorem witness_HistoryCommandsFreezeAndReadFrames :
    (let t : Instant := t0; let s : State := cmdIn 0x0107 [0x0102, 0, 0] up 2; (match taken t 0x0107 s with | some (p, s1) => (if ((cmdOf p).words ≠ []) ∧ (firstReserved (cmdOf p).words [0x1F0F3F, 0xFFFFFFFF, 0xFFFFFFFF] = none) ∧ (fldN (par p 0) 0 2 ≠ 3) ∧ (1 ≤ fldN (par p 0) 8 4) ∧ (fldN (par p 0) 8 4 ≤ 10) ∧ (fldN (par p 0) 8 4 ≤ s1.exposure.cfg.accum.histH.toNat) ∧ (s1.exposure.cfg.accum.histH.toNat + fldN (par p 0) 8 4 ≤ (if usesPreRef s1.exposure.cfg then 19 else 20)) ∧ (fldN (par p 0) 16 5 < fldN (par p 0) 8 4) ∧ (fldN (par p 0) 0 2 = 1 → drivenByTimer s1 (fldN (par p 0) 2 3) = false) ∧ (fldN (par p 0) 0 2 = 0 → s1.exposure.phase = .stopped → heldSlots s1 ≠ []) ∧ (s1.history.frozenSet = none) ∧ (s1.history.freezeActive = none) then (let w : FreezeWait := { source := fld (par p 0) 0 2, pin := fld (par p 0) 2 3, falling := bitAt (par p 0) 5, k := fldN (par p 0) 8 4, post := fldN (par p 0) 16 5, rt := join64 (par p 1) (par p 2) }; true) else false) | _ => false) : Bool) = true ∧
    (let t : Instant := t0; let s : State := cmdIn 0x0107 [0x0102, 0, 0] ({ up with history.frozenSet := some (1, 1, 1) }) 2; (match taken t 0x0107 s with | some (p, s1) => decide (((cmdOf p).words ≠ []) ∧ (firstReserved (cmdOf p).words [0x1F0F3F, 0xFFFFFFFF, 0xFFFFFFFF] = none) ∧ (fldN (par p 0) 0 2 = 2) ∧ (1 ≤ fldN (par p 0) 8 4) ∧ (fldN (par p 0) 8 4 ≤ 10) ∧ (fldN (par p 0) 8 4 ≤ s1.exposure.cfg.accum.histH.toNat) ∧ (s1.exposure.cfg.accum.histH.toNat + fldN (par p 0) 8 4 ≤ (if usesPreRef s1.exposure.cfg then 19 else 20)) ∧ (fldN (par p 0) 16 5 < fldN (par p 0) 8 4) ∧ (s1.history.frozenSet.isSome = true)) | _ => false) : Bool) = true ∧
    (let t : Instant := t0; let s : State := cmdIn 0x0107 [3, 0, 0] up 2; (match taken t 0x0107 s with | some (p, s1) => decide ((firstReserved (cmdOf p).words [0x1F0F3F, 0xFFFFFFFF, 0xFFFFFFFF] = none) ∧ (fldN (par p 0) 0 2 = 3) ∧ (s1.history.frozenSet = none)) | _ => false) : Bool) = true ∧
    (let t : Instant := t0; let s : State := cmdIn 0x0107 [3, 0, 0] ({ up with history.frozenSet := some (1, 1, 1) }) 2; (match taken t 0x0107 s with | some (p, s1) => decide ((firstReserved (cmdOf p).words [0x1F0F3F, 0xFFFFFFFF, 0xFFFFFFFF] = none) ∧ (fldN (par p 0) 0 2 = 3) ∧ (s1.history.frozenSet.isSome = true)) | _ => false) : Bool) = true ∧
    (let s : State := { up with history.frozenSet := some (1, 1, 1), history.releaseWait := true, history.slots := some (held (fr)) :: List.replicate 19 none }; let a : ℕ × FrameId × FrameId := (1, 1, 1); decide ((s.history.releaseWait = true) ∧ (s.history.frozenSet = some a) ∧ (historyReadPending s = false)) : Bool) = true ∧
    (let s : State := { up with history.frozenSet := some (1, 1, 1), history.releaseWait := true, history.slots := some (held (fr)) :: List.replicate 19 none }; let a : ℕ × FrameId × FrameId := (1, 1, 1); let x := (some { held (fr) with frozen := false } : Option HistFrame); (if (s.history.releaseWait = true) ∧ (s.history.frozenSet = some a) ∧ (historyReadPending s = false) ∧ (x ∈ (tryRelease s).history.slots) then (match x with | some h => true | _ => false) else false) : Bool) = true ∧
    (let s : State := { up with back.channels := List.replicate 8 { histQueue := [1] }, history.slots := some (held (fr)) :: List.replicate 19 none }; decide ((historyReadPending s = true)) : Bool) = true ∧
    (let t : Instant := t0; let s : State := cmdIn 0x0108 [0, 1, 1] ({ up with history.frozenSet := some (1, 1, 1), streams := List.replicate 9 { enabled := true }, back.cfgs := List.replicate 8 { format := 0 }, history.slots := some (held (fr)) :: List.replicate 19 none }) 2; (match taken t 0x0108 s with | some (p, s1) => (if ((cmdOf p).words.length = 3) ∧ (firstReserved (cmdOf p).words [7, 0xFFFFFFFF, 15] = none) ∧ (1 ≤ fldN (par p 2) 0 4) ∧ (fldN (par p 2) 0 4 ≤ 10) ∧ (s1.history.frozenSet.isSome = true) ∧ ((stream s1 (fldN (par p 0) 0 3)).enabled = true) ∧ (isRaw20 (streamCfg s1 (fldN (par p 0) 0 3)) = true) ∧ (historyReadPending s1 = false) then (let ids : List FrameId := (((List.range (fldN (par p 2) 0 4)).map fun d => par p 1 + BitVec.ofNat 32 d).filter fun id => (heldSlots s1).any fun x => x.2.frozen && x.2.frame.id == id); decide ((ids ≠ []))) else false) | _ => false) : Bool) = true ∧
    (let w : FreezeWait := { source := 2, pin := 0, falling := false, k := 1, post := 0, rt := 0 }; let tf : ℕ := 5; let s : State := { up with history.frozenSet := some (1, 1, 1) }; decide ((s.history.frozenSet.isSome = true ∨ s.history.freezeActive.isSome = true)) : Bool) = true ∧
    (let t : Instant := t0; let s : State := { up with history.freezeWait := some { source := 2, pin := 0, falling := false, k := 1, post := 0, rt := 0 } }; (match s.history.freezeWait with | some w => decide ((w.source = 2) ∧ (w.rt.toNat ≤ ringNs (setNow t s))) | _ => false) : Bool) = true ∧
    (let t : Instant := t0; let s : State := { up with history.freezeWait := some { source := 1, pin := 0, falling := false, k := 1, post := 0, rt := 0 } }; (match s.history.freezeWait with | some w => decide ((w.source ≠ 2 ∨ ringNs (setNow t s) < w.rt.toNat)) | _ => false) : Bool) = true := by
  and_intros <;> decide +kernel

/-- What FrameBoundaryBeginsTheNextFrame assumes is met, clause by clause. -/
theorem witness_FrameBoundaryBeginsTheNextFrame :
    (let t : Instant := t0; let s : State := { up with exposure.phase := .running, exposure.nextFb := some 0 }; (match dueBoundary (setNow t s) with | some fb => decide ((s.exposure.phase = .running) ∧ (fb ≤ t.tclk) ∧ (frameFull (setNow t s) = true)) | _ => false) : Bool) = true ∧
    (let t : Instant := t0; let s : State := base; decide ((dueBoundary (setNow t s) = none)) : Bool) = true ∧
    (let t : Instant := t0; let s : State := { up with exposure.nextFb := some 1 }; (match dueBoundary (setNow t s) with | some fb => decide ((t.tclk < fb)) | _ => false) : Bool) = true ∧
    (let s : State := { up with exposure.nextFb := some 5 }; (match s.exposure.nextFb with | some nom => (match dueBoundary s with | some fb => true | _ => false) | _ => false) : Bool) = true ∧
    (let s : State := { capt (fr) 15 with exposure.nextFb := some 5 }; (match s.exposure.nextFb with | some nom => (match dueBoundary s with | some fb => (match lastBoundary s with | some sb => true | _ => false) | _ => false) | _ => false) : Bool) = true := by
  and_intros <;> decide +kernel

/-- What SubFrameEventsFollowTheSchedule assumes is met, clause by clause. -/
theorem witness_SubFrameEventsFollowTheSchedule :
    (let t : Instant := ⟨100000, 0⟩; let s : State := capt (fr) 0; let faults : List ConvTile := []; (match s.exposure.cur with | some f => decide ((s.exposure.phase ≠ .stopped) ∧ (s.exposure.immediate = false) ∧ (s.exposure.nextJ < subFrames f.cfg) ∧ (s.readout.run = none) ∧ (sbAt f s.exposure.nextJ ≤ t.tclk)) | _ => false) : Bool) = true ∧
    (let t : Instant := t0; let s : State := capt (fr) 0; (match s.exposure.cur with | some f => decide ((s.exposure.phase ≠ .stopped) ∧ (s.exposure.immediate = false) ∧ (s.exposure.nextJ < subFrames f.cfg) ∧ (f.fb + s.exposure.nextJ * f.params.tSub.toNat ≤ t.tclk)) | _ => false) : Bool) = true ∧
    (let t : Instant := t0; let rung : Fin 8 := 0; let s : State := capt (fr) 0; (match s.exposure.cur with | some f => decide ((s.exposure.phase ≠ .stopped) ∧ (s.exposure.immediate = false) ∧ (s.exposure.nextJ < subFrames f.cfg) ∧ ((exposureSpan f rung.val s.exposure.nextJ).1 ≤ t.tclk) ∧ (t.tclk < (exposureSpan f rung.val s.exposure.nextJ).2)) | _ => false) : Bool) = true ∧
    (let t : Instant := ⟨100000, 0⟩; let tile : TileIx := 0; let s : State := capt (fr { exposure := { centre := true } } { globalRung := 7 }) 0; (match s.exposure.cur with | some f => decide ((s.exposure.phase ≠ .stopped) ∧ (s.exposure.immediate = false) ∧ (s.exposure.nextJ < subFrames f.cfg) ∧ (f.cfg.exposure.centre = true) ∧ (frameTile f tile.val = true) ∧ (rungDur f.params (frameRung f tile.val s.exposure.nextJ) < f.params.d0.toNat) ∧ ((exposureSpan f (frameRung f tile.val s.exposure.nextJ) s.exposure.nextJ).2 ≤ t.tclk)) | _ => false) : Bool) = true ∧
    (let t : Instant := ⟨200000, 0⟩; let s : State := { capt (fr) 0 with exposure.trig.xoEn := true }; (match xoEnd (setNow t s) t.tclk with | some b => decide ((s.exposure.trig.xoEn = true)) | _ => false) : Bool) = true ∧
    (let t : Instant := ⟨9000000, 0⟩; let s : State := { capt (fr) 16 with exposure.phase := .stopping, exposure.xoActive := true }; decide ((s.exposure.xoUntil ≤ t.tclk) ∧ (xoEnd (setNow t s) t.tclk = none) ∧ (s.exposure.xoActive = true)) : Bool) = true ∧
    (let t : Instant := ⟨50000, 0⟩; let s : State := { capt (fr) 0 with exposure.trig.xoEn := true, exposure.xoActive := true }; (if (s.exposure.xoUntil ≤ t.tclk) then (match xoEnd (setNow t s) t.tclk with | some b => decide ((s.exposure.xoActive = true)) | _ => false) else false) : Bool) = true ∧
    (let s : State := { capt (fr) 0 with exposure.trig.xoEn := true }; let f : FrameRec := fr; let j : ℕ := 0; let t : ℕ := 50000; decide ((s.exposure.cur = some f) ∧ (s.exposure.phase = .running) ∧ (s.exposure.immediate = false) ∧ (j < subFrames f.cfg) ∧ ((xoInterval s f j).1 ≤ t) ∧ (t < (xoInterval s f j).2)) : Bool) = true ∧
    (let f : FrameRec := fr; let k : ℕ := 7; let j : ℕ := 15; decide ((f.cfg.exposure.centre = false)) : Bool) = true := by
  and_intros <;> decide +kernel

/-- What ConversionsSendOneWordEach assumes is met, clause by clause. -/
theorem witness_ConversionsSendOneWordEach :
    (let t : Instant := ⟨1000000, 0⟩; let tile : ConvTile := .active 12287; let block : Fin 64 := 63; let slot : Fin 64 := 0; let charge : ℕ := 5; let hcg : ℤ := 100; let lcg : ℤ := 10; let s : State := reading (fr); (match s.readout.run with | some r => (let f : FrameRec := r.frame; decide ((readsTile f tile = true) ∧ (slot.val < readSlots s.rst.fuses.variantMl f.cfg) ∧ (smGet 0 s.readout.nextSlot (convIndex tile block.val) = slot.val) ∧ (r.sb + slotStart f.cfg (tileGroup tile) slot.val ≤ t.tclk) ∧ (s.readout.rampFaults = []) ∧ (s.readout.driverFaults = []))) | _ => false) : Bool) = true ∧
    (let s : State := up; let f : FrameRec := fr { readout := { gainMode := 1 } }; let conv : ℕ := 0; let charge : ℕ := 5; let hcg : ℤ := 5000; let lcg : ℤ := 7; decide ((f.cfg.readout.gainMode = 1)) : Bool) = true ∧
    (let s : State := up; let f : FrameRec := fr { readout := { gainMode := 2 } }; let conv : ℕ := 0; let charge : ℕ := 5; let hcg : ℤ := 5000; let lcg : ℤ := 5000; decide ((f.cfg.readout.gainMode = 2)) : Bool) = true ∧
    (let c : Converted := ⟨32767, true, false, false⟩; decide ((c.value < 32768)) : Bool) = true ∧
    (let t : Instant := t0; let tile : ConvTile := .ob 0; let block : Fin 64 := 0; let flip : BitVec 20 := 0; let s : State := { reading (fr) with readout.bonds := [⟨64 * 12288, 0, sampleWord ⟨5, true, false, false⟩ false⟩] }; (match s.readout.run with | some r => (let f : FrameRec := r.frame; (match popBond (convIndex tile block.val) s.readout.bonds with | some (w, rest) => decide ((wordOk (w.word ^^^ flip) = true) ∧ (accFrameOf s f.id = none)) | _ => false)) | _ => false) : Bool) = true ∧
    (let t : Instant := t0; let tile : TileIx := 0; let block : Fin 64 := 0; let s : State := { reading (fr) with readout.bonds := [⟨0, 0, sampleWord ⟨5, true, false, false⟩ false⟩], accum.frames := [{ frame := fr }] }; (match s.readout.run with | some r => (let f : FrameRec := r.frame; (match popBond (convIndex (.active tile) block.val) s.readout.bonds with | some (w, rest) => decide ((wordOk w.word = true) ∧ ((accFrameOf s f.id).isSome = true) ∧ (s.readout.faultyBlocks = [])) | _ => false)) | _ => false) : Bool) = true ∧
    (let t : Instant := t0; let s : State := reading (fr); (match s.readout.run with | some r => (let f : FrameRec := r.frame; decide ((t.tclk < r.sb + tRo s.rst.fuses.variantMl f.cfg))) | _ => false) : Bool) = true ∧
    (let t : Instant := ⟨9000000, 0⟩; let s : State := reading (fr); (match s.readout.run with | some r => (let f : FrameRec := r.frame; decide ((r.sb + tRo s.rst.fuses.variantMl f.cfg ≤ t.tclk) ∧ (accFrameOf s f.id = none) ∧ (s.exposure.phase = .running))) | _ => false) : Bool) = true := by
  and_intros <;> decide +kernel

/-- What TriggersPlaceTheNextBoundary assumes is met, clause by clause. -/
theorem witness_TriggersPlaceTheNextBoundary :
    (let e : ℕ := 0; let s : State := { up with exposure.phase := .running, exposure.trig.mode := 1 }; (if (s.exposure.phase = .running) ∧ (s.exposure.trig.mode = 1) then (let p : ℕ := s.exposure.trig.pin.toNat; (let falling : Bool := s.exposure.trig.edgeFalling; decide ((s.exposure.armedFrom ≤ e) ∧ (s.exposure.nextFb = none) ∧ (s.exposure.burstLeft = 0) ∧ (s.exposure.edgeDeferred = false) ∧ (s.exposure.edgeQueue = []) ∧ (earliestBoundary s ≤ e + 12 + s.exposure.trig.delay.toNat)))) else false) : Bool) = true ∧
    (let p : ℕ := 0; let e : ℕ := 0; let falling : Bool := false; let s : State := { up with exposure.phase := .running, exposure.trig.mode := 1, exposure.burstLeft := 3 }; decide ((s.exposure.phase = .running) ∧ (s.exposure.trig.mode = 1) ∧ (s.exposure.trig.pin.toNat = p) ∧ (s.exposure.trig.edgeFalling = falling) ∧ (s.exposure.armedFrom ≤ e) ∧ (s.exposure.burstLeft ≠ 0 ∨ e + 12 + s.exposure.trig.delay.toNat < earliestBoundary s)) : Bool) = true ∧
    (let s : State := up; decide ((s.exposure.trig.early = false ∨ s.exposure.edgeDeferred = true)) : Bool) = true ∧
    (let s : State := { up with exposure.phase := .running, exposure.trig.mode := 1, exposure.trig.early := true, exposure.burstLeft := 3 }; decide ((s.exposure.trig.early = true) ∧ (s.exposure.edgeDeferred = false) ∧ (s.exposure.edgeQueue = [])) : Bool) = true ∧
    (let t : Instant := t0; let s : State := { up with exposure.phase := .running, exposure.trig.mode := 2 }; (match gridPoint s.exposure.trig s.exposure.gridIx with | some g => (if (s.exposure.phase = .running) ∧ (s.exposure.trig.mode = 2) then (let fb : ℕ := cycleOfRing (setNow t s) g; decide ((fb ≤ t.tclk) ∧ (earliestBoundary (setNow t s) ≤ fb) ∧ (frameFull (setNow t s) = true) ∧ (s.exposure.nextFb = none))) else false) | _ => false) : Bool) = true ∧
    (let t : Instant := t0; let s : State := { up with exposure.phase := .running, exposure.trig.mode := 2, exposure.rtMissedRaised := true, exposure.nextFb := some 9 }; (match gridPoint s.exposure.trig s.exposure.gridIx with | some g => decide ((s.exposure.phase = .running) ∧ (s.exposure.trig.mode = 2) ∧ (cycleOfRing (setNow t s) g ≤ t.tclk) ∧ (s.exposure.rtMissedRaised = true) ∧ (s.exposure.nextFb.isSome = true ∨ cycleOfRing (setNow t s) g < earliestBoundary (setNow t s))) | _ => false) : Bool) = true ∧
    (let t : Instant := ⟨16000000, 0⟩; let s : State := { up with exposure.phase := .running, exposure.cfg.exposure.flkSrc := 2, exposure.nextFb := some 0, exposure.mainsEdges := (List.range 9).map (2000000 * ·) }; (if (s.exposure.cfg.exposure.flkSrc = 2) ∧ (s.exposure.phase = .running) then (match comingBoundary (setNow t s) with | some fb => decide ((fb ≤ t.tclk + guardCycles (setNow t s)) ∧ (s.exposure.mainsLost = false) ∧ (8 ≤ (mainsPeriods (setNow t s).now.tclk s.exposure.mainsEdges).length)) | _ => false) else false) : Bool) = true ∧
    (let t : Instant := t0; let s : State := base; decide ((s.exposure.cfg.exposure.flkSrc ≠ 2)) : Bool) = true ∧
    (let t : Instant := t0; let frame : FrameId := 1; let s : State := { up with exposure.phase := .running, exposure.cfg.exposure.expSrc := true }; decide ((aeRuns (setNow t s) = true)) : Bool) = true ∧
    (let t : Instant := t0; let frame : FrameId := 1; let s : State := base; decide ((aeRuns (setNow t s) = false)) : Bool) = true := by
  and_intros <;> decide +kernel

/-- What AccumulationWindowsCloseAndRelease assumes is met, clause by clause. -/
theorem witness_AccumulationWindowsCloseAndRelease :
    (let t : Instant := t0; let tile : TileIx := 0; let pixels : ℕ := 1; let ecc : List EccHit := []; let bad : List ℕ := []; let s : State := accing (fr); (match nextJobFor (setNow t s) tile.val with | some (x, f) => decide ((x.readDone = true) ∧ (frameTile f tile.val = true) ∧ (x.j = 0 ∨ x.deadlinePassed = true ∨ bitAt (smGet 0 x.records (recordTile f tile.val)) 15 = true)) | _ => false) : Bool) = true ∧
    (let t : Instant := t0; let tile : TileIx := 0; let pixels : ℕ := 5; let ecc : List EccHit := []; let bad : List ℕ := []; let s : State := { capt (fr) 1 with accum.frames := [{ frame := fr, readCount := 1 }], accum.jobs := [{ g := 0, frame := 1, j := 0, sb := 100000 }] }; (match nextJobFor (setNow t s) tile.val with | some (x, f) => decide ((x.readDone = false ∨ frameTile f tile.val = false ∨ (x.j ≠ 0 ∧ x.deadlinePassed = false ∧ bitAt (smGet 0 x.records (recordTile f tile.val)) 15 = false))) | _ => false) : Bool) = true ∧
    (let x : SubJob := { g := 0, frame := 1, j := 3, sb := 0 }; let f : FrameRec := fr; let t : ℕ := 9; let pixels : ℕ := 5; let bad : List ℕ := []; let s : State := accing (fr); decide ((x.j + 1 < subFrames f.cfg)) : Bool) = true ∧
    (let f : FrameRec := fr; let x : SubJob := { g := 0, frame := 1, j := 0, sb := 0 }; let t : ℕ := 0; let pixels : ℕ := 1; let bad : List ℕ := []; let s : State := up; let a : ℕ := 0x40000; decide ((Mem.wf s.dram) ∧ (a < drawerBase t ∨ drawerBase (t + 1) ≤ a)) : Bool) = true ∧
    (let t : Instant := ⟨99000000, 0⟩; let valid : ℕ := 5; let s : State := accing (fr); (match s.accum.jobs.find? (fun x => !x.deadlinePassed) with | some x => (match accFrameOf s x.frame with | some a => decide ((vectorDeadline s a.frame x ≤ t.tclk) ∧ (x.readDone = true)) | _ => false) | _ => false) : Bool) = true ∧
    (let t : Instant := ⟨99000000, 0⟩; let s : State := accing (fr); (match s.accum.jobs with | x :: xs => (match accFrameOf s x.frame with | some a => decide ((windowEnd s a.frame x ≤ t.tclk) ∧ (x.readDone = true)) | _ => false) | _ => false) : Bool) = true ∧
    (let s : State := accing (fr); let x : SubJob := { g := 0, frame := 1, j := 0, sb := 0 }; (match accFrameOf s x.frame with | some a => true | _ => false) : Bool) = true ∧
    (let s : State := accing (fr); let x : SubJob := { g := 0, frame := 1, j := 15, sb := 0 }; (match accFrameOf s x.frame with | some a => decide ((x.j + 1 = subFrames a.frame.cfg)) | _ => false) : Bool) = true ∧
    (let t : Instant := t0; let s : State := accing (fr); (match s.accum.jobs with | x :: xs => (match accFrameOf s x.frame with | some a => decide ((t.tclk < windowEnd s a.frame x)) | _ => false) | _ => false) : Bool) = true ∧
    (let m : AccMode := { bracketed := false, exps := [] }; let a : AccWord := {}; let x : ℤ := 32632; let sat : Bool := true; let r : ℕ := 3; decide ((m.bracketed = false)) : Bool) = true ∧
    (let xs : List (ℤ × Bool) := [(32632, false)]; decide ((xs.length ≤ 32) ∧ (∀ y ∈ xs, -128 ≤ y.1 ∧ y.1 ≤ 32632)) : Bool) = true := by
  and_intros <;> decide +kernel

/-- What MotionBasteAndHaloEvents assumes is met, clause by clause. -/
theorem witness_MotionBasteAndHaloEvents :
    (let t : Instant := t0; let ecc : List EccHit := []; let s : State := accing (fr { accum := { maa := 1 } }); (match s.accum.jobs.find? (fun x => x.readDone && !x.kernelBegun) with | some x => (match accFrameOf s x.frame with | some a => decide ((usesMotion a.frame.cfg = true) ∧ (motionKernelUp s = true)) | _ => false) | _ => false) : Bool) = true ∧
    (let t : Instant := t0; let ecc : List EccHit := []; let s : State := { up with rst.asserted := [.bobbin] }; decide ((motionKernelUp s = false)) : Bool) = true ∧
    (let f : FrameRec := fr; let x : SubJob := { g := 0, frame := 1, j := 0, sb := 0 }; let s : State := accing (fr); let a : ℕ := 0; decide ((Mem.wf s.dram) ∧ (a < basisBase 0 ∨ basisBase 3 ≤ a)) : Bool) = true ∧
    (let f : FrameRec := fr; let x : SubJob := { g := 0, frame := 1, j := 0, sb := 0 }; let s : State := accing (fr); let p := 7; decide ((p ≠ 0)) : Bool) = true ∧
    (let g : ℕ := 1; let rs : List (ℕ × BitVec 16) := [(12287, 5)]; let s : State := up; let i : ℕ := 12287; let r : BitVec 16 := 5; decide ((rs = [(i, r)]) ∧ (i < 12288) ∧ (s.engines.pillows ≠ []) ∧ (Mem.wf (s.engines.pillows.getD 0 []))) : Bool) = true ∧
    (let t : Instant := ⟨99000000, 0⟩; let s : State := accing (fr { accum := { baste := true } }); (match s.accum.frames.find? (fun a => bastes a.frame.cfg && !a.basteDecided && decide (a.frame.cfg.accum.basteK.toNat ≤ a.readCount)) with | some a => decide ((sbAt a.frame (a.frame.cfg.accum.basteK.toNat - 1) + tRo s.rst.fuses.variantMl a.frame.cfg ≤ t.tclk)) | _ => false) : Bool) = true ∧
    (let a : AccumFrame := { frame := fr }; let s : State := up; decide ((basteStreams s = []) ∧ (formsBasted s a.frame = false)) : Bool) = true ∧
    (let t : Instant := t0; let a : Fin 768 := 0; let b : Fin 768 := 1; let s : State := { accing (fr) with accum.haloRaised := true }; decide ((s.accum.jobs ≠ []) ∧ (s.accum.haloRaised = true)) : Bool) = true ∧
    (let t : Instant := t0; let a : Fin 768 := 767; let b : Fin 768 := 0; let s : State := accing (fr); decide ((s.accum.jobs ≠ []) ∧ (s.accum.haloRaised = false)) : Bool) = true := by
  and_intros <;> decide +kernel

/-- What BackgroundTestsAndScrubbing assumes is met, clause by clause. -/
theorem witness_BackgroundTestsAndScrubbing :
    (let t : Instant := t0; let s : State := cmdIn 0x0F03 [0] up; (match taken t 0x0F03 s with | some (p, s1) => decide ((firstReserved (cmdOf p).words [0x1FF] = none) ∧ (fldN (par p 0) 0 8 = 0) ∧ (s1.readout.test = none)) | _ => false) : Bool) = true ∧
    (let t : Instant := t0; let s : State := cmdIn 0x0F03 [0x20] up; (match taken t 0x0F03 s with | some (p, s1) => decide ((firstReserved (cmdOf p).words [0x1FF] = none) ∧ (fldN (par p 0) 0 8 = 0x20) ∧ (s1.readout.test = none)) | _ => false) : Bool) = true ∧
    (let t : Instant := t0; let s : State := cmdIn 0x0F03 [0x20] ({ up with readout.test := some ⟨0x20, false, t0, false⟩ }); (match taken t 0x0F03 s with | some (p, s1) => decide ((firstReserved (cmdOf p).words [0x1FF] = none) ∧ (fldN (par p 0) 0 8 = 0x20) ∧ (s1.readout.test ≠ none)) | _ => false) : Bool) = true ∧
    (let t : Instant := t0; let ms : List RatioMeasure := []; let s : State := base; decide ((s.readout.test = none)) : Bool) = true ∧
    (let t : Instant := t0; let fails : List ℕ := []; let ms : List RatioMeasure := []; let s : State := { up with readout.test := some ⟨0x20, false, t0, false⟩ }; (match s.readout.test with | some x => decide ((x.storing = false) ∧ (s.rst.asserted.contains .converter = false) ∧ (x.code = 0x20)) | _ => false) : Bool) = true ∧
    (let old : ℤ := 0; let m : RatioMeasure := { conv := 0, count := 1, sumH := 2000, sumL := 2000, clean := true }; let v : ℤ := (newTrim 0 { conv := 0, count := 1, sumH := 2000, sumL := 2000, clean := true }).getD 0; decide ((newTrim old m = some v)) : Bool) = true ∧
    (let t : Instant := t0; let s : State := up; decide ((s.accum.selfRefresh = false) ∧ (blockRuns .memory s = true) ∧ (s.accum.scrubAddr % 8 = 0) ∧ (s.accum.scrubAddr + 8 < 0x100000000) ∧ (s.dramBad.contains (s.accum.scrubAddr / 8) = false) ∧ (s.dramSoft.contains (s.accum.scrubAddr / 8) = false)) : Bool) = true ∧
    (let t : Instant := t0; let addr : ℕ := 0; let f : EccFind := .clean; let s : State := base; decide ((s.accum.selfRefresh = true ∨ blockRuns .memory s = false)) : Bool) = true ∧
    (let t : Instant := t0; let s : State := { up with clock.limp := true, clock.rootLostPending := true }; decide ((s.clock.limp = true) ∧ (s.clock.rootLostPending = true ∨ s.clock.baseChange = true)) : Bool) = true := by
  and_intros <;> decide +kernel

/-- What CalTablesAndVersionBoundaries assumes is met, clause by clause. -/
theorem witness_CalTablesAndVersionBoundaries :
    (let t : Instant := t0; let s : State := cmdIn 0x0203 [6, 0, 5] up; (match taken t 0x0203 s with | some (p, s1) => decide ((firstReserved (cmdOf p).words [0x000F00FF, 0xFFFFFFFF] = none) ∧ (1 ≤ fldN (par p 0) 0 8) ∧ (fldN (par p 0) 0 8 ≤ 7) ∧ (fldN (par p 0) 16 2 = 0) ∧ (bitAt (par p 0) 19 = false) ∧ ((par p 1).toNat % 4 = 0) ∧ ((par p 1).toNat + 4 * ((cmdOf p).words.drop 2).length ≤ stagingBytes s1.rst.fuses.variantMl (fldN (par p 0) 0 8))) | _ => false) : Bool) = true ∧
    (let t : Instant := t0; let s : State := cmdIn 0x0203 [8, 0] up; (match taken t 0x0203 s with | some (p, s1) => decide ((firstReserved (cmdOf p).words [0x000F00FF, 0xFFFFFFFF] = none) ∧ (fldN (par p 0) 0 8 = 0 ∨ 7 < fldN (par p 0) 0 8 ∨ fldN (par p 0) 16 2 = 3)) | _ => false) : Bool) = true ∧
    (let store : Bool := false; let x : CalStaging := { table := 1, dest := 0, words := [(0, 0x00010001)] }; let b : State := up; let s : State := up; decide ((calReason s.rst.fuses.variantMl s.rst.fuses.deviceId x.table (stagedWord x) = 2)) : Bool) = true ∧
    (let store : Bool := false; let x : CalStaging := { table := 1, dest := 0 }; let b : State := up; let s : State := up; decide ((calReason s.rst.fuses.variantMl s.rst.fuses.deviceId x.table (stagedWord x) ≠ 0) ∧ (calReason s.rst.fuses.variantMl s.rst.fuses.deviceId x.table (stagedWord x) ≠ 2)) : Bool) = true ∧
    (let ecc : List EccHit := []; let s : State := { up with history.slots := some { held (fr) with frozen := false } :: List.replicate 19 none }; (if (frontCan s = true) ∧ (frontStalled s = false) then (match (ctxOrder s).find? (bandReady s) with | some i => true | _ => false) else false) : Bool) = true ∧
    (let ecc : List EccHit := []; let s : State := { up with front.versions := [{ ctx := 0, kind := 1, src := .baste, id := 1, basted := false, hdr := {}, width := 64, height := 64, guardOrder := false, values := {}, cfg := {}, bandsDone := 1, nr := some { kid := 0, apron := 0, recv := [0], pushed := [0] } }] }; decide ((frontStalled s = true)) : Bool) = true ∧
    (let t : Instant := t0; let ecc : List EccHit := []; let s : State := base; decide ((frontCan (setNow t s) = false)) : Bool) = true ∧
    (let t : Instant := t0; let s : State := { up with history.slots := some { held (fr) with frozen := false } :: List.replicate 19 none }; (if (frontCan (setNow t s) = true) then (match (ctxOrder (setNow t s)).find? (fun i => (versionOf (setNow t s) i).isNone && (candidate (setNow t s) i).isSome) with | some i => true | _ => false) else false) : Bool) = true ∧
    (let s : State := up; decide ((s.front.versions = [])) : Bool) = true ∧
    (let t : Instant := t0; let s : State := { up with rst.asserted := [.pipeline] }; decide ((pipeRuns s = false)) : Bool) = true ∧
    (let t : Instant := t0; let s : State := up; decide ((pipeRuns s = true) ∧ (s.back.drained = 0)) : Bool) = true ∧
    (let t : Instant := t0; let s : State := { up with back.drained := 1 }; decide ((pipeRuns s = true) ∧ (s.back.drained ≠ 0)) : Bool) = true ∧
    (let s : State := { up with cal.frontPending := [⟨1, 0, []⟩] }; decide ((calWaits s = true)) : Bool) = true := by
  and_intros <;> decide +kernel

/-- What IngressFramesFillFromPackets assumes is met, clause by clause. -/
theorem witness_IngressFramesFillFromPackets :
    (let t : Instant := t0; let node : BitVec 7 := 5; let port : BitVec 9 := 9; let pkt : List Word := streamPacket 1 [0, 7, 0x00020000, 0x00020010, 0, 0, 0, 0, 0]; let s : State := ing; (if (pipeRuns s = true) ∧ (packetOk pkt = true) ∧ (fldN (pkt.headD 0) 28 4 = 1) then (match ctxsOf s node port with | [i] => true | _ => false) else false) : Bool) = true ∧
    (let t : Instant := t0; let node : BitVec 7 := 5; let port : BitVec 9 := 9; let pkt : List Word := [5]; let s : State := ing; decide ((packetOk pkt = false ∨ pipeRuns s = false)) : Bool) = true ∧
    (let t : Instant := t0; let node : BitVec 7 := 5; let port : BitVec 9 := 9; let pkt : List Word := []; let s : State := { up with rst.asserted := [.pipeline] }; decide ((pipeRuns s = false)) : Bool) = true ∧
    (let i : ℕ := 1; let pkt : List Word := streamPacket 1 [0, 7, 0x00020000, 0x00020010, 0, 0, 0, 0, 0]; let s : State := ing; (if (openIngress s i = none) ∧ ((marksOf (pkt.getD 3 0)).basted = false) ∧ (headerMismatch s.rst.fuses.variantMl (inputCtx s i) pkt = false) ∧ ((marksOf (pkt.getD 3 0)).dropped = false) then (match (servingFrames s i).find? (fun k => (ingressAt s k).phase == .free) with | some k => true | _ => false) else false) : Bool) = true ∧
    (let i : ℕ := 1; let pkt : List Word := streamPacket 1 [0, 7, 0x00020000, 0x00020010, 0, 0, 0, 0, 0]; let s : State := { ing { phase := .waiting, ctx := 1, ended := true } with front.ingress := [{ phase := .waiting, ctx := 1, ended := true }, { phase := .waiting, ctx := 1, ended := true, order := 1 }] }; (if (openIngress s i = none) ∧ ((marksOf (pkt.getD 3 0)).basted = false) ∧ (headerMismatch s.rst.fuses.variantMl (inputCtx s i) pkt = false) ∧ ((marksOf (pkt.getD 3 0)).dropped = false) ∧ ((servingFrames s i).find? (fun k => (ingressAt s k).phase == .free) = none) then (match oldestWaiting s i with | some k => true | _ => false) else false) : Bool) = true ∧
    (let i : ℕ := 1; let pkt : List Word := streamPacket 1 [0, 7, 0x00020000, 0, 0]; let s : State := ing; decide ((openIngress s i = none) ∧ ((marksOf (pkt.getD 3 0)).basted = false) ∧ (i < 2) ∧ (headerMismatch s.rst.fuses.variantMl (inputCtx s i) pkt = true)) : Bool) = true ∧
    (let i : ℕ := 1; let pkt : List Word := streamPacket 1 [0, 7, 0x00020000, 0, 0]; let s : State := { ing with front.fmtErrRaised := [1] }; decide ((openIngress s i = none) ∧ ((marksOf (pkt.getD 3 0)).basted = false) ∧ (i < 2) ∧ (headerMismatch s.rst.fuses.variantMl (inputCtx s i) pkt = true) ∧ (s.front.fmtErrRaised.contains i = true)) : Bool) = true ∧
    (let i : ℕ := 1; let k : ℕ := 1; let pkt : List Word := streamPacket 1 [0, 7, 0x00020000, 0x00020010, 0, 0, 0, 0, 0]; let s : State := ing; decide ((k < s.front.ingress.length) ∧ (i < 2)) : Bool) = true ∧
    (let t : Instant := t0; let node : BitVec 7 := 5; let port : BitVec 9 := 9; let pkt : List Word := streamPacket 2 [0, 7, 0, 0, 0, 0, 0]; let s : State := ing; (if (pipeRuns s = true) ∧ (fldN (pkt.headD 0) 28 4 = 2) then (match ctxsOf s node port with | [i] => true | _ => false) else false) : Bool) = true ∧
    (let i : ℕ := 1; let pkt : List Word := streamPacket 2 [0, 7, 0, 0, 0, 0, 0]; let s : State := ing { phase := .filling, ctx := 1, hdr := { id := 7 } }; (match openIngress s i with | some k => (if (packetOk pkt = true) ∧ (pkt.getD 2 0 = (ingressAt s k).hdr.id) ∧ (fldN (pkt.getD 3 0) 16 14 < (inputCtx s i).height.toNat) ∧ ((ingressAt s k).lines.any (fun l => l.1 == fldN (pkt.getD 3 0) 16 14) = false) ∧ ((ingressAt s k).blackLines.contains (fldN (pkt.getD 3 0) 16 14) = false) then (match lineValues s i (ingressAt s k) pkt with | some vs => true | _ => false) else false) | _ => false) : Bool) = true ∧
    (let i : ℕ := 1; let pkt : List Word := (streamPacket 2 [0, 7, 0, 0, 0, 0, 0]).set 4 5; let s : State := ing { phase := .filling, ctx := 1, hdr := { id := 7 } }; (match openIngress s i with | some k => decide ((packetOk pkt = false) ∧ (i < 2) ∧ (k < s.front.ingress.length)) | _ => false) : Bool) = true ∧
    (let i : ℕ := 1; let pkt : List Word := (streamPacket 2 [0, 7, 0, 0, 0, 0, 0]).set 4 5; let s : State := ing { phase := .filling, ctx := 1, hdr := { id := 7 } }; (match openIngress s i with | some k => decide ((packetOk pkt = false) ∧ (i < 2) ∧ (k < s.front.ingress.length) ∧ (fldN (pkt.getD 3 0) 16 14 < (inputCtx s i).height.toNat) ∧ ((ingressAt s k).lines.any (fun l => l.1 == fldN (pkt.getD 3 0) 16 14) = false) ∧ ((ingressAt s k).blackLines.contains (fldN (pkt.getD 3 0) 16 14) = false)) | _ => false) : Bool) = true ∧
    (let i : ℕ := 1; let pkt : List Word := (streamPacket 2 [0, 7, 0, 0, 0, 0, 0]).set 4 5; let s : State := ing { phase := .filling, ctx := 1, hdr := { id := 7 }, lines := [(0, [])] }; (match openIngress s i with | some k => decide ((packetOk pkt = false) ∧ (i < 2) ∧ (k < s.front.ingress.length) ∧ ((inputCtx s i).height.toNat ≤ fldN (pkt.getD 3 0) 16 14 ∨ (ingressAt s k).lines.any (fun l => l.1 == fldN (pkt.getD 3 0) 16 14) = true)) | _ => false) : Bool) = true ∧
    (let i : ℕ := 1; let pkt : List Word := streamPacket 2 [0, 7, 0, 0, 0, 0, 0]; let s : State := ing { phase := .filling, ctx := 1, hdr := { id := 7 }, blackLines := [0] }; (match openIngress s i with | some k => (if (packetOk pkt = true) ∧ ((ingressAt s k).blackLines.contains (fldN (pkt.getD 3 0) 16 14) = true) then (match lineValues s i (ingressAt s k) pkt with | some vs => true | _ => false) else false) | _ => false) : Bool) = true ∧
    (let x : InputCtx := { enable := true, prio := false, kind := 3, fmt := 4, fshift := 12 }; let v : ℕ := 65535; decide ((x.fmt.toNat ≤ 4) ∧ (x.fshift.toNat ≤ 12)) : Bool) = true ∧
    (let t : Instant := t0; let node : BitVec 7 := 5; let port : BitVec 9 := 9; let pkt : List Word := streamPacket 3 [0, 7, 0, 0]; let s : State := ing; (if (pipeRuns s = true) ∧ (fldN (pkt.headD 0) 28 4 = 3) then (match ctxsOf s node port with | [i] => true | _ => false) else false) : Bool) = true ∧
    (let i : ℕ := 0; let pkt : List Word := []; let s : State := up; decide ((openIngress s i = none)) : Bool) = true ∧
    (let t : Instant := t0; let node : BitVec 7 := 5; let port : BitVec 9 := 9; let pkt : List Word := streamPacket 4 [0, 7, 0, 0]; let s : State := ing { phase := .filling, ctx := 1, hdr := { id := 7 } }; (if (pipeRuns s = true) ∧ (packetOk pkt = true) ∧ (fldN (pkt.headD 0) 28 4 = 4) then (match ctxsOf s node port with | [i] => (match openIngress s i with | some k => decide (((ingressAt s k).hdr.id = pkt.getD 2 0)) | _ => false) | _ => false) else false) : Bool) = true ∧
    (let t : Instant := ⟨5000000, 0⟩; let i : Fin 2 := 1; let s : State := ing { phase := .filling, ctx := 1, hdr := { id := 7 } }; (if (pipeRuns s = true) then (match openIngress s i.val with | some k => decide (((ingressAt s k).since.tclk + 100 * (inputCtx s i.val).deadline.toNat ≤ t.tclk)) | _ => false) else false) : Bool) = true ∧
    (let t : Instant := t0; let i : Fin 2 := 1; let s : State := up; decide ((openIngress s i.val = none)) : Bool) = true ∧
    (let k : ℕ := 1; let late : Bool := true; let sent : Marks := {}; let s : State := ing; decide ((k < s.front.ingress.length)) : Bool) = true ∧
    (let k : ℕ := 1; let late : Bool := true; let sent : Marks := {}; let s : State := { ing { phase := .filling, ctx := 1, hdr := { id := 7 } } with front.ingress := [{}, { phase := .filling, ctx := 1, hdr := { id := 7 } }] }; decide ((k < s.front.ingress.length) ∧ (missingLines (inputCtx s (ingressAt s k).ctx).height.toNat (ingressAt s k) ≠ 0)) : Bool) = true := by
  and_intros <;> decide +kernel

/-- What PipelineCommandsPutValuesInForce assumes is met, clause by clause. -/
theorem witness_PipelineCommandsPutValuesInForce :
    (let t : Instant := t0; let s : State := cmdIn 0x0201 [] ({ up with front.ctx0.enable := false }); (match taken t 0x0201 s with | some (p, s1) => (if (firstReserved (cmdOf p).words [0xFFC, 3] = none) then (let c : PipeCfg := pipeOf (overlay (cmdOf p).words (pipeWords s1.front.cfg)); decide ((c.nrMode.toNat ≤ 4) ∧ (c.nrMode = 4 → (nrLoaded s1).isSome = true ∧ s1.power.hold = false ∧ admission s1 { caseNow s1 with pipe := c, starting := (nrHolder s1).or (nrLoaded s1) } = none) ∧ (pipelineStopped s1 = true) ∧ (pillowConflict s1 s1.exposure.cfg c = false))) else false) | _ => false) : Bool) = true ∧
    (let t : Instant := t0; let s : State := cmdIn 0x0201 [] up; (match taken t 0x0201 s with | some (p, s1) => (if (firstReserved (cmdOf p).words [0xFFC, 3] = none) then (let c : PipeCfg := pipeOf (overlay (cmdOf p).words (pipeWords s1.front.cfg)); decide ((c.nrMode.toNat ≤ 4) ∧ (c.nrMode = 4 → (nrLoaded s1).isSome = true) ∧ (pipelineStopped s1 = false ∨ (c.nrMode = 4 ∧ s1.power.hold = true)))) else false) | _ => false) : Bool) = true ∧
    (let t : Instant := t0; let s : State := cmdIn 0x0201 [0xFFC] up; (match taken t 0x0201 s with | some (p, s1) => decide ((firstReserved (cmdOf p).words [0xFFC, 3] = none) ∧ (4 < (pipeOf (overlay (cmdOf p).words (pipeWords s1.front.cfg))).nrMode.toNat)) | _ => false) : Bool) = true ∧
    (let t : Instant := t0; let s : State := cmdIn 0x0202 [0] up; (match taken t 0x0202 s with | some (p, s1) => decide ((firstReserved (cmdOf p).words pipeParamMasks = none) ∧ (pipeParamsBad s1 (overlay (cmdOf p).words (pipeParamWords s1.front.params)) (pipeUpdOf (overlay (cmdOf p).words (pipeParamWords s1.front.params))) = none) ∧ (captureStopped s1 = true) ∧ (bitAt (paramAt (overlay (cmdOf p).words (pipeParamWords s1.front.params)) 0) 16 = false)) | _ => false) : Bool) = true ∧
    (let t : Instant := t0; let s : State := cmdIn 0x0202 [0] (capt (fr) 0); (match taken t 0x0202 s with | some (p, s1) => (if (firstReserved (cmdOf p).words pipeParamMasks = none) then (let ws : List Word := overlay (cmdOf p).words (pipeParamWords s1.front.params); (let u : PipeUpd := pipeUpdOf ws; (if (pipeParamsBad s1 ws u = none) ∧ (captureStopped s1 = false ∨ bitAt (paramAt ws 0) 16 = true) then (match submitSet applyPipeUpd (fun _ => true) s1.front.params s1.front.pendingSets s1 (cmdOf p) (bitAt (paramAt ws 0) 17) (if bitAt (paramAt ws 0) 16 then some (paramAt ws 1) else none) u with | .accepted x late shown => true | _ => false) else false))) else false) | _ => false) : Bool) = true ∧
    (let t : Instant := t0; let s : State := cmdIn 0x0202 ([0x40] ++ List.replicate 16 0 ++ [257]) up; let w : ℕ := 17; (match taken t 0x0202 s with | some (p, s1) => (if (firstReserved (cmdOf p).words pipeParamMasks = none) then (let ws : List Word := overlay (cmdOf p).words (pipeParamWords s1.front.params); decide ((pipeParamsBad s1 ws (pipeUpdOf ws) = some w))) else false) | _ => false) : Bool) = true ∧
    (let t : Instant := t0; let s : State := cmdIn 0x0204 [0xA001, 0x00090005, 0x00200020, 50000, 0] up; (match taken t 0x0204 s with | some (p, s1) => (let i : ℕ := fldN (par p 0) 0 1; (if (firstReserved (cmdOf p).words [0xF001, 0x1FF007F, 0x3FFF3FFF, 0xFFFFFFFF, 0xFFFF0F7F] = none) then (let new : InputCtx := inputOf (overlay (cmdOf p).words (inputWords i (inputCtx s1 i))); (if (inputBad s1.rst.fuses.variantMl (inputCtx s1 (1 - i)) new = none) ∧ ((inputCtx s1 i).enable = false ∨ new = { inputCtx s1 i with prio := new.prio }) ∧ (new.enable = true) then (let u : State := (if new.prio then setCtx (1 - i) { inputCtx s1 (1 - i) with prio := false } (setCtx i new s1) else setCtx i new s1); true) else false)) else false)) | _ => false) : Bool) = true ∧
    (let t : Instant := t0; let s : State := cmdIn 0x0204 (inputWords 0 { enable := false, prio := true, kind := 1 }) up; let i : ℕ := 0; let new : InputCtx := inputOf (inputWords 0 { enable := false, prio := true, kind := 1 }); (match taken t 0x0204 s with | some (p, s1) => (if (i = fldN (par p 0) 0 1) ∧ (firstReserved (cmdOf p).words [0xF001, 0x1FF007F, 0x3FFF3FFF, 0xFFFFFFFF, 0xFFFF0F7F] = none) ∧ (new = inputOf (overlay (cmdOf p).words (inputWords i (inputCtx s1 i)))) ∧ (inputBad s1.rst.fuses.variantMl (inputCtx s1 (1 - i)) new = none) ∧ ((inputCtx s1 i).enable = false ∨ new = { inputCtx s1 i with enable := false }) ∧ (new.enable = false) then (let u : State := (if new.prio then setCtx (1 - i) { inputCtx s1 (1 - i) with prio := false } (setCtx i new s1) else setCtx i new s1); true) else false) | _ => false) : Bool) = true ∧
    (let t : Instant := t0; let s : State := cmdIn 0x0204 (inputWords 0 { enable := true, prio := true, kind := 0 }) up; let i : ℕ := 0; let new : InputCtx := inputOf (inputWords 0 { enable := true, prio := true, kind := 0 }); (match taken t 0x0204 s with | some (p, s1) => decide ((i = fldN (par p 0) 0 1) ∧ (firstReserved (cmdOf p).words [0xF001, 0x1FF007F, 0x3FFF3FFF, 0xFFFFFFFF, 0xFFFF0F7F] = none) ∧ (new = inputOf (overlay (cmdOf p).words (inputWords i (inputCtx s1 i)))) ∧ (inputBad s1.rst.fuses.variantMl (inputCtx s1 (1 - i)) new = none) ∧ ((inputCtx s1 i).enable = true) ∧ (new ≠ { inputCtx s1 i with enable := false }) ∧ (new ≠ { inputCtx s1 i with prio := new.prio })) | _ => false) : Bool) = true ∧
    (let t : Instant := t0; let s : State := cmdIn 0x0204 [0xA001, 0x00090000, 0x00100020, 50000, 0] up; (match taken t 0x0204 s with | some (p, s1) => (let i : ℕ := fldN (par p 0) 0 1; (if (firstReserved (cmdOf p).words [0xF001, 0x1FF007F, 0x3FFF3FFF, 0xFFFFFFFF, 0xFFFF0F7F] = none) then (let new : InputCtx := inputOf (overlay (cmdOf p).words (inputWords i (inputCtx s1 i))); (match inputBad s1.rst.fuses.variantMl (inputCtx s1 (1 - i)) new with | some w => true | _ => false)) else false)) | _ => false) : Bool) = true ∧
    (let t : Instant := t0; let s : State := cmdIn 0x0205 [0x0101, 64, 64] up; (match taken t 0x0205 s with | some (p, s1) => (let ws : List Word := overlay (cmdOf p).words (statsWords s1.back); decide ((firstReserved (cmdOf p).words [0xFF01, 0xFFFFFFFF, 0xFFFFFFFF] = none) ∧ (fldN (paramAt ws 0) 8 8 ≠ 0) ∧ ((paramAt ws 1).toNat ≤ (paramAt ws 2).toNat))) | _ => false) : Bool) = true ∧
    (let t : Instant := t0; let s : State := cmdIn 0x0206 [1, 50592, 1] ({ up with back.sets := some { frame := fr, order := 0, unsent := false } :: List.replicate 19 none }); (match taken t 0x0206 s with | some (p, s1) => (if ((cmdOf p).words.length = 3) ∧ (firstReserved (cmdOf p).words [0xFFFFFFFF, 0xFFFF, 0xFFFF] = none) ∧ (s1.front.versions.any (fun v => v.id == par p 0 && v.kind == 1 && !v.basted) = false) ∧ (fldN (par p 1) 0 16 ≤ 50592) ∧ (fldN (par p 2) 0 16 ≤ pathWords (cmdOf p).via) ∧ (fldN (par p 1) 0 16 + fldN (par p 2) 0 16 ≤ 50593) then (match setSlotOf s1 (par p 0) with | some k => true | _ => false) else false) | _ => false) : Bool) = true ∧
    (let t : Instant := t0; let s : State := cmdIn 0x0206 [1, 0, 1] ({ up with front.versions := [{ ctx := 0, kind := 1, src := .baste, id := 1, basted := false, hdr := {}, width := 64, height := 64, guardOrder := false, values := {}, cfg := {}, bandsDone := 1 }] }); (match taken t 0x0206 s with | some (p, s1) => decide (((cmdOf p).words.length = 3) ∧ (firstReserved (cmdOf p).words [0xFFFFFFFF, 0xFFFF, 0xFFFF] = none) ∧ (s1.front.versions.any (fun v => v.id == par p 0 && v.kind == 1 && !v.basted) = true) ∧ (fldN (par p 1) 0 16 ≤ 50592) ∧ (fldN (par p 2) 0 16 ≤ pathWords (cmdOf p).via) ∧ (fldN (par p 1) 0 16 + fldN (par p 2) 0 16 ≤ 50593)) | _ => false) : Bool) = true ∧
    (let t : Instant := t0; let s : State := base; decide ((newestSet s = none ∨ pipeRuns s = false ∨ blockRuns .bobbin s = false)) : Bool) = true ∧
    (let t : Instant := t0; let s : State := { up with back.sets := some { frame := fr, order := 0, unsent := false } :: List.replicate 19 none }; (match newestSet s with | some (k, x) => decide ((pipeRuns s = true) ∧ (blockRuns .bobbin s = true) ∧ (s.front.cfg.ltmEn = true) ∧ (vendorFaulted s 2 = false) ∧ (grantedAt s 4 = true) ∧ (s.back.grid.map (·.frame) ≠ some x.frame.id) ∧ (FrameId.later s.exposure.firstId x.frame.id = false)) | _ => false) : Bool) = true := by
  and_intros <;> decide +kernel

/-- What StreamCommandsConfigureStartAndStop assumes is met, clause by clause. -/
theorem witness_StreamCommandsConfigureStartAndStop :
    (let t : Instant := t0; let s : State := cmdIn 0x0301 [] up 1 7; (match taken t 0x0301 s with | some (p, s1) => (let i : ℕ := (cmdOf p).sel; (let ws : List Word := overlay (cmdOf p).words (streamWords s1 i); decide ((firstReserved (cmdOf p).words streamMasks = none) ∧ (streamBad s1 i (streamOf ws) (fldN (paramAt ws 3) 16 14) (fldN (paramAt ws 3) 0 14) = none) ∧ ((stream s1 i).enabled = false) ∧ ((stream s1 i).stopping = false)))) | _ => false) : Bool) = true ∧
    (let t : Instant := t0; let s : State := cmdIn 0x0301 [] (str); (match taken t 0x0301 s with | some (p, s1) => (let i : ℕ := (cmdOf p).sel; (let ws : List Word := overlay (cmdOf p).words (streamWords s1 i); decide ((firstReserved (cmdOf p).words streamMasks = none) ∧ (streamBad s1 i (streamOf ws) (fldN (paramAt ws 3) 16 14) (fldN (paramAt ws 3) 0 14) = none) ∧ ((stream s1 i).enabled = true ∨ (stream s1 i).stopping = true)))) | _ => false) : Bool) = true ∧
    (let t : Instant := t0; let s : State := cmdIn 0x0301 [0, 0x00100010] up; (match taken t 0x0301 s with | some (p, s1) => (let i : ℕ := (cmdOf p).sel; (let ws : List Word := overlay (cmdOf p).words (streamWords s1 i); (if (firstReserved (cmdOf p).words streamMasks = none) then (match streamBad s1 i (streamOf ws) (fldN (paramAt ws 3) 16 14) (fldN (paramAt ws 3) 0 14) with | some k => true | _ => false) else false))) | _ => false) : Bool) = true ∧
    (let t : Instant := t0; let s : State := cmdIn 0x0302 [1] (str {}); (match taken t 0x0302 s with | some (p, s1) => (if (firstReserved (cmdOf p).words [0xFF] = none) then (let named : List ℕ := namedStreams (par p 0); decide ((∀ i ∈ named, (assignOf s1 i).isSome = true ∧ featureLack s1 i = none ∧ ((streamCfg s1 i).basteEn = true → ∀ a ∈ assignOf s1 i, a.basted = true)))) else false) | _ => false) : Bool) = true ∧
    (let t : Instant := t0; let s : State := cmdIn 0x0302 [1] ({ str {} with ring.features := 0, back.cfgs := List.replicate 8 { filet := 1 } }); let i : ℕ := 0; (match taken t 0x0302 s with | some (p, s1) => decide ((firstReserved (cmdOf p).words [0xFF] = none) ∧ (∀ i ∈ namedStreams (par p 0), (assignOf s1 i).isSome = true) ∧ (i ∈ namedStreams (par p 0)) ∧ ((featureLack s1 i).isSome = true)) | _ => false) : Bool) = true ∧
    (let t : Instant := t0; let s : State := cmdIn 0x0302 [1] ({ str {} with ring.features := 0xFF, back.cfgs := List.replicate 8 { basteEn := true } }); let i : ℕ := 0; (match taken t 0x0302 s with | some (p, s1) => (if (firstReserved (cmdOf p).words [0xFF] = none) ∧ (∀ i ∈ namedStreams (par p 0), (assignOf s1 i).isSome = true ∧ featureLack s1 i = none) ∧ (i ∈ namedStreams (par p 0)) ∧ ((streamCfg s1 i).basteEn = true) then (match assignOf s1 i with | some a => decide ((a.basted = false)) | _ => false) else false) | _ => false) : Bool) = true ∧
    (let t : Instant := t0; let s : State := cmdIn 0x0302 [0x80] up; let i : ℕ := 7; (match taken t 0x0302 s with | some (p, s1) => decide ((firstReserved (cmdOf p).words [0xFF] = none) ∧ (i ∈ namedStreams (par p 0)) ∧ (assignOf s1 i = none)) | _ => false) : Bool) = true ∧
    (let i : ℕ := 7; let s : State := up; decide ((i < s.streams.length)) : Bool) = true ∧
    (let i : ℕ := 7; let s : State := up; let j := 8; decide ((i < s.streams.length) ∧ (j ≠ i)) : Bool) = true ∧
    (let t : Instant := t0; let s : State := cmdIn 0x0303 [0xFF] up; (match taken t 0x0303 s with | some (p, s1) => (if (firstReserved (cmdOf p).words [0x1FF] = none) then (let named : List ℕ := (namedStreams (par p 0)).filter (fun i => (stream s1 i).enabled); (let u : State := arbitrate (named.foldl (fun u i => haltStream i (bitAt (par p 0) 8) 6 u) s1); (let v : State := named.foldl (fun u i => if streamEmpty u i then updStream u i fun x => { x with stopping := false } else u) u; true))) else false) | _ => false) : Bool) = true ∧
    (let i : ℕ := 7; let cut : Bool := false; let found : FrameId → Bool → Marks := fun _ _ => {}; let s : State := up; decide ((i < s.streams.length) ∧ ((stream s i).bastedOut = none)) : Bool) = true ∧
    (let i : ℕ := 7; let cut : Bool := false; let found : FrameId → Bool → Marks := fun _ _ => {}; let s : State := up; decide ((i < s.streams.length) ∧ ((stream s i).bastedOut = none) ∧ (cut = false)) : Bool) = true ∧
    (let i : ℕ := 7; let cut : Bool := false; let found : FrameId → Bool → Marks := fun _ _ => {}; let s : State := up; let j := 8; decide ((i < s.streams.length) ∧ ((stream s i).bastedOut = none) ∧ (j ≠ i)) : Bool) = true ∧
    (let found : Marks := { corrupt := true }; let e : StreamEntry := { kind := .frame, id := 1, basted := false, reserved := 0 }; decide ((e.kind = .frame) ∧ (e.closed = false)) : Bool) = true ∧
    (let t : Instant := t0; let s : State := cmdIn 0x0304 [0x700, 0, 64] ({ up with back.cfgs := List.replicate 8 { filet := 1 } }); (match taken t 0x0304 s with | some (p, s1) => (if ((cmdOf p).words.length = 3) ∧ (firstReserved (cmdOf p).words [0x707, 0x3F3F, 0x3FFFF] = none) then (let i : ℕ := fldN (par p 0) 0 3; decide ((fldN (par p 0) 8 3 = 7) ∧ ((streamCfg s1 i).filet ≠ 0) ∧ (fld (par p 2) 16 2 ≠ 3) ∧ (64 ≤ fldN (par p 2) 0 16) ∧ (codingBad { streamCfg s1 i with filetE := fld (par p 1) 0 6, filetEmax := fld (par p 1) 8 6 } = false))) else false) | _ => false) : Bool) = true ∧
    (let t : Instant := t0; let s : State := cmdIn 0x0304 [0x100, 0, 0] up; (match taken t 0x0304 s with | some (p, s1) => (if (firstReserved (cmdOf p).words [0x707, 0x3F3F, 0x3FFFF] = none) then (let i : ℕ := fldN (par p 0) 0 3; decide ((bitAt (par p 0) 8 = true) ∧ ((streamCfg s1 i).filet = 0))) else false) | _ => false) : Bool) = true := by
  and_intros <;> decide +kernel

/-- What StreamEventsCarryFramesOut assumes is met, clause by clause. -/
theorem witness_StreamEventsCarryFramesOut :
    (let t : Instant := t0; let i : Fin 8 := 7; let s : State := chanOf 7 { raw := some { slot := 0, id := 1, hist := false, cropY := 0, cropX := 0 } }; decide (((channel s i.val).raw.isSome = true)) : Bool) = true ∧
    (let t : Instant := t0; let i : Fin 8 := 0; let s : State := { chanOf 0 { histQueue := [1] } (str) with back.cfgs := List.replicate 8 { format := 0 }, history.slots := some (held (fr)) :: List.replicate 19 none, back.channels := List.replicate 8 { histQueue := [1] } }; (if ((stream s i.val).enabled = true) ∧ (isRaw20 (streamCfg s i.val) = true) ∧ ((channel s i.val).raw = none) ∧ (pipeRuns s = true) then (match (channel s i.val).histQueue with | id :: rest => (match frozenSlot s id with | some (k, h) => true | _ => false) | _ => false) else false) : Bool) = true ∧
    (let t : Instant := t0; let i : Fin 9 := 7; let s : State := up; decide ((i.val < 8) ∧ ((channel s i.val).run = none) ∧ ((channel s i.val).raw = none)) : Bool) = true ∧
    (let t : Instant := t0; let i : Fin 9 := 7; let s : State := up; decide ((i.val < 8) ∧ (pipeRuns s = true)) : Bool) = true ∧
    (let t : Instant := t0; let i : Fin 9 := 8; let s : State := up; decide ((i.val = 8 ∨ pipeRuns s = false)) : Bool) = true ∧
    (let i : ℕ := 0; let f : FrameInfo := ⟨1, {}, {}, false, 0, 0⟩; let s : State := { str with back.cfgs := List.replicate 8 { dropPolicy := 1 } }; decide ((f.marks.basted = false) ∧ ((streamCfg s i).dropPolicy ≠ 2) ∧ (i < s.streams.length) ∧ ((stream s i).entries = []) ∧ (frameFits s i (sMax f.hdr.variantMl f.hdr.bin (streamCfg s i)) = true)) : Bool) = true ∧
    (let t : Instant := t0; let i : Fin 9 := 0; let s : State := chanOf 0 { run := some { run0 with ended := some {} } } (str); (if (i.val < 8) ∧ (pipeRuns s = true) then (match (channel s i.val).run with | some r => (match r.ended with | some m => decide (((channel s i.val).raw = none)) | _ => false) | _ => false) else false) : Bool) = true ∧
    (let t : Instant := t0; let i : Fin 9 := 0; let s : State := up; decide ((i.val < 8) ∧ ((channel s i.val).run = none) ∧ ((channel s i.val).raw = none)) : Bool) = true ∧
    (let t : Instant := t0; let i : Fin 9 := 0; let ecc : List EccHit := []; let s : State := { str with clock.limp := true }; decide ((assignOf s i.val = none ∨ restOf s i.val ≠ [] ∨ (s.clock.limp = true ∧ (stream s i.val).entries.any (fun e => e.kind == .retract && !e.waiting.isEmpty) = false))) : Bool) = true ∧
    (let t : Instant := t0; let i : Fin 9 := 0; let ecc : List EccHit := []; let s : State := { str with ring.addrPhase := .confirmed }; (match assignOf s i.val with | some a => decide ((trunkLive s = true) ∧ (s.clock.limp = false) ∧ (s.ring.addrPhase = .confirmed) ∧ (restOf s i.val = [])) | _ => false) : Bool) = true ∧
    (let i : ℕ := 7; let a : PortAssign := { port := 1, dest := 0, dir := false, basted := false, rsv := 0, peak := 1000 }; let s : State := { up with streams := up.streams.set 7 { entries := [{ kind := .frame, id := 1, basted := true, reserved := 0, waiting := [[0x10000005, 0, 1, 2]] }] } }; (if (i < 8) then (match (stream s i).entries with | [e] => (match e.waiting with | p :: ps => (if (i < s.streams.length) then (let w : List Word := finishPacket p (stream s i).pseq (((assignOf s i).map (·.port)).getD 0); true) else false) | _ => false) | _ => false) else false) : Bool) = true ∧
    (let t : Instant := t0; let i : Fin 9 := 0; let s : State := { str with ring.txRest := [(0, [⟨0, []⟩])] }; decide ((slotsGone s i.val = false)) : Bool) = true ∧
    (let t : Instant := t0; let i : Fin 9 := 0; let s : State := str; decide ((slotsGone s i.val = true) ∧ ((stream s i.val).entries = []) ∧ ((stream s i.val).stopping = false) ∧ (s.history.releaseWait = false)) : Bool) = true ∧
    (let t : Instant := t0; let i : Fin 9 := 0; let s : State := str { enabled := true, entries := [{ kind := .frame, id := 1, basted := false, reserved := 0, begun := true, closed := true }] }; (if (slotsGone s i.val = true) then (match (stream s i.val).entries with | e :: es => decide ((e.closed = true) ∧ (e.waiting = [])) | _ => false) else false) : Bool) = true ∧
    (let s : State := up; decide ((heldCmd s 0x0303 = none)) : Bool) = true := by
  and_intros <;> decide +kernel

/-- What KernelCommandsLoadAndRunKernels assumes is met, clause by clause. -/
theorem witness_KernelCommandsLoadAndRunKernels :
    (let t : Instant := t0; let s : State := cmdIn 0x0401 [15, 0, 0xD1A50001, 68] up 2; (match taken t 0x0401 s with | some (p, s1) => (let kid : ℕ := fldN (par p 0) 0 8; (if (reservedOk (par p 0) 0x800FF = true) ∧ (kid ≤ 15) ∧ (par p 1 = 0) ∧ (2 ≤ ((cmdOf p).words.drop 2).length) then (let len : ℕ := (par p 3).toNat; (if (4 * ((cmdOf p).words.drop 2).length ≤ len) ∧ (reservedOther s1 kid + len ≤ 13 * mib) ∧ ((kernel s1 kid).phase ≠ .running) ∧ (holdsNr s1 kid = false) then (let u : State := storeImages (updKernel kid (openImage len) s1); true) else false)) else false)) | _ => false) : Bool) = true ∧
    (let t : Instant := t0; let s : State := cmdIn 0x0401 [15, 64, 1, 2] ({ up with engines.user := List.replicate 16 { reserved := 72 } }) 2; let kid : ℕ := 15; let off : ℕ := 64; (match taken t 0x0401 s with | some (p, s1) => decide ((kid = fldN (par p 0) 0 8) ∧ (reservedOk (par p 0) 0x800FF = true) ∧ (kid ≤ 15) ∧ (off = (par p 1).toNat) ∧ (off ≠ 0) ∧ (off % 4 = 0) ∧ ((kernel s1 kid).reserved ≠ 0) ∧ ((kernel s1 kid).committed = false) ∧ (off + 4 * ((cmdOf p).words.drop 2).length ≤ (kernel s1 kid).reserved) ∧ ((kernel s1 kid).phase ≠ .running) ∧ (holdsNr s1 kid = false)) | _ => false) : Bool) = true ∧
    (let t : Instant := t0; let s : State := cmdIn 0x0401 [15, 64, 1, 2] ({ up with engines.user := List.replicate 16 { reserved := 68 } }) 2; let kid : ℕ := 15; let off : ℕ := 64; (match taken t 0x0401 s with | some (p, s1) => decide ((kid = fldN (par p 0) 0 8) ∧ (reservedOk (par p 0) 0x800FF = true) ∧ (kid ≤ 15) ∧ (off = (par p 1).toNat) ∧ (off ≠ 0) ∧ (off % 4 = 0) ∧ ((kernel s1 kid).reserved ≠ 0) ∧ ((kernel s1 kid).committed = false) ∧ ((kernel s1 kid).reserved < off + 4 * ((cmdOf p).words.drop 2).length)) | _ => false) : Bool) = true ∧
    (let t : Instant := t0; let s : State := cmdIn 0x0401 [15, 64, 1, 2] ({ up with engines.user := List.replicate 16 { phase := .running, reserved := 72 } }) 2; let kid : ℕ := 15; let off : ℕ := 64; (match taken t 0x0401 s with | some (p, s1) => decide ((kid = fldN (par p 0) 0 8) ∧ (reservedOk (par p 0) 0x800FF = true) ∧ (kid ≤ 15) ∧ (off = (par p 1).toNat) ∧ (off ≠ 0) ∧ (off % 4 = 0) ∧ ((kernel s1 kid).reserved ≠ 0) ∧ ((kernel s1 kid).committed = false) ∧ (off + 4 * ((cmdOf p).words.drop 2).length ≤ (kernel s1 kid).reserved) ∧ ((kernel s1 kid).phase = .running ∨ holdsNr s1 kid = true)) | _ => false) : Bool) = true ∧
    (let t : Instant := t0; let s : State := cmdIn 0x0401 [16, 0] up 2; (match taken t 0x0401 s with | some (p, s1) => decide ((15 < fldN (par p 0) 0 8)) | _ => false) : Bool) = true ∧
    (let kid : ℕ := 15; let s : State := { up with engines.user := List.replicate 16 { image := image [0] } }; decide ((headerOk (kernel s kid) = true) ∧ (imageCrcOk (kernel s kid) = true) ∧ (firstIllegal (kernel s kid) = none)) : Bool) = true ∧
    (let kid : ℕ := 15; let s : State := { up with engines.user := List.replicate 16 { image := image [0] false } }; decide ((headerOk (kernel s kid) = true) ∧ (imageCrcOk (kernel s kid) = false)) : Bool) = true ∧
    (let kid : ℕ := 15; let s : State := { up with engines.user := List.replicate 16 { image := image [0, 0xFFFFFFFF] } }; let i : ℕ := 1; decide ((headerOk (kernel s kid) = true) ∧ (imageCrcOk (kernel s kid) = true) ∧ (firstIllegal (kernel s kid) = some i)) : Bool) = true ∧
    (let kid : ℕ := 15; let s : State := { up with engines.user := List.replicate 16 { image := image [0, 0xFFFFFFFF] } }; let i : ℕ := 1; let j := 0; decide ((headerOk (kernel s kid) = true) ∧ (imageCrcOk (kernel s kid) = true) ∧ (firstIllegal (kernel s kid) = some i) ∧ (j < i)) : Bool) = true ∧
    (let t : Instant := t0; let s : State := cmdIn 0x0405 [0x00017000] (kern { phase := .loaded, image := image [0] } up) 2; (match taken t 0x0405 s with | some (p, s1) => (let kid : ℕ := fldN (par p 0) 0 8; (if (reservedOk (par p 0) 0xFF9FF7FF = true) ∧ (kid ≤ 15) ∧ (bitAt (par p 0) 23 = false) ∧ (fld (par p 0) 24 8 = 0) ∧ (fldN (par p 0) 16 5 ≠ 0) ∧ (fldN (par p 0) 12 4 + fldN (par p 0) 16 5 ≤ 16) ∧ ((kernel s1 kid).phase ≠ .empty) ∧ ((kernel s1 kid).phase ≠ .running) ∧ (imgMinBobbins (kernel s1 kid) ≤ (namedBobbins (par p 0)).length) ∧ ((namedBobbins (par p 0)).length ≤ imgMaxBobbins (kernel s1 kid)) then (match placeRegion s1 kid (imgPillowKib (kernel s1 kid)) ((namedBobbins (par p 0)).map (· / 16)).eraseDups with | some r => (match placeSpill s1 kid (imgSpillMib (kernel s1 kid)) with | some m => decide ((allocBusy s1 kid (namedBobbins (par p 0)) = false)) | _ => false) | _ => false) else false)) | _ => false) : Bool) = true ∧
    (let t : Instant := t0; let s : State := cmdIn 0x0405 [0x00800000] (kern { phase := .loaded, image := image [0] } up) 2; (match taken t 0x0405 s with | some (p, s1) => (let kid : ℕ := fldN (par p 0) 0 8; decide ((reservedOk (par p 0) 0xFF9FF7FF = true) ∧ (kid ≤ 15) ∧ (bitAt (par p 0) 23 = true) ∧ ((kernel s1 kid).phase ≠ .empty) ∧ ((kernel s1 kid).phase ≠ .running))) | _ => false) : Bool) = true ∧
    (let t : Instant := t0; let s : State := cmdIn 0x0405 [0x00800000] (kern ({ phase := .running, bobbins := [127], image := image [0] }) up) 2; let kid : ℕ := 0; (match taken t 0x0405 s with | some (p, s1) => decide ((kid = fldN (par p 0) 0 8) ∧ (reservedOk (par p 0) 0xFF9FF7FF = true) ∧ (kid ≤ 15) ∧ (bitAt (par p 0) 23 = true) ∧ ((kernel s1 kid).phase = .empty ∨ (kernel s1 kid).phase = .running)) | _ => false) : Bool) = true ∧
    (let t : Instant := t0; let s : State := cmdIn 0x0402 [0] (kern ({ phase := .loaded, bobbins := [127], image := smSet 0 (image [0]) 2 0x02000101 }) up) 2; (match taken t 0x0402 s with | some (p, s1) => (let kid : ℕ := fldN (par p 0) 0 8; (let ch : ℕ := fldN (par p 0) 8 3; decide ((reservedOk (par p 0) 0x7FF = true) ∧ (kid ≤ 15) ∧ ((kernel s1 kid).bobbins ≠ []) ∧ ((kernel s1 kid).phase ≠ .empty) ∧ ((kernel s1 kid).phase ≠ .running) ∧ (imgSlot (kernel s1 kid) ≠ 1) ∧ (imgSlot (kernel s1 kid) = 2 → (stream s1 ch).enabled = false) ∧ (s1.power.hold = false) ∧ (imgSlot (kernel s1 kid) = 2) ∧ (channelKernel s1 ch = none)))) | _ => false) : Bool) = true ∧
    (let t : Instant := t0; let s : State := cmdIn 0x0402 [0] (kern ({ phase := .loaded, bobbins := [127], image := image [0] }) up) 2; let kid : ℕ := 0; let ch : ℕ := 0; (match taken t 0x0402 s with | some (p, s1) => decide ((kid = fldN (par p 0) 0 8) ∧ (ch = fldN (par p 0) 8 3) ∧ (reservedOk (par p 0) 0x7FF = true) ∧ (kid ≤ 15) ∧ ((kernel s1 kid).bobbins ≠ []) ∧ ((kernel s1 kid).phase ≠ .empty) ∧ ((kernel s1 kid).phase ≠ .running) ∧ (imgSlot (kernel s1 kid) ≠ 1) ∧ (imgSlot (kernel s1 kid) = 2 → (stream s1 ch).enabled = false) ∧ (s1.power.hold = false) ∧ (imgSlot (kernel s1 kid) ≠ 2)) | _ => false) : Bool) = true ∧
    (let t : Instant := t0; let s : State := cmdIn 0x0402 [0] (kern ({ phase := .loaded, bobbins := [127], image := smSet 0 (image [0]) 2 0x02000101 }) { up with engines := { up.engines with user := up.engines.user.set 3 ({ phase := .running, bobbins := [127], image := smSet 0 (image [0]) 2 0x02000101 }) } }) 2; (match taken t 0x0402 s with | some (p, s1) => (let kid : ℕ := fldN (par p 0) 0 8; (let ch : ℕ := fldN (par p 0) 8 3; decide ((reservedOk (par p 0) 0x7FF = true) ∧ (kid ≤ 15) ∧ ((kernel s1 kid).bobbins ≠ []) ∧ ((kernel s1 kid).phase ≠ .empty) ∧ ((kernel s1 kid).phase ≠ .running) ∧ (imgSlot (kernel s1 kid) ≠ 1) ∧ (imgSlot (kernel s1 kid) = 2 → (stream s1 ch).enabled = false) ∧ (s1.power.hold = false) ∧ (imgSlot (kernel s1 kid) = 2) ∧ (channelKernel s1 ch ≠ none)))) | _ => false) : Bool) = true ∧
    (let s : State := kern ({ phase := .loaded, bobbins := [127], image := image [0] }) up; let kid : ℕ := 0; let ch : ℕ := 0; decide ((admission s { caseNow s with starting := some kid } = none)) : Bool) = true ∧
    (let s : State := kern ({ phase := .loaded, bobbins := [127], image := image [0] }) ({ up with power.budget.ceiling := 1 }); let kid : ℕ := 0; let ch : ℕ := 0; (match admission s { caseNow s with starting := some kid } with | some n => true | _ => false) : Bool) = true ∧
    (let t : Instant := t0; let s : State := cmdIn 0x0402 [0] (kern ({ phase := .loaded, bobbins := [127], image := image [0] }) ({ up with power.hold := true })) 2; let kid : ℕ := 0; let ch : ℕ := 0; (match taken t 0x0402 s with | some (p, s1) => decide ((kid = fldN (par p 0) 0 8) ∧ (ch = fldN (par p 0) 8 3) ∧ (reservedOk (par p 0) 0x7FF = true) ∧ (kid ≤ 15) ∧ ((kernel s1 kid).bobbins = [] ∨ (kernel s1 kid).phase = .running ∨ imgSlot (kernel s1 kid) = 1 ∨ (imgSlot (kernel s1 kid) = 2 ∧ (stream s1 ch).enabled = true) ∨ s1.power.hold = true)) | _ => false) : Bool) = true ∧
    (let k : Kernel := { image := image [0] }; let kid : ℕ := 3; let rank : ℕ := 5; let b : Bobbin := bob0; let r := 31; decide ((r < 32)) : Bool) = true ∧
    (let kid : ℕ := 15; let ch : ℕ := 0; let s : State := up; decide ((kid < 16) ∧ (s.engines.user.length = 16)) : Bool) = true ∧
    (let t : Instant := t0; let s : State := cmdIn 0x0403 [0] (kern { phase := .running, bobbins := [127], image := image [0] } up) 2; (match taken t 0x0403 s with | some (p, s1) => (let kid : ℕ := fldN (par p 0) 0 8; decide ((reservedOk (par p 0) 0xFF = true) ∧ (kid ≤ 15) ∧ ((kernel s1 kid).phase = .running) ∧ (imgSlot (kernel s1 kid) ≠ 1) ∧ (imgSlot (kernel s1 kid) = 2 → (stream s1 (kernel s1 kid).channel).enabled = false))) | _ => false) : Bool) = true ∧
    (let t : Instant := t0; let s : State := cmdIn 0x0403 [15] up 2; (match taken t 0x0403 s with | some (p, s1) => (let kid : ℕ := fldN (par p 0) 0 8; decide ((reservedOk (par p 0) 0xFF = true) ∧ (kid ≤ 15) ∧ ((kernel s1 kid).phase ≠ .running ∨ imgSlot (kernel s1 kid) = 1 ∨ (imgSlot (kernel s1 kid) = 2 ∧ (stream s1 (kernel s1 kid).channel).enabled = true)))) | _ => false) : Bool) = true ∧
    (let t : Instant := t0; let s : State := cmdIn 0x0404 [15] up 2; (match taken t 0x0404 s with | some (p, s1) => (let kid : ℕ := fldN (par p 0) 0 8; decide ((reservedOk (par p 0) 0xFF = true) ∧ (kid ≤ 15 ∨ (0x80 ≤ kid ∧ kid ≤ 0x83)))) | _ => false) : Bool) = true ∧
    (let kid : ℕ := 15; let s : State := up; decide ((kid < 16)) : Bool) = true ∧
    (let t : Instant := ⟨0, 1000000000⟩; let kid : Byte := 0; let b : Fin 128 := 0; let s : State := kern { phase := .running, bobbins := [0], image := image [0] } (bobFor (.nop bi) { bob0 with wait := some (.barrier 0) } up); decide ((kid.toNat < 16) ∧ (kernelRuns s kid.toNat = true) ∧ (blockRuns .bobbin s = true) ∧ (hangs (setNow t s) kid.toNat b.val = true)) : Bool) = true ∧
    (let t : Instant := t0; let kid : Byte := 15; let b : Fin 128 := 0; let s : State := up; decide ((kid.toNat < 16) ∧ (hangs (setNow t s) kid.toNat b.val = false)) : Bool) = true ∧
    (let t : Instant := t0; let kid : Byte := 0x81; let b : Fin 128 := 32; let s : State := up; let v : ℕ := 1; decide ((kid.toNat = 0x80 + v) ∧ (v ≤ 3) ∧ (b.val / 16 ∈ vendorPillows v) ∧ (vendorHeld s v = true) ∧ (vendorFaulted s v = false) ∧ (blockRuns .bobbin s = true)) : Bool) = true ∧
    (let s : State := kern ({ phase := .running, bobbins := [127], image := image [0] }) (capt (fr) 0 { up with power.budget.ceiling := 1 }); let v : ℕ := 2; let p : ℕ := 7; decide ((s.power.granted.length = 8) ∧ (v < 8) ∧ (p < 8) ∧ (userPillow s v = false) ∧ (s.power.granted.getD v true = true) ∧ ((arbitrate s).power.granted.getD v true = false) ∧ (userPillow s p = true) ∧ (0 < pillowMw s (caseNow s) p)) : Bool) = true := by
  and_intros <;> decide +kernel

/-- What TrunkCommandsConfigureAndReadPorts assumes is met, clause by clause. -/
theorem witness_TrunkCommandsConfigureAndReadPorts :
    (let t : Instant := t0; let s : State := cmdIn 0x0502 [0x122] (east { phase := .detect }); (match taken t 0x0502 s with | some (p, s1) => (if (firstReserved (cmdOf p).words [0xFFB73, 0xFFFFFF, 0x1FEF] = none) then (let pt : Port := portOf (bitAt (par p 0) 0); (let new : TrunkCfg := trunkOf (overlay (cmdOf p).words (trunkWords pt ((getPort s1 pt).nextCfg.getD (getPort s1 pt).cfg))); (if (trunkBad new = none) then (let u : State := updPort s1 pt (fun x => { x with cfg := { x.cfg with dozeEn := new.dozeEn, dozeIdle := new.dozeIdle }, nextCfg := some new }); decide ((new.enable = true) ∧ (bitAt (par p 0) 14 = false) ∧ ((getPort s1 pt).phase ≠ .disabled))) else false))) else false) | _ => false) : Bool) = true ∧
    (let t : Instant := t0; let s : State := cmdIn 0x0502 [0x122] (east { phase := .disabled }); (match taken t 0x0502 s with | some (p, s1) => (if (firstReserved (cmdOf p).words [0xFFB73, 0xFFFFFF, 0x1FEF] = none) then (let pt : Port := portOf (bitAt (par p 0) 0); (let new : TrunkCfg := trunkOf (overlay (cmdOf p).words (trunkWords pt ((getPort s1 pt).nextCfg.getD (getPort s1 pt).cfg))); (if (trunkBad new = none) then (let u : State := updPort s1 pt (fun x => { x with cfg := { x.cfg with dozeEn := new.dozeEn, dozeIdle := new.dozeIdle }, nextCfg := some new }); decide ((new.enable = true) ∧ (bitAt (par p 0) 14 = false) ∧ ((getPort s1 pt).phase = .disabled))) else false))) else false) | _ => false) : Bool) = true ∧
    (let t : Instant := t0; let s : State := cmdIn 0x0502 [0xC122] (east { phase := .up }); (match taken t 0x0502 s with | some (p, s1) => (if (firstReserved (cmdOf p).words [0xFFB73, 0xFFFFFF, 0x1FEF] = none) then (let pt : Port := portOf (bitAt (par p 0) 0); (let new : TrunkCfg := trunkOf (overlay (cmdOf p).words (trunkWords pt ((getPort s1 pt).nextCfg.getD (getPort s1 pt).cfg))); (if (trunkBad new = none) then (let u : State := updPort s1 pt (fun x => { x with cfg := { x.cfg with dozeEn := new.dozeEn, dozeIdle := new.dozeIdle }, nextCfg := some new }); decide ((cutsOff (cmdOf p) pt s1 = false ∨ bitAt (par p 0) 15 = true) ∧ (new.enable = true) ∧ (bitAt (par p 0) 14 = true))) else false))) else false) | _ => false) : Bool) = true ∧
    (let t : Instant := t0; let s : State := cmdIn 0x0502 [0x8020] (east { phase := .up }); (match taken t 0x0502 s with | some (p, s1) => (if (firstReserved (cmdOf p).words [0xFFB73, 0xFFFFFF, 0x1FEF] = none) then (let pt : Port := portOf (bitAt (par p 0) 0); (let new : TrunkCfg := trunkOf (overlay (cmdOf p).words (trunkWords pt ((getPort s1 pt).nextCfg.getD (getPort s1 pt).cfg))); (if (trunkBad new = none) then (let u : State := updPort s1 pt (fun x => { x with cfg := { x.cfg with dozeEn := new.dozeEn, dozeIdle := new.dozeIdle }, nextCfg := some new }); decide ((cutsOff (cmdOf p) pt s1 = false ∨ bitAt (par p 0) 15 = true) ∧ (new.enable = false) ∧ ((getPort s1 pt).phase ≠ .disabled))) else false))) else false) | _ => false) : Bool) = true ∧
    (let t : Instant := t0; let s : State := cmdIn 0x0502 [0x4122] (east { phase := .up }); (match taken t 0x0502 s with | some (p, s1) => (if (firstReserved (cmdOf p).words [0xFFB73, 0xFFFFFF, 0x1FEF] = none) then (let pt : Port := portOf (bitAt (par p 0) 0); (let new : TrunkCfg := trunkOf (overlay (cmdOf p).words (trunkWords pt ((getPort s1 pt).nextCfg.getD (getPort s1 pt).cfg))); (if (trunkBad new = none) then (let u : State := updPort s1 pt (fun x => { x with cfg := { x.cfg with dozeEn := new.dozeEn, dozeIdle := new.dozeIdle }, nextCfg := some new }); decide ((cutsOff (cmdOf p) pt s1 = true) ∧ (bitAt (par p 0) 15 = false) ∧ (new.enable = false ∨ bitAt (par p 0) 14 = true))) else false))) else false) | _ => false) : Bool) = true ∧
    (let t : Instant := t0; let s : State := cmdIn 0x0502 [0x00000332] up; (match taken t 0x0502 s with | some (p, s1) => (if (firstReserved (cmdOf p).words [0xFFB73, 0xFFFFFF, 0x1FEF] = none) then (let pt : Port := portOf (bitAt (par p 0) 0); (match trunkBad (trunkOf (overlay (cmdOf p).words (trunkWords pt ((getPort s1 pt).nextCfg.getD (getPort s1 pt).cfg)))) with | some i => true | _ => false)) else false) | _ => false) : Bool) = true ∧
    (let c : Cmd := { cmdOf (packetFor 1 [] 1 0) with via := none }; let pt : Port := .east; let a : PortAct := .disable; let s : State := up; decide ((c.via = none)) : Bool) = true ∧
    (let c : Cmd := cmdOf (packetFor 1 [] 1 0); let pt : Port := .east; let a : PortAct := .disable; let s : State := up; decide ((c.via ≠ none)) : Bool) = true ∧
    (let pt : Port := .east; let fast : Bool := true; let s : State := east { phase := .up }; decide ((((getPort s pt).nextCfg.getD (getPort s pt).cfg).enable = true)) : Bool) = true ∧
    (let t : Instant := t0; let s : State := cmdIn 0x0501 [1] up; (match taken t 0x0501 s with | some (p, s1) => (if (firstReserved (cmdOf p).words [1] = none) then (let x : TrunkPort := getPort s1 (portOf (bitAt (par p 0) 0)); true) else false) | _ => false) : Bool) = true ∧
    (let t : Instant := t0; let s : State := cmdIn 0x0506 [0xF0001, 0] (east { phase := .up }) 2; (match taken t 0x0506 s with | some (p, s1) => (if (firstReserved (cmdOf p).words [0xF0F01, 0xFF] = none) then (let pt : Port := portOf (bitAt (par p 0) 0); (let m : BitVec 4 := fld (par p 0) 16 4; (let test : ℕ := fldN (par p 0) 8 4; decide ((test = 0))))) else false) | _ => false) : Bool) = true ∧
    (let t : Instant := t0; let s : State := cmdIn 0x0506 [0x10100, 0xFF] (east { phase := .up }) 2; (match taken t 0x0506 s with | some (p, s1) => (if (firstReserved (cmdOf p).words [0xF0F01, 0xFF] = none) then (let pt : Port := portOf (bitAt (par p 0) 0); (let m : BitVec 4 := fld (par p 0) 16 4; (let test : ℕ := fldN (par p 0) 8 4; decide ((test = 1) ∧ (fld (par p 1) 0 8 ≠ 0) ∧ ((getPort s1 pt).eye = none))))) else false) | _ => false) : Bool) = true ∧
    (let t : Instant := t0; let s : State := cmdIn 0x0506 [0x10100, 0] (east { phase := .up }) 2; (match taken t 0x0506 s with | some (p, s1) => (if (firstReserved (cmdOf p).words [0xF0F01, 0xFF] = none) then (let pt : Port := portOf (bitAt (par p 0) 0); (let m : BitVec 4 := fld (par p 0) 16 4; (let test : ℕ := fldN (par p 0) 8 4; decide ((test = 1) ∧ (fld (par p 1) 0 8 = 0))))) else false) | _ => false) : Bool) = true ∧
    (let t : Instant := t0; let s : State := cmdIn 0x0506 [0xF0200, 0] (east { phase := .up }) 2; (match taken t 0x0506 s with | some (p, s1) => (if (firstReserved (cmdOf p).words [0xF0F01, 0xFF] = none) then (let pt : Port := portOf (bitAt (par p 0) 0); (let m : BitVec 4 := fld (par p 0) 16 4; (let test : ℕ := fldN (par p 0) 8 4; decide ((test = 2) ∧ ((getPort s1 pt).eye = none))))) else false) | _ => false) : Bool) = true ∧
    (let t : Instant := t0; let s : State := cmdIn 0x0506 [0xF0200, 0] (east { phase := .up, eye := some 1 }) 2; (match taken t 0x0506 s with | some (p, s1) => (if (firstReserved (cmdOf p).words [0xF0F01, 0xFF] = none) then (let pt : Port := portOf (bitAt (par p 0) 0); (let m : BitVec 4 := fld (par p 0) 16 4; (let test : ℕ := fldN (par p 0) 8 4; decide (((test = 1 ∧ fld (par p 1) 0 8 ≠ 0) ∨ test = 2) ∧ ((getPort s1 pt).eye ≠ none))))) else false) | _ => false) : Bool) = true ∧
    (let t : Instant := t0; let s : State := cmdTw 0x0506 [0x10300, 0] (east { phase := .up }) 2; (match taken t 0x0506 s with | some (p, s1) => (if (firstReserved (cmdOf p).words [0xF0F01, 0xFF] = none) then (let pt : Port := portOf (bitAt (par p 0) 0); (let m : BitVec 4 := fld (par p 0) 16 4; (let test : ℕ := fldN (par p 0) 8 4; decide ((test = 3 ∨ test = 6 ∨ test = 7) ∧ (cutsOff (cmdOf p) pt s1 = false))))) else false) | _ => false) : Bool) = true ∧
    (let t : Instant := t0; let s : State := cmdIn 0x0506 [0x10300, 0] (east { phase := .up }) 2; (match taken t 0x0506 s with | some (p, s1) => (if (firstReserved (cmdOf p).words [0xF0F01, 0xFF] = none) then (let pt : Port := portOf (bitAt (par p 0) 0); (let m : BitVec 4 := fld (par p 0) 16 4; (let test : ℕ := fldN (par p 0) 8 4; decide ((test = 3 ∨ test = 6 ∨ test = 7) ∧ (cutsOff (cmdOf p) pt s1 = true))))) else false) | _ => false) : Bool) = true ∧
    (let t : Instant := t0; let s : State := cmdIn 0x0506 [0x10400, 0] (east { phase := .diag, prbs := 1 }) 2; (match taken t 0x0506 s with | some (p, s1) => (if (firstReserved (cmdOf p).words [0xF0F01, 0xFF] = none) then (let pt : Port := portOf (bitAt (par p 0) 0); (let m : BitVec 4 := fld (par p 0) 16 4; (let test : ℕ := fldN (par p 0) 8 4; decide ((test = 4) ∧ ((getPort s1 pt).phase = .diag) ∧ ((getPort s1 pt).prbs ≠ 0))))) else false) | _ => false) : Bool) = true ∧
    (let t : Instant := t0; let s : State := cmdIn 0x0506 [0x10800, 0] (east { phase := .diag }) 2; (match taken t 0x0506 s with | some (p, s1) => (if (firstReserved (cmdOf p).words [0xF0F01, 0xFF] = none) then (let pt : Port := portOf (bitAt (par p 0) 0); (let m : BitVec 4 := fld (par p 0) 16 4; (let test : ℕ := fldN (par p 0) 8 4; decide ((test = 5 ∨ test = 8) ∧ ((getPort s1 pt).phase = .diag))))) else false) | _ => false) : Bool) = true ∧
    (let t : Instant := t0; let s : State := cmdIn 0x0506 [0x10500, 0] (east { phase := .up }) 2; (match taken t 0x0506 s with | some (p, s1) => (if (firstReserved (cmdOf p).words [0xF0F01, 0xFF] = none) then (let pt : Port := portOf (bitAt (par p 0) 0); (let m : BitVec 4 := fld (par p 0) 16 4; (let test : ℕ := fldN (par p 0) 8 4; decide ((test = 4 ∨ test = 5 ∨ test = 8) ∧ ((getPort s1 pt).phase ≠ .diag))))) else false) | _ => false) : Bool) = true ∧
    (let t : Instant := t0; let s : State := cmdIn 0x0506 [0x10900, 0] (east { phase := .up }) 2; (match taken t 0x0506 s with | some (p, s1) => (if (firstReserved (cmdOf p).words [0xF0F01, 0xFF] = none) then (let pt : Port := portOf (bitAt (par p 0) 0); (let m : BitVec 4 := fld (par p 0) 16 4; (let test : ℕ := fldN (par p 0) 8 4; decide ((8 < test))))) else false) | _ => false) : Bool) = true ∧
    (let pt : Port := .east; let test : BitVec 4 := 3; let m : BitVec 4 := 15; let s : State := east { phase := .up }; decide (((getPort s pt).phase ≠ .diag) ∧ (test = 3)) : Bool) = true ∧
    (let pt : Port := .east; let test : BitVec 4 := 7; let m : BitVec 4 := 15; let s : State := east { phase := .up }; decide (((getPort s pt).phase ≠ .diag) ∧ (test = 7)) : Bool) = true ∧
    (let pt : Port := .east; let l : Fin 4 := 3; let s : State := east { phase := .diag, prbs := 15 }; decide ((bitAt (getPort s pt).prbs l.val = true) ∧ ((getPort s pt).lanes.length = 4)) : Bool) = true ∧
    (let t : Instant := t0; let pt : Port := .east; let b : List Byte := []; let s : State := up; decide (((getPort s pt).eye = none)) : Bool) = true ∧
    (let t : Instant := t0; let pt : Port := .east; let b : List Byte := [3, 4]; let s : State := east { eye := some 1 }; (match (getPort s pt).eye with | some m => decide (((getPort s pt).eyes.length = 4)) | _ => false) : Bool) = true := by
  and_intros <;> decide +kernel

/-- What TrunkBringUpGoesByStages assumes is met, clause by clause. -/
theorem witness_TrunkBringUpGoesByStages :
    (let t : Instant := t0; let pt : Port := .east; let lane : Fin 4 := 3; let present : Bool := true; let s : State := { up with power.phase := .stow }; decide ((trunkLive s = false) ∧ (present = false ∨ bitAt s.power.wakePorts (portNo pt) = false)) : Bool) = true ∧
    (let t : Instant := t0; let pt : Port := .east; let lane : Fin 4 := 3; let s : State := east { phase := .detect }; decide ((trunkLive s = true) ∧ ((getPort s pt).phase = .detect) ∧ ((getPort s pt).rxDoze = false) ∧ (bitAt s.power.wakePorts (portNo pt) = false)) : Bool) = true ∧
    (let t : Instant := t0; let pt : Port := .east; let lane : Fin 4 := 3; let s : State := east { phase := .block, cfg := { minWidth := 2 }, lanes := List.replicate 4 { detect := true } }; (if (trunkLive s = true) then (let u : State := driveDue pt (updPort (setNow t s) pt (updLane lane.val fun l => { l with detect := false })); decide (((getPort s pt).phase = .block) ∧ ((usableLanes (getPort u pt)).length < lanesOf (getPort s pt).cfg.minWidth))) else false) : Bool) = true ∧
    (let t : Instant := t0; let pt : Port := .east; let lane : Fin 4 := 3; let s : State := east { phase := .up, lanes := List.replicate 4 { detect := true } }; (if (trunkLive s = true) then (let u : State := driveDue pt (updPort (setNow t s) pt (updLane lane.val fun l => { l with detect := false })); decide (((getPort s pt).phase = .up))) else false) : Bool) = true ∧
    (let t : Instant := t0; let pt : Port := .east; let lanes : BitVec 4 := 15; let eyes : List EyeOpening := []; let s : State := east { phase := .detect, lanes := List.replicate 4 { detect := true } }; decide ((trunkLive s = true) ∧ ((getPort s pt).phase = .detect) ∧ (lanesOf (getPort s pt).cfg.minWidth ≤ (usableLanes (getPort s pt)).length)) : Bool) = true ∧
    (let t : Instant := t0; let pt : Port := .east; let lanes : BitVec 4 := 15; let eyes : List EyeOpening := []; let s : State := { east { phase := .cdr, lanes := List.replicate 4 { detect := true } } with clock.east.phase := .locked }; (if (trunkLive s = true) then (let u : State := updPort (driveDue pt (setNow t s)) pt (fun x => { x with lanes := x.lanes.zipIdx.map fun l => { l.1 with locked := bitAt lanes l.2 } }); decide (((getPort s pt).phase = .cdr) ∧ ((pllOf s (portPll pt)).phase = .locked) ∧ (covers lanes (getPort s pt) = true))) else false) : Bool) = true ∧
    (let t : Instant := t0; let pt : Port := .east; let lanes : BitVec 4 := 15; let eyes : List EyeOpening := []; let s : State := east { phase := .cdr, lanes := List.replicate 4 { detect := true } }; (if (trunkLive s = true) then (let u : State := updPort (driveDue pt (setNow t s)) pt (fun x => { x with lanes := x.lanes.zipIdx.map fun l => { l.1 with locked := bitAt lanes l.2 } }); decide (((getPort s pt).phase = .cdr) ∧ ((pllOf s (portPll pt)).phase ≠ .locked ∨ covers lanes (getPort s pt) = false))) else false) : Bool) = true ∧
    (let t : Instant := t0; let pt : Port := .east; let lanes : BitVec 4 := 15; let eyes : List EyeOpening := []; let s : State := east { phase := .block, lanes := List.replicate 4 { detect := true } }; (if (trunkLive s = true) then (let u : State := updPort (driveDue pt (setNow t s)) pt (fun x => { x with lanes := x.lanes.zipIdx.map fun l => { l.1 with locked := bitAt lanes l.2 } }); decide (((getPort s pt).phase = .block))) else false) : Bool) = true ∧
    (let t : Instant := t0; let pt : Port := .east; let lanes : BitVec 4 := 15; let eyes : List EyeOpening := []; let s : State := east { phase := .polarity, lanes := List.replicate 4 { detect := true, marks := 2 } }; decide ((trunkLive s = true) ∧ ((getPort s pt).phase = .polarity) ∧ (∀ l ∈ usableLanes (getPort s pt), 2 ≤ (laneAt (getPort s pt) l).marks)) : Bool) = true ∧
    (let t : Instant := t0; let pt : Port := .east; let lanes : BitVec 4 := 15; let eyes : List EyeOpening := []; let s : State := east { phase := .deskew, lanes := [{ detect := true, markWidth := 2, txLane := 0 }, { detect := true, markWidth := 2, txLane := 1 }, { detect := true, markWidth := 2, txLane := 2 }, { detect := true, markWidth := 2, txLane := 3 }] }; let q : Byte := 0; decide ((trunkLive s = true) ∧ ((getPort s pt).phase = .deskew) ∧ (∀ l ∈ usableLanes (getPort s pt), (laneAt (getPort s pt) l).markSeq = q) ∧ (deskewFault (getPort s pt) = none)) : Bool) = true ∧
    (let t : Instant := t0; let pt : Port := .east; let lanes : BitVec 4 := 15; let eyes : List EyeOpening := []; let s : State := east { phase := .deskew, lanes := List.replicate 4 { detect := true } }; let q : Byte := 0; (if (trunkLive s = true) ∧ ((getPort s pt).phase = .deskew) ∧ (∀ l ∈ usableLanes (getPort s pt), (laneAt (getPort s pt) l).markSeq = q) then (match deskewFault (getPort s pt) with | some r => true | _ => false) else false) : Bool) = true ∧
    (let t : Instant := ⟨0, 999999999⟩; let pt : Port := .east; let lanes : BitVec 4 := 15; let eyes : List EyeOpening := []; let s : State := east { phase := .adapt }; decide ((trunkLive s = true) ∧ ((getPort s pt).phase = .adapt) ∧ (passed (setNow t s) (getPort s pt).stageAt 256000 = true)) : Bool) = true ∧
    (let pt : Port := .east; let eyes : List EyeOpening := [⟨11, 11⟩]; let s : State := east { phase := .adapt, lanes := List.replicate 4 { detect := true } }; decide (((getPort s pt).phase = .adapt) ∧ (∀ l ∈ usableLanes (getPort s pt), (fomOf (eyes.getD l ⟨0, 0⟩)).toNat < (getPort s pt).cfg.fomMin.toNat) ∧ ((getPort s pt).lanes.length = 4)) : Bool) = true ∧
    (let t : Instant := t0; let pt : Port := .east; let lanes : BitVec 4 := 15; let eyes : List EyeOpening := []; let s : State := east { phase := .caps, partnerCaps := some 0x100, capsSeen := 3, ready := true }; (if (trunkLive s = true) ∧ ((getPort s pt).phase = .caps) then (match (getPort s pt).partnerCaps with | some c => decide ((3 ≤ (getPort s pt).capsSeen) ∧ ((getPort s pt).ready = true)) | _ => false) else false) : Bool) = true ∧
    (let pt : Port := .east; let c : BitVec 64 := 0x300; let s : State := up; decide ((fldN c 8 4 ≠ 1) ∧ (fldN c 8 4 ≠ 2)) : Bool) = true ∧
    (let pt : Port := .east; let c : BitVec 64 := 0x100100; let s : State := up; decide ((fldN c 8 4 = 1 ∨ fldN c 8 4 = 2) ∧ (bitAt c 20 ≠ (getPort s pt).cfg.clocking)) : Bool) = true ∧
    (let pt : Port := .east; let c : BitVec 64 := 0x100; let s : State := up; decide ((bitAt c 20 = (getPort s pt).cfg.clocking) ∧ (fldN c 8 4 = 1) ∧ ((getPort s pt).widthRx ≠ 2)) : Bool) = true ∧
    (let pt : Port := .east; let c : BitVec 64 := 0x9000000000200; let s : State := east { fast := true, record := some ⟨9, 0, []⟩ }; decide ((fldN c 8 4 = 2) ∧ (bitAt c 20 = (getPort s pt).cfg.clocking) ∧ ((getPort s pt).fast = true) ∧ ((getPort s pt).record.map (·.idTag) = some (fld c 48 16))) : Bool) = true ∧
    (let pt : Port := .east; let c : BitVec 64 := 0x9000000000200; let s : State := east { fast := true }; decide ((fldN c 8 4 = 2) ∧ (bitAt c 20 = (getPort s pt).cfg.clocking) ∧ ((getPort s pt).fast = true) ∧ ((getPort s pt).record.map (·.idTag) ≠ some (fld c 48 16))) : Bool) = true ∧
    (let pt : Port := .east; let c : BitVec 64 := 0x200; let s : State := east { high := true }; decide ((fldN c 8 4 = 2) ∧ (bitAt c 20 = (getPort s pt).cfg.clocking) ∧ ((getPort s pt).fast = false) ∧ ((getPort s pt).high = true)) : Bool) = true ∧
    (let pt : Port := .east; let c : BitVec 64 := 0x40200; let s : State := up; decide ((fldN c 8 4 = 2) ∧ (bitAt c 20 = (getPort s pt).cfg.clocking) ∧ ((getPort s pt).fast = false) ∧ ((getPort s pt).high = false) ∧ ((getPort s pt).rate = 0) ∧ ((getPort s pt).cfg.rateMax = 2) ∧ ((getPort s pt).leftOut = 0) ∧ (bitAt c 18 = true)) : Bool) = true ∧
    (let pt : Port := .east; let s : State := east { lanesRx := 7 }; let l : ℕ := 3; decide (((getPort s pt).lanes.length = 4) ∧ (l < 4) ∧ (bitAt (getPort s pt).lanesRx l = false)) : Bool) = true ∧
    (let s : State := east { phase := .up, quietTill := 1 }; let pt : Port := .east; let l : ℕ := 0; decide (((pllOf s (portPll pt)).phase ≠ .locked ∨ s.now.real < (getPort s pt).quietTill)) : Bool) = true ∧
    (let pt : Port := .east; let s : State := east { phase := .up, lanesTx := 15 } { up with clock.east.phase := .locked }; let l : ℕ := 0; decide (((getPort s pt).phase = .up)) : Bool) = true ∧
    (let pt : Port := .east; let s : State := east { phase := .detect } { up with clock.east.phase := .locked }; decide ((inTraining (getPort s pt).phase = true) ∧ ((getPort s pt).announced = false) ∧ (mayDrive s pt = true)) : Bool) = true ∧
    (let pt : Port := .east; let s : State := east { phase := .detect, announced := true } up; decide (((getPort s pt).announced = true ∨ mayDrive s pt = false)) : Bool) = true ∧
    (let n : ℕ := 40; let h : BitVec 31 := 1; let i : ℕ := 8; decide ((i + 31 < n)) : Bool) = true ∧
    (let t : Instant := ⟨0, 999999999⟩; let pt : Port := .east; let s : State := east { phase := .caps }; (if (trunkLive s = true) then (match stageLimit (getPort s pt) with | some ns => true | _ => false) else false) : Bool) = true ∧
    (let pt : Port := .east; let s : State := east { phase := .caps }; decide (((getPort s pt).phase = .caps)) : Bool) = true ∧
    (let pt : Port := .east; let s : State := east { phase := .block, cfg := { minWidth := 2 } }; decide (((getPort s pt).phase = .block) ∧ (((usableLanes (getPort s pt)).filter fun l => (laneAt (getPort s pt) l).locked).length < lanesOf (getPort s pt).cfg.minWidth)) : Bool) = true ∧
    (let pt : Port := .east; let r : ℕ := 1; let s : State := up; decide (((getPort s pt).fast = false) ∧ ((getPort s pt).high = false)) : Bool) = true ∧
    (let pt : Port := .east; let r : ℕ := 1; let s : State := east { fast := true }; decide (((getPort s pt).fast = true)) : Bool) = true ∧
    (let pt : Port := .east; let r : ℕ := 1; let s : State := east { high := true, rate := 2 }; decide (((getPort s pt).fast = false) ∧ ((getPort s pt).high = true)) : Bool) = true ∧
    (let t : Instant := ⟨0, 16000000⟩; let pt : Port := .east; let s : State := east { phase := .backoff, backoffTo := 16000000 }; decide ((trunkLive s = true) ∧ ((getPort s pt).phase = .backoff)) : Bool) = true ∧
    (let t : Instant := ⟨0, 999999999⟩; let pt : Port := .east; let s : State := east { phase := .rateIdle }; decide ((trunkLive s = true) ∧ ((getPort s pt).phase = .rateIdle) ∧ (passed (setNow t s) (getPort s pt).stageAt 10000 = true)) : Bool) = true ∧
    (let t : Instant := ⟨0, 159999⟩; let pt : Port := .east; let s : State := east { phase := .rateIdle }; decide (((getPort s pt).phase = .rateIdle) ∧ (passed (setNow t s) (getPort s pt).stageAt 10000 = false)) : Bool) = true ∧
    (let t : Instant := t0; let pt : Port := .east; let d : ℤ := -9; let s : State := east { phase := .up }; decide ((trunkLive s = true) ∧ (4 ≤ stageNo (getPort s pt).phase)) : Bool) = true ∧
    (let t : Instant := t0; let pt : Port := .east; let lane : Fin 4 := 0; let b : BitVec 64 := 0x5A3C96C3A503004B; let s : State := east { phase := .polarity }; (if (trunkLive s = true) then (match readMark b with | some (inv, m) => decide ((4 ≤ stageNo (getPort s pt).phase) ∧ (stageNo (getPort s pt).phase ≤ 7)) | _ => false) else false) : Bool) = true ∧
    (let t : Instant := t0; let pt : Port := .east; let lane : Fin 4 := 0; let b : BitVec 64 := 0x5A3C96C3A503104B; let s : State := east { phase := .up, lanesRx := 1 }; (if (trunkLive s = true) then (match readMark b with | some (inv, m) => decide (((getPort s pt).phase = .up) ∧ (bitAt (getPort s pt).lanesRx lane.val = true)) | _ => false) else false) : Bool) = true ∧
    (let b : BitVec 64 := 0x5A3C96C3A5FF074B; decide ((fldN b 0 8 = 0x4B) ∧ (fldN b 24 40 = 0x5A3C96C3A5)) : Bool) = true ∧
    (let l : ℕ := 3; let w : BitVec 2 := 2; let e : BitVec 4 := 15; let q : Byte := 255; decide ((l < 4)) : Bool) = true ∧
    (let t : Instant := t0; let pt : Port := .east; let lane : Fin 4 := 0; let b : BitVec 64 := 0; let s : State := east { phase := .up }; decide ((trunkLive s = true) ∧ ((getPort s pt).phase ≠ .diag) ∧ (readMark b = none)) : Bool) = true ∧
    (let t : Instant := t0; let pt : Port := .east; let b : BitVec 64 := 0x200155; let s : State := east { phase := .caps }; decide ((trunkLive s = true) ∧ (fldN b 0 8 = 0x55) ∧ ((getPort s pt).phase = .caps) ∧ (bitAt b 20 = (getPort s pt).cfg.clocking) ∧ (fldN b 8 4 = 1 ∨ fldN b 8 4 = 2)) : Bool) = true ∧
    (let t : Instant := t0; let pt : Port := .east; let b : BitVec 64 := 0x100155; let s : State := east { phase := .caps }; decide ((trunkLive s = true) ∧ (fldN b 0 8 = 0x55) ∧ (4 ≤ stageNo (getPort s pt).phase) ∧ (stageNo (getPort s pt).phase ≤ 7) ∧ (bitAt b 20 ≠ (getPort s pt).cfg.clocking)) : Bool) = true ∧
    (let t : Instant := t0; let pt : Port := .east; let b : BitVec 64 := 0x54; let s : State := east { phase := .caps }; decide ((trunkLive s = true) ∧ (fldN b 0 8 ≠ 0x55) ∧ ((getPort s pt).phase ≠ .diag)) : Bool) = true ∧
    (let t : Instant := t0; let pt : Port := .east; let lane : Fin 4 := 3; let b : BitVec 64 := 5; let s : State := east { phase := .diag, loopFar := 15 }; decide ((trunkLive s = true) ∧ ((getPort s pt).phase = .diag) ∧ (bitAt (getPort s pt).loopFar lane.val = true)) : Bool) = true := by
  and_intros <;> decide +kernel

/-- What TrunkServiceKeepsSlotsInOrder assumes is met, clause by clause. -/
theorem witness_TrunkServiceKeepsSlotsInOrder :
    (let pt : Port := .east; let seq : BitVec 12 := 0; let s : State := up; decide ((seq = (getPort s pt).rxSeq)) : Bool) = true ∧
    (let pt : Port := .east; let seq : BitVec 12 := 5; let s : State := east { phase := .up }; decide (((getPort s pt).nakSent = false)) : Bool) = true ∧
    (let pt : Port := .east; let seq : BitVec 12 := 5; let s : State := east { phase := .up, nakSent := true }; decide (((getPort s pt).nakSent = true)) : Bool) = true ∧
    (let pt : Port := .east; let seq : BitVec 12 := 4; let s : State := east { phase := .up, rxSeq := 5 }; decide ((seqUpTo seq ((getPort s pt).rxSeq - 1) = true)) : Bool) = true ∧
    (let t : Instant := t0; let pt : Port := .east; let rx : List RxBlock := []; let before : List (BitVec 58) := []; let d : Fin 4 := 0; let s : State := east { phase := .up, nakSent := true }; decide ((trunkLive s = true) ∧ ((getPort s pt).phase = .up)) : Bool) = true ∧
    (let t : Instant := t0; let pt : Port := .east; let rx : List RxBlock := [⟨0, 1, 7⟩]; let before : List (BitVec 58) := []; let d : Fin 4 := 0; let s : State := east { phase := .diag, loopFar := 1 }; decide ((trunkLive s = true) ∧ ((getPort s pt).phase = .diag)) : Bool) = true ∧
    (let p : Port := .east; let x : TrunkPort := {}; let y : TrunkPort := { lanesRx := 15, lanes := (List.range 4).map fun l => { txLane := BitVec.ofNat 2 l } }; let m : BitVec 4 := 15; let slot : RawSlot := emptySlot 0 false; let tr : BitVec 64 := 5; decide ((m ≠ 0) ∧ (slot.payload.length = 64) ∧ (x.dealt < (maskLanes m).length) ∧ (x.lanes.length = 4) ∧ (y.lanesRx = m) ∧ (∀ (l : Nat) (_ : l < 4), (laneAt y l).txLane.toNat = l ∧ (laneAt y l).inverted = false)) : Bool) = true ∧
    (let pt : Port := .east; let r : RxSlot := ⟨emptySlot 0 false, slotTrailer (emptySlot 0 false) false, true, true, []⟩; let s : State := east { phase := .up }; (if ((getPort s pt).slipped = false) ∧ (r.bad = []) ∧ (r.whole = true) ∧ (checkSlot r.slot r.trailer true = .good) ∧ (slotSeq r.slot = (getPort s pt).rxSeq) ∧ (noRoom s r.slot = false) then (let u : State := updPort s pt (fun x => { x with rxSeq := x.rxSeq + 1, nakSent := false, nakOwed := false, ackOwed := true }); true) else false) : Bool) = true ∧
    (let pt : Port := .east; let r : RxSlot := ⟨emptySlot 0 false, 0, true, true, []⟩; let s : State := east { phase := .up }; (if ((getPort s pt).slipped = false) ∧ (r.bad = []) ∧ (r.headed = true) ∧ (fldN r.slot.hdr 0 8 = 0xD2) ∧ (checkSlot r.slot r.trailer r.whole = .bad) ∧ (slotSeq r.slot = (getPort s pt).rxSeq) ∧ (noRoom s r.slot = false) then (let u : State := (takeSlot pt .bad (slotSeq r.slot) s).2; true) else false) : Bool) = true ∧
    (let pt : Port := .east; let r : RxSlot := ⟨emptySlot 0 false, 0, true, true, []⟩; let s : State := east { phase := .up, nakSent := true, rxSeq := 7 }; decide (((getPort s pt).slipped = false) ∧ ((getPort s pt).nakSent = true) ∧ (r.bad = []) ∧ (checkSlot r.slot r.trailer r.whole = .bad) ∧ (slotSeq r.slot ≠ (getPort s pt).rxSeq)) : Bool) = true ∧
    (let pt : Port := .east; let s : State := up; decide ((∀ (l : Nat) (_ : l < 4), headerLoss s (getPort s pt) l = false)) : Bool) = true ∧
    (let pt : Port := .east; let slot : RawSlot := emptySlot 0 false; let s : State := up; decide ((slotType slot = 0)) : Bool) = true ∧
    (let t : Instant := t0; let pt : Port := .east; let b : BitVec 64 := 0x87; let s : State := east { phase := .up }; decide ((trunkLive s = true) ∧ (fldN b 0 8 = 0x87) ∧ (bitAt b 8 = false) ∧ ((getPort s pt).phase = .up)) : Bool) = true ∧
    (let t : Instant := t0; let pt : Port := .east; let b : BitVec 64 := 0x187; let s : State := east { phase := .up }; decide ((trunkLive s = true) ∧ (fldN b 0 8 = 0x87) ∧ (bitAt b 8 = true) ∧ ((getPort s pt).phase = .up)) : Bool) = true ∧
    (let t : Instant := t0; let pt : Port := .east; let b : BitVec 64 := 0x87; let s : State := east { phase := .caps }; decide (((getPort s pt).phase ≠ .up) ∧ ((getPort s pt).phase ≠ .diag)) : Bool) = true ∧
    (let pt : Port := .east; let keep : ReplaySlot → Bool := fun _ => true; let s : State := east { phase := .up, replay := [rep0] }; (match (getPort s pt).replay with | r :: rs => decide ((r.sends < 4)) | _ => false) : Bool) = true ∧
    (let pt : Port := .east; let keep : ReplaySlot → Bool := fun _ => true; let s : State := east { phase := .up, replay := [{ rep0 with sends := 4 }] }; (match (getPort s pt).replay with | r :: rs => decide ((4 ≤ r.sends)) | _ => false) : Bool) = true ∧
    (let t : Instant := t0; let pt : Port := .east; let s : State := east { phase := .up, positions := 120 }; decide ((trunkLive s = true) ∧ ((getPort s pt).phase = .up) ∧ ((getPort s pt).ackAt + 120 ≤ (getPort s pt).positions)) : Bool) = true ∧
    (let t : Instant := t0; let pt : Port := .east; let s : State := east { phase := .up, resend := [rep0] }; (if (trunkLive s = true) ∧ ((getPort s pt).phase = .up) ∧ (txAwake (setNow t s) (getPort s pt) = true) then (let u : State := endWake pt (setNow t s); (match (getPort s pt).resend with | r :: rest => true | _ => false)) else false) : Bool) = true ∧
    (let t : Instant := t0; let pt : Port := .east; let s : State := east { phase := .up }; (if (trunkLive s = true) ∧ ((getPort s pt).phase = .up) ∧ (txAwake (setNow t s) (getPort s pt) = true) then (let u : State := endWake pt (setNow t s); decide (((getPort s pt).resend = []))) else false) : Bool) = true ∧
    (let t : Instant := t0; let pt : Port := .east; let s : State := up; decide (((getPort s pt).phase ≠ .up)) : Bool) = true ∧
    (let pt : Port := .east; let s : State := east { phase := .up }; decide (((getPort s pt).txWakeAt = none)) : Bool) = true ∧
    (let pt : Port := .east; let s : State := east { phase := .up, lanesTx := 15, txWakeAt := some 0 }; decide (((getPort s pt).txWakeAt ≠ none)) : Bool) = true ∧
    (let x : RawSlot := emptySlot 0 false; decide ((fldN x.hdr 0 8 = 0xD2)) : Bool) = true ∧
    (let pt : Port := .east; let s : State := east { phase := .up, replay := List.replicate 481 rep0 }; decide ((replaySize ≤ (getPort s pt).replay.length)) : Bool) = true ∧
    (let pt : Port := .east; let s : State := east { phase := .up, transit := [{ slot := emptySlot 0 false }] }; let w : WaitSlot := { slot := emptySlot 0 false }; let rest : List WaitSlot := []; decide (((getPort s pt).replay.length < replaySize) ∧ ((getPort s pt).transit = w :: rest) ∧ (rsvDue (getPort s pt) = false ∨ slotPrio w.slot ≤ 1)) : Bool) = true ∧
    (let pt : Port := .east; let s : State := east { phase := .up }; decide ((wrapsAt s pt = false)) : Bool) = true ∧
    (let pt : Port := .east; let s : State := east { phase := .up, transit := List.replicate 8 { slot := emptySlot 0 false } } { up with ring.wrapEast := true, west := { transit := List.replicate 8 { slot := emptySlot 0 false } } }; decide (((getPort s (otherPort pt)).transit.length ≤ 8)) : Bool) = true ∧
    (let pt : Port := .east; let s : State := east { phase := .up, transit := List.replicate 8 { slot := emptySlot 0 false } } { up with ring.wrapEast := true }; decide ((wrapsAt s pt = true) ∧ ((getPort s (otherPort pt)).transit = []) ∧ ((getPort s pt).transit.length ≤ 8)) : Bool) = true ∧
    (let pt : Port := .east; let stomp : Bool := false; let x : RawSlot := emptySlot 3 false; let s : State := up; decide (((getPort s (forwardPort s x)).phase ≠ .up)) : Bool) = true ∧
    (let pt : Port := .east; let s : State := east { phase := .up }; decide (((getPort s pt).replay.length < replaySize) ∧ ((getPort s pt).transit = []) ∧ (ownNext s pt = none) ∧ (controlOnly s pt = false)) : Bool) = true ∧
    (let pt : Port := .east; let s : State := east { phase := .up }; decide (((getPort s pt).phase = .up) ∧ (((getPort s pt).positions + 1) % 30 ≠ 0) ∧ ((getPort s pt).sinceMark < 16384)) : Bool) = true ∧
    (let pt : Port := .east; let n : ℕ := 30; let s : State := east { phase := .up, nakOwed := true }; decide (((getPort s pt).nakOwed = true)) : Bool) = true ∧
    (let pt : Port := .east; let n : ℕ := 30; let s : State := east { phase := .up }; decide (((getPort s pt).nakOwed = false)) : Bool) = true ∧
    (let bs : List (BitVec 64) := [5]; let b : BitVec 64 := 7; decide ((bs.getLast? ≠ some fillerBlock)) : Bool) = true ∧
    (let pt : Port := .east; let n : ℕ := 30; let s : State := east { phase := .up, dozeDue := true }; decide (((getPort s pt).dozeDue = true)) : Bool) = true ∧
    (let pt : Port := .east; let n : ℕ := 30; let s : State := east { phase := .up, dozeDue := true, cfg := { dozeEn := true }, idleSince := some 0 }; decide (((getPort s pt).dozeDue = true) ∧ (stillIdle s pt = true)) : Bool) = true ∧
    (let pt : Port := .east; let n : ℕ := 30; let s : State := east { phase := .up, dozeDue := true }; decide (((getPort s pt).dozeDue = true) ∧ (stillIdle s pt = false)) : Bool) = true ∧
    (let t : Instant := t0; let pt : Port := .east; let b : BitVec 64 := 0x266; let s : State := east { phase := .caps }; decide ((trunkLive s = true) ∧ (fldN b 0 8 = 0x66) ∧ ((getPort s pt).phase = .caps ∨ (getPort s pt).phase = .adapt) ∧ (fld b 8 2 ≠ 3)) : Bool) = true ∧
    (let t : Instant := t0; let pt : Port := .east; let b : BitVec 64 := 0x3E66; let s : State := east { phase := .up, widthTx := 2, lanesTx := 15 }; (if (trunkLive s = true) ∧ (fldN b 0 8 = 0x66) ∧ ((getPort s pt).phase = .up) then (let w : BitVec 2 := fld b 8 2; (if (w ≠ 3) then (let lanes : BitVec 4 := widthLanes w (maskLanes (fld b 10 4)); decide ((w = (getPort s pt).widthTx) ∧ (lanes = (getPort s pt).lanesTx))) else false)) else false) : Bool) = true ∧
    (let t : Instant := t0; let pt : Port := .east; let b : BitVec 64 := 0x0466; let s : State := east { phase := .up, widthTx := 2, lanesTx := 15 }; (if (trunkLive s = true) ∧ (fldN b 0 8 = 0x66) ∧ ((getPort s pt).phase = .up) then (let w : BitVec 2 := fld b 8 2; (if (w ≠ 3) then (let lanes : BitVec 4 := widthLanes w (maskLanes (fld b 10 4)); decide ((w ≠ (getPort s pt).widthTx))) else false)) else false) : Bool) = true ∧
    (let t : Instant := t0; let pt : Port := .east; let lane : Fin 4 := 0; let s : State := east { phase := .up }; decide ((trunkLive s = true)) : Bool) = true ∧
    (let pt : Port := .east; let l : ℕ := 3; let s : State := up; decide (((getPort s pt).phase ≠ .up ∨ (getPort s pt).rxDoze = true ∨ bitAt (getPort s pt).lanesRx l = false)) : Bool) = true ∧
    (let pt : Port := .east; let l : ℕ := 3; let s : State := { (east { phase := .up, lanesRx := 15 }) with ring.features := 0 }; decide (((getPort s pt).phase = .up) ∧ ((getPort s pt).rxDoze = false) ∧ (bitAt (getPort s pt).lanesRx l = true) ∧ ((laneAt (getPort s pt) l).lost = false) ∧ (hasFeature s 4 = false)) : Bool) = true ∧
    (let pt : Port := .east; let l : ℕ := 1; let s : State := east { phase := .up, lanesRx := 15, widthRx := 2, lanes := (List.range 4).map fun l => { txLane := BitVec.ofNat 2 l } } { up with ring.features := 0xFF }; decide (((getPort s pt).phase = .up) ∧ ((getPort s pt).rxDoze = false) ∧ (bitAt (getPort s pt).lanesRx l = true) ∧ ((laneAt (getPort s pt) l).lost = false) ∧ ((getPort (loseLane pt l s) pt).phase = .up)) : Bool) = true ∧
    (let pt : Port := .east; let e : BitVec 4 := 1; let s : State := east { phase := .up }; decide ((∀ a ∈ (getPort s pt).ask, groupCame (getPort s pt) a e = false)) : Bool) = true ∧
    (let pt : Port := .east; let e : BitVec 4 := 3; let w : BitVec 2 := 0; let s : State := east { phase := .up, lanesRx := 1, lanes := [{ markEpoch := 3 }, {}, {}, {}], ask := some ⟨1, 0, 0, false, 0⟩ }; let a : WidthAsk := ⟨1, 0, 0, false, 0⟩; decide (((getPort s pt).ask = some a) ∧ (w = a.width) ∧ (groupCame (getPort s pt) a e = true)) : Bool) = true ∧
    (let t : Instant := ⟨0, 999999999⟩; let pt : Port := .east; let s : State := east { phase := .up, ask := some ⟨1, 0, 0, false, 0⟩ }; let a : WidthAsk := ⟨1, 0, 0, false, 0⟩; decide ((trunkLive s = true) ∧ ((getPort s pt).ask = some a) ∧ (a.widen = false)) : Bool) = true ∧
    (let t : Instant := t0; let pt : Port := .east; let eyes : List EyeOpening := []; let s : State := up; decide ((trunkLive s = true) ∧ ((getPort s pt).phase ≠ .up ∨ (getPort s pt).rxDoze = true)) : Bool) = true ∧
    (let t : Instant := t0; let pt : Port := .east; let eyes : List EyeOpening := []; let s : State := east { phase := .up }; decide ((trunkLive s = true) ∧ ((getPort s pt).phase = .up) ∧ ((getPort s pt).rxDoze = false)) : Bool) = true ∧
    (let pt : Port := .east; let s : State := up; decide ((∀ (l : Nat) (_ : l < 4), ∀ n ∈ (laneAt (getPort s pt) l).lowSince, passed s n 10000000 = false)) : Bool) = true ∧
    (let pt : Port := .east; let s : State := { (east { phase := .up, lanes := [{}, {}, {}, { lowSince := some 0 }] }) with now := ⟨0, 160000000⟩ }; let n : ℕ := 0; decide (((laneAt (getPort s pt) 3).lowSince = some n) ∧ (passed s n 10000000 = true) ∧ (∀ (l : Nat) (_ : l < 3), (laneAt (getPort s pt) l).lowSince = none)) : Bool) = true ∧
    (let now : ℕ := 0; let min : ℕ := 24; let f : Byte := 23; let d : List (BitVec 6) := []; let l : LaneState := {}; decide ((l.train = 0) ∧ (f.toNat < min)) : Bool) = true ∧
    (let now : ℕ := 0; let min : ℕ := 24; let f : Byte := 24; let d : List (BitVec 6) := []; let l : LaneState := {}; decide ((l.train = 0) ∧ (min ≤ f.toNat)) : Bool) = true ∧
    (let t : Instant := ⟨0, 1600000000⟩; let pt : Port := .east; let s : State := { east { phase := .up, lanesRx := 1, widthRx := 0, lanes := [{ detect := true }, { detect := true, goodSince := some 0, txLane := 1 }, {}, {}] } with ring.features := 0xFF }; (if (trunkLive s = true) ∧ ((getPort s pt).phase = .up) ∧ ((getPort s pt).cfg.restoreEn = true) ∧ (hasFeature s 4 = true) ∧ ((getPort s pt).ask = none) ∧ (∀ n ∈ (getPort s pt).lastWiden, passed (setNow t s) n 1000000000 = true) then (let good : List ℕ := byTxLane (getPort s pt) ((usableLanes (getPort s pt)).filter fun l => bitAt (getPort s pt).lanesRx l || (decide ((laneAt (getPort s pt) l).train = 0) && (laneAt (getPort s pt) l).goodSince.any fun n => passed (setNow t s) n 100000000)); decide ((good ≠ []) ∧ ((getPort s pt).widthRx.toNat < (widest good.length).toNat))) else false) : Bool) = true ∧
    (let t : Instant := t0; let pt : Port := .east; let b : BitVec 64 := 0x99; let s : State := east { phase := .up }; decide ((trunkLive s = true) ∧ (fldN b 0 8 = 0x99) ∧ ((getPort s pt).phase = .up)) : Bool) = true ∧
    (let t : Instant := ⟨0, 320000⟩; let pt : Port := .east; let s : State := east { phase := .up, cfg := { dozeEn := true }, partnerCaps := some 0x400000, idleSince := some 0 }; (if (trunkLive s = true) ∧ ((getPort s pt).phase = .up) ∧ ((getPort s pt).txDoze = false) ∧ ((getPort s pt).cfg.dozeEn = true) then (match (getPort s pt).partnerCaps with | some c => (if (bitAt c 22 = true) then (match (getPort s pt).idleSince with | some n => decide ((passed (setNow t s) n (1000 * (getPort s pt).cfg.dozeIdle.toNat) = true) ∧ ((getPort s pt).replay = []) ∧ ((getPort s pt).ackOwed = false) ∧ ((getPort s pt).nakOwed = false) ∧ ((getPort s pt).ask = none)) | _ => false) else false) | _ => false) else false) : Bool) = true ∧
    (let t : Instant := t0; let pt : Port := .east; let s : State := east { phase := .up, txDoze := true, ackOwed := true }; decide ((trunkLive s = true) ∧ ((getPort s pt).phase = .up) ∧ ((getPort s pt).txDoze = true) ∧ ((getPort s pt).ackOwed = true ∨ (getPort s pt).nakOwed = true ∨ (getPort s pt).transit ≠ [] ∨ ownWaits (setNow t s) pt = true)) : Bool) = true ∧
    (let t : Instant := t0; let pt : Port := .east; let m : BitVec 4 := 15; let s : State := east { phase := .up }; decide ((trunkLive s = true) ∧ ((getPort s pt).rxWakeAt = none)) : Bool) = true ∧
    (let t : Instant := ⟨0, 999999999⟩; let pt : Port := .east; let s : State := east { phase := .up, rxWakeAt := some 0 }; (if (trunkLive s = true) then (match (getPort s pt).rxWakeAt with | some n => decide ((passed (setNow t s) n 10000 = true)) | _ => false) else false) : Bool) = true := by
  and_intros <;> decide +kernel

/-- What RingAddressesAndPortCommands assumes is met, clause by clause. -/
theorem witness_RingAddressesAndPortCommands :
    (let t : Instant := t0; let s : State := cmdIn 0x0503 [0] up; (match taken t 0x0503 s with | some (p, s1) => decide ((firstReserved (cmdOf p).words [0] = none)) | _ => false) : Bool) = true ∧
    (let t : Instant := t0; let pt : Port := .east; let m : MgmtSlot := ⟨0, 0, false, 3, []⟩; let s : State := (east { phase := .up }); decide ((trunkLive s = true) ∧ ((getPort s pt).phase = .up)) : Bool) = true ∧
    (let t : Instant := t0; let pt : Port := .east; let m : MgmtSlot := ⟨0, 0, false, 3, []⟩; let b : ℕ := 0; let s : State := up; decide (((getPort s pt).phase ≠ .up)) : Bool) = true ∧
    (let t : Instant := t0; let pt : Port := .east; let m : MgmtSlot := ⟨0, 0, false, 3, []⟩; let b : ℕ := 0; let s : State := { (east { phase := .up }) with ring.probing := true }; decide ((trunkLive s = true) ∧ ((getPort s pt).phase = .up) ∧ (mgmtId m = s.rst.fuses.deviceId) ∧ (s.ring.probing = true) ∧ (s.ring.probeClaimed = false)) : Bool) = true ∧
    (let t : Instant := t0; let pt : Port := .east; let m : MgmtSlot := ⟨0, 0, false, 3, []⟩; let b : ℕ := 0; let s : State := (east { phase := .up }); decide ((trunkLive s = true) ∧ ((getPort s pt).phase = .up) ∧ (mgmtId m = s.rst.fuses.deviceId) ∧ (s.ring.probing = false ∨ s.ring.probeClaimed = true)) : Bool) = true ∧
    (let t : Instant := t0; let pt : Port := .east; let m : MgmtSlot := ⟨0, 0, false, 3, [0, 1, 0, 9]⟩; let b : ℕ := 2000; let s : State := { (east { phase := .up }) with ring.addr := 9, ring.addrPhase := .tentative }; decide ((trunkLive s = true) ∧ ((getPort s pt).phase = .up) ∧ (mgmtId m ≠ s.rst.fuses.deviceId) ∧ (s.ring.addrPhase = .tentative) ∧ (s.ring.addr = fld (mgmtWord m 3) 0 7)) : Bool) = true ∧
    (let t : Instant := t0; let pt : Port := .east; let m : MgmtSlot := ⟨0, 0, false, 3, [0, 1, 0, 9]⟩; let b : ℕ := 0; let s : State := (east { phase := .up }); decide ((trunkLive s = true) ∧ ((getPort s pt).phase = .up) ∧ (mgmtId m ≠ s.rst.fuses.deviceId) ∧ (s.ring.addrPhase = .none ∨ s.ring.addr ≠ fld (mgmtWord m 3) 0 7)) : Bool) = true ∧
    (let t : Instant := t0; let pt : Port := .east; let m : MgmtSlot := ⟨0, 0, false, 3, [0, 1, 0, 9]⟩; let b : ℕ := 0; let s : State := { (east { phase := .up }) with ring.addr := 9, ring.addrPhase := .confirmed }; decide ((trunkLive s = true) ∧ ((getPort s pt).phase = .up) ∧ (mgmtId m ≠ s.rst.fuses.deviceId) ∧ (s.ring.addrPhase = .confirmed) ∧ (s.ring.addr = fld (mgmtWord m 3) 0 7)) : Bool) = true ∧
    (let t : Instant := t0; let pt : Port := .east; let m : MgmtSlot := ⟨0, 0, false, 3, [0, 0, 0, 9]⟩; let b : ℕ := 2000; let s : State := { (east { phase := .up }) with ring.addr := 9, ring.addrPhase := .tentative }; decide ((trunkLive s = true) ∧ ((getPort s pt).phase = .up) ∧ (mgmtId m = s.rst.fuses.deviceId) ∧ (s.ring.addrPhase = .tentative) ∧ (s.ring.addr = fld (mgmtWord m 3) 0 7) ∧ (s.ring.collided = false)) : Bool) = true ∧
    (let t : Instant := ⟨0, 32000000000⟩; let s : State := { (east { phase := .up }) with ring.backoff := true, ring.joinAt := some 16000 }; decide ((trunkLive s = true) ∧ (s.ring.backoff = true) ∧ (s.ring.joinAt.getD 0 ≤ (setNow t s).now.real)) : Bool) = true ∧
    (let t : Instant := ⟨0, 32000000000⟩; let s : State := { (east { phase := .up }) with ring.joinAt := some 0 }; let a : ℕ := 0; decide ((trunkLive s = true) ∧ (s.ring.joinAt = some a) ∧ (s.ring.backoff = false) ∧ (s.ring.addrPhase ≠ .confirmed) ∧ (passed (setNow t s) a 10000000 = true)) : Bool) = true ∧
    (let t : Instant := t0; let s : State := up; decide ((s.ring.joinAt = none)) : Bool) = true ∧
    (let t : Instant := t0; let pt : Port := .east; let m : MgmtSlot := ⟨0, 0, false, 3, [0, 0, 0, 0x7E]⟩; let s : State := (east { phase := .up }); decide ((trunkLive s = true) ∧ ((getPort s pt).phase = .up) ∧ (mgmtId m = s.rst.fuses.deviceId)) : Bool) = true ∧
    (let t : Instant := t0; let pt : Port := .east; let m : MgmtSlot := ⟨0, 0, false, 3, [0, 5, 0, 0x7E]⟩; let s : State := (east { phase := .up }); decide ((trunkLive s = true) ∧ ((getPort s pt).phase = .up) ∧ (mgmtId m ≠ s.rst.fuses.deviceId)) : Bool) = true ∧
    (let t : Instant := t0; let s : State := cmdIn 0x0504 [0x800000, 0, 0] up; (match taken t 0x0504 s with | some (p, s1) => (if (firstReserved (cmdOf p).words [0xEFFFFF, 0xFFFFF, 0xFFFFF] = none) then (let i : ℕ := fldN (par p 0) 16 4; decide ((i ≤ 8) ∧ (bitAt (par p 0) 23 = true) ∧ (streamOn s1 i = false))) else false) | _ => false) : Bool) = true ∧
    (let t : Instant := t0; let s : State := cmdIn 0x0504 [0x00021, 0, 100000] { up with ring.cRing := 400000 }; (match taken t 0x0504 s with | some (p, s1) => (if (firstReserved (cmdOf p).words [0xEFFFFF, 0xFFFFF, 0xFFFFF] = none) then (let i : ℕ := fldN (par p 0) 16 4; (if (i ≤ 8) ∧ (bitAt (par p 0) 23 = false) then (let a : PortAssign := assignOfWords (overlay (cmdOf p).words (assignWords ((assignOf s1 i).getD noAssign))); decide ((s1.ring.addrPhase = .none ∨ a.dest ≠ s1.ring.addr) ∧ (portTaken s1 i a.port = false) ∧ (a.dir = true → dualRing s1 = true) ∧ (streamOn s1 i = false) ∧ (reservedIn s1 i a.dir + a.rsv.toNat ≤ s1.ring.cRing.toNat) ∧ (a.peak.toNat ≤ s1.ring.cRing.toNat) ∧ (a.basted = true → a.peak.toNat ≤ s1.ring.cRing.toNat * 3 / 5))) else false)) else false) | _ => false) : Bool) = true ∧
    (let t : Instant := t0; let s : State := cmdIn 0x0504 [0x21, 0, 0] ({ up with ring.ports := (List.replicate 9 none).set 3 (some { noAssign with port := 0x21 }) }); (match taken t 0x0504 s with | some (p, s1) => (if (firstReserved (cmdOf p).words [0xEFFFFF, 0xFFFFF, 0xFFFFF] = none) then (let i : ℕ := fldN (par p 0) 16 4; (if (i ≤ 8) ∧ (bitAt (par p 0) 23 = false) then (let a : PortAssign := assignOfWords (overlay (cmdOf p).words (assignWords ((assignOf s1 i).getD noAssign))); decide (((s1.ring.addrPhase ≠ .none ∧ a.dest = s1.ring.addr) ∨ portTaken s1 i a.port = true))) else false)) else false) | _ => false) : Bool) = true ∧
    (let t : Instant := t0; let s : State := cmdIn 0x0504 [0x200021, 0, 0] ({ up with ring.features := 0 }); (match taken t 0x0504 s with | some (p, s1) => (if (firstReserved (cmdOf p).words [0xEFFFFF, 0xFFFFF, 0xFFFFF] = none) then (let i : ℕ := fldN (par p 0) 16 4; (if (i ≤ 8) ∧ (bitAt (par p 0) 23 = false) then (let a : PortAssign := assignOfWords (overlay (cmdOf p).words (assignWords ((assignOf s1 i).getD noAssign))); decide ((s1.ring.addrPhase = .none ∨ a.dest ≠ s1.ring.addr) ∧ (portTaken s1 i a.port = false) ∧ (a.dir = true) ∧ (dualRing s1 = false))) else false)) else false) | _ => false) : Bool) = true ∧
    (let t : Instant := t0; let s : State := cmdIn 0x0504 [0x21, 0, 0] (str); (match taken t 0x0504 s with | some (p, s1) => (if (firstReserved (cmdOf p).words [0xEFFFFF, 0xFFFFF, 0xFFFFF] = none) then (let i : ℕ := fldN (par p 0) 16 4; (if (i ≤ 8) ∧ (bitAt (par p 0) 23 = false) then (let a : PortAssign := assignOfWords (overlay (cmdOf p).words (assignWords ((assignOf s1 i).getD noAssign))); decide ((s1.ring.addrPhase = .none ∨ a.dest ≠ s1.ring.addr) ∧ (portTaken s1 i a.port = false) ∧ (a.dir = true → dualRing s1 = true) ∧ (streamOn s1 i = true))) else false)) else false) | _ => false) : Bool) = true ∧
    (let t : Instant := t0; let s : State := cmdIn 0x0504 [0x00021, 400001, 100000] ({ up with ring.cRing := 400000 }); (match taken t 0x0504 s with | some (p, s1) => (if (firstReserved (cmdOf p).words [0xEFFFFF, 0xFFFFF, 0xFFFFF] = none) then (let i : ℕ := fldN (par p 0) 16 4; (if (i ≤ 8) ∧ (bitAt (par p 0) 23 = false) then (let a : PortAssign := assignOfWords (overlay (cmdOf p).words (assignWords ((assignOf s1 i).getD noAssign))); decide ((s1.ring.addrPhase = .none ∨ a.dest ≠ s1.ring.addr) ∧ (portTaken s1 i a.port = false) ∧ (a.dir = true → dualRing s1 = true) ∧ (streamOn s1 i = false) ∧ (s1.ring.cRing.toNat < reservedIn s1 i a.dir + a.rsv.toNat ∨ s1.ring.cRing.toNat < a.peak.toNat ∨ (a.basted = true ∧ s1.ring.cRing.toNat * 3 / 5 < a.peak.toNat)))) else false)) else false) | _ => false) : Bool) = true ∧
    (let t : Instant := t0; let s : State := cmdIn 0x0504 [0x90021, 0, 0] up; (match taken t 0x0504 s with | some (p, s1) => (if (firstReserved (cmdOf p).words [0xEFFFFF, 0xFFFFF, 0xFFFFF] = none) then (let i : ℕ := fldN (par p 0) 16 4; decide ((8 < i))) else false) | _ => false) : Bool) = true ∧
    (let t : Instant := t0; let s : State := cmdIn 0x0504 [0x800021, 0, 0] (str); (match taken t 0x0504 s with | some (p, s1) => (if (firstReserved (cmdOf p).words [0xEFFFFF, 0xFFFFF, 0xFFFFF] = none) then (let i : ℕ := fldN (par p 0) 16 4; decide ((i ≤ 8) ∧ (bitAt (par p 0) 23 = true) ∧ (streamOn s1 i = true))) else false) | _ => false) : Bool) = true := by
  and_intros <;> decide +kernel

/-- What RingTopologyRotationsAndClaims assumes is met, clause by clause. -/
theorem witness_RingTopologyRotationsAndClaims :
    (let t : Instant := t0; let pt : Port := .east; let m : MgmtSlot := ⟨0, 0, false, 3, [0, 1, 2, 3, 4]⟩; let s : State := (east { phase := .up }); decide ((trunkLive s = true) ∧ ((getPort s pt).phase = .up)) : Bool) = true ∧
    (let w1 : Word := 0x05030007; let w2 : Word := 0x12345; let w3 : Word := 99; let w4 : Word := 0x0203; let s : State := base; decide ((s.ring.features = 0) ∧ (s.ring.ports = List.replicate 9 none) ∧ (s.ring.wrapEast = false) ∧ (s.ring.wrapWest = false)) : Bool) = true ∧
    (let t : Instant := t0; let pt : Port := .east; let m : MgmtSlot := ⟨0, 0, false, 3, [0, 7, 300, 9000]⟩; let s : State := (east { phase := .up }); decide ((trunkLive s = true) ∧ ((getPort s pt).phase = .up) ∧ (m.ringB = false)) : Bool) = true ∧
    (let t : Instant := t0; let pt : Port := .east; let m : MgmtSlot := ⟨0, 0, true, 3, [0, 7, 300, 9000]⟩; let s : State := (east { phase := .up }); decide ((trunkLive s = true) ∧ ((getPort s pt).phase = .up) ∧ (m.ringB = true)) : Bool) = true ∧
    (let t : Instant := ⟨0, 32000000000⟩; let s : State := { (east { phase := .up }) with ring.ownerFrom := some 5 }; (if (trunkLive s = true) then (match s.ring.ownerFrom with | some a => decide ((s.ring.ownerLost = false) ∧ (passed (setNow t s) a 1000000 = true)) | _ => false) else false) : Bool) = true ∧
    (let t : Instant := ⟨0, 16000000⟩; let s : State := { (east { phase := .up }) with ring.ownerFrom := some 5 }; (match s.ring.ownerFrom with | some a => decide ((passed (setNow t s) a 1000000 = false)) | _ => false) : Bool) = true ∧
    (let t : Instant := ⟨0, 32000000000⟩; let s : State := { (east { phase := .up }) with ring.ownerLost := true }; decide ((trunkLive s = true) ∧ (s.ring.ownerLost = true) ∧ (passed (setNow t s) s.ring.selfAt 20000 = true)) : Bool) = true ∧
    (let t : Instant := ⟨0, 32000000000⟩; let s : State := (east { phase := .up }); decide ((s.ring.ownerLost = false)) : Bool) = true ∧
    (let pt : Port := .east; let s : State := { (east { phase := .up }) with ring.wrapEast := true }; decide ((wrapsAt s pt = true) ∧ ((getPort s pt).phase = .up)) : Bool) = true ∧
    (let pt : Port := .east; let s : State := (east { phase := .up }); decide ((wrapsAt s pt = false ∨ (getPort s pt).phase ≠ .up)) : Bool) = true ∧
    (let w1 : Word := 0x05030007; let w2 : Word := 0; let w3 : Word := 99; let w4 : BitVec 32 := 0x0203; let s : State := { (east { phase := .up }) with ring.wrapEast := true, ring.features := 0, ring.ports := List.replicate 9 none }; decide ((s.ring.features = 0) ∧ (s.ring.ports = List.replicate 9 none) ∧ (s.ring.wrapEast = true) ∧ (s.ring.wrapWest = false) ∧ (s.east.phase = .up) ∧ (ownSrc s ≠ fld w4 0 7) ∧ (ownSrc s ≠ fld w4 8 7)) : Bool) = true ∧
    (let w1 : Word := 0x05030007; let w2 : Word := 0; let w3 : Word := 99; let w4 : BitVec 32 := 0x0203; let s : State := { (east { phase := .up }) with ring.wrapEast := true, ring.features := 0, ring.ports := List.replicate 9 none, ring.addr := 3, ring.addrPhase := .confirmed }; decide ((s.ring.features = 0) ∧ (s.ring.ports = List.replicate 9 none) ∧ (s.ring.wrapEast = true) ∧ (s.ring.wrapWest = false) ∧ (ownSrc s ≠ 0x7F) ∧ (ownSrc s = fld w4 0 7)) : Bool) = true ∧
    (let i : ℕ := 8; let s : State := { up with ring.cRing := 1000000, ring.ports := List.replicate 9 (some { port := 9, dest := 3, dir := false, basted := true, rsv := 0, peak := 600001 }) }; let a : PortAssign := { port := 9, dest := 3, dir := false, basted := true, rsv := 0, peak := 600001 }; decide ((assignOf s i = some a) ∧ (a.basted = true) ∧ (a.suspended = false) ∧ (bastedShare s.ring.cRing < a.peak.toNat)) : Bool) = true ∧
    (let i : ℕ := 8; let s : State := { up with ring.cRing := 1000000, ring.ports := List.replicate 9 (some { port := 9, dest := 3, dir := false, basted := true, rsv := 0, peak := 600000, suspended := true }) }; let a : PortAssign := { port := 9, dest := 3, dir := false, basted := true, rsv := 0, peak := 600000, suspended := true }; decide ((assignOf s i = some a) ∧ (a.basted = true) ∧ (a.suspended = true) ∧ (a.peak.toNat ≤ bastedShare s.ring.cRing)) : Bool) = true ∧
    (let t : Instant := t0; let pt : Port := .east; let m : MgmtSlot := ⟨0, 0, false, 3, [0, 0x200]⟩; let s : State := { (east { phase := .up }) with ring.unwrapped := true }; decide ((trunkLive s = true) ∧ ((getPort s pt).phase = .up) ∧ (bitAt (mgmtWord m 1) 9 = true)) : Bool) = true ∧
    (let t : Instant := t0; let pt : Port := .east; let m : MgmtSlot := ⟨0, 0, false, 3, [0, 0x100]⟩; let s : State := { (east { phase := .up }) with ring.unwrapped := true }; decide ((bitAt (mgmtWord m 1) 9 = false)) : Bool) = true ∧
    (let t : Instant := ⟨0, 1600000⟩; let pt : Port := .east; let m : MgmtSlot := ⟨5, 0, false, 3, [0, 0x21]⟩; let s : State := { (east { phase := .up }) with ring.addr := 5, ring.addrPhase := .confirmed, ring.claim := some (2, { noAssign with port := 0x21 }, 0) }; (if (trunkLive s = true) ∧ ((getPort s pt).phase = .up) ∧ (s.ring.addrPhase = .confirmed) ∧ (m.src = s.ring.addr) then (match s.ring.claim with | some (i, a, since) => decide ((a.port = fld (mgmtWord m 1) 0 9) ∧ ((setNow t s).now.real ≤ since + 1600000)) | _ => false) else false) : Bool) = true ∧
    (let t : Instant := t0; let pt : Port := .east; let m : MgmtSlot := ⟨6, 0, false, 3, [0, 0x21]⟩; let s : State := { (east { phase := .up }) with ring.addr := 5, ring.addrPhase := .confirmed, ring.ports := (List.replicate 9 none).set 8 (some { noAssign with port := 0x21 }) }; decide ((trunkLive s = true) ∧ ((getPort s pt).phase = .up) ∧ (s.ring.addrPhase = .confirmed) ∧ (m.src ≠ s.ring.addr) ∧ ((List.range 9).any (fun i => (assignOf s i).any fun x => x.port == fld (mgmtWord m 1) 0 9) = true)) : Bool) = true ∧
    (let t : Instant := ⟨0, 32000000000⟩; let pt : Port := .east; let m : MgmtSlot := ⟨5, 0, false, 3, [0, 0x21]⟩; let s : State := { (east { phase := .up }) with ring.addr := 5, ring.addrPhase := .confirmed, ring.claim := some (2, { noAssign with port := 0x21 }, 0) }; let i : ℕ := 2; let a : PortAssign := { noAssign with port := 0x21 }; let since : ℕ := 0; decide ((trunkLive s = true) ∧ ((getPort s pt).phase = .up) ∧ (s.ring.addrPhase = .confirmed) ∧ (m.src = s.ring.addr) ∧ (s.ring.claim = some (i, a, since)) ∧ (a.port = fld (mgmtWord m 1) 0 9) ∧ (since + 1600000 < (setNow t s).now.real)) : Bool) = true ∧
    (let t : Instant := t0; let pt : Port := .east; let m : MgmtSlot := ⟨6, 0, false, 3, [0, 0x21]⟩; let s : State := { (east { phase := .up }) with ring.addr := 5, ring.addrPhase := .confirmed, ring.claim := some (2, { noAssign with port := 0x21 }, 0) }; let i : ℕ := 2; let a : PortAssign := { noAssign with port := 0x21 }; let since : ℕ := 0; decide ((trunkLive s = true) ∧ ((getPort s pt).phase = .up) ∧ (s.ring.addrPhase = .confirmed) ∧ (m.src ≠ s.ring.addr) ∧ ((List.range 9).any (fun i => (assignOf s i).any fun x => x.port == fld (mgmtWord m 1) 0 9) = false) ∧ (s.ring.claim = some (i, a, since)) ∧ (a.port = fld (mgmtWord m 1) 0 9)) : Bool) = true ∧
    (let i : ℕ := 8; let a : PortAssign := { noAssign with port := 0x21 }; let s : State := up; decide ((heldCmd s 0x0504 = none)) : Bool) = true ∧
    (let t : Instant := t0; let pt : Port := .east; let m : MgmtSlot := ⟨6, 5, false, 3, [0, 0x21]⟩; let s : State := { (east { phase := .up }) with ring.addr := 5, ring.addrPhase := .confirmed, ring.claim := some (2, { noAssign with port := 0x21 }, 0) }; (if (trunkLive s = true) ∧ ((getPort s pt).phase = .up) then (match s.ring.claim with | some (i, a, since) => decide ((m.dest = s.ring.addr) ∧ (a.port = fld (mgmtWord m 1) 0 9)) | _ => false) else false) : Bool) = true ∧
    (let t : Instant := t0; let pt : Port := .east; let m : MgmtSlot := ⟨6, 5, false, 3, [0, 0x21]⟩; let s : State := (east { phase := .up }); decide ((s.ring.claim = none)) : Bool) = true ∧
    (let t : Instant := ⟨0, 32000000000⟩; let s : State := { (east { phase := .up }) with ring.claim := some (2, { noAssign with port := 0x21 }, 0) }; (if (trunkLive s = true) then (match s.ring.claim with | some (i, a, since) => decide ((passed (setNow t s) since 100000 = true)) | _ => false) else false) : Bool) = true ∧
    (let s : State := { up with bureau.executing := some (packetFor 0x0504 [0x21, 0, 0] 1 0) }; let p : Packet := packetFor 0x0504 [0x21, 0, 0] 1 0; let port : BitVec 9 := 0x21; decide ((s.bureau.executing = some p) ∧ (pktOp p = 0x0504)) : Bool) = true := by
  and_intros <;> decide +kernel

/-- What RingTimeFollowsTheOwner assumes is met, clause by clause. -/
theorem witness_RingTimeFollowsTheOwner :
    (let t : Instant := t0; let s : State := cmdIn 0x0505 [0] up; (match taken t 0x0505 s with | some (p, s1) => decide ((firstReserved (cmdOf p).words [0] = none)) | _ => false) : Bool) = true ∧
    (let t : Instant := t0; let pt : Port := .east; let m : MgmtSlot := ⟨0, 0, false, 3, [0, 7, 300, 9000]⟩; let s : State := (east { phase := .up }); decide ((trunkLive s = true) ∧ ((getPort s pt).phase = .up)) : Bool) = true ∧
    (let t : Instant := ⟨0, 300⟩; let m : MgmtSlot := ⟨0, 0, false, 3, [0, 0, 0, 100, 0, 200, 0]⟩; let s : State := (east { phase := .up }); let d : ℕ := 100; (if (trunkLive s = true) ∧ (s.east.phase = .up) then (let t1 : BitVec 64 := join64 (mgmtWord m 1) (mgmtWord m 2); (let t2 : BitVec 64 := join64 (mgmtWord m 3) (mgmtWord m 4); (let t3 : BitVec 64 := join64 (mgmtWord m 5) (mgmtWord m 6); decide ((((ringCount (setNow t s) : Int) - t1.toNat) - ((t3.toNat : Int) - t2.toNat) = 2 * d) ∧ (d < 2 ^ 32))))) else false) : Bool) = true ∧
    (let t : Instant := ⟨0, 32000000000⟩; let pt : Port := .east; let s : State := { (east { phase := .up }) with ring.features := 0xFF }; decide ((trunkLive s = true) ∧ ((getPort s pt).phase = .up) ∧ (hasFeature s 3 = true) ∧ (passed (setNow t s) (getPort s pt).delayAt 1000000000 = true)) : Bool) = true ∧
    (let t : Instant := ⟨0, 32000000000⟩; let pt : Port := .east; let s : State := (east { phase := .up }); decide ((hasFeature s 3 = false)) : Bool) = true ∧
    (let t : Instant := t0; let pt : Port := .east; let m : MgmtSlot := ⟨0, 0, true, 3, []⟩; let s : State := (east { phase := .up }); decide ((trunkLive s = true) ∧ ((getPort s pt).phase = .up) ∧ (m.ringB = true) ∧ (s.ring.time.useB = false)) : Bool) = true ∧
    (let t : Instant := t0; let pt : Port := .east; let m : MgmtSlot := ⟨0, 0, false, 3, [5, 0, 7, 0]⟩; let s : State := (east { phase := .up }); decide ((trunkLive s = true) ∧ ((getPort s pt).phase = .up) ∧ (m.ringB = false)) : Bool) = true ∧
    (let t : Instant := t0; let pt : Port := .east; let m : MgmtSlot := ⟨0, 0, true, 3, []⟩; let s : State := { (east { phase := .up }) with ring.time.useB := true }; decide ((trunkLive s = true) ∧ ((getPort s pt).phase = .up) ∧ (m.ringB = true) ∧ (s.ring.time.useB = true)) : Bool) = true ∧
    (let r : ℤ := 400; let s : State := { up with ring.time.good := 7 }; decide ((s.ring.time.lock = .unlocked) ∧ (0 ≤ r) ∧ (s.ring.time.good = 7) ∧ ((r - (ringCount s : Int)).natAbs ≤ 400)) : Bool) = true ∧
    (let r : ℤ := 401; let s : State := { up with ring.time.good := 7 }; decide ((s.ring.time.lock = .unlocked) ∧ (400 < (r - (ringCount s : Int)).natAbs)) : Bool) = true ∧
    (let r : ℤ := 16000; let s : State := { (east { phase := .up }) with ring.time.lock := .holdover }; decide ((s.ring.time.lock = .holdover)) : Bool) = true ∧
    (let r : ℤ := -16000; let s : State := { up with ring.time.lock := .locked }; decide ((s.ring.time.lock = .locked) ∧ ((r - (ringCount s : Int)).natAbs ≤ 16000)) : Bool) = true ∧
    (let r : ℤ := 16001; let s : State := { up with ring.time.lock := .locked }; decide ((s.ring.time.lock = .locked) ∧ (16000 < (r - (ringCount s : Int)).natAbs)) : Bool) = true ∧
    (let t : Instant := ⟨0, 32000000000⟩; let s : State := (east { phase := .up }); decide ((trunkLive s = true) ∧ (passed (setNow t s) (s.ring.time.lastRingA.getD 0) 1000000 = true)) : Bool) = true ∧
    (let t : Instant := ⟨0, 15999999⟩; let s : State := (east { phase := .up }); decide ((trunkLive s = true) ∧ (passed (setNow t s) (s.ring.time.lastRingA.getD 0) 1000000 = false)) : Bool) = true ∧
    (let t : Instant := ⟨0, 32000000000⟩; let s : State := { (east { phase := .up }) with ring.time.lock := .locked, ring.time.lastAny := some 0 }; let a : ℕ := 0; decide ((trunkLive s = true) ∧ (s.ring.time.lastAny = some a) ∧ (s.ring.time.lock ≠ .holdover)) : Bool) = true ∧
    (let t : Instant := ⟨0, 32000000000⟩; let s : State := { (east { phase := .up }) with ring.time.lock := .holdover }; decide ((s.ring.time.lastAny = none ∨ s.ring.time.lock = .holdover)) : Bool) = true ∧
    (let r : ℤ := 100; let s : State := { up with ring.time := { lock := .locked, asOf := 0 }, now := ⟨0, 50⟩ }; decide ((s.ring.time.lock = .locked) ∧ ((r - (ringCount s : Int)).natAbs ≤ 16000)) : Bool) = true ∧
    (let s : State := { up with ring.time := { lock := .holdover, gain := 2, span := 10, asOf := 5 }, now := ⟨0, 35⟩ }; let n : ℕ := 3; decide ((s.ring.time.lock = .holdover) ∧ (s.ring.time.slew = 0) ∧ (s.ring.time.drift = 0) ∧ (0 ≤ s.ring.time.gain) ∧ (s.now.real = s.ring.time.asOf + n * s.ring.time.span) ∧ (0 < s.ring.time.span)) : Bool) = true := by
  and_intros <;> decide +kernel

/-- What ClockCommandsAndPllEvents assumes is met, clause by clause. -/
theorem witness_ClockCommandsAndPllEvents :
    (let t : Instant := t0; let s : State := cmdIn 0x0801 (clockWords { ref0Khz := 5 }) up; (match taken t 0x0801 s with | some (p, s1) => (if (firstReserved (cmdOf p).words [0x1F01FFF, 0xFFFFFFFF, 0x7FFFFFFF, 0x7FFFFFFF, 3, 0xFFF0F301, 0xFFF0F301] = none) then (let sent : ClockCfg := clocksOf (overlay (cmdOf p).words (clockWords s1.clock.cfg)); (let new : ClockCfg := computedRoot sent; (match clocksBad s1 sent with | some i => true | _ => false))) else false) | _ => false) : Bool) = true ∧
    (let t : Instant := t0; let s : State := cmdIn 0x0801 (clockWords { ref0Khz := 24000 }) (capt (fr) 1); (match taken t 0x0801 s with | some (p, s1) => (if (firstReserved (cmdOf p).words [0x1F01FFF, 0xFFFFFFFF, 0x7FFFFFFF, 0x7FFFFFFF, 3, 0xFFF0F301, 0xFFF0F301] = none) then (let sent : ClockCfg := clocksOf (overlay (cmdOf p).words (clockWords s1.clock.cfg)); (let new : ClockCfg := computedRoot sent; decide ((clocksBad s1 sent = none) ∧ ((rootDiffers s1.clock.cfg sent = true ∧ (captureStopped s1 = false ∨ pipelineStopped s1 = false ∨ userRuns s1 = true)) ∨ (outDiffers s1.clock.cfg sent = true ∧ (s1.clock.cfg.clk0.oe = true ∨ s1.clock.cfg.clk1.oe = true)) ∨ clkClash s1.clock.cfg.clk0 sent.clk0 = true ∨ clkClash s1.clock.cfg.clk1 sent.clk1 = true)))) else false) | _ => false) : Bool) = true ∧
    (let t : Instant := t0; let s : State := cmdIn 0x0801 (clockWords { outEn := true }) ({ up with clock.cfg.outEn := true }); (match taken t 0x0801 s with | some (p, s1) => (if (firstReserved (cmdOf p).words [0x1F01FFF, 0xFFFFFFFF, 0x7FFFFFFF, 0x7FFFFFFF, 3, 0xFFF0F301, 0xFFF0F301] = none) then (let sent : ClockCfg := clocksOf (overlay (cmdOf p).words (clockWords s1.clock.cfg)); (let new : ClockCfg := computedRoot sent; decide ((clocksBad s1 sent = none) ∧ (rootDiffers s1.clock.cfg sent = true → captureStopped s1 = true ∧ pipelineStopped s1 = true ∧ userRuns s1 = false) ∧ (outDiffers s1.clock.cfg sent = true → s1.clock.cfg.clk0.oe = false ∧ s1.clock.cfg.clk1.oe = false) ∧ (clkClash s1.clock.cfg.clk0 sent.clk0 = false) ∧ (clkClash s1.clock.cfg.clk1 sent.clk1 = false) ∧ (rootDiffers s1.clock.cfg new = false ∨ s1.clock.root.phase = .off)))) else false) | _ => false) : Bool) = true ∧
    (let t : Instant := t0; let s : State := cmdIn 0x0801 (clockWords { ref0Khz := 24000 }) ({ up with clock.root.phase := .locked, front.ctx0.enable := false }); (match taken t 0x0801 s with | some (p, s1) => (if (firstReserved (cmdOf p).words [0x1F01FFF, 0xFFFFFFFF, 0x7FFFFFFF, 0x7FFFFFFF, 3, 0xFFF0F301, 0xFFF0F301] = none) then (let sent : ClockCfg := clocksOf (overlay (cmdOf p).words (clockWords s1.clock.cfg)); (let new : ClockCfg := computedRoot sent; decide ((clocksBad s1 sent = none) ∧ (rootDiffers s1.clock.cfg sent = true → captureStopped s1 = true ∧ pipelineStopped s1 = true ∧ userRuns s1 = false) ∧ (outDiffers s1.clock.cfg sent = true → s1.clock.cfg.clk0.oe = false ∧ s1.clock.cfg.clk1.oe = false) ∧ (clkClash s1.clock.cfg.clk0 sent.clk0 = false) ∧ (clkClash s1.clock.cfg.clk1 sent.clk1 = false) ∧ (rootDiffers s1.clock.cfg new = true) ∧ (s1.clock.root.phase ≠ .off)))) else false) | _ => false) : Bool) = true ∧
    (let old : ClockCfg := {}; let new : ClockCfg := {}; let s : State := up; decide ((new.outEn = false)) : Bool) = true ∧
    (let old : ClockCfg := { outEn := true }; let new : ClockCfg := { outEn := true }; let s : State := up; decide ((new.outEn = true) ∧ (outDiffers old new = false)) : Bool) = true ∧
    (let old : ClockCfg := {}; let new : ClockCfg := { outEn := true }; let s : State := { up with clock.ref0Ok := true, clock.ref1Ok := true, clock.ref0Since := some 0, clock.ref1Since := some 0, now := ⟨0, 320000⟩ }; decide ((new.outEn = true) ∧ (outDiffers old new = true) ∧ (refQualified s .out = true)) : Bool) = true ∧
    (let s : State := { up with bureau.executing := some (packetFor 0x0801 [] 1 0), clock.relockAt := some 0 }; let c : Cmd := cmdOf (packetFor 0x0801 [] 1 0); let a : ℕ := 0; decide ((heldCmd s 0x0801 = some c) ∧ (s.clock.relockAt = some a) ∧ (passed s a 1000000 = false)) : Bool) = true ∧
    (let s : State := { up with bureau.executing := some (packetFor 0x0801 [] 1 0), clock.relockAt := some 0, now := ⟨0, 16000000⟩ }; let c : Cmd := cmdOf (packetFor 0x0801 [] 1 0); let a : ℕ := 0; decide ((heldCmd s 0x0801 = some c) ∧ (s.clock.relockAt = some a) ∧ (passed s a 1000000 = true)) : Bool) = true ∧
    (let t : Instant := t0; let s : State := cmdIn 0x0802 [20000001, 5] up 2; (match taken t 0x0802 s with | some (p, s1) => (if (firstReserved (cmdOf p).words [0xFFFFFFFF, 0x3FF] = none) then (let ws : List Word := overlay (cmdOf p).words [s1.clock.trimTarget, wordOf s1.clock.trimStepPpm.toNat]; decide ((20000000 < (paramAt ws 0).toInt.natAbs))) else false) | _ => false) : Bool) = true ∧
    (let t : Instant := t0; let s : State := cmdIn 0x0802 [20000000, 0] up 2; (match taken t 0x0802 s with | some (p, s1) => (if (firstReserved (cmdOf p).words [0xFFFFFFFF, 0x3FF] = none) then (let ws : List Word := overlay (cmdOf p).words [s1.clock.trimTarget, wordOf s1.clock.trimStepPpm.toNat]; decide (((paramAt ws 0).toInt.natAbs ≤ 20000000) ∧ (fldN (paramAt ws 1) 0 10 = 0 ∨ 1000 < fldN (paramAt ws 1) 0 10))) else false) | _ => false) : Bool) = true ∧
    (let t : Instant := t0; let s : State := cmdIn 0x0802 [20000000, 5] ({ up with clock.root.phase := .coast }) 2; (match taken t 0x0802 s with | some (p, s1) => (if (firstReserved (cmdOf p).words [0xFFFFFFFF, 0x3FF] = none) then (let ws : List Word := overlay (cmdOf p).words [s1.clock.trimTarget, wordOf s1.clock.trimStepPpm.toNat]; decide (((paramAt ws 0).toInt.natAbs ≤ 20000000) ∧ (1 ≤ fldN (paramAt ws 1) 0 10) ∧ (fldN (paramAt ws 1) 0 10 ≤ 1000) ∧ (s1.clock.root.phase ≠ .locked))) else false) | _ => false) : Bool) = true ∧
    (let t : Instant := t0; let s : State := cmdIn 0x0802 [20000000, 1000] ({ up with clock.root.phase := .locked }) 2; (match taken t 0x0802 s with | some (p, s1) => (if (firstReserved (cmdOf p).words [0xFFFFFFFF, 0x3FF] = none) then (let ws : List Word := overlay (cmdOf p).words [s1.clock.trimTarget, wordOf s1.clock.trimStepPpm.toNat]; decide (((paramAt ws 0).toInt.natAbs ≤ 20000000) ∧ (1 ≤ fldN (paramAt ws 1) 0 10) ∧ (fldN (paramAt ws 1) 0 10 ≤ 1000) ∧ (s1.clock.root.phase = .locked))) else false) | _ => false) : Bool) = true ∧
    (let t : Instant := t0; let s : State := cmdIn 0x0803 [0] up; (match taken t 0x0803 s with | some (p, s1) => decide ((firstReserved (cmdOf p).words [0] = none)) | _ => false) : Bool) = true ∧
    (let t : Instant := t0; let r : RefClk := .ref1; let s : State := up; decide ((refOk s r = false)) : Bool) = true ∧
    (let t : Instant := t0; let s : State := { up with clock.out.phase := .locked }; let ps : ℕ := 100000; decide ((s.clock.out.phase = .locked) ∧ (lockWindow s.clock.out < ps)) : Bool) = true ∧
    (let t : Instant := t0; let s : State := { up with clock.root.phase := .locked }; let ps : ℕ := 100000; decide ((s.clock.root.phase = .locked) ∧ (lockWindow s.clock.root < ps)) : Bool) = true ∧
    (let t : Instant := t0; let pt : Port := .east; let s : State := { east { phase := .up } with clock.east.phase := .locked }; let ps : ℕ := 100000; decide (((pllOf s (portPll pt)).phase = .locked) ∧ (lockWindow (pllOf s (portPll pt)) < ps) ∧ ((getPort s pt).phase = .up)) : Bool) = true ∧
    (let t : Instant := t0; let p : Pll := .out; let s : State := up; let ps : ℕ := 0; decide ((ps ≤ lockWindow (pllOf s p))) : Bool) = true ∧
    (let t : Instant := t0; let p : Pll := .out; let s : State := up; let ps : ℕ := 100000; decide (((pllOf s p).phase ≠ .locked)) : Bool) = true ∧
    (let s : State := { up with clock.out.phase := .acquire }; decide (((pllOf s .out).phase = .acquire)) : Bool) = true ∧
    (let s : State := up; decide ((s.clock.limp = false)) : Bool) = true ∧
    (let s : State := str { entries := [{ kind := .retract, id := 1, basted := false, reserved := 8, begun := true }] } { up with ring.txRest := [(0, [emptySlot 0 false])] }; let x : ℕ × List RawSlot := (0, [emptySlot 0 false]); decide ((s.clock.limp = false) ∧ (x ∈ (gateRoot s).ring.txRest)) : Bool) = true ∧
    (let s : State := { up with clock.limp := true }; decide ((s.clock.limp = true)) : Bool) = true ∧
    (let arg : ℕ := 1; let s : State := { up with clock.limp := true }; decide ((s.clock.limp = true) ∧ (s.clock.rootLostPending = false)) : Bool) = true ∧
    (let t : Instant := t0; let r0 : ℕ := 251; let r1 : ℕ := 250; let outs : List ℕ := []; let s : State := { up with clock.measured := true, clock.ref0Ok := true, clock.ref1Ok := true, clock.root.phase := .off }; decide ((s.clock.measured = true) ∧ (s.clock.ref0Ok = true) ∧ (s.clock.ref1Ok = true) ∧ (within1 (100 * r0) s.clock.cfg.ref0Khz.toNat = true) ∧ (within1 (100 * r1) s.clock.cfg.ref1Khz.toNat = true) ∧ ((plls.zipIdx.all fun p => (pllOf s p.1).phase != .locked || within1 (outs.getD p.2 0) (pllKhz s p.1)) = true)) : Bool) = true ∧
    (let count : ℕ := 5; let khz : ℕ := 25000; let s : State := { up with clock.ref0Ok := true }; decide ((s.clock.measured = false) ∧ (count ≠ 0) ∧ (s.clock.ref0Ok = true)) : Bool) = true ∧
    (let r : RefClk := .ref1; let count : ℕ := 5; let khz : ℕ := 25000; let s : State := { up with clock.ref1Ok := true }; decide ((s.clock.measured = true ∨ r = .ref1) ∧ (within1 (100 * count) khz = false)) : Bool) = true ∧
    (let s : State := { base with clock.ref0Ok := true, clock.ref0Since := some 0 }; let f : ℕ := 320000; decide ((ref0From s = some f)) : Bool) = true ∧
    (let s : State := { base with clock.ref0Ok := true, clock.ref0Since := some 0 }; let a : ℕ := 0; decide ((s.clock.limp = true) ∧ (s.clock.everLocked = false) ∧ (s.clock.ref0Ok = true) ∧ (0 < ref0Rate s) ∧ (s.clock.ref0Since = some a)) : Bool) = true ∧
    (let s : State := up; decide ((s.clock.limp = false ∨ s.clock.everLocked = true ∨ s.clock.ref0Ok = false)) : Bool) = true ∧
    (let p : Pll := .root; let s : State := { up with clock.ref0Ok := true, clock.ref0Since := some 0, now := ⟨0, 320000⟩ }; decide ((refQualified s p = true)) : Bool) = true ∧
    (let p : Pll := .root; let s : State := { up with clock.ref0Ok := true, clock.root.phase := .locked }; decide (((pllOf s p).phase = .locked) ∧ (refOk s (pllRef s p) = true)) : Bool) = true ∧
    (let p : Pll := .root; let s : State := { up with clock.ref0Ok := true, clock.ref0Since := some 0, clock.root.phase := .coast, now := ⟨0, 319999⟩ }; decide (((pllOf s p).phase = .coast) ∧ (refQualified s p = false)) : Bool) = true ∧
    (let p : Pll := .root; let s : State := { up with clock.ref0Ok := true, clock.ref0Since := some 0, now := ⟨0, 319999⟩ }; let a : ℕ := 0; decide ((refOk s (pllRef s p) = true) ∧ (refSince s (pllRef s p) = some a)) : Bool) = true ∧
    (let t : Instant := ⟨0, 32000000000⟩; let p : Pll := .root; let s : State := { up with clock.root := { phase := .coast }, clock.ref0Ok := true, clock.ref0Since := some 0 }; let a : ℕ := 0; decide (((pllOf s p).phase = .coast) ∧ (refOk s (pllRef s p) = true) ∧ (refSince s (pllRef s p) = some a)) : Bool) = true ∧
    (let t : Instant := t0; let p : Pll := .root; let s : State := up; decide (((pllOf s p).phase ≠ .coast ∨ refOk s (pllRef s p) = false ∨ refSince s (pllRef s p) = none)) : Bool) = true ∧
    (let t : Instant := ⟨0, 32000000000⟩; let p : Pll := .root; let s : State := { up with clock.root := { phase := .acquire, attemptStart := some 0, held := true } }; let a : ℕ := 0; decide (((pllOf s p).phase = .acquire) ∧ ((pllOf s p).attemptStart = some a) ∧ (passed (setNow t s) a 2000000 = true)) : Bool) = true ∧
    (let t : Instant := ⟨0, 160000000000⟩; let p : Pll := .root; let b : BitVec 3 := 3; let ps : ℕ := 0; let s : State := { up with clock.root := { phase := .acquire, attemptStart := some 0, held := true }, clock.ref0Ok := true }; decide (((pllOf s p).phase = .acquire) ∧ (refOk s (pllRef s p) = true) ∧ (lockCycles (setNow t s) p = true) ∧ (ps ≤ lockWindow (pllOf s p))) : Bool) = true ∧
    (let t : Instant := t0; let p : Pll := .out; let b : BitVec 3 := 3; let ps : ℕ := 0; let s : State := up; decide (((pllOf s p).phase ≠ .acquire ∨ lockCycles (setNow t s) p = false ∨ lockWindow (pllOf s p) < ps)) : Bool) = true ∧
    (let s : State := { up with clock.root.attemptStart := some 0 }; let p : Pll := .root; let a : ℕ := 0; decide (((pllOf s p).attemptStart = some a)) : Bool) = true ∧
    (let s : State := base; decide ((heldCmd s 0x0801 = none)) : Bool) = true ∧
    (let khz : ℕ := 30000; let rate : BitVec 2 := 2; decide ((0 < khz)) : Bool) = true ∧
    (let frac : BitVec 24 := 0xFFFFFF; let m : Mash := { a1 := 5, a2 := 6, a3 := 7, c2 := 1, c3 := 1, d3 := 0 }; decide ((m.a1 < 2 ^ 24) ∧ (m.a2 < 2 ^ 24) ∧ (m.a3 < 2 ^ 24) ∧ (m.c2 = 0 ∨ m.c2 = 1) ∧ (m.c3 = 0 ∨ m.c3 = 1) ∧ (m.d3 = 0 ∨ m.d3 = 1)) : Bool) = true ∧
    (let s : State := base; let one : Bool := true; decide ((pinsChained s = false) ∧ (clkRuns s one = false)) : Bool) = true ∧
    (let s : State := { up with clock.out.phase := .locked, clock.cfg.outEn := true, clock.cfg.clk1.oe := true }; let one : Bool := true; decide ((pinsChained s = false) ∧ (clkRuns s one = true)) : Bool) = true ∧
    (let s : State := { up with clock.cfg.clk1.format := 3 }; let one : Bool := true; decide ((pinsChained s = false) ∧ (2 ≤ (if one then s.clock.cfg.clk1 else s.clock.cfg.clk0).format.toNat)) : Bool) = true ∧
    (let t : Instant := t0; let s : State := { up with clock.root.phase := .locked, clock.trimTarget := 5000000 }; decide ((s.clock.root.phase = .locked) ∧ (s.rst.asserted.contains .clock = false) ∧ (1000 * min s.clock.trimStepPpm.toNat 1000 < (s.clock.trimTarget.toInt - s.clock.delta).natAbs)) : Bool) = true ∧
    (let t : Instant := t0; let s : State := { up with clock.root.phase := .locked, clock.trimTarget := 500 }; decide ((s.clock.root.phase = .locked) ∧ (s.rst.asserted.contains .clock = false) ∧ ((s.clock.trimTarget.toInt - s.clock.delta).natAbs ≤ 1000 * min s.clock.trimStepPpm.toNat 1000)) : Bool) = true ∧
    (let t : Instant := t0; let s : State := up; decide ((s.clock.root.phase ≠ .locked)) : Bool) = true ∧
    (let t : Instant := t0; let khz : BitVec 16 := 24100; let s : State := { up with clock.measured := true }; decide ((s.clock.measured = true)) : Bool) = true ∧
    (let t : Instant := t0; let s : State := up; decide ((s.clock.measured = false) ∧ (s.rst.asserted.contains .clock = false)) : Bool) = true ∧
    (let t : Instant := t0; let s : State := up; decide ((s.clock.measured = false) ∧ (s.rst.asserted.contains .clock = false)) : Bool) = true ∧
    (let t : Instant := t0; let s : State := up; decide ((s.clock.measured = false) ∧ (s.rst.asserted.contains .clock = false)) : Bool) = true := by
  and_intros <;> decide +kernel

/-- What PowerCommandsAndThermalControl assumes is met, clause by clause. -/
theorem witness_PowerCommandsAndThermalControl :
    (let t : Instant := t0; let s : State := cmdIn 0x0804 [1] up; (match taken t 0x0804 s with | some (p, s1) => decide ((firstReserved (cmdOf p).words [0xF03] = none) ∧ (fldN (par p 0) 0 2 = 1) ∧ (captureStopped s1 = true)) | _ => false) : Bool) = true ∧
    (let t : Instant := t0; let s : State := cmdIn 0x0804 [2] ({ up with front.ctx0.enable := false }) 2; (match taken t 0x0804 s with | some (p, s1) => decide ((firstReserved (cmdOf p).words [0xF03] = none) ∧ (fldN (par p 0) 0 2 = 2) ∧ (cannotRest s1 = false)) | _ => false) : Bool) = true ∧
    (let t : Instant := t0; let s : State := cmdIn 0x0804 [0x103] ({ up with front.ctx0.enable := false }) 2; (match taken t 0x0804 s with | some (p, s1) => decide ((firstReserved (cmdOf p).words [0xF03] = none) ∧ (fldN (par p 0) 0 2 = 3) ∧ (fldN (par p 0) 8 4 ≠ 0) ∧ (bitAt (par p 0) 10 = true → s1.twa.cfg.role = false) ∧ (bitAt (par p 0) 11 = true → s1.twb.cfg.role = false) ∧ (s1.rst.fuses.wdtStart = false) ∧ (s1.rst.wdArm = false) ∧ (cannotRest s1 = false)) | _ => false) : Bool) = true ∧
    (let t : Instant := t0; let s : State := cmdIn 0x0804 [3] up; (match taken t 0x0804 s with | some (p, s1) => decide ((firstReserved (cmdOf p).words [0xF03] = none) ∧ (fldN (par p 0) 0 2 = 3) ∧ (fldN (par p 0) 8 4 = 0 ∨ (bitAt (par p 0) 10 = true ∧ s1.twa.cfg.role = true) ∨ (bitAt (par p 0) 11 = true ∧ s1.twb.cfg.role = true))) | _ => false) : Bool) = true ∧
    (let t : Instant := t0; let s : State := cmdIn 0x0804 [0x103] ({ up with rst.fuses.wdtStart := true }) 2; (match taken t 0x0804 s with | some (p, s1) => decide ((firstReserved (cmdOf p).words [0xF03] = none) ∧ (fldN (par p 0) 0 2 = 3) ∧ (fldN (par p 0) 8 2 ≠ 0) ∧ (fldN (par p 0) 10 2 = 0) ∧ (s1.rst.fuses.wdtStart = true)) | _ => false) : Bool) = true ∧
    (let t : Instant := t0; let s : State := cmdIn 0x0804 [0x103] ({ up with rst.wdArm := true }) 2; (match taken t 0x0804 s with | some (p, s1) => decide ((firstReserved (cmdOf p).words [0xF03] = none) ∧ (fldN (par p 0) 0 2 = 3) ∧ (fldN (par p 0) 8 2 ≠ 0) ∧ (fldN (par p 0) 10 2 = 0) ∧ (s1.rst.fuses.wdtStart = false) ∧ (cannotRest s1 = true ∨ s1.rst.wdArm = true)) | _ => false) : Bool) = true ∧
    (let t : Instant := t0; let s : State := cmdIn 0x0804 [1] (capt (fr) 0); (match taken t 0x0804 s with | some (p, s1) => decide ((firstReserved (cmdOf p).words [0xF03] = none) ∧ ((fldN (par p 0) 0 2 = 1 ∧ captureStopped s1 = false) ∨ (fldN (par p 0) 0 2 = 2 ∧ cannotRest s1 = true))) | _ => false) : Bool) = true ∧
    (let s : State := { up with power.stowPending := true }; decide ((s.power.stowPending = true) ∧ (s.ring.ownQueue.any (fun w => slotType w.slot == 3) = false) ∧ (s.twa.transfer = none) ∧ (s.twb.transfer = none)) : Bool) = true ∧
    (let s : State := up; decide ((s.power.stowPending = false ∨ s.ring.ownQueue.any (fun w => slotType w.slot == 3) = true ∨ s.twa.transfer ≠ none ∨ s.twb.transfer ≠ none)) : Bool) = true ∧
    (let t : Instant := t0; let s : State := cmdIn 0x0804 [0] up; (match taken t 0x0804 s with | some (p, s1) => decide ((firstReserved (cmdOf p).words [0xF03] = none) ∧ (fldN (par p 0) 0 2 = 0)) | _ => false) : Bool) = true ∧
    (let t : Instant := t0; let s : State := cmdIn 0x0805 (budgetWords { ceiling := 15000 }) up 2; (match taken t 0x0805 s with | some (p, s1) => (if (firstReserved (cmdOf p).words [0xFFFF, 0xFFFFFFFF, 0xFFFFFFFF, 0xFFFFFFFF] = none) then (let b : BudgetCfg := budgetOf (overlay (cmdOf p).words (budgetWords s1.power.budget)); decide ((budgetBad b = none))) else false) | _ => false) : Bool) = true ∧
    (let t : Instant := t0; let s : State := cmdIn 0x0805 (budgetWords { ceiling := 65535 }) up 2; let b : BudgetCfg := { ceiling := 65535 }; let i : ℕ := 0; (match taken t 0x0805 s with | some (p, s1) => decide ((firstReserved (cmdOf p).words [0xFFFF, 0xFFFFFFFF, 0xFFFFFFFF, 0xFFFFFFFF] = none) ∧ (b = budgetOf (overlay (cmdOf p).words (budgetWords s1.power.budget))) ∧ (budgetBad b = some i)) | _ => false) : Bool) = true ∧
    (let t : Instant := t0; let s : State := cmdIn 0x0806 [0x05775A50, 0xFFFE] up; (match taken t 0x0806 s with | some (p, s1) => (if (firstReserved (cmdOf p).words [0x0FFFFFFF, 0xFFFF] = none) then (let ws : List Word := overlay (cmdOf p).words [mkWord [(s1.power.thermal.hyst.toNat, 24), (s1.power.thermal.shutdown.toNat, 16), (s1.power.thermal.throttle.toNat, 8), (s1.power.thermal.warn.toNat, 0)], wordOf s1.power.thermal.mask.toNat]; (let w : Word := paramAt ws 0; decide ((fld (paramAt ws 1) 0 16 ≠ 0xFFFF) ∧ (2 ≤ fldN w 24 4) ∧ (fldN w 24 4 ≤ 10) ∧ (80 ≤ fldN w 16 8) ∧ (fldN w 16 8 ≤ 120) ∧ (70 ≤ fldN w 8 8) ∧ (fldN w 8 8 ≤ 115) ∧ (60 ≤ fldN w 0 8) ∧ (fldN w 0 8 ≤ 110) ∧ (fldN w 0 8 ≤ fldN w 8 8) ∧ (fldN w 8 8 < fldN w 16 8)))) else false) | _ => false) : Bool) = true ∧
    (let t : Instant := t0; let s : State := cmdIn 0x0806 [0x055A5A50, 0xFFFE] up; (match taken t 0x0806 s with | some (p, s1) => (if (firstReserved (cmdOf p).words [0x0FFFFFFF, 0xFFFF] = none) then (let ws : List Word := overlay (cmdOf p).words [mkWord [(s1.power.thermal.hyst.toNat, 24), (s1.power.thermal.shutdown.toNat, 16), (s1.power.thermal.throttle.toNat, 8), (s1.power.thermal.warn.toNat, 0)], wordOf s1.power.thermal.mask.toNat]; (let w : Word := paramAt ws 0; decide ((fld (paramAt ws 1) 0 16 ≠ 0xFFFF) ∧ (fldN w 24 4 < 2 ∨ 10 < fldN w 24 4 ∨ fldN w 16 8 < 80 ∨ 120 < fldN w 16 8 ∨ fldN w 8 8 < 70 ∨ 115 < fldN w 8 8 ∨ fldN w 0 8 < 60 ∨ 110 < fldN w 0 8 ∨ fldN w 8 8 < fldN w 0 8 ∨ fldN w 16 8 ≤ fldN w 8 8)))) else false) | _ => false) : Bool) = true ∧
    (let t : Instant := t0; let s : State := cmdIn 0x0807 [0] up; (match taken t 0x0807 s with | some (p, s1) => decide ((firstReserved (cmdOf p).words [0] = none)) | _ => false) : Bool) = true ∧
    (let t : Instant := t0; let rs : List (BitVec 16) := []; let s : State := up; decide ((s.rst.asserted.contains .alwaysOn = false) ∧ (s.rst.asserted.contains .bureau = false) ∧ (s.rst.phase ≠ .tripped)) : Bool) = true ∧
    (let t : Instant := t0; let rs : List (BitVec 16) := []; let s : State := { up with rst.phase := .tripped }; (if (s.rst.asserted.contains .alwaysOn = false) ∧ (s.rst.phase = .tripped) then (let u : State := takeTj { setNow t s with power := { s.power with sensors := s.power.sensors.zipIdx.map fun x => sampleSensor x.1 (rs.getD x.2 0x8000) } }; true) else false) : Bool) = true ∧
    (let t : Instant := t0; let rs : List (BitVec 16) := []; let s : State := { up with rst.asserted := [.alwaysOn] }; decide ((s.rst.asserted.contains .alwaysOn = true)) : Bool) = true ∧
    (let x : Sensor := {}; let r : BitVec 16 := 0x7FFF; decide ((r.toInt < -880 ∨ 2400 < r.toInt)) : Bool) = true ∧
    (let x : Sensor := { valid := true, reading := 800, prev := 800 }; let r : BitVec 16 := 810; decide ((badReading x r = false) ∧ (x.valid = true)) : Bool) = true ∧
    (let s : State := { up with power.tJ := 1600 }; decide ((s.power.hold = false) ∧ (s.power.step = 0) ∧ (16 * (s.power.thermal.throttle.toNat : Int) ≤ s.power.tJ.toInt)) : Bool) = true ∧
    (let s : State := { up with power.step := 3, power.tJ := 800 }; let n : ℕ := 2; decide ((s.power.hold = false) ∧ (s.power.step = n + 1) ∧ (n + 1 ≤ 3) ∧ (s.power.tJ.toInt ≤ 16 * (s.power.thermal.throttle.toNat : Int) - 16 * s.power.thermal.hyst.toNat) ∧ (s.power.tJ.toInt < 16 * (s.power.thermal.throttle.toNat : Int)) ∧ (passed s s.power.stepAt 1000000000 = false)) : Bool) = true ∧
    (let s : State := { up with power.step := 3, power.tJ := 800, now := ⟨0, 32000000000⟩ }; let n : ℕ := 2; decide ((s.power.hold = false) ∧ (s.power.step = n + 1) ∧ (n + 1 ≤ 3) ∧ (s.power.tJ.toInt ≤ 16 * (s.power.thermal.throttle.toNat : Int) - 16 * s.power.thermal.hyst.toNat) ∧ (s.power.tJ.toInt < 16 * (s.power.thermal.throttle.toNat : Int)) ∧ (passed s s.power.stepAt 1000000000 = true)) : Bool) = true ∧
    (let s : State := { up with power.step := 2, power.tJ := 1900, now := ⟨0, 32000000000⟩ }; let n : ℕ := 1; decide ((s.power.hold = false) ∧ (s.power.step = n + 1) ∧ (n + 1 < 3) ∧ (16 * (s.power.thermal.throttle.toNat : Int) ≤ s.power.tJ.toInt) ∧ (passed s s.power.stepAt 100000000 = true)) : Bool) = true ∧
    (let s : State := { up with power.tJ := 1900 }; let i : ℕ := 5; decide ((s.power.warned = false) ∧ (16 * (s.power.thermal.warn.toNat : Int) ≤ s.power.tJ.toInt)) : Bool) = true ∧
    (let s : State := { up with power.tJ := 1600, power.hold := true }; decide ((s.power.hold = true)) : Bool) = true ∧
    (let s : State := { up with power.tJ := 1840, power.sensors := List.replicate 16 { valid := true, reading := 1840 } }; let i : ℕ := 0; decide ((hottest s = some i) ∧ (s.power.hold = false) ∧ (16 * (s.power.thermal.shutdown.toNat : Int) ≤ s.power.tJ.toInt)) : Bool) = true ∧
    (let s : State := up; decide ((hottest s = none) ∧ (s.power.hold = false)) : Bool) = true ∧
    (let s : State := { up with power.tJ := 1760, power.hold := true, power.sensors := List.replicate 16 { valid := true, reading := 1760 } }; let i : ℕ := 0; decide ((hottest s = some i) ∧ (s.power.hold = true) ∧ (s.power.tJ.toInt ≤ 16 * (s.power.thermal.shutdown.toNat : Int) - 16 * s.power.thermal.hyst.toNat)) : Bool) = true ∧
    (let t : Instant := t0; let s : State := { up with rst.phase := .dead }; decide ((s.rst.phase = .dead)) : Bool) = true ∧
    (let t : Instant := t0; let s : State := up; decide ((s.rst.phase ≠ .dead)) : Bool) = true ∧
    (let t : Instant := t0; let pt : Port := .west; let s : State := up; decide ((bitAt s.power.wakePorts (portNo pt) = false)) : Bool) = true ∧
    (let t : Instant := t0; let pt : Port := .west; let s : State := { up with power.wakePorts := 3 }; decide ((bitAt s.power.wakePorts (portNo pt) = true) ∧ (s.rst.asserted.contains .bureau = false) ∧ (s.power.stowPending = false)) : Bool) = true ∧
    (let s : State := { up with power.stowPending := true }; decide ((s.rst.asserted.contains .bureau = false) ∧ (s.power.stowPending = true)) : Bool) = true ∧
    (let s : State := { up with power.phase := .stow }; decide ((s.power.phase = .stow)) : Bool) = true ∧
    (let s : State := up; decide ((s.power.phase ≠ .stow)) : Bool) = true := by
  and_intros <;> decide +kernel

/-- What ResetsAndTheWatchdog assumes is met, clause by clause. -/
theorem witness_ResetsAndTheWatchdog :
    (let t : Instant := t0; let s : State := cmdIn 0x0005 [0x100] up; (match taken t 0x0005 s with | some (p, s1) => decide ((firstReserved (cmdOf p).words [0x103] = none) ∧ (fldN (par p 0) 0 2 = 0)) | _ => false) : Bool) = true ∧
    (let t : Instant := t0; let s : State := cmdIn 0x0005 [1] up; (match taken t 0x0005 s with | some (p, s1) => decide ((firstReserved (cmdOf p).words [0x103] = none) ∧ (fldN (par p 0) 0 2 = 1)) | _ => false) : Bool) = true ∧
    (let t : Instant := t0; let s : State := up; decide ((s.rst.softPending = none)) : Bool) = true ∧
    (let t : Instant := t0; let s : State := { up with rst.softPending := some (true, ⟨0, 0⟩) }; let keep : Bool := true; let since : Instant := ⟨0, 0⟩; decide ((s.rst.softPending = some (keep, since)) ∧ (asserting s = false) ∧ (s.ring.ownQueue.any (fun w => slotType w.slot == 3) = false)) : Bool) = true ∧
    (let t : Instant := t0; let src : BitVec 7 := 0; let dest : BitVec 7 := 9; let bs : List Byte := wordsBytes (withCrc [mkWord [(1, 24), (5, 0)], mkWord [(1, 16), (7, 0)], 9, 0x101]); let s : State := { up with ring.addr := 9, ring.addrPhase := .confirmed }; decide ((trunkLive s = true) ∧ (trunkResetOk (setNow t s) src dest bs = true) ∧ (inReset s = false)) : Bool) = true ∧
    (let s : State := { up with ring.addr := 9, ring.addrPhase := .confirmed }; let src : BitVec 7 := 0; let dest : BitVec 7 := 9; let bs : List Byte := wordsBytes (withCrc [mkWord [(1, 24), (5, 0)], mkWord [(1, 16), (7, 0)], 9, 0x101]); decide ((trunkResetOk s src dest bs = true)) : Bool) = true ∧
    (let t : Instant := t0; let src : BitVec 7 := 1; let dest : BitVec 7 := 5; let bs : List Byte := []; let s : State := up; decide ((src ≠ 0)) : Bool) = true ∧
    (let k : ResetCause := .soft; let keep : Bool := true; let s : State := { up with nvm.inFlight := some .txn }; decide ((k ≠ .powerOn) ∧ (k ≠ .brownOut) ∧ (k ≠ .thermal) ∧ (s.nvm.inFlight.isSome = true) ∧ (s.rst.phase ≠ .dead) ∧ (s.rst.waiting = none)) : Bool) = true ∧
    (let k : ResetCause := .soft; let keep : Bool := true; let s : State := up; decide ((s.nvm.inFlight = none) ∧ (s.rst.phase = .done) ∧ (s.rst.waiting = none)) : Bool) = true ∧
    (let s : State := { up with rst.lastFatal := some 5 }; decide ((s.rst.phase = .done)) : Bool) = true ∧
    (let s : State := { up with rst.phase := .releasing, rst.cause := .watchdog, rst.quickFatal := true }; decide ((s.rst.phase ≠ .done) ∧ (s.rst.cause = .watchdog)) : Bool) = true ∧
    (let k : ResetCause := .brownOut; let s : State := { up with rst.phase := .tripped, power.faultN := true }; decide ((s.rst.phase = .tripped) ∧ (k ≠ .thermal)) : Bool) = true ∧
    (let p : Packet := packetFor 0x0005 [0x100] 1 0; let s : State := { up with nvm.dumping := some { reset := .fatal, cause := 2, detail := 0, pc := 4, stamp := 0 }, bureau.queue := List.replicate 16 (packetFor 0x0005 [0x100] 1 0) }; decide ((s.nvm.dumping ≠ none) ∧ (s.rst.asserted.contains .bureau = false) ∧ (s.power.phase = .idle) ∧ ((crcOk p && stillOpen s p) = false) ∧ (queueSize p.req ≤ queued s p.req)) : Bool) = true ∧
    (let k : ResetCause := .resetN; let keep : Bool := false; let s : State := { up with rst.phase := .done }; decide ((s.rst.phase = .done)) : Bool) = true ∧
    (let k : ResetCause := .resetN; let keep : Bool := false; let s : State := { up with rst.phase := .done }; decide ((s.rst.phase = .done) ∧ (k ≠ .powerOn)) : Bool) = true ∧
    (let k : ResetCause := .powerOn; let keep : Bool := false; let s : State := { up with rst.phase := .done }; decide ((s.rst.phase = .done) ∧ (k = .powerOn)) : Bool) = true ∧
    (let k : ResetCause := .brownOut; let keep : Bool := false; let s : State := { up with rst.phase := .done }; decide ((s.rst.phase = .done) ∧ (k = .powerOn ∨ k = .brownOut)) : Bool) = true ∧
    (let t : Instant := t0; let s : State := cmdIn 0x0808 [31] up; (match taken t 0x0808 s with | some (p, s1) => (if (firstReserved (cmdOf p).words [0x1F1F] = none) then (let w : Word := paramAt (overlay (cmdOf p).words [wdWord s1.rst.wdArm s1.rst.wdCfg]) 0; (let v : WatchdogCfg := { hardMs := fld w 10 2, window := fld w 8 2, period := fld w 0 5 }; decide ((fldN w 0 5 < 14 ∨ 30 < fldN w 0 5)))) else false) | _ => false) : Bool) = true ∧
    (let t : Instant := t0; let s : State := cmdIn 0x0808 [0x101E] up; (match taken t 0x0808 s with | some (p, s1) => (if (firstReserved (cmdOf p).words [0x1F1F] = none) then (let w : Word := paramAt (overlay (cmdOf p).words [wdWord s1.rst.wdArm s1.rst.wdCfg]) 0; (let v : WatchdogCfg := { hardMs := fld w 10 2, window := fld w 8 2, period := fld w 0 5 }; decide ((14 ≤ fldN w 0 5) ∧ (fldN w 0 5 ≤ 30) ∧ (s1.rst.fuses.wdtStart = false) ∧ (s1.rst.wdArm = false) ∧ (bitAt w 12 = true)))) else false) | _ => false) : Bool) = true ∧
    (let t : Instant := t0; let s : State := cmdIn 0x0808 [0x0E] up; (match taken t 0x0808 s with | some (p, s1) => (if (firstReserved (cmdOf p).words [0x1F1F] = none) then (let w : Word := paramAt (overlay (cmdOf p).words [wdWord s1.rst.wdArm s1.rst.wdCfg]) 0; (let v : WatchdogCfg := { hardMs := fld w 10 2, window := fld w 8 2, period := fld w 0 5 }; decide ((14 ≤ fldN w 0 5) ∧ (fldN w 0 5 ≤ 30) ∧ (s1.rst.fuses.wdtStart = false) ∧ (bitAt w 12 = false) ∧ (s1.rst.wdArm = true → v = s1.rst.wdCfg)))) else false) | _ => false) : Bool) = true ∧
    (let t : Instant := t0; let s : State := cmdIn 0x0808 [0x100E] ({ up with rst.wdArm := true }); (match taken t 0x0808 s with | some (p, s1) => (if (firstReserved (cmdOf p).words [0x1F1F] = none) then (let w : Word := paramAt (overlay (cmdOf p).words [wdWord s1.rst.wdArm s1.rst.wdCfg]) 0; (let v : WatchdogCfg := { hardMs := fld w 10 2, window := fld w 8 2, period := fld w 0 5 }; decide ((14 ≤ fldN w 0 5) ∧ (fldN w 0 5 ≤ 30) ∧ (s1.rst.fuses.wdtStart = false) ∧ (s1.rst.wdArm = true) ∧ (v ≠ s1.rst.wdCfg)))) else false) | _ => false) : Bool) = true ∧
    (let t : Instant := t0; let s : State := cmdIn 0x0808 [0x0E] ({ up with rst.fuses.wdtStart := true }); (match taken t 0x0808 s with | some (p, s1) => (if (firstReserved (cmdOf p).words [0x1F1F] = none) then (let w : Word := paramAt (overlay (cmdOf p).words [wdWord s1.rst.wdArm s1.rst.wdCfg]) 0; (let v : WatchdogCfg := { hardMs := fld w 10 2, window := fld w 8 2, period := fld w 0 5 }; decide ((14 ≤ fldN w 0 5) ∧ (fldN w 0 5 ≤ 30) ∧ (s1.rst.fuses.wdtStart = true) ∧ (bitAt w 12 = false)))) else false) | _ => false) : Bool) = true ∧
    (let t : Instant := t0; let s : State := cmdIn 0x0808 [0x100E] ({ up with rst.fuses.wdtStart := true, rst.wdSeen := true }); (match taken t 0x0808 s with | some (p, s1) => (if (firstReserved (cmdOf p).words [0x1F1F] = none) then (let w : Word := paramAt (overlay (cmdOf p).words [wdWord s1.rst.wdArm s1.rst.wdCfg]) 0; (let v : WatchdogCfg := { hardMs := fld w 10 2, window := fld w 8 2, period := fld w 0 5 }; decide ((14 ≤ fldN w 0 5) ∧ (fldN w 0 5 ≤ 30) ∧ (s1.rst.fuses.wdtStart = true) ∧ (bitAt w 12 = true) ∧ (s1.rst.wdSeen = true)))) else false) | _ => false) : Bool) = true ∧
    (let t : Instant := t0; let s : State := cmdIn 0x0808 [0x100E] ({ up with rst.fuses.wdtStart := true }); (match taken t 0x0808 s with | some (p, s1) => (if (firstReserved (cmdOf p).words [0x1F1F] = none) then (let w : Word := paramAt (overlay (cmdOf p).words [wdWord s1.rst.wdArm s1.rst.wdCfg]) 0; (let v : WatchdogCfg := { hardMs := fld w 10 2, window := fld w 8 2, period := fld w 0 5 }; decide ((14 ≤ fldN w 0 5) ∧ (fldN w 0 5 ≤ 30) ∧ (s1.rst.fuses.wdtStart = true) ∧ (bitAt w 12 = true) ∧ (s1.rst.wdSeen = false)))) else false) | _ => false) : Bool) = true ∧
    (let t : Instant := t0; let k : Byte := 0x5A; let s : State := up; decide ((wdRuns s = false)) : Bool) = true ∧
    (let t : Instant := t0; let s : State := { up with rst.wdArm := true }; decide ((wdRuns s = true) ∧ (wdC (setNow t s) < wdPeriod s.rst.wdCfg)) : Bool) = true ∧
    (let t : Instant := ⟨0, 32000000000⟩; let s : State := { up with rst.wdArm := true, rst.wdKey := true }; decide ((wdRuns s = true) ∧ (wdC (setNow t s) < wdPeriod s.rst.wdCfg) ∧ (s.rst.wdKey = true) ∧ (wdOpen s.rst.wdCfg ≤ wdC (setNow t s))) : Bool) = true ∧
    (let t : Instant := ⟨0, 32000000000⟩; let s : State := { up with rst.wdArm := true, rst.wdKey := true, rst.wdCfg.window := 2 }; decide ((wdRuns s = true) ∧ (wdC (setNow t s) < wdPeriod s.rst.wdCfg) ∧ (s.rst.wdKey = true) ∧ (wdC (setNow t s) < wdOpen s.rst.wdCfg)) : Bool) = true ∧
    (let t : Instant := t0; let k : Byte := 0; let s : State := { up with rst.wdArm := true }; decide ((wdRuns s = true) ∧ (wdC (setNow t s) < wdPeriod s.rst.wdCfg) ∧ (k ≠ 0x5A) ∧ (k ≠ 0xA5)) : Bool) = true ∧
    (let code : ℕ := 2; let s : State := up; decide ((s.nvm.dumping = none)) : Bool) = true ∧
    (let t : Instant := t0; let s : State := { up with rst.wdArm := true, rst.wdCount := 1073741823 }; decide ((wdRuns s = true) ∧ (wdDueAt s.rst.wdCfg ≤ wdC (setNow t s))) : Bool) = true ∧
    (let t : Instant := t0; let k : Byte := 0x5A; let s : State := { up with rst.wdArm := true, rst.wdCount := 1073741824 }; decide ((wdRuns s = true) ∧ (wdPeriod s.rst.wdCfg ≤ wdC (setNow t s))) : Bool) = true ∧
    (let t : Instant := t0; let s : State := { up with rst.wdArm := true }; decide ((wdRuns s = true) ∧ (wdC (setNow t s) < wdPeriod s.rst.wdCfg) ∧ (s.rst.wdKey = false)) : Bool) = true ∧
    (let t : Instant := t0; let s : State := up; decide ((wdC (setNow t s) < wdDueAt s.rst.wdCfg)) : Bool) = true ∧
    (let t : Instant := t0; let s : State := { up with rst.wdArm := true, rst.wdCount := 1073741824 }; decide ((wdRuns s = true) ∧ (wdPeriod s.rst.wdCfg ≤ wdC (setNow t s))) : Bool) = true ∧
    (let t : Instant := t0; let s : State := up; decide ((wdC (setNow t s) < wdPeriod s.rst.wdCfg)) : Bool) = true ∧
    (let t : Instant := ⟨0, 32000000000⟩; let s : State := { up with rst.wdHard := some 0 }; let a : ℕ := 0; decide ((s.rst.wdHard = some a) ∧ (passed (setNow t s) a (hardNs s.rst.wdCfg) = true) ∧ (s.rst.waiting = none)) : Bool) = true ∧
    (let t : Instant := t0; let s : State := up; decide ((s.rst.wdHard = none)) : Bool) = true ∧
    (let t : Instant := t0; let c : Byte := 1; let pc : Word := 4; let s : State := { up with power.phase := .stow }; decide ((s.rst.asserted.contains .bureau = true ∨ s.rst.waiting ≠ none ∨ s.power.phase = .stow)) : Bool) = true ∧
    (let t : Instant := t0; let pc : Word := 4; let s : State := { up with nvm.dumping := some { reset := .fatal, cause := 2, detail := 0, pc := 4, stamp := 0 } }; let d : DumpRun := { reset := .fatal, cause := 2, detail := 0, pc := 4, stamp := 0 }; decide ((s.rst.asserted.contains .bureau = false) ∧ (s.rst.waiting = none) ∧ (s.power.phase ≠ .stow) ∧ (s.nvm.dumping = some d)) : Bool) = true ∧
    (let t : Instant := t0; let c : Byte := 1; let pc : Word := 4; let s : State := up; decide ((s.rst.asserted.contains .bureau = false) ∧ (s.rst.waiting = none) ∧ (s.power.phase ≠ .stow) ∧ (s.nvm.dumping = none) ∧ (c ≠ 3)) : Bool) = true ∧
    (let t : Instant := t0; let pc : Word := 4; let s : State := up; decide ((s.rst.asserted.contains .bureau = false) ∧ (s.rst.waiting = none) ∧ (s.power.phase ≠ .stow) ∧ (s.nvm.dumping = none)) : Bool) = true := by
  and_intros <;> decide +kernel

/-- What PowerUpSequenceReleasesTheDomains assumes is met, clause by clause. -/
theorem witness_PowerUpSequenceReleasesTheDomains :
    (let t : Instant := t0; let s : State := up; decide ((pinsChained s = false)) : Bool) = true ∧
    (let t : Instant := t0; let r : Bool := true; let s : State := up; decide ((r = false → pinsChained s = false) ∧ (r = true → s.rst.phase ≠ .holding ∧ s.rst.phase ≠ .loading)) : Bool) = true ∧
    (let t : Instant := t0; let s : State := { up with tap.ir := .extest }; decide ((pinsChained s = true)) : Bool) = true ∧
    (let t : Instant := t0; let s : State := { up with rst.phase := .loading }; decide ((s.rst.phase = .holding ∨ s.rst.phase = .loading)) : Bool) = true ∧
    (let t : Instant := t0; let s : State := { up with rst.phase := .holding }; decide ((pinsChained s = false) ∧ (s.rst.phase = .holding) ∧ (s.rst.resetNLow = false)) : Bool) = true ∧
    (let t : Instant := t0; let s : State := { up with rst.phase := .holding, rst.resetNLow := true }; decide ((pinsChained s = false) ∧ (s.rst.phase = .holding) ∧ (s.rst.resetNLow = true)) : Bool) = true ∧
    (let t : Instant := t0; let s : State := { up with rst.phase := .holding }; decide ((pinsChained s = false) ∧ (s.rst.phase = .holding) ∧ (s.rst.pgood = true)) : Bool) = true ∧
    (let t : Instant := t0; let b : BitVec 2 := 3; let v : ℕ := 3300; let te : Bool := false; let failed : List FuseField := []; let s : State := up; decide ((s.rst.phase ≠ .loading)) : Bool) = true ∧
    (let t : Instant := t0; let b : BitVec 2 := 3; let v : ℕ := 3300; let te : Bool := true; let failed : List FuseField := [.twaAddr]; let s : State := { up with rst.phase := .loading }; decide ((pinsChained s = false) ∧ (s.rst.phase = .loading)) : Bool) = true ∧
    (let s : State := { up with rst.blown.wdtStart := true }; decide ((s.rst.blown.wdtStart = true)) : Bool) = true ∧
    (let t : Instant := ⟨0, 99999⟩; let d : Domain := .trunk; let s : State := { up with rst.phase := .releasing, rst.asserted := [.trunk] }; decide ((s.rst.phase = .releasing) ∧ (s.rst.fuses.resetOrder = false) ∧ (nextDomain s = some d) ∧ (clockStable (setNow t s) d = true)) : Bool) = true ∧
    (let t : Instant := t0; let d : Domain := .bureau; let s : State := { up with rst.phase := .releasing, rst.asserted := [.trunk] }; decide ((nextDomain s ≠ some d ∨ clockStable (setNow t s) d = false)) : Bool) = true ∧
    (let s : State := { up with rst.asserted := [.trunk, .memory] }; let d : Domain := .memory; let e : Domain := .trunk; decide ((s.rst.fuses.resetOrder = false) ∧ (nextDomain s = some d) ∧ (s.rst.asserted.contains e = true)) : Bool) = true ∧
    (let t : Instant := ⟨0, 99999⟩; let d : Domain := .trunk; let s : State := { up with rst.phase := .releasing, rst.asserted := [.trunk], rst.fuses.resetOrder := true, rst.gap := some 0 }; let a : ℕ := 0; decide ((s.rst.phase = .releasing) ∧ (s.rst.fuses.resetOrder = true) ∧ (nextDomain s = some d) ∧ (s.rst.gap = some a) ∧ (clockStable (setNow t s) d = true)) : Bool) = true ∧
    (let t : Instant := ⟨0, 1310720⟩; let s : State := { up with rst.phase := .releasing, rst.asserted := [.trunk], rst.fuses.resetOrder := true, clock.ref0Ok := true }; let d : Domain := .trunk; decide ((nextDomain s = some d) ∧ (s.rst.phase = .releasing) ∧ (s.rst.fuses.resetOrder = true) ∧ (s.rst.gap = none) ∧ (2048 * 16000000 ≤ gapSoFar (setNow t s)) ∧ (clockStable (setNow t s) d = true)) : Bool) = true ∧
    (let t : Instant := ⟨0, 1310720⟩; let s : State := { up with rst.phase := .releasing, rst.asserted := [.trunk], rst.fuses.resetOrder := true, clock.ref0Ok := true, clock.switchAt := 1310000 }; let d : Domain := .trunk; decide ((nextDomain s = some d) ∧ (s.rst.phase = .releasing) ∧ (s.rst.fuses.resetOrder = true) ∧ (s.rst.gap = none) ∧ (2048 * 16000000 ≤ gapSoFar (setNow t s)) ∧ (clockStable (setNow t s) d = false)) : Bool) = true ∧
    (let t : Instant := t0; let d : Domain := .trunk; let s : State := up; decide ((gapSoFar (setNow t s) < 2048 * 16000000)) : Bool) = true ∧
    (let s : State := base; let d : Domain := .trunk; decide ((s.clock.limp = true) ∧ (onRef0 s = false) ∧ (d ≠ .alwaysOn)) : Bool) = true ∧
    (let s : State := { base with clock.ref0Ok := true, clock.ref0Since := some 0, now := ⟨0, 400000⟩ }; let d : Domain := .trunk; decide ((s.clock.limp = true) ∧ (onRef0 s = true) ∧ (d ≠ .alwaysOn)) : Bool) = true ∧
    (let t : Instant := t0; let d : Domain := .trunk; let s : State := up; decide ((s.rst.phase ≠ .releasing)) : Bool) = true ∧
    (let t : Instant := t0; let s : State := { up with rst.phase := .releasing, bureau.ready := false, rst.boot := 1 }; decide ((s.rst.phase = .releasing) ∧ (s.rst.asserted = []) ∧ (s.bureau.ready = false) ∧ (s.rst.profileDue = false) ∧ (s.nvm.dumping = none) ∧ (s.rst.waiting = none) ∧ (s.nvm.inFlight ≠ some .boot)) : Bool) = true ∧
    (let s : State := up; decide ((s.nvm.trial = 0)) : Bool) = true ∧
    (let s : State := { up with nvm.trial := 1 }; decide ((s.nvm.trial = 1) ∧ (s.nvm.redirects = [])) : Bool) = true ∧
    (let s : State := { up with nvm.trial := 2 }; decide ((s.nvm.trial = 2) ∧ (s.nvm.redirects = [])) : Bool) = true ∧
    (let s : State := { up with nvm.trial := 2 }; decide ((s.nvm.trial = 2) ∧ (s.nvm.redirects = [])) : Bool) = true ∧
    (let s : State := up; decide ((s.nvm.redirects = [])) : Bool) = true ∧
    (let x : NvmTxn := { origin := .bootTrial, first := 0, pages := [] }; let s : State := up; decide ((x.pages = []) ∧ (x.next = 0)) : Bool) = true ∧
    (let x : NvmTxn := { origin := .bootTrial, first := 0, pages := [], next := 1 }; let s : State := up; decide ((x.pages = []) ∧ (x.next = 1)) : Bool) = true ∧
    (let t : Instant := t0; let s : State := up; decide ((s.rst.profileDue = false)) : Bool) = true ∧
    (let t : Instant := t0; let s : State := { up with rst.profileDue := true, rst.fuses.autoload := 1, nvm.cells := memSetBytes [] (partFirst 4 * 1024) (wordsBytes ([0x50F10001, 16, 0] ++ [crc32 (wordsBytes [0x50F10001, 16, 0])])) }; decide ((s.rst.profileDue = true) ∧ (s.rst.asserted.contains .bureau = false) ∧ (s.rst.waiting = none) ∧ (s.nvm.dumping = none) ∧ (profilePackets (setNow t s) s.rst.fuses.autoload.toNat = some [])) : Bool) = true ∧
    (let s : State := up; let bs : List Byte := []; decide ((bodyOf (pktOp (profilePacket bs s)) = none)) : Bool) = true := by
  and_intros <;> decide +kernel

/-- What NvmCommandsAndPageWrites assumes is met, clause by clause. -/
theorem witness_NvmCommandsAndPageWrites :
    (let t : Instant := t0; let s : State := cmdIn 0x0601 [4, 0x7FFFC, 1] up; (match taken t 0x0601 s with | some (p, s1) => (if (firstReserved (cmdOf p).words [0xF, 0xFFFFFFFF, 0xFFFF] = none) ∧ (fldN (par p 0) 0 4 ≤ 6) ∧ ((par p 1).toNat % 4 = 0) then (let n : ℕ := ((cmdOf p).words.getD 2 1).toNat; decide ((n ≠ 0) ∧ (n ≤ pathWords (cmdOf p).via) ∧ ((par p 1).toNat + 4 * n ≤ partBytes (fldN (par p 0) 0 4)))) else false) | _ => false) : Bool) = true ∧
    (let t : Instant := t0; let s : State := cmdIn 0x0601 [7, 0, 1] up; (match taken t 0x0601 s with | some (p, s1) => decide ((firstReserved (cmdOf p).words [0xF, 0xFFFFFFFF, 0xFFFF] = none) ∧ (6 < fldN (par p 0) 0 4)) | _ => false) : Bool) = true ∧
    (let t : Instant := t0; let s : State := cmdIn 0x0601 [6, 1, 1] up; (match taken t 0x0601 s with | some (p, s1) => (if (firstReserved (cmdOf p).words [0xF, 0xFFFFFFFF, 0xFFFF] = none) ∧ (fldN (par p 0) 0 4 ≤ 6) then (let n : ℕ := ((cmdOf p).words.getD 2 1).toNat; decide (((par p 1).toNat % 4 ≠ 0))) else false) | _ => false) : Bool) = true ∧
    (let t : Instant := t0; let s : State := cmdIn 0x0601 [6, 4, 0] up; (match taken t 0x0601 s with | some (p, s1) => (if (firstReserved (cmdOf p).words [0xF, 0xFFFFFFFF, 0xFFFF] = none) ∧ (fldN (par p 0) 0 4 ≤ 6) then (let n : ℕ := ((cmdOf p).words.getD 2 1).toNat; decide (((par p 1).toNat % 4 = 0) ∧ (n = 0 ∨ pathWords (cmdOf p).via < n))) else false) | _ => false) : Bool) = true ∧
    (let t : Instant := t0; let s : State := cmdIn 0x0601 [6, 0x120000, 1] up; (match taken t 0x0601 s with | some (p, s1) => (if (firstReserved (cmdOf p).words [0xF, 0xFFFFFFFF, 0xFFFF] = none) ∧ (fldN (par p 0) 0 4 ≤ 6) then (let n : ℕ := ((cmdOf p).words.getD 2 1).toNat; decide (((par p 1).toNat % 4 = 0) ∧ (n ≠ 0) ∧ (n ≤ pathWords (cmdOf p).via) ∧ (partBytes (fldN (par p 0) 0 4) < (par p 1).toNat + 4 * n))) else false) | _ => false) : Bool) = true ∧
    (let t : Instant := t0; let s : State := cmdIn 0x0602 [0x80006, 0] up; (match taken t 0x0602 s with | some (p, s1) => (if (firstReserved ((cmdOf p).words.take 2) [0xC000F, 0xFFFFFFFF] = none) then (let part : ℕ := fldN (par p 0) 0 4; (if ((par p 1).toNat % 4 = 0) ∧ (bitAt (par p 0) 18 = false) ∧ ((par p 1).toNat + 4 * ((cmdOf p).words.drop 2).length ≤ partBytes part) then (let m : List (ℕ × Word) := stageWords s1 part ((par p 1).toNat / 4) ((cmdOf p).words.drop 2); decide (((stageSpan m).2 ≤ 608) ∧ (bitAt (par p 0) 19 = true) ∧ (m = []))) else false)) else false) | _ => false) : Bool) = true ∧
    (let t : Instant := t0; let s : State := cmdIn 0x0602 [5, 0, 1] up; (match taken t 0x0602 s with | some (p, s1) => (if (firstReserved ((cmdOf p).words.take 2) [0xC000F, 0xFFFFFFFF] = none) then (let part : ℕ := fldN (par p 0) 0 4; (if ((par p 1).toNat % 4 = 0) ∧ (bitAt (par p 0) 18 = false) ∧ ((par p 1).toNat + 4 * ((cmdOf p).words.drop 2).length ≤ partBytes part) then (let m : List (ℕ × Word) := stageWords s1 part ((par p 1).toNat / 4) ((cmdOf p).words.drop 2); decide (((stageSpan m).2 ≤ 608) ∧ (bitAt (par p 0) 19 = true → m ≠ []) ∧ (part ≠ 4) ∧ (part ≠ 6))) else false)) else false) | _ => false) : Bool) = true ∧
    (let t : Instant := t0; let s : State := cmdIn 0x0602 [6, 0, 1] ({ up with power.hold := true }); (match taken t 0x0602 s with | some (p, s1) => (if (firstReserved ((cmdOf p).words.take 2) [0xC000F, 0xFFFFFFFF] = none) then (let part : ℕ := fldN (par p 0) 0 4; (if ((par p 1).toNat % 4 = 0) ∧ (bitAt (par p 0) 18 = false) ∧ ((par p 1).toNat + 4 * ((cmdOf p).words.drop 2).length ≤ partBytes part) then (let m : List (ℕ × Word) := stageWords s1 part ((par p 1).toNat / 4) ((cmdOf p).words.drop 2); decide (((stageSpan m).2 ≤ 608) ∧ (bitAt (par p 0) 19 = true → m ≠ []) ∧ (part = 4 ∨ part = 6) ∧ (s1.power.hold = true))) else false)) else false) | _ => false) : Bool) = true ∧
    (let t : Instant := t0; let s : State := cmdIn 0x0602 [6, 0x11FFFC, 5] up; (match taken t 0x0602 s with | some (p, s1) => (if (firstReserved ((cmdOf p).words.take 2) [0xC000F, 0xFFFFFFFF] = none) then (let part : ℕ := fldN (par p 0) 0 4; (if ((par p 1).toNat % 4 = 0) ∧ (bitAt (par p 0) 18 = false) ∧ ((par p 1).toNat + 4 * ((cmdOf p).words.drop 2).length ≤ partBytes part) then (let m : List (ℕ × Word) := stageWords s1 part ((par p 1).toNat / 4) ((cmdOf p).words.drop 2); decide (((stageSpan m).2 ≤ 608) ∧ (bitAt (par p 0) 19 = true → m ≠ []) ∧ (part = 4 ∨ part = 6) ∧ (s1.power.hold = false) ∧ (bitAt (par p 0) 19 = false))) else false)) else false) | _ => false) : Bool) = true ∧
    (let t : Instant := t0; let s : State := cmdIn 0x0602 [0x80006, 0x11FFFC, 5] ({ up with nvm.txn := some { origin := .selftest, first := 6400, pages := [] } }); (match taken t 0x0602 s with | some (p, s1) => (if (firstReserved ((cmdOf p).words.take 2) [0xC000F, 0xFFFFFFFF] = none) then (let part : ℕ := fldN (par p 0) 0 4; (if ((par p 1).toNat % 4 = 0) ∧ (bitAt (par p 0) 18 = false) ∧ ((par p 1).toNat + 4 * ((cmdOf p).words.drop 2).length ≤ partBytes part) then (let m : List (ℕ × Word) := stageWords s1 part ((par p 1).toNat / 4) ((cmdOf p).words.drop 2); (if ((stageSpan m).2 ≤ 608) ∧ (bitAt (par p 0) 19 = true → m ≠ []) ∧ (part = 4 ∨ part = 6) ∧ (s1.power.hold = false) ∧ (bitAt (par p 0) 19 = true) then (match journalRefusal s1 with | some st => true | _ => false) else false)) else false)) else false) | _ => false) : Bool) = true ∧
    (let t : Instant := t0; let s : State := cmdIn 0x0602 [0x80006, 0x11FFFC, 5] up; (match taken t 0x0602 s with | some (p, s1) => (if (firstReserved ((cmdOf p).words.take 2) [0xC000F, 0xFFFFFFFF] = none) then (let part : ℕ := fldN (par p 0) 0 4; (if ((par p 1).toNat % 4 = 0) ∧ (bitAt (par p 0) 18 = false) ∧ ((par p 1).toNat + 4 * ((cmdOf p).words.drop 2).length ≤ partBytes part) then (let m : List (ℕ × Word) := stageWords s1 part ((par p 1).toNat / 4) ((cmdOf p).words.drop 2); decide (((stageSpan m).2 ≤ 608) ∧ (bitAt (par p 0) 19 = true → m ≠ []) ∧ (part = 4 ∨ part = 6) ∧ (s1.power.hold = false) ∧ (bitAt (par p 0) 19 = true) ∧ (journalRefusal s1 = none))) else false)) else false) | _ => false) : Bool) = true ∧
    (let t : Instant := t0; let s : State := cmdIn 0x0602 [0xC0006, 0] up; (match taken t 0x0602 s with | some (p, s1) => decide ((firstReserved ((cmdOf p).words.take 2) [0xC000F, 0xFFFFFFFF] = none) ∧ (bitAt (par p 0) 18 = true) ∧ (bitAt (par p 0) 19 = true)) | _ => false) : Bool) = true ∧
    (let t : Instant := t0; let s : State := cmdIn 0x0602 [0x40006, 0] up; (match taken t 0x0602 s with | some (p, s1) => decide ((firstReserved ((cmdOf p).words.take 2) [0xC000F, 0xFFFFFFFF] = none) ∧ (bitAt (par p 0) 18 = true) ∧ (bitAt (par p 0) 19 = false) ∧ ((par p 1).toNat % 4 = 0) ∧ ((par p 1).toNat ≤ partBytes (fldN (par p 0) 0 4)) ∧ ((cmdOf p).words.drop 2 = []) ∧ (fldN (par p 0) 0 4 = 4 ∨ fldN (par p 0) 0 4 = 6) ∧ (s1.power.hold = false)) | _ => false) : Bool) = true ∧
    (let s : State := up; let part : ℕ := 4; let word : ℕ := 7; let data : List Word := [3, 4]; let k : ℕ := 8; decide ((s.nvm.staging = none) ∧ (word ≤ k) ∧ (k < word + data.length)) : Bool) = true ∧
    (let t : Instant := t0; let r : PageResult := .good; let s : State := up; decide ((s.nvm.inFlight = none)) : Bool) = true ∧
    (let t : Instant := t0; let s : State := { up with nvm.inFlight := some .txn, nvm.txn := some { origin := .selftest, first := 6400, pages := [List.replicate 1024 0] } }; let x : NvmTxn := { origin := .selftest, first := 6400, pages := [List.replicate 1024 0] }; decide ((s.nvm.inFlight = some .txn) ∧ (s.rst.waiting = none) ∧ (s.nvm.dumping = none) ∧ (s.nvm.txn = some x)) : Bool) = true ∧
    (let t : Instant := t0; let s : State := { up with nvm.inFlight := some .direct, nvm.direct := some { pages := [(300, List.replicate 1024 0)], words := 2 } }; let d : NvmDirect := { pages := [(300, List.replicate 1024 0)], words := 2 }; decide ((s.nvm.inFlight = some .direct) ∧ (s.rst.waiting = none) ∧ (s.nvm.dumping = none) ∧ (s.nvm.direct = some d)) : Bool) = true ∧
    (let t : Instant := t0; let s : State := { up with nvm.inFlight := some .boot, nvm.boot := some { origin := .bootTrial, first := 0, pages := [] } }; let x : NvmTxn := { origin := .bootTrial, first := 0, pages := [] }; decide ((s.nvm.inFlight = some .boot) ∧ (s.rst.waiting = none) ∧ (s.nvm.dumping = none) ∧ (s.nvm.boot = some x)) : Bool) = true ∧
    (let t : Instant := t0; let s : State := { up with nvm.inFlight := some .digest, nvm.dumping := some { reset := .fatal, cause := 2, detail := 0, pc := 4, stamp := 0 } }; let d : DumpRun := { reset := .fatal, cause := 2, detail := 0, pc := 4, stamp := 0 }; decide ((s.nvm.inFlight = some .digest) ∧ (s.rst.waiting = none) ∧ (s.nvm.dumping = some d)) : Bool) = true ∧
    (let t : Instant := t0; let r : PageResult := .good; let s : State := { up with nvm.inFlight := some .txn, rst.waiting := some (.soft, true) }; let k : ResetCause := .soft; let keep : Bool := true; let dir : NvmWriter := .txn; decide ((s.nvm.inFlight = some dir) ∧ (s.rst.waiting = some (k, keep))) : Bool) = true ∧
    (let x : NvmTxn := { origin := .selftest, first := 6400, pages := [List.replicate 1024 0], next := 3 }; let s : State := up; decide ((x.next = 2 * x.pages.length + 1)) : Bool) = true ∧
    (let x : NvmTxn := { origin := .selftest, first := 6400, pages := [List.replicate 1024 0], retried := true }; let s : State := up; decide ((x.retried = true) ∧ (x.next ≤ x.pages.length)) : Bool) = true ∧
    (let x : NvmTxn := { origin := .selftest, first := 6400, pages := [List.replicate 1024 0] }; let s : State := up; decide ((x.retried = false)) : Bool) = true ∧
    (let x : NvmTxn := { origin := .selftest, first := 6400, pages := [List.replicate 1024 0], retried := true }; let s : State := up; decide ((x.retried = true) ∧ (x.next ≤ x.pages.length)) : Bool) = true ∧
    (let x : NvmTxn := { origin := .selftest, first := 6400, pages := [List.replicate 1024 0], next := 1 }; let s : State := up; decide ((x.next = x.pages.length)) : Bool) = true ∧
    (let x : NvmTxn := { origin := .selftest, first := 6400, pages := [List.replicate 1024 0], next := 2 }; let s : State := up; let i : ℕ := 0; decide ((i < x.pages.length) ∧ (x.next = x.pages.length + 1 + i) ∧ (Mem.wf s.nvm.cells) ∧ (∀ pg ∈ x.pages, pg.length = 1024)) : Bool) = true ∧
    (let x : NvmTxn := { origin := .selftest, first := 6400, pages := [List.replicate 1024 0], next := 3 }; let s : State := up; decide ((x.next = 2 * x.pages.length + 1) ∧ (x.pages ≠ [])) : Bool) = true ∧
    (let d : NvmDirect := { pages := [(300, List.replicate 1024 0)], words := 2, retried := true }; let s : State := up; let g : ℕ := 300; let bs : List Byte := List.replicate 1024 0; let rest : List (ℕ × List Byte) := []; decide ((d.pages = (g, bs) :: rest) ∧ (d.retried = true)) : Bool) = true ∧
    (let d : NvmDirect := { pages := [(300, List.replicate 1024 0)], words := 2 }; let s : State := up; let g : ℕ := 300; let bs : List Byte := List.replicate 1024 0; let rest : List (ℕ × List Byte) := []; decide ((d.pages = (g, bs) :: rest) ∧ (d.retried = false)) : Bool) = true ∧
    (let x : NvmTxn := { origin := .selftest, first := 6400, pages := [] }; let s : State := up; decide ((x.retried = false)) : Bool) = true ∧
    (let x : NvmTxn := { origin := .selftest, first := 6400, pages := [List.replicate 1024 0] }; let s : State := up; decide ((x.next < x.pages.length)) : Bool) = true ∧
    (let pg : ℕ := 300; let bs : List Byte := List.replicate 1024 7; let s : State := { up with nvm.cells := memSetBytes [] 307198 [1, 2, 3, 4] }; let i : ℕ := 1023; decide ((Mem.wf s.nvm.cells) ∧ (bs.length = 1024) ∧ (i < 1024)) : Bool) = true ∧
    (let pg : ℕ := 300; let bs : List Byte := List.replicate 1024 7; let g : Bool := true; let s : State := { up with nvm.cells := memSetBytes [] 307198 [1, 2, 3, 4] }; let a : ℕ := 307199; decide ((Mem.wf s.nvm.cells) ∧ (bs.length = 1024) ∧ (a < pg * 1024 ∨ pg * 1024 + 1024 ≤ a)) : Bool) = true ∧
    (let t : Instant := t0; let s : State := cmdIn 0x0606 [0x71, 0xFFFC, 1] ({ up with nvm.cells := memSetBytes [] ((partFirst 5 + 64 * 7) * 1024) (wordsBytes [0xD0C50001, 9]) }); let slot : ℕ := 7; (match taken t 0x0606 s with | some (p, s1) => (if (firstReserved (cmdOf p).words [0x71, 0xFFFFFFFF, 0xFFFF] = none) ∧ (bitAt (par p 0) 0 = true) ∧ (slot = fldN (par p 0) 4 3) ∧ ((par p 1).toNat % 4 = 0) then (let n : ℕ := ((cmdOf p).words.getD 2 1).toNat; decide ((n ≠ 0) ∧ (n ≤ pathWords (cmdOf p).via) ∧ ((par p 1).toNat + 4 * n ≤ 65536) ∧ (digestWord s1 slot 0 = 0xD0C50001))) else false) | _ => false) : Bool) = true ∧
    (let t : Instant := t0; let s : State := cmdIn 0x0606 [0, 0xFFFC, 1] ({ up with nvm.dumpValid := true }); (match taken t 0x0606 s with | some (p, s1) => (if (firstReserved (cmdOf p).words [0x71, 0xFFFFFFFF, 0xFFFF] = none) ∧ (bitAt (par p 0) 0 = false) ∧ ((par p 1).toNat % 4 = 0) then (let n : ℕ := ((cmdOf p).words.getD 2 1).toNat; decide ((n ≠ 0) ∧ (n ≤ pathWords (cmdOf p).via) ∧ ((par p 1).toNat + 4 * n ≤ 16777216) ∧ (s1.nvm.dumpValid = true))) else false) | _ => false) : Bool) = true ∧
    (let t : Instant := t0; let s : State := cmdIn 0x0606 [0, 0xFFFC, 1] up; (match taken t 0x0606 s with | some (p, s1) => (if (firstReserved (cmdOf p).words [0x71, 0xFFFFFFFF, 0xFFFF] = none) ∧ (bitAt (par p 0) 0 = false) ∧ ((par p 1).toNat % 4 = 0) then (let n : ℕ := ((cmdOf p).words.getD 2 1).toNat; decide ((n ≠ 0) ∧ (n ≤ pathWords (cmdOf p).via) ∧ ((par p 1).toNat + 4 * n ≤ 16777216) ∧ (s1.nvm.dumpValid = false))) else false) | _ => false) : Bool) = true ∧
    (let t : Instant := t0; let s : State := cmdIn 0x0606 [0, 1, 1] up; (match taken t 0x0606 s with | some (p, s1) => decide ((firstReserved (cmdOf p).words [0x71, 0xFFFFFFFF, 0xFFFF] = none) ∧ ((par p 1).toNat % 4 ≠ 0)) | _ => false) : Bool) = true ∧
    (let t : Instant := t0; let s : State := cmdIn 0x0607 [0] up; (match taken t 0x0607 s with | some (p, s1) => decide ((firstReserved (cmdOf p).words [3] = none) ∧ (s1.nvm.txn = none) ∧ (fldN (par p 0) 0 2 = 0)) | _ => false) : Bool) = true ∧
    (let t : Instant := t0; let s : State := cmdIn 0x0607 [2] up; (match taken t 0x0607 s with | some (p, s1) => decide ((firstReserved (cmdOf p).words [3] = none) ∧ (s1.nvm.txn = none) ∧ (fldN (par p 0) 0 2 = 2) ∧ (s1.nvm.redirects = [])) | _ => false) : Bool) = true ∧
    (let t : Instant := t0; let s : State := cmdIn 0x0607 [2] ({ up with nvm.redirects := [6500] }); (match taken t 0x0607 s with | some (p, s1) => decide ((firstReserved (cmdOf p).words [3] = none) ∧ (s1.nvm.txn = none) ∧ (bitAt (par p 0) 1 = true) ∧ (s1.nvm.redirects ≠ [])) | _ => false) : Bool) = true ∧
    (let t : Instant := t0; let s : State := cmdIn 0x0607 [1] ({ up with nvm.dumpValid := true }); (match taken t 0x0607 s with | some (p, s1) => decide ((firstReserved (cmdOf p).words [3] = none) ∧ (s1.nvm.txn = none) ∧ (fldN (par p 0) 0 2 = 1)) | _ => false) : Bool) = true ∧
    (let t : Instant := t0; let s : State := cmdIn 0x0607 [1] ({ up with nvm.txn := some { origin := .selftest, first := 6400, pages := [] } }); (match taken t 0x0607 s with | some (p, s1) => decide ((firstReserved (cmdOf p).words [3] = none) ∧ (s1.nvm.txn.isSome = true)) | _ => false) : Bool) = true ∧
    (let t : Instant := t0; let s : State := up; decide ((s.nvm.dumping = none)) : Bool) = true ∧
    (let t : Instant := t0; let s : State := { up with nvm.dumping := some { reset := .fatal, cause := 2, detail := 0, pc := 4, stamp := 0 } }; let d : DumpRun := { reset := .fatal, cause := 2, detail := 0, pc := 4, stamp := 0 }; decide ((s.nvm.dumping = some d) ∧ (s.rst.waiting = none) ∧ (d.written = false) ∧ (logBlocked (setNow t s) = false)) : Bool) = true ∧
    (let t : Instant := t0; let s : State := { up with nvm.dumping := some { reset := .fatal, cause := 2, detail := 0, pc := 4, stamp := 0 }, rst.waiting := some (.soft, true) }; let d : DumpRun := { reset := .fatal, cause := 2, detail := 0, pc := 4, stamp := 0 }; decide ((s.nvm.dumping = some d) ∧ (s.rst.waiting ≠ none ∨ (d.written = true ∧ d.next < 64))) : Bool) = true ∧
    (let t : Instant := t0; let s : State := { up with nvm.dumping := some { reset := .fatal, cause := 2, detail := 0, pc := 4, stamp := 0, written := true, next := 64 } }; let d : DumpRun := { reset := .fatal, cause := 2, detail := 0, pc := 4, stamp := 0, written := true, next := 64 }; decide ((s.nvm.dumping = some d) ∧ (s.rst.waiting = none) ∧ (d.written = true) ∧ (64 ≤ d.next)) : Bool) = true ∧
    (let d : DumpRun := { reset := .fatal, cause := 2, detail := 0, pc := 4, stamp := 0, written := true, next := 5 }; let s : State := up; decide ((d.next < 64)) : Bool) = true ∧
    (let d : DumpRun := { reset := .fatal, cause := 2, detail := 0, pc := 4, stamp := 0, written := true, next := 5 }; let s : State := up; decide ((d.retried = false)) : Bool) = true ∧
    (let d : DumpRun := { reset := .fatal, cause := 2, detail := 0, pc := 4, stamp := 0, written := true, next := 5, retried := true }; let s : State := up; decide ((d.retried = true)) : Bool) = true ∧
    (let d : DumpRun := { reset := .fatal, cause := 2, detail := 0, pc := 4, stamp := 0, written := true, next := 63 }; let s : State := up; decide ((d.next = 63) ∧ (d.bad = false) ∧ (d.slot < s.nvm.digests.length)) : Bool) = true ∧
    (let d : DumpRun := { reset := .fatal, cause := 2, detail := 0, pc := 4, stamp := 0, written := true, next := 63, bad := true }; let s : State := up; decide ((d.next = 63) ∧ (d.bad = true)) : Bool) = true ∧
    (let s : State := { up with nvm.dumping := some { reset := .fatal, cause := 2, detail := 0, pc := 4, stamp := 0, written := true, next := 63 } }; let d : DumpRun := { reset := .fatal, cause := 2, detail := 0, pc := 4, stamp := 0, written := true, next := 63 }; decide ((s.nvm.dumping = some d)) : Bool) = true := by
  and_intros <;> decide +kernel

/-- What FirmwareUpdateGoesThroughItsSteps assumes is met, clause by clause. -/
theorem witness_FirmwareUpdateGoesThroughItsSteps :
    (let t : Instant := t0; let s : State := cmdIn 0x0603 [4096] up; (match taken t 0x0603 s with | some (p, s1) => decide ((4096 ≤ (par p 0).toNat) ∧ ((par p 0).toNat ≤ 2097152) ∧ ((par p 0).toNat % 4 = 0) ∧ (s1.nvm.trial ≠ 2) ∧ (s1.nvm.txn = none) ∧ (s1.nvm.redirects = [])) | _ => false) : Bool) = true ∧
    (let t : Instant := t0; let s : State := cmdIn 0x0603 [4092] up; (match taken t 0x0603 s with | some (p, s1) => decide (((par p 0).toNat < 4096 ∨ 2097152 < (par p 0).toNat ∨ (par p 0).toNat % 4 ≠ 0)) | _ => false) : Bool) = true ∧
    (let t : Instant := t0; let s : State := cmdIn 0x0603 [4096] ({ up with nvm.trial := 2 }); (match taken t 0x0603 s with | some (p, s1) => decide ((4096 ≤ (par p 0).toNat) ∧ ((par p 0).toNat ≤ 2097152) ∧ ((par p 0).toNat % 4 = 0) ∧ (s1.nvm.trial = 2)) | _ => false) : Bool) = true ∧
    (let t : Instant := t0; let s : State := cmdIn 0x0603 [4096] ({ up with nvm.txn := some { origin := .selftest, first := 6400, pages := [] } }); (match taken t 0x0603 s with | some (p, s1) => (if (4096 ≤ (par p 0).toNat) ∧ ((par p 0).toNat ≤ 2097152) ∧ ((par p 0).toNat % 4 = 0) ∧ (s1.nvm.trial ≠ 2) then (match journalRefusal s1 with | some st => true | _ => false) else false) | _ => false) : Bool) = true ∧
    (let o : NvmOrigin := .selftest; let first : ℕ := 6400; let pages : List (List Byte) := []; let s : State := up; decide ((s.nvm.inFlight = none) ∧ (writesGo s = true) ∧ (s.nvm.direct = none) ∧ (s.nvm.boot = none) ∧ (s.nvm.dumping = none)) : Bool) = true ∧
    (let t : Instant := t0; let s : State := cmdIn 0x0604 [0, 1, 2] ({ up with nvm.updateLength := some 4096 }); let len : ℕ := 4096; (match taken t 0x0604 s with | some (p, s1) => (if (s1.nvm.updateLength = some len) ∧ ((par p 0).toNat = s1.nvm.updateGot) ∧ ((par p 0).toNat + 4 * ((cmdOf p).words.drop 1).length ≤ len) ∧ (s1.power.hold = false) ∧ ((cmdOf p).words.drop 1 ≠ []) then (let g : ℕ × List (List Byte) := mergedPages s1 (bankPage (!s1.nvm.activeB) * 1024 + (par p 0).toNat) (wordsBytes ((cmdOf p).words.drop 1)); true) else false) | _ => false) : Bool) = true ∧
    (let t : Instant := t0; let s : State := cmdIn 0x0604 [0, 1, 2] up; (match taken t 0x0604 s with | some (p, s1) => decide ((s1.nvm.updateLength = none)) | _ => false) : Bool) = true ∧
    (let t : Instant := t0; let s : State := cmdIn 0x0604 [4, 1, 2] ({ up with nvm.updateLength := some 4096 }); (match taken t 0x0604 s with | some (p, s1) => (match s1.nvm.updateLength with | some len => decide (((par p 0).toNat ≠ s1.nvm.updateGot)) | _ => false) | _ => false) : Bool) = true ∧
    (let t : Instant := t0; let s : State := cmdIn 0x0604 [4092, 1, 2] ({ up with nvm.updateLength := some 4096, nvm.updateGot := 4092 }); (match taken t 0x0604 s with | some (p, s1) => (match s1.nvm.updateLength with | some len => decide (((par p 0).toNat = s1.nvm.updateGot) ∧ (len < (par p 0).toNat + 4 * ((cmdOf p).words.drop 1).length)) | _ => false) | _ => false) : Bool) = true ∧
    (let t : Instant := t0; let s : State := cmdIn 0x0604 [4088, 1, 2] ({ up with nvm.updateLength := some 4096, nvm.updateGot := 4088, power.hold := true }); (match taken t 0x0604 s with | some (p, s1) => (match s1.nvm.updateLength with | some len => decide (((par p 0).toNat = s1.nvm.updateGot) ∧ ((par p 0).toNat + 4 * ((cmdOf p).words.drop 1).length ≤ len) ∧ (s1.power.hold = true)) | _ => false) | _ => false) : Bool) = true ∧
    (let good : Bool := true; let n : ℕ := 5; let s : State := { up with nvm.updateGot := 8, nvm.updateLength := some 4096 }; decide ((s.bureau.executing = none)) : Bool) = true ∧
    (let t : Instant := t0; let s : State := cmdIn 0x0605 [2] up; (match taken t 0x0605 s with | some (p, s1) => decide ((firstReserved (cmdOf p).words [3] = none) ∧ (fldN (par p 0) 0 2 = 2)) | _ => false) : Bool) = true ∧
    (let t : Instant := t0; let s : State := cmdIn 0x0605 [3] up; (match taken t 0x0605 s with | some (p, s1) => decide ((firstReserved (cmdOf p).words [3] = none) ∧ (fldN (par p 0) 0 2 = 3)) | _ => false) : Bool) = true ∧
    (let t : Instant := t0; let s : State := cmdIn 0x0605 [1] up; (match taken t 0x0605 s with | some (p, s1) => decide ((firstReserved (cmdOf p).words [3] = none) ∧ ((fldN (par p 0) 0 2 = 1 ∧ s1.nvm.trial ≠ 2) ∨ (fldN (par p 0) 0 2 = 0 ∧ s1.nvm.updateLength = none))) | _ => false) : Bool) = true ∧
    (let t : Instant := t0; let s : State := cmdIn 0x0605 [0] ({ up with nvm.updateLength := some 4096, nvm.txn := some { origin := .selftest, first := 6400, pages := [] } }); (match taken t 0x0605 s with | some (p, s1) => (if (firstReserved (cmdOf p).words [3] = none) ∧ ((fldN (par p 0) 0 2 = 1 ∧ s1.nvm.trial = 2) ∨ (fldN (par p 0) 0 2 = 0 ∧ s1.nvm.updateLength ≠ none)) then (match journalRefusal s1 with | some st => true | _ => false) else false) | _ => false) : Bool) = true ∧
    (let t : Instant := t0; let s : State := cmdIn 0x0605 [1] ({ up with nvm.trial := 2 }); (match taken t 0x0605 s with | some (p, s1) => decide ((firstReserved (cmdOf p).words [3] = none) ∧ (fldN (par p 0) 0 2 = 1) ∧ (s1.nvm.trial = 2) ∧ (s1.nvm.txn = none) ∧ (s1.nvm.redirects = [])) | _ => false) : Bool) = true ∧
    (let t : Instant := t0; let s : State := cmdIn 0x0605 [0] ({ up with nvm.updateLength := some 4096 }); (match taken t 0x0605 s with | some (p, s1) => decide ((firstReserved (cmdOf p).words [3] = none) ∧ (fldN (par p 0) 0 2 = 0) ∧ (s1.nvm.updateLength.isSome = true) ∧ (s1.nvm.txn = none) ∧ (s1.nvm.redirects = [])) | _ => false) : Bool) = true ∧
    (let s : State := { up with nvm.updateLength := some 4096 }; decide ((s.nvm.updateLength.isSome = true) ∧ (s.nvm.txn = none) ∧ (s.nvm.redirects = []) ∧ (verifyBank s (!s.nvm.activeB) ≠ 0)) : Bool) = true ∧
    (let n : ℕ := 32; let s : State := { up with rst.fuses.rollback := 3 }; decide ((n ≤ 32) ∧ (s.rst.fuses.rollback.toNat ≤ 32)) : Bool) = true ∧
    (let s : State := { up with nvm.cells := memSetBytes [] 262156 [33] }; let b : Bool := false; decide ((32 < secVersion s b)) : Bool) = true := by
  and_intros <;> decide +kernel

/-- What TwoWireCommandsAndMailbox assumes is met, clause by clause. -/
theorem witness_TwoWireCommandsAndMailbox :
    (let t : Instant := t0; let s : State := cmdIn 0x0701 (twWords { taddr := 0x51, ibrEn := true }) ({ up with twa.cfg.ibrEn := true }); let pt : TwPort := .a; (match taken t 0x0701 s with | some (p, s1) => (if (pt = (if bitAt (par p 0) 0 then TwPort.b else TwPort.a)) then (let x : TwPortState := getTw s1 pt; (let new : TwCfg := twCfgOf (overlay (cmdOf p).words (twWords x.cfg)); decide ((firstReserved (cmdOf p).words ([0x00FEFFB3, 0xFFFFFFFF] ++ List.replicate 8 0xFFFFFF00) = none) ∧ (twCfgBad new = none) ∧ (freerLevel new.level (if pt = .a then s1.rst.fuses.twaLevel else s1.rst.fuses.twbLevel) = false) ∧ ((cmdOf p).req = twReq pt → new.role = x.cfg.role ∧ new.taddr = x.cfg.taddr ∧ new.mode = x.cfg.mode) ∧ (x.transfer = none) ∧ (x.poll = none) ∧ (x.inOpen = false) ∧ (twHolds x = false ∨ (cmdOf p).req = twReq pt) ∧ (x.cfg.ibrEn = true) ∧ (x.cfg.role = false) ∧ (new.ibrEn = true) ∧ (new.role = false)))) else false) | _ => false) : Bool) = true ∧
    (let t : Instant := t0; let s : State := cmdIn 0x0701 (twWords { taddr := 0x51 }) up; let pt : TwPort := .a; (match taken t 0x0701 s with | some (p, s1) => (if (pt = (if bitAt (par p 0) 0 then TwPort.b else TwPort.a)) then (let x : TwPortState := getTw s1 pt; (let new : TwCfg := twCfgOf (overlay (cmdOf p).words (twWords x.cfg)); decide ((firstReserved (cmdOf p).words ([0x00FEFFB3, 0xFFFFFFFF] ++ List.replicate 8 0xFFFFFF00) = none) ∧ (twCfgBad new = none) ∧ (freerLevel new.level (if pt = .a then s1.rst.fuses.twaLevel else s1.rst.fuses.twbLevel) = false) ∧ ((cmdOf p).req = twReq pt → new.role = x.cfg.role ∧ new.taddr = x.cfg.taddr ∧ new.mode = x.cfg.mode) ∧ (x.transfer = none) ∧ (x.poll = none) ∧ (x.inOpen = false) ∧ (twHolds x = false ∨ (cmdOf p).req = twReq pt) ∧ (x.cfg.ibrEn = false ∨ x.cfg.role = true ∨ new.ibrEn = false ∨ new.role = true)))) else false) | _ => false) : Bool) = true ∧
    (let t : Instant := t0; let s : State := cmdIn 0x0701 (twWords { taddr := 0x50 }) ({ up with rst.fuses.twaLevel := 1 }); let pt : TwPort := .a; (match taken t 0x0701 s with | some (p, s1) => (if (pt = (if bitAt (par p 0) 0 then TwPort.b else TwPort.a)) then (let x : TwPortState := getTw s1 pt; (let new : TwCfg := twCfgOf (overlay (cmdOf p).words (twWords x.cfg)); decide ((firstReserved (cmdOf p).words ([0x00FEFFB3, 0xFFFFFFFF] ++ List.replicate 8 0xFFFFFF00) = none) ∧ (twCfgBad new = none) ∧ (freerLevel new.level (if pt = .a then s1.rst.fuses.twaLevel else s1.rst.fuses.twbLevel) = true ∨ ((cmdOf p).req = twReq pt ∧ (new.role ≠ x.cfg.role ∨ new.taddr ≠ x.cfg.taddr ∨ new.mode ≠ x.cfg.mode)))))) else false) | _ => false) : Bool) = true ∧
    (let t : Instant := t0; let s : State := cmdIn 0x0701 (twWords { taddr := 0x02 }) up; (match taken t 0x0701 s with | some (p, s1) => (let pt : TwPort := (if bitAt (par p 0) 0 then TwPort.b else TwPort.a); (let x : TwPortState := getTw s1 pt; (let new : TwCfg := twCfgOf (overlay (cmdOf p).words (twWords x.cfg)); (if (firstReserved (cmdOf p).words ([0x00FEFFB3, 0xFFFFFFFF] ++ List.replicate 8 0xFFFFFF00) = none) then (match twCfgBad new with | some i => true | _ => false) else false)))) | _ => false) : Bool) = true ∧
    (let t : Instant := t0; let s : State := cmdIn 0x0701 (twWords { taddr := 0x50, level := 1 }) ({ up with rst.fuses.twaLevel := 1, twa.inOpen := true }); (match taken t 0x0701 s with | some (p, s1) => (let pt : TwPort := (if bitAt (par p 0) 0 then TwPort.b else TwPort.a); (let x : TwPortState := getTw s1 pt; (let new : TwCfg := twCfgOf (overlay (cmdOf p).words (twWords x.cfg)); decide ((firstReserved (cmdOf p).words ([0x00FEFFB3, 0xFFFFFFFF] ++ List.replicate 8 0xFFFFFF00) = none) ∧ (twCfgBad new = none) ∧ (freerLevel new.level (if pt = .a then s1.rst.fuses.twaLevel else s1.rst.fuses.twbLevel) = false) ∧ ((cmdOf p).req ≠ twReq pt) ∧ (x.transfer ≠ none ∨ x.poll ≠ none ∨ x.inOpen = true ∨ twHolds x = true))))) | _ => false) : Bool) = true ∧
    (let t : Instant := t0; let s : State := cmdIn 0x0702 [0x03500000, 0x00040005, 1, 2] up; let pt : TwPort := .b; (match taken t 0x0702 s with | some (p, s1) => decide ((pt = (if bitAt (par p 0) 24 then TwPort.b else TwPort.a)) ∧ (firstReserved (cmdOf p).words [0x037F0000, 0x01FF01FF] = none) ∧ (fld (par p 0) 16 7 ≠ twAddr s1 pt) ∧ (fldN (par p 1) 16 9 ≤ 256) ∧ (fldN (par p 1) 0 9 ≤ 256) ∧ (((cmdOf p).words.drop 2).length = (fldN (par p 1) 0 9 + 3) / 4) ∧ ((getTw s1 pt).cfg.role = true)) | _ => false) : Bool) = true ∧
    (let t : Instant := t0; let s : State := cmdIn 0x0702 [0x02500000, 0x00040005, 1, 2] up; let pt : TwPort := .a; (match taken t 0x0702 s with | some (p, s1) => decide ((pt = (if bitAt (par p 0) 24 then TwPort.b else TwPort.a)) ∧ (firstReserved (cmdOf p).words [0x037F0000, 0x01FF01FF] = none) ∧ (fld (par p 0) 16 7 ≠ twAddr s1 pt) ∧ (fldN (par p 1) 16 9 ≤ 256) ∧ (fldN (par p 1) 0 9 ≤ 256) ∧ (((cmdOf p).words.drop 2).length = (fldN (par p 1) 0 9 + 3) / 4) ∧ ((getTw s1 pt).cfg.role = false)) | _ => false) : Bool) = true ∧
    (let t : Instant := t0; let s : State := cmdIn 0x0702 [0x03500000, 0x00040005, 1, 2] ({ up with twb.cfg.taddr := 0x50 }); (match taken t 0x0702 s with | some (p, s1) => (let pt : TwPort := (if bitAt (par p 0) 24 then TwPort.b else TwPort.a); decide ((firstReserved (cmdOf p).words [0x037F0000, 0x01FF01FF] = none) ∧ (fld (par p 0) 16 7 = twAddr s1 pt))) | _ => false) : Bool) = true ∧
    (let t : Instant := t0; let s : State := cmdIn 0x0702 [0x03500000, 0x01010005, 1, 2] up; (match taken t 0x0702 s with | some (p, s1) => (let pt : TwPort := (if bitAt (par p 0) 24 then TwPort.b else TwPort.a); decide ((firstReserved (cmdOf p).words [0x037F0000, 0x01FF01FF] = none) ∧ (fld (par p 0) 16 7 ≠ twAddr s1 pt) ∧ (256 < fldN (par p 1) 16 9 ∨ 256 < fldN (par p 1) 0 9))) | _ => false) : Bool) = true ∧
    (let t : Instant := t0; let s : State := cmdIn 0x0702 [0x03500000, 0x00040005, 1] up; (match taken t 0x0702 s with | some (p, s1) => (let pt : TwPort := (if bitAt (par p 0) 24 then TwPort.b else TwPort.a); decide ((firstReserved (cmdOf p).words [0x037F0000, 0x01FF01FF] = none) ∧ (fld (par p 0) 16 7 ≠ twAddr s1 pt) ∧ (fldN (par p 1) 16 9 ≤ 256) ∧ (fldN (par p 1) 0 9 ≤ 256) ∧ (((cmdOf p).words.drop 2).length ≠ (fldN (par p 1) 0 9 + 3) / 4))) | _ => false) : Bool) = true ∧
    (let t : Instant := t0; let pt : TwPort := .a; let s : State := { up with rst.asserted := [.bureau] }; decide ((twLive s = false)) : Bool) = true ∧
    (let t : Instant := t0; let pt : TwPort := .a; let s : State := { up with twa.acc := [1], twa.inOpen := true, twa.held := true }; decide ((twLive s = true)) : Bool) = true ∧
    (let t : Instant := t0; let pt : TwPort := .a; let s : State := { up with twa.mbCount := 128, twa.acc := List.replicate 24 5 }; let n : ℕ := 128; decide ((twLive s = true) ∧ (twHolds (getTw s pt) = false) ∧ (n = (getTw s pt).mbCount.toNat) ∧ (4 ≤ n) ∧ (n ≤ 128) ∧ (n % 4 = 0)) : Bool) = true ∧
    (let t : Instant := t0; let pt : TwPort := .b; let s : State := { up with twb.mbCount := 4 }; let n : ℕ := 4; decide ((twLive s = true) ∧ (twHolds (getTw s pt) = false) ∧ (n = (getTw s pt).mbCount.toNat) ∧ (4 ≤ n) ∧ (n ≤ 128) ∧ (n % 4 = 0)) : Bool) = true ∧
    (let t : Instant := t0; let pt : TwPort := .a; let s : State := { up with twa.held := true, twa.mbCount := 4 }; decide ((twLive s = true) ∧ (twHolds (getTw s pt) = true)) : Bool) = true ∧
    (let t : Instant := t0; let pt : TwPort := .a; let s : State := { up with twa.mbCount := 5 }; decide ((twLive s = true) ∧ (twHolds (getTw s pt) = false) ∧ ((getTw s pt).mbCount.toNat % 4 ≠ 0 ∨ (getTw s pt).mbCount.toNat < 4 ∨ 128 < (getTw s pt).mbCount.toNat)) : Bool) = true ∧
    (let t : Instant := t0; let pt : TwPort := .a; let s : State := up; decide ((twLive s = true) ∧ ((getTw s pt).replyReady = false)) : Bool) = true ∧
    (let t : Instant := t0; let pt : TwPort := .a; let s : State := { up with twa.replyReady := true }; decide ((twLive s = true) ∧ ((getTw s pt).replyReady = true) ∧ ((getTw s pt).replyRest = [])) : Bool) = true ∧
    (let t : Instant := t0; let pt : TwPort := .a; let s : State := { up with twa.replyReady := true, twa.replyRest := [1, 2, 3, 4] }; decide ((twLive s = true) ∧ ((getTw s pt).replyReady = true) ∧ ((getTw s pt).replyRest ≠ [])) : Bool) = true ∧
    (let bs : List Byte := List.replicate 97 1; let x : TwPortState := {}; decide ((96 < bs.length)) : Bool) = true ∧
    (let bs : List Byte := List.replicate 96 1; let x : TwPortState := {}; decide ((bs.length ≤ 96)) : Bool) = true := by
  and_intros <;> decide +kernel

/-- What TwoWireBusEventsAndTransfers assumes is met, clause by clause. -/
theorem witness_TwoWireBusEventsAndTransfers :
    (let t : Instant := t0; let pt : TwPort := .a; let a : Byte := 0xA1; let n : ℕ := 50; let s : State := { up with twa.cfg.taddr := 0x50 }; decide ((twPasses s pt n = true) ∧ (twAnswers s pt = true) ∧ (fld a 1 7 = twAddr s pt) ∧ (s.power.phase ≠ .stow) ∧ ((getTw s pt).bus = none) ∧ ((getTw s pt).transfer = none) ∧ (bitAt s.power.wakeTw (twNo pt) = false)) : Bool) = true ∧
    (let t : Instant := t0; let pt : TwPort := .a; let a : Byte := 0xA3; let n : ℕ := 50; let s : State := { up with twa.cfg.taddr := 0x50 }; decide ((pinsChained s = false) ∧ (twPasses s pt n = true) ∧ (fld a 1 7 ≠ twAddr s pt) ∧ ((getTw s pt).bus = none)) : Bool) = true ∧
    (let t : Instant := t0; let pt : TwPort := .a; let a : Byte := 0xA0; let n : ℕ := 50; let s : State := { up with twa.cfg.taddr := 0x50, power.phase := .stow, power.wakeTw := 1 }; decide ((twPasses s pt n = true) ∧ (twAnswers s pt = true) ∧ (fld a 1 7 = twAddr s pt) ∧ (s.power.phase = .stow) ∧ ((getTw s pt).bus = none)) : Bool) = true ∧
    (let t : Instant := t0; let pt : TwPort := .a; let a : Byte := 0xA3; let n : ℕ := 50; let s : State := { up with twa.bus := some ⟨true, true, true⟩, rst.asserted := [.bureau] }; let b : TwTransaction := ⟨true, true, true⟩; decide ((pinsChained s = false) ∧ (twPasses s pt n = true) ∧ ((getTw s pt).bus = some b) ∧ (b.addressed = true) ∧ ((getTw s pt).transfer = none) ∧ (twAnswers s pt = false)) : Bool) = true ∧
    (let t : Instant := t0; let pt : TwPort := .a; let n : ℕ := 50; let s : State := { up with twa.bus := some ⟨true, true, true⟩ }; let b : TwTransaction := ⟨true, true, true⟩; decide ((pinsChained s = false) ∧ (twPasses s pt n = true) ∧ ((getTw s pt).bus = some b) ∧ (b.addressed = true)) : Bool) = true ∧
    (let t : Instant := t0; let pt : TwPort := .a; let n : ℕ := 50; let s : State := up; decide ((pinsChained s = false) ∧ (twPasses s pt n = true)) : Bool) = true ∧
    (let t : Instant := t0; let pt : TwPort := .a; let a : Byte := 0xA1; let e : BusEdge := ⟨false, 49⟩; let s : State := up; decide ((twPasses s pt e.lasts = false ∨ pinsChained s = true)) : Bool) = true ∧
    (let t : Instant := t0; let pt : TwPort := .a; let s : State := { up with twa.bus := some ⟨true, true, true⟩ }; let b : TwTransaction := ⟨true, true, true⟩; decide ((pinsChained s = false) ∧ ((getTw s pt).bus = some b) ∧ (b.addressed = true)) : Bool) = true ∧
    (let t : Instant := t0; let pt : TwPort := .a; let bs : List Byte := [1, 2]; let s : State := { up with rst.asserted := [.bureau] }; decide ((twAnswers s pt = false)) : Bool) = true ∧
    (let t : Instant := t0; let pt : TwPort := .a; let a : Byte := 0x8F; let b : Byte := 7; let s : State := { up with twa.cfg.taddr := 0x50, twa.bus := some ⟨true, false, true⟩ }; decide ((twAnswers s pt = true) ∧ ((getTw s pt).bus = some ⟨true, false, true⟩) ∧ (0x10 ≤ a.toNat) ∧ (a.toNat < 0x90) ∧ (twHolds (getTw s pt) = false)) : Bool) = true ∧
    (let t : Instant := t0; let pt : TwPort := .a; let a : Byte := 0x8F; let b : Byte := 7; let s : State := { up with twa.cfg.taddr := 0x50, twa.bus := some ⟨true, false, true⟩, twa.held := true }; decide ((twAnswers s pt = true) ∧ ((getTw s pt).bus = some ⟨true, false, true⟩) ∧ (0x10 ≤ a.toNat) ∧ (a.toNat < 0x90) ∧ (twHolds (getTw s pt) = true)) : Bool) = true ∧
    (let t : Instant := t0; let pt : TwPort := .a; let a : Byte := 0x0F; let b : Byte := 7; let s : State := { up with twa.cfg.taddr := 0x50, twa.bus := some ⟨true, false, true⟩ }; decide ((twAnswers s pt = true) ∧ ((getTw s pt).bus = some ⟨true, false, true⟩) ∧ (a.toNat < 8 ∨ (9 < a.toNat ∧ a.toNat < 0x10) ∨ 0x90 ≤ a.toNat)) : Bool) = true ∧
    (let t : Instant := t0; let pt : TwPort := .a; let b : Byte := 0x80; let s : State := { up with twa.cfg.taddr := 0x50, twa.bus := some ⟨true, false, true⟩ }; decide ((twAnswers s pt = true) ∧ ((getTw s pt).bus = some ⟨true, false, true⟩)) : Bool) = true ∧
    (let pt : TwPort := .a; let b : Byte := 0x80; let s : State := up; decide ((b = 0x80)) : Bool) = true ∧
    (let pt : TwPort := .a; let b : Byte := 0x40; let s : State := up; decide ((b = 0x40)) : Bool) = true ∧
    (let pt : TwPort := .a; let b : Byte := 1; let s : State := up; decide ((b = 1)) : Bool) = true ∧
    (let pt : TwPort := .a; let b : Byte := 2; let s : State := up; decide ((b = 2)) : Bool) = true ∧
    (let t : Instant := t0; let pt : TwPort := .a; let b : Byte := 7; let s : State := { up with twa.cfg.taddr := 0x50, twa.bus := some ⟨true, false, true⟩ }; decide ((twAnswers s pt = true) ∧ ((getTw s pt).bus = some ⟨true, false, true⟩)) : Bool) = true ∧
    (let t : Instant := t0; let pt : TwPort := .a; let s : State := { up with twa.cfg.taddr := 0x50, twa.bus := some ⟨true, true, true⟩ }; decide ((twAnswers s pt = true) ∧ ((getTw s pt).bus = some ⟨true, true, true⟩) ∧ ((getTw s pt).pointer = 0)) : Bool) = true ∧
    (let t : Instant := t0; let pt : TwPort := .a; let s : State := { up with twa.cfg.taddr := 0x50, twa.bus := some ⟨true, true, true⟩, twa.pointer := 0x0A, twa.mbErr := 3 }; decide ((twAnswers s pt = true) ∧ ((getTw s pt).bus = some ⟨true, true, true⟩) ∧ ((getTw s pt).pointer = 0x0A)) : Bool) = true ∧
    (let t : Instant := t0; let pt : TwPort := .a; let n : ℕ := 3; let s : State := { up with rst.asserted := [.bureau] }; decide ((twAnswers s pt = false)) : Bool) = true ∧
    (let s : State := up; let pt : TwPort := .a; let i := 7; decide ((i < 8)) : Bool) = true ∧
    (let s : State := up; let pt : TwPort := .a; let i := 127; decide ((i < 128)) : Bool) = true ∧
    (let s : State := up; let pt : TwPort := .a; let i := 95; decide ((i < 96)) : Bool) = true ∧
    (let t : Instant := t0; let s : State := up; decide ((s.rst.asserted.contains .bureau = false) ∧ (s.power.phase ≠ .stow)) : Bool) = true ∧
    (let t : Instant := ⟨0, 32000000000⟩; let pt : TwPort := .a; let s : State := { up with twa.cfg.ibrEn := true, twa.ibrPending := true, twa.replyReady := true }; decide ((twLive s = true) ∧ (ibrAllowed (getTw s pt) = true) ∧ (ibrOwed s pt = true) ∧ (busQuiet (setNow t s) (getTw s pt) = true)) : Bool) = true ∧
    (let t : Instant := t0; let pt : TwPort := .a; let s : State := up; decide (((getTw s pt).cfg.ibrEn = false)) : Bool) = true ∧
    (let t : Instant := ⟨0, 32000000000⟩; let pt : TwPort := .a; let s : State := { up with twa.cfg.ibrEn := true, twa.replyReady := true, twa.ibrLast := some 0 }; let a : ℕ := 0; decide ((twLive s = true) ∧ (ibrAllowed (getTw s pt) = true) ∧ (ibrOwed s pt = false) ∧ ((getTw s pt).replyReady = true) ∧ ((getTw s pt).ibrLast = some a) ∧ (busQuiet (setNow t s) (getTw s pt) = true) ∧ (a + 16000000 * (getTw s pt).cfg.ibrRepeat.toNat ≤ (setNow t s).now.real)) : Bool) = true ∧
    (let t : Instant := t0; let pt : TwPort := .b; let ans : List (Option Byte) := [some 2]; let s : State := { up with twb.cfg.role := true, twb.cfg.cands := [⟨true, 0x50, 3, 1⟩] }; decide ((twLive s = true) ∧ ((getTw s pt).cfg.role = true) ∧ ((getTw s pt).bus = none) ∧ (transferring (getTw s pt) = false)) : Bool) = true ∧
    (let t : Instant := t0; let pt : TwPort := .b; let ans : List (Option Byte) := [some 2]; let s : State := { up with twb.cfg.role := true, twb.cfg.cands := [⟨true, 0x50, 3, 1⟩], twb.transfer := some ⟨0x50, false, [1], 2, 1, false, true⟩ }; decide ((twLive s = true) ∧ ((getTw s pt).cfg.role = true) ∧ ((getTw s pt).bus = none) ∧ (transferring (getTw s pt) = true)) : Bool) = true ∧
    (let pt : TwPort := .b; let ans : List (Option Byte) := []; let s : State := up; decide ((asking (getTw s pt) ans = [])) : Bool) = true ∧
    (let pt : TwPort := .b; let ans : List (Option Byte) := [some 2, some 1]; let s : State := { up with twb.cfg.cands := [⟨true, 0x50, 3, 1⟩, ⟨true, 0x51, 3, 1⟩] }; let i : ℕ := 1; let a : BitVec 7 := 0x51; let b : Byte := 1; decide ((asking (getTw s pt) ans = [(i, a, b)])) : Bool) = true ∧
    (let pt : TwPort := .b; let ans : List (Option Byte) := [some 2]; let s : State := { up with twb.cfg.cands := [⟨true, 0x50, 3, 1⟩] }; let c : TwCandidate := ⟨true, 0x50, 3, 1⟩; decide (((getTw s pt).cfg.cands = [c]) ∧ (c.valid = true)) : Bool) = true ∧
    (let t : Instant := ⟨0, 32000000000⟩; let pt : TwPort := .b; let s : State := { up with twb.transfer := some ⟨0x50, false, [1], 2, 1, true, false⟩ }; let x : TwTransfer := ⟨0x50, false, [1], 2, 1, true, false⟩; decide ((twLive s = true) ∧ ((getTw s pt).transfer = some x) ∧ (x.waits = true) ∧ (busQuiet (setNow t s) (getTw s pt) = true)) : Bool) = true ∧
    (let t : Instant := t0; let pt : TwPort := .b; let s : State := { up with twb.transfer := some ⟨0x50, false, [1], 2, 1, false, true⟩ }; let x : TwTransfer := ⟨0x50, false, [1], 2, 1, false, true⟩; let bs : List Byte := [3, 4]; decide ((twLive s = true) ∧ ((getTw s pt).transfer = some x) ∧ (x.waits = false) ∧ ((getTw s pt).bus = none) ∧ (x.started = true ∨ busQuiet (setNow t s) (getTw s pt) = true)) : Bool) = true ∧
    (let t : Instant := t0; let pt : TwPort := .b; let bs : List Byte := [3, 4]; let s : State := { up with twb.transfer := some ⟨0x50, false, [1], 2, 1, false, false⟩ }; let x : TwTransfer := ⟨0x50, false, [1], 2, 1, false, false⟩; decide (((getTw s pt).transfer = some x) ∧ (x.waits = false) ∧ (x.started = false) ∧ (busQuiet (setNow t s) (getTw s pt) = false)) : Bool) = true ∧
    (let t : Instant := t0; let pt : TwPort := .b; let r : TwResult := .done; let bs : List Byte := []; let s : State := { up with twb.transfer := some ⟨0x50, false, [1], 2, 1, false, true⟩, twb.bus := some ⟨true, true, true⟩ }; let x : TwTransfer := ⟨0x50, false, [1], 2, 1, false, true⟩; let b : TwTransaction := ⟨true, true, true⟩; decide ((twLive s = true) ∧ ((getTw s pt).transfer = some x) ∧ (x.waits = false) ∧ ((getTw s pt).bus = some b) ∧ (r = .done ∨ r = .addressNack ∨ r = .dataNack)) : Bool) = true ∧
    (let t : Instant := t0; let pt : TwPort := .b; let s : State := { up with twb.transfer := some ⟨0x50, false, [1], 2, 1, false, true⟩ }; let x : TwTransfer := ⟨0x50, false, [1], 2, 1, false, true⟩; decide ((twLive s = true) ∧ ((getTw s pt).transfer = some x) ∧ (x.waits = false)) : Bool) = true ∧
    (let t : Instant := t0; let pt : TwPort := .b; let s : State := { up with twb.transfer := some ⟨0x50, false, [1], 2, 3, false, true⟩ }; let x : TwTransfer := ⟨0x50, false, [1], 2, 3, false, true⟩; decide ((twLive s = true) ∧ ((getTw s pt).transfer = some x) ∧ (x.waits = false) ∧ (3 ≤ x.losses)) : Bool) = true ∧
    (let t : Instant := t0; let pt : TwPort := .b; let r : TwResult := .done; let bs : List Byte := []; let s : State := up; decide ((∀ x ∈ (getTw s pt).transfer, x.waits = true)) : Bool) = true ∧
    (let t : Instant := t0; let pt : TwPort := .b; let s : State := { up with twb.transfer := some ⟨0x50, false, [1], 2, 1, false, true⟩ }; let x : TwTransfer := ⟨0x50, false, [1], 2, 1, false, true⟩; decide ((twLive s = true) ∧ ((getTw s pt).transfer = some x) ∧ (x.waits = false) ∧ (x.losses < 3)) : Bool) = true ∧
    (let pt : TwPort := .b; let bs : List Byte := [3, 4]; let s : State := { up with twb.transfer := some ⟨0x50, false, [1], 2, 1, false, true⟩, bureau.executing := some (packetFor 0x0702 [] 1 0) }; let x : TwTransfer := ⟨0x50, false, [1], 2, 1, false, true⟩; let p : Packet := packetFor 0x0702 [] 1 0; decide (((getTw s pt).transfer = some x) ∧ ((getTw s pt).poll = none) ∧ (s.bureau.executing = some p) ∧ (pktOp p = 0x0702)) : Bool) = true ∧
    (let t : Instant := t0; let pt : TwPort := .b; let n : ℕ := 3; let s : State := up; decide ((twLive s = true) ∧ ((getTw s pt).cfg.role = true)) : Bool) = true ∧
    (let t : Instant := t0; let pt : TwPort := .b; let n : ℕ := 9; let s : State := up; decide ((twLive s = true) ∧ ((getTw s pt).cfg.role = true) ∧ (n ≠ 0) ∧ ((getTw s pt).transfer = none) ∧ ((getTw s pt).stuckRaised = false)) : Bool) = true ∧
    (let t : Instant := t0; let pt : TwPort := .a; let n : ℕ := 3; let f : Bool := true; let s : State := up; decide (((getTw s pt).cfg.role = false)) : Bool) = true := by
  and_intros <;> decide +kernel

/-- What TimerCommandsTicksAndEdges assumes is met, clause by clause. -/
theorem witness_TimerCommandsTicksAndEdges :
    (let t : Instant := t0; let s : State := cmdIn 0x0703 ((timerWords {}).set 0 0x7 ++ [0]) up; let n : ℕ := 7; (match taken t 0x0703 s with | some (p, s1) => (if (firstReserved (cmdOf p).words [0xFFF, 0x3FFFFF] = none) ∧ (n = fldN (par p 0) 0 3) then (let w : List Word := (overlay (cmdOf p).words (timerWords (s1.timers.chans.getD n {}) ++ [filtWord s1.timers.filt])); decide ((fldN (paramAt w 0) 8 3 ≠ 7) ∧ (fldN (paramAt w 0) 5 2 ≠ 3) ∧ (fldN (paramAt w 1) 20 2 ≠ 3) ∧ (bitAt (paramAt w 1) 10 = true → pinTaken s1 n (fld (paramAt w 1) 7 3) = false) ∧ (0x10000 ≤ (paramAt w 2).toNat) ∧ (bitAt (paramAt w 0) 7 = true → 2 ≤ (paramAt w 3).toNat) ∧ (bitAt (paramAt w 0) 11 = false) ∧ (chanHeld s1 n = false) ∧ ((chan s1 n).running = false))) else false) | _ => false) : Bool) = true ∧
    (let x : TimerChan := {}; let f : List (BitVec 4) := List.replicate 8 5; let ws : List Word := [1, 2, 3]; decide ((ws.length ≤ 3)) : Bool) = true ∧
    (let t : Instant := t0; let s : State := cmdIn 0x0703 ((timerWords {}).set 0 0x83 ++ [0]) ({ up with timers.chans := up.timers.chans.set 3 { running := true } }); let n : ℕ := 3; (match taken t 0x0703 s with | some (p, s1) => (if (firstReserved (cmdOf p).words [0xFFF, 0x3FFFFF] = none) ∧ (n = fldN (par p 0) 0 3) then (let w : List Word := (overlay (cmdOf p).words (timerWords (s1.timers.chans.getD n {}) ++ [filtWord s1.timers.filt])); decide ((fldN (paramAt w 0) 8 3 ≠ 7) ∧ (fldN (paramAt w 0) 5 2 ≠ 3) ∧ (fldN (paramAt w 1) 20 2 ≠ 3) ∧ (bitAt (paramAt w 1) 10 = true → pinTaken s1 n (fld (paramAt w 1) 7 3) = false) ∧ (0x10000 ≤ (paramAt w 2).toNat) ∧ (bitAt (paramAt w 0) 7 = true → 2 ≤ (paramAt w 3).toNat) ∧ (bitAt (paramAt w 0) 11 = false) ∧ (chanHeld s1 n = false) ∧ ((chan s1 n).running = true))) else false) | _ => false) : Bool) = true ∧
    (let t : Instant := t0; let s : State := cmdIn 0x0703 (((timerWords {}).set 0 0x707) ++ [0]) up; (match taken t 0x0703 s with | some (p, s1) => (if (firstReserved (cmdOf p).words [0xFFF, 0x3FFFFF] = none) then (let n : ℕ := fldN (par p 0) 0 3; (let w : List Word := (overlay (cmdOf p).words (timerWords (s1.timers.chans.getD n {}) ++ [filtWord s1.timers.filt])); decide ((fldN (paramAt w 0) 8 3 = 7 ∨ fldN (paramAt w 0) 5 2 = 3)))) else false) | _ => false) : Bool) = true ∧
    (let t : Instant := t0; let s : State := cmdIn 0x0703 (((timerWords {}).set 1 0x300000) ++ [0]) up; (match taken t 0x0703 s with | some (p, s1) => (if (firstReserved (cmdOf p).words [0xFFF, 0x3FFFFF] = none) then (let n : ℕ := fldN (par p 0) 0 3; (let w : List Word := (overlay (cmdOf p).words (timerWords (s1.timers.chans.getD n {}) ++ [filtWord s1.timers.filt])); decide ((fldN (paramAt w 0) 8 3 ≠ 7) ∧ (fldN (paramAt w 0) 5 2 ≠ 3) ∧ (fldN (paramAt w 1) 20 2 = 3 ∨ (bitAt (paramAt w 1) 10 = true ∧ pinTaken s1 n (fld (paramAt w 1) 7 3) = true))))) else false) | _ => false) : Bool) = true ∧
    (let t : Instant := t0; let s : State := cmdIn 0x0703 ((((timerWords {}).set 0 7).set 2 0xFFFF) ++ [0]) up; (match taken t 0x0703 s with | some (p, s1) => (if (firstReserved (cmdOf p).words [0xFFF, 0x3FFFFF] = none) then (let n : ℕ := fldN (par p 0) 0 3; (let w : List Word := (overlay (cmdOf p).words (timerWords (s1.timers.chans.getD n {}) ++ [filtWord s1.timers.filt])); decide ((fldN (paramAt w 0) 8 3 ≠ 7) ∧ (fldN (paramAt w 0) 5 2 ≠ 3) ∧ (fldN (paramAt w 1) 20 2 ≠ 3) ∧ (bitAt (paramAt w 1) 10 = false) ∧ ((paramAt w 2).toNat < 0x10000)))) else false) | _ => false) : Bool) = true ∧
    (let t : Instant := t0; let s : State := cmdIn 0x0703 ((((timerWords {}).set 0 0x87).set 3 1) ++ [0]) up; (match taken t 0x0703 s with | some (p, s1) => (if (firstReserved (cmdOf p).words [0xFFF, 0x3FFFFF] = none) then (let n : ℕ := fldN (par p 0) 0 3; (let w : List Word := (overlay (cmdOf p).words (timerWords (s1.timers.chans.getD n {}) ++ [filtWord s1.timers.filt])); decide ((fldN (paramAt w 0) 8 3 ≠ 7) ∧ (fldN (paramAt w 0) 5 2 ≠ 3) ∧ (fldN (paramAt w 1) 20 2 ≠ 3) ∧ (bitAt (paramAt w 1) 10 = false) ∧ (0x10000 ≤ (paramAt w 2).toNat) ∧ (bitAt (paramAt w 0) 7 = true) ∧ ((paramAt w 3).toNat < 2)))) else false) | _ => false) : Bool) = true ∧
    (let t : Instant := t0; let s : State := cmdIn 0x0703 (((timerWords {}).set 0 7) ++ [0]) ({ up with exposure.cfg.exposure.flkSrc := 2 }); (match taken t 0x0703 s with | some (p, s1) => (if (firstReserved (cmdOf p).words [0xFFF, 0x3FFFFF] = none) then (let n : ℕ := fldN (par p 0) 0 3; (let w : List Word := (overlay (cmdOf p).words (timerWords (s1.timers.chans.getD n {}) ++ [filtWord s1.timers.filt])); decide ((fldN (paramAt w 0) 8 3 ≠ 7) ∧ (fldN (paramAt w 0) 5 2 ≠ 3) ∧ (fldN (paramAt w 1) 20 2 ≠ 3) ∧ (bitAt (paramAt w 1) 10 = false) ∧ (0x10000 ≤ (paramAt w 2).toNat) ∧ (bitAt (paramAt w 0) 7 = true → 2 ≤ (paramAt w 3).toNat) ∧ (bitAt (paramAt w 0) 11 = false) ∧ (chanHeld s1 n = true)))) else false) | _ => false) : Bool) = true ∧
    (let t : Instant := t0; let s : State := cmdIn 0x0703 (((timerWords {}).set 0 0x807) ++ [0x11111111]) up; (match taken t 0x0703 s with | some (p, s1) => (if (firstReserved (cmdOf p).words [0xFFF, 0x3FFFFF] = none) then (let n : ℕ := fldN (par p 0) 0 3; (let w : List Word := (overlay (cmdOf p).words (timerWords (s1.timers.chans.getD n {}) ++ [filtWord s1.timers.filt])); (if (fldN (paramAt w 0) 8 3 ≠ 7) ∧ (fldN (paramAt w 0) 5 2 ≠ 3) ∧ (fldN (paramAt w 1) 20 2 ≠ 3) ∧ (bitAt (paramAt w 1) 10 = false) ∧ (0x10000 ≤ (paramAt w 2).toNat) ∧ (bitAt (paramAt w 0) 7 = true → 2 ≤ (paramAt w 3).toNat) ∧ (bitAt (paramAt w 0) 11 = true) then (match filtOf (paramAt w 6) with | some f => decide ((chanHeld s1 n = false) ∧ (captureStopped s1 = true) ∧ (((List.range 8).any fun d => (chan s1 d).running) = false)) | _ => false) else false))) else false) | _ => false) : Bool) = true ∧
    (let t : Instant := t0; let s : State := cmdIn 0x0704 [0x3F008001, 5, 6, 2] ({ up with timers.chans := up.timers.chans.set 7 { cfg := { mode := true } } }); (match taken t 0x0704 s with | some (p, s1) => (if (firstReserved (cmdOf p).words [0x3FFFFFFF] = none) ∧ (fldN (par p 0) 0 8 &&& fldN (par p 0) 8 8 = 0) then (let ld : BitVec 3 := fld (par p 0) 27 3; decide ((mainsHoldsTmr7 s1 = true → fldN (par p 0) 0 8 ||| fldN (par p 0) 8 8 ||| fldN (par p 0) 16 8 < 128 ∧ (ld = 0 ∨ fldN (par p 0) 24 3 ≠ 7)) ∧ ((bitAt ld 2 && (chan s1 (fldN (par p 0) 24 3)).cfg.mode && decide ((par p 3).toNat < 2)) = false))) else false) | _ => false) : Bool) = true ∧
    (let t : Instant := t0; let s : State := cmdIn 0x0704 [0x101] up; (match taken t 0x0704 s with | some (p, s1) => decide ((firstReserved (cmdOf p).words [0x3FFFFFFF] = none) ∧ (fldN (par p 0) 0 8 &&& fldN (par p 0) 8 8 ≠ 0)) | _ => false) : Bool) = true ∧
    (let t : Instant := t0; let s : State := cmdIn 0x0704 [0x27000000, 5, 6, 1] ({ up with timers.chans := up.timers.chans.set 7 { cfg := { mode := true } } }); (match taken t 0x0704 s with | some (p, s1) => decide ((firstReserved (cmdOf p).words [0x3FFFFFFF] = none) ∧ (fldN (par p 0) 0 8 &&& fldN (par p 0) 8 8 = 0) ∧ (bitAt (par p 0) 29 = true) ∧ ((chan s1 (fldN (par p 0) 24 3)).cfg.mode = true) ∧ ((par p 3).toNat < 2)) | _ => false) : Bool) = true ∧
    (let t : Instant := t0; let s : State := cmdIn 0x0704 [0x80, 5, 6, 2] ({ up with exposure.cfg.exposure.flkSrc := 2 }); (match taken t 0x0704 s with | some (p, s1) => decide ((firstReserved (cmdOf p).words [0x3FFFFFFF] = none) ∧ (fldN (par p 0) 0 8 &&& fldN (par p 0) 8 8 = 0) ∧ (bitAt (par p 0) 29 = false) ∧ (mainsHoldsTmr7 s1 = true) ∧ (bitAt (par p 0) 7 = true)) | _ => false) : Bool) = true ∧
    (let us : ℕ := 5; let start : Bool := true; let clear : Bool := true; let stop : Bool := true; let x : TimerChan := { count := 7 }; (let y : TimerChan := goChan us stop clear start x; true) : Bool) = true ∧
    (let us : ℕ := 5; let start : Bool := true; let clear : Bool := true; let stop : Bool := true; let x : TimerChan := { count := 7 }; (let y : TimerChan := goChan us stop clear start x; decide ((start = true) ∧ (x.running = false))) : Bool) = true ∧
    (let t : Instant := t0; let s : State := cmdIn 0x0705 [0xFFFF] up; (match taken t 0x0705 s with | some (p, s1) => decide ((firstReserved (cmdOf p).words [0xFFFF] = none) ∧ (mainsHoldsTmr7 s1 = true → bitAt (par p 0) 15 = false ∨ bitAt (par p 0) 7 = false)) | _ => false) : Bool) = true ∧
    (let t : Instant := t0; let s : State := cmdIn 0x0705 [0x80FF] ({ up with exposure.cfg.exposure.flkSrc := 2 }); (match taken t 0x0705 s with | some (p, s1) => decide ((firstReserved (cmdOf p).words [0xFFFF] = none) ∧ (mainsHoldsTmr7 s1 = true) ∧ (bitAt (par p 0) 15 = true) ∧ (bitAt (par p 0) 7 = true)) | _ => false) : Bool) = true ∧
    (let t : Instant := t0; let ch : Fin 8 := 3; let s : State := up; decide (((chan s ch.val).running = false)) : Bool) = true ∧
    (let t : Instant := t0; let ch : Fin 8 := 3; let s : State := up; (let x : TimerChan := (edgeBase (setNow t s) ch.val).1; decide (((chanAs s ch.val x).running = false ∨ s.power.phase = .stow ∨ sourceLives (setNow t s) (chanAs s ch.val x) = false))) : Bool) = true ∧
    (let t : Instant := t0; let ch : Fin 8 := 3; let s : State := { up with timers.chans := up.timers.chans.set 3 { running := true } }; (let x : TimerChan := (edgeBase (setNow t s) ch.val).1; decide (((chanAs s ch.val x).running = true) ∧ (s.power.phase ≠ .stow) ∧ (sourceLives (setNow t s) (chanAs s ch.val x) = true))) : Bool) = true ∧
    (let c : ℕ := 3; let s : State := up; decide ((c < s.timers.chans.length) ∧ (s.timers.edges.length = s.timers.chans.length)) : Bool) = true ∧
    (let c : ℕ := 3; let d : ℕ := 7; let a : TimerAct := .sync; let x : TimerChan := {}; let s : State := up; decide ((c ≠ d)) : Bool) = true ∧
    (let g : TimerCfg := {}; let pre : ℕ := 0x10001; let x : TimerChan := {}; decide ((x.phaseAcc + 65536 < pre)) : Bool) = true ∧
    (let g : TimerCfg := {}; let pre : ℕ := 0x10000; let x : TimerChan := {}; decide ((pre ≤ x.phaseAcc + 65536)) : Bool) = true ∧
    (let g : TimerCfg := { mode := true }; let x : TimerChan := { count := 998 }; decide ((g.mode = true) ∧ (x.count.toNat + 1 < x.period.toNat)) : Bool) = true ∧
    (let g : TimerCfg := { mode := true }; let x : TimerChan := { count := 999 }; decide ((g.mode = true) ∧ (x.count.toNat + 1 = x.period.toNat)) : Bool) = true ∧
    (let g : TimerCfg := { mode := true }; let x : TimerChan := { count := 1000 }; decide ((g.mode = true) ∧ (x.period.toNat ≤ x.count.toNat)) : Bool) = true ∧
    (let g : TimerCfg := {}; let x : TimerChan := { count := 0xFFFFFFFF }; decide ((g.mode = false)) : Bool) = true ∧
    (let t : Instant := t0; let ch : Fin 8 := 3; let s : State := { up with exposure.phase := .running, timers.chans := up.timers.chans.set 3 { running := true, cfg := { sync := 1 } } }; decide (((chan s ch.val).running = true) ∧ ((chan s ch.val).cfg.sync = 1 ∨ (chan s ch.val).cfg.sync = 2) ∧ (captureStopped s = false)) : Bool) = true ∧
    (let t : Instant := t0; let ch : Fin 8 := 3; let s : State := { up with exposure.phase := .running, timers.chans := up.timers.chans.set 3 { running := true, cfg := { capSrc := 2 } } }; decide (((chan s ch.val).running = true) ∧ ((chan s ch.val).cfg.capSrc = 2 ∨ (chan s ch.val).cfg.capSrc = 3) ∧ (captureStopped s = false)) : Bool) = true ∧
    (let g : TimerCfg := {}; let x : TimerChan := { captures := [1, 2, 3], count := 7 }; decide ((g.sync ≠ 3) ∧ (x.captures.length < 4)) : Bool) = true ∧
    (let g : TimerCfg := {}; let x : TimerChan := { captures := [1, 2, 3, 4], count := 7 }; decide ((g.sync ≠ 3) ∧ (4 ≤ x.captures.length)) : Bool) = true ∧
    (let g : TimerCfg := { sync := 3 }; let x : TimerChan := { captures := [1, 2, 3], count := 7 }; decide ((g.sync = 3) ∧ (x.captures.length < 4)) : Bool) = true ∧
    (let t : Instant := t0; let pin : Fin 8 := 7; let level : PinLevel := ⟨false, 10⟩; let s : State := up; decide ((pinsChained s = true ∨ s.power.phase = .stow ∨ edgeQualified s pin.val (setNow t s).now.tclk level = false)) : Bool) = true ∧
    (let s : State := up; let p : ℕ := 7; let e : ℕ := 0; let x : PinLevel := ⟨true, 9⟩; decide ((x.samples < (s.timers.filt.getD p 10).toNat ∨ s.timers.level.getD p false = x.level)) : Bool) = true ∧
    (let t : Instant := t0; let pin : Fin 8 := 7; let level : PinLevel := ⟨true, 10⟩; let s : State := up; decide ((pinsChained s = false) ∧ (s.power.phase ≠ .stow) ∧ (edgeQualified s pin.val (setNow t s).now.tclk level = true)) : Bool) = true := by
  and_intros <;> decide +kernel

/-- What MonitorConverterCommandsAndResults assumes is met, clause by clause. -/
theorem witness_MonitorConverterCommandsAndResults :
    (let t : Instant := t0; let s : State := cmdIn 0x0706 (0x9011 :: 5 :: (List.replicate 16 0x30000001)) up 2; let b : Bool := true; (match taken t 0x0706 s with | some (p, s1) => (if (firstReserved (cmdOf p).words ([0xDFFD, 0xFFFFFF] ++ List.replicate 16 0xFFFFC0FF) = none) ∧ (b = bitAt (par p 0) 0) then (let es : List McvEntry := (List.range 16).map (fun i => mcvEntryOf (par p (2 + i))); decide ((es.findIdx? (mcvEntryBad b) = none) ∧ (1 ≤ fldN (par p 0) 8 5) ∧ (fldN (par p 0) 8 5 ≤ 16) ∧ (1 ≤ fldN (par p 0) 4 4) ∧ (fldN (par p 0) 4 4 ≤ 8) ∧ (fldN (par p 0) 2 2 ≠ 3) ∧ (fldN (par p 0) 2 2 = 2 → s1.exposure.cfg.exposure.flkSrc = 2) ∧ (bitAt (par p 0) 14 = true → bitAt (par p 0) 15 = true) ∧ (s1.mcv.a.run = false) ∧ (s1.mcv.b.run = false) ∧ (calibrating s1.mcv b = false))) else false) | _ => false) : Bool) = true ∧
    (let t : Instant := t0; let s : State := cmdIn 0x0706 (0x5011 :: 5 :: (List.replicate 16 0x30000001)) up 2; (match taken t 0x0706 s with | some (p, s1) => decide ((firstReserved (cmdOf p).words ([0xDFFD, 0xFFFFFF] ++ List.replicate 16 0xFFFFC0FF) = none) ∧ (bitAt (par p 0) 14 = true) ∧ (bitAt (par p 0) 15 = false)) | _ => false) : Bool) = true ∧
    (let t : Instant := t0; let s : State := cmdIn 0x0706 (0x9011 :: 5 :: (List.replicate 16 0x30000000)) up 2; (match taken t 0x0706 s with | some (p, s1) => (if (firstReserved (cmdOf p).words ([0xDFFD, 0xFFFFFF] ++ List.replicate 16 0xFFFFC0FF) = none) then (let b : Bool := bitAt (par p 0) 0; (let es : List McvEntry := (List.range 16).map (fun i => mcvEntryOf (par p (2 + i))); (if (1 ≤ fldN (par p 0) 8 5) ∧ (fldN (par p 0) 8 5 ≤ 16) ∧ (1 ≤ fldN (par p 0) 4 4) ∧ (fldN (par p 0) 4 4 ≤ 8) ∧ (fldN (par p 0) 2 2 ≤ 1) ∧ (bitAt (par p 0) 15 = true) then (match es.findIdx? (mcvEntryBad b) with | some i => true | _ => false) else false))) else false) | _ => false) : Bool) = true ∧
    (let t : Instant := t0; let s : State := cmdIn 0x0706 (0x9011 :: 5 :: (List.replicate 16 0x30000002)) ({ up with mcv.b.run := true }) 2; (match taken t 0x0706 s with | some (p, s1) => (if (firstReserved (cmdOf p).words ([0xDFFD, 0xFFFFFF] ++ List.replicate 16 0xFFFFC0FF) = none) then (let b : Bool := bitAt (par p 0) 0; (let es : List McvEntry := (List.range 16).map (fun i => mcvEntryOf (par p (2 + i))); decide ((1 ≤ fldN (par p 0) 8 5) ∧ (fldN (par p 0) 8 5 ≤ 16) ∧ (1 ≤ fldN (par p 0) 4 4) ∧ (fldN (par p 0) 4 4 ≤ 8) ∧ (fldN (par p 0) 2 2 ≤ 1) ∧ (bitAt (par p 0) 15 = true) ∧ (es.findIdx? (mcvEntryBad b) = none) ∧ (es ≠ (conv s1.mcv b).entries) ∧ ((conv s1.mcv b).run = true)))) else false) | _ => false) : Bool) = true ∧
    (let t : Instant := t0; let s : State := cmdIn 0x0706 (0x9011 :: 5 :: (List.replicate 16 0x30000001)) ({ up with mcv.cal := some { mask := 2, channel := 0, full := true, store := false, vfs := 0 } }) 2; (match taken t 0x0706 s with | some (p, s1) => (if (firstReserved (cmdOf p).words ([0xDFFD, 0xFFFFFF] ++ List.replicate 16 0xFFFFC0FF) = none) then (let b : Bool := bitAt (par p 0) 0; (let es : List McvEntry := (List.range 16).map (fun i => mcvEntryOf (par p (2 + i))); decide ((1 ≤ fldN (par p 0) 8 5) ∧ (fldN (par p 0) 8 5 ≤ 16) ∧ (1 ≤ fldN (par p 0) 4 4) ∧ (fldN (par p 0) 4 4 ≤ 8) ∧ (fldN (par p 0) 2 2 ≤ 1) ∧ (bitAt (par p 0) 15 = true) ∧ (es.findIdx? (mcvEntryBad b) = none) ∧ (s1.mcv.a.run = false) ∧ (s1.mcv.b.run = false) ∧ (calibrating s1.mcv b = true)))) else false) | _ => false) : Bool) = true ∧
    (let t : Instant := t0; let s : State := cmdIn 0x0707 [0x80010003] up 2; (match taken t 0x0707 s with | some (p, s1) => decide ((firstReserved (cmdOf p).words [0xFFFF0003] = none)) | _ => false) : Bool) = true ∧
    (let t : Instant := t0; let s : State := cmdIn 0x0708 [0x00B02, 0] ({ up with mcv.refEn := true, mcv.refSettled := true }) 2; (match taken t 0x0708 s with | some (p, s1) => (if (firstReserved (cmdOf p).words [0xB1F03] = none) then (let ch : ℕ := fldN (par p 0) 8 5; decide ((ch ≤ 11) ∧ (fldN (par p 0) 0 2 ≠ 0) ∧ (fldN (par p 0) 16 2 = 0) ∧ (s1.mcv.a.run = false) ∧ (s1.mcv.b.run = false) ∧ (s1.mcv.refEn = true) ∧ (s1.mcv.refSettled = true) ∧ (s1.mcv.cal = none) ∧ (s1.mcv.calStore = none) ∧ (s1.nvm.txn = none))) else false) | _ => false) : Bool) = true ∧
    (let t : Instant := t0; let s : State := cmdIn 0x0708 [0x00C02, 0] up 2; (match taken t 0x0708 s with | some (p, s1) => (if (firstReserved (cmdOf p).words [0xB1F03] = none) then (let ch : ℕ := fldN (par p 0) 8 5; (let mask : BitVec 2 := fld (par p 0) 0 2; decide ((11 < ch ∨ mask = 0 ∨ 2 ≤ fldN (par p 0) 16 2)))) else false) | _ => false) : Bool) = true ∧
    (let t : Instant := t0; let s : State := cmdIn 0x0708 [0x10B02, 249999] up 2; (match taken t 0x0708 s with | some (p, s1) => (if (firstReserved (cmdOf p).words [0xB1F03] = none) then (let ch : ℕ := fldN (par p 0) 8 5; (let mask : BitVec 2 := fld (par p 0) 0 2; decide ((ch ≤ 11) ∧ (mask ≠ 0) ∧ (fldN (par p 0) 16 2 = 1) ∧ ((par p 1).toNat < 250000 ∨ 2500000 < (par p 1).toNat)))) else false) | _ => false) : Bool) = true ∧
    (let t : Instant := t0; let s : State := cmdIn 0x0708 [0x10B02, 250000] up 2; (match taken t 0x0708 s with | some (p, s1) => (if (firstReserved (cmdOf p).words [0xB1F03] = none) then (let ch : ℕ := fldN (par p 0) 8 5; (let mask : BitVec 2 := fld (par p 0) 0 2; decide ((ch ≤ 11) ∧ (mask ≠ 0) ∧ (fldN (par p 0) 16 2 = 1) ∧ (250000 ≤ (par p 1).toNat) ∧ ((par p 1).toNat ≤ 2500000) ∧ (lacksX0 s1.mcv mask ch = true)))) else false) | _ => false) : Bool) = true ∧
    (let t : Instant := t0; let s : State := cmdIn 0x0708 [0x10B02, 250000] ({ up with mcv.refEn := true, mcv.refSettled := true, mcv.x0 := [(35, 0)] }) 2; (match taken t 0x0708 s with | some (p, s1) => (if (firstReserved (cmdOf p).words [0xB1F03] = none) then (let ch : ℕ := fldN (par p 0) 8 5; (let mask : BitVec 2 := fld (par p 0) 0 2; decide ((ch ≤ 11) ∧ (mask ≠ 0) ∧ (fldN (par p 0) 16 2 = 1) ∧ (250000 ≤ (par p 1).toNat) ∧ ((par p 1).toNat ≤ 2500000) ∧ (lacksX0 s1.mcv mask ch = false) ∧ (gridRuns s1.mcv = false) ∧ (s1.mcv.refEn = true) ∧ (s1.mcv.refSettled = true) ∧ (s1.mcv.calStore = none) ∧ (s1.nvm.txn = none)))) else false) | _ => false) : Bool) = true ∧
    (let t : Instant := t0; let s : State := cmdIn 0x0708 [0x00B02, 0] ({ up with mcv.refEn := true }) 2; (match taken t 0x0708 s with | some (p, s1) => (if (firstReserved (cmdOf p).words [0xB1F03] = none) then (let ch : ℕ := fldN (par p 0) 8 5; (let mask : BitVec 2 := fld (par p 0) 0 2; decide ((ch ≤ 11) ∧ (mask ≠ 0) ∧ (fldN (par p 0) 16 2 = 0) ∧ (s1.mcv.a.run = false) ∧ (s1.mcv.b.run = false) ∧ (s1.mcv.refEn = true) ∧ (s1.mcv.refSettled = false ∨ s1.mcv.cal ≠ none ∨ s1.mcv.calStore ≠ none ∨ s1.nvm.txn ≠ none)))) else false) | _ => false) : Bool) = true ∧
    (let t : Instant := t0; let s : State := cmdIn 0x0708 [0x00B02, 0] up 2; (match taken t 0x0708 s with | some (p, s1) => decide ((firstReserved (cmdOf p).words [0xB1F03] = none) ∧ (fldN (par p 0) 8 5 ≤ 11) ∧ (fldN (par p 0) 0 2 ≠ 0) ∧ (fldN (par p 0) 16 2 = 0) ∧ (s1.mcv.refEn = false)) | _ => false) : Bool) = true ∧
    (let t : Instant := ⟨3000000, 32000000000⟩; let s : State := { up with mcv.a.run := true }; decide ((mcvLives s = true) ∧ (gridRuns s.mcv = true) ∧ (s.mcv.nextAt ≤ (setNow t s).now.tclk) ∧ (s.mcv.intSrc ≠ 2)) : Bool) = true ∧
    (let t : Instant := t0; let s : State := up; decide ((gridRuns s.mcv = false)) : Bool) = true ∧
    (let t : Instant := t0; let b : Bool := true; let raw : ℤ := 7; let o : Bool := false; let s : State := up; decide ((dueConversion (setNow t s) b = none)) : Bool) = true ∧
    (let t : Instant := t0; let b : Bool := false; let raw : ℤ := -100000; let s : State := { up with mcv.a.due := some ⟨16, 15, 0, false, 0, 0x40000000, false, 1, false⟩ }; let c : McvConversion := ⟨16, 15, 0, false, 0, 0x40000000, false, 1, false⟩; decide ((mcvLives s = true) ∧ (dueConversion (setNow t s) b = some c) ∧ (c.cal = false) ∧ (c.shared = false) ∧ ((conv s.mcv b).recovery = false) ∧ ((rawRange c.channel).1 ≤ raw) ∧ (raw ≤ (rawRange c.channel).2)) : Bool) = true ∧
    (let t : Instant := t0; let b : Bool := false; let raw : ℤ := -10000000000; let s : State := { up with mcv.a.due := some ⟨16, 15, 0, false, 0, 0x40000000, false, 1, false⟩ }; let c : McvConversion := ⟨16, 15, 0, false, 0, 0x40000000, false, 1, false⟩; (if (mcvLives s = true) ∧ (dueConversion (setNow t s) b = some c) ∧ (c.cal = false) ∧ ((conv s.mcv b).recovery = false) then (let g : ℤ × ℤ := rawRange c.channel; decide ((raw < g.1 ∨ g.2 < raw))) else false) : Bool) = true ∧
    (let g : ℤ × ℤ := (0, 10); let raw : ℤ := 11; let o : Bool := false; decide ((g.1 ≤ g.2) ∧ ((clipRaw g raw o).2 = true)) : Bool) = true ∧
    (let g : ℤ × ℤ := (0, 10); let raw : ℤ := 10; let o : Bool := false; decide ((g.1 ≤ g.2) ∧ ((clipRaw g raw o).2 = false)) : Bool) = true ∧
    (let b : Bool := false; let c : McvConversion := ⟨16, 15, 0, false, 0, 0x40000000, false, 1, false⟩; let y : ℤ := 5; let ov : Bool := false; let m : McvState := {}; decide (((m.afterB.all fun r => r.slot != c.slot || r.dest != c.dest) = true)) : Bool) = true ∧
    (let c : McvConversion := ⟨16, 15, 0, false, 0, 0x40000000, false, 1, false⟩; let d : McvConversion := ⟨16, 15, 0, false, 0, 0x40000000, false, 1, false⟩; let y : ℤ := 5; let z : ℤ := 6; let ov : Bool := false; let pv : Bool := true; let m : McvState := {}; decide ((c.dest < m.accs.length) ∧ (d.dest = c.dest) ∧ (d.slot = c.slot) ∧ (m.afterB = none)) : Bool) = true ∧
    (let t : Instant := t0; let b : Bool := false; let raw : ℤ := 5; let s : State := { up with mcv.a.due := some ⟨16, 15, 0, false, 0, 0x40000000, false, 1, false⟩, mcv.a.recovery := true }; let c : McvConversion := ⟨16, 15, 0, false, 0, 0x40000000, false, 1, false⟩; decide ((mcvLives s = true) ∧ (dueConversion (setNow t s) b = some c) ∧ (c.cal = false) ∧ ((conv s.mcv b).recovery = true)) : Bool) = true ∧
    (let b : Bool := true; let c : McvConversion := ⟨16, 15, 0, false, 0, 0x40000000, false, 1, false⟩; let s : State := { up with mcv.b.ovr := true }; decide (((conv s.mcv b).ovr = true)) : Bool) = true ∧
    (let y : ℤ := -0x80000000; let ov : Bool := true; let un : Bool := false; let a : McvAcc := {}; decide ((a.count ≠ 0xFFFFFFFF) ∧ (-0x80000000 ≤ y) ∧ (y < 0x80000000)) : Bool) = true ∧
    (let y : ℤ := 5; let ov : Bool := true; let un : Bool := false; let a : McvAcc := { count := 0xFFFFFFFF }; decide ((a.count = 0xFFFFFFFF)) : Bool) = true ∧
    (let t : Instant := ⟨3000000, 32000000000⟩; let s : State := { up with mcv.refEn := true }; decide ((mcvLives s = true) ∧ (s.mcv.refEn = true) ∧ (s.mcv.refAt + 160000000 ≤ (setNow t s).now.real)) : Bool) = true ∧
    (let t : Instant := t0; let s : State := up; decide ((s.mcv.refEn = false)) : Bool) = true ∧
    (let m : McvState := {}; let b : Bool := true; let channel : ℕ := 23; let dest : ℕ := 15; let entry : ℕ := 15; let shared : Bool := false; let cal : Bool := false; let x : ℤ := -100000; decide ((m.offsets = []) ∧ (m.gains = [])) : Bool) = true := by
  and_intros <;> decide +kernel

/-- What TestAccessPortFollowsItsController assumes is met, clause by clause. -/
theorem witness_TestAccessPortFollowsItsController :
    (let t : Instant := t0; let rising : Bool := true; let tms : Bool := true; let tdi : Bool := false; let s : State := up; (if (s.rst.phase ≠ .dead) then (let x : State := { setNow t s with tap := { s.tap with trstLow := false } }; true) else false) : Bool) = true ∧
    (let t : Instant := t0; let rising : Bool := true; let tms : Bool := true; let tdi : Bool := false; let s : State := up; decide ((s.rst.phase ≠ .dead)) : Bool) = true ∧
    (let t : Instant := t0; let e : TckEdge := ⟨true, true⟩; let tms : Bool := true; let tdi : Bool := false; let s : State := { up with rst.phase := .dead }; decide ((s.rst.phase = .dead)) : Bool) = true ∧
    (let t : Instant := t0; let s : State := up; decide ((pinsChained s = false)) : Bool) = true ∧
    (let t : Instant := t0; let s : State := { up with tap.ir := .extest }; decide ((s.pins.resetNLow = s.rst.resetNLow) ∧ (s.pins.pgood = s.rst.pgood)) : Bool) = true ∧
    (let t : Instant := t0; let s : State := { up with tap.ir := .extest, pins.resetNLow := true }; (if (pinsChained s = true) ∧ (s.pins.resetNLow = true) ∧ (s.rst.resetNLow = false) ∧ (s.pins.pgood = s.rst.pgood) then (let x : State := { setNow t s with tap := { s.tap with trstLow := true, phase := .testLogicReset, ir := .idcode, tdo := none }, rst := { s.rst with resetNLow := true } }; true) else false) : Bool) = true ∧
    (let s : State := { up with tap.ir := .clamp }; let one : Bool := true; decide ((pinsChained s = true)) : Bool) = true ∧
    (let s : State := { up with tap.ir := .highz }; let one : Bool := true; decide ((pinsChained s = true) ∧ (s.tap.ir = .highz)) : Bool) = true ∧
    (let s : State := { up with tap.ir := .clamp }; let one : Bool := true; decide ((pinsChained s = true) ∧ (s.tap.ir ≠ .highz)) : Bool) = true ∧
    (let s : State := up; decide ((pinsChained s = false)) : Bool) = true ∧
    (let tms : Bool := true; let tdi : Bool := false; let s : State := { up with tap.ir := .extest, tap.phase := .selectIr }; decide ((tapNext s.tap.phase tms = .testLogicReset)) : Bool) = true ∧
    (let tms : Bool := true; let tdi : Bool := false; let s : State := { up with tap.phase := .captureDr }; decide ((s.tap.phase = .captureDr) ∧ (s.tap.ir = .idcode)) : Bool) = true ∧
    (let tms : Bool := true; let tdi : Bool := false; let s : State := { up with tap.phase := .captureDr, tap.ir := .bypass }; decide ((s.tap.phase = .captureDr) ∧ (s.tap.ir = .bypass)) : Bool) = true ∧
    (let tms : Bool := true; let tdi : Bool := false; let s : State := { up with tap.phase := .captureDr, tap.ir := .extest }; decide ((s.tap.phase = .captureDr) ∧ (chainSelected s.tap.ir = true)) : Bool) = true ∧
    (let tms : Bool := true; let tdi : Bool := true; let s : State := { up with tap.phase := .shiftDr, tap.dr := [true, false] }; decide ((s.tap.phase = .shiftDr)) : Bool) = true ∧
    (let s : State := { up with tap.phase := .shiftDr, tap.dr := [true, false] }; decide ((s.tap.phase = .shiftDr)) : Bool) = true ∧
    (let s : State := up; decide ((s.tap.phase ≠ .shiftDr) ∧ (s.tap.phase ≠ .shiftIr)) : Bool) = true ∧
    (let s : State := { up with tap.phase := .updateDr, tap.ir := .extest, tap.dr := [true] }; decide ((s.tap.phase = .updateDr) ∧ (chainSelected s.tap.ir = true)) : Bool) = true ∧
    (let s : State := { up with tap.phase := .updateIr, tap.irShift := 15 }; decide ((s.tap.phase = .updateIr) ∧ (s.tap.irShift = 15)) : Bool) = true ∧
    (let s : State := up; decide ((s.tap.phase ≠ .updateIr)) : Bool) = true ∧
    (let tms : Bool := true; let tdi : Bool := true; let s : State := up; let u : State := tapFall s; decide ((u = tapRise tms tdi s ∨ u = tapFall s) ∧ (pinsChained s = false ∨ (s.pins.resetNLow = s.rst.resetNLow ∧ s.pins.pgood = s.rst.pgood))) : Bool) = true := by
  and_intros <;> decide +kernel

end Sys2Proof.Tests
end

section
/-! PROOFS. The bobbin instructions that change registers alone: what an issue leaves, the rules of predicates, masks,
comparisons, accumulators and rounding, and the statements about them (R224, R229, R230). -/
namespace Sys2Proof.Machine

/-! ### Issue of an instruction on the bobbin's own registers -/

/-- Changing bobbin n is writing the changed bobbin back. -/
theorem updBobbin_eq_putBobbin (n : Nat) (f : Bobbin → Bobbin) (s : State) :
    updBobbin n f s = putBobbin n (f (bobbin s n)) s := by
  have h : s.engines.bobbins.modify n f = s.engines.bobbins.set n (f (s.engines.bobbins.getD n {})) := by
    rcases lt_or_ge n s.engines.bobbins.length with hn | hn
    · rw [List.modify_eq_set_get _ hn, List.getD_eq_getElem _ _ hn, List.get_eq_getElem]
    · rw [List.modify_eq_self hn, List.set_eq_of_length_le hn]
  simp only [updBobbin, putBobbin, bobbin, h]

/-- An instruction whose meaning is `issueOwn` with the instruction's own word, issued now, changes its bobbin's registers
by `f` and steps its PC; nothing else changes. -/
theorem exec_of_issueOwn {i : Instr} {b : BobbinIssue} {w : Word} {f : Bobbin → Bobbin} {s : State} {n : Nat} {x : Bobbin}
    (h : issuing i s = some (n, x)) (hw : bobbinWord i = some (b, w)) (he : exec i s = issueOwn b w f s) :
    exec i s = .next (putBobbin n (nextPc (f x)) s) := by
  obtain ⟨b', w', hw', hclean, hissues, rfl, rfl⟩ := issues_of_issuing h
  obtain ⟨rfl, rfl⟩ := Prod.mk.inj (Option.some.inj (hw.symm.trans hw'))
  rw [he, issueOwn, issueWith_of_clean hissues hclean, updBobbin_eq_putBobbin]

section
variable {b : BobbinIssue} {s : State} {n : Nat} {x : Bobbin}

/-! ### Compare, select and predicate instructions (R230) -/

theorem exec_vcmp {pd : BitVec 3} {va vb : BitVec 5} {p : BitVec 3} {ty : BitVec 2} {cond : BitVec 3}
    (h : issuing (.vcmp b pd va vb p ty cond) s = some (n, x)) :
    exec (.vcmp b pd va vb p ty cond) s = .next (putBobbin n (nextPc (cmpTo pd.toNat (vReg x va.toNat) (vReg x vb.toNat)
      p.toNat ty.toNat cond.toNat x)) s) :=
  (exec_of_issueOwn h rfl rfl :)

theorem exec_vcmps {pd : BitVec 3} {va : BitVec 5} {sb : BitVec 4} {p : BitVec 3} {ty : BitVec 2} {cond : BitVec 3}
    (h : issuing (.vcmps b pd va sb p ty cond) s = some (n, x)) :
    exec (.vcmps b pd va sb p ty cond) s = .next (putBobbin n (nextPc (cmpTo pd.toNat (vReg x va.toNat)
      (broadcast (sReg x sb.toNat)) p.toNat ty.toNat cond.toNat x)) s) :=
  (exec_of_issueOwn h rfl rfl :)

theorem exec_vsel {vd va vb : BitVec 5} {pn : BitVec 3} (h : issuing (.vsel b vd va vb pn) s = some (n, x)) :
    exec (.vsel b vd va vb pn) s = .next (putBobbin n (nextPc (setV vd.toNat
      (byMask (pReg x pn.toNat) (lane (vReg x va.toNat)) (vReg x vb.toNat)) x)) s) :=
  (exec_of_issueOwn h rfl rfl :)

theorem exec_plog {pd pa pb op : BitVec 3} (h : issuing (.plog b pd pa pb op) s = some (n, x)) :
    exec (.plog b pd pa pb op) s = .next (putBobbin n (nextPc (setP pd.toNat
      (plogMask op.toNat (pReg x pa.toNat) (pReg x pb.toNat)) x)) s) :=
  (exec_of_issueOwn h rfl rfl :)

theorem exec_pxfer_toPred {sr : BitVec 4} {p : BitVec 3} (h : issuing (.pxfer b true sr p) s = some (n, x)) :
    exec (.pxfer b true sr p) s = .next (putBobbin n (nextPc (setP p.toNat (fld (sReg x sr.toNat) 0 16) x)) s) :=
  (exec_of_issueOwn h rfl rfl :)

theorem exec_pxfer_toScalar {sr : BitVec 4} {p : BitVec 3} (h : issuing (.pxfer b false sr p) s = some (n, x)) :
    exec (.pxfer b false sr p) s = .next (putBobbin n (nextPc (setS sr.toNat ((pReg x p.toNat).zeroExtend 32) x)) s) :=
  (exec_of_issueOwn h rfl rfl :)

/-! ### Multiply-accumulate instructions (R229) -/

theorem exec_vmul {ad : BitVec 2} {va vb : BitVec 5} {p : BitVec 3} {asg bsg : Bool} {op : BitVec 6}
    (h : issuing (.vmul b ad va vb p asg bsg op) s = some (n, x)) :
    exec (.vmul b ad va vb p asg bsg op) s = .next (putBobbin n (nextPc (macTo ad.toNat (vReg x va.toNat)
      (vReg x vb.toNat) p.toNat asg bsg op.toNat x)) s) :=
  (exec_of_issueOwn h rfl rfl :)

theorem exec_vmuls {ad : BitVec 2} {va : BitVec 5} {sb : BitVec 4} {p : BitVec 3} {asg bsg : Bool} {op : BitVec 6}
    (h : issuing (.vmuls b ad va sb p asg bsg op) s = some (n, x)) :
    exec (.vmuls b ad va sb p asg bsg op) s = .next (putBobbin n (nextPc (macTo ad.toNat (vReg x va.toNat)
      (broadcast (sReg x sb.toNat)) p.toNat asg bsg op.toNat x)) s) :=
  (exec_of_issueOwn h rfl rfl :)

theorem exec_aset {ad : BitVec 2} {va : BitVec 5} {zero signed : Bool} {shift : BitVec 5}
    (h : issuing (.aset b ad va zero signed shift) s = some (n, x)) :
    exec (.aset b ad va zero signed shift) s = .next (putBobbin n (nextPc (putAcc ad.toNat ((List.range 16).map fun i =>
      if zero then 0 else mulVal signed (lane (vReg x va.toNat) i) * 2 ^ shift.toNat) x)) s) :=
  (exec_of_issueOwn h rfl rfl :)

theorem exec_arnd {vd : BitVec 5} {aa : BitVec 2} {clear round s20 : Bool} {shift : BitVec 5}
    (h : issuing (.arnd b vd aa clear round s20 shift) s = some (n, x)) :
    exec (.arnd b vd aa clear round s20 shift) s = .next (putBobbin n (nextPc { x with
      v := x.v.set vd.toNat (vec fun i => arndLane round s20 shift.toNat ((aReg x aa.toNat).getD i 0))
      a := if clear then x.a.set aa.toNat (List.replicate 16 0) else x.a }) s) := by
  cases clear
  case false => exact (exec_of_issueOwn h rfl rfl :)
  case true => exact (exec_of_issueOwn h rfl rfl :)

end

/-! ### Predicate registers (R224) -/

@[simp] theorem pReg_zero (x : Bobbin) : pReg x 0 = 0xFFFF := rfl

@[simp] theorem setP_zero (m : BitVec 16) (x : Bobbin) : setP 0 m x = x := rfl

theorem setP_of_ne_zero {p : Nat} (hp : p ≠ 0) (m : BitVec 16) (x : Bobbin) : setP p m x = { x with p := x.p.set p m } :=
  if_neg hp

theorem pReg_setP_same {p : Nat} {x : Bobbin} (hp : p ≠ 0) (hlen : p < x.p.length) (m : BitVec 16) :
    pReg (setP p m x) p = m := by
  simp [setP_of_ne_zero hp, pReg, hp, hlen]

theorem pReg_setP_of_ne {p q : Nat} (hq : q ≠ p) (m : BitVec 16) (x : Bobbin) : pReg (setP p m x) q = pReg x q := by
  by_cases hp : p = 0
  · rw [hp, setP_zero]
  · simp [setP_of_ne_zero hp, pReg, List.getElem?_set_ne hq.symm]

/-! ### Masks, comparisons and predicate operations (R230) -/

theorem b2n_eq_toNat (b : Bool) : b2n b = b.toNat := by cases b <;> rfl

/-- A sum of bits times their powers of two is below the next power, and its binary digits are those bits. -/
theorem foldl_bits_spec (f : Nat → Bool) (n : Nat) :
    (List.range n).foldl (fun a i => a + b2n (f i) * 2 ^ i) 0 < 2 ^ n ∧
    ∀ i, ((List.range n).foldl (fun a i => a + b2n (f i) * 2 ^ i) 0).testBit i = (decide (i < n) && f i) := by
  induction n with
  | zero => simp
  | succ n ih =>
    obtain ⟨hlt, hbit⟩ := ih
    rw [List.range_succ, List.foldl_append, List.foldl_cons, List.foldl_nil]
    generalize (List.range n).foldl (fun a i => a + b2n (f i) * 2 ^ i) 0 = r at hlt hbit
    rw [b2n_eq_toNat, add_comm r, mul_comm (f n).toNat]
    constructor
    · have hle : 2 ^ n * (f n).toNat ≤ 2 ^ n * 1 := Nat.mul_le_mul_left _ (f n).toNat_le
      omega
    · intro i
      rw [Nat.testBit_two_pow_mul_add _ hlt, hbit, Nat.testBit_bool_toNat]
      rcases lt_trichotomy i n with h | rfl | h
      · simp [h, Nat.lt_succ_of_lt h]
      · simp
      · simp [show ¬ i < n by omega, show ¬ i < n + 1 by omega, show i - n ≠ 0 by omega]

theorem bitAt_maskOf (m : BitVec 16) (f : Nat → Bool) {i : Nat} (hi : i < 16) :
    bitAt (maskOf m f) i = (bitAt m i && f i) := by
  rw [maskOf, bitAt, BitVec.getLsbD_ofNat, (foldl_bits_spec (fun i => bitAt m i && f i) 16).2 i]
  simp [hi]

theorem plogMask_ops (a b : BitVec 16) : plogMask 0 a b = a &&& b ∧ plogMask 1 a b = a ||| b ∧ plogMask 2 a b = a ^^^ b ∧
    plogMask 3 a b = a &&& ~~~ b ∧ plogMask 4 a b = ~~~ a ∧ plogMask 5 a b = a :=
  ⟨rfl, rfl, rfl, rfl, rfl, rfl⟩

theorem cmpHolds_iff (a b : Int) : (cmpHolds 0 a b ↔ a = b) ∧ (cmpHolds 1 a b ↔ a ≠ b) ∧ (cmpHolds 2 a b ↔ a < b) ∧
    (cmpHolds 3 a b ↔ a ≤ b) ∧ (cmpHolds 4 a b ↔ b < a) ∧ (cmpHolds 5 a b ↔ b ≤ a) :=
  ⟨decide_eq_true_iff, decide_eq_true_iff, decide_eq_true_iff, decide_eq_true_iff, decide_eq_true_iff, decide_eq_true_iff⟩

/-- Settles O6: each instruction by its own rule, then the rules of the predicate registers, masks and comparisons. -/
theorem predicateInstructionsWriteTheirMask : Obligations.PredicateInstructionsWriteTheirMask :=
  ⟨fun _ _ _ _ _ _ _ _ _ _ => exec_vcmp,
    fun _ _ _ _ _ _ _ _ _ _ => exec_vcmps,
    fun _ _ _ _ _ _ _ _ => exec_plog,
    fun _ _ _ _ _ _ => exec_pxfer_toPred,
    fun m x => ⟨setP_zero m x, pReg_zero x⟩,
    fun _ m x hp hlen => ⟨pReg_setP_same hp hlen m, setP_of_ne_zero hp m x, fun _ hq => pReg_setP_of_ne hq m x⟩,
    fun m f _ hi => bitAt_maskOf m f hi,
    plogMask_ops,
    cmpHolds_iff,
    fun _ _ => rfl,
    fun _ _ _ _ _ _ _ _ => exec_vsel,
    fun _ _ _ _ _ _ => exec_pxfer_toScalar⟩

/-! ### Accumulators and rounding (R229) -/

theorem accClamp_eq (v : Int) : accClamp v = max (-(2 ^ 43 - 1)) (min (2 ^ 43 - 1) v) := rfl

/-- Saturation changes exactly the values beyond the limits. -/
theorem accClamp_ne_iff (v : Int) : accClamp v ≠ v ↔ v < -(2 ^ 43 - 1) ∨ 2 ^ 43 - 1 < v := by
  rw [accClamp_eq]
  omega

theorem putAcc_eq (a : Nat) (vs : List Int) (x : Bobbin) : putAcc a vs x = { x with
    a := x.a.set a (vs.map fun v => max (-(2 ^ 43 - 1)) (min (2 ^ 43 - 1) v))
    accSat := x.accSat || vs.any fun v => decide (v < -(2 ^ 43 - 1)) || decide (2 ^ 43 - 1 < v) } := by
  have hsat : (fun v => decide (accClamp v ≠ v)) = fun v : Int => decide (v < -(2 ^ 43 - 1)) || decide (2 ^ 43 - 1 < v) := by
    funext v
    rw [← Bool.decide_or]
    exact decide_eq_decide.2 (accClamp_ne_iff v)
  rw [putAcc, hsat, setA, funext accClamp_eq]

theorem macVal_ops (acc prod : Int) :
    macVal 0 acc prod = prod ∧ macVal 1 acc prod = acc + prod ∧ macVal 2 acc prod = acc - prod :=
  ⟨rfl, rfl, rfl⟩

/-- A number saturated to s20, read back as a signed lane (R228). -/
theorem toInt_satLane_signed (v : Int) : (satLane 1 v).toInt = max (-0x80000) (min 0x7FFFF v) := by
  have h : satLane 1 v = BitVec.ofInt 20 (max (-0x80000) (min 0x7FFFF v)) := rfl
  rw [h, BitVec.toInt_ofInt, Int.bmod_eq_of_le] <;> omega

/-- A number saturated to u20, read back as an unsigned lane (R228). -/
theorem toNat_satLane_unsigned (v : Int) : ((satLane 0 v).toNat : Int) = max 0 (min 0xFFFFF v) := by
  have h : satLane 0 v = BitVec.ofInt 20 (max 0 (min 0xFFFFF v)) := rfl
  rw [h, BitVec.toNat_ofInt]
  omega

theorem rshRound_zero (v : Int) : rshRound v 0 = v := rfl

theorem rshRound_of_pos {shift : Nat} (h : 1 ≤ shift) (v : Int) : rshRound v shift = (v + 2 ^ (shift - 1)) / 2 ^ shift :=
  if_neg (Nat.one_le_iff_ne_zero.1 h)

theorem arndLane_rounds (s20 : Bool) {shift : Nat} (h : 1 ≤ shift) (v : Int) :
    arndLane true s20 shift v = satLane (if s20 then 1 else 0) ((v + 2 ^ (shift - 1)) / 2 ^ shift) := by
  rw [← rshRound_of_pos h]; rfl

theorem arndLane_round_zero (s20 : Bool) (v : Int) : arndLane true s20 0 v = arndLane false s20 0 v := by
  simp [arndLane, rshRound_zero]

/-- Settles O7: each instruction by its own rule, then the rules of saturation and rounding. -/
theorem accumulatorInstructionsSaturate : Obligations.AccumulatorInstructionsSaturate :=
  ⟨fun _ _ _ _ _ _ _ _ _ _ _ => exec_vmul,
    fun _ _ _ _ _ _ _ _ _ _ _ => exec_vmuls,
    fun _ _ _ _ _ _ _ _ _ => exec_aset,
    fun _ _ _ _ _ _ _ _ _ _ => exec_arnd,
    putAcc_eq,
    macVal_ops,
    fun shift v => ⟨toInt_satLane_signed (v / 2 ^ shift), toNat_satLane_unsigned (v / 2 ^ shift)⟩,
    fun _ v hs => ⟨arndLane_rounds true hs v ▸ toInt_satLane_signed _, arndLane_rounds false hs v ▸ toNat_satLane_unsigned _⟩,
    arndLane_round_zero,
    fun _ => ⟨rfl, rfl⟩⟩

end Sys2Proof.Machine
end

section
/-! PROOFS. What every command leaves in order. Each function of the model that takes the state on keeps, beside what it changes, the
queue of waiting commands and the canonical form of each memory; one lemma for each, in the order of the model, and the statements
about a step that follow (R90, R17, R224, R408). -/
set_option Elab.async false
namespace Sys2Proof.Machine

/-! ### The queue of waiting commands and the canonical form of each memory -/

/-- A bobbin's two memories are in their canonical form. -/
def BobbinWf (x : Bobbin) : Prop := smWf zeroVec x.vmem = true ∧ smWf 0 x.smem = true

/-- `s` has the queue of `r`, and every kind of memory that is canonical in `r` is canonical in `s`. -/
structure Keeps (r s : State) : Prop where
  pending : s.pending = r.pending
  dram : Mem.wf r.dram → Mem.wf s.dram
  pillows : (∀ m ∈ r.engines.pillows, Mem.wf m) → ∀ m ∈ s.engines.pillows, Mem.wf m
  bobbins : (∀ x ∈ r.engines.bobbins, BobbinWf x) → ∀ x ∈ s.engines.bobbins, BobbinWf x
  cells : Mem.wf r.nvm.cells → Mem.wf s.nvm.cells

/-- A bobbin whose memories are canonical where those of every bobbin of `r` are. -/
def KeepsBobbin (r : State) (x : Bobbin) : Prop := (∀ y ∈ r.engines.bobbins, BobbinWf y) → BobbinWf x

/-- A meaning goes on, to a state that keeps what `r` has. -/
def KeepsNext (r : State) (a : Result) : Prop := ∃ u, a = .next u ∧ Keeps r u

section
variable {r s t : State}

theorem Keeps.refl (s : State) : Keeps s s := ⟨rfl, id, id, id, id⟩

/-- An update of the other parts of the state. -/
theorem Keeps.rest (h : Keeps r s) (pending : t.pending = s.pending := by rfl) (dram : t.dram = s.dram := by rfl)
    (pillows : t.engines.pillows = s.engines.pillows := by rfl) (bobbins : t.engines.bobbins = s.engines.bobbins := by rfl)
    (cells : t.nvm.cells = s.nvm.cells := by rfl) : Keeps r t :=
  ⟨pending ▸ h.pending, dram ▸ h.dram, pillows ▸ h.pillows, bobbins ▸ h.bobbins, cells ▸ h.cells⟩

theorem Keeps.next (h : Keeps r s) : KeepsNext r (.next s) := ⟨s, rfl, h⟩

theorem KeepsNext.next (h : Keeps r s) : KeepsNext r (.next s) := h.next

theorem Keeps.ite {c : Prop} [Decidable c] (h : Keeps r s) (h' : Keeps r t) : Keeps r (if c then s else t) := by
  split
  · exact h
  · exact h'

theorem Keeps.iteCmd {c : Prop} [Decidable c] {x y : CmdResult} (h : Keeps r x.state) (h' : Keeps r y.state) :
    Keeps r (if c then x else y).state := by
  split
  · exact h
  · exact h'

theorem Keeps.iteSnd {α : Type} {c : Prop} [Decidable c] {x y : α × State} (h : Keeps r x.2) (h' : Keeps r y.2) :
    Keeps r (if c then x else y).2 := by
  split
  · exact h
  · exact h'

theorem KeepsNext.ite {c : Prop} [Decidable c] {x y : Result} (h : KeepsNext r x) (h' : KeepsNext r y) :
    KeepsNext r (if c then x else y) := by
  split
  · exact h
  · exact h'

theorem Keeps.foldl {α : Type} {l : List α} {f : State → α → State} (h : Keeps r s)
    (hf : ∀ u, Keeps r u → ∀ a, Keeps r (f u a)) : Keeps r (l.foldl f s) := by
  induction l generalizing s with
  | nil => exact h
  | cons a l ih => exact ih (hf s h a)

theorem Keeps.foldlSnd {α β : Type} {l : List α} {f : β × State → α → β × State} {p : β × State} (h : Keeps r p.2)
    (hf : ∀ u, Keeps r u.2 → ∀ a, Keeps r (f u a).2) : Keeps r (l.foldl f p).2 := by
  induction l generalizing p with
  | nil => exact h
  | cons a l ih => exact ih (hf p h a)

theorem Keeps.foldlFst {α β : Type} {l : List α} {f : State × β → α → State × β} {p : State × β} (h : Keeps r p.1)
    (hf : ∀ u, Keeps r u.1 → ∀ a, Keeps r (f u a).1) : Keeps r (l.foldl f p).1 := by
  induction l generalizing p with
  | nil => exact h
  | cons a l ih => exact ih (hf p h a)

/-- The state of a pair that a pattern takes apart. -/
theorem Keeps.ofSnd {α : Type} {a : α} {p : α × State} (h : Keeps r p.2) (e : p = (a, s)) : Keeps r s := by
  rw [e] at h
  exact h

/-- An update of a bobbin's registers. -/
theorem KeepsBobbin.regs {x y : Bobbin} (h : KeepsBobbin r x) (vmem : y.vmem = x.vmem := by rfl) (smem : y.smem = x.smem := by rfl) :
    KeepsBobbin r y :=
  fun hr => ⟨vmem ▸ (h hr).1, smem ▸ (h hr).2⟩

theorem KeepsBobbin.ite {c : Prop} [Decidable c] {x y : Bobbin} (h : KeepsBobbin r x) (h' : KeepsBobbin r y) :
    KeepsBobbin r (if c then x else y) := by
  split
  · exact h
  · exact h'

/-- A bobbin that has stored nothing. -/
theorem KeepsBobbin.empty (r : State) : KeepsBobbin r {} := fun _ => ⟨rfl, rfl⟩

theorem Keeps.bobbin (h : Keeps r s) {n : Nat} : KeepsBobbin r (bobbin s n) := fun hr => by
  unfold Machine.bobbin
  rw [List.getD_eq_getElem?_getD]
  cases hn : s.engines.bobbins[n]? with
  | none => exact KeepsBobbin.empty r hr
  | some x => exact h.bobbins hr x (List.mem_of_getElem? hn)

theorem Keeps.updBobbin (h : Keeps r s) {n : Nat} {f : Bobbin → Bobbin} (hf : ∀ x, KeepsBobbin r x → KeepsBobbin r (f x)) :
    Keeps r (updBobbin n f s) := by
  refine { h with bobbins := fun hr x hx => ?_ }
  obtain ⟨i, hi, rfl⟩ := List.mem_iff_getElem.1 (show x ∈ s.engines.bobbins.modify n f from hx)
  rw [List.getElem_modify]
  split
  · exact hf _ (fun hr => h.bobbins hr _ (List.getElem_mem _)) hr
  · exact h.bobbins hr _ (List.getElem_mem _)

theorem Keeps.putBobbin (h : Keeps r s) {n : Nat} {x : Bobbin} (hx : KeepsBobbin r x) : Keeps r (putBobbin n x s) := by
  refine { h with bobbins := fun hr y hy => ?_ }
  rcases List.mem_or_eq_of_mem_set (show y ∈ s.engines.bobbins.set n x from hy) with hy | rfl
  · exact h.bobbins hr y hy
  · exact hx hr

theorem Keeps.putPillow (h : Keeps r s) {n : Nat} {f : Mem → Mem} (hf : ∀ m, Mem.wf m → Mem.wf (f m)) :
    Keeps r (putPillow n f s) := by
  refine { h with pillows := fun hr m hm => ?_ }
  obtain ⟨i, hi, rfl⟩ := List.mem_iff_getElem.1 (show m ∈ s.engines.pillows.modify n f from hm)
  rw [List.getElem_modify]
  split
  · exact hf _ (h.pillows hr _ (List.getElem_mem _))
  · exact h.pillows hr _ (List.getElem_mem _)

/-! A copy of a range within a memory. -/

theorem smWfFrom_filter_ge {α : Type} [DecidableEq α] {d : α} {m : List (Nat × α)} {lo b : Nat} {p : Nat × α → Bool}
    (h : smWfFrom d lo m = true) (hp : ∀ e, p e = true → b ≤ e.1) : smWfFrom d b (m.filter p) = true := by
  induction m generalizing lo with
  | nil => rfl
  | cons e m ih =>
    obtain ⟨k, v⟩ := e
    simp only [smWfFrom, Bool.and_eq_true, decide_eq_true_eq] at h
    rw [List.filter_cons]
    split
    · next hk => simp [smWfFrom, hp _ hk, h.1.2, smWfFrom_filter p h.2]
    · exact ih h.2

theorem smWfFrom_shift {α : Type} [DecidableEq α] {d : α} {m : List (Nat × α)} {src dst lo : Nat} (hlo : src ≤ lo)
    (h : smWfFrom d lo m = true) : smWfFrom d (lo - src + dst) (m.map fun e => (e.1 - src + dst, e.2)) = true := by
  induction m generalizing lo with
  | nil => rfl
  | cons e m ih =>
    obtain ⟨k, v⟩ := e
    simp only [smWfFrom, Bool.and_eq_true, decide_eq_true_eq] at h
    obtain ⟨⟨hk, hv⟩, hm⟩ := h
    simp only [List.map_cons, smWfFrom, Bool.and_eq_true, decide_eq_true_eq]
    exact ⟨⟨by omega, hv⟩, smWfFrom_mono (ih (by omega) hm) (by omega)⟩

/-- A copied range keeps the canonical form. -/
theorem smWf_copyRange {m : Mem} (src dst n : Nat) (h : Mem.wf m) : Mem.wf (copyRange src dst n m) := by
  have hmid : smWfFrom 0 dst ((m.filter fun c => src ≤ c.1 && c.1 < src + n).map fun c => (c.1 - src + dst, c.2)) = true := by
    have := smWfFrom_shift (dst := dst) le_rfl (smWfFrom_filter_ge (b := src) (p := fun c => src ≤ c.1 && c.1 < src + n) h
      (fun e he => by simp only [Bool.and_eq_true, decide_eq_true_eq] at he; exact he.1))
    rwa [Nat.sub_self, Nat.zero_add] at this
  refine smWfFrom_append (mid := dst + n) (smWfFrom_append (mid := dst) (smWfFrom_filter _ h) ?_ hmid (Nat.zero_le _)) ?_
    (smWfFrom_filter_ge h fun e he => by simpa using he) (Nat.zero_le _)
  · intro e he
    simpa using (List.mem_filter.1 he).2
  · intro e he
    rcases List.mem_append.1 he with he | he
    · have := (List.mem_filter.1 he).2
      simp only [decide_eq_true_eq] at this
      omega
    · obtain ⟨c, hc, rfl⟩ := List.mem_map.1 he
      have := (List.mem_filter.1 hc).2
      simp only [Bool.and_eq_true, decide_eq_true_eq] at this
      omega

end

/-! ### One lemma for each function of the model -/

section
variable {r s t : State}

/-! #### Machine/Ops.lean -/

theorem Keeps.setNow {t' : Instant} (h : Keeps r s) : Keeps r (setNow t' s) := h.rest

theorem Keeps.raise {code : ℕ} {a0 : ℕ} {a1 : ℕ} {a2 : ℕ} (h : Keeps r s) : Keeps r (raise code a0 a1 a2 s) :=
  .ite h.rest h.rest

theorem Keeps.releaseHeld (h : Keeps r s) : Keeps r (releaseHeld s) := h.rest

theorem Keeps.takeFree (h : Keeps r s) : Keeps r (takeFree s).2 := h.rest

theorem Keeps.dramWrite {a : Nat} {bs : List Byte} (h : Keeps r s) : Keeps r (dramWrite s a bs) := by
  unfold Machine.dramWrite
  split
  · exact h
  · exact ⟨h.pending, fun hr => memSetBytes_wf a bs (h.dram hr), h.pillows, h.bobbins, h.cells⟩

theorem Keeps.dramWriteWords {a : ℕ} {ws : List Word} (h : Keeps r s) : Keeps r (dramWriteWords s a ws) := h.dramWrite

theorem Keeps.turnBits {w bits : Nat} (h : Keeps r s) : Keeps r (turnBits w bits s) := by
  unfold Machine.turnBits
  split
  · exact ⟨h.pending, fun hr => memSetNat_wf _ _ _ (h.dram hr), h.pillows, h.bobbins, h.cells⟩
  · exact h.rest

theorem Keeps.markDouble {w : ℕ} (h : Keeps r s) : Keeps r (markDouble w s) := by
  unfold Machine.markDouble
  split
  · exact h
  · exact (show Keeps r (Machine.turnBits w (Machine.errorBits (Machine.takeFree s).1) (Machine.takeFree s).2) from h.takeFree.turnBits).rest

theorem Keeps.markEcc {hits : List EccHit} (h : Keeps r s) : Keeps r (markEcc hits s) :=
  h.foldl (fun _ h1 _ => .ite h1.markDouble (.ite h1 h1.rest))

theorem Keeps.correctWords {lo : ℕ} {hi : ℕ} (h : Keeps r s) : Keeps r (correctWords lo hi s) := h.rest

theorem Keeps.correctRead {a : ℕ} {n : ℕ} (h : Keeps r s) : Keeps r (correctRead a n s) := .ite h h.correctWords

theorem Keeps.correctEntry {i : ℕ} (h : Keeps r s) : Keeps r (correctEntry i s) := h.correctWords

theorem Keeps.setDesc {i : ℕ} {d : Word} (h : Keeps r s) : Keeps r (setDesc i d s) := h.rest

theorem Keeps.setPx20 {plane : ℕ} {p : ℕ} {v : ℕ} (h : Keeps r s) : Keeps r (setPx20 s plane p v) := h.dramWrite

theorem Keeps.updPort {p : Port} {f : TrunkPort → TrunkPort} (h : Keeps r s) : Keeps r (updPort s p f) := by
  unfold Machine.updPort
  split
  · exact h.rest
  · exact h.rest

theorem Keeps.updTw {p : TwPort} {f : TwPortState → TwPortState} (h : Keeps r s) : Keeps r (updTw s p f) := by
  unfold Machine.updTw
  split
  · exact h.rest
  · exact h.rest

theorem Keeps.startWork {req : Requester} {k : WorkKind} (h : Keeps r s) : Keeps r (startWork req k s) := h.rest

theorem Keeps.endWork {k : WorkKind} (h : Keeps r s) : Keeps r (endWork k s) := h.rest

theorem Keeps.cmdOk {results : optParam (List Word) []} (h : Keeps r s) : Keeps r (cmdOk s results).state := h

theorem Keeps.cmdRefuse {st : Status} {detail : optParam ℕ 255} (h : Keeps r s) :
    Keeps r (cmdRefuse s st detail).state := h

theorem Keeps.cmdBad {word : optParam ℕ 255} (h : Keeps r s) : Keeps r (cmdBad s word).state := h.cmdRefuse

theorem Keeps.cmdBadAny (h : Keeps r s) : Keeps r (cmdBadAny s).state := h.cmdRefuse

theorem Keeps.cmdPending {results : optParam (List Word) []} (h : Keeps r s) : Keeps r (cmdPending s results).state := h

theorem Keeps.cmdHeld (h : Keeps r s) : Keeps r (cmdHeld s).state := h

theorem Keeps.judged {ws : List Word} {masks : List Nat} {x : CmdResult} (h : Keeps r s) (hx : Keeps r x.state) :
    Keeps r (judged ws masks s x).state := by
  unfold Machine.judged
  split
  · exact hx
  · exact h

/-! #### Machine/Account.lean -/

theorem Keeps.vendorRestart (h : Keeps r s) : Keeps r (vendorRestart s) := h.rest

theorem Keeps.vendorFresh (h : Keeps r s) : Keeps r (vendorFresh s) := h.rest

theorem Keeps.cmdBudget {ceiling : ℕ} (h : Keeps r s) : Keeps r (cmdBudget s ceiling).state := h.cmdRefuse

theorem Keeps.powerLimit {a0 : ℕ} {a1 : ℕ} (h : Keeps r s) : Keeps r (powerLimit a0 a1 s) := .ite h h.rest.raise

theorem Keeps.arbitrate (h : Keeps r s) : Keeps r (arbitrate s) := by
  unfold Machine.arbitrate
  extract_lets +onlyGivenNames c g0 before g1 g2 x s1
  have h1 : Keeps r s1 := h.rest
  clear_value s1
  extract_lets +onlyGivenNames s2
  have h2 : Keeps r s2 := .ite h1.powerLimit h1
  clear_value s2
  extract_lets +onlyGivenNames rest none s3
  have h3 : Keeps r s3 := .ite h2.powerLimit h2
  clear_value s3
  exact .ite h3.rest h3

/-! #### Machine/ClassF.lean -/

theorem Keeps.deferEvents {α : Type} {discarded : ℕ} {l : List (PendingSet α)} (h : Keeps r s) :
    Keeps r (deferEvents discarded l s) := h.foldl (fun _ h1 _ => h1.raise)

theorem Keeps.countAe {moved : List (PendingSet FrameUpd)} (h : Keeps r s) : Keeps r (countAe moved s) := h.rest

theorem Keeps.latchClassF {pin : Bool} {fb : ℕ} {n : FrameId} (h : Keeps r s) : Keeps r (latchClassF pin fb n s) :=
  h.rest.countAe.deferEvents.deferEvents

theorem Keeps.settleClassF {first : FrameId} (h : Keeps r s) : Keeps r (settleClassF first s) :=
  h.rest.deferEvents.deferEvents.deferEvents.deferEvents

/-! #### Machine/Streams.lean -/

theorem Keeps.updStream {i : ℕ} {f : StreamState → StreamState} (h : Keeps r s) : Keeps r (updStream s i f) := h.rest

theorem Keeps.updStreamCfg {i : ℕ} {f : StreamCfg → StreamCfg} (h : Keeps r s) : Keeps r (updStreamCfg s i f) := h.rest

theorem Keeps.updChannel {i : ℕ} {f : ChannelState → ChannelState} (h : Keeps r s) : Keeps r (updChannel s i f) := h.rest

theorem Keeps.takeLive {i : ℕ} (h : Keeps r s) : Keeps r (takeLive i s) := by
  unfold Machine.takeLive
  split
  · exact h
  · exact h.updStreamCfg.updStream

theorem Keeps.notePeak {i : ℕ} (h : Keeps r s) : Keeps r (notePeak i s) := h.updStream

theorem Keeps.countRetract (h : Keeps r s) : Keeps r (countRetract s) := h.rest

theorem Keeps.sendRetract {i : ℕ} {id : FrameId} {reason : ℕ} (h : Keeps r s) : Keeps r (sendRetract i id reason s) :=
  .ite h.updStream.countRetract h

theorem Keeps.dropMarker {i : ℕ} {id : FrameId} {hist : Bool} {header : State → List Word × State} {back : ℕ} {reason : ℕ} (h : Keeps r s) (hheader : ∀ (a : State), Keeps r a → Keeps r (header a).2) :
    Keeps r (dropMarker i id hist header back reason s).2 := .iteSnd h.updStream.countRetract (.iteSnd h.updStream (.updStream (hheader _ h)))

theorem Keeps.freshHeader {i : ℕ} {f : FrameInfo} (h : Keeps r s) : Keeps r (freshHeader i f s).2 := h.takeLive

theorem Keeps.discardEntries {i : ℕ} {gone : StreamEntry → Bool} (h : Keeps r s) : Keeps r (discardEntries i gone s) :=
  h.updStream

theorem Keeps.removeBasted {i : ℕ} {id : FrameId} (h : Keeps r s) : Keeps r (removeBasted i id s) := h.discardEntries

theorem Keeps.retractFrame {id : FrameId} {reason : ℕ} (h : Keeps r s) : Keeps r (retractFrame id reason s) :=
  h.foldl (fun _ h1 _ => h1.removeBasted.sendRetract)

theorem Keeps.decimate_go {i : Nat} {id : FrameId} {t : StreamState} (h : Keeps r s) : Keeps r (decimate.go i id s t).2 :=
  h.updStream

theorem Keeps.decimate {i : Nat} {id : FrameId} (h : Keeps r s) : Keeps r (decimate i id s).2 := by
  unfold Machine.decimate
  dsimp only
  split
  · exact .iteSnd h h.decimate_go
  · exact h.decimate_go

theorem Keeps.decimate.go {i : ℕ} {id : FrameId} {t' : StreamState} (h : Keeps r s) :
    Keeps r (decimate.go i id s t').2 := h.updStream

theorem Keeps.countTaken {i : ℕ} {id : FrameId} (h : Keeps r s) : Keeps r (countTaken i id s) := .ite h.decimate h

theorem Keeps.putDropped {i : Nat} {f : FrameInfo} {reason : Nat} (h : Keeps r s) : Keeps r (putDropped i f reason s) := by
  have hm : Keeps r (Machine.dropMarker i f.id f.hist (Machine.freshHeader i f) 0 reason
      (Machine.removeBasted i f.id (Machine.countTaken i f.id s))).2 :=
    h.countTaken.removeBasted.dropMarker fun _ hu => hu.freshHeader
  unfold Machine.putDropped
  split
  next heq => exact (hm.ofSnd heq).updStream
  next heq => exact hm.ofSnd heq

theorem Keeps.countDropped {i : ℕ} (h : Keeps r s) : Keeps r (countDropped i s) := h.updStream

theorem Keeps.discardBasted {i need n : Nat} (h : Keeps r s) : Keeps r (discardBasted i need n s) := by
  induction n generalizing s with
  | zero => exact h
  | succ n ih =>
    unfold Machine.discardBasted
    split
    · exact h
    · split
      · exact h
      · exact ih h.updStream

theorem Keeps.discardFinished {i need n : Nat} (h : Keeps r s) : Keeps r (discardFinished i need n s) := by
  induction n generalizing s with
  | zero => exact h
  | succ n ih =>
    unfold Machine.discardFinished
    split
    · exact h
    · split
      · exact h
      · split
        next m s1 heq =>
        have h1 : Keeps r s1 := (h.updStream.dropMarker fun _ hu => hu).ofSnd heq
        exact ih h1.updStream.countDropped

theorem Keeps.openEntry {i : ℕ} {f : FrameInfo} {need : ℕ} (h : Keeps r s) : Keeps r (openEntry i f need s) :=
  h.takeLive.updStream.notePeak

theorem Keeps.arriveFrame {i : ℕ} {f : FrameInfo} (h : Keeps r s) : Keeps r (arriveFrame i f s).2 := by
  unfold Machine.arriveFrame
  extract_lets +onlyGivenNames x1 x2 s3
  have h3 : Keeps r s3 := .ite h h.removeBasted
  extract_lets +onlyGivenNames x4 x5 x6
  exact .iteSnd (.iteSnd (.openEntry (.iteSnd h3.decimate h3)) (.iteSnd h3.decimate h3)) (.iteSnd (.iteSnd (.iteSnd h3.decimate h3.decimate.putDropped.countDropped) (.iteSnd h3.decimate.discardBasted.openEntry (.iteSnd h3.decimate.discardBasted.updStream h3.decimate.discardBasted.updStream.putDropped.countDropped))) (.iteSnd (.openEntry (.ite h3.discardBasted.discardFinished h3.discardBasted)) (.iteSnd (.ite h3.discardBasted.discardFinished h3.discardBasted) (.countDropped (.putDropped (.ite h3.discardBasted.discardFinished h3.discardBasted))))))

theorem Keeps.updEntry {i : ℕ} {id : FrameId} {basted : Bool} {f : StreamEntry → StreamEntry} (h : Keeps r s) :
    Keeps r (updEntry i id basted f s) := h.updStream

theorem Keeps.addPacket {i : ℕ} {id : FrameId} {basted : Bool} {p : List Word} (h : Keeps r s) :
    Keeps r (addPacket i id basted p s) := h.updEntry

theorem Keeps.addLine {i : ℕ} {id : FrameId} {basted : Bool} {y : ℕ} {payload : List Byte} {ePeak : ℕ} {overBudget : Bool} (h : Keeps r s) :
    Keeps r (addLine i id basted y payload ePeak overBudget s) := .ite h.addPacket.updEntry.updStream h.addPacket.updEntry

theorem Keeps.closeEntry {i : ℕ} {id : FrameId} {basted : Bool} {m : Marks} (h : Keeps r s) :
    Keeps r (closeEntry i id basted m s) := h.updEntry

theorem Keeps.frameLeft {i : ℕ} {e : StreamEntry} (h : Keeps r s) : Keeps r (frameLeft i e s) := .ite h h.updStream

theorem Keeps.retireHead {i : ℕ} (h : Keeps r s) : Keeps r (retireHead i s) := by
  unfold Machine.retireHead
  split
  · exact .ite h.updStream.frameLeft h
  · exact h

theorem Keeps.leavePacket {i : Nat} {ws : List Word} (h : Keeps r s) (e : leavePacket i s = some (ws, t)) : Keeps r t := by
  unfold Machine.leavePacket at e
  split at e
  · cases e
  · extract_lets port w isHeader isLine e1 s1 at e
    have h1 : Keeps r s1 := h.updStream
    rw [Option.some_inj, Prod.mk.injEq] at e
    exact e.2 ▸ h1.rest

theorem Keeps.forgetTaken {i : ℕ} (h : Keeps r s) : Keeps r (forgetTaken i s) := .ite h h.updChannel

theorem Keeps.stopStream {i : ℕ} {cut : Bool} {reason : ℕ} {found : FrameId → Bool → Marks} (h : Keeps r s) :
    Keeps r (stopStream i cut reason found s) := by
  unfold Machine.stopStream
  extract_lets +onlyGivenNames x1 s2
  have h2 : Keeps r s2 := h.rest
  extract_lets +onlyGivenNames s3
  have h3 : Keeps r s3 := h2.updStream
  extract_lets +onlyGivenNames s4
  have h4 : Keeps r s4 := by
    unfold s4
    split
    · exact h3.sendRetract
    · exact h3
  exact .forgetTaken (.updChannel (.ite h4.forgetTaken h4))

theorem Keeps.startStream {i : ℕ} (h : Keeps r s) : Keeps r (startStream i s) := h.updStream.updChannel

/-! #### Machine/History.lean -/

theorem Keeps.decideTake {i : ℕ} {id : FrameId} (h : Keeps r s) : Keeps r (decideTake i id s).2 := by
  unfold Machine.decideTake
  extract_lets +onlyGivenNames x1 x2
  split
  · exact .iteSnd h h.updChannel
  · exact h.updChannel

theorem Keeps.withdraw {id : FrameId} (h : Keeps r s) : Keeps r (withdraw id s) := h.rest

theorem Keeps.neverFollows {id : FrameId} (h : Keeps r s) : Keeps r (neverFollows id s) := h.withdraw.retractFrame

theorem Keeps.dropOn {i : ℕ} {f : FrameInfo} {reason : ℕ} (h : Keeps r s) : Keeps r (dropOn i f reason s) :=
  .ite h.decideTake.putDropped h.decideTake

theorem Keeps.skipOnStreams {f : FrameRec} (h : Keeps r s) : Keeps r (skipOnStreams f s) :=
  h.withdraw.foldl (fun _ h1 _ => .ite h1.dropOn h1)

theorem Keeps.countBypass (h : Keeps r s) : Keeps r (countBypass s) := h.rest

theorem Keeps.setHistSlot {k : ℕ} {h' : Option HistFrame} (h : Keeps r s) : Keeps r (setHistSlot s k h') := h.rest

theorem Keeps.updHist {k : ℕ} {f : HistFrame → HistFrame} (h : Keeps r s) : Keeps r (updHist s k f) := h.setHistSlot

theorem Keeps.passLost {i n : Nat} (h : Keeps r s) : Keeps r (passLost i n s) := by
  induction n generalizing s with
  | zero => exact h
  | succ n ih =>
    unfold Machine.passLost
    split
    · exact h
    · split
      · exact h
      · exact ih (.ite h.decideTake.updChannel.putDropped.countBypass h.decideTake.updChannel)

theorem Keeps.rawMissed {h' : HistFrame} (h : Keeps r s) : Keeps r (rawMissed h' s) :=
  h.foldl (fun _ h1 _ => .ite h1.updChannel.passLost h1)

theorem Keeps.rawCut {slot : ℕ} {h' : HistFrame} (h : Keeps r s) : Keeps r (rawCut slot h' s) := by
  unfold Machine.rawCut
  exact h.foldl (fun _ h1 _ => by
    split
    · exact .ite (.passLost (.countBypass (.ite h1.updChannel.closeEntry h1.updChannel.putDropped))) h1
    · exact h1)

theorem Keeps.freeSlot {k : ℕ} {h' : HistFrame} (h : Keeps r s) : Keeps r (freeSlot k h' s) := by
  unfold Machine.freeSlot
  extract_lets +onlyGivenNames s1
  have h1 : Keeps r s1 := h.setHistSlot
  exact .rawMissed (.ite h1 h1.rest.skipOnStreams)

theorem Keeps.bringDown {keep n : Nat} (h : Keeps r s) : Keeps r (bringDown keep n s) := by
  induction n generalizing s with
  | zero => exact h
  | succ n ih =>
    unfold Machine.bringDown
    split
    · exact h
    · split
      · exact h
      · exact ih h.freeSlot

theorem Keeps.chooseSlot {c : CaptureCfg} (h : Keeps r s) : Keeps r (chooseSlot c s).2 := by
  unfold Machine.chooseSlot
  extract_lets s1
  have h1 : Keeps r s1 := h.bringDown
  clear_value s1
  split
  · exact h1
  · split
    · dsimp only
      exact h1.rawCut.freeSlot
    · exact h1

theorem Keeps.writeDescs {k : ℕ} {dflt : Word} {byTile : List (ℕ × Word)} (h : Keeps r s) :
    Keeps r (writeDescs k dflt byTile s) := h.rest

theorem Keeps.takeFreeze {last : FrameId} {k : ℕ} (h : Keeps r s) : Keeps r (takeFreeze last k s) := by
  unfold Machine.takeFreeze
  extract_lets +onlyGivenNames x1 s2
  have h2 : Keeps r s2 := h.rest
  extract_lets +onlyGivenNames x3 x4 x5 x6
  split
  · exact h2.raise
  · extract_lets +onlyGivenNames s7
    have h7 : Keeps r s7 := h2.foldl (fun _ h1 _ => h1.updHist)
    exact h7.rest.raise

theorem Keeps.fireFreeze {w : FreezeWait} {tf : ℕ} (h : Keeps r s) : Keeps r (fireFreeze w tf s) := by
  unfold Machine.fireFreeze
  split
  · exact h.rest
  · split
    · exact h.takeFreeze
    · split
      · exact .ite h.takeFreeze h.rest
      · exact h.rest

theorem Keeps.freezeAtBoundary {id : FrameId} {fb : ℕ} (h : Keeps r s) : Keeps r (freezeAtBoundary id fb s) := by
  unfold Machine.freezeAtBoundary
  split
  · exact h
  · split
    · exact h.rest
    · split
      · exact .ite h.takeFreeze h
      · exact .ite h.takeFreeze h.rest

theorem Keeps.freezeAtRelease {id : FrameId} (h : Keeps r s) : Keeps r (freezeAtRelease id s) := by
  unfold Machine.freezeAtRelease
  split
  · exact .ite h.takeFreeze h
  · exact h

theorem Keeps.freezeAtStop (h : Keeps r s) : Keeps r (freezeAtStop s) := by
  unfold Machine.freezeAtStop
  split
  · split
    · exact h.takeFreeze
    · exact h
  · exact h

theorem Keeps.tryRelease (h : Keeps r s) : Keeps r (tryRelease s) := by
  unfold Machine.tryRelease
  split
  · split
    · exact h.rest
    · exact h.rest.raise
  · exact h

theorem Keeps.historyFreezeBody {c : Cmd} (h : Keeps r s) : Keeps r (historyFreezeBody c s).state :=
  h.judged (.iteCmd (.iteCmd h.rest.tryRelease.cmdOk h.cmdOk) (.iteCmd h.cmdBad (.iteCmd h.cmdBad (.iteCmd h.cmdRefuse (.iteCmd h.cmdRefuse (.iteCmd h.fireFreeze.cmdOk h.rest.cmdOk))))))

theorem Keeps.historyReadBody {c : Cmd} (h : Keeps r s) : Keeps r (historyReadBody c s).state :=
  h.judged (.iteCmd h.cmdBad (.iteCmd h.cmdRefuse (.iteCmd h.cmdBad (.iteCmd h.cmdRefuse (.iteCmd h.cmdRefuse h.updChannel.cmdOk)))))

theorem Keeps.execRingTimeFreeze {t' : Instant} (h : Keeps r s) : KeepsNext r (execRingTimeFreeze t' s) := by
  unfold Machine.execRingTimeFreeze
  extract_lets +onlyGivenNames s1
  have h1 : Keeps r s1 := h.setNow
  split
  · exact .ite h1.rest.fireFreeze.next h1.next
  · exact h1.next

theorem Keeps.pinFreeze {p : ℕ} {falling : Bool} {e : ℕ} (h : Keeps r s) : Keeps r (pinFreeze p falling e s) := by
  unfold Machine.pinFreeze
  split
  · exact .ite h.rest.fireFreeze h
  · exact h

/-! #### Machine/Accum.lean -/

theorem Keeps.updAccFrame {id : FrameId} {f : AccumFrame → AccumFrame} (h : Keeps r s) : Keeps r (updAccFrame id f s) :=
  h.rest

theorem Keeps.updJob {g : ℕ} {f : SubJob → SubJob} (h : Keeps r s) : Keeps r (updJob g f s) := h.rest

theorem Keeps.reportUe {region : ℕ} {chest : ℕ} (h : Keeps r s) : Keeps r (reportUe region chest s) := .ite h h.rest.raise

theorem Keeps.countDrawerUe {region : ℕ} {chest : ℕ} {n : ℕ} (h : Keeps r s) :
    Keeps r (countDrawerUe region chest n s) := .ite h h.rest.reportUe

theorem Keeps.countCommonUe {region : ℕ} {ctl : ℕ} {n : ℕ} (h : Keeps r s) : Keeps r (countCommonUe region ctl n s) :=
  .ite h h.rest.reportUe

theorem Keeps.countPipeUe {chest : ℕ} {n : ℕ} (h : Keeps r s) : Keeps r (countPipeUe chest n s) := .ite h h.rest.reportUe

theorem Keeps.addMu {e : ℕ} {w : ℕ} (h : Keeps r s) : Keeps r (addMu e w s) := .ite h h.rest

theorem Keeps.reserveSlot {f : FrameRec} (h : Keeps r s) : Keeps r (reserveSlot f s) := by
  unfold Machine.reserveSlot
  split
  · exact .ite h h.chooseSlot.updAccFrame
  · exact h

theorem Keeps.finishPixel {f : FrameRec} {t' : ℕ} {p : ℕ} {v : ℕ} {gone : Bool} (h : Keeps r s) :
    Keeps r (finishPixel f t' p v gone s) := by
  unfold Machine.finishPixel
  split
  · exact h
  · exact .setPx20 (.ite h.updAccFrame h)

theorem Keeps.markSat {f : FrameRec} {t' : ℕ} (h : Keeps r s) : Keeps r (markSat f t' s) := h.updAccFrame

theorem Keeps.accumulateArrived {f : FrameRec} {j : ℕ} {t' : ℕ} {p : ℕ} {w : ℕ} {ok : Bool} (h : Keeps r s) :
    Keeps r (accumulateArrived f j t' p w ok s) := by
  unfold Machine.accumulateArrived
  extract_lets +onlyGivenNames x1 x2
  exact .ite h (.ite (.finishPixel (.ite (.dramWriteWords (.countDrawerUe (.ite h h.correctRead))) (.ite h h.correctRead))) (.ite (.ite (.dramWriteWords (.countDrawerUe (.ite h h.correctRead))) (.ite h h.correctRead)) (.dramWriteWords (.ite (.dramWriteWords (.countDrawerUe (.ite h h.correctRead))) (.ite h h.correctRead)))))

theorem Keeps.useSample {f : FrameRec} {g : ℕ} {j : ℕ} {t' : ℕ} {p : ℕ} {w : ℕ} {ok : Bool} (h : Keeps r s) :
    Keeps r (useSample f g j t' p w ok s) := by
  unfold Machine.useSample
  extract_lets +onlyGivenNames x1 s2
  have h2 : Keeps r s2 := .ite h.addMu h
  exact .ite (.ite h2.rest.setPx20 h2.rest) (.ite (.finishPixel (.ite h2.markSat h2)) (.accumulateArrived (.ite h2.markSat h2)))

theorem Keeps.chooseBaste {a : AccumFrame} (h : Keeps r s) : Keeps r (chooseBaste a s) := by
  unfold Machine.chooseBaste
  extract_lets +onlyGivenNames s1
  have h1 : Keeps r s1 := h.updAccFrame
  exact .ite h1 (.ite h1.rest h1.rest)

theorem Keeps.basteBefore {f : FrameRec} {x : SubJob} (h : Keeps r s) : Keeps r (basteBefore f x s) := by
  unfold Machine.basteBefore
  split
  · exact .ite h.chooseBaste h
  · exact h

theorem Keeps.putBasted {f : FrameRec} {t' : ℕ} {ft : FormedTile} {d : Word} (h : Keeps r s) :
    Keeps r (putBasted f t' ft d s) := by
  unfold Machine.putBasted
  extract_lets +onlyGivenNames x1 x2 x3 s4
  have h4 : Keeps r s4 := h.dramWrite
  exact h4.rest.setDesc

theorem Keeps.putFinished {f : FrameRec} {t' : ℕ} {ft : FormedTile} {d : Word} (h : Keeps r s) :
    Keeps r (putFinished f t' ft d s) := by
  unfold Machine.putFinished
  extract_lets +onlyGivenNames s1
  have h1 : Keeps r s1 := h.reserveSlot
  extract_lets +onlyGivenNames x2 x3 s4
  have h4 : Keeps r s4 := by
    unfold s4
    split
    · exact h1.dramWrite
    · exact h1
  exact h4.updAccFrame

theorem Keeps.collectTile {f : FrameRec} {t' : ℕ} {words : List AccWord} (h : Keeps r s) :
    Keeps r (collectTile f t' words s) := .ite h.rest h

theorem Keeps.tilePass {f : FrameRec} {x : SubJob} {t' : ℕ} {pixels : ℕ} {parityBad : List ℕ} (h : Keeps r s) :
    Keeps r (tilePass f x t' pixels parityBad s) := by
  unfold Machine.tilePass
  extract_lets +onlyGivenNames s1
  have h1 : Keeps r s1 := h.basteBefore
  extract_lets +onlyGivenNames x2 x3 x4 x5 x6 x7 x8 x9 x10 x11 x12 s13
  have h13 : Keeps r s13 := h1.foldl (fun _ h1 _ => h1.correctRead)
  extract_lets +onlyGivenNames s14
  have h14 : Keeps r s14 := .ite h13 h13.correctRead
  extract_lets +onlyGivenNames x15 x16 x17 x18 x19 x20 x21 x22 x23 x24 x25 x26 x27 x28 s29
  have h29 : Keeps r s29 := h14.updAccFrame
  extract_lets +onlyGivenNames x30 s31
  have h31 : Keeps r s31 := h29.rest
  extract_lets +onlyGivenNames s32
  have h32 : Keeps r s32 := h31.foldl (fun _ h1 _ => h1.countDrawerUe)
  extract_lets +onlyGivenNames s33
  have h33 : Keeps r s33 := h32.countDrawerUe
  extract_lets +onlyGivenNames s34
  have h34 : Keeps r s34 := h33.updJob
  exact .ite (.putFinished (.collectTile (.setDesc (.ite h34.collectTile.putBasted h34)))) (.dramWriteWords (.setDesc (.ite h34.collectTile.putBasted h34)))

theorem Keeps.releaseFinished {a : AccumFrame} (h : Keeps r s) : Keeps r (releaseFinished a s) := by
  unfold Machine.releaseFinished
  extract_lets +onlyGivenNames f s1 slot
  have h1 : Keeps r s1 := h.reserveSlot
  clear_value s1 slot
  extract_lets +onlyGivenNames x1 s2
  have h2 : Keeps r s2 := h1.rest
  clear_value s2
  have hk : ∀ k x, Keeps r (Machine.setHistSlot (Machine.writeDescs k 0 a.finDesc s2) k x) := fun _ _ => h2.writeDescs.setHistSlot
  extract_lets +onlyGivenNames s3
  have h3 : Keeps r s3 := by
    cases slot with
    | none => exact h2
    | some k => exact (hk k none).rest
  clear_value s3
  extract_lets +onlyGivenNames x4 x5 s4 s5
  have h4 : Keeps r s4 := by
    unfold s4
    split
    · exact .ite h3.rest h3
    · exact h3
  clear_value s4
  have h5 : Keeps r s5 := .ite h4 h4.neverFollows
  exact h5.rest.freezeAtRelease

theorem Keeps.releaseBasted {f : FrameRec} (h : Keeps r s) : Keeps r (releaseBasted f s) := by
  unfold Machine.releaseBasted
  split
  · split
    · extract_lets +onlyGivenNames x1
      extract_lets +onlyGivenNames x2 x3 s4
      have h4 : Keeps r s4 := h.writeDescs
      exact h4.rest
    · exact h
  · exact h

theorem Keeps.abandonFrame {id : FrameId} (h : Keeps r s) : Keeps r (abandonFrame id s) := h.rest.withdraw

theorem Keeps.execTileAccumulationStart {t' : Instant} {tile : TileIx} {pixels : ℕ} {ecc : List EccHit} {parityBad : List ℕ} (h : Keeps r s) :
    KeepsNext r (execTileAccumulationStart t' tile pixels ecc parityBad s) := by
  unfold Machine.execTileAccumulationStart
  extract_lets +onlyGivenNames s1
  have h1 : Keeps r s1 := h.setNow
  split
  · exact .ite h1.markEcc.tilePass.next h1.next
  · exact h1.next

theorem Keeps.execVectorDeadline {t' : Instant} {valid : ℕ} (h : Keeps r s) :
    KeepsNext r (execVectorDeadline t' valid s) := by
  unfold Machine.execVectorDeadline
  extract_lets +onlyGivenNames s1
  have h1 : Keeps r s1 := h.setNow
  split
  · split
    · exact .ite h1.updJob.next h1.next
    · exact h1.next
  · exact h1.next

theorem Keeps.keepVectors {f : FrameRec} {x : SubJob} (h : Keeps r s) : Keeps r (keepVectors f x s) := .ite h.rest h.rest

theorem Keeps.clearVectorTable {g : Nat} (h : Keeps r s) : Keeps r (clearVectorTable g s) :=
  h.putPillow fun _ hm => smWf_smClear _ _ hm

theorem Keeps.endWindow {x : SubJob} {f : FrameRec} (h : Keeps r s) : Keeps r (endWindow x f s) := by
  unfold Machine.endWindow
  extract_lets +onlyGivenNames x1 s2
  have h2 : Keeps r s2 := h.updJob
  extract_lets +onlyGivenNames x3 s4
  have h4 : Keeps r s4 := h2.foldl (fun _ h1 _ => h1.tilePass)
  extract_lets +onlyGivenNames s5
  have h5 : Keeps r s5 := h4.keepVectors.clearVectorTable
  extract_lets +onlyGivenNames x6 s7
  have h7 : Keeps r s7 := h5.rest
  extract_lets +onlyGivenNames s8
  have h8 : Keeps r s8 := .ite h7.releaseBasted h7
  split
  · split
    · exact h8.releaseFinished
    · exact h8
  · exact h8

theorem Keeps.execAccumulationWindowEnd {t' : Instant} (h : Keeps r s) :
    KeepsNext r (execAccumulationWindowEnd t' s) := by
  unfold Machine.execAccumulationWindowEnd
  extract_lets +onlyGivenNames s1
  have h1 : Keeps r s1 := h.setNow
  split
  · exact .ite h1.endWindow.next h1.next
  · exact h1.next

theorem Keeps.execHaloAckTimeout {t' : Instant} {chestA : Fin 768} {chestB : Fin 768} (h : Keeps r s) :
    KeepsNext r (execHaloAckTimeout t' chestA chestB s) := by
  unfold Machine.execHaloAckTimeout
  extract_lets +onlyGivenNames s1
  have h1 : Keeps r s1 := h.setNow
  split
  · exact h1.next
  · exact .next (.ite h1.rest h1.rest.raise)

theorem Keeps.decideBaste {a : AccumFrame} (h : Keeps r s) : Keeps r (decideBaste a s) :=
  .ite h.chooseBaste (h.chooseBaste.foldl (fun _ h1 _ => h1.correctRead.countDrawerUe.putBasted)).releaseBasted

theorem Keeps.execBasteDecision {t' : Instant} (h : Keeps r s) : KeepsNext r (execBasteDecision t' s) := by
  unfold Machine.execBasteDecision
  extract_lets +onlyGivenNames s1
  have h1 : Keeps r s1 := h.setNow
  split
  · exact .ite h1.decideBaste.next h1.next
  · exact h1.next

/-! #### Machine/Queues.lean -/

theorem Keeps.updKernel {kid : ℕ} {f : Kernel → Kernel} (h : Keeps r s) : Keeps r (updKernel kid f s) := .ite h.rest h.rest

theorem Keeps.feedElem {b : Nat} {q1 : Bool} {e : QueueElem} (h : Keeps r s) : Keeps r (feedElem b q1 e s) :=
  h.updBobbin fun x hx => by
    have hy : KeepsBobbin r (if x.in0.isEmpty && x.in1.isEmpty then { x with idleSpan := ⟨s.now.real, 0⟩ } else x) := .ite hx.regs hx
    exact .ite hy.regs hy.regs

theorem Keeps.feedEnd {b : ℕ} {e : QueueElem} (h : Keeps r s) : Keeps r (feedEnd b e s) :=
  .ite h.feedElem (h.updBobbin (fun _ h1 => h1.regs))

theorem Keeps.leaveSlot {kid : ℕ} (h : Keeps r s) : Keeps r (leaveSlot kid s) := h.rest

theorem KeepsBobbin.stoppedBobbin {b : Bobbin} (h : KeepsBobbin r b) : KeepsBobbin r (stoppedBobbin b) := h.regs

theorem Keeps.endKernel {kid : ℕ} {ph : KernelPhase} (h : Keeps r s) : Keeps r (endKernel kid ph s) :=
  (h.leaveSlot.foldl (fun _ h1 _ => h1.updBobbin (fun _ h2 => h2.stoppedBobbin))).updKernel.arbitrate

theorem Keeps.noteStop (h : Keeps r s) : Keeps r (noteStop s) := by
  unfold Machine.noteStop
  split
  · extract_lets +onlyGivenNames x1
    extract_lets +onlyGivenNames s2
    have h2 : Keeps r s2 := h.rest
    split
    · exact h2.endKernel
    · exact h2
  · exact h

theorem KeepsBobbin.passUngranted {d : ℕ} {x : Bobbin} (h : KeepsBobbin r x) : KeepsBobbin r (passUngranted d x) := h.regs

theorem Keeps.passAll {d : Nat} (h : Keeps r s) : Keeps r (passAll d s) := by
  refine { h with bobbins := fun hr x hx => ?_ }
  obtain ⟨y, hy, rfl⟩ := List.mem_map.1 hx
  exact h.bobbins hr y hy

/-! #### Machine/Ingress.lean -/

theorem Keeps.setCtx {i : ℕ} {x : InputCtx} (h : Keeps r s) : Keeps r (setCtx i x s) := .ite h.rest h.rest

theorem Keeps.updCtxCnt {i : ℕ} {f : CtxCounters → CtxCounters} (h : Keeps r s) : Keeps r (updCtxCnt i f s) :=
  .ite h.rest h.rest

theorem Keeps.updIngress {k : ℕ} {f : IngressFrame → IngressFrame} (h : Keeps r s) : Keeps r (updIngress k f s) := h.rest

theorem Keeps.spoilIngress {k : ℕ} {o : ℕ} (h : Keeps r s) : Keeps r (spoilIngress k o s) := h.takeFree.updIngress

theorem Keeps.dropIngress {i : ℕ} (h : Keeps r s) : Keeps r (dropIngress i s) :=
  h.foldl (fun _ h1 _ => .ite (.updIngress (.ite h1 h1.updCtxCnt)) h1)

theorem Keeps.dropLocal (h : Keeps r s) : Keeps r (dropLocal s) := by
  unfold Machine.dropLocal
  extract_lets +onlyGivenNames x1 s2
  have h2 : Keeps r s2 := h.foldl (fun _ h1 _ => h1.neverFollows)
  extract_lets +onlyGivenNames x3 s4
  have h4 : Keeps r s4 := h2.rest
  split
  · exact .ite h4.rest h4
  · exact h4

theorem Keeps.clearEnable {i : ℕ} {kind : BitVec 2} (h : Keeps r s) : Keeps r (clearEnable i kind s) :=
  .ite h.dropLocal (.ite h.rest h.dropIngress)

theorem Keeps.setInputsBody {c : Cmd} (h : Keeps r s) : Keeps r (setInputsBody c s).state := by
  unfold Machine.setInputsBody
  extract_lets +onlyGivenNames x1 x2 x3 x4
  exact h.judged (by
    split
    · exact h.cmdBad
    · extract_lets +onlyGivenNames x5
      extract_lets +onlyGivenNames x6
      split
      · exact h.cmdRefuse
      · extract_lets +onlyGivenNames s7
        have h7 : Keeps r s7 := h.setCtx
        extract_lets +onlyGivenNames s8
        have h8 : Keeps r s8 := .ite h7.setCtx h7
        exact .cmdOk (.arbitrate (.noteStop (.ite h8.rest.clearEnable (.ite h8.rest h8.rest)))))

theorem Keeps.dropOnStreams {k : ℕ} {h' : SrcHeader} (h : Keeps r s) : Keeps r (dropOnStreams k h' s) :=
  h.foldl (fun _ h1 _ => .ite h1.dropOn h1)

theorem Keeps.endIngress {k : ℕ} {late : Bool} {sent : Marks} (h : Keeps r s) : Keeps r (endIngress k late sent s) :=
  h.updCtxCnt.updIngress

theorem Keeps.takeIngress {k : ℕ} {i : ℕ} {pkt : List Word} (h : Keeps r s) : Keeps r (takeIngress k i pkt s) := by
  unfold Machine.takeIngress
  extract_lets +onlyGivenNames x1 s2
  have h2 : Keeps r s2 := h.updIngress
  exact h2.rest.updCtxCnt

theorem Keeps.dropFrame {i : ℕ} {h' : SrcHeader} (h : Keeps r s) : Keeps r (dropFrame i h' s) := h.updCtxCnt.dropOnStreams

theorem Keeps.headerArrives {i : ℕ} {pkt : List Word} (h : Keeps r s) : Keeps r (headerArrives i pkt s) := by
  unfold Machine.headerArrives
  extract_lets +onlyGivenNames s1
  have h1 : Keeps r s1 := by
    unfold s1
    split
    · exact h.endIngress
    · exact h
  extract_lets +onlyGivenNames x2 x3
  split
  · exact h1.updCtxCnt
  · split
    · extract_lets +onlyGivenNames s4
      have h4 : Keeps r s4 := h1.updCtxCnt
      exact .ite h4 h4.rest.raise
    · split
      · exact h1.dropOnStreams
      · split
        · exact h1.takeIngress
        · split
          · exact h1.dropFrame.takeIngress
          · exact h1.dropFrame

theorem Keeps.execIngressHeader {t' : Instant} {node : BitVec 7} {port : BitVec 9} {pkt : List Word} (h : Keeps r s) :
    KeepsNext r (execIngressHeader t' node port pkt s) := .next (.ite (h.setNow.foldl (fun _ h1 _ => h1.headerArrives)) h.setNow)

theorem Keeps.lineArrives {i : ℕ} {pkt : List Word} (h : Keeps r s) : Keeps r (lineArrives i pkt s) := by
  unfold Machine.lineArrives
  split
  · exact h
  · extract_lets +onlyGivenNames x1
    extract_lets +onlyGivenNames x2 x3 x4
    split
    · exact h
    · split
      · exact .ite h.updIngress h
      · exact h.updIngress.updCtxCnt

theorem Keeps.execIngressLine {t' : Instant} {node : BitVec 7} {port : BitVec 9} {pkt : List Word} (h : Keeps r s) :
    KeepsNext r (execIngressLine t' node port pkt s) := .next (.ite (h.setNow.foldl (fun _ h1 _ => h1.lineArrives)) h.setNow)

theorem Keeps.sidecarArrives {i : ℕ} {pkt : List Word} (h : Keeps r s) : Keeps r (sidecarArrives i pkt s) := by
  unfold Machine.sidecarArrives
  split
  · exact h
  · exact .ite h (.ite h.updIngress h.updIngress)

theorem Keeps.execIngressSidecar {t' : Instant} {node : BitVec 7} {port : BitVec 9} {pkt : List Word} (h : Keeps r s) :
    KeepsNext r (execIngressSidecar t' node port pkt s) := .next (.ite (h.setNow.foldl (fun _ h1 _ => h1.sidecarArrives)) h.setNow)

theorem Keeps.execIngressTrailer {t' : Instant} {node : BitVec 7} {port : BitVec 9} {pkt : List Word} (h : Keeps r s) :
    KeepsNext r (execIngressTrailer t' node port pkt s) := by
  unfold Machine.execIngressTrailer
  extract_lets +onlyGivenNames s1
  have h1 : Keeps r s1 := h.setNow
  exact .next (.ite (h1.foldl (fun _ h1 _ => by
    split
    · exact .ite h1.endIngress h1
    · exact h1)) h1)

theorem Keeps.execIngressDeadline {t' : Instant} {ctx : Fin 2} (h : Keeps r s) :
    KeepsNext r (execIngressDeadline t' ctx s) := by
  unfold Machine.execIngressDeadline
  extract_lets +onlyGivenNames s1
  have h1 : Keeps r s1 := h.setNow
  split
  · exact .ite h1.endIngress.next h1.next
  · exact h1.next

theorem Keeps.execIngressRetract {t' : Instant} {_node : BitVec 7} {_port : BitVec 9} {_pkt : List Word} (h : Keeps r s) :
    KeepsNext r (execIngressRetract t' _node _port _pkt s) := h.setNow.next

/-! #### Machine/Temporal.lean -/

theorem Keeps.writeCopy {f : FrameRec} {c : Corrected} (h : Keeps r s) : Keeps r (writeCopy f c s) := by
  unfold Machine.writeCopy
  extract_lets +onlyGivenNames x1 s2
  have h2 : Keeps r s2 := h.foldl (fun _ h1 _ => h1.dramWrite)
  exact h2.rest

/-! #### Machine/KernelOps.lean -/

theorem KeepsBobbin.startedBobbin {k : Kernel} {kid rank : Nat} {b : Bobbin} (h : KeepsBobbin r b) :
    KeepsBobbin r (startedBobbin k kid rank b) :=
  fun hr => ⟨smWf_smSetMany _ _ (h hr).1, smWf_smSetMany _ _ (h hr).2⟩

theorem Keeps.runKernel {kid ch : Nat} (h : Keeps r s) : Keeps r (runKernel kid ch s) := by
  have hb : Keeps r ((kernel s kid).bobbins.zipIdx.foldl (fun u b =>
      Machine.updBobbin b.1 (Machine.startedBobbin (kernel s kid) kid b.2) u) s) :=
    h.foldl fun _ hu _ => hu.updBobbin fun _ hx => hx.startedBobbin
  exact (hb.foldl fun u hu p => Keeps.rest (s := Machine.putPillow p (fun m => memSetBytes m _ _) u)
    (hu.putPillow fun _ hm => memSetBytes_wf _ _ hm)).updKernel.arbitrate

theorem Keeps.vendorNrFault (h : Keeps r s) : Keeps r (vendorNrFault s) := h.rest

theorem Keeps.faultKernel {kid : ℕ} {code : ℕ} {b : ℕ} {pc : ℕ} (h : Keeps r s) :
    Keeps r (faultKernel kid code b pc s) := .raise (.updKernel (.ite h.endKernel (.ite h.updKernel.vendorNrFault h.updKernel)))

theorem Keeps.countVersion {kid : ℕ} (h : Keeps r s) : Keeps r (countVersion kid s) := h.updKernel

/-! #### Machine/Cal.lean -/

theorem Keeps.calInForce {id : ℕ} {dest : ℕ} {body : List Word} (h : Keeps r s) : Keeps r (calInForce id dest body s) :=
  .ite h.rest (.ite h.rest (.ite h.rest (.ite h.rest (.ite h.rest (.ite h.rest (.ite h.rest (.ite h.rest h.rest)))))))

theorem Keeps.frontTables (h : Keeps r s) : Keeps r (frontTables s) := by
  unfold Machine.frontTables
  extract_lets +onlyGivenNames s1
  have h1 : Keeps r s1 := h.foldl (fun _ h1 _ => h1.calInForce)
  exact h1.rest

theorem Keeps.backTables (h : Keeps r s) : Keeps r (backTables s) := by
  unfold Machine.backTables
  extract_lets +onlyGivenNames s1
  have h1 : Keeps r s1 := h.foldl (fun _ h1 _ => h1.calInForce)
  exact h1.rest

theorem Keeps.loadStored {id : ℕ} (h : Keeps r s) : Keeps r (loadStored id s) :=
  .ite (.ite h.rest (.ite h.rest (.ite h.rest h))) (.ite (.ite h.rest h.calInForce) (.raise (.ite h.rest (.ite h.rest (.ite h.rest h)))))

theorem Keeps.loadStoredTables (h : Keeps r s) : Keeps r (loadStoredTables s) := by
  unfold Machine.loadStoredTables
  extract_lets s1
  have h1 : Keeps r s1 := h.foldl (fun _ h1 _ => h1.loadStored)
  clear_value s1
  exact h1.rest

/-! #### Machine/Scaler.lean -/

theorem Keeps.putLine {i : ℕ} {id : FrameId} {basted : Bool} {ml : Bool} {y : ℕ} {seqs : List (List ℕ)} (h : Keeps r s) :
    Keeps r (putLine i id basted ml y seqs s) := h.addLine

/-! #### Machine/Channels.lean -/

theorem Keeps.updVersion {i : ℕ} {f : FrontVersion → FrontVersion} (h : Keeps r s) : Keeps r (updVersion i f s) := h.rest

theorem Keeps.cropMisfit {i : ℕ} {v : FrontVersion} (h : Keeps r s) : Keeps r (cropMisfit i v s) :=
  .ite h (.ite (.ite h.rest.putDropped h.rest) (.raise (.updChannel (.ite h.rest.putDropped h.rest))))

theorem Keeps.insetBlack {i : ℕ} (h : Keeps r s) : Keeps r (insetBlack i s) := .ite h.rest h.rest.updChannel.raise

theorem Keeps.beginRun {i : ℕ} {v : FrontVersion} (h : Keeps r s) : Keeps r (beginRun i v s) :=
  .ite h.updChannel.insetBlack h.updChannel

theorem Keeps.writeTrailer {i : ℕ} (h : Keeps r s) : Keeps r (writeTrailer i s) := by
  unfold Machine.writeTrailer
  split
  · exact h
  · split
    · exact h
    · exact h.closeEntry.updChannel

theorem Keeps.channelArrival {i : ℕ} {k : ℕ} (h : Keeps r s) : Keeps r (channelArrival i k s) := by
  unfold Machine.channelArrival
  split
  · exact h
  · exact .ite h (.ite h.updVersion.writeTrailer (.ite h.updVersion.writeTrailer.decideTake (.ite h.updVersion.writeTrailer.decideTake.cropMisfit h.updVersion.writeTrailer.decideTake.beginRun)))

theorem Keeps.offerRun {i : ℕ} (h : Keeps r s) : Keeps r (offerRun i s) := by
  unfold Machine.offerRun
  split
  · exact h
  · exact .ite h (.updChannel (.iteSnd h.arriveFrame h))

theorem Keeps.feedChannelRank {i : Nat} {c : StreamCfg} {v : FrontVersion} {d : DispImg} {bob b rank ready n : Nat} (h : Keeps r s) :
    Keeps r (feedChannelRank i c v d bob b rank ready n s) := by
  induction n generalizing s with
  | zero => exact h
  | succ n ih =>
    unfold Machine.feedChannelRank
    split
    · exact h
    · exact .ite h (ih h.feedElem.updChannel)

theorem Keeps.feedChannel {i : ℕ} {v : FrontVersion} {d : DispImg} {r' : InlineRun} {ready : ℕ} (h : Keeps r s) :
    Keeps r (feedChannel i v d r' ready s) := h.foldl (fun _ h1 _ => h1.feedChannelRank)

theorem Keeps.putLines {i : ℕ} {r' : ChannelRun} {d : DispImg} {lo : ℕ} {hi : ℕ} (h : Keeps r s) :
    Keeps r (putLines i r' d lo hi s) := .updChannel (.ite (h.foldl (fun _ h1 _ => h1.putLine)) h)

theorem Keeps.advanceChannel {v : FrontVersion} {i : ℕ} (h : Keeps r s) : Keeps r (advanceChannel v i s) := by
  unfold Machine.advanceChannel
  split
  · exact h
  · split
    · exact h
    · extract_lets +onlyGivenNames x1
      extract_lets +onlyGivenNames x2
      split
      · exact h
      · extract_lets +onlyGivenNames x3
        extract_lets +onlyGivenNames s4
        have h4 : Keeps r s4 := by
          unfold s4
          split
          · exact .ite h h.feedChannel
          · exact h
        split
        · exact h4
        · exact .ite h4 h4.putLines

theorem Keeps.advanceChannels {v : FrontVersion} (h : Keeps r s) : Keeps r (advanceChannels v s) :=
  h.foldl (fun _ h1 _ => h1.advanceChannel)

theorem Keeps.storeInset {i : ℕ} {v : FrontVersion} {r' : ChannelRun} {m : Marks} (h : Keeps r s) :
    Keeps r (storeInset i v r' m s) := .ite h h.updChannel

theorem Keeps.endRun {v : FrontVersion} {i : ℕ} (h : Keeps r s) : Keeps r (endRun v i s) := by
  unfold Machine.endRun
  split
  · exact h
  · split
    · exact h
    · extract_lets +onlyGivenNames x1
      extract_lets +onlyGivenNames s2
      have h2 : Keeps r s2 := h.storeInset
      extract_lets +onlyGivenNames s3
      have h3 : Keeps r s3 := by
        unfold s3
        split
        · exact .ite h2 h2.countVersion
        · exact h2
      exact h3.updChannel

theorem Keeps.execChannelVersionArrival {t' : Instant} {strm : Fin 8} (h : Keeps r s) :
    KeepsNext r (execChannelVersionArrival t' strm s) := .next (.ite (h.setNow.foldl (fun _ h1 _ => h1.channelArrival)) h.setNow)

/-! #### Machine/Sampler.lean -/

theorem Keeps.statsTake {v : FrontVersion} (h : Keeps r s) : Keeps r (statsTake v s).2 := .iteSnd h.rest h

theorem Keeps.tapSet {v : FrontVersion} {k : ℕ} (h : Keeps r s) : Keeps r (tapSet v k s) :=
  h.foldl (fun _ h1 _ => (h1.foldl (fun _ h2 _ => .ite h2.feedElem h2.updKernel)).countVersion)

theorem Keeps.sampleVersion {v : FrontVersion} {f : FrameRec} {fl : List FlickerEntry} {c : Corrected} (h : Keeps r s) :
    Keeps r (sampleVersion v f fl c s) := by
  have h1 : Keeps r (Machine.takeFree (Machine.takeFree s).2).2 := h.takeFree.takeFree
  unfold Machine.sampleVersion
  dsimp only
  exact (Keeps.rest (Keeps.dramWriteWords (Keeps.statsTake h1))).tapSet

theorem Keeps.statsConfigBody {c : Cmd} (h : Keeps r s) : Keeps r (statsConfigBody c s).state :=
  h.judged (.iteCmd h.cmdBad (.iteCmd h.cmdBad h.rest.cmdOk))

theorem Keeps.statsReadBody {limit : ℕ} {c : Cmd} (h : Keeps r s) : Keeps r (statsReadBody limit c s).state := by
  unfold Machine.statsReadBody
  extract_lets +onlyGivenNames x1 x2 x3
  exact h.judged (.iteCmd h.cmdBad (.iteCmd h.cmdBad (.iteCmd h.cmdRefuse (by
    split
    · exact h.cmdBad
    · exact h.countCommonUe.correctRead.cmdOk))))

theorem Keeps.readRecords {k : ℕ} (h : Keeps r s) : Keeps r (readRecords k s) := h.countCommonUe.correctRead

theorem Keeps.publishGrid (h : Keeps r s) : Keeps r (publishGrid s) := by
  unfold Machine.publishGrid
  split
  · exact h
  · refine .ite h (Keeps.countVersion ?_)
    exact (h.readRecords.putPillow fun _ hm => memSetBytes_wf _ _ hm).rest

theorem Keeps.execLtmGridPublish {t' : Instant} (h : Keeps r s) : KeepsNext r (execLtmGridPublish t' s) :=
  .next (.ite h.setNow.publishGrid h.setNow)

theorem Keeps.aeUpdate {k : ℕ} {f : FrameRec} {id : FrameId} (h : Keeps r s) : Keeps r (aeUpdate k f id s).2 := by
  unfold Machine.aeUpdate
  split
  · exact h.takeFree
  · extract_lets mean
    split
    next free s1 heq =>
    have h1 : Keeps r s1 := (Keeps.iteSnd h.takeFree h).ofSnd heq
    exact h1

theorem Keeps.aeResult {id : FrameId} (h : Keeps r s) : Keeps r (aeResult id s) := by
  unfold Machine.aeResult
  split
  · exact h
  · split
    · exact h
    · split
      · exact h
      · split
        next u s1 heq =>
        have h1 : Keeps r s1 := h.readRecords.countVersion.aeUpdate.ofSnd heq
        extract_lets mine others new x2 s2
        have h2 : Keeps r s2 := .ite h1.rest h1
        clear_value s2
        exact .ite h2.rest h2

theorem Keeps.execAeResult {t' : Instant} {frame : FrameId} (h : Keeps r s) : KeepsNext r (execAeResult t' frame s) :=
  .next (.ite h.setNow.aeResult h.setNow)

/-! #### Machine/Flow.lean -/

theorem Keeps.noteOrder {id : FrameId} {guardOrder : Bool} (h : Keeps r s) : Keeps r (noteOrder id guardOrder s) :=
  .ite h h.rest.raise

theorem Keeps.takeOb {f : FrameRec} {b : ObSums} (h : Keeps r s) : Keeps r (takeOb f b s).2 := by
  unfold Machine.takeOb
  split
  · exact h.rest
  · exact .ite h.rest h.rest.raise

theorem Keeps.takeTemps {b : BlackInfo} (h : Keeps r s) : Keeps r (takeTemps b s).2 :=
  .iteSnd h.rest (.iteSnd h.rest h.rest.raise)

theorem Keeps.countRestart {v : FrontVersion} (h : Keeps r s) : Keeps r (countRestart v s) := .ite h.rest h

theorem Keeps.takeGrid {id : FrameId} (h : Keeps r s) : Keeps r (takeGrid id s).2 := by
  unfold Machine.takeGrid
  split
  · exact .iteSnd (.ite h.rest h) h
  · exact h

theorem Keeps.firstVersion (h : Keeps r s) : Keeps r (firstVersion s) := by
  unfold Machine.firstVersion
  split
  · exact h
  · extract_lets +onlyGivenNames x1
    extract_lets +onlyGivenNames x2 x3 s4
    have h4 : Keeps r s4 := h.rest
    split
    · split
      · exact .ite h4 h4.runKernel
      · exact h4
    · exact h4

theorem Keeps.markReading {src : VersionSrc} (h : Keeps r s) : Keeps r (markReading src s) := by
  unfold Machine.markReading
  split
  · exact h.updHist
  · exact h.rest
  · exact h.updIngress

theorem Keeps.backEnd (h : Keeps r s) : Keeps r (backEnd s) := .ite h h.rest.backTables

theorem Keeps.abandonTap {v : FrontVersion} {t' : TapRun} (h : Keeps r s) : Keeps r (abandonTap v t' s) :=
  (h.foldl (fun _ h1 _ => h1.feedEnd)).updKernel.updVersion

theorem Keeps.startTaps {i : ℕ} (h : Keeps r s) : Keeps r (startTaps i s) := by
  unfold Machine.startTaps
  split
  · exact h
  · exact h.foldl (fun _ h1 _ => h1.abandonTap)

theorem Keeps.beginLocal {i : Nat} {src : VersionSrc} {f : FrameRec} {ob : ObSums} {b : BlackInfo} (h : Keeps r s) :
    Keeps r (beginLocal i src f ob b s) := by
  unfold Machine.beginLocal
  extract_lets order
  split
  next o s1 h1 =>
  split
  next ts s2 h2 =>
  split
  next g s3 h3 =>
  have h3 : Keeps r s3 := ((h.takeOb.ofSnd h1).takeTemps.ofSnd h2).takeGrid.ofSnd h3
  extract_lets p v v' s4
  have h4 : Keeps r s4 := h3.noteOrder.countRestart
  clear_value s4
  exact h4.rest.markReading.startTaps

theorem Keeps.beginIngress {i : ℕ} {k : ℕ} (h : Keeps r s) : Keeps r (beginIngress i k s) := by
  unfold Machine.beginIngress
  extract_lets +onlyGivenNames x1 x2 x3 x4 x5 s6
  have h6 : Keeps r s6 := h.noteOrder
  exact h6.rest.markReading

theorem Keeps.beginVersion {i : ℕ} (h : Keeps r s) : Keeps r (beginVersion i s) := by
  unfold Machine.beginVersion
  split
  · exact h
  · extract_lets +onlyGivenNames s1
    have h1 : Keeps r s1 := h.backEnd.firstVersion
    split
    · exact h1.beginIngress
    · split
      · exact h1.beginLocal
      · exact h1

theorem Keeps.setNrHeld {r' : ℕ} {l : List ℕ} (h : Keeps r s) : Keeps r (setNrHeld r' l s) := h.rest

theorem Keeps.feedNrRank {i : Nat} {v : FrontVersion} {c : Corrected} {copy : Option Img} {p : StripPlan} {bob rank ready n : Nat}
    (h : Keeps r s) : Keeps r (feedNrRank i v c copy p bob rank ready n s) := by
  induction n generalizing s with
  | zero => exact h
  | succ n ih =>
    unfold Machine.feedNrRank
    split
    · exact h
    · refine .ite h (ih (.updVersion (.ite (.setNrHeld ?_) ?_)))
      all_goals
        split
        · exact h.feedElem.feedElem
        · exact h.feedElem

theorem Keeps.feedNr {i : ℕ} (h : Keeps r s) : Keeps r (feedNr i s) := by
  unfold Machine.feedNr
  split
  · exact h
  · split
    · exact h
    · exact .ite h (h.foldl (fun _ h1 _ => h1.feedNrRank))

theorem Keeps.feedTapRank {i : Nat} {v : FrontVersion} {c : Corrected} {p : StripPlan} {kid bob rank rows n : Nat} (h : Keeps r s) :
    Keeps r (feedTapRank i v c p kid bob rank rows n s) := by
  induction n generalizing s with
  | zero => exact h
  | succ n ih =>
    unfold Machine.feedTapRank
    split
    · exact h
    · exact .ite h (ih h.feedElem.updVersion)

theorem Keeps.feedTaps {i : ℕ} (h : Keeps r s) : Keeps r (feedTaps i s) := by
  unfold Machine.feedTaps
  split
  · exact h
  · exact .ite h (h.foldl (fun _ h1 _ => h1.foldl (fun _ h2 _ => h2.feedTapRank)))

theorem Keeps.passTaps {i : ℕ} (h : Keeps r s) : Keeps r (passTaps i s) := by
  unfold Machine.passTaps
  split
  · exact h
  · exact h.foldl (fun _ h1 _ => h1.abandonTap)

theorem Keeps.endTap {v : FrontVersion} {t' : TapRun} (h : Keeps r s) : Keeps r (endTap v t' s) :=
  .ite h (.ite h.countVersion h.abandonTap)

theorem Keeps.drainOne {b : Nat} (h : Keeps r s) (e : drainOne b s = some t) : Keeps r t := by
  unfold Machine.drainOne at e
  dsimp only at e
  split at e
  · cases e
  next v rest _ =>
    have hd : Keeps r (Machine.updBobbin b (fun x => { x with outq := rest }) s) := h.updBobbin fun _ hx => hx.regs
    split at e
    · split at e
      · cases e
      · obtain ⟨v, -, e⟩ := Option.bind_eq_some_iff.1 e
        obtain ⟨q, -, rfl⟩ := Option.map_eq_some_iff.1 e
        exact .ite hd.updVersion.setNrHeld hd.updVersion
    · split at e
      · split at e
        · cases e
          exact hd.updChannel
        · obtain ⟨q, -, e⟩ := Option.bind_eq_some_iff.1 e
          obtain ⟨k, -, e⟩ := Option.bind_eq_some_iff.1 e
          split at e
          · cases e
            exact hd.updChannel
          · cases e
      · cases e

theorem Keeps.drainOut {b n : Nat} (h : Keeps r s) : Keeps r (drainOut b n s) := by
  induction n generalizing s with
  | zero => exact h
  | succ n ih =>
    unfold Machine.drainOut
    split
    next heq => exact ih (h.drainOne heq)
    next => exact h

theorem Keeps.pump (h : Keeps r s) : Keeps r (pump s) := by
  unfold Machine.pump
  split
  · exact h
  · extract_lets +onlyGivenNames s1
    have h1 : Keeps r s1 := h.foldl (fun _ h1 _ => h1.drainOut)
    extract_lets +onlyGivenNames s2
    have h2 : Keeps r s2 := h1.foldl (fun _ h1 _ => h1.feedNr.feedTaps)
    exact h2.foldl (fun _ h1 _ => by
      split
      · exact h1.advanceChannels
      · exact h1)

theorem Keeps.correctBand {v : FrontVersion} {f : FrameRec} {b : ℕ} (h : Keeps r s) : Keeps r (correctBand v f b s) := by
  unfold Machine.correctBand
  extract_lets +onlyGivenNames x1
  exact h.foldl (fun _ h1 _ => .ite h1 (by
    split
    · exact h1.correctRead.correctEntry
    · exact h1.correctRead.correctEntry))

theorem Keeps.countBand {i : ℕ} {v : FrontVersion} {ue : List ℕ} (h : Keeps r s) : Keeps r (countBand i v ue s) := by
  unfold Machine.countBand
  split
  · exact (h.correctBand.foldl (fun _ h1 _ => h1.countPipeUe)).updVersion
  · exact (h.foldl (fun _ h1 _ => h1.countCommonUe.spoilIngress)).updVersion

theorem Keeps.reachChannels {i : ℕ} (h : Keeps r s) : Keeps r (reachChannels i s) :=
  h.foldl (fun _ h1 _ => h1.channelArrival.offerRun)

theorem Keeps.takeBand {i : ℕ} {ecc : List EccHit} (h : Keeps r s) : Keeps r (takeBand i ecc s) := by
  unfold Machine.takeBand
  extract_lets +onlyGivenNames s1
  have h1 : Keeps r s1 := .ite h.beginVersion h
  split
  · exact h1
  · exact .ite h1 h1.passTaps.markEcc.countBand.reachChannels.updVersion.pump

theorem Keeps.bandSelect {ecc : List EccHit} (h : Keeps r s) : Keeps r (bandSelect ecc s) := by
  unfold Machine.bandSelect
  split
  · exact h
  · split
    · exact h.takeBand
    · exact h

theorem Keeps.beginNext (h : Keeps r s) : Keeps r (beginNext s) := by
  unfold Machine.beginNext
  split
  · exact h
  · split
    · exact h.beginVersion
    · exact h

theorem Keeps.markRead {src : VersionSrc} (h : Keeps r s) : Keeps r (markRead src s) := by
  unfold Machine.markRead
  split
  · exact h.updHist
  · exact h.rest
  · exact h.updIngress

theorem Keeps.countFixes {v : FrontVersion} (h : Keeps r s) : Keeps r (countFixes v s) := h.rest

theorem Keeps.keepVersion {v : FrontVersion} {c : Corrected} (h : Keeps r s) : Keeps r (keepVersion v c s) := by
  unfold Machine.keepVersion
  split
  · exact h
  · split
    · split
      · exact h.writeCopy.sampleVersion
      · exact h
    · exact h

theorem Keeps.countNr {v : FrontVersion} (h : Keeps r s) : Keeps r (countNr v s) := by
  unfold Machine.countNr
  split
  · exact .ite h h.countVersion
  · exact .ite h.countVersion h

theorem Keeps.dropDisabled {i : ℕ} (h : Keeps r s) : Keeps r (dropDisabled i s) := .ite h.rest.dropIngress h

theorem Keeps.endVersion {v : FrontVersion} (h : Keeps r s) : Keeps r (endVersion v s) := by
  unfold Machine.endVersion
  extract_lets +onlyGivenNames x1 s2
  have h2 : Keeps r s2 := h.countFixes.countNr
  extract_lets +onlyGivenNames s3
  have h3 : Keeps r s3 := h2.foldl (fun _ h1 _ => h1.endTap)
  extract_lets +onlyGivenNames s4
  have h4 : Keeps r s4 := h3.foldl (fun _ h1 _ => h1.endRun)
  extract_lets +onlyGivenNames s5
  have h5 : Keeps r s5 := h4.keepVersion
  extract_lets +onlyGivenNames s6
  have h6 : Keeps r s6 := h5.markRead
  exact h6.rest.dropDisabled.frontTables.noteStop.arbitrate

theorem Keeps.endNext (h : Keeps r s) : Keeps r (endNext s) := by
  unfold Machine.endNext
  extract_lets +onlyGivenNames s1
  have h1 : Keeps r s1 := by
    unfold s1
    exact (h.foldl (fun _ h1 _ => by
      split
      · exact .ite h1.reachChannels h1
      · exact h1)).pump
  split
  · exact h1.endVersion
  · exact h1

/-! #### Machine/Operands.lean -/

theorem KeepsBobbin.setV {r' : ℕ} {v : List Px} {x : Bobbin} (h : KeepsBobbin r x) : KeepsBobbin r (setV r' v x) := h.regs

theorem KeepsBobbin.setA {a : ℕ} {v : List ℤ} {x : Bobbin} (h : KeepsBobbin r x) : KeepsBobbin r (setA a v x) := h.regs

theorem KeepsBobbin.setS {r' : ℕ} {w : Word} {x : Bobbin} (h : KeepsBobbin r x) : KeepsBobbin r (setS r' w x) := h.regs

theorem KeepsBobbin.setP {p : ℕ} {m : BitVec 16} {x : Bobbin} (h : KeepsBobbin r x) : KeepsBobbin r (setP p m x) :=
  .ite h h.regs

theorem KeepsBobbin.setAg {n : ℕ} {g : AddrGen} {x : Bobbin} (h : KeepsBobbin r x) : KeepsBobbin r (setAg n g x) := h.regs

theorem KeepsBobbin.vmSet {a : Nat} {v : List Px} {x : Bobbin} (h : KeepsBobbin r x) : KeepsBobbin r (vmSet a v x) :=
  fun hr => ⟨smWf_smSet _ _ (h hr).1, (h hr).2⟩

theorem KeepsBobbin.smemSet {a : Nat} {w : Word} {x : Bobbin} (h : KeepsBobbin r x) : KeepsBobbin r (smemSet a w x) :=
  fun hr => ⟨(h hr).1, smWf_smSet _ _ (h hr).2⟩

/-! #### Machine/Flags.lean -/

theorem KeepsBobbin.putAcc {a : ℕ} {vs : List ℤ} {x : Bobbin} (h : KeepsBobbin r x) : KeepsBobbin r (putAcc a vs x) :=
  (show KeepsBobbin r (Machine.setA a (List.map Machine.accClamp vs) x) from h.setA).regs

/-! #### Machine/BobbinRun.lean -/

theorem KeepsBobbin.goOn {last : ℕ} {x : Bobbin} (h : KeepsBobbin r x) : KeepsBobbin r (goOn last x) := h.regs

theorem KeepsBobbin.nextPc {x : Bobbin} (h : KeepsBobbin r x) : KeepsBobbin r (nextPc x) := h.goOn

theorem Keeps.remoteWrite {b : Nat} {w : Window} {a : Nat} {bs : List Byte} (h : Keeps r s) : Keeps r (remoteWrite b w a bs s) :=
  .ite h.dramWrite (h.putPillow fun _ hm => memSetBytes_wf _ _ hm)

theorem KeepsBobbin.takeItems {t' : Transfer} {bs : List Byte} {x : Bobbin} (h : KeepsBobbin r x) :
    KeepsBobbin r (takeItems t' bs x) := by
  unfold Machine.takeItems
  split
  · exact fun hr => ⟨(h hr).1, smWf_smSetMany _ _ (h hr).2⟩
  · exact fun hr => ⟨smWf_smSetMany _ _ (h hr).1, (h hr).2⟩

theorem Keeps.moveData {b : Nat} {t' : Transfer} {ecc : List EccHit} (h : Keeps r s) : Keeps r (moveData b t' ecc s) := by
  unfold Machine.moveData
  split
  · exact h
  · refine .ite h.remoteWrite (Keeps.foldl (Keeps.updBobbin ?_ fun x hx => ?_) fun _ hu _ => hu.countCommonUe)
    · exact .ite h.markEcc.correctRead h
    · exact .ite hx.takeItems.regs hx.takeItems

theorem Keeps.finishTransfers {b : ℕ} (h : Keeps r s) : Keeps r (finishTransfers b s) :=
  (h.updBobbin (fun _ h1 => h1.regs)).foldl (fun _ h1 _ => h1.moveData)

theorem Keeps.finishKernel {kid : ℕ} (h : Keeps r s) : Keeps r (finishKernel kid s) :=
  h.foldl (fun _ h1 _ => h1.finishTransfers)

theorem Keeps.bobbinFault {b : ℕ} {code : ℕ} (h : Keeps r s) : Keeps r (bobbinFault b code s) :=
  h.finishKernel.faultKernel.pump

theorem Keeps.vendorFault {b : ℕ} {code : ℕ} (h : Keeps r s) : Keeps r (vendorFault b code s) :=
  .ite h.takeFree h.takeFree.faultKernel

theorem Keeps.issueWith {i : BobbinIssue} {w : Word} {use : MemUse} {f : ℕ → State → State} (h : Keeps r s) (hf : ∀ (a : ℕ) (a_1 : State), Keeps r a_1 → Keeps r (f a a_1)) :
    KeepsNext r (issueWith i w use f s) := by
  unfold Machine.issueWith
  extract_lets +onlyGivenNames x1
  exact .next (by
    split
    · exact .ite h.vendorFault (.ite h.bobbinFault h)
    · exact .ite (hf _ _ h) h)

theorem Keeps.issueOwn {i : BobbinIssue} {w : Word} {f : Bobbin → Bobbin} (h : Keeps r s) (hf : ∀ (a : Bobbin), KeepsBobbin r a → KeepsBobbin r (f a)) :
    KeepsNext r (issueOwn i w f s) := h.issueWith (fun _ _ h1 => h1.updBobbin (fun _ h2 => .nextPc (hf _ h2)))

theorem Keeps.issueMem {i : BobbinIssue} {w : Word} {use : MemUse} {f : Bobbin → Option Bobbin} {code : Nat} (h : Keeps r s)
    (hf : ∀ x y, KeepsBobbin r x → f x = some y → KeepsBobbin r y) : KeepsNext r (issueMem i w use f code s) := by
  refine h.issueWith fun b u hu => ?_
  split
  next x heq => exact hu.updBobbin fun _ _ => (hf _ x hu.bobbin heq).nextPc
  next => exact hu.bobbinFault

theorem Keeps.jumpTo {b target : Nat} {f : Bobbin → Bobbin} (h : Keeps r s) (hf : ∀ x, KeepsBobbin r x → KeepsBobbin r (f x)) :
    Keeps r (jumpTo b target f s) :=
  .ite h.bobbinFault (h.updBobbin fun _ hx => (hf _ hx).regs)

theorem Keeps.waitFor {b : ℕ} {w : BobbinWait} (h : Keeps r s) : Keeps r (waitFor b w s) :=
  h.updBobbin (fun _ h1 => h1.regs)

theorem KeepsBobbin.notIdle {x : Bobbin} (h : KeepsBobbin r x) : KeepsBobbin r (notIdle s x) := h.regs

theorem Keeps.dropLeftover {b : ℕ} (h : Keeps r s) : Keeps r (dropLeftover b s) := .ite h h.updChannel

theorem KeepsBobbin.popInto {q : ℕ} {vd : ℕ} {x : Bobbin} (h : KeepsBobbin r x) : KeepsBobbin r (popInto q vd x) := by
  unfold Machine.popInto
  extract_lets +onlyGivenNames x1
  exact .ite ((show KeepsBobbin r (Machine.setV vd x1.vec x) from h.setV).regs) ((show KeepsBobbin r (Machine.setV vd x1.vec x) from h.setV).regs)

theorem Keeps.popNow {b q vd : ℕ} (h : Keeps r s) : Keeps r (popNow b q vd s) := by
  unfold Machine.popNow
  extract_lets s1
  have h1 : Keeps r s1 := .ite h.dropLeftover h
  exact .ite h.bobbinFault (h1.updBobbin fun _ hx => hx.popInto.nextPc.notIdle).pump

theorem Keeps.pushNow {b vs : ℕ} (h : Keeps r s) : Keeps r (pushNow b vs s) := by
  have hf : ∀ x : Bobbin, KeepsBobbin r x → KeepsBobbin r (notIdle s (nextPc { x with outq := x.outq ++ [⟨vReg x vs, []⟩] })) :=
    fun _ hx => KeepsBobbin.notIdle (KeepsBobbin.nextPc hx.regs)
  exact .ite h.bobbinFault (.ite h.waitFor (h.updBobbin hf).pump)

theorem Keeps.setSem {b : ℕ} {n : ℕ} {v : BitVec 16} (h : Keeps r s) : Keeps r (setSem b n v s) := h.rest

theorem Keeps.postSem {b : ℕ} {n : ℕ} (h : Keeps r s) : Keeps r (postSem b n s) := .ite h.takeFree.setSem h.setSem

theorem Keeps.takeSem {b : ℕ} {n : ℕ} (h : Keeps r s) : Keeps r (takeSem b n s) :=
  h.setSem.updBobbin (fun _ h1 => h1.nextPc)

theorem Keeps.atomNow {b sd sa sb op : Nat} (h : Keeps r s) : Keeps r (atomNow b sd sa sb op s) := by
  unfold Machine.atomNow
  extract_lets x k a old v
  refine .ite h.bobbinFault ?_
  split
  next w s1 heq =>
  have h1 : Keeps r s1 := (Keeps.iteSnd h.takeFree h).ofSnd heq
  exact (h1.putPillow fun _ hm => memSetWord_wf _ _ hm).updBobbin fun _ hx => hx.setS.nextPc

theorem Keeps.publishNow {b : ℕ} (h : Keeps r s) : Keeps r (publishNow b s) := .ite h (.ite h.updKernel.raise h.updKernel)

theorem Keeps.haltNow {b : ℕ} (h : Keeps r s) : Keeps r (haltNow b s) :=
  .ite h.bobbinFault (.ite (h.updBobbin (fun _ h1 => h1.regs)).finishKernel.endKernel (h.updBobbin (fun _ h1 => h1.regs)))

theorem KeepsBobbin.takeStatus {tag : ℕ} {sd : ℕ} {x : Bobbin} (h : KeepsBobbin r x) :
    KeepsBobbin r (takeStatus tag sd x) :=
  ((show KeepsBobbin r (Machine.setS sd (Machine.wordOf (Machine.b2n (List.contains x.tagUe tag))) x) from h.setS).regs).nextPc

theorem KeepsBobbin.resumeXfer {x : Bobbin} (h : KeepsBobbin r x) : KeepsBobbin r (resumeXfer x) := by
  unfold Machine.resumeXfer
  split
  · exact .ite h h.takeStatus
  · exact .ite h h.nextPc
  · exact h

theorem Keeps.xferNow {b : ℕ} {t' : Transfer} (h : Keeps r s) : Keeps r (xferNow b t' s) :=
  .ite h.bobbinFault (.ite h.bobbinFault (h.updBobbin (fun _ h1 => h1.regs.nextPc)))

/-! #### Machine/Bobbin.lean -/

theorem KeepsBobbin.vopTo {vd : ℕ} {va : List Px} {vb : List Px} {p : ℕ} {ty : ℕ} {op : ℕ} {x : Bobbin} (h : KeepsBobbin r x) :
    KeepsBobbin r (vopTo vd va vb p ty op x) := h.setV

theorem Keeps.execVop {b : BobbinIssue} {vd : BitVec 5} {va : BitVec 5} {vb : BitVec 5} {p : BitVec 3} {ty : BitVec 2} {op : BitVec 6} (h : Keeps r s) :
    KeepsNext r (execVop b vd va vb p ty op s) := h.issueOwn (fun _ h1 => h1.vopTo)

theorem Keeps.execVops {b : BobbinIssue} {vd : BitVec 5} {va : BitVec 5} {sb : BitVec 4} {p : BitVec 3} {ty : BitVec 2} {op : BitVec 6} (h : Keeps r s) :
    KeepsNext r (execVops b vd va sb p ty op s) := h.issueOwn (fun _ h1 => h1.vopTo)

theorem Keeps.execVimm {b : BobbinIssue} {vd : BitVec 5} {imm : BitVec 20} (h : Keeps r s) :
    KeepsNext r (execVimm b vd imm s) := h.issueOwn (fun _ h1 => h1.setV)

theorem Keeps.execSop {b : BobbinIssue} {sd : BitVec 4} {sa : BitVec 4} {sb : BitVec 4} {op : BitVec 4} (h : Keeps r s) :
    KeepsNext r (execSop b sd sa sb op s) :=
  h.issueWith (fun _ _ h1 => .updBobbin (.iteSnd h1.takeFree h1) (fun _ h2 => h2.setS.nextPc))

theorem Keeps.execSaddi {b : BobbinIssue} {sd : BitVec 4} {sa : BitVec 4} {imm : BitVec 16} (h : Keeps r s) :
    KeepsNext r (execSaddi b sd sa imm s) := h.issueOwn (fun _ h1 => h1.setS)

theorem Keeps.execSlui {b : BobbinIssue} {sd : BitVec 4} {imm : BitVec 16} (h : Keeps r s) :
    KeepsNext r (execSlui b sd imm s) := h.issueOwn (fun _ h1 => h1.setS)

theorem Keeps.execSori {b : BobbinIssue} {sd : BitVec 4} {sa : BitVec 4} {imm : BitVec 16} (h : Keeps r s) :
    KeepsNext r (execSori b sd sa imm s) := h.issueOwn (fun _ h1 => h1.setS)

theorem Keeps.execBcc {b : BobbinIssue} {cond : BitVec 5} {sa sb : BitVec 4} {off : BitVec 11} (h : Keeps r s) :
    KeepsNext r (execBcc b cond sa sb off s) :=
  h.issueWith fun _ _ hu => .ite (hu.jumpTo fun _ hx => hx) (hu.updBobbin fun _ hx => hx.nextPc)

theorem Keeps.execJmp {b : BobbinIssue} {kind sd sa : BitVec 4} {target : BitVec 12} (h : Keeps r s) :
    KeepsNext r (execJmp b kind sd sa target s) :=
  h.issueWith fun _ _ hu => .ite (hu.jumpTo fun _ hx => hx) (.ite (hu.jumpTo fun _ hx => hx.setS) (hu.jumpTo fun _ hx => hx))

theorem Keeps.execLoop {b : BobbinIssue} {sa : BitVec 4} {len : BitVec 11} (h : Keeps r s) :
    KeepsNext r (execLoop b sa len s) :=
  h.issueWith (fun _ _ h1 => .ite (h1.updBobbin (fun _ h2 => h2.goOn)) (.ite h1.bobbinFault (h1.updBobbin (fun _ h2 => h2.regs))))

theorem Keeps.execNop {b : BobbinIssue} (h : Keeps r s) : KeepsNext r (execNop b s) := h.issueOwn fun _ hx => hx

theorem Keeps.execHalt {b : BobbinIssue} (h : Keeps r s) : KeepsNext r (execHalt b s) :=
  h.issueWith (fun _ _ h1 => h1.haltNow)

theorem Keeps.execPublish {b : BobbinIssue} {t' : Instant} (h : Keeps r s) : KeepsNext r (execPublish b t' s) :=
  h.setNow.issueWith (fun _ _ h1 => h1.publishNow.updBobbin (fun _ h2 => h2.nextPc))

theorem Keeps.execFence {b : BobbinIssue} (h : Keeps r s) : KeepsNext r (execFence b s) :=
  h.issueWith (fun _ _ h1 => .ite h1.waitFor (h1.updBobbin (fun _ h2 => h2.nextPc)))

theorem Keeps.execCycles {b : BobbinIssue} {sd : BitVec 4} {count : Word} (h : Keeps r s) :
    KeepsNext r (execCycles b sd count s) := h.issueOwn (fun _ h1 => h1.setS)

theorem KeepsBobbin.macTo {ad : ℕ} {va : List Px} {vb : List Px} {p : ℕ} {asg : Bool} {bsg : Bool} {op : ℕ} {x : Bobbin} (h : KeepsBobbin r x) :
    KeepsBobbin r (macTo ad va vb p asg bsg op x) := h.putAcc

theorem Keeps.execVmul {b : BobbinIssue} {ad : BitVec 2} {va : BitVec 5} {vb : BitVec 5} {p : BitVec 3} {asg : Bool} {bsg : Bool} {op : BitVec 6} (h : Keeps r s) :
    KeepsNext r (execVmul b ad va vb p asg bsg op s) := h.issueOwn (fun _ h1 => h1.macTo)

theorem Keeps.execVmuls {b : BobbinIssue} {ad : BitVec 2} {va : BitVec 5} {sb : BitVec 4} {p : BitVec 3} {asg : Bool} {bsg : Bool} {op : BitVec 6} (h : Keeps r s) :
    KeepsNext r (execVmuls b ad va sb p asg bsg op s) := h.issueOwn (fun _ h1 => h1.macTo)

theorem Keeps.execArnd {b : BobbinIssue} {vd : BitVec 5} {aa : BitVec 2} {clear : Bool} {round : Bool} {s20 : Bool} {shift : BitVec 5} (h : Keeps r s) :
    KeepsNext r (execArnd b vd aa clear round s20 shift s) := h.issueOwn (fun _ h1 => .ite h1.setV.setA h1.setV)

theorem Keeps.execAset {b : BobbinIssue} {ad : BitVec 2} {va : BitVec 5} {zero : Bool} {signed : Bool} {shift : BitVec 5} (h : Keeps r s) :
    KeepsNext r (execAset b ad va zero signed shift s) := h.issueOwn (fun _ h1 => h1.putAcc)

theorem KeepsBobbin.cmpTo {pd : ℕ} {va : List Px} {vb : List Px} {p : ℕ} {ty : ℕ} {cond : ℕ} {x : Bobbin} (h : KeepsBobbin r x) :
    KeepsBobbin r (cmpTo pd va vb p ty cond x) := h.setP

theorem Keeps.execVcmp {b : BobbinIssue} {pd : BitVec 3} {va : BitVec 5} {vb : BitVec 5} {p : BitVec 3} {ty : BitVec 2} {cond : BitVec 3} (h : Keeps r s) :
    KeepsNext r (execVcmp b pd va vb p ty cond s) := h.issueOwn (fun _ h1 => h1.cmpTo)

theorem Keeps.execVcmps {b : BobbinIssue} {pd : BitVec 3} {va : BitVec 5} {sb : BitVec 4} {p : BitVec 3} {ty : BitVec 2} {cond : BitVec 3} (h : Keeps r s) :
    KeepsNext r (execVcmps b pd va sb p ty cond s) := h.issueOwn (fun _ h1 => h1.cmpTo)

theorem Keeps.execVsel {b : BobbinIssue} {vd : BitVec 5} {va : BitVec 5} {vb : BitVec 5} {pn : BitVec 3} (h : Keeps r s) :
    KeepsNext r (execVsel b vd va vb pn s) := h.issueOwn (fun _ h1 => h1.setV)

theorem Keeps.execPlog {b : BobbinIssue} {pd : BitVec 3} {pa : BitVec 3} {pb : BitVec 3} {op : BitVec 3} (h : Keeps r s) :
    KeepsNext r (execPlog b pd pa pb op s) := h.issueOwn (fun _ h1 => h1.setP)

theorem Keeps.execPxfer {b : BobbinIssue} {toPred : Bool} {sr : BitVec 4} {p : BitVec 3} (h : Keeps r s) :
    KeepsNext r (execPxfer b toPred sr p s) := .ite (h.issueOwn (fun _ h1 => h1.setP)) (h.issueOwn (fun _ h1 => h1.setS))

theorem Keeps.execVshift {b : BobbinIssue} {vd : BitVec 5} {va : BitVec 5} {vb : BitVec 5} {k : BitVec 5} (h : Keeps r s) :
    KeepsNext r (execVshift b vd va vb k s) := h.issueOwn (fun _ h1 => h1.setV)

theorem Keeps.execVshuf {b : BobbinIssue} {vd : BitVec 5} {va : BitVec 5} {vb : BitVec 5} {op : BitVec 5} {ln : BitVec 4} (h : Keeps r s) :
    KeepsNext r (execVshuf b vd va vb op ln s) := h.issueOwn (fun _ h1 => h1.setV)

theorem Keeps.execVred {b : BobbinIssue} {rd : BitVec 5} {ra : BitVec 5} {ln : BitVec 5} {p : BitVec 3} {ty : BitVec 2} {op : BitVec 6} (h : Keeps r s) :
    KeepsNext r (execVred b rd ra ln p ty op s) := h.issueOwn (fun _ h1 => .ite h1.setV h1.setS)

theorem Keeps.execVld {b : BobbinIssue} {vd : BitVec 5} {sa : BitVec 4} {off : BitVec 11} (h : Keeps r s) :
    KeepsNext r (execVld b vd sa off s) := by
  refine h.issueMem fun x y hx e => ?_
  obtain ⟨-, ⟨⟩⟩ := Option.ite_none_right_eq_some.1 e
  exact hx.setV

theorem Keeps.execVst {b : BobbinIssue} {vs : BitVec 5} {sa : BitVec 4} {off : BitVec 11} (h : Keeps r s) :
    KeepsNext r (execVst b vs sa off s) := by
  refine h.issueMem fun x y hx e => ?_
  obtain ⟨-, ⟨⟩⟩ := Option.ite_none_right_eq_some.1 e
  exact hx.vmSet

theorem Keeps.execVlda {b : BobbinIssue} {vd : BitVec 5} {ag : BitVec 2} (h : Keeps r s) :
    KeepsNext r (execVlda b vd ag s) := by
  refine h.issueMem fun x y hx e => ?_
  obtain ⟨-, ⟨⟩⟩ := Option.ite_none_right_eq_some.1 e
  exact hx.setV.setAg

theorem Keeps.execVsta {b : BobbinIssue} {vs : BitVec 5} {ag : BitVec 2} {p : BitVec 3} (h : Keeps r s) :
    KeepsNext r (execVsta b vs ag p s) := by
  refine h.issueMem fun x y hx e => ?_
  obtain ⟨-, ⟨⟩⟩ := Option.ite_none_right_eq_some.1 e
  exact hx.vmSet.setAg

theorem Keeps.execAgset {b : BobbinIssue} {ag : BitVec 2} {sa : BitVec 4} {sb : BitVec 4} {half : Bool} (h : Keeps r s) :
    KeepsNext r (execAgset b ag sa sb half s) := h.issueOwn (fun _ h1 => h1.setAg)

theorem Keeps.execSld {b : BobbinIssue} {sd : BitVec 4} {sa : BitVec 4} {off : BitVec 11} (h : Keeps r s) :
    KeepsNext r (execSld b sd sa off s) := by
  refine h.issueMem fun x y hx e => ?_
  obtain ⟨-, ⟨⟩⟩ := Option.ite_none_right_eq_some.1 e
  exact hx.setS

theorem Keeps.execSst {b : BobbinIssue} {ss : BitVec 4} {sa : BitVec 4} {off : BitVec 11} (h : Keeps r s) :
    KeepsNext r (execSst b ss sa off s) := by
  refine h.issueMem fun x y hx e => ?_
  obtain ⟨-, ⟨⟩⟩ := Option.ite_none_right_eq_some.1 e
  exact hx.smemSet

theorem Keeps.execXfer {b : BobbinIssue} {sl : BitVec 4} {sr : BitVec 4} {sc : BitVec 4} {tag : BitVec 3} {scalar : Bool} {outward : Bool} {space : BitVec 2} (h : Keeps r s) :
    KeepsNext r (execXfer b sl sr sc tag scalar outward space s) := h.issueWith (fun _ _ h1 => h1.xferNow)

theorem Keeps.execXferComplete {b : Fin 128} {tag : BitVec 3} {ecc : List EccHit} (h : Keeps r s) :
    KeepsNext r (execXferComplete b tag ecc s) := by
  unfold Machine.execXferComplete
  exact .next (.ite h (by
    split
    · exact h
    · exact (h.updBobbin (fun _ h1 => h1.regs)).moveData.updBobbin (fun _ h1 => h1.resumeXfer)))

theorem Keeps.execXwait {b : BobbinIssue} {sd : BitVec 4} {tag : BitVec 3} (h : Keeps r s) :
    KeepsNext r (execXwait b sd tag s) := h.issueWith (fun _ _ h1 => .ite h1.waitFor (h1.updBobbin (fun _ h2 => h2.takeStatus)))

theorem Keeps.execSpop {b : BobbinIssue} {vd : BitVec 5} {queue : Fin 2} (h : Keeps r s) :
    KeepsNext r (execSpop b vd queue s) := h.issueWith (fun _ _ h1 => .ite h1.waitFor h1.popNow)

theorem Keeps.execSpush {b : BobbinIssue} {vs : BitVec 5} (h : Keeps r s) : KeepsNext r (execSpush b vs s) :=
  h.issueWith (fun _ _ h1 => h1.pushNow)

theorem Keeps.execQueueWaitRelease {b : Fin 128} (h : Keeps r s) : KeepsNext r (execQueueWaitRelease b s) := by
  unfold Machine.execQueueWaitRelease
  extract_lets +onlyGivenNames x1
  exact .next (.ite h (by
    split
    · exact .ite h h.popNow
    · exact .ite h (h.updBobbin (fun _ h1 => h1.regs)).pushNow
    · exact h))

theorem Keeps.execSmeta {b : BobbinIssue} {sd : BitVec 4} {queue : Fin 2} {field : BitVec 3} (h : Keeps r s) :
    KeepsNext r (execSmeta b sd queue field s) := h.issueOwn (fun _ h1 => h1.setS)

theorem Keeps.execBar {b : BobbinIssue} {n : Fin 4} (h : Keeps r s) : KeepsNext r (execBar b n s) :=
  h.issueWith (fun _ _ h1 => h1.waitFor)

theorem Keeps.execBarrierRelease {b : Fin 128} (h : Keeps r s) : KeepsNext r (execBarrierRelease b s) := by
  unfold Machine.execBarrierRelease
  exact .next (.ite h (by
    split
    · exact .ite (h.foldl (fun _ h1 _ => h1.updBobbin (fun _ h2 => h2.nextPc))) h
    · exact h))

theorem Keeps.execSem {b : BobbinIssue} {wait : Bool} {n : Fin 4} (h : Keeps r s) : KeepsNext r (execSem b wait n s) :=
  h.issueWith (fun _ _ h1 => .ite (h1.postSem.updBobbin (fun _ h2 => h2.nextPc)) (.ite h1.waitFor h1.takeSem))

theorem Keeps.execSemWaitRelease {b : Fin 128} (h : Keeps r s) : KeepsNext r (execSemWaitRelease b s) := by
  unfold Machine.execSemWaitRelease
  exact .next (.ite h (by
    split
    · exact .ite h h.takeSem
    · exact h))

theorem Keeps.execAtom {b : BobbinIssue} {sd : BitVec 4} {sa : BitVec 4} {sb : BitVec 4} {op : BitVec 2} (h : Keeps r s) :
    KeepsNext r (execAtom b sd sa sb op s) := h.issueWith (fun _ _ h1 => h1.atomNow)

/-! #### Machine/ClockOps.lean -/

theorem Keeps.updPll {p : Pll} {f : PllState → PllState} (h : Keeps r s) : Keeps r (updPll p f s) := by
  unfold Machine.updPll
  split
  · exact h.rest
  · exact h.rest
  · exact h.rest
  · exact h.rest

theorem Keeps.startLock {p : Pll} (h : Keeps r s) : Keeps r (startLock p s) := by
  unfold Machine.startLock
  extract_lets +onlyGivenNames x1 s2
  have h2 : Keeps r s2 := h.updPll
  exact .ite h2.rest h2

theorem Keeps.relock {p : Pll} (h : Keeps r s) : Keeps r (relock p s) := .ite h.startLock h.updPll

theorem Keeps.wdSync (h : Keeps r s) : Keeps r (wdSync s) := h.rest

/-! #### Machine/RingOps.lean -/

theorem Keeps.queueSlot {x : RawSlot} (h : Keeps r s) : Keeps r (queueSlot x s) := h.rest

theorem Keeps.sendMgmt {op : ℕ} {dest : BitVec 7} {ringB : Bool} {ws : List Word} (h : Keeps r s) :
    Keeps r (sendMgmt op dest ringB ws s) := h.queueSlot

theorem Keeps.queuePacket {type : ℕ} {prio : ℕ} {dest : BitVec 7} {port : BitVec 9} {ringB : Bool} {ws : List Word} (h : Keeps r s) :
    Keeps r (queuePacket type prio dest port ringB ws s) := h.foldl (fun _ h1 _ => h1.queueSlot)

theorem Keeps.setWrap {p : Port} {v : Bool} (h : Keeps r s) : Keeps r (setWrap p v s) := by
  unfold Machine.setWrap
  split
  · exact h.rest
  · exact h.rest

theorem Keeps.sendWrap {p : Port} {wrapped : Bool} (h : Keeps r s) : Keeps r (sendWrap p wrapped s) := h.sendMgmt

theorem Keeps.wrapPort {p : Port} (h : Keeps r s) : Keeps r (wrapPort p s) := by
  unfold Machine.wrapPort
  split
  · extract_lets +onlyGivenNames s1
    have h1 : Keeps r s1 := h.setWrap
    exact h1.rest.sendWrap.raise
  · exact h

theorem Keeps.sendProbe (h : Keeps r s) : Keeps r (sendProbe s) := h.rest.sendMgmt

theorem Keeps.sendJoin (h : Keeps r s) : Keeps r (sendJoin s) := h.rest.sendMgmt

theorem Keeps.collide {wait : ℕ} (h : Keeps r s) : Keeps r (collide wait s) := .ite h h.rest.raise

theorem Keeps.sendDelayReq {p : Port} (h : Keeps r s) : Keeps r (sendDelayReq p s) := h.updPort.sendMgmt

theorem Keeps.ringHopUp {p : Port} (h : Keeps r s) : Keeps r (ringHopUp p s) := by
  unfold Machine.ringHopUp
  extract_lets +onlyGivenNames x1 s2
  have h2 : Keeps r s2 := by
    unfold s2
    split
    · exact h.rest
    · exact h.rest
  exact .ite (.sendDelayReq (.ite h2.rest.sendWrap h2.rest)) (.sendProbe (.sendDelayReq (.ite h2.rest.sendWrap h2.rest)))

/-! #### Machine/TwOps.lean -/

theorem Keeps.mailReply {p : TwPort} {bs : List Byte} (h : Keeps r s) : Keeps r (mailReply p bs s) := h.updTw

theorem Keeps.mailFree {p : TwPort} (h : Keeps r s) : Keeps r (mailFree p s) := h.updTw

/-! #### Machine/Bureau.lean -/

theorem Keeps.deliver {p : Packet} {ws : List Word} (h : Keeps r s) : Keeps r (deliver p ws s) := by
  unfold Machine.deliver
  extract_lets +onlyGivenNames x1 x2 s3
  have h3 : Keeps r s3 := h.rest
  split
  · exact .ite h3 h3.mailReply
  · exact .ite h3 h3.mailReply
  · exact h3.queuePacket

theorem Keeps.unanswered {p : Packet} (h : Keeps r s) : Keeps r (unanswered p s) := by
  unfold Machine.unanswered
  split
  · exact .ite h h.mailFree
  · exact .ite h h.mailFree
  · exact h

theorem Keeps.storeReply {p : Packet} {ws : List Word} (h : Keeps r s) : Keeps r (storeReply p ws s) := h.rest

theorem Keeps.countReply {st : Status} (h : Keeps r s) : Keeps r (countReply st s) := by
  unfold Machine.countReply
  extract_lets +onlyGivenNames x1 s2
  have h2 : Keeps r s2 := .ite h.rest h.rest
  split
  · exact (show Keeps r s2 from .ite h.rest h.rest).rest
  · exact (show Keeps r s2 from .ite h.rest h.rest).rest
  · exact (show Keeps r s2 from .ite h.rest h.rest).rest
  · exact h2

theorem Keeps.noteCommand {p : Packet} {ws : List Word} (h : Keeps r s) : Keeps r (noteCommand p ws s) := by
  unfold Machine.noteCommand
  exact h.rest

theorem Keeps.answer {p : Packet} {r' : CmdResult} (h : Keeps r s) (hr' : Keeps r r'.state) : Keeps r (answer p r' s) :=
  .ite h.countReply.storeReply.noteCommand.unanswered h.countReply.storeReply.noteCommand.deliver

theorem Keeps.answerRefusal {p : Packet} {st : Status} {detail : ℕ} (h : Keeps r s) :
    Keeps r (answerRefusal p st detail s) := h.answer h

theorem Keeps.resendReply {p : Packet} {x : StoredReply} (h : Keeps r s) : Keeps r (resendReply p x s) :=
  .ite h.unanswered h.rest.deliver

theorem Keeps.retryOr {p : Packet} {k : Option StoredReply} {q : Option (Status × Nat)} (h : Keeps r s)
    (e : retryOr p s k q = some t) : Keeps r t := by
  unfold Machine.retryOr at e
  split at e
  · cases e
    exact h.resendReply
  · obtain ⟨x, -, rfl⟩ := Option.map_eq_some_iff.1 e
    exact h.answerRefusal

theorem Keeps.preAnswer {p : Packet} (h : Keeps r s) (e : preAnswer p s = some t) : Keeps r t := by
  unfold Machine.preAnswer at e
  split at e
  · split at e
    · cases e
      exact h.answerRefusal
    · exact h.retryOr e
  · exact h.retryOr e

theorem Keeps.settle {n : Nat} (h : Keeps r s) : Keeps r (settle n s) := by
  induction n generalizing s with
  | zero => exact h
  | succ n ih =>
    unfold Machine.settle
    split
    · exact h
    · split
      next => exact h
      next p rest _ _ _ heq => exact ih (Keeps.preAnswer (s := { s with bureau := { s.bureau with queue := rest } }) h.rest heq)

theorem Keeps.settleAll (h : Keeps r s) : Keeps r (settleAll s) := h.settle

theorem Keeps.finishCmd {p : Packet} {r' : CmdResult} (h : Keeps r before) (hr' : Keeps r r'.state) :
    Keeps r (finishCmd p r' before) := .settleAll (.answer (.ite hr' h) hr')

theorem Keeps.faultCmd {p : Packet} (h : Keeps r s) : Keeps r (faultCmd p s) := h.rest.raise.answerRefusal

theorem Keeps.executePacket {p : Packet} {body : Cmd → State → CmdResult} (h : Keeps r s) (hbody : ∀ (a : Cmd) (a_1 : State), Keeps r a_1 → Keeps r (body a a_1).state) :
    Keeps r (executePacket p body s) := by
  unfold Machine.executePacket
  extract_lets +onlyGivenNames x1
  have h1 : Keeps r x1.state := hbody _ _ h
  exact .ite h.faultCmd.settleAll (.ite h1.rest (h.finishCmd h1))

theorem Keeps.wakeDoze (h : Keeps r s) : Keeps r (wakeDoze s) := .ite h.rest.arbitrate h

theorem Keeps.runCmd {t' : Instant} {op : ℕ} {body : Cmd → State → CmdResult} (h : Keeps r s) (hbody : ∀ (a : Cmd) (a_1 : State), Keeps r a_1 → Keeps r (body a a_1).state) :
    KeepsNext r (runCmd t' op body s) := by
  unfold Machine.runCmd
  extract_lets +onlyGivenNames s1
  have h1 : Keeps r s1 := h.setNow.settleAll
  split
  · exact .ite (h1.rest.wakeDoze.executePacket hbody).next h1.next
  · exact h1.next

theorem Keeps.finishHeld {op : ℕ} {f : Cmd → State → CmdResult} (h : Keeps r s) (hf : ∀ (a : Cmd) (a_1 : State), Keeps r a_1 → Keeps r (f a a_1).state) :
    Keeps r (finishHeld op f s) := by
  unfold Machine.finishHeld
  split
  · exact h
  · exact .ite (.settleAll (.answer (hf _ _ h.rest) (hf _ _ h.rest))) h

theorem Keeps.notePeakQueue (h : Keeps r s) : Keeps r (notePeakQueue s) := h.rest

theorem Keeps.arrivePacket {p : Packet} (h : Keeps r s) : Keeps r (arrivePacket p s) :=
  .ite (.ite h.rest h) (.ite h.wakeDoze.unanswered (.ite h.wakeDoze.rest (.ite h.wakeDoze.answerRefusal h.wakeDoze.rest.notePeakQueue.settleAll)))

theorem Keeps.execCommandArrival {t' : Instant} {path : CmdPath} {bytes : List Byte} (h : Keeps r s) :
    KeepsNext r (execCommandArrival t' path bytes s) := by
  unfold Machine.execCommandArrival
  extract_lets +onlyGivenNames s1
  have h1 : Keeps r s1 := h.setNow
  exact .next (by
    split
    · exact h1.arrivePacket
    · exact h1)

theorem Keeps.execCmdPacketTimeout {t' : Instant} {src : BitVec 7} (h : Keeps r s) :
    KeepsNext r (execCmdPacketTimeout t' src s) := by
  unfold Machine.execCmdPacketTimeout
  extract_lets +onlyGivenNames s1
  have h1 : Keeps r s1 := h.setNow
  exact h1.rest.next

/-! #### Machine/Status.lean -/

theorem Keeps.setBank {b : Bool} {x : BankState} (h : Keeps r s) : Keeps r (setBank b x s) := .ite h.rest h.rest

theorem Keeps.getStatusBody {c : Cmd} (h : Keeps r s) : Keeps r (getStatusBody c s).state := by
  unfold Machine.getStatusBody
  extract_lets +onlyGivenNames x1
  split
  · exact h.cmdBad
  · exact .iteCmd h.cmdBad h.cmdOk

theorem Keeps.execGetStatus {t' : Instant} (h : Keeps r s) : KeepsNext r (execGetStatus t' s) :=
  h.runCmd (fun _ _ h1 => h1.getStatusBody)

/-! #### Machine/Diag.lean -/

theorem Keeps.identifyBody {_c : Cmd} (h : Keeps r s) : Keeps r (identifyBody _c s).state := h.cmdOk

theorem Keeps.setSession {r' : Requester} {v : Byte} (h : Keeps r s) : Keeps r (setSession r' v s) := by
  unfold Machine.setSession
  split
  · exact h.rest
  · exact h
  · exact h.rest
  · exact h.rest

theorem Keeps.negotiateBody {c : Cmd} (h : Keeps r s) : Keeps r (negotiateBody c s).state :=
  h.judged (.iteCmd h.cmdRefuse h.setSession)

theorem Keeps.execIdentify {t' : Instant} (h : Keeps r s) : KeepsNext r (execIdentify t' s) :=
  h.runCmd (fun _ _ h1 => h1.identifyBody)

theorem Keeps.execNegotiate {t' : Instant} (h : Keeps r s) : KeepsNext r (execNegotiate t' s) :=
  h.runCmd (fun _ _ h1 => h1.negotiateBody)

theorem Keeps.getEventsBody {c : Cmd} (h : Keeps r s) : Keeps r (getEventsBody c s).state :=
  h.judged (.iteCmd h.cmdBad (.iteCmd h.cmdBad h.rest.cmdOk))

theorem Keeps.execGetEvents {t' : Instant} (h : Keeps r s) : KeepsNext r (execGetEvents t' s) :=
  h.runCmd (fun _ _ h1 => h1.getEventsBody)

theorem Keeps.execEventSend {t' : Instant} (h : Keeps r s) : KeepsNext r (execEventSend t' s) := by
  unfold Machine.execEventSend
  extract_lets +onlyGivenNames s1
  have h1 : Keeps r s1 := h.setNow
  exact .ite h1.rest.queuePacket.next h1.next

theorem Keeps.corruptStream {i : ℕ} (h : Keeps r s) : Keeps r (corruptStream i s) := h.takeFree.updStream

theorem Keeps.corruptAt {a : Nat} (h : Keeps r s) : Keeps r (corruptAt a s) := by
  suffices hF : ∀ F, F = Machine.corruptAt → Keeps r (F a s) from hF _ rfl
  intro F hF
  delta Machine.corruptAt at hF
  subst hF
  obtain ⟨off, hoff⟩ : ∃ off, off = a - commonBase := ⟨_, rfl⟩
  beta_reduce
  rw [← hoff]
  dsimp only
  split
  · exact h.spoilIngress
  · exact h.corruptStream
  · exact h.takeFree.corruptStream
  · exact h

theorem Keeps.countUe {a : ℕ} (h : Keeps r s) : Keeps r (countUe a s) :=
  .ite h.countDrawerUe (.ite h.countPipeUe (.ite h.countCommonUe.corruptAt (.ite h.countCommonUe h)))

theorem Keeps.countUeWord {w : ℕ} (h : Keeps r s) : Keeps r (countUeWord w s) :=
  .ite h.countUe (.ite h.countDrawerUe h.countPipeUe)

theorem Keeps.peekRead {ecc : List EccHit} {lo hi : Nat} {data : State → List Word} (h : Keeps r s) :
    Keeps r (peekRead ecc lo hi data s).state := by
  unfold Machine.peekRead
  extract_lets s1 bad x
  have hx : Keeps r x.state := h.markEcc.correctWords.foldl fun _ hu _ => hu.countUeWord
  exact .iteCmd hx hx

theorem Keeps.turnPillow {w : Nat} (h : Keeps r s) : Keeps r (turnPillow w s) :=
  h.takeFree.putPillow fun _ hm => memSetNat_wf _ _ _ hm

theorem Keeps.peekPillow {ecc : List EccHit} {off : ℕ} {n : ℕ} (h : Keeps r s) :
    Keeps r (peekPillow ecc off n s).state :=
  .iteCmd (h.foldl (fun _ h1 _ => h1.turnPillow)).cmdOk (h.foldl (fun _ h1 _ => h1.turnPillow))

theorem Keeps.peekBody {ecc : List EccHit} {c : Cmd} (h : Keeps r s) : Keeps r (peekBody ecc c s).state :=
  h.judged (.iteCmd h.cmdBad (.iteCmd h.cmdBad (.iteCmd h.cmdBad (.iteCmd h.cmdBad (.iteCmd h.peekRead (.iteCmd h.peekRead (.iteCmd h.peekPillow h.cmdOk)))))))

theorem Keeps.pokeWords {kept : State → Nat → Nat} {a : Nat} {ws : List Word} (h : Keeps r s) : Keeps r (pokeWords kept a ws s) := by
  induction ws generalizing a s with
  | nil => exact h
  | cons w ws ih => exact ih (.ite h h.dramWriteWords)

theorem Keeps.pokeBody {c : Cmd} (h : Keeps r s) : Keeps r (pokeBody c s).state := by
  refine h.judged ?_
  refine .iteCmd h.cmdBad (.iteCmd h.cmdBad (.iteCmd (.iteCmd h.pokeWords.cmdOk h.cmdRefuse) (.iteCmd
    (.iteCmd h.cmdRefuse h.pokeWords.cmdOk) (.iteCmd h.cmdRefuse (.iteCmd h.cmdOk (.iteCmd ?_ h.cmdRefuse))))))
  exact h.putPillow fun _ hm => memSetWords_wf _ _ hm

theorem Keeps.execPeek {m : MemRead} (h : Keeps r s) : KeepsNext r (execPeek m s) := h.runCmd (fun _ _ h1 => h1.peekBody)

theorem Keeps.execPoke {t' : Instant} (h : Keeps r s) : KeepsNext r (execPoke t' s) := h.runCmd (fun _ _ h1 => h1.pokeBody)

theorem Keeps.injectPatternBody {c : Cmd} (h : Keeps r s) : Keeps r (injectPatternBody c s).state :=
  h.judged (.iteCmd h.cmdBad (.iteCmd h.cmdBad (.iteCmd h.cmdRefuse h.rest.cmdOk)))

theorem Keeps.execInjectPattern {t' : Instant} (h : Keeps r s) : KeepsNext r (execInjectPattern t' s) :=
  h.runCmd (fun _ _ h1 => h1.injectPatternBody)

/-! #### Machine/Raw20.lean -/

theorem Keeps.rawMisfit {i : ℕ} {f : FrameRec} {hist : Bool} (h : Keeps r s) : Keeps r (rawMisfit i f hist s) :=
  .ite h.rest.putDropped h.rest.putDropped.updChannel.raise

theorem Keeps.readRaw {i : ℕ} {k : ℕ} {h' : HistFrame} {hist : Bool} (h : Keeps r s) :
    Keeps r (readRaw i k h' hist s) := .ite h.rawMisfit h.updHist.updChannel

theorem Keeps.takeRaw {i n : Nat} (h : Keeps r s) : Keeps r (takeRaw i n s) := by
  induction n generalizing s with
  | zero => exact h
  | succ n ih =>
    unfold Machine.takeRaw
    split
    · exact h
    · exact .ite h.decideTake.updChannel.readRaw (ih h.decideTake.updChannel.passLost)

theorem Keeps.beginRaw {i : ℕ} (h : Keeps r s) : Keeps r (beginRaw i s) := by
  unfold Machine.beginRaw
  split
  · exact h
  · split
    · extract_lets +onlyGivenNames s1
      have h1 : Keeps r s1 := h.updChannel
      split
      · exact h1.readRaw
      · exact h1
    · exact h.passLost.takeRaw

theorem Keeps.execRaw20BeginFrame {t' : Instant} {strm : Fin 8} (h : Keeps r s) :
    KeepsNext r (execRaw20BeginFrame t' strm s) := h.setNow.beginRaw.next

theorem Keeps.endRaw {i : ℕ} (h : Keeps r s) : Keeps r (endRaw i s) := by
  unfold Machine.endRaw
  split
  · exact h
  · exact h.updHist.updChannel.passLost

theorem Keeps.offerRaw {i : Nat} (h : Keeps r s) : Keeps r (offerRaw i s) := by
  unfold Machine.offerRaw
  split
  · exact h
  · refine .ite h ?_
    split
    · exact h.endRaw
    · split
      next ok s1 heq =>
      have h1 : Keeps r s1 := h.arriveFrame.ofSnd heq
      exact .ite h1.endRaw (h1.updChannel).passLost

theorem Keeps.execStreamFrameArrival {t' : Instant} {strm : Fin 9} (h : Keeps r s) :
    KeepsNext r (execStreamFrameArrival t' strm s) := .next (.ite h.setNow h.setNow.offerRun.offerRaw)

theorem Keeps.rawBand {i : ℕ} (h : Keeps r s) : Keeps r (rawBand i s) := by
  unfold Machine.rawBand
  split
  · exact h
  · split
    · exact h
    · exact .ite h (((h.foldl (fun _ h1 _ => h1.correctRead.correctEntry)).foldl (fun _ h1 _ => h1.countPipeUe)).addPacket.foldl (fun _ h1 _ => h1.putLine)).updChannel

theorem Keeps.rawBands {i n : Nat} (h : Keeps r s) : Keeps r (rawBands i n s) := by
  induction n generalizing s with
  | zero => exact h
  | succ n ih =>
    unfold Machine.rawBands
    split
    · exact .ite (ih h.rawBand) h
    · exact h

theorem Keeps.closeRaw {i : ℕ} (h : Keeps r s) : Keeps r (closeRaw i s) := by
  unfold Machine.closeRaw
  split
  · exact .ite h.closeEntry.endRaw h
  · exact h

theorem Keeps.execStreamTrailerWrite {t' : Instant} {strm : Fin 9} (h : Keeps r s) :
    KeepsNext r (execStreamTrailerWrite t' strm s) := .next (.ite h.setNow h.setNow.writeTrailer.rawBands.closeRaw)

theorem Keeps.refill {i : ℕ} (h : Keeps r s) : Keeps r (refill i s) := by
  unfold Machine.refill
  split
  · exact .ite h.writeTrailer.rawBand.closeRaw h
  · exact h

/-! #### Machine/PipeCmds.lean -/

theorem Keeps.pipeConfigBody {c : Cmd} (h : Keeps r s) : Keeps r (pipeConfigBody c s).state := by
  unfold Machine.pipeConfigBody
  refine h.judged (.iteCmd h.cmdBad (.iteCmd h.cmdRefuse (.iteCmd h.cmdRefuse ?_)))
  dsimp only
  split
  · exact h.cmdBudget
  · exact h.rest.arbitrate.cmdOk

theorem Keeps.setPipeParamsBody {c : Cmd} (h : Keeps r s) : Keeps r (setPipeParamsBody c s).state := by
  unfold Machine.setPipeParamsBody
  extract_lets +onlyGivenNames x1 x2 x3 x4
  exact h.judged (by
    split
    · exact h.cmdBad
    · split
      · exact h.rest.cmdOk
      · split
        · exact h.cmdBad
        · exact h.cmdRefuse
        · exact h.rest)

theorem Keeps.streamConfigBody {c : Cmd} (h : Keeps r s) : Keeps r (streamConfigBody c s).state := by
  unfold Machine.streamConfigBody
  extract_lets +onlyGivenNames x1 x2 x3 x4 x5
  exact h.judged (by
    split
    · exact h.cmdBad
    · split
      · exact h.cmdRefuse
      · extract_lets +onlyGivenNames s6
        have h6 : Keeps r s6 := h.updStreamCfg.updStream
        exact h6.rest.arbitrate.cmdOk)

theorem Keeps.streamEnableBody {c : Cmd} (h : Keeps r s) : Keeps r (streamEnableBody c s).state :=
  h.judged (.iteCmd h.cmdRefuse (.iteCmd h.cmdRefuse (.iteCmd h.cmdRefuse (h.foldl (fun _ h1 _ => .ite h1 h1.startStream)).arbitrate.cmdOk)))

theorem Keeps.endChannelKernel {r' : ChannelRun} (h : Keeps r s) : Keeps r (endChannelKernel r' s) := by
  unfold Machine.endChannelKernel
  split
  · exact h
  · exact .ite h (h.foldl (fun _ h1 _ => h1.feedEnd))

theorem Keeps.dropRuns {i : ℕ} (h : Keeps r s) : Keeps r (dropRuns i s) := by
  unfold Machine.dropRuns
  extract_lets +onlyGivenNames s1
  have h1 : Keeps r s1 := by
    unfold s1
    split
    · exact .ite h h.endRaw
    · exact h
  split
  · exact h1
  · exact .ite h1 (.ite h1.updChannel h1.endChannelKernel.updChannel)

theorem Keeps.doneStopping {i : ℕ} (h : Keeps r s) : Keeps r (doneStopping i s) := .ite h.updStream h

theorem Keeps.haltStream {i : ℕ} {cut : Bool} {reason : ℕ} (h : Keeps r s) : Keeps r (haltStream i cut reason s) :=
  h.stopStream.updChannel.dropRuns.tryRelease.arbitrate.doneStopping

theorem Keeps.streamDisableBody {c : Cmd} (h : Keeps r s) : Keeps r (streamDisableBody c s).state :=
  h.judged (.iteCmd (h.foldl (fun _ h1 _ => h1.haltStream)).arbitrate.cmdHeld (h.foldl (fun _ h1 _ => h1.haltStream)).arbitrate.cmdOk)

theorem Keeps.setStreamParamsBody {c : Cmd} (h : Keeps r s) : Keeps r (setStreamParamsBody c s).state :=
  h.judged (.iteCmd h.cmdBad (.iteCmd h.cmdBad h.updStream.cmdOk))

/-! #### Machine/Blocks.lean -/

theorem Keeps.sendBlocks {p : Port} {bs : List PortBlock} (h : Keeps r s) : Keeps r (sendBlocks p bs s) := by
  unfold Machine.sendBlocks
  extract_lets +onlyGivenNames x1 x2 s3
  have h3 : Keeps r s3 := h.updPort
  exact h3.rest

theorem Keeps.sendCtl {p : Port} {bs : List (BitVec 64)} (h : Keeps r s) : Keeps r (sendCtl p bs s) := by
  unfold Machine.sendCtl
  extract_lets +onlyGivenNames s1
  have h1 : Keeps r s1 := h.sendBlocks
  exact h1.rest

theorem Keeps.sendMarks {p : Port} {on : BitVec 4} (h : Keeps r s) : Keeps r (sendMarks p on s) := by
  unfold Machine.sendMarks
  extract_lets +onlyGivenNames x1 x2 x3 x4 s5
  have h5 : Keeps r s5 := h.updPort
  exact h5.rest

theorem Keeps.sendWire {p : Port} {x : RawSlot} {stomp : Bool} (h : Keeps r s) : Keeps r (sendWire p x stomp s) := by
  unfold Machine.sendWire
  extract_lets +onlyGivenNames x1 s2
  have h2 : Keeps r s2 := h.sendBlocks
  exact .ite h2 h2.rest

theorem Keeps.announce {p : Port} (h : Keeps r s) : Keeps r (announce p s) := h.sendMarks.sendCtl

theorem Keeps.driveDue {p : Port} (h : Keeps r s) : Keeps r (driveDue p s) := .ite h.updPort.announce h

/-! #### Machine/TrunkOps.lean -/

theorem Keeps.setPortRate {p : Port} (h : Keeps r s) : Keeps r (setPortRate p s) := .ite h h.updPort.updPll.relock

theorem Keeps.startAttempt {p : Port} {tryFast : Bool} (h : Keeps r s) : Keeps r (startAttempt p tryFast s) :=
  .arbitrate (.ite h.updPort.updPort h.updPort.updPort.setPortRate.driveDue)

theorem Keeps.wakePort {p : Port} (h : Keeps r s) : Keeps r (wakePort p s) := .ite h.startAttempt h.driveDue

theorem Keeps.failAttempt {p : Port} {reason : ℕ} (h : Keeps r s) : Keeps r (failAttempt p reason s) :=
  .ite h.startAttempt (.ite h.updPort.raise.startAttempt h.takeFree.updPort.raise)

theorem Keeps.goUp {p : Port} (h : Keeps r s) : Keeps r (goUp p s) := h.updPort.raise.ringHopUp.arbitrate

theorem Keeps.turnTransit {p : Port} (h : Keeps r s) : Keeps r (turnTransit p s) := .ite h.updPort.updPort h

theorem Keeps.moveTransit {p : Port} (h : Keeps r s) : Keeps r (moveTransit p s) :=
  .ite h.rest.updPort.turnTransit h.updPort

theorem Keeps.loseHop {p : Port} (h : Keeps r s) : Keeps r (loseHop p s) := .ite h h.updPort.raise.wrapPort.moveTransit

theorem Keeps.hopDown {p : Port} (h : Keeps r s) : Keeps r (hopDown p s) := .ite h h.loseHop.startAttempt

theorem Keeps.resolveCaps {p : Port} {caps : BitVec 64} (h : Keeps r s) : Keeps r (resolveCaps p caps s) :=
  .ite h.failAttempt (.ite h.failAttempt (.ite h.failAttempt (.ite (.ite h.goUp h.failAttempt) (.ite h.goUp h.sendCtl.updPort))))

theorem Keeps.raiseWidth {p : Port} (h : Keeps r s) : Keeps r (raiseWidth p s) := h.raise

theorem Keeps.loseLane {p : Port} {l : ℕ} (h : Keeps r s) : Keeps r (loseLane p l s) :=
  .ite h (.ite h.updPort.raise.updPort h.updPort.raise.hopDown)

theorem Keeps.takeWidth {p : Port} {epoch : BitVec 4} (h : Keeps r s) : Keeps r (takeWidth p epoch s) := by
  unfold Machine.takeWidth
  extract_lets +onlyGivenNames s1
  have h1 : Keeps r s1 := h.updPort
  extract_lets +onlyGivenNames x2
  split
  · exact h1
  · exact .ite h1 (.arbitrate (.ite h1.updPort h1.updPort.raiseWidth))

theorem Keeps.resendFrom {p : Port} {keep : ReplaySlot → Bool} (h : Keeps r s) : Keeps r (resendFrom p keep s) := by
  unfold Machine.resendFrom
  extract_lets +onlyGivenNames x1
  split
  · exact h
  · exact .ite h.hopDown h.updPort

theorem Keeps.takeSlot {p : Port} {c : SlotCheck} {seq : BitVec 12} (h : Keeps r s) : Keeps r (takeSlot p c seq s).2 := by
  unfold Machine.takeSlot
  extract_lets x accept nak
  have ha : Keeps r accept := Keeps.updPort h
  have hn : Keeps r nak := Keeps.updPort h
  refine .iteSnd hn (.iteSnd ha (.iteSnd ?_ hn))
  dsimp only
  exact Keeps.updPort h

theorem Keeps.sendPrbs {p : Port} {l : ℕ} (h : Keeps r s) : Keeps r (sendPrbs p l s) := h.takeFree.rest

theorem Keeps.startPrbs {p : Port} {lanes : BitVec 4} (h : Keeps r s) : Keeps r (startPrbs p lanes s) :=
  h.foldl (fun _ h1 _ => .ite h1.sendPrbs h1)

theorem Keeps.enterDiag {p : Port} {test : BitVec 4} {lanes : BitVec 4} (h : Keeps r s) :
    Keeps r (enterDiag p test lanes s) := .ite h.loseHop.updPort.arbitrate.startPrbs h.loseHop.updPort.arbitrate

theorem Keeps.doAct {p : Port} {a : PortAct} (h : Keeps r s) : Keeps r (doAct p a s) := by
  unfold Machine.doAct
  extract_lets +onlyGivenNames s1
  have h1 : Keeps r s1 := h.updPort
  split
  · exact h1.loseHop.updPort.arbitrate
  · exact h1.loseHop.startAttempt
  · exact h1.enterDiag

theorem Keeps.doActs (h : Keeps r s) : Keeps r (doActs s) := by
  unfold Machine.doActs
  extract_lets one
  have hone : ∀ p u, Keeps r u → Keeps r (one p u) := fun p u hu => by
    unfold one
    split
    · exact hu.doAct
    · exact hu
  exact .ite h (hone _ _ (hone _ _ h))

/-! #### Machine/Stow.lean -/

theorem Keeps.enterStow (h : Keeps r s) : Keeps r (enterStow s) where
  pending := h.pending
  dram := h.dram
  pillows := fun _ _ hm => (List.eq_of_mem_replicate hm).symm ▸ memory_nothing_listed_wf
  bobbins := fun hr _ hx => (List.eq_of_mem_replicate hx).symm ▸ KeepsBobbin.empty r hr
  cells := h.cells

theorem Keeps.wakeStow (h : Keeps r s) : Keeps r (wakeStow s) :=
  .ite h (.arbitrate (.settleAll (.wakePort (.wakePort (.ite h.rest.relock.relock h.rest.relock)))))

theorem Keeps.settleStow (h : Keeps r s) : Keeps r (settleStow s) := .ite (.ite h.enterStow.wakeStow h.enterStow) h

theorem Keeps.wakeSource (h : Keeps r s) : Keeps r (wakeSource s) := .ite h (.ite h.rest h.wakeStow)

theorem Keeps.execStowWake {t' : Instant} {source : Option Port} (h : Keeps r s) :
    KeepsNext r (execStowWake t' source s) := .next (.ite h.setNow.wakeSource h.setNow)

/-! #### Machine/Trunk.lean -/

theorem Keeps.portEvent {t' : Instant} {f : State → State} (h : Keeps r s) (hf : ∀ (a : State), Keeps r a → Keeps r (f a)) :
    KeepsNext r (portEvent t' f s) := .next (.ite (hf _ h.setNow) h.setNow)

theorem Keeps.signalGone {p : Port} {l : ℕ} (h : Keeps r s) : Keeps r (signalGone p l s) :=
  .ite h (.ite h.loseLane h.updPort)

theorem Keeps.execSignalDetect {t' : Instant} {p : Port} {lane : Fin 4} {present : Bool} (h : Keeps r s) :
    KeepsNext r (execSignalDetect t' p lane present s) :=
  Keeps.portEvent (.ite h.setNow.wakeSource h.setNow) fun _ hu =>
    have hw := hu.updPort.wakePort
    .ite hw.updPort.arbitrate (.ite hw.failAttempt (.ite hw.signalGone hw))

theorem Keeps.adaptDone {p : Port} {eyes : List EyeOpening} (h : Keeps r s) : Keeps r (adaptDone p eyes s) :=
  .ite h.takeFree.takeFree.updPort.failAttempt (.ite h.takeFree.takeFree.updPort.failAttempt (.ite h.takeFree.takeFree.updPort.updPort.announce h.takeFree.takeFree.updPort.updPort))

theorem Keeps.trainUnused {p : Port} {lanes : BitVec 4} {eyes : List EyeOpening} (h : Keeps r s) :
    Keeps r (trainUnused p lanes eyes s) := h.updPort

theorem Keeps.execBringupStageComplete {t' : Instant} {p : Port} {lanes : BitVec 4} {eyes : List EyeOpening} (h : Keeps r s) :
    KeepsNext r (execBringupStageComplete t' p lanes eyes s) := by
  refine h.portEvent fun u hu => ?_
  extract_lets u1 recovery lock u2 x next
  have h2 : Keeps r u2 := .ite hu.wakePort.updPort hu.wakePort
  have hn : ∀ ph w, Keeps r w → Keeps r (next ph w) := fun _ _ hw => hw.updPort
  split
  · exact .ite h2 (hn _ _ h2.updPort)
  · exact .ite (hn _ _ h2) h2
  · exact .ite (hn _ _ h2) h2
  · exact .ite (hn _ _ h2) h2
  · refine .ite h2 ?_
    split
    · exact h2.failAttempt
    · exact hn _ _ h2
  · exact .ite h2.adaptDone h2
  · exact h2.trainUnused
  · split
    · exact .ite h2.resolveCaps h2
    · exact h2
  · exact h2

theorem Keeps.execBringupStageTimeout {t' : Instant} {p : Port} (h : Keeps r s) :
    KeepsNext r (execBringupStageTimeout t' p s) := by
  unfold Machine.execBringupStageTimeout
  exact h.portEvent (fun _ h1 => by
    split
    · exact .ite h1.failAttempt h1
    · exact h1)

theorem Keeps.execBringupBackoffEnd {t' : Instant} {p : Port} (h : Keeps r s) :
    KeepsNext r (execBringupBackoffEnd t' p s) := h.portEvent (fun _ h1 => .ite h1.startAttempt h1)

theorem Keeps.execRateSwitchIdleEnd {t' : Instant} {p : Port} (h : Keeps r s) :
    KeepsNext r (execRateSwitchIdleEnd t' p s) := h.portEvent (fun _ h1 => .ite h1.updPort.setPortRate.driveDue h1)

theorem Keeps.echoCtl {p : Port} {l : Option ℕ} {b : BitVec 64} (h : Keeps r s) : Keeps r (echoCtl p l b s) := .ite h.rest h

theorem Keeps.execFiller {t' : Instant} {p : Port} {drift : ℤ} (h : Keeps r s) :
    KeepsNext r (execFiller t' p drift s) := h.portEvent (fun _ h1 => .ite h1 h1.updPort)

theorem Keeps.execLaneMark {t' : Instant} {p : Port} {lane : Fin 4} {block : BitVec 64} (h : Keeps r s) :
    KeepsNext r (execLaneMark t' p lane block s) := by
  unfold Machine.execLaneMark
  exact h.portEvent (fun _ h1 => by
    split
    · exact h1.echoCtl
    · exact .ite h1.echoCtl.updPort.takeWidth (.ite h1.echoCtl.updPort h1.echoCtl))

theorem Keeps.execCaps {t' : Instant} {p : Port} {block : BitVec 64} (h : Keeps r s) :
    KeepsNext r (execCaps t' p block s) :=
  h.portEvent (fun _ h1 => .ite h1.echoCtl (.ite h1.echoCtl.updPort.failAttempt (.ite h1.echoCtl.updPort.failAttempt h1.echoCtl.updPort)))

theorem Keeps.execWidth {t' : Instant} {p : Port} {block : BitVec 64} (h : Keeps r s) :
    KeepsNext r (execWidth t' p block s) :=
  h.portEvent (fun _ h1 => .ite h1.echoCtl (.ite h1.echoCtl.updPort (.ite h1.echoCtl (.arbitrate (.ite h1.echoCtl.updPort.sendMarks h1.echoCtl.updPort.sendMarks.raiseWidth)))))

theorem Keeps.execAck {t' : Instant} {p : Port} {block : BitVec 64} (h : Keeps r s) :
    KeepsNext r (execAck t' p block s) := h.portEvent (fun _ h1 => .ite h1.echoCtl.updPort h1.echoCtl)

theorem Keeps.execNak {t' : Instant} {p : Port} {block : BitVec 64} (h : Keeps r s) :
    KeepsNext r (execNak t' p block s) := h.portEvent (fun _ h1 => .ite h1.echoCtl.resendFrom h1.echoCtl)

theorem Keeps.execDoze {t' : Instant} {p : Port} {block : BitVec 64} (h : Keeps r s) :
    KeepsNext r (execDoze t' p block s) := h.portEvent (fun _ h1 => .ite h1.echoCtl.updPort.arbitrate h1.echoCtl)

theorem Keeps.execReplayTimeout {t' : Instant} {p : Port} (h : Keeps r s) : KeepsNext r (execReplayTimeout t' p s) :=
  h.portEvent (fun _ h1 => .ite h1.resendFrom h1)

theorem Keeps.execLaneLoss {t' : Instant} {p : Port} {lane : Fin 4} (h : Keeps r s) :
    KeepsNext r (execLaneLoss t' p lane s) := h.portEvent (fun _ h1 => h1.loseLane)

theorem Keeps.execShedTimeout {t' : Instant} {p : Port} (h : Keeps r s) : KeepsNext r (execShedTimeout t' p s) := by
  unfold Machine.execShedTimeout
  exact h.portEvent (fun _ h1 => by
    split
    · exact .ite h1.hopDown h1
    · exact h1)

theorem Keeps.loseLowLanes {p : Port} (h : Keeps r s) : Keeps r (loseLowLanes p s) := by
  unfold Machine.loseLowLanes
  exact h.foldl (fun _ h1 _ => by
    split
    · exact .ite h1.loseLane h1
    · exact h1)

theorem Keeps.execFomMeasure {t' : Instant} {p : Port} {eyes : List EyeOpening} (h : Keeps r s) :
    KeepsNext r (execFomMeasure t' p eyes s) := h.portEvent (fun _ h1 => .ite h1 h1.takeFree.updPort.loseLowLanes)

theorem Keeps.execWidthRestore {t' : Instant} {p : Port} (h : Keeps r s) : KeepsNext r (execWidthRestore t' p s) :=
  h.portEvent (fun _ h1 => .ite h1.updPort h1)

theorem Keeps.execDozeEntry {t' : Instant} {p : Port} (h : Keeps r s) : KeepsNext r (execDozeEntry t' p s) :=
  h.portEvent (fun _ h1 => .ite h1.updPort h1)

theorem Keeps.execDozeWake {t' : Instant} {p : Port} (h : Keeps r s) : KeepsNext r (execDozeWake t' p s) :=
  h.portEvent (fun _ h1 => .ite h1.updPort.updPort.arbitrate h1)

theorem Keeps.execWakeLockTimeout {t' : Instant} {p : Port} {locked : BitVec 4} (h : Keeps r s) :
    KeepsNext r (execWakeLockTimeout t' p locked s) := by
  unfold Machine.execWakeLockTimeout
  exact h.portEvent (fun _ h1 => by
    split
    · exact .ite (h1.updPort.foldl (fun _ h2 _ => .ite h2 h2.loseLane)) h1
    · exact h1)

/-! #### Machine/Ring.lean -/

theorem Keeps.hopEvent {t' : Instant} {p : Port} {f : State → State} (h : Keeps r s) (hf : ∀ (a : State), Keeps r a → Keeps r (f a)) :
    KeepsNext r (hopEvent t' p f s) := .next (.ite (hf _ h.setNow) h.setNow)

theorem Keeps.ringEvent {t' : Instant} {f : State → State} (h : Keeps r s) (hf : ∀ (a : State), Keeps r a → Keeps r (f a)) :
    KeepsNext r (ringEvent t' f s) := .next (.ite (hf _ h.setNow) h.setNow)

theorem Keeps.noteHops {m : MgmtSlot} (h : Keeps r s) : Keeps r (noteHops m s) := h.rest

theorem Keeps.execDiscover {t' : Instant} {p : Port} {slot : MgmtSlot} (h : Keeps r s) :
    KeepsNext r (execDiscover t' p slot s) := h.hopEvent (fun _ h1 => h1.noteHops.sendMgmt)

theorem Keeps.probeReturned (h : Keeps r s) : Keeps r (probeReturned s) := .ite h.rest.sendJoin h

theorem Keeps.execProbe {t' : Instant} {p : Port} {slot : MgmtSlot} {backoff : ℕ} (h : Keeps r s) :
    KeepsNext r (execProbe t' p slot backoff s) :=
  h.hopEvent (fun _ h1 => .ite h1.probeReturned (.ite (.ite h1.sendMgmt.collide h1.sendMgmt) h1))

theorem Keeps.execClaimed {t' : Instant} {p : Port} {slot : MgmtSlot} {backoff : ℕ} (h : Keeps r s) :
    KeepsNext r (execClaimed t' p slot backoff s) := h.hopEvent (fun _ h1 => .ite h1.rest.collide h1)

theorem Keeps.execJoinBackoffEnd {t' : Instant} (h : Keeps r s) : KeepsNext r (execJoinBackoffEnd t' s) :=
  h.ringEvent (fun _ h1 => .ite h1.sendJoin h1)

theorem Keeps.execJoinRetry {t' : Instant} (h : Keeps r s) : KeepsNext r (execJoinRetry t' s) := by
  unfold Machine.execJoinRetry
  exact h.ringEvent (fun _ h1 => by
    split
    · exact .ite h1.sendJoin h1
    · exact h1)

theorem Keeps.execAssign {t' : Instant} {p : Port} {slot : MgmtSlot} (h : Keeps r s) :
    KeepsNext r (execAssign t' p slot s) := h.hopEvent (fun _ h1 => .ite h1.rest h1)

theorem Keeps.loseFeature {f : ℕ} (h : Keeps r s) : Keeps r (loseFeature f s) :=
  h.foldl (fun _ h1 _ => .ite h1.haltStream.raise h1)

theorem Keeps.noteSuspend {i : ℕ} (h : Keeps r s) : Keeps r (noteSuspend s i) := by
  unfold Machine.noteSuspend
  split
  · exact h
  · exact .ite h.rest.raise (.ite h.rest.raise h)

theorem Keeps.unwrapPort {p : Port} (h : Keeps r s) : Keeps r (unwrapPort p s) := .ite h.setWrap.raise h

theorem Keeps.applyTopology {w1 : Word} {w2 : Word} {w3 : Word} {w4 : Word} (h : Keeps r s) :
    Keeps r (applyTopology w1 w2 w3 w4 s) := by
  unfold Machine.applyTopology
  extract_lets +onlyGivenNames x1 x2 x3 x4 x5 x6 x7 x8 x9 x10 x11 x12 x13 x14 x15 s16
  have h16 : Keeps r s16 := h.rest
  extract_lets +onlyGivenNames s17
  have h17 : Keeps r s17 := .ite h16.raise h16
  extract_lets +onlyGivenNames s18
  have h18 : Keeps r s18 := .ite h17.unwrapPort.unwrapPort h17
  exact .foldl (.ite (.loseFeature (.ite h18.loseFeature h18)) (.ite h18.loseFeature h18)) (fun _ h1 _ => h1.noteSuspend)

theorem Keeps.execTopology {t' : Instant} {p : Port} {slot : MgmtSlot} (h : Keeps r s) :
    KeepsNext r (execTopology t' p slot s) := h.hopEvent (fun _ h1 => h1.applyTopology)

theorem Keeps.newRotation {ringB : Bool} (h : Keeps r s) : Keeps r (newRotation ringB s) := h.rest

theorem Keeps.execRotor {t' : Instant} {p : Port} {slot : MgmtSlot} (h : Keeps r s) :
    KeepsNext r (execRotor t' p slot s) := h.hopEvent (fun _ h1 => .ite h1.rest.newRotation h1.rest)

theorem Keeps.execOwnerLost {t' : Instant} (h : Keeps r s) : KeepsNext r (execOwnerLost t' s) := by
  unfold Machine.execOwnerLost
  exact h.ringEvent (fun _ h1 => by
    split
    · exact .ite h1.rest.newRotation.newRotation.raise h1
    · exact h1)

theorem Keeps.execSelfRotation {t' : Instant} (h : Keeps r s) : KeepsNext r (execSelfRotation t' s) :=
  h.ringEvent (fun _ h1 => .ite h1.rest.newRotation.newRotation h1)

theorem Keeps.execWrap {t' : Instant} {p : Port} {slot : MgmtSlot} (h : Keeps r s) :
    KeepsNext r (execWrap t' p slot s) := h.hopEvent (fun _ h1 => .ite h1.rest h1)

theorem Keeps.setAssign {i : ℕ} {a : Option PortAssign} (h : Keeps r s) : Keeps r (setAssign i a s) := h.rest

theorem Keeps.portAssignBody {c : Cmd} (h : Keeps r s) : Keeps r (portAssignBody c s).state :=
  h.judged (.iteCmd h.cmdBad (.iteCmd (.iteCmd h.cmdRefuse h.setAssign.cmdOk) (.iteCmd h.cmdBad (.iteCmd h.cmdRefuse (.iteCmd h.cmdRefuse (.iteCmd h.cmdRefuse h.rest.sendMgmt.cmdHeld))))))

theorem Keeps.execPortAssign {t' : Instant} (h : Keeps r s) : KeepsNext r (execPortAssign t' s) :=
  h.runCmd (fun _ _ h1 => h1.portAssignBody)

theorem Keeps.loseClaim {collision : Bool} {port : BitVec 9} (h : Keeps r s) : Keeps r (loseClaim collision port s) := by
  unfold Machine.loseClaim
  extract_lets x1 s1 x2 s2
  have h1 : Keeps r s1 := h.rest
  have h2 : Keeps r s2 := .ite h1.rest.raise h1
  exact h2.finishHeld fun _ _ hu => hu.cmdRefuse

theorem Keeps.winClaim {i : ℕ} {a : PortAssign} (h : Keeps r s) : Keeps r (winClaim i a s) :=
  h.rest.setAssign.finishHeld (fun _ _ h1 => h1.cmdOk)

theorem Keeps.execClaim {t' : Instant} {p : Port} {slot : MgmtSlot} (h : Keeps r s) :
    KeepsNext r (execClaim t' p slot s) := by
  unfold Machine.execClaim
  exact h.hopEvent (fun _ h1 => .ite h1 (.ite (by
    split
    · exact .ite h1 (.ite h1.winClaim h1.loseClaim)
    · exact h1) (.ite h1.sendMgmt (by
    split
    · exact .ite h1.loseClaim h1
    · exact h1))))

theorem Keeps.execPortHeld {t' : Instant} {p : Port} {slot : MgmtSlot} (h : Keeps r s) :
    KeepsNext r (execPortHeld t' p slot s) := by
  unfold Machine.execPortHeld
  exact h.hopEvent (fun _ h1 => by
    split
    · exact .ite h1.loseClaim h1
    · exact h1)

theorem Keeps.execClaimTimeout {t' : Instant} (h : Keeps r s) : KeepsNext r (execClaimTimeout t' s) := by
  unfold Machine.execClaimTimeout
  exact h.ringEvent (fun _ h1 => by
    split
    · exact .ite h1.loseClaim h1
    · exact h1)

theorem Keeps.execDelayReq {t' : Instant} {p : Port} {slot : MgmtSlot} (h : Keeps r s) :
    KeepsNext r (execDelayReq t' p slot s) := h.hopEvent (fun _ h1 => h1.sendMgmt)

theorem Keeps.execDelayResp {t' : Instant} {p : Port} {slot : MgmtSlot} (h : Keeps r s) :
    KeepsNext r (execDelayResp t' p slot s) := h.hopEvent (fun _ h1 => h1.rest)

theorem Keeps.execHopDelayMeasure {t' : Instant} {p : Port} (h : Keeps r s) :
    KeepsNext r (execHopDelayMeasure t' p s) := h.hopEvent (fun _ h1 => .ite h1.sendDelayReq h1)

theorem Keeps.updTime {f : RingTime → RingTime} (h : Keeps r s) : Keeps r (updTime f s) := h.rest

theorem Keeps.stepTo {v : ℕ} (h : Keeps r s) : Keeps r (stepTo v s) := by
  unfold Machine.stepTo
  exact h.rest.updTime

theorem Keeps.slewBy {off : ℤ} (h : Keeps r s) : Keeps r (slewBy off s) := by
  unfold Machine.slewBy
  exact h.updTime

theorem Keeps.takeTime {result : ℤ} (h : Keeps r s) : Keeps r (takeTime result s) := by
  unfold Machine.takeTime
  extract_lets +onlyGivenNames x1 x2 x3 s4
  have h4 : Keeps r s4 := h.updTime
  extract_lets +onlyGivenNames x5
  split
  · exact .ite h4.stepTo.updTime.updTime.raise h4.stepTo.updTime
  · exact .ite h4.stepTo.updTime h4.slewBy
  · exact .ite h4.stepTo.updTime h4.slewBy.updTime.raise

theorem Keeps.execTime {t' : Instant} {p : Port} {slot : MgmtSlot} (h : Keeps r s) :
    KeepsNext r (execTime t' p slot s) :=
  h.hopEvent (fun _ h1 => .ite (.ite h1.updTime h1.updTime.updTime) (.takeTime (.ite h1.updTime h1.updTime.updTime)))

theorem Keeps.execTimeRingATimeout {t' : Instant} (h : Keeps r s) : KeepsNext r (execTimeRingATimeout t' s) :=
  h.ringEvent (fun _ h1 => .ite h1.updTime h1)

theorem Keeps.holdOver (h : Keeps r s) : Keeps r (holdOver s) := by
  unfold Machine.holdOver
  exact h.takeFree.updTime

theorem Keeps.execTimeHoldover {t' : Instant} (h : Keeps r s) : KeepsNext r (execTimeHoldover t' s) := by
  unfold Machine.execTimeHoldover
  exact h.ringEvent (fun _ h1 => by
    split
    · exact .ite h1.holdOver.raise h1
    · exact h1)

theorem Keeps.timeSyncBody {c : Cmd} (h : Keeps r s) : Keeps r (timeSyncBody c s).state := h.judged h.cmdOk

theorem Keeps.execTimeSync {t' : Instant} (h : Keeps r s) : KeepsNext r (execTimeSync t' s) :=
  h.runCmd (fun _ _ h1 => h1.timeSyncBody)

theorem Keeps.ringMapBody {c : Cmd} (h : Keeps r s) : Keeps r (ringMapBody c s).state := h.judged h.cmdOk

theorem Keeps.execRingMap {t' : Instant} (h : Keeps r s) : KeepsNext r (execRingMap t' s) :=
  h.runCmd (fun _ _ h1 => h1.ringMapBody)

/-! #### Machine/Drain.lean -/

theorem Keeps.countInserted {i : ℕ} {p3 : Bool} {ringB : Bool} (h : Keeps r s) : Keeps r (countInserted i p3 ringB s) :=
  h.rest

theorem Keeps.setRest {i : ℕ} {xs : List RawSlot} (h : Keeps r s) : Keeps r (setRest i xs s) := h.rest

theorem Keeps.leaveStats {port : BitVec 9} {ws : List Word} (h : Keeps r s) (e : leaveStats port s = some (ws, t)) : Keeps r t := by
  unfold Machine.leaveStats at e
  split at e
  · cases e
  · extract_lets x w s1 s2 at e
    have h2 : Keeps r s2 := h.countCommonUe.correctRead.updStream
    rw [Option.some_inj, Prod.mk.injEq] at e
    exact e.2 ▸ h2.rest

theorem Keeps.makeWay {i : ℕ} (h : Keeps r s) : Keeps r (makeWay i s) := .ite h.retireHead.tryRelease h

theorem Keeps.spoilHead {i : ℕ} (h : Keeps r s) : Keeps r (spoilHead i s) := h.takeFree.takeFree.updStream

theorem Keeps.readBuffer {i : ℕ} {ecc : List EccHit} (h : Keeps r s) : Keeps r (readBuffer i ecc s) := by
  unfold Machine.readBuffer
  extract_lets +onlyGivenNames x1 x2 s3
  have h3 : Keeps r s3 := h.foldl (fun _ h1 _ => h1.countCommonUe.spoilHead)
  exact h3.rest

theorem Keeps.beginPacket {i : Nat} {a : PortAssign} {ecc : List EccHit} (h : Keeps r s) : Keeps r (beginPacket i a ecc s) := by
  unfold Machine.beginPacket
  extract_lets s1
  have h1 : Keeps r s1 := .ite h.makeWay.readBuffer h.markEcc
  split
  · exact h1
  next ws u heq =>
    refine Keeps.setRest ?_
    split at heq
    · exact h1.leavePacket heq
    · exact h1.leaveStats heq

theorem Keeps.retractFirst {i : ℕ} (h : Keeps r s) : Keeps r (retractFirst i s) := by
  unfold Machine.retractFirst
  split
  · exact h.updStream
  · exact h

theorem Keeps.execStreamPacketDrain {m : MemRead} {stream : Fin 9} (h : Keeps r s) :
    KeepsNext r (execStreamPacketDrain m stream s) := by
  unfold Machine.execStreamPacketDrain
  extract_lets +onlyGivenNames s1
  have h1 : Keeps r s1 := h.setNow
  extract_lets +onlyGivenNames x2
  exact .next (by
    split
    · exact h1
    · exact .ite h1 (.beginPacket (.ite h1.retractFirst h1)))

theorem Keeps.settleDisable (h : Keeps r s) : Keeps r (settleDisable s) := by
  unfold Machine.settleDisable
  split
  · exact h
  · exact .ite h (h.finishHeld (fun _ _ h1 => h1.cmdOk))

theorem Keeps.execStreamFrameSent {t' : Instant} {stream : Fin 9} (h : Keeps r s) :
    KeepsNext r (execStreamFrameSent t' stream s) := .ite h.setNow.retireHead.tryRelease.doneStopping.settleDisable.next h.setNow.next

theorem Keeps.execStreamDisable {t' : Instant} (h : Keeps r s) : KeepsNext r (execStreamDisable t' s) :=
  h.runCmd (fun _ _ h1 => h1.streamDisableBody)

/-! #### Machine/Exposure.lean -/

theorem Keeps.countStopped (h : Keeps r s) : Keeps r (countStopped s) := by
  unfold Machine.countStopped
  extract_lets +onlyGivenNames x1 x2 s3
  have h3 : Keeps r s3 := h.rest.raise
  extract_lets +onlyGivenNames s4
  have h4 : Keeps r s4 := h3.foldl (fun _ h1 _ => h1.retractFrame)
  exact h4.rest.freezeAtStop.noteStop.arbitrate

theorem Keeps.settleStop (h : Keeps r s) : Keeps r (settleStop s) := .ite h.countStopped h

theorem Keeps.stopImmediate {cause : StopCause} {last : FrameId} (h : Keeps r s) :
    Keeps r (stopImmediate cause last s) := (h.rest.foldl (fun _ h1 _ => h1.abandonFrame)).settleStop

theorem Keeps.forceStop {cause : StopCause} (h : Keeps r s) : Keeps r (forceStop cause s) := .ite h h.stopImmediate

theorem Keeps.haltCapture {cause : StopCause} (h : Keeps r s) : Keeps r (haltCapture cause s) :=
  .foldl (.ite h.rest.stopImmediate (.ite h.rest.settleStop h.rest)) (fun _ h1 _ => h1.abandonFrame.retractFrame)

theorem Keeps.nextEdge (h : Keeps r s) : Keeps r (nextEdge s) := by
  unfold Machine.nextEdge
  split
  · exact h
  · split
    · exact h
    · exact h.rest
    · exact h.rest

theorem Keeps.beginFrame {fb : ℕ} (h : Keeps r s) : Keeps r (beginFrame fb s) := by
  unfold Machine.beginFrame
  extract_lets +onlyGivenNames x1 x2 x3 x4 s5
  have h5 : Keeps r s5 := h.latchClassF
  exact h5.rest.nextEdge.vendorRestart.freezeAtBoundary.arbitrate

theorem Keeps.execFrameBoundary {t' : Instant} (h : Keeps r s) : KeepsNext r (execFrameBoundary t' s) := by
  unfold Machine.execFrameBoundary
  extract_lets +onlyGivenNames s1
  have h1 : Keeps r s1 := h.setNow
  split
  · exact .ite h1.beginFrame.next h1.next
  · exact h1.next

theorem Keeps.execSubFrameTick {t' : Instant} (h : Keeps r s) : KeepsNext r (execSubFrameTick t' s) := by
  unfold Machine.execSubFrameTick
  extract_lets +onlyGivenNames s1
  have h1 : Keeps r s1 := h.setNow
  split
  · exact .ite h1.rest.next h1.next
  · exact h1.next

theorem Keeps.execSubExposureStart {t' : Instant} {rung : Fin 8} (h : Keeps r s) :
    KeepsNext r (execSubExposureStart t' rung s) := by
  unfold Machine.execSubExposureStart
  extract_lets +onlyGivenNames s1
  have h1 : Keeps r s1 := h.setNow
  split
  · exact .ite h1.rest.next h1.next
  · exact h1.next

theorem Keeps.execEarlyTransfer {t' : Instant} {tile : TileIx} (h : Keeps r s) :
    KeepsNext r (execEarlyTransfer t' tile s) := by
  unfold Machine.execEarlyTransfer
  extract_lets +onlyGivenNames s1
  have h1 : Keeps r s1 := h.setNow
  split
  · extract_lets +onlyGivenNames x2
    split
    · exact .ite h1.rest.next h1.next
    · exact h1.next
  · exact h1.next

theorem Keeps.execExposureOutputAssert {t' : Instant} (h : Keeps r s) : KeepsNext r (execExposureOutputAssert t' s) := by
  unfold Machine.execExposureOutputAssert
  extract_lets +onlyGivenNames s1
  have h1 : Keeps r s1 := h.setNow
  split
  · exact .ite h1.rest.next h1.next
  · exact h1.next

theorem Keeps.execExposureOutputRelease {t' : Instant} (h : Keeps r s) :
    KeepsNext r (execExposureOutputRelease t' s) := by
  unfold Machine.execExposureOutputRelease
  extract_lets +onlyGivenNames s1
  have h1 : Keeps r s1 := h.setNow
  split
  · split
    · exact h1.rest.next
    · exact h1.rest.next
  · exact h1.next

theorem Keeps.queueEdge {x : Option ℕ} (h : Keeps r s) : Keeps r (queueEdge x s) := h.rest.nextEdge

theorem Keeps.earlyEdge (h : Keeps r s) : Keeps r (earlyEdge s) := by
  unfold Machine.earlyEdge
  extract_lets +onlyGivenNames s1
  have h1 : Keeps r s1 := h.raise
  exact .ite h1.rest.queueEdge h1.rest

theorem Keeps.pinTrigger {p : ℕ} {falling : Bool} {e : ℕ} (h : Keeps r s) : Keeps r (pinTrigger p falling e s) :=
  .ite (.ite h.earlyEdge h.queueEdge) h

theorem Keeps.mainsEdge {p : ℕ} {falling : Bool} {e : ℕ} (h : Keeps r s) : Keeps r (mainsEdge p falling e s) :=
  .ite h.rest h

theorem Keeps.execFlickerPeriodUpdate {t' : Instant} (h : Keeps r s) : KeepsNext r (execFlickerPeriodUpdate t' s) := by
  unfold Machine.execFlickerPeriodUpdate
  extract_lets +onlyGivenNames s1
  have h1 : Keeps r s1 := h.setNow
  exact .ite (.ite (.next (.ite h1 h1.rest.raise)) (.next (.ite h1.rest.raise h1.rest))) h1.next

theorem Keeps.execRingTimeGridPoint {t' : Instant} (h : Keeps r s) : KeepsNext r (execRingTimeGridPoint t' s) := by
  unfold Machine.execRingTimeGridPoint
  extract_lets +onlyGivenNames s1
  have h1 : Keeps r s1 := h.setNow
  split
  · exact .ite (.ite (.next (.ite h1.rest h1.rest.raise)) h1.rest.next) h1.next
  · exact h1.next

theorem Keeps.captureConfigBody {c : Cmd} (h : Keeps r s) : Keeps r (captureConfigBody c s).state := by
  unfold Machine.captureConfigBody
  extract_lets +onlyGivenNames x1 x2 x3
  exact h.judged (by
    split
    · exact h.cmdBad
    · extract_lets +onlyGivenNames x4
      extract_lets +onlyGivenNames x5 x6
      exact .iteCmd h.cmdBad (.iteCmd h.cmdBad (.iteCmd h.cmdRefuse (.iteCmd h.cmdRefuse (.iteCmd h.cmdRefuse (.iteCmd h.cmdRefuse (.iteCmd h.cmdRefuse (.iteCmd h.cmdRefuse (.iteCmd h.cmdRefuse h.rest.arbitrate.cmdOk)))))))))

theorem Keeps.setTriggerBody {c : Cmd} (h : Keeps r s) : Keeps r (setTriggerBody c s).state :=
  h.judged (.iteCmd h.cmdBad (.iteCmd h.cmdBad (.iteCmd h.cmdBad (.iteCmd h.cmdBad (.iteCmd h.cmdBad (.iteCmd h.cmdBad (.iteCmd h.cmdRefuse h.rest.cmdOk)))))))

theorem Keeps.acceptFrameSet {x : PendingSet FrameUpd} {late : Bool} {shown : FrameId} (h : Keeps r s) :
    Keeps r (acceptFrameSet x late shown s).state := h.rest

theorem Keeps.setFrameParamsBody {c : Cmd} (h : Keeps r s) : Keeps r (setFrameParamsBody c s).state := by
  unfold Machine.setFrameParamsBody
  dsimp only
  refine .iteCmd h.cmdRefuse (h.judged ?_)
  split
  · exact h.cmdBad
  · exact h.cmdRefuse
  · refine .iteCmd h.cmdRefuse ?_
    split
    · exact h.cmdBudget
    · exact h.cmdRefuse
  · refine .iteCmd h.cmdRefuse ?_
    split
    · exact h.cmdBudget
    · exact h.acceptFrameSet

theorem Keeps.loadTileMapBody {c : Cmd} (h : Keeps r s) : Keeps r (loadTileMapBody c s).state := by
  unfold Machine.loadTileMapBody
  dsimp only
  refine h.judged (.iteCmd h.cmdBad (.iteCmd h.cmdBad (.iteCmd (.iteCmd h.cmdRefuse (.iteCmd h.cmdRefuse h.rest.cmdOk))
    (.iteCmd (.iteCmd h.cmdRefuse h.rest.cmdOk) ?_))))
  split
  · exact h.cmdBad
  · refine .iteCmd h.cmdRefuse (.iteCmd h.cmdRefuse ?_)
    split
    · exact h.cmdRefuse
    · exact h.rest.acceptFrameSet

theorem Keeps.takeRatio (h : Keeps r s) : Keeps r (takeRatio s) := by
  unfold Machine.takeRatio
  split
  · exact h.rest
  · exact h

theorem Keeps.clearBorrowed (h : Keeps r s) : Keeps r (clearBorrowed s) := by
  unfold Machine.clearBorrowed
  split
  · exact .ite h.freeSlot h
  · exact h

theorem Keeps.startCapture {first : FrameId} (h : Keeps r s) : Keeps r (startCapture first s) :=
  h.takeRatio.clearBorrowed.rest.settleClassF.vendorFresh.arbitrate

theorem Keeps.captureStartBody {c : Cmd} (h : Keeps r s) : Keeps r (captureStartBody c s).state := by
  unfold Machine.captureStartBody
  extract_lets +onlyGivenNames x1
  exact h.judged (.iteCmd h.cmdBadAny (.iteCmd h.cmdBadAny (.iteCmd h.cmdRefuse (.iteCmd h.cmdRefuse (.iteCmd h.cmdRefuse (by
    split
    · exact h.cmdBudget
    · exact h.startCapture.cmdOk))))))

theorem Keeps.captureStopBody {c : Cmd} (h : Keeps r s) : Keeps r (captureStopBody c s).state :=
  h.judged (.iteCmd h.cmdOk (.iteCmd h.stopImmediate.cmdOk h.rest.settleStop.cmdOk))

/-! #### Machine/Clock.lean -/

theorem Keeps.cutChannelRun {i : ℕ} (h : Keeps r s) : Keeps r (cutChannelRun i s).2 := by
  unfold Machine.cutChannelRun
  split
  · exact h
  · exact .iteSnd h.updChannel (.iteSnd h.discardEntries.endChannelKernel.updChannel h)

theorem Keeps.cutRawRun {i : ℕ} (h : Keeps r s) : Keeps r (cutRawRun i s) := by
  unfold Machine.cutRawRun
  split
  · exact h
  · exact .ite h.endRaw h.discardEntries.updChannel

theorem Keeps.cutStream {i : ℕ} (h : Keeps r s) : Keeps r (cutStream i s) := h.updStream.doneStopping

theorem Keeps.stopPipeline (h : Keeps r s) : Keeps r (stopPipeline s) := by
  unfold Machine.stopPipeline
  split
  next again s1 heq =>
  have h1 : Keeps r s1 := (Keeps.foldlSnd (p := ([], s)) h fun _ hu _ => hu.cutChannelRun).ofSnd heq
  extract_lets s2 restart
  have h2 : Keeps r s2 := h1.foldl fun _ hu _ => hu.cutRawRun.cutStream
  clear_value s2
  exact h2.rest.settleDisable

theorem Keeps.gateRoot (h : Keeps r s) : Keeps r (gateRoot s) := .ite h h.wdSync.rest.haltCapture.stopPipeline.arbitrate

theorem Keeps.loseRoot {arg : ℕ} (h : Keeps r s) : Keeps r (loseRoot arg s) := .ite h.gateRoot h.gateRoot.rest.raise

theorem Keeps.losePll {p : Pll} {arg : ℕ} (h : Keeps r s) : Keeps r (losePll p arg s) := by
  unfold Machine.losePll
  extract_lets +onlyGivenNames x1
  split
  · exact .ite h.updPll h
  · split
    · exact h
    · extract_lets +onlyGivenNames s2
      have h2 : Keeps r s2 := h.updPll
      split
      · exact .ite h2.rest.raise.hopDown (.ite h2.rest.raise.startAttempt h2.rest.raise)
      · exact .ite (.ite h2.loseRoot h2.loseRoot.startLock) h2.rest.raise

theorem Keeps.setRef {r' : RefClk} {since : Option ℕ} (h : Keeps r s) : Keeps r (setRef r' since s) := by
  unfold Machine.setRef
  extract_lets +onlyGivenNames s1
  have h1 : Keeps r s1 := h.wdSync
  split
  · exact h1.rest
  · exact h1.rest

theorem Keeps.loseRef {r' : RefClk} (h : Keeps r s) : Keeps r (loseRef r' s) := by
  unfold Machine.loseRef
  split
  · exact h
  · extract_lets +onlyGivenNames s1
    have h1 : Keeps r s1 := h.setRef
    exact h1.rest.foldl (fun _ h1 _ => .ite h1.losePll h1)

theorem Keeps.execReferenceLoss {t' : Instant} {r' : RefClk} (h : Keeps r s) :
    KeepsNext r (execReferenceLoss t' r' s) := h.setNow.loseRef.next

theorem Keeps.execPllLockLoss {t' : Instant} {e : PhaseError} (h : Keeps r s) : KeepsNext r (execPllLockLoss t' e s) :=
  .next (.ite h.setNow.losePll h.setNow)

theorem Keeps.judgeRef {r' : RefClk} {count : ℕ} {khz : ℕ} (h : Keeps r s) : Keeps r (judgeRef r' count khz s) :=
  .ite h.loseRef (.ite h h.setRef)

theorem Keeps.settleRelock (h : Keeps r s) : Keeps r (settleRelock s) := by
  unfold Machine.settleRelock
  split
  · exact .ite (h.rest.startWork.finishHeld (fun _ _ h1 => h1.cmdPending)) h
  · exact h

theorem Keeps.execClockMonitorWindow {t' : Instant} {ref0 : ℕ} {ref1 : ℕ} {outputs : List ℕ} (h : Keeps r s) :
    KeepsNext r (execClockMonitorWindow t' ref0 ref1 outputs s) := by
  unfold Machine.execClockMonitorWindow
  extract_lets +onlyGivenNames s1
  have h1 : Keeps r s1 := h.setNow
  extract_lets +onlyGivenNames s2
  have h2 : Keeps r s2 := h1.wdSync
  extract_lets +onlyGivenNames x3 s4
  have h4 : Keeps r s4 := .ite h1 h2.rest
  extract_lets +onlyGivenNames s5
  have h5 : Keeps r s5 := h4.judgeRef
  exact .next (.settleRelock (.ite (h5.judgeRef.foldl (fun _ h1 _ => .ite h1.losePll h1)) (h5.judgeRef.foldl (fun _ h1 _ => .ite h1.losePll h1)).releaseHeld))

theorem Keeps.execLockAttemptStart {t' : Instant} {p : Pll} (h : Keeps r s) :
    KeepsNext r (execLockAttemptStart t' p s) := .next (.ite h.setNow.startLock h.setNow)

theorem Keeps.execLockAttemptTimeout {t' : Instant} {p : Pll} (h : Keeps r s) :
    KeepsNext r (execLockAttemptTimeout t' p s) := .next (.ite h.setNow.updPll.startLock h.setNow)

theorem Keeps.rootBack (h : Keeps r s) : Keeps r (rootBack s) :=
  .arbitrate (.finishHeld (.endWork (.ite h.wdSync.rest.releaseHeld.passAll.raise h.wdSync.rest.releaseHeld.passAll)) (fun _ _ h1 => h1.cmdOk))

theorem Keeps.execPllLockDeclared {t' : Instant} {e : PhaseError} {band : BitVec 3} (h : Keeps r s) :
    KeepsNext r (execPllLockDeclared t' e band s) := by
  unfold Machine.execPllLockDeclared
  extract_lets +onlyGivenNames s1
  have h1 : Keeps r s1 := h.setNow
  extract_lets +onlyGivenNames x2
  split
  · extract_lets +onlyGivenNames x3
    extract_lets +onlyGivenNames s4
    have h4 : Keeps r s4 := h1.updPll
    exact .next (.ite h4.rootBack (by
      split
      · exact .ite h4.driveDue h4
      · exact h4))
  · exact h1.next

theorem Keeps.execRefclk0Measure {t' : Instant} {khz : BitVec 16} (h : Keeps r s) :
    KeepsNext r (execRefclk0Measure t' khz s) := by
  unfold Machine.execRefclk0Measure
  extract_lets +onlyGivenNames s1
  have h1 : Keeps r s1 := h.setNow
  exact .ite h1.next (.ite h1.updPll.next (.next (.startLock (.ite h1.wdSync.rest h1.wdSync.rest.releaseHeld))))

theorem Keeps.execTrimStep {t' : Instant} (h : Keeps r s) : KeepsNext r (execTrimStep t' s) := by
  unfold Machine.execTrimStep
  extract_lets +onlyGivenNames s1
  have h1 : Keeps r s1 := h.setNow
  exact .ite h1.rest.next h1.next

theorem Keeps.trimRootBody {c : Cmd} (h : Keeps r s) : Keeps r (trimRootBody c s).state :=
  h.judged (.iteCmd h.cmdBad (.iteCmd h.cmdBad (.iteCmd h.cmdRefuse h.rest.cmdOk)))

theorem Keeps.execTrimRoot {t' : Instant} (h : Keeps r s) : KeepsNext r (execTrimRoot t' s) :=
  h.runCmd (fun _ _ h1 => h1.trimRootBody)

theorem Keeps.applyOut {old : ClockCfg} {new : ClockCfg} (h : Keeps r s) : Keeps r (applyOut old new s) :=
  .ite h.updPll (.ite h.relock h)

theorem Keeps.changeBase (h : Keeps r s) : Keeps r (changeBase s) := by
  unfold Machine.changeBase
  extract_lets +onlyGivenNames x1 s2
  have h2 : Keeps r s2 := h.rest
  exact h2.gateRoot.rest.relock

theorem Keeps.setClocksBody {c : Cmd} (h : Keeps r s) : Keeps r (setClocksBody c s).state := by
  unfold Machine.setClocksBody
  extract_lets +onlyGivenNames x1 x2 x3
  exact h.judged (by
    split
    · exact h.cmdBad
    · exact .iteCmd h.cmdRefuse (.iteCmd h.rest.applyOut.changeBase.cmdHeld h.rest.applyOut.cmdOk))

theorem Keeps.execSetClocks {t' : Instant} (h : Keeps r s) : KeepsNext r (execSetClocks t' s) :=
  h.runCmd (fun _ _ h1 => h1.setClocksBody)

theorem Keeps.clockStatusBody {c : Cmd} (h : Keeps r s) : Keeps r (clockStatusBody c s).state :=
  h.judged (.cmdOk (.iteSnd h h.takeFree))

theorem Keeps.execClockStatus {t' : Instant} (h : Keeps r s) : KeepsNext r (execClockStatus t' s) :=
  h.runCmd (fun _ _ h1 => h1.clockStatusBody)

/-! #### Machine/RingSend.lean -/

theorem Keeps.sendSlot {p : Port} {w : WaitSlot} (h : Keeps r s) : Keeps r (sendSlot p w s) := h.updPort.sendWire

theorem Keeps.resendSlot {p : Port} {r' : ReplaySlot} {rest : List ReplaySlot} (h : Keeps r s) :
    Keeps r (resendSlot p r' rest s) := h.updPort.sendWire

theorem Keeps.sendOwn {p : Port} {w : OwnPick} (h : Keeps r s) : Keeps r (sendOwn p w s) := by
  unfold Machine.sendOwn
  split
  · exact .sendSlot (.ite h.rest.updPort h.rest)
  · exact h.setRest.countInserted.sendSlot

theorem Keeps.sendNew {p : Port} (h : Keeps r s) : Keeps r (sendNew p s) := by
  unfold Machine.sendNew
  extract_lets +onlyGivenNames x1
  split
  · exact h.hopDown
  · split
    · exact h.updPort.turnTransit.sendSlot
    · split
      · exact h.sendOwn
      · exact .ite h.updPort.sendCtl h.sendSlot

theorem Keeps.goDoze {p : Port} (h : Keeps r s) : Keeps r (goDoze p s) := h.sendMarks.updPort.arbitrate

theorem Keeps.sendGap {p : Port} {n : ℕ} (h : Keeps r s) : Keeps r (sendGap p n s) :=
  .ite h.updPort.sendCtl.updPort.goDoze h.updPort.sendCtl.updPort

theorem Keeps.betweenSlots {p : Port} (h : Keeps r s) : Keeps r (betweenSlots p s) :=
  .ite (.sendMarks (.ite h.sendGap h)) (.ite h.sendGap h)

theorem Keeps.endPosition {p : Port} (h : Keeps r s) : Keeps r (endPosition p s) := .ite h.updPort.betweenSlots h.updPort

theorem Keeps.endWake {p : Port} (h : Keeps r s) : Keeps r (endWake p s) := .ite h.sendMarks.updPort h

theorem Keeps.execSlotPositionSend {t' : Instant} {p : Port} (h : Keeps r s) :
    KeepsNext r (execSlotPositionSend t' p s) := by
  unfold Machine.execSlotPositionSend
  extract_lets +onlyGivenNames s1
  have h1 : Keeps r s1 := h.setNow
  extract_lets +onlyGivenNames x2
  split
  · extract_lets +onlyGivenNames s3
    have h3 : Keeps r s3 := h1.endWake
    extract_lets +onlyGivenNames s4
    have h4 : Keeps r s4 := by
      unfold s4
      split
      · exact h3.resendSlot
      · exact h3.sendNew
    exact h4.endPosition.doActs.settleStow.next
  · exact h1.next

/-! #### Machine/ResetOps.lean -/

theorem Keeps.slotsLeave {xs : List RawSlot} (h : Keeps r s) : Keeps r (slotsLeave xs s) := by
  unfold Machine.slotsLeave
  exact h.foldl (fun _ h1 _ => by
    split
    · exact .ite h1.sendSlot h1
    · exact h1)

theorem Keeps.retractNow {i : ℕ} (h : Keeps r s) : Keeps r (retractNow i s) := by
  unfold Machine.retractNow
  split
  · extract_lets +onlyGivenNames x1
    extract_lets +onlyGivenNames x2 x3 s4
    have h4 : Keeps r s4 := h.updStream
    exact h4.rest.countRetract.slotsLeave
  · exact h

theorem Keeps.retractAll (h : Keeps r s) : Keeps r (retractAll s) := .ite (h.foldl (fun _ h1 _ => h1.retractNow)) h

theorem Keeps.resetTrunk (h : Keeps r s) : Keeps r (resetTrunk s) := h.rest

theorem Keeps.keepTrunk (h : Keeps r s) : Keeps r (keepTrunk s) := h.rest

theorem Keeps.resetClock {keep : Bool} (h : Keeps r s) : Keeps r (resetClock keep s) := h.rest

theorem Keeps.resetTw (h : Keeps r s) : Keeps r (resetTw s) := h.rest

theorem Keeps.freeWords {n : ℕ} (h : Keeps r s) : Keeps r (freeWords n s).2 := h.rest

theorem Keeps.dumpInvalid (h : Keeps r s) : Keeps r { s with nvm := { s.nvm with dumpValid := false } } := h.rest

theorem Keeps.writeFree {n a : Nat} (h : Keeps r s) :
    Keeps r (Machine.dramWriteWords (Machine.freeWords n s).2 a (Machine.freeWords n s).1) := h.freeWords.dramWriteWords

theorem Keeps.cutDump (h : Keeps r s) : Keeps r (cutDump s) := by
  unfold Machine.cutDump
  split
  · exact h
  · extract_lets +onlyGivenNames x s1
    have h1 : Keeps r s1 := h.rest
    split
    · exact h1
    · extract_lets +onlyGivenNames f
      have hf : Keeps r f.2 := h1.takeFree
      split
      · exact (Keeps.writeFree (n := Machine.dumpRest / 4) (a := Machine.partBase .dump + 64) hf).dumpInvalid
      · exact hf

theorem Keeps.resetBureau (h : Keeps r s) : Keeps r (resetBureau s) := h.rest.resetTw

theorem Keeps.resetMemory {k : ResetCause} (h : Keeps r s) : Keeps r (resetMemory k s) := by
  unfold Machine.resetMemory
  split
  · exact h.rest
  · exact ⟨h.pending, fun _ => memory_nothing_listed_wf, h.pillows, h.bobbins, h.cells⟩

theorem Keeps.resetImage (h : Keeps r s) : Keeps r (resetImage s) where
  pending := h.pending
  dram := h.dram
  pillows := fun _ _ hm => (List.eq_of_mem_replicate hm).symm ▸ memory_nothing_listed_wf
  bobbins := fun hr _ hx => (List.eq_of_mem_replicate hx).symm ▸ KeepsBobbin.empty r hr
  cells := h.cells

theorem Keeps.losePower (h : Keeps r s) : Keeps r (losePower s) := h.rest

theorem Keeps.resetAlwaysOn (h : Keeps r s) : Keeps r (resetAlwaysOn s) := h.rest

theorem Keeps.commitEffect {o : NvmOrigin} (h : Keeps r s) : Keeps r (commitEffect o s) := by
  unfold Machine.commitEffect
  extract_lets +onlyGivenNames x s1
  have h1 : Keeps r s1 := h.rest
  clear_value s1
  cases o
  case fwBegin => exact h1.rest.setBank
  case fwVerified => exact h1.rest.setBank
  case bootReject => exact h1.rest.setBank
  case fwConfirm => exact h1.rest
  case dumpClear => exact h1.rest
  case bootTrial => exact h1.rest
  case bootSwitch => exact h1.rest
  all_goals exact h1

theorem Keeps.spoilPage {pg : Nat} (h : Keeps r s) : Keeps r (spoilPage pg s) := by
  have hf : Keeps r (Machine.freeWords 256 s).2 := Keeps.freeWords (n := 256) h
  unfold Machine.spoilPage
  generalize Machine.freeWords 256 s = f at hf ⊢
  exact { hf with cells := fun hr => memSetBytes_wf _ _ (hf.cells hr) }

theorem Keeps.putTxn {boot : Bool} {x : Option NvmTxn} (h : Keeps r s) : Keeps r (putTxn boot x s) := .ite h.rest h.rest

theorem Keeps.stepStands {boot : Bool} {x : NvmTxn} (h : Keeps r s) : Keeps r (stepStands boot x s) :=
  .ite h.rest.putTxn (.putTxn (.ite h.commitEffect h))

theorem Keeps.tearPage (h : Keeps r s) : Keeps r (tearPage s) := by
  unfold Machine.tearPage
  extract_lets +onlyGivenNames x idle f record
  have hi : Keeps r idle := h.rest
  have hf : Keeps r f.2 := hi.takeFree
  clear_value f idle
  have hrec : ∀ boot, Keeps r (record boot) := fun boot => by
    unfold record
    split
    · exact .ite hf.stepStands hf
    · exact hf
  clear_value record
  split
  · exact h
  · split
    · exact hi.spoilPage
    · exact hi
  · split
    · extract_lets +onlyGivenNames s1
      have h1 : Keeps r s1 := hi.spoilPage
      clear_value s1
      exact h1.rest
    · exact hi
  · exact hrec _
  · exact hrec _

theorem Keeps.resetTap (h : Keeps r s) : Keeps r (resetTap s) := h.rest

theorem Keeps.loseState {k : ResetCause} {keep : Bool} (h : Keeps r s) : Keeps r (loseState k keep s) := by
  unfold Machine.loseState
  extract_lets +onlyGivenNames s1
  have h1 : Keeps r s1 := .ite h.haltCapture h
  extract_lets +onlyGivenNames x2 s3
  have h3 : Keeps r s3 := .cutDump (.ite h1.rest h1.tearPage)
  extract_lets +onlyGivenNames s4
  have h4 : Keeps r s4 := .ite h3.keepTrunk h3.resetTrunk
  extract_lets +onlyGivenNames s5
  have h5 : Keeps r s5 := h4.resetClock.resetBureau.resetMemory.resetImage
  exact .ite (.resetAlwaysOn (.resetTap (.ite h5 h5.losePower))) (.ite h5 h5.losePower)

theorem Keeps.assertReset {k0 : ResetCause} {keep0 : Bool} (h : Keeps r s) : Keeps r (assertReset k0 keep0 s) := by
  unfold Machine.assertReset
  extract_lets +onlyGivenNames x1 x2 x3 x4 x5 x6 x7 s8
  have h8 : Keeps r s8 := h.loseState
  exact h8.rest

theorem Keeps.requestReset {k : ResetCause} {keep : Bool} (h : Keeps r s) : Keeps r (requestReset k keep s) := by
  unfold Machine.requestReset
  split
  · exact h
  · split
    · exact h.rest
    · split
      · exact h.assertReset
      · exact h.assertReset

/-! #### Machine/Reset.lean -/

theorem Keeps.resetBody {c : Cmd} (h : Keeps r s) : Keeps r (resetBody c s).state :=
  h.judged (.iteCmd h.cmdBad (.iteCmd h.cmdRefuse h.rest.cmdOk))

theorem Keeps.execReset {t' : Instant} (h : Keeps r s) : KeepsNext r (execReset t' s) :=
  h.runCmd (fun _ _ h1 => h1.resetBody)

theorem Keeps.execSoftResetAssert {t' : Instant} (h : Keeps r s) : KeepsNext r (execSoftResetAssert t' s) := by
  unfold Machine.execSoftResetAssert
  extract_lets +onlyGivenNames s1
  have h1 : Keeps r s1 := h.setNow
  split
  · exact h1.next
  · exact .ite h1.next h1.retractAll.requestReset.next

theorem Keeps.trunkReset {bytes : List Byte} (h : Keeps r s) : Keeps r (trunkReset bytes s) :=
  .requestReset (.ite h h.retractAll)

theorem Keeps.execTrunkResetPacket {t' : Instant} {src : BitVec 7} {dest : BitVec 7} {bytes : List Byte} (h : Keeps r s) :
    KeepsNext r (execTrunkResetPacket t' src dest bytes s) := .next (.ite h.setNow.trunkReset h.setNow)

theorem Keeps.execPowerOn {t' : Instant} (h : Keeps r s) : KeepsNext r (execPowerOn t' s) := by
  unfold Machine.execPowerOn
  extract_lets +onlyGivenNames s1
  have h1 : Keeps r s1 := h.setNow
  exact h1.rest.requestReset.next

theorem Keeps.beginLoading (h : Keeps r s) : Keeps r (beginLoading s) := .ite h.rest h

theorem Keeps.seeResetN {low : Bool} (h : Keeps r s) : Keeps r (seeResetN low s) :=
  .ite h.rest.requestReset h.rest.beginLoading

theorem Keeps.seePgood {high : Bool} (h : Keeps r s) : Keeps r (seePgood high s) :=
  .ite h.rest.beginLoading h.rest.requestReset

theorem Keeps.pinResetN {low : Bool} (h : Keeps r s) : Keeps r (pinResetN low s) := .ite h.rest h.rest.seeResetN

theorem Keeps.pinPgood {high : Bool} (h : Keeps r s) : Keeps r (pinPgood high s) := .ite h.rest h.rest.seePgood

theorem Keeps.pinsBack (h : Keeps r s) : Keeps r (pinsBack s) := .ite (.ite h h.seePgood) (.seeResetN (.ite h h.seePgood))

theorem Keeps.execResetN {t' : Instant} (h : Keeps r s) : KeepsNext r (execResetN t' s) := h.setNow.pinResetN.next

theorem Keeps.execBrownOut {x : SupplyFall} (h : Keeps r s) : KeepsNext r (execBrownOut x s) := by
  unfold Machine.execBrownOut
  extract_lets +onlyGivenNames s1
  have h1 : Keeps r s1 := h.setNow
  exact .ite h1.next (.ite h1.rest.seePgood.next h1.pinPgood.next)

theorem Keeps.execPgoodRise {t' : Instant} (h : Keeps r s) : KeepsNext r (execPgoodRise t' s) := h.setNow.pinPgood.next

theorem Keeps.execResetNRelease {t' : Instant} (h : Keeps r s) : KeepsNext r (execResetNRelease t' s) :=
  h.setNow.pinResetN.next

theorem Keeps.execVddaonLoss {t' : Instant} (h : Keeps r s) : KeepsNext r (execVddaonLoss t' s) := by
  unfold Machine.execVddaonLoss
  extract_lets +onlyGivenNames s1
  have h1 : Keeps r s1 := h.setNow.loseState
  exact h1.rest.next

theorem Keeps.loadThreshold {failed : List FuseField} (h : Keeps r s) : Keeps r (loadThreshold failed s) :=
  .ite h.takeFree.rest h.rest

theorem Keeps.sampleStraps {o : OptionLoad} (h : Keeps r s) : Keeps r (sampleStraps o s).2 := .iteSnd h.takeFree h

theorem Keeps.execOptionLoadingEnd {t' : Instant} {o : OptionLoad} (h : Keeps r s) :
    KeepsNext r (execOptionLoadingEnd t' o s) := by
  unfold Machine.execOptionLoadingEnd
  extract_lets +onlyGivenNames s1
  have h1 : Keeps r s1 := h.setNow
  split
  · extract_lets +onlyGivenNames x2
    have h2 : Keeps r x2.2 := h1.sampleStraps
    extract_lets +onlyGivenNames x3 s4
    have h4 : Keeps r s4 := h2
    extract_lets +onlyGivenNames s5
    have h5 : Keeps r s5 := .loadThreshold (.ite h4.resetTrunk h4)
    exact h5.rest.next
  · exact h1.next

theorem Keeps.releaseDomain {d : Domain} (h : Keeps r s) : Keeps r (releaseDomain d s) := by
  unfold Machine.releaseDomain
  extract_lets +onlyGivenNames x1 s2
  have h2 : Keeps r s2 := h.rest
  split
  · exact h.rest.resetTw
  · exact h.rest
  · exact h.rest
  · exact h2

theorem Keeps.execDomainRelease {t' : Instant} {d : Domain} (h : Keeps r s) :
    KeepsNext r (execDomainRelease t' d s) := by
  unfold Machine.execDomainRelease
  extract_lets +onlyGivenNames s1
  have h1 : Keeps r s1 := h.setNow
  split
  · split
    · split
      · exact h1.rest.releaseDomain.next
      · exact h1.next
    · exact h1.releaseDomain.next
  · exact h1.next

theorem Keeps.execLegacyGapEnd {t' : Instant} {d : Domain} (h : Keeps r s) : KeepsNext r (execLegacyGapEnd t' d s) := by
  unfold Machine.execLegacyGapEnd
  extract_lets +onlyGivenNames s1
  have h1 : Keeps r s1 := h.setNow
  exact .ite (.ite h1.releaseDomain.next h1.rest.next) h1.next

theorem Keeps.trap {d : DumpRun} (h : Keeps r s) : Keeps r (trap d s) := by
  unfold Machine.trap
  split
  · exact h.requestReset
  · exact h.rest

theorem Keeps.wdFail {code : ℕ} (h : Keeps r s) : Keeps r (wdFail code s) := h.wdSync.rest.takeFree.trap

theorem Keeps.wdService (h : Keeps r s) : Keeps r (wdService s) := h.rest

theorem Keeps.execWdtKeyWrite {t' : Instant} {key : Byte} (h : Keeps r s) : KeepsNext r (execWdtKeyWrite t' key s) := by
  unfold Machine.execWdtKeyWrite
  extract_lets +onlyGivenNames s1
  have h1 : Keeps r s1 := h.setNow
  exact .ite h1.next (.ite h1.wdFail.next (.ite h1.rest.next (.ite (.next (.ite h1.wdFail h1.wdService)) h1.wdFail.next)))

theorem Keeps.execServiceDue {t' : Instant} (h : Keeps r s) : KeepsNext r (execServiceDue t' s) := by
  unfold Machine.execServiceDue
  extract_lets +onlyGivenNames s1
  have h1 : Keeps r s1 := h.setNow
  exact .next (.ite h1.rest h1)

theorem Keeps.execWatchdogExpiry {t' : Instant} (h : Keeps r s) : KeepsNext r (execWatchdogExpiry t' s) :=
  .next (.ite h.setNow.wdFail h.setNow)

theorem Keeps.execHardTimerExpiry {t' : Instant} (h : Keeps r s) : KeepsNext r (execHardTimerExpiry t' s) := by
  unfold Machine.execHardTimerExpiry
  extract_lets +onlyGivenNames s1
  have h1 : Keeps r s1 := h.setNow
  split
  · exact .ite h1.requestReset.next h1.next
  · exact h1.next

theorem Keeps.execFatalError {t' : Instant} {cause : Byte} {pc : Word} (h : Keeps r s) :
    KeepsNext r (execFatalError t' cause pc s) := .ite h.setNow.next (.ite h.setNow.trap.next h.setNow.takeFree.trap.next)

theorem Keeps.watchdogConfigBody {c : Cmd} (h : Keeps r s) : Keeps r (watchdogConfigBody c s).state :=
  h.judged (.iteCmd h.cmdBad (.iteCmd (.iteCmd h.cmdRefuse (.iteCmd h.cmdRefuse h.rest.cmdOk)) (.iteCmd h.cmdRefuse h.rest.cmdOk)))

theorem Keeps.execWatchdogConfig {t' : Instant} (h : Keeps r s) : KeepsNext r (execWatchdogConfig t' s) :=
  h.runCmd (fun _ _ h1 => h1.watchdogConfigBody)

/-! #### Machine/Nvm.lean -/

theorem Keeps.raiseWear {page : ℕ} {a2 : ℕ} (h : Keeps r s) : Keeps r (raiseWear page a2 s) := h.raise

theorem Keeps.countPage {page : ℕ} (h : Keeps r s) : Keeps r (countPage page s) := .ite h.rest.raiseWear h.rest

theorem Keeps.setPage {page : Nat} {bs : List Byte} (h : Keeps r s) : Keeps r (setPage page bs s) :=
  ⟨h.pending, h.dram, h.pillows, h.bobbins, fun hr => memSetBytes_wf _ _ (h.cells hr)⟩

theorem Keeps.writePage {page : ℕ} {bs : List Byte} {good : Bool} (h : Keeps r s) :
    Keeps r (writePage page bs good s) := .countPage (.ite h.setPage h.spoilPage)

theorem Keeps.kickWrites (h : Keeps r s) : Keeps r (kickWrites s) := .ite h h.rest

theorem Keeps.startTxn {o : NvmOrigin} {first : ℕ} {pages : List (List Byte)} (h : Keeps r s) :
    Keeps r (startTxn o first pages s) := h.rest.kickWrites

theorem Keeps.fwDone {code : ℕ} {b : Bool} (h : Keeps r s) : Keeps r (fwDone code b s) := h.raise

theorem Keeps.placeTable {x : CalStaging} (h : Keeps r s) : Keeps r (placeTable x s) :=
  .ite (.ite h.calInForce h.rest) (.ite (.ite h.calInForce h.rest) h.calInForce)

theorem Keeps.calLoaded (h : Keeps r s) : Keeps r (calLoaded s).state := .iteCmd h.cmdOk (.iteCmd h.takeFree.cmdOk h.cmdOk)

theorem Keeps.settleCal (h : Keeps r s) : Keeps r (settleCal s) := .ite h (h.finishHeld (fun _ _ h1 => h1.calLoaded))

theorem Keeps.selftestDone {code : ℕ} {result : ℕ} (h : Keeps r s) : Keeps r (selftestDone code result s) :=
  h.rest.raise.endWork

theorem Keeps.storeRecord {o : NvmOrigin} {id : ℕ} {ws : List Word} (h : Keeps r s) : Keeps r (storeRecord o id ws s) :=
  h.startTxn

theorem Keeps.startCoefStore (h : Keeps r s) : Keeps r (startCoefStore s) := by
  unfold Machine.startCoefStore
  split
  · exact .ite h (.ite h.rest.raise.endWork h.rest.storeRecord)
  · exact h

theorem Keeps.startTrimStore (h : Keeps r s) : Keeps r (startTrimStore s) := by
  unfold Machine.startTrimStore
  split
  · exact .ite (.ite h.selftestDone h.storeRecord) h
  · exact h

theorem Keeps.startStore (h : Keeps r s) : Keeps r (startStore s) := h.startTrimStore.startCoefStore

theorem Keeps.afterTxn {o : NvmOrigin} {good : Bool} (h : Keeps r s) : Keeps r (afterTxn o good s) := by
  unfold Machine.afterTxn
  extract_lets +onlyGivenNames refuse
  have href : ∀ op, Keeps r (refuse op s) := fun _ => h.finishHeld fun _ _ hu => hu.cmdRefuse
  clear_value refuse
  cases o
  case nvmWrite => exact h.raise.endWork
  case mcvCal => exact h.raise.endWork
  case calTable =>
    dsimp only
    split
    · split
      · exact h.placeTable.settleCal
      · exact h.settleCal
    · exact href _
  case selftest =>
    dsimp only
    split
    · exact h.selftestDone
    · exact h
  case fwBegin =>
    dsimp only
    split
    · exact h.rest.finishHeld fun _ _ hu => hu
    · exact href _
  case fwVerified =>
    dsimp only
    split
    · exact h.rest.fwDone.finishHeld fun _ _ hu => hu
    · exact href _
  case fwConfirm =>
    dsimp only
    split
    · exact h.fwDone.finishHeld fun _ _ hu => hu
    · exact href _
  case dumpClear =>
    dsimp only
    split
    · exact h.finishHeld fun _ _ hu => hu
    · exact href _
  all_goals exact h

theorem Keeps.endTxn {x : NvmTxn} {good : Bool} (h : Keeps r s) : Keeps r (endTxn x good s) := h.rest.afterTxn.startStore

theorem Keeps.pageEnded {x : NvmTxn} (h : Keeps r s) : Keeps r (pageEnded x s) := .ite h.countPage.setPage h.countPage

theorem Keeps.rotate {x : NvmTxn} (h : Keeps r s) : Keeps r (rotate x s) := .ite h.rest (.ite h.rest h)

theorem Keeps.redirect {page : ℕ} (h : Keeps r s) : Keeps r (redirect page s) := h.rest

theorem Keeps.judgePage {x : NvmTxn} {good : Bool} (h : Keeps r s) : Keeps r (judgePage x good s).2 :=
  .iteSnd h.pageEnded (.iteSnd h.pageEnded (.iteSnd h.pageEnded.raiseWear (.ite h.pageEnded.raiseWear.redirect h.pageEnded.raiseWear)))

theorem Keeps.noteRetry (h : Keeps r s) : Keeps r (noteRetry s) := h.rest

theorem Keeps.txnWritten {x : NvmTxn} {good : Bool} (h : Keeps r s) : Keeps r (txnWritten x good s) := by
  have hj : Keeps r (Machine.judgePage x good s).2 := h.judgePage
  unfold Machine.txnWritten
  split
  next heq => exact (hj.ofSnd heq).putTxn.noteRetry
  next heq => exact (hj.ofSnd heq).endTxn
  next heq =>
    have h1 := (hj.ofSnd heq).rotate (x := x)
    refine .ite h1.endTxn (Keeps.putTxn ?_)
    exact .ite h1.commitEffect h1

theorem Keeps.directDone {good : Bool} {words : ℕ} (h : Keeps r s) : Keeps r (directDone good words s) :=
  .ite (h.rest.finishHeld (fun _ _ h1 => h1.cmdOk)) (h.rest.finishHeld (fun _ _ h1 => h1.cmdRefuse))

theorem Keeps.directWritten {d : NvmDirect} {good : Bool} (h : Keeps r s) : Keeps r (directWritten d good s) := by
  unfold Machine.directWritten
  split
  · exact h.directDone
  · extract_lets +onlyGivenNames s1
    have h1 : Keeps r s1 := h.writePage
    exact .ite (.ite h1.directDone h1.rest) (.ite h1.rest.noteRetry h1.raiseWear.directDone)

theorem Keeps.putDigest {d : DumpRun} {good : Bool} (h : Keeps r s) : Keeps r (putDigest d good s) := by
  unfold Machine.putDigest
  extract_lets +onlyGivenNames x1 x2 x3 s4
  have h4 : Keeps r s4 := h.writePage
  exact h4.rest

theorem Keeps.digestWritten {d : DumpRun} {good : Bool} (h : Keeps r s) : Keeps r (digestWritten d good s) := by
  unfold Machine.digestWritten
  extract_lets +onlyGivenNames s1
  have h1 : Keeps r s1 := h.putDigest
  extract_lets +onlyGivenNames x2
  split
  · exact h1.rest
  · split
    · exact h1.rest.noteRetry
    · exact (show Keeps r (Machine.raiseWear (Machine.digestFirst d.slot + Machine.digestPage d.next) 1 s1) from h1.raiseWear).rest

theorem Keeps.lastOfTxn {boot : Bool} {x : NvmTxn} {good : Bool} (h : Keeps r s) : Keeps r (lastOfTxn boot x good s) := by
  have hj : Keeps r (Machine.judgePage x good s).2 := h.judgePage
  unfold Machine.lastOfTxn
  split
  next heq => exact hj.ofSnd heq
  next heq => exact (hj.ofSnd heq).rest.putTxn
  next heq => exact (hj.ofSnd heq).rotate.stepStands

theorem Keeps.lastPage {good : Bool} (h : Keeps r s) : Keeps r (lastPage good s) := by
  unfold Machine.lastPage
  split
  · exact h
  · split
    · exact h.lastOfTxn
    · exact h
  · split
    · exact h.lastOfTxn
    · exact h
  · split
    · exact .ite h.writePage.raiseWear h.writePage
    · exact h
  · split
    · exact .ite h.putDigest.raiseWear h.putDigest
    · exact h

theorem Keeps.nvmReadBody {c : Cmd} (h : Keeps r s) : Keeps r (nvmReadBody c s).state :=
  h.judged (.iteCmd h.cmdBad (.iteCmd h.cmdBad (.iteCmd h.cmdBad (.iteCmd h.cmdBad h.cmdOk))))

theorem Keeps.execNvmRead {t' : Instant} (h : Keeps r s) : KeepsNext r (execNvmRead t' s) :=
  h.runCmd (fun _ _ h1 => h1.nvmReadBody)

theorem Keeps.nvmWriteBody {c : Cmd} (h : Keeps r s) : Keeps r (nvmWriteBody c s).state := by
  unfold Machine.nvmWriteBody
  extract_lets +onlyGivenNames x1 x2 x3 x4 x5 x6
  exact h.judged (.iteCmd h.cmdBad (.iteCmd h.cmdBad (.iteCmd h.cmdBad (.iteCmd h.cmdRefuse (.iteCmd h.cmdRefuse (.iteCmd h.rest.cmdOk (.iteCmd h.rest.cmdOk (by
    split
    · exact h.cmdRefuse
    · exact h.rest.startTxn.startWork.cmdPending))))))))

theorem Keeps.execNvmWrite {t' : Instant} (h : Keeps r s) : KeepsNext r (execNvmWrite t' s) :=
  h.runCmd (fun _ _ h1 => h1.nvmWriteBody)

/-! #### Machine/CalLoad.lean -/

theorem Keeps.commitTable {store : Bool} {x : CalStaging} (h : Keeps r s) (hbefore : Keeps r before) :
    Keeps r (commitTable store x before s).state := by
  unfold Machine.commitTable
  extract_lets +onlyGivenNames x1 x2
  split
  · exact hbefore.cmdRefuse
  · split
    · exact hbefore.cmdBadAny
    · split
      · exact hbefore.cmdRefuse
      · split
        · split
          · exact hbefore.cmdRefuse
          · exact h.storeRecord.cmdHeld
        · exact .iteCmd h.placeTable.cmdHeld h.placeTable.calLoaded

theorem Keeps.loadCalBody {c : Cmd} (h : Keeps r s) : Keeps r (loadCalBody c s).state :=
  h.judged (.iteCmd h.cmdBad (.iteCmd h.cmdBad (.iteCmd (h.rest.commitTable h) h.rest.cmdOk)))

theorem Keeps.execLoadCalTable {t' : Instant} (h : Keeps r s) : KeepsNext r (execLoadCalTable t' s) :=
  h.runCmd (fun _ _ h1 => h1.loadCalBody)

theorem Keeps.execFrontBandSelect {t' : Instant} {ecc : List EccHit} (h : Keeps r s) :
    KeepsNext r (execFrontBandSelect t' ecc s) := h.setNow.bandSelect.settleCal.next

theorem Keeps.execFrontBeginVersion {t' : Instant} (h : Keeps r s) : KeepsNext r (execFrontBeginVersion t' s) :=
  h.setNow.beginNext.settleCal.next

theorem Keeps.execFrontEndVersion {t' : Instant} (h : Keeps r s) : KeepsNext r (execFrontEndVersion t' s) :=
  h.setNow.endNext.settleCal.next

theorem Keeps.execBackEndVersion {t' : Instant} (h : Keeps r s) : KeepsNext r (execBackEndVersion t' s) :=
  .next (.ite h.setNow.backEnd.settleCal h.setNow)

/-! #### Machine/Firmware.lean -/

theorem Keeps.fwBeginBody {c : Cmd} (h : Keeps r s) : Keeps r (fwBeginBody c s).state := by
  unfold Machine.fwBeginBody
  extract_lets +onlyGivenNames x1
  split
  · exact h.cmdBad
  · split
    · exact h.cmdRefuse
    · split
      · exact h.cmdRefuse
      · exact h.startTxn.cmdHeld

theorem Keeps.execFwUpdateBegin {t' : Instant} (h : Keeps r s) : KeepsNext r (execFwUpdateBegin t' s) :=
  h.runCmd (fun _ _ h1 => h1.fwBeginBody)

theorem Keeps.fwDataBody {c : Cmd} (h : Keeps r s) : Keeps r (fwDataBody c s).state := by
  unfold Machine.fwDataBody
  extract_lets +onlyGivenNames x1 x2
  split
  · exact h.cmdRefuse
  · exact .iteCmd h.cmdBad (.iteCmd h.cmdBad (.iteCmd h.cmdRefuse (.iteCmd h.cmdOk h.rest.kickWrites.cmdHeld)))

theorem Keeps.execFwUpdateData {t' : Instant} (h : Keeps r s) : KeepsNext r (execFwUpdateData t' s) :=
  h.runCmd (fun _ _ h1 => h1.fwDataBody)

theorem Keeps.activate (h : Keeps r s) : Keeps r (activate s).state := by
  unfold Machine.activate
  extract_lets b fail
  have hf : ∀ st d n, Keeps r (fail st d n).state := fun _ _ _ => h.fwDone
  refine .iteCmd h.cmdRefuse ?_
  split
  · exact h.cmdRefuse
  · split
    · exact hf _ _ _
    · exact hf _ _ _
    · exact hf _ _ _
    · exact h.startTxn.cmdHeld

theorem Keeps.blowRollback {n : ℕ} (h : Keeps r s) : Keeps r (blowRollback n s) := h.rest

theorem Keeps.fwCommitBody {c : Cmd} (h : Keeps r s) : Keeps r (fwCommitBody c s).state := by
  unfold Machine.fwCommitBody
  extract_lets +onlyGivenNames x1
  exact h.judged (.iteCmd h.activate (.iteCmd (.iteCmd h.cmdRefuse (by
    split
    · exact h.cmdRefuse
    · exact h.blowRollback.startTxn.cmdHeld)) (.iteCmd h.rest.cmdOk h.cmdBad)))

theorem Keeps.execFwUpdateCommit {t' : Instant} (h : Keeps r s) : KeepsNext r (execFwUpdateCommit t' s) :=
  h.runCmd (fun _ _ h1 => h1.fwCommitBody)

theorem Keeps.withFree {n : ℕ} {ws : List Word} (h : Keeps r s) : Keeps r (withFree n ws s).2 := h.freeWords

theorem Keeps.dumpBody {d : DumpRun} (h : Keeps r s) : Keeps r (dumpBody d s).2 := by
  unfold Machine.dumpBody
  split
  next hd s1 heq =>
  have h1 : Keeps r s1 := (Keeps.freeWords (n := 1008) h).ofSnd heq
  extract_lets +onlyGivenNames fault cmds evs secs
  split
  next st s2 heq =>
  exact Keeps.ofSnd (Keeps.withFree (n := 8192) (h1.rest (t := { s1 with free := s1.free + 1 }))) heq

theorem Keeps.copyWork (h : Keeps r s) : Keeps r (copyWork s) :=
  ⟨h.pending, fun hr => smWf_copyRange _ _ _ (h.dram hr), h.pillows, h.bobbins, h.cells⟩

theorem Keeps.writeDump {d : DumpRun} (h : Keeps r s) : Keeps r (writeDump d s) := by
  unfold Machine.writeDump
  extract_lets +onlyGivenNames seq
  split
  next body s1 heq =>
  have h1 : Keeps r s1 := h.dumpBody.ofSnd heq
  split
  next snap s2 heq =>
  have h2 : Keeps r s2 := (Keeps.freeWords (n := Machine.snapshotWords) h1).ofSnd heq
  extract_lets +onlyGivenNames s3 crcDig crcAll s4
  have h3 : Keeps r s3 := h2.dramWriteWords.copyWork
  clear_value s3
  have h4 : Keeps r s4 := h3.dramWriteWords
  clear_value s4
  exact h4.rest

theorem Keeps.execDumpComplete {t' : Instant} (h : Keeps r s) : KeepsNext r (execDumpComplete t' s) := by
  unfold Machine.execDumpComplete
  extract_lets +onlyGivenNames s1
  have h1 : Keeps r s1 := h.setNow
  exact .next (by
    split
    · exact .ite h1 (.ite (.ite h1 h1.writeDump.kickWrites) (.ite h1 h1.requestReset))
    · exact h1)

theorem Keeps.dumpReadBody {c : Cmd} (h : Keeps r s) : Keeps r (dumpReadBody c s).state :=
  h.judged (.iteCmd h.cmdBad (.iteCmd h.cmdBad (.iteCmd h.cmdBad (.iteCmd (.iteCmd h.cmdRefuse h.cmdOk) (.iteCmd h.cmdRefuse h.cmdOk)))))

theorem Keeps.execDumpRead {t' : Instant} (h : Keeps r s) : KeepsNext r (execDumpRead t' s) :=
  h.runCmd (fun _ _ h1 => h1.dumpReadBody)

theorem Keeps.dumpClearBody {c : Cmd} (h : Keeps r s) : Keeps r (dumpClearBody c s).state := by
  unfold Machine.dumpClearBody
  extract_lets +onlyGivenNames x1
  exact h.judged (.iteCmd h.cmdRefuse (.iteCmd h.cmdRefuse (.iteCmd (.cmdHeld (.startTxn (.ite ((show Keeps r (Machine.dramWrite s Machine.dumpBase (List.replicate 4096 0)) from h.dramWrite).rest) h))) (.cmdOk (.ite ((show Keeps r (Machine.dramWrite s Machine.dumpBase (List.replicate 4096 0)) from h.dramWrite).rest) h)))))

theorem Keeps.execDumpClear {t' : Instant} (h : Keeps r s) : KeepsNext r (execDumpClear t' s) :=
  h.runCmd (fun _ _ h1 => h1.dumpClearBody)

theorem Keeps.dumpPresent (h : Keeps r s) : Keeps r (dumpPresent s) := by
  unfold Machine.dumpPresent
  split
  · exact h.raise
  · extract_lets +onlyGivenNames x1
    split
    · split
      · exact h.raise
      · exact h
    · exact h

theorem Keeps.reportFrozen (h : Keeps r s) : Keeps r (reportFrozen s) := by
  unfold Machine.reportFrozen
  split
  · exact h.raise
  · exact h

theorem Keeps.reportStretch (h : Keeps r s) : Keeps r (reportStretch s) := by
  unfold Machine.reportStretch
  split
  · exact h.raise
  · exact h

theorem Keeps.reportUpdate (h : Keeps r s) : Keeps r (reportUpdate s) := by
  unfold Machine.reportUpdate
  split
  · exact h.fwDone
  · exact .ite h.fwDone h

theorem Keeps.firmwareReady (h : Keeps r s) : Keeps r (firmwareReady s) := by
  unfold Machine.firmwareReady
  extract_lets +onlyGivenNames s1
  have h1 : Keeps r s1 := h.raise
  exact h1.reportStretch.reportFrozen.reportUpdate.dumpPresent.rest.settleAll

theorem Keeps.recoverBoot (h : Keeps r s) : Keeps r (recoverBoot s) := by
  unfold Machine.recoverBoot
  split
  · exact h
  · extract_lets +onlyGivenNames s1
    have h1 : Keeps r s1 := h.putTxn
    exact .ite h1.rest (.ite h1 h1.putTxn)

theorem Keeps.recoverJournal (h : Keeps r s) : Keeps r (recoverJournal s) := by
  unfold Machine.recoverJournal
  extract_lets +onlyGivenNames s1
  have h1 : Keeps r s1 := h.recoverBoot
  split
  · exact h1
  · extract_lets +onlyGivenNames x2
    split
    · exact h1.rest
    · extract_lets +onlyGivenNames s3
      have h3 : Keeps r s3 := h1.foldl (fun _ h1 _ => h1.setPage)
      exact h3.rest

theorem Keeps.startBank {b : Bool} (h : Keeps r s) : Keeps r (startBank b s) := h.rest

theorem Keeps.bringUpPattern (h : Keeps r s) : Keeps r (bringUpPattern s) := .ite h.rest h

theorem Keeps.planProfile (h : Keeps r s) : Keeps r (planProfile s) := h.rest

theorem Keeps.targetRoles (h : Keeps r s) : Keeps r (targetRoles s) := h.rest

theorem Keeps.enterRecovery (h : Keeps r s) : Keeps r (enterRecovery s) := h.rest.targetRoles.planProfile.firmwareReady

theorem Keeps.bootBank {b : Bool} (h : Keeps r s) : Keeps r (bootBank b s) := by
  unfold Machine.bootBank
  extract_lets s1
  have h1 : Keeps r s1 := h.startBank.loadStoredTables.bringUpPattern.planProfile
  exact .ite h1 h1.firmwareReady

theorem Keeps.withRecord {o : NvmOrigin} {f : State → State} (h : Keeps r s) (hf : ∀ (a : State), Keeps r a → Keeps r (f a)) :
    Keeps r (withRecord o f s) := .ite (hf _ h) h.rest

theorem Keeps.afterSwitch {made : Bool} (h : Keeps r s) : Keeps r (afterSwitch made s) := h.bootBank

theorem Keeps.tryActive (h : Keeps r s) : Keeps r (tryActive s) :=
  .ite h.bootBank (.ite (h.withRecord (fun _ h1 => h1.afterSwitch)) h.enterRecovery)

theorem Keeps.afterReject (h : Keeps r s) : Keeps r (afterReject s) := h.rest.tryActive

theorem Keeps.tryReject (h : Keeps r s) : Keeps r (tryReject s) :=
  .ite (h.withRecord (fun _ h1 => h1.afterReject)) h.tryActive

theorem Keeps.afterTrial (h : Keeps r s) : Keeps r (afterTrial s) := .ite h.bootBank h.tryReject

theorem Keeps.chooseBank (h : Keeps r s) : Keeps r (chooseBank s) :=
  .ite (h.withRecord (fun _ h1 => h1.afterTrial)) h.tryReject

theorem Keeps.bootGoesOn {o : NvmOrigin} {good : Bool} (h : Keeps r s) : Keeps r (bootGoesOn o good s) := by
  unfold Machine.bootGoesOn
  split
  · exact h.afterTrial
  · exact h.afterReject
  · exact h.afterSwitch
  · exact h

theorem Keeps.bootWritten {x : NvmTxn} {good : Bool} (h : Keeps r s) : Keeps r (bootWritten x good s) := by
  have hj : Keeps r (Machine.judgePage x good s).2 := h.judgePage
  unfold Machine.bootWritten
  split
  next heq => exact (hj.ofSnd heq).putTxn.noteRetry
  next heq => exact (hj.ofSnd heq).rest.putTxn.bootGoesOn
  next heq =>
    have h1 := (hj.ofSnd heq).rotate (x := x)
    exact .ite h1.stepStands h1.stepStands.bootGoesOn

theorem Keeps.execBootLoaderStart {t' : Instant} (h : Keeps r s) : KeepsNext r (execBootLoaderStart t' s) :=
  .ite h.setNow.next (.next (.kickWrites (.ite h.setNow.recoverJournal.enterRecovery h.setNow.recoverJournal.chooseBank)))

theorem Keeps.execPageWriteComplete {t' : Instant} {result : PageResult} (h : Keeps r s) :
    KeepsNext r (execPageWriteComplete t' result s) := by
  unfold Machine.execPageWriteComplete
  extract_lets +onlyGivenNames s1
  have h1 : Keeps r s1 := h.setNow
  extract_lets +onlyGivenNames x2
  split
  · exact h1.next
  · extract_lets +onlyGivenNames x3
    split
    · exact ((show Keeps r (Machine.lastPage x2 s1) from h1.lastPage).rest).assertReset.next
    · exact .next (.kickWrites (by
        split
        · exact h1.rest.digestWritten
        · exact (show Keeps r (Machine.lastPage x2 s1) from h1.lastPage).rest
        · exact h1.rest.directWritten
        · exact h1.rest.txnWritten
        · exact h1.rest.bootWritten
        · exact h1.rest))

/-! #### Machine/Kernels.lean -/

theorem Keeps.storeImage {kid : Nat} (h : Keeps r s) : Keeps r (storeImage kid s) :=
  Keeps.foldl ⟨h.pending, fun hr => smWf_smClear _ _ (h.dram hr), h.pillows, h.bobbins, h.cells⟩ fun _ hu _ => hu.dramWriteWords

theorem Keeps.storeImages (h : Keeps r s) : Keeps r (storeImages s) := h.foldl (fun _ h1 _ => h1.storeImage)

theorem Keeps.commitImage {kid : Nat} (h : Keeps r s) : Keeps r (commitImage kid s).state := by
  unfold Machine.commitImage
  extract_lets k fail
  have hf : ∀ st w, Keeps r (fail st w).state := by
    have hs : Keeps r (Machine.storeImages (Machine.updKernel kid (fun _ => {}) s)) := h.updKernel.storeImages
    intro st w
    dsimp only [fail]
    exact hs
  clear_value fail
  split
  · exact hf _ _
  · split
    · exact hf _ _
    · split
      · exact hf _ _
      · exact Keeps.cmdOk h.updKernel

theorem Keeps.imageWritten {kid : ℕ} {off : ℕ} {data : List Word} {commit : Bool} (h : Keeps r s) :
    Keeps r (imageWritten kid off data commit s).state := .iteCmd h.updKernel.dramWriteWords.commitImage h.updKernel.dramWriteWords.cmdOk

theorem Keeps.kernelLoadBody {c : Cmd} (h : Keeps r s) : Keeps r (kernelLoadBody c s).state :=
  .iteCmd h.cmdBad (.iteCmd h.cmdBad (.iteCmd h.cmdBadAny (.iteCmd h.cmdBad (.iteCmd h.cmdRefuse (.imageWritten (.ite h.updKernel.storeImages h))))))

theorem Keeps.bobbinAllocBody {c : Cmd} (h : Keeps r s) : Keeps r (bobbinAllocBody c s).state := by
  unfold Machine.bobbinAllocBody
  extract_lets +onlyGivenNames w kid k bs free place
  clear_value place
  refine .iteCmd h.cmdBad (.iteCmd h.cmdBad (.iteCmd h.cmdBad (.iteCmd h.cmdRefuse (.iteCmd ?_ (.iteCmd h.cmdRefuse ?_)))))
  · exact Keeps.cmdOk h.updKernel
  · split
    exact Keeps.cmdOk h.updKernel

theorem Keeps.startAnswer {kid : ℕ} {ch : ℕ} (h : Keeps r s) : Keeps r (startAnswer s kid ch).state := by
  unfold Machine.startAnswer
  split
  · exact h.cmdBudget
  · exact h.runKernel.cmdOk

theorem Keeps.kernelStartBody {c : Cmd} (h : Keeps r s) : Keeps r (kernelStartBody c s).state :=
  .iteCmd h.cmdBad (.iteCmd h.cmdRefuse (.iteCmd h.cmdRefuse h.startAnswer))

theorem Keeps.kernelStopBody {c : Cmd} (h : Keeps r s) : Keeps r (kernelStopBody c s).state :=
  .iteCmd h.cmdBad (.iteCmd h.cmdRefuse h.finishKernel.endKernel.pump.cmdOk)

theorem Keeps.kernelStatusBody {c : Cmd} (h : Keeps r s) : Keeps r (kernelStatusBody c s).state := .iteCmd h.cmdBad h.cmdOk

theorem Keeps.execKernelHangTimeout {t' : Instant} {kid : Byte} {b : Fin 128} (h : Keeps r s) :
    KeepsNext r (execKernelHangTimeout t' kid b s) :=
  .next (.ite (.ite h.setNow.bobbinFault h.setNow) (.ite h.setNow.takeFree.faultKernel h.setNow))

theorem Keeps.execGrantPeriod {t' : Instant} (h : Keeps r s) : KeepsNext r (execGrantPeriod t' s) := by
  unfold Machine.execGrantPeriod
  extract_lets +onlyGivenNames s1 user vendor bobbins
  have h1 : Keeps r s1 := h.setNow
  clear_value user vendor
  refine Keeps.next (Keeps.arbitrate { h1 with bobbins := fun hr x hx => ?_ })
  obtain ⟨⟨y, i⟩, hy, rfl⟩ := List.mem_map.1 (show x ∈ bobbins from hx)
  have hwf := h1.bobbins hr y (List.fst_mem_of_mem_zipIdx hy)
  dsimp only
  split
  · exact hwf
  · exact hwf

/-! #### Machine/Mcv.lean -/

theorem Keeps.updMcv {f : McvState → McvState} (h : Keeps r s) : Keeps r (updMcv f s) := h.rest

theorem Keeps.slotInt (h : Keeps r s) : Keeps r (slotInt s) := by
  unfold Machine.slotInt
  exact h.updMcv

theorem Keeps.execMcvSlotStart {t' : Instant} (h : Keeps r s) : KeepsNext r (execMcvSlotStart t' s) :=
  .ite h.setNow.slotInt.updMcv.next h.setNow.next

theorem Keeps.comparePair {channel : ℕ} (h : Keeps r s) : Keeps r (comparePair channel s) := by
  unfold Machine.comparePair
  split
  · exact .ite h (.ite h.updMcv h.updMcv.updMcv.raise)
  · exact h

theorem Keeps.notePair {b : Bool} {c : McvConversion} {y : ℤ} (h : Keeps r s) : Keeps r (notePair b c y s) :=
  .ite h h.updMcv.comparePair

theorem Keeps.noteOver {b : Bool} {c : McvConversion} (h : Keeps r s) : Keeps r (noteOver b c s) :=
  .ite h.updMcv.raise h.updMcv

theorem Keeps.takeResult {b : Bool} {c : McvConversion} {x : ℤ} {ov : Bool} (h : Keeps r s) :
    Keeps r (takeResult b c x ov s) := .ite h.updMcv (.ite h.updMcv.noteOver h.updMcv.notePair)

theorem Keeps.calDone {a0 : ℕ} {code : ℕ} {a2 : ℕ} (h : Keeps r s) : Keeps r (calDone a0 code a2 s) := h.raise.endWork

theorem Keeps.endCal {r' : McvCalRun} (h : Keeps r s) : Keeps r (endCal r' s) := by
  unfold Machine.endCal
  extract_lets +onlyGivenNames x1 x2 s3
  have h3 : Keeps r s3 := h.updMcv
  split
  · exact h3.calDone
  · split
    · exact h3.updMcv.calDone
    · split
      · exact h3.calDone
      · exact .ite h3.updMcv.updMcv.startStore h3.updMcv.calDone

theorem Keeps.takeCal {b : Bool} {x : ℤ} {ov : Bool} (h : Keeps r s) : Keeps r (takeCal b x ov s) := by
  unfold Machine.takeCal
  split
  · exact h
  · exact .ite h.updMcv.endCal h.updMcv

theorem Keeps.clearDue {b : Bool} (h : Keeps r s) : Keeps r (clearDue b s) := h.updMcv

theorem Keeps.execMcvConversionComplete {t' : Instant} {b : Bool} {raw : ℤ} {overRange : Bool} (h : Keeps r s) :
    KeepsNext r (execMcvConversionComplete t' b raw overRange s) := by
  unfold Machine.execMcvConversionComplete
  extract_lets +onlyGivenNames s1
  have h1 : Keeps r s1 := h.setNow
  split
  · exact h1.next
  · exact .ite h1.next (.next (.ite h1.clearDue.takeCal h1.clearDue.takeResult))

theorem Keeps.execRefSettled {t' : Instant} (h : Keeps r s) : KeepsNext r (execRefSettled t' s) :=
  .next (.ite h.setNow.updMcv h.setNow)

theorem Keeps.mcvConfigBody {c : Cmd} (h : Keeps r s) : Keeps r (mcvConfigBody c s).state := by
  unfold Machine.mcvConfigBody
  extract_lets +onlyGivenNames x1 x2 x3 x4 x5 x6 x7 x8 x9 x10 x11 x12 x13
  exact h.judged (.iteCmd h.cmdBad (by
    split
    · exact h.cmdBad
    · exact .iteCmd h.cmdRefuse (.iteCmd h.cmdRefuse h.rest.cmdOk)))

theorem Keeps.execMcvConfig {t' : Instant} (h : Keeps r s) : KeepsNext r (execMcvConfig t' s) :=
  h.runCmd (fun _ _ h1 => h1.mcvConfigBody)

theorem Keeps.mcvReadBody {c : Cmd} (h : Keeps r s) : Keeps r (mcvReadBody c s).state := h.judged h.rest.cmdOk

theorem Keeps.execMcvRead {t' : Instant} (h : Keeps r s) : KeepsNext r (execMcvRead t' s) :=
  h.runCmd (fun _ _ h1 => h1.mcvReadBody)

theorem Keeps.mcvCalibrateBody {c : Cmd} (h : Keeps r s) : Keeps r (mcvCalibrateBody c s).state :=
  h.judged (.iteCmd h.cmdBad (.iteCmd h.cmdBad (.iteCmd h.cmdRefuse (.iteCmd h.cmdRefuse h.rest.startWork.cmdPending))))

theorem Keeps.execMcvCalibrate {t' : Instant} (h : Keeps r s) : KeepsNext r (execMcvCalibrate t' s) :=
  h.runCmd (fun _ _ h1 => h1.mcvCalibrateBody)

/-! #### Machine/Power.lean -/

theorem Keeps.takeTj (h : Keeps r s) : Keeps r (takeTj s) := h.rest

theorem Keeps.setThrottle {n : ℕ} (h : Keeps r s) : Keeps r (setThrottle n s) := .ite h h.rest.raise

theorem Keeps.checkWarn {i : ℕ} (h : Keeps r s) : Keeps r (checkWarn i s) := .ite h.rest.raise (.ite h.rest h)

theorem Keeps.checkThrottle (h : Keeps r s) : Keeps r (checkThrottle s) :=
  .ite h (.ite h.setThrottle (.ite (.ite h.setThrottle.raise h.setThrottle) h))

theorem Keeps.enterHold {why : ℕ} (h : Keeps r s) : Keeps r (enterHold why s) :=
  h.rest.setThrottle.forceStop.raise.arbitrate

theorem Keeps.leaveHold (h : Keeps r s) : Keeps r (leaveHold s) := h.rest.raise.arbitrate.kickWrites

theorem Keeps.checkHold (h : Keeps r s) : Keeps r (checkHold s) := by
  unfold Machine.checkHold
  extract_lets +onlyGivenNames x1 x2 x3
  split
  · exact .ite h h.enterHold
  · exact .ite (.ite h.leaveHold h) (.ite h.enterHold h)

theorem Keeps.countThrottle (h : Keeps r s) : Keeps r (countThrottle s) := .ite h h.rest

theorem Keeps.thermalControl (h : Keeps r s) : Keeps r (thermalControl s) := by
  unfold Machine.thermalControl
  extract_lets +onlyGivenNames s1
  have h1 : Keeps r s1 := by
    unfold s1
    split
    · exact h.checkWarn
    · exact h
  exact .countThrottle (.checkHold (.ite h1 h1.checkThrottle))

theorem Keeps.execSensorSample {t' : Instant} {readings : List (BitVec 16)} (h : Keeps r s) :
    KeepsNext r (execSensorSample t' readings s) := by
  unfold Machine.execSensorSample
  extract_lets +onlyGivenNames s1
  have h1 : Keeps r s1 := h.setNow
  exact .ite h1.next (.ite (.next (.ite h1.rest.takeTj.assertReset h1.rest.takeTj)) (.ite h1.rest.takeTj.next h1.rest.takeTj.thermalControl.next))

theorem Keeps.execHardTrip {t' : Instant} (h : Keeps r s) : KeepsNext r (execHardTrip t' s) := by
  unfold Machine.execHardTrip
  extract_lets +onlyGivenNames s1
  have h1 : Keeps r s1 := h.setNow
  split
  · exact h1.next
  · extract_lets +onlyGivenNames x2
    extract_lets +onlyGivenNames s3
    have h3 : Keeps r s3 := h1.loseState
    exact h3.rest.next

theorem Keeps.setPowerBudgetBody {c : Cmd} (h : Keeps r s) : Keeps r (setPowerBudgetBody c s).state := by
  unfold Machine.setPowerBudgetBody
  extract_lets +onlyGivenNames x1
  exact h.judged (by
    split
    · exact h.cmdBad
    · exact h.rest.arbitrate.cmdOk)

theorem Keeps.execSetPowerBudget {t' : Instant} (h : Keeps r s) : KeepsNext r (execSetPowerBudget t' s) :=
  h.runCmd (fun _ _ h1 => h1.setPowerBudgetBody)

theorem Keeps.thermalConfigBody {c : Cmd} (h : Keeps r s) : Keeps r (thermalConfigBody c s).state :=
  h.judged (.iteCmd h.cmdBad (.iteCmd h.cmdBad h.rest.cmdOk))

theorem Keeps.execThermalConfig {t' : Instant} (h : Keeps r s) : KeepsNext r (execThermalConfig t' s) :=
  h.runCmd (fun _ _ h1 => h1.thermalConfigBody)

theorem Keeps.getTemperaturesBody {c : Cmd} (h : Keeps r s) : Keeps r (getTemperaturesBody c s).state :=
  h.judged h.rest.cmdOk

theorem Keeps.execGetTemperatures {t' : Instant} (h : Keeps r s) : KeepsNext r (execGetTemperatures t' s) :=
  h.runCmd (fun _ _ h1 => h1.getTemperaturesBody)

theorem Keeps.setPowerStateBody {c : Cmd} (h : Keeps r s) : Keeps r (setPowerStateBody c s).state :=
  h.judged (.iteCmd h.cmdBad (.iteCmd (.iteCmd h.cmdOk h.cmdRefuse) (.iteCmd h.cmdRefuse (.iteCmd h.cmdRefuse (.iteCmd h.rest.arbitrate.cmdOk h.rest.cmdOk)))))

theorem Keeps.execSetPowerState {t' : Instant} (h : Keeps r s) : KeepsNext r (execSetPowerState t' s) := by
  unfold Machine.execSetPowerState
  obtain ⟨u, e, hu⟩ : KeepsNext r (Machine.runCmd t' 0x0804 Machine.setPowerStateBody s) := h.runCmd fun _ _ hu => hu.setPowerStateBody
  rw [e]
  exact hu.settleStow.next

/-! #### Machine/SelfTest.lean -/

theorem Keeps.selftestBody {c : Cmd} (h : Keeps r s) : Keeps r (selftestBody c s).state :=
  h.judged (.iteCmd (.iteCmd h.cmdRefuse h.cmdOk) (.iteCmd h.cmdBad (.iteCmd h.cmdRefuse (.iteCmd h.cmdRefuse (.iteCmd h.cmdRefuse h.rest.startWork.cmdPending)))))

theorem Keeps.execSelftest {t' : Instant} (h : Keeps r s) : KeepsNext r (execSelftest t' s) :=
  h.runCmd (fun _ _ h1 => h1.selftestBody)

theorem Keeps.noteTest {passed : ℕ} {failed : ℕ} {first : Option ℕ} (h : Keeps r s) :
    Keeps r (noteTest passed failed first s) := h.rest

theorem Keeps.noteWalk {total : ℕ} {fails : List ℕ} (h : Keeps r s) : Keeps r (noteWalk total fails s) := h.noteTest

theorem Keeps.noteRatio {ms : List RatioMeasure} (h : Keeps r s) : Keeps r (noteRatio ms s) := h.rest.noteTest

theorem Keeps.execSelftestComplete {t' : Instant} {fails : List ℕ} {measures : List RatioMeasure} (h : Keeps r s) :
    KeepsNext r (execSelftestComplete t' fails measures s) := by
  unfold Machine.execSelftestComplete
  extract_lets +onlyGivenNames s1
  have h1 : Keeps r s1 := h.setNow
  split
  · exact h1.next
  · split
    · exact h1.next
    · split
      · exact h1.noteWalk.selftestDone.next
      · split
        · exact h1.noteWalk.selftestDone.next
        · extract_lets +onlyGivenNames s2
          have h2 : Keeps r s2 := h1.noteRatio
          exact .ite h2.rest.startStore.next h2.selftestDone.next

theorem Keeps.voidAccs {a : ℕ} (h : Keeps r s) : Keeps r (voidAccs a s) := h.dramWriteWords

theorem Keeps.scrubUe {a : ℕ} (h : Keeps r s) : Keeps r (scrubUe a s) :=
  .ite h.markDouble.countUe.voidAccs (.ite h.markDouble.countUe.takeFree.trap h.markDouble.countUe)

theorem Keeps.execScrubAccess {t' : Instant} {addr : ℕ} {found : EccFind} (h : Keeps r s) :
    KeepsNext r (execScrubAccess t' addr found s) := by
  unfold Machine.execScrubAccess
  extract_lets +onlyGivenNames s1
  have h1 : Keeps r s1 := h.setNow
  exact .ite h1.next (.ite (.next (.scrubUe (.ite h1 (.ite h1.rest h1.rest)))) (.ite (.next (.correctRead (.markEcc (.ite h1 (.ite h1.rest h1.rest))))) (.next (.correctRead (.ite h1 (.ite h1.rest h1.rest))))))

/-! #### Machine/Timers.lean -/

theorem Keeps.updChan {c : ℕ} {f : TimerChan → TimerChan} (h : Keeps r s) : Keeps r (updChan c f s) := h.rest

theorem Keeps.setChan {c : ℕ} {x : TimerChan} {base : TimerChan} {acts : List TimerAct} (h : Keeps r s) :
    Keeps r (setChan c x base acts s) := h.rest

theorem Keeps.actOn {c : ℕ} {a : TimerAct} (h : Keeps r s) : Keeps r (actOn c a s) := h.setChan

theorem Keeps.tickTo {c : ℕ} {r' : TimerChan × Bool} (h : Keeps r s) : Keeps r (tickTo c r' s) :=
  .ite h.setChan.raise h.setChan

theorem Keeps.sourceEvent {c : ℕ} {x : TimerChan} (h : Keeps r s) : Keeps r (sourceEvent c x s) := h.tickTo

theorem Keeps.execTimerTick {t' : Instant} {ch : Fin 8} (h : Keeps r s) : KeepsNext r (execTimerTick t' ch s) :=
  .next (.ite h.setNow.sourceEvent h.setNow)

theorem Keeps.execTimerSync {t' : Instant} {ch : Fin 8} (h : Keeps r s) : KeepsNext r (execTimerSync t' ch s) :=
  .next (.ite h.setNow.actOn h.setNow)

theorem Keeps.execTimerCapture {t' : Instant} {ch : Fin 8} (h : Keeps r s) : KeepsNext r (execTimerCapture t' ch s) :=
  .next (.ite h.setNow.actOn h.setNow)

theorem Keeps.edgeOnChans {p : ℕ} {falling : Bool} (h : Keeps r s) : Keeps r (edgeOnChans p falling s) :=
  (h.foldl (fun _ h1 _ => .ite h1.sourceEvent h1)).foldl (fun _ h1 _ => .ite h1.actOn h1)

theorem Keeps.execTrgEdge {t' : Instant} {pin : Fin 8} {level : PinLevel} (h : Keeps r s) :
    KeepsNext r (execTrgEdge t' pin level s) := by
  unfold Machine.execTrgEdge
  extract_lets +onlyGivenNames s1
  have h1 : Keeps r s1 := h.setNow
  exact .ite h1.next h1.rest.edgeOnChans.pinTrigger.pinFreeze.mainsEdge.next

theorem Keeps.timerConfigBody {c : Cmd} (h : Keeps r s) : Keeps r (timerConfigBody c s).state := by
  unfold Machine.timerConfigBody
  extract_lets +onlyGivenNames n x ws w g wr
  refine h.judged ?_
  split; · exact h
  split; · exact h
  split; · exact h
  split; · exact h
  split; · exact h
  split; · exact h
  split; · exact h
  split; · exact h
  extract_lets +onlyGivenNames s1
  have h1 : Keeps r s1 := h.updChan
  clear_value s1
  extract_lets +onlyGivenNames y s2
  have h2 : Keeps r s2 := h1.rest
  clear_value s2
  exact Keeps.cmdOk (.ite h2.rest h2)

theorem Keeps.execTimerConfig {t' : Instant} (h : Keeps r s) : KeepsNext r (execTimerConfig t' s) :=
  h.runCmd (fun _ _ h1 => h1.timerConfigBody)

theorem Keeps.timerGoBody {c : Cmd} (h : Keeps r s) : Keeps r (timerGoBody c s).state :=
  h.judged (.iteCmd h.cmdBad (.iteCmd h.cmdBad (.iteCmd h.cmdRefuse (h.actOn.foldl (fun _ h1 _ => h1.actOn)).cmdOk)))

theorem Keeps.execTimerGo {t' : Instant} (h : Keeps r s) : KeepsNext r (execTimerGo t' s) :=
  h.runCmd (fun _ _ h1 => h1.timerGoBody)

theorem Keeps.timerReadBody {c : Cmd} (h : Keeps r s) : Keeps r (timerReadBody c s).state :=
  h.judged (.iteCmd h.cmdRefuse (h.foldl (fun _ h1 _ => h1.actOn)).cmdOk)

theorem Keeps.execTimerRead {t' : Instant} (h : Keeps r s) : KeepsNext r (execTimerRead t' s) :=
  h.runCmd (fun _ _ h1 => h1.timerReadBody)

/-! #### Machine/TrunkCmds.lean -/

theorem Keeps.planAct {c : Cmd} {p : Port} {a : PortAct} (h : Keeps r s) : Keeps r (planAct c p a s) :=
  .ite h.updPort h.doAct

theorem Keeps.trunkConfigBody {c : Cmd} (h : Keeps r s) : Keeps r (trunkConfigBody c s).state := by
  unfold Machine.trunkConfigBody
  extract_lets +onlyGivenNames x1 x2 x3 x4 x5 x6
  exact h.judged (by
    split
    · exact h.cmdBad
    · exact .iteCmd h.cmdRefuse (.cmdOk (.ite (.ite h.updPort.doAct h.updPort.planAct) (.ite h.updPort.planAct (.ite h.updPort.startAttempt h.updPort)))))

theorem Keeps.trunkStatusBody {c : Cmd} (h : Keeps r s) : Keeps r (trunkStatusBody c s).state := h.judged h.cmdOk

theorem Keeps.prbsLane {p : Port} {l : ℕ} (h : Keeps r s) : Keeps r (prbsLane p l s).2 :=
  .iteSnd h (.updPort (.iteSnd h h.takeFree))

theorem Keeps.prbsRead {p : Port} {lanes : List ℕ} (h : Keeps r s) : Keeps r (prbsRead p lanes s).state := by
  unfold Machine.prbsRead
  split
  next ws s1 heq =>
  refine Keeps.ofSnd (Keeps.foldlSnd (p := ([], s)) h fun u hu l => ?_) heq
  exact Keeps.prbsLane hu

theorem Keeps.laneDiagBody {c : Cmd} (h : Keeps r s) : Keeps r (laneDiagBody c s).state := by
  unfold Machine.laneDiagBody
  extract_lets +onlyGivenNames x1 x2 x3 x4 x5 x6
  exact h.judged (.iteCmd h.cmdBad (.iteCmd h.cmdBad (.iteCmd h.updPort.cmdOk (.iteCmd (.iteCmd h.cmdRefuse h.updPort.startWork.cmdPending) (.iteCmd (.iteCmd h.cmdRefuse h.cmdOk) (.iteCmd (.iteCmd h.prbsRead h.cmdRefuse) (.iteCmd (.iteCmd h.startAttempt.cmdOk h.cmdRefuse) (.iteCmd h.cmdRefuse h.planAct.cmdOk))))))))

theorem Keeps.execEyeScanComplete {t' : Instant} {p : Port} {openings : List Byte} (h : Keeps r s) :
    KeepsNext r (execEyeScanComplete t' p openings s) := by
  unfold Machine.execEyeScanComplete
  extract_lets +onlyGivenNames s1
  have h1 : Keeps r s1 := h.setNow
  exact .next (by
    split
    · exact h1
    · exact h1.updPort.endWork.raise)

/-! #### Machine/TwoWire.lean -/

theorem Keeps.twEvent {t' : Instant} {f : State → State} (h : Keeps r s) (hf : ∀ (a : State), Keeps r a → Keeps r (f a)) :
    KeepsNext r (twEvent t' f s) := .next (.ite h.setNow (hf _ h.setNow))

theorem Keeps.readWindow {p : TwPort} {n : Nat} (h : Keeps r s) : Keeps r (readWindow p n s).2 := by
  induction n generalizing s with
  | zero => exact h
  | succ n ih => exact ih h.updTw

theorem Keeps.mailAbort {p : TwPort} (h : Keeps r s) : Keeps r (mailAbort p s) := by
  unfold Machine.mailAbort
  exact h.rest.updTw

theorem Keeps.mailNext {p : TwPort} (h : Keeps r s) : Keeps r (mailNext p s) := h.updTw

theorem Keeps.mailSegment {p : TwPort} {submit : Bool} (h : Keeps r s) : Keeps r (mailSegment p submit s) :=
  .ite h.updTw (.ite h.updTw (.ite h.updTw.arrivePacket h.updTw))

theorem Keeps.mailControl {p : TwPort} {b : Byte} (h : Keeps r s) : Keeps r (mailControl p b s) := by
  unfold Machine.mailControl
  extract_lets +onlyGivenNames s1
  have h1 : Keeps r s1 := .ite h.mailAbort h
  exact .ite (.mailSegment (.ite h1.mailNext h1)) (.ite (.mailSegment (.ite h1.mailNext h1)) (.ite h1.mailNext h1))

theorem Keeps.writeByte {p : TwPort} {b : Byte} (h : Keeps r s) : Keeps r (writeByte p b s) :=
  .ite h.updTw.updTw (.ite h.updTw.mailControl (.ite h.updTw.updTw h.updTw))

theorem Keeps.execAbort {t' : Instant} {p : TwPort} (h : Keeps r s) : KeepsNext r (execAbort t' p s) :=
  h.twEvent (fun _ h1 => h1.mailAbort)

theorem Keeps.execAppend {t' : Instant} {p : TwPort} (h : Keeps r s) : KeepsNext r (execAppend t' p s) :=
  h.twEvent (fun _ h1 => h1.mailSegment)

theorem Keeps.execSubmit {t' : Instant} {p : TwPort} (h : Keeps r s) : KeepsNext r (execSubmit t' p s) :=
  h.twEvent (fun _ h1 => h1.mailSegment)

theorem Keeps.execReplyNext {t' : Instant} {p : TwPort} (h : Keeps r s) : KeepsNext r (execReplyNext t' p s) :=
  h.twEvent (fun _ h1 => h1.mailNext)

theorem Keeps.addressed {p : TwPort} {read : Bool} (h : Keeps r s) : Keeps r (addressed p read s) := by
  unfold Machine.addressed
  exact .updTw (.ite h.wakeStow.updTw (.ite h.wakeSource h))

theorem Keeps.cutByte {p : TwPort} {midByte : Bool} (h : Keeps r s) : Keeps r (cutByte p midByte s) := h.updTw

theorem Keeps.holdTransfer {p : TwPort} (h : Keeps r s) : Keeps r (holdTransfer p s) := h.updTw

theorem Keeps.execTwStart {t' : Instant} {p : TwPort} {address : Byte} {edge : BusEdge} (h : Keeps r s) :
    KeepsNext r (execTwStart t' p address edge s) :=
  .ite h.setNow.next (.next (.ite h.setNow.cutByte.holdTransfer.addressed h.setNow.cutByte.holdTransfer.updTw))

theorem Keeps.execTwStop {t' : Instant} {p : TwPort} {edge : BusEdge} (h : Keeps r s) :
    KeepsNext r (execTwStop t' p edge s) := .ite h.setNow.next h.setNow.cutByte.updTw.next

theorem Keeps.execTwSclTimeout {t' : Instant} {p : TwPort} (h : Keeps r s) : KeepsNext r (execTwSclTimeout t' p s) :=
  .next (.ite h.setNow h.setNow.updTw)

theorem Keeps.openBus {p : TwPort} {read : Bool} (h : Keeps r s) : Keeps r (openBus p read s) := .ite h h.addressed

theorem Keeps.execTwWindowWrite {t' : Instant} {p : TwPort} {bytes : List Byte} (h : Keeps r s) :
    KeepsNext r (execTwWindowWrite t' p bytes s) := by
  unfold Machine.execTwWindowWrite
  extract_lets +onlyGivenNames s1
  have h1 : Keeps r s1 := h.setNow
  split
  · exact h1.next
  · extract_lets +onlyGivenNames x2
    extract_lets +onlyGivenNames s3
    have h3 : Keeps r s3 := h1.openBus
    extract_lets +onlyGivenNames x4 s5
    have h5 : Keeps r s5 := h3.updTw
    extract_lets +onlyGivenNames s6
    have h6 : Keeps r s6 := by
      unfold s6
      split
      · exact h3
      · exact .ite (h5.updTw.foldl (fun _ h1 _ => h1.writeByte)) (h5.foldl (fun _ h1 _ => h1.writeByte))
    exact .next (.ite h6.updTw h6)

theorem Keeps.execTwWindowRead {t' : Instant} {p : TwPort} {count : ℕ} (h : Keeps r s) :
    KeepsNext r (execTwWindowRead t' p count s) := by
  unfold Machine.execTwWindowRead
  extract_lets +onlyGivenNames s1
  have h1 : Keeps r s1 := h.setNow
  split
  · exact h1.next
  · extract_lets +onlyGivenNames x2
    extract_lets +onlyGivenNames s3
    have h3 : Keeps r s3 := h1.openBus
    exact .next (.ite ((show Keeps r (Machine.readWindow p count s3).2 from h3.readWindow).rest).updTw ((show Keeps r (Machine.readWindow p count s3).2 from h3.readWindow).rest))

theorem Keeps.execRtMirrorUpdate {t' : Instant} (h : Keeps r s) : KeepsNext r (execRtMirrorUpdate t' s) := by
  unfold Machine.execRtMirrorUpdate
  extract_lets +onlyGivenNames s1
  have h1 : Keeps r s1 := h.setNow
  exact .next (.ite h1 h1.rest)

theorem Keeps.clearRose {p : TwPort} (h : Keeps r s) : Keeps r (clearRose p s) := h.rest

theorem Keeps.ibrSend {p : TwPort} (h : Keeps r s) : Keeps r (ibrSend p s) := h.clearRose.updTw

theorem Keeps.execIbrIssue {t' : Instant} {p : TwPort} (h : Keeps r s) : KeepsNext r (execIbrIssue t' p s) :=
  h.twEvent (fun _ h1 => .ite h1.ibrSend h1)

theorem Keeps.execIbrRepeat {t' : Instant} {p : TwPort} (h : Keeps r s) : KeepsNext r (execIbrRepeat t' p s) := by
  refine h.twEvent fun u hu => ?_
  dsimp only
  split
  · exact .ite hu.ibrSend hu
  · exact hu

theorem Keeps.putBus {p : TwPort} {xs : List BusItem} (h : Keeps r s) : Keeps r (putBus p xs s) := h.rest

theorem Keeps.runPoll {p : TwPort} {answers : List (Option Byte)} (h : Keeps r s) : Keeps r (runPoll p answers s) :=
  .ite (h.foldl (fun _ h1 _ => h1.putBus)).updTw ((h.foldl (fun _ h1 _ => h1.putBus)).foldl (fun _ h1 _ => h1.raise))

theorem Keeps.execIbrRecognised {t' : Instant} {p : TwPort} {answers : List (Option Byte)} (h : Keeps r s) :
    KeepsNext r (execIbrRecognised t' p answers s) := h.twEvent (fun _ h1 => .ite h1 (.ite h1.updTw h1.runPoll))

theorem Keeps.latePoll {p : TwPort} (h : Keeps r s) : Keeps r (latePoll p s) := by
  unfold Machine.latePoll
  split
  · exact h.updTw.runPoll
  · exact h

theorem Keeps.twConfigBody {c : Cmd} (h : Keeps r s) : Keeps r (twConfigBody c s).state := by
  unfold Machine.twConfigBody
  extract_lets +onlyGivenNames x1 x2 x3 x4 x5
  exact h.judged (by
    split
    · exact h.cmdBad
    · exact .iteCmd h.cmdRefuse (.iteCmd h.cmdRefuse (.cmdOk (.updTw (.ite h h.clearRose)))))

theorem Keeps.execTwConfig {t' : Instant} (h : Keeps r s) : KeepsNext r (execTwConfig t' s) :=
  h.runCmd (fun _ _ h1 => h1.twConfigBody)

theorem Keeps.twTransferBody {c : Cmd} (h : Keeps r s) : Keeps r (twTransferBody c s).state :=
  h.judged (.iteCmd h.cmdBad (.iteCmd h.cmdBad (.iteCmd h.cmdBad (.iteCmd h.cmdRefuse h.updTw.cmdHeld))))

theorem Keeps.execTwTransfer {t' : Instant} (h : Keeps r s) : KeepsNext r (execTwTransfer t' s) :=
  h.runCmd (fun _ _ h1 => h1.twTransferBody)

theorem Keeps.raiseStuck {p : TwPort} {scl : Bool} (h : Keeps r s) : Keeps r (raiseStuck p scl s) := .ite h h.updTw.raise

theorem Keeps.endTransfer {p : TwPort} {r' : TwResult} {data : List Byte} (h : Keeps r s) :
    Keeps r (endTransfer p r' data s) :=
  .settleStow (.latePoll (.finishHeld (.ite h.updTw h.updTw.putBus) (fun _ _ h1 => h1.cmdOk)))

theorem Keeps.loseArbitration {p : TwPort} {x : TwTransfer} (h : Keeps r s) : Keeps r (loseArbitration p x s) :=
  .ite h.updTw.endTransfer h.updTw.updTw

theorem Keeps.execTwTransferEnd {t' : Instant} {p : TwPort} {result : TwResult} {data : List Byte} (h : Keeps r s) :
    KeepsNext r (execTwTransferEnd t' p result data s) := by
  unfold Machine.execTwTransferEnd
  exact h.twEvent (fun _ h1 => by
    split
    · exact h1
    · split
      · exact h1
      · split
        · exact h1.loseArbitration
        · exact h1.raiseStuck.endTransfer
        · exact h1.raiseStuck.endTransfer
        · exact .ite h1 h1.updTw.endTransfer)

theorem Keeps.execTwTransferRetry {t' : Instant} {p : TwPort} (h : Keeps r s) :
    KeepsNext r (execTwTransferRetry t' p s) := by
  unfold Machine.execTwTransferRetry
  exact h.twEvent (fun _ h1 => by
    split
    · exact .ite h1.updTw h1
    · exact h1)

theorem Keeps.execBusRecovery {t' : Instant} {p : TwPort} {pulses : ℕ} {freed : Bool} (h : Keeps r s) :
    KeepsNext r (execBusRecovery t' p pulses freed s) :=
  h.twEvent (fun _ h1 => .ite h1 (.ite (.updTw (.ite h1 h1.updTw)) (.ite (.endTransfer (.raiseStuck (.ite h1 h1.updTw))) (.raiseStuck (.ite h1 h1.updTw)))))

/-! #### Machine/Commands.lean -/

theorem Keeps.statsReadCmd {c : Cmd} (h : Keeps r s) : Keeps r (statsReadCmd c s).state := h.statsReadBody

theorem Keeps.execCaptureStop {t' : Instant} (h : Keeps r s) : KeepsNext r (execCaptureStop t' s) :=
  h.runCmd (fun _ _ h1 => h1.captureStopBody)

theorem Keeps.execCaptureConfig {t' : Instant} (h : Keeps r s) : KeepsNext r (execCaptureConfig t' s) :=
  h.runCmd (fun _ _ h1 => h1.captureConfigBody)

theorem Keeps.execCaptureStart {t' : Instant} (h : Keeps r s) : KeepsNext r (execCaptureStart t' s) :=
  h.runCmd (fun _ _ h1 => h1.captureStartBody)

theorem Keeps.execSetFrameParams {t' : Instant} (h : Keeps r s) : KeepsNext r (execSetFrameParams t' s) :=
  h.runCmd (fun _ _ h1 => h1.setFrameParamsBody)

theorem Keeps.execLoadTileMap {t' : Instant} (h : Keeps r s) : KeepsNext r (execLoadTileMap t' s) :=
  h.runCmd (fun _ _ h1 => h1.loadTileMapBody)

theorem Keeps.execSetTrigger {t' : Instant} (h : Keeps r s) : KeepsNext r (execSetTrigger t' s) :=
  h.runCmd (fun _ _ h1 => h1.setTriggerBody)

theorem Keeps.execHistoryFreeze {t' : Instant} (h : Keeps r s) : KeepsNext r (execHistoryFreeze t' s) :=
  h.runCmd (fun _ _ h1 => h1.historyFreezeBody)

theorem Keeps.execHistoryRead {t' : Instant} (h : Keeps r s) : KeepsNext r (execHistoryRead t' s) :=
  h.runCmd (fun _ _ h1 => h1.historyReadBody)

theorem Keeps.execPipeConfig {t' : Instant} (h : Keeps r s) : KeepsNext r (execPipeConfig t' s) :=
  h.runCmd (fun _ _ h1 => h1.pipeConfigBody)

theorem Keeps.execSetPipeParams {t' : Instant} (h : Keeps r s) : KeepsNext r (execSetPipeParams t' s) :=
  h.runCmd (fun _ _ h1 => h1.setPipeParamsBody)

theorem Keeps.execSetInputs {t' : Instant} (h : Keeps r s) : KeepsNext r (execSetInputs t' s) :=
  h.runCmd (fun _ _ h1 => h1.setInputsBody)

theorem Keeps.execStatsConfig {t' : Instant} (h : Keeps r s) : KeepsNext r (execStatsConfig t' s) :=
  h.runCmd (fun _ _ h1 => h1.statsConfigBody)

theorem Keeps.execStatsRead {t' : Instant} (h : Keeps r s) : KeepsNext r (execStatsRead t' s) :=
  h.runCmd (fun _ _ h1 => h1.statsReadCmd)

theorem Keeps.execStreamConfig {t' : Instant} (h : Keeps r s) : KeepsNext r (execStreamConfig t' s) :=
  h.runCmd (fun _ _ h1 => h1.streamConfigBody)

theorem Keeps.execStreamEnable {t' : Instant} (h : Keeps r s) : KeepsNext r (execStreamEnable t' s) :=
  h.runCmd (fun _ _ h1 => h1.streamEnableBody)

theorem Keeps.execSetStreamParams {t' : Instant} (h : Keeps r s) : KeepsNext r (execSetStreamParams t' s) :=
  h.runCmd (fun _ _ h1 => h1.setStreamParamsBody)

theorem Keeps.execKernelLoad {t' : Instant} (h : Keeps r s) : KeepsNext r (execKernelLoad t' s) :=
  h.runCmd (fun _ _ h1 => h1.kernelLoadBody)

theorem Keeps.execBobbinAlloc {t' : Instant} (h : Keeps r s) : KeepsNext r (execBobbinAlloc t' s) :=
  h.runCmd (fun _ _ h1 => h1.bobbinAllocBody)

theorem Keeps.execKernelStart {t' : Instant} (h : Keeps r s) : KeepsNext r (execKernelStart t' s) :=
  h.runCmd (fun _ _ h1 => h1.kernelStartBody)

theorem Keeps.execKernelStop {t' : Instant} (h : Keeps r s) : KeepsNext r (execKernelStop t' s) :=
  h.runCmd (fun _ _ h1 => h1.kernelStopBody)

theorem Keeps.execKernelStatus {t' : Instant} (h : Keeps r s) : KeepsNext r (execKernelStatus t' s) :=
  h.runCmd (fun _ _ h1 => h1.kernelStatusBody)

theorem Keeps.execTrunkConfig {t' : Instant} (h : Keeps r s) : KeepsNext r (execTrunkConfig t' s) :=
  h.runCmd (fun _ _ h1 => h1.trunkConfigBody)

theorem Keeps.execTrunkStatus {t' : Instant} (h : Keeps r s) : KeepsNext r (execTrunkStatus t' s) :=
  h.runCmd (fun _ _ h1 => h1.trunkStatusBody)

theorem Keeps.execLaneDiag {t' : Instant} (h : Keeps r s) : KeepsNext r (execLaneDiag t' s) :=
  h.runCmd (fun _ _ h1 => h1.laneDiagBody)

/-- The body of every row of the command table. -/
theorem Keeps.bodyOf {op : Nat} {f : Cmd → State → CmdResult} (h : Keeps r s) (e : bodyOf op = some f) (c : Cmd) :
    Keeps r (f c s).state := by
  unfold Machine.bodyOf at e
  split at e
  all_goals obtain ⟨⟩ := e
  · exact h.identifyBody
  · exact h.negotiateBody
  · exact h.getStatusBody
  · exact h.getEventsBody
  · exact h.captureStopBody
  · exact h.captureConfigBody
  · exact h.captureStartBody
  · exact h.setFrameParamsBody
  · exact h.loadTileMapBody
  · exact h.setTriggerBody
  · exact h.historyFreezeBody
  · exact h.historyReadBody
  · exact h.pipeConfigBody
  · exact h.setPipeParamsBody
  · exact h.loadCalBody
  · exact h.setInputsBody
  · exact h.statsConfigBody
  · exact h.statsReadCmd
  · exact h.streamConfigBody
  · exact h.streamEnableBody
  · exact h.streamDisableBody
  · exact h.setStreamParamsBody
  · exact h.kernelLoadBody
  · exact h.kernelStartBody
  · exact h.kernelStopBody
  · exact h.kernelStatusBody
  · exact h.bobbinAllocBody
  · exact h.trunkStatusBody
  · exact h.trunkConfigBody
  · exact h.ringMapBody
  · exact h.portAssignBody
  · exact h.timeSyncBody
  · exact h.laneDiagBody
  · exact h.nvmReadBody
  · exact h.dumpReadBody
  · exact h.twConfigBody
  · exact h.twTransferBody
  · exact h.timerConfigBody
  · exact h.timerGoBody
  · exact h.timerReadBody
  · exact h.mcvConfigBody
  · exact h.mcvReadBody
  · exact h.mcvCalibrateBody
  · exact h.setClocksBody
  · exact h.trimRootBody
  · exact h.clockStatusBody
  · exact h.setPowerBudgetBody
  · exact h.thermalConfigBody
  · exact h.getTemperaturesBody
  · exact h.watchdogConfigBody
  · exact h.peekBody
  · exact h.pokeBody
  · exact h.selftestBody
  · exact h.injectPatternBody

/-- The packet and the table's row are named before the cases: the kernel would else evaluate the packet's opcode. -/
theorem Keeps.profileCommand {bs : List Byte} (h : Keeps r s) : Keeps r (profileCommand s bs) := by
  suffices hF : ∀ F, F = Machine.profileCommand → Keeps r (F s bs) from hF _ rfl
  intro F hF
  delta Machine.profileCommand at hF
  subst hF
  obtain ⟨p, hp⟩ : ∃ p, p = Machine.profilePacket bs s := ⟨_, rfl⟩
  beta_reduce
  rw [← hp]
  extract_lets +onlyGivenNames q bad good
  obtain ⟨f, hf⟩ : ∃ f, f = Machine.bodyOf (Machine.pktOp q) := ⟨_, rfl⟩
  rw [← hf]
  cases f with
  | none => exact h.rest
  | some f =>
    have hf := h.bodyOf hf.symm { Machine.cmdOf p with ver := 2 }
    refine .ite h.rest (.ite hf.rest ?_)
    exact Keeps.rest (s := if _ then _ else _) (.ite hf h)

theorem Keeps.execProfileExecute {t' : Instant} (h : Keeps r s) : KeepsNext r (execProfileExecute t' s) := by
  unfold Machine.execProfileExecute
  extract_lets s1 s2
  have h1 : Keeps r s1 := h.setNow
  have h2 : Keeps r s2 := h1.foldl fun _ hu _ => hu.profileCommand
  exact .ite h1.next h2.firmwareReady.next

/-! #### Machine/Readout.lean -/

theorem Keeps.raiseDriver {n : ℕ} (h : Keeps r s) : Keeps r (raiseDriver n s) := .ite h.rest h.rest.raise

theorem Keeps.beginSubFrame {f : FrameRec} {driver : List ℕ} (h : Keeps r s) : Keeps r (beginSubFrame f driver s) := by
  unfold Machine.beginSubFrame
  extract_lets +onlyGivenNames x1 x2 x3 x4 x5 x6 s7
  have h7 : Keeps r s7 := h.rest
  extract_lets +onlyGivenNames s8
  have h8 : Keeps r s8 := .ite h7.updAccFrame h7
  exact .foldl (.ite (.reserveSlot (.ite h8.updAccFrame h8)) (.ite h8.updAccFrame h8)) (fun _ h1 _ => h1.raiseDriver)

theorem Keeps.execSubFrameBoundary {t' : Instant} {driverFaults : List ConvTile} (h : Keeps r s) :
    KeepsNext r (execSubFrameBoundary t' driverFaults s) := by
  unfold Machine.execSubFrameBoundary
  extract_lets +onlyGivenNames s1
  have h1 : Keeps r s1 := h.setNow
  split
  · exact .ite h1.beginSubFrame.next h1.next
  · exact h1.next

theorem Keeps.execConversionSlot {t' : Instant} {tile : ConvTile} {block : Fin 64} {slot : Fin 64} {charge : ℕ} {hcg : ℤ} {lcg : ℤ} {rampFault : Bool} (h : Keeps r s) :
    KeepsNext r (execConversionSlot t' tile block slot charge hcg lcg rampFault s) := by
  unfold Machine.execConversionSlot
  extract_lets +onlyGivenNames s1
  have h1 : Keeps r s1 := h.setNow
  split
  · extract_lets +onlyGivenNames x2
    extract_lets +onlyGivenNames x3 x4 x5
    split
    · extract_lets +onlyGivenNames x6
      extract_lets +onlyGivenNames x7 s8
      have h8 : Keeps r s8 := h1.rest
      extract_lets +onlyGivenNames x9 s10
      have h10 : Keeps r s10 := .ite (.ite h8 h8.rest.raise) h1
      exact h10.rest.next
    · exact h1.next
  · exact h1.next

theorem Keeps.takeSample {f : FrameRec} {r' : ReadoutRun} {t' : ℕ} {block : ℕ} {slot : ℕ} {w : ℕ} {ok : Bool} (h : Keeps r s) :
    Keeps r (takeSample f r' t' block slot w ok s) := .ite (.ite h.rest h.rest.useSample) h.useSample

theorem Keeps.bondError {f : FrameRec} {tileNo : ℕ} {block : ℕ} {conv : ℕ} (h : Keeps r s) :
    Keeps r (bondError f tileNo block conv s) := .ite h.rest (.ite h.rest h.rest.raise)

theorem Keeps.execSampleArrival {t' : Instant} {tile : ConvTile} {block : Fin 64} {flip : BitVec 20} (h : Keeps r s) :
    KeepsNext r (execSampleArrival t' tile block flip s) := by
  unfold Machine.execSampleArrival
  extract_lets +onlyGivenNames s1
  have h1 : Keeps r s1 := h.setNow
  extract_lets +onlyGivenNames x2
  split
  · extract_lets +onlyGivenNames x3
    extract_lets +onlyGivenNames x4 s5
    have h5 : Keeps r s5 := h1.rest
    extract_lets +onlyGivenNames x6 x7 s8
    have h8 : Keeps r s8 := .ite h5 h5.bondError
    extract_lets +onlyGivenNames x9
    split
    · exact h8.next
    · split
      · exact .next (.takeSample (.ite h5 h5.bondError))
      · exact .ite (.next (.updAccFrame (.ite h5 h5.bondError))) (.next (.ite h5 h5.bondError))
  · exact h1.next

theorem Keeps.writeThumb {f : FrameRec} {g j : Nat} (h : Keeps r s) : Keeps r (writeThumb f g j s) :=
  Keeps.foldl ⟨h.pending, fun hr => smWf_smClear _ _ (h.dram hr), h.pillows, h.bobbins, h.cells⟩ fun _ hu _ =>
    (hu.foldl fun _ hv _ => hv.dramWrite).dramWrite

theorem Keeps.addFlicker {f : FrameRec} {g : Nat} (h : Keeps r s) : Keeps r (addFlicker f g s) := by
  unfold Machine.addFlicker
  split
  next mu s1 heq =>
  have h1 : Keeps r s1 := Keeps.ofSnd (.iteSnd (x := ((Machine.takeFree s).1.toInt, _)) h.takeFree h) heq
  exact h1.rest

theorem Keeps.countArrived {f : FrameRec} {last : Bool} (h : Keeps r s) : Keeps r (countArrived f last s) := by
  unfold Machine.countArrived
  extract_lets +onlyGivenNames s1
  have h1 : Keeps r s1 := h.updAccFrame
  split
  · exact h1
  · exact .ite h1.writeDescs.updAccFrame h1.writeDescs

theorem Keeps.endReadout {r' : ReadoutRun} (h : Keeps r s) : Keeps r (endReadout r' s) := by
  unfold Machine.endReadout
  extract_lets +onlyGivenNames x1 x2 x3 s4
  have h4 : Keeps r s4 := h.rest
  extract_lets +onlyGivenNames s5
  have h5 : Keeps r s5 := h4.addFlicker.updAccFrame
  extract_lets +onlyGivenNames s6
  have h6 : Keeps r s6 := by
    unfold s6
    split
    · exact h4
    · exact .ite (.updJob (.ite h5.writeThumb h5)) h5.countArrived
  extract_lets +onlyGivenNames s7
  have h7 : Keeps r s7 := by
    unfold s7
    split
    · exact .ite h6.releaseFinished h6
    · exact h6
  exact h7.settleStop

theorem Keeps.execReadoutEnd {t' : Instant} (h : Keeps r s) : KeepsNext r (execReadoutEnd t' s) := by
  unfold Machine.execReadoutEnd
  extract_lets +onlyGivenNames s1
  have h1 : Keeps r s1 := h.setNow
  split
  · exact .ite h1.endReadout.next h1.next
  · exact h1.next

theorem Keeps.execSelfRefreshEntry {t' : Instant} (h : Keeps r s) : KeepsNext r (execSelfRefreshEntry t' s) := by
  unfold Machine.execSelfRefreshEntry
  extract_lets +onlyGivenNames s1
  have h1 : Keeps r s1 := h.setNow
  exact .ite h1.rest.next h1.next

/-! #### Machine/Motion.lean -/

theorem Keeps.copyThumb {g : Nat} (h : Keeps r s) : Keeps r (copyThumb g s).2 :=
  ⟨h.pending, fun hr => smWf_copyRange _ _ _ (h.dram hr), h.pillows, h.bobbins, h.cells⟩

theorem Keeps.writeVectorTable {g : Nat} {rs : List (Nat × BitVec 16)} (h : Keeps r s) : Keeps r (writeVectorTable g rs s) := by
  refine h.putPillow fun m hm => ?_
  induction rs generalizing m with
  | nil => exact hm
  | cons x rs ih => exact ih _ (memSetNat_wf _ _ _ hm)

theorem Keeps.motionSubframe {f : FrameRec} {x : SubJob} (h : Keeps r s) : Keeps r (motionSubframe f x s) := by
  unfold Machine.motionSubframe
  extract_lets +onlyGivenNames x1 x2 s3
  have h3 : Keeps r s3 := (h.foldl (fun _ h1 _ => h1.countCommonUe)).correctRead
  extract_lets +onlyGivenNames x4 x5 s6
  have h6 : Keeps r s6 := by
    unfold s6
    split
    · exact (show Keeps r (Machine.copyThumb x.g s3).2 from h3.copyThumb).rest
    · exact h3
  exact .updJob (.writeVectorTable (.ite h6.countVersion h6))

theorem Keeps.execMotionSubframeStart {t' : Instant} {ecc : List EccHit} (h : Keeps r s) :
    KeepsNext r (execMotionSubframeStart t' ecc s) := by
  unfold Machine.execMotionSubframeStart
  extract_lets +onlyGivenNames s1
  have h1 : Keeps r s1 := h.setNow
  split
  · split
    · exact .ite h1.markEcc.motionSubframe.next h1.next
    · exact h1.next
  · exact h1.next

/-! #### Machine/RingHop.lean -/

theorem Keeps.nextOf {a : Result} (h : Keeps r s) (ha : KeepsNext r a) : Keeps r (nextOf a s) := by
  obtain ⟨u, rfl, hu⟩ := ha
  exact hu

theorem Keeps.takeMgmt {p : Port} {x : RawSlot} (h : Keeps r s) : Keeps r (takeMgmt p x s) := by
  unfold Machine.takeMgmt
  extract_lets +onlyGivenNames x1 x2
  have h2 : Keeps r x2.2 := h.takeFree
  extract_lets +onlyGivenNames x3 x4
  exact .ite (h.nextOf h.execDiscover) (.ite (h.nextOf h2.execProbe) (.ite (h.nextOf h2.execClaimed) (.ite (h.nextOf h.execAssign) (.ite (h.nextOf h.execTopology) (.ite (h.nextOf h.execRotor) (.ite (h.nextOf h.execWrap) (.ite (h.nextOf h.execClaim) (.ite (h.nextOf h.execPortHeld) (.ite (h.nextOf h.execDelayReq) (.ite (h.nextOf h.execDelayResp) h))))))))))

theorem Keeps.packetIn {a : Assembling} (h : Keeps r s) : Keeps r (packetIn a s) := .ite h.trunkReset h.arrivePacket

theorem Keeps.assemble {a : Assembling} (h : Keeps r s) : Keeps r (assemble a s) := .ite h.packetIn h.rest

theorem Keeps.takeCommand {p : Port} {x : RawSlot} (h : Keeps r s) : Keeps r (takeCommand p x s) := by
  unfold Machine.takeCommand
  dsimp only
  refine .ite h.rest.assemble ?_
  split
  · exact h.rest.assemble
  · exact h

theorem Keeps.takeStreamPacket {node : BitVec 7} {port : BitVec 9} {pkt : List Word} (h : Keeps r s) :
    Keeps r (takeStreamPacket node port pkt s) :=
  .ite (h.nextOf h.execIngressHeader) (.ite (h.nextOf h.execIngressLine) (.ite (h.nextOf h.execIngressSidecar) (.ite (h.nextOf h.execIngressTrailer) (.ite (h.nextOf h.execIngressRetract) h))))

theorem Keeps.takeStream {x : RawSlot} (h : Keeps r s) : Keeps r (takeStream x s) := by
  unfold Machine.takeStream
  dsimp only
  refine .ite h ?_
  split
  · exact h
  · exact .ite h.rest.takeStreamPacket h.rest

theorem Keeps.orphan (h : Keeps r s) : Keeps r (orphan s) := h.rest

theorem Keeps.takeOwn {p : Port} {x : RawSlot} (h : Keeps r s) : Keeps r (takeOwn p x s) :=
  .ite h.takeStream (.ite h.takeCommand (.ite h.takeMgmt h.orphan))

theorem Keeps.forwardSlot {p : Port} {stomp : Bool} {x : RawSlot} (h : Keeps r s) : Keeps r (forwardSlot p stomp x s) :=
  .ite h h.updPort

theorem Keeps.takeContent {p : Port} {x : RawSlot} (h : Keeps r s) : Keeps r (takeContent p x s) := by
  unfold Machine.takeContent
  split
  · exact h
  · split
    · exact h.takeMgmt
    · exact h.takeOwn
    · exact .ite h.takeMgmt h
    · exact h.orphan
    · extract_lets +onlyGivenNames s1
      have h1 : Keeps r s1 := h.forwardSlot
      exact .ite (.ite h1.takeStream h1) (.ite h1 (.ite (.ite h1.takeCommand h1) (.ite (h1.nextOf h1.execTime) (.ite h1.takeMgmt h1))))

theorem Keeps.stompForward {p : Port} {x : RawSlot} (h : Keeps r s) : Keeps r (stompForward p x s) := .ite h.forwardSlot h

theorem Keeps.countHeaders {p : Port} {bad : List ℕ} (h : Keeps r s) : Keeps r (countHeaders p bad s) := h.updPort

theorem Keeps.loseBadLanes {p : Port} (h : Keeps r s) : Keeps r (loseBadLanes p s) :=
  h.foldl (fun _ h1 _ => .ite h1.loseLane h1)

theorem Keeps.takeRx {p : Port} {r' : RxSlot} (h : Keeps r s) : Keeps r (takeRx p r' s) := by
  unfold Machine.takeRx
  extract_lets +onlyGivenNames s1
  have h1 : Keeps r s1 := h.countHeaders
  extract_lets +onlyGivenNames x2 s3
  have h3 : Keeps r s3 := h1.updPort
  extract_lets +onlyGivenNames x4 x5 x6
  exact .loseBadLanes (by
    split
    · rename_i heq
      exact (h3.takeSlot.ofSnd heq).takeContent
    · rename_i heq
      exact (h3.takeSlot.ofSnd heq).stompForward
    · rename_i heq
      exact .ite (h3.takeSlot.ofSnd heq).stompForward (h3.takeSlot.ofSnd heq))

theorem Keeps.echoBlocks {p : Port} {rx : List RxBlock} (h : Keeps r s) : Keeps r (echoBlocks p rx s) := h.rest

theorem Keeps.execHopSlotReceive {t' : Instant} {p : Port} {rx : List RxBlock} {before : List (BitVec 58)} {dealt : Fin 4} (h : Keeps r s) :
    KeepsNext r (execHopSlotReceive t' p rx before dealt s) := by
  unfold Machine.execHopSlotReceive
  extract_lets +onlyGivenNames s1
  have h1 : Keeps r s1 := h.setNow
  exact .next (.ite h1 (by
    split
    · exact h1.takeRx
    · exact h1.echoBlocks
    · exact h1))

/-! #### Machine/Tap.lean -/

theorem Keeps.captureDr (h : Keeps r s) : Keeps r (captureDr s) := .ite h.takeFree.takeFree.rest (.ite h.rest h.rest)

theorem Keeps.captureIr (h : Keeps r s) : Keeps r (captureIr s) := h.takeFree.rest

theorem Keeps.setIr {i : TapInstr} (h : Keeps r s) : Keeps r (setIr i s) := .ite h.rest.pinsBack h.rest

theorem Keeps.tapReset (h : Keeps r s) : Keeps r (tapReset s) := h.rest.setIr

theorem Keeps.tapRise {tms : Bool} {tdi : Bool} (h : Keeps r s) : Keeps r (tapRise tms tdi s) := by
  unfold Machine.tapRise
  extract_lets +onlyGivenNames x1 s2
  have h2 : Keeps r s2 := by
    unfold s2
    split
    · exact h.captureDr
    · exact h.captureIr
    · exact h.rest
    · exact h.rest
    · exact h
  exact .ite h2.tapReset h2.rest

theorem Keeps.tapFall (h : Keeps r s) : Keeps r (tapFall s) := by
  unfold Machine.tapFall
  extract_lets +onlyGivenNames x1
  split
  · exact h.rest
  · exact h.rest
  · exact h.rest
  · exact h.rest.setIr
  · exact h.rest

theorem Keeps.seeTrst {low : Bool} (h : Keeps r s) : Keeps r (seeTrst low s) := .ite h.rest.tapReset h.rest

theorem Keeps.execTckEdge {t' : Instant} {edge : TckEdge} {tms : Bool} {tdi : Bool} (h : Keeps r s) :
    KeepsNext r (execTckEdge t' edge tms tdi s) :=
  .ite h.setNow.next (.next (.ite h.setNow.seeTrst (.ite h.setNow.seeTrst.tapRise h.setNow.seeTrst.tapFall)))

theorem Keeps.execTrstNLow {t' : Instant} (h : Keeps r s) : KeepsNext r (execTrstNLow t' s) := h.setNow.seeTrst.next

/-! ### Every command, and a step -/

/-- Every command goes on, with the queue and the canonical form of each memory as it found them. -/
theorem Keeps.exec (i : Instr) (h : Keeps r s) : KeepsNext r (exec i s) := by
  cases i
  case commandArrival => exact h.execCommandArrival
  case cmdPacketTimeout => exact h.execCmdPacketTimeout
  case profileExecute => exact h.execProfileExecute
  case identify => exact h.execIdentify
  case negotiate => exact h.execNegotiate
  case getStatus => exact h.execGetStatus
  case getEvents => exact h.execGetEvents
  case reset => exact h.execReset
  case trunkResetPacket => exact h.execTrunkResetPacket
  case softResetAssert => exact h.execSoftResetAssert
  case captureStop => exact h.execCaptureStop
  case captureConfig => exact h.execCaptureConfig
  case captureStart => exact h.execCaptureStart
  case setFrameParams => exact h.execSetFrameParams
  case loadTileMap => exact h.execLoadTileMap
  case setTrigger => exact h.execSetTrigger
  case historyFreeze => exact h.execHistoryFreeze
  case historyRead => exact h.execHistoryRead
  case pipeConfig => exact h.execPipeConfig
  case setPipeParams => exact h.execSetPipeParams
  case loadCalTable => exact h.execLoadCalTable
  case setInputs => exact h.execSetInputs
  case statsConfig => exact h.execStatsConfig
  case statsRead => exact h.execStatsRead
  case streamConfig => exact h.execStreamConfig
  case streamEnable => exact h.execStreamEnable
  case streamDisable => exact h.execStreamDisable
  case setStreamParams => exact h.execSetStreamParams
  case kernelLoad => exact h.execKernelLoad
  case bobbinAlloc => exact h.execBobbinAlloc
  case kernelStart => exact h.execKernelStart
  case kernelStop => exact h.execKernelStop
  case kernelStatus => exact h.execKernelStatus
  case trunkConfig => exact h.execTrunkConfig
  case trunkStatus => exact h.execTrunkStatus
  case ringMap => exact h.execRingMap
  case portAssign => exact h.execPortAssign
  case timeSync => exact h.execTimeSync
  case laneDiag => exact h.execLaneDiag
  case nvmRead => exact h.execNvmRead
  case nvmWrite => exact h.execNvmWrite
  case fwUpdateBegin => exact h.execFwUpdateBegin
  case fwUpdateData => exact h.execFwUpdateData
  case fwUpdateCommit => exact h.execFwUpdateCommit
  case dumpRead => exact h.execDumpRead
  case dumpClear => exact h.execDumpClear
  case twConfig => exact h.execTwConfig
  case twTransfer => exact h.execTwTransfer
  case timerConfig => exact h.execTimerConfig
  case timerGo => exact h.execTimerGo
  case timerRead => exact h.execTimerRead
  case mcvConfig => exact h.execMcvConfig
  case mcvRead => exact h.execMcvRead
  case mcvCalibrate => exact h.execMcvCalibrate
  case setClocks => exact h.execSetClocks
  case trimRoot => exact h.execTrimRoot
  case clockStatus => exact h.execClockStatus
  case setPowerState => exact h.execSetPowerState
  case setPowerBudget => exact h.execSetPowerBudget
  case thermalConfig => exact h.execThermalConfig
  case getTemperatures => exact h.execGetTemperatures
  case watchdogConfig => exact h.execWatchdogConfig
  case peek => exact h.execPeek
  case poke => exact h.execPoke
  case selftest => exact h.execSelftest
  case selftestComplete => exact h.execSelftestComplete
  case injectPattern => exact h.execInjectPattern
  case abort => exact h.execAbort
  case append => exact h.execAppend
  case submit => exact h.execSubmit
  case replyNext => exact h.execReplyNext
  case twWindowWrite => exact h.execTwWindowWrite
  case wdtKeyWrite => exact h.execWdtKeyWrite
  case subExposureStart => exact h.execSubExposureStart
  case earlyTransfer => exact h.execEarlyTransfer
  case frameBoundary => exact h.execFrameBoundary
  case subFrameBoundary => exact h.execSubFrameBoundary
  case subFrameTick => exact h.execSubFrameTick
  case exposureOutputAssert => exact h.execExposureOutputAssert
  case exposureOutputRelease => exact h.execExposureOutputRelease
  case conversionSlot => exact h.execConversionSlot
  case sampleArrival => exact h.execSampleArrival
  case readoutEnd => exact h.execReadoutEnd
  case trgEdge => exact h.execTrgEdge
  case ringTimeGridPoint => exact h.execRingTimeGridPoint
  case ringTimeFreeze => exact h.execRingTimeFreeze
  case flickerPeriodUpdate => exact h.execFlickerPeriodUpdate
  case aeResult => exact h.execAeResult
  case motionSubframeStart => exact h.execMotionSubframeStart
  case tileAccumulationStart => exact h.execTileAccumulationStart
  case vectorDeadline => exact h.execVectorDeadline
  case accumulationWindowEnd => exact h.execAccumulationWindowEnd
  case basteDecision => exact h.execBasteDecision
  case haloAckTimeout => exact h.execHaloAckTimeout
  case scrubAccess => exact h.execScrubAccess
  case selfRefreshEntry => exact h.execSelfRefreshEntry
  case frontBandSelect => exact h.execFrontBandSelect
  case frontBeginVersion => exact h.execFrontBeginVersion
  case frontEndVersion => exact h.execFrontEndVersion
  case ingressHeader => exact h.execIngressHeader
  case ingressLine => exact h.execIngressLine
  case ingressSidecar => exact h.execIngressSidecar
  case ingressTrailer => exact h.execIngressTrailer
  case ingressDeadline => exact h.execIngressDeadline
  case ingressRetract t' node port pkt => exact Keeps.execIngressRetract (t' := t') (_node := node) (_port := port) (_pkt := pkt) h
  case channelVersionArrival => exact h.execChannelVersionArrival
  case backEndVersion => exact h.execBackEndVersion
  case ltmGridPublish => exact h.execLtmGridPublish
  case raw20BeginFrame => exact h.execRaw20BeginFrame
  case streamFrameArrival => exact h.execStreamFrameArrival
  case streamTrailerWrite => exact h.execStreamTrailerWrite
  case streamPacketDrain => exact h.execStreamPacketDrain
  case streamFrameSent => exact h.execStreamFrameSent
  case vop => exact h.execVop
  case vops => exact h.execVops
  case vimm => exact h.execVimm
  case sop => exact h.execSop
  case saddi => exact h.execSaddi
  case slui => exact h.execSlui
  case sori => exact h.execSori
  case bcc => exact h.execBcc
  case jmp => exact h.execJmp
  case loop => exact h.execLoop
  case nop => exact h.execNop
  case halt => exact h.execHalt
  case publish => exact h.execPublish
  case fence => exact h.execFence
  case cycles => exact h.execCycles
  case vmul => exact h.execVmul
  case vmuls => exact h.execVmuls
  case arnd => exact h.execArnd
  case aset => exact h.execAset
  case vcmp => exact h.execVcmp
  case vcmps => exact h.execVcmps
  case vsel => exact h.execVsel
  case plog => exact h.execPlog
  case pxfer => exact h.execPxfer
  case vshift => exact h.execVshift
  case vshuf => exact h.execVshuf
  case vred => exact h.execVred
  case vld => exact h.execVld
  case vst => exact h.execVst
  case vlda => exact h.execVlda
  case vsta => exact h.execVsta
  case agset => exact h.execAgset
  case sld => exact h.execSld
  case sst => exact h.execSst
  case xfer => exact h.execXfer
  case xferComplete => exact h.execXferComplete
  case xwait => exact h.execXwait
  case spop => exact h.execSpop
  case spush => exact h.execSpush
  case queueWaitRelease => exact h.execQueueWaitRelease
  case smeta => exact h.execSmeta
  case bar => exact h.execBar
  case barrierRelease => exact h.execBarrierRelease
  case sem => exact h.execSem
  case semWaitRelease => exact h.execSemWaitRelease
  case atom => exact h.execAtom
  case kernelHangTimeout => exact h.execKernelHangTimeout
  case grantPeriod => exact h.execGrantPeriod
  case signalDetect => exact h.execSignalDetect
  case bringupStageComplete => exact h.execBringupStageComplete
  case bringupStageTimeout => exact h.execBringupStageTimeout
  case bringupBackoffEnd => exact h.execBringupBackoffEnd
  case rateSwitchIdleEnd => exact h.execRateSwitchIdleEnd
  case filler => exact h.execFiller
  case laneMark => exact h.execLaneMark
  case caps => exact h.execCaps
  case width => exact h.execWidth
  case ack => exact h.execAck
  case nak => exact h.execNak
  case doze => exact h.execDoze
  case hopSlotReceive => exact h.execHopSlotReceive
  case slotPositionSend => exact h.execSlotPositionSend
  case replayTimeout => exact h.execReplayTimeout
  case laneLoss => exact h.execLaneLoss
  case shedTimeout => exact h.execShedTimeout
  case fomMeasure => exact h.execFomMeasure
  case widthRestore => exact h.execWidthRestore
  case dozeEntry => exact h.execDozeEntry
  case dozeWake => exact h.execDozeWake
  case wakeLockTimeout => exact h.execWakeLockTimeout
  case discover => exact h.execDiscover
  case probe => exact h.execProbe
  case claimed => exact h.execClaimed
  case joinBackoffEnd => exact h.execJoinBackoffEnd
  case joinRetry => exact h.execJoinRetry
  case assign => exact h.execAssign
  case topology => exact h.execTopology
  case rotor => exact h.execRotor
  case wrap => exact h.execWrap
  case claim => exact h.execClaim
  case portHeld => exact h.execPortHeld
  case claimTimeout => exact h.execClaimTimeout
  case delayReq => exact h.execDelayReq
  case delayResp => exact h.execDelayResp
  case hopDelayMeasure => exact h.execHopDelayMeasure
  case time => exact h.execTime
  case timeRingATimeout => exact h.execTimeRingATimeout
  case timeHoldover => exact h.execTimeHoldover
  case ownerLost => exact h.execOwnerLost
  case selfRotation => exact h.execSelfRotation
  case eventSend => exact h.execEventSend
  case referenceLoss => exact h.execReferenceLoss
  case pllLockLoss => exact h.execPllLockLoss
  case clockMonitorWindow => exact h.execClockMonitorWindow
  case lockAttemptStart => exact h.execLockAttemptStart
  case lockAttemptTimeout => exact h.execLockAttemptTimeout
  case pllLockDeclared => exact h.execPllLockDeclared
  case trimStep => exact h.execTrimStep
  case refclk0Measure => exact h.execRefclk0Measure
  case sensorSample => exact h.execSensorSample
  case hardTrip => exact h.execHardTrip
  case stowWake => exact h.execStowWake
  case powerOn => exact h.execPowerOn
  case resetN => exact h.execResetN
  case brownOut => exact h.execBrownOut
  case optionLoadingEnd => exact h.execOptionLoadingEnd
  case domainRelease => exact h.execDomainRelease
  case legacyGapEnd => exact h.execLegacyGapEnd
  case bootLoaderStart => exact h.execBootLoaderStart
  case serviceDue => exact h.execServiceDue
  case watchdogExpiry => exact h.execWatchdogExpiry
  case hardTimerExpiry => exact h.execHardTimerExpiry
  case fatalError => exact h.execFatalError
  case dumpComplete => exact h.execDumpComplete
  case pageWriteComplete => exact h.execPageWriteComplete
  case twStart => exact h.execTwStart
  case twStop => exact h.execTwStop
  case twSclTimeout => exact h.execTwSclTimeout
  case ibrIssue => exact h.execIbrIssue
  case ibrRepeat => exact h.execIbrRepeat
  case ibrRecognised => exact h.execIbrRecognised
  case twTransferRetry => exact h.execTwTransferRetry
  case busRecovery => exact h.execBusRecovery
  case rtMirrorUpdate => exact h.execRtMirrorUpdate
  case timerTick => exact h.execTimerTick
  case timerSync => exact h.execTimerSync
  case timerCapture => exact h.execTimerCapture
  case mcvSlotStart => exact h.execMcvSlotStart
  case mcvConversionComplete => exact h.execMcvConversionComplete
  case refSettled => exact h.execRefSettled
  case eyeScanComplete => exact h.execEyeScanComplete
  case pgoodRise => exact h.execPgoodRise
  case resetNRelease => exact h.execResetNRelease
  case vddaonLoss => exact h.execVddaonLoss
  case twWindowRead => exact h.execTwWindowRead
  case twTransferEnd => exact h.execTwTransferEnd
  case tckEdge => exact h.execTckEdge
  case trstNLow => exact h.execTrstNLow

/-- Every step goes on, to a state that keeps what the step found but the front of the queue. -/
theorem keepsNext_step (s : State) : KeepsNext { s with pending := s.pending.tail } (step s) := by
  cases hp : s.pending with
  | nil =>
    rw [step_of_empty hp]
    exact Keeps.next (.rest (.refl _) hp)
  | cons c rest =>
    rw [step_of_cons hp]
    exact Keeps.exec c (.refl _)

/-- What a step that goes on keeps. -/
theorem keeps_of_step (h : step s = .next t) : Keeps { s with pending := s.pending.tail } t := by
  obtain ⟨u, hu, hk⟩ := keepsNext_step s
  rw [hu] at h
  obtain ⟨⟩ := h
  exact hk

/-- Settles O15: each command has a meaning that goes on. -/
theorem everyStepGoesOn : Obligations.EveryStepGoesOn := fun s =>
  have ⟨u, hu, _⟩ := keepsNext_step s
  ⟨u, hu⟩

/-- Settles O16: each command keeps the queue that it finds, which is the queue without its front. -/
theorem stepConsumesOnlyTheFrontCommand : Obligations.StepConsumesOnlyTheFrontCommand :=
  fun _ _ h => (keeps_of_step h).pending

/-- Settles O17: each command keeps the canonical form of the four kinds of memory. -/
theorem memoryWaferStaysCanonical : Obligations.MemoryWaferStaysCanonical :=
  ⟨fun _ _ hm h => (keeps_of_step h).dram hm, fun _ _ hm h => (keeps_of_step h).pillows hm,
    fun _ _ hm h => (keeps_of_step h).bobbins hm, fun _ _ hm h => (keeps_of_step h).cells hm⟩

/-- Settles O14: the two equations of a step. -/
theorem stepRunsTheFrontCommand : Obligations.StepRunsTheFrontCommand :=
  ⟨fun _ _ _ h => step_of_cons h, fun _ h => step_of_empty h⟩

/-- The eMRAM of a part as it ships is canonical. -/
theorem shippedCells_wf : Mem.wf shippedCells :=
  memSetWords_wf _ _ (memSetWords_wf _ _ (memSetWords_wf _ _ (memSetWords_wf _ _ memory_nothing_listed_wf)))

/-- Settles O18: nothing is stored after reset but the records of the eMRAM, which writes have put there. -/
theorem resetMemoryIsCanonical : Obligations.ResetMemoryIsCanonical := by
  have hp : State.reset.engines.pillows = List.replicate 8 [] := rfl
  have hb : State.reset.engines.bobbins = List.replicate 128 {} := rfl
  refine ⟨rfl, fun m hm => ?_, rfl, fun x hx => ?_, shippedCells_wf⟩
  · rw [hp] at hm
    rw [List.eq_of_mem_replicate hm]
    rfl
  · rw [hb] at hx
    rw [List.eq_of_mem_replicate hx]
    exact ⟨rfl, rfl⟩

end

end Sys2Proof.Machine
end

section
/-! PROOFS. The words of the bobbin instructions, and what each bobbin instruction does to its bobbin (R219–R236, R257). -/
set_option Elab.async false
namespace Sys2Proof.Machine
theorem toNat_fld {m : Nat} (w : BitVec m) (lo n : Nat) : (fld w lo n).toNat = w.toNat / 2 ^ lo % 2 ^ n := by
  rw [fld, BitVec.extractLsb'_toNat, Nat.shiftRight_eq_div_pow]

theorem bitAt_iff {m : Nat} (w : BitVec m) (i : Nat) : bitAt w i = true ↔ w.toNat / 2 ^ i % 2 = 1 := by
  rw [bitAt, BitVec.getLsbD, Nat.testBit_eq_decide_div_mod_eq, decide_eq_true_eq]

theorem bitAt_eq_false_iff {m : Nat} (w : BitVec m) (i : Nat) : bitAt w i = false ↔ w.toNat / 2 ^ i % 2 = 0 := by
  rw [← Bool.not_eq_true, bitAt_iff]
  omega

theorem b2n_bitAt {m : Nat} (w : BitVec m) (i : Nat) : b2n (bitAt w i) = w.toNat / 2 ^ i % 2 := by
  rcases Nat.mod_two_eq_zero_or_one (w.toNat / 2 ^ i) with h | h
  · have hb : bitAt w i = false := Bool.eq_false_iff.2 fun hb => by
      rw [bitAt_iff] at hb
      omega
    rw [h, hb]
    rfl
  · rw [h, (bitAt_iff w i).2 h]; rfl

/-- A word is put together from its opcode, three register fields and FN. -/
theorem encWord_of_fields {w : Word} {op rd ra rb fn : Nat} (hop : fldN w 26 6 = op) (hrd : rd = fldN w 21 5)
    (hra : ra = fldN w 16 5) (hrb : rb = fldN w 11 5) (hfn : fn = fldN w 0 11) : encWord op rd ra rb fn = w := by
  subst hop hrd hra hrb hfn
  apply BitVec.eq_of_toNat_eq
  have hw := w.isLt
  simp only [encWord, mkWord, List.foldl_cons, List.foldl_nil, BitVec.toNat_ofNat, fldN, toNat_fld]
  omega

/-- A word is put together from its opcode, two register fields and an immediate. -/
theorem encImm_eq {w : Word} {op rd ra imm : Nat} (h : op * 2 ^ 26 + rd * 2 ^ 21 + ra * 2 ^ 16 + imm = w.toNat) :
    encImm op rd ra imm = w := by
  apply BitVec.eq_of_toNat_eq
  have hw := w.isLt
  simp only [encImm, mkWord, List.foldl_cons, List.foldl_nil, BitVec.toNat_ofNat]
  omega

theorem isS_iff {r : Nat} : isS r = true ↔ r ≤ 15 := decide_eq_true_iff

theorem isP_iff {r : Nat} : isP r = true ↔ r ≤ 7 := decide_eq_true_iff

theorem isA_iff {r : Nat} : isA r = true ↔ r ≤ 3 := decide_eq_true_iff

/-- A legal JMP is a jump, a call or a return. -/
theorem kind_of_legalJmp {w : Word} (h : legalJmp w = true) :
    fldN w 12 4 = 0 ∧ fldN w 21 5 = 0 ∧ fldN w 16 5 = 0 ∨ fldN w 12 4 = 1 ∧ fldN w 21 5 ≤ 15 ∧ fldN w 16 5 = 0 ∨
      fldN w 12 4 = 2 ∧ fldN w 21 5 = 0 ∧ fldN w 16 5 ≤ 15 ∧ fldN w 0 12 = 0 := by
  simp only [legalJmp, fieldsOf] at h
  split_ifs at h with h0 h1 h2
  all_goals
    simp only [Bool.and_eq_true, beq_iff_eq, isS_iff] at h
    omega

theorem val_queueOf (w : Word) : (queueOf w).val = w.toNat % 2 := by
  unfold queueOf
  split
  next hb => exact ((bitAt_iff w 0).1 hb).symm.trans (by simp)
  next hb => exact ((bitAt_eq_false_iff w 0).1 (Bool.not_eq_true _ ▸ hb)).symm.trans (by simp)

theorem val_syncOf (w : Word) : (syncOf w).val = w.toNat % 4 :=
  (toNat_fld w 0 2).trans (by simp)

theorem wellFormed_of_bobbinWord {i : Instr} {b : BobbinIssue} {w : Word} (h : bobbinWord i = some (b, w)) :
    i.wellFormed = legalWord w := by
  simp only [Instr.wellFormed, h]

theorem ite_eq_true_iff_or {c : Prop} [Decidable c] {a b : Bool} :
    ((if c then a else b) = true) ↔ c ∧ a = true ∨ ¬ c ∧ b = true := by
  split <;> simp [*]

theorem legal_of_decodeBobbin {b : BobbinIssue} {t : Instant} {count w : Word} {i : Instr}
    (h : decodeBobbin b t count w = some i) : legalWord w = true := by
  by_contra hl
  simp [decodeBobbin, hl] at h

/-- The word of the instruction that a legal word decodes to is that word. -/
theorem bobbinWord_of_decodeBobbin {b : BobbinIssue} {t : Instant} {count w : Word} {i : Instr}
    (h : decodeBobbin b t count w = some i) : bobbinWord i = some (b, w) := by
  have hl := legal_of_decodeBobbin h
  simp only [decodeBobbin, hl, Bool.not_true, Bool.false_eq_true, if_false] at h
  split at h
  case h_10 hop =>
    simp only [legalWord, hop] at hl
    have hk := kind_of_legalJmp hl
    obtain rfl := Option.some.inj h
    simp only [fldN, toNat_fld, pow_zero, Nat.div_one] at hop hk
    simp only [bobbinWord, Option.some.injEq, Prod.mk.injEq, true_and, toNat_fld, pow_zero, Nat.div_one]
    have hw := w.isLt
    exact encImm_eq (by omega)
  case h_39 => cases h
  all_goals
    rename_i hop
    simp only [legalWord, hop] at hl
    obtain rfl := Option.some.inj h
    clear h
  case h_1 =>
    simp only [legalSys, isS_iff, Bool.and_eq_true, decide_eq_true_eq, beq_iff_eq, ite_eq_true_iff_or] at hl
    unfold decodeSys
    split
    all_goals
      simp only [bobbinWord, Option.some.injEq, Prod.mk.injEq, true_and]
      apply encWord_of_fields hop
    all_goals
      simp only [fieldsOf, fldN, toNat_fld, imp_false] at *
      omega
  case h_20 =>
    simp only [isS_iff, isP_iff, Bool.and_eq_true, decide_eq_true_eq, beq_iff_eq, ite_eq_true_iff_or] at hl
    split
    all_goals
      next hb =>
      rw [bitAt_iff] at hb
      simp only [bobbinWord, Option.some.injEq, Prod.mk.injEq, true_and, if_true, Bool.false_eq_true, if_false]
      apply encWord_of_fields hop
      all_goals
        simp only [fieldsOf, fldN, toNat_fld, pow_zero, Nat.div_one] at *
        omega
  case h_4 | h_6 | h_7 | h_8 =>
    simp only [isS_iff, Bool.and_eq_true, beq_iff_eq, Bool.not_eq_true', bitAt_eq_false_iff] at hl
    simp only [bobbinWord, Option.some.injEq, Prod.mk.injEq, true_and]
    have hw := w.isLt
    simp only [fieldsOf, fldN, toNat_fld, pow_zero, Nat.div_one] at *
    exact encImm_eq (by omega)
  all_goals
    simp only [legalVop, legalSop, legalAset, legalPlog, legalVred, legalVshuf, isS_iff, isA_iff, isP_iff, Bool.and_eq_true,
      Bool.or_eq_true, Bool.not_eq_true', decide_eq_true_eq, beq_iff_eq, bne_iff_ne, ite_eq_true_iff_or, reduceCtorEq, false_or,
      true_or] at hl
    simp only [fieldsOf, Fields.bits, fldN, toNat_fld, pow_zero, Nat.div_one] at hl
    simp only [bobbinWord, Option.some.injEq, Prod.mk.injEq, true_and, toNat_fld, typedFn, mulFn, b2n_bitAt, val_queueOf, val_syncOf]
    apply encWord_of_fields hop
  all_goals
    clear hop
    simp only [fldN, toNat_fld, pow_zero, Nat.div_one] <;> omega

theorem isSome_decodeBobbin {b : BobbinIssue} {t : Instant} {count w : Word} (hl : legalWord w = true) :
    (decodeBobbin b t count w).isSome = true := by
  simp only [decodeBobbin, hl, Bool.not_true, Bool.false_eq_true, if_false]
  split
  case h_39 =>
    unfold legalWord at hl
    split at hl
    all_goals contradiction
  all_goals rfl

/-! #### The instruction of a word -/

section
variable {w : Word} {op rd ra rb fn : Nat}

/-- What an instruction word has in each of its places. -/
theorem fields_of_encWord (h : encWord op rd ra rb fn = w) (hop : op < 64) (hrd : rd < 32) (hra : ra < 32) (hrb : rb < 32)
    (hfn : fn < 2048) : fldN w 26 6 = op ∧ (∃ a, w.toNat / 2 ^ 21 = 32 * a + rd) ∧ (∃ a, w.toNat / 2 ^ 16 = 32 * a + ra) ∧
      (∃ a, w.toNat / 2 ^ 11 = 32 * a + rb) ∧ ∃ a, w.toNat = 2048 * a + fn := by
  have hw : w.toNat = op * 2 ^ 26 + rd * 2 ^ 21 + ra * 2 ^ 16 + rb * 2 ^ 11 + fn := by
    subst h
    simp only [encWord, mkWord, List.foldl_cons, List.foldl_nil, BitVec.toNat_ofNat]
    omega
  refine ⟨?_, ⟨op, ?_⟩, ⟨32 * op + rd, ?_⟩, ⟨1024 * op + 32 * rd + ra, ?_⟩, ⟨32768 * op + 1024 * rd + 32 * ra + rb, ?_⟩⟩
  · rw [fldN, toNat_fld]
    omega
  all_goals omega

theorem fields_of_encImm {imm : Nat} (h : encImm op rd ra imm = w) (hop : op < 64) (hrd : rd < 32) (hi : ra * 2 ^ 16 + imm < 2 ^ 21) :
    fldN w 26 6 = op ∧ w.toNat = op * 2 ^ 26 + rd * 2 ^ 21 + ra * 2 ^ 16 + imm := by
  have hw : w.toNat = op * 2 ^ 26 + rd * 2 ^ 21 + ra * 2 ^ 16 + imm := by
    subst h
    simp only [encImm, mkWord, List.foldl_cons, List.foldl_nil, BitVec.toNat_ofNat]
    omega
  refine ⟨?_, hw⟩
  rw [fldN, toNat_fld]
  omega

end

theorem b2n_lt (b : Bool) : b2n b < 2 := by
  cases b
  · decide
  · decide

theorem fld_eq_iff {m lo n : Nat} {w : BitVec m} {v : BitVec n} : fld w lo n = v ↔ w.toNat / 2 ^ lo % 2 ^ n = v.toNat := by
  rw [← toNat_fld, BitVec.toNat_inj]

theorem bitAt_eq_iff {m i : Nat} {w : BitVec m} {b : Bool} : bitAt w i = b ↔ w.toNat / 2 ^ i % 2 = b2n b := by
  cases b
  · exact bitAt_eq_false_iff w i
  · exact bitAt_iff w i

theorem queueOf_eq_iff {w : Word} {q : Fin 2} : queueOf w = q ↔ w.toNat % 2 = q.val := by
  rw [← val_queueOf, Fin.val_inj]

theorem syncOf_eq_iff {w : Word} {k : Fin 4} : syncOf w = k ↔ w.toNat % 4 = k.val := by
  rw [← val_syncOf, Fin.val_inj]

/-- A SYS word decodes by its function. -/
theorem decodeBobbin_of_sys {b : BobbinIssue} {t : Instant} {count w : Word} {rd fn : Nat} (h : encWord 0 rd 0 0 fn = w)
    (hrd : rd < 32) (hfn : fn < 2048) (hl : legalWord w = true) :
    decodeBobbin b t count w = some (decodeSys b t count w) ∧ fldN w 0 11 = fn ∧ fldN w 21 5 = rd := by
  obtain ⟨hop, ⟨_, hrd'⟩, -, -, _, hfn'⟩ := fields_of_encWord h (by omega) hrd (by omega) (by omega) hfn
  refine ⟨by simp only [decodeBobbin, hl, hop, Bool.not_true, Bool.false_eq_true, if_false], ?_, ?_⟩
  · rw [fldN, toNat_fld]
    omega
  · rw [fldN, toNat_fld]
    omega

/-- A PXFER word decodes by its direction. -/
theorem decodeBobbin_of_pxfer {b : BobbinIssue} {t : Instant} {count w : Word} {toPred : Bool} {sr : BitVec 4} {p : BitVec 3}
    (h : (if toPred then encWord 0x1C p.toNat sr.toNat 0 1 else encWord 0x1C sr.toNat p.toNat 0 0) = w)
    (hl : legalWord w = true) : decodeBobbin b t count w = some (.pxfer b toPred sr p) := by
  cases toPred
  case false =>
    obtain ⟨hop, ⟨_, hrd⟩, ⟨_, hra⟩, ⟨_, hrb⟩, _, hfn⟩ := fields_of_encWord h (by omega) (by omega) (by omega) (by omega) (by omega)
    have hb : bitAt w 0 = false := (bitAt_eq_false_iff w 0).2 (by omega)
    simp only [decodeBobbin, hl, hop, hb, Bool.not_true, Bool.false_eq_true, if_false]
    congr 2
    all_goals
      rw [fld_eq_iff]
      omega
  case true =>
    obtain ⟨hop, ⟨_, hrd⟩, ⟨_, hra⟩, ⟨_, hrb⟩, _, hfn⟩ := fields_of_encWord h (by omega) (by omega) (by omega) (by omega) (by omega)
    have hb : bitAt w 0 = true := (bitAt_iff w 0).2 (by omega)
    simp only [decodeBobbin, hl, hop, hb, Bool.not_true, Bool.false_eq_true, if_false, if_true]
    congr 2
    all_goals
      rw [fld_eq_iff]
      omega

/-- An instruction whose word is legal is the one its word decodes to, with the instant or count that it holds beside its word. -/
theorem decodeBobbin_of_bobbinWord {i : Instr} {b : BobbinIssue} {w : Word} (h : bobbinWord i = some (b, w))
    (hl : legalWord w = true) : ∃ t count, decodeBobbin b t count w = some i := by
  unfold bobbinWord at h
  split at h
  all_goals simp only [reduceCtorEq, Option.some.injEq, Prod.mk.injEq, typedFn, mulFn] at h
  all_goals obtain ⟨rfl, h⟩ := h
  -- the flags of VMUL, VMULS and ASET, ARND, XFER, AGSET, SEM
  case' h_16 asg bsg _ | h_17 asg bsg _ | h_19 asg bsg _ =>
    have hasg := b2n_lt asg
    have hbsg := b2n_lt bsg
  case' h_18 clear round s20 _ =>
    have hclear := b2n_lt clear
    have hround := b2n_lt round
    have hs20 := b2n_lt s20
  case' h_35 scalar outward _ =>
    have hscalar := b2n_lt scalar
    have houtward := b2n_lt outward
  case' h_32 half => have hhalf := b2n_lt half
  case' h_41 wait _ => have hwait := b2n_lt wait
  -- SYS: NOP, HALT and FENCE, PUBLISH, CYCLES
  case h_1 | h_2 | h_4 =>
    obtain ⟨hd, hfn, -⟩ := decodeBobbin_of_sys h (by omega) (by omega) hl
    exact ⟨⟨0, 0⟩, 0, by rw [hd]; simp only [decodeSys, hfn]⟩
  case h_3 t =>
    obtain ⟨hd, hfn, -⟩ := decodeBobbin_of_sys h (by omega) (by omega) hl
    exact ⟨t, 0, by rw [hd]; simp only [decodeSys, hfn]⟩
  case h_5 sd count =>
    obtain ⟨hd, hfn, hrd⟩ := decodeBobbin_of_sys (b := _) (t := ⟨0, 0⟩) (count := count) h (by omega) (by omega) hl
    refine ⟨⟨0, 0⟩, count, ?_⟩
    rw [hd]
    simp only [decodeSys, hfn]
    congr 2
    rw [fldN, toNat_fld] at hrd
    rw [fld_eq_iff]
    omega
  -- PXFER
  case h_24 => exact ⟨⟨0, 0⟩, 0, decodeBobbin_of_pxfer h hl⟩
  -- VIMM, SADDI, SLUI, SORI, JMP
  case h_8 | h_10 | h_11 | h_12 | h_14 =>
    obtain ⟨hop, hw⟩ := fields_of_encImm h (by omega) (by omega) (by omega)
    refine ⟨⟨0, 0⟩, 0, ?_⟩
    simp only [decodeBobbin, hl, hop, Bool.not_true, Bool.false_eq_true, if_false]
    congr 2
    all_goals
      rw [fld_eq_iff]
      omega
  all_goals
    obtain ⟨hop, ⟨_, hrd⟩, ⟨_, hra⟩, ⟨_, hrb⟩, _, hfn⟩ := fields_of_encWord h (by omega) (by omega) (by omega) (by omega) (by omega)
    refine ⟨⟨0, 0⟩, 0, ?_⟩
    simp only [decodeBobbin, hl, hop, Bool.not_true, Bool.false_eq_true, if_false]
    clear hl hop h
    congr 2
  all_goals
    simp only [fld_eq_iff, bitAt_eq_iff, queueOf_eq_iff, syncOf_eq_iff, hrd, hra, hrb]
    clear hrd hra hrb
    omega

/-- Settles O1: a legal word is put together from the fields that its decoding reads, and these are the operands of an instruction
with that word. -/
theorem bobbinWordsAndInstructionsCorrespond : Obligations.BobbinWordsAndInstructionsCorrespond := by
  refine ⟨fun b t count w i h => ?_, fun i b w h hwf => ?_, fun b t count w => isSome_decodeBobbin⟩
  · have hw := bobbinWord_of_decodeBobbin h
    exact ⟨hw, (wellFormed_of_bobbinWord hw).trans (legal_of_decodeBobbin h)⟩
  · exact decodeBobbin_of_bobbinWord h ((wellFormed_of_bobbinWord h).symm.trans hwf)


/-! ### Lanes (R224, R228) -/

@[simp] theorem lane_vec (f : Nat → Px) {i : Nat} (hi : i < 16) : lane (vec f) i = f i := by
  simp [lane, vec, hi]

theorem laneVal_zero (q : Px) : laneVal 0 q = (q.toNat : Int) := rfl

theorem laneVal_signed {ty : Nat} (h : ty = 1 ∨ ty = 2) (q : Px) : laneVal ty q = q.toInt := if_neg (by omega)

theorem satLane_signed {ty : Nat} (h : ty = 1 ∨ ty = 2) (v : Int) : satLane ty v = satLane 1 v := by
  rcases h with rfl | rfl
  · rfl
  · rfl

theorem toInt_satLane {ty : Nat} (h : ty = 1 ∨ ty = 2) (v : Int) :
    (satLane ty v).toInt = max (-0x80000) (min 0x7FFFF v) := by
  rw [satLane_signed h, toInt_satLane_signed]

theorem toInt_lane_bounds (q : Px) : -0x80000 ≤ q.toInt ∧ q.toInt < 0x80000 :=
  ⟨BitVec.le_toInt q, BitVec.toInt_lt⟩

/-- An integer in the range of a signed lane is read back from it. -/
theorem toInt_ofInt_lane {v : Int} (hlo : -0x80000 ≤ v) (hhi : v < 0x80000) : (BitVec.ofInt 20 v).toInt = v := by
  rw [BitVec.toInt_ofInt, Int.bmod_eq_of_le] <;> omega

/-- A natural number in the range of an unsigned lane is read back from it. -/
theorem toNat_ofInt_lane {v : Nat} (h : v < 2 ^ 20) : (BitVec.ofInt 20 (v : Int)).toNat = v := by
  rw [BitVec.toNat_ofInt]
  omega

/-! ### The vector ALU (R228) -/

theorem vopLane_add_sub (ty : Nat) (a b : Px) : (vopLane ty 0x00 a b).toNat = (a.toNat + b.toNat) % 2 ^ 20 ∧
    ((vopLane ty 0x01 a b).toNat + b.toNat) % 2 ^ 20 = a.toNat := by
  refine ⟨BitVec.toNat_add a b, ?_⟩
  rw [show vopLane ty 0x01 a b = a - b from rfl, BitVec.toNat_sub]
  omega

theorem vopLane_unsigned (a b : Px) : (vopLane 0 0x02 a b).toNat = min (a.toNat + b.toNat) 0xFFFFF ∧
    (vopLane 0 0x03 a b).toNat = a.toNat - b.toNat ∧
    (vopLane 0 0x04 a b).toNat = min a.toNat b.toNat ∧ (vopLane 0 0x05 a b).toNat = max a.toNat b.toNat ∧
    (vopLane 0 0x06 a b).toNat = (a.toNat - b.toNat) + (b.toNat - a.toNat) ∧
    (vopLane 0 0x07 a b).toNat = (a.toNat + b.toNat + 1) / 2 := by
  have ha := a.isLt
  have hb := b.isLt
  have hadd := toNat_satLane_unsigned (a.toNat + b.toNat)
  have hsub := toNat_satLane_unsigned (a.toNat - b.toNat)
  have habs := toNat_satLane_unsigned (max (a.toNat - b.toNat) (b.toNat - a.toNat))
  have havg : (vopLane 0 0x07 a b).toNat = (a.toNat + b.toNat + 1) / 2 :=
    toNat_ofInt_lane (v := (a.toNat + b.toNat + 1) / 2) (by omega)
  refine ⟨?_, ?_, ?_, ?_, ?_, havg⟩
  · rw [show vopLane 0 0x02 a b = satLane 0 (a.toNat + b.toNat) from rfl]
    omega
  · rw [show vopLane 0 0x03 a b = satLane 0 (a.toNat - b.toNat) from rfl]
    omega
  · rw [show vopLane 0 0x04 a b = if (a.toNat : Int) ≤ b.toNat then a else b from rfl]
    split <;> omega
  · rw [show vopLane 0 0x05 a b = if (a.toNat : Int) ≤ b.toNat then b else a from rfl]
    split <;> omega
  · rw [show vopLane 0 0x06 a b = satLane 0 (max (a.toNat - b.toNat) (b.toNat - a.toNat)) from rfl]
    omega

theorem vopLane_signed {ty : Nat} (a b : Px) (h : ty = 1 ∨ ty = 2) :
    (vopLane ty 0x02 a b).toInt = max (-0x80000) (min 0x7FFFF (a.toInt + b.toInt)) ∧
    (vopLane ty 0x03 a b).toInt = max (-0x80000) (min 0x7FFFF (a.toInt - b.toInt)) ∧
    (vopLane ty 0x04 a b).toInt = min a.toInt b.toInt ∧ (vopLane ty 0x05 a b).toInt = max a.toInt b.toInt ∧
    (vopLane ty 0x06 a b).toInt = min 0x7FFFF (max (a.toInt - b.toInt) (b.toInt - a.toInt)) ∧
    (vopLane ty 0x07 a b).toInt = (a.toInt + b.toInt + 1) / 2 ∧
    (vopLane ty 0x11 a b).toInt = min 0x7FFFF (-a.toInt) ∧
    (vopLane ty 0x12 a b).toInt = min 0x7FFFF (max a.toInt (-a.toInt)) := by
  have ha := toInt_lane_bounds a
  have hb := toInt_lane_bounds b
  simp only [vopLane, laneVal_signed h, toInt_satLane h]
  refine ⟨trivial, trivial, ?_, ?_, ?_, toInt_ofInt_lane (by omega) (by omega), ?_, ?_⟩
  · split <;> omega
  · split <;> omega
  all_goals omega

theorem vopLane_bits (ty : Nat) (a b : Px) : vopLane ty 0x08 a b = a &&& b ∧ vopLane ty 0x09 a b = a ||| b ∧
    vopLane ty 0x0A a b = a ^^^ b ∧ vopLane ty 0x0B a b = a &&& ~~~ b ∧ vopLane ty 0x10 a b = a :=
  ⟨rfl, rfl, rfl, rfl, rfl⟩

theorem vopLane_shl {ty : Nat} {a b : Px} (h : b.toNat % 32 < 20) :
    (vopLane ty 0x0C a b).toNat = a.toNat * 2 ^ (b.toNat % 32) % 2 ^ 20 := by
  rw [show vopLane ty 0x0C a b = a <<< (b.toNat % 32) from if_neg (by omega), BitVec.toNat_shiftLeft, Nat.shiftLeft_eq]

/-- A shift by 20 to 31 leaves nothing of an unsigned lane (log entry 57). -/
theorem vopLane_far {ty : Nat} {a b : Px} (h : 20 ≤ b.toNat % 32) : vopLane ty 0x0C a b = 0 ∧ vopLane ty 0x0D a b = 0 ∧
    vopLane 0 0x0E a b = 0 ∧ vopLane 0 0x0F a b = 0 := by
  have hneg : ¬ (a.toNat : Int) < 0 := by omega
  exact ⟨if_pos h, if_pos h, (if_pos h).trans (if_neg hneg), (if_pos h).trans (if_neg hneg)⟩

/-- A shift right by 20 to 31 leaves the sign of a signed lane (log entry 57). -/
theorem vopLane_far_signed {ty : Nat} {a b : Px} (ht : ty = 1 ∨ ty = 2) (h : 20 ≤ b.toNat % 32) :
    (vopLane ty 0x0E a b).toInt = (if a.toInt < 0 then -1 else 0) ∧
    (vopLane ty 0x0F a b).toInt = (if a.toInt < 0 then -1 else 0) := by
  have hv : (if a.toInt < 0 then BitVec.ofInt 20 (-1) else 0).toInt = (if a.toInt < 0 then -1 else 0) := by
    split
    · rfl
    · rfl
  simp only [vopLane, laneVal_signed ht, if_pos h, hv, and_self]

theorem vopLane_shift_unsigned {a b : Px} (h : b.toNat % 32 < 20) :
    (vopLane 0 0x0D a b).toNat = min (a.toNat * 2 ^ (b.toNat % 32)) 0xFFFFF ∧
    (vopLane 0 0x0E a b).toNat = a.toNat / 2 ^ (b.toNat % 32) := by
  have hfar : ¬ 20 ≤ b.toNat % 32 := by omega
  have hs := toNat_satLane_unsigned (a.toNat * 2 ^ (b.toNat % 32) : Nat)
  have hd : a.toNat / 2 ^ (b.toNat % 32) < 2 ^ 20 := lt_of_le_of_lt (Nat.div_le_self _ _) a.isLt
  constructor
  · rw [show vopLane 0 0x0D a b = satLane 0 (a.toNat * 2 ^ (b.toNat % 32) : Nat) from (if_neg hfar).trans (by push_cast; rfl)]
    omega
  · rw [show vopLane 0 0x0E a b = BitVec.ofInt 20 (a.toNat / 2 ^ (b.toNat % 32) : Nat) from
      (if_neg hfar).trans (by push_cast; rfl)]
    exact toNat_ofInt_lane hd

theorem ediv_two_pow_bounds {v : Int} (n : Nat) (hlo : -0x80000 ≤ v) (hhi : v < 0x80000) :
    -0x80000 ≤ v / 2 ^ n ∧ v / 2 ^ n < 0x80000 := by
  have hp : (0 : Int) < 2 ^ n := by positivity
  constructor
  · rw [Int.le_ediv_iff_mul_le hp]
    nlinarith
  · rw [Int.ediv_lt_iff_lt_mul hp]
    nlinarith

theorem vopLane_shift_signed {ty : Nat} {a b : Px} (ht : ty = 1 ∨ ty = 2) (h : b.toNat % 32 < 20) :
    (vopLane ty 0x0D a b).toInt = max (-0x80000) (min 0x7FFFF (a.toInt * 2 ^ (b.toNat % 32))) ∧
    (vopLane ty 0x0E a b).toInt = a.toInt / 2 ^ (b.toNat % 32) := by
  have hfar : ¬ 20 ≤ b.toNat % 32 := by omega
  have ha := toInt_lane_bounds a
  have hd := ediv_two_pow_bounds (b.toNat % 32) ha.1 ha.2
  simp only [vopLane, laneVal_signed ht, if_neg hfar, toInt_satLane ht]
  exact ⟨trivial, toInt_ofInt_lane hd.1 hd.2⟩

theorem half_two_pow {n : Nat} (h : 1 ≤ n) : 2 ^ n = 2 * 2 ^ (n - 1) := by
  rw [← pow_succ', Nat.sub_add_cancel h]

theorem vopLane_round_unsigned {a b : Px} (h1 : 1 ≤ b.toNat % 32) (h : b.toNat % 32 < 20) :
    (vopLane 0 0x0F a b).toNat = (a.toNat + 2 ^ (b.toNat % 32 - 1)) / 2 ^ (b.toNat % 32) := by
  have hfar : ¬ 20 ≤ b.toNat % 32 := by omega
  have hv : vopLane 0 0x0F a b = BitVec.ofInt 20 (rshRound a.toNat (b.toNat % 32)) := if_neg hfar
  rw [hv, rshRound_of_pos h1]
  generalize b.toNat % 32 = n at *
  have hlt : (a.toNat + 2 ^ (n - 1)) / 2 ^ n < 2 ^ 20 := by
    have ha := a.isLt
    have hp : 0 < 2 ^ (n - 1) := by positivity
    rw [Nat.div_lt_iff_lt_mul (by positivity), half_two_pow h1]
    nlinarith
  exact_mod_cast toNat_ofInt_lane hlt

theorem vopLane_round_signed {ty : Nat} {a b : Px} (ht : ty = 1 ∨ ty = 2) (h1 : 1 ≤ b.toNat % 32) (h : b.toNat % 32 < 20) :
    (vopLane ty 0x0F a b).toInt = (a.toInt + 2 ^ (b.toNat % 32 - 1)) / 2 ^ (b.toNat % 32) := by
  have hfar : ¬ 20 ≤ b.toNat % 32 := by omega
  have hv : vopLane ty 0x0F a b = BitVec.ofInt 20 (rshRound a.toInt (b.toNat % 32)) := by
    simp only [vopLane, laneVal_signed ht, if_neg hfar]
  rw [hv, rshRound_of_pos h1]
  generalize b.toNat % 32 = n at *
  have ha := toInt_lane_bounds a
  have hp : (0 : Int) < 2 ^ (n - 1) := by positivity
  have h2 : (2 : Int) ^ n = 2 * 2 ^ (n - 1) := by exact_mod_cast half_two_pow h1
  refine toInt_ofInt_lane ?_ ?_
  · rw [Int.le_ediv_iff_mul_le (by positivity), h2]
    nlinarith
  · rw [Int.ediv_lt_iff_lt_mul (by positivity), h2]
    nlinarith

theorem vopLane_round_zero {ty : Nat} {a b : Px} (ht : ty ≤ 2) (h : b.toNat % 32 = 0) : vopLane ty 0x0F a b = a := by
  have hv : vopLane ty 0x0F a b = BitVec.ofInt 20 (laneVal ty a) := by
    simp only [vopLane, h, rshRound_zero]
    exact if_neg (by omega)
  rw [hv]
  rcases Nat.eq_zero_or_pos ty with rfl | hpos
  · rw [laneVal_zero, BitVec.ofInt_natCast, BitVec.ofNat_toNat, BitVec.setWidth_eq]
  · rw [laneVal_signed (by omega), BitVec.ofInt_toInt]

/-! ### Vector instructions (R228, R230, R231) -/
/-- An instruction whose meaning is `issueWith` with the instruction's own word, issued now, is its action on its bobbin. -/
theorem exec_of_issueWith {i : Instr} {b : BobbinIssue} {w : Word} {use : MemUse} {f : Nat → State → State} {s : State} {n : Nat}
    {x : Bobbin} (h : issuing i s = some (n, x)) (hw : bobbinWord i = some (b, w)) (he : exec i s = issueWith b w use f s) :
    exec i s = .next (f n s) := by
  obtain ⟨b', w', hw', hclean, hissues, rfl, -⟩ := issues_of_issuing h
  obtain ⟨rfl, rfl⟩ := Prod.mk.inj (Option.some.inj (hw.symm.trans hw'))
  rw [he, issueWith_of_clean hissues hclean]

/-- The bobbin that issues an instruction is the one of its number. -/
theorem bobbin_of_issuing {i : Instr} {s : State} {n : Nat} {x : Bobbin} (h : issuing i s = some (n, x)) : bobbin s n = x := by
  obtain ⟨-, -, -, -, -, -, rfl⟩ := issues_of_issuing h
  rfl

section
variable {b : BobbinIssue} {s : State} {n : Nat} {x : Bobbin}

theorem exec_vop {vd va vb : BitVec 5} {p : BitVec 3} {ty : BitVec 2} {op : BitVec 6}
    (h : issuing (.vop b vd va vb p ty op) s = some (n, x)) :
    exec (.vop b vd va vb p ty op) s = .next (putBobbin n (nextPc (vopTo vd.toNat (vReg x va.toNat) (vReg x vb.toNat)
      p.toNat ty.toNat op.toNat x)) s) :=
  (exec_of_issueOwn h rfl rfl :)

end

/-- What VOP's word asks of a well-formed instruction. -/
theorem wellFormed_vop_iff {vd va vb : BitVec 5} {p : BitVec 3} {ty : BitVec 2} {op : BitVec 6} {b : BobbinIssue} :
    (Instr.vop b vd va vb p ty op).wellFormed = true ↔
      ty ≠ 3 ∧ op.toNat ≤ 0x12 ∧ (0x10 ≤ op.toNat → vb = 0) ∧ (0x11 ≤ op.toNat → ty ≠ 0) := by
  rw [wellFormed_of_bobbinWord rfl]
  generalize hw : encWord 0x01 vd.toNat va.toNat vb.toNat (typedFn p ty op.toNat) = w
  obtain ⟨hop, -, -, ⟨_, hrb⟩, _, hfn⟩ :=
    fields_of_encWord hw (by omega) (by omega) (by omega) (by omega) (by unfold typedFn; omega)
  have hrb : (fieldsOf w).rb = vb.toNat := by
    change fldN w 11 5 = vb.toNat
    rw [fldN, toNat_fld]
    omega
  have hty : (fieldsOf w).bits 6 2 = ty.toNat := by
    simp only [fieldsOf, Fields.bits, fldN, toNat_fld, typedFn] at *
    omega
  have hfop : (fieldsOf w).bits 0 6 = op.toNat := by
    simp only [fieldsOf, Fields.bits, fldN, toNat_fld, typedFn] at *
    omega
  have hl : legalWord w = legalVop false (fieldsOf w) := by simp only [legalWord, hop]
  simp only [hl, legalVop, hrb, hty, hfop, Bool.and_eq_true, Bool.or_eq_true, bne_iff_ne, decide_eq_true_eq, ite_eq_true_iff_or,
    beq_iff_eq, Bool.not_false, true_or, and_true, ← BitVec.toNat_inj, ne_eq]
  change _ ↔ ¬ ty.toNat = 3 ∧ op.toNat ≤ 0x12 ∧ (0x10 ≤ op.toNat → vb.toNat = 0) ∧ (0x11 ≤ op.toNat → ¬ ty.toNat = 0)
  omega

/-- Settles O2: the results by type and operation, then VOP under its predicate, and what its word asks. -/
theorem vectorAluLaneResults : Obligations.VectorAluLaneResults := by
  refine ⟨vopLane_add_sub, vopLane_unsigned, fun _ a b => vopLane_signed a b, vopLane_bits, fun _ _ _ => vopLane_shl,
    fun _ _ _ => vopLane_far, fun _ _ _ => vopLane_far_signed, fun _ _ => vopLane_shift_unsigned,
    fun _ _ _ => vopLane_shift_signed, fun _ _ => vopLane_round_unsigned, fun _ _ _ => vopLane_round_signed,
    fun _ _ _ => vopLane_round_zero, fun b vd va vb p ty op s n x h => ⟨_, exec_vop h, fun i hi => lane_vec _ hi⟩,
    fun vd va vb p ty op b => wellFormed_vop_iff⟩

/-! ### Shuffles and reductions (R231) -/

theorem shufLane_reverse_broadcast (ln : Nat) (a b : List Px) (i : Nat) :
    shufLane 0 ln a b i = lane a (15 - i) ∧ shufLane 5 ln a b i = lane a ln := ⟨rfl, rfl⟩

theorem catLane_of_lt {a b : List Px} {i : Nat} (h : i < 16) : catLane a b i = lane a i := if_pos h

theorem catLane_of_le {a b : List Px} {i : Nat} (h : 16 ≤ i) : catLane a b i = lane b (i - 16) := if_neg (by omega)

theorem shufLane_pairs (ln : Nat) (a b : List Px) (i : Nat) (hi : i < 8) :
    shufLane 1 ln a b i = lane a (2 * i) ∧ shufLane 1 ln a b (i + 8) = lane b (2 * i) ∧
    shufLane 2 ln a b i = lane a (2 * i + 1) ∧ shufLane 2 ln a b (i + 8) = lane b (2 * i + 1) ∧
    shufLane 3 ln a b (2 * i) = lane a i ∧ shufLane 3 ln a b (2 * i + 1) = lane b i ∧
    shufLane 4 ln a b (2 * i) = lane a (8 + i) ∧ shufLane 4 ln a b (2 * i + 1) = lane b (8 + i) := by
  have heven : 2 * i % 2 = 0 := by omega
  have hodd : (2 * i + 1) % 2 = 1 := by omega
  have hhalf : (2 * i + 1) / 2 = i := by omega
  refine ⟨catLane_of_lt (by omega), ?_, catLane_of_lt (by omega), ?_, ?_, ?_, ?_, ?_⟩
  · exact (catLane_of_le (a := a) (i := 2 * (i + 8)) (by omega)).trans (congrArg (lane b) (by omega))
  · exact (catLane_of_le (a := a) (i := 2 * (i + 8) + 1) (by omega)).trans (congrArg (lane b) (by omega))
  all_goals simp [shufLane, heven, hodd, hhalf]

/-- Settles O3: each instruction by its own rule, then the lanes of VSHUF. -/
theorem vectorInstructionsWriteTheirRegister : Obligations.VectorInstructionsWriteTheirRegister := by
  refine ⟨fun b vd va vb p ty op s n x h => exec_vop h, fun b vd va sb p ty op s n x h => (exec_of_issueOwn h rfl rfl :),
    fun b vd imm s n x h => (exec_of_issueOwn h rfl rfl :), fun b vd va vb pn s n x h => exec_vsel h,
    fun b vd va vb k s n x h => (exec_of_issueOwn h rfl rfl :), fun b vd va vb op ln s n x h => (exec_of_issueOwn h rfl rfl :),
    fun ln a b i _ => shufLane_reverse_broadcast ln a b i, shufLane_pairs⟩


/-- The lanes of P reduced one after another: the sum counts the others as 0. -/
theorem foldl_add_redLanes (m : BitVec 16) (ty : Nat) (v : List Px) :
    (redLanes m ty v).foldl (· + ·) 0 = ((List.range 16).map fun i => if bitAt m i then laneVal ty (lane v i) else 0).sum := by
  rw [← List.sum_eq_foldl, redLanes]
  induction List.range 16 with
  | nil => rfl
  | cons i l ih =>
    rw [List.filter_cons, List.map_cons, List.sum_cons, ← ih]
    split
    · rfl
    · exact (zero_add _).symm

theorem redWord_sum (ty ln : Nat) (m : BitVec 16) (v : List Px) : redWord 0 ty ln m v =
    wordOfInt (((List.range 16).map fun i => if bitAt m i then laneVal ty (lane v i) else 0).sum) :=
  congrArg wordOfInt (foldl_add_redLanes m ty v)

theorem redLanes_zero (ty : Nat) (v : List Px) : redLanes 0 ty v = [] := by simp [redLanes, bitAt]

theorem redWord_empty (ty ln : Nat) (v : List Px) : redWord 0 ty ln 0 v = 0 ∧ redWord 1 ty ln 0 v = wordOfInt (typeMax ty) ∧
    redWord 2 ty ln 0 v = wordOfInt (typeMin ty) := by
  simp only [redWord, redLanes_zero, List.foldl_nil]
  exact ⟨rfl, rfl, rfl⟩

theorem bitAt_full {i : Nat} (hi : i < 16) : bitAt (0xFFFF : BitVec 16) i = true := by
  revert i
  decide

/-- A sum of at most 16 numbers of a range lies in 16 times the range. -/
theorem sum_bounds {l : List Int} {lo hi : Int} (h : ∀ x ∈ l, lo ≤ x ∧ x ≤ hi) :
    l.length * lo ≤ l.sum ∧ l.sum ≤ l.length * hi := by
  induction l with
  | nil => simp
  | cons x l ih =>
    have hx := h x (List.mem_cons_self ..)
    have hl := ih fun y hy => h y (List.mem_cons_of_mem _ hy)
    rw [List.sum_cons, List.length_cons]
    push_cast
    constructor <;> linarith

theorem redWord_sum_full (ln : Nat) (v : List Px) :
    (redWord 0 0 ln 0xFFFF v).toNat = ((List.range 16).map fun i => (lane v i).toNat).sum ∧
    (redWord 0 1 ln 0xFFFF v).toInt = ((List.range 16).map fun i => (lane v i).toInt).sum := by
  have hall (f : Nat → Int) : ((List.range 16).map fun i => if bitAt (0xFFFF : BitVec 16) i then f i else 0) =
      (List.range 16).map f := List.map_congr_left fun i hi => if_pos (bitAt_full (List.mem_range.1 hi))
  rw [redWord_sum, redWord_sum, hall, hall]
  constructor
  · have hb := sum_bounds (l := (List.range 16).map fun i => laneVal 0 (lane v i)) (lo := 0) (hi := 0xFFFFF) fun x hx => by
      obtain ⟨i, -, rfl⟩ := List.mem_map.1 hx
      have := (lane v i).isLt
      rw [laneVal_zero]
      omega
    have hc : ((List.range 16).map fun i => laneVal 0 (lane v i)).sum = (((List.range 16).map fun i => (lane v i).toNat).sum : Nat) := by
      push_cast
      rw [List.map_map]
      rfl
    rw [hc] at hb ⊢
    simp only [List.length_map, List.length_range] at hb
    rw [wordOfInt, BitVec.toNat_ofInt]
    omega
  · have hb := sum_bounds (l := (List.range 16).map fun i => laneVal 1 (lane v i)) (lo := -0x80000) (hi := 0x7FFFF) fun x hx => by
      obtain ⟨i, -, rfl⟩ := List.mem_map.1 hx
      have := toInt_lane_bounds (lane v i)
      rw [laneVal_signed (.inl rfl)]
      omega
    simp only [List.length_map, List.length_range] at hb
    rw [wordOfInt, BitVec.toInt_ofInt, Int.bmod_eq_of_le (by omega) (by omega)]
    rfl

/-- The least of a start value and a list is one of them and at most each. -/
theorem foldl_min_spec {α : Type} [LinearOrder α] (l : List α) (a : α) :
    (l.foldl min a = a ∨ l.foldl min a ∈ l) ∧ l.foldl min a ≤ a ∧ ∀ x ∈ l, l.foldl min a ≤ x := by
  induction l generalizing a with
  | nil => simp
  | cons x l ih =>
    obtain ⟨hmem, hle, hall⟩ := ih (min a x)
    rw [List.foldl_cons]
    refine ⟨?_, hle.trans (min_le_left _ _), ?_⟩
    · rcases hmem with hmem | hmem
      · rw [hmem]
        rcases min_choice a x with h | h
        · exact .inl h
        · exact .inr (List.mem_cons.2 (.inl h))
      · exact .inr (List.mem_cons_of_mem _ hmem)
    · intro y hy
      rcases List.mem_cons.1 hy with rfl | hy
      · exact hle.trans (min_le_right _ _)
      · exact hall y hy

/-- From a start value that bounds a list, the least is in the list if there is anything in it. -/
theorem foldl_min_mem {α : Type} [LinearOrder α] {l : List α} {a : α} (hne : l ≠ []) (h : ∀ x ∈ l, x ≤ a) :
    l.foldl min a ∈ l ∧ ∀ x ∈ l, l.foldl min a ≤ x := by
  obtain ⟨hmem, -, hall⟩ := foldl_min_spec l a
  refine ⟨hmem.elim (fun he => ?_) id, hall⟩
  obtain ⟨x, hx⟩ := List.exists_mem_of_ne_nil l hne
  rw [he, ← (h x hx).antisymm (he ▸ hall x hx)]
  exact hx

theorem mem_redLanes {m : BitVec 16} {ty : Nat} {v : List Px} {x : Int} :
    x ∈ redLanes m ty v ↔ ∃ i < 16, bitAt m i = true ∧ laneVal ty (lane v i) = x := by
  simp [redLanes, and_assoc]

theorem redLanes_ne_nil {m : BitVec 16} (hm : m ≠ 0) (ty : Nat) (v : List Px) : redLanes m ty v ≠ [] := by
  have hbit : ∃ i, i < 16 ∧ bitAt m i = true := by
    by_contra hno
    refine hm (BitVec.eq_of_getLsbD_eq fun i hi => ?_)
    exact (Bool.eq_false_iff.2 fun hb => hno ⟨i, hi, hb⟩).trans BitVec.getLsbD_zero.symm
  obtain ⟨i, hi, hb⟩ := hbit
  exact List.ne_nil_of_mem (mem_redLanes.2 ⟨i, hi, hb, rfl⟩)

theorem laneVal_bounds (ty : Nat) (q : Px) : typeMin ty ≤ laneVal ty q ∧ laneVal ty q ≤ typeMax ty := by
  have hn := q.isLt
  have hi := toInt_lane_bounds q
  simp only [typeMin, typeMax, laneVal]
  split <;> omega

theorem redWord_extremes (ty ln : Nat) (m : BitVec 16) (v : List Px) (hm : m ≠ 0) :
    (∃ i < 16, bitAt m i = true ∧ redWord 1 ty ln m v = wordOfInt (laneVal ty (lane v i)) ∧
      ∀ j < 16, bitAt m j = true → laneVal ty (lane v i) ≤ laneVal ty (lane v j)) ∧
    (∃ i < 16, bitAt m i = true ∧ redWord 2 ty ln m v = wordOfInt (laneVal ty (lane v i)) ∧
      ∀ j < 16, bitAt m j = true → laneVal ty (lane v j) ≤ laneVal ty (lane v i)) := by
  have hne := redLanes_ne_nil hm ty v
  constructor
  · obtain ⟨hmem, hall⟩ := foldl_min_mem (a := typeMax ty) hne fun x hx => by
      obtain ⟨i, -, -, rfl⟩ := mem_redLanes.1 hx
      exact (laneVal_bounds ty _).2
    obtain ⟨i, hi, hb, he⟩ := mem_redLanes.1 hmem
    exact ⟨i, hi, hb, congrArg wordOfInt he.symm, fun j hj hbj => he ▸ hall _ (mem_redLanes.2 ⟨j, hj, hbj, rfl⟩)⟩
  · obtain ⟨hmem, hall⟩ := foldl_min_mem (α := Intᵒᵈ) (l := redLanes m ty v) (a := typeMin ty) hne fun x hx => by
      obtain ⟨i, -, -, rfl⟩ := mem_redLanes.1 hx
      exact (laneVal_bounds ty _).1
    obtain ⟨i, hi, hb, he⟩ := mem_redLanes.1 hmem
    exact ⟨i, hi, hb, congrArg wordOfInt he.symm, fun j hj hbj => (he ▸ hall _ (mem_redLanes.2 ⟨j, hj, hbj, rfl⟩) :)⟩

theorem exec_vred {b : BobbinIssue} {rd ra ln : BitVec 5} {p : BitVec 3} {ty : BitVec 2} {op : BitVec 6} {s : State} {n : Nat}
    {x : Bobbin} (h : issuing (.vred b rd ra ln p ty op) s = some (n, x)) :
    exec (.vred b rd ra ln p ty op) s = .next (putBobbin n (nextPc (
      if op = 4 then setV rd.toNat ((vReg x rd.toNat).set ln.toNat (fld (sReg x ra.toNat) 0 20)) x
      else setS rd.toNat (redWord op.toNat ty.toNat ln.toNat (pReg x p.toNat) (vReg x ra.toNat)) x)) s) :=
  (exec_of_issueOwn h rfl rfl :)

/-- Settles O4: VRED's two forms, then the reductions. -/
theorem vectorReductionsWriteTheirResult : Obligations.VectorReductionsWriteTheirResult := by
  refine ⟨fun b rd ra ln p ty op s n x h hop => ?_, fun b rd ra ln p ty s n x h => ?_, redWord_empty, fun _ _ _ _ => rfl,
    redWord_sum_full, redWord_sum, redWord_extremes⟩
  · rw [exec_vred h, if_neg hop]
    rfl
  · rw [exec_vred h, if_pos rfl]
    rfl

/-! ### Scalar instructions (R236) -/

theorem exec_sop {b : BobbinIssue} {sd sa sb op : BitVec 4} {s : State} {n : Nat} {x : Bobbin}
    (h : issuing (.sop b sd sa sb op) s = some (n, x)) : exec (.sop b sd sa sb op) s = .next (
      let r := if openShift op.toNat (sReg x sb.toNat) then takeFree s
        else (sopWord op.toNat (sReg x sa.toNat) (sReg x sb.toNat), s)
      updBobbin n (fun x => nextPc (setS sd.toNat r.1 x)) r.2) := by
  obtain rfl := bobbin_of_issuing h
  have he : exec (.sop b sd sa sb op) s = execSop b sd sa sb op s := rfl
  unfold execSop at he
  exact exec_of_issueWith h rfl he

theorem sopWord_ops (a c : Word) : (sopWord 0 a c).toNat = (a.toNat + c.toNat) % 2 ^ 32 ∧ sopWord 1 a c + c = a ∧
    sopWord 2 a c = a &&& c ∧ sopWord 3 a c = a ||| c ∧ sopWord 4 a c = a ^^^ c ∧
    (sopWord 8 a c).toNat = a.toNat * c.toNat % 2 ^ 32 ∧
    (sopWord 9 a c).toInt = min a.toInt c.toInt ∧ (sopWord 10 a c).toInt = max a.toInt c.toInt ∧
    sopWord 11 a c = (if a.toInt < c.toInt then 1 else 0) ∧ sopWord 12 a c = (if a.toNat < c.toNat then 1 else 0) := by
  refine ⟨BitVec.toNat_add a c, BitVec.sub_add_cancel a c, rfl, rfl, rfl, BitVec.toNat_mul a c, ?_, ?_, ?_, ?_⟩
  · simp only [sopWord]
    split <;> omega
  · simp only [sopWord]
    split <;> omega
  · simp only [sopWord, b2n, decide_eq_true_eq]
    split <;> rfl
  · simp only [sopWord, b2n, decide_eq_true_eq]
    split <;> rfl

theorem sopWord_shifts (a c : Word) (_ : c.toNat < 32) : (sopWord 5 a c).toNat = a.toNat * 2 ^ c.toNat % 2 ^ 32 ∧
    (sopWord 6 a c).toNat = a.toNat / 2 ^ c.toNat ∧ (sopWord 7 a c).toInt = a.toInt / 2 ^ c.toNat := by
  simp only [sopWord, BitVec.toNat_shiftLeft, BitVec.toNat_ushiftRight, BitVec.toInt_sshiftRight, Nat.shiftLeft_eq,
    Nat.shiftRight_eq_div_pow, Int.shiftRight_eq_div_pow, true_and]
  push_cast
  rfl

/-- POPC counts the ones. -/
theorem sopWord_popc (a c : Word) : (sopWord 13 a c).toNat = ((List.range 32).map fun i => a.toNat / 2 ^ i % 2).sum := by
  have hcount (l : List Nat) : (l.filter fun i => bitAt a i).length = (l.map fun i => a.toNat / 2 ^ i % 2).sum := by
    induction l with
    | nil => rfl
    | cons i l ih =>
      rw [List.filter_cons, List.map_cons, List.sum_cons, ← ih, ← b2n_bitAt]
      cases bitAt a i
      · exact (zero_add _).symm
      · exact Nat.add_comm _ 1
  have hle := List.length_filter_le (fun i => bitAt a i) (List.range 32)
  rw [List.length_range] at hle
  rw [← hcount]
  exact Nat.mod_eq_of_lt (lt_of_le_of_lt hle (by decide))

/-- Settles O5: each instruction by its own rule, then the scalar operations. -/
theorem scalarInstructionsWriteTheirRegister : Obligations.ScalarInstructionsWriteTheirRegister := by
  refine ⟨fun b sd sa sb op s n x h ho => ?_, fun b sd sa sb op s n x h ho => ?_,
    fun b sd sa imm s n x h => (exec_of_issueOwn h rfl rfl :), fun b sd imm s n x h => ?_,
    fun b sd sa imm s n x h => (exec_of_issueOwn h rfl rfl :), fun b sr p s n x h => exec_pxfer_toScalar h,
    fun b sd queue field s n x h => ?_, fun b sd count s n x h => (exec_of_issueOwn h rfl rfl :),
    sopWord_ops, sopWord_shifts, sopWord_popc⟩
  · have hx := bobbin_of_issuing h
    rw [exec_sop h, ho]
    simp only [Bool.false_eq_true, if_false, updBobbin_eq_putBobbin, hx]
    rfl
  · have hx : bobbin { s with free := s.free + 1 } n = x := (bobbin_of_issuing h : bobbin s n = x)
    rw [exec_sop h, ho]
    simp only [if_true, takeFree, updBobbin_eq_putBobbin, hx]
    rfl
  · have himm : imm.zeroExtend 32 <<< 16 = imm ++ (0 : BitVec 16) := by
      have happ : (imm ++ (0 : BitVec 16)).toNat = imm.toNat <<< 16 ||| 0 := BitVec.toNat_append imm 0
      rw [Nat.or_zero, Nat.shiftLeft_eq] at happ
      refine BitVec.eq_of_toNat_eq (Eq.trans ?_ happ.symm)
      rw [BitVec.toNat_shiftLeft, BitVec.toNat_setWidth, Nat.shiftLeft_eq]
      omega
    rw [(exec_of_issueOwn h rfl rfl :), ← himm]
    rfl
  · have hq : (queue.val = 0) = (queue = 0) := by
      rw [Fin.ext_iff]
      rfl
    rw [(exec_of_issueOwn h rfl rfl :)]
    simp only [hq]
    rfl

/-! ### Control flow (R236) -/

theorem jumpTo_of_stays {n target : Nat} {f : Bobbin → Bobbin} {s : State} (h : leavesLoop (bobbin s n) target = false) :
    jumpTo n target f s = putBobbin n { f (bobbin s n) with pc := target } s := by
  simp [jumpTo, h, updBobbin_eq_putBobbin]

theorem jumpTo_of_leaves {n target : Nat} {f : Bobbin → Bobbin} {s : State} (h : leavesLoop (bobbin s n) target = true) :
    jumpTo n target f s = bobbinFault n 9 s := by
  simp [jumpTo, h]

section
variable {b : BobbinIssue} {s : State} {n : Nat} {x : Bobbin}

theorem exec_bcc {cond : BitVec 5} {sa sb : BitVec 4} {off : BitVec 11} (h : issuing (.bcc b cond sa sb off) s = some (n, x)) :
    exec (.bcc b cond sa sb off) s = .next (if branchHolds cond.toNat (sReg x sa.toNat) (sReg x sb.toNat) then
      jumpTo n (branchTarget x.pc off) id s else putBobbin n (nextPc x) s) := by
  obtain rfl := bobbin_of_issuing h
  have he : exec (.bcc b cond sa sb off) s = execBcc b cond sa sb off s := rfl
  unfold execBcc at he
  rw [exec_of_issueWith h rfl he, updBobbin_eq_putBobbin]

theorem exec_jmp {kind sd sa : BitVec 4} {target : BitVec 12} (h : issuing (.jmp b kind sd sa target) s = some (n, x)) :
    exec (.jmp b kind sd sa target) s = .next (if kind = 2 then jumpTo n (fldN (sReg x sa.toNat) 0 12) id s
      else if kind = 1 then jumpTo n target.toNat (setS sd.toNat (wordOf ((x.pc + 1) % 4096))) s
      else jumpTo n target.toNat id s) := by
  obtain rfl := bobbin_of_issuing h
  have he : exec (.jmp b kind sd sa target) s = execJmp b kind sd sa target s := rfl
  unfold execJmp at he
  exact exec_of_issueWith h rfl he

theorem exec_loop {sa : BitVec 4} {len : BitVec 11} (h : issuing (.loop b sa len) s = some (n, x)) :
    exec (.loop b sa len) s = .next (
      if (sReg x sa.toNat).toNat = 0 || len = 0 then putBobbin n (goOn (x.pc + len.toNat) x) s
      else if 2 ≤ x.loops.length then bobbinFault n 9 s
      else putBobbin n { x with
        loops := ⟨x.pc + 1, x.pc + len.toNat, (sReg x sa.toNat).toNat⟩ :: x.loops, pc := (x.pc + 1) % 4096 } s) := by
  obtain rfl := bobbin_of_issuing h
  have he : exec (.loop b sa len) s = execLoop b sa len s := rfl
  unfold execLoop at he
  simp only [exec_of_issueWith h rfl he, updBobbin_eq_putBobbin]

/-- LOOP of a count that is not 0 opens a level, of which a bobbin has two. -/
theorem exec_loop_of_counts {sa : BitVec 4} {len : BitVec 11} (h : issuing (.loop b sa len) s = some (n, x))
    (hc : sReg x sa.toNat ≠ 0) (hl : len ≠ 0) :
    exec (.loop b sa len) s = .next (if 2 ≤ x.loops.length then bobbinFault n 9 s
      else putBobbin n { x with
        loops := ⟨x.pc + 1, x.pc + len.toNat, (sReg x sa.toNat).toNat⟩ :: x.loops, pc := (x.pc + 1) % 4096 } s) := by
  have hc' : (sReg x sa.toNat).toNat ≠ 0 := fun h0 => hc (BitVec.eq_of_toNat_eq h0)
  rw [exec_loop h, if_neg (by simpa using ⟨hc', hl⟩)]

end

/-- What the last instruction of a loop's body does: the level runs again, or ends with the body. -/
theorem nextPc_of_no_loops {x : Bobbin} (h : x.loops = []) : nextPc x = { x with pc := (x.pc + 1) % 4096, wait := none } := by
  simp [nextPc, goOn, afterInstr, h]

theorem nextPc_of_other_last {x : Bobbin} {l : LoopLevel} {ls : List LoopLevel} (h : x.loops = l :: ls) (hl : l.last ≠ x.pc) :
    nextPc x = { x with pc := (x.pc + 1) % 4096, wait := none } := by
  simp [nextPc, goOn, afterInstr, h, hl]

theorem nextPc_of_again {x : Bobbin} {l : LoopLevel} {ls : List LoopLevel} (h : x.loops = l :: ls) (hl : l.last = x.pc)
    (hleft : 1 < l.left) : nextPc x = { x with pc := l.start, loops := { l with left := l.left - 1 } :: ls, wait := none } := by
  simp [nextPc, goOn, afterInstr, h, hl, hleft]

theorem nextPc_of_loop_end {x : Bobbin} {l : LoopLevel} (h : x.loops = [l]) (hl : l.last = x.pc) (hleft : l.left ≤ 1) :
    nextPc x = { x with pc := (x.pc + 1) % 4096, loops := [], wait := none } := by
  simp [nextPc, goOn, afterInstr, h, hl, Nat.not_lt.2 hleft]

theorem branchHolds_ops (a c : Word) : branchHolds 0 a c = decide (a = c) ∧ branchHolds 1 a c = decide (a ≠ c) ∧
    branchHolds 2 a c = decide (a.toInt < c.toInt) ∧ branchHolds 3 a c = decide (c.toInt ≤ a.toInt) ∧
    branchHolds 4 a c = decide (a.toNat < c.toNat) ∧ branchHolds 5 a c = decide (c.toNat ≤ a.toNat) := by
  refine ⟨?_, ?_, rfl, rfl, rfl, rfl⟩
  · exact beq_eq_decide ..
  · exact (congrArg not (beq_eq_decide a c)).trans (by simp)

/-- Settles O8: each instruction by its own rule, then what `nextPc` does in and out of a loop. -/
theorem controlFlowMovesTheProgramCounter : Obligations.ControlFlowMovesTheProgramCounter := by
  refine ⟨?nop, ?bccNot, ?bccStay, ?bccLeave, ?jmp, ?call, ?ret, ?loopSkip, ?loopOpen, ?loopThird, fun _ => nextPc_of_no_loops,
    fun _ _ _ => nextPc_of_other_last, fun _ _ _ => nextPc_of_again, fun _ _ => nextPc_of_loop_end, branchHolds_ops⟩
  case nop => exact fun b s n x h => (exec_of_issueOwn h rfl rfl :)
  case bccNot =>
    intro b cond sa sb off s n x h hb
    simp [exec_bcc h, hb]
  case bccStay =>
    intro b cond sa sb off s n x h hb hl
    obtain rfl := bobbin_of_issuing h
    simp [exec_bcc h, hb, jumpTo_of_stays hl]
  case bccLeave =>
    intro b cond sa sb off s n x h hb hl
    obtain rfl := bobbin_of_issuing h
    simp [exec_bcc h, hb, jumpTo_of_leaves hl]
  case jmp =>
    intro b sd sa target s n x h hl
    obtain rfl := bobbin_of_issuing h
    rw [exec_jmp h, if_neg (by decide), if_neg (by decide), jumpTo_of_stays hl]
    rfl
  case call =>
    intro b sd sa target s n x h hl
    obtain rfl := bobbin_of_issuing h
    rw [exec_jmp h, if_neg (by decide), if_pos rfl, jumpTo_of_stays hl]
    rfl
  case ret =>
    intro b sd sa target s n x h hl
    obtain rfl := bobbin_of_issuing h
    rw [exec_jmp h, if_pos rfl, jumpTo_of_stays hl]
    rfl
  case loopSkip =>
    intro b sa len s n x h hc
    simp [exec_loop h, hc]
  case loopOpen =>
    intro b sa len s n x h hc hl hlev
    rw [exec_loop_of_counts h hc hl, if_neg (by omega)]
  case loopThird =>
    intro b sa len s n x h hc hl hlev
    rw [exec_loop_of_counts h hc hl, if_pos hlev]
/-! ### Loads, stores and address generators (R232) -/

theorem exec_of_issueMem {i : Instr} {b : BobbinIssue} {w : Word} {use : MemUse} {f : Bobbin → Option Bobbin} {code : Nat}
    {s : State} {n : Nat} {x : Bobbin} (h : issuing i s = some (n, x)) (hw : bobbinWord i = some (b, w))
    (he : exec i s = issueMem b w use f code s) :
    exec i s = .next (match f x with
      | some y => putBobbin n (nextPc y) s
      | none => bobbinFault n code s) := by
  obtain rfl := bobbin_of_issuing h
  unfold issueMem at he
  rw [exec_of_issueWith h hw he]
  split <;> simp_all [updBobbin_eq_putBobbin]

/-- A load or store whose address is `a`, in range or not. -/
theorem exec_of_issueMem_range {i : Instr} {b : BobbinIssue} {w : Word} {use : MemUse} {f : Bobbin → Option Bobbin} {code : Nat}
    {s : State} {n : Nat} {x : Bobbin} (a : Nat) (y : Bobbin) (h : issuing i s = some (n, x)) (hw : bobbinWord i = some (b, w))
    (he : exec i s = issueMem b w use f code s) (hf : f x = if a < 2048 then some y else none) :
    (a < 2048 → exec i s = .next (putBobbin n (nextPc y) s)) ∧ (2048 ≤ a → exec i s = .next (bobbinFault n code s)) := by
  rw [exec_of_issueMem h hw he, hf]
  exact ⟨fun ha => by rw [if_pos ha], fun ha => by rw [if_neg (Nat.not_lt.2 ha)]⟩

section
variable {b : BobbinIssue} {s : State} {n : Nat} {x : Bobbin}

theorem exec_vld {vd : BitVec 5} {sa : BitVec 4} {off : BitVec 11} (h : issuing (.vld b vd sa off) s = some (n, x)) :
    (addrOf (sReg x sa.toNat) off < 2048 → exec (.vld b vd sa off) s = .next (putBobbin n (nextPc (setV vd.toNat
      (vmGet x (addrOf (sReg x sa.toNat) off)) x)) s)) ∧
    (2048 ≤ addrOf (sReg x sa.toNat) off → exec (.vld b vd sa off) s = .next (bobbinFault n 3 s)) :=
  exec_of_issueMem_range _ _ h rfl (show _ = execVld b vd sa off s from rfl) rfl

theorem exec_vst {vs : BitVec 5} {sa : BitVec 4} {off : BitVec 11} (h : issuing (.vst b vs sa off) s = some (n, x)) :
    (addrOf (sReg x sa.toNat) off < 2048 → exec (.vst b vs sa off) s = .next (putBobbin n (nextPc (vmSet
      (addrOf (sReg x sa.toNat) off) (vReg x vs.toNat) x)) s)) ∧
    (2048 ≤ addrOf (sReg x sa.toNat) off → exec (.vst b vs sa off) s = .next (bobbinFault n 3 s)) :=
  exec_of_issueMem_range _ _ h rfl (show _ = execVst b vs sa off s from rfl) rfl

theorem exec_vlda {vd : BitVec 5} {ag : BitVec 2} (h : issuing (.vlda b vd ag) s = some (n, x)) :
    ((agReg x ag.toNat).cur.toNat < 2048 → exec (.vlda b vd ag) s = .next (putBobbin n (nextPc (setAg ag.toNat
      (stepAg (agReg x ag.toNat)) (setV vd.toNat (vmGet x (agReg x ag.toNat).cur.toNat) x))) s)) ∧
    (2048 ≤ (agReg x ag.toNat).cur.toNat → exec (.vlda b vd ag) s = .next (bobbinFault n 3 s)) :=
  exec_of_issueMem_range _ _ h rfl (show _ = execVlda b vd ag s from rfl) rfl

theorem exec_vsta {vs : BitVec 5} {ag : BitVec 2} {p : BitVec 3} (h : issuing (.vsta b vs ag p) s = some (n, x)) :
    ((agReg x ag.toNat).cur.toNat < 2048 → exec (.vsta b vs ag p) s = .next (putBobbin n (nextPc (setAg ag.toNat
      (stepAg (agReg x ag.toNat)) (vmSet (agReg x ag.toNat).cur.toNat (byMask (pReg x p.toNat) (lane (vReg x vs.toNat))
        (vmGet x (agReg x ag.toNat).cur.toNat)) x))) s)) ∧
    (2048 ≤ (agReg x ag.toNat).cur.toNat → exec (.vsta b vs ag p) s = .next (bobbinFault n 3 s)) :=
  exec_of_issueMem_range _ _ h rfl (show _ = execVsta b vs ag p s from rfl) rfl

theorem exec_sld {sd sa : BitVec 4} {off : BitVec 11} (h : issuing (.sld b sd sa off) s = some (n, x)) :
    (addrOf (sReg x sa.toNat) off < 2048 → exec (.sld b sd sa off) s = .next (putBobbin n (nextPc (setS sd.toNat
      (smemGet x (addrOf (sReg x sa.toNat) off)) x)) s)) ∧
    (2048 ≤ addrOf (sReg x sa.toNat) off → exec (.sld b sd sa off) s = .next (bobbinFault n 4 s)) :=
  exec_of_issueMem_range _ _ h rfl (show _ = execSld b sd sa off s from rfl) rfl

theorem exec_sst {ss sa : BitVec 4} {off : BitVec 11} (h : issuing (.sst b ss sa off) s = some (n, x)) :
    (addrOf (sReg x sa.toNat) off < 2048 → exec (.sst b ss sa off) s = .next (putBobbin n (nextPc (smemSet
      (addrOf (sReg x sa.toNat) off) (sReg x ss.toNat) x)) s)) ∧
    (2048 ≤ addrOf (sReg x sa.toNat) off → exec (.sst b ss sa off) s = .next (bobbinFault n 4 s)) :=
  exec_of_issueMem_range _ _ h rfl (show _ = execSst b ss sa off s from rfl) rfl

end

theorem stepAg_in_row {g : AddrGen} (h : g.steps + 1 < g.countX.toNat) :
    stepAg g = { g with cur := g.cur + g.strideX, steps := g.steps + 1 } := by
  refine if_neg fun he => ?_
  have := congrArg BitVec.toNat he
  simp only [wordOf, BitVec.toNat_ofNat] at this
  omega

theorem stepAg_at_row_end {g : AddrGen} (h : g.steps + 1 = g.countX.toNat) :
    stepAg g = { g with row := g.row + g.strideY, cur := g.row + g.strideY, steps := 0 } :=
  if_pos (by simp [wordOf, h])

/-- Within its row a generator goes by STRIDE_X from the row's start. -/
theorem repeat_stepAg {g : AddrGen} {k : Nat} (h0 : g.steps = 0) (hk : k < g.countX.toNat) :
    Nat.repeat stepAg k g = { g with cur := g.cur + wordOf k * g.strideX, steps := k } := by
  induction k with
  | zero =>
    have h0x : g.cur + wordOf 0 * g.strideX = g.cur := by simp [wordOf]
    rw [h0x, Nat.repeat, ← h0]
  | succ k ih =>
    rw [Nat.repeat, ih (by omega), stepAg_in_row hk]
    congr 1
    change g.cur + wordOf k * g.strideX + g.strideX = g.cur + wordOf (k + 1) * g.strideX
    rw [wordOf, wordOf, BitVec.ofNat_add, BitVec.add_mul, BitVec.one_mul, BitVec.add_assoc]

theorem repeat_stepAg_row {g : AddrGen} (h0 : g.steps = 0) (hc : g.countX ≠ 0) :
    Nat.repeat stepAg g.countX.toNat g = { g with row := g.row + g.strideY, cur := g.row + g.strideY, steps := 0 } := by
  obtain ⟨k, hk⟩ : ∃ k, g.countX.toNat = k + 1 :=
    Nat.exists_eq_succ_of_ne_zero fun h => hc (BitVec.eq_of_toNat_eq h)
  rw [hk, Nat.repeat, repeat_stepAg h0 (by omega), stepAg_at_row_end hk.symm]

/-- Settles O9: each instruction by its own rule, then the generators and the memories. -/
theorem loadsAndStoresStayInTheirBobbin : Obligations.LoadsAndStoresStayInTheirBobbin := by
  refine ⟨fun b vd sa off s n x h => (exec_vld h).1, fun b vs sa off s n x h => (exec_vst h).1, fun b vd ag s n x h => (exec_vlda h).1,
    fun b vs ag p s n x h => (exec_vsta h).1, fun b ag sa sb s n x h => (exec_of_issueOwn h rfl rfl :),
    fun b ag sa sb s n x h => (exec_of_issueOwn h rfl rfl :), fun b sd sa off s n x h => (exec_sld h).1,
    fun b ss sa off s n x h => (exec_sst h).1, fun _ => stepAg_in_row, fun _ => stepAg_at_row_end, fun g k h0 hc hk => ?_,
    fun _ => repeat_stepAg_row, fun m a c w h => smGet_smSet a c w h, fun m a c v h => smGet_smSet a c v h⟩
  rw [repeat_stepAg h0 hk, ← hc]
  exact ⟨rfl, rfl⟩

/-! ### Faults of a bobbin (R257) -/

/-- What the moves of a fault and of the end of a run leave of the kernels: the user kernels and the versions in the front. -/
def SameKernels (s u : State) : Prop := u.engines.user = s.engines.user ∧ u.front.versions = s.front.versions

theorem SameKernels.refl (s : State) : SameKernels s s := ⟨rfl, rfl⟩

theorem SameKernels.trans {a b c : State} (h : SameKernels a b) (h' : SameKernels b c) : SameKernels a c :=
  ⟨h'.1.trans h.1, h'.2.trans h.2⟩

theorem SameKernels.foldl {α : Type} {f : State → α → State} (hf : ∀ s a, SameKernels s (f s a)) (l : List α) (s : State) :
    SameKernels s (l.foldl f s) := by
  induction l generalizing s with
  | nil => exact .refl s
  | cons a l ih => exact (hf s a).trans (ih _)

theorem sameKernels_raise (code a0 a1 a2 : Nat) (s : State) : SameKernels s (raise code a0 a1 a2 s) := by
  simp [SameKernels]

theorem sameKernels_ite {c : Prop} [Decidable c] {s a b : State} (ha : SameKernels s a) (hb : SameKernels s b) :
    SameKernels s (if c then a else b) := by
  split
  · exact ha
  · exact hb

theorem sameKernels_reportUe (region chest : Nat) (s : State) : SameKernels s (reportUe region chest s) :=
  sameKernels_ite (.refl s) (SameKernels.trans ⟨rfl, rfl⟩ (sameKernels_raise ..))

theorem sameKernels_countCommonUe (region ctl n : Nat) (s : State) : SameKernels s (countCommonUe region ctl n s) :=
  sameKernels_ite (.refl s) (SameKernels.trans ⟨rfl, rfl⟩ (sameKernels_reportUe ..))

theorem sameKernels_correctRead (a n : Nat) (s : State) : SameKernels s (correctRead a n s) := by
  obtain ⟨soft, cnt, h⟩ := correctRead_eq a n s
  exact h ▸ ⟨rfl, rfl⟩

theorem sameKernels_markEcc (hits : List EccHit) (s : State) : SameKernels s (markEcc hits s) := by
  obtain ⟨free, dram, desc, bad, soft, h⟩ := markEcc_eq hits s
  exact h ▸ ⟨rfl, rfl⟩

theorem sameKernels_updBobbin (n : Nat) (f : Bobbin → Bobbin) (s : State) : SameKernels s (updBobbin n f s) := ⟨rfl, rfl⟩

theorem sameKernels_remoteWrite (n : Nat) (w : Window) (a : Nat) (bs : List Byte) (s : State) :
    SameKernels s (remoteWrite n w a bs s) :=
  sameKernels_ite (by simp [SameKernels]) ⟨rfl, rfl⟩

theorem sameKernels_moveData (n : Nat) (tr : Transfer) (ecc : List EccHit) (s : State) : SameKernels s (moveData n tr ecc s) := by
  unfold moveData
  split
  · exact .refl s
  · refine sameKernels_ite (sameKernels_remoteWrite ..) (SameKernels.trans ?_ (.foldl (fun s k => sameKernels_countCommonUe ..) ..))
    refine SameKernels.trans (sameKernels_ite ?_ (.refl s)) (sameKernels_updBobbin ..)
    exact (sameKernels_markEcc ..).trans (sameKernels_correctRead ..)

theorem sameKernels_finishTransfers (n : Nat) (s : State) : SameKernels s (finishTransfers n s) :=
  (sameKernels_updBobbin ..).trans (.foldl (fun _ _ => sameKernels_moveData ..) ..)

theorem sameKernels_finishKernel (kid : Nat) (s : State) : SameKernels s (finishKernel kid s) :=
  .foldl (fun s n => sameKernels_finishTransfers n s) ..

theorem sameKernels_powerLimit (a0 a1 : Nat) (s : State) : SameKernels s (powerLimit a0 a1 s) :=
  sameKernels_ite (.refl s) (SameKernels.trans ⟨rfl, rfl⟩ (sameKernels_raise ..))

theorem sameKernels_arbitrate (s : State) : SameKernels s (arbitrate s) := by
  unfold arbitrate
  extract_lets +onlyGivenNames c g0 before g1 g2 x s1
  have h1 : SameKernels s s1 := ⟨rfl, rfl⟩
  clear_value s1
  extract_lets +onlyGivenNames s2
  have h2 : SameKernels s s2 := sameKernels_ite (h1.trans (sameKernels_powerLimit ..)) h1
  clear_value s2
  extract_lets +onlyGivenNames rest none s3
  have h3 : SameKernels s s3 := sameKernels_ite (h2.trans (sameKernels_powerLimit ..)) h2
  clear_value s3
  exact sameKernels_ite (h3.trans ⟨rfl, rfl⟩) h3

/-- A user kernel is read from the list of user kernels alone. -/
theorem kernel_of_sameKernels {s u : State} {kid : Nat} (h : SameKernels s u) (hk : kid < 16) : kernel u kid = kernel s kid := by
  rw [kernel, kernel, if_pos hk, if_pos hk, h.1]

theorem kernel_updKernel {kid : Nat} {f : Kernel → Kernel} {s : State} (hk : kid < 16) (hlen : kid < s.engines.user.length) :
    kernel (updKernel kid f s) kid = f (kernel s kid) := by
  simp [kernel, updKernel, hk, List.getD_eq_getElem?_getD, List.getElem?_eq_getElem hlen]

theorem length_user_updKernel (kid : Nat) (f : Kernel → Kernel) (s : State) :
    (updKernel kid f s).engines.user.length = s.engines.user.length := by
  unfold updKernel
  split <;> simp

theorem user_stopBobbins (l : List Nat) (s : State) :
    (l.foldl (fun s n => updBobbin n stoppedBobbin s) s).engines.user = s.engines.user :=
  (SameKernels.foldl (fun s n => sameKernels_updBobbin n stoppedBobbin s) l s).1

/-- A kernel that ends has the phase it ends in. -/
theorem kernel_endKernel {kid : Nat} {ph : KernelPhase} {s : State} (hk : kid < 16) (hlen : kid < s.engines.user.length) :
    kernel (endKernel kid ph s) kid = { kernel s kid with phase := ph } := by
  unfold endKernel
  extract_lets +onlyGivenNames s1
  have hu : s1.engines.user = s.engines.user := user_stopBobbins _ _
  rw [kernel_of_sameKernels (sameKernels_arbitrate _) hk, kernel_updKernel hk (hu ▸ hlen)]
  simp only [kernel, if_pos hk, hu]

theorem length_user_endKernel (kid : Nat) (ph : KernelPhase) (s : State) :
    (endKernel kid ph s).engines.user.length = s.engines.user.length := by
  unfold endKernel
  rw [(sameKernels_arbitrate _).1, length_user_updKernel, user_stopBobbins]
  rfl

theorem versions_endKernel {kid : Nat} {ph : KernelPhase} {s : State} (h : s.front.versions = []) :
    (endKernel kid ph s).front.versions = [] := by
  unfold endKernel
  rw [(sameKernels_arbitrate _).2, updKernel_front, (SameKernels.foldl (fun s n => sameKernels_updBobbin n stoppedBobbin s) ..).2]
  simp [leaveSlot, h]

theorem kernel_faultKernel {kid code b pc : Nat} {s : State} (hk : kid < 16) (hlen : kid < s.engines.user.length) :
    kernel (faultKernel kid code b pc s) kid = { kernel s kid with
      phase := .faulted, fault := BitVec.ofNat 8 code, faultBobbin := BitVec.ofNat 8 b, faultPc := BitVec.ofNat 12 pc } := by
  simp only [faultKernel, if_pos hk]
  rw [kernel_of_sameKernels (sameKernels_raise ..) hk, kernel_updKernel hk (by rwa [length_user_endKernel]), kernel_endKernel hk hlen]

theorem versions_faultKernel {kid code b pc : Nat} {s : State} (hk : kid < 16) (h : s.front.versions = []) :
    (faultKernel kid code b pc s).front.versions = [] := by
  simp only [faultKernel, if_pos hk]
  rw [raise_front, updKernel_front, versions_endKernel h]

/-- With no version in the front there is nothing to move between the front and the bobbins. -/
theorem pump_of_no_versions {s : State} (h : s.front.versions = []) : pump s = s := if_pos (by rw [h]; rfl)

/-- A fault of a bobbin ends its kernel with the fault's code and bobbin. -/
theorem kernel_bobbinFault {n code : Nat} {s : State} (hk : (bobbin s n).kid < 16)
    (hlen : (bobbin s n).kid < s.engines.user.length) (hv : s.front.versions = []) :
    kernel (bobbinFault n code s) (bobbin s n).kid = { kernel s (bobbin s n).kid with
      phase := .faulted, fault := BitVec.ofNat 8 code, faultBobbin := BitVec.ofNat 8 n,
      faultPc := BitVec.ofNat 12 (bobbin s n).pc } := by
  obtain ⟨hu, hvs⟩ := sameKernels_finishKernel (bobbin s n).kid s
  rw [bobbinFault, pump_of_no_versions (versions_faultKernel hk (hvs.trans hv)), kernel_faultKernel hk (by rwa [hu]),
    kernel_of_sameKernels ⟨hu, hvs⟩ hk]

/-- Settles O10: the parity errors, then each load and store out of range, then what a fault leaves of the kernel. -/
theorem bobbinMemoryErrorsFault : Obligations.BobbinMemoryErrorsFault := by
  refine ⟨fun b w use f code s hp hv hi => issueWith_of_parity hi hp hv, fun use => by cases use <;> exact ⟨rfl, rfl⟩, rfl, rfl, rfl,
    ?vldParity, fun b vd sa off s n x h => (exec_vld h).2, fun b vs sa off s n x h => (exec_vst h).2,
    fun b vd ag s n x h => (exec_vlda h).2, fun b vs ag p s n x h => (exec_vsta h).2, fun b sd sa off s n x h => (exec_sld h).2,
    fun b ss sa off s n x h => (exec_sst h).2, ?kernel⟩
  case vldParity =>
    intro b vd sa off s w hw hi hp hv
    obtain ⟨-, rfl⟩ := Prod.mk.inj (Option.some.inj hw)
    have hf : parityFault b.parity .own = some 2 := by rw [hp]; rfl
    have he : exec (.vld b vd sa off) s = execVld b vd sa off s := rfl
    unfold execVld issueMem at he
    exact he.trans (issueWith_of_parity hi hf hv)
  case kernel =>
    intro n code s hk hlen hv
    rw [kernel_bobbinFault hk hlen hv]
    exact ⟨rfl, rfl, rfl⟩
/-! ### Transfers (R233) -/

@[simp] theorem kernel_updBobbin (n : Nat) (f : Bobbin → Bobbin) (s : State) (kid : Nat) :
    kernel (updBobbin n f s) kid = kernel s kid := rfl

theorem waitFor_eq_putBobbin (n : Nat) (w : BobbinWait) (s : State) :
    waitFor n w s = putBobbin n { bobbin s n with wait := some w, waitSpan := ⟨s.now.real, 0⟩ } s := updBobbin_eq_putBobbin ..

section
variable {b : BobbinIssue} {s : State} {n : Nat} {x : Bobbin}

/-- The transfer an XFER asks for. -/
def xferOf (x : Bobbin) (sl sr sc : BitVec 4) (tag : BitVec 3) (scalar outward : Bool) (space : BitVec 2) : Transfer :=
  ⟨tag.toNat, (sReg x sl.toNat).toNat, (sReg x sr.toNat).toNat, (sReg x sc.toNat).toNat, scalar, outward, space.toNat⟩

theorem exec_xfer {sl sr sc : BitVec 4} {tag : BitVec 3} {scalar outward : Bool} {space : BitVec 2}
    (h : issuing (.xfer b sl sr sc tag scalar outward space) s = some (n, x)) :
    exec (.xfer b sl sr sc tag scalar outward space) s = .next (xferNow n (xferOf x sl sr sc tag scalar outward space) s) := by
  obtain rfl := bobbin_of_issuing h
  have he : exec (.xfer b sl sr sc tag scalar outward space) s = execXfer b sl sr sc tag scalar outward space s := rfl
  unfold execXfer at he
  exact exec_of_issueWith h rfl he

theorem exec_xwait {sd : BitVec 4} {tag : BitVec 3} (h : issuing (.xwait b sd tag) s = some (n, x)) :
    exec (.xwait b sd tag) s = .next (if tagBusy x tag.toNat then
        putBobbin n { x with wait := some (.tag tag.toNat sd.toNat), waitSpan := ⟨s.now.real, 0⟩ } s
      else putBobbin n (takeStatus tag.toNat sd.toNat x) s) := by
  obtain rfl := bobbin_of_issuing h
  have he : exec (.xwait b sd tag) s = execXwait b sd tag s := rfl
  unfold execXwait at he
  simp only [exec_of_issueWith h rfl he, waitFor_eq_putBobbin, updBobbin_eq_putBobbin]

theorem exec_fence (h : issuing (.fence b) s = some (n, x)) :
    exec (.fence b) s = .next (if outwardBusy x then
        putBobbin n { x with wait := some .fence, waitSpan := ⟨s.now.real, 0⟩ } s
      else putBobbin n (nextPc x) s) := by
  obtain rfl := bobbin_of_issuing h
  have he : exec (.fence b) s = execFence b s := rfl
  unfold execFence at he
  simp only [exec_of_issueWith h rfl he, waitFor_eq_putBobbin, updBobbin_eq_putBobbin]

end

/-- What a transfer may reach: its window holds it, is writable where it goes out, and it starts at a whole item's bytes. -/
def InWindow (w : Window) (tr : Transfer) : Prop :=
  tr.remote + tr.count * (if tr.scalar then 4 else 40) ≤ w.size ∧ (tr.outward = true → w.writable = true) ∧
  tr.remote % (if tr.scalar then 4 else 8) = 0

section
variable {n : Nat} {tr : Transfer} {s : State} {w : Window}

theorem xferNow_of_no_window (h : windowOf (kernel s (bobbin s n).kid) tr.space = none) :
    xferNow n tr s = bobbinFault n 5 s := by
  simp [xferNow, h]

theorem xferNow_of_outside (h : windowOf (kernel s (bobbin s n).kid) tr.space = some w) (hw : ¬ InWindow w tr) :
    xferNow n tr s = bobbinFault n 5 s := by
  simp only [xferNow, h]
  refine if_pos ?_
  simp only [InWindow, itemSize, not_and_or, Bool.or_eq_true, Bool.and_eq_true, decide_eq_true_eq] at hw ⊢
  rcases hw with hw | hw | hw
  · exact .inl (.inl (decide_eq_true (Nat.not_le.1 hw)))
  · exact .inl (.inr (by simpa using hw))
  · exact .inr hw

theorem xferNow_of_window (h : windowOf (kernel s (bobbin s n).kid) tr.space = some w) (hw : InWindow w tr) :
    xferNow n tr s = if 2048 < tr.localAddr + tr.count then bobbinFault n (if tr.scalar then 4 else 3) s
      else putBobbin n (nextPc { bobbin s n with transfers := (bobbin s n).transfers ++ [tr] }) s := by
  obtain ⟨hsize, hout, halign⟩ := hw
  simp only [xferNow, h, updBobbin_eq_putBobbin]
  refine if_neg ?_
  simp only [itemSize, Bool.not_eq_true, Bool.or_eq_false_iff]
  refine ⟨⟨decide_eq_false (Nat.not_lt.2 hsize), ?_⟩, decide_eq_false (not_not.2 halign)⟩
  cases ho : tr.outward
  · rfl
  · rw [hout ho]
    rfl

end

theorem windowOf_spaces (k : Kernel) : windowOf k 3 = none ∧ windowOf k 0 = some ⟨k.region, imgPillowKib k * 1024, false, true⟩ ∧
    windowOf k 1 = some ⟨k.spillBase, k.spill * 1048576, true, true⟩ ∧
    (windowOf k 2).any (fun w => !w.writable && w.common) = true := ⟨rfl, rfl, rfl, rfl⟩

theorem exec_xferComplete {b : Fin 128} {tag : BitVec 3} {ecc : List EccHit} {s : State} {tr : Transfer} {rest : List Transfer}
    (hb : blockRuns .bobbin s = true) (h : takeTransfer tag.toNat (bobbin s b.val).transfers = some (tr, rest)) :
    exec (.xferComplete b tag ecc) s = .next (updBobbin b.val resumeXfer (moveData b.val tr ecc
      (updBobbin b.val (fun x => { x with transfers := rest }) s))) := by
  have he : exec (.xferComplete b tag ecc) s = execXferComplete b tag ecc s := rfl
  rw [he, execXferComplete, hb]
  simp only [h, Bool.not_true, Bool.false_eq_true, if_false]

/-! #### The data of a transfer -/

theorem takeItems_eq (tr : Transfer) (bs : List Byte) (x : Bobbin) :
    (tr.scalar = true → takeItems tr bs x = { x with smem := smSetMany 0 x.smem tr.localAddr (takeWords tr.count bs) }) ∧
    (tr.scalar = false → takeItems tr bs x = { x with vmem := smSetMany zeroVec x.vmem tr.localAddr (bytesVecs tr.count bs) }) :=
  ⟨fun h => if_pos h, fun h => if_neg (by simp [h])⟩

@[simp] theorem takeItems_tagUe (tr : Transfer) (bs : List Byte) (x : Bobbin) : (takeItems tr bs x).tagUe = x.tagUe := by
  unfold takeItems
  split <;> rfl

@[simp] theorem correctRead_dram (a n : Nat) (s : State) : (correctRead a n s).dram = s.dram := by
  obtain ⟨soft, cnt, h⟩ := correctRead_eq a n s
  rw [h]

@[simp] theorem correctRead_dramBad (a n : Nat) (s : State) : (correctRead a n s).dramBad = s.dramBad := by
  obtain ⟨soft, cnt, h⟩ := correctRead_eq a n s
  rw [h]

@[simp] theorem correctRead_engines (a n : Nat) (s : State) : (correctRead a n s).engines = s.engines := by
  obtain ⟨soft, cnt, h⟩ := correctRead_eq a n s
  rw [h]

@[simp] theorem correctRead_memUeCommon (a n : Nat) (s : State) : (correctRead a n s).accCnt.memUeCommon = s.accCnt.memUeCommon := by
  unfold correctRead
  split <;> rfl

section
variable {n : Nat} {tr : Transfer} {ecc : List EccHit} {s : State} {w : Window}

/-- A transfer outward writes the items of its bobbin into its window. -/
theorem moveData_outward (h : windowOf (kernel s (bobbin s n).kid) tr.space = some w) (ho : tr.outward = true) :
    moveData n tr ecc s = remoteWrite n w tr.remote (giveItems tr (bobbin s n)) s := by
  simp only [moveData, h, ho, if_true]

/-- A transfer inward from the pillow's memory takes the bytes of its window, and notes an error under its tag. -/
theorem moveData_from_pillow (h : windowOf (kernel s (bobbin s n).kid) tr.space = some w) (ho : tr.outward = false)
    (hc : w.common = false) :
    moveData n tr ecc s = updBobbin n (fun x => { takeItems tr
        (memBytes (s.engines.pillows.getD (n / 16) []) (w.base + tr.remote) (tr.count * itemSize tr.scalar)) x with
      tagUe := if ecc.any (·.double) then insNat x.tagUe tr.tag else x.tagUe }) s := by
  have hbad : transferBad s w tr = [] := by simp [transferBad, hc]
  simp only [moveData, h, ho, hc, hbad, Bool.false_eq_true, if_false, List.foldl_nil, remoteBytes]
  congr 1
  funext x
  split
  · rw [takeItems_tagUe]
  · rw [← takeItems_tagUe tr (memBytes (s.engines.pillows.getD (n / 16) []) (w.base + tr.remote) (tr.count * itemSize tr.scalar)) x]

/-- A transfer inward from common memory takes its bytes with the single-bit errors corrected, and counts the words that stay bad. -/
theorem moveData_from_common (h : windowOf (kernel s (bobbin s n).kid) tr.space = some w) (ho : tr.outward = false)
    (hc : w.common = true) :
    moveData n tr [] s = (transferBad s w tr).foldl
      (fun s k => countCommonUe (if tr.space = 1 then 7 else 6) (holderOf (8 * k)) 1 s)
      (updBobbin n (fun x =>
        let x := takeItems tr (memBytes s.dram (w.base + tr.remote) (tr.count * itemSize tr.scalar)) x
        if !(transferBad s w tr).isEmpty then { x with tagUe := insNat x.tagUe tr.tag } else x)
        (correctRead (w.base + tr.remote) (tr.count * itemSize tr.scalar) s)) := by
  have hbad : transferBad (correctRead (w.base + tr.remote) (tr.count * itemSize tr.scalar) s) w tr = transferBad s w tr := by
    simp [transferBad]
  simp only [moveData, h, ho, hc, Bool.false_eq_true, if_false, if_true, markEcc, List.foldl_nil, hbad, remoteBytes,
    correctRead_dram]

end

theorem engines_reportUe (region chest : Nat) (s : State) : (reportUe region chest s).engines = s.engines := by
  unfold reportUe
  split <;> simp

theorem accCnt_reportUe (region chest : Nat) (s : State) : (reportUe region chest s).accCnt = s.accCnt := by
  unfold reportUe
  split <;> simp

theorem bobbin_updBobbin_same {n : Nat} {f : Bobbin → Bobbin} {s : State} (h : n < s.engines.bobbins.length) :
    bobbin (updBobbin n f s) n = f (bobbin s n) := by
  simp [bobbin, List.getD_eq_getElem?_getD, List.getElem?_eq_getElem h]

/-- Settles O11: XFER by its window, then completion, waits and fences, then where the data go. -/
theorem transfersBeginWaitAndComplete : Obligations.TransfersBeginWaitAndComplete := by
  refine ⟨?begin, ?vendor, ?outside, ?own, windowOf_spaces, fun b tag ecc s tr rest => exec_xferComplete, ?waitOn, ?wait, ?fenceOn,
    ?fence, ?outPillow, ?outCommon, ?inPillow, ?inCommon, ?inBad, takeItems_eq⟩
  case begin =>
    intro b sl sr sc tag scalar outward space s n x w h hw hsize hwr hal hown
    obtain rfl := bobbin_of_issuing h
    rw [exec_xfer h, xferNow_of_window hw ⟨hsize, hwr, hal⟩]
    exact congrArg _ (if_neg (Nat.not_lt.2 hown))
  case vendor =>
    intro b sl sr sc tag scalar outward s n x h
    rw [exec_xfer h, xferNow_of_no_window (windowOf_spaces _).1]
  case outside =>
    intro b sl sr sc tag scalar outward space s n x w h hw hout
    obtain rfl := bobbin_of_issuing h
    rw [exec_xfer h, xferNow_of_outside hw]
    rintro ⟨hsize, hwr, hal⟩
    rcases hout with hout | ⟨ho, hn⟩ | hout
    · exact absurd hsize (Nat.not_le.2 hout)
    · exact absurd (hwr ho) (by simp [hn])
    · exact hout hal
  case own =>
    intro b sl sr sc tag scalar outward space s n x w h hw hsize hwr hal hown
    obtain rfl := bobbin_of_issuing h
    rw [exec_xfer h, xferNow_of_window hw ⟨hsize, hwr, hal⟩]
    exact congrArg _ (if_pos hown)
  case waitOn =>
    intro b sd tag s n x h hb
    rw [exec_xwait h, if_neg (by simpa [tagBusy] using hb)]
    simp only [takeStatus, setS, remNat, b2n]
    congr
    split <;> rfl
  case wait =>
    intro b sd tag s n x h hb
    rw [exec_xwait h, if_pos (show tagBusy x tag.toNat = true from hb)]
  case fenceOn =>
    intro b s n x h hb
    rw [exec_fence h, if_neg (by simpa [outwardBusy] using hb)]
  case fence =>
    intro b s n x h hb
    rw [exec_fence h, if_pos (show outwardBusy x = true from hb)]
  case outPillow =>
    intro n tr ecc s w h ho hc
    rw [moveData_outward h ho, remoteWrite, if_neg (by simp [hc])]
    rfl
  case outCommon =>
    intro n tr ecc s w h ho hc
    rw [moveData_outward h ho, remoteWrite, if_pos hc]
  case inPillow =>
    rintro n tr ecc s w bs h ho hc rfl
    exact moveData_from_pillow h ho hc
  case inCommon =>
    rintro n tr s w bs h ho hc hb rfl
    rw [moveData_from_common h ho hc, hb]
    rfl
  case inBad =>
    rintro n k tr s w bs hn h ho hc hb rfl
    rw [moveData_from_common h ho hc, hb]
    simp only [List.foldl_cons, List.foldl_nil, countCommonUe, one_ne_zero, if_false]
    constructor
    · rw [bobbin, engines_reportUe]
      exact (bobbin_updBobbin_same (by simpa using hn)).trans (by simp [bobbin])
    · rw [accCnt_reportUe]
      simp
/-! ### Queues and the ends of runs (R234, R241, R255) -/

/-- A bobbin that issues an instruction is one of the bobbins there are, since it runs. -/
theorem lt_length_of_issuing {i : Instr} {s : State} {n : Nat} {x : Bobbin} (h : issuing i s = some (n, x)) :
    n < s.engines.bobbins.length := by
  obtain ⟨b, w, -, -, hi, rfl, -⟩ := issues_of_issuing h
  by_contra hn
  have hx : bobbin s b.ix.val = {} := List.getD_eq_default _ _ (Nat.not_lt.1 hn)
  simp [issues, hx] at hi

section
variable {b : BobbinIssue} {s : State} {n : Nat} {x : Bobbin}

theorem exec_spop {vd : BitVec 5} {queue : Fin 2} (h : issuing (.spop b vd queue) s = some (n, x)) :
    exec (.spop b vd queue) s = .next (if (if queue.val = 0 then x.in0 else x.in1).isEmpty then
        putBobbin n { x with wait := some (.queueIn queue.val vd.toNat), waitSpan := ⟨s.now.real, 0⟩ } s
      else popNow n queue.val vd.toNat s) := by
  obtain rfl := bobbin_of_issuing h
  have he : exec (.spop b vd queue) s = execSpop b vd queue s := rfl
  unfold execSpop at he
  simp only [exec_of_issueWith h rfl he, waitFor_eq_putBobbin]

theorem exec_spush {vs : BitVec 5} (h : issuing (.spush b vs) s = some (n, x)) :
    exec (.spush b vs) s = .next (pushNow n vs.toNat s) := by
  have he : exec (.spush b vs) s = execSpush b vs s := rfl
  unfold execSpush at he
  exact exec_of_issueWith (f := fun n s => pushNow n vs.toNat s) h rfl he

theorem exec_halt (h : issuing (.halt b) s = some (n, x)) : exec (.halt b) s = .next (haltNow n s) := by
  have he : exec (.halt b) s = execHalt b s := rfl
  unfold execHalt at he
  exact exec_of_issueWith h rfl he

theorem exec_publish {t : Instant} (h : issuing (.publish b t) s = some (n, x)) :
    exec (.publish b t) s = .next (updBobbin n nextPc (publishNow n (setNow t s))) := by
  obtain ⟨b', w, hw, hclean, hissues, rfl, -⟩ := issues_of_issuing h
  obtain ⟨rfl, rfl⟩ := Prod.mk.inj (Option.some.inj hw)
  have he : exec (.publish b t) s = execPublish b t s := rfl
  rw [he, execPublish, issueWith_of_clean (s := setNow t s) hissues hclean]

/-- The queue of a pop is not empty where the kernel's queue is not. -/
theorem exec_spop_of_element {vd : BitVec 5} {queue : Fin 2} (h : issuing (.spop b vd queue) s = some (n, x))
    {e : QueueElem} {es : List QueueElem} (hq : (if queue = 0 then x.in0 else x.in1) = e :: es) :
    exec (.spop b vd queue) s = .next (popNow n queue.val vd.toNat s) := by
  have hq' : (if queue.val = 0 then x.in0 else x.in1) = e :: es := by
    rw [← hq]
    exact if_congr (by rw [Fin.ext_iff]; rfl) rfl rfl
  rw [exec_spop h, hq']
  rfl

end

theorem popNow_of_unpushed {n q vd : Nat} {s : State} (h : endUnpushed s q (bobbin s n) = true) :
    popNow n q vd s = bobbinFault n 7 s := if_pos h

/-- With no version in the front a pop moves no other data. -/
theorem popNow_of_no_versions {n q vd : Nat} {s : State} (h : endUnpushed s q (bobbin s n) = false) (hv : s.front.versions = [])
    (hd : q = 0 → dropLeftover n s = s) :
    popNow n q vd s = putBobbin n (notIdle s (nextPc (popInto q vd (bobbin s n)))) s := by
  have hs : (if q = 0 then dropLeftover n s else s) = s := by
    split
    · exact hd ‹_›
    · rfl
  rw [popNow, if_neg (by simp [h])]
  simp only [hs, updBobbin_eq_putBobbin]
  exact pump_of_no_versions hv

theorem dropLeftover_of_not_last {n : Nat} {s : State} (h : bitAt ((bobbin s n).meta0.getD 0 0) 9 = false) :
    dropLeftover n s = s := if_pos (by rw [h]; simp)

theorem popInto_one {vd : Nat} {x : Bobbin} {e : QueueElem} {es : List QueueElem} (h : x.in1 = e :: es) :
    popInto 1 vd x = { x with v := x.v.set vd e.vec, in1 := es, meta1 := e.fields } := by
  simp [popInto, h, setV]

theorem popInto_zero {vd : Nat} {x : Bobbin} {e : QueueElem} {es : List QueueElem} (h : x.in0 = e :: es) (ho : x.owed = []) :
    popInto 0 vd x = { x with v := x.v.set vd e.vec, in0 := es, meta0 := e.fields } := by
  simp [popInto, h, ho, setV]

theorem notIdle_nextPc (s : State) (x : Bobbin) : notIdle s (nextPc x) = nextPc { x with idleSpan := ⟨s.now.real, 0⟩ } := rfl

section
variable {n vs : Nat} {s : State}

theorem pushNow_of_faults (h : pushFaults s n = true) : pushNow n vs s = bobbinFault n 7 s := if_pos h

theorem pushNow_of_full (h : pushFaults s n = false) (hq : 32 ≤ (bobbin s n).outq.length) :
    pushNow n vs s = putBobbin n { bobbin s n with wait := some (.queueOut vs), waitSpan := ⟨s.now.real, 0⟩ } s := by
  rw [pushNow, if_neg (by simp [h]), if_pos hq, waitFor_eq_putBobbin]

theorem pushNow_of_room (h : pushFaults s n = false) (hq : (bobbin s n).outq.length < 32) :
    pushNow n vs s = pump (putBobbin n (nextPc { bobbin s n with
      outq := (bobbin s n).outq ++ [⟨vReg (bobbin s n) vs, []⟩], idleSpan := ⟨s.now.real, 0⟩ }) s) := by
  rw [pushNow, if_neg (by simp [h]), if_neg (Nat.not_le.2 hq), updBobbin_eq_putBobbin]
  rfl

end

theorem exec_queueWaitRelease_of_element {b : Fin 128} {s : State} {q vd : Nat} {e : QueueElem} {es : List QueueElem}
    (hg : grantedAt s (b.val / 16) = true) (hb : blockRuns .bobbin s = true)
    (hw : (bobbin s b.val).wait = some (.queueIn q vd)) (hq : (if q = 0 then (bobbin s b.val).in0 else (bobbin s b.val).in1) = e :: es) :
    exec (.queueWaitRelease b) s = .next (popNow b.val q vd s) := by
  have he : exec (.queueWaitRelease b) s = execQueueWaitRelease b s := rfl
  rw [he, execQueueWaitRelease]
  simp only [hg, hb, hw, hq, List.isEmpty_cons, Bool.not_true, Bool.or_false, Bool.false_eq_true, if_false]

section
variable {n : Nat} {s : State}

theorem haltNow_of_inline (h : imgSlot (kernel s (bobbin s n).kid) = 1 ∨ imgSlot (kernel s (bobbin s n).kid) = 2) :
    haltNow n s = bobbinFault n 8 s := if_pos (by simpa using h)

/-- A kernel of no slot ends with the last of its bobbins that halts. -/
theorem haltNow_of_not_inline (h1 : imgSlot (kernel s (bobbin s n).kid) ≠ 1) (h2 : imgSlot (kernel s (bobbin s n).kid) ≠ 2) :
    haltNow n s = if imgSlot (kernel s (bobbin s n).kid) = 0 ∧ ∀ c ∈ (kernel s (bobbin s n).kid).bobbins,
        (bobbin (putBobbin n { bobbin s n with running := false, halted := true } s) c).halted = true then
      endKernel (bobbin s n).kid .stopped
        (finishKernel (bobbin s n).kid (putBobbin n { bobbin s n with running := false, halted := true } s))
      else putBobbin n { bobbin s n with running := false, halted := true } s := by
  rw [haltNow]
  simp only [updBobbin_eq_putBobbin]
  rw [if_neg (by simpa using ⟨h1, h2⟩)]
  refine if_congr ?_ rfl rfl
  simp only [Bool.and_eq_true, decide_eq_true_eq, List.all_eq_true]
  exact Iff.rfl

end

theorem bobbin_putBobbin_of_ne {n c : Nat} {x : Bobbin} {s : State} (h : c ≠ n) : bobbin (putBobbin n x s) c = bobbin s c := by
  simp [bobbin, List.getD_eq_getElem?_getD, h.symm]

theorem bobbin_putBobbin_same {n : Nat} {x : Bobbin} {s : State} (h : n < s.engines.bobbins.length) :
    bobbin (putBobbin n x s) n = x := by
  simp [bobbin, List.getD_eq_getElem?_getD, h]

theorem user_putBobbin (n : Nat) (x : Bobbin) (s : State) : (putBobbin n x s).engines.user = s.engines.user := rfl

theorem publishNow_of_no_result {n : Nat} {s : State} (h : imgResult (kernel s (bobbin s n).kid) = 0xFFFFFFFF) :
    publishNow n s = s := if_pos (by rw [h]; rfl)

theorem bobbins_updKernel (kid : Nat) (f : Kernel → Kernel) (s : State) :
    (updKernel kid f s).engines.bobbins = s.engines.bobbins := by
  unfold updKernel
  split <;> rfl

theorem bobbin_of_bobbins {s u : State} {n : Nat} (h : u.engines.bobbins = s.engines.bobbins) : bobbin u n = bobbin s n := by
  rw [bobbin, bobbin, h]

/-- The first result of a kernel: its block, its number and its time. -/
theorem publishNow_first {n : Nat} {s : State} (h : imgResult (kernel s (bobbin s n).kid) ≠ 0xFFFFFFFF)
    (hl : (kernel s (bobbin s n).kid).lastResult = none) (hk : (bobbin s n).kid < 16)
    (hlen : (bobbin s n).kid < s.engines.user.length) :
    kernel (publishNow n s) (bobbin s n).kid = { kernel s (bobbin s n).kid with
      result := memWords (s.engines.pillows.getD (n / 16) [])
        ((kernel s (bobbin s n).kid).region + (imgResult (kernel s (bobbin s n).kid)).toNat) 64
      resultSeq := (kernel s (bobbin s n).kid).resultSeq + 1, lastResult := some s.now.real } ∧
    (publishNow n s).engines.bobbins = s.engines.bobbins := by
  rw [publishNow]
  simp only [hl, if_true]
  rw [if_neg (by simpa using h), kernel_of_sameKernels (sameKernels_raise ..) hk, kernel_updKernel hk hlen, raise_engines,
    bobbins_updKernel]
  exact ⟨rfl, rfl⟩

/-- Settles O12: pops and pushes by their rules, then HALT by the kernel's slot, then PUBLISH. -/
theorem streamQueuesAndEndsOfRuns : Obligations.StreamQueuesAndEndsOfRuns := by
  refine ⟨?popWait, ?popOne, ?popZero, ?popFault, ?pushFault, ?pushWait, ?push, ?release, ?haltFault, ?haltTap, ?haltSome, ?haltLast,
    ?publishNone, ?publish⟩
  case popWait =>
    intro b vd queue s n x h hq
    have hq' : (if queue.val = 0 then x.in0 else x.in1) = [] := by
      rw [← hq]
      exact if_congr (by rw [Fin.ext_iff]; rfl) rfl rfl
    rw [exec_spop h, hq']
    rfl
  case popOne =>
    intro b vd s n x e es h hq hv hu
    obtain rfl := bobbin_of_issuing h
    rw [exec_spop_of_element h hq]
    exact congrArg _ ((popNow_of_no_versions hu hv (absurd · (by decide))).trans (by rw [notIdle_nextPc]; simp [popInto_one hq]))
  case popZero =>
    intro b vd s n x e es h hq hv ho hu h9
    obtain rfl := bobbin_of_issuing h
    rw [exec_spop_of_element h hq]
    exact congrArg _ ((popNow_of_no_versions hu hv fun _ => dropLeftover_of_not_last h9).trans
      (by rw [notIdle_nextPc]; simp [popInto_zero hq ho]))
  case popFault =>
    intro b vd queue s n x e es h hq hu
    obtain rfl := bobbin_of_issuing h
    rw [exec_spop_of_element h hq, popNow_of_unpushed hu]
  case pushFault =>
    intro b vs s n x h hf
    rw [exec_spush h, pushNow_of_faults hf]
  case pushWait =>
    intro b vs s n x h hf hq
    obtain rfl := bobbin_of_issuing h
    rw [exec_spush h, pushNow_of_full hf hq]
  case push =>
    intro b vs s n x h hf hq
    obtain rfl := bobbin_of_issuing h
    rw [exec_spush h, pushNow_of_room hf hq]
  case release =>
    intro b s vd e es hg hb hw hq hv hu
    rw [exec_queueWaitRelease_of_element hg hb hw hq, popNow_of_no_versions hu hv (absurd · (by decide)), notIdle_nextPc]
    simp [popInto_one hq]
  case haltFault =>
    intro b s n x h hs
    obtain rfl := bobbin_of_issuing h
    rw [exec_halt h, haltNow_of_inline hs]
  case haltTap =>
    intro b s n x h hs
    obtain rfl := bobbin_of_issuing h
    rw [exec_halt h, haltNow_of_not_inline (by omega) (by omega), if_neg fun hc => by omega]
  case haltSome =>
    intro b s n x c h hs hc hcn hh
    obtain rfl := bobbin_of_issuing h
    rw [exec_halt h, haltNow_of_not_inline (by omega) (by omega), if_neg]
    intro hall
    have := hall.2 c hc
    rw [bobbin_putBobbin_of_ne hcn, hh] at this
    exact Bool.noConfusion this
  case haltLast =>
    rintro b s n x u h hs hall rfl
    obtain rfl := bobbin_of_issuing h
    refine ⟨?_, fun hk hlen => ?_⟩
    · rw [exec_halt h, haltNow_of_not_inline (by omega) (by omega), if_pos]
      refine ⟨hs, fun c hc => ?_⟩
      by_cases hcn : c = n
      · rw [hcn, bobbin_putBobbin_same (lt_length_of_issuing h)]
      · rw [bobbin_putBobbin_of_ne hcn]
        exact hall c hc hcn
    · rw [kernel_endKernel hk]
      rwa [(sameKernels_finishKernel _ _).1, user_putBobbin]
  case publishNone =>
    intro b t s n x h hr
    obtain rfl := bobbin_of_issuing h
    rw [exec_publish h, publishNow_of_no_result (s := setNow t s) hr, updBobbin_eq_putBobbin]
    rfl
  case publish =>
    intro b t s n x h hr hl hlen hk
    obtain rfl := bobbin_of_issuing h
    obtain ⟨hk', hb⟩ := publishNow_first (s := setNow t s) hr hl hk hlen
    refine ⟨_, exec_publish h, ?_⟩
    rw [kernel_updBobbin, bobbin_updBobbin_same (by rw [hb]; exact (lt_length_of_issuing h : n < s.engines.bobbins.length)), bobbin_of_bobbins hb]
    exact ⟨congrArg Kernel.resultSeq hk', congrArg Kernel.result hk', congrArg Kernel.lastResult hk', rfl⟩
/-! ### Barriers, semaphores and atomic words (R235) -/

section
variable {b : BobbinIssue} {s : State} {n : Nat} {x : Bobbin}

theorem exec_bar {k : Fin 4} (h : issuing (.bar b k) s = some (n, x)) :
    exec (.bar b k) s = .next (putBobbin n { x with wait := some (.barrier k.val), waitSpan := ⟨s.now.real, 0⟩ } s) := by
  obtain rfl := bobbin_of_issuing h
  have he : exec (.bar b k) s = execBar b k s := rfl
  unfold execBar at he
  rw [exec_of_issueWith (f := fun c s => waitFor c (.barrier k.val) s) h rfl he, waitFor_eq_putBobbin]

theorem exec_sem {wait : Bool} {k : Fin 4} (h : issuing (.sem b wait k) s = some (n, x)) :
    exec (.sem b wait k) s = .next (if !wait then updBobbin n nextPc (postSem n k.val s)
      else if semOf s n k.val = 0 then
        putBobbin n { x with wait := some (.semaphore k.val), waitSpan := ⟨s.now.real, 0⟩ } s
      else takeSem n k.val s) := by
  obtain rfl := bobbin_of_issuing h
  have he : exec (.sem b wait k) s = execSem b wait k s := rfl
  unfold execSem at he
  simp only [exec_of_issueWith h rfl he, waitFor_eq_putBobbin]

theorem exec_atom {sd sa sb : BitVec 4} {op : BitVec 2} (h : issuing (.atom b sd sa sb op) s = some (n, x)) :
    exec (.atom b sd sa sb op) s = .next (atomNow n sd.toNat sa.toNat sb.toNat op.toNat s) := by
  have he : exec (.atom b sd sa sb op) s = execAtom b sd sa sb op s := rfl
  unfold execAtom at he
  exact exec_of_issueWith (f := fun n s => atomNow n sd.toNat sa.toNat sb.toNat op.toNat s) h rfl he

end

@[simp] theorem bobbin_setSem (n k : Nat) (v : BitVec 16) (s : State) (m : Nat) : bobbin (setSem n k v s) m = bobbin s m := rfl

theorem takeSem_eq (n k : Nat) (s : State) :
    takeSem n k s = putBobbin n (nextPc (bobbin s n)) (setSem n k (semOf s n k - 1) s) := updBobbin_eq_putBobbin ..

theorem postSem_of_room {n k : Nat} {s : State} (h : semOf s n k ≠ 0xFFFF) :
    postSem n k s = setSem n k (semOf s n k + 1) s := if_neg (by simpa using h)

theorem postSem_of_full {n k : Nat} {s : State} (h : semOf s n k = 0xFFFF) :
    postSem n k s = setSem n k (fld (Config.freeWord s.free) 0 16) { s with free := s.free + 1 } := by
  unfold postSem
  exact if_pos (by rw [h]; rfl)

section
variable {b : Fin 128} {k : Nat} {s : State}

theorem exec_barrierRelease (hg : grantedAt s (b.val / 16) = true) (hb : blockRuns .bobbin s = true)
    (hw : (bobbin s b.val).wait = some (.barrier k)) :
    exec (.barrierRelease b) s = .next (if allReached s b.val k then
      (pillowMates s b.val).foldl (fun s c => updBobbin c nextPc s) s else s) := by
  have he : exec (.barrierRelease b) s = execBarrierRelease b s := rfl
  rw [he, execBarrierRelease]
  simp only [hg, hb, hw, Bool.not_true, Bool.or_false, Bool.false_eq_true, if_false]

theorem exec_semWaitRelease (hg : grantedAt s (b.val / 16) = true) (hb : blockRuns .bobbin s = true)
    (hw : (bobbin s b.val).wait = some (.semaphore k)) (hs : semOf s b.val k ≠ 0) :
    exec (.semWaitRelease b) s = .next (takeSem b.val k s) := by
  have he : exec (.semWaitRelease b) s = execSemWaitRelease b s := rfl
  rw [he, execSemWaitRelease]
  simp only [hg, hb, hw, hs, Bool.not_true, Bool.or_false, Bool.false_eq_true, if_false]

theorem allReached_iff : allReached s b.val k = true ↔ ∀ c ∈ (kernel s (bobbin s b.val).kid).bobbins, c / 16 = b.val / 16 →
    (bobbin s c).wait = some (.barrier k) := by
  simp only [allReached, pillowMates, List.all_eq_true, List.mem_filter, beq_iff_eq, and_imp]

end

section
variable {n sd sa sb op : Nat} {s : State} {x : Bobbin}

theorem atomNow_of_outside (h : (sReg (bobbin s n) sa).toNat % 4 ≠ 0 ∨
    imgPillowKib (kernel s (bobbin s n).kid) * 1024 < (sReg (bobbin s n) sa).toNat + 4) :
    atomNow n sd sa sb op s = bobbinFault n 5 s := if_pos (by simpa using h)

/-- The word an ATOM writes, from the old one and its operand: MIN and MAX by their order, signed or not by a free bit where that
matters (log entry 60). -/
def atomWritten (op : Nat) (s : State) (old v : Word) : Word :=
  atomWord op (bitAt (if 2 ≤ op && bitAt old 31 != bitAt v 31 then Config.freeWord s.free else 0) 0) old v

theorem atomNow_of_inside {a : Nat} {old v : Word} (ha : a = (sReg (bobbin s n) sa).toNat) (hv : v = sReg (bobbin s n) sb)
    (hold : old = memWord (s.engines.pillows.getD (n / 16) []) ((kernel s (bobbin s n).kid).region + a))
    (h4 : a % 4 = 0) (hin : a + 4 ≤ imgPillowKib (kernel s (bobbin s n).kid) * 1024) :
    atomNow n sd sa sb op s = putBobbin n (nextPc { bobbin s n with s := (bobbin s n).s.set sd old })
      (putPillow (n / 16) (fun m => memSetWord m ((kernel s (bobbin s n).kid).region + a) (atomWritten op s old v))
        { s with free := if 2 ≤ op && bitAt old 31 != bitAt v 31 then s.free + 1 else s.free }) := by
  subst ha hv hold
  unfold atomNow atomWritten
  simp only [updBobbin_eq_putBobbin]
  rw [if_neg (by simpa [h4] using hin)]
  split
  · rfl
  · rfl

end

theorem bitAt_31_iff (w : Word) : bitAt w 31 = true ↔ 2 ^ 31 ≤ w.toNat := by
  have := w.isLt
  rw [bitAt_iff]
  omega

/-- Of two words of one sign the signed and the unsigned order are the same. -/
theorem toInt_lt_iff_of_sign {a v : Word} (h : bitAt a 31 = bitAt v 31) : a.toInt < v.toInt ↔ a.toNat < v.toNat := by
  have h' : 2 ^ 31 ≤ a.toNat ↔ 2 ^ 31 ≤ v.toNat := by rw [← bitAt_31_iff, ← bitAt_31_iff, h]
  have := a.isLt
  have := v.isLt
  rw [BitVec.toInt_eq_toNat_cond, BitVec.toInt_eq_toNat_cond]
  split <;> split <;> omega

theorem atomWord_of_sign {a v : Word} (signed : Bool) (h : bitAt a 31 = bitAt v 31) :
    atomWord 2 signed a v = (if a.toNat < v.toNat then a else v) ∧ atomWord 3 signed a v = if a.toNat < v.toNat then v else a := by
  cases signed <;> simp [atomWord, toInt_lt_iff_of_sign h]

theorem atomWord_select {op : Nat} (hop : 2 ≤ op) (signed : Bool) (a v : Word) :
    atomWord op signed a v = a ∨ atomWord op signed a v = v := by
  unfold atomWord
  extract_lets less
  rw [if_neg (by omega), if_neg (by omega)]
  clear_value less
  cases less
  · simp only [Bool.false_eq_true, if_false, ite_eq_left_iff, ite_eq_right_iff]
    exact (em (op = 2)).elim (fun h => .inr fun hn => absurd h hn) fun h => .inl fun h2 => absurd h2 h
  · simp only [if_true, ite_eq_left_iff, ite_eq_right_iff]
    exact (em (op = 2)).elim (fun h => .inl fun hn => absurd h hn) fun h => .inr fun h2 => absurd h2 h

/-- ADD and SWAP ask for no free bit. -/
theorem atomWord_of_lt {op : Nat} (hop : op < 2) (signed : Bool) (a v : Word) :
    atomWord op signed a v = if op = 0 then a + v else v := by
  unfold atomWord
  extract_lets less
  split
  · rfl
  · exact if_pos (by omega)

theorem min_of_sign {a v : Word} (h : bitAt a 31 = bitAt v 31) :
    (if a.toNat < v.toNat then a else v).toNat = min a.toNat v.toNat ∧
    (if a.toNat < v.toNat then a else v).toInt = min a.toInt v.toInt := by
  have := toInt_lt_iff_of_sign h
  split <;> constructor <;> omega

theorem max_of_sign {a v : Word} (h : bitAt a 31 = bitAt v 31) :
    (if a.toNat < v.toNat then v else a).toNat = max a.toNat v.toNat ∧
    (if a.toNat < v.toNat then v else a).toInt = max a.toInt v.toInt := by
  have := toInt_lt_iff_of_sign h
  split <;> constructor <;> omega

/-- Settles O13: BAR and its release, SEM and its wait, then ATOM outside and inside its region. -/
theorem pillowSynchronisation : Obligations.PillowSynchronisation := by
  refine ⟨fun b k s n x => exec_bar, ?release, ?notAll, ?post, ?take, ?wait, ?waited, ?outside, ?addSwap, ?minMax, ?full⟩
  case release =>
    intro b k s hg hb hw hall
    rw [exec_barrierRelease hg hb hw, if_pos (allReached_iff.2 hall)]
    simp only [updBobbin_eq_putBobbin]
    rfl
  case notAll =>
    intro b k c s hg hb hw hc hp hn
    rw [exec_barrierRelease hg hb hw, if_neg fun h => hn (allReached_iff.1 h c hc hp)]
  case post =>
    intro b k s n x h hs
    obtain rfl := bobbin_of_issuing h
    rw [exec_sem h, if_pos (by decide), postSem_of_room hs, updBobbin_eq_putBobbin]
    rfl
  case take =>
    intro b k s n x h hs
    obtain rfl := bobbin_of_issuing h
    rw [exec_sem h, if_neg (by decide), if_neg hs, takeSem_eq]
  case wait =>
    intro b k s n x h hs
    rw [exec_sem h, if_neg (by decide), if_pos hs]
  case waited =>
    intro b k s hg hb hw hs
    rw [exec_semWaitRelease hg hb hw hs, takeSem_eq]
  case outside =>
    intro b sd sa sb op s n x h ho
    obtain rfl := bobbin_of_issuing h
    rw [exec_atom h, atomNow_of_outside ho]
  case addSwap =>
    intro b sd sa sb op s n x h hop h4 hin
    obtain rfl := bobbin_of_issuing h
    rw [exec_atom h, atomNow_of_inside rfl rfl rfl h4 hin]
    have hfree : decide (2 ≤ op.toNat) = false := decide_eq_false (Nat.not_le.2 hop)
    simp only [atomWritten, hfree, Bool.false_and, Bool.false_eq_true, if_false, atomWord_of_lt hop, ← BitVec.toNat_inj]
    rfl
  case minMax =>
    intro b sd sa sb op s n x old h hop h4 hin hold
    obtain rfl := bobbin_of_issuing h
    refine ⟨atomWritten op.toNat s old (sReg (bobbin s n) sb.toNat), ?_, atomWord_select hop _ old _, fun hs h2 => ?_, fun hs h3 => ?_⟩
    · rw [exec_atom h, atomNow_of_inside rfl rfl hold h4 hin]
      have hfree : decide (2 ≤ op.toNat) = true := decide_eq_true hop
      simp only [hfree, Bool.true_and, bne_iff_ne, ne_eq, ite_not]
    · subst h2
      rw [atomWritten, show (2 : BitVec 2).toNat = 2 from rfl, (atomWord_of_sign _ hs).1]
      exact min_of_sign hs
    · subst h3
      rw [atomWritten, show (3 : BitVec 2).toNat = 3 from rfl, (atomWord_of_sign _ hs).2]
      exact max_of_sign hs
  case full =>
    intro b k s n x h hs
    obtain rfl := bobbin_of_issuing h
    rw [exec_sem h, if_pos (by decide), postSem_of_full hs, updBobbin_eq_putBobbin]
    rfl

end Sys2Proof.Machine
end

section
/-! PROOFS. The memory wafer, packets, and the Bureau's queue, replies, queries and events (R90, R320–R348). -/
set_option Elab.async false
namespace Sys2Proof.Machine
/-! ### Bytes of words -/

theorem wordsBytes_cons (w : Word) (ws : List Word) : wordsBytes (w :: ws) = wordBytes w ++ wordsBytes ws := List.flatMap_cons

theorem wordsBytes_append (ws xs : List Word) : wordsBytes (ws ++ xs) = wordsBytes ws ++ wordsBytes xs := List.flatMap_append

@[simp] theorem length_wordsBytes (ws : List Word) : (wordsBytes ws).length = 4 * ws.length := by
  induction ws with
  | nil => rfl
  | cons w ws ih =>
    rw [wordsBytes_cons, List.length_append, ih, List.length_cons]
    simp only [wordBytes, List.length_cons, List.length_nil]
    omega

theorem drop_wordsBytes (n : Nat) (ws : List Word) : (wordsBytes ws).drop (4 * n) = wordsBytes (ws.drop n) := by
  conv_lhs => rw [← List.take_append_drop n ws, wordsBytes_append]
  rcases Nat.le_total n ws.length with h | h
  · exact List.drop_left' (by simp [h])
  · rw [List.drop_eq_nil_of_le h, List.drop_eq_nil_of_le]
    · rfl
    · simp [h]

theorem take_wordsBytes (n : Nat) (ws : List Word) : (wordsBytes ws).take (4 * n) = wordsBytes (ws.take n) := by
  conv_lhs => rw [← List.take_append_drop n ws, wordsBytes_append]
  rcases Nat.le_total n ws.length with h | h
  · exact List.take_left' (by simp [h])
  · rw [List.drop_eq_nil_of_le h, List.take_of_length_le]
    · simp [wordsBytes]
    · simp [h]

theorem toNat_bytesWord (a b c d : Byte) (bs : List Byte) : (bytesWord (a :: b :: c :: d :: bs)).toNat =
    a.toNat + b.toNat * 256 + c.toNat * 65536 + d.toNat * 16777216 := by
  have h0 : (a :: b :: c :: d :: bs).getD 0 0 = a := rfl
  have h1 : (a :: b :: c :: d :: bs).getD 1 0 = b := rfl
  have h2 : (a :: b :: c :: d :: bs).getD 2 0 = c := rfl
  have h3 : (a :: b :: c :: d :: bs).getD 3 0 = d := rfl
  rw [bytesWord, h0, h1, h2, h3, mkWord, BitVec.toNat_ofNat, List.foldl_cons, List.foldl_cons, List.foldl_cons, List.foldl_cons,
    List.foldl_nil]
  dsimp only
  omega

/-- Four bytes make the word they are the bytes of. -/
theorem bytesWord_wordBytes_append (w : Word) (bs : List Byte) : bytesWord (wordBytes w ++ bs) = w := by
  apply BitVec.eq_of_toNat_eq
  have := w.isLt
  rw [wordBytes, List.cons_append, List.cons_append, List.cons_append, List.cons_append, toNat_bytesWord]
  simp only [toNat_fld]
  omega

theorem bytesWord_wordBytes (w : Word) : bytesWord (wordBytes w) = w := by
  simpa using bytesWord_wordBytes_append w []

theorem takeWords_wordsBytes {n : Nat} {ws : List Word} (h : n ≤ ws.length) : takeWords n (wordsBytes ws) = ws.take n := by
  induction n generalizing ws with
  | zero => rfl
  | succ n ih =>
    cases ws with
    | nil => exact absurd h (by simp)
    | cons w ws =>
      rw [takeWords, wordsBytes_cons, bytesWord_wordBytes_append, ← wordsBytes_cons]
      have hd : (wordsBytes (w :: ws)).drop 4 = wordsBytes ws := drop_wordsBytes 1 (w :: ws)
      rw [hd, ih (by simpa using h), List.take_succ_cons]

/-- Word `i` of the words that the bytes stand for. -/
theorem bytesWord_at {ws : List Word} {i : Nat} (h : i < ws.length) :
    bytesWord (((wordsBytes ws).drop (4 * i)).take 4) = ws.getD i 0 := by
  have ht : ((wordsBytes ws).drop (4 * i)).take 4 = wordsBytes ((ws.drop i).take 1) := by
    rw [drop_wordsBytes]
    exact take_wordsBytes 1 _
  rw [ht, List.drop_eq_getElem_cons h, List.take_succ_cons, List.take_zero, wordsBytes_cons, bytesWord_wordBytes_append,
    List.getD_eq_getElem _ _ h]

/-! ### The memory wafer (R90, R94) -/

theorem dramWrite_of_ne {s : State} {a : Nat} {bs : List Byte} (h : bs ≠ []) : dramWrite s a bs = { s with
    dram := memSetBytes s.dram a bs
    dramBad := s.dramBad.filter (fun w => w < a / 8 || (a + bs.length - 1) / 8 < w)
    dramSoft := s.dramSoft.filter (fun w => w < a / 8 || (a + bs.length - 1) / 8 < w) } :=
  if_neg (by simpa using h)

theorem dramWrite_nil (s : State) (a : Nat) : dramWrite s a [] = s := rfl

theorem mem_filter_untouched {l : List Nat} {w lo hi : Nat} :
    w ∈ l.filter (fun w => decide (w < lo) || decide (hi < w)) ↔ w ∈ l ∧ ¬(lo ≤ w ∧ w ≤ hi) := by
  rw [List.mem_filter, Bool.or_eq_true, decide_eq_true_eq, decide_eq_true_eq, not_and_or, Nat.not_le, Nat.not_le]

theorem memGet_dramWrite {s : State} (a c : Nat) (bs : List Byte) (h : Mem.wf s.dram) :
    memGet (dramWrite s a bs).dram c = if a ≤ c ∧ c < a + bs.length then bs.getD (c - a) 0 else memGet s.dram c := by
  cases bs with
  | nil => rw [dramWrite_nil, if_neg (by simp only [List.length_nil]; omega)]
  | cons b bs => exact memGet_memSetBytes a c (b :: bs) h

theorem dramWrite_wf {s : State} (a : Nat) (bs : List Byte) (h : Mem.wf s.dram) : Mem.wf (dramWrite s a bs).dram := by
  unfold dramWrite
  split
  · exact h
  · exact memSetBytes_wf a bs h

section
variable {α : Type} {d : α}

theorem smWfFrom_cons [DecidableEq α] {lo k : Nat} {v : α} {m : List (Nat × α)} :
    smWfFrom d lo ((k, v) :: m) = true ↔ lo ≤ k ∧ v ≠ d ∧ smWfFrom d (k + 1) m = true := by
  simp [smWfFrom, and_assoc]

/-- The values that lie from a key upward, of a memory with none below it. -/
theorem smTake_eq_map_smGet [DecidableEq α] {m : List (Nat × α)} {key : Nat} (n : Nat) (h : smWfFrom d key m = true) :
    smTake d m key n = (List.range n).map fun i => smGet d m (key + i) := by
  induction n generalizing m key with
  | zero => cases m <;> rfl
  | succ n ih =>
    have hshift : ∀ m' : List (Nat × α), (List.range n).map (fun i => smGet d m' (key + 1 + i)) =
        (List.range n).map (fun i => smGet d m' (key + (i + 1))) := fun m' =>
      List.map_congr_left fun i _ => congrArg (smGet d m') (by omega)
    rw [List.range_succ_eq_map, List.map_cons, List.map_map]
    cases m with
    | nil =>
      rw [smTake, ih (m := []) rfl, hshift]
      rfl
    | cons e m =>
      obtain ⟨k, v⟩ := e
      obtain ⟨hk, hv, hm⟩ := smWfFrom_cons.1 h
      rw [smTake]
      split
      next heq =>
        subst heq
        rw [ih hm, hshift]
        refine congrArg₂ List.cons (by simp [smGet]) (List.map_congr_left fun i _ => ?_)
        have h1 : ¬ k + (i + 1) = k := by omega
        have h2 : ¬ k + (i + 1) < k := by omega
        simp only [Function.comp, Nat.succ_eq_add_one, smGet, h1, h2, if_false]
      next hne =>
        rw [ih (smWfFrom_cons.2 ⟨by omega, hv, hm⟩), hshift]
        refine congrArg₂ List.cons ?_ rfl
        have h1 : ¬ key = k := fun h => hne h.symm
        simp only [smGet, Nat.add_zero, h1, if_false, if_pos (show key < k by omega)]

theorem smWfFrom_dropWhile [DecidableEq α] {m : List (Nat × α)} {lo : Nat} (key : Nat) (h : smWfFrom d lo m = true) :
    smWfFrom d key (m.dropWhile fun e => decide (e.1 < key)) = true ∧
    ∀ c, key ≤ c → smGet d (m.dropWhile fun e => decide (e.1 < key)) c = smGet d m c := by
  induction m generalizing lo with
  | nil => exact ⟨rfl, fun _ _ => rfl⟩
  | cons e m ih =>
    obtain ⟨k, v⟩ := e
    obtain ⟨hk, hv, hm⟩ := smWfFrom_cons.1 h
    by_cases hlt : k < key
    · rw [List.dropWhile_cons_of_pos (by simpa using hlt)]
      refine ⟨(ih hm).1, fun c hc => ?_⟩
      have h1 : ¬ c = k := by omega
      have h2 : ¬ c < k := by omega
      rw [(ih hm).2 c hc]
      simp only [smGet, h1, h2, if_false]
    · rw [List.dropWhile_cons_of_neg (by simpa using hlt)]
      exact ⟨smWfFrom_cons.2 ⟨by omega, hv, hm⟩, fun _ _ => rfl⟩

theorem smGetMany_eq_map_smGet [DecidableEq α] {m : List (Nat × α)} (key n : Nat) (h : smWf d m = true) :
    smGetMany d m key n = (List.range n).map fun i => smGet d m (key + i) := by
  obtain ⟨hwf, hget⟩ := smWfFrom_dropWhile key h
  rw [smGetMany, smTake_eq_map_smGet n hwf]
  exact List.map_congr_left fun i _ => hget _ (Nat.le_add_right ..)

end

theorem memBytes_eq_map_memGet {m : Mem} (a n : Nat) (h : Mem.wf m) :
    memBytes m a n = (List.range n).map fun i => memGet m (a + i) := smGetMany_eq_map_smGet a n h

/-- What was written is read back. -/
theorem memBytes_memSetBytes_same {m : Mem} (a : Nat) (bs : List Byte) (h : Mem.wf m) :
    memBytes (memSetBytes m a bs) a bs.length = bs := by
  rw [memBytes_eq_map_memGet _ _ (memSetBytes_wf a bs h)]
  refine List.ext_getElem (by simp) fun i h1 h2 => ?_
  rw [List.getElem_map, List.getElem_range, memGet_memSetBytes _ _ _ h, if_pos ⟨Nat.le_add_right .., by omega⟩,
    Nat.add_sub_cancel_left, List.getD_eq_getElem _ _ h2]

theorem memWord_of_memBytes {m : Mem} {a : Nat} {b0 b1 b2 b3 : Byte} (h : memBytes m a 4 = [b0, b1, b2, b3]) :
    memWord m a = bytesWord [b0, b1, b2, b3] := by
  apply BitVec.eq_of_toNat_eq
  rw [toNat_bytesWord, memWord, memNat, h, BitVec.toNat_ofNat]
  simp only [bytesNat]
  omega

theorem memWord_memSetWord {m : Mem} (a : Nat) (w : Word) (h : Mem.wf m) : memWord (memSetWord m a w) a = w :=
  (memWord_of_memBytes (memBytes_memSetBytes_same a (wordBytes w) h)).trans (bytesWord_wordBytes w)

/-- Settles O19: the bytes and the marks of a write, then a word read back. -/
theorem memoryWritesStoreTheirBytes : Obligations.MemoryWritesStoreTheirBytes := by
  refine ⟨fun s a c bs h => memGet_dramWrite a c bs h, fun s a bs h => dramWrite_wf a bs h, fun s a w bs h => ?_, fun s a w bs h => ?_,
    fun s a bs => ?_, fun m a w h => memWord_memSetWord a w h⟩
  · rw [dramWrite_of_ne h]
    exact mem_filter_untouched
  · rw [dramWrite_of_ne h]
    exact mem_filter_untouched
  · cases bs with
    | nil => rfl
    | cons b bs => rfl

/-! ### Packets and their CRC (R323) -/

section
variable {p : Packet} {ws : List Word}

theorem pktWord_of_bytes (hp : p.bytes = wordsBytes ws) {i : Nat} (hi : i < ws.length) : pktWord p i = ws.getD i 0 := by
  rw [pktWord, hp, bytesWord_at hi]

theorem getD_withCrc {i : Nat} (h : i < ws.length) : (withCrc ws).getD i 0 = ws.getD i 0 := by
  simp [withCrc, List.getD_eq_getElem?_getD, List.getElem?_append_left h]

/-- A packet whose LENGTH counts its words is accepted with its CRC-32, and gives its words back. -/
theorem packet_of_withCrc (h3 : 3 ≤ ws.length) (hlen : (ws.getD 1 0).toNat / 65536 + 3 = ws.length)
    (hp : p.bytes = wordsBytes (withCrc ws)) :
    crcOk p = true ∧ pktOp p = (ws.getD 0 0).toNat % 65536 ∧ (cmdOf p).words = ws.drop 3 := by
  have hword : ∀ i < ws.length, pktWord p i = ws.getD i 0 := fun i hi => by
    rw [pktWord_of_bytes hp (by simp [withCrc]; omega), getD_withCrc hi]
  have hn : pktLen p + 3 = ws.length := by
    have := (ws.getD 1 0).isLt
    rw [pktLen, hword 1 (by omega), fldN, toNat_fld]
    omega
  have htake : p.bytes.take (4 * ws.length) = wordsBytes ws := by
    rw [hp, take_wordsBytes, withCrc, List.take_left]
  have hdrop : p.bytes.drop (4 * ws.length) = wordBytes (crc32 (wordsBytes ws)) := by
    rw [hp, drop_wordsBytes, withCrc, List.drop_left]
    exact List.append_nil _
  refine ⟨?_, ?_, ?_⟩
  · simp only [crcOk, hn, htake, hdrop, Bool.and_eq_true, decide_eq_true_eq, beq_iff_eq]
    refine ⟨by rw [hp, length_wordsBytes, withCrc, List.length_append, List.length_singleton]; omega, ?_⟩
    exact (bytesWord_wordBytes _).symm
  · rw [pktOp, hword 0 (by omega), fldN, toNat_fld]
    omega
  · change takeWords (pktLen p) (p.bytes.drop (4 * 3)) = ws.drop 3
    rw [hp, drop_wordsBytes, takeWords_wordsBytes (by simp [withCrc]; omega), withCrc, List.drop_append_of_le_length h3,
      List.take_left' (by simp; omega)]

end

/-- Settles O22: the check of what `withCrc` builds, and the CRC-32 of the digits 1 to 9. -/
theorem packetsCarryTheirCrc : Obligations.PacketsCarryTheirCrc :=
  ⟨fun _ _ => packet_of_withCrc, by decide +kernel⟩
/-! ### Commands and their answers (R324) -/

/-- A command that is taken and does not wait is answered with what its body says. -/
theorem exec_of_body {i : Instr} {t : Instant} {op : Nat} {body : Cmd → State → CmdResult} {s s1 : State} {p : Packet} {r : CmdResult}
    (h : taken t op s = some (p, s1)) (he : exec i s = runCmd t op body s) (hb : body (cmdOf p) s1 = r) (hr : r.held = false) :
    exec i s = .next (finishCmd p r s1) := by
  rw [he, runCmd_of_taken h, hb, if_neg (by simp [hr])]

/-- A command that waits leaves its state, with its packet as the one executing. -/
theorem exec_of_held_body {i : Instr} {t : Instant} {op : Nat} {body : Cmd → State → CmdResult} {s s1 : State} {p : Packet}
    {r : CmdResult} (h : taken t op s = some (p, s1)) (he : exec i s = runCmd t op body s) (hb : body (cmdOf p) s1 = r)
    (hr : r.held = true) : exec i s = .next (nowHeld p r.state) := by
  rw [he, runCmd_of_taken h, hb, if_pos hr]

@[simp] theorem cmdOk_held (s : State) (ws : List Word) : (cmdOk s ws).held = false := rfl
@[simp] theorem cmdBad_held (s : State) (w : Nat) : (cmdBad s w).held = false := rfl
@[simp] theorem cmdRefuse_held (s : State) (st : Status) (d : Nat) : (cmdRefuse s st d).held = false := rfl

theorem judged_of_none {ws : List Word} {masks : List Nat} (s : State) (r : CmdResult) (h : firstReserved ws masks = none) :
    judged ws masks s r = r := by
  rw [judged, h]

/-- A word keeps to a mask of its low bits if it is below their power of two. -/
theorem reservedOk_low_iff {k : Nat} (hk : k ≤ 32) (w : Word) : reservedOk w (2 ^ k - 1) = true ↔ w.toNat < 2 ^ k := by
  have hpos : 0 < 2 ^ k := Nat.two_pow_pos k
  have hle : 2 ^ k ≤ 2 ^ 32 := Nat.pow_le_pow_right (by decide) hk
  have hmask : 0xFFFFFFFF - (2 ^ k - 1) = 2 ^ 32 - ((2 ^ k - 1) + 1) := by omega
  have hw := w.isLt
  rw [reservedOk, beq_iff_eq, Nat.mod_eq_of_lt hw, hmask]
  constructor
  · intro h
    refine Nat.lt_pow_two_of_testBit _ fun i hi => ?_
    by_cases hi32 : i < 32
    · have := congrArg (Nat.testBit · i) h
      rwa [Nat.testBit_and, Nat.testBit_two_pow_sub_succ (by omega), Nat.testBit_two_pow_sub_one, Nat.zero_testBit,
        decide_eq_true hi32, decide_eq_false (Nat.not_lt.2 hi), Bool.not_false, Bool.and_true, Bool.and_true] at this
    · exact Nat.testBit_lt_two_pow (lt_of_lt_of_le hw (Nat.pow_le_pow_right (by decide) (Nat.not_lt.1 hi32)))
  · intro h
    refine Nat.eq_of_testBit_eq fun i => ?_
    rw [Nat.testBit_and, Nat.testBit_two_pow_sub_succ (by omega), Nat.testBit_two_pow_sub_one, Nat.zero_testBit]
    by_cases hi : i < k
    · simp [hi]
    · rw [Nat.testBit_lt_two_pow (lt_of_lt_of_le h (Nat.pow_le_pow_right (by decide) (Nat.not_lt.1 hi))), Bool.false_and]

theorem firstReserved_singleton {w : Word} {m : Nat} (h : reservedOk w m = true) : firstReserved [w] [m] = none := by
  simp [firstReserved, h]

/-! ### IDENTIFY, NEGOTIATE, GET_STATUS and GET_EVENTS (R337–R339, R344) -/

/-- NEGOTIATE of one word whose reserved bits are clear. -/
theorem negotiateBody_of_word {c : Cmd} {s : State} {w : Word} (hw : c.words = [w]) (hr : fldN w 16 16 = 0) :
    negotiateBody c s = if min (fldN w 0 8) 2 < fldN w 8 8 || min (fldN w 0 8) 2 = 0 then cmdRefuse s .versionUnsupported
      else { cmdOk (setSession c.req (BitVec.ofNat 8 (min (fldN w 0 8) 2)) s) [mkWord [(1, 16), (2, 8), (min (fldN w 0 8) 2, 0)]] with
        ver := some (min (fldN w 0 8) 2) } := by
  have hmask : reservedOk w 0xFFFF = true := (reservedOk_low_iff (k := 16) (by decide) w).2 <| by
    have := w.isLt
    rw [fldN, toNat_fld] at hr
    omega
  rw [negotiateBody]
  simp only [hw]
  exact judged_of_none _ _ (firstReserved_singleton hmask)

theorem getStatusBody_of_section {c : Cmd} {s : State} {ws : List Word} (h : sectionWords s (fldN (paramAt c.words 0) 0 8) = some ws)
    (hf : fldN (paramAt c.words 0) 16 16 < ws.length) (hc : fldN (paramAt c.words 0) 8 8 = 0) :
    getStatusBody c s = cmdOk s (mkWord [(ws.length, 16), (fldN (paramAt c.words 0) 0 8, 0)] ::
      ws.drop (fldN (paramAt c.words 0) 16 16)) := by
  simp only [getStatusBody, h, hc, if_neg (Nat.not_le.2 hf), if_true]

theorem getStatusBody_of_no_section {c : Cmd} {s : State} (h : 14 ≤ fldN (paramAt c.words 0) 0 8) : getStatusBody c s = cmdBad s 0 := by
  have hs : sectionWords s (fldN (paramAt c.words 0) 0 8) = none := by
    rw [sectionWords, List.getElem?_eq_none (by exact h)]
    rfl
  simp only [getStatusBody, hs]

/-- GET_EVENTS whose reserved bits are clear: it acknowledges, then gives the records it is asked for. -/
theorem getEventsBody_of_masks {p : Packet} {s : State} (h : firstReserved (cmdOf p).words [0xFFFFFFFF, 0x1FF] = none) :
    getEventsBody (cmdOf p) s =
      if bitAt (par p 1) 8 && decide ((s.events.nextSeq - 1 - s.events.acked).toNat < (par p 0 - s.events.acked).toNat) then
        cmdBad s 0
      else if (if p.via.isSome then 212 else 5) < fldN (par p 1) 0 8 then cmdBad s 1
      else
        let e := if bitAt (par p 1) 8 then { s.events with acked := par p 0 } else s.events
        cmdOk { s with events := e } ([e.nextSeq - 1, e.acked] ++
          ((unacked e).take (fldN (par p 1) 0 8)).flatMap recordWords) := by
  unfold getEventsBody
  exact judged_of_none _ _ h

/-- Settles O23: each query by its body's rule. -/
theorem queriesAnswerFromTheState : Obligations.QueriesAnswerFromTheState := by
  refine ⟨?identify, ?negotiate, ?tooLow, ?status, ?noSection, ?ack, ?events, ?ackBad, ?countBad, fun s => ⟨rfl, rfl, rfl, rfl⟩⟩
  case identify => exact fun t s p s1 h => exec_of_body h rfl rfl rfl
  case negotiate =>
    intro t s p s1 w h hw hr hmin hmax
    refine exec_of_body h rfl ((negotiateBody_of_word hw hr).trans (if_neg ?_)) rfl
    simp only [Bool.or_eq_true, decide_eq_true_eq]
    omega
  case tooLow =>
    intro t s p s1 w h hw hr hlow
    refine exec_of_body h rfl ((negotiateBody_of_word hw hr).trans (if_pos ?_)) rfl
    simp only [Bool.or_eq_true, decide_eq_true_eq]
    omega
  case status =>
    intro t s p s1 ws h hs hf hc
    exact exec_of_body h rfl (getStatusBody_of_section hs hf hc) rfl
  case noSection =>
    intro t s p s1 h hs
    exact exec_of_body h rfl (getStatusBody_of_no_section hs) rfl
  case ack =>
    intro t s p s1 h hr hb hle hn
    refine exec_of_body h rfl ((getEventsBody_of_masks hr).trans ?_) rfl
    rw [hb, Bool.true_and, decide_eq_false (Nat.not_lt.2 hle), if_neg Bool.false_ne_true, if_neg (Nat.not_lt.2 hn)]
    simp only [if_true]
  case events =>
    intro t s p s1 h hr hb hn
    refine exec_of_body h rfl ((getEventsBody_of_masks hr).trans ?_) rfl
    rw [hb, Bool.false_and, if_neg Bool.false_ne_true, if_neg (Nat.not_lt.2 hn)]
    simp only [Bool.false_eq_true, if_false]
  case ackBad =>
    intro t s p s1 h hr hb hlt
    refine exec_of_body h rfl ((getEventsBody_of_masks hr).trans ?_) rfl
    rw [hb, Bool.true_and, decide_eq_true hlt, if_pos rfl]
  case countBad =>
    intro t s p s1 h hr hb hn
    refine exec_of_body h rfl ((getEventsBody_of_masks hr).trans ?_) rfl
    rw [hb, Bool.false_and, if_neg Bool.false_ne_true, if_pos hn]
/-! ### The event log (R341–R343) -/

/-- The record an event becomes when it is logged. -/
def recordOf (e : EventLog) (h : HeldEvent) : EventRecord := ⟨e.nextSeq, h.code, h.arg0, h.arg1, h.arg2, h.stamp⟩

/-- A logged record stands at the end of the log, of which the last 256 are kept. -/
theorem addRecord_log (e : EventLog) (h : HeldEvent) :
    (addRecord e h).log = e.log.drop (e.log.length + 1 - 256) ++ [recordOf e h] := by
  have hlog : (addRecord e h).log = (e.log ++ [recordOf e h]).drop ((e.log ++ [recordOf e h]).length - 256) := by
    simp only [addRecord, recordOf]
  rw [hlog, List.length_append, List.length_singleton, List.drop_append_of_le_length (by omega)]

@[simp] theorem addRecord_nextSeq (e : EventLog) (h : HeldEvent) : (addRecord e h).nextSeq = e.nextSeq + 1 := by simp only [addRecord]
@[simp] theorem addRecord_acked (e : EventLog) (h : HeldEvent) : (addRecord e h).acked = e.acked := by simp only [addRecord]
@[simp] theorem addRecord_lost (e : EventLog) (h : HeldEvent) : (addRecord e h).lost = e.lost := by simp only [addRecord]
@[simp] theorem addRecord_lostSince (e : EventLog) (h : HeldEvent) : (addRecord e h).lostSince = e.lostSince := by simp only [addRecord]

theorem addRecord_log_getLast (e : EventLog) (h : HeldEvent) : (addRecord e h).log.getLast? = some (recordOf e h) := by
  rw [addRecord_log, List.getLast?_append, List.getLast?_singleton, Option.some_or]

theorem addRecord_log_length (e : EventLog) (h : HeldEvent) : (addRecord e h).log.length ≤ 256 := by
  rw [addRecord_log, List.length_append, List.length_drop, List.length_singleton]
  omega

/-- Each record is one more that is not acknowledged. -/
theorem unackedCount_succ {e e' : EventLog} (h : unackedCount e < 255) (hn : e'.nextSeq = e.nextSeq + 1) (ha : e'.acked = e.acked) :
    unackedCount e' = unackedCount e + 1 := by
  have hs : e'.nextSeq - 1 - e'.acked = e.nextSeq - 1 - e.acked + 1 := by
    rw [hn, ha]
    generalize e.nextSeq = n
    generalize e.acked = a
    bv_omega
  rw [unackedCount] at h
  rw [unackedCount, unackedCount, hs, BitVec.toNat_add]
  change (_ + 1) % 2 ^ 32 = _
  omega

/-- The event that says how many events were lost. -/
def lostEvent (e : EventLog) (h : HeldEvent) : HeldEvent := ⟨0x0002, 0, e.lostSince, 0, h.stamp⟩

section
variable {e : EventLog} {h : HeldEvent}

theorem logHeld_of_full (hf : 255 ≤ unackedCount e) :
    logHeld e h = { e with lost := satInc e.lost, lostSince := satInc e.lostSince } := if_pos hf

theorem logHeld_of_none_lost (hf : unackedCount e < 255) (hl : e.lostSince = 0) : logHeld e h = addRecord e h := by
  rw [logHeld, if_neg (Nat.not_le.2 hf), if_neg (not_not.2 hl)]

/-- After a loss the event that says so is logged first, and the event itself where there is room. -/
theorem logHeld_of_lost (hf : unackedCount e < 255) (hl : e.lostSince ≠ 0) :
    logHeld e h = if unackedCount { addRecord e (lostEvent e h) with lostSince := 0 } ≥ 255 then
        { addRecord e (lostEvent e h) with lostSince := 1, lost := satInc e.lost }
      else addRecord { addRecord e (lostEvent e h) with lostSince := 0 } h := by
  rw [logHeld, if_neg (Nat.not_le.2 hf), if_pos hl]
  simp only [lostEvent, addRecord_lost]

theorem logHeld_of_lost_room (hf : unackedCount e < 254) (hl : e.lostSince ≠ 0) :
    logHeld e h = addRecord { addRecord e (lostEvent e h) with lostSince := 0 } h := by
  have hc : unackedCount { addRecord e (lostEvent e h) with lostSince := 0 } = unackedCount e + 1 :=
    unackedCount_succ (by omega) (by simp only [addRecord]) (by simp only [addRecord])
  rw [logHeld_of_lost (by omega) hl, if_neg (by omega)]

theorem logHeld_of_lost_last (hf : unackedCount e = 254) (hl : e.lostSince ≠ 0) :
    logHeld e h = { addRecord e (lostEvent e h) with lostSince := 1, lost := satInc e.lost } := by
  have hc : unackedCount { addRecord e (lostEvent e h) with lostSince := 0 } = unackedCount e + 1 :=
    unackedCount_succ (by omega) (by simp only [addRecord]) (by simp only [addRecord])
  rw [logHeld_of_lost (by omega) hl, if_pos (by omega)]

theorem logHeld_log_length (hlen : e.log.length ≤ 256) : (logHeld e h).log.length ≤ 256 := by
  by_cases hf : unackedCount e < 255
  · by_cases hl : e.lostSince = 0
    · rw [logHeld_of_none_lost hf hl]
      exact addRecord_log_length ..
    · have hlost := addRecord_log_length e (lostEvent e h)
      rw [logHeld_of_lost hf hl]
      split
      · simpa only using hlost
      · exact addRecord_log_length ..
  · rw [logHeld_of_full (Nat.not_lt.1 hf)]
    exact hlen

theorem drop_last_two {α : Type} (l : List α) (a b : α) (k : Nat) (hk : k ≤ l.length) :
    ((l ++ [a]).drop k ++ [b]).drop (((l ++ [a]).drop k ++ [b]).length - 2) = [a, b] := by
  rw [List.drop_append_of_le_length hk, List.append_assoc, List.length_append]
  exact List.drop_left' (by simp)

theorem logHeld_lost_then_event (hf : unackedCount e < 254) (hl : e.lostSince ≠ 0) :
    (logHeld e h).log.drop ((logHeld e h).log.length - 2) =
      [recordOf e (lostEvent e h), ⟨e.nextSeq + 1, h.code, h.arg0, h.arg1, h.arg2, h.stamp⟩] := by
  have hlog : (logHeld e h).log = (e.log.drop (e.log.length + 1 - 256) ++ [recordOf e (lostEvent e h)]).drop
      ((e.log.drop (e.log.length + 1 - 256)).length + 2 - 256) ++
      [⟨e.nextSeq + 1, h.code, h.arg0, h.arg1, h.arg2, h.stamp⟩] := by
    rw [logHeld_of_lost_room hf hl, addRecord_log]
    simp only [addRecord_log, recordOf, addRecord_nextSeq, List.length_append, List.length_singleton]
  rw [hlog]
  exact drop_last_two _ _ _ _ (by omega)

end

theorem raise_of_blocked {c a0 a1 a2 : Nat} {s : State} (h : logBlocked s = true) : raise c a0 a1 a2 s = { s with
    events := { s.events with held := s.events.held ++ [HeldEvent.mk (BitVec.ofNat 16 c) (BitVec.ofNat 16 a0) (wordOf a1) (wordOf a2)
      (ringStamp s)] } } := if_pos h

theorem raise_of_open {c a0 a1 a2 : Nat} {s : State} (h : logBlocked s = false) : raise c a0 a1 a2 s = { s with
    events := logHeld s.events (HeldEvent.mk (BitVec.ofNat 16 c) (BitVec.ofNat 16 a0) (wordOf a1) (wordOf a2) (ringStamp s)) } :=
  if_neg (by simp [h])

/-- A packet of the node itself joins the ring's queue of own slots, and changes nothing else. -/
theorem queuePacket_eq (ty pr : Nat) (d : BitVec 7) (po : BitVec 9) (b : Bool) (ws : List Word) (s : State) :
    ∃ q, queuePacket ty pr d po b ws s = { s with ring := { s.ring with ownQueue := q } } := by
  unfold queuePacket
  generalize packetSlots s ty pr d po b ws = xs
  induction xs generalizing s with
  | nil => exact ⟨_, rfl⟩
  | cons x xs ih =>
    obtain ⟨q, hq⟩ := ih (queueSlot x s)
    exact ⟨q, hq⟩

/-- The state in which EVENT_SEND has taken its records. -/
def eventsSent (rs : List EventRecord) (s : State) : State :=
  { s with
    events := { s.events with toSend := sentUpTo rs s.events }
    out := { s.out with events := s.out.events ++ [withCrc (mkWord [(2, 24), (rs.length, 16)] :: rs.flatMap recordWords)] } }

theorem exec_eventSend {t : Instant} {s : State} (hr : (toSendRecords s.events).take 10 ≠ []) (ha : s.ring.addrPhase = .confirmed)
    (ho : s.ring.ownerLost = false) (hb : s.rst.asserted.contains .bureau = false) (hy : s.bureau.ready = true)
    (hd : s.power.phase ≠ .doze) (hs : s.power.phase ≠ .stow) :
    ∃ q, exec (.eventSend t) s = .next { eventsSent ((toSendRecords s.events).take 10) (setNow t s) with
      ring := { (setNow t s).ring with ownQueue := q } } := by
  have he : exec (.eventSend t) s = execEventSend t s := rfl
  rw [he, execEventSend]
  obtain ⟨q, hq⟩ := queuePacket_eq 4 1 0 0 (ringTo (eventsSent ((toSendRecords s.events).take 10) (setNow t s)) 0)
    (withCrc (mkWord [(2, 24), (((toSendRecords s.events).take 10).length, 16)] ::
      ((toSendRecords s.events).take 10).flatMap recordWords)) (eventsSent ((toSendRecords s.events).take 10) (setNow t s))
  have hb' : Domain.bureau ∉ s.rst.asserted := by simpa using hb
  exact ⟨q, (if_pos (by simpa [ha, ho, hb', hy, hd, hs] using hr)).trans (congrArg _ hq)⟩

/-- Settles O24: the log's cases, EVENT_SEND, and events that wait. -/
theorem eventLogNumbersAndLosesRecords : Obligations.EventLogNumbersAndLosesRecords := by
  refine ⟨?logged, fun e h => logHeld_of_full, fun e h => logHeld_log_length, ?send, ?blocked, fun c a0 a1 a2 s => raise_of_open,
    ?afterLoss, ?lastRoom⟩
  case logged =>
    intro e h hf hl
    rw [logHeld_of_none_lost hf hl]
    exact ⟨addRecord_nextSeq e h, addRecord_log_getLast e h, addRecord_acked e h, addRecord_lost e h⟩
  case send =>
    intro t s hr ha ho hb hy hd hs
    obtain ⟨q, hq⟩ := exec_eventSend (t := t) hr ha ho hb hy hd hs
    refine ⟨_, hq, ?_, rfl, rfl, rfl, rfl, rfl, rfl⟩
    change _ = some (sentUpTo _ _)
    rw [sentUpTo, List.getLast?_eq_some_getLast hr]
    rfl
  case blocked =>
    intro c a0 a1 a2 s h
    rw [raise_of_blocked h]
    exact ⟨rfl, rfl⟩
  case afterLoss =>
    intro e h hf hl
    refine ⟨logHeld_lost_then_event hf hl, ?_⟩
    rw [logHeld_of_lost_room hf hl]
    simp only [addRecord_lostSince, addRecord_lost, addRecord_nextSeq]
    refine ⟨trivial, trivial, ?_⟩
    bv_omega
  case lastRoom =>
    intro e h hf hl
    rw [logHeld_of_lost_last hf hl]
    exact ⟨by simpa only [recordOf, lostEvent] using addRecord_log_getLast e (lostEvent e h), rfl, rfl,
      by simpa only using addRecord_nextSeq e (lostEvent e h)⟩
/-! ### Replies (R324, R329, R331, R340) -/

theorem toNat_mkWord (fs : List (Nat × Nat)) : (mkWord fs).toNat = fs.foldl (fun a f => a + f.1 * 2 ^ f.2) 0 % 2 ^ 32 := by
  rw [mkWord, BitVec.toNat_ofNat]

theorem pktOp_lt (p : Packet) : pktOp p < 65536 := by
  have := (fld (pktWord p 0) 0 16).isLt
  rw [pktOp, fldN]
  omega

/-- The first word of a reply by its fields. -/
theorem fields_of_replyHead {ver op : Nat} (dup more done : Bool) (hop : op < 65536) (w : Word)
    (hw : w = mkWord [(ver, 24), (b2n dup, 18), (b2n more, 17), (b2n done, 16), (op, 0)]) :
    fldN w 0 16 = op ∧ bitAt w 16 = done ∧ bitAt w 17 = more ∧ bitAt w 18 = dup ∧ fldN w 24 8 = ver % 256 := by
  have hd : b2n dup < 2 := by cases dup <;> decide
  have hm : b2n more < 2 := by cases more <;> decide
  have hn : b2n done < 2 := by cases done <;> decide
  have hnat : w.toNat = (ver * 16777216 + b2n dup * 262144 + b2n more * 131072 + b2n done * 65536 + op) % 4294967296 := by
    rw [hw, toNat_mkWord, List.foldl_cons, List.foldl_cons, List.foldl_cons, List.foldl_cons, List.foldl_cons, List.foldl_nil]
    dsimp only
    omega
  have hbit : ∀ (i : Nat) (b : Bool), w.toNat / 2 ^ i % 2 = b2n b → bitAt w i = b := fun i b h => by
    cases b
    · exact (bitAt_eq_false_iff w i).2 h
    · exact (bitAt_iff w i).2 h
  refine ⟨?_, hbit _ _ ?_, hbit _ _ ?_, hbit _ _ ?_, ?_⟩
  · rw [fldN, toNat_fld]
    omega
  · omega
  · omega
  · omega
  · rw [fldN, toNat_fld]
    omega

/-- A word of two halves, or of a byte above a half. -/
theorem fields_of_pair {hi lo k : Nat} (hlo : lo < 65536) (hhi : hi * 2 ^ k < 4294967296) (hk : k = 16 ∨ k = 24) (w : Word)
    (hw : w = mkWord [(hi, k), (lo, 0)]) : fldN w 0 16 = lo ∧ fldN w k (32 - k) = hi := by
  have hnat : w.toNat = (hi * 2 ^ k + lo) % 4294967296 := by
    rw [hw, toNat_mkWord, List.foldl_cons, List.foldl_cons, List.foldl_nil]
    dsimp only
    omega
  simp only [fldN, toNat_fld]
  rcases hk with rfl | rfl
  · omega
  · omega

theorem statusCode_lt (st : Status) : statusCode st < 65536 := by cases st <;> decide

theorem pathWords_le (via : Option Port) : pathWords via ≤ 1276 := by
  unfold pathWords
  split <;> decide

/-- The three words before a reply's results, where all its results find room. -/
theorem replyWords_fields (p : Packet) (dup : Bool) (r : CmdResult) (hlen : r.results.length ≤ pathWords p.via) (hd : r.detail < 256) :
    ∃ h0 h1 h2, replyWords p dup r = [h0, h1, h2] ++ r.results ∧ fldN h0 0 16 = pktOp p ∧
      bitAt h0 16 = statusDone r.status ∧ bitAt h0 17 = false ∧ bitAt h0 18 = dup ∧
      fldN h0 24 8 = (r.ver.getD (pktVer p)) % 256 ∧
      fldN h1 0 16 = (pktTag p).toNat ∧ fldN h1 16 16 = r.results.length ∧
      fldN h2 24 8 = r.detail ∧ fldN h2 0 16 = statusCode r.status := by
  have hpath := pathWords_le p.via
  have htag := (pktTag p).isLt
  obtain ⟨hop, hdone, hmore, hdup, hver⟩ := fields_of_replyHead (ver := r.ver.getD (pktVer p)) dup false (statusDone r.status)
    (pktOp_lt p) _ rfl
  obtain ⟨htg, hln⟩ := fields_of_pair (hi := r.results.length) (k := 16) htag (by omega) (.inl rfl) _ rfl
  obtain ⟨hst, hdt⟩ := fields_of_pair (hi := r.detail) (k := 24) (statusCode_lt r.status) (by omega) (.inr rfl) _ rfl
  refine ⟨_, _, _, ?_, hop, hdone, hmore, hdup, hver, htg, hln, hdt, hst⟩
  rw [replyWords, List.take_of_length_le hlen, decide_eq_false (Nat.not_lt.2 hlen)]

theorem statusDone_iff (st : Status) : statusDone st = true ↔ st = .ok ∨ st = .pending ∨ st = .late := by
  cases st <;> simp [statusDone]

theorem finishCmd_of_refused {p : Packet} {r : CmdResult} {s : State} (h : statusDone r.status = false) (hk : r.keeps = false) :
    finishCmd p r s = settleAll (answer p r s) := by
  rw [finishCmd, h, hk, Bool.or_false, if_neg Bool.false_ne_true]

/-- What `faultCmd` answers, in a state that counts and raises the fault. -/
theorem faultCmd_eq (p : Packet) (s : State) : faultCmd p s = answerRefusal p .internalFault 0xFF
    (raise 0x0003 (pktOp p) (pktTag p).toNat 0 { s with bureau := { s.bureau with cmdFaults := satInc s.bureau.cmdFaults } }) := rfl

theorem sameButReplies_answerRefusal_events (p : Packet) (st : Status) (d : Nat) (s : State) :
    (answerRefusal p st d s).events = s.events := sameButReplies_events (sameButReplies_answerRefusal p st d s)

section
variable (p : Packet) (ws : List Word) (s : State)

/-- A stored reply joins its class, of which the last 63 before it stay. -/
theorem storeReply_stored : (storeReply p ws s).bureau.stored = s.bureau.stored.filter (fun x => reqClass x.req != reqClass p.req) ++
    (s.bureau.stored.filter fun x => reqClass x.req == reqClass p.req).drop
      ((s.bureau.stored.filter fun x => reqClass x.req == reqClass p.req).length - 63) ++
    [⟨p.req, pktTag p, if crcOk p then some (retryKey p) else none, ws⟩] := by
  simp only [storeReply]

theorem storeReply_mem : ∃ x ∈ (storeReply p ws s).bureau.stored, x.req = p.req ∧ x.tag = pktTag p ∧ x.words = ws := by
  rw [storeReply_stored]
  exact ⟨_, List.mem_append_right _ (List.mem_singleton_self _), rfl, rfl, rfl⟩

theorem storeReply_own : ((storeReply p ws s).bureau.stored.filter fun x => reqClass x.req == reqClass p.req).length ≤ 64 := by
  rw [storeReply_stored, List.filter_append, List.filter_append, List.filter_filter]
  have hrest : (s.bureau.stored.filter fun x => reqClass x.req == reqClass p.req && reqClass x.req != reqClass p.req) = [] := by
    simp
  rw [hrest, List.nil_append, List.length_append]
  have h1 := List.length_filter_le (fun x : StoredReply => reqClass x.req == reqClass p.req)
    ((s.bureau.stored.filter fun x => reqClass x.req == reqClass p.req).drop
      ((s.bureau.stored.filter fun x => reqClass x.req == reqClass p.req).length - 63))
  have h2 := List.length_filter_le (fun x : StoredReply => reqClass x.req == reqClass p.req)
    [⟨p.req, pktTag p, if crcOk p then some (retryKey p) else none, ws⟩]
  rw [List.length_drop] at h1
  rw [List.length_singleton] at h2
  omega

theorem storeReply_others : (storeReply p ws s).bureau.stored.filter (fun x => reqClass x.req != reqClass p.req) =
    s.bureau.stored.filter (fun x => reqClass x.req != reqClass p.req) := by
  have hmine : ∀ l : List StoredReply, (∀ x ∈ l, reqClass x.req = reqClass p.req) →
      l.filter (fun x => reqClass x.req != reqClass p.req) = [] := fun l hl =>
    List.filter_eq_nil_iff.2 fun x hx => by simp [hl x hx]
  rw [storeReply_stored, List.filter_append, List.filter_append, List.filter_filter, hmine [_] (by simp), hmine (List.drop _ _),
    List.append_nil, List.append_nil]
  · simp
  · intro x hx
    simpa using (List.mem_filter.1 (List.mem_of_mem_drop hx)).2

end

/-- Settles O21: the row that finds itself inconsistent, then the words, the states and the store of replies. -/
theorem repliesNameTheirCommandAndStatus : Obligations.RepliesNameTheirCommandAndStatus := by
  refine ⟨fun t op body s s1 p => runCmd_of_unsound, fun t s s1 p => runCmd_of_unsound, ?fault, ?faultBlocked, replyWords_fields,
    statusDone_iff, fun p r s1 => finishCmd_of_refused, fun p ws s => ⟨storeReply_own p ws s, storeReply_mem p ws s,
    storeReply_others p ws s⟩⟩
  case fault =>
    intro p s h
    refine ⟨_, faultCmd_eq p s, ?_⟩
    rw [raise_of_open (s := { s with bureau := { s.bureau with cmdFaults := satInc s.bureau.cmdFaults } }) h]
    exact ⟨rfl, rfl, rfl, rfl, rfl, rfl⟩
  case faultBlocked =>
    intro p s h
    rw [faultCmd_eq, sameButReplies_answerRefusal_events,
      raise_of_blocked (s := { s with bureau := { s.bureau with cmdFaults := satInc s.bureau.cmdFaults } }) h]

/-! ### Arrival of packets (R320) -/

/-- A packet that finds its requester's queue full while a dump waits to be written is discarded and counted. -/
theorem arrivePacket_of_dumping {p : Packet} {s : State} (hb : s.rst.asserted.contains .bureau = false) (hp : s.power.phase ≠ .doze)
    (hr : (crcOk p && stillOpen s p) = false) (hd : s.nvm.dumping.isSome = true) (hq : queueSize p.req ≤ queued s p.req) :
    arrivePacket p s = { s with bureau := { s.bureau with cmdsDiscarded := satInc s.bureau.cmdsDiscarded } } := by
  have hw : wakeDoze s = s := if_neg (by simpa using hp)
  rw [arrivePacket, hb, if_neg Bool.false_ne_true, hw]
  dsimp only
  rw [hr, if_neg Bool.false_ne_true, hd, Bool.true_and,
    if_pos (decide_eq_true hq)]

/-- A packet of no bytes that TWA brings. -/
def emptyPacket : Packet := { req := .twa, dest := 127, bytes := [], arrived := ⟨0, 0⟩ }

/-- A row out of reset that waits for its dump to be written, with TWA's queue full. -/
def dumpingRow : State :=
  { State.reset with
    rst := { State.reset.rst with asserted := [] }
    bureau := { State.reset.bureau with queue := [emptyPacket] }
    nvm := { State.reset.nvm with dumping := some { reset := .fatal, cause := 0, detail := 0, pc := 0, stamp := 0 } } }

/-- Refutes O20: while a dump waits to be written (`dumpingRow`), a packet that finds its requester's queue full is discarded and
counted, and is not answered BUSY. -/
theorem not_commandArrivalQueuesThePacket : ¬ Obligations.CommandArrivalQueuesThePacket := by
  intro h
  obtain ⟨-, -, -, -, hbusy, -⟩ := h
  have hopen : (crcOk emptyPacket && stillOpen (setNow ⟨0, 0⟩ dumpingRow) emptyPacket) = false := by decide +kernel
  have hfull : queueSize emptyPacket.req ≤ queued (setNow ⟨0, 0⟩ dumpingRow) emptyPacket.req := by decide +kernel
  have hdoze : dumpingRow.power.phase ≠ .doze := by decide +kernel
  have hrst : dumpingRow.rst.asserted.contains .bureau = false := by decide +kernel
  have hon : packetOn (.twoWire .a) [] (setNow ⟨0, 0⟩ dumpingRow) = some emptyPacket := by decide +kernel
  have he : exec (.commandArrival ⟨0, 0⟩ (.twoWire .a) []) dumpingRow = .next (arrivePacket emptyPacket (setNow ⟨0, 0⟩ dumpingRow)) := rfl
  have hanswer := hbusy ⟨0, 0⟩ (.twoWire .a) [] dumpingRow emptyPacket hon hrst hdoze hopen hfull
  rw [he, arrivePacket_of_dumping (s := setNow ⟨0, 0⟩ dumpingRow) hrst hdoze hopen rfl hfull] at hanswer
  have hcount := congrArg (fun u : State => u.bureau.cmdsDiscarded) (Host.Outcome.next.inj hanswer)
  have hne : ¬ satInc (setNow ⟨0, 0⟩ dumpingRow).bureau.cmdsDiscarded =
      (answerRefusal emptyPacket .busy 1 (setNow ⟨0, 0⟩ dumpingRow)).bureau.cmdsDiscarded := by decide +kernel
  exact hne hcount
/-! ### PEEK, POKE and INJECT_PATTERN (R346–R348) -/

theorem par_eq {p : Packet} {i : Nat} : paramAt (cmdOf p).words i = par p i := rfl

/-- A sent word is in force before the word it replaces. -/
theorem overlay_of_length {sent inForce : List Word} (h : sent.length = inForce.length) : overlay sent inForce = sent := by
  rw [overlay, h, List.drop_length, List.append_nil]

theorem satAdd_zero {m : Nat} (c : BitVec m) : satAdd c 0 = c := by
  have := c.isLt
  rw [satAdd, Nat.add_zero, Nat.min_eq_left (by omega), BitVec.ofNat_toNat, BitVec.setWidth_eq]

section
variable {lo hi : Nat} {ecc : List EccHit} {s : State}

/-- No word listed lies between two others. -/
theorem filter_between_nil {α : Type} (f : α → Nat) {l : List α} (h : ∀ x ∈ l, f x < lo ∨ hi < f x) :
    l.filter (fun x => decide (lo ≤ f x) && decide (f x ≤ hi)) = [] :=
  List.filter_eq_nil_iff.2 fun x hx => by
    rw [Bool.and_eq_true, decide_eq_true_eq, decide_eq_true_eq]
    have := h x hx
    omega

theorem correctWords_of_none (h : ∀ w ∈ s.dramSoft, w < lo ∨ hi < w) : correctWords lo hi s = s := by
  have hnone : s.dramSoft.filter (fun w => decide (lo ≤ w) && decide (w ≤ hi)) = [] := filter_between_nil (fun w => w) h
  have hall : s.dramSoft.filter (fun w => !(decide (lo ≤ w) && decide (w ≤ hi))) = s.dramSoft :=
    List.filter_eq_self.2 fun w hw => by
      rw [Bool.not_eq_true', Bool.eq_false_iff]
      exact List.filter_eq_nil_iff.1 hnone w hw
  simp only [correctWords, hnone, hall, List.length_nil, satAdd_zero]

theorem badBetween_of_none (hb : ∀ w ∈ s.dramBad, w < lo ∨ hi < w) (he : ∀ w ∈ ecc.map (·.word), w < lo ∨ hi < w) :
    badBetween ecc lo hi s = [] := by
  have h2 : ((ecc.filter (·.double)).map (·.word)).filter (fun w => (decide (lo ≤ w) && decide (w ≤ hi)) && passingWord w) = [] := by
    refine List.filter_eq_nil_iff.2 fun w hw => ?_
    obtain ⟨x, hx, rfl⟩ := List.mem_map.1 hw
    have := he _ (List.mem_map_of_mem (List.mem_filter.1 hx).1)
    simp only [Bool.and_eq_true, decide_eq_true_eq]
    omega
  simp only [badBetween, filter_between_nil (fun w => w) hb, h2]
  rfl

/-- A read over words without an error answers them and leaves the state. -/
theorem peekRead_of_none (data : State → List Word) (h : ∀ w ∈ s.dramBad ++ s.dramSoft ++ ecc.map (·.word), w < lo ∨ hi < w) :
    peekRead ecc lo hi data s = cmdOk s (data s) := by
  simp only [List.mem_append] at h
  have hecc : ecc.filter (fun x => decide (lo ≤ x.word) && decide (x.word ≤ hi)) = [] :=
    filter_between_nil EccHit.word fun x hx => h _ (.inr (List.mem_map_of_mem hx))
  have hbad : badBetween ecc lo hi s = [] := badBetween_of_none (fun w hw => h w (.inl (.inl hw))) fun w hw => h w (.inr hw)
  simp only [peekRead, hecc, markEcc, List.foldl_nil, correctWords_of_none fun w hw => h w (.inl (.inr hw)), hbad, List.isEmpty_nil,
    if_true]

theorem mem_insNat {l : List Nat} {x y : Nat} : y ∈ insNat l x ↔ y = x ∨ y ∈ l := by
  induction l with
  | nil => simp [insNat]
  | cons z l ih =>
    unfold insNat
    split
    · simp
    · split
      next h => simp [h]
      next => simp only [List.mem_cons, ih, or_left_comm]

theorem mem_dramBad_markDouble {w k : Nat} (h : w ∈ s.dramBad) : w ∈ (markDouble k s).dramBad := by
  unfold markDouble
  split
  · exact h
  · obtain ⟨dram, desc, ht⟩ := turnBits_eq k (errorBits (takeFree s).1) (takeFree s).2
    dsimp only
    rw [ht]
    exact mem_insNat.2 (.inr h)

/-- A word that is uncorrectable stays so whatever errors are found. -/
theorem mem_dramBad_markEcc {w : Nat} (h : w ∈ s.dramBad) : w ∈ (markEcc ecc s).dramBad := by
  unfold markEcc
  induction ecc generalizing s with
  | nil => exact h
  | cons x l ih =>
    rw [List.foldl_cons]
    refine ih ?_
    split
    · exact mem_dramBad_markDouble h
    · split
      · exact h
      · exact h

theorem mem_badBetween {w : Nat} (h : w ∈ s.dramBad) (hlo : lo ≤ w) (hhi : w ≤ hi) : w ∈ badBetween ecc lo hi s := by
  refine List.mem_eraseDups.2 (List.mem_append_left _ (List.mem_filter.2 ⟨h, ?_⟩))
  rw [Bool.and_eq_true, decide_eq_true_eq, decide_eq_true_eq]
  exact ⟨hlo, hhi⟩

theorem peekRead_status (data : State → List Word) : (peekRead ecc lo hi data s).status = .ok ∧
    ((∃ w, w ∈ s.dramBad ∧ lo ≤ w ∧ w ≤ hi) → (peekRead ecc lo hi data s).detail = 1) := by
  unfold peekRead
  extract_lets +onlyGivenNames u bad r
  refine ⟨?_, fun ⟨w, hw, hlo, hhi⟩ => ?_⟩
  · split <;> rfl
  · have hu : w ∈ u.dramBad := mem_dramBad_markEcc hw
    rw [if_neg]
    rw [List.isEmpty_iff]
    exact List.ne_nil_of_mem (mem_badBetween hu hlo hhi)

end

/-- The pillow words with an uncorrectable error among those a PEEK reads. -/
def pillowBad (ecc : List EccHit) (off n : Nat) : List Nat :=
  (((ecc.filter (·.double)).map (·.word)).filter fun w =>
    decide (0x20100000 + off / 8 ≤ w) && decide (w ≤ 0x20100000 + (off + 4 * n - 1) / 8)).eraseDups

theorem pillowBad_ne_nil_iff {ecc : List EccHit} {off n : Nat} : pillowBad ecc off n ≠ [] ↔
    ∃ h ∈ ecc, h.double = true ∧ 0x20100000 + off / 8 ≤ h.word ∧ h.word ≤ 0x20100000 + (off + 4 * n - 1) / 8 := by
  have hmem : pillowBad ecc off n ≠ [] ↔ ∃ w, w ∈ pillowBad ecc off n :=
    ⟨List.exists_mem_of_ne_nil _, fun ⟨_, hw⟩ => List.ne_nil_of_mem hw⟩
  rw [hmem]
  simp only [pillowBad, List.mem_eraseDups, List.mem_filter, List.mem_map, Bool.and_eq_true, decide_eq_true_eq]
  constructor
  · rintro ⟨w, ⟨h, ⟨hm, hd⟩, rfl⟩, hlo, hhi⟩
    exact ⟨h, hm, hd, hlo, hhi⟩
  · rintro ⟨h, hm, hd, hlo, hhi⟩
    exact ⟨_, ⟨h, ⟨hm, hd⟩, rfl⟩, hlo, hhi⟩

theorem peekPillow_eq (ecc : List EccHit) (off n : Nat) (s : State) : peekPillow ecc off n s =
    if (pillowBad ecc off n).isEmpty then cmdOk ((pillowBad ecc off n).foldl (fun s w => turnPillow w s) s)
      (pillowWords ((pillowBad ecc off n).foldl (fun s w => turnPillow w s) s) off n)
    else { cmdOk ((pillowBad ecc off n).foldl (fun s w => turnPillow w s) s)
      (pillowWords ((pillowBad ecc off n).foldl (fun s w => turnPillow w s) s) off n) with detail := 1 } := rfl

theorem peekPillow_status (ecc : List EccHit) (off n : Nat) (s : State) : (peekPillow ecc off n s).status = .ok ∧
    ((peekPillow ecc off n s).detail = 1 ↔ ∃ h ∈ ecc, h.double = true ∧ 0x20100000 + off / 8 ≤ h.word ∧
      h.word ≤ 0x20100000 + (off + 4 * n - 1) / 8) ∧
    ((∀ h ∈ ecc, h.double = false) → peekPillow ecc off n s = cmdOk s (pillowWords s off n)) := by
  rw [← pillowBad_ne_nil_iff, peekPillow_eq]
  refine ⟨?_, ?_, fun h => ?_⟩
  · split <;> rfl
  · split
    next he => exact ⟨fun h => absurd (show (0xFF : Nat) = 1 from h) (by decide), fun h => absurd (List.isEmpty_iff.1 he) h⟩
    next he => exact ⟨fun _ h => he (List.isEmpty_iff.2 h), fun _ => rfl⟩
  · have hnil : pillowBad ecc off n = [] := by
      by_contra hne
      obtain ⟨x, hx, hd, -⟩ := pillowBad_ne_nil_iff.1 hne
      exact absurd hd (by simp [h x hx])
    rw [hnil]
    rfl

theorem inSpace_of_le {space off n : Nat} (h4 : off % 4 = 0) (hle : off + 4 * n ≤ spaceSize space) (hs : space ≠ 4) :
    inSpace space off n = true := by
  simp [inSpace, h4, hle, hs]

theorem pokeWords_cons (kept : State → Nat → Nat) (a : Nat) (w : Word) (ws : List Word) (s : State) :
    (kept s a = 0 → pokeWords kept a (w :: ws) s = pokeWords kept (a + 4) ws (dramWriteWords s a [w])) ∧
    (kept s a = 0xFFFFFFFF → pokeWords kept a (w :: ws) s = pokeWords kept (a + 4) ws s) := by
  constructor
  · intro h
    have hw : (memWord s.dram a &&& wordOf 0) ||| (w &&& ~~~ wordOf 0) = w := by
      rw [show wordOf 0 = 0#32 from rfl, BitVec.and_zero, BitVec.zero_or, BitVec.not_zero, BitVec.and_allOnes]
    rw [pokeWords, h]
    simp only [hw]
    rfl
  · intro h
    rw [pokeWords, h]
    rfl

theorem commonKept_of_not_sampler {s : State} {off : Nat} (h : partOf off ≠ .sampler) : commonKept s off = 0 :=
  if_pos (by simp [h])

theorem injectPatternBody_of_words {c : Cmd} {s : State} {w0 w1 : Word} (hw : c.words = [w0, w1]) :
    injectPatternBody c s = judged [w0, w1] [0xF, 0xFFFFF] s (
      if 4 < fldN w0 1 3 then cmdBad s 0
      else if fldN w1 0 20 < 256 || 0xFFFFE < fldN w1 0 20 then cmdBad s 1
      else if s.rst.boot == 2 then cmdRefuse s .wrongState
      else cmdOk { s with bureau := { s.bureau with
        pattern := { pattern := fld w0 1 3, enable := bitAt w0 0, level := fld w1 0 20 } } }) := by
  have ho : ∀ a b : Word, overlay [w0, w1] [a, b] = [w0, w1] := fun a b => overlay_of_length rfl
  simp only [injectPatternBody, hw, ho]
  rfl

/-- A parameter that is out of range in the first word is refused there, whatever else the words hold. -/
theorem judged_cmdBad_zero (ws : List Word) (masks : List Nat) (s : State) : judged ws masks s (cmdBad s 0) = cmdBad s 0 := by
  unfold judged
  split
  · rfl
  · exact congrArg (fun i => cmdBad s i) (Nat.min_zero _)

theorem peekBody_common {ecc : List EccHit} {p : Packet} {s : State} (hr : firstReserved (cmdOf p).words [0xF, 0xFFFFFFFF, 0xFFFF] = none)
    (hs : fldN (par p 0) 0 4 = 1) (hlen : (cmdOf p).words.length = 3) (hn : 1 ≤ fldN (par p 2) 0 16)
    (hp : fldN (par p 2) 0 16 ≤ pathWords p.via) (h4 : (par p 1).toNat % 4 = 0)
    (hend : (par p 1).toNat + 4 * fldN (par p 2) 0 16 ≤ 0x40000000) :
    peekBody ecc (cmdOf p) s = peekRead ecc ((commonBase + (par p 1).toNat) / 8)
      ((commonBase + (par p 1).toNat + 4 * fldN (par p 2) 0 16 - 1) / 8)
      (fun u => memWords u.dram (commonBase + (par p 1).toNat) (fldN (par p 2) 0 16)) s := by
  have hn2 : (cmdOf p).words.getD 2 1 = par p 2 := by
    rw [par, paramAt, List.getD_eq_getElem _ _ (by omega), List.getD_eq_getElem _ _ (by omega)]
  have hsize : spaceSize 1 = 0x40000000 := rfl
  have hin : inSpace 1 (par p 1).toNat (fldN (par p 2) 0 16) = true := inSpace_of_le h4 hend (by decide)
  unfold peekBody
  simp only [par_eq, hs, hn2, hin]
  rw [judged_of_none _ _ hr, if_neg (by decide), if_neg, if_neg, if_neg (by decide), if_pos (by decide), if_neg (by decide)]
  · change ¬ (decide (fldN (par p 2) 0 16 = 0) || decide (pathWords p.via < fldN (par p 2) 0 16)) = true
    rw [Bool.or_eq_true, decide_eq_true_eq, decide_eq_true_eq]
    omega
  · change ¬ (decide ((par p 1).toNat % 4 ≠ 0) || decide (spaceSize 1 ≤ (par p 1).toNat)) = true
    rw [Bool.or_eq_true, decide_eq_true_eq, decide_eq_true_eq, hsize]
    omega

theorem pokeBody_of_space {p : Packet} {s : State} {space : Nat} (hr : firstReserved (cmdOf p).words [0xF, 0xFFFFFFFF] = none)
    (hs : fldN (par p 0) 0 4 = space) (hsp : space < 4) (h4 : (par p 1).toNat % 4 = 0)
    (hend : (par p 1).toNat + 4 * ((cmdOf p).words.drop 2).length ≤ spaceSize space) :
    (space = 1 → guarded (par p 1).toNat ((cmdOf p).words.drop 2).length = false →
      pokeBody (cmdOf p) s = cmdOk (pokeWords (fun s a => commonKept s (a - commonBase)) (commonBase + (par p 1).toNat)
        ((cmdOf p).words.drop 2) s)) ∧
    (space = 2 → pokeBody (cmdOf p) s = cmdRefuse s .notPermitted) := by
  have hin : inSpace space (par p 1).toNat ((cmdOf p).words.drop 2).length = true := inSpace_of_le h4 hend (by omega)
  unfold pokeBody
  simp only [par_eq, hs, hin]
  rw [judged_of_none _ _ hr, if_neg (by omega), if_neg (by decide)]
  constructor
  · rintro rfl hg
    simp only [hg, one_ne_zero, if_false, if_true, Bool.false_eq_true]
  · rintro rfl
    simp only [OfNat.ofNat_ne_zero, OfNat.ofNat_ne_one, if_false, if_true]

theorem peekRead_held (ecc : List EccHit) (lo hi : Nat) (data : State → List Word) (s : State) :
    (peekRead ecc lo hi data s).held = false := by
  unfold peekRead
  extract_lets +onlyGivenNames u bad r
  split <;> rfl

/-- Settles O25: the reads, POKE and what it keeps, and INJECT_PATTERN. -/
theorem diagnosticCommandsReachTheirSpace : Obligations.DiagnosticCommandsReachTheirSpace := by
  refine ⟨?peek, fun ecc lo hi data s h => peekRead_of_none data h, fun ecc lo hi data s => peekRead_status data, peekPillow_status,
    ?injectBad, ?poke, fun kept a w ws s => (pokeWords_cons kept a w ws s).1, fun kept a w ws s => (pokeWords_cons kept a w ws s).2,
    fun s off => commonKept_of_not_sampler, ?pokeDesc, ?inject, ?injectWrong⟩
  case peek =>
    intro t ecc s p s1 h hr hs hlen hn hp h4 hend
    exact exec_of_body h rfl (peekBody_common hr hs hlen hn hp h4 hend) (peekRead_held ..)
  case injectBad =>
    intro t s p s1 h hlen hp
    obtain ⟨w0, w1, hw⟩ := List.length_eq_two.1 hlen
    refine exec_of_body h rfl ((injectPatternBody_of_words hw).trans ?_) rfl
    have hp' : 4 < fldN w0 1 3 := by
      have : par p 0 = w0 := by rw [par, hw]; rfl
      rw [← this]
      exact hp
    rw [if_pos hp', judged_cmdBad_zero]
  case poke =>
    intro t s p s1 h hr hs h4 hend hg
    exact exec_of_body h rfl ((pokeBody_of_space hr hs (by decide) h4 hend).1 rfl hg) rfl
  case pokeDesc =>
    intro t s p s1 h hr hs h4 hend
    exact exec_of_body h rfl ((pokeBody_of_space hr hs (by decide) h4 hend).2 rfl) rfl
  case inject =>
    intro t s p s1 w0 w1 h hw hr hp hlo hhi hb
    refine exec_of_body h rfl ((injectPatternBody_of_words hw).trans ?_) rfl
    rw [judged_of_none _ _ hr, if_neg (by omega), if_neg, if_neg (by simpa using hb)]
    rw [Bool.or_eq_true, decide_eq_true_eq, decide_eq_true_eq]
    omega
  case injectWrong =>
    intro t s p s1 w0 w1 h hw hr hp hlo hhi hb
    refine exec_of_body h rfl ((injectPatternBody_of_words hw).trans ?_) rfl
    rw [judged_of_none _ _ hr, if_neg (by omega), if_neg, if_pos (by simpa using hb)]
    rw [Bool.or_eq_true, decide_eq_true_eq, decide_eq_true_eq]
    omega
/-! ### Words of a memory, and what a part ships with (R155, R413, R474) -/

theorem memWord_congr {m m' : Mem} {c : Nat} (hw : Mem.wf m) (hw' : Mem.wf m')
    (h : ∀ i < 4, memGet m' (c + i) = memGet m (c + i)) : memWord m' c = memWord m c := by
  have hb : memBytes m' c 4 = memBytes m c 4 := by
    rw [memBytes_eq_map_memGet _ _ hw, memBytes_eq_map_memGet _ _ hw']
    exact List.map_congr_left fun i hi => h i (List.mem_range.1 hi)
  rw [memWord, memWord, memNat, memNat, hb]

section
variable {m : Mem} {a : Nat} {ws : List Word}

theorem memWord_memSetWords_outside {c : Nat} (h : Mem.wf m) (hc : c + 4 ≤ a ∨ a + 4 * ws.length ≤ c) :
    memWord (memSetWords m a ws) c = memWord m c := by
  refine memWord_congr h (memSetWords_wf a ws h) fun i hi => ?_
  rw [memSetWords, memGet_memSetBytes _ _ _ h, if_neg]
  rw [length_wordsBytes]
  omega

/-- Each written word is read back at its place. -/
theorem memWord_memSetWords_inside {i : Nat} (h : Mem.wf m) (hi : i < ws.length) :
    memWord (memSetWords m a ws) (a + 4 * i) = ws.getD i 0 := by
  have hget : ∀ j < 4, memGet (memSetWords m a ws) (a + 4 * i + j) = (wordBytes (ws.getD i 0)).getD j 0 := fun j hj => by
    have hd : (wordsBytes ws).getD (4 * i + j) 0 = ((wordsBytes ws).drop (4 * i)).getD j 0 := by
      simp only [List.getD_eq_getElem?_getD, List.getElem?_drop]
    rw [memSetWords, memGet_memSetBytes _ _ _ h, if_pos ⟨by omega, by rw [length_wordsBytes]; omega⟩, Nat.add_assoc,
      Nat.add_sub_cancel_left, hd, drop_wordsBytes, List.drop_eq_getElem_cons hi, wordsBytes_cons, List.getD_append _ _ _ _ hj,
      List.getD_eq_getElem _ _ hi]
  have hb : memBytes (memSetWords m a ws) (a + 4 * i) 4 = wordBytes (ws.getD i 0) := by
    rw [memBytes_eq_map_memGet _ _ (memSetWords_wf a ws h)]
    refine List.ext_getElem rfl fun j h1 h2 => ?_
    rw [List.getElem_map, List.getElem_range, hget j (by simpa using h1), List.getD_eq_getElem _ _ h2]
  exact (memWord_of_memBytes hb).trans (bytesWord_wordBytes _)

end

/-- Pairs laid one after another. -/
theorem getD_flatMap_pairs {α β : Type} (f : α → List β) (hf : ∀ x, (f x).length = 2) (d : β) {l : List α} {k : Nat}
    (hk : k < l.length) {j : Nat} (hj : j < 2) : (l.flatMap f).getD (2 * k + j) d = (f l[k]).getD j d := by
  induction l generalizing k with
  | nil => exact absurd hk (by simp)
  | cons x l ih =>
    rw [List.flatMap_cons]
    cases k with
    | zero => rw [Nat.mul_zero, Nat.zero_add, List.getD_append _ _ _ _ (by rw [hf]; exact hj), List.getElem_cons_zero]
    | succ k =>
      rw [List.getD_append_right _ _ _ _ (by rw [hf]; omega), hf, show 2 * (k + 1) + j - 2 = 2 * k + j by omega,
        ih (by simpa using hk), List.getElem_cons_succ]

/-- The coefficients of entry `k`. -/
def shippedPair (k : Nat) : List Word :=
  if 12 ≤ k % 24 && k % 24 ≠ 15 then [Config.factoryOffset k, factoryGain k] else [0, 0x40000000]

theorem length_shippedPair (k : Nat) : (shippedPair k).length = 2 := by
  unfold shippedPair
  split <;> rfl

theorem shippedCoef_getD {k j : Nat} (hk : k < 48) (hj : j < 2) : shippedCoef.getD (2 * k + j) 0 = (shippedPair k).getD j 0 := by
  have h := getD_flatMap_pairs shippedPair length_shippedPair (0 : Word) (l := List.range 48) (by simpa using hk) hj
  rw [List.getElem_range] at h
  exact h

theorem length_shippedCoef : shippedCoef.length = 96 := by
  have h : ∀ l : List Nat, (l.flatMap shippedPair).length = 2 * l.length := fun l => by
    induction l with
    | nil => rfl
    | cons x l ih =>
      rw [List.flatMap_cons, List.length_append, length_shippedPair, ih, List.length_cons]
      omega
  exact h (List.range 48)

/-- The DEFECT_MAP record of a part as it ships. -/
def shippedDefect : List Word := calRecordOf false 0 1 []
/-- The words of its DARK_MODEL record. -/
def shippedDark : List Word := calHead false 0 3 49156 ++ [0x9DDF94B8] ++ List.replicate 12289 0x00320000
/-- The words of its RATIO record that are not zero. -/
def shippedRatio : List Word := calHead false 0 4 600624 ++ [0x10435AB7]
/-- Its MCV_COEF record. -/
def shippedMcv : List Word := calRecordOf false 0 5 shippedCoef

theorem shippedCells_eq : shippedCells = memSetWords (memSetWords (memSetWords (memSetWords [] ((4352 + 0) * 1024) shippedDefect)
    ((4352 + 355) * 1024) shippedDark) ((4352 + 404) * 1024) shippedRatio) ((4352 + 991) * 1024) shippedMcv := rfl

theorem length_shippedDefect : shippedDefect.length = 8 := rfl
theorem length_shippedDark : shippedDark.length = 12297 := by
  rw [shippedDark, List.length_append, List.length_replicate]
  rfl
theorem length_shippedRatio : shippedRatio.length = 8 := rfl
theorem length_shippedMcv : shippedMcv.length = 104 := by
  rw [shippedMcv, calRecordOf, List.length_append, length_shippedCoef]
  rfl

section
variable {c : Nat}

/-- A word of the eMRAM as it ships lies in one of its four records or reads as nothing. -/
theorem memWord_shippedCells_below_mcv (hc : c + 4 ≤ (4352 + 991) * 1024 ∨ (4352 + 991) * 1024 + 4 * 104 ≤ c) :
    memWord shippedCells c = memWord (memSetWords (memSetWords (memSetWords [] ((4352 + 0) * 1024) shippedDefect)
      ((4352 + 355) * 1024) shippedDark) ((4352 + 404) * 1024) shippedRatio) c := by
  rw [shippedCells_eq]
  exact memWord_memSetWords_outside (memSetWords_wf _ _ (memSetWords_wf _ _ (memSetWords_wf _ _ memory_nothing_listed_wf)))
    (by rw [length_shippedMcv]; exact hc)

theorem memWord_shippedRatio_outside (hc : c + 4 ≤ (4352 + 404) * 1024 ∨ (4352 + 404) * 1024 + 4 * 8 ≤ c) :
    memWord (memSetWords (memSetWords (memSetWords [] ((4352 + 0) * 1024) shippedDefect)
      ((4352 + 355) * 1024) shippedDark) ((4352 + 404) * 1024) shippedRatio) c =
    memWord (memSetWords (memSetWords [] ((4352 + 0) * 1024) shippedDefect) ((4352 + 355) * 1024) shippedDark) c :=
  memWord_memSetWords_outside (memSetWords_wf _ _ (memSetWords_wf _ _ memory_nothing_listed_wf))
    (by rw [length_shippedRatio]; exact hc)

theorem memWord_shippedDark_outside (hc : c + 4 ≤ (4352 + 355) * 1024 ∨ (4352 + 355) * 1024 + 4 * 12297 ≤ c) :
    memWord (memSetWords (memSetWords [] ((4352 + 0) * 1024) shippedDefect) ((4352 + 355) * 1024) shippedDark) c =
    memWord (memSetWords [] ((4352 + 0) * 1024) shippedDefect) c :=
  memWord_memSetWords_outside (memSetWords_wf _ _ memory_nothing_listed_wf) (by rw [length_shippedDark]; exact hc)

theorem memWord_shippedDefect_outside (hc : c + 4 ≤ (4352 + 0) * 1024 ∨ (4352 + 0) * 1024 + 4 * 8 ≤ c) :
    memWord (memSetWords [] ((4352 + 0) * 1024) shippedDefect) c = 0 :=
  (memWord_memSetWords_outside memory_nothing_listed_wf (by rw [length_shippedDefect]; exact hc)).trans rfl

end

/-- The words of the MCV_COEF record. -/
theorem calWordAt_mcv {i : Nat} (hi : i < 104) : calWordAt shippedCells 5 i = shippedMcv.getD i 0 := by
  rw [calWordAt, shippedCells_eq]
  exact memWord_memSetWords_inside (memSetWords_wf _ _ (memSetWords_wf _ _ (memSetWords_wf _ _ memory_nothing_listed_wf)))
    (by rw [length_shippedMcv]; exact hi)

theorem calWordAt_ratio {i : Nat} (hi : i < 8) : calWordAt shippedCells 4 i = shippedRatio.getD i 0 := by
  have ha : (4352 + calSlotPage 4) * 1024 + 4 * i = (4352 + 404) * 1024 + 4 * i := rfl
  rw [calWordAt, ha, memWord_shippedCells_below_mcv (by omega)]
  exact memWord_memSetWords_inside (memSetWords_wf _ _ (memSetWords_wf _ _ memory_nothing_listed_wf))
    (by rw [length_shippedRatio]; exact hi)

theorem calWordAt_dark {i : Nat} (hi : i < 12297) : calWordAt shippedCells 3 i = shippedDark.getD i 0 := by
  have ha : (4352 + calSlotPage 3) * 1024 + 4 * i = (4352 + 355) * 1024 + 4 * i := rfl
  rw [calWordAt, ha, memWord_shippedCells_below_mcv (by omega), memWord_shippedRatio_outside (by omega)]
  exact memWord_memSetWords_inside (memSetWords_wf _ _ memory_nothing_listed_wf) (by rw [length_shippedDark]; exact hi)

theorem calWordAt_defect {i : Nat} (hi : i < 8) : calWordAt shippedCells 1 i = shippedDefect.getD i 0 := by
  have ha : (4352 + calSlotPage 1) * 1024 + 4 * i = (4352 + 0) * 1024 + 4 * i := rfl
  rw [calWordAt, ha, memWord_shippedCells_below_mcv (by omega), memWord_shippedRatio_outside (by omega),
    memWord_shippedDark_outside (by omega)]
  exact memWord_memSetWords_inside memory_nothing_listed_wf (by rw [length_shippedDefect]; exact hi)

/-- The slots that a part ships without are never written. -/
theorem calWordAt_unwritten {id : Nat} (hid : id = 2 ∨ id = 6 ∨ id = 7) : calWordAt shippedCells id 0 = 0 := by
  have ha : ∃ page, calSlotPage id = page ∧ (page = 257 ∨ page = 995 ∨ page = 1000) := by
    rcases hid with rfl | rfl | rfl
    · exact ⟨257, rfl, .inl rfl⟩
    · exact ⟨995, rfl, .inr (.inl rfl)⟩
    · exact ⟨1000, rfl, .inr (.inr rfl)⟩
  obtain ⟨page, hp, hpage⟩ := ha
  rw [calWordAt, hp, memWord_shippedCells_below_mcv (by omega), memWord_shippedRatio_outside (by omega),
    memWord_shippedDark_outside (by omega), memWord_shippedDefect_outside (by omega)]

theorem shippedMcv_body {k j : Nat} (hk : k < 48) (hj : j < 2) :
    calWordAt shippedCells 5 (8 + 2 * k + j) = (shippedPair k).getD j 0 := by
  rw [calWordAt_mcv (by omega), shippedMcv, calRecordOf, List.getD_append_right _ _ _ _ (by
    change 8 ≤ _
    omega)]
  change shippedCoef.getD (8 + 2 * k + j - 8) 0 = _
  rw [show 8 + 2 * k + j - 8 = 2 * k + j by omega, shippedCoef_getD hk hj]

/-- Settles O60: the fields as `reset` sets them, then the records of the eMRAM. -/
theorem resetLeavesTheDocumentedState : Obligations.ResetLeavesTheDocumentedState := by
  have hcells : State.reset.nvm.cells = shippedCells := rfl
  refine ⟨rfl, rfl, rfl, by decide +kernel, by decide +kernel, rfl, rfl, rfl, rfl, rfl, rfl, by decide +kernel, by decide +kernel,
    rfl, rfl, by decide +kernel, by decide +kernel, by decide +kernel, by decide +kernel, by decide +kernel, rfl, rfl, rfl, rfl, rfl,
    rfl, shippedCells_wf, rfl, ?heads, ?unwritten, ?plain, ?factory⟩
  case heads =>
    rintro id (rfl | rfl | rfl | rfl)
    · exact calWordAt_defect (by decide)
    · exact calWordAt_dark (by decide)
    · exact calWordAt_ratio (by decide)
    · exact calWordAt_mcv (by decide)
  case unwritten =>
    intro id hid
    rw [hcells, calWordAt_unwritten hid]
    rfl
  case plain =>
    intro k hk hc
    have hp : shippedPair k = [0, 0x40000000] := if_neg (by simp; omega)
    have h0 := shippedMcv_body hk (show 0 < 2 by decide)
    have h1 := shippedMcv_body hk (show 1 < 2 by decide)
    rw [hp] at h0 h1
    rw [hcells, show 9 + 2 * k = 8 + 2 * k + 1 by omega]
    exact ⟨h0, h1⟩
  case factory =>
    intro k hk hc h15
    have hp : shippedPair k = [Config.factoryOffset k, factoryGain k] := if_pos (by simp; omega)
    have h0 := shippedMcv_body hk (show 0 < 2 by decide)
    have h1 := shippedMcv_body hk (show 1 < 2 by decide)
    rw [hp] at h0 h1
    rw [hcells, show 9 + 2 * k = 8 + 2 * k + 1 by omega]
    exact ⟨h0, h1⟩

end Sys2Proof.Machine
end

section
/-! PROOFS. Capture, frames, readout, accumulation and the pipelines (R28–R195). -/
set_option Elab.async false
namespace Sys2Proof.Machine

/-! ### What the moves of the history ring leave as it was -/

/-- A view of the state that does not see what freeing a history slot writes: of the counters of accumulation it may see those of
memory errors and scrubbing. -/
structure HistoryBlind {β : Type} (π : State → β) : Prop where
  accum : ∀ s x, π { s with accum := x } = π s
  accCnt : ∀ s (x : AccumCounters), x.eccCe = s.accCnt.eccCe → π { s with accCnt := x } = π s
  history : ∀ s x, π { s with history := x } = π s
  back : ∀ s x, π { s with back := x } = π s
  streams : ∀ s x, π { s with streams := x } = π s

theorem view_foldl {α β : Type} {π : State → β} {f : State → α → State} (hf : ∀ s a, π (f s a) = π s) (l : List α) (s : State) :
    π (l.foldl f s) = π s := by
  induction l generalizing s with
  | nil => rfl
  | cons a l ih => rw [List.foldl_cons, ih, hf]

theorem view_ite {β : Type} {π : State → β} {c : Prop} [Decidable c] {s a b : State} (ha : π a = π s) (hb : π b = π s) :
    π (if c then a else b) = π s := by
  split
  · exact ha
  · exact hb

section
variable {β : Type} {π : State → β} (h : HistoryBlind π)
include h

theorem view_decideTake (i : Nat) (id : FrameId) (s : State) : π (decideTake i id s).2 = π s := by
  unfold decideTake
  extract_lets c fresh
  split
  · split
    · rfl
    · exact h.back ..
  · exact h.back ..

theorem view_countRetract (s : State) : π (countRetract s) = π s := h.accCnt _ _ rfl

theorem view_discardEntries (i : Nat) (f : StreamEntry → Bool) (s : State) : π (discardEntries i f s) = π s := h.streams ..

theorem view_dropMarker (i : Nat) (id : FrameId) (hist : Bool) (header : State → List Word × State)
    (hh : ∀ s, π (header s).2 = π s) (back reason : Nat) (s : State) : π (dropMarker i id hist header back reason s).2 = π s := by
  unfold dropMarker
  extract_lets t
  split
  · exact (view_countRetract h _).trans (h.streams ..)
  · split
    · exact h.streams ..
    · exact (h.streams ..).trans (hh s)

theorem view_freshHeader (i : Nat) (f : FrameInfo) (s : State) : π (freshHeader i f s).2 = π s := by
  change π (takeLive i s) = π s
  unfold takeLive
  split
  · rfl
  · exact (h.streams ..).trans (h.back ..)

theorem view_decimate (i : Nat) (id : FrameId) (s : State) : π (decimate i id s).2 = π s := by
  unfold decimate
  extract_lets t
  split
  · split
    · rfl
    · exact h.streams ..
  · exact h.streams ..

theorem view_putDropped (i : Nat) (f : FrameInfo) (reason : Nat) (s : State) : π (putDropped i f reason s) = π s := by
  have hd := view_dropMarker h i f.id f.hist (freshHeader i f) (view_freshHeader h i f) 0 reason
    (removeBasted i f.id (countTaken i f.id s))
  have ht : π (removeBasted i f.id (countTaken i f.id s)) = π s :=
    (view_discardEntries h ..).trans (view_ite (view_decimate h ..) rfl)
  unfold putDropped
  split
  next e u heq =>
    rw [heq] at hd
    exact (h.streams ..).trans (hd.trans ht)
  next u heq =>
    rw [heq] at hd
    exact hd.trans ht

theorem view_dropOn (i : Nat) (f : FrameInfo) (reason : Nat) (s : State) : π (dropOn i f reason s) = π s := by
  have hd := view_decideTake h i f.id s
  exact (view_ite (s := (decideTake i f.id s).2) (view_putDropped h ..) rfl).trans hd

theorem view_passLost (i n : Nat) (s : State) : π (passLost i n s) = π s := by
  induction n generalizing s with
  | zero => rfl
  | succ n ih =>
    unfold passLost
    split
    · rfl
    next l ls heq =>
      refine view_ite rfl ?_
      have hd := view_decideTake h i l.frame.id s
      refine (ih _).trans (Eq.trans (view_ite (s := (decideTake i l.frame.id s).2) ?_ ?_) hd)
      · exact (h.back ..).trans ((view_putDropped h ..).trans (h.back ..))
      · exact h.back ..

theorem view_skipOnStreams (f : FrameRec) (s : State) : π (skipOnStreams f s) = π s :=
  (view_foldl (fun _ _ => view_ite (view_dropOn h ..) rfl) _ _).trans (h.accum ..)

theorem view_rawMissed (x : HistFrame) (s : State) : π (rawMissed x s) = π s :=
  view_foldl (fun _ _ => view_ite ((view_passLost h ..).trans (h.back ..)) rfl) _ _

theorem view_freeSlot (k : Nat) (x : HistFrame) (s : State) : π (freeSlot k x s) = π s := by
  refine (view_rawMissed h ..).trans (view_ite (h.history ..) ?_)
  exact (view_skipOnStreams h ..).trans ((h.accCnt (setHistSlot s k none)
    { (setHistSlot s k none).accCnt with frontSkipped := satInc (setHistSlot s k none).accCnt.frontSkipped } rfl).trans (h.history ..))

theorem view_clearBorrowed (s : State) : π (clearBorrowed s) = π s := by
  unfold clearBorrowed
  split
  · exact view_ite (view_freeSlot h ..) rfl
  · rfl

end

/-! ### What arbitration and deferred sets leave as they were -/

/-- Arbitration writes what it grants, what it reports of the limits, and the event log. -/
theorem arbitrate_eq (s : State) : ∃ g l n e, arbitrate s = { s with
    power := { s.power with granted := g, limitRaised := l, powerLimits := n }, events := e } := by
  have hlim : ∀ (a0 a1 : Nat) (u : State), (∃ g l n e, u = { s with
      power := { s.power with granted := g, limitRaised := l, powerLimits := n }, events := e }) →
      ∃ g l n e, powerLimit a0 a1 u = { s with
        power := { s.power with granted := g, limitRaised := l, powerLimits := n }, events := e } := by
    rintro a0 a1 u ⟨g, l, n, e, rfl⟩
    unfold powerLimit raise
    split
    · exact ⟨_, _, _, _, rfl⟩
    · extract_lets ev
      split
      · exact ⟨_, _, _, _, rfl⟩
      · exact ⟨_, _, _, _, rfl⟩
  unfold arbitrate
  extract_lets +onlyGivenNames c g0 before g1 g2 x s1
  have h1 : ∃ g l n e, s1 = { s with power := { s.power with granted := g, limitRaised := l, powerLimits := n }, events := e } :=
    ⟨_, _, _, _, rfl⟩
  clear_value s1
  extract_lets +onlyGivenNames s2
  have h2 : ∃ g l n e, s2 = { s with power := { s.power with granted := g, limitRaised := l, powerLimits := n }, events := e } := by
    dsimp only [s2]
    split
    · exact hlim _ _ _ h1
    · exact h1
  clear_value s2
  extract_lets +onlyGivenNames rest none s3
  have h3 : ∃ g l n e, s3 = { s with power := { s.power with granted := g, limitRaised := l, powerLimits := n }, events := e } := by
    dsimp only [s3]
    split
    · exact hlim _ _ _ h2
    · exact h2
  clear_value s3
  obtain ⟨g, l, n, e, rfl⟩ := h3
  split
  · exact ⟨_, _, _, _, rfl⟩
  · exact ⟨_, _, _, _, rfl⟩

/-- An event is written to the log alone. -/
theorem raise_eq (c a0 a1 a2 : Nat) (s : State) : ∃ e, raise c a0 a1 a2 s = { s with events := e } := by
  unfold raise
  extract_lets ev
  split
  · exact ⟨_, rfl⟩
  · exact ⟨_, rfl⟩

theorem deferEvents_eq {α : Type} (d : Nat) (l : List (PendingSet α)) (s : State) :
    ∃ e, deferEvents d l s = { s with events := e } := by
  unfold deferEvents
  generalize (l.filter fun x => x.req.isSome) = l
  induction l generalizing s with
  | nil => exact ⟨_, rfl⟩
  | cons x l ih =>
    obtain ⟨e, he⟩ := raise_eq 0x0107 x.tag.toNat x.eff.toNat d s
    obtain ⟨e', he'⟩ := ih { s with events := e }
    refine ⟨e', ?_⟩
    rw [List.foldl_cons, he, he']

/-- Placing the class F sets of a first frame writes the sets that wait and the event log. -/
theorem settleClassF_eq (first : FrameId) (s : State) : ∃ k k2 e, settleClassF first s = { s with
    exposure := { s.exposure with pendingSets := k }, front := { s.front with pendingSets := k2 }, events := e } := by
  unfold settleClassF
  split
  next k m d heq =>
  split
  next k2 m2 d2 heq2 =>
  extract_lets +onlyGivenNames x y s1
  obtain ⟨e1, h1⟩ := deferEvents_eq 0 m s1
  obtain ⟨e2, h2⟩ := deferEvents_eq 1 d { s1 with events := e1 }
  obtain ⟨e3, h3⟩ := deferEvents_eq 0 m2 { s1 with events := e2 }
  obtain ⟨e4, h4⟩ := deferEvents_eq 1 d2 { s1 with events := e3 }
  refine ⟨k, k2, e4, ?_⟩
  rw [h1, h2, h3, h4]

/-! ### The start of a capture (R74, R76) -/

/-- What a start of capture sees of the state that it restarts. -/
def startView (s : State) : ExposureState × Counter × Instant := (s.exposure, s.accCnt.eccCe, s.now)

theorem startView_blind : HistoryBlind startView where
  accum _ _ := rfl
  accCnt s x h := by simp only [startView, h]
  history _ _ := rfl
  back _ _ := rfl
  streams _ _ := rfl

theorem startView_takeRatio (s : State) : startView (takeRatio s) = startView s := by
  unfold takeRatio
  split
  · simp only [startView]
  · rfl

/-- Settles O27. -/
theorem startOfCaptureRestartsItsCounts : Obligations.StartOfCaptureRestartsItsCounts := by
  intro first s
  have hview : startView (clearBorrowed (takeRatio s)) = startView s :=
    (view_clearBorrowed startView_blind _).trans (startView_takeRatio s)
  simp only [startView, Prod.mk.injEq] at hview
  obtain ⟨hexp, hecc, hnow⟩ := hview
  unfold startCapture
  extract_lets +onlyGivenNames t s1 x1 x2 x3 x4 x5 x6 s2
  obtain ⟨k, k2, e, hf⟩ := settleClassF_eq first s2
  obtain ⟨g, l, n, e', ha⟩ := arbitrate_eq (vendorFresh (settleClassF first s2))
  rw [ha, hf]
  have hcfg : (clearBorrowed (takeRatio s)).exposure.cfg = s.exposure.cfg := by rw [hexp]
  have htrig : (clearBorrowed (takeRatio s)).exposure.trig = s.exposure.trig := by rw [hexp]
  refine ⟨rfl, rfl, rfl, hecc, rfl, ?_, rfl, hcfg, htrig, hnow⟩
  change (if t.mode == 0 then some (s1.now.tclk + 100000) else none) = _
  rw [show s1.now = s.now from hnow]
  exact if_congr beq_iff_eq rfl rfl

/-! ### Capture commands (R44, R74, R75, R77) -/

/-- The slots that frozen frames hold. -/
def frozenCount (s : State) : Nat :=
  match s.history.frozenSet with
  | some (n, _, _) => n
  | none => 0

/-- A capture configuration in range is taken unless the state refuses it. -/
theorem captureConfigBody_of_fit {c : Cmd} {s : State} {new : CaptureCfg}
    (hnew : new = captureOf (overlay c.words (captureWords s.exposure.cfg)))
    (hr : firstReserved c.words captureMasks = none) (hbad : captureBad new = none)
    (hval : paramsValid s.rst.fuses.variantMl new s.exposure.inForce = true)
    (hper : s.exposure.trig.mode = 2 → periodOk s new s.exposure.trig.rtPeriod = true) :
    captureConfigBody c s =
      if !captureStopped s || s.clock.limp then cmdRefuse s .wrongState
      else if testRunning s then cmdRefuse s .busy
      else if frozenCount s ≠ 0 && new.accum.histH != s.exposure.cfg.accum.histH then cmdRefuse s .busy
      else if frozenCount s ≠ 0 && usesPreRef new && 19 < new.accum.histH.toNat + frozenCount s then cmdRefuse s .busy
      else if pillowConflict s new s.front.cfg then cmdRefuse s .busy
      else if new.exposure.flkSrc == 2 && s.exposure.cfg.exposure.flkSrc != 2 &&
          (s.timers.chans.getD 7 {}).running then cmdRefuse s .busy
      else if new.exposure.flkSrc != 2 && mcvNeedsMains s then cmdRefuse s .busy
      else cmdOk (arbitrate { s with exposure := { s.exposure with
        cfg := new
        mainsEdges := if new.exposure.flkSrc == 2 && s.exposure.cfg.exposure.flkSrc != 2 then []
          else s.exposure.mainsEdges } }) := by
  have hshort : (s.exposure.trig.mode == 2 && !periodOk s new s.exposure.trig.rtPeriod) = false := by
    cases hm : s.exposure.trig.mode == 2
    · rfl
    · rw [hper (beq_iff_eq.1 hm)]; rfl
  subst hnew
  unfold captureConfigBody
  extract_lets +onlyGivenNames ws new kept
  rw [judged_of_none _ _ hr, show captureBad new = none from hbad]
  extract_lets +onlyGivenNames breaks unfit short
  have hu : unfit new = false := by
    change (!paramsValid _ new _) = false
    rw [hval]; rfl
  rw [hu, show short new = false from hshort]
  rfl

/-- A trigger configuration in range is taken while capture is stopped. -/
theorem setTriggerBody_of_fit {c : Cmd} {s : State} {x : TriggerCfg}
    (hx : x = triggerOf (overlay c.words (triggerWords s.exposure.trig)))
    (hr : firstReserved c.words [0xFF7F, 0xFFFFFFFF, 0xFFFFFFFF, 0xFFFFFFFF, 0xFFFFFFFF, 0xFF, 0xFFFFFFFF] = none)
    (hmode : x.mode ≠ 3) (hburst : x.burst ≠ 0) (hdelay : x.delay.toNat ≤ 100000000)
    (hpin : x.mode = 1 → x.xoPin ≠ x.pin ∧ drivenByTimer s x.pin.toNat = false)
    (hmains : s.exposure.cfg.exposure.flkSrc = 2 → x.xoPin ≠ s.exposure.cfg.exposure.mainsTrg)
    (hxo : x.xoEn = true → drivenByTimer s x.xoPin.toNat = false)
    (hper : periodOk s s.exposure.cfg x.rtPeriod = true) :
    setTriggerBody c s = if s.exposure.phase = .stopped then
      cmdOk { s with exposure := { s.exposure with trig := x } } else cmdRefuse s .wrongState := by
  have h0 : ¬ (x.mode == 3 || x.burst == 0) = true := by
    rw [Bool.or_eq_true, beq_iff_eq, beq_iff_eq]
    exact not_or.2 ⟨hmode, hburst⟩
  have h1 : ¬ (x.mode == 1 && (x.xoPin == x.pin || drivenByTimer s x.pin.toNat)) = true := by
    rw [Bool.and_eq_true, Bool.or_eq_true, beq_iff_eq, beq_iff_eq]
    rintro ⟨hm, h | h⟩
    · exact (hpin hm).1 h
    · exact Bool.false_ne_true ((hpin hm).2.symm.trans h)
  have h2 : ¬ (s.exposure.cfg.exposure.flkSrc == 2 && x.xoPin == s.exposure.cfg.exposure.mainsTrg) = true := by
    rw [Bool.and_eq_true, beq_iff_eq, beq_iff_eq]
    exact fun h => hmains h.1 h.2
  have h3 : ¬ (x.xoEn && drivenByTimer s x.xoPin.toNat) = true := by
    rw [Bool.and_eq_true]
    exact fun h => Bool.false_ne_true ((hxo h.1).symm.trans h.2)
  have h4 : ¬ (!periodOk s s.exposure.cfg x.rtPeriod) = true := by
    rw [hper]
    exact Bool.false_ne_true
  unfold setTriggerBody
  extract_lets t
  rw [judged_of_none _ _ hr]
  obtain rfl : x = t := hx
  rw [if_neg h0, if_neg (Nat.not_lt.2 hdelay), if_neg h1, if_neg h2, if_neg h3, if_neg h4, captureStopped]
  by_cases hs : s.exposure.phase = .stopped
  · rw [if_pos hs, hs]
    rfl
  · rw [if_neg hs, if_pos]
    rw [Bool.not_eq_true', beq_eq_false_iff_ne]
    exact hs

theorem captureStopBody_of_idle {c : Cmd} {s : State} (hr : firstReserved c.words [1] = none) (h : s.exposure.phase ≠ .running) :
    captureStopBody c s = cmdOk s [s.exposure.lastFrame] := by
  rw [captureStopBody, judged_of_none _ _ hr, if_pos (bne_iff_ne.2 h)]

theorem captureStopBody_of_running {c : Cmd} {s : State} (hr : firstReserved c.words [1] = none) (h : s.exposure.phase = .running) :
    captureStopBody c s = if bitAt (paramAt c.words 0) 0 then cmdOk (stopImmediate .command (lastWhole s) s) [lastWhole s]
      else cmdOk (settleStop { s with exposure := { s.exposure with
        phase := .stopping, immediate := false, stopCause := .command
        lastFrame := if s.exposure.cur.isNone then s.exposure.firstId - 1 else s.exposure.frameId, nextFb := none
        burstLeft := 0, edgeDeferred := false, edgeQueue := [] } })
        [if s.exposure.cur.isNone then s.exposure.firstId - 1 else s.exposure.frameId] := by
  rw [captureStopBody, judged_of_none _ _ hr, if_neg (by rw [h]; decide)]

/-- A start of capture that nothing refuses. -/
theorem captureStartBody_of_fit {c : Cmd} {s : State} {first : FrameId} (hr : firstReserved c.words [1, 0xFFFFFFFF] = none)
    (hfirst : first = if bitAt (paramAt c.words 0) 0 then paramAt c.words 1 else s.exposure.frameId + 1)
    (htiles : (enabledTiles s.exposure.cfg s.readout.enableMask).isEmpty = false)
    (hgrid : s.exposure.trig.mode = 2 →
      (firstGrid s).isSome = true ∧ periodOk s s.exposure.cfg s.exposure.trig.rtPeriod = true)
    (hphase : s.power.phase = .idle) (hstop : s.exposure.phase = .stopped) (hlimp : s.clock.limp = false)
    (hhold : s.power.hold = false) (htest : s.readout.test = none) (hframes : s.accum.frames = [])
    (hadm : admission s { caseNow s with capture := true, pipeline := true } = none) :
    captureStartBody c s = cmdOk (startCapture first s) [first] := by
  have hg : ¬ (s.exposure.trig.mode == 2 && ((firstGrid s).isNone ||
      !periodOk s s.exposure.cfg s.exposure.trig.rtPeriod)) = true := by
    rw [Bool.and_eq_true, beq_iff_eq]
    rintro ⟨hm, h⟩
    obtain ⟨hsome, hper⟩ := hgrid hm
    rw [hper, Bool.not_true, Bool.or_false, Option.isNone_iff_eq_none] at h
    rw [h] at hsome
    exact Bool.false_ne_true hsome
  have hw : ¬ (s.power.phase != .idle || !captureStopped s || s.clock.limp || s.power.hold) = true := by
    rw [captureStopped, hphase, hstop, hlimp, hhold]
    decide
  unfold captureStartBody
  extract_lets f
  obtain rfl : first = f := hfirst
  rw [judged_of_none _ _ hr, htiles, if_neg Bool.false_ne_true, if_neg hg, if_neg hw, testRunning, htest,
    if_neg (by exact Bool.false_ne_true), hframes, if_neg (by exact Bool.false_ne_true), hadm]

/-! ### The frame a stop of capture leaves whole (R77) -/

theorem unreadFrames_of_read {s : State} {f : FrameRec} (hcur : s.exposure.cur = some f) (hj : subFrames f.cfg ≤ s.exposure.nextJ) :
    unreadFrames s = match s.readout.run with
      | some r => [r.frame.id]
      | none => [] := by
  have hnone : frameInProgress s = none := by
    rw [frameInProgress, hcur]
    dsimp only
    rw [if_neg (Nat.not_lt.2 hj), ite_self]
  rw [unreadFrames, hnone]
  rfl

theorem unreadFrames_of_running {s : State} {f : FrameRec} {r : ReadoutRun} (hcur : s.exposure.cur = some f)
    (hphase : s.exposure.phase = .running) (hj : s.exposure.nextJ < subFrames f.cfg) (hrun : s.readout.run = some r) :
    unreadFrames s = if r.frame.id = f.id then [f.id] else [r.frame.id, f.id] := by
  have hsome : frameInProgress s = some f := by
    rw [frameInProgress, hcur]
    dsimp only
    rw [hphase, if_neg (by decide), if_pos hj]
  rw [unreadFrames, hsome, hrun]
  by_cases h : r.frame.id = f.id
  · simp [h]
  · simp [h]

theorem lastWhole_eq (s : State) : lastWhole s = match unreadFrames s with
    | id :: _ => id - 1
    | [] => if s.exposure.cur.isNone then s.exposure.firstId - 1 else s.exposure.frameId := rfl

theorem abandonFrame_frames (id : FrameId) (s : State) :
    (abandonFrame id s).accum.frames = s.accum.frames.filter fun a => a.frame.id != id := rfl

theorem abandonFrames_frames (ids : List FrameId) (s : State) :
    (ids.foldl (fun s id => abandonFrame id s) s).accum.frames = s.accum.frames.filter fun a => !ids.contains a.frame.id := by
  induction ids generalizing s with
  | nil => simp
  | cons id ids ih =>
    rw [List.foldl_cons, ih, abandonFrame_frames, List.filter_filter]
    refine List.filter_congr fun a _ => ?_
    rw [List.contains_cons, Bool.not_or, Bool.and_comm]
    rfl

/-- Abandoning frames leaves the exposure and the readout as they were. -/
theorem abandonFrames_exposure (ids : List FrameId) (s : State) :
    (ids.foldl (fun s id => abandonFrame id s) s).exposure = s.exposure ∧
      (ids.foldl (fun s id => abandonFrame id s) s).readout = s.readout :=
  ⟨view_foldl (π := State.exposure) (f := fun s id => abandonFrame id s) (fun _ _ => rfl) ids s,
    view_foldl (π := State.readout) (f := fun s id => abandonFrame id s) (fun _ _ => rfl) ids s⟩

theorem settleStop_of_reading {s : State} (h : s.readout.run.isSome = true) : settleStop s = s := by
  have hd : readsDone s = false := by
    rw [readsDone, Option.isNone_eq_false_iff.2 h]
    rfl
  rw [settleStop, hd, Bool.and_false, if_neg Bool.false_ne_true]

/-- Settles O26. -/
theorem captureCommandsReplaceTheSettings : Obligations.CaptureCommandsReplaceTheSettings := by
  refine ⟨?_, ?_, ?_, ?_, ?_, ?_, ?_, ?_, ?_, ?_⟩
  case refine_1 =>
    intro t s p s1 c h hc hr hbad hval hper hstop hlimp htest hfrozen hpil hflk hmcv
    refine exec_of_body h rfl ((captureConfigBody_of_fit hc hr hbad hval hper).trans ?_) rfl
    have hstopped : captureStopped s1 = true := beq_iff_eq.2 hstop
    have hidle : testRunning s1 = false := by rw [testRunning, htest]; rfl
    have hkept : frozenCount s1 = 0 ∨ (c.accum.histH = s1.exposure.cfg.accum.histH ∧
        (usesPreRef c = true → c.accum.histH.toNat + frozenCount s1 ≤ 19)) := by
      unfold frozenCount
      cases hz : s1.history.frozenSet with
      | none => exact .inl rfl
      | some x => exact hfrozen x hz
    have hstopped : ¬ (!captureStopped s1 || s1.clock.limp) = true := by
      rw [captureStopped, hstop, hlimp]
      decide
    have hidle : ¬ testRunning s1 = true := by
      rw [testRunning, htest]
      exact Bool.false_ne_true
    have hH : ¬ (frozenCount s1 ≠ 0 && c.accum.histH != s1.exposure.cfg.accum.histH) = true := by
      rw [Bool.and_eq_true, decide_eq_true_eq, bne_iff_ne]
      rintro ⟨hk, hne⟩
      exact hkept.elim hk fun h => hne h.1
    have hpre : ¬ (frozenCount s1 ≠ 0 && usesPreRef c && 19 < c.accum.histH.toNat + frozenCount s1) = true := by
      rw [Bool.and_eq_true, Bool.and_eq_true, decide_eq_true_eq, decide_eq_true_eq]
      rintro ⟨⟨hk, hu⟩, hlt⟩
      exact hkept.elim hk fun h => Nat.not_lt.2 (h.2 hu) hlt
    have hf : ¬ (c.exposure.flkSrc == 2 && s1.exposure.cfg.exposure.flkSrc != 2 &&
        (s1.timers.chans.getD 7 {}).running) = true := by
      rw [Bool.and_eq_true, Bool.and_eq_true, beq_iff_eq, bne_iff_ne]
      rintro ⟨⟨h2, hne⟩, hrun⟩
      exact Bool.false_ne_true ((hflk h2 hne).symm.trans hrun)
    have hm : ¬ (c.exposure.flkSrc != 2 && mcvNeedsMains s1) = true := by
      rw [Bool.and_eq_true, bne_iff_ne]
      rintro ⟨hne, hneeds⟩
      exact Bool.false_ne_true ((hmcv hne).symm.trans hneeds)
    rw [if_neg hstopped, if_neg hidle, if_neg hH, if_neg hpre, hpil, if_neg Bool.false_ne_true, if_neg hf, if_neg hm]
    simp only [Bool.and_eq_true, beq_iff_eq, bne_iff_ne]
  case refine_2 =>
    intro t s p s1 c h hc hr hbad hval hper hstop
    refine exec_of_body h rfl ((captureConfigBody_of_fit hc hr hbad hval hper).trans (if_pos ?_)) rfl
    rw [captureStopped, beq_eq_false_iff_ne.2 hstop]
    rfl
  case refine_3 =>
    intro t s p s1 x h hx hr hmode hburst hdelay hpin hmains hxo hper
    refine exec_of_body h rfl (setTriggerBody_of_fit hx hr hmode hburst hdelay hpin hmains hxo hper) ?_
    split
    · rfl
    · rfl
  case refine_4 => exact fun t s p s1 h hr hphase => exec_of_body h rfl (captureStopBody_of_idle hr hphase) rfl
  case refine_5 =>
    intro t s p s1 h hr hbit hphase hcur
    refine exec_of_body h rfl ((captureStopBody_of_running hr hphase).trans ?_) rfl
    rw [par_eq, hbit, if_neg Bool.false_ne_true, Option.isNone_eq_false_iff.2 hcur, if_neg Bool.false_ne_true]
  case refine_6 =>
    intro t s p s1 h hr hbit hphase
    refine exec_of_body h rfl ((captureStopBody_of_running hr hphase).trans ?_) rfl
    rw [par_eq, hbit, if_pos rfl]
  case refine_7 =>
    intro s f r hcur hrun hf hj
    rw [lastWhole_eq, unreadFrames_of_read hcur hj, hrun]
    exact congrArg (fun x : FrameRec => x.id - 1) hf
  case refine_8 =>
    intro s f hcur hrun hj
    rw [lastWhole_eq, unreadFrames_of_read hcur hj, hrun, hcur]
    rfl
  case refine_9 =>
    intro cause last s f r ids hcur hphase hj hrun hids
    have hunread := (unreadFrames_of_running hcur hphase hj hrun).trans hids.symm
    have hcause : firstCause cause s = cause := by
      rw [firstCause, hphase]
      rfl
    unfold stopImmediate
    extract_lets +onlyGivenNames cut x u
    obtain ⟨hexp, hread⟩ := abandonFrames_exposure cut u
    rw [settleStop_of_reading (by rw [hread]; exact (congrArg Option.isSome hrun).trans rfl), hexp, abandonFrames_frames]
    refine ⟨?_, rfl, hunread, rfl, hcause, rfl, ?_⟩
    · rw [lastWhole_eq, hunread, hids]
      by_cases heq : r.frame.id = f.id
      · rw [if_pos heq]
        rfl
      · rw [if_neg heq]
        rfl
    · rw [show cut = ids from hunread]
  case refine_10 =>
    intro t s p s1 first h hr hfirst htiles hgrid hphase hstop hlimp hhold htest hframes hadm
    exact exec_of_body h rfl
      (captureStartBody_of_fit hr hfirst htiles hgrid hphase hstop hlimp hhold htest hframes hadm) rfl

/-! ### Sets of frame parameters and tile maps (R41, R68–R71) -/

theorem applyFrameUpd_eq (p : FrameParams) (u : FrameUpd) : applyFrameUpd p u =
    ⟨u.tSub.getD p.tSub, u.d0.getD p.d0, u.exps.getD p.exps, u.globalRung.getD p.globalRung, u.map.getD p.map⟩ := rfl

/-- How a set is answered: refused in one state, or accepted in the other. -/
def answerSet (s s1 : State) : Submission FrameUpd → CmdResult
  | .refused st => cmdRefuse s st
  | .accepted x late shown => acceptFrameSet x late shown s1

section
variable {c : Cmd} {s : State} {u : FrameUpd}
  (hu : u = frameUpdOf (overlay c.words ([0, 0] ++ frameParamWords s.exposure.inForce)))

include hu in
/-- Sub-frames that flicker sets, and a first rung that auto-exposure owns, are not to be set. -/
theorem setFrameParamsBody_of_owned (h : (u.tSub.isSome = true ∧ s.exposure.cfg.exposure.flkBal = true) ∨
    ((u.d0.isSome = true ∨ u.globalRung.isSome = true) ∧ aeOwnsD0 s = true)) :
    setFrameParamsBody c s = cmdRefuse s .wrongState := by
  unfold setFrameParamsBody
  extract_lets ws v sub
  obtain rfl : u = v := hu
  refine if_pos ?_
  simp only [Bool.or_eq_true, Bool.and_eq_true]
  exact h

include hu in
/-- A set of frame parameters is answered as its place among the sets says. -/
theorem setFrameParamsBody_of_fit
    (hr : firstReserved c.words [0x3000F, 0xFFFFFFFF, 0xFFFFFFFF, 0xFFFFFFFF, 0x0FFFFFFF, 7] = none)
    (hsub : u.tSub.isSome = true → s.exposure.cfg.exposure.flkBal = false)
    (hd0 : u.d0.isSome = true ∨ u.globalRung.isSome = true → aeOwnsD0 s = false) (htest : s.readout.test = none)
    (hadm : paramsAdmission s u = none) {r : Submission FrameUpd}
    (hsubmit : submitSet applyFrameUpd (frameValid s) s.exposure.inForce s.exposure.pendingSets s c
      (bitAt (paramAt c.words 0) 17) (if bitAt (paramAt c.words 0) 16 then some (paramAt c.words 1) else none) u = r)
    (hbad : r ≠ .refused .badParam) :
    setFrameParamsBody c s = answerSet s s r := by
  have hidle : testRunning s = false := by rw [testRunning, htest]; rfl
  have howned : ¬ ((u.tSub.isSome && s.exposure.cfg.exposure.flkBal) ||
      ((u.d0.isSome || u.globalRung.isSome) && aeOwnsD0 s)) = true := by
    simp only [Bool.or_eq_true, Bool.and_eq_true]
    rintro (⟨h, hf⟩ | ⟨h, hf⟩)
    · exact Bool.false_ne_true ((hsub h).symm.trans hf)
    · exact Bool.false_ne_true ((hd0 h).symm.trans hf)
  unfold setFrameParamsBody
  extract_lets ws v sub
  obtain rfl : u = v := hu
  rw [if_neg howned, judged_of_none _ _ hr]
  have hr' : sub = r := by
    dsimp only [sub, judgeFrameSet]
    exact hsubmit
  rw [hr', hidle, hadm]
  cases h : r with
  | accepted x late shown => exact if_neg Bool.false_ne_true
  | refused st =>
    cases st with
    | badParam => exact absurd h hbad
    | busy => rfl
    | _ => exact if_neg Bool.false_ne_true
end

section
variable {c : Cmd} {s : State} {st : List (Nat × Word)} (hr : firstReserved (c.words.take 3) [0xE000F, 0x7FF, 0xFFFFFFFF] = none)
  (htest : s.readout.test = none)
include hr htest

/-- Words of the tile enable mask are staged while capture is stopped, and COMMIT puts them in force. -/
theorem loadTileMapBody_of_enable (hkind : fldN (paramAt c.words 0) 0 4 = 1)
    (hlen : fldN (paramAt c.words 1) 0 11 + (c.words.drop 3).length ≤ 384) (hstop : s.exposure.phase = .stopped) :
    loadTileMapBody c s = cmdOk { s with readout := { s.readout with
      enableStaging := smSetMany 0xFFFFFFFF s.readout.enableStaging (fldN (paramAt c.words 1) 0 11) (c.words.drop 3)
      enableMask := if bitAt (paramAt c.words 0) 19 then
          smSetMany 0xFFFFFFFF s.readout.enableStaging (fldN (paramAt c.words 1) 0 11) (c.words.drop 3)
        else s.readout.enableMask } } [0] := by
  have hstopped : ¬ (!captureStopped s) = true := by
    rw [captureStopped, hstop]
    decide
  have hidle : testRunning s = false := by rw [testRunning, htest]; rfl
  unfold loadTileMapBody
  extract_lets +onlyGivenNames w0 off data enable commit size
  have hsize : ¬ size < off + data.length := by
    rw [show size = 384 from if_pos hkind]
    exact Nat.not_lt.2 hlen
  rw [judged_of_none _ _ hr, if_neg (by rw [hkind]; decide), if_neg hsize, if_pos hkind, if_neg hstopped, hidle,
    if_neg Bool.false_ne_true]

/-- Words of the tile map are staged, and COMMIT submits the map as a set of frame parameters. -/
theorem loadTileMapBody_of_map (hkind : fldN (paramAt c.words 0) 0 4 = 0)
    (hlen : fldN (paramAt c.words 1) 0 11 + (c.words.drop 3).length ≤ 1152)
    (hst : st = smSetMany 0 s.exposure.mapStaging (fldN (paramAt c.words 1) 0 11) (c.words.drop 3)) {r : Submission FrameUpd}
    (hsubmit : submitSet applyFrameUpd (frameValid s) s.exposure.inForce s.exposure.pendingSets s c
      (bitAt (paramAt c.words 0) 18) (if bitAt (paramAt c.words 0) 17 then some (paramAt c.words 2) else none)
      { map := some st } = r) (hbad : bitAt (paramAt c.words 0) 19 = true → r ≠ .refused .badParam) :
    loadTileMapBody c s = if !bitAt (paramAt c.words 0) 19 then
        cmdOk { s with exposure := { s.exposure with mapStaging := st } } [0]
      else if s.exposure.cfg.exposure.expSrc then cmdRefuse s .wrongState
      else answerSet s { s with exposure := { s.exposure with mapStaging := st } } r := by
  have hidle : testRunning s = false := by rw [testRunning, htest]; rfl
  subst hst
  unfold loadTileMapBody
  extract_lets +onlyGivenNames w0 off data enable commit size
  have he : ¬ enable := by
    change ¬ fldN (paramAt c.words 0) 0 4 = 1
    rw [hkind]
    decide
  have hsize : ¬ size < off + data.length := by
    rw [show size = 1152 from if_neg he]
    exact Nat.not_lt.2 hlen
  rw [judged_of_none _ _ hr, if_neg (by rw [hkind]; decide), if_neg hsize, if_neg he]
  extract_lets +onlyGivenNames st x s1 target
  rw [hidle, if_neg Bool.false_ne_true]
  by_cases hc : bitAt (paramAt c.words 0) 19 = true
  · have hcommit : ¬ (!bitAt (paramAt c.words 0) 19) = true := by
      rw [hc]
      exact Bool.false_ne_true
    rw [if_neg hcommit, if_neg hcommit, hsubmit]
    cases h : r with
    | accepted x late shown => rfl
    | refused st =>
      cases st with
      | badParam => exact absurd h (hbad hc)
      | _ => rfl
  · have hcommit : (!bitAt (paramAt c.words 0) 19) = true := by
      rw [eq_false_of_ne_true hc]
      rfl
    rw [if_pos hcommit, if_pos hcommit]

end

/-- Settles O28. -/
theorem frameSetsWaitForTheirFrame : Obligations.FrameSetsWaitForTheirFrame := by
  refine ⟨?_, ?_, ?_, ?_, ?_, ?_, applyFrameUpd_eq⟩
  case refine_1 =>
    intro t s p s1 u x late shown h hu hr hsub hd0 htest hadm hsubmit
    exact exec_of_body h rfl (setFrameParamsBody_of_fit hu hr hsub hd0 htest hadm hsubmit (by rintro ⟨⟩)) rfl
  case refine_2 =>
    intro t s p s1 u st h hu hr hsub hd0 htest hadm hsubmit hst
    exact exec_of_body h rfl
      (setFrameParamsBody_of_fit hu hr hsub hd0 htest hadm hsubmit fun heq => hst (by injection heq)) rfl
  case refine_3 => exact fun t s p s1 u h hu howned => exec_of_body h rfl (setFrameParamsBody_of_owned hu howned) rfl
  case refine_4 =>
    intro t s p s1 h hr hkind hlen hstop htest
    exact exec_of_body h rfl (loadTileMapBody_of_enable hr htest hkind hlen hstop) rfl
  case refine_5 =>
    intro t s p s1 h hr hkind hcommit hlen htest
    have hstage : (!bitAt (par p 0) 19) = true := by
      rw [hcommit]
      rfl
    exact exec_of_body h rfl ((loadTileMapBody_of_map hr htest hkind hlen rfl rfl fun hc =>
      absurd (hcommit.symm.trans hc) Bool.false_ne_true).trans (if_pos hstage)) rfl
  case refine_6 =>
    intro t s p s1 x late shown h hr hkind hcommit hlen hsrc htest hsubmit
    have hstage : ¬ (!bitAt (par p 0) 19) = true := by
      rw [hcommit]
      exact Bool.false_ne_true
    refine exec_of_body h rfl ((loadTileMapBody_of_map hr htest hkind hlen rfl hsubmit (by rintro - ⟨⟩)).trans
      ((if_neg hstage).trans ?_)) rfl
    rw [hsrc, if_neg Bool.false_ne_true]
    rfl

/-! ### HISTORY_FREEZE and HISTORY_READ (R81) -/

/-- A freeze that fires while a set is held or while another goes on is counted and ignored. -/
theorem fireFreeze_of_held {s : State} (w : FreezeWait) (tf : Nat)
    (h : s.history.frozenSet.isSome = true ∨ s.history.freezeActive.isSome = true) :
    fireFreeze w tf s = { s with expCnt := { s.expCnt with freezeIgnored := satInc s.expCnt.freezeIgnored } } := by
  rw [fireFreeze, if_pos ((Bool.or_eq_true ..).mpr h)]

theorem tryRelease_of_reading {s : State} (h : historyReadPending s = true) : tryRelease s = s := by
  rw [tryRelease, h, Bool.not_true, Bool.and_false, if_neg Bool.false_ne_true]

/-- A release that no reading holds up thaws every slot and ends the freeze. -/
theorem tryRelease_history {s : State} {a : Nat × FrameId × FrameId} (hw : s.history.releaseWait = true)
    (hf : s.history.frozenSet = some a) (hr : historyReadPending s = false) :
    (tryRelease s).history = { s.history with
      slots := s.history.slots.map fun x => x.map fun h => { h with frozen := false }
      frozenSet := none
      releaseWait := false } := by
  obtain ⟨n, a, b⟩ := a
  rw [tryRelease, hw, hr, hf]
  obtain ⟨e, he⟩ := raise_eq 0x010B n a.toNat b.toNat { s with history := { s.history with
    slots := s.history.slots.map fun x => x.map fun h => { h with frozen := false }, frozenSet := none, releaseWait := false } }
  exact congrArg State.history he

/-- The frozen frames of a range are those of its ids that a frozen slot holds. -/
theorem filterMap_ite_eq_filter {α β : Type} (f : α → β) (q : β → Bool) (l : List α) :
    (l.filterMap fun d => if q (f d) then some (f d) else none) = (l.map f).filter q := by
  rw [← List.filterMap_eq_filter, List.filterMap_map]
  rfl

/-- HISTORY_READ of frames that are frozen queues them on its stream. -/
theorem historyReadBody_of_fit {c : Cmd} {s : State} {ids : List FrameId} (hlen : c.words.length = 3)
    (hr : firstReserved c.words [7, 0xFFFFFFFF, 15] = none) (h1 : 1 ≤ fldN (paramAt c.words 2) 0 4)
    (h10 : fldN (paramAt c.words 2) 0 4 ≤ 10) (hfrozen : s.history.frozenSet.isSome = true)
    (hen : (stream s (fldN (paramAt c.words 0) 0 3)).enabled = true)
    (hraw : isRaw20 (streamCfg s (fldN (paramAt c.words 0) 0 3)) = true) (hpend : historyReadPending s = false)
    (hids : ids = ((List.range (fldN (paramAt c.words 2) 0 4)).map fun d => paramAt c.words 1 + BitVec.ofNat 32 d).filter
      fun id => (heldSlots s).any fun x => x.2.frozen && x.2.frame.id == id) (hne : ids ≠ []) :
    historyReadBody c s = cmdOk (updChannel s (fldN (paramAt c.words 0) 0 3) fun c => { c with histQueue := ids })
      [wordOf ids.length, ids.headD 0] := by
  unfold historyReadBody
  extract_lets i first count ids'
  have hcount : count = fldN (paramAt c.words 2) 0 4 := if_neg (by rw [hlen]; decide)
  rw [judged_of_none _ _ hr]
  have heq : ids' = ids := by
    rw [hids, ← hcount]
    exact filterMap_ite_eq_filter (fun d => first + BitVec.ofNat 32 d)
      (fun id => (heldSlots s).any fun x => x.2.frozen && x.2.frame.id == id) (List.range count)
  have hempty : ¬ ids.isEmpty = true := fun h => hne (List.isEmpty_iff.1 h)
  have hstream : ¬ (!((stream s i).enabled && isRaw20 (streamCfg s i))) = true := by
    rw [show (stream s i).enabled = true from hen, show isRaw20 (streamCfg s i) = true from hraw]
    decide
  have hrange : ¬ (count = 0 || 10 < count) = true := by
    rw [Bool.or_eq_true, decide_eq_true_eq, decide_eq_true_eq, hcount]
    omega
  rw [if_neg hrange, Option.isNone_eq_false_iff.2 hfrozen, if_neg Bool.false_ne_true, heq, if_neg hempty, if_neg hstream,
    hpend, if_neg Bool.false_ne_true]

section
variable {c : Cmd} {s : State} (hr : firstReserved c.words [0x1F0F3F, 0xFFFFFFFF, 0xFFFFFFFF] = none)
include hr

theorem historyFreezeBody_of_release (hsrc : fldN (paramAt c.words 0) 0 2 = 3) :
    historyFreezeBody c s = if s.history.frozenSet.isSome then
        cmdOk (tryRelease { s with history := { s.history with releaseWait := true } })
      else cmdOk s := by
  unfold historyFreezeBody
  extract_lets w0 source pin k post h
  rw [judged_of_none _ _ hr, if_pos (show source = 3 from hsrc)]

/-- HISTORY_FREEZE whose COUNT and POST the ring can hold. -/
theorem historyFreezeBody_of_fit (hne : c.words ≠ []) (hsrc : fldN (paramAt c.words 0) 0 2 ≠ 3)
    (h1 : 1 ≤ fldN (paramAt c.words 0) 8 4) (h10 : fldN (paramAt c.words 0) 8 4 ≤ 10)
    (hH : fldN (paramAt c.words 0) 8 4 ≤ s.exposure.cfg.accum.histH.toNat)
    (hslots : s.exposure.cfg.accum.histH.toNat + fldN (paramAt c.words 0) 8 4 ≤ (if usesPreRef s.exposure.cfg then 19 else 20))
    (hpost : fldN (paramAt c.words 0) 16 5 < fldN (paramAt c.words 0) 8 4)
    (hpin : fldN (paramAt c.words 0) 0 2 = 1 → drivenByTimer s (fldN (paramAt c.words 0) 2 3) = false)
    (hnow : fldN (paramAt c.words 0) 0 2 = 0 → s.exposure.phase = .stopped → heldSlots s ≠ []) {w : FreezeWait}
    (hw : w = { source := fld (paramAt c.words 0) 0 2, pin := fld (paramAt c.words 0) 2 3, falling := bitAt (paramAt c.words 0) 5
                k := fldN (paramAt c.words 0) 8 4, post := fldN (paramAt c.words 0) 16 5
                rt := join64 (paramAt c.words 1) (paramAt c.words 2) }) :
    historyFreezeBody c s = if s.history.frozenSet.isSome || s.history.freezeActive.isSome then cmdRefuse s .busy
      else cmdOk (if fldN (paramAt c.words 0) 0 2 = 0 then fireFreeze w s.now.tclk s
        else { s with history := { s.history with freezeWait := some w } }) := by
  subst hw
  unfold historyFreezeBody
  extract_lets +onlyGivenNames w0 source pin k post h
  have hk : k = fldN (paramAt c.words 0) 8 4 := if_neg fun h => hne (List.isEmpty_iff.1 h)
  have hrange : ¬ (k = 0 || 10 < k || h < k || (if usesPreRef s.exposure.cfg then 19 else 20) < h + k || k ≤ post) = true := by
    simp only [Bool.or_eq_true, decide_eq_true_eq, hk, not_or, Nat.not_lt, Nat.not_le]
    exact ⟨⟨⟨⟨Nat.one_le_iff_ne_zero.1 h1, h10⟩, hH⟩, hslots⟩, hpost⟩
  have hpin' : ¬ (source = 1 && drivenByTimer s pin) = true := by
    rw [Bool.and_eq_true, decide_eq_true_eq]
    exact fun h => Bool.false_ne_true ((hpin h.1).symm.trans h.2)
  have hnow' : ¬ (source = 0 && captureStopped s && (heldSlots s).isEmpty) = true := by
    rw [Bool.and_eq_true, Bool.and_eq_true, decide_eq_true_eq, captureStopped, beq_iff_eq, List.isEmpty_iff]
    exact fun h => hnow h.1.1 h.1.2 h.2
  rw [judged_of_none _ _ hr, if_neg (show ¬ source = 3 from hsrc), if_neg hrange, if_neg hpin', if_neg hnow']
  refine if_congr Iff.rfl rfl ?_
  rw [hk]
  by_cases hs : source = 0
  · rw [if_pos hs, if_pos (show fldN (paramAt c.words 0) 0 2 = 0 from hs)]
  · rw [if_neg hs, if_neg (show ¬ fldN (paramAt c.words 0) 0 2 = 0 from hs)]

end

/-- Settles O29. -/
theorem historyCommandsFreezeAndReadFrames : Obligations.HistoryCommandsFreezeAndReadFrames := by
  refine ⟨?_, ?_, ?_, ?_, ?_, fun s h => tryRelease_of_reading h, ?_, fun w tf s h => fireFreeze_of_held w tf h, ?_, ?_⟩
  case refine_1 =>
    intro t s p s1 w h hne hr hsrc h1 h10 hH hslots hpost hpin hnow hfrozen hactive hw
    refine exec_of_body h rfl ((historyFreezeBody_of_fit hr hne hsrc h1 h10 hH hslots hpost hpin hnow hw).trans ?_) rfl
    rw [hfrozen, hactive]
    exact if_neg Bool.false_ne_true
  case refine_2 =>
    intro t s p s1 h hne hr hsrc h1 h10 hH hslots hpost hfrozen
    refine exec_of_body h rfl ((historyFreezeBody_of_fit hr hne ?_ h1 h10 hH hslots hpost ?_ ?_ rfl).trans
      (if_pos ?_)) rfl
    · rw [par_eq, hsrc]
      decide
    · rw [par_eq, hsrc]
      exact fun h => absurd h (by decide)
    · rw [par_eq, hsrc]
      exact fun h => absurd h (by decide)
    · rw [hfrozen, Bool.true_or]
  case refine_3 =>
    intro t s p s1 h hr hsrc hfrozen
    refine exec_of_body h rfl ((historyFreezeBody_of_release hr hsrc).trans (if_neg ?_)) rfl
    rw [hfrozen]
    exact Bool.false_ne_true
  case refine_4 =>
    intro t s p s1 h hr hsrc hfrozen
    exact exec_of_body h rfl ((historyFreezeBody_of_release hr hsrc).trans (if_pos hfrozen)) rfl
  case refine_5 =>
    intro s a hw hf hr
    rw [tryRelease_history hw hf hr]
    refine ⟨rfl, rfl, fun x hx h hxh => ?_⟩
    obtain ⟨y, -, rfl⟩ := List.mem_map.1 hx
    obtain ⟨z, -, rfl⟩ := Option.map_eq_some_iff.1 hxh
    rfl
  case refine_6 =>
    intro t s p s1 ids h hlen hr h1 h10 hfrozen hen hraw hpend hids hne
    exact exec_of_body h rfl (historyReadBody_of_fit hlen hr h1 h10 hfrozen hen hraw hpend hids hne) rfl
  case refine_7 =>
    intro t s w hw hsrc hrt
    change execRingTimeFreeze t s = _
    rw [execRingTimeFreeze, show (setNow t s).history.freezeWait = some w from hw]
    exact if_pos ((Bool.and_eq_true ..).mpr ⟨beq_iff_eq.2 hsrc, decide_eq_true hrt⟩)
  case refine_8 =>
    intro t s w hw hwait
    change execRingTimeFreeze t s = _
    rw [execRingTimeFreeze, show (setNow t s).history.freezeWait = some w from hw]
    refine if_neg ?_
    rw [Bool.and_eq_true, beq_iff_eq, decide_eq_true_eq]
    exact fun h => hwait.elim (fun hne => hne h.1) fun hlt => Nat.not_le.2 hlt h.2

/-! ### Frame boundaries (R57, R68, R71) -/

theorem takeFreeze_eq (last : FrameId) (k : Nat) (s : State) :
    ∃ h e, takeFreeze last k s = { s with history := h, events := e } := by
  have hraise : ∀ (c a0 a1 a2 : Nat) (u : State), (∃ h, u = { s with history := h }) →
      ∃ h e, raise c a0 a1 a2 u = { s with history := h, events := e } := by
    rintro c a0 a1 a2 u ⟨h, rfl⟩
    obtain ⟨e, he⟩ := raise_eq c a0 a1 a2 { s with history := h }
    exact ⟨h, e, he⟩
  have hfold : ∀ (l : List (Nat × HistFrame)) (u : State), (∃ h, u = { s with history := h }) →
      ∃ h, l.foldl (fun s x => updHist s x.1 fun h => { h with frozen := true }) u = { s with history := h } := by
    intro l
    induction l with
    | nil => exact fun u h => h
    | cons x l ih =>
      rintro u ⟨h, rfl⟩
      exact ih _ ⟨_, rfl⟩
  unfold takeFreeze
  extract_lets +onlyGivenNames x u set ids first newest
  split
  · exact hraise _ _ _ _ _ ⟨_, rfl⟩
  · extract_lets +onlyGivenNames v
    obtain ⟨h, hv⟩ := hfold set u ⟨_, rfl⟩
    refine hraise _ _ _ _ _ ⟨{ h with frozenSet := some (ids.length, first, newest) }, ?_⟩
    rw [show v = _ from hv]

theorem freezeAtBoundary_eq (id : FrameId) (fb : Nat) (s : State) :
    ∃ h e, freezeAtBoundary id fb s = { s with history := h, events := e } := by
  unfold freezeAtBoundary
  split
  · exact ⟨_, _, rfl⟩
  · split
    · exact ⟨_, _, rfl⟩
    · split
      · split
        · exact takeFreeze_eq ..
        · exact ⟨_, _, rfl⟩
      · extract_lets last
        split
        · exact takeFreeze_eq ..
        · exact ⟨_, _, rfl⟩

/-- An edge that waits gives the boundary after this one, and nothing else. -/
theorem nextEdge_eq (s : State) : ∃ fb nom q d, nextEdge s = { s with exposure := { s.exposure with
    nextFb := fb, nextFbNom := nom, edgeQueue := q, edgeDeferred := d } } := by
  unfold nextEdge
  split
  · exact ⟨_, _, _, _, rfl⟩
  · split
    · exact ⟨_, _, _, _, rfl⟩
    · exact ⟨_, _, _, _, rfl⟩
    · exact ⟨_, _, _, _, rfl⟩

/-- A boundary takes its class F sets from the sets that wait, and leaves the configuration and the order of frames. -/
theorem latchClassF_frame (pin : Bool) (fb : Nat) (n : FrameId) (s : State) :
    (latchClassF pin fb n s).exposure.cfg = s.exposure.cfg ∧ (latchClassF pin fb n s).readout = s.readout ∧
      (latchClassF pin fb n s).expCnt.framesStarted = s.expCnt.framesStarted := by
  unfold latchClassF
  extract_lets g
  split
  next due moved wait heq =>
  split
  next due2 moved2 wait2 heq2 =>
  extract_lets +onlyGivenNames s1
  obtain ⟨e1, h1⟩ := deferEvents_eq 0 moved (countAe moved s1)
  obtain ⟨e2, h2⟩ := deferEvents_eq 0 moved2 { countAe moved s1 with events := e1 }
  rw [h1, h2]
  exact ⟨rfl, rfl, rfl⟩

theorem beginFrame_frame (fb : Nat) (s : State) :
    (beginFrame fb s).exposure.frameId = s.exposure.nextId ∧ (beginFrame fb s).exposure.nextId = s.exposure.nextId + 1 ∧
    (beginFrame fb s).exposure.nextJ = 0 ∧ (beginFrame fb s).exposure.frameTick = some fb ∧
    (beginFrame fb s).expCnt.framesStarted = satInc s.expCnt.framesStarted ∧
    ((beginFrame fb s).exposure.cur.map fun f => (f.id, f.fb, f.cfg, f.mask)) =
      some (s.exposure.nextId, fb, s.exposure.cfg, s.readout.enableMask) := by
  unfold beginFrame
  extract_lets +onlyGivenNames n nominal pin fresh u f nom t left again x1 x2 x3 v
  obtain ⟨hcfg, hread, hcnt⟩ := latchClassF_frame pin fb n s
  obtain ⟨nfb, nnom, q, d, hedge⟩ := nextEdge_eq v
  obtain ⟨h, e, hfreeze⟩ := freezeAtBoundary_eq n fb (vendorRestart (nextEdge v))
  obtain ⟨g, l, k, e', harb⟩ := arbitrate_eq (freezeAtBoundary n fb (vendorRestart (nextEdge v)))
  rw [harb, hfreeze, hedge]
  have hf : (f.id, f.fb, f.cfg, f.mask) = (n, fb, s.exposure.cfg, s.readout.enableMask) := by
    rw [← hcfg, ← hread]
  exact ⟨rfl, rfl, rfl, rfl, congrArg satInc hcnt, congrArg some hf⟩

/-! ### The least boundary that readout allows (R58, R68) -/

theorem foldl_min_headD_mem {l : List Nat} (h : l ≠ []) (d : Nat) : l.foldl min (l.headD d) ∈ l := by
  cases l with
  | nil => exact absurd rfl h
  | cons a l => exact (foldl_min_spec (a :: l) a).1.elim (fun he => by rw [List.headD_cons, he]; exact List.mem_cons_self) id

/-- A list of sets holds, in order, the sets it was given. -/
theorem mem_sortSets {α : Type} {base : FrameId} {x : PendingSet α} {l : List (PendingSet α)} :
    x ∈ sortSets base l ↔ x ∈ l := by
  have hins : ∀ (ys : List (PendingSet α)) (y : PendingSet α), x ∈ insertSet base ys y ↔ x = y ∨ x ∈ ys := by
    intro ys y
    induction ys with
    | nil => simp [insertSet]
    | cons z ys ih =>
      rw [insertSet]
      split
      · exact List.mem_cons
      · rw [List.mem_cons, ih, List.mem_cons]
        exact or_left_comm
  have hfold : ∀ acc, x ∈ l.foldl (insertSet base) acc ↔ x ∈ acc ∨ x ∈ l := by
    induction l with
    | nil => simp
    | cons y l ih =>
      intro acc
      rw [List.foldl_cons, ih, hins, List.mem_cons, or_comm (a := x = y), or_assoc]
  exact (hfold []).trans (by simp)

/-- Past every set's guard the parameters of a boundary no longer depend on its time. -/
theorem paramsAt_of_settled {s : State} (n : FrameId) {a b : Nat} (h : ∀ x ∈ s.exposure.pendingSets,
    x.repliedAt.tclk + guardCycles s ≤ a ↔ x.repliedAt.tclk + guardCycles s ≤ b) : paramsAt s n a = paramsAt s n b := by
  refine congrArg (List.foldl _ _) (List.filter_congr fun x hx => ?_)
  rw [takenAt, takenAt, decide_eq_decide.2 (h x (mem_sortSets.1 hx))]

/-- The least boundary is not before its lower limit, nor before what its own parameters allow. -/
theorem leastBoundary_spec (s : State) (n : FrameId) (lo : Nat) (bound : Nat → Nat) :
    lo ≤ leastBoundary s n lo bound ∧
      bound (paramsAt s n (leastBoundary s n lo bound)).d0.toNat ≤ leastBoundary s n lo bound := by
  unfold leastBoundary
  extract_lets at_ steps cands
  change lo ≤ cands.foldl min (cands.headD (max lo (at_ lo))) ∧
    at_ (cands.foldl min (cands.headD (max lo (at_ lo)))) ≤ cands.foldl min (cands.headD (max lo (at_ lo)))
  have hlo : ∀ x ∈ lo :: steps, lo ≤ x := by
    intro x hx
    rcases List.mem_cons.1 hx with rfl | hx
    · exact Nat.le_refl _
    · exact Nat.le_of_lt (of_decide_eq_true (List.mem_filter.1 hx).2)
  have hcands : ∀ y ∈ cands, lo ≤ y ∧ at_ y ≤ y := by
    intro y hy
    obtain ⟨hmap, hle⟩ := List.mem_filter.1 hy
    obtain ⟨x, hx, rfl⟩ := List.mem_map.1 hmap
    exact ⟨Nat.le_trans (hlo x hx) (Nat.le_max_left ..), of_decide_eq_true hle⟩
  -- past the last guard the parameters are settled, so the candidate there stands
  have hne : cands ≠ [] := by
    obtain ⟨top, htop, hmax⟩ : ∃ top ∈ lo :: steps, ∀ x ∈ lo :: steps, x ≤ top := by
      obtain ⟨top, htop, hmax⟩ := (lo :: steps).toFinset.exists_max_image id ⟨lo, List.mem_toFinset.2 List.mem_cons_self⟩
      exact ⟨top, List.mem_toFinset.1 htop, fun x hx => hmax x (List.mem_toFinset.2 hx)⟩
    have hsettled : at_ (max top (at_ top)) = at_ top := by
      refine congrArg (fun p : FrameParams => bound p.d0.toNat) (paramsAt_of_settled n fun x hx => ?_)
      have hx' : x.repliedAt.tclk + guardCycles s ≤ top := by
        rcases Nat.lt_or_ge lo (x.repliedAt.tclk + guardCycles s) with hlt | hge
        · exact hmax _ (List.mem_cons_of_mem _ (List.mem_filter.2 ⟨List.mem_map.2 ⟨x, hx, rfl⟩, decide_eq_true hlt⟩))
        · exact Nat.le_trans hge (hlo top htop)
      exact iff_of_true (Nat.le_trans hx' (Nat.le_max_left ..)) hx'
    refine List.ne_nil_of_mem (List.mem_filter.2 ⟨List.mem_map.2 ⟨top, htop, rfl⟩, decide_eq_true ?_⟩)
    rw [hsettled]
    exact Nat.le_max_right ..
  exact hcands _ (foldl_min_headD_mem hne _)

theorem dueBoundary_of_next {s : State} {nom : Nat} (h : s.exposure.nextFb = some nom) :
    dueBoundary s = some (match lastBoundary s with
      | some sb => leastBoundary s s.exposure.nextId nom (stretchBound s sb)
      | none => nom) := by
  rw [dueBoundary, h] <;> rfl

/-- Settles O30. -/
theorem frameBoundaryBeginsTheNextFrame : Obligations.FrameBoundaryBeginsTheNextFrame := by
  refine ⟨?_, ?_, ?_, beginFrame_frame, ?_⟩
  case refine_1 =>
    intro t s fb hdue hphase hfb hfull
    change execFrameBoundary t s = _
    rw [execFrameBoundary, hdue]
    refine if_pos ?_
    rw [hfull, Bool.and_true, Bool.and_eq_true, beq_iff_eq, decide_eq_true_eq]
    exact ⟨hphase, hfb⟩
  case refine_2 =>
    intro t s hdue
    change execFrameBoundary t s = _
    rw [execFrameBoundary, hdue]
  case refine_3 =>
    intro t s fb hdue hlt
    change execFrameBoundary t s = _
    rw [execFrameBoundary, hdue]
    refine if_neg ?_
    rw [Bool.and_eq_true, Bool.and_eq_true, decide_eq_true_eq]
    exact fun h => Nat.not_le.2 hlt h.1.2
  case refine_4 =>
    intro s fb nom hnext hdue
    rw [dueBoundary_of_next hnext, Option.some.injEq] at hdue
    cases hlast : lastBoundary s with
    | none =>
      rw [hlast] at hdue
      exact ⟨Nat.le_of_eq hdue, by rintro sb ⟨⟩⟩
    | some sb =>
      rw [hlast] at hdue
      obtain ⟨hlo, hbound⟩ := leastBoundary_spec s s.exposure.nextId nom (stretchBound s sb)
      rw [← hdue]
      refine ⟨hlo, ?_⟩
      rintro _ ⟨⟩
      exact hbound

/-! ### Copies of a range of memory -/

theorem smWfFrom_copied {m : Mem} (src dst n : Nat) (h : Mem.wf m) :
    smWfFrom 0 dst ((m.filter fun c => src ≤ c.1 && c.1 < src + n).map fun c => (c.1 - src + dst, c.2)) = true := by
  have := smWfFrom_shift (dst := dst) le_rfl (smWfFrom_filter_ge (b := src) (p := fun c => src ≤ c.1 && c.1 < src + n) h
    fun e he => by
      simp only [Bool.and_eq_true, decide_eq_true_eq] at he
      exact he.1)
  rwa [Nat.sub_self, Nat.zero_add] at this

/-- A copied range leaves the memory outside of it. -/
theorem memGet_copyRange_outside {m : Mem} (src dst n : Nat) (h : Mem.wf m) {a : Nat} (ha : a < dst ∨ dst + n ≤ a) :
    memGet (copyRange src dst n m) a = memGet m a := by
  have hlow : ∀ e ∈ m.filter (fun e => decide (e.1 < dst)), e.1 < dst := fun e he => by simpa using (List.mem_filter.1 he).2
  have wlow : smWfFrom 0 0 (m.filter fun e => decide (e.1 < dst)) = true := smWfFrom_filter _ h
  have hmid := smWfFrom_copied src dst n h
  have hboth : ∀ e ∈ m.filter (fun e => decide (e.1 < dst)) ++
      (m.filter fun c => src ≤ c.1 && c.1 < src + n).map (fun c => (c.1 - src + dst, c.2)), e.1 < dst + n := by
    intro e he
    rcases List.mem_append.1 he with he | he
    · exact Nat.lt_of_lt_of_le (hlow e he) (Nat.le_add_right ..)
    · obtain ⟨c, hc, rfl⟩ := List.mem_map.1 he
      have := (List.mem_filter.1 hc).2
      simp only [Bool.and_eq_true, decide_eq_true_eq] at this
      omega
  rw [memGet, memGet, copyRange, smGet_append (smWfFrom_append wlow hlow hmid (Nat.zero_le _)) hboth (smWfFrom_high h),
    smGet_append wlow hlow hmid]
  rcases ha with ha | ha
  · rw [if_pos (Nat.lt_of_lt_of_le ha (Nat.le_add_right ..)), if_pos ha, smGet_filter_low h ha]
  · rw [if_neg (Nat.not_lt.2 ha), smGet_filter_high h ha]

theorem length_natBytes (n v : Nat) : (natBytes n v).length = n := by
  induction n generalizing v with
  | zero => rfl
  | succ n ih => rw [natBytes, List.length_cons, ih]

theorem bytesNat_natBytes (n v : Nat) : bytesNat (natBytes n v) = v % 256 ^ n := by
  induction n generalizing v with
  | zero => rw [natBytes, bytesNat, Nat.pow_zero, Nat.mod_one]
  | succ n ih => rw [natBytes, bytesNat, ih, BitVec.toNat_ofNat, Nat.pow_succ' (n := n), Nat.mod_mul]

/-- A number written is read back, up to its bytes. -/
theorem memNat_memSetNat {m : Mem} (a n v : Nat) (h : Mem.wf m) : memNat (memSetNat m a n v) a n = v % 256 ^ n := by
  have := memBytes_memSetBytes_same a (natBytes n v) h
  rw [length_natBytes] at this
  rw [memNat, memSetNat, this, bytesNat_natBytes]

/-! ### The motion kernel (R88, R104) -/

/-- What a run of the motion kernel may write: its counters and events, the vector table in pillow 0, and a basis. -/
structure MotionWrites (s u : State) : Prop where
  rest : { u with accum := s.accum, accCnt := s.accCnt, engines := s.engines, events := s.events
                  dram := s.dram, dramBad := s.dramBad, dramSoft := s.dramSoft } = s
  bobbins : u.engines.bobbins = s.engines.bobbins
  pillows : ∀ p, p ≠ 0 → u.engines.pillows[p]? = s.engines.pillows[p]?
  memory : Mem.wf s.dram → Mem.wf u.dram ∧ ∀ a, a < basisBase 0 ∨ basisBase 3 ≤ a → memGet u.dram a = memGet s.dram a

theorem MotionWrites.trans {s u v : State} (h : MotionWrites s u) (h' : MotionWrites u v) : MotionWrites s v where
  rest := (congrArg (fun v : State => { v with
    accum := s.accum, accCnt := s.accCnt, engines := s.engines, events := s.events
    dram := s.dram, dramBad := s.dramBad, dramSoft := s.dramSoft }) h'.rest).trans h.rest
  bobbins := h'.bobbins.trans h.bobbins
  pillows p hp := (h'.pillows p hp).trans (h.pillows p hp)
  memory hw := by
    obtain ⟨hwu, hu⟩ := h.memory hw
    obtain ⟨hwv, hv⟩ := h'.memory hwu
    exact ⟨hwv, fun a ha => (hv a ha).trans (hu a ha)⟩

/-- Counters, events and marks of errors are no memory. -/
theorem MotionWrites.of_counts (s : State) (a : AccumState) (c : AccumCounters) (e : EventLog) (bad soft : List Nat) :
    MotionWrites s { s with accum := a, accCnt := c, events := e, dramBad := bad, dramSoft := soft } :=
  ⟨rfl, rfl, fun _ _ => rfl, fun h => ⟨h, fun _ _ => rfl⟩⟩

theorem MotionWrites.refl (s : State) : MotionWrites s s := .of_counts s s.accum s.accCnt s.events s.dramBad s.dramSoft

theorem MotionWrites.foldl {α : Type} {f : State → α → State} (hf : ∀ s a, MotionWrites s (f s a)) (l : List α) (s : State) :
    MotionWrites s (l.foldl f s) := by
  induction l generalizing s with
  | nil => exact .refl s
  | cons a l ih => exact (hf s a).trans (ih _)

theorem motionWrites_countCommonUe (region ctl n : Nat) (s : State) : MotionWrites s (countCommonUe region ctl n s) := by
  unfold countCommonUe reportUe
  split
  · exact .refl s
  · split
    · exact .of_counts ..
    · obtain ⟨e, he⟩ := raise_eq 0x010C region ctl 0 { s with
        accCnt := { s.accCnt with memUeCommon := satAdd s.accCnt.memUeCommon n }
        accum := { s.accum with ueRaised := insNat s.accum.ueRaised (4096 * region + ctl) } }
      exact he ▸ .of_counts ..

theorem motionWrites_correctRead (a n : Nat) (s : State) : MotionWrites s (correctRead a n s) := by
  obtain ⟨soft, cnt, h⟩ := correctRead_eq a n s
  exact h ▸ .of_counts ..

theorem motionWrites_copyThumb (g : Nat) (s : State) : MotionWrites s (copyThumb g s).2 := by
  unfold copyThumb
  extract_lets used k dst keep
  have hk : k ≤ 2 := by
    have : ∀ x, [0, 1, 2].find? (fun k => !used.contains k) = some x → x ≤ 2 := fun x hx => by
      have := List.mem_of_find?_eq_some hx
      simp only [List.mem_cons, List.not_mem_nil, or_false] at this
      omega
    cases hf : [0, 1, 2].find? fun k => !used.contains k with
    | none => exact (congrArg (Option.getD · 0) hf).trans_le (Nat.zero_le _)
    | some x => exact (congrArg (Option.getD · 0) hf).trans_le (this x hf)
  have hlow : basisBase 0 ≤ dst := Nat.add_le_add_left (Nat.mul_le_mul_right _ (by omega)) _
  have hhigh : dst + 8 * mib ≤ basisBase 3 := by
    rw [show dst = partBase .spill + (232 + 8 * k) * mib from rfl, basisBase, Nat.add_assoc, ← Nat.add_mul]
    exact Nat.add_le_add_left (Nat.mul_le_mul_right _ (by omega)) _
  refine ⟨rfl, rfl, fun _ _ => rfl, fun hw => ⟨smWf_copyRange _ _ _ hw, fun a ha => ?_⟩⟩
  exact memGet_copyRange_outside (thumbBase g) dst (8 * mib) hw
    (ha.imp (fun h => Nat.lt_of_lt_of_le h hlow) fun h => Nat.le_trans hhigh h)

theorem motionWrites_countVersion (kid : Nat) (s : State) : MotionWrites s (countVersion kid s) := by
  unfold countVersion updKernel
  split
  · exact ⟨rfl, rfl, fun _ _ => rfl, fun h => ⟨h, fun _ _ => rfl⟩⟩
  · exact ⟨rfl, rfl, fun _ _ => rfl, fun h => ⟨h, fun _ _ => rfl⟩⟩

theorem motionWrites_writeVectorTable (g : Nat) (rs : List (Nat × BitVec 16)) (s : State) :
    MotionWrites s (writeVectorTable g rs s) :=
  ⟨rfl, rfl, fun _ hp => List.getElem?_modify_ne _ _ hp.symm, fun h => ⟨h, fun _ _ => rfl⟩⟩

theorem motionWrites_motionSubframe (f : FrameRec) (x : SubJob) (s : State) : MotionWrites s (motionSubframe f x s) := by
  unfold motionSubframe
  extract_lets +onlyGivenNames jr bad s1
  have h1 : MotionWrites s s1 :=
    (MotionWrites.foldl (fun s w => motionWrites_countCommonUe 4 (holderOf (8 * w)) 1 s) bad s).trans
      (motionWrites_correctRead ..)
  clear_value s1
  extract_lets +onlyGivenNames basis rs s2
  have h2 : MotionWrites s s2 := by
    dsimp only [s2]
    split
    · exact (h1.trans (motionWrites_copyThumb x.g s1)).trans (.of_counts ..)
    · exact h1
  clear_value s2
  extract_lets +onlyGivenNames s3
  have h3 : MotionWrites s s3 := by
    dsimp only [s3]
    split
    · exact h2.trans (motionWrites_countVersion ..)
    · exact h2
  clear_value s3
  exact (h3.trans (motionWrites_writeVectorTable ..)).trans (.of_counts ..)

/-- The record of a tile stands in its half of pillow 0. -/
theorem memNat_writeVectorTable (g i : Nat) (r : BitVec 16) {s : State} (hp : s.engines.pillows ≠ [])
    (hw : Mem.wf (s.engines.pillows.getD 0 [])) :
    memNat ((writeVectorTable g [(i, r)] s).engines.pillows.getD 0 []) ((if g % 2 = 0 then 0 else 0x6000) + 2 * i) 2 = r.toNat := by
  unfold writeVectorTable
  extract_lets base put
  cases hps : s.engines.pillows with
  | nil => exact absurd hps hp
  | cons m ms =>
    replace hw : Mem.wf m := by rw [hps] at hw; exact hw
    change memNat (memSetNat m (base + 2 * i) 2 r.toNat) (base + 2 * i) 2 = r.toNat
    rw [memNat_memSetNat _ _ _ hw]
    exact Nat.mod_eq_of_lt r.isLt

/-! ### The baste decision and halo links (R105, R109) -/

theorem execMotionSubframeStart_of_down {s : State} (t : Instant) (ecc : List EccHit) (h : motionKernelUp s = false) :
    execMotionSubframeStart t ecc s = .next (setNow t s) := by
  have h' : motionKernelUp (setNow t s) = false := h
  unfold execMotionSubframeStart
  extract_lets u
  split
  · split
    · rw [h', Bool.and_false, if_neg Bool.false_ne_true]
    · rfl
  · rfl

/-- With no stream of basted frames and none to form, the decision is only noted. -/
theorem decideBaste_of_none {a : AccumFrame} {s : State} (hs : basteStreams s = []) (hf : formsBasted s a.frame = false) :
    decideBaste a s = updAccFrame a.frame.id (fun a => { a with basteDecided := true }) s := by
  have hstreams : basteStreams (updAccFrame a.frame.id (fun a => { a with basteDecided := true }) s) = [] := hs
  have hchoose : chooseBaste a s = updAccFrame a.frame.id (fun a => { a with basteDecided := true }) s := by
    unfold chooseBaste
    extract_lets u streams busy
    rw [show streams = [] from hstreams, if_pos (by rfl)]
  unfold decideBaste
  extract_lets f u
  rw [show u = _ from hchoose, show formsBasted (updAccFrame _ _ s) f = false from hf, Bool.not_false, Bool.or_true,
    if_pos rfl]

theorem execHaloAckTimeout_of_jobs {s : State} (t : Instant) (a b : Fin 768) (h : s.accum.jobs ≠ []) :
    execHaloAckTimeout t a b s = .next (if s.accum.haloRaised then { setNow t s with accum := { s.accum with
      jobs := s.accum.jobs.map fun x => { x with haloDown := x.haloDown ++ [(a.val, b.val)] } } }
    else raise 0x010D 0 a.val b.val { setNow t s with accum := { s.accum with
      jobs := s.accum.jobs.map fun x => { x with haloDown := x.haloDown ++ [(a.val, b.val)] }, haloRaised := true } }) := by
  unfold execHaloAckTimeout
  extract_lets u v
  split
  next hj => exact absurd hj h
  next => rfl

/-- Settles O35. -/
theorem motionBasteAndHaloEvents : Obligations.MotionBasteAndHaloEvents := by
  refine ⟨?_, fun t ecc s h => execMotionSubframeStart_of_down t ecc h,
    fun f x s a hw ha => ((motionWrites_motionSubframe f x s).memory hw).2 a ha, ?_, ?_, ?_,
    fun a s hs hf => decideBaste_of_none hs hf, ?_, ?_⟩
  case refine_1 =>
    intro t ecc s x a hjob hacc hmotion hup
    change execMotionSubframeStart t ecc s = _
    have hup' : motionKernelUp (setNow t s) = true := hup
    rw [execMotionSubframeStart, show (setNow t s).accum.jobs.find? _ = some x from hjob]
    dsimp only
    rw [show accFrameOf (setNow t s) x.frame = some a from hacc]
    dsimp only
    rw [hmotion, hup', Bool.and_self, if_pos rfl]
  case refine_2 =>
    intro f x s
    have h := motionWrites_motionSubframe f x s
    exact ⟨h.rest, h.bobbins, h.pillows⟩
  case refine_3 =>
    intro g rs s i r hrs _ hp hw
    rw [hrs]
    exact memNat_writeVectorTable g i r hp hw
  case refine_4 =>
    intro t s a hfind hdue
    change execBasteDecision t s = _
    rw [execBasteDecision, show (setNow t s).accum.frames.find? _ = some a from hfind]
    exact if_pos hdue
  case refine_5 =>
    intro t a b s hj hr
    refine (execHaloAckTimeout_of_jobs t a b hj).trans (congrArg _ ?_)
    rw [hr, if_pos rfl]
  case refine_6 =>
    intro t a b s hj hr
    refine (execHaloAckTimeout_of_jobs t a b hj).trans (congrArg _ ?_)
    rw [hr, if_neg Bool.false_ne_true]

/-! ### Sub-frame boundaries (R57, R21) -/

/-- A frame of one sub-frame, in a history of one frame. -/
def singleFrame (id : FrameId) : FrameRec :=
  { id := id, fb := 0, stamp := 0, gFirst := 0, params := State.reset.exposure.inForce, pipe := State.reset.front.params
    cfg := { State.reset.exposure.cfg with
      exposure := { State.reset.exposure.cfg.exposure with mode := 3, nLog2 := 0 }
      accum := { State.reset.exposure.cfg.accum with histH := 1 } }
    mask := [] }

/-- A row whose one history slot holds a frame that the front has not read, with stream 0 enabled, about to begin a frame's only
sub-frame. -/
def skippingRow : State :=
  { State.reset with
    exposure := { State.reset.exposure with phase := .running, cur := some (singleFrame 2) }
    history := { State.reset.history with
      slots := some { frame := singleFrame 1, ob := {}, black := {}, flicker := [], order := 1, released := 0 } ::
        List.replicate 19 none }
    streams := { enabled := true } :: State.reset.streams.tail }

/-- A sub-frame boundary that is due begins the sub-frame. -/
theorem exec_subFrameBoundary_of_due {s : State} {f : FrameRec} (t : Instant) (faults : List ConvTile)
    (hcur : s.exposure.cur = some f) (hphase : s.exposure.phase ≠ .stopped) (himm : s.exposure.immediate = false)
    (hj : s.exposure.nextJ < subFrames f.cfg) (hrun : s.readout.run = none) (hdue : sbAt f s.exposure.nextJ ≤ t.tclk) :
    exec (.subFrameBoundary t faults) s =
      .next (beginSubFrame f ((faults.filter (readsTile f)).map convTileNo) (setNow t s)) := by
  change execSubFrameBoundary t faults s = _
  rw [execSubFrameBoundary, show (setNow t s).exposure.cur = some f from hcur]
  refine if_pos ?_
  simp only [Bool.and_eq_true, Bool.not_eq_true', bne_iff_ne, decide_eq_true_eq, Option.isNone_iff_eq_none]
  exact ⟨⟨⟨⟨hphase, himm⟩, hj⟩, hrun⟩, hdue⟩

/-- Refutes O31: in `skippingRow` the boundary reserves the frame's history slot, which frees the slot of a frame that the front
has not read (R21), and stream 0 sends the DROPPED form of that frame. -/
theorem not_subFrameEventsFollowTheSchedule : ¬ Obligations.SubFrameEventsFollowTheSchedule := by
  intro h
  obtain ⟨hboundary, -⟩ := h
  have hdue : sbAt (singleFrame 2) 0 ≤ 1000000000 := by decide +kernel
  have hphase : skippingRow.exposure.phase ≠ .stopped := by rintro ⟨⟩
  have hj : skippingRow.exposure.nextJ < subFrames (singleFrame 2).cfg := by decide +kernel
  obtain ⟨u, hu, -, -, -, -, -, -, -, -, hstreams⟩ :=
    hboundary ⟨1000000000, 0⟩ skippingRow (singleFrame 2) [] rfl hphase rfl hj rfl hdue
  have hexec := exec_subFrameBoundary_of_due ⟨1000000000, 0⟩ [] (s := skippingRow) rfl hphase rfl hj rfl hdue
  obtain rfl := Host.Outcome.next.inj (hexec.symm.trans hu)
  have hsent : (stream (beginSubFrame (singleFrame 2) [] (setNow ⟨1000000000, 0⟩ skippingRow)) 0).entries.length = 1 := by
    decide +kernel
  have hold : (stream skippingRow 0).entries.length = 0 := by decide +kernel
  have hsame := congrArg (fun l : List StreamState => (l.getD 0 {}).entries.length) hstreams
  exact Nat.one_ne_zero (hsent.symm.trans (hsame.trans hold))

/-! ### Conversions (R31–R36) -/

theorem clampI_toNat_le (hi : Nat) (v : Int) : (clampI 0 hi v).toNat ≤ hi := by
  unfold clampI
  omega

theorem lcgCode_le (lcg trim : Int) : lcgCode lcg trim ≤ 4095 := clampI_toNat_le 4095 _

/-- With the high gain alone a code is the clipped one. -/
theorem convert_of_high {s : State} {f : FrameRec} {conv charge : Nat} {hcg lcg : Int} (h : f.cfg.readout.gainMode = 1) :
    convert s f conv charge hcg lcg =
      ⟨(clampI 0 4095 hcg).toNat, false, (clampI 0 4095 hcg).toNat == 4095, false⟩ := by
  rw [convert, h]
  rfl

/-- With the low gain alone a code counts eightfold. -/
theorem convert_of_low {s : State} {f : FrameRec} {conv charge : Nat} {hcg lcg : Int} (h : f.cfg.readout.gainMode = 2) :
    convert s f conv charge hcg lcg =
      ⟨8 * lcgCode lcg (trimOf s f conv), true, lcgCode lcg (trimOf s f conv) == 4095, false⟩ := by
  rw [convert, h]
  rfl

theorem b2n_le_one (b : Bool) : b2n b ≤ 1 := by cases b <;> decide

/-! ### The words of a bond (R34, R35) -/

/-- The 17 bits of a sample before their parity. -/
def bondBits (c : Converted) : Nat := c.value + b2n c.gsel * 2 ^ 15 + b2n c.satf * 2 ^ 16

section
variable {c : Converted} (hc : c.value < 32768) (bad : Bool)
include hc

theorem bondBits_lt : bondBits c < 2 ^ 17 := by
  have := b2n_le_one c.gsel
  have := b2n_le_one c.satf
  rw [bondBits]
  omega

theorem toNat_sampleWord : (sampleWord c bad).toNat = bondBits c + b2n (xor (parityOf (bondBits c)) bad) * 2 ^ 17 := by
  have := bondBits_lt hc
  have := b2n_le_one (xor (parityOf (bondBits c)) bad)
  rw [show sampleWord c bad = BitVec.ofNat 20 (bondBits c + b2n (xor (parityOf (bondBits c)) bad) * 2 ^ 17) from rfl,
    BitVec.toNat_ofNat]
  omega

/-- A word has even parity exactly if it was not spoilt. -/
theorem wordOk_sampleWord : wordOk (sampleWord c bad) = !bad := by
  have hlt := bondBits_lt hc
  have hn := toNat_sampleWord hc bad
  have hp := b2n_le_one (xor (parityOf (bondBits c)) bad)
  have hfold : (List.range 17).foldl (fun p i => xor p (bitAt (sampleWord c bad) i)) false = parityOf (bondBits c) := by
    refine List.foldl_ext _ _ _ fun p i hi => ?_
    have hi17 := List.mem_range.1 hi
    rw [bitAt, BitVec.getLsbD, hn, Nat.add_comm, Nat.mul_comm, Nat.testBit_two_pow_mul_add _ hlt, if_pos hi17]
  have htop : bitAt (sampleWord c bad) 17 = xor (parityOf (bondBits c)) bad := by
    rw [bitAt_eq_iff, hn]
    omega
  have hres : fldN (sampleWord c bad) 18 2 = 0 := by
    rw [fldN, toNat_fld, hn]
    omega
  rw [wordOk, List.range_succ, List.foldl_append, hfold, List.foldl_cons, List.foldl_nil, htop, hres]
  cases parityOf (bondBits c) <;> cases bad <;> rfl

/-- A word carries its sample's value and flags. -/
theorem sampleWord_fields : (sampleWord c bad).toNat % 32768 = c.value ∧ bitAt (sampleWord c bad) 15 = c.gsel ∧
    bitAt (sampleWord c bad) 16 = c.satf := by
  have hn := toNat_sampleWord hc bad
  have hg := b2n_le_one c.gsel
  have hs := b2n_le_one c.satf
  rw [bondBits] at hn
  refine ⟨?_, ?_, ?_⟩
  · omega
  · rw [bitAt_eq_iff]
    omega
  · rw [bitAt_eq_iff]
    omega

end

/-! ### Conversions, arrivals and the end of readout -/

section
variable {s : State} {r : ReadoutRun} (hrun : s.readout.run = some r)
include hrun

/-- A conversion that is due sends its word. -/
theorem exec_conversionSlot_of_due (t : Instant) (tile : ConvTile) (block slot : Fin 64) (charge : Nat) (hcg lcg : Int)
    (htile : readsTile r.frame tile = true) (hslot : slot.val < readSlots s.rst.fuses.variantMl r.frame.cfg)
    (hnext : smGet 0 s.readout.nextSlot (convIndex tile block.val) = slot.val)
    (hdue : r.sb + slotStart r.frame.cfg (tileGroup tile) slot.val ≤ t.tclk) (hramp : s.readout.rampFaults = [])
    (hdriver : s.readout.driverFaults = []) :
    exec (.conversionSlot t tile block slot charge hcg lcg false) s = .next { setNow t s with readout := { s.readout with
      nextSlot := smSet 0 s.readout.nextSlot (convIndex tile block.val) (slot.val + 1)
      bonds := s.readout.bonds ++ [⟨convIndex tile block.val, slot.val,
        sampleWord (convert s r.frame (convIndex tile block.val) charge hcg lcg) false⟩]
      gainMisselect := if (convert s r.frame (convIndex tile block.val) charge hcg lcg).misselect then
        satInc s.readout.gainMisselect else s.readout.gainMisselect } } := by
  have hbad : (s.readout.rampFaults.contains (generatorOf tile) || s.readout.driverFaults.contains (convTileNo tile)) = false := by
    rw [hramp, hdriver]
    rfl
  change execConversionSlot t tile block slot charge hcg lcg false s = _
  rw [execConversionSlot, show (setNow t s).readout.run = some r from hrun]
  refine (if_pos ?_).trans ?_
  · simp only [Bool.and_eq_true, decide_eq_true_eq]
    exact ⟨⟨⟨htile, hslot⟩, hnext⟩, hdue⟩
  · extract_lets +onlyGivenNames gen x1 x2 x3 u bad c
    have hu : u = setNow t s := if_neg Bool.false_ne_true
    have hb : bad = false := by
      dsimp only [bad]
      rw [hu]
      exact hbad
    clear_value bad u
    subst hb hu
    rfl

/-- A word whose frame is no longer accumulated is only taken off the bond. -/
theorem exec_sampleArrival_of_gone (t : Instant) (tile : ConvTile) (block : Fin 64) (flip : BitVec 20) {w : BondWord}
    {rest : List BondWord} (hpop : popBond (convIndex tile block.val) s.readout.bonds = some (w, rest))
    (hok : wordOk (w.word ^^^ flip) = true) (hacc : accFrameOf s r.frame.id = none) :
    exec (.sampleArrival t tile block flip) s = .next { setNow t s with readout := { s.readout with bonds := rest } } := by
  change execSampleArrival t tile block flip s = _
  rw [execSampleArrival]
  rw [show (setNow t s).readout.run = some r from hrun,
    show popBond _ (setNow t s).readout.bonds = some (w, rest) from hpop]
  dsimp only
  rw [hok, Bool.true_or, if_pos rfl]
  exact if_pos (Option.isNone_iff_eq_none.2 hacc)

/-- A good word of a tile that is accumulated is taken as its sample. -/
theorem exec_sampleArrival_of_active (t : Instant) (tile : TileIx) (block : Fin 64) {w : BondWord}
    {rest : List BondWord} (hpop : popBond (convIndex (.active tile) block.val) s.readout.bonds = some (w, rest))
    (hok : wordOk w.word = true) (hacc : (accFrameOf s r.frame.id).isSome = true) (hfaulty : s.readout.faultyBlocks = []) :
    exec (.sampleArrival t (.active tile) block 0) s =
      .next (takeSample r.frame r tile.val block.val w.slot w.word.toNat true
        { setNow t s with readout := { s.readout with bonds := rest } }) := by
  have hflip : w.word ^^^ 0 = w.word := BitVec.xor_zero
  have hgone : ¬ (accFrameOf s r.frame.id).isNone = true := by
    rw [Option.isNone_eq_false_iff.2 hacc]
    exact Bool.false_ne_true
  have hgood : (true && !s.readout.faultyBlocks.contains (convIndex (.active tile) block.val)) = true := by
    rw [hfaulty]
    rfl
  change execSampleArrival t (.active tile) block 0 s = _
  rw [execSampleArrival]
  rw [show (setNow t s).readout.run = some r from hrun,
    show popBond _ (setNow t s).readout.bonds = some (w, rest) from hpop]
  dsimp only
  rw [hflip, hok, Bool.true_or, if_pos rfl]
  exact (if_neg hgone).trans (congrArg (fun ok => Host.Outcome.next (takeSample r.frame r tile.val block.val w.slot w.word.toNat
    ok { setNow t s with readout := { s.readout with bonds := rest } })) hgood)

theorem exec_readoutEnd_of_early (t : Instant) (h : t.tclk < r.sb + tRo s.rst.fuses.variantMl r.frame.cfg) :
    exec (.readoutEnd t) s = .next (setNow t s) := by
  change execReadoutEnd t s = _
  rw [execReadoutEnd, show (setNow t s).readout.run = some r from hrun]
  exact if_neg (Nat.not_le.2 h)

end

theorem endReadout_of_gone {r : ReadoutRun} {s : State} (hacc : accFrameOf s r.frame.id = none)
    (hphase : s.exposure.phase = .running) : endReadout r s = { s with readout := { s.readout with
      run := none, subframesRead := satInc s.readout.subframesRead } } := by
  unfold endReadout
  extract_lets +onlyGivenNames f last x u
  rw [show accFrameOf u f.id = none from hacc]
  dsimp only
  rw [show accFrameOf u f.id = none from hacc]
  refine if_neg fun h => ?_
  have hstop : s.exposure.phase = .stopping := beq_iff_eq.1 ((Bool.and_eq_true _ _).mp h).1
  rw [hphase] at hstop
  exact CapturePhase.noConfusion hstop

/-- Settles O32. -/
theorem conversionsSendOneWordEach : Obligations.ConversionsSendOneWordEach := by
  refine ⟨?_, ?_, ?_, ?_, ?_, ?_, ?_, ?_⟩
  case refine_1 =>
    rintro t tile block slot charge hcg lcg s r f hrun rfl htile hslot hnext hdue hramp hdriver
    exact exec_conversionSlot_of_due hrun t tile block slot charge hcg lcg htile hslot hnext hdue hramp hdriver
  case refine_2 =>
    intro s f conv charge hcg lcg h
    rw [convert_of_high h]
    refine ⟨rfl, clampI_toNat_le 4095 hcg, ?_⟩
    dsimp only
    rw [beq_iff_eq, clampI]
    omega
  case refine_3 =>
    intro s f conv charge hcg lcg h
    rw [convert_of_low h]
    exact ⟨rfl, Nat.mul_mod_right .., Nat.mul_le_mul_left 8 (lcgCode_le ..), rfl⟩
  case refine_4 =>
    intro c hc
    exact ⟨wordOk_sampleWord hc false, wordOk_sampleWord hc true, sampleWord_fields hc false⟩
  case refine_5 =>
    rintro t tile block flip s r f w rest hrun rfl hpop hok hacc
    exact exec_sampleArrival_of_gone hrun t tile block flip hpop hok hacc
  case refine_6 =>
    rintro t tile block s r f w rest hrun rfl hpop hok hacc hfaulty
    exact exec_sampleArrival_of_active hrun t tile block hpop hok hacc hfaulty
  case refine_7 =>
    rintro t s r f hrun rfl h
    exact exec_readoutEnd_of_early hrun t h
  case refine_8 =>
    rintro t s r f hrun rfl hdue hacc hphase
    change execReadoutEnd t s = _
    rw [execReadoutEnd, show (setNow t s).readout.run = some r from hrun]
    refine (if_pos hdue).trans ?_
    rw [endReadout_of_gone (s := setNow t s) hacc hphase]
    rfl

/-! ### Self-tests (R47–R49) -/

section
variable {c : Cmd} {s : State} (hr : firstReserved c.words [0x1FF] = none)
include hr

theorem selftestBody_of_report (hcode : fldN (paramAt c.words 0) 0 8 = 0) (htest : s.readout.test = none) :
    selftestBody c s = cmdOk s [wordOf s.readout.lastTest.toNat, s.readout.passed, s.readout.failed, s.readout.firstFail] := by
  unfold selftestBody
  extract_lets +onlyGivenNames w code store r
  rw [judged_of_none _ _ hr, if_pos (show code = 0 from hcode), show r.test = none from htest]
  exact if_neg Bool.false_ne_true

/-- A walk test starts unless a test runs. -/
theorem selftestBody_of_walk (hcode : fldN (paramAt c.words 0) 0 8 = 0x20) :
    selftestBody c s = if s.readout.test.isSome then cmdRefuse s .busy
      else cmdPending (startWork c.req .selftest { s with
        readout := { s.readout with test := some ⟨0x20, false, s.now, false⟩ } }) := by
  unfold selftestBody
  extract_lets +onlyGivenNames w code store r
  have hcode : code = 0x20 := hcode
  clear_value code
  subst hcode
  rw [judged_of_none _ _ hr]
  rfl

end

theorem execSelftestComplete_of_walk {s : State} {x : TestRun} (t : Instant) (fails : List Nat) (ms : List RatioMeasure)
    (htest : s.readout.test = some x) (hstoring : x.storing = false) (hrst : s.rst.asserted.contains .converter = false)
    (hcode : x.code = 0x20) :
    execSelftestComplete t fails ms s = .next (selftestDone 0x20 0 (noteWalk 825 fails (setNow t s))) := by
  have hopen : ¬ (x.storing || s.rst.asserted.contains .converter) = true := by
    rw [hstoring, hrst]
    exact Bool.false_ne_true
  rw [execSelftestComplete, show (setNow t s).readout.test = some x from htest]
  exact (if_neg hopen).trans (if_pos (beq_iff_eq.2 hcode))

/-- A test that ends leaves its event in the log and its code behind. -/
theorem selftestDone_eq (code result : Nat) (s : State) : ∃ e, selftestDone code result s = endWork .selftest { s with
    readout := { s.readout with test := none, lastTest := BitVec.ofNat 8 code }, events := e } := by
  obtain ⟨e, he⟩ := raise_eq 0x010E (code + 256 * result) s.readout.passed.toNat s.readout.failed.toNat
    { s with readout := { s.readout with test := none, lastTest := BitVec.ofNat 8 code } }
  exact ⟨e, congrArg (endWork .selftest) he⟩

/-- A new trim is a rounded quotient of clean sums, within its range (R46). -/
theorem newTrim_spec {old : Int} {m : RatioMeasure} {v : Int} (h : newTrim old m = some v) :
    m.clean = true ∧ -32 ≤ v ∧ v ≤ 31 ∧ 0 < m.sumL ∧
      v = (2000 * m.sumH + (2 * old - 1999) * m.sumL) / (2 * m.sumL) := by
  unfold newTrim at h
  extract_lets q t at h
  split at h
  · exact absurd h (by rintro ⟨⟩)
  next hgood =>
    split at h
    next hrange =>
      obtain rfl : t = v := by injection h
      simp only [Bool.or_eq_true, Bool.not_eq_true', not_or, decide_eq_true_eq, Int.not_le, Bool.not_eq_false] at hgood
      rw [Bool.and_eq_true, decide_eq_true_eq, decide_eq_true_eq] at hrange
      exact ⟨hgood.1.1.1, hrange.1, hrange.2, hgood.2, rfl⟩
    · exact absurd h (by rintro ⟨⟩)

/-! ### Scrubbing (R94–R97) -/

/-- A number new to a list is the one that its insertion adds. -/
theorem filter_insNat_new {l : List Nat} {w : Nat} (h : w ∉ l) :
    ((insNat l w).filter fun x => !decide (x = w)) = l ∧ ((insNat l w).filter fun x => decide (x = w)).length = 1 := by
  have hself : ∀ ys : List Nat, w ∉ ys → (ys.filter fun x => !decide (x = w)) = ys ∧ (ys.filter fun x => decide (x = w)) = [] := by
    intro ys hys
    refine ⟨List.filter_eq_self.2 fun x hx => ?_, List.filter_eq_nil_iff.2 fun x hx => ?_⟩
    · rw [Bool.not_eq_true', decide_eq_false_iff_not]
      exact fun he => hys (he ▸ hx)
    · rw [decide_eq_true_eq]
      exact fun he => hys (he ▸ hx)
  induction l with
  | nil => simp [insNat]
  | cons y ys ih =>
    obtain ⟨hne, hys⟩ := List.ne_and_not_mem_of_not_mem_cons h
    unfold insNat
    split
    · obtain ⟨hkeep, hnone⟩ := hself (y :: ys) h
      rw [List.filter_cons_of_neg (a := w) (by simp), List.filter_cons_of_pos (a := w) (by simp), hkeep, hnone]
      exact ⟨rfl, rfl⟩
    · obtain ⟨hkeep, hone⟩ := ih hys
      rw [List.filter_cons_of_pos (by simp [Ne.symm hne]), List.filter_cons_of_neg (by simp [Ne.symm hne]), hkeep, hone]
      exact ⟨rfl, rfl⟩

/-- A word in which the scrubber finds a single-bit error is corrected and counted. -/
theorem correctRead_markEcc_single {s : State} {w : Nat} (hbad : s.dramBad.contains w = false)
    (hsoft : s.dramSoft.contains w = false) : correctRead (8 * w) 8 (markEcc [⟨w, false⟩] s) =
      { s with accCnt := { s.accCnt with eccCe := satInc s.accCnt.eccCe } } := by
  have hmark : markEcc [⟨w, false⟩] s = { s with dramSoft := insNat s.dramSoft w } := by
    rw [markEcc, List.foldl_cons, List.foldl_nil, if_neg Bool.false_ne_true, hbad, if_neg Bool.false_ne_true]
  have hnew : w ∉ s.dramSoft := fun h => Bool.false_ne_true (hsoft.symm.trans (List.contains_iff_mem.2 h))
  obtain ⟨hkeep, hone⟩ := filter_insNat_new hnew
  have hhere : ∀ x, (decide (8 * w / 8 ≤ x) && decide (x ≤ (8 * w + 8 - 1) / 8)) = decide (x = w) := by
    intro x
    rw [← Bool.decide_and, decide_eq_decide]
    omega
  rw [hmark, correctRead, if_neg (by decide), correctWords]
  simp only [hhere, hkeep, hone]
  rfl

/-- A scrub access below the end of memory moves on, corrects and counts a single-bit error. -/
theorem execScrubAccess_of_single {s : State} (t : Instant) (hself : s.accum.selfRefresh = false)
    (hruns : blockRuns .memory s = true) (halign : s.accum.scrubAddr % 8 = 0) (hlast : s.accum.scrubAddr + 8 < 0x100000000)
    (hbad : s.dramBad.contains (s.accum.scrubAddr / 8) = false) (hsoft : s.dramSoft.contains (s.accum.scrubAddr / 8) = false) :
    execScrubAccess t s.accum.scrubAddr .single s = .next { setNow t s with
      accum := { s.accum with scrubAddr := s.accum.scrubAddr + 8 }
      accCnt := { s.accCnt with eccCe := satInc s.accCnt.eccCe } } := by
  have hgate : ¬ (s.accum.selfRefresh || !blockRuns .memory s || s.accum.scrubAddr % 8 ≠ 0 || 0x100000000 ≤ s.accum.scrubAddr) =
      true := by
    rw [hself, hruns]
    simp only [Bool.not_true, Bool.or_false, Bool.false_or, Bool.or_eq_true, decide_eq_true_eq]
    omega
  have haddr : 8 * (s.accum.scrubAddr / 8) = s.accum.scrubAddr := by omega
  have hread := correctRead_markEcc_single (w := s.accum.scrubAddr / 8)
    (s := { setNow t s with accum := { s.accum with scrubAddr := s.accum.scrubAddr + 8 } }) hbad hsoft
  rw [haddr] at hread
  rw [execScrubAccess]
  refine (if_neg hgate).trans ?_
  rw [if_neg (show ¬ s.accum.scrubAddr ≠ (setNow t s).accum.scrubAddr from fun h => h rfl), if_neg (Nat.ne_of_lt hlast)]
  refine (if_neg ?_).trans ((if_pos rfl).trans (congrArg _ hread))
  rw [Bool.or_eq_true]
  exact fun h => h.elim (fun h => EccFind.noConfusion (beq_iff_eq.1 h)) fun h => Bool.false_ne_true (hbad.symm.trans h)

/-- Settles O36. -/
theorem backgroundTestsAndScrubbing : Obligations.BackgroundTestsAndScrubbing := by
  refine ⟨?_, ?_, ?_, ?_, ?_, ?_, ?_, ?_, ?_, ?_⟩
  case refine_1 => exact fun t s p s1 h hr hcode htest => exec_of_body h rfl (selftestBody_of_report hr hcode htest) rfl
  case refine_2 =>
    intro t s p s1 h hr hcode htest
    refine exec_of_body h rfl ((selftestBody_of_walk hr hcode).trans (if_neg ?_)) rfl
    rw [htest]
    exact Bool.false_ne_true
  case refine_3 =>
    intro t s p s1 h hr hcode htest
    exact exec_of_body h rfl ((selftestBody_of_walk hr hcode).trans (if_pos (Option.isSome_iff_ne_none.2 htest))) rfl
  case refine_4 =>
    intro t ms s htest
    change execSelftestComplete t [] ms s = _
    rw [execSelftestComplete, show (setNow t s).readout.test = none from htest]
  case refine_5 =>
    intro t fails ms s x htest hstoring hrst hcode
    exact execSelftestComplete_of_walk t fails ms htest hstoring hrst hcode
  case refine_6 =>
    intro code r s
    obtain ⟨e, he⟩ := selftestDone_eq code r s
    exact ⟨_, he, rfl, rfl, rfl, rfl, rfl⟩
  case refine_7 =>
    intro old m v h
    obtain ⟨hclean, hlo, hhi, hpos, rfl⟩ := newTrim_spec h
    have h2 : 0 < 2 * m.sumL := by omega
    exact ⟨hclean, hlo, hhi, hpos, Int.mul_ediv_self_le (ne_of_gt h2),
      (Int.lt_mul_ediv_self_add h2).trans_eq (by rw [mul_add, mul_one])⟩
  case refine_8 =>
    intro t s hself hruns halign hlast hbad hsoft
    exact execScrubAccess_of_single t hself hruns halign hlast hbad hsoft
  case refine_9 =>
    intro t addr f s h
    change execScrubAccess t addr f s = _
    refine if_pos ?_
    rw [Bool.or_eq_true, Bool.or_eq_true, Bool.or_eq_true, Bool.not_eq_true']
    exact .inl (.inl h)
  case refine_10 =>
    intro t s hlimp hroot
    change execSelfRefreshEntry t s = _
    refine if_pos ?_
    rw [Bool.and_eq_true, Bool.or_eq_true]
    exact ⟨hlimp, hroot⟩

/-! ### The test access port (R495) -/

/-- A row that is powering on, whose boundary chain is about to give the pins back, with RESET_N low at its pin. -/
def chainedRow : State :=
  { State.reset with
    tap := { State.reset.tap with phase := .updateIr, ir := .extest, irShift := 15 }
    pins := { State.reset.pins with resetNLow := true, pgood := true }
    rst := { State.reset.rst with phase := .loading, cause := .powerOn, resetNLow := false, pgood := true } }

/-- Refutes O59: in `chainedRow` Update-IR leaves EXTEST, the device takes RESET_N as low during its power-on reset, the causes
combine to a power-on reset (R403), and that resets the controller, which is then not in Update-IR. -/
theorem not_testAccessPortFollowsItsController : ¬ Obligations.TestAccessPortFollowsItsController := by
  intro h
  obtain ⟨-, -, -, -, -, -, -, -, -, -, -, -, -, -, -, -, -, -, -, -, -, hphase, -⟩ := h
  have hreset : (tapFall chainedRow).tap.phase = .testLogicReset := by decide +kernel
  exact TapPhase.noConfusion (hreset.symm.trans (hphase chainedRow))

/-! ### Tiles that accumulate (R89–R101) -/

/-- A frame of one binned sub-frame. -/
def strayFrame : FrameRec :=
  { id := 1, fb := 0, stamp := 0, gFirst := 0, params := State.reset.exposure.inForce, pipe := State.reset.front.params
    cfg := { State.reset.exposure.cfg with
      readout := { State.reset.exposure.cfg.readout with bin := true }
      exposure := { State.reset.exposure.cfg.exposure with nLog2 := 0 } }
    mask := [] }

/-- The job of the sub-frame of `strayFrame`. -/
def strayJob : SubJob := { g := 0, frame := 1, j := 0, sb := 0 }

/-- A row that accumulates a frame for a history slot past the 20 of a drawer, with one byte of memory that is not 0 there. -/
def strayRow : State :=
  { State.reset with
    accum := { State.reset.accum with frames := [{ frame := strayFrame, slot := some 25 }] }
    dram := [(histBase 0 25, 7)] }

/-- Refutes O34: nothing in its clause on memory says that the slot kept for the frame is one of the 20 of a drawer, and in
`strayRow` the finished tile 0 is stored past the end of its drawer. -/
theorem not_accumulationWindowsCloseAndRelease : ¬ Obligations.AccumulationWindowsCloseAndRelease := by
  intro h
  obtain ⟨-, -, -, -, hmemory, -⟩ := h
  have hwf : Mem.wf strayRow.dram := by decide +kernel
  have houtside : drawerBase (0 + 1) ≤ histBase 0 25 := by decide +kernel
  have hold : memGet strayRow.dram (histBase 0 25) = 7 := by decide +kernel
  have hnew : memGet (tilePass strayFrame strayJob 0 0 [] strayRow).dram (histBase 0 25) = 0 := by decide +kernel
  have hsame := hmemory strayFrame strayJob 0 0 [] strayRow (histBase 0 25) hwf (.inr houtside)
  exact absurd (hnew.symm.trans (hsame.trans hold)) (by decide)

/-! ### LOAD_CAL_TABLE (R149–R156) -/

section
variable {c : Cmd} {s : State} (hr : firstReserved c.words [0x000F00FF, 0xFFFFFFFF] = none)
include hr

/-- Words of a table in range are staged. -/
theorem loadCalBody_of_stage (h1 : 1 ≤ fldN (paramAt c.words 0) 0 8) (h7 : fldN (paramAt c.words 0) 0 8 ≤ 7)
    (hdest : fldN (paramAt c.words 0) 16 2 = 0) (hcommit : bitAt (paramAt c.words 0) 19 = false)
    (halign : (paramAt c.words 1).toNat % 4 = 0)
    (hsize : (paramAt c.words 1).toNat + 4 * (c.words.drop 2).length ≤
      stagingBytes s.rst.fuses.variantMl (fldN (paramAt c.words 0) 0 8)) :
    loadCalBody c s = cmdOk { s with cal := { s.cal with
      staging := some (addStaged (stagingFor s (fldN (paramAt c.words 0) 0 8) 0) ((paramAt c.words 1).toNat / 4)
        (c.words.drop 2)) } } [0] := by
  unfold loadCalBody
  extract_lets +onlyGivenNames w id dest commit store off data
  obtain hdest : dest = 0 := hdest
  have hid : ¬ (id = 0 || 7 < id || dest = 3 || (dest ≠ 0 && (id ≠ 2 || store))) = true := by
    rw [hdest]
    simp only [Bool.or_eq_true, decide_eq_true_eq, ne_eq, not_true_eq_false, decide_false, Bool.false_and, not_or]
    exact ⟨⟨⟨Nat.one_le_iff_ne_zero.1 h1, Nat.not_lt.2 h7⟩, by decide⟩, Bool.false_ne_true⟩
  have hoff : ¬ (off % 4 ≠ 0 || stagingBytes s.rst.fuses.variantMl id < off + 4 * data.length) = true := by
    rw [Bool.or_eq_true, decide_eq_true_eq, decide_eq_true_eq]
    exact fun h => h.elim (fun hne => hne halign) fun hlt => Nat.not_lt.2 hsize hlt
  rw [judged_of_none _ _ hr, if_neg hid, if_neg hoff, hdest, show commit = false from hcommit]
  exact if_neg Bool.false_ne_true

theorem loadCalBody_of_bad (h : fldN (paramAt c.words 0) 0 8 = 0 ∨ 7 < fldN (paramAt c.words 0) 0 8 ∨
    fldN (paramAt c.words 0) 16 2 = 3) : loadCalBody c s = cmdBad s 0 := by
  unfold loadCalBody
  extract_lets +onlyGivenNames w id dest commit store off data
  rw [judged_of_none _ _ hr]
  refine if_pos ?_
  simp only [Bool.or_eq_true, decide_eq_true_eq]
  exact .inl (or_assoc.2 h)

end

section
variable {x : CalStaging} {s : State} (store : Bool) (b : State)

theorem commitTable_of_crc (h : calReason s.rst.fuses.variantMl s.rst.fuses.deviceId x.table (stagedWord x) = 2) :
    commitTable store x b s = cmdRefuse b .badCrc := by
  unfold commitTable
  extract_lets ml r
  exact if_pos h

theorem commitTable_of_bad (h0 : calReason s.rst.fuses.variantMl s.rst.fuses.deviceId x.table (stagedWord x) ≠ 0)
    (h2 : calReason s.rst.fuses.variantMl s.rst.fuses.deviceId x.table (stagedWord x) ≠ 2) :
    commitTable store x b s = cmdBadAny b := by
  unfold commitTable
  extract_lets ml r
  exact (if_neg h2).trans (if_pos h0)

end

/-! ### Tables in force at version boundaries (R150, R153) -/

/-- A table in force is one of the calibration state, or the coefficients of the monitor converters. -/
theorem calInForce_frame (id dest : Nat) (body : List Word) (s : State) :
    (calInForce id dest body s).cal.frontPending = s.cal.frontPending ∧
      (calInForce id dest body s).cal.backPending = s.cal.backPending ∧
      (calInForce id dest body s).front = s.front ∧ (calInForce id dest body s).back = s.back := by
  unfold calInForce
  repeat' split
  all_goals exact ⟨rfl, rfl, rfl, rfl⟩

/-- What tables in force leave: the tables that wait, the front and the back. -/
theorem foldl_calInForce_frame (l : List CalPending) (s : State) :
    (l.foldl (fun s p => calInForce p.table p.dest p.body s) s).cal.frontPending = s.cal.frontPending ∧
      (l.foldl (fun s p => calInForce p.table p.dest p.body s) s).cal.backPending = s.cal.backPending ∧
      (l.foldl (fun s p => calInForce p.table p.dest p.body s) s).front = s.front ∧
      (l.foldl (fun s p => calInForce p.table p.dest p.body s) s).back = s.back := by
  have h := view_foldl (π := fun s : State => (s.cal.frontPending, s.cal.backPending, s.front, s.back))
    (f := fun s (p : CalPending) => calInForce p.table p.dest p.body s) (fun s p => by
      obtain ⟨hf, hb, hfront, hback⟩ := calInForce_frame p.table p.dest p.body s
      rw [hf, hb, hfront, hback]) l s
  simpa only [Prod.mk.injEq] using h

/-- Settling calibration waits for the tables that wait for a version boundary. -/
theorem settleCal_of_waits {s : State} (h : calWaits s = true) : settleCal s = s := by
  unfold settleCal
  extract_lets storing
  rw [h, Bool.or_true, Bool.true_or, if_pos rfl]

theorem bandSelect_of_idle {s : State} (ecc : List EccHit) (h : frontCan s = false) : bandSelect ecc s = s := by
  rw [bandSelect, h, Bool.not_false, Bool.true_or, if_pos rfl]

theorem bandSelect_of_stalled {s : State} (ecc : List EccHit) (h : frontStalled s = true) : bandSelect ecc s = s := by
  rw [bandSelect, h, Bool.or_true, if_pos rfl]

theorem bandSelect_of_ready {s : State} {i : Nat} (ecc : List EccHit) (hcan : frontCan s = true) (hs : frontStalled s = false)
    (hfind : (ctxOrder s).find? (bandReady s) = some i) : bandSelect ecc s = takeBand i ecc s := by
  rw [bandSelect, hcan, hs, hfind, Bool.not_true, Bool.or_false, if_neg Bool.false_ne_true]

theorem beginNext_of_idle {s : State} (h : frontCan s = false) : beginNext s = s := by
  rw [beginNext, h, Bool.not_false, if_pos rfl]

theorem beginNext_of_candidate {s : State} {i : Nat} (hcan : frontCan s = true)
    (hfind : (ctxOrder s).find? (fun i => (versionOf s i).isNone && (candidate s i).isSome) = some i) :
    beginNext s = beginVersion i s := by
  rw [beginNext, hcan, Bool.not_true, if_neg Bool.false_ne_true, hfind]

theorem endNext_of_no_versions {s : State} (h : s.front.versions = []) : endNext s = s := by
  have hctx : versionCtxs s = [] := by
    rw [versionCtxs, h]
    rfl
  rw [endNext, hctx, List.foldl_nil, pump_of_no_versions h, h]
  rfl

/-- The end of a version of the back, while the pipeline runs. -/
theorem exec_backEndVersion (t : Instant) (s : State) :
    exec (.backEndVersion t) s = .next (if pipeRuns s then settleCal (backEnd (setNow t s)) else setNow t s) := rfl

/-- Settles O37. -/
theorem calTablesAndVersionBoundaries : Obligations.CalTablesAndVersionBoundaries := by
  refine ⟨?_, fun x i ws => rfl, ?_, fun store x b s h => commitTable_of_crc store b h,
    fun store x b s h0 h2 => commitTable_of_bad store b h0 h2, ?_, ?_, fun t ecc s => rfl,
    fun ecc s i hcan hs hf => bandSelect_of_ready ecc hcan hs hf, fun ecc s h => bandSelect_of_stalled ecc h, ?_, ?_,
    fun t s => rfl, fun s h => endNext_of_no_versions h, ?_, ?_, ?_, fun s h => settleCal_of_waits h, ?_⟩
  case refine_1 =>
    intro t s p s1 h hr h1 h7 hdest hcommit halign hsize
    exact exec_of_body h rfl (loadCalBody_of_stage hr h1 h7 hdest hcommit halign hsize) rfl
  case refine_2 => exact fun t s p s1 h hr hbad => exec_of_body h rfl (loadCalBody_of_bad hr hbad) rfl
  case refine_3 =>
    intro s
    obtain ⟨-, hfb, hff, -⟩ := foldl_calInForce_frame s.cal.frontPending s
    obtain ⟨hbf, -, -, hbb⟩ := foldl_calInForce_frame s.cal.backPending s
    exact ⟨rfl, hfb, hff, rfl, hbf, hbb⟩
  case refine_4 => exact fun body s => ⟨rfl, rfl, rfl, rfl, rfl, rfl⟩
  case refine_5 =>
    intro t ecc s h
    exact ⟨congrArg (fun u => Host.Outcome.next (settleCal u)) (bandSelect_of_idle ecc h),
      congrArg (fun u => Host.Outcome.next (settleCal u)) (beginNext_of_idle h)⟩
  case refine_6 =>
    intro t s i hcan hfind
    exact congrArg (fun u => Host.Outcome.next (settleCal u)) (beginNext_of_candidate hcan hfind)
  case refine_7 => exact fun t s h => (exec_backEndVersion t s).trans (congrArg _ (if_neg (by rw [h]; exact Bool.false_ne_true)))
  case refine_8 =>
    intro t s h hd
    rw [exec_backEndVersion, if_pos h, backEnd, if_pos (show (setNow t s).back.drained = 0 from hd)]
  case refine_9 =>
    intro t s h hd
    rw [exec_backEndVersion, if_pos h, backEnd, if_neg (show ¬ (setNow t s).back.drained = 0 from hd)]
    rfl
  case refine_10 =>
    intro t strm s
    change execChannelVersionArrival t strm s = _
    rfl

/-! ### Ingress frames and their counters -/

theorem ingressAt_updIngress {s : State} {k : Nat} (f : IngressFrame → IngressFrame) (h : k < s.front.ingress.length) :
    ingressAt (updIngress k f s) k = f (ingressAt s k) := by
  rw [ingressAt, ingressAt, updIngress, List.getD_eq_getElem _ _ h,
    List.getD_eq_getElem _ _ (by rw [List.length_modify]; exact h), List.getElem_modify, if_pos rfl]

theorem ctxCnt_updCtxCnt {i : Nat} (f : CtxCounters → CtxCounters) (s : State) : ctxCnt (updCtxCnt i f s) i = f (ctxCnt s i) := by
  unfold ctxCnt updCtxCnt
  split
  · rfl
  · rfl

theorem updCtxCnt_eq (i : Nat) (f : CtxCounters → CtxCounters) (s : State) :
    ∃ a b, updCtxCnt i f s = { s with front := { s.front with cnt0 := a, cnt1 := b } } := by
  unfold updCtxCnt
  split
  · exact ⟨_, _, rfl⟩
  · exact ⟨_, _, rfl⟩

theorem updCtxCnt_ingress (i : Nat) (f : CtxCounters → CtxCounters) (s : State) :
    (updCtxCnt i f s).front.ingress = s.front.ingress := by
  obtain ⟨a, b, h⟩ := updCtxCnt_eq i f s
  rw [h]

theorem ingressAt_updCtxCnt (i k : Nat) (f : CtxCounters → CtxCounters) (s : State) :
    ingressAt (updCtxCnt i f s) k = ingressAt s k := by
  rw [ingressAt, updCtxCnt_ingress, ingressAt]

/-! ### Headers (R129, R130) -/

section
variable {i : Nat} {pkt : List Word} {s : State} (hopen : openIngress s i = none)
  (hbasted : (marksOf (pkt.getD 3 0)).basted = false)
include hopen hbasted

/-- A header of a good frame takes a free frame, or the place of the oldest that waits. -/
theorem headerArrives_of_match (hmatch : headerMismatch s.rst.fuses.variantMl (inputCtx s i) pkt = false)
    (hdropped : (marksOf (pkt.getD 3 0)).dropped = false) :
    headerArrives i pkt s = match (servingFrames s i).find? fun k => (ingressAt s k).phase == .free with
      | some k => takeIngress k i pkt s
      | none =>
        match oldestWaiting s i with
        | some k => takeIngress k i pkt (dropFrame i (ingressAt s k).hdr s)
        | none => dropFrame i (headerOf pkt) s := by
  unfold headerArrives
  rw [hopen]
  dsimp only
  rw [hbasted, if_neg Bool.false_ne_true, hmatch, if_neg Bool.false_ne_true, hdropped, if_neg Bool.false_ne_true] <;> rfl

/-- A header of another form than its context's is counted, and raises INGRESS_FORMAT once. -/
theorem headerArrives_of_mismatch (hmatch : headerMismatch s.rst.fuses.variantMl (inputCtx s i) pkt = true) :
    headerArrives i pkt s = if s.front.fmtErrRaised.contains i then updCtxCnt i (fun c => { c with format := satInc c.format }) s
      else raise 0x0203 i 0 0 { updCtxCnt i (fun c => { c with format := satInc c.format }) s with
        front := { (updCtxCnt i (fun c => { c with format := satInc c.format }) s).front with
          fmtErrRaised := insNat s.front.fmtErrRaised i } } := by
  have hraised : (updCtxCnt i (fun c => { c with format := satInc c.format }) s).front.fmtErrRaised = s.front.fmtErrRaised := by
    obtain ⟨a, b, h⟩ := updCtxCnt_eq i (fun c => { c with format := satInc c.format }) s
    rw [h]
  unfold headerArrives
  rw [hopen]
  dsimp only
  rw [hbasted, if_neg Bool.false_ne_true, hmatch, if_pos rfl, hraised]

end

/-- A frame taken fills from its header on. -/
theorem takeIngress_spec {k i : Nat} (pkt : List Word) {s : State} (hk : k < s.front.ingress.length) :
    (ingressAt (takeIngress k i pkt s) k).phase = .filling ∧ (ingressAt (takeIngress k i pkt s) k).ctx = i ∧
    (ingressAt (takeIngress k i pkt s) k).hdr = headerOf pkt ∧ (ingressAt (takeIngress k i pkt s) k).lines = [] ∧
    (ctxCnt (takeIngress k i pkt s) i).frames = satInc (ctxCnt s i).frames ∧
    { takeIngress k i pkt s with front := s.front } = s := by
  unfold takeIngress
  extract_lets +onlyGivenNames x u
  have hframe : ingressAt u k = _ := ingressAt_updIngress _ hk
  have hat : ingressAt (updCtxCnt i (fun c => { c with frames := satInc c.frames })
      { u with front := { u.front with ingressCount := u.front.ingressCount + 1 } }) k = ingressAt u k := ingressAt_updCtxCnt ..
  rw [hat, hframe, ctxCnt_updCtxCnt]
  obtain ⟨a, b, h⟩ := updCtxCnt_eq i (fun c => { c with frames := satInc c.frames })
    { u with front := { u.front with ingressCount := u.front.ingressCount + 1 } }
  rw [h]
  exact ⟨rfl, rfl, rfl, rfl, rfl, rfl⟩

/-! ### Lines (R131, R132) -/

section
variable {i k : Nat} {pkt : List Word} {s : State} (hopen : openIngress s i = some k)
include hopen

/-- A good line of the open frame enters it, the first time. -/
theorem lineArrives_of_good {vs : List Px} (hok : packetOk pkt = true) (hid : pkt.getD 2 0 = (ingressAt s k).hdr.id)
    (hvals : lineValues s i (ingressAt s k) pkt = some vs) (hy : fldN (pkt.getD 3 0) 16 14 < (inputCtx s i).height.toNat)
    (hseen : (ingressAt s k).lines.any (fun l => l.1 == fldN (pkt.getD 3 0) 16 14) = false)
    (hblack : (ingressAt s k).blackLines.contains (fldN (pkt.getD 3 0) 16 14) = false) :
    lineArrives i pkt s = updIngress k (fun g => { g with lines := (fldN (pkt.getD 3 0) 16 14, vs) :: g.lines }) s := by
  unfold lineArrives
  rw [hopen]
  dsimp only
  rw [hok, hid, bne_self_eq_false, Bool.and_false, if_neg Bool.false_ne_true, hvals, hseen, hblack]
  exact if_pos (by rw [Bool.and_eq_true, decide_eq_true_eq]; exact ⟨hy, rfl⟩)

/-- A line that reads as black already enters no more. -/
theorem lineArrives_of_black {vs : List Px} (hvals : lineValues s i (ingressAt s k) pkt = some vs)
    (hblack : (ingressAt s k).blackLines.contains (fldN (pkt.getD 3 0) 16 14) = true) : lineArrives i pkt s = s := by
  unfold lineArrives
  rw [hopen]
  dsimp only
  rw [hvals, hblack, Bool.or_true, Bool.not_true, Bool.and_false]
  split
  · rfl
  · exact if_neg Bool.false_ne_true

/-- A bad line reads as black, is counted and marks its frame CORRUPT. -/
theorem lineArrives_of_bad (hok : packetOk pkt = false) :
    lineArrives i pkt s = updCtxCnt i (fun c => { c with crcErr := satInc c.crcErr }) (updIngress k (fun g => { g with
      blackLines := if decide (fldN (pkt.getD 3 0) 16 14 < (inputCtx s i).height.toNat) &&
          !((ingressAt s k).lines.any (fun l => l.1 == fldN (pkt.getD 3 0) 16 14) ||
            (ingressAt s k).blackLines.contains (fldN (pkt.getD 3 0) 16 14)) then
        insNat g.blackLines (fldN (pkt.getD 3 0) 16 14) else g.blackLines
      marks := { g.marks with corrupt := true } }) s) := by
  have hnone : lineValues s i (ingressAt s k) pkt = none := by
    unfold lineValues
    extract_lets x payload
    rw [hok]
    rfl
  unfold lineArrives
  rw [hopen]
  dsimp only
  rw [hok, Bool.false_and, if_neg Bool.false_ne_true, hnone]

end

/-! ### Foreign samples, ends of frames (R131, R133, R134) -/

theorem foreignMantissa_eq (x : InputCtx) (v : Nat) : foreignMantissa x v = if v = 2 ^ foreignBits x - 1 then 0xFFFFF
    else BitVec.ofInt 20 (clampI 0 0xFFFFE (((v : Int) - x.pedF.toNat) * 2 ^ x.fshift.toNat + 256)) := by
  have hpos := Nat.two_pow_pos (foreignBits x)
  have hclamp : ∀ y : Int, clampUI 20 (clampI 0 0xFFFFE y) = BitVec.ofInt 20 (clampI 0 0xFFFFE y) := by
    intro y
    have hlo : 0 ≤ clampI 0 0xFFFFE y := by
      unfold clampI
      omega
    have hself : clampI 0 (2 ^ 20 - 1) (clampI 0 0xFFFFE y) = clampI 0 0xFFFFE y := by
      unfold clampI
      omega
    rw [clampUI, hself, ← BitVec.ofInt_natCast, Int.toNat_of_nonneg hlo]
  rw [foreignMantissa, hclamp]
  exact if_congr (by omega) rfl rfl

theorem endIngress_spec {k : Nat} (late : Bool) (sent : Marks) {s : State} (hk : k < s.front.ingress.length) :
    (ingressAt (endIngress k late sent s) k).ended = true ∧
    (ingressAt (endIngress k late sent s) k).lines = (ingressAt s k).lines ∧
    (missingLines (inputCtx s (ingressAt s k).ctx).height.toNat (ingressAt s k) ≠ 0 →
      (if late then (ingressAt (endIngress k late sent s) k).marks.late
       else (ingressAt (endIngress k late sent s) k).marks.incomplete) = true) := by
  unfold endIngress
  extract_lets +onlyGivenNames g n m u
  have hk' : k < u.front.ingress.length := by
    rw [show u.front.ingress = s.front.ingress from updCtxCnt_ingress ..]
    exact hk
  have hu : ingressAt u k = g := ingressAt_updCtxCnt ..
  rw [ingressAt_updIngress _ hk', hu]
  refine ⟨rfl, rfl, fun hn => ?_⟩
  have hm : m = if late then { late := true } else { incomplete := true } := if_neg hn
  rw [hm]
  cases late with
  | true => exact (Bool.or_eq_true ..).mpr (.inr ((Bool.or_eq_true ..).mpr (.inr rfl)))
  | false => exact (Bool.or_eq_true ..).mpr (.inr ((Bool.or_eq_true ..).mpr (.inr rfl)))

/-- Settles O38. -/
theorem ingressFramesFillFromPackets : Obligations.IngressFramesFillFromPackets := by
  refine ⟨?_, ?_, ?_, ?_, ?_, ?_, fun i k pkt s hk _ => takeIngress_spec pkt hk, ?_, ?_, ?_, ?_,
    fun x v _ _ => foreignMantissa_eq x v, ?_, ?_, ?_, ?_, ?_, fun k late sent s hk => endIngress_spec late sent hk, fun t node port pkt s => rfl⟩
  case refine_1 =>
    intro t node port pkt s i hruns hok hkind hctx
    change execIngressHeader t node port pkt s = _
    rw [execIngressHeader, show pipeRuns (setNow t s) = true from hruns, hok, hkind,
      show ctxsOf (setNow t s) node port = [i] from hctx]
    rfl
  case refine_2 =>
    intro t node port pkt s h
    have hclosed : (pipeRuns s && packetOk pkt) = false := by
      rcases h with h | h
      · rw [h, Bool.and_false]
      · rw [h, Bool.false_and]
    have hrun : ∀ n, ¬ (pipeRuns (setNow t s) && packetOk pkt && fldN (pkt.headD 0) 28 4 == n) = true := by
      intro n
      rw [show (pipeRuns (setNow t s) && packetOk pkt) = false from hclosed, Bool.false_and]
      exact Bool.false_ne_true
    exact ⟨congrArg Host.Outcome.next (if_neg (hrun 1)), congrArg Host.Outcome.next (if_neg (hrun 4))⟩
  case refine_3 =>
    intro t node port pkt s h
    have hrun : ∀ n, ¬ (pipeRuns (setNow t s) && fldN (pkt.headD 0) 28 4 == n) = true := by
      intro n
      rw [show pipeRuns (setNow t s) = false from h, Bool.false_and]
      exact Bool.false_ne_true
    exact ⟨congrArg Host.Outcome.next (if_neg (hrun 2)), congrArg Host.Outcome.next (if_neg (hrun 3))⟩
  case refine_4 =>
    intro i pkt s k hopen hbasted hmatch hdropped hfree
    rw [headerArrives_of_match hopen hbasted hmatch hdropped, hfree]
  case refine_5 =>
    intro i pkt s k hopen hbasted hmatch hdropped hfree hold
    rw [headerArrives_of_match hopen hbasted hmatch hdropped, hfree]
    dsimp only
    rw [hold]
  case refine_6 =>
    intro i pkt s hopen hbasted _ hmatch
    obtain ⟨a, b, hcnt⟩ := updCtxCnt_eq i (fun c => { c with format := satInc c.format }) s
    have hc := ctxCnt_updCtxCnt (i := i) (fun c => { c with format := satInc c.format }) s
    rw [headerArrives_of_mismatch hopen hbasted hmatch]
    by_cases hraised : s.front.fmtErrRaised.contains i = true
    · rw [if_pos hraised]
      refine ⟨hc, updCtxCnt_ingress .., fun _ => ?_⟩
      rw [hcnt]
    · rw [if_neg hraised]
      obtain ⟨e, he⟩ := raise_eq 0x0203 i 0 0 { updCtxCnt i (fun c => { c with format := satInc c.format }) s with
        front := { (updCtxCnt i (fun c => { c with format := satInc c.format }) s).front with
          fmtErrRaised := insNat s.front.fmtErrRaised i } }
      rw [he]
      exact ⟨hc, updCtxCnt_ingress .., fun h => absurd h hraised⟩
  case refine_7 =>
    intro t node port pkt s i hruns hkind hctx
    change execIngressLine t node port pkt s = _
    rw [execIngressLine, show pipeRuns (setNow t s) = true from hruns, hkind,
      show ctxsOf (setNow t s) node port = [i] from hctx]
    rfl
  case refine_8 =>
    intro i pkt s k vs hopen hok hid hy hseen hblack hvals
    exact lineArrives_of_good hopen hok hid hvals hy hseen hblack
  case refine_9 =>
    intro i pkt s k hopen hok _ hk
    rw [lineArrives_of_bad hopen hok, ctxCnt_updCtxCnt, ingressAt_updCtxCnt, ingressAt_updIngress _ hk]
    refine ⟨rfl, rfl, rfl, fun hy hseen hblack => ?_, fun h => if_neg ?_⟩
    · rw [hseen, hblack, decide_eq_true hy]
      exact mem_insNat.2 (.inl rfl)
    · rw [Bool.and_eq_true, decide_eq_true_eq, Bool.not_eq_true', Bool.or_eq_false_iff]
      rintro ⟨hlt, hlines, -⟩
      exact h.elim (fun hle => Nat.not_le.2 hlt hle) fun hany => Bool.false_ne_true (hlines.symm.trans hany)
  case refine_10 => exact fun i pkt s k vs hopen _ hblack hvals => lineArrives_of_black hopen hvals hblack
  case refine_11 =>
    intro t node port pkt s i hruns hkind hctx
    change execIngressSidecar t node port pkt s = _
    rw [execIngressSidecar, show pipeRuns (setNow t s) = true from hruns, hkind,
      show ctxsOf (setNow t s) node port = [i] from hctx]
    rfl
  case refine_12 =>
    intro i pkt s hopen
    rw [sidecarArrives, lineArrives, hopen]
    exact ⟨rfl, rfl⟩
  case refine_13 =>
    intro t node port pkt s i k hruns hok hkind hctx hopen hid
    change execIngressTrailer t node port pkt s = _
    rw [execIngressTrailer, show pipeRuns (setNow t s) = true from hruns, hok, hkind,
      show ctxsOf (setNow t s) node port = [i] from hctx]
    refine congrArg Host.Outcome.next ((if_pos rfl).trans ?_)
    rw [List.foldl_cons, List.foldl_nil, show openIngress (setNow t s) i = some k from hopen]
    exact if_pos (beq_iff_eq.2 hid)
  case refine_14 =>
    intro t i s k hruns hopen hdue
    change execIngressDeadline t i s = _
    rw [execIngressDeadline, show openIngress (setNow t s) i.val = some k from hopen]
    refine if_pos ?_
    rw [show pipeRuns (setNow t s) = true from hruns, Bool.true_and]
    exact decide_eq_true hdue
  case refine_15 =>
    intro t i s hopen
    change execIngressDeadline t i s = _
    rw [execIngressDeadline, show openIngress (setNow t s) i.val = none from hopen]

/-! ### PIPE_CONFIG and SET_PIPE_PARAMS (R126, R127) -/

section
variable {c : Cmd} {s : State} {new : PipeCfg} (hr : firstReserved c.words [0xFFC, 3] = none)
  (hnew : new = pipeOf (overlay c.words (pipeWords s.front.cfg)))
include hr hnew

theorem pipeConfigBody_of_mode (h : 4 < new.nrMode.toNat) : pipeConfigBody c s = cmdBad s 0 := by
  unfold pipeConfigBody
  extract_lets +onlyGivenNames p
  obtain rfl : new = p := hnew
  rw [judged_of_none _ _ hr, decide_eq_true h, Bool.true_or, if_pos rfl]

/-- A pipeline configuration in range is taken while the pipeline stands, unless power or a pillow refuses it. -/
theorem pipeConfigBody_of_fit (hmode : new.nrMode.toNat ≤ 4) (hloaded : new.nrMode = 4 → (nrLoaded s).isSome = true) :
    pipeConfigBody c s =
      if !pipelineStopped s || (new.nrMode == 4 && s.power.hold) then cmdRefuse s .wrongState
      else if pillowConflict s s.exposure.cfg new then cmdRefuse s .busy
      else match (if new.nrMode == 4 then admission s { caseNow s with pipe := new, starting := (nrHolder s).or (nrLoaded s) }
          else none) with
        | some n => cmdBudget s n
        | none => cmdOk (arbitrate { s with front := { s.front with cfg := new } }) := by
  have hgood : ¬ (4 < new.nrMode.toNat || (new.nrMode == 4 && (nrLoaded s).isNone)) = true := by
    rw [Bool.or_eq_true, decide_eq_true_eq, Bool.and_eq_true, beq_iff_eq, Option.isNone_iff_eq_none]
    rintro (h | ⟨h4, hnone⟩)
    · exact Nat.not_lt.2 hmode h
    · have := hloaded h4
      rw [hnone] at this
      exact Bool.false_ne_true this
  unfold pipeConfigBody
  extract_lets +onlyGivenNames p
  obtain rfl : new = p := hnew
  rw [judged_of_none _ _ hr, if_neg hgood] <;> rfl

end

section
variable {c : Cmd} {s : State} {ws : List Word} {u : PipeUpd} (hr : firstReserved c.words pipeParamMasks = none)
  (hws : ws = overlay c.words (pipeParamWords s.front.params)) (hu : u = pipeUpdOf ws)
include hr hws hu

theorem setPipeParamsBody_of_bad {w : Nat} (hbad : pipeParamsBad s ws u = some w) : setPipeParamsBody c s = cmdBad s w := by
  unfold setPipeParamsBody
  extract_lets +onlyGivenNames v w0 x target
  obtain rfl : ws = v := hws
  obtain rfl : u = x := hu
  rw [judged_of_none _ _ hr, hbad]

/-- Without a frame named and with capture stopped the values are in force at once. -/
theorem setPipeParamsBody_of_stopped (hgood : pipeParamsBad s ws u = none) (hstop : captureStopped s = true)
    (htarget : bitAt (paramAt ws 0) 16 = false) :
    setPipeParamsBody c s = cmdOk { s with front := { s.front with params := applyPipeUpd s.front.params u } } [nextFrame s] := by
  unfold setPipeParamsBody
  extract_lets +onlyGivenNames v w0 x target
  obtain rfl : ws = v := hws
  obtain rfl : u = x := hu
  have hnone : target = none := if_neg (by rw [show bitAt w0 16 = false from htarget]; exact Bool.false_ne_true)
  rw [judged_of_none _ _ hr, hgood, hnone, hstop]
  rfl

/-- Values that wait for their frame are one more set. -/
theorem setPipeParamsBody_of_set {x : PendingSet PipeUpd} {late : Bool} {shown : FrameId} (hgood : pipeParamsBad s ws u = none)
    (hwait : captureStopped s = false ∨ bitAt (paramAt ws 0) 16 = true)
    (hsubmit : submitSet applyPipeUpd (fun _ => true) s.front.params s.front.pendingSets s c (bitAt (paramAt ws 0) 17)
      (if bitAt (paramAt ws 0) 16 then some (paramAt ws 1) else none) u = .accepted x late shown) :
    setPipeParamsBody c s = { state := { s with front := { s.front with pendingSets := s.front.pendingSets ++ [x] } }
                              status := if late then .late else .ok, results := [shown] } := by
  unfold setPipeParamsBody
  extract_lets +onlyGivenNames v w0 y target
  obtain rfl : ws = v := hws
  obtain rfl : u = y := hu
  have hqueue : ¬ (captureStopped s && target.isNone) = true := by
    rw [Bool.and_eq_true, Option.isNone_iff_eq_none]
    rintro ⟨hstop, hnone⟩
    rcases hwait with h | h
    · exact Bool.false_ne_true (h.symm.trans hstop)
    · have hsome : target = some (paramAt v 1) := if_pos h
      rw [hsome] at hnone
      exact nomatch hnone
  rw [judged_of_none _ _ hr, hgood]
  dsimp only
  rw [if_neg hqueue, show submitSet applyPipeUpd (fun _ => true) s.front.params s.front.pendingSets s c (bitAt w0 17) target y = _
    from hsubmit]

end

theorem applyPipeUpd_nothing (p : PipeParams) : applyPipeUpd p {} = p := rfl

/-! ### SET_INPUTS (R127) -/

/-- The contexts once one of them has new values: PRIO is one context's alone. -/
def inputsWith (i : Nat) (new : InputCtx) (s : State) : State :=
  if new.prio then setCtx (1 - i) { inputCtx s (1 - i) with prio := false } (setCtx i new s) else setCtx i new s

theorem setCtx_eq (i : Nat) (x : InputCtx) (s : State) :
    ∃ a b, setCtx i x s = { s with front := { s.front with ctx0 := a, ctx1 := b } } := by
  unfold setCtx
  split
  · exact ⟨_, _, rfl⟩
  · exact ⟨_, _, rfl⟩

theorem inputsWith_eq (i : Nat) (new : InputCtx) (s : State) :
    ∃ a b, inputsWith i new s = { s with front := { s.front with ctx0 := a, ctx1 := b } } := by
  obtain ⟨a, b, h⟩ := setCtx_eq i new s
  unfold inputsWith
  rw [h]
  split
  · obtain ⟨a', b', h'⟩ := setCtx_eq (1 - i) { inputCtx s (1 - i) with prio := false }
      { s with front := { s.front with ctx0 := a, ctx1 := b } }
    exact ⟨a', b', h'⟩
  · exact ⟨a, b, rfl⟩

section
variable {c : Cmd} {s : State} {i : Nat} {new : InputCtx}
  (hr : firstReserved c.words [0xF001, 0x1FF007F, 0x3FFF3FFF, 0xFFFFFFFF, 0xFFFF0F7F] = none)
  (hi : i = fldN (paramAt c.words 0) 0 1) (hnew : new = inputOf (overlay c.words (inputWords i (inputCtx s i))))
include hr hi hnew

theorem setInputsBody_of_bad {w : Nat} (hbad : inputBad s.rst.fuses.variantMl (inputCtx s (1 - i)) new = some w) :
    setInputsBody c s = cmdBad s w := by
  subst hi
  unfold setInputsBody
  extract_lets +onlyGivenNames i old x other
  obtain rfl : new = x := hnew
  rw [judged_of_none _ _ hr, show inputBad s.rst.fuses.variantMl other x = some w from hbad]

variable (hgood : inputBad s.rst.fuses.variantMl (inputCtx s (1 - i)) new = none)
include hgood

theorem setInputsBody_of_running (hold : (inputCtx s i).enable = true) (hclear : new ≠ { inputCtx s i with enable := false })
    (hprio : new ≠ { inputCtx s i with prio := new.prio }) : setInputsBody c s = cmdRefuse s .wrongState := by
  subst hi
  unfold setInputsBody
  extract_lets +onlyGivenNames i old x other
  obtain rfl : new = x := hnew
  rw [judged_of_none _ _ hr, show inputBad s.rst.fuses.variantMl other x = none from hgood]
  refine if_pos ?_
  rw [Bool.and_eq_true, Bool.and_eq_true, Bool.not_eq_true', Bool.not_eq_true', beq_eq_false_iff_ne, beq_eq_false_iff_ne]
  exact ⟨⟨hold, hclear.symm⟩, hprio.symm⟩

/-- Values of a context that is off, or whose ENABLE or PRIO alone changes, are in force. -/
theorem setInputsBody_of_fit (h : (inputCtx s i).enable = false ∨ new = { inputCtx s i with enable := false } ∨
      new = { inputCtx s i with prio := new.prio }) :
    setInputsBody c s = cmdOk (arbitrate (noteStop
      (if (inputCtx s i).enable && !new.enable then
        clearEnable i (inputCtx s i).kind { inputsWith i new s with
          front := { (inputsWith i new s).front with fmtErrRaised := remNat s.front.fmtErrRaised i } }
      else if new.enable then { inputsWith i new s with front := { (inputsWith i new s).front with
        fmtErrRaised := remNat s.front.fmtErrRaised i, disableAtEnd := remNat s.front.disableAtEnd i } }
      else { inputsWith i new s with
        front := { (inputsWith i new s).front with fmtErrRaised := remNat s.front.fmtErrRaised i } }))) := by
  have hrun : ¬ ((inputCtx s i).enable && !({ inputCtx s i with enable := false } == new) &&
      !({ inputCtx s i with prio := new.prio } == new)) = true := by
    rw [Bool.and_eq_true, Bool.and_eq_true, Bool.not_eq_true', Bool.not_eq_true', beq_eq_false_iff_ne, beq_eq_false_iff_ne]
    rintro ⟨⟨hold, hclear⟩, hprio⟩
    rcases h with h | h | h
    · exact Bool.false_ne_true (h.symm.trans hold)
    · exact hclear h.symm
    · exact hprio h.symm
  obtain ⟨a, b, hu⟩ := inputsWith_eq i new s
  have hfmt : (inputsWith i new s).front.fmtErrRaised = s.front.fmtErrRaised := by rw [hu]
  have hend : (inputsWith i new s).front.disableAtEnd = s.front.disableAtEnd := by rw [hu]
  subst hi
  unfold setInputsBody
  extract_lets +onlyGivenNames i old x other
  obtain rfl : new = x := hnew
  rw [judged_of_none _ _ hr, show inputBad s.rst.fuses.variantMl other x = none from hgood]
  refine (if_neg hrun).trans ?_
  rw [← hfmt, ← hend]
  rfl

end

/-! ### STATS_CONFIG, STATS_READ and the LTM grid (R171, R192, R193) -/

theorem statsConfigBody_of_fit {c : Cmd} {s : State} {ws : List Word} (hws : ws = overlay c.words (statsWords s.back))
    (hr : firstReserved c.words [0xFF01, 0xFFFFFFFF, 0xFFFFFFFF] = none) (hevery : fldN (paramAt ws 0) 8 8 ≠ 0)
    (hwb : (paramAt ws 1).toNat ≤ (paramAt ws 2).toNat) :
    statsConfigBody c s = cmdOk { s with back := { s.back with
      statsEvery := fld (paramAt ws 0) 8 8
      statsEn := bitAt (paramAt ws 0) 0
      wbLo := paramAt ws 1
      wbHi := paramAt ws 2
      statsLast := if bitAt (paramAt ws 0) 0 = true ∧ s.back.statsEn = false then none else s.back.statsLast } } := by
  have hlast : (if bitAt (paramAt ws 0) 0 && !s.back.statsEn then none else s.back.statsLast) =
      if bitAt (paramAt ws 0) 0 = true ∧ s.back.statsEn = false then none else s.back.statsLast :=
    if_congr (by rw [Bool.and_eq_true, Bool.not_eq_true']) rfl rfl
  unfold statsConfigBody
  extract_lets +onlyGivenNames v w0
  obtain rfl : ws = v := hws
  rw [judged_of_none _ _ hr, if_neg hevery, if_neg (Nat.not_lt.2 hwb), ← hlast]

/-- STATS_READ within a set and within a reply. -/
theorem statsReadBody_of_fit {c : Cmd} {s : State} {limit : Nat} (hlen : c.words.length = 3)
    (hr : firstReserved c.words [0xFFFFFFFF, 0xFFFF, 0xFFFF] = none) (hoff : fldN (paramAt c.words 1) 0 16 ≤ 50592)
    (hlimit : fldN (paramAt c.words 2) 0 16 ≤ limit)
    (hend : fldN (paramAt c.words 1) 0 16 + fldN (paramAt c.words 2) 0 16 ≤ 50593) :
    statsReadBody limit c s =
      if s.front.versions.any fun v => v.id == paramAt c.words 0 && v.kind == 1 && !v.basted then cmdRefuse s .busy
      else match setSlotOf s (paramAt c.words 0) with
        | none => cmdBad s 0
        | some k => cmdOk (correctRead (setBase k + 4 * fldN (paramAt c.words 1) 0 16) (4 * fldN (paramAt c.words 2) 0 16)
            (countCommonUe 6 (holderOf (setBase k + 4 * fldN (paramAt c.words 1) 0 16))
              (badWordsIn s (setBase k + 4 * fldN (paramAt c.words 1) 0 16) (4 * fldN (paramAt c.words 2) 0 16)).length s))
            (paramAt c.words 0 :: memWords s.dram (setBase k + 4 * fldN (paramAt c.words 1) 0 16) (fldN (paramAt c.words 2) 0 16)) := by
  unfold statsReadBody
  extract_lets +onlyGivenNames id off count
  have hcount : count = fldN (paramAt c.words 2) 0 16 := if_neg (by rw [hlen]; decide)
  have hsize : ¬ (limit < count || 50593 < off + count) = true := by
    rw [Bool.or_eq_true, decide_eq_true_eq, decide_eq_true_eq, hcount]
    exact fun h => h.elim (Nat.not_lt.2 hlimit) (Nat.not_lt.2 hend)
  rw [judged_of_none _ _ hr, if_neg (Nat.not_lt.2 hoff), if_neg hsize, hcount] <;> rfl

/-- Uncorrectable words of common memory are counted and reported. -/
theorem countCommonUe_eq (region ctl n : Nat) (s : State) : ∃ a c e,
    countCommonUe region ctl n s = { s with accum := a, accCnt := c, events := e } := by
  unfold countCommonUe reportUe
  split
  · exact ⟨_, _, _, rfl⟩
  · split
    · exact ⟨_, _, _, rfl⟩
    · obtain ⟨e, he⟩ := raise_eq 0x010C region ctl 0 { s with
        accCnt := { s.accCnt with memUeCommon := satAdd s.accCnt.memUeCommon n }
        accum := { s.accum with ueRaised := insNat s.accum.ueRaised (4096 * region + ctl) } }
      exact ⟨_, _, e, he⟩

/-- The records of a statistics set are read with their errors corrected and counted, and nothing else changes. -/
theorem readRecords_eq (k : Nat) (s : State) : ∃ a c e soft,
    readRecords k s = { s with accum := a, accCnt := c, events := e, dramSoft := soft } := by
  unfold readRecords
  extract_lets b
  obtain ⟨a, c, e, hcount⟩ := countCommonUe_eq 6 (holderOf b) (badWordsIn s b 196608).length s
  obtain ⟨soft, cnt, hread⟩ := correctRead_eq b 196608 (countCommonUe 6 (holderOf b) (badWordsIn s b 196608).length s)
  exact ⟨a, cnt, e, soft, by rw [hread, hcount]⟩

theorem exec_ltmGridPublish (t : Instant) (s : State) : exec (.ltmGridPublish t) s =
    .next (if blockRuns .bobbin s && pipeRuns s then publishGrid (setNow t s) else setNow t s) := rfl

theorem publishGrid_of_no_set {s : State} (h : newestSet s = none) : publishGrid s = s := by rw [publishGrid, h]

/-- A new grid is written to its half of pillow 4 and in force at once. -/
theorem publishGrid_of_new {s : State} {k : Nat} {x : SetSlot} (hset : newestSet s = some (k, x)) (hen : s.front.cfg.ltmEn = true)
    (hup : vendorFaulted s 2 = false) (hgrant : grantedAt s 4 = true) (hnew : s.back.grid.map (·.frame) ≠ some x.frame.id)
    (hlater : FrameId.later s.exposure.firstId x.frame.id = false) :
    (publishGrid s).back.grid = some ⟨x.frame.id, ltmNodes s k⟩ ∧
      (publishGrid s).back.gridPillowHalf = !s.back.gridPillowHalf ∧
      (∀ p, p ≠ 4 → (publishGrid s).engines.pillows[p]? = s.engines.pillows[p]?) ∧
      { publishGrid s with back := s.back, engines := s.engines, accCnt := s.accCnt, dramSoft := s.dramSoft
                           accum := s.accum, events := s.events } = s := by
  have hopen : ¬ (!s.front.cfg.ltmEn || vendorFaulted s 2 || !grantedAt s 4 || (s.back.grid.map (·.frame)) == some x.frame.id ||
      FrameId.later s.exposure.firstId x.frame.id) = true := by
    rw [hen, hup, hgrant, hlater, beq_eq_false_iff_ne.2 hnew]
    exact Bool.false_ne_true
  obtain ⟨a, c, e, soft, hread⟩ := readRecords_eq k s
  unfold publishGrid
  rw [hset]
  dsimp only
  rw [if_neg hopen, hread]
  refine ⟨rfl, rfl, fun p hp => List.getElem?_modify_ne _ _ hp.symm, rfl⟩

/-- Settles O39. -/
theorem pipelineCommandsPutValuesInForce : Obligations.PipelineCommandsPutValuesInForce := by
  refine ⟨?_, ?_, ?_, ?_, ?_, ?_, fun p g => ⟨rfl, applyPipeUpd_nothing p⟩, ?_, ?_, ?_, ?_, ?_, ?_, ?_, ?_, ?_⟩
  case refine_1 =>
    intro t s p s1 c h hr hc hmode hnr hstop hpil
    refine exec_of_body h rfl ((pipeConfigBody_of_fit hr hc hmode fun h4 => (hnr h4).1).trans ?_) rfl
    have hw : ¬ (!pipelineStopped s1 || (c.nrMode == 4 && s1.power.hold)) = true := by
      rw [hstop, Bool.not_true, Bool.false_or, Bool.and_eq_true, beq_iff_eq]
      exact fun hh => Bool.false_ne_true ((hnr hh.1).2.1.symm.trans hh.2)
    have hadm : (if c.nrMode == 4 then admission s1 { caseNow s1 with pipe := c, starting := (nrHolder s1).or (nrLoaded s1) }
        else none) = none := by
      split
      next h4 => exact (hnr (beq_iff_eq.1 h4)).2.2
      · rfl
    rw [if_neg hw, hpil, if_neg Bool.false_ne_true, hadm]
  case refine_2 =>
    intro t s p s1 c h hr hc hmode hloaded hrefuse
    refine exec_of_body h rfl ((pipeConfigBody_of_fit hr hc hmode hloaded).trans (if_pos ?_)) rfl
    rw [Bool.or_eq_true, Bool.not_eq_true', Bool.and_eq_true, beq_iff_eq]
    exact hrefuse
  case refine_3 => exact fun t s p s1 h hr hmode => exec_of_body h rfl (pipeConfigBody_of_mode hr rfl hmode) rfl
  case refine_4 =>
    intro t s p s1 h hr hgood hstop htarget
    exact exec_of_body h rfl (setPipeParamsBody_of_stopped hr rfl rfl hgood hstop htarget) rfl
  case refine_5 =>
    intro t s p s1 ws u x late shown h hr hws hu hgood hwait hsubmit
    exact exec_of_body h rfl (setPipeParamsBody_of_set hr hws hu hgood hwait hsubmit) rfl
  case refine_6 =>
    intro t s p s1 ws w h hr hws hbad
    exact exec_of_body h rfl (setPipeParamsBody_of_bad hr hws rfl hbad) rfl
  case refine_7 =>
    rintro t s p s1 i new u h hi hr hnew hgood hfit hen rfl
    refine exec_of_body h rfl ((setInputsBody_of_fit hr hi hnew hgood (hfit.imp id .inr)).trans ?_) rfl
    rw [hen, Bool.not_true, Bool.and_false, if_neg Bool.false_ne_true, if_pos rfl]
    rfl
  case refine_8 =>
    rintro t s p s1 i new u h hi hr hnew hgood hfit hen rfl
    refine exec_of_body h rfl ((setInputsBody_of_fit hr hi hnew hgood (hfit.imp id .inl)).trans ?_) rfl
    rw [hen, Bool.not_false, Bool.and_true, if_neg Bool.false_ne_true]
    rfl
  case refine_9 =>
    intro t s p s1 i new h hi hr hnew hgood hold hclear hprio
    exact exec_of_body h rfl (setInputsBody_of_running hr hi hnew hgood hold hclear hprio) rfl
  case refine_10 =>
    intro t s p s1 i w new h hi hr hnew hbad
    exact exec_of_body h rfl (setInputsBody_of_bad hr hi hnew hbad) rfl
  case refine_11 =>
    intro t s p s1 ws h hws hr hevery hwb
    exact exec_of_body h rfl (statsConfigBody_of_fit hws hr hevery hwb) rfl
  case refine_12 =>
    intro t s p s1 k h hlen hr hidle hoff hlimit hend hslot
    refine exec_of_body (body := statsReadCmd) h rfl ((statsReadBody_of_fit hlen hr hoff hlimit hend).trans
      ((if_neg ?_).trans ?_)) rfl
    · rw [par_eq, hidle]
      exact Bool.false_ne_true
    · simp only [par_eq]
      rw [hslot]
  case refine_13 =>
    intro t s p s1 h hlen hr hbusy hoff hlimit hend
    exact exec_of_body (body := statsReadCmd) h rfl ((statsReadBody_of_fit hlen hr hoff hlimit hend).trans (if_pos hbusy)) rfl
  case refine_14 =>
    intro t s h
    rw [exec_ltmGridPublish]
    rcases h with h | h | h
    · rw [publishGrid_of_no_set (s := setNow t s) h, ite_self]
    · rw [h, Bool.and_false, if_neg Bool.false_ne_true]
    · rw [h, Bool.false_and, if_neg Bool.false_ne_true]
  case refine_15 =>
    intro t s k x hset hruns hbob hen hup hgrant hnew hlater
    refine ⟨publishGrid (setNow t s), ?_, publishGrid_of_new (s := setNow t s) hset hen hup hgrant hnew hlater⟩
    rw [exec_ltmGridPublish, hruns, hbob, Bool.and_self, if_pos rfl]

/-! ### STREAM_DISABLE (R201) -/

/-- STREAM_DISABLE of stream 0. -/
def disablePacket : Packet :=
  { req := .twa, dest := 0, bytes := wordsBytes (withCrc [0x01000303, 0x00010000, 0, 1]), arrived := ⟨0, 0⟩ }

/-- A row out of reset that has `disablePacket` next, while stream 0, already disabled, still sends what it had begun. -/
def stoppingRow : State :=
  { State.reset with
    rst := { State.reset.rst with phase := .done, asserted := [] }
    bureau := { State.reset.bureau with queue := [disablePacket] }
    streams := { stopping := true } :: State.reset.streams.tail }

/-- What the refutation needs of the command taken: its stream is not enabled, the body waits all the same, and a command that
is finished is no longer executing. -/
def waitsForStopped (r : Packet × State) : Bool :=
  (firstReserved (cmdOf r.1).words [0x1FF]).isNone &&
  ((namedStreams (par r.1 0)).filter fun i => (stream r.2 i).enabled).isEmpty &&
  (streamDisableBody (cmdOf r.1) r.2).held && (finishCmd r.1 (cmdOk (arbitrate r.2)) r.2).bureau.executing.isNone

/-- Refutes O40: in `stoppingRow` STREAM_DISABLE names a stream that is disabled already and still stopping, and waits for it; its
clause says that only the streams enabled before are waited for. -/
theorem not_streamCommandsConfigureStartAndStop : ¬ Obligations.StreamCommandsConfigureStartAndStop := by
  intro h
  obtain ⟨-, -, -, -, -, -, -, -, hdisable, -⟩ := h
  obtain ⟨⟨p, s1⟩, htaken⟩ : ∃ r, taken ⟨0, 0⟩ 0x0303 stoppingRow = some r := Option.isSome_iff_exists.1 (by decide +kernel)
  have hfacts : (taken ⟨0, 0⟩ 0x0303 stoppingRow).all waitsForStopped = true := by decide +kernel
  rw [htaken, Option.all_some, waitsForStopped] at hfacts
  simp only [Bool.and_eq_true, Option.isNone_iff_eq_none, List.isEmpty_iff] at hfacts
  obtain ⟨⟨⟨hr, hnamed⟩, hheld⟩, hdone⟩ := hfacts
  have hexec : ∀ t s, exec (.streamDisable t) s = runCmd t 0x0303 streamDisableBody s := fun _ _ => rfl
  have hwait := exec_of_held_body htaken (hexec ⟨0, 0⟩ stoppingRow) rfl hheld
  have hclause := hdisable ⟨0, 0⟩ stoppingRow p s1 [] (arbitrate s1) (arbitrate s1) htaken hr hnamed.symm rfl rfl
  rw [List.any_nil, if_neg Bool.false_ne_true, hwait] at hclause
  have hsame := congrArg (fun u : State => u.bureau.executing) (Host.Outcome.next.inj hclause)
  exact Option.some_ne_none p (hsame.trans hdone)

/-! ### Streams and their channels -/

theorem stream_updStream {s : State} {i : Nat} (f : StreamState → StreamState) (h : i < s.streams.length) :
    stream (updStream s i f) i = f (stream s i) := by
  rw [stream, stream, updStream, List.getD_eq_getElem _ _ h,
    List.getD_eq_getElem _ _ (by rw [List.length_modify]; exact h), List.getElem_modify, if_pos rfl]

theorem length_updStream (s : State) (i : Nat) (f : StreamState → StreamState) :
    (updStream s i f).streams.length = s.streams.length := List.length_modify ..

/-- A change of a channel that leaves a part of it leaves that part of every channel. -/
theorem channel_updChannel_of_kept {β : Type} (π : ChannelState → β) {f : ChannelState → ChannelState} (hf : ∀ c, π (f c) = π c)
    (s : State) (i j : Nat) : π (channel (updChannel s i f) j) = π (channel s j) := by
  rw [channel, channel, updChannel, List.getD_eq_getElem?_getD, List.getD_eq_getElem?_getD, List.getElem?_modify]
  cases s.back.channels[j]? with
  | none => rfl
  | some c =>
    change π (if i = j then f c else c) = π c
    split
    · exact hf c
    · rfl

/-! ### Frames formed and sent (R180, R196–R210) -/

section
variable {i : Nat} {s : State}

theorem beginRaw_of_reading (h : (channel s i).raw.isSome = true) : beginRaw i s = s := by
  rw [beginRaw, h, Bool.or_true, Bool.true_or, if_pos rfl]

/-- A RAW20 channel begins the next frozen frame of its list. -/
theorem beginRaw_of_hist {id : FrameId} {rest : List FrameId} {k : Nat} {h : HistFrame} (hen : (stream s i).enabled = true)
    (hraw : isRaw20 (streamCfg s i) = true) (hnone : (channel s i).raw = none) (hruns : pipeRuns s = true)
    (hqueue : (channel s i).histQueue = id :: rest) (hslot : frozenSlot s id = some (k, h)) :
    beginRaw i s = readRaw i k h true (updChannel s i fun c => { c with histQueue := rest }) := by
  have hopen : ¬ (!(stream s i).enabled || !isRaw20 (streamCfg s i) || (channel s i).raw.isSome || !pipeRuns s) = true := by
    rw [hen, hraw, hnone, hruns]
    exact Bool.false_ne_true
  rw [beginRaw, if_neg hopen, hqueue]
  dsimp only
  rw [show frozenSlot (updChannel s i fun c => { c with histQueue := rest }) id = some (k, h) from hslot]

theorem offerRun_of_none (h : (channel s i).run = none) : offerRun i s = s := by rw [offerRun, h]

theorem offerRaw_of_none (h : (channel s i).raw = none) : offerRaw i s = s := by rw [offerRaw, h]

theorem writeTrailer_of_none (h : (channel s i).run = none) : writeTrailer i s = s := by rw [writeTrailer, h]

theorem rawBands_of_none (n : Nat) (h : (channel s i).raw = none) : rawBands i n s = s := by
  cases n with
  | zero => rfl
  | succ n => rw [rawBands, h]

theorem closeRaw_of_none (h : (channel s i).raw = none) : closeRaw i s = s := by rw [closeRaw, h]

/-- The trailer of a frame whose run has ended closes its entry, and the run is over. -/
theorem writeTrailer_of_ended {r : ChannelRun} {m : Marks} (hrun : (channel s i).run = some r) (hend : r.ended = some m) :
    writeTrailer i s = updChannel (closeEntry i r.id r.basted m s) i fun c => { c with run := none } := by
  rw [writeTrailer, hrun]
  dsimp only
  rw [hend]

/-! ### Room in a buffer (R206) -/

/-- A frame for which the empty buffer has room is taken. -/
theorem arriveFrame_of_fits {f : FrameInfo} (hbasted : f.marks.basted = false) (hpolicy : (streamCfg s i).dropPolicy ≠ 2)
    (hi : i < s.streams.length) (hempty : (stream s i).entries = [])
    (hfits : frameFits s i (sMax f.hdr.variantMl f.hdr.bin (streamCfg s i)) = true) : (arriveFrame i f s).1 = true := by
  have hentries : (stream (removeBasted i f.id s) i).entries = [] := by
    rw [removeBasted, discardEntries, stream_updStream _ hi, hempty]
    rfl
  have hroom : frameFits (removeBasted i f.id s) i (sMax f.hdr.variantMl f.hdr.bin (streamCfg s i)) = true := by
    rw [frameFits, frameBytes, hempty] at hfits
    rw [frameFits, frameBytes, hentries]
    exact hfits
  unfold arriveFrame
  extract_lets +onlyGivenNames c need u policy drop n
  have hu : u = removeBasted i f.id s := if_neg (by rw [hbasted]; exact Bool.false_ne_true)
  have hn : n = 0 := by
    dsimp only [n]
    rw [hu, hentries]
    rfl
  clear_value u n
  subst hu hn
  rw [hbasted, if_neg Bool.false_ne_true, if_neg (fun h => hpolicy (beq_iff_eq.1 h))]
  dsimp only [discardBasted, discardFinished]
  rw [ite_self, if_pos hroom]

/-! ### Packets that leave (R198, R202, R206) -/

theorem readBuffer_of_no_errors (i : Nat) (s : State) : readBuffer i [] s = s := by
  change { s with accCnt := { s.accCnt with eccCe := satAdd s.accCnt.eccCe 0 } } = s
  rw [satAdd_zero]

theorem makeWay_of_one {e : StreamEntry} (h : (stream s i).entries = [e]) : makeWay i s = s := by
  rw [makeWay, h]
  exact if_neg (Nat.lt_irrefl 1)

/-- The entry whose first packet has left. -/
def sentOnce (e : StreamEntry) (p : List Word) (ps : List (List Word)) (w : List Word) : StreamEntry :=
  { e with
    waiting := ps, begun := true, sentBytes := e.sentBytes + 4 * w.length
    sentLines := if fldN (p.headD 0) 28 4 == 2 then e.sentLines + 1 else e.sentLines
    sentPayload := if fldN (p.headD 0) 28 4 == 2 then e.sentPayload + 4 * (p.length - 3) else e.sentPayload
    sentPeak := if fldN (p.headD 0) 28 4 == 2 then max e.sentPeak (e.peaks.headD 0) else e.sentPeak
    peaks := if fldN (p.headD 0) 28 4 == 2 then e.peaks.tail else e.peaks }

/-- A stream's first waiting packet leaves, with the next number, for the stream's port. -/
theorem leavePacket_of_waiting {e : StreamEntry} {p : List Word} {ps : List (List Word)} {w : List Word}
    (he : (stream s i).entries = [e]) (hw : e.waiting = p :: ps)
    (hp : w = finishPacket p (stream s i).pseq (((assignOf s i).map (·.port)).getD 0)) :
    ∃ out : StreamState → Option FrameId, leavePacket i s = some (w, { updStream s i fun t => { t with
        pseq := t.pseq + 1, entries := sentOnce e p ps w :: t.entries.tail, bastedOut := out t } with
      out := { s.out with packets := s.out.packets ++ [⟨i, w⟩] } }) := by
  have hhead : headWaiting s i = some (e, p, ps) := by
    rw [headWaiting, he]
    dsimp only
    rw [hw]
  subst hp
  refine ⟨fun t => if fldN (p.headD 0) 28 4 == 1 && e.kind == .frame then (if e.basted then some e.id else
    if t.bastedOut == some e.id then none else t.bastedOut) else t.bastedOut, ?_⟩
  rw [leavePacket, hhead]
  rfl

theorem beginPacket_of_waiting {a : PortAssign} {e : StreamEntry} {p : List Word} {ps : List (List Word)} {w : List Word} (hi8 : i < 8)
    (he : (stream s i).entries = [e]) (hw : e.waiting = p :: ps) (hi : i < s.streams.length)
    (hp : w = finishPacket p (stream s i).pseq (((assignOf s i).map (·.port)).getD 0)) :
    ∃ u, beginPacket i a [] s = setRest i (packetSlots u 1 3 a.dest a.port (streamRingB u a) w) u ∧
      (stream u i).pseq = (stream s i).pseq + 1 ∧ u.out.packets = s.out.packets ++ [⟨i, w⟩] ∧
      (stream u i).entries.map (·.waiting) = [ps] ∧ (stream u i).entries.map (·.begun) = [true] ∧ u.ring = s.ring := by
  obtain ⟨out, hleave⟩ := leavePacket_of_waiting he hw hp
  have hstream := stream_updStream (s := s) (fun t => { t with
    pseq := t.pseq + 1, entries := sentOnce e p ps w :: t.entries.tail, bastedOut := out t }) hi
  rw [he] at hstream
  refine ⟨{ updStream s i fun t => { t with
    pseq := t.pseq + 1, entries := sentOnce e p ps w :: t.entries.tail, bastedOut := out t } with
    out := { s.out with packets := s.out.packets ++ [⟨i, w⟩] } }, ?_, congrArg StreamState.pseq hstream, rfl, ?_, ?_, rfl⟩
  · rw [beginPacket, if_pos hi8, if_pos hi8, makeWay_of_one he, readBuffer_of_no_errors, hleave]
  · exact congrArg (fun t : StreamState => t.entries.map (·.waiting)) hstream
  · exact congrArg (fun t : StreamState => t.entries.map (·.begun)) hstream

theorem mayBegin_of_running (i : Nat) (h : s.clock.limp = false) : mayBegin s i = true := by
  rw [mayBegin, h]
  rfl

/-! ### Frames sent -/

theorem frameLeft_entries (e : StreamEntry) (hi : i < s.streams.length) :
    (stream (frameLeft i e s) i).entries = (stream s i).entries := by
  unfold frameLeft
  split
  · rfl
  · rw [stream_updStream _ hi]

/-- A frame sent to its end leaves the stream's buffer. -/
theorem retireHead_spec {e : StreamEntry} {es : List StreamEntry} (he : (stream s i).entries = e :: es) (hc : e.closed = true)
    (hw : e.waiting = []) : (i < s.streams.length → (stream (retireHead i s) i).entries = es) ∧
      (retireHead i s).now = s.now := by
  have hdone : (e.closed && e.waiting.isEmpty) = true := by
    rw [hc, hw]
    rfl
  rw [retireHead, he]
  dsimp only
  rw [if_pos hdone]
  refine ⟨fun hi => ?_, ?_⟩
  · rw [frameLeft_entries e (by rw [length_updStream]; exact hi), stream_updStream _ hi]
  · unfold frameLeft
    split
    · rfl
    · rfl

theorem retireHead_of_empty (h : (stream s i).entries = []) : retireHead i s = s := by rw [retireHead, h]

/-- The end of a freeze leaves the streams and the time. -/
theorem tryRelease_frame (s : State) : (tryRelease s).streams = s.streams ∧ (tryRelease s).now = s.now := by
  unfold tryRelease
  split
  · split
    · exact ⟨rfl, rfl⟩
    next n a b _ =>
      obtain ⟨e, he⟩ := raise_eq 0x010B n a.toNat b.toNat { s with history := { s.history with
        slots := s.history.slots.map fun x => x.map fun h => { h with frozen := false }, frozenSet := none, releaseWait := false } }
      dsimp only
      rw [he]
      exact ⟨rfl, rfl⟩
  · exact ⟨rfl, rfl⟩

theorem doneStopping_entries (hi : i < s.streams.length) : (stream (doneStopping i s) i).entries = (stream s i).entries := by
  unfold doneStopping
  split
  · rw [stream_updStream _ hi]
  · rfl

theorem doneStopping_now (i : Nat) (s : State) : (doneStopping i s).now = s.now := by
  unfold doneStopping
  split
  · rfl
  · rfl

theorem length_retireHead (i : Nat) (s : State) : (retireHead i s).streams.length = s.streams.length := by
  unfold retireHead frameLeft
  split
  · split
    · split
      · exact length_updStream ..
      · exact (length_updStream ..).trans (length_updStream ..)
    · rfl
  · rfl

end

/-- Settles O41. -/
theorem streamEventsCarryFramesOut : Obligations.StreamEventsCarryFramesOut := by
  refine ⟨?_, ?_, ?_, ?_, ?_, ?_, ?_, ?_, ?_, ?_, ?_, ?_, ?_, ?_, ?_, ?_, ?_⟩
  case refine_1 => exact fun t i s h => congrArg Host.Outcome.next (beginRaw_of_reading (s := setNow t s) h)
  case refine_2 =>
    intro t i s id rest k h hen hraw hnone hruns hqueue hslot
    exact congrArg Host.Outcome.next (beginRaw_of_hist (s := setNow t s) hen hraw hnone hruns hqueue hslot)
  case refine_3 =>
    intro t i s _ hrun hraw
    change execStreamFrameArrival t i s = _
    rw [execStreamFrameArrival, offerRun_of_none (s := setNow t s) hrun, offerRaw_of_none (s := setNow t s) hraw, ite_self]
  case refine_4 =>
    intro t i s hi hruns
    refine congrArg Host.Outcome.next (if_neg ?_)
    rw [show pipeRuns (setNow t s) = true from hruns, Bool.not_true, Bool.or_false, decide_eq_true_eq]
    exact Nat.not_le.2 hi
  case refine_5 =>
    intro t i s h
    have hclosed : (decide (8 ≤ i.val) || !pipeRuns (setNow t s)) = true := by
      rw [Bool.or_eq_true, decide_eq_true_eq, Bool.not_eq_true']
      exact h.imp (fun h8 => Nat.le_of_eq h8.symm) id
    exact ⟨congrArg Host.Outcome.next (if_pos hclosed), congrArg Host.Outcome.next (if_pos hclosed)⟩
  case refine_6 =>
    intro i f s hbasted hpolicy hi hempty hfits
    exact arriveFrame_of_fits hbasted hpolicy hi hempty hfits
  case refine_7 =>
    intro t i s r m hi hruns hrun hend hraw
    have hnone : (channel (writeTrailer i.val (setNow t s)) i.val).raw = none := by
      rw [writeTrailer_of_ended (s := setNow t s) hrun hend]
      exact (channel_updChannel_of_kept ChannelState.raw (f := fun c => { c with run := none }) (fun _ => rfl) _ _ _).trans hraw
    refine congrArg Host.Outcome.next ((if_neg ?_).trans ?_)
    · rw [show pipeRuns (setNow t s) = true from hruns, Bool.not_true, Bool.or_false, decide_eq_true_eq]
      exact Nat.not_le.2 hi
    · rw [rawBands_of_none _ hnone, closeRaw_of_none hnone, writeTrailer_of_ended (s := setNow t s) hrun hend]
  case refine_8 =>
    intro t i s _ hrun hraw
    change execStreamTrailerWrite t i s = _
    rw [execStreamTrailerWrite, writeTrailer_of_none (s := setNow t s) hrun, rawBands_of_none (s := setNow t s) _ hraw,
      closeRaw_of_none (s := setNow t s) hraw, ite_self]
  case refine_9 =>
    intro t i ecc s h
    change execStreamPacketDrain ⟨t, ecc⟩ i s = _
    rw [execStreamPacketDrain]
    cases ha : assignOf s i.val with
    | none => rw [show assignOf (setNow t s) i.val = none from ha]
    | some a =>
      rw [show assignOf (setNow t s) i.val = some a from ha]
      refine congrArg Host.Outcome.next (if_pos ?_)
      rw [Bool.or_eq_true, Bool.or_eq_true, Bool.not_eq_true', Bool.not_eq_true']
      rcases h with h | h | ⟨hlimp, hretract⟩
      · exact absurd (ha.symm.trans h) (by rintro ⟨⟩)
      · exact .inl (.inr (Bool.eq_false_iff.2 fun he => h (List.isEmpty_iff.1 he)))
      · refine .inr ?_
        rw [mayBegin, show (setNow t s).clock.limp = true from hlimp]
        exact hretract
  case refine_10 =>
    intro t i ecc s a ha hlive hlimp hphase hrest
    change execStreamPacketDrain ⟨t, ecc⟩ i s = _
    rw [execStreamPacketDrain, show assignOf (setNow t s) i.val = some a from ha]
    have hopen : ¬ (!trunkLive (setNow t s) || (setNow t s).ring.addrPhase != .confirmed || !(restOf (setNow t s) i.val).isEmpty ||
        !mayBegin (setNow t s) i.val) = true := by
      rw [show trunkLive (setNow t s) = true from hlive, show (setNow t s).ring.addrPhase = .confirmed from hphase,
        show restOf (setNow t s) i.val = [] from hrest, mayBegin_of_running (s := setNow t s) i.val hlimp]
      exact Bool.false_ne_true
    refine congrArg Host.Outcome.next ((if_neg hopen).trans ?_)
    rw [show (setNow t s).clock.limp = false from hlimp, if_neg Bool.false_ne_true]
  case refine_11 => exact fun i a s e p ps w hi8 he hw hi hp => beginPacket_of_waiting hi8 he hw hi hp
  case refine_12 =>
    intro i ringB s
    cases ringB with
    | false => rfl
    | true => rfl
  case refine_13 =>
    intro a i s
    rw [leftP2, streamRingB]
    simp only [Bool.and_eq_true]
  case refine_14 =>
    intro t i s h
    change execStreamFrameSent t i s = _
    exact if_neg (by rw [show slotsGone (setNow t s) i.val = false from h]; exact Bool.false_ne_true)
  case refine_15 =>
    intro t i s hgone hempty hstop hwait
    change execStreamFrameSent t i s = _
    refine (if_pos hgone).trans ?_
    have hrelease : tryRelease (setNow t s) = setNow t s := by
      rw [tryRelease, show (setNow t s).history.releaseWait = false from hwait, Bool.false_and, if_neg Bool.false_ne_true]
    have hdone : doneStopping i.val (setNow t s) = setNow t s := by
      rw [doneStopping, show (stream (setNow t s) i.val).stopping = false from hstop, Bool.false_and, if_neg Bool.false_ne_true]
    rw [retireHead_of_empty (s := setNow t s) hempty, hrelease, hdone]
  case refine_16 =>
    intro t i s e es hgone he hc hw
    obtain ⟨hes, hnow⟩ := retireHead_spec (s := setNow t s) he hc hw
    obtain ⟨hstreams, htime⟩ := tryRelease_frame (retireHead i.val (setNow t s))
    refine ⟨doneStopping i.val (tryRelease (retireHead i.val (setNow t s))), if_pos hgone, fun hi => ?_,
      (doneStopping_now ..).trans (htime.trans hnow)⟩
    rw [doneStopping_entries (by rw [hstreams, length_retireHead]; exact hi), stream, hstreams]
    exact hes hi
  case refine_17 =>
    intro s h
    rw [settleDisable, h]

/-! ### KERNEL_LOAD (R237, R239, R249) -/

section
variable {kid : Nat} {f : Kernel → Kernel} {s : State}

/-- What a change of one kernel keeps of every kernel. -/
theorem kernel_updKernel_of_kept {β : Type} (π : Kernel → β) (hf : ∀ k, π (f k) = π k) (i : Nat) :
    π (kernel (updKernel kid f s) i) = π (kernel s i) := by
  have hlist : ∀ (l : List Kernel) (n m : Nat), π ((l.modify n f).getD m {}) = π (l.getD m {}) := by
    intro l n m
    rw [List.getD_eq_getElem?_getD, List.getD_eq_getElem?_getD, List.getElem?_modify]
    by_cases h : n = m
    · simp only [if_pos h]
      cases l[m]? with
      | none => rfl
      | some k => exact hf k
    · simp only [if_neg h]
      cases l[m]? <;> rfl
  unfold updKernel kernel
  by_cases hkid : kid < 16 <;> by_cases hi : i < 16 <;> simp only [hkid, hi, if_true, if_false, hlist]

/-- A change of a kernel depends on what it makes of that kernel alone. -/
theorem updKernel_congr {g : Kernel → Kernel} (hk : kid < 16) (h : f (kernel s kid) = g (kernel s kid)) :
    updKernel kid f s = updKernel kid g s := by
  have hlist : s.engines.user.modify kid f = s.engines.user.modify kid g := by
    refine List.ext_getElem? fun i => ?_
    rw [List.getElem?_modify, List.getElem?_modify]
    rcases hi : s.engines.user[i]? with - | k
    · rfl
    · refine congrArg some ?_
      by_cases hik : kid = i
      · subst hik
        simp only [kernel, if_pos hk, List.getD_eq_getElem?_getD, hi, Option.getD_some] at h
        simpa only [if_true] using h
      · simp only [if_neg hik]
  rw [updKernel, updKernel, if_pos hk, if_pos hk, hlist]

/-- Where an image lies depends only on what is reserved below it. -/
theorem imageBase_updKernel (hf : ∀ k, (f k).reserved = k.reserved) (i : Nat) :
    imageBase (updKernel kid f s) i = imageBase s i := by
  rw [imageBase, imageBase]
  congr 1
  funext a k
  rw [kernel_updKernel_of_kept Kernel.reserved hf]

theorem dramWriteWords_engines (a : Nat) (ws : List Word) : (dramWriteWords s a ws).engines = s.engines := by
  unfold dramWriteWords dramWrite
  split <;> rfl

/-- What a write leaves in memory depends on memory alone. -/
theorem dramWriteWords_dram {u : State} (h : u.dram = s.dram) (a : Nat) (ws : List Word) :
    (dramWriteWords u a ws).dram = (dramWriteWords s a ws).dram := by
  unfold dramWriteWords dramWrite
  split
  · exact h
  · exact congrArg (memSetBytes · a _) h

end

section
variable {c : Cmd} {s : State} {w : Word} {kid : Nat} (hw : w = paramAt c.words 0) (hkid : kid = fldN w 0 8)
include hw hkid

/-- KERNEL_LOAD of the first words: the image is opened, then written. -/
theorem kernelLoadBody_of_first {len : Nat} (hr : reservedOk w 0x800FF = true) (hk : kid ≤ 15) (h0 : paramAt c.words 1 = 0)
    (hdata : 2 ≤ (c.words.drop 2).length) (hlen : len = (paramAt c.words 3).toNat) (hfit : 4 * (c.words.drop 2).length ≤ len)
    (hroom : reservedOther s kid + len ≤ 13 * mib) (hphase : (kernel s kid).phase ≠ .running) (hnr : holdsNr s kid = false) :
    kernelLoadBody c s =
      imageWritten kid 0 (c.words.drop 2) (bitAt w 19) (storeImages (updKernel kid (openImage len) s)) := by
  subst hw hkid
  have hlen' : ((c.words.drop 2).getD 1 0).toNat = len := by
    rw [hlen, paramAt, List.getD_eq_getElem?_getD, List.getD_eq_getElem?_getD, List.getElem?_drop]
  have h0' : (paramAt c.words 1).toNat = 0 := by rw [h0]; rfl
  simp only [kernelLoadBody, h0', beq_self_eq_true, if_true, hlen', hr, hnr, Bool.not_true,
    Bool.or_false, Bool.false_and, Bool.true_and, Nat.zero_mod, Nat.zero_add, ne_eq, not_true_eq_false, decide_false,
    beq_iff_eq, hphase, Nat.not_lt.2 hk, Nat.not_lt.2 hdata, Nat.not_lt.2 hfit,
    Nat.not_lt.2 hroom, if_false, Bool.false_eq_true]

section
variable {off : Nat} (hr : reservedOk w 0x800FF = true) (hk : kid ≤ 15) (hoff : off = (paramAt c.words 1).toNat)
  (h0 : off ≠ 0) (halign : off % 4 = 0) (hres : (kernel s kid).reserved ≠ 0) (hcommitted : (kernel s kid).committed = false)
include hr hk hoff h0 halign hres hcommitted

/-- KERNEL_LOAD of further words of an open image. -/
theorem kernelLoadBody_of_later : kernelLoadBody c s =
    if (kernel s kid).reserved < off + 4 * (c.words.drop 2).length then cmdBad s 1
    else if (kernel s kid).phase = .running ∨ holdsNr s kid = true then cmdRefuse s .wrongState
    else imageWritten kid off (c.words.drop 2) (bitAt w 19) s := by
  subst hw hkid hoff
  simp only [kernelLoadBody, beq_eq_false_iff_ne.2 h0, if_false, hr, hcommitted, halign, hres, Bool.not_true,
    Bool.or_false, Bool.false_and, Bool.true_and, Bool.not_false, ne_eq, not_true_eq_false, decide_false,
    Bool.or_eq_true, decide_eq_true_eq, beq_iff_eq, Nat.not_lt.2 hk, Bool.false_eq_true]

end

theorem kernelLoadBody_of_bad (h : 15 < kid) : kernelLoadBody c s = cmdBad s 0 := by
  subst hw hkid
  simp only [kernelLoadBody, h, decide_true, Bool.or_true, if_true]

end

theorem imageWritten_spec (kid off : Nat) (data : List Word) (s : State) : ∃ u,
    imageWritten kid off data false s = cmdOk u [0xFFFFFFFF] ∧ imageWritten kid off data true s = commitImage kid u ∧
    u.engines = (updKernel kid (fun k => { k with image := smSetMany 0 k.image (off / 4) data }) s).engines ∧
    u.dram = (dramWriteWords s (imageBase s kid + off) data).dram := by
  unfold imageWritten
  refine ⟨_, if_neg Bool.false_ne_true, if_pos rfl, dramWriteWords_engines .., ?_⟩
  have hbase := imageBase_updKernel (kid := kid) (f := fun k => { k with image := smSetMany 0 k.image (off / 4) data }) (s := s)
    (fun _ => rfl) kid
  rw [hbase]
  exact dramWriteWords_dram (updKernel_dram ..) _ _

/-! ### The check of an image (R239) -/

theorem commitImage_held (kid : Nat) (s : State) : (commitImage kid s).held = false := by
  unfold commitImage
  extract_lets k fail
  repeat' split
  all_goals rfl

theorem imageWritten_held (kid off : Nat) (data : List Word) (commit : Bool) (s : State) :
    (imageWritten kid off data commit s).held = false := by
  unfold imageWritten
  extract_lets +onlyGivenNames s1 s2
  split
  · exact commitImage_held ..
  · rfl

section
variable {kid : Nat} {s : State} (hh : headerOk (kernel s kid) = true)
include hh

theorem commitImage_of_good (hc : imageCrcOk (kernel s kid) = true) (hi : firstIllegal (kernel s kid) = none) :
    commitImage kid s = cmdOk (updKernel kid (fun k => { k with phase := .loaded, committed := true }) s) [0xFFFFFFFF] := by
  simp only [commitImage, hh, hc, hi, Bool.not_true, Bool.false_eq_true, if_false]

theorem commitImage_of_crc (hc : imageCrcOk (kernel s kid) = false) : commitImage kid s =
    { state := storeImages (updKernel kid (fun _ => {}) s), status := .badCrc, results := [0xFFFFFFFF], keeps := true } := by
  simp only [commitImage, hh, hc, Bool.not_true, Bool.not_false, Bool.false_eq_true, if_false, if_true]

theorem commitImage_of_illegal {i : Nat} (hc : imageCrcOk (kernel s kid) = true) (hi : firstIllegal (kernel s kid) = some i) :
    commitImage kid s =
      { state := storeImages (updKernel kid (fun _ => {}) s), status := .badParam, results := [wordOf i], keeps := true } := by
  simp only [commitImage, hh, hc, hi, Bool.not_true, Bool.false_eq_true, if_false]

end

/-- The first illegal word of an image is illegal, and every word before it is legal. -/
theorem firstIllegal_spec {k : Kernel} {i : Nat} (h : firstIllegal k = some i) :
    ((bytesWords (imgSection k 0))[i]?.map legalWord) = some false ∧
      ∀ j < i, ((bytesWords (imgSection k 0))[j]?.map legalWord) = some true := by
  unfold firstIllegal at h
  obtain ⟨before, x, after, hl, hx, hbefore⟩ := List.findSome?_eq_some_iff.1 h
  generalize bytesWords (imgSection k 0) = ws at hl ⊢
  have hat : ∀ j : Nat, ws[j]?.map (fun w => (w, j)) = (before ++ x :: after)[j]? := by
    intro j
    rw [← hl, List.getElem?_zipIdx, Nat.zero_add]
  have hi : i = before.length := by
    have hlast := hat before.length
    rw [List.getElem?_append_right (Nat.le_refl _), Nat.sub_self, List.getElem?_cons_zero] at hlast
    obtain ⟨w, -, hw⟩ := Option.map_eq_some_iff.1 hlast
    by_cases hleg : legalWord x.1 = true
    · simp [hleg] at hx
    · rw [if_neg hleg, Option.some.injEq] at hx
      rw [← hx, ← hw]
  subst hi
  constructor
  · have hlast := hat before.length
    rw [List.getElem?_append_right (Nat.le_refl _), Nat.sub_self, List.getElem?_cons_zero] at hlast
    obtain ⟨w, hw, hwx⟩ := Option.map_eq_some_iff.1 hlast
    rw [hw, Option.map_some, Option.some.injEq]
    by_cases hleg : legalWord x.1 = true
    · simp [hleg] at hx
    · rw [← hwx] at hleg
      exact Bool.eq_false_iff.2 hleg
  · intro j hj
    have hj' := hat j
    rw [List.getElem?_append_left hj, List.getElem?_eq_getElem hj] at hj'
    obtain ⟨w, hw, hwx⟩ := Option.map_eq_some_iff.1 hj'
    have hnone := hbefore _ (List.getElem_mem hj)
    rw [← hwx] at hnone
    rw [hw, Option.map_some, Option.some.injEq]
    by_cases hleg : legalWord w = true
    · exact hleg
    · simp [hleg] at hnone

/-! ### BOBBIN_ALLOC, KERNEL_START and KERNEL_STOP (R243–R246) -/

section
variable {c : Cmd} {s : State} {w : Word} {kid : Nat} (hw : w = paramAt c.words 0) (hkid : kid = fldN w 0 8)
include hw hkid

theorem bobbinAllocBody_of_free (hr : reservedOk w 0xFF9FF7FF = true) (hk : kid ≤ 15) (hfree : bitAt w 23 = true) :
    bobbinAllocBody c s =
      if (kernel s kid).phase = .empty ∨ (kernel s kid).phase = .running then cmdRefuse s .wrongState
      else cmdOk (updKernel kid freed s) := by
  subst hw hkid
  simp only [bobbinAllocBody, hr, hfree, Bool.not_true, Bool.false_or, Bool.false_and, Bool.false_eq_true, if_false, if_true,
    Nat.not_lt.2 hk, decide_false, Bool.or_eq_true, beq_iff_eq]

theorem bobbinAllocBody_of_fit {r m : Nat} (hr : reservedOk w 0xFF9FF7FF = true) (hk : kid ≤ 15) (hfree : bitAt w 23 = false)
    (hz : fld w 24 8 = 0) (hcount : fldN w 16 5 ≠ 0) (hrange : fldN w 12 4 + fldN w 16 5 ≤ 16)
    (hempty : (kernel s kid).phase ≠ .empty) (hrun : (kernel s kid).phase ≠ .running)
    (hmin : imgMinBobbins (kernel s kid) ≤ (namedBobbins w).length) (hmax : (namedBobbins w).length ≤ imgMaxBobbins (kernel s kid))
    (hregion : placeRegion s kid (imgPillowKib (kernel s kid)) ((namedBobbins w).map (· / 16)).eraseDups = some r)
    (hspill : placeSpill s kid (imgSpillMib (kernel s kid)) = some m) (hbusy : allocBusy s kid (namedBobbins w) = false) :
    bobbinAllocBody c s = cmdOk (updKernel kid (fun k => { k with
      bobbins := namedBobbins w
      region := r
      spillBase := partBase .spill + m * mib
      spill := imgSpillMib (kernel s kid) }) s) := by
  subst hw hkid
  have hfld : fld (paramAt c.words 0) 16 5 ≠ 0 := fun h => hcount (by rw [fldN, h]; rfl)
  simp only [bobbinAllocBody, hr, hfree, hz, hregion, hspill, hbusy, Option.bind_some, Option.map_some, Option.isNone_some,
    Option.getD_some, Bool.not_true, Bool.not_false, Bool.true_and, Bool.false_eq_true,
    if_false, Nat.not_lt.2 hk, Nat.not_lt.2 hmin, Nat.not_lt.2 hmax, Nat.not_lt.2 hrange, decide_false, Bool.or_self,
    Bool.and_false, beq_self_eq_true, beq_eq_false_iff_ne.2 hfld, beq_eq_false_iff_ne.2 hempty, beq_eq_false_iff_ne.2 hrun,
    show (true == false) = false from rfl]
  exact congrArg (cmdOk · []) (updKernel_congr (Nat.lt_succ_of_le hk) rfl)

theorem kernelStartBody_of_ready {ch : Nat} (hch : ch = fldN w 8 3) (hr : reservedOk w 0x7FF = true) (hk : kid ≤ 15)
    (hbobbins : (kernel s kid).bobbins ≠ []) (hempty : (kernel s kid).phase ≠ .empty)
    (hrun : (kernel s kid).phase ≠ .running) (htap : imgSlot (kernel s kid) ≠ 1)
    (hstream : imgSlot (kernel s kid) = 2 → (stream s ch).enabled = false) (hhold : s.power.hold = false) :
    kernelStartBody c s = if imgSlot (kernel s kid) = 2 ∧ channelKernel s ch ≠ none then cmdRefuse s .busy
      else startAnswer s kid ch := by
  subst hw hkid hch
  have hwrong : (imgSlot (kernel s (fldN (paramAt c.words 0) 0 8)) == 2 &&
      (stream s (fldN (paramAt c.words 0) 8 3)).enabled) = false := by
    rw [Bool.and_eq_false_iff]
    exact (Decidable.em _).symm.imp beq_eq_false_iff_ne.2 hstream
  simp only [kernelStartBody, hr, hwrong, hhold, Bool.not_true, Bool.or_false, Nat.not_lt.2 hk, decide_false,
    Bool.false_eq_true, if_false, beq_eq_false_iff_ne.2 hempty, beq_eq_false_iff_ne.2 hrun, beq_eq_false_iff_ne.2 htap,
    List.isEmpty_eq_false_iff.2 hbobbins, Bool.and_eq_true, beq_iff_eq, Option.isSome_iff_ne_none]

theorem kernelStartBody_of_wrong {ch : Nat} (hch : ch = fldN w 8 3) (hr : reservedOk w 0x7FF = true) (hk : kid ≤ 15)
    (h : (kernel s kid).bobbins = [] ∨ (kernel s kid).phase = .running ∨ imgSlot (kernel s kid) = 1 ∨
      (imgSlot (kernel s kid) = 2 ∧ (stream s ch).enabled = true) ∨ s.power.hold = true) :
    kernelStartBody c s = cmdRefuse s .wrongState := by
  subst hw hkid hch
  unfold kernelStartBody
  extract_lets w kid ch k
  have hgood : ¬ (!reservedOk w 0x7FF || 15 < kid) = true := by
    simp only [show reservedOk w 0x7FF = true from hr, show ¬ 15 < kid from Nat.not_lt.2 hk, Bool.not_true, decide_false,
      Bool.or_self, Bool.false_eq_true, not_false_iff]
  rw [if_neg hgood]
  refine if_pos ?_
  simp only [Bool.or_eq_true, Bool.and_eq_true, beq_iff_eq, List.isEmpty_iff]
  rcases h with h | h | h | h | h
  · exact .inl (.inl (.inl (.inl (.inl h))))
  · exact .inl (.inl (.inl (.inr h)))
  · exact .inl (.inl (.inr h))
  · exact .inl (.inr h)
  · exact .inr h

omit hw hkid in
theorem startAnswer_held (s : State) (kid ch : Nat) : (startAnswer s kid ch).held = false := by
  unfold startAnswer
  split <;> rfl

theorem kernelStopBody_of_kid (hr : reservedOk w 0xFF = true) (hk : kid ≤ 15) : kernelStopBody c s =
    if (kernel s kid).phase ≠ .running ∨ imgSlot (kernel s kid) = 1 ∨
      (imgSlot (kernel s kid) = 2 ∧ (stream s (kernel s kid).channel).enabled = true) then cmdRefuse s .wrongState
    else cmdOk (pump (endKernel kid .stopped (finishKernel kid s))) := by
  subst hw hkid
  simp only [kernelStopBody, hr, Bool.not_true, Bool.false_or, Nat.not_lt.2 hk, decide_false, Bool.false_eq_true, if_false,
    Bool.or_eq_true, Bool.and_eq_true, beq_iff_eq, bne_iff_ne, or_assoc]

end

/-! ### Bobbins and kernels that start (R240, R245) -/

theorem startedBobbin_spec (k : Kernel) (kid rank : Nat) (b : Bobbin) :
    (startedBobbin k kid rank b).running = true ∧ (startedBobbin k kid rank b).pc = imgEntry k ∧
      (startedBobbin k kid rank b).kid = kid ∧ (startedBobbin k kid rank b).s.length = 16 ∧
      (startedBobbin k kid rank b).s.getD 14 0 = wordOf k.bobbins.length ∧
      (startedBobbin k kid rank b).s.getD 15 0 = wordOf rank ∧ (startedBobbin k kid rank b).p.getD 0 0 = 0xFFFF ∧
      ∀ r < 32, (startedBobbin k kid rank b).v.getD r [] = zeroVec := by
  refine ⟨rfl, rfl, rfl, rfl, rfl, rfl, rfl, fun r hr => ?_⟩
  rw [List.getD_eq_getElem?_getD, show (startedBobbin k kid rank b).v = List.replicate 32 zeroVec from rfl,
    List.getElem?_replicate, if_pos hr, Option.getD_some]

/-- A state with the engines, the budget and the event log of another: what a started kernel leaves is seen through it. -/
def withEnginesOf (s u : State) : State := { u with engines := s.engines, power := s.power, events := s.events }

theorem withEnginesOf_arbitrate (s u : State) : withEnginesOf s (arbitrate u) = withEnginesOf s u := by
  obtain ⟨g, l, n, e, h⟩ := arbitrate_eq u
  rw [h]
  rfl

theorem withEnginesOf_updKernel (s : State) (kid : Nat) (f : Kernel → Kernel) (u : State) :
    withEnginesOf s (updKernel kid f u) = withEnginesOf s u := by
  have h : ∀ e, withEnginesOf s { u with engines := e } = withEnginesOf s u := fun _ => rfl
  unfold updKernel
  split
  · exact h _
  · exact h _

theorem runKernel_spec {kid : Nat} (ch : Nat) {s : State} (hk : kid < 16) (hlen : s.engines.user.length = 16) :
    (kernel (runKernel kid ch s) kid).phase = .running ∧ (kernel (runKernel kid ch s) kid).bobbins = (kernel s kid).bobbins ∧
      { runKernel kid ch s with engines := s.engines, power := s.power, events := s.events } = s := by
  unfold runKernel
  extract_lets +onlyGivenNames k s1 pm s2
  have huser : s2.engines.user = s.engines.user := by
    have h1 : s1.engines.user = s.engines.user := by
      refine view_foldl (π := fun u : State => u.engines.user) ?_ _ s
      exact fun _ _ => rfl
    have h2 : s2.engines.user = s1.engines.user := by
      refine view_foldl (π := fun u : State => u.engines.user) ?_ _ s1
      exact fun _ _ => rfl
    exact h2.trans h1
  have hframe : withEnginesOf s s2 = s := by
    have h1 : withEnginesOf s s1 = withEnginesOf s s := by
      refine view_foldl (π := withEnginesOf s) ?_ _ s
      exact fun _ _ => rfl
    have h2 : withEnginesOf s s2 = withEnginesOf s s1 := by
      refine view_foldl (π := withEnginesOf s) ?_ _ s1
      exact fun _ _ => rfl
    exact h2.trans h1
  clear_value s2
  have hbobbins : (kernel s2 kid).bobbins = (kernel s kid).bobbins := by rw [kernel, kernel, if_pos hk, if_pos hk, huser]
  rw [kernel_of_sameKernels (sameKernels_arbitrate _) hk, kernel_updKernel hk (by rw [huser, hlen]; exact hk)]
  refine ⟨rfl, hbobbins, ?_⟩
  have h := withEnginesOf_arbitrate s (updKernel kid (fun k => { k with
    phase := .running, channel := ch, fault := 0, faultBobbin := 0, faultPc := 0, final := false, versions := 0
    tapAbandoned := 0, stallUs := 0, resultSeq := 0, result := [], lastResult := none }) s2)
  rw [withEnginesOf_updKernel, hframe] at h
  exact h

/-! ### KERNEL_STATUS (R254) -/

theorem kernelStateCode_le (s : State) (kid : Nat) : kernelStateCode s kid ≤ 4 := by
  unfold kernelStateCode
  repeat' split
  all_goals decide

theorem kernelStateCode_iff {s : State} {kid : Nat} (hk : kid < 16) :
    (kernelStateCode s kid = 0 ↔ (kernel s kid).phase = .empty) ∧
    (kernelStateCode s kid = 1 ↔ (kernel s kid).phase = .loaded) ∧
    (kernelStateCode s kid = 2 ↔ (kernel s kid).phase = .stopped) ∧
    (kernelStateCode s kid = 3 ↔ (kernel s kid).phase = .running) ∧
    (kernelStateCode s kid = 4 ↔ (kernel s kid).phase = .faulted) := by
  unfold kernelStateCode
  cases (kernel s kid).phase <;> simp [hk]

theorem getD_append_map_range {n i : Nat} (f : Nat → Word) (head : List Word) (h : i < n) :
    (head ++ (List.range n).map f).getD (head.length + i) 0 = f i := by
  rw [List.getD_eq_getElem?_getD, List.getElem?_append_right (Nat.le_add_right ..), Nat.add_sub_cancel_left, List.getElem?_map,
    List.getElem?_range h]
  rfl

/-- The first word of a kernel's status. -/
theorem kernelStatusWord_fields (fault faultBobbin : Byte) {code : Nat} (hcode : code ≤ 4) :
    fldN (mkWord [(fault.toNat, 16), (faultBobbin.toNat, 8), (code, 0)]) 0 8 = code ∧
    fld (mkWord [(fault.toNat, 16), (faultBobbin.toNat, 8), (code, 0)]) 16 8 = fault ∧
    fld (mkWord [(fault.toNat, 16), (faultBobbin.toNat, 8), (code, 0)]) 8 8 = faultBobbin := by
  have hf := fault.isLt
  have hb := faultBobbin.isLt
  have hw : (mkWord [(fault.toNat, 16), (faultBobbin.toNat, 8), (code, 0)]).toNat =
      fault.toNat * 65536 + faultBobbin.toNat * 256 + code := by
    rw [toNat_mkWord]
    simp only [List.foldl_cons, List.foldl_nil]
    omega
  refine ⟨?_, BitVec.eq_of_toNat_eq ?_, BitVec.eq_of_toNat_eq ?_⟩
  · rw [fldN, toNat_fld, hw]
    omega
  · rw [toNat_fld, hw]
    omega
  · rw [toNat_fld, hw]
    omega

/-- The second word of a kernel's status. -/
theorem kernelCountsWord_fields (pc : BitVec 12) {sat : Nat} (hsat : sat ≤ 15) :
    fld (mkWord [(sat, 12), (pc.toNat, 0)]) 0 12 = pc ∧ fldN (mkWord [(sat, 12), (pc.toNat, 0)]) 12 4 = sat := by
  have hpc := pc.isLt
  have hw : (mkWord [(sat, 12), (pc.toNat, 0)]).toNat = sat * 4096 + pc.toNat := by
    rw [toNat_mkWord]
    simp only [List.foldl_cons, List.foldl_nil]
    omega
  constructor
  · refine BitVec.eq_of_toNat_eq ?_
    rw [toNat_fld, hw]
    omega
  · rw [fldN, toNat_fld, hw]
    omega

section
variable {c : Cmd} {s : State} {w : Word} {kid : Nat} (hw : w = paramAt c.words 0) (hkid : kid = fldN w 0 8)
include hw hkid

theorem kernelStatusBody_of_kid (hr : reservedOk w 0xFF = true) (hk : kid ≤ 15 ∨ (0x80 ≤ kid ∧ kid ≤ 0x83)) :
    ∃ ws, kernelStatusBody c s = cmdOk s ws ∧ ws.length = 71 ∧
      fldN (ws.getD 0 0) 0 8 = kernelStateCode s kid ∧ fld (ws.getD 0 0) 16 8 = (kernel s kid).fault ∧
      fld (ws.getD 0 0) 8 8 = (kernel s kid).faultBobbin ∧ fld (ws.getD 1 0) 0 12 = (kernel s kid).faultPc ∧
      fldN (ws.getD 1 0) 12 4 = min 15 ((kernel s kid).bobbins.filter fun b => (bobbin s b).accSat).length ∧
      ws.getD 2 0 = (kernel s kid).versions ∧ ws.getD 3 0 = (kernel s kid).tapAbandoned ∧
      ws.getD 4 0 = (kernel s kid).stallUs ∧ ws.getD 6 0 = (kernel s kid).resultSeq ∧
      ws.getD 5 0 = (if kid < 16 then imgTag (kernel s kid) else vendorVersion s (kid - 0x80)) ∧
      ∀ i < 64, ws.getD (7 + i) 0 = (kernel s kid).result.getD i 0 := by
  subst hw hkid
  unfold kernelStatusBody
  extract_lets w kid k sat
  have hgood : ¬ (!reservedOk w 0xFF || (15 < kid && (kid < 0x80 || 0x83 < kid))) = true := by
    rw [show reservedOk w 0xFF = true from hr, Bool.not_true, Bool.false_or, Bool.and_eq_true, Bool.or_eq_true,
      decide_eq_true_eq, decide_eq_true_eq, decide_eq_true_eq]
    replace hk : kid ≤ 15 ∨ (0x80 ≤ kid ∧ kid ≤ 0x83) := hk
    omega
  obtain ⟨hcode, hfault, hbobbin⟩ := kernelStatusWord_fields k.fault k.faultBobbin (kernelStateCode_le s kid)
  obtain ⟨hpc, hsat⟩ := kernelCountsWord_fields k.faultPc (Nat.min_le_left 15 sat)
  refine ⟨_, if_neg hgood, rfl, hcode, hfault, hbobbin, hpc, hsat, rfl, rfl, rfl, rfl, rfl, fun i hi => ?_⟩
  exact getD_append_map_range (fun i => k.result.getD i 0) _ hi

end

/-! ### Hangs and grant periods (R255, R256) -/

theorem hangs_iff (s : State) (kid b : Nat) : hangs s kid b = true ↔
    (bobbin s b).running = true ∧ b ∈ (kernel s kid).bobbins ∧
      ((((∃ x, (bobbin s b).wait = some (.barrier x)) ∨ ∃ x, (bobbin s b).wait = some (.semaphore x)) ∧
          imgTimeoutMs (kernel s kid) * 16000000 < grantedIn s (bobbin s b).waitSpan) ∨
        ((imgSlot (kernel s kid) = 1 ∨ imgSlot (kernel s kid) = 2) ∧ ((bobbin s b).in0 ≠ [] ∨ (bobbin s b).in1 ≠ []) ∧
          imgTimeoutMs (kernel s kid) * 16000000 < grantedIn s (bobbin s b).idleSpan)) := by
  unfold hangs
  extract_lets x k long
  simp only [Bool.and_eq_true, Bool.or_eq_true, List.contains_iff_mem, beq_iff_eq, Bool.not_eq_true', List.isEmpty_eq_false_iff,
    and_assoc]
  refine and_congr_right fun _ => and_congr_right fun _ => or_congr ?_ ?_
  · rw [show bobbin s b = x from rfl]
    generalize x.wait = w
    rcases w with - | w
    · simp
    · cases w <;> simp [long, k]
  · simp [long, k, x]

section
variable {t : Instant} {kid : Byte} {b : Fin 128} {s : State}

theorem exec_kernelHangTimeout_user (hk : kid.toNat < 16) : exec (.kernelHangTimeout t kid b) s =
    .next (if kernelRuns (setNow t s) kid.toNat && blockRuns .bobbin (setNow t s) && hangs (setNow t s) kid.toNat b.val then
      bobbinFault b.val 10 (setNow t s) else setNow t s) :=
  congrArg Host.Outcome.next (if_pos hk)

theorem exec_kernelHangTimeout_vendor {v : Nat} (hk : kid.toNat = 0x80 + v) (hv : v ≤ 3) (hp : b.val / 16 ∈ vendorPillows v)
    (hheld : vendorHeld s v = true) (hfault : vendorFaulted s v = false) (hrun : blockRuns .bobbin s = true) :
    ∃ pc < 4096, exec (.kernelHangTimeout t kid b) s =
      .next (faultKernel kid.toNat 10 b.val pc { setNow t s with free := s.free + 1 }) := by
  change ∃ pc < 4096, execKernelHangTimeout t kid b s = _
  have hsub : kid.toNat - 0x80 = v := by omega
  have hcond : (decide (0x80 ≤ kid.toNat) && decide (kid.toNat ≤ 0x83) && (vendorPillows v).contains (b.val / 16) &&
      vendorHeld (setNow t s) v && blockRuns .bobbin (setNow t s) && !vendorFaulted (setNow t s) v) = true := by
    rw [show vendorHeld (setNow t s) v = true from hheld, show blockRuns .bobbin (setNow t s) = true from hrun,
      show vendorFaulted (setNow t s) v = false from hfault]
    simp only [Bool.and_eq_true, decide_eq_true_eq, List.contains_iff_mem, Bool.not_false, and_true]
    exact ⟨⟨by omega, by omega⟩, hp⟩
  unfold execKernelHangTimeout
  extract_lets s1 n
  refine ⟨fldN (takeFree s1).1 0 12, (fld _ 0 12).isLt, congrArg Host.Outcome.next ?_⟩
  rw [if_neg (show ¬ n < 16 by rw [show n = 0x80 + v from hk]; omega), show n - 0x80 = v from hsub, if_pos hcond]
  rfl

end

/-- What one grant period adds to the account of a user kernel. -/
theorem exec_grantPeriod_spec (t : Instant) (s : State) : ∃ u, exec (.grantPeriod t) s = .next (arbitrate u) ∧
    { u with engines := s.engines } = setNow t s ∧
    { u.engines with user := s.engines.user, vendor := s.engines.vendor, bobbins := s.engines.bobbins } = s.engines ∧
    (∀ b, u.engines.bobbins[b]? = s.engines.bobbins[b]?.map fun x =>
      if grantedAt s (b / 16) = true then x else passUngranted 160000 x) ∧
    (∀ v, u.engines.vendor[v]? = s.engines.vendor[v]?.map fun k =>
      if ∃ p ∈ vendorPillows v, vendorHolds s.exposure.cfg s.front.cfg p = true ∧ grantedAt s p = false
        then { k with stallUs := k.stallUs + 10 } else k) ∧
    u.engines.user = s.engines.user.map fun k =>
      if k.phase = .running ∧ ∃ p ∈ kernelPillows k, grantedAt s p = false then { k with stallUs := k.stallUs + 10 } else k := by
  change ∃ u, execGrantPeriod t s = _ ∧ _
  unfold execGrantPeriod
  extract_lets +onlyGivenNames s1 user vendor bobbins
  refine ⟨_, rfl, rfl, rfl, fun b => ?_, fun v => ?_, ?_⟩
  · change (s.engines.bobbins.zipIdx.map _)[b]? = _
    rw [List.getElem?_map, List.getElem?_zipIdx, Option.map_map, Nat.zero_add]
    rfl
  · change (s.engines.vendor.zipIdx.map _)[v]? = _
    rw [List.getElem?_map, List.getElem?_zipIdx, Option.map_map, Nat.zero_add]
    congr 1
    funext k
    refine if_congr ?_ rfl rfl
    simp only [List.any_eq_true, Bool.and_eq_true, Bool.not_eq_true']
    rfl
  · refine List.map_congr_left fun k _ => if_congr ?_ rfl rfl
    simp only [List.any_eq_true, Bool.and_eq_true, Bool.not_eq_true', beq_iff_eq]
    rfl

/-! ### The order of withholding (R369) -/

section
variable {s : State} {c : AccountCase}

theorem getD_set_false {g : List Bool} {p q : Nat} (h : g.getD q true = false) : (g.set p false).getD q true = false := by
  rw [List.getD_eq_getElem?_getD, List.getElem?_set]
  split
  · next hpq =>
    split
    · rfl
    · next hlen =>
      rw [List.getD_eq_getElem?_getD, List.getElem?_eq_none (hpq ▸ Nat.not_lt.1 hlen)] at h
      exact h
  · rwa [← List.getD_eq_getElem?_getD]

theorem getD_set_of_ne {g : List Bool} {p q : Nat} (x : Bool) (h : p ≠ q) : (g.set p x).getD q true = g.getD q true := by
  rw [List.getD_eq_getElem?_getD, List.getElem?_set_ne h, ← List.getD_eq_getElem?_getD]

/-- Withholding takes grants and gives none. -/
theorem withhold_of_withheld (ps : List Nat) {g : List Bool} {q : Nat} (h : g.getD q true = false) :
    (withhold s c ps g).getD q true = false := by
  induction ps generalizing g with
  | nil => exact h
  | cons p ps ih =>
    rw [withhold]
    split
    · exact h
    · split
      · exact ih (getD_set_false h)
      · exact ih h

theorem runsUnder_withhold (ps : List Nat) {g : List Bool} {q : Nat} (h : runsUnder s g q = false) :
    runsUnder s (withhold s c ps g) q = false := by
  rw [runsUnder, Bool.and_eq_false_iff] at h ⊢
  exact h.imp_left (withhold_of_withheld ps)

/-- A pillow that comes later in the order loses its grant only after every earlier one with a share has. -/
theorem withhold_in_order {v p : Nat} (ps qs : List Nat) {g : List Bool} (hv : v ∉ ps) (hg : g.getD v true = true)
    (hlost : (withhold s c (ps ++ qs) g).getD v true = false) (hp : p ∈ ps) (hmw : 0 < pillowMw s c p) (hlen : p < g.length) :
    runsUnder s (withhold s c (ps ++ qs) g) p = false := by
  induction ps generalizing g with
  | nil => exact absurd hp List.not_mem_nil
  | cons x ps ih =>
    obtain ⟨hvx, hvps⟩ := not_or.1 (mt List.mem_cons.2 hv)
    rw [List.cons_append, withhold] at hlost ⊢
    by_cases hfit : fits s c (runsUnder s g) 0 = true
    · rw [if_pos hfit, hg] at hlost
      exact absurd hlost.symm Bool.false_ne_true
    rw [if_neg hfit] at hlost ⊢
    by_cases htake : (runsUnder s g x && decide (pillowMw s c x > 0)) = true
    · rw [if_pos htake] at hlost ⊢
      rcases List.mem_cons.1 hp with rfl | hp
      · refine runsUnder_withhold _ ?_
        rw [runsUnder, List.getD_eq_getElem?_getD, List.getElem?_set_self hlen]
        rfl
      · exact ih hvps ((getD_set_of_ne false (Ne.symm hvx)).trans hg) hlost hp (by rwa [List.length_set])
    · rw [if_neg htake] at hlost ⊢
      rcases List.mem_cons.1 hp with rfl | hp
      · refine runsUnder_withhold _ (Bool.eq_false_iff.2 fun hr => htake ?_)
        rw [hr, Bool.true_and]
        exact decide_eq_true hmw
      · exact ih hvps hg hlost hp hlen

/-- Restoring gives grants and takes none. -/
theorem restore_of_granted (ps : List Nat) {g : List Bool} {q : Nat} (h : g.getD q true = true) :
    (restore s c ps g).getD q true = true := by
  induction ps generalizing g with
  | nil => exact h
  | cons p ps ih =>
    rw [restore]
    split
    · exact ih h
    · split
      · refine ih ?_
        by_cases hpq : p = q
        · rw [hpq, List.getD_eq_getElem?_getD, List.getElem?_set]
          split
          · split <;> rfl
          · next hne => exact absurd rfl hne
        · rw [getD_set_of_ne true hpq, h]
      · exact h

theorem powerLimit_granted (a0 a1 : Nat) (s : State) : (powerLimit a0 a1 s).power.granted = s.power.granted := by
  unfold powerLimit
  split
  · rfl
  · rw [raise_power]

/-- The grants the arbiter leaves. -/
theorem arbitrate_granted (s : State) : (arbitrate s).power.granted =
    if withhold s (caseNow s) (withholdOrder s) s.power.granted = s.power.granted
      then restore s (caseNow s) (withholdOrder s).reverse s.power.granted
      else withhold s (caseNow s) (withholdOrder s) s.power.granted := by
  unfold arbitrate
  extract_lets +onlyGivenNames c g0 before g1 g2 x s1 s2 rest none s3
  have h2 : s2.power.granted = g2 := view_ite (π := fun u : State => u.power.granted) (powerLimit_granted 0 before s1) rfl
  clear_value s2
  have h3 : s3.power.granted = g2 :=
    (view_ite (π := fun u : State => u.power.granted) (powerLimit_granted 1 rest s2) rfl).trans h2
  clear_value s3
  split
  · exact h3
  · exact h3

theorem arbitrate_in_order {v p : Nat} (hlen : s.power.granted.length = 8) (hp : p < 8) (hvendor : userPillow s v = false)
    (hg : s.power.granted.getD v true = true) (hlost : (arbitrate s).power.granted.getD v true = false)
    (huser : userPillow s p = true) (hmw : 0 < pillowMw s (caseNow s) p) :
    runsUnder s (arbitrate s).power.granted p = false := by
  rw [arbitrate_granted] at hlost ⊢
  by_cases hsame : withhold s (caseNow s) (withholdOrder s) s.power.granted = s.power.granted
  · rw [if_pos hsame, restore_of_granted _ hg] at hlost
    exact absurd hlost.symm Bool.false_ne_true
  · rw [if_neg hsame] at hlost ⊢
    have hmem : ∀ q, q < 8 → q ∈ (List.range 8).reverse := fun q hq => List.mem_reverse.2 (List.mem_range.2 hq)
    refine withhold_in_order _ _ ?_ hg hlost (List.mem_filter.2 ⟨hmem p hp, huser⟩) hmw (by rwa [hlen])
    exact fun h => Bool.false_ne_true (hvendor.symm.trans (List.mem_filter.1 h).2)

end

theorem arbitrate_frame (s : State) : { arbitrate s with power := s.power, events := s.events } = s := by
  obtain ⟨g, l, n, e, h⟩ := arbitrate_eq s
  rw [h]

/-- Settles O42. -/
theorem kernelCommandsLoadAndRunKernels : Obligations.KernelCommandsLoadAndRunKernels := by
  refine ⟨?first, ?later, imageWritten_spec, ?laterBad, ?loadBad, fun kid s hh hc hi => commitImage_of_good hh hc hi, ?crc, ?illegal,
    ?alloc, ?free, ?freeWrong, ?start, ?answer, ?startWrong, startedBobbin_spec, fun kid ch s hk hl => runKernel_spec ch hk hl,
    ?stop, ?stopWrong, ?status, fun kid s hk => kernelStateCode_iff hk, ?hang, ?noHang, fun kid b s => hangs_iff s kid b,
    fun t kid b s v hk hv hp hh hr hf => exec_kernelHangTimeout_vendor hk hv hp hh hr hf, exec_grantPeriod_spec,
    fun s v p hl _ hp hvn hg hlost hu hm => arbitrate_in_order hl hp hvn hg hlost hu hm, arbitrate_frame⟩
  case first =>
    intro t s p s1 kid len u h hkid hr hk h0 hdata hlen hfit hroom hph hnr hu
    have hbody : kernelLoadBody (cmdOf p) s1 = imageWritten kid 0 ((cmdOf p).words.drop 2) (bitAt (par p 0) 19) u := by
      rw [hu]
      exact kernelLoadBody_of_first (w := par p 0) rfl hkid hr hk h0 hdata hlen hfit hroom hph hnr
    exact exec_of_body h rfl hbody (imageWritten_held ..)
  case later =>
    intro t s p s1 kid off h hkid hr hk hoff h0 halign hres hc hfit hph hnr
    have hbody := kernelLoadBody_of_later (c := cmdOf p) rfl hkid hr hk hoff h0 halign hres hc
    rw [if_neg (Nat.not_lt.2 hfit), if_neg (not_or.2 ⟨hph, Bool.eq_false_iff.1 hnr⟩)] at hbody
    exact exec_of_body h rfl hbody (imageWritten_held ..)
  case laterBad =>
    intro t s p s1 kid off h hkid hr hk hoff h0 halign hres hc
    have hbody := kernelLoadBody_of_later (c := cmdOf p) rfl hkid hr hk hoff h0 halign hres hc
    refine ⟨fun hfit => exec_of_body h rfl (hbody.trans (if_pos hfit)) rfl, fun hfit hph => exec_of_body h rfl ?_ rfl⟩
    rw [hbody, if_neg (Nat.not_lt.2 hfit), if_pos hph]
  case loadBad =>
    exact fun t s p s1 h hk => exec_of_body h rfl (kernelLoadBody_of_bad rfl rfl hk) rfl
  case crc =>
    intro kid s hh hc
    simp only [commitImage_of_crc hh hc, and_self]
  case illegal =>
    intro kid s i hh hc hi
    simp only [commitImage_of_illegal hh hc hi, true_and]
    exact firstIllegal_spec hi
  case alloc =>
    intro t s p s1 kid r m h hkid hr hk hf hz hn hl he hrun hmin hmax hreg hsp hb
    exact exec_of_body h rfl (bobbinAllocBody_of_fit rfl hkid hr hk hf hz hn hl he hrun hmin hmax hreg hsp hb) rfl
  case free =>
    intro t s p s1 kid h hkid hr hk hf he hrun
    refine exec_of_body h rfl ((bobbinAllocBody_of_free rfl hkid hr hk hf).trans (if_neg ?_)) rfl
    exact not_or.2 ⟨he, hrun⟩
  case freeWrong =>
    intro t s p s1 kid h hkid hr hk hf hph
    exact exec_of_body h rfl ((bobbinAllocBody_of_free rfl hkid hr hk hf).trans (if_pos hph)) rfl
  case start =>
    intro t s p s1 kid ch h hkid hch hr hk hb he hrun htap hst hhold
    have hbody := kernelStartBody_of_ready (c := cmdOf p) rfl hkid hch hr hk hb he hrun htap hst hhold
    refine ⟨fun _ hnone => ?_, fun hslot => ?_, fun hslot hsome => ?_⟩
    · exact exec_of_body h rfl (hbody.trans (if_neg fun hc => hc.2 hnone)) (startAnswer_held ..)
    · exact exec_of_body h rfl (hbody.trans (if_neg fun hc => hslot hc.1)) (startAnswer_held ..)
    · exact exec_of_body h rfl (hbody.trans (if_pos ⟨hslot, hsome⟩)) rfl
  case answer =>
    intro s kid ch
    refine ⟨fun h => ?_, fun n h => ?_⟩
    · rw [startAnswer, h]
    · rw [startAnswer, h] <;> rfl
  case startWrong =>
    intro t s p s1 kid ch h hkid hch hr hk hw
    exact exec_of_body h rfl (kernelStartBody_of_wrong rfl hkid hch hr hk hw) rfl
  case stop =>
    intro t s p s1 kid h hkid hr hk hrun htap hst
    refine exec_of_body h rfl ((kernelStopBody_of_kid rfl hkid hr hk).trans (if_neg ?_)) rfl
    rintro (h | h | ⟨h2, h⟩)
    · exact h hrun
    · exact htap h
    · exact Bool.false_ne_true ((hst h2).symm.trans h)
  case stopWrong =>
    intro t s p s1 kid h hkid hr hk hw
    exact exec_of_body h rfl ((kernelStopBody_of_kid rfl hkid hr hk).trans (if_pos hw)) rfl
  case status =>
    intro t s p s1 kid h hkid hr hk
    obtain ⟨ws, hbody, hspec⟩ := kernelStatusBody_of_kid (c := cmdOf p) (s := s1) rfl hkid hr hk
    exact ⟨ws, exec_of_body h rfl hbody rfl, hspec⟩
  case hang =>
    intro t kid b s hk hrun hblock hh
    rw [exec_kernelHangTimeout_user hk, hh, show kernelRuns (setNow t s) kid.toNat = true from hrun,
      show blockRuns .bobbin (setNow t s) = true from hblock]
    exact congrArg Host.Outcome.next (if_pos rfl)
  case noHang =>
    intro t kid b s hk hh
    rw [exec_kernelHangTimeout_user hk, hh, Bool.and_false]
    exact congrArg Host.Outcome.next (if_neg Bool.false_ne_true)

/-! ### What sending and taking a hop down keep of the ports -/

/-- A lane but for its scrambler. -/
def unscrambled (l : LaneState) : LaneState := { l with scram := 0 }

/-- What a port keeps while it sends: all but scramblers, lane order, markers and the clock of its transmitter. -/
def portCore (x : TrunkPort) : TrunkPort :=
  { x with lanes := x.lanes.map unscrambled, dealt := 0, sinceMark := 0, markSeq := 0, announced := false, pllCommon := false }

/-- What a port keeps when its hop goes down. -/
def hopCore (x : TrunkPort) : TrunkPort :=
  { x with linkDowns := 0, replay := [], resend := [], quietTill := 0, transit := [] }

theorem getPort_of_ports {s u : State} (hw : u.west = s.west) (he : u.east = s.east) (p : Port) : getPort u p = getPort s p := by
  cases p
  · exact he
  · exact hw

theorem getPort_updPort_other {p q : Port} (h : p ≠ q) (f : TrunkPort → TrunkPort) (s : State) :
    getPort (updPort s p f) q = getPort s q := by
  match p, q, h with
  | .east, .west, _ | .west, .east, _ => rfl
  | .east, .east, h | .west, .west, h => exact absurd rfl h

/-- What an update of one port keeps of every port. -/
theorem getPort_updPort_of_kept {β : Type} (π : TrunkPort → β) {f : TrunkPort → TrunkPort} {p : Port} {s : State}
    (hf : π (f (getPort s p)) = π (getPort s p)) (q : Port) : π (getPort (updPort s p f) q) = π (getPort s q) := by
  by_cases h : p = q
  · subst h
    rw [getPort_updPort, hf]
  · rw [getPort_updPort_other h]

theorem getPort_arbitrate (p : Port) (s : State) : getPort (arbitrate s) p = getPort s p := by
  obtain ⟨g, l, n, e, h⟩ := arbitrate_eq s
  rw [h]
  cases p <;> rfl

theorem portCore_laneSend (p : Port) (l : Nat) (b : PortBlock) (x : TrunkPort) : portCore (laneSend p l b x).2 = portCore x := by
  have hlanes : ∀ r, (x.lanes.modify l fun y => { y with scram := r }).map unscrambled = x.lanes.map unscrambled := by
    intro r
    refine List.ext_getElem? fun i => ?_
    rw [List.getElem?_map, List.getElem?_map, List.getElem?_modify]
    by_cases h : l = i
    · simp only [if_pos h]
      cases x.lanes[i]? <;> rfl
    · simp only [if_neg h]
      cases x.lanes[i]? <;> rfl
  unfold laneSend updLane portCore
  simp only [hlanes]

theorem portCore_dealBlocks (p : Port) (lanes : List Nat) (bs : List PortBlock) (x : TrunkPort) :
    portCore (dealBlocks p lanes bs x).2 = portCore x := by
  induction bs generalizing x with
  | nil => rfl
  | cons b bs ih =>
    rw [dealBlocks]
    refine (ih _).trans (Eq.trans ?_ (portCore_laneSend p (lanes.getD x.dealt 0) b x))
    rfl

theorem portCore_sendBlocks (p q : Port) (bs : List PortBlock) (s : State) :
    portCore (getPort (sendBlocks p bs s) q) = portCore (getPort s q) := by
  unfold sendBlocks
  extract_lets +onlyGivenNames x r s1
  refine (congrArg portCore (getPort_of_ports (s := s1) rfl rfl q)).trans ?_
  exact getPort_updPort_of_kept portCore (portCore_dealBlocks ..) q

theorem portCore_sendCtl (p q : Port) (bs : List (BitVec 64)) (s : State) :
    portCore (getPort (sendCtl p bs s) q) = portCore (getPort s q) := by
  unfold sendCtl
  extract_lets +onlyGivenNames s1
  refine (congrArg portCore (getPort_of_ports (s := s1) rfl rfl q)).trans ?_
  exact portCore_sendBlocks ..

theorem portCore_sendMarks (p q : Port) (on : BitVec 4) (s : State) :
    portCore (getPort (sendMarks p on s) q) = portCore (getPort s q) := by
  unfold sendMarks
  extract_lets +onlyGivenNames x mark r src s1
  have hr : portCore r.2 = portCore x := by
    have h : ∀ (l : List Nat) (a : List LaneBlock × TrunkPort), portCore (l.foldl (fun (a : List LaneBlock × TrunkPort) l =>
        ((a.1 ++ [(laneSend p l ⟨true, mark l⟩ a.2).1], (laneSend p l ⟨true, mark l⟩ a.2).2))) a).2 = portCore a.2 := by
      intro l a
      induction l generalizing a with
      | nil => rfl
      | cons i l ih => rw [List.foldl_cons, ih, portCore_laneSend]
    exact h ..
  refine (congrArg portCore (getPort_of_ports (s := s1) rfl rfl q)).trans ?_
  exact getPort_updPort_of_kept portCore (Eq.trans rfl hr) q

theorem portCore_driveDue (p q : Port) (s : State) : portCore (getPort (driveDue p s) q) = portCore (getPort s q) := by
  unfold driveDue
  split
  · rw [announce, portCore_sendCtl, portCore_sendMarks]
    exact getPort_updPort_of_kept portCore rfl q
  · rfl

theorem getPort_updPll (p : Pll) (f : PllState → PllState) (s : State) (q : Port) : getPort (updPll p f s) q = getPort s q := by
  cases p <;> cases q <;> rfl

theorem getPort_relock (p : Pll) (s : State) (q : Port) : getPort (relock p s) q = getPort s q := by
  unfold relock startLock
  extract_lets ran c s1
  split
  · have h : getPort s1 q = getPort s q := getPort_updPll ..
    split
    · exact (getPort_of_ports rfl rfl q).trans h
    · exact h
  · exact getPort_updPll ..

theorem portCore_setPortRate (p q : Port) (s : State) : portCore (getPort (setPortRate p s) q) = portCore (getPort s q) := by
  unfold setPortRate
  extract_lets x w
  split
  · rfl
  · rw [getPort_relock, getPort_updPll]
    exact getPort_updPort_of_kept portCore rfl q

/-- A port but for its slots in transit. -/
def transitCore (x : TrunkPort) : TrunkPort := { x with transit := [] }

theorem transitCore_turnTransit (p q : Port) (s : State) : transitCore (getPort (turnTransit p s) q) = transitCore (getPort s q) := by
  unfold turnTransit
  split
  · extract_lets ws n move s1
    refine Eq.trans ?_ (getPort_updPort_of_kept (p := p) (f := fun x => { x with transit := ws.drop n }) transitCore rfl q)
    exact getPort_updPort_of_kept transitCore rfl q
  · rfl

theorem transitCore_moveTransit (p q : Port) (s : State) : transitCore (getPort (moveTransit p s) q) = transitCore (getPort s q) := by
  unfold moveTransit
  split
  · extract_lets +onlyGivenNames again s1
    rw [transitCore_turnTransit]
    exact (getPort_updPort_of_kept transitCore rfl q).trans (congrArg transitCore (getPort_of_ports rfl rfl q))
  · exact getPort_updPort_of_kept transitCore rfl q

theorem moveTransit_field {β : Type} (π : TrunkPort → β) (hπ : ∀ x, π (transitCore x) = π x) (p q : Port) (s : State) :
    π (getPort (moveTransit p s) q) = π (getPort s q) := by
  rw [← hπ, transitCore_moveTransit, hπ]

theorem getPort_wrapPort (p : Port) (s : State) (q : Port) : getPort (wrapPort p s) q = getPort s q := by
  unfold wrapPort
  split
  · extract_lets s1
    rw [getPort_raise]
    have h : getPort s1 q = getPort s q := by
      cases p <;> exact getPort_of_ports rfl rfl q
    exact (getPort_of_ports rfl rfl q).trans h
  · rfl

/-- What taking a hop down keeps of the ports. -/
theorem hopCore_loseHop (p q : Port) (s : State) : hopCore (getPort (loseHop p s) q) = hopCore (getPort s q) := by
  unfold loseHop
  split
  · rfl
  · extract_lets +onlyGivenNames s1
    rw [moveTransit_field hopCore (fun _ => rfl), getPort_wrapPort, getPort_raise]
    exact getPort_updPort_of_kept hopCore rfl q

theorem loseHop_field {β : Type} (π : TrunkPort → β) (hπ : ∀ x, π (hopCore x) = π x) (p q : Port) (s : State) :
    π (getPort (loseHop p s) q) = π (getPort s q) := by
  rw [← hπ, hopCore_loseHop, hπ]

theorem loseHop_cfg (p q : Port) (s : State) : (getPort (loseHop p s) q).cfg = (getPort s q).cfg :=
  loseHop_field TrunkPort.cfg (fun _ => rfl) p q s

theorem loseHop_nextCfg (p q : Port) (s : State) : (getPort (loseHop p s) q).nextCfg = (getPort s q).nextCfg :=
  loseHop_field TrunkPort.nextCfg (fun _ => rfl) p q s

theorem loseHop_phase (p q : Port) (s : State) : (getPort (loseHop p s) q).phase = (getPort s q).phase :=
  loseHop_field TrunkPort.phase (fun _ => rfl) p q s

/-! ### Attempts and actions of a port (R266, R284) -/

/-- A port as its next attempt finds it: the next configuration is in force. -/
def configured (x : TrunkPort) : TrunkPort := { x with cfg := x.nextCfg.getD x.cfg, nextCfg := none }

theorem startAttempt_of_off {p : Port} (fast : Bool) {s : State} (h : ((getPort s p).nextCfg.getD (getPort s p).cfg).enable = false) :
    getPort (startAttempt p fast s) p = { configured (getPort s p) with phase := .disabled } := by
  unfold startAttempt
  extract_lets +onlyGivenNames s1 x
  have hx : x = configured (getPort s p) := getPort_updPort ..
  have hoff : (!x.cfg.enable) = true := by
    rw [hx, Bool.not_eq_true']
    exact h
  rw [getPort_arbitrate, if_pos hoff, getPort_updPort]
  exact congrArg (fun y : TrunkPort => { y with phase := .disabled }) hx

/-- An attempt leaves the port as a fresh one, with what its record keeps of a hop, but for what it sends at once. -/
theorem startAttempt_of_on {p : Port} {fast : Bool} {s : State} {r : Option HopRecord}
    (h : ((getPort s p).nextCfg.getD (getPort s p).cfg).enable = true)
    (hr : r = if fast && ((getPort s p).nextCfg.getD (getPort s p).cfg).fastRetrain then (getPort s p).record else none) :
    portCore (getPort (startAttempt p fast s) p) =
      portCore (fromRecord r (freshAttempt s.now.real r.isSome ((r.map (·.rate)).getD 0) (configured (getPort s p)))) := by
  unfold startAttempt
  extract_lets +onlyGivenNames s1 x rec0
  have hx : x = configured (getPort s p) := getPort_updPort ..
  have hon : ¬ (!x.cfg.enable) = true := by
    rw [hx, Bool.not_eq_true', Bool.not_eq_false]
    exact h
  have hrec : rec0 = r := by
    rw [hr, show rec0 = if fast && x.cfg.fastRetrain then x.record else none from rfl, hx]
    rfl
  rw [getPort_arbitrate, if_neg hon, portCore_driveDue, portCore_setPortRate, getPort_updPort, hrec,
    show getPort s1 p = configured (getPort s p) from hx, show s1.now = s.now by cases p <;> rfl]

theorem portCore_fromRecord (r : Option HopRecord) (x : TrunkPort) :
    { fromRecord r x with lanes := x.lanes } = x := by
  cases r <;> rfl

theorem startAttempt_spec (p : Port) (fast : Bool) (s : State)
    (h : ((getPort s p).nextCfg.getD (getPort s p).cfg).enable = true) : ∃ x, getPort (startAttempt p fast s) p = x ∧
      x.phase = .detect ∧ x.cfg = (getPort s p).nextCfg.getD (getPort s p).cfg ∧ x.nextCfg = none ∧ x.txSeq = 0 ∧
      x.rxSeq = 0 ∧ x.replay = [] ∧ x.attemptAt = s.now.real ∧ x.ready = false ∧
      x.rate = (if fast && x.cfg.fastRetrain then ((getPort s p).record.map (·.rate)).getD 0 else 0) := by
  have hcore := startAttempt_of_on (fast := fast) h rfl
  generalize hr : (if fast && ((getPort s p).nextCfg.getD (getPort s p).cfg).fastRetrain then (getPort s p).record else none) = r
    at hcore
  have hfield : ∀ {β : Type} (π : TrunkPort → β), (∀ x, π (portCore x) = π x) → (∀ x l, π { x with lanes := l } = π x) →
      π (getPort (startAttempt p fast s) p) =
        π (freshAttempt s.now.real r.isSome ((r.map (·.rate)).getD 0) (configured (getPort s p))) := by
    intro β π hπ hlanes
    rw [← hπ, hcore, hπ, ← hlanes, portCore_fromRecord]
  have hcfg : (getPort (startAttempt p fast s) p).cfg = (getPort s p).nextCfg.getD (getPort s p).cfg :=
    hfield TrunkPort.cfg (fun _ => rfl) (fun _ _ => rfl)
  refine ⟨_, rfl, hfield TrunkPort.phase (fun _ => rfl) (fun _ _ => rfl), hcfg,
    hfield TrunkPort.nextCfg (fun _ => rfl) (fun _ _ => rfl), hfield TrunkPort.txSeq (fun _ => rfl) (fun _ _ => rfl),
    hfield TrunkPort.rxSeq (fun _ => rfl) (fun _ _ => rfl), hfield TrunkPort.replay (fun _ => rfl) (fun _ _ => rfl),
    hfield TrunkPort.attemptAt (fun _ => rfl) (fun _ _ => rfl), hfield TrunkPort.ready (fun _ => rfl) (fun _ _ => rfl), ?_⟩
  rw [hfield TrunkPort.rate (fun _ => rfl) (fun _ _ => rfl), hcfg, ← hr]
  split
  · rfl
  · rfl

theorem doAct_disable_phase (p : Port) (s : State) : (getPort (doAct p .disable s) p).phase = .disabled := by
  unfold doAct
  rw [getPort_arbitrate, getPort_updPort]

theorem doAct_retrain_phase (p : Port) (s : State) : (getPort (doAct p .retrain s) p).phase =
    if ((getPort s p).nextCfg.getD (getPort s p).cfg).enable then .detect else .disabled := by
  unfold doAct
  extract_lets +onlyGivenNames s1
  change (getPort (startAttempt p true (loseHop p s1)) p).phase = _
  have hcfg : (getPort (loseHop p s1) p).nextCfg.getD (getPort (loseHop p s1) p).cfg =
      (getPort s p).nextCfg.getD (getPort s p).cfg := by
    rw [loseHop_cfg, loseHop_nextCfg, show getPort s1 p = { getPort s p with act := none } from getPort_updPort ..]
  split
  · next h =>
    obtain ⟨x, hx, hphase, -⟩ := startAttempt_spec p true (loseHop p s1) (hcfg ▸ h)
    exact (congrArg TrunkPort.phase hx).trans hphase
  · next h =>
    exact congrArg TrunkPort.phase (startAttempt_of_off true (s := loseHop p s1) (by rw [hcfg]; exact Bool.eq_false_iff.2 h))

theorem planAct_of_local {c : Cmd} (p : Port) (a : PortAct) (s : State) (h : c.via = none) : planAct c p a s = doAct p a s := by
  rw [planAct, h]
  rfl

theorem planAct_of_trunk {c : Cmd} (p : Port) (a : PortAct) (s : State) (h : c.via ≠ none) :
    planAct c p a s = updPort s p fun x => { x with act := some a } := by
  rw [planAct, if_pos (Option.isSome_iff_ne_none.2 h)]

/-! ### TRUNK_CONFIG (R284, R285) -/

section
variable {c : Cmd} {s : State} {pt : Port} {new : TrunkCfg} (hr : firstReserved c.words [0xFFB73, 0xFFFFFF, 0x1FEF] = none)
  (hpt : pt = portOf (bitAt (paramAt c.words 0) 0))
  (hnew : new = trunkOf (overlay c.words (trunkWords pt ((getPort s pt).nextCfg.getD (getPort s pt).cfg))))
include hr hpt hnew

theorem trunkConfigBody_of_bad {i : Nat} (h : trunkBad new = some i) : trunkConfigBody c s = cmdBad s i := by
  subst hpt hnew
  unfold trunkConfigBody
  extract_lets w0 p x old new
  rw [judged_of_none _ _ hr, show trunkBad new = some i from h]

theorem trunkConfigBody_of_good (h : trunkBad new = none) {u : State} (hu : u = updPort s pt (fun x => { x with
      cfg := { x.cfg with dozeEn := new.dozeEn, dozeIdle := new.dozeIdle }
      nextCfg := some new })) : trunkConfigBody c s =
    if (cutsOff c pt s && !bitAt (paramAt c.words 0) 15 && (!new.enable || bitAt (paramAt c.words 0) 14)) = true then
      cmdRefuse s .notPermitted
    else cmdOk (if !new.enable then (if (getPort s pt).phase == .disabled then doAct pt .disable u else planAct c pt .disable u)
      else if bitAt (paramAt c.words 0) 14 then planAct c pt .retrain u
      else if (getPort s pt).phase == .disabled then startAttempt pt true u else u) := by
  subst hpt hnew hu
  unfold trunkConfigBody
  extract_lets +onlyGivenNames w0 p x old new
  rw [judged_of_none _ _ hr, show trunkBad new = none from h]

end

/-! ### TRUNK_STATUS (R286) -/

theorem trunkState_le (x : TrunkPort) : trunkState x ≤ 10 := by
  unfold trunkState stageNo
  cases x.phase <;> decide

/-- The state word of a port. -/
def portWord0 (x : TrunkPort) : Word :=
  mkWord [(trunkState x, 28), (x.rate.toNat, 26), (x.widthRx.toNat, 24), (x.widthTx.toNat, 22), (b2n x.cfg.clocking, 21),
    (b2n x.txDoze, 20), (b2n x.rxDoze, 19), (x.lanesRx.toNat, 15),
    ((List.range 4).foldl (fun a l => a + b2n (laneAt x l).inverted * 2 ^ l) 0, 11), (x.partnerAddr.toNat, 0)]

theorem toNat_portWord0 (x : TrunkPort) : (portWord0 x).toNat =
    trunkState x * 2 ^ 28 + x.rate.toNat * 2 ^ 26 + x.widthRx.toNat * 2 ^ 24 + x.widthTx.toNat * 2 ^ 22 +
      b2n x.cfg.clocking * 2 ^ 21 + b2n x.txDoze * 2 ^ 20 + b2n x.rxDoze * 2 ^ 19 + x.lanesRx.toNat * 2 ^ 15 +
      (b2n (laneAt x 0).inverted + b2n (laneAt x 1).inverted * 2 + b2n (laneAt x 2).inverted * 4 +
        b2n (laneAt x 3).inverted * 8) * 2 ^ 11 + x.partnerAddr.toNat := by
  have h0 := trunkState_le x
  have h1 := x.rate.isLt
  have h2 := x.widthRx.isLt
  have h3 := x.widthTx.isLt
  have h4 := b2n_le_one x.cfg.clocking
  have h5 := b2n_le_one x.txDoze
  have h6 := b2n_le_one x.rxDoze
  have h7 := x.lanesRx.isLt
  have i0 := b2n_le_one (laneAt x 0).inverted
  have i1 := b2n_le_one (laneAt x 1).inverted
  have i2 := b2n_le_one (laneAt x 2).inverted
  have i3 := b2n_le_one (laneAt x 3).inverted
  have h8 := x.partnerAddr.isLt
  have hinv : (List.range 4).foldl (fun a l => a + b2n (laneAt x l).inverted * 2 ^ l) 0 = b2n (laneAt x 0).inverted +
      b2n (laneAt x 1).inverted * 2 + b2n (laneAt x 2).inverted * 4 + b2n (laneAt x 3).inverted * 8 := by
    change 0 + b2n (laneAt x 0).inverted * 2 ^ 0 + b2n (laneAt x 1).inverted * 2 ^ 1 + b2n (laneAt x 2).inverted * 2 ^ 2 +
      b2n (laneAt x 3).inverted * 2 ^ 3 = _
    omega
  rw [portWord0, toNat_mkWord, hinv]
  simp only [List.foldl_cons, List.foldl_nil]
  omega

theorem portWord0_fields (x : TrunkPort) :
    fldN (portWord0 x) 28 4 = trunkState x ∧ fld (portWord0 x) 26 2 = x.rate ∧
      fld (portWord0 x) 24 2 = x.widthRx ∧ fld (portWord0 x) 22 2 = x.widthTx ∧ bitAt (portWord0 x) 21 = x.cfg.clocking ∧
      bitAt (portWord0 x) 20 = x.txDoze ∧ bitAt (portWord0 x) 19 = x.rxDoze ∧ fld (portWord0 x) 15 4 = x.lanesRx ∧
      (∀ l < 4, bitAt (portWord0 x) (11 + l) = (laneAt x l).inverted) ∧ fld (portWord0 x) 0 7 = x.partnerAddr := by
  have hw := toNat_portWord0 x
  generalize portWord0 x = w at hw
  have h0 := trunkState_le x
  have h1 := x.rate.isLt
  have h2 := x.widthRx.isLt
  have h3 := x.widthTx.isLt
  have h4 := b2n_le_one x.cfg.clocking
  have h5 := b2n_le_one x.txDoze
  have h6 := b2n_le_one x.rxDoze
  have h7 := x.lanesRx.isLt
  have i0 := b2n_le_one (laneAt x 0).inverted
  have i1 := b2n_le_one (laneAt x 1).inverted
  have i2 := b2n_le_one (laneAt x 2).inverted
  have i3 := b2n_le_one (laneAt x 3).inverted
  have h8 := x.partnerAddr.isLt
  refine ⟨?_, BitVec.eq_of_toNat_eq ?_, BitVec.eq_of_toNat_eq ?_, BitVec.eq_of_toNat_eq ?_, bitAt_eq_iff.2 ?_, bitAt_eq_iff.2 ?_,
    bitAt_eq_iff.2 ?_, BitVec.eq_of_toNat_eq ?_, fun l hl => bitAt_eq_iff.2 ?_, BitVec.eq_of_toNat_eq ?_⟩
  case refine_1 => rw [fldN, toNat_fld, hw]; omega
  case refine_9 => rw [hw]; interval_cases l <;> omega
  case refine_5 | refine_6 | refine_7 => rw [hw]; omega
  all_goals rw [toNat_fld, hw]; omega

theorem foldl_four_bytes (f : Nat → Nat) : (List.range 4).foldl (fun a l => a + f l * 2 ^ (8 * l)) 0 =
    f 0 + f 1 * 256 + f 2 * 65536 + f 3 * 16777216 := by
  rw [show List.range 4 = [0, 1, 2, 3] from rfl, List.foldl_cons, List.foldl_cons, List.foldl_cons, List.foldl_cons, List.foldl_nil]
  norm_num

/-- The figures of merit of the four lanes in one word. -/
theorem fomWord_fields (x : TrunkPort) (l : Nat) (hl : l < 4) :
    fld (mkWord ((List.range 4).map fun l => ((laneAt x l).fom.toNat, 8 * l))) (8 * l) 8 = (laneAt x l).fom := by
  have h0 := (laneAt x 0).fom.isLt
  have h1 := (laneAt x 1).fom.isLt
  have h2 := (laneAt x 2).fom.isLt
  have h3 := (laneAt x 3).fom.isLt
  have hw : (mkWord ((List.range 4).map fun l => ((laneAt x l).fom.toNat, 8 * l))).toNat = (laneAt x 0).fom.toNat +
      (laneAt x 1).fom.toNat * 256 + (laneAt x 2).fom.toNat * 65536 + (laneAt x 3).fom.toNat * 16777216 := by
    have hsum := foldl_four_bytes fun l => (laneAt x l).fom.toNat
    rw [toNat_mkWord, List.foldl_map]
    simp only [hsum]
    omega
  refine BitVec.eq_of_toNat_eq ?_
  rw [toNat_fld, hw]
  interval_cases l <;> omega

/-- A word of two halves. -/
theorem halvesWord_fields (a b : BitVec 16) : fld (mkWord [(a.toNat, 16), (b.toNat, 0)]) 16 16 = a ∧
    fld (mkWord [(a.toNat, 16), (b.toNat, 0)]) 0 16 = b := by
  have ha := a.isLt
  have hb := b.isLt
  have hw : (mkWord [(a.toNat, 16), (b.toNat, 0)]).toNat = a.toNat * 65536 + b.toNat := by
    rw [toNat_mkWord]
    simp only [List.foldl_cons, List.foldl_nil]
    omega
  constructor <;> refine BitVec.eq_of_toNat_eq ?_ <;> rw [toNat_fld, hw] <;> omega

/-- The word of a port's partner and of its last failure. -/
theorem partnerWord_fields (tag : BitVec 16) (etp : Byte) (stage reason : BitVec 4) :
    fld (mkWord [(tag.toNat, 16), (etp.toNat, 8), (stage.toNat, 4), (reason.toNat, 0)]) 16 16 = tag ∧
    fld (mkWord [(tag.toNat, 16), (etp.toNat, 8), (stage.toNat, 4), (reason.toNat, 0)]) 8 8 = etp ∧
    fld (mkWord [(tag.toNat, 16), (etp.toNat, 8), (stage.toNat, 4), (reason.toNat, 0)]) 4 4 = stage ∧
    fld (mkWord [(tag.toNat, 16), (etp.toNat, 8), (stage.toNat, 4), (reason.toNat, 0)]) 0 4 = reason := by
  have h1 := tag.isLt
  have h2 := etp.isLt
  have h3 := stage.isLt
  have h4 := reason.isLt
  have hw : (mkWord [(tag.toNat, 16), (etp.toNat, 8), (stage.toNat, 4), (reason.toNat, 0)]).toNat =
      tag.toNat * 65536 + etp.toNat * 256 + stage.toNat * 16 + reason.toNat := by
    rw [toNat_mkWord]
    simp only [List.foldl_cons, List.foldl_nil]
    omega
  refine ⟨?_, ?_, ?_, ?_⟩ <;> refine BitVec.eq_of_toNat_eq ?_ <;> rw [toNat_fld, hw] <;> omega

/-! ### LANE_DIAG and eye scans (R287) -/

/-- What LANE_DIAG answers for lanes m of port pt under a test, with its words within their masks. -/
def laneDiagAnswer (c : Cmd) (s : State) (pt : Port) (m : BitVec 4) (test : Nat) : CmdResult :=
  if 8 < test then cmdBad s 0
  else if test = 1 ∧ fld (paramAt c.words 1) 0 8 = 0 then cmdBad s 1
  else if test = 0 then
    cmdOk (updPort s pt (clearHdrErr m)) ((maskLanes m).flatMap fun l => laneRead (laneAt (getPort s pt) l))
  else if test = 1 then
    (if (getPort s pt).eye.isSome then cmdRefuse s .busy
     else cmdPending (startWork c.req (.laneDiag pt) (updPort s pt fun x => { x with eye := some m })))
  else if test = 2 then
    (if (getPort s pt).eye.isSome then cmdRefuse s .busy
     else cmdOk s ((maskLanes m).map fun l =>
       mkWord [(((getPort s pt).eyes.getD l (0, 0)).1.toNat, 24), (((getPort s pt).eyes.getD l (0, 0)).2.toNat, 16)]))
  else if test = 4 then
    (if (getPort s pt).phase = .diag ∧ (getPort s pt).prbs ≠ 0 then prbsRead pt (maskLanes m) s else cmdRefuse s .wrongState)
  else if test = 5 ∨ test = 8 then
    (if (getPort s pt).phase = .diag then cmdOk (startAttempt pt true s) else cmdRefuse s .wrongState)
  else if cutsOff c pt s then cmdRefuse s .notPermitted
  else cmdOk (planAct c pt (.diag (BitVec.ofNat 4 test) m) s)

theorem laneDiagBody_of_words {c : Cmd} {s : State} {pt : Port} {m : BitVec 4} {test : Nat}
    (hr : firstReserved c.words [0xF0F01, 0xFF] = none) (hpt : pt = portOf (bitAt (paramAt c.words 0) 0))
    (hm : m = fld (paramAt c.words 0) 16 4) (ht : test = fldN (paramAt c.words 0) 8 4) :
    laneDiagBody c s = laneDiagAnswer c s pt m test := by
  subst hpt hm ht
  simp only [laneDiagBody, laneDiagAnswer, judged_of_none _ _ hr, Bool.and_eq_true, Bool.or_eq_true, decide_eq_true_eq, beq_iff_eq,
    bne_iff_ne]

section
variable (c : Cmd) (s : State) (pt : Port) (m : BitVec 4)

theorem laneDiagAnswer_one : laneDiagAnswer c s pt m 1 =
    if fld (paramAt c.words 1) 0 8 = 0 then cmdBad s 1
    else if (getPort s pt).eye.isSome then cmdRefuse s .busy
    else cmdPending (startWork c.req (.laneDiag pt) (updPort s pt fun x => { x with eye := some m })) := by
  simp only [laneDiagAnswer, true_and, if_true, Nat.reduceLT, if_false, one_ne_zero]

theorem laneDiagAnswer_two : laneDiagAnswer c s pt m 2 =
    if (getPort s pt).eye.isSome then cmdRefuse s .busy
    else cmdOk s ((maskLanes m).map fun l =>
      mkWord [(((getPort s pt).eyes.getD l (0, 0)).1.toNat, 24), (((getPort s pt).eyes.getD l (0, 0)).2.toNat, 16)]) := by
  simp only [laneDiagAnswer, if_true, Nat.reduceLT, if_false, Nat.reduceEqDiff, false_and, OfNat.ofNat_ne_zero]

theorem laneDiagAnswer_four : laneDiagAnswer c s pt m 4 =
    if (getPort s pt).phase = .diag ∧ (getPort s pt).prbs ≠ 0 then prbsRead pt (maskLanes m) s else cmdRefuse s .wrongState := by
  simp only [laneDiagAnswer, if_true, Nat.reduceLT, if_false, Nat.reduceEqDiff, false_and, OfNat.ofNat_ne_zero]

theorem laneDiagAnswer_end {test : Nat} (h : test = 5 ∨ test = 8) : laneDiagAnswer c s pt m test =
    if (getPort s pt).phase = .diag then cmdOk (startAttempt pt true s) else cmdRefuse s .wrongState := by
  rcases h with rfl | rfl <;>
    simp only [laneDiagAnswer, if_true, Nat.reduceLT, if_false, Nat.reduceEqDiff, false_and, OfNat.ofNat_ne_zero, or_true, true_or,
      lt_irrefl]

theorem laneDiagAnswer_act {test : Nat} (h : test = 3 ∨ test = 6 ∨ test = 7) : laneDiagAnswer c s pt m test =
    if cutsOff c pt s then cmdRefuse s .notPermitted else cmdOk (planAct c pt (.diag (BitVec.ofNat 4 test) m) s) := by
  rcases h with rfl | rfl | rfl <;>
    simp only [laneDiagAnswer, Nat.reduceLT, if_false, Nat.reduceEqDiff, false_and, OfNat.ofNat_ne_zero, or_self]

end

theorem prbsRead_held (p : Port) (lanes : List Nat) (s : State) : (prbsRead p lanes s).held = false := rfl

/-- Clearing the header errors of lanes, lane by lane. -/
theorem laneAt_clearHdrErr (m : BitVec 4) (x : TrunkPort) (l : Nat) : laneAt (clearHdrErr m x) l =
    if bitAt m l then { laneAt x l with hdrErr := 0 } else laneAt x l := by
  unfold clearHdrErr laneAt
  rw [List.getD_eq_getElem?_getD, List.getD_eq_getElem?_getD, List.getElem?_map, List.getElem?_zipIdx, Nat.zero_add]
  cases x.lanes[l]? with
  | none => cases hm : bitAt m l <;> simp
  | some y => rfl

theorem getPort_startPrbs (p : Port) (lanes : BitVec 4) (s : State) (q : Port) : getPort (startPrbs p lanes s) q = getPort s q := by
  unfold startPrbs
  refine view_foldl (π := fun u => getPort u q) (fun u l => ?_) _ s
  split
  · cases q <;> rfl
  · rfl

theorem beginTest_phase (test lanes : BitVec 4) (x : TrunkPort) : (beginTest test lanes x).phase = x.phase := by
  unfold beginTest
  repeat' split
  all_goals rfl

theorem getPort_enterDiag (p : Port) (test m : BitVec 4) (s : State) : ∃ x, (getPort (enterDiag p test m s) p) = beginTest test m x ∧
    x.phase = .diag ∧ ((getPort s p).phase ≠ .diag → x.prbs = 0 ∧ x.loopNear = 0 ∧ x.loopFar = 0) := by
  unfold enterDiag
  extract_lets +onlyGivenNames from0 s1
  have hs1 := (getPort_arbitrate p (updPort (loseHop p s) p fun x =>
    beginTest test m { (if x.phase == .diag then x else { x with prbs := 0, loopNear := 0, loopFar := 0 }) with
      phase := .diag, quietTill := 0
      lanes := (if x.phase == .diag then x else { x with prbs := 0, loopNear := 0, loopFar := 0 }).lanes.zipIdx.map from0 })).trans
    (getPort_updPort ..)
  have hport : getPort (if test == 3 then startPrbs p m s1 else s1) p = getPort s1 p := by
    split
    · exact getPort_startPrbs ..
    · rfl
  refine ⟨_, hport.trans hs1, rfl, fun hph => ?_⟩
  rw [← loseHop_phase p p s] at hph
  rw [if_neg (by rwa [beq_iff_eq])]
  exact ⟨rfl, rfl, rfl⟩

theorem enterDiag_spec (p : Port) (test m : BitVec 4) (s : State) : (getPort (enterDiag p test m s) p).phase = .diag ∧
    ((getPort s p).phase ≠ .diag →
      (test = 3 → (getPort (enterDiag p test m s) p).prbs = m ∧ (getPort (enterDiag p test m s) p).loopFar = 0) ∧
      (test = 7 → (getPort (enterDiag p test m s) p).loopFar = m ∧ (getPort (enterDiag p test m s) p).prbs = 0)) := by
  obtain ⟨x, hx, hphase, hzero⟩ := getPort_enterDiag p test m s
  rw [hx]
  refine ⟨(beginTest_phase ..).trans hphase, fun hph => ?_⟩
  obtain ⟨hprbs, -, hfar⟩ := hzero hph
  refine ⟨fun h => ?_, fun h => ?_⟩
  · subst h
    exact ⟨(congrArg (· ||| m) hprbs).trans BitVec.zero_or, hfar⟩
  · subst h
    exact ⟨(congrArg (· ||| m) hfar).trans BitVec.zero_or, hprbs⟩

/-- A read of the bit errors of one lane under test. -/
theorem prbsRead_of_lane {p : Port} {l : Nat} {s : State} (hl : l < (getPort s p).lanes.length)
    (hbit : bitAt (getPort s p).prbs l = true) : ∃ w u, prbsRead p [l] s = cmdOk u [w, wordOf (prbsBits s (getPort s p) l)] ∧
      (bitAt (getPort s p).loopNear l = true → w = 0) ∧ (laneAt (getPort u p) l).prbsFrom = some s.now.real ∧
      ∀ k, k ≠ l → laneAt (getPort u p) k = laneAt (getPort s p) k := by
  have hread : prbsRead p [l] s = cmdOk (prbsLane p l s).2 (prbsLane p l s).1 := rfl
  have hlane : ∀ (s1 : State), getPort s1 p = getPort s p →
      (laneAt (getPort (updPort s1 p (updLane l fun y => { y with prbsFrom := some s.now.real })) p) l).prbsFrom =
        some s.now.real ∧
      ∀ k, k ≠ l → laneAt (getPort (updPort s1 p (updLane l fun y => { y with prbsFrom := some s.now.real })) p) k =
        laneAt (getPort s p) k := by
    intro s1 hs1
    rw [getPort_updPort, hs1]
    constructor
    · simp only [laneAt, updLane, List.getD_eq_getElem?_getD, List.getElem?_modify_eq, List.getElem?_eq_getElem hl]
      rfl
    · intro k hk
      simp only [laneAt, updLane, List.getD_eq_getElem?_getD, List.getElem?_modify_ne _ _ (Ne.symm hk)]
  by_cases hnear : bitAt (getPort s p).loopNear l = true
  · have hp : prbsLane p l s = ([0, wordOf (prbsBits s (getPort s p) l)],
        updPort s p (updLane l fun y => { y with prbsFrom := some s.now.real })) := by
      simp only [prbsLane, hbit, hnear, Bool.not_true, Bool.false_eq_true, if_false, if_true]
    rw [hread, hp]
    exact ⟨_, _, rfl, fun _ => rfl, hlane s rfl⟩
  · have hp : prbsLane p l s = ([(takeFree s).1, wordOf (prbsBits s (getPort s p) l)],
        updPort (takeFree s).2 p (updLane l fun y => { y with prbsFrom := some s.now.real })) := by
      simp only [prbsLane, hbit, hnear, Bool.not_true, Bool.false_eq_true, if_false]
    rw [hread, hp]
    exact ⟨_, _, rfl, fun h => absurd h hnear, hlane (takeFree s).2 (getPort_of_ports rfl rfl p)⟩

/-- Values set place by place, read back. -/
theorem getD_foldl_set {α : Type} (f : Nat → α) (d : α) (l : Nat) (ls : List Nat) (n : Nat) (e : List α) (hnd : ls.Nodup)
    (hl : l < e.length) : ((ls.zipIdx n).foldl (fun e x => e.set x.1 (f x.2)) e).getD l d =
      if l ∈ ls then f (n + ls.idxOf l) else e.getD l d := by
  induction ls generalizing n e with
  | nil => rfl
  | cons a ls ih =>
    obtain ⟨ha, hnd⟩ := List.nodup_cons.1 hnd
    rw [List.zipIdx_cons, List.foldl_cons, ih _ _ hnd (by rwa [List.length_set])]
    by_cases hla : l = a
    · subst hla
      rw [if_neg ha, if_pos List.mem_cons_self, List.idxOf_cons_self, Nat.add_zero, List.getD_eq_getElem?_getD,
        List.getElem?_set_self hl, Option.getD_some]
    · rw [List.idxOf_cons_ne _ (Ne.symm hla), List.getD_eq_getElem?_getD, List.getElem?_set_ne (Ne.symm hla),
        ← List.getD_eq_getElem?_getD, Nat.add_assoc, Nat.add_comm 1]
      exact if_congr (by rw [List.mem_cons, or_iff_right hla]) rfl rfl

theorem nodup_maskLanes (m : BitVec 4) : (maskLanes m).Nodup := List.Nodup.filter _ List.nodup_range

theorem mem_maskLanes {m : BitVec 4} {l : Nat} (hl : l < 4) : l ∈ maskLanes m ↔ bitAt m l = true := by
  rw [maskLanes, List.mem_filter, List.mem_range, and_iff_right hl]

theorem exec_eyeScanComplete_of_none {t : Instant} {p : Port} {b : List Byte} {s : State} (h : (getPort s p).eye = none) :
    exec (.eyeScanComplete t p b) s = .next (setNow t s) := by
  change execEyeScanComplete t p b s = _
  unfold execEyeScanComplete
  extract_lets s1
  rw [show (getPort s1 p).eye = none from (congrArg TrunkPort.eye (getPort_setNow ..)).trans h]

theorem exec_eyeScanComplete_of_some {t : Instant} {p : Port} {b : List Byte} {s : State} {m : BitVec 4}
    (h : (getPort s p).eye = some m) : exec (.eyeScanComplete t p b) s =
      .next (raise 0x0507 (portNo p) 0 0 (endWork (.laneDiag p) (updPort (setNow t s) p fun x => { x with
        eye := none
        eyes := (maskLanes m).zipIdx.foldl (fun e l => e.set l.1 (b.getD (2 * l.2) 0, b.getD (2 * l.2 + 1) 0)) x.eyes }))) := by
  change execEyeScanComplete t p b s = _
  unfold execEyeScanComplete
  extract_lets s1
  rw [show (getPort s1 p).eye = some m from (congrArg TrunkPort.eye (getPort_setNow ..)).trans h]

/-- Settles O43. -/
theorem trunkCommandsConfigureAndReadPorts : Obligations.TrunkCommandsConfigureAndReadPorts := by
  refine ⟨?config, ?configBad, fun c pt a s => ⟨planAct_of_local pt a s, planAct_of_trunk pt a s⟩,
    fun pt s => ⟨doAct_disable_phase pt s, doAct_retrain_phase pt s⟩, startAttempt_spec, ?status, ?diag, ?clear,
    enterDiag_spec, ?prbs, fun t pt b s h => exec_eyeScanComplete_of_none h, ?eye⟩
  case config =>
    intro t s p s1 pt new u h hr hpt hnew hgood hu
    have hbody := trunkConfigBody_of_good (c := cmdOf p) hr hpt hnew hgood hu
    refine ⟨fun hen hretrain hph => ?_, fun hen hretrain hph => ?_, fun hcut hen hretrain => ?_, fun hcut hen hph => ?_,
      fun hcut hforce hact => ?_⟩
    · simp only [par_eq, hen, hretrain, Bool.not_true, Bool.or_self, Bool.and_false, Bool.false_eq_true, if_false,
        beq_iff_eq, hph] at hbody
      exact exec_of_body h rfl hbody rfl
    · simp only [par_eq, hen, hretrain, Bool.not_true, Bool.or_self, Bool.and_false, Bool.false_eq_true, if_false,
        beq_iff_eq, hph, if_true] at hbody
      exact exec_of_body h rfl hbody rfl
    · have hok : (cutsOff (cmdOf p) pt s1 && !bitAt (par p 0) 15) = false := by
        rcases hcut with hc | hc <;> simp [hc]
      simp only [par_eq, hen, hretrain, hok, Bool.not_true, Bool.false_and, Bool.false_eq_true, if_false, if_true] at hbody
      exact exec_of_body h rfl hbody rfl
    · have hok : (cutsOff (cmdOf p) pt s1 && !bitAt (par p 0) 15) = false := by
        rcases hcut with hc | hc <;> simp [hc]
      simp only [par_eq, hen, hok, Bool.not_false, Bool.false_and, Bool.false_eq_true, if_false, if_true, beq_iff_eq, hph] at hbody
      exact exec_of_body h rfl hbody rfl
    · have hbad : (cutsOff (cmdOf p) pt s1 && !bitAt (par p 0) 15 && (!new.enable || bitAt (par p 0) 14)) = true := by
        rw [hcut, hforce]
        rcases hact with ha | ha <;> simp [ha]
      exact exec_of_body h rfl (hbody.trans (if_pos hbad)) rfl
  case configBad =>
    intro t s p s1 pt i h hr hpt hbad
    exact exec_of_body h rfl (trunkConfigBody_of_bad hr hpt rfl hbad) rfl
  case status =>
    intro t s p s1 x h hr hx
    obtain ⟨f28, f26, f24, f22, f21, f20, f19, f15, f11, f0⟩ := portWord0_fields x
    obtain ⟨g16, g8, g4, g0⟩ := partnerWord_fields x.partnerTag x.partnerEtp x.failStage x.failReason
    obtain ⟨e16, e0⟩ := halvesWord_fields x.ebSlip x.dozeWakes
    have hbody : trunkStatusBody (cmdOf p) s1 = _ := judged_of_none _ _ hr
    rw [par_eq, ← hx] at hbody
    exact ⟨_, exec_of_body h rfl hbody rfl, rfl, f28, f26, f24, f22, f21, f20, f19, f15, f11, f0, fomWord_fields x,
      g16, g8, g4, g0, rfl, rfl, rfl, rfl, rfl, rfl, rfl, rfl, e16, e0⟩
  case diag =>
    intro t s p s1 pt m test h hr hpt hm ht
    have hbody := laneDiagBody_of_words (c := cmdOf p) (s := s1) hr hpt hm ht
    have heye : ∀ {o : Option (BitVec 4)}, o ≠ none → o.isSome = true := Option.isSome_iff_ne_none.2
    have hlane : ∀ {n : Nat} {r : CmdResult}, test = n → (laneDiagAnswer (cmdOf p) s1 pt m n = r) → r.held = false →
        exec (.laneDiag t) s = .next (finishCmd p r s1) := by
      intro n r hn hb hheld
      subst hn
      exact exec_of_body h rfl (hbody.trans hb) hheld
    refine ⟨fun h0 => hlane h0 rfl rfl, fun h1 hlen hidle => hlane h1 ?_ rfl, fun h1 hlen => hlane h1 ?_ rfl,
      fun h2 hidle => hlane h2 ?_ rfl, fun h12 hbusy => ?_, fun h367 hcut => ?_, fun h367 hcut => ?_,
      fun h4 hph hprbs => hlane h4 ?_ (prbsRead_held ..), fun h58 hph => ?_, fun h458 hph => ?_,
      fun h8 => hlane rfl (if_pos h8) rfl⟩
    · rw [laneDiagAnswer_one, par_eq, if_neg hlen, hidle]
      rfl
    · rw [laneDiagAnswer_one, par_eq, if_pos hlen]
    · rw [laneDiagAnswer_two, hidle]
      rfl
    · rcases h12 with ⟨h1, hlen⟩ | h2
      · refine hlane h1 ?_ rfl
        rw [laneDiagAnswer_one, par_eq, if_neg hlen, if_pos (heye hbusy)]
      · refine hlane h2 ?_ rfl
        rw [laneDiagAnswer_two, if_pos (heye hbusy)]
    · refine hlane rfl ?_ rfl
      rw [laneDiagAnswer_act _ _ _ _ h367, hcut]
      rfl
    · refine hlane rfl ?_ rfl
      rw [laneDiagAnswer_act _ _ _ _ h367, if_pos hcut]
    · rw [laneDiagAnswer_four, if_pos ⟨hph, hprbs⟩]
    · refine hlane rfl ?_ rfl
      rw [laneDiagAnswer_end _ _ _ _ h58, if_pos hph]
    · rcases h458 with h4 | h58
      · refine hlane h4 ?_ rfl
        rw [laneDiagAnswer_four, if_neg fun hd => hph hd.1]
      · refine hlane rfl ?_ rfl
        rw [laneDiagAnswer_end _ _ _ _ h58, if_neg hph]
  case clear =>
    intro m x l
    rw [laneAt_clearHdrErr]
    split <;> exact ⟨rfl, rfl⟩
  case prbs =>
    intro pt l s hbit hlen
    exact prbsRead_of_lane (by rw [hlen]; exact l.isLt) hbit
  case eye =>
    intro t pt b s m h hlen
    refine ⟨(maskLanes m).zipIdx.foldl (fun e l => e.set l.1 (b.getD (2 * l.2) 0, b.getD (2 * l.2 + 1) 0)) (getPort s pt).eyes,
      ?_, fun l hl => ?_⟩
    · rw [exec_eyeScanComplete_of_some h]
      cases pt <;> rfl
    · rw [getD_foldl_set (fun i => (b.getD (2 * i) 0, b.getD (2 * i + 1) 0)) _ _ _ _ _ (nodup_maskLanes m) (by rwa [hlen]), Nat.zero_add]
      exact if_congr (mem_maskLanes hl) rfl rfl

/-! ### Events of a port (R266) -/

theorem setNow_setNow (t : Instant) (s : State) : setNow t (setNow t s) = setNow t s := by
  refine setNow_of_now t _ ?_
  rw [setNow_now, laterInstant, laterInstant, Nat.max_assoc, Nat.max_self, Nat.max_assoc, Nat.max_self]

theorem portEvent_of_live {t : Instant} {f : State → State} {s : State} (h : trunkLive s = true) :
    portEvent t f s = .next (f (setNow t s)) :=
  congrArg Host.Outcome.next (if_pos h)

theorem portEvent_of_dead {t : Instant} {f : State → State} {s : State} (h : trunkLive s = false) :
    portEvent t f s = .next (setNow t s) :=
  congrArg Host.Outcome.next (if_neg (Bool.eq_false_iff.1 h))

theorem driveDue_field {β : Type} (π : TrunkPort → β) (hπ : ∀ x, π (portCore x) = π x) (p q : Port) (s : State) :
    π (getPort (driveDue p s) q) = π (getPort s q) := by
  rw [← hπ, portCore_driveDue, hπ]

theorem laneAt_portCore (x : TrunkPort) (l : Nat) : laneAt (portCore x) l = unscrambled (laneAt x l) := by
  simp only [laneAt, portCore, List.getD_eq_getElem?_getD, List.getElem?_map]
  cases x.lanes[l]? <;> rfl

theorem usableLanes_portCore (x : TrunkPort) : usableLanes (portCore x) = usableLanes x := by
  unfold usableLanes
  simp only [laneAt_portCore]
  rfl

theorem deskewFault_portCore (x : TrunkPort) : deskewFault (portCore x) = deskewFault x := by
  have hls : (usableLanes (portCore x)).map (laneAt (portCore x)) = ((usableLanes x).map (laneAt x)).map unscrambled := by
    rw [usableLanes_portCore, List.map_map]
    exact List.map_congr_left fun l _ => laneAt_portCore x l
  unfold deskewFault
  rw [hls]
  generalize (usableLanes x).map (laneAt x) = ls
  simp only [List.map_map, List.foldl_map, List.any_map, List.all_map, List.length_map]
  rfl

/-- Sending acts on its own port alone. -/
theorem getPort_sendBlocks_other {p q : Port} (h : p ≠ q) (bs : List PortBlock) (s : State) :
    getPort (sendBlocks p bs s) q = getPort s q := by
  unfold sendBlocks
  extract_lets +onlyGivenNames x r s1
  exact (getPort_of_ports (s := s1) rfl rfl q).trans (getPort_updPort_other h ..)

theorem getPort_driveDue_other {p q : Port} (h : p ≠ q) (s : State) : getPort (driveDue p s) q = getPort s q := by
  unfold driveDue
  split
  · have hmarks : ∀ on u, getPort (sendMarks p on u) q = getPort u q := by
      intro on u
      unfold sendMarks
      extract_lets +onlyGivenNames x mark r src s1
      exact (getPort_of_ports (s := s1) rfl rfl q).trans (getPort_updPort_other h ..)
    have hctl : ∀ bs u, getPort (sendCtl p bs u) q = getPort u q := by
      intro bs u
      unfold sendCtl
      extract_lets +onlyGivenNames s1
      exact (getPort_of_ports (s := s1) rfl rfl q).trans (getPort_sendBlocks_other h ..)
    rw [announce, hctl, hmarks, getPort_updPort_other h]
  · rfl

theorem otherPort_ne (p : Port) : p ≠ otherPort p := by cases p <;> decide

/-- A state with the ports and the outputs of another. -/
def withPortsOf (s u : State) : State := { u with west := s.west, east := s.east, out := s.out }

theorem withPortsOf_updPort (s : State) (p : Port) (f : TrunkPort → TrunkPort) (u : State) :
    withPortsOf s (updPort u p f) = withPortsOf s u := by
  cases p <;> rfl

theorem withPortsOf_sendBlocks (s : State) (p : Port) (bs : List PortBlock) (u : State) :
    withPortsOf s (sendBlocks p bs u) = withPortsOf s u := by
  unfold sendBlocks
  extract_lets +onlyGivenNames x r s1
  exact Eq.trans rfl (withPortsOf_updPort s p (fun _ => r.2) u)

theorem withPortsOf_sendCtl (s : State) (p : Port) (bs : List (BitVec 64)) (u : State) :
    withPortsOf s (sendCtl p bs u) = withPortsOf s u := by
  unfold sendCtl
  extract_lets +onlyGivenNames s1
  exact Eq.trans rfl (withPortsOf_sendBlocks s p (bs.map (⟨true, ·⟩)) u)

theorem withPortsOf_sendMarks (s : State) (p : Port) (on : BitVec 4) (u : State) :
    withPortsOf s (sendMarks p on u) = withPortsOf s u := by
  unfold sendMarks
  extract_lets +onlyGivenNames x mark r src s1
  exact Eq.trans rfl (withPortsOf_updPort s p (fun _ => { r.2 with markSeq := x.markSeq + 1, sinceMark := 0 }) u)

/-- A due announcement touches its port and the outputs alone. -/
theorem withPortsOf_driveDue (s : State) (p : Port) (u : State) : withPortsOf s (driveDue p u) = withPortsOf s u := by
  unfold driveDue
  split
  · rw [announce, withPortsOf_sendCtl, withPortsOf_sendMarks, withPortsOf_updPort]
  · rfl

theorem driveDue_state {β : Type} (π : State → β) (hπ : ∀ s u, π (withPortsOf s u) = π u) (p : Port) (s : State) :
    π (driveDue p s) = π s := by
  rw [← hπ s, withPortsOf_driveDue, hπ]

theorem driveDue_now (p : Port) (s : State) : (driveDue p s).now = s.now := driveDue_state State.now (fun _ _ => rfl) p s

theorem driveDue_clock (p : Port) (s : State) : (driveDue p s).clock = s.clock := driveDue_state State.clock (fun _ _ => rfl) p s

theorem pllOf_of_clock {s u : State} (h : u.clock = s.clock) (p : Pll) : pllOf u p = pllOf s p := by
  cases p <;> simp only [pllOf, h]

theorem wakePort_of_phase {p : Port} {s : State} (h : (getPort s p).phase ≠ .disabled) : wakePort p s = driveDue p s := by
  rw [wakePort, if_neg]
  rw [Bool.and_eq_true, beq_iff_eq]
  exact fun hd => h hd.1

/-! ### What drives a lane (R268) -/

theorem mayDrive_eq_false_iff {s : State} {p : Port} : mayDrive s p = false ↔
    (pllOf s (portPll p)).phase ≠ .locked ∨ s.now.real < (getPort s p).quietTill := by
  rw [mayDrive, Bool.and_eq_false_iff, beq_eq_false_iff_ne, decide_eq_false_iff_not, Nat.not_le]

theorem laneDrive_of_quiet {s : State} {p : Port} (h : mayDrive s p = false) (l : Nat) : laneDrive s p l = .off := by
  simp only [laneDrive, h, Bool.not_false, Bool.or_true, if_true]

theorem arbitrate_now (s : State) : (arbitrate s).now = s.now := by
  obtain ⟨g, l, n, e, h⟩ := arbitrate_eq s
  rw [h]

theorem relock_now (p : Pll) (s : State) : (relock p s).now = s.now := by
  unfold relock startLock
  extract_lets ran c s1
  have h1 : s1.now = s.now := updPll_now ..
  split
  · split
    · exact h1
    · exact h1
  · exact updPll_now ..

theorem setPortRate_now (p : Port) (s : State) : (setPortRate p s).now = s.now := by
  unfold setPortRate
  extract_lets x w
  split
  · rfl
  · rw [relock_now, updPll_now, updPort_now]

theorem startAttempt_now (p : Port) (fast : Bool) (s : State) : (startAttempt p fast s).now = s.now := by
  unfold startAttempt
  extract_lets +onlyGivenNames s1 x rec0
  rw [arbitrate_now]
  split
  · rw [updPort_now, updPort_now]
  · rw [driveDue_now, setPortRate_now, updPort_now, updPort_now]

theorem turnTransit_now (p : Port) (s : State) : (turnTransit p s).now = s.now := by
  unfold turnTransit
  split
  · rw [updPort_now, updPort_now]
  · rfl

theorem loseHop_now (p : Port) (s : State) : (loseHop p s).now = s.now := by
  have hwrap : ∀ u : State, (wrapPort p u).now = u.now := by
    intro u
    unfold wrapPort setWrap
    split
    · rw [raise_now]
      cases p <;> rfl
    · rfl
  have hmove : ∀ u : State, (moveTransit p u).now = u.now := by
    intro u
    unfold moveTransit
    split
    · rw [turnTransit_now, updPort_now]
    · exact updPort_now ..
  unfold loseHop
  split
  · rfl
  · rw [hmove, hwrap, raise_now, updPort_now]

/-- The quiet time of a port outlasts the start of an attempt. -/
theorem startAttempt_quietTill (p : Port) (fast : Bool) (s : State) :
    (getPort (startAttempt p fast s) p).quietTill = (getPort s p).quietTill := by
  cases h : ((getPort s p).nextCfg.getD (getPort s p).cfg).enable with
  | false => rw [startAttempt_of_off fast h]; rfl
  | true =>
    have hcore := startAttempt_of_on (fast := fast) h rfl
    have hq := congrArg TrunkPort.quietTill hcore
    refine hq.trans ?_
    unfold fromRecord
    split <;> rfl

theorem loseHop_quietTill {p : Port} {s : State} (h : (getPort s p).phase = .up) :
    (getPort (loseHop p s) p).quietTill = s.now.real + 16 * quietNs := by
  unfold loseHop
  rw [if_neg (by rw [h]; decide)]
  extract_lets +onlyGivenNames s1
  rw [moveTransit_field TrunkPort.quietTill (fun _ => rfl), getPort_wrapPort, getPort_raise]
  exact congrArg TrunkPort.quietTill (getPort_updPort ..)

theorem laneDrive_hopDown {p : Port} {s : State} (h : (getPort s p).phase = .up) (l : Nat) : laneDrive (hopDown p s) p l = .off := by
  refine laneDrive_of_quiet (mayDrive_eq_false_iff.2 (.inr ?_)) l
  rw [hopDown, h, if_neg (by decide), startAttempt_quietTill, startAttempt_now, loseHop_quietTill h, loseHop_now, quietNs]
  omega

/-! ### The PRBS of a lane under test (R270) -/

/-- The state of the generator after n steps. -/
def prbsState : Nat → BitVec 31 → BitVec 31
  | 0, h => h
  | n + 1, h => prbsState n (BitVec.ofNat 31 (2 * h.toNat + b2n (bitAt h 30 != bitAt h 27)))

theorem prbs31_succ (n : Nat) (h : BitVec 31) : prbs31 (n + 1) h = (bitAt h 30 != bitAt h 27) ::
    prbs31 n (BitVec.ofNat 31 (2 * h.toNat + b2n (bitAt h 30 != bitAt h 27))) := rfl

/-- A step of the generator shifts its state up and brings the new bit in below. -/
theorem bitAt_prbsStep (h : BitVec 31) (b : Bool) (j : Nat) (hj : j < 31) :
    bitAt (BitVec.ofNat 31 (2 * h.toNat + b2n b)) j = if j = 0 then b else bitAt h (j - 1) := by
  have hb : 2 * h.toNat + b2n b = Nat.bit b h.toNat := by
    cases b <;> simp [b2n, Nat.bit_val]
  rw [hb, bitAt, BitVec.getLsbD_ofNat, decide_eq_true hj, Bool.true_and]
  cases j with
  | zero => rw [Nat.testBit_bit_zero, if_pos rfl]
  | succ j =>
    rw [Nat.testBit_bit_succ, if_neg (Nat.succ_ne_zero j), Nat.succ_sub_one]
    rfl

/-- The bits of the generator's state after n steps are the last bits it put out. -/
theorem prbs31_getD {n k : Nat} (h : BitVec 31) (hk : k < n) :
    (prbs31 n h).getD k false = (bitAt (prbsState k h) 30 != bitAt (prbsState k h) 27) := by
  induction k generalizing n h with
  | zero =>
    obtain ⟨n, rfl⟩ := Nat.exists_eq_succ_of_ne_zero hk.ne'
    rfl
  | succ k ih =>
    obtain ⟨n, rfl⟩ := Nat.exists_eq_succ_of_ne_zero (Nat.ne_zero_of_lt hk)
    rw [prbs31_succ, List.getD_cons_succ, ih _ (Nat.lt_of_succ_lt_succ hk)]
    rfl

theorem prbsState_succ (k : Nat) (h : BitVec 31) : prbsState (k + 1) h =
    BitVec.ofNat 31 (2 * (prbsState k h).toNat + b2n (bitAt (prbsState k h) 30 != bitAt (prbsState k h) 27)) := by
  induction k generalizing h with
  | zero => rfl
  | succ k ih => exact ih _

/-- Bit j of the state after i + j + 1 steps is what step i put out. -/
theorem bitAt_prbsState {j : Nat} (i : Nat) (h : BitVec 31) (hj : j < 31) :
    bitAt (prbsState (i + j + 1) h) j = (bitAt (prbsState i h) 30 != bitAt (prbsState i h) 27) := by
  induction j with
  | zero => rw [prbsState_succ, bitAt_prbsStep _ _ _ hj, if_pos rfl]
  | succ j ih =>
    rw [prbsState_succ, bitAt_prbsStep _ _ _ hj, if_neg (Nat.succ_ne_zero j), Nat.succ_sub_one]
    exact ih (Nat.lt_of_succ_lt hj)

theorem prbs31_recurrence (n : Nat) (h : BitVec 31) (i : Nat) (hi : i + 31 < n) : (prbs31 n h).getD (i + 31) false =
    ((prbs31 n h).getD i false != (prbs31 n h).getD (i + 3) false) := by
  rw [prbs31_getD h hi, prbs31_getD h (by omega), prbs31_getD h (by omega), ← bitAt_prbsState (j := 30) i h (by decide),
    ← bitAt_prbsState (j := 27) (i + 3) h (by decide)]

/-! ### The lane scrambler (R270) -/

/-- The bits in the shift register of a lane behind those already sent. -/
def scramblerBits (x o : Nat) : Nat := x + o * 2 ^ 58

theorem testBit_scramblerBits {x : Nat} (o i : Nat) (hx : x < 2 ^ 58) :
    (scramblerBits x o).testBit i = if i < 58 then x.testBit i else o.testBit (i - 58) := by
  rw [scramblerBits, Nat.add_comm, Nat.mul_comm, Nat.testBit_two_pow_mul_add o hx]

theorem descramble_scramble (h : BitVec 58) (d : BitVec 64) : descramble h (scramble h d).1 = (d, (scramble h d).2) := by
  have hx := h.isLt
  unfold scramble descramble
  extract_lets x first y o z
  have ho : (BitVec.ofNat 64 o).toNat = o := by
    rw [BitVec.toNat_ofNat]
    exact Nat.mod_eq_of_lt (Nat.mod_lt _ (Nat.two_pow_pos 64))
  have hbit : ∀ i < 64, o.testBit i = ((d.toNat.testBit i ^^ y.testBit (i + 19)) ^^ y.testBit i) := by
    intro i hi
    rw [show o = (d.toNat ^^^ (y / 2 ^ 19) ^^^ y) % 2 ^ 64 from rfl, Nat.testBit_mod_two_pow, decide_eq_true hi, Bool.true_and,
      Nat.testBit_xor, Nat.testBit_xor, Nat.testBit_div_two_pow]
  have hy : ∀ i, y.testBit i = if i < 58 then x.testBit i else first.testBit (i - 58) := fun i => testBit_scramblerBits first i hx
  have hfirst : ∀ i < 39, first.testBit i = o.testBit i := by
    intro i hi
    rw [hbit i (by omega), hy, hy, if_pos (by omega), if_pos (by omega),
      show first = (d.toNat ^^^ (x / 2 ^ 19) ^^^ x) % 2 ^ 39 from rfl, Nat.testBit_mod_two_pow, decide_eq_true hi, Bool.true_and,
      Nat.testBit_xor, Nat.testBit_xor, Nat.testBit_div_two_pow]
  have hz : ∀ i < 97, z.testBit i = y.testBit i := by
    intro i hi
    rw [show z = scramblerBits x (BitVec.ofNat 64 o).toNat from rfl, ho, testBit_scramblerBits o i hx, hy]
    split
    · rfl
    · exact (hfirst _ (by omega)).symm
  refine Prod.ext (BitVec.eq_of_getLsbD_eq fun i hi => ?_) (by rw [ho])
  rw [ho, BitVec.getLsbD_ofNat, decide_eq_true hi, Bool.true_and, Nat.testBit_xor, Nat.testBit_xor, Nat.testBit_div_two_pow,
    hbit i hi, hz _ (by omega), hz _ (by omega), BitVec.getLsbD]
  cases d.toNat.testBit i <;> cases y.testBit (i + 19) <;> cases y.testBit i <;> rfl

/-! ### Signals and stages of bring-up (R268–R271) -/

/-- An event of a port before the trunk lives, without a source of waking. -/
theorem trunk_events_of_dead {t : Instant} {pt : Port} {lane : Fin 4} {present : Bool} {s : State} (h : trunkLive s = false)
    (hw : present = false ∨ bitAt s.power.wakePorts (portNo pt) = false) :
    exec (.signalDetect t pt lane present) s = .next (setNow t s) ∧
    exec (.bringupStageTimeout t pt) s = .next (setNow t s) ∧ exec (.laneLoss t pt lane) s = .next (setNow t s) ∧
    exec (.dozeEntry t pt) s = .next (setNow t s) ∧ exec (.replayTimeout t pt) s = .next (setNow t s) := by
  refine ⟨?_, show execBringupStageTimeout t pt s = _ from portEvent_of_dead h,
    show execLaneLoss t pt lane s = _ from portEvent_of_dead h, show execDozeEntry t pt s = _ from portEvent_of_dead h,
    show execReplayTimeout t pt s = _ from portEvent_of_dead h⟩
  change execSignalDetect t pt lane present s = _
  unfold execSignalDetect
  extract_lets s1 s2
  have h2 : s2 = setNow t s := by
    refine if_neg ?_
    rw [Bool.and_eq_true]
    rintro ⟨hp, hb⟩
    rcases hw with hw | hw
    · exact Bool.false_ne_true (hw.symm.trans hp)
    · exact Bool.false_ne_true (hw.symm.trans hb)
  rw [h2, portEvent_of_dead (show trunkLive (setNow t s) = false from h), setNow_setNow]

section
variable {t : Instant} {pt : Port} {s : State} (hlive : trunkLive s = true)
include hlive

theorem exec_signalDetect_present {lane : Fin 4} (hph : (getPort s pt).phase = .detect) (hdoze : (getPort s pt).rxDoze = false)
    (hwake : bitAt s.power.wakePorts (portNo pt) = false) : exec (.signalDetect t pt lane true) s =
      .next (driveDue pt (updPort (setNow t s) pt (updLane lane.val fun l => { l with detect := true }))) := by
  have hport : getPort (updPort (setNow t s) pt (updLane lane.val fun l => { l with detect := true })) pt =
      updLane lane.val (fun l => { l with detect := true }) (getPort s pt) := by
    rw [getPort_updPort, getPort_setNow]
  have hdrive := wakePort_of_phase (p := pt) (s := updPort (setNow t s) pt (updLane lane.val fun l => { l with detect := true }))
    (by rw [hport, show (updLane lane.val _ (getPort s pt)).phase = (getPort s pt).phase from rfl, hph]; decide)
  have hrx : (getPort (driveDue pt (updPort (setNow t s) pt (updLane lane.val fun l => { l with detect := true }))) pt).rxDoze =
      false := by
    rw [driveDue_field TrunkPort.rxDoze (fun _ => rfl), hport]
    exact hdoze
  change execSignalDetect t pt lane true s = _
  unfold execSignalDetect
  extract_lets s1 s2
  have h2 : s2 = setNow t s := if_neg (by rw [Bool.true_and]; exact Bool.eq_false_iff.1 hwake)
  rw [h2, portEvent_of_live (show trunkLive (setNow t s) = true from hlive), setNow_setNow]
  simp only [hdrive, hrx, Bool.and_false, Bool.not_true, Bool.false_and, Bool.false_eq_true, if_false]

theorem exec_signalDetect_absent {lane : Fin 4} {u : State}
    (hu : u = driveDue pt (updPort (setNow t s) pt (updLane lane.val fun l => { l with detect := false })))
    (hph : (getPort s pt).phase ≠ .disabled) : exec (.signalDetect t pt lane false) s =
      .next (if (2 ≤ stageNo (getPort s pt).phase && stageNo (getPort s pt).phase ≤ 7 && (getPort s pt).phase != .rateIdle &&
          (usableLanes (getPort u pt)).length < lanesOf (getPort s pt).cfg.minWidth) = true then failAttempt pt 3 u
        else if (getPort s pt).phase = .up then signalGone pt lane.val u else u) := by
  have hport : getPort (updPort (setNow t s) pt (updLane lane.val fun l => { l with detect := false })) pt =
      updLane lane.val (fun l => { l with detect := false }) (getPort s pt) := by
    rw [getPort_updPort, getPort_setNow]
  have hdrive := wakePort_of_phase (p := pt) (s := updPort (setNow t s) pt (updLane lane.val fun l => { l with detect := false }))
    (by rw [hport]; exact hph)
  have hphase : (getPort u pt).phase = (getPort s pt).phase := by
    rw [hu, driveDue_field TrunkPort.phase (fun _ => rfl), hport]
    rfl
  have hcfg : (getPort u pt).cfg = (getPort s pt).cfg := by
    rw [hu, driveDue_field TrunkPort.cfg (fun _ => rfl), hport]
    rfl
  change execSignalDetect t pt lane false s = _
  unfold execSignalDetect
  extract_lets s1 s2
  have h2 : s2 = setNow t s := if_neg Bool.false_ne_true
  rw [h2, portEvent_of_live (show trunkLive (setNow t s) = true from hlive), setNow_setNow]
  simp only [hdrive, ← hu, hphase, hcfg, Bool.false_and, Bool.false_eq_true, if_false, Bool.not_false, Bool.true_and, beq_iff_eq]

/-- The end of a stage other than the recovery of clocks and blocks finds the port after its due announcement. -/
theorem exec_stageComplete_detect {lanes : BitVec 4} {eyes : List EyeOpening} (hph : (getPort s pt).phase = .detect)
    (hwidth : lanesOf (getPort s pt).cfg.minWidth ≤ (usableLanes (getPort s pt)).length) :
    exec (.bringupStageComplete t pt lanes eyes) s =
      .next (updPort (updPort (driveDue pt (setNow t s)) pt fun x => { x with attemptAt := (setNow t s).now.real }) pt
        (enterStage .cdr (setNow t s).now.real)) := by
  have hdrive : wakePort pt (setNow t s) = driveDue pt (setNow t s) := wakePort_of_phase (by rw [getPort_setNow, hph]; decide)
  have hphase : (getPort (driveDue pt (setNow t s)) pt).phase = .detect := by
    rw [driveDue_field TrunkPort.phase (fun _ => rfl), getPort_setNow, hph]
  have hok : ¬ (usableLanes (getPort (driveDue pt (setNow t s)) pt)).length <
      lanesOf (getPort (driveDue pt (setNow t s)) pt).cfg.minWidth := by
    rw [driveDue_field usableLanes usableLanes_portCore, driveDue_field TrunkPort.cfg (fun _ => rfl), getPort_setNow]
    exact Nat.not_lt.2 hwidth
  change execBringupStageComplete t pt lanes eyes s = _
  rw [execBringupStageComplete, portEvent_of_live hlive]
  simp only [hdrive, hphase, beq_iff_eq, Bool.or_eq_true, reduceCtorEq, or_self, if_false, hok, updPort_now, driveDue_now]

section
variable {lanes : BitVec 4} {eyes : List EyeOpening}

/-- In the recovery of clocks and blocks the stage's end first notes which lanes are locked. -/
theorem exec_stageComplete_recovery {u : State} (hu : u = updPort (driveDue pt (setNow t s)) pt (fun x =>
      { x with lanes := x.lanes.zipIdx.map fun l => { l.1 with locked := bitAt lanes l.2 } })) :
    ((getPort s pt).phase = .cdr → exec (.bringupStageComplete t pt lanes eyes) s =
      .next (if (pllOf s (portPll pt)).phase = .locked ∧ covers lanes (getPort s pt) = true
        then updPort u pt (enterStage .block u.now.real) else u)) ∧
    ((getPort s pt).phase = .block → exec (.bringupStageComplete t pt lanes eyes) s =
      .next (if covers lanes (getPort s pt) then updPort u pt (enterStage .polarity u.now.real) else u)) := by
  have hlanes : ∀ (x : TrunkPort) (l : Nat),
      laneAt { x with lanes := x.lanes.zipIdx.map fun l => { l.1 with locked := bitAt lanes l.2 } } l =
        if l < x.lanes.length then { laneAt x l with locked := bitAt lanes l } else laneAt x l := by
    intro x l
    simp only [laneAt, List.getD_eq_getElem?_getD, List.getElem?_map, List.getElem?_zipIdx, Nat.zero_add]
    split
    · next h =>
      rw [List.getElem?_eq_getElem h]
      rfl
    · next h =>
      rw [List.getElem?_eq_none (Nat.not_lt.1 h)]
      rfl
  have hcovers : covers lanes (getPort u pt) = covers lanes (getPort s pt) := by
    have husable : usableLanes (getPort u pt) = usableLanes (getPort s pt) := by
      rw [hu, getPort_updPort, ← getPort_setNow pt t s, ← driveDue_field usableLanes usableLanes_portCore pt pt (setNow t s)]
      unfold usableLanes
      simp only [hlanes]
      refine List.filter_congr fun l _ => ?_
      split <;> rfl
    rw [covers, covers, husable]
  have hphase : (getPort u pt).phase = (getPort s pt).phase := by
    rw [hu, getPort_updPort, ← getPort_setNow pt t s, ← driveDue_field TrunkPort.phase (fun _ => rfl) pt pt (setNow t s)]
  have hpll : pllOf u (portPll pt) = pllOf s (portPll pt) := by
    refine pllOf_of_clock ?_ _
    rw [hu, updPort_clock, driveDue_clock]
    rfl
  constructor
  · intro hph
    have hdrive : wakePort pt (setNow t s) = driveDue pt (setNow t s) := wakePort_of_phase (by rw [getPort_setNow, hph]; decide)
    have hd : (getPort (driveDue pt (setNow t s)) pt).phase = .cdr := by
      rw [driveDue_field TrunkPort.phase (fun _ => rfl), getPort_setNow, hph]
    change execBringupStageComplete t pt lanes eyes s = _
    rw [execBringupStageComplete, portEvent_of_live hlive]
    simp only [hdrive, hd, beq_self_eq_true, Bool.true_or, if_true, ← hu, hphase.trans hph, hpll, hcovers, Bool.and_eq_true, beq_iff_eq]
  · intro hph
    have hdrive : wakePort pt (setNow t s) = driveDue pt (setNow t s) := wakePort_of_phase (by rw [getPort_setNow, hph]; decide)
    have hd : (getPort (driveDue pt (setNow t s)) pt).phase = .block := by
      rw [driveDue_field TrunkPort.phase (fun _ => rfl), getPort_setNow, hph]
    change execBringupStageComplete t pt lanes eyes s = _
    rw [execBringupStageComplete, portEvent_of_live hlive]
    simp only [hdrive, hd, beq_self_eq_true, Bool.or_true, if_true, ← hu, hphase.trans hph, hcovers]

theorem exec_stageComplete_polarity (hph : (getPort s pt).phase = .polarity)
    (hmarks : ∀ l ∈ usableLanes (getPort s pt), 2 ≤ (laneAt (getPort s pt) l).marks) :
    exec (.bringupStageComplete t pt lanes eyes) s =
      .next (updPort (driveDue pt (setNow t s)) pt (enterStage .deskew (setNow t s).now.real)) := by
  have hdrive : wakePort pt (setNow t s) = driveDue pt (setNow t s) := wakePort_of_phase (by rw [getPort_setNow, hph]; decide)
  have hphase : (getPort (driveDue pt (setNow t s)) pt).phase = .polarity := by
    rw [driveDue_field TrunkPort.phase (fun _ => rfl), getPort_setNow, hph]
  have hall : ((usableLanes (getPort (driveDue pt (setNow t s)) pt)).all fun l =>
      decide (2 ≤ (laneAt (getPort (driveDue pt (setNow t s)) pt) l).marks)) = true := by
    rw [driveDue_field usableLanes usableLanes_portCore, getPort_setNow, List.all_eq_true]
    intro l hl
    rw [driveDue_field (fun x => (laneAt x l).marks) (fun x => by rw [laneAt_portCore]; rfl), getPort_setNow]
    exact decide_eq_true (hmarks l hl)
  change execBringupStageComplete t pt lanes eyes s = _
  rw [execBringupStageComplete, portEvent_of_live hlive]
  simp only [hdrive, hphase, beq_iff_eq, Bool.or_eq_true, reduceCtorEq, or_self, if_false, hall, if_true, driveDue_now]

theorem exec_stageComplete_deskew {q : Byte} (hph : (getPort s pt).phase = .deskew)
    (hseq : ∀ l ∈ usableLanes (getPort s pt), (laneAt (getPort s pt) l).markSeq = q) :
    (deskewFault (getPort s pt) = none → exec (.bringupStageComplete t pt lanes eyes) s =
      .next (updPort (driveDue pt (setNow t s)) pt (enterStage .adapt (setNow t s).now.real))) ∧
    (∀ r, deskewFault (getPort s pt) = some r →
      exec (.bringupStageComplete t pt lanes eyes) s = .next (failAttempt pt r (driveDue pt (setNow t s)))) := by
  have hdrive : wakePort pt (setNow t s) = driveDue pt (setNow t s) := wakePort_of_phase (by rw [getPort_setNow, hph]; decide)
  have hphase : (getPort (driveDue pt (setNow t s)) pt).phase = .deskew := by
    rw [driveDue_field TrunkPort.phase (fun _ => rfl), getPort_setNow, hph]
  have hfault : deskewFault (getPort (driveDue pt (setNow t s)) pt) = deskewFault (getPort s pt) := by
    rw [driveDue_field deskewFault deskewFault_portCore, getPort_setNow]
  have hseqs : ((usableLanes (getPort (driveDue pt (setNow t s)) pt)).map fun l =>
      (laneAt (getPort (driveDue pt (setNow t s)) pt) l).markSeq) = List.replicate (usableLanes (getPort s pt)).length q := by
    rw [driveDue_field usableLanes usableLanes_portCore, getPort_setNow, List.eq_replicate_iff, List.length_map]
    refine ⟨rfl, fun b hb => ?_⟩
    obtain ⟨l, hl, rfl⟩ := List.mem_map.1 hb
    rw [driveDue_field (fun x => (laneAt x l).markSeq) (fun x => by rw [laneAt_portCore]; rfl), getPort_setNow]
    exact hseq l hl
  have hall : ∀ n, ((List.replicate n q).all fun x => x == (List.replicate n q).headD 0) = true := by
    intro n
    cases n with
    | zero => rfl
    | succ n =>
      rw [List.all_eq_true]
      intro x hx
      rw [List.eq_of_mem_replicate hx]
      exact beq_self_eq_true q
  constructor
  · intro hf
    change execBringupStageComplete t pt lanes eyes s = _
    rw [execBringupStageComplete, portEvent_of_live hlive]
    simp only [hdrive, hphase, beq_iff_eq, Bool.or_eq_true, reduceCtorEq, or_self, if_false, hseqs, hall, Bool.not_true,
      Bool.false_eq_true, hfault, hf, driveDue_now]
  · intro r hf
    change execBringupStageComplete t pt lanes eyes s = _
    rw [execBringupStageComplete, portEvent_of_live hlive]
    simp only [hdrive, hphase, beq_iff_eq, Bool.or_eq_true, reduceCtorEq, or_self, if_false, hseqs, hall, Bool.not_true,
      Bool.false_eq_true, hfault, hf]

theorem exec_stageComplete_adapt (hph : (getPort s pt).phase = .adapt)
    (htime : passed (setNow t s) (getPort s pt).stageAt 256000 = true) :
    exec (.bringupStageComplete t pt lanes eyes) s = .next (adaptDone pt eyes (driveDue pt (setNow t s))) := by
  have hdrive : wakePort pt (setNow t s) = driveDue pt (setNow t s) := wakePort_of_phase (by rw [getPort_setNow, hph]; decide)
  have hphase : (getPort (driveDue pt (setNow t s)) pt).phase = .adapt := by
    rw [driveDue_field TrunkPort.phase (fun _ => rfl), getPort_setNow, hph]
  have hpassed : passed (driveDue pt (setNow t s)) (getPort (driveDue pt (setNow t s)) pt).stageAt 256000 = true := by
    rw [driveDue_field TrunkPort.stageAt (fun _ => rfl), getPort_setNow, passed, driveDue_now]
    exact htime
  change execBringupStageComplete t pt lanes eyes s = _
  rw [execBringupStageComplete, portEvent_of_live hlive]
  simp only [hdrive, hphase, beq_iff_eq, Bool.or_eq_true, reduceCtorEq, or_self, if_false, hpassed, if_true]

theorem exec_stageComplete_caps {c : BitVec 64} (hph : (getPort s pt).phase = .caps) (hc : (getPort s pt).partnerCaps = some c)
    (hseen : 3 ≤ (getPort s pt).capsSeen) (hready : (getPort s pt).ready = true) :
    exec (.bringupStageComplete t pt lanes eyes) s = .next (resolveCaps pt c (driveDue pt (setNow t s))) := by
  have hdrive : wakePort pt (setNow t s) = driveDue pt (setNow t s) := wakePort_of_phase (by rw [getPort_setNow, hph]; decide)
  have hphase : (getPort (driveDue pt (setNow t s)) pt).phase = .caps := by
    rw [driveDue_field TrunkPort.phase (fun _ => rfl), getPort_setNow, hph]
  have hcaps : (getPort (driveDue pt (setNow t s)) pt).partnerCaps = some c := by
    rw [driveDue_field TrunkPort.partnerCaps (fun _ => rfl), getPort_setNow, hc]
  have hseen' : 3 ≤ (getPort (driveDue pt (setNow t s)) pt).capsSeen := by
    rw [driveDue_field TrunkPort.capsSeen (fun _ => rfl), getPort_setNow]
    exact hseen
  have hready' : (getPort (driveDue pt (setNow t s)) pt).ready = true := by
    rw [driveDue_field TrunkPort.ready (fun _ => rfl), getPort_setNow]
    exact hready
  change execBringupStageComplete t pt lanes eyes s = _
  rw [execBringupStageComplete, portEvent_of_live hlive]
  simp only [hdrive, hphase, beq_iff_eq, Bool.or_eq_true, reduceCtorEq, or_self, if_false, hcaps, decide_eq_true hseen', hready',
    Bool.and_self, if_true]

end

/-! ### Timeouts, backoff and rate switches (R271–R274) -/

theorem exec_stageTimeout {ns : Nat} (h : stageLimit (getPort s pt) = some ns) : exec (.bringupStageTimeout t pt) s =
    .next (if passed (setNow t s) (getPort s pt).stageAt ns
      then failAttempt pt (timeoutReason (setNow t s) pt) (setNow t s) else setNow t s) := by
  change execBringupStageTimeout t pt s = _
  rw [execBringupStageTimeout, portEvent_of_live hlive]
  simp only [getPort_setNow, h]

theorem exec_backoffEnd (h : (getPort s pt).phase = .backoff) : exec (.bringupBackoffEnd t pt) s =
    .next (if (getPort s pt).backoffTo ≤ (setNow t s).now.real then startAttempt pt true (setNow t s) else setNow t s) := by
  change execBringupBackoffEnd t pt s = _
  rw [execBringupBackoffEnd, portEvent_of_live hlive]
  simp only [getPort_setNow, h, beq_self_eq_true, Bool.true_and, decide_eq_true_eq]

theorem exec_rateIdleEnd (h : (getPort s pt).phase = .rateIdle) (htime : passed (setNow t s) (getPort s pt).stageAt 10000 = true) :
    exec (.rateSwitchIdleEnd t pt) s = .next (driveDue pt (setPortRate pt (updPort (setNow t s) pt fun x =>
      { freshAttempt (setNow t s).now.real false x.rate x with high := true }))) := by
  change execRateSwitchIdleEnd t pt s = _
  rw [execRateSwitchIdleEnd, portEvent_of_live hlive]
  simp only [getPort_setNow, h, beq_self_eq_true, Bool.true_and, htime, if_true]

end

theorem exec_rateIdle_early {t : Instant} {pt : Port} {s : State} (h : (getPort s pt).phase = .rateIdle)
    (htime : passed (setNow t s) (getPort s pt).stageAt 10000 = false) : exec (.rateSwitchIdleEnd t pt) s = .next (setNow t s) := by
  change execRateSwitchIdleEnd t pt s = _
  cases hlive : trunkLive s with
  | false => exact portEvent_of_dead hlive
  | true =>
    rw [execRateSwitchIdleEnd, portEvent_of_live hlive]
    simp only [getPort_setNow, h, beq_self_eq_true, Bool.true_and, htime, Bool.false_eq_true, if_false]

section
variable {pt : Port} {r : Nat} {s : State}

theorem failAttempt_of_first (hfast : (getPort s pt).fast = false) (hhigh : (getPort s pt).high = false) : ∃ k ≤ 100,
    failAttempt pt r s = raise 0x0503 (portNo pt) (16 * stageNo (getPort s pt).phase + r) 0
      (updPort { s with free := s.free + 1 } pt fun x => { x with
        phase := .backoff
        stageAt := s.now.real
        backoffTo := s.now.real + 16 * (1000000 + 10000 * k)
        failStage := BitVec.ofNat 4 (stageNo (getPort s pt).phase)
        failReason := BitVec.ofNat 4 r }) := by
  refine ⟨(Config.freeWord s.free).toNat % 101, Nat.le_of_lt_succ (Nat.mod_lt _ (by decide)), ?_⟩
  unfold failAttempt
  extract_lets x stage
  rw [show x.fast = false from hfast, show x.high = false from hhigh, if_neg Bool.false_ne_true, if_neg Bool.false_ne_true]
  rfl

theorem failAttempt_of_fast (h : (getPort s pt).fast = true) : failAttempt pt r s = startAttempt pt false s := by
  unfold failAttempt
  extract_lets x stage
  exact if_pos h

theorem failAttempt_of_high (hfast : (getPort s pt).fast = false) (hhigh : (getPort s pt).high = true) :
    failAttempt pt r s = startAttempt pt false (raise 0x0504 (portNo pt) (getPort s pt).rate.toNat 0
      (updPort s pt fun x => { x with leftOut := x.leftOut ||| BitVec.ofNat 3 (2 ^ x.rate.toNat) })) := by
  unfold failAttempt
  extract_lets x stage
  rw [show x.fast = false from hfast, if_neg Bool.false_ne_true]
  exact if_pos hhigh

theorem timeoutReason_of_caps (h : (getPort s pt).phase = .caps) : timeoutReason s pt = 1 := by
  unfold timeoutReason
  extract_lets x few
  rw [show x.phase = .caps from h]
  exact if_neg (by simp)

theorem timeoutReason_of_block (h : (getPort s pt).phase = .block)
    (hfew : ((usableLanes (getPort s pt)).filter fun l => (laneAt (getPort s pt) l).locked).length <
      lanesOf (getPort s pt).cfg.minWidth) : timeoutReason s pt = 3 := by
  unfold timeoutReason
  extract_lets x few
  rw [show x.phase = .block from h, show few = true from decide_eq_true hfew]
  rfl

end

theorem fomOf_toNat (h w : Nat) : (fomOf ⟨h, w⟩).toNat = min (min h 255) (min (2 * w) 255) := by
  rw [fomOf, BitVec.toNat_ofNat]
  refine Nat.mod_eq_of_lt ?_
  dsimp only
  omega

/-! ### Adaptation and capabilities (R271, R272) -/

/-- A port with its lanes changed one by one. -/
def mapLanes (set : Nat → LaneState → LaneState) (x : TrunkPort) : TrunkPort :=
  { x with lanes := x.lanes.zipIdx.map fun l => set l.2 l.1 }

theorem laneAt_mapLanes {set : Nat → LaneState → LaneState} {x : TrunkPort} {l : Nat} (h : l < x.lanes.length) :
    laneAt (mapLanes set x) l = set l (laneAt x l) := by
  simp only [mapLanes, laneAt, List.getD_eq_getElem?_getD, List.getElem?_map, List.getElem?_zipIdx, Nat.zero_add,
    List.getElem?_eq_getElem h, Option.map_some, Option.getD_some]

/-- With no eye open enough, adaptation fails, the figures of merit found standing in the lanes. -/
theorem adaptDone_of_closed {pt : Port} {eyes : List EyeOpening} {s : State}
    (hclosed : ∀ l ∈ usableLanes (getPort s pt), (fomOf (eyes.getD l ⟨0, 0⟩)).toNat < (getPort s pt).cfg.fomMin.toNat)
    (hlen : (getPort s pt).lanes.length = 4) :
    ∃ u, adaptDone pt eyes s = failAttempt pt 2 u ∧ ∀ l < 4, (laneAt (getPort u pt) l).fom = fomOf (eyes.getD l ⟨0, 0⟩) := by
  unfold adaptDone
  obtain ⟨w, s1, h1, hs1⟩ : ∃ w s1, takeFree s = (w, s1) ∧ getPort s1 pt = getPort s pt :=
    ⟨_, _, rfl, getPort_of_ports rfl rfl pt⟩
  obtain ⟨d, s2, h2, hs2⟩ : ∃ d s2, takeFree s1 = (d, s2) ∧ getPort s2 pt = getPort s pt :=
    ⟨_, _, rfl, (getPort_of_ports rfl rfl pt).trans hs1⟩
  rw [h1]
  dsimp -zeta only
  rw [h2]
  dsimp -zeta only
  extract_lets +onlyGivenNames set s3 x good sent width
  have hx : x = mapLanes set (getPort s pt) := (getPort_updPort ..).trans (congrArg (mapLanes set) hs2)
  have hlane : ∀ l < 4, laneAt x l = set l (laneAt (getPort s pt) l) := fun l hl => by
    rw [hx, laneAt_mapLanes (hlen ▸ hl)]
  have husable : usableLanes x = usableLanes (getPort s pt) := by
    refine List.filter_congr fun l hl => ?_
    rw [hlane l (List.mem_range.1 hl), hx]
    rfl
  have hfom : ∀ l < 4, (laneAt x l).fom = fomOf (eyes.getD l ⟨0, 0⟩) := fun l hl => by rw [hlane l hl]
  have hgood : good = [] := by
    refine List.filter_eq_nil_iff.2 fun l hl => ?_
    have hmem : l ∈ usableLanes (getPort s pt) := husable ▸ hl
    have h := hclosed l hmem
    rw [← hfom l (List.mem_range.1 (List.mem_filter.1 hmem).1)] at h
    rw [decide_eq_true_eq, Nat.not_le, hx]
    rwa [hx] at h
  refine ⟨s3, if_pos ?_, hfom⟩
  rw [hgood]
  rfl

theorem sendBlocks_ctl (p : Port) (bs : List PortBlock) (s : State) : (sendBlocks p bs s).out.ctl = s.out.ctl := by
  unfold sendBlocks
  extract_lets +onlyGivenNames x r s1
  change s1.out.ctl = _
  exact congrArg Outputs.ctl (updPort_out ..)

theorem sendCtl_ctl (p : Port) (bs : List (BitVec 64)) (s : State) :
    (sendCtl p bs s).out.ctl = s.out.ctl ++ bs.map (⟨p, none, ·⟩) := by
  unfold sendCtl
  extract_lets +onlyGivenNames s1
  exact congrArg (· ++ _) (sendBlocks_ctl ..)

section
variable {pt : Port} {c : BitVec 64} {s : State}

theorem resolveCaps_of_version (h1 : fldN c 8 4 ≠ 1) (h2 : fldN c 8 4 ≠ 2) : resolveCaps pt c s = failAttempt pt 5 s := by
  unfold resolveCaps
  extract_lets x major theirs ok best
  exact if_pos ⟨h1, h2⟩

theorem resolveCaps_of_clocking (hv : fldN c 8 4 = 1 ∨ fldN c 8 4 = 2) (hclk : bitAt c 20 ≠ (getPort s pt).cfg.clocking) :
    resolveCaps pt c s = failAttempt pt 4 s := by
  unfold resolveCaps
  extract_lets x major theirs ok best
  rw [if_neg fun h => hv.elim h.1 h.2]
  exact if_pos (bne_iff_ne.2 hclk)

theorem resolveCaps_of_old (hclk : bitAt c 20 = (getPort s pt).cfg.clocking) (hv : fldN c 8 4 = 1)
    (hw : (getPort s pt).widthRx ≠ 2) : resolveCaps pt c s = failAttempt pt 2 s := by
  unfold resolveCaps
  extract_lets x major theirs ok best
  rw [if_neg fun h => h.1 hv, if_neg fun h => bne_iff_ne.1 h hclk, show major = 1 from hv]
  refine if_pos ?_
  rw [decide_eq_true rfl, Bool.true_and]
  exact bne_iff_ne.2 hw

section
variable (hv : fldN c 8 4 = 2) (hclk : bitAt c 20 = (getPort s pt).cfg.clocking)
include hv hclk

theorem resolveCaps_of_current : resolveCaps pt c s =
    if (getPort s pt).fast then
      (if (getPort s pt).record.map (·.idTag) = some (fld c 48 16) then goUp pt s else failAttempt pt 1 s)
    else if (getPort s pt).high = true ∨ (((List.range 3).filter fun r =>
        bitAt (BitVec.ofNat 3 (ownRates (getPort s pt))) r && bitAt (BitVec.ofNat 3 (fldN c 16 3)) r).foldl max 0) ≤
          (getPort s pt).rate.toNat then goUp pt s
    else updPort (sendCtl pt (List.replicate 8 (ownCaps s pt)) s) pt fun x =>
      { enterStage .rateIdle s.now.real x with rate := BitVec.ofNat 2 (((List.range 3).filter fun r =>
        bitAt (BitVec.ofNat 3 (ownRates (getPort s pt))) r && bitAt (BitVec.ofNat 3 (fldN c 16 3)) r).foldl max 0) } := by
  unfold resolveCaps
  extract_lets x major theirs ok best
  have hold : ¬ (major = 1 && x.widthRx != 2) = true := by
    rw [show major = 2 from hv, Bool.and_eq_true, decide_eq_true_eq]
    exact fun h => absurd h.1 (by decide)
  rw [if_neg fun h => h.2 hv, if_neg fun h => bne_iff_ne.1 h hclk, if_neg hold]
  simp only [beq_iff_eq, Bool.or_eq_true, decide_eq_true_eq]
  rfl

theorem resolveCaps_of_fast (h : (getPort s pt).fast = true) : resolveCaps pt c s =
    if (getPort s pt).record.map (·.idTag) = some (fld c 48 16) then goUp pt s else failAttempt pt 1 s := by
  rw [resolveCaps_of_current hv hclk, if_pos h]

theorem resolveCaps_of_high (hf : (getPort s pt).fast = false) (h : (getPort s pt).high = true) :
    resolveCaps pt c s = goUp pt s := by
  rw [resolveCaps_of_current hv hclk, if_neg (Bool.eq_false_iff.1 hf), if_pos (.inl h)]

/-- A port that may go to the highest rate sends its capabilities eight times and idles at the new rate. -/
theorem resolveCaps_of_rate (hf : (getPort s pt).fast = false) (hh : (getPort s pt).high = false)
    (hrate : (getPort s pt).rate = 0) (hmax : (getPort s pt).cfg.rateMax = 2) (hleft : (getPort s pt).leftOut = 0)
    (htheirs : bitAt c 18 = true) : (getPort (resolveCaps pt c s) pt).phase = .rateIdle ∧
      (getPort (resolveCaps pt c s) pt).rate = 2 ∧
      (resolveCaps pt c s).out.ctl = s.out.ctl ++ List.replicate 8 ⟨pt, none, ownCaps s pt⟩ := by
  have hown : ownRates (getPort s pt) = 7 := by
    rw [ownRates, hmax, hleft]
    rfl
  have hthird : bitAt (BitVec.ofNat 3 (fldN c 16 3)) 2 = true := by
    rw [bitAt_iff, BitVec.toNat_ofNat, fldN, toNat_fld]
    rw [bitAt_iff] at htheirs
    omega
  have hbest : (((List.range 3).filter fun r =>
      bitAt (BitVec.ofNat 3 (ownRates (getPort s pt))) r && bitAt (BitVec.ofNat 3 (fldN c 16 3)) r).foldl max 0) = 2 := by
    rw [hown, show List.range 3 = [0, 1, 2] from rfl]
    simp only [List.filter_cons, hthird, List.filter_nil]
    cases bitAt (BitVec.ofNat 3 (fldN c 16 3)) 0 <;> cases bitAt (BitVec.ofNat 3 (fldN c 16 3)) 1 <;> rfl
  have hnot : ¬ ((getPort s pt).high = true ∨ 2 ≤ (getPort s pt).rate.toNat) := by
    rw [hh, hrate]
    decide
  rw [resolveCaps_of_current hv hclk, if_neg (Bool.eq_false_iff.1 hf), hbest, if_neg hnot, getPort_updPort, updPort_out]
  refine ⟨rfl, rfl, ?_⟩
  rw [sendCtl_ctl, List.map_replicate]

end

end

/-! ### A port that comes up (R273) -/

theorem getPort_sendProbe (s : State) (q : Port) : getPort (sendProbe s) q = getPort s q := by
  unfold sendProbe
  extract_lets +onlyGivenNames a
  cases q <;> rfl

/-- What a port keeps of itself when it takes part in the ring: all but the time of its last DELAY_REQ. -/
theorem getPort_ringHopUp {β : Type} (π : TrunkPort → β) (hπ : ∀ x n, π { x with delayAt := n } = π x) (p q : Port) (s : State) :
    π (getPort (ringHopUp p s) q) = π (getPort s q) := by
  have hdelay : ∀ u : State, π (getPort (sendDelayReq p u) q) = π (getPort u q) := by
    intro u
    unfold sendDelayReq
    extract_lets t1 u1
    exact (congrArg π (getPort_of_ports (s := u1) rfl rfl q)).trans (getPort_updPort_of_kept π (hπ ..) q)
  have hlast : ∀ u : State, getPort u q = getPort s q → π (getPort (let s := if wrapsAt u p then sendWrap p false u else u
      let s := sendDelayReq p s
      if s.ring.addrPhase == .confirmed || s.ring.collided then s else sendProbe s) q) = π (getPort s q) := by
    intro u hu
    extract_lets s3 s4
    have h3 : getPort s3 q = getPort s q := by
      refine Eq.trans ?_ hu
      change getPort (if wrapsAt u p then sendWrap p false u else u) q = _
      split
      · exact getPort_of_ports rfl rfl q
      · rfl
    have h4 : π (getPort s4 q) = π (getPort s q) := (hdelay s3).trans (congrArg π h3)
    split
    · exact h4
    · rw [getPort_sendProbe, h4]
  unfold ringHopUp
  refine hlast _ ?_
  cases p <;> exact getPort_of_ports rfl rfl q

theorem goUp_field {β : Type} (π : TrunkPort → β) (hπ : ∀ x n, π { x with delayAt := n } = π x) (p : Port) (s : State) :
    π (getPort (goUp p s) p) = π { getPort s p with
      phase := .up, lanes := retrainRest (getPort s p), bringups := satInc (getPort s p).bringups, leftOut := 0, fast := false
      high := false, record := some ⟨(getPort s p).partnerTag, (getPort s p).rate, (getPort s p).lanes⟩
      positions := 0, ackAt := 0, ownP1 := none, epochTx := 0, epochRx := 0, idleSince := none, elastic := 8, dealt := 0 } := by
  unfold goUp
  extract_lets +onlyGivenNames s1 x
  rw [getPort_arbitrate, getPort_ringHopUp π hπ, getPort_raise]
  exact congrArg π (getPort_updPort ..)

theorem goUp_spec (p : Port) (s : State) (l : Nat) : (getPort (goUp p s) p).phase = .up ∧ (getPort (goUp p s) p).positions = 0 ∧
    (getPort (goUp p s) p).leftOut = 0 ∧ (getPort (goUp p s) p).bringups = satInc (getPort s p).bringups ∧
    (getPort (goUp p s) p).record = some ⟨(getPort s p).partnerTag, (getPort s p).rate, (getPort s p).lanes⟩ ∧
    ((getPort s p).lanes.length = 4 → l < 4 → bitAt (getPort s p).lanesRx l = false →
      (laneAt (getPort (goUp p s) p) l).train = 2) := by
  refine ⟨goUp_field TrunkPort.phase (fun _ _ => rfl) p s, goUp_field TrunkPort.positions (fun _ _ => rfl) p s,
    goUp_field TrunkPort.leftOut (fun _ _ => rfl) p s, goUp_field TrunkPort.bringups (fun _ _ => rfl) p s,
    goUp_field TrunkPort.record (fun _ _ => rfl) p s, fun hlen hl hrx => ?_⟩
  rw [goUp_field (fun x => (laneAt x l).train) (fun _ _ => rfl) p s]
  simp only [laneAt, retrainRest, List.getD_eq_getElem?_getD, List.getElem?_map, List.getElem?_zipIdx, Nat.zero_add,
    List.getElem?_eq_getElem (hlen ▸ hl : l < (getPort s p).lanes.length), Option.map_some, Option.getD_some, hrx,
    Bool.false_eq_true, if_false]

/-! ### Fillers and markers (R266, R269) -/

/-- What one FILLER does to the elastic buffer of a port. -/
def drifted (d : Int) (x : TrunkPort) : TrunkPort :=
  if x.elastic + d < 0 ∨ 16 < x.elastic + d then { x with ebSlip := satInc x.ebSlip, elastic := 8, slipped := x.phase == .up }
  else if 12 < x.elastic + d then { x with elastic := x.elastic + d - 1 }
  else if x.elastic + d < 4 then { x with elastic := x.elastic + d + 1 }
  else { x with elastic := x.elastic + d }

section
variable {t : Instant} {pt : Port} {s : State} (hlive : trunkLive s = true)
include hlive

theorem exec_filler_of_trained {d : Int} (h : 4 ≤ stageNo (getPort s pt).phase) :
    exec (.filler t pt d) s = .next (updPort (setNow t s) pt (drifted d)) := by
  change execFiller t pt d s = _
  rw [execFiller, portEvent_of_live hlive, getPort_setNow, if_neg (Nat.not_lt.2 h)]
  refine congrArg (fun f => Host.Outcome.next (updPort (setNow t s) pt f)) (funext fun x => ?_)
  rw [drifted]
  simp only [Bool.or_eq_true, decide_eq_true_eq]

theorem exec_filler_spec (d : Int) (h : 4 ≤ stageNo (getPort s pt).phase) : ∃ u, exec (.filler t pt d) s = .next u ∧
    ((getPort s pt).elastic + d < 0 ∨ 16 < (getPort s pt).elastic + d → (getPort u pt).elastic = 8 ∧
      (getPort u pt).ebSlip = satInc (getPort s pt).ebSlip ∧
      ((getPort u pt).slipped = true ↔ (getPort s pt).phase = .up)) ∧
    (4 ≤ (getPort s pt).elastic + d → (getPort s pt).elastic + d ≤ 12 →
      (getPort u pt).elastic = (getPort s pt).elastic + d ∧ (getPort u pt).ebSlip = (getPort s pt).ebSlip) ∧
    (12 < (getPort s pt).elastic + d → (getPort s pt).elastic + d ≤ 16 →
      (getPort u pt).elastic = (getPort s pt).elastic + d - 1) ∧
    (0 ≤ (getPort s pt).elastic + d → (getPort s pt).elastic + d < 4 →
      (getPort u pt).elastic = (getPort s pt).elastic + d + 1) ∧
    { u with west := s.west, east := s.east } = setNow t s := by
  refine ⟨_, exec_filler_of_trained hlive h, ?_⟩
  have hport : getPort (updPort (setNow t s) pt (drifted d)) pt = drifted d (getPort s pt) := by
    rw [getPort_updPort, getPort_setNow]
  rw [hport]
  refine ⟨fun hslip => ?_, fun h4 h12 => ?_, fun h12 h16 => ?_, fun h0 h4 => ?_, by cases pt <;> rfl⟩
  · rw [drifted, if_pos hslip]
    exact ⟨rfl, rfl, beq_iff_eq⟩
  · rw [drifted, if_neg (by omega), if_neg (by omega), if_neg (by omega)]
    exact ⟨rfl, rfl⟩
  · rw [drifted, if_neg (by omega), if_pos h12]
  · rw [drifted, if_neg (by omega), if_neg (by omega), if_pos h4]

omit hlive in
theorem echoCtl_of_service {l : Option Nat} {b : BitVec 64} {u : State} (h : (getPort u pt).phase ≠ .diag) :
    echoCtl pt l b u = u := by
  unfold echoCtl
  extract_lets x on
  exact if_neg fun hc => h (beq_iff_eq.1 (Bool.and_eq_true_iff.1 hc).1)

theorem exec_laneMark_of_none {lane : Fin 4} {b : BitVec 64} (hph : (getPort s pt).phase ≠ .diag) (hb : readMark b = none) :
    exec (.laneMark t pt lane b) s = .next (setNow t s) := by
  change execLaneMark t pt lane b s = _
  rw [execLaneMark, portEvent_of_live hlive]
  simp only [hb, echoCtl_of_service (u := setNow t s) (by rwa [getPort_setNow])]

theorem exec_laneMark_training {lane : Fin 4} {b m : BitVec 64} {inv : Bool} (hb : readMark b = some (inv, m))
    (h4 : 4 ≤ stageNo (getPort s pt).phase) (h7 : stageNo (getPort s pt).phase ≤ 7) :
    exec (.laneMark t pt lane b) s = .next (updPort (setNow t s) pt (updLane lane.val fun l => { l with
      marks := l.marks + 1
      inverted := inv
      txLane := fld m 8 2
      markWidth := fld m 10 2
      markEpoch := fld m 12 4
      markSeq := fld m 16 8
      markAt := (setNow t s).now.real })) := by
  have hdiag : (getPort s pt).phase ≠ .diag := fun h => by rw [h] at h4; exact absurd h4 (by decide)
  have hup : (getPort s pt).phase ≠ .up := fun h => by rw [h] at h7; exact absurd h7 (by decide)
  change execLaneMark t pt lane b s = _
  rw [execLaneMark, portEvent_of_live hlive]
  simp only [hb, echoCtl_of_service (u := setNow t s) (by rwa [getPort_setNow]), getPort_setNow, beq_eq_false_iff_ne.2 hup,
    Bool.false_eq_true, if_false, decide_eq_true h4, decide_eq_true h7, Bool.and_self, if_true]

theorem exec_laneMark_service {lane : Fin 4} {b m : BitVec 64} {inv : Bool} (hb : readMark b = some (inv, m))
    (hph : (getPort s pt).phase = .up) (hrx : bitAt (getPort s pt).lanesRx lane.val = true) :
    exec (.laneMark t pt lane b) s = .next (takeWidth pt (fld m 12 4) (updPort (setNow t s) pt
      (updLane lane.val fun l => { l with
        markWidth := fld m 10 2
        markEpoch := fld m 12 4
        markSeq := fld m 16 8
        markAt := (setNow t s).now.real }))) := by
  change execLaneMark t pt lane b s = _
  rw [execLaneMark, portEvent_of_live hlive]
  simp only [hb, echoCtl_of_service (u := setNow t s) (pt := pt) (by rw [getPort_setNow, hph]; decide), getPort_setNow, hph,
    beq_self_eq_true, if_true, hrx]

theorem exec_laneMark_diag {lane : Fin 4} {b : BitVec 64} (hph : (getPort s pt).phase = .diag)
    (hloop : bitAt (getPort s pt).loopFar lane.val = true) : exec (.laneMark t pt lane b) s =
      .next { setNow t s with out := { s.out with ctl := s.out.ctl ++ [⟨pt, some lane.val, b⟩] } } := by
  have hecho : echoCtl pt (some lane.val) b (setNow t s) =
      { setNow t s with out := { s.out with ctl := s.out.ctl ++ [⟨pt, some lane.val, b⟩] } } := by
    refine if_pos ?_
    rw [getPort_setNow, hph, beq_self_eq_true, Bool.true_and]
    exact hloop
  have hphase : (getPort { setNow t s with out := { s.out with ctl := s.out.ctl ++ [⟨pt, some lane.val, b⟩] } } pt).phase = .diag :=
    (congrArg TrunkPort.phase (getPort_of_ports rfl rfl pt)).trans hph
  change execLaneMark t pt lane b s = _
  rw [execLaneMark, portEvent_of_live hlive]
  simp only [hecho, hphase]
  split
  · rfl
  · rfl

end

theorem readMark_of_mark {b : BitVec 64} (h0 : fldN b 0 8 = 0x4B) (h24 : fldN b 24 40 = 0x5A3C96C3A5) :
    readMark b = some (false, b) ∧ readMark (~~~ b) = some (true, b) := by
  have hnot : fldN (~~~ b) 0 8 ≠ 0x4B := by
    have hb := b.isLt
    rw [fldN, toNat_fld] at h0 ⊢
    rw [BitVec.toNat_not]
    omega
  constructor
  · rw [readMark, h0, h24]
    rfl
  · rw [readMark, if_neg, BitVec.not_not, h0, h24]
    · rfl
    · rw [Bool.and_eq_true, decide_eq_true_eq]
      exact fun h => hnot h.1

theorem markBlock_fields {l : Nat} (hl : l < 4) (w : BitVec 2) (e : BitVec 4) (q : Byte) : ∃ m, markBlock l w e q = m ∧
    readMark m = some (false, m) ∧ fldN m 8 2 = l ∧ fld m 10 2 = w ∧ fld m 12 4 = e ∧ fld m 16 8 = q := by
  have h1 := w.isLt
  have h2 := e.isLt
  have h3 := q.isLt
  have hm : (markBlock l w e q).toNat =
      0x4B + l * 2 ^ 8 + w.toNat * 2 ^ 10 + e.toNat * 2 ^ 12 + q.toNat * 2 ^ 16 + 0x5A3C96C3A5 * 2 ^ 24 := by
    rw [markBlock, mkWord64, BitVec.toNat_ofNat, List.foldl_cons, List.foldl_cons, List.foldl_cons, List.foldl_cons,
      List.foldl_cons, List.foldl_cons, List.foldl_nil]
    norm_num
    omega
  generalize markBlock l w e q = m at hm
  refine ⟨m, rfl, (readMark_of_mark ?_ ?_).1, ?_, BitVec.eq_of_toNat_eq ?_, BitVec.eq_of_toNat_eq ?_, BitVec.eq_of_toNat_eq ?_⟩
  · rw [fldN, toNat_fld, hm]; omega
  · rw [fldN, toNat_fld, hm]; omega
  · rw [fldN, toNat_fld, hm]; omega
  all_goals rw [toNat_fld, hm]; omega

/-! ### The capabilities block (R272) -/

/-- A port that has taken a capabilities block. -/
def capsTaken (block : BitVec 64) (x : TrunkPort) : TrunkPort :=
  { x with
    partnerCaps := some block
    capsSeen := if !bitAt block 21 then 0 else if x.partnerCaps == some block then x.capsSeen + 1 else 1
    partnerAddr := fld block 32 7, partnerTag := fld block 48 16
    partnerEtp := BitVec.ofNat 8 (16 * fldN block 8 4 + fldN block 12 4) }

section
variable {t : Instant} {pt : Port} {s : State} {b : BitVec 64} (hlive : trunkLive s = true)
include hlive

theorem exec_caps_of_other (h : fldN b 0 8 ≠ 0x55) (hph : (getPort s pt).phase ≠ .diag) :
    exec (.caps t pt b) s = .next (setNow t s) := by
  change execCaps t pt b s = _
  rw [execCaps, portEvent_of_live hlive]
  simp only [echoCtl_of_service (u := setNow t s) (pt := pt) (by rwa [getPort_setNow]), h, ne_eq, not_false_eq_true, decide_true,
    Bool.true_or, if_true]

theorem exec_caps_of_training (h : fldN b 0 8 = 0x55) (h4 : 4 ≤ stageNo (getPort s pt).phase) (h7 : stageNo (getPort s pt).phase ≤ 7) :
    exec (.caps t pt b) s = .next (if (bitAt b 20 != (getPort s pt).cfg.clocking) = true
        then failAttempt pt 4 (updPort (setNow t s) pt (capsTaken b))
      else if (getPort s pt).phase = .caps ∧ fldN b 8 4 ≠ 1 ∧ fldN b 8 4 ≠ 2
        then failAttempt pt 5 (updPort (setNow t s) pt (capsTaken b))
      else updPort (setNow t s) pt (capsTaken b)) := by
  have hdiag : (getPort s pt).phase ≠ .diag := fun h => by rw [h] at h4; exact absurd h4 (by decide)
  change execCaps t pt b s = _
  rw [execCaps, portEvent_of_live hlive]
  rw [echoCtl_of_service (u := setNow t s) (pt := pt) (by rwa [getPort_setNow])]
  extract_lets +onlyGivenNames s1 x s2
  have hx : x = getPort s pt := getPort_setNow ..
  have hin : ¬ (fldN b 0 8 ≠ 0x55 || stageNo x.phase < 4 || 7 < stageNo x.phase) = true := by
    simp only [hx, h, ne_eq, not_true_eq_false, decide_false, Bool.false_or, Nat.not_lt.2 h4,
      Nat.not_lt.2 h7, not_false_eq_true, Bool.false_eq_true]
  rw [if_neg hin, hx]
  refine congrArg Host.Outcome.next (if_congr Iff.rfl rfl (if_congr ?_ rfl rfl))
  rw [Bool.and_eq_true, Bool.and_eq_true, beq_iff_eq, decide_eq_true_eq, decide_eq_true_eq, and_assoc]

theorem exec_caps_of_match (h : fldN b 0 8 = 0x55) (hph : (getPort s pt).phase = .caps)
    (hclk : bitAt b 20 = (getPort s pt).cfg.clocking) (hv : fldN b 8 4 = 1 ∨ fldN b 8 4 = 2) :
    exec (.caps t pt b) s = .next (updPort (setNow t s) pt (capsTaken b)) := by
  rw [exec_caps_of_training hlive h (by rw [hph]; decide) (by rw [hph]; decide), if_neg fun h => bne_iff_ne.1 h hclk,
    if_neg fun hbad => hv.elim hbad.2.1 hbad.2.2]

end

theorem updPort_portless (w e : TrunkPort) (p : Port) (f : TrunkPort → TrunkPort) (u : State) :
    { updPort u p f with west := w, east := e } = { u with west := w, east := e } := by
  cases p <;> rfl

/-- Settles O44. -/
theorem trunkBringUpGoesByStages : Obligations.TrunkBringUpGoesByStages := by
  refine ⟨fun t pt lane present s h hw => trunk_events_of_dead h hw, fun t pt lane s hl hp hd hw => exec_signalDetect_present hl hp hd hw,
    ?absent, ?detect, ?recovery, fun t pt lanes eyes s hl hp hm => exec_stageComplete_polarity hl hp hm,
    fun t pt lanes eyes s q hl hp hq => exec_stageComplete_deskew hl hp hq,
    fun t pt lanes eyes s hl hp ht => exec_stageComplete_adapt hl hp ht, fun pt eyes s _ hc hl => adaptDone_of_closed hc hl,
    fomOf_toNat, fun t pt lanes eyes s c hl hp hc h3 hr => exec_stageComplete_caps hl hp hc h3 hr,
    fun pt c s => ⟨resolveCaps_of_version, resolveCaps_of_clocking, resolveCaps_of_old⟩, ?current, goUp_spec,
    fun s pt l h => laneDrive_of_quiet (mayDrive_eq_false_iff.2 h) l, fun pt s l h => laneDrive_hopDown h l, ?due, ?notDue,
    prbs31_recurrence, fun t pt s ns hl h => exec_stageTimeout hl h, fun pt s => ⟨timeoutReason_of_caps, timeoutReason_of_block⟩,
    fun pt r s => failAttempt_of_first, fun pt r s => failAttempt_of_fast, fun pt r s => failAttempt_of_high,
    fun t pt s hl h => exec_backoffEnd hl h, fun t pt s hl h ht => exec_rateIdleEnd hl h ht, fun t pt s => exec_rateIdle_early,
    fun t pt d s hl h => exec_filler_spec hl d h, fun t pt lane b inv m s hl hb h4 h7 => exec_laneMark_training hl hb h4 h7,
    fun t pt lane b inv m s hl hb hp hr => exec_laneMark_service hl hb hp hr, fun b => readMark_of_mark,
    fun l hl w e q => markBlock_fields hl w e q, fun t pt lane b s hl hp hb => exec_laneMark_of_none hl hp hb, ?caps, ?capsBad,
    fun t pt b s hl h hp => exec_caps_of_other hl h hp, fun t pt lane b s hl hp hloop => exec_laneMark_diag hl hp hloop,
    descramble_scramble⟩
  case absent =>
    intro t pt lane s u hl hu
    refine ⟨fun hp hfew => ?_, fun hp => ?_⟩
    · rw [exec_signalDetect_absent hl hu (by rw [hp]; decide), hp, if_pos]
      rw [decide_eq_true hfew]
      rfl
    · rw [exec_signalDetect_absent hl hu (by rw [hp]; decide), hp, if_neg, if_pos rfl]
      rw [show (decide (2 ≤ stageNo TrunkPhase.up) && decide (stageNo TrunkPhase.up ≤ 7)) = false from rfl, Bool.false_and,
        Bool.false_and]
      exact Bool.false_ne_true
  case detect =>
    intro t pt lanes eyes s hl hp hw
    refine ⟨_, exec_stageComplete_detect hl hp hw, ?_⟩
    refine ⟨?_, ?_, ?_, ?_, ?_, (updPort_portless ..).trans (updPort_portless ..)⟩
    · rw [getPort_updPort]
      rfl
    · rw [getPort_updPort, getPort_updPort]
      rfl
    · rw [getPort_updPort]
      rfl
    · rw [getPort_updPort, getPort_updPort]
      rfl
    · rw [getPort_updPort_other (otherPort_ne pt), getPort_updPort_other (otherPort_ne pt), getPort_driveDue_other (otherPort_ne pt),
        getPort_setNow]
  case recovery =>
    intro t pt lanes eyes s u hl hu
    obtain ⟨hcdr, hblock⟩ := exec_stageComplete_recovery (eyes := eyes) hl hu
    refine ⟨fun hp hlock hc => (hcdr hp).trans (by rw [if_pos ⟨hlock, hc⟩]), fun hp hbad => (hcdr hp).trans ?_, hblock⟩
    rw [if_neg fun h => hbad.elim (· h.1) fun hc => Bool.false_ne_true (hc.symm.trans h.2)]
  case current =>
    intro pt c s hv hclk
    refine ⟨fun hf hrec => ?_, fun hf hrec => ?_, resolveCaps_of_high hv hclk, resolveCaps_of_rate hv hclk⟩
    · rw [resolveCaps_of_fast hv hclk hf, if_pos hrec]
    · rw [resolveCaps_of_fast hv hclk hf, if_neg hrec]
  case due =>
    intro pt s htrain hann hmay
    rw [driveDue, htrain, hann, hmay]
    rfl
  case notDue =>
    intro pt s h
    rw [driveDue, if_neg]
    rintro hc
    rw [Bool.and_eq_true, Bool.and_eq_true, Bool.not_eq_true'] at hc
    obtain ⟨⟨-, hann⟩, hmay⟩ := hc
    rcases h with h | h
    · exact Bool.false_ne_true (hann.symm.trans h)
    · exact Bool.false_ne_true (h.symm.trans hmay)
  case caps =>
    intro t pt b s hl h hp hclk hv
    refine ⟨_, exec_caps_of_match hl h hp hclk hv, ?_⟩
    rw [getPort_updPort, getPort_setNow]
    refine ⟨rfl, rfl, rfl, fun h21 => ?_, fun h21 => ?_⟩
    · simp only [capsTaken, h21, Bool.not_true, Bool.false_eq_true, if_false, beq_iff_eq]
    · simp only [capsTaken, h21, Bool.not_false, if_true]
  case capsBad =>
    intro t pt b s hl h h4 h7 hclk
    exact ⟨_, (exec_caps_of_training hl h h4 h7).trans (congrArg Host.Outcome.next (if_pos (bne_iff_ne.2 hclk)))⟩

/-! ### Slots in order (R275–R277) -/

theorem updPort_of_eq {p : Port} {s : State} {f : TrunkPort → TrunkPort} (h : f (getPort s p) = getPort s p) : updPort s p f = s := by
  cases p
  · exact congrArg (fun x => { s with east := x }) h
  · exact congrArg (fun x => { s with west := x }) h

section
variable (pt : Port) (s : State)

/-- A slot that carries the next number is accepted, its content whole or stomped. -/
theorem takeSlot_in_order : ∃ u, takeSlot pt .good (getPort s pt).rxSeq s = (.content, u) ∧
    takeSlot pt .stomp (getPort s pt).rxSeq s = (.stomped, u) ∧
    u = updPort s pt (fun x => { x with rxSeq := x.rxSeq + 1, nakSent := false, nakOwed := false, ackOwed := true }) := by
  refine ⟨_, ?_, ?_, rfl⟩
  all_goals
    unfold takeSlot
    extract_lets x accept nak
    rw [if_neg (by decide), if_pos (beq_self_eq_true _)]
    rfl

theorem takeSlot_of_bad (seq : BitVec 12) : takeSlot pt .bad seq s =
    (.discard, updPort s pt fun x => { x with nakSent := true, nakOwed := x.nakOwed || !x.nakSent }) := rfl

theorem takeSlot_of_bad_again (seq : BitVec 12) (h : (getPort s pt).nakSent = true) : takeSlot pt .bad seq s = (.discard, s) := by
  rw [takeSlot_of_bad, updPort_of_eq]
  rw [h, Bool.not_true, Bool.or_false]
  exact congrArg (fun b => { getPort s pt with nakSent := b }) h.symm

theorem not_seqUpTo_pred (q : BitVec 12) : seqUpTo q (q - 1) = false := by
  rw [seqUpTo, decide_eq_false_iff_not, Nat.not_lt, sub_right_comm, sub_self, zero_sub]
  decide

/-- A slot taken before is acknowledged again. -/
theorem takeSlot_of_old {seq : BitVec 12} (h : seqUpTo seq ((getPort s pt).rxSeq - 1) = true) :
    takeSlot pt .good seq s = (.discard, updPort s pt fun x => { x with ackOwed := true }) := by
  have hne : ¬ (seq == (getPort s pt).rxSeq) = true := by
    rw [beq_iff_eq]
    rintro rfl
    rw [not_seqUpTo_pred] at h
    exact Bool.false_ne_true h
  unfold takeSlot
  extract_lets x accept nak
  rw [if_neg (by decide), if_neg hne, if_pos h]

theorem countHeaders_nil : countHeaders pt [] s = s := by
  refine updPort_of_eq ?_
  rw [List.foldl_nil, List.length_nil, satAdd_zero]

end

/-- What becomes of a slot when it has been checked and sequenced; `begun`: its forwarding had begun. -/
def afterCheck (pt : Port) (slot : RawSlot) (begun : Bool) : SlotTake × State → State
  | (.content, u) => takeContent pt slot u
  | (.stomped, u) => stompForward pt slot u
  | (.discard, u) => if begun then stompForward pt slot u else u

section
variable {pt : Port} {r : RxSlot} {s : State} (hslip : (getPort s pt).slipped = false) (hbad : r.bad = [])
include hslip hbad

theorem unslipped : updPort (countHeaders pt r.bad s) pt (fun x => { x with slipped := false }) = s := by
  rw [hbad, countHeaders_nil]
  exact updPort_of_eq (congrArg (fun b => { getPort s pt with slipped := b }) hslip.symm)

theorem takeRx_of_clean : takeRx pt r s = loseBadLanes pt (afterCheck pt r.slot
    (!noRoom s r.slot && r.headed && fldN r.slot.hdr 0 8 == 0xD2 && slotSeq r.slot == (getPort s pt).rxSeq)
    (takeSlot pt (if noRoom s r.slot then .bad else checkSlot r.slot r.trailer r.whole) (slotSeq r.slot) s)) := by
  have h := unslipped hslip hbad
  have hw : (r.whole && !(getPort (countHeaders pt r.bad s) pt).slipped) = r.whole := by
    rw [hbad, countHeaders_nil, hslip, Bool.not_false, Bool.and_true]
  unfold takeRx
  simp only [hw, h]
  rfl

theorem takeRx_of_good {u : State} (hwhole : r.whole = true) (hcheck : checkSlot r.slot r.trailer true = .good)
    (hseq : slotSeq r.slot = (getPort s pt).rxSeq) (hroom : noRoom s r.slot = false)
    (hu : u = updPort s pt (fun x => { x with rxSeq := x.rxSeq + 1, nakSent := false, nakOwed := false, ackOwed := true })) :
    takeRx pt r s = loseBadLanes pt (takeContent pt r.slot u) := by
  obtain ⟨v, hgood, -, hv⟩ := takeSlot_in_order pt s
  rw [takeRx_of_clean hslip hbad, hroom, if_neg Bool.false_ne_true, hwhole, hcheck, hseq, hgood, hv, ← hu]
  rfl

theorem takeRx_of_begun {u : State} (hheaded : r.headed = true) (hhdr : fldN r.slot.hdr 0 8 = 0xD2)
    (hcheck : checkSlot r.slot r.trailer r.whole = .bad) (hseq : slotSeq r.slot = (getPort s pt).rxSeq)
    (hroom : noRoom s r.slot = false) (hu : (takeSlot pt .bad (slotSeq r.slot) s).2 = u) :
    takeRx pt r s = loseBadLanes pt (stompForward pt r.slot u) := by
  rw [takeRx_of_clean hslip hbad, hroom, if_neg Bool.false_ne_true, hcheck, takeSlot_of_bad, hheaded, hhdr, hseq,
    ← hu, takeSlot_of_bad, beq_self_eq_true, beq_self_eq_true]
  rfl

theorem takeRx_of_other (hnak : (getPort s pt).nakSent = true) (hcheck : checkSlot r.slot r.trailer r.whole = .bad)
    (hseq : slotSeq r.slot ≠ (getPort s pt).rxSeq) : takeRx pt r s = loseBadLanes pt s := by
  rw [takeRx_of_clean hslip hbad, hcheck, ite_self, takeSlot_of_bad_again _ _ _ hnak]
  rw [beq_eq_false_iff_ne.2 hseq, Bool.and_false]
  rfl

end

/-- A fold of steps that each leave the state leaves it. -/
theorem foldl_of_fixed {α : Type} {f : State → α → State} {s : State} {l : List α} (h : ∀ a ∈ l, f s a = s) : l.foldl f s = s := by
  induction l with
  | nil => rfl
  | cons a l ih =>
    rw [List.foldl_cons, h a List.mem_cons_self]
    exact ih fun b hb => h b (List.mem_cons_of_mem a hb)

theorem loseBadLanes_of_good {pt : Port} {s : State} (h : ∀ l < 4, headerLoss s (getPort s pt) l = false) : loseBadLanes pt s = s :=
  foldl_of_fixed fun l hl => if_neg (Bool.eq_false_iff.1 (h l (List.mem_range.1 hl)))

theorem takeContent_of_empty {pt : Port} {slot : RawSlot} {s : State} (h : slotType slot = 0) : takeContent pt slot s = s := by
  rw [takeContent, if_pos h]

theorem checkSlot_of_trailer {x : RawSlot} (h : fldN x.hdr 0 8 = 0xD2) :
    checkSlot x (slotTrailer x false) true = .good ∧ checkSlot x (slotTrailer x true) true = .stomp := by
  have hfields : ∀ (n : Nat) (c : Word), n < 256 → fldN (mkWord64 [(n, 0), (c.toNat, 32)]) 0 8 = n ∧
      hi32 (mkWord64 [(n, 0), (c.toNat, 32)]) = c := by
    intro n c hn
    have hc := c.isLt
    have hw : (mkWord64 [(n, 0), (c.toNat, 32)]).toNat = n + c.toNat * 2 ^ 32 := by
      rw [mkWord64, BitVec.toNat_ofNat, List.foldl_cons, List.foldl_cons, List.foldl_nil]
      dsimp only
      omega
    constructor
    · rw [fldN, toNat_fld, hw]
      omega
    · refine BitVec.eq_of_toNat_eq ?_
      rw [hi32, toNat_fld, hw]
      omega
  obtain ⟨g0, g32⟩ := hfields 0xE1 (slotCrc x) (by decide)
  obtain ⟨b0, b32⟩ := hfields 0xE2 (~~~ slotCrc x) (by decide)
  constructor
  · unfold checkSlot slotTrailer
    extract_lets crc
    rw [if_neg Bool.false_ne_true, h, g0, g32]
    simp [crc]
  · unfold checkSlot slotTrailer
    extract_lets crc
    rw [if_pos rfl, h, b0, b32]
    simp [crc]

/-! ### Events of a hop in service -/

section
variable {t : Instant} {pt : Port} {s : State} (hlive : trunkLive s = true)
include hlive

theorem exec_hopSlotReceive_up {rx : List RxBlock} {before : List (BitVec 58)} {d : Fin 4} (h : (getPort s pt).phase = .up) :
    exec (.hopSlotReceive t pt rx before d) s = .next (takeRx pt (rxSlot (getPort s pt) rx before d.val) (setNow t s)) := by
  change execHopSlotReceive t pt rx before d s = _
  unfold execHopSlotReceive
  extract_lets s1
  rw [show trunkLive s1 = true from hlive, show getPort s1 pt = getPort s pt from getPort_setNow .., h]
  rfl

theorem exec_hopSlotReceive_diag {rx : List RxBlock} {before : List (BitVec 58)} {d : Fin 4} (h : (getPort s pt).phase = .diag) :
    exec (.hopSlotReceive t pt rx before d) s = .next (echoBlocks pt rx (setNow t s)) := by
  change execHopSlotReceive t pt rx before d s = _
  unfold execHopSlotReceive
  extract_lets s1
  rw [show trunkLive s1 = true from hlive, show getPort s1 pt = getPort s pt from getPort_setNow .., h]
  rfl

theorem exec_ack_up {b : BitVec 64} (hb : fldN b 0 8 = 0x87) (h8 : bitAt b 8 = false) (h : (getPort s pt).phase = .up) :
    exec (.ack t pt b) s = .next (updPort (setNow t s) pt (releaseSlots (fld b 9 12))) := by
  change execAck t pt b s = _
  rw [execAck, portEvent_of_live hlive]
  simp only [echoCtl_of_service (u := setNow t s) (pt := pt) (by rw [getPort_setNow, h]; decide), getPort_setNow, hb, h8, h,
    decide_true, Bool.not_false, beq_self_eq_true, Bool.and_self, if_true]

theorem exec_nak_up {b : BitVec 64} (hb : fldN b 0 8 = 0x87) (h8 : bitAt b 8 = true) (h : (getPort s pt).phase = .up) :
    exec (.nak t pt b) s = .next (resendFrom pt (fun r => decide ((r.seq - fld b 9 12).toNat < 2048)) (setNow t s)) := by
  change execNak t pt b s = _
  rw [execNak, portEvent_of_live hlive]
  simp only [echoCtl_of_service (u := setNow t s) (pt := pt) (by rw [getPort_setNow, h]; decide), getPort_setNow, hb, h8, h,
    decide_true, beq_self_eq_true, Bool.and_self, if_true]

theorem exec_doze_up {b : BitVec 64} (hb : fldN b 0 8 = 0x99) (h : (getPort s pt).phase = .up) :
    exec (.doze t pt b) s = .next (arbitrate (updPort (setNow t s) pt fun x => { x with rxDoze := true })) := by
  change execDoze t pt b s = _
  rw [execDoze, portEvent_of_live hlive]
  simp only [echoCtl_of_service (u := setNow t s) (pt := pt) (by rw [getPort_setNow, h]; decide), getPort_setNow, hb, h,
    decide_true, beq_self_eq_true, Bool.and_self, if_true]

theorem exec_replayTimeout_due (h : (getPort s pt).phase = .up) (hdue : (getPort s pt).ackAt + 120 ≤ (getPort s pt).positions) :
    exec (.replayTimeout t pt) s = .next (resendFrom pt (fun _ => true) (setNow t s)) := by
  change execReplayTimeout t pt s = _
  rw [execReplayTimeout, portEvent_of_live hlive]
  simp only [getPort_setNow, h, decide_eq_true hdue, beq_self_eq_true, Bool.and_self, if_true]

theorem exec_laneLoss_live (l : Fin 4) : exec (.laneLoss t pt l) s = .next (loseLane pt l.val (setNow t s)) :=
  show execLaneLoss t pt l s = _ from portEvent_of_live hlive

theorem exec_shedTimeout_shed {a : WidthAsk} (h : (getPort s pt).ask = some a) (hw : a.widen = false) :
    exec (.shedTimeout t pt) s =
      .next (if passed (setNow t s) a.since 5000 then hopDown pt (setNow t s) else setNow t s) := by
  change execShedTimeout t pt s = _
  rw [execShedTimeout, portEvent_of_live hlive]
  simp only [getPort_setNow, h, hw, Bool.not_false, Bool.true_and]

end

/-- ACK, NAK and DOZE do nothing to a hop out of service. -/
theorem exec_ctl_of_down {t : Instant} {pt : Port} {b : BitVec 64} {s : State} (hup : (getPort s pt).phase ≠ .up)
    (hdiag : (getPort s pt).phase ≠ .diag) : exec (.ack t pt b) s = .next (setNow t s) ∧
    exec (.nak t pt b) s = .next (setNow t s) ∧ exec (.doze t pt b) s = .next (setNow t s) := by
  have hdown : ∀ f : State → State, f (setNow t s) = setNow t s → portEvent t f s = .next (setNow t s) := by
    intro f hf
    cases hlive : trunkLive s with
    | false => exact portEvent_of_dead hlive
    | true => rw [portEvent_of_live hlive, hf]
  have hecho := echoCtl_of_service (l := none) (b := b) (u := setNow t s) (pt := pt) (by rwa [getPort_setNow])
  refine ⟨show execAck t pt b s = _ from hdown _ ?_, show execNak t pt b s = _ from hdown _ ?_,
    show execDoze t pt b s = _ from hdown _ ?_⟩
  all_goals
    simp only [hecho, getPort_setNow, beq_eq_false_iff_ne.2 hup, Bool.and_false, Bool.false_eq_true, if_false]

/-! ### Replay (R276, R278) -/

theorem mem_releaseSlots (seq : BitVec 12) (x : TrunkPort) (r : ReplaySlot) :
    r ∈ (releaseSlots seq x).replay ↔ r ∈ x.replay ∧ 2048 ≤ (seq - r.seq).toNat := by
  change r ∈ x.replay.filter _ ↔ _
  rw [List.mem_filter, seqUpTo, Bool.not_eq_true', decide_eq_false_iff_not, Nat.not_lt]

section
variable {pt : Port} {keep : ReplaySlot → Bool} {s : State} {r : ReplaySlot} {rs : List ReplaySlot} (h : (getPort s pt).replay = r :: rs)
include h

theorem resendFrom_of_few (hr : r.sends < 4) : resendFrom pt keep s =
    updPort s pt fun x => { x with resend := x.replay.filter keep, ackAt := x.positions } := by
  unfold resendFrom
  extract_lets x
  rw [show x.replay = r :: rs from h]
  exact if_neg (Nat.not_le.2 hr)

theorem resendFrom_of_many (hr : 4 ≤ r.sends) : resendFrom pt keep s = hopDown pt s := by
  unfold resendFrom
  extract_lets x
  rw [show x.replay = r :: rs from h]
  exact if_pos hr

end

/-! ### Slots dealt to lanes and brought together again (R262) -/

theorem laneIn_inverted (h : BitVec 58) (bs : List RxBlock) :
    laneIn true h (bs.map fun b => ⟨b.lane, ~~~ b.sync, ~~~ b.bits⟩) = laneIn false h bs := by
  induction bs generalizing h with
  | nil => rfl
  | cons b bs ih =>
    rw [List.map_cons, laneIn, laneIn]
    simp only [if_true, Bool.false_eq_true, if_false, BitVec.not_not, ih]

/-- The blocks among bs that are dealt to lane l, the first of them to position d of the lanes. -/
def dealtTo (lanes : List Nat) (l : Nat) : Nat → List PortBlock → List PortBlock
  | _, [] => []
  | d, b :: bs => if lanes.getD d 0 = l then b :: dealtTo lanes l ((d + 1) % lanes.length) bs
    else dealtTo lanes l ((d + 1) % lanes.length) bs

/-- A port block as its receiver has it. -/
def asReceived (l : Nat) (b : PortBlock) : InBlock := ⟨l, if b.ctl then 2 else 1, b.bits⟩

/-- A lane block as it comes over its lane. -/
def overLane (b : LaneBlock) : RxBlock := ⟨Fin.ofNat 4 b.lane, b.sync, b.bits⟩

theorem laneAt_updLane_same {l : Nat} (f : LaneState → LaneState) {x : TrunkPort} (h : l < x.lanes.length) :
    laneAt (updLane l f x) l = f (laneAt x l) := by
  simp only [laneAt, updLane, List.getD_eq_getElem?_getD, List.getElem?_modify_eq, List.getElem?_eq_getElem h]
  rfl

theorem laneAt_updLane_other {l k : Nat} (f : LaneState → LaneState) (x : TrunkPort) (h : l ≠ k) :
    laneAt (updLane l f x) k = laneAt x k := by
  simp only [laneAt, updLane, List.getD_eq_getElem?_getD, List.getElem?_modify_ne _ _ h]

theorem length_updLane (l : Nat) (f : LaneState → LaneState) (x : TrunkPort) : (updLane l f x).lanes.length = x.lanes.length :=
  List.length_modify ..

/-- What a lane brings, descrambled from the scrambler's state at its beginning, are the blocks dealt to it. -/
theorem laneIn_dealBlocks (p : Port) {lanes : List Nat} (hlanes : ∀ d, lanes.getD d 0 < 4) {l : Nat} (bs : List PortBlock)
    (x : TrunkPort) (hx : x.lanes.length = 4) :
    laneIn false (laneAt x l).scram (((dealBlocks p lanes bs x).1.map overLane).filter fun b => b.lane.val == l) =
      (dealtTo lanes l x.dealt bs).map (asReceived l) := by
  induction bs generalizing x with
  | nil => rfl
  | cons b bs ih =>
    rw [dealBlocks, dealtTo]
    generalize hk : lanes.getD x.dealt 0 = k
    have hk4 : k < 4 := hk ▸ hlanes x.dealt
    have hlane : (overLane (laneSend p k b x).1).lane.val = k := Nat.mod_eq_of_lt hk4
    obtain ⟨z, hz, hzl, hzd⟩ : ∃ z : TrunkPort, z = { (laneSend p k b x).2 with
        dealt := (x.dealt + 1) % lanes.length, sinceMark := x.sinceMark + 1 } ∧
        z.lanes = (laneSend p k b x).2.lanes ∧ z.dealt = (x.dealt + 1) % lanes.length := ⟨_, rfl, rfl, rfl⟩
    have hih := ih z ((congrArg List.length hzl).trans ((length_updLane ..).trans hx))
    have hscram : laneAt z l = laneAt (laneSend p k b x).2 l := by rw [laneAt, hzl, ← laneAt]
    rw [hscram, hzd] at hih
    change laneIn false _ (((laneSend p k b x).1 :: (dealBlocks p lanes bs _).1).map overLane |>.filter _) = _
    rw [← hz, List.map_cons, List.filter_cons, hlane]
    by_cases hkl : k = l
    · subst hkl
      rw [beq_self_eq_true, if_pos rfl, if_pos rfl, laneIn]
      have hstate : (laneAt (laneSend p k b x).2 k).scram = (scramble (laneAt x k).scram b.bits).2 :=
        congrArg LaneState.scram (laneAt_updLane_same _ (hx ▸ hk4))
      rw [hstate] at hih
      have hbits : descramble (laneAt x k).scram (overLane (laneSend p k b x).1).bits =
          (b.bits, (scramble (laneAt x k).scram b.bits).2) := descramble_scramble ..
      simp only [Bool.false_eq_true, if_false, hbits, hlane]
      rw [hih, List.map_cons]
      rfl
    · have hstate : laneAt (laneSend p k b x).2 l = laneAt x l := laneAt_updLane_other _ _ hkl
      rw [hstate] at hih
      rw [beq_eq_false_iff_ne.2 hkl, if_neg Bool.false_ne_true, if_neg hkl]
      exact hih

/-- Block i stands in its lane behind the blocks of the rounds before it. -/
theorem getElem?_dealtTo {lanes : List Nat} (hnd : lanes.Nodup) (bs : List PortBlock) {d i : Nat} (hd : d < lanes.length)
    (hi : i < bs.length) : (dealtTo lanes (lanes.getD ((d + i) % lanes.length) 0) d bs)[i / lanes.length]? = bs[i]? := by
  have hn : 0 < lanes.length := Nat.zero_lt_of_lt hd
  induction bs generalizing d i with
  | nil => exact absurd hi (Nat.not_lt_zero i)
  | cons b bs ih =>
    cases i with
    | zero => rw [Nat.add_zero, Nat.mod_eq_of_lt hd, dealtTo, if_pos rfl, Nat.zero_div, List.getElem?_cons_zero,
        List.getElem?_cons_zero]
    | succ i =>
      have hnext : (d + (i + 1)) % lanes.length = ((d + 1) % lanes.length + i) % lanes.length := by
        rw [Nat.mod_add_mod]
        congr 1
        omega
      have hih := ih (d := (d + 1) % lanes.length) (Nat.mod_lt _ hn) (Nat.lt_of_succ_lt_succ hi)
      rw [← hnext] at hih
      have hlt : (d + (i + 1)) % lanes.length < lanes.length := Nat.mod_lt _ hn
      have hsame : lanes.getD d 0 = lanes.getD ((d + (i + 1)) % lanes.length) 0 ↔ lanes.length ∣ i + 1 := by
        rw [List.getD_eq_getElem _ _ hd, List.getD_eq_getElem _ _ hlt, hnd.getElem_inj_iff]
        constructor
        · intro h
          have hmod : (d + (i + 1)) % lanes.length = (d + 0) % lanes.length := by rw [← h, Nat.add_zero, Nat.mod_eq_of_lt hd]
          exact (Nat.modEq_zero_iff_dvd).1 (Nat.ModEq.add_left_cancel' d hmod)
        · intro h
          rw [Nat.add_mod, Nat.mod_eq_zero_of_dvd h, Nat.add_zero, Nat.mod_mod, Nat.mod_eq_of_lt hd]
      rw [dealtTo, List.getElem?_cons_succ, Nat.succ_div]
      by_cases hdvd : lanes.length ∣ i + 1
      · rw [if_pos (hsame.2 hdvd), if_pos hdvd, List.getElem?_cons_succ, hih]
      · rw [if_neg (mt hsame.1 hdvd), if_neg hdvd]
        exact hih

theorem byTxLane_of_straight {y : TrunkPort} (m : BitVec 4) (h : ∀ l < 4, (laneAt y l).txLane.toNat = l) :
    byTxLane y (maskLanes m) = maskLanes m := by
  have hsort : ∀ m : BitVec 4, ((List.range 4).flatMap fun t => (maskLanes m).filter fun l => l == t) = maskLanes m := by decide
  have hfilter : ∀ t, ((maskLanes m).filter fun l => (laneAt y l).txLane.toNat == t) = (maskLanes m).filter fun l => l == t := by
    intro t
    refine List.filter_congr fun l hl => ?_
    rw [h l (List.mem_range.1 (List.mem_filter.1 hl).1)]
  rw [byTxLane]
  simp only [hfilter, hsort]

theorem maskLanes_getD_lt (m : BitVec 4) (d : Nat) : (maskLanes m).getD d 0 < 4 := by
  by_cases h : d < (maskLanes m).length
  · rw [List.getD_eq_getElem _ _ h]
    exact List.mem_range.1 (List.mem_filter.1 (List.getElem_mem h)).1
  · rw [List.getD_eq_default _ _ (Nat.not_lt.1 h)]
    decide

/-- The 34 blocks of a slot, put together again from its lanes. -/
theorem rxOrder_dealBlocks (p : Port) {x y : TrunkPort} {m : BitVec 4} {bs : List PortBlock} (hbs : bs.length = 34)
    (hdealt : x.dealt < (maskLanes m).length) (hx : x.lanes.length = 4) (hrx : y.lanesRx = m)
    (hlanes : ∀ l < 4, (laneAt y l).txLane.toNat = l ∧ (laneAt y l).inverted = false) {i : Nat} (hi : i < 34) :
    (rxOrder y ((dealBlocks p (maskLanes m) bs x).1.map overLane) ((List.range 4).map fun l => (laneAt x l).scram) x.dealt)[i]? =
      bs[i]?.map (asReceived ((maskLanes m).getD ((x.dealt + i) % (maskLanes m).length) 0)) := by
  have hn : 0 < (maskLanes m).length := Nat.zero_lt_of_lt hdealt
  have hlt : (x.dealt + i) % (maskLanes m).length < (maskLanes m).length := Nat.mod_lt _ hn
  unfold rxOrder
  extract_lets lanes got
  obtain hl : lanes = maskLanes m := by
    change byTxLane y (maskLanes y.lanesRx) = _
    rw [hrx, byTxLane_of_straight m fun l hl => (hlanes l hl).1]
  have hgot : got.getD ((x.dealt + i) % (maskLanes m).length) [] =
      (dealtTo (maskLanes m) ((maskLanes m).getD ((x.dealt + i) % (maskLanes m).length) 0) x.dealt bs).map
        (asReceived ((maskLanes m).getD ((x.dealt + i) % (maskLanes m).length) 0)) := by
    have hl4 := maskLanes_getD_lt m ((x.dealt + i) % (maskLanes m).length)
    change (lanes.map _).getD _ [] = _
    rw [hl, List.getD_eq_getElem _ _ (by rwa [List.length_map]), List.getElem_map, ← List.getD_eq_getElem _ 0 hlt]
    generalize (maskLanes m).getD ((x.dealt + i) % (maskLanes m).length) 0 = l at hl4
    have hbefore : ((List.range 4).map fun l => (laneAt x l).scram).getD l 0 = (laneAt x l).scram := by
      rw [List.getD_eq_getElem _ _ (by simpa using hl4), List.getElem_map, List.getElem_range]
    unfold rxLane
    rw [(hlanes l hl4).2, hbefore]
    exact laneIn_dealBlocks p (maskLanes_getD_lt m) bs x hx
  rw [List.getElem?_map, List.getElem?_range hi, Option.map_some, hl]
  dsimp only
  rw [hgot, List.getD_eq_getElem?_getD, List.getElem?_map,
    getElem?_dealtTo (nodup_maskLanes m) bs hdealt (hbs ▸ hi), List.getElem?_eq_getElem (hbs ▸ hi : i < bs.length)]
  rfl

theorem pairs_of_length {k : Nat} {ws : List Word} (h : ws.length = 2 * k) :
    ((List.range k).flatMap fun i => [ws.getD (2 * i) 0, ws.getD (2 * i + 1) 0]) = ws := by
  induction k generalizing ws with
  | zero => exact (List.length_eq_zero_iff.1 h).symm
  | succ k ih =>
    match ws, h with
    | a :: b :: ws, h =>
      rw [List.range_succ_eq_map, List.flatMap_cons, List.flatMap_map]
      have hws : ws.length = 2 * k := by
        simp only [List.length_cons] at h
        omega
      exact congrArg (fun l => a :: b :: l) (ih hws)

theorem lo32_join64 (a b : Word) : lo32 (join64 a b) = a := by
  refine BitVec.eq_of_getLsbD_eq fun i hi => ?_
  have h : (join64 a b).getLsbD i = _ := BitVec.getLsbD_append
  rw [lo32, fld, BitVec.getLsbD_extractLsb', decide_eq_true hi, Bool.true_and, Nat.zero_add, h, if_pos hi]

theorem hi32_join64 (a b : Word) : hi32 (join64 a b) = b := by
  refine BitVec.eq_of_getLsbD_eq fun i hi => ?_
  have h : (join64 a b).getLsbD (32 + i) = _ := BitVec.getLsbD_append
  rw [hi32, fld, BitVec.getLsbD_extractLsb', decide_eq_true hi, Bool.true_and, h, if_neg (by omega), Nat.add_sub_cancel_left]

theorem length_slotBlocks (slot : RawSlot) (tr : BitVec 64) : (slotBlocks slot tr).length = 34 := by
  simp [slotBlocks]

/-- Block i of a slot: its header, its data, its trailer. -/
theorem getElem?_slotBlocks_data (slot : RawSlot) (tr : BitVec 64) {i : Nat} (hi : i < 32) : (slotBlocks slot tr)[i + 1]? =
    some ⟨false, join64 (slot.payload.getD (2 * i) 0) (slot.payload.getD (2 * i + 1) 0)⟩ := by
  unfold slotBlocks
  rw [List.getElem?_cons_succ, List.getElem?_append_left (by simpa using hi), List.getElem?_map, List.getElem?_range hi]
  rfl

theorem getElem?_slotBlocks_trailer (slot : RawSlot) (tr : BitVec 64) : (slotBlocks slot tr)[33]? = some ⟨true, tr⟩ := by
  unfold slotBlocks
  rw [List.getElem?_cons_succ, List.getElem?_append_right (by simp)]
  simp

/-- A slot that comes over straight lanes is received as it was sent. -/
theorem rxSlot_dealBlocks (p : Port) {x y : TrunkPort} {m : BitVec 4} {slot : RawSlot} (tr : BitVec 64)
    (hlen : slot.payload.length = 64) (hdealt : x.dealt < (maskLanes m).length) (hx : x.lanes.length = 4) (hrx : y.lanesRx = m)
    (hlanes : ∀ l < 4, (laneAt y l).txLane.toNat = l ∧ (laneAt y l).inverted = false) :
    rxSlot y ((dealBlocks p (maskLanes m) (slotBlocks slot tr) x).1.map overLane)
      ((List.range 4).map fun l => (laneAt x l).scram) x.dealt = ⟨slot, tr, true, true, []⟩ := by
  have hblock := fun (i : Nat) (hi : i < 34) => rxOrder_dealBlocks p (length_slotBlocks slot tr) hdealt hx hrx hlanes hi
  have hord : (rxOrder y ((dealBlocks p (maskLanes m) (slotBlocks slot tr) x).1.map overLane)
      ((List.range 4).map fun l => (laneAt x l).scram) x.dealt).length = 34 := by
    simp [rxOrder]
  unfold rxSlot
  generalize rxOrder y ((dealBlocks p (maskLanes m) (slotBlocks slot tr) x).1.map overLane)
    ((List.range 4).map fun l => (laneAt x l).scram) x.dealt = bs at hblock hord
  extract_lets bs' at0 want
  have hat : ∀ i < 34, ∃ l, (slotBlocks slot tr)[i]?.map (asReceived l) = some (at0 i) := by
    intro i hi
    refine ⟨_, (hblock i hi).symm.trans ?_⟩
    rw [List.getElem?_eq_getElem (hord ▸ hi : i < bs.length)]
    exact congrArg some (List.getD_eq_getElem _ _ (hord ▸ hi : i < bs.length)).symm
  have hhead : ∃ l, at0 0 = asReceived l ⟨true, slot.hdr⟩ := by
    obtain ⟨l, h⟩ := hat 0 (by decide)
    exact ⟨l, (Option.some.inj h).symm⟩
  have hdata : ∀ i < 32, ∃ l, at0 (i + 1) =
      asReceived l ⟨false, join64 (slot.payload.getD (2 * i) 0) (slot.payload.getD (2 * i + 1) 0)⟩ := by
    intro i hi
    obtain ⟨l, h⟩ := hat (i + 1) (by omega)
    rw [getElem?_slotBlocks_data slot tr hi] at h
    exact ⟨l, (Option.some.inj h).symm⟩
  have htrailer : ∃ l, at0 33 = asReceived l ⟨true, tr⟩ := by
    obtain ⟨l, h⟩ := hat 33 (by decide)
    rw [getElem?_slotBlocks_trailer slot tr] at h
    exact ⟨l, (Option.some.inj h).symm⟩
  obtain ⟨l0, hhead⟩ := hhead
  obtain ⟨l33, htrailer⟩ := htrailer
  have hsync : ∀ i < 34, (at0 i).sync = want i := by
    intro i hi
    rcases Nat.eq_zero_or_pos i with rfl | hpos
    · rw [hhead]; rfl
    · by_cases h33 : i = 33
      · rw [h33, htrailer]; rfl
      · obtain ⟨k, rfl⟩ := Nat.exists_eq_succ_of_ne_zero hpos.ne'
        obtain ⟨l, h⟩ := hdata k (by omega)
        rw [h]
        exact (if_neg (by simpa using h33)).symm
  have hwant : ∀ i, want i = 1 ∨ want i = 2 := by
    intro i
    by_cases h : (i == 0 || i == 33) = true
    · exact .inr (if_pos h)
    · exact .inl (if_neg h)
  have hpayload : ((List.range 32).flatMap fun i => [lo32 (at0 (i + 1)).bits, hi32 (at0 (i + 1)).bits]) = slot.payload := by
    rw [← pairs_of_length (k := 32) hlen]
    refine List.flatMap_congr fun i hi => ?_
    obtain ⟨l, h⟩ := hdata i (List.mem_range.1 hi)
    rw [h]
    exact congrArg₂ (fun a b => [a, b]) (lo32_join64 ..) (hi32_join64 ..)
  have hall : ((List.range 34).all fun i => (at0 i).sync == want i) = true := by
    rw [List.all_eq_true]
    exact fun i hi => beq_iff_eq.2 (hsync i (List.mem_range.1 hi))
  have hbad : (bs'.filter fun b => !syncOk b) = [] := by
    refine List.filter_eq_nil_iff.2 fun b hb => ?_
    obtain ⟨i, hi, rfl⟩ := List.getElem_of_mem hb
    have hb : (bs[i]).sync = want i := by
      rw [← hsync i (hord ▸ hi)]
      exact congrArg InBlock.sync (List.getD_eq_getElem _ _ hi).symm
    rcases hwant i with h | h <;> simp [syncOk, show (bs'[i]).sync = want i from hb, h]
  rw [hpayload, hall, hbad, hhead, htrailer]
  rfl

/-! ### Slot positions (R262, R264, R275) -/

theorem exec_slotPositionSend_of_up {t : Instant} {pt : Port} {s : State} (hlive : trunkLive s = true)
    (h : (getPort s pt).phase = .up) (hawake : txAwake (setNow t s) (getPort s pt) = true) :
    (∀ r rest, (getPort s pt).resend = r :: rest → exec (.slotPositionSend t pt) s =
      .next (settleStow (doActs (endPosition pt (resendSlot pt r rest (endWake pt (setNow t s))))))) ∧
    ((getPort s pt).resend = [] → exec (.slotPositionSend t pt) s =
      .next (settleStow (doActs (endPosition pt (sendNew pt (endWake pt (setNow t s))))))) := by
  have hcond : (trunkLive (setNow t s) && (getPort s pt).phase == .up && txAwake (setNow t s) (getPort s pt)) = true := by
    rw [h, hawake, show trunkLive (setNow t s) = true from hlive]
    rfl
  refine ⟨fun r rest hr => ?_, fun hr => ?_⟩
  all_goals
    change execSlotPositionSend t pt s = _
    unfold execSlotPositionSend
    simp only [getPort_setNow, hcond, if_true, hr]

theorem exec_slotPositionSend_of_down {t : Instant} {pt : Port} {s : State} (h : (getPort s pt).phase ≠ .up) :
    exec (.slotPositionSend t pt) s = .next (setNow t s) := by
  change execSlotPositionSend t pt s = _
  unfold execSlotPositionSend
  simp only [getPort_setNow, beq_eq_false_iff_ne.2 h, Bool.and_false, Bool.false_and, Bool.false_eq_true, if_false]

theorem endWake_of_awake {pt : Port} {s : State} (h : (getPort s pt).txWakeAt = none) : endWake pt s = s := by
  rw [endWake, h]
  rfl

theorem endWake_of_waking {pt : Port} {s : State} (h : (getPort s pt).txWakeAt ≠ none) :
    endWake pt s = updPort (sendMarks pt (getPort s pt).lanesTx s) pt fun x => { x with txWakeAt := none } := by
  rw [endWake, if_pos (Option.isSome_iff_ne_none.2 h)]

theorem sendBlocks_hop (p : Port) (bs : List PortBlock) (s : State) : (sendBlocks p bs s).out.hop = s.out.hop := by
  unfold sendBlocks
  extract_lets +onlyGivenNames x r s1
  change s1.out.hop = _
  exact congrArg Outputs.hop (updPort_out ..)

theorem sendBlocks_field {β : Type} (π : TrunkPort → β) (hπ : ∀ x, π (portCore x) = π x) (p q : Port) (bs : List PortBlock)
    (s : State) : π (getPort (sendBlocks p bs s) q) = π (getPort s q) := by
  rw [← hπ, portCore_sendBlocks, hπ]

theorem getPort_sendWire (p : Port) (x : RawSlot) (stomp : Bool) (s : State) (q : Port) :
    getPort (sendWire p x stomp s) q = getPort (sendBlocks p (slotBlocks x (slotTrailer x stomp)) s) q := by
  unfold sendWire
  extract_lets t1 s1
  split
  · rfl
  · exact getPort_of_ports (s := s1) rfl rfl q

theorem sendWire_hop {p : Port} (x : RawSlot) (stomp : Bool) (s : State) (hx : slotType x ≠ 0) :
    (sendWire p x stomp s).out.hop = s.out.hop ++ [⟨p, x, slotTrailer x stomp⟩] := by
  unfold sendWire
  extract_lets t1 s1
  rw [if_neg (by rwa [beq_iff_eq])]
  exact congrArg (· ++ _) (sendBlocks_hop ..)

theorem sendSlot_spec (pt : Port) (w : WaitSlot) (s : State) : ∃ y,
    y = hopFields (rsvDue (getPort s pt)) (getPort s pt).txSeq { w.slot with payload := leavingPayload s w } ∧
    (getPort (sendSlot pt w s) pt).txSeq = (getPort s pt).txSeq + 1 ∧
    (getPort (sendSlot pt w s) pt).replay = (getPort s pt).replay ++
      [{ seq := (getPort s pt).txSeq, slot := y, stomp := w.stomp, sends := 1 }] ∧
    (slotType y ≠ 0 → (sendSlot pt w s).out.hop = s.out.hop ++ [⟨pt, y, slotTrailer y w.stomp⟩]) := by
  refine ⟨_, rfl, ?_, ?_, fun hy => ?_⟩
  · unfold sendSlot
    extract_lets +onlyGivenNames x y keep idle s1
    rw [getPort_sendWire, sendBlocks_field TrunkPort.txSeq (fun _ => rfl)]
    exact congrArg TrunkPort.txSeq (getPort_updPort ..)
  · unfold sendSlot
    extract_lets +onlyGivenNames x y keep idle s1
    rw [getPort_sendWire, sendBlocks_field TrunkPort.replay (fun _ => rfl)]
    exact congrArg TrunkPort.replay (getPort_updPort ..)
  · unfold sendSlot
    extract_lets +onlyGivenNames x src y keep idle s1
    rw [sendWire_hop y w.stomp s1 hy]
    refine congrArg (fun o : Outputs => o.hop ++ [⟨pt, y, slotTrailer y w.stomp⟩]) (updPort_out ..)

section
variable {pt : Port} {s : State}

theorem sendNew_of_full (h : replaySize ≤ (getPort s pt).replay.length) : sendNew pt s = hopDown pt s := by
  unfold sendNew
  extract_lets x
  exact if_pos h

theorem sendNew_of_transit {w : WaitSlot} {rest : List WaitSlot} (hroom : (getPort s pt).replay.length < replaySize)
    (htransit : (getPort s pt).transit = w :: rest) (hpick : rsvDue (getPort s pt) = false ∨ slotPrio w.slot ≤ 1) :
    sendNew pt s = sendSlot pt w (turnTransit (otherPort pt) (updPort s pt fun x => { x with transit := rest })) := by
  have hfirst : pickFirst (fun w : WaitSlot => !rsvDue (getPort s pt) || decide (slotPrio w.slot ≤ 1)) (getPort s pt).transit =
      some (w, rest) := by
    rw [htransit]
    refine if_pos ?_
    rw [Bool.or_eq_true, Bool.not_eq_true', decide_eq_true_eq]
    exact hpick
  unfold sendNew
  extract_lets x
  rw [if_neg (Nat.not_le.2 hroom), hfirst]

theorem sendNew_of_nothing (hroom : (getPort s pt).replay.length < replaySize) (htransit : (getPort s pt).transit = [])
    (hown : ownNext s pt = none) (hctl : controlOnly s pt = false) :
    sendNew pt s = sendSlot pt { slot := emptySlot (ownSrc s) (portRingB pt) } s := by
  unfold sendNew
  extract_lets x
  rw [if_neg (Nat.not_le.2 hroom), show x.transit = [] from htransit, hown]
  change (if controlOnly s pt = true then _ else _) = _
  rw [hctl, if_neg Bool.false_ne_true]

/-! ### Transit (R299) -/

theorem turnTransit_of_open (h : wrapsAt s pt = false) : turnTransit pt s = s := by
  rw [turnTransit, h]
  rfl

theorem turnTransit_of_wrap (h : wrapsAt s pt = true) :
    (getPort (turnTransit pt s) pt).transit =
      (getPort s pt).transit.drop (transitSize - (getPort s (otherPort pt)).transit.length) ∧
    (getPort (turnTransit pt s) (otherPort pt)).transit = (getPort s (otherPort pt)).transit ++
      ((getPort s pt).transit.take (transitSize - (getPort s (otherPort pt)).transit.length)).map fun w =>
        { w with slot := turned w.slot } := by
  unfold turnTransit
  rw [if_pos h]
  extract_lets ws n move s1
  constructor
  · rw [getPort_updPort_other (otherPort_ne pt).symm]
    exact congrArg TrunkPort.transit (getPort_updPort ..)
  · refine (congrArg TrunkPort.transit (getPort_updPort ..)).trans ?_
    change (getPort s1 (otherPort pt)).transit ++ _ = _
    rw [getPort_updPort_other (otherPort_ne pt)]

theorem length_turnTransit (h : (getPort s (otherPort pt)).transit.length ≤ 8) :
    (getPort (turnTransit pt s) (otherPort pt)).transit.length ≤ 8 := by
  cases hw : wrapsAt s pt with
  | false => rwa [turnTransit_of_open hw]
  | true =>
    rw [(turnTransit_of_wrap hw).2, List.length_append, List.length_map, List.length_take, transitSize]
    omega

theorem turnTransit_of_empty (hw : wrapsAt s pt = true) (hother : (getPort s (otherPort pt)).transit = [])
    (hlen : (getPort s pt).transit.length ≤ 8) : (getPort (turnTransit pt s) pt).transit = [] ∧
      (getPort (turnTransit pt s) (otherPort pt)).transit =
        (getPort s pt).transit.map fun w => { w with slot := turned w.slot } := by
  obtain ⟨h1, h2⟩ := turnTransit_of_wrap hw
  rw [hother, List.length_nil, Nat.sub_zero, transitSize] at h1 h2
  rw [List.drop_eq_nil_of_le hlen] at h1
  rw [List.take_of_length_le hlen, List.nil_append] at h2
  exact ⟨h1, h2⟩

theorem forward_of_down {x : RawSlot} (h : (getPort s (forwardPort s x)).phase ≠ .up) (stomp : Bool) :
    forwardSlot pt stomp x s = s ∧ noRoom s x = false := by
  constructor
  · unfold forwardSlot
    extract_lets out w
    exact if_pos (bne_iff_ne.2 h)
  · unfold noRoom
    extract_lets y behind
    rw [show (y.phase == .up) = false from beq_eq_false_iff_ne.2 h, Bool.and_false, Bool.false_and, Bool.false_and]

/-! ### The control gap (R264, R276, R281) -/

theorem lanesOf_pos (w : BitVec 2) : 1 ≤ lanesOf w := by
  unfold lanesOf
  repeat' split
  all_goals decide

theorem endPosition_of_slot (hpos : ((getPort s pt).positions + 1) % 30 ≠ 0)
    (hmark : (getPort s pt).sinceMark < 16384) :
    endPosition pt s = updPort s pt fun x => { x with positions := x.positions + 1 } := by
  unfold endPosition
  extract_lets s1
  have hport : getPort s1 pt = { getPort s pt with positions := (getPort s pt).positions + 1 } := getPort_updPort ..
  have hbetween : betweenSlots pt s1 = s1 := by
    unfold betweenSlots
    extract_lets n s2 x
    have hs2 : s2 = s1 := if_neg (by rw [show n = (getPort s pt).positions + 1 from congrArg TrunkPort.positions hport, beq_iff_eq]; exact hpos)
    have hx : x.sinceMark = (getPort s pt).sinceMark := by
      change (getPort s2 pt).sinceMark = _
      rw [hs2, hport]
    rw [if_neg, hs2]
    have := lanesOf_pos x.widthTx
    omega
  rw [hbetween, ite_self]

theorem goDoze_field {β : Type} (π : TrunkPort → β) (hπ : ∀ x, π (portCore x) = π x) (p : Port) (s : State)
    (hd : ∀ x, π { x with txDoze := true, dozeDue := false } = π x) : π (getPort (goDoze p s) p) = π (getPort s p) := by
  rw [goDoze, getPort_arbitrate, getPort_updPort, hd, ← hπ, portCore_sendMarks, hπ]

theorem goDoze_dozes (p : Port) (s : State) : (getPort (goDoze p s) p).txDoze = true ∧ (getPort (goDoze p s) p).dozeDue = false := by
  rw [goDoze, getPort_arbitrate, getPort_updPort]
  exact ⟨rfl, rfl⟩

/-- DOZE stays due while the port is still idle. -/
def dueKept (idle : Bool) (x : TrunkPort) : TrunkPort := { x with dozeDue := x.dozeDue && idle }

/-- What is owed has been sent: the NAK, or the ACK. -/
def owedSent (x : TrunkPort) : TrunkPort :=
  if x.nakOwed then { x with nakOwed := false, naksSent := satInc x.naksSent } else { x with ackOwed := false }

theorem owedSent_owed (x : TrunkPort) : (owedSent x).nakOwed = false ∧
    (x.nakOwed = true → (owedSent x).naksSent = satInc x.naksSent ∧ (owedSent x).ackOwed = x.ackOwed) ∧
    (x.nakOwed = false → (owedSent x).naksSent = x.naksSent ∧ (owedSent x).ackOwed = false) := by
  unfold owedSent
  split
  · next h => exact ⟨rfl, fun _ => ⟨rfl, rfl⟩, fun hf => absurd (hf.symm.trans h) Bool.false_ne_true⟩
  · next h => exact ⟨Bool.eq_false_iff.2 h, fun ht => absurd ht h, fun _ => ⟨rfl, rfl⟩⟩

theorem portCore_owedSent (x : TrunkPort) : portCore (owedSent x) = owedSent (portCore x) := by
  have hnak : (portCore x).nakOwed = x.nakOwed := rfl
  unfold owedSent
  rw [hnak]
  split <;> rfl

theorem sendCtl_field {β : Type} (π : TrunkPort → β) (hπ : ∀ x, π (portCore x) = π x) (p q : Port) (bs : List (BitVec 64))
    (s : State) : π (getPort (sendCtl p bs s) q) = π (getPort s q) := by
  rw [← hπ, portCore_sendCtl, hπ]

/-- What the control gap does to its port: what is owed leaves, and DOZE too while the port is still idle. -/
theorem sendGap_field {β : Type} (π : TrunkPort → β) (hπ : ∀ x, π (portCore x) = π x) (n : Nat) :
    ∃ u, π (getPort u pt) = π (owedSent (dueKept (stillIdle s pt) (getPort s pt))) ∧
      sendGap pt n s = if (getPort s pt).dozeDue && stillIdle s pt then goDoze pt u else u := by
  unfold sendGap
  extract_lets s1 x good s2 s3
  have hs1 : x = dueKept (stillIdle s pt) (getPort s pt) := getPort_updPort ..
  have hdoze : x.dozeDue = ((getPort s pt).dozeDue && stillIdle s pt) := congrArg TrunkPort.dozeDue hs1
  have hs2 : portCore (getPort s2 pt) = portCore x := portCore_sendCtl ..
  have hs3 : getPort s3 pt = owedSent (getPort s2 pt) := getPort_updPort ..
  refine ⟨s3, ?_, by rw [hdoze]⟩
  rw [← hπ, hs3, portCore_owedSent, hs2, ← portCore_owedSent, hπ, hs1]

theorem sendGap_owed (n : Nat) : (getPort (sendGap pt n s) pt).nakOwed = false ∧ ((getPort s pt).nakOwed = true →
      (getPort (sendGap pt n s) pt).naksSent = satInc (getPort s pt).naksSent ∧
      (getPort (sendGap pt n s) pt).ackOwed = (getPort s pt).ackOwed) ∧
    ((getPort s pt).nakOwed = false → (getPort (sendGap pt n s) pt).naksSent = (getPort s pt).naksSent ∧
      (getPort (sendGap pt n s) pt).ackOwed = false) := by
  have hfield : ∀ {β : Type} (π : TrunkPort → β), (∀ x, π (portCore x) = π x) →
      (∀ x, π { x with txDoze := true, dozeDue := false } = π x) →
      π (getPort (sendGap pt n s) pt) = π (owedSent (dueKept (stillIdle s pt) (getPort s pt))) := by
    intro β π hπ hd
    obtain ⟨u, hu, hgap⟩ := sendGap_field (s := s) (pt := pt) π hπ n
    rw [hgap]
    split
    · rw [goDoze_field π hπ pt u hd, hu]
    · exact hu
  rw [hfield TrunkPort.nakOwed (fun _ => rfl) (fun _ => rfl), hfield TrunkPort.naksSent (fun _ => rfl) (fun _ => rfl),
    hfield TrunkPort.ackOwed (fun _ => rfl) (fun _ => rfl)]
  exact owedSent_owed (dueKept (stillIdle s pt) (getPort s pt))

theorem owedSent_doze (x : TrunkPort) : (owedSent x).txDoze = x.txDoze ∧ (owedSent x).dozeDue = x.dozeDue := by
  unfold owedSent
  split <;> exact ⟨rfl, rfl⟩

theorem sendGap_doze (n : Nat) (h : (getPort s pt).dozeDue = true) :
    (stillIdle s pt = true → (getPort (sendGap pt n s) pt).txDoze = true) ∧
    (stillIdle s pt = false → (getPort (sendGap pt n s) pt).txDoze = (getPort s pt).txDoze) ∧
    (getPort (sendGap pt n s) pt).dozeDue = false := by
  obtain ⟨u, hu, hgap⟩ := sendGap_field (s := s) (pt := pt) (fun x => (x.txDoze, x.dozeDue)) (fun _ => rfl) n
  obtain ⟨htx, hdue⟩ := owedSent_doze (dueKept (stillIdle s pt) (getPort s pt))
  have hutx : (getPort u pt).txDoze = (getPort s pt).txDoze := (congrArg Prod.fst hu).trans htx
  have hudue : (getPort u pt).dozeDue = ((getPort s pt).dozeDue && stillIdle s pt) := (congrArg Prod.snd hu).trans hdue
  rw [hgap, h, Bool.true_and]
  rw [h, Bool.true_and] at hudue
  cases hidle : stillIdle s pt with
  | true =>
    rw [if_pos rfl]
    exact ⟨fun _ => (goDoze_dozes pt u).1, fun h => absurd h.symm Bool.false_ne_true, (goDoze_dozes pt u).2⟩
  | false =>
    rw [if_neg Bool.false_ne_true]
    exact ⟨fun h => absurd h Bool.false_ne_true, fun _ => hutx, hudue.trans hidle⟩

end

theorem inFiller_spec (bs : List (BitVec 64)) (b : BitVec 64) : inFiller (bs ++ [fillerBlock]) b = bs ++ [b] ∧
    (bs.getLast? ≠ some fillerBlock → inFiller bs b = bs ++ [b]) := by
  constructor
  · rw [inFiller, List.getLast?_concat, if_pos (beq_self_eq_true _), List.dropLast_concat]
  · intro h
    rw [inFiller, if_neg (by rwa [beq_iff_eq])]

theorem toNat_ackBlock (q : BitVec 12) (nak : Bool) : (ackBlock q nak).toNat = 0x87 + b2n nak * 2 ^ 8 + q.toNat * 2 ^ 9 := by
  have hq := q.isLt
  have hn := b2n_le_one nak
  rw [ackBlock, mkWord64, BitVec.toNat_ofNat, List.foldl_cons, List.foldl_cons, List.foldl_cons, List.foldl_nil]
  norm_num
  omega

theorem ackBlock_fields (q : BitVec 12) (nak : Bool) : fldN (ackBlock q nak) 0 8 = 0x87 ∧ bitAt (ackBlock q nak) 8 = nak ∧
    fld (ackBlock q nak) 9 12 = q := by
  have hq := q.isLt
  have hn := b2n_le_one nak
  refine ⟨?_, bitAt_eq_iff.2 ?_, BitVec.eq_of_toNat_eq ?_⟩
  · rw [fldN, toNat_fld, toNat_ackBlock]
    omega
  · rw [toNat_ackBlock]
    omega
  · rw [toNat_fld, toNat_ackBlock]
    omega

theorem ackBlock_ne_filler (q : BitVec 12) (nak : Bool) : ackBlock q nak ≠ fillerBlock := by
  intro h
  have h87 := (ackBlock_fields q nak).1
  rw [h] at h87
  exact absurd h87 (by decide)

/-- The block a control gap begins with, before WIDTH or DOZE take a FILLER's place. -/
def gapFirst (x : TrunkPort) : BitVec 64 :=
  if x.nakOwed then ackBlock x.rxSeq true else if x.ackOwed then ackBlock (x.rxSeq - 1) false else fillerBlock

/-- The blocks of a control gap without WIDTH or DOZE. -/
def plainGap (x : TrunkPort) (n : Nat) : List (BitVec 64) :=
  if x.cfg.clocking = false ∨ n / 30 % 16 = 0 then [gapFirst x, fillerBlock] else [gapFirst x]

theorem gapBlocks_eq (x : TrunkPort) (n : Nat) (good : BitVec 4) : gapBlocks x n good = match x.ask with
    | some a => inFiller (plainGap x n) (widthBlock a.width good x.epochRx)
    | none => if x.dozeDue then inFiller (plainGap x n) dozeBlock else plainGap x n := by
  have hbs : (if !x.cfg.clocking || n / 30 % 16 == 0 then [gapFirst x, fillerBlock] else [gapFirst x]) = plainGap x n := by
    rw [plainGap]
    refine if_congr ?_ rfl rfl
    rw [Bool.or_eq_true, Bool.not_eq_true', beq_iff_eq]
  rw [← hbs]
  rfl

theorem gapBlocks_plain {x : TrunkPort} (n : Nat) (good : BitVec 4) (hask : x.ask = none) (hdoze : x.dozeDue = false) :
    gapBlocks x n good = plainGap x n := by
  rw [gapBlocks_eq, hask, hdoze] <;> rfl

theorem head?_inFiller_plainGap {x : TrunkPort} (n : Nat) (b : BitVec 64) (h : gapFirst x ≠ fillerBlock) :
    (inFiller (plainGap x n) b).head? = some (gapFirst x) := by
  unfold plainGap
  split
  · rw [show [gapFirst x, fillerBlock] = [gapFirst x] ++ [fillerBlock] from rfl, (inFiller_spec ..).1]
    rfl
  · rw [(inFiller_spec ..).2 (by rw [List.getLast?_singleton]; exact fun hs => h (Option.some.inj hs))]
    rfl

theorem head?_plainGap (x : TrunkPort) (n : Nat) : (plainGap x n).head? = some (gapFirst x) := by
  unfold plainGap
  split <;> rfl

theorem head?_gapBlocks {x : TrunkPort} (n : Nat) (good : BitVec 4) (h : gapFirst x ≠ fillerBlock) :
    (gapBlocks x n good).head? = some (gapFirst x) := by
  rw [gapBlocks_eq]
  cases x.ask with
  | some a => exact head?_inFiller_plainGap n _ h
  | none =>
    cases x.dozeDue with
    | true => exact head?_inFiller_plainGap n _ h
    | false => exact head?_plainGap x n

theorem gapBlocks_spec (x : TrunkPort) (n : Nat) (good : BitVec 4) :
    (x.nakOwed = true → (gapBlocks x n good).head? = some (ackBlock x.rxSeq true)) ∧
    (x.nakOwed = false → x.ackOwed = true → (gapBlocks x n good).head? = some (ackBlock (x.rxSeq - 1) false)) ∧
    (x.nakOwed = false → x.ackOwed = false → x.ask = none → x.dozeDue = false →
      (gapBlocks x n good).head? = some fillerBlock) ∧
    (∀ a, x.ask = some a → gapBlocks x n good =
      inFiller (gapBlocks { x with ask := none, dozeDue := false } n good) (widthBlock a.width good x.epochRx)) ∧
    (x.ask = none → x.dozeDue = true →
      gapBlocks x n good = inFiller (gapBlocks { x with dozeDue := false } n good) dozeBlock) ∧
    (x.ask = none → x.dozeDue = false →
      ((gapBlocks x n good).length = 2 ↔ x.cfg.clocking = false ∨ n / 30 % 16 = 0)) := by
  refine ⟨fun hn => ?_, fun hn ha => ?_, fun hn ha hask hdoze => ?_, fun a hask => ?_, fun hask hdoze => ?_, fun hask hdoze => ?_⟩
  · have hf : gapFirst x = ackBlock x.rxSeq true := if_pos hn
    rw [head?_gapBlocks n good (hf ▸ ackBlock_ne_filler x.rxSeq true), hf]
  · have hf : gapFirst x = ackBlock (x.rxSeq - 1) false := by rw [gapFirst, hn, ha]; rfl
    rw [head?_gapBlocks n good (hf ▸ ackBlock_ne_filler (x.rxSeq - 1) false), hf]
  · have hf : gapFirst x = fillerBlock := by rw [gapFirst, hn, ha]; rfl
    rw [gapBlocks_plain n good hask hdoze, head?_plainGap, hf]
  · rw [gapBlocks_plain (x := { x with ask := none, dozeDue := false }) n good rfl rfl, gapBlocks_eq, hask] <;> rfl
  · rw [gapBlocks_plain (x := { x with dozeDue := false }) n good hask rfl, gapBlocks_eq, hask, hdoze] <;> rfl
  · rw [gapBlocks_plain n good hask hdoze, plainGap]
    split
    · next h => exact iff_of_true rfl h
    · next h => exact iff_of_false (by simp) h

/-! ### WIDTH (R279, R280) -/

section
variable {t : Instant} {pt : Port} {b : BitVec 64} {s : State} (hlive : trunkLive s = true)
include hlive

theorem exec_width_training (hb : fldN b 0 8 = 0x66) (hph : (getPort s pt).phase = .caps ∨ (getPort s pt).phase = .adapt)
    (hw : fld b 8 2 ≠ 3) : exec (.width t pt b) s = .next (updPort (setNow t s) pt fun x => { x with
      widthTx := fld b 8 2
      lanesTx := widthLanes (fld b 8 2) (maskLanes (fld b 10 4)) }) := by
  have hdiag : (getPort s pt).phase ≠ .diag := by rcases hph with h | h <;> rw [h] <;> decide
  have htrain : ((getPort s pt).phase == .caps || (getPort s pt).phase == .adapt) = true := by
    rw [Bool.or_eq_true, beq_iff_eq, beq_iff_eq]
    exact hph
  change execWidth t pt b s = _
  rw [execWidth, portEvent_of_live hlive]
  simp only [echoCtl_of_service (u := setNow t s) (pt := pt) (by rwa [getPort_setNow]), getPort_setNow, hb, ne_eq,
    not_true_eq_false, decide_false, Bool.false_or, beq_eq_false_iff_ne.2 hw, Bool.false_eq_true, if_false, htrain, if_true]

theorem exec_width_service (hb : fldN b 0 8 = 0x66) (hph : (getPort s pt).phase = .up) (hw : fld b 8 2 ≠ 3) :
    exec (.width t pt b) s = .next (if (fld b 8 2 == (getPort s pt).widthTx &&
        widthLanes (fld b 8 2) (maskLanes (fld b 10 4)) == (getPort s pt).lanesTx) = true then setNow t s
      else arbitrate (if (fld b 8 2 == (getPort s pt).widthTx) = true
        then sendMarks pt (widthLanes (fld b 8 2) (maskLanes (fld b 10 4))) (updPort (setNow t s) pt fun x =>
          countWidth x.widthTx (fld b 8 2) { x with
            widthTx := fld b 8 2, lanesTx := widthLanes (fld b 8 2) (maskLanes (fld b 10 4))
            epochTx := x.epochTx + 1, resend := x.replay, dealt := 0 })
        else raiseWidth pt (sendMarks pt (widthLanes (fld b 8 2) (maskLanes (fld b 10 4))) (updPort (setNow t s) pt fun x =>
          countWidth x.widthTx (fld b 8 2) { x with
            widthTx := fld b 8 2, lanesTx := widthLanes (fld b 8 2) (maskLanes (fld b 10 4))
            epochTx := x.epochTx + 1, resend := x.replay, dealt := 0 })))) := by
  have htrain : ((getPort s pt).phase == .caps || (getPort s pt).phase == .adapt) = false := by rw [hph]; rfl
  have hup : ((getPort s pt).phase != .up) = false := by rw [hph]; rfl
  change execWidth t pt b s = _
  rw [execWidth, portEvent_of_live hlive]
  simp only [echoCtl_of_service (u := setNow t s) (pt := pt) (by rw [getPort_setNow, hph]; decide), getPort_setNow, hb, ne_eq,
    not_true_eq_false, decide_false, Bool.false_or, beq_eq_false_iff_ne.2 hw, Bool.false_eq_true, if_false, htrain, hup]

end

theorem getPort_raiseWidth (p q : Port) (s : State) : getPort (raiseWidth p s) q = getPort s q := by
  rw [raiseWidth, getPort_raise]

theorem arbitrate_out (s : State) : (arbitrate s).out = s.out := by
  obtain ⟨g, l, n, e, h⟩ := arbitrate_eq s
  rw [h]

theorem sendMarks_ctl (p : Port) (on : BitVec 4) (s : State) : (sendMarks p on s).out.ctl = s.out.ctl ++
    (maskLanes on).map fun l =>
      ⟨p, some l, markBlock l (getPort s p).widthTx (getPort s p).epochTx (getPort s p).markSeq⟩ := by
  unfold sendMarks
  extract_lets +onlyGivenNames x mark r src s1
  exact congrArg (fun o : Outputs => o.ctl ++ _) (updPort_out ..)

/-- A new width of the sender: its lanes, its epoch, and what is replayed. -/
theorem exec_width_new {t : Instant} {pt : Port} {b : BitVec 64} {s : State} {w : BitVec 2} {lanes : BitVec 4}
    (hlive : trunkLive s = true) (hb : fldN b 0 8 = 0x66) (hph : (getPort s pt).phase = .up) (hw : w = fld b 8 2) (h3 : w ≠ 3)
    (hlanes : lanes = widthLanes w (maskLanes (fld b 10 4))) (hnew : w ≠ (getPort s pt).widthTx) :
    ∃ u, exec (.width t pt b) s = .next u ∧ (getPort u pt).widthTx = w ∧ (getPort u pt).lanesTx = lanes ∧
      (getPort u pt).epochTx = (getPort s pt).epochTx + 1 ∧ (getPort u pt).resend = (getPort s pt).replay ∧
      u.out.ctl = s.out.ctl ++ (maskLanes lanes).map fun l =>
        ⟨pt, some l, markBlock l w ((getPort s pt).epochTx + 1) (getPort s pt).markSeq⟩ := by
  subst hw hlanes
  refine ⟨_, exec_width_service hlive hb hph h3, ?_⟩
  rw [if_neg fun h => hnew (beq_iff_eq.1 (Bool.and_eq_true_iff.1 h).1), if_neg fun h => hnew (beq_iff_eq.1 h)]
  have hfield : ∀ {β : Type} (π : TrunkPort → β), (∀ x, π (portCore x) = π x) → ∀ u : State,
      π (getPort (arbitrate (raiseWidth pt (sendMarks pt (widthLanes (fld b 8 2) (maskLanes (fld b 10 4))) u))) pt) =
        π (getPort u pt) := by
    intro β π hπ u
    rw [getPort_arbitrate, getPort_raiseWidth, ← hπ, portCore_sendMarks, hπ]
  refine ⟨?_, ?_, ?_, ?_, ?_⟩
  · rw [hfield TrunkPort.widthTx (fun _ => rfl), getPort_updPort]
    rfl
  · rw [hfield TrunkPort.lanesTx (fun _ => rfl), getPort_updPort]
    rfl
  · rw [hfield TrunkPort.epochTx (fun _ => rfl), getPort_updPort, getPort_setNow]
    rfl
  · rw [hfield TrunkPort.resend (fun _ => rfl), getPort_updPort, getPort_setNow]
    rfl
  · rw [arbitrate_out, raiseWidth, raise_out, sendMarks_ctl, getPort_updPort, getPort_setNow, updPort_out]
    rfl

theorem exec_width_same {t : Instant} {pt : Port} {b : BitVec 64} {s : State} (hlive : trunkLive s = true)
    (hb : fldN b 0 8 = 0x66) (hph : (getPort s pt).phase = .up) (h3 : fld b 8 2 ≠ 3) (hw : fld b 8 2 = (getPort s pt).widthTx)
    (hlanes : widthLanes (fld b 8 2) (maskLanes (fld b 10 4)) = (getPort s pt).lanesTx) :
    exec (.width t pt b) s = .next (setNow t s) := by
  rw [exec_width_service hlive hb hph h3, if_pos]
  rw [Bool.and_eq_true, beq_iff_eq, beq_iff_eq]
  exact ⟨hw, hlanes⟩

/-! ### Lanes that are lost (R279) -/

section
variable {pt : Port} {l : Nat} {s : State}

theorem loseLane_of_unused (h : (getPort s pt).phase ≠ .up ∨ (getPort s pt).rxDoze = true ∨ bitAt (getPort s pt).lanesRx l = false) :
    loseLane pt l s = s := by
  unfold loseLane
  extract_lets x
  refine if_pos ?_
  rw [Bool.or_eq_true, Bool.or_eq_true, Bool.or_eq_true, bne_iff_ne, Bool.not_eq_true']
  exact .inl (by rw [or_assoc]; exact h)

/-- A lane in use that is noted as lost. -/
def laneGone (pt : Port) (l : Nat) (s : State) : State :=
  raise 0x0505 (portNo pt) l 0 (updPort s pt (updLane l fun y => { y with lost := true, goodSince := none, badAt := [], train := 2 }))

/-- What narrows a port to the given lanes. -/
def shedTo (good : List Nat) (now : Nat) (x : TrunkPort) : TrunkPort :=
  { x with ask := some {
    good := lanesMask good, width := widest good.length, widen := false, epoch := x.epochRx
    since := ((x.ask.filter fun a => !a.widen).map (·.since)).getD now } }

variable (hph : (getPort s pt).phase = .up) (hdoze : (getPort s pt).rxDoze = false) (hrx : bitAt (getPort s pt).lanesRx l = true)
  (hlost : (laneAt (getPort s pt) l).lost = false)
include hph hdoze hrx hlost

/-- A lane in use that is lost: the port narrows to its good lanes, or the hop goes down. -/
theorem loseLane_of_used : ∃ good, loseLane pt l s =
    if (hasFeature s 4 && !good.isEmpty && (getPort s pt).cfg.minWidth.toNat ≤ (widest good.length).toNat) = true then
      updPort (laneGone pt l s) pt (shedTo good s.now.real)
    else hopDown pt (laneGone pt l s) := by
  have hfeature : hasFeature (laneGone pt l s) 4 = hasFeature s 4 := by
    unfold laneGone hasFeature
    rw [raise_ring, updPort_ring]
  have hnow : (laneGone pt l s).now = s.now := by
    unfold laneGone
    rw [raise_now, updPort_now]
  refine ⟨byTxLane (getPort s pt) ((goodLanes (getPort s pt)).filter (· ≠ l)), ?_⟩
  unfold loseLane
  extract_lets x s1 good
  rw [if_neg]
  · rw [show hasFeature s1 4 = hasFeature s 4 from hfeature, show s1.now = s.now from hnow]
    rfl
  · rw [show x = getPort s pt from rfl, hph, hdoze, hrx, hlost]
    decide

theorem loseLane_of_dual (hf : hasFeature s 4 = false) : loseLane pt l s = hopDown pt (laneGone pt l s) := by
  obtain ⟨good, h⟩ := loseLane_of_used hph hdoze hrx hlost
  rw [h, hf, Bool.false_and, Bool.false_and, if_neg Bool.false_ne_true]

omit hph hdoze hrx hlost in
theorem hopDown_phase (h : (getPort s pt).phase = .up) : (getPort (hopDown pt s) pt).phase ≠ .up := by
  rw [hopDown, h, if_neg (by decide)]
  cases hen : ((getPort (loseHop pt s) pt).nextCfg.getD (getPort (loseHop pt s) pt).cfg).enable with
  | false =>
    rw [startAttempt_of_off true hen]
    exact fun h => TrunkPhase.noConfusion h
  | true =>
    obtain ⟨x, hx, hph, -⟩ := startAttempt_spec pt true (loseHop pt s) hen
    rw [hx, hph]
    decide

/-- A lane is lost and the hop stays up: the port asks for a smaller width, since the first lane was lost. -/
theorem loseLane_ask (hstay : (getPort (loseLane pt l s) pt).phase = .up) : ∃ a,
    (getPort (loseLane pt l s) pt).ask = some a ∧ a.widen = false ∧ a.epoch = (getPort s pt).epochRx ∧
      ((∀ b ∈ (getPort s pt).ask, b.widen = true) → a.since = s.now.real) ∧
      (∀ b ∈ (getPort s pt).ask, b.widen = false → a.since = b.since) := by
  have hgone : getPort (laneGone pt l s) pt =
      updLane l (fun y => { y with lost := true, goodSince := none, badAt := [], train := 2 }) (getPort s pt) := by
    unfold laneGone
    rw [getPort_raise, getPort_updPort]
  obtain ⟨good, h⟩ := loseLane_of_used hph hdoze hrx hlost
  rw [h] at hstay ⊢
  split at hstay
  · next hc =>
    rw [if_pos hc, getPort_updPort, hgone]
    refine ⟨_, rfl, rfl, rfl, fun hwiden => ?_, fun b hb hb0 => ?_⟩
    · change ((Option.filter _ (getPort s pt).ask).map _).getD _ = _
      cases hask : (getPort s pt).ask with
      | none => rfl
      | some b => rw [Option.filter_some, hwiden b hask]; rfl
    · change ((Option.filter _ (getPort s pt).ask).map _).getD _ = _
      rw [Option.mem_def.1 hb, Option.filter_some, hb0]
      rfl
  · refine absurd hstay (hopDown_phase ?_)
    rw [hgone]
    exact hph

end

/-! ### A new group of lanes (R279) -/

theorem groupCame_iff (x : TrunkPort) (a : WidthAsk) (e : BitVec 4) : groupCame x a e = true ↔
    e ≠ a.epoch ∧ ∀ l ∈ maskLanes (askLanes x a), (laneAt x l).markEpoch = e ∧ (laneAt x l).markWidth = a.width := by
  simp only [groupCame, Bool.and_eq_true, bne_iff_ne, List.all_eq_true, beq_iff_eq]

theorem takeWidth_of_none {pt : Port} {e : BitVec 4} {s : State}
    (h : ∀ a ∈ (getPort s pt).ask, groupCame (getPort s pt) a e = false) :
    takeWidth pt e s = updPort s pt fun x => { x with epochRx := e } := by
  unfold takeWidth
  extract_lets s1 x
  have hx : x = { getPort s pt with epochRx := e } := getPort_updPort ..
  have hask : x.ask = (getPort s pt).ask := by rw [hx]
  rw [hask]
  cases ha : (getPort s pt).ask with
  | none => rfl
  | some a =>
    refine if_pos ?_
    have hcame : groupCame x a e = groupCame (getPort s pt) a e := by rw [hx]; rfl
    rw [hcame, h a ha]
    rfl

/-- The group asked for has come: the receiver takes its width and its lanes. -/
theorem takeWidth_of_group {pt : Port} {e : BitVec 4} {s : State} {a : WidthAsk} (hask : (getPort s pt).ask = some a)
    (hcame : groupCame (getPort s pt) a e = true) : ∃ v, takeWidth pt e s =
      arbitrate (if (a.width == (getPort s pt).widthRx) = true then v else raiseWidth pt v) ∧ v.events = s.events ∧
      (getPort v pt).widthRx = a.width ∧ (getPort v pt).lanesRx = askLanes (getPort s pt) a ∧ (getPort v pt).epochRx = e ∧
      (getPort v pt).ask = none ∧ (getPort v pt).sheds =
        if a.width.toNat < (getPort s pt).widthRx.toNat then satInc (getPort s pt).sheds else (getPort s pt).sheds := by
  unfold takeWidth
  extract_lets s1 x
  have hx : x = { getPort s pt with epochRx := e } := getPort_updPort ..
  have hxa : x.ask = some a := by rw [hx, ← hask]
  have hxc : groupCame x a e = true := by
    rw [hx]
    exact hcame
  rw [hxa]
  dsimp -zeta only
  extract_lets w fresh v
  rw [if_neg (by rw [hxc]; decide), show x.widthRx = (getPort s pt).widthRx by rw [hx]]
  have hv : getPort v pt = countWidth x.widthRx w { x with
      widthRx := w, lanesRx := askLanes x a, ask := none
      lanes := x.lanes.zipIdx.map fun l => fresh l.2 l.1
      lastWiden := if x.widthRx.toNat < w.toNat then some s1.now.real else x.lastWiden } := getPort_updPort ..
  refine ⟨v, rfl, ?_, ?_⟩
  · exact (updPort_events ..).trans (updPort_events ..)
  · rw [hv, hx]
    exact ⟨rfl, rfl, rfl, rfl, rfl⟩

/-! ### Figures of merit and restored lanes (R280) -/

section
variable {t : Instant} {pt : Port} {s : State} (hlive : trunkLive s = true)
include hlive

theorem exec_fomMeasure_idle {eyes : List EyeOpening} (h : (getPort s pt).phase ≠ .up ∨ (getPort s pt).rxDoze = true) :
    exec (.fomMeasure t pt eyes) s = .next (setNow t s) := by
  have hcond : ((getPort s pt).phase != .up || (getPort s pt).rxDoze) = true := by
    rw [Bool.or_eq_true, bne_iff_ne]
    exact h
  change execFomMeasure t pt eyes s = _
  rw [execFomMeasure, portEvent_of_live hlive]
  simp only [getPort_setNow, hcond, if_true]

theorem exec_fomMeasure_live {eyes : List EyeOpening} (hph : (getPort s pt).phase = .up) (hdoze : (getPort s pt).rxDoze = false) :
    ∃ d : Nat → List (BitVec 6), exec (.fomMeasure t pt eyes) s =
      .next (loseLowLanes pt (updPort { setNow t s with free := s.free + 1 } pt fun x =>
        { x with lanes := x.lanes.zipIdx.map fun l =>
          takeFom (setNow t s).now.real x.cfg.fomMin.toNat (fomOf (eyes.getD l.2 ⟨0, 0⟩)) (d l.2) l.1 })) := by
  have hcond : ((getPort s pt).phase != .up || (getPort s pt).rxDoze) = false := by
    rw [hph, hdoze]
    rfl
  refine ⟨foundDfe (Config.freeWord s.free), ?_⟩
  change execFomMeasure t pt eyes s = _
  rw [execFomMeasure, portEvent_of_live hlive]
  simp only [getPort_setNow, hcond, Bool.false_eq_true, if_false]
  rfl

omit hlive in
theorem match_some_eq_any (f : Nat → Bool) (o : Option Nat) :
    (match o with
      | some n => f n
      | none => false) = o.any f := by
  cases o <;> rfl

theorem exec_widthRestore_due {good : List Nat} (hph : (getPort s pt).phase = .up) (hen : (getPort s pt).cfg.restoreEn = true)
    (hf : hasFeature s 4 = true) (hask : (getPort s pt).ask = none)
    (hlast : ∀ n ∈ (getPort s pt).lastWiden, passed (setNow t s) n 1000000000 = true)
    (hgood : good = byTxLane (getPort s pt) ((usableLanes (getPort s pt)).filter fun l => bitAt (getPort s pt).lanesRx l ||
      (decide ((laneAt (getPort s pt) l).train = 0) &&
        (laneAt (getPort s pt) l).goodSince.any fun n => passed (setNow t s) n 100000000)))
    (hne : good ≠ []) (hw : (getPort s pt).widthRx.toNat < (widest good.length).toNat) : exec (.widthRestore t pt) s =
      .next (updPort (setNow t s) pt fun x => { x with
        ask := some ⟨lanesMask good, widest good.length, (setNow t s).now.real, true, x.epochRx⟩ }) := by
  change execWidthRestore t pt s = _
  rw [execWidthRestore, portEvent_of_live hlive]
  refine congrArg Host.Outcome.next ?_
  extract_lets x held good' due
  have hx : x = getPort s pt := getPort_setNow ..
  have hheld : held = fun l => bitAt (getPort s pt).lanesRx l || (decide ((laneAt (getPort s pt) l).train = 0) &&
      (laneAt (getPort s pt) l).goodSince.any fun n => passed (setNow t s) n 100000000) := by
    funext l
    rw [← hx]
    exact congrArg (fun b => bitAt x.lanesRx l || (decide ((laneAt x l).train = 0) && b)) (match_some_eq_any _ _)
  have hgood' : good' = good := by
    change byTxLane x ((usableLanes x).filter held) = _
    rw [hheld, hx, hgood]
  have hdue : due = true := by
    change (match x.lastWiden with
      | some n => passed (setNow t s) n 1000000000
      | none => true) = true
    rw [hx]
    cases hl : (getPort s pt).lastWiden with
    | none => rfl
    | some n => exact hlast n hl
  rw [hgood', hdue, hx, hph, hen, show hasFeature (setNow t s) 4 = true from hf, hask, if_pos]
  rw [decide_eq_true hw, List.isEmpty_eq_false_iff.2 hne]
  rfl

/-! ### DOZE (R281) -/

theorem exec_dozeEntry_idle {n : Nat} {c : BitVec 64} (hph : (getPort s pt).phase = .up) (htx : (getPort s pt).txDoze = false)
    (hen : (getPort s pt).cfg.dozeEn = true) (hc : (getPort s pt).partnerCaps = some c) (h22 : bitAt c 22 = true)
    (hn : (getPort s pt).idleSince = some n) (hpassed : passed (setNow t s) n (1000 * (getPort s pt).cfg.dozeIdle.toNat) = true)
    (hreplay : (getPort s pt).replay = []) (hack : (getPort s pt).ackOwed = false) (hnak : (getPort s pt).nakOwed = false)
    (hask : (getPort s pt).ask = none) : exec (.dozeEntry t pt) s = .next (updPort (setNow t s) pt fun x =>
      { x with dozeDue := true }) := by
  change execDozeEntry t pt s = _
  rw [execDozeEntry, portEvent_of_live hlive]
  simp only [getPort_setNow, hph, htx, hen, hc, h22, hn, hpassed, hreplay, hack, hnak, hask, List.isEmpty_nil, Option.isNone_none,
    Bool.not_false, beq_self_eq_true, Bool.and_self, if_true]

theorem exec_wakeLockTimeout_awake {m : BitVec 4} (h : (getPort s pt).rxWakeAt = none) :
    exec (.wakeLockTimeout t pt m) s = .next (setNow t s) := by
  change execWakeLockTimeout t pt m s = _
  rw [execWakeLockTimeout, portEvent_of_live hlive]
  simp only [getPort_setNow, h]

theorem exec_wakeLockTimeout_locked {n : Nat} (h : (getPort s pt).rxWakeAt = some n) (hp : passed (setNow t s) n 10000 = true) :
    exec (.wakeLockTimeout t pt 15) s = .next (updPort (setNow t s) pt fun x => { x with rxWakeAt := none }) := by
  change execWakeLockTimeout t pt 15 s = _
  rw [execWakeLockTimeout, portEvent_of_live hlive]
  simp only [getPort_setNow, h, hp, if_true]
  refine congrArg Host.Outcome.next (foldl_of_fixed fun l hl => if_pos ?_)
  have hl4 := List.mem_range.1 (List.mem_filter.1 hl).1
  interval_cases l <;> rfl

end

theorem loseLowLanes_of_good {pt : Port} {s : State}
    (h : ∀ l < 4, ∀ n ∈ (laneAt (getPort s pt) l).lowSince, passed s n 10000000 = false) : loseLowLanes pt s = s := by
  refine foldl_of_fixed fun l hl => ?_
  cases hn : (laneAt (getPort s pt) l).lowSince with
  | none => rfl
  | some n => exact if_neg (Bool.eq_false_iff.1 (h l (List.mem_range.1 hl) n hn))

theorem loseLowLanes_of_last {pt : Port} {s : State} {n : Nat} (h3 : (laneAt (getPort s pt) 3).lowSince = some n)
    (hp : passed s n 10000000 = true) (h : ∀ l < 3, (laneAt (getPort s pt) l).lowSince = none) :
    loseLowLanes pt s = loseLane pt 3 s := by
  unfold loseLowLanes
  rw [show List.range 4 = List.range 3 ++ [3] from rfl, List.foldl_append, List.foldl_cons, List.foldl_nil]
  rw [foldl_of_fixed (l := List.range 3) fun l hl => by rw [h l (List.mem_range.1 hl)]]
  rw [h3]
  exact if_pos hp

theorem takeFom_of_trained {now min : Nat} {f : Byte} {d : List (BitVec 6)} {l : LaneState} (h : l.train = 0) :
    (f.toNat < min → takeFom now min f d l =
      { l with fom := f, dfe := d, lowSince := some (l.lowSince.getD now), goodSince := none }) ∧
    (min ≤ f.toNat → takeFom now min f d l =
      { l with fom := f, dfe := d, lowSince := none, goodSince := some (l.goodSince.getD now) }) := by
  unfold takeFom
  rw [if_neg (not_not_intro h)]
  exact ⟨fun hlt => if_pos hlt, fun hle => if_neg (Nat.not_lt.2 hle)⟩

/-- Slots parked one after another while the hop wakes. -/
theorem foldl_parkSlot (ws : List WaitSlot) (x : TrunkPort) :
    (ws.foldl (fun x w => parkSlot w x) x).replay.length = x.replay.length + ws.length ∧
    (ws.foldl (fun x w => parkSlot w x) x).txSeq = x.txSeq + BitVec.ofNat 12 ws.length ∧
    ∀ {β : Type} (π : TrunkPort → β), (∀ x w, π (parkSlot w x) = π x) → π (ws.foldl (fun x w => parkSlot w x) x) = π x := by
  induction ws generalizing x with
  | nil => exact ⟨rfl, (BitVec.add_zero _).symm, fun _ _ => rfl⟩
  | cons w ws ih =>
    obtain ⟨hreplay, hseq, hkept⟩ := ih (parkSlot w x)
    rw [List.foldl_cons]
    refine ⟨?_, ?_, fun π hπ => (hkept π hπ).trans (hπ ..)⟩
    · rw [hreplay, parkSlot, List.length_append, List.length_singleton, List.length_cons, Nat.add_assoc, Nat.add_comm 1]
    · rw [hseq, List.length_cons, parkSlot, BitVec.ofNat_add, BitVec.add_assoc, BitVec.add_comm 1]
      rfl


/-! ### DOZE that ends, and the statement -/

theorem updPort_others (s : State) (p : Port) (f : TrunkPort → TrunkPort) :
    { updPort s p f with west := s.west, east := s.east } = s := by
  cases p <;> rfl

/-- The port as it begins to wake its partner's receiver. -/
def wakeBegun (now : Nat) (x : TrunkPort) : TrunkPort :=
  { x with txDoze := false, idleSince := none, txWakeAt := some now, dozeWakes := satInc x.dozeWakes }

theorem exec_dozeWake_due {t : Instant} {pt : Port} {s : State} (hlive : trunkLive s = true) (hph : (getPort s pt).phase = .up)
    (hdoze : (getPort s pt).txDoze = true) (hdue : (getPort s pt).ackOwed = true ∨ (getPort s pt).nakOwed = true ∨
      (getPort s pt).transit ≠ [] ∨ ownWaits (setNow t s) pt = true) : ∃ u,
    exec (.dozeWake t pt) s = .next (arbitrate u) ∧ getPort u pt = { (getPort s pt).transit.foldl (fun x w => parkSlot w x)
      (wakeBegun (setNow t s).now.real (getPort s pt)) with transit := [] } := by
  have hcond : ((getPort s pt).phase == .up && (getPort s pt).txDoze && (!(getPort s pt).transit.isEmpty ||
      ownWaits (setNow t s) pt || (getPort s pt).ackOwed || (getPort s pt).nakOwed || (getPort s pt).ask.isSome)) = true := by
    rw [hph, hdoze]
    simp only [beq_self_eq_true, Bool.true_and, Bool.or_eq_true, Bool.not_eq_true', List.isEmpty_eq_false_iff]
    tauto
  refine ⟨updPort (updPort (setNow t s) pt (wakeBegun (setNow t s).now.real)) pt fun x =>
      { (getPort s pt).transit.foldl (fun x w => parkSlot w x) x with transit := [] }, ?_, ?_⟩
  · change execDozeWake t pt s = _
    rw [execDozeWake, portEvent_of_live hlive]
    simp only [getPort_setNow, hcond, if_true, getPort_updPort]
    rfl
  · rw [getPort_updPort, getPort_updPort, getPort_setNow]

/-- Settles O45, clause by clause from the rules of receiving, sending, the control gap, widths and DOZE. -/
theorem trunkServiceKeepsSlotsInOrder : Obligations.TrunkServiceKeepsSlotsInOrder := by
  unfold Obligations.TrunkServiceKeepsSlotsInOrder
  refine ⟨?_, ?_, fun pt seq s h => takeSlot_of_bad_again pt s seq h, fun pt seq s h => takeSlot_of_old pt s h,
    fun t pt rx before d s hlive h => exec_hopSlotReceive_up hlive h, ?_, ?_, fun h bs => laneIn_inverted h bs,
    ?_, ?_, ?_, fun pt s => loseBadLanes_of_good, fun pt slot s => takeContent_of_empty,
    fun t pt b s hlive hb h8 h => exec_ack_up hlive hb h8 h, mem_releaseSlots,
    fun t pt b s hlive hb h8 h => exec_nak_up hlive hb h8 h, fun t pt b s => exec_ctl_of_down, ?_,
    fun pt keep s r rs h hr => resendFrom_of_many h hr, fun t pt s hlive h hdue => exec_replayTimeout_due hlive h hdue, ?_,
    fun t pt s => exec_slotPositionSend_of_down, fun pt s => ⟨endWake_of_awake, endWake_of_waking⟩, sendSlot_spec,
    fun x => checkSlot_of_trailer, fun pt s => sendNew_of_full, ?_,
    fun pt s => ⟨turnTransit_of_open, length_turnTransit, turnTransit_of_empty⟩,
    fun pt stomp x s h => forward_of_down h stomp, ?_, fun pt s _ hpos hmark => endPosition_of_slot hpos hmark,
    fun pt n s => sendGap_owed n, gapBlocks_spec, inFiller_spec, fun pt n s => sendGap_doze n, ackBlock_fields,
    fun t pt b s hlive hb hph hw => exec_width_training hlive hb hph hw, ?_,
    fun t pt l s hlive => exec_laneLoss_live hlive l, fun pt l s => loseLane_of_unused, ?_,
    fun pt l s hph hdoze hrx hlost => loseLane_ask hph hdoze hrx hlost, fun pt e s => takeWidth_of_none, groupCame_iff, ?_,
    fun t pt s a hlive h hw => exec_shedTimeout_shed hlive h hw, fun t pt eyes s hlive h => exec_fomMeasure_idle hlive h,
    fun t pt eyes s hlive hph hdoze => exec_fomMeasure_live hlive hph hdoze, fun pt s => loseLowLanes_of_good,
    fun pt s n => loseLowLanes_of_last, fun now min f d l => takeFom_of_trained, ?_,
    fun t pt b s hlive hb h => exec_doze_up hlive hb h, ?_, ?_, fun t pt m s hlive h => exec_wakeLockTimeout_awake hlive h,
    fun t pt s n hlive h hp => exec_wakeLockTimeout_locked hlive h hp⟩
  · rintro pt seq s rfl
    obtain ⟨u, hgood, hstomp, hu⟩ := takeSlot_in_order pt s
    refine ⟨u, hgood, hstomp, ?_⟩
    have hport := hu ▸ getPort_updPort ..
    refine ⟨?_, ?_, ?_, ?_, hu ▸ getPort_updPort_other (otherPort_ne pt) .., hu ▸ updPort_others ..⟩ <;> rw [hport]
  · intro pt seq s hnak
    refine ⟨_, takeSlot_of_bad .., ?_⟩
    rw [getPort_updPort, hnak]
    exact ⟨rfl, rfl, Bool.or_true _, rfl⟩
  · intro t pt rx before d s hlive h
    exact ⟨_, exec_hopSlotReceive_diag hlive h, rfl, rfl⟩
  · intro p x y m slot tr _ hlen hdealt hx hrx hlanes
    exact rxSlot_dealBlocks p tr hlen hdealt hx hrx hlanes
  · intro pt r s u hslip hbad hwhole hcheck hseq hroom hu
    exact takeRx_of_good hslip hbad hwhole hcheck hseq hroom hu
  · intro pt r s u hslip hbad hheaded hhdr hcheck hseq hroom hu
    exact takeRx_of_begun hslip hbad hheaded hhdr hcheck hseq hroom hu
  · intro pt r s hslip hnak hbad hcheck hseq
    exact takeRx_of_other hslip hbad hnak hcheck hseq
  · intro pt keep s r rs h hr
    refine ⟨_, resendFrom_of_few h hr, ?_, ?_, updPort_others ..⟩ <;> rw [getPort_updPort, h]
  · rintro t pt s u hlive h hawake rfl
    exact exec_slotPositionSend_of_up hlive h hawake
  · intro pt s w rest hroom htransit hturn
    exact sendNew_of_transit hroom htransit hturn
  · intro pt s hroom htransit hown hctl
    exact sendNew_of_nothing hroom htransit hown hctl
  · intro t pt b s w lanes hlive hb hph hw h3 hlanes
    refine ⟨fun hsame hlsame => ?_, fun hnew => exec_width_new hlive hb hph hw h3 hlanes hnew⟩
    subst hw hlanes
    exact exec_width_same hlive hb hph h3 hsame hlsame
  · intro pt l s hph hdoze hrx hlost hf
    exact ⟨_, loseLane_of_dual hph hdoze hrx hlost hf, rfl⟩
  · rintro pt e w s a hask rfl hcame
    obtain ⟨v, hv, hevents, hw, hlanes, he, hnone, hsheds⟩ := takeWidth_of_group hask hcame
    have hport : getPort (takeWidth pt e s) pt = getPort v pt := by
      rw [hv, getPort_arbitrate]
      split
      · rfl
      · exact getPort_raiseWidth ..
    refine ⟨_, rfl, ?_⟩
    rw [hport]
    refine ⟨hw, hlanes, he, hnone, fun hlt => by rw [hsheds, if_pos hlt], fun heq => ⟨?_, v, ?_, hevents⟩⟩
    · rw [hsheds, heq, if_neg (Nat.lt_irrefl _)]
    · rw [hv, heq, if_pos (beq_self_eq_true _)]
  · intro t pt s good hlive hph hen hf hask hlast hgood hne hw
    exact exec_widthRestore_due hlive hph hen hf hask hlast hgood hne hw
  · intro t pt s n c hlive hph htx hen hc h22 hn hpassed hreplay hack hnak hask
    exact exec_dozeEntry_idle hlive hph htx hen hc h22 hn hpassed hreplay hack hnak hask
  · intro t pt s hlive hph hdoze hdue
    obtain ⟨u, hexec, hu⟩ := exec_dozeWake_due hlive hph hdoze hdue
    obtain ⟨hreplay, hseq, hkept⟩ := foldl_parkSlot (getPort s pt).transit (wakeBegun (setNow t s).now.real (getPort s pt))
    refine ⟨u, hexec, ?_⟩
    rw [hu]
    exact ⟨hkept TrunkPort.txDoze fun _ _ => rfl, hkept TrunkPort.idleSince fun _ _ => rfl,
      hkept TrunkPort.txWakeAt fun _ _ => rfl, hkept TrunkPort.dozeWakes fun _ _ => rfl, rfl, hreplay, hseq⟩


/-! ## The ring: addresses, RING_MAP and PORT_ASSIGN (R298–R304) -/

theorem hopEvent_of_up {t : Instant} {pt : Port} {s : State} (hlive : trunkLive s = true) (hph : (getPort s pt).phase = .up)
    (f : State → State) : hopEvent t pt f s = .next (f (setNow t s)) := by
  have hlive' : trunkLive (setNow t s) = true := hlive
  rw [hopEvent, getPort_setNow, hph, hlive']
  rfl

theorem hopEvent_of_down {t : Instant} {pt : Port} {s : State} (hph : (getPort s pt).phase ≠ .up) (f : State → State) :
    hopEvent t pt f s = .next (setNow t s) := by
  rw [hopEvent, getPort_setNow, beq_eq_false_iff_ne.2 hph, Bool.and_false]
  rfl

theorem ringEvent_of_live {t : Instant} {s : State} (hlive : trunkLive s = true) (f : State → State) :
    ringEvent t f s = .next (f (setNow t s)) := congrArg Host.Outcome.next (if_pos hlive)

/-! ### RING_MAP -/

theorem toNat_ringWord0 (r : RingState) (conf : Bool) :
    (mkWord [(r.gen.toNat, 16), (r.nodes.toNat, 8), (b2n conf, 7), (r.addr.toNat, 0)]).toNat =
      r.gen.toNat * 65536 + r.nodes.toNat * 256 + b2n conf * 128 + r.addr.toNat := by
  have := r.gen.isLt
  have := r.nodes.isLt
  have := b2n_le_one conf
  have := r.addr.isLt
  rw [toNat_mkWord]
  simp only [List.foldl_cons, List.foldl_nil]
  omega

theorem ringWord0_fields (r : RingState) (conf : Bool) (w : Word)
    (h : w = mkWord [(r.gen.toNat, 16), (r.nodes.toNat, 8), (b2n conf, 7), (r.addr.toNat, 0)]) :
    fld w 0 7 = r.addr ∧ bitAt w 7 = conf ∧ fld w 8 8 = r.nodes ∧ fld w 16 16 = r.gen := by
  have := r.gen.isLt
  have := r.nodes.isLt
  have := b2n_le_one conf
  have := r.addr.isLt
  have hw := h ▸ toNat_ringWord0 r conf
  refine ⟨BitVec.eq_of_toNat_eq ?_, bitAt_eq_iff.2 ?_, BitVec.eq_of_toNat_eq ?_, BitVec.eq_of_toNat_eq ?_⟩ <;>
    simp only [toNat_fld, hw] <;> omega

theorem ringWord1_fields (r : RingState) (present : Bool) (w : Word)
    (h : w = mkWord [(r.features.toNat, 24), (r.position.toNat, 16), (b2n present, 3), (b2n r.isString, 2), (b2n r.wrapWest, 1),
      (b2n r.wrapEast, 0)]) :
    fld w 16 8 = r.position ∧ fld w 24 8 = r.features ∧ bitAt w 0 = r.wrapEast ∧ bitAt w 1 = r.wrapWest ∧
      bitAt w 2 = r.isString ∧ bitAt w 3 = present := by
  have := r.features.isLt
  have := r.position.isLt
  have := b2n_le_one present
  have := b2n_le_one r.isString
  have := b2n_le_one r.wrapWest
  have := b2n_le_one r.wrapEast
  have hw : w.toNat = r.features.toNat * 16777216 + r.position.toNat * 65536 + b2n present * 8 + b2n r.isString * 4 +
      b2n r.wrapWest * 2 + b2n r.wrapEast := by
    rw [h, toNat_mkWord]
    simp only [List.foldl_cons, List.foldl_nil]
    omega
  refine ⟨BitVec.eq_of_toNat_eq ?_, BitVec.eq_of_toNat_eq ?_, bitAt_eq_iff.2 ?_, bitAt_eq_iff.2 ?_, bitAt_eq_iff.2 ?_,
    bitAt_eq_iff.2 ?_⟩ <;> simp only [toNat_fld, hw] <;> omega

/-- The ring is present while its last ROTOR is no older than 1 ms. -/
def rotorPresent (s : State) : Bool := s.ring.lastRotor.any fun a => !passed s a 1000000

theorem ringMapBody_of_legal {c : Cmd} {s : State} (h : firstReserved c.words [0] = none) : ringMapBody c s = cmdOk s [
    mkWord [(s.ring.gen.toNat, 16), (s.ring.nodes.toNat, 8), (b2n (s.ring.addrPhase == .confirmed), 7), (s.ring.addr.toNat, 0)],
    mkWord [(s.ring.features.toNat, 24), (s.ring.position.toNat, 16), (b2n (rotorPresent s), 3), (b2n s.ring.isString, 2),
      (b2n s.ring.wrapWest, 1), (b2n s.ring.wrapEast, 0)],
    wordOf s.ring.cRing.toNat, s.ring.tRotNs, s.ring.orphans, s.ring.wraps, s.ring.collisions] := by
  unfold ringMapBody
  extract_lets r present
  have hpresent : present = rotorPresent s := match_some_eq_any ..
  rw [judged_of_none _ _ h, hpresent]

/-! ### MGMT slots of the node's own -/

theorem ownSlot_dest (s : State) {type prio : Nat} (ht : type < 16) (hp : prio < 4) (dest : BitVec 7) (sop : Bool) (port : BitVec 9)
    (ringB : Bool) (ws : List Word) : slotDest (ownSlot s type prio dest sop port ringB ws) = dest := by
  have := dest.isLt
  have := (ownSrc s).isLt
  have := b2n_le_one sop
  have := port.isLt
  have := b2n_le_one ringB
  have hw : (ownSlot s type prio dest sop port ringB ws).hdr.toNat = 0xD2 + type * 2 ^ 8 + prio * 2 ^ 12 + dest.toNat * 2 ^ 14 +
      (ownSrc s).toNat * 2 ^ 21 + b2n sop * 2 ^ 40 + port.toNat * 2 ^ 41 + b2n ringB * 2 ^ 50 := by
    rw [ownSlot, mkWord64, BitVec.toNat_ofNat]
    rw [List.foldl_cons, List.foldl_cons, List.foldl_cons, List.foldl_cons, List.foldl_cons, List.foldl_cons, List.foldl_cons,
      List.foldl_cons, List.foldl_nil]
    norm_num
    omega
  refine BitVec.eq_of_toNat_eq ?_
  rw [slotDest, toNat_fld, hw]
  norm_num
  omega

theorem ownSlot_op (s : State) (type prio : Nat) (dest : BitVec 7) (sop : Bool) (port : BitVec 9)
    (ringB : Bool) {op : Nat} (hop : op < 256) (ws : List Word) :
    slotOp (ownSlot s type prio dest sop port ringB (wordOf op :: ws)) = op := by
  have hw : (ownSlot s type prio dest sop port ringB (wordOf op :: ws)).payload.getD 0 0 = wordOf op := rfl
  rw [slotOp, hw, fldN, toNat_fld, wordOf, BitVec.toNat_ofNat]
  omega

section
variable {t : Instant} {pt : Port} {m : MgmtSlot} {s : State} (hlive : trunkLive s = true) (hph : (getPort s pt).phase = .up)

/-- DISCOVER is noted and answered with a REPORT to the owner. -/
theorem exec_discover_up (hlive : trunkLive s = true) (hph : (getPort s pt).phase = .up) : ∃ w ws, exec (.discover t pt m) s =
    .next (sendMgmt 0x02 0 w (lo32 s.rst.fuses.deviceId :: ws) (noteHops m (setNow t s))) :=
  ⟨_, _, show execDiscover t pt m s = _ from hopEvent_of_up hlive hph _⟩

theorem noteHops_ring (m : MgmtSlot) (s : State) :
    (noteHops m s).ring.position = (if m.ringB then s.ring.position else m.hops) ∧
    (m.ringB = true → (noteHops m s).ring.hopsB = some m.hops) ∧ (m.ringB = false → (noteHops m s).ring.hopsA = some m.hops) ∧
    (noteHops m s).ring.ownQueue = s.ring.ownQueue ∧ ∃ r, noteHops m s = { s with ring := r } := by
  unfold noteHops
  extract_lets g r0 r
  have hr : r.position = s.ring.position ∧ r.ownQueue = s.ring.ownQueue := by
    unfold r
    split <;> exact ⟨rfl, rfl⟩
  refine ⟨?_, fun hb => ?_, fun hb => ?_, ?_, _, rfl⟩
  · split
    · exact hr.1
    · rfl
  · simp only [hb, if_true]
  · simp only [hb, Bool.false_eq_true, if_false]
  · split <;> exact hr.2

theorem sendMgmt_ring (op : Nat) (dest : BitVec 7) (ringB : Bool) (ws : List Word) (s : State) :
    sendMgmt op dest ringB ws s = { s with ring := { s.ring with
      ownQueue := s.ring.ownQueue ++ [{ slot := ownSlot s 6 0 dest false 0 ringB (wordOf op :: ws) }] } } := rfl

theorem exec_ringSlot_down (b : Nat) (h : (getPort s pt).phase ≠ .up) : exec (.discover t pt m) s = .next (setNow t s) ∧
    exec (.probe t pt m b) s = .next (setNow t s) ∧ exec (.assign t pt m) s = .next (setNow t s) ∧
    exec (.rotor t pt m) s = .next (setNow t s) ∧ exec (.time t pt m) s = .next (setNow t s) :=
  ⟨show execDiscover t pt m s = _ from hopEvent_of_down h _, show execProbe t pt m b s = _ from hopEvent_of_down h _,
    show execAssign t pt m s = _ from hopEvent_of_down h _, show execRotor t pt m s = _ from hopEvent_of_down h _,
    show execTime t pt m s = _ from hopEvent_of_down h _⟩

/-! ### PROBE, CLAIMED and ASSIGN -/

include hlive hph

theorem exec_probe_own {b : Nat} (hid : mgmtId m = s.rst.fuses.deviceId) :
    exec (.probe t pt m b) s = .next (probeReturned (setNow t s)) := by
  change execProbe t pt m b s = _
  rw [execProbe, hopEvent_of_up hlive hph]
  exact congrArg Host.Outcome.next (if_pos (beq_iff_eq.2 hid))

theorem exec_probe_other {b : Nat} (hid : mgmtId m ≠ s.rst.fuses.deviceId) (h : s.ring.addrPhase = .none ∨
    s.ring.addr ≠ fld (mgmtWord m 3) 0 7) : exec (.probe t pt m b) s = .next (setNow t s) := by
  change execProbe t pt m b s = _
  rw [execProbe, hopEvent_of_up hlive hph]
  refine congrArg Host.Outcome.next ((if_neg (mt beq_iff_eq.1 hid)).trans (if_neg fun hc => ?_))
  rw [Bool.and_eq_true, bne_iff_ne, beq_iff_eq] at hc
  exact h.elim hc.1 fun hne => hne hc.2

/-- A PROBE of another node for the address this node holds is answered CLAIMED. -/
theorem exec_probe_held {b : Nat} (hid : mgmtId m ≠ s.rst.fuses.deviceId) (hnone : s.ring.addrPhase ≠ .none)
    (haddr : s.ring.addr = fld (mgmtWord m 3) 0 7) {u : State}
    (hu : u = sendMgmt 0x04 127 false [mgmtWord m 1, mgmtWord m 2, wordOf s.ring.addr.toNat] (setNow t s)) :
    exec (.probe t pt m b) s = .next (if (s.ring.addrPhase == .tentative) = true then collide b u else u) := by
  change execProbe t pt m b s = _
  rw [execProbe, hopEvent_of_up hlive hph, hu]
  refine congrArg Host.Outcome.next ((if_neg (mt beq_iff_eq.1 hid)).trans (if_pos ?_))
  rw [Bool.and_eq_true, bne_iff_ne, beq_iff_eq]
  exact ⟨hnone, haddr⟩

theorem exec_claimed_own {b : Nat} (hid : mgmtId m = s.rst.fuses.deviceId) (hten : s.ring.addrPhase = .tentative)
    (haddr : s.ring.addr = fld (mgmtWord m 3) 0 7) : exec (.claimed t pt m b) s =
      .next (collide b { setNow t s with ring := { s.ring with probeClaimed := true } }) := by
  change execClaimed t pt m b s = _
  rw [execClaimed, hopEvent_of_up hlive hph]
  refine congrArg Host.Outcome.next (if_pos ?_)
  rw [Bool.and_eq_true, Bool.and_eq_true, beq_iff_eq, beq_iff_eq, beq_iff_eq]
  exact ⟨⟨hid, hten⟩, haddr⟩

theorem exec_assign_own (hid : mgmtId m = s.rst.fuses.deviceId) : exec (.assign t pt m) s =
    .next { setNow t s with ring := { s.ring with
      addrPhase := .confirmed, addr := fld (mgmtWord m 3) 0 7, lastAddr := fld (mgmtWord m 3) 0 7, probing := false
      collided := false, backoff := false, joinAt := none } } := by
  change execAssign t pt m s = _
  rw [execAssign, hopEvent_of_up hlive hph]
  exact congrArg Host.Outcome.next (if_pos (beq_iff_eq.2 hid))

theorem exec_assign_other (hid : mgmtId m ≠ s.rst.fuses.deviceId) : exec (.assign t pt m) s = .next (setNow t s) := by
  change execAssign t pt m s = _
  rw [execAssign, hopEvent_of_up hlive hph]
  exact congrArg Host.Outcome.next (if_neg (mt beq_iff_eq.1 hid))

end

theorem probeReturned_of_free {s : State} (hp : s.ring.probing = true) (hc : s.ring.probeClaimed = false) :
    probeReturned s = sendJoin { s with ring := { s.ring with probing := false } } :=
  if_pos (by rw [hp, hc]; rfl)

theorem probeReturned_of_other {s : State} (h : s.ring.probing = false ∨ s.ring.probeClaimed = true) : probeReturned s = s := by
  refine if_neg ?_
  rw [Bool.and_eq_true, Bool.not_eq_true']
  exact fun hc => h.elim (fun hp => Bool.false_ne_true (hp.symm.trans hc.1)) fun hp => Bool.false_ne_true (hc.2.symm.trans hp)

/-- A collision gives the address up and waits before the next JOIN. -/
theorem collide_spec {s : State} (h : s.ring.collided = false) (wait : Nat) :
    (collide wait s).ring.addrPhase = .none ∧ (collide wait s).ring.addr = 0x7F ∧ (collide wait s).ring.backoff = true ∧
      (collide wait s).ring.joinAt = some (s.now.real + 16000 * min wait 1023) ∧
      { collide wait s with ring := s.ring, events := s.events } = s := by
  unfold collide
  rw [if_neg (Bool.eq_false_iff.1 h)]
  obtain ⟨e, he⟩ := raise_eq 0x0508 s.ring.addr.toNat 0 0 { s with ring := { s.ring with
    addrPhase := .none, addr := 0x7F, probing := false, collided := true, backoff := true
    joinAt := some (s.now.real + 16000 * min wait 1023), collisions := satInc s.ring.collisions } }
  rw [he]
  exact ⟨rfl, rfl, rfl, rfl, rfl⟩

section
variable {t : Instant} {s : State} (hlive : trunkLive s = true)
include hlive

theorem exec_joinBackoffEnd_due (hb : s.ring.backoff = true) (h : s.ring.joinAt.getD 0 ≤ (setNow t s).now.real) :
    exec (.joinBackoffEnd t) s = .next (sendJoin (setNow t s)) := by
  change execJoinBackoffEnd t s = _
  rw [execJoinBackoffEnd, ringEvent_of_live hlive]
  refine congrArg Host.Outcome.next (if_pos ?_)
  rw [Bool.and_eq_true, decide_eq_true_eq]
  exact ⟨hb, h⟩

theorem exec_joinRetry_due {a : Nat} (ha : s.ring.joinAt = some a) (hb : s.ring.backoff = false)
    (hc : s.ring.addrPhase ≠ .confirmed) (hp : passed (setNow t s) a 10000000 = true) :
    exec (.joinRetry t) s = .next (sendJoin (setNow t s)) := by
  have hcond : (!s.ring.backoff && s.ring.addrPhase != .confirmed && passed (setNow t s) a 10000000) = true := by
    rw [hb, bne_iff_ne.2 hc, hp]
    rfl
  change execJoinRetry t s = _
  rw [execJoinRetry, ringEvent_of_live hlive]
  simp only [show (setNow t s).ring = s.ring from rfl, ha, hcond, if_true]

end

theorem exec_joinRetry_none {t : Instant} {s : State} (h : s.ring.joinAt = none) : exec (.joinRetry t) s = .next (setNow t s) := by
  change execJoinRetry t s = _
  unfold execJoinRetry ringEvent
  simp only [show (setNow t s).ring = s.ring from rfl, h, ite_self]

/-! ### PORT_ASSIGN -/

section
variable {c : Cmd} {s : State} {i : Nat} (hr : firstReserved c.words [0xEFFFFF, 0xFFFFF, 0xFFFFF] = none)
  (hi : i = fldN (paramAt c.words 0) 16 4)
include hr hi

theorem portAssignBody_of_none (h : 8 < i) : portAssignBody c s = cmdBad s 0 := by
  subst hi
  unfold portAssignBody
  rw [judged_of_none _ _ hr]
  exact if_pos h

/-- WITHDRAW gives the stream's port up, unless the stream is enabled. -/
theorem portAssignBody_withdraw (h : i ≤ 8) (hw : bitAt (paramAt c.words 0) 23 = true) : portAssignBody c s =
    if streamOn s i = true then cmdRefuse s .wrongState else cmdOk (setAssign i none s) [wordOf s.ring.cRing.toNat] := by
  subst hi
  unfold portAssignBody
  rw [judged_of_none _ _ hr]
  exact (if_neg (Nat.not_lt.2 h)).trans (if_pos hw)

variable {a : PortAssign} (h8 : i ≤ 8) (hw : bitAt (paramAt c.words 0) 23 = false)
  (ha : a = assignOfWords (overlay c.words (assignWords ((assignOf s i).getD noAssign))))
include h8 hw ha

/-- The rest of an assignment's checks, in their order. -/
theorem portAssignBody_assign : portAssignBody c s =
    if ((s.ring.addrPhase != .none && a.dest == s.ring.addr) || portTaken s i a.port) = true then cmdBad s 0
    else if (a.dir && !dualRing s) = true then cmdRefuse s .notPermitted
    else if streamOn s i = true then cmdRefuse s .wrongState
    else if (s.ring.cRing.toNat < reservedIn s i a.dir + a.rsv.toNat || s.ring.cRing.toNat < a.peak.toNat ||
        (a.basted && bastedShare s.ring.cRing < a.peak.toNat)) = true then cmdRefuse s .bandwidthRefused
    else cmdHeld (sendMgmt 0x0A 127 false [wordOf a.port.toNat]
      { s with ring := { s.ring with claim := some (i, a, s.now.real) } }) := by
  subst hi ha
  unfold portAssignBody
  rw [judged_of_none _ _ hr]
  exact (if_neg (Nat.not_lt.2 h8)).trans (if_neg (Bool.eq_false_iff.1 hw))

theorem portAssignBody_of_own (h : (s.ring.addrPhase ≠ .none ∧ a.dest = s.ring.addr) ∨ portTaken s i a.port = true) :
    portAssignBody c s = cmdBad s 0 := by
  rw [portAssignBody_assign hr hi h8 hw ha, if_pos]
  rw [Bool.or_eq_true, Bool.and_eq_true, bne_iff_ne, beq_iff_eq]
  exact h

variable (hown : s.ring.addrPhase = .none ∨ a.dest ≠ s.ring.addr) (htaken : portTaken s i a.port = false)
include hown htaken

theorem portAssignBody_foreign : portAssignBody c s =
    if (a.dir && !dualRing s) = true then cmdRefuse s .notPermitted
    else if streamOn s i = true then cmdRefuse s .wrongState
    else if (s.ring.cRing.toNat < reservedIn s i a.dir + a.rsv.toNat || s.ring.cRing.toNat < a.peak.toNat ||
        (a.basted && bastedShare s.ring.cRing < a.peak.toNat)) = true then cmdRefuse s .bandwidthRefused
    else cmdHeld (sendMgmt 0x0A 127 false [wordOf a.port.toNat]
      { s with ring := { s.ring with claim := some (i, a, s.now.real) } }) := by
  rw [portAssignBody_assign hr hi h8 hw ha, if_neg]
  rw [htaken, Bool.or_false, Bool.and_eq_true, bne_iff_ne, beq_iff_eq]
  exact fun hc => hown.elim hc.1 fun hne => hne hc.2

theorem portAssignBody_of_single (hdir : a.dir = true) (hdual : dualRing s = false) :
    portAssignBody c s = cmdRefuse s .notPermitted := by
  rw [portAssignBody_foreign hr hi h8 hw ha hown htaken, hdir, hdual]
  rfl

variable (hdual : a.dir = true → dualRing s = true)
include hdual

theorem portAssignBody_ringed : portAssignBody c s =
    if streamOn s i = true then cmdRefuse s .wrongState
    else if (s.ring.cRing.toNat < reservedIn s i a.dir + a.rsv.toNat || s.ring.cRing.toNat < a.peak.toNat ||
        (a.basted && bastedShare s.ring.cRing < a.peak.toNat)) = true then cmdRefuse s .bandwidthRefused
    else cmdHeld (sendMgmt 0x0A 127 false [wordOf a.port.toNat]
      { s with ring := { s.ring with claim := some (i, a, s.now.real) } }) := by
  rw [portAssignBody_foreign hr hi h8 hw ha hown htaken, if_neg]
  rw [Bool.and_eq_true, Bool.not_eq_true']
  exact fun hc => Bool.false_ne_true (hc.2.symm.trans (hdual hc.1))

theorem portAssignBody_of_enabled (hon : streamOn s i = true) : portAssignBody c s = cmdRefuse s .wrongState := by
  rw [portAssignBody_ringed hr hi h8 hw ha hown htaken hdual, if_pos hon]

theorem portAssignBody_of_narrow (hon : streamOn s i = false)
    (hfit : s.ring.cRing.toNat < reservedIn s i a.dir + a.rsv.toNat ∨ s.ring.cRing.toNat < a.peak.toNat ∨
      (a.basted = true ∧ s.ring.cRing.toNat * 3 / 5 < a.peak.toNat)) : portAssignBody c s = cmdRefuse s .bandwidthRefused := by
  rw [portAssignBody_ringed hr hi h8 hw ha hown htaken hdual, if_neg (Bool.eq_false_iff.1 hon), if_pos]
  simp only [Bool.or_eq_true, Bool.and_eq_true, decide_eq_true_eq, or_assoc]
  exact hfit

theorem portAssignBody_claims (hon : streamOn s i = false) (hrsv : reservedIn s i a.dir + a.rsv.toNat ≤ s.ring.cRing.toNat)
    (hpeak : a.peak.toNat ≤ s.ring.cRing.toNat) (hbaste : a.basted = true → a.peak.toNat ≤ s.ring.cRing.toNat * 3 / 5) :
    portAssignBody c s = cmdHeld (sendMgmt 0x0A 127 false [wordOf a.port.toNat]
      { s with ring := { s.ring with claim := some (i, a, s.now.real) } }) := by
  rw [portAssignBody_ringed hr hi h8 hw ha hown htaken hdual, if_neg (Bool.eq_false_iff.1 hon), if_neg]
  simp only [Bool.or_eq_true, Bool.and_eq_true, decide_eq_true_eq, bastedShare]
  rintro ((h | h) | ⟨hb, h⟩)
  · exact Nat.not_lt.2 hrsv h
  · exact Nat.not_lt.2 hpeak h
  · exact Nat.not_lt.2 (hbaste hb) (of_decide_eq_true h)

end


/-- Settles O46, clause by clause from the rules of RING_MAP, the address slots and PORT_ASSIGN. -/
theorem ringAddressesAndPortCommands : Obligations.RingAddressesAndPortCommands := by
  unfold Obligations.RingAddressesAndPortCommands
  refine ⟨?_, ?_, ?_, fun t pt m b s => exec_ringSlot_down b, ?_, ?_, ?_, fun t pt m b s hlive hph => exec_probe_other hlive hph,
    ?_, ?_, fun t s hlive => exec_joinBackoffEnd_due hlive, fun t s a hlive => exec_joinRetry_due hlive,
    fun t s => exec_joinRetry_none, ?_, ?_, fun t pt m s hlive hph => exec_assign_other hlive hph, ?_, ?_, ?_, ?_⟩
  · intro t s p s1 htaken hr
    refine ⟨_, exec_of_body htaken rfl (ringMapBody_of_legal hr) rfl, rfl, ?_⟩
    simp only [List.getD_cons_zero, List.getD_cons_succ]
    obtain ⟨haddr, hconf, hnodes, hgen⟩ := ringWord0_fields s1.ring (s1.ring.addrPhase == .confirmed) _ rfl
    obtain ⟨hpos, hfeat, heast, hwest, hstring, hpresent⟩ := ringWord1_fields s1.ring (rotorPresent s1) _ rfl
    refine ⟨haddr, hconf, hnodes, hgen, hpos, hfeat, heast, hwest, hstring, fun hnone => hpresent.trans ?_,
      fun a ha => hpresent.trans ?_, trivial, trivial, trivial, trivial, trivial⟩
    · rw [rotorPresent, hnone, Option.any_none]
    · rw [rotorPresent, ha, Option.any_some]
  · intro t pt m s hlive hph
    obtain ⟨w, ws, hexec⟩ := exec_discover_up (t := t) (m := m) hlive hph
    obtain ⟨hpos, hB, hA, hqueue, r, hstate⟩ := noteHops_ring m (setNow t s)
    rw [sendMgmt_ring] at hexec
    refine ⟨_, hexec, hpos, hB, hA, ?_, ?_, ?_⟩
    · exact (congrArg (fun q => (q ++ [_]).length) hqueue).trans List.length_append
    · change ((_ ++ [_]).getLast?).map _ = _
      rw [List.getLast?_concat, Option.map_some, ownSlot_dest _ (by decide) (by decide), ownSlot_op _ _ _ _ _ _ _ (by decide)]
      rfl
    · rw [hstate]
      rfl
  · intro s d
    refine ⟨fun h => ?_, fun hdual a b ha hb => ?_⟩
    · rw [ringTo, Bool.and_eq_true, Bool.and_eq_true, beq_iff_eq] at h
      exact h.1
    · have hnear : nearerB s = decide (a.toNat < b.toNat) := by
        unfold nearerB
        simp only [ha, hb]
      rw [ringTo, hdual, hnear, beq_self_eq_true, Bool.and_self, Bool.true_and, decide_eq_true_eq]
  · intro t pt m b s hlive hph hid hp hc
    exact (exec_probe_own hlive hph hid).trans (congrArg Host.Outcome.next (probeReturned_of_free hp hc))
  · intro t pt m b s hlive hph hid h
    exact (exec_probe_own hlive hph hid).trans (congrArg Host.Outcome.next (probeReturned_of_other h))
  · intro t pt m b s hlive hph hid hten haddr
    rw [exec_probe_held hlive hph hid (by rw [hten]; decide) haddr rfl, hten]
    rfl
  · intro t pt m b s hlive hph hid hconf haddr
    rw [exec_probe_held hlive hph hid (by rw [hconf]; decide) haddr rfl, hconf]
    rfl
  · intro t pt m b s hlive hph hid hten haddr hcol
    obtain ⟨hphase, hnone, hback, hjoin, hframe⟩ := collide_spec
      (s := { setNow t s with ring := { s.ring with probeClaimed := true } }) hcol b
    refine ⟨_, exec_claimed_own hlive hph hid hten haddr, hphase, hnone, hback, hjoin, ?_⟩
    exact congrArg (fun u : State => { u with ring := s.ring, events := s.events }) hframe
  · exact fun s => ⟨rfl, rfl, List.length_append⟩
  · exact fun t pt m s hlive hph hid => ⟨_, exec_assign_own hlive hph hid, rfl, rfl, rfl, rfl⟩
  · intro t s p s1 i htaken hr hi h8 hw hon
    have hbody : portAssignBody (cmdOf p) s1 = cmdOk (setAssign i none s1) [wordOf s1.ring.cRing.toNat] :=
      (portAssignBody_withdraw hr hi h8 hw).trans (if_neg (Bool.eq_false_iff.1 hon))
    exact exec_of_body htaken rfl hbody rfl
  · intro t s p s1 i a htaken hr hi h8 hw ha hown hfree hdual hon hrsv hpeak hbaste
    exact exec_of_held_body htaken rfl (portAssignBody_claims hr hi h8 hw ha hown hfree hdual hon hrsv hpeak hbaste) rfl
  · intro t s p s1 i a htaken hr hi h8 hw ha
    refine ⟨fun h => exec_of_body htaken rfl (portAssignBody_of_own hr hi h8 hw ha h) rfl, fun hown hfree => ⟨?_, ?_, ?_⟩⟩
    · exact fun hdir hdual => exec_of_body htaken rfl (portAssignBody_of_single hr hi h8 hw ha hown hfree hdir hdual) rfl
    · exact fun hdual hon => exec_of_body htaken rfl (portAssignBody_of_enabled hr hi h8 hw ha hown hfree hdual hon) rfl
    · exact fun hdual hon hfit =>
        exec_of_body htaken rfl (portAssignBody_of_narrow hr hi h8 hw ha hown hfree hdual hon hfit) rfl
  · intro t s p s1 i htaken hr hi
    refine ⟨fun h => exec_of_body htaken rfl (portAssignBody_of_none hr hi h) rfl, fun h8 hw hon => ?_⟩
    exact exec_of_body htaken rfl ((portAssignBody_withdraw hr hi h8 hw).trans (if_pos hon)) rfl


/-! ## TOPOLOGY, rotations and claims (R303–R311) -/

/-! ### TOPOLOGY -/

theorem unwrapPort_wrapped {pt : Port} {s : State} (hw : wrapsAt s pt = true) (hph : (getPort s pt).phase = .up) :
    unwrapPort pt s = raise 0x050B (portNo pt) 0 0 (setWrap pt false s) :=
  if_pos (by rw [hw, hph]; rfl)

theorem unwrapPort_other {pt : Port} {s : State} (h : wrapsAt s pt = false ∨ (getPort s pt).phase ≠ .up) : unwrapPort pt s = s := by
  refine if_neg ?_
  rw [Bool.and_eq_true, beq_iff_eq]
  exact fun hc => h.elim (fun hw => Bool.false_ne_true (hw.symm.trans hc.1)) fun hph => hph hc.2

theorem noteSuspend_suspends {i : Nat} {s : State} {a : PortAssign} (ha : assignOf s i = some a) (hb : a.basted = true)
    (hs : a.suspended = false) (h : bastedShare s.ring.cRing < a.peak.toNat) : noteSuspend s i = raise 0x050D i 0 0
      { s with ring := { s.ring with ports := s.ring.ports.set i (some { a with suspended := true }) } } := by
  unfold noteSuspend
  simp only [ha, hb, hs, decide_eq_true h, Bool.not_false, Bool.and_self, if_true]

theorem noteSuspend_resumes {i : Nat} {s : State} {a : PortAssign} (ha : assignOf s i = some a) (hb : a.basted = true)
    (hs : a.suspended = true) (h : a.peak.toNat ≤ bastedShare s.ring.cRing) : noteSuspend s i = raise 0x050E i 0 0
      { s with ring := { s.ring with ports := s.ring.ports.set i (some { a with suspended := false }) } } := by
  unfold noteSuspend
  simp only [ha, hb, hs, decide_eq_false (Nat.not_lt.2 h), Bool.not_true, Bool.and_false, Bool.not_false, Bool.and_self,
    Bool.false_eq_true, if_true, if_false]

theorem assignOf_of_unassigned {s : State} (h : s.ring.ports = List.replicate 9 none) (i : Nat) : assignOf s i = none := by
  rw [assignOf, h, List.getD_eq_getElem?_getD, List.getElem?_replicate]
  split <;> rfl

theorem foldl_noteSuspend_of_unassigned {s : State} (h : s.ring.ports = List.replicate 9 none) :
    (List.range 8).foldl noteSuspend s = s :=
  foldl_of_fixed fun i _ => by rw [noteSuspend, assignOf_of_unassigned h]

/-- A port's wrap ends while its hop is up: what changes of the state is the ring's and the events. -/
theorem unwrapPort_frame (pt : Port) (s : State) : ∃ e w, unwrapPort pt s = { s with ring := w, events := e } ∧
    w.ports = s.ring.ports := by
  unfold unwrapPort
  split
  · obtain ⟨e, he⟩ := raise_eq 0x050B (portNo pt) 0 0 (setWrap pt false s)
    rw [he]
    cases pt <;> exact ⟨e, _, rfl, rfl⟩
  · exact ⟨s.events, s.ring, rfl, rfl⟩

/-- What TOPOLOGY gives the ring, before a wrap ends or a feature is lost. -/
def topologyRing (w1 w2 w3 w4 : Word) (cleared isString saw : Bool) (r : RingState) : RingState :=
  { r with
    gen := fld w1 0 16, nodes := fld w1 16 8, features := fld w1 24 8, cRing := fld w2 0 20, tRotNs := w3
    wrappedEast := fld w4 0 7, wrappedWest := fld w4 8 7, topoSeen := true, sawUnwrap := saw, unwrapped := cleared
    isString := isString }

/-- A node that TOPOLOGY does not name as an end of the string. -/
def freeOfEnds (w4 : Word) (s : State) : Bool :=
  ownSrc s == 0x7F || (ownSrc s != (fld w4 0 7 : BitVec 7) && ownSrc s != (fld w4 8 7 : BitVec 7))

/-- A ring without features and without ports takes TOPOLOGY's words and ends its wraps. -/
theorem applyTopology_of_plain (w1 w2 w3 w4 : Word) {s : State} (hfeat : s.ring.features = 0)
    (hports : s.ring.ports = List.replicate 9 none) : ∃ cleared isString saw e u,
    u = { s with ring := topologyRing w1 w2 w3 w4 cleared isString saw s.ring, events := e } ∧
    (freeOfEnds w4 s = true → ([Port.east, .west].any fun p => wrapsAt s p && (getPort s p).phase == .up) = true →
      cleared = true) ∧
    applyTopology w1 w2 w3 w4 s = if freeOfEnds w4 s = true then unwrapPort .west (unwrapPort .east u) else u := by
  have hold : ∀ k, bitAt s.ring.features k = false := fun k => by rw [hfeat]; exact BitVec.getLsbD_zero
  unfold applyTopology
  extract_lets +onlyGivenNames gen new old east west r listed before saw fresh mine ends free none0 cleared s1 s2 s3 s4 s5
  have h2 : ∃ e, s2 = { s1 with events := e } := by
    unfold s2
    split
    · exact raise_eq ..
    · exact ⟨s1.events, rfl⟩
  obtain ⟨e, he⟩ := h2
  have h4 : s4 = s3 := if_neg (by rw [show bitAt old 1 = false from hold 1]; exact Bool.false_ne_true)
  have h5 : s5 = s3 := (if_neg (by rw [show bitAt old 2 = false from hold 2]; exact Bool.false_ne_true)).trans h4
  have h3 : s3 = if freeOfEnds w4 s = true then unwrapPort .west (unwrapPort .east s2) else s2 := rfl
  refine ⟨cleared, _, saw, e, s2, he, fun hfree hends => ?_, ?_⟩
  · change (ends && free || _) = true
    rw [show ends = true from hends, show free = true from hfree]
    rfl
  · rw [foldl_noteSuspend_of_unassigned, h5, h3]
    rw [h5, h3]
    have hp2 : s2.ring.ports = List.replicate 9 none := by
      rw [he]
      exact hports
    split
    · obtain ⟨e1, r1, hE, hE'⟩ := unwrapPort_frame .east s2
      obtain ⟨e2, r2, hW, hW'⟩ := unwrapPort_frame .west (unwrapPort .east s2)
      rw [hW]
      exact hW'.trans (by rw [hE]; exact hE'.trans hp2)
    · exact hp2

theorem applyTopology_unwrapped (w1 w2 w3 w4 : Word) {s : State} (hfeat : s.ring.features = 0)
    (hports : s.ring.ports = List.replicate 9 none) (hE : s.ring.wrapEast = false) (hW : s.ring.wrapWest = false) :
    ∃ cleared isString saw e, applyTopology w1 w2 w3 w4 s =
      { s with ring := topologyRing w1 w2 w3 w4 cleared isString saw s.ring, events := e } := by
  obtain ⟨cleared, isString, saw, e, u, hu, -, happly⟩ := applyTopology_of_plain w1 w2 w3 w4 hfeat hports
  have hue : unwrapPort .east u = u := unwrapPort_other (.inl (by rw [hu]; exact hE))
  have huw : unwrapPort .west u = u := unwrapPort_other (.inl (by rw [hu]; exact hW))
  rw [hue, huw, ite_self] at happly
  exact ⟨cleared, isString, saw, e, happly.trans hu⟩

theorem applyTopology_unwraps (w1 w2 w3 w4 : Word) {s : State} (hfeat : s.ring.features = 0)
    (hports : s.ring.ports = List.replicate 9 none) (hE : s.ring.wrapEast = true) (hW : s.ring.wrapWest = false)
    (hph : s.east.phase = .up) (heast : ownSrc s ≠ fld w4 0 7) (hwest : ownSrc s ≠ fld w4 8 7) :
    (applyTopology w1 w2 w3 w4 s).ring.wrapEast = false ∧ (applyTopology w1 w2 w3 w4 s).ring.unwrapped = true := by
  obtain ⟨cleared, isString, saw, e, u, hu, hcleared, happly⟩ := applyTopology_of_plain w1 w2 w3 w4 hfeat hports
  have hfree : freeOfEnds w4 s = true := by
    rw [freeOfEnds, bne_iff_ne.2 heast, bne_iff_ne.2 hwest, Bool.and_self, Bool.or_true]
  have hends : ([Port.east, .west].any fun p => wrapsAt s p && (getPort s p).phase == .up) = true := by
    rw [List.any_cons, show wrapsAt s .east = true from hE, show (getPort s .east).phase = .up from hph]
    rfl
  obtain ⟨e', he'⟩ := raise_eq 0x050B (portNo .east) 0 0 (setWrap .east false u)
  have hue : unwrapPort .east u = { setWrap .east false u with events := e' } :=
    (unwrapPort_wrapped (by rw [hu]; exact hE) (by rw [hu]; exact hph)).trans he'
  have huw : unwrapPort .west (unwrapPort .east u) = unwrapPort .east u :=
    unwrapPort_other (.inl (by rw [hue, hu]; exact hW))
  rw [happly, if_pos hfree, huw, hue, hu, hcleared hfree hends]
  exact ⟨rfl, rfl⟩

theorem applyTopology_at_end (w1 w2 w3 w4 : Word) {s : State} (hfeat : s.ring.features = 0)
    (hports : s.ring.ports = List.replicate 9 none) (hE : s.ring.wrapEast = true) (hsrc : ownSrc s ≠ 0x7F)
    (heast : ownSrc s = fld w4 0 7) : (applyTopology w1 w2 w3 w4 s).ring.wrapEast = true := by
  obtain ⟨cleared, isString, saw, e, u, hu, -, happly⟩ := applyTopology_of_plain w1 w2 w3 w4 hfeat hports
  have hfree : freeOfEnds w4 s = false := by
    rw [freeOfEnds, beq_eq_false_iff_ne.2 hsrc, bne_eq_false_iff_eq.2 heast]
    rfl
  rw [happly, hfree, if_neg Bool.false_ne_true, hu]
  exact hE

/-! ### Rotations -/

theorem exec_rotor_up {t : Instant} {pt : Port} {m : MgmtSlot} {s : State} (hlive : trunkLive s = true)
    (hph : (getPort s pt).phase = .up) {u : State} (hu : u = { setNow t s with ring := { s.ring with
      rotSeqA := if m.ringB then s.ring.rotSeqA else some (mgmtWord m 1)
      rotSeqB := if m.ringB then some (mgmtWord m 1) else s.ring.rotSeqB
      q3A := if m.ringB then s.ring.q3A else fld (mgmtWord m 2) 0 16
      q3B := if m.ringB then fld (mgmtWord m 2) 0 16 else s.ring.q3B
      tRotNs := mgmtWord m 3, lastRotor := some (setNow t s).now.real, ownerFrom := some (setNow t s).now.real
      ownerLost := false } }) : exec (.rotor t pt m) s =
    .next (if ((if m.ringB then s.ring.rotSeqB else s.ring.rotSeqA) != some (mgmtWord m 1)) = true
      then newRotation m.ringB u else u) := by
  subst hu
  change execRotor t pt m s = _
  exact hopEvent_of_up hlive hph _

section
variable {t : Instant} {pt : Port} {m : MgmtSlot} {s : State} (hlive : trunkLive s = true) (hph : (getPort s pt).phase = .up)
include hlive hph

theorem exec_rotor_ringA (hm : m.ringB = false) : ∃ u, exec (.rotor t pt m) s = .next u ∧
    u.ring.rotSeqA = some (mgmtWord m 1) ∧ u.ring.q3A = fld (mgmtWord m 2) 0 16 ∧ u.ring.tRotNs = mgmtWord m 3 ∧
    u.ring.ownerLost = false ∧ u.ring.lastRotor = some (setNow t s).now.real ∧ u.ring.q3B = s.ring.q3B ∧
    (s.ring.rotSeqA ≠ some (mgmtWord m 1) → u.ring.usedP3A = 0 ∧ u.ring.usedP2A = []) ∧
    (s.ring.rotSeqA = some (mgmtWord m 1) → u.ring.usedP3A = s.ring.usedP3A ∧ u.ring.usedP2A = s.ring.usedP2A) ∧
    u.ring.usedP3B = s.ring.usedP3B ∧ u.ring.usedP2B = s.ring.usedP2B ∧ { u with ring := s.ring } = setNow t s := by
  refine ⟨_, exec_rotor_up hlive hph rfl, ?_⟩
  have hlast : (if m.ringB then s.ring.rotSeqB else s.ring.rotSeqA) = s.ring.rotSeqA := by rw [hm]; rfl
  rw [hlast, hm]
  by_cases hseq : s.ring.rotSeqA = some (mgmtWord m 1)
  · rw [if_neg (Bool.eq_false_iff.1 (bne_eq_false_iff_eq.2 hseq))]
    exact ⟨rfl, rfl, rfl, rfl, rfl, rfl, fun hne => absurd hseq hne, fun _ => ⟨rfl, rfl⟩, rfl, rfl, rfl⟩
  · rw [if_pos (bne_iff_ne.2 hseq)]
    exact ⟨rfl, rfl, rfl, rfl, rfl, rfl, fun _ => ⟨rfl, rfl⟩, fun heq => absurd heq hseq, rfl, rfl, rfl⟩

theorem exec_rotor_ringB (hm : m.ringB = true) : ∃ u, exec (.rotor t pt m) s = .next u ∧
    u.ring.rotSeqB = some (mgmtWord m 1) ∧ u.ring.q3B = fld (mgmtWord m 2) 0 16 ∧ u.ring.tRotNs = mgmtWord m 3 ∧
    u.ring.ownerLost = false ∧ u.ring.lastRotor = some (setNow t s).now.real ∧ u.ring.q3A = s.ring.q3A ∧
    (s.ring.rotSeqB ≠ some (mgmtWord m 1) → u.ring.usedP3B = 0 ∧ u.ring.usedP2B = []) ∧
    u.ring.usedP3A = s.ring.usedP3A ∧ u.ring.usedP2A = s.ring.usedP2A ∧ { u with ring := s.ring } = setNow t s := by
  refine ⟨_, exec_rotor_up hlive hph rfl, ?_⟩
  have hlast : (if m.ringB then s.ring.rotSeqB else s.ring.rotSeqA) = s.ring.rotSeqB := by rw [hm]; rfl
  rw [hlast, hm]
  by_cases hseq : s.ring.rotSeqB = some (mgmtWord m 1)
  · rw [if_neg (Bool.eq_false_iff.1 (bne_eq_false_iff_eq.2 hseq))]
    exact ⟨rfl, rfl, rfl, rfl, rfl, rfl, fun hne => absurd hseq hne, rfl, rfl, rfl⟩
  · rw [if_pos (bne_iff_ne.2 hseq)]
    exact ⟨rfl, rfl, rfl, rfl, rfl, rfl, fun _ => ⟨rfl, rfl⟩, rfl, rfl, rfl⟩

end

/-- A ring without its owner: rotations begin by themselves. -/
def ownRotation (s : State) : State := newRotation true (newRotation false s)

theorem exec_ownerLost_due {t : Instant} {s : State} {a : Nat} (hlive : trunkLive s = true) (ha : s.ring.ownerFrom = some a)
    (hl : s.ring.ownerLost = false) (hp : passed (setNow t s) a 1000000 = true) : exec (.ownerLost t) s =
    .next (raise 0x050F 0 0 0 (ownRotation { setNow t s with ring := { s.ring with
      ownerLost := true, selfAt := (setNow t s).now.real } })) := by
  change execOwnerLost t s = _
  rw [execOwnerLost, ringEvent_of_live hlive]
  simp only [show (setNow t s).ring = s.ring from rfl, ha, hl, hp, Bool.not_false, Bool.and_self, if_true]
  rfl

theorem exec_ownerLost_fresh {t : Instant} {s : State} {a : Nat} (ha : s.ring.ownerFrom = some a)
    (hp : passed (setNow t s) a 1000000 = false) : exec (.ownerLost t) s = .next (setNow t s) := by
  change execOwnerLost t s = _
  unfold execOwnerLost ringEvent
  simp only [show (setNow t s).ring = s.ring from rfl, ha, hp, Bool.and_false, Bool.false_eq_true, if_false, ite_self]

theorem exec_selfRotation_due {t : Instant} {s : State} (hlive : trunkLive s = true) (hl : s.ring.ownerLost = true)
    (hp : passed (setNow t s) s.ring.selfAt 20000 = true) : exec (.selfRotation t) s =
    .next (ownRotation { setNow t s with ring := { s.ring with selfAt := (setNow t s).now.real } }) := by
  change execSelfRotation t s = _
  rw [execSelfRotation, ringEvent_of_live hlive]
  simp only [show (setNow t s).ring = s.ring from rfl, hl, hp, Bool.and_self, if_true]
  rfl

theorem exec_selfRotation_owned {t : Instant} {s : State} (hl : s.ring.ownerLost = false) :
    exec (.selfRotation t) s = .next (setNow t s) := by
  change execSelfRotation t s = _
  unfold execSelfRotation ringEvent
  simp only [show (setNow t s).ring = s.ring from rfl, hl, Bool.false_and, Bool.false_eq_true, if_false, ite_self]

/-! ### WRAP and claims -/

theorem exec_wrap_set {t : Instant} {pt : Port} {m : MgmtSlot} {s : State} (hlive : trunkLive s = true)
    (hph : (getPort s pt).phase = .up) (h : bitAt (mgmtWord m 1) 9 = true) :
    exec (.wrap t pt m) s = .next { setNow t s with ring := { s.ring with unwrapped := false } } := by
  change execWrap t pt m s = _
  rw [execWrap, hopEvent_of_up hlive hph]
  exact congrArg Host.Outcome.next (if_pos h)

theorem exec_wrap_clear {t : Instant} {pt : Port} {m : MgmtSlot} {s : State} (h : bitAt (mgmtWord m 1) 9 = false) :
    exec (.wrap t pt m) s = .next (setNow t s) := by
  change execWrap t pt m s = _
  unfold execWrap hopEvent
  simp only [h, Bool.false_eq_true, if_false, ite_self]

/-- Some stream of the device holds a stream port. -/
def portHeldHere (s : State) (port : BitVec 9) : Bool :=
  (List.range 9).any fun i => (assignOf s i).any fun x => x.port == port

section
variable {t : Instant} {pt : Port} {m : MgmtSlot} {s : State} (hlive : trunkLive s = true) (hph : (getPort s pt).phase = .up)
include hlive hph

theorem exec_claim_own {i : Nat} {a : PortAssign} {since : Nat} (hconf : s.ring.addrPhase = .confirmed) (hsrc : m.src = s.ring.addr)
    (hclaim : s.ring.claim = some (i, a, since)) (hport : a.port = fld (mgmtWord m 1) 0 9) : exec (.claim t pt m) s =
      .next (if (setNow t s).now.real ≤ since + 1600000 then winClaim i a (setNow t s) else loseClaim false a.port (setNow t s)) := by
  change execClaim t pt m s = _
  rw [execClaim, hopEvent_of_up hlive hph]
  have hring : (setNow t s).ring = s.ring := rfl
  simp only [hring, hconf, hsrc, hclaim, ← hport, bne_self_eq_false, beq_self_eq_true, Bool.false_eq_true, if_false, if_true]

theorem exec_claim_other (hconf : s.ring.addrPhase = .confirmed) (hsrc : m.src ≠ s.ring.addr) : exec (.claim t pt m) s =
    .next (if portHeldHere s (fld (mgmtWord m 1) 0 9) = true
      then sendMgmt 0x0B m.src (ringTo s m.src) [wordOf (fldN (mgmtWord m 1) 0 9)] (setNow t s)
      else match s.ring.claim with
        | some (_, a, _) => if a.port == fld (mgmtWord m 1) 0 9 && m.src.toNat < s.ring.addr.toNat
          then loseClaim true (fld (mgmtWord m 1) 0 9) (setNow t s) else setNow t s
        | none => setNow t s) := by
  change execClaim t pt m s = _
  rw [execClaim, hopEvent_of_up hlive hph]
  have hring : (setNow t s).ring = s.ring := rfl
  simp only [hring, hconf, beq_eq_false_iff_ne.2 hsrc, bne_self_eq_false, Bool.false_eq_true, if_false]
  rfl

theorem exec_portHeld_own {i : Nat} {a : PortAssign} {since : Nat} (hclaim : s.ring.claim = some (i, a, since))
    (hdest : m.dest = s.ring.addr) (hport : a.port = fld (mgmtWord m 1) 0 9) :
    exec (.portHeld t pt m) s = .next (loseClaim true a.port (setNow t s)) := by
  change execPortHeld t pt m s = _
  rw [execPortHeld, hopEvent_of_up hlive hph]
  have hring : (setNow t s).ring = s.ring := rfl
  simp only [hring, hclaim, hdest, ← hport, beq_self_eq_true, Bool.and_self, if_true]

end

theorem exec_portHeld_unclaimed {t : Instant} {pt : Port} {m : MgmtSlot} {s : State} (h : s.ring.claim = none) :
    exec (.portHeld t pt m) s = .next (setNow t s) := by
  change execPortHeld t pt m s = _
  unfold execPortHeld hopEvent
  simp only [show (setNow t s).ring = s.ring from rfl, h, ite_self]

theorem exec_claimTimeout_due {t : Instant} {s : State} {i : Nat} {a : PortAssign} {since : Nat} (hlive : trunkLive s = true)
    (hclaim : s.ring.claim = some (i, a, since)) (hp : passed (setNow t s) since 100000 = true) :
    exec (.claimTimeout t) s = .next (loseClaim false a.port (setNow t s)) := by
  change execClaimTimeout t s = _
  rw [execClaimTimeout, ringEvent_of_live hlive]
  simp only [show (setNow t s).ring = s.ring from rfl, hclaim, hp, if_true]

theorem finishHeld_of_none {op : Nat} {s : State} (h : heldCmd s op = none) (f : Cmd → State → CmdResult) : finishHeld op f s = s := by
  unfold finishHeld
  unfold heldCmd at h
  cases hp : s.bureau.executing with
  | none => rfl
  | some p =>
    rw [hp] at h
    exact if_neg fun hop => Option.some_ne_none _ ((if_pos hop).symm.trans h)

theorem finishHeld_of_held {op : Nat} {s : State} {p : Packet} (hp : s.bureau.executing = some p) (hop : pktOp p = op)
    (f : Cmd → State → CmdResult) {r : CmdResult} (hr : f (cmdOf p) { s with bureau := { s.bureau with executing := none } } = r) :
    finishHeld op f s = settleAll (answer p r r.state) := by
  unfold finishHeld
  simp only [hp, hop, if_true, hr]

theorem finishHeld_refused {op : Nat} {s : State} {p : Packet} (hp : s.bureau.executing = some p) (hop : pktOp p = op)
    (st : Status) {u : State} (hu : u = { s with bureau := { s.bureau with executing := none } }) :
    finishHeld op (fun _ s => cmdRefuse s st) s = settleAll (answer p (cmdRefuse u st) u) := by
  rw [finishHeld_of_held hp hop _ rfl, ← hu]
  rfl

/-- A claim lost without a collision is answered BUSY, and nothing else changes. -/
theorem loseClaim_quiet {s : State} {p : Packet} (hp : s.bureau.executing = some p) (hop : pktOp p = 0x0504) (port : BitVec 9) :
    ∃ u, loseClaim false port s = settleAll (answer p (cmdRefuse u .busy) u) ∧
      u = { s with ring := { s.ring with claim := none }, bureau := { s.bureau with executing := none } } := by
  unfold loseClaim
  simp only [Bool.false_eq_true, if_false]
  exact ⟨_, finishHeld_refused (s := { s with ring := { s.ring with claim := none } }) hp hop .busy rfl, rfl⟩

/-- Settles O47, clause by clause from the rules of TOPOLOGY, rotations and claims. -/
theorem ringTopologyRotationsAndClaims : Obligations.RingTopologyRotationsAndClaims := by
  unfold Obligations.RingTopologyRotationsAndClaims
  refine ⟨fun t pt m s hlive hph => show execTopology t pt m s = _ from hopEvent_of_up hlive hph _, ?_,
    fun t pt m s => exec_rotor_ringA, fun t pt m s => exec_rotor_ringB, ?_, fun t s a => exec_ownerLost_fresh, ?_,
    fun t s => exec_selfRotation_owned, fun pt s => unwrapPort_wrapped, fun pt s => unwrapPort_other, ?_, ?_,
    fun i s a => noteSuspend_suspends, fun i s a => noteSuspend_resumes, fun t pt m s => exec_wrap_set,
    fun t pt m s => exec_wrap_clear, ?_, ?_, ?_, ?_, ?_, fun t pt m s i a since hlive hph => exec_portHeld_own hlive hph,
    fun t pt m s => exec_portHeld_unclaimed, fun t s i a since => exec_claimTimeout_due, ?_⟩
  · intro w1 w2 w3 w4 s hfeat hports hE hW
    obtain ⟨cleared, isString, saw, e, h⟩ := applyTopology_unwrapped w1 w2 w3 w4 hfeat hports hE hW
    rw [h]
    exact ⟨rfl, rfl, rfl, rfl, rfl, rfl, rfl⟩
  · intro t s a hlive ha hl hp
    obtain ⟨e, he⟩ := raise_eq 0x050F 0 0 0 (ownRotation { setNow t s with ring := { s.ring with
      ownerLost := true, selfAt := (setNow t s).now.real } })
    refine ⟨_, exec_ownerLost_due hlive ha hl hp, ?_⟩
    rw [he]
    exact ⟨rfl, rfl, rfl, rfl, rfl, rfl, rfl⟩
  · exact fun t s hlive hl hp => ⟨_, exec_selfRotation_due hlive hl hp, rfl, rfl, rfl, rfl, rfl, rfl⟩
  · intro w1 w2 w3 w4 s hfeat hports hE hW hph heast hwest
    exact applyTopology_unwraps w1 w2 w3 w4 hfeat hports hE hW hph heast hwest
  · intro w1 w2 w3 w4 s hfeat hports hE _ hsrc heast
    exact applyTopology_at_end w1 w2 w3 w4 hfeat hports hE hsrc heast
  · intro t pt m s i a since hlive hph hconf hsrc hclaim hport hin
    rw [exec_claim_own hlive hph hconf hsrc hclaim hport, if_pos hin]
  · intro t pt m s hlive hph hconf hsrc hheld
    rw [exec_claim_other hlive hph hconf hsrc, if_pos (show portHeldHere s _ = true from hheld)]
  · intro t pt m s i a since hlive hph hconf hsrc hclaim hport hlate
    rw [exec_claim_own hlive hph hconf hsrc hclaim hport, if_neg (Nat.not_le.2 hlate)]
  · intro t pt m s i a since hlive hph hconf hsrc hheld hclaim hport
    rw [exec_claim_other hlive hph hconf hsrc, if_neg (Bool.eq_false_iff.1 (show portHeldHere s _ = false from hheld)),
      hclaim]
    simp only [← hport, beq_self_eq_true, Bool.true_and, decide_eq_true_eq]
  · intro i a s h
    exact finishHeld_of_none (s := setAssign i (some a) { s with ring := { s.ring with claim := none } }) h _
  · intro s p port hp hop
    obtain ⟨u, h, hu⟩ := loseClaim_quiet hp hop port
    rw [hu] at h
    exact ⟨_, h, rfl, rfl, rfl, rfl⟩


/-! ## Ring time (R312–R317) -/

/-! ### A TIME slot -/

/-- A TIME slot as it is noted, before it disciplines the count. -/
def timeNoted (r : Int) (s : State) : State :=
  updTime (fun x => { x with offset := wordOfInt (r - (ringCount s : Int)), timeSlots := satInc x.timeSlots }) s

theorem ringCount_timeNoted (r : Int) (s : State) : ringCount (timeNoted r s) = ringCount s := rfl

/-- A slot too far off: the count takes its value, and the lock is lost. -/
def timeUnlocked (r : Int) (s : State) : State :=
  updTime (fun x => { x with lock := .unlocked, good := 0 }) (stepTo r.toNat (timeNoted r s))

/-- The count takes the slot's value, with so many good slots in a row. -/
def timeStepped (r : Int) (good : Nat) (s : State) : State :=
  updTime (fun x => { x with good := good }) (stepTo r.toNat (timeNoted r s))

/-- The count slews toward the slot's value. -/
def timeSlewed (r : Int) (s : State) : State := slewBy (r - (ringCount s : Int)) (timeNoted r s)

section
variable {r : Int} {s : State}

theorem takeTime_of_locking (h : s.ring.time.lock = .unlocked) (hgood : s.ring.time.good = 7)
    (hnear : (r - (ringCount s : Int)).natAbs ≤ 400) : takeTime r s =
      raise 0x0510 0 0 0 (updTime (fun x => { x with lock := .locked, good := 0 }) (timeStepped r 8 s)) := by
  unfold takeTime
  extract_lets off far near s1 unlock good s2
  have hlock : s1.ring.time.lock = .unlocked := h
  have hg : s1.ring.time.good = 7 := hgood
  have hn : near = true := decide_eq_true hnear
  have h8 : good = 8 := (if_pos hn).trans (congrArg Nat.succ hg)
  have h2 : s2 = timeStepped r good s := rfl
  simp only [hlock]
  rw [h2, h8, if_pos (Nat.le_refl 8)]

theorem takeTime_of_stray (h : s.ring.time.lock = .unlocked) (hnear : 400 < (r - (ringCount s : Int)).natAbs) :
    takeTime r s = timeStepped r 0 s := by
  unfold takeTime
  extract_lets off far near s1 unlock good s2
  have hlock : s1.ring.time.lock = .unlocked := h
  have hn : near = false := decide_eq_false (Nat.not_le.2 hnear)
  have h0 : good = 0 := if_neg (Bool.eq_false_iff.1 hn)
  have h2 : s2 = timeStepped r good s := rfl
  simp only [hlock]
  rw [h2, h0, if_neg (by decide)]

theorem takeTime_of_far (h : s.ring.time.lock = .locked ∨ s.ring.time.lock = .holdover)
    (hfar : 16000 < (r - (ringCount s : Int)).natAbs) : takeTime r s = timeUnlocked r s := by
  unfold takeTime
  extract_lets off far near s1 unlock good s2
  have hf : far = true := decide_eq_true hfar
  rcases h with h | h
  all_goals
    have hlock : s1.ring.time.lock = _ := h
    simp only [hlock, hf, if_true]
    rfl

theorem takeTime_of_locked (h : s.ring.time.lock = .locked) (hfar : (r - (ringCount s : Int)).natAbs ≤ 16000) :
    takeTime r s = timeSlewed r s := by
  unfold takeTime
  extract_lets off far near s1 unlock good s2
  have hlock : s1.ring.time.lock = .locked := h
  have hf : far = false := decide_eq_false (Nat.not_lt.2 hfar)
  simp only [hlock, hf, Bool.false_eq_true, if_false]
  rfl

theorem takeTime_of_holdover (h : s.ring.time.lock = .holdover) (hfar : (r - (ringCount s : Int)).natAbs ≤ 16000) :
    takeTime r s = raise 0x0510 0 0 0 (updTime (fun x => { x with lock := .locked }) (timeSlewed r s)) := by
  unfold takeTime
  extract_lets off far near s1 unlock good s2
  have hlock : s1.ring.time.lock = .holdover := h
  have hf : far = false := decide_eq_false (Nat.not_lt.2 hfar)
  simp only [hlock, hf, Bool.false_eq_true, if_false]
  rfl

/-- A slot in the middle of a run: the count steps, and the lock may come. -/
theorem takeTime_of_unlocked (h : s.ring.time.lock = .unlocked) : ∃ good, takeTime r s = timeStepped r good s ∨
    takeTime r s = raise 0x0510 0 0 0 (updTime (fun x => { x with lock := .locked, good := 0 }) (timeStepped r good s)) := by
  unfold takeTime
  extract_lets off far near s1 unlock good s2
  have hlock : s1.ring.time.lock = .unlocked := h
  simp only [hlock]
  refine ⟨good, ?_⟩
  split
  · exact .inr rfl
  · exact .inl rfl

end

/-- What a TIME slot does whatever the lock: it changes the ring, the events and the marks of the timers. -/
structure TimeTaken (r : Int) (s u : State) : Prop where
  slots : u.ring.time.timeSlots = satInc s.ring.time.timeSlots
  offset : u.ring.time.offset = wordOfInt (r - (ringCount s : Int))
  frame : { u with ring := s.ring, events := s.events, timers := s.timers } = s
  chans : u.timers.chans.map (fun c => { c with usMark := 0 }) = s.timers.chans.map fun c => { c with usMark := 0 }

theorem TimeTaken.raised {r : Int} {s u : State} (h : TimeTaken r s u) (c a0 a1 a2 : Nat) : TimeTaken r s (raise c a0 a1 a2 u) := by
  obtain ⟨e, he⟩ := raise_eq c a0 a1 a2 u
  obtain ⟨hslots, hoffset, hframe, hchans⟩ := h
  rw [he]
  exact ⟨hslots, hoffset, hframe, hchans⟩

theorem timeStepped_taken (r : Int) (s : State) (f : RingTime → RingTime) (hslots : ∀ x, (f x).timeSlots = x.timeSlots)
    (hoffset : ∀ x, (f x).offset = x.offset) : TimeTaken r s (updTime f (stepTo r.toNat (timeNoted r s))) := by
  unfold stepTo
  extract_lets back
  refine ⟨hslots _, hoffset _, ?_, ?_⟩
  · cases s
    rfl
  · change (s.timers.chans.map back).map _ = _
    rw [List.map_map]
    rfl

theorem timeSlewed_eq (r : Int) (s : State) : ∃ f, timeSlewed r s = updTime f (timeNoted r s) ∧
    (∀ x, (f x).timeSlots = x.timeSlots) ∧ ∀ x, (f x).offset = x.offset := by
  unfold timeSlewed slewBy
  extract_lets c x dt locked
  refine ⟨_, rfl, ?_⟩
  exact ⟨fun _ => rfl, fun _ => rfl⟩

theorem takeTime_taken (r : Int) (s : State) : TimeTaken r s (takeTime r s) := by
  have hstep := timeStepped_taken r s
  have hslew : TimeTaken r s (timeSlewed r s) := by
    obtain ⟨f, hf, hslots, hoffset⟩ := timeSlewed_eq r s
    rw [hf]
    exact ⟨hslots _, hoffset _, rfl, rfl⟩
  have hlocked : ∀ u, TimeTaken r s u → TimeTaken r s (updTime (fun x => { x with lock := .locked }) u) := by
    rintro u ⟨hslots, hoffset, hframe, hchans⟩
    exact ⟨hslots, hoffset, hframe, hchans⟩
  cases h : s.ring.time.lock with
  | unlocked =>
    obtain ⟨good, ht | ht⟩ := takeTime_of_unlocked (r := r) h
    · rw [ht]
      exact hstep _ (fun _ => rfl) fun _ => rfl
    · rw [ht]
      exact TimeTaken.raised (hstep (fun x => { x with lock := .locked, good := 0 }) (fun _ => rfl) fun _ => rfl) ..
  | locked =>
    by_cases hfar : 16000 < (r - (ringCount s : Int)).natAbs
    · rw [takeTime_of_far (.inl h) hfar]
      exact hstep _ (fun _ => rfl) fun _ => rfl
    · rw [takeTime_of_locked h (Nat.not_lt.1 hfar)]
      exact hslew
  | holdover =>
    by_cases hfar : 16000 < (r - (ringCount s : Int)).natAbs
    · rw [takeTime_of_far (.inr h) hfar]
      exact hstep _ (fun _ => rfl) fun _ => rfl
    · rw [takeTime_of_holdover h (Nat.not_lt.1 hfar)]
      exact (hlocked _ hslew).raised ..

theorem timeSlewed_time (r : Int) (s : State) : (timeSlewed r s).ring.time.lock = s.ring.time.lock ∧
    (timeSlewed r s).ring.time.slew = r - (ringCount s : Int) ∧ (timeSlewed r s).ring.time.count = ringCount s ∧
    (s.ring.time.lock = .locked → (timeSlewed r s).ring.time.span = s.now.real - s.ring.time.asOf ∧
      (timeSlewed r s).ring.time.gain = (ringCount s : Int) - s.ring.time.count - (s.now.real - s.ring.time.asOf : Nat)) := by
  refine ⟨rfl, rfl, ringCount_timeNoted r s, fun h => ?_⟩
  have hlock : ((timeNoted r s).ring.time.lock == TimeLock.locked) = true := by
    rw [show (timeNoted r s).ring.time.lock = _ from h]
    rfl
  unfold timeSlewed slewBy
  simp only [hlock, if_true]
  rw [ringCount_timeNoted]
  exact ⟨rfl, rfl⟩

/-! ### Delays -/

theorem exec_delayResp_east {t : Instant} {m : MgmtSlot} {s : State} {d : Nat} {t1 t2 t3 : BitVec 64} (hlive : trunkLive s = true)
    (hph : s.east.phase = .up) (h1 : join64 (mgmtWord m 1) (mgmtWord m 2) = t1)
    (h2 : join64 (mgmtWord m 3) (mgmtWord m 4) = t2) (h3 : join64 (mgmtWord m 5) (mgmtWord m 6) = t3)
    (hd : ((ringCount (setNow t s) : Int) - t1.toNat) - ((t3.toNat : Int) - t2.toNat) = 2 * d) :
    exec (.delayResp t .east m) s = .next (updTime (fun x => { x with delayEast := wordOf d }) (setNow t s)) := by
  have hhalf : (((ringCount (setNow t s) : Int) - (join64 (mgmtWord m 1) (mgmtWord m 2)).toNat) -
      ((join64 (mgmtWord m 5) (mgmtWord m 6)).toNat - (join64 (mgmtWord m 3) (mgmtWord m 4)).toNat)) / 2 = (d : Int) := by
    rw [h1, h2, h3, hd]
    omega
  change execDelayResp t .east m s = _
  rw [execDelayResp, hopEvent_of_up hlive (show (getPort s .east).phase = .up from hph)]
  simp only [Nat.reduceAdd, hhalf, Int.toNat_natCast]
  rfl

theorem exec_hopDelayMeasure_due {t : Instant} {pt : Port} {s : State} (hlive : trunkLive s = true)
    (hph : (getPort s pt).phase = .up) (hf : hasFeature s 3 = true)
    (hp : passed (setNow t s) (getPort s pt).delayAt 1000000000 = true) :
    exec (.hopDelayMeasure t pt) s = .next (sendDelayReq pt (setNow t s)) := by
  change execHopDelayMeasure t pt s = _
  rw [execHopDelayMeasure, hopEvent_of_up hlive hph]
  simp only [getPort_setNow, show hasFeature (setNow t s) 3 = true from hf, hp, Bool.and_self, if_true]

theorem exec_hopDelayMeasure_untimed {t : Instant} {pt : Port} {s : State} (hf : hasFeature s 3 = false) :
    exec (.hopDelayMeasure t pt) s = .next (setNow t s) := by
  change execHopDelayMeasure t pt s = _
  unfold execHopDelayMeasure hopEvent
  simp only [show hasFeature (setNow t s) 3 = false from hf, Bool.false_and, Bool.false_eq_true, if_false, ite_self]

/-! ### TIME slots and their silence -/

section
variable {t : Instant} {pt : Port} {m : MgmtSlot} {s : State} (hlive : trunkLive s = true) (hph : (getPort s pt).phase = .up)
include hlive hph

theorem exec_time_unused (hm : m.ringB = true) (hb : s.ring.time.useB = false) : exec (.time t pt m) s =
    .next (updTime (fun x => { x with lastAny := some (setNow t s).now.real }) (setNow t s)) := by
  change execTime t pt m s = _
  rw [execTime, hopEvent_of_up hlive hph]
  have huse : (updTime (fun x => { x with lastAny := some (setNow t s).now.real }) (setNow t s)).ring.time.useB = false := hb
  simp only [hm, if_true, huse, Bool.not_false, Bool.and_self]

theorem exec_time_ringB (hm : m.ringB = true) (hb : s.ring.time.useB = true) : exec (.time t pt m) s =
    .next (takeTime (16 * ((join64 (mgmtWord m 0) (mgmtWord m 1)).toNat : Int) +
      (join64 (mgmtWord m 2) (mgmtWord m 3)).toInt + ((portDelay s pt).toNat : Int))
      (updTime (fun x => { x with lastAny := some (setNow t s).now.real }) (setNow t s))) := by
  change execTime t pt m s = _
  rw [execTime, hopEvent_of_up hlive hph]
  have huse : (updTime (fun x => { x with lastAny := some (setNow t s).now.real }) (setNow t s)).ring.time.useB = true := hb
  simp only [hm, if_true, huse, Bool.not_true, Bool.and_false, Bool.false_eq_true, if_false]
  cases pt <;> rfl

theorem exec_time_ringA (hm : m.ringB = false) : exec (.time t pt m) s =
    .next (takeTime (16 * ((join64 (mgmtWord m 0) (mgmtWord m 1)).toNat : Int) +
      (join64 (mgmtWord m 2) (mgmtWord m 3)).toInt + ((portDelay s pt).toNat : Int))
      (updTime (fun x => { x with
        lastAny := some (setNow t s).now.real
        lastRingA := some (setNow t s).now.real
        useB := false }) (setNow t s))) := by
  change execTime t pt m s = _
  rw [execTime, hopEvent_of_up hlive hph]
  simp only [hm, Bool.false_and, Bool.false_eq_true, if_false]
  cases pt <;> rfl

end

theorem exec_timeRingATimeout_live {t : Instant} {s : State} (hlive : trunkLive s = true) : exec (.timeRingATimeout t) s =
    .next (if passed (setNow t s) (s.ring.time.lastRingA.getD 0) 1000000 = true
      then updTime (fun x => { x with useB := true }) (setNow t s) else setNow t s) := by
  change execTimeRingATimeout t s = _
  rw [execTimeRingATimeout, ringEvent_of_live hlive]
  rfl

theorem exec_timeHoldover_silent {t : Instant} {s : State} {a : Nat} (hlive : trunkLive s = true)
    (ha : s.ring.time.lastAny = some a) (hl : s.ring.time.lock ≠ .holdover) : exec (.timeHoldover t) s =
      .next (if passed (setNow t s) a 2000000 then raise 0x0511 0 0 0 (holdOver (setNow t s)) else setNow t s) := by
  change execTimeHoldover t s = _
  rw [execTimeHoldover, ringEvent_of_live hlive]
  simp only [show (setNow t s).ring = s.ring from rfl, ha, bne_iff_ne.2 hl, Bool.true_and]

theorem exec_timeHoldover_held {t : Instant} {s : State} (h : s.ring.time.lastAny = none ∨ s.ring.time.lock = .holdover) :
    exec (.timeHoldover t) s = .next (setNow t s) := by
  change execTimeHoldover t s = _
  unfold execTimeHoldover ringEvent
  have hring : (setNow t s).ring = s.ring := rfl
  rcases h with h | h
  · simp only [hring, h, ite_self]
  · simp only [hring, h, bne_self_eq_false, Bool.false_and, Bool.false_eq_true, if_false]
    cases s.ring.time.lastAny <;> exact congrArg Host.Outcome.next (ite_self _)

/-! ### Holdover -/

theorem ringCount_of_holdover {s : State} {n : Nat} (hl : s.ring.time.lock = .holdover) (hs : s.ring.time.slew = 0)
    (hd : s.ring.time.drift = 0) (hg : 0 ≤ s.ring.time.gain) (hn : s.now.real = s.ring.time.asOf + n * s.ring.time.span)
    (hspan : 0 < s.ring.time.span) : (ringCount s : Int) =
      (s.ring.time.count + n * s.ring.time.span : Nat) + (n : Int) * s.ring.time.gain := by
  have hdt : s.now.real - s.ring.time.asOf = n * s.ring.time.span := by rw [hn, Nat.add_sub_cancel_left]
  have hslope : s.ring.time.gain * ((n * s.ring.time.span : Nat) : Int) / s.ring.time.span = n * s.ring.time.gain := by
    rw [Nat.cast_mul, ← mul_assoc, Int.mul_ediv_cancel _ (by exact_mod_cast hspan.ne'), mul_comm]
  have hclamp : ∀ k : Nat, clampI (-(k : Int)) k 0 = 0 := by
    intro k
    unfold clampI
    omega
  have hpos : 0 ≤ (n : Int) * s.ring.time.gain := mul_nonneg (Int.natCast_nonneg n) hg
  unfold ringCount
  extract_lets dt
  rw [show dt = n * s.ring.time.span from hdt, hs, hd, hl, if_pos rfl, hslope, hclamp, zero_mul, Int.zero_ediv, add_zero, add_zero,
    Int.toNat_of_nonneg (add_nonneg (Int.natCast_nonneg _) hpos)]

theorem holdOver_drift (s : State) : -32 ≤ (holdOver s).ring.time.drift ∧ (holdOver s).ring.time.drift ≤ 32 := by
  unfold holdOver
  generalize takeFree s = r
  change -32 ≤ ((r.1.toNat % 65 : Nat) : Int) - 32 ∧ ((r.1.toNat % 65 : Nat) : Int) - 32 ≤ 32
  omega

/-- Settles O48, clause by clause from the rules of delays, TIME slots and holdover. -/
theorem ringTimeFollowsTheOwner : Obligations.RingTimeFollowsTheOwner := by
  unfold Obligations.RingTimeFollowsTheOwner
  refine ⟨?_, fun t pt m s hlive hph => show execDelayReq t pt m s = _ from hopEvent_of_up hlive hph _, ?_,
    fun t pt s => exec_hopDelayMeasure_due, fun t pt s => exec_hopDelayMeasure_untimed, fun t pt m s => exec_time_unused,
    fun t pt m s => exec_time_ringA, fun t pt m s => exec_time_ringB, ?_, ?_, ?_,
    fun r s => ⟨(takeTime_taken r s).slots, (takeTime_taken r s).offset⟩, ?_, ?_,
    fun r s => ⟨(takeTime_taken r s).frame, (takeTime_taken r s).chans⟩, ?_, ?_, fun t s a => exec_timeHoldover_silent,
    fun t s => exec_timeHoldover_held, ?_, fun s n => ringCount_of_holdover, fun s => ⟨rfl, rfl⟩, ?_⟩
  · intro t s p s1 htaken hr
    have hbody : timeSyncBody (cmdOf p) s1 = cmdOk s1 [lo32 (ringStamp s1), hi32 (ringStamp s1),
        mkWord [(b2n (hasFeature s1 3), 2), (lockCode s1.ring.time.lock, 0)], s1.ring.time.offset, s1.ring.time.delayWest,
        s1.ring.time.delayEast, s1.ring.time.timeSlots] := by
      rw [timeSyncBody, judged_of_none _ _ hr]
    exact exec_of_body htaken rfl hbody rfl
  · intro t m s d t1 t2 t3 hlive hph h1 h2 h3 hd hlt
    refine ⟨_, exec_delayResp_east hlive hph h1 h2 h3 hd, ?_, rfl, rfl⟩
    change (wordOf d).toNat = d
    rw [wordOf, BitVec.toNat_ofNat, Nat.mod_eq_of_lt hlt]
  · exact fun r s h _ hgood hnear => ⟨_, takeTime_of_locking h hgood hnear, rfl, rfl, rfl, rfl⟩
  · intro r s h hnear
    rw [takeTime_of_stray h hnear]
    exact ⟨h, rfl, rfl⟩
  · intro r s h
    by_cases hfar : 16000 < (r - (ringCount s : Int)).natAbs
    · exact ⟨_, fun _ => ⟨takeTime_of_far (.inr h) hfar, rfl, rfl⟩, fun hnear => absurd hfar (Nat.not_lt.2 hnear)⟩
    · obtain ⟨-, hslew, hcount, -⟩ := timeSlewed_time r s
      exact ⟨_, fun hf => absurd hf hfar, fun hnear => ⟨takeTime_of_holdover h hnear, rfl, hslew, hcount⟩⟩
  · intro r s h hnear
    obtain ⟨hlock, hslew, hcount, -⟩ := timeSlewed_time r s
    rw [takeTime_of_locked h hnear]
    exact ⟨hlock.trans h, hslew, hcount, rfl⟩
  · intro r s h hfar
    rw [takeTime_of_far (.inl h) hfar]
    exact ⟨rfl, rfl⟩
  · intro t s hlive hp
    rw [exec_timeRingATimeout_live hlive, if_pos hp]
  · intro t s hlive hp
    rw [exec_timeRingATimeout_live hlive, if_neg (Bool.eq_false_iff.1 hp)]
  · intro r s h hnear
    obtain ⟨-, -, -, hspan⟩ := timeSlewed_time r s
    rw [takeTime_of_locked h hnear]
    exact hspan h
  · exact fun s => ⟨rfl, rfl, rfl, rfl, (holdOver_drift s).1, (holdOver_drift s).2, rfl⟩


/-! ## Clocks (R349–R365) -/

/-- SET_CLOCKS that sends its first two words as they stand. -/
def clocksPacket : Packet :=
  { req := .twa, dest := 0, bytes := wordsBytes (withCrc [0x01000801, 0x00020000, 0, 3145984, 1638425000]), arrived := ⟨0, 0⟩ }

/-- A row out of reset that has `clocksPacket` next, with a REFCLK0 that was found off its standard frequencies. -/
def nonstandardRow : State :=
  { State.reset with
    rst := { State.reset.rst with phase := .done, asserted := [] }
    bureau := { State.reset.bureau with queue := [clocksPacket] }
    clock := { State.reset.clock with ref0Nonstd := true } }

/-- The configuration that a SET_CLOCKS asks for. -/
def clocksSent (c : Cmd) (s : State) : ClockCfg := clocksOf (overlay c.words (clockWords s.clock.cfg))

/-- What the clause on an accepted SET_CLOCKS keeps: all of the clocks but their configuration. -/
def clocksKept (c : Cmd) (s : State) : CmdResult :=
  cmdOk (applyOut s.clock.cfg (computedRoot (clocksSent c s))
    { s with clock := { s.clock with cfg := computedRoot (clocksSent c s) } })

/-- What the refutation needs of the command taken: its words change nothing of the configuration and nothing refuses them, but
the state it leaves and the one its clause names differ in REFCLK0's mark. -/
def clearsNonstandard (r : Packet × State) : Bool :=
  let c := cmdOf r.1
  (firstReserved c.words [0x1F01FFF, 0xFFFFFFFF, 0x7FFFFFFF, 0x7FFFFFFF, 3, 0xFFF0F301, 0xFFF0F301]).isNone &&
  (clocksBad r.2 (clocksSent c r.2)).isNone && !rootDiffers r.2.clock.cfg (clocksSent c r.2) &&
  !outDiffers r.2.clock.cfg (clocksSent c r.2) && !clkClash r.2.clock.cfg.clk0 (clocksSent c r.2).clk0 &&
  !clkClash r.2.clock.cfg.clk1 (clocksSent c r.2).clk1 &&
  !rootDiffers r.2.clock.cfg (computedRoot (clocksSent c r.2)) && !(setClocksBody c r.2).held &&
  !(finishCmd r.1 (setClocksBody c r.2) r.2).clock.ref0Nonstd && (finishCmd r.1 (clocksKept c r.2) r.2).clock.ref0Nonstd

/-- Refutes O49: in `nonstandardRow` a SET_CLOCKS that sends REF0_KHZ clears the mark of a nonstandard REFCLK0; its clause says that
it changes the configuration alone. -/
theorem not_clockCommandsAndPllEvents : ¬ Obligations.ClockCommandsAndPllEvents := by
  intro h
  obtain ⟨hset, -⟩ := h
  obtain ⟨⟨p, s1⟩, htaken⟩ : ∃ r, taken ⟨0, 0⟩ 0x0801 nonstandardRow = some r := Option.isSome_iff_exists.1 (by decide +kernel)
  have hfacts : (taken ⟨0, 0⟩ 0x0801 nonstandardRow).all clearsNonstandard = true := by decide +kernel
  rw [htaken, Option.all_some, clearsNonstandard] at hfacts
  simp only [Bool.and_eq_true, Bool.not_eq_true', Option.isNone_iff_eq_none] at hfacts
  obtain ⟨⟨⟨⟨⟨⟨⟨⟨⟨hr, hgood⟩, hroot⟩, hout⟩, hclk0⟩, hclk1⟩, hnew⟩, hheld⟩, hcleared⟩, hkept⟩ := hfacts
  have hexec : ∀ t s, exec (.setClocks t) s = runCmd t 0x0801 setClocksBody s := fun _ _ => rfl
  have hrun := exec_of_body htaken (hexec ⟨0, 0⟩ nonstandardRow) rfl hheld
  obtain ⟨-, -, haccepted⟩ := hset ⟨0, 0⟩ nonstandardRow p s1 (clocksSent (cmdOf p) s1) _ htaken hr rfl rfl
  obtain ⟨hclause, -⟩ := haccepted hgood (fun hd => absurd (hroot.symm.trans hd) Bool.false_ne_true)
    (fun hd => absurd (hout.symm.trans hd) Bool.false_ne_true) hclk0 hclk1
  have hsame := Host.Outcome.next.inj (hrun.symm.trans (hclause (.inl hnew)))
  have hmark : (finishCmd p (setClocksBody (cmdOf p) s1) s1).clock.ref0Nonstd =
      (finishCmd p (clocksKept (cmdOf p) s1) s1).clock.ref0Nonstd := congrArg (fun u : State => u.clock.ref0Nonstd) hsame
  rw [hcleared, hkept] at hmark
  exact Bool.false_ne_true hmark


/-! ## Power and temperature (R366–R386) -/

theorem mailReply_bureau (p : TwPort) (bs : List Byte) (s : State) : (mailReply p bs s).bureau = s.bureau := by
  cases p <;> rfl

theorem mailFree_bureau (p : TwPort) (s : State) : (mailFree p s).bureau = s.bureau := by
  cases p <;> rfl

theorem deliver_bureau (p : Packet) (ws : List Word) (s : State) : (deliver p ws s).bureau = s.bureau := by
  unfold deliver
  extract_lets ws' out s1
  split
  · split
    · rfl
    · exact mailReply_bureau ..
  · split
    · rfl
    · exact mailReply_bureau ..
  · obtain ⟨q, hq⟩ := queuePacket_eq 3 1 (replyDest p.req) 0 (ringTo s1 (replyDest p.req)) ws' s1
    rw [hq]

theorem unanswered_bureau (p : Packet) (s : State) : (unanswered p s).bureau = s.bureau := by
  unfold unanswered
  split
  · split
    · rfl
    · exact mailFree_bureau ..
  · split
    · rfl
    · exact mailFree_bureau ..
  · rfl

theorem countReply_ok_queue (s : State) : (countReply .ok s).bureau.queue = s.bureau.queue := rfl

theorem cmdOk_results (s : State) (ws : List Word) : (cmdOk s ws).results = ws := rfl

/-- Where no command waits, a command that ends with results leaves them in the reply stored last. -/
theorem finishCmd_ok_stored {u before : State} (p : Packet) {ws : List Word} (hqueue : u.bureau.queue = [])
    (hlen : ws.length ≤ 32) :
    ((finishCmd p (cmdOk u ws) before).bureau.stored.getLast?.map fun x => x.words.drop 3) = some ws := by
  have hanswer : (answer p (cmdOk u ws) u).bureau =
      (noteCommand p (replyWords p false (cmdOk u ws)) (storeReply p (replyWords p false (cmdOk u ws)) (countReply .ok u))).bureau := by
    unfold answer
    extract_lets rs s1
    split
    · exact unanswered_bureau ..
    · exact deliver_bureau ..
  have hq : (answer p (cmdOk u ws) u).bureau.queue = [] := (congrArg BureauState.queue hanswer).trans hqueue
  have hsettle : finishCmd p (cmdOk u ws) before = answer p (cmdOk u ws) u := by
    have hnone : takeable (answer p (cmdOk u ws) u) = none := by
      unfold takeable
      rw [hq]
      exact ite_self _
    change settle ((answer p (cmdOk u ws) u).bureau.queue.length + 1) (answer p (cmdOk u ws) u) = _
    rw [settle, hnone]
  have hstored : (answer p (cmdOk u ws) u).bureau.stored =
      (storeReply p (replyWords p false (cmdOk u ws)) (countReply .ok u)).bureau.stored := by
    rw [hanswer, noteCommand]
  have hlim : ws.length ≤ pathWords p.via := by
    unfold pathWords
    split <;> omega
  rw [hsettle, hstored, storeReply_stored, List.getLast?_concat, Option.map_some]
  exact congrArg some (List.take_of_length_le hlim)

/-- GET_TEMPERATURES. -/
def temperaturesPacket : Packet :=
  { req := .twa, dest := 0, bytes := wordsBytes (withCrc [0x01000807, 0, 0]), arrived := ⟨0, 0⟩ }

/-- A row out of reset that has `temperaturesPacket` next, with a throttle step beyond the three of the controller. -/
def steppedRow : State :=
  { State.reset with
    rst := { State.reset.rst with phase := .done, asserted := [] }
    bureau := { State.reset.bureau with queue := [temperaturesPacket] }
    power := { State.reset.power with step := 4 } }

/-- The words GET_TEMPERATURES answers with. -/
def temperatureWords (c : Cmd) (s : State) : List Word := (getTemperaturesBody c s).results

/-- What the refutation needs of the command taken: it is well formed, no other waits, and the answer's last word shows a hold
while there is none. -/
def showsHold (r : Packet × State) : Bool :=
  let c := cmdOf r.1
  (firstReserved c.words [0]).isNone && r.2.bureau.queue.isEmpty && !r.2.power.hold &&
  bitAt ((temperatureWords c r.2).getD 9 0) 2 && (temperatureWords c r.2).length == 10

theorem getTemperaturesBody_of_legal {c : Cmd} {s : State} (h : firstReserved c.words [0] = none) : getTemperaturesBody c s =
    cmdOk { s with power := { s.power with tJPeak := 0x8000 } } (temperatureWords c s) := by
  obtain ⟨ws, hws⟩ : ∃ ws, getTemperaturesBody c s = cmdOk { s with power := { s.power with tJPeak := 0x8000 } } ws := by
    unfold getTemperaturesBody
    exact ⟨_, judged_of_none _ _ h⟩
  rw [temperatureWords, hws, cmdOk_results]

/-- Refutes O50: in `steppedRow` the throttle step reaches into bit 2 of GET_TEMPERATURES' last word, which its clause says is
the thermal hold whatever the step. -/
theorem not_powerCommandsAndThermalControl : ¬ Obligations.PowerCommandsAndThermalControl := by
  intro h
  obtain ⟨-, -, -, -, -, -, -, -, -, -, -, -, htemps, -⟩ := h
  obtain ⟨⟨p, s1⟩, htaken⟩ : ∃ r, taken ⟨0, 0⟩ 0x0807 steppedRow = some r := Option.isSome_iff_exists.1 (by decide +kernel)
  have hfacts : (taken ⟨0, 0⟩ 0x0807 steppedRow).all showsHold = true := by decide +kernel
  rw [htaken, Option.all_some, showsHold] at hfacts
  simp only [Bool.and_eq_true, Bool.not_eq_true', Option.isNone_iff_eq_none, List.isEmpty_iff, beq_iff_eq] at hfacts
  obtain ⟨⟨⟨⟨hr, hqueue⟩, hhold⟩, hbit⟩, hten⟩ := hfacts
  have hexec : ∀ t s, exec (.getTemperatures t) s = runCmd t 0x0807 getTemperaturesBody s := fun _ _ => rfl
  obtain ⟨ws, hclause, hlen, -, -, -, -, hbit2, -⟩ := htemps ⟨0, 0⟩ steppedRow p s1 htaken hr
  have hrun := exec_of_body htaken (hexec ⟨0, 0⟩ steppedRow) (getTemperaturesBody_of_legal hr) rfl
  have hsame := congrArg (fun u : State => u.bureau.stored.getLast?.map fun x => x.words.drop 3)
    (Host.Outcome.next.inj (hclause.symm.trans hrun))
  have hstored : ∀ ws : List Word, ws.length ≤ 32 → ((finishCmd p (cmdOk { s1 with power := { s1.power with tJPeak := 0x8000 } } ws)
      s1).bureau.stored.getLast?.map fun x => x.words.drop 3) = some ws := fun ws => finishCmd_ok_stored p hqueue
  have hws : some ws = some (temperatureWords (cmdOf p) s1) :=
    ((hstored ws (by omega)).symm.trans hsame).trans (hstored _ (by omega))
  rw [Option.some.inj hws, hbit, hhold] at hbit2
  exact Bool.false_ne_true hbit2.symm


/-! ## Resets and the watchdog (R387–R406) -/

/-! ### What a reset leaves of the reset state -/

theorem takeFreeze_rst (last : FrameId) (k : Nat) (s : State) : (takeFreeze last k s).rst = s.rst := by
  obtain ⟨h, e, heq⟩ := takeFreeze_eq last k s
  rw [heq]

theorem countRetract_rst (s : State) : (countRetract s).rst = s.rst := rfl

theorem retractFrame_rst (id : FrameId) (reason : Nat) (s : State) : (retractFrame id reason s).rst = s.rst := by
  refine view_foldl (π := State.rst) (fun s i => ?_) _ s
  have hgone : (removeBasted i id s).rst = s.rst := updStream_rst ..
  unfold sendRetract
  split
  · rw [countRetract_rst, updStream_rst, hgone]
  · exact hgone

theorem arbitrate_rst (s : State) : (arbitrate s).rst = s.rst := by
  obtain ⟨g, l, n, e, h⟩ := arbitrate_eq s
  rw [h]

theorem leaveSlot_rst (kid : Nat) (s : State) : (leaveSlot kid s).rst = s.rst := rfl

theorem endKernel_rst (kid : Nat) (ph : KernelPhase) (s : State) : (endKernel kid ph s).rst = s.rst := by
  unfold endKernel
  extract_lets s1
  rw [arbitrate_rst, updKernel_rst]
  exact (view_foldl (π := State.rst) (fun s b => updBobbin_rst b stoppedBobbin s) _ _).trans (leaveSlot_rst kid s)

theorem noteStop_rst (s : State) : (noteStop s).rst = s.rst := by
  unfold noteStop
  split
  · extract_lets s1
    split
    · exact endKernel_rst ..
    · rfl
  · rfl

theorem freezeAtStop_rst (s : State) : (freezeAtStop s).rst = s.rst := by
  unfold freezeAtStop
  split
  · split
    · exact takeFreeze_rst ..
    · rfl
  · rfl

theorem countStopped_rst (s : State) : (countStopped s).rst = s.rst := by
  unfold countStopped
  extract_lets x y s1 s2
  have h1 : s1.rst = s.rst := raise_rst ..
  have h2 : s2.rst = s1.rst := view_foldl (π := State.rst) (fun s id => retractFrame_rst id _ s) _ _
  rw [arbitrate_rst, noteStop_rst, freezeAtStop_rst]
  exact h2.trans h1

theorem settleStop_rst (s : State) : (settleStop s).rst = s.rst := by
  unfold settleStop
  split
  · exact countStopped_rst s
  · rfl

theorem stopImmediate_rst (cause : StopCause) (last : FrameId) (s : State) : (stopImmediate cause last s).rst = s.rst := by
  unfold stopImmediate
  rw [settleStop_rst]
  exact view_foldl (π := State.rst) (fun s id => (rfl : (abandonFrame id s).rst = s.rst)) _ _

theorem haltCapture_rst (cause : StopCause) (s : State) : (haltCapture cause s).rst = s.rst := by
  unfold haltCapture
  extract_lets last running pend x s1 s2
  have h2 : s2.rst = s.rst := by
    unfold s2
    split
    · exact stopImmediate_rst ..
    · split
      · exact settleStop_rst ..
      · rfl
  have hframe : ∀ (u : State) id, (retractFrame id (retractReason cause) (abandonFrame id u)).rst = u.rst := fun u id =>
    retractFrame_rst ..
  exact (view_foldl (π := State.rst) hframe pend s2).trans h2



/-! ### Asserting a reset (R388–R391, R400) -/

theorem freeWords_kept (n : Nat) (s : State) : (freeWords n s).2.rst = s.rst ∧ (freeWords n s).2.pins = s.pins := ⟨rfl, rfl⟩

/-- `cutDump` with the size and the place of what it overwrites left open. -/
def cutDumpAt (n a : Nat) (s : State) : State :=
  match s.nvm.dumping with
  | none => s
  | some d =>
    let s := { s with nvm := { s.nvm with dumping := none } }
    if d.written then s
    else
      let f := takeFree s
      if bitAt f.1 0 then
        let g := freeWords n f.2
        let s := dramWriteWords g.2 a g.1
        { s with nvm := { s.nvm with dumpValid := false } }
      else f.2

theorem cutDumpAt_kept (n a : Nat) (s : State) : (cutDumpAt n a s).rst = s.rst ∧ (cutDumpAt n a s).pins = s.pins := by
  unfold cutDumpAt
  split
  · exact ⟨rfl, rfl⟩
  · extract_lets x s1 f g s2
    have h2 : s2.rst = s.rst ∧ s2.pins = s.pins := by
      obtain ⟨hrst, hpins⟩ := freeWords_kept n f.2
      exact ⟨(dramWrite_rst ..).trans hrst, (dramWrite_pins ..).trans hpins⟩
    split
    · exact ⟨rfl, rfl⟩
    · split
      · exact h2
      · exact ⟨rfl, rfl⟩

theorem cutDump_kept (s : State) : (cutDump s).rst = s.rst ∧ (cutDump s).pins = s.pins :=
  cutDumpAt_kept (dumpRest / 4) (partBase .dump + 64) s

theorem spoilPage_kept (pg : Nat) (s : State) : (spoilPage pg s).rst = s.rst ∧ (spoilPage pg s).pins = s.pins := ⟨rfl, rfl⟩

theorem commitEffect_kept (o : NvmOrigin) (s : State) : (commitEffect o s).rst = s.rst ∧ (commitEffect o s).pins = s.pins := by
  have hbank : ∀ (b : Bool) (x : BankState) (u : State), (setBank b x u).rst = u.rst ∧ (setBank b x u).pins = u.pins := by
    intro b x u
    cases b <;> exact ⟨rfl, rfl⟩
  cases o with
  | fwBegin _ => exact hbank ..
  | fwVerified => exact hbank ..
  | bootReject => exact hbank ..
  | _ => exact ⟨rfl, rfl⟩

theorem stepStands_kept (boot : Bool) (x : NvmTxn) (s : State) :
    (stepStands boot x s).rst = s.rst ∧ (stepStands boot x s).pins = s.pins := by
  have hput : ∀ (y : Option NvmTxn) (u : State), (putTxn boot y u).rst = u.rst ∧ (putTxn boot y u).pins = u.pins := by
    intro y u
    cases boot <;> exact ⟨rfl, rfl⟩
  unfold stepStands
  split
  · exact hput ..
  · split
    · obtain ⟨hrst, hpins⟩ := commitEffect_kept x.origin s
      exact ⟨(hput ..).1.trans hrst, (hput ..).2.trans hpins⟩
    · exact hput ..

theorem tearPage_kept (s : State) : (tearPage s).rst = s.rst ∧ (tearPage s).pins = s.pins := by
  unfold tearPage
  extract_lets x idle f record
  have hrecord : ∀ boot, (record boot).rst = s.rst ∧ (record boot).pins = s.pins := by
    intro boot
    unfold record
    split
    · split
      · exact stepStands_kept ..
      · exact ⟨rfl, rfl⟩
    · exact ⟨rfl, rfl⟩
  split
  · exact ⟨rfl, rfl⟩
  · split <;> exact ⟨rfl, rfl⟩
  · split <;> exact ⟨rfl, rfl⟩
  · exact hrecord false
  · exact hrecord true

/-- The domains of a reset of kind `k` are reset. -/
def domainsReset (k : ResetCause) (keep : Bool) (s : State) : State :=
  let s := resetImage (resetMemory k (resetBureau (resetClock keep s)))
  let s := if warm k then s else losePower s
  if k == .powerOn then resetAlwaysOn (resetTap s) else s

theorem loseState_eq (k : ResetCause) (keep : Bool) (s : State) : ∃ u, u.rst = s.rst ∧ (warm k = false → u.pins = s.pins) ∧
    loseState k keep s = domainsReset k keep u := by
  unfold loseState
  extract_lets s1 x s2 s3
  have h1 : s1.rst = s.rst ∧ (warm k = false → s1.pins = s.pins) := by
    unfold s1
    split
    · next h =>
      refine ⟨haltCapture_rst .., fun hw => ?_⟩
      rw [hw, Bool.and_false] at h
      exact absurd h Bool.false_ne_true
    · exact ⟨rfl, fun _ => rfl⟩
  have h2 : s2.rst = s1.rst ∧ s2.pins = s1.pins := by
    unfold s2
    split
    · exact cutDump_kept _
    · obtain ⟨hrst, hpins⟩ := cutDump_kept (tearPage s1)
      exact ⟨hrst.trans (tearPage_kept s1).1, hpins.trans (tearPage_kept s1).2⟩
  have h3 : s3.rst = s2.rst ∧ s3.pins = s2.pins := by
    unfold s3
    split <;> exact ⟨rfl, rfl⟩
  exact ⟨s3, h3.1.trans (h2.1.trans h1.1), fun hw => h3.2.trans (h2.2.trans (h1.2 hw)), rfl⟩

/-- What no reset leaves. -/
theorem domainsReset_fresh (k : ResetCause) (keep : Bool) (s : State) :
    (domainsReset k keep s).exposure = {} ∧ (domainsReset k keep s).engines = {} ∧ (domainsReset k keep s).bureau.ready = false ∧
    (domainsReset k keep s).accum.selfRefresh = true ∧
    (k = .powerOn ∨ k = .brownOut → (domainsReset k keep s).dram = [] ∧ (domainsReset k keep s).events = {}) := by
  refine ⟨?_, ?_, ?_, ?_, ?_⟩
  · cases k <;> rfl
  · cases k <;> rfl
  · cases k <;> rfl
  · cases k <;> rfl
  · rintro (rfl | rfl) <;> exact ⟨rfl, rfl⟩

section
variable (k0 : ResetCause) (keep0 : Bool) (s : State)

/-- A reset that counts as a fatal one. -/
def fatalKind (k : ResetCause) : Bool := k == .watchdog || k == .fatal

/-- What asserting a reset records, beside the state its domains lose. -/
theorem assertReset_rst {k : ResetCause} {keep : Bool} (hc : combined k0 keep0 s = (k, keep)) :
    (assertReset k0 keep0 s).rst.cause = k ∧ (assertReset k0 keep0 s).rst.asserted = resetDomains k keep ∧
    (assertReset k0 keep0 s).rst.keepTrunk = keep ∧ (assertReset k0 keep0 s).rst.waiting = none ∧
    (assertReset k0 keep0 s).rst.lastFatal = (if fatalKind k0 then some (loseState k keep s).now.real
      else (loseState k keep s).rst.lastFatal) := by
  have hk : (combined k0 keep0 s).1 = k := congrArg Prod.fst hc
  have hkeep : (combined k0 keep0 s).2 = keep := congrArg Prod.snd hc
  subst hk hkeep
  exact ⟨rfl, rfl, rfl, rfl, rfl⟩

theorem assertReset_quick {k : ResetCause} {keep : Bool} (hc : combined k0 keep0 s = (k, keep)) :
    (assertReset k0 keep0 s).rst.quickFatal = if fatalKind k0 then
      fatalKind k && s.rst.lastFatal.any fun a => decide (s.now.real < a + 60 * 16000000000)
    else fatalKind k && s.rst.quickFatal := by
  have hk : (combined k0 keep0 s).1 = k := congrArg Prod.fst hc
  subst hk
  rw [← match_some_eq_any]
  rfl

theorem assertReset_phase {k : ResetCause} {keep : Bool} (hc : combined k0 keep0 s = (k, keep)) :
    (assertReset k0 keep0 s).rst.phase = (if (loseState k keep s).rst.phase == .tripped && k0 != .thermal then .tripped
      else if (loseState k keep s).rst.resetNLow || !(loseState k keep s).rst.pgood then .holding else .loading) ∧
    (assertReset k0 keep0 s).power.faultN =
      ((loseState k keep s).power.faultN || ((loseState k keep s).rst.phase == .tripped && k0 != .thermal)) := by
  have hk : (combined k0 keep0 s).1 = k := congrArg Prod.fst hc
  have hkeep : (combined k0 keep0 s).2 = keep := congrArg Prod.snd hc
  subst hk hkeep
  exact ⟨rfl, rfl⟩

theorem assertReset_frame {k : ResetCause} {keep : Bool} (hc : combined k0 keep0 s = (k, keep)) :
    { assertReset k0 keep0 s with rst := (loseState k keep s).rst, power := (loseState k keep s).power } =
      loseState k keep s := by
  have hk : (combined k0 keep0 s).1 = k := congrArg Prod.fst hc
  have hkeep : (combined k0 keep0 s).2 = keep := congrArg Prod.snd hc
  subst hk hkeep
  rfl

end

theorem combined_of_done {s : State} (h : s.rst.phase = .done) (k : ResetCause) (keep : Bool) : combined k keep s = (k, keep) :=
  if_pos (by rw [h]; rfl)

theorem combined_of_running {s : State} (h : s.rst.phase ≠ .done) (k : ResetCause) (keep : Bool) :
    combined k keep s = (higherCause s.rst.cause k, keep && s.rst.keepTrunk) :=
  if_neg (mt beq_iff_eq.1 h)

/-- The parts of the reset state that a warm reset keeps. -/
theorem loseState_rst_of_kept {k : ResetCause} (hk : k ≠ .powerOn) (keep : Bool) (s : State) :
    (loseState k keep s).rst.phase = s.rst.phase ∧ (loseState k keep s).rst.lastFatal = s.rst.lastFatal ∧
    (loseState k keep s).rst.resetNLow = s.rst.resetNLow ∧ (loseState k keep s).rst.pgood = s.rst.pgood := by
  obtain ⟨u, hrst, -, hu⟩ := loseState_eq k keep s
  have hfields : (domainsReset k keep u).rst.phase = u.rst.phase ∧ (domainsReset k keep u).rst.lastFatal = u.rst.lastFatal ∧
      (domainsReset k keep u).rst.resetNLow = u.rst.resetNLow ∧ (domainsReset k keep u).rst.pgood = u.rst.pgood := by
    cases k with
    | powerOn => exact absurd rfl hk
    | _ => exact ⟨rfl, rfl, rfl, rfl⟩
  rw [hu, ← hrst]
  exact hfields

theorem loseState_rst_of_powerOn (keep : Bool) (s : State) : (loseState .powerOn keep s).rst.phase = s.rst.phase ∧
    (loseState .powerOn keep s).rst.resetNLow = s.pins.resetNLow ∧ (loseState .powerOn keep s).rst.pgood = s.pins.pgood := by
  obtain ⟨u, hrst, hpins, hu⟩ := loseState_eq .powerOn keep s
  rw [hu, ← hpins rfl, ← hrst]
  exact ⟨rfl, rfl, rfl⟩

theorem loseState_phase (k : ResetCause) (keep : Bool) (s : State) : (loseState k keep s).rst.phase = s.rst.phase := by
  by_cases hk : k = .powerOn
  · subst hk
    exact (loseState_rst_of_powerOn keep s).1
  · exact (loseState_rst_of_kept hk keep s).1

theorem assertReset_tripped {k : ResetCause} {s : State} (h : s.rst.phase = .tripped) (hk : k ≠ .thermal) :
    (assertReset k false s).rst.phase = .tripped ∧ (assertReset k false s).power.faultN = true := by
  have hc := combined_of_running (s := s) (by rw [h]; decide) k false
  obtain ⟨hphase, hfault⟩ := assertReset_phase k false s hc
  have hoff : ((loseState (higherCause s.rst.cause k) (false && s.rst.keepTrunk) s).rst.phase == .tripped && k != .thermal) = true := by
    rw [loseState_phase, h, bne_iff_ne.2 hk]
    rfl
  rw [hphase, hfault, hoff, Bool.or_true]
  exact ⟨rfl, rfl⟩

/-- A reset asserted while the device runs. -/
theorem assertReset_of_done {k : ResetCause} {keep : Bool} {s : State} (h : s.rst.phase = .done) :
    (k ≠ .powerOn → (assertReset k keep s).rst.phase = (if s.rst.resetNLow || !s.rst.pgood then .holding else .loading)) ∧
    (k = .powerOn → (assertReset k keep s).rst.phase = (if s.pins.resetNLow || !s.pins.pgood then .holding else .loading)) := by
  have hc := combined_of_done h k keep
  have hon : ((loseState k keep s).rst.phase == .tripped && k != .thermal) = false := by
    rw [loseState_phase, h]
    rfl
  rw [(assertReset_phase k keep s hc).1, hon, if_neg Bool.false_ne_true]
  refine ⟨fun hk => ?_, fun hk => ?_⟩
  · obtain ⟨-, -, hlow, hgood⟩ := loseState_rst_of_kept hk keep s
    rw [hlow, hgood]
  · subst hk
    obtain ⟨-, hlow, hgood⟩ := loseState_rst_of_powerOn keep s
    rw [hlow, hgood]

theorem assertReset_fresh {k : ResetCause} {keep : Bool} {s : State} (h : s.rst.phase = .done) :
    (assertReset k keep s).exposure = {} ∧ (assertReset k keep s).engines = {} ∧ (assertReset k keep s).bureau.ready = false ∧
    (assertReset k keep s).accum.selfRefresh = true ∧
    (k = .powerOn ∨ k = .brownOut → (assertReset k keep s).dram = [] ∧ (assertReset k keep s).events = {}) := by
  have hframe := assertReset_frame k keep s (combined_of_done h k keep)
  obtain ⟨u, -, -, hu⟩ := loseState_eq k keep s
  have hfield : ∀ {β : Type} (π : State → β), (∀ v r p, π { v with rst := r, power := p } = π v) →
      π (assertReset k keep s) = π (domainsReset k keep u) := by
    intro β π hπ
    exact (hπ ..).symm.trans (congrArg π (hframe.trans hu))
  rw [hfield State.exposure fun _ _ _ => rfl, hfield State.engines fun _ _ _ => rfl, hfield State.bureau fun _ _ _ => rfl,
    hfield State.accum fun _ _ _ => rfl, hfield State.dram fun _ _ _ => rfl, hfield State.events fun _ _ _ => rfl]
  exact domainsReset_fresh k keep u


/-! ### Requests (R389, R412) -/

theorem requestReset_of_write {k : ResetCause} {s : State} (hp : k ≠ .powerOn) (hb : k ≠ .brownOut) (ht : k ≠ .thermal)
    (hflight : s.nvm.inFlight.isSome = true) (hdead : s.rst.phase ≠ .dead) (hwait : s.rst.waiting = none) (keep : Bool) :
    requestReset k keep s = { s with rst := { s.rst with waiting := some (k, keep) } } := by
  have hwarm : (warm k && k != .thermal && s.nvm.inFlight.isSome) = true := by
    rw [warm, bne_iff_ne.2 hp, bne_iff_ne.2 hb, bne_iff_ne.2 ht, hflight]
    rfl
  unfold requestReset
  rw [if_neg (by rw [beq_eq_false_iff_ne.2 hdead]; exact Bool.false_ne_true), if_pos hwarm, hwait]

theorem requestReset_of_idle {s : State} (hflight : s.nvm.inFlight = none) (hph : s.rst.phase = .done)
    (hwait : s.rst.waiting = none) (k : ResetCause) (keep : Bool) : requestReset k keep s = assertReset k keep s := by
  unfold requestReset
  rw [if_neg (by rw [hph]; exact Bool.false_ne_true),
    if_neg (by rw [hflight, Option.isSome_none, Bool.and_false]; exact Bool.false_ne_true), hwait]

theorem exec_softResetAssert_none {t : Instant} {s : State} (h : s.rst.softPending = none) :
    exec (.softResetAssert t) s = .next (setNow t s) := by
  change execSoftResetAssert t s = _
  unfold execSoftResetAssert
  simp only [show (setNow t s).rst = s.rst from rfl, h]

theorem exec_softResetAssert_left {t : Instant} {s : State} {keep : Bool} {since : Instant}
    (h : s.rst.softPending = some (keep, since)) (ha : asserting s = false)
    (hq : s.ring.ownQueue.any (fun w => slotType w.slot == 3) = false) :
    exec (.softResetAssert t) s = .next (requestReset .soft keep (retractAll (setNow t s))) := by
  change execSoftResetAssert t s = _
  unfold execSoftResetAssert
  simp only [show (setNow t s).rst = s.rst from rfl, show (setNow t s).ring = s.ring from rfl, h,
    show asserting (setNow t s) = false from ha, hq, Bool.false_and, Bool.or_self, Bool.false_eq_true, if_false]

theorem exec_trunkResetPacket_taken {t : Instant} {src dest : BitVec 7} {bs : List Byte} {s : State} (hlive : trunkLive s = true)
    (hok : trunkResetOk (setNow t s) src dest bs = true) (hr : inReset s = false) : exec (.trunkResetPacket t src dest bs) s =
      .next (requestReset .trunk (bitAt (bytesWord (bs.drop 12)) 8) (retractAll (setNow t s))) := by
  change execTrunkResetPacket t src dest bs s = _
  unfold execTrunkResetPacket trunkReset
  simp only [show trunkLive (setNow t s) = true from hlive, hok, show inReset (setNow t s) = false from hr, Bool.and_self,
    if_true, Bool.false_eq_true, if_false]

theorem bytesWord_take (bs : List Byte) : bytesWord (bs.take 4) = bytesWord bs := by
  have hget : ∀ i < 4, (bs.take 4).getD i 0 = bs.getD i 0 := by
    intro i hi
    rw [List.getD_eq_getElem?_getD, List.getElem?_take_of_lt hi, List.getD_eq_getElem?_getD]
  rw [bytesWord, hget 0 (by decide), hget 1 (by decide), hget 2 (by decide), hget 3 (by decide)]
  rfl

theorem fldN_of_masked {w : Word} (h : ((w &&& 0xFFFFFEFF) == 1) = true) : fldN w 0 2 = 1 := by
  have hw : fld w 0 2 = fld (w &&& 0xFFFFFEFF) 0 2 := by
    unfold fld
    ext i hi
    simp only [BitVec.getElem_extractLsb', BitVec.getLsbD_and]
    have hm : BitVec.getLsbD (0xFFFFFEFF : Word) (0 + i) = true := by
      interval_cases i <;> rfl
    rw [hm, Bool.and_true]
  rw [fldN, hw, beq_iff_eq.1 h]
  rfl

theorem trunkResetOk_spec {s : State} {src dest : BitVec 7} {bs : List Byte} (h : trunkResetOk s src dest bs = true) :
    s.ring.addrPhase = .confirmed ∧ src = 0 ∧ dest = s.ring.addr ∧ bs.length = 20 ∧ fldN (bytesWord bs) 0 16 = 5 ∧
      fldN (bytesWord (bs.drop 12)) 0 2 = 1 := by
  unfold trunkResetOk at h
  simp only [Bool.and_eq_true] at h
  obtain ⟨⟨⟨⟨⟨⟨⟨⟨⟨hconf, hsrc⟩, hdest⟩, hlen⟩, hop⟩, -⟩, -⟩, -⟩, hw⟩, -⟩ := h
  have hword : ∀ p : Packet, ∀ i, pktWord p i = bytesWord (p.bytes.drop (4 * i)) := fun p i => bytesWord_take _
  rw [hword] at hop hw
  exact ⟨beq_iff_eq.1 hconf, beq_iff_eq.1 hsrc, beq_iff_eq.1 hdest, beq_iff_eq.1 hlen, beq_iff_eq.1 hop, fldN_of_masked hw⟩

theorem exec_trunkResetPacket_stranger {t : Instant} {src dest : BitVec 7} {bs : List Byte} {s : State} (h : src ≠ 0) :
    exec (.trunkResetPacket t src dest bs) s = .next (setNow t s) := by
  have hbad : trunkResetOk (setNow t s) src dest bs = false := by
    rw [← Bool.not_eq_true]
    exact fun hok => h (trunkResetOk_spec hok).2.1
  change execTrunkResetPacket t src dest bs s = _
  unfold execTrunkResetPacket
  simp only [hbad, Bool.and_false, Bool.false_eq_true, if_false]

theorem arrivePacket_of_dump {p : Packet} {s : State} (hd : s.nvm.dumping ≠ none) (hb : s.rst.asserted.contains .bureau = false)
    (hph : s.power.phase = .idle) (hopen : (crcOk p && stillOpen s p) = false) (hfull : queueSize p.req ≤ queued s p.req) :
    arrivePacket p s = { s with bureau := { s.bureau with cmdsDiscarded := satInc s.bureau.cmdsDiscarded } } := by
  have hwake : wakeDoze s = s := if_neg (by rw [hph]; exact Bool.false_ne_true)
  unfold arrivePacket
  simp only [hb, hwake, hopen, Bool.false_eq_true, if_false]
  rw [if_pos]
  rw [Bool.and_eq_true, decide_eq_true_eq, Option.isSome_iff_ne_none]
  exact ⟨hd, hfull⟩

/-! ### WATCHDOG_CONFIG (R404) -/

section
variable {c : Cmd} {s : State} {w : Word} {v : WatchdogCfg} (hr : firstReserved c.words [0x1F1F] = none)
  (hw : w = paramAt (overlay c.words [wdWord s.rst.wdArm s.rst.wdCfg]) 0)
  (hv : v = { hardMs := fld w 10 2, window := fld w 8 2, period := fld w 0 5 })
include hr hw hv

theorem watchdogConfigBody_eq : watchdogConfigBody c s =
    if (fldN w 0 5 < 14 || 30 < fldN w 0 5) = true then cmdBad s 0
    else if s.rst.fuses.wdtStart = true then
      if (!bitAt w 12) = true then cmdRefuse s .notPermitted
      else if s.rst.wdSeen = true then cmdRefuse s .wrongState
      else cmdOk { s with rst := { s.rst with wdSeen := true, wdNext := some v } } [wdWord s.rst.wdArm s.rst.wdCfg]
    else if (s.rst.wdArm && v ≠ s.rst.wdCfg) = true then cmdRefuse s .wrongState
    else cmdOk { s with rst := if (bitAt w 12 && !s.rst.wdArm) = true then
        { s.rst with
          wdArm := bitAt w 12, wdCfg := v, wdCount := 0, wdAt := s.now, wdKey := false, wdDue := false, wdFailed := false }
      else { s.rst with wdArm := bitAt w 12, wdCfg := v } } [wdWord (bitAt w 12) v] := by
  subst hw hv
  exact judged_of_none _ _ hr

theorem watchdogConfigBody_of_range (h : fldN w 0 5 < 14 ∨ 30 < fldN w 0 5) : watchdogConfigBody c s = cmdBad s 0 := by
  rw [watchdogConfigBody_eq hr hw hv, if_pos]
  rw [Bool.or_eq_true, decide_eq_true_eq, decide_eq_true_eq]
  exact h

variable (h14 : 14 ≤ fldN w 0 5) (h30 : fldN w 0 5 ≤ 30)
include h14 h30

theorem watchdogConfigBody_of_fuse (hf : s.rst.fuses.wdtStart = true) : watchdogConfigBody c s =
    if (!bitAt w 12) = true then cmdRefuse s .notPermitted
    else if s.rst.wdSeen = true then cmdRefuse s .wrongState
    else cmdOk { s with rst := { s.rst with wdSeen := true, wdNext := some v } } [wdWord s.rst.wdArm s.rst.wdCfg] := by
  have hin : ¬ (fldN w 0 5 < 14 || 30 < fldN w 0 5) = true := by
    rw [Bool.or_eq_true, decide_eq_true_eq, decide_eq_true_eq]
    omega
  rw [watchdogConfigBody_eq hr hw hv, if_neg hin, if_pos hf]

variable (hf : s.rst.fuses.wdtStart = false)
include hf

theorem watchdogConfigBody_of_open : watchdogConfigBody c s =
    if (s.rst.wdArm && v ≠ s.rst.wdCfg) = true then cmdRefuse s .wrongState
    else cmdOk { s with rst := if (bitAt w 12 && !s.rst.wdArm) = true then
        { s.rst with
          wdArm := bitAt w 12, wdCfg := v, wdCount := 0, wdAt := s.now, wdKey := false, wdDue := false, wdFailed := false }
      else { s.rst with wdArm := bitAt w 12, wdCfg := v } } [wdWord (bitAt w 12) v] := by
  have hin : ¬ (fldN w 0 5 < 14 || 30 < fldN w 0 5) = true := by
    rw [Bool.or_eq_true, decide_eq_true_eq, decide_eq_true_eq]
    omega
  rw [watchdogConfigBody_eq hr hw hv, if_neg hin, if_neg (Bool.eq_false_iff.1 hf)]

theorem watchdogConfigBody_arms (hoff : s.rst.wdArm = false) (harm : bitAt w 12 = true) : watchdogConfigBody c s =
    cmdOk { s with rst := { s.rst with
      wdArm := true, wdCfg := v, wdCount := 0, wdAt := s.now, wdKey := false, wdDue := false, wdFailed := false } }
      [wdWord true v] := by
  rw [watchdogConfigBody_of_open hr hw hv h14 h30 hf, hoff, harm]
  rfl

theorem watchdogConfigBody_disarms (harm : bitAt w 12 = false) (hsame : s.rst.wdArm = true → v = s.rst.wdCfg) :
    watchdogConfigBody c s = cmdOk { s with rst := { s.rst with wdArm := false, wdCfg := v } } [wdWord false v] := by
  rw [watchdogConfigBody_of_open hr hw hv h14 h30 hf, harm, if_neg]
  · rfl
  · rw [Bool.and_eq_true, decide_eq_true_eq]
    exact fun h => h.2 (hsame h.1)

theorem watchdogConfigBody_changes (hon : s.rst.wdArm = true) (hother : v ≠ s.rst.wdCfg) :
    watchdogConfigBody c s = cmdRefuse s .wrongState := by
  rw [watchdogConfigBody_of_open hr hw hv h14 h30 hf, if_pos]
  rw [Bool.and_eq_true, decide_eq_true_eq]
  exact ⟨hon, hother⟩

end

/-! ### Services and failures of the watchdog (R402–R405) -/

theorem exec_wdtKeyWrite_stopped {t : Instant} {k : Byte} {s : State} (h : wdRuns s = false) :
    exec (.wdtKeyWrite t k) s = .next (setNow t s) := by
  change execWdtKeyWrite t k s = _
  exact if_pos (by rw [show wdRuns (setNow t s) = false from h]; rfl)

section
variable {t : Instant} {s : State} (hruns : wdRuns s = true)
include hruns

theorem exec_wdtKeyWrite_expired {k : Byte} (h : wdPeriod s.rst.wdCfg ≤ wdC (setNow t s)) :
    exec (.wdtKeyWrite t k) s = .next (wdFail 1 (setNow t s)) := by
  change execWdtKeyWrite t k s = _
  exact (if_neg (by rw [show wdRuns (setNow t s) = true from hruns]; exact Bool.false_ne_true)).trans (if_pos h)

variable (hc : wdC (setNow t s) < wdPeriod s.rst.wdCfg)
include hc

theorem exec_wdtKeyWrite_running (k : Byte) : exec (.wdtKeyWrite t k) s =
    if (k == 0x5A) = true then .next { setNow t s with rst := { s.rst with wdKey := true } }
    else if (k == 0xA5 && s.rst.wdKey) = true then
      .next (if wdC (setNow t s) < wdOpen s.rst.wdCfg then wdFail 2 (setNow t s) else wdService (setNow t s))
    else .next (wdFail 3 (setNow t s)) := by
  change execWdtKeyWrite t k s = _
  exact (if_neg (by rw [show wdRuns (setNow t s) = true from hruns]; exact Bool.false_ne_true)).trans (if_neg (Nat.not_le.2 hc))

theorem exec_wdtKeyWrite_first : exec (.wdtKeyWrite t 0x5A) s =
    .next { setNow t s with rst := { s.rst with wdKey := true } } :=
  (exec_wdtKeyWrite_running hruns hc _).trans (if_pos rfl)

theorem exec_wdtKeyWrite_second (hkey : s.rst.wdKey = true) : exec (.wdtKeyWrite t 0xA5) s =
    .next (if wdC (setNow t s) < wdOpen s.rst.wdCfg then wdFail 2 (setNow t s) else wdService (setNow t s)) := by
  rw [exec_wdtKeyWrite_running hruns hc, hkey]
  rfl

theorem exec_wdtKeyWrite_bare (hkey : s.rst.wdKey = false) : exec (.wdtKeyWrite t 0xA5) s = .next (wdFail 3 (setNow t s)) := by
  rw [exec_wdtKeyWrite_running hruns hc, hkey]
  rfl

theorem exec_wdtKeyWrite_wrong {k : Byte} (h5 : k ≠ 0x5A) (hA : k ≠ 0xA5) :
    exec (.wdtKeyWrite t k) s = .next (wdFail 3 (setNow t s)) := by
  rw [exec_wdtKeyWrite_running hruns hc, beq_eq_false_iff_ne.2 h5, beq_eq_false_iff_ne.2 hA]
  rfl

end

theorem exec_serviceDue_open {t : Instant} {s : State} (hruns : wdRuns s = true) (h : wdDueAt s.rst.wdCfg ≤ wdC (setNow t s)) :
    exec (.serviceDue t) s = .next { setNow t s with rst := { s.rst with wdDue := true } } := by
  change execServiceDue t s = _
  refine congrArg Host.Outcome.next (if_pos ?_)
  rw [Bool.and_eq_true, decide_eq_true_eq]
  exact ⟨hruns, h⟩

theorem exec_serviceDue_early {t : Instant} {s : State} (h : wdC (setNow t s) < wdDueAt s.rst.wdCfg) :
    exec (.serviceDue t) s = .next (setNow t s) := by
  change execServiceDue t s = _
  refine congrArg Host.Outcome.next (if_neg ?_)
  rw [Bool.and_eq_true, decide_eq_true_eq]
  exact fun hc => Nat.not_le.2 h hc.2

theorem exec_watchdogExpiry_due {t : Instant} {s : State} (hruns : wdRuns s = true)
    (h : wdPeriod s.rst.wdCfg ≤ wdC (setNow t s)) : exec (.watchdogExpiry t) s = .next (wdFail 1 (setNow t s)) := by
  change execWatchdogExpiry t s = _
  refine congrArg Host.Outcome.next (if_pos ?_)
  rw [Bool.and_eq_true, decide_eq_true_eq]
  exact ⟨hruns, h⟩

theorem exec_watchdogExpiry_early {t : Instant} {s : State} (h : wdC (setNow t s) < wdPeriod s.rst.wdCfg) :
    exec (.watchdogExpiry t) s = .next (setNow t s) := by
  change execWatchdogExpiry t s = _
  refine congrArg Host.Outcome.next (if_neg ?_)
  rw [Bool.and_eq_true, decide_eq_true_eq]
  exact fun hc => Nat.not_le.2 h hc.2

theorem exec_hardTimerExpiry_due {t : Instant} {s : State} {a : Nat} (ha : s.rst.wdHard = some a)
    (hp : passed (setNow t s) a (hardNs s.rst.wdCfg) = true) (hw : s.rst.waiting = none) :
    exec (.hardTimerExpiry t) s = .next (requestReset .watchdog false (setNow t s)) := by
  change execHardTimerExpiry t s = _
  unfold execHardTimerExpiry
  simp only [show (setNow t s).rst = s.rst from rfl, ha, hp, hw, Option.isNone_none, Bool.and_self, if_true]

theorem exec_hardTimerExpiry_none {t : Instant} {s : State} (ha : s.rst.wdHard = none) :
    exec (.hardTimerExpiry t) s = .next (setNow t s) := by
  change execHardTimerExpiry t s = _
  unfold execHardTimerExpiry
  simp only [show (setNow t s).rst = s.rst from rfl, ha]

theorem trap_of_first {d : DumpRun} {s : State} (h : s.nvm.dumping = none) : trap d s = { s with
    nvm := { s.nvm with dumping := some d }, bureau := { s.bureau with ready := false, executing := none } } := by
  unfold trap
  rw [h]

theorem trap_of_second {d old : DumpRun} {s : State} (h : s.nvm.dumping = some old) :
    trap d s = requestReset old.reset false s := by
  unfold trap
  rw [h]

theorem wdFail_of_first {s : State} (h : s.nvm.dumping = none) (code : Nat) : (wdFail code s).rst.wdFailed = true ∧
    (wdFail code s).rst.lastWdtFail = BitVec.ofNat 2 code ∧ (wdFail code s).rst.wdHard = some s.now.real ∧
    (wdFail code s).bureau.ready = false ∧ ((wdFail code s).nvm.dumping.map fun d => (d.reset, d.cause, d.detail)) =
      some (.watchdog, 1, code) := by
  unfold wdFail
  extract_lets s1 r s2 f
  rw [trap_of_first (show f.2.nvm.dumping = none from h)]
  exact ⟨rfl, rfl, rfl, rfl, rfl⟩

/-! ### Fatal errors (R406, R419) -/

theorem exec_fatalError_ignored {t : Instant} {c : Byte} {pc : Word} {s : State}
    (h : s.rst.asserted.contains .bureau = true ∨ s.rst.waiting ≠ none ∨ s.power.phase = .stow) :
    exec (.fatalError t c pc) s = .next (setNow t s) := by
  change execFatalError t c pc s = _
  refine if_pos ?_
  rw [Bool.or_eq_true, Bool.or_eq_true, beq_iff_eq, Option.isSome_iff_ne_none, or_assoc]
  exact h

section
variable {t : Instant} {pc : Word} {s : State} (hb : s.rst.asserted.contains .bureau = false) (hw : s.rst.waiting = none)
  (hp : s.power.phase ≠ .stow)
include hb hw hp

theorem exec_fatalError_trap (c : Byte) : exec (.fatalError t c pc) s = if (c == 3) = true
    then .next (trap { reset := .fatal, cause := 3, detail := 8, pc := pc, stamp := ringStamp (setNow t s) } (setNow t s))
    else .next (trap { reset := .fatal, cause := 2, detail := fldN (Config.freeWord s.free) 0 8, pc := pc, stamp := ringStamp (setNow t s) }
      { setNow t s with free := s.free + 1 }) := by
  have hcond : ¬ ((setNow t s).rst.asserted.contains .bureau || (setNow t s).rst.waiting.isSome ||
      (setNow t s).power.phase == .stow) = true := by
    change ¬ (s.rst.asserted.contains .bureau || s.rst.waiting.isSome || s.power.phase == .stow) = true
    rw [hb, hw, beq_eq_false_iff_ne.2 hp]
    exact Bool.false_ne_true
  change execFatalError t c pc s = _
  exact if_neg hcond

end

/-- Settles O51, clause by clause from the rules of asserting a reset, the watchdog and fatal errors. -/
theorem resetsAndTheWatchdog : Obligations.ResetsAndTheWatchdog := by
  unfold Obligations.ResetsAndTheWatchdog
  refine ⟨?_, ?_, fun t s => exec_softResetAssert_none, fun t s keep since => exec_softResetAssert_left,
    fun t src dest bs s => exec_trunkResetPacket_taken, fun s src dest bs => trunkResetOk_spec,
    fun t src dest bs s => exec_trunkResetPacket_stranger, ?_, ?_, ?_, ?_, fun k s => assertReset_tripped,
    fun p s => arrivePacket_of_dump, ?_, ?_, fun t k s => exec_wdtKeyWrite_stopped, fun t s => exec_wdtKeyWrite_first, ?_, ?_,
    fun t k s hruns hc h5 hA => exec_wdtKeyWrite_wrong hruns hc h5 hA, fun code s h => wdFail_of_first h code,
    fun t s => exec_serviceDue_open, fun t k s hruns => exec_wdtKeyWrite_expired hruns, fun t s => exec_wdtKeyWrite_bare,
    fun t s => exec_serviceDue_early, fun t s => exec_watchdogExpiry_due, fun t s => exec_watchdogExpiry_early,
    fun t s a => exec_hardTimerExpiry_due, fun t s => exec_hardTimerExpiry_none, fun t c pc s => exec_fatalError_ignored,
    ?_, ?_, ?_⟩
  · rintro t s p s1 htaken hr h0
    have hbody : resetBody (cmdOf p) s1 = cmdOk { s1 with
        rst := { s1.rst with softPending := some (bitAt (par p 0) 8, s1.now) }, bureau := { s1.bureau with ready := false } } := by
      have hw : fldN (paramAt (cmdOf p).words 0) 0 2 = 0 := h0
      unfold resetBody
      rw [judged_of_none _ _ hr, hw]
      rfl
    exact exec_of_body htaken rfl hbody rfl
  · rintro t s p s1 htaken hr h1
    have hbody : resetBody (cmdOf p) s1 = cmdRefuse s1 .notPermitted := by
      have hw : fldN (paramAt (cmdOf p).words 0) 0 2 = 1 := h1
      unfold resetBody
      rw [judged_of_none _ _ hr, hw]
      rfl
    exact exec_of_body htaken rfl hbody rfl
  · exact fun k keep s hp hb ht hflight hdead hwait => requestReset_of_write hp hb ht hflight hdead hwait keep
  · exact fun k keep s hflight hph hwait => requestReset_of_idle hflight hph hwait k keep
  · intro s h
    rw [assertReset_quick .watchdog false s (combined_of_done h _ _)]
    exact Bool.true_and _
  · intro s h hcause
    have hc : combined .trunk false s = (.watchdog, false) := by
      rw [combined_of_running h, hcause]
      rfl
    obtain ⟨hk, -, -, -, hlast⟩ := assertReset_rst .trunk false s hc
    refine ⟨?_, ?_, hk⟩
    · rw [assertReset_quick .trunk false s hc]
      exact Bool.true_and _
    · exact hlast.trans (loseState_rst_of_kept (by decide) false s).2.1
  · intro k keep s h
    obtain ⟨hcause, hasserted, hkeep, hwait, -⟩ := assertReset_rst k keep s (combined_of_done h k keep)
    obtain ⟨hwarm, hcold⟩ := assertReset_of_done (k := k) (keep := keep) h
    exact ⟨hcause, hasserted, hkeep, hwait, hwarm, hcold, assertReset_fresh h⟩
  · intro t s p s1 w v htaken hr hw hv
    refine ⟨fun h => exec_of_body htaken rfl (watchdogConfigBody_of_range hr hw hv h) rfl,
      fun h14 h30 => ⟨?_, ?_, ?_, ?_, ?_, ?_⟩⟩
    · exact fun hf hoff harm => exec_of_body htaken rfl (watchdogConfigBody_arms hr hw hv h14 h30 hf hoff harm) rfl
    · exact fun hf harm hsame => exec_of_body htaken rfl (watchdogConfigBody_disarms hr hw hv h14 h30 hf harm hsame) rfl
    · exact fun hf hon hother => exec_of_body htaken rfl (watchdogConfigBody_changes hr hw hv h14 h30 hf hon hother) rfl
    · intro hf harm
      have hbody := watchdogConfigBody_of_fuse hr hw hv h14 h30 hf
      rw [harm] at hbody
      exact exec_of_body htaken rfl hbody rfl
    · intro hf harm hseen
      have hbody := watchdogConfigBody_of_fuse hr hw hv h14 h30 hf
      rw [harm, hseen] at hbody
      exact exec_of_body htaken rfl hbody rfl
    · intro hf harm hseen
      have hbody := watchdogConfigBody_of_fuse hr hw hv h14 h30 hf
      rw [harm, hseen] at hbody
      exact exec_of_body htaken rfl hbody rfl
  · intro t s hruns hc hkey hopen
    rw [exec_wdtKeyWrite_second hruns hc hkey, if_neg (Nat.not_lt.2 hopen)]
    rfl
  · intro t s hruns hc hkey hopen
    rw [exec_wdtKeyWrite_second hruns hc hkey, if_pos hopen]
  · intro t pc s d hb hw hp hd
    exact (exec_fatalError_trap hb hw hp 3).trans (congrArg Host.Outcome.next (trap_of_second hd))
  · intro t c pc s hb hw hp hd h3
    refine ⟨_, fldN (Config.freeWord s.free) 0 8, ?_, rfl⟩
    rw [exec_fatalError_trap hb hw hp, beq_eq_false_iff_ne.2 h3]
    exact congrArg Host.Outcome.next (trap_of_first hd)
  · intro t pc s hb hw hp hd
    exact (exec_fatalError_trap hb hw hp 3).trans (congrArg Host.Outcome.next (trap_of_first hd))


/-! ## Power-up (R387–R399, R417) -/

/-! ### Supplies and RESET_N -/

section
variable {t : Instant} {s : State}

theorem beginLoading_of_ready {s : State} (hph : s.rst.phase = .holding) (hgood : s.rst.pgood = true) (hlow : s.rst.resetNLow = false) :
    beginLoading s = { s with rst := { s.rst with phase := .loading } } :=
  if_pos (by rw [hph, hgood, hlow]; rfl)

theorem beginLoading_of_low {s : State} (hlow : s.rst.resetNLow = true) : beginLoading s = s :=
  if_neg (by rw [hlow, Bool.not_true, Bool.and_false]; exact Bool.false_ne_true)

theorem pinResetN_of_chained (h : pinsChained s = true) (low : Bool) :
    pinResetN low (setNow t s) = { setNow t s with pins := { s.pins with resetNLow := low } } := if_pos h

theorem pinResetN_of_seen (h : pinsChained s = false) (low : Bool) :
    pinResetN low (setNow t s) = seeResetN low { setNow t s with pins := { s.pins with resetNLow := low } } :=
  if_neg (Bool.eq_false_iff.1 h)

theorem pinPgood_of_chained (h : pinsChained s = true) (high : Bool) :
    pinPgood high (setNow t s) = { setNow t s with pins := { s.pins with pgood := high } } := if_pos h

theorem pinPgood_of_seen (h : pinsChained s = false) (high : Bool) :
    pinPgood high (setNow t s) = seePgood high { setNow t s with pins := { s.pins with pgood := high } } :=
  if_neg (Bool.eq_false_iff.1 h)

theorem exec_brownOut_rail_held (h : s.rst.phase = .holding ∨ s.rst.phase = .loading) :
    exec (.brownOut ⟨t, true⟩) s = .next (setNow t s) := by
  have hcond : (s.rst.phase == .holding || s.rst.phase == .loading) = true := by
    rw [Bool.or_eq_true, beq_iff_eq, beq_iff_eq]
    exact h
  exact if_pos hcond

theorem exec_brownOut_rail (h : s.rst.phase ≠ .holding ∧ s.rst.phase ≠ .loading) : exec (.brownOut ⟨t, true⟩) s =
    .next (seePgood false { setNow t s with pins := { s.pins with pgood := false } }) := by
  have hcond : ¬ (s.rst.phase == .holding || s.rst.phase == .loading) = true := by
    rw [Bool.or_eq_true, beq_iff_eq, beq_iff_eq]
    exact not_or.2 h
  exact if_neg hcond

theorem exec_brownOut_pgood : exec (.brownOut ⟨t, false⟩) s = .next (pinPgood false (setNow t s)) := rfl

end

/-- VDDAON is lost: every domain loses its state. -/
theorem exec_vddaonLoss_dead (t : Instant) (s : State) : ∃ u, exec (.vddaonLoss t) s = .next u ∧ u.rst.phase = .dead ∧
    u.rst.asserted = resetDomains .powerOn false ∧ u.dram = [] ∧ u.events = {} ∧ u.rst.waiting = none := by
  obtain ⟨u, -, -, hu⟩ := loseState_eq .powerOn false (setNow t s)
  obtain ⟨-, -, -, -, hlost⟩ := domainsReset_fresh .powerOn false u
  obtain ⟨hdram, hevents⟩ := hlost (.inl rfl)
  refine ⟨_, rfl, rfl, rfl, ?_, ?_, rfl⟩
  · exact (congrArg State.dram hu).trans hdram
  · exact (congrArg State.events hu).trans hevents

/-! ### Option loading -/

/-- The state that option loading leaves, from one whose gain threshold is loaded. -/
def optionsLoaded (o : OptionLoad) (r : ResetState) (s : State) : State :=
  { s with
    pins := { s.pins with level33 := decide (2400 < o.vddio), testen := o.testen }
    power := { s.power with faultN := s.power.faultN || o.testen }
    rst := { r with
      phase := if o.testen then .testing else .releasing, fuses := o.failed.foldl failField r.blown
      fuseFault := r.fuseFault || !o.failed.isEmpty, straps := o.boot, boot := o.boot
      loadReported := BitVec.ofNat 4 r.loadAttempts, loadAttempts := 0
      legacyStretch := false, stretchUs := 0, gap := none, firstStretch := none, gapUnits := 0, gapAt := s.now.real
      asserted := if o.testen then resetDomains .soft false else r.asserted.erase .alwaysOn } }

theorem exec_optionLoadingEnd_other {t : Instant} {o : OptionLoad} {s : State} (h : s.rst.phase ≠ .loading) :
    exec (.optionLoadingEnd t o) s = .next (setNow t s) := if_neg (mt beq_iff_eq.1 h)

theorem exec_optionLoadingEnd_loading {t : Instant} {o : OptionLoad} {s : State} (hpins : pinsChained s = false)
    (h : s.rst.phase = .loading) : exec (.optionLoadingEnd t o) s =
      .next (optionsLoaded o s.rst (loadThreshold o.failed (if o.testen then resetTrunk (setNow t s) else setNow t s))) := by
  have hstraps : sampleStraps o (setNow t s) = (o, setNow t s) := if_neg (Bool.eq_false_iff.1 hpins)
  have hthreshold : ∀ u : State, (loadThreshold o.failed u).rst = u.rst := by
    intro u
    unfold loadThreshold
    split <;> rfl
  have hrst : (if o.testen then resetTrunk (setNow t s) else setNow t s).rst = s.rst := by
    split <;> rfl
  have hend : ∀ x, x = sampleStraps o (setNow t s) → exec (.optionLoadingEnd t o) s = .next (optionsLoaded x.1
      (loadThreshold x.1.failed (if x.1.testen then resetTrunk x.2 else x.2)).rst
      (loadThreshold x.1.failed (if x.1.testen then resetTrunk x.2 else x.2))) := by
    rintro x rfl
    exact if_pos (beq_iff_eq.2 h)
  rw [hend _ hstraps.symm, hthreshold, hrst]

theorem loadThreshold_of_good {failed : List FuseField} (h : failed.contains .gainThreshold = false) (s : State) :
    loadThreshold failed s = { s with readout := { s.readout with gainThreshold := 2784000 } } :=
  if_neg (Bool.eq_false_iff.1 h)

theorem loadThreshold_frame (failed : List FuseField) (s : State) :
    ∃ r n, loadThreshold failed s = { s with readout := r, free := n } := by
  unfold loadThreshold
  split
  · exact ⟨_, _, rfl⟩
  · exact ⟨_, s.free, rfl⟩

/-! ### Release of the domains (R393–R396) -/

section
variable {t : Instant} {d : Domain} {s : State}

theorem exec_domainRelease_other (h : nextDomain s ≠ some d ∨ clockStable (setNow t s) d = false) :
    exec (.domainRelease t d) s = .next (setNow t s) := by
  refine if_neg ?_
  rw [Bool.and_eq_true, Bool.and_eq_true, beq_iff_eq]
  rintro ⟨⟨-, hnext⟩, hstable⟩
  exact h.elim (fun hne => hne (beq_iff_eq.1 hnext)) fun hs => Bool.false_ne_true (hs.symm.trans hstable)

theorem exec_domainRelease_plain (hph : s.rst.phase = .releasing) (horder : s.rst.fuses.resetOrder = false)
    (hnext : nextDomain s = some d) (hstable : clockStable (setNow t s) d = true) :
    exec (.domainRelease t d) s = .next (releaseDomain d (setNow t s)) := by
  change execDomainRelease t d s = _
  unfold execDomainRelease
  simp only [show (setNow t s).rst = s.rst from rfl, show nextDomain (setNow t s) = some d from hnext, hph, hstable,
    beq_self_eq_true, Bool.and_self, if_true, horder,
    Bool.false_eq_true, if_false]

theorem exec_domainRelease_stretched {a : Nat} (hph : s.rst.phase = .releasing) (horder : s.rst.fuses.resetOrder = true)
    (hnext : nextDomain s = some d) (hgap : s.rst.gap = some a) (hstable : clockStable (setNow t s) d = true) :
    exec (.domainRelease t d) s = .next (releaseDomain d { setNow t s with rst := { s.rst with
      stretchUs := satAdd s.rst.stretchUs (((setNow t s).now.real - a) / 16000) } }) := by
  change execDomainRelease t d s = _
  unfold execDomainRelease
  simp only [show (setNow t s).rst = s.rst from rfl, show nextDomain (setNow t s) = some d from hnext, hph, hstable,
    beq_self_eq_true, Bool.and_self, if_true, horder, hgap]

theorem exec_legacyGapEnd_counted (hnext : nextDomain s = some d) (hph : s.rst.phase = .releasing)
    (horder : s.rst.fuses.resetOrder = true) (hgap : s.rst.gap = none) (hcount : gapCounted (setNow t s) = true) :
    exec (.legacyGapEnd t d) s = if clockStable (setNow t s) d = true then .next (releaseDomain d (setNow t s))
      else .next { setNow t s with rst := { s.rst with
        gap := some (setNow t s).now.real, legacyStretch := true
        firstStretch := some (s.rst.firstStretch.getD (domainNo d)) } } := by
  change execLegacyGapEnd t d s = _
  unfold execLegacyGapEnd
  simp only [show (setNow t s).rst = s.rst from rfl, show nextDomain (setNow t s) = some d from hnext, hph, beq_self_eq_true,
    horder, hgap, hcount, Option.isNone_none,
    Bool.and_self, if_true]

theorem exec_legacyGapEnd_early (hcount : gapCounted (setNow t s) = false) :
    exec (.legacyGapEnd t d) s = .next (setNow t s) :=
  if_neg (by rw [hcount, Bool.and_false]; exact Bool.false_ne_true)

theorem exec_legacyGapEnd_other (hph : s.rst.phase ≠ .releasing) : exec (.legacyGapEnd t d) s = .next (setNow t s) := by
  change execLegacyGapEnd t d s = _
  unfold execLegacyGapEnd
  simp only [show (setNow t s).rst = s.rst from rfl, beq_eq_false_iff_ne.2 hph, Bool.false_and, Bool.false_eq_true, if_false]

end

theorem releaseDomain_rst (d : Domain) (s : State) : (releaseDomain d s).rst.asserted = s.rst.asserted.erase d ∧
    (releaseDomain d s).rst.gapUnits = 0 ∧ (releaseDomain d s).rst.gapAt = s.now.real := by
  cases d <;> exact ⟨rfl, rfl, rfl⟩

/-- The first of a list that satisfies a test comes no later than any other that does. -/
theorem idxOf_find?_le {α : Type} [DecidableEq α] {p : α → Bool} {l : List α} {a b : α} (h : l.find? p = some a)
    (hb : p b = true) : l.idxOf a ≤ l.idxOf b := by
  induction l with
  | nil => exact absurd h (Option.some_ne_none a).symm
  | cons x xs ih =>
    by_cases hx : p x = true
    · rw [List.find?_cons_of_pos hx] at h
      rw [Option.some.inj h, List.idxOf_cons_self]
      exact Nat.zero_le _
    · rw [List.find?_cons_of_neg hx] at h
      have ha : p a = true := List.find?_some h
      rw [List.idxOf_cons_ne _ fun he : x = a => hx (he.symm ▸ ha), List.idxOf_cons_ne _ fun he : x = b => hx (he.symm ▸ hb)]
      exact Nat.succ_le_succ (ih h)

theorem clockStable_of_limp {s : State} {d : Domain} (hl : s.clock.limp = true) (hd : d ≠ .alwaysOn) : clockStable s d =
    if onRef0 s = true then decide (64 * 16000000 ≤ (s.now.real - lastSwitch s) * ref0Rate s)
    else decide (64 * 160 ≤ s.now.real - lastSwitch s) := by
  unfold clockStable
  extract_lets since
  rw [beq_eq_false_iff_ne.2 hd, Bool.false_or, hl, Bool.not_true, if_neg Bool.false_ne_true]


/-! ### The boot loader and profiles (R398, R399, R417, R418) -/

theorem exec_bootLoaderStart_other {t : Instant} {s : State} (h : s.rst.phase ≠ .releasing) :
    exec (.bootLoaderStart t) s = .next (setNow t s) := by
  refine if_pos ?_
  rw [show (setNow t s).rst.phase = s.rst.phase from rfl, bne_iff_ne.2 h]
  rfl

theorem setPage_rst (n : Nat) (bs : List Byte) (s : State) : (setPage n bs s).rst = s.rst := by
  rw [setPage]

theorem recoverJournal_boot (s : State) : (recoverJournal s).rst = s.rst := by
  have hboot : (recoverBoot s).rst = s.rst := by
    unfold recoverBoot
    split
    · rfl
    · extract_lets s1
      split
      · rfl
      · split <;> rfl
  have hpages : ∀ (x : NvmTxn) (l : List (List Byte × Nat)) (u : State),
      (l.foldl (fun s g => setPage (x.first + g.2) g.1 s) u).rst = u.rst := by
    intro x l u
    have hpage : ∀ (s : State) (g : List Byte × Nat), (setPage (x.first + g.2) g.1 s).rst = s.rst := fun s g => setPage_rst ..
    exact view_foldl (π := State.rst) hpage l u
  unfold recoverJournal
  extract_lets s1
  split
  · exact hboot
  · extract_lets p
    split
    · exact hboot
    · exact (hpages _ _ s1).trans hboot

theorem exec_bootLoaderStart_due {t : Instant} {s : State} (hph : s.rst.phase = .releasing) (hnone : s.rst.asserted = [])
    (hready : s.bureau.ready = false) (hprofile : s.rst.profileDue = false) (hdump : s.nvm.dumping = none)
    (hwait : s.rst.waiting = none) (hflight : s.nvm.inFlight ≠ some .boot) : exec (.bootLoaderStart t) s =
      .next (kickWrites (if s.rst.boot = 1 ∨ s.rst.boot = 3 then enterRecovery (recoverJournal (setNow t s))
        else chooseBank (recoverJournal (setNow t s)))) := by
  have hcond : ¬ ((setNow t s).rst.phase != .releasing || !(setNow t s).rst.asserted.isEmpty || (setNow t s).bureau.ready ||
      (setNow t s).rst.profileDue || (setNow t s).nvm.dumping.isSome || (setNow t s).rst.waiting.isSome ||
      (setNow t s).nvm.inFlight == some .boot) = true := by
    change ¬ (s.rst.phase != .releasing || !s.rst.asserted.isEmpty || s.bureau.ready || s.rst.profileDue || s.nvm.dumping.isSome ||
      s.rst.waiting.isSome || s.nvm.inFlight == some .boot) = true
    rw [hph, hnone, hready, hprofile, hdump, hwait, beq_eq_false_iff_ne.2 hflight]
    exact Bool.false_ne_true
  have hboot : ((recoverJournal (setNow t s)).rst.boot == 1 || (recoverJournal (setNow t s)).rst.boot == 3) = true ↔
      s.rst.boot = 1 ∨ s.rst.boot = 3 := by
    rw [recoverJournal_boot, Bool.or_eq_true, beq_iff_eq, beq_iff_eq]
    rfl
  exact (if_neg hcond).trans (congrArg (fun u => Host.Outcome.next (kickWrites u)) (if_congr hboot rfl rfl))

theorem enterRecovery_eq (s : State) : ∃ u, enterRecovery s = firmwareReady (planProfile u) ∧ u.rst.recovery = true ∧
    u.twa.cfg.role = false ∧ u.twb.cfg.role = false ∧ u.twa.cfg.taddr = 0 ∧ u.twb.cfg.taddr = 0 ∧ u.nvm = s.nvm :=
  ⟨_, rfl, rfl, rfl, rfl, rfl, rfl, rfl⟩

theorem withRecord_of_live {s : State} (h : s.nvm.redirects = []) (o : NvmOrigin) (f : State → State) : withRecord o f s =
    { s with nvm := { s.nvm with boot := some { origin := o, first := 0, pages := [] } } } :=
  if_neg (by rw [journalDead, h]; exact Bool.false_ne_true)

theorem tryReject_of_trial {s : State} (ht : s.nvm.trial = 2) (h : s.nvm.redirects = []) : tryReject s =
    { s with nvm := { s.nvm with boot := some { origin := .bootReject, first := 0, pages := [] } } } := by
  rw [tryReject, if_pos (beq_iff_eq.2 ht), withRecord_of_live h]

theorem chooseBank_of_trial {s : State} (ht : s.nvm.trial = 1) (h : s.nvm.redirects = []) : chooseBank s =
    { s with nvm := { s.nvm with boot := some { origin := .bootTrial, first := 0, pages := [] } } } := by
  rw [chooseBank, if_pos (beq_iff_eq.2 ht), withRecord_of_live h]

theorem chooseBank_of_other {s : State} (ht : s.nvm.trial ≠ 1) : chooseBank s = tryReject s := if_neg (mt beq_iff_eq.1 ht)

theorem chooseBank_of_settled {s : State} (ht : s.nvm.trial = 0) : chooseBank s = tryActive s := by
  rw [chooseBank_of_other (by rw [ht]; decide), tryReject, if_neg (by rw [ht]; decide)]

theorem tryActive_of_live {s : State} (h : s.nvm.redirects = []) : tryActive s =
    if verifyBank s s.nvm.activeB = 0 then bootBank s.nvm.activeB s
    else if bankState s (!s.nvm.activeB) ≠ .incomplete ∧ bankState s (!s.nvm.activeB) ≠ .empty ∧
        verifyBank s (!s.nvm.activeB) = 0 then
      { s with nvm := { s.nvm with boot := some { origin := .bootSwitch, first := 0, pages := [] } } }
    else enterRecovery s := by
  unfold tryActive
  extract_lets a o
  rw [withRecord_of_live h]
  refine if_congr Iff.rfl rfl (if_congr ?_ rfl rfl)
  rw [Bool.and_eq_true, Bool.and_eq_true, bne_iff_ne, bne_iff_ne, decide_eq_true_eq, and_assoc]

theorem commitEffect_boot (s : State) : (commitEffect .bootTrial s).nvm.trial = 2 ∧ (commitEffect .bootReject s).nvm.trial = 0 ∧
    bankState (commitEffect .bootReject s) (!s.nvm.activeB) = .rejected ∧
    (commitEffect .bootSwitch s).nvm.activeB = !s.nvm.activeB ∧ (commitEffect .bootTrial s).nvm.txnSeq = s.nvm.txnSeq + 1 := by
  have hbank : ∀ (b : Bool) (x : BankState) (u : State), (setBank b x u).nvm.trial = u.nvm.trial ∧ bankState (setBank b x u) b = x := by
    intro b x u
    cases b <;> exact ⟨rfl, rfl⟩
  exact ⟨rfl, (hbank ..).1, (hbank ..).2, rfl, rfl⟩

theorem judgePage_of_good (x : NvmTxn) (s : State) : judgePage x true s = (.step, pageEnded x s) := rfl

theorem bootWritten_of_good (x : NvmTxn) (s : State) : bootWritten x true s =
    if (stepStands true x (rotate x (pageEnded x s))).nvm.boot.isSome = true then stepStands true x (rotate x (pageEnded x s))
    else bootGoesOn x.origin true (stepStands true x (rotate x (pageEnded x s))) := rfl

/-- The commit record of a boot record stands. -/
theorem bootWritten_commit {x : NvmTxn} (hp : x.pages = []) (hn : x.next = 0) (s : State) :
    (bootWritten x true s).nvm.boot = some { x with next := 1, retried := false } := by
  have hstands : ∀ u, (stepStands true x u).nvm.boot = some { x with next := 1, retried := false } := by
    intro u
    unfold stepStands
    rw [hp, hn]
    rfl
  rw [bootWritten_of_good, hstands, Option.isSome_some, if_pos rfl, hstands]

/-- The completion record of a boot record stands. -/
theorem bootWritten_complete {x : NvmTxn} (hp : x.pages = []) (hn : x.next = 1) (s : State) : ∃ u,
    bootWritten x true s = bootGoesOn x.origin true u ∧ u.nvm.boot = none ∧ u.nvm.lastTxn = txnCode x.origin true := by
  have hstands : ∀ u, stepStands true x u = putTxn true none { u with nvm := { u.nvm with lastTxn := txnCode x.origin true } } := by
    intro u
    unfold stepStands
    rw [hp, hn]
    rfl
  refine ⟨stepStands true x (rotate x (pageEnded x s)), ?_, ?_, ?_⟩
  · rw [bootWritten_of_good, hstands]
    rfl
  · rw [hstands]
    rfl
  · rw [hstands]
    rfl

theorem exec_profileExecute_none {t : Instant} {s : State} (h : s.rst.profileDue = false) :
    exec (.profileExecute t) s = .next (setNow t s) := by
  refine if_pos ?_
  rw [show (setNow t s).rst = s.rst from rfl, h]
  rfl

theorem exec_profileExecute_empty {t : Instant} {s : State} (h : s.rst.profileDue = true)
    (hb : s.rst.asserted.contains .bureau = false) (hwait : s.rst.waiting = none) (hdump : s.nvm.dumping = none)
    (hp : profilePackets (setNow t s) s.rst.fuses.autoload.toNat = some []) :
    exec (.profileExecute t) s = .next (firmwareReady (setNow t s)) := by
  have hcond : ¬ (!(setNow t s).rst.profileDue || (setNow t s).rst.asserted.contains .bureau || (setNow t s).rst.waiting.isSome ||
      (setNow t s).nvm.dumping.isSome) = true := by
    change ¬ (!s.rst.profileDue || s.rst.asserted.contains .bureau || s.rst.waiting.isSome || s.nvm.dumping.isSome) = true
    rw [h, hb, hwait, hdump]
    exact Bool.false_ne_true
  have hp' : profilePackets (setNow t s) (setNow t s).rst.fuses.autoload.toNat = some [] := hp
  refine (if_neg hcond).trans ?_
  rw [hp']
  rfl


theorem profileCommand_of_unknown {s : State} {bs : List Byte} (h : bodyOf (pktOp (profilePacket bs s)) = none) :
    profileCommand s bs = { s with rst := { s.rst with refusedCmds := satInc s.rst.refusedCmds } } := by
  -- `bodyOf` is made a variable before `profileCommand` unfolds: else the kernel evaluates it at an open word.
  obtain ⟨run, hrun⟩ : ∃ run, run = profileCommand := ⟨_, rfl⟩
  rw [← hrun]
  delta profileCommand at hrun
  generalize bodyOf = body at hrun h
  subst hrun
  simp only [h]

/-- Settles O52, clause by clause from the rules of supplies, option loading, release and boot. -/
theorem powerUpSequenceReleasesTheDomains : Obligations.PowerUpSequenceReleasesTheDomains := by
  unfold Obligations.PowerUpSequenceReleasesTheDomains
  refine ⟨fun t s => rfl, ?_, ?_, ?_, fun t s => exec_brownOut_rail_held, ?_, ?_, ?_, exec_vddaonLoss_dead,
    fun t b v te failed s => exec_optionLoadingEnd_other, ?_, ?_, fun t d s => exec_domainRelease_plain,
    fun t d s => exec_domainRelease_other, releaseDomain_rst, ?_, fun t d s a => exec_domainRelease_stretched,
    fun s => ⟨rfl, rfl, rfl, rfl⟩, ?_, ?_, fun s => rfl, ?_, ?_,
    fun t d s h => ⟨exec_legacyGapEnd_other h, exec_bootLoaderStart_other h⟩, fun t s => exec_bootLoaderStart_due,
    enterRecovery_eq, fun s => chooseBank_of_settled, fun s => chooseBank_of_trial, ?_, ?_, fun s g => rfl,
    fun s => tryActive_of_live, fun s => rfl, commitEffect_boot, fun x s hp hn => bootWritten_commit hp hn s,
    fun x s hp hn => bootWritten_complete hp hn s, fun s => ⟨_, rfl, rfl, rfl, rfl⟩, fun t s => exec_profileExecute_none,
    fun t s => exec_profileExecute_empty, fun s bs => profileCommand_of_unknown⟩
  · intro t s h
    exact congrArg Host.Outcome.next (pinResetN_of_seen h true)
  · intro t r s hpins hph
    cases r with
    | true => exact exec_brownOut_rail (hph rfl)
    | false => exact congrArg Host.Outcome.next (pinPgood_of_seen (hpins rfl) false)
  · intro t s h
    exact ⟨congrArg Host.Outcome.next (pinResetN_of_chained h true), congrArg Host.Outcome.next (pinResetN_of_chained h false),
      congrArg Host.Outcome.next (pinPgood_of_chained h true), congrArg Host.Outcome.next (pinPgood_of_chained h false)⟩
  · intro t s hpins hph hlow
    exact congrArg Host.Outcome.next ((pinPgood_of_seen hpins true).trans (beginLoading_of_ready hph rfl hlow))
  · intro t s hpins hph hlow
    exact congrArg Host.Outcome.next ((pinPgood_of_seen hpins true).trans (beginLoading_of_low hlow))
  · intro t s hpins hph hgood
    exact congrArg Host.Outcome.next ((pinResetN_of_seen hpins false).trans (beginLoading_of_ready hph hgood rfl))
  · intro t b v te failed s hpins hph
    obtain ⟨r, n, hframe⟩ := loadThreshold_frame failed (if te then resetTrunk (setNow t s) else setNow t s)
    refine ⟨_, exec_optionLoadingEnd_loading hpins hph, rfl, rfl, rfl, rfl, rfl, rfl, rfl, rfl, ?_, rfl, ?_, ?_, ?_⟩
    · change ((loadThreshold failed (if te then resetTrunk (setNow t s) else setNow t s)).power.faultN || te) = _
      rw [hframe]
      cases te <;> rfl
    · intro hgood
      rw [loadThreshold_of_good hgood]
      cases te <;> exact ⟨rfl, rfl⟩
    · rintro rfl
      rw [hframe]
      rfl
    · rintro rfl
      rw [hframe]
      exact ⟨rfl, rfl⟩
  · exact fun s h => ⟨h, rfl, rfl, rfl⟩
  · intro s d e horder hnext he
    exact ⟨by rw [releaseOrder, horder]; rfl, idxOf_find?_le hnext he⟩
  · intro t s d hnext hph horder hgap hcount
    have hc : gapCounted (setNow t s) = true := decide_eq_true hcount
    refine ⟨fun hstable => ?_, fun hstable => ?_⟩
    · rw [exec_legacyGapEnd_counted hnext hph horder hgap hc, if_pos hstable]
    · have hexec := exec_legacyGapEnd_counted hnext hph horder hgap hc
      rw [if_neg (Bool.eq_false_iff.1 hstable)] at hexec
      exact ⟨_, hexec, rfl, rfl, rfl⟩
  · exact fun t d s h => exec_legacyGapEnd_early (decide_eq_false (Nat.not_le.2 h))
  · intro s d hl href hd
    rw [clockStable_of_limp hl hd, href, if_neg Bool.false_ne_true, decide_eq_true_eq]
  · intro s d hl href hd
    rw [clockStable_of_limp hl hd, href, if_pos rfl, decide_eq_true_eq]
  · intro s ht h
    exact (chooseBank_of_other (by rw [ht]; decide)).trans (tryReject_of_trial ht h)
  · intro s ht h
    exact if_congr Iff.rfl rfl (tryReject_of_trial ht h)


/-! ### Page writes and the steps of a transaction (R409–R412) -/

theorem countPage_eq (g : Nat) (s : State) : ∃ e w n r, countPage g s =
    { s with events := e, nvm := { s.nvm with wear := w, pageWrites := n, wearRaised := r } } := by
  unfold countPage
  extract_lets n x s1
  split
  · obtain ⟨e, he⟩ := raise_eq 0x0604 (pagePart g) g 0
      { s1 with nvm := { s1.nvm with wearRaised := insNat s1.nvm.wearRaised g } }
    exact ⟨e, _, _, _, he⟩
  · exact ⟨_, _, _, _, rfl⟩

theorem raiseWear_eq (g a : Nat) (s : State) : ∃ e, raiseWear g a s = { s with events := e } := raise_eq ..

theorem raiseWear_nvm (g a : Nat) (s : State) : (raiseWear g a s).nvm = s.nvm := raise_nvm ..

theorem countPage_cells (g : Nat) (s : State) : (countPage g s).nvm.cells = s.nvm.cells := by
  obtain ⟨e, w, n, r, h⟩ := countPage_eq g s
  rw [h]

/-- A page write of a transaction leaves the pages of eMRAM as they are, except one in place. -/
theorem pageEnded_eq (x : NvmTxn) (s : State) : ∃ e w n r cells, pageEnded x s =
    { s with events := e, nvm := { s.nvm with wear := w, pageWrites := n, wearRaised := r, cells := cells } } ∧
    (atHome x = false → cells = s.nvm.cells) := by
  obtain ⟨e, w, n, r, h⟩ := countPage_eq (txnPage s x) s
  unfold pageEnded
  extract_lets s1
  split
  · next hhome => exact ⟨e, w, n, r, _, congrArg (setPage _ _) h, fun hno => absurd (hhome.symm.trans hno) (by decide)⟩
  · exact ⟨e, w, n, r, _, h, fun _ => rfl⟩

theorem atHome_of_le {x : NvmTxn} (h : x.next ≤ x.pages.length) : atHome x = false := by
  rw [atHome, decide_eq_false (Nat.not_lt.2 h), Bool.false_and]

theorem judgePage_of_retry {x : NvmTxn} (h : x.retried = false) (s : State) :
    judgePage x false s = (.retry, pageEnded x s) := by
  unfold judgePage
  rw [h]
  rfl

theorem judgePage_of_fail {x : NvmTxn} (h : x.retried = true) (hn : x.next ≤ x.pages.length) (s : State) :
    judgePage x false s = (.fail, raiseWear (txnPage s x) 1 (pageEnded x s)) := by
  unfold judgePage
  rw [h]
  exact if_pos hn

theorem rotate_eq (x : NvmTxn) (s : State) : ∃ a b, rotate x s = { s with nvm := { s.nvm with stageNext := a, recordNext := b } } := by
  unfold rotate
  split
  · exact ⟨_, _, rfl⟩
  · split <;> exact ⟨_, _, rfl⟩

theorem commitEffect_txnSeq (o : NvmOrigin) (s : State) : (commitEffect o s).nvm.txnSeq = s.nvm.txnSeq + 1 := by
  have hbank : ∀ (b : Bool) (x : BankState) (u : State), (setBank b x u).nvm.txnSeq = u.nvm.txnSeq := by
    intro b x u
    cases b <;> rfl
  cases o with
  | fwBegin _ => exact hbank ..
  | fwVerified => exact hbank ..
  | bootReject => exact hbank ..
  | _ => rfl

theorem txnWritten_of_retry {x : NvmTxn} (h : x.retried = false) (s : State) :
    txnWritten x false s = noteRetry (putTxn false (some { x with retried := true }) (pageEnded x s)) := by
  rw [txnWritten, judgePage_of_retry h]

theorem txnWritten_of_fail {x : NvmTxn} (h : x.retried = true) (hn : x.next ≤ x.pages.length) (s : State) :
    txnWritten x false s = endTxn x false (raiseWear (txnPage s x) 1 (pageEnded x s)) := by
  rw [txnWritten, judgePage_of_fail h hn]

theorem txnWritten_of_last {x : NvmTxn} (h : x.next = 2 * x.pages.length + 1) (s : State) :
    txnWritten x true s = endTxn x true (rotate x (pageEnded x s)) := by
  rw [txnWritten, judgePage_of_good]
  exact if_pos h

theorem txnWritten_of_step {x : NvmTxn} (h : x.next ≠ 2 * x.pages.length + 1) (hc : x.next ≠ x.pages.length) (s : State) :
    txnWritten x true s = putTxn false (some { x with next := x.next + 1, retried := false }) (rotate x (pageEnded x s)) := by
  rw [txnWritten, judgePage_of_good]
  exact (if_neg h).trans (congrArg (putTxn false (some { x with next := x.next + 1, retried := false })) (if_neg hc))

theorem txnWritten_of_commit {x : NvmTxn} (hc : x.next = x.pages.length) (s : State) :
    txnWritten x true s = putTxn false (some { x with next := x.next + 1, retried := false })
      (commitEffect x.origin (rotate x (pageEnded x s))) := by
  rw [txnWritten, judgePage_of_good]
  exact (if_neg (by omega)).trans (congrArg (putTxn false (some { x with next := x.next + 1, retried := false })) (if_pos hc))

theorem txnWritten_retry_kept {x : NvmTxn} (h : x.retried = false) (s : State) :
    (txnWritten x false s).nvm.txn = some { x with retried := true } ∧
    (txnWritten x false s).nvm.verifyRetries = satInc s.nvm.verifyRetries := by
  obtain ⟨e, w, n, r, cells, hp, -⟩ := pageEnded_eq x s
  rw [txnWritten_of_retry h, hp]
  exact ⟨rfl, rfl⟩

theorem txnWritten_commit_kept {x : NvmTxn} (hc : x.next = x.pages.length) (s : State) :
    (txnWritten x true s).nvm.txnSeq = s.nvm.txnSeq + 1 ∧
    (txnWritten x true s).nvm.txn = some { x with next := x.next + 1, retried := false } := by
  obtain ⟨e, w, n, r, cells, hp, -⟩ := pageEnded_eq x s
  obtain ⟨a, b, hrot⟩ := rotate_eq x (pageEnded x s)
  rw [txnWritten_of_commit hc]
  refine ⟨(commitEffect_txnSeq ..).trans ?_, rfl⟩
  rw [hrot, hp]

theorem txnWritten_stage_kept {x : NvmTxn} (h : x.next < x.pages.length) (s : State) :
    (txnWritten x true s).nvm.txn = some { x with next := x.next + 1, retried := false } ∧
    (txnWritten x true s).nvm.cells = s.nvm.cells := by
  obtain ⟨e, w, n, r, cells, hp, hcells⟩ := pageEnded_eq x s
  obtain ⟨a, b, hrot⟩ := rotate_eq x (pageEnded x s)
  rw [txnWritten_of_step (by omega) (by omega)]
  refine ⟨rfl, ?_⟩
  change (rotate x (pageEnded x s)).nvm.cells = _
  rw [hrot, hp, hcells (atHome_of_le h.le)]

theorem txnWritten_fail_cells {x : NvmTxn} (h : x.retried = true) (hn : x.next ≤ x.pages.length) (s : State) :
    ∃ u, txnWritten x false s = endTxn x false u ∧ u.nvm.cells = s.nvm.cells := by
  obtain ⟨e, w, n, r, cells, hp, hcells⟩ := pageEnded_eq x s
  refine ⟨_, txnWritten_of_fail h hn s, ?_⟩
  rw [raiseWear_nvm, hp, hcells (atHome_of_le hn)]

/-- A page in place holds its new content once its write has ended. -/
theorem pageBytes_txnWritten {x : NvmTxn} {s : State} {i : Nat} (hi : i < x.pages.length) (hn : x.next = x.pages.length + 1 + i)
    (hwf : Mem.wf s.nvm.cells) (hpages : ∀ pg ∈ x.pages, pg.length = 1024) :
    pageBytes (txnWritten x true s) (x.first + i) = x.pages.getD i [] := by
  have hhome : atHome x = true := by
    rw [atHome, decide_eq_true (by omega), decide_eq_true (by omega), Bool.and_self]
  have hpage : ∀ u, txnPage u x = x.first + i := by
    intro u
    have hrec : atRecord x = false := by
      rw [atRecord, decide_eq_false (by omega), decide_eq_false (by omega), Bool.or_self]
    rw [txnPage, if_neg (by omega), if_neg (by rw [hrec]; decide)]
    omega
  have hended : pageEnded x s = setPage (x.first + i) (x.pages.getD i []) (countPage (x.first + i) s) := by
    rw [pageEnded, hpage, if_pos hhome, hpage, show x.next - x.pages.length - 1 = i by omega]
  have hlen : (x.pages.getD i []).length = 1024 := by
    rw [List.getD_eq_getElem _ _ hi]
    exact hpages _ (List.getElem_mem hi)
  obtain ⟨a, b, hrot⟩ := rotate_eq x (pageEnded x s)
  rw [txnWritten_of_step (by omega) (by omega)]
  change memBytes (rotate x (pageEnded x s)).nvm.cells _ 1024 = _
  rw [hrot, hended]
  change memBytes (memSetBytes (countPage (x.first + i) s).nvm.cells _ _) _ 1024 = _
  rw [countPage_cells, ← hlen]
  exact memBytes_memSetBytes_same _ _ hwf

theorem lastOfTxn_of_last {x : NvmTxn} (h : x.next = 2 * x.pages.length + 1) (s : State) :
    (lastOfTxn false x true s).nvm.txn = none ∧
    (lastOfTxn false x true s).nvm.lastTxn = (if x.origin = .recovered then 3 else 1) := by
  rw [lastOfTxn, judgePage_of_good]
  change (stepStands false x _).nvm.txn = _ ∧ (stepStands false x _).nvm.lastTxn = _
  rw [stepStands, if_pos h]
  refine ⟨rfl, ?_⟩
  change txnCode x.origin true = _
  by_cases ho : x.origin = .recovered
  · rw [ho, if_pos rfl]; rfl
  · rw [if_neg ho, txnCode, if_neg (by decide), if_neg (by rw [beq_iff_eq]; exact ho)]

theorem lastOfTxn_of_fail {x : NvmTxn} (h : x.retried = true) (hn : x.next ≤ x.pages.length) (s : State) :
    (lastOfTxn false x false s).nvm.txn = none ∧ (lastOfTxn false x false s).nvm.lastTxn = 4 := by
  rw [lastOfTxn, judgePage_of_fail h hn]
  exact ⟨rfl, rfl⟩

theorem lastOfTxn_of_retry {x : NvmTxn} (h : x.retried = false) (s : State) :
    (lastOfTxn false x false s).nvm.txn = s.nvm.txn ∧
    (lastOfTxn false x false s).nvm.verifyRetries = s.nvm.verifyRetries := by
  obtain ⟨e, w, n, r, cells, hp, -⟩ := pageEnded_eq x s
  rw [lastOfTxn, judgePage_of_retry h, hp]
  exact ⟨rfl, rfl⟩

/-! ### Page writes outside the journal (R409, R418) -/

theorem writePage_eq (g : Nat) (bs : List Byte) (good : Bool) (s : State) : ∃ f e w n r cells, writePage g bs good s =
    { s with free := f, events := e, nvm := { s.nvm with wear := w, pageWrites := n, wearRaised := r, cells := cells } } := by
  unfold writePage
  obtain ⟨e, w, n, r, h⟩ := countPage_eq g (if good then setPage g bs s else spoilPage g s)
  rw [h]
  cases good <;> exact ⟨_, _, _, _, _, _, rfl⟩

theorem writePage_good_cells (g : Nat) (bs : List Byte) (s : State) :
    (writePage g bs true s).nvm.cells = memSetBytes s.nvm.cells (g * 1024) bs := countPage_cells ..

theorem memGet_writePage {g : Nat} {bs : List Byte} {s : State} {i : Nat} (hwf : Mem.wf s.nvm.cells) (hlen : bs.length = 1024)
    (hi : i < 1024) : memGet (writePage g bs true s).nvm.cells (g * 1024 + i) = bs.getD i 0 := by
  rw [writePage_good_cells, memGet_memSetBytes _ _ _ hwf, if_pos (by omega), Nat.add_sub_cancel_left]

theorem memGet_writePage_outside {g : Nat} {bs : List Byte} {good : Bool} {s : State} {a : Nat} (hwf : Mem.wf s.nvm.cells)
    (hlen : bs.length = 1024) (ha : a < g * 1024 ∨ g * 1024 + 1024 ≤ a) :
    memGet (writePage g bs good s).nvm.cells a = memGet s.nvm.cells a := by
  cases good with
  | true => rw [writePage_good_cells, memGet_memSetBytes _ _ _ hwf, if_neg (by omega)]
  | false =>
    have hfree : (wordsBytes (freeWords 256 s).1).length = 1024 := by rw [length_wordsBytes, freeWords, List.length_map, List.length_range]
    change memGet (countPage g (spoilPage g s)).nvm.cells a = _
    rw [countPage_cells]
    exact (memGet_memSetBytes _ _ _ hwf).trans (if_neg (by omega))

theorem directWritten_of_retry {d : NvmDirect} {g : Nat} {bs : List Byte} {rest : List (Nat × List Byte)}
    (hp : d.pages = (g, bs) :: rest) (hr : d.retried = false) (s : State) : directWritten d false s =
      noteRetry { writePage g bs false s with
        nvm := { (writePage g bs false s).nvm with direct := some { d with retried := true } } } := by
  unfold directWritten
  rw [hp]
  change (if (!d.retried) = true then _ else _) = _
  rw [hr]
  rfl

theorem directWritten_of_fail {d : NvmDirect} {g : Nat} {bs : List Byte} {rest : List (Nat × List Byte)}
    (hp : d.pages = (g, bs) :: rest) (hr : d.retried = true) (s : State) :
    directWritten d false s = directDone false d.words (raiseWear g 1 (writePage g bs false s)) := by
  unfold directWritten
  rw [hp]
  change (if (!d.retried) = true then _ else _) = _
  rw [hr]
  rfl


/-! ### The digest and the dump (R419, R420) -/

theorem putDigest_eq (d : DumpRun) (good : Bool) (s : State) : ∃ f e w n r cells mark, putDigest d good s =
    { s with free := f, events := e, nvm := { s.nvm with
      wear := w, pageWrites := n, wearRaised := r, cells := cells, digests := s.nvm.digests.set d.slot mark } } := by
  unfold putDigest
  extract_lets i g old s1 mark
  obtain ⟨f, e, w, n, r, cells, h⟩ := writePage_eq g (digestBytes s i) good s
  exact ⟨f, e, w, n, r, cells, mark,
    congrArg (fun u : State => { u with nvm := { u.nvm with digests := u.nvm.digests.set d.slot mark } }) h⟩

theorem digestWritten_of_good (d : DumpRun) (s : State) : digestWritten d true s =
    { putDigest d true s with nvm := { (putDigest d true s).nvm with
      dumping := some { d with next := d.next + 1, retried := false } } } := rfl

theorem digestWritten_of_retry {d : DumpRun} (h : d.retried = false) (s : State) : digestWritten d false s =
    noteRetry { putDigest d false s with nvm := { (putDigest d false s).nvm with dumping := some { d with retried := true } } } := by
  unfold digestWritten
  rw [h]
  rfl

theorem digestWritten_of_fail {d : DumpRun} (h : d.retried = true) (s : State) : digestWritten d false s =
    { raiseWear (digestFirst d.slot + digestPage d.next) 1 (putDigest d false s) with
      nvm := { (raiseWear (digestFirst d.slot + digestPage d.next) 1 (putDigest d false s)).nvm with
        dumping := some { d with next := d.next + 1, retried := false, bad := true } } } := by
  unfold digestWritten
  rw [h]
  rfl

theorem digestWritten_good_kept (d : DumpRun) (s : State) :
    (digestWritten d true s).nvm.dumping = some { d with next := d.next + 1, retried := false } ∧
    (digestWritten d true s).dram = s.dram := by
  obtain ⟨f, e, w, n, r, cells, mark, h⟩ := putDigest_eq d true s
  rw [digestWritten_of_good, h]
  exact ⟨rfl, rfl⟩

theorem digestWritten_retry_kept {d : DumpRun} (hr : d.retried = false) (s : State) :
    (digestWritten d false s).nvm.dumping = some { d with retried := true } ∧
    (digestWritten d false s).nvm.verifyRetries = satInc s.nvm.verifyRetries := by
  obtain ⟨f, e, w, n, r, cells, mark, h⟩ := putDigest_eq d false s
  rw [digestWritten_of_retry hr, h]
  exact ⟨rfl, rfl⟩

/-- The header page, written last, gives its slot the dump's DUMP_SEQ, or none after a page that failed. -/
theorem digests_of_header {d : DumpRun} (hn : d.next = 63) (s : State) : (digestWritten d true s).nvm.digests =
    s.nvm.digests.set d.slot (if d.bad then none else some (memWord s.dram (dumpBase + 4))) := by
  obtain ⟨f, e, w, n, r, cells, h⟩ := writePage_eq (digestFirst d.slot + 0) (digestBytes s 0) true s
  have hpage : digestPage d.next = 0 := by rw [hn]; rfl
  change (putDigest d true s).nvm.digests = _
  unfold putDigest
  rw [hpage]
  change ((writePage (digestFirst d.slot + 0) (digestBytes s 0) true s).nvm.digests.set d.slot
    (if (true && !d.bad) = true then
      some (memWord (writePage (digestFirst d.slot + 0) (digestBytes s 0) true s).dram (dumpBase + 4)) else none)) = _
  rw [h]
  cases d.bad <;> rfl

theorem nextWriter_eq_digest_iff {s : State} {d : DumpRun} (h : s.nvm.dumping = some d) :
    nextWriter s = some .digest ↔ d.written = true ∧ d.next < 64 := by
  have hnext : nextWriter s = if (d.written && decide (d.next < 64)) = true then some .digest else none := by
    rw [nextWriter, h]
  rw [hnext]
  split
  · next hc => simpa using hc
  · next hc => simpa using hc

theorem copyWork_kept (s : State) : (copyWork s).rst = s.rst ∧ (copyWork s).nvm = s.nvm := ⟨rfl, rfl⟩

theorem dumpBody_kept (d : DumpRun) (s : State) : (dumpBody d s).2.rst = s.rst ∧ (dumpBody d s).2.nvm = s.nvm := by
  simp only [dumpBody, freeWords, withFree, and_self]

/-- The dump's region is written and the digest's slot chosen. -/
def dumpWritten (d : DumpRun) (seq : Nat) (ws : List Word) (s : State) : State :=
  let s := copyWork (dramWriteWords s (dumpBase + 64) ws)
  let crcDig := crc32 (memBytes s.dram (dumpBase + 64) (0x10000 - 64))
  let crcAll := crc32 (memBytes s.dram (dumpBase + 0x10000) 0xFF0000)
  let s := dramWriteWords s dumpBase (dumpHead d seq s ++ [crcDig, crcAll] ++ List.replicate 8 0)
  { s with nvm := { s.nvm with
      dumpValid := true, dumping := some { d with written := true, slot := digestSlot s.nvm.digests } } }

theorem dumpWritten_kept (d : DumpRun) (seq : Nat) (ws : List Word) (s : State) :
    (dumpWritten d seq ws s).nvm.dumpValid = true ∧ (dumpWritten d seq ws s).rst = s.rst ∧
    (dumpWritten d seq ws s).nvm.dumping = some { d with written := true, slot := digestSlot s.nvm.digests } := by
  unfold dumpWritten
  extract_lets s1 crcDig crcAll s2
  have h1 : s1.rst = s.rst ∧ s1.nvm = s.nvm := ⟨dramWrite_rst .., dramWrite_nvm ..⟩
  have h2 : s2.rst = s1.rst ∧ s2.nvm = s1.nvm := ⟨dramWrite_rst .., dramWrite_nvm ..⟩
  refine ⟨rfl, h2.1.trans h1.1, ?_⟩
  change some { d with written := true, slot := digestSlot s2.nvm.digests } = _
  rw [h2.2, h1.2]

theorem writeDump_kept (d : DumpRun) (s : State) : (writeDump d s).nvm.dumpValid = true ∧ (writeDump d s).rst = s.rst ∧
    (writeDump d s).nvm.dumping = some { d with written := true, slot := digestSlot s.nvm.digests } := by
  obtain ⟨hrst, hnvm⟩ := dumpBody_kept d s
  unfold writeDump
  generalize dumpBody d s = b at hrst hnvm
  obtain ⟨body, s1⟩ := b
  dsimp -zeta only at hrst hnvm ⊢
  obtain ⟨hr1, hn1⟩ : (freeWords snapshotWords s1).2.rst = s1.rst ∧ (freeWords snapshotWords s1).2.nvm = s1.nvm := ⟨rfl, rfl⟩
  generalize freeWords snapshotWords s1 = f at hr1 hn1
  obtain ⟨snap, s2⟩ := f
  obtain ⟨hvalid, hr, hdumping⟩ := dumpWritten_kept d (dumpSeqLast s.nvm.digests + 1) (body ++ snap) s2
  refine ⟨hvalid, hr.trans (hr1.trans hrst), hdumping.trans ?_⟩
  rw [hn1, hnvm]

theorem pageEnded_kept (x : NvmTxn) (s : State) : (pageEnded x s).rst = s.rst ∧ (pageEnded x s).dram = s.dram := by
  obtain ⟨e, w, n, r, cells, h, -⟩ := pageEnded_eq x s
  rw [h]
  exact ⟨rfl, rfl⟩

theorem judgePage_of_pass {x : NvmTxn} (h : x.retried = true) (hn : ¬ x.next ≤ x.pages.length) (s : State) :
    judgePage x false s = (.step, if atHome x then redirect (txnPage s x) (raiseWear (txnPage s x) 1 (pageEnded x s))
      else raiseWear (txnPage s x) 1 (pageEnded x s)) := by
  unfold judgePage
  rw [h]
  exact if_neg hn

theorem judgePage_kept (x : NvmTxn) (good : Bool) (s : State) :
    (judgePage x good s).2.rst = s.rst ∧ (judgePage x good s).2.dram = s.dram := by
  have hended := pageEnded_kept x s
  have hwear : ∀ a u, (raiseWear a 1 u).rst = u.rst ∧ (raiseWear a 1 u).dram = u.dram := fun a u => ⟨raise_rst .., raise_dram ..⟩
  cases good with
  | true => exact hended
  | false =>
    by_cases hr : x.retried = true
    · have hworn := (⟨(hwear (txnPage s x) _).1.trans hended.1, (hwear (txnPage s x) _).2.trans hended.2⟩ :
        (raiseWear (txnPage s x) 1 (pageEnded x s)).rst = s.rst ∧ (raiseWear (txnPage s x) 1 (pageEnded x s)).dram = s.dram)
      by_cases hn : x.next ≤ x.pages.length
      · rw [judgePage_of_fail hr hn]
        exact hworn
      · rw [judgePage_of_pass hr hn]
        cases atHome x <;> exact hworn
    · rw [judgePage_of_retry (Bool.eq_false_iff.2 hr)]
      exact hended

theorem rotate_kept (x : NvmTxn) (s : State) : (rotate x s).rst = s.rst ∧ (rotate x s).dram = s.dram := by
  obtain ⟨a, b, h⟩ := rotate_eq x s
  rw [h]
  exact ⟨rfl, rfl⟩

theorem stepStands_dram (boot : Bool) (x : NvmTxn) (s : State) : (stepStands boot x s).dram = s.dram := by
  have hput : ∀ (y : Option NvmTxn) (u : State), (putTxn boot y u).dram = u.dram := by
    intro y u
    cases boot <;> rfl
  have hbank : ∀ (b : Bool) (x : BankState) (u : State), (setBank b x u).dram = u.dram := by
    intro b x u
    cases b <;> rfl
  have hcommit : ∀ o, (commitEffect o s).dram = s.dram := by
    intro o
    cases o with
    | fwBegin _ => exact hbank ..
    | fwVerified => exact hbank ..
    | bootReject => exact hbank ..
    | _ => rfl
  unfold stepStands
  split
  · exact hput ..
  · refine (hput ..).trans ?_
    split
    · exact hcommit _
    · rfl

theorem lastOfTxn_kept (boot : Bool) (x : NvmTxn) (good : Bool) (s : State) :
    (lastOfTxn boot x good s).rst = s.rst ∧ (lastOfTxn boot x good s).dram = s.dram := by
  obtain ⟨hrst, hdram⟩ := judgePage_kept x good s
  unfold lastOfTxn
  generalize judgePage x good s = j at hrst hdram
  obtain ⟨next, u⟩ := j
  cases next with
  | retry => exact ⟨hrst, hdram⟩
  | fail => cases boot <;> exact ⟨hrst, hdram⟩
  | step =>
    obtain ⟨hr, hd⟩ := rotate_kept x u
    exact ⟨(stepStands_kept ..).1.trans (hr.trans hrst), (stepStands_dram ..).trans (hd.trans hdram)⟩

theorem lastPage_kept (good : Bool) (s : State) : (lastPage good s).rst = s.rst ∧ (lastPage good s).dram = s.dram := by
  have hwear : ∀ (c : Bool) g u, u.rst = s.rst ∧ u.dram = s.dram →
      (if c then raiseWear g 1 u else u).rst = s.rst ∧ (if c then raiseWear g 1 u else u).dram = s.dram := by
    intro c g u h
    cases c with
    | true => exact ⟨(raise_rst ..).trans h.1, (raise_dram ..).trans h.2⟩
    | false => exact h
  have hwrite : ∀ g bs, (writePage g bs good s).rst = s.rst ∧ (writePage g bs good s).dram = s.dram := by
    intro g bs
    obtain ⟨f, e, w, n, r, cells, h⟩ := writePage_eq g bs good s
    rw [h]
    exact ⟨rfl, rfl⟩
  unfold lastPage
  split
  · exact ⟨rfl, rfl⟩
  · split
    · exact lastOfTxn_kept ..
    · exact ⟨rfl, rfl⟩
  · split
    · exact lastOfTxn_kept ..
    · exact ⟨rfl, rfl⟩
  · split
    · exact hwear (!good && _) _ (writePage _ _ good s) (hwrite ..)
    · exact ⟨rfl, rfl⟩
  · split
    · next d _ =>
      obtain ⟨f, e, w, n, r, cells, mark, h⟩ := putDigest_eq d good s
      refine hwear (!good && d.retried) _ (putDigest d good s) ?_
      rw [h]
      exact ⟨rfl, rfl⟩
    · exact ⟨rfl, rfl⟩


/-! ### NVM_READ, NVM_WRITE and the dump's commands (R415, R422) -/

/-- A count of words is refused at 0 and above what its path takes. -/
theorem countBad_iff {n m : Nat} : ((decide (n = 0) || decide (m < n)) = true) ↔ n = 0 ∨ m < n := by
  rw [Bool.or_eq_true, decide_eq_true_eq, decide_eq_true_eq]

theorem not_countBad {n m : Nat} (h0 : n ≠ 0) (h : n ≤ m) : ¬ (decide (n = 0) || decide (m < n)) = true := by
  rw [countBad_iff]
  omega

section
variable {p : Packet} {s : State}

theorem nvmReadBody_eq (h : firstReserved (cmdOf p).words [0xF, 0xFFFFFFFF, 0xFFFF] = none) : nvmReadBody (cmdOf p) s =
    if 6 < fldN (par p 0) 0 4 then cmdBad s 0
    else if (par p 1).toNat % 4 ≠ 0 then cmdBad s 1
    else if ((cmdOf p).words.getD 2 1).toNat = 0 || pathWords (cmdOf p).via < ((cmdOf p).words.getD 2 1).toNat then cmdBad s 2
    else if partBytes (fldN (par p 0) 0 4) < (par p 1).toNat + 4 * ((cmdOf p).words.getD 2 1).toNat then cmdBad s 1
    else cmdOk s (memWords s.nvm.cells (partFirst (fldN (par p 0) 0 4) * 1024 + (par p 1).toNat)
      ((cmdOf p).words.getD 2 1).toNat) := judged_of_none _ _ h

/-- NVM_WRITE of a partition that it may write, outside the thermal hold. -/
def nvmWriteFree (p : Packet) (part : Nat) (m : List (Nat × Word)) (s : State) : CmdResult :=
  if bitAt (par p 0) 18 then cmdOk { s with nvm := { s.nvm with staging := none } }
  else if !bitAt (par p 0) 19 then cmdOk { s with nvm := { s.nvm with staging := some (part, m) } }
  else
    match journalRefusal s with
      | some st => cmdRefuse s st
      | none => cmdPending (startWork (cmdOf p).req .nvm (startTxn (.nvmWrite (cmdOf p).tag) (stagePages s part m).1 (stagePages s part m).2
          { s with nvm := { s.nvm with staging := none } }))

/-- NVM_WRITE once its place is good. -/
def nvmWriteStored (p : Packet) (part : Nat) (m : List (Nat × Word)) (s : State) : CmdResult :=
  if part ≠ 4 && part ≠ 6 then cmdRefuse s .notPermitted
  else if s.power.hold then cmdRefuse s .busy
  else nvmWriteFree p part m s

theorem nvmWriteBody_eq (h : firstReserved ((cmdOf p).words.take 2) [0xC000F, 0xFFFFFFFF] = none) {part : Nat} {m : List (Nat × Word)}
    (hpart : part = fldN (par p 0) 0 4)
    (hm : m = stageWords s part ((par p 1).toNat / 4) ((cmdOf p).words.drop 2)) : nvmWriteBody (cmdOf p) s =
    if (bitAt (par p 0) 18 && bitAt (par p 0) 19) || (bitAt (par p 0) 19 && m.isEmpty) then cmdBad s 0
    else if (par p 1).toNat % 4 ≠ 0 || partBytes part < (par p 1).toNat + 4 * ((cmdOf p).words.drop 2).length ||
      (!bitAt (par p 0) 18 && 608 < (stageSpan m).2) then cmdBad s 1
    else if bitAt (par p 0) 18 && !((cmdOf p).words.drop 2).isEmpty then cmdBad s 2
    else nvmWriteStored p part m s := by
  subst hpart hm
  unfold nvmWriteBody nvmWriteStored nvmWriteFree
  exact judged_of_none _ _ h

theorem nvmWriteStored_of_other {part : Nat} {m : List (Nat × Word)} (h4 : part ≠ 4) (h6 : part ≠ 6) :
    nvmWriteStored p part m s = cmdRefuse s .notPermitted := by
  rw [nvmWriteStored, if_pos (by simp [h4, h6])]

theorem nvmWriteStored_of_hold {part : Nat} {m : List (Nat × Word)} (hp : part = 4 ∨ part = 6) (hh : s.power.hold = true) :
    nvmWriteStored p part m s = cmdRefuse s .busy := by
  rw [nvmWriteStored, if_neg (by rcases hp with rfl | rfl <;> decide), if_pos hh]

theorem nvmWriteStored_of_free {part : Nat} {m : List (Nat × Word)} (hp : part = 4 ∨ part = 6) (hh : s.power.hold = false) :
    nvmWriteStored p part m s = nvmWriteFree p part m s := by
  rw [nvmWriteStored, if_neg (by rcases hp with rfl | rfl <;> decide), if_neg (by rw [hh]; decide)]

theorem nvmWriteFree_of_refusal {part : Nat} {m : List (Nat × Word)} {st : Status}
    (h18 : bitAt (par p 0) 18 = false) (h19 : bitAt (par p 0) 19 = true)
    (hj : journalRefusal s = some st) : nvmWriteFree p part m s = cmdRefuse s st := by
  rw [nvmWriteFree, if_neg (by rw [h18]; decide), if_neg (by rw [h19]; decide), hj]

theorem nvmWriteFree_of_commit {part : Nat} {m : List (Nat × Word)}
    (h18 : bitAt (par p 0) 18 = false) (h19 : bitAt (par p 0) 19 = true) (hj : journalRefusal s = none) :
    nvmWriteFree p part m s = cmdPending (startWork (cmdOf p).req .nvm (startTxn (.nvmWrite (cmdOf p).tag) (stagePages s part m).1
      (stagePages s part m).2 { s with nvm := { s.nvm with staging := none } })) := by
  rw [nvmWriteFree, if_neg (by rw [h18]; decide), if_neg (by rw [h19]; decide), hj]

theorem dumpReadBody_eq (h : firstReserved (cmdOf p).words [0x71, 0xFFFFFFFF, 0xFFFF] = none) : dumpReadBody (cmdOf p) s =
    if (par p 1).toNat % 4 ≠ 0 then cmdBad s 1
    else if ((cmdOf p).words.getD 2 1).toNat = 0 || pathWords (cmdOf p).via < ((cmdOf p).words.getD 2 1).toNat then cmdBad s 2
    else if (if bitAt (par p 0) 0 then 65536 else 16777216) <
      (par p 1).toNat + 4 * ((cmdOf p).words.getD 2 1).toNat then cmdBad s 1
    else if bitAt (par p 0) 0 then
      if digestWord s (fldN (par p 0) 4 3) 0 != 0xD0C50001 then cmdRefuse s .wrongState
      else cmdOk s (digestWord s (fldN (par p 0) 4 3) 1 :: memWords s.nvm.cells
        ((partFirst 5 + 64 * fldN (par p 0) 4 3) * 1024 + (par p 1).toNat) ((cmdOf p).words.getD 2 1).toNat)
    else if !s.nvm.dumpValid then cmdRefuse s .wrongState
    else cmdOk s (memWord s.dram (dumpBase + 4) :: memWords s.dram (dumpBase + (par p 1).toNat)
      ((cmdOf p).words.getD 2 1).toNat) := judged_of_none _ _ h

/-- The dump's header page is cleared. -/
def dumpCleared (s : State) : State :=
  let z := dramWrite s dumpBase (List.replicate 4096 0)
  { z with nvm := { z.nvm with dumpValid := false } }

theorem dumpClearBody_eq (h : firstReserved (cmdOf p).words [3] = none) : dumpClearBody (cmdOf p) s =
    if s.nvm.txn.isSome then cmdRefuse s .busy
    else if bitAt (par p 0) 1 && journalDead s then cmdRefuse s .nvmError
    else
      let s := if bitAt (par p 0) 0 then dumpCleared s else s
      if bitAt (par p 0) 1 then cmdHeld (startTxn (.dumpClear (wordOf (dumpSeqLast s.nvm.digests))) 0 [] s) else cmdOk s := by
  unfold dumpClearBody dumpCleared
  exact judged_of_none _ _ h

theorem dramWrite_eq (s : State) (a : Nat) (bs : List Byte) : ∃ d b f, dramWrite s a bs =
    { s with dram := d, dramBad := b, dramSoft := f } := by
  by_cases h : bs = []
  · exact ⟨s.dram, s.dramBad, s.dramSoft, by rw [h, dramWrite_nil]⟩
  · exact ⟨_, _, _, dramWrite_of_ne h⟩

theorem dumpCleared_kept (s : State) : (dumpCleared s).nvm.dumpValid = false ∧
    (dumpCleared s).dram = (dramWrite s dumpBase (List.replicate 4096 0)).dram ∧
    { dumpCleared s with nvm := s.nvm, dram := s.dram, dramBad := s.dramBad, dramSoft := s.dramSoft } = s := by
  unfold dumpCleared
  obtain ⟨d, b, f, h⟩ := dramWrite_eq s dumpBase (List.replicate 4096 0)
  rw [h]
  exact ⟨rfl, rfl, rfl⟩

end

theorem fldN_two_iff (w : Word) : (fldN w 0 2 = 0 ↔ bitAt w 0 = false ∧ bitAt w 1 = false) ∧
    (fldN w 0 2 = 1 ↔ bitAt w 0 = true ∧ bitAt w 1 = false) ∧ (fldN w 0 2 = 2 ↔ bitAt w 0 = false ∧ bitAt w 1 = true) := by
  have h0 : bitAt w 0 = decide (w.toNat % 2 = 1) := by
    rw [bitAt_eq_iff, pow_zero, Nat.div_one, b2n]
    split <;> rename_i h <;> simp at h <;> omega
  have h1 : bitAt w 1 = decide (w.toNat / 2 % 2 = 1) := by
    rw [bitAt_eq_iff, pow_one, b2n]
    split <;> rename_i h <;> simp at h <;> omega
  rw [h0, h1, fldN, toNat_fld, pow_zero, Nat.div_one]
  simp only [decide_eq_true_eq, decide_eq_false_iff_not]
  omega

theorem smGet_stagedWords (word n k : Nat) (data : List Word) (hk : word + n ≤ k) :
    smGet 0 ((data.zipIdx n).map fun d => (word + d.2, d.1)) k = data.getD (k - (word + n)) 0 := by
  induction data generalizing n with
  | nil => rfl
  | cons x xs ih =>
    rw [List.zipIdx_cons, List.map_cons, smGet]
    by_cases h : word + n = k
    · rw [if_pos h.symm, h, Nat.sub_self]
      rfl
    · rw [if_neg (Ne.symm h), if_neg (by omega), ih (n + 1) (by omega), show k - (word + n) = k - (word + (n + 1)) + 1 by omega]
      rfl

theorem smGet_stageWords {s : State} {part word k : Nat} {data : List Word} (hs : s.nvm.staging = none) (hk : word ≤ k) :
    smGet 0 (stageWords s part word data) k = data.getD (k - word) 0 := by
  unfold stageWords
  rw [hs]
  exact smGet_stagedWords word 0 k data hk

theorem journalRefusal_busy_iff (s : State) : journalRefusal s = some .busy ↔ s.nvm.txn ≠ none := by
  unfold journalRefusal
  cases s.nvm.txn with
  | none => cases journalDead s <;> decide
  | some x => exact ⟨fun _ => Option.some_ne_none x, fun _ => rfl⟩

theorem journalRefusal_nvmError_iff (s : State) :
    journalRefusal s = some .nvmError ↔ s.nvm.txn = none ∧ s.nvm.redirects ≠ [] := by
  unfold journalRefusal journalDead
  cases s.nvm.txn with
  | none => cases s.nvm.redirects <;> simp
  | some x => simp

section
variable {t : Instant} {s : State}

theorem exec_pageWriteComplete_txn (r : PageResult) {x : NvmTxn} (h : s.nvm.inFlight = some .txn) (hw : s.rst.waiting = none)
    (hd : s.nvm.dumping = none) (hx : s.nvm.txn = some x) : exec (.pageWriteComplete t r) s =
    .next (kickWrites (txnWritten x (r == .good) { setNow t s with nvm := { s.nvm with inFlight := none } })) := by
  change execPageWriteComplete t r s = _
  unfold execPageWriteComplete
  simp only [setNow_nvm, setNow_rst, h, hw, hd, hx]

theorem exec_pageWriteComplete_direct (r : PageResult) {d : NvmDirect} (h : s.nvm.inFlight = some .direct) (hw : s.rst.waiting = none)
    (hd : s.nvm.dumping = none) (hx : s.nvm.direct = some d) : exec (.pageWriteComplete t r) s =
    .next (kickWrites (directWritten d (r == .good) { setNow t s with nvm := { s.nvm with inFlight := none } })) := by
  change execPageWriteComplete t r s = _
  unfold execPageWriteComplete
  simp only [setNow_nvm, setNow_rst, h, hw, hd, hx]

theorem exec_pageWriteComplete_boot (r : PageResult) {x : NvmTxn} (h : s.nvm.inFlight = some .boot) (hw : s.rst.waiting = none)
    (hd : s.nvm.dumping = none) (hx : s.nvm.boot = some x) : exec (.pageWriteComplete t r) s =
    .next (kickWrites (bootWritten x (r == .good) { setNow t s with nvm := { s.nvm with inFlight := none } })) := by
  change execPageWriteComplete t r s = _
  unfold execPageWriteComplete
  simp only [setNow_nvm, setNow_rst, h, hw, hd, hx]

theorem exec_pageWriteComplete_digest (r : PageResult) {d : DumpRun} (h : s.nvm.inFlight = some .digest) (hw : s.rst.waiting = none)
    (hd : s.nvm.dumping = some d) : exec (.pageWriteComplete t r) s =
    .next (kickWrites (digestWritten d (r == .good) { setNow t s with nvm := { s.nvm with inFlight := none } })) := by
  change execPageWriteComplete t r s = _
  unfold execPageWriteComplete
  simp only [setNow_nvm, setNow_rst, h, hw, hd]

theorem exec_pageWriteComplete_waiting (r : PageResult) {w : NvmWriter} {k : ResetCause} {keep : Bool}
    (h : s.nvm.inFlight = some w) (hw : s.rst.waiting = some (k, keep)) :
    exec (.pageWriteComplete t r) s = .next (assertReset k keep { lastPage (r == .good) (setNow t s) with
      nvm := { (lastPage (r == .good) (setNow t s)).nvm with inFlight := none } }) := by
  change execPageWriteComplete t r s = _
  unfold execPageWriteComplete
  simp only [setNow_nvm, setNow_rst, h, hw]

theorem exec_pageWriteComplete_idle (r : PageResult) (h : s.nvm.inFlight = none) :
    exec (.pageWriteComplete t r) s = .next (setNow t s) := by
  change execPageWriteComplete t r s = _
  unfold execPageWriteComplete
  simp only [setNow_nvm, h]

theorem exec_dumpComplete {d : DumpRun} (h : s.nvm.dumping = some d) : exec (.dumpComplete t) s =
    .next (if s.rst.waiting.isSome then setNow t s
      else if !d.written then (if logBlocked (setNow t s) then setNow t s else kickWrites (writeDump d (setNow t s)))
      else if d.next < 64 then setNow t s
      else requestReset d.reset false (setNow t s)) := by
  change execDumpComplete t s = _
  unfold execDumpComplete
  simp only [setNow_nvm, setNow_rst, h]
  rfl

end


/-- Settles O53, from the rules of the eMRAM's commands and page writes. -/
theorem nvmCommandsAndPageWrites : Obligations.NvmCommandsAndPageWrites := by
  unfold Obligations.NvmCommandsAndPageWrites
  refine ⟨?_, ?_, ?_, ?_, ?_, fun s part word data k hs hk _ => smGet_stageWords hs hk,
    fun s => ⟨journalRefusal_busy_iff s, journalRefusal_nvmError_iff s⟩, fun t r s => exec_pageWriteComplete_idle r,
    fun t s x h hw hd hx => exec_pageWriteComplete_txn .good h hw hd hx,
    fun t s d h hw hd hx => exec_pageWriteComplete_direct .good h hw hd hx,
    fun t s x h hw hd hx => exec_pageWriteComplete_boot .good h hw hd hx,
    fun t s d h hw hd => exec_pageWriteComplete_digest .good h hw hd, ?_, fun x s h => lastOfTxn_of_last h s,
    fun x s h hn => lastOfTxn_of_fail h hn s, fun x s h => lastOfTxn_of_retry h s,
    fun x s h hn => txnWritten_fail_cells h hn s, fun x s h => txnWritten_commit_kept h s,
    fun x s i hi hn hwf hp => pageBytes_txnWritten hi hn hwf hp, fun x s h _ => ⟨_, txnWritten_of_last h s⟩, ?_, ?_, ?_,
    fun x s h => txnWritten_stage_kept h s, fun pg bs s i hwf hlen hi => memGet_writePage hwf hlen hi,
    fun pg bs g s a hwf hlen ha => memGet_writePage_outside hwf hlen ha, ?_, ?_, ?_, ?_, ?_, ?_, ?_, ?_, ?_, ?_, writeDump_kept,
    fun d s _ => digestWritten_good_kept d s, fun d s h => digestWritten_retry_kept h s,
    fun d s h => ⟨_, digestWritten_of_fail h s⟩, ?_, ?_, fun s d h => nextWriter_eq_digest_iff h, by decide⟩
  · intro t s p s1 n h hr hpart halign hn h0 hfit hsize
    subst hn
    refine exec_of_body h rfl ((nvmReadBody_eq hr).trans ?_) rfl
    rw [if_neg (Nat.not_lt.2 hpart), if_neg (not_not.2 halign), if_neg (not_countBad h0 hfit), if_neg (Nat.not_lt.2 hsize)]
  · exact fun t s p s1 h hr hpart => exec_of_body h rfl ((nvmReadBody_eq hr).trans (if_pos hpart)) rfl
  · intro t s p s1 n h hr hpart hn
    subst hn
    have hbody := nvmReadBody_eq (s := s1) hr
    rw [if_neg (Nat.not_lt.2 hpart)] at hbody
    refine ⟨fun halign => exec_of_body h rfl (hbody.trans (if_pos halign)) rfl, fun halign hcount => ?_,
      fun halign h0 hfit hsize => ?_⟩
    · exact exec_of_body h rfl (hbody.trans ((if_neg (not_not.2 halign)).trans (if_pos (countBad_iff.2 hcount)))) rfl
    · rw [if_neg (not_not.2 halign), if_neg (not_countBad h0 hfit)] at hbody
      exact exec_of_body h rfl (hbody.trans (if_pos hsize)) rfl
  · intro t s p s1 part m h hr hpart halign h18 hsize hm hspan
    have hplace : ¬ (decide ((par p 1).toNat % 4 ≠ 0) || decide (partBytes part < (par p 1).toNat + 4 * ((cmdOf p).words.drop 2).length) ||
        decide (608 < (stageSpan m).2)) = true := by
      rw [decide_eq_false (not_not.2 halign), decide_eq_false (Nat.not_lt.2 hsize), decide_eq_false (Nat.not_lt.2 hspan)]
      decide
    have hbody : nvmWriteBody (cmdOf p) s1 =
        if (bitAt (par p 0) 19 && m.isEmpty) = true then cmdBad s1 0 else nvmWriteStored p part m s1 := by
      rw [nvmWriteBody_eq hr hpart hm, h18, Bool.false_and, Bool.false_or, Bool.not_false, Bool.true_and, Bool.false_and,
        if_neg hplace, if_neg Bool.false_ne_true]
    refine ⟨fun h19 hempty => ?_, fun hsome => ?_⟩
    · refine exec_of_body h rfl (hbody.trans (if_pos ?_)) rfl
      rw [hempty, List.isEmpty_nil, Bool.and_true]
      exact h19
    · have hstored : nvmWriteBody (cmdOf p) s1 = nvmWriteStored p part m s1 := by
        refine hbody.trans (if_neg fun hc => ?_)
        obtain ⟨h19, hempty⟩ := Bool.and_eq_true_iff.1 hc
        exact hsome h19 (List.isEmpty_iff.1 hempty)
      refine ⟨fun h4 h6 => ?_, fun hp hh => ?_, fun hp hh h19 => ?_, fun hp hh h19 st hj => ?_, fun hp hh h19 hj => ?_⟩
      · exact exec_of_body h rfl (hstored.trans (nvmWriteStored_of_other h4 h6)) rfl
      · exact exec_of_body h rfl (hstored.trans (nvmWriteStored_of_hold hp hh)) rfl
      · refine exec_of_body h rfl (hstored.trans ((nvmWriteStored_of_free hp hh).trans ?_)) rfl
        rw [nvmWriteFree, h18, if_neg Bool.false_ne_true, h19]
        rfl
      · exact exec_of_body h rfl (hstored.trans ((nvmWriteStored_of_free hp hh).trans (nvmWriteFree_of_refusal h18 h19 hj))) rfl
      · exact exec_of_body h rfl (hstored.trans ((nvmWriteStored_of_free hp hh).trans (nvmWriteFree_of_commit h18 h19 hj))) rfl
  · intro t s p s1 h hr h18
    have hbody := nvmWriteBody_eq (s := s1) hr rfl rfl
    rw [h18, Bool.true_and, Bool.not_true, Bool.false_and, Bool.or_false, Bool.true_and] at hbody
    refine ⟨fun h19 => ?_, fun h19 halign hsize hdata hp hh => ?_⟩
    · refine exec_of_body h rfl (hbody.trans (if_pos ?_)) rfl
      rw [h19, Bool.true_or]
    · refine exec_of_body h rfl (hbody.trans ?_) rfl
      rw [h19, hdata, if_neg (by simp),
        if_neg (by simpa using ⟨halign, hsize⟩), if_neg (by decide), nvmWriteStored_of_free hp hh, nvmWriteFree, if_pos h18]
  · intro t r s k keep dir h hw
    obtain ⟨hrst, hdram⟩ := lastPage_kept (r == .good) (setNow t s)
    exact ⟨_, exec_pageWriteComplete_waiting r h hw, hrst, hdram, rfl⟩
  · intro d s g bs rest hp hr
    exact ⟨_, directWritten_of_fail hp hr s, congrArg (·.cells) (raiseWear_nvm ..)⟩
  · intro d s g bs rest hp hr
    exact ⟨_, directWritten_of_retry hp hr s, rfl, rfl⟩
  · exact fun x s h => ⟨_, rfl, txnWritten_retry_kept h s⟩
  · intro t s p s1 n slot h hr h0 hslot halign hn hne hfit hsize hword
    subst hn hslot
    refine exec_of_body h rfl ((dumpReadBody_eq hr).trans ?_) rfl
    rw [h0, if_neg (not_not.2 halign), if_neg (not_countBad hne hfit), if_pos rfl,
      if_neg (Nat.not_lt.2 hsize), if_pos rfl,
      if_neg (by rw [bne_iff_ne, not_not]; exact hword)]
  · intro t s p s1 n h hr h0 halign hn hne hfit hsize
    subst hn
    have hbody := dumpReadBody_eq (s := s1) hr
    rw [h0, if_neg (not_not.2 halign), if_neg (not_countBad hne hfit),
      if_neg Bool.false_ne_true, if_neg (Nat.not_lt.2 hsize), if_neg Bool.false_ne_true] at hbody
    refine ⟨fun hv => ?_, fun hv => ?_⟩
    · exact exec_of_body h rfl (hbody.trans (if_neg (by rw [hv]; decide))) rfl
    · exact exec_of_body h rfl (hbody.trans (if_pos (by rw [hv]; decide))) rfl
  · exact fun t s p s1 h hr halign => exec_of_body h rfl ((dumpReadBody_eq hr).trans (if_pos halign)) rfl
  · intro t s p s1 h hr htxn
    have hbody := dumpClearBody_eq (s := s1) hr
    rw [htxn, if_neg (by decide)] at hbody
    obtain ⟨hzero, -, htwo⟩ := fldN_two_iff (par p 0)
    refine ⟨fun hf => ?_, fun hf hred => ?_, fun h1 hred => ?_⟩
    · obtain ⟨h0, h1⟩ := hzero.1 hf
      refine exec_of_body h rfl (hbody.trans ?_) rfl
      rw [show bitAt (par p 0) 0 = false from h0, show bitAt (par p 0) 1 = false from h1]
      rfl
    · obtain ⟨h0, h1⟩ := htwo.1 hf
      refine exec_of_held_body (r := cmdHeld (startTxn (.dumpClear (wordOf (dumpSeqLast s1.nvm.digests))) 0 [] s1)) h rfl
        (hbody.trans ?_) rfl
      rw [show bitAt (par p 0) 0 = false from h0, show bitAt (par p 0) 1 = true from h1,
        if_neg (by rw [journalDead, hred]; decide)]
      rfl
    · refine exec_of_body h rfl (hbody.trans (if_pos ?_)) rfl
      rw [show bitAt (par p 0) 1 = true from h1, journalDead]
      simp [hred]
  · intro t s p s1 h hr htxn hf
    obtain ⟨-, hone, -⟩ := fldN_two_iff (par p 0)
    obtain ⟨h0, h1⟩ := hone.1 hf
    obtain ⟨hvalid, hdram, hrest⟩ := dumpCleared_kept s1
    refine ⟨dumpCleared s1, exec_of_body h rfl ((dumpClearBody_eq hr).trans ?_) rfl, hvalid, hdram, hrest⟩
    rw [htxn, if_neg (by decide), show bitAt (par p 0) 0 = true from h0,
      show bitAt (par p 0) 1 = false from h1]
    rfl
  · exact fun t s p s1 h hr htxn => exec_of_body h rfl ((dumpClearBody_eq hr).trans (if_pos htxn)) rfl
  · intro t s h
    change execDumpComplete t s = _
    unfold execDumpComplete
    simp only [setNow_nvm, h]
  · intro t s d h hw hwritten hlog
    rw [exec_dumpComplete h, hw, hwritten, hlog, if_neg (by decide), if_pos (by decide), if_neg (by decide)]
  · rintro t s d h hwait
    rw [exec_dumpComplete h]
    rcases hwait with hw | ⟨hwritten, hn⟩
    · rw [if_pos (Option.isSome_iff_ne_none.2 hw)]
    · rw [hwritten, if_neg (by decide : ¬ (!true) = true), if_pos hn, ite_self]
  · intro t s d h hw hwritten hn
    rw [exec_dumpComplete h, hw, hwritten, if_neg (by decide), if_neg (by decide), if_neg (Nat.not_lt.2 hn)]
  · intro d s hn hbad hslot
    rw [digests_of_header hn, hbad, if_neg Bool.false_ne_true, List.getD_eq_getElem _ _ (by rwa [List.length_set]), List.getElem_set_self]
  · intro d s hn hbad
    rw [digests_of_header hn, hbad, if_pos rfl, List.getD_eq_getElem?_getD, List.getElem?_set]
    split
    · split <;> rfl
    · next hne => exact absurd rfl hne


/-! ### FW_UPDATE (R416–R418) -/

theorem journalRefusal_of_free {s : State} (htxn : s.nvm.txn = none) (hred : s.nvm.redirects = []) : journalRefusal s = none := by
  rw [journalRefusal, htxn, journalDead, hred]
  rfl

theorem startTxn_of_free {s : State} (o : NvmOrigin) (first : Nat) (pages : List (List Byte)) (hin : s.nvm.inFlight = none)
    (hgo : writesGo s = true) (hdirect : s.nvm.direct = none) (hboot : s.nvm.boot = none) (hdump : s.nvm.dumping = none) :
    startTxn o first pages s = { s with nvm := { s.nvm with
      txn := some { origin := o, first := first, pages := pages }, inFlight := some .txn } } := by
  unfold startTxn kickWrites
  rw [if_neg]
  · simp [nextWriter, hdump, hboot, hdirect]
  · change ¬ (s.nvm.inFlight.isSome || !writesGo s) = true
    rw [hin, hgo]
    decide

/-- The words of FW_UPDATE_DATA are on their way into the bank. -/
def dataBegun (p : Packet) (s : State) : State :=
  let g := mergedPages s (bankPage (!s.nvm.activeB) * 1024 + (par p 0).toNat) (wordsBytes ((cmdOf p).words.drop 1))
  kickWrites { s with nvm := { s.nvm with direct := some {
    pages := g.2.zipIdx.map fun x => (g.1 + x.2, x.1)
    words := ((cmdOf p).words.drop 1).length } } }

section
variable {p : Packet} {s : State}

theorem fwBeginBody_of_length (h : (par p 0).toNat < 4096 ∨ 2097152 < (par p 0).toNat ∨ (par p 0).toNat % 4 ≠ 0) :
    fwBeginBody (cmdOf p) s = cmdBad s 0 := by
  unfold fwBeginBody
  rw [par_eq, if_pos]
  simpa [or_assoc] using h

theorem fwBeginBody_eq (hlow : 4096 ≤ (par p 0).toNat) (hhigh : (par p 0).toNat ≤ 2097152) (halign : (par p 0).toNat % 4 = 0) :
    fwBeginBody (cmdOf p) s = if s.nvm.trial = 2 then cmdRefuse s .wrongState
      else match journalRefusal s with
        | some st => cmdRefuse s st
        | none => cmdHeld (startTxn (.fwBegin (par p 0).toNat) 0 [] s) := by
  unfold fwBeginBody
  rw [par_eq, if_neg (by simp; omega)]
  exact if_congr beq_iff_eq rfl rfl

theorem fwDataBody_of_closed (h : s.nvm.updateLength = none) : fwDataBody (cmdOf p) s = cmdRefuse s .wrongState := by
  rw [fwDataBody, h]

theorem fwDataBody_of_open {len : Nat} (h : s.nvm.updateLength = some len) : fwDataBody (cmdOf p) s =
    if (par p 0).toNat ≠ s.nvm.updateGot then cmdBad s 0
    else if len < (par p 0).toNat + 4 * ((cmdOf p).words.drop 1).length then cmdBad s 1
    else if s.power.hold then cmdRefuse s .busy
    else if ((cmdOf p).words.drop 1).isEmpty then cmdOk s
    else cmdHeld (dataBegun p s) := by
  rw [fwDataBody, h]
  rfl

theorem fwCommitBody_of_discard (hr : firstReserved (cmdOf p).words [3] = none) (hm : fldN (par p 0) 0 2 = 2) :
    fwCommitBody (cmdOf p) s = cmdOk { s with nvm := { s.nvm with updateLength := none, updateGot := 0 } } := by
  refine (judged_of_none _ _ hr).trans ?_
  rw [par_eq, hm, if_neg (by decide), if_neg (by decide), if_pos rfl]

theorem fwCommitBody_of_undefined (hr : firstReserved (cmdOf p).words [3] = none) (hm : fldN (par p 0) 0 2 = 3) :
    fwCommitBody (cmdOf p) s = cmdBad s 0 := by
  refine (judged_of_none _ _ hr).trans ?_
  rw [par_eq, hm, if_neg (by decide), if_neg (by decide), if_neg (by decide)]

theorem fwCommitBody_of_activate (hr : firstReserved (cmdOf p).words [3] = none) (hm : fldN (par p 0) 0 2 = 0) :
    fwCommitBody (cmdOf p) s = activate s := by
  refine (judged_of_none _ _ hr).trans ?_
  rw [par_eq, hm, if_pos rfl]

theorem fwCommitBody_of_noTrial (hr : firstReserved (cmdOf p).words [3] = none) (hm : fldN (par p 0) 0 2 = 1)
    (ht : s.nvm.trial ≠ 2) : fwCommitBody (cmdOf p) s = cmdRefuse s .wrongState := by
  refine (judged_of_none _ _ hr).trans ?_
  rw [par_eq, hm, if_neg (by decide), if_pos rfl, if_pos ht]

theorem fwCommitBody_of_confirm (hr : firstReserved (cmdOf p).words [3] = none) (hm : fldN (par p 0) 0 2 = 1)
    (ht : s.nvm.trial = 2) : fwCommitBody (cmdOf p) s = match journalRefusal s with
      | some st => cmdRefuse s st
      | none => cmdHeld (startTxn .fwConfirm 0 [] (blowRollback (secVersion s (!s.nvm.activeB)) s)) := by
  refine (judged_of_none _ _ hr).trans ?_
  rw [par_eq, hm, if_neg (by decide), if_pos rfl, if_neg (not_not.2 ht)] <;> rfl

end

theorem activate_of_closed {s : State} (h : s.nvm.updateLength = none) : activate s = cmdRefuse s .wrongState := by
  rw [activate, h]
  rfl

theorem activate_of_refusal {s : State} {st : Status} (h : s.nvm.updateLength ≠ none) (hj : journalRefusal s = some st) :
    activate s = cmdRefuse s st := by
  obtain ⟨n, hn⟩ := Option.ne_none_iff_exists'.1 h
  rw [activate, hn, hj]
  rfl

/-- What ACTIVATE answers to a result of the verification. -/
def activated (n : Nat) (s : State) : CmdResult :=
  match n with
  | 1 => { cmdRefuse (fwDone 1 (!s.nvm.activeB) s) .signatureFail 1 with keeps := true }
  | 2 => { cmdRefuse (fwDone 1 (!s.nvm.activeB) s) .signatureFail 2 with keeps := true }
  | 4 => { cmdRefuse (fwDone 2 (!s.nvm.activeB) s) .notPermitted 4 with keeps := true }
  | _ => cmdHeld (startTxn .fwVerified 0 [] s)

theorem activate_of_free {s : State} (h : s.nvm.updateLength.isSome = true) (hj : journalRefusal s = none) :
    activate s = activated (verifyBank s (!s.nvm.activeB)) s := by
  obtain ⟨n, hn⟩ := Option.isSome_iff_exists.1 h
  unfold activate activated
  rw [hn, hj]
  rfl

theorem verifyBank_mem (s : State) (b : Bool) : verifyBank s b ∈ [0, 1, 2, 4] := by
  unfold verifyBank
  extract_lets base len key body sig
  split
  · decide
  · split
    · decide
    · split
      · decide
      · split <;> decide

theorem verifyBank_of_level {s : State} {b : Bool} (h : 32 < secVersion s b) : verifyBank s b ≠ 0 := by
  unfold verifyBank
  extract_lets base len key body sig
  split
  · decide
  · rw [if_pos]
    · decide
    · rw [decide_eq_true h, Bool.or_true]

theorem activated_of_fail {n : Nat} {s : State} (hmem : n ∈ [0, 1, 2, 4]) (hn : n ≠ 0) : (activated n s).held = false ∧
    (activated n s).status = (if n = 4 then .notPermitted else .signatureFail) ∧
    (activated n s).state = fwDone (if n = 4 then 2 else 1) (!s.nvm.activeB) s := by
  simp only [List.mem_cons, List.not_mem_nil, or_false] at hmem
  rcases hmem with rfl | rfl | rfl | rfl
  · exact absurd rfl hn
  all_goals exact ⟨rfl, rfl, rfl⟩

theorem commitEffect_firmware (n : Nat) (s : State) : (commitEffect (.fwBegin n) s).nvm.trial = 0 ∧
    (commitEffect .fwVerified s).nvm.trial = 1 ∧ (commitEffect .fwConfirm s).nvm.trial = 0 ∧
    (commitEffect .fwConfirm s).nvm.activeB = !s.nvm.activeB ∧
    bankState (commitEffect .fwVerified s) (!s.nvm.activeB) = .valid ∧
    bankState (commitEffect (.fwBegin n) s) (!s.nvm.activeB) = .incomplete ∧
    bankState (commitEffect .fwVerified s) s.nvm.activeB = bankState s s.nvm.activeB := by
  have hbank : ∀ (b : Bool) (x : BankState) (u : State), (setBank b x u).nvm.trial = u.nvm.trial ∧
      bankState (setBank b x u) b = x ∧ bankState (setBank (!b) x u) b = bankState u b := by
    intro b x u
    cases b <;> exact ⟨rfl, rfl, rfl⟩
  obtain ⟨hbegin, hincomplete, -⟩ := hbank (!s.nvm.activeB) .incomplete
    { s with nvm := { s.nvm with txnSeq := s.nvm.txnSeq + 1, trial := 0 } }
  obtain ⟨hverified, hvalid, -⟩ := hbank (!s.nvm.activeB) .valid
    { s with nvm := { s.nvm with txnSeq := s.nvm.txnSeq + 1, trial := 1 } }
  obtain ⟨-, -, hother⟩ := hbank s.nvm.activeB .valid
    { s with nvm := { s.nvm with txnSeq := s.nvm.txnSeq + 1, trial := 1 } }
  exact ⟨hbegin, hverified, rfl, rfl, hvalid, hincomplete, hother⟩

theorem toNat_blowRollback (n : Nat) (s : State) : (blowRollback n s).rst.fuses.rollback.toNat =
    min 32 (max s.rst.fuses.rollback.toNat n) := by
  have hlt : min 32 (max s.rst.fuses.rollback.toNat n) < 2 ^ 6 := lt_of_le_of_lt (Nat.min_le_left ..) (by decide)
  rw [blowRollback, BitVec.toNat_ofNat, Nat.mod_eq_of_lt hlt]

theorem directDone_of_idle {s : State} (good : Bool) (n : Nat) (h : s.bureau.executing = none) :
    (directDone good n s).nvm.direct = none ∧
    (directDone good n s).nvm.updateGot = (if good then s.nvm.updateGot + 4 * n else 0) ∧
    (directDone good n s).nvm.updateLength = (if good then s.nvm.updateLength else none) := by
  unfold directDone
  cases good with
  | true =>
    rw [if_pos rfl, finishHeld_of_none (by rw [heldCmd, h])]
    exact ⟨rfl, rfl, rfl⟩
  | false =>
    rw [if_neg Bool.false_ne_true, finishHeld_of_none (by rw [heldCmd, h])]
    exact ⟨rfl, rfl, rfl⟩


/-- Settles O54, from the rules of the update's commands and what each commit record does. -/
theorem firmwareUpdateGoesThroughItsSteps : Obligations.FirmwareUpdateGoesThroughItsSteps := by
  unfold Obligations.FirmwareUpdateGoesThroughItsSteps
  refine ⟨?_, fun t s p s1 h hbad => exec_of_body h rfl (fwBeginBody_of_length hbad) rfl, ?_,
    fun o first pages s hin hgo hdirect hboot hdump => startTxn_of_free o first pages hin hgo hdirect hboot hdump, ?_,
    fun t s p s1 h hnone => exec_of_body h rfl (fwDataBody_of_closed hnone) rfl, ?_,
    fun good n s h => directDone_of_idle good n h,
    fun t s p s1 h hr hm => exec_of_body h rfl (fwCommitBody_of_discard hr hm) rfl, ?_, ?_, ?_, ?_, commitEffect_firmware, ?_, ?_,
    fun s b h => verifyBank_of_level h⟩
  · intro t s p s1 h hlow hhigh halign ht htxn hred
    refine exec_of_held_body (r := cmdHeld (startTxn (.fwBegin (par p 0).toNat) 0 [] s1)) h rfl ?_ rfl
    rw [fwBeginBody_eq hlow hhigh halign, if_neg ht, journalRefusal_of_free htxn hred]
  · intro t s p s1 h hlow hhigh halign
    refine ⟨fun ht => exec_of_body h rfl ((fwBeginBody_eq hlow hhigh halign).trans (if_pos ht)) rfl, fun st ht hj => ?_⟩
    refine exec_of_body h rfl ((fwBeginBody_eq hlow hhigh halign).trans ?_) rfl
    rw [if_neg ht, hj]
  · intro t s p s1 len g h hlen hoff hsize hh hdata hg
    subst hg
    refine exec_of_held_body (r := cmdHeld (dataBegun p s1)) h rfl ((fwDataBody_of_open hlen).trans ?_) rfl
    rw [if_neg (not_not.2 hoff), if_neg (Nat.not_lt.2 hsize), if_neg (by rw [hh]; decide),
      if_neg (by rw [List.isEmpty_iff]; exact hdata)]
  · intro t s p s1 len h hlen
    have hbody := fwDataBody_of_open (p := p) hlen
    refine ⟨fun hoff => exec_of_body h rfl (hbody.trans (if_pos hoff)) rfl, fun hoff hsize => ?_, fun hoff hsize hh => ?_⟩
    · exact exec_of_body h rfl (hbody.trans ((if_neg (not_not.2 hoff)).trans (if_pos hsize))) rfl
    · refine exec_of_body h rfl (hbody.trans ?_) rfl
      rw [if_neg (not_not.2 hoff), if_neg (Nat.not_lt.2 hsize), if_pos hh]
  · intro t s p s1 h hr
    refine ⟨fun hm => exec_of_body h rfl (fwCommitBody_of_undefined hr hm) rfl, ?_, fun st hmode hj => ?_⟩
    · rintro (⟨hm, ht⟩ | ⟨hm, hnone⟩)
      · exact exec_of_body h rfl (fwCommitBody_of_noTrial hr hm ht) rfl
      · exact exec_of_body h rfl ((fwCommitBody_of_activate hr hm).trans (activate_of_closed hnone)) rfl
    · rcases hmode with ⟨hm, ht⟩ | ⟨hm, hsome⟩
      · refine exec_of_body h rfl ((fwCommitBody_of_confirm hr hm ht).trans ?_) rfl
        rw [hj]
      · exact exec_of_body h rfl ((fwCommitBody_of_activate hr hm).trans (activate_of_refusal hsome hj)) rfl
  · intro t s p s1 h hr hm ht htxn hred
    refine exec_of_held_body (r := cmdHeld (startTxn .fwConfirm 0 [] (blowRollback (secVersion s1 (!s1.nvm.activeB)) s1))) h rfl
      ((fwCommitBody_of_confirm hr hm ht).trans ?_) rfl
    rw [journalRefusal_of_free htxn hred]
  · intro t s p s1 h hr hm hopen htxn hred
    have hbody := fwCommitBody_of_activate (s := s1) hr hm
    have hact := activate_of_free hopen (journalRefusal_of_free htxn hred)
    split
    · next hgood =>
      refine exec_of_held_body (r := cmdHeld (startTxn .fwVerified 0 [] s1)) h rfl (hbody.trans (hact.trans ?_)) rfl
      rw [hgood]
      rfl
    · next hbad =>
      obtain ⟨hheld, -, -⟩ := activated_of_fail (s := s1) (verifyBank_mem s1 (!s1.nvm.activeB)) hbad
      exact exec_of_body h rfl hbody (hact ▸ hheld)
  · intro s hopen htxn hred hbad
    obtain ⟨-, hstatus, hstate⟩ := activated_of_fail (s := s) (verifyBank_mem s (!s.nvm.activeB)) hbad
    rw [activate_of_free hopen (journalRefusal_of_free htxn hred)]
    exact ⟨hstatus, hstate⟩
  · intro n s hn hr
    rw [toNat_blowRollback, Nat.min_eq_right (Nat.max_le.2 ⟨hr, hn⟩)]
  · intro n s
    rw [toNat_blowRollback]
    exact Nat.min_le_left ..


/-! ### TW_CONFIG and TW_TRANSFER (R441, R442) -/

section
variable {p : Packet} {s : State} {pt : TwPort} {x : TwPortState} {new : TwCfg}

/-- TW_CONFIG of settings within range. -/
def twConfigJudged (p : Packet) (s : State) (pt : TwPort) (x : TwPortState) (new : TwCfg) : CmdResult :=
  if freerLevel new.level (if pt = .a then s.rst.fuses.twaLevel else s.rst.fuses.twbLevel) ||
      ((cmdOf p).req == twReq pt && (new.role != x.cfg.role || new.taddr != x.cfg.taddr || new.mode != x.cfg.mode)) then
    cmdRefuse s .notPermitted
  else if x.transfer.isSome || x.poll.isSome || x.inOpen || (twHolds x && !((cmdOf p).req == twReq pt)) then
    cmdRefuse s .wrongState
  else
    let keep := ((x.cfg.ibrEn && !x.cfg.role) && (new.ibrEn && !new.role))
    cmdOk (updTw (if keep then s else clearRose pt s) pt fun x => { x with cfg := new, ibrPending := x.ibrPending && keep })

/-- What TW_CONFIG answers, by the check of its settings. -/
def twConfigOf (o : Option Nat) (p : Packet) (s : State) (pt : TwPort) (x : TwPortState) (new : TwCfg) : CmdResult :=
  match o with
  | some i => cmdBad s i
  | none => twConfigJudged p s pt x new

theorem twConfigBody_eq (hpt : pt = (if bitAt (par p 0) 0 then TwPort.b else TwPort.a)) (hx : x = getTw s pt)
    (hnew : new = twCfgOf (overlay (cmdOf p).words (twWords x.cfg)))
    (hr : firstReserved (cmdOf p).words ([0x00FEFFB3, 0xFFFFFFFF] ++ List.replicate 8 0xFFFFFF00) = none) :
    twConfigBody (cmdOf p) s = twConfigOf (twCfgBad new) p s pt x new := by
  subst hnew hx
  have hfuse : (if pt == .a then s.rst.fuses.twaLevel else s.rst.fuses.twbLevel) =
      (if pt = .a then s.rst.fuses.twaLevel else s.rst.fuses.twbLevel) := if_congr beq_iff_eq rfl rfl
  -- `twCfgBad` is made a variable before `twConfigBody` unfolds: else the kernel evaluates it at open words.
  obtain ⟨run, hrun⟩ : ∃ run, run = twConfigBody := ⟨_, rfl⟩
  rw [← hrun]
  delta twConfigBody at hrun
  generalize twCfgBad = check at hrun ⊢
  subst hrun
  have hport : (if bitAt (paramAt (cmdOf p).words 0) 0 = true then TwPort.b else TwPort.a) = pt := hpt.symm
  simp only [judged_of_none _ _ hr, hport, hfuse]
  generalize check _ = o
  cases o <;> rfl
end

section
variable {p : Packet} {s : State} {pt : TwPort} {x : TwPortState} {new : TwCfg}

theorem twConfigJudged_of_forbidden
    (h : freerLevel new.level (if pt = .a then s.rst.fuses.twaLevel else s.rst.fuses.twbLevel) = true ∨
      ((cmdOf p).req = twReq pt ∧ (new.role ≠ x.cfg.role ∨ new.taddr ≠ x.cfg.taddr ∨ new.mode ≠ x.cfg.mode))) :
    twConfigJudged p s pt x new = cmdRefuse s .notPermitted := by
  rw [twConfigJudged, if_pos]
  rw [Bool.or_eq_true, Bool.and_eq_true, Bool.or_eq_true, Bool.or_eq_true, beq_iff_eq, bne_iff_ne, bne_iff_ne, bne_iff_ne,
    or_assoc]
  exact h

theorem twConfigJudged_of_permitted
    (hlevel : freerLevel new.level (if pt = .a then s.rst.fuses.twaLevel else s.rst.fuses.twbLevel) = false)
    (hown : (cmdOf p).req = twReq pt → new.role = x.cfg.role ∧ new.taddr = x.cfg.taddr ∧ new.mode = x.cfg.mode) :
    twConfigJudged p s pt x new =
      if x.transfer.isSome || x.poll.isSome || x.inOpen || (twHolds x && !((cmdOf p).req == twReq pt)) then cmdRefuse s .wrongState
      else
        let keep := ((x.cfg.ibrEn && !x.cfg.role) && (new.ibrEn && !new.role))
        cmdOk (updTw (if keep then s else clearRose pt s) pt fun x =>
          { x with cfg := new, ibrPending := x.ibrPending && keep }) := by
  refine if_neg ?_
  rw [hlevel, Bool.false_or, Bool.and_eq_true, Bool.or_eq_true, Bool.or_eq_true, beq_iff_eq, bne_iff_ne, bne_iff_ne, bne_iff_ne]
  rintro ⟨hreq, hdiff⟩
  obtain ⟨hrole, haddr, hmode⟩ := hown hreq
  rcases hdiff with (h | h) | h
  · exact h hrole
  · exact h haddr
  · exact h hmode

/-- The settings that TW_CONFIG puts in force; a request owed is kept while the port goes on asking. -/
def twConfigured (pt : TwPort) (keep : Bool) (new : TwCfg) (s : State) : State :=
  updTw (if keep then s else clearRose pt s) pt fun x => { x with cfg := new, ibrPending := x.ibrPending && keep }

theorem twConfigured_of_kept : twConfigured pt true new s = updTw s pt fun x => { x with cfg := new } := by
  rw [twConfigured, if_pos rfl]
  simp only [Bool.and_true]

theorem twConfigured_of_cleared : twConfigured pt false new s = updTw (clearRose pt s) pt fun x =>
    { x with cfg := new, ibrPending := false } := by
  rw [twConfigured, if_neg Bool.false_ne_true]
  simp only [Bool.and_false]

theorem twConfigJudged_of_free
    (hlevel : freerLevel new.level (if pt = .a then s.rst.fuses.twaLevel else s.rst.fuses.twbLevel) = false)
    (hown : (cmdOf p).req = twReq pt → new.role = x.cfg.role ∧ new.taddr = x.cfg.taddr ∧ new.mode = x.cfg.mode)
    (ht : x.transfer = none) (hpoll : x.poll = none) (hopen : x.inOpen = false)
    (hheld : twHolds x = false ∨ (cmdOf p).req = twReq pt) : twConfigJudged p s pt x new =
      cmdOk (twConfigured pt ((x.cfg.ibrEn && !x.cfg.role) && (new.ibrEn && !new.role)) new s) := by
  refine (twConfigJudged_of_permitted hlevel hown).trans (if_neg ?_)
  rw [ht, hpoll, hopen]
  rcases hheld with h | h <;> simp [h]

theorem twConfigJudged_of_busy
    (hlevel : freerLevel new.level (if pt = .a then s.rst.fuses.twaLevel else s.rst.fuses.twbLevel) = false)
    (hown : (cmdOf p).req ≠ twReq pt) (hbusy : x.transfer ≠ none ∨ x.poll ≠ none ∨ x.inOpen = true ∨ twHolds x = true) :
    twConfigJudged p s pt x new = cmdRefuse s .wrongState := by
  refine (twConfigJudged_of_permitted hlevel fun h => absurd h hown).trans (if_pos ?_)
  rw [beq_eq_false_iff_ne.2 hown, Bool.not_false, Bool.and_true, Bool.or_eq_true, Bool.or_eq_true, Bool.or_eq_true,
    Option.isSome_iff_ne_none, Option.isSome_iff_ne_none, or_assoc, or_assoc]
  exact hbusy

/-- The transfer that TW_TRANSFER asks for waits on its port. -/
def twTransferBegun (p : Packet) (pt : TwPort) (s : State) : State :=
  updTw s pt fun x => { x with transfer := some {
    addr := fld (par p 0) 16 7
    split := bitAt (par p 0) 25
    write := (wordsBytes ((cmdOf p).words.drop 2)).take (fldN (par p 1) 0 9)
    readLen := fldN (par p 1) 16 9
    started := x.bus.isNone } }

theorem twTransferBody_eq (hpt : pt = (if bitAt (par p 0) 24 then TwPort.b else TwPort.a))
    (hr : firstReserved (cmdOf p).words [0x037F0000, 0x01FF01FF] = none) : twTransferBody (cmdOf p) s =
    if fld (par p 0) 16 7 == twAddr s pt then cmdBad s 0
    else if 256 < fldN (par p 1) 16 9 || 256 < fldN (par p 1) 0 9 then cmdBad s 1
    else if ((cmdOf p).words.drop 2).length ≠ (fldN (par p 1) 0 9 + 3) / 4 then cmdBad s 2
    else if !(getTw s pt).cfg.role then cmdRefuse s .wrongState
    else cmdHeld (twTransferBegun p pt s) := by
  subst hpt
  exact judged_of_none _ _ hr

end

/-! ### The mailbox (R431–R433) -/

section
variable {t : Instant} {s : State} {pt : TwPort} (f : State → State)

theorem twEvent_of_live (h : twLive s = true) : twEvent t f s = .next (f (setNow t s)) := by
  refine congrArg Host.Outcome.next (if_neg fun hc => ?_)
  have hlive : (!pinsChained s && !s.rst.asserted.contains .bureau && s.power.phase != .stow) = true := h
  have hdead : (pinsChained s || s.rst.asserted.contains .bureau || s.power.phase == .stow) = true := hc
  rw [bne, ← Bool.not_or, ← Bool.not_or, hdead] at hlive
  exact absurd hlive (by decide)

theorem twEvent_of_dead (h : twLive s = false) : twEvent t f s = .next (setNow t s) := by
  refine congrArg Host.Outcome.next (if_pos ?_)
  have hdead : (!pinsChained s && !s.rst.asserted.contains .bureau && s.power.phase != .stow) = false := h
  rw [bne, ← Bool.not_or, ← Bool.not_or, Bool.not_eq_false'] at hdead
  exact hdead

end

section
variable {s : State} {pt : TwPort}

/-- Only what a port's own update makes of its state matters. -/
theorem updTw_congr {f g : TwPortState → TwPortState} (h : f (getTw s pt) = g (getTw s pt)) : updTw s pt f = updTw s pt g := by
  cases pt
  · exact congrArg (fun x => { s with twa := x }) h
  · exact congrArg (fun x => { s with twb := x }) h

theorem updTw_same {f : TwPortState → TwPortState} (h : f (getTw s pt) = getTw s pt) : updTw s pt f = s := by
  refine (updTw_congr (g := id) h).trans ?_
  cases pt <;> rfl

theorem mailSegment_of_held (submit : Bool) (h : twHolds (getTw s pt) = true) :
    mailSegment pt submit s = updTw s pt (setMbErr 2) := if_pos h

theorem mailSegment_of_count (submit : Bool) (h : twHolds (getTw s pt) = false)
    (hn : (getTw s pt).mbCount.toNat % 4 ≠ 0 ∨ (getTw s pt).mbCount.toNat < 4 ∨ 128 < (getTw s pt).mbCount.toNat) :
    mailSegment pt submit s = updTw s pt fun x => setMbErr 1 { x with acc := [], inOpen := false } := by
  refine (if_neg (Bool.eq_false_iff.1 h)).trans (if_pos ?_)
  simp only [Bool.or_eq_true, decide_eq_true_eq]
  omega

theorem mailSegment_of_taken {n : Nat} (submit : Bool) (h : twHolds (getTw s pt) = false) (hn : n = (getTw s pt).mbCount.toNat)
    (hlow : 4 ≤ n) (hhigh : n ≤ 128) (halign : n % 4 = 0) :
    mailSegment pt submit s =
      let bs := ((getTw s pt).acc ++ (getTw s pt).mbIn.take n).take 148
      let s := updTw s pt fun x => { x with
        acc := if submit then [] else bs, inOpen := !submit, held := submit, mbIn := List.replicate 128 0 }
      if submit then arrivePacket { req := twReq pt, dest := 127, bytes := bs, arrived := s.now } s else s := by
  subst hn
  refine (if_neg (Bool.eq_false_iff.1 h)).trans (if_neg ?_)
  simp only [Bool.or_eq_true, decide_eq_true_eq]
  omega

theorem mailNext_of_none (h : (getTw s pt).replyReady = false) : mailNext pt s = s := by
  refine updTw_same (if_pos ?_)
  rw [h]
  rfl

theorem mailNext_of_last (h : (getTw s pt).replyReady = true) (hrest : (getTw s pt).replyRest = []) :
    mailNext pt s = updTw s pt fun x => { x with replyReady := false, replyMore := false, replyLen := 0, ibrPending := false } := by
  refine updTw_congr ((if_neg ?_).trans (if_pos ?_))
  · rw [h]
    decide
  · rw [hrest]
    rfl

theorem mailNext_of_more (h : (getTw s pt).replyReady = true) (hrest : (getTw s pt).replyRest ≠ []) :
    mailNext pt s = updTw s pt (loadSegment (getTw s pt).replyRest) := by
  refine updTw_congr ((if_neg ?_).trans (if_neg ?_))
  · rw [h]
    decide
  · rw [List.isEmpty_iff]
    exact hrest

theorem mailAbort_kept (s : State) (pt : TwPort) : (getTw (mailAbort pt s) pt).acc = [] ∧ (getTw (mailAbort pt s) pt).inOpen = false ∧
    (getTw (mailAbort pt s) pt).held = false ∧ (getTw (mailAbort pt s) pt).replyReady = false ∧
    (getTw (mailAbort pt s) pt).replyLen = 0 ∧ (getTw (mailAbort pt s) pt).mbIn = (getTw s pt).mbIn ∧
    (getTw (mailAbort pt s) pt).cfg = (getTw s pt).cfg ∧
    { mailAbort pt s with bureau := s.bureau, twa := s.twa, twb := s.twb } = s := by
  cases pt <;> exact ⟨rfl, rfl, rfl, rfl, rfl, rfl, rfl, rfl⟩

theorem mute_of_mailAbort {q : Packet} (h : q ∈ (mailAbort pt s).bureau.queue) (hq : q.req = twReq pt) : q.mute = true := by
  have hmap : (mailAbort pt s).bureau.queue =
      s.bureau.queue.map fun q => if q.req == twReq pt then { q with mute := true } else q := by
    cases pt <;> rfl
  rw [hmap] at h
  obtain ⟨r, -, rfl⟩ := List.mem_map.1 h
  split at hq
  · next hr => rw [if_pos hr]
  · next hr => exact absurd (beq_iff_eq.2 hq) hr

theorem loadSegment_of_more {bs : List Byte} (x : TwPortState) (h : 96 < bs.length) : (loadSegment bs x).mbOut = bs.take 96 ∧
    (loadSegment bs x).replyLen.toNat = 96 ∧ (loadSegment bs x).replyMore = true ∧ (loadSegment bs x).replyRest = bs.drop 96 := by
  have hlen : (bs.take 96).length = 96 := List.length_take_of_le h.le
  refine ⟨?_, ?_, decide_eq_true h, rfl⟩
  · refine (List.take_append_of_le_length hlen.ge).trans ?_
    rw [List.take_take, Nat.min_self]
  · change (BitVec.ofNat 8 (min 96 bs.length)).toNat = 96
    rw [Nat.min_eq_left h.le]
    rfl

theorem loadSegment_of_last {bs : List Byte} (x : TwPortState) (h : bs.length ≤ 96) :
    (loadSegment bs x).mbOut.take bs.length = bs ∧ (loadSegment bs x).replyLen.toNat = bs.length ∧
    (loadSegment bs x).replyMore = false ∧ (loadSegment bs x).replyRest = [] := by
  refine ⟨?_, ?_, decide_eq_false (Nat.not_lt.2 h), List.drop_eq_nil_of_le h⟩
  · change ((bs.take 96 ++ List.replicate 96 0).take 96).take bs.length = bs
    rw [List.take_of_length_le h, List.take_take, Nat.min_eq_left h, List.take_left]
  · change (BitVec.ofNat 8 (min 96 bs.length)).toNat = bs.length
    rw [Nat.min_eq_right h, BitVec.toNat_ofNat, Nat.mod_eq_of_lt (by omega)]

end


/-- Settles O55, from the rules of the mailbox and of the ports' commands. -/
theorem twoWireCommandsAndMailbox : Obligations.TwoWireCommandsAndMailbox := by
  unfold Obligations.TwoWireCommandsAndMailbox
  refine ⟨?_, ?_, ?_, ?_, ?_, ?_, fun t pt s h => ⟨twEvent_of_dead _ h, twEvent_of_dead _ h, twEvent_of_dead _ h, twEvent_of_dead _ h⟩,
    ?_, ?_, ?_, ?_, ?_, ?_, ?_, ?_, fun bs x => loadSegment_of_more x, fun bs x => loadSegment_of_last x⟩
  · intro t s p s1 x new pt h hpt hx hnew hr hgood hlevel hown ht hpoll hopen hheld
    have hbody : twConfigBody (cmdOf p) s1 =
        cmdOk (twConfigured pt ((x.cfg.ibrEn && !x.cfg.role) && (new.ibrEn && !new.role)) new s1) := by
      rw [twConfigBody_eq hpt hx hnew hr, hgood]
      exact twConfigJudged_of_free hlevel hown ht hpoll hopen hheld
    refine ⟨fun h1 h2 h3 h4 => ?_, fun hasks => ?_⟩
    · rw [h1, h2, h3, h4] at hbody
      exact exec_of_body h rfl (hbody.trans (congrArg (cmdOk ·) twConfigured_of_kept)) rfl
    · have hkeep : ((x.cfg.ibrEn && !x.cfg.role) && (new.ibrEn && !new.role)) = false := by
        rcases hasks with h | h | h | h <;> simp [h]
      rw [hkeep] at hbody
      exact exec_of_body h rfl (hbody.trans (congrArg (cmdOk ·) twConfigured_of_cleared)) rfl
  · intro t s p s1 x new pt h hpt hx hnew hr hgood hforbid
    refine exec_of_body h rfl ((twConfigBody_eq hpt hx hnew hr).trans ?_) rfl
    rw [hgood]
    exact twConfigJudged_of_forbidden hforbid
  · intro t s p s1 x new pt h hpt hx hnew hr
    refine ⟨fun i hbad => ?_, fun hgood hlevel hown hbusy => ?_⟩
    · refine exec_of_body h rfl ((twConfigBody_eq hpt hx hnew hr).trans ?_) rfl
      rw [hbad]
      rfl
    · refine exec_of_body h rfl ((twConfigBody_eq hpt hx hnew hr).trans ?_) rfl
      rw [hgood]
      exact twConfigJudged_of_busy hlevel hown hbusy
  · intro t s p s1 pt h hpt hr haddr hrd hwr hlen hrole
    refine exec_of_held_body (r := cmdHeld (twTransferBegun p pt s1)) h rfl ((twTransferBody_eq hpt hr).trans ?_) rfl
    rw [if_neg (by rw [beq_iff_eq]; exact haddr), if_neg (by simp [hrd, hwr]), if_neg (not_not.2 hlen), if_neg (by rw [hrole]; decide)]
  · intro t s p s1 pt h hpt hr haddr hrd hwr hlen hrole
    refine exec_of_body h rfl ((twTransferBody_eq hpt hr).trans ?_) rfl
    rw [if_neg (by rw [beq_iff_eq]; exact haddr), if_neg (by simp [hrd, hwr]), if_neg (not_not.2 hlen), if_pos (by rw [hrole]; decide)]
  · intro t s p s1 pt h hpt hr
    have hbody := twTransferBody_eq (s := s1) hpt hr
    refine ⟨fun haddr => exec_of_body h rfl (hbody.trans (if_pos (beq_iff_eq.2 haddr))) rfl, fun haddr hsize => ?_,
      fun haddr hrd hwr hlen => ?_⟩
    · refine exec_of_body h rfl (hbody.trans ?_) rfl
      rw [if_neg (by rw [beq_iff_eq]; exact haddr), if_pos (by simpa using hsize)]
    · refine exec_of_body h rfl (hbody.trans ?_) rfl
      rw [if_neg (by rw [beq_iff_eq]; exact haddr), if_neg (by simp [hrd, hwr]), if_pos hlen]
  · intro t pt s h
    obtain ⟨hacc, hopen, hheld, hready, hlen, hin, hcfg, hrest⟩ := mailAbort_kept (setNow t s) pt
    have hport : getTw (setNow t s) pt = getTw s pt := by cases pt <;> rfl
    exact ⟨_, twEvent_of_live _ h, hacc, hopen, hheld, hready, hlen, hin.trans (congrArg _ hport), hcfg.trans (congrArg _ hport),
      hrest, fun q hq hreq => mute_of_mailAbort hq hreq⟩
  all_goals
    intro t pt s
    have hport : getTw (setNow t s) pt = getTw s pt := by cases pt <;> rfl
    rw [← hport]
  · intro n h hheld hn hlow hhigh halign
    refine (twEvent_of_live _ h).trans (congrArg Host.Outcome.next ((mailSegment_of_taken false hheld hn hlow hhigh halign).trans ?_))
    exact (if_neg Bool.false_ne_true).trans (updTw_congr rfl)
  · intro n h hheld hn hlow hhigh halign
    refine (twEvent_of_live _ h).trans (congrArg Host.Outcome.next ((mailSegment_of_taken true hheld hn hlow hhigh halign).trans ?_))
    simp only [if_true, Bool.not_true, updTw_now]
  · intro h hheld
    exact ⟨(twEvent_of_live _ h).trans (congrArg Host.Outcome.next (mailSegment_of_held true hheld)),
      (twEvent_of_live _ h).trans (congrArg Host.Outcome.next (mailSegment_of_held false hheld))⟩
  · intro h hheld hn
    exact ⟨_, rfl, (twEvent_of_live _ h).trans (congrArg Host.Outcome.next (mailSegment_of_count true hheld hn)),
      (twEvent_of_live _ h).trans (congrArg Host.Outcome.next (mailSegment_of_count false hheld hn))⟩
  · exact fun h hready => (twEvent_of_live _ h).trans (congrArg Host.Outcome.next (mailNext_of_none hready))
  · exact fun h hready hrest => (twEvent_of_live _ h).trans (congrArg Host.Outcome.next (mailNext_of_last hready hrest))
  · exact fun h hready hrest => (twEvent_of_live _ h).trans (congrArg Host.Outcome.next (mailNext_of_more hready hrest))


/-! ### What answering a packet and waking up leave of the two-wire ports -/

/-- A two-wire port without what a reply writes to its mailbox. -/
def twLink (x : TwPortState) : TwPortState :=
  { x with held := false, ibrPending := false, mbOut := [], replyLen := 0, replyReady := false, replyMore := false, replyRest := [] }

/-- The power state and the two-wire ports, but for their replies. -/
def linkView (s : State) : PowerPhase × TwPortState × TwPortState := (s.power.phase, twLink s.twa, twLink s.twb)

theorem linkView_updTw {p : TwPort} {f : TwPortState → TwPortState} (h : ∀ x, twLink (f x) = twLink x) (s : State) :
    linkView (updTw s p f) = linkView s := by
  cases p
  · exact congrArg (fun x => (s.power.phase, x, twLink s.twb)) (h s.twa)
  · exact congrArg (fun x => (s.power.phase, twLink s.twa, x)) (h s.twb)

theorem twLink_of_linkView {s u : State} (h : linkView u = linkView s) (p : TwPort) : twLink (getTw u p) = twLink (getTw s p) := by
  obtain ⟨-, h⟩ := Prod.mk.inj h
  obtain ⟨ha, hb⟩ := Prod.mk.inj h
  cases p
  · exact ha
  · exact hb

theorem linkView_queuePacket (ty pr : Nat) (d : BitVec 7) (po : BitVec 9) (b : Bool) (ws : List Word) (s : State) :
    linkView (queuePacket ty pr d po b ws s) = linkView s := by
  simp only [queuePacket]
  generalize packetSlots s ty pr d po b ws = l
  have hstep : ∀ u x, linkView (queueSlot x u) = linkView u := fun _ _ => rfl
  exact view_foldl hstep l s

theorem linkView_mailReply (p : TwPort) (bs : List Byte) (s : State) : linkView (mailReply p bs s) = linkView s := by
  unfold mailReply
  refine linkView_updTw ?_ s
  intro x
  rfl

theorem linkView_deliver (p : Packet) (ws : List Word) (s : State) : linkView (deliver p ws s) = linkView s := by
  simp only [deliver]
  split
  · split
    · rfl
    · exact linkView_mailReply ..
  · split
    · rfl
    · exact linkView_mailReply ..
  · exact linkView_queuePacket ..

theorem linkView_unanswered (p : Packet) (s : State) : linkView (unanswered p s) = linkView s := by
  simp only [unanswered]
  split
  · split
    · rfl
    · exact linkView_updTw (p := .a) (fun _ => rfl) s
  · split
    · rfl
    · exact linkView_updTw (p := .b) (fun _ => rfl) s
  · rfl

theorem linkView_countReply (st : Status) (s : State) : linkView (countReply st s) = linkView s := by
  simp only [countReply]
  split <;> split <;> rfl

theorem linkView_answer (p : Packet) (r : CmdResult) (s : State) : linkView (answer p r s) = linkView s := by
  simp only [answer]
  split
  · exact (linkView_unanswered ..).trans (linkView_countReply r.status s)
  · exact (linkView_deliver ..).trans (linkView_countReply r.status s)

theorem linkView_resendReply (p : Packet) (x : StoredReply) (s : State) : linkView (resendReply p x s) = linkView s := by
  simp only [resendReply]
  split
  · exact linkView_unanswered ..
  · exact linkView_deliver ..

theorem linkView_retryOr {p : Packet} {s u : State} {q : Option StoredReply} {r : Option (Status × Nat)}
    (h : retryOr p s q r = some u) : linkView u = linkView s := by
  cases q with
  | some x => exact Option.some.inj h ▸ linkView_resendReply p x s
  | none =>
    cases r with
    | none => exact absurd h (Option.some_ne_none u).symm
    | some v => exact Option.some.inj h ▸ linkView_answer ..

theorem linkView_preAnswer {p : Packet} {s u : State} (h : preAnswer p s = some u) : linkView u = linkView s := by
  unfold preAnswer at h
  split at h
  · split at h
    · exact Option.some.inj h ▸ linkView_answer ..
    · exact linkView_retryOr h
  · exact linkView_retryOr h

theorem linkView_settle (n : Nat) (s : State) : linkView (settle n s) = linkView s := by
  induction n generalizing s with
  | zero => rfl
  | succ n ih =>
    simp only [settle]
    split
    · rfl
    · next p rest _ =>
      split
      · rfl
      · next u hu =>
        have hu := linkView_preAnswer hu
        exact (ih u).trans hu

theorem linkView_settleAll (s : State) : linkView (settleAll s) = linkView s := linkView_settle ..

theorem linkView_arbitrate (s : State) : linkView (arbitrate s) = linkView s := by
  obtain ⟨g, l, n, e, h⟩ := arbitrate_eq s
  rw [h]
  rfl

theorem linkView_updPll (p : Pll) (f : PllState → PllState) (s : State) : linkView (updPll p f s) = linkView s := by
  cases p <;> rfl

theorem linkView_relock (p : Pll) (s : State) : linkView (relock p s) = linkView s := by
  unfold relock startLock
  extract_lets ran c s1
  have h1 : linkView s1 = linkView s := linkView_updPll ..
  split
  · split
    · exact h1
    · exact h1
  · exact linkView_updPll ..

theorem linkView_updPort (p : Port) (f : TrunkPort → TrunkPort) (s : State) : linkView (updPort s p f) = linkView s := by
  cases p <;> rfl

theorem linkView_driveDue (p : Port) (s : State) : linkView (driveDue p s) = linkView s :=
  driveDue_state linkView (fun _ _ => rfl) p s

theorem linkView_setPortRate (p : Port) (s : State) : linkView (setPortRate p s) = linkView s := by
  unfold setPortRate
  extract_lets x w
  split
  · rfl
  · exact (linkView_relock ..).trans ((linkView_updPll ..).trans (linkView_updPort ..))

theorem linkView_startAttempt (p : Port) (fast : Bool) (s : State) : linkView (startAttempt p fast s) = linkView s := by
  unfold startAttempt
  extract_lets +onlyGivenNames s1 x rec0
  refine (linkView_arbitrate _).trans ?_
  split
  · exact (linkView_updPort ..).trans (linkView_updPort ..)
  · exact (linkView_driveDue ..).trans ((linkView_setPortRate ..).trans ((linkView_updPort ..).trans (linkView_updPort ..)))

theorem linkView_wakePort (p : Port) (s : State) : linkView (wakePort p s) = linkView s := by
  unfold wakePort
  split
  · exact linkView_startAttempt ..
  · exact linkView_driveDue ..

/-- A port that leaves Stow is idle, with its two-wire ports as they were. -/
theorem linkView_wakeStow {s : State} (h : s.power.phase = .stow) : linkView (wakeStow s) = (.idle, twLink s.twa, twLink s.twb) := by
  unfold wakeStow
  rw [if_neg (by rw [h]; decide)]
  extract_lets eng west east pow mcv s1 s2 s3
  have h2 : linkView s2 = (.idle, twLink s.twa, twLink s.twb) := (linkView_relock ..).trans rfl
  have h3 : linkView s3 = linkView s2 := by
    unfold s3
    split
    · exact linkView_relock ..
    · rfl
  exact (linkView_arbitrate _).trans ((linkView_settleAll _).trans ((linkView_wakePort ..).trans ((linkView_wakePort ..).trans (h3.trans h2))))


/-! ### Transactions on a two-wire bus (R427, R429, R434–R436) -/

theorem updTw_updTw (p : TwPort) (f g : TwPortState → TwPortState) (s : State) :
    updTw (updTw s p f) p g = updTw s p fun x => g (f x) := by
  cases p <;> rfl

theorem twAnswers_updTw {p : TwPort} {f : TwPortState → TwPortState} (hf : ∀ x, (f x).cfg = x.cfg) (s : State) :
    twAnswers (updTw s p f) p = twAnswers s p := by
  have haddr : twAddr (updTw s p f) p = twAddr s p := by
    rw [twAddr, twAddr, getTw_updTw, hf]
    cases p <;> rfl
  rw [twAnswers, twAnswers, haddr]
  cases p <;> rfl

theorem twAddr_updTw {p : TwPort} {f : TwPortState → TwPortState} (hf : ∀ x, (f x).cfg = x.cfg) (s : State) :
    twAddr (updTw s p f) p = twAddr s p := by
  rw [twAddr, twAddr, getTw_updTw, hf]
  cases p <;> rfl

theorem twAnswers_setNow (t : Instant) (s : State) (p : TwPort) : twAnswers (setNow t s) p = twAnswers s p := by
  cases p <;> rfl

theorem twAddr_setNow (t : Instant) (s : State) (p : TwPort) : twAddr (setNow t s) p = twAddr s p := by
  cases p <;> rfl

theorem twPasses_setNow (t : Instant) (s : State) (p : TwPort) (n : Nat) : twPasses (setNow t s) p n = twPasses s p n := by
  cases p <;> rfl

theorem twSeen_updTw {p : TwPort} {f : TwPortState → TwPortState} (hf : ∀ x, (f x).cfg = x.cfg) (s : State) :
    twSeen (updTw s p f) p = twSeen s p := by
  rw [twSeen, twSeen, twFilter, twFilter, getTw_updTw, hf]
  cases p <;> rfl

theorem pinsChained_of_answers {s : State} {p : TwPort} (h : twAnswers s p = true) : pinsChained s = false := by
  have h : (!pinsChained s && !s.rst.asserted.contains .bureau && !reservedAddr (twAddr s p) &&
    (s.power.phase != .stow || bitAt s.power.wakeTw (twNo p))) = true := h
  rw [Bool.and_eq_true, Bool.and_eq_true, Bool.and_eq_true, Bool.not_eq_true'] at h
  exact h.1.1.1

/-- What an aborted transaction leaves of its port. -/
def stopCut (mid : Bool) (x : TwPortState) : TwPortState :=
  match x.bus with
  | some b => if b.addressed && mid then { x with aborted := satInc x.aborted } else x
  | none => x

theorem stopCut_cfg (mid : Bool) (x : TwPortState) : (stopCut mid x).cfg = x.cfg := by
  unfold stopCut
  split
  · split <;> rfl
  · rfl

theorem stopCut_of_whole (x : TwPortState) : stopCut false x = x := by
  unfold stopCut
  split
  · rw [Bool.and_false, if_neg Bool.false_ne_true]
  · rfl

theorem stopCut_of_cut {x : TwPortState} {b : TwTransaction} (h : x.bus = some b) (hb : b.addressed = true) :
    stopCut true x = { x with aborted := satInc x.aborted } := by
  rw [stopCut, h]
  exact if_pos (by rw [hb]; rfl)

/-- What a START makes of a port: a cut byte aborts its transaction, and its transfer has not begun. -/
def startCut (mid : Bool) (x : TwPortState) : TwPortState :=
  { stopCut mid x with transfer := (stopCut mid x).transfer.map fun z => { z with started := false } }

theorem startCut_cfg (mid : Bool) (x : TwPortState) : (startCut mid x).cfg = x.cfg := stopCut_cfg mid x

theorem startCut_of_whole (x : TwPortState) :
    startCut false x = { x with transfer := x.transfer.map fun z => { z with started := false } } := by
  rw [startCut, stopCut_of_whole]

theorem startCut_of_cut {x : TwPortState} {b : TwTransaction} (h : x.bus = some b) (hb : b.addressed = true) :
    startCut true x =
      { x with aborted := satInc x.aborted, transfer := x.transfer.map fun z => { z with started := false } } := by
  rw [startCut, stopCut_of_cut h hb]

section
variable {t : Instant} {s : State} {pt : TwPort}

theorem exec_twStart {a : Byte} {e : BusEdge} (hchain : pinsChained s = false) (hp : twPasses s pt e.lasts = true) :
    exec (.twStart t pt a e) s = .next (if twAnswers s pt && fld a 1 7 == twAddr s pt then
        addressed pt (bitAt a 0) (updTw (setNow t s) pt (startCut e.midByte))
      else updTw (setNow t s) pt fun x => { startCut e.midByte x with bus := some ⟨false, bitAt a 0, true⟩ }) := by
  have hcut : holdTransfer pt (cutByte pt e.midByte (setNow t s)) = updTw (setNow t s) pt (startCut e.midByte) := updTw_updTw ..
  change execTwStart t pt a e s = _
  unfold execTwStart
  rw [if_neg (by rw [twPasses_setNow, hp, show pinsChained (setNow t s) = pinsChained s from rfl, hchain]; decide)]
  simp only [hcut, twAnswers_updTw (startCut_cfg _), twAddr_updTw (startCut_cfg _), twAnswers_setNow, twAddr_setNow, updTw_updTw]

theorem exec_twStart_missed {a : Byte} {e : BusEdge} (h : twPasses s pt e.lasts = false ∨ pinsChained s = true) :
    exec (.twStart t pt a e) s = .next (setNow t s) := by
  change execTwStart t pt a e s = _
  unfold execTwStart
  rw [if_pos]
  rw [twPasses_setNow, show pinsChained (setNow t s) = pinsChained s from rfl]
  rcases h with h | h <;> simp [h]

theorem exec_twStop_missed {e : BusEdge} (h : twPasses s pt e.lasts = false ∨ pinsChained s = true) :
    exec (.twStop t pt e) s = .next (setNow t s) := by
  change execTwStop t pt e s = _
  unfold execTwStop
  rw [if_pos]
  rw [twPasses_setNow, show pinsChained (setNow t s) = pinsChained s from rfl]
  rcases h with h | h <;> simp [h]

theorem exec_twStop {e : BusEdge} (hchain : pinsChained s = false) (hp : twPasses s pt e.lasts = true) :
    exec (.twStop t pt e) s =
      .next (updTw (setNow t s) pt fun x => busIdle (twSeen (setNow t s) pt) (stopCut e.midByte x)) := by
  have hcut : cutByte pt e.midByte (setNow t s) = updTw (setNow t s) pt (stopCut e.midByte) := rfl
  change execTwStop t pt e s = _
  unfold execTwStop
  rw [if_neg (by rw [twPasses_setNow, hp, show pinsChained (setNow t s) = pinsChained s from rfl, hchain]; decide)]
  simp only [hcut, twSeen_updTw (stopCut_cfg _), updTw_updTw]

theorem addressed_of_awake {r : Bool} (hph : s.power.phase ≠ .stow) (hw : bitAt s.power.wakeTw (twNo pt) = false) :
    addressed pt r s = updTw s pt fun x => { x with matchCount := satInc x.matchCount, bus := some ⟨true, r, true⟩ } := by
  rw [addressed, if_neg (by rw [beq_iff_eq]; exact hph), if_neg (by rw [hw]; decide)]

theorem addressed_of_stow {r : Bool} (hph : s.power.phase = .stow) : (addressed pt r s).power.phase = .idle ∧
    (getTw (addressed pt r s) pt).pointer = 0 ∧ (getTw (addressed pt r s) pt).matchCount = satInc (getTw s pt).matchCount ∧
    (getTw (addressed pt r s) pt).bus = some ⟨true, r, true⟩ := by
  have hview : linkView (wakeStow s) = (.idle, twLink s.twa, twLink s.twb) := linkView_wakeStow hph
  have hlink : twLink (getTw (wakeStow s) pt) = twLink (getTw s pt) := by
    obtain ⟨-, h⟩ := Prod.mk.inj hview
    obtain ⟨ha, hb⟩ := Prod.mk.inj h
    cases pt
    · exact ha
    · exact hb
  have heq : addressed pt r s = updTw (wakeStow s) pt fun x =>
      { x with pointer := 0, matchCount := satInc x.matchCount, bus := some ⟨true, r, true⟩ } := by
    rw [addressed, if_pos (beq_iff_eq.2 hph), updTw_updTw]
  rw [heq, getTw_updTw]
  have hcount := congrArg TwPortState.matchCount hlink
  refine ⟨?_, rfl, congrArg satInc hcount, rfl⟩
  rw [updTw_power]
  exact congrArg Prod.fst hview

theorem exec_twSclTimeout {b : TwTransaction} (hchain : pinsChained s = false) (hbus : (getTw s pt).bus = some b)
    (hb : b.addressed = true) : exec (.twSclTimeout t pt) s = .next (updTw (setNow t s) pt fun x =>
      { x with bus := some ⟨false, false, false⟩, aborted := satInc x.aborted }) := by
  change execTwSclTimeout t pt s = _
  unfold execTwSclTimeout
  refine congrArg Host.Outcome.next ((if_neg ?_).trans (updTw_congr ?_))
  · rw [show pinsChained (setNow t s) = pinsChained s from rfl, hchain]
    decide
  rw [getTw_setNow, hbus]
  exact if_pos hb

/-! ### The window (R428–R430) -/

theorem inTransaction_of_first {x : TwPortState} {r : Bool} (h : x.bus = some ⟨true, r, true⟩) : inTransaction x r = true := by
  rw [inTransaction, h]
  cases r <;> rfl

theorem exec_twWindowWrite_two {a b : Byte} (h : twAnswers s pt = true) (hbus : (getTw s pt).bus = some ⟨true, false, true⟩) :
    exec (.twWindowWrite t pt [a, b]) s = .next (writeByte pt b (updTw (setNow t s) pt fun x =>
      { x with bus := some ⟨true, false, false⟩, pointer := a })) := by
  change execTwWindowWrite t pt [a, b] s = _
  unfold execTwWindowWrite
  have hin : inTransaction (getTw s pt) false = true := inTransaction_of_first hbus
  have hopen : openBus pt false (setNow t s) = setNow t s := if_pos (by rw [getTw_setNow, hin])
  rw [if_neg (by rw [twAnswers_setNow, h]; decide)]
  simp only [hopen, getTw_setNow, hbus, hin, Bool.not_true, if_neg Bool.false_ne_true, if_true, List.foldl_cons, List.foldl_nil,
    updTw_updTw]

theorem exec_twWindowWrite_unanswered {bs : List Byte} (h : twAnswers s pt = false) :
    exec (.twWindowWrite t pt bs) s = .next (setNow t s) := by
  change execTwWindowWrite t pt bs s = _
  unfold execTwWindowWrite
  rw [if_pos (by rw [twAnswers_setNow, h]; decide)]

theorem exec_twWindowRead_unanswered {n : Nat} (h : twAnswers s pt = false) :
    exec (.twWindowRead t pt n) s = .next (setNow t s) := by
  change execTwWindowRead t pt n s = _
  unfold execTwWindowRead
  rw [if_pos (by rw [twAnswers_setNow, h]; decide)]

theorem exec_twWindowRead {n : Nat} (h : twAnswers s pt = true) (hbus : (getTw s pt).bus = some ⟨true, true, true⟩) :
    exec (.twWindowRead t pt n) s = .next { (readWindow pt n (setNow t s)).2 with
      out := { (readWindow pt n (setNow t s)).2.out with
        twReads := (readWindow pt n (setNow t s)).2.out.twReads ++ [(pt, (readWindow pt n (setNow t s)).1)] } } := by
  change execTwWindowRead t pt n s = _
  unfold execTwWindowRead
  have hin : inTransaction (getTw (setNow t s) pt) true = true := inTransaction_of_first (by rw [getTw_setNow, hbus])
  have hopen : openBus pt true (setNow t s) = setNow t s := if_pos hin
  rw [if_neg (by rw [twAnswers_setNow, h]; decide)]
  rw [hin, hopen]
  rfl

theorem readWindow_succ (pt : TwPort) (n : Nat) (s : State) : readWindow pt (n + 1) s =
    (windowByte s pt (getTw s pt).pointer.toNat :: (readWindow pt n (updTw s pt fun x => { x with
      pointer := x.pointer + 1, mbErr := if (getTw s pt).pointer.toNat = 0x0A then 0 else x.mbErr })).1,
     (readWindow pt n (updTw s pt fun x => { x with
      pointer := x.pointer + 1, mbErr := if (getTw s pt).pointer.toNat = 0x0A then 0 else x.mbErr })).2) := rfl

theorem readWindow_spec (pt : TwPort) (n : Nat) (s : State) : (readWindow pt n s).1.length = n ∧
    (getTw (readWindow pt n s).2 pt).pointer = (getTw s pt).pointer + BitVec.ofNat 8 n := by
  induction n generalizing s with
  | zero => exact ⟨rfl, (BitVec.add_zero _).symm⟩
  | succ n ih =>
    rw [readWindow_succ]
    obtain ⟨hlen, hptr⟩ := ih (updTw s pt fun x => { x with
      pointer := x.pointer + 1, mbErr := if (getTw s pt).pointer.toNat = 0x0A then 0 else x.mbErr })
    refine ⟨congrArg (· + 1) hlen, hptr.trans ?_⟩
    rw [getTw_updTw, BitVec.add_assoc]
    refine congrArg _ (BitVec.eq_of_toNat_eq ?_)
    rw [BitVec.toNat_add, BitVec.toNat_ofNat, BitVec.toNat_ofNat]
    change (1 + n % 256) % 256 = (n + 1) % 256
    omega

theorem writeByte_eq (b : Byte) (s : State) : writeByte pt b s =
    if (getTw s pt).pointer.toNat = 8 then updTw s pt fun x => { x with pointer := x.pointer + 1, mbCount := b }
    else if (getTw s pt).pointer.toNat = 9 then mailControl pt b (updTw s pt fun x => { x with pointer := x.pointer + 1 })
    else if 0x10 ≤ (getTw s pt).pointer.toNat && (getTw s pt).pointer.toNat < 0x90 then
      updTw s pt fun x => if twHolds x then setMbErr 2 { x with pointer := x.pointer + 1 }
        else { x with pointer := x.pointer + 1, mbIn := x.mbIn.set ((getTw s pt).pointer.toNat - 0x10) b }
    else updTw s pt fun x => { x with pointer := x.pointer + 1 } := by
  unfold writeByte
  simp only [updTw_updTw]
  rfl

end


/-! ### What the window reads as (R428) -/

theorem toNat_byteOf (fs : List (Nat × Nat)) :
    (fld (mkWord fs) 0 8 : Byte).toNat = fs.foldl (fun a f => a + f.1 * 2 ^ f.2) 0 % 256 := by
  rw [toNat_fld, toNat_mkWord, pow_zero, Nat.div_one]
  omega

section
variable {s : State} {pt : TwPort}

theorem windowByte_mailbox : windowByte s pt 0x0A = fld (mkWord [(b2n (getTw s pt).replyReady, 7), (b2n (getTw s pt).replyMore, 6),
    (b2n (getTw s pt).held, 5), (b2n (getTw s pt).inOpen, 4), ((getTw s pt).mbErr.toNat, 0)]) 0 8 := rfl

theorem windowByte_mailbox_fields : fld (windowByte s pt 0x0A) 0 3 = (getTw s pt).mbErr ∧
    bitAt (windowByte s pt 0x0A) 7 = (getTw s pt).replyReady ∧ bitAt (windowByte s pt 0x0A) 6 = (getTw s pt).replyMore ∧
    bitAt (windowByte s pt 0x0A) 5 = (getTw s pt).held ∧ bitAt (windowByte s pt 0x0A) 4 = (getTw s pt).inOpen := by
  rw [windowByte_mailbox]
  generalize getTw s pt = x
  have hready := b2n_le_one x.replyReady
  have hmore := b2n_le_one x.replyMore
  have hheld := b2n_le_one x.held
  have hopen := b2n_le_one x.inOpen
  have herr := x.mbErr.isLt
  refine ⟨BitVec.eq_of_toNat_eq ?_, ?_, ?_, ?_, ?_⟩
  · rw [toNat_fld, toNat_byteOf]
    simp only [List.foldl_cons, List.foldl_nil]
    omega
  all_goals
    rw [bitAt_eq_iff, toNat_byteOf]
    simp only [List.foldl_cons, List.foldl_nil]
    omega

theorem windowByte_id : windowByte s pt 3 =
    fld (mkWord [(b2n s.rst.recovery, 2), (b2n s.rst.fuses.es, 1), (b2n s.rst.fuses.variantMl, 0)]) 0 8 := rfl

theorem windowByte_id_fields : bitAt (windowByte s pt 3) 2 = s.rst.recovery ∧ bitAt (windowByte s pt 3) 1 = s.rst.fuses.es ∧
    bitAt (windowByte s pt 3) 0 = s.rst.fuses.variantMl := by
  rw [windowByte_id]
  have hrec := b2n_le_one s.rst.recovery
  have hes := b2n_le_one s.rst.fuses.es
  have hml := b2n_le_one s.rst.fuses.variantMl
  refine ⟨?_, ?_, ?_⟩
  all_goals
    rw [bitAt_eq_iff, toNat_byteOf]
    simp only [List.foldl_cons, List.foldl_nil]
    omega

theorem windowByte_status : windowByte s pt 4 = fld (mkWord [(powerCode s, 6), (b2n s.bureau.ready, 5), (b2n s.power.hold, 4),
    (b2n !(captureStopped s), 3), (b2n (treeLimp s), 2), (b2n (alertAsserted s), 0)]) 0 8 := rfl

theorem powerCode_lt (s : State) : powerCode s < 4 := by
  unfold powerCode
  split
  · decide
  · decide
  · split <;> decide

theorem windowByte_status_fields : fldN (windowByte s pt 4) 6 2 = powerCode s ∧ bitAt (windowByte s pt 4) 5 = s.bureau.ready ∧
    bitAt (windowByte s pt 4) 4 = s.power.hold ∧ (bitAt (windowByte s pt 4) 3 = !(captureStopped s)) ∧
    bitAt (windowByte s pt 4) 2 = treeLimp s ∧ bitAt (windowByte s pt 4) 0 = alertAsserted s := by
  rw [windowByte_status]
  have hpower := powerCode_lt s
  have hready := b2n_le_one s.bureau.ready
  have hhold := b2n_le_one s.power.hold
  have hrun := b2n_le_one (!captureStopped s)
  have hlimp := b2n_le_one (treeLimp s)
  have halert := b2n_le_one (alertAsserted s)
  refine ⟨?_, ?_, ?_, ?_, ?_, ?_⟩
  · rw [fldN, toNat_fld, toNat_byteOf]
    simp only [List.foldl_cons, List.foldl_nil]
    omega
  all_goals
    rw [bitAt_eq_iff, toNat_byteOf]
    simp only [List.foldl_cons, List.foldl_nil]
    omega

theorem windowByte_of_high {a : Nat} (h : 0x10 ≤ a) : windowByte s pt a =
    if a < 0x90 then (getTw s pt).mbIn.getD (a - 0x10) 0
    else if a < 0xF0 then (getTw s pt).mbOut.getD (a - 0x90) 0
    else if a < 0xF8 then fld (getTw s pt).rtMirror (8 * (a - 0xF0)) 8
    else 0 := by
  unfold windowByte
  extract_lets x b
  rw [if_neg (by omega), if_neg (by omega), if_neg (by omega), if_neg (by omega), if_neg (by omega), if_neg (by omega),
    if_neg (by omega), if_neg (by omega), if_neg (by omega), if_neg (by omega)]

theorem windowByte_mbIn {i : Nat} (h : i < 128) : windowByte s pt (0x10 + i) = (getTw s pt).mbIn.getD i 0 := by
  rw [windowByte_of_high (by omega), if_pos (by omega), Nat.add_sub_cancel_left]

theorem windowByte_mbOut {i : Nat} (h : i < 96) : windowByte s pt (0x90 + i) = (getTw s pt).mbOut.getD i 0 := by
  rw [windowByte_of_high (by omega), if_neg (by omega), if_pos (by omega), Nat.add_sub_cancel_left]

theorem windowByte_rtMirror {i : Nat} (h : i < 8) : windowByte s pt (0xF0 + i) = fld (getTw s pt).rtMirror (8 * i) 8 := by
  rw [windowByte_of_high (by omega), if_neg (by omega), if_neg (by omega), if_pos (by omega), Nat.add_sub_cancel_left]

theorem mailControl_cases (b : Byte) : (b = 0x80 → mailControl pt b s = mailAbort pt s) ∧
    (b = 0x40 → mailControl pt b s = mailNext pt s) ∧ (b = 1 → mailControl pt b s = mailSegment pt true s) ∧
    (b = 2 → mailControl pt b s = mailSegment pt false s) := by
  refine ⟨?_, ?_, ?_, ?_⟩
  · rintro rfl
    simp only [mailControl, show bitAt (0x80 : Byte) 7 = true from rfl, show bitAt (0x80 : Byte) 6 = false from rfl,
      show bitAt (0x80 : Byte) 0 = false from rfl, show bitAt (0x80 : Byte) 1 = false from rfl, if_true, if_neg Bool.false_ne_true]
  · rintro rfl
    simp only [mailControl, show bitAt (0x40 : Byte) 7 = false from rfl, show bitAt (0x40 : Byte) 6 = true from rfl,
      show bitAt (0x40 : Byte) 0 = false from rfl, show bitAt (0x40 : Byte) 1 = false from rfl, if_true, if_neg Bool.false_ne_true]
  · rintro rfl
    simp only [mailControl, show bitAt (1 : Byte) 7 = false from rfl, show bitAt (1 : Byte) 6 = false from rfl,
      show bitAt (1 : Byte) 0 = true from rfl, if_true, if_neg Bool.false_ne_true]
  · rintro rfl
    simp only [mailControl, show bitAt (2 : Byte) 7 = false from rfl, show bitAt (2 : Byte) 6 = false from rfl,
      show bitAt (2 : Byte) 0 = false from rfl, show bitAt (2 : Byte) 1 = true from rfl, if_true, if_neg Bool.false_ne_true]

/-! ### In-band requests and polls (R437–R440) -/

theorem ibrOwed_setNow (t : Instant) (s : State) (pt : TwPort) : ibrOwed (setNow t s) pt = ibrOwed s pt := by
  cases pt <;> rfl

theorem twEvent_same {t : Instant} {f : State → State} (h : f (setNow t s) = setNow t s) :
    twEvent t f s = .next (setNow t s) := by
  cases hl : twLive s with
  | true => exact (twEvent_of_live f hl).trans (congrArg _ h)
  | false => exact twEvent_of_dead f hl

theorem ibrSend_kept (pt : TwPort) (s : State) : (getTw (ibrSend pt s) pt).ibrSent = satInc (getTw s pt).ibrSent ∧
    (getTw (ibrSend pt s) pt).ibrLast = some s.now.real ∧ (getTw (ibrSend pt s) pt).ibrPending = false ∧
    bitAt (ibrSend pt s).events.rose (twNo pt) = false ∧ (ibrSend pt s).events.log = s.events.log := by
  cases pt
  · refine ⟨rfl, rfl, rfl, ?_, rfl⟩
    change bitAt (s.events.rose &&& 2) 0 = false
    rw [bitAt, BitVec.getLsbD_and, show BitVec.getLsbD (2 : BitVec 2) 0 = false from rfl, Bool.and_false]
  · refine ⟨rfl, rfl, rfl, ?_, rfl⟩
    change bitAt (s.events.rose &&& 1) 1 = false
    rw [bitAt, BitVec.getLsbD_and, show BitVec.getLsbD (1 : BitVec 2) 1 = false from rfl, Bool.and_false]

theorem exec_ibrIssue {t : Instant} (hlive : twLive s = true) (ha : ibrAllowed (getTw s pt) = true) (ho : ibrOwed s pt = true)
    (hq : busQuiet (setNow t s) (getTw s pt) = true) : exec (.ibrIssue t pt) s = .next (ibrSend pt (setNow t s)) := by
  change execIbrIssue t pt s = _
  unfold execIbrIssue
  refine (twEvent_of_live _ hlive).trans (congrArg Host.Outcome.next ?_)
  simp only [getTw_setNow, ha, ibrOwed_setNow, ho, hq, Bool.and_self, if_true]

theorem ibrAllowed_of_off {x : TwPortState} (h : x.cfg.ibrEn = false) : ibrAllowed x = false := by
  rw [ibrAllowed, h, Bool.false_and]

theorem exec_ibrIssue_off {t : Instant} (h : (getTw s pt).cfg.ibrEn = false) :
    exec (.ibrIssue t pt) s = .next (setNow t s) := by
  change execIbrIssue t pt s = _
  unfold execIbrIssue
  refine twEvent_same ?_
  simp only [getTw_setNow, ibrAllowed_of_off h, Bool.false_and, if_neg Bool.false_ne_true]

theorem exec_ibrRepeat_off {t : Instant} (h : (getTw s pt).cfg.ibrEn = false) :
    exec (.ibrRepeat t pt) s = .next (setNow t s) := by
  change execIbrRepeat t pt s = _
  unfold execIbrRepeat
  refine twEvent_same ?_
  simp only [getTw_setNow, ibrAllowed_of_off h, Bool.false_and, if_neg Bool.false_ne_true]
  cases (getTw s pt).ibrLast <;> rfl

theorem exec_ibrRepeat {t : Instant} {a : Nat} (hlive : twLive s = true) (ha : ibrAllowed (getTw s pt) = true)
    (ho : ibrOwed s pt = false) (hr : (getTw s pt).replyReady = true) (hlast : (getTw s pt).ibrLast = some a)
    (hq : busQuiet (setNow t s) (getTw s pt) = true)
    (hdue : a + 16000000 * (getTw s pt).cfg.ibrRepeat.toNat ≤ (setNow t s).now.real) :
    exec (.ibrRepeat t pt) s = .next (ibrSend pt (setNow t s)) := by
  change execIbrRepeat t pt s = _
  unfold execIbrRepeat
  refine (twEvent_of_live _ hlive).trans (congrArg Host.Outcome.next ?_)
  simp only [getTw_setNow, hlast, ha, ibrOwed_setNow, ho, hr, hq, decide_eq_true hdue, Bool.true_or, Bool.not_false, Bool.and_self,
    if_true]

theorem exec_ibrRecognised {t : Instant} {ans : List (Option Byte)} (hlive : twLive s = true) (hrole : (getTw s pt).cfg.role = true)
    (hbus : (getTw s pt).bus = none) : exec (.ibrRecognised t pt ans) s = .next
      (if transferring (getTw s pt) then updTw (setNow t s) pt fun x => { x with poll := some ans }
        else runPoll pt ans (setNow t s)) := by
  change execIbrRecognised t pt ans s = _
  unfold execIbrRecognised
  refine (twEvent_of_live _ hlive).trans (congrArg Host.Outcome.next ?_)
  simp only [getTw_setNow, hrole, hbus, Bool.not_true, Option.isSome_none, Bool.or_self, if_neg Bool.false_ne_true]

/-- The candidates of a port are polled: what that puts on the bus. -/
def polled (pt : TwPort) (ans : List (Option Byte)) (s : State) : State :=
  ((getTw s pt).cfg.cands.zipIdx.filter fun c => c.1.valid).foldl
    (fun s c => putBus pt (pollItems c.1 (ans.getD c.2 none).isSome) s) s

theorem runPoll_eq (pt : TwPort) (ans : List (Option Byte)) (s : State) : runPoll pt ans s =
    if (asking (getTw s pt) ans).isEmpty then updTw (polled pt ans s) pt fun x => { x with ibrUnclaimed := satInc x.ibrUnclaimed }
    else (asking (getTw s pt) ans).foldl
      (fun s h => raise 0x0702 (twNo pt) (h.1 + 2 ^ 8 * h.2.1.toNat + 2 ^ 16 * h.2.2.toNat) 0 s) (polled pt ans s) := rfl

theorem polled_out (pt : TwPort) (ans : List (Option Byte)) (s : State) : { polled pt ans s with out := s.out } = s := by
  have hstep : ∀ (u : State) (c : TwCandidate × Nat),
      (fun u : State => { u with out := s.out }) (putBus pt (pollItems c.1 (ans.getD c.2 none).isSome) u) =
        (fun u : State => { u with out := s.out }) u := fun _ _ => rfl
  exact view_foldl (π := fun u : State => { u with out := s.out }) hstep _ s

theorem runPoll_twBus (pt : TwPort) (ans : List (Option Byte)) (s : State) :
    (runPoll pt ans s).out.twBus = (polled pt ans s).out.twBus := by
  rw [runPoll_eq]
  split
  · rw [updTw_out]
  · have hstep : ∀ (u : State) (h : Nat × BitVec 7 × Byte),
        (raise 0x0702 (twNo pt) (h.1 + 2 ^ 8 * h.2.1.toNat + 2 ^ 16 * h.2.2.toNat) 0 u).out.twBus = u.out.twBus :=
      fun u _ => congrArg Outputs.twBus (raise_out ..)
    exact view_foldl (π := fun u : State => u.out.twBus) hstep _ _

theorem polled_one {ans : List (Option Byte)} {c : TwCandidate} (hc : (getTw s pt).cfg.cands = [c]) (hv : c.valid = true) :
    polled pt ans s = putBus pt (pollItems c (ans.getD 0 none).isSome) s := by
  have hlist : ((getTw s pt).cfg.cands.zipIdx.filter fun c => c.1.valid) = [(c, 0)] := by
    rw [hc]
    exact List.filter_cons_of_pos hv
  rw [polled, hlist]
  rfl

/-! ### Controller transfers (R442, R443) -/

theorem transferItems_eq (x : TwTransfer) : transferItems x =
    (if x.write = [] ∧ x.readLen ≠ 0 then [] else [.start, .addr x.addr false] ++ x.write.map .write) ++
    (if x.readLen = 0 then [] else (if x.split = true ∧ x.write ≠ [] then [.stop] else []) ++
      [.start, .addr x.addr true, .read x.readLen]) ++ [.stop] := by
  unfold transferItems
  by_cases hr : x.readLen = 0
  · simp [hr]
  · cases hw : x.write with
    | nil => simp [hr]
    | cons b bs => simp [hr]

theorem transferItems_isEmpty (x : TwTransfer) : (transferItems x).isEmpty = false := by
  rw [Bool.eq_false_iff, ne_eq, List.isEmpty_iff]
  exact List.append_ne_nil_of_right_ne_nil _ (List.cons_ne_nil _ _)

section
variable {t : Instant} {x : TwTransfer}

theorem exec_twTransferRetry (hlive : twLive s = true) (ht : (getTw s pt).transfer = some x) (hw : x.waits = true)
    (hq : busQuiet (setNow t s) (getTw s pt) = true) : exec (.twTransferRetry t pt) s =
      .next (updTw (setNow t s) pt fun y => { y with transfer := some { x with waits := false, started := true } }) := by
  change execTwTransferRetry t pt s = _
  unfold execTwTransferRetry
  refine (twEvent_of_live _ hlive).trans (congrArg Host.Outcome.next ?_)
  simp only [getTw_setNow, ht, hw, hq, Bool.and_self, if_true]

theorem exec_twTransferEnd_waiting {r : TwResult} {bs : List Byte} (h : ∀ x ∈ (getTw s pt).transfer, x.waits = true) :
    exec (.twTransferEnd t pt r bs) s = .next (setNow t s) := by
  change execTwTransferEnd t pt r bs s = _
  unfold execTwTransferEnd
  refine twEvent_same ?_
  simp only [getTw_setNow]
  cases ht : (getTw s pt).transfer with
  | none => rfl
  | some x => exact if_pos (h x ht)

/-- A transfer that ends with its bytes or with a NACK ends only where it was on the bus. -/
theorem twTransferEnd_driven {r : TwResult} (hr : r = .done ∨ r = .addressNack ∨ r = .dataNack) {bs : List Byte}
    (ht : (getTw s pt).transfer = some x) (hw : x.waits = false) {u : State}
    (hu : (if (getTw s pt).bus.isSome || !(x.started || busQuiet (setNow t s) (getTw s pt)) then setNow t s
      else endTransfer pt r bs (updTw (setNow t s) pt (busIdle (twSeen (setNow t s) pt)))) = u)
    (hlive : twLive s = true ∨ u = setNow t s) : exec (.twTransferEnd t pt r bs) s = .next u := by
  change execTwTransferEnd t pt r bs s = _
  unfold execTwTransferEnd
  rcases hlive with hlive | rfl
  · refine (twEvent_of_live _ hlive).trans (congrArg Host.Outcome.next ?_)
    rcases hr with rfl | rfl | rfl <;> simp only [getTw_setNow, ht, hw, if_neg Bool.false_ne_true, hu]
  · refine twEvent_same ?_
    rcases hr with rfl | rfl | rfl <;> simp only [getTw_setNow, ht, hw, if_neg Bool.false_ne_true, hu]

theorem exec_twTransferEnd_sclTimeout (hlive : twLive s = true) (ht : (getTw s pt).transfer = some x) (hw : x.waits = false) :
    exec (.twTransferEnd t pt .sclTimeout []) s = .next (endTransfer pt .sclTimeout [] (raiseStuck pt true (setNow t s))) := by
  change execTwTransferEnd t pt .sclTimeout [] s = _
  unfold execTwTransferEnd
  refine (twEvent_of_live _ hlive).trans (congrArg Host.Outcome.next ?_)
  simp only [getTw_setNow, ht, hw, if_neg Bool.false_ne_true]

theorem exec_twTransferEnd_lost (hlive : twLive s = true) (ht : (getTw s pt).transfer = some x) (hw : x.waits = false) :
    exec (.twTransferEnd t pt .arbitrationLost []) s = .next (loseArbitration pt x (setNow t s)) := by
  change execTwTransferEnd t pt .arbitrationLost [] s = _
  unfold execTwTransferEnd
  refine (twEvent_of_live _ hlive).trans (congrArg Host.Outcome.next ?_)
  simp only [getTw_setNow, ht, hw, if_neg Bool.false_ne_true]

theorem loseArbitration_of_last (h : 3 ≤ x.losses) : loseArbitration pt x s = endTransfer pt .arbitrationLost []
    (updTw s pt fun y => { y with arbLost := satInc y.arbLost, bus := some (y.bus.getD ⟨false, false, true⟩) }) := if_pos h

theorem loseArbitration_of_more (h : x.losses < 3) : loseArbitration pt x s = updTw s pt fun y => { y with
    arbLost := satInc y.arbLost
    bus := some (y.bus.getD ⟨false, false, true⟩)
    transfer := some { x with losses := x.losses + 1, waits := true } } :=
  (if_neg (Nat.not_le.2 h)).trans (updTw_updTw ..)

end

theorem latePoll_of_none (h : (getTw s pt).poll = none) : latePoll pt s = s := by
  rw [latePoll, h]

/-- The state in which the reply of a completed transfer is generated. -/
def transferDone (pt : TwPort) (x : TwTransfer) (s : State) : State :=
  let u := putBus pt (transferItems x) (updTw s pt fun x => { x with transfer := none })
  { u with bureau := { u.bureau with executing := none } }

theorem endTransfer_of_done {bs : List Byte} {x : TwTransfer} {p : Packet} (ht : (getTw s pt).transfer = some x)
    (hpoll : (getTw s pt).poll = none) (hexec : s.bureau.executing = some p) (hop : pktOp p = 0x0702) :
    endTransfer pt .done bs s = settleStow (settleAll (answer p (cmdOk (transferDone pt x s)
      (mkWord [(0, 16), ((bs.take x.readLen).length, 0)] :: bytesWords (bs.take x.readLen))) (transferDone pt x s))) := by
  have hheld : ∀ ws, finishHeld 0x0702 (fun _ s => cmdOk s ws) (putBus pt (transferItems x) (updTw s pt fun x => { x with transfer := none })) =
      settleAll (answer p (cmdOk (transferDone pt x s) ws) (transferDone pt x s)) := by
    intro ws
    have hex : (putBus pt (transferItems x) (updTw s pt fun x => { x with transfer := none })).bureau.executing = some p := by
      change (updTw s pt _).bureau.executing = _
      rw [updTw_bureau, hexec]
    rw [finishHeld, hex]
    exact if_pos hop
  have hlate : ∀ r, (getTw (settleAll (answer p r (transferDone pt x s))) pt).poll = none := by
    intro r
    have hview : linkView (settleAll (answer p r (transferDone pt x s))) = linkView (transferDone pt x s) :=
      (linkView_settleAll _).trans (linkView_answer ..)
    have hlink := congrArg TwPortState.poll (twLink_of_linkView hview pt)
    refine Eq.trans hlink ?_
    have hdone : (getTw (transferDone pt x s) pt).poll = (getTw s pt).poll := by cases pt <;> rfl
    exact hdone.trans hpoll
  unfold endTransfer
  simp only [ht, Option.map_some, Option.getD_some, drivenItems, transferItems_isEmpty, if_neg Bool.false_ne_true]
  refine congrArg settleStow ?_
  refine (congrArg (latePoll pt) (hheld _)).trans (latePoll_of_none (hlate _))

theorem transferDone_kept (pt : TwPort) (x : TwTransfer) (s : State) : (getTw (transferDone pt x s) pt).transfer = none ∧
    (transferDone pt x s).bureau.executing = none ∧
    (transferDone pt x s).out.twBus = s.out.twBus ++ [(pt, transferItems x)] := by
  cases pt <;> exact ⟨rfl, rfl, rfl⟩

theorem exec_busRecovery_freed {t : Instant} {n : Nat} (hlive : twLive s = true) (hrole : (getTw s pt).cfg.role = true) :
    exec (.busRecovery t pt n true) s = .next (updTw (setNow t s) pt fun x =>
      busIdle (twSeen (setNow t s) pt) { x with busRecoveries := satInc x.busRecoveries }) := by
  change execBusRecovery t pt n true s = _
  unfold execBusRecovery
  refine (twEvent_of_live _ hlive).trans (congrArg Host.Outcome.next ?_)
  have hseen := twSeen_updTw (p := pt) (f := fun x => { x with busRecoveries := satInc x.busRecoveries }) (fun _ => rfl) (setNow t s)
  simp only [getTw_setNow, hrole, Bool.not_true, if_neg Bool.false_ne_true, Bool.and_false, if_true, hseen, updTw_updTw]

theorem exec_busRecovery_stuck {t : Instant} {n : Nat} (hlive : twLive s = true) (hrole : (getTw s pt).cfg.role = true) (hn : n ≠ 0)
    (ht : (getTw s pt).transfer = none) (hstuck : (getTw s pt).stuckRaised = false) :
    exec (.busRecovery t pt n false) s = .next (raise 0x0701 (twNo pt) 0 0 (updTw (setNow t s) pt fun x =>
      { x with busRecoveries := satInc x.busRecoveries, stuckRaised := true })) := by
  change execBusRecovery t pt n false s = _
  unfold execBusRecovery
  refine (twEvent_of_live _ hlive).trans (congrArg Host.Outcome.next ?_)
  have hraise : ∀ u a, getTw (raise 0x0701 (twNo pt) a 0 u) pt = getTw u pt := by
    intro u a
    cases pt
    · exact raise_twa ..
    · exact raise_twb ..
  simp only [getTw_setNow, hrole, decide_eq_false hn, Bool.not_true, Bool.false_and, if_neg Bool.false_ne_true, raiseStuck, getTw_updTw,
    hstuck, hraise, ht, Option.isSome_none, updTw_updTw, b2n]

theorem exec_busRecovery_target {t : Instant} {n : Nat} {f : Bool} (hrole : (getTw s pt).cfg.role = false) :
    exec (.busRecovery t pt n f) s = .next (setNow t s) := by
  change execBusRecovery t pt n f s = _
  unfold execBusRecovery
  refine twEvent_same ?_
  simp only [getTw_setNow, hrole, Bool.not_false, if_true]

end

section
variable {s : State} {pt : TwPort}

theorem readWindow_ids (h : (getTw s pt).pointer = 0) :
    readWindow pt 2 s = ([0x16, 0x50], updTw s pt fun x => { x with pointer := 2 }) := by
  have hstep : updTw s pt (fun x => { x with
      pointer := x.pointer + 1, mbErr := if (getTw s pt).pointer.toNat = 0x0A then 0 else x.mbErr }) =
      updTw s pt fun x => { x with pointer := 1 } := by
    refine updTw_congr ?_
    rw [h]
    rfl
  rw [readWindow_succ, hstep, readWindow_succ, h, getTw_updTw, updTw_updTw]
  rfl

theorem readWindow_mailbox (h : (getTw s pt).pointer = 0x0A) :
    readWindow pt 1 s = ([windowByte s pt 0x0A], updTw s pt fun x => { x with pointer := 0x0B, mbErr := 0 }) := by
  have hstep : updTw s pt (fun x => { x with
      pointer := x.pointer + 1, mbErr := if (getTw s pt).pointer.toNat = 0x0A then 0 else x.mbErr }) =
      updTw s pt fun x => { x with pointer := 0x0B, mbErr := 0 } := by
    refine updTw_congr ?_
    rw [h]
    rfl
  rw [readWindow_succ, hstep, h]
  rfl

theorem windowByte_mailbox_setNow (t : Instant) (s : State) (pt : TwPort) :
    windowByte (setNow t s) pt 0x0A = windowByte s pt 0x0A := by
  rw [windowByte_mailbox, windowByte_mailbox, getTw_setNow]

end


/-- Settles O56, from the rules of the bus, the window, the requests and the transfers. -/
theorem twoWireBusEventsAndTransfers : Obligations.TwoWireBusEventsAndTransfers := by
  unfold Obligations.TwoWireBusEventsAndTransfers
  refine ⟨?_, ?_, ?_, ?_, ?_, ?_, fun t pt a e s h => ⟨exec_twStart_missed h, exec_twStop_missed h⟩, ?_,
    fun t pt s b hc hbus hb => exec_twSclTimeout hc hbus hb, fun t pt bs s h => exec_twWindowWrite_unanswered h, ?_, ?_, ?_, ?_,
    fun pt b s => mailControl_cases b, ?_, ?_, ?_, readWindow_spec, fun t pt n s h => exec_twWindowRead_unanswered h, ?_, ?_,
    fun t pt s hlive ha ho hq => exec_ibrIssue hlive ha ho hq, fun t pt s h => ⟨exec_ibrIssue_off h, exec_ibrRepeat_off h⟩,
    fun t pt s a hlive ha ho hr hlast hq hdue => exec_ibrRepeat hlive ha ho hr hlast hq hdue, ibrSend_kept, ?_, ?_, ?_, ?_,
    transferItems_eq, fun x n => ⟨rfl, rfl, rfl⟩, fun t pt s x hlive ht hw hq => exec_twTransferRetry hlive ht hw hq, ?_, ?_, ?_,
    fun t pt s x hlive ht hw => exec_twTransferEnd_sclTimeout hlive ht hw, ?_, fun t pt r bs s h => exec_twTransferEnd_waiting h, ?_, ?_,
    fun t pt n s hlive hrole => exec_busRecovery_freed hlive hrole,
    fun t pt n s hlive hrole hn ht hstuck => exec_busRecovery_stuck hlive hrole hn ht hstuck,
    fun t pt n f s hrole => exec_busRecovery_target hrole⟩
  · intro t pt a n s hp ha hmatch hph hbus ht hw
    have hstart : updTw (setNow t s) pt (startCut false) = setNow t s := by
      refine updTw_same ?_
      rw [getTw_setNow, startCut_of_whole, ht, Option.map_none, ← ht]
    rw [exec_twStart (pinsChained_of_answers ha) hp, ha, hmatch, hstart]
    refine congrArg Host.Outcome.next ((if_pos ?_).trans (addressed_of_awake hph hw))
    rw [beq_self_eq_true, Bool.and_self]
  · intro t pt a n s hc hp hmiss hbus
    rw [exec_twStart hc hp, beq_eq_false_iff_ne.2 hmiss, Bool.and_false, if_neg Bool.false_ne_true]
    simp only [startCut_of_whole]
  · intro t pt a n s hp ha hmatch hph hbus
    obtain ⟨hidle, hptr, hcount, hopen⟩ := addressed_of_stow (pt := pt) (r := bitAt a 0)
      (s := updTw (setNow t s) pt (startCut false)) (by rw [updTw_power]; exact hph)
    refine ⟨_, ?_, hidle, hptr, hcount.trans ?_, hopen⟩
    · rw [exec_twStart (pinsChained_of_answers ha) hp, ha, hmatch]
      exact congrArg Host.Outcome.next (if_pos (by rw [beq_self_eq_true, Bool.and_self]))
    · rw [getTw_updTw, startCut_of_whole, getTw_setNow]
  · intro t pt a n s b hc hp hbus hb ht ha
    rw [exec_twStart hc hp, ha, Bool.false_and, if_neg Bool.false_ne_true]
    refine congrArg Host.Outcome.next (updTw_congr ?_)
    rw [getTw_setNow, startCut_of_cut hbus hb, ht, Option.map_none, ← ht]
  · intro t pt n s b hc hp hbus hb
    rw [exec_twStop hc hp]
    refine congrArg Host.Outcome.next (updTw_congr ?_)
    rw [getTw_setNow, stopCut_of_cut hbus hb]
  · intro t pt n s hc hp
    refine ⟨_, exec_twStop hc hp, ?_⟩
    simp only [stopCut_of_whole, getTw_updTw, getTw_setNow]
    refine ⟨rfl, rfl, rfl, ?_⟩
    cases pt <;> rfl
  · intro pt s
    exact ⟨if_congr beq_iff_eq rfl rfl, rfl, fun n => decide_eq_true_iff⟩
  · intro t pt a b s ha hbus hlow hhigh hheld
    rw [exec_twWindowWrite_two ha hbus, writeByte_eq]
    simp only [getTw_updTw, updTw_updTw]
    rw [if_neg (by omega), if_neg (by omega), if_pos (by rw [decide_eq_true hlow, decide_eq_true hhigh]; rfl)]
    refine congrArg Host.Outcome.next (updTw_congr (if_neg ?_))
    rw [getTw_setNow]
    exact Bool.eq_false_iff.1 hheld
  · intro t pt a b s ha hbus hlow hhigh hheld
    rw [exec_twWindowWrite_two ha hbus, writeByte_eq]
    simp only [getTw_updTw, updTw_updTw]
    rw [if_neg (by omega), if_neg (by omega), if_pos (by rw [decide_eq_true hlow, decide_eq_true hhigh]; rfl)]
    refine congrArg Host.Outcome.next (updTw_congr (if_pos ?_))
    rw [getTw_setNow]
    exact hheld
  · intro t pt a b s ha hbus hother
    rw [exec_twWindowWrite_two ha hbus, writeByte_eq]
    simp only [getTw_updTw, updTw_updTw]
    rw [if_neg (by omega), if_neg (by omega), if_neg (by rw [Bool.and_eq_true, decide_eq_true_eq, decide_eq_true_eq]; omega)]
  · intro t pt b s ha hbus
    rw [exec_twWindowWrite_two ha hbus, writeByte_eq]
    simp only [getTw_updTw, updTw_updTw]
    rw [if_neg (by decide), if_pos (by decide)]
    rfl
  · intro t pt b s ha hbus
    rw [exec_twWindowWrite_two ha hbus, writeByte_eq]
    simp only [getTw_updTw, updTw_updTw]
    rw [if_pos (by decide)]
    rfl
  · intro t pt s ha hbus hptr
    rw [exec_twWindowRead ha hbus, readWindow_ids (by rw [getTw_setNow, hptr])]
    cases pt <;> rfl
  · intro t pt s ha hbus hptr
    obtain ⟨herr, hready, hmore, hheld, hopen⟩ := windowByte_mailbox_fields (s := s) (pt := pt)
    refine ⟨_, exec_twWindowRead ha hbus, ?_⟩
    rw [readWindow_mailbox (by rw [getTw_setNow, hptr]), windowByte_mailbox_setNow]
    refine ⟨?_, ?_, ?_, herr, hready, hmore, hheld, hopen⟩ <;> cases pt <;> rfl
  · intro s pt
    obtain ⟨hrec, hes, hml⟩ := windowByte_id_fields (s := s) (pt := pt)
    obtain ⟨hpower, hready, hhold, hrun, hlimp, halert⟩ := windowByte_status_fields (s := s) (pt := pt)
    exact ⟨rfl, rfl, rfl, rfl, rfl, hrec, hes, hml, hpower, hhold, hrun, halert, rfl, fun i hi => windowByte_rtMirror hi, hready, hlimp,
      fun i hi => windowByte_mbIn hi, fun i hi => windowByte_mbOut hi⟩
  · intro t s hb hph
    refine congrArg Host.Outcome.next (if_neg ?_)
    rw [Bool.or_eq_true, beq_iff_eq]
    rintro (h | h)
    · exact absurd (hb.symm.trans h) Bool.false_ne_true
    · exact hph h
  · intro t pt ans s hlive hrole hbus
    have hexec := exec_ibrRecognised (t := t) (ans := ans) hlive hrole hbus
    exact ⟨fun h => hexec.trans (congrArg Host.Outcome.next (if_neg (Bool.eq_false_iff.1 h))),
      fun h => hexec.trans (congrArg Host.Outcome.next (if_pos h))⟩
  · intro pt ans s h
    refine ⟨polled pt ans s, (runPoll_eq pt ans s).trans (if_pos ?_), polled_out pt ans s⟩
    rw [h]
    rfl
  · intro pt ans s i a b h
    refine ⟨polled pt ans s, ?_, polled_out pt ans s⟩
    rw [runPoll_eq, h]
    rfl
  · intro pt ans s c hc hv
    rw [runPoll_twBus, polled_one hc hv]
    rfl
  · intro t pt s x bs hlive ht hw hbus hstart
    refine twTransferEnd_driven (.inl rfl) ht hw (if_neg ?_) (.inl hlive)
    rw [hbus, Option.isSome_none, Bool.false_or, Bool.not_eq_true', Bool.not_eq_false, Bool.or_eq_true]
    exact hstart
  · intro t pt bs s x ht hw hstart hq
    refine twTransferEnd_driven (.inl rfl) ht hw (if_pos ?_) (.inr rfl)
    rw [hstart, hq, Bool.or_self, Bool.not_false, Bool.or_true]
  · intro t pt r bs s x b hlive ht hw hbus hr
    refine twTransferEnd_driven hr ht hw (if_pos ?_) (.inr rfl)
    rw [hbus, Option.isSome_some, Bool.true_or]
  · intro t pt s x hlive ht hw hl
    exact (exec_twTransferEnd_lost hlive ht hw).trans (congrArg Host.Outcome.next (loseArbitration_of_last hl))
  · intro t pt s x hlive ht hw hl
    exact (exec_twTransferEnd_lost hlive ht hw).trans (congrArg Host.Outcome.next (loseArbitration_of_more hl))
  · intro pt bs s x p ht hpoll hexec hop
    exact ⟨transferDone pt x s, endTransfer_of_done ht hpoll hexec hop, transferDone_kept pt x s⟩


/-! ## Timers (R445–R457) -/

/-- A channel that runs and counts the rising edges of pin 0. -/
def countingChan : TimerChan := { cfg := { src := 5 }, running := true }

/-- A row whose channel 0 counts the rising edges of pin 0, and whose record of this TCLK edge holds a base of that channel that
captures them too. -/
def recapturedRow : State :=
  { State.reset with timers := { State.reset.timers with
      chans := countingChan :: List.replicate 7 {}
      edges := some ⟨0, { countingChan with cfg := { src := 5, capSrc := 1 } }, []⟩ :: List.replicate 7 none } }

/-- The level of pin 0 that is high for ten samples. -/
def risingLevel : PinLevel := ⟨true, 10⟩

/-- The captures of channel 0 after a row. -/
def capturesOf : Result → List Word
  | .next u => (u.timers.chans.getD 0 {}).captures
  | _ => []

/-- The edge ticks the channel from its base, which the second pass then lets capture it: the count 1 joins its queue. -/
theorem recapturedRow_facts : pinsChained recapturedRow = false ∧ recapturedRow.power.phase ≠ .stow ∧
    edgeQualified recapturedRow 0 (setNow ⟨0, 0⟩ recapturedRow).now.tclk risingLevel = true ∧
    recapturedRow.timers.chans.length = 8 ∧ capturesEdge (chan recapturedRow 0) 0 false = false ∧
    countsEdge (chan recapturedRow 0) 0 false = true ∧
    capturesOf (exec (.trgEdge ⟨0, 0⟩ 0 risingLevel) recapturedRow) = [1] ∧
    ((sourceEvent 0 (edgeBase (setNow ⟨0, 0⟩ recapturedRow) 0).1 (setNow ⟨0, 0⟩ recapturedRow)).timers.chans.getD 0 {}).captures = [] := by
  refine ⟨by decide +kernel, by decide +kernel, by decide +kernel, by decide +kernel, by decide +kernel, by decide +kernel,
    by decide +kernel, by decide +kernel⟩

/-- Refutes O57: where the record of a TCLK edge holds a base of a channel that captures a pin's edges, an edge that the channel as it
stands only counts is captured too. -/
theorem not_timerCommandsTicksAndEdges : ¬ Obligations.TimerCommandsTicksAndEdges := by
  unfold Obligations.TimerCommandsTicksAndEdges
  intro h
  obtain ⟨-, -, -, -, -, -, -, -, -, -, -, -, -, -, -, -, -, -, -, -, -, -, -, -, -, -, hedge⟩ := h
  obtain ⟨hchain, hph, hqual, hlen, hno, hcounts, hrow, hsource⟩ := recapturedRow_facts
  obtain ⟨u, hexec, -, -, -, -, hcount, -⟩ := hedge ⟨0, 0⟩ 0 risingLevel recapturedRow hchain hph hqual
  rw [hexec] at hrow
  have hchan := congrArg TimerChan.captures (hcount 0 (by decide) hlen hno hcounts)
  have heq : [(1 : Word)] = [] := hrow.symm.trans (hchan.trans hsource)
  exact absurd heq (List.cons_ne_nil _ _)


/-! ## The monitor converter (R459–R476) -/

/-! ### MCV_CONFIG (R470, R471) -/

/-- MCV_CONFIG's first word holds a value out of range. -/
def mcvWordBad (p : Packet) (s : State) : Bool :=
  (fld (par p 0) 8 5 : BitVec 5) == 0 || 16 < (fld (par p 0) 8 5 : BitVec 5).toNat || (fld (par p 0) 4 4 : BitVec 4) == 0 ||
    8 < (fld (par p 0) 4 4 : BitVec 4).toNat || (fld (par p 0) 2 2 : BitVec 2) == 3 || (bitAt (par p 0) 14 && !bitAt (par p 0) 15) ||
    ((fld (par p 0) 2 2 : BitVec 2) == 2 && s.exposure.cfg.exposure.flkSrc != 2)

/-- The settings common to both converters change. -/
def mcvCommon (p : Packet) (m : McvState) : Bool :=
  fld (par p 0) 2 2 != m.intSrc || fld (par p 0) 4 4 != m.intMult || fld (par p 1) 0 24 != m.plausThr || (m.refEn && !bitAt (par p 0) 15)

section
variable (b : Bool) (es : List McvEntry) (len : BitVec 5) (src : BitVec 2) (mult : BitVec 4) (thr : BitVec 24)

/-- The converters with a table and settings put in, before RUN takes its new value. -/
def mcvSettings (common : Bool) (m : McvState) : McvState :=
  let m := updConv b (fun x => { x with entries := es, tableLen := len }) m
  let m := { m with intSrc := src, intMult := mult, plausThr := thr }
  if common then setInt m else m

/-- The converters with all that a MCV_CONFIG asks for. -/
def mcvPut (common run ref : Bool) (now : Instant) (m : McvState) : McvState :=
  setRun b run now.tclk (mcvRef ref now.real (mcvSettings b es len src mult thr common m))

end

/-- The converters once MCV_CONFIG is accepted. -/
def mcvConfigured (p : Packet) (b : Bool) (es : List McvEntry) (s : State) : McvState :=
  mcvPut b es (fld (par p 0) 8 5) (fld (par p 0) 2 2) (fld (par p 0) 4 4) (fld (par p 1) 0 24) (mcvCommon p s.mcv)
    (bitAt (par p 0) 14) (bitAt (par p 0) 15) s.now s.mcv

/-- MCV_CONFIG of a table that may stand. -/
def mcvConfigTaken (p : Packet) (b : Bool) (es : List McvEntry) (s : State) : CmdResult :=
  if ((es != (conv s.mcv b).entries || fld (par p 0) 8 5 != (conv s.mcv b).tableLen) && (conv s.mcv b).run) ||
      (mcvCommon p s.mcv && (s.mcv.a.run || s.mcv.b.run)) then cmdRefuse s .wrongState
  else if calibrating s.mcv b then cmdRefuse s .busy
  else cmdOk { s with mcv := mcvConfigured p b es s }

/-- What MCV_CONFIG answers, by the check of its table. -/
def mcvConfigOf (o : Option Nat) (p : Packet) (b : Bool) (es : List McvEntry) (s : State) : CmdResult :=
  match o with
  | some i => cmdBad s (2 + i)
  | none => mcvConfigTaken p b es s

section
variable {p : Packet} {s : State} {b : Bool} {es : List McvEntry}

theorem mcvConfigBody_eq (hb : b = bitAt (par p 0) 0) (hes : es = (List.range 16).map fun i => mcvEntryOf (par p (2 + i)))
    (hr : firstReserved (cmdOf p).words ([0xDFFD, 0xFFFFFF] ++ List.replicate 16 0xFFFFC0FF) = none) :
    mcvConfigBody (cmdOf p) s = if mcvWordBad p s then cmdBad s 0 else mcvConfigOf (es.findIdx? (mcvEntryBad b)) p b es s := by
  -- `mcvEntryBad` is made a variable before `mcvConfigBody` unfolds: else the kernel evaluates it at open words.
  obtain ⟨run, hrun⟩ : ∃ run, run = mcvConfigBody := ⟨_, rfl⟩
  rw [← hrun]
  delta mcvConfigBody at hrun
  generalize mcvEntryBad = bad at hrun ⊢
  subst hrun
  have hb' : bitAt (paramAt (cmdOf p).words 0) 0 = b := hb.symm
  have hes' : ((List.range 16).map fun i => mcvEntryOf (paramAt (cmdOf p).words (2 + i))) = es := hes.symm
  simp only [judged_of_none _ _ hr, hb', hes']
  generalize es.findIdx? (bad b) = o
  cases o <;> rfl

end

theorem conv_updConv (b : Bool) (f : McvConv → McvConv) (m : McvState) :
    conv (updConv b f m) b = f (conv m b) ∧ conv (updConv b f m) (!b) = conv m (!b) := by
  cases b <;> exact ⟨rfl, rfl⟩

theorem updConv_kept (b : Bool) (f : McvConv → McvConv) (m : McvState) : { updConv b f m with a := m.a, b := m.b } = m := by
  cases b <;> rfl

section
variable {b : Bool} {es : List McvEntry} {len : BitVec 5} {src : BitVec 2} {mult : BitVec 4} {thr : BitVec 24}

theorem mcvSettings_spec (common : Bool) (m : McvState) : ∃ n, mcvSettings b es len src mult thr common m =
    { updConv b (fun x => { x with entries := es, tableLen := len }) m with
      intSrc := src, intMult := mult, plausThr := thr, tInt := n } := by
  unfold mcvSettings
  cases common with
  | true => exact ⟨_, rfl⟩
  | false => exact ⟨(updConv b (fun x => { x with entries := es, tableLen := len }) m).tInt, rfl⟩

theorem mcvRef_spec (on : Bool) (now : Nat) (m : McvState) : ∃ at0 settled, mcvRef on now m =
    { m with refEn := on, refAt := at0, refSettled := settled } := by
  unfold mcvRef
  cases hm : m.refEn <;> cases on
  · exact ⟨m.refAt, false, by simp⟩
  · exact ⟨now, false, by simp⟩
  · exact ⟨m.refAt, false, by simp⟩
  · exact ⟨m.refAt, m.refSettled, by simp [← hm]⟩

/-- RUN of a converter that stands still: it starts at entry 0, or stays as it is. -/
theorem setRun_of_stopped {run : Bool} {now : Nat} {m : McvState} (h : (conv m b).run = false) : ∃ n, setRun b run now m =
    if run then updConv b (fun x => { x with run := true, entry := 0, nextEntry := 0, nextSlot := 0, cur := none })
      { m with nextAt := n } else m := by
  unfold setRun
  dsimp only
  rw [h]
  cases run with
  | false => exact ⟨0, rfl⟩
  | true =>
    cases gridRuns m with
    | false => exact ⟨now, rfl⟩
    | true => exact ⟨m.nextAt, rfl⟩

theorem mcvPut_spec (common run ref : Bool) (now : Instant) {m : McvState} (h : (conv m b).run = false) :
    (conv (mcvPut b es len src mult thr common run ref now m) b).entries = es ∧
    (conv (mcvPut b es len src mult thr common run ref now m) b).tableLen = len ∧
    (conv (mcvPut b es len src mult thr common run ref now m) b).run = run ∧
    (mcvPut b es len src mult thr common run ref now m).intSrc = src ∧
    (mcvPut b es len src mult thr common run ref now m).intMult = mult ∧
    (mcvPut b es len src mult thr common run ref now m).plausThr = thr ∧
    (mcvPut b es len src mult thr common run ref now m).refEn = ref ∧
    (mcvPut b es len src mult thr common run ref now m).accs = m.accs ∧
    (mcvPut b es len src mult thr common run ref now m).offsets = m.offsets ∧
    (mcvPut b es len src mult thr common run ref now m).gains = m.gains ∧
    conv (mcvPut b es len src mult thr common run ref now m) (!b) = conv m (!b) := by
  obtain ⟨n, hset⟩ := mcvSettings_spec (b := b) (es := es) (len := len) (src := src) (mult := mult) (thr := thr) common m
  obtain ⟨at0, settled, href⟩ := mcvRef_spec ref now.real (mcvSettings b es len src mult thr common m)
  unfold mcvPut
  rw [href, hset]
  obtain ⟨k, hrun⟩ := setRun_of_stopped (b := b) (run := run) (now := now.tclk)
    (m := { updConv b (fun x => { x with entries := es, tableLen := len }) m with
      intSrc := src, intMult := mult, plausThr := thr, tInt := n, refEn := ref, refAt := at0, refSettled := settled })
    (by cases b <;> exact h)
  rw [hrun]
  cases run with
  | true => cases b <;> exact ⟨rfl, rfl, rfl, rfl, rfl, rfl, rfl, rfl, rfl, rfl, rfl⟩
  | false =>
    rw [if_neg Bool.false_ne_true]
    cases b <;> exact ⟨rfl, rfl, h, rfl, rfl, rfl, rfl, rfl, rfl, rfl, rfl⟩

end

section
variable {p : Packet} {s : State} {b : Bool} {es : List McvEntry}

theorem mcvWordBad_eq_false (hlow : 1 ≤ fldN (par p 0) 8 5) (hhigh : fldN (par p 0) 8 5 ≤ 16) (hmlow : 1 ≤ fldN (par p 0) 4 4)
    (hmhigh : fldN (par p 0) 4 4 ≤ 8) (hsrc : fldN (par p 0) 2 2 ≠ 3)
    (hmeas : fldN (par p 0) 2 2 = 2 → s.exposure.cfg.exposure.flkSrc = 2) (hrun : bitAt (par p 0) 14 = true → bitAt (par p 0) 15 = true) :
    mcvWordBad p s = false := by
  have hlen0 : ((fld (par p 0) 8 5 : BitVec 5) == 0) = false :=
    beq_eq_false_iff_ne.2 fun h => absurd (congrArg BitVec.toNat h) (Nat.one_le_iff_ne_zero.1 hlow)
  have hmult0 : ((fld (par p 0) 4 4 : BitVec 4) == 0) = false :=
    beq_eq_false_iff_ne.2 fun h => absurd (congrArg BitVec.toNat h) (Nat.one_le_iff_ne_zero.1 hmlow)
  have hsrc3 : ((fld (par p 0) 2 2 : BitVec 2) == 3) = false := beq_eq_false_iff_ne.2 fun h => hsrc (congrArg BitVec.toNat h)
  have hflk : ((fld (par p 0) 2 2 : BitVec 2) == 2 && s.exposure.cfg.exposure.flkSrc != 2) = false := by
    refine Bool.eq_false_iff.2 fun h => ?_
    obtain ⟨h2, hne⟩ := Bool.and_eq_true_iff.1 h
    exact bne_iff_ne.1 hne (hmeas (congrArg BitVec.toNat (beq_iff_eq.1 h2)))
  have hgo : (bitAt (par p 0) 14 && !bitAt (par p 0) 15) = false := by
    refine Bool.eq_false_iff.2 fun h => ?_
    obtain ⟨h14, h15⟩ := Bool.and_eq_true_iff.1 h
    rw [hrun h14] at h15
    exact absurd h15 (by decide)
  have hhigh' : (fld (par p 0) 8 5 : BitVec 5).toNat ≤ 16 := hhigh
  have hmhigh' : (fld (par p 0) 4 4 : BitVec 4).toNat ≤ 8 := hmhigh
  rw [mcvWordBad, hlen0, hmult0, hsrc3, hflk, hgo, decide_eq_false (Nat.not_lt.2 hhigh'),
    decide_eq_false (Nat.not_lt.2 hmhigh')]
  rfl

theorem mcvWordBad_of_run (h14 : bitAt (par p 0) 14 = true) (h15 : bitAt (par p 0) 15 = false) : mcvWordBad p s = true := by
  rw [mcvWordBad, h14, h15]
  simp only [Bool.not_false, Bool.and_self, Bool.or_true, Bool.true_or]

theorem mcvConfigTaken_of_free (ha : s.mcv.a.run = false) (hb : s.mcv.b.run = false) (hcal : calibrating s.mcv b = false) :
    mcvConfigTaken p b es s = cmdOk { s with mcv := mcvConfigured p b es s } := by
  have hrun : (conv s.mcv b).run = false := by
    cases b
    · exact ha
    · exact hb
  rw [mcvConfigTaken, hrun, ha, hb, hcal, Bool.and_false, Bool.or_self, Bool.and_false, Bool.or_self, if_neg Bool.false_ne_true,
    if_neg Bool.false_ne_true]

theorem mcvConfigTaken_of_calibrating (ha : s.mcv.a.run = false) (hb : s.mcv.b.run = false) (hcal : calibrating s.mcv b = true) :
    mcvConfigTaken p b es s = cmdRefuse s .busy := by
  have hrun : (conv s.mcv b).run = false := by
    cases b
    · exact ha
    · exact hb
  rw [mcvConfigTaken, hrun, ha, hb, hcal, Bool.and_false, Bool.or_self, Bool.and_false, Bool.or_self, if_neg Bool.false_ne_true,
    if_pos rfl]

theorem mcvConfigTaken_of_running (hes : es ≠ (conv s.mcv b).entries) (hrun : (conv s.mcv b).run = true) :
    mcvConfigTaken p b es s = cmdRefuse s .wrongState := by
  rw [mcvConfigTaken, hrun, bne_iff_ne.2 hes, Bool.true_or, Bool.true_and, Bool.true_or, if_pos rfl]

/-! ### MCV_CALIBRATE (R473) -/

/-- A calibration begins. -/
def calStarted (p : Packet) (full : Bool) (s : State) : State :=
  { s with mcv := { (if gridRuns s.mcv then s.mcv else { s.mcv with nextAt := s.now.tclk }) with cal := some {
      mask := fld (par p 0) 0 2
      channel := fldN (par p 0) 8 5
      full := full
      store := full && bitAt (par p 0) 19
      vfs := par p 1 } } }

theorem mcvCalibrateBody_eq (hr : firstReserved (cmdOf p).words [0xB1F03] = none) : mcvCalibrateBody (cmdOf p) s =
    if 11 < fldN (par p 0) 8 5 || (fld (par p 0) 0 2 : BitVec 2) == 0 || 2 ≤ fldN (par p 0) 16 2 then cmdBad s 0
    else if decide (fldN (par p 0) 16 2 = 1) && ((par p 1).toNat < 250000 || 2500000 < (par p 1).toNat) then cmdBad s 1
    else if (bitAt (fld (par p 0) 0 2 : BitVec 2) 0 && s.mcv.a.run) || (bitAt (fld (par p 0) 0 2 : BitVec 2) 1 && s.mcv.b.run) ||
        !s.mcv.refEn || (decide (fldN (par p 0) 16 2 = 1) && lacksX0 s.mcv (fld (par p 0) 0 2) (fldN (par p 0) 8 5)) then
      cmdRefuse s .wrongState
    else if !s.mcv.refSettled || s.mcv.cal.isSome || s.mcv.calStore.isSome || s.nvm.txn.isSome then cmdRefuse s .busy
    else cmdPending (startWork (cmdOf p).req .mcvCal (calStarted p (decide (fldN (par p 0) 16 2 = 1)) s)) :=
  judged_of_none _ _ hr

end


/-! ### MCV_READ (R472) -/

theorem maskFold_succ (f : Nat → Bool) (n : Nat) : (List.range (n + 1)).foldl (fun a k => a + b2n (f k) * 2 ^ k) 0 =
    (List.range n).foldl (fun a k => a + b2n (f k) * 2 ^ k) 0 + b2n (f n) * 2 ^ n := by
  rw [List.range_succ, List.foldl_append]
  rfl

/-- The mask of the first `n` values of `f` lies below `2 ^ n`, and its bits are these values. -/
theorem maskFold_spec (f : Nat → Bool) (n : Nat) : (List.range n).foldl (fun a k => a + b2n (f k) * 2 ^ k) 0 < 2 ^ n ∧
    ∀ k < n, ((List.range n).foldl (fun a k => a + b2n (f k) * 2 ^ k) 0).testBit k = f k := by
  induction n with
  | zero => exact ⟨Nat.one_pos, fun k hk => absurd hk (Nat.not_lt_zero k)⟩
  | succ n ih =>
    obtain ⟨hlt, hbits⟩ := ih
    have hone := b2n_le_one (f n)
    have htop : b2n (f n) * 2 ^ n ≤ 1 * 2 ^ n := Nat.mul_le_mul_right _ hone
    rw [maskFold_succ]
    refine ⟨by rw [Nat.pow_succ]; omega, fun k hk => ?_⟩
    rw [Nat.add_comm, Nat.mul_comm, Nat.testBit_two_pow_mul_add _ hlt]
    split
    · next hkn => exact hbits k hkn
    · next hkn =>
      rw [show k = n by omega, Nat.sub_self]
      cases f n <;> rfl

theorem accMask_spec (m : McvState) (f : McvAcc → Bool) : accMask m f < 2 ^ 16 ∧
    ∀ k < 16, (accMask m f).testBit k = f (m.accs.getD k {}) := maskFold_spec (fun k => f (m.accs.getD k {})) 16

/-- Bits of a word made of two halves. -/
theorem bitAt_halves {hi lo : Nat} {w : Word} (hlo : lo < 2 ^ 16) (hw : w.toNat = 2 ^ 16 * hi + lo) (k : Nat) :
    bitAt w k = if k < 16 then lo.testBit k else hi.testBit (k - 16) := by
  rw [bitAt, BitVec.getLsbD, hw, Nat.testBit_two_pow_mul_add _ hlo]

section
variable {p : Packet} {s : State}

/-- The first word of MCV_READ: the sticky flags of the accumulators. -/
def mcvFlags (m : McvState) : Word := mkWord [(accMask m (·.ovr), 16), (accMask m (·.unsettled), 0)]

/-- The second word of MCV_READ: the full accumulators, and the converters' own flags. -/
def mcvStatus (m : McvState) : Word :=
  mkWord [(accMask m (·.full), 16), (b2n m.refSettled, 3), (b2n m.mainsHeld, 2), (b2n m.b.ovr, 1), (b2n m.a.ovr, 0)]

theorem mcvFlags_bits (m : McvState) {k : Nat} (hk : k < 16) : bitAt (mcvFlags m) k = (m.accs.getD k {}).unsettled ∧
    bitAt (mcvFlags m) (16 + k) = (m.accs.getD k {}).ovr := by
  obtain ⟨hovr, hovrs⟩ := accMask_spec m (·.ovr)
  obtain ⟨hun, huns⟩ := accMask_spec m (·.unsettled)
  have hw : (mcvFlags m).toNat = 2 ^ 16 * accMask m (·.ovr) + accMask m (·.unsettled) := by
    rw [mcvFlags, toNat_mkWord]
    simp only [List.foldl_cons, List.foldl_nil]
    omega
  rw [bitAt_halves hun hw, bitAt_halves hun hw, if_pos hk, if_neg (by omega), Nat.add_sub_cancel_left]
  exact ⟨huns k hk, hovrs k hk⟩

theorem mcvStatus_toNat (m : McvState) : ∃ lo, lo = 8 * b2n m.refSettled + 4 * b2n m.mainsHeld + 2 * b2n m.b.ovr + b2n m.a.ovr ∧
    lo < 16 ∧ (mcvStatus m).toNat = 2 ^ 16 * accMask m (·.full) + lo := by
  have hfull := (accMask_spec m (·.full)).1
  have hset := b2n_le_one m.refSettled
  have hmains := b2n_le_one m.mainsHeld
  have hb := b2n_le_one m.b.ovr
  have ha := b2n_le_one m.a.ovr
  refine ⟨_, rfl, by omega, ?_⟩
  rw [mcvStatus, toNat_mkWord]
  simp only [List.foldl_cons, List.foldl_nil]
  omega

theorem mcvStatus_bits (m : McvState) : bitAt (mcvStatus m) 0 = m.a.ovr ∧ bitAt (mcvStatus m) 1 = m.b.ovr ∧
    bitAt (mcvStatus m) 2 = m.mainsHeld ∧ bitAt (mcvStatus m) 3 = m.refSettled ∧
    ∀ k < 16, bitAt (mcvStatus m) (16 + k) = (m.accs.getD k {}).full := by
  obtain ⟨lo, hlo, hlt, hw⟩ := mcvStatus_toNat m
  have hfulls := (accMask_spec m (·.full)).2
  have hset := b2n_le_one m.refSettled
  have hmains := b2n_le_one m.mainsHeld
  have hb := b2n_le_one m.b.ovr
  have ha := b2n_le_one m.a.ovr
  refine ⟨?_, ?_, ?_, ?_, fun k hk => ?_⟩
  · rw [bitAt_eq_iff, hw]; omega
  · rw [bitAt_eq_iff, hw]; omega
  · rw [bitAt_eq_iff, hw]; omega
  · rw [bitAt_eq_iff, hw]; omega
  · rw [bitAt_halves (by omega) hw, if_neg (by omega), Nat.add_sub_cancel_left]
    exact hfulls k hk

/-- The accumulators that a MCV_READ names. -/
def readAccs (p : Packet) : List Nat := (List.range 16).filter fun k => bitAt (par p 0) (16 + k)

/-- The accumulators that a MCV_READ returns. -/
def backAccs (p : Packet) : List Nat := (readAccs p).take ((pathWords (cmdOf p).via - 2) / 6)

/-- The converters after a MCV_READ. -/
def mcvReadState (p : Packet) (m : McvState) : McvState :=
  { m with
    accs := if bitAt (par p 0) 0 then (backAccs p).foldl (fun l k => l.set k {}) m.accs else m.accs
    afterB := if bitAt (par p 0) 0 then m.afterB.filter fun r => !(backAccs p).contains r.dest else m.afterB
    a := { m.a with ovr := false }
    b := { m.b with ovr := false } }

theorem mcvReadState_accs (p : Packet) (m : McvState) : (mcvReadState p m).accs =
    if bitAt (par p 0) 0 then (backAccs p).foldl (fun l k => l.set k {}) m.accs else m.accs := rfl

theorem mcvReadState_uncleared (hclear : bitAt (par p 0) 0 = false) (m : McvState) : (mcvReadState p m).accs = m.accs := by
  rw [mcvReadState_accs, hclear, if_neg Bool.false_ne_true]

theorem mcvReadState_kept (p : Packet) (m : McvState) :
    { mcvReadState p m with accs := m.accs, a := m.a, b := m.b, afterB := m.afterB } = m := by
  rw [mcvReadState]

/-- The words that a MCV_READ returns. -/
def mcvReadWords (p : Packet) (m : McvState) : List Word := [mcvFlags m, mcvStatus m] ++
  (readAccs p).flatMap fun k => accWords (bitAt (par p 0) 1) (m.accs.getD k {})

theorem two_words_append (a b : Word) (ws : List Word) :
    ([a, b] ++ ws).drop 2 = ws ∧ ([a, b] ++ ws).getD 0 0 = a ∧ ([a, b] ++ ws).getD 1 0 = b := ⟨rfl, rfl, rfl⟩

theorem mcvReadWords_spec (p : Packet) (m : McvState) : (mcvReadWords p m).drop 2 =
    (readAccs p).flatMap (fun k => accWords (bitAt (par p 0) 1) (m.accs.getD k {})) ∧
    (mcvReadWords p m).getD 0 0 = mcvFlags m ∧ (mcvReadWords p m).getD 1 0 = mcvStatus m := by
  rw [mcvReadWords]
  exact two_words_append ..

theorem mcvReadBody_eq (hr : firstReserved (cmdOf p).words [0xFFFF0003] = none) : mcvReadBody (cmdOf p) s =
    cmdOk { s with mcv := mcvReadState p s.mcv } (mcvReadWords p s.mcv) := by
  rw [mcvReadWords]
  exact judged_of_none _ _ hr

theorem foldl_set_getElem? (ks : List Nat) (l : List McvAcc) (k : Nat) :
    (ks.foldl (fun l k => l.set k {}) l)[k]? = if k ∈ ks then l[k]?.map fun _ => {} else l[k]? := by
  induction ks generalizing l with
  | nil => rfl
  | cons j js ih =>
    rw [List.foldl_cons, ih, List.getElem?_set]
    by_cases hj : j = k
    · subst hj
      by_cases hl : j < l.length
      · simp [hl]
      · simp [hl]
    · simp [hj, Ne.symm hj]

theorem mcvReadState_cleared (hclear : bitAt (par p 0) 0 = true) (hpath : 98 ≤ pathWords (cmdOf p).via) {m : McvState}
    (hlen : m.accs.length = 16) {k : Nat} (hk : k < 16) :
    (mcvReadState p m).accs.getD k {} = if bitAt (par p 0) (16 + k) then {} else m.accs.getD k {} := by
  have hall : backAccs p = readAccs p := by
    refine List.take_of_length_le ((List.length_filter_le _ _).trans ?_)
    rw [List.length_range]
    omega
  have haccs : (mcvReadState p m).accs = (readAccs p).foldl (fun l k => l.set k {}) m.accs := by
    rw [mcvReadState_accs, hclear, if_pos rfl, hall]
  have hmem : k ∈ readAccs p ↔ bitAt (par p 0) (16 + k) = true := by
    rw [readAccs, List.mem_filter, List.mem_range, and_iff_right hk]
  rw [haccs, List.getD_eq_getElem?_getD, foldl_set_getElem?, List.getD_eq_getElem?_getD, List.getElem?_eq_getElem (by omega)]
  by_cases hb : bitAt (par p 0) (16 + k) = true
  · rw [if_pos (hmem.2 hb), if_pos hb]
    rfl
  · rw [if_neg (fun h => hb (hmem.1 h)), if_neg hb]

end

/-! ### Slots and results (R460–R468) -/

/-- The settings of the converters that a slot's beginning leaves. -/
def mcvGrid (m : McvState) : Nat × Nat × Nat × Nat × List McvAcc × List (Nat × Word) × List (Nat × Word) :=
  (m.slotNo, m.slotAt, m.tInt, m.nextAt, m.accs, m.offsets, m.gains)

theorem mcvGrid_updConv (b : Bool) (f : McvConv → McvConv) (m : McvState) : mcvGrid (updConv b f m) = mcvGrid m := by
  cases b <;> rfl

theorem mcvGrid_calSlot (m : McvState) : mcvGrid (calSlot m) = mcvGrid m := by
  unfold calSlot
  split
  · rfl
  · extract_lets one m1
    have hone : ∀ b u, mcvGrid (one b u) = mcvGrid u := by
      intro b u
      unfold one
      split
      · exact mcvGrid_updConv ..
      · rfl
    exact (hone true _).trans (hone false _)

theorem mcvGrid_beginSlot (m : McvState) :
    mcvGrid (beginSlot m) = (m.slotNo + 1, m.nextAt, m.tInt, m.nextAt + m.tInt, m.accs, m.offsets, m.gains) := by
  unfold beginSlot
  extract_lets +onlyGivenNames pass m1 y begins m2 along m3 m4
  have h2 : mcvGrid m2 = mcvGrid m1 := by
    unfold m2
    split <;> rfl
  have h3 : mcvGrid m3 = mcvGrid m2 := by
    unfold m3
    split
    · exact mcvGrid_updConv ..
    · rfl
  have h4 : mcvGrid m4 = mcvGrid m3 := by
    unfold m4
    split
    · rfl
    · split
      · exact mcvGrid_updConv ..
      · exact mcvGrid_updConv ..
  exact (mcvGrid_calSlot _).trans (h4.trans (h3.trans h2))

theorem slotInt_of_fixed {s : State} (h : s.mcv.intSrc ≠ 2) :
    slotInt s = { s with mcv := setInt { s.mcv with mainsHeld := false } } := by
  unfold slotInt
  extract_lets ps sum
  exact congrArg (fun m => { s with mcv := m }) (if_pos (bne_iff_ne.2 h))

theorem baseCycles_eq (m : McvState) :
    baseCycles m = if m.intSrc = 0 then 2000000 else if m.intSrc = 1 then 1666667 else m.tMean := by
  unfold baseCycles
  rw [beq_eq_decide, beq_eq_decide]
  simp only [decide_eq_true_eq]

theorem mcvLives_setNow {s : State} {t : Instant} : mcvLives (setNow t s) = mcvLives s := rfl

section
variable {b : Bool} {c : McvConversion} {s : State} {t : Instant}

theorem exec_mcvConversionComplete (hlive : mcvLives s = true) (hdue : dueConversion (setNow t s) b = some c) (raw : Int) (o : Bool) :
    exec (.mcvConversionComplete t b raw o) s = .next
      (if c.cal then takeCal b (clipRaw (rawRange c.channel) raw o).1 (clipRaw (rawRange c.channel) raw o).2 (clearDue b (setNow t s))
       else takeResult b c (clipRaw (rawRange c.channel) raw o).1 (clipRaw (rawRange c.channel) raw o).2 (clearDue b (setNow t s))) := by
  change execMcvConversionComplete t b raw o s = _
  unfold execMcvConversionComplete
  simp only [hdue, mcvLives_setNow, hlive, Bool.not_true, if_neg Bool.false_ne_true]

theorem exec_mcvConversionComplete_none (hdue : dueConversion (setNow t s) b = none) (raw : Int) (o : Bool) :
    exec (.mcvConversionComplete t b raw o) s = .next (setNow t s) := by
  change execMcvConversionComplete t b raw o s = _
  unfold execMcvConversionComplete
  simp only [hdue]

theorem clearDue_recovery (b : Bool) (s : State) : (conv (clearDue b s).mcv b).recovery = (conv s.mcv b).recovery := by
  have hfield : ∀ m : McvState, (conv (updConv b (fun x => if x.due.isSome then { x with due := none } else { x with cur := none }) m)
      b).recovery = (conv m b).recovery := by
    intro m
    rw [(conv_updConv b _ m).1]
    split <;> rfl
  refine (hfield _).trans ?_
  cases b <;> rfl

theorem takeResult_of_recovery (x : Int) (ov : Bool) (h : (conv s.mcv b).recovery = true) : takeResult b c x ov s =
    updMcv (fun m => updConv b (fun x => { x with recovery := false }) { m with discarded := satInc m.discarded }) s := if_pos h

theorem takeResult_of_good (x : Int) (h : (conv s.mcv b).recovery = false) (hs : c.shared = false) :
    takeResult b c x false s = updMcv (enterResult b c (calibrated c x) false) s := by
  refine (if_neg (Bool.eq_false_iff.1 h)).trans ((if_neg Bool.false_ne_true).trans (if_pos ?_))
  rw [hs]
  rfl

theorem takeResult_of_over (x : Int) (h : (conv s.mcv b).recovery = false) :
    takeResult b c x true s = noteOver b c (updMcv (enterResult b c (calibrated c x) true) s) :=
  (if_neg (Bool.eq_false_iff.1 h)).trans (if_pos rfl)

theorem clipRaw_of_within {g : Int × Int} {raw : Int} (hlow : g.1 ≤ raw) (hhigh : raw ≤ g.2) : clipRaw g raw false = (raw, false) := by
  rw [clipRaw, if_neg (Int.not_lt.2 hlow), if_neg (Int.not_lt.2 hhigh), if_neg Bool.false_ne_true]

theorem clipRaw_of_beyond {g : Int × Int} {raw : Int} (o : Bool) (h : raw < g.1 ∨ g.2 < raw) :
    clipRaw g raw o = (if raw < g.1 then g.1 else g.2, true) := by
  unfold clipRaw
  split
  · rfl
  · next hlow => rw [if_pos (h.resolve_left hlow)]

theorem clipRaw_spec (g : Int × Int) (raw : Int) (o : Bool) :
    ((clipRaw g raw o).2 = true → (clipRaw g raw o).1 = g.1 ∨ (clipRaw g raw o).1 = g.2) ∧
    ((clipRaw g raw o).2 = false → (clipRaw g raw o).1 = raw ∧ g.1 ≤ raw ∧ raw ≤ g.2) := by
  unfold clipRaw
  split
  · exact ⟨fun _ => .inl rfl, fun h => Bool.noConfusion h⟩
  · next hlow =>
    split
    · exact ⟨fun _ => .inr rfl, fun h => Bool.noConfusion h⟩
    · next hhigh =>
      split
      · refine ⟨fun _ => ?_, fun h => Bool.noConfusion h⟩
        change (if 2 * raw < g.1 + g.2 then g.1 else g.2) = g.1 ∨ (if 2 * raw < g.1 + g.2 then g.1 else g.2) = g.2
        split
        · exact .inl rfl
        · exact .inr rfl
      · exact ⟨fun h => Bool.noConfusion h, fun _ => ⟨rfl, Int.not_lt.1 hlow, Int.not_lt.1 hhigh⟩⟩

theorem enterResult_of_fresh (b : Bool) (c : McvConversion) (y : Int) (ov : Bool) {m : McvState}
    (h : (m.afterB.all fun r => r.slot != c.slot || r.dest != c.dest) = true) :
    (enterResult b c y ov m).accs = m.accs.set c.dest (addResult y ov c.unsettled (m.accs.getD c.dest {})) := by
  cases b with
  | true => rfl
  | false =>
    unfold enterResult
    cases hr : m.afterB with
    | none => rfl
    | some r =>
      rw [hr, Option.all_some] at h
      have hne : ¬ (decide (r.slot = c.slot) && decide (r.dest = c.dest)) = true := by
        intro hc
        obtain ⟨hslot, hdest⟩ := Bool.and_eq_true_iff.1 hc
        rw [of_decide_eq_true hslot, of_decide_eq_true hdest] at h
        simp at h
      exact congrArg McvState.accs (if_neg hne)

theorem getD_set_same {α : Type} {l : List α} {k : Nat} (h : k < l.length) (x d : α) : (l.set k x).getD k d = x := by
  rw [List.getD_eq_getElem _ _ (by rwa [List.length_set]), List.getElem_set_self]

theorem enterResult_pair {c d : McvConversion} (y z : Int) (ov pv : Bool) {m : McvState} (hc : c.dest < m.accs.length)
    (hdest : d.dest = c.dest) (hslot : d.slot = c.slot) (hnone : m.afterB = none) :
    (enterResult false c y ov (enterResult true d z pv m)).accs.getD c.dest {} =
      addResult z pv d.unsettled (addResult y ov c.unsettled (m.accs.getD c.dest {})) ∧
    (enterResult true d z pv (enterResult false c y ov m)).accs.getD c.dest {} =
      addResult z pv d.unsettled (addResult y ov c.unsettled (m.accs.getD c.dest {})) := by
  refine ⟨?_, ?_⟩
  · have hfirst : (enterResult false c y ov (enterResult true d z pv m)).accs =
        (m.accs.set d.dest (addResult z pv d.unsettled (m.accs.getD d.dest {}))).set c.dest
          (addResult z pv d.unsettled (addResult y ov c.unsettled (m.accs.getD d.dest {}))) := by
      refine congrArg McvState.accs (if_pos ?_)
      rw [hslot, hdest, decide_eq_true rfl, decide_eq_true rfl, Bool.and_self]
    rw [hfirst, hdest]
    exact getD_set_same (by rwa [List.length_set]) _ _
  · have hfirst : (enterResult false c y ov m).accs = m.accs.set c.dest (addResult y ov c.unsettled (m.accs.getD c.dest {})) :=
      enterResult_of_fresh false c y ov (by rw [hnone]; rfl)
    change ((enterResult false c y ov m).accs.set d.dest
      (addResult z pv d.unsettled ((enterResult false c y ov m).accs.getD d.dest {}))).getD c.dest {} = _
    rw [hfirst, hdest, getD_set_same hc]
    exact getD_set_same (by rwa [List.length_set]) _ _

theorem noteOver_spec (b : Bool) (c : McvConversion) (s : State) : (noteOver b c s).mcv.ovrConv = satInc s.mcv.ovrConv ∧
    (conv (noteOver b c s).mcv b).ovr = true ∧ (conv (noteOver b c s).mcv b).recovery = true ∧
    ((conv s.mcv b).ovr = true → (noteOver b c s).events = s.events) := by
  have hmcv : (noteOver b c s).mcv =
      updConv b (fun x => { x with ovr := true, recovery := true }) { s.mcv with ovrConv := satInc s.mcv.ovrConv } := by
    unfold noteOver
    extract_lets first u
    split
    · rw [raise_mcv]
      rfl
    · rfl
  rw [hmcv]
  refine ⟨by cases b <;> rfl, by rw [(conv_updConv ..).1], by rw [(conv_updConv ..).1], fun h => ?_⟩
  unfold noteOver
  rw [h]
  rfl

theorem addResult_of_room {y : Int} {ov un : Bool} {a : McvAcc} (h : a.count ≠ 0xFFFFFFFF) : addResult y ov un a =
    { a with
      sum := a.sum + BitVec.ofInt 64 y
      count := a.count + 1
      least := if y < a.least.toInt then wordOfInt y else a.least
      greatest := if a.greatest.toInt < y then wordOfInt y else a.greatest
      ovr := a.ovr || ov
      unsettled := a.unsettled || un } := if_neg (by rw [beq_iff_eq]; exact h)

theorem toInt_wordOfInt {y : Int} (hlow : -0x80000000 ≤ y) (hhigh : y < 0x80000000) : (wordOfInt y).toInt = y := by
  rw [wordOfInt, BitVec.toInt_ofInt]
  exact Int.bmod_eq_of_le (by omega) (by omega)

theorem addResult_spec {y : Int} (ov un : Bool) {a : McvAcc} (h : a.count ≠ 0xFFFFFFFF) (hlow : -0x80000000 ≤ y) (hhigh : y < 0x80000000) :
    (addResult y ov un a).count = a.count + 1 ∧ (addResult y ov un a).sum = a.sum + BitVec.ofInt 64 y ∧
    (addResult y ov un a).least.toInt = min y a.least.toInt ∧ (addResult y ov un a).greatest.toInt = max y a.greatest.toInt ∧
    (addResult y ov un a).ovr = (a.ovr || ov) ∧ (addResult y ov un a).unsettled = (a.unsettled || un) ∧
    (addResult y ov un a).full = a.full := by
  have hy := toInt_wordOfInt hlow hhigh
  rw [addResult_of_room h]
  refine ⟨rfl, rfl, ?_, ?_, rfl, rfl, rfl⟩
  · change (if y < a.least.toInt then wordOfInt y else a.least).toInt = _
    split
    · rw [hy]; omega
    · omega
  · change (if a.greatest.toInt < y then wordOfInt y else a.greatest).toInt = _
    split
    · rw [hy]; omega
    · omega

theorem addResult_of_full {y : Int} {ov un : Bool} {a : McvAcc} (h : a.count = 0xFFFFFFFF) :
    addResult y ov un a = { a with full := true } := if_pos (beq_iff_eq.2 h)

theorem calibrated_of_default {m : McvState} (b : Bool) (channel dest entry : Nat) (shared cal : Bool) (x : Int) (ho : m.offsets = [])
    (hg : m.gains = []) : calibrated (newConversion m b channel dest entry shared cal) x = x := by
  have hoff : (newConversion m b channel dest entry shared cal).offset = 0 := by
    change smGet 0 m.offsets _ = 0
    rw [ho]
    rfl
  have hgain : (newConversion m b channel dest entry shared cal).gain = 0x40000000 := by
    change smGet 0x40000000 m.gains _ = 0x40000000
    rw [hg]
    rfl
  rw [calibrated, hoff, hgain, show (0 : Word).toInt = 0 from rfl, show ((0x40000000 : Word).toNat : Int) = 2 ^ 30 from rfl]
  omega

end


/-! ### What MCV_CALIBRATE judges (R473) -/

section
variable {p : Packet} {s : State}

theorem fld_beq_zero (w : Word) (i n : Nat) : ((fld w i n : BitVec n) == 0) = decide (fldN w i n = 0) := by
  rw [beq_eq_decide]
  exact decide_eq_decide.2 (BitVec.toNat_eq.trans (by rw [BitVec.ofNat_eq_ofNat, BitVec.toNat_ofNat, Nat.zero_mod]; rfl))

theorem gridRuns_eq_false {m : McvState} : gridRuns m = false ↔ m.a.run = false ∧ m.b.run = false ∧ m.cal = none := by
  rw [gridRuns, Bool.or_eq_false_iff, Bool.or_eq_false_iff, Option.isSome_eq_false_iff, Option.isNone_iff_eq_none, and_assoc]

/-- What MCV_CALIBRATE answers once its words are in range: a FULL calibration needs the x0 of a ZERO one. -/
def calJudged (p : Packet) (full : Bool) (s : State) : CmdResult :=
  if (bitAt (fld (par p 0) 0 2 : BitVec 2) 0 && s.mcv.a.run) || (bitAt (fld (par p 0) 0 2 : BitVec 2) 1 && s.mcv.b.run) ||
      !s.mcv.refEn || (full && lacksX0 s.mcv (fld (par p 0) 0 2) (fldN (par p 0) 8 5)) then cmdRefuse s .wrongState
  else if !s.mcv.refSettled || s.mcv.cal.isSome || s.mcv.calStore.isSome || s.nvm.txn.isSome then cmdRefuse s .busy
  else cmdPending (startWork (cmdOf p).req .mcvCal (calStarted p full s))

theorem mcvCalibrateBody_of_bad_word (hr : firstReserved (cmdOf p).words [0xB1F03] = none)
    (h : 11 < fldN (par p 0) 8 5 ∨ fldN (par p 0) 0 2 = 0 ∨ 2 ≤ fldN (par p 0) 16 2) : mcvCalibrateBody (cmdOf p) s = cmdBad s 0 := by
  rw [mcvCalibrateBody_eq hr, fld_beq_zero]
  refine if_pos ?_
  rw [Bool.or_eq_true, Bool.or_eq_true, decide_eq_true_eq, decide_eq_true_eq, decide_eq_true_eq, or_assoc]
  exact h

section
variable (hr : firstReserved (cmdOf p).words [0xB1F03] = none) (hch : fldN (par p 0) 8 5 ≤ 11) (hmask : fldN (par p 0) 0 2 ≠ 0)
include hr hch hmask

/-- VFS of a FULL calibration is out of its range. -/
def vfsBad (v : Word) : Bool := v.toNat < 250000 || 2500000 < v.toNat

theorem mcvCalibrateBody_of_word {full : Bool} (hkind : fldN (par p 0) 16 2 = b2n full) : mcvCalibrateBody (cmdOf p) s =
    if full && vfsBad (par p 1) then cmdBad s 1 else calJudged p full s := by
  have hfull : decide (b2n full = 1) = full := by cases full <;> rfl
  have hone := b2n_le_one full
  rw [mcvCalibrateBody_eq hr, fld_beq_zero, decide_eq_false hmask, decide_eq_false (Nat.not_lt.2 hch), hkind, hfull,
    decide_eq_false (Nat.not_le.2 (Nat.lt_succ_of_le hone)), Bool.or_self, Bool.or_self, if_neg Bool.false_ne_true, vfsBad,
    calJudged]

theorem mcvCalibrateBody_of_zero (hkind : fldN (par p 0) 16 2 = 0) : mcvCalibrateBody (cmdOf p) s = calJudged p false s := by
  rw [mcvCalibrateBody_of_word (full := false) hr hch hmask hkind, Bool.false_and, if_neg Bool.false_ne_true]

theorem mcvCalibrateBody_of_bad_vfs (hkind : fldN (par p 0) 16 2 = 1)
    (hvfs : (par p 1).toNat < 250000 ∨ 2500000 < (par p 1).toNat) : mcvCalibrateBody (cmdOf p) s = cmdBad s 1 := by
  have hbad : vfsBad (par p 1) = true := by
    rw [vfsBad, Bool.or_eq_true, decide_eq_true_eq, decide_eq_true_eq]
    exact hvfs
  rw [mcvCalibrateBody_of_word (full := true) hr hch hmask hkind, hbad, Bool.and_self, if_pos rfl]

theorem mcvCalibrateBody_of_full (hkind : fldN (par p 0) 16 2 = 1) (hlow : 250000 ≤ (par p 1).toNat)
    (hhigh : (par p 1).toNat ≤ 2500000) : mcvCalibrateBody (cmdOf p) s = calJudged p true s := by
  have hbad : vfsBad (par p 1) = false := by
    rw [vfsBad, decide_eq_false (Nat.not_lt.2 hlow), decide_eq_false (Nat.not_lt.2 hhigh), Bool.or_self]
  rw [mcvCalibrateBody_of_word (full := true) hr hch hmask hkind, hbad, Bool.and_false, if_neg Bool.false_ne_true]

end

theorem calJudged_of_no_reference {full : Bool} (h : s.mcv.refEn = false) : calJudged p full s = cmdRefuse s .wrongState := by
  refine if_pos ?_
  rw [h, Bool.not_false, Bool.or_true, Bool.true_or]

theorem calJudged_of_no_x0 (h : lacksX0 s.mcv (fld (par p 0) 0 2) (fldN (par p 0) 8 5) = true) :
    calJudged p true s = cmdRefuse s .wrongState := by
  refine if_pos ?_
  rw [h, Bool.and_self, Bool.or_true]

/-- Both converters stand still, the reference is on, and what the calibration needs is there. -/
theorem calJudged_of_stopped {full : Bool} (ha : s.mcv.a.run = false) (hb : s.mcv.b.run = false) (href : s.mcv.refEn = true)
    (hx0 : (full && lacksX0 s.mcv (fld (par p 0) 0 2) (fldN (par p 0) 8 5)) = false) : calJudged p full s =
      if !s.mcv.refSettled || s.mcv.cal.isSome || s.mcv.calStore.isSome || s.nvm.txn.isSome then cmdRefuse s .busy
      else cmdPending (startWork (cmdOf p).req .mcvCal (calStarted p full s)) := by
  refine if_neg ?_
  rw [ha, hb, href, hx0, Bool.and_false, Bool.and_false]
  exact Bool.false_ne_true

theorem calJudged_of_free {full store : Bool} (hstores : (full && bitAt (par p 0) 19) = store) (hgrid : gridRuns s.mcv = false) (href : s.mcv.refEn = true)
    (hx0 : (full && lacksX0 s.mcv (fld (par p 0) 0 2) (fldN (par p 0) 8 5)) = false) (hset : s.mcv.refSettled = true)
    (hstore : s.mcv.calStore = none) (htxn : s.nvm.txn = none) :
    calJudged p full s = cmdPending (startWork (cmdOf p).req .mcvCal { s with mcv := { s.mcv with
      cal := some { mask := fld (par p 0) 0 2, channel := fldN (par p 0) 8 5, full := full, store := store, vfs := par p 1 }
      nextAt := s.now.tclk } }) := by
  obtain ⟨ha, hb, hcal⟩ := gridRuns_eq_false.1 hgrid
  rw [calJudged_of_stopped ha hb href hx0, hset, hcal, hstore, htxn]
  rw [calStarted, hgrid, hstores]
  rfl

theorem calJudged_of_busy {full : Bool} (ha : s.mcv.a.run = false) (hb : s.mcv.b.run = false) (href : s.mcv.refEn = true)
    (hx0 : (full && lacksX0 s.mcv (fld (par p 0) 0 2) (fldN (par p 0) 8 5)) = false)
    (h : s.mcv.refSettled = false ∨ s.mcv.cal ≠ none ∨ s.mcv.calStore ≠ none ∨ s.nvm.txn ≠ none) :
    calJudged p full s = cmdRefuse s .busy := by
  rw [calJudged_of_stopped ha hb href hx0]
  refine if_pos ?_
  rw [Bool.or_eq_true, Bool.or_eq_true, Bool.or_eq_true, Bool.not_eq_true', Option.isSome_iff_ne_none, Option.isSome_iff_ne_none,
    Option.isSome_iff_ne_none, or_assoc, or_assoc]
  exact h

end

/-! ### Slots that begin (R460, R462) -/

theorem beginSlot_spec (m : McvState) : (beginSlot m).slotNo = m.slotNo + 1 ∧ (beginSlot m).slotAt = m.nextAt ∧
    (beginSlot m).tInt = m.tInt ∧ (beginSlot m).nextAt = m.nextAt + m.tInt ∧ (beginSlot m).accs = m.accs ∧
    (beginSlot m).offsets = m.offsets ∧ (beginSlot m).gains = m.gains := by
  simpa only [mcvGrid, Prod.mk.injEq] using mcvGrid_beginSlot m

section
variable {s : State} {t : Instant}

theorem exec_mcvSlotStart (t : Instant) (s : State) : exec (.mcvSlotStart t) s =
    if mcvLives s && gridRuns s.mcv && decide (s.mcv.nextAt ≤ (setNow t s).now.tclk) then
      .next (updMcv beginSlot (slotInt (setNow t s))) else .next (setNow t s) := rfl

theorem exec_mcvSlotStart_of_due (hlive : mcvLives s = true) (hgrid : gridRuns s.mcv = true)
    (hdue : s.mcv.nextAt ≤ (setNow t s).now.tclk) (hsrc : s.mcv.intSrc ≠ 2) : exec (.mcvSlotStart t) s =
    .next { setNow t s with mcv := beginSlot (setInt { s.mcv with mainsHeld := false }) } := by
  rw [exec_mcvSlotStart, hlive, hgrid, decide_eq_true hdue, Bool.and_self, Bool.and_self, if_pos rfl,
    slotInt_of_fixed (s := setNow t s) hsrc]
  rfl

theorem exec_refSettled (t : Instant) (s : State) : exec (.refSettled t) s =
    .next (if mcvLives s && s.mcv.refEn && decide (s.mcv.refAt + 160000000 ≤ (setNow t s).now.real) then
      updMcv (fun m => { m with refSettled := true }) (setNow t s) else setNow t s) := rfl

end

/-- Settles O58: what a MCV_CONFIG asks for is put in one part after another, each of which leaves the others as they were; the
words of MCV_READ are two halves whose bits are the accumulators' flags; and the two results of a slot enter their accumulator in
the order A, B, whichever comes first. -/
theorem monitorConverterCommandsAndResults : Obligations.MonitorConverterCommandsAndResults := by
  unfold Obligations.MonitorConverterCommandsAndResults
  refine ⟨?config, ?noReference, ?configRefused, ?read, ?zero, ?calibrate, ?zeroRefused, ?slot, ?noSlot, ?noConversion, ?good, ?overRange,
    fun g raw o _ => clipRaw_spec g raw o, fun b c y ov m => enterResult_of_fresh b c y ov,
    fun c d y z ov pv m => enterResult_pair y z ov pv, ?discarded, noteOver_spec, fun y ov un a => addResult_spec ov un,
    fun y ov un a => addResult_of_full, ?settled, ?noRef, fun m b channel dest entry shared cal => ⟨rfl, rfl⟩, fun c x => rfl,
    fun m b channel dest entry shared cal x => calibrated_of_default b channel dest entry shared cal x⟩
  case config =>
    intro t s p s1 es b h hr hb hes hok hlow hhigh hmlow hmhigh hsrc hmeas hrun hA hB hcal
    have hstill : (conv s1.mcv b).run = false := by
      cases b
      · exact hA
      · exact hB
    refine ⟨mcvConfigured p b es s1, exec_of_body h rfl ((mcvConfigBody_eq hb hes hr).trans ?_) rfl, mcvPut_spec _ _ _ _ hstill⟩
    rw [mcvWordBad_eq_false hlow hhigh hmlow hmhigh hsrc hmeas hrun, if_neg Bool.false_ne_true, hok]
    exact mcvConfigTaken_of_free hA hB hcal
  case noReference =>
    intro t s p s1 h hr h14 h15
    refine exec_of_body h rfl ((mcvConfigBody_eq rfl rfl hr).trans ?_) rfl
    rw [mcvWordBad_of_run h14 h15, if_pos rfl]
  case configRefused =>
    intro t s p s1 es b h hr hb hes hlow hhigh hmlow hmhigh hsrc hrefOn
    have hbody : mcvConfigBody (cmdOf p) s1 = mcvConfigOf (es.findIdx? (mcvEntryBad b)) p b es s1 := by
      rw [mcvConfigBody_eq hb hes hr,
        mcvWordBad_eq_false hlow hhigh hmlow hmhigh (by omega) (fun h2 => by omega) (fun _ => hrefOn), if_neg Bool.false_ne_true]
    refine ⟨fun i hi => exec_of_body h rfl (hbody.trans ?_) rfl, fun hok hne hrun => exec_of_body h rfl (hbody.trans ?_) rfl,
      fun hok hA hB hcal => exec_of_body h rfl (hbody.trans ?_) rfl⟩
    · rw [hi]
      rfl
    · rw [hok]
      exact mcvConfigTaken_of_running hne hrun
    · rw [hok]
      exact mcvConfigTaken_of_calibrating hA hB hcal
  case read =>
    intro t s p s1 h hr
    obtain ⟨hAovr, hBovr, hmains, hset, hfull⟩ := mcvStatus_bits s1.mcv
    obtain ⟨hdrop, hzero, hone⟩ := mcvReadWords_spec p s1.mcv
    rw [← hone] at hAovr hBovr hmains hset hfull
    refine ⟨mcvReadState p s1.mcv, mcvReadWords p s1.mcv, exec_of_body h rfl (mcvReadBody_eq hr) rfl, hdrop, hAovr, hBovr, hset, rfl, rfl,
      hmains, fun k hk => ?_, fun hclear => mcvReadState_uncleared hclear _, fun hclear hpath hlen k hk => mcvReadState_cleared hclear hpath hlen hk,
      mcvReadState_kept p s1.mcv⟩
    obtain ⟨hun, hovr⟩ := mcvFlags_bits s1.mcv hk
    rw [← hzero] at hun hovr
    exact ⟨hun, hovr, hfull k hk⟩
  case zero =>
    intro t s p s1 ch h hr hch hle hmask hkind hA hB href hset hcal hstore htxn
    subst hch
    refine exec_of_body h rfl ((mcvCalibrateBody_of_zero hr hle hmask hkind).trans ?_) rfl
    exact calJudged_of_free (Bool.false_and _) (gridRuns_eq_false.2 ⟨hA, hB, hcal⟩) href rfl hset hstore htxn
  case calibrate =>
    intro t s p s1 ch mask h hr hch hmask
    subst hch hmask
    have hzero : (fld (par p 0) 0 2 : BitVec 2) = 0 ↔ fldN (par p 0) 0 2 = 0 := BitVec.toNat_eq
    refine ⟨fun hbad => exec_of_body h rfl (mcvCalibrateBody_of_bad_word hr (by rwa [hzero] at hbad)) rfl,
      fun hle hne hkind => ?_, fun hle hne hkind hA hB href hbusy => ?_⟩
    · rw [Ne, hzero] at hne
      refine ⟨fun hvfs => exec_of_body h rfl (mcvCalibrateBody_of_bad_vfs hr hle hne hkind hvfs) rfl,
        fun hlow hhigh hx0 => ?_, fun hlow hhigh hx0 hgrid href hset hstore htxn => ?_⟩
      · exact exec_of_body h rfl ((mcvCalibrateBody_of_full hr hle hne hkind hlow hhigh).trans (calJudged_of_no_x0 hx0)) rfl
      · refine exec_of_body h rfl ((mcvCalibrateBody_of_full hr hle hne hkind hlow hhigh).trans ?_) rfl
        exact calJudged_of_free (Bool.true_and _) hgrid href (by rw [hx0, Bool.and_false]) hset hstore htxn
    · rw [Ne, hzero] at hne
      refine exec_of_body h rfl ((mcvCalibrateBody_of_zero hr hle hne hkind).trans ?_) rfl
      exact calJudged_of_busy hA hB href rfl hbusy
  case zeroRefused =>
    exact fun t s p s1 h hr hle hmask hkind href =>
      exec_of_body h rfl ((mcvCalibrateBody_of_zero hr hle hmask hkind).trans (calJudged_of_no_reference href)) rfl
  case slot =>
    intro t s hlive hgrid hdue hsrc
    obtain ⟨hno, hat, hint, hnext, haccs, hoffsets, hgains⟩ := beginSlot_spec (setInt { s.mcv with mainsHeld := false })
    have hlength : (setInt { s.mcv with mainsHeld := false }).tInt = s.mcv.intMult.toNat *
        (if s.mcv.intSrc = 0 then 2000000 else if s.mcv.intSrc = 1 then 1666667 else s.mcv.tMean) := by
      rw [← baseCycles_eq]
      rfl
    exact ⟨_, exec_mcvSlotStart_of_due hlive hgrid hdue hsrc, hno, hat, hint.trans hlength, by rw [hnext, hint]; rfl, haccs, hoffsets,
      hgains⟩
  case noSlot =>
    intro t s hgrid
    rw [exec_mcvSlotStart, hgrid, Bool.and_false, Bool.false_and, if_neg Bool.false_ne_true]
  case noConversion => exact fun t b raw o s hdue => exec_mcvConversionComplete_none hdue raw o
  case good =>
    intro t b raw s c hlive hdue hcal hshared hrec hlow hhigh
    rw [exec_mcvConversionComplete hlive hdue, hcal, if_neg Bool.false_ne_true, clipRaw_of_within hlow hhigh]
    exact congrArg Host.Outcome.next (takeResult_of_good raw (by rw [clearDue_recovery]; exact hrec) hshared)
  case overRange =>
    intro t b raw s c g hlive hdue hcal hrec hg hbeyond
    subst hg
    rw [exec_mcvConversionComplete hlive hdue, hcal, if_neg Bool.false_ne_true, clipRaw_of_beyond true hbeyond]
    exact congrArg Host.Outcome.next (takeResult_of_over _ (by rw [clearDue_recovery]; exact hrec))
  case discarded =>
    intro t b raw s c hlive hdue hcal hrec
    rw [exec_mcvConversionComplete hlive hdue, hcal, if_neg Bool.false_ne_true]
    exact congrArg Host.Outcome.next (takeResult_of_recovery _ _ (by rw [clearDue_recovery]; exact hrec))
  case settled =>
    intro t s hlive href hlate
    rw [exec_refSettled, hlive, href, decide_eq_true hlate, Bool.and_self, Bool.and_self, if_pos rfl]
    rfl
  case noRef =>
    intro t s href
    rw [exec_refSettled, href, Bool.and_false, Bool.false_and, if_neg Bool.false_ne_true]


/-! ### Results of auto-exposure (R85) -/

/-- A row whose first slot of the output area holds the set of frame 0. -/
def firstSetRow : State :=
  { State.reset with back := { State.reset.back with
      sets := [some { frame := { id := 0, fb := 0, stamp := 0, gFirst := 0, params := {}, pipe := {}, cfg := {}, mask := [] }
                      order := 0, unsent := false }] } }

theorem countCommonUe_engines (region ctl n : Nat) (s : State) : (countCommonUe region ctl n s).engines = s.engines := by
  unfold countCommonUe reportUe
  split
  · rfl
  · split
    · rfl
    · exact raise_engines ..

theorem readRecords_engines (k : Nat) (s : State) : (readRecords k s).engines = s.engines :=
  (correctRead_engines ..).trans (countCommonUe_engines ..)

theorem aeUpdate_engines (k : Nat) (f : FrameRec) (id : FrameId) (s : State) : (aeUpdate k f id s).2.engines = s.engines := by
  unfold aeUpdate
  split
  · rfl
  · dsimp only
    split <;> rfl

/-- A result of auto-exposure counts the version that its kernel has processed. -/
theorem aeResult_engines {id eff n : FrameId} {k : Nat} {x : SetSlot} {late : Bool} {s : State} (hslot : setSlotOf s id = some k)
    (hset : s.back.sets.getD k none = some x) (hplace : classFPlace s (some (id + 2)) = some (eff, late, n)) :
    (aeResult id s).engines = (countVersion 0x83 s).engines := by
  have hread : (aeUpdate k x.frame eff (countVersion 0x83 (readRecords k s))).2.engines = (countVersion 0x83 s).engines := by
    rw [aeUpdate_engines, countVersion, updKernel, readRecords_engines]
    rfl
  unfold aeResult
  simp only [hslot, hset, hplace]
  split <;> split <;> exact hread

theorem firstSetRow_facts : setSlotOf firstSetRow 0 = some 0 ∧ (firstSetRow.back.sets.getD 0 none).isSome = true ∧
    (classFPlace firstSetRow (some (0 + 2))).isSome = true ∧
    ((countVersion 0x83 firstSetRow).engines.vendor.getD 3 {}).versions = 1 ∧ (firstSetRow.engines.vendor.getD 3 {}).versions = 0 := by
  refine ⟨by decide +kernel, by decide +kernel, by decide +kernel, by decide +kernel, by decide +kernel⟩

/-- Refutes O33: a result of auto-exposure counts a version of kernel 0x83, which is among the engines. -/
theorem not_triggersPlaceTheNextBoundary : ¬ Obligations.TriggersPlaceTheNextBoundary := by
  unfold Obligations.TriggersPlaceTheNextBoundary
  intro h
  obtain ⟨-, -, -, -, -, -, -, -, -, -, hae⟩ := h
  obtain ⟨-, -, -, hkept⟩ := hae 0 firstSetRow
  obtain ⟨hslot, hset, hplace, hone, hzero⟩ := firstSetRow_facts
  obtain ⟨x, hset⟩ := Option.isSome_iff_exists.1 hset
  obtain ⟨⟨eff, late, n⟩, hplace⟩ := Option.isSome_iff_exists.1 hplace
  rw [← aeResult_engines hslot hset hplace, hkept, hzero] at hone
  exact absurd hone (by decide)

end Sys2Proof.Machine
end
